-- ==== Sys2Proof/Word.lean ====
section
/-!
DEFINITION. The word types of the Worfeust package and the plainest helpers over them.
Bit 0 is the least significant bit and multi-byte values are little-endian (R18).
-/
namespace Sys2Proof

/-- A 64-bit register value (R19: every register is 64 bits wide). -/
abbrev Word := BitVec 64

/-- One byte of memory. -/
abbrev Byte := BitVec 8

/-- A bit range `lo + w - 1 : lo` of a natural number (R18: bit ranges are written high:low). -/
def bits (v lo w : Nat) : Nat := v / 2 ^ lo % 2 ^ w

/-- One bit of a natural number. -/
def bitAt (v i : Nat) : Bool := v / 2 ^ i % 2 == 1

/-- `v` with the bit range `lo + w - 1 : lo` replaced by `x`. -/
def setBits (v lo w x : Nat) : Nat :=
  v - bits v lo w * 2 ^ lo + x % 2 ^ w * 2 ^ lo

/-- Little-endian value of a list of bytes (R18). -/
def leNat : List Byte → Nat
  | [] => 0
  | b :: bs => b.toNat + 256 * leNat bs

/-- The `n` little-endian bytes of a value (R18). -/
def leBytes : Nat → Nat → List Byte
  | 0, _ => []
  | n + 1, v => BitVec.ofNat 8 v :: leBytes n (v / 256)

/-- The value that a sparse table holds for a key, or the default. -/
def look {κ ν : Type} [DecidableEq κ] (l : List (κ × ν)) (k : κ) (d : ν) : ν :=
  match l with
  | [] => d
  | p :: r => if p.1 = k then p.2 else look r k d

/-- A sparse table with one key's value replaced, or added at the end. -/
def put {κ ν : Type} [DecidableEq κ] (l : List (κ × ν)) (k : κ) (v : ν) : List (κ × ν) :=
  match l with
  | [] => [(k, v)]
  | p :: r => if p.1 = k then (k, v) :: r else p :: put r k v

/-- A sparse table without one key. -/
def del {κ ν : Type} [DecidableEq κ] (l : List (κ × ν)) (k : κ) : List (κ × ν) :=
  l.filter (fun p => p.1 ≠ k)

/-- Whether a sparse table holds a key. -/
def has {κ ν : Type} [DecidableEq κ] (l : List (κ × ν)) (k : κ) : Bool :=
  l.any (fun p => p.1 = k)

/-- A list with position `i` replaced. -/
def setAt {α : Type} (l : List α) (i : Nat) (x : α) : List α := l.set i x

end Sys2Proof
end

