-- ==== Sys2Proof/Syntax.lean ====
section
/-!
DEFINITION. The commands that the package takes from outside and the events of its own engines: one
constructor per row of the table of operations and events (95_what_each_step_holds.md), with the
operands that choose where and with what input the step happens.
-/
namespace Sys2Proof

/-- The commands, one constructor per row of the table of operations and events. -/
inductive Instr where
  /-- POWER_GOOD_RISE (R591): PWRGOOD rises: the tick is set to zero, straps are sampled and start-up begins. -/
  | powerGoodRise (straps : Fin 4096)
  /-- POWER_GOOD_LOSS (R592): PWRGOOD falls for longer than 1 µs: every clock but the tick domain stops and all state outside the management island is lost. -/
  | powerGoodLoss
  /-- VMGMT_RISE (R599): The standby rail rises and the VMGMT-reset registers are loaded. -/
  | vmgmtRise
  /-- PACKAGE_RESET (R593): RESET_N is held low for longer than 1 µs while PWRGOOD is high: the package resets and start-up runs again. -/
  | packageReset
  /-- PERST_ASSERT (R593): PERSTn_N is asserted: fundamental reset of PCIe port n. -/
  | perstAssert (p : Fin 2)
  /-- PERST_RELEASE (R593): PERSTn_N is released: port n retrains, or waits for start-up. -/
  | perstRelease (p : Fin 2)
  /-- RAIL_FAULT (R590): A main rail is out of its 90 to 110 % band for 2 µs: clocks are gated, FAULT_N is asserted and PKG_ID.RAILS is recorded. -/
  | railFault (rail : Fin 256) (high : Bool)
  /-- SYSCLK_LOSS (R597): SYSCLK is absent: recorded as KIND 3 and handled as a rail fault. -/
  | sysclkLoss
  /-- ZL_REFCLK_LOSS (R597): ZL_REFCLK is lost: every Zaskel port fails. -/
  | zlRefclkLoss
  /-- PCIE_REFCLK_LOSS (R597): PCIE_REFCLKn is lost: port n's link goes down. -/
  | pcieRefclkLoss (p : Fin 2)
  /-- FUSE_STAGE_DONE (R614): Fuses are loaded and configuration space is served; start-up enters ROM_TEST, or HALTED when DECOMMISSIONED. -/
  | fuseStageDone
  /-- ROM_TEST_DONE (R616): The signature tests of the privileged units end, with their outcomes applied. -/
  | romTestDone (rom ctl : Bool) (mgmt sched tcEcc ctxEcc : Fin 256) (pcs : List Nat) (got exp : Nat)
  /-- IMAGE_VERIFY_DONE (R621): An image slot is read and verified, with a fallback to the other slot on failure. -/
  | imageVerifyDone (a b : List Nat) (bodyA bodyB : Bool)
  /-- SPAN_TEST_DONE (R617): The span tests end: failing units are marked absent and banks are remapped to spares. -/
  | spanTestDone (spans : Fin 256) (cores pcs spares banks zls pcies : List Nat) (addr bit count : Nat)
  /-- FW_INIT_DONE (R614): Fenivar applies the retirement list, builds context 0 and the journal areas, and the package reaches READY. -/
  | fwInitDone
  /-- PKG_CTRL_HEARTBEAT (R36): The package control core writes its heartbeat word to span 0's management core every 100 µs. -/
  | pkgCtrlHeartbeat
  /-- TAKEOVER_START (R36): Span 0's management core sees no heartbeat for 1 ms and begins taking over the package control duties. -/
  | takeoverStart
  /-- TAKEOVER_COMPLETE (R37): The takeover completes: held mailbox words are acknowledged with TAKEOVER set. -/
  | takeoverComplete
  /-- MGMT_CORE_FAILURE (R39): A management core fails: span 4 takes span 0's duties, or the package raises a package fault. -/
  | mgmtCoreFailure (k : Fin 9)
  /-- DECK_EDGE_FAIL (R33): A deck edge fails and its paths are rerouted through the other row. -/
  | deckEdgeFail (a b : Fin 8)
  /-- CREDIT_TIMEOUT (R48): A sender has held zero credits for 10 ms while the receiver reports the class empty: treated as a failed span fabric. The class, what the receiver reports and the tick since which the sender has held none are operands. -/
  | creditTimeout (sp : Fin 8) (cls : Fin 4) (empty : Bool) (since : Nat)
  /-- LAUNCH_DELIVER (R95): A launch reaches a core and its kernel header is read and checked. -/
  | launchDeliver (sp : Fin 8) (co : Fin 16) (ctx : Nat)
  /-- LAUNCH_START_ENGINE (R97): An engine starts an unseeded launch once it has retired the previous q.end. -/
  | launchStartEngine (sp : Fin 8) (co : Fin 16) (sl : Fin 4) (e : Fin 5)
  /-- LAUNCH_START_SEEDED (R98): A seeded launch starts on all five engines together and the seed predicates are set. -/
  | launchStartSeeded (sp : Fin 8) (co : Fin 16) (sl : Fin 4)
  /-- LAUNCH_COMPLETE (R99): Every engine has retired its q.end and every signal is performed; completion is reported to the source. -/
  | launchComplete (sp : Fin 8) (co : Fin 16) (sl : Fin 4)
  /-- FETCH_BLOCK (R100): A fetch unit reads an aligned 128-byte block of commands into a queue's fetch buffer. -/
  | fetchBlock (sp : Fin 8) (co : Fin 16) (sl : Fin 4) (e : Fin 5)
  /-- COMMAND_DECODE (R106): A command takes a credit, enters its queue and is decoded and checked. -/
  | commandDecode (sp : Fin 8) (co : Fin 16) (sl : Fin 4) (e : Fin 5)
  /-- COMMAND_RESOLVE (R109): A command reaches its resolution point and reads its predicate: it issues, or it is skipped. -/
  | commandResolve (sp : Fin 8) (co : Fin 16) (sl : Fin 4) (e : Fin 5)
  /-- SPECULATIVE_READ (R128): A command ahead of its resolution point issues a pure read of normal memory into the tile cache. -/
  | speculativeRead (sp : Fin 8) (co : Fin 16) (sl : Fin 4) (idx k : Nat)
  /-- COMMAND_COMPLETE (R113): A command's effects complete and its completion signal, a release at its scope, is performed. -/
  | commandComplete (sp : Fin 8) (co : Fin 16) (sl : Fin 4) (e : Fin 5)
  /-- SIGNAL_ARRIVAL (R118): A tally addition arrives and lands in the resident slot, the stored record or the swapped-record sum, or is dropped. -/
  | signalArrival (n : Nat)
  /-- Q_NOP (R122): q.nop does nothing beyond its optional signal. -/
  | qNop (sp : Fin 8) (co : Fin 16) (sl : Fin 4) (e : Fin 5)
  /-- Q_END (R122): q.end ends the queue's stream for the current launch. -/
  | qEnd (sp : Fin 8) (co : Fin 16) (sl : Fin 4) (e : Fin 5)
  /-- TL_WAIT (R122): tl.wait blocks the queue until its local tally reaches the target. -/
  | tlWait (sp : Fin 8) (co : Fin 16) (sl : Fin 4) (e : Fin 5)
  /-- TL_WAIT_SATISFIED (R112): A blocked wait finds its tally has reached the target; it retires as an acquire. -/
  | tlWaitSatisfied (sp : Fin 8) (co : Fin 16) (sl : Fin 4) (e : Fin 5)
  /-- WAIT_TIMEOUT (R124): A tl.wait's timeout expires before its target is reached; the queue halts with WAIT_TIMEOUT. -/
  | waitTimeout (sp : Fin 8) (co : Fin 16) (sl : Fin 4) (e : Fin 5)
  /-- TL_SIGNAL (R122): tl.signal adds ADD to the named tally as a release. -/
  | tlSignal (sp : Fin 8) (co : Fin 16) (sl : Fin 4) (e : Fin 5)
  /-- TL_SET (R122): tl.set writes VALUE to a local tally. -/
  | tlSet (sp : Fin 8) (co : Fin 16) (sl : Fin 4) (e : Fin 5)
  /-- PR_SET (R122): pr.set writes a value to a predicate. -/
  | prSet (sp : Fin 8) (co : Fin 16) (sl : Fin 4) (e : Fin 5)
  /-- PR_CMP (R122): pr.cmp compares a local-memory operand with an immediate and writes the result to a predicate. -/
  | prCmp (sp : Fin 8) (co : Fin 16) (sl : Fin 4) (e : Fin 5)
  /-- PR_LOGIC (R122): pr.logic combines two predicates and writes the result to a third. -/
  | prLogic (sp : Fin 8) (co : Fin 16) (sl : Fin 4) (e : Fin 5)
  /-- PR_TALLY (R122): pr.tally samples whether a tally has reached its target into a predicate. -/
  | prTally (sp : Fin 8) (co : Fin 16) (sl : Fin 4) (e : Fin 5)
  /-- SLOT_HALT (R139): A CQ.SLOT_CTRL.HALT request stops a queue at its next resolution point. -/
  | slotHalt (sp : Fin 8) (co : Fin 16) (sl : Fin 4) (mask m : Nat)
  /-- SLOT_RESUME (R139): CQ.SLOT_CTRL.RESUME continues a queue in HALT_REQ from CQ.PC. -/
  | slotResume (sp : Fin 8) (co : Fin 16) (sl : Fin 4) (mask m : Nat)
  /-- SLOT_ABORT (R139): CQ.SLOT_CTRL.ABORT stops all five queues of the slot, discards pending launches and returns its credits. -/
  | slotAbort (sp : Fin 8) (co : Fin 16) (sl : Fin 4) (m : Nat)
  /-- QUEUE_ERROR_HANDLING (R138): On a queue-error interrupt Fenivar aborts the slot and reports the error with the work item's completion. -/
  | queueErrorHandling (sp : Fin 8) (co : Fin 16) (sl : Fin 4)
  /-- CORE_RETIRE (R141): A core is retired while it runs: it stops at once and its work items are replayed. -/
  | coreRetire (sp : Fin 8) (co : Fin 16)
  /-- TLY_SIGNAL (R144): A host write of TLY.SIGNAL adds an increment to a tally of the selected slot. -/
  | tlySignal (sp : Fin 8) (co : Fin 16) (tally : Fin 128) (add m : Nat)
  /-- NUMEV_CLEAR_ALL (R87): Zeroes the format counters and sticky bits of every context of the span. -/
  | numevClearAll (sp : Fin 8) (m : Nat)
  /-- NUMEV_CLEAR_CTX (R87): Zeroes the format counters and sticky bits of the context in NUMEV.CTX_SEL. -/
  | numevClearCtx (sp : Fin 8) (m : Nat)
  /-- MX_MMA (R154): mx.mma computes D := A·B + C by the canonical dot order and writes D in its output format. -/
  | mxMma (sp : Fin 8) (co : Fin 16) (sl : Fin 4)
  /-- VX_ADD (R162): vx.add computes A + B elementwise. -/
  | vxAdd (sp : Fin 8) (co : Fin 16) (sl : Fin 4)
  /-- VX_SUB (R162): vx.sub computes A − B elementwise. -/
  | vxSub (sp : Fin 8) (co : Fin 16) (sl : Fin 4)
  /-- VX_MUL (R162): vx.mul computes A × B elementwise. -/
  | vxMul (sp : Fin 8) (co : Fin 16) (sl : Fin 4)
  /-- VX_FMA (R162): vx.fma computes A × B + D with one rounding. -/
  | vxFma (sp : Fin 8) (co : Fin 16) (sl : Fin 4)
  /-- VX_AXPY (R162): vx.axpy computes IMM × A + B with one rounding. -/
  | vxAxpy (sp : Fin 8) (co : Fin 16) (sl : Fin 4)
  /-- VX_MIN (R162): vx.min computes the elementwise minimum. -/
  | vxMin (sp : Fin 8) (co : Fin 16) (sl : Fin 4)
  /-- VX_MAX (R162): vx.max computes the elementwise maximum. -/
  | vxMax (sp : Fin 8) (co : Fin 16) (sl : Fin 4)
  /-- VX_CVT (R162): vx.cvt converts A to FMT_D and SCM_D. -/
  | vxCvt (sp : Fin 8) (co : Fin 16) (sl : Fin 4)
  /-- VX_FILL (R162): vx.fill writes IMM, converted, to D. -/
  | vxFill (sp : Fin 8) (co : Fin 16) (sl : Fin 4)
  /-- VX_EXP2 (R162): vx.exp2 computes a correctly rounded exp2 of A. -/
  | vxExp2 (sp : Fin 8) (co : Fin 16) (sl : Fin 4)
  /-- VX_LOG2 (R162): vx.log2 computes a correctly rounded log2 of A. -/
  | vxLog2 (sp : Fin 8) (co : Fin 16) (sl : Fin 4)
  /-- VX_RCP (R162): vx.rcp computes a correctly rounded reciprocal of A. -/
  | vxRcp (sp : Fin 8) (co : Fin 16) (sl : Fin 4)
  /-- VX_SQRT (R162): vx.sqrt computes a correctly rounded square root of A. -/
  | vxSqrt (sp : Fin 8) (co : Fin 16) (sl : Fin 4)
  /-- VX_RSQRT (R162): vx.rsqrt computes a correctly rounded reciprocal square root of A. -/
  | vxRsqrt (sp : Fin 8) (co : Fin 16) (sl : Fin 4)
  /-- VX_ACT (R164): vx.act applies the activation that FUNC selects, by its exact composition. -/
  | vxAct (sp : Fin 8) (co : Fin 16) (sl : Fin 4)
  /-- VX_RSUM (R163): vx.rsum reduces each row to its sum or its sum of squares in the fixed lane order. -/
  | vxRsum (sp : Fin 8) (co : Fin 16) (sl : Fin 4)
  /-- VX_RMAX (R163): vx.rmax reduces each row to its maximum. -/
  | vxRmax (sp : Fin 8) (co : Fin 16) (sl : Fin 4)
  /-- VX_TR (R162): vx.tr transposes A into D. -/
  | vxTr (sp : Fin 8) (co : Fin 16) (sl : Fin 4)
  /-- VX_ROT (R162): vx.rot rotates element pairs of A by the cos and sin pairs in B. -/
  | vxRot (sp : Fin 8) (co : Fin 16) (sl : Fin 4)
  /-- VX_IADD (R162): vx.iadd adds INT32 or INT64 values with wrapping. -/
  | vxIadd (sp : Fin 8) (co : Fin 16) (sl : Fin 4)
  /-- MEM_FLUSH (R169): mem.flush writes back dirty lines of a range in the span's tile cache. -/
  | memFlush (sp : Fin 8) (co : Fin 16) (sl : Fin 4)
  /-- MEM_INVAL (R169): mem.inval discards the lines of a range, writing back dirty lines that lie only partly inside it. -/
  | memInval (sp : Fin 8) (co : Fin 16) (sl : Fin 4)
  /-- MEM_FLINV (R169): mem.flinv writes back dirty lines of a range and discards every line. -/
  | memFlinv (sp : Fin 8) (co : Fin 16) (sl : Fin 4)
  /-- TILE_CACHE_EVICTION (R167): A tile cache evicts a line and writes back its dirty bytes with byte enables. -/
  | tileCacheEviction (sp : Fin 8) (n : Nat)
  /-- TC_FLUSH_ALL (R175): TC.CTRL.FLUSH_ALL starts a write-back of every dirty line of the span's tile cache. -/
  | tcFlushAll (sp : Fin 8) (m : Nat)
  /-- TC_FLUSH_ALL_DONE (R175): A FLUSH_ALL completes and FLUSH_BUSY clears. -/
  | tcFlushAllDone (sp : Fin 8)
  /-- LD_T (R186): ld.t copies a box of a tensor into local memory, with optional conversion. -/
  | ldT (sp : Fin 8) (co : Fin 16) (sl : Fin 4)
  /-- LD_G (R194): ld.g gathers slices of a tensor, selected by an index list, into local memory. -/
  | ldG (sp : Fin 8) (co : Fin 16) (sl : Fin 4)
  /-- LD_B (R186): ld.b copies LEN bytes from memory into local memory. -/
  | ldB (sp : Fin 8) (co : Fin 16) (sl : Fin 4)
  /-- ST_T (R193): st.t copies local rows into a box of a tensor, with optional conversion. -/
  | stT (sp : Fin 8) (co : Fin 16) (sl : Fin 4)
  /-- ST_S (R193): st.s scatters local slices to tensor slices selected by an index list. -/
  | stS (sp : Fin 8) (co : Fin 16) (sl : Fin 4)
  /-- ST_RED (R192): st.red sends reducer updates of local rows into a box of a tensor. -/
  | stRed (sp : Fin 8) (co : Fin 16) (sl : Fin 4)
  /-- ST_SRED (R192): st.sred sends reducer updates of local slices into indexed slices. -/
  | stSred (sp : Fin 8) (co : Fin 16) (sl : Fin 4)
  /-- ST_B (R186): st.b copies LEN bytes from local memory into memory. -/
  | stB (sp : Fin 8) (co : Fin 16) (sl : Fin 4)
  /-- DMAEV_CLEAR_ALL (R207): Zeroes the data-movement counters of every context of the span. -/
  | dmaevClearAll (sp : Fin 8) (m : Nat)
  /-- DMAEV_CLEAR_CTX (R207): Zeroes the data-movement counters of the context in DMAEV.CTX_SEL. -/
  | dmaevClearCtx (sp : Fin 8) (m : Nat)
  /-- PIER_REQUEST_ISSUE (R225): A pseudo-channel controller chooses an eligible pier-path request and issues it to DRAM. -/
  | pierRequestIssue (sp : Fin 8) (pc : Fin 64)
  /-- PARTITION_TOKEN_REFILL (R224): Each partition bucket and the express bucket gain their refill of column tokens, up to their depth. -/
  | partitionTokenRefill (sp : Fin 8) (pc : Fin 64)
  /-- REDUCER_UPDATE (R227): An unordered reducer update is applied indivisibly to an element in the reducer buffer. -/
  | reducerUpdate (cell : Nat) (op fmt val ctx : Nat)
  /-- ORDERED_UPDATE_ACCEPT (R231): An ordered update is written as a staging entry with its tag and is accepted. -/
  | orderedUpdateAccept (cell : Nat) (tag op fmt val ctx item : Nat)
  /-- REDUCER_LINE_EVICT (R228): A reducer-buffer line is written back on eviction. -/
  | reducerLineEvict (sp : Fin 8) (pc : Fin 64) (n : Nat)
  /-- SETTLE_ALL (R238): PCC.RED_CTRL.SETTLE_ALL settles every staged line. -/
  | settleAll (sp : Fin 8) (pc : Fin 64) (m : Nat)
  /-- BUF_WB (R238): PCC.RED_CTRL.BUF_WB writes back every dirty line of the reducer buffer. -/
  | bufWb (sp : Fin 8) (pc : Fin 64) (m : Nat)
  /-- ALERT (R216): The die asserts ALERT: the controller sends the recovery sequence and replays from the discarded command. -/
  | alert (sp : Fin 8) (pc : Fin 64) (n : Nat) (w : Bool)
  /-- READ_PARITY_ERROR (R216): A read beat fails DPAR: it is discarded and the read reissued. -/
  | readParityError (sp : Fin 8) (pc : Fin 64) (n : Nat)
  /-- PIER_RETRAIN (R217): A command fails a fifth time and the controller retrains its pier group. -/
  | pierRetrain (sp : Fin 8) (pc : Fin 64)
  /-- PIER_RETRAIN_DONE (R217): Retraining ends and the command is replayed once more; a further failure fails the pseudo-channel. -/
  | pierRetrainDone (sp : Fin 8) (pc : Fin 64) (ok : Bool)
  /-- BAND_CHANGE (R220): A stack's band rises on a reading, or falls after 1 ms of lower readings; all 64 controllers change together. -/
  | bandChange (sp : Fin 8)
  /-- REFRESH_INTERVAL (R222): A tREFI interval boundary raises the owed refresh count. -/
  | refreshInterval (sp : Fin 8) (pc : Fin 64)
  /-- REFRESH_ISSUE (R222): The controller issues a refresh command when every bank is precharged, lowering the owed count. -/
  | refreshIssue (sp : Fin 8) (pc : Fin 64)
  /-- SPARE_START (R235): PCC.SPARE.START begins copying a bank to a spare. -/
  | spareStart (sp : Fin 8) (pc : Fin 64) (lbank : Fin 32) (spare : Fin 4) (m : Nat)
  /-- SPARE_SWITCH (R235): The copy completes and the spare takes the logical bank's place at a stitch boundary. -/
  | spareSwitch (sp : Fin 8) (pc : Fin 64) (ok : Bool)
  /-- PC_RETIRE (R236): A pseudo-channel is retired: its pages read absent, reads return poison and writes are dropped. -/
  | pcRetire (sp : Fin 8) (pc : Fin 64)
  /-- BROADCAST (R243): Operand vectors are broadcast over DQ into a staging half of every BLU of a pseudo-channel. -/
  | broadcast (sp : Fin 8) (pc : Fin 64)
  /-- SEQUENCE_START (R255): The controller starts or restores the waiting sequence of highest priority on its BLU chain. -/
  | sequenceStart (sp : Fin 8) (pc : Fin 64)
  /-- STITCH_START (R250): A stitch starts on the lowest free bank when a streaming slot is free and the refresh condition holds; `bad`: a staging or operand register fails its parity (R275). -/
  | stitchStart (sp : Fin 8) (pc : Fin 64) (bad : Bool)
  /-- STITCH_END (R248): A stitch ends with its bank precharged, and queued pier-path requests to the bank are served. -/
  | stitchEnd (sp : Fin 8) (pc : Fin 64) (k : Nat)
  /-- CHAIN_DRAIN (R246): Selected accumulators flow down the chain and leave on DQ; chain words by number that fail their parity once, or twice (R247). -/
  | chainDrain (sp : Fin 8) (pc : Fin 64) (resent lost : List Nat)
  /-- CHAIN_REDUCE (R246): Participating BLUs add their accumulators along the chain and the result leaves at the chain end; chain words by number that fail their parity once, or twice (R247). -/
  | chainReduce (sp : Fin 8) (pc : Fin 64) (resent lost : List Nat)
  /-- SEQUENCE_END (R289): A sequence has run all its stitches and drains; its record is freed. -/
  | sequenceEnd (sp : Fin 8) (pc : Fin 64)
  /-- SEQUENCE_SUSPEND (R271): After its quantum, the running sequence is saved and another restored or started. -/
  | sequenceSuspend (sp : Fin 8) (pc : Fin 64)
  /-- NBS_POISON_PULSE (R276): An NBS pulse makes the controller read the die's event record at the bank's next stitch boundary. -/
  | nbsPoisonPulse (sp : Fin 8) (pc : Fin 64)
  /-- BURNISH_ALL (R269): PCC.UNSEAL_CTRL.BURNISH_ALL burnishes every row of the unsealed-row table as a system sequence. -/
  | burnishAll (sp : Fin 8) (pc : Fin 64) (m : Nat)
  /-- NB_ISSUE (R288): An NB command, with its hazards clear, invalidates its output ranges in every tile cache and sends its sequences. -/
  | nbIssue (sp : Fin 8) (co : Fin 16) (sl : Fin 4)
  /-- NB_FENCE (R293): nb.fence retires when every earlier NB command of its queue has completed. -/
  | nbFence (sp : Fin 8) (co : Fin 16) (sl : Fin 4)
  /-- NB_GEMV (R295): nb.gemv computes matrix-vector products in the banks and drains the results. -/
  | nbGemv (sp : Fin 8) (pc : Fin 64)
  /-- NB_GATHER (R301): nb.gather copies indexed table rows within the banks. -/
  | nbGather (sp : Fin 8) (pc : Fin 64)
  /-- NB_GRED (R302): nb.gred sums bags of indexed table rows in the banks and drains them. -/
  | nbGred (sp : Fin 8) (pc : Fin 64)
  /-- NB_AXPY (R303): nb.axpy updates y := αx + βy in every bank stream. -/
  | nbAxpy (sp : Fin 8) (pc : Fin 64)
  /-- NB_NORM (R304): nb.norm forms the statistics of vectors or applies a normalisation. -/
  | nbNorm (sp : Fin 8) (pc : Fin 64)
  /-- NB_ATTN (R306): nb.attn computes softmax partials over one sequence's KV pages and drains them. -/
  | nbAttn (sp : Fin 8) (pc : Fin 64)
  /-- NB_ADAM (R310): nb.adam performs the optimiser update in place, with BF16 and E4M3 copies. -/
  | nbAdam (sp : Fin 8) (pc : Fin 64)
  /-- NB_ROWOP (R311): nb.rowop applies sense-amplifier row primitives to row groups. -/
  | nbRowop (sp : Fin 8) (pc : Fin 64)
  /-- NB_BURNISH (R312): nb.burnish reseals every stale column of its row groups. -/
  | nbBurnish (sp : Fin 8) (pc : Fin 64)
  /-- SCOPE_CHK_ENABLE (R345): Setting TLY.SCOPE_CHK.ENABLE from 0 to 1 clears every tally's record. -/
  | scopeChkEnable (sp : Fin 8) (co : Fin 16) (m : Nat)
  /-- STEP_PREPARE (R440): After a GEN step completes, Fenivar delivers tokens, updates the batch, allocates pages, writes the step area and arms the entry. -/
  | stepPrepare (g : Nat)
  /-- FILL_PREPARE (R440): After a FILL firing, first tokens of FINAL slots are delivered and the next chunks chosen. -/
  | fillPrepare (g : Nat)
  /-- KV_SWAP_OUT (R375): A pre-empted sequence's unshared pages are copied to the host swap area. -/
  | kvSwapOut (idx : Nat)
  /-- KV_SWAP_OUT_DONE (R375): Every swap copy completes; the sequence becomes SWAPPED and its blocks are freed. -/
  | kvSwapOutDone (idx : Nat)
  /-- KV_SWAP_IN (R377): With space free, a swapped sequence's pages are copied back onto new blocks. -/
  | kvSwapIn (idx : Nat)
  /-- KV_SWAP_IN_DONE (R377): Every copy back completes; the sequence is RESIDENT and rejoins the batch. -/
  | kvSwapInDone (idx : Nat)
  /-- CTX_EVICT (R387): CTXS.EVICT evicts a slot's context to the store, optionally saving its window. -/
  | ctxEvict (sp : Fin 8) (co : Fin 16) (sl : Fin 4) (save : Bool) (m : Nat)
  /-- CTX_SWITCH (R388): CTXS.SWITCH loads a parked context into a free slot and continues its queues. -/
  | ctxSwitch (sp : Fin 8) (co : Fin 16) (sl : Fin 4) (ctx base m : Nat)
  /-- RECORD_SWAP_OUT (R385): Fenivar swaps a parked record to DRAM. -/
  | recordSwapOut (sp : Fin 8) (ctx : Nat)
  /-- RECORD_SWAP_IN (R385): Fenivar returns a swapped record to the store, adding pending tally sums. -/
  | recordSwapIn (sp : Fin 8) (ctx : Nat)
  /-- RESIDENT_STALL (R392): Every slot of a core has been blocked for STALL_LIMIT while a stored record is runnable; the interrupt is raised. -/
  | residentStall (sp : Fin 8) (co : Fin 16)
  /-- RESIDENT_STALL_RESPONSE (R393): Fenivar switches a runnable record in, evicting the longest-blocked slot if needed. -/
  | residentStallResponse (sp : Fin 8) (co : Fin 16)
  /-- TRANSLATION_FAULT (R405): A translation fault stops one queue at its restart point and the context is pre-empted. -/
  | translationFault (sp : Fin 8) (co : Fin 16) (sl : Fin 4) (e : Fin 5)
  /-- FAULT_RECORD_WRITE (R406): A fault record is written to the span's fault ring when room and ENABLE allow. -/
  | faultRecordWrite (sp : Fin 8)
  /-- FRESUME (R407): XLT.FRESUME retries the named faulted queues from their restart points. -/
  | fresume (sp : Fin 8) (co : Fin 16) (ctx eng m : Nat)
  /-- FRESUME_DISCARD (R407): XLT.FRESUME with DISCARD ends the named queues with XLATE_FATAL. -/
  | fresumeDiscard (sp : Fin 8) (co : Fin 16) (ctx eng m : Nat)
  /-- FRING_ENABLE (R412): A write of XLT.FRING_CTRL.ENABLE stops or starts fault-record writing. -/
  | fringEnable (sp : Fin 8) (on : Bool) (m : Nat)
  /-- XINV_RANGE (R401): XINV.CMD KIND 0 starts invalidating a range of one ASID. -/
  | xinvRange (asid m : Nat)
  /-- XINV_ASID (R401): XINV.CMD KIND 1 starts invalidating one whole ASID. -/
  | xinvAsid (asid m : Nat)
  /-- XINV_ALL (R401): XINV.CMD KIND 2 starts invalidating every ASID. -/
  | xinvAll (m : Nat)
  /-- XINV_DONE (R401): Every translation cache has dropped the entries and affected transactions are complete; BUSY clears. -/
  | xinvDone
  /-- PAGE_MOVE (R403): Fenivar moves a mapped page by invalidating, flushing, copying and remapping it. -/
  | pageMove (ctx va da : Nat)
  /-- FUNCTION_LEVEL_RESET (R410): An FLR or VF disable destroys every context bound to the function. -/
  | functionLevelReset (fn : Fin 128)
  /-- FRAME_START (R414): A cadence frame begins as a work or idle frame; pending table switches and duty changes apply. -/
  | frameStart
  /-- ENTRY_FIRE (R423): A schedule entry reaches its START tick and fires, is skipped or is deferred. -/
  | entryFire (sp : Fin 8) (idx : Nat)
  /-- DEFERRED_FIRE (R425): A deferred firing launches once its condition ends. -/
  | deferredFire (sp : Fin 8) (idx : Nat)
  /-- SCHED_LOAD (R419): SCHED.LOAD starts reading and validating a table image. -/
  | schedLoad (sp : Fin 8) (m : Nat)
  /-- SCHED_VALIDATE_DONE (R420): Validation ends, staging the table or recording the first failure. -/
  | schedValidateDone (sp : Fin 8)
  /-- FRAME_ACTIVATE (R419): FRAME.CTRL.ACTIVATE requests a table switch at ACT_AT. -/
  | frameActivate (m : Nat)
  /-- FRAME_CLOCK_START (R427): FRAME.CTRL.START starts or restarts the frame clock. -/
  | frameClockStart (m : Nat)
  /-- FRAME_STOP (R427): FRAME.CTRL.STOP stops the frame clock at the end of the current frame. -/
  | frameStop (m : Nat)
  /-- SCHED_ARM (R424): A write of SCHED.ARM arms entries for their next firing. -/
  | schedArm (sp : Fin 8) (w : Fin 64) (mask m : Nat)
  /-- ZL_ENABLE (R453): Setting ZL.CFG.ENABLE moves a port from DISABLED to DETECT. -/
  | zlEnable (p : Fin 12) (m : Nat)
  /-- ZL_SIGNAL_DETECT (R453): A partner's signal is found on every lane and the port enters EQUALISE. -/
  | zlSignalDetect (p : Fin 12)
  /-- ZL_EQUALISE_DONE (R451): Equalisation ends, at ×8 or ×4, and the port enters ALIGN. -/
  | zlEqualiseDone (p : Fin 12) (bad : Fin 256)
  /-- ZL_ALIGN_DONE (R453): Deskew, FEC lock and flit lock complete and the port enters NEGOTIATE. -/
  | zlAlignDone (p : Fin 12)
  /-- NEG (R455): A NEG packet is received and the version, package number and credits are settled. -/
  | neg (p : Fin 12)
  /-- ZL_STATE_TIMEOUT (R453): A port's state time limit expires and the port enters FAILED. -/
  | zlStateTimeout (p : Fin 12)
  /-- ZL_RETRAIN_DONE (R453): A retrain ends, returning the port to ACTIVE or to FAILED. -/
  | zlRetrainDone (p : Fin 12) (ok : Bool)
  /-- ZL_RESTART (R484): ZL.CTRL.RESTART moves a FAILED port to DETECT. -/
  | zlRestart (p : Fin 12) (m : Nat)
  /-- ZL_RETRAIN (R484): ZL.CTRL.RETRAIN moves an ACTIVE port to RETRAIN. -/
  | zlRetrain (p : Fin 12) (m : Nat)
  /-- FLIT_TRANSMIT (R457): A port sends a flit of packets for which it holds credits. -/
  | flitTransmit (p : Fin 12) (cls : Fin 7)
  /-- FLIT_RECEIVE (R459): A flit is received and checked; acks, NAKs and returned credits are applied; `crc` is the check field as received (R457). -/
  | flitReceive (p : Fin 12) (ok : Bool) (h : Nat) (units : List Nat) (crc : Nat)
  /-- PACKET_ROUTE (R461): A routed packet not for this package leaves through a port chosen by ZROUTE. -/
  | packetRoute (p : Fin 12)
  /-- LINK_STALL (R461): Zero credits for 10 ms with an empty partner buffer fails the port with LINK_STALL. -/
  | linkStall (p : Fin 12) (cls : Fin 7)
  /-- SEND_DESC_POSTED (R465): The send engine finds a posted descriptor at HEAD and reads it. -/
  | sendDescPosted (sp : Fin 8) (r : Fin 64)
  /-- SEND_DESC_START (R467): The send engine checks a descriptor, reads its source and hands packets to the ports. -/
  | sendDescStart (sp : Fin 8) (r : Fin 64)
  /-- SEND_DESC_COMPLETE (R467): The last packet of a descriptor is handed over: the completion addition is made and HEAD advances. -/
  | sendDescComplete (sp : Fin 8) (r : Fin 64)
  /-- ZRING_ENABLE (R469): A write of ZRING.CFG.ENABLE stops a ring or resumes it at HEAD. -/
  | zringEnable (sp : Fin 8) (r : Fin 64) (on : Bool) (m : Nat)
  /-- WR (R472): A consumed WR packet writes its data through its window and adds its bytes to the tally. -/
  | wr (p : Fin 12)
  /-- RED (R472): A consumed RED packet applies its elements at the reducers and adds to the tally. -/
  | red (p : Fin 12)
  /-- SIG (R472): A consumed SIG packet adds INC to the window's tally. -/
  | sig (p : Fin 12)
  /-- ERR (R469): An ERR packet arrives for a ring: it is recorded, and halts the ring unless ORPHAN. -/
  | err (p : Fin 12)
  /-- ZWIN_INVAL (R464): ZWIN.INVAL starts invalidating cached window entries. -/
  | zwinInval (all : Bool) (idx : Fin 4096) (m : Nat)
  /-- ZWIN_INVAL_DONE (R464): The window invalidation completes and BUSY clears. -/
  | zwinInvalDone
  /-- KEY_BEAT_SEND (R476): A package sends down beats and up beats at least once per 10,000 ticks. -/
  | keyBeatSend
  /-- KEY (R478): A member compares a parent's down beat with its cadence time and adjusts DELTA, or handles an up beat. -/
  | key (p : Fin 12)
  /-- ECHO_SEND (R477): A port sends an ECHO at least every 1,000,000 ticks. -/
  | echoSend (p : Fin 12)
  /-- ECHO (R477): An ECHO is answered, or its reply computes the one-way delay. -/
  | echo (p : Fin 12)
  /-- HOLDOVER_START (R480): No parent beat for 25,000 ticks: the member enters HOLDOVER and may change parent. -/
  | holdoverStart
  /-- HOLDOVER_LOST (R480): After 2 ms of holdover the frame clock stops and LOST is set. -/
  | holdoverLost
  /-- DOORBELL (R497): A doorbell write sets a submission ring's TAIL. -/
  | doorbell (fn : Fin 128) (q : Fin 16) (tail : Nat)
  /-- SUBMISSION_ENTRY_READ (R498): A submission entry is read and checked; a refusal halts the ring with a REFUSED record. -/
  | submissionEntryRead (fn : Fin 128) (q : Fin 16) (words : List Nat)
  /-- ENTRY_ACCEPT (R499): An entry is recorded in the journal, takes its sequence number and receives ACCEPT. -/
  | entryAccept (fn : Fin 128) (q : Fin 16)
  /-- CQ_RECORD_WRITE (R502): A completion record is written when the completion ring has room. -/
  | cqRecordWrite (fn : Fin 128) (q : Fin 16)
  /-- CQ_STALL (R502): A completion ring has been full for 100 ms and CQ_STALL is set. -/
  | cqStall (fn : Fin 128) (q : Fin 16)
  /-- SQ_ENABLE (R501): A write of FN.SQ_CFG.ENABLE stops a ring or restarts it from HEAD. -/
  | sqEnable (fn : Fin 128) (q : Fin 16) (on : Bool)
  /-- PCIE_PORT_FAIL (R506): A PCIe port fails: its rings stop and its in-flight work is held for replay. -/
  | pciePortFail (p : Fin 2) (fatal : Bool)
  /-- APERTURE_READ (R494): A host reads device memory through the aperture. -/
  | apertureRead (p : Fin 2) (x : Nat) (len : Fin 4097)
  /-- APERTURE_WRITE (R494): A host writes device memory through the aperture. -/
  | apertureWrite (p : Fin 2) (x : Nat) (data : List Byte)
  /-- CTX_CREATE (R509): Mailbox command creating a context from a descriptor. -/
  | ctxCreate (fn : Fin 128) (k : Fin 8) (slow : Bool)
  /-- CTX_DESTROY (R509): Mailbox command destroying a context. -/
  | ctxDestroy (fn : Fin 128) (k : Fin 8) (slow : Bool)
  /-- CTX_PLACE (R656): Mailbox command creating a parked record on a span. -/
  | ctxPlace (fn : Fin 128) (k : Fin 8) (slow : Bool)
  /-- CTX_REBIND (R506): Mailbox command rebinding a context to a function and replaying its held items. -/
  | ctxRebind (fn : Fin 128) (k : Fin 8) (slow : Bool)
  /-- XLT_INVAL (R509): Mailbox command invalidating translations of the function's ASIDs. -/
  | xltInval (fn : Fin 128) (k : Fin 8) (slow : Bool)
  /-- WIN_OPEN (R509): Mailbox command opening a remote window entry. -/
  | winOpen (fn : Fin 128) (k : Fin 8) (slow : Bool)
  /-- WIN_CLOSE (R509): Mailbox command closing a remote window entry. -/
  | winClose (fn : Fin 128) (k : Fin 8) (slow : Bool)
  /-- SWAP_AREA (R509): Mailbox command registering the host swap area. -/
  | swapArea (fn : Fin 128) (k : Fin 8) (slow : Bool)
  /-- MODEL_CFG (R509): Mailbox command configuring a model's epoch buffers and EPOCH_HOLD. -/
  | modelCfg (fn : Fin 128) (k : Fin 8) (slow : Bool)
  /-- GROUP_CFG (R438): Mailbox command configuring a serving group. -/
  | groupCfg (fn : Fin 128) (k : Fin 8) (slow : Bool)
  /-- EPOCH_PUBLISH (R443): Mailbox command publishing a model's next weight epoch. -/
  | epochPublish (fn : Fin 128) (k : Fin 8) (slow : Bool)
  /-- ADAPTER_LOAD (R444): ADAPTER operation LOAD creates generation 1 of an adapter. -/
  | adapterLoad (fn : Fin 128) (k : Fin 8) (slow : Bool)
  /-- ADAPTER_REPLACE (R444): ADAPTER operation REPLACE creates and makes current the next generation. -/
  | adapterReplace (fn : Fin 128) (k : Fin 8) (slow : Bool)
  /-- ADAPTER_DELETE (R444): ADAPTER operation DELETE leaves the handle without a current generation. -/
  | adapterDelete (fn : Fin 128) (k : Fin 8) (slow : Bool)
  /-- PREFIX_RELEASE (R445): Mailbox command releasing a cached prefix. -/
  | cachedRelease (fn : Fin 128) (k : Fin 8) (slow : Bool)
  /-- REQ_CANCEL (R447): Mailbox command cancelling a request. -/
  | reqCancel (fn : Fin 128) (k : Fin 8) (slow : Bool)
  /-- VERSION (R509): Mailbox command returning the command-set version. -/
  | version (fn : Fin 128) (k : Fin 8)
  /-- POLL (R511): Mailbox command polling a progress token. -/
  | poll (fn : Fin 128) (k : Fin 8) (slow : Bool)
  /-- TOKEN_EXPIRY (R511): An uncollected final result expires 60 s after it becomes available. -/
  | tokenExpiry
  /-- REIN_CLAIM (R514): An eligible master claims unheld reins. -/
  | reinClaim (m : Nat)
  /-- REIN_ACCEPT (R514): The handover target accepts and becomes the holder. -/
  | reinAccept (m : Nat)
  /-- REIN_RELEASE (R514): The holder releases the reins. -/
  | reinRelease (m : Nat)
  /-- HANDOVER_START (R514): The holder writes OWN.HANDOVER.TARGET with a master number to start a handover. -/
  | handoverStart (m : Nat) (target : Fin 8)
  /-- HANDOVER_CANCEL (R514): The holder writes TARGET 7 to cancel a pending handover. -/
  | handoverCancel (m : Nat)
  /-- HANDOVER_LAPSE (R514): No acceptance within 100 ms: the handover lapses. -/
  | handoverLapse
  /-- HEARTBEAT (R514): OWN.HEARTBEAT.BEAT records a holder heartbeat. -/
  | heartbeat (m : Nat)
  /-- HEARTBEAT_LAPSE (R514): 500 ms without a heartbeat reopens the election. -/
  | heartbeatLapse
  /-- I3C_REG_READ (R516): An I3C private write of form 0x01 reads a register-window offset. -/
  | i3cRegRead (len off : Nat)
  /-- I3C_REG_WRITE (R516): An I3C private write of form 0x02 writes a register-window offset. -/
  | i3cRegWrite (len off v : Nat)
  /-- I3C_RESULT_DISCARD (R516): A transfer result not read within 10 ms is discarded. -/
  | i3cResultDiscard
  /-- BLK_COMMIT (R518): BLK_COMMIT.COMMIT sets COMMIT_PEND for the staged fields. -/
  | blkCommit (pg m : Nat)
  /-- COMMIT_APPLY (R518): At the block's quiescent point every staged field takes effect together. -/
  | commitApply (pg : Nat)
  /-- BLK_DISCARD (R517): BLK_COMMIT.DISCARD returns staged fields to their live values. -/
  | blkDiscard (pg m : Nat)
  /-- REGISTER_WRITE (R22): A write to a register without behaviour of its own is applied or rejected by field type and rein checks. -/
  | registerWrite (fnPage : Bool) (who off size v m : Nat)
  /-- TSIG_ADD (R526): FN.TSIG_ADD adds to the named tally as a host signal. -/
  | tsigAdd (fn : Fin 128) (add : Nat)
  /-- HOST_READ_ERROR (R527): A host-memory read fails and its reader halts with HOST_ERR or logs it. -/
  | hostReadError (kind : Fin 3) (sp : Fin 8) (co : Fin 16) (sl : Fin 4) (n : Nat) (fn : Fin 128) (q : Fin 16) (timeout : Bool)
  /-- CORRECTABLE_EVENT (R533): A correctable error adds to its resource's leaky bucket; `hard`: the error is one that the code cannot correct (R532). -/
  | correctableEvent (sp : Fin 8) (cls : Fin 4) (idx bank addr : Nat) (hard : Bool)
  /-- BUCKET_LEAK (R533): Every LEAK interval a bucket loses one unit. -/
  | bucketLeak (sp : Fin 8) (cls : Fin 4) (idx : Nat)
  /-- FLIP_ARM (R534): SERR.FLIP.ARM arms an error injection on the next column written. -/
  | flipArm (sp : Fin 8) (v m : Nat)
  /-- SCRUB_ROW (R537): The patrol scrub reads a row, rewrites corrected columns and logs uncorrectable ones. -/
  | scrubRow (sp : Fin 8) (pc : Fin 64)
  /-- RETIREMENT (R538): Fenivar retires a block, bank, pseudo-channel or core and appends the retirement list. -/
  | retirement (kind : Fin 4) (sp : Fin 8) (unit : Fin 64) (bank : Fin 32) (block : Nat)
  /-- ELOG_RETIRE (R562): ELOG.RETIRE requests a retirement from the rein holder. -/
  | elogRetire (kind block m : Nat)
  /-- SERR_ALIAS (R540): SERR.ALIAS aliases a retired core to a present one. -/
  | serrSubstitute (sp : Fin 8) (c t : Fin 16) (valid : Bool) (m : Nat)
  /-- MIRROR_RESTORE (R542): Fenivar restores a poisoned page of a mirrored range from its copy. -/
  | mirrorRestore (page : Nat) (ok : Bool)
  /-- ELOG_DONE (R545): ELOG.DONE sets HANDLED on an entry. -/
  | elogDone (seq m : Nat)
  /-- ELOG_CLEAR_LOST (R562): ELOG.CLEAR.LOST zeroes the lost-entry count. -/
  | elogClearLost (m : Nat)
  /-- ELOG_CLEAR_FIRST (R562): ELOG.CLEAR.FIRST clears FIRST on the held entry. -/
  | elogClearFirst (m : Nat)
  /-- ITEM_COMMIT (R553): A completed item's staged effects are applied and its completion record written; `stop`: the commit is interrupted after that many steps (R554). -/
  | itemCommit (id : Nat) (stop : Option Nat)
  /-- ITEM_REPLAY (R556): A stopped item is aborted, reset to its checkpoint and launched again. -/
  | itemReplay (id : Nat)
  /-- RECEIPT_EXPIRY (R557): A receipt key's window ends and its entry is freed. -/
  | receiptExpiry
  /-- SENSOR_SAMPLE (R565): Every 10,000 ticks sensors are sampled and maxima, alarms, protections and throttle reasons are updated. -/
  | sensorSample (readings : List Int)
  /-- RATE_CHECK (R567): Every 100,000 ticks each sensor's rise is compared with THERM.RATE. -/
  | rateCheck
  /-- THERMAL_CEILING_RISE (R568): The thermal clock ceiling rises one step per 100,000 ticks after release. -/
  | thermalCeilingRise (sp : Fin 8)
  /-- DROOP_DETECT (R570): A supply falls 4 % low: the domain clock is stretched or stitch starts held. -/
  | droopDetect (kind : Fin 3) (unit : Fin 128)
  /-- DROOP_RELEASE (R570): 1,000 ticks after recovery the stretch or hold ends. -/
  | droopRelease (kind : Fin 3) (unit : Fin 128)
  /-- POWER_SAMPLE (R571): Every 10,000 ticks package power is measured and the current and cap limiters act. -/
  | powerSample (dense nb pier fabric : Nat)
  /-- CAP_CEILING_RISE (R572): The cap ceiling rises one step per 100,000 ticks while power is low enough. -/
  | capCeilingRise
  /-- BUDGET_DECREASE_APPLY (R572): In locked cadence a budget decrease reaches the cap limiter after its delay. -/
  | budgetDecreaseApply
  /-- SET_NUMERIC_EFFECTER_VALUE (R574): A PLDM request sets the rack budget. -/
  | setNumericEffecterValue (id value : Nat)
  /-- PLDM_GET_SENSOR (R573): A PLDM request reads a sensor object. -/
  | pldmGetSensor (id : Nat)
  /-- BUDGET_TIMEOUT (R574): No budget accepted for TIMEOUT_S seconds: the fallback budget applies. -/
  | budgetTimeout
  /-- ALLOCATOR_INTERVAL (R579): Every 100 µs the allocator learns and sets frequency, slots, pier share or duty. -/
  | allocatorInterval
  /-- LEARN_SAVE (R582): Every 10,000,000 ticks Fenivar saves the learned values. -/
  | learnSave
  /-- LEARN_RESET (R582): PWR.LEARN.RESET restores the initial learned values. -/
  | learnReset (m : Nat)
  /-- TR_CLEAR (R584): PWR.TR_CLEAR zeroes throttle-reason times. -/
  | trClear (mask m : Nat)
  /-- LCS_REQ (R611): LCS.REQ requests a life-cycle transition and starts fuse programming. -/
  | lcsReq (confirm : Fin 65536) (target : Fin 8) (m : Nat)
  /-- FUSE_PROGRAM_DONE (R612): Fuse programming of a transition completes. -/
  | fuseProgramDone
  /-- LCS_RESET (R613): LCS.CTRL.RESET performs a package reset. -/
  | lcsReset (m : Nat)
  /-- RETLIST_CLEAR (R622): LCS.RETLIST.CLEAR erases the retirement list. -/
  | retlistClear (m : Nat)
  /-- SLICE_START (R623): Every INTERVAL ms Fenivar starts a periodic core or bank slice. -/
  | sliceStart
  /-- CORE_SLICE_DONE (R624): A core slice ends: the core is released or retired. -/
  | coreSliceDone (pass : Bool) (addr bit count : Nat)
  /-- BANK_SLICE_DONE (R625): A bank slice ends: banks are copied back or stay replaced. -/
  | bankSliceDone (pass bad : Fin 16) (addr bit count : Nat)
  /-- BIST_CORE (R630): BIST.CMD KIND CORE tests one core. -/
  | bistCore (sp : Fin 8) (co : Fin 16) (m : Nat)
  /-- BIST_BANKS (R630): BIST.CMD KIND BANKS tests a bank group. -/
  | bistBanks (sp : Fin 8) (die : Fin 16) (first : Fin 128) (more : Fin 4) (m : Nat)
  /-- BIST_PORT (R630): BIST.CMD KIND PORT tests one port. -/
  | bistPort (u : Fin 16) (m : Nat)
  /-- BIST_SPAN (R630): BIST.CMD KIND SPAN runs every start-up test on one empty span. -/
  | bistSpan (sp : Fin 8) (m : Nat)
  /-- BIST_DONE (R627): A BIST command ends and its report is recorded. -/
  | bistDone (whole pass : Bool) (cores pcs spares banks : List Nat) (addr bit count : Nat)
  /-- IRQ_LEVEL_CHANGE (R631): A level source is asserted or deasserted. -/
  | irqLevelChange (shared : Bool) (k : Fin 9) (n : Nat)
  /-- IRQ_EDGE (R637): An edge source records an event, or merges it. -/
  | irqEdge (shared : Bool) (k : Fin 9) (n : Nat)
  /-- IRQ_CLAIM (R636): IRQP.CLAIM takes the highest deliverable source onto the stack. -/
  | irqClaim (k : Fin 9) (w : Fin 13)
  /-- IRQ_COMPLETE (R636): IRQP.COMPLETE pops the matching id. -/
  | irqComplete (k : Fin 9) (id : Fin 4096) (w : Fin 13)
  /-- IRQ_STACK_RESET (R638): IRQP.STACK_RESET empties the stack. -/
  | irqStackReset (k : Fin 9) (w : Fin 13)
  /-- IRQP_SW_SET (R650): IRQP.SW_SET gives private software sources an edge. -/
  | irqpSwSet (k : Fin 9) (mask : Fin 65536) (w : Fin 13)
  /-- IRQ_TIMER (R641): The tick reaches IRQP.TIMER.COMPARE and source 63 fires. -/
  | irqTimer (k : Fin 9)
  /-- IRQ_SW_SET (R651): IRQ.SW_SET gives a shared software source an edge. -/
  | irqSwSet (n : Fin 1024) (m : Nat)
  /-- IRQ_EOI (R644): IRQ.EOI completes a shared source at a host or management target. -/
  | irqEoi (n : Fin 1024) (m : Nat)
  /-- IRQ_TARGET_WRITE (R639): A write of IRQ.CFG.TARGET moves a shared source, at once or at completion. -/
  | irqTargetWrite (target prio : Fin 16) (enable : Bool) (m : Nat)
  /-- MSIX_SEND (R643): An MSI-X message is sent for a completion ring or shared source. -/
  | msixSend (kind : Fin 3) (fn : Fin 128) (n : Nat)
  /-- TIME_CORR_WRITE (R647): TIME.CORR is written and VALID set. -/
  | timeCorrWrite (offset m : Nat)
  /-- VMGMT_LOSS (R595): The standby rail VMGMT falls, clearing THERM.TRIP and PKG_ID.RAILS and interrupting any fuse programming that runs on it. -/
  | vmgmtLoss
  /-- RESET_N_RELEASE (R593): RESET_N rises while PWRGOOD is high, ending a package reset or a held power-up, and start-up begins. -/
  | resetNRelease
  /-- PCIE_LINK_DOWN (R490): A PCIe port's link goes down: HIF.LINK leaves up and the port's PF ceases to be eligible, before any 100 ms failure limit. -/
  | pcieLinkDown (p : Fin 2)
  /-- PCIE_LINK_UP (R506): A PCIe port's link completes training, so its PF may become eligible, held MSI-X messages may be sent, and contexts not yet rebound continue on a returned link. -/
  | pcieLinkUp (p : Fin 2) (speed : Fin 6) (width : Fin 5) (flit : Bool)
  /-- PCIE_CONFIG_WRITE (R512): A PCIe configuration write sets or clears Memory Space Enable or enables virtual functions, changing master eligibility and the functions that contexts may bind. -/
  | pcieConfigWrite (p : Fin 2) (what : Fin 4) (v : Nat)
  /-- I3C_DYNAMIC_ADDRESS (R600): The I3C controller assigns or resets the package's dynamic address, making the management controller eligible or not. -/
  | i3cDynamicAddress (on : Bool)
  /-- MSIX_ENTRY_UNMASK (R642): The host unmasks an MSI-X table entry, and the message held by masking is sent. -/
  | msixEntryUnmask (fn : Fin 128) (entry : Nat)
  /-- PLDM_BASE_REQUEST (R573): An MCTP message carrying a PLDM base (type 0) request, or a malformed request, is answered with its response or completion code. -/
  | pldmBaseRequest (check : Fin 4)
  deriving DecidableEq, Repr

end Sys2Proof
end

