-- ==== Sys2Proof/Machine/Formats.lean ====
section
/-!
DEFINITION. Number formats and arithmetic (02_number_formats.md, R50 to R86): element formats,
exact values, rounding to nearest even, conversions with their event counts, block scales, the
canonical dot order, the bank-side exp2 and reciprocal, and the correctly rounded VX functions.
-/
namespace Sys2Proof.Machine

/-- The ten element formats (R50). -/
inductive Fmt where
  | fp32 | bf16 | fp16 | e4m3 | e5m2 | e3m2 | e2m3 | e2m1 | int8 | int4
  deriving DecidableEq, Repr

/-- The format that a 4-bit code names; codes 0xA to 0xF are reserved (R50). -/
def fmtOfCode : Nat → Option Fmt
  | 0 => some .fp32 | 1 => some .bf16 | 2 => some .fp16 | 3 => some .e4m3 | 4 => some .e5m2
  | 5 => some .e3m2 | 6 => some .e2m3 | 7 => some .e2m1 | 8 => some .int8 | 9 => some .int4
  | _ => none

/-- Width in bits of an element (R50). -/
def fmtWidth : Fmt → Nat
  | .fp32 => 32 | .bf16 => 16 | .fp16 => 16 | .e4m3 => 8 | .e5m2 => 8
  | .e3m2 => 6 | .e2m3 => 6 | .e2m1 => 4 | .int8 => 8 | .int4 => 4

/-- Whether the format is one of the two integer formats (R53). -/
def fmtIsInt : Fmt → Bool
  | .int8 => true | .int4 => true | _ => false

/-- Whether the format is packed, so that R57 binds its layout. -/
def fmtIsPacked : Fmt → Bool
  | .e3m2 => true | .e2m3 => true | .e2m1 => true | .int4 => true | _ => false

/-- The packing group of R57: 2 elements for 4-bit formats, 4 for 6-bit formats, else 1. -/
def fmtGroup (f : Fmt) : Nat :=
  match fmtWidth f with | 4 => 2 | 6 => 4 | _ => 1

/-- The packed bytes of a run of `n` elements (R56). -/
def packedBytes (f : Fmt) (n : Nat) : Nat :=
  match fmtWidth f with
  | 32 => 4 * n | 16 => 2 * n | 8 => n | 6 => 3 * ((n + 3) / 4) | _ => (n + 1) / 2

/-- The layout of a floating-point format (R51): exponent bits, mantissa bits, bias, whether the
all-ones exponent is infinity or NaN, and whether codes 0x7F and 0xFF alone are NaN (E4M3). -/
structure FpLayout where
  ebits : Nat
  mbits : Nat
  bias : Nat
  ieee : Bool
  deriving DecidableEq, Repr

/-- The layouts of R51; the integer formats have none and answer a placeholder of width zero. -/
def fmtLayout : Fmt → FpLayout
  | .fp32 => ⟨8, 23, 127, true⟩ | .bf16 => ⟨8, 7, 127, true⟩ | .fp16 => ⟨5, 10, 15, true⟩
  | .e4m3 => ⟨4, 3, 7, false⟩ | .e5m2 => ⟨5, 2, 15, true⟩ | .e3m2 => ⟨3, 2, 3, false⟩
  | .e2m3 => ⟨2, 3, 1, false⟩ | .e2m1 => ⟨2, 1, 1, false⟩
  | .int8 => ⟨0, 0, 0, false⟩ | .int4 => ⟨0, 0, 0, false⟩

/-- An exact value: NaN, an infinity, or plus or minus `m` times two to the `e`
(`m = 0` is a signed zero). -/
inductive Num where
  | nan
  | inf (neg : Bool)
  | fin (neg : Bool) (m : Nat) (e : Int)
  deriving DecidableEq, Repr

/-- Positive zero. -/
def numZero : Num := .fin false 0 0

/-- Positive one. -/
def numOne : Num := .fin false 1 0

/-- Whether the value is NaN. -/
def numIsNan : Num → Bool | .nan => true | _ => false

/-- Whether the value is an infinity. -/
def numIsInf : Num → Bool | .inf _ => true | _ => false

/-- Whether the value is a zero of either sign. -/
def numIsZero : Num → Bool | .fin _ m _ => m == 0 | _ => false

/-- Sign of a value; NaN counts as positive (R75). -/
def numNeg : Num → Bool | .nan => false | .inf n => n | .fin n _ _ => n

/-- The value with its sign inverted. -/
def numNegate : Num → Num
  | .nan => .nan | .inf n => .inf (!n) | .fin n m e => .fin (!n) m e

/-- The magnitude of a value. -/
def numAbs : Num → Num
  | .nan => .nan | .inf _ => .inf false | .fin _ m e => .fin false m e

/-- The value of an integer. -/
def numOfInt (i : Int) : Num := .fin (i < 0) i.natAbs 0

/-- Exact scaling by a power of two. -/
def numScale (x : Num) (k : Int) : Num :=
  match x with | .fin n m e => .fin n m (e + k) | y => y

/-- A finite value as an integer multiple of two to the `e0`, for `e0` not above its exponent. -/
def numAlign (neg : Bool) (m : Nat) (e e0 : Int) : Int :=
  let v : Int := (m * 2 ^ (e - e0).toNat : Nat)
  if neg then -v else v

/-- Exact addition with the special values and zero signs of IEEE 754 (R72). -/
def numAdd (a b : Num) : Num :=
  match a, b with
  | .nan, _ => .nan
  | _, .nan => .nan
  | .inf x, .inf y => if x == y then .inf x else .nan
  | .inf x, .fin _ _ _ => .inf x
  | .fin _ _ _, .inf y => .inf y
  | .fin na ma ea, .fin nb mb eb =>
    if ma == 0 && mb == 0 then .fin (na && nb) 0 0
    else
      let e0 := min ea eb
      let v := numAlign na ma ea e0 + numAlign nb mb eb e0
      .fin (v < 0) v.natAbs e0

/-- Exact multiplication; infinity times zero is NaN (R72). -/
def numMul (a b : Num) : Num :=
  match a, b with
  | .nan, _ => .nan
  | _, .nan => .nan
  | .inf x, .inf y => .inf (x != y)
  | .inf x, .fin y m _ => if m == 0 then .nan else .inf (x != y)
  | .fin x m _, .inf y => if m == 0 then .nan else .inf (x != y)
  | .fin x ma ea, .fin y mb eb => .fin (x != y) (ma * mb) (ea + eb)

/-- Exact subtraction. -/
def numSub (a b : Num) : Num := numAdd a (numNegate b)

/-- Whether `a` is less than `b` as real numbers with −0 ordered below +0 (R80); false when
either is NaN. -/
def numLt (a b : Num) : Bool :=
  match a, b with
  | .nan, _ => false
  | _, .nan => false
  | .inf x, .inf y => x && !y
  | .inf x, .fin _ _ _ => x
  | .fin _ _ _, .inf y => !y
  | .fin na ma ea, .fin nb mb eb =>
    if ma == 0 && mb == 0 then na && !nb
    else
      let e0 := min ea eb
      numAlign na ma ea e0 < numAlign nb mb eb e0

/-- Minimum of R80: NaN if either operand is NaN, −0 below +0. -/
def numMin (a b : Num) : Num :=
  if numIsNan a || numIsNan b then .nan else if numLt b a then b else a

/-- Maximum of R80: NaN if either operand is NaN, −0 below +0. -/
def numMax (a b : Num) : Num :=
  if numIsNan a || numIsNan b then .nan else if numLt a b then b else a

/-- Floor of the base-two logarithm of `m * 2 ^ e`, for `m` not zero. -/
def dyLog (m : Nat) (e : Int) : Int := (Nat.log2 m : Int) + e

/-- `m * 2 ^ e` as an integer multiple of `2 ^ q`, rounded to nearest, ties to even (R66). -/
def roundQuantum (m : Nat) (e q : Int) : Nat :=
  if e ≥ q then m * 2 ^ (e - q).toNat
  else
    let s := (q - e).toNat
    let d := 2 ^ s
    let hi := m / d
    let r := m % d
    if 2 * r > d || (2 * r == d && hi % 2 == 1) then hi + 1 else hi

/-- The smallest exponent of one unit in the last place of a format. -/
def layoutQmin (l : FpLayout) : Int := 1 - (l.bias : Int) - (l.mbits : Int)

/-- A nonzero magnitude rounded to a format's precision, with its quantum exponent; the range
above is not limited here (R66). -/
def roundMag (l : FpLayout) (m : Nat) (e : Int) : Nat × Int :=
  let q := max (dyLog m e - (l.mbits : Int)) (layoutQmin l)
  (roundQuantum m e q, q)

/-- The largest finite magnitude of a format, as a mantissa and an exponent (R51). -/
def layoutMax (f : Fmt) : Nat × Int :=
  match f with
  | .fp32 => (2 ^ 24 - 1, 104) | .bf16 => (255, 120) | .fp16 => (2047, 5)
  | .e4m3 => (448, 0) | .e5m2 => (57344, 0) | .e3m2 => (28, 0) | .e2m3 => (15, -1)
  | .e2m1 => (6, 0) | .int8 => (127, 0) | .int4 => (7, 0)

/-- Whether the magnitude `m * 2 ^ e` is above `m' * 2 ^ e'`. -/
def magGt (m : Nat) (e : Int) (m' : Nat) (e' : Int) : Bool :=
  let e0 := min e e'
  m * 2 ^ (e - e0).toNat > m' * 2 ^ (e' - e0).toNat

/-- One rounding to a floating format that overflows to infinity (FP32, BF16, FP16). -/
def roundIeee (f : Fmt) (x : Num) : Num :=
  match x with
  | .nan => .nan
  | .inf n => .inf n
  | .fin n m e =>
    if m == 0 then .fin n 0 0
    else
      let r := roundMag (fmtLayout f) m e
      let mx := layoutMax f
      if magGt r.1 r.2 mx.1 mx.2 then .inf n else .fin n r.1 r.2

/-- `round_fp32` (R70): one rounding to nearest even in FP32. -/
def roundFp32 (x : Num) : Num := roundIeee .fp32 x

/-- A quotient of magnitudes with enough quotient bits, its last bit sticky, so that one later
rounding to any format is correct. -/
def divMag (a : Nat) (ea : Int) (b : Nat) (eb : Int) : Nat × Int :=
  let s := 200 + Nat.log2 b
  let n := a * 2 ^ s
  let q := n / b
  let r := if n % b == 0 then 0 else 1
  (2 * q + r, ea - eb - (s : Int) - 1)

/-- Division with IEEE 754 special values, kept to enough bits for one correct rounding. -/
def numDiv (a b : Num) : Num :=
  match a, b with
  | .nan, _ => .nan
  | _, .nan => .nan
  | .inf _, .inf _ => .nan
  | .inf x, .fin y _ _ => .inf (x != y)
  | .fin x _ _, .inf y => .fin (x != y) 0 0
  | .fin x ma ea, .fin y mb eb =>
    if mb == 0 then (if ma == 0 then .nan else .inf (x != y))
    else if ma == 0 then .fin (x != y) 0 0
    else let q := divMag ma ea mb eb; .fin (x != y) q.1 q.2

/-- Integer square root of `n` by bisection from the top bit, `k` bits. -/
def isqrtBits (n : Nat) : Nat → Nat → Nat
  | 0, r => r
  | k + 1, r => let t := r + 2 ^ k; isqrtBits n k (if t * t ≤ n then t else r)

/-- Integer square root. -/
def isqrt (n : Nat) : Nat := isqrtBits n (Nat.log2 n / 2 + 1) 0

/-- Square root of `m * 2 ^ e`, with its last bit sticky. -/
def sqrtMag (m : Nat) (e : Int) : Nat × Int :=
  let p := if e % 2 == 0 then (2 ^ 200 * m, e - 200) else (2 ^ 201 * m, e - 201)
  let r := isqrt p.1
  let st := if r * r == p.1 then 0 else 1
  (2 * r + st, p.2 / 2 - 1)

/-- The code of a magnitude already rounded to the format (R52). -/
def encodeMag (l : FpLayout) (m : Nat) (e : Int) : Nat :=
  if m == 0 then 0
  else
    let x := dyLog m e
    let emin : Int := 1 - (l.bias : Int)
    if x < emin then roundQuantum m e (layoutQmin l)
    else
      let q := x - (l.mbits : Int)
      let mant := roundQuantum m e q
      (x + (l.bias : Int)).toNat * 2 ^ l.mbits + (mant - 2 ^ l.mbits)

/-- The sign bit of a format. -/
def fmtSign (f : Fmt) (neg : Bool) : Nat := if neg then 2 ^ (fmtWidth f - 1) else 0

/-- The canonical quiet NaN of a format (R75); zero for the formats that hold none. -/
def canonNan : Fmt → Nat
  | .fp32 => 0x7FC00000 | .bf16 => 0x7FC0 | .fp16 => 0x7E00 | .e5m2 => 0x7E | .e4m3 => 0x7F
  | _ => 0

/-- The infinity code of a format that has one (R51). -/
def infCode (f : Fmt) (neg : Bool) : Nat :=
  let l := fmtLayout f
  fmtSign f neg + (2 ^ l.ebits - 1) * 2 ^ l.mbits

/-- Two's complement value of a `w`-bit code. -/
def sextNat (w v : Nat) : Int :=
  if v % 2 ^ w < 2 ^ (w - 1) then ((v % 2 ^ w : Nat) : Int) else ((v % 2 ^ w : Nat) : Int) - (2 ^ w : Nat)

/-- Two's complement code of an integer in `w` bits. -/
def intCode (w : Nat) (i : Int) : Nat := (i % (2 ^ w : Nat)).toNat

/-- Two's complement value of a code under a format's width (R53). -/
def fmtIntVal (f : Fmt) (code : Nat) : Int := sextNat (fmtWidth f) code

/-- The element value of a code, without its scale (R52, R53); `mx32` says that the tensor's
scale mode is MX32, under which an INT8 code `k` is `k` times two to the −6. -/
def elemVal (f : Fmt) (mx32 : Bool) (code : Nat) : Num :=
  if fmtIsInt f then
    numScale (numOfInt (fmtIntVal f code)) (if mx32 then -6 else 0)
  else
    let l := fmtLayout f
    let w := fmtWidth f
    let neg := bitAt code (w - 1)
    let e := bits code l.mbits l.ebits
    let m := bits code 0 l.mbits
    if l.ieee && e == 2 ^ l.ebits - 1 then (if m == 0 then .inf neg else .nan)
    else if f == .e4m3 && code % 128 == 0x7F then .nan
    else if e == 0 then .fin neg m (layoutQmin l)
    else .fin neg (2 ^ l.mbits + m) ((e : Int) - (l.bias : Int) - (l.mbits : Int))

/-- The value of an FP32 code. -/
def fp32Val (code : Nat) : Num := elemVal .fp32 false code

/-- Counts that a conversion or a dot product adds (R87): saturations, lost NaNs, blocks with an
invalid scale, saturated integer chunks; and the two result bits of R75. -/
structure NumEv where
  sat : Nat
  nanLost : Nat
  scaleInvalid : Nat
  intSat : Nat
  nanOut : Bool
  infOut : Bool
  deriving DecidableEq, Repr

/-- No events. -/
def evNone : NumEv := ⟨0, 0, 0, 0, false, false⟩

/-- The events of two parts of one command. -/
def evAdd (a b : NumEv) : NumEv :=
  ⟨a.sat + b.sat, a.nanLost + b.nanLost, a.scaleInvalid + b.scaleInvalid, a.intSat + b.intSat,
    a.nanOut || b.nanOut, a.infOut || b.infOut⟩

/-- One saturation. -/
def evSat : NumEv := { evNone with sat := 1 }

/-- One lost NaN. -/
def evNanLost : NumEv := { evNone with nanLost := 1 }

/-- One invalid block. -/
def evScale : NumEv := { evNone with scaleInvalid := 1 }

/-- Conversion to an integer target with saturation (R67, R69), under MX32 in units of two to
the −6. -/
def convertInt (f : Fmt) (x : Num) (unit : Int) : Nat × NumEv :=
  let w := fmtWidth f
  let hi : Int := 2 ^ (w - 1) - 1
  let lo : Int := -(2 ^ (w - 1))
  match x with
  | .nan => (0, evNanLost)
  | .inf n => (intCode w (if n then lo else hi), evSat)
  | .fin n m e =>
    let r := roundQuantum m e unit
    let v : Int := if n then -(r : Int) else (r : Int)
    if v > hi then (intCode w hi, evSat)
    else if v < lo then (intCode w lo, evSat)
    else (intCode w v, evNone)

/-- Conversion of an exact value to a format (R66, R67, R69, R75): the code and the event that
it counts. `mx32` says that the target is an MX32 tensor. -/
def convert (f : Fmt) (mx32 : Bool) (x : Num) : Nat × NumEv :=
  if fmtIsInt f then convertInt f x (if mx32 then -6 else 0)
  else
    let l := fmtLayout f
    let mx := layoutMax f
    let overInf := f == .fp32 || f == .bf16 || f == .fp16
    let hasNan := l.ieee || f == .e4m3
    let largest (n : Bool) : Nat := fmtSign f n + encodeMag l mx.1 mx.2
    match x with
    | .nan => if hasNan then (canonNan f, evNone) else (0, evNanLost)
    | .inf n => if l.ieee then (infCode f n, evNone) else (largest n, evSat)
    | .fin n m e =>
      if m == 0 then (fmtSign f n, evNone)
      else
        let r := roundMag l m e
        if magGt r.1 r.2 mx.1 mx.2 then
          (if overInf then (infCode f n, evNone) else (largest n, evSat))
        else (fmtSign f n + encodeMag l r.1 r.2, evNone)

/-- The FP32 code of an exact value, rounded once. -/
def fp32Code (x : Num) : Nat := (convert .fp32 false x).1

/-- Conversion of an INT32 value to an integer or floating target (R69). -/
def convertInt32 (f : Fmt) (v : Int) : Nat × NumEv := convert f false (numOfInt v)

/-! ### Block scales (R58 to R65) -/

/-- Block length of a scale mode: 32 under MX32, 16 under NS16; 0 for none (R58). -/
def scmBlock : Nat → Nat | 1 => 32 | 2 => 16 | _ => 0

/-- Legal formats of a scale mode (R58). -/
def scmLegal (scm : Nat) (f : Fmt) : Bool :=
  match scm with
  | 0 => true
  | 1 => f == .e4m3 || f == .e5m2 || f == .e3m2 || f == .e2m3 || f == .e2m1 || f == .int8
  | 2 => f == .e4m3 || f == .e3m2 || f == .e2m3 || f == .e2m1
  | _ => false

/-- Value of an E8M0 or UE5M3 block scale; code 0xFF is invalid and reads as NaN (R58, R59,
R62). -/
def scaleVal (scm code : Nat) : Num :=
  if code == 0xFF then .nan
  else if scm == 1 then .fin false 1 ((code : Int) - 127)
  else
    let e := code / 8
    let m := code % 8
    if e == 0 then .fin false m (-17) else .fin false (8 + m) ((e : Int) - 18)

/-- Decoded element value under a scale mode and its block scale (R60, R62). -/
def decodedVal (f : Fmt) (scm code scale : Nat) : Num :=
  if scm == 0 then elemVal f false code
  else if scale == 0xFF then .nan
  else numMul (elemVal f (scm == 1) code) (scaleVal scm scale)

/-- Element `emax` of R64. -/
def fmtEmax : Fmt → Int
  | .e4m3 => 8 | .e5m2 => 15 | .e3m2 => 4 | .e2m3 => 2 | .e2m1 => 2 | _ => 0

/-- Largest magnitude of the finite values of a list (R64). -/
def amaxOf (xs : List Num) : Num :=
  xs.foldl (fun a x => match x with | .fin _ _ _ => numMax a (numAbs x) | _ => a) numZero

/-- Whether a block holds a NaN or an infinity (R64). -/
def blockBad (xs : List Num) : Bool := xs.any (fun x => numIsNan x || numIsInf x)

/-- The events of converting the elements of a block, in order. -/
def convertAll (f : Fmt) (mx32 : Bool) (xs : List Num) : List Nat × NumEv :=
  xs.foldr (fun x acc => let c := convert f mx32 x; (c.1 :: acc.1, evAdd c.2 acc.2)) ([], evNone)

/-- The MX32 scale code chosen for a block of FP32 source values (R64). -/
def mx32Scale (f : Fmt) (xs : List Num) : Nat :=
  if blockBad xs then 0xFF
  else match amaxOf xs with
    | .fin _ m e =>
      if m == 0 then 0x7F else (min (max (dyLog m e - fmtEmax f + 127) 0) 254).toNat
    | _ => 0xFF

/-- The smallest UE5M3 code whose value is not below `q`, limited to 0xFE, searched upward from
`c` (R65). -/
def ue5m3From (q : Num) : Nat → Nat → Nat
  | 0, _ => 0xFE
  | k + 1, c => if numLt (scaleVal 2 c) q then ue5m3From q k (c + 1) else c

/-- Largest finite element value used by R65. -/
def ns16Max (f : Fmt) : Num := let m := layoutMax f; .fin false m.1 m.2

/-- The NS16 block scale of a block under tensor scale `ts` (R65). -/
def ns16Scale (f : Fmt) (ts : Num) (xs : List Num) : Nat :=
  if blockBad xs then 0xFF
  else
    let a := amaxOf xs
    if numIsZero a then 0
    else
      let d := roundFp32 (numMul (ns16Max f) ts)
      ue5m3From (roundFp32 (numDiv a d)) 253 1

/-- One block written under a scale mode: its scale code, its element codes and its events
(R64, R65). The source values are rounded once to FP32 first. DESIGN CHOICE: a zero source element of a block whose
scale times the tensor scale is zero, for which R65's quotient is 0/0, stays zero (log entry 51). -/
def writeBlock (f : Fmt) (scm : Nat) (ts : Num) (src : List Num) : Nat × List Nat × NumEv :=
  if scm == 1 then
    let xs := src.map roundFp32
    let sc := mx32Scale f xs
    if sc == 0xFF then (0xFF, xs.map (fun _ => 0), evScale)
    else
      let r := convertAll f true (xs.map (fun x => numScale x (127 - (sc : Int))))
      (sc, r.1, r.2)
  else if scm == 2 then
    let xs := src.map roundFp32
    let sc := ns16Scale f ts xs
    if sc == 0xFF then (0xFF, xs.map (fun _ => 0), evScale)
    else
      let u := roundFp32 (numMul (scaleVal 2 sc) ts)
      let r := convertAll f false (xs.map (fun x =>
        if numIsZero x then x else roundFp32 (numDiv x u)))
      (sc, r.1, r.2)
  else
    let r := convertAll f false src
    (0, r.1, r.2)

/-- Cut a list into blocks of `b` elements, the last one shorter, with `fuel` blocks at most. -/
def blocksOf {α : Type} (b : Nat) : Nat → List α → List (List α)
  | 0, _ => []
  | k + 1, xs => if xs.isEmpty then [] else xs.take b :: blocksOf b k (xs.drop b)

/-- A run of values written under a scale mode: scale codes, element codes, events (R64, R65). -/
def writeRun (f : Fmt) (scm : Nat) (ts : Num) (xs : List Num) : List Nat × List Nat × NumEv :=
  if scm == 0 then
    let r := convertAll f false xs
    ([], r.1, r.2)
  else
    (blocksOf (scmBlock scm) xs.length xs).foldr
      (fun b acc => let w := writeBlock f scm ts b; (w.1 :: acc.1, w.2.1 ++ acc.2.1, evAdd w.2.2 acc.2.2))
      ([], [], evNone)

/-- A run of element codes with its scale codes, decoded (R60), and the count of blocks with an
invalid scale (R62). -/
def readRun (f : Fmt) (scm : Nat) (codes scales : List Nat) : List Num × NumEv :=
  if scm == 0 then (codes.map (elemVal f false), evNone)
  else
    let b := scmBlock scm
    let vals := codes.zipIdx.map (fun p => decodedVal f scm p.1 (scales.getD (p.2 / b) 0xFF))
    let bad := (scales.take ((codes.length + b - 1) / b)).countP (· == 0xFF)
    (vals, { evNone with scaleInvalid := bad })

/-- The values of an NS16 or other run taken without arithmetic: NS16 elements are multiplied by
the tensor scale with one FP32 rounding (R61). -/
def plainVals (scm : Nat) (ts : Num) (xs : List Num) : List Num :=
  if scm == 2 then xs.map (fun x => roundFp32 (numMul (roundFp32 x) ts)) else xs

/-- Whether an FP32 code is a legal NS16 tensor scale: positive and finite (R65). -/
def tscaleOk (code : Nat) : Bool :=
  match fp32Val code with | .fin n m _ => !n && m != 0 | _ => false

/-! ### Pairings and the canonical dot order (R70 to R73, R76 to R78) -/

/-- The join of a pairing: the format of the products, with its chunk length (R78). -/
inductive Join where
  | w9 | integer | mxInt8 | fp16 | bf16 | fp32
  deriving DecidableEq, Repr

/-- Containment of R77 between unscaled or scaled float formats and INT4/INT8 (`mx` marks MX32
INT8). -/
def contained (a : Fmt) (amx : Bool) (b : Fmt) : Bool :=
  match a with
  | .e2m1 => b == .e2m3 || b == .e3m2 || b == .e4m3 || b == .e5m2 || b == .fp16 || b == .bf16 || b == .fp32
  | .e2m3 => b == .e4m3 || b == .fp16 || b == .bf16 || b == .fp32
  | .e3m2 => b == .e4m3 || b == .e5m2 || b == .fp16 || b == .bf16 || b == .fp32
  | .e4m3 => b == .fp16 || b == .bf16 || b == .fp32
  | .e5m2 => b == .fp16 || b == .bf16 || b == .fp32
  | .int4 => b == .int8 || b == .e3m2 || b == .e4m3 || b == .e5m2 || b == .fp16 || b == .bf16 || b == .fp32
  | .int8 => (b == .fp16 || b == .bf16 || b == .fp32) && (amx || !amx)
  | .fp16 => b == .fp32
  | .bf16 => b == .fp32
  | .fp32 => false

/-- Members of the set of row 5 of R78. -/
def inRow5 (f : Fmt) : Bool :=
  f == .e4m3 || f == .e5m2 || f == .e3m2 || f == .e2m3 || f == .e2m1 || f == .int4

/-- The first matching row of Table: Pairings (R78): row number, join and chunk length. -/
def pairing (a : Fmt) (scmA : Nat) (b : Fmt) (scmB : Nat) : Option (Nat × Join × Nat) :=
  let amx := a == .int8 && scmA == 1
  let bmx := b == .int8 && scmB == 1
  let isI (f : Fmt) (scm : Nat) : Bool := fmtIsInt f && scm == 0
  let joinIs (j : Fmt) : Bool :=
    (a == j && (b == j || contained b bmx j)) || (b == j && contained a amx j)
  if a == .e2m1 && b == .e2m1 then some (1, .w9, 32)
  else if a == .int4 && b == .int4 && scmA == 0 && scmB == 0 then some (2, .integer, 32)
  else if isI a scmA && isI b scmB then some (3, .integer, 32)
  else if amx && bmx then some (4, .mxInt8, 32)
  else if inRow5 a && inRow5 b then some (5, .w9, 32)
  else if joinIs .fp16 then some (6, .fp16, 16)
  else if joinIs .bf16 then some (7, .bf16, 8)
  else if joinIs .fp32 then some (8, .fp32, 1)
  else none

/-- Exact sum of a list of exact products, with the zero sign of R72. -/
def sumExact : List Num → Num
  | [] => numZero
  | x :: xs => xs.foldl numAdd x

/-- The chunks of the canonical dot order, from the front (R70). -/
def cdoGo (n : Nat) : Nat → List Num → Num → Num
  | 0, _, acc => acc
  | k + 1, ps, acc =>
    if ps.isEmpty then acc
    else cdoGo n k (ps.drop n) (roundFp32 (numAdd acc (sumExact (ps.take n))))

/-- The canonical dot order over two operand lists with FP32 start `c` and chunk length `n`
(R70). -/
def cdo (as bs : List Num) (c : Num) (n : Nat) : Num :=
  let ps := (as.zip bs).map (fun p => numMul p.1 p.2)
  cdoGo n ps.length ps c

/-- INT32 saturation (R73): the limited value and whether it saturated. -/
def satInt32 (v : Int) : Int × Bool :=
  if v > 2147483647 then (2147483647, true)
  else if v < -2147483648 then (-2147483648, true)
  else (v, false)

/-- The integer path's chunks (R73): the INT32 accumulator and the count of saturated chunks. -/
def cdoIntGo (n : Nat) : Nat → List Int → Int → Nat → Int × Nat
  | 0, _, acc, k => (acc, k)
  | f + 1, ps, acc, k =>
    if ps.isEmpty then (acc, k)
    else
      let r := satInt32 (acc + (ps.take n).foldl (· + ·) 0)
      cdoIntGo n f (ps.drop n) r.1 (if r.2 then k + 1 else k)

/-- The integer dot product (R73). -/
def cdoInt (as bs : List Int) (c : Int) (n : Nat) : Int × Nat :=
  let ps := (as.zip bs).map (fun p => p.1 * p.2)
  cdoIntGo n ps.length ps c 0

/-- A dot product with NS16 tensor scales (R71). -/
def cdoNs16 (as bs : List Num) (c tA tB : Num) (n : Nat) : Num :=
  let p := cdo as bs numZero n
  let t := roundFp32 (numMul tA tB)
  roundFp32 (numAdd c (roundFp32 (numMul p t)))

/-! ### Fixed-point constants and the transcendental functions (R81 to R83) -/

/-- Fixed-point precision of the functions below. -/
def fxP : Nat := 320

/-- Partial sum of `1 / (k * 2 ^ k)`, `k` from `n` down to 1, in fixed point: the natural
logarithm of two. -/
def ln2Sum : Nat → Nat
  | 0 => 0
  | k + 1 => 2 ^ fxP / ((k + 1) * 2 ^ (k + 1)) + ln2Sum k

/-- The natural logarithm of two in fixed point. -/
def ln2Fx : Nat := ln2Sum 330

/-- Terms of the exponential series of `t` in fixed point. -/
def expSeries (t : Nat) : Nat → Nat → Nat → Nat
  | 0, _, _ => 0
  | fuel + 1, k, term => term + expSeries t fuel (k + 1) (term * t / 2 ^ fxP / (k + 1))

/-- Two to the `f / 2 ^ fxP` in fixed point, for `f` below `2 ^ fxP`. -/
def exp2Fx (f : Nat) : Nat :=
  expSeries (f * ln2Fx / 2 ^ fxP) 90 0 (2 ^ fxP)

/-- Floor of a finite value. -/
def floorInt (n : Bool) (m : Nat) (e : Int) : Int :=
  if e ≥ 0 then (let v : Int := (m * 2 ^ e.toNat : Nat); if n then -v else v)
  else
    let d := 2 ^ (-e).toNat
    if n then -(((m + d - 1) / d : Nat) : Int) else ((m / d : Nat) : Int)

/-- The fraction `x - floor x` in fixed point, rounded down. -/
def fracFx (n : Bool) (m : Nat) (e : Int) : Nat :=
  if e ≥ 0 then 0
  else
    let d := 2 ^ (-e).toNat
    let r := m % d
    let r' := if n && r != 0 then d - r else r
    r' * 2 ^ fxP / d

/-- Correctly rounded exp2 of a finite, infinite or NaN value, to FP32 (R81, R162). -/
def vxExp2 (x : Num) : Num :=
  match x with
  | .nan => .nan
  | .inf n => if n then numZero else .inf false
  | .fin n m e =>
    if m == 0 then numOne
    else
      let fl := floorInt n m e
      if fl ≥ 128 then .inf false
      else if fl < -200 then numZero
      else
        let f := fracFx n m e
        let exact := e ≥ 0 || m % 2 ^ (-e).toNat == 0
        if exact then roundFp32 (.fin false 1 fl)
        else roundFp32 (.fin false (2 * exp2Fx f + 1) (fl - fxP - 1))

/-- Digits of the base-two logarithm of `y / 2 ^ fxP` in `[1, 2)` by repeated squaring. -/
def log2Digits : Nat → Nat → Nat → Nat
  | 0, _, acc => acc
  | k + 1, y, acc =>
    let y2 := y * y / 2 ^ fxP
    if y2 ≥ 2 ^ (fxP + 1) then log2Digits k (y2 / 2) (2 * acc + 1)
    else log2Digits k y2 (2 * acc)

/-- Correctly rounded log2, to FP32: NaN below zero, −infinity at zero (R162). -/
def vxLog2 (x : Num) : Num :=
  match x with
  | .nan => .nan
  | .inf n => if n then .nan else .inf false
  | .fin n m e =>
    if m == 0 then .inf true
    else if n then .nan
    else
      let k := Nat.log2 m
      let x0 : Int := (k : Int) + e
      if m == 2 ^ k then roundFp32 (numOfInt x0)
      else
        let y := m * 2 ^ (fxP - k)
        let d := log2Digits 160 y 0
        roundFp32 (numAdd (numOfInt x0) (.fin false (2 * d + 1) (-161)))

/-- Correctly rounded reciprocal, to FP32 (R162). -/
def vxRcp (x : Num) : Num := roundFp32 (numDiv numOne x)

/-- Correctly rounded square root, to FP32 (R162). -/
def vxSqrt (x : Num) : Num :=
  match x with
  | .nan => .nan
  | .inf n => if n then .nan else .inf false
  | .fin n m e =>
    if m == 0 then .fin n 0 0
    else if n then .nan
    else let r := sqrtMag m e; roundFp32 (.fin false r.1 r.2)

/-- Correctly rounded reciprocal square root, to FP32 (R162). -/
def vxRsqrt (x : Num) : Num :=
  match x with
  | .nan => .nan
  | .inf n => if n then .nan else numZero
  | .fin n m e =>
    if m == 0 then .inf n
    else if n then .nan
    else
      -- the root of `1 / (m * 2 ^ e)` from a long quotient
      let q := divMag 1 0 m e
      let r := sqrtMag q.1 q.2
      let k := isqrt m
      -- exact when `m` is an odd or even power of two with an even exponent
      if k * k == m && e % 2 == 0 && k == 2 ^ Nat.log2 k then
        roundFp32 (.fin false 1 (-(e / 2) - (Nat.log2 k : Int)))
      else roundFp32 (.fin false (2 * (r.1 / 2) + 1) r.2)

/-- `round_fp32(2 ^ (i / 64))`, the table T of R82. -/
def bluT (i : Nat) : Num :=
  if i == 0 then numOne
  else roundFp32 (.fin false (2 * exp2Fx (i * 2 ^ fxP / 64) + 1) (-(fxP : Int) - 1))

/-- The constants c1, c2 and c3 of R82. -/
def bluC1 : Num := roundFp32 (.fin false (2 * ln2Fx + 1) (-(fxP : Int) - 1))
/-- `round_fp32((ln 2)^2 / 2)` (R82). -/
def bluC2 : Num := roundFp32 (.fin false (2 * (ln2Fx * ln2Fx / 2 ^ fxP) + 1) (-(fxP : Int) - 2))
/-- `round_fp32((ln 2)^3 / 6)` (R82). -/
def bluC3 : Num :=
  roundFp32 (.fin false (2 * (ln2Fx * ln2Fx / 2 ^ fxP * ln2Fx / 2 ^ fxP / 6) + 1) (-(fxP : Int) - 1))

/-- Fused multiply-add with one rounding. -/
def fmaFp32 (a b c : Num) : Num := roundFp32 (numAdd (numMul a b) c)

/-- The bank lane unit's exp2 (R82). -/
def bluExp2 (x : Num) : Num :=
  match x with
  | .nan => .nan
  | .inf n => if n then numZero else .inf false
  | .fin n m e =>
    if !numLt x (numOfInt 128) then .inf false
    else if numLt x (numOfInt (-150)) then numZero
    else
      let fl := floorInt n m e
      let f := numSub x (numOfInt fl)
      let i := match f with | .fin _ fm fe => (floorInt false fm (fe + 6)).toNat | _ => 0
      let d := numSub f (.fin false i (-6))
      let p0 := fmaFp32 d bluC3 bluC2
      let p1 := fmaFp32 d p0 bluC1
      let p2 := fmaFp32 d p1 numOne
      let r := roundFp32 (numMul (bluT i) p2)
      roundFp32 (numScale r fl)

/-- `round_fp32(1 / (1 + (i + 0.5) / 64))`, the table S of R83. -/
def bluS (i : Nat) : Num := roundFp32 (numDiv (numOfInt 128) (numOfInt (129 + 2 * i)))

/-- The bank lane unit's reciprocal (R83). -/
def bluRcp (x : Num) : Num :=
  match x with
  | .nan => .nan
  | .inf n => .fin n 0 0
  | .fin n m e =>
    if m == 0 then .inf n
    else
      let k := Nat.log2 m
      let g : Num := .fin false m (-(k : Int))
      let i := m * 64 / 2 ^ k - 64
      let r0 := bluS i
      let h0 := roundFp32 (numSub numOne (numMul g r0))
      let r1 := roundFp32 (numAdd r0 (numMul r0 h0))
      let h1 := roundFp32 (numSub numOne (numMul g r1))
      let r2 := roundFp32 (numAdd r1 (numMul r1 h1))
      let v := roundFp32 (numScale r2 (-((k : Int) + e)))
      if n then numNegate v else v

/-- What a plain value stands for among the operands of R75: an NS16 element and its tensor scale are finite, so an
infinity that their product gives is no infinite operand. -/
def plainOp (scm : Nat) (x : Num) : Num := if scm == 2 && numIsInf x then numZero else x

/-- Result bits of R75: a NaN result from operands that are not NaN, an infinite result from
finite operands. -/
def evResult (operands results : List Num) : NumEv :=
  { evNone with
    nanOut := results.any numIsNan && !operands.any numIsNan
    infOut := results.any numIsInf && !operands.any (fun x => numIsInf x || numIsNan x) }

/-- A result value with the operand values that it arises from (R75). -/
abbrev OpRes := List Num × Num

/-- The result bits of values written in groups of `b`, the elements of a block together: `ops` holds the operand values
of each, `outs` the values written, in the output format (R75). -/
def evGroups (b : Nat) : Nat → List (List Num) → List Num → NumEv
  | 0, _, _ => evNone
  | k + 1, ops, outs =>
    if outs.isEmpty then evNone
    else evAdd (evResult (ops.take b).flatten (outs.take b)) (evGroups b k (ops.drop b) (outs.drop b))

/-- A run of results written under a scale mode: scale codes, element codes, and every event of the writing. A result in
a block arises from the operands of every element of the block, which set its scale (R64, R65, R75). -/
def writeRes (f : Fmt) (scm : Nat) (ts : Num) (xs : List OpRes) : List Nat × List Nat × NumEv :=
  let w := writeRun f scm ts (xs.map (·.2))
  (w.1, w.2.1, evAdd w.2.2
    (evGroups (max 1 (scmBlock scm)) xs.length (xs.map (·.1)) (readRun f scm w.2.1 w.1).1))

/-! ### Element fields in bytes (R56) -/

/-- Byte offset of element `i` of a run, and the bit of that byte it starts at. -/
def elemBit (f : Fmt) (i : Nat) : Nat := i * fmtWidth f

/-- Element code `i` of a run whose bytes a byte reader gives (R56). -/
def elemCode (f : Fmt) (rd : Nat → Nat) (base i : Nat) : Nat :=
  let b := elemBit f i
  let a := base + b / 8
  let v := match fmtWidth f with
    | 32 => rd a + 256 * rd (a + 1) + 65536 * rd (a + 2) + 16777216 * rd (a + 3)
    | 16 => rd a + 256 * rd (a + 1)
    | 6 => if b % 8 ≤ 2 then rd a else rd a + 256 * rd (a + 1)
    | _ => rd a
  bits v (b % 8) (fmtWidth f)

/-- Byte stores that write element code `c` at index `i` of a run, reading the bytes it shares
with its neighbours (R56, R57). -/
def elemStores (f : Fmt) (rd : Nat → Nat) (base i c : Nat) : List (Nat × Nat) :=
  let b := elemBit f i
  let a := base + b / 8
  match fmtWidth f with
  | 32 => [(a, c % 256), (a + 1, c / 256 % 256), (a + 2, c / 65536 % 256), (a + 3, c / 16777216 % 256)]
  | 16 => [(a, c % 256), (a + 1, c / 256 % 256)]
  | 8 => [(a, c % 256)]
  | 4 => [(a, setBits (rd a) (b % 8) 4 c)]
  | _ =>
    if b % 8 ≤ 2 then [(a, setBits (rd a) (b % 8) 6 c)]
    else
      let v := setBits (rd a + 256 * rd (a + 1)) (b % 8) 6 c
      [(a, v % 256), (a + 1, v / 256 % 256)]

end Sys2Proof.Machine
end

