-- ==== Sys2Proof/Config.lean ====
section
/-!
DEFINITION. The free values: constants without a body that stand for every value the specification
leaves open. A meaning applies one to the model's own counter of free values, so nothing can be
proved of the value it gives.
-/
namespace Sys2Proof

/-- A free choice between two outcomes that the specification both allows (R101, R110, R168, R197,
R314, R402). -/
opaque Config.freeBit : Nat → Bool

/-- A free byte: host memory that the package has not written and that the command does not carry
(R325, R333). -/
opaque Config.freeByte : Nat → Byte

/-- A free 64-bit word: random values and identifiers that the specification does not fix. -/
opaque Config.freeWord : Nat → Word

/-- The address hash of the tile caches (R167), of a device line address: the rule does not give it. -/
opaque Config.tcHash : Nat → Nat

/-- Where Fenivar keeps the 16-byte result record of a group's slot in a half, in units of 32 bytes: R438
leaves the address to it. -/
opaque Config.resultAddr : Nat → Nat → Nat

/-- Where Fenivar keeps the page list of a request, in units of 128 bytes (R351, R438). -/
opaque Config.pageListAddr : Nat → Nat

/-- KV geometry of a model, which no command of the mailbox names: elements of a key (R359), bits of an element and
whether its scale mode is MX32 (R348), the code of the page size (R346), the sliding window or 0 and the targets of a page
list (R354). -/
opaque Config.kvDim : Nat → Nat
@[inherit_doc Config.kvDim] opaque Config.kvWidth : Nat → Nat
@[inherit_doc Config.kvDim] opaque Config.kvMx32 : Nat → Bool
@[inherit_doc Config.kvDim] opaque Config.kvPgsz : Nat → Nat
@[inherit_doc Config.kvDim] opaque Config.kvWindow : Nat → Nat
@[inherit_doc Config.kvDim] opaque Config.kvTargets : Nat → Nat

/-- The KV pools of a model (R346, R347): for each the context whose tables map it, KV_LO in units of 64 KiB, the pages
up to KV_HI, and the pseudo-channels of its target positions. Igord's placement gives them. -/
opaque Config.kvPools : Nat → List (Nat × Nat × Nat × List Nat)

/-- Whether Fenivar keeps other data than KV pages at a device address, by the address of a quarter of a 64 KiB block: the
specification does not lay device memory out. -/
opaque Config.otherData : Nat → Bool

/-- Where Fenivar puts a new page table of a context, in units of 4 KiB, by the level and the address it maps (R347): the
specification leaves the place to it. -/
opaque Config.newTable : Nat → Nat → Nat → Nat

/-- The row-placed regions that Igord asks for with a context (R403): first virtual address in units of 64 KiB,
pseudo-channel, first device row in units of 512 and 64 KiB blocks. No command carries the request. -/
opaque Config.rowRegions : Nat → List (Nat × Nat × Nat × Nat)

/-- Whether the kernel of a handle is a ring kernel (R372, R374): nothing that the package holds says so. -/
opaque Config.ringKernel : Nat → Bool

/-- Ehrura's identifier, which Vendor ID and Subsystem Vendor ID hold (R492): the specification does not give its
number. -/
opaque Config.ehruraId : BitVec 16

/-- The denominator of `nb.adam` for an infinite second-moment estimate, from the code of eps: R310
writes the estimate as a finite product and states no result there. -/
opaque Config.adamInfDen : Nat → BitVec 32

/-- The line of a journal area that a record goes to: the layout of the areas is Fenivar's own (R547). A free value (log
entry 115). -/
opaque Config.journalLine : Nat → Nat

end Sys2Proof
end

