-- ==== Sys2Proof/Machine/Memory.lean ====
section
/-!
DEFINITION. Byte memory in one canonical form, used for device memory and for local memory: a list
of (address, byte) pairs with strictly rising addresses and no zero byte, since an unlisted address
reads zero (R618). Wider accesses are built here, little-endian (R18).
-/
namespace Sys2Proof.Machine

/-- The byte at an address. -/
def cellGet : List Host.Cell → Nat → Byte
  | [], _ => 0
  | c :: r, a => if c.1 = a then c.2 else cellGet r a

/-- Insert a non-zero byte at its place. -/
def cellIns : List Host.Cell → Nat → Byte → List Host.Cell
  | [], a, b => [(a, b)]
  | c :: r, a, b =>
    if a < c.1 then (a, b) :: c :: r
    else if c.1 = a then (a, b) :: r
    else c :: cellIns r a b

/-- Memory with the byte at an address replaced; a zero byte is not listed. -/
def cellPut (m : List Host.Cell) (a : Nat) (b : Byte) : List Host.Cell :=
  if b = 0 then m.filter (fun c => c.1 ≠ a) else cellIns m a b

/-- `n` bytes from an address upward. -/
def cellRead (m : List Host.Cell) : Nat → Nat → List Byte
  | _, 0 => []
  | a, n + 1 => cellGet m a :: cellRead m (a + 1) n

/-- Bytes written from an address upward. -/
def cellWrite (m : List Host.Cell) : Nat → List Byte → List Host.Cell
  | _, [] => m
  | a, b :: bs => cellWrite (cellPut m a b) (a + 1) bs

/-- Bytes written at listed addresses, in order. -/
def cellStores (m : List Host.Cell) (st : List (Nat × Byte)) : List Host.Cell :=
  st.foldl (fun acc p => cellPut acc p.1 p.2) m

/-- Every address from `lo` on strictly rises and no byte is zero. -/
def cellsFrom : Nat → List Host.Cell → Bool
  | _, [] => true
  | lo, c :: r => decide (lo ≤ c.1) && decide (c.2 ≠ 0) && cellsFrom (c.1 + 1) r

/-- The canonical form of a memory. -/
def memWf (m : List Host.Cell) : Bool := cellsFrom 0 m

/-- A number added to a set kept as a list without repeats. -/
def setIns (l : List Nat) (x : Nat) : List Nat := if l.contains x then l else x :: l

/-- A number removed from such a set. -/
def setDel (l : List Nat) (x : Nat) : List Nat := l.filter (· ≠ x)

end Sys2Proof.Machine
end

