-- ==== Sys2Proof/Machine/Regs.lean ====
section
/-!
DEFINITION. The registers of the block pages, one name per register table of the specification
(R18 to R22), with the place, type and reset value of every field. A reset that the tables write as
"fuse", "strap", "per page", "fixed", "per source" or "VMGMT" stands here as zero; the operations
that read such a register supply the value (see Machine/RegOps.lean).
-/
namespace Sys2Proof.Machine

/-- The block types of Table: Register window map (R522). -/
inductive Blk where
  | pkgId | own | hif | frame | xinv | zroute | zwin | zsync | zl | pwr | therm | jrnl
  | elog | bist | lcs | time | irq | irqp | tc | numev | dmaev | stk | ctxs | xlt
  | sched | zring | serr | cq | tly | lmx | ldst | pcc | blu | fn
  deriving DecidableEq, Repr

/-- Register field types (R22). -/
inductive FTy where
  | ro | rwl | rws | rwq | w1c | w1s | wo
  deriving DecidableEq, Repr

/-- The registers. The first ten are the header that every page carries (R517). -/
inductive Reg where
  | blkId | blkCap | blkCtrl | blkStatus | blkErr | blkErrMask
  | blkIrqPend | blkIrqEn | blkCommit | blkWstat | pkgIdGrade | numevCtxSel
  | numevSat | numevNanLost | numevScaleInvalid | numevIntSat | numevSticky | numevClear
  | cqCredit | cqSpecIssued | cqSpecCancelled | cqSlotCtx | cqSlotCtrl | cqSlotState
  | cqSlotErr | cqSlotErrAddr | cqSlotPred | cqPc | cqWaiting | tlySel
  | tlySignal | tlyOrphan | tlyValue | lmxWin | lmxConflict | lmxMxBusy
  | lmxVxBusy | tcCtrl | tcStatus | tcHit | tcMiss | tcWriteback
  | tcNbDiscard | tcRangeLines | dmaevCtxSel | dmaevOobRead | dmaevOobWrite | dmaevOobIndex
  | dmaevCoalesced | dmaevSticky | dmaevClear | ldstXact | ldstLdBytes | ldstStBytes
  | ldstHostBytes | ldstFaults | stkBand | pccState | pccRefCnt | pccRetry
  | pccExpress | pccSpare | pccOrdArea | pccOrdStat | pccRedCtrl | pccPart
  | pccPartTok | pccNbCfg | pccNbSave | pccNbState | pccNbNext | pccUnseal
  | pccUnsealCtrl | pccNbStitches | pccNbSlotCycles | pccNbRefreshGaps | pccNbSwitches | bluMap
  | bluState | bluEcc | bluStitches | bluColops | bluRowprim | tlyScopeChk
  | tlyScopeMismatch | tlyScopeNoorder | tlyScopeLast | ctxsStore | ctxsStallLimit | ctxsStall
  | ctxsEvict | ctxsSwitch | ctxsStatus | ctxsSwitches | ctxsStalls | ctxsBlocked
  | xltFringBase | xltFringCtrl | xltFringTail | xltFringHead | xltFresume | xltWalks
  | xltStlbHit | xltStlbMiss | xltFaults | xinvVa | xinvLen | xinvCmd
  | xinvStatus | frameCtrl | framePeriod | frameActAt | frameStatus | frameCadence
  | frameWork | frameStart | frameIdled | frameLost | frameIdle | schedTable
  | schedCount | schedLoad | schedVstat | schedLaunches | schedSlips | schedOverruns
  | schedNotArmed | schedDropped | schedArm | zlCfg | zlStatus | zlDelay
  | zlFlitsTx | zlFlitsRx | zlNaks | zlRetrains | zlDropped | zlCtrl
  | zrouteSelf | zrouteSel | zrouteEntry | zwinBase | zwinInval | zwinStatus
  | zwinRefused | zwinOrphans | zwinForwarded | zsyncCfg | zsyncStatus | zsyncError
  | zsyncOffset | zringBase | zringCfg | zringState | ownReinClaim | ownHandover
  | ownHeartbeat | ownEligible | ownSeqNext | hifLink | hifAper | hifUr
  | hifUnsealedReads | hifPoisonReads | hifDroppedWrites | hifCplTimeouts | fnSqBase | fnSqCfg
  | fnSqHead | fnSqState | fnCqBase | fnCqHead | fnTsigTgt | fnTsigAdd
  | fnMbCmd | fnMbRsp | fnMbState | fnMbGo | fnDb | serrBktCfg
  | serrBktSel | serrBktLevel | serrFlip | serrScrub | serrAlias | serrScrubStale
  | elogStatus | elogSel | elogData | elogDone | elogClear | elogMirror
  | elogMirrorCount | elogRetire | jrnlCtrl | jrnlArea0 | jrnlArea1 | jrnlRcpt
  | jrnlStatus | jrnlAccepted | jrnlCommitted | jrnlReplayed | jrnlFailed | jrnlDup
  | jrnlRcptFull | pwrLimit | pwrBudgetTo | pwrAlloc | pwrMeas | pwrLearn
  | pwrTrActive | pwrTrTime | pwrTrClear | pwrSwfreq | pwrAct | thermSel
  | thermRead | thermPkgMax | thermWarn | thermRate | thermAlarm | thermTrip
  | thermSpan | pkgIdStraps | pkgIdRails | lcsState | lcsReq | lcsStatus
  | lcsCtrl | lcsImage | lcsRetlist | bistCmd | bistStatus | bistFailAddr
  | bistFailBit | bistSigGot | bistSigExp | bistSummary | bistPeriod | irqpClaim
  | irqpComplete | irqpState | irqpThresh | irqpSwSet | irqpTimer | irqpFault
  | irqpStackReset | irqpMerged | irqpPriv | irqSel | irqCfg | irqSwSet
  | irqEoi | timeTick | timeCorr | timeCorrStat | fnBlkVec
  deriving DecidableEq, Repr

/-- A register field: its register, lowest bit, width, type and reset value. -/
structure RField where
  reg : Reg
  lo : Nat
  w : Nat
  ty : FTy
  rst : Nat
  deriving DecidableEq, Repr

/-- A register's place in its page: offset of element 0, and up to two strides with their counts;
element `k` of two strides is `n2 * i + j`. -/
structure RegRow where
  reg : Reg
  off : Nat
  stride : Nat
  count : Nat
  stride2 : Nat
  count2 : Nat
  flds : List RField
  deriving DecidableEq, Repr

/-- BLK_ID 63:56 MAJOR (14). -/
def fBlkIdMajor : RField := ⟨.blkId, 56, 8, .ro, 1⟩
/-- BLK_ID 55:48 MINOR (14). -/
def fBlkIdMinor : RField := ⟨.blkId, 48, 8, .ro, 0⟩
/-- BLK_ID 47:40 MIN_MINOR (14). -/
def fBlkIdMinMinor : RField := ⟨.blkId, 40, 8, .ro, 0⟩
/-- BLK_ID 34:33 CAUSE (14). -/
def fBlkIdCause : RField := ⟨.blkId, 33, 2, .ro, 0⟩
/-- BLK_ID bit 32 PRESENT (14). -/
def fBlkIdPresent : RField := ⟨.blkId, 32, 1, .ro, 0⟩
/-- BLK_ID 31:16 INSTANCE (14). -/
def fBlkIdInstance : RField := ⟨.blkId, 16, 16, .ro, 0⟩
/-- BLK_ID 15:0 TYPE (14). -/
def fBlkIdType : RField := ⟨.blkId, 0, 16, .ro, 0⟩
/-- BLK_CAP 63:0 CAP (14). -/
def fBlkCapCap : RField := ⟨.blkCap, 0, 64, .ro, 0⟩
/-- BLK_CTRL 7:0 MINOR_SEL (14). -/
def fBlkCtrlMinorSel : RField := ⟨.blkCtrl, 0, 8, .rwq, 0⟩
/-- BLK_STATUS 63:8 SPECIFIC (14). -/
def fBlkStatusSpecific : RField := ⟨.blkStatus, 8, 56, .ro, 0⟩
/-- BLK_STATUS bit 2 COMMIT_PEND (14). -/
def fBlkStatusCommitPend : RField := ⟨.blkStatus, 2, 1, .ro, 0⟩
/-- BLK_STATUS bit 1 STAGED (14). -/
def fBlkStatusStaged : RField := ⟨.blkStatus, 1, 1, .ro, 0⟩
/-- BLK_STATUS bit 0 QUIESCENT (14). -/
def fBlkStatusQuiescent : RField := ⟨.blkStatus, 0, 1, .ro, 1⟩
/-- BLK_ERR 63:56 FIRST (14). -/
def fBlkErrFirst : RField := ⟨.blkErr, 56, 8, .ro, 0⟩
/-- BLK_ERR bit 55 FIRST_VALID (14). -/
def fBlkErrFirstValid : RField := ⟨.blkErr, 55, 1, .ro, 0⟩
/-- BLK_ERR 47:32 COUNT (14). -/
def fBlkErrCount : RField := ⟨.blkErr, 32, 16, .ro, 0⟩
/-- BLK_ERR 31:0 ACC (14). -/
def fBlkErrAcc : RField := ⟨.blkErr, 0, 32, .w1c, 0⟩
/-- BLK_ERR_MASK 31:0 MASK (14). -/
def fBlkErrMaskMask : RField := ⟨.blkErrMask, 0, 32, .rwl, 0⟩
/-- BLK_IRQ_PEND 31:1 SRC (14). -/
def fBlkIrqPendSrc : RField := ⟨.blkIrqPend, 1, 31, .w1c, 0⟩
/-- BLK_IRQ_PEND bit 0 ERR (14). -/
def fBlkIrqPendErr : RField := ⟨.blkIrqPend, 0, 1, .ro, 0⟩
/-- BLK_IRQ_EN 31:0 EN (14). -/
def fBlkIrqEnEn : RField := ⟨.blkIrqEn, 0, 32, .rwl, 0⟩
/-- BLK_COMMIT bit 1 DISCARD (14). -/
def fBlkCommitDiscard : RField := ⟨.blkCommit, 1, 1, .wo, 0⟩
/-- BLK_COMMIT bit 0 COMMIT (14). -/
def fBlkCommitCommit : RField := ⟨.blkCommit, 0, 1, .wo, 0⟩
/-- BLK_WSTAT 63:48 COUNT (14). -/
def fBlkWstatCount : RField := ⟨.blkWstat, 48, 16, .ro, 0⟩
/-- BLK_WSTAT 47:45 MASTER (14). -/
def fBlkWstatMaster : RField := ⟨.blkWstat, 45, 3, .ro, 0⟩
/-- BLK_WSTAT 41:36 FIELD_LSB (14). -/
def fBlkWstatFieldLsb : RField := ⟨.blkWstat, 36, 6, .ro, 0⟩
/-- BLK_WSTAT 32:24 OFFSET (14). -/
def fBlkWstatOffset : RField := ⟨.blkWstat, 24, 9, .ro, 0⟩
/-- BLK_WSTAT bit 8 VALID (14). -/
def fBlkWstatValid : RField := ⟨.blkWstat, 8, 1, .w1c, 0⟩
/-- BLK_WSTAT 7:0 CODE (14). -/
def fBlkWstatCode : RField := ⟨.blkWstat, 0, 8, .ro, 0⟩
/-- PKG_ID.GRADE 35:24 ZL_PORT_MASK (00). -/
def fPkgIdGradeZlPortMask : RField := ⟨.pkgIdGrade, 24, 12, .ro, 0⟩
/-- PKG_ID.GRADE 23:16 DIES_PER_STACK (00). -/
def fPkgIdGradeDiesPerStack : RField := ⟨.pkgIdGrade, 16, 8, .ro, 0⟩
/-- PKG_ID.GRADE 15:8 CORES_PER_SPAN (00). -/
def fPkgIdGradeCoresPerSpan : RField := ⟨.pkgIdGrade, 8, 8, .ro, 0⟩
/-- PKG_ID.GRADE 7:0 GRADE_CODE (00). -/
def fPkgIdGradeGradeCode : RField := ⟨.pkgIdGrade, 0, 8, .ro, 0⟩
/-- NUMEV.CTX_SEL 11:0 CTX (02). -/
def fNumevCtxSelCtx : RField := ⟨.numevCtxSel, 0, 12, .rwl, 0⟩
/-- NUMEV.SAT 47:0 COUNT (02). -/
def fNumevSatCount : RField := ⟨.numevSat, 0, 48, .ro, 0⟩
/-- NUMEV.NAN_LOST 47:0 COUNT (02). -/
def fNumevNanLostCount : RField := ⟨.numevNanLost, 0, 48, .ro, 0⟩
/-- NUMEV.SCALE_INVALID 47:0 COUNT (02). -/
def fNumevScaleInvalidCount : RField := ⟨.numevScaleInvalid, 0, 48, .ro, 0⟩
/-- NUMEV.INT_SAT 47:0 COUNT (02). -/
def fNumevIntSatCount : RField := ⟨.numevIntSat, 0, 48, .ro, 0⟩
/-- NUMEV.STICKY bit 5 INF_OUT (02). -/
def fNumevStickyInfOut : RField := ⟨.numevSticky, 5, 1, .w1c, 0⟩
/-- NUMEV.STICKY bit 4 NAN_OUT (02). -/
def fNumevStickyNanOut : RField := ⟨.numevSticky, 4, 1, .w1c, 0⟩
/-- NUMEV.STICKY bit 3 INT_SAT (02). -/
def fNumevStickyIntSat : RField := ⟨.numevSticky, 3, 1, .w1c, 0⟩
/-- NUMEV.STICKY bit 2 SCALE_INVALID (02). -/
def fNumevStickyScaleInvalid : RField := ⟨.numevSticky, 2, 1, .w1c, 0⟩
/-- NUMEV.STICKY bit 1 NAN_LOST (02). -/
def fNumevStickyNanLost : RField := ⟨.numevSticky, 1, 1, .w1c, 0⟩
/-- NUMEV.STICKY bit 0 SAT (02). -/
def fNumevStickySat : RField := ⟨.numevSticky, 0, 1, .w1c, 0⟩
/-- NUMEV.CLEAR bit 1 CLEAR_ALL (02). -/
def fNumevClearClearAll : RField := ⟨.numevClear, 1, 1, .wo, 0⟩
/-- NUMEV.CLEAR bit 0 CLEAR_CTX (02). -/
def fNumevClearClearCtx : RField := ⟨.numevClear, 0, 1, .wo, 0⟩
/-- CQ.CREDIT 60:50 TOTAL (03). -/
def fCqCreditTotal : RField := ⟨.cqCredit, 50, 11, .ro, 0⟩
/-- CQ.CREDIT 49:40 NB (03). -/
def fCqCreditNb : RField := ⟨.cqCredit, 40, 10, .ro, 0⟩
/-- CQ.CREDIT 39:30 ST (03). -/
def fCqCreditSt : RField := ⟨.cqCredit, 30, 10, .ro, 0⟩
/-- CQ.CREDIT 29:20 VX (03). -/
def fCqCreditVx : RField := ⟨.cqCredit, 20, 10, .ro, 0⟩
/-- CQ.CREDIT 19:10 MX (03). -/
def fCqCreditMx : RField := ⟨.cqCredit, 10, 10, .ro, 0⟩
/-- CQ.CREDIT 9:0 LD (03). -/
def fCqCreditLd : RField := ⟨.cqCredit, 0, 10, .ro, 0⟩
/-- CQ.SPEC_ISSUED 47:0 COUNT (03). -/
def fCqSpecIssuedCount : RField := ⟨.cqSpecIssued, 0, 48, .ro, 0⟩
/-- CQ.SPEC_CANCELLED 47:0 COUNT (03). -/
def fCqSpecCancelledCount : RField := ⟨.cqSpecCancelled, 0, 48, .ro, 0⟩
/-- CQ.SLOT_CTX 15:13 PRIO (03). -/
def fCqSlotCtxPrio : RField := ⟨.cqSlotCtx, 13, 3, .ro, 0⟩
/-- CQ.SLOT_CTX bit 12 VALID (03). -/
def fCqSlotCtxValid : RField := ⟨.cqSlotCtx, 12, 1, .ro, 0⟩
/-- CQ.SLOT_CTX 11:0 CTX (03). -/
def fCqSlotCtxCtx : RField := ⟨.cqSlotCtx, 0, 12, .ro, 0⟩
/-- CQ.SLOT_CTRL bit 16 ABORT (03). -/
def fCqSlotCtrlAbort : RField := ⟨.cqSlotCtrl, 16, 1, .wo, 0⟩
/-- CQ.SLOT_CTRL 12:8 RESUME (03). -/
def fCqSlotCtrlResume : RField := ⟨.cqSlotCtrl, 8, 5, .wo, 0⟩
/-- CQ.SLOT_CTRL 4:0 HALT (03). -/
def fCqSlotCtrlHalt : RField := ⟨.cqSlotCtrl, 0, 5, .w1s, 0⟩
/-- CQ.SLOT_STATE 24:20 LAUNCHES (03). -/
def fCqSlotStateLaunches : RField := ⟨.cqSlotState, 20, 5, .ro, 0⟩
/-- CQ.SLOT_STATE 19:0 STATE (03). -/
def fCqSlotStateState : RField := ⟨.cqSlotState, 0, 20, .ro, 0⟩
/-- CQ.SLOT_ERR bit 11 VALID (03). -/
def fCqSlotErrValid : RField := ⟨.cqSlotErr, 11, 1, .w1c, 0⟩
/-- CQ.SLOT_ERR 10:8 ENGINE (03). -/
def fCqSlotErrEngine : RField := ⟨.cqSlotErr, 8, 3, .ro, 0⟩
/-- CQ.SLOT_ERR 7:0 CODE (03). -/
def fCqSlotErrCode : RField := ⟨.cqSlotErr, 0, 8, .ro, 0⟩
/-- CQ.SLOT_ERR_ADDR 63:0 ADDR (03). -/
def fCqSlotErrAddrAddr : RField := ⟨.cqSlotErrAddr, 0, 64, .ro, 0⟩
/-- CQ.SLOT_PRED 15:0 PRED (03). -/
def fCqSlotPredPred : RField := ⟨.cqSlotPred, 0, 16, .ro, 1⟩
/-- CQ.PC 63:0 PC (03). -/
def fCqPcPc : RField := ⟨.cqPc, 0, 64, .ro, 0⟩
/-- CQ.WAITING 54:48 TALLY (03). -/
def fCqWaitingTally : RField := ⟨.cqWaiting, 48, 7, .ro, 0⟩
/-- CQ.WAITING 47:0 TARGET (03). -/
def fCqWaitingTarget : RField := ⟨.cqWaiting, 0, 48, .ro, 0⟩
/-- TLY.SEL 1:0 SLOT (03). -/
def fTlySelSlot : RField := ⟨.tlySel, 0, 2, .rwl, 0⟩
/-- TLY.SIGNAL 54:48 TALLY (03). -/
def fTlySignalTally : RField := ⟨.tlySignal, 48, 7, .wo, 0⟩
/-- TLY.SIGNAL 47:0 ADD (03). -/
def fTlySignalAdd : RField := ⟨.tlySignal, 0, 48, .wo, 0⟩
/-- TLY.ORPHAN 47:0 COUNT (03). -/
def fTlyOrphanCount : RField := ⟨.tlyOrphan, 0, 48, .ro, 0⟩
/-- TLY.VALUE 47:0 VALUE (03). -/
def fTlyValueValue : RField := ⟨.tlyValue, 0, 48, .ro, 0⟩
/-- LMX.WIN 15:8 SIZE (04). -/
def fLmxWinSize : RField := ⟨.lmxWin, 8, 8, .ro, 0⟩
/-- LMX.WIN 6:0 BASE (04). -/
def fLmxWinBase : RField := ⟨.lmxWin, 0, 7, .ro, 0⟩
/-- LMX.CONFLICT 47:0 COUNT (04). -/
def fLmxConflictCount : RField := ⟨.lmxConflict, 0, 48, .ro, 0⟩
/-- LMX.MX_BUSY 47:0 COUNT (04). -/
def fLmxMxBusyCount : RField := ⟨.lmxMxBusy, 0, 48, .ro, 0⟩
/-- LMX.VX_BUSY 47:0 COUNT (04). -/
def fLmxVxBusyCount : RField := ⟨.lmxVxBusy, 0, 48, .ro, 0⟩
/-- TC.CTRL bit 0 FLUSH_ALL (04). -/
def fTcCtrlFlushAll : RField := ⟨.tcCtrl, 0, 1, .wo, 0⟩
/-- TC.STATUS bit 20 FLUSH_BUSY (04). -/
def fTcStatusFlushBusy : RField := ⟨.tcStatus, 20, 1, .ro, 0⟩
/-- TC.STATUS 19:0 DIRTY_LINES (04). -/
def fTcStatusDirtyLines : RField := ⟨.tcStatus, 0, 20, .ro, 0⟩
/-- TC.HIT 47:0 COUNT (04). -/
def fTcHitCount : RField := ⟨.tcHit, 0, 48, .ro, 0⟩
/-- TC.MISS 47:0 COUNT (04). -/
def fTcMissCount : RField := ⟨.tcMiss, 0, 48, .ro, 0⟩
/-- TC.WRITEBACK 47:0 COUNT (04). -/
def fTcWritebackCount : RField := ⟨.tcWriteback, 0, 48, .ro, 0⟩
/-- TC.NB_DISCARD 47:0 COUNT (04). -/
def fTcNbDiscardCount : RField := ⟨.tcNbDiscard, 0, 48, .ro, 0⟩
/-- TC.RANGE_LINES 47:0 COUNT (04). -/
def fTcRangeLinesCount : RField := ⟨.tcRangeLines, 0, 48, .ro, 0⟩
/-- DMAEV.CTX_SEL 11:0 CTX (05). -/
def fDmaevCtxSelCtx : RField := ⟨.dmaevCtxSel, 0, 12, .rwl, 0⟩
/-- DMAEV.OOB_READ 47:0 COUNT (05). -/
def fDmaevOobReadCount : RField := ⟨.dmaevOobRead, 0, 48, .ro, 0⟩
/-- DMAEV.OOB_WRITE 47:0 COUNT (05). -/
def fDmaevOobWriteCount : RField := ⟨.dmaevOobWrite, 0, 48, .ro, 0⟩
/-- DMAEV.OOB_INDEX 47:0 COUNT (05). -/
def fDmaevOobIndexCount : RField := ⟨.dmaevOobIndex, 0, 48, .ro, 0⟩
/-- DMAEV.COALESCED 47:0 COUNT (05). -/
def fDmaevCoalescedCount : RField := ⟨.dmaevCoalesced, 0, 48, .ro, 0⟩
/-- DMAEV.STICKY bit 2 OOB_INDEX (05). -/
def fDmaevStickyOobIndex : RField := ⟨.dmaevSticky, 2, 1, .w1c, 0⟩
/-- DMAEV.STICKY bit 1 OOB_WRITE (05). -/
def fDmaevStickyOobWrite : RField := ⟨.dmaevSticky, 1, 1, .w1c, 0⟩
/-- DMAEV.STICKY bit 0 OOB_READ (05). -/
def fDmaevStickyOobRead : RField := ⟨.dmaevSticky, 0, 1, .w1c, 0⟩
/-- DMAEV.CLEAR bit 1 CLEAR_ALL (05). -/
def fDmaevClearClearAll : RField := ⟨.dmaevClear, 1, 1, .wo, 0⟩
/-- DMAEV.CLEAR bit 0 CLEAR_CTX (05). -/
def fDmaevClearClearCtx : RField := ⟨.dmaevClear, 0, 1, .wo, 0⟩
/-- LDST.XACT 19:9 HELD (05). -/
def fLdstXactHeld : RField := ⟨.ldstXact, 9, 11, .ro, 0⟩
/-- LDST.XACT 8:0 SPEC (05). -/
def fLdstXactSpec : RField := ⟨.ldstXact, 0, 9, .ro, 0⟩
/-- LDST.LD_BYTES 47:0 COUNT (05). -/
def fLdstLdBytesCount : RField := ⟨.ldstLdBytes, 0, 48, .ro, 0⟩
/-- LDST.ST_BYTES 47:0 COUNT (05). -/
def fLdstStBytesCount : RField := ⟨.ldstStBytes, 0, 48, .ro, 0⟩
/-- LDST.HOST_BYTES 47:0 COUNT (05). -/
def fLdstHostBytesCount : RField := ⟨.ldstHostBytes, 0, 48, .ro, 0⟩
/-- LDST.FAULTS 47:0 COUNT (05). -/
def fLdstFaultsCount : RField := ⟨.ldstFaults, 0, 48, .ro, 0⟩
/-- STK.BAND 31:8 CHANGES (06). -/
def fStkBandChanges : RField := ⟨.stkBand, 8, 24, .ro, 0⟩
/-- STK.BAND 1:0 BAND (06). -/
def fStkBandBand : RField := ⟨.stkBand, 0, 2, .ro, 0⟩
/-- PCC.STATE bit 20 RETRAIN (06). -/
def fPccStateRetrain : RField := ⟨.pccState, 20, 1, .ro, 0⟩
/-- PCC.STATE bit 19 PAUSED (06). -/
def fPccStatePaused : RField := ⟨.pccState, 19, 1, .ro, 0⟩
/-- PCC.STATE 18:17 BAND (06). -/
def fPccStateBand : RField := ⟨.pccState, 17, 2, .ro, 0⟩
/-- PCC.STATE 16:12 OWED (06). -/
def fPccStateOwed : RField := ⟨.pccState, 12, 5, .ro, 0⟩
/-- PCC.STATE 8:0 QUEUED (06). -/
def fPccStateQueued : RField := ⟨.pccState, 0, 9, .ro, 0⟩
/-- PCC.REF_CNT 47:0 COUNT (06). -/
def fPccRefCntCount : RField := ⟨.pccRefCnt, 0, 48, .ro, 0⟩
/-- PCC.RETRY 63:56 ESCALATIONS (06). -/
def fPccRetryEscalations : RField := ⟨.pccRetry, 56, 8, .ro, 0⟩
/-- PCC.RETRY 55:40 RDATA (06). -/
def fPccRetryRdata : RField := ⟨.pccRetry, 40, 16, .ro, 0⟩
/-- PCC.RETRY 39:24 WDATA (06). -/
def fPccRetryWdata : RField := ⟨.pccRetry, 24, 16, .ro, 0⟩
/-- PCC.RETRY 23:8 CA (06). -/
def fPccRetryCa : RField := ⟨.pccRetry, 8, 16, .ro, 0⟩
/-- PCC.EXPRESS 39:24 DEPTH (06). -/
def fPccExpressDepth : RField := ⟨.pccExpress, 24, 16, .rws, 1024⟩
/-- PCC.EXPRESS 11:0 RATE (06). -/
def fPccExpressRate : RField := ⟨.pccExpress, 0, 12, .rws, 200⟩
/-- PCC.SPARE 19:18 STATE (06). -/
def fPccSpareState : RField := ⟨.pccSpare, 18, 2, .ro, 0⟩
/-- PCC.SPARE 17:16 SPARE (06). -/
def fPccSpareSpare : RField := ⟨.pccSpare, 16, 2, .rwl, 0⟩
/-- PCC.SPARE 12:8 LBANK (06). -/
def fPccSpareLbank : RField := ⟨.pccSpare, 8, 5, .rwl, 0⟩
/-- PCC.SPARE bit 0 START (06). -/
def fPccSpareStart : RField := ⟨.pccSpare, 0, 1, .wo, 0⟩
/-- PCC.ORD_AREA 26:16 SIZE (06). -/
def fPccOrdAreaSize : RField := ⟨.pccOrdArea, 16, 11, .rwq, 0⟩
/-- PCC.ORD_AREA 14:0 BASE_ROW (06). -/
def fPccOrdAreaBaseRow : RField := ⟨.pccOrdArea, 0, 15, .rwq, 0⟩
/-- PCC.ORD_STAT 63:40 EARLY (06). -/
def fPccOrdStatEarly : RField := ⟨.pccOrdStat, 40, 24, .ro, 0⟩
/-- PCC.ORD_STAT 36:22 LINES (06). -/
def fPccOrdStatLines : RField := ⟨.pccOrdStat, 22, 15, .ro, 0⟩
/-- PCC.ORD_STAT 21:0 STAGED (06). -/
def fPccOrdStatStaged : RField := ⟨.pccOrdStat, 0, 22, .ro, 0⟩
/-- PCC.RED_CTRL bit 1 BUF_WB (06). -/
def fPccRedCtrlBufWb : RField := ⟨.pccRedCtrl, 1, 1, .wo, 0⟩
/-- PCC.RED_CTRL bit 0 SETTLE_ALL (06). -/
def fPccRedCtrlSettleAll : RField := ⟨.pccRedCtrl, 0, 1, .wo, 0⟩
/-- PCC.PART bit 41 EXPRESS (06). -/
def fPccPartExpress : RField := ⟨.pccPart, 41, 1, .rws, 0⟩
/-- PCC.PART bit 40 ENABLE (06). -/
def fPccPartEnable : RField := ⟨.pccPart, 40, 1, .rws, 0⟩
/-- PCC.PART 39:24 DEPTH (06). -/
def fPccPartDepth : RField := ⟨.pccPart, 24, 16, .rws, 0⟩
/-- PCC.PART 11:0 RATE (06). -/
def fPccPartRate : RField := ⟨.pccPart, 0, 12, .rws, 0⟩
/-- PCC.PART_TOK 47:24 DEFER (06). -/
def fPccPartTokDefer : RField := ⟨.pccPartTok, 24, 24, .ro, 0⟩
/-- PCC.PART_TOK 17:0 TOKENS (06). -/
def fPccPartTokTokens : RField := ⟨.pccPartTok, 0, 18, .ro, 0⟩
/-- PCC.NB_CFG 23:16 QUANTUM (07). -/
def fPccNbCfgQuantum : RField := ⟨.pccNbCfg, 16, 8, .rws, 20⟩
/-- PCC.NB_CFG 4:0 SLOTS (07). -/
def fPccNbCfgSlots : RField := ⟨.pccNbCfg, 0, 5, .rws, 16⟩
/-- PCC.NB_SAVE bit 15 ENABLE (07). -/
def fPccNbSaveEnable : RField := ⟨.pccNbSave, 15, 1, .rwq, 0⟩
/-- PCC.NB_SAVE 14:0 BASE_ROW (07). -/
def fPccNbSaveBaseRow : RField := ⟨.pccNbSave, 0, 15, .rwq, 0⟩
/-- PCC.NB_STATE 55:52 SAVED (07). -/
def fPccNbStateSaved : RField := ⟨.pccNbState, 52, 4, .ro, 0⟩
/-- PCC.NB_STATE 51:46 QUEUED (07). -/
def fPccNbStateQueued : RField := ⟨.pccNbState, 46, 6, .ro, 0⟩
/-- PCC.NB_STATE 45:41 SLOTS_EFF (07). -/
def fPccNbStateSlotsEff : RField := ⟨.pccNbState, 41, 5, .ro, 16⟩
/-- PCC.NB_STATE bit 40 RUN_VALID (07). -/
def fPccNbStateRunValid : RField := ⟨.pccNbState, 40, 1, .ro, 0⟩
/-- PCC.NB_STATE 39:28 RUN_CTX (07). -/
def fPccNbStateRunCtx : RField := ⟨.pccNbState, 28, 12, .ro, 0⟩
/-- PCC.NB_NEXT 31:0 STITCH (07). -/
def fPccNbNextStitch : RField := ⟨.pccNbNext, 0, 32, .ro, 0⟩
/-- PCC.UNSEAL 63:40 AUTO_BURNISH (07). -/
def fPccUnsealAutoBurnish : RField := ⟨.pccUnseal, 40, 24, .ro, 0⟩
/-- PCC.UNSEAL 39:16 UNSEALED_READS (07). -/
def fPccUnsealUnsealedReads : RField := ⟨.pccUnseal, 16, 24, .ro, 0⟩
/-- PCC.UNSEAL bit 11 BURNISH_BUSY (07). -/
def fPccUnsealBurnishBusy : RField := ⟨.pccUnseal, 11, 1, .ro, 0⟩
/-- PCC.UNSEAL 10:0 ENTRIES (07). -/
def fPccUnsealEntries : RField := ⟨.pccUnseal, 0, 11, .ro, 0⟩
/-- PCC.UNSEAL_CTRL bit 0 BURNISH_ALL (07). -/
def fPccUnsealCtrlBurnishAll : RField := ⟨.pccUnsealCtrl, 0, 1, .wo, 0⟩
/-- PCC.NB_STITCHES 47:0 COUNT (07). -/
def fPccNbStitchesCount : RField := ⟨.pccNbStitches, 0, 48, .ro, 0⟩
/-- PCC.NB_SLOT_CYCLES 47:0 COUNT (07). -/
def fPccNbSlotCyclesCount : RField := ⟨.pccNbSlotCycles, 0, 48, .ro, 0⟩
/-- PCC.NB_REFRESH_GAPS 47:0 COUNT (07). -/
def fPccNbRefreshGapsCount : RField := ⟨.pccNbRefreshGaps, 0, 48, .ro, 0⟩
/-- PCC.NB_SWITCHES 47:0 COUNT (07). -/
def fPccNbSwitchesCount : RField := ⟨.pccNbSwitches, 0, 48, .ro, 0⟩
/-- BLU.MAP bit 12 SPARE (07). -/
def fBluMapSpare : RField := ⟨.bluMap, 12, 1, .ro, 0⟩
/-- BLU.MAP bit 11 ACTIVE (07). -/
def fBluMapActive : RField := ⟨.bluMap, 11, 1, .ro, 0⟩
/-- BLU.MAP 10:5 PC (07). -/
def fBluMapPc : RField := ⟨.bluMap, 5, 6, .ro, 0⟩
/-- BLU.MAP 4:0 LBANK (07). -/
def fBluMapLbank : RField := ⟨.bluMap, 0, 5, .ro, 0⟩
/-- BLU.STATE 47:16 STITCH (07). -/
def fBluStateStitch : RField := ⟨.bluState, 16, 32, .ro, 0⟩
/-- BLU.STATE 15:4 CTX (07). -/
def fBluStateCtx : RField := ⟨.bluState, 4, 12, .ro, 0⟩
/-- BLU.STATE bit 3 DRAIN (07). -/
def fBluStateDrain : RField := ⟨.bluState, 3, 1, .ro, 0⟩
/-- BLU.STATE 2:0 KIND (07). -/
def fBluStateKind : RField := ⟨.bluState, 0, 3, .ro, 0⟩
/-- BLU.ECC 63:48 CHAIN_RETRY (07). -/
def fBluEccChainRetry : RField := ⟨.bluEcc, 48, 16, .ro, 0⟩
/-- BLU.ECC 47:32 UNCORR (07). -/
def fBluEccUncorr : RField := ⟨.bluEcc, 32, 16, .ro, 0⟩
/-- BLU.ECC 31:0 CORRECTED (07). -/
def fBluEccCorrected : RField := ⟨.bluEcc, 0, 32, .ro, 0⟩
/-- BLU.STITCHES 47:0 COUNT (07). -/
def fBluStitchesCount : RField := ⟨.bluStitches, 0, 48, .ro, 0⟩
/-- BLU.COLOPS 47:0 COUNT (07). -/
def fBluColopsCount : RField := ⟨.bluColops, 0, 48, .ro, 0⟩
/-- BLU.ROWPRIM 47:0 COUNT (07). -/
def fBluRowprimCount : RField := ⟨.bluRowprim, 0, 48, .ro, 0⟩
/-- TLY.SCOPE_CHK bit 0 ENABLE (09). -/
def fTlyScopeChkEnable : RField := ⟨.tlyScopeChk, 0, 1, .rwl, 0⟩
/-- TLY.SCOPE_MISMATCH 47:0 COUNT (09). -/
def fTlyScopeMismatchCount : RField := ⟨.tlyScopeMismatch, 0, 48, .ro, 0⟩
/-- TLY.SCOPE_NOORDER 47:0 COUNT (09). -/
def fTlyScopeNoorderCount : RField := ⟨.tlyScopeNoorder, 0, 48, .ro, 0⟩
/-- TLY.SCOPE_LAST bit 44 VALID (09). -/
def fTlyScopeLastValid : RField := ⟨.tlyScopeLast, 44, 1, .w1c, 0⟩
/-- TLY.SCOPE_LAST 43:32 CTX (09). -/
def fTlyScopeLastCtx : RField := ⟨.tlyScopeLast, 32, 12, .ro, 0⟩
/-- TLY.SCOPE_LAST 31:28 SRC_CORE (09). -/
def fTlyScopeLastSrcCore : RField := ⟨.tlyScopeLast, 28, 4, .ro, 0⟩
/-- TLY.SCOPE_LAST 27:25 SRC_SPAN (09). -/
def fTlyScopeLastSrcSpan : RField := ⟨.tlyScopeLast, 25, 3, .ro, 0⟩
/-- TLY.SCOPE_LAST 24:23 SRC_KIND (09). -/
def fTlyScopeLastSrcKind : RField := ⟨.tlyScopeLast, 23, 2, .ro, 0⟩
/-- TLY.SCOPE_LAST 22:21 SIG_SCOPE (09). -/
def fTlyScopeLastSigScope : RField := ⟨.tlyScopeLast, 21, 2, .ro, 0⟩
/-- TLY.SCOPE_LAST 20:19 WAIT_SCOPE (09). -/
def fTlyScopeLastWaitScope : RField := ⟨.tlyScopeLast, 19, 2, .ro, 0⟩
/-- TLY.SCOPE_LAST 18:12 TALLY (09). -/
def fTlyScopeLastTally : RField := ⟨.tlyScopeLast, 12, 7, .ro, 0⟩
/-- TLY.SCOPE_LAST 11:10 SLOT (09). -/
def fTlyScopeLastSlot : RField := ⟨.tlyScopeLast, 10, 2, .ro, 0⟩
/-- CTXS.STORE 43:32 SWAPPED (11). -/
def fCtxsStoreSwapped : RField := ⟨.ctxsStore, 32, 12, .ro, 0⟩
/-- CTXS.STORE 25:16 RUNNABLE (11). -/
def fCtxsStoreRunnable : RField := ⟨.ctxsStore, 16, 10, .ro, 0⟩
/-- CTXS.STORE 9:0 USED (11). -/
def fCtxsStoreUsed : RField := ⟨.ctxsStore, 0, 10, .ro, 0⟩
/-- CTXS.STALL_LIMIT 5:0 LIMIT (11). -/
def fCtxsStallLimitLimit : RField := ⟨.ctxsStallLimit, 0, 6, .rwl, 40⟩
/-- CTXS.STALL 15:0 PEND (11). -/
def fCtxsStallPend : RField := ⟨.ctxsStall, 0, 16, .w1c, 0⟩
/-- CTXS.EVICT bit 8 SAVE (11). -/
def fCtxsEvictSave : RField := ⟨.ctxsEvict, 8, 1, .wo, 0⟩
/-- CTXS.EVICT 5:4 SLOT (11). -/
def fCtxsEvictSlot : RField := ⟨.ctxsEvict, 4, 2, .wo, 0⟩
/-- CTXS.EVICT 3:0 CORE (11). -/
def fCtxsEvictCore : RField := ⟨.ctxsEvict, 0, 4, .wo, 0⟩
/-- CTXS.SWITCH 24:18 BASE (11). -/
def fCtxsSwitchBase : RField := ⟨.ctxsSwitch, 18, 7, .wo, 0⟩
/-- CTXS.SWITCH 17:16 SLOT (11). -/
def fCtxsSwitchSlot : RField := ⟨.ctxsSwitch, 16, 2, .wo, 0⟩
/-- CTXS.SWITCH 15:12 CORE (11). -/
def fCtxsSwitchCore : RField := ⟨.ctxsSwitch, 12, 4, .wo, 0⟩
/-- CTXS.SWITCH 11:0 CTX (11). -/
def fCtxsSwitchCtx : RField := ⟨.ctxsSwitch, 0, 12, .wo, 0⟩
/-- CTXS.STATUS bit 0 BUSY (11). -/
def fCtxsStatusBusy : RField := ⟨.ctxsStatus, 0, 1, .ro, 0⟩
/-- CTXS.SWITCHES 47:0 COUNT (11). -/
def fCtxsSwitchesCount : RField := ⟨.ctxsSwitches, 0, 48, .ro, 0⟩
/-- CTXS.STALLS 47:0 COUNT (11). -/
def fCtxsStallsCount : RField := ⟨.ctxsStalls, 0, 48, .ro, 0⟩
/-- CTXS.BLOCKED bit 63 BLOCKED (11). -/
def fCtxsBlockedBlocked : RField := ⟨.ctxsBlocked, 63, 1, .ro, 0⟩
/-- CTXS.BLOCKED 62:0 SINCE (11). -/
def fCtxsBlockedSince : RField := ⟨.ctxsBlocked, 0, 63, .ro, 0⟩
/-- XLT.FRING_BASE 63:12 BASE (11). -/
def fXltFringBaseBase : RField := ⟨.xltFringBase, 12, 52, .rwq, 0⟩
/-- XLT.FRING_CTRL 63:32 OVERFLOW (11). -/
def fXltFringCtrlOverflow : RField := ⟨.xltFringCtrl, 32, 32, .ro, 0⟩
/-- XLT.FRING_CTRL 22:16 HELD (11). -/
def fXltFringCtrlHeld : RField := ⟨.xltFringCtrl, 16, 7, .ro, 0⟩
/-- XLT.FRING_CTRL bit 8 ENABLE (11). -/
def fXltFringCtrlEnable : RField := ⟨.xltFringCtrl, 8, 1, .rwl, 0⟩
/-- XLT.FRING_CTRL 4:0 SIZE_LOG2 (11). -/
def fXltFringCtrlSizeLog2 : RField := ⟨.xltFringCtrl, 0, 5, .rwq, 6⟩
/-- XLT.FRING_TAIL 31:0 TAIL (11). -/
def fXltFringTailTail : RField := ⟨.xltFringTail, 0, 32, .ro, 0⟩
/-- XLT.FRING_HEAD 31:0 HEAD (11). -/
def fXltFringHeadHead : RField := ⟨.xltFringHead, 0, 32, .rwl, 0⟩
/-- XLT.FRESUME bit 24 DISCARD (11). -/
def fXltFresumeDiscard : RField := ⟨.xltFresume, 24, 1, .wo, 0⟩
/-- XLT.FRESUME 20:16 ENG (11). -/
def fXltFresumeEng : RField := ⟨.xltFresume, 16, 5, .wo, 0⟩
/-- XLT.FRESUME 15:12 CORE (11). -/
def fXltFresumeCore : RField := ⟨.xltFresume, 12, 4, .wo, 0⟩
/-- XLT.FRESUME 11:0 CTX (11). -/
def fXltFresumeCtx : RField := ⟨.xltFresume, 0, 12, .wo, 0⟩
/-- XLT.WALKS 47:0 COUNT (11). -/
def fXltWalksCount : RField := ⟨.xltWalks, 0, 48, .ro, 0⟩
/-- XLT.STLB_HIT 47:0 COUNT (11). -/
def fXltStlbHitCount : RField := ⟨.xltStlbHit, 0, 48, .ro, 0⟩
/-- XLT.STLB_MISS 47:0 COUNT (11). -/
def fXltStlbMissCount : RField := ⟨.xltStlbMiss, 0, 48, .ro, 0⟩
/-- XLT.FAULTS 47:0 COUNT (11). -/
def fXltFaultsCount : RField := ⟨.xltFaults, 0, 48, .ro, 0⟩
/-- XINV.VA 63:12 VA (11). -/
def fXinvVaVa : RField := ⟨.xinvVa, 12, 52, .rwl, 0⟩
/-- XINV.LEN 47:0 PAGES (11). -/
def fXinvLenPages : RField := ⟨.xinvLen, 0, 48, .rwl, 0⟩
/-- XINV.CMD bit 16 GO (11). -/
def fXinvCmdGo : RField := ⟨.xinvCmd, 16, 1, .wo, 0⟩
/-- XINV.CMD 13:12 KIND (11). -/
def fXinvCmdKind : RField := ⟨.xinvCmd, 12, 2, .wo, 0⟩
/-- XINV.CMD 11:0 ASID (11). -/
def fXinvCmdAsid : RField := ⟨.xinvCmd, 0, 12, .wo, 0⟩
/-- XINV.STATUS 47:16 DONE (11). -/
def fXinvStatusDone : RField := ⟨.xinvStatus, 16, 32, .ro, 0⟩
/-- XINV.STATUS bit 0 BUSY (11). -/
def fXinvStatusBusy : RField := ⟨.xinvStatus, 0, 1, .ro, 0⟩
/-- FRAME.CTRL bit 3 ACTIVATE (12). -/
def fFrameCtrlActivate : RField := ⟨.frameCtrl, 3, 1, .wo, 0⟩
/-- FRAME.CTRL bit 2 STOP (12). -/
def fFrameCtrlStop : RField := ⟨.frameCtrl, 2, 1, .wo, 0⟩
/-- FRAME.CTRL bit 1 START (12). -/
def fFrameCtrlStart : RField := ⟨.frameCtrl, 1, 1, .wo, 0⟩
/-- FRAME.CTRL bit 0 MODE (12). -/
def fFrameCtrlMode : RField := ⟨.frameCtrl, 0, 1, .rwq, 0⟩
/-- FRAME.PERIOD 26:0 PERIOD (12). -/
def fFramePeriodPeriod : RField := ⟨.framePeriod, 0, 27, .rwq, 1000000⟩
/-- FRAME.ACT_AT 63:0 CADENCE (12). -/
def fFrameActAtCadence : RField := ⟨.frameActAt, 0, 64, .rwl, 0⟩
/-- FRAME.STATUS bit 7 CADENCE_LOST (12). -/
def fFrameStatusCadenceLost : RField := ⟨.frameStatus, 7, 1, .w1c, 0⟩
/-- FRAME.STATUS bit 3 IDLE (12). -/
def fFrameStatusIdle : RField := ⟨.frameStatus, 3, 1, .ro, 0⟩
/-- FRAME.STATUS bit 2 ACT_PEND (12). -/
def fFrameStatusActPend : RField := ⟨.frameStatus, 2, 1, .ro, 0⟩
/-- FRAME.STATUS 1:0 STATE (12). -/
def fFrameStatusState : RField := ⟨.frameStatus, 0, 2, .ro, 0⟩
/-- FRAME.CADENCE 63:0 VALUE (12). -/
def fFrameCadenceValue : RField := ⟨.frameCadence, 0, 64, .ro, 0⟩
/-- FRAME.WORK 63:0 VALUE (12). -/
def fFrameWorkValue : RField := ⟨.frameWork, 0, 64, .ro, 0⟩
/-- FRAME.START 63:0 VALUE (12). -/
def fFrameStartValue : RField := ⟨.frameStart, 0, 64, .ro, 0⟩
/-- FRAME.IDLED 63:0 VALUE (12). -/
def fFrameIdledValue : RField := ⟨.frameIdled, 0, 64, .ro, 0⟩
/-- FRAME.LOST 63:0 VALUE (12). -/
def fFrameLostValue : RField := ⟨.frameLost, 0, 64, .ro, 0⟩
/-- FRAME.IDLE 20:16 DUTY_EFF (12). -/
def fFrameIdleDutyEff : RField := ⟨.frameIdle, 16, 5, .ro, 16⟩
/-- FRAME.IDLE 4:0 DUTY (12). -/
def fFrameIdleDuty : RField := ⟨.frameIdle, 0, 5, .rws, 16⟩
/-- SCHED.TABLE 63:12 BASE (12). -/
def fSchedTableBase : RField := ⟨.schedTable, 12, 52, .rwq, 0⟩
/-- SCHED.COUNT 12:0 ENTRIES (12). -/
def fSchedCountEntries : RField := ⟨.schedCount, 0, 13, .rwq, 0⟩
/-- SCHED.LOAD bit 0 LOAD (12). -/
def fSchedLoadLoad : RField := ⟨.schedLoad, 0, 1, .wo, 0⟩
/-- SCHED.VSTAT bit 29 BUSY (12). -/
def fSchedVstatBusy : RField := ⟨.schedVstat, 29, 1, .ro, 0⟩
/-- SCHED.VSTAT bit 28 STAGED (12). -/
def fSchedVstatStaged : RField := ⟨.schedVstat, 28, 1, .ro, 0⟩
/-- SCHED.VSTAT bit 27 BANK (12). -/
def fSchedVstatBank : RField := ⟨.schedVstat, 27, 1, .ro, 0⟩
/-- SCHED.VSTAT 23:12 ENTRY (12). -/
def fSchedVstatEntry : RField := ⟨.schedVstat, 12, 12, .ro, 0⟩
/-- SCHED.VSTAT 7:0 RESULT (12). -/
def fSchedVstatResult : RField := ⟨.schedVstat, 0, 8, .ro, 0⟩
/-- SCHED.LAUNCHES 47:0 COUNT (12). -/
def fSchedLaunchesCount : RField := ⟨.schedLaunches, 0, 48, .ro, 0⟩
/-- SCHED.SLIPS 47:0 COUNT (12). -/
def fSchedSlipsCount : RField := ⟨.schedSlips, 0, 48, .ro, 0⟩
/-- SCHED.OVERRUNS 47:0 COUNT (12). -/
def fSchedOverrunsCount : RField := ⟨.schedOverruns, 0, 48, .ro, 0⟩
/-- SCHED.NOT_ARMED 47:0 COUNT (12). -/
def fSchedNotArmedCount : RField := ⟨.schedNotArmed, 0, 48, .ro, 0⟩
/-- SCHED.DROPPED 47:0 COUNT (12). -/
def fSchedDroppedCount : RField := ⟨.schedDropped, 0, 48, .ro, 0⟩
/-- SCHED.ARM 63:0 ARM (12). -/
def fSchedArmArm : RField := ⟨.schedArm, 0, 64, .w1s, 0⟩
/-- ZL.CFG 3:2 DIM (13). -/
def fZlCfgDim : RField := ⟨.zlCfg, 2, 2, .rwq, 0⟩
/-- ZL.CFG bit 1 ALLOW_X4 (13). -/
def fZlCfgAllowX4 : RField := ⟨.zlCfg, 1, 1, .rwq, 0⟩
/-- ZL.CFG bit 0 ENABLE (13). -/
def fZlCfgEnable : RField := ⟨.zlCfg, 0, 1, .rwq, 0⟩
/-- ZL.STATUS 33:30 FAIL_CAUSE (13). -/
def fZlStatusFailCause : RField := ⟨.zlStatus, 30, 4, .ro, 0⟩
/-- ZL.STATUS 29:26 PARTNER_PORT (13). -/
def fZlStatusPartnerPort : RField := ⟨.zlStatus, 26, 4, .ro, 0⟩
/-- ZL.STATUS 25:16 PARTNER_PKG (13). -/
def fZlStatusPartnerPkg : RField := ⟨.zlStatus, 16, 10, .ro, 0⟩
/-- ZL.STATUS 15:8 MINOR (13). -/
def fZlStatusMinor : RField := ⟨.zlStatus, 8, 8, .ro, 0⟩
/-- ZL.STATUS bit 4 WIDTH (13). -/
def fZlStatusWidth : RField := ⟨.zlStatus, 4, 1, .ro, 0⟩
/-- ZL.STATUS 3:0 STATE (13). -/
def fZlStatusState : RField := ⟨.zlStatus, 0, 4, .ro, 0⟩
/-- ZL.DELAY 15:0 DELAY (13). -/
def fZlDelayDelay : RField := ⟨.zlDelay, 0, 16, .ro, 0⟩
/-- ZL.FLITS_TX 47:0 COUNT (13). -/
def fZlFlitsTxCount : RField := ⟨.zlFlitsTx, 0, 48, .ro, 0⟩
/-- ZL.FLITS_RX 47:0 COUNT (13). -/
def fZlFlitsRxCount : RField := ⟨.zlFlitsRx, 0, 48, .ro, 0⟩
/-- ZL.NAKS 47:0 COUNT (13). -/
def fZlNaksCount : RField := ⟨.zlNaks, 0, 48, .ro, 0⟩
/-- ZL.RETRAINS 47:0 COUNT (13). -/
def fZlRetrainsCount : RField := ⟨.zlRetrains, 0, 48, .ro, 0⟩
/-- ZL.DROPPED 47:0 COUNT (13). -/
def fZlDroppedCount : RField := ⟨.zlDropped, 0, 48, .ro, 0⟩
/-- ZL.CTRL bit 1 RESTART (13). -/
def fZlCtrlRestart : RField := ⟨.zlCtrl, 1, 1, .wo, 0⟩
/-- ZL.CTRL bit 0 RETRAIN (13). -/
def fZlCtrlRetrain : RField := ⟨.zlCtrl, 0, 1, .wo, 0⟩
/-- ZROUTE.SELF 9:0 PKG_NUM (13). -/
def fZrouteSelfPkgNum : RField := ⟨.zrouteSelf, 0, 10, .rwq, 0⟩
/-- ZROUTE.SEL 9:0 INDEX (13). -/
def fZrouteSelIndex : RField := ⟨.zrouteSel, 0, 10, .rwl, 0⟩
/-- ZROUTE.ENTRY bit 36 VALID (13). -/
def fZrouteEntryValid : RField := ⟨.zrouteEntry, 36, 1, .rwl, 0⟩
/-- ZROUTE.ENTRY 35:24 DATELINE (13). -/
def fZrouteEntryDateline : RField := ⟨.zrouteEntry, 24, 12, .rwl, 0⟩
/-- ZROUTE.ENTRY 23:12 ALT (13). -/
def fZrouteEntryAlt : RField := ⟨.zrouteEntry, 12, 12, .rwl, 0⟩
/-- ZROUTE.ENTRY 11:0 PRIMARY (13). -/
def fZrouteEntryPrimary : RField := ⟨.zrouteEntry, 0, 12, .rwl, 0⟩
/-- ZWIN.BASE 63:17 BASE (13). -/
def fZwinBaseBase : RField := ⟨.zwinBase, 17, 47, .rwq, 0⟩
/-- ZWIN.INVAL bit 16 GO (13). -/
def fZwinInvalGo : RField := ⟨.zwinInval, 16, 1, .wo, 0⟩
/-- ZWIN.INVAL bit 12 ALL (13). -/
def fZwinInvalAll : RField := ⟨.zwinInval, 12, 1, .wo, 0⟩
/-- ZWIN.INVAL 11:0 INDEX (13). -/
def fZwinInvalIndex : RField := ⟨.zwinInval, 0, 12, .wo, 0⟩
/-- ZWIN.STATUS 47:16 DONE (13). -/
def fZwinStatusDone : RField := ⟨.zwinStatus, 16, 32, .ro, 0⟩
/-- ZWIN.STATUS bit 0 BUSY (13). -/
def fZwinStatusBusy : RField := ⟨.zwinStatus, 0, 1, .ro, 0⟩
/-- ZWIN.REFUSED 47:0 COUNT (13). -/
def fZwinRefusedCount : RField := ⟨.zwinRefused, 0, 48, .ro, 0⟩
/-- ZWIN.ORPHANS 47:0 COUNT (13). -/
def fZwinOrphansCount : RField := ⟨.zwinOrphans, 0, 48, .ro, 0⟩
/-- ZWIN.FORWARDED 47:0 COUNT (13). -/
def fZwinForwardedCount : RField := ⟨.zwinForwarded, 0, 48, .ro, 0⟩
/-- ZSYNC.CFG bit 12 ALT_EN (13). -/
def fZsyncCfgAltEn : RField := ⟨.zsyncCfg, 12, 1, .rwq, 0⟩
/-- ZSYNC.CFG 11:8 ALT_PARENT (13). -/
def fZsyncCfgAltParent : RField := ⟨.zsyncCfg, 8, 4, .rwq, 0⟩
/-- ZSYNC.CFG 7:4 PARENT (13). -/
def fZsyncCfgParent : RField := ⟨.zsyncCfg, 4, 4, .rwq, 0⟩
/-- ZSYNC.CFG 1:0 ROLE (13). -/
def fZsyncCfgRole : RField := ⟨.zsyncCfg, 0, 2, .rwq, 0⟩
/-- ZSYNC.STATUS bit 15 ON_ALT (13). -/
def fZsyncStatusOnAlt : RField := ⟨.zsyncStatus, 15, 1, .ro, 0⟩
/-- ZSYNC.STATUS 14:11 ACTIVE_PARENT (13). -/
def fZsyncStatusActiveParent : RField := ⟨.zsyncStatus, 11, 4, .ro, 0⟩
/-- ZSYNC.STATUS 10:6 DEPTH (13). -/
def fZsyncStatusDepth : RField := ⟨.zsyncStatus, 6, 5, .ro, 0⟩
/-- ZSYNC.STATUS bit 5 DEEP (13). -/
def fZsyncStatusDeep : RField := ⟨.zsyncStatus, 5, 1, .ro, 0⟩
/-- ZSYNC.STATUS bit 4 PERIOD_MISMATCH (13). -/
def fZsyncStatusPeriodMismatch : RField := ⟨.zsyncStatus, 4, 1, .ro, 0⟩
/-- ZSYNC.STATUS bit 3 SYNC_MISS (13). -/
def fZsyncStatusSyncMiss : RField := ⟨.zsyncStatus, 3, 1, .w1c, 0⟩
/-- ZSYNC.STATUS bit 2 LOST (13). -/
def fZsyncStatusLost : RField := ⟨.zsyncStatus, 2, 1, .w1c, 0⟩
/-- ZSYNC.STATUS bit 1 HOLDOVER (13). -/
def fZsyncStatusHoldover : RField := ⟨.zsyncStatus, 1, 1, .ro, 0⟩
/-- ZSYNC.STATUS bit 0 LOCKED (13). -/
def fZsyncStatusLocked : RField := ⟨.zsyncStatus, 0, 1, .ro, 0⟩
/-- ZSYNC.ERROR 31:0 LAST (13). -/
def fZsyncErrorLast : RField := ⟨.zsyncError, 0, 32, .ro, 0⟩
/-- ZSYNC.OFFSET 63:0 DELTA (13). -/
def fZsyncOffsetDelta : RField := ⟨.zsyncOffset, 0, 64, .ro, 0⟩
/-- ZRING.BASE 63:12 BASE (13). -/
def fZringBaseBase : RField := ⟨.zringBase, 12, 52, .rwq, 0⟩
/-- ZRING.CFG 23:20 CORE (13). -/
def fZringCfgCore : RField := ⟨.zringCfg, 20, 4, .rwq, 0⟩
/-- ZRING.CFG 19:8 CTX (13). -/
def fZringCfgCtx : RField := ⟨.zringCfg, 8, 12, .rwq, 0⟩
/-- ZRING.CFG 7:4 SIZE_LOG2 (13). -/
def fZringCfgSizeLog2 : RField := ⟨.zringCfg, 4, 4, .rwq, 5⟩
/-- ZRING.CFG bit 0 ENABLE (13). -/
def fZringCfgEnable : RField := ⟨.zringCfg, 0, 1, .rwl, 0⟩
/-- ZRING.STATE 51:36 DSEQ (13). -/
def fZringStateDseq : RField := ⟨.zringState, 36, 16, .ro, 0⟩
/-- ZRING.STATE 35:28 REASON (13). -/
def fZringStateReason : RField := ⟨.zringState, 28, 8, .ro, 0⟩
/-- ZRING.STATE 27:20 CODE (13). -/
def fZringStateCode : RField := ⟨.zringState, 20, 8, .ro, 0⟩
/-- ZRING.STATE bit 18 ERR_VALID (13). -/
def fZringStateErrValid : RField := ⟨.zringState, 18, 1, .w1c, 0⟩
/-- ZRING.STATE 17:16 STATE (13). -/
def fZringStateState : RField := ⟨.zringState, 16, 2, .ro, 0⟩
/-- ZRING.STATE 15:0 HEAD (13). -/
def fZringStateHead : RField := ⟨.zringState, 0, 16, .ro, 0⟩
/-- OWN.REIN_CLAIM 63:32 EPOCH (14). -/
def fOwnReinClaimEpoch : RField := ⟨.ownReinClaim, 32, 32, .ro, 0⟩
/-- OWN.REIN_CLAIM 18:16 HOLDER (14). -/
def fOwnReinClaimHolder : RField := ⟨.ownReinClaim, 16, 3, .ro, 7⟩
/-- OWN.REIN_CLAIM bit 2 RELEASE (14). -/
def fOwnReinClaimRelease : RField := ⟨.ownReinClaim, 2, 1, .wo, 0⟩
/-- OWN.REIN_CLAIM bit 1 ACCEPT (14). -/
def fOwnReinClaimAccept : RField := ⟨.ownReinClaim, 1, 1, .wo, 0⟩
/-- OWN.REIN_CLAIM bit 0 CLAIM (14). -/
def fOwnReinClaimClaim : RField := ⟨.ownReinClaim, 0, 1, .wo, 0⟩
/-- OWN.HANDOVER bit 19 PENDING (14). -/
def fOwnHandoverPending : RField := ⟨.ownHandover, 19, 1, .ro, 0⟩
/-- OWN.HANDOVER 18:16 TARGET (14). -/
def fOwnHandoverTarget : RField := ⟨.ownHandover, 16, 3, .rwl, 7⟩
/-- OWN.HEARTBEAT bit 63 BEAT (14). -/
def fOwnHeartbeatBeat : RField := ⟨.ownHeartbeat, 63, 1, .wo, 0⟩
/-- OWN.HEARTBEAT 62:0 LAST (14). -/
def fOwnHeartbeatLast : RField := ⟨.ownHeartbeat, 0, 63, .ro, 0⟩
/-- OWN.ELIGIBLE 3:0 MASK (14). -/
def fOwnEligibleMask : RField := ⟨.ownEligible, 0, 4, .ro, 0⟩
/-- OWN.SEQ_NEXT 63:0 SEQ (14). -/
def fOwnSeqNextSeq : RField := ⟨.ownSeqNext, 0, 64, .rwq, 1⟩
/-- HIF.LINK bit 11 FLIT (14). -/
def fHifLinkFlit : RField := ⟨.hifLink, 11, 1, .ro, 0⟩
/-- HIF.LINK 10:6 WIDTH (14). -/
def fHifLinkWidth : RField := ⟨.hifLink, 6, 5, .ro, 0⟩
/-- HIF.LINK 5:3 SPEED (14). -/
def fHifLinkSpeed : RField := ⟨.hifLink, 3, 3, .ro, 0⟩
/-- HIF.LINK 2:0 STATE (14). -/
def fHifLinkState : RField := ⟨.hifLink, 0, 3, .ro, 0⟩
/-- HIF.APER 63:30 BASE (14). -/
def fHifAperBase : RField := ⟨.hifAper, 30, 34, .rwq, 0⟩
/-- HIF.APER bit 0 INTLV (14). -/
def fHifAperIntlv : RField := ⟨.hifAper, 0, 1, .rwq, 0⟩
/-- HIF.UR 47:0 COUNT (14). -/
def fHifUrCount : RField := ⟨.hifUr, 0, 48, .ro, 0⟩
/-- HIF.UNSEALED_READS 47:0 COUNT (14). -/
def fHifUnsealedReadsCount : RField := ⟨.hifUnsealedReads, 0, 48, .ro, 0⟩
/-- HIF.POISON_READS 47:0 COUNT (14). -/
def fHifPoisonReadsCount : RField := ⟨.hifPoisonReads, 0, 48, .ro, 0⟩
/-- HIF.DROPPED_WRITES 47:0 COUNT (14). -/
def fHifDroppedWritesCount : RField := ⟨.hifDroppedWrites, 0, 48, .ro, 0⟩
/-- HIF.CPL_TIMEOUTS 47:0 COUNT (14). -/
def fHifCplTimeoutsCount : RField := ⟨.hifCplTimeouts, 0, 48, .ro, 0⟩
/-- FN.SQ_BASE 63:12 BASE (14). -/
def fFnSqBaseBase : RField := ⟨.fnSqBase, 12, 52, .rwq, 0⟩
/-- FN.SQ_CFG 23:13 VECTOR (14). -/
def fFnSqCfgVector : RField := ⟨.fnSqCfg, 13, 11, .rwq, 0⟩
/-- FN.SQ_CFG 12:8 SIZE_LOG2 (14). -/
def fFnSqCfgSizeLog2 : RField := ⟨.fnSqCfg, 8, 5, .rwq, 6⟩
/-- FN.SQ_CFG bit 1 KIND (14). -/
def fFnSqCfgKind : RField := ⟨.fnSqCfg, 1, 1, .rwq, 0⟩
/-- FN.SQ_CFG bit 0 ENABLE (14). -/
def fFnSqCfgEnable : RField := ⟨.fnSqCfg, 0, 1, .rwl, 0⟩
/-- FN.SQ_HEAD 31:0 HEAD (14). -/
def fFnSqHeadHead : RField := ⟨.fnSqHead, 0, 32, .rwq, 0⟩
/-- FN.SQ_STATE 63:32 CQ_TAIL (14). -/
def fFnSqStateCqTail : RField := ⟨.fnSqState, 32, 32, .ro, 0⟩
/-- FN.SQ_STATE 31:24 CODE (14). -/
def fFnSqStateCode : RField := ⟨.fnSqState, 24, 8, .ro, 0⟩
/-- FN.SQ_STATE bit 2 CQ_STALL (14). -/
def fFnSqStateCqStall : RField := ⟨.fnSqState, 2, 1, .w1c, 0⟩
/-- FN.SQ_STATE 1:0 STATE (14). -/
def fFnSqStateState : RField := ⟨.fnSqState, 0, 2, .ro, 0⟩
/-- FN.CQ_BASE 63:12 BASE (14). -/
def fFnCqBaseBase : RField := ⟨.fnCqBase, 12, 52, .rwq, 0⟩
/-- FN.CQ_BASE 4:0 SIZE_LOG2 (14). -/
def fFnCqBaseSizeLog2 : RField := ⟨.fnCqBase, 0, 5, .rwq, 6⟩
/-- FN.CQ_HEAD 31:0 HEAD (14). -/
def fFnCqHeadHead : RField := ⟨.fnCqHead, 0, 32, .rwl, 0⟩
/-- FN.TSIG_TGT 26:20 TALLY (14). -/
def fFnTsigTgtTally : RField := ⟨.fnTsigTgt, 20, 7, .rwl, 0⟩
/-- FN.TSIG_TGT 19:16 CORE (14). -/
def fFnTsigTgtCore : RField := ⟨.fnTsigTgt, 16, 4, .rwl, 0⟩
/-- FN.TSIG_TGT 15:13 SPAN (14). -/
def fFnTsigTgtSpan : RField := ⟨.fnTsigTgt, 13, 3, .rwl, 0⟩
/-- FN.TSIG_TGT 11:0 CTX (14). -/
def fFnTsigTgtCtx : RField := ⟨.fnTsigTgt, 0, 12, .rwl, 0⟩
/-- FN.TSIG_ADD 47:0 ADD (14). -/
def fFnTsigAddAdd : RField := ⟨.fnTsigAdd, 0, 48, .wo, 0⟩
/-- FN.MB_CMD 63:0 DATA (14). -/
def fFnMbCmdData : RField := ⟨.fnMbCmd, 0, 64, .rwl, 0⟩
/-- FN.MB_RSP 63:0 DATA (14). -/
def fFnMbRspData : RField := ⟨.fnMbRsp, 0, 64, .ro, 0⟩
/-- FN.MB_STATE 63:32 TOKEN (14). -/
def fFnMbStateToken : RField := ⟨.fnMbState, 32, 32, .ro, 0⟩
/-- FN.MB_STATE 31:24 STATUS (14). -/
def fFnMbStateStatus : RField := ⟨.fnMbState, 24, 8, .ro, 0⟩
/-- FN.MB_STATE bit 23 TAKEOVER (14). -/
def fFnMbStateTakeover : RField := ⟨.fnMbState, 23, 1, .ro, 0⟩
/-- FN.MB_STATE 18:16 STATE (14). -/
def fFnMbStateState : RField := ⟨.fnMbState, 16, 3, .ro, 0⟩
/-- FN.MB_STATE 15:0 TAG (14). -/
def fFnMbStateTag : RField := ⟨.fnMbState, 0, 16, .ro, 0⟩
/-- FN.MB_GO bit 16 GO (14). -/
def fFnMbGoGo : RField := ⟨.fnMbGo, 16, 1, .wo, 0⟩
/-- FN.MB_GO 15:0 TAG (14). -/
def fFnMbGoTag : RField := ⟨.fnMbGo, 0, 16, .wo, 0⟩
/-- FN.DB 31:0 TAIL (14). -/
def fFnDbTail : RField := ⟨.fnDb, 0, 32, .wo, 0⟩
/-- SERR.BKT_CFG 47:32 LEAK (15). -/
def fSerrBktCfgLeak : RField := ⟨.serrBktCfg, 32, 16, .rwl, 1000⟩
/-- SERR.BKT_CFG 15:0 DEPTH (15). -/
def fSerrBktCfgDepth : RField := ⟨.serrBktCfg, 0, 16, .rwl, 64⟩
/-- SERR.BKT_SEL 9:8 CLASS (15). -/
def fSerrBktSelClass : RField := ⟨.serrBktSel, 8, 2, .rwl, 0⟩
/-- SERR.BKT_SEL 7:0 INDEX (15). -/
def fSerrBktSelIndex : RField := ⟨.serrBktSel, 0, 8, .rwl, 0⟩
/-- SERR.BKT_LEVEL 63:32 OVERFLOWS (15). -/
def fSerrBktLevelOverflows : RField := ⟨.serrBktLevel, 32, 32, .ro, 0⟩
/-- SERR.BKT_LEVEL 15:0 LEVEL (15). -/
def fSerrBktLevelLevel : RField := ⟨.serrBktLevel, 0, 16, .ro, 0⟩
/-- SERR.FLIP 45:38 PAT_B (15). -/
def fSerrFlipPatB : RField := ⟨.serrFlip, 38, 8, .rwl, 0⟩
/-- SERR.FLIP 37:32 SYM_B (15). -/
def fSerrFlipSymB : RField := ⟨.serrFlip, 32, 6, .rwl, 0⟩
/-- SERR.FLIP 29:22 PAT_A (15). -/
def fSerrFlipPatA : RField := ⟨.serrFlip, 22, 8, .rwl, 0⟩
/-- SERR.FLIP 21:16 SYM_A (15). -/
def fSerrFlipSymA : RField := ⟨.serrFlip, 16, 6, .rwl, 0⟩
/-- SERR.FLIP 9:4 PC (15). -/
def fSerrFlipPc : RField := ⟨.serrFlip, 4, 6, .rwl, 0⟩
/-- SERR.FLIP bit 2 PATH (15). -/
def fSerrFlipPath : RField := ⟨.serrFlip, 2, 1, .rwl, 0⟩
/-- SERR.FLIP bit 1 POISON (15). -/
def fSerrFlipPoison : RField := ⟨.serrFlip, 1, 1, .rwl, 0⟩
/-- SERR.FLIP bit 0 ARM (15). -/
def fSerrFlipArm : RField := ⟨.serrFlip, 0, 1, .w1s, 0⟩
/-- SERR.SCRUB bit 16 ENABLE (15). -/
def fSerrScrubEnable : RField := ⟨.serrScrub, 16, 1, .rwl, 1⟩
/-- SERR.SCRUB 15:0 PERIOD (15). -/
def fSerrScrubPeriod : RField := ⟨.serrScrub, 0, 16, .rwl, 64⟩
/-- SERR.ALIAS bit 4 VALID (15). -/
def fSerrAliasValid : RField := ⟨.serrAlias, 4, 1, .rwl, 0⟩
/-- SERR.ALIAS 3:0 TARGET (15). -/
def fSerrAliasTarget : RField := ⟨.serrAlias, 0, 4, .rwl, 0⟩
/-- SERR.SCRUB_STALE 47:0 COUNT (15). -/
def fSerrScrubStaleCount : RField := ⟨.serrScrubStale, 0, 48, .ro, 0⟩
/-- ELOG.STATUS 63:48 LOST (15). -/
def fElogStatusLost : RField := ⟨.elogStatus, 48, 16, .ro, 0⟩
/-- ELOG.STATUS 39:32 PENDING (15). -/
def fElogStatusPending : RField := ⟨.elogStatus, 32, 8, .ro, 0⟩
/-- ELOG.STATUS 31:0 NEXT_SEQ (15). -/
def fElogStatusNextSeq : RField := ⟨.elogStatus, 0, 32, .ro, 0⟩
/-- ELOG.SEL 31:0 SEQ (15). -/
def fElogSelSeq : RField := ⟨.elogSel, 0, 32, .rwl, 0⟩
/-- ELOG.DATA 63:0 WORD (15). -/
def fElogDataWord : RField := ⟨.elogData, 0, 64, .ro, 0⟩
/-- ELOG.DONE 31:0 SEQ (15). -/
def fElogDoneSeq : RField := ⟨.elogDone, 0, 32, .wo, 0⟩
/-- ELOG.CLEAR bit 1 LOST (15). -/
def fElogClearLost : RField := ⟨.elogClear, 1, 1, .wo, 0⟩
/-- ELOG.CLEAR bit 0 FIRST (15). -/
def fElogClearFirst : RField := ⟨.elogClear, 0, 1, .wo, 0⟩
/-- ELOG.MIRROR 63:7 BASE (15). -/
def fElogMirrorBase : RField := ⟨.elogMirror, 7, 57, .rwl, 0⟩
/-- ELOG.MIRROR_COUNT 12:0 ENTRIES (15). -/
def fElogMirrorCountEntries : RField := ⟨.elogMirrorCount, 0, 13, .rwl, 0⟩
/-- ELOG.RETIRE 63:62 KIND (15). -/
def fElogRetireKind : RField := ⟨.elogRetire, 62, 2, .wo, 0⟩
/-- ELOG.RETIRE 39:16 BLOCK (15). -/
def fElogRetireBlock : RField := ⟨.elogRetire, 16, 24, .wo, 0⟩
/-- JRNL.CTRL bit 0 ENABLE (15). -/
def fJrnlCtrlEnable : RField := ⟨.jrnlCtrl, 0, 1, .rwq, 0⟩
/-- JRNL.AREA0 63:32 BASE (15). -/
def fJrnlArea0Base : RField := ⟨.jrnlArea0, 32, 32, .rwq, 0⟩
/-- JRNL.AREA1 63:32 BASE (15). -/
def fJrnlArea1Base : RField := ⟨.jrnlArea1, 32, 32, .rwq, 0⟩
/-- JRNL.RCPT 23:8 WINDOW (15). -/
def fJrnlRcptWindow : RField := ⟨.jrnlRcpt, 8, 16, .rwq, 48⟩
/-- JRNL.RCPT 4:0 SIZE_LOG2 (15). -/
def fJrnlRcptSizeLog2 : RField := ⟨.jrnlRcpt, 0, 5, .rwq, 25⟩
/-- JRNL.STATUS bit 33 AREA1_OK (15). -/
def fJrnlStatusArea1Ok : RField := ⟨.jrnlStatus, 33, 1, .ro, 0⟩
/-- JRNL.STATUS bit 32 AREA0_OK (15). -/
def fJrnlStatusArea0Ok : RField := ⟨.jrnlStatus, 32, 1, .ro, 0⟩
/-- JRNL.STATUS 31:0 OPEN (15). -/
def fJrnlStatusOpen : RField := ⟨.jrnlStatus, 0, 32, .ro, 0⟩
/-- JRNL.ACCEPTED 47:0 COUNT (15). -/
def fJrnlAcceptedCount : RField := ⟨.jrnlAccepted, 0, 48, .ro, 0⟩
/-- JRNL.COMMITTED 47:0 COUNT (15). -/
def fJrnlCommittedCount : RField := ⟨.jrnlCommitted, 0, 48, .ro, 0⟩
/-- JRNL.REPLAYED 47:0 COUNT (15). -/
def fJrnlReplayedCount : RField := ⟨.jrnlReplayed, 0, 48, .ro, 0⟩
/-- JRNL.FAILED 47:0 COUNT (15). -/
def fJrnlFailedCount : RField := ⟨.jrnlFailed, 0, 48, .ro, 0⟩
/-- JRNL.DUP 47:0 COUNT (15). -/
def fJrnlDupCount : RField := ⟨.jrnlDup, 0, 48, .ro, 0⟩
/-- JRNL.RCPT_FULL 47:0 COUNT (15). -/
def fJrnlRcptFullCount : RField := ⟨.jrnlRcptFull, 0, 48, .ro, 0⟩
/-- PWR.LIMIT 49:48 SRC (16). -/
def fPwrLimitSrc : RField := ⟨.pwrLimit, 48, 2, .ro, 0⟩
/-- PWR.LIMIT 47:36 RACK_W (16). -/
def fPwrLimitRackW : RField := ⟨.pwrLimit, 36, 12, .ro, 0⟩
/-- PWR.LIMIT 35:24 FALLBACK_W (16). -/
def fPwrLimitFallbackW : RField := ⟨.pwrLimit, 24, 12, .rwl, 2000⟩
/-- PWR.LIMIT 23:12 LIMIT_W (16). -/
def fPwrLimitLimitW : RField := ⟨.pwrLimit, 12, 12, .ro, 3000⟩
/-- PWR.LIMIT 11:0 TDP_W (16). -/
def fPwrLimitTdpW : RField := ⟨.pwrLimit, 0, 12, .ro, 3000⟩
/-- PWR.BUDGET_TO 11:0 TIMEOUT_S (16). -/
def fPwrBudgetToTimeoutS : RField := ⟨.pwrBudgetTo, 0, 12, .rwl, 60⟩
/-- PWR.ALLOC 52:48 DUTY_REQ (16). -/
def fPwrAllocDutyReq : RField := ⟨.pwrAlloc, 48, 5, .ro, 16⟩
/-- PWR.ALLOC 47:36 PIER_W (16). -/
def fPwrAllocPierW : RField := ⟨.pwrAlloc, 36, 12, .ro, 0⟩
/-- PWR.ALLOC 35:24 NB_W (16). -/
def fPwrAllocNbW : RField := ⟨.pwrAlloc, 24, 12, .ro, 0⟩
/-- PWR.ALLOC 23:12 FABRIC_W (16). -/
def fPwrAllocFabricW : RField := ⟨.pwrAlloc, 12, 12, .ro, 0⟩
/-- PWR.ALLOC 11:0 DENSE_W (16). -/
def fPwrAllocDenseW : RField := ⟨.pwrAlloc, 0, 12, .ro, 0⟩
/-- PWR.MEAS 59:48 PKG_W (16). -/
def fPwrMeasPkgW : RField := ⟨.pwrMeas, 48, 12, .ro, 0⟩
/-- PWR.MEAS 47:36 FABRIC_W (16). -/
def fPwrMeasFabricW : RField := ⟨.pwrMeas, 36, 12, .ro, 0⟩
/-- PWR.MEAS 35:24 PIER_W (16). -/
def fPwrMeasPierW : RField := ⟨.pwrMeas, 24, 12, .ro, 0⟩
/-- PWR.MEAS 23:12 NB_W (16). -/
def fPwrMeasNbW : RField := ⟨.pwrMeas, 12, 12, .ro, 0⟩
/-- PWR.MEAS 11:0 DENSE_W (16). -/
def fPwrMeasDenseW : RField := ⟨.pwrMeas, 0, 12, .ro, 0⟩
/-- PWR.LEARN bit 1 RESET (16). -/
def fPwrLearnReset : RField := ⟨.pwrLearn, 1, 1, .wo, 0⟩
/-- PWR.LEARN bit 0 FREEZE (16). -/
def fPwrLearnFreeze : RField := ⟨.pwrLearn, 0, 1, .rwl, 0⟩
/-- PWR.TR_ACTIVE 6:0 ACTIVE (16). -/
def fPwrTrActiveActive : RField := ⟨.pwrTrActive, 0, 7, .ro, 0⟩
/-- PWR.TR_TIME 63:0 TICKS (16). -/
def fPwrTrTimeTicks : RField := ⟨.pwrTrTime, 0, 64, .ro, 0⟩
/-- PWR.TR_CLEAR 6:0 CLEAR (16). -/
def fPwrTrClearClear : RField := ⟨.pwrTrClear, 0, 7, .wo, 0⟩
/-- PWR.SWFREQ 27:16 MAX_MHZ (16). -/
def fPwrSwfreqMaxMhz : RField := ⟨.pwrSwfreq, 16, 12, .rwl, 2200⟩
/-- PWR.SWFREQ 11:0 MIN_MHZ (16). -/
def fPwrSwfreqMinMhz : RField := ⟨.pwrSwfreq, 0, 12, .rwl, 1000⟩
/-- PWR.ACT 54:48 PIER_PCT (16). -/
def fPwrActPierPct : RField := ⟨.pwrAct, 48, 7, .ro, 100⟩
/-- PWR.ACT 42:38 NB_SLOTS (16). -/
def fPwrActNbSlots : RField := ⟨.pwrAct, 38, 5, .ro, 16⟩
/-- PWR.ACT 35:24 CEIL_MHZ (16). -/
def fPwrActCeilMhz : RField := ⟨.pwrAct, 24, 12, .ro, 2200⟩
/-- PWR.ACT 23:12 ALLOC_MHZ (16). -/
def fPwrActAllocMhz : RField := ⟨.pwrAct, 12, 12, .ro, 2000⟩
/-- PWR.ACT 11:0 CORE_MHZ (16). -/
def fPwrActCoreMhz : RField := ⟨.pwrAct, 0, 12, .ro, 2000⟩
/-- THERM.SEL 6:0 SENSOR (16). -/
def fThermSelSensor : RField := ⟨.thermSel, 0, 7, .rwl, 0⟩
/-- THERM.READ 19:18 CLASS (16). -/
def fThermReadClass : RField := ⟨.thermRead, 18, 2, .ro, 0⟩
/-- THERM.READ bit 17 FAILED (16). -/
def fThermReadFailed : RField := ⟨.thermRead, 17, 1, .ro, 0⟩
/-- THERM.READ bit 16 VALID (16). -/
def fThermReadValid : RField := ⟨.thermRead, 16, 1, .ro, 0⟩
/-- THERM.READ 15:0 TEMP (16). -/
def fThermReadTemp : RField := ⟨.thermRead, 0, 16, .ro, 0⟩
/-- THERM.PKG_MAX 47:32 BASE (16). -/
def fThermPkgMaxBase : RField := ⟨.thermPkgMax, 32, 16, .ro, 0⟩
/-- THERM.PKG_MAX 31:16 DRAM (16). -/
def fThermPkgMaxDram : RField := ⟨.thermPkgMax, 16, 16, .ro, 0⟩
/-- THERM.PKG_MAX 15:0 TILE (16). -/
def fThermPkgMaxTile : RField := ⟨.thermPkgMax, 0, 16, .ro, 0⟩
/-- THERM.WARN 47:32 BASE_W (16). -/
def fThermWarnBaseW : RField := ⟨.thermWarn, 32, 16, .rwl, 760⟩
/-- THERM.WARN 31:16 DRAM_W (16). -/
def fThermWarnDramW : RField := ⟨.thermWarn, 16, 16, .rwl, 800⟩
/-- THERM.WARN 15:0 TILE_W (16). -/
def fThermWarnTileW : RField := ⟨.thermWarn, 0, 16, .rwl, 800⟩
/-- THERM.RATE 7:0 RATE (16). -/
def fThermRateRate : RField := ⟨.thermRate, 0, 8, .rwl, 32⟩
/-- THERM.ALARM bit 4 SENSOR_FAIL (16). -/
def fThermAlarmSensorFail : RField := ⟨.thermAlarm, 4, 1, .w1c, 0⟩
/-- THERM.ALARM bit 3 RATE (16). -/
def fThermAlarmRate : RField := ⟨.thermAlarm, 3, 1, .w1c, 0⟩
/-- THERM.ALARM bit 2 BASE_WARN (16). -/
def fThermAlarmBaseWarn : RField := ⟨.thermAlarm, 2, 1, .w1c, 0⟩
/-- THERM.ALARM bit 1 DRAM_WARN (16). -/
def fThermAlarmDramWarn : RField := ⟨.thermAlarm, 1, 1, .w1c, 0⟩
/-- THERM.ALARM bit 0 TILE_WARN (16). -/
def fThermAlarmTileWarn : RField := ⟨.thermAlarm, 0, 1, .w1c, 0⟩
/-- THERM.TRIP 63:32 TICK (16). -/
def fThermTripTick : RField := ⟨.thermTrip, 32, 32, .ro, 0⟩
/-- THERM.TRIP 31:16 TEMP (16). -/
def fThermTripTemp : RField := ⟨.thermTrip, 16, 16, .ro, 0⟩
/-- THERM.TRIP 8:2 SENSOR (16). -/
def fThermTripSensor : RField := ⟨.thermTrip, 2, 7, .ro, 0⟩
/-- THERM.TRIP 1:0 CAUSE (16). -/
def fThermTripCause : RField := ⟨.thermTrip, 0, 2, .ro, 0⟩
/-- THERM.SPAN bit 50 TILE_HOT (16). -/
def fThermSpanTileHot : RField := ⟨.thermSpan, 50, 1, .ro, 0⟩
/-- THERM.SPAN 49:48 BAND (16). -/
def fThermSpanBand : RField := ⟨.thermSpan, 48, 2, .ro, 0⟩
/-- THERM.SPAN 47:32 BASE (16). -/
def fThermSpanBase : RField := ⟨.thermSpan, 32, 16, .ro, 0⟩
/-- THERM.SPAN 31:16 DRAM_MAX (16). -/
def fThermSpanDramMax : RField := ⟨.thermSpan, 16, 16, .ro, 0⟩
/-- THERM.SPAN 15:0 TILE_MAX (16). -/
def fThermSpanTileMax : RField := ⟨.thermSpan, 0, 16, .ro, 0⟩
/-- PKG_ID.STRAPS bit 12 BAD (17). -/
def fPkgIdStrapsBad : RField := ⟨.pkgIdStraps, 12, 1, .ro, 0⟩
/-- PKG_ID.STRAPS 11:8 BOARD_ID (17). -/
def fPkgIdStrapsBoardId : RField := ⟨.pkgIdStraps, 8, 4, .ro, 0⟩
/-- PKG_ID.STRAPS 7:6 RSVD (17). -/
def fPkgIdStrapsRsvd : RField := ⟨.pkgIdStraps, 6, 2, .ro, 0⟩
/-- PKG_ID.STRAPS 5:4 FL_SPEED (17). -/
def fPkgIdStrapsFlSpeed : RField := ⟨.pkgIdStraps, 4, 2, .ro, 0⟩
/-- PKG_ID.STRAPS bit 3 PCIE_CLK (17). -/
def fPkgIdStrapsPcieClk : RField := ⟨.pkgIdStraps, 3, 1, .ro, 0⟩
/-- PKG_ID.STRAPS bit 2 PCIE1_EN (17). -/
def fPkgIdStrapsPcie1En : RField := ⟨.pkgIdStraps, 2, 1, .ro, 0⟩
/-- PKG_ID.STRAPS 1:0 I3C_SA (17). -/
def fPkgIdStrapsI3cSa : RField := ⟨.pkgIdStraps, 0, 2, .ro, 0⟩
/-- PKG_ID.RAILS 63:32 TICK (17). -/
def fPkgIdRailsTick : RField := ⟨.pkgIdRails, 32, 32, .ro, 0⟩
/-- PKG_ID.RAILS bit 16 VALID (17). -/
def fPkgIdRailsValid : RField := ⟨.pkgIdRails, 16, 1, .w1c, 0⟩
/-- PKG_ID.RAILS 15:8 RAIL (17). -/
def fPkgIdRailsRail : RField := ⟨.pkgIdRails, 8, 8, .ro, 0⟩
/-- PKG_ID.RAILS 1:0 KIND (17). -/
def fPkgIdRailsKind : RField := ⟨.pkgIdRails, 0, 2, .ro, 0⟩
/-- LCS.STATE 14:8 SERVICE (18). -/
def fLcsStateService : RField := ⟨.lcsState, 8, 7, .ro, 0⟩
/-- LCS.STATE bit 7 PEND_VALID (18). -/
def fLcsStatePendValid : RField := ⟨.lcsState, 7, 1, .ro, 0⟩
/-- LCS.STATE 6:4 PENDING (18). -/
def fLcsStatePending : RField := ⟨.lcsState, 4, 3, .ro, 0⟩
/-- LCS.STATE 2:0 STATE (18). -/
def fLcsStateState : RField := ⟨.lcsState, 0, 3, .ro, 0⟩
/-- LCS.REQ 31:16 CONFIRM (18). -/
def fLcsReqConfirm : RField := ⟨.lcsReq, 16, 16, .wo, 0⟩
/-- LCS.REQ 2:0 TARGET (18). -/
def fLcsReqTarget : RField := ⟨.lcsReq, 0, 3, .wo, 0⟩
/-- LCS.STATUS 63:32 READY_TICK (18). -/
def fLcsStatusReadyTick : RField := ⟨.lcsStatus, 32, 32, .ro, 0⟩
/-- LCS.STATUS 11:8 FAIL (18). -/
def fLcsStatusFail : RField := ⟨.lcsStatus, 8, 4, .ro, 0⟩
/-- LCS.STATUS 2:0 STAGE (18). -/
def fLcsStatusStage : RField := ⟨.lcsStatus, 0, 3, .ro, 0⟩
/-- LCS.CTRL bit 0 RESET (18). -/
def fLcsCtrlReset : RField := ⟨.lcsCtrl, 0, 1, .wo, 0⟩
/-- LCS.IMAGE bit 32 SLOT (18). -/
def fLcsImageSlot : RField := ⟨.lcsImage, 32, 1, .ro, 0⟩
/-- LCS.IMAGE 31:0 SEQ (18). -/
def fLcsImageSeq : RField := ⟨.lcsImage, 0, 32, .ro, 0⟩
/-- LCS.RETLIST bit 63 CLEAR (18). -/
def fLcsRetlistClear : RField := ⟨.lcsRetlist, 63, 1, .wo, 0⟩
/-- LCS.RETLIST 26:16 ENTRIES (18). -/
def fLcsRetlistEntries : RField := ⟨.lcsRetlist, 16, 11, .ro, 0⟩
/-- LCS.RETLIST 10:0 APPLIED (18). -/
def fLcsRetlistApplied : RField := ⟨.lcsRetlist, 0, 11, .ro, 0⟩
/-- BIST.CMD 29:28 COUNT1 (18). -/
def fBistCmdCount1 : RField := ⟨.bistCmd, 28, 2, .wo, 0⟩
/-- BIST.CMD 27:21 FIRST (18). -/
def fBistCmdFirst : RField := ⟨.bistCmd, 21, 7, .wo, 0⟩
/-- BIST.CMD 20:17 DIE (18). -/
def fBistCmdDie : RField := ⟨.bistCmd, 17, 4, .wo, 0⟩
/-- BIST.CMD 16:13 UNIT (18). -/
def fBistCmdUnit : RField := ⟨.bistCmd, 13, 4, .wo, 0⟩
/-- BIST.CMD 12:10 SPAN (18). -/
def fBistCmdSpan : RField := ⟨.bistCmd, 10, 3, .wo, 0⟩
/-- BIST.CMD 7:4 KIND (18). -/
def fBistCmdKind : RField := ⟨.bistCmd, 4, 4, .wo, 0⟩
/-- BIST.CMD bit 0 GO (18). -/
def fBistCmdGo : RField := ⟨.bistCmd, 0, 1, .wo, 0⟩
/-- BIST.STATUS 47:16 SLICES (18). -/
def fBistStatusSlices : RField := ⟨.bistStatus, 16, 32, .ro, 0⟩
/-- BIST.STATUS 15:8 REFUSE (18). -/
def fBistStatusRefuse : RField := ⟨.bistStatus, 8, 8, .ro, 0⟩
/-- BIST.STATUS bit 4 REPORT (18). -/
def fBistStatusReport : RField := ⟨.bistStatus, 4, 1, .ro, 0⟩
/-- BIST.STATUS 3:2 RESULT (18). -/
def fBistStatusResult : RField := ⟨.bistStatus, 2, 2, .ro, 0⟩
/-- BIST.STATUS bit 0 BUSY (18). -/
def fBistStatusBusy : RField := ⟨.bistStatus, 0, 1, .ro, 0⟩
/-- BIST.FAIL_ADDR 63:0 ADDR (18). -/
def fBistFailAddrAddr : RField := ⟨.bistFailAddr, 0, 64, .ro, 0⟩
/-- BIST.FAIL_BIT 31:16 COUNT (18). -/
def fBistFailBitCount : RField := ⟨.bistFailBit, 16, 16, .ro, 0⟩
/-- BIST.FAIL_BIT 15:0 BIT (18). -/
def fBistFailBitBit : RField := ⟨.bistFailBit, 0, 16, .ro, 0⟩
/-- BIST.SIG_GOT 63:0 SIG (18). -/
def fBistSigGotSig : RField := ⟨.bistSigGot, 0, 64, .ro, 0⟩
/-- BIST.SIG_EXP 63:0 SIG (18). -/
def fBistSigExpSig : RField := ⟨.bistSigExp, 0, 64, .ro, 0⟩
/-- BIST.SUMMARY 37:34 SPANS_ABSENT (18). -/
def fBistSummarySpansAbsent : RField := ⟨.bistSummary, 34, 4, .ro, 0⟩
/-- BIST.SUMMARY 33:30 PORTS_ABSENT (18). -/
def fBistSummaryPortsAbsent : RField := ⟨.bistSummary, 30, 4, .ro, 0⟩
/-- BIST.SUMMARY 29:20 PCS_ABSENT (18). -/
def fBistSummaryPcsAbsent : RField := ⟨.bistSummary, 20, 10, .ro, 0⟩
/-- BIST.SUMMARY 19:8 BANKS_REMAPPED (18). -/
def fBistSummaryBanksRemapped : RField := ⟨.bistSummary, 8, 12, .ro, 0⟩
/-- BIST.SUMMARY 7:0 CORES (18). -/
def fBistSummaryCores : RField := ⟨.bistSummary, 0, 8, .ro, 0⟩
/-- BIST.PERIOD 15:0 INTERVAL (18). -/
def fBistPeriodInterval : RField := ⟨.bistPeriod, 0, 16, .rwl, 100⟩
/-- IRQP.CLAIM bit 0 GO (19). -/
def fIrqpClaimGo : RField := ⟨.irqpClaim, 0, 1, .wo, 0⟩
/-- IRQP.COMPLETE 11:0 ID (19). -/
def fIrqpCompleteId : RField := ⟨.irqpComplete, 0, 12, .wo, 0⟩
/-- IRQP.STATE 43:32 HIGHEST (19). -/
def fIrqpStateHighest : RField := ⟨.irqpState, 32, 12, .ro, 4095⟩
/-- IRQP.STATE bit 28 RUN_VALID (19). -/
def fIrqpStateRunValid : RField := ⟨.irqpState, 28, 1, .ro, 0⟩
/-- IRQP.STATE 27:24 RUN_PRIO (19). -/
def fIrqpStateRunPrio : RField := ⟨.irqpState, 24, 4, .ro, 0⟩
/-- IRQP.STATE 20:16 DEPTH (19). -/
def fIrqpStateDepth : RField := ⟨.irqpState, 16, 5, .ro, 0⟩
/-- IRQP.STATE 11:0 TOP (19). -/
def fIrqpStateTop : RField := ⟨.irqpState, 0, 12, .ro, 4095⟩
/-- IRQP.THRESH 3:0 THRESH (19). -/
def fIrqpThreshThresh : RField := ⟨.irqpThresh, 0, 4, .rwl, 0⟩
/-- IRQP.SW_SET 15:0 SET (19). -/
def fIrqpSwSetSet : RField := ⟨.irqpSwSet, 0, 16, .wo, 0⟩
/-- IRQP.TIMER 63:0 COMPARE (19). -/
def fIrqpTimerCompare : RField := ⟨.irqpTimer, 0, 64, .rwl, 18446744073709551615⟩
/-- IRQP.FAULT bit 44 VALID (19). -/
def fIrqpFaultValid : RField := ⟨.irqpFault, 44, 1, .w1c, 0⟩
/-- IRQP.FAULT 43:32 TOP (19). -/
def fIrqpFaultTop : RField := ⟨.irqpFault, 32, 12, .ro, 0⟩
/-- IRQP.FAULT 28:24 DEPTH (19). -/
def fIrqpFaultDepth : RField := ⟨.irqpFault, 24, 5, .ro, 0⟩
/-- IRQP.FAULT 11:0 GOT (19). -/
def fIrqpFaultGot : RField := ⟨.irqpFault, 0, 12, .ro, 0⟩
/-- IRQP.STACK_RESET bit 0 RESET (19). -/
def fIrqpStackResetReset : RField := ⟨.irqpStackReset, 0, 1, .wo, 0⟩
/-- IRQP.MERGED 47:0 COUNT (19). -/
def fIrqpMergedCount : RField := ⟨.irqpMerged, 0, 48, .ro, 0⟩
/-- IRQP.PRIV 19:18 STATE (19). -/
def fIrqpPrivState : RField := ⟨.irqpPriv, 18, 2, .ro, 0⟩
/-- IRQP.PRIV bit 17 KIND (19). -/
def fIrqpPrivKind : RField := ⟨.irqpPriv, 17, 1, .ro, 0⟩
/-- IRQP.PRIV bit 16 ENABLE (19). -/
def fIrqpPrivEnable : RField := ⟨.irqpPriv, 16, 1, .rwl, 0⟩
/-- IRQP.PRIV 15:12 PRIO (19). -/
def fIrqpPrivPrio : RField := ⟨.irqpPriv, 12, 4, .rwl, 0⟩
/-- IRQ.SEL 9:0 SRC (19). -/
def fIrqSelSrc : RField := ⟨.irqSel, 0, 10, .rwl, 0⟩
/-- IRQ.CFG 19:18 STATE (19). -/
def fIrqCfgState : RField := ⟨.irqCfg, 18, 2, .ro, 0⟩
/-- IRQ.CFG bit 17 KIND (19). -/
def fIrqCfgKind : RField := ⟨.irqCfg, 17, 1, .ro, 0⟩
/-- IRQ.CFG bit 16 ENABLE (19). -/
def fIrqCfgEnable : RField := ⟨.irqCfg, 16, 1, .rwl, 0⟩
/-- IRQ.CFG 15:12 PRIO (19). -/
def fIrqCfgPrio : RField := ⟨.irqCfg, 12, 4, .rwl, 0⟩
/-- IRQ.CFG 3:0 TARGET (19). -/
def fIrqCfgTarget : RField := ⟨.irqCfg, 0, 4, .rwl, 0⟩
/-- IRQ.SW_SET 9:0 SRC (19). -/
def fIrqSwSetSrc : RField := ⟨.irqSwSet, 0, 10, .wo, 0⟩
/-- IRQ.EOI 9:0 SRC (19). -/
def fIrqEoiSrc : RField := ⟨.irqEoi, 0, 10, .wo, 0⟩
/-- TIME.TICK 63:0 TICK (19). -/
def fTimeTickTick : RField := ⟨.timeTick, 0, 64, .ro, 0⟩
/-- TIME.CORR 63:0 OFFSET (19). -/
def fTimeCorrOffset : RField := ⟨.timeCorr, 0, 64, .rwl, 0⟩
/-- TIME.CORR_STAT bit 63 VALID (19). -/
def fTimeCorrStatValid : RField := ⟨.timeCorrStat, 63, 1, .ro, 0⟩
/-- TIME.CORR_STAT 62:0 AT (19). -/
def fTimeCorrStatAt : RField := ⟨.timeCorrStat, 0, 63, .ro, 0⟩
/-- FN.BLK_VEC 10:0 VECTOR (19). -/
def fFnBlkVecVector : RField := ⟨.fnBlkVec, 0, 11, .rwl, 0⟩

/-- The registers of the common header (R517). -/
def rowsHdr : List RegRow :=
  [⟨.blkId, 0x0, 8, 1, 8, 1,
    [fBlkIdMajor, fBlkIdMinor, fBlkIdMinMinor, fBlkIdCause, fBlkIdPresent, fBlkIdInstance, fBlkIdType]⟩,
   ⟨.blkCap, 0x8, 8, 1, 8, 1,
    [fBlkCapCap]⟩,
   ⟨.blkCtrl, 0x10, 8, 1, 8, 1,
    [fBlkCtrlMinorSel]⟩,
   ⟨.blkStatus, 0x18, 8, 1, 8, 1,
    [fBlkStatusSpecific, fBlkStatusCommitPend, fBlkStatusStaged, fBlkStatusQuiescent]⟩,
   ⟨.blkErr, 0x20, 8, 1, 8, 1,
    [fBlkErrFirst, fBlkErrFirstValid, fBlkErrCount, fBlkErrAcc]⟩,
   ⟨.blkErrMask, 0x28, 8, 1, 8, 1,
    [fBlkErrMaskMask]⟩,
   ⟨.blkIrqPend, 0x30, 8, 1, 8, 1,
    [fBlkIrqPendSrc, fBlkIrqPendErr]⟩,
   ⟨.blkIrqEn, 0x38, 8, 1, 8, 1,
    [fBlkIrqEnEn]⟩,
   ⟨.blkCommit, 0x40, 8, 1, 8, 1,
    [fBlkCommitDiscard, fBlkCommitCommit]⟩,
   ⟨.blkWstat, 0x48, 8, 1, 8, 1,
    [fBlkWstatCount, fBlkWstatMaster, fBlkWstatFieldLsb, fBlkWstatOffset, fBlkWstatValid, fBlkWstatCode]⟩]

/-- The registers of the pkgId page. -/
def rowsPkgId : List RegRow :=
  [⟨.pkgIdGrade, 0x100, 8, 1, 8, 1,
    [fPkgIdGradeZlPortMask, fPkgIdGradeDiesPerStack, fPkgIdGradeCoresPerSpan, fPkgIdGradeGradeCode]⟩,
   ⟨.pkgIdStraps, 0x108, 8, 1, 8, 1,
    [fPkgIdStrapsBad, fPkgIdStrapsBoardId, fPkgIdStrapsRsvd, fPkgIdStrapsFlSpeed, fPkgIdStrapsPcieClk, fPkgIdStrapsPcie1En, fPkgIdStrapsI3cSa]⟩,
   ⟨.pkgIdRails, 0x110, 8, 1, 8, 1,
    [fPkgIdRailsTick, fPkgIdRailsValid, fPkgIdRailsRail, fPkgIdRailsKind]⟩]

/-- The registers of the numev page. -/
def rowsNumev : List RegRow :=
  [⟨.numevCtxSel, 0x100, 8, 1, 8, 1,
    [fNumevCtxSelCtx]⟩,
   ⟨.numevSat, 0x108, 8, 1, 8, 1,
    [fNumevSatCount]⟩,
   ⟨.numevNanLost, 0x110, 8, 1, 8, 1,
    [fNumevNanLostCount]⟩,
   ⟨.numevScaleInvalid, 0x118, 8, 1, 8, 1,
    [fNumevScaleInvalidCount]⟩,
   ⟨.numevIntSat, 0x120, 8, 1, 8, 1,
    [fNumevIntSatCount]⟩,
   ⟨.numevSticky, 0x128, 8, 1, 8, 1,
    [fNumevStickyInfOut, fNumevStickyNanOut, fNumevStickyIntSat, fNumevStickyScaleInvalid, fNumevStickyNanLost, fNumevStickySat]⟩,
   ⟨.numevClear, 0x130, 8, 1, 8, 1,
    [fNumevClearClearAll, fNumevClearClearCtx]⟩]

/-- The registers of the cq page. -/
def rowsCq : List RegRow :=
  [⟨.cqCredit, 0x100, 8, 1, 8, 1,
    [fCqCreditTotal, fCqCreditNb, fCqCreditSt, fCqCreditVx, fCqCreditMx, fCqCreditLd]⟩,
   ⟨.cqSpecIssued, 0x108, 8, 1, 8, 1,
    [fCqSpecIssuedCount]⟩,
   ⟨.cqSpecCancelled, 0x110, 8, 1, 8, 1,
    [fCqSpecCancelledCount]⟩,
   ⟨.cqSlotCtx, 0x200, 64, 4, 8, 1,
    [fCqSlotCtxPrio, fCqSlotCtxValid, fCqSlotCtxCtx]⟩,
   ⟨.cqSlotCtrl, 0x208, 64, 4, 8, 1,
    [fCqSlotCtrlAbort, fCqSlotCtrlResume, fCqSlotCtrlHalt]⟩,
   ⟨.cqSlotState, 0x210, 64, 4, 8, 1,
    [fCqSlotStateLaunches, fCqSlotStateState]⟩,
   ⟨.cqSlotErr, 0x218, 64, 4, 8, 1,
    [fCqSlotErrValid, fCqSlotErrEngine, fCqSlotErrCode]⟩,
   ⟨.cqSlotErrAddr, 0x220, 64, 4, 8, 1,
    [fCqSlotErrAddrAddr]⟩,
   ⟨.cqSlotPred, 0x228, 64, 4, 8, 1,
    [fCqSlotPredPred]⟩,
   ⟨.cqPc, 0x400, 16, 20, 8, 1,
    [fCqPcPc]⟩,
   ⟨.cqWaiting, 0x408, 16, 20, 8, 1,
    [fCqWaitingTally, fCqWaitingTarget]⟩]

/-- The registers of the tly page. -/
def rowsTly : List RegRow :=
  [⟨.tlySel, 0x100, 8, 1, 8, 1,
    [fTlySelSlot]⟩,
   ⟨.tlySignal, 0x108, 8, 1, 8, 1,
    [fTlySignalTally, fTlySignalAdd]⟩,
   ⟨.tlyOrphan, 0x110, 8, 1, 8, 1,
    [fTlyOrphanCount]⟩,
   ⟨.tlyValue, 0x400, 8, 128, 8, 1,
    [fTlyValueValue]⟩,
   ⟨.tlyScopeChk, 0x118, 8, 1, 8, 1,
    [fTlyScopeChkEnable]⟩,
   ⟨.tlyScopeMismatch, 0x120, 8, 1, 8, 1,
    [fTlyScopeMismatchCount]⟩,
   ⟨.tlyScopeNoorder, 0x128, 8, 1, 8, 1,
    [fTlyScopeNoorderCount]⟩,
   ⟨.tlyScopeLast, 0x130, 8, 1, 8, 1,
    [fTlyScopeLastValid, fTlyScopeLastCtx, fTlyScopeLastSrcCore, fTlyScopeLastSrcSpan, fTlyScopeLastSrcKind, fTlyScopeLastSigScope, fTlyScopeLastWaitScope, fTlyScopeLastTally, fTlyScopeLastSlot]⟩]

/-- The registers of the lmx page. -/
def rowsLmx : List RegRow :=
  [⟨.lmxWin, 0x100, 8, 4, 8, 1,
    [fLmxWinSize, fLmxWinBase]⟩,
   ⟨.lmxConflict, 0x140, 8, 9, 8, 1,
    [fLmxConflictCount]⟩,
   ⟨.lmxMxBusy, 0x190, 8, 1, 8, 1,
    [fLmxMxBusyCount]⟩,
   ⟨.lmxVxBusy, 0x198, 8, 1, 8, 1,
    [fLmxVxBusyCount]⟩]

/-- The registers of the tc page. -/
def rowsTc : List RegRow :=
  [⟨.tcCtrl, 0x100, 8, 1, 8, 1,
    [fTcCtrlFlushAll]⟩,
   ⟨.tcStatus, 0x108, 8, 1, 8, 1,
    [fTcStatusFlushBusy, fTcStatusDirtyLines]⟩,
   ⟨.tcHit, 0x110, 8, 1, 8, 1,
    [fTcHitCount]⟩,
   ⟨.tcMiss, 0x118, 8, 1, 8, 1,
    [fTcMissCount]⟩,
   ⟨.tcWriteback, 0x120, 8, 1, 8, 1,
    [fTcWritebackCount]⟩,
   ⟨.tcNbDiscard, 0x128, 8, 1, 8, 1,
    [fTcNbDiscardCount]⟩,
   ⟨.tcRangeLines, 0x130, 8, 1, 8, 1,
    [fTcRangeLinesCount]⟩]

/-- The registers of the dmaev page. -/
def rowsDmaev : List RegRow :=
  [⟨.dmaevCtxSel, 0x100, 8, 1, 8, 1,
    [fDmaevCtxSelCtx]⟩,
   ⟨.dmaevOobRead, 0x108, 8, 1, 8, 1,
    [fDmaevOobReadCount]⟩,
   ⟨.dmaevOobWrite, 0x110, 8, 1, 8, 1,
    [fDmaevOobWriteCount]⟩,
   ⟨.dmaevOobIndex, 0x118, 8, 1, 8, 1,
    [fDmaevOobIndexCount]⟩,
   ⟨.dmaevCoalesced, 0x120, 8, 1, 8, 1,
    [fDmaevCoalescedCount]⟩,
   ⟨.dmaevSticky, 0x128, 8, 1, 8, 1,
    [fDmaevStickyOobIndex, fDmaevStickyOobWrite, fDmaevStickyOobRead]⟩,
   ⟨.dmaevClear, 0x130, 8, 1, 8, 1,
    [fDmaevClearClearAll, fDmaevClearClearCtx]⟩]

/-- The registers of the ldst page. -/
def rowsLdst : List RegRow :=
  [⟨.ldstXact, 0x100, 8, 1, 8, 1,
    [fLdstXactHeld, fLdstXactSpec]⟩,
   ⟨.ldstLdBytes, 0x108, 8, 1, 8, 1,
    [fLdstLdBytesCount]⟩,
   ⟨.ldstStBytes, 0x110, 8, 1, 8, 1,
    [fLdstStBytesCount]⟩,
   ⟨.ldstHostBytes, 0x118, 8, 1, 8, 1,
    [fLdstHostBytesCount]⟩,
   ⟨.ldstFaults, 0x120, 8, 1, 8, 1,
    [fLdstFaultsCount]⟩]

/-- The registers of the stk page. -/
def rowsStk : List RegRow :=
  [⟨.stkBand, 0x100, 8, 1, 8, 1,
    [fStkBandChanges, fStkBandBand]⟩]

/-- The registers of the pcc page. -/
def rowsPcc : List RegRow :=
  [⟨.pccState, 0x100, 8, 1, 8, 1,
    [fPccStateRetrain, fPccStatePaused, fPccStateBand, fPccStateOwed, fPccStateQueued]⟩,
   ⟨.pccRefCnt, 0x108, 8, 1, 8, 1,
    [fPccRefCntCount]⟩,
   ⟨.pccRetry, 0x110, 8, 1, 8, 1,
    [fPccRetryEscalations, fPccRetryRdata, fPccRetryWdata, fPccRetryCa]⟩,
   ⟨.pccExpress, 0x118, 8, 1, 8, 1,
    [fPccExpressDepth, fPccExpressRate]⟩,
   ⟨.pccSpare, 0x120, 8, 1, 8, 1,
    [fPccSpareState, fPccSpareSpare, fPccSpareLbank, fPccSpareStart]⟩,
   ⟨.pccOrdArea, 0x128, 8, 1, 8, 1,
    [fPccOrdAreaSize, fPccOrdAreaBaseRow]⟩,
   ⟨.pccOrdStat, 0x130, 8, 1, 8, 1,
    [fPccOrdStatEarly, fPccOrdStatLines, fPccOrdStatStaged]⟩,
   ⟨.pccRedCtrl, 0x138, 8, 1, 8, 1,
    [fPccRedCtrlBufWb, fPccRedCtrlSettleAll]⟩,
   ⟨.pccPart, 0x200, 8, 64, 8, 1,
    [fPccPartExpress, fPccPartEnable, fPccPartDepth, fPccPartRate]⟩,
   ⟨.pccPartTok, 0x400, 8, 64, 8, 1,
    [fPccPartTokDefer, fPccPartTokTokens]⟩,
   ⟨.pccNbCfg, 0x600, 8, 1, 8, 1,
    [fPccNbCfgQuantum, fPccNbCfgSlots]⟩,
   ⟨.pccNbSave, 0x608, 8, 1, 8, 1,
    [fPccNbSaveEnable, fPccNbSaveBaseRow]⟩,
   ⟨.pccNbState, 0x610, 8, 1, 8, 1,
    [fPccNbStateSaved, fPccNbStateQueued, fPccNbStateSlotsEff, fPccNbStateRunValid, fPccNbStateRunCtx]⟩,
   ⟨.pccNbNext, 0x618, 8, 1, 8, 1,
    [fPccNbNextStitch]⟩,
   ⟨.pccUnseal, 0x620, 8, 1, 8, 1,
    [fPccUnsealAutoBurnish, fPccUnsealUnsealedReads, fPccUnsealBurnishBusy, fPccUnsealEntries]⟩,
   ⟨.pccUnsealCtrl, 0x628, 8, 1, 8, 1,
    [fPccUnsealCtrlBurnishAll]⟩,
   ⟨.pccNbStitches, 0x630, 8, 1, 8, 1,
    [fPccNbStitchesCount]⟩,
   ⟨.pccNbSlotCycles, 0x638, 8, 1, 8, 1,
    [fPccNbSlotCyclesCount]⟩,
   ⟨.pccNbRefreshGaps, 0x640, 8, 1, 8, 1,
    [fPccNbRefreshGapsCount]⟩,
   ⟨.pccNbSwitches, 0x648, 8, 1, 8, 1,
    [fPccNbSwitchesCount]⟩]

/-- The registers of the blu page. -/
def rowsBlu : List RegRow :=
  [⟨.bluMap, 0x100, 8, 1, 8, 1,
    [fBluMapSpare, fBluMapActive, fBluMapPc, fBluMapLbank]⟩,
   ⟨.bluState, 0x108, 8, 1, 8, 1,
    [fBluStateStitch, fBluStateCtx, fBluStateDrain, fBluStateKind]⟩,
   ⟨.bluEcc, 0x110, 8, 1, 8, 1,
    [fBluEccChainRetry, fBluEccUncorr, fBluEccCorrected]⟩,
   ⟨.bluStitches, 0x118, 8, 1, 8, 1,
    [fBluStitchesCount]⟩,
   ⟨.bluColops, 0x120, 8, 1, 8, 1,
    [fBluColopsCount]⟩,
   ⟨.bluRowprim, 0x128, 8, 1, 8, 1,
    [fBluRowprimCount]⟩]

/-- The registers of the ctxs page. -/
def rowsCtxs : List RegRow :=
  [⟨.ctxsStore, 0x100, 8, 1, 8, 1,
    [fCtxsStoreSwapped, fCtxsStoreRunnable, fCtxsStoreUsed]⟩,
   ⟨.ctxsStallLimit, 0x108, 8, 1, 8, 1,
    [fCtxsStallLimitLimit]⟩,
   ⟨.ctxsStall, 0x110, 8, 1, 8, 1,
    [fCtxsStallPend]⟩,
   ⟨.ctxsEvict, 0x118, 8, 1, 8, 1,
    [fCtxsEvictSave, fCtxsEvictSlot, fCtxsEvictCore]⟩,
   ⟨.ctxsSwitch, 0x120, 8, 1, 8, 1,
    [fCtxsSwitchBase, fCtxsSwitchSlot, fCtxsSwitchCore, fCtxsSwitchCtx]⟩,
   ⟨.ctxsStatus, 0x128, 8, 1, 8, 1,
    [fCtxsStatusBusy]⟩,
   ⟨.ctxsSwitches, 0x130, 8, 1, 8, 1,
    [fCtxsSwitchesCount]⟩,
   ⟨.ctxsStalls, 0x138, 8, 1, 8, 1,
    [fCtxsStallsCount]⟩,
   ⟨.ctxsBlocked, 0x200, 8, 64, 8, 1,
    [fCtxsBlockedBlocked, fCtxsBlockedSince]⟩]

/-- The registers of the xlt page. -/
def rowsXlt : List RegRow :=
  [⟨.xltFringBase, 0x100, 8, 1, 8, 1,
    [fXltFringBaseBase]⟩,
   ⟨.xltFringCtrl, 0x108, 8, 1, 8, 1,
    [fXltFringCtrlOverflow, fXltFringCtrlHeld, fXltFringCtrlEnable, fXltFringCtrlSizeLog2]⟩,
   ⟨.xltFringTail, 0x110, 8, 1, 8, 1,
    [fXltFringTailTail]⟩,
   ⟨.xltFringHead, 0x118, 8, 1, 8, 1,
    [fXltFringHeadHead]⟩,
   ⟨.xltFresume, 0x120, 8, 1, 8, 1,
    [fXltFresumeDiscard, fXltFresumeEng, fXltFresumeCore, fXltFresumeCtx]⟩,
   ⟨.xltWalks, 0x128, 8, 1, 8, 1,
    [fXltWalksCount]⟩,
   ⟨.xltStlbHit, 0x130, 8, 1, 8, 1,
    [fXltStlbHitCount]⟩,
   ⟨.xltStlbMiss, 0x138, 8, 1, 8, 1,
    [fXltStlbMissCount]⟩,
   ⟨.xltFaults, 0x140, 8, 1, 8, 1,
    [fXltFaultsCount]⟩]

/-- The registers of the xinv page. -/
def rowsXinv : List RegRow :=
  [⟨.xinvVa, 0x100, 8, 1, 8, 1,
    [fXinvVaVa]⟩,
   ⟨.xinvLen, 0x108, 8, 1, 8, 1,
    [fXinvLenPages]⟩,
   ⟨.xinvCmd, 0x110, 8, 1, 8, 1,
    [fXinvCmdGo, fXinvCmdKind, fXinvCmdAsid]⟩,
   ⟨.xinvStatus, 0x118, 8, 1, 8, 1,
    [fXinvStatusDone, fXinvStatusBusy]⟩]

/-- The registers of the frame page. -/
def rowsFrame : List RegRow :=
  [⟨.frameCtrl, 0x100, 8, 1, 8, 1,
    [fFrameCtrlActivate, fFrameCtrlStop, fFrameCtrlStart, fFrameCtrlMode]⟩,
   ⟨.framePeriod, 0x108, 8, 1, 8, 1,
    [fFramePeriodPeriod]⟩,
   ⟨.frameActAt, 0x110, 8, 1, 8, 1,
    [fFrameActAtCadence]⟩,
   ⟨.frameStatus, 0x118, 8, 1, 8, 1,
    [fFrameStatusCadenceLost, fFrameStatusIdle, fFrameStatusActPend, fFrameStatusState]⟩,
   ⟨.frameCadence, 0x120, 8, 1, 8, 1,
    [fFrameCadenceValue]⟩,
   ⟨.frameWork, 0x128, 8, 1, 8, 1,
    [fFrameWorkValue]⟩,
   ⟨.frameStart, 0x130, 8, 1, 8, 1,
    [fFrameStartValue]⟩,
   ⟨.frameIdled, 0x140, 8, 1, 8, 1,
    [fFrameIdledValue]⟩,
   ⟨.frameLost, 0x148, 8, 1, 8, 1,
    [fFrameLostValue]⟩,
   ⟨.frameIdle, 0x138, 8, 1, 8, 1,
    [fFrameIdleDutyEff, fFrameIdleDuty]⟩]

/-- The registers of the sched page. -/
def rowsSched : List RegRow :=
  [⟨.schedTable, 0x100, 8, 1, 8, 1,
    [fSchedTableBase]⟩,
   ⟨.schedCount, 0x108, 8, 1, 8, 1,
    [fSchedCountEntries]⟩,
   ⟨.schedLoad, 0x110, 8, 1, 8, 1,
    [fSchedLoadLoad]⟩,
   ⟨.schedVstat, 0x118, 8, 1, 8, 1,
    [fSchedVstatBusy, fSchedVstatStaged, fSchedVstatBank, fSchedVstatEntry, fSchedVstatResult]⟩,
   ⟨.schedLaunches, 0x120, 8, 1, 8, 1,
    [fSchedLaunchesCount]⟩,
   ⟨.schedSlips, 0x128, 8, 1, 8, 1,
    [fSchedSlipsCount]⟩,
   ⟨.schedOverruns, 0x130, 8, 1, 8, 1,
    [fSchedOverrunsCount]⟩,
   ⟨.schedNotArmed, 0x138, 8, 1, 8, 1,
    [fSchedNotArmedCount]⟩,
   ⟨.schedDropped, 0x140, 8, 1, 8, 1,
    [fSchedDroppedCount]⟩,
   ⟨.schedArm, 0x200, 8, 64, 8, 1,
    [fSchedArmArm]⟩]

/-- The registers of the zl page. -/
def rowsZl : List RegRow :=
  [⟨.zlCfg, 0x100, 8, 1, 8, 1,
    [fZlCfgDim, fZlCfgAllowX4, fZlCfgEnable]⟩,
   ⟨.zlStatus, 0x108, 8, 1, 8, 1,
    [fZlStatusFailCause, fZlStatusPartnerPort, fZlStatusPartnerPkg, fZlStatusMinor, fZlStatusWidth, fZlStatusState]⟩,
   ⟨.zlDelay, 0x110, 8, 1, 8, 1,
    [fZlDelayDelay]⟩,
   ⟨.zlFlitsTx, 0x118, 8, 1, 8, 1,
    [fZlFlitsTxCount]⟩,
   ⟨.zlFlitsRx, 0x120, 8, 1, 8, 1,
    [fZlFlitsRxCount]⟩,
   ⟨.zlNaks, 0x128, 8, 1, 8, 1,
    [fZlNaksCount]⟩,
   ⟨.zlRetrains, 0x130, 8, 1, 8, 1,
    [fZlRetrainsCount]⟩,
   ⟨.zlDropped, 0x138, 8, 1, 8, 1,
    [fZlDroppedCount]⟩,
   ⟨.zlCtrl, 0x140, 8, 1, 8, 1,
    [fZlCtrlRestart, fZlCtrlRetrain]⟩]

/-- The registers of the zroute page. -/
def rowsZroute : List RegRow :=
  [⟨.zrouteSelf, 0x100, 8, 1, 8, 1,
    [fZrouteSelfPkgNum]⟩,
   ⟨.zrouteSel, 0x108, 8, 1, 8, 1,
    [fZrouteSelIndex]⟩,
   ⟨.zrouteEntry, 0x110, 8, 1, 8, 1,
    [fZrouteEntryValid, fZrouteEntryDateline, fZrouteEntryAlt, fZrouteEntryPrimary]⟩]

/-- The registers of the zwin page. -/
def rowsZwin : List RegRow :=
  [⟨.zwinBase, 0x100, 8, 1, 8, 1,
    [fZwinBaseBase]⟩,
   ⟨.zwinInval, 0x108, 8, 1, 8, 1,
    [fZwinInvalGo, fZwinInvalAll, fZwinInvalIndex]⟩,
   ⟨.zwinStatus, 0x110, 8, 1, 8, 1,
    [fZwinStatusDone, fZwinStatusBusy]⟩,
   ⟨.zwinRefused, 0x118, 8, 1, 8, 1,
    [fZwinRefusedCount]⟩,
   ⟨.zwinOrphans, 0x120, 8, 1, 8, 1,
    [fZwinOrphansCount]⟩,
   ⟨.zwinForwarded, 0x128, 8, 1, 8, 1,
    [fZwinForwardedCount]⟩]

/-- The registers of the zsync page. -/
def rowsZsync : List RegRow :=
  [⟨.zsyncCfg, 0x100, 8, 1, 8, 1,
    [fZsyncCfgAltEn, fZsyncCfgAltParent, fZsyncCfgParent, fZsyncCfgRole]⟩,
   ⟨.zsyncStatus, 0x108, 8, 1, 8, 1,
    [fZsyncStatusOnAlt, fZsyncStatusActiveParent, fZsyncStatusDepth, fZsyncStatusDeep, fZsyncStatusPeriodMismatch, fZsyncStatusSyncMiss, fZsyncStatusLost, fZsyncStatusHoldover, fZsyncStatusLocked]⟩,
   ⟨.zsyncError, 0x110, 8, 1, 8, 1,
    [fZsyncErrorLast]⟩,
   ⟨.zsyncOffset, 0x118, 8, 1, 8, 1,
    [fZsyncOffsetDelta]⟩]

/-- The registers of the zring page. -/
def rowsZring : List RegRow :=
  [⟨.zringBase, 0x200, 32, 64, 8, 1,
    [fZringBaseBase]⟩,
   ⟨.zringCfg, 0x208, 32, 64, 8, 1,
    [fZringCfgCore, fZringCfgCtx, fZringCfgSizeLog2, fZringCfgEnable]⟩,
   ⟨.zringState, 0x210, 32, 64, 8, 1,
    [fZringStateDseq, fZringStateReason, fZringStateCode, fZringStateErrValid, fZringStateState, fZringStateHead]⟩]

/-- The registers of the own page. -/
def rowsOwn : List RegRow :=
  [⟨.ownReinClaim, 0x100, 8, 1, 8, 1,
    [fOwnReinClaimEpoch, fOwnReinClaimHolder, fOwnReinClaimRelease, fOwnReinClaimAccept, fOwnReinClaimClaim]⟩,
   ⟨.ownHandover, 0x108, 8, 1, 8, 1,
    [fOwnHandoverPending, fOwnHandoverTarget]⟩,
   ⟨.ownHeartbeat, 0x110, 8, 1, 8, 1,
    [fOwnHeartbeatBeat, fOwnHeartbeatLast]⟩,
   ⟨.ownEligible, 0x118, 8, 1, 8, 1,
    [fOwnEligibleMask]⟩,
   ⟨.ownSeqNext, 0x120, 8, 1, 8, 1,
    [fOwnSeqNextSeq]⟩]

/-- The registers of the hif page. -/
def rowsHif : List RegRow :=
  [⟨.hifLink, 0x100, 8, 1, 8, 1,
    [fHifLinkFlit, fHifLinkWidth, fHifLinkSpeed, fHifLinkState]⟩,
   ⟨.hifAper, 0x108, 8, 1, 8, 1,
    [fHifAperBase, fHifAperIntlv]⟩,
   ⟨.hifUr, 0x110, 8, 1, 8, 1,
    [fHifUrCount]⟩,
   ⟨.hifUnsealedReads, 0x118, 8, 1, 8, 1,
    [fHifUnsealedReadsCount]⟩,
   ⟨.hifPoisonReads, 0x120, 8, 1, 8, 1,
    [fHifPoisonReadsCount]⟩,
   ⟨.hifDroppedWrites, 0x128, 8, 1, 8, 1,
    [fHifDroppedWritesCount]⟩,
   ⟨.hifCplTimeouts, 0x130, 8, 1, 8, 1,
    [fHifCplTimeoutsCount]⟩]

/-- The registers of the fn page. -/
def rowsFn : List RegRow :=
  [⟨.fnSqBase, 0x100, 64, 16, 8, 1,
    [fFnSqBaseBase]⟩,
   ⟨.fnSqCfg, 0x108, 64, 16, 8, 1,
    [fFnSqCfgVector, fFnSqCfgSizeLog2, fFnSqCfgKind, fFnSqCfgEnable]⟩,
   ⟨.fnSqHead, 0x110, 64, 16, 8, 1,
    [fFnSqHeadHead]⟩,
   ⟨.fnSqState, 0x118, 64, 16, 8, 1,
    [fFnSqStateCqTail, fFnSqStateCode, fFnSqStateCqStall, fFnSqStateState]⟩,
   ⟨.fnCqBase, 0x120, 64, 16, 8, 1,
    [fFnCqBaseBase, fFnCqBaseSizeLog2]⟩,
   ⟨.fnCqHead, 0x128, 64, 16, 8, 1,
    [fFnCqHeadHead]⟩,
   ⟨.fnTsigTgt, 0x500, 8, 1, 8, 1,
    [fFnTsigTgtTally, fFnTsigTgtCore, fFnTsigTgtSpan, fFnTsigTgtCtx]⟩,
   ⟨.fnTsigAdd, 0x508, 8, 1, 8, 1,
    [fFnTsigAddAdd]⟩,
   ⟨.fnMbCmd, 0x800, 256, 8, 8, 8,
    [fFnMbCmdData]⟩,
   ⟨.fnMbRsp, 0x840, 256, 8, 8, 8,
    [fFnMbRspData]⟩,
   ⟨.fnMbState, 0x880, 256, 8, 8, 1,
    [fFnMbStateToken, fFnMbStateStatus, fFnMbStateTakeover, fFnMbStateState, fFnMbStateTag]⟩,
   ⟨.fnMbGo, 0x888, 256, 8, 8, 1,
    [fFnMbGoGo, fFnMbGoTag]⟩,
   ⟨.fnDb, 0x1000, 8, 16, 8, 1,
    [fFnDbTail]⟩,
   ⟨.fnBlkVec, 0x510, 8, 1, 8, 1,
    [fFnBlkVecVector]⟩]

/-- The registers of the serr page. -/
def rowsSerr : List RegRow :=
  [⟨.serrBktCfg, 0x100, 8, 4, 8, 1,
    [fSerrBktCfgLeak, fSerrBktCfgDepth]⟩,
   ⟨.serrBktSel, 0x120, 8, 1, 8, 1,
    [fSerrBktSelClass, fSerrBktSelIndex]⟩,
   ⟨.serrBktLevel, 0x128, 8, 1, 8, 1,
    [fSerrBktLevelOverflows, fSerrBktLevelLevel]⟩,
   ⟨.serrFlip, 0x130, 8, 1, 8, 1,
    [fSerrFlipPatB, fSerrFlipSymB, fSerrFlipPatA, fSerrFlipSymA, fSerrFlipPc, fSerrFlipPath, fSerrFlipPoison, fSerrFlipArm]⟩,
   ⟨.serrScrub, 0x138, 8, 1, 8, 1,
    [fSerrScrubEnable, fSerrScrubPeriod]⟩,
   ⟨.serrAlias, 0x140, 8, 16, 8, 1,
    [fSerrAliasValid, fSerrAliasTarget]⟩,
   ⟨.serrScrubStale, 0x1c0, 8, 1, 8, 1,
    [fSerrScrubStaleCount]⟩]

/-- The registers of the elog page. -/
def rowsElog : List RegRow :=
  [⟨.elogStatus, 0x100, 8, 1, 8, 1,
    [fElogStatusLost, fElogStatusPending, fElogStatusNextSeq]⟩,
   ⟨.elogSel, 0x108, 8, 1, 8, 1,
    [fElogSelSeq]⟩,
   ⟨.elogData, 0x110, 8, 8, 8, 1,
    [fElogDataWord]⟩,
   ⟨.elogDone, 0x150, 8, 1, 8, 1,
    [fElogDoneSeq]⟩,
   ⟨.elogClear, 0x158, 8, 1, 8, 1,
    [fElogClearLost, fElogClearFirst]⟩,
   ⟨.elogMirror, 0x160, 8, 1, 8, 1,
    [fElogMirrorBase]⟩,
   ⟨.elogMirrorCount, 0x168, 8, 1, 8, 1,
    [fElogMirrorCountEntries]⟩,
   ⟨.elogRetire, 0x170, 8, 1, 8, 1,
    [fElogRetireKind, fElogRetireBlock]⟩]

/-- The registers of the jrnl page. -/
def rowsJrnl : List RegRow :=
  [⟨.jrnlCtrl, 0x100, 8, 1, 8, 1,
    [fJrnlCtrlEnable]⟩,
   ⟨.jrnlArea0, 0x108, 8, 1, 8, 1,
    [fJrnlArea0Base]⟩,
   ⟨.jrnlArea1, 0x110, 8, 1, 8, 1,
    [fJrnlArea1Base]⟩,
   ⟨.jrnlRcpt, 0x118, 8, 1, 8, 1,
    [fJrnlRcptWindow, fJrnlRcptSizeLog2]⟩,
   ⟨.jrnlStatus, 0x120, 8, 1, 8, 1,
    [fJrnlStatusArea1Ok, fJrnlStatusArea0Ok, fJrnlStatusOpen]⟩,
   ⟨.jrnlAccepted, 0x128, 8, 1, 8, 1,
    [fJrnlAcceptedCount]⟩,
   ⟨.jrnlCommitted, 0x130, 8, 1, 8, 1,
    [fJrnlCommittedCount]⟩,
   ⟨.jrnlReplayed, 0x138, 8, 1, 8, 1,
    [fJrnlReplayedCount]⟩,
   ⟨.jrnlFailed, 0x140, 8, 1, 8, 1,
    [fJrnlFailedCount]⟩,
   ⟨.jrnlDup, 0x148, 8, 1, 8, 1,
    [fJrnlDupCount]⟩,
   ⟨.jrnlRcptFull, 0x150, 8, 1, 8, 1,
    [fJrnlRcptFullCount]⟩]

/-- The registers of the pwr page. -/
def rowsPwr : List RegRow :=
  [⟨.pwrLimit, 0x100, 8, 1, 8, 1,
    [fPwrLimitSrc, fPwrLimitRackW, fPwrLimitFallbackW, fPwrLimitLimitW, fPwrLimitTdpW]⟩,
   ⟨.pwrBudgetTo, 0x108, 8, 1, 8, 1,
    [fPwrBudgetToTimeoutS]⟩,
   ⟨.pwrAlloc, 0x110, 8, 1, 8, 1,
    [fPwrAllocDutyReq, fPwrAllocPierW, fPwrAllocNbW, fPwrAllocFabricW, fPwrAllocDenseW]⟩,
   ⟨.pwrMeas, 0x118, 8, 1, 8, 1,
    [fPwrMeasPkgW, fPwrMeasFabricW, fPwrMeasPierW, fPwrMeasNbW, fPwrMeasDenseW]⟩,
   ⟨.pwrLearn, 0x120, 8, 1, 8, 1,
    [fPwrLearnReset, fPwrLearnFreeze]⟩,
   ⟨.pwrTrActive, 0x128, 8, 1, 8, 1,
    [fPwrTrActiveActive]⟩,
   ⟨.pwrTrTime, 0x130, 8, 7, 8, 1,
    [fPwrTrTimeTicks]⟩,
   ⟨.pwrTrClear, 0x168, 8, 1, 8, 1,
    [fPwrTrClearClear]⟩,
   ⟨.pwrSwfreq, 0x200, 8, 8, 8, 1,
    [fPwrSwfreqMaxMhz, fPwrSwfreqMinMhz]⟩,
   ⟨.pwrAct, 0x240, 8, 8, 8, 1,
    [fPwrActPierPct, fPwrActNbSlots, fPwrActCeilMhz, fPwrActAllocMhz, fPwrActCoreMhz]⟩]

/-- The registers of the therm page. -/
def rowsTherm : List RegRow :=
  [⟨.thermSel, 0x100, 8, 1, 8, 1,
    [fThermSelSensor]⟩,
   ⟨.thermRead, 0x108, 8, 1, 8, 1,
    [fThermReadClass, fThermReadFailed, fThermReadValid, fThermReadTemp]⟩,
   ⟨.thermPkgMax, 0x110, 8, 1, 8, 1,
    [fThermPkgMaxBase, fThermPkgMaxDram, fThermPkgMaxTile]⟩,
   ⟨.thermWarn, 0x118, 8, 1, 8, 1,
    [fThermWarnBaseW, fThermWarnDramW, fThermWarnTileW]⟩,
   ⟨.thermRate, 0x120, 8, 1, 8, 1,
    [fThermRateRate]⟩,
   ⟨.thermAlarm, 0x128, 8, 1, 8, 1,
    [fThermAlarmSensorFail, fThermAlarmRate, fThermAlarmBaseWarn, fThermAlarmDramWarn, fThermAlarmTileWarn]⟩,
   ⟨.thermTrip, 0x130, 8, 1, 8, 1,
    [fThermTripTick, fThermTripTemp, fThermTripSensor, fThermTripCause]⟩,
   ⟨.thermSpan, 0x200, 8, 8, 8, 1,
    [fThermSpanTileHot, fThermSpanBand, fThermSpanBase, fThermSpanDramMax, fThermSpanTileMax]⟩]

/-- The registers of the lcs page. -/
def rowsLcs : List RegRow :=
  [⟨.lcsState, 0x100, 8, 1, 8, 1,
    [fLcsStateService, fLcsStatePendValid, fLcsStatePending, fLcsStateState]⟩,
   ⟨.lcsReq, 0x108, 8, 1, 8, 1,
    [fLcsReqConfirm, fLcsReqTarget]⟩,
   ⟨.lcsStatus, 0x110, 8, 1, 8, 1,
    [fLcsStatusReadyTick, fLcsStatusFail, fLcsStatusStage]⟩,
   ⟨.lcsCtrl, 0x118, 8, 1, 8, 1,
    [fLcsCtrlReset]⟩,
   ⟨.lcsImage, 0x120, 8, 1, 8, 1,
    [fLcsImageSlot, fLcsImageSeq]⟩,
   ⟨.lcsRetlist, 0x128, 8, 1, 8, 1,
    [fLcsRetlistClear, fLcsRetlistEntries, fLcsRetlistApplied]⟩]

/-- The registers of the bist page. -/
def rowsBist : List RegRow :=
  [⟨.bistCmd, 0x100, 8, 1, 8, 1,
    [fBistCmdCount1, fBistCmdFirst, fBistCmdDie, fBistCmdUnit, fBistCmdSpan, fBistCmdKind, fBistCmdGo]⟩,
   ⟨.bistStatus, 0x108, 8, 1, 8, 1,
    [fBistStatusSlices, fBistStatusRefuse, fBistStatusReport, fBistStatusResult, fBistStatusBusy]⟩,
   ⟨.bistFailAddr, 0x110, 8, 1, 8, 1,
    [fBistFailAddrAddr]⟩,
   ⟨.bistFailBit, 0x118, 8, 1, 8, 1,
    [fBistFailBitCount, fBistFailBitBit]⟩,
   ⟨.bistSigGot, 0x120, 8, 1, 8, 1,
    [fBistSigGotSig]⟩,
   ⟨.bistSigExp, 0x128, 8, 1, 8, 1,
    [fBistSigExpSig]⟩,
   ⟨.bistSummary, 0x130, 8, 1, 8, 1,
    [fBistSummarySpansAbsent, fBistSummaryPortsAbsent, fBistSummaryPcsAbsent, fBistSummaryBanksRemapped, fBistSummaryCores]⟩,
   ⟨.bistPeriod, 0x138, 8, 1, 8, 1,
    [fBistPeriodInterval]⟩]

/-- The registers of the irqp page. -/
def rowsIrqp : List RegRow :=
  [⟨.irqpClaim, 0x100, 8, 1, 8, 1,
    [fIrqpClaimGo]⟩,
   ⟨.irqpComplete, 0x108, 8, 1, 8, 1,
    [fIrqpCompleteId]⟩,
   ⟨.irqpState, 0x110, 8, 1, 8, 1,
    [fIrqpStateHighest, fIrqpStateRunValid, fIrqpStateRunPrio, fIrqpStateDepth, fIrqpStateTop]⟩,
   ⟨.irqpThresh, 0x118, 8, 1, 8, 1,
    [fIrqpThreshThresh]⟩,
   ⟨.irqpSwSet, 0x120, 8, 1, 8, 1,
    [fIrqpSwSetSet]⟩,
   ⟨.irqpTimer, 0x128, 8, 1, 8, 1,
    [fIrqpTimerCompare]⟩,
   ⟨.irqpFault, 0x130, 8, 1, 8, 1,
    [fIrqpFaultValid, fIrqpFaultTop, fIrqpFaultDepth, fIrqpFaultGot]⟩,
   ⟨.irqpStackReset, 0x138, 8, 1, 8, 1,
    [fIrqpStackResetReset]⟩,
   ⟨.irqpMerged, 0x140, 8, 1, 8, 1,
    [fIrqpMergedCount]⟩,
   ⟨.irqpPriv, 0x200, 8, 64, 8, 1,
    [fIrqpPrivState, fIrqpPrivKind, fIrqpPrivEnable, fIrqpPrivPrio]⟩]

/-- The registers of the irq page. -/
def rowsIrq : List RegRow :=
  [⟨.irqSel, 0x100, 8, 1, 8, 1,
    [fIrqSelSrc]⟩,
   ⟨.irqCfg, 0x108, 8, 1, 8, 1,
    [fIrqCfgState, fIrqCfgKind, fIrqCfgEnable, fIrqCfgPrio, fIrqCfgTarget]⟩,
   ⟨.irqSwSet, 0x110, 8, 1, 8, 1,
    [fIrqSwSetSrc]⟩,
   ⟨.irqEoi, 0x118, 8, 1, 8, 1,
    [fIrqEoiSrc]⟩]

/-- The registers of the time page. -/
def rowsTime : List RegRow :=
  [⟨.timeTick, 0x100, 8, 1, 8, 1,
    [fTimeTickTick]⟩,
   ⟨.timeCorr, 0x108, 8, 1, 8, 1,
    [fTimeCorrOffset]⟩,
   ⟨.timeCorrStat, 0x110, 8, 1, 8, 1,
    [fTimeCorrStatValid, fTimeCorrStatAt]⟩]

/-- The block-specific registers of each block. -/
def blkRows : Blk → List RegRow
  | .pkgId => rowsPkgId
  | .own => rowsOwn
  | .hif => rowsHif
  | .frame => rowsFrame
  | .xinv => rowsXinv
  | .zroute => rowsZroute
  | .zwin => rowsZwin
  | .zsync => rowsZsync
  | .zl => rowsZl
  | .pwr => rowsPwr
  | .therm => rowsTherm
  | .jrnl => rowsJrnl
  | .elog => rowsElog
  | .bist => rowsBist
  | .lcs => rowsLcs
  | .time => rowsTime
  | .irq => rowsIrq
  | .irqp => rowsIrqp
  | .tc => rowsTc
  | .numev => rowsNumev
  | .dmaev => rowsDmaev
  | .stk => rowsStk
  | .ctxs => rowsCtxs
  | .xlt => rowsXlt
  | .sched => rowsSched
  | .zring => rowsZring
  | .serr => rowsSerr
  | .cq => rowsCq
  | .tly => rowsTly
  | .lmx => rowsLmx
  | .ldst => rowsLdst
  | .pcc => rowsPcc
  | .blu => rowsBlu
  | .fn => rowsFn

/-- TYPE of BLK_ID for each block (R522). -/
def blkType : Blk → Nat
  | .pkgId => 0x1
  | .own => 0x2
  | .hif => 0x3
  | .frame => 0x10
  | .xinv => 0x11
  | .zroute => 0x12
  | .zwin => 0x13
  | .zsync => 0x14
  | .zl => 0x15
  | .pwr => 0x20
  | .therm => 0x21
  | .jrnl => 0x22
  | .elog => 0x23
  | .bist => 0x24
  | .lcs => 0x25
  | .time => 0x26
  | .irq => 0x27
  | .irqp => 0x28
  | .tc => 0x30
  | .numev => 0x31
  | .dmaev => 0x32
  | .stk => 0x33
  | .ctxs => 0x34
  | .xlt => 0x35
  | .sched => 0x36
  | .zring => 0x37
  | .serr => 0x38
  | .cq => 0x40
  | .tly => 0x41
  | .lmx => 0x42
  | .ldst => 0x43
  | .pcc => 0x50
  | .blu => 0x51
  | .fn => 0x4

/-- Reset value of a register, from its fields. -/
def regReset : Reg → Nat
  | .blkId => 0x100000000000000
  | .blkStatus => 0x1
  | .cqSlotPred => 0x1
  | .pccExpress => 0x4000000c8
  | .pccNbCfg => 0x140010
  | .pccNbState => 0x200000000000
  | .ctxsStallLimit => 0x28
  | .xltFringCtrl => 0x6
  | .framePeriod => 0xf4240
  | .frameIdle => 0x100010
  | .zringCfg => 0x50
  | .ownReinClaim => 0x70000
  | .ownHandover => 0x70000
  | .ownSeqNext => 0x1
  | .fnSqCfg => 0x600
  | .fnCqBase => 0x6
  | .serrBktCfg => 0x3e800000040
  | .serrScrub => 0x10040
  | .jrnlRcpt => 0x3019
  | .pwrLimit => 0x7d0bb8bb8
  | .pwrBudgetTo => 0x3c
  | .pwrAlloc => 0x10000000000000
  | .pwrSwfreq => 0x89803e8
  | .pwrAct => 0x640408987d07d0
  | .thermWarn => 0x2f803200320
  | .thermRate => 0x20
  | .bistPeriod => 0x64
  | .irqpState => 0xfff00000fff
  | .irqpTimer => 0xffffffffffffffff
  | _ => 0

end Sys2Proof.Machine
end

