-- ==== Sys2Proof/Machine/State.lean ====
section
/-!
DEFINITION. The state of the package: every register, table, queue, buffer, counter and pin that
the specification names, as plain data, with the queue of waiting commands; the fault and refusal
reasons; and the state at reset.
-/
namespace Sys2Proof.Machine

/-! ### Queues, slots and launches (03_engines_and_command_streams.md) -/

/-- Where a launch came from, so that its end is reported there (R99, R655). -/
inductive LaunchSrc where
  /-- Entry `idx` of the schedule table of `span`, fired at work frame `frame`. -/
  | entry (span idx frame : Nat)
  /-- A host submission with sequence number `seq` on ring `ring` of function page `fn`. -/
  | host (fn ring seq : Nat)
  /-- A system launch by Fenivar. -/
  | system
  deriving DecidableEq, Repr

/-- One launch (R94 to R99): `serial` names it within the model; `mask` is ENGINE_MASK once the
header has been read (`hdr`); `started` and `ended` hold one bit per engine; `due` is the due frame
start plus START of a schedule firing, `budget` its BUDGET and `tag` its phase tag (R426, R434). -/
structure Launch where
  serial : Nat
  hdr : Bool
  kernel : Nat
  seedVal : Nat
  seedMask : Nat
  mask : Nat
  entries : List Nat
  started : Nat
  ended : Nat
  src : LaunchSrc
  item : Nat
  due : Nat
  budget : Nat
  tag : Nat
  deriving DecidableEq, Repr

/-- Stage of a command held in a queue: it waits for its resolution point, it has issued, or its
effects are complete and only its signal is still to be performed. An NB command is `sent` while its
sequences run (R288, R289). -/
inductive Phase where
  | decoded | issued | sent | executed
  deriving DecidableEq, Repr

/-- A command that holds a credit (R103, R106, R126). `refusal` is the code of a held refusal, 0
for none; `nominal` the byte count that SIGBYTES adds (R114). -/
structure QCmd where
  pc : Nat
  w0 : Nat
  w1 : Nat
  w2 : Nat
  w3 : Nat
  refusal : Nat
  phase : Phase
  skipped : Bool
  spec : Nat
  nominal : Nat
  /-- Format events that completion adds: saturations, lost NaNs, invalid scales, saturated integer
  chunks, and the two result bits (R75, R88). -/
  evSat : Nat
  evNan : Nat
  evScale : Nat
  evInt : Nat
  evNanOut : Bool
  evInfOut : Bool
  /-- Data-movement events that completion adds (R207). -/
  oobR : Nat
  oobW : Nat
  oobI : Nat
  coal : Nat
  /-- Position of the command in its stream, counted from the entry address (R230). -/
  pos : Nat
  /-- Serial of the launch whose stream the command belongs to. -/
  launch : Nat
  /-- Number of the next speculative read in iteration order, and whether one has stopped the command's speculation
  (R133, R205). -/
  specNext : Nat
  specStop : Bool
  deriving DecidableEq, Repr

/-- Queue states as CQ.SLOT_STATE numbers them (R142). -/
inductive QState where
  | idle | run | wait | credit | haltReq | haltErr | fault
  deriving DecidableEq, Repr

/-- What a fetch of one command met (R102, R266): the command, poison, no execute permission, an
UNSEALED line, or a translation fault. -/
inductive FetchRes where
  | ok | poison | prot | unsealed | fault (cause level : Nat)
  deriving DecidableEq, Repr

/-- A command in a fetch buffer; it holds no credit (R100). -/
structure Fetched where
  pc : Nat
  w0 : Nat
  w1 : Nat
  w2 : Nat
  w3 : Nat
  res : FetchRes
  deriving DecidableEq, Repr

/-- The restart record of an LD, ST or NB queue (R202, and the NB restart record of R384, whose
OPEN, FAULTED and ISSUE stand in `iter` and `phase`). `bad` is the model's own: the invalid blocks that the command has
counted (R62, R89). -/
structure Restart where
  cmdVa : Nat
  iter : List Nat
  phase : Nat
  faultVa : Nat
  oobR : Nat
  oobW : Nat
  oobI : Nat
  coal : Nat
  bad : List Nat
  deriving DecidableEq, Repr

/-- An empty restart record. -/
def noRestart : Restart := ⟨0, [0, 0, 0, 0, 0, 0], 0, 0, 0, 0, 0, 0, []⟩

/-- A translation fault met and not yet taken: cause, level, access, address and source as in a
fault record (R406). -/
structure PFault where
  cause : Nat
  level : Nat
  access : Nat
  va : Nat
  source : Nat
  /-- For an NB sequence: pseudo-channel, its span and the stitch. -/
  pc : Nat
  tspan : Nat
  stitch : Nat
  deriving DecidableEq, Repr

/-- The accumulator tile that the last executed `mx.mma` of a queue left: its D, whether INT32, and the codes written
(R156). -/
structure MxTile where
  base : Nat
  rows : Nat
  cols : Nat
  str : Nat
  int : Bool
  codes : List (List Nat)
  deriving DecidableEq, Repr

/-- One queue (R91, R108, R142). `pc` is CQ.PC; `fetchPc` the next command address to fetch;
`waitLeft` the remaining timeout in units of 1,024 ticks, with `waitAt` the tick it was last
counted from. -/
structure Queue where
  st : QState
  pc : Nat
  fetchPc : Nat
  buf : List Fetched
  cmds : List QCmd
  entry : Nat
  waitTally : Nat
  waitTarget : Nat
  waitLeft : Nat
  waitAt : Nat
  openFault : Bool
  resolved : Bool
  restart : Restart
  /-- A translation fault that an access of the queue has met and that the queue has not yet taken
  (R405). -/
  pend : Option PFault
  /-- Of an MX queue: the accumulator tile, held while the command that filled it has not completed (R150, R156). -/
  tile : Option MxTile
  /-- The failed command and those behind it that a halt discarded: their signals are never performed (R137, R139). -/
  gone : List QCmd
  deriving DecidableEq, Repr

/-- An idle queue. -/
def idleQueue : Queue := ⟨.idle, 0, 0, [], [], 0, 0, 0, 0, 0, false, false, noRestart, none, none, []⟩

/-- Scope and source of the last addition recorded with a tally (R345): scope, source kind
(0 queue, 1 host, 2 remote), span and core. -/
structure ScopeRec where
  scope : Nat
  kind : Nat
  span : Nat
  core : Nat
  deriving DecidableEq, Repr

/-- A core part: what a context holds on one core, resident or stored (R382, R384). Tallies not
listed are zero; predicate bit 0 is P0, which reads 1 (R107). `err` is the first queue error for which
Fenivar has not yet aborted the slot, as engine, code and command address (R138, R655). -/
structure CorePart where
  tallies : List (Nat × Nat)
  preds : Nat
  launches : List Launch
  queues : List Queue
  winRetained : Bool
  winBase : Nat
  err : Option (Nat × Nat × Nat)
  deriving DecidableEq, Repr

/-- The core part of a newly created context (R107, R111). -/
def newPart : CorePart := ⟨[], 1, [], [idleQueue, idleQueue, idleQueue, idleQueue, idleQueue], false, 0, none⟩

/-- A resident slot of a core (R91): the context it holds, its priority and core part; the tick at
which it became blocked (R391); and the scope records of its tallies (R345). -/
structure Slot where
  ctx : Option Nat
  prio : Nat
  part : CorePart
  blocked : Bool
  since : Nat
  scopes : List (Nat × ScopeRec)
  deriving DecidableEq, Repr

/-- An empty slot: it counts as blocked (R391). -/
def emptySlot : Slot := ⟨none, 0, newPart, true, 0, []⟩

/-- A tally addition on its way to its target (R113, R118). -/
structure Signal where
  ctx : Nat
  span : Nat
  core : Nat
  tally : Nat
  add : Nat
  scope : Nat
  kind : Nat
  srcSpan : Nat
  srcCore : Nat
  /-- Engine of the queue that sent it (R113). -/
  eng : Nat
  /-- Sequence number of the work item whose replay would repeat the addition, 0 for none. -/
  item : Nat
  /-- Serial of the launch that sent it, 0 for none (R99). -/
  launch : Nat
  deriving DecidableEq, Repr

/-- A launch on its way to a core (R94, R96). -/
structure Delivery where
  span : Nat
  core : Nat
  ctx : Nat
  launch : Launch
  deriving DecidableEq, Repr

/-! ### Memory, tile caches and pseudo-channel controllers (04, 06, 07, 09, 15) -/

/-- A write merged into a tile-cache line and not yet flushed: its core, first byte and bytes
(R168). -/
structure TcWrite where
  core : Nat
  off : Nat
  data : List Byte
  deriving DecidableEq, Repr

/-- A tile-cache line (R167, R319, R321), named by span, decode and device line address: the fill,
the writes merged since in order, the dirty bytes and the poisoned columns. -/
structure TcLine where
  span : Nat
  intlv : Bool
  line : Nat
  base : List Byte
  writes : List TcWrite
  dirty : Nat
  poison : Nat
  deriving DecidableEq, Repr

/-- A pier-path request held by a controller (R224, R225): its columns, partition, whether it is an
express read, its bank and row, the column it starts at, the tick since which it has been eligible,
whether it has waited for tokens, whether its columns are charged to a bucket, and whether it was queued before the
last stitch boundary of its bank (R256). A broadcast's request names bank 32, which is no bank (R243). -/
structure PReq where
  isWrite : Bool
  express : Bool
  part : Nat
  cols : Nat
  bank : Nat
  row : Nat
  cell : Nat
  at_ : Nat
  waited : Bool
  charged : Bool
  before : Bool
  deriving DecidableEq, Repr

/-- An address of host memory with the requester that names it: function, PASID where requests carry one, and DMA
address (R410). -/
structure HostAddr where
  fn : Nat
  pasid : Option Nat
  addr : Nat
  deriving DecidableEq, Repr

/-- A reducer-buffer line of 128 bytes (R228), with a mask of the columns changed since it was read and one of the
poisoned columns. -/
structure RedLine where
  line : Nat
  data : List Byte
  dirty : Nat
  poison : Nat
  deriving DecidableEq, Repr

/-- Reducer operations of R192, with the stored format of a floating one. -/
inductive RedOp where
  | fadd (fmt : Nat) | fmin (fmt : Nat) | fmax (fmt : Nat) | iadd32 | iadd64
  deriving DecidableEq, Repr

/-- A staged ordered update (R231): tag, value, cell address, operation and context. The value is kept exactly, as
sign, mantissa and exponent (`cls` 0), an infinity (1), a NaN (2), or poison (3, R317). `hi` is the cell of the
second half of an INT64 element, which may lie in another line, and `cell` for the others. -/
structure Staged where
  tag : Nat
  neg : Bool
  mant : Nat
  exp : Int
  cls : Nat
  cell : Nat
  hi : Nat
  op : RedOp
  ctx : Nat
  /-- Journaled item whose commit the entry waits for, 0 for none (R549). -/
  item : Nat
  deriving DecidableEq, Repr

/-- Kinds of replayed pier commands (R216): command or address, write or broadcast beat, read. -/
inductive ReplayKind where
  | ca | wdata | rdata
  deriving DecidableEq, Repr

/-- One command of a replay buffer with its failures so far (R216, R217). -/
structure ReplayCmd where
  kind : ReplayKind
  cell : Nat
  fails : Nat
  /-- Tick at which it was last issued. -/
  at_ : Nat
  /-- Bank and row that its replay opens again, where it needs one open. -/
  opens : Option (Nat × Nat)
  deriving DecidableEq, Repr
/-! ### Contexts, records, translation (11_contexts_translation_preemption.md) -/

/-- A context descriptor (R379). -/
structure Ctx where
  asid : Nat
  prio : Nat
  part : Nat
  va48 : Bool
  func : Nat
  pasidEn : Bool
  pasid : Nat
  ptRoot : Nat
  spans : Nat
  win : Nat
  deriving DecidableEq, Repr

/-- Where a record that is not wholly resident is held (R382). -/
inductive Tier where
  | store | swapped
  deriving DecidableEq, Repr

/-- The record of a context on one span (R382 to R385). `runSince` holds the tick at which each set bit of
RUNNABLE was set with the record in the store, and `parkedAt` the tick at which each core's part was parked;
`parts` holds the core parts that are not in a slot; `pend` the pending sums of a swapped record, by core and
tally. -/
structure CtxRec where
  coreMask : Nat
  winSave : Nat
  runnable : Nat
  runSince : List (Nat × Nat)
  tier : Tier
  parkedAt : List (Nat × Nat)
  parts : List (Nat × CorePart)
  pend : List ((Nat × Nat) × Nat)
  deriving DecidableEq, Repr

/-- Format counters and sticky bits of one context on one span (R87). -/
structure NumCnt where
  sat : Nat
  nanLost : Nat
  scaleInvalid : Nat
  intSat : Nat
  sticky : Nat
  deriving DecidableEq, Repr

/-- Data-movement counters and sticky bits of one context on one span (R207). -/
structure DmaCnt where
  oobR : Nat
  oobW : Nat
  oobI : Nat
  coal : Nat
  sticky : Nat
  deriving DecidableEq, Repr

/-- Where a translation is cached (R399): the micro-TLB `u` of a core, 0 to 4 for the engines and 5 to 9 for the
fetch units of their queues; a core's TLB; a span's TLB. -/
inductive TlbHome where
  | micro (core u : Nat)
  | core (core : Nat)
  | span (span : Nat)
  deriving DecidableEq, Repr

/-- A cached translation (R399): where it is held, ASID, virtual base, page size and entry. -/
structure TlbEntry where
  home : TlbHome
  asid : Nat
  vbase : Nat
  size : Nat
  pte : Nat
  deriving DecidableEq, Repr

/-- A table entry held in the table-entry cache of a span (R399): ASID, level, the virtual base of what it covers,
and the entry. -/
structure TecEntry where
  span : Nat
  asid : Nat
  level : Nat
  vbase : Nat
  pte : Nat
  deriving DecidableEq, Repr

/-- A fault record (R406). -/
structure FaultRec where
  ctx : Nat
  asid : Nat
  core : Nat
  slot : Nat
  engine : Nat
  source : Nat
  cause : Nat
  level : Nat
  access : Nat
  pc : Nat
  tspan : Nat
  va : Nat
  cmdVa : Nat
  stitch : Nat
  tick : Nat
  deriving DecidableEq, Repr

/-- An invalidation in progress (R401): its kind, ASID, first page and pages. -/
structure XinvOp where
  kind : Nat
  asid : Nat
  va : Nat
  pages : Nat
  deriving DecidableEq, Repr
/-! ### Bank lane units, sequences and controllers (06, 07, 08) -/

/-- Stitch kinds as BLU.STATE.KIND numbers them (R248, R280). -/
inductive StitchKind where
  | compute | write | update | row | verify | burnish | save
  deriving DecidableEq, Repr

/-- A running stitch (R248, R251): its number, bank and kind, the column reads and writes and row
primitives that it performs, its column cycles, the format events that its end adds (R88), and the
tick at which it started. -/
structure Stitch where
  num : Nat
  bank : Nat
  kind : StitchKind
  cols : Nat
  prims : Nat
  cycles : Nat
  ev : NumEv
  start : Nat
  /-- The translations of its row groups or pages: virtual base, size and entry (R401). -/
  used : List (Nat × Nat × Nat)
  deriving DecidableEq, Repr

/-- State of a sequence record (R255, R270 to R272). -/
inductive SeqSt where
  | waiting
  | running
  /-- Saved in save slot `k` and waiting to be restored. -/
  | saved (k : Nat)
  /-- Stopped on a translation fault at stitch `s`; `k` is its save slot, none while its state
  stays on the chain. -/
  | faulted (s : Nat) (k : Option Nat) (resolved : Bool)
  deriving DecidableEq, Repr

/-- A sequence: the part of one NB command that falls on one pseudo-channel (R255), target `t` of
`nt`. `launch`, `item`, `cmdPc` and `pos` name the command, `tag` is its sequence tag with ITER 0
(R287). `ops` holds the target's local operands and `opsBad` the offsets of its poisoned words;
`outs` the translations of the result area, as virtual base, size and entry, the entry 0 where an invalidation has dropped
it (R401). `next` is the lowest
stitch not yet started; `halves` counts the broadcasts made and `units` the drained units passed;
`pages` the page-list entries read (R355). `stop` says that no further stitch starts, and `err` is
the error that this sequence met, 0 for none. A system burnish (`sys`) has rows in `prm`. -/
structure NbSeq where
  id : Nat
  sys : Bool
  span : Nat
  core : Nat
  ctx : Nat
  prio : Nat
  part : Nat
  t : Nat
  nt : Nat
  launch : Nat
  item : Nat
  cmdPc : Nat
  pos : Nat
  tag : Nat
  w0 : Nat
  w1 : Nat
  w2 : Nat
  w3 : Nat
  prm : List Nat
  ops : List Byte
  opsBad : List Nat
  outs : List (Nat × Nat × Nat)
  next : Nat
  running : List Stitch
  st : SeqSt
  since : Nat
  halves : Nat
  units : Nat
  pages : List (Nat × Nat)
  oobI : Nat
  stop : Bool
  err : Nat
  /-- Device quarter of the block that each 16 KiB page read so far lies in (R212, R347). -/
  quarts : List (Nat × Nat)
  /-- Groups of 64 index positions read so far (R291). -/
  groups : Nat
  /-- What the value stitches of an unfinished attention block have read, by bank, entry and page row (R306). -/
  kept : List ((Nat × Nat × Nat) × List Byte)
  /-- Broadcasts whose invalid scales are counted (R62, R88). -/
  counted : Nat
  /-- Which results of unfinished units arise from NaN operands (bit 0) or infinite ones (bit 1), by bank and place
  (R75). -/
  taint : List ((Nat × Nat) × Nat)
  /-- Invalid scales of broadcasts, by number, that the end of the next stitch that needs them will count (R88). -/
  castEv : List (Nat × Nat)
  deriving DecidableEq, Repr

/-- The state of one lane unit that a sequence owns (R239, R241): the staging SRAM as cells, operand
registers and accumulators by number, sequence control, and the marks of poisoned accumulators. -/
structure Blu where
  staging : List Host.Cell
  ors : List (Nat × Nat)
  acs : List (Nat × Nat)
  ctl : Nat
  poisoned : List Nat
  deriving DecidableEq, Repr

/-- Zeroed lane-unit state (R241). -/
def zeroBlu : Blu := ⟨[], [], [], 0, []⟩

/-- One pseudo-channel controller (R27, R216 to R238, R255 to R271), beside its registers. -/
structure Pcc where
  reqs : List PReq
  openRows : List (Nat × Nat)
  red : List RedLine
  staged : List Staged
  replay : List ReplayCmd
  recovering : Bool
  retrainAt : Nat
  failed : Bool
  /-- Owed refresh count (R222), and the tick of the next tREFI boundary. -/
  owed : Int
  nextRefi : Nat
  /-- Tokens of each partition bucket and of the express bucket, in 0.01 column (R224, R226). -/
  tokens : List (Nat × Int)
  expTok : Int
  /-- A band whose timing waits for the next refresh command (R220). -/
  bandNew : Option Nat
  seqs : List NbSeq
  /-- Unsealed-row table, oldest entry first: bank, row, mask of stale columns (R265). -/
  unsealed : List (Nat × Nat × Nat)
  /-- Banks whose event record reports consumed poison, not yet read (R276). -/
  events : List Nat
  /-- Banks that consumed poison once, for the retirement rule of R277. -/
  poisonBanks : List Nat
  /-- Columns logged as uncorrectable, newest first, at most 256 (R530). -/
  logged : List Nat
  /-- Row the patrol scrub reads next (R537). -/
  scrubRow : Nat
  /-- Rows a running spare copy must copy again (R315), and the tick at which the copy began. -/
  copyAgain : List Nat
  copyAt : Nat
  /-- Corrected reads of each bank's lane unit, not yet collected (R275). -/
  corr : List (Nat × Nat)
  /-- A refresh is due at the next stitch boundary (R222, R258). -/
  due : Bool
  /-- Tick from which the token buckets are filled once more (R224). -/
  refillAt : Nat
  /-- A system burnish waits for a free sequence record (R255, R269). -/
  burnWait : Bool
  /-- Tick from which the interval before the next row of the scrub runs (R537). -/
  scrubTick : Nat
  deriving DecidableEq, Repr

/-- A controller at reset. -/
def newPcc : Pcc :=
  ⟨[], [], [], [], [], false, 0, false, 0, 3900, [], 0, none, [], [], [], [], [], 0, [], 0, [], false, 1000, false, 0⟩

/-- A hazard record of an issued, incomplete NB command (R290): the command by its launch and
address, and its read and write spans. -/
structure NbHaz where
  launch : Nat
  pc : Nat
  reads : List (Nat × Nat)
  writes : List (Nat × Nat)
  deriving DecidableEq, Repr
/-! ### Error log, buckets and isolation (15_errors_ecc_and_journal.md) -/

/-- An error-log entry (R543). -/
structure ElogEntry where
  seq : Nat
  cls : Nat
  nested : Bool
  spec : Bool
  handled : Bool
  first : Bool
  tick : Nat
  span : Nat
  unit : Nat
  index : Nat
  bank : Nat
  addr : Nat
  syndrome : Nat
  symbol : Nat
  va : Bool
  ctx : Nat
  code : Nat
  cmdVa : Nat
  deriving DecidableEq, Repr

/-- A resource with a leaky bucket (R533): a pseudo-channel, a tile-cache slice, a core's local
memory, or the span's context store and schedule banks; by SERR.BKT_SEL class and index. -/
structure Bucket where
  level : Nat
  overflows : Nat
  /-- Tick up to which leaks have been taken. -/
  leakAt : Nat
  deriving DecidableEq, Repr

/-! ### Manufacture (00_scope.md) -/

/-- The fuses (R4, R5): whether the part is an EHW-8096-S, and the absent core of each span by
grade (16 for none). -/
structure Fuses where
  gradeS : Bool
  absentCore : List Nat
  deriving DecidableEq, Repr

/-! ### Work items and host records (14, 15) -/

/-- The commit record of an item under way (R553, R554). -/
structure Commit where
  /-- Controllers that hold entries of the item and whose rounds are not all recorded done. -/
  ctls : List Nat
  /-- Pre-value log of the round under way: a line, its bytes and its poisoned columns. -/
  log : List (Nat × (List Byte × Nat))
  /-- Lines of the round that have not been settled. -/
  todo : List Nat
  /-- Entries that the round has applied, kept until it is recorded done. -/
  kept : List Staged
  /-- Staged signals without an applied mark. -/
  signals : List Signal
  /-- Rings with held descriptors that have not all been released. -/
  rings : List Nat
  /-- Whether the completion record has been written at its reserved index. -/
  stored : Bool
  deriving DecidableEq, Repr

/-- A work item (R546): its source, launches with the cores they go to, outcome, checkpoint and
staged signals. `left` counts launches not yet completed;
`code` to `addr` are the error that ends it; `held` says what it waits for before a replay: 0 nothing, 1 a rebind
after a failed port (R506), and `n + 2` the restore of the 4 KiB page `n` (R542); `fails` counts its replays. -/
structure Item where
  id : Nat
  src : LaunchSrc
  journaled : Bool
  user : Nat
  ctx : Nat
  launches : List Delivery
  left : Nat
  code : Nat
  engine : Nat
  core : Nat
  span : Nat
  addr : Nat
  /-- Tallies 0 to 63 at the start, by core number, and ring HEADs by (span, ring) (R546). -/
  ckptTallies : List (Nat × List (Nat × Nat))
  ckptHeads : List ((Nat × Nat) × Nat)
  /-- Staged signals (R548). -/
  signals : List Signal
  held : Nat
  replay : Bool
  fails : Nat
  /-- Tick at which the last launch completed (R446). -/
  endTick : Nat
  /-- The commit under way, where one has begun (R553). -/
  commit : Option Commit
  deriving DecidableEq, Repr

/-- A completion record that waits to be written (R502, R503). -/
structure CqRec where
  fn : Nat
  ring : Nat
  w0 : Nat
  w1 : Nat
  w2 : Nat
  /-- Word 3 without PHASE. -/
  w3 : Nat
  /-- Context of the item, for a rebind (R506); 0 for a record without one. -/
  ctx : Nat
  /-- Item whose commit has reserved this place and not yet written the record (R553), 0 for none. -/
  item : Nat
  deriving DecidableEq, Repr

/-- A progress token of the mailbox (R511): its function, final status and result once available,
and the tick from which it expires. -/
structure Token where
  token : Nat
  fn : Nat
  result : Option (Nat × List Nat)
  at_ : Nat
  deriving DecidableEq, Repr

/-- A received remote packet key that is kept until its window ends (R557). -/
structure Receipt where
  pkg : Nat
  ring : Nat
  dseq : Nat
  off : Nat
  at_ : Nat
  deriving DecidableEq, Repr

/-! ### The cyclic schedule and serving (12) -/

/-- A schedule entry (R416). `stopped` marks one that no longer fires, `stopNext` one that fires no more from the next
frame on (R421, R422). -/
structure SEntry where
  start : Nat
  budget : Nat
  phase : Nat
  kind : Nat
  epochw : Bool
  kernel : Nat
  coreMask : Nat
  ctx : Nat
  seedVal : Nat
  seedMask : Nat
  bind : Nat
  stopped : Bool
  stopNext : Bool
  deriving DecidableEq, Repr

/-- The schedule unit of a span: its active and inactive banks, the firings deferred (entry, due
work frame, due frame start) in due order, and the entries already dealt with in this frame. -/
structure SpanSched where
  active : List SEntry
  inactive : List SEntry
  deferred : List (Nat × Nat × Nat)
  seen : List Nat
  deriving DecidableEq, Repr

/-- A schedule unit with no table. -/
def emptySched : SpanSched := ⟨[], [], [], []⟩

/-- A model (R443, R509): EPOCH_HOLD, its two buffers, the current epoch, the tick of its
publication, and whether the next epoch's buffer is being written. -/
structure Model where
  hold : Nat
  buf0 : Nat
  buf1 : Nat
  epoch : Nat
  pubTick : Nat
  deriving DecidableEq, Repr

/-- An adapter (R444): current generation, 0 for none, the last generation made, and the
descriptor address of each generation still held. -/
structure Adapter where
  cur : Nat
  last : Nat
  gens : List (Nat × Nat)
  deriving DecidableEq, Repr

/-- A cached prefix (R445): function that received the handle, model, epoch, adapter and generation,
tokens, pages, and whether the client has released it while sequences still reference it. Prefixes are
kept oldest first (R374). -/
structure CachedPrefix where
  fn : Nat
  model : Nat
  epoch : Nat
  adapter : Nat
  gen : Nat
  tokens : Nat
  pages : List Nat
  leaving : Bool
  deriving DecidableEq, Repr

/-- A KV page mapped in one pool of a model (R347, R373): pool, page number, and the device address of each of its
pieces, which are blocks of 64 KiB or one quarter of a block. -/
structure KvBlock where
  model : Nat
  pool : Nat
  page : Nat
  das : List Nat
  deriving DecidableEq, Repr

/-- The host copy of a swapped page of one pool (R375): its place in the swap area, its bytes, and its poisoned
columns. -/
structure KvCopy where
  model : Nat
  pool : Nat
  page : Nat
  at_ : Nat
  data : List Byte
  bad : List Nat
  deriving DecidableEq, Repr

/-- States of a request (R436) with the KV states of a pre-empted one (R375, R377). -/
inductive ReqSt where
  | queued | prompt | ready | generating
  deriving DecidableEq, Repr

/-- KV states of a sequence (R375 to R377). -/
inductive KvSt where
  | resident | swappingOut | swapped | swappingIn
  deriving DecidableEq, Repr

/-- A request (R435, R436, R446): its descriptor's fields, its pinned epoch and adapter generation,
its acceptance order, tokens so far, and the KV pages of its sequence with the shared ones. -/
structure Req where
  idx : Nat
  fn : Nat
  ring : Nat
  seq : Nat
  tag : Nat
  model : Nat
  adapter : Nat
  gen : Nat
  epoch : Nat
  handle : Nat
  prio : Nat
  stopLate : Bool
  keep : Bool
  maxNew : Nat
  deadline : Option Nat
  prompt : Nat
  promptLen : Nat
  out : Nat
  sample : Nat
  st : ReqSt
  kv : KvSt
  /-- The copy to or from the host has been started. -/
  copied : Bool
  /-- Prompt tokens done, tokens of the sequence, tokens generated. -/
  fed : Nat
  len : Nat
  made : Nat
  late : Bool
  cancel : Bool
  /-- Page numbers by global page index, and those of them that are shared with a prefix. -/
  pages : List Nat
  shared : List Nat
  /-- Groups in which it has made a step (R438), and the tick at which it entered generation. -/
  grps : List Nat
  entered : Nat
  /-- Group and batch slot held, if any. -/
  slot : Option (Nat × Nat)
  /-- Handle of its prefix, to be returned with its next token, 0 for none (R445), and the system item that copies its
  pages, 0 for none (R375, R377). -/
  give : Nat
  job : Nat
  deriving DecidableEq, Repr

/-- A serving group (R438, R443). `armedFor` is the work frame its step area was prepared for. -/
structure Group where
  gen : Bool
  model : Nat
  batch : Nat
  chunk : Nat
  area : Nat
  epoch : Nat
  /-- Requests in the step or chunks that were prepared last: batch slot, table index, chunk tokens, and
  whether FIRST (generation) or FINAL (prompts) is set. -/
  step : List (Nat × Nat × Nat × Bool)
  armedFor : Nat
  /-- Firings of the step: entries armed for it that have not fired, by span and index, and those that have, with the tick
  at which each was due (R440). -/
  wait : List (Nat × Nat)
  fired : List (Nat × Nat × Nat)
  /-- A firing of the step was dropped before it launched; a work item of it ended with an error (R437); and the tick at
  which its last launch so far completed (R446). -/
  notRun : Bool
  err : Bool
  ended : Nat
  deriving DecidableEq, Repr

/-- The frame clock and schedule units (12). -/
structure SchedSt where
  spans : List (Nat × SpanSched)
  /-- Tick of cadence frame 0 (R414), as an integer that may precede power-good. -/
  t0 : Int
  stopReq : Bool
  overflow : Bool
  /-- Cadence frame last counted in FRAME.LOST. -/
  lostAt : Option Nat
  /-- Spans whose active table has lost entries, which Fenivar reports to the rein holder (R421, R422). -/
  degraded : List Nat
  /-- Duty required by the allocator (R433), and by the cluster's beats with its boundary (R481). -/
  allocDuty : Nat
  clusterDuty : Nat
  dutyNext : Nat
  boundary : Nat
  /-- Boundary applied last (R481). -/
  boundaryDone : Option Nat
  /-- Number of the next cadence frame to begin, and of the next work frame (R414, R419, R427). -/
  nextK : Nat
  nextWork : Nat
  /-- Firings that have been counted as dropped, and those counted as overrun, by span, entry and the tick at which each
  was due: a firing counts once, on however many cores it launched (R426, R655). -/
  dropped : List (Nat × Nat × Nat)
  overran : List (Nat × Nat × Nat)
  /-- Launches with a smaller serial belong to tables that are no longer active (R419). -/
  serial0 : Nat
  deriving DecidableEq, Repr

/-- Serving (12, 10). -/
structure ServeSt where
  models : List (Nat × Model)
  groups : List (Nat × Group)
  adapters : List (Nat × Adapter)
  prefixes : List (Nat × CachedPrefix)
  /-- KV pages mapped in the pools, and the host copies of swapped ones (R347, R375). -/
  blocks : List KvBlock
  copies : List KvCopy
  reqs : List Req
  deriving DecidableEq, Repr

/-! ### Zaskel links (13) -/

/-- A packet as its 16-byte units, the header first (R470). -/
abbrev Pkt := List Nat

/-- A numbered flit in the replay buffer: FSEQ, its units, whether unit 0 starts a KEY packet, the NAKs it has received,
and the class and number of the credits that it returns (R459). -/
structure TxFlit where
  fseq : Nat
  units : List Nat
  keyFirst : Bool
  naks : Nat
  cls : Nat
  count : Nat
  deriving DecidableEq, Repr

/-- A Zaskel port (R453 to R461). Classes with their channels are numbered 0 CTL, 1 and 2 SIG on VC0 and
VC1, 3 and 4 RED, 5 and 6 WR. -/
structure ZlPort where
  /-- Tick at which the present state was entered. -/
  since : Nat
  /-- Credits held towards the partner, and the tick since which each class has held none (R458, R461). -/
  credits : List Nat
  zeroAt : List (Option Nat)
  /-- KEY packets and other packets that wait to be sent; the packet being sent with its unsent units; and
  whether WR goes before RED at the next choice (R458). -/
  keyq : List Pkt
  txq : List Pkt
  cur : Option (Pkt × List Nat)
  wrTurn : Bool
  /-- Next FSEQ, the replay buffer, how many of its newest flits are to be sent again, and the packets sent
  and not acknowledged with the FSEQ of their last unit (R459, R482). -/
  nextFseq : Nat
  replay : List TxFlit
  resend : Nat
  sent : List (Nat × Pkt)
  /-- Receiver: FSEQ expected, a NAK to be sent, units of a packet not yet complete, packets received with
  their arrival tick, and credits to be returned by class. -/
  rxFseq : Nat
  nakPend : Bool
  partUnits : List Nat
  partAt : Nat
  rx : List (Nat × Pkt)
  give : List Nat
  /-- Ticks of the retrains of the last second (R453). -/
  retrains : List Nat
  /-- A delay measurement has completed since the port became ACTIVE (R454). -/
  delayOk : Bool
  /-- Header and units of the last flit that left the port. -/
  wire : List Nat
  /-- Credits, by class, of packets received in an earlier exchange of flits, which are not returned (R458). -/
  kept : List Nat
  /-- In RETRAIN: ALIGN has been repeated, and the partner's NEG has been settled (R453). -/
  aligned : Bool
  agreed : Bool
  deriving DecidableEq, Repr

/-- A port without traffic. -/
def newZlPort : ZlPort :=
  ⟨0, [0, 0, 0, 0, 0, 0, 0], [none, none, none, none, none, none, none], [], [], none, false, 0, [], 0, [], 0, false,
    [], 0, [], [0, 0, 0, 0, 0, 0, 0], [], false, [], [0, 0, 0, 0, 0, 0, 0], false, false⟩

/-- A send descriptor in flight (R466, R467): its words, whether its packets have been handed over,
whether a commit has released it (R553), the journaled item that posted it, 0 for none, and whether it was discarded with
that item. -/
structure SendDesc where
  words : List Nat
  started : Bool
  released : Bool
  item : Nat
  gone : Bool
  deriving DecidableEq, Repr

/-- Links and the cluster (13). -/
structure LinkSt where
  ports : List (Nat × ZlPort)
  /-- Ports retired after manufacture (R483). -/
  gone : List Nat
  /-- Descriptors in flight of each ring id, in ring order. -/
  rings : List (Nat × List SendDesc)
  /-- Window entries held by the ports, and the invalidation in progress: an entry, or none for all. -/
  wins : List (Nat × List Nat)
  inval : Option (Option Nat)
  /-- Port last used towards each destination package (R461). -/
  turn : List (Nat × Nat)
  /-- Tick of the last beat from the active parent, consecutive beats within 20 ns, the tick at which
  holdover began while it lasts, and the duties that children report (R478 to R481). -/
  beatAt : Nat
  close : Nat
  holdAt : Option Nat
  childDuty : List (Nat × Nat)
  /-- Rings and SEQs of descriptors of committed items whose packets a port failure has dropped, until they have been
  posted again (R557). -/
  lost : List (Nat × Nat)
  deriving DecidableEq, Repr

/-! ### The package: absent units, start-up, power and interrupts (01, 16 to 19) -/

/-! #### Power and thermal control (16) -/

/-- A temperature sensor (R565, R567): last valid reading in units of 0.125 °C, consecutive discards, FAILED,
and its valid readings of the last 1,000,000 ticks with the one before them, each with its tick, newest first. -/
structure Sensor where
  last : Option Int
  discards : Nat
  failed : Bool
  hist : List (Nat × Int)
  deriving DecidableEq, Repr

/-- Answers to PLDM requests (R573, R574): a value, completion, the completion code of a failed check, or the response
to a base request. -/
inductive PldmAns where
  | value (v : Int)
  | ok
  | invalidData
  | invalidId
  | notReady
  | invalidLength
  | invalidType
  | base (w : Word)
  deriving DecidableEq, Repr

/-- The learned values (R578, R581) as FP32 codes: K, N_nb and N_pier by phase tag, W and I; the duty d_th;
and the consecutive cool boundaries. -/
structure Learned where
  k : List Nat
  nb : List Nat
  pier : List Nat
  work : Nat
  idle : Nat
  dth : Nat
  cool : Nat
  deriving DecidableEq, Repr

/-- Sensors, limiters and the allocator (R564 to R583). -/
structure PowerSt where
  sensors : List (Nat × Sensor)
  /-- Thermal ceilings below 2,200 MHz by span, with the tick since which TILE_MAX has stayed below
  103.0 °C and the tick of the last rise (R568). -/
  thermCeil : List (Nat × Nat)
  coolAt : List (Nat × Nat)
  thermRise : List (Nat × Nat)
  /-- Tick since which a stack's readings have asked for a lower band (R220). -/
  bandLow : List (Nat × Nat)
  /-- The cap ceiling of every span and the tick of its last change (R572). -/
  capCeil : Nat
  capAt : Nat
  /-- Droops in force (R570): kind (0 a core, 1 a span fabric, 2 a pier supply), unit and start. -/
  droops : List (Nat × Nat × Nat)
  /-- The current limiter stretches and holds (R571). -/
  limiting : Bool
  /-- Power of the last 100 samples, newest first: dense, near-bank, pier and fabric in W (R571). -/
  samples : List (Nat × Nat × Nat × Nat)
  /-- The last accepted budget, whether the fallback is in force, and the tick of the last acceptance (R572, R574). -/
  budget : Option Nat
  fallback : Bool
  budgetAt : Nat
  /-- LIMIT as the cap limiter uses it in locked cadence, and the delayed decreases with the ticks at which they
  reach it, in order (R572). -/
  capLimit : Nat
  decs : List (Nat × Nat)
  learned : Learned
  /-- The values saved last, and the tick of that save (R582). -/
  saved : Option Learned
  savedAt : Nat
  /-- The occupancy of the last interval as FP32 codes, and the tick of the last interval (R577, R579). -/
  occ : List Nat
  allocAt : Nat
  /-- Since the last interval, summed over ticks: cores that ran a firing, by phase tag; present cores; and the clocks of
  the present cores in MHz (R434, R577, R578). -/
  occSum : List Nat
  coreSum : Nat
  mhzSum : Nat
  /-- A level-1 or level-2 action in the interval so far, and whether the last allocation was limited
  (R578, R579). -/
  acted : Bool
  limited : Bool
  /-- Near-bank and pier allocations in W as FP32 codes (R578, R579). -/
  nbAlloc : Nat
  pierAlloc : Nat
  /-- Answer to the last PLDM request (R573). -/
  pldm : Option PldmAns
  /-- Sum and number of the power samples of the frame so far (R581). -/
  frameSum : Nat
  frameN : Nat
  /-- Ticks of the last sensor sample, rate check and power sample (R565, R567, R571). -/
  sensorAt : Nat
  rateAt : Nat
  powerAt : Nat
  deriving DecidableEq, Repr

/-- The learned values at power-good (R578, R581): 0.10, 0.01, 0.72, 0.72; 40, 890, 30, 30; 60, 15, 60, 10;
3,000 W and 400 W as FP32 codes. -/
def Learned.reset : Learned :=
  ⟨[0x3DCCCCCD, 0x3C23D70A, 0x3F3851EC, 0x3F3851EC], [0x42200000, 0x445E8000, 0x41F00000, 0x41F00000],
    [0x42700000, 0x41700000, 0x42700000, 0x41200000], 0x453B8000, 0x43C80000, 16, 0⟩

/-! #### Start-up, life cycle, self-test and control cores (01, 17, 18) -/

/-- A running slice or test (R623 to R630): kind as BIST.CMD.KIND, its span, its core or port, or for a bank slice
the mask of pseudo-channels within the die, and the die and the bank of each. -/
structure BistRun where
  kind : Nat
  span : Nat
  unit : Nat
  die : Nat
  first : Nat
  deriving DecidableEq, Repr

/-- Pins, fuses of the life cycle, start-up, control cores and self-test. -/
structure BootSt where
  /-- VMGMT in tolerance, PWRGOOD and RESET_N high, and the ports whose PERSTn_N is asserted (R591, R593). -/
  vmgmt : Bool
  pwrgood : Bool
  resetN : Bool
  perst : List Nat
  /-- The RESET_N land is low, while `resetN` says that no reset is in effect (R591, R593). -/
  pinLow : Bool
  /-- Clocks gated by a rail fault or a latched shutdown; FAULT_N and THERMTRIP_N asserted (R569, R590,
  R594). -/
  gated : Bool
  faultN : Bool
  tripN : Bool
  /-- The strap lands as sampled (R598). -/
  straps : Nat
  /-- The life-cycle state in force, the service fuses blown, the transition requested with its start tick, whether
  its programming has ended so that the next FUSE stage reads it, and a package reset that waits for that end (R611
  to R613). -/
  life : Nat
  service : Nat
  program : Option (Nat × Nat)
  programmed : Bool
  resetPend : Bool
  /-- Stages that have finished side by side (R614): the image and the span tests. -/
  imageDone : Bool
  spansDone : Bool
  /-- The retirement list in the flash (R622). -/
  retList : List Nat
  /-- Failed control cores, 0 to 7 the management cores and 8 the package control core (R36, R39). -/
  coresDown : List Nat
  /-- Tick of the package control core's last heartbeat word (R36). -/
  beatAt : Nat
  /-- Start of a takeover that has not completed, and whether one has completed (R36, R37). -/
  takeover : Option Nat
  tookOver : Bool
  /-- A package fault: doorbells are no longer accepted (R39). -/
  pkgFault : Bool
  /-- Deck edges that have failed, as the lower span times 8 plus the higher (R33). -/
  edges : List Nat
  /-- PCIe ports absent by self-test (R617). -/
  portsGone : List Nat
  /-- Spare banks that failed their test, by span, die and spare (R617). -/
  sparesGone : List (Nat × Nat × Nat)
  /-- The command or slice that runs, the tick of the last periodic slice, and the next one in turn. -/
  bist : Option BistRun
  sliceAt : Nat
  sliceNext : Nat
  /-- Retirements requested for a unit under a slice, as retirement-list entries (R626). -/
  waiting : List Nat
  deriving DecidableEq, Repr

/-! #### Interrupts (19) -/

/-- States of a source (R631). -/
inductive SrcSt where
  | inactive | pending | active | activePending
  deriving DecidableEq, Repr

/-- A shared source (R633, R639): its state, priority, enable and target, and a target that waits for its
completion. -/
structure IrqShared where
  st : SrcSt
  prio : Nat
  enable : Bool
  target : Nat
  held : Option Nat
  deriving DecidableEq, Repr

/-- Interrupts (R631 to R645). -/
structure IrqSt where
  /-- Shared sources by number; one not listed is as at reset. -/
  shared : List (Nat × IrqShared)
  /-- States of private sources, by control core and source. -/
  priv : List ((Nat × Nat) × SrcSt)
  /-- Priority stacks of the control cores, top first (R635). -/
  idStacks : List (Nat × List Nat)
  /-- Control cores whose last claim took nothing, so that TOP reads 0xFFF (R636). -/
  empty : List Nat
  /-- Non-maskable interrupts taken, by control core (R638). -/
  nmi : List Nat
  /-- Control cores whose timer has fired since its last write (R641). -/
  timerFired : List Nat
  /-- MSI-X entries that the host has unmasked, those whose message is held, completion rings with records that
  no message covers yet, and the messages sent, oldest first; by function and entry (R642, R643). -/
  unmasked : List (Nat × Nat)
  heldMsg : List (Nat × Nat)
  ringDue : List (Nat × Nat)
  sent : List (Nat × Nat)
  /-- Function pages whose block interrupt was asserted when it was last looked at (R642, R645). -/
  fnAsserted : List Nat
  /-- In-band interrupts raised to the management controller, oldest first: data byte and number (R644,
  R645). -/
  inBand : List (Nat × Nat)
  deriving DecidableEq, Repr

/-- The package's own units. -/
structure PkgSt where
  /-- Spans whose fabric is absent or failed, with the cause that BLK_ID shows (R559, R617). -/
  spansGone : List (Nat × Nat)
  /-- Causes that BLK_ID shows for units absent by self-test or retired (R9, R628), by register page. -/
  causes : List (Nat × Nat)
  link : LinkSt
  power : PowerSt
  boot : BootSt
  irq : IrqSt
  deriving DecidableEq, Repr
/-! ### The state -/

/-- Engines, local memory and signals (03, 04). -/
structure CoreSt where
  /-- Resident slots, by `slotKey span core slot`; a slot not listed is empty. -/
  slots : List (Nat × Slot)
  /-- Local memory of every core in one list of cells: core number times 8 MiB plus offset. -/
  lmem : List Host.Cell
  /-- Poisoned words of local memory, by cell address divided by 8, with a mask of the bytes rewritten since (R532). -/
  lmPoison : List (Nat × Nat)
  /-- Signals performed and not yet landed (R113, R118). -/
  signals : List Signal
  /-- Issued, incomplete NB commands of each queue (R290), by core number times 4096 plus
  context. -/
  hazards : List (Nat × List NbHaz)
  /-- Launches waiting at their source, in order (R96). -/
  waiting : List Delivery
  /-- Next launch serial. -/
  nextSerial : Nat
  /-- Absent or retired cores, by core number (R5, R141), with the cause of BLK_ID. -/
  absent : List (Nat × Nat)
  deriving DecidableEq, Repr

/-- Device memory and its controllers (04, 06, 07, 15). -/
structure MemSt where
  /-- Device memory by cell address: span times 2^37 plus stack offset (R211). -/
  mem : List Host.Cell
  /-- Columns that hold the poison encoding (R531), by cell address divided by 32. -/
  poison : List Nat
  /-- Symbol errors of stored columns, by column: symbol and pattern (R529, R534). -/
  errs : List (Nat × List (Nat × Nat))
  /-- Tile-cache lines of all spans (R167). -/
  tc : List TcLine
  /-- Pseudo-channel controllers by `span * 64 + pc`; one not listed is as at reset. -/
  pccs : List (Nat × Pcc)
  /-- Lane-unit states by `(span * 64 + pc, logical bank)`. -/
  blus : List ((Nat × Nat) × Blu)
  /-- Bytes posted to host memory, oldest first (R336). -/
  host : List (HostAddr × Byte)
  /-- How many of them are older than the host's last signal, and may stand overwritten (R333). -/
  hostOld : Nat
  /-- Next sequence identifier. -/
  nextSeq : Nat
  deriving DecidableEq, Repr

/-- A row-placed region of a context (R403): its first virtual address, pseudo-channel, first device row and 64 KiB
blocks. -/
structure RowRegion where
  ctx : Nat
  va : Nat
  pc : Nat
  row : Nat
  blocks : Nat
  deriving DecidableEq, Repr

/-- Contexts, records, translation (02, 05, 11). -/
structure CtxSt where
  ctxs : List (Nat × Ctx)
  /-- Records by `(span, context)`. -/
  recs : List ((Nat × Nat) × CtxRec)
  numev : List ((Nat × Nat) × NumCnt)
  dmaev : List ((Nat × Nat) × DmaCnt)
  tlb : List TlbEntry
  tec : List TecEntry
  /-- Fault records waiting, by span, oldest first: the holding buffer is the first 64 (R406). -/
  faults : List (Nat × List FaultRec)
  /-- The invalidation in progress, with the tick at which it started (R401). -/
  xinv : Option (XinvOp × Nat)
  /-- Row-placed regions (R403). -/
  placed : List RowRegion
  deriving DecidableEq, Repr

/-- Error log and buckets (15). -/
structure ErrSt where
  elog : List ElogEntry
  /-- The next entry takes FIRST (R545). -/
  firstArmed : Bool
  /-- Buckets by (span, class, index). -/
  buckets : List ((Nat × Nat × Nat) × Bucket)
  /-- Resources isolated in hardware (R539), by (span, unit type, index, bank). -/
  isolated : List (Nat × Nat × Nat × Nat)
  /-- Retirements requested through ELOG.RETIRE, as retirement-list entries (R538, R562). -/
  asked : List Nat
  /-- Uncommitted journaled items (R549). -/
  openItems : List Nat
  deriving DecidableEq, Repr

/-- A mailbox command that has answered PROGRESS and has not ended: its function and slot, its token, and the eight words
of the command, since the slot is free again (R511). -/
structure MbLate where
  fn : Nat
  k : Nat
  token : Nat
  words : List Nat
  deriving DecidableEq, Repr

/-- Work items, completion records, mailbox and masters (14, 15). -/
structure HostSt where
  /-- Items accepted and not completed (R546), oldest first. -/
  items : List Item
  nextItem : Nat
  /-- Completion records waiting to be written, oldest first (R502). -/
  cq : List CqRec
  /-- Tick since which a completion ring has been full (R502), by function and ring. -/
  cqFull : List ((Nat × Nat) × Nat)
  /-- Submission entries read and checked but not yet accepted (R498, R499): function, ring, entry
  words. -/
  subs : List ((Nat × Nat) × List Nat)
  /-- Mailbox slots submitted, in the order of their GO writes (R507): function and slot. -/
  mb : List (Nat × Nat)
  /-- Commands that have answered PROGRESS and have not ended, in the order of their GO writes (R508, R511). -/
  late : List MbLate
  /-- Tick from which the answer times of a submitted slot run: that of its GO write, or of the end of a takeover
  (R508). -/
  mbAt : List ((Nat × Nat) × Nat)
  tokens : List Token
  nextToken : Nat
  /-- Memory Space Enable of the two PFs, and the enabled VFs of each port (R512). -/
  mse : List Nat
  vfs : List (Nat × Nat)
  /-- Whether the management controller's dynamic address is assigned (R512), and the result of its
  last transfer: status, data and the tick it was made (R516). -/
  i3cAddr : Bool
  i3cRes : Option (Nat × Nat × Nat)
  /-- Tick at which the pending handover started (R514). -/
  handoverAt : Nat
  /-- Tick of the last cancellation of a handover, with its target (R515). -/
  cancelAt : Option (Nat × Nat)
  /-- Tick since which the link of a port is down or held in PERSTn_N, by port (R490, R593). -/
  linkDown : List (Nat × Nat)
  /-- Host swap area: address, bytes, function (R375). -/
  swap : Option (Nat × Nat × Nat)
  receipts : List Receipt
  /-- Tick since which the receipt table has been full (R557). -/
  fullAt : Option Nat
  /-- The model's own countdown of host reads that still succeed while HOST_READ_ERROR takes effect; none at
  any other time. -/
  failIn : Option Nat
  /-- NB issue marks: item, core number times 4096 plus context, and position of the command
  (R555). -/
  marks : List (Nat × Nat × Nat)
  /-- Size of the aperture BAR of a port as a power of two; 36, 64 GiB, where none is listed (R491). -/
  aper : List (Nat × Nat)
  /-- The last completion of a host's read through a port (R494): 0 success, 1 success with EP, 2 Completer
  Abort, 3 Unsupported Request; and the bytes. -/
  aperRes : List (Nat × Nat × List Byte)
  /-- Ports whose Advanced Error Reporting holds an Unsupported Request (R489, R494). -/
  aerUr : List Nat
  /-- Functions in the power state D3hot; the others are in D0 (R489). -/
  d3 : List Nat
  /-- The code that the last access of a control core to be rejected without a page of its own received (R520). -/
  coreCode : Nat
  /-- Host address of the entry that a submission ring read last (R496), by function and ring. -/
  subAddr : List ((Nat × Nat) × Nat)
  deriving DecidableEq, Repr

/-- Reasons a step can fault. No rule of this hardware stops the block: every error the
specification names is a recorded outcome, so no meaning raises a fault. -/
inductive Fault where
  /-- Raised by no meaning; it keeps the type inhabited. Safe: the machine would stop. -/
  | stopped
  deriving DecidableEq, Repr

/-- Reasons a step can be refused. -/
inductive Refusal where
  /-- Raised by the dispatch for a command that has no meaning yet. Safe: the machine stops. -/
  | notModelled (mnemonic : String)
  deriving DecidableEq, Repr

/-- The whole state. -/
structure State where
  /-- The tick counter (R24), 64 bits: it wraps after 2^64 ns. -/
  tick : Nat
  /-- Register values that differ from their reset values, by register, page and element (R19). -/
  regs : List ((Reg × Nat × Nat) × Word)
  /-- Staged values of RW-S fields, whole registers (R22, R517). -/
  staged : List ((Reg × Nat × Nat) × Word)
  /-- What manufacture fused (R4, R5). -/
  fuse : Fuses
  core : CoreSt
  memo : MemSt
  cx : CtxSt
  er : ErrSt
  ho : HostSt
  sch : SchedSt
  srv : ServeSt
  pkg : PkgSt
  /-- The model's own counter of free values used so far (no part of the hardware). -/
  free : Nat
  /-- Commands waiting, first in first out. -/
  pending : List Instr
  deriving DecidableEq, Repr

/-- The fuses of the part modelled at reset: the full grade, no core absent. -/
def Fuses.reset : Fuses := ⟨false, [16, 16, 16, 16, 16, 16, 16, 16]⟩

/-- Engines at reset: no slot occupied, local memory zero. -/
def CoreSt.reset : CoreSt := ⟨[], [], [], [], [], [], 1, []⟩

/-- Memory at reset: nothing listed; every byte reads zero (R618). -/
def MemSt.reset : MemSt := ⟨[], [], [], [], [], [], [], 0, 1⟩

/-- Contexts at reset: none. -/
def CtxSt.reset : CtxSt := ⟨[], [], [], [], [], [], [], none, []⟩

/-- Errors at reset: an empty log whose next entry takes FIRST (R545). -/
def ErrSt.reset : ErrSt := ⟨[], true, [], [], [], []⟩

/-- Host side at reset: nothing accepted, no master eligible. -/
def HostSt.reset : HostSt :=
  ⟨[], 1, [], [], [], [], [], [], [], 1, [], [], false, none, 0, none, [(0, 0), (1, 0)], none, [], none, none, [], [], [], [], [], 0, []⟩

/-- Schedule at reset: the clock stopped, no table, full duty (R448). -/
def SchedSt.reset : SchedSt := ⟨[], 0, false, false, none, [], 16, 16, 16, 0, none, 0, 0, [], [], 0⟩

/-- Serving at reset: nothing configured. -/
def ServeSt.reset : ServeSt := ⟨[], [], [], [], [], [], []⟩

/-- Links at reset: every port DISABLED. -/
def LinkSt.reset : LinkSt := ⟨[], [], [], [], none, [], 0, 0, none, [], []⟩

/-- Power at power-good: no sensor read, no budget accepted, ceilings at 2,200 MHz. -/
def PowerSt.reset : PowerSt :=
  ⟨[], [], [], [], [], 2200, 0, [], false, [], none, false, 0, 3000, [], .reset, none, 0, [0, 0, 0, 0], 0, [0, 0, 0, 0],
    0, 0, false,
    false, 0x44610000, 0x43FA0000, none, 0, 0, 0, 0, 0⟩

/-- Right after power-good: PWRGOOD and RESET_N high, PERSTn_N low, the FUSE stage running. -/
def BootSt.reset : BootSt :=
  ⟨true, true, true, [0, 1], false, false, false, false, 0x024, 2, 0, none, false, false, false, false, [], [], 0, none, false,
    false, [], [], [], none, 0, 0, []⟩

/-- Interrupts at reset: every source inactive, every MSI-X entry masked. -/
def IrqSt.reset : IrqSt := ⟨[], [], [], [], [], [], [], [], [], [], [], []⟩

/-- The package's own units at reset. -/
def PkgSt.reset : PkgSt := ⟨[], [], .reset, .reset, .reset, .reset⟩

/-- The package right after power-good with RESET_N high. -/
def State.reset : State := ⟨0, [], [], .reset, .reset, .reset, .reset, .reset, .reset, .reset, .reset, .reset, 0, []⟩

end Sys2Proof.Machine
end

