-- ==== Sys2Proof/Machine/Ops.lean ====
section
/-!
DEFINITION. The shared operations: unit numbers and page numbers, register fields, block errors and
interrupt sources, the error log, free values, slots and queues, credits, and signals.
-/
namespace Sys2Proof.Machine

/-! ### Unit and page numbers (R522) -/

/-- Package-wide number of a core. -/
def coreNo (span core : Nat) : Nat := span * 16 + core

/-- Package-wide number of a resident slot. -/
def slotKey (span core slot : Nat) : Nat := coreNo span core * 4 + slot

/-- Package-wide number of a pseudo-channel. -/
def pcNo (span pc : Nat) : Nat := span * 64 + pc

/-- PKG_ID page. -/
def pgPkgId : Nat := 0
/-- OWN page. -/
def pgOwn : Nat := 1
/-- HIF page of a port. -/
def pgHif (p : Nat) : Nat := 2 + p
/-- FRAME page. -/
def pgFrame : Nat := 4
/-- XINV page. -/
def pgXinv : Nat := 5
/-- ZROUTE page. -/
def pgZroute : Nat := 6
/-- ZWIN page. -/
def pgZwin : Nat := 7
/-- ZSYNC page. -/
def pgZsync : Nat := 8
/-- ZL page of a port. -/
def pgZl (p : Nat) : Nat := 16 + p
/-- PWR page. -/
def pgPwr : Nat := 32
/-- THERM page. -/
def pgTherm : Nat := 33
/-- JRNL page. -/
def pgJrnl : Nat := 34
/-- ELOG page. -/
def pgElog : Nat := 35
/-- BIST page. -/
def pgBist : Nat := 36
/-- LCS page. -/
def pgLcs : Nat := 37
/-- TIME page. -/
def pgTime : Nat := 38
/-- IRQ page. -/
def pgIrq : Nat := 39
/-- IRQP page of a control core. -/
def pgIrqp (i : Nat) : Nat := 40 + i
/-- Page `n` of a span. -/
def pgSpan (span n : Nat) : Nat := 4096 * (span + 1) + n
/-- TC page of a span. -/
def pgTc (span : Nat) : Nat := pgSpan span 0
/-- NUMEV page of a span. -/
def pgNumev (span : Nat) : Nat := pgSpan span 1
/-- DMAEV page of a span. -/
def pgDmaev (span : Nat) : Nat := pgSpan span 2
/-- STK page of a span. -/
def pgStk (span : Nat) : Nat := pgSpan span 3
/-- CTXS page of a span. -/
def pgCtxs (span : Nat) : Nat := pgSpan span 4
/-- XLT page of a span. -/
def pgXlt (span : Nat) : Nat := pgSpan span 5
/-- SCHED page of a span. -/
def pgSched (span : Nat) : Nat := pgSpan span 6
/-- ZRING page of a span. -/
def pgZring (span : Nat) : Nat := pgSpan span 7
/-- SERR page of a span. -/
def pgSerr (span : Nat) : Nat := pgSpan span 8
/-- CQ page of a core. -/
def pgCq (span core : Nat) : Nat := pgSpan span (64 + 4 * core)
/-- TLY page of a core. -/
def pgTly (span core : Nat) : Nat := pgSpan span (65 + 4 * core)
/-- LMX page of a core. -/
def pgLmx (span core : Nat) : Nat := pgSpan span (66 + 4 * core)
/-- LDST page of a core. -/
def pgLdst (span core : Nat) : Nat := pgSpan span (67 + 4 * core)
/-- PCC page of a pseudo-channel. -/
def pgPcc (span pc : Nat) : Nat := pgSpan span (128 + pc)
/-- BLU page of a physical bank of a pseudo-channel. -/
def pgBlu (span pc bank : Nat) : Nat := pgSpan span (1024 + 32 * pc + bank)
/-- BLU page of a spare bank of a die. -/
def pgBluSpare (span die spare : Nat) : Nat := pgSpan span (3072 + 4 * die + spare)
/-- FN page of function `f`, numbered 64 times its port plus its number there. -/
def pgFn (f : Nat) : Nat := 0x100000 + 16 * f

/-! ### Register fields -/

/-- A register's whole value. -/
def rdR (s : State) (r : Reg) (pg k : Nat) : Nat :=
  (look s.regs (r, pg, k) (BitVec.ofNat 64 (regReset r))).toNat

/-- A register's whole value replaced. -/
def wrR (s : State) (r : Reg) (pg k v : Nat) : State :=
  { s with regs := put s.regs (r, pg, k) (BitVec.ofNat 64 v) }

/-- The value of a field. -/
def getF (s : State) (f : RField) (pg : Nat) (k : Nat := 0) : Nat := bits (rdR s f.reg pg k) f.lo f.w

/-- A field replaced, modulo its width; the register's other bits are unchanged. -/
def setF (s : State) (f : RField) (pg : Nat) (v : Nat) (k : Nat := 0) : State :=
  wrR s f.reg pg k (setBits (rdR s f.reg pg k) f.lo f.w v)

/-- A one-bit field as a truth value. -/
def getB (s : State) (f : RField) (pg : Nat) (k : Nat := 0) : Bool := getF s f pg k == 1

/-- A truth value written to a one-bit field. -/
def setB (s : State) (f : RField) (pg : Nat) (b : Bool) (k : Nat := 0) : State :=
  setF s f pg (if b then 1 else 0) k

/-- A counter that wraps at its width. -/
def bumpF (s : State) (f : RField) (pg : Nat) (n : Nat := 1) (k : Nat := 0) : State :=
  setF s f pg (getF s f pg k + n) k

/-- A counter that stops at its largest value. -/
def bumpSat (s : State) (f : RField) (pg : Nat) (n : Nat := 1) (k : Nat := 0) : State :=
  setF s f pg (min (getF s f pg k + n) (2 ^ f.w - 1)) k

/-- A field set back to its reset value. -/
def clrF (s : State) (f : RField) (pg : Nat) (k : Nat := 0) : State := setF s f pg f.rst k

/-- A bit of a field set. -/
def setBitF (s : State) (f : RField) (pg i : Nat) (k : Nat := 0) : State :=
  setF s f pg (getF s f pg k ||| 2 ^ i) k

/-- A bit of a field cleared. -/
def clrBitF (s : State) (f : RField) (pg i : Nat) (k : Nat := 0) : State :=
  setF s f pg (setBits (getF s f pg k) i 1 0) k

/-- Bits of a register that are staged (R22). -/
def stagedMask : Reg → Nat
  | .pccExpress => 0xFFFF000FFF
  | .pccPart => 0x3FFFF000FFF
  | .pccNbCfg => 0xFF001F
  | .frameIdle => 0x1F
  | _ => 0

/-- Whether a page has staged values (R517). -/
def hasStaged (s : State) (pg : Nat) : Bool := s.staged.any (fun e => e.1.2.1 == pg)

/-- Every staged field of a page takes effect in one step, if a commit is pending (R518). -/
def commitPage (s : State) (pg : Nat) : State :=
  if getB s fBlkStatusCommitPend pg then
    let mine := s.staged.filter (fun e => e.1.2.1 == pg)
    let s1 := mine.foldl (fun acc e =>
      let old := rdR acc e.1.1 pg e.1.2.2
      let m := stagedMask e.1.1
      wrR acc e.1.1 pg e.1.2.2 (old - (old &&& m) + (e.2.toNat &&& m))) s
    setB { s1 with staged := s1.staged.filter (fun e => e.1.2.1 ≠ pg) } fBlkStatusCommitPend pg false
  else s

/-! ### Common header (R517, R520) -/

/-- An error recorded in a page's BLK_ERR: its bit, the count, and the first one (R517). -/
def blkErr (s : State) (pg bit : Nat) : State :=
  let acc := getF s fBlkErrAcc pg
  let cnt := if acc = 0 then 1 else min (getF s fBlkErrCount pg + 1) 65535
  let s1 := setF (setF s fBlkErrAcc pg (acc ||| 2 ^ bit)) fBlkErrCount pg cnt
  if getB s fBlkErrFirstValid pg then s1
  else setB (setF s1 fBlkErrFirst pg bit) fBlkErrFirstValid pg true

/-- Interrupt source `bit` (1 to 31) of a page becomes pending in BLK_IRQ_PEND. -/
def irqSrc (s : State) (pg bit : Nat) : State := setBitF s fBlkIrqPendSrc pg (bit - 1)

/-- Whether a page's block interrupt is asserted: (PEND AND EN) is not zero, where PEND bit 0 is 1
while (ACC AND NOT MASK) is not zero (R517). -/
def blkIrqPend (s : State) (pg : Nat) : Nat :=
  getF s fBlkIrqPendSrc pg * 2
    + (if getF s fBlkErrAcc pg &&& (2 ^ 32 - 1 - getF s fBlkErrMaskMask pg) = 0 then 0 else 1)

/-- The block interrupt line of a page. -/
def blkIrq (s : State) (pg : Nat) : Bool := blkIrqPend s pg &&& getF s fBlkIrqEnEn pg != 0

/-- Rejection codes of BLK_WSTAT (R517). -/
inductive Rej where
  | quiesce | absent | notHolder | range | width | busy | permission | held
  deriving DecidableEq, Repr

/-- Code of a rejection. -/
def rejCode : Rej → Nat
  | .quiesce => 1 | .absent => 2 | .notHolder => 3 | .range => 4
  | .width => 5 | .busy => 6 | .permission => 7 | .held => 8

/-- A rejected write recorded in a page: BLK_WSTAT takes code, offset, field and master, and BLK_ERR
bit 0 is recorded (R520). Master 4 stands for a control core. -/
def reject (s : State) (pg : Nat) (c : Rej) (master off lsb : Nat) : State :=
  let cnt := if getB s fBlkWstatValid pg then min (getF s fBlkWstatCount pg + 1) 65535 else 1
  let s1 := setF (setF s fBlkWstatCode pg (rejCode c)) fBlkWstatOffset pg (off / 8)
  let s2 := setF (setF s1 fBlkWstatFieldLsb pg lsb) fBlkWstatMaster pg master
  blkErr (setB (setF s2 fBlkWstatCount pg cnt) fBlkWstatValid pg true) pg 0

/-- Whether a master may write the register window: the rein holder or a control core (R513). -/
def mayWrite (s : State) (m : Nat) : Bool := m == 4 || (decide (m < 4) && getF s fOwnReinClaimHolder pgOwn == m)

/-- A rejection that its own page cannot record (R520): in HIF of the writer's port, or in OWN; a
control core receives the code with its access. -/
def rejectPath (s : State) (c : Rej) (m off lsb : Nat) : State :=
  match m with
  | 0 => reject s (pgHif 0) c m off lsb
  | 1 => reject s (pgHif 1) c m off lsb
  | 2 => reject s pgOwn c m off lsb
  | 3 => reject s pgOwn c m off lsb
  | _ => { s with ho := { s.ho with coreCode := rejCode c } }

/-- Whether the package's clocks run: the rails and PWRGOOD are up, RESET_N is high and nothing gates them
(R569, R590, R592, R593). -/
def running (s : State) : Bool :=
  s.pkg.boot.vmgmt && s.pkg.boot.pwrgood && s.pkg.boot.resetN && !s.pkg.boot.gated

/-- Whether the management island runs: on its standby rail with power-good, out of package reset (R36, R592,
R593). -/
def islandRuns (s : State) : Bool := s.pkg.boot.vmgmt && s.pkg.boot.pwrgood && s.pkg.boot.resetN

/-- An event of a clocked unit: it comes about only while the clocks run. -/
def clocked (s t : State) : State := if running s then t else s

/-- The start-up stage (R614): 0 FUSE, 1 ROM_TEST, 2 IMAGE, 3 SPAN_TEST, 4 FW_INIT, 5 READY, 6 FAILED,
7 HALTED. -/
def stage (s : State) : Nat := getF s fLcsStatusStage pgLcs

/-- Why a write of a page by a master is turned away whatever it carries (R513, R610, R615, R619): after a
halted or failed start-up, before READY but for the OWN page, or for want of the reins. -/
def writeGate (s : State) (pg m : Nat) : Option Rej :=
  if stage s ≥ 6 then some .permission
  else if stage s < 5 && m ≠ 4 && pg ≠ pgOwn then some .busy
  else if !mayWrite s m then some .notHolder
  else none

/-- Whether a span has no fabric (R559, R617). -/
def spanDown (s : State) (span : Nat) : Bool := has s.pkg.spansGone span

/-- Whether a page lies on a span whose fabric is absent (R140, R559). -/
def pageSpanDown (s : State) (pg : Nat) : Bool := decide (4096 ≤ pg && pg < 36864) && spanDown s (pg / 4096 - 1)

/-- A write's effect, unless it is turned away: for an absent span, on the writer's path (R140, R520), and else
in the page (R513, R615). No field causes such a rejection, so FIELD_LSB is 0. -/
def guarded (s : State) (pg m off : Nat) (eff : State) : State :=
  if pageSpanDown s pg then rejectPath s .absent m off 0
  else match writeGate s pg m with
    | some c => reject s pg c m off 0
    | none => eff

/-- One tick of 1 ns: the 64-bit counter advances while power-good is asserted, and is held at zero otherwise
(R24, R592). -/
def tickOnce (s : State) : State :=
  if s.pkg.boot.pwrgood then { s with tick := (s.tick + 1) % 2 ^ 64 } else s

/-! ### Free values -/

/-- A fresh free choice. -/
def freeBit (s : State) : Bool × State := (Config.freeBit s.free, { s with free := s.free + 1 })

/-- A fresh free byte. -/
def freeByte (s : State) : Byte × State := (Config.freeByte s.free, { s with free := s.free + 1 })

/-- A fresh free word. -/
def freeWord (s : State) : Word × State := (Config.freeWord s.free, { s with free := s.free + 1 })

/-! ### The error log (R543 to R545) -/

/-- An entry with only its class; the caller fills in what it concerns. -/
def elogOf (cls : Nat) : ElogEntry :=
  ⟨0, cls, false, false, false, false, 0, 0, 0, 0, 0, 0, 0, 0, false, 0, 0, 0⟩

/-- Classes that are written with HANDLED set (R545). -/
def elogNoHandling (cls : Nat) : Bool := cls == 0x06 || cls == 0x0C || cls == 0x0D

/-- The oldest entry that may be replaced: HANDLED and not FIRST (R545). -/
def elogVictim (l : List ElogEntry) : Option ElogEntry := l.find? (fun e => e.handled && !e.first)

/-- Whether an entry stands before another of its cycle: lower span, then UNIT, then INDEX (R544). -/
def elogBefore (a b : ElogEntry) : Bool :=
  decide (a.span < b.span) || (a.span == b.span && (decide (a.unit < b.unit)
    || (a.unit == b.unit && decide (a.index < b.index))))

/-- An entry put in its place among those of its cycle, after its equals. -/
def elogInsert (e : ElogEntry) : List ElogEntry → List ElogEntry
  | [] => [e]
  | x :: r => if elogBefore e x then e :: x :: r else x :: elogInsert e r

/-- NESTED of the entries of one cycle in the order of their writing; `busy` says that an entry is in handling. -/
def elogNest : Bool → List ElogEntry → List ElogEntry
  | _, [] => []
  | busy, e :: r => { e with nested := busy } :: elogNest (busy || !elogNoHandling e.cls) r

/-- Entries of one cycle written in ascending order of span, UNIT and INDEX: each takes the SEQ and FIRST of its
place (R544, R545). -/
def elogCycle (l : List ElogEntry) : List ElogEntry :=
  let busy := match l with | e :: _ => e.nested | [] => false
  elogNest busy (((l.foldl (fun acc e => elogInsert e acc) []).zip l).map (fun p =>
    { p.1 with seq := p.2.seq, first := p.2.first }))

/-- A log whose last entries, those of the current cycle, stand in the order of R544. DESIGN CHOICE: entries of one
tick count as those of one management-island cycle (log entry 60). -/
def elogOrder (t : Nat) (l : List ElogEntry) : List ElogEntry :=
  l.filter (fun e => e.tick ≠ t) ++ elogCycle (l.filter (fun e => e.tick = t))

/-- An entry written to the log: it takes the next SEQ, NESTED, FIRST and the tick; a full log
replaces the oldest HANDLED entry that is not FIRST, and otherwise LOST counts (R544, R545). -/
def elogAdd (s : State) (e : ElogEntry) : State :=
  let seq := getF s fElogStatusNextSeq pgElog
  let nested := s.er.elog.any (fun x => !x.handled)
  let e' := { e with
    seq := seq, tick := s.tick, nested := nested, first := s.er.firstArmed
    handled := e.handled || elogNoHandling e.cls }
  let s1 := irqSrc (setF s fElogStatusNextSeq pgElog (seq + 1)) pgElog 1
  if s1.er.elog.length < 256 then
    { s1 with er := { s1.er with elog := elogOrder s.tick (s1.er.elog ++ [e']), firstArmed := false } }
  else match elogVictim s1.er.elog with
    | some v =>
      { s1 with er := { s1.er with
          elog := elogOrder s.tick (s1.er.elog.filter (fun x => x.seq ≠ v.seq) ++ [e']), firstArmed := false } }
    | none => irqSrc (bumpSat s fElogStatusLost pgElog |> fun x =>
        setF x fElogStatusNextSeq pgElog (seq + 1)) pgElog 2

/-! ### Slots and queues -/

/-- A resident slot. -/
def getSlot (s : State) (key : Nat) : Slot := look s.core.slots key emptySlot

/-- The queue of engine `e` in a core part. -/
def partQueue (p : CorePart) (e : Nat) : Queue := p.queues.getD e idleQueue

/-- A core part with the queue of engine `e` replaced. -/
def partSetQueue (p : CorePart) (e : Nat) (q : Queue) : CorePart :=
  { p with queues := p.queues.set e q }

/-- Whether a queue counts as blocked for R391, with no command of it executing on the core: what a waiting or
faulted queue holds as issued is the command that waits or faulted. -/
def queueBlocked (launches : Nat) (q : Queue) : Bool :=
  match q.st with
  | .wait => true
  | .fault => true
  | .haltReq => !q.cmds.any (fun c => c.phase == .issued)
  | .haltErr => !q.cmds.any (fun c => c.phase == .issued)
  | .idle => launches == 0 && !q.cmds.any (fun c => c.phase == .issued)
  | _ => false

/-- Whether a slot is blocked: free, or occupied with every queue stopped (R391). -/
def slotBlocked (x : Slot) : Bool :=
  match x.ctx with
  | none => true
  | some _ => x.part.queues.all (queueBlocked x.part.launches.length)

/-- A slot replaced, with the tick at which it became blocked kept (R391). -/
def putSlot (s : State) (key : Nat) (x : Slot) : State :=
  let old := getSlot s key
  let b := slotBlocked x
  let since := if b then (if old.blocked then old.since else s.tick) else 0
  { s with core := { s.core with slots := put s.core.slots key { x with blocked := b, since := since } } }

/-- The queue of engine `e` in a slot. -/
def getQ (s : State) (key e : Nat) : Queue := partQueue (getSlot s key).part e

/-- A queue of a slot replaced. -/
def putQ (s : State) (key e : Nat) (q : Queue) : State :=
  let x := getSlot s key
  putSlot s key { x with part := partSetQueue x.part e q }

/-- Span of a slot number. -/
def keySpan (key : Nat) : Nat := key / 64
/-- Core of a slot number. -/
def keyCore (key : Nat) : Nat := key / 4 % 16
/-- Slot of a slot number. -/
def keySlot (key : Nat) : Nat := key % 4

/-- The context resident in a slot; 0 when it is empty. -/
def slotCtx (s : State) (key : Nat) : Nat := (getSlot s key).ctx.getD 0

/-- Cause of absence of a core, 0 while it is present (R5, R140, R141). -/
def coreAbsent (s : State) (span core : Nat) : Bool := look s.core.absent (coreNo span core) 0 != 0

/-- A core that a field names: itself, or the target of a valid SERR.ALIAS of a retired core
(R540). -/
def coreAliased (s : State) (span core : Nat) : Nat :=
  if coreAbsent s span core && getB s fSerrAliasValid (pgSerr span) core
  then getF s fSerrAliasTarget (pgSerr span) core else core

/-- Whether a command's field may name a core: present, or stood for by a valid alias. -/
def coreNamed (s : State) (span core : Nat) : Bool :=
  !coreAbsent s span core || getB s fSerrAliasValid (pgSerr span) core

/-! ### Command credits (R126) -/

/-- Credits held by the queue of engine `e` in slot `sl` of a core. -/
def credHeld (s : State) (cno sl e : Nat) : Nat := (getQ s (cno * 4 + sl) e).cmds.length

/-- Credits held by the queues of one engine. -/
def credEngine (s : State) (cno e : Nat) : Nat :=
  credHeld s cno 0 e + credHeld s cno 1 e + credHeld s cno 2 e + credHeld s cno 3 e

/-- Shared credits that a queue holds beyond its 16 guaranteed ones. -/
def credShared (s : State) (cno sl e : Nat) : Nat := credHeld s cno sl e - 16

/-- Shared credits of one engine's queues. -/
def credEngShared (s : State) (cno e : Nat) : Nat :=
  credShared s cno 0 e + credShared s cno 1 e + credShared s cno 2 e + credShared s cno 3 e

/-- Guaranteed credits that the other queues of the engine do not use. -/
def credUnused (s : State) (cno sl e : Nat) : Nat :=
  (16 - credHeld s cno 0 e) + (16 - credHeld s cno 1 e) + (16 - credHeld s cno 2 e)
    + (16 - credHeld s cno 3 e) - (16 - credHeld s cno sl e)

/-- Whether a queue may take one more credit (R126): a guaranteed one, or a shared one within the
704 of the core and the 512 of the engine. -/
def credFree (s : State) (cno sl e : Nat) : Bool :=
  if credHeld s cno sl e < 16 then true
  else
    let shared := credEngShared s cno 0 + credEngShared s cno 1 + credEngShared s cno 2
      + credEngShared s cno 3 + credEngShared s cno 4
    decide (shared < 704) && decide (credEngine s cno e + 1 + credUnused s cno sl e ≤ 512)

/-! ### Tallies and signals (R111, R112, R118) -/

/-- Whether tally value `v` has reached target `t` (R112). -/
def tallyReached (v t : Nat) : Bool := (2 ^ 48 + v - t % 2 ^ 48) % 2 ^ 48 < 2 ^ 47

/-- Value of a tally in a core part. -/
def tallyOf (p : CorePart) (t : Nat) : Nat := look p.tallies t 0

/-- A tally replaced, modulo 2^48 (R111). -/
def tallySet (p : CorePart) (t v : Nat) : CorePart := { p with tallies := put p.tallies t (v % 2 ^ 48) }

/-- An addition to a tally (R111). -/
def tallyAdd (p : CorePart) (t n : Nat) : CorePart := tallySet p t (tallyOf p t + n)

/-- A signal sent towards its target (R113). -/
def sendSignal (s : State) (g : Signal) : State :=
  { s with core := { s.core with signals := s.core.signals ++ [g] } }

/-- The record of a context on a span. -/
def getRec (s : State) (span ctx : Nat) : Option CtxRec :=
  (s.cx.recs.find? (fun p => p.1 = (span, ctx))).map (·.2)

/-- A record replaced or added. -/
def putRec (s : State) (span ctx : Nat) (r : CtxRec) : State :=
  { s with cx := { s.cx with recs := put s.cx.recs (span, ctx) r } }

/-- The descriptor of a context. -/
def getCtx (s : State) (ctx : Nat) : Option Ctx :=
  (s.cx.ctxs.find? (fun p => p.1 = ctx)).map (·.2)

/-- Bandwidth partition of a context (R224). -/
def ctxPart (s : State) (ctx : Nat) : Nat := match getCtx s ctx with | some c => c.part | none => 0

/-- The slot of a core in which a context is resident. -/
def residentSlot (s : State) (span core ctx : Nat) : Option Nat :=
  [0, 1, 2, 3].find? (fun sl => (getSlot s (slotKey span core sl)).ctx == some ctx)

/-- Whether a stored core part waits on tally `t` and the value `v` reaches its target (R389). -/
def partWaitReached (p : CorePart) (t v : Nat) : Bool :=
  p.queues.any (fun q => q.st == .wait && q.waitTally == t && tallyReached v q.waitTarget)

/-- Bit `c` of RUNNABLE set in a record, with the tick at which it was set (R392). -/
def recRunnable (s : State) (r : CtxRec) (c : Nat) : CtxRec :=
  { r with
    runnable := r.runnable ||| 2 ^ c
    runSince := if bitAt r.runnable c then r.runSince else put r.runSince c s.tick }

/-- An addition recorded with a tally of a core for scope checking (R345). -/
def scopeRecord (s : State) (x : Slot) (core : Nat) (g : Signal) : Slot :=
  if getB s fTlyScopeChkEnable (pgTly g.span core) then
    { x with scopes := put x.scopes g.tally ⟨g.scope, g.kind, g.srcSpan, g.srcCore⟩ }
  else x

/-- A signal lands (R118, R389, R540): in the resident slot's tally, in the stored record, in the
pending sum of a swapped record, or it is dropped and counted. A signal to a core retired without
an alias is dropped without a count (R141). DESIGN CHOICE: a signal to a present core outside the record's
CORE_MASK adds to a part that the record then holds for that core (log entry 45). -/
def landSignal (s : State) (g : Signal) : State :=
  let core := coreAliased s g.span g.core
  if coreAbsent s g.span core then s
  else match residentSlot s g.span core g.ctx with
    | some sl =>
      let key := slotKey g.span core sl
      let x := getSlot s key
      putSlot s key (scopeRecord s { x with part := tallyAdd x.part g.tally g.add } core g)
    | none => match getRec s g.span g.ctx with
      | none =>
        let s1 := bumpF s fTlyOrphanCount (pgTly g.span core)
        elogAdd s1 { elogOf 0x0C with
          span := g.span, unit := 0x41, index := core, ctx := g.ctx }
      | some r => match r.tier with
        | .store =>
          let p := tallyAdd (look r.parts core newPart) g.tally g.add
          let r1 := { r with parts := put r.parts core p }
          putRec s g.span g.ctx
            (if partWaitReached p g.tally (tallyOf p g.tally) then recRunnable s r1 core else r1)
        | .swapped =>
          let sum := (look r.pend (core, g.tally) 0 + g.add) % 2 ^ 48
          let r1 := { r with pend := put r.pend (core, g.tally) sum }
          let p := look r.parts core newPart
          putRec s g.span g.ctx
            (if partWaitReached p g.tally ((tallyOf p g.tally + sum) % 2 ^ 48)
             then recRunnable s r1 core else r1)

/-! ### Units under test (R624, R630) -/

/-- Whether a slice or test holds a core: it takes no switch-in. -/
def coreSliced (s : State) (span core : Nat) : Bool :=
  match s.pkg.boot.bist with
  | some b => b.span == span && ((b.kind == 0 && b.unit == core) || b.kind == 3)
  | none => false

/-- Whether a test idles a port: 0 to 11 the Zaskel ports, 12 and 13 the PCIe ports. -/
def portTested (s : State) (port : Nat) : Bool :=
  match s.pkg.boot.bist with
  | some b => b.kind == 2 && b.unit == port
  | none => false

/-! ### Schedule units -/

/-- The schedule unit of a span. -/
def getSched (s : State) (span : Nat) : SpanSched := look s.sch.spans span emptySched

/-- A schedule unit replaced. -/
def putSched (s : State) (span : Nat) (u : SpanSched) : State :=
  { s with sch := { s.sch with spans := put s.sch.spans span u } }

/-- Whether the current limiter holds stitch starts, or a droop of the pier supply holds those of a span (R570,
R571). -/
def stitchesHeld (s : State) (span : Nat) : Bool :=
  s.pkg.power.limiting || s.pkg.power.droops.any (fun d => d.1 == 2 && d.2.1 == span)

/-- Whether a droop of the pier supply holds the activates of a span (R570). -/
def activatesHeld (s : State) (span : Nat) : Bool := s.pkg.power.droops.any (fun d => d.1 == 2 && d.2.1 == span)

/-! ### Controllers -/

/-- A pseudo-channel controller. -/
def getPcc (s : State) (n : Nat) : Pcc := look s.memo.pccs n newPcc

/-- A controller replaced. -/
def putPcc (s : State) (n : Nat) (p : Pcc) : State :=
  { s with memo := { s.memo with pccs := put s.memo.pccs n p } }

/-- The register page of a controller. -/
def pccPage (n : Nat) : Nat := pgPcc (n / 64) (n % 64)

end Sys2Proof.Machine
end

