-- ==== Sys2Proof/Machine/Dram.lean ====
section
/-!
DEFINITION. Device memory at its points of coherence (06, 07, 09, 15): address decode, the column
code and its decoder, reads and writes of lines with poison and stale columns, the memory-side
reducers with their buffer and ordered staging, and correctable-error buckets.
-/
namespace Sys2Proof.Machine

/-! ### Address decode (R8, R211, R212) -/

/-- Capacity of one stack in bytes (R4). -/
def stackCap (s : State) : Nat := if s.fuse.gradeS then 96 * 2 ^ 30 else 2 ^ 37

/-- Pseudo-channels fitted per stack. -/
def pcCount (s : State) : Nat := if s.fuse.gradeS then 48 else 64

/-- Whether a device address is at or below the highest one (R8). -/
def daOk (s : State) (da : Nat) : Bool := da < 8 * stackCap s

/-- Span and stack offset of a device address under a decode (R211), as one cell address: span
times 2^37 plus stack offset. -/
def cellOf (s : State) (intlv : Bool) (da : Nat) : Nat :=
  if intlv then 2 ^ 37 * (da / 4096 % 8) + (4096 * (da / 32768) + da % 4096)
  else 2 ^ 37 * (da / stackCap s) + da % stackCap s

/-- Span of a cell. -/
def cellSpan (cell : Nat) : Nat := cell / 2 ^ 37
/-- Stack offset of a cell. -/
def cellSo (cell : Nat) : Nat := cell % 2 ^ 37
/-- Pseudo-channel of a cell (R212). -/
def cellPc (s : State) (cell : Nat) : Nat := cellSo cell / 65536 % pcCount s
/-- Logical bank of a cell (R212). -/
def cellBank (cell : Nat) : Nat := cellSo cell / 2048 % 32
/-- Row of a cell (R212). -/
def cellRow (s : State) (cell : Nat) : Nat := cellSo cell / (65536 * pcCount s)
/-- Column of a cell within its row (R209). -/
def cellCol (cell : Nat) : Nat := cellSo cell % 2048 / 32
/-- Package-wide number of the controller that owns a cell. -/
def cellCtl (s : State) (cell : Nat) : Nat := pcNo (cellSpan cell) (cellPc s cell)
/-- First cell of a row of a bank. -/
def rowCell (s : State) (span pc bank row : Nat) : Nat :=
  2 ^ 37 * span + 65536 * row * pcCount s + 65536 * pc + 2048 * bank
/-- Span-local device address of a cell. -/
def cellDa (s : State) (cell : Nat) : Nat := cellSpan cell * stackCap s + cellSo cell

/-- Whether a pseudo-channel is absent by grade, or has been failed or retired (R7, R236). -/
def pcGone (s : State) (n : Nat) : Bool := n % 64 ≥ pcCount s || (getPcc s n).failed

/-- Whether a bank is isolated in hardware (R539). -/
def bankIsolated (s : State) (cell : Nat) : Bool :=
  s.er.isolated.contains (cellSpan cell, 0x50, cellPc s cell, cellBank cell)

/-! ### Correctable-error buckets (R533) -/

/-- A correctable event of a resource: its bucket rises, and at DEPTH it empties with a CE_OVERFLOW
entry and the CE interrupt source. -/
def bucketEvent (s : State) (span cls idx bank addr : Nat) : State :=
  let k := (span, cls, idx)
  let b := look s.er.buckets k ⟨0, 0, s.tick⟩
  if b.level + 1 ≥ getF s fSerrBktCfgDepth (pgSerr span) cls then
    let s1 := { s with er := { s.er with
      buckets := put s.er.buckets k { b with level := 0, overflows := min (b.overflows + 1) (2 ^ 32 - 1) } } }
    let s2 := elogAdd s1 { elogOf 0x03 with
      span := span, index := idx, bank := bank, addr := addr
      unit := (match cls with | 0 => 0x50 | 1 => 0x30 | 2 => 0x42 | _ => 0x34) }
    irqSrc s2 (pgSerr span) 1
  else
    { s with er := { s.er with buckets := put s.er.buckets k { b with level := b.level + 1 } } }

/-! ### The column code (R529, R530) -/

/-- Multiplication by x in GF(2^8) modulo x^8 + x^4 + x^3 + x^2 + 1. -/
def gfX (a : Nat) : Nat := if a ≥ 128 then (2 * a ^^^ 0x11D) else 2 * a

/-- Multiplication by alpha to the `k`. -/
def gfPow (a : Nat) : Nat → Nat
  | 0 => a
  | k + 1 => gfPow (gfX a) k

/-- Syndrome `j` of an error pattern of (symbol, value) pairs: the code is linear, so the stored
codeword contributes nothing. -/
def syndrome (errs : List (Nat × Nat)) (j : Nat) : Nat :=
  errs.foldl (fun acc e => acc ^^^ gfPow e.2 (e.1 * j)) 0

/-- Outcomes of the decoder (R530). -/
inductive ColOut where
  | clean | corrected (sym : Nat) | addr (sym : Nat) | poison | ue
  deriving DecidableEq, Repr

/-- The poison pattern of R530: 0x5A added to each check symbol. -/
def poisonPattern : List (Nat × Nat) := [(0, 0x5A), (1, 0x5A), (2, 0x5A), (3, 0x5A)]

/-- The decoder's outcome for an error pattern (R530). -/
def colOutcome (errs : List (Nat × Nat)) : ColOut :=
  let s0 := syndrome errs 0
  let s1 := syndrome errs 1
  let s2 := syndrome errs 2
  let s3 := syndrome errs 3
  if s0 = 0 ∧ s1 = 0 ∧ s2 = 0 ∧ s3 = 0 then .clean
  else match (List.range 40).find? (fun i =>
      s0 ≠ 0 ∧ gfPow s0 i = s1 ∧ gfPow s0 (2 * i) = s2 ∧ gfPow s0 (3 * i) = s3) with
    | some i => if i ≥ 36 then .addr i else .corrected i
    | none =>
      if s0 = syndrome poisonPattern 0 ∧ s1 = syndrome poisonPattern 1
          ∧ s2 = syndrome poisonPattern 2 ∧ s3 = syndrome poisonPattern 3
      then .poison else .ue

/-- The syndromes packed as in an error-log entry (R543). -/
def synPack (errs : List (Nat × Nat)) : Nat :=
  syndrome errs 0 + 256 * syndrome errs 1 + 65536 * syndrome errs 2 + 16777216 * syndrome errs 3

/-- Data bytes of a column after the decoder: the stored bytes with the pattern's data symbols
applied and the located symbol corrected. -/
def colData (data : List Byte) (errs : List (Nat × Nat)) (fix : Option Nat) : List Byte :=
  let v := syndrome errs 0
  let d := errs.foldl (fun acc e =>
    if e.1 ≥ 4 ∧ e.1 < 36 then acc.set (e.1 - 4) (acc.getD (e.1 - 4) 0 ^^^ BitVec.ofNat 8 e.2) else acc) data
  match fix with
  | some i => if i ≥ 4 then d.set (i - 4) (d.getD (i - 4) 0 ^^^ BitVec.ofNat 8 v) else d
  | none => d

/-! ### Stale columns (R264 to R267) -/

/-- Mask of stale columns of a row. -/
def staleMask (p : Pcc) (bank row : Nat) : Nat :=
  match p.unsealed.find? (fun e => e.1 == bank && e.2.1 == row) with
  | some e => e.2.2
  | none => 0

/-- Whether a column is stale. -/
def colStale (s : State) (cell : Nat) : Bool :=
  bitAt (staleMask (getPcc s (cellCtl s cell)) (cellBank cell) (cellRow s cell)) (cellCol cell)

/-- A column sealed: its stale bit clears, and an entry whose mask is zero is freed (R265). -/
def sealCol (p : Pcc) (bank row col : Nat) : Pcc :=
  let upd := p.unsealed.map (fun e =>
    if e.1 == bank && e.2.1 == row then (e.1, e.2.1, setBits e.2.2 col 1 0) else e)
  { p with unsealed := upd.filter (fun e => e.2.2 ≠ 0) }

/-! ### Columns at the point of coherence -/

/-- A first detection of an uncorrectable or address error is logged; at most 256 columns are
remembered (R530), and a second uncorrectable error on a bank whose first is in handling isolates
the bank (R539). -/
def logUe (s : State) (cell : Nat) (cls sym : Nat) : State :=
  let n := cellCtl s cell
  let p := getPcc s n
  let col := cell / 32
  if p.logged.contains col then s
  else
    let s1 := putPcc s n { p with logged := (col :: p.logged).take 256 }
    let inHand := s.er.elog.any (fun e => !e.handled && (e.cls == 0x01 || e.cls == 0x02)
      && e.span == cellSpan cell && e.index == cellPc s cell && e.bank == cellBank cell)
    let s2 := elogAdd s1 { elogOf cls with
      span := cellSpan cell, unit := 0x50, index := cellPc s cell, bank := cellBank cell
      addr := cellDa s (col * 32), syndrome := synPack (look s.memo.errs col []), symbol := sym }
    if inHand && !bankIsolated s cell then
      let s3 := elogAdd { s2 with er := { s2.er with
          isolated := (cellSpan cell, 0x50, cellPc s cell, cellBank cell) :: s2.er.isolated } }
        { elogOf 0x08 with
          span := cellSpan cell, unit := 0x50, index := cellPc s cell, bank := cellBank cell }
      irqSrc s3 (pgSerr (cellSpan cell)) 2
    else s2

/-- A sealed column read through the decoder: its bytes, whether poison is delivered, and the state
with the event reported (R530). -/
def colRead (s : State) (cell : Nat) : List Byte × Bool × State :=
  let col := cell / 32
  let raw := cellRead s.memo.mem (col * 32) 32
  if pcGone s (cellCtl s cell) || bankIsolated s cell then (raw.map (fun _ => 0), true, s)
  else if s.memo.poison.contains col then (raw.map (fun _ => 0), true, s)
  else
    let errs := look s.memo.errs col []
    match colOutcome errs with
    | .clean => (colData raw errs none, false, s)
    | .corrected i =>
      (colData raw errs (some i), false,
        bucketEvent s (cellSpan cell) 0 (cellPc s cell) (cellBank cell) (cellDa s (col * 32)))
    | .addr i => (raw.map (fun _ => 0), true, logUe s cell 0x02 i)
    | .poison => (raw.map (fun _ => 0), true, s)
    | .ue => (raw.map (fun _ => 0), true, logUe s cell 0x01 0)

/-- Stored bytes of a column, bypassing the decoder (R266). -/
def colRaw (s : State) (cell : Nat) : List Byte :=
  colData (cellRead s.memo.mem (cell / 32 * 32) 32) (look s.memo.errs (cell / 32) []) none

/-- The stored pattern of a column replaced. -/
def setErrs (s : State) (col : Nat) (e : List (Nat × Nat)) : State :=
  { s with memo := { s.memo with errs := if e.isEmpty then del s.memo.errs col else put s.memo.errs col e } }

/-- A column marked with the poison encoding, or freed of it (R531). -/
def setPoison (s : State) (col : Nat) (p : Bool) : State :=
  { s with memo := { s.memo with
      poison := if p then setIns s.memo.poison col else setDel s.memo.poison col } }

/-- Paths that SERR.FLIP distinguishes (R534). -/
inductive WPath where
  | pier | blu
  deriving DecidableEq, Repr

/-- Whether a write to a cell is dropped: its controller is gone, or its bank isolated (R236, R539). -/
def writeDropped (s : State) (cell : Nat) : Bool := pcGone s (cellCtl s cell) || bankIsolated s cell

/-- An armed error injection applied to a column just written; a dropped write is none (R534). -/
def flipApply (s : State) (cell : Nat) (path : WPath) : State :=
  let pg := pgSerr (cellSpan cell)
  if !writeDropped s cell && getB s fSerrFlipArm pg && getF s fSerrFlipPc pg == cellPc s cell
      && (getF s fSerrFlipPath pg == (match path with | .pier => 0 | .blu => 1)) then
    let s1 := setB s fSerrFlipArm pg false
    if getB s fSerrFlipPoison pg then setPoison s1 (cell / 32) true
    else
      let a := (getF s fSerrFlipSymA pg, getF s fSerrFlipPatA pg)
      let b := (getF s fSerrFlipSymB pg, getF s fSerrFlipPatB pg)
      setErrs s1 (cell / 32) ([a, b].filter (fun e => e.2 ≠ 0))
  else s

/-- A whole column sealed with new data, or with the poison encoding (R267, R531). DESIGN CHOICE: R263 and R531 give the
syndromes of the poison encoding and no data symbols; a raw read of it yields the bytes that the column held before (log
entry 89). -/
def colSeal (s : State) (cell : Nat) (data : List Byte) (pois : Bool) : State :=
  let col := cell / 32
  let n := cellCtl s cell
  let p := getPcc s n
  let p1 := sealCol { p with logged := p.logged.filter (· ≠ col) } (cellBank cell) (cellRow s cell) (cellCol cell)
  let s1 := setPoison (setErrs s col []) col pois
  let s2 := if pois then s1
    else { s1 with memo := { s1.memo with mem := cellWrite s1.memo.mem (col * 32) data } }
  putPcc s2 n p1

/-- `new` where the mask has a bit, `old` elsewhere. -/
def byteMerge (old new : List Byte) (mask : Nat) : List Byte :=
  (List.range old.length).map (fun i => if bitAt mask i then new.getD i 0 else old.getD i 0)

/-- The 32 bytes of one column written where the mask has a bit (R267, R321, R531): a whole column
is sealed; a part of a poisoned column leaves it poisoned; a part of a stale column merges raw; a
part of a bad column stores the poison encoding; otherwise the part merges with the corrected
data. -/
def colMerge (s : State) (col : Nat) (new : List Byte) (mask : Nat) : State :=
  let cell := col * 32
  if writeDropped s cell || mask = 0 then s
  else if mask = 2 ^ 32 - 1 then colSeal s cell new false
  else if s.memo.poison.contains col then s
  else if colStale s cell then colSeal s cell (byteMerge (colRaw s cell) new mask) false
  else
    let r := colRead s cell
    if r.2.1 then setPoison (setErrs s col []) col true
    else colSeal r.2.2 cell (byteMerge r.1 new mask) false

/-- Contiguous bytes written into one column. -/
def colWrite (s : State) (cell : Nat) (data : List Byte) : State :=
  colMerge s (cell / 32) (List.replicate (cell % 32) 0 ++ data)
    ((2 ^ data.length - 1) * 2 ^ (cell % 32))

/-- Bytes written from a cell upward, column by column, over `fuel` columns at most; an armed
injection takes the lowest-addressed column (R534). -/
def cellsWriteGo (path : WPath) (first : Bool) : Nat → State → Nat → List Byte → State
  | 0, s, _, _ => s
  | k + 1, s, cell, data =>
    if data.isEmpty then s
    else
      let w := 32 - cell % 32
      let s1 := colWrite s cell (data.take w)
      let s2 := if first then flipApply s1 cell path else s1
      cellsWriteGo path false k s2 (cell + w) (data.drop w)

/-! ### The replay buffer (R216, R217) -/

/-- Whether a controller serves a pseudo-channel that is present and not failed. -/
def ctlLive (s : State) (n : Nat) : Bool := !pcGone s n

/-- Replay entries kept: those younger than tALERT, and those that await retraining (R216, R217). -/
def replayLive (s : State) (p : Pcc) : List ReplayCmd :=
  p.replay.filter (fun c => decide (s.tick < c.at_ + 10) || decide (c.fails ≥ 5))

/-- Whether a controller may issue a command: it is not retraining, no owed refresh comes first after a retraining, and
its replay buffer has room (R216, R217). -/
def canIssue (s : State) (n : Nat) : Bool :=
  ctlLive s n && !getB s fPccStateRetrain (pccPage n)
    && !((getPcc s n).recovering && decide ((getPcc s n).owed > 0))
    && decide ((replayLive s (getPcc s n)).length < 64)

/-- A command put in the replay buffer, which holds the last 64 (R216). -/
def replayAdd (s : State) (n : Nat) (kind : ReplayKind) (cell : Nat) (opens : Option (Nat × Nat)) : State :=
  let p := getPcc s n
  let l := replayLive s p ++ [⟨kind, cell, 0, s.tick, opens⟩]
  putPcc s n { p with replay := l.drop (l.length - 64) }

/-- A pier-path access of the controller itself: its row is opened, and its command stands in the replay buffer (R216,
R228). -/
def ownAccess (s : State) (kind : ReplayKind) (cell : Nat) : State :=
  let n := cellCtl s cell
  let bank := cellBank cell
  let row := cellRow s cell
  if ctlLive s n then
    replayAdd (putPcc s n { getPcc s n with openRows := put (getPcc s n).openRows bank row }) n kind cell (some (bank, row))
  else s

/-! ### Reducers (R227 to R233) -/

/-- Exact value held in a staged entry. -/
def stagedVal (e : Staged) : Num :=
  match e.cls with | 0 => .fin e.neg e.mant e.exp | 1 => .inf e.neg | _ => .nan

/-- Element width in bytes of a reducer operation. -/
def redBytes : RedOp → Nat
  | .fadd f => (match f with | 0 => 4 | _ => 2) | .fmin f => (match f with | 0 => 4 | _ => 2)
  | .fmax f => (match f with | 0 => 4 | _ => 2) | .iadd32 => 4 | .iadd64 => 8

/-- The stored format of a floating reducer operation. -/
def redFmt (f : Nat) : Fmt := match f with | 0 => .fp32 | 1 => .bf16 | _ => .fp16

/-- One update applied to an element's code (R80, R192): one rounding to the stored format. -/
def redApply (op : RedOp) (a : Nat) (b : Num) : Nat :=
  match op with
  | .fadd f => (convert (redFmt f) false (numAdd (elemVal (redFmt f) false a) b)).1
  | .fmin f => (convert (redFmt f) false (numMin (elemVal (redFmt f) false a) b)).1
  | .fmax f => (convert (redFmt f) false (numMax (elemVal (redFmt f) false a) b)).1
  | .iadd32 => match b with
    | .fin n m _ => intCode 32 ((a : Int) + (if n then -(m : Int) else (m : Int)))
    | _ => a
  | .iadd64 => match b with
    | .fin n m _ => intCode 64 ((a : Int) + (if n then -(m : Int) else (m : Int)))
    | _ => a

/-- The changed columns of a buffered line written; a poisoned one is written poisoned (R228, R531). -/
def redCols (l : RedLine) : Nat → State → State
  | 0, s => s
  | k + 1, s =>
    let s1 := redCols l k s
    let cell := 128 * l.line + 32 * k
    if !bitAt l.dirty k || writeDropped s1 cell then s1
    else flipApply (if bitAt l.poison k then colSeal s1 cell [] true
      else colWrite s1 cell ((l.data.drop (32 * k)).take 32)) cell .pier

/-- A reducer-buffer line written back to its bank (R228). -/
def redWriteBack (s : State) (n line : Nat) : State :=
  let p := getPcc s n
  match p.red.find? (fun l => l.line == line) with
  | none => s
  | some l =>
    let s1 := putPcc s n { p with red := p.red.filter (fun x => x.line ≠ line) }
    redCols l 4 (if l.dirty = 0 then s1 else ownAccess s1 .wdata (128 * line))

/-- The raw or decoded bytes of the four columns of a line, with its poison mask. -/
def lineCols (s : State) (line : Nat) : Nat → List Byte × Nat × State
  | 0 => ([], 0, s)
  | k + 1 =>
    let r := lineCols s line k
    let cell := 128 * line + k * 32
    if colStale r.2.2 cell then (r.1 ++ colRaw r.2.2 cell, r.2.1, r.2.2)
    else
      let c := colRead r.2.2 cell
      (r.1 ++ c.1, r.2.1 + (if c.2.1 then 2 ^ k else 0), c.2.2)

/-- A line in the reducer buffer, read from its bank on a miss (R228). DESIGN CHOICE: the rule names no victim for the
257th line; the line fetched first gives way (log entry 90). -/
def redFetch (s : State) (n line : Nat) : State :=
  if (getPcc s n).red.any (fun l => l.line == line) then s
  else
    let s1 := match (getPcc s n).red with
      | [] => s
      | l :: r => if r.length + 1 ≥ 256 then redWriteBack s n l.line else s
    let c := lineCols (ownAccess s1 .rdata (128 * line)) line 4
    let p := getPcc c.2.2 n
    putPcc c.2.2 n { p with red := p.red ++ [⟨line, c.1, 0, c.2.1⟩] }

/-- A buffered line changed. -/
def redUpd (s : State) (n line : Nat) (f : RedLine → RedLine) : State :=
  let p := getPcc s n
  putPcc s n { p with red := p.red.map (fun x => if x.line == line then f x else x) }

/-- Bytes of a buffered line replaced, within one column (R228). -/
def redPut (s : State) (n line off : Nat) (bs : List Byte) : State :=
  redUpd s n line (fun l =>
    { l with data := l.data.take off ++ bs ++ l.data.drop (off + bs.length), dirty := l.dirty ||| 2 ^ (off / 32) })

/-- Whether a column of a buffered line is poisoned. -/
def redBad (s : State) (n line off : Nat) : Bool :=
  match (getPcc s n).red.find? (fun l => l.line == line) with
  | some l => bitAt l.poison (off / 32)
  | none => false

/-- Bytes of a buffered line. -/
def redGet (s : State) (n line off w : Nat) : List Byte :=
  match (getPcc s n).red.find? (fun l => l.line == line) with
  | some l => (l.data.drop off).take w
  | none => []

/-- A column of a controller sealed. -/
def sealAt (s : State) (cell : Nat) : State :=
  let n := cellCtl s cell
  putPcc s n (sealCol (getPcc s n) (cellBank cell) (cellRow s cell) (cellCol cell))

/-- The cell of the second half of an element, which only an INT64 element has apart: it is aligned to 4 bytes (R178). -/
def redHi (op : RedOp) (cell : Nat) : Nat := if redBytes op = 8 then cell + 4 else cell

/-- An update of a poisoned element: it stays poisoned, and the context is logged (R535). -/
def redPoisoned (s : State) (cell ctx : Nat) : State :=
  elogAdd s { elogOf 0x05 with
    span := cellSpan cell, unit := 0x50, index := cellPc s cell, bank := cellBank cell
    addr := cellDa s (cell / 32 * 32), ctx := ctx }

/-- The lines of an element's two parts in the reducer buffer together: reading the second may evict the first, which is
then read again (R227, R228). -/
def redLines (s : State) (n line n2 line2 : Nat) : State := redFetch (redFetch (redFetch s n line) n2 line2) n line

/-- One update applied in the reducer buffer, without a settle (R227, R229). `hi` is the cell of the second half of
an INT64 element, which may lie in another line. -/
def redDo (s : State) (cell hi : Nat) (op : RedOp) (b : Num) (ctx : Nat) : State :=
  let n := cellCtl s cell
  let n2 := cellCtl s hi
  if writeDropped s cell || writeDropped s hi then s
  else
    let s1 := redLines s n (cell / 128) n2 (hi / 128)
    if redBad s1 n (cell / 128) (cell % 128) then redPoisoned s1 cell ctx
    else if redBad s1 n2 (hi / 128) (hi % 128) then redPoisoned s1 hi ctx
    else
      let w := if redBytes op = 8 then 4 else redBytes op
      let old := redGet s1 n (cell / 128) (cell % 128) w
        ++ (if redBytes op = 8 then redGet s1 n2 (hi / 128) (hi % 128) 4 else [])
      let new := leBytes (redBytes op) (redApply op (leNat old) b)
      let s2 := sealAt (redPut s1 n (cell / 128) (cell % 128) (new.take w)) cell
      if redBytes op = 8 then sealAt (redPut s2 n2 (hi / 128) (hi % 128) (new.drop 4)) hi else s2

/-- A poisoned update: its element's column is poisoned (R317, R531). -/
def redPoison (s : State) (cell : Nat) : State :=
  let n := cellCtl s cell
  if writeDropped s cell then s
  else
    sealAt (redUpd (redFetch s n (cell / 128)) n (cell / 128) (fun l =>
      { l with dirty := l.dirty ||| 2 ^ (cell % 128 / 32), poison := l.poison ||| 2 ^ (cell % 128 / 32) })) cell

/-- A staged entry applied. -/
def stagedDo (s : State) (e : Staged) : State :=
  if e.cls = 3 then redPoison s e.cell else redDo s e.cell e.hi e.op (stagedVal e) e.ctx

/-- Sequence-tag order (R230): host tags above schedule tags, frame and sequence fields modulo
their ranges, then the lower fields as unsigned numbers. -/
def tagLt (a b : Nat) : Bool :=
  let la := bits a 96 32
  let lb := bits b 96 32
  let low (x : Nat) : Nat := bits x 0 96
  if bits la 31 1 ≠ bits lb 31 1 then decide (bits la 31 1 < bits lb 31 1)
  else if bits la 31 1 = 0 then
    if bits la 12 19 ≠ bits lb 12 19 then
      decide ((2 ^ 19 + bits lb 12 19 - bits la 12 19) % 2 ^ 19 < 2 ^ 18)
    else if bits la 0 12 ≠ bits lb 0 12 then decide (bits la 0 12 < bits lb 0 12)
    else decide (low a < low b)
  else if bits la 0 31 ≠ bits lb 0 31 then
    decide ((2 ^ 31 + bits lb 0 31 - bits la 0 31) % 2 ^ 31 < 2 ^ 30)
  else decide (low a < low b)

/-- A staged entry put in its place in ascending tag order, after its equals. -/
def tagInsert (e : Staged) : List Staged → List Staged
  | [] => [e]
  | x :: r => if tagLt e.tag x.tag then e :: x :: r else x :: tagInsert e r

/-- Staged entries in ascending tag order, equal tags in arrival order (R230, R232). -/
def tagSort (l : List Staged) : List Staged := l.foldl (fun acc e => tagInsert e acc) []

/-- Whether a settle applies an entry: not while its item is uncommitted (R549). So a reader that breaks the rules of
R550 sees an element without the updates of an item that has not committed. -/
def settleable (s : State) (e : Staged) : Bool := e.item == 0 || !s.er.openItems.contains e.item

/-- A staged entry of an update. -/
def stagedEntry (tag : Nat) (v : Num) (cell hi : Nat) (op : RedOp) (ctx item : Nat) : Staged :=
  match v with
  | .fin n m e => ⟨tag, n, m, e, 0, cell, hi, op, ctx, item⟩
  | .inf n => ⟨tag, n, 0, 0, 1, cell, hi, op, ctx, item⟩
  | .nan => ⟨tag, false, 0, 0, 2, cell, hi, op, ctx, item⟩

/-- A staged entry of a poisoned result (R317). -/
def stagedPoison (tag cell : Nat) (op : RedOp) (ctx item : Nat) : Staged := ⟨tag, false, 0, 0, 3, cell, cell, op, ctx, item⟩

/-- Whether a staged update has a byte in a line. -/
def stagedOn (line : Nat) (e : Staged) : Bool := e.cell / 128 == line || e.hi / 128 == line

/-- The staged entries of a line: its controller's, and those of INT64 elements that start in the line of another. -/
def stagedAt (s : State) (line : Nat) : List Staged :=
  (getPcc s (cellCtl s (128 * line))).staged.filter (stagedOn line)
    ++ (s.memo.pccs.filter (fun p => p.1 ≠ cellCtl s (128 * line))).flatMap (fun p =>
        p.2.staged.filter (fun e => stagedOn line e))

/-- Staged entries freed from a controller. -/
def dropEntries (mine : List Staged) (p : Pcc) : Pcc := { p with staged := p.staged.filter (fun e => !mine.contains e) }

/-- The staged updates of a line applied in tag order, and their entries freed (R232, R549). -/
def settleLine (s : State) (line : Nat) : State :=
  let mine := (stagedAt s line).filter (settleable s)
  if mine.isEmpty then s
  else
    let s1 := { s with memo := { s.memo with pccs := s.memo.pccs.map (fun p => (p.1, dropEntries mine p.2)) } }
    (tagSort mine).foldl stagedDo s1

/-- Distinct lines with staged updates. -/
def stagedLines (p : Pcc) : List Nat :=
  p.staged.foldl (fun acc e => setIns (setIns acc (e.cell / 128)) (e.hi / 128)) []

/-- An unordered reducer update: the line's staged updates settle first (R232, R342). -/
def redUpdate (s : State) (cell hi : Nat) (op : RedOp) (b : Num) (ctx : Nat) : State :=
  redDo (settleLine (settleLine s (cell / 128)) (hi / 128)) cell hi op b ctx

/-- The oldest staged line settled early, counted and logged for the update's context (R233). -/
def earlySettle (s : State) (n ctx : Nat) : State :=
  match (getPcc s n).staged.find? (settleable s) with
  | none => s
  | some e =>
    let s1 := settleLine s (e.cell / 128)
    let s2 := bumpSat s1 fPccOrdStatEarly (pccPage n)
    elogAdd s2 { elogOf 0x0D with
      span := n / 64, unit := 0x50, index := n % 64, addr := cellDa s e.cell, ctx := ctx }

/-- Whether one more entry would exceed the staging capacity: entries, or distinct lines of both its parts (R233). -/
def stagingOver (s : State) (n : Nat) (e : Staged) : Bool :=
  let p := getPcc s n
  let more := (setIns (setIns (stagedLines p) (e.cell / 128)) (e.hi / 128)).length
  decide (p.staged.length + 1 > 2048 * getF s fPccOrdAreaSize (pccPage n))
    || (decide (more > 16384) && decide (more > (stagedLines p).length))

/-- Early settles until an entry fits, or no entry is left that a settle may apply (R233, R549). -/
def settleRoom (n : Nat) (e : Staged) : Nat → State → State
  | 0, s => s
  | k + 1, s =>
    if stagingOver s n e && (getPcc s n).staged.any (settleable s) then settleRoom n e k (earlySettle s n e.ctx) else s

/-- An ordered update settled at its arrival, counted and logged (R233). -/
def arrivalSettle (s : State) (n : Nat) (e : Staged) : State :=
  elogAdd (bumpSat (stagedDo s e) fPccOrdStatEarly (pccPage n)) { elogOf 0x0D with
    span := n / 64, unit := 0x50, index := n % 64, addr := cellDa s e.cell, ctx := e.ctx }

/-- An ordered update accepted as a staging entry (R231), after early settles when the staging capacity would be
exceeded; with no staging area it is settled at arrival and counted (R233). DESIGN CHOICE: so is one of no item where
every staged entry belongs to an uncommitted item (log entry 91). -/
def orderedAccept (s : State) (e : Staged) : State :=
  let n := cellCtl s e.cell
  if pcGone s n then s
  else if getF s fPccOrdAreaSize (pccPage n) = 0 then arrivalSettle s n e
  else
    let s1 := settleRoom n e ((getPcc s n).staged.length) s
    if stagingOver s1 n e && e.item == 0 then arrivalSettle s1 n e
    else putPcc s1 n { getPcc s1 n with staged := (getPcc s1 n).staged ++ [e] }

/-! ### Lines at the point of coherence (R228, R232, R325) -/

/-- What a read of a 128-byte line returns: data, poison mask by column, and UNSEALED status. -/
structure LineRd where
  data : List Byte
  poison : Nat
  unsealed : Bool
  deriving DecidableEq, Repr

/-- Whether a line has a stale column. -/
def lineStale (s : State) (line : Nat) : Bool :=
  [0, 1, 2, 3].any (fun k => colStale s (128 * line + 32 * k))

/-- A pier-path read of a line at the point of coherence: staged updates settle and a buffered line
serves it; a line with a stale column returns zeros with UNSEALED status (R228, R232, R266). -/
def pocRead (s : State) (line : Nat) : LineRd × State :=
  let s0 := settleLine s line
  let n := cellCtl s0 (128 * line)
  let s1 := redWriteBack s0 n line
  if !pcGone s1 n && lineStale s1 line then
    (⟨List.replicate 128 0, 0, true⟩, bumpSat s1 fPccUnsealUnsealedReads (pccPage n))
  else
    let c := lineCols s1 line 4
    (⟨c.1, c.2.1, false⟩, c.2.2)

/-- A pier-path write of bytes within one line at the point of coherence (R228, R232, R267,
R531). -/
def pocWrite (s : State) (cell : Nat) (data : List Byte) : State :=
  let line := cell / 128
  let s0 := settleLine s line
  cellsWriteGo .pier true 5 (redWriteBack s0 (cellCtl s0 cell) line) cell data

/-- A pier-path write of poisoned data to a whole column, which takes an armed injection as any write does (R531,
R534). -/
def pocPoison (s : State) (cell : Nat) : State :=
  let line := cell / 128
  let s0 := settleLine s line
  let s1 := redWriteBack s0 (cellCtl s0 cell) line
  if writeDropped s1 cell then s1 else flipApply (colSeal s1 (cell / 32 * 32) [] true) cell .pier

/-- Whether a partition is regulated at a controller. -/
def partOn (s : State) (n part : Nat) : Bool := part != 0 && getB s fPccPartEnable (pccPage n) part

/-- Whether a request is eligible (R225). -/
def reqEligible (s : State) (n : Nat) (r : PReq) : Bool :=
  !partOn s n r.part || decide (look (getPcc s n).tokens r.part 0 > 0)

/-- Whether an express request can be served as one: the express bucket holds tokens (R226). -/
def reqExpress (s : State) (n : Nat) (r : PReq) : Bool := r.express && decide ((getPcc s n).expTok > 0)

/-- A request queued at a controller; one that has to wait for tokens is counted (R225, R238). -/
def reqAdd (s : State) (n : Nat) (r : PReq) : State :=
  if !ctlLive s n then s
  else
    let late := !reqEligible s n r && !reqExpress s n r
    let s1 := if late then bumpSat s fPccPartTokDefer (pccPage n) 1 r.part else s
    let p := getPcc s1 n
    putPcc s1 n { p with reqs := p.reqs ++ [{ r with waited := late }] }

/-- A request added to a controller (R224, R225): express for a fetch, a page-table walk, or a
volatile read of a partition with EXPRESS set (R226); `charged` is clear for the traffic that no
bucket pays for. -/
def pierAdd (s : State) (cell : Nat) (isWrite express charged : Bool) (part cols : Nat) : State :=
  reqAdd s (cellCtl s cell)
    ⟨isWrite, express, part, cols, cellBank cell, cellRow s cell, cell, s.tick, false, charged, false⟩

/-- Columns that an update of a line moves beside its own: a missed line is read, and written later (R224). -/
def redMiss (s : State) (cell : Nat) : Nat :=
  if (getPcc s (cellCtl s cell)).red.any (fun l => l.line == cell / 128) then 0 else 8

/-- A charged request of a partition. -/
def pierCharge (s : State) (cell : Nat) (isWrite express : Bool) (part cols : Nat) : State :=
  pierAdd s cell isWrite express true part cols

/-- A volatile read's request (R226). -/
def pierVolatile (s : State) (cell part cols : Nat) : State :=
  pierAdd s cell false (getB s fPccPartExpress (pccPage (cellCtl s cell)) part) true part cols

/-- The requests of an unordered update: at each controller that holds a line of its element, one column for the update
and those of a missed line (R224). PRESUMED: an update itself counts as one column (log entry 47). -/
def redCharge (s : State) (cell hi part : Nat) : State :=
  let s1 := pierCharge s cell true false part (1 + redMiss s cell)
  if hi / 128 = cell / 128 then s1 else pierCharge s1 hi true false part (1 + redMiss s hi)

/-! ### The retirement list (R622) -/

/-- A retirement-list entry (R622). -/
def retEntry (kind span unit bank block : Nat) (bist : Bool) : Nat :=
  kind % 8 + 2 ^ 3 * (span % 8) + 2 ^ 6 * (unit % 64) + 2 ^ 12 * (bank % 32) + 2 ^ 17 * (block % 2 ^ 24) + (if bist then 2 ^ 63 else 0)

/-- Kind of a retirement-list entry. -/
def retKind (e : Nat) : Nat := bits e 0 3
/-- Span of a retirement-list entry. -/
def retSpan (e : Nat) : Nat := bits e 3 3
/-- Pseudo-channel, core or port of a retirement-list entry; cores and ports stand in bits 9:6. -/
def retUnit (e : Nat) : Nat := if retKind e = 3 ∨ retKind e = 4 then bits e 6 4 else bits e 6 6
/-- Logical bank of a retirement-list entry. -/
def retBank (e : Nat) : Nat := bits e 12 5
/-- Block of a retirement-list entry, device address bits 39:16. -/
def retBlock (e : Nat) : Nat := bits e 17 24
/-- Whether a self-test made a retirement-list entry. -/
def retBist (e : Nat) : Bool := bitAt e 63
/-- Cause that an entry's unit shows in BLK_ID (R622). -/
def retCause (e : Nat) : Nat := if retBist e then 2 else 3

/-- A record of the journal written write-through into one area, unless the area's span has failed. -/
def areaWrite (line : Nat) (b : List Byte) (s : State) (a : Nat × Nat) : State :=
  if spanDown s a.1 then s else pocWrite s (cellOf s false (2 ^ 32 * a.2 + 128 * line)) b

/-- A record of the journal written to both areas while the journal is enabled (R547). DESIGN CHOICE: the records' layout is
Fenivar's own: each takes a line that the model does not say, of bytes that it does not say (log entry 115). -/
def jrnlWrite (s : State) : State :=
  if !getB s fJrnlCtrlEnable pgJrnl then s
  else
    let b := (List.range 128).map (fun i => Config.freeByte (s.free + i))
    [(0, getF s fJrnlArea0Base pgJrnl), (4, getF s fJrnlArea1Base pgJrnl)].foldl
      (areaWrite (Config.journalLine s.free % 2 ^ 25) b) { s with free := s.free + 128 }

/-- Whether a block is withdrawn from allocation, by the retirement list (R538, R622). -/
def blockWithdrawn (s : State) (da : Nat) : Bool :=
  s.pkg.boot.retList.any (fun e => retKind e == 0 && retBlock e == da / 65536)

end Sys2Proof.Machine
end

