-- ==== Sys2Proof/Machine/Translate.lean ====
section
/-!
DEFINITION. Address translation (R394 to R402): the radix walk, the checks of page-table entries,
the cached translations, and the permissions of an access.
-/
namespace Sys2Proof.Machine

/-- A page that a virtual address lies in: its leaf entry, virtual base and size. -/
structure Page where
  pte : Nat
  vbase : Nat
  size : Nat
  deriving DecidableEq, Repr

/-- Outcome of a translation: a page, or a fault with its cause and level (R404). -/
inductive Tr where
  | ok (p : Page)
  | fault (cause level : Nat)
  deriving DecidableEq, Repr

/-- Address bits of an entry. -/
def pteAddr (pte : Nat) : Nat := 4096 * (pte / 4096)
/-- Memory kind of a leaf (R397). -/
def pteKind (pte : Nat) : Nat := bits pte 5 2
/-- Decode of a leaf (R211). -/
def pteIntlv (pte : Nat) : Bool := bitAt pte 7

/-- Page size of a leaf at a level; `g64` holds below a G64 table entry. -/
def leafSize (level : Nat) (g64 : Bool) : Nat :=
  match level with
  | 0 => if g64 then 65536 else 4096
  | 1 => 2 ^ 21
  | _ => 2 ^ 30

/-- Index of a virtual address in the table of a level (R394). -/
def walkIndex (va level : Nat) (g64 : Bool) : Nat :=
  match level with
  | 0 => if g64 then va / 65536 % 32 else va / 4096 % 512
  | 1 => va / 2 ^ 21 % 512
  | 2 => va / 2 ^ 30 % 512
  | 3 => va / 2 ^ 39 % 512
  | _ => va / 2 ^ 48 % 65536

/-- Whether a table entry breaks R396. -/
def badTable (s : State) (pte level : Nat) : Bool :=
  level == 0 || (bitAt pte 8 && level != 1) || bits pte 2 6 != 0 || bitAt pte 9
    || !daOk s (pteAddr pte + (if bitAt pte 8 then 255 else 4095))

/-- Whether a leaf breaks R396. -/
def badLeaf (s : State) (pte level : Nat) (g64 : Bool) : Bool :=
  let size := leafSize level g64
  let dev := pteKind pte ≤ 1
  level ≥ 3 || bitAt pte 8 || pteAddr pte % size != 0
    || (dev && !daOk s (pteAddr pte + size - 1))
    || (pteKind pte == 3 && pteAddr pte + size > 2 ^ 28)
    || (!dev && (pteIntlv pte || bitAt pte 4))

/-- One 64-bit word of device memory read at the point of coherence under the span-local decode:
the word, whether it can be used, and the state (R226, R399). -/
def expressWord (s : State) (da : Nat) : Nat × Bool × State :=
  let cell := cellOf s false da
  let s1 := pierCharge s cell false true 0 1
  let r := pocRead s1 (cell / 128)
  let off := cell % 128
  (leNat ((r.1.data.drop off).take 8), !r.1.unsealed && !bitAt r.1.poison (off / 32), r.2)

/-- Span of virtual addresses that an entry of a level covers (R394). -/
def levelSpan (level : Nat) : Nat :=
  match level with
  | 0 => 4096 | 1 => 2 ^ 21 | 2 => 2 ^ 30 | 3 => 2 ^ 39 | _ => 2 ^ 48

/-- The first address that the entry of a level for an address covers. -/
def levelBase (va level : Nat) : Nat := va / levelSpan level * levelSpan level

/-- Whether an invalidation covers a page of an address space (R401). -/
def xinvHits (x : XinvOp) (asid vbase size : Nat) : Bool :=
  match x.kind with
  | 0 => asid == x.asid && decide (vbase < x.va + 4096 * x.pages) && decide (x.va < vbase + size)
  | 1 => asid == x.asid
  | _ => true

/-- Whether an invalidation in progress covers a cached page: the cache drops it at a moment of its own (R401). -/
def xinvRuns (s : State) (asid vbase size : Nat) : Bool :=
  match s.cx.xinv with
  | some x => xinvHits x.1 asid vbase size
  | none => false

/-! ### Table entries (R395, R396, R399) -/

/-- The table entry that a span's table-entry cache holds for an address at a level. -/
def tecFind (s : State) (span asid level va : Nat) : Option TecEntry :=
  s.cx.tec.find? (fun e => e.span == span && e.asid == asid && e.level == level && e.vbase == levelBase va level)

/-- A table entry cached for a span: one of its 4,096 entries gives way when all are in use, by a free choice. -/
def tecAdd (s : State) (e : TecEntry) : State :=
  let rest := s.cx.tec.filter (fun x => !(x.span == e.span && x.asid == e.asid && x.level == e.level && x.vbase == e.vbase))
  let mine := rest.filter (fun x => x.span == e.span)
  if mine.length < 4096 then { s with cx := { s.cx with tec := e :: rest } }
  else
    let f := freeWord s
    let out := mine[f.1.toNat % mine.length]?
    { f.2 with cx := { f.2.cx with tec := e :: rest.filter (fun x => some x != out) } }

/-- The entry of a table for an address: its value, whether it can be used, whether it came from memory, and the
state. A cached entry that no longer agrees with memory, or that an invalidation in progress covers, may be used or
not (R401, R402). -/
def walkEntry (s : State) (span asid va level tbl : Nat) (g64 : Bool) : Nat × Bool × Bool × State :=
  let r := expressWord s (tbl + 8 * walkIndex va level g64)
  match tecFind s span asid level va with
  | none => (r.1, r.2.1, true, r.2.2)
  | some e =>
    if r.2.1 && r.1 == e.pte && !xinvRuns s asid e.vbase (levelSpan level) then (e.pte, true, false, s)
    else
      let f := freeBit s
      if f.1 then (e.pte, true, false, f.2)
      else
        let q := expressWord f.2 (tbl + 8 * walkIndex va level g64)
        (q.1, q.2.1, true, q.2.2)

/-- The walk from a table of level `fuel - 1` downward; the table entries that it reads are cached. -/
def walkGo (span asid va : Nat) : Nat → State → Nat → Bool → Tr × State
  | 0, s, _, _ => (.fault 1 0, s)
  | level + 1, s, tbl, g64 =>
    let r := walkEntry s span asid va level tbl g64
    let pte := r.1
    let st := r.2.2.2
    if !r.2.1 then (.fault 4 level, st)
    else if !bitAt pte 0 then (.fault 0 level, st)
    else if bitAt pte 1 then
      if badTable st pte level then (.fault 1 level, st)
      else
        let st1 := if r.2.2.1 then tecAdd st ⟨span, asid, level, levelBase va level, pte⟩ else st
        walkGo span asid va level st1 (pteAddr pte) (bitAt pte 8)
    else if badLeaf st pte level g64 then (.fault 1 level, st)
    else if bitAt pte 9 then (.fault 3 level, st)
    else
      let size := leafSize level g64
      (.ok ⟨pte, va / size * size, size⟩, st)

/-- Whether an address is outside a context's space (R394). -/
def outOfRange (c : Ctx) (va : Nat) : Bool := c.va48 && decide (va ≥ 2 ^ 48)

/-- The walk of a context's tables for an address through a span's translation unit (R394, R399). -/
def walk (s : State) (span : Nat) (c : Ctx) (va : Nat) : Tr × State :=
  walkGo span c.asid va (if c.va48 then 4 else 5) s c.ptRoot false

/-- What the tables in memory now give for an address, no cache consulted. -/
def walkNow (s : State) (c : Ctx) (va : Nat) : Tr :=
  (walk { s with cx := { s.cx with tec := [] } } 0 c va).1

/-! ### The three levels of translation caches (R399) -/

/-- Entries of a translation cache. -/
def tlbCap : TlbHome → Nat
  | .micro _ _ => 64
  | .core _ => 1024
  | .span _ => 16384

/-- The translation of an address that a cache holds. -/
def tlbFind (s : State) (h : TlbHome) (asid va : Nat) : Option TlbEntry :=
  s.cx.tlb.find? (fun e => e.home == h && e.asid == asid && e.vbase ≤ va && va < e.vbase + e.size)

/-- Whether an entry is the one of a cache for a page. -/
def tlbIs (h : TlbHome) (asid vbase : Nat) (e : TlbEntry) : Bool := e.home == h && e.asid == asid && e.vbase == vbase

/-- A page cached; one of the cache's entries gives way when all are in use, by a free choice. No entry with V clear
is cached (R399). -/
def tlbAdd (s : State) (h : TlbHome) (asid : Nat) (p : Page) : State :=
  let new : TlbEntry := ⟨h, asid, p.vbase, p.size, p.pte⟩
  let rest := s.cx.tlb.filter (fun e => !tlbIs h asid p.vbase e)
  let mine := rest.filter (fun e => e.home == h)
  if mine.length < tlbCap h then { s with cx := { s.cx with tlb := new :: rest } }
  else
    let f := freeWord s
    let out := mine[f.1.toNat % mine.length]?
    { f.2 with cx := { f.2.cx with tlb := new :: rest.filter (fun e => some e != out) } }

/-- The page that a cache answers with. An entry that no longer agrees with the tables (`now`), or that an
invalidation in progress covers, is used or dropped by a free choice (R401, R402). -/
def tlbUse (s : State) (h : TlbHome) (asid va : Nat) (now : Tr) : Option Page × State :=
  match tlbFind s h asid va with
  | none => (none, s)
  | some e =>
    let old : Page := ⟨e.pte, e.vbase, e.size⟩
    if now = .ok old && !xinvRuns s asid e.vbase e.size then (some old, s)
    else
      let f := freeBit s
      if f.1 then (some old, f.2)
      else (none, { f.2 with cx := { f.2.cx with tlb := f.2.cx.tlb.filter (fun x => !tlbIs h asid e.vbase x) } })

/-- A page asked of a span's translation unit (R399, R412): a hit and a miss count, and a miss walks. -/
def spanTranslate (s : State) (span : Nat) (c : Ctx) (va : Nat) (now : Tr) : Tr × State :=
  let u := tlbUse s (.span span) c.asid va now
  match u.1 with
  | some p => (.ok p, bumpF u.2 fXltStlbHitCount (pgXlt span))
  | none =>
    let w := walk (bumpF (bumpF u.2 fXltWalksCount (pgXlt span)) fXltStlbMissCount (pgXlt span)) span c va
    match w.1 with
    | .ok p => (.ok p, tlbAdd w.2 (.span span) c.asid p)
    | t => (t, w.2)

/-- Translation of an address for a context by unit `u` of a core (R394 to R402): its micro-TLB, the core's TLB and the
span's translation unit are asked in turn. An address out of range starts no walk; the level of its fault is open. -/
def translate (s : State) (span core u ctx va : Nat) : Tr × State :=
  match getCtx s ctx with
  | none => (.fault 0 0, s)
  | some c =>
    if outOfRange c va then
      let f := freeWord s
      (.fault 2 (f.1.toNat % 5), f.2)
    else
      let now := walkNow s c va
      let mh := TlbHome.micro (coreNo span core) u
      let ch := TlbHome.core (coreNo span core)
      let a := tlbUse s mh c.asid va now
      match a.1 with
      | some p => (.ok p, a.2)
      | none =>
        let b := tlbUse a.2 ch c.asid va now
        match b.1 with
        | some p => (.ok p, tlbAdd b.2 mh c.asid p)
        | none =>
          let t := spanTranslate b.2 span c va now
          match t.1 with
          | .ok p => (.ok p, tlbAdd (tlbAdd t.2 ch c.asid p) mh c.asid p)
          | x => (x, t.2)

/-- Kinds of access, as a fault record numbers them (R406). -/
inductive Access where
  | read | write | both | fetch
  deriving DecidableEq, Repr

/-- Whether a leaf permits an access (R398). -/
def permits (pte : Nat) (a : Access) : Bool :=
  match a with
  | .read => bitAt pte 2
  | .write => bitAt pte 3
  | .both => bitAt pte 2 && bitAt pte 3
  | .fetch => bitAt pte 4

/-- Number of a kind of access in a fault record. -/
def accessNum : Access → Nat
  | .read => 0 | .write => 1 | .both => 2 | .fetch => 3

end Sys2Proof.Machine
end

