-- ==== Sys2Proof/Machine/Mirror.lean ====
section
/-!
DEFINITION. Mirrored ranges (R541, R542), the leaf entries that map a piece of device memory, and the effects
of a failed host port on host memory (R490, R506, R527).
-/
namespace Sys2Proof.Machine

/-! ### Leaf entries -/

/-- Device address at which a cell is reached under a decode (R211). -/
def cellAddr (s : State) (intlv : Bool) (cell : Nat) : Nat :=
  if intlv then 4096 * (cellSo cell / 4096 * 8 + cellSpan cell) + cellSo cell % 4096 else cellDa s cell

/-- A word of device memory at the point of coherence, without an effect on the state; `none` where it cannot
be used. -/
def peekWord (s : State) (da : Nat) : Option Nat :=
  let r := pocRead s (cellOf s false da / 128)
  let off := cellOf s false da % 128
  if r.1.unsealed || bitAt r.1.poison (off / 32) then none else some (leNat ((r.1.data.drop off).take 8))

/-- Entries of a table of a level, with the bytes that each covers (R394). -/
def tableShape (level : Nat) (g64 : Bool) : Nat × Nat :=
  match level with
  | 0 => if g64 then (32, 65536) else (512, 4096)
  | 1 => (512, 2 ^ 21)
  | 2 => (512, 2 ^ 30)
  | 3 => (512, 2 ^ 39)
  | _ => (65536, 2 ^ 48)

/-- A leaf entry: its virtual base, the device address of the entry, the entry and its size. -/
structure Leaf where
  va : Nat
  at_ : Nat
  pte : Nat
  size : Nat
  deriving DecidableEq, Repr

/-- The valid leaf entries below a table of level `fuel - 1`. -/
def leavesAt : Nat → State → Nat → Bool → Nat → List Leaf
  | 0, _, _, _, _ => []
  | level + 1, s, tbl, g64, va =>
    let sh := tableShape level g64
    (List.range sh.1).flatMap (fun i =>
      match peekWord s (tbl + 8 * i) with
      | none => []
      | some pte =>
        if !bitAt pte 0 then []
        else if bitAt pte 1 then
          (if badTable s pte level then [] else leavesAt level s (pteAddr pte) (bitAt pte 8) (va + i * sh.2))
        else if badLeaf s pte level g64 then []
        else [⟨va + i * sh.2, tbl + 8 * i, pte, leafSize level g64⟩])

/-- Where the leaf entry of an address stands: its device address, the entry and the page size. -/
def leafAt (va : Nat) : Nat → State → Nat → Bool → Option (Nat × Nat × Nat)
  | 0, _, _, _ => none
  | level + 1, s, tbl, g64 =>
    let a := tbl + 8 * walkIndex va level g64
    let r := expressWord s a
    if !r.2.1 || !bitAt r.1 0 then none
    else if bitAt r.1 1 then (if badTable s r.1 level then none else leafAt va level s (pteAddr r.1) (bitAt r.1 8))
    else if badLeaf s r.1 level g64 then none
    else some (a, r.1, leafSize level g64)

/-- The leaf of an address in a context's tables. -/
def ctxLeaf (s : State) (c : Ctx) (va : Nat) : Option (Nat × Nat × Nat) :=
  if c.va48 && va ≥ 2 ^ 48 then none else leafAt va (if c.va48 then 4 else 5) s c.ptRoot false

/-- The cell that a leaf of a context's tables, marked or not, maps a virtual address to. -/
def leafCell (s : State) (ctx va : Nat) : Option Nat :=
  match getCtx s ctx with
  | none => none
  | some c => match ctxLeaf s c va with
    | some l => if pteKind l.2.1 ≥ 2 then none else some (cellOf s (pteIntlv l.2.1) (pteAddr l.2.1 + va % l.2.2))
    | none => none

/-- Every leaf entry of a context. -/
def ctxLeaves (s : State) (c : Ctx) : List Leaf := leavesAt (if c.va48 then 4 else 5) s c.ptRoot false 0

/-- Whether a leaf maps the device byte of a cell. -/
def leafMaps (s : State) (cell : Nat) (l : Leaf) : Bool :=
  let a := cellAddr s (pteIntlv l.pte) cell
  decide (pteKind l.pte ≤ 1) && decide (pteAddr l.pte ≤ a) && decide (a < pteAddr l.pte + l.size)

/-- Cells of the 4 KiB pieces of a leaf's page. -/
def leafCells (s : State) (l : Leaf) : List Nat :=
  (List.range (l.size / 4096)).map (fun k => cellOf s (pteIntlv l.pte) (pteAddr l.pte + 4096 * k))

/-- Whether a leaf maps any part of a pseudo-channel's blocks. -/
def leafOnPc (s : State) (n : Nat) (l : Leaf) : Bool :=
  decide (pteKind l.pte ≤ 1) && (leafCells s l).any (fun c => cellCtl s c == n)

/-- The leaves of every context that satisfy a test, with their contexts. -/
def leavesOf (s : State) (hit : Leaf → Bool) : List (Nat × Leaf) :=
  s.cx.ctxs.flatMap (fun p => ((ctxLeaves s p.2).filter hit).map (fun l => (p.1, l)))

/-! ### The mirror table (R541) -/

/-- The four words of mirror entry `i`; zeros where it cannot be read. -/
def mirrorEntry (s : State) (i : Nat) : List Nat :=
  (List.range 4).map (fun w => (peekWord s (128 * getF s fElogMirrorBase pgElog + 32 * i + 8 * w)).getD 0)

/-- Whether a mirror entry names a device address. -/
def mirrorSpans (da : Nat) (e : List Nat) : Bool := decide (e.getD 1 0 ≤ da) && decide (da < e.getD 1 0 + e.getD 2 0)

/-- Whether a mirror entry protects a device address. -/
def mirrorCovers (da : Nat) (e : List Nat) : Bool := bitAt (e.getD 0 0) 0 && mirrorSpans da e

/-- The entry that protects a device address, the lowest of several. -/
def mirrorFor (s : State) (da : Nat) : Option (List Nat) :=
  ((List.range (getF s fElogMirrorCountEntries pgElog)).map (mirrorEntry s)).find? (mirrorCovers da)

/-- Whether an entry names a device address that no VALID entry protects (R542). -/
def mirrorInvalid (s : State) (da : Nat) : Bool :=
  (mirrorFor s da).isNone
    && ((List.range (getF s fElogMirrorCountEntries pgElog)).map (mirrorEntry s)).any (mirrorSpans da)

/-- The protected 4 KiB page, by its span-local number, that a context's address lies in. -/
def mirrorPage (s : State) (ctx va : Nat) : Option Nat :=
  match getCtx s ctx with
  | none => none
  | some c => match walkNow s c va with
    | .ok p =>
      if pteKind p.pte ≥ 2 then none
      else
        let da := cellDa s (cellOf s (pteIntlv p.pte) (pteAddr p.pte + (va - p.vbase)))
        if (mirrorFor s da).isSome then some (da / 4096) else none
    | .fault _ _ => none

/-! ### Ports (R490, R506) -/

/-- Whether the port of a function has failed. -/
def portFailed (s : State) (fn : Nat) : Bool := getF s fHifLinkState (pgHif (fn / 64)) == 3

end Sys2Proof.Machine
end

