-- ==== Sys2Proof/Machine/TileCache.lean ====
section
/-!
DEFINITION. The tile caches (R167 to R175, R319 to R325): fills, reads, merged writes with dirty
bytes, write-backs, range commands on one line, and the discard of near-bank output ranges; and the
access of one part of a 128-byte line by any engine.
-/
namespace Sys2Proof.Machine

/-- Core mark of a merged write that every core of the span sees: a flushed or write-through one. -/
def tcAllCores : Nat := 16

/-- The line of a span that holds a device line under a decode. -/
def tcFind (s : State) (span : Nat) (intlv : Bool) (line : Nat) : Option TcLine :=
  s.memo.tc.find? (fun l => l.span == span && l.intlv == intlv && l.line == line)

/-- Whether a line is the one named. -/
def tcIs (span : Nat) (intlv : Bool) (line : Nat) (l : TcLine) : Bool :=
  l.span == span && l.intlv == intlv && l.line == line

/-- The tile-cache contents with one line discarded. -/
def tcDrop (s : State) (span : Nat) (intlv : Bool) (line : Nat) : State :=
  { s with memo := { s.memo with tc := s.memo.tc.filter (fun l => !tcIs span intlv line l) } }

/-- The tile-cache contents with one line replaced or added. -/
def tcPut (s : State) (l : TcLine) : State :=
  let s1 := tcDrop s l.span l.intlv l.line
  { s1 with memo := { s1.memo with tc := l :: s1.memo.tc } }

/-- Bytes of a write laid over a line. -/
def tcOver (base : List Byte) (w : TcWrite) : List Byte :=
  base.take w.off ++ w.data ++ base.drop (w.off + w.data.length)

/-- A line with every merged write applied. -/
def tcBytes (l : TcLine) : List Byte := l.writes.foldl tcOver l.base

/-- What one core reads of a line (R168): its own writes and those visible to every core always; a
write of another core wholly or not at all, by a free choice. -/
def tcVisible (core : Nat) : List TcWrite → List Byte → State → List Byte × State
  | [], b, s => (b, s)
  | w :: r, b, s =>
    if w.core == core || w.core == tcAllCores then tcVisible core r (tcOver b w) s
    else
      let f := freeBit s
      tcVisible core r (if f.1 then tcOver b w else b) f.2

/-- Cell of a device line under a decode. -/
def lineCell (s : State) (intlv : Bool) (line : Nat) : Nat := cellOf s intlv (128 * line)

/-- Ways of a tile cache (R167). -/
def tcWays : Nat := 16

/-- Slice, one of 16, that a device line address selects by the hash (R167). -/
def tcSlice (line : Nat) : Nat := Config.tcHash line / 2048 % 16

/-- Set of a device line address, of the 2,048 in each slice: 64 MiB in lines of 128 bytes and 16 ways (R13, R167). -/
def tcSet (line : Nat) : Nat := 2048 * tcSlice line + Config.tcHash line % 2048

/-- Dirty bytes of the four columns of a line written at the point of coherence with byte enables
(R321); a column marked poisoned is written poisoned (R531, R532). -/
def tcBackCols (l : TcLine) (data : List Byte) (cell : Nat) : Nat → State → State
  | 0, s => s
  | k + 1, s =>
    let s1 := tcBackCols l data cell k s
    let m := bits l.dirty (32 * k) 32
    if m = 0 then s1
    else if bitAt l.poison k then pocPoison s1 (cell + 32 * k)
    else
      let s2 := settleLine s1 (cell / 128)
      let s3 := redWriteBack s2 (cellCtl s2 cell) (cell / 128)
      let s4 := colMerge s3 (cell / 32 + k) ((data.drop (32 * k)).take 32) m
      flipApply s4 (cell + 32 * k) .pier

/-- A dirty line written back and kept clean; its merged writes become visible to every core. -/
def tcBack (s : State) (l : TcLine) : State :=
  if l.dirty = 0 then s
  else
    let cell := lineCell s l.intlv l.line
    let data := tcBytes l
    let s1 := bumpF (pierAdd s cell true false false 0 4) fTcWritebackCount (pgTc l.span)
    let s2 := tcBackCols l data cell 4 s1
    tcPut s2 { l with base := data, writes := [], dirty := 0 }

/-- Room for one more line in its set of a span's tile cache: where all the ways are in use, one of their lines gives way by
a free choice, written back if dirty (R167). Which set the hash selects is open (log entry 99). -/
def tcRoom (s : State) (span line : Nat) : State :=
  let all := s.memo.tc.filter (fun l => l.span == span)
  let mine := all.filter (fun l => tcSet l.line == tcSet line)
  if all.length < tcWays || mine.length < tcWays then s
  else
    let f := freeWord s
    match mine[f.1.toNat % mine.length]? with
    | some l => tcDrop (tcBack f.2 l) span l.intlv l.line
    | none => f.2

/-- A fill from the point of coherence; an UNSEALED line is not allocated (R266). -/
def tcFill (s : State) (span : Nat) (intlv : Bool) (line part : Nat) (express : Bool) : LineRd × State :=
  let cell := lineCell s intlv line
  let s1 := bumpF (pierCharge s cell false express part 4) fTcMissCount (pgTc span)
  let r := pocRead s1 (cell / 128)
  if r.1.unsealed then r
  else (r.1, tcPut (tcRoom r.2 span line) ⟨span, intlv, line, r.1.data, [], 0, r.1.poison⟩)

/-- A read of a line through the tile cache of a span (R325). -/
def tcRead (s : State) (span core : Nat) (intlv : Bool) (line part : Nat) (express : Bool) : LineRd × State :=
  match tcFind s span intlv line with
  | none => tcFill s span intlv line part express
  | some l =>
    let v := tcVisible core l.writes l.base (bumpF s fTcHitCount (pgTc span))
    (⟨v.1, l.poison, false⟩, v.2)

/-- Mask of `n` bytes from offset `off` of a line. -/
def byteMask (off n : Nat) : Nat := (2 ^ n - 1) * 2 ^ off

/-- Columns of a line whose every byte lies in a mask. -/
def fullCols (mask : Nat) : Nat :=
  (List.range 4).foldl (fun acc k =>
    if bits mask (32 * k) 32 = 2 ^ 32 - 1 then acc + 2 ^ k else acc) 0

/-- Bytes merged into a held line by a core; whole columns written lose their poison mark. -/
def tcMerge (l : TcLine) (core off : Nat) (data : List Byte) (dirty : Bool) : TcLine :=
  let m := byteMask off data.length
  { l with
    writes := l.writes ++ [⟨core, off, data⟩]
    dirty := if dirty then l.dirty ||| m else l.dirty
    poison := l.poison - (l.poison &&& fullCols m) }

/-- A write-back store of bytes within one line (R167). A miss allocates the line by a fill; a line
whose fill is UNSEALED is not allocated, and the bytes go to the point of coherence. -/
def tcWrite (s : State) (span core : Nat) (intlv : Bool) (line part off : Nat) (data : List Byte) : State :=
  match tcFind s span intlv line with
  | some l => tcPut (bumpF s fTcHitCount (pgTc span)) (tcMerge l core off data true)
  | none =>
    let f := tcFill s span intlv line part false
    match tcFind f.2 span intlv line with
    | some l => tcPut f.2 (tcMerge l core off data true)
    | none => pocWrite f.2 (lineCell f.2 intlv line + off) data

/-- A write-through store of bytes within one line (R167): the controller accepts it, and a copy in
the span's own cache is updated. -/
def tcWriteThrough (s : State) (span : Nat) (intlv : Bool) (line part off : Nat) (data : List Byte) : State :=
  let cell := lineCell s intlv line + off
  let s1 := pocWrite (pierCharge s cell true false part ((off % 32 + data.length + 31) / 32)) cell data
  match tcFind s1 span intlv line with
  | some l => tcPut s1 (tcMerge l tcAllCores off data false)
  | none => s1

/-- A write laid into the newest earlier one of its core that it meets or overlaps, newest first, unless a later write of
its bytes stands between them. -/
def tcJoinInto (w : TcWrite) : List TcWrite → Option (List TcWrite)
  | [] => none
  | v :: r =>
    let we := w.off + w.data.length
    let ve := v.off + v.data.length
    if v.core == w.core && v.off ≤ we && w.off ≤ ve then
      some ((if v.off ≤ w.off then ⟨v.core, v.off, tcOver v.data ⟨v.core, w.off - v.off, w.data⟩⟩
        else ⟨v.core, w.off, w.data ++ v.data.drop (we - v.off)⟩) :: r)
    else if v.off < we && w.off < ve then none
    else (tcJoinInto w r).map (v :: ·)

/-- The last merged write of a line made one with the write of its transaction that it continues: the part of one
transaction in a line is one write (R168, R320). -/
def tcJoinWrites (ws : List TcWrite) : List TcWrite :=
  match ws.reverse with
  | [] => []
  | w :: r => match tcJoinInto w r with
    | some l => l.reverse
    | none => ws

/-- The last write of a held line joined with the transaction that it continues. -/
def tcJoin (s : State) (span : Nat) (intlv : Bool) (line : Nat) : State :=
  match tcFind s span intlv line with
  | some l => tcPut s { l with writes := tcJoinWrites l.writes }
  | none => s

/-- Range commands (R169). -/
inductive RangeOp where
  | flush | inval | flinv
  deriving DecidableEq, Repr

/-- A range command's step on one held line (R169, R171); `whole` holds when the line lies wholly
inside the range. -/
def tcRange (s : State) (op : RangeOp) (whole : Bool) (span : Nat) (intlv : Bool) (line : Nat) : State :=
  let s1 := bumpF s fTcRangeLinesCount (pgTc span)
  match tcFind s1 span intlv line with
  | none => s1
  | some l => match op with
    | .flush => tcBack s1 l
    | .flinv => tcDrop (tcBack s1 l) span intlv line
    | .inval => if whole then tcDrop s1 span intlv line else tcDrop (tcBack s1 l) span intlv line

/-- Every dirty line of a span written back (R175). -/
def tcFlushAll (s : State) (span : Nat) : State :=
  s.memo.tc.foldl (fun acc l => if l.span == span then tcBack acc l else acc) s

/-- Dirty lines held for a span. -/
def tcDirtyLines (s : State) (span : Nat) : Nat :=
  (s.memo.tc.filter (fun l => l.span == span && l.dirty != 0)).length

/-- The lines of one output range discarded in every tile cache; each dirty one is counted in the
page of the span that held it (R172). `inside` says whether a line lies in the range. -/
def tcDiscard (s : State) (inside : Bool → Nat → Bool) : State :=
  let hit := s.memo.tc.filter (fun l => inside l.intlv l.line)
  let s1 := { s with memo := { s.memo with tc := s.memo.tc.filter (fun l => !inside l.intlv l.line) } }
  hit.foldl (fun acc l => if l.dirty = 0 then acc else bumpF acc fTcNbDiscardCount (pgTc l.span)) s1

/-! ### One access of one line by an engine -/

/-- Why an access stops: an error code of the issuing command with the address it arose at, or a
translation fault. -/
inductive Stop where
  | code (c va : Nat)
  | fault (cause level va : Nat) (acc : Access)
  deriving DecidableEq, Repr

/-- The engine that accesses memory: span, core, its unit as a micro-TLB numbers it, context, volatile or write-through,
permission it needs, and the codes that it raises for a missing permission, a refused kind and poison. -/
structure Agent where
  span : Nat
  core : Nat
  unit : Nat
  ctx : Nat
  vol : Bool
  acc : Access
  prot : Nat
  attr : Nat
  pois : Nat
  unsealed : Nat
  deriving DecidableEq, Repr

/-- Result of reading bytes. -/
inductive RdRes where
  | bytes (b : List Byte)
  | stop (x : Stop)
  deriving DecidableEq, Repr

/-- The device address of a virtual address in a page. -/
def pageDa (p : Page) (va : Nat) : Nat := pteAddr p.pte + (va - p.vbase)

/-- The byte that the package itself posted last to an address of host memory, since the host's last signal: what is
older the host may have overwritten before it signalled (R333). -/
def hostLast (s : State) (x : HostAddr) : Option Byte :=
  ((s.memo.host.drop s.memo.hostOld).reverse.find? (fun p => p.1 = x)).map (·.2)

/-- The host has signalled: its writes to host memory before that may stand over every byte that the package posted
(R333). -/
def hostSpoke (s : State) : State := { s with memo := { s.memo with hostOld := s.memo.host.length } }

/-- Bytes of host memory (R322, R325): those that the package posted there, and free ones where it posted none. -/
def hostBytes (fn : Nat) (pasid : Option Nat) : Nat → State → Nat → List Byte × State
  | 0, s, _ => ([], s)
  | n + 1, s, addr =>
    let f : Byte × State := match hostLast s ⟨fn, pasid, addr⟩ with
      | some b => (b, s)
      | none => freeByte s
    let r := hostBytes fn pasid n f.2 (addr + 1)
    (f.1 :: r.1, r.2)

/-- A line of a device page read for an engine, through the tile cache or at the point of coherence; fetches and header
reads are express (R199, R226, R397). -/
def lineAccess (s : State) (g : Agent) (p : Page) (va : Nat) : LineRd × State :=
  let da := pageDa p va
  let line := da / 128
  if pteKind p.pte == 1 || g.vol then
    let cell := lineCell s (pteIntlv p.pte) line
    pocRead (if g.acc == .fetch then pierCharge s cell false true 0 4 else pierVolatile s cell (ctxPart s g.ctx) 4) (cell / 128)
  else tcRead s g.span g.core (pteIntlv p.pte) line (if g.acc == .fetch then 0 else ctxPart s g.ctx) (g.acc == .fetch)

/-- A missing permission or a refused memory kind of an access, as the code raised (R398, R199). -/
def pageRefuses (g : Agent) (p : Page) : Option Nat :=
  if !permits p.pte g.acc then some g.prot
  else if pteKind p.pte == 3 || (pteKind p.pte == 2 && g.acc == .both) then some g.attr
  else none

/-- The last line that a run of reads obtained, so that one transaction reads it once (R320). -/
structure LineMemo where
  vline : Nat
  rd : LineRd
  deriving DecidableEq, Repr

/-- Function bound to a context (R410). -/
def ctxFunc (s : State) (ctx : Nat) : Nat := match getCtx s ctx with | some c => c.func | none => 0

/-- PASID that a context's host requests carry (R410). -/
def ctxPasid (s : State) (ctx : Nat) : Option Nat :=
  match getCtx s ctx with | some c => if c.pasidEn then some c.pasid else none | none => none

/-- A read of host memory by a function: it fails on a failed port, and where HOST_READ_ERROR makes it fail (R527). -/
def hostRead (s : State) (fn : Nat) (pasid : Option Nat) (addr n : Nat) : Option (List Byte) × State :=
  if portFailed s fn then (none, s)
  else match s.ho.failIn with
    | some 0 => (none, { s with ho := { s.ho with failIn := none } })
    | some (k + 1) =>
      let h := hostBytes fn pasid n { s with ho := { s.ho with failIn := some k } } addr
      (some h.1, h.2)
    | none => let h := hostBytes fn pasid n s addr; (some h.1, h.2)

/-- The page of an address for an engine: the one that its access already uses, where it lies in that, or a
translation, so that one access uses one translation of a page (R402). -/
def pageFor (s : State) (g : Agent) (pg : Option Page) (va : Nat) : Tr × State :=
  match pg with
  | some p => if p.vbase ≤ va ∧ va < p.vbase + p.size then (.ok p, s) else translate s g.span g.core g.unit g.ctx va
  | none => translate s g.span g.core g.unit g.ctx va

/-- Raw bytes of a device line, as a merge with a stale column takes them (R267). -/
def lineRaw (s : State) (cell : Nat) : List Byte := cellRead s.memo.mem (cell / 128 * 128) 128

/-- `n` bytes within one 128-byte line of a page read for an engine (R201, R204, R325). An agent whose code for an
UNSEALED line is 0 merges: it takes the raw bytes of such a line (R267). -/
def readPart (s : State) (g : Agent) (m : Option LineMemo) (p : Page) (va n : Nat) : RdRes × Option LineMemo × State :=
  match pageRefuses g p with
  | some c => (.stop (.code c va), none, s)
  | none =>
    if pteKind p.pte == 2 then
      let h := hostRead s (ctxFunc s g.ctx) (ctxPasid s g.ctx) (pageDa p va) n
      match h.1 with
      | some b => (.bytes b, none, h.2)
      | none => (.stop (.code 0x31 va), none, h.2)
    else
      let r : LineRd × State := match m with
        | some x => if x.vline == va / 128 then (x.rd, s) else lineAccess s g p va
        | none => lineAccess s g p va
      let off := va % 128
      let cols := (List.range 4).any (fun k =>
        bitAt r.1.poison k && decide (off < 32 * k + 32) && decide (32 * k < off + n))
      if r.1.unsealed then
        if g.unsealed = 0 then
          (.bytes (((lineRaw r.2 (cellOf r.2 (pteIntlv p.pte) (pageDa p va))).drop off).take n), some ⟨va / 128, r.1⟩, r.2)
        else (.stop (.code g.unsealed va), none, r.2)
      else if cols then (.stop (.code g.pois va), none, r.2)
      else (.bytes ((r.1.data.drop off).take n), some ⟨va / 128, r.1⟩, r.2)

/-- Bytes read from a virtual address over at most `fuel` lines. -/
def readVaGo (g : Agent) : Nat → State → Option LineMemo → Option Page → Nat → Nat → RdRes × Option LineMemo × State
  | 0, s, m, _, _, _ => (.bytes [], m, s)
  | k + 1, s, m, pg, va, n =>
    if n = 0 then (.bytes [], m, s)
    else if va ≥ 2 ^ 64 then (.stop (.code g.prot va), m, s)
    else
      let t := pageFor s g pg va
      match t.1 with
      | .fault c l => (.stop (.fault c l va g.acc), none, t.2)
      | .ok p =>
        let w := min n (128 - va % 128)
        let r := readPart t.2 g m p va w
        match r.1 with
        | .stop x => (.stop x, r.2)
        | .bytes b =>
          let q := readVaGo g k r.2.2 r.2.1 (some p) (va + w) (n - w)
          match q.1 with
          | .stop x => (.stop x, q.2)
          | .bytes c => (.bytes (b ++ c), q.2)

/-- Bytes read from a virtual address. -/
def readVa (s : State) (g : Agent) (m : Option LineMemo) (va n : Nat) : RdRes × Option LineMemo × State :=
  readVaGo g (n / 128 + 2) s m none va n

/-- Bytes posted to host memory, with the function and PASID that carry them (R336, R410); on a failed port they are
dropped (R527). -/
def hostPost (s : State) (fn : Nat) (pasid : Option Nat) (addr : Nat) (data : List Byte) : State :=
  if portFailed s fn then s
  else { s with memo := { s.memo with
      host := s.memo.host ++ data.zipIdx.map (fun p => (⟨fn, pasid, addr + p.2⟩, p.1)) } }

/-- Bytes within one line of a page written for an engine (R199 to R201); `join` says that they continue the
transaction of the engine's last write to the line (R320). -/
def writePart (s : State) (g : Agent) (p : Page) (va : Nat) (data : List Byte) (join : Bool) : Option Stop × State :=
  match pageRefuses g p with
  | some c => (some (.code c va), s)
  | none =>
    let da := pageDa p va
    if pteKind p.pte == 2 then (none, hostPost s (ctxFunc s g.ctx) (ctxPasid s g.ctx) da data)
    else if pteKind p.pte == 1 || g.vol then
      (none, tcWriteThrough s g.span (pteIntlv p.pte) (da / 128) (ctxPart s g.ctx) (da % 128) data)
    else
      let s1 := tcWrite s g.span g.core (pteIntlv p.pte) (da / 128) (ctxPart s g.ctx) (da % 128) data
      (none, if join then tcJoin s1 g.span (pteIntlv p.pte) (da / 128) else s1)

/-- Bytes written from a virtual address over at most `fuel` lines; a page that cannot be written
stops the write before its bytes. -/
def writeVaGo (g : Agent) : Nat → State → Option Page → Nat → List Byte → Bool → Option Stop × State
  | 0, s, _, _, _, _ => (none, s)
  | k + 1, s, pg, va, data, join =>
    if data.isEmpty then (none, s)
    else if va ≥ 2 ^ 64 then (some (.code g.prot va), s)
    else
      let t := pageFor s g pg va
      match t.1 with
      | .fault c l => (some (.fault c l va g.acc), t.2)
      | .ok p =>
        let w := 128 - va % 128
        let r := writePart t.2 g p va (data.take w) join
        match r.1 with
        | some x => (some x, r.2)
        | none => writeVaGo g k r.2 (some p) (va + w) (data.drop w) false

/-- Bytes written from a virtual address. -/
def writeVa (s : State) (g : Agent) (va : Nat) (data : List Byte) (join : Bool := false) : Option Stop × State :=
  writeVaGo g (data.length / 128 + 2) s none va data join

end Sys2Proof.Machine
end

