-- ==== Sys2Proof/Machine/Commands.lean ====
section
/-!
DEFINITION. Command words (R103, R121, R152, R160, R169, R187, R281): field readers, the operand
areas of local memory, the checks at decode in the order of R106, and the nominal byte counts of
R114.
-/
namespace Sys2Proof.Machine

/-- The four words of a command (R103). -/
structure Words where
  w0 : Nat
  w1 : Nat
  w2 : Nat
  w3 : Nat
  deriving DecidableEq, Repr

/-- Words of a held command. -/
def cmdWords (c : QCmd) : Words := ⟨c.w0, c.w1, c.w2, c.w3⟩

/-- OPCODE (R103). -/
def wOp (w : Words) : Nat := bits w.w0 0 8
/-- PRED. -/
def wPred (w : Words) : Nat := bits w.w0 8 4
/-- PINV. -/
def wPinv (w : Words) : Bool := bitAt w.w0 12
/-- SOS. -/
def wSos (w : Words) : Bool := bitAt w.w0 13
/-- SIGEN. -/
def wSigen (w : Words) : Bool := bitAt w.w0 14
/-- SIGBYTES. -/
def wSigbytes (w : Words) : Bool := bitAt w.w0 15
/-- SCOPE. -/
def wScope (w : Words) : Nat := bits w.w0 16 2
/-- SIGTALLY. -/
def wSigtally (w : Words) : Nat := bits w.w0 18 7
/-- SIGREMOTE. -/
def wSigremote (w : Words) : Bool := bitAt w.w0 25
/-- SIGSPAN. -/
def wSigspan (w : Words) : Nat := bits w.w0 26 3
/-- SIGCORE. -/
def wSigcore (w : Words) : Nat := bits w.w0 29 4
/-- OPFLAGS. -/
def wFlags (w : Words) : Nat := bits w.w0 40 8
/-- SIGINC. -/
def wSiginc (w : Words) : Nat := bits w.w0 48 16
/-- One flag of OPFLAGS, by its bit in word 0. -/
def wFlag (w : Words) (bit : Nat) : Bool := bitAt w.w0 bit

/-! ### Local-memory operand areas (R146, R153, R160) -/

/-- An operand matrix in a slot's window: byte base, stored rows, elements per row, row stride in
64-byte units, format and scale mode. -/
structure Mat where
  base : Nat
  rows : Nat
  cols : Nat
  str : Nat
  fmt : Fmt
  scm : Nat
  deriving DecidableEq, Repr

/-- First byte of a row. -/
def matRow (m : Mat) (r : Nat) : Nat := m.base + r * m.str * 64
/-- Bytes of a row. -/
def matRowBytes (m : Mat) : Nat := packedBytes m.fmt m.cols
/-- Blocks of a row. -/
def matBlocks (m : Mat) : Nat :=
  if m.scm = 0 then 0 else (m.cols + scmBlock m.scm - 1) / scmBlock m.scm
/-- First byte of the scale plane (R153, R160). -/
def matPlane (m : Mat) : Nat :=
  if m.str = 0 then m.base + (matRowBytes m + 63) / 64 * 64 else m.base + m.rows * m.str * 64
/-- First byte of the tensor scale of an NS16 operand. -/
def matTs (m : Mat) : Nat := (matPlane m + m.rows * matBlocks m + 3) / 4 * 4

/-- Byte ranges (first, length) that an operand occupies. -/
def matRanges (m : Mat) : List (Nat × Nat) :=
  (List.range m.rows).map (fun r => (matRow m r, matRowBytes m))
    ++ (if m.scm = 0 then [] else [(matPlane m, m.rows * matBlocks m)])
    ++ (if m.scm = 2 then [(matTs m, 4)] else [])

/-- Whether two byte ranges share a byte. -/
def rangeMeets (a b : Nat × Nat) : Bool :=
  decide (a.1 < b.1 + b.2) && decide (b.1 < a.1 + a.2)

/-- Byte ranges of a result that a command writes: its rows and its scale plane (R155). -/
def matWrites (m : Mat) : List (Nat × Nat) :=
  (List.range m.rows).map (fun r => (matRow m r, matRowBytes m))
    ++ (if m.scm = 0 then [] else [(matPlane m, m.rows * matBlocks m)])

/-- Whether the bytes written for a result meet an operand (R155). -/
def matHits (d m : Mat) : Bool := (matWrites d).any (fun x => (matRanges m).any (rangeMeets x))

/-- Whether an operand lies within a window of `win` bytes. -/
def matInside (win : Nat) (m : Mat) : Bool := (matRanges m).all (fun r => r.1 + r.2 ≤ win)

/-- Bytes of the window of a slot (R146, R379). -/
def windowBytes (s : State) (key : Nat) : Nat :=
  match getCtx s (slotCtx s key) with | some c => 65536 * c.win | none => 0

/-! ### Operands of MX and VX commands -/

/-- Format of a code, FP32 for a reserved one (which decode has refused). -/
def fmtOr (code : Nat) : Fmt := (fmtOfCode code).getD .fp32

/-- `mx.mma` dimensions (R152). -/
def mxM (w : Words) : Nat := bits w.w3 0 7 + 1
/-- N of `mx.mma`. -/
def mxN (w : Words) : Nat := bits w.w3 7 7 + 1
/-- K of `mx.mma`. -/
def mxK (w : Words) : Nat := bits w.w3 14 14 + 1
/-- CZERO. -/
def mxCzero (w : Words) : Bool := wFlag w 40
/-- DINT32. -/
def mxDint (w : Words) : Bool := wFlag w 41
/-- Operand A (R153). -/
def mxA (w : Words) : Mat :=
  ⟨bits w.w1 0 17 * 64, mxM w, mxK w, bits w.w2 17 9, fmtOr (bits w.w3 28 4), bits w.w3 40 2⟩
/-- Operand B. -/
def mxB (w : Words) : Mat :=
  ⟨bits w.w1 17 17 * 64, mxN w, mxK w, bits w.w2 26 9, fmtOr (bits w.w3 32 4), bits w.w3 42 2⟩
/-- Operand C: FP32 or INT32, 4 bytes an element. -/
def mxC (w : Words) : Mat := ⟨bits w.w1 34 17 * 64, mxM w, mxN w, bits w.w2 35 9, .fp32, 0⟩
/-- Operand D; INT32 elements take the place of FP32 ones. -/
def mxD (w : Words) : Mat :=
  ⟨bits w.w2 0 17 * 64, mxM w, mxN w, bits w.w2 35 9, fmtOr (bits w.w3 36 4), bits w.w3 44 2⟩

/-- The pairing that an `mx.mma` matches (R78). -/
def mxPair (w : Words) : Option (Nat × Join × Nat) :=
  pairing (mxA w).fmt (mxA w).scm (mxB w).fmt (mxB w).scm

/-- Twice the cycles per K step of a pairing row (R151). -/
def mxRate2 (row : Nat) : Nat :=
  match row with | 1 => 1 | 2 => 1 | 3 => 2 | 4 => 2 | 5 => 2 | 6 => 4 | 7 => 4 | _ => 32

/-- VX columns, rows and FUNC (R160). -/
def vxCols (w : Words) : Nat := bits w.w2 0 16
/-- ROWS. -/
def vxRows (w : Words) : Nat := bits w.w2 16 12
/-- FUNC. -/
def vxFunc (w : Words) : Nat := bits w.w3 50 4
/-- IMM. -/
def vxImm (w : Words) : Nat := bits w.w3 0 32
/-- B_ROW. -/
def vxBrow (w : Words) : Bool := wFlag w 40

/-- Whether a VX opcode reads A. -/
def vxHasA (op : Nat) : Bool := op != 0x68
/-- Whether a VX opcode reads B. -/
def vxHasB (op : Nat) : Bool := (0x60 ≤ op && op ≤ 0x66) || op == 0x72 || op == 0x79
/-- Whether a VX opcode reduces rows. -/
def vxReduces (op : Nat) : Bool := op == 0x6F || op == 0x70

/-- Elements of FP32 width per row of a VX command; INT64 elements count twice. -/
def vxWide (w : Words) : Nat := if wOp w = 0x79 ∧ vxFunc w = 1 then vxCols w * 2 else vxCols w

/-- Operand A: one stored row when its stride is 0. -/
def vxA (w : Words) : Mat :=
  let str := bits w.w2 28 9
  ⟨bits w.w1 0 17 * 64, if str = 0 then 1 else vxRows w, vxWide w, str, fmtOr (bits w.w3 32 4), bits w.w3 44 2⟩
/-- Operand B: one row of ROWS elements under B_ROW. -/
def vxB (w : Words) : Mat :=
  let str := bits w.w2 37 9
  let base := bits w.w1 17 17 * 64
  let f := fmtOr (bits w.w3 36 4)
  if vxBrow w then
    ⟨base, 1, if wOp w = 0x79 ∧ vxFunc w = 1 then vxRows w * 2 else vxRows w, 0, f, bits w.w3 46 2⟩
  else ⟨base, if str = 0 then 1 else vxRows w, vxWide w, str, f, bits w.w3 46 2⟩
/-- Operand D: one row of ROWS elements for a reduction, transposed for `vx.tr`. -/
def vxD (w : Words) : Mat :=
  let base := bits w.w1 34 17 * 64
  let f := fmtOr (bits w.w3 40 4)
  let scm := bits w.w3 48 2
  if vxReduces (wOp w) then ⟨base, 1, vxRows w, 0, f, scm⟩
  else if wOp w = 0x71 then ⟨base, vxCols w, vxRows w, bits w.w2 46 9, f, scm⟩
  else ⟨base, vxRows w, vxWide w, bits w.w2 46 9, f, scm⟩

/-! ### Decode checks -/

/-- Error codes of R86 and R136. -/
def eFmtReserved : Nat := 0x01
/-- FMT_SCALE. -/
def eFmtScale : Nat := 0x02
/-- FMT_PAIR. -/
def eFmtPair : Nat := 0x03
/-- FMT_LAYOUT. -/
def eFmtLayout : Nat := 0x04
/-- FMT_ENGINE. -/
def eFmtEngine : Nat := 0x05
/-- FMT_OUTPUT. -/
def eFmtOutput : Nat := 0x06
/-- OPC_RESERVED. -/
def eOpcReserved : Nat := 0x10
/-- ENGINE_MISMATCH. -/
def eEngineMismatch : Nat := 0x11
/-- CMD_FIELD. -/
def eCmdField : Nat := 0x12
/-- ABSENT_UNIT. -/
def eAbsentUnit : Nat := 0x13
/-- SIG_SCOPE. -/
def eSigScope : Nat := 0x14
/-- WAIT_TIMEOUT. -/
def eWaitTimeout : Nat := 0x15
/-- FETCH_POISON. -/
def eFetchPoison : Nat := 0x16
/-- FETCH_PROT. -/
def eFetchProt : Nat := 0x17
/-- LAUNCH_HDR. -/
def eLaunchHdr : Nat := 0x18
/-- DESC_INVALID. -/
def eDescInvalid : Nat := 0x20
/-- BOX_INVALID. -/
def eBoxInvalid : Nat := 0x21
/-- DMA_PROT. -/
def eDmaProt : Nat := 0x22
/-- DMA_POISON. -/
def eDmaPoison : Nat := 0x23
/-- DMA_ATTR. -/
def eDmaAttr : Nat := 0x24
/-- DMA_LOCAL. -/
def eDmaLocal : Nat := 0x25
/-- UNSEALED_READ. -/
def eUnsealedRead : Nat := 0x26
/-- ROW_PLACE. -/
def eRowPlace : Nat := 0x27
/-- NB_PARAM. -/
def eNbParam : Nat := 0x28
/-- NB_PLACE. -/
def eNbPlace : Nat := 0x29
/-- NB_PROT. -/
def eNbProt : Nat := 0x2A
/-- NB_ATTR. -/
def eNbAttr : Nat := 0x2B
/-- NB_POISON. -/
def eNbPoison : Nat := 0x2C
/-- XLATE_FATAL (R409). -/
def eXlateFatal : Nat := 0x30
/-- HOST_ERR. -/
def eHostErr : Nat := 0x31
/-- SUB_INVALID. -/
def eSubInvalid : Nat := 0x32
/-- SUB_CTX. -/
def eSubCtx : Nat := 0x33
/-- LOCKED_CORE. -/
def eLockedCore : Nat := 0x34
/-- LM_POISON. -/
def eLmPoison : Nat := 0x35
/-- ITEM_FAILED. -/
def eItemFailed : Nat := 0x36
/-- JRNL_FULL. -/
def eJrnlFull : Nat := 0x37
/-- LAUNCH_ABORTED. -/
def eLaunchAborted : Nat := 0x38

/-- Engine whose class an opcode lies in: 5 the common class, 6 reserved opcodes (R104). -/
def opClass (op : Nat) : Nat :=
  match op / 32 with | 0 => 5 | 1 => 0 | 2 => 1 | 3 => 2 | 4 => 3 | 5 => 4 | _ => 6

/-- Opcodes that are defined (R121, R152, R162, R169, R186, R292). -/
def opDefined (op : Nat) : Bool :=
  op ≤ 0x08 || (0x20 ≤ op && op ≤ 0x22) || op == 0x40 || (0x60 ≤ op && op ≤ 0x72) || op == 0x79
    || (0x80 ≤ op && op ≤ 0x84) || (0x9C ≤ op && op ≤ 0x9E) || (0xA0 ≤ op && op ≤ 0xA9)

/-- Whether every bit of a word outside the listed ranges (low bit, width) is zero. -/
def onlyBits (w : Nat) (used : List (Nat × Nat)) : Bool :=
  used.foldl (fun acc r => acc - bits acc r.1 r.2 * 2 ^ r.1) w == 0

/-- Gathers and scatters. -/
def opIndexed (op : Nat) : Bool := op == 0x21 || op == 0x81 || op == 0x83
/-- Commands with a box record field. -/
def opBoxed (op : Nat) : Bool := op == 0x20 || op == 0x80 || op == 0x82
/-- Reducer stores. -/
def opReduces (op : Nat) : Bool := op == 0x82 || op == 0x83
/-- NB opcodes that read local operands beside their parameter record. -/
def nbHasVec (op func : Nat) : Bool :=
  op == 0xA1 || op == 0xA2 || op == 0xA3 || op == 0xA6 || (op == 0xA5 && func == 1)
/-- NB opcodes with drained results (R292). -/
def nbDrains (op func : Nat) : Bool :=
  op == 0xA1 || op == 0xA3 || op == 0xA6 || (op == 0xA5 && func == 0)

/-- Ranges of OPFLAGS that an opcode defines. -/
def usedFlags (w : Words) : List (Nat × Nat) :=
  let op := wOp w
  if op == 0x40 then [(40, 2)]
  else if vxHasB op then [(40, 1)]
  else if op == 0x20 then [(40, 2)]
  else if op == 0x21 then [(41, 2)]
  else if op == 0x22 || op == 0x84 then [(41, 1)]
  else if op == 0x80 then [(40, 2)]
  else if op == 0x81 then [(41, 2)]
  else if op == 0x82 then [(40, 2), (43, 1)]
  else if op == 0x83 then [(41, 3)]
  else if nbDrains op (bits w.w2 60 4) then [(40, 2)]
  else if op == 0xA8 then [(42, 1)]
  else []

/-- Ranges of words 1 to 3 that an opcode defines. DEDUCED: an NB opcode with local operands uses VPITCH also where it reads
only their row 0, so that R105 does not refuse a value there (R281: log entry 101). -/
def usedWords (w : Words) : List (Nat × Nat) × List (Nat × Nat) × List (Nat × Nat) :=
  let op := wOp w
  if op == 0x02 then ([(0, 55)], [(0, 32)], [])
  else if op == 0x03 then ([(0, 48)], [], [])
  else if op == 0x04 then ([(0, 55)], [], [])
  else if op == 0x05 then ([(0, 5)], [], [])
  else if op == 0x06 then ([(0, 7), (8, 3)], [(0, 23)], [(0, 64)])
  else if op == 0x07 then ([(0, 16)], [], [])
  else if op == 0x08 then ([(0, 11)], [(0, 48)], [])
  else if op == 0x40 then ([(0, 51)], [(0, 44)], [(0, 46)])
  else if 0x60 ≤ op && op ≤ 0x79 then
    let immU := op == 0x64 || op == 0x68
    let fnU := op == 0x6E || op == 0x6F || op == 0x79
    ((if vxHasA op then [(0, 17)] else []) ++ (if vxHasB op then [(17, 17)] else []) ++ [(34, 17)],
      [(0, 28), (46, 9)] ++ (if vxHasA op then [(28, 9)] else []) ++ (if vxHasB op then [(37, 9)] else []),
      (if immU then [(0, 32)] else []) ++ (if vxHasA op then [(32, 4), (44, 2)] else [])
        ++ (if vxHasB op then [(36, 4), (46, 2)] else []) ++ [(40, 4), (48, 2)]
        ++ (if fnU then [(50, 4)] else []))
  else if op == 0x22 || op == 0x84 then ([(0, 64)], [(0, 23)], [(0, 24)])
  else if 0x9C ≤ op && op ≤ 0x9E then ([(0, 64)], [(0, 40)], [])
  else if opIndexed op then
    ([(0, 64)], [(0, 35), (40, 24)] ++ (if opReduces op then [(35, 4)] else []),
      if wFlag w 42 then [(0, 23)] else [(0, 64)])
  else if opBoxed op then
    ([(0, 64)], [(0, 32)] ++ (if opReduces op then [(35, 4)] else [])
      ++ (if wFlag w 40 then [(40, 17)] else []), [])
  else if 0xA1 ≤ op && op ≤ 0xA9 then
    let fn := bits w.w2 60 4
    ([(0, 37)] ++ (if nbHasVec op fn then [(37, 17)] else []),
      (if nbHasVec op fn then [(0, 26)] else []) ++ [(41, 16)]
        ++ (if op == 0xA1 || op == 0xA6 then [(57, 3)] else []) ++ [(60, 4)],
      if nbDrains op fn then [(0, 64)] else [])
  else ([], [], [])

/-- Commands without a destination tensor (R114, R289). -/
def noTensor (op : Nat) : Bool := op < 0x20 || (0x9C ≤ op && op ≤ 0x9E) || op == 0xA0 || op == 0xA9

/-- Check 2 of R106 without geometry: reserved fields zero and every field a defined value. -/
def fieldsOk (w : Words) (win : Nat) : Bool :=
  let op := wOp w
  let u := usedWords w
  let pd := bits w.w1 0 4
  bits w.w0 33 7 == 0 && onlyBits (2 ^ 40 * wFlags w) (usedFlags w)
    && onlyBits w.w1 u.1 && onlyBits w.w2 u.2.1 && onlyBits w.w3 u.2.2
    && (wSigremote w || (wSigspan w == 0 && wSigcore w == 0))
    && !(noTensor op && wSigbytes w)
    && (if op == 0x03 then wSigen w && !wSigbytes w && wSiginc w == 0 else true)
    && (if op == 0x05 || op == 0x06 || op == 0x07 || op == 0x08 then pd != 0 else true)
    && (if op == 0x06 then
          let ty := bits w.w1 8 3
          let size := if ty == 2 || ty == 3 then 8 else 4
          bits w.w1 4 3 ≤ 5 && ty ≤ 4 && bits w.w2 0 23 % size == 0 && bits w.w2 0 23 + size ≤ win
            && (size == 8 || bits w.w3 32 32 == 0)
        else true)
    && (if op == 0x07 then bits w.w1 14 2 != 3 else true)
    && (if op == 0x40 then
          bits w.w2 17 9 != 0 && bits w.w2 26 9 != 0 && bits w.w2 35 9 != 0
            && (!mxCzero w || bits w.w1 34 17 == 0) && (!mxDint w || bits w.w3 36 4 == 0)
        else true)
    && (if 0x60 ≤ op && op ≤ 0x79 then
          vxCols w != 0 && vxRows w != 0 && bits w.w2 46 9 != 0
            && (!vxBrow w || bits w.w2 37 9 == 0)
            && (!vxReduces op || bits w.w2 46 9 == 1)
            && (op != 0x6E || vxFunc w ≤ 4) && (op != 0x6F || vxFunc w ≤ 1)
            && (op != 0x79 || (vxFunc w ≤ 1 && bits w.w3 32 18 == 0))
            && (op != 0x72 || vxCols w % 2 == 0) && (op != 0x63 || bits w.w3 48 2 == 0)
            && (op != 0x71 || (vxRows w ≤ 256 && vxCols w ≤ 256))
        else true)
    && (if op == 0x22 || op == 0x84 then
          w.w1 % 4 == 0 && bits w.w2 0 23 % 4 == 0 && bits w.w3 0 24 % 4 == 0
            && bits w.w3 0 24 != 0 && bits w.w3 0 24 ≤ 8388608
            && bits w.w2 0 23 + bits w.w3 0 24 ≤ win
        else true)
    && (if 0x9C ≤ op && op ≤ 0x9E then w.w1 + bits w.w2 0 40 ≤ 2 ^ 64 else true)
    && (if opIndexed op || opBoxed op then
          w.w1 % 128 == 0 && bits w.w2 17 9 != 0 && (!opIndexed op || (bits w.w2 40 24 != 0 && bits w.w2 32 3 ≤ 5 && w.w3 % 4 == 0))
            && (!(opBoxed op && wFlag w 40) || bits w.w2 40 17 * 64 + 64 ≤ win)
            && (!opReduces op || (bits w.w2 35 4 ≤ 4
                && (!wFlag w 43 || (bits w.w2 35 4 != 1 && bits w.w2 35 4 != 2))))
        else true)
    && (if op == 0xA0 then w.w1 == 0 && w.w2 == 0 && w.w3 == 0 else true)
    && (if 0xA1 ≤ op && op ≤ 0xA9 then
          let fn := bits w.w2 60 4
          bits w.w1 0 8 != 0 && bits w.w1 8 6 + bits w.w1 14 6 ≤ 63 && bits w.w1 20 17 * 64 + 256 ≤ win
            && w.w3 % 128 == 0 && (wFlag w 40 || !wFlag w 41)
            && (if op == 0xA5 then fn ≤ 1 else if op == 0xA6 then fn == 1 || fn == 3
                else if op == 0xA7 then fn ≤ 3 else if op == 0xA8 then fn ≤ 6 else fn == 0)
            && (op != 0xA6 || bits w.w2 57 3 ≤ 3)
        else true)

/-- Format and scale mode of one operand (R86): a reserved code, or a mode illegal for the
format. -/
def fmtCheck (code scm : Nat) : Nat :=
  match fmtOfCode code with
  | none => eFmtReserved
  | some f => if scm = 3 then eFmtReserved else if scmLegal scm f then 0 else eFmtScale

/-- The first code of a list that is not zero. -/
def firstCode (l : List Nat) : Nat := (l.find? (· ≠ 0)).getD 0

/-- A code when a condition holds. -/
def codeIf (b : Bool) (c : Nat) : Nat := if b then c else 0

/-- Whether a format is one of FP32, BF16 and FP16 unscaled. -/
def wideFloat (code : Nat) : Bool := code ≤ 2

/-- Whether a format and mode are a KV format (R348, R350). -/
def kvFormat (code scm : Nat) : Bool :=
  ((code == 1 || code == 2) && scm == 0) || ((code == 3 || code == 4 || code == 7) && scm ≤ 1)

/-- Check 3 of R106: formats and pairings (R86, R161, R162, R292, R305). DESIGN CHOICE: an INT8 or INT4 D of a VX command
is no integer operand of R161, so the result is converted to it with saturation (log entry 53). -/
def fmtsCheck (w : Words) : Nat :=
  let op := wOp w
  if op == 0x40 then
    let a := fmtCheck (bits w.w3 28 4) (bits w.w3 40 2)
    let b := fmtCheck (bits w.w3 32 4) (bits w.w3 42 2)
    let d := fmtCheck (bits w.w3 36 4) (bits w.w3 44 2)
    let int := (mxPair w).any (fun p => p.2.1 == .integer)
    firstCode [codeIf (a == 1 || b == 1 || d == 1) 1, a, b, d,
      codeIf (mxPair w).isNone eFmtPair,
      codeIf (int && !(bits w.w3 36 4 == 0 && bits w.w3 44 2 == 0)) eFmtOutput,
      codeIf (!int && mxDint w) eFmtOutput]
  else if op == 0x79 then 0
  else if 0x60 ≤ op && op ≤ 0x72 then
    let a := if vxHasA op then fmtCheck (bits w.w3 32 4) (bits w.w3 44 2) else 0
    let b := if vxHasB op then fmtCheck (bits w.w3 36 4) (bits w.w3 46 2) else 0
    let d := fmtCheck (bits w.w3 40 4) (bits w.w3 48 2)
    let intOk := op == 0x67 || op == 0x71
    let isInt (code : Nat) : Bool := code == 8 || code == 9
    firstCode [codeIf (a == 1 || b == 1 || d == 1) 1, a, b, d,
      codeIf (vxHasA op && !intOk && isInt (bits w.w3 32 4)) eFmtEngine,
      codeIf (vxHasB op && isInt (bits w.w3 36 4)) eFmtEngine,
      codeIf (op == 0x63 && isInt (bits w.w3 40 4)) eFmtEngine,
      codeIf (op == 0x72 && !(bits w.w3 36 4 == 0 && bits w.w3 46 2 == 0)) eFmtEngine,
      codeIf (op == 0x71 && !(bits w.w3 32 4 == bits w.w3 40 4 && bits w.w3 44 2 == 0
        && bits w.w3 48 2 == 0 && (let x := fmtWidth (vxA w).fmt; x == 8 || x == 16 || x == 32))) eFmtEngine]
  else if opIndexed op || opBoxed op then fmtCheck (bits w.w2 26 4) (bits w.w2 30 2)
  else if 0xA1 ≤ op && op ≤ 0xA9 then
    let cw := bits w.w2 41 4
    let sw := bits w.w2 45 2
    let cv := bits w.w2 47 4
    let sv := bits w.w2 51 2
    let co := bits w.w2 53 4
    let basic := firstCode [codeIf (fmtCheck cw sw == 1 || fmtCheck cv sv == 1 || fmtCheck co 0 == 1) 1,
      fmtCheck cw sw, fmtCheck cv sv]
    let p := pairing (fmtOr cw) sw (fmtOr cv) sv
    let six := cw == 5 || cw == 6
    let int := cw == 8 || cw == 9
    let noV := codeIf (cv != 0 || sv != 0) eFmtEngine
    let out := codeIf (!wideFloat co) eFmtOutput
    let none3 := codeIf (cw != 0 || sw != 0 || cv != 0 || sv != 0) eFmtEngine
    firstCode (basic :: (match op with
      | 0xA1 => [codeIf p.isNone eFmtPair, codeIf (p.any (fun x => x.1 == 8)) eFmtEngine, out,
          codeIf (p.any (fun x => x.2.1 == .integer) && co != 0) eFmtOutput]
      | 0xA2 => [codeIf (six || sw != 0) eFmtEngine, noV, codeIf (co != 0) eFmtOutput]
      | 0xA3 => [codeIf (six || int || sw != 0) eFmtEngine, noV, out]
      | 0xA4 => [codeIf int eFmtEngine, noV, out]
      | 0xA5 => [codeIf (int || sw != 0) eFmtEngine, noV, out]
      | 0xA6 =>
        let pp := pairing (fmtOr (bits w.w2 60 4)) 0 (fmtOr cw) sw
        [codeIf (!kvFormat cw sw) eFmtEngine, codeIf (p.isNone || pp.isNone) eFmtPair,
          codeIf (p.any (fun x => x.1 == 8) || pp.any (fun x => x.1 == 8)) eFmtEngine,
          codeIf (co != 0) eFmtOutput]
      | _ => [none3, codeIf (co != 0) eFmtOutput]))
  else 0

/-- Whether the bytes that a command writes to D are bytes of A or B without D being identical to it, or at all where the
command forbids it (R165). DEDUCED: a tensor-scale word of D, which the command reads and does not write, overlaps
nothing (log entry 38). -/
def vxOverlap (w : Words) : Bool :=
  let d := vxD w
  let strict := wOp w == 0x71 || wOp w == 0x72 || vxReduces (wOp w)
  let same (m : Mat) : Bool :=
    d.base == m.base && d.str == m.str && fmtWidth d.fmt == fmtWidth m.fmt && d.scm == m.scm
  let bad (m : Mat) : Bool := matHits d m && (strict || !same m)
  (vxHasA (wOp w) && bad (vxA w)) || (vxHasB (wOp w) && bad (vxB w))

/-- Geometry of MX and VX operands, refused with CMD_FIELD (R146, R155, R165). -/
def geometryOk (w : Words) (win : Nat) : Bool :=
  let op := wOp w
  let fits (m : Mat) : Bool := m.str == 0 || m.str * 64 ≥ matRowBytes m
  if op == 0x40 then
    let a := mxA w
    let b := mxB w
    let c := mxC w
    let d := mxD w
    let rate := match mxPair w with | some p => mxRate2 p.1 | none => 1
    let wide := mxDint w || (bits w.w3 36 4 == 0 && d.scm == 0)
    let int := (mxPair w).any (fun p => p.2.1 == .integer)
    let same := c.base == d.base && wide && (int == mxDint w)
    fits a && fits b && fits d && (mxCzero w || fits c) && mxK w * rate ≤ 8192
      && !matHits d a && !matHits d b && (mxCzero w || same || !matHits d c)
      && matInside win a && matInside win b && matInside win d && (mxCzero w || matInside win c)
  else if 0x60 ≤ op && op ≤ 0x79 then
    let a := vxA w
    let b := vxB w
    let d := vxD w
    vxRows w * vxCols w ≤ 65536 && (!vxHasA op || (fits a && matInside win a))
      && (!vxHasB op || (fits b && matInside win b)) && fits d && matInside win d
      && !vxOverlap w
      && (d.scm == 0 || vxReduces op || vxRows w == 1 || vxCols w % scmBlock d.scm == 0)
  else true

/-- Target pseudo-channels of an NB command, as package numbers in the order of t (R282). -/
def nbTargets (w : Words) : List Nat :=
  ((List.range 8).filter (fun sp => bitAt (bits w.w1 0 8) sp)).flatMap (fun sp =>
    (List.range (bits w.w1 14 6 + 1)).map (fun i => pcNo sp (bits w.w1 8 6 + i)))

/-- Check 4 of R106: absent units named by the command (R117, R140, R282). -/
def absentCheck (s : State) (w : Words) : Nat :=
  codeIf ((wSigremote w && !coreNamed s (wSigspan w) (wSigcore w))
    || (0xA1 ≤ wOp w && wOp w ≤ 0xA9 && (nbTargets w).any (pcGone s))) eAbsentUnit

/-- Check 5 of R106: the signal target lies within the scope (R117). DESIGN CHOICE: with SIGEN 0 there is no signal, so
nothing is checked here; an absent core that the command names is refused all the same (log entry 102). -/
def scopeCheck (w : Words) (span core : Nat) : Nat :=
  codeIf (wSigen w && wSigremote w && !(wSigspan w == span && wSigcore w == core)
    && (if wSigspan w == span then wScope w < 1 else wScope w < 2)) eSigScope

/-- The refusal code of a command at decode, 0 for none: the first failing check of R106. DESIGN CHOICE: the further
CMD_FIELD checks of R146, R155 and R165 stand after the format checks and before those for absent units and the scope
(log entry 54). -/
def decodeCheck (s : State) (key e : Nat) (w : Words) : Nat :=
  let op := wOp w
  let cls := opClass op
  let win := windowBytes s key
  firstCode [
    codeIf (cls ≤ 4 && cls != e) eEngineMismatch,
    codeIf (cls == 6 || !opDefined op) eOpcReserved,
    codeIf (!fieldsOk w win) eCmdField,
    fmtsCheck w,
    codeIf (!geometryOk w win) eCmdField,
    absentCheck s w,
    scopeCheck w (keySpan key) (keyCore key)]

/-- Nominal byte count of a command whose words alone fix it (R159, R166, R191). -/
def nominalWords (w : Words) : Nat :=
  let op := wOp w
  if op == 0x40 then mxM w * ((mxN w * fmtWidth (mxD w).fmt + 7) / 8)
  else if 0x60 ≤ op && op ≤ 0x79 then (vxD w).rows * matRowBytes (vxD w)
  else if op == 0x22 || op == 0x84 then bits w.w3 0 24
  else 0

end Sys2Proof.Machine
end

