-- ==== Sys2Proof/Machine/Local.lean ====
section
/-!
DEFINITION. Local memory (R145, R146, R532): a slot's window of its core's 8 MiB, byte reads and
writes, poisoned words, and operand matrices read as values and written as codes.
-/
namespace Sys2Proof.Machine

/-- Bytes of one core's local memory (R145). -/
def lmSize : Nat := 8388608

/-- Physical cell of a byte of a slot's window (R146). -/
def lmCell (s : State) (key off : Nat) : Nat :=
  lmSize * coreNo (keySpan key) (keyCore key)
    + 65536 * getF s fLmxWinBase (pgLmx (keySpan key) (keyCore key)) (keySlot key) + off

/-- `n` bytes of a slot's window. -/
def lmRead (s : State) (key off n : Nat) : List Byte := cellRead s.core.lmem (lmCell s key off) n

/-- A byte of a slot's window, as a number. -/
def lmByte (s : State) (key off : Nat) : Nat := (cellGet s.core.lmem (lmCell s key off)).toNat

/-- Whether a poisoned word lies in `n` bytes of a window (R532). -/
def lmBad (s : State) (key off n : Nat) : Bool :=
  let c := lmCell s key off
  n != 0 && s.core.lmPoison.any (fun w => decide (w.1 * 8 < c + n) && decide (c < w.1 * 8 + 8))

/-- A poisoned word, with a mask of its bytes rewritten since, after a write of `n` bytes from cell `c`. DEDUCED: writes of
parts of a word clear its poison once they have rewritten all of it (log entry 78). -/
def poisonWord (c n : Nat) (w : Nat × Nat) : Nat × Nat :=
  (w.1, ((List.range 8).filter (fun k => decide (c ≤ w.1 * 8 + k) && decide (w.1 * 8 + k < c + n))).foldl
    (fun acc k => acc ||| 2 ^ k) w.2)

/-- Bytes written to a slot's window; a word whose every byte has been rewritten since loses its poison mark (R532). -/
def lmWrite (s : State) (key off : Nat) (data : List Byte) : State :=
  let c := lmCell s key off
  { s with core := { s.core with
      lmem := cellWrite s.core.lmem c data
      lmPoison := (s.core.lmPoison.map (poisonWord c data.length)).filter (fun w => w.2 ≠ 255) } }

/-- Byte stores at window offsets, in order. -/
def lmStores (s : State) (key : Nat) (st : List (Nat × Nat)) : State :=
  st.foldl (fun acc p => lmWrite acc key p.1 [BitVec.ofNat 8 p.2]) s

/-- Whether an operand reads a poisoned word. -/
def matBad (s : State) (key : Nat) (m : Mat) : Bool :=
  (matRanges m).any (fun r => lmBad s key r.1 r.2)

/-- Element codes of a row of an operand. -/
def matCodes (s : State) (key : Nat) (m : Mat) (r : Nat) : List Nat :=
  (List.range m.cols).map (fun i => elemCode m.fmt (lmByte s key) (matRow m r) i)

/-- Scale bytes of a row of an operand. -/
def matScales (s : State) (key : Nat) (m : Mat) (r : Nat) : List Nat :=
  (List.range (matBlocks m)).map (fun j => lmByte s key (matPlane m + r * matBlocks m + j))

/-- FP32 code of an operand's tensor scale. -/
def matTscale (s : State) (key : Nat) (m : Mat) : Nat := leNat (lmRead s key (matTs m) 4)

/-- Whether an operand's tensor scale is legal (R65). -/
def matTsOk (s : State) (key : Nat) (m : Mat) : Bool := m.scm != 2 || tscaleOk (matTscale s key m)

/-- What the read of an operand's tensor scale meets: LM_POISON, FMT_SCALE, or 0 (R65, R532). -/
def matTsCode (s : State) (key : Nat) (m : Mat) : Nat :=
  if m.scm != 2 then 0 else if lmBad s key (matTs m) 4 then eLmPoison else if matTsOk s key m then 0 else eFmtScale

/-- The blocks of an operand that have an invalid scale, each named by its scale byte, its row and its place (R62). -/
def matBadBlocks (s : State) (key : Nat) (m : Mat) : List (Nat × Nat × Nat) :=
  (List.range m.rows).flatMap (fun r => (List.range (matBlocks m)).filterMap (fun j =>
    if lmByte s key (matPlane m + r * matBlocks m + j) = 0xFF then
      some (matPlane m + r * matBlocks m + j, matRow m r, j) else none))

/-- The count of a command's blocks with an invalid scale: a block that two operands share counts once (R62). -/
def badScales (s : State) (key : Nat) (ms : List Mat) : NumEv :=
  { evNone with scaleInvalid := (ms.flatMap (matBadBlocks s key)).eraseDups.length }

/-- Values of a row (R60, R62). -/
def matVals (s : State) (key : Nat) (m : Mat) (r : Nat) : List Num :=
  (readRun m.fmt m.scm (matCodes s key m r) (matScales s key m r)).1

/-- Values of a row taken without arithmetic, an NS16 row to FP32 (R61, R161). -/
def matPlain (s : State) (key : Nat) (m : Mat) (r : Nat) : List Num :=
  plainVals m.scm (fp32Val (matTscale s key m)) (matVals s key m r)

/-- Element codes written to a row (R56, R57). -/
def matPutCodes (s : State) (key : Nat) (m : Mat) (r : Nat) (codes : List Nat) : State :=
  codes.zipIdx.foldl (fun acc p =>
    lmStores acc key (elemStores m.fmt (lmByte acc key) (matRow m r) p.2 p.1)) s

/-- Scale bytes written for a row. -/
def matPutScales (s : State) (key : Nat) (m : Mat) (r : Nat) (scales : List Nat) : State :=
  lmWrite s key (matPlane m + r * matBlocks m) (scales.map (BitVec.ofNat 8))

/-- A row of results written in an operand's format, with its events (R64 to R67, R75, R154, R161). -/
def matPutRes (s : State) (key : Nat) (m : Mat) (r : Nat) (xs : List OpRes) : State × NumEv :=
  let w := writeRes m.fmt m.scm (fp32Val (matTscale s key m)) xs
  (matPutScales (matPutCodes s key m r w.2.1) key m r w.1, w.2.2)

/-- Rows of results written in order. -/
def matPutAll (s : State) (key : Nat) (m : Mat) (rows : List (List OpRes)) : State × NumEv :=
  rows.zipIdx.foldl (fun acc p =>
    let w := matPutRes acc.1 key m p.2 p.1
    (w.1, evAdd acc.2 w.2)) (s, evNone)

/-- Events of a command kept with it until it completes (R88). -/
def cmdAddEv (c : QCmd) (e : NumEv) : QCmd :=
  { c with
    evSat := c.evSat + e.sat, evNan := c.evNan + e.nanLost
    evScale := c.evScale + e.scaleInvalid, evInt := c.evInt + e.intSat
    evNanOut := c.evNanOut || e.nanOut, evInfOut := c.evInfOut || e.infOut }

end Sys2Proof.Machine
end

