-- ==== Sys2Proof/Machine/Queues.lean ====
section
/-!
DEFINITION. What the commands of every engine share: work items and their ends, queue errors and
halts, translation faults, aborts, event counts, the oldest issued command of a queue, completion
and its signal.
-/
namespace Sys2Proof.Machine

/-! ### Format and data-movement counts (R87, R88, R207) -/

/-- A count that stops at 2^48 - 1. -/
def sat48 (n : Nat) : Nat := min n (2 ^ 48 - 1)

/-- Format events added for a context on a span (R87). -/
def numevAdd (s : State) (span ctx : Nat) (e : NumEv) : State :=
  let c := look s.cx.numev (span, ctx) ⟨0, 0, 0, 0, 0⟩
  let st := c.sticky ||| (if e.sat = 0 then 0 else 1) ||| (if e.nanLost = 0 then 0 else 2)
    ||| (if e.scaleInvalid = 0 then 0 else 4) ||| (if e.intSat = 0 then 0 else 8)
    ||| (if e.nanOut then 16 else 0) ||| (if e.infOut then 32 else 0)
  let c1 : NumCnt := ⟨sat48 (c.sat + e.sat), sat48 (c.nanLost + e.nanLost),
    sat48 (c.scaleInvalid + e.scaleInvalid), sat48 (c.intSat + e.intSat), st⟩
  if e = evNone then s
  else { s with cx := { s.cx with numev := put s.cx.numev (span, ctx) c1 } }

/-- Data-movement events added for a context on a span (R207). -/
def dmaevAdd (s : State) (span ctx r w i k : Nat) : State :=
  let c := look s.cx.dmaev (span, ctx) ⟨0, 0, 0, 0, 0⟩
  let st := c.sticky ||| (if r = 0 then 0 else 1) ||| (if w = 0 then 0 else 2)
    ||| (if i = 0 then 0 else 4)
  let c1 : DmaCnt :=
    ⟨sat48 (c.oobR + r), sat48 (c.oobW + w), sat48 (c.oobI + i), sat48 (c.coal + k), st⟩
  if r + w + i + k = 0 then s
  else { s with cx := { s.cx with dmaev := put s.cx.dmaev (span, ctx) c1 } }

/-- The format events held with a command. -/
def cmdEv (c : QCmd) : NumEv := ⟨c.evSat, c.evNan, c.evScale, c.evInt, c.evNanOut, c.evInfOut⟩

/-- The counts of a command added to its context's counters (R88, R207). -/
def cmdCount (s : State) (key : Nat) (c : QCmd) : State :=
  let ctx := slotCtx s key
  dmaevAdd (numevAdd s (keySpan key) ctx (cmdEv c)) (keySpan key) ctx c.oobR c.oobW c.oobI c.coal

/-! ### Work items (R499, R503, R546, R553) -/

/-- An item by its number. -/
def getItem (s : State) (id : Nat) : Option Item := s.ho.items.find? (fun i => i.id == id)

/-- An item replaced. -/
def putItem (s : State) (it : Item) : State :=
  { s with ho := { s.ho with items := s.ho.items.map (fun x => if x.id == it.id then it else x) } }

/-- A completion record queued for its ring (R502). -/
def cqPush (s : State) (r : CqRec) : State := { s with ho := { s.ho with cq := s.ho.cq ++ [r] } }

/-- The DONE record of an item from the host (R503). -/
def doneRec (it : Item) (code : Nat) : Option CqRec :=
  match it.src with
  | .host fn ring seq => some ⟨fn, ring, seq, it.user, it.addr,
      code + 2 ^ 8 * it.engine + 2 ^ 11 * it.core + 2 ^ 15 * it.span + 2 ^ 60 + 2 ^ 56 * ring, it.ctx, 0⟩
  | _ => none

/-- The record of an item queued, at the place that its commit has reserved where there is one (R553, R554). -/
def cqPlace (s : State) (id : Nat) (r : CqRec) : State :=
  if id ≠ 0 ∧ s.ho.cq.any (fun x => x.item == id) then
    { s with ho := { s.ho with cq := s.ho.cq.map (fun x => if x.item = id then r else x) } }
  else cqPush s r

/-- Staged reducer entries of an item removed from every controller (R553, R556). -/
def dropStaged (s : State) (id : Nat) : State :=
  { s with memo := { s.memo with pccs := s.memo.pccs.map (fun p =>
      (p.1, { p.2 with staged := p.2.staged.filter (fun e => e.item ≠ id) })) } }

/-- Whether an item's record has been written already, at the index that its commit reserved (R553). -/
def itemStored (it : Item) : Bool := match it.commit with | some c => c.stored | none => false

/-- Span, entry and due tick of the firing that a launch belongs to. -/
def firingKey (l : Launch) : Option (Nat × Nat × Nat) :=
  match l.src with | .entry span idx _ => some (span, idx, l.due) | _ => none

/-- The step of a group whose firing an item was has failed (R437). -/
def stepFailed (s : State) (it : Item) : State :=
  let hit (x : Group) : Bool := it.launches.any (fun d => match firingKey d.launch with
    | some k => x.fired.contains k | none => false)
  { s with srv := { s.srv with groups := s.srv.groups.map (fun p => if hit p.2 then (p.1, { p.2 with err := true }) else p) } }

/-- Held descriptors of an item discarded: they are never handed over. DESIGN CHOICE: HEAD passes each in its turn, without
an addition (log entry 114). -/
def dropHeld (s : State) (id : Nat) : State :=
  let f (d : SendDesc) : SendDesc := if d.item = id && !d.started then { d with started := true, gone := true } else d
  { s with pkg := { s.pkg with link := { s.pkg.link with rings := s.pkg.link.rings.map (fun p => (p.1, p.2.map f)) } } }

/-- The error-log entry of an item that was replayed or has failed (R543). -/
def itemNote (s : State) (it : Item) (code : Nat) : State :=
  elogAdd s { elogOf 0x0E with span := 15, ctx := it.ctx, code := code }

/-- What an item's end with an error takes with it: its held descriptors, and the step of the group that it belonged to; one
that failed is logged (R437, R543, R553). -/
def itemBad (s : State) (it : Item) (code : Nat) : State :=
  let s1 := dropHeld (stepFailed s it) it.id
  if code = eItemFailed then itemNote s1 it code else s1

/-- An item leaves: its record is queued unless it has been, and a journaled item counts as committed or failed
(R503, R553, R563). -/
def itemGone (s : State) (it : Item) (code : Nat) : State :=
  let s0 := if code = 0 then s else itemBad s it code
  let s1 := { s0 with
    ho := { s0.ho with items := s0.ho.items.filter (fun x => x.id ≠ it.id) }
    er := { s0.er with openItems := setDel s0.er.openItems it.id } }
  let s2 := if itemStored it then s1 else match doneRec it code with | some r => cqPlace s1 it.id r | none => s1
  if !it.journaled then s2
  else if code = 0 then bumpF s2 fJrnlCommittedCount pgJrnl
  else if code = eItemFailed ∨ code = eJrnlFull then bumpF s2 fJrnlFailedCount pgJrnl
  else s2

/-- An item ends with an error: it commits nothing (R138, R553, R655). One whose data a failed stack has lost ends with
ITEM_FAILED (R559). -/
def itemError (s : State) (id code0 engine core span addr : Nat) : State :=
  match getItem s id with
  | none => s
  | some it =>
    let code := if it.code = eItemFailed then eItemFailed else code0
    let it1 := { it with code := code, engine := engine, core := core, span := span, addr := addr }
    itemGone (dropStaged s id) it1 code

/-- A lost frame counted once: FRAME.STATUS.CADENCE_LOST and FRAME.LOST (R431), in locked
cadence. -/
def cadenceLost (s : State) : State :=
  let k := getF s fFrameCadenceValue pgFrame
  if getF s fFrameCtrlMode pgFrame = 0 then s
  else
    let s1 := setB s fFrameStatusCadenceLost pgFrame true
    if s.sch.lostAt = some k then s1
    else bumpF { s1 with sch := { s1.sch with lostAt := some k } } fFrameLostValue pgFrame

/-- A discarded firing counts once in SCHED.DROPPED, on however many cores it launched, and its frame has lost the cadence
(R431, R655). -/
def firingDropped (s : State) (l : Launch) : State :=
  match l.src with
  | .entry span idx _ =>
    if s.sch.dropped.contains (span, idx, l.due) then s
    else
      let s1 := cadenceLost (bumpF s fSchedDroppedCount (pgSched span))
      { s1 with sch := { s1.sch with dropped := (span, idx, l.due) :: s1.sch.dropped } }
  | _ => s

/-- A launch that is discarded without completing ends its item with a code (R655). -/
def launchDiscard (s : State) (l : Launch) (code engine core span addr : Nat) : State :=
  itemError (firingDropped s l) l.item code engine core span addr

/-! ### Queue errors (R136 to R138) -/

/-- A bit of BLK_ERR.ACC set without a count. -/
def blkErrBit (s : State) (pg bit : Nat) : State :=
  setF s fBlkErrAcc pg (getF s fBlkErrAcc pg ||| 2 ^ bit)

/-- A queue error recorded for a slot: the record unless one is held, BLK_ERR bit 1 and bit 2
(R137). -/
def slotError (s : State) (key e code addr : Nat) : State :=
  let pg := pgCq (keySpan key) (keyCore key)
  let sl := keySlot key
  let s1 := blkErr s pg 1
  if getB s fCqSlotErrValid pg sl then blkErrBit s1 pg 2
  else
    let s2 := setF (setF (setB s1 fCqSlotErrValid pg true sl) fCqSlotErrEngine pg e sl) fCqSlotErrCode pg code sl
    setF s2 fCqSlotErrAddrAddr pg addr sl

/-- The log entry of a read of host memory by Fenivar that fails, through a function (R527). -/
def hostReadLost (s : State) (fn : Nat) : State :=
  elogAdd s { elogOf 0x0B with span := 15, unit := 0x04, index := fn, code := eHostErr }

/-- Codes that a consumption of poison raises (R535). -/
def poisonCode (c : Nat) : Bool := c == eFetchPoison || c == eDmaPoison || c == eNbPoison || c == eLmPoison

/-- A device address as an error's address: those from 2^64 up are device addresses, those below virtual ones. -/
def devAddr (da : Nat) : Nat := 2 ^ 64 + da

/-- The POISON_CONSUMED entry of a consumer (R535). -/
def logPoison (s : State) (key code va cmd : Nat) : State :=
  elogAdd s { elogOf 0x05 with
    span := keySpan key, unit := 0x40, index := keyCore key, addr := va % 2 ^ 64, va := decide (va < 2 ^ 64)
    ctx := slotCtx s key, code := code, cmdVa := cmd }

/-- Speculative reads of commands that leave a queue are cancelled (R132). -/
def specCancel (s : State) (key : Nat) (cs : List QCmd) : State :=
  bumpF s fCqSpecCancelledCount (pgCq (keySpan key) (keyCore key)) (cs.map (·.spec)).sum

/-- The launch that an engine of a slot runs: the first one whose stream it has not ended. -/
def curLaunch (p : CorePart) (e : Nat) : Option Launch := p.launches.find? (fun l => !bitAt l.ended e)

/-- What a journaled item waits for after an error of a context, 0 for nothing: a rebind after its port failed
(R506), or the restore of the mirrored page that held the poison (R542). -/
def holdFor (s : State) (ctx code va : Nat) : Nat :=
  if code = eHostErr then (if portFailed s (ctxFunc s ctx) then 1 else 0)
  else if code = eFetchPoison ∨ code = eDmaPoison ∨ code = eNbPoison then
    if va ≥ 2 ^ 64 then (if (mirrorFor s (va - 2 ^ 64)).isSome then (va - 2 ^ 64) / 4096 + 2 else 0)
    else (match mirrorPage s ctx va with | some p => p + 2 | none => 0)
  else 0

/-- Whether an access of a context that was stopped there went to a pseudo-channel that is gone (R236, R559). -/
def lostAt (s : State) (ctx code va : Nat) : Bool :=
  (code == eFetchPoison || code == eDmaPoison || code == eNbPoison || code == eXlateFatal)
    && (match (if va ≥ 2 ^ 64 then some (cellOf s false (va - 2 ^ 64)) else leafCell s ctx va) with
      | some c => pcGone s (cellCtl s c)
      | none => false)

/-- The journaled item of a halted launch held for replay, where the error is of that kind; one whose data a failed stack has
lost is marked to end with ITEM_FAILED (R559). -/
def holdItem (s : State) (ctx : Nat) (l : Option Launch) (code va : Nat) : State :=
  match l with
  | none => s
  | some x => match getItem s x.item with
    | none => s
    | some it =>
      let h := holdFor s ctx code va
      if !it.journaled then s
      else if h != 0 then putItem s { it with held := h }
      else if lostAt s ctx code va then putItem s { it with code := eItemFailed }
      else s

/-- A core part of a slot replaced. -/
def putPart (s : State) (key : Nat) (p : CorePart) : State :=
  putSlot s key { getSlot s key with part := p }

/-- A core part with a queue error noted for Fenivar, unless one is noted already (R138). -/
def partErr (p : CorePart) (e code pc : Nat) : CorePart := { p with err := p.err.orElse (fun _ => some (e, code, pc)) }

/-- Whether a queued command is the one at an address of a launch's stream. -/
def cmdAt (launch pc : Nat) (c : QCmd) : Bool := c.pc == pc && c.launch == launch

/-- Whether every command of a queue that is earlier than one has completed, with its signal (R137). -/
def atFront (q : Queue) (c : QCmd) : Bool := q.cmds.head? == some c

/-- A launch runs again on an engine: its `q.end` there was discarded with the commands behind one that failed
(R99, R137). -/
def partReopen (p : CorePart) (e launch : Nat) : CorePart :=
  { p with launches := p.launches.map (fun l =>
      if l.serial == launch && bitAt l.ended e then { l with ended := l.ended - 2 ^ e } else l) }

/-- A queue halts at a command of a launch (R137): the command and those behind it are discarded, earlier
ones stay and complete; `va` is the address consumed, for poison. -/
def haltQueue (s0 : State) (key e code launch pc va : Nat) : State :=
  let p := partReopen (getSlot s0 key).part e launch
  let s := holdItem s0 (slotCtx s0 key) (curLaunch p e) code va
  let q := getQ s key e
  let keep := q.cmds.takeWhile (fun c => !cmdAt launch pc c)
  let gone := q.cmds.dropWhile (fun c => !cmdAt launch pc c)
  let s1 := if poisonCode code then logPoison s key code va pc else s
  let s2 := specCancel (slotError s1 key e code pc) key gone
  let s3 := match gone with
    | [] => s2
    | c :: _ => dmaevAdd s2 (keySpan key) (slotCtx s key) c.oobR c.oobW c.oobI c.coal
  let q1 := { q with
    st := .haltErr, pc := pc, buf := [], cmds := keep, gone := q.gone ++ gone, pend := none, openFault := false }
  putPart s3 key (partErr (partSetQueue p e q1) e code pc)

/-- The command at an address of a queue, replaced. -/
def qSetCmd (q : Queue) (c : QCmd) : Queue :=
  { q with cmds := q.cmds.map (fun x => if cmdAt c.launch c.pc x then c else x) }

/-- A command of a queue replaced. -/
def putCmd (s : State) (key e : Nat) (c : QCmd) : State := putQ s key e (qSetCmd (getQ s key e) c)

/-- An access stopped a command: a code halts the queue, a fault is held until the queue takes it
(R201, R204, R405). `r` is the restart record of the command. -/
def stopCmd (s : State) (key e : Nat) (c : QCmd) (r : Restart) : Stop → State
  | .code k va => haltQueue s key e k c.launch c.pc va
  | .fault cause level va acc =>
    let q := getQ s key e
    putQ s key e { q with
      restart := { r with cmdVa := c.pc, faultVa := va }
      pend := some ⟨cause, level, accessNum acc, va, 0, 0, 0, 0⟩ }

/-- The oldest issued command of a queue; none while a fault is met or the queue is stopped by
one. -/
def headIssued (s : State) (key e : Nat) : Option QCmd :=
  let q := getQ s key e
  if q.pend.isSome || q.st == .fault || q.st == .idle then none
  else q.cmds.find? (fun c => c.phase == .issued)

/-- The oldest issued command of a queue when it has an opcode. -/
def headOp (s : State) (key e op : Nat) : Option QCmd :=
  match headIssued s key e with
  | some c => if bits c.w0 0 8 == op then some c else none
  | none => none

/-- A command marked as executed: its effects are complete. -/
def cmdDone (s : State) (key e : Nat) (c : QCmd) : State := putCmd s key e { c with phase := .executed }

/-- A launch of a slot, by serial, replaced. -/
def partSetLaunch (p : CorePart) (l : Launch) : CorePart :=
  { p with launches := p.launches.map (fun x => if x.serial == l.serial then l else x) }

/-! ### Translation faults (R405, R406) -/

/-- Whether a fault record could be written at once: writing is enabled and the ring has room. -/
def fringOpen (s : State) (span : Nat) : Bool :=
  let pg := pgXlt span
  let waiting := (look s.cx.faults span []).length
  getB s fXltFringCtrlEnable pg
    && (getF s fXltFringTailTail pg + waiting + 2 ^ 32 - getF s fXltFringHeadHead pg) % 2 ^ 32
        < 2 ^ getF s fXltFringCtrlSizeLog2 pg

/-- A fault record queued for a span's ring; one that cannot be written at once counts in
OVERFLOW (R406). -/
def faultPush (s : State) (span : Nat) (r : FaultRec) : State :=
  let s1 := if fringOpen s span then s else bumpSat s fXltFringCtrlOverflow (pgXlt span)
  { s1 with cx := { s1.cx with faults := put s1.cx.faults span (look s1.cx.faults span [] ++ [r]) } }

/-- A queue takes the fault that it has met: it enters FAULT at its restart point, and a record is
queued (R405, R406). -/
def takeFault (s : State) (key e : Nat) (f : PFault) (cmd : Nat) : State :=
  let q := getQ s key e
  let ctx := slotCtx s key
  let asid := match getCtx s ctx with | some c => c.asid | none => 0
  let s1 := putQ s key e { q with st := .fault, openFault := true, resolved := false, pend := none }
  faultPush s1 (keySpan key)
    ⟨ctx, asid, keyCore key, keySlot key, e, f.source, f.cause, f.level, f.access, f.pc, f.tspan, f.va, cmd,
      f.stitch, s.tick⟩

/-! ### Aborts (R139, R655) -/

/-- Ends of the launches that an abort discards: the launch whose queue error Fenivar aborts for ends with that
error, every other one with LAUNCH_ABORTED (R138, R655). -/
def abortLaunches (s : State) (key : Nat) (byError : Bool) : State :=
  let x := getSlot s key
  let er := x.part.err.getD (0, 0, 0)
  let bad := if byError && x.part.err.isSome then (curLaunch x.part er.1).map (·.serial) else none
  x.part.launches.foldl (fun acc l =>
    if some l.serial == bad then launchDiscard acc l er.2.1 er.1 (keyCore key) (keySpan key) er.2.2
    else launchDiscard acc l eLaunchAborted 0 0 0 0) s

/-- Faulted sequences of a context on a core end without further stitches (R407, R408). -/
def endFaultedSeqs (s : State) (span core ctx : Nat) : State :=
  { s with memo := { s.memo with pccs := s.memo.pccs.map (fun p =>
      (p.1, { p.2 with seqs := p.2.seqs.map (fun q =>
        if q.sys || q.span ≠ span || q.core ≠ core || q.ctx ≠ ctx then q
        else match q.st with
          | .faulted _ (some k) _ => { q with st := .saved k, stop := true, err := eXlateFatal }
          | .faulted _ none _ => { q with st := .running, stop := true, err := eXlateFatal }
          | _ => q) })) } }

/-- The five queues of a slot stopped at once: undone commands and pending launches are discarded,
credits return, and the queues show IDLE (R139). `ends` says whether the launches' items end. -/
def abortSlot (s : State) (key : Nat) (byError ends : Bool) : State :=
  let x := getSlot s key
  let all := x.part.queues.flatMap (·.cmds)
  let s1 := specCancel s key all
  let s2 := all.foldl (fun acc c =>
    dmaevAdd acc (keySpan key) (slotCtx s key) c.oobR c.oobW c.oobI c.coal) s1
  let s3 := if ends then abortLaunches s2 key byError else s2
  let s4 := endFaultedSeqs s3 (keySpan key) (keyCore key) (slotCtx s key)
  let s6 := setF s4 fCqSlotCtrlHalt (pgCq (keySpan key) (keyCore key)) 0 (keySlot key)
  putPart s6 key { x.part with launches := [], queues := [idleQueue, idleQueue, idleQueue, idleQueue, idleQueue], err := none }

/-! ### Completion and signals (R113 to R118, R548) -/

/-- Whether a signal of an item is staged until its commit: it does not go to tallies 0 to 63 of a
slot on which the item runs, whatever core stands for the one named (R540, R548). A staged signal lands at commit alone, so
a wait of the item itself on one is never satisfied (R550). -/
def signalStaged (s : State) (it : Item) (g : Signal) : Bool :=
  it.journaled && !(g.tally ≤ 63
    && it.launches.any (fun d => d.ctx == g.ctx && d.span == g.span
      && coreAliased s d.span d.core == coreAliased s g.span g.core))

/-- Staged signals of a span (R552). -/
def stagedCount (s : State) (span : Nat) : Nat :=
  (s.ho.items.map (fun i => (i.signals.filter (fun g => g.srcSpan == span)).length)).sum

/-- Whether a signal of an item is to be staged and its span holds no more of them (R552). -/
def stagedOut (s : State) (it : Item) (g : Signal) : Bool := signalStaged s it g && decide (stagedCount s g.srcSpan ≥ 4096)

/-- The signal that a command of a context on a core performs (R113, R122). -/
def mkSignal (ctx span core e : Nat) (c : QCmd) (item : Nat) : Signal :=
  let w := cmdWords c
  { ctx := ctx
    span := if wSigremote w then wSigspan w else span
    core := if wSigremote w then wSigcore w else core
    tally := wSigtally w
    add := if wOp w = 0x03 then bits w.w1 0 48 else if wSigbytes w then c.nominal else wSiginc w
    scope := wScope w, kind := 0, srcSpan := span, srcCore := core, eng := e
    item := item, launch := c.launch }

/-- The signal of a command of a queue. -/
def cmdSignal (s : State) (key e : Nat) (c : QCmd) (item : Nat) : Signal :=
  mkSignal (slotCtx s key) (keySpan key) (keyCore key) e c item

/-- The item of the launch that a command belongs to. -/
def cmdItem (s : State) (key : Nat) (c : QCmd) : Option Item :=
  match (getSlot s key).part.launches.find? (fun l => l.serial == c.launch) with
  | some l => getItem s l.item
  | none => none

/-- A signal performed: it goes to its tally, or is staged with its journaled item (R548). -/
def performSignal (s : State) (key e : Nat) (c : QCmd) : State :=
  match cmdItem s key c with
  | none => sendSignal s (cmdSignal s key e c 0)
  | some it =>
    let g := cmdSignal s key e c it.id
    if signalStaged s it g then putItem s { it with signals := it.signals ++ [g] } else sendSignal s g

/-- Whether a journaled command's staged signal would exceed the capacity of its span (R552). -/
def signalOver (s : State) (key e : Nat) (c : QCmd) : Bool :=
  match cmdItem s key c with
  | none => false
  | some it => stagedOut s it (cmdSignal s key e c it.id)

/-- Whether a command performs a signal when it completes (R109, R113). -/
def cmdSignals (c : QCmd) : Bool :=
  let w := cmdWords c
  wSigen w && (!c.skipped || wSos w)

/-- Whether a signal is one of a queue to a tally of its own slot. -/
def ownSignal (s : State) (key e t : Nat) (g : Signal) : Bool :=
  g.kind == 0 && g.ctx == slotCtx s key && g.srcSpan == keySpan key && g.srcCore == keyCore key && g.eng == e
    && g.span == keySpan key && coreAliased s g.span g.core == keyCore key && g.tally == t

/-- Whether an addition that an earlier command of a queue makes to a tally of its slot is still to land: a command
that reads or sets the tally takes effect after it (R92, R113). -/
def tallyBehind (s : State) (key e : Nat) (c : QCmd) (t : Nat) : Bool :=
  ((getQ s key e).cmds.takeWhile (fun d => !cmdAt c.launch c.pc d)).any
      (fun d => cmdSignals d && ownSignal s key e t (cmdSignal s key e d 0))
    || s.core.signals.any (ownSignal s key e t)

end Sys2Proof.Machine
end

