-- ==== Sys2Proof/Machine/Matrix.lean ====
section
/-!
DEFINITION. The matrix engine (R150 to R159): `mx.mma` on operands in local memory.
-/
namespace Sys2Proof.Machine

/-- Values of every row of an operand. -/
def matAll (s : State) (key : Nat) (m : Mat) : List (List Num) := (List.range m.rows).map (matVals s key m)

/-- The value of an operand's tensor scale, one for an operand that has none (R71). -/
def tsVal (s : State) (key : Nat) (m : Mat) : Num :=
  if m.scm = 2 then fp32Val (matTscale s key m) else numOne

/-- Exact integer of an integral value. -/
def numInt : Num → Int
  | .fin n m e => if n then -((m * 2 ^ e.toNat : Nat) : Int) else ((m * 2 ^ e.toNat : Nat) : Int)
  | _ => 0

/-- Whether an `mx.mma` takes its C from the accumulator tile of the last one that its queue executed (R156). DEDUCED: the
tile is held until that command completes; after it, C is read from local memory, where the same values stand unless
something has written there (R150, log entry 76). -/
def mxForwards (s : State) (key : Nat) (w : Words) : Bool :=
  match (getQ s key 1).tile with
  | none => false
  | some x => !mxCzero w && (mxC w).base == x.base && (mxD w).base == x.base && mxM w == x.rows && mxN w == x.cols
      && (mxD w).str == x.str && x.int == mxDint w && (mxDint w || ((mxD w).fmt == .fp32 && (mxD w).scm == 0))

/-- Codes of row `r` of C: the accumulator tile's, or those in local memory (R156). -/
def mxCcodes (s : State) (key : Nat) (w : Words) (r : Nat) : List Nat :=
  match (getQ s key 1).tile with
  | some x => if mxForwards s key w then x.codes.getD r [] else matCodes s key (mxC w) r
  | none => matCodes s key (mxC w) r

/-- C of an `mx.mma` row: FP32 values, INT32 values on the integer path, or +0 under CZERO. -/
def mxCrow (s : State) (key : Nat) (w : Words) (int : Bool) (r : Nat) : List Num :=
  if mxCzero w then List.replicate (mxN w) numZero
  else if int then (mxCcodes s key w r).map (fun c => numOfInt (sextNat 32 c))
  else (mxCcodes s key w r).map fp32Val

/-- One output element of an `mx.mma` (R70, R71, R73, R154): its value and saturated chunks. -/
def mxElem (int : Bool) (ns : Bool) (n : Nat) (tA tB : Num) (a b : List Num) (c : Num) : Num × Nat :=
  if int then
    let r := cdoInt (a.map numInt) (b.map numInt) (numInt c) n
    (numOfInt r.1, r.2)
  else if ns then (cdoNs16 a b c tA tB n, 0)
  else (cdo a b c n, 0)

/-- One row of output elements of an `mx.mma`, each with the operand values that it arises from. -/
def mxRow (int ns : Bool) (n : Nat) (tA tB : Num) (a : List Num) (bs : List (List Num)) (cs : List Num) :
    List (OpRes × Nat) :=
  (bs.zip cs).map (fun p =>
    let v := mxElem int ns n tA tB a p.1 p.2
    ((a ++ p.1 ++ [p.2], v.1), v.2))

/-- INT32 results of a row stored (R154). -/
def mxStoreInt (s : State) (key : Nat) (m : Mat) (rows : List (List Num)) : State :=
  rows.zipIdx.foldl (fun acc p =>
    lmWrite acc key (matRow m p.2) (p.1.flatMap (fun v => leBytes 4 (intCode 32 (numInt v))))) s

/-- What the reads of the tensor scales of an `mx.mma` meet, those of A, B and D in this order: a code, or 0 (R65). -/
def mxTsCode (s : State) (key : Nat) (w : Words) : Nat :=
  firstCode [matTsCode s key (mxA w), matTsCode s key (mxB w), matTsCode s key (mxD w)]

/-- Whether an operand that an `mx.mma` reads holds a poisoned word; a forwarded C is not read (R156, R532). -/
def mxPoisoned (s : State) (key : Nat) (w : Words) : Bool :=
  matBad s key (mxA w) || matBad s key (mxB w) || (!mxCzero w && !mxForwards s key w && matBad s key (mxC w))

/-- The results of an `mx.mma`: rows of elements with their operands and their saturated chunks (R154). -/
def mxResults (s : State) (key : Nat) (w : Words) : List (List (OpRes × Nat)) :=
  let p := (mxPair w).getD (8, .fp32, 1)
  let int := p.2.1 == .integer
  let b := matAll s key (mxB w)
  let ns := (mxA w).scm == 2 || (mxB w).scm == 2
  (List.range (mxM w)).map (fun r =>
    mxRow int ns p.2.2 (tsVal s key (mxA w)) (tsVal s key (mxB w)) (matVals s key (mxA w) r) b (mxCrow s key w int r))

/-- The rows of values of an `mx.mma`. -/
def mxVals (s : State) (key : Nat) (w : Words) : List (List Num) :=
  (mxResults s key w).map (fun x => x.map (·.1.2))

/-- The accumulator tile that an executed `mx.mma` leaves: the codes written to D, where these are FP32 or INT32
(R156). -/
def mxTile (w : Words) (rows : List (List Num)) : Option MxTile :=
  if mxDint w then
    some ⟨(mxD w).base, mxM w, mxN w, (mxD w).str, true, rows.map (fun x => x.map (fun v => intCode 32 (numInt v)))⟩
  else if (mxD w).fmt == .fp32 && (mxD w).scm == 0 then
    some ⟨(mxD w).base, mxM w, mxN w, (mxD w).str, false, rows.map (fun x => x.map fp32Code)⟩
  else none

/-- Results of an `mx.mma` written to D, with all its events (R62, R75, R87, R154). -/
def mxWrite (s : State) (key : Nat) (c : QCmd) : State × QCmd :=
  let w := cmdWords c
  let r := mxResults s key w
  let ev := evAdd (badScales s key [mxA w, mxB w]) { evNone with intSat := (r.flatten.map (·.2)).sum }
  if mxDint w then (mxStoreInt s key (mxD w) (mxVals s key w), cmdAddEv c ev)
  else
    let o := matPutAll s key (mxD w) (r.map (fun x => x.map (·.1)))
    (o.1, cmdAddEv c (evAdd ev o.2))

/-- The other queues of a core that hold an accumulator tile. -/
def tileOthers (s : State) (key : Nat) : List Nat :=
  ([0, 1, 2, 3].map (key / 4 * 4 + ·)).filter (fun k => k != key && (getQ s k 1).tile.isSome)

/-- A queue with the accumulator tile that its engine holds. Where the other queues hold all three tiles, whose outputs are
written, the first of them gives its own up (R150). DESIGN CHOICE: which one does (log entry 76). -/
def putTile (s : State) (key : Nat) (x : Option MxTile) : State :=
  let s1 := match tileOthers s key with
    | k :: _ :: _ :: _ => putQ s k 1 { getQ s k 1 with tile := none }
    | _ => s
  putQ s1 key 1 { getQ s1 key 1 with tile := x }

/-- The oldest issued `mx.mma` of a slot runs (R154): a bad tensor scale halts the queue with FMT_SCALE before another
operand is read (R65), and a poisoned operand with LM_POISON (R535). DESIGN CHOICE: of two tensor scales that both stop
it, the one of A comes first, then B, then D (log entry 52). -/
def mxMmaEffect (sp : Fin 8) (co : Fin 16) (sl : Fin 4) (s : State) : State :=
  let key := slotKey sp co sl
  match headOp s key 1 0x40 with
  | none => s
  | some c =>
    let w := cmdWords c
    if mxTsCode s key w ≠ 0 then haltQueue s key 1 (mxTsCode s key w) c.launch c.pc (mxA w).base
    else if mxPoisoned s key w then haltQueue s key 1 eLmPoison c.launch c.pc (mxA w).base
    else
      let r := mxWrite s key c
      let rate := match mxPair w with | some p => mxRate2 p.1 | none => 1
      putTile (cmdDone (bumpF r.1 fLmxMxBusyCount (pgLmx sp co) ((mxK w * rate + 1) / 2)) key 1 r.2) key
        (mxTile w (mxVals s key w))

/-- MX_MMA (R152). -/
def execMxMma (sp : Fin 8) (co : Fin 16) (sl : Fin 4) (s : State) : Host.Outcome State Fault Refusal :=
  .next (clocked s (mxMmaEffect sp co sl s))

end Sys2Proof.Machine
end

