-- ==== Sys2Proof/Machine/Streams.lean ====
section
/-!
DEFINITION. Launches, fetch, decode, resolution, completion, signals and the common commands
(03_engines_and_command_streams.md). Every meaning has a condition under which the event comes
about, and an effect; when the condition does not hold the command changes nothing.
-/
namespace Sys2Proof.Machine

/-! ### Launches (R94 to R99) -/

/-- The fetch unit of engine `e`'s queue, which reads commands, and for the LD queue the kernel headers (R100, R398). -/
def fetchAgent (s : State) (key e prot pois unsealed : Nat) : Agent :=
  ⟨keySpan key, keyCore key, 5 + e, slotCtx s key, false, .fetch, prot, prot, pois, unsealed⟩

/-- Whether a kernel header breaks R95. -/
def headerBad (kernel : Nat) (ws : List Nat) : Bool :=
  let w0 := ws.getD 0 0
  let mask := bits w0 8 5
  kernel % 64 != 0 || bits w0 0 8 != 1 || bits w0 13 51 != 0 || ws.getD 6 0 != 0 || ws.getD 7 0 != 0
    || mask == 0
    || (List.range 5).any (fun e =>
        let a := ws.getD (e + 1) 0
        if bitAt mask e then a == 0 || a % 32 != 0 else a != 0)

/-- A launch of a slot refused with LAUNCH_HDR (R95): no engine starts it. -/
def launchRefuse (s : State) (key : Nat) (l : Launch) (poisoned : Bool) : State :=
  let x := getSlot s key
  let s0 := if poisoned then logPoison s key eLaunchHdr l.kernel l.kernel else s
  let s1 := putPart s0 key { x.part with launches := x.part.launches.filter (fun y => y.serial ≠ l.serial) }
  launchDiscard (slotError s1 key 0 eLaunchHdr l.kernel) l eLaunchHdr 0 (keyCore key) (keySpan key) l.kernel

/-- Words of a byte list. -/
def wordsOf : Nat → List Byte → List Nat
  | 0, _ => []
  | n + 1, b => leNat (b.take 8) :: wordsOf n (b.drop 8)

/-- The kernel header of a launch read and checked (R95). Code 0x100 marks poison. -/
def headerRead (s : State) (key : Nat) (l : Launch) : State :=
  if l.kernel % 64 ≠ 0 then launchRefuse s key l false
  else
    let r := readVa s (fetchAgent s key 0 eLaunchHdr 0x100 eLaunchHdr) none l.kernel 64
    match r.1 with
    | .stop (.code c _) => launchRefuse r.2.2 key l (c == 0x100)
    | .stop (.fault cause level va _) =>
      let q := getQ r.2.2 key 0
      putQ r.2.2 key 0 { q with pend := some ⟨cause, level, 3, va, 2, 0, 0, 0⟩ }
    | .bytes b =>
      let ws := wordsOf 8 b
      if headerBad l.kernel ws then launchRefuse r.2.2 key l false
      else
        let x := getSlot r.2.2 key
        putPart r.2.2 key (partSetLaunch x.part
          { l with hdr := true, mask := bits (ws.getD 0 0) 8 5, entries := (ws.drop 1).take 5 })

/-- The oldest launch waiting at its source for a context on a core; a valid alias stands for a
retired core (R96, R540). -/
def nextDelivery (s : State) (span core ctx : Nat) : Option Delivery :=
  s.core.waiting.find? (fun d => d.span == span && coreAliased s span d.core == core && d.ctx == ctx)

/-- A delivery taken from its source. -/
def takeDelivery (s : State) (d : Delivery) : State :=
  { s with core := { s.core with
      waiting := s.core.waiting.filter (fun x => !(x.launch.serial == d.launch.serial && x.core == d.core && x.span == d.span)) } }

/-- The oldest launch of a slot whose header has not been read. -/
def unreadLaunch (s : State) (key : Nat) : Option Launch :=
  (getSlot s key).part.launches.find? (fun l => !l.hdr)

/-- Whether the LD queue of a slot holds no fault, so that a header may be read. -/
def headerFree (s : State) (key : Nat) : Bool := (getQ s key 0).pend.isNone && (getQ s key 0).st != .fault

/-- LAUNCH_DELIVER comes about: the header of a resident context's oldest unread launch can be read,
or a launch waiting at its source can enter the slot or the stored record, or its context has no
record on the span. -/
def launchDeliverReady (sp : Fin 8) (co : Fin 16) (ctx : Nat) (s : State) : Bool :=
  !coreAbsent s sp co &&
  match residentSlot s sp co ctx with
  | some sl =>
    let key := slotKey sp co sl
    ((unreadLaunch s key).isSome && headerFree s key)
      || ((nextDelivery s sp co ctx).isSome && (getSlot s key).part.launches.length < 16)
  | none => match nextDelivery s sp co ctx, getRec s sp ctx with
    | some _, none => true
    | some _, some r => r.tier == .store && (look r.parts co.val newPart).launches.length < 16
    | none, _ => false

/-- A launch reaches a core and its header is read (R95, R96, R389, R655). -/
def launchDeliverEffect (sp : Fin 8) (co : Fin 16) (ctx : Nat) (s : State) : State :=
  match residentSlot s sp co ctx with
  | some sl =>
    let key := slotKey sp co sl
    match (if headerFree s key then unreadLaunch s key else none) with
    | some l => headerRead s key l
    | none => match nextDelivery s sp co ctx with
      | none => s
      | some d =>
        let s1 := takeDelivery s d
        let x := getSlot s1 key
        let s2 := putPart s1 key { x.part with launches := x.part.launches ++ [d.launch] }
        if headerFree s2 key then headerRead s2 key d.launch else s2
  | none => match nextDelivery s sp co ctx with
    | none => s
    | some d =>
      let s1 := takeDelivery s d
      match getRec s1 sp ctx with
      | none => launchDiscard s1 d.launch eLaunchAborted 0 0 0 0
      | some r =>
        let p := look r.parts co.val newPart
        putRec s1 sp ctx (recRunnable s1
          { r with parts := put r.parts co.val { p with launches := p.launches ++ [d.launch] } } co)

/-- LAUNCH_DELIVER (R95). -/
def execLaunchDeliver (sp : Fin 8) (co : Fin 16) (ctx : Nat) (s : State) : Host.Outcome State Fault Refusal :=
  .next (clocked s (if launchDeliverReady sp co ctx s then launchDeliverEffect sp co ctx s else s))

/-- Whether an engine's queue is free to start a launch. -/
def queueIdle (s : State) (key e : Nat) : Bool :=
  (getQ s key e).st == .idle && (getQ s key e).pend.isNone

/-- A queue set to run a stream from its entry. -/
def queueStart (q : Queue) (entry : Nat) : Queue :=
  { q with st := .run, pc := entry, fetchPc := entry, buf := [], entry := entry }

/-- LAUNCH_START_ENGINE comes about (R97). -/
def launchStartEngineReady (sp : Fin 8) (co : Fin 16) (sl : Fin 4) (e : Fin 5) (s : State) : Bool :=
  let key := slotKey sp co sl
  queueIdle s key e &&
  match curLaunch (getSlot s key).part e with
  | some l => l.hdr && l.seedMask / 2 == 0 && !bitAt l.started e
  | none => false

/-- An engine starts an unseeded launch; one whose mask bit is clear finishes it at once (R97). -/
def launchStartEngineEffect (sp : Fin 8) (co : Fin 16) (sl : Fin 4) (e : Fin 5) (s : State) : State :=
  let key := slotKey sp co sl
  let x := getSlot s key
  match curLaunch x.part e with
  | none => s
  | some l =>
    let l1 := { l with started := l.started ||| 2 ^ e.val }
    if bitAt l.mask e then
      let p := partSetLaunch x.part l1
      putPart s key (partSetQueue p e (queueStart (partQueue p e) (l.entries.getD e 0)))
    else putPart s key (partSetLaunch x.part { l1 with ended := l.ended ||| 2 ^ e.val })

/-- LAUNCH_START_ENGINE (R97). -/
def execLaunchStartEngine (sp : Fin 8) (co : Fin 16) (sl : Fin 4) (e : Fin 5) (s : State) :
    Host.Outcome State Fault Refusal :=
  .next (clocked s (if launchStartEngineReady sp co sl e s then launchStartEngineEffect sp co sl e s else s))

/-- Predicates after a launch's seeds (R98): bit 0 is ignored. -/
def seedPreds (preds seedVal seedMask : Nat) : Nat :=
  (List.range 16).foldl (fun acc n =>
    acc + 2 ^ n * (if n != 0 && bitAt seedMask n then bits seedVal n 1 else bits preds n 1)) 0

/-- The launch of a slot that no engine has ended and that starts next. -/
def seededNext (p : CorePart) : Option Launch := p.launches.find? (fun l => l.ended ≠ 31)

/-- LAUNCH_START_SEEDED comes about: every engine has retired the previous launch (R98). -/
def launchStartSeededReady (sp : Fin 8) (co : Fin 16) (sl : Fin 4) (s : State) : Bool :=
  let key := slotKey sp co sl
  [0, 1, 2, 3, 4].all (queueIdle s key) &&
  match seededNext (getSlot s key).part with
  | some l => l.hdr && l.seedMask / 2 != 0 && l.started == 0
  | none => false

/-- A seeded launch starts on all five engines together (R98). -/
def launchStartSeededEffect (sp : Fin 8) (co : Fin 16) (sl : Fin 4) (s : State) : State :=
  let key := slotKey sp co sl
  let x := getSlot s key
  match seededNext x.part with
  | none => s
  | some l =>
    let p := partSetLaunch x.part { l with started := 31, ended := 31 - l.mask }
    let qs := p.queues.zipIdx.map (fun q =>
      if bitAt l.mask q.2 then queueStart q.1 (l.entries.getD q.2 0) else q.1)
    putPart s key { p with queues := qs, preds := seedPreds p.preds l.seedVal l.seedMask }

/-- LAUNCH_START_SEEDED (R98). -/
def execLaunchStartSeeded (sp : Fin 8) (co : Fin 16) (sl : Fin 4) (s : State) :
    Host.Outcome State Fault Refusal :=
  .next (clocked s (if launchStartSeededReady sp co sl s then launchStartSeededEffect sp co sl s else s))

/-- Whether a launch of a slot has ended on every engine of its mask with every signal of its streams performed
(R99). -/
def launchDone (s : State) (x : Slot) (l : Launch) : Bool :=
  l.hdr && l.ended &&& l.mask == l.mask && !x.part.queues.any (fun q => q.cmds.any (fun c => c.launch == l.serial))
    && !s.core.signals.any (fun g => g.launch == l.serial)

/-- The oldest launch of a slot that is complete; an older one may still run on other engines (R99). -/
def completeNext (s : State) (key : Nat) : Option Launch :=
  let x := getSlot s key
  x.part.launches.find? (launchDone s x)

/-- A firing that overran: it counts once, raises the interrupt once, and its frame has lost the cadence (R426, R431). -/
def firingOverran (s : State) (span idx due : Nat) : State :=
  if s.sch.overran.contains (span, idx, due) then s
  else cadenceLost (irqSrc (bumpF { s with sch := { s.sch with overran := (span, idx, due) :: s.sch.overran } }
    fSchedOverrunsCount (pgSched span)) (pgSched span) 1)

/-- The tick at which a launch of a group's step completed, kept with the group (R446). -/
def stepEnded (s : State) (l : Launch) : State :=
  let hit (x : Group) : Bool := match firingKey l with | some k => x.fired.contains k | none => false
  { s with srv := { s.srv with groups := s.srv.groups.map (fun p =>
      if hit p.2 then (p.1, { p.2 with ended := s.tick }) else p) } }

/-- Whether more firings of an item's frame and START may still join it: entries of the active tables with that START have
not been dealt with in the frame, or are deferred from it (R546). -/
def itemMore (s : State) (it : Item) : Bool :=
  it.launches.any (fun d => match d.launch.src with
    | .entry _ _ work =>
      (List.range 8).any (fun sp => !spanDown s sp &&
        ((getSched s sp).deferred.any (fun f => f.2.1 == work
            && ((getSched s sp).active[f.1]?).any (fun e => f.2.2 + e.start == d.launch.due))
          || (getF s fFrameWorkValue pgFrame == work && getF s fFrameStatusState pgFrame == 1 && !getB s fFrameStatusIdle pgFrame
            && (getSched s sp).active.zipIdx.any (fun e => !(getSched s sp).seen.contains e.2
              && getF s fFrameStartValue pgFrame + e.1.start == d.launch.due))))
    | _ => false)

/-- Whether an item has completed: none of its launches is left, and no firing can join it (R499, R546). -/
def itemDone (s : State) (it : Item) : Bool := it.left == 0 && !itemMore s it

/-- An item that is not journaled leaves once it has completed. -/
def itemClose (s : State) (id : Nat) : State :=
  match getItem s id with
  | some it => if itemDone s it && !it.journaled && !it.launches.isEmpty then itemGone s it 0 else s
  | none => s

/-- Firings' items that have completed leave, once no firing can join them (R546). -/
def itemsClose (s : State) : State :=
  (s.ho.items.filter (fun it => match it.src with | .entry _ _ _ => it.left == 0 | _ => false)).foldl
    (fun acc it => itemClose acc it.id) s

/-- A completed launch reported to its source (R99, R426, R503): a firing that overran counts; the
item's last launch ends an item that is not journaled, and marks a journaled one as ready to
commit. -/
def launchReport (s : State) (l : Launch) : State :=
  let s1 := match l.src with
    | .entry span idx _ =>
      let s2 := stepEnded s l
      if s.tick > l.due + l.budget then firingOverran s2 span idx l.due else s2
    | _ => s
  match getItem s1 l.item with
  | none => s1
  | some it => itemClose (putItem s1 { it with left := it.left - 1, endTick := s.tick }) it.id

/-- LAUNCH_COMPLETE comes about (R99). -/
def launchCompleteReady (sp : Fin 8) (co : Fin 16) (sl : Fin 4) (s : State) : Bool :=
  (completeNext s (slotKey sp co sl)).isSome

/-- The oldest complete launch of a slot leaves it and is reported. -/
def launchCompleteEffect (sp : Fin 8) (co : Fin 16) (sl : Fin 4) (s : State) : State :=
  let key := slotKey sp co sl
  match completeNext s key with
  | none => s
  | some l =>
    let x := getSlot s key
    launchReport (putPart s key { x.part with launches := x.part.launches.filter (fun y => y.serial ≠ l.serial) }) l

/-- LAUNCH_COMPLETE (R99). -/
def execLaunchComplete (sp : Fin 8) (co : Fin 16) (sl : Fin 4) (s : State) :
    Host.Outcome State Fault Refusal :=
  .next (clocked s (if launchCompleteReady sp co sl s then launchCompleteEffect sp co sl s else s))

/-! ### Fetch (R100 to R102, R135) -/

/-- The code held with a fetched command (R102, R137, R266), or that of its decode. -/
def fetchedCode (s : State) (key e : Nat) (f : Fetched) : Nat :=
  match f.res with
  | .poison => eFetchPoison
  | .prot => eFetchProt
  | .unsealed => eUnsealedRead
  | _ => decodeCheck s key e ⟨f.w0, f.w1, f.w2, f.w3⟩

/-- Commands that a queue has read beyond the first one that may be the last it needs, an unresolved `q.end` or a
command that is refused (R102); none while it holds no such command. -/
def readBeyond (s : State) (key e : Nat) : Option Nat :=
  let q := getQ s key e
  let ends := q.cmds.map (fun c => (c.phase == .decoded || c.phase == .issued) && (bits c.w0 0 8 == 0x01 || c.refusal != 0))
    ++ q.buf.map (fun f => bits f.w0 0 8 == 0x01 || fetchedCode s key e f != 0)
  match ends.dropWhile (fun b => !b) with
  | [] => none
  | _ :: r => some r.length

/-- Whether a queue fetches: it runs a stream, has room for a block, and the block reads at most four commands
beyond the last that it may need (R100, R102). -/
def fetchBlockReady (sp : Fin 8) (co : Fin 16) (sl : Fin 4) (e : Fin 5) (s : State) : Bool :=
  let key := slotKey sp co sl
  let q := getQ s key e
  q.st != .idle && q.st != .haltErr && q.st != .fault && q.buf.length ≤ 4
    && !q.buf.any (fun f => f.res != .ok) && q.pend.isNone
    && match readBeyond s key e with
      | none => true
      | some n => decide (n + (4 - q.fetchPc % 128 / 32) ≤ 4)

/-- The commands of a 128-byte block from an address, with what each column read as. -/
def blockCmds (data : List Byte) (poison : Nat) (uns : Bool) (base : Nat) (k : Nat) : Fetched :=
  let ws := wordsOf 4 ((data.drop (32 * k)).take 32)
  ⟨base + 32 * k, ws.getD 0 0, ws.getD 1 0, ws.getD 2 0, ws.getD 3 0,
    if uns then .unsealed else if bitAt poison k then .poison else .ok⟩

/-- A fetch unit reads the block that holds a queue's next command, each command whole (R100 to
R102). What the read meets stays with the command until the queue needs it. -/
def fetchBlockEffect (sp : Fin 8) (co : Fin 16) (sl : Fin 4) (e : Fin 5) (s : State) : State :=
  let key := slotKey sp co sl
  let q := getQ s key e
  let va := q.fetchPc
  let put1 (st : State) (fs : List Fetched) : State :=
    putQ st key e { q with buf := q.buf ++ fs, fetchPc := va + 32 * fs.length }
  let t := translate s sp co (5 + e) (slotCtx s key) va
  match t.1 with
  | .fault c l => put1 t.2 [⟨va, 0, 0, 0, 0, .fault c l⟩]
  | .ok p =>
    if !permits p.pte .fetch then put1 t.2 [⟨va, 0, 0, 0, 0, .prot⟩]
    else
      let r := lineAccess t.2 (fetchAgent t.2 key e eFetchProt eFetchPoison eUnsealedRead) p va
      let k0 := va % 128 / 32
      put1 r.2 (((List.range 4).drop k0).map (blockCmds r.1.data r.1.poison r.1.unsealed (128 * (va / 128))))

/-- FETCH_BLOCK (R100). -/
def execFetchBlock (sp : Fin 8) (co : Fin 16) (sl : Fin 4) (e : Fin 5) (s : State) :
    Host.Outcome State Fault Refusal :=
  .next (clocked s (if fetchBlockReady sp co sl e s then fetchBlockEffect sp co sl e s else s))

/-! ### Decode (R106, R126, R127) -/

/-- COMMAND_DECODE comes about: the queue's buffer holds a command that a fault does not hold
back. -/
def commandDecodeReady (sp : Fin 8) (co : Fin 16) (sl : Fin 4) (e : Fin 5) (s : State) : Bool :=
  let q := getQ s (slotKey sp co sl) e
  (q.st == .run || q.st == .wait || q.st == .credit) &&
  match q.buf with
  | f :: _ => (match f.res with | .fault _ _ => false | _ => true)
  | [] => false

/-- A held command as it enters its queue. -/
def newCmd (f : Fetched) (code entry launch : Nat) : QCmd :=
  ⟨f.pc, f.w0, f.w1, f.w2, f.w3, code, .decoded, false, 0, nominalWords ⟨f.w0, f.w1, f.w2, f.w3⟩,
    0, 0, 0, 0, false, false, 0, 0, 0, 0, (f.pc - entry) / 32, launch, 0, false⟩

/-- A command takes a credit, enters its queue and is checked; without a credit the queue shows
CREDIT (R106, R126, R127). DESIGN CHOICE: a queue that is blocked in `tl.wait` as well keeps showing WAIT (log
entry 46). -/
def commandDecodeEffect (sp : Fin 8) (co : Fin 16) (sl : Fin 4) (e : Fin 5) (s : State) : State :=
  let key := slotKey sp co sl
  let q := getQ s key e
  match q.buf with
  | [] => s
  | f :: rest =>
    if credFree s (coreNo sp co) sl e then
      let serial := match curLaunch (getSlot s key).part e with | some l => l.serial | none => 0
      let c := newCmd f (fetchedCode s key e f) q.entry serial
      putQ s key e { q with
        st := if q.st == .credit then .run else q.st, buf := rest, cmds := q.cmds ++ [c] }
    else putQ s key e { q with st := if q.st == .run then .credit else q.st }

/-- COMMAND_DECODE (R106). -/
def execCommandDecode (sp : Fin 8) (co : Fin 16) (sl : Fin 4) (e : Fin 5) (s : State) :
    Host.Outcome State Fault Refusal :=
  .next (clocked s (if commandDecodeReady sp co sl e s then commandDecodeEffect sp co sl e s else s))

/-! ### The common commands' shared parts -/

/-- The queue after a common command has had its effect: an issued command becomes executed. -/
def commonDone (s : State) (key e : Nat) (c : QCmd) : State := cmdDone s key e c

/-- Value of predicate `n` of a core part; P0 reads 1 (R107). -/
def predOf (p : CorePart) (n : Nat) : Bool := n == 0 || bitAt p.preds n

/-- A predicate written; P0 keeps 1 (R107). -/
def predSet (p : CorePart) (n : Nat) (b : Bool) : CorePart :=
  if n = 0 then p else { p with preds := setBits p.preds n 1 (if b then 1 else 0) }

/-- A predicate write by an issued `pr.*` command, which is then executed. -/
def predWrite (s : State) (key e : Nat) (c : QCmd) (b : Bool) : State :=
  cmdDone (putPart s key (predSet (getSlot s key).part (bits c.w1 0 4) b)) key e c

/-- Table: Scope of a signal and wait pair (R328): whether the pair orders memory. -/
def pairOrders (r : ScopeRec) (waitScope span core : Nat) : Bool :=
  let sc := min r.scope waitScope
  if r.kind ≠ 0 then sc ≥ 2
  else if r.span == span && r.core == core then true
  else if r.span == span then sc ≥ 1
  else sc ≥ 2

/-- A wait retires as an acquire: with checking on, it is compared with the last addition recorded
for its tally (R345). -/
def waitRetire (s : State) (key e : Nat) (c : QCmd) : State :=
  let pg := pgTly (keySpan key) (keyCore key)
  let t := bits c.w1 48 7
  let sc := bits c.w0 16 2
  let x := getSlot s key
  let s1 := cmdDone s key e c
  if !getB s fTlyScopeChkEnable pg || !has x.scopes t then s1
  else
    let r := look x.scopes t ⟨0, 0, 0, 0⟩
    let s2 := if r.scope = sc then s1 else bumpF s1 fTlyScopeMismatchCount pg
    if pairOrders r sc (keySpan key) (keyCore key) then s2
    else
      let s3 := bumpF s2 fTlyScopeNoorderCount pg
      if getB s3 fTlyScopeLastValid pg then s3
      else
        let v := 2 ^ 44 + 2 ^ 32 * (slotCtx s key)
          + (if r.kind = 0 then 2 ^ 28 * r.core + 2 ^ 25 * r.span else 0) + 2 ^ 23 * r.kind
          + 2 ^ 21 * r.scope + 2 ^ 19 * sc + 2 ^ 12 * t + 2 ^ 10 * keySlot key
        wrR s3 .tlyScopeLast pg 0 v

/-! ### Completion (R88, R113 to R116, R207) -/

/-- COMMAND_COMPLETE comes about: the oldest command of a queue has had its effects, so its signal
is the next of the queue (R113). -/
def commandCompleteReady (sp : Fin 8) (co : Fin 16) (sl : Fin 4) (e : Fin 5) (s : State) : Bool :=
  match (getQ s (slotKey sp co sl) e).cmds with
  | c :: _ => c.phase == .executed
  | [] => false

/-- Whether a command is an `mx.mma` that has run and not completed, which holds an accumulator tile (R150). -/
def tileHolder (c : QCmd) : Bool := c.phase == .executed && !c.skipped && wOp (cmdWords c) == 0x40

/-- A command completes: its counts are added, its signal is performed, its credit returns (R88,
R113, R126), and the accumulator tile of an `mx.mma` is free again (R150). A journaled command whose staged signal finds
no room halts with JRNL_FULL (R552). -/
def commandCompleteEffect (sp : Fin 8) (co : Fin 16) (sl : Fin 4) (e : Fin 5) (s : State) : State :=
  let key := slotKey sp co sl
  let q := getQ s key e
  match q.cmds with
  | [] => s
  | c :: rest =>
    if cmdSignals c && signalOver s key e c then haltQueue s key e eJrnlFull c.launch c.pc 0
    else
      let s1 := if c.skipped then s else cmdCount s key c
      let s2 := putQ s1 key e { q with cmds := rest, tile := if rest.any tileHolder then q.tile else none }
      if cmdSignals c then performSignal s2 key e c else s2

/-- COMMAND_COMPLETE (R113). -/
def execCommandComplete (sp : Fin 8) (co : Fin 16) (sl : Fin 4) (e : Fin 5) (s : State) :
    Host.Outcome State Fault Refusal :=
  .next (clocked s (if commandCompleteReady sp co sl e s then commandCompleteEffect sp co sl e s else s))

/-- Whether two signals come from one queue, or from one sender outside the cores to one tally. -/
def sameSource (g h : Signal) : Bool :=
  h.kind == g.kind && h.ctx == g.ctx && h.srcSpan == g.srcSpan && h.srcCore == g.srcCore
    && (if g.kind == 0 then h.eng == g.eng else h.span == g.span && h.core == g.core && h.tally == g.tally)

/-- SIGNAL_ARRIVAL comes about: a signal numbered `i` among those on their way; the signals of one
queue are performed in program order, whatever their tallies (R113). -/
def signalArrivalReady (i : Nat) (s : State) : Bool :=
  match s.core.signals[i]? with
  | some g => !(s.core.signals.take i).any (sameSource g)
  | none => false

/-- A tally addition arrives (R118). -/
def signalArrivalEffect (i : Nat) (s : State) : State :=
  match s.core.signals[i]? with
  | none => s
  | some g => landSignal { s with core := { s.core with signals := s.core.signals.eraseIdx i } } g

/-- SIGNAL_ARRIVAL (R118). -/
def execSignalArrival (i : Nat) (s : State) : Host.Outcome State Fault Refusal :=
  .next (clocked s (if signalArrivalReady i s then signalArrivalEffect i s else s))

/-! ### Common commands (R121 to R124) -/

/-- Whether the oldest issued command of a queue has an opcode. -/
def headIs (sp : Fin 8) (co : Fin 16) (sl : Fin 4) (e : Fin 5) (op : Nat) (s : State) : Bool :=
  (headOp s (slotKey sp co sl) e op).isSome

/-- The effect of a command, when it is the oldest issued one of its queue. -/
def onHead (sp : Fin 8) (co : Fin 16) (sl : Fin 4) (e : Fin 5) (op : Nat) (s : State)
    (f : Nat → QCmd → State) : State :=
  match headOp s (slotKey sp co sl) e op with
  | some c => f (slotKey sp co sl) c
  | none => s

/-- `q.nop` does nothing (R122). -/
def qNopEffect (sp : Fin 8) (co : Fin 16) (sl : Fin 4) (e : Fin 5) (s : State) : State :=
  onHead sp co sl e 0x00 s (fun key c => cmdDone s key e c)

/-- Q_NOP (R122). -/
def execQNop (sp : Fin 8) (co : Fin 16) (sl : Fin 4) (e : Fin 5) (s : State) :
    Host.Outcome State Fault Refusal := .next (clocked s (qNopEffect sp co sl e s))

/-- `q.end` ends the stream (R122): commands behind it and the buffer leave the queue, and the
engine has ended the launch. -/
def qEndEffect (sp : Fin 8) (co : Fin 16) (sl : Fin 4) (e : Fin 5) (s : State) : State :=
  onHead sp co sl e 0x01 s (fun key c =>
    let x := getSlot s key
    let q := partQueue x.part e
    let keep := q.cmds.takeWhile (fun y => !cmdAt c.launch c.pc y)
    let gone := (q.cmds.dropWhile (fun y => !cmdAt c.launch c.pc y)).drop 1
    let q1 := { q with st := .idle, buf := [], cmds := keep ++ [{ c with phase := .executed }] }
    let p1 := match curLaunch x.part e with
      | some l => partSetLaunch x.part { l with ended := l.ended ||| 2 ^ e.val }
      | none => x.part
    putPart (specCancel s key gone) key (partSetQueue p1 e q1))

/-- Q_END (R122). -/
def execQEnd (sp : Fin 8) (co : Fin 16) (sl : Fin 4) (e : Fin 5) (s : State) :
    Host.Outcome State Fault Refusal := .next (clocked s (qEndEffect sp co sl e s))

/-- `tl.wait` retires when its tally has reached the target, and otherwise blocks the queue (R112,
R122, R124). -/
def tlWaitEffect (sp : Fin 8) (co : Fin 16) (sl : Fin 4) (e : Fin 5) (s : State) : State :=
  onHead sp co sl e 0x02 s (fun key c =>
    let t := bits c.w1 48 7
    let target := bits c.w1 0 48
    let q := getQ s key e
    if q.st == .wait || tallyBehind s key e c t then s
    else if tallyReached (tallyOf (getSlot s key).part t) target then waitRetire s key e c
    else putQ s key e { q with
      st := .wait, waitTally := t, waitTarget := target, waitLeft := bits c.w2 0 32, waitAt := s.tick })

/-- TL_WAIT (R122). -/
def execTlWait (sp : Fin 8) (co : Fin 16) (sl : Fin 4) (e : Fin 5) (s : State) :
    Host.Outcome State Fault Refusal := .next (clocked s (tlWaitEffect sp co sl e s))

/-- Whether a queue is blocked in `tl.wait` and its tally has reached the target. -/
def waitOver (s : State) (key e : Nat) : Bool :=
  let q := getQ s key e
  q.st == .wait && tallyReached (tallyOf (getSlot s key).part q.waitTally) q.waitTarget

/-- A blocked wait finds its target reached and retires as an acquire (R112, R122). -/
def tlWaitSatisfiedEffect (sp : Fin 8) (co : Fin 16) (sl : Fin 4) (e : Fin 5) (s : State) : State :=
  let key := slotKey sp co sl
  if waitOver s key e then
    onHead sp co sl e 0x02 s (fun key c =>
      let s1 := waitRetire s key e c
      putQ s1 key e { getQ s1 key e with st := .run, waitTally := 0, waitTarget := 0, waitLeft := 0 })
  else s

/-- TL_WAIT_SATISFIED (R112). -/
def execTlWaitSatisfied (sp : Fin 8) (co : Fin 16) (sl : Fin 4) (e : Fin 5) (s : State) :
    Host.Outcome State Fault Refusal := .next (clocked s (tlWaitSatisfiedEffect sp co sl e s))

/-- Whether a blocked wait's timeout has expired with its target not reached (R124). -/
def waitExpired (s : State) (key e : Nat) : Bool :=
  let q := getQ s key e
  q.st == .wait && q.waitLeft != 0 && s.tick ≥ q.waitAt + 1024 * q.waitLeft && !waitOver s key e

/-- The queue halts with WAIT_TIMEOUT and the wait does not retire, once every earlier command has completed (R124,
R137). -/
def waitTimeoutEffect (sp : Fin 8) (co : Fin 16) (sl : Fin 4) (e : Fin 5) (s : State) : State :=
  if waitExpired s (slotKey sp co sl) e then
    onHead sp co sl e 0x02 s (fun key c =>
      if atFront (getQ s key e) c then haltQueue s key e eWaitTimeout c.launch c.pc 0 else s)
  else s

/-- WAIT_TIMEOUT (R124). -/
def execWaitTimeout (sp : Fin 8) (co : Fin 16) (sl : Fin 4) (e : Fin 5) (s : State) :
    Host.Outcome State Fault Refusal := .next (clocked s (waitTimeoutEffect sp co sl e s))

/-- `tl.signal`: its addition is made as its completion signal (R122). -/
def tlSignalEffect (sp : Fin 8) (co : Fin 16) (sl : Fin 4) (e : Fin 5) (s : State) : State :=
  onHead sp co sl e 0x03 s (fun key c => cmdDone s key e c)

/-- TL_SIGNAL (R122). -/
def execTlSignal (sp : Fin 8) (co : Fin 16) (sl : Fin 4) (e : Fin 5) (s : State) :
    Host.Outcome State Fault Refusal := .next (clocked s (tlSignalEffect sp co sl e s))

/-- `tl.set` writes VALUE to a local tally, after every addition of the queue's earlier commands to it (R92, R122,
R327). -/
def tlSetEffect (sp : Fin 8) (co : Fin 16) (sl : Fin 4) (e : Fin 5) (s : State) : State :=
  onHead sp co sl e 0x04 s (fun key c =>
    if tallyBehind s key e c (bits c.w1 48 7) then s
    else cmdDone (putPart s key (tallySet (getSlot s key).part (bits c.w1 48 7) (bits c.w1 0 48))) key e c)

/-- TL_SET (R122). -/
def execTlSet (sp : Fin 8) (co : Fin 16) (sl : Fin 4) (e : Fin 5) (s : State) :
    Host.Outcome State Fault Refusal := .next (clocked s (tlSetEffect sp co sl e s))

/-- `pr.set` writes VALUE to PD (R122). -/
def prSetEffect (sp : Fin 8) (co : Fin 16) (sl : Fin 4) (e : Fin 5) (s : State) : State :=
  onHead sp co sl e 0x05 s (fun key c => predWrite s key e c (bitAt c.w1 4))

/-- PR_SET (R122). -/
def execPrSet (sp : Fin 8) (co : Fin 16) (sl : Fin 4) (e : Fin 5) (s : State) :
    Host.Outcome State Fault Refusal := .next (clocked s (prSetEffect sp co sl e s))

/-- Result of a comparison from "less" and "equal" (R121): EQ, NE, LT, LE, GT, GE. -/
def cmpOp (op : Nat) (lt eq : Bool) : Bool :=
  match op with
  | 0 => eq | 1 => !eq | 2 => lt | 3 => lt || eq | 4 => !(lt || eq) | _ => !lt

/-- Whether one value is below another where −0 equals +0 (R122). -/
def numBelow (x y : Num) : Bool :=
  match x, y with
  | .fin _ 0 _, .fin _ 0 _ => false
  | _, _ => numLt x y

/-- `pr.cmp` of an operand with an immediate (R121, R122): a NaN gives 1 for NE and 0 otherwise, and −0
equals +0. -/
def cmpVal (ty op a b : Nat) : Bool :=
  match ty with
  | 0 => cmpOp op (sextNat 32 a < sextNat 32 b) (a == b)
  | 1 => cmpOp op (a < b) (a == b)
  | 2 => cmpOp op (sextNat 64 a < sextNat 64 b) (a == b)
  | 3 => cmpOp op (a < b) (a == b)
  | _ =>
    let x := fp32Val a
    let y := fp32Val b
    if numIsNan x || numIsNan y then op == 1
    else cmpOp op (numBelow x y) (!numBelow x y && !numBelow y x)

/-- `pr.cmp` reads local memory and writes its comparison to PD; a poisoned word halts the queue
(R122, R123, R535). -/
def prCmpEffect (sp : Fin 8) (co : Fin 16) (sl : Fin 4) (e : Fin 5) (s : State) : State :=
  onHead sp co sl e 0x06 s (fun key c =>
    let ty := bits c.w1 8 3
    let n := if ty = 2 ∨ ty = 3 then 8 else 4
    let a := bits c.w2 0 23
    if lmBad s key a n then haltQueue s key e eLmPoison c.launch c.pc a
    else predWrite s key e c (cmpVal ty (bits c.w1 4 3) (leNat (lmRead s key a n)) (bits c.w3 0 (8 * n))))

/-- PR_CMP (R122). -/
def execPrCmp (sp : Fin 8) (co : Fin 16) (sl : Fin 4) (e : Fin 5) (s : State) :
    Host.Outcome State Fault Refusal := .next (clocked s (prCmpEffect sp co sl e s))

/-- `pr.logic` combines two predicates after the inversions (R122). -/
def prLogicEffect (sp : Fin 8) (co : Fin 16) (sl : Fin 4) (e : Fin 5) (s : State) : State :=
  onHead sp co sl e 0x07 s (fun key c =>
    let p := (getSlot s key).part
    let a := predOf p (bits c.w1 4 4) ^^ bitAt c.w1 12
    let b := predOf p (bits c.w1 8 4) ^^ bitAt c.w1 13
    predWrite s key e c (match bits c.w1 14 2 with | 0 => a && b | 1 => a || b | _ => a ^^ b))

/-- PR_LOGIC (R122). -/
def execPrLogic (sp : Fin 8) (co : Fin 16) (sl : Fin 4) (e : Fin 5) (s : State) :
    Host.Outcome State Fault Refusal := .next (clocked s (prLogicEffect sp co sl e s))

/-- `pr.tally` samples whether a tally has reached its target, after every addition of the queue's earlier commands
to it (R92, R122). -/
def prTallyEffect (sp : Fin 8) (co : Fin 16) (sl : Fin 4) (e : Fin 5) (s : State) : State :=
  onHead sp co sl e 0x08 s (fun key c =>
    if tallyBehind s key e c (bits c.w1 4 7) then s
    else predWrite s key e c (tallyReached (tallyOf (getSlot s key).part (bits c.w1 4 7)) (bits c.w2 0 48)))

/-- PR_TALLY (R122). -/
def execPrTally (sp : Fin 8) (co : Fin 16) (sl : Fin 4) (e : Fin 5) (s : State) :
    Host.Outcome State Fault Refusal := .next (clocked s (prTallyEffect sp co sl e s))

/-! ### Slot controls (R139) -/

/-- HALT bits set for queues of a slot; each stops at its next resolution point (R139). -/
def slotHaltEffect (sp : Fin 8) (co : Fin 16) (sl : Fin 4) (mask m : Nat) (s : State) : State :=
  guarded s (pgCq sp co) m (0x208 + 0x40 * sl)
    (setF s fCqSlotCtrlHalt (pgCq sp co) (getF s fCqSlotCtrlHalt (pgCq sp co) sl ||| mask % 32) sl)

/-- SLOT_HALT (R139), on a present core. -/
def execSlotHalt (sp : Fin 8) (co : Fin 16) (sl : Fin 4) (mask m : Nat) (s : State) :
    Host.Outcome State Fault Refusal :=
  .next (clocked s (if coreAbsent s sp co then rejectPath s .absent m (0x208 + 0x40 * sl) 0
    else slotHaltEffect sp co sl mask m s))

/-- A queue that runs again from its stored state. -/
def queueResume (x : CorePart) (e : Nat) (q : Queue) : Queue :=
  { q with st := if (curLaunch x e).any (fun l => bitAt l.started e) then .run else .idle }

/-- RESUME continues a queue in HALT_REQ from CQ.PC and clears its HALT bit; in any other state it
only clears the bit (R139, R142). -/
def slotResumeEffect (sp : Fin 8) (co : Fin 16) (sl : Fin 4) (mask m : Nat) (s : State) : State :=
  let key := slotKey sp co sl
  let go := (List.range 5).foldl (fun acc e =>
    if bitAt mask e then
      let s1 := clrBitF acc fCqSlotCtrlHalt (pgCq sp co) e sl
      let q := getQ s1 key e
      if q.st == .haltReq then putQ s1 key e (queueResume (getSlot s1 key).part e q) else s1
    else acc) s
  guarded s (pgCq sp co) m (0x208 + 0x40 * sl) go

/-- SLOT_RESUME (R139). -/
def execSlotResume (sp : Fin 8) (co : Fin 16) (sl : Fin 4) (mask m : Nat) (s : State) :
    Host.Outcome State Fault Refusal :=
  .next (clocked s (if coreAbsent s sp co then rejectPath s .absent m (0x208 + 0x40 * sl) 0
    else slotResumeEffect sp co sl mask m s))

/-! ### Host signals and count clears (R87, R144, R207, R333) -/

/-- A host write of TLY.SIGNAL adds to a tally of the slot in TLY.SEL; a slot with no context
rejects it (R144, R333). -/
def tlySignalEffect (sp : Fin 8) (co : Fin 16) (tally : Fin 128) (add m : Nat) (s : State) : State :=
  let sl := getF s fTlySelSlot (pgTly sp co)
  let x := getSlot s (slotKey sp co sl)
  match x.ctx with
  | none => reject s (pgTly sp co) .range m 0x108 0
  | some ctx => sendSignal (hostSpoke s) ⟨ctx, sp, co, tally, add % 2 ^ 48, 2, 1, 0, 0, 0, 0, 0⟩

/-- TLY_SIGNAL (R144). -/
def execTlySignal (sp : Fin 8) (co : Fin 16) (tally : Fin 128) (add m : Nat) (s : State) :
    Host.Outcome State Fault Refusal :=
  .next (clocked s (if coreAbsent s sp co then rejectPath s .absent m 0x108 0
    else guarded s (pgTly sp co) m 0x108 (tlySignalEffect sp co tally add m s)))

/-- The format counts of a span's contexts with one, or all, cleared (R87). -/
def numevClear (s : State) (span : Nat) (which : Nat → Bool) : State :=
  { s with cx := { s.cx with numev := s.cx.numev.filter (fun p => !(p.1.1 == span && which p.1.2)) } }

/-- NUMEV_CLEAR_ALL (R87). -/
def execNumevClearAll (sp : Fin 8) (m : Nat) (s : State) : Host.Outcome State Fault Refusal :=
  .next (clocked s (guarded s (pgNumev sp) m 0x130 (numevClear s sp (fun _ => true))))

/-- NUMEV_CLEAR_CTX (R87). -/
def execNumevClearCtx (sp : Fin 8) (m : Nat) (s : State) : Host.Outcome State Fault Refusal :=
  .next (clocked s (guarded s (pgNumev sp) m 0x130
    (numevClear s sp (fun c => c == getF s fNumevCtxSelCtx (pgNumev sp)))))

/-- The data-movement counts of a span's contexts with one, or all, cleared (R207). -/
def dmaevClear (s : State) (span : Nat) (which : Nat → Bool) : State :=
  { s with cx := { s.cx with dmaev := s.cx.dmaev.filter (fun p => !(p.1.1 == span && which p.1.2)) } }

/-- DMAEV_CLEAR_ALL (R207). -/
def execDmaevClearAll (sp : Fin 8) (m : Nat) (s : State) : Host.Outcome State Fault Refusal :=
  .next (clocked s (guarded s (pgDmaev sp) m 0x130 (dmaevClear s sp (fun _ => true))))

/-- DMAEV_CLEAR_CTX (R207). -/
def execDmaevClearCtx (sp : Fin 8) (m : Nat) (s : State) : Host.Outcome State Fault Refusal :=
  .next (clocked s (guarded s (pgDmaev sp) m 0x130
    (dmaevClear s sp (fun c => c == getF s fDmaevCtxSelCtx (pgDmaev sp)))))

/-- Setting TLY.SCOPE_CHK.ENABLE from 0 to 1 clears every tally's record (R345). -/
def scopeChkEnableEffect (sp : Fin 8) (co : Fin 16) (s : State) : State :=
  if getB s fTlyScopeChkEnable (pgTly sp co) then s
  else
    let s1 := setB s fTlyScopeChkEnable (pgTly sp co) true
    { s1 with core := { s1.core with slots := s1.core.slots.map (fun p =>
        if p.1 / 4 = coreNo sp co then (p.1, { p.2 with scopes := [] }) else p) } }

/-- SCOPE_CHK_ENABLE (R345). -/
def execScopeChkEnable (sp : Fin 8) (co : Fin 16) (m : Nat) (s : State) :
    Host.Outcome State Fault Refusal :=
  .next (clocked s (if coreAbsent s sp co then rejectPath s .absent m 0x118 0
    else guarded s (pgTly sp co) m 0x118 (scopeChkEnableEffect sp co s)))

end Sys2Proof.Machine
end

