-- ==== Sys2Proof/Machine/Tensor.lean ====
section
/-!
DEFINITION. Tensor descriptors, boxes, index lists and the walk of the LD and ST engines (R176 to
R198, R201 to R204, R654).
-/
namespace Sys2Proof.Machine

/-! ### Descriptors (R176, R178) -/

/-- A tensor descriptor. -/
structure Desc where
  base : Nat
  scaleBase : Nat
  fmtCode : Nat
  scm : Nat
  rank : Nat
  clamp : Bool
  idx64 : Bool
  fromEnd : Bool
  fill : Nat
  tscale : Nat
  ext : List Nat
  str : List Int
  deriving DecidableEq, Repr

/-- A descriptor from its sixteen words (R176). -/
def descOf (ws : List Nat) : Desc :=
  let w (i : Nat) : Nat := ws.getD i 0
  { base := w 0, scaleBase := w 1, fmtCode := bits (w 2) 8 4, scm := bits (w 2) 12 2
    rank := bits (w 2) 14 3, clamp := bitAt (w 2) 17, idx64 := bitAt (w 2) 18
    fromEnd := bitAt (w 2) 19, fill := bits (w 2) 32 32, tscale := bits (w 3) 0 32
    ext := [bits (w 4) 0 32, bits (w 4) 32 32, bits (w 5) 0 32, bits (w 5) 32 32,
      bits (w 6) 0 32, bits (w 6) 32 32]
    str := (List.range 6).map (fun d => sextNat 40 (bits (w (7 + d)) 0 40)) }

/-- Element format of a descriptor. -/
def descFmt (d : Desc) : Fmt := fmtOr d.fmtCode

/-- Extent of a dimension. -/
def dExt (d : Desc) (k : Nat) : Nat := d.ext.getD k 1
/-- Stride of a dimension. -/
def dStr (d : Desc) (k : Nat) : Int := d.str.getD k 0

/-- Check 1 of R178. -/
def descForm (ws : List Nat) (d : Desc) : Bool :=
  let w (i : Nat) : Nat := ws.getD i 0
  bits (w 2) 0 8 == 1 && bits (w 2) 20 12 == 0 && bits (w 3) 32 32 == 0
    && (List.range 6).all (fun k => bits (w (7 + k)) 40 24 == 0)
    && w 13 == 0 && w 14 == 0 && w 15 == 0 && 1 ≤ d.rank && d.rank ≤ 6
    && (List.range 6).all (fun k =>
        if k < d.rank then dExt d k ≥ 1 else dExt d k == 1 && dStr d k == 0)

/-- Check 4 of R178. -/
def descScaleForm (d : Desc) : Bool :=
  (if d.scm = 0 then d.scaleBase == 0 else d.scaleBase != 0)
    && (d.scm == 2 || d.tscale == 0) && d.fill < 2 ^ fmtWidth (descFmt d)
    && (!d.clamp || d.fill == 0)
    && (match fmtWidth (descFmt d) with | 16 => d.base % 2 == 0 | 32 => d.base % 4 == 0 | _ => true)

/-- Whether a tensor is packed or scaled. -/
def descPacked (d : Desc) : Bool := fmtIsPacked (descFmt d) || d.scm != 0

/-- Check 6 of R178: packed formats and scaled tensors pack along dimension 0 (R57). -/
def descLayout (d : Desc) : Bool :=
  if descPacked d then
    dStr d 0 == 1
      && [1, 2, 3, 4, 5].all (fun k => dExt d k ≤ 1 || dStr d k % (fmtGroup (descFmt d) : Int) == 0)
  else true

/-- Whether a reducer store's formats fit its operation (R192). -/
def redFormats (w : Words) (d : Desc) : Bool :=
  let op := bits w.w2 35 4
  if op ≤ 2 then d.fmtCode ≤ 2 && d.scm == 0 && !fmtIsInt (fmtOr (bits w.w2 26 4))
  else d.fmtCode == 0 && d.scm == 0 && bits w.w2 26 4 == 0 && bits w.w2 30 2 == 0

/-- The first failing check of a descriptor with the fields of its command (R178, R192, R195), 0 for
none. -/
def descCheck (w : Words) (ws : List Nat) : Nat :=
  let d := descOf ws
  let ix := opIndexed (wOp w)
  firstCode [
    codeIf (!descForm ws d) eDescInvalid,
    codeIf (d.fmtCode ≥ 10 || d.scm == 3) eFmtReserved,
    codeIf (!scmLegal d.scm (descFmt d)) eFmtScale,
    codeIf (!descScaleForm d) eDescInvalid,
    codeIf (d.scm == 2 && !tscaleOk d.tscale) eFmtScale,
    codeIf (!descLayout d) eFmtLayout,
    codeIf (ix && (bits w.w2 32 3 ≥ d.rank || (d.idx64 && w.w3 % 8 != 0))) eDescInvalid,
    codeIf (ix && bits w.w2 32 3 == 0 && descPacked d) eFmtLayout,
    codeIf (opReduces (wOp w) && !redFormats w d) eFmtEngine]

/-! ### Boxes (R180, R184) -/

/-- A box: origins and sizes of the six dimensions. -/
structure Box where
  org : List Int
  size : List Nat
  deriving DecidableEq, Repr

/-- The box that a record of 64 bytes holds (R180). -/
def boxOf (b : List Byte) : Box :=
  ⟨(List.range 6).map (fun k => sextNat 32 (leNat ((b.drop (4 * k)).take 4))),
    (List.range 6).map (fun k => leNat ((b.drop (24 + 4 * k)).take 4))⟩

/-- Whether a box record obeys R180. -/
def boxOk (d : Desc) (b : List Byte) : Bool :=
  let x := boxOf b
  (b.drop 48).all (· == 0) && (List.range 6).all (fun k =>
    if k < d.rank then x.size.getD k 0 ≥ 1 else x.org.getD k 0 == 0 && x.size.getD k 0 == 1)

/-- The box of a command without a record: the whole tensor, or the index list along GDIM (R180,
R195). -/
def wholeBox (w : Words) (d : Desc) : Box :=
  ⟨List.replicate 6 0, if opIndexed (wOp w) then d.ext.set (bits w.w2 32 3) (bits w.w2 40 24) else d.ext⟩

/-- Whether a command has a box record. -/
def hasBox (w : Words) : Bool := opBoxed (wOp w) && wFlag w 40
/-- Window offset of a box record. -/
def boxLm (w : Words) : Nat := bits w.w2 40 17 * 64

/-- Size of a dimension of a box. -/
def bSize (b : Box) (k : Nat) : Nat := b.size.getD k 1
/-- Origin of a dimension of a box. -/
def bOrg (b : Box) (k : Nat) : Int := b.org.getD k 0
/-- Rows of the local matrix. -/
def bRows (b : Box) : Nat := bSize b 1 * bSize b 2 * bSize b 3 * bSize b 4 * bSize b 5

/-- Bytes of a local element where a reducer add takes INT64 operands (R192). -/
def localWide (w : Words) : Bool := opReduces (wOp w) && bits w.w2 35 4 == 4

/-- The local matrix of a tensor command (R184). -/
def localMat (w : Words) (b : Box) : Mat :=
  ⟨bits w.w2 0 17 * 64, bRows b, if localWide w then bSize b 0 * 2 else bSize b 0,
    bits w.w2 17 9, fmtOr (bits w.w2 26 4), bits w.w2 30 2⟩

/-- Bytes of a local index list. -/
def idxListBytes (w : Words) (d : Desc) : Nat := bits w.w2 40 24 * (if d.idx64 then 8 else 4)

/-- The local footprint check (R185). -/
def localOk (w : Words) (d : Desc) (b : Box) (win : Nat) : Bool :=
  let m := localMat w b
  let idx := (bits w.w3 0 23, idxListBytes w d)
  let loc := opIndexed (wOp w) && wFlag w 42
  m.str * 64 ≥ matRowBytes m && matInside win m
    && !(hasBox w && (matRanges m).any (rangeMeets (boxLm w, 64)))
    && !(loc && ((matRanges m).any (rangeMeets idx) || idx.1 + idx.2 > win))

/-- Whether source and target formats and scale modes are equal (R189). -/
def sameFormat (w : Words) (d : Desc) : Bool :=
  !opReduces (wOp w) && d.fmtCode == bits w.w2 26 4 && d.scm == bits w.w2 30 2

/-- The block conditions of an unchanged copy of a scaled tensor (R190, R654). -/
def unchangedOk (w : Words) (d : Desc) (b : Box) : Bool :=
  if sameFormat w d && d.scm != 0 && opBoxed (wOp w) then
    let len : Int := scmBlock d.scm
    let last : Int := (dExt d 0 + scmBlock d.scm - 1) / scmBlock d.scm * scmBlock d.scm
    let e := bOrg b 0 + (bSize b 0 : Int)
    bOrg b 0 % len == 0 && decide (e ≤ last)
      && (wOp w == 0x20 || e % len == 0 || decide (e ≤ 0) || decide (e ≥ (dExt d 0 : Int)))
  else true

/-- Nominal byte count of a tensor command (R191). -/
def tensorNominal (w : Words) (d : Desc) (b : Box) : Nat :=
  if localWide w then bRows b * bSize b 0 * 8
  else if wOp w < 0x40 then bRows b * packedBytes (fmtOr (bits w.w2 26 4)) (bSize b 0)
  else bRows b * packedBytes (descFmt d) (bSize b 0)

/-! ### The walk (R181) -/

/-- What stays fixed in a command's walk. -/
structure Job where
  key : Nat
  eng : Nat
  w : Words
  d : Desc
  b : Box
  g : Agent
  deriving DecidableEq, Repr

/-- A source element of a load: its code, scale byte, whether it is a FILL, and its value (R183,
R189). -/
structure SrcEl where
  code : Nat
  scale : Nat
  fill : Bool
  val : Num
  deriving DecidableEq, Repr

/-- What a command's walk changes: the state, the last lines read, why it stopped and in which phase (R202), counts,
events, the invalid blocks counted, bits read from memory, written to it, and moved to or from the host, index groups
read, the elements read for index positions that repeat, and the packed group and the scale byte read last. -/
structure Mv where
  s : State
  memo : Option LineMemo
  smemo : Option LineMemo
  stop : Option Stop
  phase : Nat
  oobR : Nat
  oobW : Nat
  oobI : Nat
  coal : Nat
  ev : NumEv
  bad : List Nat
  rbits : Nat
  wbits : Nat
  hbits : Nat
  groups : List (Nat × List Int)
  seen : List ((Nat × List Int) × SrcEl)
  grp : Option (Nat × List Byte)
  sgrp : Option (Nat × Nat)
  /-- Bytes written last for the present run, from the first to past the last, of elements and of scales, so that what
  continues them is of one transaction (R206, R320). -/
  wrun : Nat × Nat
  srun : Nat × Nat
  /-- The block of a converting store that is under way, by its row of the box and its scale byte, with the values of its
  elements and what each stands for as an operand (R75, R654). -/
  blk : Option ((Nat × Nat) × List (Num × Num))
  deriving DecidableEq, Repr

/-- A walk that starts with counts. -/
def mvStart (s : State) (r : Restart) : Mv :=
  ⟨s, none, none, none, 0, r.oobR, r.oobW, r.oobI, r.coal, evNone, r.bad, 0, 0, 0, [], [], none, none, (0, 0), (0, 0), none⟩

/-- A walk stopped. -/
def mvStop (m : Mv) (phase : Nat) (x : Stop) : Mv := { m with stop := some x, phase := phase }

/-- A walk stopped inside a position or unit: what it counted there is not kept (R201). -/
def mvKeep (m r : Mv) : Mv :=
  { m with s := r.s, stop := r.stop, phase := r.phase, rbits := r.rbits, wbits := r.wbits, hbits := r.hbits }

/-- Bits read from memory counted (R208). -/
def mvRead (m : Mv) (n : Nat) (host : Bool) : Mv :=
  { m with rbits := m.rbits + n, hbits := if host then m.hbits + n else m.hbits }

/-- Iteration vector of a linear position, i0 first. -/
def iterOf (b : Box) (p : Nat) : List Nat :=
  let q1 := p / bSize b 0
  let q2 := q1 / bSize b 1
  let q3 := q2 / bSize b 2
  let q4 := q3 / bSize b 3
  let q5 := q4 / bSize b 4
  [p % bSize b 0, q1 % bSize b 1, q2 % bSize b 2, q3 % bSize b 3, q4 % bSize b 4, q5]

/-- Linear position of an iteration vector. -/
def posOf (b : Box) (i : List Nat) : Nat :=
  let v (k : Nat) : Nat := i.getD k 0
  v 0 + bSize b 0 * (v 1 + bSize b 1 * (v 2 + bSize b 2 * (v 3 + bSize b 3 * (v 4 + bSize b 4 * v 5))))

/-- Positions of a box. -/
def boxTotal (b : Box) : Nat := bSize b 0 * bRows b

/-- Dimension that the indices select, none for a command without them. -/
def jobGdim (j : Job) : Option Nat := if opIndexed (wOp j.w) then some (bits j.w.w2 32 3) else none

/-- Values of an index group from its bytes. -/
def idxVals (n size : Nat) (b : List Byte) : List Int :=
  (List.range n).map (fun k => sextNat (8 * size) (leNat ((b.drop (size * k)).take size)))

/-- Whether bytes just read came from host memory: no line was obtained. -/
def readHost (r : RdRes × Option LineMemo × State) : Bool :=
  match r.1 with | .bytes _ => r.2.1.isNone | .stop _ => false

/-- The index group that holds an index position, read once (R194, R197, R201). -/
def idxGroup (j : Job) (m : Mv) (k : Nat) : List Int × Mv :=
  let gi := k / 64
  match m.groups.find? (fun x => x.1 == gi) with
  | some x => (x.2, m)
  | none =>
    let size := if j.d.idx64 then 8 else 4
    let n := min 64 (bits j.w.w2 40 24 - gi * 64)
    let a := j.w.w3 + gi * 64 * size
    if wFlag j.w 42 then
      if lmBad m.s j.key a (n * size) then ([], mvStop m 1 (.code eDmaPoison a))
      else
        let v := idxVals n size (lmRead m.s j.key a (n * size))
        (v, { m with groups := (gi, v) :: m.groups })
    else
      let r := readVa m.s { j.g with acc := .read, vol := j.g.vol && wOp j.w < 0x40 } none a (n * size)
      match r.1 with
      | .stop x => ([], mvStop { m with s := r.2.2 } 1 x)
      | .bytes b =>
        let v := idxVals n size b
        (v, mvRead { m with s := r.2.2, groups := (gi, v) :: m.groups } (8 * n * size) (readHost r))

/-- The coordinate of an index position along GDIM (R194). -/
def idxCoord (j : Job) (gd : Nat) (v : Int) : Int :=
  if v < 0 && j.d.fromEnd then v + (dExt j.d gd : Int) else v

/-- Whether a coordinate lies in a dimension. -/
def inDim (d : Desc) (k : Nat) (c : Int) : Bool := decide (0 ≤ c) && decide (c < (dExt d k : Int))

/-- Coordinates of a position, with the index counts made at the first position of a slice (R181,
R194, R196). -/
def coordsAt (j : Job) (m : Mv) (i : List Nat) : List Int × Mv :=
  let c := (List.range 6).map (fun k => bOrg j.b k + (i.getD k 0 : Int))
  match jobGdim j with
  | none => (c, m)
  | some gd =>
    let k := i.getD gd 0
    let r := idxGroup j m k
    if r.2.stop.isSome then (c, r.2)
    else
      let x := idxCoord j gd (r.1.getD (k % 64) 0)
      let first := (i.set gd 0).all (· == 0)
      let dup := wOp j.w == 0x21 && inDim j.d gd x
        && (r.1.take (k % 64)).any (fun y => idxCoord j gd y == x)
      let m1 := r.2
      let m2 := if first && !inDim j.d gd x then { m1 with oobI := m1.oobI + 1 } else m1
      let m3 := if first && dup then { m2 with coal := m2.coal + 1 } else m2
      (c.set gd x, m3)

/-- Whether a position lies in the tensor (R181). -/
def coordsIn (d : Desc) (c : List Int) : Bool := (List.range 6).all (fun k => inDim d k (c.getD k 0))

/-- Coordinates clamped to the tensor (R181). -/
def coordsClamp (d : Desc) (c : List Int) : List Int :=
  (List.range 6).map (fun k => min (max (c.getD k 0) 0) ((dExt d k : Int) - 1))

/-- Element offset of coordinates (R181). -/
def elemOff (d : Desc) (c : List Int) : Int :=
  (List.range 6).foldl (fun acc k => acc + c.getD k 0 * dStr d k) 0

/-- First byte and bit of an element of a width; a 6-bit element stands in its group of three bytes (R56, R181). -/
def elemAddr (d : Desc) (width : Nat) (c : List Int) : Int × Nat :=
  let o := elemOff d c
  if width = 6 then ((d.base : Int) + 3 * (o / 4), 6 * (o % 4).toNat)
  else ((d.base : Int) + o * (width : Int) / 8, (o * (width : Int) % 8).toNat)

/-- Bytes read or written at once for an element of a width: a 6-bit element takes its whole group (R56). -/
def elemBytes (width : Nat) : Nat := if width = 6 then 3 else (width + 7) / 8

/-- Address of the scale byte of coordinates (R63, R182). -/
def scaleAddr (d : Desc) (c : List Int) : Nat :=
  let k (i : Nat) : Nat := (c.getD i 0).toNat
  let len := scmBlock d.scm
  let per := (dExt d 0 + len - 1) / len
  let outer := (((k 5 * dExt d 4 + k 4) * dExt d 3 + k 3) * dExt d 2 + k 2) * dExt d 1 + k 1
  d.scaleBase + outer * per + k 0 / len

/-- An address as a number of the 64-bit space, or none outside it (R181). -/
def vaOf (a : Int) (n : Nat) : Option Nat :=
  if 0 ≤ a && a + (n : Int) ≤ 2 ^ 64 then some a.toNat else none

/-- The code of the element at coordinates, read from memory. A packed group is read once for elements that follow one
another in it (R320, log entry 55). -/
def readElem (j : Job) (m : Mv) (c : List Int) : Nat × Mv :=
  let width := fmtWidth (descFmt j.d)
  let a := elemAddr j.d width c
  match vaOf a.1 (elemBytes width) with
  | none => (0, mvStop m 2 (.code eDmaProt (a.1 % 2 ^ 64).toNat))
  | some va =>
    match m.grp.filter (fun x => decide (width < 8) && x.1 == va) with
    | some x => (bits (leNat x.2) a.2 width, m)
    | none =>
      let r := readVa m.s j.g m.memo va (elemBytes width)
      let m1 := { m with s := r.2.2, memo := r.2.1 }
      match r.1 with
      | .stop x => (0, mvStop m1 2 x)
      | .bytes b => (bits (leNat b) a.2 width, { mvRead m1 (8 * elemBytes width) (readHost r) with grp := some (va, b) })

/-- The scale byte at coordinates, read from memory once for elements of its block that follow one another. -/
def readScale (j : Job) (m : Mv) (c : List Int) : Nat × Mv :=
  let a := scaleAddr j.d c
  if a ≥ 2 ^ 64 then (0, mvStop m 4 (.code eDmaProt (a % 2 ^ 64)))
  else match m.sgrp.filter (fun x => x.1 == a) with
    | some x => (x.2, m)
    | none =>
      let r := readVa m.s j.g m.smemo a 1
      let m1 := { m with s := r.2.2, smemo := r.2.1 }
      match r.1 with
      | .stop x => (0, mvStop m1 4 x)
      | .bytes b => (leNat b, { mvRead m1 8 (readHost r) with sgrp := some (a, leNat b) })

/-- An invalid block counted once by a command (R62). Keys are twice an address in memory, or twice a
window offset plus one. -/
def badBlock (m : Mv) (key : Nat) : Mv :=
  if m.bad.contains key then m else { m with bad := key :: m.bad, ev := evAdd m.ev evScale }

/-- The value of a descriptor's element code with its scale, taken plainly (R60, R61). -/
def descVal (d : Desc) (code scale : Nat) : Num :=
  ((plainVals d.scm (fp32Val d.tscale) [decodedVal (descFmt d) d.scm code scale]).getD 0 numZero)

/-- The element at in-bounds coordinates of a tensor, with its scale. -/
def fetchEl (j : Job) (m : Mv) (c : List Int) : SrcEl × Mv :=
  let r := readElem j m c
  if r.2.stop.isSome then (⟨0, 0, false, numZero⟩, r.2)
  else if j.d.scm = 0 then (⟨r.1, 0, false, descVal j.d r.1 0⟩, r.2)
  else
    let k := readScale j r.2 c
    if k.2.stop.isSome then (⟨0, 0, false, numZero⟩, k.2)
    else
      let m1 := if k.1 = 0xFF && !sameFormat j.w j.d then badBlock k.2 (2 * scaleAddr j.d c) else k.2
      (⟨r.1, k.1, false, descVal j.d r.1 k.1⟩, m1)

/-- Whether the index at a position of a gather stands in its aligned group of 64 before that position, and after it
(R196). -/
def idxTwice (j : Job) (m : Mv) (i : List Nat) : Bool × Bool :=
  match jobGdim j with
  | none => (false, false)
  | some gd =>
    let k := i.getD gd 0
    let g := (m.groups.find? (fun x => x.1 == k / 64)).map (·.2)
    let v := (g.getD []).map (idxCoord j gd)
    let x := v.getD (k % 64) 0
    ((v.take (k % 64)).contains x, (v.drop (k % 64 + 1)).contains x)

/-- An element of a tensor at in-bounds coordinates of a position: a gather reads it once for the index positions of an
aligned group of 64 that name its slice (R196). -/
def fetchOnce (j : Job) (m : Mv) (i : List Nat) (c : List Int) : SrcEl × Mv :=
  let tw := idxTwice j m i
  let key := (i.getD ((jobGdim j).getD 0) 0 / 64, c)
  match (if tw.1 then m.seen.find? (fun x => x.1 == key) else none) with
  | some x => (x.2, m)
  | none =>
    let r := fetchEl j m c
    (r.1, if tw.2 && r.2.stop.isNone then { r.2 with seen := (key, r.1) :: r.2.seen } else r.2)

/-- The source element of a load at a position (R183). -/
def srcLoad (j : Job) (m : Mv) (p : Nat) : SrcEl × Mv :=
  let i := iterOf j.b p
  let r := coordsAt j m i
  if r.2.stop.isSome then (⟨0, 0, false, numZero⟩, r.2)
  else if coordsIn j.d r.1 then fetchOnce j r.2 i r.1
  else
    let m1 := { r.2 with oobR := r.2.oobR + 1 }
    if j.d.clamp then fetchEl j m1 (coordsClamp j.d r.1)
    else (⟨j.d.fill, if j.d.scm = 1 then 0x7F else 0x78, true, elemVal (descFmt j.d) (j.d.scm == 1) j.d.fill⟩, m1)

/-- Source elements of `n` positions from `p`. -/
def srcRun (j : Job) : Nat → Mv → Nat → List SrcEl × Mv
  | 0, m, _ => ([], m)
  | n + 1, m, p =>
    let r := srcLoad j m p
    if r.2.stop.isSome then ([], r.2)
    else
      let q := srcRun j n r.2 (p + 1)
      (r.1 :: q.1, q.2)

/-- Element codes stored in a row of the local matrix from element `i0`. -/
def localPut (s : State) (key : Nat) (lm : Mat) (r i0 : Nat) (codes : List Nat) : State :=
  codes.zipIdx.foldl (fun acc p =>
    lmStores acc key (elemStores lm.fmt (lmByte acc key) (matRow lm r) (i0 + p.2) p.1)) s

/-- The scale byte of a block of the local matrix. -/
def localScaleAt (lm : Mat) (r i0 : Nat) : Nat := matPlane lm + r * matBlocks lm + i0 / scmBlock lm.scm

/-- One unit of a load written to local memory (R189, R190, R203). -/
def loadWrite (j : Job) (m : Mv) (p : Nat) (els : List SrcEl) : Mv :=
  let lm := localMat j.w j.b
  let n0 := bSize j.b 0
  let row := p / n0
  let i0 := p % n0
  if sameFormat j.w j.d then
    let s1 := localPut m.s j.key lm row i0 (els.map (·.code))
    if lm.scm = 0 then { m with s := s1 }
    else
      let sc := match els.find? (fun e => !e.fill) with
        | some e => e.scale
        | none => (els.map (·.scale)).headD 0
      { m with s := lmWrite s1 j.key (localScaleAt lm row i0) [BitVec.ofNat 8 sc] }
  else
    let w := writeBlock lm.fmt lm.scm (fp32Val (matTscale m.s j.key lm)) (els.map (·.val))
    let s1 := localPut m.s j.key lm row i0 w.2.1
    let s2 := if lm.scm = 0 then s1 else lmWrite s1 j.key (localScaleAt lm row i0) [BitVec.ofNat 8 w.1]
    let out := evResult (els.map (fun e => plainOp j.d.scm e.val)) (w.2.1.map (fun c => decodedVal lm.fmt lm.scm c w.1))
    { m with s := s2, ev := evAdd m.ev (evAdd w.2.2 out) }

/-- Positions of the unit that starts at a position: one, or a local block (R203). -/
def loadUnit (j : Job) (p : Nat) : Nat :=
  let scm := bits j.w.w2 30 2
  let n0 := bSize j.b 0
  if scm = 0 then 1 else min (scmBlock scm - p % n0 % scmBlock scm) (n0 - p % n0)

/-- The walk of a load from a position (R181): it ends at the total, or at the first position of a
unit that was stopped, whose counts are not kept. -/
def loadGo (j : Job) : Nat → Mv → Nat → Nat × Mv
  | 0, m, p => (p, m)
  | k + 1, m, p =>
    if p ≥ boxTotal j.b then (p, m)
    else
      let n := loadUnit j p
      let r := srcRun j n m p
      match r.2.stop with
      | some _ => (p, mvKeep m r.2)
      | none => loadGo j k (loadWrite j r.2 p r.1) (p + n)

/-! ### Stores -/

/-- Whether a write to an address would stop (R201). -/
def writeStop (j : Job) (m : Mv) (va : Nat) : Option Stop × Mv :=
  let t := translate m.s j.g.span j.g.core j.g.unit j.g.ctx va
  match t.1 with
  | .fault c l => (some (.fault c l va j.g.acc), { m with s := t.2 })
  | .ok p => match pageRefuses j.g p with
    | some c => (some (.code c va), { m with s := t.2 })
    | none => (none, { m with s := t.2 })

/-- Whether a write of `n` bytes at an address would stop, at its first byte or at its last. -/
def writeStops (j : Job) (m : Mv) (va n : Nat) : Option Stop × Mv :=
  let r := writeStop j m va
  if r.1.isSome || va / 4096 == (va + n - 1) / 4096 then r else writeStop j r.2 (va + n - 1)

/-- Whether bytes meet those of a run in their own 128-byte line: they are then of one transaction (R206, R320). -/
def runMeets (run : Nat × Nat) (va n : Nat) : Bool :=
  let lo := max run.1 (va / 128 * 128)
  let hi := min run.2 (va / 128 * 128 + 128)
  decide (lo < hi) && decide (lo ≤ va + n) && decide (va ≤ hi)

/-- The bytes of a run after a write: those it continues with it, or it alone. -/
def runOver (run : Nat × Nat) (va n : Nat) : Nat × Nat :=
  if run.1 < run.2 && run.1 ≤ va + n && va ≤ run.2 then (min run.1 va, max run.2 (va + n)) else (va, va + n)

/-- Bytes written for a store, in phase 3 those of elements and in phase 5 those of scales, joined with the transaction
that they continue (R206, R320). -/
def storeBytes (j : Job) (m : Mv) (phase va : Nat) (bs : List Byte) : Mv :=
  let h0 := m.s.memo.host.length
  let run := if phase = 5 then m.srun else m.wrun
  let r := writeVa m.s j.g va bs (runMeets run va bs.length)
  match r.1 with
  | some x => mvStop { m with s := r.2 } phase x
  | none =>
    let n := 8 * bs.length
    let run1 := runOver run va bs.length
    { m with
      s := r.2, memo := none, smemo := none, grp := none, sgrp := none, wbits := m.wbits + n
      wrun := if phase = 5 then m.wrun else run1, srun := if phase = 5 then run1 else m.srun
      hbits := if r.2.memo.host.length = h0 then m.hbits else m.hbits + n }

/-- Codes laid into a packed group from a bit onward. -/
def packCodes (width bit : Nat) (codes : List Nat) (v : Nat) : Nat :=
  codes.zipIdx.foldl (fun acc x => setBits acc (bit + width * x.2) width x.1) v

/-- A packed group written in part: it is read, an UNSEALED line as it stands, and its other fields keep their bits
(R56, R57, R198, R267). The bytes of a block that a converting store has read already do not count again (R208, R654). -/
def storeMerge (j : Job) (m : Mv) (va n width bit : Nat) (codes : List Nat) : Mv :=
  let r := readVa m.s { j.g with vol := false, unsealed := 0 } none va n
  match r.1 with
  | .stop x => mvStop { m with s := r.2.2 } 3 x
  | .bytes b =>
    let m1 := { m with s := r.2.2 }
    storeBytes j (if m.blk.isSome then m1 else mvRead m1 (8 * n) (readHost r)) 3 va
      (leBytes n (packCodes width bit codes (leNat b)))

/-- Element codes of one packed group, or one element of a wider format, stored from coordinates on. A group that is
written whole is not read (R198). -/
def storeGroup (j : Job) (m : Mv) (c : List Int) (codes : List Nat) : Mv :=
  let width := fmtWidth (descFmt j.d)
  let a := elemAddr j.d width c
  let n := elemBytes width
  match vaOf a.1 n with
  | none => mvStop m 3 (.code eDmaProt (a.1 % 2 ^ 64).toNat)
  | some va =>
    let t := writeStops j m va n
    match t.1 with
    | some x => mvStop t.2 3 x
    | none =>
      if a.2 = 0 && codes.length ≥ fmtGroup (descFmt j.d) then
        storeBytes j t.2 3 va (leBytes n (packCodes width 0 codes 0))
      else storeMerge j t.2 va n width a.2 codes

/-- A scale byte stored at coordinates. -/
def storeScale (j : Job) (m : Mv) (c : List Int) (sc : Nat) : Mv :=
  let a := scaleAddr j.d c
  if a ≥ 2 ^ 64 then mvStop m 5 (.code eDmaProt (a % 2 ^ 64))
  else storeBytes j m 5 a [BitVec.ofNat 8 sc]

/-- Local element at a position: code and scale byte, or none where a word is poisoned. -/
def localEl (j : Job) (s : State) (p : Nat) : Option (Nat × Nat) :=
  let lm := localMat j.w j.b
  let n0 := bSize j.b 0
  let row := p / n0
  let i0 := p % n0
  let width := fmtWidth lm.fmt
  let a := matRow lm row + (if width = 6 then 3 * (i0 / 4) else elemBit lm.fmt i0 / 8)
  let bad := lmBad s j.key a (elemBytes width) || (lm.scm != 0 && lmBad s j.key (localScaleAt lm row i0) 1)
  if bad then none
  else some (elemCode lm.fmt (lmByte s j.key) (matRow lm row) i0,
    if lm.scm = 0 then 0 else lmByte s j.key (localScaleAt lm row i0))

/-- Value of a local element without the tensor scale (R60). -/
def localRaw (j : Job) (x : Nat × Nat) : Num :=
  let lm := localMat j.w j.b
  decodedVal lm.fmt lm.scm x.1 x.2

/-- Value of a local element taken plainly (R61). -/
def localVal (j : Job) (s : State) (x : Nat × Nat) : Num :=
  let lm := localMat j.w j.b
  (plainVals lm.scm (fp32Val (matTscale s j.key lm)) [localRaw j x]).getD 0 numZero

/-- A local block with an invalid scale counted (R62). -/
def localBad (j : Job) (m : Mv) (p : Nat) (x : Nat × Nat) : Mv :=
  let lm := localMat j.w j.b
  if lm.scm ≠ 0 && x.2 = 0xFF then
    badBlock m (2 * localScaleAt lm (p / bSize j.b 0) (p % bSize j.b 0) + 1)
  else m

/-- The next value of a block, with its operand: from local memory inside the box, from memory outside it (R75, R189,
R654). -/
def blockValNext (j : Job) (p lo : Nat) (c : List Int) (k : Nat) (r : List (Num × Num) × Mv) : List (Num × Num) × Mv :=
  if r.2.stop.isSome then r
  else
    let t : Int := (lo + k : Nat)
    let i : Int := t - bOrg j.b 0
    if 0 ≤ i && i < (bSize j.b 0 : Int) then
      let q := p / bSize j.b 0 * bSize j.b 0 + i.toNat
      match localEl j r.2.s q with
      | none => (r.1, mvStop r.2 3 (.code eDmaPoison 0))
      | some x =>
        let v := localVal j r.2.s x
        (r.1 ++ [(plainOp (localMat j.w j.b).scm v, v)], localBad j r.2 q x)
    else
      let f := fetchEl { j with g := { j.g with vol := false } } r.2 (c.set 0 t)
      (if f.2.stop.isSome then r.1 else r.1 ++ [(plainOp j.d.scm f.1.val, f.1.val)], f.2)

/-- Values of the elements of a tensor block, in order: local ones for positions of the box, decoded
old ones for the others (R654). `lo` and `n` are the block's elements in the tensor. -/
def blockVals (j : Job) (p lo : Nat) (c : List Int) : Nat → Mv → List (Num × Num) × Mv
  | 0, m => ([], m)
  | k + 1, m => blockValNext j p lo c k (blockVals j p lo c k m)

/-- The values of the block under way, read once for all its positions (R654). -/
def blockOnce (j : Job) (p lo : Nat) (c : List Int) (n : Nat) (m : Mv) : List (Num × Num) × Mv :=
  let key := (p / bSize j.b 0, scaleAddr j.d c)
  match m.blk.filter (fun x => x.1 == key) with
  | some x => (x.2, m)
  | none =>
    let v := blockVals j p lo c n m
    (v.1, if v.2.stop.isSome then v.2 else { v.2 with blk := some (key, v.1) })

/-- Elements of a block outside the box, rewritten with new codes (R654). -/
def rewriteOld (j : Job) (lo : Nat) (c : List Int) (codes : List Nat) : Nat → Mv → Mv
  | 0, m => m
  | k + 1, m =>
    let m1 := rewriteOld j lo c codes k m
    let t : Int := (lo + k : Nat)
    let i : Int := t - bOrg j.b 0
    if m1.stop.isSome || (0 ≤ i && i < (bSize j.b 0 : Int)) then m1
    else storeGroup j m1 (c.set 0 t) [codes.getD k 0]

/-- Whether the last element of a block's part in the box can be finished: the addresses of the
elements outside the box and of the scale byte do not stop (R201). -/
def finishStop (j : Job) (lo : Nat) (c : List Int) : Nat → Mv → Mv
  | 0, m =>
    let a := scaleAddr j.d c
    let r := if a ≥ 2 ^ 64 then (some (.code eDmaProt (a % 2 ^ 64)), m) else writeStop j m a
    match r.1 with | some x => mvStop r.2 5 x | none => r.2
  | k + 1, m =>
    let m1 := finishStop j lo c k m
    let t : Int := (lo + k : Nat)
    let i : Int := t - bOrg j.b 0
    if m1.stop.isSome || (0 ≤ i && i < (bSize j.b 0 : Int)) then m1
    else
      let n := elemBytes (fmtWidth (descFmt j.d))
      match vaOf (elemAddr j.d (fmtWidth (descFmt j.d)) (c.set 0 t)).1 n with
      | none => mvStop m1 3 (.code eDmaProt 0)
      | some va =>
        let r := writeStops j m1 va n
        match r.1 with | some x => mvStop r.2 3 x | none => r.2

/-- Whether a position is the last of its tensor block that the box holds. -/
def blockLast (j : Job) (c0 lo n : Nat) (p : Nat) : Bool :=
  c0 + 1 ≥ lo + n || p % bSize j.b 0 + 1 ≥ bSize j.b 0

/-- The codes of a unit issued from coordinates on, or those before the last where that one cannot be finished (R201):
how many positions are done, and the walk after them. -/
def storeIssue (j : Job) (m : Mv) (c : List Int) (codes : List Nat) (late : Option (Nat × Stop)) : Nat × Mv :=
  let now := if late.isSome then codes.dropLast else codes
  let m1 := if now.isEmpty then m else storeGroup j m c now
  if m1.stop.isSome then (0, m1)
  else (now.length, match late with | some x => mvStop m1 x.1 x.2 | none => m1)

/-- Why the last position of a walk stopped, with its phase. -/
def lateOf (m : Mv) : Option (Nat × Stop) := m.stop.map (fun x => (m.phase, x))

/-- A converting store of one unit into a scaled tensor (R203, R654): what the block's scale needs is read, and with its
last position the other elements and the scale follow. -/
def storeBlock (j : Job) (m : Mv) (p : Nat) (c : List Int) (cnt : Nat) : Nat × Mv :=
  let len := scmBlock j.d.scm
  let c0 := (c.getD 0 0).toNat
  let lo := c0 / len * len
  let n := min len (dExt j.d 0 - lo)
  let v := blockOnce j p lo c n m
  if v.2.stop.isSome then (0, v.2)
  else
    let w := writeBlock (descFmt j.d) j.d.scm (fp32Val j.d.tscale) (v.1.map (·.2))
    let last := blockLast j (c0 + cnt - 1) lo n (p + cnt - 1)
    let f := if last then finishStop j lo c n v.2 else v.2
    let r := storeIssue j { f with stop := none } c ((w.2.1.drop (c0 - lo)).take cnt) (lateOf f)
    if r.2.stop.isSome || !last then r
    else
      let out := evResult (v.1.map (·.1)) (w.2.1.map (fun k => decodedVal (descFmt j.d) j.d.scm k w.1))
      let m3 := rewriteOld j lo c w.2.1 n { r.2 with ev := evAdd r.2.ev (evAdd w.2.2 out) }
      (cnt, if m3.stop.isSome then m3 else storeScale j m3 c w.1)

/-- The code that a store writes at a position, copied or converted, with its events; none where a local word is
poisoned (R189, R204). -/
def storeCode (j : Job) (m : Mv) (p : Nat) : Option (Nat × Nat × Mv) :=
  match localEl j m.s p with
  | none => none
  | some x =>
    if sameFormat j.w j.d then some (x.1, x.2, m)
    else
      let v := localVal j m.s x
      let w := convert (descFmt j.d) false v
      let m1 := localBad j m p x
      some (w.1, x.2, { m1 with ev := evAdd m1.ev (evAdd w.2 (evResult [plainOp (localMat j.w j.b).scm v] [elemVal (descFmt j.d) false w.1])) })

/-- The codes of a unit from a position on, with the scale byte of the last; a poisoned local word stops them there. -/
def storeCodes (j : Job) : Nat → Mv → Nat → List Nat × Nat × Mv
  | 0, m, _ => ([], 0, m)
  | k + 1, m, p =>
    match storeCode j m p with
    | none => ([], 0, mvStop m 3 (.code eDmaPoison 0))
    | some x =>
      let r := storeCodes j k x.2.2 (p + 1)
      (x.1 :: r.1, if r.1.isEmpty then x.2.1 else r.2.1, r.2.2)

/-- Whether a store's scale byte can be written after the last element of a block that it copies unchanged (R201). -/
def scaleStop (j : Job) (m : Mv) (c : List Int) : Mv :=
  let a := scaleAddr j.d c
  let r := if a ≥ 2 ^ 64 then (some (.code eDmaProt (a % 2 ^ 64)), m) else writeStop j m a
  match r.1 with | some x => mvStop r.2 5 x | none => r.2

/-- An unchanged store, or one into an unscaled tensor, of one unit; a block's scale follows its last element (R189,
R203). -/
def storePlain (j : Job) (m : Mv) (p : Nat) (c : List Int) (cnt : Nat) : Nat × Mv :=
  let g := storeCodes j cnt m p
  if g.1.isEmpty then (0, g.2.2)
  else
    let len := scmBlock j.d.scm
    let c0 := (c.getD 0 0).toNat
    let lo := c0 / len * len
    let last := j.d.scm != 0 && g.2.2.stop.isNone
      && blockLast j (c0 + cnt - 1) lo (min len (dExt j.d 0 - lo)) (p + cnt - 1)
    if last then
      let f := scaleStop j g.2.2 c
      let r := storeIssue j { f with stop := none } c g.1 (lateOf f)
      if r.2.stop.isSome then r else (cnt, storeScale j r.2 c g.2.1)
    else
      let r := storeIssue j { g.2.2 with stop := none } c g.1 none
      if r.2.stop.isSome then r else (r.1, { r.2 with stop := g.2.2.stop, phase := g.2.2.phase })

/-- The positions of a store that start at an in-bounds one and lie in its packed group, in the box and in the tensor. -/
def storeUnit (j : Job) (p : Nat) (c : List Int) : Nat :=
  let c0 := (c.getD 0 0).toNat
  let g := fmtGroup (descFmt j.d)
  if descPacked j.d then min (g - c0 % g) (min (bSize j.b 0 - p % bSize j.b 0) (dExt j.d 0 - c0)) else 1

/-- A store of the unit of positions that starts at a position: how many are done, and the walk after them; with
dimension 0 a run begins (R183, R193, R198, R206). -/
def storePos (j : Job) (m0 : Mv) (p : Nat) : Nat × Mv :=
  let m := if p % bSize j.b 0 = 0 then { m0 with wrun := (0, 0), srun := (0, 0), blk := none } else m0
  let r := coordsAt j m (iterOf j.b p)
  if r.2.stop.isSome then (0, r.2)
  else if !coordsIn j.d r.1 then (1, { r.2 with oobW := r.2.oobW + 1 })
  else if j.d.scm ≠ 0 && !sameFormat j.w j.d then storeBlock j r.2 p r.1 (storeUnit j p r.1)
  else storePlain j r.2 p r.1 (storeUnit j p r.1)

/-! ### Reducer stores (R192, R193, R230) -/

/-- The operation of a reducer store on a descriptor's format. -/
def redOpOf (w : Words) (d : Desc) : RedOp :=
  match bits w.w2 35 4 with
  | 0 => .fadd d.fmtCode | 1 => .fmin d.fmtCode | 2 => .fmax d.fmtCode | 3 => .iadd32 | _ => .iadd64

/-- The LAUNCH field of a sequence tag (R230). -/
def tagLaunch (src : LaunchSrc) : Nat :=
  match src with
  | .entry _ idx frame => 2 ^ 12 * (frame % 2 ^ 19) + idx % 2 ^ 12
  | .host _ _ seq => 2 ^ 31 + seq % 2 ^ 31
  | .system => 0

/-- The source of a command's launch. -/
def cmdSrc (s : State) (key : Nat) (c : QCmd) : LaunchSrc :=
  match (getSlot s key).part.launches.find? (fun l => l.serial == c.launch) with
  | some l => l.src
  | none => .system

/-- The sequence tag of an update (R230). -/
def seqTag (s : State) (key : Nat) (c : QCmd) (iter : Nat) : Nat :=
  2 ^ 96 * tagLaunch (cmdSrc s key c) + 2 ^ 86 * getF s fZrouteSelfPkgNum pgZroute
    + 2 ^ 83 * keySpan key + 2 ^ 79 * keyCore key + 2 ^ 55 * (c.pos % 2 ^ 24) + 2 ^ 7 * (iter % 2 ^ 48)

/-- Whether a controller's staging area cannot take one more update of an uncommitted item, which
is never settled early (R552). -/
def stagingFull (s : State) (e : Staged) : Bool :=
  let n := cellCtl s e.cell
  stagingOver s n e && !(getPcc s n).staged.any (settleable s)

/-- The exact value of a local operand of a reducer store (R192), none where a word is poisoned. -/
def redOperand (j : Job) (s : State) (p : Nat) : Option Num :=
  let lm := localMat j.w j.b
  let n0 := bSize j.b 0
  let op := bits j.w.w2 35 4
  if op ≥ 3 then
    let n := if op = 4 then 8 else 4
    let a := matRow lm (p / n0) + p % n0 * n
    if lmBad s j.key a n then none else some (numOfInt (sextNat (8 * n) (leNat (lmRead s j.key a n))))
  else match localEl j s p with
    | none => none
    | some x =>
      let v := localRaw j x
      some (if lm.scm = 2 then numMul v (fp32Val (matTscale s j.key lm)) else v)

/-- Linear index of a position in a sequence tag: over the box, or over index positions (R230). -/
def tagIter (j : Job) (p : Nat) : Nat :=
  match jobGdim j with
  | none => p
  | some gd => (iterOf j.b p).getD gd 0

/-- A dirty line of the issuing span written back before an update passes it (R199). -/
def redFlush (s : State) (span : Nat) (il : Bool) (line : Nat) : State :=
  match tcFind s span il line with
  | some l => tcBack s l
  | none => s

/-- An update with its addresses translated, sent to its reducer or staged (R193, R199, R231, R548): `cell` and `hi`
are the cells of its element's halves. -/
def redGo (j : Job) (c : QCmd) (m : Mv) (p va : Nat) (v : Num) (cell hi : Nat) : Mv :=
  let s := m.s
  let op := redOpOf j.w j.d
  let it := match cmdItem s j.key c with | some x => if x.journaled then x.id else 0 | none => 0
  let part := ctxPart s j.g.ctx
  let e := stagedEntry (seqTag s j.key c (tagIter j p)) v cell hi op j.g.ctx it
  if it ≠ 0 && stagingFull s e then mvStop m 3 (.code eJrnlFull va)
  else
    let s1 := if it ≠ 0 || wFlag j.w 43 then orderedAccept (pierAdd s cell true false false part 1) e
      else redUpdate (redCharge s cell hi part) cell hi op v j.g.ctx
    { m with s := s1, wbits := m.wbits + 8 * redBytes op }

/-- An update of one element: the pages of its halves are translated and checked first (R201). -/
def redSend (j : Job) (c : QCmd) (m : Mv) (p va : Nat) (v : Num) : Mv :=
  let va2 := va + redBytes (redOpOf j.w j.d) - 1
  let t := pageFor m.s j.g none va
  match t.1 with
  | .fault k l => mvStop { m with s := t.2 } 3 (.fault k l va .both)
  | .ok pg => match pageRefuses j.g pg with
    | some k => mvStop { m with s := t.2 } 3 (.code k va)
    | none =>
      let u := pageFor t.2 j.g (some pg) va2
      match u.1 with
      | .fault k l => mvStop { m with s := u.2 } 3 (.fault k l va2 .both)
      | .ok pg2 => match pageRefuses j.g pg2 with
        | some k => mvStop { m with s := u.2 } 3 (.code k va2)
        | none =>
          let da := pageDa pg va
          let il := pteIntlv pg.pte
          let il2 := pteIntlv pg2.pte
          let da2 := pageDa pg2 va2
          let s1 := redFlush (redFlush u.2 j.g.span il (da / 128)) j.g.span il2 (da2 / 128)
          let cell := cellOf s1 il da
          let hi := if redBytes (redOpOf j.w j.d) = 8 then cellOf s1 il2 da2 - 3 else cell
          redGo j c { m with s := s1 } p va v cell hi

/-- A reducer store of one position. -/
def redPos (j : Job) (c : QCmd) (m : Mv) (p : Nat) : Mv :=
  let r := coordsAt j m (iterOf j.b p)
  if r.2.stop.isSome then r.2
  else if !coordsIn j.d r.1 then { r.2 with oobW := r.2.oobW + 1 }
  else match redOperand j r.2.s p with
    | none => mvStop r.2 3 (.code eDmaPoison 0)
    | some v =>
      let n := redBytes (redOpOf j.w j.d)
      let a := elemAddr j.d (8 * n) r.1
      match vaOf a.1 n with
      | none => mvStop r.2 3 (.code eDmaProt (a.1 % 2 ^ 64).toNat)
      | some va =>
        let m1 := if bits j.w.w2 35 4 ≥ 3 then r.2 else
          match localEl j r.2.s p with | some x => localBad j r.2 p x | none => r.2
        redSend j c m1 p va v

/-- A walk of single positions as one of units. -/
def byOne (f : Mv → Nat → Mv) (m : Mv) (p : Nat) : Nat × Mv :=
  let r := f m p
  (if r.stop.isSome then 0 else 1, r)

/-- The walk of a store from a position, unit by unit: a unit of which nothing is done keeps no count. -/
def storeGo (f : Mv → Nat → Nat × Mv) (total : Nat) : Nat → Mv → Nat → Nat × Mv
  | 0, m, p => (p, m)
  | k + 1, m, p =>
    if p ≥ total then (p, m)
    else
      let r := f m p
      match r.2.stop with
      | some _ => (p + r.1, if r.1 = 0 then mvKeep m r.2 else r.2)
      | none => storeGo f total k r.2 (p + r.1)

end Sys2Proof.Machine
end

