-- ==== Sys2Proof/Machine/DataMove.lean ====
section
/-!
DEFINITION. The LD and ST commands (R186 to R204), the tile-cache range commands (R169 to R173),
evictions, and the flush of a whole tile cache (R175).
-/
namespace Sys2Proof.Machine

/-! ### Setting out (R177, R178, R185, R201) -/

/-- The agent of an LD or ST command: it needs read permission for loads, write for stores, both for
reductions (R201). -/
def moveAgent (s : State) (key : Nat) (w : Words) : Agent :=
  let op := wOp w
  let acc := if op < 0x40 then .read else if opReduces op then .both else .write
  ⟨keySpan key, keyCore key, if op < 0x40 then 0 else 3, slotCtx s key, wFlag w 41, acc, eDmaProt, eDmaAttr, eDmaPoison,
    eUnsealedRead⟩

/-- Bytes read from memory counted for a core, and those from the host (R208). -/
def ldCount (s : State) (key n h : Nat) : State :=
  let pg := pgLdst (keySpan key) (keyCore key)
  bumpF (bumpF s fLdstLdBytesCount pg n) fLdstHostBytesCount pg h

/-- Words of a descriptor read as one line, or why the read stopped (R177). -/
def readDesc (s : State) (key : Nat) (w : Words) : Option Stop × List Nat × State :=
  let g := { moveAgent s key w with acc := .read, vol := wOp w < 0x40 && wFlag w 41 }
  let r := readVa s g none w.w1 128
  match r.1 with
  | .stop x => (some x, [], r.2.2)
  | .bytes b => (none, wordsOf 16 b, ldCount r.2.2 key 128 (if readHost r then 128 else 0))

/-- What setting out answers: the walk's fixed part, or why the command stops. -/
inductive Setup where
  | ok (j : Job)
  | stop (x : Stop)
  deriving DecidableEq, Repr

/-- The descriptor and box record of a command, read and checked (R178, R180). -/
def setupRecords (s : State) (key e : Nat) (w : Words) : Setup × State :=
  let r := readDesc s key w
  match r.1 with
  | some x => (.stop x, r.2.2)
  | none =>
    let d := descOf r.2.1
    let code := descCheck w r.2.1
    if code ≠ 0 then (.stop (.code code w.w1), r.2.2)
    else if !hasBox w then (.ok ⟨key, e, w, d, wholeBox w d, moveAgent s key w⟩, r.2.2)
    else if lmBad r.2.2 key (boxLm w) 64 then (.stop (.code eDmaPoison (boxLm w)), r.2.2)
    else
      let b := lmRead r.2.2 key (boxLm w) 64
      if !boxOk d b then (.stop (.code eBoxInvalid (boxLm w)), r.2.2)
      else (.ok ⟨key, e, w, d, boxOf b, moveAgent s key w⟩, r.2.2)

/-- Whether a local tensor scale is used and is poisoned or illegal (R65, R189). -/
def localTscale (s : State) (j : Job) : Option Nat :=
  let lm := localMat j.w j.b
  if lm.scm ≠ 2 || sameFormat j.w j.d then none
  else if lmBad s j.key (matTs lm) 4 then some eDmaPoison
  else if !matTsOk s j.key lm then some eFmtScale
  else none

/-- The checks that follow the records (R185, R189, R190, R654). -/
def setup (s : State) (key e : Nat) (w : Words) : Setup × State :=
  let r := setupRecords s key e w
  match r.1 with
  | .stop x => (.stop x, r.2)
  | .ok j =>
    if !localOk w j.d j.b (windowBytes r.2 key) then (.stop (.code eDmaLocal 0), r.2)
    else if !unchangedOk w j.d j.b then (.stop (.code eBoxInvalid 0), r.2)
    else match localTscale r.2 j with
      | some c => (.stop (.code c (matTs (localMat w j.b))), r.2)
      | none => (.ok j, r.2)

/-- The restart record that a command continues from, an empty one when it starts (R202). -/
def cmdRestart (q : Queue) (c : QCmd) : Restart := if q.restart.cmdVa = c.pc then q.restart else noRestart

/-- The command with the counts of its walk. -/
def cmdCounts (c : QCmd) (m : Mv) : QCmd :=
  { c with oobR := m.oobR, oobW := m.oobW, oobI := m.oobI, coal := m.coal }

/-- A walk has ended: the command is executed, or stops at a position with its restart record (R201
to R204). -/
def moveEnd (key e : Nat) (c : QCmd) (iter : List Nat) (nominal : Nat) (m : Mv) : State :=
  let s1 := ldCount m.s key (m.rbits / 8) (m.hbits / 8)
  let s2 := bumpF s1 fLdstStBytesCount (pgLdst (keySpan key) (keyCore key)) (m.wbits / 8)
  let c1 := cmdCounts (cmdAddEv c m.ev) m
  match m.stop with
  | some x =>
    stopCmd (putCmd s2 key e c1) key e c1 ⟨c.pc, iter, m.phase, 0, m.oobR, m.oobW, m.oobI, m.coal, m.bad⟩ x
  | none =>
    let s3 := cmdDone s2 key e { c1 with nominal := nominal }
    putQ s3 key e { getQ s3 key e with restart := noRestart }

/-- A tensor command runs: it sets out, and walks from its restart position (R181, R201). -/
def tensorRun (sp : Fin 8) (co : Fin 16) (sl : Fin 4) (e op : Nat) (s : State)
    (walk : Job → QCmd → Mv → Nat → Nat × Mv) : State :=
  let key := slotKey sp co sl
  match headOp s key e op with
  | none => s
  | some c =>
    let r0 := cmdRestart (getQ s key e) c
    let u := setup s key e (cmdWords c)
    match u.1 with
    | .stop x =>
      stopCmd u.2 key e c { r0 with phase := 0 } x
    | .ok j =>
      let p0 := posOf j.b r0.iter
      let r := walk j c (mvStart u.2 r0) p0
      moveEnd key e c (iterOf j.b r.1) (tensorNominal j.w j.d j.b) r.2

/-- The walk of a load; an unchanged NS16 copy first carries TSCALE to its local place (R189). -/
def loadWalk (j : Job) (_c : QCmd) (m : Mv) (p : Nat) : Nat × Mv :=
  let lm := localMat j.w j.b
  let m1 := if sameFormat j.w j.d && lm.scm == 2 then
      { m with s := lmWrite m.s j.key (matTs lm) (leBytes 4 j.d.tscale) } else m
  loadGo j (boxTotal j.b) m1 p

/-- The walk of a store. -/
def storeWalk (j : Job) (_c : QCmd) (m : Mv) (p : Nat) : Nat × Mv :=
  storeGo (storePos j) (boxTotal j.b) (boxTotal j.b) m p

/-- The walk of a reducer store. -/
def redWalk (j : Job) (c : QCmd) (m : Mv) (p : Nat) : Nat × Mv :=
  storeGo (byOne (redPos j c)) (boxTotal j.b) (boxTotal j.b) m p

/-! ### The commands (R186) -/

/-- `ld.t` (R186). -/
def ldTEffect (sp : Fin 8) (co : Fin 16) (sl : Fin 4) (s : State) : State :=
  tensorRun sp co sl 0 0x20 s loadWalk

/-- LD_T (R186). -/
def execLdT (sp : Fin 8) (co : Fin 16) (sl : Fin 4) (s : State) : Host.Outcome State Fault Refusal :=
  .next (clocked s (ldTEffect sp co sl s))

/-- `ld.g` (R186, R194 to R196). -/
def ldGEffect (sp : Fin 8) (co : Fin 16) (sl : Fin 4) (s : State) : State :=
  tensorRun sp co sl 0 0x21 s loadWalk

/-- LD_G (R186). -/
def execLdG (sp : Fin 8) (co : Fin 16) (sl : Fin 4) (s : State) : Host.Outcome State Fault Refusal :=
  .next (clocked s (ldGEffect sp co sl s))

/-- `st.t` (R186). -/
def stTEffect (sp : Fin 8) (co : Fin 16) (sl : Fin 4) (s : State) : State :=
  tensorRun sp co sl 3 0x80 s storeWalk

/-- ST_T (R186). -/
def execStT (sp : Fin 8) (co : Fin 16) (sl : Fin 4) (s : State) : Host.Outcome State Fault Refusal :=
  .next (clocked s (stTEffect sp co sl s))

/-- `st.s` (R186). -/
def stSEffect (sp : Fin 8) (co : Fin 16) (sl : Fin 4) (s : State) : State :=
  tensorRun sp co sl 3 0x81 s storeWalk

/-- ST_S (R186). -/
def execStS (sp : Fin 8) (co : Fin 16) (sl : Fin 4) (s : State) : Host.Outcome State Fault Refusal :=
  .next (clocked s (stSEffect sp co sl s))

/-- `st.red` (R192). -/
def stRedEffect (sp : Fin 8) (co : Fin 16) (sl : Fin 4) (s : State) : State :=
  tensorRun sp co sl 3 0x82 s redWalk

/-- ST_RED (R192). -/
def execStRed (sp : Fin 8) (co : Fin 16) (sl : Fin 4) (s : State) : Host.Outcome State Fault Refusal :=
  .next (clocked s (stRedEffect sp co sl s))

/-- `st.sred` (R192). -/
def stSredEffect (sp : Fin 8) (co : Fin 16) (sl : Fin 4) (s : State) : State :=
  tensorRun sp co sl 3 0x83 s redWalk

/-- ST_SRED (R192). -/
def execStSred (sp : Fin 8) (co : Fin 16) (sl : Fin 4) (s : State) : Host.Outcome State Fault Refusal :=
  .next (clocked s (stSredEffect sp co sl s))

/-! ### Byte copies (R186, R187) -/

/-- A descriptor that byte copies do not use. -/
def noDesc : Desc := descOf []

/-- Four bytes of `ld.b` copied. -/
def ldbPos (j : Job) (m : Mv) (p : Nat) : Mv :=
  let va := j.w.w1 + 4 * p
  let r := readVa m.s j.g m.memo va 4
  let m1 := { m with s := r.2.2, memo := r.2.1 }
  match r.1 with
  | .stop x => mvStop m1 2 x
  | .bytes b => mvRead { m1 with s := lmWrite m1.s j.key (bits j.w.w2 0 23 + 4 * p) b } 32 (readHost r)

/-- Four bytes of `st.b` copied. -/
def stbPos (j : Job) (m : Mv) (p : Nat) : Mv :=
  let a := bits j.w.w2 0 23 + 4 * p
  if lmBad m.s j.key a 4 then mvStop m 3 (.code eDmaPoison a)
  else
    let va := j.w.w1 + 4 * p
    if va + 4 > 2 ^ 64 then mvStop m 3 (.code eDmaProt (va % 2 ^ 64))
    else storeBytes j m 3 va (lmRead m.s j.key a 4)

/-- A byte copy runs; I0 of its restart record is a byte offset (R202). -/
def byteRun (sp : Fin 8) (co : Fin 16) (sl : Fin 4) (e op : Nat) (s : State) (f : Job → Mv → Nat → Mv) :
    State :=
  let key := slotKey sp co sl
  match headOp s key e op with
  | none => s
  | some c =>
    let w := cmdWords c
    let r0 := cmdRestart (getQ s key e) c
    let j : Job := ⟨key, e, w, noDesc, ⟨[], []⟩, moveAgent s key w⟩
    let n := bits w.w3 0 24 / 4
    let r := storeGo (byOne (f j)) n n (mvStart s r0) (r0.iter.getD 0 0 / 4)
    moveEnd key e c [4 * r.1, 0, 0, 0, 0, 0] (bits w.w3 0 24) r.2

/-- `ld.b` (R186). -/
def ldBEffect (sp : Fin 8) (co : Fin 16) (sl : Fin 4) (s : State) : State := byteRun sp co sl 0 0x22 s ldbPos

/-- LD_B (R186). -/
def execLdB (sp : Fin 8) (co : Fin 16) (sl : Fin 4) (s : State) : Host.Outcome State Fault Refusal :=
  .next (clocked s (ldBEffect sp co sl s))

/-- `st.b` (R186). -/
def stBEffect (sp : Fin 8) (co : Fin 16) (sl : Fin 4) (s : State) : State := byteRun sp co sl 3 0x84 s stbPos

/-- ST_B (R186). -/
def execStB (sp : Fin 8) (co : Fin 16) (sl : Fin 4) (s : State) : Host.Outcome State Fault Refusal :=
  .next (clocked s (stBEffect sp co sl s))

/-! ### Range commands (R169 to R171) -/

/-- Lines that a range touches. -/
def rangeLines (va len : Nat) : Nat := if len = 0 then 0 else (va + len - 1) / 128 - va / 128 + 1

/-- One line of a range command (R170): pages of host memory and of the register window are passed
over. -/
def rangePos (op : RangeOp) (j : Job) (m : Mv) (p : Nat) : Mv :=
  let va := j.w.w1
  let len := bits j.w.w2 0 40
  let a := max va (128 * (va / 128 + p))
  let t := translate m.s j.g.span j.g.core j.g.unit j.g.ctx a
  let m1 := { m with s := t.2 }
  match t.1 with
  | .fault c l => mvStop m1 0 (.fault c l a j.g.acc)
  | .ok pg =>
    if !permits pg.pte j.g.acc then mvStop m1 0 (.code eDmaProt a)
    else if pteKind pg.pte ≥ 2 then m1
    else
      let whole := decide (va ≤ 128 * (a / 128)) && decide (128 * (a / 128) + 128 ≤ va + len)
      { m1 with s := tcRange t.2 op whole j.g.span (pteIntlv pg.pte) (pageDa pg a / 128) }

/-- A range command runs from its restart line (R170, R405). -/
def rangeRun (sp : Fin 8) (co : Fin 16) (sl : Fin 4) (opc : Nat) (op : RangeOp) (s : State) : State :=
  let key := slotKey sp co sl
  match headOp s key 3 opc with
  | none => s
  | some c =>
    let w := cmdWords c
    let r0 := cmdRestart (getQ s key 3) c
    let acc := if op = .inval then Access.write else Access.read
    let j : Job := ⟨key, 3, w, noDesc, ⟨[], []⟩,
      ⟨sp, co, 3, slotCtx s key, false, acc, eDmaProt, eDmaAttr, eDmaPoison, eUnsealedRead⟩⟩
    let off0 := r0.iter.getD 0 0 + 2 ^ 32 * r0.iter.getD 1 0
    let p0 := (w.w1 + off0) / 128 - w.w1 / 128
    let n := rangeLines w.w1 (bits w.w2 0 40)
    let r := storeGo (byOne (rangePos op j)) n n (mvStart s r0) p0
    let off := max w.w1 (128 * (w.w1 / 128 + r.1)) - w.w1
    moveEnd key 3 c [off % 2 ^ 32, off / 2 ^ 32, 0, 0, 0, 0] 0 r.2

/-- `mem.flush` (R169). -/
def memFlushEffect (sp : Fin 8) (co : Fin 16) (sl : Fin 4) (s : State) : State :=
  rangeRun sp co sl 0x9C .flush s

/-- MEM_FLUSH (R169). -/
def execMemFlush (sp : Fin 8) (co : Fin 16) (sl : Fin 4) (s : State) : Host.Outcome State Fault Refusal :=
  .next (clocked s (memFlushEffect sp co sl s))

/-- `mem.inval` (R169). -/
def memInvalEffect (sp : Fin 8) (co : Fin 16) (sl : Fin 4) (s : State) : State :=
  rangeRun sp co sl 0x9D .inval s

/-- MEM_INVAL (R169). -/
def execMemInval (sp : Fin 8) (co : Fin 16) (sl : Fin 4) (s : State) : Host.Outcome State Fault Refusal :=
  .next (clocked s (memInvalEffect sp co sl s))

/-- `mem.flinv` (R169). -/
def memFlinvEffect (sp : Fin 8) (co : Fin 16) (sl : Fin 4) (s : State) : State :=
  rangeRun sp co sl 0x9E .flinv s

/-- MEM_FLINV (R169). -/
def execMemFlinv (sp : Fin 8) (co : Fin 16) (sl : Fin 4) (s : State) : Host.Outcome State Fault Refusal :=
  .next (clocked s (memFlinvEffect sp co sl s))

/-! ### Evictions and FLUSH_ALL (R167, R175) -/

/-- The held line numbered `n` among those of a span. -/
def tcNth (s : State) (span n : Nat) : Option TcLine := (s.memo.tc.filter (fun l => l.span == span))[n]?

/-- A line is evicted: written back if dirty, then no longer held (R167, R321). -/
def tileCacheEvictionEffect (sp : Fin 8) (n : Nat) (s : State) : State :=
  match tcNth s sp n with
  | some l => tcDrop (tcBack s l) sp l.intlv l.line
  | none => s

/-- TILE_CACHE_EVICTION (R167). -/
def execTileCacheEviction (sp : Fin 8) (n : Nat) (s : State) : Host.Outcome State Fault Refusal :=
  .next (clocked s (tileCacheEvictionEffect sp n s))

/-- TC.CTRL.FLUSH_ALL written: every dirty line is written back and FLUSH_BUSY is set; rejected while
FLUSH_BUSY is 1 (R175). -/
def tcFlushAllEffect (sp : Fin 8) (m : Nat) (s : State) : State :=
  if getB s fTcStatusFlushBusy (pgTc sp) then reject s (pgTc sp) .busy m 0x100 0
  else setB (tcFlushAll s sp) fTcStatusFlushBusy (pgTc sp) true

/-- TC_FLUSH_ALL (R175). -/
def execTcFlushAll (sp : Fin 8) (m : Nat) (s : State) : Host.Outcome State Fault Refusal :=
  .next (clocked s (guarded s (pgTc sp) m 0x100 (tcFlushAllEffect sp m s)))

/-- TC_FLUSH_ALL_DONE (R175): the whole cache has been examined and written back. -/
def execTcFlushAllDone (sp : Fin 8) (s : State) : Host.Outcome State Fault Refusal :=
  .next (clocked s (setB s fTcStatusFlushBusy (pgTc sp) false))

end Sys2Proof.Machine
end

