-- ==== Sys2Proof/Machine/NbParams.lean ====
section
/-!
DEFINITION. The parameters of NB commands (R281 to R287, R294, R299, R303 to R305, R309, R311, R346
to R354): fields, regions, bank streams, local operands, the checks of issue, nominal byte counts and
the translation of a row group.
-/
namespace Sys2Proof.Machine

/-! ### Command and record fields (R281, R283) -/

/-- PRM in bytes. -/
def nbPrm (w : Words) : Nat := bits w.w1 20 17 * 64
/-- VEC in bytes. -/
def nbVec (w : Words) : Nat := bits w.w1 37 17 * 64
/-- VEC_TSTR in bytes. -/
def nbVecTstr (w : Words) : Nat := bits w.w2 0 17 * 64
/-- VPITCH in bytes. -/
def nbVpitch (w : Words) : Nat := bits w.w2 17 9 * 64
/-- FMT_W. -/
def nbFw (w : Words) : Fmt := fmtOr (bits w.w2 41 4)
/-- SCM_W. -/
def nbSw (w : Words) : Nat := bits w.w2 45 2
/-- FMT_V. -/
def nbFv (w : Words) : Fmt := fmtOr (bits w.w2 47 4)
/-- SCM_V. -/
def nbSv (w : Words) : Nat := bits w.w2 51 2
/-- FMT_O. -/
def nbFo (w : Words) : Fmt := fmtOr (bits w.w2 53 4)
/-- BATCH1 + 1. -/
def nbBatch (w : Words) : Nat := bits w.w2 57 3 + 1
/-- FUNC. -/
def nbFunc (w : Words) : Nat := bits w.w2 60 4
/-- ORED. -/
def nbOred (w : Words) : Bool := wFlag w 40
/-- ORD. -/
def nbOrd (w : Words) : Bool := wFlag w 41
/-- VERIFY. -/
def nbVerify (w : Words) : Bool := wFlag w 42
/-- Number of targets (R282). -/
def nbNt (w : Words) : Nat := (nbTargets w).length

/-- Word `i` of a parameter record. -/
def pw (prm : List Nat) (i : Nat) : Nat := prm.getD i 0
/-- OSTR. -/
def nbOstr (prm : List Nat) : Nat := bits (pw prm 24) 0 32
/-- TSW. -/
def nbTsw (prm : List Nat) : Nat := bits (pw prm 24) 32 32

/-- A region record (R283). -/
structure Rg where
  va : Nat
  tstr : Int
  gstr : Int
  gcnt : Nat
  deriving DecidableEq, Repr

/-- Region record `k`. -/
def nbRg (prm : List Nat) (k : Nat) : Rg :=
  ⟨pw prm (4 * k), sextNat 40 (bits (pw prm (4 * k + 1)) 0 40), sextNat 40 (bits (pw prm (4 * k + 2)) 0 40),
    bits (pw prm (4 * k + 3)) 0 16⟩

/-- Address of row group `g` of target `t` (R284). -/
def rgAddr (r : Rg) (t g : Nat) : Int := (r.va : Int) + t * r.tstr + g * r.gstr

/-! ### Bank streams (R285) -/

/-- Elements per row. -/
def rowElems (f : Fmt) : Nat :=
  match fmtWidth f with | 32 => 512 | 16 => 1024 | 8 => 2048 | 6 => 2688 | _ => 4096
/-- Row units: 32-byte columns, or three-column groups for 6-bit formats (R294). -/
def rowUnits (f : Fmt) : Nat := if fmtWidth f = 6 then 21 else 64
/-- Elements per row unit. -/
def unitElems (f : Fmt) : Nat := rowElems f / rowUnits f
/-- Columns per row unit. -/
def unitCols (f : Fmt) : Nat := if fmtWidth f = 6 then 3 else 1
/-- Scale bytes per data row. -/
def rowScales (f : Fmt) (scm : Nat) : Nat := rowElems f / scmBlock scm
/-- Data rows per scale row. -/
def runRows (f : Fmt) (scm : Nat) : Nat := 2048 / rowScales f scm
/-- Rounded-up quotient. -/
def ceilDiv (a b : Nat) : Nat := (a + b - 1) / b
/-- Data rows of `n` elements. -/
def dataRows (f : Fmt) (n : Nat) : Nat := ceilDiv n (rowElems f)
/-- Stream rows of a number of data rows. -/
def streamRows (f : Fmt) (scm d : Nat) : Nat := if scm = 0 then d else d + ceilDiv d (runRows f scm)
/-- Stream row of data row `gi`. -/
def dataRowAt (f : Fmt) (scm gi : Nat) : Nat := if scm = 0 then gi else gi + gi / runRows f scm
/-- Stream row that holds the scales of data row `gi` among `d` data rows. -/
def scaleRowAt (f : Fmt) (scm d gi : Nat) : Nat :=
  let g := runRows f scm
  gi / g * (g + 1) + min g (d - gi / g * g)
/-- Byte offset of the scales of data row `gi` in its scale row. -/
def scaleRowOff (f : Fmt) (scm gi : Nat) : Nat := gi % runRows f scm * rowScales f scm

/-! ### Fields of the opcodes -/

/-- K of `nb.gemv` (R294). -/
def gvK (prm : List Nat) : Nat := bits (pw prm 25) 0 24
/-- R. -/
def gvR (prm : List Nat) : Nat := bits (pw prm 25) 24 8
/-- N. -/
def gvN (prm : List Nat) : Nat := bits (pw prm 25) 32 32
/-- Length of a segment. -/
def gvL (w : Words) (prm : List Nat) : Nat := rowUnits (nbFw w) / gvR prm * unitElems (nbFw w)
/-- Data rows per panel. -/
def gvD (w : Words) (prm : List Nat) : Nat := ceilDiv (gvK prm) (gvL w prm)
/-- Panels. -/
def gvP (prm : List Nat) : Nat := ceilDiv (gvN prm) (32 * gvR prm)
/-- Scale bytes of `n` vector elements. -/
def vecScales (w : Words) (n : Nat) : Nat := if nbSv w = 0 then 0 else ceilDiv n (scmBlock (nbSv w))
/-- Segments of k values in one staging half: H divided by L (R295). -/
def gvHalfSegs (w : Words) (prm : List Nat) : Nat :=
  let per := gvL w prm
  let fits (h : Nat) : Bool :=
    nbBatch w * (packedBytes (nbFv w) (h * per) + vecScales w (h * per)) ≤ 2048
  ((List.range (4096 / per + 1)).reverse.find? fits).getD 0
/-- H, and one segment where R295's H is zero since no half holds one (DEDUCED: no outcome depends on it, R244, log entry 42). -/
def gvH (w : Words) (prm : List Nat) : Nat := max 1 (gvHalfSegs w prm) * gvL w prm

/-- ELEM of a table (R299). -/
def tbElem (prm : List Nat) : Nat := bits (pw prm 25) 0 32
/-- EXTENT. -/
def tbExtent (prm : List Nat) : Nat := bits (pw prm 25) 32 32
/-- TROWS. -/
def tbRows (prm : List Nat) : Nat := bits (pw prm 26) 0 32
/-- IDX64. -/
def tbIdx64 (prm : List Nat) : Bool := bitAt (pw prm 26) 32
/-- FROM_END. -/
def tbFromEnd (prm : List Nat) : Bool := bitAt (pw prm 26) 33
/-- WEIGHTED. -/
def tbWeighted (prm : List Nat) : Bool := bitAt (pw prm 26) 34
/-- NIDX. -/
def tbNidx (prm : List Nat) : Nat := bits (pw prm 27) 0 24
/-- BAG. -/
def tbBag (prm : List Nat) : Nat := bits (pw prm 27) 32 16
/-- NBAG (R302). -/
def tbNbag (prm : List Nat) : Nat := ceilDiv (tbNidx prm) (tbBag prm)
/-- C. -/
def tbC (w : Words) (prm : List Nat) : Nat := ceilDiv (tbElem prm * fmtWidth (nbFw w)) 256
/-- U. -/
def tbU (w : Words) (prm : List Nat) : Nat := ceilDiv (tbC w prm) 32
/-- Elements per column. -/
def tbEpc (w : Words) : Nat := 256 / fmtWidth (nbFw w)

/-- NEL of `nb.axpy` (R303). -/
def axNel (prm : List Nat) : Nat := bits (pw prm 26) 0 32
/-- NVEC of `nb.norm` (R304). -/
def nmNvec (prm : List Nat) : Nat := bits (pw prm 25) 0 32
/-- LV. -/
def nmLv (prm : List Nat) : Nat := bits (pw prm 25) 32 32
/-- NEL of `nb.adam` (R309). -/
def adNel (prm : List Nat) : Nat := bits (pw prm 30) 0 32

/-- LEN of `nb.attn` (R305). -/
def atLen (prm : List Nat) : Nat := bits (pw prm 27) 0 32
/-- WINDOW. -/
def atWin (prm : List Nat) : Nat := bits (pw prm 27) 32 32
/-- NPAGES. -/
def atPages (prm : List Nat) : Nat := bits (pw prm 26) 32 32
/-- D. -/
def atD (prm : List Nat) : Nat := bits (pw prm 30) 0 8
/-- PGSZ. -/
def atPgsz (prm : List Nat) : Nat := bits (pw prm 30) 8 2
/-- Page size in bytes (R346). -/
def atPs (prm : List Nat) : Nat := match atPgsz prm with | 0 => 16384 | 1 => 65536 | _ => 262144
/-- Page rows per page (R347). -/
def atNr (prm : List Nat) : Nat := atPs prm / 2048
/-- Bytes of one key (R348). -/
def atKb (w : Words) (prm : List Nat) : Nat := atD prm * fmtWidth (nbFw w) / 8
/-- Columns that the scales of `t` positions take, for K or for V (R348). -/
def atScaleCols (w : Words) (prm : List Nat) (t : Nat) : Nat :=
  if nbSw w = 0 then 0 else ceilDiv (t * atD prm) 1024
/-- Token slots per page row for keys of `kb` bytes and `d` elements, with or without MX32 scales (R348). -/
def rowTokens (kb d : Nat) (mx : Bool) : Nat :=
  let fits (t : Nat) : Bool :=
    if !mx then 2 * t * kb ≤ 2048
    else ceilDiv (2 * t * kb) 32 * 32 + 2 * ceilDiv (t * d) 1024 * 32 ≤ 2048
  ((List.range 65).reverse.find? fits).getD 0

/-- Token slots per page row of `nb.attn` (R348). -/
def atT (w : Words) (prm : List Nat) : Nat := rowTokens (atKb w prm) (atD prm) (nbSw w != 0)
/-- Slots per page (R349). -/
def atTp (w : Words) (prm : List Nat) : Nat := atNr prm * atT w prm
/-- Capacity of the page list (R353). -/
def atCap (w : Words) (prm : List Nat) : Nat := atPages prm * nbNt w * atTp w prm

/-! ### Regions of the opcodes -/

/-- The regions that a command uses: record, rows it needs (0 for any number), and access (R284,
R292). -/
def nbRegions (w : Words) (prm : List Nat) : List (Nat × Nat × Access) :=
  let fw := nbFw w
  let fn := nbFunc w
  match wOp w with
  | 0xA1 => [(0, streamRows fw (nbSw w) (gvP prm * gvD w prm), .read)]
  | 0xA2 => [(0, ceilDiv (tbRows prm * tbU w prm) 64, .read), (1, ceilDiv (tbNidx prm * tbU w prm) 64, .write)]
  | 0xA3 => [(0, ceilDiv (tbRows prm * tbU w prm) 64, .read)]
  | 0xA4 => [(0, streamRows fw (nbSw w) (dataRows fw (axNel prm)), .read), (1, dataRows (nbFo w) (axNel prm), .both)]
  | 0xA5 =>
    let per (f : Fmt) : Nat := ceilDiv (nmNvec prm) 32 * dataRows f (nmLv prm)
    if fn = 0 then [(0, per fw, .read)]
    else [(0, per fw, .read), (1, per (nbFo w), .write), (2, dataRows .fp32 (nmLv prm), .read)]
  | 0xA7 =>
    let n := adNel prm
    [(0, dataRows .fp32 n, .both), (1, dataRows .fp32 n, .both), (2, dataRows .fp32 n, .both),
      (3, dataRows .fp32 n, .read)]
      ++ (if bitAt fn 0 then [(4, dataRows .bf16 n, .write)] else [])
      ++ (if bitAt fn 1 then [(5, streamRows .e4m3 1 (dataRows .e4m3 n), .both)] else [])
  | 0xA8 =>
    let n := (nbRg prm 2).gcnt
    match fn with
    | 0 => [(0, n, .read), (2, n, .write)]
    | 3 => [(0, n, .read), (2, n, .write)]
    | 1 => [(2, n, .write)]
    | 2 => [(2, n, .write)]
    | 6 => [(0, n, .both), (1, n, .both), (2, n, .both)]
    | _ => [(0, n, .read), (1, n, .read), (2, n, .write), (3, 2 * n, .write)]
  | 0xA9 => [(0, (nbRg prm 0).gcnt, .read)]
  | _ => []

/-- Whether a used region record is well formed and holds exactly the rows needed (R283, R285). -/
def rgOk (prm : List Nat) (k need : Nat) : Bool :=
  let r := nbRg prm k
  r.va % 65536 == 0 && r.tstr % 65536 == 0 && r.gstr % 65536 == 0
    && pw prm (4 * k + 1) < 2 ^ 40 && pw prm (4 * k + 2) < 2 ^ 40 && pw prm (4 * k + 3) < 2 ^ 16
    && decide (1 ≤ r.gcnt) && decide (r.gcnt ≤ 32768) && (r.gcnt == 1 || r.gstr != 0) && r.gcnt == need

/-- Ranges of words 25 to 31 that an opcode uses. -/
def nbTail (op : Nat) : List (List (Nat × Nat)) :=
  match op with
  | 0xA1 => [[(0, 64)], [], [], [], [], [], []]
  | 0xA2 => [[(0, 64)], [(0, 34)], [(0, 24)], [], [], [], []]
  | 0xA3 => [[(0, 64)], [(0, 35)], [(0, 24), (32, 16)], [], [], [], []]
  | 0xA4 => [[(0, 64)], [(0, 32)], [], [], [], [], []]
  | 0xA5 => [[(0, 64)], [], [], [], [], [], []]
  | 0xA6 => [[(0, 64)], [(0, 64)], [(0, 64)], [(0, 64)], [(0, 64)], [(0, 10)], []]
  | 0xA7 => [[(0, 64)], [(0, 64)], [(0, 64)], [(0, 64)], [(0, 64)], [(0, 32)], []]
  | _ => [[], [], [], [], [], [], []]

/-! ### Local operands (R286) -/

/-- Rows of the local operands and elements in each, with their element width in bits; gathers have
rows of their own width. -/
def nbOpRows (w : Words) (prm : List Nat) : List Nat :=
  let idx := tbNidx prm * (if tbIdx64 prm then 8 else 4)
  match wOp w with
  | 0xA1 => List.replicate (nbBatch w) (packedBytes (nbFv w) (gvK prm))
  | 0xA6 => List.replicate (nbBatch w) (packedBytes (nbFv w) (atD prm))
  | 0xA2 => [idx]
  | 0xA3 => if tbWeighted prm then [idx, tbNidx prm * 4] else [idx]
  | 0xA5 => if nbFunc w = 1 then [nmNvec prm * 4, nmNvec prm * 4] else []
  | _ => []

/-- Window offset of a target's local operands (R286). -/
def nbOpBase (w : Words) (t : Nat) : Nat := nbVec w + t * nbVecTstr w

/-- Elements of a scaled local row. -/
def nbOpElems (w : Words) (prm : List Nat) : Nat := if wOp w = 0xA1 then gvK prm else atD prm
/-- Offset of the scale plane within a target's local operands. -/
def nbPlane (w : Words) : Nat := nbBatch w * nbVpitch w
/-- Offset of the NS16 tensor scale. -/
def nbVts (w : Words) (prm : List Nat) : Nat :=
  (nbPlane w + nbBatch w * vecScales w (nbOpElems w prm) + 3) / 4 * 4
/-- Bytes that a target's local operands span. -/
def nbOpBytes (w : Words) (prm : List Nat) : Nat :=
  let rows := (nbOpRows w prm).zipIdx.foldl (fun acc r => max acc (r.2 * nbVpitch w + r.1)) 0
  if (wOp w == 0xA1 || wOp w == 0xA6) && nbSv w != 0 then
    max rows (if nbSv w = 2 then nbVts w prm + 4 else nbPlane w + nbBatch w * vecScales w (nbOpElems w prm))
  else rows
/-- Byte ranges that a target's local operands occupy, relative to their start. -/
def nbOpRanges (w : Words) (prm : List Nat) : List (Nat × Nat) :=
  (nbOpRows w prm).zipIdx.map (fun r => (r.2 * nbVpitch w, r.1))
    ++ (if (wOp w == 0xA1 || wOp w == 0xA6) && nbSv w != 0 then
          [(nbPlane w, nbBatch w * vecScales w (nbOpElems w prm))] else [])
    ++ (if (wOp w == 0xA1 || wOp w == 0xA6) && nbSv w == 2 then [(nbVts w prm, 4)] else [])

/-! ### Results (R287, R289) -/

/-- Drained results per target (R287). -/
def nbResults (w : Words) (prm : List Nat) : Nat :=
  match wOp w with
  | 0xA1 => nbBatch w * gvN prm
  | 0xA3 => tbNbag prm * tbElem prm
  | 0xA5 => if nbFunc w = 0 then 2 * nmNvec prm else 0
  | 0xA6 => nbBatch w * (atD prm + 2)
  | _ => 0

/-- Whether a command drains results. -/
def nbDrainsW (w : Words) : Bool := nbDrains (wOp w) (nbFunc w)

/-- Bytes of one result. -/
def nbResBytes (w : Words) : Nat := fmtWidth (nbFo w) / 8

/-- Bytes of a target's results rounded up to 128. -/
def nbResArea (w : Words) (prm : List Nat) : Nat := 128 * ceilDiv (nbResults w prm * nbResBytes w) 128

/-- The result area: its first address and length (R287). -/
def nbOutArea (w : Words) (prm : List Nat) : Nat × Nat :=
  if !nbDrainsW w then (0, 0)
  else if nbOstr prm = 0 then (w.w3, nbResArea w prm) else (w.w3, nbNt w * nbOstr prm)

/-- Nominal byte count (R289). For APPLY, whose record holds no NEL, the elements per bank stream are
those of the vectors that a bank holds (DEDUCED, log entry 29). -/
def nbNominal (w : Words) (prm : List Nat) : Nat :=
  let t := nbNt w
  let o := nbResBytes w
  let fn := nbFunc w
  match wOp w with
  | 0xA1 => t * nbBatch w * gvN prm * o
  | 0xA2 => t * tbNidx prm * tbC w prm * 32
  | 0xA3 => t * tbNbag prm * tbElem prm * o
  | 0xA4 => t * 32 * axNel prm * o
  | 0xA5 => if fn = 0 then t * nmNvec prm * 8 else t * 32 * (ceilDiv (nmNvec prm) 32 * nmLv prm) * o
  | 0xA6 => t * nbBatch w * (atD prm + 2) * 4
  | 0xA7 => t * 32 * adNel prm * (12 + (if bitAt fn 0 then 2 else 0) + (if bitAt fn 1 then 1 else 0))
  | 0xA8 =>
    let written := match fn with | 6 => 3 | 4 => 3 | 5 => 3 | _ => 1
    65536 * (t * (nbRg prm 2).gcnt) * written
  | _ => 0

/-! ### Checks of issue (R283 to R287) -/

/-- Opcode limits (R294, R299, R302, R304, R305, R309, R346, R352, R353). -/
def nbLimits (w : Words) (prm : List Nat) : Bool :=
  match wOp w with
  | 0xA1 =>
    gvK prm != 0 && gvR prm != 0 && rowUnits (nbFw w) % gvR prm == 0
      && decide (gvR prm * nbBatch w ≤ 64)
  | 0xA2 => tbNidx prm != 0 && decide (tbU w prm ≤ 64)
  | 0xA3 => tbNidx prm != 0 && tbBag prm != 0 && decide (tbU w prm * tbEpc w ≤ 512) && decide (tbU w prm ≤ 64)
  | 0xA5 => nmNvec prm != 0 && nmLv prm != 0 && (nbFunc w == 0 || decide (nmNvec prm ≤ 256))
  | 0xA6 =>
    let lo := pw prm 28
    let hi := pw prm 29
    (atD prm == 64 || atD prm == 128) && decide (atPgsz prm ≤ 2) && pw prm 25 % 4 == 0
      && bits (pw prm 26) 0 32 % 4 == 0 && lo % 65536 == 0 && decide (lo ≤ hi) && (hi - lo) % atPs prm == 0
      && (if atWin prm = 0 then decide (atLen prm ≤ atCap w prm) else decide (atWin prm ≤ atCap w prm))
  | 0xA7 => match fp32Val (bits (pw prm 29) 0 32) with | .fin n m _ => !n && m != 0 | _ => false
  | _ => true

/-- Whether OSTR and TSW obey R283 and R287. -/
def nbWord24 (w : Words) (prm : List Nat) : Bool :=
  let o := nbOstr prm
  (nbSw w == 2 || nbTsw prm == 0)
    && (if nbDrainsW w then o % 128 == 0 && (if o = 0 then nbOred w else decide (o ≥ nbResArea w prm)) else o == 0)

/-- Whether a read region overlaps the result area (R287). DEDUCED from Table: NB error codes, which names the result area:
with OSTR 0 that is the shared area (log entry 95). -/
def nbReadsOut (w : Words) (prm : List Nat) : Bool :=
  let lo : Int := (nbOutArea w prm).1
  let hi : Int := (nbOutArea w prm).1 + (nbOutArea w prm).2
  nbDrainsW w && (nbRegions w prm).any (fun r =>
    let g := nbRg prm r.1
    (List.range (nbNt w)).any (fun t => (List.range g.gcnt).any (fun k =>
      decide (rgAddr g t k < hi) && decide (lo < rgAddr g t k + 65536))))

/-- Whether a parameter record passes every check that raises NB_PARAM. -/
def nbParamOk (w : Words) (prm : List Nat) (win : Nat) : Bool :=
  let used := nbRegions w prm
  nbLimits w prm && nbWord24 w prm
    && (List.range 6).all (fun k => match used.find? (fun r => r.1 == k) with
        | some r => rgOk prm k r.2.1
        | none => [0, 1, 2, 3].all (fun j => pw prm (4 * k + j) == 0))
    && (nbTail (wOp w)).zipIdx.all (fun u => onlyBits (pw prm (25 + u.2)) u.1)
    && (List.range (nbNt w)).all (fun t =>
        nbOpRows w prm == [] || decide (nbVec w + t * nbVecTstr w + nbOpBytes w prm ≤ win))
    && !nbReadsOut w prm

/-! ### Row groups (R284) -/

/-- Outcome of translating a row: its row number with the translations used, an error code, or a translation fault. -/
inductive RowTr where
  | ok (row : Nat) (used : List (Nat × Nat × Nat))
  | code (c va : Nat)
  | fault (cause level va : Nat) (acc : Access)
  deriving DecidableEq, Repr

/-- The pages of `len` bytes from an address, against the cell at which the first must lie. -/
def rgPages (span core ctx n : Nat) (acc : Access) (bank : Nat) (va0 : Nat) :
    Nat → State → Nat → Option Nat → List (Nat × Nat × Nat) → RowTr × State
  | 0, s, _, row, used => (.ok (row.getD 0) used, s)
  | k + 1, s, va, row, used =>
    let t := translate s span core 4 ctx va
    match t.1 with
    | .fault c l => (.fault c l va acc, t.2)
    | .ok p =>
      if !permits p.pte acc then (.code eNbProt va, t.2)
      else if pteKind p.pte ≥ 2 then (.code eNbAttr va, t.2)
      else
        let cell := cellOf t.2 false (pageDa p va)
        let want := cellSo cell % 65536 == 2048 * bank + (va - va0) && cellCtl t.2 cell == n
          && (match row with | some r => r == cellRow t.2 cell | none => true)
        if pteIntlv p.pte || !want then (.code eNbPlace va, t.2)
        else rgPages span core ctx n acc bank va0 k t.2 (va + 4096) (some (cellRow t.2 cell))
          (if used.contains (p.vbase, p.size, p.pte) then used else used ++ [(p.vbase, p.size, p.pte)])

/-- A row group translated for a target (R284). -/
def rgRow (s : State) (span core ctx n : Nat) (acc : Access) (va : Int) : RowTr × State :=
  if va < 0 ∨ va > 2 ^ 64 - 65536 then (.code eNbPlace (va % 2 ^ 64).toNat, s)
  else rgPages span core ctx n acc 0 va.toNat 16 s va.toNat none []

/-- A page row of 2 KiB translated for a target and a bank (R305, R347). -/
def pageRow (s : State) (span core ctx n bank va : Nat) : RowTr × State :=
  if va > 2 ^ 64 - 2048 then (.code eNbPlace (va % 2 ^ 64), s)
  else rgPages span core ctx n .read bank va 1 s va none []

/-- The blocks of 64 KiB of a KV page translated, each wholly one block of the target (R284, R305). -/
def pageBlocks (span core ctx n : Nat) : Nat → State → Nat → List (Nat × Nat × Nat) → RowTr × State
  | 0, s, _, used => (.ok 0 used, s)
  | k + 1, s, va, used =>
    let x := rgPages span core ctx n .read 0 va 16 s va none used
    match x.1 with
    | .ok _ u => pageBlocks span core ctx n k x.2 (va + 65536) u
    | y => (y, x.2)

/-- A KV page translated whole (R305): a page of 16 KiB lies in one quarter of a block of the target, which the answer
names; a larger page takes whole blocks. -/
def kvPage (s : State) (span core ctx n size va : Nat) : RowTr × State :=
  if va + size > 2 ^ 64 then (.code eNbPlace (va % 2 ^ 64), s)
  else if size ≥ 65536 then pageBlocks span core ctx n (size / 65536) s va []
  else
    let t := translate s span core 4 ctx va
    match t.1 with
    | .fault c l => (.fault c l va .read, t.2)
    | .ok p =>
      let quart := cellSo (cellOf t.2 false (pageDa p va)) / 16384 % 4
      let x := rgPages span core ctx n .read (8 * quart) va 4 t.2 va none []
      match x.1 with
      | .ok _ u => (.ok quart u, x.2)
      | y => (y, x.2)

end Sys2Proof.Machine
end

