-- ==== Sys2Proof/Machine/NbCut.lean ====
section
/-!
DEFINITION. The cut of an NB sequence into stitches (R249, R296, R301 to R304, R310 to R312, R357): for
each stitch its bank, kind, row groups, column work, the drained unit it contributes to, the
broadcasts it needs, and what it does.
-/
namespace Sys2Proof.Machine

/-- What a stitch does to its bank and lane unit. -/
inductive StAct where
  /-- Scales of data rows `gi` to `gi + Q - 1` into OR8 to OR15 (R296). -/
  | gemvScale (gi : Nat)
  /-- Data row `i` of panel `p` (R295). -/
  | gemvData (p i : Nat)
  /-- `cnt` columns from column `col` of a row, read to staging at column `at_` (R301). -/
  | gatherRead (col cnt at_ : Nat)
  /-- `cnt` columns written from staging column `at_`, or zeros (R301). -/
  | gatherWrite (col cnt at_ : Nat) (zero : Bool)
  /-- Columns of position `p`, the `at_`-th and following of the bank's share, added (R302); `first`
  says that the bag starts. -/
  | gredAdd (p : Nat) (first : Bool) (col cnt at_ : Nat)
  /-- The first `cnt` elements of data row `gi` of x, or their scales, read to staging (R303). -/
  | axpyRead (cnt gi : Nat) (scales : Bool)
  /-- Elements of y from `e0` updated; `off` is their place in staging (R303). -/
  | axpyUpdate (e0 cnt off : Nat)
  /-- Row `r` of vector `i` (R304). -/
  | normStats (i r : Nat)
  /-- Elements `e0` to `e0 + cnt - 1` of a vector's x, or of the gain, read to staging (R304). -/
  | normRead (e0 cnt : Nat) (gain : Bool)
  /-- The results of those elements of vector `i` written (R304). -/
  | normWrite (i e0 cnt : Nat)
  /-- Scores of the block's tokens in one page row (R306): block, entry and page row. -/
  | attnK (j e rho : Nat)
  /-- Value columns of one page row; the last one of a block ends the block (R306). -/
  | attnV (j e rho : Nat) (last : Bool)
  /-- Elements `e0` to `e0 + cnt - 1` of region `k` read to staging (R310). -/
  | adamRead (k e0 cnt : Nat)
  /-- Region `k` written back from staging (R310). -/
  | adamWrite (k e0 cnt : Nat)
  /-- The BF16 copy written from the operand registers. -/
  | adamBf16 (e0 cnt : Nat)
  /-- The E4M3 copy written from the accumulators. -/
  | adamFp8 (e0 cnt : Nat)
  /-- Scales of blocks `b0` to `b0 + cnt - 1` merged into their column. -/
  | adamScale (b0 cnt : Nat)
  /-- Primitives of row groups `g0` to `g0 + cnt - 1` (R311). -/
  | rowPrims (g0 cnt : Nat)
  /-- A sealed source row read through the decoder (R263). -/
  | verifyRow
  /-- The first or second 32 stale columns of a row burnished (R268). -/
  | burn (half : Nat)
  deriving DecidableEq, Repr

/-- A row that a stitch opens: a row group of a region, or a page row by its virtual address. -/
inductive RowRef where
  | group (k g : Nat)
  | page (e rho : Nat)
  | raw (row : Nat)
  deriving DecidableEq, Repr

/-- A stitch of a cut. `cols` counts column reads and writes, `cycles` column cycles. -/
structure Plan where
  bank : Nat
  kind : StitchKind
  rows : List RowRef
  cols : Nat
  cycles : Nat
  prims : Nat
  unit : Nat
  need : Nat
  act : StAct
  deriving DecidableEq, Repr

/-- A plan without a drained unit or a broadcast. -/
def planOf (bank : Nat) (kind : StitchKind) (rows : List RowRef) (cols cycles : Nat) (act : StAct) : Plan :=
  ⟨bank, kind, rows, cols, cycles, 0, 0, 0, act⟩

/-- The 32 banks. -/
def allBanks : List Nat := List.range 32

/-- Words of a sequence's command. -/
def seqW (q : NbSeq) : Words := ⟨q.w0, q.w1, q.w2, q.w3⟩

/-! ### `nb.gemv` (R296) -/

/-- Data rows per scale stitch. -/
def gvQ (w : Words) : Nat := if nbSw w = 0 then 1 else 256 / rowScales (nbFw w) (nbSw w)

/-- Lane count of a pairing's row (R239). -/
def laneCount (row : Nat) : Nat := match row with | 1 => 128 | 2 => 128 | 3 => 64 | 4 => 64 | 5 => 64 | _ => 32

/-- Column cycles of the columns of one row (R254). -/
def dotCycles (f : Fmt) (b row cols : Nat) : Nat :=
  if fmtWidth f = 6 then cols / 3 * max 3 (ceilDiv (128 * b) (laneCount row))
  else cols * max 1 (ceilDiv (unitElems f * b) (laneCount row))

/-- Row of the pairing of FMT_W and FMT_V, with its join and chunk length. -/
def nbPair (w : Words) : Nat × Join × Nat := (pairing (nbFw w) (nbSw w) (nbFv w) (nbSv w)).getD (8, .fp32, 1)

/-- Broadcasts needed before data row `i` of panel `p`: with two halves or fewer the vectors stay. -/
def gvNeed (w : Words) (prm : List Nat) (p i : Nat) : Nat :=
  let halves := ceilDiv (gvK prm) (gvH w prm)
  let h := i * gvL w prm / gvH w prm
  if halves ≤ 2 then h + 1 else p * halves + h + 1

/-- First broadcast that a stitch from number `next` on still needs, for reading halves again (R291). -/
def castsFrom (next : Nat) (l : List Plan) (made : Nat) : Nat :=
  (l.drop next).foldl (fun acc p => if p.need = 0 then acc else min acc (p.need - 1)) made

/-- The cut of `nb.gemv`. -/
def cutGemv (w : Words) (prm : List Nat) : List Plan :=
  let f := nbFw w
  let d := gvD w prm
  let total := gvP prm * d
  let cols := rowUnits f * unitCols f
  (List.range (gvP prm)).flatMap (fun p => (List.range d).flatMap (fun i =>
    let gi := p * d + i
    let sc := ceilDiv (gvQ w * rowScales f (nbSw w)) 32
    (if nbSw w != 0 && gi % gvQ w == 0 then
      allBanks.map (fun b =>
        { planOf b .compute [.group 0 (scaleRowAt f (nbSw w) total gi)] sc sc (.gemvScale gi) with unit := p })
     else [])
    ++ allBanks.map (fun b =>
        { planOf b .compute [.group 0 (dataRowAt f (nbSw w) gi)] cols (dotCycles f (nbBatch w) (nbPair w).1 cols)
            (.gemvData p i) with unit := p, need := gvNeed w prm p i })))

/-! ### Tables (R300 to R302) -/

/-- Index positions whose groups of 64 have been read (R291). -/
def posRead (q : NbSeq) : Nat := min (tbNidx q.prm) (64 * q.groups)

/-- Index value of a position, from a target's local operands. -/
def opIdx (q : NbSeq) (p : Nat) : Int :=
  let n := if tbIdx64 q.prm then 8 else 4
  sextNat (8 * n) (leNat ((q.ops.drop (p * n)).take n))

/-- Resolved table row of a position, none when it is out of bounds (R194, R300). -/
def opRow (q : NbSeq) (p : Nat) : Option Nat :=
  let v := opIdx q p
  let r := if v < 0 ∧ tbFromEnd q.prm then v + (tbExtent q.prm : Nat) else v
  if 0 ≤ r ∧ r < (tbExtent q.prm : Nat) then some r.toNat else none

/-- Local table row of a position in this target, if it holds it. -/
def opLocal (q : NbSeq) (p : Nat) : Option Nat :=
  match opRow q p with
  | some r => if r / tbRows q.prm = q.t then some (r % tbRows q.prm) else none
  | none => none

/-- Pieces of `u` stream columns from column `x`, cut at row ends: row group, first column, count and
place in the run. -/
def colRuns (x u : Nat) : List (Nat × Nat × Nat × Nat) :=
  let n1 := min u (64 - x % 64)
  (x / 64, x % 64, n1, 0) :: (if n1 < u then [(x / 64 + 1, 0, u - n1, n1)] else [])

/-- Stitches of one position of `nb.gather`. -/
def gatherPos (q : NbSeq) (p : Nat) : List Plan :=
  let u := tbU (seqW q) q.prm
  let wr (zero : Bool) (b : Nat) : List Plan :=
    (colRuns (p * u) u).map (fun r =>
      planOf b .write [.group 1 r.1] r.2.2.1 r.2.2.1 (.gatherWrite r.2.1 r.2.2.1 r.2.2.2 zero))
  match opRow q p with
  | none => if q.t = 0 then allBanks.flatMap (wr true) else []
  | some _ => match opLocal q p with
    | none => []
    | some k => allBanks.flatMap (fun b =>
        (colRuns (k * u) u).map (fun r =>
          planOf b .compute [.group 0 r.1] r.2.2.1 r.2.2.1 (.gatherRead r.2.1 r.2.2.1 r.2.2.2))
        ++ wr false b)

/-- The cut of `nb.gather`, as far as its index groups have been read. -/
def cutGather (q : NbSeq) : List Plan := (List.range (posRead q)).flatMap (gatherPos q)

/-- Whether a position is the first of its bag that this target holds. -/
def bagFirst (q : NbSeq) (p : Nat) : Bool :=
  let b0 := p / tbBag q.prm * tbBag q.prm
  !(List.range (p - b0)).any (fun k => (opLocal q (b0 + k)).isSome)

/-- The cut of `nb.gred`, as far as its index groups have been read. -/
def cutGred (q : NbSeq) : List Plan :=
  let w := seqW q
  let u := tbU w q.prm
  let c := max 1 (tbEpc w / 16)
  (List.range (posRead q)).flatMap (fun p => match opLocal q p with
    | none => []
    | some k => allBanks.flatMap (fun b => (colRuns (k * u) u).map (fun r =>
        { planOf b .compute [.group 0 r.1] r.2.2.1 (r.2.2.1 * c)
            (.gredAdd p (bagFirst q p && r.2.2.2 == 0) r.2.1 r.2.2.1 r.2.2.2) with
          unit := p / tbBag q.prm, need := if tbWeighted q.prm then p / 64 + 1 else 0 })))

/-! ### Element streams (R303, R304, R310) -/

/-- Runs of `step` elements of `n`: first element and count. -/
def elemRuns (n step : Nat) : List (Nat × Nat) :=
  (List.range (ceilDiv n step)).map (fun k => (k * step, min step (n - k * step)))

/-- Runs of at most `step` of `cnt` elements from `e0` that cross no row end of the row lengths given, over `fuel` runs
at most. -/
def segRuns (step : Nat) (rows : List Nat) : Nat → Nat → Nat → List (Nat × Nat)
  | 0, _, _ => []
  | k + 1, e0, cnt =>
    if cnt = 0 then []
    else
      let m := rows.foldl (fun acc r => min acc (r - e0 % r)) (min step cnt)
      (e0, m) :: segRuns step rows k (e0 + m) (cnt - m)

/-- The runs of `cnt` elements from `e0`. -/
def segCut (step : Nat) (rows : List Nat) (e0 cnt : Nat) : List (Nat × Nat) :=
  segRuns step rows (cnt / step + (rows.map (fun r => cnt / r + 1)).sum + 1) e0 cnt

/-- Columns that elements of a run take, at most. -/
def runCols (f : Fmt) (cnt : Nat) : Nat := ceilDiv (cnt * fmtWidth f) 256

/-- Cycles of a number of columns at 16 elements a cycle. -/
def cyc16 (f : Fmt) (cols : Nat) : Nat :=
  if fmtWidth f = 6 then ceilDiv (cols * 8) 3 else cols * max 1 (256 / fmtWidth f / 16)

/-- Columns that hold the scales of the first `cnt` elements of data row `gi`. -/
def scaleCols (f : Fmt) (scm gi cnt : Nat) : Nat :=
  ceilDiv (scaleRowOff f scm gi % 32 + ceilDiv cnt (scmBlock scm)) 32

/-- The cut of `nb.axpy`, row by row of x: the row's elements into H0, its scales into H1, and the elements of y
updated, 64 op units and one row of y at a time (R249, R303). DESIGN CHOICE: the place of the scale stitch (log entry
56). -/
def cutAxpy (w : Words) (prm : List Nat) : List Plan :=
  let n := axNel prm
  let fx := nbFw w
  let fy := nbFo w
  let er := rowElems fx
  let total := dataRows fx n
  (List.range total).flatMap (fun gi =>
    let cnt := min er (n - gi * er)
    let cx := runCols fx cnt
    let cs := scaleCols fx (nbSw w) gi cnt
    allBanks.map (fun b => planOf b .compute [.group 0 (dataRowAt fx (nbSw w) gi)] cx (cyc16 fx cx) (.axpyRead cnt gi false))
    ++ (if nbSw w = 0 then [] else allBanks.map (fun b =>
        planOf b .compute [.group 0 (scaleRowAt fx (nbSw w) total gi)] cs cs (.axpyRead cnt gi true)))
    ++ (segCut (unitElems fy * 32) [rowElems fy] (gi * er) cnt).flatMap (fun u => allBanks.map (fun b =>
        let c := runCols fy u.2
        planOf b .update [.group 1 (u.1 / rowElems fy)] (2 * c) (2 * cyc16 fy c)
          (.axpyUpdate u.1 u.2 (u.1 - gi * er)))))

/-- Rows of a vector in a format, and the first of them for vector `i` (R304). -/
def vecRow (f : Fmt) (lv i : Nat) : Nat := i / 32 * dataRows f lv

/-- The cut of `nb.norm` STATS: vectors in groups of 32, one bank each. -/
def cutStats (w : Words) (prm : List Nat) : List Plan :=
  let f := nbFw w
  let lv := nmLv prm
  (List.range (ceilDiv (nmNvec prm) 32)).flatMap (fun g =>
    (List.range (dataRows f lv)).flatMap (fun r =>
      (allBanks.filter (fun b => g * 32 + b < nmNvec prm)).map (fun b =>
        let cols := runCols f (min (rowElems f) (lv - r * rowElems f))
        { planOf b .compute [.group 0 (vecRow f lv (g * 32 + b) + r)] cols (cyc16 f cols)
            (.normStats (g * 32 + b) r) with unit := g * 32 + b })))

/-- The cut of `nb.norm` APPLY: runs of elements of each vector that staging holds and that cross no row end of x, y or
the gain. DESIGN CHOICE: at most 256 elements a run (log entry 57). -/
def cutApply (w : Words) (prm : List Nat) : List Plan :=
  let fx := nbFw w
  let fy := nbFo w
  let lv := nmLv prm
  (List.range (ceilDiv (nmNvec prm) 32)).flatMap (fun g =>
    (segCut 256 [rowElems fx, rowElems fy, 512] 0 lv).flatMap (fun r =>
    let bs := allBanks.filter (fun b => g * 32 + b < nmNvec prm)
    let mk (b : Nat) (k : StitchKind) (f : Fmt) (row : RowRef) (a : StAct) : Plan :=
      { planOf b k [row] (runCols f r.2) (cyc16 f (runCols f r.2)) a with need := 1 }
    bs.map (fun b => mk b .compute fx (.group 0 (vecRow fx lv (g * 32 + b) + r.1 / rowElems fx)) (.normRead r.1 r.2 false))
    ++ bs.map (fun b => mk b .compute .fp32 (.group 2 (r.1 / 512)) (.normRead r.1 r.2 true))
    ++ bs.map (fun b => mk b .write fy (.group 1 (vecRow fy lv (g * 32 + b) + r.1 / rowElems fy))
        (.normWrite (g * 32 + b) r.1 r.2))))

/-- The cut of `nb.adam`: groups of 256 elements in each bank; a scale column is written when its 32
blocks are complete, or at the end. -/
def cutAdam (w : Words) (prm : List Nat) : List Plan :=
  let n := adNel prm
  let fn := nbFunc w
  let total := dataRows .e4m3 n
  (elemRuns n 256).flatMap (fun r =>
    let c := runCols .fp32 r.2
    let row (k : Nat) : RowRef := .group k (r.1 / 512)
    let each (f : Nat → Plan) : List Plan := allBanks.map f
    let last := decide (r.1 + 256 ≥ n)
    each (fun b => planOf b .compute [row 0] c c (.adamRead 0 r.1 r.2))
    ++ each (fun b => planOf b .compute [row 1] c c (.adamRead 1 r.1 r.2))
    ++ each (fun b => planOf b .compute [row 2] c c (.adamRead 2 r.1 r.2))
    ++ each (fun b => planOf b .compute [row 3] c c (.adamRead 3 r.1 r.2))
    ++ each (fun b => planOf b .write [row 0] c c (.adamWrite 0 r.1 r.2))
    ++ each (fun b => planOf b .write [row 1] c c (.adamWrite 1 r.1 r.2))
    ++ each (fun b => planOf b .write [row 2] c c (.adamWrite 2 r.1 r.2))
    ++ (if bitAt fn 0 then each (fun b =>
          planOf b .write [.group 4 (r.1 / 1024)] (runCols .bf16 r.2) (runCols .bf16 r.2) (.adamBf16 r.1 r.2)) else [])
    ++ (if bitAt fn 1 then each (fun b =>
          planOf b .write [.group 5 (dataRowAt .e4m3 1 (r.1 / 2048))] (runCols .e4m3 r.2) (runCols .e4m3 r.2)
            (.adamFp8 r.1 r.2)) else [])
    ++ (if bitAt fn 1 && (last || (r.1 / 256) % 4 == 3) then each (fun b =>
          let b0 := r.1 / 1024 * 32
          planOf b .update [.group 5 (scaleRowAt .e4m3 1 total (r.1 / 2048))] 2 2
            (.adamScale b0 (ceilDiv (r.1 + r.2) 32 - b0))) else []))

/-! ### Row operations and burnish (R311, R312) -/

/-- Primitives per row group. -/
def rowPrimCount (fn : Nat) : Nat := if fn = 4 ∨ fn = 5 then 4 else 1

/-- Rows of a row group `g` that a row operation names, sources first. -/
def rowRefs (fn g : Nat) : List RowRef :=
  match fn with
  | 0 => [.group 0 g, .group 2 g]
  | 3 => [.group 0 g, .group 2 g]
  | 1 => [.group 2 g]
  | 2 => [.group 2 g]
  | 6 => [.group 0 g, .group 1 g, .group 2 g]
  | _ => [.group 0 g, .group 1 g, .group 2 g, .group 3 (2 * g), .group 3 (2 * g + 1)]

/-- Source rows of a row group, for VERIFY. -/
def rowSources (fn g : Nat) : List RowRef :=
  match fn with
  | 0 => [.group 0 g]
  | 3 => [.group 0 g]
  | 1 => []
  | 2 => []
  | 6 => [.group 0 g, .group 1 g, .group 2 g]
  | _ => [.group 0 g, .group 1 g]

/-- The cut of `nb.rowop`: stitch `s` on bank `s mod 32`, its VERIFY stitches before it. -/
def cutRowop (w : Words) (prm : List Nat) : List Plan :=
  let fn := nbFunc w
  let k := 16 / rowPrimCount fn
  (elemRuns (nbRg prm 2).gcnt k).flatMap (fun r => allBanks.flatMap (fun b =>
    let gs := (List.range r.2).map (fun j => r.1 + j)
    (if nbVerify w then (gs.flatMap (rowSources fn)).map (fun ref => planOf b .verify [ref] 64 64 .verifyRow) else [])
    ++ [{ planOf b .row (gs.flatMap (rowRefs fn)) 0 0 (.rowPrims r.1 r.2) with prims := r.2 * rowPrimCount fn }]))

/-- The cut of `nb.burnish`: two stitches for each row. Their columns are those that they find stale (R268). -/
def cutBurnish (prm : List Nat) : List Plan :=
  (List.range (nbRg prm 0).gcnt).flatMap (fun g => [0, 1].flatMap (fun h => allBanks.map (fun b =>
    planOf b .burnish [.group 0 g] 0 0 (.burn h))))

/-- The cut of a system burnish: two stitches for each listed row (R269). -/
def cutSystem (rows : List Nat) : List Plan :=
  rows.flatMap (fun r => [0, 1].map (fun h => planOf (r / 32768) .burnish [.raw (r % 32768)] 0 0 (.burn h)))

/-! ### `nb.attn` (R349, R353 to R357) -/

/-- A token's place: entry of the target, page row and position. -/
structure TokAt where
  e : Nat
  rho : Nat
  pos : Nat
  deriving DecidableEq, Repr

/-- The valid tokens of a sequence that a target holds, in ascending token order (R353 to R356). -/
def attnTokens (q : NbSeq) : List TokAt :=
  let w := seqW q
  let prm := q.prm
  let lo := if atWin prm = 0 then 0 else atLen prm - atWin prm
  let tp := atTp w prm
  let cap := atCap w prm
  (List.range (atLen prm - lo)).filterMap (fun i =>
    let pi := if atWin prm = 0 then lo + i else (lo + i) % cap
    let g := pi / tp
    let sl := pi % tp
    if g % q.nt = q.t then some ⟨g / q.nt, sl % atNr prm, sl / atNr prm⟩ else none)

/-- Address of a page row, from the page number read. -/
def pageRowVa (q : NbSeq) (e rho : Nat) : Nat :=
  pw q.prm 28 + look q.pages e 0 * atPs q.prm + 2048 * rho

/-- Bank of a page row: a page of 16 KiB lies in the quarter of its block that its device address gives (R212, R347). -/
def pageBank (q : NbSeq) (e rho : Nat) : Nat :=
  if atPgsz q.prm = 0 then 8 * look q.quarts e 0 + rho % 8 else rho % 32

/-- Whether the bank of an entry's tokens is known: with pages of 16 KiB the entry must have been read (R355). -/
def entryKnown (q : NbSeq) (e : Nat) : Bool := atPgsz q.prm != 0 || has q.quarts e

/-- The valid tokens up to the first one whose entry is not known yet. -/
def attnKnown (q : NbSeq) : List TokAt := (attnTokens q).takeWhile (fun t => entryKnown q t.e)

/-- The valid tokens from that one on. -/
def attnLeft (q : NbSeq) : List TokAt := (attnTokens q).dropWhile (fun t => entryKnown q t.e)

/-- Tokens of one block of a bank, as far as they are known. -/
def attnBlock (q : NbSeq) (b j : Nat) : List TokAt :=
  (((attnKnown q).filter (fun t => pageBank q t.e t.rho == b)).drop (32 * j)).take 32

/-- Page rows of a block, in visit order. -/
def blockRows (l : List TokAt) : List (Nat × Nat) :=
  l.foldl (fun acc t => if acc.contains (t.e, t.rho) then acc else acc ++ [(t.e, t.rho)]) []

/-- Columns of positions of one page row, for K (`v` false) or V, with scale columns. -/
def attnCols (q : NbSeq) (l : List TokAt) (rho e : Nat) : Nat :=
  let w := seqW q
  let n := (l.filter (fun t => t.e == e && t.rho == rho)).length
  ceilDiv (n * atKb w q.prm) 32 + atScaleCols w q.prm (atT w q.prm)

/-- Stitches of one block of one bank. -/
def attnBlockPlans (q : NbSeq) (b j : Nat) : List Plan :=
  let w := seqW q
  let l := attnBlock q b j
  let rows := blockRows l
  let row2 := match pairing (fmtOr (nbFunc w)) 0 (nbFw w) (nbSw w) with | some p => p.1 | none => 8
  let mk (act : StAct) (r : Nat × Nat) (pr : Nat) : Plan :=
    let c := attnCols q l r.2 r.1
    { planOf b .compute [.page r.1 r.2] c (dotCycles (nbFw w) (nbBatch w) pr c) act with need := 1 }
  rows.map (fun r => mk (.attnK j r.1 r.2) r (nbPair w).1)
    ++ rows.map (fun r => mk (.attnV j r.1 r.2 (rows.getLast? == some r)) r row2)

/-- The stitches of one block of one bank that no entry still to be read can change, and whether they are all of them: a
block is whole with 32 tokens or with every entry known; before that, its key stitches whose page rows take no later
token. -/
def attnSure (q : NbSeq) (b j : Nat) : List Plan × Bool :=
  let l := attnBlock q b j
  let ps := attnBlockPlans q b j
  if l.length = 32 ∨ (attnLeft q).isEmpty then (ps, true)
  else
    let firm := (blockRows l).takeWhile (fun r => !(attnLeft q).any (fun t => t.e == r.1 && t.rho == r.2))
    (ps.take firm.length, false)

/-- The `k`-th stitches of the banks' blocks, up to the first that is not known. -/
def takeRow (k : Nat) : List (List Plan × Bool) → List Plan × Bool
  | [] => ([], true)
  | l :: r => match l.1[k]? with
    | some p => (p :: (takeRow k r).1, (takeRow k r).2)
    | none => if l.2 then takeRow k r else ([], false)

/-- The interleaved stitches of the banks' blocks from the `k`-th on, up to the first that is not known. -/
def takeRows (ls : List (List Plan × Bool)) : Nat → Nat → List Plan × Bool
  | 0, _ => ([], true)
  | m + 1, k =>
    if (takeRow k ls).2 then ((takeRow k ls).1 ++ (takeRows ls m (k + 1)).1, (takeRows ls m (k + 1)).2)
    else takeRow k ls

/-- The stitches of the blocks from the `j`-th on, up to the first that is not known. -/
def takeBlocks (q : NbSeq) : Nat → Nat → List Plan
  | 0, _ => []
  | m + 1, j =>
    let ls := allBanks.map (fun b => attnSure q b j)
    let x := takeRows ls (ls.foldl (fun acc l => max acc l.1.length) 0 + 1) 0
    if x.2 then x.1 ++ takeBlocks q m (j + 1) else x.1

/-- The cut of `nb.attn`, as far as the page-list entries read decide it: blocks in order, the stitches of the banks'
blocks interleaved. -/
def cutAttn (q : NbSeq) : List Plan := takeBlocks q (ceilDiv (attnTokens q).length 32 + 1) 0

/-! ### The cut -/

/-- The stitches of a sequence, in stitch-number order. -/
def nbCut (q : NbSeq) : List Plan :=
  let w := seqW q
  if q.sys then cutSystem q.prm
  else match wOp w with
    | 0xA1 => cutGemv w q.prm
    | 0xA2 => cutGather q
    | 0xA3 => cutGred q
    | 0xA4 => cutAxpy w q.prm
    | 0xA5 => if nbFunc w = 0 then cutStats w q.prm else cutApply w q.prm
    | 0xA6 => cutAttn q
    | 0xA7 => cutAdam w q.prm
    | 0xA8 => cutRowop w q.prm
    | _ => cutBurnish q.prm

/-- Drained units of a sequence (R316). -/
def nbUnits (q : NbSeq) : Nat :=
  let w := seqW q
  if q.sys then 0
  else match wOp w with
    | 0xA1 => gvP q.prm
    | 0xA3 => tbNbag q.prm
    | 0xA5 => if nbFunc w = 0 then nmNvec q.prm else 0
    | 0xA6 => 1
    | _ => 0

/-- Units whose state a lane unit can hold at once: the vectors of STATS use one bank each. -/
def unitSpan (w : Words) : Nat := if wOp w = 0xA5 then 32 else 1

/-- Whether a sequence reads an index list (R291). -/
def seqIdx (q : NbSeq) : Bool := !q.sys && (wOp (seqW q) == 0xA2 || wOp (seqW q) == 0xA3)

/-- Whether a sequence still has index groups to read (R291). -/
def groupsLeft (q : NbSeq) : Bool := seqIdx q && decide (64 * q.groups < tbNidx q.prm)

/-- Whether the next stitch of `nb.attn` depends on a page-list entry still to be read (R355). -/
def cutWaits (q : NbSeq) : Bool :=
  !q.sys && wOp (seqW q) == 0xA6 && !(attnLeft q).isEmpty && decide (q.next ≥ (nbCut q).length)

/-- Broadcasts that a sequence needs, as far as its cut is known (R243). -/
def nbBroadcasts (q : NbSeq) : Nat := (nbCut q).foldl (fun acc p => max acc p.need) 0

end Sys2Proof.Machine
end

