-- ==== Sys2Proof/Machine/PierControl.lean ====
section
/-!
DEFINITION. The pseudo-channel controllers (R214 to R238): request issue under partitions, replay and
retraining, refresh, the reducers, spare banks and retirement.
-/
namespace Sys2Proof.Machine

/-! ### Pages -/

/-- A write to a controller's page, rejected for an absent pseudo-channel (R7, R236). -/
def pccGuarded (s : State) (sp : Fin 8) (pc : Fin 64) (m off : Nat) (eff : State) : State :=
  if pcGone s (pcNo sp pc) then rejectPath s .absent m off 0
  else guarded s (pgPcc sp pc) m off eff

/-- The page of the lane unit that serves a logical bank: its own, or that of the spare in its place
(R242, R280). -/
def bluPage (s : State) (n bank : Nat) : Nat :=
  let pg := pccPage n
  if getF s fPccSpareState pg = 2 ∧ getF s fPccSpareLbank pg = bank
  then pgBluSpare (n / 64) (n % 64 / 4) (getF s fPccSpareSpare pg)
  else pgBlu (n / 64) (n % 64) bank

/-! ### Requests (R224 to R226) -/

/-- Whether a request's row is open. -/
def rowOpen (p : Pcc) (r : PReq) : Bool := has p.openRows r.bank && look p.openRows r.bank 0 == r.row

/-- Whether a controller can serve a request now: it holds it among its 256, no stitch runs on its bank, it is
eligible or express, and its row is open, needs none, or may be opened (R222, R225, R226, R238, R250, R570). -/
def reqCan (s : State) (n : Nat) (r : PReq) : Bool :=
  let p := getPcc s n
  (p.reqs.take 256).contains r && !p.seqs.any (fun q => q.running.any (fun t => t.bank == r.bank))
    && (reqEligible s n r || reqExpress s n r)
    && (rowOpen p r || r.bank == 32 || (p.owed != 8 && !activatesHeld s (n / 64)))

/-- The request that a controller chooses among those of a kind (R225): express reads, then those eligible for 2 µs,
then those whose row is open, then the rest, oldest first in each. -/
def chooseReq (s : State) (n : Nat) (kind : PReq → Bool) : Option PReq :=
  let p := getPcc s n
  let l := p.reqs.filter (fun r => kind r && reqCan s n r)
  l.find? (reqExpress s n) <|> l.find? (fun r => decide (s.tick ≥ 2000 + r.at_)) <|> l.find? (rowOpen p) <|> l.head?

/-- Requests that wait for tokens are counted once (R238). -/
def countDeferred (s : State) (n : Nat) : State :=
  let p := getPcc s n
  let late (r : PReq) : Bool := !reqEligible s n r && !reqExpress s n r && !r.waited
  let s1 := (p.reqs.filter late).foldl (fun acc r => bumpSat acc fPccPartTokDefer (pccPage n) 1 r.part) s
  putPcc s1 n { p with reqs := p.reqs.map (fun r => if late r then { r with waited := true } else r) }

/-- The bucket of a partition with its tokens limited to a depth (R238). -/
def limitTokens (s : State) (n : Nat) (x : Nat × Int) : Nat × Int :=
  (x.1, min x.2 (100 * getF s fPccPartDepth (pccPage n) x.1 : Nat))

/-- Queued requests that become eligible between two states of a controller's buckets count their wait from now (R225). -/
def markEligible (s t : State) (n : Nat) : State :=
  let p := getPcc t n
  putPcc t n { p with reqs := p.reqs.map (fun r => if !reqEligible s n r && reqEligible t n r then { r with at_ := s.tick } else r) }

/-- A commit of a controller's page takes effect: its buckets keep their tokens and are limited to the new depths;
requests become eligible, or have to wait (R225, R238). -/
def pccCommit (s : State) (n : Nat) : State :=
  if getB s fBlkStatusCommitPend (pccPage n) then
    let s1 := commitPage s (pccPage n)
    let p := getPcc s1 n
    let s2 := putPcc s1 n { p with
      tokens := p.tokens.map (limitTokens s1 n)
      expTok := min p.expTok (100 * getF s1 fPccExpressDepth (pccPage n) : Nat) }
    countDeferred (markEligible s s2 n) n
  else s

/-- A request issued: its columns are charged, its row is open, its command stands in the replay buffer, and the requests
that its bucket no longer lets pass are counted (R216, R224, R226, R238). DEDUCED from R225: only a regulated partition
has a bucket that anything waits for, so others are not charged (log entry 92). -/
def issueReq (s : State) (n : Nat) (r : PReq) : State :=
  let p := getPcc s n
  let cost : Int := (100 * r.cols : Nat)
  let express := reqExpress s n r
  let kind := if r.isWrite then ReplayKind.wdata else .rdata
  let s1 := putPcc s n { p with
    reqs := p.reqs.erase r
    expTok := if express && r.charged then p.expTok - cost else p.expTok
    tokens := if !express && r.charged && partOn s n r.part then put p.tokens r.part (look p.tokens r.part 0 - cost)
      else p.tokens
    openRows := if r.bank = 32 then p.openRows else put p.openRows r.bank r.row }
  countDeferred (replayAdd s1 n kind r.cell (if r.bank = 32 then none else some (r.bank, r.row))) n

/-- PIER_REQUEST_ISSUE comes about: the controller may issue, and a request can be chosen (R216, R217, R222, R225). -/
def pierRequestIssueReady (sp : Fin 8) (pc : Fin 64) (s : State) : Bool :=
  canIssue s (pcNo sp pc) && (chooseReq s (pcNo sp pc) (fun _ => true)).isSome

/-- The chosen request is issued; with none left, a pending commit of the page takes effect (R238). -/
def pierRequestIssueEffect (sp : Fin 8) (pc : Fin 64) (s : State) : State :=
  let n := pcNo sp pc
  match chooseReq s n (fun _ => true) with
  | none => s
  | some r =>
    let s1 := issueReq s n r
    if (getPcc s1 n).reqs.isEmpty then pccCommit s1 n else s1

/-- PIER_REQUEST_ISSUE (R225). -/
def execPierRequestIssue (sp : Fin 8) (pc : Fin 64) (s : State) : Host.Outcome State Fault Refusal :=
  .next (clocked s (if pierRequestIssueReady sp pc s then pierRequestIssueEffect sp pc s else s))

/-- A bucket after one microsecond: its refill, up to its depth (R224). -/
def refill (tok : Int) (rate depth : Nat) : Int := min (tok + (100 * rate : Nat)) (100 * depth : Nat)

/-- One microsecond of refill for every bucket of a controller; a request that becomes eligible
starts to count its wait (R224, R225). DESIGN CHOICE: the rule gives a rate and no step; the columns of one microsecond
are added together, once in 1,000 ticks (log entry 93). -/
def partitionTokenRefillEffect (sp : Fin 8) (pc : Fin 64) (s : State) : State :=
  let n := pcNo sp pc
  let pg := pgPcc sp pc
  let p := getPcc s n
  let toks := (List.range 64).map (fun k =>
    (k, refill (look p.tokens k 0) (getF s fPccPartRate pg k) (getF s fPccPartDepth pg k)))
  let s1 := putPcc s n { p with
    refillAt := p.refillAt + 1000, tokens := toks, expTok := refill p.expTok (getF s fPccExpressRate pg) (getF s fPccExpressDepth pg) }
  countDeferred (markEligible s s1 n) n

/-- PARTITION_TOKEN_REFILL comes about once in a microsecond (R224). -/
def partitionTokenRefillReady (sp : Fin 8) (pc : Fin 64) (s : State) : Bool :=
  ctlLive s (pcNo sp pc) && decide (s.tick ≥ (getPcc s (pcNo sp pc)).refillAt)

/-- PARTITION_TOKEN_REFILL (R224). -/
def execPartitionTokenRefill (sp : Fin 8) (pc : Fin 64) (s : State) : Host.Outcome State Fault Refusal :=
  .next (clocked s (if partitionTokenRefillReady sp pc s then partitionTokenRefillEffect sp pc s else s))

/-! ### Replay and retraining (R215 to R217) -/

/-- One failure of a replay entry: it counts, feeds the bucket of its pseudo-channel, and the commands
from it on are replayed (R216). -/
def replayFrom (s : State) (n i : Nat) (f : RField) : State :=
  let p := getPcc s n
  match p.replay[i]? with
  | none => s
  | some c =>
    let re := p.replay.zipIdx.map (fun x =>
      if x.2 = i then { x.1 with fails := x.1.fails + 1, at_ := s.tick }
      else if x.2 > i then { x.1 with at_ := s.tick } else x.1)
    let s1 := putPcc s n { p with replay := re }
    let s2 := bumpSat s1 f (pccPage n)
    bucketEvent s2 (n / 64) 0 (n % 64) (cellBank c.cell) (cellDa s2 c.cell)

/-- Whether entry `i` can fail once more before retraining. -/
def replayable (s : State) (n i : Nat) (kind : Option ReplayKind) : Bool :=
  let p := getPcc s n
  ctlLive s n && !getB s fPccStateRetrain (pccPage n) && !p.replay.any (fun c => decide (c.fails ≥ 5)) &&
  match p.replay[i]? with
  | some c => match kind with | some k => c.kind == k | none => true
  | none => false

/-- ALERT comes about: entry `n` was issued within tALERT; `w` says that a write or broadcast beat
failed rather than a command. -/
def alertReady (sp : Fin 8) (pc : Fin 64) (n : Nat) (w : Bool) (s : State) : Bool :=
  replayable s (pcNo sp pc) n (if w then some .wdata else none) &&
  match (getPcc s (pcNo sp pc)).replay[n]? with
  | some c => decide (s.tick ≤ c.at_ + 10)
  | none => false

/-- The open rows after one more replayed command: an access leaves its row open, a stitch leaves its bank precharged, and
a refresh comes with every bank precharged (R216, R221, R248). -/
def replayRow (open_ : List (Nat × Nat)) (c : ReplayCmd) : List (Nat × Nat) :=
  match c.kind, c.opens with
  | .ca, some r => del open_ r.1
  | .ca, none => []
  | _, some r => put open_ r.1 r.2
  | _, none => open_

/-- The rows that stand open after the commands replayed from entry `n` on; none is opened again while the owed count is 8
(R216, R222). -/
def replayRows (p : Pcc) (n : Nat) : List (Nat × Nat) :=
  if p.owed = 8 then [] else (p.replay.drop n).foldl replayRow []

/-- The die asserts ALERT: every open row is closed, and the commands are replayed from the failed one with their rows
opened again (R216). -/
def alertEffect (sp : Fin 8) (pc : Fin 64) (n : Nat) (w : Bool) (s : State) : State :=
  let k := pcNo sp pc
  let s1 := replayFrom s k n (if w then fPccRetryWdata else fPccRetryCa)
  putPcc s1 k { getPcc s1 k with openRows := replayRows (getPcc s1 k) n }

/-- ALERT (R216). -/
def execAlert (sp : Fin 8) (pc : Fin 64) (n : Nat) (w : Bool) (s : State) : Host.Outcome State Fault Refusal :=
  .next (clocked s (if alertReady sp pc n w s then alertEffect sp pc n w s else s))

/-- A read beat fails its parity and the read is reissued, its row opened again (R216). -/
def readParityErrorEffect (sp : Fin 8) (pc : Fin 64) (n : Nat) (s : State) : State :=
  let k := pcNo sp pc
  let p := getPcc s k
  match p.replay[n]? with
  | none => s
  | some c =>
    let upd := p.replay.zipIdx.map (fun x =>
      if x.2 = n then { x.1 with fails := x.1.fails + 1, at_ := s.tick } else x.1)
    let rows := if p.owed = 8 then p.openRows else replayRow p.openRows c
    let s1 := bumpSat (putPcc s k { p with replay := upd, openRows := rows }) fPccRetryRdata (pgPcc sp pc)
    bucketEvent s1 sp 0 pc (cellBank c.cell) (cellDa s1 c.cell)

/-- READ_PARITY_ERROR (R216). -/
def execReadParityError (sp : Fin 8) (pc : Fin 64) (n : Nat) (s : State) : Host.Outcome State Fault Refusal :=
  .next (clocked s (if replayable s (pcNo sp pc) n (some .rdata) then readParityErrorEffect sp pc n s else s))

/-- PIER_RETRAIN comes about: a command has failed a fifth time (R217). -/
def pierRetrainReady (sp : Fin 8) (pc : Fin 64) (s : State) : Bool :=
  ctlLive s (pcNo sp pc) && !getB s fPccStateRetrain (pgPcc sp pc)
    && (getPcc s (pcNo sp pc)).replay.any (fun c => decide (c.fails ≥ 5))

/-- The pier group retrains (R217). -/
def pierRetrainEffect (sp : Fin 8) (pc : Fin 64) (s : State) : State :=
  let s1 := bumpSat (setB s fPccStateRetrain (pgPcc sp pc) true) fPccRetryEscalations (pgPcc sp pc)
  putPcc s1 (pcNo sp pc) { getPcc s1 (pcNo sp pc) with retrainAt := s.tick }

/-- PIER_RETRAIN (R217). -/
def execPierRetrain (sp : Fin 8) (pc : Fin 64) (s : State) : Host.Outcome State Fault Refusal :=
  .next (clocked s (if pierRetrainReady sp pc s then pierRetrainEffect sp pc s else s))

/-- The lane-unit state of a pseudo-channel lost: what a sequence still drains from it is poison (R236, R241). -/
def loseBlus (s : State) (n : Nat) : State :=
  let gone := (List.range 32).map (fun b => ((n, b), { zeroBlu with poisoned := List.range 640 }))
  { s with memo := { s.memo with blus := s.memo.blus.filter (fun p => p.1.1 ≠ n) ++ gone } }

/-- A pseudo-channel fails: its requests, buffered updates, staged updates and lane-unit state are dropped, and the
failure is logged (R217, R236, R241). The entries of uncommitted items stay until their items are failed (R559). -/
def pcFail (s : State) (n : Nat) : State :=
  let p := getPcc s n
  let s1 := loseBlus (putPcc s n { p with
    failed := true, reqs := [], openRows := [], replay := [], red := [], recovering := false
    staged := p.staged.filter (fun e => !settleable s e) }) n
  elogAdd s1 { elogOf 0x07 with span := n / 64, unit := 0x50, index := n % 64 }

/-- Retraining ends: the command is replayed once more, and passes (`ok`) or fails the pseudo-channel;
owed refreshes are paid first (R217). -/
def pierRetrainDoneEffect (sp : Fin 8) (pc : Fin 64) (ok : Bool) (s : State) : State :=
  let n := pcNo sp pc
  let s1 := setB s fPccStateRetrain (pgPcc sp pc) false
  let p := getPcc s1 n
  if ok then
    putPcc s1 n { p with
      recovering := true
      replay := p.replay.map (fun c => if c.fails ≥ 5 then { c with fails := 0, at_ := s.tick } else c) }
  else pcFail s1 n

/-- PIER_RETRAIN_DONE (R217). -/
def execPierRetrainDone (sp : Fin 8) (pc : Fin 64) (ok : Bool) (s : State) : Host.Outcome State Fault Refusal :=
  .next (clocked s (if getB s fPccStateRetrain (pgPcc sp pc) && ctlLive s (pcNo sp pc)
    then pierRetrainDoneEffect sp pc ok s else s))

/-! ### Refresh (R219 to R223) -/

/-- tREFI of a band in ticks (R219). -/
def bandRefi (band : Nat) : Nat := match band with | 0 => 3900 | 1 => 1950 | _ => 975

/-- An interval boundary of tREFI: the owed count rises, a refresh becomes due at the next stitch boundary once it is
positive, and the stack's band gives the next interval (R220, R222). DEDUCED from the table of R223: one refresh falls
due with each boundary (log entry 48). -/
def refreshIntervalEffect (sp : Fin 8) (pc : Fin 64) (s : State) : State :=
  let n := pcNo sp pc
  let p := getPcc s n
  putPcc s n { p with
    owed := min (p.owed + 1) 8, due := p.due || decide (p.owed ≥ 0), nextRefi := p.nextRefi + bandRefi (getF s fStkBandBand (pgStk sp)) }

/-- REFRESH_INTERVAL (R222). -/
def execRefreshInterval (sp : Fin 8) (pc : Fin 64) (s : State) : Host.Outcome State Fault Refusal :=
  .next (clocked s (if ctlLive s (pcNo sp pc) && decide (s.tick ≥ (getPcc s (pcNo sp pc)).nextRefi)
    then refreshIntervalEffect sp pc s else s))

/-- REFRESH_ISSUE comes about: the replay buffer has room, no stitch runs, and the owed count allows it (R216,
R222). -/
def refreshIssueReady (sp : Fin 8) (pc : Fin 64) (s : State) : Bool :=
  let n := pcNo sp pc
  let p := getPcc s n
  ctlLive s n && decide ((replayLive s p).length < 64) && !p.seqs.any (fun q => !q.running.isEmpty)
    && decide (p.owed > -8) && (decide (p.owed ≥ 1) || p.reqs.isEmpty)

/-- The corrected reads of the lane units collected into their pages and buckets (R275). -/
def collectCorr (s : State) (n : Nat) : State :=
  let p := getPcc s n
  let s1 := p.corr.foldl (fun acc e =>
    let a := bumpSat acc fBluEccCorrected (bluPage acc n e.1) e.2
    (List.range e.2).foldl (fun b _ => bucketEvent b (n / 64) 0 (n % 64) e.1 0) a) s
  putPcc s1 n { getPcc s1 n with corr := [] }

/-- A refresh command: the owed count falls, every row is closed, a new band's timing takes effect,
the lane units' corrected counts are collected, and a commit takes effect (R220, R222, R238, R275). -/
def refreshIssueEffect (sp : Fin 8) (pc : Fin 64) (s : State) : State :=
  let n := pcNo sp pc
  let pg := pgPcc sp pc
  let p := getPcc s n
  let s1 := bumpF (putPcc s n { p with
    owed := p.owed - 1, due := false, openRows := [], bandNew := none
    recovering := p.recovering && decide (p.owed > 1) }) fPccRefCntCount pg
  let s2 := match p.bandNew with | some b => setF s1 fPccStateBand pg b | none => s1
  let s3 := if p.seqs.any (fun q => q.st == .running) then bumpF s2 fPccNbRefreshGapsCount pg else s2
  pccCommit (collectCorr (replayAdd s3 n .ca (rowCell s3 sp pc 0 0) none) n) n

/-- REFRESH_ISSUE (R222). -/
def execRefreshIssue (sp : Fin 8) (pc : Fin 64) (s : State) : Host.Outcome State Fault Refusal :=
  .next (clocked s (if refreshIssueReady sp pc s then refreshIssueEffect sp pc s else s))

/-! ### Reducers (R227 to R233) -/

/-- A reducer operation from its code, 0 to 4 as in R192, and a floating format. -/
def redOpCode (op fmt : Nat) : RedOp :=
  match op with
  | 0 => .fadd fmt | 1 => .fmin fmt | 2 => .fmax fmt | 3 => .iadd32 | _ => .iadd64

/-- The operand of an update from its code. -/
def redOperandVal (op val : Nat) : Num :=
  match op with
  | 3 => numOfInt (sextNat 32 val)
  | 4 => numOfInt (sextNat 64 val)
  | _ => fp32Val val

/-- Whether a stitch runs on the bank of a cell. -/
def stitchOn (s : State) (cell : Nat) : Bool :=
  (getPcc s (cellCtl s cell)).seqs.any (fun q => q.running.any (fun t => t.bank == cellBank cell))

/-- Whether a cell may take an update: an aligned element that exists, of whose rows no stitch has opened one
(R229). -/
def redReady (s : State) (cell op fmt : Nat) : Bool :=
  let w := redBytes (redOpCode op fmt)
  op ≤ 4 && fmt ≤ 2 && cell % min w 4 == 0 && cellSpan cell < 8 && cellSo cell + w ≤ stackCap s
    && !stitchOn s cell && !stitchOn s (redHi (redOpCode op fmt) cell)

/-- REDUCER_UPDATE (R227): an unordered update arrives at the controller that owns its element. -/
def execReducerUpdate (cell op fmt val ctx : Nat) (s : State) : Host.Outcome State Fault Refusal :=
  .next (clocked s (if redReady s cell op fmt
    then redUpdate (redCharge s cell (redHi (redOpCode op fmt) cell) (ctxPart s ctx)) cell (redHi (redOpCode op fmt) cell)
      (redOpCode op fmt) (redOperandVal op val) ctx else s))

/-- ORDERED_UPDATE_ACCEPT (R231): an ordered update is written as a staging entry. -/
def execOrderedUpdateAccept (cell tag op fmt val ctx item : Nat) (s : State) : Host.Outcome State Fault Refusal :=
  .next (clocked s (if redReady s cell op fmt then
      orderedAccept s (stagedEntry (tag % 2 ^ 128) (redOperandVal op val) cell (redHi (redOpCode op fmt) cell)
        (redOpCode op fmt) ctx item)
    else s))

/-- The buffered line numbered `n` written back, when the controller may issue and no stitch runs on its bank (R228,
R250). -/
def lineEvict (s : State) (c n : Nat) : State :=
  match (getPcc s c).red[n]? with
  | some l => if canIssue s c && !stitchOn s (128 * l.line) then redWriteBack s c l.line else s
  | none => s

/-- REDUCER_LINE_EVICT (R228): the buffered line numbered `n` is written back. -/
def execReducerLineEvict (sp : Fin 8) (pc : Fin 64) (n : Nat) (s : State) : Host.Outcome State Fault Refusal :=
  .next (clocked s (lineEvict s (pcNo sp pc) n))

/-- Every staged line of a controller settled (R232). -/
def settleAll (s : State) (n : Nat) : State := (stagedLines (getPcc s n)).foldl settleLine s

/-- SETTLE_ALL (R232, R238). -/
def execSettleAll (sp : Fin 8) (pc : Fin 64) (m : Nat) (s : State) : Host.Outcome State Fault Refusal :=
  .next (clocked s (pccGuarded s sp pc m 0x138 (settleAll s (pcNo sp pc))))

/-- Every dirty line of a reducer buffer written back (R238). -/
def bufWb (s : State) (n : Nat) : State :=
  ((getPcc s n).red.filter (fun l => l.dirty ≠ 0)).foldl (fun acc l => redWriteBack acc n l.line) s

/-- BUF_WB (R238). -/
def execBufWb (sp : Fin 8) (pc : Fin 64) (m : Nat) (s : State) : Host.Outcome State Fault Refusal :=
  .next (clocked s (pccGuarded s sp pc m 0x138 (bufWb s (pcNo sp pc))))

/-! ### Spare banks and retirement (R235, R236, R315) -/

/-- Whether a spare of a die is in use by another pseudo-channel of the die. -/
def spareUsed (s : State) (sp : Fin 8) (pc : Fin 64) (spare : Nat) : Bool :=
  [0, 1, 2, 3].any (fun k =>
    let o := pc / 4 * 4 + k
    let st := getF s fPccSpareState (pgPcc sp o)
    decide (o ≠ pc) && (st == 1 || st == 2) && getF s fPccSpareSpare (pgPcc sp o) == spare)

/-- START written: the copy begins, or the write is rejected (R235, R238). -/
def spareStartEffect (sp : Fin 8) (pc : Fin 64) (lbank : Fin 32) (spare : Fin 4) (m : Nat) (s : State) : State :=
  let pg := pgPcc sp pc
  let st := getF s fPccSpareState pg
  if st = 1 ∨ st = 2 ∨ spareUsed s sp pc spare then reject s pg .busy m 0x120 0
  else if s.pkg.boot.sparesGone.contains (sp.val, pc / 4, spare.val) then reject s pg .absent m 0x120 16
  else
    let s1 := setF (setF (setF s fPccSpareLbank pg lbank) fPccSpareSpare pg spare) fPccSpareState pg 1
    putPcc s1 (pcNo sp pc) { getPcc s1 (pcNo sp pc) with copyAt := s.tick, copyAgain := [] }

/-- SPARE_START (R235). -/
def execSpareStart (sp : Fin 8) (pc : Fin 64) (lbank : Fin 32) (spare : Fin 4) (m : Nat) (s : State) :
    Host.Outcome State Fault Refusal :=
  .next (clocked s (pccGuarded s sp pc m 0x120 (spareStartEffect sp pc lbank spare m s)))

/-- SPARE_SWITCH comes about at a stitch boundary of the bank (R235, R315). -/
def spareSwitchReady (sp : Fin 8) (pc : Fin 64) (s : State) : Bool :=
  let pg := pgPcc sp pc
  ctlLive s (pcNo sp pc) && getF s fPccSpareState pg == 1
    && !(getPcc s (pcNo sp pc)).seqs.any (fun q =>
      q.running.any (fun t => t.bank == getF s fPccSpareLbank pg))

/-- A column of a bank as its copy holds it (R235): a correctable error is corrected, and an uncorrectable column
becomes poison. A stale or poisoned column is copied as it stands. -/
def copyCol (s : State) (n bank : Nat) (e : Nat × List (Nat × Nat)) : State :=
  let cell := 32 * e.1
  if cellCtl s cell ≠ n ∨ cellBank cell ≠ bank ∨ colStale s cell ∨ s.memo.poison.contains e.1 then s
  else match colOutcome e.2 with
    | .corrected i => colSeal s cell (colData (cellRead s.memo.mem cell 32) e.2 (some i)) false
    | .clean => colSeal s cell (colData (cellRead s.memo.mem cell 32) e.2 none) false
    | _ => colSeal s cell [] true

/-- A bank copied to its spare: the columns that hold errors (R235); the others are the same in the copy. -/
def copyBank (s : State) (n bank : Nat) : State := s.memo.errs.foldl (fun acc e => copyCol acc n bank e) s

/-- The copy ends: the spare takes the logical bank's place with the copied rows, those written meanwhile among them
(R235, R315), or the copy has failed. A bank that was isolated is no longer (R539). -/
def spareSwitchEffect (sp : Fin 8) (pc : Fin 64) (ok : Bool) (s : State) : State :=
  let pg := pgPcc sp pc
  let n := pcNo sp pc
  let s1 := putPcc s n { getPcc s n with copyAgain := [] }
  if ok then
    let key := (sp.val, 0x50, pc.val, getF s fPccSpareLbank pg)
    let s2 := copyBank s1 n (getF s fPccSpareLbank pg)
    setF { s2 with er := { s2.er with isolated := s2.er.isolated.filter (· ≠ key) } } fPccSpareState pg 2
  else setF s1 fPccSpareState pg 3

/-- SPARE_SWITCH (R235). -/
def execSpareSwitch (sp : Fin 8) (pc : Fin 64) (ok : Bool) (s : State) : Host.Outcome State Fault Refusal :=
  .next (clocked s (if spareSwitchReady sp pc s then spareSwitchEffect sp pc ok s else s))

end Sys2Proof.Machine
end

