-- ==== Sys2Proof/Machine/Vector.lean ====
section
/-!
DEFINITION. The vector engine (R160 to R166): every VX command on operands in local memory.
-/
namespace Sys2Proof.Machine

/-! ### Operands -/

/-- Whether an operand of a VX command holds a poisoned word (R532). -/
def vxPoisoned (s : State) (key : Nat) (w : Words) : Bool :=
  (vxHasA (wOp w) && matBad s key (vxA w)) || (vxHasB (wOp w) && matBad s key (vxB w))
    || (wOp w == 0x63 && matBad s key (vxD w))

/-- What the reads of the tensor scales of a VX command meet, those of A, B and D in this order: a code, or 0
(R65). -/
def vxTsCode (s : State) (key : Nat) (w : Words) : Nat :=
  firstCode [if vxHasA (wOp w) then matTsCode s key (vxA w) else 0,
    if vxHasB (wOp w) then matTsCode s key (vxB w) else 0, matTsCode s key (vxD w)]

/-- The operands that a VX command reads (R160, R162). -/
def vxReads (w : Words) : List Mat :=
  (if vxHasA (wOp w) then [vxA w] else []) ++ (if vxHasB (wOp w) then [vxB w] else [])
    ++ (if wOp w == 0x63 then [vxD w] else [])

/-- The stored rows of an operand as plain values (R61, R62). -/
def matPlainAll (s : State) (key : Nat) (m : Mat) : List (List Num) := (List.range m.rows).map (matPlain s key m)

/-- Row `r` of an operand of which one stored row stands for every row (R160). -/
def vxRowOf (rows : List (List Num)) (r : Nat) : List Num :=
  match rows with
  | [x] => x
  | _ => rows.getD r []

/-- Row `r` of B: its own row, or one element for the whole row under B_ROW (R160, R162). -/
def vxBrowOf (w : Words) (rows : List (List Num)) (r : Nat) : List Num :=
  if vxBrow w then List.replicate (vxCols w) ((rows.getD 0 []).getD r numZero) else vxRowOf rows r

/-- Core cycles in which the engine produces elements, from its rate (R162, R166, R174). -/
def vxBusy (e v : Nat) : Nat := (e + v - 1) / v

/-! ### The shared course of a VX command -/

/-- Results of a command written to D, with all its events (R62, R75, R161). -/
def vxFinish (s : State) (key : Nat) (c : QCmd) (rows : List (List OpRes)) (busy : Nat) : State :=
  let w := cmdWords c
  let o := matPutAll s key (vxD w) rows
  let s1 := bumpF o.1 fLmxVxBusyCount (pgLmx (keySpan key) (keyCore key)) busy
  cmdDone s1 key 2 (cmdAddEv c (evAdd (badScales s key (vxReads w)) o.2))

/-- The oldest issued VX command with an opcode runs: a bad tensor scale halts the queue with FMT_SCALE before another
operand is read (R65), and poison with LM_POISON (R535). DESIGN CHOICE: of two tensor scales that both stop it, the one
of A comes first, then B, then D (log entry 52). -/
def vxRun (sp : Fin 8) (co : Fin 16) (sl : Fin 4) (op : Nat) (s : State)
    (f : Nat → QCmd → Words → State) : State :=
  let key := slotKey sp co sl
  match headOp s key 2 op with
  | none => s
  | some c =>
    let w := cmdWords c
    if vxTsCode s key w ≠ 0 then haltQueue s key 2 (vxTsCode s key w) c.launch c.pc (vxA w).base
    else if vxPoisoned s key w then haltQueue s key 2 eLmPoison c.launch c.pc (vxA w).base
    else f key c w

/-- A command of one element of A to one of D. -/
def vxMap1 (sp : Fin 8) (co : Fin 16) (sl : Fin 4) (op rate : Nat) (s : State) (g : Words → Num → Num) : State :=
  vxRun sp co sl op s (fun key c w =>
    let a := matPlainAll s key (vxA w)
    let rows := (List.range (vxRows w)).map (fun r => (vxRowOf a r).map (fun x => ([plainOp (vxA w).scm x], g w x)))
    vxFinish s key c rows (vxBusy (vxRows w * vxCols w) rate))

/-- The operands of a result from an element of A and one of B (R75). -/
def vxOps (w : Words) (p : Num × Num) : List Num := [plainOp (vxA w).scm p.1, plainOp (vxB w).scm p.2]

/-- A command of two elements to one, `more` further operand values. -/
def vxMap2 (sp : Fin 8) (co : Fin 16) (sl : Fin 4) (op : Nat) (s : State) (more : Words → List Num)
    (g : Words → Num → Num → Num) : State :=
  vxRun sp co sl op s (fun key c w =>
    let a := matPlainAll s key (vxA w)
    let b := matPlainAll s key (vxB w)
    let rows := (List.range (vxRows w)).map (fun r =>
      ((vxRowOf a r).zip (vxBrowOf w b r)).map (fun p => (vxOps w p ++ more w, g w p.1 p.2)))
    vxFinish s key c rows (vxBusy (vxRows w * vxCols w) 64))

/-! ### Elementwise commands (R162) -/

/-- `vx.add`: A + B (R162). -/
def vxAddEffect (sp : Fin 8) (co : Fin 16) (sl : Fin 4) (s : State) : State :=
  vxMap2 sp co sl 0x60 s (fun _ => []) (fun _ a b => numAdd a b)

/-- VX_ADD (R162). -/
def execVxAdd (sp : Fin 8) (co : Fin 16) (sl : Fin 4) (s : State) : Host.Outcome State Fault Refusal :=
  .next (clocked s (vxAddEffect sp co sl s))

/-- `vx.sub`: A − B (R162). -/
def vxSubEffect (sp : Fin 8) (co : Fin 16) (sl : Fin 4) (s : State) : State :=
  vxMap2 sp co sl 0x61 s (fun _ => []) (fun _ a b => numSub a b)

/-- VX_SUB (R162). -/
def execVxSub (sp : Fin 8) (co : Fin 16) (sl : Fin 4) (s : State) : Host.Outcome State Fault Refusal :=
  .next (clocked s (vxSubEffect sp co sl s))

/-- `vx.mul`: A × B (R162). -/
def vxMulEffect (sp : Fin 8) (co : Fin 16) (sl : Fin 4) (s : State) : State :=
  vxMap2 sp co sl 0x62 s (fun _ => []) (fun _ a b => numMul a b)

/-- VX_MUL (R162). -/
def execVxMul (sp : Fin 8) (co : Fin 16) (sl : Fin 4) (s : State) : Host.Outcome State Fault Refusal :=
  .next (clocked s (vxMulEffect sp co sl s))

/-- `vx.min` by R80. -/
def vxMinEffect (sp : Fin 8) (co : Fin 16) (sl : Fin 4) (s : State) : State :=
  vxMap2 sp co sl 0x65 s (fun _ => []) (fun _ a b => numMin a b)

/-- VX_MIN (R162). -/
def execVxMin (sp : Fin 8) (co : Fin 16) (sl : Fin 4) (s : State) : Host.Outcome State Fault Refusal :=
  .next (clocked s (vxMinEffect sp co sl s))

/-- `vx.max` by R80. -/
def vxMaxEffect (sp : Fin 8) (co : Fin 16) (sl : Fin 4) (s : State) : State :=
  vxMap2 sp co sl 0x66 s (fun _ => []) (fun _ a b => numMax a b)

/-- VX_MAX (R162). -/
def execVxMax (sp : Fin 8) (co : Fin 16) (sl : Fin 4) (s : State) : Host.Outcome State Fault Refusal :=
  .next (clocked s (vxMaxEffect sp co sl s))

/-- `vx.axpy`: IMM × A + B, rounded once (R162). -/
def vxAxpyEffect (sp : Fin 8) (co : Fin 16) (sl : Fin 4) (s : State) : State :=
  vxMap2 sp co sl 0x64 s (fun w => [fp32Val (vxImm w)])
    (fun w a b => numAdd (numMul (fp32Val (vxImm w)) a) b)

/-- VX_AXPY (R162). -/
def execVxAxpy (sp : Fin 8) (co : Fin 16) (sl : Fin 4) (s : State) : Host.Outcome State Fault Refusal :=
  .next (clocked s (vxAxpyEffect sp co sl s))

/-- `vx.fma`: A × B + D, where D is read before it is written (R162). -/
def vxFmaEffect (sp : Fin 8) (co : Fin 16) (sl : Fin 4) (s : State) : State :=
  vxRun sp co sl 0x63 s (fun key c w =>
    let a := matPlainAll s key (vxA w)
    let b := matPlainAll s key (vxB w)
    let d := matPlainAll s key (vxD w)
    let rows := (List.range (vxRows w)).map (fun r =>
      (((vxRowOf a r).zip (vxBrowOf w b r)).zip (d.getD r [])).map
        (fun p => (vxOps w p.1 ++ [plainOp (vxD w).scm p.2], numAdd (numMul p.1.1 p.1.2) p.2)))
    vxFinish s key c rows (vxBusy (vxRows w * vxCols w) 64))

/-- VX_FMA (R162). -/
def execVxFma (sp : Fin 8) (co : Fin 16) (sl : Fin 4) (s : State) : Host.Outcome State Fault Refusal :=
  .next (clocked s (vxFmaEffect sp co sl s))

/-- `vx.cvt`: A converted to the format and scale mode of D (R161, R162). -/
def vxCvtEffect (sp : Fin 8) (co : Fin 16) (sl : Fin 4) (s : State) : State :=
  vxMap1 sp co sl 0x67 64 s (fun _ a => a)

/-- VX_CVT (R162). -/
def execVxCvt (sp : Fin 8) (co : Fin 16) (sl : Fin 4) (s : State) : Host.Outcome State Fault Refusal :=
  .next (clocked s (vxCvtEffect sp co sl s))

/-- The value of IMM for `vx.fill`: an INT32 for an unscaled integer target, else FP32 (R160). -/
def vxFillVal (w : Words) : Num :=
  if fmtIsInt (vxD w).fmt && (vxD w).scm == 0 then numOfInt (sextNat 32 (vxImm w)) else fp32Val (vxImm w)

/-- `vx.fill`: IMM converted to the format of D (R162). -/
def vxFillEffect (sp : Fin 8) (co : Fin 16) (sl : Fin 4) (s : State) : State :=
  vxRun sp co sl 0x68 s (fun key c w =>
    let rows := List.replicate (vxRows w) (List.replicate (vxCols w) ([vxFillVal w], vxFillVal w))
    vxFinish s key c rows (vxBusy (vxRows w * vxCols w) 64))

/-- VX_FILL (R162). -/
def execVxFill (sp : Fin 8) (co : Fin 16) (sl : Fin 4) (s : State) : Host.Outcome State Fault Refusal :=
  .next (clocked s (vxFillEffect sp co sl s))

/-- `vx.exp2`, correctly rounded to FP32 and converted (R162). -/
def vxExp2Effect (sp : Fin 8) (co : Fin 16) (sl : Fin 4) (s : State) : State :=
  vxMap1 sp co sl 0x69 16 s (fun _ a => vxExp2 a)

/-- VX_EXP2 (R162). -/
def execVxExp2 (sp : Fin 8) (co : Fin 16) (sl : Fin 4) (s : State) : Host.Outcome State Fault Refusal :=
  .next (clocked s (vxExp2Effect sp co sl s))

/-- `vx.log2`, correctly rounded to FP32 and converted (R162). -/
def vxLog2Effect (sp : Fin 8) (co : Fin 16) (sl : Fin 4) (s : State) : State :=
  vxMap1 sp co sl 0x6A 16 s (fun _ a => vxLog2 a)

/-- VX_LOG2 (R162). -/
def execVxLog2 (sp : Fin 8) (co : Fin 16) (sl : Fin 4) (s : State) : Host.Outcome State Fault Refusal :=
  .next (clocked s (vxLog2Effect sp co sl s))

/-- `vx.rcp`, correctly rounded to FP32 and converted (R162). -/
def vxRcpEffect (sp : Fin 8) (co : Fin 16) (sl : Fin 4) (s : State) : State :=
  vxMap1 sp co sl 0x6B 16 s (fun _ a => vxRcp a)

/-- VX_RCP (R162). -/
def execVxRcp (sp : Fin 8) (co : Fin 16) (sl : Fin 4) (s : State) : Host.Outcome State Fault Refusal :=
  .next (clocked s (vxRcpEffect sp co sl s))

/-- `vx.sqrt`, correctly rounded to FP32 and converted (R162). -/
def vxSqrtEffect (sp : Fin 8) (co : Fin 16) (sl : Fin 4) (s : State) : State :=
  vxMap1 sp co sl 0x6C 16 s (fun _ a => vxSqrt a)

/-- VX_SQRT (R162). -/
def execVxSqrt (sp : Fin 8) (co : Fin 16) (sl : Fin 4) (s : State) : Host.Outcome State Fault Refusal :=
  .next (clocked s (vxSqrtEffect sp co sl s))

/-- `vx.rsqrt`, correctly rounded to FP32 and converted (R162). -/
def vxRsqrtEffect (sp : Fin 8) (co : Fin 16) (sl : Fin 4) (s : State) : State :=
  vxMap1 sp co sl 0x6D 16 s (fun _ a => vxRsqrt a)

/-- VX_RSQRT (R162). -/
def execVxRsqrt (sp : Fin 8) (co : Fin 16) (sl : Fin 4) (s : State) : Host.Outcome State Fault Refusal :=
  .next (clocked s (vxRsqrtEffect sp co sl s))

/-! ### Activations (R164) -/

/-- L of R164: log2 e rounded to FP32. -/
def actL : Num := fp32Val 0x3FB8AA3B
/-- G of R164: 0.044715 rounded to FP32. -/
def actG : Num := fp32Val 0x3D372713
/-- The square root of 2/pi rounded to FP32 (R164). -/
def actRoot : Num := fp32Val 0x3F4C422A

/-- exp of R164. -/
def actExp (y : Num) : Num := vxExp2 (roundFp32 (numMul y actL))

/-- Sigmoid of R164. -/
def actSigmoid (x : Num) : Num := vxRcp (roundFp32 (numAdd numOne (actExp (numNegate x))))

/-- Tanh of R164. -/
def actTanh (x : Num) : Num :=
  let two := numOfInt 2
  let t := actSigmoid (roundFp32 (numMul two x))
  roundFp32 (numSub (numMul two t) numOne)

/-- GELU of R164. -/
def actGelu (x : Num) : Num :=
  let u := roundFp32 (numMul x x)
  let g := roundFp32 (numAdd numOne (roundFp32 (numMul actG u)))
  let v := roundFp32 (numMul x g)
  let t := actTanh (roundFp32 (numMul actRoot v))
  let h := roundFp32 (numMul (.fin false 1 (-1)) x)
  roundFp32 (numMul h (roundFp32 (numAdd numOne t)))

/-- ReLU of R164: NaN stays NaN, and −0 gives +0. -/
def actRelu (x : Num) : Num :=
  match x with
  | .nan => .nan
  | .inf n => if n then numZero else .inf false
  | .fin n m e => if n || m == 0 then numZero else roundFp32 (.fin false m e)

/-- `vx.act` function FUNC (R164). -/
def actFn (fn : Nat) (x : Num) : Num :=
  match fn with
  | 0 => actRelu x
  | 1 => actSigmoid x
  | 2 => actTanh x
  | 3 => roundFp32 (numMul x (actSigmoid x))
  | _ => actGelu x

/-- `vx.act`: activation FUNC of A (R164). -/
def vxActEffect (sp : Fin 8) (co : Fin 16) (sl : Fin 4) (s : State) : State :=
  vxRun sp co sl 0x6E s (fun key c w =>
    let a := matPlainAll s key (vxA w)
    let rows := (List.range (vxRows w)).map (fun r => (vxRowOf a r).map (fun x => ([plainOp (vxA w).scm x], actFn (vxFunc w) x)))
    vxFinish s key c rows (vxBusy (vxRows w * vxCols w) (if vxFunc w = 0 then 64 else 8)))

/-- VX_ACT (R164). -/
def execVxAct (sp : Fin 8) (co : Fin 16) (sl : Fin 4) (s : State) : Host.Outcome State Fault Refusal :=
  .next (clocked s (vxActEffect sp co sl s))

/-! ### Reductions (R163) -/

/-- Elements taken into the 64 lanes in turn (R163). -/
def lanesFill (step : Num → Num → Num) (lanes : List Num) (xs : List Num) : List Num :=
  xs.zipIdx.foldl (fun acc p => acc.set (p.2 % 64) (step (acc.getD (p.2 % 64) numZero) p.1)) lanes

/-- Lanes combined in halves: 64, 32, … 1 (R163). -/
def lanesFold (op : Num → Num → Num) : Nat → List Num → List Num
  | 0, l => l
  | k + 1, l =>
    let h := l.length / 2
    lanesFold op k (((l.take h).zip (l.drop h)).map (fun p => op p.1 p.2))

/-- One row reduced from an identity (R163). -/
def rowReduce (ident : Num) (step op : Num → Num → Num) (xs : List Num) : Num :=
  (lanesFold op 6 (lanesFill step (List.replicate 64 ident) xs)).getD 0 ident

/-- A sum with one rounding to FP32. -/
def addR (a b : Num) : Num := roundFp32 (numAdd a b)

/-- A reduction written as one row of ROWS elements (R160, R163). -/
def vxReduceRun (sp : Fin 8) (co : Fin 16) (sl : Fin 4) (op : Nat) (s : State) (g : Words → List Num → Num) :
    State :=
  vxRun sp co sl op s (fun key c w =>
    let a := matPlainAll s key (vxA w)
    let row := (List.range (vxRows w)).map (fun r =>
      ((vxRowOf a r).map (plainOp (vxA w).scm), g w (vxRowOf a r)))
    vxFinish s key c [row] (vxBusy (vxRows w * vxCols w) 64))

/-- `vx.rsum`: per-row sum, or sum of squares under FUNC 1 (R163). -/
def vxRsumEffect (sp : Fin 8) (co : Fin 16) (sl : Fin 4) (s : State) : State :=
  vxReduceRun sp co sl 0x6F s (fun w xs =>
    rowReduce (.fin true 0 0)
      (fun l x => if vxFunc w = 1 then roundFp32 (numAdd l (numMul x x)) else addR l x) addR xs)

/-- VX_RSUM (R163). -/
def execVxRsum (sp : Fin 8) (co : Fin 16) (sl : Fin 4) (s : State) : Host.Outcome State Fault Refusal :=
  .next (clocked s (vxRsumEffect sp co sl s))

/-- `vx.rmax`: per-row maximum (R163). -/
def vxRmaxEffect (sp : Fin 8) (co : Fin 16) (sl : Fin 4) (s : State) : State :=
  vxReduceRun sp co sl 0x70 s (fun _ xs =>
    rowReduce (.inf true) (fun l x => roundFp32 (numMax l x)) (fun a b => roundFp32 (numMax a b)) xs)

/-- VX_RMAX (R163). -/
def execVxRmax (sp : Fin 8) (co : Fin 16) (sl : Fin 4) (s : State) : Host.Outcome State Fault Refusal :=
  .next (clocked s (vxRmaxEffect sp co sl s))

/-! ### Transposition, rotation and integer addition (R162) -/

/-- `vx.tr`: D[c][r] is A[r][c], as element codes (R162). -/
def vxTrEffect (sp : Fin 8) (co : Fin 16) (sl : Fin 4) (s : State) : State :=
  vxRun sp co sl 0x71 s (fun key c w =>
    let a := (List.range (vxRows w)).map (fun r => matCodes s key (vxA w) (if (vxA w).rows = 1 then 0 else r))
    let s1 := (List.range (vxCols w)).foldl (fun acc k =>
      matPutCodes acc key (vxD w) k (a.map (fun row => row.getD k 0))) s
    let busy := vxBusy (vxRows w * vxCols w * (fmtWidth (vxD w).fmt / 8)) 64
    cmdDone (bumpF s1 fLmxVxBusyCount (pgLmx sp co) busy) key 2 c)

/-- VX_TR (R162). -/
def execVxTr (sp : Fin 8) (co : Fin 16) (sl : Fin 4) (s : State) : Host.Outcome State Fault Refusal :=
  .next (clocked s (vxTrEffect sp co sl s))

/-- One row of pairs rotated by the (cos, sin) pairs of B, each result with its operands (R162). -/
def rotRow (w : Words) : List Num → List Num → List OpRes
  | x0 :: x1 :: xs, cs :: sn :: bs =>
    let ops := vxOps w (x0, cs) ++ vxOps w (x1, sn)
    (ops, numSub (numMul x0 cs) (numMul x1 sn)) :: (ops, numAdd (numMul x0 sn) (numMul x1 cs)) :: rotRow w xs bs
  | _, _ => []

/-- `vx.rot`: pairs of A rotated by pairs of B, each result rounded once (R162). -/
def vxRotEffect (sp : Fin 8) (co : Fin 16) (sl : Fin 4) (s : State) : State :=
  vxRun sp co sl 0x72 s (fun key c w =>
    let a := matPlainAll s key (vxA w)
    let b := matPlainAll s key (vxB w)
    let rows := (List.range (vxRows w)).map (fun r => rotRow w (vxRowOf a r) (vxBrowOf w b r))
    vxFinish s key c rows (vxBusy (vxRows w * vxCols w) 64))

/-- VX_ROT (R162). -/
def execVxRot (sp : Fin 8) (co : Fin 16) (sl : Fin 4) (s : State) : Host.Outcome State Fault Refusal :=
  .next (clocked s (vxRotEffect sp co sl s))

/-- Integers of a row of an operand of `vx.iadd`, `n` bytes each. -/
def iaddRow (s : State) (key : Nat) (m : Mat) (n cols r : Nat) : List Nat :=
  (List.range cols).map (fun k => leNat (lmRead s key (matRow m (if m.rows = 1 then 0 else r) + k * n) n))

/-- Integer of B for row `r`: its own row, or one element for the row under B_ROW. -/
def iaddB (s : State) (key : Nat) (w : Words) (n r : Nat) : List Nat :=
  if vxBrow w then List.replicate (vxCols w) (leNat (lmRead s key ((vxB w).base + r * n) n))
  else iaddRow s key (vxB w) n (vxCols w) r

/-- `vx.iadd`: A + B as INT32 or INT64, wrapping (R162). -/
def vxIaddEffect (sp : Fin 8) (co : Fin 16) (sl : Fin 4) (s : State) : State :=
  vxRun sp co sl 0x79 s (fun key c w =>
    let n := if vxFunc w = 1 then 8 else 4
    let rows := (List.range (vxRows w)).map (fun r =>
      ((iaddRow s key (vxA w) n (vxCols w) r).zip (iaddB s key w n r)).flatMap
        (fun p => leBytes n ((p.1 + p.2) % 2 ^ (8 * n))))
    let s1 := rows.zipIdx.foldl (fun acc p => lmWrite acc key (matRow (vxD w) p.2) p.1) s
    let busy := vxBusy (vxRows w * vxCols w) (256 / n)
    cmdDone (bumpF s1 fLmxVxBusyCount (pgLmx sp co) busy) key 2 c)

/-- VX_IADD (R162). -/
def execVxIadd (sp : Fin 8) (co : Fin 16) (sl : Fin 4) (s : State) : Host.Outcome State Fault Refusal :=
  .next (clocked s (vxIaddEffect sp co sl s))

end Sys2Proof.Machine
end

