-- ==== Sys2Proof/Machine/NbUnits.lean ====
section
/-!
DEFINITION. The bank lane units (R239 to R247, R260 to R268): their state, column reads and writes,
what each kind of stitch computes (R295 to R311), and the drains and merges of their results (R246,
R287, R307).
-/
namespace Sys2Proof.Machine

/-! ### Lane-unit state -/

/-- The state of a bank's lane unit. -/
def getBlu (s : State) (n bank : Nat) : Blu := look s.memo.blus (n, bank) zeroBlu

/-- A lane unit's state replaced. -/
def putBlu (s : State) (n bank : Nat) (b : Blu) : State :=
  { s with memo := { s.memo with blus := put s.memo.blus (n, bank) b } }

/-- Every lane unit of a pseudo-channel zeroed (R241). -/
def zeroBlus (s : State) (n : Nat) : State :=
  { s with memo := { s.memo with blus := s.memo.blus.filter (fun p => p.1.1 ≠ n) } }

/-- Accumulator `k`. -/
def acGet (b : Blu) (k : Nat) : Nat := look b.acs k 0
/-- Accumulator `k` written. -/
def acPut (b : Blu) (k v : Nat) : Blu := { b with acs := put b.acs k v }
/-- Staging byte `a`. -/
def stByte (b : Blu) (a : Nat) : Nat := (cellGet b.staging a).toNat
/-- Staging bytes written. -/
def stPut (b : Blu) (a : Nat) (data : List Byte) : Blu := { b with staging := cellWrite b.staging a data }
/-- FP32 word of staging. -/
def stWord (b : Blu) (a : Nat) : Nat := leNat (cellRead b.staging a 4)
/-- FP32 word of the operand registers, 128 of them. -/
def orWord (b : Blu) (k : Nat) : Nat := bits (look b.ors (k / 8) 0) (k % 8 * 32) 32
/-- FP32 word of the operand registers written. -/
def orPut (b : Blu) (k v : Nat) : Blu :=
  { b with ors := put b.ors (k / 8) (setBits (look b.ors (k / 8) 0) (k % 8 * 32) 32 v) }
/-- Byte `a` of the operand registers. -/
def orByte (b : Blu) (a : Nat) : Nat := bits (look b.ors (a / 32) 0) (a % 32 * 8) 8
/-- Byte `a` of the accumulators. -/
def acByte (b : Blu) (a : Nat) : Nat := bits (acGet b (a / 4)) (a % 4 * 8) 8

/-! ### Columns (R266, R267, R275) -/

/-- A column read by a lane unit: raw when stale, else through the decoder, with corrected reads
collected later (R266, R275). -/
def bluCol (s : State) (n bank row col : Nat) : List Byte × Bool × State :=
  let cell := rowCell s (n / 64) (n % 64) bank row + 32 * col
  if colStale s cell then (colRaw s cell, false, s)
  else if pcGone s n || bankIsolated s cell || s.memo.poison.contains (cell / 32) then colRead s cell
  else
    let errs := look s.memo.errs (cell / 32) []
    match colOutcome errs with
    | .corrected i =>
      let p := getPcc s n
      (colData (cellRead s.memo.mem cell 32) errs (some i), false,
        putPcc s n { p with corr := put p.corr bank (look p.corr bank 0 + 1) })
    | _ => colRead s cell

/-- `cnt` columns from `c0`: their bytes, the poisoned columns among them, and the state. -/
def bluCols (s : State) (n bank row c0 : Nat) : Nat → List Byte × List Nat × State
  | 0 => ([], [], s)
  | k + 1 =>
    let r := bluCols s n bank row c0 k
    let c := bluCol r.2.2 n bank row (c0 + k)
    (r.1 ++ c.1, if c.2.1 then r.2.1 ++ [c0 + k] else r.2.1, c.2.2)

/-- The 32 bytes of one column written sealed where the mask has a bit (R267). -/
def bluPut (s : State) (n bank row col : Nat) (data : List Byte) (mask : Nat) : State :=
  let cell := rowCell s (n / 64) (n % 64) bank row + 32 * col
  flipApply (colMerge s (cell / 32) data mask) cell .blu

/-- Bytes written in a row from byte `off` on, column by column. -/
def bluBytes (n bank row : Nat) : Nat → State → Nat → List Byte → State
  | 0, s, _, _ => s
  | k + 1, s, off, data =>
    if data.isEmpty then s
    else
      let w := 32 - off % 32
      let d := data.take w
      let s1 := bluPut s n bank row (off / 32) (List.replicate (off % 32) 0 ++ d) ((2 ^ d.length - 1) * 2 ^ (off % 32))
      bluBytes n bank row k s1 (off + w) (data.drop w)

/-- Column and bit range of elements of a row: first column and columns. -/
def elemCols (f : Fmt) (pos cnt : Nat) : Nat × Nat :=
  let c0 := pos * fmtWidth f / 256
  (c0, (( pos + cnt) * fmtWidth f + 255) / 256 - c0)

/-- Element codes of a row from a position, with the first poisoned column's position, if any. -/
def rowCodes (s : State) (n bank row : Nat) (f : Fmt) (pos cnt : Nat) : List Nat × List Nat × State :=
  let c := elemCols f pos cnt
  let r := bluCols s n bank row c.1 c.2
  let rd (a : Nat) : Nat := (r.1.getD (a - 32 * c.1) 0).toNat
  ((List.range cnt).map (fun i => elemCode f rd 0 (pos + i)), r.2.1, r.2.2)

/-- What a stitch's work answers: the state, format events, whether poison was consumed, the results that NaN or
infinite operands reach (R75), what an attention block keeps of its value rows, and how many of the planned column
operations poison has suppressed (R277). -/
structure SRes where
  s : State
  ev : NumEv
  pois : Bool
  taint : List ((Nat × Nat) × Nat)
  kept : List ((Nat × Nat × Nat) × List Byte)
  skip : Nat
  deriving DecidableEq, Repr

/-- An answer that reaches no result. -/
def sRes (s : State) (ev : NumEv) (pois : Bool) : SRes := ⟨s, ev, pois, [], [], 0⟩

/-- An answer without events. -/
def sOk (s : State) : SRes := sRes s evNone false

/-- What operands bring to the results that they reach: bit 0 a NaN, bit 1 an infinity (R75). -/
def opTaint (l : List Num) : Nat := (if l.any numIsNan then 1 else 0) + (if l.any numIsInf then 2 else 0)

/-- A place reached by operands. -/
def taintAt (bank k : Nat) (l : List Num) : List ((Nat × Nat) × Nat) :=
  if opTaint l = 0 then [] else [((bank, k), opTaint l)]

/-- Places reached, added to a sequence's. -/
def taintAdd (t : List ((Nat × Nat) × Nat)) (more : List ((Nat × Nat) × Nat)) : List ((Nat × Nat) × Nat) :=
  more.foldl (fun acc x => put acc x.1 (look acc x.1 0 ||| x.2)) t

/-- What reaches a place of a sequence. -/
def taintOf (q : NbSeq) (bank k : Nat) : Nat := look q.taint (bank, k) 0

/-- The result bits of a written value (R75). -/
def evTaint (t : Nat) (v : Num) : NumEv :=
  { evNone with nanOut := numIsNan v && !bitAt t 0, infOut := numIsInf v && t == 0 }

/-- Accumulators marked poisoned (R277). -/
def acMark (b : Blu) (ks : List Nat) : Blu := { b with poisoned := ks.foldl setIns b.poisoned }

/-! ### Broadcasts (R243, R286, R295) -/

/-- Byte `a` of a sequence's local operands. -/
def opByte (q : NbSeq) (a : Nat) : Byte := q.ops.getD a 0

/-- Bytes of a sequence's local operands from `a`. -/
def opBytes (q : NbSeq) (a k : Nat) : List Byte := (List.range k).map (fun i => opByte q (a + i))

/-- Whether a poisoned local word lies in `k` bytes from `a`. -/
def opBad (q : NbSeq) (a k : Nat) : Bool := q.opsBad.any (fun x => decide (x < a + k) && decide (a < x + 8))

/-- Halves of the vectors of `nb.gemv` (R295). -/
def gvHalves (q : NbSeq) : Nat := ceilDiv (gvK q.prm) (gvH (seqW q) q.prm)

/-- Elements of a vector that half `g` holds. -/
def gvPart (q : NbSeq) (g : Nat) : Nat := min (gvH (seqW q) q.prm) (gvK q.prm - g * gvH (seqW q) q.prm)

/-- First block of a vector that half `g` meets, and how many it meets: a half may start inside a block. -/
def gvBlocks (q : NbSeq) (g : Nat) : Nat × Nat :=
  let sv := nbSv (seqW q)
  let e0 := g * gvH (seqW q) q.prm
  if sv = 0 then (0, 0) else (e0 / scmBlock sv, ceilDiv (e0 + gvPart q g) (scmBlock sv) - e0 / scmBlock sv)

/-- Whether half `g` does not fit staging, so that its stitches take the local operands themselves (R244: no outcome
depends on it). -/
def gvDirect (q : NbSeq) (g : Nat) : Bool :=
  let w := seqW q
  gvHalfSegs w q.prm == 0 || decide (nbBatch w * (packedBytes (nbFv w) (gvPart q g) + (gvBlocks q g).2) > 2048)

/-- The content of broadcast `h` as pieces of the local operands (offset, length), with the staging
half it goes to. -/
def castPieces (q : NbSeq) (h : Nat) : List (Nat × Nat) × Nat :=
  let w := seqW q
  match wOp w with
  | 0xA1 =>
    let g := h % gvHalves q
    let blk := vecScales w (gvK q.prm)
    let bl := gvBlocks q g
    ((List.range (nbBatch w)).flatMap (fun b =>
      [(b * nbVpitch w + packedBytes (nbFv w) (g * gvH w q.prm), packedBytes (nbFv w) (gvPart q g)),
        (nbPlane w + b * blk + bl.1, bl.2)]), h % 2)
  | 0xA6 =>
    let d := atD q.prm
    let blk := vecScales w d
    ((List.range (nbBatch w)).flatMap (fun b =>
      [(b * nbVpitch w, packedBytes (nbFv w) d), (nbPlane w + b * blk, blk)]), 0)
  | 0xA3 => ([(nbVpitch w + 256 * h, min 256 (4 * tbNidx q.prm - 256 * h))], 0)
  | _ => ([(0, 4 * nmNvec q.prm), (nbVpitch w, 4 * nmNvec q.prm)], 0)

/-- The tensor scale that the first broadcast reads beside its half (R65, R286). -/
def castScale (q : NbSeq) (h : Nat) : List (Nat × Nat) :=
  let w := seqW q
  if (wOp w == 0xA1 || wOp w == 0xA6) && nbSv w == 2 && h == 0 then [(nbVts w q.prm, 4)] else []

/-- Invalid scales among the blocks whose first element a broadcast brings, once in a command (R62, R88); target 0
counts for operands that all targets share (R286). DEDUCED: they count on the span of that target, whose bank lane units
R87 reports there (log entry 75). -/
def castInvalid (q : NbSeq) (h : Nat) : Nat :=
  let w := seqW q
  if (wOp w != 0xA1 && wOp w != 0xA6) || nbSv w == 0 || (nbVecTstr w == 0 && q.t != 0) || decide (h < q.counted) then 0
  else
    let n := nbOpElems w q.prm
    let blk := vecScales w n
    let lo := if wOp w = 0xA1 then ceilDiv (h * gvH w q.prm) (scmBlock (nbSv w)) else 0
    let hi := if wOp w = 0xA1 then ceilDiv (h * gvH w q.prm + gvPart q h) (scmBlock (nbSv w)) else blk
    if wOp w = 0xA1 ∧ h ≥ gvHalves q then 0
    else ((List.range (nbBatch w)).map (fun b =>
      ((List.range (hi - lo)).filter (fun k => opByte q (nbPlane w + b * blk + lo + k) == 0xFF)).length)).sum

/-- Element `i` of row `b` of vectors in a staging half, whose rows hold `n` elements and `blocks` scales; the first
element lies `off` elements into its block. -/
def castVal (w : Words) (u : Blu) (base n blocks off b i : Nat) : Num :=
  let f := nbFv w
  let row := base + b * (packedBytes f n + blocks)
  let code := elemCode f (stByte u) row i
  decodedVal f (nbSv w) code
    (if nbSv w = 0 then 0 else stByte u (row + packedBytes f n + (off + i) / scmBlock (nbSv w)))

/-- Element `i` of vector `b` of `nb.gemv` in the local operands themselves. -/
def opVal (q : NbSeq) (b i : Nat) : Num :=
  let w := seqW q
  let f := nbFv w
  let code := elemCode f (fun a => (opByte q a).toNat) (b * nbVpitch w) i
  let blk := nbPlane w + b * vecScales w (gvK q.prm) + i / scmBlock (nbSv w)
  decodedVal f (nbSv w) code (if nbSv w = 0 then 0 else (opByte q blk).toNat)

/-- Value of the local operands' tensor scale. -/
def opTs (q : NbSeq) : Num :=
  let w := seqW q
  if nbSv w = 2 then fp32Val (leNat (opBytes q (nbVts w q.prm) 4)) else numOne

/-- Value of TSW. -/
def tswVal (q : NbSeq) : Num := if nbSw (seqW q) = 2 then fp32Val (nbTsw q.prm) else numOne

/-! ### `nb.gemv` (R295, R296) -/

/-- Scale bytes of data rows into OR8 to OR15, the first byte at byte 0 of OR8. DESIGN CHOICE: scales that start inside a
column are put so too (log entry 58). -/
def actGemvScale (s : State) (n : Nat) (q : NbSeq) (bank row gi : Nat) : SRes :=
  let w := seqW q
  let off := scaleRowOff (nbFw w) (nbSw w) gi
  let len := gvQ w * rowScales (nbFw w) (nbSw w)
  let r := bluCols s n bank row (off / 32) (ceilDiv (off % 32 + len) 32)
  let data := (r.1.drop (off % 32)).take len
  let u := getBlu r.2.2 n bank
  let put1 (acc : Blu) (k : Nat) : Blu :=
    { acc with ors := put acc.ors (8 + k) (leNat ((data.drop (32 * k)).take 32)) }
  sRes (putBlu r.2.2 n bank ((List.range 8).foldl put1 u)) evNone (!r.2.1.isEmpty)

/-- One accumulator of a data stitch: a chunked sum continued from its value (R70, R73). -/
def dotStep (p : Nat × Join × Nat) (ws xs : List Num) (acc : Nat) : Nat × NumEv :=
  if p.2.1 == .integer then
    let r := cdoIntGo p.2.2 ws.length ((ws.map numInt).zip (xs.map numInt) |>.map (fun z => z.1 * z.2))
      (sextNat 32 acc) 0
    (intCode 32 r.1, { evNone with intSat := r.2 })
  else (fp32Code (cdoGo p.2.2 ws.length ((ws.zip xs).map (fun z => numMul z.1 z.2)) (fp32Val acc)), evNone)

/-- Element `z` of vector `v` that a data stitch multiplies, counted from element `k0`. -/
def gvVal (q : NbSeq) (u : Blu) (p i v k0 z : Nat) : Num :=
  let w := seqW q
  let hh := gvH w q.prm
  let g := k0 / hh
  if gvDirect q g then opVal q v (k0 + z)
  else
    let base := 2048 * ((gvNeed w q.prm p i - 1) % 2)
    let off := if nbSv w = 0 then 0 else g * hh % scmBlock (nbSv w)
    castVal w u base (gvPart q g) (gvBlocks q g).2 off v (k0 % hh + z)

/-- A data stitch reads its whole row: each slot's segment is multiplied by every vector (R295); values beyond K and
slots beyond N are read and ignored (R294). Poisoned columns mark the accumulators of the slots whose values lie in them
(R277). -/
def actGemvData (s : State) (n : Nat) (q : NbSeq) (bank row p i : Nat) : SRes :=
  let w := seqW q
  let f := nbFw w
  let len := gvL w q.prm
  let k0 := i * len
  let cnt := min len (gvK q.prm - k0)
  let bt := nbBatch w
  let gi := p * gvD w q.prm + i
  let r := bluCols s n bank row 0 (rowUnits f * unitCols f)
  let u := getBlu r.2.2 n bank
  let rd (a : Nat) : Nat := (r.1.getD a 0).toNat
  let scale (pos : Nat) : Nat := orByte u (gi % gvQ w * rowScales f (nbSw w) + pos / scmBlock (nbSw w) + 256)
  let xs (v : Nat) : List Num := (List.range cnt).map (gvVal q u p i v k0)
  let vecs := (List.range bt).map xs
  let step (acc : Blu × NumEv × List ((Nat × Nat) × Nat)) (sl : Nat) : Blu × NumEv × List ((Nat × Nat) × Nat) :=
    if p * 32 * gvR q.prm + bank * gvR q.prm + sl ≥ gvN q.prm then acc
    else
      let ws := (List.range cnt).map (fun z =>
        decodedVal f (nbSw w) (elemCode f rd 0 (sl * len + z)) (if nbSw w = 0 then 0 else scale (sl * len + z)))
      let bad := if nbSw w = 0 then 0 else
        ((List.range (ceilDiv cnt (scmBlock (nbSw w)))).filter (fun z =>
          scale (sl * len + z * scmBlock (nbSw w)) == 0xFF)).length
      let one (b : Blu × NumEv × List ((Nat × Nat) × Nat)) (x : List Num × Nat) :
          Blu × NumEv × List ((Nat × Nat) × Nat) :=
        let k := sl * bt + x.2
        let d := dotStep (nbPair w) ws x.1 (acGet b.1 k)
        (acPut b.1 k d.1, evAdd b.2.1 d.2, b.2.2 ++ taintAt bank k (ws ++ x.1))
      let b := vecs.zipIdx.foldl one (acc.1, evAdd acc.2.1 { evNone with scaleInvalid := bad }, acc.2.2)
      let c := elemCols f (sl * len) cnt
      (if r.2.1.any (fun x => decide (c.1 ≤ x) && decide (x < c.1 + c.2)) then
        acMark b.1 ((List.range bt).map (fun v => sl * bt + v)) else b.1, b.2)
  let g := (List.range (gvR q.prm)).foldl step (u, evNone, [])
  ⟨putBlu r.2.2 n bank g.1, g.2.1, !r.2.1.isEmpty, g.2.2, [], 0⟩

/-! ### Tables (R301, R302) -/

/-- Columns read to staging. -/
def actGatherRead (s : State) (n bank row col cnt at_ : Nat) : SRes :=
  let r := bluCols s n bank row col cnt
  sRes (putBlu r.2.2 n bank (stPut (getBlu r.2.2 n bank) (32 * at_) r.1)) evNone (!r.2.1.isEmpty)

/-- Columns written from staging, or zeros. -/
def actGatherWrite (s : State) (n bank row col cnt at_ : Nat) (zero : Bool) : SRes :=
  let data := if zero then List.replicate (32 * cnt) 0 else cellRead (getBlu s n bank).staging (32 * at_) (32 * cnt)
  sOk (bluBytes n bank row (cnt + 1) s (32 * col) data)

/-- Places of a bank's share of a bag that a stitch of `cnt` columns holds, the first at column `at_` of the share. -/
def gredPlaces (w : Words) (cnt at_ : Nat) : List Nat := (List.range (cnt * tbEpc w)).map (fun k => at_ * tbEpc w + k)

/-- Columns of a table row added into the bag's sums in H1 (R302); the places of poisoned columns are marked (R277). -/
def actGredAdd (s : State) (n : Nat) (q : NbSeq) (bank row p : Nat) (first : Bool) (col cnt at_ : Nat) : SRes :=
  let w := seqW q
  let epc := tbEpc w
  let r := rowCodes s n bank row (nbFw w) (col * epc) (cnt * epc)
  let u := getBlu r.2.2 n bank
  let u0 := if first then
      stPut u 2048 ((List.range 512).flatMap (fun _ => leBytes 4 0x80000000)) else u
  let wt := fp32Val (stWord u (p % 64 * 4))
  let wts := if tbWeighted q.prm then [wt] else []
  let step (acc : Blu × List ((Nat × Nat) × Nat)) (z : Nat × Nat) : Blu × List ((Nat × Nat) × Nat) :=
    let k := at_ * epc + z.2
    let old := fp32Val (stWord acc.1 (2048 + 4 * k))
    let x := elemVal (nbFw w) false z.1
    let v := roundFp32 (if tbWeighted q.prm then numAdd (numMul wt x) old else numAdd old x)
    (stPut acc.1 (2048 + 4 * k) (leBytes 4 (fp32Code v)), acc.2 ++ taintAt bank k (x :: wts))
  let g := r.1.zipIdx.foldl step (u0, [])
  let bad := (gredPlaces w cnt at_).filter (fun k => r.2.1.contains (col + k / epc - at_))
  ⟨putBlu r.2.2 n bank (acMark g.1 bad), evNone, !r.2.1.isEmpty, g.2, [], 0⟩

/-! ### `nb.axpy` and `nb.norm` (R303, R304) -/

/-- Codes laid in staging from an element place. -/
def stCodes (u : Blu) (f : Fmt) (base i0 : Nat) (codes : List Nat) : Blu :=
  codes.zipIdx.foldl (fun acc p =>
    (elemStores f (stByte acc) base (i0 + p.2) p.1).foldl (fun a st => stPut a st.1 [BitVec.ofNat 8 st.2]) acc) u

/-- The first elements of a data row of x into H0, or their scale bytes into H1. -/
def actAxpyRead (s : State) (n : Nat) (q : NbSeq) (bank row cnt gi : Nat) (scales : Bool) : SRes :=
  let w := seqW q
  let f := nbFw w
  if scales then
    let off := scaleRowOff f (nbSw w) gi
    let r := bluCols s n bank row (off / 32) (scaleCols f (nbSw w) gi cnt)
    let data := (r.1.drop (off % 32)).take (ceilDiv cnt (scmBlock (nbSw w)))
    sRes (putBlu r.2.2 n bank (stPut (getBlu r.2.2 n bank) 2048 data)) evNone (!r.2.1.isEmpty)
  else
    let r := rowCodes s n bank row f 0 cnt
    sRes (putBlu r.2.2 n bank (stCodes (getBlu r.2.2 n bank) f 0 0 r.1)) evNone (!r.2.1.isEmpty)

/-- Elements written in a row until the first poisoned one: how many come before it (R317). -/
def cleanPrefix (f : Fmt) (pos cnt : Nat) (bad : List Nat) : Nat :=
  match bad with
  | [] => cnt
  | c :: _ => min cnt (256 * c / fmtWidth f - pos)

/-- Bytes of element codes whose run starts at a byte boundary. -/
def codeBytes (f : Fmt) (codes : List Nat) : List Byte :=
  codes.flatMap (fun c => leBytes (fmtWidth f / 8) c)

/-- Elements of y updated: y := α x + β y, one rounding and conversion (R303). -/
def actAxpyUpdate (s : State) (n : Nat) (q : NbSeq) (bank row e0 cnt off : Nat) : SRes :=
  let w := seqW q
  let fx := nbFw w
  let fy := nbFo w
  let al := fp32Val (bits (pw q.prm 25) 0 32)
  let be := fp32Val (bits (pw q.prm 25) 32 32)
  let pos := e0 % rowElems fy
  let r := rowCodes s n bank row fy pos cnt
  let u := getBlu r.2.2 n bank
  let x (i : Nat) : Num :=
    let c := elemCode fx (stByte u) 0 (off + i)
    let sc := if nbSw w = 0 then 0 else stByte u (2048 + (off + i) / scmBlock (nbSw w))
    (plainVals (nbSw w) (tswVal q) [decodedVal fx (nbSw w) c sc]).getD 0 numZero
  let bad := if nbSw w = 0 then 0 else
    ((List.range cnt).filter (fun i => (off + i) % scmBlock (nbSw w) == 0
      && stByte u (2048 + (off + i) / scmBlock (nbSw w)) == 0xFF)).length
  let one (z : Nat × Nat) : Nat × NumEv :=
    let y := elemVal fy false z.1
    let c := convert fy false (numAdd (numMul al (x z.2)) (numMul be y))
    (c.1, evAdd c.2 (evResult [al, be, y, plainOp (nbSw w) (x z.2)] [elemVal fy false c.1]))
  let outs := r.1.zipIdx.map one
  let k := cleanPrefix fy pos cnt r.2.1
  let data := codeBytes fy ((outs.take k).map (·.1))
  { sRes (bluBytes n bank row 66 r.2.2 (pos * (fmtWidth fy / 8)) data)
      ((outs.take k).foldl (fun acc o => evAdd acc o.2) { evNone with scaleInvalid := bad }) (!r.2.1.isEmpty) with
    skip := (elemCols fy pos cnt).2 - (if k = 0 then 0 else (elemCols fy pos k).2) }

/-- A row of a vector added into the 16 lanes of its sums (R304); the lanes of poisoned columns are marked (R277). -/
def actNormStats (s : State) (n : Nat) (q : NbSeq) (bank row r : Nat) : SRes :=
  let f := nbFw (seqW q)
  let cnt := min (rowElems f) (nmLv q.prm - r * rowElems f)
  let c := rowCodes s n bank row f 0 cnt
  let u := getBlu c.2.2 n bank
  let u0 := if r = 0 then (List.range 32).foldl (fun acc k => acPut acc k 0x80000000) { u with poisoned := [] } else u
  let step (acc : Blu) (z : Nat × Nat) : Blu :=
    let k := (r * rowElems f + z.2) % 16
    let x := elemVal f false z.1
    let va := roundFp32 (numAdd (fp32Val (acGet acc k)) x)
    let vb := roundFp32 (numAdd (fp32Val (acGet acc (16 + k))) (numMul x x))
    acPut (acPut acc k (fp32Code va)) (16 + k) (fp32Code vb)
  let bad := (List.range cnt).filter (fun i => c.2.1.contains (i * fmtWidth f / 256))
  let marks := bad.flatMap (fun i => [(r * rowElems f + i) % 16, 16 + (r * rowElems f + i) % 16])
  ⟨putBlu c.2.2 n bank (acMark (c.1.zipIdx.foldl step u0) marks), evNone, !c.2.1.isEmpty,
    taintAt bank 0 (c.1.map (elemVal f false)), [], 0⟩

/-- Elements of a vector, or of the gain, into H1 (R304). -/
def actNormRead (s : State) (n : Nat) (q : NbSeq) (bank row e0 cnt : Nat) (gain : Bool) : SRes :=
  let f := if gain then Fmt.fp32 else nbFw (seqW q)
  let r := rowCodes s n bank row f (e0 % rowElems f) cnt
  sRes (putBlu r.2.2 n bank (stCodes (getBlu r.2.2 n bank) f (if gain then 3072 else 2048) 0 r.1)) evNone (!r.2.1.isEmpty)

/-- The results of APPLY written (R304). -/
def actNormWrite (s : State) (n : Nat) (q : NbSeq) (bank row i e0 cnt : Nat) : SRes :=
  let w := seqW q
  let fy := nbFo w
  let u := getBlu s n bank
  let a := fp32Val (stWord u (4 * i))
  let c := fp32Val (stWord u (4 * nmNvec q.prm + 4 * i))
  let one (k : Nat) : Nat × NumEv :=
    let x := elemVal (nbFw w) false (elemCode (nbFw w) (stByte u) 2048 k)
    let g := fp32Val (stWord u (3072 + 4 * k))
    let y := numMul (roundFp32 (numAdd (numMul x a) c)) g
    let o := convert fy false y
    (o.1, evAdd o.2 (evResult [x, a, c, g] [elemVal fy false o.1]))
  let outs := (List.range cnt).map one
  sRes (bluBytes n bank row 66 s (e0 % rowElems fy * (fmtWidth fy / 8)) (codeBytes fy (outs.map (·.1))))
    (outs.foldl (fun acc o => evAdd acc o.2) evNone) false

/-! ### `nb.attn` (R306) -/

/-- Values of the key or value vector at a position of a page row's bytes (R348). -/
def kvVec (q : NbSeq) (data : List Byte) (v : Bool) (pos : Nat) : List Num :=
  let w := seqW q
  let d := atD q.prm
  let t := atT w q.prm
  let kb := atKb w q.prm
  let rd (a : Nat) : Nat := (data.getD a 0).toNat
  let sc0 := ceilDiv (2 * t * kb) 32 * 32 + (if v then 32 * atScaleCols w q.prm t else 0)
  (List.range d).map (fun i =>
    decodedVal (nbFw w) (nbSw w) (elemCode (nbFw w) rd ((if v then t * kb else 0) + pos * kb) i)
      (if nbSw w = 0 then 0 else rd (sc0 + pos * (d / 32) + i / 32)))

/-- Columns that a K or V stitch reads: those of its tokens' keys or values and their scales. -/
def kvCols (q : NbSeq) (l : List TokAt) (v : Bool) : List Nat :=
  let w := seqW q
  let t := atT w q.prm
  let kb := atKb w q.prm
  let sc0 := ceilDiv (2 * t * kb) 32 + (if v then atScaleCols w q.prm t else 0)
  let own := (List.range 64).filter (fun c => l.any (fun x =>
    let a := (if v then t * kb else 0) + x.pos * kb
    decide (a < 32 * c + 32) && decide (32 * c < a + kb)))
  own ++ (if nbSw w = 0 then [] else (List.range (atScaleCols w q.prm t)).map (fun k => sc0 + k))

/-- Columns of a row read, the others as zeros, and the poisoned ones among them. -/
def kvRow (s : State) (n bank row : Nat) (cols : List Nat) : List Byte × List Nat × State :=
  cols.foldl (fun acc c =>
    let r := bluCol acc.2.2 n bank row c
    (acc.1.take (32 * c) ++ r.1 ++ acc.1.drop (32 * c + 32), if r.2.1 then acc.2.1 ++ [c] else acc.2.1, r.2.2))
    (List.replicate 2048 0, [], s)

/-- First byte of the scales of K (`v` false) or of V in a page row (R348). -/
def kvScale0 (q : NbSeq) (v : Bool) : Nat :=
  let w := seqW q
  ceilDiv (2 * atT w q.prm * atKb w q.prm) 32 * 32 + (if v then 32 * atScaleCols w q.prm (atT w q.prm) else 0)

/-- Invalid scales of tokens' keys or values (R62). -/
def kvInvalid (q : NbSeq) (data : List Byte) (v : Bool) (l : List TokAt) : Nat :=
  if nbSw (seqW q) = 0 then 0
  else (l.map (fun t => ((List.range (atD q.prm / 32)).filter (fun i =>
    (data.getD (kvScale0 q v + t.pos * (atD q.prm / 32) + i) 0).toNat == 0xFF)).length)).sum

/-- Every result place of a head of an attention record: its maximum, sum and weighted value. -/
def headPlaces (q : NbSeq) (h : Nat) : List Nat :=
  [2 * h, 2 * h + 1] ++ (List.range (atD q.prm)).map (64 + h * atD q.prm + ·)

/-- Every result place of an attention record. -/
def attnPlaces (q : NbSeq) : List Nat := (List.range (nbBatch (seqW q))).flatMap (headPlaces q)

/-- Scores of the block's tokens in one page row into the operand registers (R306). Poison reaches every result. -/
def actAttnK (s : State) (n : Nat) (q : NbSeq) (bank row j e rho : Nat) : SRes :=
  let w := seqW q
  let blk := attnBlock q bank j
  let mine := blk.filter (fun t => t.e == e && t.rho == rho)
  let r := kvRow s n bank row (kvCols q mine false)
  let u := getBlu r.2.2 n bank
  let d := atD q.prm
  let p := nbPair w
  let qs := (List.range (nbBatch w)).map (fun h => (List.range d).map (castVal w u 0 d (vecScales w d) 0 h))
  let score (acc : Blu × List ((Nat × Nat) × Nat)) (z : TokAt × Nat) : Blu × List ((Nat × Nat) × Nat) :=
    if z.1.e = e ∧ z.1.rho = rho then
      let k := kvVec q r.1 false z.1.pos
      qs.zipIdx.foldl (fun a x =>
        let v := if nbSv w = 2 then cdoNs16 x.1 k numZero (opTs q) numOne p.2.2 else cdo x.1 k numZero p.2.2
        (orPut a.1 (32 * x.2 + z.2) (fp32Code v), a.2 ++ taintAt bank (2 * x.2 + 1) (x.1 ++ k))) acc
    else acc
  let g := blk.zipIdx.foldl score (u, [])
  ⟨putBlu r.2.2 n bank (if r.2.1.isEmpty then g.1 else acMark g.1 (attnPlaces q)),
    { evNone with scaleInvalid := kvInvalid q r.1 false mine }, !r.2.1.isEmpty, g.2, [], 0⟩

/-- One head's block: the running maximum, sum and weighted value (R306). `ss` holds the scores of the
block's tokens and `vs` their value vectors. -/
def attnHead (q : NbSeq) (u : Blu) (j h : Nat) (ss : List Num) (vs : List (List Num)) : Blu × NumEv :=
  let w := seqW q
  let d := atD q.prm
  let pf := fmtOr (nbFunc w)
  let npv := match pairing pf 0 (nbFw w) (nbSw w) with | some p => p.2.2 | none => 1
  let m := if j = 0 then Num.inf true else fp32Val (acGet u (2 * h))
  let l := if j = 0 then numZero else fp32Val (acGet u (2 * h + 1))
  let o (i : Nat) : Num := if j = 0 then numZero else fp32Val (stWord u (2048 + 4 * (h * d + i)))
  let mn := ss.foldl numMax m
  if mn = .inf true then
    ((List.range d).foldl (fun acc i => stPut acc (2048 + 4 * (h * d + i)) (leBytes 4 (fp32Code (o i))))
      (acPut (acPut u (2 * h) (fp32Code m)) (2 * h + 1) (fp32Code l)), evNone)
  else
    let r := if m = .inf true then numZero else bluExp2 (roundFp32 (numSub m mn))
    let ps := ss.map (fun x => bluExp2 (roundFp32 (numSub x mn)))
    let l1 := ps.foldl addR (roundFp32 (numMul l r))
    let cv := convertAll pf false ps
    let pv := cv.1.map (elemVal pf false)
    let col (i : Nat) : Num := cdo pv (vs.map (fun v => v.getD i numZero)) (roundFp32 (numMul (o i) r)) npv
    let u1 := acPut (acPut u (2 * h) (fp32Code mn)) (2 * h + 1) (fp32Code l1)
    (((List.range d).map col).zipIdx.foldl (fun acc z => stPut acc (2048 + 4 * (h * d + z.2)) (leBytes 4 (fp32Code z.1))) u1,
      cv.2)

/-- Elements of the value vectors of tokens that poisoned columns of their page row reach, by value or scale (R277). -/
def valuesBad (q : NbSeq) (l : List TokAt) (bad : List Nat) : List Nat :=
  let w := seqW q
  let d := atD q.prm
  let kb := atKb w q.prm
  (List.range d).filter (fun i => l.any (fun t =>
    bad.contains (((atT w q.prm * kb + t.pos * kb) * 8 + i * fmtWidth (nbFw w)) / 256)
      || nbSw w != 0 && bad.contains ((kvScale0 q true + t.pos * (d / 32) + i / 32) / 32)))

/-- Value columns of one page row; the last stitch of a block completes the block's arithmetic with what its earlier
stitches read (R259, R306, R357). Poison reaches the elements that its columns hold. -/
def actAttnV (s : State) (n : Nat) (q : NbSeq) (bank row j e rho : Nat) (last : Bool) : SRes :=
  let w := seqW q
  let blk := attnBlock q bank j
  let mine := blk.filter (fun t => t.e == e && t.rho == rho)
  let r := kvRow s n bank row (kvCols q mine true)
  let u := getBlu r.2.2 n bank
  let d := atD q.prm
  let ev0 := { evNone with scaleInvalid := kvInvalid q r.1 true mine }
  let heads := List.range (nbBatch w)
  let own := mine.map (fun t => kvVec q r.1 true t.pos)
  let tnt := heads.flatMap (fun h => (List.range d).flatMap (fun i =>
    taintAt bank (64 + h * d + i) (own.map (fun v => v.getD i numZero))))
  let marks := heads.flatMap (fun h => (valuesBad q mine r.2.1).map (fun i => 64 + h * d + i))
  if last then
    let vs := blk.map (fun t => kvVec q (if t.e = e ∧ t.rho = rho then r.1 else look q.kept (bank, t.e, t.rho) []) true t.pos)
    let g := heads.foldl (fun acc h =>
      let ss := (List.range blk.length).map (fun k => fp32Val (orWord acc.1 (32 * h + k)))
      let x := attnHead q acc.1 j h ss vs
      (x.1, evAdd acc.2 x.2)) (u, ev0)
    ⟨putBlu r.2.2 n bank (acMark g.1 marks), g.2, !r.2.1.isEmpty, tnt, [], 0⟩
  else ⟨putBlu r.2.2 n bank (acMark u marks), ev0, !r.2.1.isEmpty, tnt, [((bank, e, rho), r.1)], 0⟩

/-! ### `nb.adam` (R310) -/

/-- Elements of a region into its quarter of staging. -/
def actAdamRead0 (s : State) (n bank row k e0 cnt : Nat) : SRes :=
  let r := rowCodes s n bank row .fp32 (e0 % 512) cnt
  sRes (putBlu r.2.2 n bank (stCodes (getBlu r.2.2 n bank) .fp32 (1024 * k) 0 r.1)) evNone (!r.2.1.isEmpty)

/-- Three steps of the square root of `nb.adam`. -/
def adamSqrt (vh : Num) : Nat → Num → Num
  | 0, x => x
  | k + 1, x => adamSqrt vh k (roundFp32 (numScale (roundFp32 (numAdd x (roundFp32 (numMul vh (bluRcp x))))) (-1)))

/-- The denominator of `nb.adam` for a second-moment estimate (R310). -/
def adamDen (vh eps : Num) : Num :=
  if numIsZero vh then bluRcp eps
  else
    let s0 := match vh with
      | .fin sg m e =>
        let x := dyLog m e
        let ev := if x % 2 = 0 then x else x - 1
        let f := Num.fin sg m (e - ev)
        let third := roundFp32 (numDiv numOne (numOfInt 3))
        let two := roundFp32 (numDiv (numOfInt 2) (numOfInt 3))
        numScale (roundFp32 (numAdd (numMul third f) two)) (ev / 2)
      | y => y
    let nan := numNeg vh || numIsNan vh
    if nan then .nan
    else if numIsInf vh then fp32Val (Config.adamInfDen (fp32Code eps)).toNat
    else bluRcp (roundFp32 (numAdd (adamSqrt vh 3 s0) eps))

/-- The FP32 immediate in the low half of a parameter word. -/
def immLo (prm : List Nat) (k : Nat) : Num := fp32Val (bits (pw prm k) 0 32)

/-- The FP32 immediate in the high half of a parameter word. -/
def immHi (prm : List Nat) (k : Nat) : Num := fp32Val (bits (pw prm k) 32 32)

/-- The immediates of `nb.adam` (R309). -/
def adamImms (prm : List Nat) : List Num := [25, 26, 27, 28, 29].flatMap (fun k => [immLo prm k, immHi prm k])

/-- One element of `nb.adam`: the new weight and moments (R310). -/
def adamElem (prm : List Nat) (wv m v g : Num) : Num × Num × Num :=
  let lo := immLo prm
  let hi := immHi prm
  let gg := roundFp32 (numMul g (hi 29))
  let m1 := roundFp32 (numAdd (numMul (lo 26) m) (numMul (hi 26) gg))
  let v1 := roundFp32 (numAdd (numMul (lo 27) v) (numMul (hi 27) (roundFp32 (numMul gg gg))))
  let mh := roundFp32 (numMul m1 (lo 28))
  let vh := roundFp32 (numMul v1 (hi 28))
  let d := adamDen vh (lo 29)
  let u := roundFp32 (numAdd (roundFp32 (numMul mh d)) (numMul (hi 25) wv))
  (roundFp32 (numSub wv (numMul (lo 25) u)), m1, v1)

/-- FP32 word `i` of a quarter of staging. -/
def qWord (u : Blu) (k i : Nat) : Num := fp32Val (stWord u (1024 * k + 4 * i))

/-- The group computed once its gradients stand in staging: w, m and v are replaced, the BF16 copy goes
to the operand registers, the E4M3 copy to the accumulators and its scales to sequence control. -/
def adamCompute (q : NbSeq) (u : Blu) (e0 cnt : Nat) : Blu × NumEv :=
  let fn := nbFunc (seqW q)
  let step (acc : Blu × NumEv) (i : Nat) : Blu × NumEv :=
    let a := qWord u 0 i
    let b := qWord u 1 i
    let c := qWord u 2 i
    let g := qWord u 3 i
    let r := adamElem q.prm a b c g
    let put1 (x : Blu) (k : Nat) (v : Num) : Blu := stPut x (1024 * k + 4 * i) (leBytes 4 (fp32Code v))
    (put1 (put1 (put1 acc.1 0 r.1) 1 r.2.1) 2 r.2.2,
      evAdd acc.2 (evResult (a :: b :: c :: g :: adamImms q.prm) [r.1, r.2.1, r.2.2]))
  let st := (List.range cnt).foldl step (u, evNone)
  let ws := (List.range cnt).map (fun i =>
    (qWord u 0 i :: qWord u 1 i :: qWord u 2 i :: qWord u 3 i :: adamImms q.prm, qWord st.1 0 i))
  let st1 := if bitAt fn 0 then
      let c := writeRes .bf16 0 numOne ws
      let val := leNat (c.2.1.flatMap (leBytes 2))
      ((List.range 16).foldl (fun x k => { x with ors := put x.ors k (bits val (256 * k) 256) }) st.1, evAdd st.2 c.2.2)
    else st
  if bitAt fn 1 then
    let c := writeRes .e4m3 1 numOne ws
    let val := leNat (c.2.1.map (BitVec.ofNat 8))
    let b0 := e0 / 32 % 32
    let u1 := (List.range 64).foldl (fun x k => acPut x k (bits val (32 * k) 32)) st1.1
    let ctl := c.1.zipIdx.foldl (fun x z => setBits x (8 * (b0 + z.2)) 8 z.1) u1.ctl
    ({ u1 with ctl := ctl }, evAdd st1.2 c.2.2)
  else st1

/-- A read stitch of `nb.adam`; the gradients complete a group. -/
def actAdamRead (s : State) (n : Nat) (q : NbSeq) (bank row k e0 cnt : Nat) : SRes :=
  let r := actAdamRead0 s n bank row k e0 cnt
  if k = 3 && !r.pois then
    let c := adamCompute q (getBlu r.s n bank) e0 cnt
    sRes (putBlu r.s n bank c.1) c.2 false
  else r

/-- A region written back from its quarter of staging. -/
def actAdamWrite (s : State) (n bank row k e0 cnt : Nat) : SRes :=
  sOk (bluBytes n bank row 66 s (e0 % 512 * 4) (cellRead (getBlu s n bank).staging (1024 * k) (4 * cnt)))

/-- The BF16 copy written. -/
def actAdamBf16 (s : State) (n bank row e0 cnt : Nat) : SRes :=
  let u := getBlu s n bank
  sOk (bluBytes n bank row 66 s (e0 % 1024 * 2) ((List.range (2 * cnt)).map (fun a => BitVec.ofNat 8 (orByte u a))))

/-- The E4M3 copy written. -/
def actAdamFp8 (s : State) (n bank row e0 cnt : Nat) : SRes :=
  let u := getBlu s n bank
  sOk (bluBytes n bank row 66 s (e0 % 2048) ((List.range cnt).map (fun a => BitVec.ofNat 8 (acByte u a))))

/-- Scale bytes of complete blocks merged into their column: the column is read through the decoder and written whole
(R248, R310); poison suppresses the write (R277). -/
def actAdamScale (s : State) (n bank row b0 cnt : Nat) : SRes :=
  let off := b0 / 64 % runRows .e4m3 1 * 64 + b0 % 64
  let r := bluCols s n bank row (off / 32) 1
  let data := (List.range cnt).map (fun k => BitVec.ofNat 8 (bits (getBlu s n bank).ctl (8 * k) 8))
  if r.2.1.isEmpty then
    sOk (bluPut r.2.2 n bank row (off / 32) (r.1.take (off % 32) ++ data ++ r.1.drop (off % 32 + cnt)) (2 ^ 32 - 1))
  else { sRes r.2.2 evNone true with skip := 1 }

/-! ### Row primitives (R260 to R265) -/

/-- The raw data of a row. -/
def rowRaw (s : State) (n bank row : Nat) : List Byte :=
  (List.range 64).flatMap (fun c => colRaw s (rowCell s (n / 64) (n % 64) bank row + 32 * c))

/-- Raw data put in a row: every column is stale (R264, R265). DESIGN CHOICE: R265 burnishes the oldest row and does not
say what a second write does to a row's age; it becomes the youngest (log entry 94). -/
def rowPut (s : State) (n bank row : Nat) (data : List Byte) : State :=
  let base := rowCell s (n / 64) (n % 64) bank row
  let cols := (List.range 64).map (fun c => base / 32 + c)
  let p := getPcc s n
  let s1 := putPcc s n { p with
    unsealed := p.unsealed.filter (fun e => !(e.1 == bank && e.2.1 == row)) ++ [(bank, row, 2 ^ 64 - 1)]
    logged := p.logged.filter (fun c => !cols.contains c) }
  { s1 with memo := { s1.memo with
      mem := cellWrite s1.memo.mem base data
      poison := s1.memo.poison.filter (fun c => !cols.contains c)
      errs := s1.memo.errs.filter (fun e => !cols.contains e.1) } }

/-- Whether a row has a stale column. -/
def rowUnsealed (s : State) (n bank row : Nat) : Bool := staleMask (getPcc s n) bank row != 0

/-- A stale column resealed with the bits it holds (R268). -/
def burnCol (s : State) (n bank row col : Nat) : State :=
  let cell := rowCell s (n / 64) (n % 64) bank row + 32 * col
  flipApply (colSeal s cell (colRaw s cell) false) cell .blu

/-- Stale columns of a row. -/
def staleCols (s : State) (n bank row : Nat) : Nat :=
  ((List.range 64).filter (fun c => bitAt (staleMask (getPcc s n) bank row) c)).length

/-- Up to `k` stale columns of a row resealed, in ascending order. -/
def burnCols (s : State) (n bank row k : Nat) : State :=
  (((List.range 64).filter (fun c => bitAt (staleMask (getPcc s n) bank row) c)).take k).foldl
    (fun acc c => burnCol acc n bank row c) s

/-- Before a row is opened its reducer lines are written back and its staged updates settle (R228,
R232, R258). -/
def rowPrep (s : State) (n bank row : Nat) : State :=
  let base := rowCell s (n / 64) (n % 64) bank row / 128
  (List.range 16).foldl (fun acc k => redWriteBack (settleLine acc (base + k)) n (base + k)) s

/-- The bank of a stitch ends precharged, and the stitch's commands stand in the replay buffer (R216, R248). -/
def stitchBank (s : State) (n bank row : Nat) : State :=
  let s1 := putPcc s n { getPcc s n with openRows := del (getPcc s n).openRows bank }
  if ctlLive s1 n then replayAdd s1 n .ca (rowCell s1 (n / 64) (n % 64) bank row) (some (bank, row)) else s1

/-- Column cycles that a burnish of `k` stale columns holds its slot: the reads, the turn to writing, and the writes
(R251, R268). -/
def burnCycles (k : Nat) : Nat := if k = 0 then 0 else 2 * k + 2

/-- The stitches that burnish a row by the controller's own choice counted: up to 32 stale columns each, read and written
(R248, R265, R268). -/
def countBurn (s : State) (n bank k : Nat) : State :=
  let st := ceilDiv k 32
  let cyc := burnCycles (min k 32) + burnCycles (k - 32)
  let s1 := bumpF (bumpF s fPccNbStitchesCount (pccPage n) st) fPccNbSlotCyclesCount (pccPage n) cyc
  bumpF (bumpF s1 fBluStitchesCount (bluPage s1 n bank) st) fBluColopsCount (bluPage s1 n bank) (2 * k)

/-- A row burnished by the controller's own choice, as stitches are: prepared, resealed, and its bank precharged (R258,
R265, R268). -/
def burnRow (s : State) (n bank row : Nat) : State :=
  let s0 := rowPrep s n bank row
  if !rowUnsealed s0 n bank row then s0
  else
    let s1 := burnCols (countBurn s0 n bank (staleCols s0 n bank row)) n bank row 64
    stitchBank (bumpSat s1 fPccUnsealAutoBurnish (pccPage n)) n bank row

/-- Rows of the unsealed-row table that give way to `k` more: the oldest, but for the rows that the stitch itself writes
(R265). -/
def burnVictims (s : State) (n k : Nat) (own : List (Nat × Nat)) : List (Nat × Nat) :=
  (((getPcc s n).unsealed.map (fun e => (e.1, e.2.1))).filter (fun e => !own.contains e)).take
    ((getPcc s n).unsealed.length + k - 1024)

/-- Room made in the unsealed-row table for `k` more rows (R265). -/
def autoBurnish (s : State) (n k : Nat) (own : List (Nat × Nat)) : State :=
  (burnVictims s n k own).foldl (fun acc e => burnRow acc n e.1 e.2) s

/-- Bytes combined. -/
def byteZip (f : Byte → Byte → Byte) (a b : List Byte) : List Byte := (a.zip b).map (fun p => f p.1 p.2)

/-- Bitwise majority of three rows. -/
def majRow (a b c : List Byte) : List Byte :=
  byteZip (· ||| ·) (byteZip (· &&& ·) a b) (byteZip (· ||| ·) (byteZip (· &&& ·) a c) (byteZip (· &&& ·) b c))

/-- A majority of three rows, all of them destinations (R261). -/
def primMaj (s : State) (n bank a b c : Nat) : State :=
  let v := majRow (rowRaw s n bank a) (rowRaw s n bank b) (rowRaw s n bank c)
  rowPut (rowPut (rowPut s n bank a v) n bank b v) n bank c v

/-- The primitives of one row group (R311), on its rows in the order of `rowRefs`. -/
def primGroup (s : State) (n bank fn : Nat) (rows : List Nat) : State :=
  let r (k : Nat) : Nat := rows.getD k 0
  let fill (st : State) (d : Nat) (b : Byte) : State := rowPut st n bank d (List.replicate 2048 b)
  let copy (st : State) (a d : Nat) : State := rowPut st n bank d (rowRaw st n bank a)
  match fn with
  | 0 => copy s (r 0) (r 1)
  | 1 => fill s (r 0) 0
  | 2 => fill s (r 0) 0xFF
  | 3 => rowPut s n bank (r 1) ((rowRaw s n bank (r 0)).map (fun b => ~~~ b))
  | 6 => primMaj s n bank (r 0) (r 1) (r 2)
  | _ =>
    let s1 := copy (copy s (r 0) (r 3)) (r 1) (r 4)
    primMaj (fill s1 (r 2) (if fn = 4 then 0 else 0xFF)) n bank (r 3) (r 4) (r 2)

/-- Rows of one group that a primitive leaves unsealed. -/
def primDests (fn : Nat) (rows : List Nat) : List Nat :=
  let r (k : Nat) : Nat := rows.getD k 0
  match fn with
  | 0 => [r 1] | 1 => [r 0] | 2 => [r 0] | 3 => [r 1] | 6 => [r 0, r 1, r 2] | _ => [r 2, r 3, r 4]

/-- Whether rows differ from one another. -/
def rowsDiffer (l : List Nat) : Bool := decide l.Nodup

/-- Whether the rows of one group obey R262: all in one subarray; the source and destination of each primitive distinct,
and the three rows of a majority distinct. Both operands of AND and OR may be one row. -/
def rowsPlaced (fn : Nat) (rows : List Nat) : Bool :=
  let r (k : Nat) : Nat := rows.getD k 0
  rows.all (fun x => x / 512 == r 0 / 512) &&
  (match fn with
   | 0 => rowsDiffer [r 0, r 1]
   | 3 => rowsDiffer [r 0, r 1]
   | 1 => true
   | 2 => true
   | 6 => rowsDiffer [r 0, r 1, r 2]
   | _ => rowsDiffer [r 0, r 3] && rowsDiffer [r 1, r 4] && rowsDiffer [r 3, r 4, r 2])

/-- Rows of each group of a stitch. -/
def groupRows (fn : Nat) (rows : List Nat) (cnt : Nat) : List (List Nat) :=
  let k := (rowRefs fn 0).length
  (List.range cnt).map (fun j => (rows.drop (j * k)).take k)

/-- Rows that the primitives of a ROW stitch leave unsealed. -/
def rowDests (q : NbSeq) (rows : List Nat) (cnt : Nat) : List Nat :=
  (groupRows (nbFunc (seqW q)) rows cnt).flatMap (primDests (nbFunc (seqW q)))

/-- Rows among them that are not unsealed yet, and take an entry of the table each (R265). -/
def rowFresh (s : State) (n : Nat) (q : NbSeq) (bank : Nat) (rows : List Nat) (cnt : Nat) : List Nat :=
  (rowDests q rows cnt).foldl (fun acc r => if acc.contains r || rowUnsealed s n bank r then acc else r :: acc) []

/-- The rows that a ROW stitch has burnished before it (R265). -/
def rowVictims (s : State) (n : Nat) (q : NbSeq) (bank : Nat) (rows : List Nat) (cnt : Nat) : List (Nat × Nat) :=
  burnVictims s n (rowFresh s n q bank rows cnt).length ((rowDests q rows cnt).map (fun r => (bank, r)))

/-- The primitives of a ROW stitch (R311). -/
def actRowPrims (s : State) (n : Nat) (q : NbSeq) (bank : Nat) (rows : List Nat) (cnt : Nat) : SRes :=
  let fn := nbFunc (seqW q)
  let s1 := autoBurnish s n (rowFresh s n q bank rows cnt).length ((rowDests q rows cnt).map (fun r => (bank, r)))
  sOk ((groupRows fn rows cnt).foldl (fun acc g => primGroup acc n bank fn g) s1)

/-- A source row read through the decoder; a row already unsealed is passed over (R263, R311). -/
def actVerify (s : State) (n bank row : Nat) : SRes :=
  if rowUnsealed s n bank row then sOk s
  else let r := bluCols s n bank row 0 64; sRes r.2.2 evNone (!r.2.1.isEmpty)

/-! ### Results (R246, R287, R307, R317) -/

/-- Cell of an address of the result area, from the translations of issue. -/
def outCell (s : State) (q : NbSeq) (va : Nat) : Nat :=
  match q.outs.find? (fun p => p.1 ≤ va && va < p.1 + p.2.1) with
  | some p => cellOf s (pteIntlv p.2.2) (pteAddr p.2.2 + (va - p.1))
  | none => 0

/-- Bytes of results written through to their controllers, line by line; a write covers whole
columns where it can. -/
def outBytes (q : NbSeq) : Nat → State → Nat → List Byte → State
  | 0, s, _, _ => s
  | k + 1, s, va, data =>
    if data.isEmpty then s
    else
      let w := 128 - va % 128
      let cell := outCell s q va
      let d := data.take w
      let s1 := pierCharge s cell true false q.part (ceilDiv (cell % 32 + d.length) 32)
      outBytes q k (pocWrite s1 cell d) (va + w) (data.drop w)

/-- Address of result `idx` of a target. -/
def outAddr (q : NbSeq) (idx : Nat) : Nat := q.w3 + q.t * nbOstr q.prm + idx * nbResBytes (seqW q)

/-- A drained result: its FP32 code, whether poison reached it, and what its operands bring (R75, R277). -/
structure OutVal where
  code : Nat
  bad : Bool
  taint : Nat
  deriving DecidableEq, Repr

/-- The item that a sequence's updates are staged for: 0 for none; none where the item has ended without them (R548,
R553). -/
def seqItem (s : State) (q : NbSeq) : Option Nat :=
  if q.item = 0 then some 0
  else match getItem s q.item with
    | some it => some (if it.journaled then it.id else 0)
    | none => if getB s fJrnlCtrlEnable pgJrnl then none else some 0

/-- One result of an item applied as a floating add (R287, R317, R548): staged under ORD or in a journaled item, and then not
charged (R224). A poisoned one stores the poison encoding in its element. -/
def outAdd (s : State) (q : NbSeq) (idx : Nat) (x : OutVal) (item : Nat) : State :=
  let w := seqW q
  let cell := outCell s q (outAddr q idx)
  let op := RedOp.fadd (bits w.w2 53 4)
  let tag := q.tag + 2 ^ 7 * ((q.t * nbResults w q.prm + idx) % 2 ^ 48)
  if nbOrd w || item != 0 then
    orderedAccept (pierAdd s cell true false false q.part 1)
      (if x.bad then stagedPoison tag cell op q.ctx item else stagedEntry tag (fp32Val x.code) cell cell op q.ctx item)
  else
    let s1 := redCharge s cell cell q.part
    if x.bad then redPoison (settleLine s1 (cell / 128)) cell else redUpdate s1 cell cell op (fp32Val x.code) q.ctx

/-- One result of a sequence applied, unless the item that it belongs to has ended without it (R553). -/
def outRed (s : State) (q : NbSeq) (idx : Nat) (x : OutVal) : State :=
  match seqItem s q with
  | some item => outAdd s q idx x item
  | none => s

/-- Whether some controller has come to hold more staged updates than it can, which it held no more of before (R552). -/
def stagedBeyond (s t : State) : Bool :=
  t.memo.pccs.any (fun p =>
    decide ((getPcc s p.1).staged.length < p.2.staged.length)
      && (decide (2048 * getF t fPccOrdAreaSize (pccPage p.1) < p.2.staged.length)
        || decide (16384 < (stagedLines p.2).length)))

/-- A run of consecutive results converted and written, with the events of their values; the columns that hold a
poisoned result are written poisoned (R75, R287, R317). -/
def outRun (s : State) (q : NbSeq) (idx : Nat) (xs : List OutVal) : State × NumEv :=
  let w := seqW q
  let fo := if nbOred w then Fmt.fp32 else nbFo w
  let cs := xs.map (fun x => convert fo false (fp32Val x.code))
  let ev := (xs.zip cs).foldl (fun acc z =>
    if z.1.bad then acc else evAdd acc (evAdd z.2.2 (evTaint z.1.taint (elemVal fo false z.2.1)))) evNone
  if nbOred w then (xs.zipIdx.foldl (fun acc z => outRed acc q (idx + z.2) z.1) s, ev)
  else
    let data := cs.flatMap (fun c => leBytes (nbResBytes w) c.1)
    let s1 := outBytes q (data.length / 128 + 2) s (outAddr q idx) data
    (xs.zipIdx.foldl (fun acc z => if z.1.bad then pocPoison acc (outCell acc q (outAddr q (idx + z.2))) else acc) s1, ev)

/-- The bytes of a target's area beyond its results written as zero (R287). -/
def outPad (s : State) (q : NbSeq) : State :=
  let w := seqW q
  let used := nbResults w q.prm * nbResBytes w
  if nbOred w || nbOstr q.prm = 0 then s
  else outBytes q (nbOstr q.prm / 128 + 2) s (outAddr q 0 + used) (List.replicate (nbOstr q.prm - used) 0)

/-- The final value of an accumulator of `nb.gemv` as an FP32 code (R71, R295). -/
def gemvFinal (q : NbSeq) (ac : Nat) : Nat :=
  let w := seqW q
  if (nbPair w).2.1 == .integer then fp32Code (numOfInt (sextNat 32 ac))
  else if nbSw w = 2 ∨ nbSv w = 2 then
    fp32Code (roundFp32 (numAdd numZero (roundFp32 (numMul (fp32Val ac) (roundFp32 (numMul (tswVal q) (opTs q)))))))
  else ac

/-- Panel `p` drained, and its accumulators zeroed (R296). -/
def drainGemv (s : State) (n : Nat) (q : NbSeq) (p : Nat) : State × NumEv :=
  let w := seqW q
  let r := gvR q.prm
  let bt := nbBatch w
  let j0 := p * 32 * r
  let cnt := min (32 * r) (gvN q.prm - j0)
  let row (v : Nat) : List OutVal := (List.range cnt).map (fun k =>
    let u := getBlu s n (k / r)
    let a := k % r * bt + v
    ⟨gemvFinal q (acGet u a), u.poisoned.contains a, taintOf q (k / r) a⟩)
  let res := (List.range bt).foldl (fun acc v =>
    let x := outRun acc.1 q (v * gvN q.prm + j0) (row v)
    (x.1, evAdd acc.2 x.2)) (s, evNone)
  (allBanks.foldl (fun acc b => putBlu acc n b { getBlu acc n b with acs := [], poisoned := [] }) res.1, res.2)

/-- Bag `g` drained from H1 (R302). A bag with no position in the target is all −0. -/
def drainGred (s : State) (n : Nat) (q : NbSeq) (g : Nat) : State × NumEv :=
  let w := seqW q
  let epc := tbEpc w
  let any := (List.range (tbBag q.prm)).any (fun k =>
    g * tbBag q.prm + k < tbNidx q.prm && (opLocal q (g * tbBag q.prm + k)).isSome)
  let xs := (List.range (tbElem q.prm)).map (fun e =>
    let c := e / epc
    let k := c / 32 * epc + e % epc
    let u := getBlu s n (c % 32)
    (⟨if any then stWord u (2048 + 4 * k) else 0x80000000, u.poisoned.contains k, taintOf q (c % 32) k⟩ : OutVal))
  let r := outRun s q (g * tbElem q.prm) xs
  (allBanks.foldl (fun acc b => putBlu acc n b { getBlu acc n b with poisoned := [] }) r.1, r.2)

/-- The sum and sum of squares of vector `i` drained (R304). -/
def drainStats (s : State) (n : Nat) (q : NbSeq) (i : Nat) : State × NumEv :=
  let u := getBlu s n (i % 32)
  let red (k : Nat) : OutVal :=
    ⟨fp32Code ((lanesFold addR 4 ((List.range 16).map (fun j => fp32Val (acGet u (k + j))))).getD 0 numZero),
      (List.range 16).any (fun j => u.poisoned.contains (k + j)), taintOf q (i % 32) 0⟩
  outRun s q (2 * i) [red 0, red 16]

/-- A partial of softmax: maximum, sum, weighted value. -/
structure Partial where
  m : Num
  l : Num
  o : List Num
  deriving DecidableEq, Repr

/-- The partial of a head in a bank; a bank without tokens has the empty one (R356). -/
def bankPartial (s : State) (n : Nat) (q : NbSeq) (h b : Nat) : Partial :=
  let d := atD q.prm
  let u := getBlu s n b
  if (attnBlock q b 0).isEmpty then ⟨.inf true, numZero, List.replicate d numZero⟩
  else ⟨fp32Val (acGet u (2 * h)), fp32Val (acGet u (2 * h + 1)),
    (List.range d).map (fun i => fp32Val (stWord u (2048 + 4 * (h * d + i))))⟩

/-- Two partials merged: `y` received, `x` own (R307). -/
def mergePartial (y x : Partial) : Partial :=
  let mm := numMax x.m y.m
  if mm = .inf true then ⟨.inf true, numZero, x.o.map (fun _ => numZero)⟩
  else
    let a := bluExp2 (roundFp32 (numSub x.m mm))
    let c := bluExp2 (roundFp32 (numSub y.m mm))
    let mix (p q : Num) : Num := roundFp32 (numAdd (numMul p a) (numMul q c))
    ⟨mm, mix x.l y.l, (x.o.zip y.o).map (fun p => mix p.1 p.2)⟩

/-- The pass of a chain from BLU 31 down to BLU 0: each combines what it receives with its own (R246). -/
def chainFold {α : Type} (f : α → α → α) (own : Nat → α) : α :=
  ((List.range 31).map (fun k => own (30 - k))).foldl f (own 31)

/-- The Reduce of R246 on one accumulator index. No opcode selects it: `nb.attn` merges partials in its order (R307,
log entry 59). -/
def chainReduce (s : State) (n k : Nat) : Num := chainFold addR (fun b => fp32Val (acGet (getBlu s n b) k))

/-- Whether poison has reached a place in some bank. -/
def anyBad (s : State) (n k : Nat) : Bool := allBanks.any (fun b => (getBlu s n b).poisoned.contains k)

/-- What the operands of every bank bring to a place. -/
def allTaint (q : NbSeq) (k : Nat) : Nat := allBanks.foldl (fun acc b => acc ||| taintOf q b k) 0

/-- The merged record of every head (R307). A poisoned maximum reaches the whole record, any other poisoned part its own
place (R317). -/
def reduceAttn (s : State) (n : Nat) (q : NbSeq) : State × NumEv :=
  let w := seqW q
  let d := atD q.prm
  (List.range (nbBatch w)).foldl (fun acc h =>
    let r := chainFold mergePartial (bankPartial s n q h)
    let m := anyBad s n (2 * h)
    let t := allTaint q (2 * h + 1)
    let os := r.o.zipIdx.map (fun z =>
      (⟨fp32Code z.1, m || anyBad s n (64 + h * d + z.2), t ||| allTaint q (64 + h * d + z.2)⟩ : OutVal))
    let o := outRun acc.1 q (h * (d + 2)) (⟨fp32Code r.m, m, t⟩ :: ⟨fp32Code r.l, m || anyBad s n (2 * h + 1), t⟩ :: os)
    (o.1, evAdd acc.2 o.2)) (s, evNone)

/-- A drained unit written (R316). -/
def drainUnit (s : State) (n : Nat) (q : NbSeq) (u : Nat) : State × NumEv :=
  match wOp (seqW q) with
  | 0xA1 => drainGemv s n q u
  | 0xA3 => drainGred s n q u
  | 0xA5 => drainStats s n q u
  | _ => reduceAttn s n q

/-- What reaches the results of units after unit `u` is drained: its places are free again (R75). -/
def unitTaint (q : NbSeq) (u : Nat) : List ((Nat × Nat) × Nat) :=
  if wOp (seqW q) = 0xA5 then q.taint.filter (fun x => x.1.1 ≠ u % 32) else []

/-! ### Chain words (R246, R247) -/

/-- The bank and place of chain word `i` of a unit's drain or reduce: banks in ascending order, and within a bank the
places of its results. -/
def chainWord (q : NbSeq) (u i : Nat) : Nat × Nat :=
  let w := seqW q
  match wOp w with
  | 0xA1 => let k := gvR q.prm * nbBatch w; (i / k, i % k)
  | 0xA3 => (i / 512, i % 512)
  | 0xA5 => (u % 32, 16 * i)
  | _ =>
    let d := atD q.prm
    let g := nbBatch w * (d + 2)
    let h := i % g / (d + 2)
    let x := i % g % (d + 2)
    (i / g, if x = 0 then 2 * h else if x = 1 then 2 * h + 1 else 64 + h * d + (x - 2))

/-- Chain words of a unit. -/
def chainWords (q : NbSeq) : Nat :=
  let w := seqW q
  match wOp w with
  | 0xA1 => 32 * gvR q.prm * nbBatch w
  | 0xA3 => 32 * 512
  | 0xA5 => 2
  | _ => 32 * (nbBatch w * (atD q.prm + 2))

/-- One chain word that failed its parity: it is resent and counted (R247); when it fails again it is delivered as
poison. DESIGN CHOICE: the events of the chain carry which of their words failed, and the count stands at the lane unit
whose result the word is (log entry 80). -/
def chainRetry (lost : Bool) (n : Nat) (q : NbSeq) (u : Nat) (s : State) (i : Nat) : State :=
  let x := chainWord q u i
  if i ≥ chainWords q then s
  else
    let s1 := bumpSat s fBluEccChainRetry (bluPage s n x.1)
    if lost then putBlu s1 n x.1 (acMark (getBlu s1 n x.1) [x.2]) else s1

end Sys2Proof.Machine
end

