-- ==== Sys2Proof/Machine/NearBank.lean ====
section
/-!
DEFINITION. Sequences on the controllers (R241 to R277, R316, R317): where a command's sequences and
its queue stand, errors and faults of sequences, starts, suspensions, broadcasts, stitches, drains and
ends.
-/
namespace Sys2Proof.Machine

/-! ### A command's sequences and its queue -/

/-- Whether two sequences belong to one command. -/
def sameCmd (a b : NbSeq) : Bool :=
  !a.sys && !b.sys && a.span == b.span && a.core == b.core && a.ctx == b.ctx
    && a.launch == b.launch && a.cmdPc == b.cmdPc

/-- Every sequence of the package changed. -/
def mapSeqs (s : State) (f : NbSeq → NbSeq) : State :=
  { s with memo := { s.memo with pccs := s.memo.pccs.map (fun p => (p.1, { p.2 with seqs := p.2.seqs.map f })) } }

/-- Whether any sequence of the package satisfies a condition. -/
def anySeq (s : State) (f : NbSeq → Bool) : Bool := s.memo.pccs.any (fun p => p.2.seqs.any f)

/-- A sequence of a controller, by identifier. -/
def seqOf (s : State) (n id : Nat) : Option NbSeq := (getPcc s n).seqs.find? (fun q => q.id == id)

/-- A sequence replaced at its controller. -/
def putSeq (s : State) (n : Nat) (q : NbSeq) : State :=
  let p := getPcc s n
  putPcc s n { p with seqs := p.seqs.map (fun x => if x.id == q.id then q else x) }

/-- The core part of a context on a core: in its slot, or in its record. -/
def ctxPartAt (s : State) (span core ctx : Nat) : Option CorePart :=
  match residentSlot s span core ctx with
  | some sl => some (getSlot s (slotKey span core sl)).part
  | none => (getRec s span ctx).map (fun r => look r.parts core newPart)

/-- The core part of a context on a core replaced. -/
def putPartAt (s : State) (span core ctx : Nat) (p : CorePart) : State :=
  match residentSlot s span core ctx with
  | some sl => putPart s (slotKey span core sl) p
  | none => match getRec s span ctx with
    | some r => putRec s span ctx { r with parts := put r.parts core p }
    | none => s

/-- Whether a held command is the one that a sequence belongs to; a replay's launch takes the sequences of the one that it
repeats (R555). -/
def cmdIs (q : NbSeq) (c : QCmd) : Bool := c.pc == q.cmdPc && c.launch == q.launch

/-- The command of a sequence in its queue. -/
def seqCmd (p : CorePart) (q : NbSeq) : Option QCmd := (partQueue p 4).cmds.find? (cmdIs q)

/-- Whether the command of a sequence is still held in its queue. -/
def cmdHeld (s : State) (q : NbSeq) : Bool :=
  match ctxPartAt s q.span q.core q.ctx with
  | some p => (seqCmd p q).isSome
  | none => false

/-! ### Errors and faults (R272, R277, R316) -/

/-- The NB queue of a parked context halts: the error is held with the stored queue, and is recorded
when the context is switched in. -/
def parkedHalt (s0 : State) (q : NbSeq) (code va : Nat) : State :=
  match getRec s0 q.span q.ctx with
  | none => s0
  | some r =>
    let p0 := look r.parts q.core newPart
    let l := match seqCmd p0 q with | some c => c.launch | none => q.launch
    let p := partReopen p0 4 l
    let s := holdItem s0 q.ctx (p.launches.find? (fun x => x.serial == l)) code va
    let u := partQueue p 4
    let u1 := { u with
      st := .haltErr, pc := q.cmdPc, buf := [], openFault := false
      cmds := u.cmds.takeWhile (fun c => !cmdAt l q.cmdPc c)
      pend := some ⟨code, 0, 0, va, 9, 0, 0, 0⟩ }
    putRec s q.span q.ctx (recRunnable s { r with parts := put r.parts q.core (partErr (partSetQueue p 4 u1) 4 code q.cmdPc) } q.core)

/-- PAUSED is clear where no running sequence waits for refresh (R223). -/
def pauseSync (s : State) (n : Nat) : State :=
  if (getPcc s n).seqs.any (fun q => q.st == .running && !q.stop) then s else setB s fPccStatePaused (pccPage n) false

/-- PAUSED of every controller. -/
def pauseAll (s : State) : State := s.memo.pccs.foldl (fun acc p => pauseSync acc p.1) s

/-- A sequence meets an error: no further stitch of any sequence of the command starts, faulted ones
end, and the NB queue halts (R137, R316). -/
def nbFail (s : State) (q : NbSeq) (code va : Nat) : State :=
  let s1 := pauseAll (mapSeqs s (fun x =>
    if sameCmd x q || (x.id == q.id && x.sys == q.sys) then
      let x1 := { x with stop := true, err := if x.id = q.id then code else x.err }
      match x.st with
      | .faulted _ (some k) _ => { x1 with st := .saved k }
      | .faulted _ none _ => { x1 with st := .running }
      | _ => x1
    else x))
  if q.sys || !cmdHeld s q then s1
  else match residentSlot s1 q.span q.core q.ctx with
    | some sl =>
      let key := slotKey q.span q.core sl
      let l := match seqCmd (getSlot s1 key).part q with | some c => c.launch | none => q.launch
      haltQueue s1 key 4 code l q.cmdPc va
    | none => parkedHalt s1 q code va

/-- Poison consumed by a lane unit: the event, the count and the error (R275 to R277). -/
def nbPoison (s : State) (n bank : Nat) (q : NbSeq) (va : Nat) : State :=
  let p := getPcc s n
  let s1 := putPcc s n { p with events := p.events ++ [bank], poisonBanks := p.poisonBanks ++ [bank] }
  nbFail (bumpSat s1 fBluEccUncorr (bluPage s1 n bank)) q eNbPoison va

/-- Save slots in use. -/
def usedSlots (p : Pcc) : List Nat :=
  p.seqs.filterMap (fun q => match q.st with
    | .saved k => some k
    | .faulted _ k _ => k
    | _ => none)

/-- The lowest free save slot below a limit (R270, R271, R272, R274). -/
def freeSlot (s : State) (n limit : Nat) : Option Nat :=
  if getB s fPccNbSaveEnable (pccPage n) then
    (List.range limit).find? (fun k => !(usedSlots (getPcc s n)).contains k)
  else none

/-- The 4,896 bytes of a lane unit's state (R270). -/
def bluImage (u : Blu) : List Byte :=
  cellRead u.staging 0 4096 ++ (List.range 16).flatMap (fun k => leBytes 32 (look u.ors k 0))
    ++ (List.range 64).flatMap (fun k => leBytes 4 (acGet u k)) ++ leBytes 32 u.ctl

/-- The lane-unit state that an image holds. -/
def bluOfImage (b : List Byte) : Blu :=
  ⟨cellWrite [] 0 (b.take 4096), (List.range 16).map (fun k => (k, leNat ((b.drop (4096 + 32 * k)).take 32))),
    (List.range 64).map (fun k => (k, leNat ((b.drop (4608 + 4 * k)).take 4))), leNat ((b.drop 4864).take 32), []⟩

/-- First save row of a slot. -/
def saveRow (s : State) (n k : Nat) : Nat := getF s fPccNbSaveBaseRow (pccPage n) + 3 * k

/-- Counts of the SAVE or RESTORE stitches of a pseudo-channel: three rows in each bank (R248). -/
def countSave (s : State) (n : Nat) : State :=
  let s1 := bumpF (bumpF s fPccNbStitchesCount (pccPage n) 96) fPccNbSlotCyclesCount (pccPage n) 4896
  allBanks.foldl (fun acc b => bumpF (bumpF acc fBluStitchesCount (bluPage acc n b) 3) fBluColopsCount
    (bluPage acc n b) 153) s1

/-- Whether a controller can issue, or is gone so that its accesses end at once in poison (R216, R217, R236). -/
def canRun (s : State) (n : Nat) : Bool := canIssue s n || !ctlLive s n

/-- The stitch-start condition of R223. -/
def refreshAllows (s : State) (n : Nat) : Bool :=
  decide ((getPcc s n).owed + (3900 / bandRefi (getF s fStkBandBand (pgStk (n / 64))) : Nat) + 1 ≤ 8)

/-- Whether a due refresh comes before the next stitch of a controller that lives (R258). -/
def refreshFirst (s : State) (n : Nat) : Bool := ctlLive s n && (getPcc s n).due

/-- Whether the condition of R223 holds, or the controller is gone. -/
def refreshLets (s : State) (n : Nat) : Bool := refreshAllows s n || !ctlLive s n

/-- Whether the SAVE or RESTORE stitches of a controller may start: its commands have room, no refresh is due, and R223
holds (R216, R248, R258). -/
def saveMay (s : State) (n : Nat) : Bool := canRun s n && !refreshFirst s n && refreshLets s n

/-- The save rows of a slot precharged; the last stitch of each bank stands in the replay buffer, the others have left it
(R216, R248). -/
def saveBanks (s : State) (n k : Nat) : State := allBanks.foldl (fun acc b => stitchBank acc n b (saveRow acc n k + 2)) s

/-- Every lane unit's state written to a save slot (R270). -/
def saveBlus (s : State) (n k : Nat) : State :=
  let one (acc : State) (b : Nat) : State :=
    let img := bluImage (getBlu acc n b)
    [0, 1, 2].foldl (fun a r => bluBytes n b (saveRow s n k + r) 66 a 0 ((img.drop (2048 * r)).take 2048)) acc
  zeroBlus (countSave (saveBanks (allBanks.foldl one s) n k) n) n

/-- Every lane unit's state read back from a save slot, and the first bank that met poison. -/
def restoreBlus (s : State) (n k : Nat) : State × Option Nat :=
  let one (acc : State × Option Nat) (b : Nat) : State × Option Nat :=
    let r0 := bluCols acc.1 n b (saveRow s n k) 0 64
    let r1 := bluCols r0.2.2 n b (saveRow s n k + 1) 0 64
    let r2 := bluCols r1.2.2 n b (saveRow s n k + 2) 0 25
    let bad := !(r0.2.1.isEmpty && r1.2.1.isEmpty && r2.2.1.isEmpty)
    (putBlu r2.2.2 n b (bluOfImage (r0.1 ++ r1.1 ++ r2.1)), if bad && acc.2.isNone then some b else acc.2)
  let r := allBanks.foldl one (zeroBlus s n, none)
  (countSave (saveBanks r.1 n k) n, r.2)

/-- A faulted sequence with no stitch running is saved into any free slot, as soon as its stitches may start (R258,
R272). -/
def saveFaulted (s : State) (n id : Nat) : State :=
  match seqOf s n id with
  | none => s
  | some q => match q.st with
    | .faulted t none res =>
      if !q.running.isEmpty || !saveMay s n then s
      else match freeSlot s n 8 with
        | none => s
        | some k =>
          let s1 := saveBlus s n k
          putSeq (bumpF s1 fPccNbSwitchesCount (pccPage n)) n { q with st := .faulted t (some k) res }
    | _ => s

/-- The restart record of an NB queue whose command has a faulted sequence: sequences not ended and sequences stopped on
a fault (R384). -/
def nbRestart (s : State) (q : NbSeq) (va : Nat) : Restart :=
  let l := (s.memo.pccs.flatMap (fun p => p.2.seqs)).filter (sameCmd q)
  { noRestart with
    cmdVa := q.cmdPc, faultVa := va
    iter := [l.length, (l.filter (fun x => match x.st with | .faulted _ _ _ => true | _ => false)).length, 0, 0, 0, 0] }

/-- The counts of the restart record brought up to date while a fault of the command is open (R384). -/
def nbRecount (s : State) (q : NbSeq) : State :=
  match ctxPartAt s q.span q.core q.ctx with
  | none => s
  | some p =>
    let u := partQueue p 4
    if (u.openFault || u.pend.isSome) && u.restart.cmdVa == q.cmdPc && u.restart.phase == 0 then
      putPartAt s q.span q.core q.ctx (partSetQueue p 4 { u with restart := nbRestart s q u.restart.faultVa })
    else s

/-- A translation fault stops a sequence at a stitch; the NB queue takes it unless it has an open one
(R272, R405, R406). -/
def nbFault (s : State) (n : Nat) (q : NbSeq) (cause level va : Nat) (acc : Access) : State :=
  let s1 := pauseSync (saveFaulted (putSeq s n { q with st := .faulted q.next none false }) n q.id) n
  let f : PFault := ⟨cause, level, accessNum acc, va, 3, n % 64, n / 64, q.next⟩
  if q.sys || !cmdHeld s q then s1
  else match residentSlot s1 q.span q.core q.ctx with
    | some sl =>
      let key := slotKey q.span q.core sl
      let u := getQ s1 key 4
      if u.openFault || u.pend.isSome then nbRecount s1 q
      else putQ s1 key 4 { u with pend := some f, restart := nbRestart s1 q va }
    | none => match ctxPartAt s1 q.span q.core q.ctx with
      | none => s1
      | some p =>
        let u := partQueue p 4
        if u.openFault then nbRecount s1 q
        else
          let u1 := { u with
            st := .fault, openFault := true, resolved := false
            restart := nbRestart s1 q va }
          let asid := match getCtx s1 q.ctx with | some c => c.asid | none => 0
          faultPush (putPartAt s1 q.span q.core q.ctx (partSetQueue p 4 u1)) q.span
            ⟨q.ctx, asid, q.core, 0, 4, 3, cause, level, f.access, n % 64, n / 64, va, q.cmdPc, q.next, s.tick⟩

/-! ### Starts and suspensions (R241, R255, R271) -/

/-- The sequence that holds the chain. -/
def chainSeq (p : Pcc) : Option NbSeq :=
  p.seqs.find? (fun q => match q.st with
    | .running => true
    | .faulted _ none _ => true
    | _ => false)

/-- Whether a stitch number has ended. -/
def stitchEnded (q : NbSeq) (k : Nat) : Bool := decide (k < q.next) && !q.running.any (fun t => t.num == k)

/-- Whether what decides a unit's stitches has been read: the indices of its positions, or the page-list entries (R291,
R355). -/
def unitRead (q : NbSeq) (u : Nat) : Bool :=
  (!seqIdx q || decide (min ((u + 1) * tbBag q.prm) (tbNidx q.prm) ≤ posRead q))
    && (q.sys || wOp (seqW q) != 0xA6 || (attnLeft q).isEmpty)

/-- Whether every stitch that contributes to a unit has ended. -/
def unitWhole (q : NbSeq) (u : Nat) : Bool :=
  unitRead q u && (nbCut q).zipIdx.all (fun z => z.1.unit != u || stitchEnded q z.2)
    && (!q.stop || (nbCut q).zipIdx.any (fun z => z.1.unit == u && stitchEnded q z.2)
      || (nbCut q).all (fun z => decide (z.unit < u)) && decide (q.next ≥ (nbCut q).length))

/-- Whether a unit will be whole when its running stitches have ended: later units are written after it (R316). -/
def unitSoon (q : NbSeq) (u : Nat) : Bool :=
  unitRead q u && (nbCut q).zipIdx.all (fun z => z.1.unit != u || decide (z.2 < q.next))
    && (nbCut q).zipIdx.any (fun z => z.1.unit == u && !stitchEnded q z.2)

/-- The next unit that can be drained: in cut order, and after an error the next complete one (R316). -/
def unitNext (q : NbSeq) : Option Nat :=
  if q.stop then
    (((List.range (nbUnits q)).drop q.units).find? (fun u => unitWhole q u || unitSoon q u)).filter (unitWhole q)
  else if q.units < nbUnits q && unitWhole q q.units
      && (nbCut q).zipIdx.all (fun z => decide (z.1.unit > q.units) || stitchEnded q z.2)
    then some q.units else none

/-- Whether a sequence waits to start or to be restored; a stopped one only while it has a complete unit to write
(R316). -/
def seqWaits (q : NbSeq) : Bool :=
  (!q.stop || (unitNext q).isSome) && (match q.st with | .waiting => true | .saved _ => true | _ => false)

/-- The better of two waiting sequences: higher priority, then the older (R255). -/
def seqBetter (a b : NbSeq) : NbSeq := if b.prio > a.prio then b else a

/-- The waiting sequence that starts next. -/
def seqNext (p : Pcc) : Option NbSeq :=
  match p.seqs.filter seqWaits with
  | [] => none
  | q :: r => some (r.foldl seqBetter q)

/-- A sequence whose lane units have been read back, with the bank that met poison if one did (R272). -/
def seqRestored (n : Nat) (q : NbSeq) (r : State × Option Nat) : State :=
  match r.2 with
  | some b => nbPoison r.1 n b q (devAddr 0)
  | none => r.1

/-- A sequence put on the chain, with zeroed or restored lane units (R241, R270). -/
def seqGo (s : State) (n : Nat) (q : NbSeq) : State :=
  let q1 := { q with st := .running, since := s.tick }
  match q.st with
  | .saved k =>
    seqRestored n q1 (restoreBlus (putSeq s n q1) n k)
  | _ => putSeq (zeroBlus s n) n q1

/-- Whether a waiting sequence may be put on the chain: a saved one needs its RESTORE stitches (R258, R270). -/
def seqMay (s : State) (n : Nat) (q : NbSeq) : Bool :=
  match q.st with
  | .saved _ => saveMay s n
  | _ => true

/-- SEQUENCE_START comes about: the chain is free and a sequence waits. -/
def sequenceStartReady (sp : Fin 8) (pc : Fin 64) (s : State) : Bool :=
  let n := pcNo sp pc
  (chainSeq (getPcc s n)).isNone && (match seqNext (getPcc s n) with | some q => seqMay s n q | none => false)

/-- The waiting sequence of highest priority starts (R255). -/
def sequenceStartEffect (sp : Fin 8) (pc : Fin 64) (s : State) : State :=
  match seqNext (getPcc s (pcNo sp pc)) with
  | some q => seqGo s (pcNo sp pc) q
  | none => s

/-- SEQUENCE_START (R255). -/
def execSequenceStart (sp : Fin 8) (pc : Fin 64) (s : State) : Host.Outcome State Fault Refusal :=
  .next (clocked s (if sequenceStartReady sp pc s then sequenceStartEffect sp pc s else s))

/-- Whether the running sequence is to be suspended (R271): its quantum is over, a waiting sequence has at least the
priority, and a save slot other than the last is free. -/
def suspendDue (s : State) (n : Nat) : Bool :=
  let p := getPcc s n
  match chainSeq p, seqNext p with
  | some r, some w =>
    r.st == .running && !r.stop && decide (w.prio ≥ r.prio)
      && decide (s.tick ≥ r.since + 1000 * getF s fPccNbCfgQuantum (pccPage n)) && (freeSlot s n 7).isSome
  | _, _ => false

/-- SEQUENCE_SUSPEND comes about: the sequence is to be suspended, its last running stitch has ended, and the SAVE
stitches may start (R258, R271). -/
def sequenceSuspendReady (sp : Fin 8) (pc : Fin 64) (s : State) : Bool :=
  let n := pcNo sp pc
  suspendDue s n && saveMay s n && (match chainSeq (getPcc s n) with | some r => r.running.isEmpty | none => false)

/-- The sequence on the chain when it has faulted and waits to be saved (R272). -/
def faultedSeq (p : Pcc) : Option NbSeq := p.seqs.find? (fun q => match q.st with | .faulted _ none _ => true | _ => false)

/-- The running sequence is saved and the chosen one starts or is restored (R271). -/
def suspendRunning (s : State) (n : Nat) : State :=
  let p := getPcc s n
  match chainSeq p, seqNext p, freeSlot s n 7 with
  | some r, some w, some k =>
    let s1 := saveBlus s n k
    let s2 := bumpF (putSeq s1 n { r with st := .saved k }) fPccNbSwitchesCount (pccPage n)
    seqGo s2 n w
  | _, _, _ => s

/-- A faulted sequence that still waits for its SAVE stitches is saved; else the running one gives way (R271, R272). -/
def sequenceSuspendEffect (sp : Fin 8) (pc : Fin 64) (s : State) : State :=
  let n := pcNo sp pc
  match faultedSeq (getPcc s n) with
  | some q => pauseSync (saveFaulted s n q.id) n
  | none => if sequenceSuspendReady sp pc s then suspendRunning s n else s

/-- SEQUENCE_SUSPEND (R271, R272). -/
def execSequenceSuspend (sp : Fin 8) (pc : Fin 64) (s : State) : Host.Outcome State Fault Refusal :=
  .next (clocked s (sequenceSuspendEffect sp pc s))

/-! ### Broadcasts (R243, R244) -/

/-- Whether the half that the next broadcast overwrites is no longer needed (R244): two halves
alternate for `nb.gemv`, and one is reused otherwise. -/
def halfFree (q : NbSeq) : Bool :=
  let limit := if wOp (seqW q) = 0xA1 then q.halves - 1 else q.halves
  (nbCut q).zipIdx.all (fun z => z.1.need == 0 || decide (z.1.need > limit) || stitchEnded q z.2)

/-- A running sequence of a controller. -/
def runSeq (s : State) (n : Nat) : Option NbSeq := (getPcc s n).seqs.find? (fun q => q.st == .running)

/-- BROADCAST comes about: the running sequence needs one more and its half is free. -/
def broadcastReady (sp : Fin 8) (pc : Fin 64) (s : State) : Bool :=
  match runSeq s (pcNo sp pc) with
  | some q => !q.stop && !q.sys && decide (q.halves < nbBroadcasts q) && halfFree q && canRun s (pcNo sp pc)
  | none => false

/-- Offsets of the poisoned words of a piece of local operands. -/
def pieceBad (s : State) (key base : Nat) (p : Nat × Nat) : List Nat :=
  ((List.range (p.2 / 8 + 2)).map (fun i => p.1 / 8 * 8 + 8 * i)).filter (fun a =>
    decide (a < p.1 + p.2) && lmBad s key (base + a) 8)

/-- A piece of a sequence's local operands replaced, with its poisoned words. -/
def opsPatch (q : NbSeq) (p : Nat × Nat) (data : List Byte) (bad : List Nat) : NbSeq :=
  { q with
    ops := q.ops.take p.1 ++ data ++ q.ops.drop (p.1 + p.2)
    opsBad := q.opsBad.filter (fun x => !(decide (x < p.1 + p.2) && decide (p.1 < x + 8))) ++ bad }

/-- Pieces of the local operands read as the sequence needs them (R291): where local memory holds something else by now,
the old or the new contents. -/
def opsRead (s : State) (q : NbSeq) (l : List (Nat × Nat)) : NbSeq × State :=
  match residentSlot s q.span q.core q.ctx with
  | none => (q, s)
  | some sl =>
    let key := slotKey q.span q.core sl
    let base := nbOpBase (seqW q) q.t
    let new := l.foldl (fun acc p => opsPatch acc p (lmRead s key (base + p.1) p.2) (pieceBad s key base p)) q
    if new.ops == q.ops && l.all (fun p => opBad new p.1 p.2 == opBad q p.1 p.2) then (q, s)
    else
      let b := freeBit s
      (if b.1 then new else q, b.2)

/-- The requests that carry a broadcast's or a drain's bytes over the bonds, 128 bytes each; they name no bank (R224, R243,
R246). -/
def beatReqs (s : State) (n : Nat) (isWrite : Bool) (part : Nat) : Nat → Nat → State
  | 0, _ => s
  | k + 1, len =>
    if len = 0 then s
    else beatReqs (reqAdd s n ⟨isWrite, false, part, ceilDiv (min len 128) 32, 32, 0, rowCell s (n / 64) (n % 64) 0 0, s.tick,
      false, true, false⟩) n isWrite part k (len - 128)

/-- Address of the first poisoned word among pieces of a target's local operands, as the window holds it (R535). -/
def opBadAt (q : NbSeq) (l : List (Nat × Nat)) : Nat :=
  nbOpBase (seqW q) q.t + ((q.opsBad.find? (fun x => l.any (fun p => decide (x < p.1 + p.2) && decide (p.1 < x + 8)))).getD 0)

/-- One broadcast to a staging half of every lane unit; poison among the operands and an illegal tensor scale end the
sequence (R65, R243, R316). The stitch that first needs the half counts its invalid scales (R88). -/
def broadcastEffect (sp : Fin 8) (pc : Fin 64) (s : State) : State :=
  let n := pcNo sp pc
  match runSeq s n with
  | none => s
  | some q0 =>
    let c := castPieces q0 q0.halves
    let sc := castScale q0 q0.halves
    let r := opsRead s q0 (c.1 ++ sc)
    let q := r.1
    if (c.1 ++ sc).any (fun p => opBad q p.1 p.2) then nbFail (putSeq r.2 n q) q eNbPoison (opBadAt q (c.1 ++ sc))
    else if sc.any (fun p => !tscaleOk (leNat (opBytes q p.1 p.2))) then nbFail (putSeq r.2 n q) q eFmtScale 0
    else
      let data := (c.1.flatMap (fun p => opBytes q p.1 p.2)).take 2048
      let s1 := allBanks.foldl (fun acc b => putBlu acc n b (stPut (getBlu acc n b) (2048 * c.2) data)) r.2
      let k := castInvalid q q.halves
      putSeq (beatReqs s1 n true q.part 17 data.length) n { q with
        halves := q.halves + 1, counted := max q.counted (q.halves + 1)
        castEv := if k = 0 then q.castEv else q.castEv ++ [(q.halves, k)] }

/-- BROADCAST (R243). -/
def execBroadcast (sp : Fin 8) (pc : Fin 64) (s : State) : Host.Outcome State Fault Refusal :=
  .next (clocked s (if broadcastReady sp pc s then broadcastEffect sp pc s else s))

/-! ### Stitch starts (R250, R251, R256, R258, R272) -/

/-- Effective slot count of a controller (R252). -/
def slotsEff (s : State) (n : Nat) : Nat :=
  min (getF s fPccNbCfgSlots (pccPage n)) (if getF s fStkBandBand (pgStk (n / 64)) = 3 then 8 else 16)

/-- Stitches running on a controller. -/
def allRunning (p : Pcc) : List Stitch := p.seqs.flatMap (·.running)

/-- tRCD in ticks by the band (R218). -/
def bandRcd (band : Nat) : Nat := if band ≤ 1 then 14 else 16

/-- Tick at which a stitch gives its slot up: after its last column cycle, or after the last precharge of its
primitives (R251). -/
def slotUntil (s : State) (n : Nat) (t : Stitch) : Nat :=
  t.start + (if t.kind = .row then 0 else bandRcd (getF s fStkBandBand (pgStk (n / 64)))) + 2 * t.cycles

/-- Slots that running stitches still hold when a stitch that starts now first needs one (R251). -/
def slotsHeld (s : State) (n : Nat) (kind : StitchKind) : Nat :=
  let at_ := s.tick + (if kind = .row then 0 else bandRcd (getF s fStkBandBand (pgStk (n / 64))))
  ((allRunning (getPcc s n)).filter (fun t => decide (slotUntil s n t > at_))).length

/-- What came of reading page-list entries: pages, and the quarters of 16 KiB pages. -/
inductive Entries where
  | ok (pages quarts : List (Nat × Nat))
  | stop (x : Stop)
  deriving DecidableEq, Repr

/-- One page-list entry read at the point of coherence and checked, and its page with it (R305, R352, R355). -/
def readEntry (s : State) (n : Nat) (q : NbSeq) (e : Nat) : Entries × State :=
  let va := pw q.prm 25 + q.t * bits (pw q.prm 26) 0 32 + 4 * e * q.nt
  let t := translate s q.span q.core 4 q.ctx va
  match t.1 with
  | .fault c l => (.stop (.fault c l va .read), t.2)
  | .ok p =>
    if permits p.pte .read && pteKind p.pte ≥ 2 then (.stop (.code eNbAttr va), t.2)
    else
      let g : Agent := ⟨q.span, q.core, 4, q.ctx, true, .read, eNbProt, eNbAttr, eNbPoison, eUnsealedRead⟩
      let r := readVa t.2 g none va 4
      match r.1 with
      | .stop x => (.stop x, r.2.2)
      | .bytes b =>
        let a := pw q.prm 28 + leNat b * atPs q.prm
        if a + atPs q.prm > pw q.prm 29 then (.stop (.code eNbPlace a), r.2.2)
        else
          let k := kvPage r.2.2 q.span q.core q.ctx n (atPs q.prm) a
          match k.1 with
          | .ok quart _ => (.ok [(e, leNat b)] [(e, quart)], k.2)
          | .code c va => (.stop (.code c va), k.2)
          | .fault c l va x => (.stop (.fault c l va x), k.2)

/-- Entries read in order, those already read apart. -/
def readEntries (n : Nat) (q : NbSeq) : List Nat → State → List (Nat × Nat) → List (Nat × Nat) → Entries × State
  | [], s, acc, qs => (.ok acc qs, s)
  | e :: r, s, acc, qs =>
    if has acc e then readEntries n q r s acc qs
    else
      let x := readEntry s n q e
      match x.1 with
      | .stop y => (.stop y, x.2)
      | .ok l m => readEntries n q r x.2 (acc ++ l) (qs ++ m)

/-- Entries that the next stitch needs: those of its page rows, or the next one that decides which stitch comes next. With
pages of 16 KiB an entry decides to which banks its tokens fall (R355, R356). -/
def needEntries (q : NbSeq) : List Nat :=
  if q.sys || wOp (seqW q) ≠ 0xA6 then []
  else if cutWaits q then ((attnLeft q).take 1).map (·.e)
  else match (nbCut q)[q.next]? with
    | some pl => pl.rows.filterMap (fun r => match r with | .page e _ => some e | _ => none)
    | none => []

/-- What came of translating the rows of a stitch. -/
inductive Rows where
  | ok (rows : List Nat) (used : List (Nat × Nat × Nat))
  | code (c va : Nat)
  | fault (cause level va : Nat) (acc : Access)
  deriving DecidableEq, Repr

/-- One row of a stitch translated (R284, R305). -/
def stitchRow (s : State) (n : Nat) (q : NbSeq) (bank : Nat) (r : RowRef) : RowTr × State :=
  match r with
  | .raw row => (.ok row [], s)
  | .page e rho => pageRow s q.span q.core q.ctx n bank (pageRowVa q e rho)
  | .group k g =>
    let acc := match (nbRegions (seqW q) q.prm).find? (fun x => x.1 == k) with
      | some x => x.2.2
      | none => .read
    rgRow s q.span q.core q.ctx n acc (rgAddr (nbRg q.prm k) q.t g)

/-- The rows of a stitch translated in order. -/
def stitchRows (n : Nat) (q : NbSeq) (bank : Nat) : List RowRef → State → List Nat → List (Nat × Nat × Nat) → Rows × State
  | [], s, acc, used => (.ok acc used, s)
  | r :: rest, s, acc, used =>
    let x := stitchRow s n q bank r
    match x.1 with
    | .ok row u => stitchRows n q bank rest x.2 (acc ++ [row]) (used ++ u.filter (fun p => !used.contains p))
    | .code c va => (.code c va, x.2)
    | .fault c l va a => (.fault c l va a, x.2)

/-- The work of a stitch on its rows. -/
def stitchAct (s : State) (n : Nat) (q : NbSeq) (pl : Plan) (rows : List Nat) : SRes :=
  let b := pl.bank
  let row := rows.getD 0 0
  match pl.act with
  | .gemvScale gi => actGemvScale s n q b row gi
  | .gemvData p i => actGemvData s n q b row p i
  | .gatherRead col cnt a => actGatherRead s n b row col cnt a
  | .gatherWrite col cnt a z => actGatherWrite s n b row col cnt a z
  | .gredAdd p f col cnt a => actGredAdd s n q b row p f col cnt a
  | .axpyRead cnt gi sc => actAxpyRead s n q b row cnt gi sc
  | .axpyUpdate e0 cnt off => actAxpyUpdate s n q b row e0 cnt off
  | .normStats _ r => actNormStats s n q b row r
  | .normRead e0 cnt g => actNormRead s n q b row e0 cnt g
  | .normWrite i e0 cnt => actNormWrite s n q b row i e0 cnt
  | .attnK j e rho => actAttnK s n q b row j e rho
  | .attnV j e rho last => actAttnV s n q b row j e rho last
  | .adamRead k e0 cnt => actAdamRead s n q b row k e0 cnt
  | .adamWrite k e0 cnt => actAdamWrite s n b row k e0 cnt
  | .adamBf16 e0 cnt => actAdamBf16 s n b row e0 cnt
  | .adamFp8 e0 cnt => actAdamFp8 s n b row e0 cnt
  | .adamScale b0 cnt => actAdamScale s n b row b0 cnt
  | .rowPrims _ cnt => actRowPrims s n q b rows cnt
  | .verifyRow => actVerify s n b row
  | .burn _ => sOk (burnCols s n b row 32)

/-- Column cycles that a stitch holds its slot: those of its columns, or of its primitives (R251,
R261). -/
def slotCycles (s : State) (n : Nat) (q : NbSeq) (pl : Plan) : Nat :=
  if pl.kind = .row then
    let one := if getF s fStkBandBand (pgStk (n / 64)) ≤ 1 then 57 else 60
    pl.prims * one * (if nbFunc (seqW q) = 3 then 2 else 1)
  else pl.cycles

/-- Whether a stitch's rows break R262. -/
def badPlace (q : NbSeq) (pl : Plan) (rows : List Nat) : Bool :=
  match pl.act with
  | .rowPrims _ cnt => !(groupRows (nbFunc (seqW q)) rows cnt).all (rowsPlaced (nbFunc (seqW q)))
  | _ => false

/-- Whether a row takes no stitch: a burnish of a row without a stale column (R312), a verification of a row already
unsealed (R311). -/
def stitchIdle (s : State) (n : Nat) (pl : Plan) (rows : List Nat) : Bool :=
  match pl.act with
  | .burn _ => staleMask (getPcc s n) pl.bank (rows.getD 0 0) == 0
  | .verifyRow => rowUnsealed s n pl.bank (rows.getD 0 0)
  | _ => false

/-- A stitch with the columns that it finds to work on: a burnish reads and writes up to 32 stale ones (R268). -/
def planNow (s : State) (n : Nat) (pl : Plan) (rows : List Nat) : Plan :=
  match pl.act with
  | .burn _ =>
    let k := min 32 (staleCols s n pl.bank (rows.getD 0 0))
    { pl with cols := 2 * k, cycles := burnCycles k }
  | _ => pl

/-- Whether a stitch reads staging or the operand registers (R275). -/
def readsStaging : StAct → Bool
  | .gemvData _ _ => true
  | .gatherWrite _ _ _ z => !z
  | .gredAdd _ _ _ _ _ => true
  | .axpyUpdate _ _ _ => true
  | .normWrite _ _ _ => true
  | .attnK _ _ _ => true
  | .attnV _ _ _ _ => true
  | .adamRead k _ _ => k == 3
  | .adamWrite _ _ _ => true
  | .adamBf16 _ _ => true
  | .burn _ => true
  | _ => false

/-- Places of results that one failed word of staging or the operand registers reaches in a stitch (R277). Which word it is
no rule says; `f` chooses: of `nb.gemv` a word of a vector or of a slot's scales, of `nb.gred` the weight or a sum, of
`nb.attn` a word of a head's query or score, or of its weighted value (log entry 96). -/
def stagedPlaces (q : NbSeq) (f : Nat) : StAct → List Nat
  | .gemvData _ _ =>
    let b := nbBatch (seqW q)
    let r := gvR q.prm
    let k := f % (b + (if nbSw (seqW q) = 0 then 0 else r))
    if k < b then (List.range r).map (fun sl => sl * b + k) else (List.range b).map (fun v => (k - b) * b + v)
  | .gredAdd _ _ _ cnt at_ =>
    let l := gredPlaces (seqW q) cnt at_
    let k := f % (l.length + (if tbWeighted q.prm then 1 else 0))
    if k < l.length then (l.drop k).take 1 else l
  | .attnK _ _ _ => headPlaces q (f % nbBatch (seqW q))
  | .attnV _ _ _ _ =>
    let g := nbBatch (seqW q)
    let k := f % (g + g * atD q.prm)
    if k < g then headPlaces q k else [64 + (k - g)]
  | _ => []

/-- Column operations of a stitch that a failed staging word suppresses: its writes (R277). -/
def stagedSkip (pl : Plan) : Nat :=
  match pl.kind with
  | .update => pl.cols / 2
  | .burnish => pl.cols / 2
  | _ => pl.cols

/-- The work of a stitch; a staging or operand-register word whose parity fails is consumed as poison: what it reaches is
poisoned and nothing is written (R275, R277). -/
def stitchWork (s : State) (n : Nat) (q : NbSeq) (pl : Plan) (rows : List Nat) (bad : Bool) : SRes :=
  if bad && readsStaging pl.act then
    if pl.kind = .compute then
      let f := freeWord s
      let r := stitchAct f.2 n q pl rows
      { r with
        s := putBlu r.s n pl.bank (acMark (getBlu r.s n pl.bank) (stagedPlaces q f.1.toNat pl.act)), pois := true }
    else { sRes s evNone true with skip := stagedSkip pl }
  else stitchAct s n q pl rows

/-- Rows that a stitch writes are copied again while a spare copy of their bank runs (R315). -/
def noteCopy (s : State) (n : Nat) (pl : Plan) (rows : List Nat) : State :=
  let p := getPcc s n
  if getF s fPccSpareState (pccPage n) = 1 ∧ getF s fPccSpareLbank (pccPage n) = pl.bank ∧ pl.kind ≠ .compute
    ∧ pl.kind ≠ .verify
  then putPcc s n { p with copyAgain := rows.foldl setIns p.copyAgain } else s

/-- Device address of the first column of a stitch's rows that delivers poison. -/
def poisonAddr (s : State) (n bank : Nat) (rows : List Nat) : Nat :=
  let cells := rows.flatMap (fun r => (List.range 64).map (fun c => rowCell s (n / 64) (n % 64) bank r + 32 * c))
  match cells.find? (fun c => (colRead s c).2.1) with
  | some c => devAddr (cellDa s c)
  | none => devAddr 0

/-- What an attention block keeps of its value rows, until its last stitch has used them. -/
def keptNext (q : NbSeq) (pl : Plan) (more : List ((Nat × Nat × Nat) × List Byte)) : List ((Nat × Nat × Nat) × List Byte) :=
  match pl.act with
  | .attnV _ _ _ true => q.kept.filter (fun x => x.1.1 ≠ pl.bank)
  | _ => q.kept ++ more

/-- A stitch whose rows are known runs (R250, R258, R277). -/
def stitchRun (s : State) (n : Nat) (q : NbSeq) (pl0 : Plan) (rows : List Nat) (used : List (Nat × Nat × Nat))
    (bad : Bool) : State :=
  let s0 := rows.foldl (fun acc r => rowPrep acc n pl0.bank r) s
  if stitchIdle s0 n pl0 rows then putSeq s0 n { q with next := q.next + 1 }
  else
    let pl := planNow s0 n pl0 rows
    let r := stitchWork (noteCopy s0 n pl rows) n q pl rows bad
    let cast := q.castEv.filter (fun x => decide (x.1 < pl.need))
    let ev := { r.ev with scaleInvalid := r.ev.scaleInvalid + (cast.map (·.2)).sum }
    let t : Stitch := ⟨q.next, pl.bank, pl.kind, pl.cols - r.skip, pl.prims, slotCycles s n q pl, ev, s.tick, used⟩
    let q1 := { q with
      next := q.next + 1, running := q.running ++ [t], taint := taintAdd q.taint r.taint, kept := keptNext q pl r.kept
      castEv := q.castEv.filter (fun x => !decide (x.1 < pl.need)) }
    let s1 := putSeq (setB (stitchBank r.s n pl.bank (rows.getD 0 0)) fPccStatePaused (pccPage n) false) n q1
    if r.pois then nbPoison s1 n pl.bank q1 (poisonAddr s1 n pl.bank rows) else s1

/-- Whether the next stitch of a sequence can start now, apart from refresh: a slot will be free when it first needs one,
its bank is free and has served the requests queued before its last stitch boundary, its halves hold their data, and its
unit can be held (R244, R250, R251, R256). -/
def stitchFits (s : State) (n : Nat) (q : NbSeq) (pl : Plan) : Bool :=
  let p := getPcc s n
  decide (slotsHeld s n pl.kind < slotsEff s n) && !(allRunning p).any (fun t => t.bank == pl.bank)
    && !p.reqs.any (fun r => r.before && r.bank == pl.bank)
    && decide (pl.need ≤ q.halves) && (nbUnits q == 0 || decide (pl.unit < q.units + unitSpan (seqW q)))
    && canRun s n

/-- The next group of 64 indices read (R291); poison among them ends the command (R316). -/
def groupRead (s : State) (n : Nat) (q : NbSeq) : State :=
  let w := if tbIdx64 q.prm then 8 else 4
  let piece := (64 * q.groups * w, (min 64 (tbNidx q.prm - 64 * q.groups)) * w)
  let r := opsRead s q [piece]
  let s1 := putSeq r.2 n { r.1 with groups := q.groups + 1 }
  if opBad r.1 piece.1 piece.2 then nbFail s1 r.1 eNbPoison (opBadAt r.1 [piece]) else s1

/-- An open bank precharged (R256). -/
def bankClose (s : State) (n bank : Nat) : State :=
  let s1 := putPcc s n { getPcc s n with openRows := del (getPcc s n).openRows bank }
  replayAdd s1 n .ca (rowCell s1 (n / 64) (n % 64) bank 0) (some (bank, 0))

/-- Whether a ROW stitch waits because rows that it has burnished first lie in banks whose stitches run (R250, R265). -/
def burnHeld (s : State) (n : Nat) (q : NbSeq) (pl : Plan) (rows : List Nat) : Bool :=
  match pl.act with
  | .rowPrims _ cnt => (rowVictims s n q pl.bank rows cnt).any (fun v => (allRunning (getPcc s n)).any (fun t => t.bank == v.1))
  | _ => false

/-- The next stitch of a sequence starts, or its sequence stops at it; without one the next group of indices is read. A
bank with an open row is precharged first, in a step of its own (R256: log entry 97). `bad` says that a staging or operand-register word fails its parity in the stitch (R275). -/
def stitchNext (s : State) (n : Nat) (q : NbSeq) (bad : Bool) : State :=
  let en := readEntries n q (needEntries q) s q.pages q.quarts
  match en.1 with
  | .stop (.code c va) => nbFail en.2 q c va
  | .stop (.fault c l va a) => nbFault en.2 n q c l va a
  | .ok pages quarts =>
    let q1 := { q with pages := pages, quarts := quarts }
    match (nbCut q1)[q1.next]? with
    | none => if groupsLeft q1 then groupRead en.2 n q1 else putSeq en.2 n q1
    | some pl =>
      if !stitchFits en.2 n q1 pl then putSeq en.2 n q1
      else if has (getPcc en.2 n).openRows pl.bank then bankClose (putSeq en.2 n q1) n pl.bank
      else
        let r := stitchRows n q1 pl.bank pl.rows en.2 [] []
        match r.1 with
        | .code c va => nbFail (putSeq r.2 n q1) q1 c va
        | .fault c l va a => nbFault r.2 n q1 c l va a
        | .ok rows used =>
          if badPlace q1 pl rows then nbFail (putSeq r.2 n q1) q1 eRowPlace 0
          else if burnHeld r.2 n q1 pl rows then putSeq r.2 n q1
          else stitchRun r.2 n q1 pl rows used bad

/-- STITCH_START comes about: the running sequence has a stitch left that a slot, its bank, its broadcasts and the drains
before it allow, or indices to read; no suspension is due, and no refresh but one that makes the sequence pause (R223, R258, R271). -/
def stitchStartReady (sp : Fin 8) (pc : Fin 64) (s : State) : Bool :=
  let n := pcNo sp pc
  match runSeq s n with
  | none => false
  | some q => !q.stop && !stitchesHeld s sp && !(refreshFirst s n && refreshLets s n) && !suspendDue s n
      && (match (nbCut q)[q.next]? with
        | some pl => stitchFits s n q pl
        | none => groupsLeft q || !(needEntries q).all (fun e => has q.pages e))

/-- A stitch starts, or the sequence pauses for refresh (R223, R250). -/
def stitchStartEffect (sp : Fin 8) (pc : Fin 64) (bad : Bool) (s : State) : State :=
  let n := pcNo sp pc
  match runSeq s n with
  | none => s
  | some q =>
    if refreshLets s n then stitchNext s n q bad else setB s fPccStatePaused (pgPcc sp pc) true

/-- STITCH_START (R250). -/
def execStitchStart (sp : Fin 8) (pc : Fin 64) (bad : Bool) (s : State) : Host.Outcome State Fault Refusal :=
  .next (clocked s (if stitchStartReady sp pc s then stitchStartEffect sp pc bad s else s))

/-! ### Stitch ends (R88, R248, R257) -/

/-- Requests queued for a bank served at its stitch boundary, 16 at most, chosen by R225 (R257). -/
def serveBank (n bank : Nat) : Nat → State → State
  | 0, s => s
  | k + 1, s =>
    if !canIssue s n then s
    else match chooseReq s n (fun r => r.bank == bank) with
      | some r => serveBank n bank k (issueReq s n r)
      | none => s

/-- The requests that a bank still holds at its stitch boundary are marked: they come before its next stitch (R256). DEDUCED:
so are those beyond the 16 of R257, since R256 has the bank free only without a request queued before its last stitch
boundary (log entry 98). -/
def markBank (s : State) (n bank : Nat) : State :=
  let p := getPcc s n
  putPcc s n { p with reqs := p.reqs.map (fun r => if r.bank == bank then { r with before := true } else r) }

/-- A stitch of a sequence ends: its counts are added, and its bank's requests are served. -/
def stitchFinish (s : State) (n : Nat) (q : NbSeq) (t : Stitch) : State :=
  let pg := pccPage n
  let bp := bluPage s n t.bank
  let s1 := putSeq s n { q with running := q.running.filter (fun x => x.num ≠ t.num) }
  let s2 := bumpF (bumpF s1 fPccNbStitchesCount pg) fPccNbSlotCyclesCount pg t.cycles
  let s3 := bumpF (bumpF (bumpF s2 fBluStitchesCount bp) fBluColopsCount bp t.cols) fBluRowprimCount bp t.prims
  let s4 := if q.sys then s3 else numevAdd s3 (n / 64) q.ctx t.ev
  saveFaulted (markBank (serveBank n t.bank 16 s4) n t.bank) n q.id

/-- The `k`-th running stitch of a controller, with its sequence. -/
def nthRunning (p : Pcc) (k : Nat) : Option (NbSeq × Stitch) :=
  (p.seqs.flatMap (fun q => q.running.map (fun t => (q, t))))[k]?

/-- STITCH_END (R248): the `k`-th running stitch ends. -/
def execStitchEnd (sp : Fin 8) (pc : Fin 64) (k : Nat) (s : State) : Host.Outcome State Fault Refusal :=
  .next (clocked s (match nthRunning (getPcc s (pcNo sp pc)) k with
    | some x => stitchFinish s (pcNo sp pc) x.1 x.2
    | none => s))

/-! ### Drains, merges and ends (R246, R289, R316) -/

/-- What translating the output ranges answers. -/
structure OutTr where
  stop : Option Stop
  /-- Translations of the result area: virtual base, size and entry. -/
  outs : List (Nat × Nat × Nat)
  /-- Device ranges: decode, first byte, end. -/
  devs : List (Bool × Nat × Nat)
  s : State
  deriving DecidableEq, Repr

/-- Pages of [va, e) translated. With `chk` a missing permission or a page outside device memory
stops the command; without it such a page is passed over, and its stitch meets the error. -/
def outTr (span core ctx : Nat) (acc : Access) (chk : Bool) (e : Nat) : Nat → OutTr → Nat → OutTr
  | 0, o, _ => o
  | k + 1, o, va =>
    if va ≥ e then o
    else if va ≥ 2 ^ 64 then if chk then { o with stop := some (.code eNbProt (va % 2 ^ 64)) } else o
    else
      let t := translate o.s span core 4 ctx va
      match t.1 with
      | .fault c l => { o with stop := some (.fault c l va acc), s := t.2 }
      | .ok p =>
        let e1 := min e (p.vbase + p.size)
        let bad := if !permits p.pte acc then eNbProt else if pteKind p.pte ≥ 2 then eNbAttr else 0
        if bad ≠ 0 then
          if chk then { o with stop := some (.code bad va), s := t.2 }
          else outTr span core ctx acc chk e k { o with s := t.2 } e1
        else
          let da := pageDa p va
          outTr span core ctx acc chk e k
            { o with
              s := t.2
              outs := if chk then o.outs ++ [(p.vbase, p.size, p.pte)] else o.outs
              devs := o.devs ++ [(pteIntlv p.pte, da, da + (e1 - va))] } e1

/-- The part of the result area that a sequence writes. -/
def outPart (q : NbSeq) : Nat × Nat :=
  let a := outAddr q 0
  (a, a + (if nbOstr q.prm = 0 then nbResArea (seqW q) q.prm else nbOstr q.prm))

/-- The pages of a sequence's result area that an invalidation has dropped translated again (R401). -/
def outAgain (s : State) (q : NbSeq) : OutTr :=
  let a := outPart q
  let acc := if nbOred (seqW q) then Access.both else .write
  q.outs.foldl (fun o x =>
    if x.2.2 ≠ 0 then { o with outs := o.outs ++ [x] }
    else
      let lo := max x.1 a.1
      let hi := min (x.1 + x.2.1) a.2
      if o.stop.isSome || lo ≥ hi then { o with outs := o.outs ++ [x] }
      else outTr q.span q.core q.ctx acc true hi ((hi - lo) / 4096 + 2) o lo) ⟨none, [], [], s⟩

/-- Chain words that fail their parity in a drain: those resent once, and those lost (R247). -/
def chainFails (s : State) (n : Nat) (q : NbSeq) (u : Nat) (resent lost : List Nat) : State :=
  let l := lost.eraseDups
  l.foldl (chainRetry true n q u) ((resent.eraseDups.filter (fun i => !l.contains i)).foldl (chainRetry false n q u) s)

/-- Bytes that leave the chain end when a unit is drained or reduced (R246): the accumulators of a panel, the sums of a bag
or a vector, or each merged record once. -/
def chainBytes (q : NbSeq) : Nat :=
  match wOp (seqW q) with
  | 0xA3 => 4 * tbElem q.prm
  | 0xA6 => chainWords q / 32 * 4
  | _ => chainWords q * 4

/-- A unit of a sequence written, its result beats charged at the draining controller and the invalid scales that no stitch
has counted added; after the last one its area's padding is zero (R88, R224, R287, R316). -/
def unitWrite (s : State) (n : Nat) (q : NbSeq) (u : Nat) : State :=
  let r := drainUnit (beatReqs s n false q.part (chainBytes q / 128 + 1) (chainBytes q)) n q u
  let s1 := numevAdd r.1 (n / 64) q.ctx { r.2 with scaleInvalid := r.2.scaleInvalid + (q.castEv.map (·.2)).sum }
  let s2 := if u + 1 = nbUnits q && !q.stop then outPad s1 q else s1
  putSeq s2 n { q with units := u + 1, taint := unitTaint q u, castEv := [] }

/-- Lost chain words of a drained unit consumed as poison, each at the lane unit whose result it is (R247, R275, R277). -/
def chainPoison (s : State) (n : Nat) (q : NbSeq) (u : Nat) (lost : List Nat) : State :=
  (lost.eraseDups.filter (fun i => decide (i < chainWords q))).foldl (fun acc i => nbPoison acc n (chainWord q u i).1 q (devAddr 0)) s

/-- The results of a unit written, once its chain words are in; a journaled sequence whose updates find no room at their
controllers halts with JRNL_FULL instead (R552). -/
def unitOut (s : State) (n : Nat) (q : NbSeq) (u : Nat) (resent lost : List Nat) : State :=
  let c := chainFails s n q u resent lost
  let t := unitWrite c n q u
  if nbOred (seqW q) && (match seqItem s q with | some i => i != 0 | none => false) && stagedBeyond s t then
    nbFail (putSeq c n { q with units := u + 1 }) { q with units := u + 1 } eJrnlFull 0
  else chainPoison t n q u lost

/-- A unit drained: dropped pages of its area are translated again first, and one that cannot be stops the sequence
(R401, R405); after an error the unit is passed over then (R316). -/
def unitDrain (s : State) (n : Nat) (q : NbSeq) (u : Nat) (resent lost : List Nat) : State :=
  let o := outAgain s q
  match o.stop with
  | none => unitOut o.s n { q with outs := o.outs } u resent lost
  | some x =>
    if q.stop then putSeq o.s n { q with units := u + 1 }
    else match x with
      | .code c va => nbFail o.s q c va
      | .fault c l va a => nbFault o.s n q c l va a

/-- The running sequence drained, when its opcode drains (`red` false) or reduces. -/
def chainStep (sp : Fin 8) (pc : Fin 64) (red : Bool) (resent lost : List Nat) (s : State) : State :=
  let n := pcNo sp pc
  match runSeq s n with
  | none => s
  | some q =>
    if (wOp (seqW q) == 0xA6) != red || q.sys then s
    else match unitNext q with
      | some u => unitDrain s n q u resent lost
      | none => s

/-- CHAIN_DRAIN (R246). -/
def execChainDrain (sp : Fin 8) (pc : Fin 64) (resent lost : List Nat) (s : State) : Host.Outcome State Fault Refusal :=
  .next (clocked s (chainStep sp pc false resent lost s))

/-- CHAIN_REDUCE (R246, R307). -/
def execChainReduce (sp : Fin 8) (pc : Fin 64) (resent lost : List Nat) (s : State) : Host.Outcome State Fault Refusal :=
  .next (clocked s (chainStep sp pc true resent lost s))

/-- Whether a sequence can end: its stitches and units are through, or an error stops it and no
complete unit is left (R289, R316). -/
def seqEnds (q : NbSeq) : Bool :=
  q.running.isEmpty &&
  (if q.stop then (unitNext q).isNone
   else q.st == .running && !groupsLeft q && decide (q.next ≥ (nbCut q).length) && decide (q.units ≥ nbUnits q)
     && (needEntries q).all (fun e => has q.pages e))

/-- Signals of the executed commands at the front of a parked context's NB queue (R273). A signal that its span can no longer
stage waits in the queue, which halts with JRNL_FULL when the context is back (R552). -/
def parkedRelease (span core ctx : Nat) : Nat → State → State
  | 0, s => s
  | k + 1, s =>
    match getRec s span ctx with
    | none => s
    | some r =>
      let p := look r.parts core newPart
      let u := partQueue p 4
      match u.cmds with
      | [] => s
      | c :: rest =>
        if c.phase ≠ .executed then s
        else
          let item := (p.launches.find? (fun l => l.serial == c.launch)).bind (fun l => getItem s l.item)
          let full := cmdSignals c && (match item with
            | some it => stagedOut s it (mkSignal ctx span core 4 c it.id)
            | none => false)
          if full then s
          else
            let s1 := putRec s span ctx { r with parts := put r.parts core (partSetQueue p 4 { u with cmds := rest }) }
            let s2 := dmaevAdd (numevAdd s1 span ctx (cmdEv c)) span ctx c.oobR c.oobW c.oobI c.coal
            let s3 := if !cmdSignals c then s2 else match item with
              | none => sendSignal s2 (mkSignal ctx span core 4 c 0)
              | some it =>
                let g := mkSignal ctx span core 4 c it.id
                if signalStaged s2 it g then putItem s2 { it with signals := it.signals ++ [g] } else sendSignal s2 g
            parkedRelease span core ctx k s3

/-- The command of a sequence has no sequence left: it is executed, and its hazard record goes (R289,
R290). -/
def nbCmdDone (s : State) (q : NbSeq) (oobI : Nat) : State :=
  let hk := 4096 * coreNo q.span q.core + q.ctx
  let hz := put s.core.hazards hk ((look s.core.hazards hk []).filter (fun h => !(h.launch == q.launch && h.pc == q.cmdPc)))
  let s0 := { s with core := { s.core with hazards := hz } }
  if q.stop then s0
  else match ctxPartAt s0 q.span q.core q.ctx with
    | none => s0
    | some p =>
      let u := partQueue p 4
      let u1 := { u with cmds := u.cmds.map (fun c =>
        if cmdIs q c && c.phase == .sent then { c with phase := .executed, oobI := c.oobI + oobI } else c) }
      let s1 := putPartAt s0 q.span q.core q.ctx (partSetQueue p 4 u1)
      if (residentSlot s1 q.span q.core q.ctx).isSome then s1
      else parkedRelease q.span q.core q.ctx u1.cmds.length s1

/-- Out-of-bounds index positions that target 0 counts (R300). -/
def seqOob (q : NbSeq) : Nat :=
  if q.t = 0 && (wOp (seqW q) == 0xA2 || wOp (seqW q) == 0xA3) then
    ((List.range (tbNidx q.prm)).filter (fun p => (opRow q p).isNone)).length
  else 0

/-- A system sequence over listed rows, of priority 7 (R269). -/
def sysSeq (id span : Nat) (rows : List Nat) : NbSeq :=
  ⟨id, true, span, 0, 0, 7, 0, 0, 1, 0, 0, 0, 0, 0, 0xA9, 0, 0, 0, rows, [], [], [], 0, [], .waiting, 0, 0, 0,
    [], 0, false, 0, [], 0, [], 0, [], []⟩

/-- The system burnish of a controller takes a sequence record; it waits while all 32 are held (R255, R269). -/
def burnStart (s : State) (n : Nat) : State :=
  let p := getPcc s n
  if p.seqs.length ≥ 32 then putPcc s n { p with burnWait := true }
  else
    let q := sysSeq s.memo.nextSeq (n / 64) (p.unsealed.map (fun e => 32768 * e.1 + e.2.1))
    let s1 := putPcc s n { p with seqs := p.seqs ++ [q], burnWait := false }
    { s1 with memo := { s1.memo with nextSeq := s1.memo.nextSeq + 1 } }

/-- A sequence leaves its record, which a waiting system burnish takes; the last one of a command completes it (R289).
The count of out-of-bounds indices travels with the last one. -/
def seqLeave (s : State) (n : Nat) (q : NbSeq) : State :=
  let p := getPcc s n
  let s1 := putPcc s n { p with seqs := p.seqs.filter (fun x => x.id ≠ q.id) }
  let s2 := pauseSync (if q.st == .running then zeroBlus s1 n else s1) n
  if q.sys then setB s2 fPccUnsealBurnishBusy (pccPage n) false
  else
    let s3 := if (getPcc s2 n).burnWait then burnStart s2 n else s2
    let oob := q.oobI + seqOob q
    if anySeq s3 (sameCmd q) then
      nbRecount (mapSeqs s3 (fun x => if sameCmd q x then { x with oobI := oob } else x)) q
    else nbCmdDone s3 q oob

/-- The sequence of a controller that can end. -/
def endingSeq (s : State) (n : Nat) : Option NbSeq := (getPcc s n).seqs.find? seqEnds

/-- A sequence ends (R289). -/
def sequenceEndEffect (sp : Fin 8) (pc : Fin 64) (s : State) : State :=
  let n := pcNo sp pc
  match endingSeq s n with
  | none => s
  | some q => seqLeave s n q

/-- SEQUENCE_END (R289). -/
def execSequenceEnd (sp : Fin 8) (pc : Fin 64) (s : State) : Host.Outcome State Fault Refusal :=
  .next (clocked s (sequenceEndEffect sp pc s))

/-! ### Events of the die and burnish requests (R269, R276) -/

/-- NBS_POISON_PULSE comes about: an event waits and its bank is at a stitch boundary. -/
def nbsPoisonPulseReady (sp : Fin 8) (pc : Fin 64) (s : State) : Bool :=
  let p := getPcc s (pcNo sp pc)
  match p.events with
  | b :: _ => !(allRunning p).any (fun t => t.bank == b)
  | [] => false

/-- NBS_POISON_PULSE (R276): the controller reads the die's event record. -/
def execNbsPoisonPulse (sp : Fin 8) (pc : Fin 64) (s : State) : Host.Outcome State Fault Refusal :=
  .next (clocked s (if nbsPoisonPulseReady sp pc s then
      putPcc s (pcNo sp pc) { getPcc s (pcNo sp pc) with events := (getPcc s (pcNo sp pc)).events.drop 1 }
    else s))

/-- BURNISH_ALL written: a system sequence burnishes every row of the table; rejected while one runs
(R269, R279). -/
def burnishAllEffect (sp : Fin 8) (pc : Fin 64) (m : Nat) (s : State) : State :=
  let n := pcNo sp pc
  let pg := pgPcc sp pc
  if getB s fPccUnsealBurnishBusy pg then reject s pg .busy m 0x628 0
  else setB (burnStart s n) fPccUnsealBurnishBusy pg true

/-- BURNISH_ALL (R269). -/
def execBurnishAll (sp : Fin 8) (pc : Fin 64) (m : Nat) (s : State) : Host.Outcome State Fault Refusal :=
  .next (clocked s (pccGuarded s sp pc m 0x628 (burnishAllEffect sp pc m s)))

end Sys2Proof.Machine
end

