-- ==== Sys2Proof/Machine/NbIssue.lean ====
section
/-!
DEFINITION. Issue of near-bank commands (R283 to R291, R316) and the commands themselves, each from
where its running sequence stands to that sequence's end (R293 to R317).
-/
namespace Sys2Proof.Machine

/-! ### The parameter record (R283, R288) -/

/-- What reading a parameter record answers: its words, or the code that halts the queue. -/
inductive NbRec where
  | ok (prm : List Nat)
  | code (c va : Nat)
  deriving DecidableEq, Repr

/-- A parameter record read and checked: poison, the checks of NB_PARAM, the tensor scale of the
primary operand (R65, R283). -/
def nbRecord (s : State) (key : Nat) (w : Words) : NbRec :=
  if lmBad s key (nbPrm w) 256 then .code eNbPoison (nbPrm w)
  else
    let prm := wordsOf 32 (lmRead s key (nbPrm w) 256)
    if !nbParamOk w prm (windowBytes s key) then .code eNbParam 0
    else if nbSw w == 2 && !tscaleOk (nbTsw prm) then .code eFmtScale 0
    else .ok prm

/-- Whether an opcode reads scaled vectors (R286). -/
def nbVectors (w : Words) : Bool := wOp w == 0xA1 || wOp w == 0xA6

/-- Whether the tensor scale of a target's local vectors is legal; a poisoned one is met by the
broadcast that carries it (R65, R316). -/
def nbVtsOk (s : State) (key : Nat) (w : Words) (prm : List Nat) (t : Nat) : Bool :=
  if nbVectors w && nbSv w == 2 then
    let a := nbOpBase w t + nbVts w prm
    lmBad s key a 4 || tscaleOk (leNat (lmRead s key a 4))
  else true

/-- Local operand sets that differ: one when all targets share it (R286). -/
def nbSets (w : Words) : List Nat := if nbVecTstr w = 0 then [0] else List.range (nbNt w)

/-! ### Hazards (R290) -/

/-- The span of a region: from its lowest row group over all targets to the end of its highest. -/
def nbRgSpan (w : Words) (prm : List Nat) (k : Nat) : Nat × Nat :=
  let r := nbRg prm k
  let t1 := nbNt w - 1
  let g1 := r.gcnt - 1
  let c := [rgAddr r 0 0, rgAddr r t1 0, rgAddr r 0 g1, rgAddr r t1 g1]
  ((c.foldl min (rgAddr r 0 0)).toNat, ((c.foldl max (rgAddr r 0 0)) + 65536).toNat)

/-- Read spans of a command. -/
def nbReads (w : Words) (prm : List Nat) : List (Nat × Nat) :=
  ((nbRegions w prm).filter (fun r => r.2.2 != .write)).map (fun r => nbRgSpan w prm r.1)
    ++ (if wOp w = 0xA6 then [(pw prm 28, pw prm 29)] else [])

/-- Write spans of a command. -/
def nbWrites (w : Words) (prm : List Nat) : List (Nat × Nat) :=
  ((nbRegions w prm).filter (fun r => r.2.2 != .read)).map (fun r => nbRgSpan w prm r.1)
    ++ (if nbDrainsW w then [((nbOutArea w prm).1, (nbOutArea w prm).1 + (nbOutArea w prm).2)] else [])

/-- Whether two lists of spans overlap. -/
def spansMeet (a b : List (Nat × Nat)) : Bool :=
  a.any (fun x => b.any (fun y => decide (x.1 < y.2) && decide (y.1 < x.2)))

/-- Whether a command waits for an earlier one of its queue, or for room among its records. -/
def nbHazard (s : State) (hk : Nat) (w : Words) (prm : List Nat) : Bool :=
  let l := look s.core.hazards hk []
  decide (l.length ≥ 16) || l.any (fun h =>
    spansMeet h.writes (nbReads w prm ++ nbWrites w prm) || spansMeet h.reads (nbWrites w prm))

/-! ### Output ranges (R172, R287, R288) -/

/-- Row groups that a command writes, over all targets, as addresses with the access they need. -/
def nbOutGroups (w : Words) (prm : List Nat) : List (Int × Access) :=
  ((nbRegions w prm).filter (fun r => r.2.2 != .read)).flatMap (fun r =>
    (List.range (nbNt w)).flatMap (fun t =>
      (List.range (nbRg prm r.1).gcnt).map (fun g => (rgAddr (nbRg prm r.1) t g, r.2.2))))

/-- The output ranges of a command translated: the result area, then each written row group. -/
def nbOutTr (s : State) (span core ctx : Nat) (w : Words) (prm : List Nat) : OutTr :=
  let a := nbOutArea w prm
  let o := outTr span core ctx (if nbOred w then .both else .write) true (a.1 + a.2) (a.2 / 4096 + 2) ⟨none, [], [], s⟩ a.1
  (nbOutGroups w prm).foldl (fun acc g =>
    if acc.stop.isSome || g.1 < 0 || g.1 > 2 ^ 64 - 65536 then acc
    else outTr span core ctx g.2 false (g.1.toNat + 65536) 17 acc g.1.toNat) o

/-- Whether a line lies wholly inside one of the device ranges. -/
def devsHold (devs : List (Bool × Nat × Nat)) (intlv : Bool) (line : Nat) : Bool :=
  devs.any (fun d => d.1 == intlv && decide (d.2.1 ≤ 128 * line) && decide (128 * line + 128 ≤ d.2.2))

/-! ### Issue (R288, R555) -/

/-- Offsets, within a target's local operands, of the poisoned words that its ranges hold. -/
def nbOpsBad (s : State) (key : Nat) (w : Words) (prm : List Nat) (t : Nat) : List Nat :=
  let base := nbOpBase w t
  (nbOpRanges w prm).flatMap (fun r =>
    ((List.range (r.2 / 8 + 2)).map (fun i => r.1 / 8 * 8 + 8 * i)).filter (fun a =>
      decide (a < r.1 + r.2) && lmBad s key (base + a) 8))

/-- The sequence of target `t` of a command (R255). -/
def newSeq (s : State) (key : Nat) (c : QCmd) (prm : List Nat) (outs : List (Nat × Nat × Nat)) (item id t : Nat) :
    NbSeq :=
  let w := cmdWords c
  let ctx := slotCtx s key
  let prio := match getCtx s ctx with | some x => x.prio | none => 0
  ⟨id, false, keySpan key, keyCore key, ctx, prio, ctxPart s ctx, t, nbNt w, c.launch, item, c.pc, c.pos,
    seqTag s key c 0, c.w0, c.w1, c.w2, c.w3, prm, lmRead s key (nbOpBase w t) (nbOpBytes w prm),
    nbOpsBad s key w prm t, outs, 0, [], .waiting, s.tick, 0, 0, [], 0, false, 0, [], 0, [], 0, [], []⟩

/-- A sequence accepted by its controller. -/
def sendSeq (s : State) (n : Nat) (q : NbSeq) : State :=
  let p := getPcc s n
  let s1 := putPcc s n { p with seqs := p.seqs ++ [q] }
  { s1 with memo := { s1.memo with nextSeq := q.id + 1 } }

/-- Every sequence of a command sent to its target. -/
def sendSeqs (s : State) (key : Nat) (c : QCmd) (prm : List Nat) (outs : List (Nat × Nat × Nat)) (item : Nat) : State :=
  (nbTargets (cmdWords c)).zipIdx.foldl (fun acc x =>
    sendSeq acc x.1 (newSeq acc key c prm outs item acc.memo.nextSeq x.2)) s

/-- The item of a command's launch, 0 for none. -/
def cmdItemId (s : State) (key : Nat) (c : QCmd) : Nat :=
  match cmdItem s key c with | some it => it.id | none => 0

/-- The core that the launch of a command was sent to: it may name a retired core that another stands for (R540). -/
def namedCore (s : State) (key : Nat) (c : QCmd) : Nat :=
  match (cmdItem s key c).bind (fun it => it.launches.find? (fun d => d.launch.serial == c.launch)) with
  | some d => d.core
  | none => keyCore key

/-- The issue mark of a command: its item, its queue and its position (R555). The queue is that of the core that the launch
names, so that a replay on an alias finds it. -/
def nbMark (s : State) (key : Nat) (c : QCmd) : Nat × Nat × Nat :=
  (cmdItemId s key c, 4096 * coreNo (keySpan key) (namedCore s key c) + slotCtx s key, c.pos)

/-- Whether a journaled command was already issued for its item, so that a replay sends nothing
again. -/
def nbMarked (s : State) (key : Nat) (c : QCmd) : Bool :=
  match cmdItem s key c with
  | some it => it.journaled && s.ho.marks.contains (nbMark s key c)
  | none => false

/-- The mark of a journaled command noted. -/
def nbNote (s : State) (key : Nat) (c : QCmd) : State :=
  match cmdItem s key c with
  | some it => if it.journaled then { jrnlWrite s with ho := { s.ho with marks := s.ho.marks ++ [nbMark s key c] } } else s
  | none => s

/-- A replayed command that is already issued: it waits for its sequences, or is executed (R555). -/
def nbAgain (s : State) (key : Nat) (c : QCmd) (prm : List Nat) : State :=
  let id := cmdItemId s key c
  let live := anySeq s (fun q => !q.sys && q.item == id && q.launch == c.launch && q.pos == c.pos)
  putCmd s key 4 { c with phase := if live then .sent else .executed, nominal := nbNominal (cmdWords c) prm }

/-- The steps of R288 once the record is read and no hazard is left. -/
def nbSend (s : State) (key : Nat) (c : QCmd) (prm : List Nat) : State :=
  let w := cmdWords c
  let ctx := slotCtx s key
  if (nbTargets w).any (fun n => decide ((getPcc s n).seqs.length ≥ 32)) then s
  else
    let o := nbOutTr s (keySpan key) (keyCore key) ctx w prm
    match o.stop with
    | some x => stopCmd o.s key 4 c { noRestart with phase := 1 } x
    | none =>
      let s1 := tcDiscard o.s (devsHold o.devs)
      let s2 := sendSeqs s1 key c prm o.outs (cmdItemId s key c)
      let c1 := { c with phase := .sent, nominal := nbNominal w prm }
      let hk := 4096 * coreNo (keySpan key) (keyCore key) + ctx
      let hz := put s2.core.hazards hk (look s2.core.hazards hk [] ++ [⟨c.launch, c.pc, nbReads w prm, nbWrites w prm⟩])
      let s3 := nbNote (putCmd { s2 with core := { s2.core with hazards := hz } } key 4 c1) key c
      putQ s3 key 4 { getQ s3 key 4 with restart := noRestart }

/-- The oldest issued NB command that a sequence runs. -/
def nbHead (s : State) (key : Nat) : Option QCmd :=
  match headIssued s key 4 with
  | some c => if 0xA1 ≤ wOp (cmdWords c) ∧ wOp (cmdWords c) ≤ 0xA9 then some c else none
  | none => none

/-- NB_ISSUE comes about: an NB command has resolved and has not been sent. -/
def nbIssueReady (sp : Fin 8) (co : Fin 16) (sl : Fin 4) (s : State) : Bool := (nbHead s (slotKey sp co sl)).isSome

/-- An NB command issues, waits, or halts its queue (R288). -/
def nbIssueEffect (sp : Fin 8) (co : Fin 16) (sl : Fin 4) (s : State) : State :=
  let key := slotKey sp co sl
  match nbHead s key with
  | none => s
  | some c =>
    let w := cmdWords c
    match nbRecord s key w with
    | .code k va => haltQueue s key 4 k c.launch c.pc va
    | .ok prm =>
      if !(nbSets w).all (nbVtsOk s key w prm) then haltQueue s key 4 eFmtScale c.launch c.pc 0
      else if nbMarked s key c then nbAgain s key c prm
      else if nbHazard s (4096 * coreNo sp co + slotCtx s key) w prm then s
      else nbSend s key c prm

/-- NB_ISSUE (R288). -/
def execNbIssue (sp : Fin 8) (co : Fin 16) (sl : Fin 4) (s : State) : Host.Outcome State Fault Refusal :=
  .next (clocked s (if nbIssueReady sp co sl s then nbIssueEffect sp co sl s else s))

/-- The `nb.fence` that can retire: every earlier NB command of its queue has completed. -/
def fenceHead (s : State) (key : Nat) : Option QCmd :=
  match (getQ s key 4).cmds, headOp s key 4 0xA0 with
  | x :: _, some c => if x = c then some c else none
  | _, _ => none

/-- `nb.fence` retires (R293). -/
def nbFenceEffect (sp : Fin 8) (co : Fin 16) (sl : Fin 4) (s : State) : State :=
  let key := slotKey sp co sl
  match fenceHead s key with
  | some c => cmdDone s key 4 c
  | none => s

/-- NB_FENCE (R293). -/
def execNbFence (sp : Fin 8) (co : Fin 16) (sl : Fin 4) (s : State) : Host.Outcome State Fault Refusal :=
  .next (clocked s (nbFenceEffect sp co sl s))

/-! ### A sequence run to its end (R249, R289) -/

/-- The refresh that comes before a sequence's next stitch, with PAUSED set while R223's condition fails (R223, R258). -/
def seqRefresh (sp : Fin 8) (pc : Fin 64) (s : State) : State :=
  let s1 := if refreshLets s (pcNo sp pc) then s else setB s fPccStatePaused (pgPcc sp pc) true
  if refreshIssueReady sp pc s1 then refreshIssueEffect sp pc s1 else s1

/-- Replay entries that need no retraining leave a full buffer: the events that follow one another here take longer than
tALERT (R216). -/
def replayPass (s : State) (n : Nat) : State :=
  let p := getPcc s n
  if p.replay.length < 64 then s else putPcc s n { p with replay := p.replay.filter (fun c => decide (c.fails ≥ 5)) }

/-- What a controller does for its running sequence when no stitch runs, no suspension is due and no unit is complete: the
sequence ends, or a refresh, a request queued before a stitch boundary, a broadcast or the next stitch follows. -/
def seqIdle (sp : Fin 8) (pc : Fin 64) (q : NbSeq) (s : State) : State :=
  let n := pcNo sp pc
  if seqEnds q then seqLeave s n q
  else if refreshFirst s n || !refreshLets s n then seqRefresh sp pc s
  else match (if canIssue s n then chooseReq s n (·.before) else none) with
    | some r => issueReq s n r
    | none => if broadcastReady sp pc s then broadcastEffect sp pc s else stitchNext s n q false

/-- One event of a controller's running sequence, in the order in which a controller alone would take
them: its oldest running stitch ends, the sequence is suspended, a complete unit is drained, or what `seqIdle` says. -/
def seqStep (sp : Fin 8) (pc : Fin 64) (s0 : State) : State :=
  let n := pcNo sp pc
  let s := replayPass s0 n
  match runSeq s n with
  | none => s
  | some q =>
    match q.running with
    | t :: _ => stitchFinish s n q t
    | [] =>
      if suspendDue s n then sequenceSuspendEffect sp pc s
      else match unitNext q with
        | some u => unitDrain s n q u [] []
        | none => seqIdle sp pc q s

/-- Events until the sequence named has left the chain. -/
def seqRun (sp : Fin 8) (pc : Fin 64) (id : Nat) : Nat → State → State
  | 0, s => s
  | k + 1, s =>
    match runSeq s (pcNo sp pc) with
    | some q => if q.id = id then seqRun sp pc id k (seqStep sp pc s) else s
    | none => s

/-- Events that a sequence can still need: two for each stitch, its units, broadcasts, index groups and end, and the
refreshes and requests that come between. -/
def seqFuel (sp : Fin 8) (pc : Fin 64) (s : State) (q : NbSeq) : Nat :=
  let q1 := if seqIdx q then { q with groups := ceilDiv (tbNidx q.prm) 64 } else q
  2 * (nbCut q1).length + nbUnits q + nbBroadcasts q1 + q1.groups + q.running.length + 24
    + (getPcc s (pcNo sp pc)).reqs.length

/-- The sequence of an opcode that runs on a chain, or that starts next on a free one. -/
def seqOfOp (sp : Fin 8) (pc : Fin 64) (op : Nat) (s : State) : Option NbSeq :=
  let n := pcNo sp pc
  match chainSeq (getPcc s n) with
  | some q => if q.st == .running && !q.sys && wOp (seqW q) == op then some q else none
  | none => match seqNext (getPcc s n) with
    | some q => if !q.sys && wOp (seqW q) == op then some q else none
    | none => none

/-- A sequence of an opcode runs to its end on a pseudo-channel, or to the error or fault that stops
it; a refresh that is due comes before its RESTORE stitches (R258). -/
def seqToEnd (sp : Fin 8) (pc : Fin 64) (op : Nat) (s : State) : State :=
  match seqOfOp sp pc op s with
  | none => s
  | some q =>
    let s1 := if q.st == .running || seqMay s (pcNo sp pc) q then s else seqRefresh sp pc s
    seqRun sp pc q.id (seqFuel sp pc s q) (if q.st == .running then s1 else seqGo s1 (pcNo sp pc) q)

/-- A sequence of `nb.gemv` on a pseudo-channel (R295). -/
def nbGemvEffect (sp : Fin 8) (pc : Fin 64) (s : State) : State := seqToEnd sp pc 0xA1 s

/-- NB_GEMV (R295). -/
def execNbGemv (sp : Fin 8) (pc : Fin 64) (s : State) : Host.Outcome State Fault Refusal :=
  .next (clocked s (nbGemvEffect sp pc s))

/-- A sequence of `nb.gather` on a pseudo-channel (R301). -/
def nbGatherEffect (sp : Fin 8) (pc : Fin 64) (s : State) : State := seqToEnd sp pc 0xA2 s

/-- NB_GATHER (R301). -/
def execNbGather (sp : Fin 8) (pc : Fin 64) (s : State) : Host.Outcome State Fault Refusal :=
  .next (clocked s (nbGatherEffect sp pc s))

/-- A sequence of `nb.gred` on a pseudo-channel (R302). -/
def nbGredEffect (sp : Fin 8) (pc : Fin 64) (s : State) : State := seqToEnd sp pc 0xA3 s

/-- NB_GRED (R302). -/
def execNbGred (sp : Fin 8) (pc : Fin 64) (s : State) : Host.Outcome State Fault Refusal :=
  .next (clocked s (nbGredEffect sp pc s))

/-- A sequence of `nb.axpy` on a pseudo-channel (R303). -/
def nbAxpyEffect (sp : Fin 8) (pc : Fin 64) (s : State) : State := seqToEnd sp pc 0xA4 s

/-- NB_AXPY (R303). -/
def execNbAxpy (sp : Fin 8) (pc : Fin 64) (s : State) : Host.Outcome State Fault Refusal :=
  .next (clocked s (nbAxpyEffect sp pc s))

/-- A sequence of `nb.norm` on a pseudo-channel (R304). -/
def nbNormEffect (sp : Fin 8) (pc : Fin 64) (s : State) : State := seqToEnd sp pc 0xA5 s

/-- NB_NORM (R304). -/
def execNbNorm (sp : Fin 8) (pc : Fin 64) (s : State) : Host.Outcome State Fault Refusal :=
  .next (clocked s (nbNormEffect sp pc s))

/-- A sequence of `nb.attn` on a pseudo-channel (R306). -/
def nbAttnEffect (sp : Fin 8) (pc : Fin 64) (s : State) : State := seqToEnd sp pc 0xA6 s

/-- NB_ATTN (R306). -/
def execNbAttn (sp : Fin 8) (pc : Fin 64) (s : State) : Host.Outcome State Fault Refusal :=
  .next (clocked s (nbAttnEffect sp pc s))

/-- A sequence of `nb.adam` on a pseudo-channel (R310). -/
def nbAdamEffect (sp : Fin 8) (pc : Fin 64) (s : State) : State := seqToEnd sp pc 0xA7 s

/-- NB_ADAM (R310). -/
def execNbAdam (sp : Fin 8) (pc : Fin 64) (s : State) : Host.Outcome State Fault Refusal :=
  .next (clocked s (nbAdamEffect sp pc s))

/-- A sequence of `nb.rowop` on a pseudo-channel (R311). -/
def nbRowopEffect (sp : Fin 8) (pc : Fin 64) (s : State) : State := seqToEnd sp pc 0xA8 s

/-- NB_ROWOP (R311). -/
def execNbRowop (sp : Fin 8) (pc : Fin 64) (s : State) : Host.Outcome State Fault Refusal :=
  .next (clocked s (nbRowopEffect sp pc s))

/-- A sequence of `nb.burnish` on a pseudo-channel (R312). -/
def nbBurnishEffect (sp : Fin 8) (pc : Fin 64) (s : State) : State := seqToEnd sp pc 0xA9 s

/-- NB_BURNISH (R312). -/
def execNbBurnish (sp : Fin 8) (pc : Fin 64) (s : State) : Host.Outcome State Fault Refusal :=
  .next (clocked s (nbBurnishEffect sp pc s))

end Sys2Proof.Machine
end

