-- ==== Sys2Proof/Machine/Resolve.lean ====
section
/-!
DEFINITION. Resolution points and speculation (R108 to R110, R114, R128 to R133), and translation
faults from the queue that meets one to its resume (R405 to R409, R412).
-/
namespace Sys2Proof.Machine

/-! ### Resolution (R108 to R110, R114, R137, R139) -/

/-- Opcodes that hold back the resolution of what follows until they are done: the stream's end, waits,
predicate writes and fences (R108). -/
def opGates (op : Nat) : Bool := op == 0x01 || op == 0x02 || (0x05 ≤ op && op ≤ 0x08) || op == 0xA0

/-- Whether a command of a queue holds back those behind it. -/
def cmdGates (c : QCmd) : Bool := c.phase == .issued && opGates (wOp (cmdWords c))

/-- Whether a queue runs, so that a command of it can reach its resolution point. -/
def queueRuns (q : Queue) : Bool := (q.st == .run || q.st == .credit) && q.pend.isNone

/-- The command of a queue that is at its resolution point (R108). -/
def atResolution (q : Queue) : Option QCmd :=
  if queueRuns q && !q.cmds.any cmdGates then q.cmds.find? (fun c => c.phase == .decoded) else none

/-- Whether HALT is set for a queue. -/
def haltAsked (s : State) (key e : Nat) : Bool :=
  bitAt (getF s fCqSlotCtrlHalt (pgCq (keySpan key) (keyCore key)) (keySlot key)) e

/-- The command of a queue that resolves next: one with a held refusal waits until every earlier command of the queue has
completed with its signal, unless HALT stops the queue first (R137, R139). -/
def resolveNext (s : State) (key e : Nat) : Option QCmd :=
  let q := getQ s key e
  match atResolution q with
  | some c => if c.refusal = 0 || atFront q c || haltAsked s key e then some c else none
  | none => none

/-- COMMAND_RESOLVE comes about: a command is at its resolution point. -/
def commandResolveReady (sp : Fin 8) (co : Fin 16) (sl : Fin 4) (e : Fin 5) (s : State) : Bool :=
  (resolveNext s (slotKey sp co sl) e).isSome

/-- A command's predicate, inverted by PINV (R109). -/
def cmdPred (p : CorePart) (w : Words) : Bool := predOf p (wPred w) ^^ wPinv w

/-- The program counter moved past a command, which is replaced. -/
def resolved (s : State) (key e : Nat) (c : QCmd) : State :=
  let q := getQ s key e
  putQ s key e { qSetCmd q c with pc := c.pc + 32 }

/-- A skipped command retires: its speculative reads are cancelled, and its effects are none (R109,
R132). -/
def skipCmd (s : State) (key e : Nat) (c : QCmd) (nominal : Nat) : State :=
  resolved (specCancel s key [c]) key e { c with phase := .executed, skipped := true, spec := 0, nominal := nominal }

/-- Opcodes whose nominal count their records fix. -/
def nominalFromRecord (op : Nat) : Bool := opBoxed op || opIndexed op || (0xA1 ≤ op && op ≤ 0xA8)

/-- A skipped command that signals its nominal count reads the records that fix it (R114). -/
def skipNominal (s : State) (key e : Nat) (c : QCmd) : State :=
  let w := cmdWords c
  if wOp w ≥ 0xA0 then
    match nbRecord s key w with
    | .ok prm => skipCmd s key e c (nbNominal w prm)
    | .code k va => haltQueue s key e k c.launch c.pc va
  else
    let u := setupRecords s key e w
    match u.1 with
    | .ok j => skipCmd u.2 key e c (tensorNominal j.w j.d j.b)
    | .stop x => stopCmd u.2 key e c noRestart x

/-- A command reaches its resolution point: the queue stops for HALT or at a held refusal, and
otherwise the command issues or is skipped (R109, R137, R139). -/
def commandResolveEffect (sp : Fin 8) (co : Fin 16) (sl : Fin 4) (e : Fin 5) (s : State) : State :=
  let key := slotKey sp co sl
  let q := getQ s key e
  match resolveNext s key e with
  | none => s
  | some c =>
    let w := cmdWords c
    if haltAsked s key e then
      putQ (specCancel s key q.cmds) key e
        { q with st := .haltReq, cmds := q.cmds.map (fun x => { x with spec := 0 }) }
    else if c.refusal ≠ 0 then haltQueue s key e c.refusal c.launch c.pc c.pc
    else if cmdPred (getSlot s key).part w then resolved s key e { c with phase := .issued, spec := 0 }
    else if wSigen w && wSos w && wSigbytes w && nominalFromRecord (wOp w) then skipNominal s key e c
    else skipCmd s key e c c.nominal

/-- COMMAND_RESOLVE (R109). -/
def execCommandResolve (sp : Fin 8) (co : Fin 16) (sl : Fin 4) (e : Fin 5) (s : State) :
    Host.Outcome State Fault Refusal :=
  .next (clocked s (if commandResolveReady sp co sl e s then commandResolveEffect sp co sl e s else s))

/-! ### Speculation (R128 to R133) -/

/-- Whether an issued `tl.wait` of a queue is not satisfied yet. -/
def waitBlocks (c : QCmd) : Bool := c.phase == .issued && wOp (cmdWords c) == 0x02

/-- One of the 64 decoded commands that follow the oldest unresolved one of a queue, which number 1 comes next to,
unless an unsatisfied wait stands before it (R130, R131). -/
def specCmd (q : Queue) (idx : Nat) : Option QCmd :=
  if !queueRuns q || q.cmds.any waitBlocks || idx = 0 || idx > 64 then none
  else
    let l := q.cmds.filter (fun c => c.phase == .decoded)
    if (l.take idx).any (fun c => wOp (cmdWords c) == 0x02) then none else l[idx]?

/-- The fixed part of the walk of a load that speculates: its descriptor is read and checked, no local memory is
(R205). -/
def specSetup (s : State) (key : Nat) (w : Words) : Option Job :=
  match (setupRecords s key 0 w).1 with
  | .stop _ => none
  | .ok j => if localOk w j.d j.b (windowBytes s key) && unchangedOk w j.d j.b then some j else none

/-- Address and length of the `k`-th device-memory read of a load, where there is one (R128, R205): the 512-byte blocks of a
copy; a tensor load's descriptor, then run by run along dimension 0 the indices, the elements and the scales of the
run's positions. The address is not yet known to lie in the 64-bit space. -/
def specVa (s : State) (key : Nat) (c : QCmd) (k : Nat) : Option (Int × Nat) :=
  let w := cmdWords c
  if wOp w = 0x22 then
    let a := max w.w1 (512 * (w.w1 / 512 + k))
    let last := w.w1 + bits w.w3 0 24
    if a < last then some ((a : Int), min (last - a) (512 - a % 512)) else none
  else if k = 0 then some ((w.w1 : Int), 128)
  else match specSetup s key w with
    | none => none
    | some j =>
      let n0 := bSize j.b 0
      let p := (k - 1) / (3 * n0) * n0 + (k - 1) % n0
      let kind := (k - 1) / n0 % 3
      let i := iterOf j.b p
      let x := coordsAt j (mvStart s noRestart) i
      let c1 := if coordsIn j.d x.1 then x.1 else coordsClamp j.d x.1
      if p ≥ boxTotal j.b then none
      else if kind = 0 then
        (jobGdim j).map (fun gd =>
          let n := if j.d.idx64 then 8 else 4
          (((w.w3 + i.getD gd 0 * n : Nat) : Int), n))
      else if x.2.stop.isSome || (!coordsIn j.d x.1 && !j.d.clamp) then none
      else if kind = 2 then (if j.d.scm = 0 then none else some ((scaleAddr j.d c1 : Int), 1))
      else some ((elemAddr j.d (fmtWidth (descFmt j.d)) c1).1, elemBytes (fmtWidth (descFmt j.d)))

/-- Reads that follow the `k`-th one of a load in its run and are of its kind. -/
def specRest (s : State) (key : Nat) (c : QCmd) (k : Nat) : Nat :=
  let w := cmdWords c
  if wOp w = 0x22 || k = 0 then 0
  else match specSetup s key w with
    | none => 0
    | some j => bSize j.b 0 - 1 - (k - 1) % bSize j.b 0

/-- One transaction that starts with the `k`-th read, of the bytes from `lo` to `hi`: it takes in the reads that follow
in the run, up to `n` of them, as long as their bytes continue it within one aligned block of 512 bytes (R131, R206). The
number of the next read, and the bytes. -/
def specJoin (s : State) (key : Nat) (c : QCmd) : Nat → Nat → Int → Int → Nat × Int × Int
  | 0, k, lo, hi => (k + 1, lo, hi)
  | n + 1, k, lo, hi =>
    match specVa s key c (k + 1) with
    | some (a, m) =>
      let lo1 := min lo a
      let hi1 := max hi (a + m)
      if a ≤ hi && lo ≤ a + m && lo1 / 512 == (hi1 - 1) / 512 then specJoin s key c n (k + 1) lo1 hi1 else (k + 1, lo, hi)
    | none => (k + 1, lo, hi)

/-- Outstanding speculative reads of a core (R131). -/
def specHeld (s : State) (cno : Nat) : Nat :=
  ([0, 1, 2, 3].map (fun sl => ((getQ s (cno * 4 + sl) 0).cmds.map (·.spec)).sum)).sum

/-- The load of a speculative read, the number of the read after it, and the bytes of its transaction, when the limits
allow it: the next read of the load, unless an earlier one has stopped its speculation. A load with a box record, a local
index list or VOL issues none (R131, R133, R205, R206). -/
def specRead (sp : Fin 8) (co : Fin 16) (sl : Fin 4) (idx k : Nat) (s : State) : Option (QCmd × Nat × Int × Int) :=
  let key := slotKey sp co sl
  match specCmd (getQ s key 0) idx with
  | none => none
  | some c =>
    let w := cmdWords c
    let op := wOp w
    let next := decide (c.specNext ≤ k)
      && (List.range (k - c.specNext)).all (fun d => (specVa s key c (c.specNext + d)).isNone)
    if c.refusal ≠ 0 || c.specStop || op < 0x20 || 0x22 < op || wFlag w 41 || hasBox w || (op == 0x21 && wFlag w 42)
        || specHeld s (coreNo sp co) ≥ 256 || !next then none
    else (specVa s key c k).map (fun a =>
      (c, specJoin s key c (specRest s key c k) k a.1 (min (a.1 + a.2) (a.1 / 512 * 512 + 512))))

/-- SPECULATIVE_READ comes about. -/
def speculativeReadReady (sp : Fin 8) (co : Fin 16) (sl : Fin 4) (idx k : Nat) (s : State) : Bool :=
  (specRead sp co sl idx k s).isSome

/-- The log entry of a poisoned column that a speculative read covers (R133). -/
def specPoison (s : State) (key cmd va : Nat) : State :=
  elogAdd s { elogOf 0x06 with
    spec := true, span := keySpan key, unit := 0x40, index := keyCore key, addr := va, va := true
    ctx := slotCtx s key, cmdVa := cmd }

/-- Addresses of the poisoned columns that a read of `n` bytes covers: each as its first byte read. -/
def specBad (poison va n : Nat) : List Nat :=
  ((List.range 4).filter (fun k => bitAt poison k && decide (va % 128 < 32 * k + 32) && decide (32 * k < va % 128 + n))).map
    (fun k => max va (va / 128 * 128 + 32 * k))

/-- The lines of one transaction read through the tile cache; whether one was UNSEALED (R133, R266). -/
def specLines (key cmd : Nat) (p : Page) (va n : Nat) (s : State) : Bool × State :=
  (List.range ((va + n - 1) / 128 - va / 128 + 1)).foldl (fun acc i =>
    let a := max va (128 * (va / 128 + i))
    let e := min (va + n) (128 * (va / 128 + i) + 128)
    let r := tcRead acc.2 (keySpan key) (keyCore key) (pteIntlv p.pte) (pageDa p a / 128)
      (ctxPart acc.2 (slotCtx acc.2 key)) false
    (acc.1 || r.1.unsealed, (specBad r.1.poison a (e - a)).foldl (fun st x => specPoison st key cmd x) r.2)) (false, s)

/-- A pure read of normal memory fills the tile cache and does nothing else; poison is logged as speculative. An address
outside the 64-bit space, a translation fault, a missing permission, memory of another kind and an UNSEALED line stop the
load's speculation and report nothing (R128, R133, R205, R266). DESIGN CHOICE: its bytes do not count in LDST.LD_BYTES
(R208, log entry 88). -/
def speculativeReadEffect (sp : Fin 8) (co : Fin 16) (sl : Fin 4) (idx k : Nat) (s : State) : State :=
  match specRead sp co sl idx k s with
  | none => s
  | some (c, k1, lo, hi) =>
    let key := slotKey sp co sl
    if lo < 0 || hi > 2 ^ 64 then putCmd s key 0 { c with specStop := true }
    else
      let va := lo.toNat
      let t := translate s sp co 0 (slotCtx s key) va
      match t.1 with
      | .fault _ _ => putCmd t.2 key 0 { c with specStop := true }
      | .ok p =>
        if !permits p.pte .read || pteKind p.pte ≠ 0 then putCmd t.2 key 0 { c with specStop := true }
        else
          let r := specLines key c.pc p va (hi - lo).toNat t.2
          putCmd (bumpF r.2 fCqSpecIssuedCount (pgCq sp co)) key 0
            { c with spec := c.spec + 1, specNext := k1, specStop := r.1 }

/-- SPECULATIVE_READ (R128). -/
def execSpeculativeRead (sp : Fin 8) (co : Fin 16) (sl : Fin 4) (idx k : Nat) (s : State) :
    Host.Outcome State Fault Refusal :=
  .next (clocked s (if speculativeReadReady sp co sl idx k s then speculativeReadEffect sp co sl idx k s else s))

/-! ### Faults (R405, R406) -/

/-- The fault of the fetch of a command that a queue needs: nothing ahead of it is unresolved, and what has issued has
had its effect, so that nothing of the queue is left to run while it is in FAULT (R102, R387). -/
def fetchFault (q : Queue) : Option PFault :=
  if !queueRuns q || q.cmds.any (fun c => c.phase == .decoded || c.phase == .issued) then none
  else match q.buf with
    | f :: _ => (match f.res with
      | .fault c l => some ⟨c, l, 3, f.pc, 1, 0, 0, 0⟩
      | _ => none)
    | [] => none

/-- The fault that a queue takes next: one that an access met, or one of a needed fetch. A queue that
has halted takes none: it is aborted. -/
def faultNext (q : Queue) : Option PFault :=
  if q.st == .haltErr || q.st == .fault then none
  else match q.pend with
    | some f => some f
    | none => fetchFault q

/-- TRANSLATION_FAULT comes about. -/
def translationFaultReady (sp : Fin 8) (co : Fin 16) (sl : Fin 4) (e : Fin 5) (s : State) : Bool :=
  (faultNext (getQ s (slotKey sp co sl) e)).isSome

/-- Command or header address of a fault record. -/
def faultCmd (s : State) (key e : Nat) (f : PFault) : Nat :=
  match f.source with
  | 1 => f.va
  | 2 => match unreadLaunch s key with | some l => l.kernel | none => 0
  | _ => (getQ s key e).restart.cmdVa

/-- A queue enters FAULT at its restart point and its record waits for the ring (R405, R406). -/
def translationFaultEffect (sp : Fin 8) (co : Fin 16) (sl : Fin 4) (e : Fin 5) (s : State) : State :=
  let key := slotKey sp co sl
  let q := getQ s key e
  match faultNext q with
  | none => s
  | some f =>
    let s1 := if e.val = 0 ∨ e.val = 3 then bumpF s fLdstFaultsCount (pgLdst sp co) else s
    let s2 := if f.source = 1 then putQ s1 key e { q with buf := [], fetchPc := f.va } else s1
    takeFault s2 key e f (faultCmd s key e f)

/-- TRANSLATION_FAULT (R405). -/
def execTranslationFault (sp : Fin 8) (co : Fin 16) (sl : Fin 4) (e : Fin 5) (s : State) :
    Host.Outcome State Fault Refusal :=
  .next (clocked s (if translationFaultReady sp co sl e s then translationFaultEffect sp co sl e s else s))

/-- Room in the fault ring of a span, with writing enabled (R406, R412). -/
def fringRoom (s : State) (span : Nat) : Bool :=
  let pg := pgXlt span
  getB s fXltFringCtrlEnable pg
    && (2 ^ 32 + getF s fXltFringTailTail pg - getF s fXltFringHeadHead pg) % 2 ^ 32
        < 2 ^ getF s fXltFringCtrlSizeLog2 pg

/-- The 64 bytes of a fault record. -/
def faultBytes (r : FaultRec) (seq : Nat) : List Byte :=
  let ts := if r.source = 3 then r.tspan else 0
  let pc := if r.source = 3 then r.pc else 0
  let st := if r.source = 3 then r.stitch else 0
  leBytes 8 (r.ctx % 2 ^ 12 + 2 ^ 12 * (r.asid % 2 ^ 12) + 2 ^ 24 * (r.core % 16) + 2 ^ 28 * (r.slot % 4)
      + 2 ^ 30 * (r.engine % 8) + 2 ^ 33 * (r.source % 4) + 2 ^ 35 * (r.cause % 8) + 2 ^ 38 * (r.level % 8)
      + 2 ^ 41 * (r.access % 4) + 2 ^ 43 * (pc % 64) + 2 ^ 49 * (ts % 8))
    ++ leBytes 8 r.va ++ leBytes 8 r.cmdVa ++ leBytes 8 (st % 2 ^ 32 + 2 ^ 32 * (seq % 2 ^ 32)) ++ leBytes 8 r.tick
    ++ List.replicate 24 0

/-- FAULT_RECORD_WRITE comes about: a record waits, and writing and room allow it. -/
def faultRecordWriteReady (sp : Fin 8) (s : State) : Bool :=
  !(look s.cx.faults sp.val []).isEmpty && fringRoom s sp

/-- The oldest record written through to the ring (R406). -/
def faultRecordWriteEffect (sp : Fin 8) (s : State) : State :=
  let pg := pgXlt sp
  match look s.cx.faults sp.val [] with
  | [] => s
  | r :: rest =>
    let tail := getF s fXltFringTailTail pg
    let da := 4096 * getF s fXltFringBaseBase pg + tail % 2 ^ getF s fXltFringCtrlSizeLog2 pg * 64
    let s1 := { s with cx := { s.cx with faults := put s.cx.faults sp.val rest } }
    let s2 := tcWriteThrough s1 sp false (da / 128) 0 (da % 128) (faultBytes r tail)
    bumpF (bumpF s2 fXltFringTailTail pg) fXltFaultsCount pg

/-- FAULT_RECORD_WRITE (R406). -/
def execFaultRecordWrite (sp : Fin 8) (s : State) : Host.Outcome State Fault Refusal :=
  .next (clocked s (if faultRecordWriteReady sp s then faultRecordWriteEffect sp s else s))

/-- FRING_ENABLE (R412): writing of fault records stops or starts. -/
def execFringEnable (sp : Fin 8) (on : Bool) (m : Nat) (s : State) : Host.Outcome State Fault Refusal :=
  .next (clocked s (guarded s (pgXlt sp) m 0x108 (setB s fXltFringCtrlEnable (pgXlt sp) on)))

/-! ### Resumes (R407 to R409) -/

/-- Whether a queue's `tl.wait` had blocked it before a fault stopped it. -/
def waitStands (q : Queue) : Bool :=
  match q.cmds.find? (fun c => c.phase == .issued) with
  | some c => wOp (cmdWords c) == 0x02 && q.waitTally == bits c.w1 48 7 && q.waitTarget == bits c.w1 0 48
      && ((q.waitLeft == 0) == (bits c.w2 0 32 == 0))
  | none => false

/-- A faulted queue that runs again from its restart point (R407). -/
def queueRefault (p : CorePart) (e : Nat) (q : Queue) : Queue :=
  let q1 := { q with openFault := false, resolved := false, pend := none }
  if waitStands q then { q1 with st := .wait } else queueResume p e q1

/-- The staging halves that a sequence still needs are broadcast again, from its local operands as they stand then
(R291). -/
def rereadHalves (q : NbSeq) : NbSeq := { q with halves := castsFrom q.next (nbCut q) q.halves }

/-- Faulted sequences of a context on a core restart at their stitches (R407). -/
def resumeSeqs (s : State) (span core ctx : Nat) : State :=
  mapSeqs s (fun q =>
    if q.sys || q.span ≠ span || q.core ≠ core || q.ctx ≠ ctx then q
    else match q.st with
      | .faulted _ (some k) _ => rereadHalves { q with st := .saved k }
      | .faulted _ none _ => rereadHalves { q with st := .running }
      | _ => q)

/-- One named queue of a resident slot resumed, when it is in FAULT. -/
def resumeQueue (s : State) (key e : Nat) : State :=
  let x := getSlot s key
  let q := partQueue x.part e
  if q.st ≠ .fault then s
  else
    let s1 := putQ s key e (queueRefault x.part e q)
    if e = 4 then resumeSeqs s1 (keySpan key) (keyCore key) (slotCtx s key) else s1

/-- Address of the command at which a faulted queue stands. -/
def faultPc (q : Queue) : Nat := if q.cmds.any (fun c => c.pc == q.restart.cmdVa) then q.restart.cmdVa else q.pc

/-- The launch of the command at which a faulted queue stands, 0 for a fetch or a header: the first held
command at that address that is not complete. -/
def faultLaunch (q : Queue) : Nat :=
  match q.cmds.find? (fun c => c.pc == faultPc q && c.phase != .executed) with
  | some c => c.launch
  | none => 0

/-- One named queue of a resident slot ended with XLATE_FATAL, when it is in FAULT (R407, R409). -/
def discardQueue (s : State) (key e : Nat) : State :=
  let q := getQ s key e
  if q.st ≠ .fault then s
  else
    let s1 := haltQueue s key e eXlateFatal (faultLaunch q) (faultPc q) q.restart.faultVa
    if e = 4 then endFaultedSeqs s1 (keySpan key) (keyCore key) (slotCtx s key) else s1

/-- A stored queue that halts with a code, recorded when the context is switched in. -/
def storedHalt (q : Queue) (code launch pc va : Nat) : Queue :=
  { q with
    st := .haltErr, pc := pc, buf := [], openFault := false, resolved := false
    cmds := q.cmds.takeWhile (fun c => !cmdAt launch pc c)
    gone := q.gone ++ q.cmds.dropWhile (fun c => !cmdAt launch pc c)
    pend := some ⟨code, 0, 0, va, 9, 0, 0, 0⟩ }

/-- One named queue of a parked record: its resolved bit set, or ended with XLATE_FATAL (R407). -/
def resumeStored (s : State) (span core ctx e : Nat) (discard : Bool) : State :=
  match getRec s span ctx with
  | none => s
  | some r =>
    if !has r.parts core then s
    else
      let p0 := look r.parts core newPart
      let q := partQueue p0 e
      if q.st ≠ .fault then s
      else
        let p := if discard then partReopen p0 e (faultLaunch q) else p0
        let q1 := if discard then storedHalt q eXlateFatal (faultLaunch q) (faultPc q) 0 else { q with resolved := true }
        let p1 := partSetQueue p e q1
        let p2 := if discard then partErr p1 e eXlateFatal (faultPc q) else p1
        let gone := (q.cmds.find? (cmdAt (faultLaunch q) (faultPc q))).filter (fun _ => discard)
        let s0 := match gone with
          | some c => dmaevAdd s span ctx c.oobR c.oobW c.oobI c.coal
          | none => s
        let s1 := if discard then holdItem s0 ctx (p.launches.find? (fun l => l.serial == faultLaunch q)) eXlateFatal q.restart.faultVa
          else s0
        let s1 := putRec s1 span ctx { r with parts := put r.parts core p2 }
        if discard && e == 4 then endFaultedSeqs s1 span core ctx else s1

/-- XLT.FRESUME written for the named queues of a context on a core (R407). -/
def fresumeAll (s : State) (span core ctx eng : Nat) (discard : Bool) : State :=
  [0, 1, 2, 3, 4].foldl (fun acc e =>
    if !bitAt eng e then acc
    else match residentSlot acc span core ctx with
      | some sl =>
        if discard then discardQueue acc (slotKey span core sl) e else resumeQueue acc (slotKey span core sl) e
      | none => resumeStored acc span core ctx e discard) s

/-- FRESUME (R407). -/
def execFresume (sp : Fin 8) (co : Fin 16) (ctx eng m : Nat) (s : State) : Host.Outcome State Fault Refusal :=
  .next (clocked s (guarded s (pgXlt sp) m 0x120 (fresumeAll s sp co (ctx % 4096) eng false)))

/-- FRESUME_DISCARD (R407). -/
def execFresumeDiscard (sp : Fin 8) (co : Fin 16) (ctx eng m : Nat) (s : State) : Host.Outcome State Fault Refusal :=
  .next (clocked s (guarded s (pgXlt sp) m 0x120 (fresumeAll s sp co (ctx % 4096) eng true)))

end Sys2Proof.Machine
end

