-- ==== Sys2Proof/Machine/Contexts.lean ====
section
/-!
DEFINITION. Contexts (R378 to R393, R400 to R403, R410): eviction and switching, swapped records,
RESIDENT_STALL and its response, invalidation of translations, page moves and the end of contexts.
-/
namespace Sys2Proof.Machine

/-! ### Runs of device memory under the span-local decode -/

/-- Lines read at the point of coherence from a device address: bytes, poisoned columns counted from
the first, the state. -/
def daLines : Nat → State → Nat → List Byte × List Nat × State
  | 0, s, _ => ([], [], s)
  | k + 1, s, da =>
    let r := pocRead s (cellOf s false da / 128)
    let q := daLines k r.2 (da + 128)
    (r.1.data ++ q.1, ((List.range 4).filter (bitAt r.1.poison)) ++ q.2.1.map (· + 4), q.2.2)

/-- Bytes read from a line-aligned device address. -/
def daRead (s : State) (da n : Nat) : List Byte × List Nat × State :=
  let r := daLines ((n + 127) / 128) s da
  (r.1.take n, r.2)

/-- Lines written at the point of coherence from a device address; a column named poisoned is written
poisoned. -/
def daWriteGo (bad : List Nat) : Nat → State → Nat → List Byte → Nat → State
  | 0, s, _, _, _ => s
  | k + 1, s, da, data, c =>
    if data.isEmpty then s
    else
      let s1 := if bad.contains c && data.length ≥ 32 then pocPoison s (cellOf s false da)
        else pocWrite s (cellOf s false da) (data.take 32)
      daWriteGo bad k s1 (da + 32) (data.drop 32) (c + 1)

/-- Bytes written from a column-aligned device address. -/
def daWrite (s : State) (da : Nat) (data : List Byte) (bad : List Nat) : State :=
  daWriteGo bad (data.length / 32 + 1) s da data 0

/-! ### Windows (R386) -/

/-- Window of a resident slot of a core: base and length in 64 KiB units. -/
def slotWindow (s : State) (span core sl : Nat) : Option (Nat × Nat) :=
  match (getSlot s (slotKey span core sl)).ctx with
  | none => none
  | some ctx => (getCtx s ctx).map (fun c => (getF s fLmxWinBase (pgLmx span core) sl, c.win))

/-- Retained windows of parked records on a core: context, base and length. -/
def retainedWindows (s : State) (span core : Nat) : List (Nat × Nat × Nat) :=
  s.cx.recs.filterMap (fun p =>
    if p.1.1 ≠ span ∨ !has p.2.parts core then none
    else
      let t := look p.2.parts core newPart
      if t.winRetained then (getCtx s p.1.2).map (fun c => (p.1.2, t.winBase, c.win)) else none)

/-- Windows that stand in a core's local memory, but for a context's own retained one and a slot's. -/
def otherWindows (s : State) (span core ctx : Nat) (skip : Option Nat) : List (Nat × Nat) :=
  ([0, 1, 2, 3].filter (fun sl => some sl != skip)).filterMap (slotWindow s span core)
    ++ ((retainedWindows s span core).filter (fun x => x.1 ≠ ctx)).map (·.2)

/-- Whether a window lies inside the local memory and overlaps no other. -/
def windowFits (ws : List (Nat × Nat)) (base win : Nat) : Bool :=
  decide (base + win ≤ 128) && ws.all (fun x => decide (base + win ≤ x.1) || decide (x.1 + x.2 ≤ base))

/-- The lowest base at which a window fits. -/
def windowPlace (ws : List (Nat × Nat)) (win : Nat) : Option Nat :=
  (List.range 129).find? (fun b => windowFits ws b win)

/-- Rank of a core in CORE_MASK. -/
def coreRank (mask core : Nat) : Nat := ((List.range core).filter (bitAt mask)).length

/-- Save area of a context's window on a core (R386). -/
def saveArea (r : CtxRec) (core win : Nat) : Nat := r.winSave + 65536 * (coreRank r.coreMask core * win)

/-- Local-memory cell of a window. -/
def windowCell (span core base : Nat) : Nat := lmSize * coreNo span core + 65536 * base

/-- A window copied to its save area; a column that holds a poisoned word is written poisoned. -/
def windowSave (s : State) (span core base win area : Nat) : State :=
  let c := windowCell span core base
  let bad := (s.core.lmPoison.filter (fun w => decide (c ≤ w.1 * 8) && decide (w.1 * 8 < c + 65536 * win))).map
    (fun w => (w.1 * 8 - c) / 32)
  daWrite s area (cellRead s.core.lmem c (65536 * win)) bad

/-- A window restored from its save area; the words of a poisoned column are poisoned. -/
def windowLoad (s : State) (span core base win area : Nat) : State :=
  let c := windowCell span core base
  let r := daRead s area (65536 * win)
  let s1 := r.2.2
  let keep := s1.core.lmPoison.filter (fun w => !(decide (c ≤ w.1 * 8) && decide (w.1 * 8 < c + 65536 * win)))
  let new := r.2.1.flatMap (fun k => (List.range 4).map (fun j => ((c + 32 * k) / 8 + j, 0)))
  { s1 with core := { s1.core with lmem := cellWrite s1.core.lmem c r.1, lmPoison := keep ++ new } }

/-! ### Eviction (R387) -/

/-- Effect of the oldest issued command of a queue that runs to completion at an eviction: a common
command or one of the MX and VX engines (R387). -/
def runOne (sp : Fin 8) (co : Fin 16) (sl : Fin 4) (e : Fin 5) (op : Nat) (s : State) : State :=
  match op with
  | 0x00 => qNopEffect sp co sl e s
  | 0x01 => qEndEffect sp co sl e s
  | 0x02 => tlWaitEffect sp co sl e s
  | 0x03 => tlSignalEffect sp co sl e s
  | 0x04 => tlSetEffect sp co sl e s
  | 0x05 => prSetEffect sp co sl e s
  | 0x06 => prCmpEffect sp co sl e s
  | 0x07 => prLogicEffect sp co sl e s
  | 0x08 => prTallyEffect sp co sl e s
  | 0x40 => mxMmaEffect sp co sl s
  | 0x60 => vxAddEffect sp co sl s
  | 0x61 => vxSubEffect sp co sl s
  | 0x62 => vxMulEffect sp co sl s
  | 0x63 => vxFmaEffect sp co sl s
  | 0x64 => vxAxpyEffect sp co sl s
  | 0x65 => vxMinEffect sp co sl s
  | 0x66 => vxMaxEffect sp co sl s
  | 0x67 => vxCvtEffect sp co sl s
  | 0x68 => vxFillEffect sp co sl s
  | 0x69 => vxExp2Effect sp co sl s
  | 0x6A => vxLog2Effect sp co sl s
  | 0x6B => vxRcpEffect sp co sl s
  | 0x6C => vxSqrtEffect sp co sl s
  | 0x6D => vxRsqrtEffect sp co sl s
  | 0x6E => vxActEffect sp co sl s
  | 0x6F => vxRsumEffect sp co sl s
  | 0x70 => vxRmaxEffect sp co sl s
  | 0x71 => vxTrEffect sp co sl s
  | 0x72 => vxRotEffect sp co sl s
  | 0x79 => vxIaddEffect sp co sl s
  | _ => s

/-- Issued commands of a queue that run to completion do so. -/
def runIssued (sp : Fin 8) (co : Fin 16) (sl : Fin 4) (e : Fin 5) : Nat → State → State
  | 0, s => s
  | k + 1, s => match headIssued s (slotKey sp co sl) e with
    | some c => runIssued sp co sl e k (runOne sp co sl e (wOp (cmdWords c)) s)
    | none => s

/-- Executed commands at the front of a queue complete. -/
def releaseDone (sp : Fin 8) (co : Fin 16) (sl : Fin 4) (e : Fin 5) : Nat → State → State
  | 0, s => s
  | k + 1, s =>
    releaseDone sp co sl e k (if commandCompleteReady sp co sl e s then commandCompleteEffect sp co sl e s else s)

/-- The queues of a slot brought to their boundary: faults already met are taken, issued commands
run, and completed ones signal. -/
def drainSlot (sp : Fin 8) (co : Fin 16) (sl : Fin 4) (s : State) : State :=
  ([0, 1, 2, 3, 4] : List (Fin 5)).foldl (fun acc (e : Fin 5) =>
    let n := (getQ acc (slotKey sp co sl) e).cmds.length
    let s1 := if (getQ acc (slotKey sp co sl) e).pend.isSome && translationFaultReady sp co sl e acc
      then translationFaultEffect sp co sl e acc else acc
    releaseDone sp co sl e n (runIssued sp co sl e n s1)) s

/-! ### Aborts (R138, R139) -/

/-- Effect of the oldest issued command of an LD or ST queue. -/
def runMem (sp : Fin 8) (co : Fin 16) (sl : Fin 4) (e : Fin 5) (op : Nat) (s : State) : State :=
  match op with
  | 0x20 => ldTEffect sp co sl s
  | 0x21 => ldGEffect sp co sl s
  | 0x22 => ldBEffect sp co sl s
  | 0x80 => stTEffect sp co sl s
  | 0x81 => stSEffect sp co sl s
  | 0x82 => stRedEffect sp co sl s
  | 0x83 => stSredEffect sp co sl s
  | 0x84 => stBEffect sp co sl s
  | 0x9C => memFlushEffect sp co sl s
  | 0x9D => memInvalEffect sp co sl s
  | 0x9E => memFlinvEffect sp co sl s
  | _ => runOne sp co sl e op s

/-- Issued commands of an LD or ST queue run, one after the other. -/
def runMems (sp : Fin 8) (co : Fin 16) (sl : Fin 4) (e : Fin 5) : Nat → State → State
  | 0, s => s
  | k + 1, s => match headIssued s (slotKey sp co sl) e with
    | some c => runMems sp co sl e k (runMem sp co sl e (wOp (cmdWords c)) s)
    | none => s

/-- Issued commands of a queue up to the last one that moves data. -/
def issuedMems (q : Queue) : Nat :=
  let l := q.cmds.filter (fun c => c.phase == .issued)
  l.zipIdx.foldl (fun n x => if wOp (cmdWords x.1) ≥ 0x20 then x.2 + 1 else n) 0

/-- What a slot's queues have issued to memory completes: the issued commands of LD and ST that no error has stopped
(R139). -/
def abortIssued (s : State) (key : Nat) : State :=
  let sp : Fin 8 := Fin.ofNat 8 (keySpan key)
  let co : Fin 16 := Fin.ofNat 16 (keyCore key)
  let sl : Fin 4 := Fin.ofNat 4 (keySlot key)
  ([0, 3] : List (Fin 5)).foldl (fun acc (e : Fin 5) =>
    let q := getQ acc key e
    if q.st == .haltErr then acc
    else releaseDone sp co sl e q.cmds.length (runMems sp co sl e (issuedMems q) acc)) s

/-- Whether a queue waits for more than its tally holds, on a tally that a signal adds to. -/
def waitsFor (p : CorePart) (g : Signal) (q : Queue) : Bool :=
  q.st == .wait && q.waitTally == g.tally && !tallyReached (tallyOf p q.waitTally) q.waitTarget

/-- Items whose launches wait on another core for a signal: in the target's slot, or in its stored part. -/
def waiters (s : State) (key : Nat) (g : Signal) : List Nat :=
  let co := coreAliased s g.span g.core
  if g.span = keySpan key ∧ co = keyCore key then []
  else
    let p := match residentSlot s g.span co g.ctx with
      | some sl => (getSlot s (slotKey g.span co sl)).part
      | none => match getRec s g.span g.ctx with
        | some r => look r.parts co newPart
        | none => newPart
    p.queues.zipIdx.filterMap (fun x => if waitsFor p g x.1 then (curLaunch p x.2).map (·.item) else none)

/-- The signals that an abort discards: those of decoded commands that have not performed them, and of the commands that
a halt has discarded already (R137, R139). -/
def discardedSignals (s : State) (key : Nat) : List Signal :=
  ([0, 1, 2, 3, 4] : List Nat).flatMap (fun e =>
    (((getQ s key e).gone ++ (getQ s key e).cmds).filter cmdSignals).map (fun c => cmdSignal s key e c 0))

/-- The items of consumers on other cores that wait for a discarded signal end with the abort's error (R139; DEDUCED,
log entry 74). -/
def waitersEnd (s : State) (key : Nat) (byError : Bool) : State :=
  let er := (getSlot s key).part.err.getD (0, 0, 0)
  ((discardedSignals s key).flatMap (waiters s key)).foldl (fun acc id =>
    if byError then itemError acc id er.2.1 er.1 (keyCore key) (keySpan key) er.2.2
    else itemError acc id eLaunchAborted 0 0 0 0) s

/-- ABORT of a slot, by a write or by Fenivar (R139, R655): what has issued to memory completes, everything else is
discarded, and with `ends` the launches' items end. -/
def slotAbort (s : State) (key : Nat) (byError ends : Bool) : State :=
  let s1 := abortIssued s key
  abortSlot (if ends then waitersEnd s1 key byError else s1) key byError ends

/-- ABORT by a write: every discarded launch ends with LAUNCH_ABORTED (R139, R655). -/
def slotAbortEffect (sp : Fin 8) (co : Fin 16) (sl : Fin 4) (m : Nat) (s : State) : State :=
  guarded s (pgCq sp co) m (0x208 + 0x40 * sl) (slotAbort s (slotKey sp co sl) false true)

/-- SLOT_ABORT (R139). -/
def execSlotAbort (sp : Fin 8) (co : Fin 16) (sl : Fin 4) (m : Nat) (s : State) :
    Host.Outcome State Fault Refusal :=
  .next (clocked s (if coreAbsent s sp co then rejectPath s .absent m (0x208 + 0x40 * sl) 0
    else slotAbortEffect sp co sl m s))

/-- Whether a slot has a queue in HALT_ERR for Fenivar to handle. -/
def queueErrorHandlingReady (sp : Fin 8) (co : Fin 16) (sl : Fin 4) (s : State) : Bool :=
  (getSlot s (slotKey sp co sl)).part.queues.any (fun q => q.st == .haltErr)

/-- Whether the item of a slot's halted launch is held for replay instead of ending: a failed port
or a page under restore stopped it (R506, R542). -/
def heldItem (s : State) (key : Nat) : Option Item :=
  let x := getSlot s key
  match x.part.err.bind (fun er => curLaunch x.part er.1) with
  | some l => match getItem s l.item with
    | some it => if it.held != 0 then some it else none
    | none => none
  | none => none

/-- Fenivar aborts the slot and reports the error with the item's completion; a held item does not
end, and work that a failed port stopped without a journal ends with ITEM_FAILED (R138, R506, R655, 15). -/
def queueErrorHandlingEffect (sp : Fin 8) (co : Fin 16) (sl : Fin 4) (s : State) : State :=
  let key := slotKey sp co sl
  match heldItem s key with
  | some it => slotAbort (putItem s { it with replay := true }) key true false
  | none =>
    let er := (getSlot s key).part.err.getD (0, 0, 0)
    if er.2.1 = eHostErr && portFailed s (ctxFunc s (slotCtx s key)) then
      match curLaunch (getSlot s key).part er.1 with
      | some l => slotAbort (itemError s l.item eItemFailed 0 0 0 0) key true true
      | none => slotAbort s key true true
    else slotAbort s key true true

/-- QUEUE_ERROR_HANDLING (R138). -/
def execQueueErrorHandling (sp : Fin 8) (co : Fin 16) (sl : Fin 4) (s : State) :
    Host.Outcome State Fault Refusal :=
  .next (clocked s (if queueErrorHandlingReady sp co sl s then queueErrorHandlingEffect sp co sl s else s))

/-! ### Stored queues (R124, R387) -/

/-- The restart record of a stored queue of engine `e`: an LD or ST command that has issued stands at its last issued
position, its first one if none has been done, with FAULT_VA zero (R387). -/
def restartStored (e : Nat) (q : Queue) : Restart :=
  match q.cmds.find? (fun c => c.phase == .issued) with
  | some c =>
    if q.st == .fault || !(e == 0 || e == 3) then q.restart
    else { (if q.restart.cmdVa = c.pc then q.restart else noRestart) with cmdVa := c.pc, faultVa := 0 }
  | none => q.restart

/-- A queue of engine `e` as its stored part holds it: commands that have not issued are discarded, a wait keeps its
remaining timeout, an executing LD or ST command stands at its restart record, and no accumulator tile goes with it
(R150, R387). DESIGN CHOICE: the remaining
timeout is rounded up to whole units of 1,024 ticks, and one that has not expired is stored as at least 1 (log
entry 50). -/
def queueStored (now e : Nat) (q : Queue) : Queue :=
  let keep := q.cmds.filter (fun c => c.phase != .decoded)
  let pc := match q.cmds.find? (fun c => c.phase == .decoded) with | some c => c.pc | none => q.pc
  let left := if q.waitLeft = 0 then 0 else max 1 (q.waitLeft - (now - q.waitAt) / 1024)
  { q with
    st := if q.st == .credit then .run else q.st
    pc := if q.st == .haltErr then q.pc else pc
    fetchPc := pc, buf := [], cmds := keep, waitLeft := left, restart := restartStored e q, tile := none }

/-- Whether a stored part can run: it is not blocked, or a wait of it is reached (R389, R393). -/
def partRunnable (p : CorePart) : Bool :=
  !slotBlocked { emptySlot with ctx := some 0, part := p }
    || p.queues.any (fun q => q.st == .wait && tallyReached (tallyOf p q.waitTally) q.waitTarget)

/-- Slots of a span in which a context is resident. -/
def residentCores (s : State) (span ctx : Nat) : List Nat :=
  (List.range 16).filter (fun c => (residentSlot s span c ctx).isSome)

/-- The context of a slot evicted (R387). -/
def evictSlot (sp : Fin 8) (co : Fin 16) (sl : Fin 4) (save : Bool) (s : State) : State :=
  let key := slotKey sp co sl
  let s1 := drainSlot sp co sl s
  let x := getSlot s1 key
  match x.ctx with
  | none => s1
  | some ctx =>
    let base := getF s1 fLmxWinBase (pgLmx sp co) sl
    let s2 := specCancel s1 key (x.part.queues.flatMap (·.cmds))
    let p := { x.part with
      queues := x.part.queues.zipIdx.map (fun q => queueStored s.tick q.2 q.1)
      winRetained := !save, winBase := if save then 0 else base }
    let since := if x.blocked then x.since else s.tick
    let s3 := { s2 with core := { s2.core with slots := put s2.core.slots key { emptySlot with since := since } } }
    match getRec s3 sp ctx with
    | none => s3
    | some r =>
      let win := match getCtx s3 ctx with | some c => c.win | none => 0
      let r1 := { r with parts := put r.parts co.val p, parkedAt := put r.parkedAt co.val s.tick }
      let s4 := putRec s3 sp ctx (if partRunnable p then recRunnable s3 r1 co else r1)
      if save then windowSave s4 sp co base win (saveArea r co win) else s4

/-- Whether a context is pinned on a core: in locked cadence an active entry names both (R429). -/
def pinned (s : State) (span core ctx : Nat) : Bool :=
  getF s fFrameCtrlMode pgFrame == 1
    && (getSched s span).active.any (fun e => e.ctx == ctx && bitAt e.coreMask core)

/-- Why a write of CTXS.EVICT is rejected (R411). -/
def evictRejects (sp : Fin 8) (co : Fin 16) (sl : Fin 4) (s : State) : Option Rej :=
  if getB s fCtxsStatusBusy (pgCtxs sp) then some .busy
  else if coreAbsent s sp co then some .absent
  else if (getSlot s (slotKey sp co sl)).ctx.isNone then some .range
  else none

/-- CTXS.EVICT written; Fenivar never evicts a pinned context (R429). -/
def ctxEvictEffect (sp : Fin 8) (co : Fin 16) (sl : Fin 4) (save : Bool) (m : Nat) (s : State) : State :=
  match evictRejects sp co sl s with
  | some c => reject s (pgCtxs sp) c m 0x118 0
  | none => if m = 4 && pinned s sp co (slotCtx s (slotKey sp co sl)) then s else evictSlot sp co sl save s

/-- CTX_EVICT (R387). -/
def execCtxEvict (sp : Fin 8) (co : Fin 16) (sl : Fin 4) (save : Bool) (m : Nat) (s : State) :
    Host.Outcome State Fault Refusal :=
  .next (clocked s (guarded s (pgCtxs sp) m 0x118 (ctxEvictEffect sp co sl save m s)))

/-! ### Switch-in (R388) -/

/-- A stored queue as it continues in a slot: a resolved fault restarts, and a wait's timeout runs
again. -/
def queueLoaded (now : Nat) (p : CorePart) (e : Nat) (q : Queue) : Queue :=
  let q1 := { q with waitAt := now }
  if q.st == .fault && q.resolved then queueRefault p e q1
  else if q.st == .haltErr then { q1 with pend := none } else q1

/-- Errors that arose for a parked context's queues, recorded in its slot (R137). -/
def loadErrors (s : State) (key : Nat) (p : CorePart) : State :=
  p.queues.zipIdx.foldl (fun acc q =>
    match q.1.pend with
    | some f =>
      if f.source = 9 then
        let s1 := if poisonCode f.cause then logPoison acc key f.cause f.va q.1.pc else acc
        slotError s1 key q.2 f.cause q.1.pc
      else acc
    | none => acc) s

/-- The record of a context placed into a slot at a base (R388). -/
def switchIn (sp : Fin 8) (co : Fin 16) (sl : Fin 4) (ctx base : Nat) (s : State) : State :=
  match getRec s sp ctx, getCtx s ctx with
  | some r, some c =>
    let key := slotKey sp co sl
    let p := look r.parts co.val newPart
    let r1 := { r with
      parts := del r.parts co.val, runnable := setBits r.runnable co 1 0
      runSince := del r.runSince co.val, parkedAt := del r.parkedAt co.val }
    let s1 := setF (putRec s sp ctx r1) fLmxWinBase (pgLmx sp co) base sl
    let s2 := if p.winRetained then s1 else windowLoad s1 sp co base c.win (saveArea r co c.win)
    let qs := p.queues.zipIdx.map (fun q => queueLoaded s.tick p q.2 q.1)
    let p1 := { p with queues := qs, winRetained := false, winBase := 0 }
    let s3 := putSlot s2 key { emptySlot with ctx := some ctx, prio := c.prio, part := p1, blocked := false, since := 0 }
    let nb := partQueue p 4
    let s4 := if nb.st == .fault && nb.resolved then resumeSeqs s3 sp co ctx else s3
    bumpF (loadErrors s4 key p) fCtxsSwitchesCount (pgCtxs sp)
  | _, _ => s

/-- Whether a stored record may be switched into a slot at a base (R411). -/
def switchFits (sp : Fin 8) (co : Fin 16) (sl : Fin 4) (ctx base : Nat) (s : State) : Bool :=
  match getRec s sp ctx, getCtx s ctx with
  | some r, some c =>
    let p := look r.parts co.val newPart
    bitAt r.coreMask co && !coreSliced s sp co && (getSlot s (slotKey sp co sl)).ctx.isNone && r.tier == .store
      && (residentSlot s sp co ctx).isNone && windowFits (otherWindows s sp co ctx none) base c.win
      && (!p.winRetained || base == p.winBase)
  | _, _ => false

/-- CTXS.SWITCH written (R388, R411). -/
def ctxSwitchEffect (sp : Fin 8) (co : Fin 16) (sl : Fin 4) (ctx base m : Nat) (s : State) : State :=
  let no (c : Rej) : State := reject s (pgCtxs sp) c m 0x120 0
  if getB s fCtxsStatusBusy (pgCtxs sp) || coreSliced s sp co then no .busy
  else if coreAbsent s sp co then no .absent
  else if !switchFits sp co sl ctx base s then no .range
  else switchIn sp co sl ctx base s

/-- CTX_SWITCH (R388). -/
def execCtxSwitch (sp : Fin 8) (co : Fin 16) (sl : Fin 4) (ctx base m : Nat) (s : State) :
    Host.Outcome State Fault Refusal :=
  .next (clocked s (guarded s (pgCtxs sp) m 0x120 (ctxSwitchEffect sp co sl ctx base m s)))

/-! ### Swapped records (R385) -/

/-- Records in the store of a span. -/
def storeUsed (s : State) (span : Nat) : Nat :=
  (s.cx.recs.filter (fun p => p.1.1 == span && p.2.tier == .store)).length

/-- Tick at which a record that is wholly parked was parked: that of the last of its cores. -/
def parkedTick (r : CtxRec) : Nat := (r.parkedAt.map (·.2)).foldl max 0

/-- The context whose parked record in the store of a span is the oldest (R382). -/
def oldestParked (s : State) (span : Nat) : Option Nat :=
  match s.cx.recs.filter (fun p => p.1.1 == span && p.2.tier == .store && (residentCores s span p.1.2).isEmpty) with
  | [] => none
  | x :: r => some (r.foldl (fun a b => if parkedTick b.2 < parkedTick a.2 then b else a) x).1.2

/-- RECORD_SWAP_OUT comes about when more than 512 contexts hold records on the span, for the record that was parked
first (R382). -/
def recordSwapOutReady (sp : Fin 8) (ctx : Nat) (s : State) : Bool :=
  decide (512 < (s.cx.recs.filter (fun p => p.1.1 == sp.val)).length) && oldestParked s sp == some ctx

/-- A parked record moves to device memory. -/
def recordSwapOutEffect (sp : Fin 8) (ctx : Nat) (s : State) : State :=
  match getRec s sp ctx with
  | some r => putRec s sp ctx { r with tier := .swapped }
  | none => s

/-- RECORD_SWAP_OUT (R385). -/
def execRecordSwapOut (sp : Fin 8) (ctx : Nat) (s : State) : Host.Outcome State Fault Refusal :=
  .next (clocked s (if recordSwapOutReady sp ctx s then recordSwapOutEffect sp ctx s else s))

/-- RECORD_SWAP_IN comes about for a swapped record when the store has room. -/
def recordSwapInReady (sp : Fin 8) (ctx : Nat) (s : State) : Bool :=
  match getRec s sp ctx with
  | some r => r.tier == .swapped && storeUsed s sp < 512
  | none => false

/-- A swapped record returns: the pending sums are added to its tallies (R118, R385). -/
def recordSwapInEffect (sp : Fin 8) (ctx : Nat) (s : State) : State :=
  match getRec s sp ctx with
  | some r =>
    let parts := r.pend.foldl (fun acc x => put acc x.1.1 (tallyAdd (look acc x.1.1 newPart) x.1.2 x.2)) r.parts
    putRec s sp ctx { r with
      tier := .store, parts := parts, pend := [], runSince := r.runSince.map (fun x => (x.1, s.tick)) }
  | none => s

/-- RECORD_SWAP_IN (R385). -/
def execRecordSwapIn (sp : Fin 8) (ctx : Nat) (s : State) : Host.Outcome State Fault Refusal :=
  .next (clocked s (if recordSwapInReady sp ctx s then recordSwapInEffect sp ctx s else s))

/-! ### RESIDENT_STALL (R391 to R393) -/

/-- Records in the store of a span that are runnable on a core: context and record. -/
def runnableOn (s : State) (span core : Nat) : List (Nat × CtxRec) :=
  (s.cx.recs.filter (fun p => p.1.1 == span && p.2.tier == .store && bitAt p.2.coreMask core
    && (bitAt p.2.runnable core || bitAt p.2.runnable 16) && (residentSlot s span core p.1.2).isNone)).map
    (fun p => (p.1.2, p.2))

/-- Tick since which a record has been runnable on a core, in the store: the earlier one of RUNNABLE bit `core` and bit
16, of those that are set (R391). -/
def runTick (r : CtxRec) (core : Nat) : Nat :=
  (([core, 16].filter (bitAt r.runnable)).map (fun b => look r.runSince b 0)).foldl min (2 ^ 64)

/-- RESIDENT_STALL comes about: every slot of the core blocked, and a record runnable, for STALL_LIMIT
microseconds. -/
def residentStallReady (sp : Fin 8) (co : Fin 16) (s : State) : Bool :=
  let lim := 1000 * getF s fCtxsStallLimitLimit (pgCtxs sp)
  !coreAbsent s sp co && !coreSliced s sp co && !bitAt (getF s fCtxsStallPend (pgCtxs sp)) co
    && [0, 1, 2, 3].all (fun sl =>
        let x := getSlot s (slotKey sp co sl)
        x.blocked && decide (x.since + lim ≤ s.tick))
    && (runnableOn s sp co).any (fun r => decide (runTick r.2 co + lim ≤ s.tick))

/-- The stall is recorded and raised to the management core. -/
def residentStallEffect (sp : Fin 8) (co : Fin 16) (s : State) : State :=
  irqSrc (bumpF (setBitF s fCtxsStallPend (pgCtxs sp) co) fCtxsStallsCount (pgCtxs sp)) (pgCtxs sp) 1

/-- RESIDENT_STALL (R392). -/
def execResidentStall (sp : Fin 8) (co : Fin 16) (s : State) : Host.Outcome State Fault Refusal :=
  .next (clocked s (if residentStallReady sp co s then residentStallEffect sp co s else s))

/-- The better of two records runnable on a core: higher priority, then runnable longer (R393). -/
def runBetter (s : State) (core : Nat) (a b : Nat × CtxRec) : Nat × CtxRec :=
  let pa := match getCtx s a.1 with | some c => c.prio | none => 0
  let pb := match getCtx s b.1 with | some c => c.prio | none => 0
  if pb > pa ∨ (pb = pa ∧ runTick b.2 core < runTick a.2 core) then b else a

/-- The runnable record that Fenivar chooses. -/
def runChoice (s : State) (span core : Nat) : Option (Nat × CtxRec) :=
  match runnableOn s span core with
  | [] => none
  | x :: r => some (r.foldl (runBetter s core) x)

/-- Base at which a record's window can stand on a core: its retained one, or the lowest that fits. DESIGN CHOICE: R386
leaves the base to Fenivar (log entry 103). -/
def baseFor (s : State) (span core ctx : Nat) (r : CtxRec) : Option Nat :=
  let p := look r.parts core newPart
  let win := match getCtx s ctx with | some c => c.win | none => 0
  if p.winRetained then some p.winBase else windowPlace (otherWindows s span core ctx none) win

/-- The retained window of a parked record on a core is saved, so that its space is free. -/
def saveRetained (s : State) (span core ctx : Nat) : State :=
  match getRec s span ctx, getCtx s ctx with
  | some r, some c =>
    let p := look r.parts core newPart
    let s1 := windowSave s span core p.winBase c.win (saveArea r core c.win)
    putRec s1 span ctx { r with parts := put r.parts core { p with winRetained := false, winBase := 0 } }
  | _, _ => s

/-- The context whose retained window on a core has been parked longest, but for one. -/
def oldestRetained (s : State) (span core ctx : Nat) : Option Nat :=
  let l := (retainedWindows s span core).filterMap (fun x =>
    if x.1 = ctx then none else (getRec s span x.1).map (fun r => (x.1, look r.parkedAt core 0)))
  match l with
  | [] => none
  | x :: r => some (r.foldl (fun a b => if b.2 < a.2 then b else a) x).1

/-- Retained windows saved, oldest-parked first, until the incoming window has room. -/
def makeRoom (span core ctx : Nat) (r : CtxRec) : Nat → State → State
  | 0, s => s
  | k + 1, s =>
    if (baseFor s span core ctx r).isSome then s
    else match oldestRetained s span core ctx with
      | some v => makeRoom span core ctx r k (saveRetained s span core v)
      | none => s

/-- The slot of a core with the earliest blocked tick, the lowest among equal ones, that holds no pinned
context. -/
def evictChoice (s : State) (span core : Nat) : Option (Fin 4) :=
  let at_ (sl : Fin 4) : Nat := (getSlot s (slotKey span core sl)).since
  let free := ([0, 1, 2, 3] : List (Fin 4)).filter (fun (sl : Fin 4) => !pinned s span core (slotCtx s (slotKey span core sl)))
  match free with
  | [] => none
  | x :: r => some (r.foldl (fun a b => if at_ b < at_ a then b else a) x)

/-- A record switched into a slot where its window has room. -/
def switchAt (sp : Fin 8) (co : Fin 16) (sl : Fin 4) (x : Nat × CtxRec) (s : State) : State :=
  match baseFor s sp co x.1 x.2 with
  | some b => if switchFits sp co sl x.1 b s then switchIn sp co sl x.1 b s else s
  | none => s

/-- A slot's context evicted for a record, with its window saved when the incoming one needs its space. -/
def switchOver (sp : Fin 8) (co : Fin 16) (sl : Fin 4) (x : Nat × CtxRec) (s : State) : State :=
  let kept := evictSlot sp co sl false s
  if (baseFor kept sp co x.1 x.2).isSome then switchAt sp co sl x kept
  else switchAt sp co sl x (makeRoom sp co x.1 x.2 600 (evictSlot sp co sl true s))

/-- Fenivar answers a stall (R393, R429). -/
def residentStallResponseEffect (sp : Fin 8) (co : Fin 16) (s : State) : State :=
  let s0 := clrBitF s fCtxsStallPend (pgCtxs sp) co
  match runChoice s sp co with
  | none => s0
  | some x =>
    match ([0, 1, 2, 3] : List (Fin 4)).find? (fun (sl : Fin 4) => (getSlot s (slotKey sp co sl)).ctx.isNone) with
    | some sl => switchAt sp co sl x (makeRoom sp co x.1 x.2 600 s0)
    | none => match evictChoice s sp co with
      | none => s0
      | some sl => switchOver sp co sl x s0

/-- RESIDENT_STALL_RESPONSE (R393). -/
def execResidentStallResponse (sp : Fin 8) (co : Fin 16) (s : State) : Host.Outcome State Fault Refusal :=
  .next (clocked s (if bitAt (getF s fCtxsStallPend (pgCtxs sp)) co then residentStallResponseEffect sp co s else s))

/-! ### Invalidation of translations (R400 to R402) -/

/-- An invalidation started, unless one runs (R413). -/
def xinvStart (s : State) (x : XinvOp) (m : Nat) : State :=
  if getB s fXinvStatusBusy pgXinv then reject s pgXinv .busy m 0x110 0
  else setB { s with cx := { s.cx with xinv := some (x, s.tick) } } fXinvStatusBusy pgXinv true

/-- XINV_RANGE (R401): the range of XINV.VA and XINV.LEN. -/
def execXinvRange (asid m : Nat) (s : State) : Host.Outcome State Fault Refusal :=
  .next (clocked s (guarded s pgXinv m 0x110
    (xinvStart s ⟨0, asid % 4096, 4096 * getF s fXinvVaVa pgXinv, getF s fXinvLenPages pgXinv⟩ m)))

/-- XINV_ASID (R401). -/
def execXinvAsid (asid m : Nat) (s : State) : Host.Outcome State Fault Refusal :=
  .next (clocked s (guarded s pgXinv m 0x110 (xinvStart s ⟨1, asid % 4096, 0, 0⟩ m)))

/-- XINV_ALL (R401). -/
def execXinvAll (m : Nat) (s : State) : Host.Outcome State Fault Refusal :=
  .next (clocked s (guarded s pgXinv m 0x110 (xinvStart s ⟨2, 0, 0, 0⟩ m)))

/-- ASID of a context, 0 where it has none. -/
def ctxAsid (s : State) (ctx : Nat) : Nat := match getCtx s ctx with | some c => c.asid | none => 0

/-- A translation of a result area that an invalidation covers is dropped: the area is translated again before the
next result is written there (R401). -/
def dropOut (s : State) (q : NbSeq) (x : XinvOp) (o : Nat × Nat × Nat) : Nat × Nat × Nat :=
  if xinvHits x (ctxAsid s q.ctx) o.1 o.2.1 then (o.1, o.2.1, 0) else o

/-- Translations that an invalidation covers dropped in every cache, the table entries of the spans among them
(R399, R401). -/
def xinvDrop (s : State) (x : XinvOp) : State :=
  let s1 := { s with cx := { s.cx with
      tlb := s.cx.tlb.filter (fun e => !xinvHits x e.asid e.vbase e.size)
      tec := s.cx.tec.filter (fun e => !xinvHits x e.asid e.vbase (levelSpan e.level)) } }
  mapSeqs s1 (fun q => if q.sys then q else { q with outs := q.outs.map (dropOut s1 q x) })

/-- Whether a running stitch of a sequence uses a translation that an invalidation begun at a tick drops: it started
before that tick, or with an entry that the tables no longer give (R401). -/
def stitchUses (s : State) (q : NbSeq) (x : XinvOp) (from_ : Nat) (st : Stitch) : Bool :=
  st.used.any (fun u => xinvHits x (ctxAsid s q.ctx) u.1 u.2.1 &&
    (decide (st.start < from_) || match getCtx s q.ctx with
      | some c => !decide (walkNow s c u.1 = .ok ⟨u.2.2, u.1, u.2.1⟩)
      | none => true))

/-- No running stitch uses a translation that an invalidation begun at a tick drops (R401). -/
def stitchesClear (s : State) (x : XinvOp) (from_ : Nat) : Bool :=
  s.memo.pccs.all (fun p => p.2.seqs.all (fun q => q.sys || !q.running.any (stitchUses s q x from_)))

/-- XINV_DONE comes about once every stitch that started with a dropped translation has ended (R401). -/
def xinvDoneReady (s : State) : Bool :=
  match s.cx.xinv with
  | none => false
  | some x => stitchesClear s x.1 x.2

/-- An invalidation has ended: BUSY clears (R401). -/
def xinvDoneEffect (s : State) : State :=
  match s.cx.xinv with
  | none => s
  | some x =>
    let s1 := xinvDrop { s with cx := { s.cx with xinv := none } } x.1
    setB (bumpF s1 fXinvStatusDone pgXinv) fXinvStatusBusy pgXinv false

/-- XINV_DONE (R401). -/
def execXinvDone (s : State) : Host.Outcome State Fault Refusal := 
  .next (clocked s (if xinvDoneReady s then xinvDoneEffect s else s))

/-! ### Moving a page (R403) -/

/-- A page-table entry written at the point of coherence. -/
def pteWrite (s : State) (a pte : Nat) : State := pocWrite s (cellOf s false a) (leBytes 8 pte)

/-- Device lines of a page dropped from every tile cache, written back first when `back`. -/
def pageUncache (s : State) (pte size : Nat) (back : Bool) : State :=
  let hit (l : TcLine) : Bool := l.intlv == pteIntlv pte && decide (pteAddr pte ≤ 128 * l.line)
    && decide (128 * l.line < pteAddr pte + size)
  s.memo.tc.foldl (fun acc l =>
    if hit l then tcDrop (if back then tcBack acc l else acc) l.span l.intlv l.line else acc) s

/-- Lines of a page copied between device addresses under one decode; poison travels. -/
def pageCopy (intlv : Bool) (src dst : Nat) : Nat → State → State
  | 0, s => s
  | k + 1, s =>
    let s0 := pageCopy intlv src dst k s
    let r := pocRead s0 (cellOf s0 intlv (src + 128 * k) / 128)
    (List.range 4).foldl (fun acc c =>
      let cell := cellOf acc intlv (dst + 128 * k) + 32 * c
      if bitAt r.1.poison c then pocPoison acc cell else pocWrite acc cell ((r.1.data.drop (32 * c)).take 32)) r.2

/-- Whether a page of a context lies in a row-placed region (R403). -/
def rowPlaced (s : State) (ctx vbase size : Nat) : Bool :=
  s.cx.placed.any (fun x => x.ctx == ctx && decide (x.va < vbase + size) && decide (vbase < x.va + 65536 * x.blocks))

/-- The invalidation of one page of a context. -/
def pageXinv (c : Ctx) (va size : Nat) : XinvOp := ⟨0, c.asid, va / size * size, size / 4096⟩

/-- PAGE_MOVE comes about: the address has a device leaf, outside every row-placed region; the new block is aligned,
exists and is not withdrawn; no invalidation runs; and every stitch that uses the page has ended (R401, R403). -/
def pageMoveReady (ctx va da : Nat) (s : State) : Bool :=
  match getCtx s ctx with
  | none => false
  | some c => match ctxLeaf s c va with
    | none => false
    | some l => decide (pteKind l.2.1 ≤ 1) && da % l.2.2 == 0 && daOk s (da + l.2.2 - 1)
        && !blockWithdrawn s da && !rowPlaced s ctx (va / l.2.2 * l.2.2) l.2.2 && s.cx.xinv.isNone
        && stitchesClear s (pageXinv c va l.2.2) (s.tick + 1)

/-- Fenivar moves a mapped page to another block: the five steps of R403. -/
def pageMoveEffect (ctx va da : Nat) (s : State) : State :=
  match getCtx s ctx with
  | none => s
  | some c => match ctxLeaf s c va with
    | none => s
    | some (a, pte, size) =>
      let s1 := pteWrite s a (setBits pte 0 1 0)
      let s2 := bumpF (xinvDrop s1 (pageXinv c va size)) fXinvStatusDone pgXinv
      let s3 := pageUncache s2 pte size true
      let s4 := pageCopy (pteIntlv pte) (pteAddr pte) da (size / 128) s3
      let s5 := pteWrite s4 a (pte % 4096 + da)
      pageUncache s5 pte size false

/-- PAGE_MOVE (R403). -/
def execPageMove (ctx va da : Nat) (s : State) : Host.Outcome State Fault Refusal :=
  .next (clocked s (if pageMoveReady ctx va da s then pageMoveEffect ctx va da s else s))

/-! ### Retirement of a core (R141, R421) -/

/-- Schedule entries of a span stop firing from the next frame, and Fenivar has the degraded table to report to the rein
holder (R421, R422). DESIGN CHOICE: the report stands in the state until a table is activated, since no command of the
mailbox carries it (log entry 104). -/
def stopEntries (s : State) (span : Nat) (hit : SEntry → Bool) : State :=
  let u := getSched s span
  if !u.active.any hit then s
  else
    let act := u.active.map (fun x => if hit x then { x with stopNext := true } else x)
    let s1 := putSched s span { u with active := act }
    { s1 with sch := { s1.sch with degraded := setIns s1.sch.degraded span } }

/-- Whether a launch of an item goes to a core, by name or as the one that stands for it (R540). -/
def itemOnCore (s : State) (it : Item) (span core : Nat) : Bool :=
  it.launches.any (fun d => d.span == span && (d.core == core || coreAliased s span d.core == core))

/-- Items that used a failed core: a journaled one is to be replayed, another ends with ITEM_FAILED
(R141, R556, 15). -/
def itemsLost (s : State) (hit : Item → Bool) : State :=
  s.ho.items.foldl (fun acc it =>
    if !hit it then acc
    else if it.journaled then putItem acc { it with replay := true }
    else itemError acc it.id eItemFailed 0 0 0 0) s


/-- Saved windows of a record on the cores that a mask names, with the bytes and poisoned columns that stand in their save
areas (R386). -/
def savedWindows (s : State) (r : CtxRec) (win : Nat) (cores : List Nat) : List (Nat × List Byte × List Nat) × State :=
  cores.foldl (fun acc core =>
    let a := daRead acc.2 (saveArea r core win) (65536 * win)
    (acc.1 ++ [(core, a.1, a.2.1)], a.2.2)) ([], s)

/-- CORE_MASK of a record changed: the save areas of windows that stand there move with the ranks of their cores, so that
each window keeps its bytes (R386). DEDUCED: log entry 105. -/
def recMask (s : State) (span ctx mask : Nat) (r : CtxRec) : State :=
  let win := match getCtx s ctx with | some c => c.win | none => 0
  let cores := (List.range 16).filter (fun c => bitAt r.coreMask c && bitAt mask c && has r.parts c
    && !(look r.parts c newPart).winRetained && coreRank r.coreMask c != coreRank mask c)
  let w := savedWindows s r win cores
  let r1 := { r with coreMask := mask }
  w.1.foldl (fun acc x => daWrite acc (saveArea r1 x.1 win) x.2.1 x.2.2) (putRec w.2 span ctx r1)

/-- A record no longer names a retired core (R141). -/
def recDropCore (span core : Nat) (s : State) (ctx : Nat) : State :=
  match getRec s span ctx with
  | none => s
  | some r => recMask s span ctx (setBits r.coreMask core 1 0)
      { r with runnable := setBits r.runnable core 1 0, parts := del r.parts core }

/-- A core retired in operation (R141): it stops at once, its slots are lost, records no longer name
it, entries that name it stop, and its items are replayed. `cause` is BLK_ID.CAUSE. -/
def coreRetire (s : State) (span core cause : Nat) : State :=
  let s1 := { s with core := { s.core with
    absent := put s.core.absent (coreNo span core) cause
    slots := s.core.slots.filter (fun p => p.1 / 4 ≠ coreNo span core) } }
  let s2 := ((s1.cx.recs.filter (fun p => p.1.1 == span && bitAt p.2.coreMask core)).map (·.1.2)).foldl (recDropCore span core) s1
  itemsLost (stopEntries s2 span (fun x => bitAt x.coreMask core)) (fun it => itemOnCore s it span core)

/-- CORE_RETIRE comes about for a present core. -/
def coreRetireReady (sp : Fin 8) (co : Fin 16) (s : State) : Bool := !coreAbsent s sp co

/-- CORE_RETIRE (R141). -/
def execCoreRetire (sp : Fin 8) (co : Fin 16) (s : State) : Host.Outcome State Fault Refusal :=
  .next (clocked s (if coreRetireReady sp co s then coreRetire s sp co 3 else s))

/-! ### The end of a context (R380, R410, R422, R655) -/

/-- Slots in which a context is resident. -/
def ctxSlots (s : State) (ctx : Nat) : List Nat :=
  (s.core.slots.filter (fun p => p.2.ctx == some ctx)).map (·.1)

/-- Launches of a context that wait at their source are discarded (R655). -/
def dropWaiting (s : State) (ctx : Nat) : State :=
  let gone := s.core.waiting.filter (fun d => d.ctx == ctx)
  let s1 := { s with core := { s.core with waiting := s.core.waiting.filter (fun d => d.ctx ≠ ctx) } }
  gone.foldl (fun acc d => launchDiscard acc d.launch eLaunchAborted 0 0 0 0) s1

/-- A record of a context on one span lost: its slots are aborted and freed, its stored launches end,
and entries that name it stop firing there (R422, R655). -/
def dropRecord (s : State) (span ctx : Nat) : State :=
  match getRec s span ctx with
  | none => s
  | some r =>
    let mine := (ctxSlots s ctx).filter (fun k => keySpan k == span)
    let s1 := mine.foldl (fun acc k => slotAbort acc k false true) s
    let slots := mine.foldl (fun acc k =>
      let x := getSlot s k
      put acc k { emptySlot with since := if x.blocked then x.since else s.tick }) s1.core.slots
    let s2 := (r.parts.flatMap (·.2.launches)).foldl (fun acc l => launchDiscard acc l eLaunchAborted 0 0 0 0)
      { s1 with core := { s1.core with slots := slots } }
    let s3 := { s2 with cx := { s2.cx with recs := del s2.cx.recs (span, ctx) } }
    stopEntries s3 span (fun x => x.ctx == ctx)

/-- Running sequences of a context start no further stitch (R410). -/
def stopSeqs (s : State) (ctx : Nat) : State :=
  mapSeqs s (fun q =>
    if q.sys || q.ctx ≠ ctx then q
    else match q.st with
      | .faulted _ (some k) _ => { q with st := .saved k, stop := true }
      | .faulted _ none _ => { q with st := .running, stop := true }
      | _ => { q with stop := true })

/-- A context ends wherever it is held: slots aborted, records discarded, sequences stopped, its
translations dropped once no context holds the ASID (R380, R410, R655). -/
def destroyCtx (s : State) (ctx : Nat) : State :=
  let asid := ctxAsid s ctx
  let s1 := dropWaiting s ctx
  let s2 := (List.range 8).foldl (fun acc sp => dropRecord acc sp ctx) s1
  let s3 := stopSeqs s2 ctx
  let cx := { s3.cx with
    ctxs := del s3.cx.ctxs ctx
    placed := s3.cx.placed.filter (fun x => x.ctx ≠ ctx)
    numev := s3.cx.numev.filter (fun p => p.1.2 ≠ ctx)
    dmaev := s3.cx.dmaev.filter (fun p => p.1.2 ≠ ctx) }
  let s4 := { s3 with cx := cx }
  if s4.cx.ctxs.any (fun p => p.2.asid == asid) then s4 else xinvDrop s4 ⟨1, asid, 0, 0⟩

/-- Contexts bound to a function. -/
def fnCtxs (s : State) (fn : Nat) : List Nat := (s.cx.ctxs.filter (fun p => p.1 ≠ 0 && p.2.func == fn)).map (·.1)

/-- Every context bound to a function ends, and the function's ASIDs are invalidated, those that a context of another
function shares included (R410). -/
def functionReset (s : State) (fn : Nat) : State :=
  (fnCtxs s fn).foldl (fun acc ctx => xinvDrop (destroyCtx acc ctx) ⟨1, ctxAsid s ctx, 0, 0⟩) s

end Sys2Proof.Machine
end

