-- ==== Sys2Proof/Machine/Items.lean ====
section
/-!
DEFINITION. Work items (R546 to R556): checkpoints, the launches of an item, and the accounts of live
launches that the schedule and the host need.
-/
namespace Sys2Proof.Machine

/-- Key of a context's slot on a core, among checkpoints. -/
def ckptKey (d : Delivery) : Nat := 4096 * coreNo d.span d.core + d.ctx

/-- Tallies 0 to 63 of a context on a core. -/
def itemTallies (s : State) (d : Delivery) : List (Nat × Nat) :=
  match ctxPartAt s d.span (coreAliased s d.span d.core) d.ctx with
  | some p => (List.range 64).map (fun t => (t, tallyOf p t))
  | none => []

/-- Send rings of the package that a context owns, with their HEADs. -/
def ctxHeads (s : State) (ctx : Nat) : List ((Nat × Nat) × Nat) :=
  (List.range 8).flatMap (fun sp => (List.range 64).filterMap (fun k =>
    if getF s fZringCfgCtx (pgZring sp) k = ctx ∧ getF s fZringBaseBase (pgZring sp) k ≠ 0
    then some ((sp, k), getF s fZringStateHead (pgZring sp) k) else none))

/-- An item opened without launches: it takes the next number, and is journaled while the journal is
enabled, with a record (R546, R547). -/
def itemOpen (s : State) (src : LaunchSrc) (user ctx : Nat) : Nat × State :=
  let id := s.ho.nextItem
  let j := getB s fJrnlCtrlEnable pgJrnl
  let it : Item := ⟨id, src, j, user, ctx, [], 0, 0, 0, 0, 0, 0, [], [], [], 0, false, 0, 0, none⟩
  let s1 := { s with
    ho := { s.ho with items := s.ho.items ++ [it], nextItem := id + 1 }
    er := { s.er with openItems := if j then s.er.openItems ++ [id] else s.er.openItems } }
  (id, if j then jrnlWrite (bumpF s1 fJrnlAcceptedCount pgJrnl) else s1)

/-- A launch sent to a core of a span for an item: it waits at its source (R94, R96), and the item's
checkpoint takes the tallies of its slot and the HEADs of its context's rings (R546). -/
def sendLaunch (s : State) (id span core ctx : Nat) (l : Launch) : State :=
  let l1 := { l with serial := s.core.nextSerial, item := id }
  let d : Delivery := ⟨span, core, ctx, l1⟩
  let s1 := { s with core := { s.core with waiting := s.core.waiting ++ [d], nextSerial := s.core.nextSerial + 1 } }
  match getItem s1 id with
  | none => s1
  | some it =>
    let heads := if it.launches.any (fun x => x.ctx == ctx) then it.ckptHeads else it.ckptHeads ++ ctxHeads s1 ctx
    putItem s1 { it with
      launches := it.launches ++ [d], left := it.left + 1
      ckptTallies := it.ckptTallies ++ [(ckptKey d, itemTallies s1 d)], ckptHeads := heads }

/-- A launch that has not started, with its parameters. -/
def freshLaunch (kernel seedVal seedMask : Nat) (src : LaunchSrc) (due budget tag : Nat) : Launch :=
  ⟨0, false, kernel, seedVal, seedMask, 0, [], 0, 0, src, 0, due, budget, tag⟩

/-- Cores of a mask, in ascending order. -/
def maskCores (mask : Nat) : List Nat := (List.range 16).filter (bitAt mask)

/-- Every launch of the package that has been accepted and has not ended. -/
def liveLaunches (s : State) : List Launch :=
  s.core.waiting.map (·.launch) ++ s.core.slots.flatMap (fun p => p.2.part.launches)
    ++ s.cx.recs.flatMap (fun p => p.2.parts.flatMap (·.2.launches))

/-- Launches that a context holds on a core, or on the one that stands for it, with those that wait for it at their source
(R96, R540). -/
def listLength (s : State) (span core ctx : Nat) : Nat :=
  let co := coreAliased s span core
  (match ctxPartAt s span co ctx with | some p => p.launches.length | none => 0)
    + (s.core.waiting.filter (fun d => d.span == span && coreAliased s span d.core == co && d.ctx == ctx)).length

end Sys2Proof.Machine
end

