-- ==== Sys2Proof/Machine/Energy.lean ====
section
/-!
DEFINITION. What the power allocator needs at frame starts (16): single-precision steps of the pseudo-code, the
limits in force, the learned frame powers and the thermal duty.
-/
namespace Sys2Proof.Machine

/-! ### Single-precision steps -/

/-- A rounded sum. -/
def f32Add (a b : Num) : Num := roundFp32 (numAdd a b)
/-- A rounded difference. -/
def f32Sub (a b : Num) : Num := roundFp32 (numSub a b)
/-- A rounded product. -/
def f32Mul (a b : Num) : Num := roundFp32 (numMul a b)
/-- A rounded quotient. -/
def f32Div (a b : Num) : Num := roundFp32 (numDiv a b)
/-- A whole number. -/
def f32Of (n : Nat) : Num := roundFp32 (numOfInt n)
/-- Whether `a` is at most `b`. -/
def numLe (a b : Num) : Bool := !numLt b a
/-- The smaller of two values. -/
def f32Min (a b : Num) : Num := if numLt b a then b else a
/-- The larger of two values. -/
def f32Max (a b : Num) : Num := if numLt a b then b else a

/-- Sum of products in ascending index. -/
def f32Dot (a b : List Num) : Num := (List.zip a b).foldl (fun acc x => f32Add acc (f32Mul x.1 x.2)) numZero

/-- Whole part of a value that is not negative. -/
def numFloor (x : Num) : Nat :=
  match x with
  | .fin false m e => if e ≥ 0 then m * 2 ^ e.toNat else m / 2 ^ (-e).toNat
  | _ => 0

/-! ### Limits (R572) -/

/-- The power state replaced. -/
def putPower (s : State) (p : PowerSt) : State := { s with pkg := { s.pkg with power := p } }

/-- LIMIT in W: the 3,000 W cap or the budget in force. -/
def limitW (s : State) : Nat := min 3000 (s.pkg.power.budget.getD 3000)

/-- Whether the cadence is locked. -/
def cadenceLocked (s : State) : Bool := getB s fFrameCtrlMode pgFrame

/-- LIMIT as the cap limiter uses it. -/
def capW (s : State) : Nat := if cadenceLocked s then s.pkg.power.capLimit else limitW s

/-! ### Frames (R581) -/

/-- A two's-complement temperature of 16 bits. -/
def temp16 (v : Nat) : Int := if v % 65536 < 32768 then (v % 65536 : Nat) else (v % 65536 : Nat) - 65536

/-- TILE_MAX of a span. -/
def tileMax (s : State) (span : Nat) : Int := temp16 (getF s fThermSpanTileMax pgTherm span)

/-- A learned power moved by one eighth of the difference. -/
def learnEighth (old : Nat) (x : Num) : Nat :=
  fp32Code (f32Add (fp32Val old) (f32Div (f32Sub x (fp32Val old)) (f32Of 8)))

/-- At the end of a frame in locked cadence, W or I takes the frame's mean power. -/
def frameEnergy (s : State) : State :=
  let p := s.pkg.power
  let x := f32Div (numOfInt p.frameSum) (numOfInt p.frameN)
  let l := if !cadenceLocked s || getB s fPwrLearnFreeze pgPwr || p.frameN == 0 then p.learned
    else if getB s fFrameStatusIdle pgFrame then { p.learned with idle := learnEighth p.learned.idle x }
    else { p.learned with work := learnEighth p.learned.work x }
  putPower s { p with learned := l, frameSum := 0, frameN := 0 }

/-- The thermal duty at a cycle boundary in locked cadence: it falls while a span is above 100 degrees and rises
after four boundaries below 97 degrees. -/
def thermalDuty (s : State) (n : Nat) : State :=
  if n % 16 ≠ 0 ∨ !cadenceLocked s then s
  else
    let p := s.pkg.power
    let l := p.learned
    let l1 :=
      if (List.range 8).any (fun sp => decide (tileMax s sp > 800)) then { l with dth := max 1 (l.dth - 1), cool := 0 }
      else if (List.range 8).all (fun sp => decide (tileMax s sp < 776)) then
        (if l.cool + 1 ≥ 4 then { l with dth := min 16 (l.dth + 1), cool := 0 } else { l with cool := l.cool + 1 })
      else { l with cool := 0 }
    putPower s { p with learned := l1 }

end Sys2Proof.Machine
end

