-- ==== Sys2Proof/Machine/KvPages.lean ====
section
/-!
DEFINITION. KV pages (R346, R347, R354, R362, R373 to R377): a model's page geometry, the mapping of page numbers in its
pools, copies within the package and to the host, and the freeing of blocks.
-/
namespace Sys2Proof.Machine

/-! ### Geometry (R346 to R349, R353, R354) -/

/-- Page size of a model in bytes (R346). -/
def kvPs (model : Nat) : Nat := match Config.kvPgsz model with | 0 => 16384 | 2 => 262144 | _ => 65536

/-- Page rows of a page (R347). -/
def kvRows (model : Nat) : Nat := kvPs model / 2048

/-- Tokens of a page of a model: T slots in each of its page rows (R348, R349, R353). -/
def pageTokens (model : Nat) : Nat :=
  max 1 (rowTokens (Config.kvDim model * Config.kvWidth model / 8) (Config.kvDim model) (Config.kvMx32 model) * kvRows model)

/-- Targets of a model's page lists. -/
def kvNt (model : Nat) : Nat := max 1 (Config.kvTargets model)

/-- Global pages of a windowed sequence's ring, 0 without a window: NPAGES pages on each target (R354). -/
def kvRing (model : Nat) : Nat := ceilDiv (Config.kvWindow model) (kvNt model * pageTokens model) * kvNt model

/-- Global page and slot of a token (R353). -/
def tokenPlace (model t : Nat) : Nat × Nat :=
  let tp := pageTokens model
  let p := if kvRing model = 0 then t else t % (kvRing model * tp)
  (p / tp, p % tp)

/-- Pool `i` of a model: context, KV_LO, pages and the pseudo-channels of its targets. -/
def kvPool (model i : Nat) : Nat × Nat × Nat × List Nat := (Config.kvPools model).getD i (0, 0, 0, [])

/-- Page numbers of a model: those that name a page in every pool (R346, R347). -/
def kvPages (model : Nat) : Nat := (Config.kvPools model).foldl (fun n p => min n p.2.2.1) (2 ^ 32)

/-- Pseudo-channel on which pool `i` of a model holds a global page index (R347). -/
def kvPc (model i g : Nat) : Nat :=
  let ts := (kvPool model i).2.2.2
  ts.getD (g % max 1 ts.length) 0 % 512

/-- Bytes of one page number over every pool of a model. -/
def kvPageBytes (model : Nat) : Nat := (Config.kvPools model).length * kvPs model

/-! ### Free identifiers -/

/-- The first number from `c` on, modulo `n`, that is not taken. -/
def firstFree (n : Nat) (taken : List Nat) : Nat → Nat → Nat
  | 0, c => c
  | k + 1, c => if taken.contains (c % n) then firstFree n taken k (c % n + 1) else c % n

/-- An identifier below `n` that is not taken; which one is free. -/
def pickFree (s : State) (n : Nat) (taken : List Nat) : Nat × State :=
  let r := freeWord s
  (firstFree n taken (taken.length + 1) (r.1.toNat % n), r.2)

/-! ### Blocks of a pseudo-channel (R209, R347, R373) -/

/-- Bytes of one piece of a page: a block of 64 KiB, or a quarter of one. -/
def pieceBytes (model : Nat) : Nat := min (kvPs model) 65536

/-- Device address of quarter `k` of the blocks of a pseudo-channel. -/
def quarterDa (s : State) (n k : Nat) : Nat :=
  n / 64 * stackCap s + 65536 * (k / 4 * pcCount s + n % 64) + 16384 * (k % 4)

/-- Quarters of the blocks of a pseudo-channel that are withdrawn. -/
def quartersGone (s : State) (n : Nat) : List Nat :=
  (s.pkg.boot.retList.filter (fun e => retKind e == 0)).flatMap (fun e =>
    let c := cellOf s false (65536 * retBlock e)
    if cellCtl s c ≠ n then [] else (List.range 4).map (4 * cellRow s c + ·))

/-- 64 KiB blocks of a pseudo-channel. -/
def pcBlocks (s : State) : Nat := stackCap s / (65536 * max 1 (pcCount s))

/-- Quarters of the blocks of a pseudo-channel that row-placed regions take (R403). -/
def quartersPlaced (s : State) (n : Nat) : List Nat :=
  (s.cx.placed.filter (fun x => x.pc == n)).flatMap (fun x => (List.range (4 * x.blocks)).map (4 * x.row + ·))

/-- Quarters of the blocks of a pseudo-channel that mapped pages or row-placed regions take or that are withdrawn. -/
def quartersUsed (s : State) (n : Nat) : List Nat :=
  quartersGone s n ++ quartersPlaced s n ++ s.srv.blocks.flatMap (fun b => b.das.flatMap (fun da =>
    let c := cellOf s false da
    if cellCtl s c ≠ n then []
    else (List.range (pieceBytes b.model / 16384)).map (fun i => 4 * cellRow s c + cellSo c / 16384 % 4 + i)))

/-- Free pieces of a pseudo-channel for pages of a model, by their first quarter: blocks, or quarters for 16 KiB pages, that
nothing takes and where Fenivar keeps no other data (R373; log entry 13). -/
def freePieces (s : State) (n model : Nat) : List Nat :=
  let used := quartersUsed s n
  let q := pieceBytes model / 16384
  ((List.range (4 * pcBlocks s / q)).map (q * ·)).filter (fun k =>
    (List.range q).all (fun i => !used.contains (k + i) && !Config.otherData (quarterDa s n (k + i))))

/-- A free piece of a pseudo-channel; which one is free (log entry 13). -/
def pickPiece (s : State) (n model : Nat) : Nat × State :=
  let l := freePieces s n model
  let r := freeWord s
  (quarterDa s n (l.getD (r.1.toNat % max 1 l.length) 0), r.2)

/-- The pieces of a page picked on a pseudo-channel. -/
def pickPieces (n model : Nat) : Nat → State → List Nat → List Nat × State
  | 0, s, acc => (acc, s)
  | k + 1, s, acc =>
    let p := pickPiece { s with srv := { s.srv with blocks := ⟨model, 0, 0, acc⟩ :: s.srv.blocks } } n model
    pickPieces n model k { p.2 with srv := { p.2.srv with blocks := s.srv.blocks } } (acc ++ [p.1])

/-- Whether every pool of a model has free pieces for pages at some global page indices, on the pseudo-channels that R347
requires (R373). -/
def kvRoom (s : State) (model : Nat) (gs : List Nat) : Bool :=
  let need := gs.flatMap (fun g => (List.range (Config.kvPools model).length).map (fun i => kvPc model i g))
  need.eraseDups.all (fun n => decide (need.count n * (kvPs model / pieceBytes model) ≤ (freePieces s n model).length))

/-! ### Leaf entries (R394 to R397, R400) -/

/-- A new page table of a context at a level, empty, and the word that names it; the tables of level 0 are made for the
page size asked for. -/
def tableMake (s : State) (asid level va : Nat) (g64 : Bool) : Nat × State :=
  let a := 4096 * Config.newTable asid level va
  (a + 3 + (if level = 0 && g64 then 256 else 0), daWrite s a (List.replicate 4096 0) [])

/-- The level-0 table that maps an address of an ASID, and whether it holds 64 KiB leaves; tables that are missing on the
way are made, with leaves of 64 KiB where `big` asks for them. None where a larger leaf stands there. -/
def leafTable (asid va : Nat) (big : Bool) : Nat → State → Nat → Bool → Option (Nat × Bool) × State
  | 0, s, _, _ => (none, s)
  | level + 1, s, tbl, g64 =>
    if level = 0 then (some (tbl, g64), s)
    else
      let at_ := tbl + 8 * walkIndex va level g64
      let pte := leNat (cellRead s.memo.mem (cellOf s false at_) 8)
      if bitAt pte 0 then
        if bitAt pte 1 then leafTable asid va big level s (pteAddr pte) (bitAt pte 8) else (none, s)
      else
        let n := tableMake s asid (level - 1) va big
        leafTable asid va big level (pteWrite n.2 at_ n.1) (pteAddr n.1) (bitAt n.1 8)

/-- A leaf of normal memory that may be read and written, 0 for none. -/
def kvLeaf (da : Option Nat) (off : Nat) : Nat := match da with | some a => a + off + 13 | none => 0

/-- The leaf entries of one piece of a page written, or cleared. -/
def mapLeaves (s : State) (c : Ctx) (va : Nat) (da : Option Nat) (size : Nat) : State :=
  let r := leafTable c.asid va (size == 65536) (if c.va48 then 4 else 5) s c.ptRoot false
  match r.1 with
  | none => r.2
  | some (t, true) => if size = 65536 then daWrite r.2 (t + 8 * walkIndex va 0 true) (leBytes 8 (kvLeaf da 0)) [] else r.2
  | some (t, false) =>
    daWrite r.2 (t + 8 * walkIndex va 0 false)
      ((List.range (size / 4096)).flatMap (fun i => leBytes 8 (kvLeaf da (4096 * i)))) []

/-! ### Row-placed regions (R403) -/

/-- Whether a row-placed region can stand: its blocks exist and are free, in rows from a multiple of 512. -/
def regionFits (s : State) (x : RowRegion) : Bool :=
  x.row % 512 == 0 && decide (x.row + x.blocks ≤ pcBlocks s)
    && (List.range (4 * x.blocks)).all (fun k => !(quartersUsed s x.pc).contains (4 * x.row + k)
        && !Config.otherData (quarterDa s x.pc (4 * x.row + k)))

/-- A row-placed region mapped: consecutive blocks of one pseudo-channel, in ascending device row, at consecutive virtual
blocks. -/
def regionPlace (c : Ctx) (s : State) (x : RowRegion) : State :=
  if !regionFits s x then s
  else
    let s1 := (List.range x.blocks).foldl (fun acc k =>
      let da := quarterDa acc x.pc (4 * (x.row + k))
      mapLeaves (pageUncache acc da 65536 false) c (x.va + 65536 * k) (some da) 65536) s
    { s1 with cx := { s1.cx with placed := s1.cx.placed ++ [x] } }

/-- The row-placed regions that Igord asks for with a context allocated (R403). DESIGN CHOICE: they are allocated as the
context is created, since no command carries the request (log entry 77). -/
def regionsPlace (s : State) (ctx : Nat) (c : Ctx) : State :=
  ((Config.rowRegions ctx).map (fun x => (⟨ctx, 65536 * x.1, x.2.1, 512 * x.2.2.1, x.2.2.2⟩ : RowRegion))).foldl (regionPlace c) s

/-- Virtual address of a page of a pool (R346). -/
def kvVa (model i page : Nat) : Nat := 65536 * (kvPool model i).2.1 + page * kvPs model

/-- The leaf entries of a page of a pool written, or cleared and dropped from every translation cache (R400, R401). -/
def mapPiecesAt (s : State) (b : KvBlock) (on : Bool) : State :=
  match getCtx s (kvPool b.model b.pool).1 with
  | none => s
  | some c =>
    let va := kvVa b.model b.pool b.page
    let s1 := b.das.zipIdx.foldl (fun acc p =>
      mapLeaves acc c (va + 65536 * p.2) (if on then some p.1 else none) (pieceBytes b.model)) s
    if on then s1 else xinvDrop s1 ⟨0, c.asid, va, kvPs b.model / 4096⟩

/-- A page mapped in one pool on the pseudo-channel of its target position, its block invalidated in every tile cache
first (R347, R373, R376). -/
def mapPool (model page g : Nat) (s : State) (i : Nat) : State :=
  let p := pickPieces (kvPc model i g) model (kvPs model / pieceBytes model) s []
  let s1 := p.1.foldl (fun acc da => pageUncache acc da (pieceBytes model) false) p.2
  let b : KvBlock := ⟨model, i, page, p.1⟩
  mapPiecesAt { s1 with srv := { s1.srv with blocks := s1.srv.blocks ++ [b] } } b true

/-- A page number mapped in every pool of its model at a global page index (R347, R373). -/
def mapPage (s : State) (model page g : Nat) : State :=
  (List.range (Config.kvPools model).length).foldl (mapPool model page g) s

/-- The block of a page in a pool. -/
def blockOf (s : State) (model i page : Nat) : Option KvBlock :=
  s.srv.blocks.find? (fun b => b.model == model && b.pool == i && b.page == page)

/-! ### Copies (R362, R375, R377) -/

/-- A page's contents copied to another page number in every pool of a model (R362). -/
def copyPage (s : State) (model src dst : Nat) : State :=
  (List.range (Config.kvPools model).length).foldl (fun acc i =>
    match blockOf acc model i src, blockOf acc model i dst with
    | some a, some b => (a.das.zip b.das).foldl (fun x p => pageCopy false p.1 p.2 (pieceBytes model / 128) x) acc
    | _, _ => acc) s

/-- The pieces of a block read: bytes and poisoned columns. -/
def readBlock (size : Nat) : List Nat → State → List Byte × List Nat × State
  | [], s => ([], [], s)
  | da :: r, s =>
    let a := daRead s da size
    let b := readBlock size r a.2.2
    (a.1 ++ b.1, a.2.1 ++ b.2.1.map (· + size / 32), b.2.2)

/-- The pieces of a block written from a copy. -/
def fillBlock (size : Nat) (bad : List Nat) : List Nat → State → List Byte → Nat → State
  | [], s, _, _ => s
  | da :: r, s, data, k =>
    let mine := (bad.filter (fun c => decide (k ≤ c) && decide (c < k + size / 32))).map (· - k)
    fillBlock size bad r (daWrite s da (data.take size) mine) (data.drop size) (k + size / 32)

/-- The POISON_CONSUMED entry of a poisoned column that Fenivar reads at a device address (R535). -/
def fenivarPoison (s : State) (da : Nat) : State :=
  let c := cellOf s false da
  elogAdd s { elogOf 0x05 with span := cellSpan c, unit := 0x50, index := cellPc s c, addr := da }

/-- A place of `size` bytes in the swap area that no copy takes. -/
def swapPlace (s : State) (size : Nat) : Nat :=
  ((0 :: s.srv.copies.map (fun c => c.at_ + c.data.length)).find? (fun a =>
    !s.srv.copies.any (fun c => decide (a < c.at_ + c.data.length) && decide (c.at_ < a + size)))).getD 0

/-- The function through which Fenivar reaches the swap area: the one that registered it, or while its port has failed the
physical function of the other port (R375). -/
def swapFn (s : State) (fn : Nat) : Nat := if portFailed s fn then (if fn / 64 = 0 then 64 else 0) else fn

/-- A page of one pool copied to the host swap area; poison that is read is logged, and kept with the copy (R375, R535). -/
def swapBlockOut (model page : Nat) (s : State) (i : Nat) : State :=
  match blockOf s model i page, s.ho.swap with
  | some b, some a =>
    let r := readBlock (pieceBytes model) b.das s
    let at_ := swapPlace r.2.2 (kvPs model)
    let s0 := if r.2.1.isEmpty then r.2.2 else fenivarPoison r.2.2 (b.das.getD 0 0)
    let s1 := hostPost s0 (swapFn s a.2.2) none (a.1 + at_) r.1
    { s1 with srv := { s1.srv with copies := s1.srv.copies ++ [⟨model, i, page, at_, r.1, r.2.1⟩] } }
  | _, _ => s

/-- A page copied to the host from every pool. -/
def swapPageOut (model : Nat) (s : State) (page : Nat) : State :=
  (List.range (Config.kvPools model).length).foldl (swapBlockOut model page) s

/-- A page of one pool copied back from the host, whose copy is then discarded (R377); with both ports failed nothing is
read (R527). DESIGN CHOICE: the bytes read are those that were written there (log entry 13). -/
def swapBlockIn (model page : Nat) (s : State) (i : Nat) : State :=
  match blockOf s model i page, s.srv.copies.find? (fun c => c.model == model && c.pool == i && c.page == page), s.ho.swap with
  | some b, some c, some a =>
    if portFailed s (swapFn s a.2.2) then hostReadLost s (swapFn s a.2.2)
    else
      let s1 := fillBlock (pieceBytes model) c.bad b.das s c.data 0
      { s1 with srv := { s1.srv with copies := s1.srv.copies.filter (· ≠ c) } }
  | _, _, _ => s

/-- A page copied back into every pool. -/
def swapPageIn (model : Nat) (s : State) (page : Nat) : State :=
  (List.range (Config.kvPools model).length).foldl (swapBlockIn model page) s

/-! ### Pages in use (R374 to R377, R445) -/

/-- Page numbers of a model in use. -/
def pagesUsed (s : State) (model : Nat) : List Nat :=
  (s.srv.reqs.filter (fun r => r.model == model)).flatMap (·.pages)
    ++ (s.srv.prefixes.filter (fun p => p.2.model == model)).flatMap (·.2.pages)

/-- Whether a page number of a model is free. -/
def numberFree (s : State) (model : Nat) : Bool :=
  decide ((((pagesUsed s model).filter (fun p => decide (p < kvPages model))).eraseDups).length < kvPages model)

/-- Whether an allocation at a global page index succeeds (R373). -/
def pageRoom (s : State) (model g : Nat) : Bool := numberFree s model && kvRoom s model [g]

/-- Pages of a sequence that no prefix shares with it. -/
def ownPages (r : Req) : List Nat := r.pages.filter (fun p => !r.shared.contains p)

/-- Whether a page of a model is held in device memory: by a prefix, by a sequence that shares it, or by one that is not
swapped. -/
def pageLive (s : State) (model page : Nat) : Bool :=
  s.srv.prefixes.any (fun p => p.2.model == model && p.2.pages.contains page)
    || s.srv.reqs.any (fun r => r.model == model && r.pages.contains page && (r.kv != .swapped || r.shared.contains page))

/-- Blocks that no page holds any more are unmapped and freed, and the host copies of ended sequences discarded (R375,
R377). -/
def kvSweep (s : State) : State :=
  let gone := s.srv.blocks.filter (fun b => !pageLive s b.model b.page)
  let s1 := gone.foldl (fun acc b => mapPiecesAt acc b false) s
  { s1 with srv := { s1.srv with
      blocks := s1.srv.blocks.filter (fun b => pageLive s b.model b.page)
      copies := s1.srv.copies.filter (fun c => s.srv.reqs.any (fun r => r.model == c.model && r.pages.contains c.page)) } }

/-- Whether a sequence references pages of a prefix (R374, R445). -/
def prefixUsed (s : State) (h : Nat) : Bool :=
  s.srv.prefixes.any (fun p => p.1 == h && s.srv.reqs.any (fun r =>
    r.model == p.2.model && p.2.pages.any (fun x => r.pages.contains x)))

end Sys2Proof.Machine
end

