-- ==== Sys2Proof/Machine/Schedule.lean ====
section
/-!
DEFINITION. The cyclic schedule (R414 to R434): the frame clock, table loading and activation, firings
and the registers that drive them.
-/
namespace Sys2Proof.Machine

/-! ### Time and frames (R414, R475) -/

/-- A 64-bit value as a signed one. -/
def toSigned64 (v : Nat) : Int := if v < 2 ^ 63 then (v : Int) else (v : Int) - (2 ^ 64 : Int)

/-- Whether the package runs in locked cadence (R415). -/
def lockedMode (s : State) : Bool := getB s fFrameCtrlMode pgFrame

/-- Whether a package in locked cadence follows a parent (R475). -/
def isMember (s : State) : Bool := getF s fZsyncCfgRole pgZsync == 2

/-- Cadence time: the tick plus the offset, which is zero for the root (R475). -/
def cadenceTime (s : State) : Int := (s.tick : Int) + toSigned64 (getF s fZsyncOffsetDelta pgZsync)

/-- The time by which frames start: cadence time in locked cadence, the tick in free-running mode (R414, R475). -/
def frameTime (s : State) : Int := if lockedMode s then cadenceTime s else s.tick

/-- The frame period. -/
def framePeriod (s : State) : Nat := getF s fFramePeriodPeriod pgFrame

/-- Frame time at which a cadence frame begins (R414). -/
def frameAt (s : State) (k : Nat) : Int := s.sch.t0 + (k * framePeriod s : Nat)

/-- Tick at which a cadence frame begins. -/
def frameTick (s : State) (k : Nat) : Nat := (frameAt s k - (frameTime s - (s.tick : Int))).toNat

/-- Whether the frame clock runs. -/
def frameRunning (s : State) : Bool := getF s fFrameStatusState pgFrame == 1

/-- Spans that take part in the schedule: those whose fabric is present (R419). -/
def schedSpans (s : State) : List Nat := (List.range 8).filter (fun sp => !spanDown s sp)

/-- Whether cadence frame `k` is a work frame under a duty (R432). -/
def isWorkFrame (k d : Nat) : Bool := decide ((k % 16 + 1) * d / 16 > k % 16 * d / 16)

/-! ### Entries of an active table (R423 to R425) -/

/-- Whether an entry stands before another in a frame: an earlier START, or an equal one and a lower index
(R423). -/
def entryBefore (a b : SEntry) (i j : Nat) : Bool := decide (a.start < b.start) || (a.start == b.start && decide (i < j))

/-- Whether an entry is of the kinds of R418, whose firings seed P14 and P15 and need arming. -/
def entryArmable (e : SEntry) : Bool := e.kind != 0 || e.epochw

/-- Whether an entry is armed (R424). -/
def entryArmed (s : State) (span idx : Nat) : Bool := bitAt (getF s fSchedArmArm (pgSched span) (idx / 64)) (idx % 64)

/-- An entry's bit in SCHED.ARM set or cleared. -/
def setArmed (s : State) (span idx : Nat) (b : Bool) : State :=
  let v := getF s fSchedArmArm (pgSched span) (idx / 64)
  setF s fSchedArmArm (pgSched span) (setBits v (idx % 64) 1 (if b then 1 else 0)) (idx / 64)

/-- Whether a launch is of a firing of an entry of the active tables. -/
def firingOf (s : State) (l : Launch) (span idx : Nat) : Bool :=
  decide (s.sch.serial0 ≤ l.serial) && (match l.src with | .entry a b _ => a == span && b == idx | _ => false)

/-- Whether a firing of an entry has launched and not completed on every core (R99, R425). -/
def firingLive (s : State) (span idx : Nat) : Bool := (liveLaunches s).any (fun l => firingOf s l span idx)

/-- Deferred firings of an entry, in due order. -/
def entryDeferred (s : State) (span idx : Nat) : List (Nat × Nat × Nat) :=
  (getSched s span).deferred.filter (fun d => d.1 == idx)

/-- Whether a condition of R425 holds back a firing of an entry. -/
def firingHeld (s : State) (span idx : Nat) (e : SEntry) : Bool :=
  firingLive s span idx || (maskCores e.coreMask).any (fun c => decide (listLength s span c e.ctx ≥ 16))
    || (e.epochw && !entryArmed s span idx) || (maskCores e.coreMask).any (coreSliced s span)

/-- Weight-epoch buffer that a firing selects (R418): the step's for a group, the one being written for
EPOCHW. -/
def entryEpochBit (s : State) (e : SEntry) : Nat :=
  if e.epochw then
    (match s.srv.models.find? (fun m => m.1 = e.bind) with | some m => (m.2.epoch + 1) % 2 | none => 0)
  else match s.srv.groups.find? (fun g => g.1 = e.bind) with | some g => g.2.epoch % 2 | none => 0

/-- Predicate seeds of a firing due at a work frame (R418). -/
def entrySeeds (s : State) (e : SEntry) (work : Nat) : Nat × Nat :=
  if entryArmable e then
    (setBits (setBits e.seedVal 15 1 (work % 2)) 14 1 (entryEpochBit s e), e.seedMask ||| 0xC000)
  else (e.seedVal, e.seedMask)

/-! ### Groups and their entries (R417, R438) -/

/-- A serving group. -/
def getGroup (s : State) (g : Nat) : Option Group := (s.srv.groups.find? (fun p => p.1 = g)).map (·.2)

/-- A group replaced. -/
def putGroup (s : State) (g : Nat) (x : Group) : State := { s with srv := { s.srv with groups := put s.srv.groups g x } }

/-- Active entries bound to a group: span and index. -/
def groupEntries (s : State) (g : Nat) (gen : Bool) : List (Nat × Nat) :=
  (schedSpans s).flatMap (fun sp => ((getSched s sp).active.zipIdx.filter (fun x =>
    x.1.kind == (if gen then 1 else 2) && x.1.bind == g)).map (fun x => (sp, x.2)))

/-- Whether a work frame is under way. -/
def inWorkFrame (s : State) : Bool := frameRunning s && s.sch.nextK != 0 && !getB s fFrameStatusIdle pgFrame

/-- Whether an entry has been dealt with in the current frame. -/
def entrySeen (s : State) (e : Nat × Nat) : Bool := (getSched s e.1).seen.contains e.2

/-- The work frame that a preparation serves: the current one while the group's entries have not fired, else
the next (R440). -/
def targetFrame (s : State) (es : List (Nat × Nat)) : Nat :=
  if inWorkFrame s && es.all (fun e => !entrySeen s e) then getF s fFrameWorkValue pgFrame else s.sch.nextWork

/-- The firing of an entry that a group's step waits for has launched: it is due at a tick, and a prompt chunk takes its
requests from QUEUED to PROMPT (R436, R440). -/
def groupFired (s : State) (span idx due : Nat) : State :=
  let hit (x : Group) : Bool := x.wait.contains (span, idx)
  let ids := (s.srv.groups.filter (fun p => hit p.2 && !p.2.gen)).flatMap (fun p => p.2.step.map (·.2.1))
  { s with srv := { s.srv with
      groups := s.srv.groups.map (fun p => if hit p.2 then
        (p.1, { p.2 with wait := p.2.wait.erase (span, idx), fired := p.2.fired ++ [(span, idx, due)] }) else p)
      reqs := s.srv.reqs.map (fun r => if ids.contains r.idx && r.st == .queued then { r with st := .prompt } else r) } }

/-- Firings that a group's step waits for have been dropped: the step does not run whole (R440). -/
def groupMissed (s : State) (hit : Nat × Nat → Bool) : State :=
  { s with srv := { s.srv with groups := s.srv.groups.map (fun p => if p.2.wait.any hit then
      (p.1, { p.2 with wait := p.2.wait.filter (fun e => !hit e), notRun := true }) else p) } }

/-! ### Firings (R417, R423 to R425) -/

/-- The open work item of the firings due at one tick of one work frame (R546). -/
def firingItem (s : State) (work due : Nat) : Option Nat :=
  (s.ho.items.find? (fun it => it.code == 0 && it.commit.isNone
    && (match it.src with | .entry _ _ f => f == work | _ => false)
    && it.launches.any (fun d => d.launch.due == due))).map (·.id)

/-- A firing launched on every core of its entry (R423): it joins the item of its frame and START, and its arm bit clears
(R424). -/
def fireEntry (s : State) (span idx : Nat) (e : SEntry) (work start : Nat) : State :=
  let due := start + e.start
  let seeds := entrySeeds s e work
  let src := LaunchSrc.entry span idx work
  let o := match firingItem s work due with
    | some id => (id, s)
    | none => itemOpen s src 0 e.ctx
  let l := freshLaunch e.kernel seeds.1 seeds.2 src due e.budget e.phase
  let s1 := (maskCores e.coreMask).foldl (fun acc c => sendLaunch acc o.1 span c e.ctx l) o.2
  bumpF (groupFired (setArmed s1 span idx false) span idx due) fSchedLaunchesCount (pgSched span)

/-- Dropped firings counted (R419, R421, R422, R427). -/
def dropFirings (s : State) (span n : Nat) : State :=
  if n = 0 then s else cadenceLost (bumpF s fSchedDroppedCount (pgSched span) n)

/-- A firing that an entry misses: it is dropped, and the step that waits for it does not run whole (R421, R422). -/
def missFiring (s : State) (span idx : Nat) : State := groupMissed (dropFirings s span 1) (· == (span, idx))

/-- Whether an entry can fire no more: it has stopped, or its context holds no record on the span (R421, R422). -/
def entryDead (s : State) (span : Nat) (e : SEntry) : Bool := e.stopped || (getRec s span e.ctx).isNone

/-- An entry marked as dealt with in the current frame. -/
def markSeen (s : State) (span idx : Nat) : State :=
  let u := getSched s span
  putSched s span { u with seen := setIns u.seen idx }

/-- A firing deferred (R425): the seventeenth of one entry stops the clock instead. -/
def deferFiring (s : State) (span idx work start : Nat) : State :=
  if (entryDeferred s span idx).length ≥ 16 then
    { s with sch := { s.sch with stopReq := true, overflow := true } }
  else
    let u := getSched s span
    cadenceLost (bumpF (putSched s span { u with deferred := u.deferred ++ [(idx, work, start)] })
      fSchedSlipsCount (pgSched span))

/-- ENTRY_FIRE comes about: in a work frame, at the entry's START tick, after the entries before it. -/
def entryFireReady (sp : Fin 8) (idx : Nat) (s : State) : Bool :=
  let u := getSched s sp
  match u.active[idx]? with
  | none => false
  | some e =>
    frameRunning s && !getB s fFrameStatusIdle pgFrame && !spanDown s sp && !u.seen.contains idx
      && decide (getF s fFrameStartValue pgFrame + e.start ≤ s.tick)
      && u.active.zipIdx.all (fun x => !entryBefore x.1 e x.2 idx || u.seen.contains x.2)

/-- The entry fires, is skipped or is deferred (R417, R423, R425). DEDUCED: the arm bit of a firing that is deferred clears
at its deferral (log entry 79). -/
def entryFireEffect (sp : Fin 8) (idx : Nat) (s : State) : State :=
  match (getSched s sp).active[idx]? with
  | none => s
  | some e =>
    let work := getF s fFrameWorkValue pgFrame
    let start := getF s fFrameStartValue pgFrame
    let s1 := markSeen s sp idx
    itemsClose (if entryDead s sp e then missFiring s1 sp idx
    else if e.kind ≠ 0 && !entryArmed s sp idx then bumpF s1 fSchedNotArmedCount (pgSched sp)
    else if !(entryDeferred s sp idx).isEmpty || firingHeld s sp idx e then
      deferFiring (if e.kind ≠ 0 then setArmed s1 sp idx false else s1) sp idx work start
    else fireEntry s1 sp idx e work start)

/-- ENTRY_FIRE (R423). -/
def execEntryFire (sp : Fin 8) (idx : Nat) (s : State) : Host.Outcome State Fault Refusal :=
  .next (clocked s (if entryFireReady sp idx s then entryFireEffect sp idx s else s))

/-- DEFERRED_FIRE comes about: outside an idle frame, once no condition holds the firing back. -/
def deferredFireReady (sp : Fin 8) (idx : Nat) (s : State) : Bool :=
  match (getSched s sp).active[idx]? with
  | none => false
  | some e =>
    frameRunning s && !getB s fFrameStatusIdle pgFrame && !(entryDeferred s sp idx).isEmpty
      && (entryDead s sp e || !firingHeld s sp idx e)

/-- The oldest deferred firing of an entry launches under the work frame in which it was due. -/
def deferredFireEffect (sp : Fin 8) (idx : Nat) (s : State) : State :=
  match (getSched s sp).active[idx]?, entryDeferred s sp idx with
  | some e, d :: _ =>
    let u := getSched s sp
    let s1 := putSched s sp { u with deferred := u.deferred.erase d }
    itemsClose (if entryDead s sp e then missFiring s1 sp idx else fireEntry s1 sp idx e d.2.1 d.2.2)
  | _, _ => s

/-- DEFERRED_FIRE (R425). -/
def execDeferredFire (sp : Fin 8) (idx : Nat) (s : State) : Host.Outcome State Fault Refusal :=
  .next (clocked s (if deferredFireReady sp idx s then deferredFireEffect sp idx s else s))

/-! ### Table images (R416, R419, R420) -/

/-- Little-endian words of a line of bytes. -/
def leWord (b : List Byte) (w : Nat) : Nat := leNat ((b.drop (8 * w)).take 8)

/-- A schedule entry from its four words (R416). -/
def sentryOf (w0 w1 w2 w3 : Nat) : SEntry :=
  ⟨bits w0 0 27, bits w0 27 27, bits w0 54 2, bits w0 56 2, bitAt w0 58, w1, bits w2 0 16, bits w2 16 12,
    bits w2 28 16, bits w2 44 16, bits w3 0 16, false, false⟩

/-- An entry of an image read with volatile reads: its words, unless the read met poison, an UNSEALED line
or an address above the highest (R420). -/
def imageEntry (s : State) (da : Nat) : Option (List Byte) × State :=
  if !daOk s (da + 31) then (none, s)
  else
    let r := pocRead s (cellOf s false da / 128)
    if r.1.unsealed || bitAt r.1.poison (da % 128 / 32) then (none, r.2)
    else (some ((r.1.data.drop (da % 128)).take 32), r.2)

/-- Whether an entry breaks the FIELD check. -/
def entryBadField (w0 w2 w3 : Nat) (e : SEntry) : Bool :=
  bits w0 59 5 != 0 || bits w2 60 4 != 0 || bits w3 16 48 != 0 || e.kind == 3 || (e.epochw && e.kind != 0)
    || (entryArmable e && bits e.seedMask 14 2 != 0) || (entryArmable e == (e.bind == 0))
    || e.kernel == 0 || e.kernel % 64 != 0 || e.coreMask == 0

/-- Contexts that entries name on a core, each once. -/
def coreContexts (es : List SEntry) (core : Nat) : List Nat :=
  ((es.filter (fun e => bitAt e.coreMask core)).map (·.ctx)).eraseDups

/-- Whether the contexts that entries name on a core are too many or too large to stay resident. -/
def coreOverfull (s : State) (es : List SEntry) (core : Nat) : Bool :=
  let cs := coreContexts es core
  decide (cs.length > 4)
    || decide ((cs.map (fun c => match getCtx s c with | some x => x.win | none => 0)).sum > 128)

/-- Whether Fenivar knows what an entry binds to (R420). -/
def entryBound (s : State) (e : SEntry) : Bool :=
  if e.epochw then has s.srv.models e.bind
  else if e.kind = 0 then true
  else match s.srv.groups.find? (fun g => g.1 = e.bind) with
    | some g => g.2.gen == (e.kind == 1)
    | none => false

/-- Code of the first check that an entry fails after its image was read, 0 for none; `before` holds the
entries before it (R420). A retired core with an alias passes as the core that stands for it (R540). -/
def entryCheck (s : State) (span count : Nat) (w0 w2 w3 : Nat) (e : SEntry) (before : List SEntry) : Nat :=
  if count > 4096 then 2
  else if entryBadField w0 w2 w3 e then 3
  else if e.budget = 0 ∨ e.start + e.budget > framePeriod s then 4
  else if (maskCores e.coreMask).any (fun c => !coreNamed s span c) then 5
  else if (match getRec s span e.ctx with
    | some r => (maskCores e.coreMask).any (fun c => !bitAt r.coreMask (coreAliased s span c))
    | none => true) then 6
  else if lockedMode s && (maskCores e.coreMask).any (coreOverfull s (before ++ [e])) then 7
  else if !entryBound s e then 8
  else 0

/-- Entries of an image checked in ascending index: the table, or the code and index of the first failure. -/
def imageCheck (span base count : Nat) : Nat → State → List SEntry → (Nat × Nat × List SEntry) × State
  | 0, s, es => ((0, 0, es), s)
  | k + 1, s, es =>
    let r := imageEntry s (base + 32 * es.length)
    match r.1 with
    | none => ((1, es.length, []), r.2)
    | some b =>
      let e := sentryOf (leWord b 0) (leWord b 1) (leWord b 2) (leWord b 3)
      let c := entryCheck r.2 span count (leWord b 0) (leWord b 2) (leWord b 3) e es
      if c ≠ 0 then ((c, es.length, []), r.2) else imageCheck span base count k r.2 (es ++ [e])

/-- SCHED.LOAD written (R419, R449). -/
def schedLoadEffect (sp : Fin 8) (m : Nat) (s : State) : State :=
  if spanDown s sp then rejectPath s .absent m 0x110 0
  else if getB s fSchedVstatBusy (pgSched sp) then reject s (pgSched sp) .busy m 0x110 0
  else setB s fSchedVstatBusy (pgSched sp) true

/-- SCHED_LOAD (R419). -/
def execSchedLoad (sp : Fin 8) (m : Nat) (s : State) : Host.Outcome State Fault Refusal :=
  .next (clocked s (guarded s (pgSched sp) m 0x110 (schedLoadEffect sp m s)))

/-- SCHED_VALIDATE_DONE comes about while a validation runs. -/
def schedValidateDoneReady (sp : Fin 8) (s : State) : Bool := getB s fSchedVstatBusy (pgSched sp)

/-- Validation ends: the table is staged in the inactive bank, or the failure is recorded (R419, R420). -/
def schedValidateDoneEffect (sp : Fin 8) (s : State) : State :=
  let pg := pgSched sp
  let count := getF s fSchedCountEntries pg
  let r := imageCheck sp (4096 * getF s fSchedTableBase pg) count count s []
  let s1 := setF (setF r.2 fSchedVstatResult pg r.1.1) fSchedVstatEntry pg r.1.2.1
  let s2 := setB (setB s1 fSchedVstatStaged pg (r.1.1 == 0)) fSchedVstatBusy pg false
  putSched s2 sp { getSched s2 sp with inactive := r.1.2.2 }

/-- SCHED_VALIDATE_DONE (R420). -/
def execSchedValidateDone (sp : Fin 8) (s : State) : Host.Outcome State Fault Refusal :=
  .next (clocked s (if schedValidateDoneReady sp s then schedValidateDoneEffect sp s else s))

/-! ### FRAME.CTRL and SCHED.ARM (R419, R424, R427) -/

/-- FRAME.CTRL.ACTIVATE written: rejected unless every present span has a staged table. -/
def frameActivateEffect (m : Nat) (s : State) : State :=
  if (schedSpans s).all (fun sp => getB s fSchedVstatStaged (pgSched sp)) then setB s fFrameStatusActPend pgFrame true
  else reject s pgFrame .range m 0x100 3

/-- FRAME_ACTIVATE (R419). -/
def execFrameActivate (m : Nat) (s : State) : Host.Outcome State Fault Refusal :=
  .next (clocked s (guarded s pgFrame m 0x100 (frameActivateEffect m s)))

/-- FRAME.CTRL.STOP written: the clock stops at the end of the current frame. -/
def frameStopEffect (s : State) : State :=
  if frameRunning s then { s with sch := { s.sch with stopReq := true } } else s

/-- FRAME_STOP (R427). -/
def execFrameStop (m : Nat) (s : State) : Host.Outcome State Fault Refusal :=
  .next (clocked s (guarded s pgFrame m 0x100 (frameStopEffect s)))

/-- Whether every active entry still fits the period in force (R420). -/
def tablesFit (s : State) : Bool :=
  (schedSpans s).all (fun sp => (getSched s sp).active.all (fun e => decide (e.start + e.budget ≤ framePeriod s)))

/-- Whether locked cadence lets the clock start: a member must be locked with the cluster's period (R480). -/
def clusterReady (s : State) : Bool :=
  getF s fZsyncCfgRole pgZsync == 1
    || (getB s fZsyncStatusLocked pgZsync && !getB s fZsyncStatusPeriodMismatch pgZsync)

/-- A boundary that a frame number has reached: the duty named for it is in force, and is the one that counts as applied
(R481). -/
def boundaryTake (s : State) (n : Nat) : State :=
  if s.sch.boundary ≠ 0 && decide (s.sch.boundary ≤ n) then
    { s with sch := { s.sch with clusterDuty := s.sch.dutyNext, boundary := 0, boundaryDone := some s.sch.boundary } }
  else s

/-- The cluster duty in force shown as the effective one (R433). -/
def dutyShow (s : State) : State := setF s fFrameIdleDutyEff pgFrame s.sch.clusterDuty

/-- The clock set running: frame numbers continue, and in locked cadence a member joins at the next frame
boundary of the beats, with the cluster duty in force there (R427, R448, R481). -/
def clockStart (s : State) : State :=
  let s1 := setF s fFrameStatusState pgFrame 1
  let s2 := { s1 with sch := { s1.sch with stopReq := false, overflow := false } }
  if lockedMode s && isMember s then
    let k := ((cadenceTime s - s.sch.t0) / (framePeriod s : Int) + 1).toNat
    dutyShow (boundaryTake { s2 with sch := { s2.sch with nextK := k } } (k - 1))
  else { s2 with sch := { s2.sch with t0 := (s.tick : Int) - (s.sch.nextK * framePeriod s : Nat) } }

/-- FRAME.CTRL.START written. -/
def frameClockStartEffect (m : Nat) (s : State) : State :=
  if frameRunning s then s
  else if !tablesFit s || (lockedMode s && !clusterReady s) then reject s pgFrame .range m 0x100 1
  else clockStart s

/-- FRAME_CLOCK_START (R427). -/
def execFrameClockStart (m : Nat) (s : State) : Host.Outcome State Fault Refusal :=
  .next (clocked s (guarded s pgFrame m 0x100 (frameClockStartEffect m s)))

/-- Whether a request is pinned to an epoch of a model (R443). -/
def epochPinned (s : State) (model epoch : Nat) : Bool :=
  s.srv.reqs.any (fun r => r.model == model && r.epoch == epoch)

/-- Prefixes of an epoch of a model released (R443). -/
def releaseEpoch (s : State) (model epoch : Nat) : State :=
  kvSweep { s with srv := { s.srv with
    prefixes := s.srv.prefixes.filter (fun p => !(p.2.model == model && p.2.epoch == epoch)) } }

/-- Whether Fenivar may arm an entry of a group: the step that stands in the half of the coming frame has been written for
it (R424). -/
def stepWritten (s : State) (e : SEntry) : Bool :=
  match getGroup s e.bind with
  | some x => !x.step.isEmpty && x.armedFor == targetFrame s (groupEntries s e.bind x.gen)
  | none => false

/-- An entry armed by Fenivar: one of a group only for a step that it has written; an EPOCHW entry only while no request is
pinned to the epoch that last held its buffer, whose prefixes it releases (R424, R443). -/
def armEntry (span idx : Nat) (s : State) : State :=
  match (getSched s span).active[idx]? with
  | some e =>
    if e.kind ≠ 0 then (if stepWritten s e then setArmed s span idx true else s)
    else if !e.epochw then setArmed s span idx true
    else match s.srv.models.find? (fun m => m.1 = e.bind) with
      | none => setArmed s span idx true
      | some m =>
        if m.2.epoch = 0 then setArmed s span idx true
        else if epochPinned s e.bind (m.2.epoch - 1) then s
        else setArmed (releaseEpoch s e.bind (m.2.epoch - 1)) span idx true
  | none => setArmed s span idx true

/-- SCHED.ARM written (R424, R449): a control core arms by Fenivar's rule, another writer sets the bits. -/
def schedArmEffect (sp : Fin 8) (w : Fin 64) (mask : Nat) (m : Nat) (s : State) : State :=
  if spanDown s sp then rejectPath s .absent m (0x200 + 8 * w) 0
  else if m = 4 then
    ((List.range 64).filter (bitAt mask)).foldl (fun acc b => armEntry sp (64 * w + b) acc) s
  else setF s fSchedArmArm (pgSched sp) (getF s fSchedArmArm (pgSched sp) w ||| mask % 2 ^ 64) w

/-- SCHED_ARM (R424). -/
def execSchedArm (sp : Fin 8) (w : Fin 64) (mask m : Nat) (s : State) : Host.Outcome State Fault Refusal :=
  .next (clocked s (guarded s (pgSched sp) m (0x200 + 8 * w) (schedArmEffect sp w mask m s)))

/-! ### Frame starts (R414, R419, R427, R432, R433) -/

/-- Deferred firings of a span discarded and counted; a step that waits for one does not run whole (R440). -/
def discardDeferred (s : State) (span : Nat) : State :=
  let u := getSched s span
  groupMissed (dropFirings (putSched s span { u with deferred := [] }) span u.deferred.length)
    (fun e => e.1 == span && u.deferred.any (fun d => d.1 == e.2))

/-- The clock stops at the end of a frame (R427). -/
def clockStop (s : State) : State :=
  let s1 := (List.range 8).foldl discardDeferred s
  let s2 := setF s1 fFrameStatusState pgFrame (if s.sch.overflow then 2 else 0)
  { s2 with sch := { s2.sch with
      stopReq := false, overflow := false
      spans := s2.sch.spans.map (fun p => (p.1, { p.2 with seen := List.range p.2.active.length })) } }

/-- A span's banks switched (R419): a step that waits for an entry of the old table does not run (R440). -/
def switchSpan (s : State) (span : Nat) : State :=
  let s1 := groupMissed (discardDeferred s span) (fun e => e.1 == span)
  let u := getSched s1 span
  let pg := pgSched span
  let s2 := setB (setB s1 fSchedVstatStaged pg false) fSchedVstatBank pg (!getB s1 fSchedVstatBank pg)
  putSched s2 span { u with active := u.inactive, inactive := [], seen := [] }

/-- A record that Fenivar has swapped out of a span's store comes back, in place of the oldest parked one where the store is
full (R385). -/
def recordFetch (sp : Fin 8) (s : State) (ctx : Nat) : State :=
  match getRec s sp ctx with
  | some r =>
    if r.tier == .swapped then
      recordSwapInEffect sp ctx (if storeUsed s sp < 512 then s
        else match oldestParked s sp with | some v => recordSwapOutEffect sp v s | none => s)
    else s
  | none => s

/-- A pinned context brought into a slot of a core (R429). -/
def pinContext (sp : Fin 8) (co : Fin 16) (s0 : State) (ctx : Nat) : State :=
  let s := recordFetch sp s0 ctx
  if (residentSlot s sp co ctx).isSome then s
  else match getRec s sp ctx with
    | none => s
    | some r =>
      match ([0, 1, 2, 3] : List (Fin 4)).find? (fun (sl : Fin 4) => (getSlot s (slotKey sp co sl)).ctx.isNone) with
      | some sl => switchAt sp co sl (ctx, r) (makeRoom sp co ctx r 600 s)
      | none => match evictChoice s sp co with
        | none => s
        | some sl => switchOver sp co sl (ctx, r) s

/-- Every context of the active tables brought onto the cores of its entries (R429). -/
def pinAll (s : State) : State :=
  (List.finRange 8).foldl (fun acc (sp : Fin 8) =>
    (List.finRange 16).foldl (fun acc2 (co : Fin 16) =>
      (coreContexts (getSched s sp).active co).foldl (pinContext sp co) acc2) acc) s

/-- Whether an active entry names a core (R429). -/
def coreScheduled (s : State) (span core : Nat) : Bool :=
  (getSched s span).active.any (fun e => bitAt e.coreMask core)

/-- Host launches that wait to be delivered to cores of the tables end with LOCKED_CORE (R505). -/
def dropHostWaiting (s : State) : State :=
  let hit (d : Delivery) : Bool :=
    coreScheduled s d.span d.core && (match d.launch.src with | .host _ _ _ => true | _ => false)
  (s.core.waiting.filter hit).foldl (fun acc d => launchDiscard acc d.launch eLockedCore 0 0 0 0)
    { s with core := { s.core with waiting := s.core.waiting.filter (fun d => !hit d) } }

/-- All present spans switch to their staged tables; the work frame number becomes 0 (R419). -/
def activateTables (s : State) : State :=
  let s1 := (schedSpans s).foldl switchSpan s
  let s2 := setB (setF s1 fFrameWorkValue pgFrame 0) fFrameStatusActPend pgFrame false
  let s3 := { s2 with sch := { s2.sch with nextWork := 0, degraded := [], serial0 := s2.core.nextSerial } }
  if lockedMode s then dropHostWaiting (pinAll s3) else s3

/-- The effective duty at the start of a cadence frame (R433, R481): at a cycle boundary, and in locked
cadence at the boundary that the beats name. -/
def dutyAt (s : State) (n : Nat) : State :=
  if n % 16 ≠ 0 then s
  else
    let s1 := commitPage s pgFrame
    if lockedMode s then (if s.sch.boundary ≠ 0 && decide (s.sch.boundary ≤ n) then dutyShow (boundaryTake s1 n) else s1)
    else setF s1 fFrameIdleDutyEff pgFrame (min (getF s1 fFrameIdleDuty pgFrame) s1.sch.allocDuty)

/-- Entries that are to stop from the next frame have stopped (R421, R422). -/
def stopsTake (s : State) : State :=
  { s with sch := { s.sch with spans := s.sch.spans.map (fun p =>
      (p.1, { p.2 with active := p.2.active.map (fun e => { e with stopped := e.stopped || e.stopNext }) })) } }

/-- A work or an idle frame begins (R414, R432). -/
def frameBody (s : State) (n : Nat) : State :=
  if isWorkFrame n (getF s fFrameIdleDutyEff pgFrame) then
    let s1 := setB (setF s fFrameWorkValue pgFrame s.sch.nextWork) fFrameStatusIdle pgFrame false
    { s1 with sch := { s1.sch with
        nextWork := s.sch.nextWork + 1, spans := s1.sch.spans.map (fun p => (p.1, { p.2 with seen := [] })) } }
  else bumpF (setB s fFrameStatusIdle pgFrame true) fFrameIdledValue pgFrame

/-- Whether a frame starts after more than 500 microseconds of holdover (R480). -/
def heldOver (s : State) : Bool :=
  isMember s && match s.pkg.link.holdAt with | some t => decide (s.tick > t + 500000) | none => false

/-- FRAME_START comes about: the clock runs, the next frame's time has come, and every entry of the current
work frame has been dealt with. -/
def frameStartReady (s : State) : Bool :=
  frameRunning s && decide (frameAt s s.sch.nextK ≤ frameTime s)
    && (getB s fFrameStatusIdle pgFrame
      || (schedSpans s).all (fun sp => let u := getSched s sp
          (List.range u.active.length).all (fun i => u.seen.contains i)))

/-- The lowest duty of the package's subtree (R433, R481). -/
def subtreeDuty (s : State) : Nat :=
  s.pkg.link.childDuty.foldl (fun acc x => min acc x.2) (min (getF s fFrameIdleDuty pgFrame) s.sch.allocDuty)

/-- The first cadence frame that is a multiple of 16 and starts at least 1,000,000 ticks later (R481). -/
def nextBoundary (s : State) : Nat :=
  let late := ((frameTime s + 1000000 - s.sch.t0).toNat + framePeriod s - 1) / framePeriod s
  (max late s.sch.nextK + 15) / 16 * 16

/-- The root chooses a boundary when the cluster's lowest duty differs from the duty in force (R481). -/
def chooseBoundary (s : State) : State :=
  if getF s fZsyncCfgRole pgZsync = 1 && frameRunning s && s.sch.boundary == 0 && subtreeDuty s != s.sch.clusterDuty then
    { s with sch := { s.sch with boundary := nextBoundary s, dutyNext := subtreeDuty s } }
  else s

/-- The current frame ends: the clock stops, or the next cadence frame begins (R414, R481, R581). -/
def frameStartEffect (s00 : State) : State :=
  let s0 := frameEnergy s00
  if s0.sch.stopReq then itemsClose (clockStop s0)
  else
    let n := s0.sch.nextK
    let s := thermalDuty s0 n
    let s1 := setF (setF s fFrameCadenceValue pgFrame n) fFrameStartValue pgFrame (frameTick s n)
    let s2 := { s1 with sch := { s1.sch with nextK := n + 1 } }
    let s3 := if getB s2 fFrameStatusActPend pgFrame && getF s2 fFrameActAtCadence pgFrame ≤ n then activateTables s2 else s2
    let s4 := frameBody (stopsTake (dutyAt s3 n)) n
    itemsClose (chooseBoundary (if heldOver s4 then cadenceLost s4 else s4))

/-- FRAME_START (R414). -/
def execFrameStart (s : State) : Host.Outcome State Fault Refusal :=
  .next (clocked s (if frameStartReady s then frameStartEffect s else s))

end Sys2Proof.Machine
end

