-- ==== Sys2Proof/Machine/Links.lean ====
section
/-!
DEFINITION. Zaskel ports (R450 to R461, R482 to R484): states, flits, credits, routing and port failure.
-/
namespace Sys2Proof.Machine

/-! ### Packets (R458, R470) -/

/-- Fields of a packet's header unit. -/
def pkHead (k : Pkt) : Nat := k.headD 0
/-- TYPE. -/
def pkType (k : Pkt) : Nat := bits (pkHead k) 0 4
/-- VC. -/
def pkVc (k : Pkt) : Nat := bits (pkHead k) 4 1
/-- DST_PKG. -/
def pkDst (k : Pkt) : Nat := bits (pkHead k) 5 10
/-- SRC_PKG. -/
def pkSrc (k : Pkt) : Nat := bits (pkHead k) 15 10
/-- UNITS. -/
def pkUnits (k : Pkt) : Nat := bits (pkHead k) 25 9
/-- WIN. -/
def pkWin (k : Pkt) : Nat := bits (pkHead k) 34 12
/-- TALLY. -/
def pkTally (k : Pkt) : Nat := bits (pkHead k) 46 7
/-- RING. -/
def pkRing (k : Pkt) : Nat := bits (pkHead k) 53 9
/-- DSEQ. -/
def pkDseq (k : Pkt) : Nat := bits (pkHead k) 62 16
/-- OFF. -/
def pkOff (k : Pkt) : Nat := bits (pkHead k) 78 40

/-- A header from its fields. -/
def mkHead (type vc dst src units win tally ring dseq off redOp rfmt ord : Nat) : Nat :=
  type % 16 + 2 ^ 4 * (vc % 2) + 2 ^ 5 * (dst % 1024) + 2 ^ 15 * (src % 1024) + 2 ^ 25 * (units % 512) + 2 ^ 34 * (win % 4096)
    + 2 ^ 46 * (tally % 128) + 2 ^ 53 * (ring % 512) + 2 ^ 62 * (dseq % 65536) + 2 ^ 78 * (off % 2 ^ 40) + 2 ^ 118 * (redOp % 8)
    + 2 ^ 121 * (rfmt % 4) + 2 ^ 123 * (ord % 2)

/-- Units of a packet that starts with a header: a RED packet has a second header unit (R471). -/
def pkLength (h : Nat) : Nat := 1 + bits h 25 9 + (if bits h 0 4 = 2 then 1 else 0)

/-- Class and channel of a packet type, as the port numbers them (R458). -/
def pkClass (k : Pkt) : Nat :=
  match pkType k with
  | 1 => 5 + pkVc k
  | 2 => 3 + pkVc k
  | 3 => 1 + pkVc k
  | 4 => 1 + pkVc k
  | _ => 0

/-- Whether a packet is of a routed class. -/
def pkRouted (k : Pkt) : Bool := let t := pkType k; t == 1 || t == 2 || t == 3 || t == 4

/-- Credits that a packet takes: 64-byte units of buffer (R458). -/
def pkCredits (k : Pkt) : Nat := (k.length + 3) / 4

/-- Whether a reserved bit of a hop-local packet's body is set (R476). -/
def pkBodyBad (k : Pkt) : Bool :=
  match pkType k with
  | 5 => bits (k.getD 2 0) 43 21 != 0
  | 6 => bits (k.getD 2 0) 65 63 != 0
  | 7 => bits (k.getD 1 0) 47 17 != 0 || k.getD 2 0 != 0
  | _ => false

/-- Whether a receiver discards a packet for its format: a reserved TYPE or a reserved bit that is set
(R470, R471, R476). -/
def pkBad (k : Pkt) : Bool :=
  decide (pkType k ≥ 8) || bits (pkHead k) 124 4 != 0 || (pkType k == 2 && bits (k.getD 1 0) 111 17 != 0) || pkBodyBad k

/-! ### Ports -/

/-- A port. -/
def getZl (s : State) (p : Nat) : ZlPort := look s.pkg.link.ports p newZlPort

/-- A port replaced. -/
def putZl (s : State) (p : Nat) (x : ZlPort) : State :=
  { s with pkg := { s.pkg with link := { s.pkg.link with ports := put s.pkg.link.ports p x } } }

/-- Whether a port is absent by its grade or retired (R7, R483). -/
def zlAbsent (s : State) (p : Nat) : Bool := decide (p ≥ 12) || (s.fuse.gradeS && decide (p ≥ 8)) || s.pkg.link.gone.contains p

/-- State code of a port. -/
def zlState (s : State) (p : Nat) : Nat := getF s fZlStatusState (pgZl p)

/-- Whether a port is ACTIVE. -/
def zlActive (s : State) (p : Nat) : Bool := zlState s p == 5

/-- A port enters a state. -/
def zlEnter (s : State) (p st : Nat) : State :=
  setF (putZl s p { getZl s p with since := s.tick }) fZlStatusState (pgZl p) st

/-- This package's number (R460). -/
def selfPkg (s : State) : Nat := getF s fZrouteSelfPkgNum pgZroute

/-! ### Send-ring errors (R469) -/

/-- An error recorded for a ring unless a record is held. -/
def ringRecord (s : State) (ring code reason dseq : Nat) : State :=
  let pg := pgZring (ring / 64)
  let r := ring % 64
  if getB s fZringStateErrValid pg r then s
  else
    let s1 := setF (setF s fZringStateCode pg code r) fZringStateReason pg reason r
    setB (setF s1 fZringStateDseq pg dseq r) fZringStateErrValid pg true r

/-- Descriptors of a ring in flight. -/
def getRing (s : State) (ring : Nat) : List SendDesc := look s.pkg.link.rings ring []

/-- Descriptors of a ring replaced. -/
def putRing (s : State) (ring : Nat) (l : List SendDesc) : State :=
  { s with pkg := { s.pkg with link := { s.pkg.link with rings := put s.pkg.link.rings ring l } } }

/-- Context of a ring. -/
def ringCtx (s : State) (ring : Nat) : Nat := getF s fZringCfgCtx (pgZring (ring / 64)) (ring % 64)

/-- The oldest open item of a context. -/
def ctxItem (s : State) (ctx : Nat) : Option Item := s.ho.items.find? (fun it => it.launches.any (fun d => d.ctx == ctx))

/-- A port failure has dropped packets of a context: its open work items are replayed from their checkpoints, but one
whose commit sends the packets is not (R372, R482, R556, R557). -/
def ringReplay (s : State) (ctx : Nat) : State :=
  s.ho.items.foldl (fun acc it =>
    if it.journaled && it.commit.isNone && it.launches.any (fun d => d.ctx == ctx) then putItem acc { it with replay := true }
    else acc) s

/-- The item that a ring's error at a descriptor belongs to: the one that posted it, or else the oldest of the ring's
context. -/
def ringItem (s : State) (ring dseq : Nat) : Option Item :=
  match (getRing s ring).find? (fun d => d.words.getD 0 0 % 65536 == dseq && d.item != 0) with
  | some d => (getItem s d.item).orElse (fun _ => ctxItem s (ringCtx s ring))
  | none => ctxItem s (ringCtx s ring)

/-- An item whose ring has halted: one that a page under restore stopped is held for replay (R542); one whose commit is under
way applies its other effects and completes with the code; any other ends with it (R138, R556). -/
def ringItemStop (s : State) (it : Item) (code span hold : Nat) : State :=
  if hold ≠ 0 && it.journaled then putItem s { it with held := hold, replay := it.commit.isNone }
  else if it.commit.isSome then putItem s { it with code := code, span := span }
  else itemError s it.id code 0 0 span 0

/-- Fenivar ends the work item that a ring's error belongs to; a drop by a port failure ends none while the journal is
enabled (R138, R469, R557), and poison of a page that a mirror restores holds it: `hold` is what it waits for, 0 for
nothing (R542). -/
def ringItemEnds (s : State) (ring code dseq hold : Nat) : State :=
  if code = 0x45 && getB s fJrnlCtrlEnable pgJrnl then
    let s1 := ringReplay s (ringCtx s ring)
    { s1 with pkg := { s1.pkg with link := { s1.pkg.link with
        lost := if s1.pkg.link.lost.contains (ring, dseq) then s1.pkg.link.lost else s1.pkg.link.lost ++ [(ring, dseq)] } } }
  else match ringItem s ring dseq with
    | some it => ringItemStop s it code (ring / 64) hold
    | none => s

/-- A ring halts: descriptors not yet started never start (R469). -/
def ringHalt (s : State) (ring code reason dseq hold : Nat) : State :=
  let pg := pgZring (ring / 64)
  let s1 := setF (ringRecord s ring code reason dseq) fZringStateState pg 2 (ring % 64)
  let s2 := ringItemEnds (irqSrc s1 pg 1) ring code dseq hold
  putRing s2 ring ((getRing s2 ring).filter (·.started))

/-- An ERR packet received for a ring, or one that would return to this package (R469, R472). -/
def ringErr (s : State) (ring reason dseq : Nat) : State :=
  if reason = 5 then
    elogAdd (ringRecord s ring 0 5 dseq) { elogOf 0x0C with
      span := ring / 64, unit := 0x41, index := getF s fZringCfgCore (pgZring (ring / 64)) (ring % 64), ctx := ringCtx s ring }
  else ringHalt s ring (if reason = 8 then 0x45 else 0x44) reason dseq 0

/-! ### Routing (R461) -/

/-- The first set bit of a port mask after a port, in turn. -/
def nextPort (mask last : Nat) : Nat :=
  ((List.range 12).map (fun k => (last + 1 + k) % 12)).find? (bitAt mask) |>.getD 0

/-- Ports of a mask that are ACTIVE. -/
def activePorts (s : State) (mask : Nat) : Nat :=
  ((List.range 12).filter (fun p => bitAt mask p && zlActive s p)).foldl (fun acc p => acc + 2 ^ p) 0

/-- Port and channel by which a packet leaves; `from_` is its arrival port, none where it originates here
(R461). DESIGN CHOICE: the ports take turns separately for each destination (log entry 67). -/
def routeOf (s : State) (k : Pkt) (from_ : Option Nat) : Option (Nat × Nat) :=
  let d := pkDst k
  let m1 := activePorts s (getF s fZrouteEntryPrimary pgZroute d)
  let m := if m1 = 0 then activePorts s (getF s fZrouteEntryAlt pgZroute d) else m1
  if m = 0 || !getB s fZrouteEntryValid pgZroute d then none
  else
    let p := nextPort m (look s.pkg.link.turn d 11)
    let vc := match from_ with
      | none => 0
      | some a => if getF s fZlCfgDim (pgZl p) ≠ getF s fZlCfgDim (pgZl a) then 0 else pkVc k
    some (p, if bitAt (getF s fZrouteEntryDateline pgZroute d) p then 1 else vc)

/-- A packet with its VC replaced. -/
def pkSetVc (k : Pkt) (vc : Nat) : Pkt :=
  match k with
  | [] => []
  | h :: t => setBits h 4 1 vc :: t

/-- A packet queued at a port. -/
def portQueue (s : State) (p : Nat) (k : Pkt) : State :=
  let x := getZl s p
  putZl s p (if pkType k = 5 then { x with keyq := x.keyq ++ [k] } else { x with txq := x.txq ++ [k] })

/-- A packet routed out, if a port leads to its destination. -/
def routeOut (s : State) (k : Pkt) (from_ : Option Nat) : Option State :=
  match routeOf s k from_ with
  | none => none
  | some (p, vc) =>
    let s1 := { s with pkg := { s.pkg with link := { s.pkg.link with turn := put s.pkg.link.turn (pkDst k) p } } }
    some (portQueue s1 p (pkSetVc k vc))

/-- An ERR about a packet (R471): it returns to the packet's source; about this package's own packet, it is
recorded for its ring; one with no route is lost. -/
def sendErr (s : State) (k : Pkt) (reason : Nat) : State :=
  if pkSrc k = selfPkg s then ringErr s (pkRing k) reason (pkDseq k)
  else
    let e := [mkHead 4 0 (pkSrc k) (selfPkg s) 0 0 0 (pkRing k) (pkDseq k) reason 0 0 0]
    (routeOut s e none).getD s

/-! ### Port failure (R482) -/

/-- A packet lost with a port: counted, with an ERR for a routed one. -/
def dropPacket (p : Nat) (s : State) (k : Pkt) : State :=
  let s1 := bumpF s fZlDroppedCount (pgZl p)
  if pkRouted k then sendErr s1 k 8 else s1

/-- A port between two exchanges of flits: what it has received stays, with credits that belong to the earlier exchange and
are not returned in the next (R458, R482). -/
def portAfresh (x : ZlPort) : ZlPort :=
  { newZlPort with
    rx := x.rx, retrains := x.retrains, wire := x.wire
    kept := (List.range 7).map (fun c => ((x.rx.filter (fun k => pkClass k.2 == c && pkType k.2 != 7)).map (fun k => pkCredits k.2)).sum) }

/-- A port enters FAILED: its packets are dropped, those already received stay (R482). -/
def zlFail (s : State) (p cause : Nat) : State :=
  let x := getZl s p
  let lost := x.sent.map (·.2) ++ (match x.cur with | some c => [c.1] | none => []) ++ x.keyq ++ x.txq
  let s1 := putZl (setF s fZlStatusFailCause (pgZl p) cause) p (portAfresh x)
  lost.foldl (dropPacket p) (zlEnter s1 p 7)

/-! ### States (R451, R453, R484) -/

/-- A register of a ZL page written: absent ports reject on the writer's path. -/
def zlGuard (p m off : Nat) (s eff : State) : State :=
  if zlAbsent s p then rejectPath s .absent m off 0 else guarded s (pgZl p) m off eff

/-- ZL.CFG.ENABLE set; a port that is enabled already and has left DISABLED takes the same value again (R22, R453,
R484). -/
def zlEnableEffect (p m : Nat) (s : State) : State :=
  if getB s fZlCfgEnable (pgZl p) && zlState s p != 0 then s
  else if zlState s p ≠ 0 ∧ zlState s p ≠ 7 then reject s (pgZl p) .quiesce m 0x100 0
  else
    let s1 := setB s fZlCfgEnable (pgZl p) true
    if zlState s p = 0 then zlEnter s1 p 1 else s1

/-- ZL_ENABLE (R453). -/
def execZlEnable (p : Fin 12) (m : Nat) (s : State) : Host.Outcome State Fault Refusal :=
  .next (clocked s (zlGuard p m 0x100 s (zlEnableEffect p m s)))

/-- ZL_SIGNAL_DETECT (R453). -/
def execZlSignalDetect (p : Fin 12) (s : State) : Host.Outcome State Fault Refusal :=
  .next (clocked s (if zlState s p = 1 then zlEnter s p 2 else s))

/-- Whether a port has been in its state for longer than a time. -/
def zlLonger (s : State) (p n : Nat) : Bool := decide (s.tick > (getZl s p).since + n)

/-- Equalisation ends with a mask of failing lanes (R451). DESIGN CHOICE: lanes that allow no training give
FAIL_CAUSE 1 (log entry 67). -/
def zlEqualiseDoneEffect (p : Fin 12) (bad : Fin 256) (s : State) : State :=
  let b := bad.val
  if b = 0 then zlEnter (setB s fZlStatusWidth (pgZl p) false) p 3
  else if getB s fZlCfgAllowX4 (pgZl p) && (b % 16 == 0 || b / 16 == 0) then
    zlEnter (setB s fZlStatusWidth (pgZl p) true) p 3
  else zlFail s p 1

/-- ZL_EQUALISE_DONE (R451). -/
def execZlEqualiseDone (p : Fin 12) (bad : Fin 256) (s : State) : Host.Outcome State Fault Refusal :=
  .next (clocked s (if zlState s p = 2 && !zlLonger s p 100000000 then zlEqualiseDoneEffect p bad s else s))

/-- A NEG packet of this package for a port (R455, R456, R476): major 1, minor 0 to 0, and the credits that
a receiver advertises (R458). -/
def negPacket (s : State) (p : Nat) : Pkt :=
  let w0 := 1 + 2 ^ 24 * selfPkg s + 2 ^ 34 * p + 2 ^ 38 * (if s.fuse.gradeS then 2 else 1)
    + 2 ^ 46 * getF s fZlStatusWidth (pgZl p)
  let w1 := 64 + 1024 * 2 ^ 16 + 1024 * 2 ^ 32 + 1024 * 2 ^ 48
  [mkHead 7 0 0 (selfPkg s) 2 0 0 0 0 0 0 0 0, w0 + 2 ^ 64 * w1, 0]

/-- A port enters NEGOTIATE: a new exchange of flits begins with its NEG packet. -/
def zlNegotiate (s : State) (p : Nat) : State :=
  let x := getZl s p
  zlEnter (putZl s p { portAfresh x with txq := [negPacket s p] }) p 4

/-- ALIGN done: the port negotiates; in RETRAIN it negotiates again, with its traffic held (R453). -/
def zlAlignDoneEffect (p : Nat) (s : State) : State :=
  if zlState s p = 3 && !zlLonger s p 10000000 then zlNegotiate s p
  else if zlState s p = 6 then putZl s p { getZl s p with aligned := true }
  else s

/-- ZL_ALIGN_DONE (R453). -/
def execZlAlignDone (p : Fin 12) (s : State) : Host.Outcome State Fault Refusal :=
  .next (clocked s (zlAlignDoneEffect p s))

/-- Time limit of a state and the cause of its failure (R453, R484). -/
def zlLimit (st : Nat) : Option (Nat × Nat) :=
  match st with
  | 2 => some (100000000, 1)
  | 3 => some (10000000, 2)
  | 4 => some (1000000, 7)
  | 6 => some (20000000, 5)
  | _ => none

/-- A port's time limit expires. -/
def zlStateTimeoutEffect (p : Fin 12) (s : State) : State :=
  match zlLimit (zlState s p) with
  | some (n, c) => if zlLonger s p n then zlFail s p c else s
  | none => s

/-- ZL_STATE_TIMEOUT (R453). -/
def execZlStateTimeout (p : Fin 12) (s : State) : Host.Outcome State Fault Refusal := .next (clocked s (zlStateTimeoutEffect p s))

/-- A port retrains: the third within a second fails it (R453). -/
def zlRetrain (s : State) (p : Nat) : State :=
  let x := getZl s p
  let near := x.retrains.filter (fun t => decide (s.tick < 1000000000 + t)) ++ [s.tick]
  let s1 := bumpF (putZl s p { x with retrains := near, delayOk := false, aligned := false, agreed := false }) fZlRetrainsCount (pgZl p)
  if near.length ≥ 3 then zlFail s1 p 5 else zlEnter s1 p 6

/-- A retrain ends, well once ALIGN and NEGOTIATE have been repeated, or not. The replay buffer is sent again (R453,
R459). -/
def zlRetrainDoneEffect (p : Fin 12) (ok : Bool) (s : State) : State :=
  let x := getZl s p
  if !ok || zlLonger s p 20000000 then zlFail s p 5
  else if x.aligned && x.agreed then zlEnter (putZl s p { x with resend := x.replay.length }) p 5
  else s

/-- ZL_RETRAIN_DONE (R453). -/
def execZlRetrainDone (p : Fin 12) (ok : Bool) (s : State) : Host.Outcome State Fault Refusal :=
  .next (clocked s (if zlState s p = 6 then zlRetrainDoneEffect p ok s else s))

/-- ZL.CTRL.RESTART written (R484). -/
def zlRestartEffect (p m : Nat) (s : State) : State :=
  if zlState s p = 7 then zlEnter (setF s fZlStatusFailCause (pgZl p) 0) p 1 else reject s (pgZl p) .range m 0x140 1

/-- ZL_RESTART (R484). -/
def execZlRestart (p : Fin 12) (m : Nat) (s : State) : Host.Outcome State Fault Refusal :=
  .next (clocked s (zlGuard p m 0x140 s (zlRestartEffect p m s)))

/-- ZL.CTRL.RETRAIN written (R484). -/
def zlRetrainEffect (p m : Nat) (s : State) : State :=
  if zlActive s p then zlRetrain s p else reject s (pgZl p) .range m 0x140 0

/-- ZL_RETRAIN (R484). -/
def execZlRetrain (p : Fin 12) (m : Nat) (s : State) : Host.Outcome State Fault Refusal :=
  .next (clocked s (zlGuard p m 0x140 s (zlRetrainEffect p m s)))

/-! ### Sending flits (R457 to R459) -/

/-- Whether a port holds the credits for a packet; a NEG packet is sent before any are known. -/
def portPays (x : ZlPort) (k : Pkt) : Bool := pkType k == 7 || decide (pkCredits k ≤ x.credits.getD (pkClass k) 0)

/-- Credits taken for a packet, with the tick at which a class runs out. -/
def portTake (x : ZlPort) (now : Nat) (k : Pkt) : ZlPort :=
  if pkType k = 7 then x
  else
    let c := pkClass k
    let left := x.credits.getD c 0 - pkCredits k
    { x with credits := x.credits.set c left, zeroAt := if left = 0 then x.zeroAt.set c (some now) else x.zeroAt }

/-- The first packet of a class in the queue for which credits are held. DESIGN CHOICE: of a class's two channels VC0
goes first (log entry 67). -/
def portFirst (x : ZlPort) (cls : Nat → Bool) : Option Pkt :=
  [0, 1].findSome? (fun vc => match x.txq.find? (fun k => cls (pkClass k) && (pkClass k == 0 || pkVc k == vc)) with
    | some k => if portPays x k then some k else none
    | none => none)

/-- The packet to send next: CTL, then SIG, then RED and WR by turns (R458). -/
def portNext (x : ZlPort) : Option (Pkt × Bool) :=
  let red := portFirst x (fun c => c == 3 || c == 4)
  let wr := portFirst x (fun c => c == 5 || c == 6)
  match portFirst x (· == 0) with
  | some k => some (k, x.wrTurn)
  | none => match portFirst x (fun c => c == 1 || c == 2) with
    | some k => some (k, x.wrTurn)
    | none => match red, wr with
      | some r, some w => if x.wrTurn then some (w, false) else some (r, true)
      | some r, none => some (r, true)
      | none, some w => some (w, false)
      | none, none => none

/-- A packet as it leaves: ECHO and KEY packets take their stamps at the flit's first symbol (R476, R477). -/
def pkStamp (now ct : Nat) (k : Pkt) : Pkt :=
  match k with
  | h :: a :: b :: t =>
    if bits h 0 4 = 6 then
      (if bitAt b 64 then h :: a :: setBits b 0 64 now :: t else h :: setBits a 0 64 now :: b :: t)
    else if bits h 0 4 = 5 && !bitAt b 27 then h :: setBits a 0 64 ct :: b :: t
    else k
  | _ => k

/-- Units filled into a flit: the packet in progress first, then packets by class while units and credits
last. Packets whose last unit is in the flit are named. -/
def flitFill (now ct : Nat) : Nat → Nat → ZlPort → List Nat × List Pkt × ZlPort
  | 0, _, x => ([], [], x)
  | k + 1, room, x =>
    if room = 0 then ([], [], x)
    else match x.cur with
      | some (p, rest) =>
        let u := rest.take room
        let left := rest.drop room
        let r := flitFill now ct k (room - u.length) { x with cur := if left.isEmpty then none else some (p, left) }
        (u ++ r.1, (if left.isEmpty then [p] else []) ++ r.2.1, r.2.2)
      | none => match portNext x with
        | none => ([], [], x)
        | some (p, turn) =>
          let q := pkStamp now ct p
          flitFill now ct k room { portTake x now p with cur := some (q, q), txq := x.txq.erase p, wrTurn := turn }

/-- Header of a flit (R457). -/
def flitHead (fseq ack nak cls count keyFirst idle : Nat) : Nat :=
  fseq % 4096 + 2 ^ 12 * (ack % 4096) + 2 ^ 24 * (nak % 2) + 2 ^ 25 * ((cls + 1) / 2) + 2 ^ 27 * (if cls = 0 then 0 else (cls + 1) % 2)
    + 2 ^ 28 * (count % 4096) + 2 ^ 40 * (keyFirst % 2) + 2 ^ 41 * (idle % 2)

/-- CRC-64 shifted by one bit, with the ECMA-182 polynomial. -/
def crcBit (c : Nat) : Nat := if c < 2 ^ 63 then 2 * c else (2 * c ^^^ 0x42F0E1EBA9EA3693) % 2 ^ 64

/-- CRC-64 taken on by a byte. -/
def crcByte (c b : Nat) : Nat := crcBit (crcBit (crcBit (crcBit (crcBit (crcBit (crcBit (crcBit (c ^^^ 2 ^ 56 * b))))))))

/-- CRC-64 taken on by the `n` bytes of a little-endian word. -/
def crcWord : Nat → Nat → Nat → Nat
  | 0, _, c => c
  | n + 1, w, c => crcWord n (w / 256) (crcByte c (w % 256))

/-- CRC of a flit over its header and its 31 units (R457). PRESUMED: the standard's bit order and zero initial value
(log entry 68). -/
def flitCrc (h : Nat) (units : List Nat) : Nat := units.foldl (fun c u => crcWord 16 u c) (crcWord 8 h 0)

/-- Credits of a class that the next numbered flit returns. -/
def flitGives (x : ZlPort) (cls : Nat) : Nat := min (x.give.getD cls 0) 4095

/-- A flit put on the wire with the port's acknowledgement, `n` returned credits of a class and its CRC. -/
def flitOut (x : ZlPort) (cls n fseq : Nat) (units : List Nat) (keyFirst idle : Bool) : ZlPort :=
  let ack := (x.rxFseq + 4095) % 4096
  let h := flitHead fseq ack (if x.nakPend then 1 else 0) cls n (if keyFirst then 1 else 0) (if idle then 1 else 0)
  { x with
    wire := (let body := units ++ List.replicate (31 - units.length) 0; h :: body ++ [flitCrc h body])
    nakPend := false }

/-- A new numbered flit, or an idle one when nothing may be sent. DESIGN CHOICE: credits travel in numbered flits alone, one of
NULL units where nothing else is to be sent, since a lost idle flit is not sent again (R459, log entry 110). -/
def flitNew (now ct cls : Nat) (s : State) (p : Nat) : State :=
  let x := getZl s p
  let key := match x.keyq with | k :: _ => if portPays x k && x.delayOk then some (pkStamp now ct k) else none | [] => none
  let x1 := match x.keyq, key with | k :: t, some _ => { portTake x now k with keyq := t } | _, _ => x
  let ku := key.getD []
  let f := flitFill now ct 64 (31 - ku.length) x1
  let units := ku ++ f.1
  let n := flitGives x cls
  if (units.isEmpty && n == 0) || x.replay.length ≥ 256 then putZl s p (flitOut x cls 0 0 [] false true)
  else
    let done := (match key with | some k => [k] | none => []) ++ f.2.1
    let y := flitOut f.2.2 cls n x.nextFseq units key.isSome false
    bumpF (putZl s p { y with
      nextFseq := (x.nextFseq + 1) % 4096, replay := y.replay ++ [⟨x.nextFseq, units, key.isSome, 0, cls, n⟩]
      give := y.give.set cls (y.give.getD cls 0 - n)
      sent := y.sent ++ done.map (fun k => (x.nextFseq, k)) }) fZlFlitsTxCount (pgZl p)

/-- Cadence time as a stamp. -/
def cadenceStamp (s : State) : Nat := (cadenceTime s % 2 ^ 64).toNat

/-- A flit sent: one of the replay buffer that is to be sent again with the credits that it returned first, or a new one
whose returned credits are of class `cls` (R457, R459). In RETRAIN it carries this package's NEG alone. DESIGN CHOICE:
that flit is not numbered, as the numbered ones are held (R453, log entry 111). -/
def flitTransmitEffect (p : Fin 12) (cls : Fin 7) (s : State) : State :=
  let x := getZl s p
  if zlState s p = 6 then putZl s p (flitOut x 0 0 0 (negPacket s p) false false)
  else if x.resend = 0 then flitNew s.tick (cadenceStamp s) cls s p
  else match x.replay[x.replay.length - x.resend]? with
    | none => putZl s p { x with resend := 0 }
    | some f => putZl s p { flitOut x f.cls f.count f.fseq f.units f.keyFirst false with resend := x.resend - 1 }

/-- FLIT_TRANSMIT comes about on a port that exchanges flits, one in RETRAIN once it is aligned (R453). -/
def flitTransmitReady (p : Fin 12) (s : State) : Bool :=
  (zlState s p == 4 || zlActive s p || (zlState s p == 6 && (getZl s p).aligned)) && !portTested s p

/-- FLIT_TRANSMIT (R457). -/
def execFlitTransmit (p : Fin 12) (cls : Fin 7) (s : State) : Host.Outcome State Fault Refusal :=
  .next (clocked s (if flitTransmitReady p s then flitTransmitEffect p cls s else s))

/-! ### Receiving flits (R457 to R459, R470) -/

/-- Credits for a received packet to be returned, when it leaves the receive buffer; a NEG packet took none, and those of an
earlier exchange of flits are not returned (R458). -/
def creditBack (x : ZlPort) (k : Pkt) : ZlPort :=
  let c := pkClass k
  let old := min (x.kept.getD c 0) (pkCredits k)
  if pkType k = 7 then x
  else { x with kept := x.kept.set c (x.kept.getD c 0 - old), give := x.give.set c (x.give.getD c 0 + (pkCredits k - old)) }

/-- A whole packet received: it waits in the receive buffer, or is discarded for its format. -/
def packetIn (p at_ : Nat) (s : State) (k : Pkt) : State :=
  if pkBad k then
    let s1 := bumpF (putZl s p (creditBack (getZl s p) k)) fZlDroppedCount (pgZl p)
    if pkRouted k then sendErr s1 k 6 else s1
  else let x := getZl s p; putZl s p { x with rx := x.rx ++ [(at_, k)] }

/-- Units of a flit joined to the packet in progress; NULL units between packets are passed over. -/
def unitsIn (p at_ : Nat) : List Nat → State → State
  | [], s => s
  | u :: t, s =>
    let x := getZl s p
    if x.partUnits.isEmpty && bits u 0 4 == 0 then unitsIn p at_ t s
    else
      let k := x.partUnits ++ [u]
      let first := if x.partUnits.isEmpty then at_ else x.partAt
      if k.length = pkLength (k.headD 0) then
        unitsIn p at_ t (packetIn p first (putZl s p { x with partUnits := [] }) k)
      else unitsIn p at_ t (putZl s p { x with partUnits := k, partAt := first })

/-- Flits acknowledged leave the replay buffer. -/
def flitAck (x : ZlPort) (ack : Nat) : ZlPort :=
  match x.replay with
  | [] => x
  | f :: _ =>
    let n := (4096 + ack - f.fseq) % 4096 + 1
    if n > x.replay.length then x
    else
      let old := (x.replay.take n).map (·.fseq)
      { x with replay := x.replay.drop n, resend := min x.resend (x.replay.length - n), sent := x.sent.filter (fun k => !old.contains k.1) }

/-- A NAK of the oldest unacknowledged flit: it and every later one are sent again; the fourth retrains the
port (R459). -/
def flitNak (s : State) (p : Nat) : State :=
  let x := getZl s p
  let s1 := bumpF s fZlNaksCount (pgZl p)
  match x.replay with
  | [] => s1
  | f :: t =>
    let s2 := putZl s1 p { x with replay := { f with naks := f.naks + 1 } :: t, resend := x.replay.length }
    if f.naks + 1 ≥ 4 then zlRetrain s2 p else s2

/-- Credits returned by a flit. -/
def flitCredits (x : ZlPort) (h : Nat) : ZlPort :=
  let c := bits h 25 2
  let k := if c = 0 then 0 else 2 * c - 1 + bits h 27 1
  let n := x.credits.getD k 0 + bits h 28 12
  { x with credits := x.credits.set k n, zeroAt := if n = 0 then x.zeroAt else x.zeroAt.set k none }

/-- A flit that passed its checks: acknowledgement, and its credits and units when it is the one expected; another numbered
flit is discarded, and an idle one has no units (R459). -/
def flitGood (p : Nat) (h : Nat) (units : List Nat) (s : State) : State :=
  let s1 := putZl s p (flitAck (getZl s p) (bits h 12 12))
  let s2 := if bitAt h 24 then flitNak s1 p else s1
  let x := getZl s2 p
  if bitAt h 41 then putZl s2 p (flitCredits x h)
  else if bits h 0 12 ≠ x.rxFseq then s2
  else
    let s3 := bumpF (putZl s2 p { flitCredits x h with rxFseq := (x.rxFseq + 1) % 4096, nakPend := false }) fZlFlitsRxCount (pgZl p)
    if bitAt h 40 then
      unitsIn p s.tick ((units.take 31).drop 3) (packetIn p s.tick s3 (units.take 3))
    else unitsIn p s.tick (units.take 31) s3

/-- FLIT_RECEIVE comes about on a port that exchanges flits. -/
def flitReceiveReady (p : Fin 12) (s : State) : Bool := zlState s p == 4 || zlActive s p || zlState s p == 6

/-- A flit received in RETRAIN: a NEG packet is taken in, and everything else is held back at its sender (R453). -/
def retrainFlit (p : Nat) (units : List Nat) (s : State) : State :=
  if pkType units = 7 then packetIn p s.tick s (units.take (pkLength (pkHead units))) else s

/-- A flit received: `ok` says that its FEC codewords could be corrected, `h` is its header, `units` its units and
`crc` its CRC. -/
def flitReceiveEffect (p : Fin 12) (ok : Bool) (h : Nat) (units : List Nat) (crc : Nat) (s : State) : State :=
  if zlState s p = 6 then (if ok && crc == flitCrc h units then retrainFlit p units s else s)
  else if ok && crc == flitCrc h units then flitGood p h units s
  else putZl s p { getZl s p with nakPend := true }

/-- FLIT_RECEIVE (R459). -/
def execFlitReceive (p : Fin 12) (ok : Bool) (h : Nat) (units : List Nat) (crc : Nat) (s : State) :
    Host.Outcome State Fault Refusal :=
  .next (clocked s (if flitReceiveReady p s then flitReceiveEffect p ok h units crc s else s))

/-! ### The receive buffer -/

/-- The first packets of each class and channel in the receive buffer that a test picks. -/
def rxPick (x : ZlPort) (f : Pkt → Bool) : Option (Nat × Pkt) :=
  (List.range 7).findSome? (fun c => match x.rx.find? (fun k => pkClass k.2 == c) with
    | some k => if f k.2 then some k else none
    | none => none)

/-- A packet taken from the receive buffer, with its credits to be returned. -/
def rxTake (s : State) (p : Nat) (k : Nat × Pkt) : State :=
  let x := getZl s p
  putZl s p (creditBack { x with rx := x.rx.erase k } k.2)

/-- PACKET_ROUTE comes about for a routed packet that is not for this package. -/
def packetRoutePick (p : Fin 12) (s : State) : Option (Nat × Pkt) :=
  rxPick (getZl s p) (fun k => pkRouted k && pkDst k != selfPkg s)

/-- A packet forwarded, or refused with NO_ROUTE (R461). -/
def packetRouteEffect (p : Fin 12) (s : State) : State :=
  match packetRoutePick p s with
  | none => s
  | some k =>
    let s1 := rxTake s p k
    match routeOut s1 k.2 (some p.val) with
    | some s2 => bumpF s2 fZwinForwardedCount pgZwin
    | none => sendErr s1 k.2 7

/-- PACKET_ROUTE (R461). -/
def execPacketRoute (p : Fin 12) (s : State) : Host.Outcome State Fault Refusal := .next (clocked s (packetRouteEffect p s))

/-- LINK_STALL comes about: an ACTIVE port has held no credit of a routed class for 10 ms. -/
def linkStallReady (p : Fin 12) (cls : Fin 7) (s : State) : Bool :=
  zlActive s p && cls.val != 0
    && (match (getZl s p).zeroAt.getD cls none with | some t => decide (s.tick ≥ 10000000 + t) | none => false)

/-- LINK_STALL (R461): the partner's empty buffer is what the event says. -/
def execLinkStall (p : Fin 12) (cls : Fin 7) (s : State) : Host.Outcome State Fault Refusal :=
  .next (clocked s (if linkStallReady p cls s then zlFail (irqSrc s (pgZl p) 1) p 6 else s))

end Sys2Proof.Machine
end

