-- ==== Sys2Proof/Machine/Cluster.lean ====
section
/-!
DEFINITION. Windows, send rings, packets at their destination and keystone beats (R463 to R481).
-/
namespace Sys2Proof.Machine

/-! ### Windows (R463, R464) -/

/-- A window entry's words read at the point of coherence; none where the read meets poison or stale
columns. DESIGN CHOICE: such an entry counts as not VALID (log entry 69). -/
def winRead (s : State) (w : Nat) : Option (List Nat) × State :=
  let da := 131072 * getF s fZwinBaseBase pgZwin + 32 * w
  if !daOk s (da + 31) then (none, s)
  else
    let r := pocRead s (cellOf s false da / 128)
    if r.1.unsealed || bitAt r.1.poison (da % 128 / 32) then (none, r.2)
    else
      let b := (r.1.data.drop (da % 128)).take 32
      (some [leWord b 0, leWord b 1, leWord b 2, leWord b 3], r.2)

/-- A window entry as a port checks it: a cached entry may be used or read again (R463, R464). -/
def winEntry (s : State) (w : Nat) : List Nat × State :=
  let fetch (t : State) : List Nat × State :=
    let r := winRead t w
    let e := r.1.getD [0, 0, 0, 0]
    (e, { r.2 with pkg := { r.2.pkg with link := { r.2.pkg.link with wins := put r.2.pkg.link.wins w e } } })
  match s.pkg.link.wins.find? (fun x => x.1 = w) with
  | none => fetch s
  | some x => let f := freeBit s; if f.1 then (x.2, f.2) else fetch f.2

/-- Word of an entry. -/
def winWord (e : List Nat) (k : Nat) : Nat := e.getD k 0
/-- CTX of an entry. -/
def winCtx (e : List Nat) : Nat := bits (winWord e 0) 4 12
/-- SPAN of an entry. -/
def winSpan (e : List Nat) : Nat := bits (winWord e 0) 16 3
/-- CORE of an entry. -/
def winCore (e : List Nat) : Nat := bits (winWord e 0) 19 4
/-- BASE of an entry. -/
def winBase (e : List Nat) : Nat := winWord e 1
/-- LEN of an entry. -/
def winLen (e : List Nat) : Nat := winWord e 2

/-- Whether an entry is VALID: no reserved bit, a range inside device memory, a present core (R463). DESIGN CHOICE: nor
is one VALID whose BASE or LEN is not aligned as the table asks (log entry 69). A core that an alias stands for counts as present (R540). -/
def winValid (s : State) (e : List Nat) : Bool :=
  bitAt (winWord e 0) 0 && bits (winWord e 0) 35 29 == 0 && winWord e 3 == 0 && winBase e % 4096 == 0
    && winLen e % 4096 == 0 && winLen e != 0 && decide (winBase e + winLen e ≤ 8 * stackCap s)
    && coreNamed s (winSpan e) (winCore e)

/-- Cell of an offset in a window. -/
def winCell (s : State) (e : List Nat) (off : Nat) : Nat := cellOf s (bitAt (winWord e 0) 34) (winBase e + off)

/-- ZWIN.INVAL written (R464, R486). -/
def zwinInvalEffect (all : Bool) (idx : Fin 4096) (m : Nat) (s : State) : State :=
  if getB s fZwinStatusBusy pgZwin then reject s pgZwin .busy m 0x108 16
  else setB { s with pkg := { s.pkg with link := { s.pkg.link with
      inval := some (if all then none else some idx.val) } } } fZwinStatusBusy pgZwin true

/-- ZWIN_INVAL (R464). -/
def execZwinInval (all : Bool) (idx : Fin 4096) (m : Nat) (s : State) : Host.Outcome State Fault Refusal :=
  .next (clocked s (guarded s pgZwin m 0x108 (zwinInvalEffect all idx m s)))

/-- Cached entries dropped. -/
def winDrop (s : State) (w : Option Nat) : State :=
  { s with pkg := { s.pkg with link := { s.pkg.link with
      wins := match w with | some i => del s.pkg.link.wins i | none => [] } } }

/-- The window invalidation completes. -/
def zwinInvalDoneEffect (s : State) : State :=
  match s.pkg.link.inval with
  | none => s
  | some w =>
    let s1 := winDrop s w
    let s2 := { s1 with pkg := { s1.pkg with link := { s1.pkg.link with inval := none } } }
    setB (bumpF s2 fZwinStatusDone pgZwin) fZwinStatusBusy pgZwin false

/-- ZWIN_INVAL_DONE (R464). -/
def execZwinInvalDone (s : State) : Host.Outcome State Fault Refusal := .next (clocked s (zwinInvalDoneEffect s))

/-! ### Send rings (R465 to R469) -/

/-- Word of a descriptor. -/
def sdWord (d : List Nat) (k : Nat) : Nat := d.getD k 0
/-- OP of a descriptor. -/
def sdOp (d : List Nat) : Nat := bits (sdWord d 0) 16 2
/-- RED_OP of a descriptor. -/
def sdRedOp (d : List Nat) : Nat := bits (sdWord d 0) 18 3
/-- RFMT of a descriptor. -/
def sdRfmt (d : List Nat) : Nat := bits (sdWord d 0) 21 2
/-- ORD of a descriptor. -/
def sdOrd (d : List Nat) : Nat := bits (sdWord d 0) 23 1
/-- SEQ of a descriptor. -/
def sdSeq (d : List Nat) : Nat := bits (sdWord d 0) 0 16
/-- SRC_OFF of a descriptor. -/
def sdSrcOff (d : List Nat) : Nat := bits (sdWord d 2) 0 40
/-- DST_OFF of a descriptor. -/
def sdDstOff (d : List Nat) : Nat := bits (sdWord d 3) 0 40
/-- LEN of a descriptor. -/
def sdLen (d : List Nat) : Nat := bits (sdWord d 4) 0 32

/-- Whether a reducer operation and a format go together (R192, R466, R472). -/
def redFmtOk (op fmt : Nat) : Bool := (decide (op ≤ 2) && decide (fmt ≤ 2)) || ((op == 3 || op == 4) && fmt == 0)

/-- Whether a descriptor breaks R466. DESIGN CHOICE: a field that R466 describes for one OP alone must be zero for the
others (log entry 69). -/
def sdInvalid (d : List Nat) : Bool :=
  let op := sdOp d
  let red := op == 1
  let sig := op == 2
  let ord := red && sdOrd d == 1
  op == 3 || bits (sdWord d 0) 61 3 != 0
    || (red && !redFmtOk (sdRedOp d) (sdRfmt d)) || (!red && (sdRedOp d != 0 || sdRfmt d != 0 || sdOrd d != 0))
    || bits (sdWord d 1) 12 52 != 0 || (sig && sdWord d 1 != 0)
    || bits (sdWord d 2) 40 24 != 0 || sdSrcOff d % 16 != 0 || (sig && sdWord d 2 != 0)
    || bits (sdWord d 3) 40 24 != 0 || sdDstOff d % 16 != 0 || (sig && sdWord d 3 != 0)
    || bits (sdWord d 4) 32 32 != 0 || sdLen d % 16 != 0 || (sig != (sdLen d == 0))
    || bits (sdWord d 5) 40 24 != 0 || (sig == (sdWord d 5 == 0))
    || bits (sdWord d 6) 56 8 != 0 || (!ord && sdWord d 6 != 0)
    || (List.range 9).any (fun k => sdWord d (7 + k) != 0)

/-- The line of the slot of a ring that a SEQ names, read at its point of coherence (R465). DESIGN CHOICE: a slot that
is poisoned or UNSEALED counts as not posted (log entry 69). -/
def ringSlot (s : State) (sp r seq : Nat) : Option (List Nat) × State :=
  let pg := pgZring sp
  let i := seq % 2 ^ getF s fZringCfgSizeLog2 pg r
  let da := 4096 * getF s fZringBaseBase pg r + 128 * i
  if !daOk s (da + 127) then (none, s)
  else
    let q := pocRead s (cellOf s false da / 128)
    if q.1.unsealed || q.1.poison != 0 then (none, q.2) else (some ((List.range 16).map (leWord q.1.data)), q.2)

/-- Whether a ring is served. -/
def ringRuns (s : State) (sp r : Nat) : Bool :=
  getB s fZringCfgEnable (pgZring sp) r && getF s fZringStateState (pgZring sp) r == 1

/-- The journaled item that a descriptor of a ring belongs to, 0 for none: the one that runs on the ring's core, or the
oldest open one of its context. DEDUCED: log entry 114. -/
def postItem (s : State) (sp r : Nat) : Nat :=
  let ctx := ringCtx s (64 * sp + r)
  let isOpen (id : Nat) : Bool := match getItem s id with | some it => it.journaled && it.commit.isNone | none => false
  let here := match ctxPartAt s sp (coreAliased s sp (getF s fZringCfgCore (pgZring sp) r)) ctx with
    | some p => p.launches.map (·.item)
    | none => []
  let any := (s.ho.items.filter (fun it => it.launches.any (fun d => d.ctx == ctx))).map (·.id)
  ((here ++ any).find? isOpen).getD 0

/-- SEND_DESC_POSTED: the slot after those in flight is taken when its SEQ is its position modulo 65,536. -/
def sendDescPostedEffect (sp : Fin 8) (r : Fin 64) (s : State) : State :=
  let ring := 64 * sp.val + r.val
  let l := getRing s ring
  if !ringRuns s sp r || l.length ≥ 16 then s
  else
    let q := ringSlot s sp r (getF s fZringStateHead (pgZring sp) r + l.length)
    match q.1 with
    | none => q.2
    | some w =>
      if sdSeq w = (getF s fZringStateHead (pgZring sp) r + l.length) % 65536
      then putRing q.2 ring (getRing q.2 ring ++ [⟨w, false, false, postItem q.2 sp r, false⟩]) else q.2

/-- SEND_DESC_POSTED (R465). -/
def execSendDescPosted (sp : Fin 8) (r : Fin 64) (s : State) : Host.Outcome State Fault Refusal :=
  .next (clocked s (sendDescPostedEffect sp r s))

/-- What a read of a source window answers: its bytes, or the device address of a poisoned column, none for an UNSEALED
line. -/
inductive WinRead where
  | bytes (b : List Byte) | bad (da : Option Nat)
  deriving DecidableEq, Repr

/-- Device address of the first poisoned column that `w` bytes at an offset of a line read. -/
def badColumn (s : State) (cell w poison : Nat) : Option Nat :=
  let o := cell % 128
  (((List.range 4).find? (fun c => bitAt poison c && decide (o < 32 * c + 32) && decide (32 * c < o + w)))).map
    (fun c => cellDa s (cell - o + 32 * c))

/-- Bytes of a source window read at the point of coherence for a partition, in runs that end at a line boundary, until a
read meets poison or UNSEALED (R224, R467). -/
def winBytes (e : List Nat) (part : Nat) : Nat → State → Nat → Nat → WinRead × State
  | 0, s, _, _ => (.bytes [], s)
  | k + 1, s, off, n =>
    if n = 0 then (.bytes [], s)
    else
      let w := min n (128 - off % 128)
      let cell := winCell s e off
      let o := cell % 128
      let r := pocRead (pierCharge s cell false false part ((o % 32 + w + 31) / 32)) (cell / 128)
      let bad := badColumn r.2 cell w r.1.poison
      if r.1.unsealed then (.bad none, r.2)
      else if bad.isSome then (.bad bad, r.2)
      else
        let t := winBytes e part k r.2 (off + w) (n - w)
        ((match t.1 with | .bytes b => .bytes ((r.1.data.drop o).take w ++ b) | .bad a => .bad a), t.2)

/-- Bytes as 16-byte units. -/
def unitsOf : Nat → List Byte → List Nat
  | 0, _ => []
  | k + 1, b => leNat (b.take 16) :: unitsOf k (b.drop 16)

/-- The second header unit of a RED packet (R471). -/
def redTagUnit (d : List Nat) (sp core iter : Nat) : Nat :=
  bits (sdWord d 6) 0 32 + 2 ^ 32 * sp + 2 ^ 35 * core + 2 ^ 39 * bits (sdWord d 6) 32 24 + 2 ^ 63 * (iter % 2 ^ 48)

/-- One data packet of a descriptor at a position (R467, R470, R471). -/
def dataPacket (s : State) (sp r core : Nat) (d : List Nat) (pos n : Nat) (b : List Byte) : Pkt :=
  let off := sdDstOff d + pos
  let red := sdOp d == 1
  let h := mkHead (if red then 2 else 1) 0 (bits (sdWord d 0) 32 10) (selfPkg s) (n / 16) (bits (sdWord d 0) 42 12)
    (bits (sdWord d 0) 54 7) (64 * sp + r) (sdSeq d) off (sdRedOp d) (sdRfmt d) (sdOrd d)
  let w := redBytes (redOpCode (sdRedOp d) (sdRfmt d))
  h :: (if red then [redTagUnit d sp core (pos / w)] else []) ++ unitsOf (n / 16) b

/-- The packet of a SIGNAL descriptor. -/
def signalPacket (s : State) (sp r : Nat) (d : List Nat) : Pkt :=
  [mkHead 3 0 (bits (sdWord d 0) 32 10) (selfPkg s) 0 (bits (sdWord d 0) 42 12) (bits (sdWord d 0) 54 7) (64 * sp + r)
    (sdSeq d) (bits (sdWord d 5) 0 40) 0 0 0]

/-- How the handing over of a descriptor's packets ended: well, with an error, or at poison of a device address. -/
inductive SendEnd where
  | ok | code (c : Nat) | poison (da : Nat)
  deriving DecidableEq, Repr

/-- Packets of a WRITE or REDUCE descriptor from a position on: none crosses a 4 KiB boundary of destination
offset (R467). -/
def sendData (sp r core : Nat) (d e : List Nat) : Nat → State → Nat → SendEnd × State
  | 0, s, _ => (.ok, s)
  | k + 1, s, pos =>
    if pos ≥ sdLen d then (.ok, s)
    else
      let n := min (sdLen d - pos) (4096 - (sdDstOff d + pos) % 4096)
      let b := winBytes e (ctxPart s (winCtx e)) 40 s (sdSrcOff d + pos) n
      match b.1 with
      | .bad none => (.code 0x42, b.2)
      | .bad (some da) => (.poison da, b.2)
      | .bytes bs => match routeOut b.2 (dataPacket s sp r core d pos n bs) none with
        | none => (.code 0x43, b.2)
        | some s1 => sendData sp r core d e k s1 (pos + n)

/-- A descriptor's checks and packets (R467). -/
def sendDesc (sp r : Nat) (d : List Nat) (s : State) : SendEnd × State :=
  let pg := pgZring sp
  let core := getF s fZringCfgCore pg r
  if sdInvalid d then (.code 0x40, s)
  else if sdOp d = 2 then
    match routeOut s (signalPacket s sp r d) none with
    | none => (.code 0x43, s)
    | some s1 => (.ok, s1)
  else
    let w := winEntry s (bits (sdWord d 1) 0 12)
    let e := w.1
    if !(winValid w.2 e && bitAt (winWord e 0) 1 && winCtx e == getF s fZringCfgCtx pg r
        && decide (sdSrcOff d + sdLen d ≤ winLen e)) then (.code 0x41, w.2)
    else sendData sp r core d e (sdLen d / 16 + 1) w.2 0

/-- The first descriptor of a ring that has not started, with its place. -/
def nextDesc (l : List SendDesc) : Option (SendDesc × Nat) :=
  (l.zipIdx.find? (fun x => !x.1.started))

/-- SEQ of the first descriptor of a ring that is to be posted again (R557). -/
def lostSeq (s : State) (ring : Nat) : Option Nat := (s.pkg.link.lost.find? (fun x => x.1 == ring)).map (·.2)

/-- SEND_DESC_START comes about: a descriptor waits, on a ring that runs, and no journaled item holds it; or a ring
that runs again has one whose packets were dropped. -/
def sendDescStartReady (sp : Fin 8) (r : Fin 64) (s : State) : Bool :=
  let ring := 64 * sp.val + r.val
  if (lostSeq s ring).isSome && ringRuns s sp r then true
  else match nextDesc (getRing s ring) with
  | some x => ringRuns s sp r && (x.1.released || x.1.item == 0)
  | none => false

/-- The end of a descriptor's packets taken in: the ring goes on, or halts, and consumed poison is logged with the context,
the address and the descriptor's slot; a page that a mirror restores holds the item (R469, R535, R542). -/
def sendStop (s : State) (ring seq : Nat) : SendEnd → State
  | .ok => s
  | .code c => ringHalt s ring c 0 seq 0
  | .poison da =>
    let pg := pgZring (ring / 64)
    let slot := 4096 * getF s fZringBaseBase pg (ring % 64) + 128 * (seq % 2 ^ getF s fZringCfgSizeLog2 pg (ring % 64))
    let s1 := elogAdd s { elogOf 0x05 with
      span := ring / 64, unit := 0x37, index := ring % 64, addr := da, ctx := ringCtx s ring, code := 0x42, cmdVa := slot }
    ringHalt s1 ring 0x42 0 seq (if (mirrorFor s da).isSome then da / 4096 + 2 else 0)

/-- A descriptor starts: its packets are handed to the ports, or the ring halts (R467, R469). -/
def descStart (sp r : Nat) (s : State) : State :=
  let ring := 64 * sp + r
  match nextDesc (getRing s ring) with
  | none => s
  | some x =>
    let q := sendDesc sp r x.1.words s
    match q.1 with
    | .ok => putRing q.2 ring ((getRing q.2 ring).set x.2 { x.1 with started := true })
    | e => sendStop q.2 ring (sdSeq x.1.words) e

/-- A descriptor that a port failure has cost packets is posted again with its SEQ, while its slot still holds it: its
packets are handed to the ports, and neither HEAD nor a tally changes (R557). DEDUCED: the send engine reads the slot
again (log entry 82). -/
def descAgain (sp r seq : Nat) (s : State) : State :=
  let ring := 64 * sp + r
  let s1 := { s with pkg := { s.pkg with link := { s.pkg.link with lost := s.pkg.link.lost.filter (· ≠ (ring, seq)) } } }
  let q := ringSlot s1 sp r seq
  match q.1 with
  | none => q.2
  | some w =>
    if sdSeq w ≠ seq then q.2
    else
      let x := sendDesc sp r w q.2
      sendStop x.2 ring seq x.1

/-- The next descriptor of a ring starts; one to be posted again goes first. -/
def sendDescStartEffect (sp : Fin 8) (r : Fin 64) (s : State) : State :=
  match lostSeq s (64 * sp.val + r.val) with
  | some seq => descAgain sp r seq s
  | none => descStart sp r s

/-- SEND_DESC_START (R467). -/
def execSendDescStart (sp : Fin 8) (r : Fin 64) (s : State) : Host.Outcome State Fault Refusal :=
  .next (clocked s (if sendDescStartReady sp r s then sendDescStartEffect sp r s else s))

/-- The oldest descriptor in flight completes: its addition is made, unless it was discarded, and HEAD advances (R467,
R553). -/
def sendDescCompleteEffect (sp : Fin 8) (r : Fin 64) (s : State) : State :=
  let ring := 64 * sp.val + r.val
  let pg := pgZring sp
  match getRing s ring with
  | d :: t =>
    if !d.started then s
    else
      let s1 := bumpF (putRing s ring t) fZringStateHead pg 1 r
      if d.gone || !bitAt (sdWord d.words 0) 24 then s1
      else
        let core := getF s fZringCfgCore pg r
        sendSignal s1 ⟨ringCtx s ring, sp, core, bits (sdWord d.words 0) 25 7, 1, 2, 0, sp, core, 3, 0, 0⟩
  | [] => s

/-- SEND_DESC_COMPLETE (R467). -/
def execSendDescComplete (sp : Fin 8) (r : Fin 64) (s : State) : Host.Outcome State Fault Refusal :=
  .next (clocked s (sendDescCompleteEffect sp r s))

/-- ZRING.CFG.ENABLE written: clearing it stops the ring, setting it serves the ring from HEAD (R469,
R488). -/
def zringEnableEffect (sp : Fin 8) (r : Fin 64) (on : Bool) (s : State) : State :=
  let pg := pgZring sp
  let ring := 64 * sp.val + r.val
  let s1 := setB s fZringCfgEnable pg on r
  if !on then putRing (setF s1 fZringStateState pg 0 r) ring ((getRing s ring).filter (·.started))
  else if getF s fZringStateState pg r = 0 then setF s1 fZringStateState pg 1 r else s1

/-- ZRING_ENABLE (R469). -/
def execZringEnable (sp : Fin 8) (r : Fin 64) (on : Bool) (m : Nat) (s : State) : Host.Outcome State Fault Refusal :=
  .next (clocked s (if spanDown s sp then rejectPath s .absent m (0x208 + 32 * r) 0
    else guarded s (pgZring sp) m (0x208 + 32 * r) (zringEnableEffect sp r on s)))

/-! ### Receipts (R557) -/

/-- Whether a packet's key is in the receipt table. -/
def receiptHas (s : State) (k : Pkt) : Bool :=
  s.ho.receipts.any (fun x => x.pkg == pkSrc k && x.ring == pkRing k && x.dseq == pkDseq k && x.off == pkOff k)

/-- Whether the receipt table can take a key. -/
def receiptRoom (s : State) : Bool :=
  !getB s fJrnlCtrlEnable pgJrnl || decide (s.ho.receipts.length < 2 ^ getF s fJrnlRcptSizeLog2 pgJrnl)

/-- An applied packet's key recorded; the table may be full from then on. -/
def receiptAdd (s : State) (k : Pkt) : State :=
  if getB s fJrnlCtrlEnable pgJrnl then
    let rs := s.ho.receipts ++ [⟨pkSrc k, pkRing k, pkDseq k, pkOff k, s.tick⟩]
    let full := decide (rs.length ≥ 2 ^ getF s fJrnlRcptSizeLog2 pgJrnl)
    { jrnlWrite s with ho := { s.ho with receipts := rs, fullAt := if full then some s.tick else s.ho.fullAt } }
  else s

/-! ### Packets at their destination (R472) -/

/-- Reason for which a packet is refused, 0 for none: window, source, permission, range, format. -/
def refuseReason (s : State) (e : List Nat) (k : Pkt) : Nat :=
  let w0 := winWord e 0
  let red := pkType k == 2
  if !winValid s e then 1
  else if !(bitAt w0 33 || bits w0 23 10 == pkSrc k) then 4
  else if !(if red then bitAt w0 3 else bitAt w0 2) then 3
  else if pkType k != 3 && decide (pkOff k + 16 * pkUnits k > winLen e) then 2
  else if red && !redFmtOk (bits (pkHead k) 118 3) (bits (pkHead k) 121 2) then 6
  else 0

/-- Bytes written into a window at the points of coherence, updating no tile cache (R325, R472). -/
def winWrite (e : List Nat) : Nat → State → Nat → List Byte → State
  | 0, s, _, _ => s
  | k + 1, s, off, b =>
    if b.isEmpty then s
    else
      let w := 32 - off % 32
      let cell := winCell s e off
      winWrite e k (pocWrite (pierCharge s cell true false (ctxPart s (winCtx e)) 1) cell (b.take w)) (off + w) (b.drop w)

/-- Bytes of a packet's data units. -/
def pkBytes (k : Pkt) : List Byte := (k.drop (if pkType k = 2 then 2 else 1)).flatMap (leBytes 16)

/-- Sequence tag of an element of a RED packet (R230, R471). -/
def redTag (k : Pkt) (j : Nat) : Nat :=
  let t := k.getD 1 0
  2 ^ 96 * bits t 0 32 + 2 ^ 86 * pkSrc k + 2 ^ 83 * bits t 32 3 + 2 ^ 79 * bits t 35 4 + 2 ^ 55 * bits t 39 24
    + 2 ^ 7 * ((bits t 63 48 + j) % 2 ^ 48)

/-- Value of an element of a RED packet. -/
def redElem (op fmt code : Nat) : Num :=
  match op with
  | 3 => numOfInt (sextNat 32 code)
  | 4 => numOfInt (sextNat 64 code)
  | _ => elemVal (redFmt fmt) false code

/-- Elements of a RED packet applied by the reducers (R227, R472). -/
def redElems (e : List Nat) (k : Pkt) (op fmt : Nat) : Nat → State → Nat → List Byte → State
  | 0, s, _, _ => s
  | n + 1, s, j, b =>
    let w := redBytes (redOpCode op fmt)
    if b.length < w then s
    else
      let cell := winCell s e (pkOff k + w * j)
      let v := redElem op fmt (leNat (b.take w))
      let part := ctxPart s (winCtx e)
      let hi := if w = 8 then winCell s e (pkOff k + w * j + 4) else cell
      let s2 := if bitAt (pkHead k) 123 then
          orderedAccept (pierAdd s cell true false false part 1)
            (stagedEntry (redTag k j) v cell hi (redOpCode op fmt) (winCtx e) 0)
        else redUpdate (redCharge s cell hi part) cell hi (redOpCode op fmt) v (winCtx e)
      redElems e k op fmt n s2 (j + 1) (b.drop w)

/-- Whether an addition would find no record of its context (R118, R472). -/
def orphaned (s : State) (e : List Nat) : Bool :=
  let core := coreAliased s (winSpan e) (winCore e)
  !coreAbsent s (winSpan e) core && (residentSlot s (winSpan e) core (winCtx e)).isNone
    && (getRec s (winSpan e) (winCtx e)).isNone

/-- The addition of an applied packet (R472). -/
def packetAdd (s : State) (e : List Nat) (k : Pkt) (n : Nat) : State :=
  let s1 := landSignal s ⟨winCtx e, winSpan e, winCore e, pkTally k, n, 2, 2, winSpan e, winCore e, 3, 0, 0⟩
  if orphaned s e then sendErr (bumpF s1 fZwinOrphansCount pgZwin) k 5 else s1

/-- A packet that has passed its checks is applied. -/
def packetApply (s : State) (e : List Nat) (k : Pkt) : State :=
  let s1 := receiptAdd s k
  match pkType k with
  | 1 => packetAdd (winWrite e (pkUnits k + 1) s1 (pkOff k) (pkBytes k)) e k (16 * pkUnits k)
  | 2 => packetAdd (redElems e k (bits (pkHead k) 118 3) (bits (pkHead k) 121 2) (8 * pkUnits k + 1) s1 0 (pkBytes k)) e k
      (16 * pkUnits k)
  | _ => packetAdd s1 e k (pkOff k)

/-- A WR, RED or SIG packet consumed: a key seen before has no effect, a refused packet causes an ERR. -/
def packetConsume (s : State) (k : Pkt) : State :=
  if receiptHas s k then bumpF s fJrnlDupCount pgJrnl
  else
    let w := winEntry s (pkWin k)
    match refuseReason w.2 w.1 k with
    | 0 => packetApply w.2 w.1 k
    | r => sendErr (bumpF w.2 fZwinRefusedCount pgZwin) k r

/-- The packet of a type that a port may consume next. -/
def consumable (p : Nat) (type : Nat) (s : State) : Option (Nat × Pkt) :=
  rxPick (getZl s p) (fun k => pkType k == type && pkDst k == selfPkg s)

/-- A packet of a type consumed at a port, when the receipt table has room (R472, R557). -/
def consumeType (p type : Nat) (s : State) : State :=
  match consumable p type s with
  | none => s
  | some k => if receiptHas s k.2 || receiptRoom s then packetConsume (rxTake s p k) k.2 else s

/-- WR (R472). -/
def execWr (p : Fin 12) (s : State) : Host.Outcome State Fault Refusal := .next (clocked s (consumeType p 1 s))

/-- RED (R472). -/
def execRed (p : Fin 12) (s : State) : Host.Outcome State Fault Refusal := .next (clocked s (consumeType p 2 s))

/-- SIG (R472). -/
def execSig (p : Fin 12) (s : State) : Host.Outcome State Fault Refusal := .next (clocked s (consumeType p 3 s))

/-- An ERR packet taken in (R469). -/
def errEffect (p : Fin 12) (s : State) : State :=
  match consumable p 4 s with
  | none => s
  | some k => ringErr (rxTake s p k) (pkRing k.2) (bits (pkHead k.2) 78 8) (pkDseq k.2)

/-- ERR (R469). -/
def execErr (p : Fin 12) (s : State) : Host.Outcome State Fault Refusal := .next (clocked s (errEffect p s))

/-! ### Hop-local packets (R455, R456, R477) -/

/-- A CTL packet of a type that a port holds. -/
def ctlPacket (p : Nat) (type : Nat) (s : State) : Option (Nat × Pkt) := (getZl s p).rx.find? (fun k => pkType k.2 == type)

/-- Fields of a NEG packet settled: versions, package number and credits (R455, R456). -/
def negSettle (p : Nat) (k : Pkt) (s : State) : State :=
  let w := k.getD 1 0
  let w1 := w / 2 ^ 64
  let pkg := bits w 24 10
  let s1 := setF (setF s fZlStatusPartnerPkg (pgZl p) pkg) fZlStatusPartnerPort (pgZl p) (bits w 34 4)
  if bits w 0 8 ≠ 1 || bits w 8 8 ≠ 0 then zlFail s1 p 3
  else if pkg = selfPkg s then zlFail s1 p 4
  else
    let c (k : Nat) : Nat := bits w1 (16 * k) 16
    let x := getZl s1 p
    let cr := [c 0, c 1, c 1, c 2, c 2, c 3, c 3]
    let s2 := putZl s1 p { x with credits := cr, zeroAt := cr.map (fun n => if n = 0 then some s.tick else none), delayOk := false }
    zlEnter (setF s2 fZlStatusMinor (pgZl p) 0) p 5

/-- A NEG packet received again in RETRAIN: versions and package number are settled anew, and the credits go on as they
stand, since both sides hold their traffic. DEDUCED: log entry 111. -/
def negAgain (p : Nat) (k : Pkt) (s : State) : State :=
  let w := k.getD 1 0
  if bits w 0 8 ≠ 1 || bits w 8 8 ≠ 0 then zlFail s p 3
  else if bits w 24 10 = selfPkg s then zlFail s p 4
  else putZl s p { getZl s p with agreed := true }

/-- A NEG packet received in NEGOTIATE, within its 1 ms, or in RETRAIN (R453, R455). -/
def negEffect (p : Fin 12) (s : State) : State :=
  match ctlPacket p 7 s with
  | none => s
  | some k =>
    let s1 := rxTake s p k
    if zlState s p = 4 && !zlLonger s p 1000000 then negSettle p k.2 s1
    else if zlState s p = 6 then negAgain p k.2 s1
    else s1

/-- NEG (R455). -/
def execNeg (p : Fin 12) (s : State) : Host.Outcome State Fault Refusal := .next (clocked s (negEffect p s))

/-- A hop-local packet of this package to a port's partner. -/
def hopPacket (s : State) (p type : Nat) (u1 u2 : Nat) : Pkt :=
  [mkHead type 0 (getF s fZlStatusPartnerPkg (pgZl p)) (selfPkg s) 2 0 0 0 0 0 0 0 0, u1, u2]

/-- ECHO_SEND (R477): an ECHO queued on an ACTIVE port; T1 is stamped as its flit leaves. -/
def execEchoSend (p : Fin 12) (s : State) : Host.Outcome State Fault Refusal :=
  .next (clocked s (if zlActive s p then portQueue s p (hopPacket s p 6 0 0) else s))

/-- An ECHO answered, or its reply turned into the one-way delay (R477). -/
def echoEffect (p : Fin 12) (s : State) : State :=
  match ctlPacket p 6 s with
  | none => s
  | some k =>
    let s1 := rxTake s p k
    let a := k.2.getD 1 0
    let b := k.2.getD 2 0
    if !bitAt b 64 then portQueue s1 p (hopPacket s1 p 6 (a % 2 ^ 64 + 2 ^ 64 * k.1) (2 ^ 64))
    else
      let d := (((k.1 : Int) - (a % 2 ^ 64 : Nat)) - ((b % 2 ^ 64 : Nat) - (a / 2 ^ 64 : Nat))) / 2
      setF (putZl s1 p { getZl s1 p with delayOk := true }) fZlDelayDelay (pgZl p) (d % 65536).toNat

/-- ECHO (R477). -/
def execEcho (p : Fin 12) (s : State) : Host.Outcome State Fault Refusal := .next (clocked s (echoEffect p s))

/-! ### Keystone beats (R475 to R481) -/

/-- The active parent port of a member (R480). -/
def activeParent (s : State) : Nat :=
  if getB s fZsyncStatusOnAlt pgZsync then getF s fZsyncCfgAltParent pgZsync else getF s fZsyncCfgParent pgZsync

/-- The boundary that down beats name: one whose frame has not started (R481). -/
def boundaryAhead (s : State) : Nat :=
  if s.sch.boundary ≠ 0 && decide (cadenceTime s < frameAt s s.sch.boundary) then s.sch.boundary else 0

/-- A beat of this package (R476); the cadence time is stamped as the flit leaves. -/
def keyPacket (s : State) (p : Nat) (up : Bool) : Pkt :=
  let depth := getF s fZsyncStatusDepth pgZsync
  let w2 := framePeriod s + (if up then 2 ^ 27 else 0) + 2 ^ 28 * depth
    + 2 ^ 33 * ((if up then subtreeDuty s else s.sch.clusterDuty) % 32) + (if up then 0 else 2 ^ 38 * (s.sch.dutyNext % 32))
  hopPacket s p 5 (2 ^ 64 * (s.sch.t0 % 2 ^ 64).toNat) (w2 + 2 ^ 64 * ((if up then 0 else boundaryAhead s) % 2 ^ 64))

/-- Beats queued: down on every ACTIVE port, up on a member's parent port (R476). -/
def keyBeatSendEffect (s : State) : State :=
  let s1 := (List.range 12).foldl (fun acc p => if zlActive acc p then portQueue acc p (keyPacket acc p false) else acc) s
  if isMember s && zlActive s (activeParent s) then portQueue s1 (activeParent s) (keyPacket s1 (activeParent s) true) else s1

/-- KEY_BEAT_SEND (R476). -/
def execKeyBeatSend (s : State) : Host.Outcome State Fault Refusal :=
  .next (clocked s (if getF s fZsyncCfgRole pgZsync ≠ 0 then keyBeatSendEffect s else s))

/-- A signed value limited to 4 either way. -/
def clamp4 (e : Int) : Int := max (-4) (min 4 e)

/-- DELTA and LOCKED after a beat with error `e` (R478). -/
def beatAdjust (s : State) (e : Int) : State :=
  let delta := toSigned64 (getF s fZsyncOffsetDelta pgZsync)
  let setD (x : Int) (t : State) : State := setF t fZsyncOffsetDelta pgZsync (x % 2 ^ 64).toNat
  if getB s fZsyncStatusLocked pgZsync then setD (delta + clamp4 e) s
  else
    let n := if decide (e ≤ 20) && decide (-20 ≤ e) then s.pkg.link.close + 1 else 0
    let s1 := setD (delta + e) { s with pkg := { s.pkg with link := { s.pkg.link with close := n } } }
    if n ≥ 16 then setB s1 fZsyncStatusLocked pgZsync true else s1

/-- The boundary that a down beat names (R481): taken, already applied, or missed. -/
def beatBoundary (s : State) (b next : Nat) : State :=
  if b = 0 ∨ s.sch.boundaryDone = some b ∨ s.sch.boundary = b then s
  else if frameRunning s && decide (b < s.sch.nextK) then
    setB { s with sch := { s.sch with stopReq := true } } fZsyncStatusSyncMiss pgZsync true
  else { s with sch := { s.sch with boundary := b, dutyNext := next } }

/-- A down beat from the active parent: it gives the cluster duty in force too (R476, R478 to R481). -/
def beatDown (p : Nat) (at_ : Nat) (k : Pkt) (s : State) : State :=
  let a := k.getD 1 0
  let w2 := k.getD 2 0
  if bits w2 0 27 ≠ framePeriod s then setB s fZsyncStatusPeriodMismatch pgZsync true
  else
    let here := (at_ : Int) + toSigned64 (getF s fZsyncOffsetDelta pgZsync)
    let e := toSigned64 (bits a 0 64) + (getF s fZlDelayDelay (pgZl p) : Int) - here
    let depth := min 31 (bits w2 28 5 + 1)
    let s1 := setF (setB s fZsyncStatusPeriodMismatch pgZsync false) fZsyncErrorLast pgZsync (e % 2 ^ 32).toNat
    let s2 := setB (setF s1 fZsyncStatusDepth pgZsync depth) fZsyncStatusDeep pgZsync (decide (depth > 16))
    let s3 := setB s2 fZsyncStatusHoldover pgZsync false
    let s4 := { s3 with
      pkg := { s3.pkg with link := { s3.pkg.link with beatAt := at_, holdAt := none } }
      sch := { s3.sch with t0 := toSigned64 (bits a 64 64), clusterDuty := bits w2 33 5 } }
    beatBoundary (beatAdjust s4 e) (bits w2 64 64) (bits w2 38 5)

/-- A KEY packet taken in: a down beat counts only from the active parent, an up beat from any child; the root may then
choose a boundary (R478, R481). -/
def keyEffect (p : Fin 12) (s : State) : State :=
  match ctlPacket p 5 s with
  | none => s
  | some k =>
    let s1 := rxTake s p k
    if bitAt (k.2.getD 2 0) 27 then
      chooseBoundary { s1 with pkg := { s1.pkg with link := { s1.pkg.link with
          childDuty := put s1.pkg.link.childDuty p.val (bits (k.2.getD 2 0) 33 5) } } }
    else if isMember s && p.val == activeParent s then beatDown p k.1 k.2 s1
    else s1

/-- KEY (R478). -/
def execKey (p : Fin 12) (s : State) : Host.Outcome State Fault Refusal := .next (clocked s (keyEffect p s))

/-- Whether a member may change to its alternate parent: it is allowed, not in use, and its port is ACTIVE (R480). -/
def altReady (s : State) : Bool :=
  getB s fZsyncCfgAltEn pgZsync && !getB s fZsyncStatusOnAlt pgZsync && zlActive s (getF s fZsyncCfgAltParent pgZsync)

/-- HOLDOVER_START comes about: a member has had no beat for 25,000 ticks, or is in holdover and finds its alternate parent
ACTIVE. -/
def holdoverStartReady (s : State) : Bool :=
  isMember s && (if getB s fZsyncStatusHoldover pgZsync then altReady s else decide (s.tick ≥ 25000 + s.pkg.link.beatAt))

/-- HOLDOVER entered; an ACTIVE alternate parent is taken and acquisition resumes there (R480). -/
def holdoverStartEffect (s : State) : State :=
  let s1 := if getB s fZsyncStatusHoldover pgZsync then s
    else setB { s with pkg := { s.pkg with link := { s.pkg.link with holdAt := some s.tick } } } fZsyncStatusHoldover pgZsync true
  if altReady s then
    let s2 := setB (setB s1 fZsyncStatusOnAlt pgZsync true) fZsyncStatusLocked pgZsync false
    { s2 with pkg := { s2.pkg with link := { s2.pkg.link with close := 0 } } }
  else s1

/-- HOLDOVER_START (R480). -/
def execHoldoverStart (s : State) : Host.Outcome State Fault Refusal :=
  .next (clocked s (if holdoverStartReady s then holdoverStartEffect s else s))

/-- HOLDOVER_LOST comes about after 2 ms of a member's holdover. -/
def holdoverLostReady (s : State) : Bool :=
  isMember s && (match s.pkg.link.holdAt with | some t => decide (s.tick ≥ 2000000 + t) | none => false)

/-- The frame clock stops at the end of the current frame, and LOST is set (R480). -/
def holdoverLostEffect (s : State) : State := setB (frameStopEffect s) fZsyncStatusLost pgZsync true

/-- HOLDOVER_LOST (R480). -/
def execHoldoverLost (s : State) : Host.Outcome State Fault Refusal :=
  .next (clocked s (if holdoverLostReady s then holdoverLostEffect s else s))

end Sys2Proof.Machine
end

