-- ==== Sys2Proof/Machine/Errors.lean ====
section
/-!
DEFINITION. Errors (15): host reads that fail, correctable-error buckets, error injection, the patrol scrub,
retirement of units with the retirement list, aliases of retired cores, restores of mirrored pages, and the
error log's own actions.
-/
namespace Sys2Proof.Machine

/-! ### Host reads (R527) -/

/-- A completion timeout counted at a port (R525). -/
def countTimeout (s : State) (fn : Nat) (timeout : Bool) : State :=
  if timeout then bumpF s fHifCplTimeoutsCount (pgHif (fn / 64)) else s

/-- The issued LD command of a slot runs until its host read number `n` fails; none where it reads less of the
host. -/
def loadFails (sp : Fin 8) (co : Fin 16) (sl : Fin 4) (n : Nat) (s : State) : Option State :=
  match headIssued s (slotKey sp co sl) 0 with
  | none => none
  | some c =>
    let s1 := { s with ho := { s.ho with failIn := some n } }
    let s2 := match wOp (cmdWords c) with
      | 0x20 => ldTEffect sp co sl s1
      | 0x21 => ldGEffect sp co sl s1
      | 0x22 => ldBEffect sp co sl s1
      | _ => s1
    if s2.ho.failIn.isNone then some s2 else none

/-- A submission entry whose read fails: the ring halts with a REFUSED record that carries HOST_ERR (R498,
R501). -/
def entryRefused (s : State) (fn q code user : Nat) : State :=
  let pg := pgFn fn
  let s1 := cqPush s ⟨fn, q, 0, user, getF s fFnSqHeadHead pg q, code + 2 * 2 ^ 60 + 2 ^ 56 * q, 0, 0⟩
  let s2 := setF (setF s1 fFnSqStateState pg 2 q) fFnSqStateCode pg code q
  irqSrc (blkErr s2 pg 2) pg 2

/-- Whether a submission ring has an entry to read: it runs, HEAD has not reached TAIL, none waits to be
accepted, and its completion ring has not stopped it (R497, R498, R502). -/
def entryDue (s : State) (fn q : Nat) : Bool :=
  let pg := pgFn fn
  getB s fFnSqCfgEnable pg q && getF s fFnSqStateState pg q == 1 && !has s.ho.subs (fn, q)
    && getF s fFnSqHeadHead pg q != getF s fFnDbTail pg q

/-- A host-memory read fails (R527): `kind` 0 is host read `n` of the LD command of a slot, 1 the read of the
next submission entry of a ring, 2 a read by Fenivar. -/
def hostReadErrorEffect (kind : Fin 3) (sp : Fin 8) (co : Fin 16) (sl : Fin 4) (n : Nat) (fn : Fin 128) (q : Fin 16)
    (timeout : Bool) (s : State) : State :=
  match kind.val with
  | 0 => match loadFails sp co sl n s with
    | some t => countTimeout t (ctxFunc s (slotCtx s (slotKey sp co sl))) timeout
    | none => s
  | 1 => if entryDue s fn q then countTimeout (entryRefused s fn q eHostErr 0) fn timeout else s
  | _ => countTimeout (hostReadLost s fn) fn timeout

/-- HOST_READ_ERROR (R527). -/
def execHostReadError (kind : Fin 3) (sp : Fin 8) (co : Fin 16) (sl : Fin 4) (n : Nat) (fn : Fin 128) (q : Fin 16)
    (timeout : Bool) (s : State) : Host.Outcome State Fault Refusal :=
  .next (clocked s (hostReadErrorEffect kind sp co sl n fn q timeout s))

/-! ### Correctable errors (R533, R534) -/

/-- Whether a resource exists: a pseudo-channel, a tile-cache slice, a core's local memory, or a span's store
(R533, R561). -/
def bucketKnown (s : State) (span cls idx : Nat) : Bool :=
  !spanDown s span && (match cls with
    | 0 => decide (idx < 64) && !pcGone s (pcNo span idx)
    | 1 => decide (idx < 16)
    | 2 => decide (idx < 16) && !coreAbsent s span idx
    | _ => idx == 0)

/-- Ticks between two leaks of a bucket (R533). -/
def leakTicks (s : State) (span cls : Nat) : Nat := 2 ^ 20 * getF s fSerrBktCfgLeak (pgSerr span) cls

/-- A leak: L loses 1 if it is above zero. -/
def bucketLeakEffect (sp : Fin 8) (cls : Fin 4) (idx : Nat) (s : State) : State :=
  let k := (sp.val, cls.val, idx)
  let b := look s.er.buckets k ⟨0, 0, 0⟩
  if has s.er.buckets k && decide (b.leakAt + leakTicks s sp cls ≤ s.tick) then
    let b1 : Bucket := { b with level := b.level - 1, leakAt := b.leakAt + leakTicks s sp cls }
    { s with er := { s.er with buckets := put s.er.buckets k b1 } }
  else s

/-- BUCKET_LEAK (R533). -/
def execBucketLeak (sp : Fin 8) (cls : Fin 4) (idx : Nat) (s : State) : Host.Outcome State Fault Refusal :=
  .next (clocked s (bucketLeakEffect sp cls idx s))

/-- Why a write of SERR.FLIP is rejected, with the field (R561). -/
def flipRejects (s : State) (sp : Nat) (v : Nat) : Option (Rej × Nat) :=
  let pg := pgSerr sp
  let same := [fSerrFlipPatB, fSerrFlipSymB, fSerrFlipPatA, fSerrFlipSymA, fSerrFlipPc, fSerrFlipPath,
    fSerrFlipPoison].all (fun f => getF s f pg == bits v f.lo f.w)
  if pcGone s (pcNo sp (bits v 4 6)) then some (.absent, 4)
  else if bits v 16 6 > 35 then some (.range, 16)
  else if bits v 32 6 > 35 then some (.range, 32)
  else if getB s fSerrFlipArm pg && !same then some (.busy, 0)
  else none

/-- SERR.FLIP written: its fields, and ARM where bit 0 is 1 (R534, R561). -/
def flipArmEffect (sp : Fin 8) (v m : Nat) (s : State) : State :=
  let pg := pgSerr sp
  match flipRejects s sp v with
  | some c => reject s pg c.1 m 0x130 c.2
  | none =>
    let s1 := setF (setF (setF s fSerrFlipPatB pg (bits v 38 8)) fSerrFlipSymB pg (bits v 32 6)) fSerrFlipPatA pg (bits v 22 8)
    let s2 := setF (setF (setF s1 fSerrFlipSymA pg (bits v 16 6)) fSerrFlipPc pg (bits v 4 6)) fSerrFlipPath pg (bits v 2 1)
    let s3 := setF s2 fSerrFlipPoison pg (bits v 1 1)
    if bitAt v 0 then setB s3 fSerrFlipArm pg true else s3

/-- FLIP_ARM (R534). -/
def execFlipArm (sp : Fin 8) (v m : Nat) (s : State) : Host.Outcome State Fault Refusal :=
  .next (clocked s (if spanDown s sp then rejectPath s .absent m 0x130 0
    else guarded s (pgSerr sp) m 0x130 (flipArmEffect sp v m s)))

/-! ### Patrol scrub (R537) -/

/-- One column of a scrub: a stale one is counted, a corrected one rewritten, a bad one logged. -/
def scrubCol (s : State) (cell : Nat) : State :=
  if colStale s cell then bumpF s fSerrScrubStaleCount (pgSerr (cellSpan cell))
  else match colOutcome (look s.memo.errs (cell / 32) []) with
    | .corrected _ =>
      let r := colRead s cell
      if r.2.1 then r.2.2 else colSeal r.2.2 cell r.1 false
    | _ => (colRead s cell).2.2

/-- Bank and row that a controller scrubs next, of its 32 banks of 32,768 rows. -/
def scrubAt (s : State) (n : Nat) : Nat × Nat := let k := (getPcc s n).scrubRow; (k / 32768 % 32, k % 32768)

/-- Ticks between two rows of a scrub, which reads the 2^20 rows of a pseudo-channel once per period (R537). -/
def scrubGap (s : State) (sp : Nat) : Nat := 2 ^ 10 * getF s fSerrScrubPeriod (pgSerr sp)

/-- SCRUB_ROW comes about at a stitch boundary of the bank, while the scrub runs and its next row is due. DESIGN CHOICE:
rows fall due at even intervals (log entry 113). -/
def scrubRowReady (sp : Fin 8) (pc : Fin 64) (s : State) : Bool :=
  let n := pcNo sp pc
  getB s fSerrScrubEnable (pgSerr sp) && ctlLive s n && decide ((getPcc s n).scrubTick + scrubGap s sp ≤ s.tick)
    && !(getPcc s n).seqs.any (fun q => q.running.any (fun t => t.bank == (scrubAt s n).1))

/-- The next row is read by a request that no bucket pays for; a row that came late puts off none of those after it, back to
one period (R537). -/
def scrubRowEffect (sp : Fin 8) (pc : Fin 64) (s : State) : State :=
  let n := pcNo sp pc
  let c0 := rowCell s sp pc (scrubAt s n).1 (scrubAt s n).2
  let s1 := pierAdd s c0 false false false 0 64
  let s2 := (List.range 64).foldl (fun acc c => scrubCol acc (c0 + 32 * c)) s1
  putPcc s2 n { getPcc s2 n with
    scrubRow := ((getPcc s2 n).scrubRow + 1) % (32 * 32768)
    scrubTick := max ((getPcc s2 n).scrubTick + scrubGap s sp) (s.tick - 2 ^ 20 * scrubGap s sp) }

/-- SCRUB_ROW (R537). -/
def execScrubRow (sp : Fin 8) (pc : Fin 64) (s : State) : Host.Outcome State Fault Refusal :=
  .next (clocked s (if scrubRowReady sp pc s then scrubRowEffect sp pc s else s))

/-! ### Marked and invalidated leaves (R236, R400, R542) -/

/-- PZN (bit 9) of a leaf entry written, and its translations invalidated. -/
def leafPzn (on : Bool) (s : State) (x : Nat × Leaf) : State :=
  let s1 := pteWrite s x.2.at_ (setBits x.2.pte 9 1 (if on then 1 else 0))
  let s2 := xinvDrop s1 ⟨0, ctxAsid s1 x.1, x.2.va, x.2.size / 4096⟩
  bumpF s2 fXinvStatusDone pgXinv

/-- PZN of every leaf that satisfies a test. -/
def pznAll (on : Bool) (s : State) (hit : Leaf → Bool) : State := (leavesOf s hit).foldl (leafPzn on) s

/-! ### Retirement (R236, R538, R539, R622) -/

/-- The error-log entry of a unit taken out of use (R543, R627). -/
def retLog (s : State) (e : Nat) : State :=
  elogAdd s { elogOf 0x09 with
    span := if retKind e = 0 ∨ retKind e = 4 then 15 else retSpan e
    unit := (match retKind e with | 0 => 0x23 | 3 => 0x40 | 4 => 0x15 | 5 => 0x30 | _ => 0x50)
    index := if retKind e = 0 ∨ retKind e = 5 then 0 else retUnit e
    bank := if retKind e = 1 then retBank e else 0
    addr := if retKind e = 0 then 65536 * retBlock e else 0 }

/-- A retirement appended to the flash list, which holds at most 1,024 entries, and recorded in the error log
(R538, R622). -/
def retNote (s : State) (e : Nat) : State :=
  let l := s.pkg.boot.retList
  retLog (if l.length < 1024 then { s with pkg := { s.pkg with boot := { s.pkg.boot with retList := l ++ [e] } } } else s) e

/-- The cause that a page's BLK_ID shows (R9, R628). -/
def setCause (s : State) (pg cause : Nat) : State := { s with pkg := { s.pkg with causes := put s.pkg.causes pg cause } }

/-- Whether an item works on a pseudo-channel: it has a sequence there, or staged updates (R236, R559). -/
def itemOnPc (s : State) (n : Nat) (it : Item) : Bool :=
  (getPcc s n).seqs.any (fun q => !q.sys && q.item == it.id) || (getPcc s n).staged.any (fun e => e.item == it.id)

/-- An item that a failure has made impossible to replay ends with ITEM_FAILED; one whose commit is under way
applies its effects elsewhere first, and then completes with that code (R556, R559). -/
def itemFail (s : State) (it : Item) : State :=
  if it.commit.isSome then stepFailed (putItem s { it with code := eItemFailed }) it else itemError s it.id eItemFailed 0 0 0 0

/-- The items that meet a test fail. -/
def itemsFail (s : State) (hit : Item → Bool) : State :=
  s.ho.items.foldl (fun acc it => if hit it then itemFail acc it else acc) s

/-- A pseudo-channel retired (R236): its items end, its accesses have the outcomes of a failed one, every leaf
that maps it is marked and invalidated. -/
def pcRetire (s : State) (n cause : Nat) : State :=
  let s1 := itemsFail s (itemOnPc s n)
  let p := getPcc s1 n
  let s2 := loseBlus (putPcc s1 n { p with
    failed := true, reqs := [], openRows := [], replay := [], red := [], staged := [], seqs := [] }) n
  let s3 := setCause s2 (pccPage n) cause
  pznAll true s3 (leafOnPc s3 n)

/-- PC_RETIRE (R236). -/
def execPcRetire (sp : Fin 8) (pc : Fin 64) (s : State) : Host.Outcome State Fault Refusal :=
  .next (clocked s (if ctlLive s (pcNo sp pc)
    then retNote (pcRetire s (pcNo sp pc) 3) (retEntry 2 sp pc 0 0 false) else s))

/-- The lowest free spare of a pseudo-channel's die, where the pseudo-channel has no replacement yet (R235,
R238). -/
def freeSpare (s : State) (sp : Fin 8) (pc : Fin 64) : Option (Fin 4) :=
  let st := getF s fPccSpareState (pgPcc sp pc)
  if st = 1 ∨ st = 2 then none
  else ([0, 1, 2, 3] : List (Fin 4)).find? (fun (k : Fin 4) =>
    !spareUsed s sp pc k && !s.pkg.boot.sparesGone.contains (sp.val, pc.val / 4, k.val))

/-- A bank retired: a spare replaces it, or its pseudo-channel is retired (R236, R538). -/
def bankRetire (sp : Fin 8) (pc : Fin 64) (bank : Fin 32) (bist : Bool) (s : State) : State :=
  match freeSpare s sp pc with
  | some k => retNote (setCause (spareStartEffect sp pc bank k 4 s) (pgBlu sp pc bank) (if bist then 2 else 3))
      (retEntry 1 sp pc bank 0 bist)
  | none => retNote (pcRetire s (pcNo sp pc) (if bist then 2 else 3)) (retEntry 2 sp pc 0 0 bist)

/-- Log entries of uncorrectable or address errors of device memory. -/
def logBad (s : State) : List ElogEntry := s.er.elog.filter (fun e => e.cls == 1 || e.cls == 2)

/-- Bank overflows of a pseudo-channel, newest first. -/
def overflowBanks (s : State) (span pc : Nat) : List Nat :=
  ((s.er.elog.filter (fun e => e.cls == 3 && e.unit == 0x50 && e.span == span && e.index == pc)).map (·.bank)).reverse

/-- Two neighbours of a list that both name a bank. -/
def twice (b : Nat) : List Nat → Bool
  | x :: y :: r => (x == b && y == b) || twice b (y :: r)
  | _ => false

/-- The triggers of R538 for a unit. -/
def retTrigger (s : State) (kind : Nat) (sp : Fin 8) (unit bank block : Nat) : Bool :=
  match kind with
  | 0 => (logBad s).any (fun e => e.addr / 65536 == block)
  | 1 =>
    let bad := (logBad s).filter (fun e => e.span == sp.val && e.index == unit && e.bank == bank)
    let rows := bad.map (fun e => cellRow s (cellOf s false e.addr))
    s.er.isolated.contains (sp.val, 0x50, unit, bank) || twice bank (overflowBanks s sp unit) || rows.any (fun r => rows.any (fun q => r != q))
      || decide (((getPcc s (pcNo sp unit)).poisonBanks.filter (· == bank)).length ≥ 2)
  | 2 => s.er.elog.any (fun e => e.cls == 7 && e.span == sp.val && e.index == unit)
  | _ =>
    let bad := (s.er.elog.filter (fun e => e.cls == 4 && e.unit == 0x42 && e.span == sp.val && e.index == unit)).map (·.addr)
    bad.any (fun a => decide ((bad.filter (· == a)).length ≥ 2))

/-- The entry that a retirement would append. -/
def retWanted (kind : Nat) (sp : Fin 8) (unit bank block : Nat) : Nat :=
  match kind with
  | 0 => retEntry 0 0 0 0 block false
  | 1 => retEntry 1 sp unit bank 0 false
  | k => retEntry k sp unit 0 0 false

/-- Whether a slice runs on a unit (R626). -/
def underSlice (s : State) (kind span unit bank : Nat) : Bool :=
  match s.pkg.boot.bist with
  | some b => b.span == span && (match b.kind, kind with
    | 0, 3 => b.unit == unit
    | 1, 1 => b.die == unit / 4 && bitAt b.unit (unit % 4) && b.first == bank
    | 1, 2 => b.die == unit / 4
    | 3, _ => true
    | _, _ => false)
  | none => false

/-- A unit retired by kind (R538). -/
def retUnitDo (kind : Nat) (sp : Fin 8) (unit : Fin 64) (bank : Fin 32) (block : Nat) (s : State) : State :=
  match kind with
  | 0 => retNote s (retEntry 0 0 0 0 block false)
  | 1 => bankRetire sp unit bank false s
  | 2 => retNote (pcRetire s (pcNo sp unit) 3) (retEntry 2 sp unit 0 0 false)
  | _ => retNote (coreRetire s sp (unit.val % 16) 3) (retEntry 3 sp (unit.val % 16) 0 0 false)

/-- Whether a unit is still there to be retired. -/
def retPresent (s : State) (kind : Nat) (sp : Fin 8) (unit bank block : Nat) : Bool :=
  match kind with
  | 0 => !s.pkg.boot.retList.contains (retWanted 0 sp unit bank block) && daOk s (65536 * block)
  | 1 => ctlLive s (pcNo sp unit) && !s.pkg.boot.retList.contains (retWanted 1 sp unit bank block)
  | 2 => decide (unit < pcCount s) && !s.pkg.boot.retList.contains (retWanted 2 sp unit bank block)
  | _ => decide (unit < 16) && !coreAbsent s sp unit

/-- A column of a page at a device address is bad: it holds poison, or its error cannot be corrected. -/
def pageBad (s : State) (da : Nat) : Bool :=
  (List.range 128).any (fun k => (colRead s (cellOf s false (da + 32 * k))).2.1)

/-- Whether a block still has a bad page that its mirror can restore: the block is retired after that (R538). -/
def blockMirrored (s : State) (block : Nat) : Bool :=
  (List.range 16).any (fun k => let da := 65536 * block + 4096 * k; (mirrorFor s da).isSome && pageBad s da)

/-- RETIREMENT comes about: a trigger of R538 holds, or the rein holder has asked, for a unit that is present. -/
def retirementReady (kind : Fin 4) (sp : Fin 8) (unit : Fin 64) (bank : Fin 32) (block : Nat) (s : State) : Bool :=
  retPresent s kind sp unit bank block && !s.pkg.boot.waiting.contains (retWanted kind sp unit bank block)
    && !(kind.val == 0 && blockMirrored s block)
    && (retTrigger s kind sp unit bank block || s.er.asked.contains (retWanted kind sp unit bank block))

/-- Fenivar retires the unit; a unit under a slice is retired when the slice ends (R538, R626). -/
def retirementEffect (kind : Fin 4) (sp : Fin 8) (unit : Fin 64) (bank : Fin 32) (block : Nat) (s : State) : State :=
  let e := retWanted kind sp unit bank block
  let s1 := { s with er := { s.er with asked := s.er.asked.filter (· ≠ e) } }
  if underSlice s kind sp unit bank then
    { s1 with pkg := { s1.pkg with boot := { s1.pkg.boot with waiting := s1.pkg.boot.waiting ++ [e] } } }
  else retUnitDo kind sp unit bank block s1

/-- RETIREMENT (R538). -/
def execRetirement (kind : Fin 4) (sp : Fin 8) (unit : Fin 64) (bank : Fin 32) (block : Nat) (s : State) :
    Host.Outcome State Fault Refusal :=
  .next (clocked s (if retirementReady kind sp unit bank block s then retirementEffect kind sp unit bank block s else s))

/-- ELOG.RETIRE written: a request that Fenivar performs, or a rejection (R562). -/
def elogRetireEffect (kind block m : Nat) (s : State) : State :=
  let b := block % 2 ^ 24
  if kind % 4 = 3 then reject s pgElog .range m 0x170 62
  else if kind % 4 ≠ 0 ∧ (bits b 14 10 ≠ 0 ∨ (kind % 4 = 2 ∧ bits b 0 5 ≠ 0)) then reject s pgElog .range m 0x170 16
  else
    let e := if kind % 4 = 0 then retEntry 0 0 0 0 b false
      else retEntry (kind % 4) (bits b 11 3) (bits b 5 6) (bits b 0 5) 0 false
    { s with er := { s.er with asked := setIns s.er.asked e } }

/-- ELOG_RETIRE (R562). -/
def execElogRetire (kind block m : Nat) (s : State) : Host.Outcome State Fault Refusal :=
  .next (clocked s (guarded s pgElog m 0x170 (elogRetireEffect kind block m s)))

/-! ### Aliases (R540) -/

/-- Whether a core is the target of a valid alias of another core of its span. -/
def aliasTarget (s : State) (span core but : Nat) : Bool :=
  (List.range 16).any (fun c => c != but && getB s fSerrAliasValid (pgSerr span) c
    && getF s fSerrAliasTarget (pgSerr span) c == core)

/-- SERR.ALIAS of core `c` written (R540, R561). -/
def serrSubstituteEffect (sp : Fin 8) (c t : Fin 16) (valid : Bool) (m : Nat) (s : State) : State :=
  let pg := pgSerr sp
  if valid && (!coreAbsent s sp c || coreAbsent s sp t || aliasTarget s sp t c) then
    reject s pg .range m (0x140 + 8 * c) 4
  else setB (setF s fSerrAliasTarget pg t c) fSerrAliasValid pg valid c

/-- SERR_ALIAS (R540). -/
def execSerrSubstitute (sp : Fin 8) (c t : Fin 16) (valid : Bool) (m : Nat) (s : State) : Host.Outcome State Fault Refusal :=
  .next (clocked s (if spanDown s sp then rejectPath s .absent m (0x140 + 8 * c) 0
    else guarded s (pgSerr sp) m (0x140 + 8 * c) (serrSubstituteEffect sp c t valid m s)))

/-! ### Restores (R541, R542) -/

/-- Whether a 4 KiB page at a device address can be read: every line is sealed and free of poison. -/
def pageReadable (s : State) (da : Nat) : Bool :=
  (List.range 32).all (fun k =>
    let r := pocRead s (cellOf s false (da + 128 * k) / 128)
    r.1.poison == 0 && !r.1.unsealed)

/-- The bytes of a read of device memory, whatever columns of it were poisoned. -/
def columnsGot (r : List Byte × List Nat × State) : List Byte × State := (r.1, r.2.2)

/-- Bytes that were read. -/
def bytesGot (r : List Byte × State) : Option (List Byte) × State := (some r.1, r.2)

/-- The 4 KiB of a copy: device memory, or host memory that the package cannot know; none where it is
unreadable, and a failed read of host memory is logged (R527, R541, R542). -/
def copyBytes (s : State) (e : List Nat) (da : Nat) (ok : Bool) : Option (List Byte) × State :=
  let src := e.getD 3 0 + (da - e.getD 1 0)
  if bitAt (e.getD 0 0) 1 then
    (if ok && !portFailed s (bits (e.getD 0 0) 2 7) then bytesGot (hostBytes (bits (e.getD 0 0) 2 7) none 4096 s src)
      else (none, hostReadLost s (bits (e.getD 0 0) 2 7)))
  else if pageReadable s src then bytesGot (columnsGot (daRead s src 4096))
  else (none, s)

/-- Queues of a context on a core that stand at a fault inside a range of addresses, as a mask of engines. -/
def faultedIn (s : State) (span core ctx va size : Nat) : Nat :=
  match ctxPartAt s span core ctx with
  | none => 0
  | some p => ((List.range 5).filter (fun e =>
      let q := partQueue p e
      q.st == .fault && decide (va ≤ q.restart.faultVa) && decide (q.restart.faultVa < va + size))).foldl
      (fun acc e => acc + 2 ^ e) 0

/-- The faulted queues of a leaf resumed, or given XLATE_FATAL. -/
def leafResume (discard : Bool) (s : State) (x : Nat × Leaf) : State :=
  (List.range 8).foldl (fun acc sp => (List.range 16).foldl (fun a co =>
    let eng := faultedIn a sp co x.1 x.2.va x.2.size
    if eng = 0 then a else fresumeAll a sp co x.1 eng discard) acc) s

/-- The entry of a block in the retirement list. -/
def blockEntry (da : Nat) : Nat := retEntry 0 0 0 0 (da / 65536) false

/-- MIRROR_RESTORE comes about: a bad column has been found in a page of a mirrored range; a page whose entry is not VALID
is handled once, since its block is then retired (R542). -/
def mirrorRestoreReady (page : Nat) (s : State) : Bool :=
  daOk s (4096 * page) && pageBad s (4096 * page)
    && ((mirrorFor s (4096 * page)).isSome
      || (mirrorInvalid s (4096 * page) && !s.pkg.boot.retList.contains (blockEntry (4096 * page))))

/-- The log entry of a restore, with its result (R543). -/
def restoreEntryLog (s : State) (da code : Nat) : ElogEntry :=
  let c := cellOf s false da
  { elogOf 0x0A with span := cellSpan c, unit := 0x50, index := cellPc s c, addr := da, code := code }

/-- A page that cannot be restored stays marked: its faulted queues get XLATE_FATAL, the items that waited for it fail, and
its block is retired (R542). -/
def restoreLost (hit : Leaf → Bool) (da : Nat) (s : State) : State :=
  let s1 := (leavesOf s hit).foldl (leafResume true) s
  let s2 := itemsFail s1 (fun it => it.held == da / 4096 + 2)
  elogAdd (if s2.pkg.boot.retList.contains (blockEntry da) then s2 else retNote s2 (blockEntry da)) (restoreEntryLog s da 1)

/-- Fenivar restores the page from its copy, or leaves it marked (R542). -/
def mirrorRestoreEffect (page : Nat) (ok : Bool) (s : State) : State :=
  let da := 4096 * page
  let hit := leafMaps s (cellOf s false da)
  let s1 := pznAll true s hit
  match mirrorFor s da with
  | none => restoreLost hit da s1
  | some e =>
    let r := copyBytes s1 e da ok
    match r.1 with
    | some b =>
      let s2 := pageUncache (daWrite r.2 da b []) (setBits da 7 1 0) 4096 false
      let s3 := pznAll false s2 hit
      let s4 := (leavesOf s3 hit).foldl (leafResume false) s3
      let free := s4.ho.items.map (fun it => if it.held = page + 2 then { it with held := 0 } else it)
      elogAdd { s4 with ho := { s4.ho with items := free } } (restoreEntryLog s da 0)
    | none => restoreLost hit da r.2

/-- MIRROR_RESTORE (R542). -/
def execMirrorRestore (page : Nat) (ok : Bool) (s : State) : Host.Outcome State Fault Refusal :=
  .next (clocked s (if mirrorRestoreReady page s then mirrorRestoreEffect page ok s else s))

/-! ### The error log's registers (R545, R562) -/

/-- ELOG.DONE written by a control core: the entry is handled. -/
def elogDoneEffect (seq m : Nat) (s : State) : State :=
  if m ≠ 4 then reject s pgElog .permission m 0x150 0
  else if !s.er.elog.any (fun e => e.seq == seq) then reject s pgElog .range m 0x150 0
  else { s with er := { s.er with elog := s.er.elog.map (fun e => if e.seq = seq then { e with handled := true } else e) } }

/-- ELOG_DONE (R545). -/
def execElogDone (seq m : Nat) (s : State) : Host.Outcome State Fault Refusal :=
  .next (clocked s (guarded s pgElog m 0x150 (elogDoneEffect seq m s)))

/-- ELOG_CLEAR_LOST (R562). -/
def execElogClearLost (m : Nat) (s : State) : Host.Outcome State Fault Refusal :=
  .next (clocked s (guarded s pgElog m 0x158 (setF s fElogStatusLost pgElog 0)))

/-- FIRST cleared on the held entry; the next entry takes it (R545). -/
def elogClearFirst (s : State) : State :=
  { s with er := { s.er with elog := s.er.elog.map (fun e => { e with first := false }), firstArmed := true } }

/-- ELOG_CLEAR_FIRST (R562). -/
def execElogClearFirst (m : Nat) (s : State) : Host.Outcome State Fault Refusal :=
  .next (clocked s (guarded s pgElog m 0x158 (elogClearFirst s)))

end Sys2Proof.Machine
end

