-- ==== Sys2Proof/Machine/Journal.lean ====
section
/-!
DEFINITION. The work journal (R546 to R559): commits and replays of items, and the receipt table.
-/
namespace Sys2Proof.Machine

/-! ### Commit (R553) -/

/-- ITEM_COMMIT comes about: every launch of a journaled item has completed without error, or its commit has been
interrupted, and no takeover holds up the package's duties (R36, R553, R554). -/
def itemCommitReady (id : Nat) (s : State) : Bool :=
  match getItem s id with
  | some it => s.pkg.boot.takeover.isNone
      && it.held == 0 && (it.commit.isSome || (it.journaled && itemDone s it && it.code == 0 && !it.replay))
  | none => false

/-- Lines of a controller that hold staged updates of an item. -/
def itemLines (p : Pcc) (id : Nat) : List Nat :=
  (p.staged.filter (fun e => e.item == id)).foldl (fun acc e => setIns (setIns acc (e.cell / 128)) (e.hi / 128)) []

/-- Controllers that hold staged updates of an item. -/
def itemCtls (s : State) (id : Nat) : List Nat := (List.range 512).filter (fun n => !(itemLines (getPcc s n) id).isEmpty)

/-- Contexts of an item's launches. -/
def itemCtxs (it : Item) : List Nat := it.launches.foldl (fun acc d => setIns acc d.ctx) []

/-- Send rings that an item's contexts own, in order. -/
def itemRings (s : State) (it : Item) : List Nat :=
  (List.range 512).filter (fun r => (itemCtxs it).contains (ringCtx s r) && getF s fZringBaseBase (pgZring (r / 64)) (r % 64) ≠ 0)

/-- NB issue marks of an item freed (R553). -/
def dropMarks (s : State) (id : Nat) : State :=
  { s with ho := { s.ho with marks := s.ho.marks.filter (fun x => x.1 ≠ id) } }

/-- An item with its commit record changed. -/
def putCommit (s : State) (it : Item) (c : Commit) : State := putItem s { it with commit := some c }

/-- The commit record written: it lists the controllers that hold the item's entries, and reserves the index of the
completion record (R553, step 1). DEDUCED: later records of the ring wait behind the reserved one (log entry 62). -/
def commitOpen (s : State) (it : Item) : State :=
  let s0 := jrnlWrite s
  let s1 := match doneRec it 0 with | some r => cqPush s0 { r with item := it.id } | none => s0
  putCommit s1 it ⟨itemCtls s it.id, [], [], [], it.signals, itemRings s it, false⟩

/-- A line's pre-value: the bytes and the poisoned columns that the reducer buffer holds of it. -/
def preValue (s : State) (line : Nat) : Nat × (List Byte × Nat) :=
  match (getPcc s (cellCtl s (128 * line))).red.find? (fun l => l.line == line) with
  | some l => (line, (l.data, l.poison))
  | none => (line, ([], 0))

/-- Line `i` of the pre-value log of a controller, in the last 64 rows of its staging area (R547). DESIGN CHOICE: the log
fills row after row, bank after bank (log entry 115). -/
def preCell (s : State) (n i : Nat) : Nat :=
  let pg := pccPage n
  let row := getF s fPccOrdAreaBaseRow pg + getF s fPccOrdAreaSize pg - 64 + i / 512
  rowCell s (n / 64) (n % 64) (i / 16 % 32) row + 128 * (i % 16)

/-- A pre-value written to its place in the log: its bytes, and poison in its poisoned columns (R547, R553). -/
def preWrite (s : State) (n : Nat) (x : (Nat × (List Byte × Nat)) × Nat) : State :=
  let at_ := preCell s n x.2
  ((List.range 4).filter (bitAt x.1.2.2)).foldl (fun acc k => pocPoison acc (at_ + 32 * k)) (pocWrite s at_ x.1.2.1)

/-- A round begins: the pre-values of up to 32,768 lines logged (R553, step 2). -/
def roundOpen (s : State) (it : Item) (c : Commit) (n : Nat) (lines : List Nat) : State :=
  let r := lines.foldl (fun (acc : State × List (Nat × (List Byte × Nat))) l =>
    let s1 := redFetch acc.1 (cellCtl acc.1 (128 * l)) l
    (s1, acc.2 ++ [preValue s1 l])) (s, [])
  putCommit (r.2.zipIdx.foldl (fun acc x => preWrite acc n x) r.1) it { c with log := r.2, todo := lines }

/-- The item's entries of a line made eligible. -/
def freeEntries (id line : Nat) (p : Pcc) : Pcc :=
  { p with staged := p.staged.map (fun e => if e.item = id && stagedOn line e then { e with item := 0 } else e) }

/-- A line of the round settled in tag order; what is applied is kept until the round is recorded done (R553). -/
def roundLine (s : State) (it : Item) (c : Commit) (line : Nat) (rest : List Nat) : State :=
  let mine := (stagedAt s line).filter (fun e => e.item == it.id || settleable s e)
  let s1 := { s with memo := { s.memo with pccs := s.memo.pccs.map (fun p => (p.1, freeEntries it.id line p.2)) } }
  putCommit (settleLine s1 line) it { c with todo := rest, kept := c.kept ++ mine }

/-- The next step of a commit's rounds at a controller (R553, step 2). -/
def roundStep (s : State) (it : Item) (c : Commit) (n : Nat) (rest : List Nat) : State :=
  if c.log.isEmpty then
    let lines := (itemLines (getPcc s n) it.id).take 32768
    if lines.isEmpty then putCommit s it { c with ctls := rest } else roundOpen s it c n lines
  else match c.todo with
    | [] => putCommit s it { c with log := [], kept := [] }
    | l :: t => roundLine s it c l t

/-- The first of a ring's descriptors that is held back for an item. -/
def heldAt (id : Nat) (l : List SendDesc) : Option Nat := l.findIdx? (fun d => d.item == id && !d.started && !d.released)

/-- A held descriptor of the item released, and started while the ring runs and no descriptor of another item is before it:
one operation (R553, step 4). -/
def releaseDesc (s : State) (it : Item) (c : Commit) (ring : Nat) (rest : List Nat) : State :=
  let l := getRing s ring
  match heldAt it.id l with
  | none => putCommit s it { c with rings := rest }
  | some k =>
    let s1 := putRing s ring (l.modify k (fun d => { d with released := true }))
    let sp := Fin.ofNat 8 (ring / 64)
    let r := Fin.ofNat 64 ring
    if (nextDesc (getRing s1 ring)).any (·.1.released) && ringRuns s1 sp r then descStart sp r s1 else s1

/-- The completion record written at its reserved index (R553, step 5). -/
def commitRecord (s : State) (it : Item) (c : Commit) : State :=
  let s1 := match doneRec it it.code with | some r => cqPlace s it.id r | none => s
  putCommit s1 it { c with stored := true }

/-- One operation of a commit, the done record last (R553). -/
def commitStep (id : Nat) (s : State) : State :=
  match getItem s id with
  | none => s
  | some it => match it.commit with
    | none => commitOpen s it
    | some c => match c.ctls with
      | n :: rest => roundStep s it c n rest
      | [] => match c.signals with
        | g :: t => putCommit (landSignal s { g with item := 0, launch := 0 }) it { c with signals := t }
        | [] => match c.rings with
          | r :: t => releaseDesc s it c r t
          | [] => if c.stored then dropMarks (itemGone (dropStaged (jrnlWrite s) id) it it.code) id else commitRecord s it c

/-- Up to `n` operations of a commit. -/
def commitRun (id : Nat) : Nat → State → State
  | 0, s => s
  | n + 1, s => commitRun id n (commitStep id s)

/-- Operations that a commit takes at most. -/
def commitFuel (s : State) (it : Item) : Nat :=
  8 + (itemCtls s it.id).length * 4 + ((itemCtls s it.id).map (fun n => 2 * (itemLines (getPcc s n) it.id).length)).sum
    + it.signals.length + ((itemRings s it).map (fun r => 1 + (getRing s r).length)).sum

/-- A line of an unfinished round gets its pre-value back (R554). -/
def restoreLine (s : State) (x : Nat × (List Byte × Nat)) : State :=
  let n := cellCtl s (128 * x.1)
  redUpd (redFetch s n x.1) n x.1 (fun l => { l with data := x.2.1, poison := x.2.2, dirty := 15 })

/-- An entry of an unfinished round back at its controller (R554). -/
def restoreEntry (s : State) (e : Staged) : State :=
  let n := cellCtl s e.cell
  putPcc s n { getPcc s n with staged := (getPcc s n).staged ++ [e] }

/-- An interrupted commit made ready to go on: in an unfinished round every logged line gets its pre-value back, and
the round's entries are there again; what is marked stays done (R554). -/
def commitRewind (s : State) (it : Item) : State :=
  match it.commit with
  | none => s
  | some c =>
    let s1 := c.kept.foldl restoreEntry (c.log.foldl restoreLine s)
    putCommit s1 it { c with log := [], todo := [], kept := [] }

/-- Fenivar commits an item, or resumes an interrupted commit from its record; with `stop` a failure interrupts it
again after that many operations (R553, R554). DESIGN CHOICE: the command itself names the interruption, since a
step is whole and indivisible (log entry 62). -/
def itemCommitEffect (id : Nat) (stop : Option Nat) (s : State) : State :=
  match getItem s id with
  | none => s
  | some it =>
    let s1 := commitRewind s it
    match stop with
    | some n => commitRun id n s1
    | none => commitRun id (commitFuel s1 it) s1

/-- ITEM_COMMIT (R553). -/
def execItemCommit (id : Nat) (stop : Option Nat) (s : State) : Host.Outcome State Fault Refusal :=
  .next (clocked s (if itemCommitReady id s then itemCommitEffect id stop s else s))

/-- Every interrupted commit resumed (R554). -/
def commitsResume (s : State) : State :=
  s.ho.items.foldl (fun acc it => if it.commit.isSome then itemCommitEffect it.id none acc else acc) s

/-! ### Replay (R556) -/

/-- ITEM_REPLAY comes about: a failure has stopped a journaled item, and nothing holds it. -/
def itemReplayReady (id : Nat) (s : State) : Bool :=
  match getItem s id with
  | some it => it.journaled && it.replay && it.held == 0 && it.commit.isNone && s.pkg.boot.takeover.isNone
  | none => false

/-- The items that have launches where a launch of an item is. -/
def besideItems (s : State) (id : Nat) : List Nat :=
  match getItem s id with
  | none => []
  | some it => it.launches.flatMap (fun d => match ctxPartAt s d.span (coreAliased s d.span d.core) d.ctx with
    | some p => p.launches.map (·.item)
    | none => [])

/-- The items that are replayed with those of a list: the others of their slots, and so on (R556). -/
def replayWith : Nat → State → List Nat → List Nat
  | 0, _, l => l
  | k + 1, s, l =>
    let m := (l.flatMap (besideItems s)).foldl setIns l
    if m.length = l.length then l else replayWith k s m

/-- The items that an item's replay takes with it, itself among them, in the order of their acceptance. -/
def replayGroup (s : State) (id : Nat) : List Item :=
  let l := replayWith s.ho.items.length s [id]
  s.ho.items.filter (fun it => l.contains it.id && it.commit.isNone)

/-- A stored part without its launches and streams. -/
def partCleared (p : CorePart) : CorePart :=
  { p with launches := [], queues := [idleQueue, idleQueue, idleQueue, idleQueue, idleQueue] }

/-- The slot or stored part that a delivery of an item went to, stopped (R139, R556). -/
def stopDelivery (s : State) (d : Delivery) : State :=
  let co := coreAliased s d.span d.core
  if coreAbsent s d.span co then s
  else match residentSlot s d.span co d.ctx with
    | some sl => slotAbort s (slotKey d.span co sl) false false
    | none => match getRec s d.span d.ctx with
      | none => s
      | some r =>
        let p := look r.parts co newPart
        let s1 := endFaultedSeqs s d.span co d.ctx
        if has r.parts co then putRec s1 d.span d.ctx { r with parts := put r.parts co (partCleared p) } else s1

/-- Launches of an item that still wait at their source withdrawn. -/
def unsend (s : State) (id : Nat) : State :=
  { s with core := { s.core with waiting := s.core.waiting.filter (fun d => d.launch.item ≠ id) } }

/-- Descriptors of a ring that have not started withdrawn, and HEAD at its checkpoint value. -/
def rewindRing (s : State) (x : (Nat × Nat) × Nat) : State :=
  let ring := 64 * x.1.1 + x.1.2
  setF (putRing s ring ((getRing s ring).filter (fun d => d.started && !d.gone))) fZringStateHead (pgZring x.1.1) x.2 x.1.2

/-- A context's part on a core replaced, resident or stored. -/
def putPartOn (s : State) (span core ctx : Nat) (p : CorePart) : State :=
  match residentSlot s span core ctx with
  | some sl => putPart s (slotKey span core sl) p
  | none => match getRec s span ctx with
    | some r => putRec s span ctx { r with parts := put r.parts core p }
    | none => s

/-- Tallies 0 to 63 of a delivery's slot at their checkpoint values: additions from outside the item are overwritten (R550,
R556). -/
def rewindTallies (it : Item) (s : State) (d : Delivery) : State :=
  let co := coreAliased s d.span d.core
  let p := match ctxPartAt s d.span co d.ctx with | some p => p | none => newPart
  putPartOn s d.span co d.ctx ((look it.ckptTallies (ckptKey d) []).foldl (fun acc t => tallySet acc t.1 t.2) p)

/-- The lowest core of a span that may stand for a retired one (R540). -/
def aliasFor (s : State) (span but : Nat) : Option Nat :=
  (List.range 16).find? (fun t => !coreAbsent s span t && !aliasTarget s span t but)

/-- What a retired core still runs for a context passes to the core that stands for it: the NB sequences that it sent, with
their hazard records (R273, R290, R555). -/
def seqsPass (s : State) (span core dst ctx : Nat) : State :=
  let from_ := 4096 * coreNo span core + ctx
  let to_ := 4096 * coreNo span dst + ctx
  let hz := put (del s.core.hazards from_) to_ (look s.core.hazards to_ [] ++ look s.core.hazards from_ [])
  mapSeqs (if has s.core.hazards from_ then { s with core := { s.core with hazards := hz } } else s) (fun q =>
    if !q.sys && q.span == span && q.core == core && q.ctx == ctx then { q with core := dst } else q)

/-- A retired core of a delivery gets an alias, which the context's record then takes in (R540, R556); none where
no core may stand for it. -/
def aliasSet (s : Option State) (d : Delivery) : Option State :=
  match s with
  | none => none
  | some s =>
    if !coreAbsent s d.span d.core then some s
    else
      let pg := pgSerr d.span
      let old := getF s fSerrAliasTarget pg d.core
      let t := if getB s fSerrAliasValid pg d.core && !coreAbsent s d.span old then some old else aliasFor s d.span d.core
      match t, getRec s d.span d.ctx with
      | some t, some r =>
        let s1 := setB (setF s fSerrAliasTarget pg t d.core) fSerrAliasValid pg true d.core
        some (seqsPass (recMask s1 d.span d.ctx (r.coreMask ||| 2 ^ t) r) d.span d.core t d.ctx)
      | _, _ => none

/-- The sequences and hazard records of a launch taken over by the launch that repeats it (R555). -/
def launchPass (s : State) (old new : Nat) : State :=
  let hz := s.core.hazards.map (fun p => (p.1, p.2.map (fun h => if h.launch = old then { h with launch := new } else h)))
  mapSeqs { s with core := { s.core with hazards := hz } } (fun q =>
    if !q.sys && q.launch == old then { q with launch := new } else q)

/-- A delivery sent again with the same parameters (R556). -/
def resend (it : Item) (s0 : State) (d : Delivery) : State :=
  let s := launchPass s0 d.launch.serial s0.core.nextSerial
  let l := { freshLaunch d.launch.kernel d.launch.seedVal d.launch.seedMask d.launch.src d.launch.due d.launch.budget
    d.launch.tag with serial := s.core.nextSerial, item := it.id }
  let d1 : Delivery := { d with launch := l }
  let s1 := { s with core := { s.core with waiting := s.core.waiting ++ [d1], nextSerial := s.core.nextSerial + 1 } }
  match getItem s1 it.id with
  | some x => putItem s1 { x with launches := x.launches ++ [d1], left := x.left + 1 }
  | none => s1

/-- The steps of R556 that clear the way. -/
def replayClear (s : State) (it : Item) : State :=
  let s1 := it.launches.foldl stopDelivery (unsend s it.id)
  let s2 := dropStaged s1 it.id
  it.ckptHeads.foldl rewindRing s2

/-- A cleared item that ends with ITEM_FAILED: its issue marks go with it. -/
def replayFail (s : State) (id : Nat) : State := dropMarks (itemError s id eItemFailed 0 0 0 0) id

/-- A cleared item launched again, or ended after its fourth failure; one that was only beside a failed item counts no
failure, one that still waits for a port or a page is launched when it no longer does, and one that no journal holds ends
(R506, R542, R556). -/
def replayStart (s : State) (it : Item) : State :=
  if !it.journaled || (it.replay && decide (it.fails ≥ 3)) then replayFail s it.id
  else if it.held ≠ 0 then putItem s { it with replay := true }
  else match it.launches.foldl aliasSet (some s) with
    | none => replayFail s it.id
    | some s1 =>
      let s2 := it.launches.foldl (rewindTallies it) s1
      let n := it.fails + if it.replay then 1 else 0
      let s3 := putItem s2 { it with launches := [], left := 0, signals := [], replay := false, fails := n }
      itemNote (bumpF (it.launches.foldl (resend it) s3) fJrnlReplayedCount pgJrnl) it 0

/-- Fenivar replays a stopped item, and the other items of its slots with it (R556). -/
def itemReplayEffect (id : Nat) (s : State) : State :=
  let l := replayGroup s id
  l.foldl replayStart (l.foldl replayClear s)

/-- ITEM_REPLAY (R556). -/
def execItemReplay (id : Nat) (s : State) : Host.Outcome State Fault Refusal :=
  .next (clocked s (if itemReplayReady id s then itemReplayEffect id s else s))

/-! ### Receipts (R557) -/

/-- Keys whose window has ended freed; the time for which the full table held back credits is counted in units of
1,024 ticks. -/
def receiptExpiryEffect (s : State) : State :=
  let win := 2 ^ 20 * getF s fJrnlRcptWindow pgJrnl
  let keep := s.ho.receipts.filter (fun r => decide (s.tick < r.at_ + win))
  if keep.length = s.ho.receipts.length then s
  else
    let s1 := match s.ho.fullAt with
      | some t => bumpF s fJrnlRcptFullCount pgJrnl ((s.tick - t) / 1024)
      | none => s
    { s1 with ho := { s1.ho with receipts := keep, fullAt := none } }

/-- RECEIPT_EXPIRY (R557). -/
def execReceiptExpiry (s : State) : Host.Outcome State Fault Refusal := .next (clocked s (receiptExpiryEffect s))

end Sys2Proof.Machine
end

