-- ==== Sys2Proof/Machine/Irq.lean ====
section
/-!
DEFINITION. Interrupts (19): sources and their states, the priority stacks of the control cores, the timer,
shared sources with targets on the host or the management controller, and MSI-X messages.
-/
namespace Sys2Proof.Machine

/-! ### Sources (R631 to R634) -/

/-- Whether a private source is an edge source (R632). -/
def privEdge (core j : Nat) : Bool :=
  decide (32 ≤ j && j < 48) || j == 63 || (if core == 8 then decide (15 ≤ j && j ≤ 17) else j == 25 || j == 26)

/-- Page whose block interrupt a private level source shows (R632). -/
def privPage (core j : Nat) : Option Nat :=
  if core = 8 then
    [pgFrame, pgXinv, pgZroute, pgZwin, pgZsync, pgPwr, pgTherm, pgJrnl, pgElog, pgBist, pgLcs, pgOwn, pgTime, pgHif 0,
      pgHif 1][j]?
  else if j < 16 then (some (pgCq core j))
  else if j < 25 then some (pgSpan core (j - 16))
  else none

/-- Whether a shared source is an edge source (R633). -/
def sharedEdge (n : Nat) : Bool := decide (n ≥ 528)

/-- Span that carries a Zaskel port (R35). -/
def zlSpan (p : Nat) : Nat := [0, 0, 3, 3, 4, 4, 7, 7, 1, 2, 5, 6].getD p 0

/-- Reset target of a shared source (R633). -/
def sharedTarget (n : Nat) : Nat := if n < 512 then n / 64 else if n < 524 then zlSpan (n - 512) else 8

/-- A shared source. -/
def getShared (s : State) (n : Nat) : IrqShared := look s.pkg.irq.shared n ⟨.inactive, 0, false, sharedTarget n, none⟩

/-- The interrupt unit replaced. -/
def putIrq (s : State) (q : IrqSt) : State := { s with pkg := { s.pkg with irq := q } }

/-- A shared source replaced. -/
def putShared (s : State) (n : Nat) (x : IrqShared) : State :=
  putIrq s { s.pkg.irq with shared := put s.pkg.irq.shared n x }

/-- State of a private source. -/
def getPriv (s : State) (core j : Nat) : SrcSt := look s.pkg.irq.priv (core, j) .inactive

/-- State of a private source replaced. -/
def putPriv (s : State) (core j : Nat) (x : SrcSt) : State :=
  putIrq s { s.pkg.irq with priv := put s.pkg.irq.priv (core, j) x }

/-- Whether a private level source is asserted; one of an absent core or span never is (R140, R632). -/
def privLevel (s : State) (core j : Nat) : Bool :=
  match privPage core j with
  | some pg => blkIrq s pg && (core == 8 || (!spanDown s core && !(decide (j < 16) && coreAbsent s core j)))
  | none => false

/-- Whether a shared level source is asserted; one of an absent unit never is (R633). -/
def sharedLevel (s : State) (n : Nat) : Bool :=
  if n < 512 then blkIrq s (pgPcc (n / 64) (n % 64)) && !pcGone s n && !spanDown s (n / 64)
  else decide (n < 524) && blkIrq s (pgZl (n - 512)) && !zlAbsent s (n - 512)

/-- A level source sampled: an inactive one that is asserted becomes pending, a pending one that is not becomes
inactive (R631, R637). -/
def sampleSt (st : SrcSt) (on : Bool) : SrcSt :=
  match st, on with
  | .inactive, true => .pending
  | .pending, false => .inactive
  | x, _ => x

/-- An edge at a source, and whether it was merged (R637). -/
def edgeSt : SrcSt → SrcSt × Bool
  | .inactive => (.pending, false)
  | .pending => (.pending, true)
  | .active => (.activePending, false)
  | .activePending => (.activePending, true)

/-- A source after its completion (R636). -/
def doneSt (edge on : Bool) (st : SrcSt) : SrcSt :=
  if edge then (match st with | .activePending => .pending | _ => .inactive) else if on then .pending else .inactive

/-- A source after a claim (R636). -/
def claimSt : SrcSt → SrcSt
  | .pending => .active
  | x => x

/-- Whether a source waits to be taken. -/
def srcWaits (st : SrcSt) : Bool := st == .pending || st == .activePending

/-- Whether a source has been taken. -/
def srcTaken (st : SrcSt) : Bool := st == .active || st == .activePending

/-- A pending source whose target is the management controller raises its in-band interrupt and becomes active
(R644). -/
def raiseInBand (s : State) (n : Nat) : State :=
  let x := getShared s n
  if x.target = 11 ∧ x.st = .pending ∧ x.enable then
    let s1 := putShared s n { x with st := .active }
    putIrq s1 { s1.pkg.irq with inBand := s1.pkg.irq.inBand ++ [(1, n)] }
  else s

/-- A shared source's state replaced, with its in-band interrupt where one is due. -/
def setShared (s : State) (n : Nat) (st : SrcSt) : State := raiseInBand (putShared s n { getShared s n with st := st }) n

/-- An edge at a private source; a merged one counts (R637). -/
def privEdgeEvent (s : State) (core j : Nat) : State :=
  let r := edgeSt (getPriv s core j)
  let s1 := putPriv s core j r.1
  if r.2 then bumpF s1 fIrqpMergedCount (pgIrqp core) else s1

/-- An edge at a shared source; a merged one counts at a control core (R637). -/
def sharedEdgeEvent (s : State) (n : Nat) : State :=
  let r := edgeSt (getShared s n).st
  let s1 := setShared s n r.1
  if r.2 && decide ((getShared s n).target ≤ 8) then bumpF s1 fIrqpMergedCount (pgIrqp (getShared s n).target) else s1

/-- IRQ_LEVEL_CHANGE (R631): a level source is sampled, private source `n` of control core `i`, or shared source
`n`. -/
def execIrqLevelChange (shared : Bool) (i : Fin 9) (n : Nat) (s : State) : Host.Outcome State Fault Refusal :=
  .next (clocked s (
    if shared then
      (if n < 524 then setShared s n (sampleSt (getShared s n).st (sharedLevel s n)) else s)
    else if (privPage i n).isSome then putPriv s i n (sampleSt (getPriv s i n) (privLevel s i n)) else s))

/-- IRQ_EDGE (R637): an edge at a private edge source of a control core, or at a shared software source. -/
def execIrqEdge (shared : Bool) (i : Fin 9) (n : Nat) (s : State) : Host.Outcome State Fault Refusal :=
  .next (clocked s (
    if shared then (if sharedEdge n && n < 1024 then sharedEdgeEvent s n else s)
    else if privEdge i n && !(n == 26 && i != 0) then privEdgeEvent s i n else s))

/-! ### Delivery to a control core (R635, R636) -/

/-- The priority stack of a control core, top first. -/
def irqStack (s : State) (core : Nat) : List Nat := look s.pkg.irq.idStacks core []

/-- A priority stack replaced; TOP names its top again. -/
def putStack (s : State) (core : Nat) (l : List Nat) : State :=
  putIrq s { s.pkg.irq with idStacks := put s.pkg.irq.idStacks core l, empty := s.pkg.irq.empty.filter (· ≠ core) }

/-- Priority of a source of a control core, by id. -/
def idPrio (s : State) (core id : Nat) : Nat :=
  if id < 64 then getF s fIrqpPrivPrio (pgIrqp core) id else (getShared s (id - 64)).prio

/-- Whether a source of a control core is enabled and waits. -/
def idWaits (s : State) (core id : Nat) : Bool :=
  if id < 64 then getB s fIrqpPrivEnable (pgIrqp core) id && srcWaits (getPriv s core id)
  else
    let x := getShared s (id - 64)
    x.enable && x.target == core && srcWaits x.st

/-- Ids of a control core that may wait: its private sources and the shared sources that are not at reset. -/
def coreIds (s : State) : List Nat := List.range 64 ++ (s.pkg.irq.shared.map (fun p => 64 + p.1))

/-- Whether a source is deliverable at a control core (R635). -/
def deliverable (s : State) (core id : Nat) : Bool :=
  idWaits s core id && decide (getF s fIrqpThreshThresh (pgIrqp core) ≤ idPrio s core id)
    && (match irqStack s core with
        | [] => true
        | t :: _ => decide (idPrio s core t < idPrio s core id))

/-- The better of two deliverable ids: higher priority, then the lower id (R636). -/
def idBetter (s : State) (core a b : Nat) : Nat :=
  if idPrio s core b > idPrio s core a ∨ (idPrio s core b = idPrio s core a ∧ b < a) then b else a

/-- The id that a claim would take (R636, R650). -/
def irqHighest (s : State) (core : Nat) : Option Nat :=
  match (coreIds s).filter (deliverable s core) with
  | [] => none
  | x :: r => some (r.foldl (idBetter s core) x)

/-- The control core that serves an IRQP page: a failed core's stand-in (R36, R39, R640). -/
def irqServer (s : State) (i : Nat) : Nat :=
  if i = 8 ∧ (s.pkg.boot.takeover.isSome ∨ s.pkg.boot.tookOver) then 0
  else if i = 0 ∧ s.pkg.boot.coresDown.contains 0 then 4
  else i

/-- Number in BLK_WSTAT.MASTER of a writer: 0 to 8 a control core, 9 to 12 masters 0 to 3. -/
def writerNo (w : Nat) : Nat := if w < 9 then 4 else w - 9

/-- A write that an IRQP page accepts only from its own control core (R640). -/
def irqOwn (s : State) (i w off : Nat) (eff : State) : State :=
  if i < 8 && spanDown s i then rejectPath s .absent (writerNo w) off 0
  else if stage s ≥ 6 ∨ w ≥ 9 ∨ irqServer s i ≠ w then reject s (pgIrqp i) .permission (writerNo w) off 0
  else eff

/-- Level sources that are no longer asserted leave PENDING before a claim (R639). -/
def irqSettle (s : State) (core : Nat) : State :=
  let s1 := (List.range 25).foldl (fun acc j =>
    if getPriv acc core j = .pending && !privEdge core j && !privLevel acc core j then putPriv acc core j .inactive else acc) s
  s1.pkg.irq.shared.foldl (fun acc p =>
    let x := getShared acc p.1
    if x.target = core && x.st = .pending && !sharedEdge p.1 && !sharedLevel acc p.1 then putShared acc p.1 { x with st := .inactive }
    else acc) s1

/-- IRQP.CLAIM written: the highest deliverable source goes on the stack (R636). -/
def irqClaimEffect (core : Nat) (s : State) : State :=
  let s1 := irqSettle s core
  match irqHighest s1 core with
  | none => putIrq s1 { s1.pkg.irq with empty := setIns s1.pkg.irq.empty core }
  | some id =>
    let s2 := if id < 64 then putPriv s1 core id (claimSt (getPriv s1 core id))
      else putShared s1 (id - 64) { getShared s1 (id - 64) with st := claimSt (getShared s1 (id - 64)).st }
    putStack s2 core (id :: irqStack s2 core)

/-- IRQ_CLAIM (R636). -/
def execIrqClaim (i : Fin 9) (w : Fin 13) (s : State) : Host.Outcome State Fault Refusal :=
  .next (clocked s (irqOwn s i w 0x100 (irqClaimEffect i s)))

/-- A shared source completed: its state, and a target that waited for it (R636, R639). -/
def sharedDone (s : State) (n : Nat) : State :=
  let x := getShared s n
  let st := doneSt (sharedEdge n) (sharedLevel s n) x.st
  raiseInBand (putShared s n { x with st := st, target := x.held.getD x.target, held := none }) n

/-- An id taken off the stack completes (R636). -/
def idDone (s : State) (core id : Nat) : State :=
  if id < 64 then putPriv s core id (doneSt (privEdge core id) (privLevel s core id) (getPriv s core id))
  else sharedDone s (id - 64)

/-- An out-of-order completion (R638). -/
def irqStackFault (s : State) (core id : Nat) : State :=
  let pg := pgIrqp core
  let st := irqStack s core
  let top := st.headD 0xFFF
  let s1 := if getB s fIrqpFaultValid pg then s
    else setB (setF (setF (setF s fIrqpFaultGot pg id) fIrqpFaultTop pg top) fIrqpFaultDepth pg st.length) fIrqpFaultValid pg true
  let s2 := putIrq s1 { s1.pkg.irq with nmi := s1.pkg.irq.nmi ++ [core] }
  elogAdd s2 { elogOf 0x0F with
    span := 15, unit := 0x28, index := core, addr := id + 2 ^ 16 * top + 2 ^ 32 * st.length }

/-- IRQP.COMPLETE written (R636, R638). -/
def irqCompleteEffect (core id : Nat) (s : State) : State :=
  match irqStack s core with
  | t :: rest => if t = id then idDone (putStack s core rest) core id else irqStackFault s core id
  | [] => irqStackFault s core id

/-- IRQ_COMPLETE (R636). -/
def execIrqComplete (i : Fin 9) (id : Fin 4096) (w : Fin 13) (s : State) : Host.Outcome State Fault Refusal :=
  .next (clocked s (irqOwn s i w 0x108 (irqCompleteEffect i id s)))

/-- The stack emptied: every id on it completes, from the top (R638). -/
def irqEmpty (core : Nat) (s : State) : State :=
  (irqStack s core).foldl (fun acc id => idDone acc core id) (putStack s core [])

/-- IRQ_STACK_RESET (R638). -/
def execIrqStackReset (i : Fin 9) (w : Fin 13) (s : State) : Host.Outcome State Fault Refusal :=
  .next (clocked s (irqOwn s i w 0x138 (irqEmpty i s)))

/-- IRQP.SW_SET of a page written: an edge at each software source named, by any control core (R650). -/
def irqpSwSetEffect (i mask w : Nat) (s : State) : State :=
  if i < 8 && spanDown s i then rejectPath s .absent (writerNo w) 0x120 0
  else if w ≥ 9 || decide (stage s ≥ 6) then reject s (pgIrqp i) .permission (writerNo w) 0x120 0
  else ((List.range 16).filter (bitAt mask)).foldl (fun acc k => privEdgeEvent acc i (32 + k)) s

/-- IRQP_SW_SET (R650): a control core gives software sources an edge. -/
def execIrqpSwSet (i : Fin 9) (mask : Fin 65536) (w : Fin 13) (s : State) : Host.Outcome State Fault Refusal :=
  .next (clocked s (irqpSwSetEffect i mask w s))

/-- IRQ_TIMER comes about at the first tick that has reached COMPARE (R641). -/
def irqTimerReady (i : Fin 9) (s : State) : Bool :=
  let c := getF s fIrqpTimerCompare (pgIrqp i)
  c != 2 ^ 64 - 1 && decide (c ≤ s.tick) && !s.pkg.irq.timerFired.contains i.val

/-- IRQ_TIMER (R641). -/
def execIrqTimer (i : Fin 9) (s : State) : Host.Outcome State Fault Refusal :=
  .next (clocked s (if irqTimerReady i s then
    privEdgeEvent (putIrq s { s.pkg.irq with timerFired := s.pkg.irq.timerFired ++ [i.val] }) i 63 else s))

/-! ### Shared sources: software, targets, completion by the host (R634, R639, R644, R651) -/

/-- IRQ.SW_SET written: an edge at a shared software source (R651). -/
def irqSwSetEffect (n m : Nat) (s : State) : State :=
  if n < 528 then reject s pgIrq .range m 0x110 0 else sharedEdgeEvent s n

/-- IRQ_SW_SET (R651). -/
def execIrqSwSet (n : Fin 1024) (m : Nat) (s : State) : Host.Outcome State Fault Refusal :=
  .next (clocked s (guarded s pgIrq m 0x110 (irqSwSetEffect n m s)))

/-- Target code of a writer at a host or management target (R634). -/
def eoiTarget (m : Nat) : Nat := if m < 2 then 9 + m else if m = 2 then 11 else 16

/-- IRQ.EOI written: the writer's target completes an active source (R644). -/
def irqEoiEffect (n : Fin 1024) (m : Nat) (s : State) : State :=
  let x := getShared s n
  if x.target = eoiTarget m && srcTaken x.st then sharedDone s n else reject s pgIrq .range m 0x118 0

/-- IRQ_EOI (R644). -/
def execIrqEoi (n : Fin 1024) (m : Nat) (s : State) : Host.Outcome State Fault Refusal :=
  .next (clocked s (guarded s pgIrq m 0x118 (irqEoiEffect n m s)))

/-- Whether the PF of a port is enabled: the port is there and its Memory Space Enable is set (R512, R634). -/
def pfEnabled (s : State) (p : Nat) : Bool :=
  !s.pkg.boot.portsGone.contains p && s.ho.mse.contains p && (p == 0 || bitAt s.pkg.boot.straps 2)

/-- Why a write of IRQ.CFG is rejected (R634). -/
def targetRejects (s : State) (n target m : Nat) : Option Rej :=
  let x := getShared s n
  if target ≥ 12 then some .range
  else if x.held.getD x.target ≠ target ∧ n < 528 ∧ m ≠ 4 then some .permission
  else if target ≤ 8 ∧ s.pkg.boot.coresDown.contains target then some .absent
  else if (target = 9 ∨ target = 10) ∧ !pfEnabled s (target - 9) then some .absent
  else none

/-- IRQ.CFG of the source in IRQ.SEL written: priority, enable and target; the target of a source that has been
taken waits for its completion (R639, R651). -/
def irqTargetWriteEffect (target prio : Fin 16) (enable : Bool) (m : Nat) (s : State) : State :=
  let n := getF s fIrqSelSrc pgIrq
  match targetRejects s n target m with
  | some c => reject s pgIrq c m 0x108 0
  | none =>
    let x := getShared s n
    let x1 := { x with prio := prio.val, enable := enable }
    raiseInBand (putShared s n
      (if srcTaken x.st then { x1 with held := some target.val } else { x1 with target := target.val, held := none })) n

/-- IRQ_TARGET_WRITE (R639). -/
def execIrqTargetWrite (target prio : Fin 16) (enable : Bool) (m : Nat) (s : State) : Host.Outcome State Fault Refusal :=
  .next (clocked s (guarded s pgIrq m 0x108 (irqTargetWriteEffect target prio enable m s)))

/-! ### MSI-X (R642 to R645) -/

/-- Whether the link of a function's port is up, and no test idles the port (R630). -/
def linkUp (s : State) (fn : Nat) : Bool :=
  getF s fHifLinkState (pgHif (fn / 64)) == 2 && !portTested s (12 + fn / 64)

/-- A message of an entry: sent, or held while the entry is masked (R642). -/
def msiSend (s : State) (fn entry : Nat) : State :=
  let q := s.pkg.irq
  if q.unmasked.contains (fn, entry) then putIrq s { q with sent := q.sent ++ [(fn, entry)] }
  else if q.heldMsg.contains (fn, entry) then s
  else putIrq s { q with heldMsg := q.heldMsg ++ [(fn, entry)] }

/-- The shared source whose message an entry of a PF carries becomes active when it is sent (R644). -/
def sourceSent (s : State) (fn entry : Nat) : State :=
  if fn % 64 = 0 ∧ 16 ≤ entry ∧ entry < 1040 then
    let x := getShared s (entry - 16)
    if x.target = 9 + fn / 64 ∧ x.st = .pending then putShared s (entry - 16) { x with st := .active } else s
  else s

/-- What a message may be due for, by function and number: a completion ring, the function page's block interrupt,
or a shared source. -/
def msixSendEffect (kind : Fin 3) (fn : Fin 128) (n : Nat) (s : State) : State :=
  let q := s.pkg.irq
  match kind.val with
  | 0 =>
    if linkUp s fn && q.ringDue.contains (fn.val, n) then
      msiSend (putIrq s { q with ringDue := q.ringDue.filter (· ≠ (fn.val, n)) }) fn (getF s fFnSqCfgVector (pgFn fn) n)
    else s
  | 1 =>
    if blkIrq s (pgFn fn) then
      (if q.fnAsserted.contains fn.val || !linkUp s fn then s
       else msiSend (putIrq s { q with fnAsserted := q.fnAsserted ++ [fn.val] }) fn (getF s fFnBlkVecVector (pgFn fn)))
    else putIrq s { q with fnAsserted := q.fnAsserted.filter (· ≠ fn.val) }
  | _ =>
    let x := getShared s n
    if fn.val % 64 == 0 && n < 1024 && x.target == 9 + fn.val / 64 && x.st == .pending && x.enable && linkUp s fn then
      (if q.unmasked.contains (fn.val, 16 + n) then sourceSent (msiSend s fn (16 + n)) fn (16 + n) else msiSend s fn (16 + n))
    else s

/-- MSIX_SEND (R643). -/
def execMsixSend (kind : Fin 3) (fn : Fin 128) (n : Nat) (s : State) : Host.Outcome State Fault Refusal :=
  .next (clocked s (msixSendEffect kind fn n s))

/-- Entries of a function's MSI-X table (R642). -/
def msixEntries (fn : Nat) : Nat := if fn % 64 = 0 then 1040 else 16

/-- The host unmasks an entry, and a message held by masking is sent (R642). -/
def msixEntryUnmaskEffect (fn : Fin 128) (entry : Nat) (s : State) : State :=
  let q := s.pkg.irq
  let s1 := putIrq s { q with unmasked := if q.unmasked.contains (fn.val, entry) then q.unmasked else (fn.val, entry) :: q.unmasked }
  if q.heldMsg.contains (fn.val, entry) then
    let s2 := putIrq s1 { s1.pkg.irq with heldMsg := q.heldMsg.filter (· ≠ (fn.val, entry)) }
    sourceSent (msiSend s2 fn entry) fn entry
  else s1

/-- MSIX_ENTRY_UNMASK (R642). -/
def execMsixEntryUnmask (fn : Fin 128) (entry : Nat) (s : State) : Host.Outcome State Fault Refusal :=
  .next (clocked s (if linkUp s fn && entry < msixEntries fn then msixEntryUnmaskEffect fn entry s else s))

/-! ### Sources of function pages and of OWN (R507, R645) -/

/-- An OWN event: its source, and where OWN enables it the REINS source of both PFs and an in-band interrupt
(R514, R645). -/
def ownEvent (s : State) (bit : Nat) : State :=
  let s1 := irqSrc s pgOwn bit
  if bitAt (getF s1 fBlkIrqEnEn pgOwn) bit then
    let s2 := irqSrc (irqSrc s1 (pgFn 0) 5) (pgFn 64) 5
    putIrq s2 { s2.pkg.irq with inBand := s2.pkg.irq.inBand ++ [(2, 0)] }
  else s1

end Sys2Proof.Machine
end

