-- ==== Sys2Proof/Machine/Serving.lean ====
section
/-!
DEFINITION. Serving (R373 to R377, R435 to R447): requests, steps and chunks, KV pages and their
pre-emption, weight epochs, adapters and prefixes.
-/
namespace Sys2Proof.Machine

/-! ### Requests -/

/-- A live request by its table index. -/
def getReq (s : State) (idx : Nat) : Option Req := s.srv.reqs.find? (fun r => r.idx == idx)

/-- A request replaced. -/
def putReq (s : State) (r : Req) : State :=
  { s with srv := { s.srv with reqs := s.srv.reqs.map (fun x => if x.idx == r.idx then r else x) } }

/-- A PROGRESS record of a request's ring (R437, R503). -/
def progressRec (fn ring tag w1 w2 w3 : Nat) : CqRec :=
  ⟨fn, ring, tag, w1, w2, w3 + 3 * 2 ^ 60 + 2 ^ 56 * ring, 0, 0⟩

/-- The record of a delivered token: its index, flags FIRST, LATE and PREFIX_READY, and the handle. -/
def tokenRec (r : Req) (token idx handle : Nat) (first late : Bool) : CqRec :=
  progressRec r.fn r.ring r.tag (token % 2 ^ 32 + 2 ^ 32 * (idx % 2 ^ 25)) (r.idx + 2 ^ 16 * handle)
    ((if first then 2 ^ 8 else 0) + (if late then 2 ^ 9 else 0) + (if handle = 0 then 0 else 2 ^ 11))

/-- The record of a request's end (R437). -/
def endRec (r : Req) (status : Nat) : CqRec :=
  progressRec r.fn r.ring r.tag 0 r.idx (status + (if r.late then 2 ^ 9 else 0) + 2 ^ 10)

/-- The record of a request that received no table index (R500). -/
def refusedRec (fn ring tag status : Nat) : CqRec :=
  progressRec fn ring tag 0 0 (status + 2 ^ 10 + 2 ^ 12)

/-- Prefixes released by their clients and referenced by no sequence leave (R445). -/
def sweepPrefixes (s : State) : State :=
  { s with srv := { s.srv with prefixes := s.srv.prefixes.filter (fun p => !p.2.leaving || prefixUsed s p.1) } }

/-- Whether a generation of an adapter is held: it is current, or a request pins it (R444). -/
def genHeld (s : State) (handle : Nat) (a : Adapter) (g : Nat) : Bool :=
  g == a.cur || s.srv.reqs.any (fun r => r.adapter == handle && r.gen == g)

/-- Generations that nothing holds are freed with their prefixes (R444). -/
def sweepAdapters (s : State) : State :=
  let ad := s.srv.adapters.map (fun p => (p.1, { p.2 with gens := p.2.gens.filter (fun g => genHeld s p.1 p.2 g.1) }))
  let live (h g : Nat) : Bool := h == 0 || ad.any (fun p => p.1 == h && p.2.gens.any (fun x => x.1 == g))
  { s with srv := { s.srv with
      adapters := ad, prefixes := s.srv.prefixes.filter (fun p => live p.2.adapter p.2.gen) } }

/-- A system work item done: it leaves, or is ready to commit where it is journaled. -/
def jobDone (s : State) (id : Nat) : State :=
  match getItem s id with
  | some it => if it.journaled then putItem s { it with left := 0, endTick := s.tick } else itemGone s it 0
  | none => s

/-- A request ends: its final record is posted and its entry, pages and references are freed (R436,
R437). -/
def endReq (s : State) (r : Req) (status : Nat) : State :=
  let s1 := cqPush (jobDone s r.job) (endRec r status)
  kvSweep (sweepAdapters (sweepPrefixes
    { s1 with srv := { s1.srv with reqs := s1.srv.reqs.filter (fun x => x.idx ≠ r.idx) } }))

/-- A request that a table index names ends, if it is live. -/
def endIdx (s : State) (idx status : Nat) : State :=
  match getReq s idx with | some r => endReq s r status | none => s

/-! ### KV pages (R353, R373, R374) -/

/-- Bytes that a sequence's unshared pages take in the swap area (R375). -/
def swapBytes (r : Req) : Nat := (ownPages r).length * kvPageBytes r.model

/-- Bytes of the swap area in use. -/
def swapUsed (s : State) : Nat := ((s.srv.reqs.filter (fun r => r.kv != .resident)).map swapBytes).sum

/-- Whether the host swap area can take a sequence's pages. -/
def swapRoom (s : State) (r : Req) : Bool :=
  match s.ho.swap with
  | some a => decide (swapUsed s + swapBytes r ≤ a.2.1)
  | none => false

/-- A sequence pre-empted: it leaves the batch for the host, or ends when the swap area cannot hold its pages
(R374, R375). -/
def preempt (s : State) (r : Req) : State :=
  if swapRoom s r then
    putReq s { r with kv := .swappingOut, copied := false, slot := none, st := if r.st == .generating then .ready else r.st }
  else endReq s r 3

/-- The worse of two victims: the one of higher priority stays; among equals the one that entered generation
last goes (R374). -/
def victimOf (a b : Req) : Req :=
  if b.prio < a.prio ∨ (b.prio = a.prio ∧ (a.entered < b.entered ∨ (a.entered = b.entered ∧ a.seq < b.seq))) then b else a

/-- Whether a sequence is in a ring kernel, or in a learning or scoring work item: a prepared step that holds it is one of
a group whose active entries name such a kernel or phase (R374, R434). -/
def spared (s : State) (idx : Nat) : Bool :=
  s.srv.groups.any (fun p => p.2.step.any (fun y => y.2.1 == idx) &&
    (groupEntries s p.1 p.2.gen).any (fun e => ((getSched s e.1).active[e.2]?).any (fun x =>
      decide (x.phase ≥ 2) || Config.ringKernel x.kernel)))

/-- The sequence to pre-empt for another one, if any (R374). -/
def victimFor (s : State) (need : Req) : Option Req :=
  match s.srv.reqs.filter (fun r => r.kv == .resident && r.idx != need.idx && !r.pages.isEmpty && decide (r.prio ≤ need.prio)
      && !spared s r.idx) with
  | [] => none
  | x :: l => some (l.foldl victimOf x)

/-- The oldest prefix that no sequence references. -/
def idlePrefix (s : State) : Option Nat := (s.srv.prefixes.find? (fun p => !prefixUsed s p.1)).map (·.1)

/-- One page number allocated for a request and mapped in every pool at global page index `g`, where a number is free and
every pool has room, with reclaiming in the order of R374 (R373). None when the request itself is pre-empted. -/
def allocPage (idx g : Nat) : Nat → State → Option Nat × State
  | 0, s => (none, s)
  | k + 1, s => match getReq s idx with
    | none => (none, s)
    | some r =>
      if pageRoom s r.model g then
        let p := pickFree s (kvPages r.model) (pagesUsed s r.model)
        (some p.1, mapPage p.2 r.model p.1 g)
      else match idlePrefix s with
        | some h => allocPage idx g k (kvSweep { s with srv := { s.srv with prefixes := del s.srv.prefixes h } })
        | none => match victimFor s r with
          | some v => allocPage idx g k (preempt s v)
          | none => (none, preempt s r)

/-- Steps that an allocation may take at most. -/
def allocFuel (s : State) : Nat := s.srv.prefixes.length + s.srv.reqs.length + 1

/-- Pages allocated until a request holds `n`; it may leave the batch on the way. -/
def growPages (idx n : Nat) : Nat → State → State
  | 0, s => s
  | k + 1, s => match getReq s idx with
    | none => s
    | some r =>
      if r.pages.length ≥ n ∨ r.kv ≠ .resident then s
      else
        let a := allocPage idx r.pages.length (allocFuel s) s
        match a.1, getReq a.2 idx with
        | some p, some r1 => growPages idx n k (putReq a.2 { r1 with pages := r1.pages ++ [p] })
        | _, _ => a.2

/-- A shared page at a global page index copied to a new page number before the request appends to it (R362). DESIGN CHOICE:
the copy has the effect of the `nb.rowop`s or LD and ST commands that make it, not their counts (log entry 106). -/
def unshare (idx : Nat) (s : State) (g : Nat) : State :=
  match getReq s idx with
  | none => s
  | some r =>
    let p := r.pages.getD g 0
    if r.kv = .resident && decide (g < r.pages.length) && r.shared.contains p then
      let a := allocPage idx g (allocFuel s) s
      match a.1, getReq a.2 idx with
      | some q, some r1 => putReq (copyPage a.2 r1.model p q) { r1 with pages := r1.pages.set g q, shared := setDel r1.shared p }
      | _, _ => a.2
    else s

/-- Global pages that a request's tokens from its length to `last` fall in (R353). -/
def tokenPages (r : Req) (last : Nat) : List Nat :=
  let p0 := r.len / pageTokens r.model
  ((List.range (last / pageTokens r.model + 1 - p0)).map (fun i =>
    if kvRing r.model = 0 then p0 + i else (p0 + i) % kvRing r.model)).eraseDups

/-- Room for the tokens from a request's length to `last`, every shared page copied before it is appended to
(R362, R373). -/
def roomFor (s : State) (idx last : Nat) : State :=
  match getReq s idx with
  | none => s
  | some r =>
    let lim := if kvRing r.model = 0 then last / pageTokens r.model + 1
      else min (last / pageTokens r.model + 1) (kvRing r.model)
    (tokenPages r last).foldl (unshare idx) (growPages idx lim lim s)

/-! ### Groups and their entries (R417, R424, R438) -/

/-- Whether a firing is under way: a launch of it lives, or a work item that holds one has launches left or waits for a
replay (R99, R556). -/
def firingOpen (s : State) (k : Nat × Nat × Nat) : Bool :=
  (liveLaunches s).any (fun l => firingKey l == some k)
    || s.ho.items.any (fun it => (decide (it.left > 0) || it.replay || it.held != 0)
      && it.launches.any (fun d => firingKey d.launch == some k))

/-- Whether an entry of a group is at rest: not armed, with no firing deferred or launched. -/
def entryRests (s : State) (e : Nat × Nat) : Bool :=
  !entryArmed s e.1 e.2 && (entryDeferred s e.1 e.2).isEmpty && !firingLive s e.1 e.2

/-- Entries that a group's step waits for, on spans that still take part in the schedule. -/
def stillWaits (s : State) (x : Group) : List (Nat × Nat) := x.wait.filter (fun e => !spanDown s e.1)

/-- Whether a group can be prepared (R440): every firing of its step, those of an earlier table among them, has completed;
it has entries to arm or a step to deliver; and the current frame's entries have all fired or all not. -/
def prepareReady (g : Nat) (gen : Bool) (s : State) : Bool :=
  match getGroup s g with
  | none => false
  | some x =>
    let es := groupEntries s g gen
    x.gen == gen && (!es.isEmpty || !x.step.isEmpty) && (stillWaits s x).isEmpty && !x.fired.any (firingOpen s)
      && es.all (entryRests s)
      && (!inWorkFrame s || es.all (entrySeen s) || es.all (fun e => !entrySeen s e))

/-! ### Delivery (R440, R446) -/

/-- Whether a result at a tick is late. -/
def isLate (r : Req) (at_ : Nat) : Bool := match r.deadline with | some d => decide (at_ > d) | none => false

/-- The result record of a group's slot for a work frame: token and STOP; a poisoned record is logged and gives a free
word (R439, R535). -/
def readResult (s : State) (g slot frame : Nat) : Nat × Bool × State :=
  let da := Config.resultAddr g (256 * (frame % 2) + slot) * 32
  let r := daRead s da 32
  if r.2.1.isEmpty then (leNat (r.1.take 4), bitAt (leNat (r.1.drop 4 |>.take 1)) 0, r.2.2)
  else
    let f := freeWord (fenivarPoison r.2.2 da)
    (f.1.toNat % 2 ^ 32, bitAt f.1.toNat 32, f.2)

/-- A token delivered to OUT, with its record (R437, R440, R504). -/
def deliverToken (s : State) (r : Req) (token handle : Nat) (late : Bool) : State :=
  cqPush (hostPost s r.fn none (r.out + 4 * r.made) (leBytes 4 token)) (tokenRec r token r.made handle (r.made == 0) late)

/-- A request's prefix created when it reaches READY with KEEP_PREFIX (R445): the handle, 0 for none. -/
def keepPrefix (s : State) (r : Req) : Nat × State :=
  let n := r.len / pageTokens r.model
  if !r.keep || n == 0 then (0, s)
  else
    let h := pickFree s (2 ^ 32) (0 :: s.srv.prefixes.map (·.1))
    let pg := r.pages.take n
    let p : CachedPrefix := ⟨r.fn, r.model, r.epoch, r.adapter, r.gen, n * pageTokens r.model, pg, false⟩
    (h.1, putReq { h.2 with srv := { h.2.srv with prefixes := put h.2.srv.prefixes h.1 p } } { r with shared := pg })

/-- Status with which a request ends after a delivered token, if it does (R437, R443, R446, R447). -/
def endAfter (s : State) (r : Req) (stop : Bool) : Option Nat :=
  if stop || decide (r.made ≥ r.maxNew) then some 0
  else if r.late && r.stopLate then some 1
  else if r.cancel then some 2
  else match s.srv.models.find? (fun m => m.1 = r.model) with
    | some m => if m.2.hold ≠ 0 && r.epoch + 1 == m.2.epoch && decide (s.tick ≥ m.2.pubTick + m.2.hold) then some 7 else none
    | none => none

/-- A generation step's result for one slot delivered, and the status with which its request is to end, if it does
(R440). -/
def deliverGen (g frame at_ : Nat) (acc : State × List (Nat × Nat)) (x : Nat × Nat × Nat × Bool) : State × List (Nat × Nat) :=
  match getReq acc.1 x.2.1 with
  | none => acc
  | some r =>
    let res := readResult acc.1 g x.1 frame
    let late := r.late || isLate r at_
    let s1 := deliverToken res.2.2 r res.1 r.give late
    let r1 := { r with made := r.made + 1, len := r.len + 1, late := late, grps := setIns r.grps g, give := 0 }
    (putReq s1 r1, acc.2 ++ ((endAfter s1 r1 res.2.1).map (fun c => (r.idx, c))).toList)

/-- A prompt chunk's end for one slot; a FINAL one delivers the first token and makes the request READY
(R440, R445). -/
def deliverFill (g frame at_ : Nat) (acc : State × List (Nat × Nat)) (x : Nat × Nat × Nat × Bool) : State × List (Nat × Nat) :=
  match getReq acc.1 x.2.1 with
  | none => acc
  | some r =>
    let late := r.late || isLate r at_
    let r0 := { r with fed := r.fed + x.2.2.1, len := r.len + x.2.2.1, late := late, grps := setIns r.grps g }
    if !x.2.2.2 then
      (putReq acc.1 r0, acc.2 ++ ((endAfter acc.1 r0 false).map (fun c => (r.idx, c))).toList)
    else
      let res := readResult acc.1 g x.1 frame
      let k := keepPrefix (putReq res.2.2 r0) r0
      let r1 := (getReq k.2 r.idx).getD r0
      let s1 := deliverToken k.2 r1 res.1 k.1 late
      let r2 := { r1 with made := 1, st := .ready }
      (putReq s1 r2, acc.2 ++ ((endAfter s1 r2 res.2.1).map (fun c => (r.idx, c))).toList)

/-- Whether every firing of a group's step has launched, so that its results are there (R440). -/
def stepRan (x : Group) : Bool := !x.notRun && x.wait.isEmpty

/-- The results of a group's step or chunks: all are delivered before the sequences that end leave; with a failed work item
each request ends with WORK_ERROR, and a step that has not run gives nothing (R437, R440). -/
def deliverStep (g : Nat) (x : Group) (s : State) : State :=
  if x.err then x.step.foldl (fun acc y => endIdx acc y.2.1 0xA) s
  else if !stepRan x then s
  else
    let d := x.step.foldl (if x.gen then deliverGen g x.armedFor x.ended else deliverFill g x.armedFor x.ended) (s, [])
    d.2.foldl (fun acc y => endIdx acc y.1 y.2) d.1

/-! ### The next step (R440 to R443) -/

/-- Whether a request is in a step or chunk of another group that has been prepared. -/
def inOtherStep (s : State) (g idx : Nat) : Bool :=
  s.srv.groups.any (fun p => p.1 != g && p.2.step.any (fun y => y.2.1 == idx))

/-- Status with which a request that no step held ends at a preparation of a group, if it does (R443, R446,
R447). -/
def endWaiting (s : State) (x : Group) (r : Req) : Option Nat :=
  let mine := r.model == x.model && (x.gen == (r.st == .ready || r.st == .generating))
  if r.stopLate && r.slot.isNone && isLate r s.tick then some 1
  else if mine && r.cancel then some 2
  else if mine then endAfter s { r with made := 0, late := false } false
  else none

/-- Requests that end at a preparation although they were in no step. -/
def endWaiters (g : Nat) (x : Group) (s : State) : State :=
  s.srv.reqs.foldl (fun acc r =>
    if inOtherStep s g r.idx || x.step.any (fun y => y.2.1 == r.idx) then acc
    else match endWaiting acc x r with | some c => endIdx acc r.idx c | none => acc) s

/-- Requests ordered by priority, then by acceptance (R440, R441). -/
def reqBefore (a b : Req) : Bool := decide (b.prio < a.prio) || (a.prio == b.prio && decide (a.seq ≤ b.seq))

/-- A request inserted into an ordered list. -/
def reqInsert (r : Req) : List Req → List Req
  | [] => [r]
  | x :: l => if reqBefore r x then r :: x :: l else x :: reqInsert r l

/-- Requests in order. -/
def reqSort (l : List Req) : List Req := l.foldr reqInsert []

/-- Requests of a group's batch: those in its slots, or for prompts those part way through. -/
def groupBatch (s : State) (g : Nat) (x : Group) : List Req :=
  if x.gen then s.srv.reqs.filter (fun r => match r.slot with | some t => t.1 == g | none => false)
  else s.srv.reqs.filter (fun r => r.st == .prompt && r.model == x.model)

/-- A group takes the model's current epoch once its batch holds no sequence of its own (R443). -/
def groupEpoch (s : State) (g : Nat) (x : Group) : Nat :=
  match s.srv.models.find? (fun m => m.1 = x.model) with
  | some m => if (groupBatch s g x).any (fun r => r.epoch == x.epoch) then x.epoch else m.2.epoch
  | none => x.epoch

/-- Lowest free batch slot of a group. -/
def batchSlot (s : State) (g : Nat) (x : Group) : Option Nat :=
  (List.range x.batch).find? (fun k => !s.srv.reqs.any (fun r => r.slot == some (g, k)))

/-- A READY sequence admitted into a free slot (R440). -/
def takeIn (g : Nat) (x : Group) (s : State) (r : Req) : State :=
  match batchSlot s g x with
  | some k => putReq s { r with slot := some (g, k), st := .generating, entered := s.tick }
  | none => s

/-- Sequences that a group may takeIn. -/
def admissible (s : State) (x : Group) : List Req :=
  reqSort (s.srv.reqs.filter (fun r => r.st == .ready && r.slot.isNone && r.kv == .resident && r.model == x.model && r.epoch == x.epoch))

/-- Slots of a generation step: those whose sequence is resident with a page for its next token. -/
def genStep (s : State) (g : Nat) (x : Group) : List (Nat × Nat × Nat × Bool) :=
  (List.range x.batch).filterMap (fun k =>
    match s.srv.reqs.find? (fun r => r.slot == some (g, k)) with
    | some r => if r.kv == .resident then some (k, r.idx, 1, !r.grps.contains g) else none
    | none => none)

/-- Requests that may take a prompt chunk, in order (R441). -/
def fillable (s : State) (g : Nat) (x : Group) : List Req :=
  (reqSort (s.srv.reqs.filter (fun r => (r.st == .queued || r.st == .prompt) && r.kv == .resident
    && r.model == x.model && r.epoch == x.epoch && decide (r.fed < r.promptLen) && !inOtherStep s g r.idx))).take x.batch

/-- Chunks of a prompt step, one per request. -/
def fillStep (s : State) (x : Group) (ids : List Nat) : List (Nat × Nat × Nat × Bool) :=
  ((ids.filterMap (getReq s)).filter (fun r => r.kv == .resident)).zipIdx.map (fun p =>
    let n := min x.chunk (p.1.promptLen - p.1.fed)
    (p.2, p.1.idx, n, p.1.fed + n == p.1.promptLen))

/-- A box record (R180, R360) of one token: ORIGIN (0, row, position, page, 0, 0) and BOX (d, 1, 1, 1, 1, 1). -/
def boxBytes (row pos page d : Nat) : List Byte :=
  [0, row, pos, page, 0, 0].flatMap (leBytes 4) ++ [d, 1, 1, 1, 1, 1].flatMap (leBytes 4) ++ List.replicate 16 0

/-- The append record of a token of a request (R360). -/
def appendRec (r : Req) (t : Nat) : List Byte :=
  let pl := tokenPlace r.model t
  let page := r.pages.getD pl.1 0
  let rows := kvRows r.model
  boxBytes (pl.2 % rows) (pl.2 / rows) page (Config.kvDim r.model)
    ++ boxBytes (pl.2 % rows) (pl.2 / rows) page (Config.kvDim r.model / 32)

/-- Descriptor address of the adapter generation that a request pins. -/
def adapterDesc (s : State) (r : Req) : Nat :=
  match s.srv.adapters.find? (fun a => a.1 = r.adapter) with | some a => look a.2.gens r.gen 0 | none => 0

/-- FLAGS of a slot record: FIRST for the sequence's first step in the group, FINAL for its last prompt chunk (R438). -/
def slotFlags (g : Nat) (gen : Bool) (r : Req) (last : Bool) : Byte :=
  (if r.grps.contains g then 0 else 1) + (if !gen && last then 2 else 0)

/-- A slot record (R438). -/
def slotBytes (s : State) (g frame : Nat) (gen : Bool) (y : Nat × Nat × Nat × Bool) : List Byte :=
  match getReq s y.2.1 with
  | none => List.replicate 256 0
  | some r =>
    appendRec r r.len ++ ([1, slotFlags g gen r y.2.2.2, 0, 0] : List Byte) ++ leBytes 4 (r.len + y.2.2.1)
      ++ leBytes 8 (128 * Config.pageListAddr r.idx) ++ leBytes 8 (adapterDesc s r)
      ++ leBytes 8 (Config.resultAddr g (256 * (frame % 2) + y.1) * 32) ++ leBytes 8 r.sample
      ++ leBytes 8 (if gen then 0 else r.prompt + 4 * r.fed) ++ leBytes 4 (if gen then 0 else r.len)
      ++ leBytes 4 (if gen then 0 else y.2.2.1) ++ List.replicate 72 (0 : Byte)

/-- The half of the step area that a step uses: header and slot records (R438). -/
def areaBytes (s : State) (g frame : Nat) (x : Group) (step : List (Nat × Nat × Nat × Bool)) : List Byte :=
  leBytes 8 frame ++ leBytes 8 x.epoch ++ leBytes 4 step.length ++ List.replicate 236 (0 : Byte)
    ++ (List.range x.batch).flatMap (fun k =>
      match step.find? (fun y => y.1 == k) with
      | some y => slotBytes s g frame x.gen y
      | none => List.replicate 256 0)

/-- Page lists of the sequences of a step (R351). -/
def writeLists (s : State) (step : List (Nat × Nat × Nat × Bool)) : State :=
  step.foldl (fun acc y => match getReq acc y.2.1 with
    | some r => daWrite acc (128 * Config.pageListAddr r.idx) (r.pages.flatMap (leBytes 4)) []
    | none => acc) s

/-- The step area written and the group's entries armed, when the step holds a sequence (R440, R441). -/
def armStep (g : Nat) (x : Group) (es : List (Nat × Nat)) (step : List (Nat × Nat × Nat × Bool)) (s : State) : State :=
  let frame := targetFrame s es
  let s1 := putGroup s g { x with step := step, armedFor := frame, wait := if step.isEmpty then [] else es }
  if step.isEmpty then s1
  else
    let s2 := daWrite (writeLists s1 step) (x.area + 131072 * (frame % 2)) (areaBytes s1 g frame x step) []
    es.foldl (fun acc e => setArmed acc e.1 e.2 true) s2

/-- A group with no step prepared. -/
def stepClear (x : Group) : Group := { x with step := [], wait := [], fired := [], notRun := false, err := false, ended := 0 }

/-- Delivery, ends and the group's epoch: what both preparations do first. -/
def prepareHead (g : Nat) (x : Group) (s : State) : Group × State :=
  let s1 := putGroup (deliverStep g x s) g (stepClear x)
  let s2 := endWaiters g (if stepRan x then x else stepClear x) s1
  ({ stepClear x with epoch := groupEpoch s2 g x }, s2)

/-- A generation step prepared, where the tables hold an entry to run it (R440). -/
def stepPrepareEffect (g : Nat) (s : State) : State :=
  match getGroup s g with
  | none => s
  | some x =>
    let h := prepareHead g x s
    if (groupEntries h.2 g true).isEmpty then putGroup h.2 g h.1
    else
      let s1 := (admissible h.2 h.1).foldl (takeIn g h.1) h.2
      let s2 := ((groupBatch s1 g h.1).map (fun r => (r.idx, r.len))).foldl (fun acc p => roomFor acc p.1 p.2) s1
      armStep g h.1 (groupEntries s2 g true) (genStep s2 g h.1) s2

/-- STEP_PREPARE (R440). -/
def execStepPrepare (g : Nat) (s : State) : Host.Outcome State Fault Refusal :=
  .next (clocked s (if prepareReady g true s then stepPrepareEffect g s else s))

/-- A prompt step prepared, where the tables hold an entry to run it (R440, R441). -/
def fillPrepareEffect (g : Nat) (s : State) : State :=
  match getGroup s g with
  | none => s
  | some x =>
    let h := prepareHead g x s
    if (groupEntries h.2 g false).isEmpty then putGroup h.2 g h.1
    else
      let ids := fillable h.2 g h.1
      let s1 := ids.foldl (fun acc r => roomFor acc r.idx (r.len + min x.chunk (r.promptLen - r.fed) - 1)) h.2
      armStep g h.1 (groupEntries s1 g false) (fillStep s1 h.1 (ids.map (·.idx))) s1

/-- FILL_PREPARE (R440). -/
def execFillPrepare (g : Nat) (s : State) : Host.Outcome State Fault Refusal :=
  .next (clocked s (if prepareReady g false s then fillPrepareEffect g s else s))

/-! ### Swapping (R375 to R377) -/

/-- Whether a prepared step holds a request. -/
def inAnyStep (s : State) (idx : Nat) : Bool := s.srv.groups.any (fun p => p.2.step.any (fun y => y.2.1 == idx))

/-- KV_SWAP_OUT comes about for a pre-empted sequence that no step holds. -/
def kvSwapOutReady (idx : Nat) (s : State) : Bool :=
  match getReq s idx with
  | some r => r.kv == .swappingOut && !r.copied && !inAnyStep s idx
  | none => false

/-- A system work item opened for a copy of a sequence's pages (R375, R546). -/
def jobOpen (s : State) : Nat × State :=
  let o := itemOpen s .system 0 0
  match getItem o.2 o.1 with
  | some it => (o.1, putItem o.2 { it with left := 1 })
  | none => o

/-- Whether a copy of one of a sequence's pages met poison. -/
def copyBad (s : State) (r : Req) : Bool :=
  s.srv.copies.any (fun c => c.model == r.model && (ownPages r).contains c.page && !c.bad.isEmpty)

/-- The sequence's unshared pages of every pool are copied to the host swap area by a system work item, which ends where
it has read poison (R375, R535). -/
def kvSwapOutEffect (idx : Nat) (s : State) : State :=
  match getReq s idx with
  | some r =>
    let o := jobOpen s
    let s1 := (ownPages r).foldl (swapPageOut r.model) o.2
    let s2 := if copyBad s1 r then itemError s1 o.1 eDmaPoison 0 0 0 0 else s1
    putReq s2 { r with copied := true, job := o.1 }
  | none => s

/-- KV_SWAP_OUT (R375). -/
def execKvSwapOut (idx : Nat) (s : State) : Host.Outcome State Fault Refusal :=
  .next (clocked s (if kvSwapOutReady idx s then kvSwapOutEffect idx s else s))

/-- KV_SWAP_OUT_DONE comes about once copying has started. -/
def kvSwapOutDoneReady (idx : Nat) (s : State) : Bool :=
  match getReq s idx with | some r => r.kv == .swappingOut && r.copied | none => false

/-- The sequence is SWAPPED: its blocks are unmapped and freed; it keeps its page numbers and its references to shared
pages (R375, R377). -/
def kvSwapOutDoneEffect (idx : Nat) (s : State) : State :=
  match getReq s idx with
  | some r => kvSweep (putReq (jobDone s r.job) { r with kv := .swapped, copied := false, job := 0 })
  | none => s

/-- KV_SWAP_OUT_DONE (R375). -/
def execKvSwapOutDone (idx : Nat) (s : State) : Host.Outcome State Fault Refusal :=
  .next (clocked s (if kvSwapOutDoneReady idx s then kvSwapOutDoneEffect idx s else s))

/-- Whether a frame boundary stands: no frame is under way, or no entry of the current one has been dealt with. DEDUCED:
log entry 107. -/
def atBoundary (s : State) : Bool :=
  !inWorkFrame s || (schedSpans s).all (fun sp => (getSched s sp).seen.isEmpty)

/-- KV_SWAP_IN comes about for a swapped sequence at a frame boundary. -/
def kvSwapInReady (idx : Nat) (s : State) : Bool :=
  match getReq s idx with | some r => r.kv == .swapped && atBoundary s | none => false

/-- Global page indices that a sequence needs room for to return: its unshared pages, and one page for growth (R377). -/
def returnPages (r : Req) : List Nat :=
  ((r.pages.zipIdx.filter (fun p => !r.shared.contains p.1)).map (·.2)) ++ [r.pages.length]

/-- With space free for all its pages plus one for growth, the sequence's pages are mapped onto new blocks and a system work
item starts to copy them back (R377). -/
def kvSwapInEffect (idx : Nat) (s : State) : State :=
  match getReq s idx with
  | none => s
  | some r =>
    if kvRoom s r.model (returnPages r) then
      let o := jobOpen s
      putReq (r.pages.zipIdx.foldl (fun acc p =>
        if r.shared.contains p.1 then acc else mapPage acc r.model p.1 p.2) o.2) { r with kv := .swappingIn, job := o.1 }
    else s

/-- KV_SWAP_IN (R377). -/
def execKvSwapIn (idx : Nat) (s : State) : Host.Outcome State Fault Refusal :=
  .next (clocked s (if kvSwapInReady idx s then kvSwapInEffect idx s else s))

/-- KV_SWAP_IN_DONE comes about while copying back. -/
def kvSwapInDoneReady (idx : Nat) (s : State) : Bool :=
  match getReq s idx with | some r => r.kv == .swappingIn | none => false

/-- Whether host copies of a sequence's pages stand. -/
def copiesLeft (s : State) (r : Req) : Bool :=
  s.srv.copies.any (fun c => c.model == r.model && (ownPages r).contains c.page)

/-- The pages are copied back: the sequence is resident again, with its page list restored, and rejoins at the next
preparation. While no port can be read, copies stay and the sequence with them (R527). -/
def kvSwapInDoneEffect (idx : Nat) (s : State) : State :=
  match getReq s idx with
  | some r =>
    let s1 := (ownPages r).foldl (swapPageIn r.model) s
    if copiesLeft s1 r then s1
    else daWrite (putReq (jobDone s1 r.job) { r with kv := .resident, job := 0 }) (128 * Config.pageListAddr idx)
      (r.pages.flatMap (leBytes 4)) []
  | none => s

/-- KV_SWAP_IN_DONE (R377). -/
def execKvSwapInDone (idx : Nat) (s : State) : Host.Outcome State Fault Refusal :=
  .next (clocked s (if kvSwapInDoneReady idx s then kvSwapInDoneEffect idx s else s))

/-! ### Acceptance of requests (R435, R443 to R446, R649) -/

/-- Fields of a request descriptor. -/
structure ReqDesc where
  tag : Nat
  model : Nat
  adapter : Nat
  handle : Nat
  flags : Nat
  maxNew : Nat
  deadline : Nat
  prompt : Nat
  promptLen : Nat
  out : Nat
  sample : Nat
  deriving DecidableEq, Repr

/-- A descriptor from its eight words. -/
def reqDescOf (w : List Nat) : ReqDesc :=
  let x (k : Nat) : Nat := w.getD k 0
  ⟨x 0, bits (x 1) 0 16, bits (x 1) 16 16, bits (x 1) 32 32, bits (x 2) 0 8, bits (x 2) 32 32, x 3, x 4, bits (x 5) 0 32, x 6, x 7⟩

/-- Whether a descriptor breaks R435: a field that must be zero, MAX_NEW out of range, no prompt and no
prefix, an unknown model, or a deadline without a correlation (R648). -/
def reqInvalid (s : State) (w : List Nat) (d : ReqDesc) : Bool :=
  bits d.flags 5 3 != 0 || bits (w.getD 2 0) 8 24 != 0 || bits (w.getD 5 0) 32 32 != 0
    || d.maxNew == 0 || decide (d.maxNew > 16777216) || (d.promptLen == 0 && d.handle == 0)
    || !has s.srv.models d.model || (d.deadline != 0 && !getB s fTimeCorrStatValid pgTime)

/-- The tick of a deadline (R649). -/
def deadlineTick (s : State) (d : Nat) : Nat := (toSigned64 d - toSigned64 (getF s fTimeCorrOffset pgTime)).toNat

/-- Status with which an indexed request ends at its acceptance, if it does. -/
def acceptEnd (s : State) (r : Req) : Option Nat :=
  if r.adapter ≠ 0 && r.gen == 0 then some 6
  else if r.handle ≠ 0 && !has s.srv.prefixes r.handle then some 4
  else if s.srv.prefixes.any (fun p => p.1 == r.handle
      && !(p.2.model == r.model && p.2.epoch == r.epoch && p.2.adapter == r.adapter && p.2.gen == r.gen)) then some 5
  else match r.deadline with
    | some d => if d ≤ s.tick then some 1 else none
    | none => none

/-- Current generation of an adapter, 0 for none. -/
def adapterCur (s : State) (h : Nat) : Nat :=
  if h = 0 then 0 else match s.srv.adapters.find? (fun a => a.1 = h) with | some a => a.2.cur | none => 0

/-- A request as it is accepted: it pins the model's current epoch and the adapter's current generation, and
starts from its prefix (R443 to R445). -/
def newReq (s : State) (fn ring seq idx : Nat) (d : ReqDesc) : Req :=
  let epoch := match s.srv.models.find? (fun m => m.1 = d.model) with | some m => m.2.epoch | none => 0
  let p := s.srv.prefixes.find? (fun x => x.1 = d.handle)
  let pages := match p with | some x => x.2.pages | none => []
  { idx := idx, fn := fn, ring := ring, seq := seq, tag := d.tag, model := d.model, adapter := d.adapter
    gen := adapterCur s d.adapter, epoch := epoch, handle := d.handle, prio := d.flags % 8
    stopLate := bitAt d.flags 3, keep := bitAt d.flags 4, maxNew := d.maxNew
    deadline := if d.deadline = 0 then none else some (deadlineTick s d.deadline)
    prompt := d.prompt, promptLen := d.promptLen, out := d.out, sample := d.sample
    st := if d.promptLen = 0 then .ready else .queued, kv := .resident, copied := false, fed := 0
    len := match p with | some x => x.2.tokens | none => 0
    made := 0, late := false, cancel := false, pages := pages, shared := pages, grps := [], entered := 0, slot := none
    give := 0, job := 0 }

/-- Table indices that are in use, those of a prepared step included. -/
def indicesUsed (s : State) : List Nat :=
  s.srv.reqs.map (·.idx) ++ s.srv.groups.flatMap (fun p => p.2.step.map (·.2.1))

/-- The next sequence number taken (R499). -/
def takeSeq (s : State) : Nat × State := (getF s fOwnSeqNextSeq pgOwn, bumpF s fOwnSeqNextSeq pgOwn)

/-- The handle of a request that is READY at its acceptance, kept to be returned with its first token (R445). DEDUCED: log
entry 108. -/
def handleHold (s : State) (r : Req) : State :=
  let k := keepPrefix s r
  putReq k.2 { (getReq k.2 r.idx).getD r with give := k.1 }

/-- A REQUEST entry processed (R435, R500): refused without an index, or accepted, possibly to end at
once. -/
def acceptRequest (s : State) (fn ring entry : Nat) (w : List Nat) : State :=
  let d := reqDescOf w
  if reqInvalid s w d then cqPush s (refusedRec fn ring d.tag 8)
  else if s.srv.reqs.length ≥ 65536 then cqPush s (refusedRec fn ring d.tag 9)
  else
    let q := takeSeq s
    let i := pickFree q.2 65536 (indicesUsed s)
    let r := newReq s fn ring q.1 i.1 d
    let s1 := cqPush i.2 ⟨fn, ring, q.1, d.tag, entry % 2 ^ 32 + 2 ^ 32 * i.1, 2 ^ 56 * ring, 0, 0⟩
    let s2 := { s1 with srv := { s1.srv with reqs := s1.srv.reqs ++ [r] } }
    match acceptEnd s r with
    | some c => endReq s2 r c
    | none => if r.st = .ready then handleHold s2 r else s2

end Sys2Proof.Machine
end

