-- ==== Sys2Proof/Machine/Host.lean ====
section
/-!
DEFINITION. The host interface (14): function pages, submission and completion rings, the device-memory
aperture, the PCIe ports, and host signals.
-/
namespace Sys2Proof.Machine

/-! ### Function pages (R491, R495, R615) -/

/-- Whether a function is enabled: a PF, or one of the virtual functions that its port enables. -/
def fnEnabled (s : State) (fn : Nat) : Bool := fn % 64 == 0 || decide (fn % 64 ≤ look s.ho.vfs (fn / 64) 0)

/-- Whether a function's accesses reach its page; in D3hot it answers configuration requests alone (R489). -/
def fnReach (s : State) (fn : Nat) : Bool :=
  linkUp s fn && fnEnabled s fn && (fn % 64 != 0 || s.ho.mse.contains (fn / 64)) && !s.ho.d3.contains fn

/-- A write of a function page by its function (R495, R610, R615). -/
def fnWrite (s : State) (fn off lsb : Nat) (eff : State) : State :=
  if !fnReach s fn then s
  else if stage s ≥ 6 then reject s (pgFn fn) .permission (fn / 64) off lsb
  else if stage s < 5 then reject s (pgFn fn) .busy (fn / 64) off lsb
  else eff

/-! ### Doorbells (R497) -/

/-- Entries of a submission ring. -/
def sqSize (s : State) (fn q : Nat) : Nat := 2 ^ getF s fFnSqCfgSizeLog2 (pgFn fn) q

/-- TAIL taken unless it runs too far ahead of HEAD. -/
def doorbellEffect (fn : Fin 128) (q : Fin 16) (tail : Nat) (s : State) : State :=
  if s.pkg.boot.pkgFault then s
  else if (2 ^ 32 + tail % 2 ^ 32 - getF s fFnSqHeadHead (pgFn fn) q) % 2 ^ 32 > sqSize s fn q then
    irqSrc (blkErr s (pgFn fn) 1) (pgFn fn) 1
  else setF s fFnDbTail (pgFn fn) tail q

/-- DOORBELL (R497). -/
def execDoorbell (fn : Fin 128) (q : Fin 16) (tail : Nat) (s : State) : Host.Outcome State Fault Refusal :=
  .next (clocked s (fnWrite s fn (0x1000 + 8 * q) 0 (doorbellEffect fn q tail s)))

/-! ### Submission entries (R498 to R501) -/

/-- A launch entry's fields. -/
structure LaunchEntry where
  ctx : Nat
  span : Nat
  cores : Nat
  kernel : Nat
  seedVal : Nat
  seedMask : Nat
  user : Nat
  /-- Version, reserved fields, kernel address and core mask as R498 asks. -/
  valid : Bool
  deriving DecidableEq, Repr

/-- A launch entry from its eight words (R498). -/
def launchEntryOf (w : List Nat) : LaunchEntry :=
  let x (k : Nat) : Nat := w.getD k 0
  ⟨bits (x 0) 12 12, bits (x 0) 24 3, bits (x 0) 27 16, x 1, bits (x 2) 0 16, bits (x 2) 16 16, x 3,
    bits (x 0) 0 8 == 1 && bits (x 0) 8 4 == 0 && bits (x 0) 43 21 == 0 && bits (x 2) 32 32 == 0
      && x 4 == 0 && x 5 == 0 && x 6 == 0 && x 7 == 0 && x 1 != 0 && x 1 % 64 == 0 && bits (x 0) 27 16 != 0⟩

/-- Whether the context of a launch entry is bound to the function and has the cores on the span. -/
def entryBoundTo (s : State) (fn : Nat) (e : LaunchEntry) : Bool :=
  (match getCtx s e.ctx with | some c => e.ctx != 0 && c.func == fn | none => false)
    && (match getRec s e.span e.ctx with
      | some r => (maskCores e.cores).all (fun c => bitAt r.coreMask (coreAliased s e.span c))
      | none => false)

/-- Code of the first check that a launch entry fails (R498); a retired core with an alias passes as the core that stands
for it (R540). -/
def launchRefusal (s : State) (fn : Nat) (e : LaunchEntry) : Option Nat :=
  if !e.valid then some eSubInvalid
  else if spanDown s e.span || (maskCores e.cores).any (fun c => !coreNamed s e.span c) then some eAbsentUnit
  else if !entryBoundTo s fn e then some eSubCtx
  else if lockedMode s && (maskCores e.cores).any (fun c => coreScheduled s e.span (coreAliased s e.span c)) then some eLockedCore
  else none

/-- SUBMISSION_ENTRY_READ comes about: the ring has an entry to read and the port is up. -/
def submissionEntryReadReady (fn : Fin 128) (q : Fin 16) (s : State) : Bool :=
  entryDue s fn q && linkUp s fn && fnEnabled s fn && !s.pkg.boot.pkgFault

/-- Eight words of 64 bits. -/
def entryWords (words : List Nat) : List Nat := (List.range 8).map (fun k => words.getD k 0 % 2 ^ 64)

/-- Host address of entry `i` of a submission ring (R496). -/
def sqEntryAddr (s : State) (fn q i : Nat) : Nat :=
  4096 * getF s fFnSqBaseBase (pgFn fn) q + 64 * (i % sqSize s fn q)

/-- The next entry, as the host wrote it at its address, read and checked; a refused launch entry halts the ring (R498, R500,
R501). -/
def submissionEntryReadEffect (fn : Fin 128) (q : Fin 16) (words : List Nat) (s : State) : State :=
  let w := entryWords words
  let addr := sqEntryAddr s fn q (getF s fFnSqHeadHead (pgFn fn) q)
  let s := hostSpoke { s with ho := { s.ho with subAddr := put s.ho.subAddr (fn.val, q.val) addr } }
  let held := { s with ho := { s.ho with subs := s.ho.subs ++ [((fn.val, q.val), w)] } }
  if getB s fFnSqCfgKind (pgFn fn) q then held
  else match launchRefusal s fn (launchEntryOf w) with
    | some c => entryRefused s fn q c (w.getD 3 0)
    | none => held

/-- SUBMISSION_ENTRY_READ (R498). -/
def execSubmissionEntryRead (fn : Fin 128) (q : Fin 16) (words : List Nat) (s : State) :
    Host.Outcome State Fault Refusal :=
  .next (clocked s (if submissionEntryReadReady fn q s then submissionEntryReadEffect fn q words s else s))

/-- Records that a completion ring holds unread. -/
def cqUsed (s : State) (fn q : Nat) : Nat :=
  (2 ^ 32 + getF s fFnSqStateCqTail (pgFn fn) q - getF s fFnCqHeadHead (pgFn fn) q) % 2 ^ 32

/-- Records that a completion ring has room for. -/
def cqSize (s : State) (fn q : Nat) : Nat := 2 ^ getF s fFnCqBaseSizeLog2 (pgFn fn) q

/-- Whether a completion ring is full (R502). -/
def cqIsFull (s : State) (fn q : Nat) : Bool := decide (cqSize s fn q ≤ cqUsed s fn q)

/-- The words of the entry that a ring has read and not yet accepted. -/
def entryHeld (s : State) (fn q : Nat) : Option (List Nat) :=
  (s.ho.subs.find? (fun p => p.1 = (fn, q))).map (·.2)

/-- ENTRY_ACCEPT comes about: an entry has been read, its completion ring is not full, its port has not failed,
and no takeover holds up the package's duties (R36, R499, R502, R506). -/
def entryAcceptReady (fn : Fin 128) (q : Fin 16) (s : State) : Bool :=
  (entryHeld s fn q).isSome && !cqIsFull s fn q && !portFailed s fn && s.pkg.boot.takeover.isNone

/-- A launch entry accepted as a work item: it takes the next sequence number, its launches are sent and its
ACCEPT record is queued (R499, R503). -/
def acceptLaunch (s : State) (fn q : Nat) (e : LaunchEntry) : State :=
  let sq := takeSeq s
  let src := LaunchSrc.host fn q sq.1
  let o := itemOpen sq.2 src e.user e.ctx
  let l := freshLaunch e.kernel e.seedVal e.seedMask src 0 0 0
  let s1 := (maskCores e.cores).foldl (fun acc c => sendLaunch acc o.1 e.span c e.ctx l) o.2
  cqPush s1 ⟨fn, q, sq.1, e.user, getF s fFnSqHeadHead (pgFn fn) q, 2 ^ 56 * q, e.ctx, 0⟩

/-- The entry accepted, or a request refused with its record; HEAD passes it (R499, R500). -/
def entryAcceptEffect (fn : Fin 128) (q : Fin 16) (s : State) : State :=
  match entryHeld s fn q with
  | none => s
  | some w =>
    let head := getF s fFnSqHeadHead (pgFn fn) q
    let s0 := { s with ho := { s.ho with subs := s.ho.subs.filter (fun p => p.1 ≠ (fn.val, q.val)) } }
    let s1 := if getB s fFnSqCfgKind (pgFn fn) q then acceptRequest s0 fn q head w
      else acceptLaunch s0 fn q (launchEntryOf w)
    setF s1 fFnSqHeadHead (pgFn fn) (head + 1) q

/-- ENTRY_ACCEPT (R499). -/
def execEntryAccept (fn : Fin 128) (q : Fin 16) (s : State) : Host.Outcome State Fault Refusal :=
  .next (clocked s (if entryAcceptReady fn q s then entryAcceptEffect fn q s else s))

/-! ### Completion rings (R502, R503) -/

/-- Bytes of a record with its PHASE bit. -/
def cqBytes (r : CqRec) (phase : Nat) : List Byte :=
  leBytes 8 r.w0 ++ leBytes 8 r.w1 ++ leBytes 8 r.w2 ++ leBytes 8 (r.w3 + 2 ^ 63 * phase)

/-- The oldest record that waits for a ring. -/
def cqNext (s : State) (fn q : Nat) : Option CqRec := s.ho.cq.find? (fun r => r.fn == fn && r.ring == q)

/-- A list without its first element that meets a test. -/
def dropFirst (p : CqRec → Bool) : List CqRec → List CqRec
  | [] => []
  | r :: l => if p r then l else r :: dropFirst p l

/-- CQ_RECORD_WRITE comes about: a record waits that is no mere reservation, the ring has room and the port is up. -/
def cqRecordWriteReady (fn : Fin 128) (q : Fin 16) (s : State) : Bool :=
  (match cqNext s fn q with | some r => r.item == 0 | none => false) && !cqIsFull s fn q && linkUp s fn

/-- The ring's state once a record has been written or HEAD has moved: full since now, or no longer full
(R502, R526). -/
def cqFullNote (s : State) (fn q : Nat) : State :=
  let st := getF s fFnSqStateState (pgFn fn) q
  if cqIsFull s fn q then
    let s1 := if has s.ho.cqFull (fn, q) then s else { s with ho := { s.ho with cqFull := put s.ho.cqFull (fn, q) s.tick } }
    if st = 1 then setF s1 fFnSqStateState (pgFn fn) 3 q else s1
  else
    let s1 := { s with ho := { s.ho with cqFull := del s.ho.cqFull (fn, q) } }
    if st = 3 then setF s1 fFnSqStateState (pgFn fn) 1 q else s1

/-- Record number TAIL written at its index with PHASE (R502); a message for the ring falls due (R643). -/
def cqRecordWriteEffect (fn : Fin 128) (q : Fin 16) (s : State) : State :=
  match cqNext s fn q with
  | none => s
  | some r =>
    let tail := getF s fFnSqStateCqTail (pgFn fn) q
    let size := cqSize s fn q
    let phase := 1 - tail / size % 2
    let s1 := hostPost s fn none (4096 * getF s fFnCqBaseBase (pgFn fn) q + 32 * (tail % size)) (cqBytes r phase)
    let s2 := setF s1 fFnSqStateCqTail (pgFn fn) (tail + 1) q
    let s3 := { s2 with ho := { s2.ho with cq := dropFirst (fun x => x.fn == fn.val && x.ring == q.val) s2.ho.cq } }
    let due := s3.pkg.irq.ringDue
    let s4 := putIrq s3 { s3.pkg.irq with ringDue := if due.contains (fn.val, q.val) then due else due ++ [(fn.val, q.val)] }
    cqFullNote s4 fn q

/-- CQ_RECORD_WRITE (R502). -/
def execCqRecordWrite (fn : Fin 128) (q : Fin 16) (s : State) : Host.Outcome State Fault Refusal :=
  .next (clocked s (if cqRecordWriteReady fn q s then cqRecordWriteEffect fn q s else s))

/-- CQ_STALL comes about: the ring has been full for 100 ms. -/
def cqStallReady (fn : Fin 128) (q : Fin 16) (s : State) : Bool :=
  has s.ho.cqFull (fn.val, q.val) && decide (100000000 + look s.ho.cqFull (fn.val, q.val) 0 ≤ s.tick)
    && !getB s fFnSqStateCqStall (pgFn fn) q

/-- CQ_STALL set and recorded (R502, R526). -/
def cqStallEffect (fn : Fin 128) (q : Fin 16) (s : State) : State :=
  irqSrc (blkErr (setB s fFnSqStateCqStall (pgFn fn) true q) (pgFn fn) 3) (pgFn fn) 3

/-- CQ_STALL (R502). -/
def execCqStall (fn : Fin 128) (q : Fin 16) (s : State) : Host.Outcome State Fault Refusal :=
  .next (clocked s (if cqStallReady fn q s then cqStallEffect fn q s else s))

/-- ENABLE written: the ring runs from HEAD, or stops after the entry in progress (R501, R526). -/
def sqEnableEffect (fn : Fin 128) (q : Fin 16) (on : Bool) (s : State) : State :=
  let pg := pgFn fn
  let s1 := setB s fFnSqCfgEnable pg on q
  if on then
    if getF s fFnSqStateState pg q = 0 then
      cqFullNote (setF (setF s1 fFnSqStateState pg 1 q) fFnSqStateCode pg 0 q) fn q
    else s1
  else setF s1 fFnSqStateState pg 0 q

/-- SQ_ENABLE (R501). -/
def execSqEnable (fn : Fin 128) (q : Fin 16) (on : Bool) (s : State) : Host.Outcome State Fault Refusal :=
  .next (clocked s (fnWrite s fn (0x108 + 0x40 * q) 0 (sqEnableEffect fn q on s)))

/-! ### The PCIe ports (R489, R490, R506, R512) -/

/-- Whether a port is present and enabled by strap (R598, R617). -/
def portFitted (s : State) (p : Nat) : Bool :=
  !s.pkg.boot.portsGone.contains p && (p == 0 || bitAt s.pkg.boot.straps 2)

/-- PCIE_PORT_FAIL comes about: a fatal error, or a link down or held in PERSTn_N for 100 ms (R490, R593). -/
def pciePortFailReady (p : Fin 2) (fatal : Bool) (s : State) : Bool :=
  portFitted s p && getF s fHifLinkState (pgHif p) != 3
    && (fatal || (has s.ho.linkDown p.val && decide (100000000 + look s.ho.linkDown p.val 0 ≤ s.tick)))

/-- A port's link no longer in use: its state, with no speed, width or flit mode. -/
def linkSet (s : State) (p st : Nat) : State :=
  setF (setF (setF (setF s fHifLinkState (pgHif p) st) fHifLinkSpeed (pgHif p) 0) fHifLinkWidth (pgHif p) 0)
    fHifLinkFlit (pgHif p) 0

/-- The port fails: HIF.LINK shows it, its rings stop and its host accesses no longer succeed (R490, R506). -/
def pciePortFailEffect (p : Fin 2) (s : State) : State :=
  let s1 := linkSet s p 3
  { s1 with ho := { s1.ho with linkDown := del s1.ho.linkDown p.val } }

/-- PCIE_PORT_FAIL (R506). -/
def execPciePortFail (p : Fin 2) (fatal : Bool) (s : State) : Host.Outcome State Fault Refusal :=
  .next (clocked s (if pciePortFailReady p fatal s then pciePortFailEffect p s else s))

/-- The link of a port goes down (R490). -/
def linkLost (s : State) (p : Nat) : State :=
  if getF s fHifLinkState (pgHif p) = 2 then
    let s1 := linkSet s p 0
    { s1 with ho := { s1.ho with linkDown := put s1.ho.linkDown p s1.tick } }
  else s

/-- PCIE_LINK_DOWN (R490). -/
def execPcieLinkDown (p : Fin 2) (s : State) : Host.Outcome State Fault Refusal := .next (clocked s (linkLost s p))

/-- PCIE_LINK_UP comes about: PERSTn_N is released, the port is fitted, and configuration space is served. -/
def pcieLinkUpReady (p : Fin 2) (s : State) : Bool :=
  portFitted s p && !s.pkg.boot.perst.contains p.val && decide (1 ≤ stage s)

/-- Items of contexts that the returned port still serves go on (R506). -/
def portItemsFree (s : State) (p : Nat) : State :=
  { s with ho := { s.ho with items := s.ho.items.map (fun it =>
      if it.held = 1 ∧ ctxFunc s it.ctx / 64 = p then { it with held := 0 } else it) } }

/-- The link up at a speed and width (R489, R525). -/
def pcieLinkUpEffect (p : Fin 2) (speed : Fin 6) (width : Fin 5) (flit : Bool) (s : State) : State :=
  let s1 := setF (setF s fHifLinkState (pgHif p) 2) fHifLinkSpeed (pgHif p) (speed + 1)
  let s2 := setB (setF s1 fHifLinkWidth (pgHif p) (2 ^ width.val)) fHifLinkFlit (pgHif p) flit
  let s3 := { s2 with ho := { s2.ho with linkDown := del s2.ho.linkDown p.val } }
  portItemsFree s3 p

/-- PCIE_LINK_UP (R506). -/
def execPcieLinkUp (p : Fin 2) (speed : Fin 6) (width : Fin 5) (flit : Bool) (s : State) :
    Host.Outcome State Fault Refusal :=
  .next (clocked s (if pcieLinkUpReady p s then pcieLinkUpEffect p speed width flit s else s))

/-- What a function's configuration space identifies it by (R492). -/
structure PciId where
  vendor : Nat
  device : Nat
  subVendor : Nat
  cls : Nat
  deriving DecidableEq, Repr

/-- The identifiers of a function: Ehrura's, the device ID of a PF or a VF of the grade, and the class of a processing
accelerator (R492). -/
def pciId (s : State) (fn : Nat) : PciId :=
  let dev := if fn % 64 = 0 then (if s.fuse.gradeS then 0x8096 else 0x8128) else (if s.fuse.gradeS then 0x8097 else 0x8129)
  ⟨Config.ehruraId.toNat, dev, Config.ehruraId.toNat, 0x120000⟩

/-- A write of a function's power state: 0 is D0 and 3 is D3hot, and no other state is supported (R489). -/
def powerStateWrite (fn st : Nat) (s : State) : State :=
  match st with
  | 0 => { s with ho := { s.ho with d3 := setDel s.ho.d3 fn } }
  | 3 => { s with ho := { s.ho with d3 := setIns s.ho.d3 fn } }
  | _ => s

/-- A configuration write: Memory Space Enable, the number of virtual functions, the size of the aperture, or the power
state of one function of the port, in bits 7:6 of the value beside the function's number (R410, R489, R491, R512). -/
def pcieConfigWriteEffect (p : Fin 2) (what : Fin 4) (v : Nat) (s : State) : State :=
  match what.val with
  | 0 => { s with ho := { s.ho with mse := if v = 0 then setDel s.ho.mse p.val else setIns s.ho.mse p.val } }
  | 1 =>
    let n := min v 63
    let old := look s.ho.vfs p.val 0
    let gone := (List.range 64).filter (fun f => decide (n < f) && decide (f ≤ old))
    gone.foldl (fun acc f => functionReset acc (64 * p.val + f)) { s with ho := { s.ho with vfs := put s.ho.vfs p.val n } }
  | 2 => if 30 ≤ v ∧ v ≤ 40 then { s with ho := { s.ho with aper := put s.ho.aper p.val v } } else s
  | _ => if fnEnabled s (64 * p + v % 64) then powerStateWrite (64 * p + v % 64) (v / 64 % 4) s else s

/-- PCIE_CONFIG_WRITE (R512). -/
def execPcieConfigWrite (p : Fin 2) (what : Fin 4) (v : Nat) (s : State) : Host.Outcome State Fault Refusal :=
  .next (clocked s (if linkUp s (64 * p.val) && decide (1 ≤ stage s) then pcieConfigWriteEffect p what v s else s))

/-! ### The device-memory aperture (R494, R525, R615) -/

/-- Whether an access of `n` bytes at an offset reaches a port's aperture. -/
def aperReach (s : State) (p x n : Nat) : Bool :=
  linkUp s (64 * p) && s.ho.mse.contains p && !s.ho.d3.contains (64 * p) && decide (0 < n) && decide (x + n ≤ 2 ^ look s.ho.aper p 36)

/-- Device address of an offset in a port's aperture. -/
def aperAddr (s : State) (p x : Nat) : Nat := 2 ^ 30 * getF s fHifAperBase (pgHif p) + x

/-- What a read through the aperture has met so far. -/
structure AperRd where
  bytes : List Byte
  poisoned : Bool
  stale : Bool
  deriving DecidableEq, Repr

/-- Bytes of a line whose poisoned columns' bytes are free (R494, R530). -/
def poisonData (s : State) (p : Nat) (data : List Byte) : List Byte × State :=
  if p = 0 then (data, s)
  else (data.zipIdx.map (fun b => if bitAt p (b.2 / 32) then Config.freeByte (s.free + b.2) else b.1),
    { s with free := s.free + 128 })

/-- Lines read in ascending order until one has a stale column; each is served at the point of coherence
(R320, R325, R494). -/
def aperLines (intlv : Bool) : Nat → State → Nat → Nat → AperRd × State
  | 0, s, _, _ => (⟨[], false, false⟩, s)
  | k + 1, s, da, n =>
    if n = 0 then (⟨[], false, false⟩, s)
    else
      let w := min n (128 - da % 128)
      let cell := cellOf s intlv (128 * (da / 128))
      let r := pocRead (pierAdd s cell false false true 0 4) (cell / 128)
      if r.1.unsealed then (⟨[], false, true⟩, r.2)
      else
        let off := da % 128
        let d := poisonData r.2 r.1.poison r.1.data
        let t := aperLines intlv k d.2 (da + w) (n - w)
        (⟨(d.1.drop off).take w ++ t.1.bytes, r.1.poison % 16 != 0 || t.1.poisoned, t.1.stale⟩, t.2)

/-- A completion kept as the port's last. -/
def aperDone (s : State) (p st : Nat) (b : List Byte) : State :=
  { s with ho := { s.ho with aperRes := put s.ho.aperRes p (st, b) } }

/-- A read through the aperture (R494): its completion, its events and its counters. -/
def apertureReadEffect (p : Fin 2) (x len : Nat) (s : State) : State :=
  let da := aperAddr s p x
  if stage s ≠ 5 then aperDone s p 2 []
  else if !daOk s (da + len - 1) then aperDone (bumpF s fHifUrCount (pgHif p)) p 3 []
  else
    let r := aperLines (getB s fHifAperIntlv (pgHif p)) (len / 128 + 2) s da len
    if r.1.stale then aperDone (bumpF r.2 fHifUnsealedReadsCount (pgHif p)) p 2 []
    else if r.1.poisoned then aperDone (bumpF r.2 fHifPoisonReadsCount (pgHif p)) p 1 r.1.bytes
    else aperDone r.2 p 0 r.1.bytes

/-- APERTURE_READ (R494). -/
def execApertureRead (p : Fin 2) (x : Nat) (len : Fin 4097) (s : State) : Host.Outcome State Fault Refusal :=
  .next (clocked s (if aperReach s p x len then apertureReadEffect p x len s else s))

/-- Bytes written through the aperture, a line at a time at the point of coherence (R320, R325, R494). -/
def aperStores (intlv : Bool) : Nat → State → Nat → List Byte → State
  | 0, s, _, _ => s
  | k + 1, s, da, b =>
    if b.isEmpty then s
    else
      let w := min b.length (128 - da % 128)
      let cell := cellOf s intlv (128 * (da / 128)) + da % 128
      aperStores intlv k (pocWrite (pierAdd s cell true false true 0 4) cell (b.take w)) (da + w) (b.drop w)

/-- A write through the aperture (R494, R513, R615). -/
def apertureWriteEffect (p : Fin 2) (x : Nat) (data : List Byte) (s : State) : State :=
  let da := aperAddr s p x
  if stage s ≠ 5 then bumpF s fHifDroppedWritesCount (pgHif p)
  else if getF s fOwnReinClaimHolder pgOwn ≠ p.val then
    reject (bumpF s fHifDroppedWritesCount (pgHif p)) (pgHif p) .notHolder p 0 0
  else if !daOk s (da + data.length - 1) then
    let s1 := bumpF s fHifUrCount (pgHif p)
    { s1 with ho := { s1.ho with aerUr := setIns s1.ho.aerUr p.val } }
  else aperStores (getB s fHifAperIntlv (pgHif p)) (data.length / 128 + 2) s da data

/-- APERTURE_WRITE (R494). -/
def execApertureWrite (p : Fin 2) (x : Nat) (data : List Byte) (s : State) : Host.Outcome State Fault Refusal :=
  .next (clocked s (if aperReach s p x data.length && decide (data.length ≤ 512) then apertureWriteEffect p x data s else s))

/-! ### Host signals (R333, R526) -/

/-- ADD sent to the tally that FN.TSIG_TGT names, of a context bound to the function. -/
def tsigAddEffect (fn : Fin 128) (add : Nat) (s : State) : State :=
  let pg := pgFn fn
  let ctx := getF s fFnTsigTgtCtx pg
  if ctx = 0 ∨ ctxFunc s ctx ≠ fn.val ∨ (getCtx s ctx).isNone then reject s pg .permission (fn / 64) 0x508 0
  else sendSignal (hostSpoke s) ⟨ctx, getF s fFnTsigTgtSpan pg, getF s fFnTsigTgtCore pg, getF s fFnTsigTgtTally pg, add % 2 ^ 48, 2, 1,
    0, 0, 0, 0, 0⟩

/-- TSIG_ADD (R526). -/
def execTsigAdd (fn : Fin 128) (add : Nat) (s : State) : Host.Outcome State Fault Refusal :=
  .next (clocked s (fnWrite s fn 0x508 0 (tsigAddEffect fn add s)))

end Sys2Proof.Machine
end

