-- ==== Sys2Proof/Machine/Own.lean ====
section
/-!
DEFINITION. The reins (14): which masters are eligible, claims, handovers, releases and heartbeats.
-/
namespace Sys2Proof.Machine

/-- A step of the ownership logic. While the other clocks are gated only the management controller reaches it
(R569, R590). -/
def islanded (s : State) (m : Nat) (t : State) : State :=
  if islandRuns s && (!s.pkg.boot.gated || m == 2) then t else s

/-- Whether a master is eligible to claim or to accept (R512). -/
def eligible (s : State) (m : Nat) : Bool :=
  match m with
  | 0 => linkUp s 0 && s.ho.mse.contains 0
  | 1 => linkUp s 64 && s.ho.mse.contains 1
  | 2 => s.ho.i3cAddr
  | 3 => s.pkg.boot.life == 0 || s.pkg.boot.life == 3
  | _ => false

/-- Master that holds the reins, 7 for none. -/
def holder (s : State) : Nat := getF s fOwnReinClaimHolder pgOwn

/-- Whether a handover waits for acceptance. -/
def handPending (s : State) : Bool := getB s fOwnHandoverPending pgOwn

/-- A heartbeat recorded (R514). -/
def beat (s : State) : State := setF s fOwnHeartbeatLast pgOwn s.tick

/-- A change of holder: no handover is pending any longer, EPOCH counts it and the masters are told (R514). -/
def reinsTo (s : State) (m : Nat) : State :=
  let s1 := setB (bumpF (setF s fOwnReinClaimHolder pgOwn m) fOwnReinClaimEpoch pgOwn) fOwnHandoverPending pgOwn false
  ownEvent s1 1

/-- A write of the OWN page that only the holder may make (R524). -/
def holderWrite (s : State) (m off : Nat) (eff : State) : State :=
  if stage s ≥ 6 then reject s pgOwn .permission m off 0
  else if m ≥ 4 ∨ holder s ≠ m then reject s pgOwn .notHolder m off 0
  else eff

/-- A claim of the reins (R512, R514, R515). -/
def reinClaimEffect (m : Nat) (s : State) : State :=
  if stage s ≥ 6 ∨ !eligible s m then reject s pgOwn .permission m 0x100 0
  else if holder s ≠ 7 then reject s pgOwn .held m 0x100 0
  else beat (reinsTo s m)

/-- REIN_CLAIM (R514). -/
def execReinClaim (m : Nat) (s : State) : Host.Outcome State Fault Refusal := .next (islanded s m (reinClaimEffect m s))

/-- Whether the window of the pending handover has ended (R514). -/
def handoverLate (s : State) : Bool := handPending s && decide (100000000 + s.ho.handoverAt < s.tick)

/-- The handover lapses: the holder keeps the reins (R514). -/
def handoverLapseEffect (s : State) : State := ownEvent (setB s fOwnHandoverPending pgOwn false) 2

/-- An acceptance of the pending handover (R512, R514, R515). -/
def reinAcceptEffect (m : Nat) (s : State) : State :=
  if stage s ≥ 6 ∨ !eligible s m then reject s pgOwn .permission m 0x100 1
  else if handoverLate s then reject (handoverLapseEffect s) pgOwn .held m 0x100 1
  else if s.ho.cancelAt = some (s.tick, m) ∧ !handPending s then reject s pgOwn .range m 0x100 1
  else if !handPending s ∨ getF s fOwnHandoverTarget pgOwn ≠ m then reject s pgOwn .held m 0x100 1
  else beat (reinsTo s m)

/-- REIN_ACCEPT (R514). -/
def execReinAccept (m : Nat) (s : State) : Host.Outcome State Fault Refusal := .next (islanded s m (reinAcceptEffect m s))

/-- REIN_RELEASE (R514). -/
def execReinRelease (m : Nat) (s : State) : Host.Outcome State Fault Refusal :=
  .next (islanded s m (holderWrite s m 0x100 (reinsTo (beat s) 7)))

/-- A handover cancelled by its holder (R514). -/
def handoverCancelEffect (s : State) : State :=
  let s1 := if handPending s then
      { s with ho := { s.ho with cancelAt := some (s.tick, getF s fOwnHandoverTarget pgOwn) } } else s
  beat (setF (setB s1 fOwnHandoverPending pgOwn false) fOwnHandoverTarget pgOwn 7)

/-- A handover started towards an eligible master other than the holder (R514, R524). -/
def handoverStartEffect (m target : Nat) (s : State) : State :=
  if target = 7 then handoverCancelEffect s
  else if target = m ∨ !eligible s target then reject s pgOwn .range m 0x108 16
  else
    let s1 := setB (setF s fOwnHandoverTarget pgOwn target) fOwnHandoverPending pgOwn true
    ownEvent (beat { s1 with ho := { s1.ho with handoverAt := s.tick } }) 3

/-- HANDOVER_START (R514). -/
def execHandoverStart (m : Nat) (target : Fin 8) (s : State) : Host.Outcome State Fault Refusal :=
  .next (islanded s m (holderWrite s m 0x108 (handoverStartEffect m target s)))

/-- HANDOVER_CANCEL (R514). -/
def execHandoverCancel (m : Nat) (s : State) : Host.Outcome State Fault Refusal :=
  .next (islanded s m (holderWrite s m 0x108 (handoverCancelEffect s)))

/-- HANDOVER_LAPSE comes about: 100 ms have passed without an acceptance, which still takes effect in the last of their
ticks (R515). -/
def handoverLapseReady (s : State) : Bool := handoverLate s

/-- HANDOVER_LAPSE (R514). -/
def execHandoverLapse (s : State) : Host.Outcome State Fault Refusal :=
  .next (islanded s 2 (if handoverLapseReady s then handoverLapseEffect s else s))

/-- HEARTBEAT (R514). -/
def execHeartbeat (m : Nat) (s : State) : Host.Outcome State Fault Refusal :=
  .next (islanded s m (holderWrite s m 0x110 (beat s)))

/-- HEARTBEAT_LAPSE comes about: the holder has sent no heartbeat for 500 ms; an acceptance in the last of their ticks
still takes effect (R515). -/
def heartbeatLapseReady (s : State) : Bool :=
  holder s != 7 && decide (500000000 < (2 ^ 63 + s.tick - getF s fOwnHeartbeatLast pgOwn) % 2 ^ 63)

/-- HEARTBEAT_LAPSE (R514). -/
def execHeartbeatLapse (s : State) : Host.Outcome State Fault Refusal :=
  .next (islanded s 2 (if heartbeatLapseReady s then reinsTo s 7 else s))

/-- I3C_DYNAMIC_ADDRESS (R600): the controller assigns the package's dynamic address, or resets it. -/
def execI3cDynamicAddress (on : Bool) (s : State) : Host.Outcome State Fault Refusal :=
  .next (if s.pkg.boot.vmgmt then { s with ho := { s.ho with i3cAddr := on } } else s)

end Sys2Proof.Machine
end

