-- ==== Sys2Proof/Machine/Mailbox.lean ====
section
/-!
DEFINITION. The mailbox (14, R507 to R511, R656): Fenivar takes the submitted slots one at a time, in the order
of their GO writes.
-/
namespace Sys2Proof.Machine

/-! ### Slots (R507 to R511) -/

/-- Word `w` of the command that a slot's registers hold. -/
def mbReg (s : State) (fn k w : Nat) : Nat := getF s fFnMbCmdData (pgFn fn) (8 * k + w)

/-- Word `w` of the command of a slot: of the oldest one that has answered PROGRESS, or what the slot's registers hold. -/
def mbWord (s : State) (fn k w : Nat) : Nat :=
  match s.ho.late with
  | l :: _ => if l.fn = fn ∧ l.k = k then l.words.getD w 0 else mbReg s fn k w
  | [] => mbReg s fn k w

/-- A slot's new state and status; the function's mailbox interrupt rises (R508). -/
def mbSet (s : State) (fn k st status : Nat) : State :=
  irqSrc (setF (setF s fFnMbStateState (pgFn fn) st k) fFnMbStateStatus (pgFn fn) status k) (pgFn fn) 4

/-- The result words of a slot. -/
def mbResult (s : State) (fn k : Nat) (rsp : List Nat) : State :=
  (List.range 8).foldl (fun acc w => setF acc fFnMbRspData (pgFn fn) (rsp.getD w 0) (8 * k + w)) s

/-- How a command ends: refused before it is acknowledged, or done with a status and result words (R510). -/
inductive MbEnd where
  | refused (status : Nat)
  | done (status : Nat) (rsp : List Nat)
  deriving DecidableEq, Repr

/-- Status INVALID (R510). -/
def mInvalid : Nat := 1
/-- Status NOT_PERMITTED. -/
def mNotPermitted : Nat := 2
/-- Status CTX_INVALID. -/
def mCtxInvalid : Nat := 3
/-- Status NO_RESOURCE. -/
def mNoResource : Nat := 4
/-- Status NOT_FOUND. -/
def mNotFound : Nat := 5
/-- Status UNKNOWN_TOKEN. -/
def mUnknownToken : Nat := 6
/-- Status ABORTED. -/
def mAborted : Nat := 7
/-- Status ABSENT_UNIT. -/
def mAbsentUnit : Nat := 8

/-- Bits that the arguments of an opcode use, words 1 to 7; none for an opcode that is no command (R509). -/
def mbArgs (op : Nat) : Option (List Nat) :=
  let all := 2 ^ 64 - 1
  match op with
  | 0x01 => some [all, all, all, all, 0, 0, 0]
  | 0x02 => some [0xFFF, 0, 0, 0, 0, 0, 0]
  | 0x03 => some [0xFFFF7FFF, all, 0, 0, 0, 0, 0]
  | 0x04 => some [0x7FFFF, 0xF7F, 0, 0, 0, 0, 0]
  | 0x05 => some [0xFFF003, all, all, 0, 0, 0, 0]
  | 0x06 => some [all, all, all, 0, 0, 0, 0]
  | 0x07 => some [0xFFF, 0, 0, 0, 0, 0, 0]
  | 0x08 => some [all, all, 0x7F, 0, 0, 0, 0]
  | 0x10 => some [0xFFFF, all, all, all, 0, 0, 0]
  | 0x11 => some [0x1FFFFFF1FFF, 0x1FFFF, all, 0, 0, 0, 0]
  | 0x12 => some [all, 0, 0, 0, 0, 0, 0]
  | 0x13 => some [0xFFFF0003, all, 0, 0, 0, 0, 0]
  | 0x14 => some [0xFFFFFFFF, 0, 0, 0, 0, 0, 0]
  | 0x15 => some [0xFFFF, all, 0, 0, 0, 0, 0]
  | 0x1E => some [0, 0, 0, 0, 0, 0, 0]
  | 0x1F => some [0xFFFFFFFF, 0, 0, 0, 0, 0, 0]
  | _ => none

/-- Opcode in a slot. -/
def mbOp (s : State) (fn k : Nat) : Nat := mbWord s fn k 0 % 256

/-- Whether a slot holds a command: a known opcode with no reserved argument set. -/
def mbWellFormed (s : State) (fn k : Nat) : Bool :=
  match mbArgs (mbOp s fn k) with
  | none => false
  | some masks =>
    mbWord s fn k 0 / 256 == 0
      && (List.range 7).all (fun w =>
          let x := mbWord s fn k (w + 1)
          x &&& masks.getD w 0 == x)
      && (mbOp s fn k != 0x13 || mbWord s fn k 1 % 4 != 3)

/-- Whether a slot's command has been acknowledged (R508). -/
def mbAcked (s : State) (fn k : Nat) : Bool := getF s fFnMbStateState (pgFn fn) k == 2

/-- A command turned away: REFUSED, or DONE with the failing status and no result once it has been acknowledged
(R510). -/
def mbRefuse (s : State) (fn k status : Nat) : State :=
  if mbAcked s fn k then mbResult (mbSet s fn k 3 status) fn k [] else mbSet s fn k 5 status

/-- The command that is processed next: the oldest that has answered PROGRESS, or the oldest submitted slot (R507). -/
def mbFront (s : State) : Option (Nat × Nat) :=
  match s.ho.late with
  | l :: _ => some (l.fn, l.k)
  | [] => s.ho.mb.head?

/-- The final state of a command that has answered PROGRESS: its token's result, available from now on (R510, R511). -/
def lateEnd (l : MbLate) (st : Nat) (rsp : List Nat) (s : State) : State :=
  { s with ho := { s.ho with
      late := s.ho.late.drop 1
      tokens := s.ho.tokens.map (fun t =>
        if t.token = l.token ∧ t.fn = l.fn then { t with result := some (st, rsp), at_ := s.tick } else t) } }

/-- The end of the command that is processed next: shown in its slot, or kept for its token (R508, R510, R511). -/
def mbEnd (fn k : Nat) (e : MbEnd) (s : State) : State :=
  match s.ho.late with
  | l :: _ => match e with
    | .refused st => lateEnd l st [] s
    | .done st rsp => lateEnd l st rsp s
  | [] =>
    let s1 := { s with ho := { s.ho with mb := s.ho.mb.drop 1 } }
    match e with
    | .refused st => mbRefuse s1 fn k st
    | .done st rsp => mbResult (mbSet s1 fn k 3 st) fn k rsp

/-- Commands at the front that are none are refused (R507, R509). -/
def mbSweep : Nat → State → State
  | 0, s => s
  | n + 1, s => match mbFront s with
    | none => s
    | some x => if mbWellFormed s x.1 x.2 then s else mbSweep n (mbEnd x.1 x.2 (.refused mInvalid) s)

/-- Every command at the front that is none refused. -/
def mbClear (s : State) : State := mbSweep (s.ho.late.length + s.ho.mb.length) s

/-- A command answers PROGRESS with a fresh token: its slot is free, and it goes on (R508, R511). -/
def mbProgress (fn k : Nat) (s : State) : State :=
  let t := s.ho.nextToken % 2 ^ 32
  let s1 := { s with ho := { s.ho with
      mb := s.ho.mb.filter (· ≠ (fn, k))
      late := s.ho.late ++ [⟨fn, k, t, (List.range 8).map (mbReg s fn k)⟩]
      tokens := s.ho.tokens ++ [⟨t, fn, none, s.tick⟩]
      nextToken := t + 1 } }
  setF (mbSet s1 fn k 4 0) fFnMbStateToken (pgFn fn) t k

/-- A POLL answers PROGRESS with the token that it names (R511). -/
def pollProgress (fn k : Nat) (s : State) : State :=
  let s1 := { s with ho := { s.ho with mb := s.ho.mb.filter (· ≠ (fn, k)) } }
  setF (mbSet s1 fn k 4 0) fFnMbStateToken (pgFn fn) (mbReg s fn k 1) k

/-- What the passing of time does to a submitted slot: ACKED 1 ms after its GO write, and PROGRESS 10 ms after it, where
neither an end nor a token has come before (R508). -/
def mbTimeSlot (s : State) (x : Nat × Nat) : State :=
  let at_ := look s.ho.mbAt x 0
  let s1 := if getF s fFnMbStateState (pgFn x.1) x.2 = 1 ∧ 1000000 + at_ ≤ s.tick then mbSet s x.1 x.2 2 0 else s
  if 10000000 + at_ ≤ s.tick then
    if mbReg s x.1 x.2 0 % 256 = 0x1F then pollProgress x.1 x.2 s1 else mbProgress x.1 x.2 s1
  else s1

/-- Whether Fenivar serves the mailbox: the package is READY, with its duties neither lost nor being taken over
(R36, R37, R39, R614). -/
def mbServed (s : State) : Bool := stage s == 5 && s.pkg.boot.takeover.isNone && !s.pkg.boot.pkgFault

/-- The mailbox as time passes: the limits of R508 run while Fenivar serves it, and not during a takeover. -/
def mbTimes (s : State) : State := if running s && mbServed s then s.ho.mb.foldl mbTimeSlot s else s

/-- Whether a slot's command is the next to be processed and holds an opcode. -/
def mbNext (s : State) (fn k op : Nat) : Bool :=
  mbServed s && mbFront s == some (fn, k) && mbOp s fn k == op && mbWellFormed s fn k

/-- A command's end, and the next commands that are none refused. -/
def mbFinish (fn k : Nat) (e : MbEnd) (s : State) : State := mbClear (mbEnd fn k e s)

/-- A mailbox row: the command at the front, carried out and answered. With `slow` it answers PROGRESS and goes on; one
that has answered so already goes on too (R508, R511). -/
def mbRun (fn k op : Nat) (slow : Bool) (cmd : State → MbEnd × State) (s : State) : State :=
  if mbNext s fn k op then
    if slow then (if s.ho.late.isEmpty then mbClear (mbProgress fn k s) else s)
    else
      let r := cmd s
      mbFinish fn k r.1 r.2
  else s

/-- Whether a function is the PF of the port that holds the reins. -/
def holderPf (s : State) (fn : Nat) : Bool := fn % 64 == 0 && holder s == fn / 64

/-- A refusal of a command that only the holder's PF may issue; another PF is also recorded as not the holder
(R509, R513). -/
def notHolderPf (s : State) (fn k : Nat) : MbEnd × State :=
  (.refused mNotPermitted, if fn % 64 = 0 then reject s (pgFn fn) .notHolder (fn / 64) (0x888 + 0x100 * k) 16 else s)

/-! ### Contexts (R379, R506, R656) -/

/-- A context descriptor from its four words. -/
def ctxOfWords (w : List Nat) : Ctx :=
  let a := w.getD 0 0
  ⟨bits a 12 12, bits a 24 3, bits a 27 6, bitAt a 33, bits a 34 7, bitAt a 41, bits a 42 20, w.getD 1 0,
    bits (w.getD 2 0) 0 8, bits (w.getD 2 0) 8 8⟩

/-- Whether a creation request is refused as CTX_INVALID (R379). -/
def ctxRefused (s : State) (w : List Nat) (c : Ctx) : Bool :=
  bits (w.getD 0 0) 0 12 != 0 || bits (w.getD 0 0) 62 2 != 0 || bits (w.getD 2 0) 16 48 != 0 || w.getD 3 0 != 0
    || c.asid == 0 || c.part == 0 || (!c.pasidEn && c.pasid != 0) || c.spans == 0 || c.win == 0 || decide (128 < c.win)
    || !fnEnabled s c.func || c.ptRoot % (if c.va48 then 4096 else 524288) != 0 || !daOk s c.ptRoot
    || s.cx.ctxs.any (fun p => p.2.asid == c.asid && (p.2.ptRoot != c.ptRoot || p.2.va48 != c.va48))

/-- CTX_CREATE. -/
def ctxCreateCmd (fn k : Nat) (s : State) : MbEnd × State :=
  let w := [mbWord s fn k 1, mbWord s fn k 2, mbWord s fn k 3, mbWord s fn k 4]
  let c := ctxOfWords w
  if c.func ≠ fn ∧ !holderPf s fn then (.refused mNotPermitted, s)
  else if ctxRefused s w c then (.refused mCtxInvalid, s)
  else
    let used := (s.cx.ctxs.map (·.1)).filter (· ≠ 0)
    if used.length ≥ 4095 then (.refused mNoResource, s)
    else
      let i := pickFree s 4095 (used.map (· - 1))
      (.done 0 [i.1 + 1], regionsPlace { i.2 with cx := { i.2.cx with ctxs := put i.2.cx.ctxs (i.1 + 1) c } } (i.1 + 1) c)

/-- CTX_CREATE (R509). -/
def execCtxCreate (fn : Fin 128) (k : Fin 8) (slow : Bool) (s : State) : Host.Outcome State Fault Refusal :=
  .next (clocked s (mbRun fn k 0x01 slow (ctxCreateCmd fn k) s))

/-- A context that a command names: `Except` its refusal, its descriptor. -/
def mbCtx (s : State) (fn ctx : Nat) (pf : Bool) : Except Nat Ctx :=
  if ctx = 0 then .error mNotFound
  else match getCtx s ctx with
    | none => .error mNotFound
    | some c => if c.func = fn ∨ (pf ∧ holderPf s fn) then .ok c else .error mNotPermitted

/-- CTX_DESTROY. -/
def ctxDestroyCmd (fn k : Nat) (s : State) : MbEnd × State :=
  let ctx := mbWord s fn k 1
  match mbCtx s fn ctx true with
  | .error e => if e = mNotPermitted then notHolderPf s fn k else (.refused e, s)
  | .ok _ => (.done 0 [], destroyCtx s ctx)

/-- CTX_DESTROY (R509). -/
def execCtxDestroy (fn : Fin 128) (k : Fin 8) (slow : Bool) (s : State) : Host.Outcome State Fault Refusal :=
  .next (clocked s (mbRun fn k 0x02 slow (ctxDestroyCmd fn k) s))

/-- Room made in a full store (R382, R656). -/
def storeRoom (s : State) (span : Nat) : State :=
  if storeUsed s span < 512 then s
  else match oldestParked s span with | some c => recordSwapOutEffect (Fin.ofNat 8 span) c s | none => s

/-- CTX_PLACE (R656). -/
def ctxPlaceCmd (fn k : Nat) (s : State) : MbEnd × State :=
  let a := mbWord s fn k 1
  let ctx := bits a 0 12
  let span := bits a 12 3
  let mask := bits a 16 16
  let save := mbWord s fn k 2
  match mbCtx s fn ctx false with
  | .error e => (.refused e, s)
  | .ok c =>
    if !bitAt c.spans span || mask == 0 || save % 65536 != 0 || !daOk s save || (getRec s span ctx).isSome then
      (.refused mInvalid, s)
    else if spanDown s span || (maskCores mask).any (coreAbsent s span) then (.refused mAbsentUnit, s)
    else (.done 0 [], putRec (storeRoom s span) span ctx ⟨mask, save, 0, [], .store, (maskCores mask).map (·, s.tick), [], []⟩)

/-- CTX_PLACE (R656). -/
def execCtxPlace (fn : Fin 128) (k : Fin 8) (slow : Bool) (s : State) : Host.Outcome State Fault Refusal :=
  .next (clocked s (mbRun fn k 0x03 slow (ctxPlaceCmd fn k) s))

/-- Source of an item with its ring replaced. -/
def srcMoved (x : LaunchSrc) (fn ring : Nat) : LaunchSrc :=
  match x with | .host _ _ seq => .host fn ring seq | y => y

/-- A record that waits for a ring of a failed port moved to another ring. -/
def recMoved (r : CqRec) (fn ring : Nat) : CqRec :=
  { r with fn := fn, ring := ring, w3 := setBits r.w3 56 4 ring }

/-- The held items of a context released for replay; they and every other accepted item that the failed port brought
have their DONE records sent to the ring named (R504, R506). -/
def ctxRebound (s : State) (ctx old fn ring : Nat) : State :=
  let items := s.ho.items.map (fun it =>
    if it.ctx = ctx ∧ (it.held = 1 ∨ portFailed s old) then
      { it with held := if it.held = 1 then 0 else it.held, src := srcMoved it.src fn ring }
    else it)
  let cq := s.ho.cq.map (fun r =>
    if r.ctx = ctx ∧ r.fn = old ∧ bits r.w3 60 3 = 1 ∧ portFailed s old then recMoved r fn ring else r)
  { s with ho := { s.ho with items := items, cq := cq } }

/-- CTX_REBIND (R506). -/
def ctxRebindCmd (fn k : Nat) (s : State) : MbEnd × State :=
  let a := mbWord s fn k 1
  let ctx := bits a 0 12
  let func := bits a 12 7
  let dst := bits (mbWord s fn k 2) 0 7
  if !holderPf s fn then notHolderPf s fn k
  else match (if ctx = 0 then none else getCtx s ctx) with
    | none => (.refused mNotFound, s)
    | some c =>
      if func / 64 ≠ fn / 64 ∨ !fnEnabled s func ∨ !fnEnabled s dst then (.refused mInvalid, s)
      else
        let s1 := { s with cx := { s.cx with ctxs := put s.cx.ctxs ctx { c with func := func } } }
        (.done 0 [], ctxRebound (xinvDrop s1 ⟨1, c.asid, 0, 0⟩) ctx c.func dst (bits (mbWord s fn k 2) 8 4))

/-- CTX_REBIND (R506). -/
def execCtxRebind (fn : Fin 128) (k : Fin 8) (slow : Bool) (s : State) : Host.Outcome State Fault Refusal :=
  .next (clocked s (mbRun fn k 0x04 slow (ctxRebindCmd fn k) s))

/-! ### Translations and windows (R401, R463, R464) -/

/-- XLT_INVAL: a range or the whole of an ASID that a context of the issuer holds. -/
def xltInvalCmd (fn k : Nat) (s : State) : MbEnd × State :=
  let a := mbWord s fn k 1
  let kind := bits a 0 2
  let asid := bits a 12 12
  let va := mbWord s fn k 2
  if kind = 3 ∨ (kind = 0 ∧ va % 4096 ≠ 0) then (.refused mInvalid, s)
  else if kind = 2 ∨ !s.cx.ctxs.any (fun p => p.1 != 0 && p.2.func == fn && p.2.asid == asid) then
    (.refused mNotPermitted, s)
  else (.done 0 [], bumpF (xinvDrop s ⟨kind, asid, va, mbWord s fn k 3⟩) fXinvStatusDone pgXinv)

/-- What XLT_INVAL asks to be invalidated. -/
def xltInvalOp (s : State) (fn k : Nat) : XinvOp :=
  ⟨bits (mbWord s fn k 1) 0 2, bits (mbWord s fn k 1) 12 12, mbWord s fn k 2, mbWord s fn k 3⟩

/-- XLT_INVAL (R509): it waits for an invalidation that is running, and for the stitches that use a translation which it
drops (R401). -/
def execXltInval (fn : Fin 128) (k : Fin 8) (slow : Bool) (s : State) : Host.Outcome State Fault Refusal :=
  .next (clocked s (if s.cx.xinv.isSome || !stitchesClear s (xltInvalOp s fn k) (s.tick + 1) then s else mbRun fn k 0x05 slow (xltInvalCmd fn k) s))

/-- Cell of an entry of the window table. -/
def winEntryCell (s : State) (w : Nat) : Nat := cellOf s false (131072 * getF s fZwinBaseBase pgZwin + 32 * w)

/-- A window entry's words; zeros where they cannot be read. -/
def winStored (s : State) (w : Nat) : List Nat := ((winRead s w).1).getD [0, 0, 0, 0]

/-- A window entry written and the ports' copies of it dropped (R464). -/
def winEntryStore (s : State) (w : Nat) (e : List Nat) : State :=
  let b := leBytes 8 (e.getD 0 0) ++ leBytes 8 (e.getD 1 0) ++ leBytes 8 (e.getD 2 0) ++ leBytes 8 (e.getD 3 0)
  bumpF (winDrop (pocWrite s (winEntryCell s w) b) (some w)) fZwinStatusDone pgZwin

/-- WIN_OPEN: a free entry takes the words given, VALID. -/
def winOpenCmd (fn k : Nat) (s : State) : MbEnd × State :=
  let e := [mbWord s fn k 1 / 2 * 2 + 1, mbWord s fn k 2, mbWord s fn k 3, 0]
  match mbCtx s fn (winCtx e) false with
  | .error x => (.refused x, s)
  | .ok _ =>
    if !winValid s e then (.refused mInvalid, s)
    else
      let used := (List.range 4096).filter (fun w => bitAt (winWord (winStored s w) 0) 0)
      if used.length ≥ 4096 then (.refused mNoResource, s)
      else
        let i := pickFree s 4096 used
        (.done 0 [i.1], winEntryStore i.2 i.1 e)

/-- WIN_OPEN (R509): it waits for an invalidation that is running. -/
def execWinOpen (fn : Fin 128) (k : Fin 8) (slow : Bool) (s : State) : Host.Outcome State Fault Refusal :=
  .next (clocked s (if s.pkg.link.inval.isSome then s else mbRun fn k 0x06 slow (winOpenCmd fn k) s))

/-- WIN_CLOSE: an entry of a context of the issuer is no longer VALID. -/
def winCloseCmd (fn k : Nat) (s : State) : MbEnd × State :=
  let w := mbWord s fn k 1
  let e := winStored s w
  if !bitAt (winWord e 0) 0 then (.refused mNotFound, s)
  else match mbCtx s fn (winCtx e) false with
    | .error x => (.refused x, s)
    | .ok _ => (.done 0 [], winEntryStore s w (e.set 0 (winWord e 0 - 1)))

/-- WIN_CLOSE (R509). -/
def execWinClose (fn : Fin 128) (k : Fin 8) (slow : Bool) (s : State) : Host.Outcome State Fault Refusal :=
  .next (clocked s (if s.pkg.link.inval.isSome then s else mbRun fn k 0x07 slow (winCloseCmd fn k) s))

/-! ### Swap area and serving (R375, R438, R443 to R447) -/

/-- SWAP_AREA. -/
def swapAreaCmd (fn k : Nat) (s : State) : MbEnd × State :=
  let a := mbWord s fn k 1
  if !holderPf s fn then notHolderPf s fn k
  else if a % 4096 ≠ 0 ∨ !fnEnabled s (mbWord s fn k 3) then (.refused mInvalid, s)
  else (.done 0 [], { s with ho := { s.ho with swap := some (a, mbWord s fn k 2, mbWord s fn k 3) } })

/-- SWAP_AREA (R509). -/
def execSwapArea (fn : Fin 128) (k : Fin 8) (slow : Bool) (s : State) : Host.Outcome State Fault Refusal :=
  .next (clocked s (mbRun fn k 0x08 slow (swapAreaCmd fn k) s))

/-- A model of a handle. -/
def getModel (s : State) (m : Nat) : Option Model := (s.srv.models.find? (fun p => p.1 = m)).map (·.2)

/-- A model replaced or added. -/
def putModel (s : State) (m : Nat) (x : Model) : State := { s with srv := { s.srv with models := put s.srv.models m x } }

/-- MODEL_CFG: a new model starts at epoch 0; a known one keeps its epoch. -/
def modelCfgCmd (fn k : Nat) (s : State) : MbEnd × State :=
  if !holderPf s fn then notHolderPf s fn k
  else
    let m := mbWord s fn k 1
    let old := getModel s m
    let x : Model := ⟨mbWord s fn k 2, mbWord s fn k 3, mbWord s fn k 4,
      (old.map (·.epoch)).getD 0, (old.map (·.pubTick)).getD s.tick⟩
    (.done 0 [], putModel s m x)

/-- MODEL_CFG (R509). -/
def execModelCfg (fn : Fin 128) (k : Fin 8) (slow : Bool) (s : State) : Host.Outcome State Fault Refusal :=
  .next (clocked s (mbRun fn k 0x10 slow (modelCfgCmd fn k) s))

/-- Whether the fields of a group lie in their ranges (R438). -/
def groupFields (s : State) (g batch chunk area : Nat) (fill : Bool) : Bool :=
  g != 0 && decide (1 ≤ batch) && decide (batch ≤ 256) && (!fill || (decide (1 ≤ chunk) && decide (chunk ≤ 65536)))
    && area % 262144 == 0 && daOk s (area + 262143)

/-- GROUP_CFG (R438). -/
def groupCfgCmd (fn k : Nat) (s : State) : MbEnd × State :=
  if !holderPf s fn then notHolderPf s fn k
  else
    let a := mbWord s fn k 1
    let g := bits a 0 12
    let fill := bitAt a 12
    let model := bits a 16 16
    let area := mbWord s fn k 3
    if !groupFields s g (bits a 32 9) (mbWord s fn k 2) area fill then (.refused mInvalid, s)
    else match getModel s model with
      | none => (.refused mNotFound, s)
      | some m =>
        let old := (getGroup s g).filter (fun x => x.model == model && x.gen == !fill)
        let x : Group := old.getD ⟨!fill, model, 0, 0, 0, m.epoch, [], 0, [], [], false, false, 0⟩
        (.done 0 [], putGroup s g { x with batch := bits a 32 9, chunk := mbWord s fn k 2, area := area })

/-- GROUP_CFG (R438). -/
def execGroupCfg (fn : Fin 128) (k : Fin 8) (slow : Bool) (s : State) : Host.Outcome State Fault Refusal :=
  .next (clocked s (mbRun fn k 0x11 slow (groupCfgCmd fn k) s))

/-- EPOCH_PUBLISH: the model's next epoch becomes current (R443). -/
def epochPublishCmd (fn k : Nat) (s : State) : MbEnd × State :=
  if !holderPf s fn then notHolderPf s fn k
  else
    let a := mbWord s fn k 1
    match getModel s (bits a 0 16) with
    | none => (.refused mNotFound, s)
    | some m =>
      if bits a 16 48 ≠ m.epoch + 1 then (.refused mInvalid, s)
      else (.done 0 [], putModel s (bits a 0 16) { m with epoch := m.epoch + 1, pubTick := s.tick })

/-- EPOCH_PUBLISH (R443). -/
def execEpochPublish (fn : Fin 128) (k : Fin 8) (slow : Bool) (s : State) : Host.Outcome State Fault Refusal :=
  .next (clocked s (mbRun fn k 0x12 slow (epochPublishCmd fn k) s))

/-- An adapter of a handle. -/
def getAdapter (s : State) (h : Nat) : Adapter :=
  match s.srv.adapters.find? (fun p => p.1 = h) with | some p => p.2 | none => ⟨0, 0, []⟩

/-- An adapter replaced; generations that nothing holds any longer are freed (R444). -/
def putAdapter (s : State) (h : Nat) (a : Adapter) : State :=
  kvSweep (sweepAdapters { s with srv := { s.srv with adapters := put s.srv.adapters h a } })

/-- Handle of an ADAPTER command. -/
def adapterHandle (s : State) (fn k : Nat) : Nat := bits (mbWord s fn k 1) 16 16

/-- LOAD creates generation 1 of a handle with no generation left (R444). -/
def adapterLoadCmd (fn k : Nat) (s : State) : MbEnd × State :=
  let h := adapterHandle s fn k
  if !holderPf s fn then notHolderPf s fn k
  else if h = 0 ∨ !(getAdapter s h).gens.isEmpty then (.refused mInvalid, s)
  else (.done 0 [1], putAdapter s h ⟨1, 1, [(1, mbWord s fn k 2)]⟩)

/-- REPLACE creates the next generation and makes it current. -/
def adapterReplaceCmd (fn k : Nat) (s : State) : MbEnd × State :=
  let h := adapterHandle s fn k
  let a := getAdapter s h
  if !holderPf s fn then notHolderPf s fn k
  else if h = 0 then (.refused mInvalid, s)
  else if a.cur = 0 then (.refused mNotFound, s)
  else
    let g := (a.last + 1) % 2 ^ 32
    (.done 0 [g], putAdapter s h ⟨g, g, a.gens ++ [(g, mbWord s fn k 2)]⟩)

/-- DELETE leaves a handle without a current generation; the generation that the result names is not stated. -/
def adapterDeleteCmd (fn k : Nat) (s : State) : MbEnd × State :=
  let h := adapterHandle s fn k
  let a := getAdapter s h
  if !holderPf s fn then notHolderPf s fn k
  else if h = 0 then (.refused mInvalid, s)
  else if a.cur = 0 then (.refused mNotFound, s)
  else
    let f := freeWord s
    (.done 0 [f.1.toNat % 2 ^ 32], putAdapter f.2 h { a with cur := 0 })

/-- An ADAPTER row: its operation's command at the front. -/
def adapterRun (fn k kind : Nat) (slow : Bool) (cmd : State → MbEnd × State) (s : State) : State :=
  if mbWord s fn k 1 % 4 = kind then mbRun fn k 0x13 slow cmd s else s

/-- ADAPTER_LOAD (R444). -/
def execAdapterLoad (fn : Fin 128) (k : Fin 8) (slow : Bool) (s : State) : Host.Outcome State Fault Refusal :=
  .next (clocked s (adapterRun fn k 0 slow (adapterLoadCmd fn k) s))

/-- ADAPTER_REPLACE (R444). -/
def execAdapterReplace (fn : Fin 128) (k : Fin 8) (slow : Bool) (s : State) : Host.Outcome State Fault Refusal :=
  .next (clocked s (adapterRun fn k 1 slow (adapterReplaceCmd fn k) s))

/-- ADAPTER_DELETE (R444). -/
def execAdapterDelete (fn : Fin 128) (k : Fin 8) (slow : Bool) (s : State) : Host.Outcome State Fault Refusal :=
  .next (clocked s (adapterRun fn k 2 slow (adapterDeleteCmd fn k) s))

/-- PREFIX_RELEASE: a prefix goes once no sequence references it (R445). -/
def cachedReleaseCmd (fn k : Nat) (s : State) : MbEnd × State :=
  let h := mbWord s fn k 1
  match s.srv.prefixes.find? (fun p => p.1 = h) with
  | none => (.refused mNotFound, s)
  | some p =>
    if p.2.fn ≠ fn then (.refused mNotPermitted, s)
    else (.done 0 [], kvSweep (sweepPrefixes { s with srv := { s.srv with
        prefixes := s.srv.prefixes.map (fun x => if x.1 = h then (x.1, { x.2 with leaving := true }) else x) } }))

/-- PREFIX_RELEASE (R445). -/
def execCachedRelease (fn : Fin 128) (k : Fin 8) (slow : Bool) (s : State) : Host.Outcome State Fault Refusal :=
  .next (clocked s (mbRun fn k 0x14 slow (cachedReleaseCmd fn k) s))

/-- REQ_CANCEL: a queued request ends at once, another at its group's next preparation (R447). -/
def reqCancelCmd (fn k : Nat) (s : State) : MbEnd × State :=
  match getReq s (mbWord s fn k 1) with
  | none => (.refused mNotFound, s)
  | some r =>
    if r.fn ≠ fn then (.refused mNotPermitted, s)
    else if r.tag ≠ mbWord s fn k 2 then (.refused mNotFound, s)
    else if r.st = .queued then (.done 0 [], endReq s r 2)
    else (.done 0 [], putReq s { r with cancel := true })

/-- REQ_CANCEL (R447). -/
def execReqCancel (fn : Fin 128) (k : Fin 8) (slow : Bool) (s : State) : Host.Outcome State Fault Refusal :=
  .next (clocked s (mbRun fn k 0x15 slow (reqCancelCmd fn k) s))

/-! ### Version, tokens and resets (R410, R509 to R511) -/

/-- VERSION (R509): major 1, minor 0, lowest minor 0. -/
def execVersion (fn : Fin 128) (k : Fin 8) (s : State) : Host.Outcome State Fault Refusal :=
  .next (clocked s (mbRun fn k 0x1E false (fun t => (.done 0 [1], t)) s))

/-- POLL at the front: PROGRESS again while the result is not available or, with `slow`, not yet given; else the
command's final state, once (R511). -/
def pollEffect (fn k : Nat) (slow : Bool) (s : State) : State :=
  if !mbNext s fn k 0x1F then s
  else
    let t := mbWord s fn k 1
    match s.ho.tokens.find? (fun x => x.token == t && x.fn == fn) with
    | none => mbFinish fn k (.refused mUnknownToken) s
    | some x => match (if slow then none else x.result) with
      | none => mbClear (pollProgress fn k s)
      | some r =>
        mbFinish fn k (.done r.1 r.2)
          { s with ho := { s.ho with tokens := s.ho.tokens.filter (fun y => !(y.token == t && y.fn == fn)) } }

/-- POLL (R511). -/
def execPoll (fn : Fin 128) (k : Fin 8) (slow : Bool) (s : State) : Host.Outcome State Fault Refusal :=
  .next (clocked s (pollEffect fn k slow s))

/-- Whether a token's result has been available for 60 s (R511). -/
def tokenOld (s : State) (t : Token) : Bool := t.result.isSome && decide (60000000000 + t.at_ ≤ s.tick)

/-- TOKEN_EXPIRY (R511). -/
def execTokenExpiry (s : State) : Host.Outcome State Fault Refusal :=
  .next (clocked s { s with ho := { s.ho with tokens := s.ho.tokens.filter (fun t => !tokenOld s t) } })

/-- A slot of a function that was reset: a submitted or acknowledged command ends with ABORTED (R510, R511). -/
def slotAborted (fn : Nat) (s : State) (k : Nat) : State :=
  match getF s fFnMbStateState (pgFn fn) k with
  | 1 => mbRefuse s fn k mAborted
  | 2 => mbRefuse s fn k mAborted
  | _ => s

/-- A function's contexts, translations, commands and tokens end (R410, R511). -/
def functionLevelResetEffect (fn : Nat) (s : State) : State :=
  let asids := (fnCtxs s fn).map (ctxAsid s)
  let s1 := asids.foldl (fun acc a => xinvDrop acc ⟨1, a, 0, 0⟩) (functionReset s fn)
  let s2 := (List.range 8).foldl (slotAborted fn) s1
  let tokens := s2.ho.tokens.map (fun t => if t.fn = fn then { t with result := some (mAborted, []), at_ := s.tick } else t)
  { s2 with ho := { s2.ho with
      mb := s2.ho.mb.filter (fun p => p.1 ≠ fn), late := s2.ho.late.filter (fun l => l.fn ≠ fn), tokens := tokens } }

/-- FUNCTION_LEVEL_RESET (R410). -/
def execFunctionLevelReset (fn : Fin 128) (s : State) : Host.Outcome State Fault Refusal :=
  .next (clocked s (if linkUp s fn && fnEnabled s fn then functionLevelResetEffect fn s else s))

end Sys2Proof.Machine
end

