-- ==== Sys2Proof/Machine/Power.lean ====
section
/-!
DEFINITION. Power and thermal control (16): sensors, alarms and protections, droops, the limiters, the rack
budget, the allocator and throttle reasons.
-/
namespace Sys2Proof.Machine

/-! ### Sensors (R564 to R569) -/

/-- A sensor that has not been read. -/
def newSensor : Sensor := ⟨none, 0, false, []⟩

/-- A sensor by number. -/
def getSensor (s : State) (n : Nat) : Sensor := look s.pkg.power.sensors n newSensor

/-- A sensor replaced. -/
def putSensor (s : State) (n : Nat) (x : Sensor) : State :=
  putPower s { s.pkg.power with sensors := put s.pkg.power.sensors n x }

/-- Class of a sensor: 0 TILE, 1 DRAM, 2 BASE (R564). -/
def sensorClass (n : Nat) : Nat := if n ≥ 96 then 2 else if n % 12 < 6 then 0 else 1

/-- Whether a reading is valid: within range, and within 10 degrees of the last valid one (R565). -/
def readingValid (x : Sensor) (r : Int) : Bool :=
  decide (-320 ≤ r) && decide (r ≤ 1200)
    && (match x.last with | some l => decide ((r - l).natAbs ≤ 80) | none => true)

/-- An alarm bit set; its source rises when the bit does (R567, R585). -/
def thermAlarm (s : State) (bit : Nat) : State :=
  let f : RField := ⟨.thermAlarm, bit, 1, .w1c, 0⟩
  if getB s f pgTherm then s else irqSrc (setB s f pgTherm true) pgTherm (bit + 1)

/-- Reading at which a class shuts the package down (R568). -/
def tripLevel (cls : Nat) : Int := if cls = 0 then 960 else if cls = 1 then 880 else 920

/-- A latched shutdown: clocks gated, THERMTRIP_N asserted and the cause recorded (R569). -/
def shutdown (s : State) (n : Nat) (r : Int) : State :=
  let s1 := setF (setF s fThermTripTick pgTherm s.tick) fThermTripTemp pgTherm (r % 65536).toNat
  let s2 := setF (setF s1 fThermTripSensor pgTherm n) fThermTripCause pgTherm (sensorClass n + 1)
  { s2 with pkg := { s2.pkg with boot := { s2.pkg.boot with gated := true, tripN := true } } }

/-- A sensor's reading at or above its trip level shuts the package down, once (R568, R569). -/
def tripSensor (s : State) (n : Nat) (r : Int) : State :=
  let x := getSensor s n
  if !x.failed && readingValid x r && decide (r ≥ tripLevel (sensorClass n)) && !s.pkg.boot.tripN then shutdown s n r else s

/-- A reading added to a history, which keeps the readings of the last 1,000,000 ticks and the one before them (R567). -/
def histAdd (now : Nat) (r : Int) (h : List (Nat × Int)) : List (Nat × Int) :=
  let new (x : Nat × Int) : Bool := decide (now < x.1 + 1000000)
  (now, r) :: (h.takeWhile new ++ (h.dropWhile new).take 1)

/-- The reading that stood 1,000,000 ticks before a tick (R567). -/
def histThen (now : Nat) (h : List (Nat × Int)) : Option Int :=
  (h.find? (fun x => decide (x.1 + 1000000 ≤ now))).map (·.2)

/-- One sensor sampled (R565, R568); a failed one sets SENSOR_FAIL again where it has been cleared (R567). -/
def sampleSensor (s : State) (n : Nat) (r : Int) : State :=
  let x := getSensor s n
  if x.failed then thermAlarm s 4
  else if readingValid x r then
    putSensor (tripSensor s n r) n { x with last := some r, discards := 0, hist := histAdd s.tick r x.hist }
  else if x.discards + 1 ≥ 3 then thermAlarm (putSensor s n { x with discards := x.discards + 1, failed := true }) 4
  else putSensor s n { x with discards := x.discards + 1 }

/-- Largest valid reading of some sensors. -/
def maxReading (s : State) (ns : List Nat) : Option Int :=
  (ns.filterMap (fun n => let x := getSensor s n; if x.failed then none else x.last)).foldl
    (fun (acc : Option Int) r => match acc with | some a => some (max a r) | none => some r) none

/-- TILE sensors of a span. -/
def tileSensors (span : Nat) : List Nat := (List.range 6).map (12 * span + ·)
/-- DRAM sensors of a span. -/
def dramSensors (span : Nat) : List Nat := (List.range 6).map (12 * span + 6 + ·)

/-- Whether a span's core clock is held for want of a TILE sensor: each has failed, or has been sampled with no valid
reading yet (R565, R566). -/
def tileBlind (s : State) (span : Nat) : Bool :=
  (tileSensors span).all (fun n =>
    let x := getSensor s n
    x.failed || (x.last.isNone && decide (x.discards > 0)))

/-- Two's complement of a temperature. -/
def tempBits (r : Int) : Nat := (r % 65536).toNat

/-- The maxima of a span formed (R566). -/
def spanMaxima (s : State) (span : Nat) : State :=
  let s1 := setF s fThermSpanTileMax pgTherm (tempBits ((maxReading s (tileSensors span)).getD 840)) span
  let s2 := setF s1 fThermSpanDramMax pgTherm (tempBits ((maxReading s (dramSensors span)).getD 848)) span
  match maxReading s [96 + span] with
  | some r => setF s2 fThermSpanBase pgTherm (tempBits r) span
  | none => s2

/-- DRAM_MAX of a span. -/
def dramMax (s : State) (span : Nat) : Int := temp16 (getF s fThermSpanDramMax pgTherm span)

/-- BASE of a span, where its sensor has a valid reading and has not failed. -/
def baseOf (s : State) (span : Nat) : Option Int := maxReading s [96 + span]

/-- Largest of a list of temperatures. -/
def tempTop (l : List Int) : Int := l.foldl max (l.headD 0)

/-- The package maxima formed, and the warnings that they cause (R566, R567). -/
def packageMaxima (s : State) : State :=
  let tile := tempTop ((List.range 8).map (tileMax s))
  let dram := tempTop ((List.range 8).map (dramMax s))
  let bases := (List.range 8).filterMap (baseOf s)
  let s1 := setF (setF s fThermPkgMaxTile pgTherm (tempBits tile)) fThermPkgMaxDram pgTherm (tempBits dram)
  let s2 := if bases.isEmpty then s1 else setF s1 fThermPkgMaxBase pgTherm (tempBits (tempTop bases))
  let s3 := if tile > temp16 (getF s2 fThermWarnTileW pgTherm) then thermAlarm s2 0 else s2
  let s4 := if dram > temp16 (getF s2 fThermWarnDramW pgTherm) then thermAlarm s3 1 else s3
  if !bases.isEmpty && decide (tempTop bases > temp16 (getF s2 fThermWarnBaseW pgTherm)) then thermAlarm s4 2 else s4

/-- Thermal ceiling of a span in MHz (R568). -/
def thermCeiling (s : State) (span : Nat) : Nat := look s.pkg.power.thermCeil span 2200

/-- Allocator frequency of a span. -/
def allocMhz (s : State) (span : Nat) : Nat := getF s fPwrActAllocMhz pgPwr span

/-- Core clock of a span by R576: the lowest of the allocator's, the software ceiling outside locked cadence, and
the thermal and cap ceilings, or 1,000 MHz where a span is held (R429, R566). -/
def coreMhz (s : State) (span : Nat) : Nat :=
  let top := if cadenceLocked s then allocMhz s span else min (allocMhz s span) (getF s fPwrSwfreqMaxMhz pgPwr span)
  let f := min top (min (thermCeiling s span) s.pkg.power.capCeil)
  if tileBlind s span then min f 1000 else f

/-- The clocks in force shown in PWR.ACT (R576, R584). -/
def clockNote (s : State) : State :=
  (schedSpans s).foldl (fun acc sp =>
    let a := setF acc fPwrActCeilMhz pgPwr (min (thermCeiling s sp) s.pkg.power.capCeil) sp
    setF (setF a fPwrActCoreMhz pgPwr (coreMhz s sp) sp) fThermSpanTileHot pgTherm (if thermCeiling s sp < 2200 then 1 else 0) sp) s

/-- Thermal clock ceiling of a span after a sample, and the time that it has been cool (R568). -/
def thermStep (s : State) (span : Nat) : State :=
  let p := s.pkg.power
  let t := tileMax s span
  let ceil := if t ≥ 840 then put p.thermCeil span (max 1000 (thermCeiling s span - 50)) else p.thermCeil
  let cool := if t < 824 then (if has p.coolAt span then p.coolAt else put p.coolAt span s.tick) else del p.coolAt span
  putPower s { p with thermCeil := ceil, coolAt := cool, acted := p.acted || decide (t ≥ 840) }

/-- Upper bound of a stack band in units of 0.125 degrees (R219). -/
def bandTop (b : Nat) : Int := if b = 0 then 680 else if b = 1 then 760 else 840

/-- Since when the readings of a span have been at least 2 degrees below each band's upper bound (R220). -/
def bandStep (s : State) (span : Nat) : State :=
  let low := [0, 1, 2].foldl (fun acc b =>
    if dramMax s span ≤ bandTop b - 16 then (if has acc (4 * span + b) then acc else put acc (4 * span + b) s.tick)
    else del acc (4 * span + b)) s.pkg.power.bandLow
  putPower s { s.pkg.power with bandLow := low }

/-! ### Throttle reasons (R583) -/

/-- Whether an element of a list of spans meets a test. -/
def anySpan (s : State) (p : Nat → Bool) : Bool := (schedSpans s).any p

/-- Largest duty whose mean power stays within LIMIT (R581). -/
def powerDuty (s : State) : Nat :=
  let w := fp32Val s.pkg.power.learned.work
  let i := fp32Val s.pkg.power.learned.idle
  let fits (d : Nat) : Bool :=
    numLe (numAdd (numMul (numOfInt d) w) (numMul (numOfInt (16 - d : Nat)) i)) (numOfInt (16 * limitW s : Nat))
  ((List.range 16).map (16 - ·)).find? fits |>.getD 1

/-- The condition shared by RACK_BUDGET and PACKAGE_CAP. -/
def capActs (s : State) : Bool :=
  anySpan s (fun sp => decide (s.pkg.power.capCeil < allocMhz s sp)) || s.pkg.power.limited
    || (cadenceLocked s && decide (powerDuty s < 16))

/-- Whether a stack is in band 3. -/
def bandHot (s : State) (span : Nat) : Bool := getF s fStkBandBand (pgStk span) == 3

/-- Whether a throttle reason is active. -/
def reasonActive (s : State) (r : Nat) : Bool :=
  match r with
  | 0 => anySpan s (fun sp => decide (thermCeiling s sp < allocMhz s sp) || bandHot s sp || tileBlind s sp)
      || decide (s.pkg.power.learned.dth < 16)
  | 1 => s.pkg.power.budget.isSome && capActs s
  | 2 => s.pkg.power.budget.isNone && capActs s
  | 3 => s.pkg.power.limiting
  | 4 => !s.pkg.power.droops.isEmpty
  | 5 => frameRunning s && getB s fFrameStatusIdle pgFrame
  | _ => !cadenceLocked s && anySpan s (fun sp => decide (coreMhz s sp < getF s fPwrSwfreqMinMhz pgPwr sp))

/-- The reasons active, each with 10,000 ticks added (R583, R584). -/
def reasonsNote (s : State) : State :=
  let old := getF s fPwrTrActiveActive pgPwr
  let on := (List.range 7).filter (reasonActive s)
  let s1 := on.foldl (fun acc r => bumpF acc fPwrTrTimeTicks pgPwr 10000 r) s
  let s2 := setF s1 fPwrTrActiveActive pgPwr (on.foldl (fun acc r => acc + 2 ^ r) 0)
  if on.contains 6 && !bitAt old 6 then irqSrc s2 pgPwr 2 else s2

/-- A sample of every sensor: readings, maxima, alarms, protections and throttle reasons (R565 to R568, R583). -/
def sensorSampleEffect (readings : List Int) (s : State) : State :=
  let s0 := putPower s { s.pkg.power with sensorAt := s.tick }
  let s1 := (List.range 104).foldl (fun acc n => sampleSensor acc n (readings.getD n 32767)) s0
  let s2 := packageMaxima ((List.range 8).foldl spanMaxima s1)
  let s3 := (List.range 8).foldl (fun acc sp => bandStep (thermStep acc sp) sp) s2
  reasonsNote (clockNote s3)

/-- SENSOR_SAMPLE comes about: 10,000 ticks have passed since the last (R565; DESIGN CHOICE, log entry 70: the rule
gives the period and no phase). -/
def sensorSampleReady (s : State) : Bool := decide (s.pkg.power.sensorAt + 10000 ≤ s.tick)

/-- A sample after a rail fault has gated the clocks: the management island still latches a trip, so that both lands
are asserted and both faults recorded (R569, R590, R594; DEDUCED, log entry 84). -/
def gatedSampleEffect (readings : List Int) (s : State) : State :=
  let s0 := putPower s { s.pkg.power with sensorAt := s.tick }
  (List.range 104).foldl (fun acc n => tripSensor acc n (readings.getD n 32767)) s0

/-- SENSOR_SAMPLE (R565, R594). -/
def execSensorSample (readings : List Int) (s : State) : Host.Outcome State Fault Refusal :=
  .next (if !sensorSampleReady s then s
    else if running s then sensorSampleEffect readings s
    else if islandRuns s && s.pkg.boot.gated then gatedSampleEffect readings s else s)

/-- One sensor compared with its reading 1,000,000 ticks earlier (R567). -/
def rateOf (s : State) (n : Nat) : State :=
  let x := getSensor s n
  if x.failed then s
  else
    let rise := match x.last, histThen s.tick x.hist with
      | some a, some b => decide (a - b > (getF s fThermRateRate pgTherm : Nat))
      | _, _ => false
    if rise then thermAlarm s 3 else s

/-- RATE_CHECK comes about: 100,000 ticks have passed since the last (R567, log entry 70). -/
def rateCheckReady (s : State) : Bool := decide (s.pkg.power.rateAt + 100000 ≤ s.tick)

/-- Every sensor compared with its reading 1,000,000 ticks earlier (R567). -/
def rateCheckEffect (s : State) : State :=
  (List.range 104).foldl rateOf (putPower s { s.pkg.power with rateAt := s.tick })

/-- RATE_CHECK (R567). -/
def execRateCheck (s : State) : Host.Outcome State Fault Refusal :=
  .next (clocked s (if rateCheckReady s then rateCheckEffect s else s))

/-- THERMAL_CEILING_RISE comes about: the span has stayed below 103.0 degrees for 1,000,000 ticks, and 100,000
ticks have passed since the last rise. -/
def thermalCeilingRiseReady (sp : Fin 8) (s : State) : Bool :=
  let p := s.pkg.power
  decide (thermCeiling s sp < 2200) && has p.coolAt sp.val && decide (1000000 + look p.coolAt sp.val 0 ≤ s.tick)
    && decide (tileMax s sp < 824) && (!has p.thermRise sp.val || decide (100000 + look p.thermRise sp.val 0 ≤ s.tick))

/-- One step up (R568). -/
def thermalCeilingRiseEffect (sp : Fin 8) (s : State) : State :=
  let p := s.pkg.power
  clockNote (putPower s { p with
    thermCeil := put p.thermCeil sp.val (min 2200 (thermCeiling s sp + 50)), thermRise := put p.thermRise sp.val s.tick })

/-- THERMAL_CEILING_RISE (R568). -/
def execThermalCeilingRise (sp : Fin 8) (s : State) : Host.Outcome State Fault Refusal :=
  .next (clocked s (if thermalCeilingRiseReady sp s then thermalCeilingRiseEffect sp s else s))

/-! ### Bands (R219, R220) -/

/-- Band of a temperature. -/
def bandOf (t : Int) : Nat := if t ≤ 680 then 0 else if t ≤ 760 then 1 else if t ≤ 840 then 2 else 3

/-- Whether the readings of the last millisecond have all been 2 degrees below a band's upper bound. -/
def bandCool (s : State) (span b : Nat) : Bool :=
  has s.pkg.power.bandLow (4 * span + b) && decide (1000000 + look s.pkg.power.bandLow (4 * span + b) 0 ≤ s.tick)

/-- Band that a stack's readings call for (R220). -/
def bandWanted (s : State) (span : Nat) : Nat :=
  let b := getF s fStkBandBand (pgStk span)
  let t := bandOf (dramMax s span)
  if t > b then t else ((List.range b).find? (bandCool s span)).getD b

/-- The band of a stack and of all its controllers changes; their timing follows at the next refresh (R220). -/
def bandChangeEffect (sp : Fin 8) (s : State) : State :=
  let b := bandWanted s sp
  let s1 := bumpSat (setF s fStkBandBand (pgStk sp) b) fStkBandChanges (pgStk sp)
  let s2 := setF s1 fThermSpanBand pgTherm b sp
  let s3 := putPower s2 { s2.pkg.power with acted := s2.pkg.power.acted || decide (b = 3) }
  (List.range (pcCount s)).foldl (fun acc p => putPcc acc (pcNo sp p) { getPcc acc (pcNo sp p) with bandNew := some b }) s3

/-- BAND_CHANGE (R220). -/
def execBandChange (sp : Fin 8) (s : State) : Host.Outcome State Fault Refusal :=
  .next (clocked s (if bandWanted s sp ≠ getF s fStkBandBand (pgStk sp) then bandChangeEffect sp s else s))

/-! ### Droops and the current limiter (R570, R571) -/

/-- DROOP_DETECT (R570): a core, span-fabric or pier supply is 4 % low. -/
def execDroopDetect (kind : Fin 3) (unit : Fin 128) (s : State) : Host.Outcome State Fault Refusal :=
  .next (clocked s (let p := s.pkg.power
    putPower s { p with
      droops := p.droops.filter (fun d => !(d.1 == kind.val && d.2.1 == unit.val)) ++ [(kind.val, unit.val, s.tick)]
      acted := true }))

/-- Ticks that a stretch or a hold lasts at least. -/
def droopTicks (kind : Nat) : Nat := if kind = 2 then 500 else 1000

/-- DROOP_RELEASE comes about: the stretch has lasted 1,000 ticks, or the hold 500. -/
def droopReleaseReady (kind : Fin 3) (unit : Fin 128) (s : State) : Bool :=
  s.pkg.power.droops.any (fun d => d.1 == kind.val && d.2.1 == unit.val && decide (d.2.2 + droopTicks kind ≤ s.tick))

/-- The stretch or the hold ends. -/
def droopReleaseEffect (kind : Fin 3) (unit : Fin 128) (s : State) : State :=
  let p := s.pkg.power
  putPower s { p with droops := p.droops.filter (fun d => !(d.1 == kind.val && d.2.1 == unit.val)) }

/-- DROOP_RELEASE (R570). -/
def execDroopRelease (kind : Fin 3) (unit : Fin 128) (s : State) : Host.Outcome State Fault Refusal :=
  .next (clocked s (if droopReleaseReady kind unit s then droopReleaseEffect kind unit s else s))

/-- Power of a sample. -/
def sampleW (x : Nat × Nat × Nat × Nat) : Nat := x.1 + x.2.1 + x.2.2.1 + x.2.2.2

/-- Sum over the last `n` samples of one of their parts, and how many there are. -/
def sampleSum (s : State) (n : Nat) (part : Nat × Nat × Nat × Nat → Nat) : Nat × Nat :=
  let l := s.pkg.power.samples.take n
  ((l.map part).sum, l.length)

/-- Whole watts of an average over the last `n` samples. -/
def sampleAvg (s : State) (n : Nat) (part : Nat × Nat × Nat × Nat → Nat) : Nat :=
  let x := sampleSum s n part
  min 4095 (x.1 / max 1 x.2)

/-- The averages shown in PWR.MEAS (R584). -/
def measNote (s : State) : State :=
  let a := setF s fPwrMeasPkgW pgPwr (sampleAvg s 100 sampleW)
  let b := setF a fPwrMeasFabricW pgPwr (sampleAvg s 10 (·.2.2.2))
  let c := setF b fPwrMeasPierW pgPwr (sampleAvg s 10 (·.2.2.1))
  setF (setF c fPwrMeasNbW pgPwr (sampleAvg s 10 (·.2.1))) fPwrMeasDenseW pgPwr (sampleAvg s 10 (·.1))

/-- Whether the 1 ms average is at most 0.98 of the cap limiter's LIMIT (R572). -/
def capRoom (s : State) : Bool :=
  let x := sampleSum s 100 sampleW
  decide (100 * x.1 ≤ 98 * capW s * x.2)

/-- A sample taken: the current limiter and the cap limiter act on it (R571, R572). -/
def powerSampleEffect (dense nb pier fabric : Nat) (s : State) : State :=
  let p := s.pkg.power
  let w := dense + nb + pier + fabric
  let lim := if w > 3600 then true else if w ≤ 3300 then false else p.limiting
  let s1 := measNote (putPower s { p with
    powerAt := s.tick, samples := ((dense, nb, pier, fabric) :: p.samples).take 100, limiting := lim
    frameSum := if frameRunning s then p.frameSum + w else p.frameSum
    frameN := if frameRunning s then p.frameN + 1 else p.frameN })
  let x := sampleSum s1 100 sampleW
  let step := decide (x.1 > capW s1 * x.2) && decide (w > capW s1)
  let q := s1.pkg.power
  let s2 := putPower s1 { q with
    capCeil := if step then max 1000 (q.capCeil - 50) else q.capCeil
    capAt := if step || !capRoom s1 then s.tick else q.capAt
    acted := q.acted || step || lim }
  clockNote s2

/-- POWER_SAMPLE comes about: 10,000 ticks have passed since the last (R571, log entry 70). -/
def powerSampleReady (s : State) : Bool := decide (s.pkg.power.powerAt + 10000 ≤ s.tick)

/-- POWER_SAMPLE (R571). -/
def execPowerSample (dense nb pier fabric : Nat) (s : State) : Host.Outcome State Fault Refusal :=
  .next (clocked s (if powerSampleReady s then powerSampleEffect dense nb pier fabric s else s))

/-- CAP_CEILING_RISE comes about: the average has left room for 100,000 ticks since the last change. -/
def capCeilingRiseReady (s : State) : Bool :=
  decide (s.pkg.power.capCeil < 2200) && capRoom s && decide (100000 + s.pkg.power.capAt ≤ s.tick)

/-- One step up (R572). -/
def capCeilingRiseEffect (s : State) : State :=
  clockNote (putPower s { s.pkg.power with capCeil := min 2200 (s.pkg.power.capCeil + 50), capAt := s.tick })

/-- CAP_CEILING_RISE (R572). -/
def execCapCeilingRise (s : State) : Host.Outcome State Fault Refusal :=
  .next (clocked s (if capCeilingRiseReady s then capCeilingRiseEffect s else s))

/-! ### The rack budget (R572 to R574) -/

/-- LIMIT and its source shown in PWR.LIMIT (R584). -/
def limitNote (s : State) : State :=
  let src := if s.pkg.power.budget.isNone then 0 else if s.pkg.power.fallback then 2 else 1
  setF (setF s fPwrLimitLimitW pgPwr (limitW s)) fPwrLimitSrc pgPwr src

/-- A budget in force: a decrease in locked cadence reaches the cap limiter 20,000,000 ticks later (R572). -/
def budgetTake (s : State) (w : Nat) (fallback : Bool) : State :=
  let p := s.pkg.power
  let old := limitW s
  let s1 := putPower s { p with budget := some w, fallback := fallback }
  let q := s1.pkg.power
  let s2 := if cadenceLocked s ∧ limitW s1 < old then putPower s1 { q with decs := q.decs ++ [(s.tick + 20000000, limitW s1)] }
    else putPower s1 { q with capLimit := limitW s1, decs := [] }
  limitNote s2

/-- BUDGET_DECREASE_APPLY comes about: the delay of the oldest decrease has passed. -/
def budgetDecreaseApplyReady (s : State) : Bool :=
  match s.pkg.power.decs with | d :: _ => decide (d.1 ≤ s.tick) | [] => false

/-- The decrease reaches the cap limiter (R572). -/
def budgetDecreaseApplyEffect (s : State) : State :=
  match s.pkg.power.decs with
  | d :: r => putPower s { s.pkg.power with capLimit := d.2, decs := r }
  | [] => s

/-- BUDGET_DECREASE_APPLY (R572). -/
def execBudgetDecreaseApply (s : State) : Host.Outcome State Fault Refusal :=
  .next (clocked s (if budgetDecreaseApplyReady s then budgetDecreaseApplyEffect s else s))

/-- An MCTP message received: an edge at source 17 of the package control core (R573, R632). -/
def mctpArrives (s : State) : State := privEdgeEvent s 8 17

/-- An answer to a PLDM request. -/
def pldmAnswer (s : State) (a : PldmAns) : State := putPower s { s.pkg.power with pldm := some a }

/-- A SetNumericEffecterValue request (R573, R574). -/
def setNumericEffecterValueEffect (id value : Nat) (s : State) : State :=
  if stage s ≠ 5 then pldmAnswer s .notReady
  else if id ≠ 1 then pldmAnswer s .invalidId
  else if value < 600 ∨ value > 3000 then pldmAnswer s .invalidData
  else
    let s1 := budgetTake s value false
    pldmAnswer (setF (putPower s1 { s1.pkg.power with budgetAt := s.tick }) fPwrLimitRackW pgPwr value) .ok

/-- SET_NUMERIC_EFFECTER_VALUE (R574): it arrives at the package's dynamic address. -/
def execSetNumericEffecterValue (id value : Nat) (s : State) : Host.Outcome State Fault Refusal :=
  .next (clocked s (if s.ho.i3cAddr then setNumericEffecterValueEffect id value (mctpArrives s) else s))

/-- Value of a PLDM sensor (R573). -/
def pldmSensor (s : State) (id : Nat) : PldmAns :=
  if id = 1 then .value (sampleAvg s 10 sampleW : Nat)
  else if id = 2 then .value (temp16 (getF s fThermPkgMaxTile pgTherm))
  else if id = 3 then .value (temp16 (getF s fThermPkgMaxDram pgTherm))
  else if id = 4 then .value (temp16 (getF s fThermPkgMaxBase pgTherm))
  else if 16 ≤ id ∧ id < 32 then .value (if id % 2 = 0 then tileMax s ((id - 16) / 2) else dramMax s ((id - 16) / 2))
  else if id = 40 then .value (getF s fPwrTrActiveActive pgPwr : Nat)
  else .invalidId

/-- PLDM_GET_SENSOR (R573). -/
def execPldmGetSensor (id : Nat) (s : State) : Host.Outcome State Fault Refusal :=
  .next (clocked s (if s.ho.i3cAddr
    then pldmAnswer (mctpArrives s) (if stage s = 5 then pldmSensor s id else .notReady) else s))

/-- BUDGET_TIMEOUT comes about: a budget has been accepted, and none for TIMEOUT_S seconds (R572, R574; DEDUCED, log
entry 72: while none has ever been accepted B stays 3,000 W). -/
def budgetTimeoutReady (s : State) : Bool :=
  let p := s.pkg.power
  let t := getF s fPwrBudgetToTimeoutS pgPwr
  t != 0 && p.budget.isSome && !p.fallback && decide (p.budgetAt + 1000000000 * t ≤ s.tick)

/-- The fallback budget applies (R574). -/
def budgetTimeoutEffect (s : State) : State := irqSrc (budgetTake s (getF s fPwrLimitFallbackW pgPwr) true) pgPwr 1

/-- BUDGET_TIMEOUT (R574). -/
def execBudgetTimeout (s : State) : Host.Outcome State Fault Refusal :=
  .next (clocked s (if budgetTimeoutReady s then budgetTimeoutEffect s else s))

/-! ### The allocator (R577 to R582) -/

/-- Ticks that two ranges have in common. -/
def overlapTicks (a n b m : Nat) : Nat := min (a + n) (b + m) - max a b

/-- Present cores of the package. -/
def presentCores (s : State) : Nat :=
  ((List.range 8).map (fun sp => ((List.range 16).filter (fun c => !coreAbsent s sp c)).length)).sum

/-- Cores that run a launch of a phase tag, a host launch counting as OTHER (R434, R577). -/
def tagCores (s : State) (tag : Nat) : Nat :=
  (((s.core.slots.filter (fun p => p.2.part.launches.any (fun l => l.tag == tag && l.started != 0))).map
    (fun p => p.1 / 4)).eraseDups).length

/-- The clocks of the present cores, summed (R578). -/
def coreClocks (s : State) : Nat :=
  ((List.range 8).map (fun sp => ((List.range 16).filter (fun c => !coreAbsent s sp c)).length * coreMhz s sp)).sum

/-- What one tick adds to the occupancies and the mean clock of the interval (R577, R578). DEDUCED: the means are over
ticks and present cores (log entry 6). -/
def occTick (s : State) : State :=
  let p := s.pkg.power
  putPower s { p with
    occSum := (List.range 4).map (fun t => p.occSum.getD t 0 + tagCores s t)
    coreSum := p.coreSum + presentCores s, mhzSum := p.mhzSum + coreClocks s }

/-- Occupancies of the interval that ends, as FP32 codes: mean fractions of the present cores (R577). -/
def occLast (p : PowerSt) : List Nat :=
  if p.coreSum = 0 then p.occ
  else (List.range 4).map (fun t => fp32Code (f32Div (numOfInt (p.occSum.getD t 0 : Nat)) (numOfInt (p.coreSum : Nat))))

/-- The mean core clock of the interval that ends, as an FP32 code (R578). -/
def clockMean (p : PowerSt) : Nat := fp32Code (f32Div (numOfInt (p.mhzSum : Nat)) (numOfInt (p.coreSum : Nat)))

/-- Occupancy of a tag that the active tables give for the coming interval (R577). -/
def tableOcc (s : State) (tag : Nat) : Nat :=
  let off := s.tick - getF s fFrameStartValue pgFrame
  let busy := (schedSpans s).flatMap (fun sp => ((getSched s sp).active.filter (fun e => e.phase == tag && !e.stopped)).map
    (fun e => ((maskCores e.coreMask).filter (fun c => !coreAbsent s sp c)).length
      * (overlapTicks e.start e.budget off 100000 + overlapTicks (e.start + framePeriod s) e.budget off 100000)))
  fp32Code (f32Div (numOfInt (busy.sum : Nat)) (numOfInt (100000 * presentCores s : Nat)))

/-- Occupancies of the coming interval: from the active tables, or those of the last one (R577). -/
def occNext (s : State) (occ : List Nat) : List Nat :=
  if frameRunning s && (schedSpans s).any (fun sp => !(getSched s sp).active.isEmpty) then (List.range 4).map (tableOcc s)
  else occ

/-- Four FP32 codes as values. -/
def f32Vals (l : List Nat) : List Num := (List.range 4).map (fun k => fp32Val (l.getD k 0))

/-- A learned value moved, not below zero. -/
def learnMove (v occ e : Num) : Nat := fp32Code (f32Max numZero (f32Add v (f32Mul occ e)))

/-- Average of a domain over the last interval. -/
def domainAvg (s : State) (part : Nat × Nat × Nat × Nat → Nat) : Num :=
  let x := sampleSum s 10 part
  f32Div (numOfInt x.1) (numOfInt (max 1 x.2 : Nat))

/-- Power that a domain is seen to need: 1.25 times its draw while it is held at its allocation (R578). -/
def needSeen (meas alloc : Num) : Num :=
  if numLe (f32Mul (fp32Val 0x3F733333) alloc) meas then f32Mul meas (fp32Val 0x3FA00000) else meas

/-- Learned needs of one of the near-bank and pier domains after an interval (R578). -/
def learnNeed (n occ : List Num) (base : Nat) (meas : Num) (alloc : Nat) : List Nat :=
  let pred := f32Add (f32Of base) (f32Dot occ n)
  let obs := needSeen meas (fp32Val alloc)
  (List.zip n occ).map (fun x => learnMove x.1 (f32Mul x.2 (f32Sub obs pred)) (fp32Val 0x3E000000))

/-- The learned values after an interval (R578). -/
def learnInterval (s : State) (occ : List Nat) (fmean : Nat) : Learned :=
  let p := s.pkg.power
  let l := p.learned
  let o := f32Vals occ
  let kp := f32Dot o (f32Vals l.k)
  let e := f32Div (f32Sub (f32Div (f32Sub (domainAvg s (·.1)) (f32Of 60)) (fp32Val fmean)) kp) (f32Of 8)
  { l with
    k := (List.zip (f32Vals l.k) o).map (fun x => learnMove x.1 x.2 e)
    nb := learnNeed (f32Vals l.nb) o 10 (domainAvg s (·.2.1)) p.nbAlloc
    pier := learnNeed (f32Vals l.pier) o 40 (domainAvg s (·.2.2.1)) p.pierAlloc }

/-- Predicted dense power at a frequency (R579). -/
def denseAt (kp : Num) (f : Nat) : Num := f32Add (f32Of 60) (f32Mul (f32Of f) kp)

/-- Highest step within a bound, else 1,000 MHz. -/
def highestStep (kp bound : Num) : Nat :=
  ((List.range 25).map (fun k => 2200 - 50 * k)).find? (fun f => numLe (denseAt kp f) bound) |>.getD 1000

/-- One setting for the package (R579): frequencies by span, near-bank and pier allocations, the dense power
shown, and whether the allocation is limited. -/
structure Setting where
  freq : List (Nat × Nat)
  nb : Num
  pier : Num
  dense : Num
  limited : Bool
  deriving DecidableEq, Repr

/-- Share of the room above the minima that both domains get; with nothing asked above the minima every finite share
gives the minima, and the model takes zero where the pseudo-code divides zero by zero (R579; DEDUCED, log
entry 71). -/
def shareOf (rem both : Num) : Num :=
  if numLe both (fp32Val 0x42D48000) then numZero
  else f32Div (f32Max numZero (f32Sub rem (fp32Val 0x42D48000))) (f32Sub both (fp32Val 0x42D48000))

/-- The allocation of R579. -/
def allocate (s : State) (occ : List Nat) (l : Learned) : Setting :=
  let o := f32Vals occ
  let kp := f32Dot o (f32Vals l.k)
  let a := f32Sub (f32Of (limitW s)) (domainAvg s (·.2.2.2))
  let c56 := fp32Val 0x42610000
  let needNb := f32Max c56 (f32Add (f32Of 10) (f32Dot o (f32Vals l.nb)))
  let needPier := f32Max (f32Of 50) (f32Add (f32Of 40) (f32Dot o (f32Vals l.pier)))
  let fAlloc := highestStep kp (f32Min (f32Sub (f32Sub a needNb) needPier) (f32Of 1600))
  let fRoom := highestStep kp (f32Min (f32Sub (f32Sub a c56) (f32Of 50)) (f32Of 1600))
  let fDom := highestStep kp (f32Of 1600)
  let freq := (schedSpans s).map (fun sp =>
    (sp, min (max fAlloc (min (getF s fPwrSwfreqMinMhz pgPwr sp) fRoom)) (getF s fPwrSwfreqMaxMhz pgPwr sp)))
  let dense := freq.foldl (fun acc x => f32Max acc (denseAt kp x.2)) numZero
  let rem := f32Sub a dense
  let both := f32Add needNb needPier
  let g := shareOf rem both
  let nb := if numLe both rem then needNb else f32Add c56 (f32Mul (f32Sub needNb c56) g)
  let pier := if numLe both rem then needPier else f32Add (f32Of 50) (f32Mul (f32Sub needPier (f32Of 50)) g)
  let nb1 := f32Min nb (f32Of 900)
  let pier1 := f32Min pier (f32Of 500)
  ⟨freq, nb1, pier1, dense, decide (fAlloc < min fDom 2200) || numLt nb1 needNb || numLt pier1 needPier⟩

/-- A slot limit staged and committed in a controller's page, unless it is in force already (R580). -/
def slotsCommit (s : State) (pg slots : Nat) : State :=
  let key : Reg × Nat × Nat := (.pccNbCfg, pg, 0)
  let cur := (look s.staged key (BitVec.ofNat 64 (rdR s .pccNbCfg pg 0))).toNat
  if bits cur fPccNbCfgSlots.lo fPccNbCfgSlots.w = slots then s
  else
    let v := setBits cur fPccNbCfgSlots.lo fPccNbCfgSlots.w slots
    setB { s with staged := put s.staged key (BitVec.ofNat 64 v) } fBlkStatusCommitPend pg true

/-- Slot count of a near-bank allocation, and pier share of a pier allocation (R580). -/
def slotsOf (nb : Num) : Nat := max 1 (min 16 (numFloor (f32Div nb (fp32Val 0x42610000))))
/-- PIER_PCT of an allocation. -/
def pierPct (pier : Num) : Nat := max 10 (min 100 (numFloor (f32Div (f32Mul (f32Of 100) pier) (f32Of 500))))

/-- Controllers of the spans in the schedule that are present. -/
def livePcs (s : State) : List Nat :=
  (schedSpans s).flatMap (fun sp => ((List.range (pcCount s)).map (pcNo sp)).filter (fun n => !pcGone s n))

/-- A setting applied (R580). -/
def settingApply (s : State) (x : Setting) : State :=
  let s1 := x.freq.foldl (fun acc f =>
    let a := setF acc fPwrActAllocMhz pgPwr f.2 f.1
    setF (setF a fPwrActNbSlots pgPwr (slotsOf x.nb) f.1) fPwrActPierPct pgPwr (pierPct x.pier) f.1) s
  let s2 := (livePcs s1).foldl (fun acc n => slotsCommit acc (pccPage n) (slotsOf x.nb)) s1
  let s3 := setF (setF s2 fPwrAllocPierW pgPwr (numFloor x.pier)) fPwrAllocNbW pgPwr (numFloor x.nb)
  let s4 := setF s3 fPwrAllocDenseW pgPwr (min 4095 (numFloor x.dense))
  clockNote (putPower s4 { s4.pkg.power with nbAlloc := fp32Code x.nb, pierAlloc := fp32Code x.pier, limited := x.limited })

/-- The duty that the allocator requires (R433, R581). -/
def dutyApply (s : State) (d : Nat) : State :=
  setF { s with sch := { s.sch with allocDuty := d } } fPwrAllocDutyReq pgPwr d

/-- ALLOCATOR_INTERVAL comes about: 100,000 ticks have passed, the package is READY and no takeover runs. -/
def allocatorIntervalReady (s : State) : Bool :=
  decide (100000 + s.pkg.power.allocAt ≤ s.tick) && stage s == 5 && s.pkg.boot.takeover.isNone && !s.pkg.boot.pkgFault

/-- Whether an interval teaches nothing: a protection has acted in it or holds, learning is frozen, or no core was present
(R578; log entry 6). -/
def learnHeld (s : State) : Bool :=
  let p := s.pkg.power
  p.acted || anySpan s (tileBlind s) || anySpan s (bandHot s) || p.limiting || !p.droops.isEmpty
    || anySpan s (fun sp => decide (thermCeiling s sp < 2200)) || decide (p.capCeil < 2200)
    || getB s fPwrLearnFreeze pgPwr || p.coreSum == 0

/-- The learned values after an interval, from what its ticks have measured (R577, R578). -/
def learnedAfter (s : State) : Learned :=
  if learnHeld s then s.pkg.power.learned else learnInterval s (occLast s.pkg.power) (clockMean s.pkg.power)

/-- One interval of the allocator (R577 to R581). -/
def allocatorIntervalEffect (s : State) : State :=
  let p := s.pkg.power
  let occ := occLast p
  let l := learnedAfter s
  let s1 := putPower s { p with
    learned := l, occ := occ, allocAt := s.tick, acted := false, occSum := [0, 0, 0, 0], coreSum := 0, mhzSum := 0 }
  let s2 := setF s1 fPwrAllocFabricW pgPwr (sampleAvg s1 10 (·.2.2.2))
  if cadenceLocked s then dutyApply s2 (min (powerDuty s2) l.dth)
  else dutyApply (settingApply s2 (allocate s2 (occNext s2 occ) l)) 16

/-- ALLOCATOR_INTERVAL (R579). -/
def execAllocatorInterval (s : State) : Host.Outcome State Fault Refusal :=
  .next (clocked s (if allocatorIntervalReady s then allocatorIntervalEffect s else s))

/-- LEARN_SAVE comes about: 10,000,000 ticks have passed since the last save. -/
def learnSaveReady (s : State) : Bool :=
  decide (10000000 + s.pkg.power.savedAt ≤ s.tick) && stage s == 5 && s.pkg.boot.takeover.isNone

/-- LEARN_SAVE (R582). -/
def execLearnSave (s : State) : Host.Outcome State Fault Refusal :=
  .next (clocked s (if learnSaveReady s then
    putPower s { s.pkg.power with saved := some s.pkg.power.learned, savedAt := s.tick } else s))

/-- PWR.LEARN.RESET written: the initial learned values (R582). -/
def learnResetEffect (s : State) : State := putPower s { s.pkg.power with learned := .reset }

/-- PWR.TR_CLEAR written: the durations named are zeroed (R584). -/
def trClearEffect (mask : Nat) (s : State) : State :=
  ((List.range 7).filter (bitAt mask)).foldl (fun acc r => setF acc fPwrTrTimeTicks pgPwr 0 r) s

/-- LEARN_RESET (R582). -/
def execLearnReset (m : Nat) (s : State) : Host.Outcome State Fault Refusal :=
  .next (clocked s (guarded s pgPwr m 0x120 (learnResetEffect s)))

/-- TR_CLEAR (R584). -/
def execTrClear (mask m : Nat) (s : State) : Host.Outcome State Fault Refusal :=
  .next (clocked s (guarded s pgPwr m 0x168 (trClearEffect mask s)))

end Sys2Proof.Machine
end

