-- ==== Sys2Proof/Machine/Package.lean ====
section
/-!
DEFINITION. The package (17) and its control cores (01): power-good, resets, rails, reference clocks, the PCIe
resets, takeovers of the package control duties, and the failure of a span's fabric. The rows of the pins and
rails act whether or not the clocks run.
-/
namespace Sys2Proof.Machine

/-- The start-up part of the state replaced. -/
def putBoot (s : State) (b : BootSt) : State := { s with pkg := { s.pkg with boot := b } }

/-! ### Package reset (R593, R613) -/

/-- The controllers right after a reset at tick `t`: their refreshes and token refills fall due from there (R222, R224). -/
def freshPccs (t : Nat) : List (Nat × Pcc) :=
  (List.range 512).map (fun n => (n, { newPcc with nextRefi := t + 3900, refillAt := t + 1000, scrubTick := t }))

/-- OWN.REIN_CLAIM.EPOCH after a package reset: it counts changes of holder since power-good, and a reset that releases the
reins is one (R514, R524, R613; DEDUCED, log entry 109). -/
def epochAfter (s : State) : Nat :=
  if s.pkg.boot.pwrgood then getF s fOwnReinClaimEpoch pgOwn + (if holder s = 7 then 0 else 1) else 0

/-- Start-up from its first stage, with every other state lost but what R613 keeps: the tick, the held
registers of the management island, fuses, straps and pins. What lies outside the package stays: the host's
memory, the messages already sent and the flash. -/
def freshState (s : State) : State :=
  let b := s.pkg.boot
  { State.reset with
    tick := s.tick
    regs := s.regs.filter (fun e => e.1.1 == .thermTrip || e.1.1 == .pkgIdRails)
    fuse := s.fuse
    memo := { MemSt.reset with
      host := s.memo.host
      hostOld := s.memo.hostOld
      pccs := freshPccs s.tick }
    ho := { HostSt.reset with linkDown := [(0, s.tick), (1, s.tick)] }
    pkg := { PkgSt.reset with
      power := { PowerSt.reset with
        sensorAt := s.tick, rateAt := s.tick, powerAt := s.tick, allocAt := s.tick, savedAt := s.tick, capAt := s.tick }
      boot := { BootSt.reset with
        vmgmt := b.vmgmt, pwrgood := b.pwrgood, resetN := !b.pinLow, perst := b.perst, pinLow := b.pinLow
        gated := b.gated, faultN := b.faultN, tripN := b.tripN, straps := b.straps, life := b.life
        service := b.service, program := b.program, programmed := b.programmed, retList := b.retList }
      irq := { IrqSt.reset with sent := s.pkg.irq.sent, inBand := s.pkg.irq.inBand } }
    free := s.free
    pending := s.pending }

/-- The package after a reset: the count of changes of holder goes on (R514, R613). -/
def afterReset (s : State) : State := setF (freshState s) fOwnReinClaimEpoch pgOwn (epochAfter s)

/-- Whether fuse programming runs (R612). -/
def programming (s : State) : Bool := s.pkg.boot.program.isSome && !s.pkg.boot.programmed

/-- A package reset requested: it waits for fuse programming to finish (R612, R613). -/
def packageReset (s : State) : State :=
  if programming s then putBoot s { s.pkg.boot with resetPend := true } else afterReset s

/-- RESET_N low for longer than 1 µs: no effect while PWRGOOD is low, and none during a latched shutdown (R593). -/
def packageResetEffect (s : State) : State :=
  let s1 := putBoot s { s.pkg.boot with pinLow := true }
  if s1.pkg.boot.pwrgood && !s1.pkg.boot.tripN then packageReset s1 else s1

/-- PACKAGE_RESET (R593). -/
def execPackageReset (s : State) : Host.Outcome State Fault Refusal := .next (packageResetEffect s)

/-- RESET_N rises: start-up begins where a reset was in effect (R591, R593, R614). -/
def resetNReleaseEffect (s : State) : State :=
  let b := s.pkg.boot
  putBoot s { b with pinLow := false, resetN := b.resetN || b.pwrgood }

/-- RESET_N_RELEASE (R593). -/
def execResetNRelease (s : State) : Host.Outcome State Fault Refusal := .next (resetNReleaseEffect s)

/-! ### Power-good and the standby rail (R591, R592, R595, R599, R612) -/

/-- POWER_GOOD_RISE comes about with the standby rail up and PWRGOOD low. -/
def powerGoodRiseReady (s : State) : Bool := s.pkg.boot.vmgmt && !s.pkg.boot.pwrgood

/-- Registers of the error log's state, which stands in the management island (R543). -/
def elogReg (r : Reg) : Bool := r == .elogStatus

/-- The tick starts at zero, straps are sampled, the error log counts its entries anew and start-up begins, or waits for
RESET_N (R24, R543, R545, R591, R598; DEDUCED, log entry 8). -/
def powerGoodRiseEffect (straps : Nat) (s : State) : State :=
  let b := s.pkg.boot
  let s1 := putBoot { s with tick := 0 } { b with pwrgood := true, resetN := !b.pinLow, straps := straps }
  { s1 with
    regs := s1.regs.filter (fun e => !elogReg e.1.1)
    er := ErrSt.reset
    ho := { s1.ho with linkDown := [(0, 0), (1, 0)] } }

/-- POWER_GOOD_RISE (R591). -/
def execPowerGoodRise (straps : Fin 4096) (s : State) : Host.Outcome State Fault Refusal :=
  .next (if powerGoodRiseReady s then powerGoodRiseEffect straps s else s)

/-- Whether a transition uses a service fuse (R611). -/
def usesService (a b : Nat) : Bool := (a == 2 && b == 3) || (a == 3 && b == 2)

/-- Fuse programming that has ended: the next FUSE stage reads the target (R611, R612). -/
def programEnd (s : State) : State :=
  match s.pkg.boot.program with
  | none => s
  | some (t, _) =>
    let b := s.pkg.boot
    putBoot s { b with
      programmed := true
      service := if usesService b.life t && !b.programmed then b.service + 1 else b.service }

/-- Fuse programming that power has interrupted leaves the old state or the new one, as it happens (R612). -/
def programCut (s : State) : State :=
  if programming s then
    let r := freeBit s
    if r.1 then programEnd r.2 else putBoot r.2 { r.2.pkg.boot with program := none }
  else s

/-- All state outside the management island is lost: the island keeps its latches and the error log, and the tick
is held at zero (R592, R595). -/
def powerGoodLossEffect (s : State) : State :=
  let s0 := programCut s
  let log := s0.regs.filter (fun e => elogReg e.1.1)
  let b := s0.pkg.boot
  let s1 := afterReset (putBoot { s0 with tick := 0 } { b with pwrgood := false, gated := false, faultN := false, tripN := false })
  { s1 with
    regs := s1.regs ++ log
    er := { s1.er with elog := s0.er.elog, firstArmed := s0.er.firstArmed }
    ho := { s1.ho with i3cAddr := s0.ho.i3cAddr, i3cRes := s0.ho.i3cRes.map (fun r => (r.1, r.2.1, 0)) } }

/-- POWER_GOOD_LOSS (R592). -/
def execPowerGoodLoss (s : State) : Host.Outcome State Fault Refusal :=
  .next (if s.pkg.boot.pwrgood then powerGoodLossEffect s else s)

/-- VMGMT falls: nothing of the package is kept but its fuses and its flash (R595, R599, R612). -/
def vmgmtLossEffect (s : State) : State :=
  let s1 := powerGoodLossEffect s
  { s1 with
    regs := []
    er := ErrSt.reset
    ho := { s1.ho with i3cAddr := false, i3cRes := none }
    pkg := { s1.pkg with boot := { s1.pkg.boot with vmgmt := false } } }

/-- VMGMT_LOSS (R595). -/
def execVmgmtLoss (s : State) : Host.Outcome State Fault Refusal := .next (if s.pkg.boot.vmgmt then vmgmtLossEffect s else s)

/-- VMGMT rises: the registers that it loads take their reset values, and the pins are low (R591, R599). -/
def vmgmtRiseEffect (s : State) : State :=
  let s1 := wrR (wrR s .thermTrip pgTherm 0 0) .pkgIdRails pgPkgId 0 0
  putBoot s1 { s1.pkg.boot with vmgmt := true, pinLow := true, perst := [0, 1] }

/-- VMGMT_RISE (R599). -/
def execVmgmtRise (s : State) : Host.Outcome State Fault Refusal := .next (if s.pkg.boot.vmgmt then s else vmgmtRiseEffect s)

/-! ### Rails and reference clocks (R590, R594, R597) -/

/-- Whether an index of Table: Rails names a main rail (R589, R590). -/
def mainRail (r : Nat) : Bool := decide (1 ≤ r && r ≤ 3) || decide (8 ≤ r && r < 56)

/-- A rail fault: clocks gated, FAULT_N asserted, and the first one recorded (R590, R594, R599). -/
def railFaultEffect (rail kind : Nat) (s : State) : State :=
  let s1 := putBoot s { s.pkg.boot with gated := true, faultN := true }
  if getB s fPkgIdRailsValid pgPkgId then s1
  else
    let s2 := setF (setF s1 fPkgIdRailsTick pgPkgId s.tick) fPkgIdRailsRail pgPkgId rail
    setB (setF s2 fPkgIdRailsKind pgPkgId kind) fPkgIdRailsValid pgPkgId true

/-- RAIL_FAULT (R590): a main rail below 90 % of its nominal, or `over` above 110 %. -/
def execRailFault (rail : Fin 256) (high : Bool) (s : State) : Host.Outcome State Fault Refusal :=
  .next (if s.pkg.boot.pwrgood && mainRail rail then railFaultEffect rail (if high then 2 else 1) s else s)

/-- SYSCLK_LOSS (R597). -/
def execSysclkLoss (s : State) : Host.Outcome State Fault Refusal :=
  .next (if s.pkg.boot.pwrgood then railFaultEffect 0xFF 3 s else s)

/-- Every enabled Zaskel port fails through RETRAIN (R453, R597). -/
def zlRefclkLossEffect (s : State) : State :=
  (List.range 12).foldl (fun acc p =>
    if zlAbsent acc p || zlState acc p == 0 || zlState acc p == 7 then acc else zlFail acc p 5) s

/-- ZL_REFCLK_LOSS (R597). -/
def execZlRefclkLoss (s : State) : Host.Outcome State Fault Refusal := .next (clocked s (zlRefclkLossEffect s))

/-- PCIE_REFCLK_LOSS (R597). -/
def execPcieRefclkLoss (p : Fin 2) (s : State) : Host.Outcome State Fault Refusal := .next (clocked s (linkLost s p))

/-! ### PCIe resets (R591, R593) -/

/-- PERSTn_N asserted: the port is reset as PCI Express resets it, and its link is down. -/
def perstAssertEffect (p : Fin 2) (s : State) : State :=
  let h := s.ho
  let down := if has h.linkDown p.val then h.linkDown else put h.linkDown p.val s.tick
  let s1 := { s with ho := { h with
      mse := setDel h.mse p.val, vfs := put h.vfs p.val 0, aper := del h.aper p.val, linkDown := down
      d3 := h.d3.filter (fun f => f / 64 ≠ p.val) } }
  let s2 := putBoot s1 { s1.pkg.boot with perst := setIns s1.pkg.boot.perst p.val }
  if getF s2 fHifLinkState (pgHif p) = 3 then s2 else linkSet s2 p 0

/-- PERST_ASSERT (R593). -/
def execPerstAssert (p : Fin 2) (s : State) : Host.Outcome State Fault Refusal :=
  .next (if s.pkg.boot.vmgmt then perstAssertEffect p s else s)

/-- PERSTn_N released: the port trains, or waits for start-up (R591, R593, R614). -/
def perstReleaseEffect (p : Fin 2) (s : State) : State :=
  let s1 := putBoot s { s.pkg.boot with perst := setDel s.pkg.boot.perst p.val }
  if running s && portFitted s p && decide (1 ≤ stage s) then linkSet s1 p 1 else s1

/-- PERST_RELEASE (R593). -/
def execPerstRelease (p : Fin 2) (s : State) : Host.Outcome State Fault Refusal :=
  .next (if s.pkg.boot.vmgmt then perstReleaseEffect p s else s)

/-! ### PLDM base requests (R573) -/

/-- A base request answered, or a malformed request turned away by its check: 1 length, 2 type, 3 range. The
contents of a base response are not this specification's. -/
def pldmBaseEffect (check : Nat) (s : State) : State :=
  if stage s ≠ 5 then pldmAnswer s .notReady
  else match check with
    | 0 => let r := freeWord s; pldmAnswer r.2 (.base r.1)
    | 1 => pldmAnswer s .invalidLength
    | 2 => pldmAnswer s .invalidType
    | _ => pldmAnswer s .invalidData

/-- PLDM_BASE_REQUEST (R573). -/
def execPldmBaseRequest (check : Fin 4) (s : State) : Host.Outcome State Fault Refusal :=
  .next (clocked s (if s.ho.i3cAddr then pldmBaseEffect check (mctpArrives s) else s))

/-! ### Control cores (R36, R37, R39, R640) -/

/-- Whether a control core has failed: 0 to 7 the management cores, 8 the package control core. -/
def coreDown (s : State) (k : Nat) : Bool := s.pkg.boot.coresDown.contains k

/-- PKG_CTRL_HEARTBEAT (R36). -/
def execPkgCtrlHeartbeat (s : State) : Host.Outcome State Fault Refusal :=
  .next (clocked s (if coreDown s 8 then s else putBoot s { s.pkg.boot with beatAt := s.tick }))

/-- TAKEOVER_START comes about: span 0's management core has seen no heartbeat for 1 ms. -/
def takeoverStartReady (s : State) : Bool :=
  let b := s.pkg.boot
  stage s == 5 && decide (1000000 + b.beatAt ≤ s.tick) && !coreDown s 0 && b.takeover.isNone && !b.tookOver

/-- The takeover begins: the lost heartbeat is an edge at span 0's management core, the package control core counts as
failed, and its interrupt page is emptied (R36, R632, R640). -/
def takeoverStartEffect (s : State) : State :=
  irqEmpty 8 (putBoot (privEdgeEvent s 0 26) { s.pkg.boot with takeover := some s.tick, coresDown := setIns s.pkg.boot.coresDown 8 })

/-- TAKEOVER_START (R36). -/
def execTakeoverStart (s : State) : Host.Outcome State Fault Refusal :=
  .next (clocked s (if takeoverStartReady s then takeoverStartEffect s else s))

/-- A held mailbox word acknowledged after a takeover; its answer times run anew (R37, R508). -/
def takenOverSlot (s : State) (x : Nat × Nat) : State :=
  let s0 := { s with ho := { s.ho with mbAt := put s.ho.mbAt x s.tick } }
  let s1 := setB s0 fFnMbStateTakeover (pgFn x.1) true x.2
  if getF s fFnMbStateState (pgFn x.1) x.2 = 1 then mbSet s1 x.1 x.2 2 0 else s1

/-- The takeover completes: held words are acknowledged, the allocator resumes from its last save, and interrupted
commits are resumed from their records (R37, R508, R554, R582). -/
def takeoverCompleteEffect (s : State) : State :=
  let s1 := putBoot s { s.pkg.boot with takeover := none, tookOver := true }
  let s2 := putPower s1 { s1.pkg.power with learned := s1.pkg.power.saved.getD .reset }
  let s3 := s2.ho.mb.foldl takenOverSlot s2
  commitsResume (mbClear s3)

/-- TAKEOVER_COMPLETE (R37). -/
def execTakeoverComplete (s : State) : Host.Outcome State Fault Refusal :=
  .next (clocked s (if s.pkg.boot.takeover.isSome && !coreDown s 0 then takeoverCompleteEffect s else s))

/-- A management core fails: span 4's serves span 0's page, which is emptied; with both holders of the package
duties lost, the package raises its fault (R39, R640). DESIGN CHOICE: the failure of a management core of spans 1 to
7 is recorded and has no other effect, since the spec gives none (log entry 63). -/
def mgmtCoreFailureEffect (k : Fin 9) (s : State) : State :=
  let s1 := putBoot s { s.pkg.boot with coresDown := setIns s.pkg.boot.coresDown k.val }
  let s2 := if k = 0 then irqEmpty 0 s1 else s1
  if coreDown s2 0 && coreDown s2 8 then putBoot s2 { s2.pkg.boot with pkgFault := true } else s2

/-- MGMT_CORE_FAILURE (R39). -/
def execMgmtCoreFailure (k : Fin 9) (s : State) : Host.Outcome State Fault Refusal :=
  .next (clocked s (if coreDown s k then s else mgmtCoreFailureEffect k s))

/-! ### Spans and the deck (R32, R33, R48, R559) -/

/-- Whether a context's page has a part on a span. -/
def leafOnSpan (s : State) (span : Nat) (l : Leaf) : Bool :=
  decide (pteKind l.pte ≤ 1) && (leafCells s l).any (fun c => cellSpan c == span)

/-- Contexts with a leaf on a span. -/
def spanCtxs (s : State) (span : Nat) : List Nat := (leavesOf s (leafOnSpan s span)).map (·.1)

/-- Whether an item has a queue or data on a span (R559). -/
def itemOnSpan (ctxs : List Nat) (span : Nat) (it : Item) : Bool :=
  it.launches.any (fun d => d.span == span || ctxs.contains d.ctx)

/-- Zaskel ports of a span (R35). -/
def spanPorts (span : Nat) : List Nat := (List.range 12).filter (fun p => zlSpan p == span)

/-- A Zaskel port taken out of use: it fails with what it held, and is absent. -/
def zlRetire (cause : Nat) (s : State) (p : Nat) : State :=
  if zlAbsent s p then s
  else
    let s1 := if zlState s p = 0 ∨ zlState s p = 7 then s else zlFail s p 5
    setCause { s1 with pkg := { s1.pkg with link := { s1.pkg.link with gone := setIns s1.pkg.link.gone p } } } (pgZl p) cause

/-- A PCIe port taken out of use. -/
def pcieRetire (cause : Nat) (s : State) (p : Nat) : State :=
  let s1 := setCause (linkSet s p 3) (pgHif p) cause
  putBoot s1 { s1.pkg.boot with portsGone := setIns s1.pkg.boot.portsGone p }

/-- PCIe ports of a span (R35). -/
def spanPcie (span : Nat) : List Nat := if span = 0 then [0] else if span = 7 then [1] else []

/-- A span's fabric fails: its items end, and every unit of it is absent (R141, R236, R559, R617). DESIGN CHOICE: the
control cores that stand on span 0 and span 4 go on (log entry 64). -/
def spanFail (s : State) (sp : Fin 8) (cause : Nat) : State :=
  if spanDown s sp then s
  else
    let ctxs := spanCtxs s sp
    let s1 := itemsFail s (itemOnSpan ctxs sp)
    let s2 := stopEntries s1 sp (fun _ => true)
    let s3 := (List.range 16).foldl (fun acc c => if coreAbsent acc sp c then acc else coreRetire acc sp c cause) s2
    let s4 := (List.range (pcCount s3)).foldl (fun acc p =>
      if (getPcc acc (pcNo sp p)).failed then acc else pcRetire acc (pcNo sp p) cause) s3
    let s5 := (spanPcie sp).foldl (pcieRetire cause) ((spanPorts sp).foldl (zlRetire cause) s4)
    { s5 with
      memo := { s5.memo with tc := s5.memo.tc.filter (fun l => l.span ≠ sp.val) }
      cx := { s5.cx with recs := s5.cx.recs.filter (fun p => p.1.1 ≠ sp.val) }
      pkg := { s5.pkg with spansGone := put s5.pkg.spansGone sp.val cause } }

/-- CREDIT_TIMEOUT comes about: a sender of the span has held zero credits for a class since a tick 10 ms ago or more,
while the receiver reports that class empty (R48). -/
def creditTimeoutReady (empty : Bool) (since : Nat) (s : State) : Bool := empty && decide (since + 10000000 ≤ s.tick)

/-- CREDIT_TIMEOUT (R48): the connection is treated as a failed span fabric. DESIGN CHOICE: of its two ends, the
sender's span counts as the failed one (log entry 65). -/
def execCreditTimeout (sp : Fin 8) (_cls : Fin 4) (empty : Bool) (since : Nat) (s : State) :
    Host.Outcome State Fault Refusal :=
  .next (clocked s (if spanDown s sp || !creditTimeoutReady empty since s then s
    else spanFail (privEdgeEvent s sp 25) sp 3))

/-- Whether two spans are joined by a deck edge (R31). -/
def deckEdge (a b : Nat) : Bool := decide (b = a + 4) || (decide (b = a + 1) && a / 4 == b / 4)

/-- An edge of the deck, lower span first, as one number. -/
def edgeNo (a b : Nat) : Nat := 8 * min a b + max a b

/-- DECK_EDGE_FAIL (R33): paths that used the edge take the other row from then on; nothing is lost. -/
def execDeckEdgeFail (a b : Fin 8) (s : State) : Host.Outcome State Fault Refusal :=
  .next (clocked s (if deckEdge (min a b) (max a b)
    then putBoot s { s.pkg.boot with edges := setIns s.pkg.boot.edges (edgeNo a b) } else s))

/-- Whether the fabric of a span counts as failed for the single-failure rules: it has failed, or a deck edge has of
which the span is the lower-numbered end (R33, R559). -/
def fabricFailed (s : State) (span : Nat) : Bool := spanDown s span || s.pkg.boot.edges.any (fun e => e / 8 == span)

/-- Columns from one to another, both included, in the order of travel. -/
def walkCols (a b : Nat) : List Nat :=
  if a ≤ b then (List.range (b + 1)).filter (fun c => decide (a ≤ c))
  else ((List.range (a + 1)).filter (fun c => decide (b ≤ c))).reverse

/-- Spans that R32's path between two spans passes, ends included: along the source's row, then across. -/
def straightPath (a b : Nat) : List Nat :=
  (walkCols (a % 4) (b % 4)).map (a / 4 * 4 + ·) ++ (if a / 4 = b / 4 then [] else [b])

/-- Spans that R33's path passes: across first, along the other row, and across again where the rows are the same.
DESIGN CHOICE: two spans of one column, whose path has no other row, go round by the next column (log entry 66). -/
def otherPath (a b : Nat) : List Nat :=
  let row := 1 - a / 4
  if a % 4 = b % 4 then
    let c := if a % 4 = 3 then 2 else a % 4 + 1
    [a, a / 4 * 4 + c, row * 4 + c, b]
  else a :: (walkCols (a % 4) (b % 4)).map (row * 4 + ·) ++ (if a / 4 = b / 4 then [b] else [])

/-- Edges between the neighbours of a path. -/
def pathEdges : List Nat → List Nat
  | a :: b :: r => edgeNo a b :: pathEdges (b :: r)
  | _ => []

/-- Whether a path passes no failed span and no failed edge. -/
def pathUp (s : State) (p : List Nat) : Bool :=
  p.all (fun x => !spanDown s x) && (pathEdges p).all (fun e => !s.pkg.boot.edges.contains e)

/-- The path that transfers between two spans take: R32's, or R33's where an edge or a span of that one has failed;
none where both have. -/
def deckPath (s : State) (a b : Nat) : Option (List Nat) :=
  if a = b then some [a]
  else if pathUp s (straightPath a b) then some (straightPath a b)
  else if pathUp s (otherPath a b) then some (otherPath a b) else none

/-- Whether two present spans have a path of R32 or R33. -/
def spansJoined (s : State) (a b : Nat) : Bool := (deckPath s a b).isSome

/-! ### Correctable and uncorrectable errors of the package's memories (R532, R533, R539) -/

/-- An SRAM_UE entry of a resource, and the resource isolated where its first such entry is still in handling; the
second answer says that it is (R532, R539). -/
def hardLog (s : State) (span unit index addr : Nat) : State × Bool :=
  let again := s.er.elog.any (fun e => !e.handled && e.cls == 4 && e.span == span && e.unit == unit && e.index == index)
  let s1 := elogAdd s { elogOf 0x04 with span := span, unit := unit, index := index, addr := addr }
  if again then (irqSrc (elogAdd s1 { elogOf 0x08 with span := span, unit := unit, index := index }) (pgSerr span) 2, true)
  else (s1, false)

/-- An element of the reducer buffer is poisoned (R532). -/
def hardReducer (s : State) (span pc addr : Nat) : State :=
  let n := pcNo span pc
  let cell := cellOf s false addr
  if (getPcc s n).red.any (fun l => l.line == cell / 128) then
    (hardLog (redUpd s n (cell / 128) (fun l =>
      { l with dirty := l.dirty ||| 2 ^ (cell % 128 / 32), poison := l.poison ||| 2 ^ (cell % 128 / 32) })) span 0x50 pc addr).1
  else s

/-- A tile-cache slice passes every access uncached from now on: its span's fabric has failed (R539). -/
def sliceIsolate (s : State) (sp : Fin 8) : State := spanFail s sp 3

/-- A line of a slice: a clean one is discarded and counted as correctable, of a dirty one the column is marked
poisoned (R532). -/
def hardLine (s : State) (sp : Fin 8) (slice addr : Nat) (intlv : Bool) : State :=
  match tcFind s sp intlv (addr / 128) with
  | none => s
  | some l =>
    if l.dirty = 0 then bucketEvent (tcDrop s sp intlv (addr / 128)) sp 1 slice 0 addr
    else
      let k := addr % 128 / 32
      let r := hardLog (tcPut s { l with
        dirty := l.dirty ||| byteMask (32 * k) 32, poison := l.poison ||| 2 ^ k }) sp 0x30 slice addr
      if r.2 then sliceIsolate r.1 sp else r.1

/-- The tags of a slice (R532, R539). -/
def hardTags (s : State) (sp : Fin 8) (slice addr : Nat) : State :=
  sliceIsolate (irqSrc (elogAdd (hardLog s sp 0x30 slice addr).1
    { elogOf 0x08 with span := sp, unit := 0x30, index := slice }) (pgSerr sp) 2) sp

/-- A word of a core's local memory is marked poisoned until it is wholly rewritten; the core is retired where it is
isolated (R532, R539). -/
def hardWord (s : State) (span core addr : Nat) : State :=
  let w := (lmSize * coreNo span core + addr % lmSize) / 8
  let s1 := { s with core := { s.core with lmPoison := (w, 0) :: s.core.lmPoison.filter (fun x => x.1 ≠ w) } }
  let r := hardLog s1 span 0x42 core addr
  if r.2 then coreRetire r.1 span core 3 else r.1

/-- A context's record on a span is lost: its items fail and the context is destroyed (R532, R559). -/
def hardRecord (s : State) (span ctx : Nat) : State :=
  if (getRec s span ctx).isNone then s
  else
    let s1 := (hardLog s span 0x34 0 ctx).1
    destroyCtx (itemsFail s1 (fun it => (itemCtxs it).contains ctx)) ctx

/-- An entry of the schedule table stops firing, counted in SCHED.DROPPED (R532). -/
def hardEntry (s : State) (span idx : Nat) : State :=
  let u := getSched s span
  if idx < u.active.length then
    let s1 := putSched s span { u with active := u.active.modify idx (fun x => { x with stopped := true }) }
    bumpF (hardLog s1 span 0x36 0 idx).1 fSchedDroppedCount (pgSched span)
  else s

/-- An uncorrectable error of a resource (R532): `bank` selects the slice's tags (bit 0) and its interleaved lines
(bit 1), or the schedule banks of the span store (bit 0); `addr` is the address, the context or the entry. -/
def hardError (s : State) (sp : Fin 8) (cls : Fin 4) (idx bank addr : Nat) : State :=
  match cls with
  | 0 => hardReducer s sp idx addr
  | 1 => if bitAt bank 0 then hardTags s sp idx addr else hardLine s sp idx addr (bitAt bank 1)
  | 2 => hardWord s sp idx addr
  | _ => if bitAt bank 0 then hardEntry s sp addr else hardRecord s sp addr

/-- CORRECTABLE_EVENT (R533). DESIGN CHOICE: with `hard` the error is one that the code detects and cannot correct
(R532), for which the table of commands has no row of its own (log entry 61). -/
def execCorrectableEvent (sp : Fin 8) (cls : Fin 4) (idx bank addr : Nat) (hard : Bool) (s : State) :
    Host.Outcome State Fault Refusal :=
  .next (clocked s (if !bucketKnown s sp cls idx then s
    else if hard then hardError s sp cls idx bank addr
    else bucketEvent s sp cls idx (bank % 32) (addr % 2 ^ 64)))

end Sys2Proof.Machine
end

