-- ==== Sys2Proof/Machine/Startup.lean ====
section
/-!
DEFINITION. Self-test, life cycle and start-up (18): the stages of start-up with the outcomes of their tests,
the life-cycle state and its transitions, the retirement list, and the slices and tests of the BIST page.
-/
namespace Sys2Proof.Machine

/-! ### Units that fail a test (R616 to R618) -/

/-- A failing unit recorded: at start-up in the error log only, in operation in the retirement list too (R622,
R627). -/
def testNote (boot : Bool) (s : State) (e : Nat) : State := if boot then retLog s e else retNote s e

/-- A span that fails its tests (R617). -/
def testSpan (boot : Bool) (s : State) (sp : Nat) : State :=
  if spanDown s sp || decide (8 ≤ sp) then s
  else testNote boot (spanFail s (Fin.ofNat 8 sp) 2) (retEntry 5 sp 0 0 0 true)

/-- A core, by its package-wide number, that fails its tests. -/
def testCore (boot : Bool) (s : State) (n : Nat) : State :=
  if coreAbsent s (n / 16) (n % 16) || spanDown s (n / 16) || decide (128 ≤ n) then s
  else
    let s1 := if boot then bumpSat s fBistSummaryCores pgBist else s
    testNote boot (coreRetire s1 (n / 16) (n % 16) 2) (retEntry 3 (n / 16) (n % 16) 0 0 true)

/-- A pseudo-channel, by its package-wide number, that fails its tests. -/
def testPc (boot : Bool) (s : State) (n : Nat) : State :=
  if pcGone s n || spanDown s (n / 64) || decide (512 ≤ n) then s
  else testNote boot (pcRetire s n 2) (retEntry 2 (n / 64) (n % 64) 0 0 true)

/-- A spare bank that fails its tests is never used, and is absent: span times 64, die times 4, spare. The retirement
list has no entry for one (R617, R622, R627). DEDUCED: the error log's entry of its retirement names its BLU
page (log entry 85). -/
def testSpare (s : State) (n : Nat) : State :=
  let k := (n / 64, n / 4 % 16, n % 4)
  if s.pkg.boot.sparesGone.contains k || decide (512 ≤ n) then s
  else
    let s1 := setCause (putBoot s { s.pkg.boot with sparesGone := k :: s.pkg.boot.sparesGone }) (pgBluSpare (n / 64) (n / 4 % 16) (n % 4)) 2
    elogAdd s1 { elogOf 0x09 with span := n / 64, unit := 0x51, index := 2048 + n % 64 }

/-- A visible bank put out of use at once: a free spare takes its place, else its pseudo-channel is absent (R235,
R617). -/
def bankReplace (sp : Fin 8) (pc : Fin 64) (bank cause : Nat) (s : State) : State :=
  match freeSpare s sp pc with
  | some k =>
    let pg := pgPcc sp pc
    setCause (setF (setF (setF s fPccSpareLbank pg bank) fPccSpareSpare pg k) fPccSpareState pg 2) (pgBlu sp pc bank) cause
  | none => pcRetire s (pcNo sp pc) cause

/-- A visible bank that fails its tests: the pseudo-channel's package-wide number times 32, and the bank. -/
def testBank (boot : Bool) (s : State) (n : Nat) : State :=
  let sp := Fin.ofNat 8 (n / 2048)
  let pc := Fin.ofNat 64 (n / 32)
  if pcGone s (pcNo sp pc) || spanDown s sp || decide (16384 ≤ n) then s
  else
    let spare := (freeSpare s sp pc).isSome
    let s1 := if boot && spare then bumpSat s fBistSummaryBanksRemapped pgBist else s
    testNote boot (bankReplace sp pc (n % 32) 2 s1)
      (if spare then retEntry 1 sp pc (n % 32) 0 true else retEntry 2 sp pc 0 0 true)

/-- A Zaskel port that fails its test. -/
def testZl (boot : Bool) (s : State) (p : Nat) : State :=
  if zlAbsent s p then s
  else
    let s1 := if boot then bumpSat s fBistSummaryPortsAbsent pgBist else s
    testNote boot (zlRetire 2 s1 p) (retEntry 4 (zlSpan p) p 0 0 true)

/-- A PCIe port that fails its test. -/
def testPcie (boot : Bool) (s : State) (p : Nat) : State :=
  if s.pkg.boot.portsGone.contains p || decide (2 ≤ p) then s
  else
    let s1 := if boot then bumpSat s fBistSummaryPortsAbsent pgBist else s
    elogAdd (pcieRetire 2 s1 p) { elogOf 0x09 with span := 15, unit := 0x03, index := p }

/-- The failing units of a round of span tests: cores, pseudo-channels, spares, banks, Zaskel ports and PCIe
ports, by number. -/
def testUnits (boot : Bool) (cores pcs spares banks zls pcies : List Nat) (s : State) : State :=
  let s1 := pcs.foldl (testPc boot) (cores.foldl (testCore boot) s)
  let s2 := banks.foldl (testBank boot) (spares.foldl testSpare s1)
  pcies.foldl (testPcie boot) (zls.foldl (testZl boot) s2)

/-- Failing address and bits recorded (R627). -/
def reportAddr (s : State) (addr bit count : Nat) : State :=
  setF (setF (setF s fBistFailAddrAddr pgBist addr) fBistFailBitBit pgBist bit) fBistFailBitCount pgBist (min count 65535)

/-- A span's device memory left zero and sealed (R618, R630). -/
def spanZero (s : State) (sp : Nat) : State :=
  let here (cell : Nat) : Bool := cell / 2 ^ 37 == sp
  { s with memo := { s.memo with
      mem := s.memo.mem.filter (fun c => !here c.1)
      poison := s.memo.poison.filter (fun c => !here (c * 32))
      errs := s.memo.errs.filter (fun c => !here (c.1 * 32))
      tc := s.memo.tc.filter (fun l => l.span ≠ sp && !here (lineCell s l.intlv l.line))
      pccs := s.memo.pccs.map (fun p => if p.1 / 64 = sp then (p.1, { p.2 with unsealed := [] }) else p)
      blus := s.memo.blus.filter (fun b => b.1.1 / 64 ≠ sp) } }

/-! ### Stages (R614, R616 to R621) -/

/-- Start-up enters a stage. -/
def toStage (s : State) (n : Nat) : State := setF s fLcsStatusStage pgLcs n

/-- Start-up stops in FAILED with a cause (R619). -/
def startFail (s : State) (cause : Nat) : State := setF (toStage s 6) fLcsStatusFail pgLcs cause

/-- The core that a grade fuses off in each span (R5). -/
def fusedCores (s : State) : List (Nat × Nat) :=
  (s.fuse.absentCore.zipIdx.filter (fun x => decide (x.1 < 16))).map (fun x => (coreNo x.2 x.1, 1))

/-- The life-cycle fuses read: a transition whose programming has ended takes effect (R612, R613). -/
def fusesRead (b : BootSt) : BootSt :=
  match b.program with
  | some (t, _) => if b.programmed then { b with life := t, program := none, programmed := false } else b
  | none => b

/-- The life-cycle fuses read (R612, R613). -/
def readFuses (s : State) : State := putBoot s (fusesRead s.pkg.boot)

/-- Fuses loaded: the grade's absent cores are known, the ports train, and start-up goes on, or halts when
DECOMMISSIONED (R610, R614). -/
def fuseStageDoneEffect (s : State) : State :=
  let s1 := readFuses s
  let s2 := { s1 with core := { s1.core with absent := fusedCores s1 } }
  let s3 := ([0, 1] : List Nat).foldl (fun acc p =>
    if portFitted acc p && !acc.pkg.boot.perst.contains p then linkSet acc p 1 else acc) s2
  toStage s3 (if s3.pkg.boot.life = 4 then 7 else 1)

/-- FUSE_STAGE_DONE (R614). -/
def execFuseStageDone (s : State) : Host.Outcome State Fault Refusal :=
  .next (clocked s (if stage s = 0 then fuseStageDoneEffect s else s))

/-- Spans that a signature failure makes absent: management cores but span 0's, schedule-table logic, and the ECC
engines of the tile cache and the context store (R617). -/
def romSpans (mgmt sched tcEcc ctxEcc : Nat) : List Nat :=
  (List.range 8).filter (fun sp => (bitAt mgmt sp && sp != 0) || bitAt sched sp || bitAt tcEcc sp || bitAt ctxEcc sp)

/-- Signatures recorded, and the units that failed set aside (R616, R617). -/
def romTestDoneEffect (rom ctl : Bool) (mgmt sched tcEcc ctxEcc : Nat) (pcs : List Nat) (got exp : Nat) (s : State) :
    State :=
  let spans := romSpans mgmt sched tcEcc ctxEcc
  let any := rom || ctl || bitAt mgmt 0 || !spans.isEmpty || !pcs.isEmpty
  let s1 := if any then
      setB (setF (setF s fBistSigGotSig pgBist got) fBistSigExpSig pgBist exp) fBistStatusReport pgBist true
    else s
  let down := (if ctl then [8] else []) ++ (List.range 8).filter (bitAt mgmt)
  let s2 := putBoot s1 { s1.pkg.boot with coresDown := down, tookOver := ctl }
  if rom then startFail s2 1
  else if ctl && bitAt mgmt 0 then startFail s2 2
  else toStage (pcs.foldl (testPc true) (spans.foldl (testSpan true) s2)) 2

/-- ROM_TEST_DONE (R616): whether the boot ROM's and the package control core's signatures differ, masks of the
spans whose units' do, the pseudo-channels whose ECC engines' do, and the two signatures of the last failure. -/
def execRomTestDone (rom ctl : Bool) (mgmt sched tcEcc ctxEcc : Fin 256) (pcs : List Nat) (got exp : Nat) (s : State) :
    Host.Outcome State Fault Refusal :=
  .next (clocked s (if stage s = 1 then romTestDoneEffect rom ctl mgmt sched tcEcc ctxEcc pcs got exp s else s))

/-- Whether an image header is valid: MAGIC, VERSION, KEY, SEQ and LEN (R609, R621). -/
def headerOk (s : State) (h : List Nat) : Bool :=
  h.getD 0 0 == 0x56574645 && h.getD 1 0 == 1 && (h.getD 2 0 == 0 || (h.getD 2 0 == 1 && s.pkg.boot.life == 0))
    && decide (h.getD 4 0 ≤ 8 * 2 ^ 20)

/-- The slot taken, with its SEQ: the valid one with the higher SEQ, slot A when they are equal. -/
def imageChoice (s : State) (a b : List Nat) (bodyA bodyB : Bool) : Option (Nat × Nat) :=
  let va := headerOk s a && bodyA
  let vb := headerOk s b && bodyB
  let sa := a.getD 3 0 % 2 ^ 32
  let sb := b.getD 3 0 % 2 ^ 32
  if va && (!vb || decide (sb ≤ sa)) then some (0, sa) else if vb then some (1, sb) else none

/-- The image taken, or none (R621). -/
def imageVerifyDoneEffect (a b : List Nat) (bodyA bodyB : Bool) (s : State) : State :=
  match imageChoice s a b bodyA bodyB with
  | none => startFail s 3
  | some x =>
    let s1 := setF (setF s fLcsImageSlot pgLcs x.1) fLcsImageSeq pgLcs x.2
    toStage (putBoot s1 { s1.pkg.boot with imageDone := true }) (if s1.pkg.boot.spansDone then 4 else 3)

/-- IMAGE_VERIFY_DONE (R621): the two headers as MAGIC, VERSION, KEY, SEQ and LEN, and whether each body's digest
and signature verify under a key whose digest the fuses hold. -/
def execImageVerifyDone (a b : List Nat) (bodyA bodyB : Bool) (s : State) : Host.Outcome State Fault Refusal :=
  .next (clocked s (if stage s = 2 && !s.pkg.boot.imageDone then imageVerifyDoneEffect a b bodyA bodyB s else s))

/-- Causes that the span tests leave for FAILED (R619). -/
def workingSet (s : State) : Option Nat :=
  let up := schedSpans s
  if up.isEmpty then some 4
  else if up.any (fun a => up.any (fun b => !spansJoined s a b)) then some 5
  else if !portFitted s 0 && !portFitted s 1 then some 6
  else none

/-- Absent pseudo-channels of the package but those of the grade (R627). -/
def pcsFailed (s : State) : Nat :=
  ((List.range 8).map (fun sp => ((List.range (pcCount s)).filter (fun p => (getPcc s (pcNo sp p)).failed)).length)).sum

/-- The span tests' outcomes: failing units set aside, memory zero and sealed, the reports (R617 to R619, R627). -/
def spanTestDoneEffect (spans : Nat) (cores pcs spares banks zls pcies : List Nat) (addr bit count : Nat) (s : State) :
    State :=
  let s1 := ((List.range 8).filter (bitAt spans)).foldl (testSpan true) s
  let s2 := testUnits true cores pcs spares banks zls pcies s1
  let any := spans != 0 || !(cores ++ pcs ++ spares ++ banks ++ zls ++ pcies).isEmpty
  let s3 := (List.range 8).foldl spanZero (if any then reportAddr s2 addr bit count else s2)
  let s4 := setF (setF s3 fBistSummarySpansAbsent pgBist s3.pkg.spansGone.length) fBistSummaryPcsAbsent pgBist (pcsFailed s3)
  match workingSet s4 with
  | some c => startFail s4 c
  | none => toStage (putBoot s4 { s4.pkg.boot with spansDone := true }) (if s4.pkg.boot.imageDone then 4 else 2)

/-- SPAN_TEST_DONE (R617): the mask of failed spans, the failed units by number, and the first failing address and
bit with the number of bits. -/
def execSpanTestDone (spans : Fin 256) (cores pcs spares banks zls pcies : List Nat) (addr bit count : Nat) (s : State) :
    Host.Outcome State Fault Refusal :=
  .next (clocked s (if (stage s = 2 || stage s = 3) && !s.pkg.boot.spansDone
    then spanTestDoneEffect spans cores pcs spares banks zls pcies addr bit count s else s))

/-- Whether the unit of a retirement-list entry is present at this start-up (R622). -/
def entryApplies (s : State) (e : Nat) : Bool :=
  let sp := retSpan e
  match retKind e with
  | 0 => daOk s (65536 * retBlock e) && !spanDown s (cellSpan (cellOf s false (65536 * retBlock e)))
  | 1 => ctlLive s (pcNo sp (retUnit e)) && !spanDown s sp && !has s.pkg.causes (pgBlu sp (retUnit e) (retBank e))
  | 2 => ctlLive s (pcNo sp (retUnit e)) && !spanDown s sp
  | 3 => !coreAbsent s sp (retUnit e) && !spanDown s sp
  | 4 => !zlAbsent s (retUnit e)
  | 5 => !spanDown s sp
  | _ => false

/-- A retirement-list entry applied without a test; one that names an absent unit is passed over (R622). -/
def entryApply (s : State) (e : Nat) : State :=
  let sp := Fin.ofNat 8 (retSpan e)
  let c := retCause e
  if !entryApplies s e then s
  else
    let s1 := match retKind e with
      | 1 => bankReplace sp (Fin.ofNat 64 (retUnit e)) (retBank e) c s
      | 2 => pcRetire s (pcNo sp (retUnit e)) c
      | 3 => coreRetire s sp (retUnit e) c
      | 4 => zlRetire c s (retUnit e)
      | 5 => spanFail s sp c
      | _ => s
    bumpSat s1 fLcsRetlistApplied pgLcs

/-- Fenivar's own context (R378): ASID 0, partition 0, priority 7, bound to no function. -/
def fenivarCtx : Ctx := ⟨0, 7, 0, false, 128, false, 0, 0, 0, 0⟩

/-- Every free slot counts as blocked from now on (R391, R411). -/
def slotsFree (s : State) : State :=
  let free := (List.range 512).filter (fun k => !has s.core.slots k)
  { s with core := { s.core with slots := s.core.slots ++ free.map (fun k => (k, { emptySlot with since := s.tick })) } }

/-- Fenivar applies the retirement list and builds context 0; the package is READY (R614, R622). -/
def fwInitDoneEffect (s : State) : State :=
  let s1 := s.pkg.boot.retList.foldl entryApply s
  let s2 := { s1 with cx := { s1.cx with ctxs := put s1.cx.ctxs 0 fenivarCtx } }
  let s3 := putBoot (slotsFree s2) { s2.pkg.boot with beatAt := s.tick, sliceAt := s.tick }
  toStage (setF s3 fLcsStatusReadyTick pgLcs s.tick) 5

/-- FW_INIT_DONE (R614). -/
def execFwInitDone (s : State) : Host.Outcome State Fault Refusal :=
  .next (clocked s (if stage s = 4 then fwInitDoneEffect s else s))

/-! ### Life cycle (R609 to R613, R622) -/

/-- Whether a transition is legal: one of the table, with a service fuse left where it needs one (R611). -/
def transitionOk (s : State) (t : Nat) : Bool :=
  let l := s.pkg.boot.life
  (l == 0 && t == 1) || (l == 1 && t == 2) || (usesService l t && decide (s.pkg.boot.service < 64)) || (l != 4 && t == 4)

/-- LCS.REQ written: fuse programming starts, or a rejection (R611, R612). -/
def lcsReqEffect (confirm target m : Nat) (s : State) : State :=
  let b := s.pkg.boot
  if b.program.isSome then reject s pgLcs .busy m 0x108 0
  else if confirm ≠ getF s fOwnReinClaimEpoch pgOwn % 65536 then reject s pgLcs .range m 0x108 16
  else if !transitionOk s target then reject s pgLcs .range m 0x108 0
  else if usesService b.life target && m != 2 then reject s pgLcs .permission m 0x108 0
  else putBoot s { b with program := some (target, s.tick), programmed := false }

/-- LCS_REQ (R611). -/
def execLcsReq (confirm : Fin 65536) (target : Fin 8) (m : Nat) (s : State) : Host.Outcome State Fault Refusal :=
  .next (clocked s (guarded s pgLcs m 0x108 (lcsReqEffect confirm target m s)))

/-- Programming ends, on the standby rail; a package reset that waited for it is performed (R612). -/
def fuseProgramDoneEffect (s : State) : State :=
  let s1 := programEnd s
  if s.pkg.boot.resetPend then afterReset s1 else s1

/-- FUSE_PROGRAM_DONE (R612). -/
def execFuseProgramDone (s : State) : Host.Outcome State Fault Refusal :=
  .next (if s.pkg.boot.vmgmt && programming s then fuseProgramDoneEffect s else s)

/-- LCS_RESET (R613). -/
def execLcsReset (m : Nat) (s : State) : Host.Outcome State Fault Refusal :=
  .next (clocked s (guarded s pgLcs m 0x118 (packageReset s)))

/-- LCS.RETLIST.CLEAR written: the list is erased in MANUFACTURE and FIELD-SERVICE (R622, R629). -/
def retlistClearEffect (m : Nat) (s : State) : State :=
  if s.pkg.boot.life = 0 ∨ s.pkg.boot.life = 3 then putBoot s { s.pkg.boot with retList := [] }
  else reject s pgLcs .permission m 0x128 63

/-- RETLIST_CLEAR (R622). -/
def execRetlistClear (m : Nat) (s : State) : Host.Outcome State Fault Refusal :=
  .next (clocked s (guarded s pgLcs m 0x128 (retlistClearEffect m s)))

/-! ### Slices and tests (R623 to R627, R630) -/

/-- A slice or test starts (R630). -/
def bistStart (s : State) (b : BistRun) : State :=
  setF (setB (putBoot s { s.pkg.boot with bist := some b }) fBistStatusBusy pgBist true) fBistStatusResult pgBist 0

/-- A core emptied for a test: its slots evicted with SAVE, its retained windows saved (R624). -/
def coreEmpty (sp : Fin 8) (co : Fin 16) (s : State) : State :=
  let s1 := ([0, 1, 2, 3] : List (Fin 4)).foldl (fun acc (sl : Fin 4) =>
    if (getSlot acc (slotKey sp co sl)).ctx.isSome then evictSlot sp co sl true acc else acc) s
  (retainedWindows s1 sp co).foldl (fun acc x => saveRetained acc sp co x.1) s1

/-- A core slice starts. -/
def coreSliceStart (sp : Fin 8) (co : Fin 16) (s : State) : State := bistStart (coreEmpty sp co s) ⟨0, sp, co, 0, 0⟩

/-- Spares of a die that replace nothing and have not failed (R235). -/
def dieSpares (s : State) (sp : Fin 8) (die : Nat) : List (Fin 4) :=
  ([0, 1, 2, 3] : List (Fin 4)).filter (fun (k : Fin 4) =>
    !s.pkg.boot.sparesGone.contains (sp.val, die, k.val)
      && !([0, 1, 2, 3] : List Nat).any (fun p =>
        let st := getF s fPccSpareState (pgPcc sp (4 * die + p))
        (st == 1 || st == 2) && getF s fPccSpareSpare (pgPcc sp (4 * die + p)) == k.val))

/-- Pseudo-channels of a die, by position, whose bank can be copied: present, with no replacement. -/
def diePcs (s : State) (sp : Fin 8) (die : Nat) : List Nat :=
  [0, 1, 2, 3].filter (fun p =>
    let st := getF s fPccSpareState (pgPcc sp (4 * die + p))
    !pcGone s (pcNo sp (4 * die + p)) && st != 1 && st != 2)

/-- A bank slice starts: each bank of the group is copied to a free spare (R235, R625). -/
def bankSliceStart (sp : Fin 8) (die bank : Nat) (ps : List Nat) (s : State) : State :=
  let s1 := (List.zip ps (dieSpares s sp die)).foldl (fun acc x =>
    spareStartEffect sp (Fin.ofNat 64 (4 * die + x.1)) (Fin.ofNat 32 bank) x.2 4 acc) s
  bistStart s1 ⟨1, sp, ps.foldl (fun acc p => acc + 2 ^ p) 0, die, bank⟩

/-- Targets of periodic slices in turn: the 128 cores, then the banks of each die of each span. -/
def sliceTargets : Nat := 128 + 8 * 16 * 32

/-- Whether a target can be sliced now (R623, R624, R626). -/
def sliceOk (s : State) (t : Nat) : Bool :=
  if t < 128 then
    !spanDown s (t / 16) && !coreAbsent s (t / 16) (t % 16)
      && !(lockedMode s && coreScheduled s (t / 16) (t % 16))
      && !s.er.asked.contains (retEntry 3 (t / 16) (t % 16) 0 0 false)
  else
    let sp := Fin.ofNat 8 ((t - 128) / 512)
    let die := (t - 128) / 32 % 16
    !spanDown s sp && !(dieSpares s sp die).isEmpty && !(diePcs s sp die).isEmpty

/-- The target of the next periodic slice. -/
def sliceTarget (s : State) : Option Nat :=
  ((List.range sliceTargets).map (fun k => (s.pkg.boot.sliceNext + k) % sliceTargets)).find? (sliceOk s)

/-- SLICE_START comes about in FIELD and FIELD-SERVICE, INTERVAL ms after the last one, while none runs (R623). -/
def sliceStartReady (s : State) : Bool :=
  let b := s.pkg.boot
  let n := getF s fBistPeriodInterval pgBist
  stage s == 5 && (b.life == 2 || b.life == 3) && n != 0 && b.bist.isNone && decide (b.sliceAt + 1000000 * n ≤ s.tick)

/-- Fenivar starts the next slice in turn. -/
def sliceStartEffect (s : State) : State :=
  match sliceTarget s with
  | none => putBoot s { s.pkg.boot with sliceAt := s.tick }
  | some t =>
    let s1 := putBoot s { s.pkg.boot with sliceAt := s.tick, sliceNext := (t + 1) % sliceTargets }
    if t < 128 then coreSliceStart (Fin.ofNat 8 (t / 16)) (Fin.ofNat 16 t) s1
    else
      let sp := Fin.ofNat 8 ((t - 128) / 512)
      let die := (t - 128) / 32 % 16
      bankSliceStart sp die ((t - 128) % 32) ((diePcs s sp die).take (dieSpares s sp die).length) s1

/-- SLICE_START (R623). -/
def execSliceStart (s : State) : Host.Outcome State Fault Refusal :=
  .next (clocked s (if sliceStartReady s then sliceStartEffect s else s))

/-- A retirement that waited for the end of a slice (R626). -/
def waitedRetire (s : State) (e : Nat) : State :=
  let sp := Fin.ofNat 8 (retSpan e)
  if retPresent s (retKind e) sp (retUnit e) (retBank e) (retBlock e) then
    retUnitDo (retKind e) sp (Fin.ofNat 64 (retUnit e)) (Fin.ofNat 32 (retBank e)) (retBlock e) s
  else s

/-- A slice or test ends: its report, and the retirements that waited for it (R626, R627, R630). -/
def bistEnd (pass : Bool) (addr bit count : Nat) (s : State) : State :=
  let s1 := setF (bumpF (setB s fBistStatusBusy pgBist false) fBistStatusSlices pgBist) fBistStatusResult pgBist (if pass then 1 else 2)
  let s2 := if pass then s1 else reportAddr (setB s1 fBistStatusReport pgBist false) addr bit count
  let w := s2.pkg.boot.waiting
  w.foldl waitedRetire (putBoot s2 { s2.pkg.boot with bist := none, waiting := [] })

/-- A core slice's outcome: the core is released, or retired with CAUSE 2 (R624). -/
def coreSliceDoneEffect (pass : Bool) (addr bit count : Nat) (b : BistRun) (s : State) : State :=
  let s1 := if pass || coreAbsent s b.span b.unit then s
    else retNote (coreRetire s b.span b.unit 2) (retEntry 3 b.span b.unit 0 0 true)
  bistEnd pass addr bit count s1

/-- CORE_SLICE_DONE (R624): whether the tests passed, and the first failing address and bit. -/
def execCoreSliceDone (pass : Bool) (addr bit count : Nat) (s : State) : Host.Outcome State Fault Refusal :=
  .next (clocked s (match s.pkg.boot.bist with
    | some b => if b.kind = 0 then coreSliceDoneEffect pass addr bit count b s else s
    | none => s))

/-- One bank of a group at the end of its slice: it takes its place again when it has passed; it stays replaced
when it has not; if its spare has failed too, the pseudo-channel is retired (R625). -/
def bankSliceOne (sp : Fin 8) (die bank : Nat) (pass bad : Nat) (s : State) (p : Nat) : State :=
  let pc := Fin.ofNat 64 (4 * die + p)
  let pg := pgPcc sp pc
  let spare := getF s fPccSpareSpare pg
  let s1 := if bitAt bad p then testSpare s (64 * sp.val + 4 * die + spare) else s
  if getF s fPccSpareState pg ≠ 2 then s1
  else if bitAt pass p then setF s1 fPccSpareState pg 0
  else if bitAt bad p then retNote (pcRetire s1 (pcNo sp pc) 2) (retEntry 2 sp pc 0 0 true)
  else retNote (setCause s1 (pgBlu sp pc bank) 2) (retEntry 1 sp pc bank 0 true)

/-- BANK_SLICE_DONE comes about once no bank of the group is still being copied to its spare. -/
def bankSliceDoneReady (b : BistRun) (s : State) : Bool :=
  b.kind == 1 && [0, 1, 2, 3].all (fun p =>
    !bitAt b.unit p || pcGone s (pcNo b.span (4 * b.die + p)) || getF s fPccSpareState (pgPcc b.span (4 * b.die + p)) != 1)

/-- A bank slice's outcome, by masks over the die's pseudo-channels (R625). -/
def bankSliceDoneEffect (pass bad addr bit count : Nat) (b : BistRun) (s : State) : State :=
  let ps := [0, 1, 2, 3].filter (fun p => bitAt b.unit p && !pcGone s (pcNo b.span (4 * b.die + p)))
  bistEnd (ps.all (bitAt pass)) addr bit count (ps.foldl (bankSliceOne (Fin.ofNat 8 b.span) b.die b.first pass bad) s)

/-- BANK_SLICE_DONE (R625): masks of the banks that passed and of the spares that failed, by position in the die,
and the first failing address and bit. -/
def execBankSliceDone (pass bad : Fin 16) (addr bit count : Nat) (s : State) : Host.Outcome State Fault Refusal :=
  .next (clocked s (match s.pkg.boot.bist with
    | some b => if bankSliceDoneReady b s then bankSliceDoneEffect pass bad addr bit count b s else s
    | none => s))

/-- A BIST command refused with a code of Table: BIST refusal codes (R630). -/
def bistRefuse (s : State) (code : Nat) : State :=
  setF (setF s fBistStatusRefuse pgBist code) fBistStatusResult pgBist 3

/-- A command carried out, or refused with the first code that applies. -/
def bistDo (codes : List (Bool × Nat)) (eff : State → State) (s : State) : State :=
  match codes.find? (·.1) with
  | some c => bistRefuse s c.2
  | none => eff s

/-- Whether a core or bank test is open to a writer in this state (R630). -/
def bistUnitOpen (s : State) (m : Nat) : Bool :=
  s.pkg.boot.life == 0 || s.pkg.boot.life == 3 || (s.pkg.boot.life == 2 && m == 4)

/-- Whether a port or span test is open to a writer in this state (R630). -/
def bistWideOpen (s : State) (m : Nat) : Bool := (s.pkg.boot.life == 0 || s.pkg.boot.life == 3) && m != 4

/-- A core test asked for. -/
def bistCoreEffect (sp : Fin 8) (co : Fin 16) (m : Nat) (s : State) : State :=
  bistDo [(!bistUnitOpen s m, 1), (spanDown s sp || coreAbsent s sp co, 2),
    (lockedMode s && coreScheduled s sp co, 4), (s.pkg.boot.bist.isSome, 5),
    (s.er.asked.contains (retEntry 3 sp co 0 0 false), 6)] (coreSliceStart sp co) s

/-- BIST_CORE (R630). -/
def execBistCore (sp : Fin 8) (co : Fin 16) (m : Nat) (s : State) : Host.Outcome State Fault Refusal :=
  .next (clocked s (guarded s pgBist m 0x100 (bistCoreEffect sp co m s)))

/-- A bank test asked for: bank `first` of the lowest `n` pseudo-channels of a die. -/
def bistBanksEffect (sp : Fin 8) (die : Fin 16) (first : Nat) (n : Nat) (m : Nat) (s : State) : State :=
  let ps := List.range n
  let pcOf (p : Nat) : Nat := pcNo sp (4 * die.val + p)
  bistDo [(!bistUnitOpen s m, 1),
    (spanDown s sp || decide (32 ≤ first) || ps.any (fun p => pcGone s (pcOf p)), 2),
    ((dieSpares s sp die).length < n, 3), (s.pkg.boot.bist.isSome, 5),
    (ps.any (fun p => !(diePcs s sp die).contains p
      || s.er.asked.contains (retEntry 1 sp (4 * die.val + p) first 0 false)
      || s.er.asked.contains (retEntry 2 sp (4 * die.val + p) 0 0 false)), 6)] (bankSliceStart sp die first ps) s

/-- BIST_BANKS (R630). -/
def execBistBanks (sp : Fin 8) (die : Fin 16) (first : Fin 128) (more : Fin 4) (m : Nat) (s : State) :
    Host.Outcome State Fault Refusal :=
  .next (clocked s (guarded s pgBist m 0x100 (bistBanksEffect sp die first (more + 1) m s)))

/-- Whether a port of BIST.CMD is absent: 0 to 11 Zaskel, 12 and 13 PCIe. -/
def portMissing (s : State) (u : Nat) : Bool := if u < 12 then zlAbsent s u else decide (u ≥ 14) || !portFitted s (u - 12)

/-- A port test asked for: the port idles while it runs. -/
def bistPortEffect (u : Fin 16) (m : Nat) (s : State) : State :=
  bistDo [(!bistWideOpen s m, 1), (portMissing s u, 2), (s.pkg.boot.bist.isSome, 5)]
    (fun t => bistStart t ⟨2, zlSpan u, u, 0, 0⟩) s

/-- BIST_PORT (R630). -/
def execBistPort (u : Fin 16) (m : Nat) (s : State) : Host.Outcome State Fault Refusal :=
  .next (clocked s (guarded s pgBist m 0x100 (bistPortEffect u m s)))

/-- Whether every slot of a span is empty. -/
def spanEmpty (s : State) (sp : Nat) : Bool :=
  (List.range 64).all (fun k => (getSlot s (64 * sp + k)).ctx.isNone)

/-- A span test starts: its retained windows and its tile cache are saved first. -/
def spanSliceStart (sp : Fin 8) (s : State) : State :=
  let s1 := (List.range 16).foldl (fun acc c => coreEmpty sp (Fin.ofNat 16 c) acc) s
  bistStart ((s1.memo.tc.filter (fun l => l.span == sp.val)).foldl tcBack s1) ⟨3, sp, 0, 0, 0⟩

/-- A span test asked for. -/
def bistSpanEffect (sp : Fin 8) (m : Nat) (s : State) : State :=
  bistDo [(!bistWideOpen s m, 1), (spanDown s sp, 2), (s.pkg.boot.bist.isSome, 5), (!spanEmpty s sp, 6)]
    (spanSliceStart sp) s

/-- BIST_SPAN (R630). -/
def execBistSpan (sp : Fin 8) (m : Nat) (s : State) : Host.Outcome State Fault Refusal :=
  .next (clocked s (guarded s pgBist m 0x100 (bistSpanEffect sp m s)))

/-- A port or span test ends: failing units are set aside, and a span's memory is left zero and sealed (R617,
R630). `whole` is a failure that makes the span absent. -/
def bistDoneEffect (whole pass : Bool) (cores pcs spares banks : List Nat) (addr bit count : Nat) (b : BistRun) (s : State) :
    State :=
  if b.kind = 2 then
    bistEnd pass addr bit count
      (if pass then s else if b.unit < 12 then testZl false s b.unit else testPcie false s (b.unit - 12))
  else
    let at_ := 64 * b.span
    let s1 := if whole then testSpan false s b.span else s
    let s2 := testUnits false (cores.map (fun c => 16 * b.span + c % 16)) (pcs.map (fun p => at_ + p % 64))
      (spares.map (fun k => at_ + k % 64)) (banks.map (fun k => 32 * at_ + k % 2048)) [] [] s1
    let ok := !whole && (cores ++ pcs ++ spares ++ banks).isEmpty
    bistEnd ok addr bit count (spanZero s2 b.span)

/-- BIST_DONE (R627): the end of a port or span test, with the failed units of the span. -/
def execBistDone (whole pass : Bool) (cores pcs spares banks : List Nat) (addr bit count : Nat) (s : State) :
    Host.Outcome State Fault Refusal :=
  .next (clocked s (match s.pkg.boot.bist with
    | some b => if b.kind = 2 || b.kind = 3 then bistDoneEffect whole pass cores pcs spares banks addr bit count b s else s
    | none => s))

/-! ### Elapsed time (R647, R648, R652) -/

/-- TIME.CORR written whole; VALID is set. -/
def timeCorrWriteEffect (offset : Nat) (s : State) : State :=
  setF (setB (setF s fTimeCorrOffset pgTime offset) fTimeCorrStatValid pgTime true) fTimeCorrStatAt pgTime s.tick

/-- TIME_CORR_WRITE (R647). -/
def execTimeCorrWrite (offset m : Nat) (s : State) : Host.Outcome State Fault Refusal :=
  .next (clocked s (guarded s pgTime m 0x108 (timeCorrWriteEffect offset s)))

end Sys2Proof.Machine
end

