-- ==== Sys2Proof/Machine/RegRead.lean ====
section
/-!
DEFINITION. What a read of the register window returns (14, R517, R520, R522): which page an offset lies in, which
register, and the value of the registers that show other state.
-/
namespace Sys2Proof.Machine

/-! ### The register window map (R522) -/

/-- A block page: its block, its span (15 for the package), and its index as in BLK_ID.INSTANCE. -/
structure PageAt where
  blk : Blk
  span : Nat
  idx : Nat
  deriving DecidableEq, Repr

/-- The package page numbered `n`. -/
def packagePage (n : Nat) : Option PageAt :=
  let at_ (b : Blk) (i : Nat) : Option PageAt := some ⟨b, 15, i⟩
  if 16 ≤ n ∧ n < 28 then at_ .zl (n - 16)
  else if 40 ≤ n ∧ n < 49 then at_ .irqp (n - 40)
  else match n with
    | 0 => at_ .pkgId 0
    | 1 => at_ .own 0
    | 2 => at_ .hif 0
    | 3 => at_ .hif 1
    | 4 => at_ .frame 0
    | 5 => at_ .xinv 0
    | 6 => at_ .zroute 0
    | 7 => at_ .zwin 0
    | 8 => at_ .zsync 0
    | 32 => at_ .pwr 0
    | 33 => at_ .therm 0
    | 34 => at_ .jrnl 0
    | 35 => at_ .elog 0
    | 36 => at_ .bist 0
    | 37 => at_ .lcs 0
    | 38 => at_ .time 0
    | 39 => at_ .irq 0
    | _ => none

/-- Page `n` of span `sp`. -/
def spanPage (sp n : Nat) : Option PageAt :=
  if 1024 ≤ n ∧ n < 3136 then some ⟨.blu, sp, n - 1024⟩
  else if 128 ≤ n ∧ n < 192 then some ⟨.pcc, sp, n - 128⟩
  else if 64 ≤ n ∧ n < 128 then
    some ⟨(match n % 4 with | 0 => .cq | 1 => .tly | 2 => .lmx | _ => .ldst), sp, (n - 64) / 4⟩
  else match n with
    | 0 => some ⟨.tc, sp, 0⟩
    | 1 => some ⟨.numev, sp, 0⟩
    | 2 => some ⟨.dmaev, sp, 0⟩
    | 3 => some ⟨.stk, sp, 0⟩
    | 4 => some ⟨.ctxs, sp, 0⟩
    | 5 => some ⟨.xlt, sp, 0⟩
    | 6 => some ⟨.sched, sp, 0⟩
    | 7 => some ⟨.zring, sp, 0⟩
    | 8 => some ⟨.serr, sp, 0⟩
    | _ => none

/-- A page of the window, by number. -/
def pageAt (pg : Nat) : Option PageAt :=
  if pg < 4096 then packagePage pg
  else if pg < 36864 then spanPage (pg / 4096 - 1) (pg % 4096)
  else none

/-! ### Absent pages (R5, R7, R9, R140, R280, R628) -/

/-- Die of a spare lane unit from its index. -/
def spareDie (idx : Nat) : Nat := (idx - 2048) / 4

/-- Whether the unit of a block page is a spare lane unit. -/
def isSpareUnit (x : PageAt) : Bool := x.blk == .blu && decide (2048 ≤ x.idx)

/-- CAUSE of the unit of a pseudo-channel. -/
def pcCause (s : State) (span pc pg : Nat) : Nat :=
  if pc ≥ pcCount s then 1 else if (getPcc s (pcNo span pc)).failed then look s.pkg.causes pg 3 else 0

/-- Whether a visible bank has been remapped to a spare. -/
def remapped (s : State) (n bank : Nat) : Bool :=
  getF s fPccSpareState (pccPage n) == 2 && getF s fPccSpareLbank (pccPage n) == bank

/-- CAUSE of a lane unit. -/
def bluCause (s : State) (span idx : Nat) : Nat :=
  let pg := pgSpan span (1024 + idx)
  if idx < 2048 then
    let c := pcCause s span (idx / 32) (pgPcc span (idx / 32))
    if c ≠ 0 then c else if remapped s (pcNo span (idx / 32)) (idx % 32) then look s.pkg.causes pg 3 else 0
  else
    let die := (idx - 2048) / 4
    if 4 * die ≥ pcCount s then 1
    else if s.pkg.boot.sparesGone.contains (span, die, idx % 4) then look s.pkg.causes pg 2
    else if [0, 1, 2, 3].all (fun p => pcGone s (pcNo span (4 * die + p))) then
      look s.pkg.causes (pgPcc span (4 * die)) 3
    else 0

/-- CAUSE of a core's pages: what took it out of use, or 1 for one that its grade's fuses turn off, which the fuses give
before any page becomes readable (R20). -/
def coreCause (s : State) (span core : Nat) : Nat :=
  let c := look s.core.absent (coreNo span core) 0
  if c ≠ 0 then c else if has (fusedCores s) (coreNo span core) then 1 else 0

/-- CAUSE of BLK_ID: 0 for a present unit, or why it is absent. -/
def pageCause (s : State) (x : PageAt) : Nat :=
  if x.span < 8 ∧ spanDown s x.span then look s.pkg.spansGone x.span 3
  else match x.blk with
    | .zl =>
      if s.fuse.gradeS ∧ 8 ≤ x.idx then 1 else if zlAbsent s x.idx then look s.pkg.causes (pgZl x.idx) 3 else 0
    | .hif => if s.pkg.boot.portsGone.contains x.idx then look s.pkg.causes (pgHif x.idx) 3 else 0
    | .irqp => if x.idx < 8 ∧ spanDown s x.idx then look s.pkg.spansGone x.idx 3 else 0
    | .cq => coreCause s x.span x.idx
    | .tly => coreCause s x.span x.idx
    | .lmx => coreCause s x.span x.idx
    | .ldst => coreCause s x.span x.idx
    | .pcc => pcCause s x.span x.idx (pgPcc x.span x.idx)
    | .blu => bluCause s x.span x.idx
    | _ => 0

/-! ### Registers of a page -/

/-- A register found at an offset: the register, its element and its fields. -/
structure RegAt where
  reg : Reg
  k : Nat
  flds : List RField
  deriving DecidableEq, Repr

/-- The element of a row that lies at an offset. -/
def rowAt (off : Nat) (r : RegRow) : Option RegAt :=
  let d := off - r.off
  if off < r.off ∨ r.count ≤ d / r.stride ∨ r.count2 ≤ d % r.stride / r.stride2 ∨ d % r.stride % r.stride2 ≠ 0 then none
  else some ⟨r.reg, r.count2 * (d / r.stride) + d % r.stride / r.stride2, r.flds⟩

/-- The register at an offset of a block's page. -/
def regAt (b : Blk) (off : Nat) : Option RegAt := (rowsHdr ++ blkRows b).findSome? (rowAt off)

/-! ### Quiescence (R22, R23) -/

/-- Whether every submission ring of both ports is disabled (R524). -/
def ringsOff (s : State) : Bool :=
  (List.range 128).all (fun fn => (List.range 16).all (fun q => !getB s fFnSqCfgEnable (pgFn fn) q))

/-- Whether no entry of a disabled submission ring is being read (R526). -/
def ringQuiet (s : State) (fn q : Nat) : Bool :=
  !getB s fFnSqCfgEnable (pgFn fn) q && !s.ho.subs.any (fun p => p.1 == (fn, q))

/-- Whether a send ring is disabled and nothing of it is in flight (R488). -/
def sendQuiet (s : State) (span r : Nat) : Bool :=
  !getB s fZringCfgEnable (pgZring span) r && (getRing s (64 * span + r)).isEmpty

/-- Whether the RW-Q fields of a register may change, as its chapter defines quiescence. -/
def regQuiet (s : State) (x : PageAt) (r : Reg) (k : Nat) : Bool :=
  match r with
  | .pccOrdArea => (getPcc s (pcNo x.span x.idx)).staged.isEmpty
  | .pccNbSave =>
    !(getPcc s (pcNo x.span x.idx)).seqs.any (fun q =>
        match q.st with | .saved _ => true | .faulted _ k _ => k.isSome | _ => false)
  | .xltFringBase => (look s.cx.faults x.span []).isEmpty
  | .xltFringCtrl => (look s.cx.faults x.span []).isEmpty
  | .frameCtrl => !frameRunning s
  | .framePeriod => !frameRunning s
  | .zsyncCfg => !frameRunning s
  | .schedTable => !getB s fSchedVstatBusy (pgSched x.span)
  | .schedCount => !getB s fSchedVstatBusy (pgSched x.span)
  | .zlCfg => zlState s x.idx == 0 || zlState s x.idx == 7
  | .zrouteSelf => (List.range 12).all (fun p => zlState s p == 0)
  | .zwinBase => !(List.range 12).any (zlActive s)
  | .zringBase => sendQuiet s x.span k
  | .zringCfg => sendQuiet s x.span k
  | .ownSeqNext => ringsOff s
  | .fnSqBase => ringQuiet s x.idx k
  | .fnSqCfg => ringQuiet s x.idx k
  | .fnSqHead => ringQuiet s x.idx k
  | .fnCqBase => ringQuiet s x.idx k
  | .jrnlCtrl => s.ho.items.isEmpty
  | .jrnlArea0 => s.ho.items.isEmpty
  | .jrnlArea1 => s.ho.items.isEmpty
  | .jrnlRcpt => s.ho.items.isEmpty
  | _ => true

/-- BLK_STATUS.QUIESCENT: every quiescence condition of the block holds (R517). -/
def pageQuiet (s : State) (x : PageAt) : Bool :=
  (blkRows x.blk).all (fun r => (List.range (r.count * r.count2)).all (fun k =>
    !r.flds.any (fun f => f.ty == .rwq) || regQuiet s x r.reg k))

/-! ### Registers that show other state -/

/-- A field put into a register's value. -/
def fput (v : Nat) (f : RField) (x : Nat) : Nat := setBits v f.lo f.w x

/-- A number in two's complement of `w` bits. -/
def twos (w : Nat) (x : Int) : Nat := (x % ((2 ^ w : Nat) : Int)).toNat

/-- BLK_ID of a page (R517, R522). -/
def blkIdVal (s : State) (x : PageAt) : Nat :=
  let c := pageCause s x
  fput (fput (fput (fput (fput 0 fBlkIdMajor 1) fBlkIdCause c) fBlkIdPresent (if c = 0 then 1 else 0))
    fBlkIdInstance (4096 * x.span + x.idx)) fBlkIdType (blkType x.blk)

/-- PKG_ID.GRADE (R4). -/
def gradeVal (s : State) : Nat :=
  let a := !s.fuse.gradeS
  fput (fput (fput (fput 0 fPkgIdGradeZlPortMask (if a then 0xFFF else 0x0FF)) fPkgIdGradeDiesPerStack (if a then 16 else 12))
    fPkgIdGradeCoresPerSpan (if a then 16 else 15)) fPkgIdGradeGradeCode (if a then 1 else 2)

/-- PKG_ID.STRAPS from the straps as sampled (R598, R599): a flash speed of 3 is taken as 0, and it or a 1 on straps
7:6 is bad. -/
def strapsVal (v : Nat) : Nat :=
  let bad := bits v 4 2 == 3 || bits v 6 2 != 0
  fput (fput (v % 4096) fPkgIdStrapsFlSpeed (if bits v 4 2 = 3 then 0 else bits v 4 2)) fPkgIdStrapsBad (if bad then 1 else 0)

/-- Format counts of the selected context (R87). -/
def numevOf (s : State) (span : Nat) : NumCnt :=
  look s.cx.numev (span, getF s fNumevCtxSelCtx (pgNumev span)) ⟨0, 0, 0, 0, 0⟩

/-- Data-movement counts of the selected context (R207). -/
def dmaevOf (s : State) (span : Nat) : DmaCnt :=
  look s.cx.dmaev (span, getF s fDmaevCtxSelCtx (pgDmaev span)) ⟨0, 0, 0, 0, 0⟩

/-- CQ.CREDIT of a core (R126, R142). -/
def creditVal (s : State) (span core : Nat) : Nat :=
  let c (e : Nat) : Nat := credEngine s (coreNo span core) e
  fput (fput (fput (fput (fput (fput 0 fCqCreditTotal (c 0 + c 1 + c 2 + c 3 + c 4)) fCqCreditNb (c 4)) fCqCreditSt (c 3))
    fCqCreditVx (c 2)) fCqCreditMx (c 1)) fCqCreditLd (c 0)

/-- Number of a queue state (R142). -/
def qstateNo : QState → Nat
  | .idle => 0 | .run => 1 | .wait => 2 | .credit => 3 | .haltReq => 4 | .haltErr => 5 | .fault => 6

/-- CQ.SLOT_STATE of a slot. -/
def slotStateVal (s : State) (key : Nat) : Nat :=
  let p := (getSlot s key).part
  let st (e : Nat) : Nat := qstateNo (partQueue p e).st * 16 ^ e
  fput (fput 0 fCqSlotStateLaunches p.launches.length) fCqSlotStateState (st 0 + st 1 + st 2 + st 3 + st 4)

/-- CQ.SLOT_CTX of a slot. -/
def slotCtxVal (s : State) (key : Nat) : Nat :=
  match (getSlot s key).ctx with
  | some c => fput (fput (fput 0 fCqSlotCtxPrio (getSlot s key).prio) fCqSlotCtxValid 1) fCqSlotCtxCtx c
  | none => 0

/-- CQ.WAITING of a queue. -/
def waitingVal (q : Queue) : Nat :=
  if q.st = .wait then fput (fput 0 fCqWaitingTally q.waitTally) fCqWaitingTarget q.waitTarget else 0

/-- LMX.WIN of a slot. -/
def winVal (s : State) (span core sl : Nat) : Nat :=
  let size := match (getSlot s (slotKey span core sl)).ctx with
    | some c => (match getCtx s c with | some d => d.win | none => 0)
    | none => 0
  fput (rdR s .lmxWin (pgLmx span core) sl) fLmxWinSize size

/-- LDST.XACT of a core: the transactions of a command complete within its step, so that between commands only
speculative reads are outstanding and hold credits (R131, R208). -/
def xactVal (s : State) (span core : Nat) : Nat :=
  let n := specHeld s (coreNo span core)
  fput (fput 0 fLdstXactHeld (min n 1024)) fLdstXactSpec (min n 256)

/-- PCC.NB_STATE of a controller. -/
def nbStateVal (s : State) (n : Nat) : Nat :=
  let p := getPcc s n
  let saved := (p.seqs.filter (fun q =>
    match q.st with | .saved _ => true | .faulted _ k _ => k.isSome | _ => false)).length
  let v := fput (fput (fput 0 fPccNbStateSaved saved) fPccNbStateQueued (min 32 p.seqs.length)) fPccNbStateSlotsEff (slotsEff s n)
  match chainSeq p with
  | some q => fput (fput v fPccNbStateRunValid 1) fPccNbStateRunCtx q.ctx
  | none => v

/-- Lowest stitch of the running sequence that has not started. -/
def nbNextVal (s : State) (n : Nat) : Nat :=
  match chainSeq (getPcc s n) with
  | some q => fput 0 fPccNbNextStitch q.next
  | none => 0

/-- Pseudo-channel and logical bank that a lane unit serves, by its index on the span. -/
def unitServes (s : State) (span idx : Nat) : Option (Nat × Nat) :=
  if idx < 2048 then
    if remapped s (pcNo span (idx / 32)) (idx % 32) then none else some (idx / 32, idx % 32)
  else
    let die := (idx - 2048) / 4
    match [0, 1, 2, 3].find? (fun p =>
      getF s fPccSpareState (pgPcc span (4 * die + p)) == 2 && getF s fPccSpareSpare (pgPcc span (4 * die + p)) == idx % 4) with
    | some p => some (4 * die + p, getF s fPccSpareLbank (pgPcc span (4 * die + p)))
    | none => none

/-- BLU.MAP of a lane unit (R280). DESIGN CHOICE: the table gives PC and LBANK of a unit that serves no bank no value; they
read as 0 (log entry 100). -/
def mapVal (s : State) (span idx : Nat) : Nat :=
  let v := fput 0 fBluMapSpare (if idx < 2048 then 0 else 1)
  match unitServes s span idx with
  | some x => fput (fput (fput v fBluMapActive 1) fBluMapPc x.1) fBluMapLbank x.2
  | none => v

/-- Number of a stitch kind in BLU.STATE.KIND. -/
def stitchNo : StitchKind → Nat
  | .compute => 1 | .write => 2 | .update => 3 | .row => 4 | .verify => 5 | .burnish => 6 | .save => 7

/-- BLU.STATE of a lane unit (R280): drains and reduces are whole steps, so that DRAIN reads 0 between them. -/
def bluStateVal (s : State) (span idx : Nat) : Nat :=
  match unitServes s span idx with
  | none => 0
  | some x =>
    let p := getPcc s (pcNo span x.1)
    let v := match chainSeq p with | some q => fput 0 fBluStateCtx q.ctx | none => 0
    match (p.seqs.flatMap (·.running)).find? (fun t => t.bank == x.2) with
    | some t => fput (fput v fBluStateStitch t.num) fBluStateKind (stitchNo t.kind)
    | none => v

/-- CTXS.STORE of a span (R411). -/
def storeVal (s : State) (span : Nat) : Nat :=
  let mine := s.cx.recs.filter (fun p => p.1.1 == span)
  let store := mine.filter (fun p => p.2.tier == .store)
  fput (fput (fput 0 fCtxsStoreSwapped (mine.length - store.length))
    fCtxsStoreRunnable (store.filter (fun p => p.2.runnable != 0)).length) fCtxsStoreUsed store.length

/-- CTXS.BLOCKED of a slot; zero for an absent core (R391, R411, R413). -/
def blockedVal (s : State) (key : Nat) : Nat :=
  let x := getSlot s key
  if x.blocked && stage s == 5 && !coreAbsent s (keySpan key) (keyCore key) then fput (fput 0 fCtxsBlockedBlocked 1) fCtxsBlockedSince x.since else 0

/-- SERR.BKT_LEVEL of the selected bucket (R533, R561). -/
def bucketVal (s : State) (span : Nat) : Nat :=
  let pg := pgSerr span
  let b := look s.er.buckets (span, getF s fSerrBktSelClass pg, getF s fSerrBktSelIndex pg) ⟨0, 0, 0⟩
  fput (fput 0 fSerrBktLevelOverflows b.overflows) fSerrBktLevelLevel b.level

/-- A truth value as a bit at a place. -/
def bitTo (b : Bool) (i : Nat) : Nat := if b then 2 ^ i else 0

/-- Word `w` of an error-log entry (R543). -/
def elogWord (e : ElogEntry) : Nat → Nat
  | 0 => e.seq % 2 ^ 32 + 2 ^ 32 * (e.cls % 256) + bitTo e.nested 40 + bitTo e.spec 41 + bitTo e.handled 42 + bitTo e.first 43
  | 1 => e.tick
  | 2 => e.span % 16 + 2 ^ 4 * (e.unit % 4096) + 2 ^ 16 * (e.index % 4096) + 2 ^ 28 * (e.bank % 32)
  | 3 => e.addr
  | 4 => e.syndrome % 2 ^ 32 + 2 ^ 32 * (e.symbol % 64) + bitTo e.va 38
  | 5 => e.ctx % 4096 + 2 ^ 12 * (e.code % 256)
  | 6 => e.cmdVa
  | _ => 0

/-- ELOG.DATA of the selected entry (R562). -/
def elogVal (s : State) (w : Nat) : Nat :=
  match s.er.elog.find? (fun e => e.seq == getF s fElogSelSeq pgElog) with
  | some e => elogWord e w
  | none => 0

/-- JRNL.STATUS (R563). -/
def jrnlVal (s : State) : Nat :=
  let on := getB s fJrnlCtrlEnable pgJrnl
  fput (fput (fput 0 fJrnlStatusArea1Ok (if on && !spanDown s 4 then 1 else 0))
    fJrnlStatusArea0Ok (if on && !spanDown s 0 then 1 else 0)) fJrnlStatusOpen s.ho.items.length

/-- THERM.READ of the selected sensor (R565, R585). -/
def thermVal (s : State) : Nat :=
  let n := getF s fThermSelSensor pgTherm
  let x := getSensor s n
  let v := fput (fput 0 fThermReadClass (sensorClass n)) fThermReadFailed (if x.failed then 1 else 0)
  match x.last with
  | some r => fput (fput v fThermReadValid 1) fThermReadTemp (tempBits r)
  | none => v

/-- LCS.STATE (R611, R629). The fuses are read before the page becomes readable (R20). -/
def lcsVal (s : State) : Nat :=
  let b := if stage s = 0 then fusesRead s.pkg.boot else s.pkg.boot
  let v := fput (fput 0 fLcsStateService b.service) fLcsStateState b.life
  match b.program with
  | some p => fput (fput v fLcsStatePendValid 1) fLcsStatePending p.1
  | none => v

/-- Number of a source state (R650). -/
def srcNo : SrcSt → Nat
  | .inactive => 0 | .pending => 1 | .active => 2 | .activePending => 3

/-- IRQP.STATE of a control core (R636, R650). -/
def irqpVal (s : State) (core : Nat) : Nat :=
  let st := irqStack s core
  let top := if s.pkg.irq.empty.contains core then 0xFFF else st.headD 0xFFF
  let v := fput (fput (fput 0 fIrqpStateHighest ((irqHighest s core).getD 0xFFF)) fIrqpStateDepth st.length) fIrqpStateTop top
  match st with
  | t :: _ => fput (fput v fIrqpStateRunValid 1) fIrqpStateRunPrio (idPrio s core t)
  | [] => v

/-- IRQP.PRIV of a source. -/
def privVal (s : State) (core j : Nat) : Nat :=
  fput (fput (rdR s .irqpPriv (pgIrqp core) j) fIrqpPrivState (srcNo (getPriv s core j)))
    fIrqpPrivKind (if privEdge core j then 1 else 0)

/-- IRQ.CFG of the selected source (R651). -/
def irqCfgVal (s : State) : Nat :=
  let n := getF s fIrqSelSrc pgIrq
  let x := getShared s n
  fput (fput (fput (fput (fput 0 fIrqCfgState (srcNo x.st)) fIrqCfgKind (if sharedEdge n then 1 else 0))
    fIrqCfgEnable (if x.enable then 1 else 0)) fIrqCfgPrio x.prio) fIrqCfgTarget (x.held.getD x.target)

/-- A staged register's value, or its live value where nothing is staged (R22). -/
def stagedVal22 (s : State) (r : Reg) (pg k : Nat) : Nat :=
  let old := rdR s r pg k
  let m := stagedMask r
  match s.staged.find? (fun e => e.1 = (r, pg, k)) with
  | some e => old - (old &&& m) + (e.2.toNat &&& m)
  | none => old

/-- Masters that are eligible, as a mask (R512, R524). -/
def eligibleMask (s : State) : Nat := [0, 1, 2, 3].foldl (fun acc m => acc + bitTo (eligible s m) m) 0

/-- The current value of a register of a page, its write-only fields included. DESIGN CHOICE: a read of the tick lags by 0
of the 0 to 4 ticks that R43 lets it lag (log entry 73). -/
def regShow (s : State) (x : PageAt) (pg : Nat) (r : Reg) (k : Nat) : Nat :=
  let v := rdR s r pg k
  match r with
  | .blkId => blkIdVal s x
  | .blkStatus =>
    fput (fput v fBlkStatusStaged (if hasStaged s pg then 1 else 0)) fBlkStatusQuiescent (if pageQuiet s x then 1 else 0)
  | .blkIrqPend => blkIrqPend s pg
  | .pkgIdGrade => gradeVal s
  | .pkgIdStraps => strapsVal s.pkg.boot.straps
  | .numevSat => (numevOf s x.span).sat
  | .numevNanLost => (numevOf s x.span).nanLost
  | .numevScaleInvalid => (numevOf s x.span).scaleInvalid
  | .numevIntSat => (numevOf s x.span).intSat
  | .numevSticky => (numevOf s x.span).sticky
  | .dmaevOobRead => (dmaevOf s x.span).oobR
  | .dmaevOobWrite => (dmaevOf s x.span).oobW
  | .dmaevOobIndex => (dmaevOf s x.span).oobI
  | .dmaevCoalesced => (dmaevOf s x.span).coal
  | .dmaevSticky => (dmaevOf s x.span).sticky
  | .cqCredit => creditVal s x.span x.idx
  | .cqSlotCtx => slotCtxVal s (slotKey x.span x.idx k)
  | .cqSlotState => slotStateVal s (slotKey x.span x.idx k)
  | .cqSlotPred => (getSlot s (slotKey x.span x.idx k)).part.preds
  | .cqPc => (getQ s (slotKey x.span x.idx (k / 5)) (k % 5)).pc
  | .cqWaiting => waitingVal (getQ s (slotKey x.span x.idx (k / 5)) (k % 5))
  | .tlyValue =>
    let slot := getSlot s (slotKey x.span x.idx (getF s fTlySelSlot pg))
    if slot.ctx.isSome then tallyOf slot.part k else 0
  | .lmxWin => winVal s x.span x.idx k
  | .tcStatus => fput v fTcStatusDirtyLines (tcDirtyLines s x.span)
  | .ldstXact => xactVal s x.span x.idx
  | .pccState =>
    let p := getPcc s (pcNo x.span x.idx)
    fput (fput v fPccStateOwed (twos 5 p.owed)) fPccStateQueued (min 256 p.reqs.length)
  | .pccExpress => stagedVal22 s r pg k
  | .pccPart => stagedVal22 s r pg k
  | .pccNbCfg => stagedVal22 s r pg k
  | .frameIdle => stagedVal22 s r pg k
  | .pccOrdStat =>
    let p := getPcc s (pcNo x.span x.idx)
    fput (fput v fPccOrdStatLines (stagedLines p).length) fPccOrdStatStaged p.staged.length
  | .pccPartTok => fput v fPccPartTokTokens (twos 18 (look (getPcc s (pcNo x.span x.idx)).tokens k 0 / 100))
  | .pccNbState => nbStateVal s (pcNo x.span x.idx)
  | .pccNbNext => nbNextVal s (pcNo x.span x.idx)
  | .pccUnseal => fput v fPccUnsealEntries (getPcc s (pcNo x.span x.idx)).unsealed.length
  | .bluMap => mapVal s x.span x.idx
  | .bluState => bluStateVal s x.span x.idx
  | .ctxsStore => storeVal s x.span
  | .ctxsBlocked => blockedVal s (slotKey x.span (k / 4) (k % 4))
  | .xltFringCtrl => fput v fXltFringCtrlHeld (min 64 (look s.cx.faults x.span []).length)
  | .zrouteEntry => rdR s r pg (getF s fZrouteSelIndex pg)
  | .zsyncStatus => fput v fZsyncStatusActiveParent (if isMember s then activeParent s else 0)
  | .ownEligible => eligibleMask s
  | .serrBktLevel => bucketVal s x.span
  | .elogStatus => fput v fElogStatusPending (s.er.elog.filter (fun e => !e.handled)).length
  | .elogData => elogVal s k
  | .jrnlStatus => jrnlVal s
  | .thermRead => thermVal s
  | .pwrSwfreq => if spanDown s k then 0 else v
  | .pwrAct => if spanDown s k then 0 else v
  | .lcsState => lcsVal s
  | .lcsRetlist => fput v fLcsRetlistEntries s.pkg.boot.retList.length
  | .irqpState => irqpVal s x.idx
  | .irqpPriv => privVal s x.idx k
  | .irqCfg => irqCfgVal s
  | .timeTick => s.tick
  | _ => v

/-- The value that a read of a register returns: write-only and reserved fields read zero (R21, R22). -/
def regRead (s : State) (x : PageAt) (pg : Nat) (r : RegAt) : Nat :=
  let v := regShow s x pg r.reg r.k
  r.flds.foldl (fun acc f => if f.ty = .wo then acc else fput acc f (bits v f.lo f.w)) 0

/-! ### Reads of the window (R520, R522, R595, R610, R619) -/

/-- Whether the state of start-up leaves a page readable. -/
def pageOpen (s : State) (x : PageAt) : Bool :=
  if stage s < 6 then true
  else x.blk == .pkgId || x.blk == .lcs || (stage s == 6 && x.blk == .bist)

/-- A read of an aligned offset of the window. -/
def windowRead (s : State) (off : Nat) : Nat :=
  match pageAt (off / 4096) with
  | none => 0
  | some x =>
    match regAt x.blk (off % 4096) with
    | none => 0
    | some r =>
      if pageOpen s x && (r.reg == .blkId || pageCause s x == 0) then regRead s x (off / 4096) r else 0

/-- Whether an access has the width and the alignment that R19 asks. -/
def accessOk (size off : Nat) : Bool := size == 8 && off % 8 == 0

/-- A read of `size` bytes at an offset of the window: all ones for another width or alignment (R520). -/
def windowReadOf (s : State) (size off : Nat) : Nat :=
  if accessOk size off then windowRead s off else 2 ^ 64 - 1

/-- A read of `size` bytes of a function's page by that function: its registers and doorbells, and zero from pages 2
to 15 (R495). -/
def fnPageRead (s : State) (fn size off : Nat) : Nat :=
  if !accessOk size off then 2 ^ 64 - 1
  else if 8192 ≤ off then 0
  else match regAt .fn off with
    | none => 0
    | some r => regRead s ⟨.fn, 14, fn⟩ (pgFn fn) r

end Sys2Proof.Machine
end

