-- ==== Sys2Proof/Machine/RegOps.lean ====
section
/-!
DEFINITION. Writes of registers through the register window, the function pages and the management path (R19 to R23,
R513, R516 to R522): the gate, the range and quiescence checks, the effect of each field type, and the registers
whose write is an action.
-/
namespace Sys2Proof.Machine

/-! ### Field types (R22, R23) -/

/-- A staged field written: its value waits for a commit; one equal to the live value is no longer staged (R517). -/
def stageField (s : State) (pg k v : Nat) (f : RField) : State :=
  let now := setBits (stagedVal22 s f.reg pg k) f.lo f.w (bits v f.lo f.w)
  let key : Reg × Nat × Nat := (f.reg, pg, k)
  if now = rdR s f.reg pg k then { s with staged := del s.staged key }
  else { s with staged := put s.staged key (BitVec.ofNat 64 now) }

/-- One field of a write, by its type (R22). -/
def fieldApply (pg k v : Nat) (s : State) (f : RField) : State :=
  let x := bits v f.lo f.w
  let old := getF s f pg k
  match f.ty with
  | .rwl => setF s f pg x k
  | .rwq => setF s f pg x k
  | .rws => stageField s pg k v f
  | .w1c => setF s f pg (old - (old &&& x)) k
  | .w1s => setF s f pg (old ||| x) k
  | _ => s

/-- Every field of a write, each by its own type (R23). -/
def plainWrite (s : State) (pg : Nat) (r : RegAt) (v : Nat) : State := r.flds.foldl (fieldApply pg r.k v) s

/-- Whether a write would change a field. -/
def changes (s : State) (pg k v : Nat) (f : RField) : Bool := bits v f.lo f.w != getF s f pg k

/-- The first RW-Q field that a write would change while it is not quiescent, in the order of the table (R23). -/
def quietFails (s : State) (x : PageAt) (pg : Nat) (r : RegAt) (v : Nat) : Option RField :=
  r.flds.find? (fun f => f.ty == .rwq && changes s pg r.k v f && !regQuiet s x r.reg r.k)

/-! ### Ranges and permissions of values -/

/-- A rejection where a test holds. -/
def rejIf (b : Bool) (c : Rej) (lsb : Nat) : Option (Rej × Nat) := if b then some (c, lsb) else none

/-- Whether an area of 24 save rows overlaps the staging rows of a controller (R270, R279). -/
def saveOverlaps (s : State) (pg base : Nat) : Bool :=
  let b := getF s fPccOrdAreaBaseRow pg
  let n := getF s fPccOrdAreaSize pg
  n != 0 && decide (b < base + 24) && decide (base < b + n)

/-- Whether a software frequency is a multiple of 50 MHz from 1,000 to 2,200 (R584). -/
def mhzOk (f : Nat) : Bool := f % 50 == 0 && decide (1000 ≤ f) && decide (f ≤ 2200)

/-- Whether every present controller has the staging rows that journaling needs (R547). -/
def journalRows (s : State) : Bool :=
  (List.range 512).all (fun n => pcGone s n || spanDown s (n / 64) || decide (65 ≤ getF s fPccOrdAreaSize (pccPage n)))

/-- Whether a 4 GiB area in units of 4 GiB lies in a span's stack (R563). -/
def areaOn (s : State) (base span : Nat) : Bool :=
  daOk s (2 ^ 32 * base + 2 ^ 32 - 1) && cellSpan (cellOf s false (2 ^ 32 * base)) == span

/-- Whether a mask of Zaskel ports names an absent one (R483). -/
def namesAbsent (s : State) (mask : Nat) : Bool := (List.range 12).any (fun p => bitAt mask p && zlAbsent s p)

/-- Why a write of a register of the window is rejected for its value: code and lowest bit of the field. A value
that leaves an RW-Q field unchanged is always accepted (R22). -/
def windowRange (s : State) (x : PageAt) (pg m : Nat) (r : RegAt) (v : Nat) : Option (Rej × Nat) :=
  let ch (f : RField) : Bool := changes s pg r.k v f
  let at_ (f : RField) : Nat := bits v f.lo f.w
  match r.reg with
  | .blkCtrl => rejIf (at_ fBlkCtrlMinorSel != 0) .range 0
  | .pccOrdArea =>
    (rejIf (ch fPccOrdAreaSize && decide (1024 < at_ fPccOrdAreaSize)) .range 16).or
      (rejIf ((ch fPccOrdAreaSize || ch fPccOrdAreaBaseRow)
        && decide (32768 < at_ fPccOrdAreaBaseRow + at_ fPccOrdAreaSize)) .range 0)
  | .pccPart => rejIf (r.k == 0 && at_ fPccPartEnable == 1) .range 40
  | .pccNbCfg =>
    (rejIf (at_ fPccNbCfgQuantum == 0) .range 16).or
      (rejIf (at_ fPccNbCfgSlots == 0 || decide (16 < at_ fPccNbCfgSlots)) .range 0)
  | .pccNbSave =>
    rejIf ((ch fPccNbSaveEnable || ch fPccNbSaveBaseRow) && (decide (32768 < at_ fPccNbSaveBaseRow + 24)
      || (at_ fPccNbSaveEnable == 1 && saveOverlaps s pg (at_ fPccNbSaveBaseRow)))) .range 0
  | .ctxsStallLimit => rejIf (at_ fCtxsStallLimitLimit == 0 || decide (50 < at_ fCtxsStallLimitLimit)) .range 0
  | .xltFringCtrl => rejIf (decide (at_ fXltFringCtrlSizeLog2 < 6) || decide (16 < at_ fXltFringCtrlSizeLog2)) .range 0
  | .xinvCmd => rejIf (at_ fXinvCmdKind == 3) .range 12
  | .framePeriod =>
    rejIf (ch fFramePeriodPeriod && (decide (at_ fFramePeriodPeriod < 10000) || decide (100000000 < at_ fFramePeriodPeriod))) .range 0
  | .frameIdle => rejIf (at_ fFrameIdleDuty == 0 || decide (16 < at_ fFrameIdleDuty)) .range 0
  | .zsyncCfg =>
    (rejIf (at_ fZsyncCfgRole == 3) .range 0).or
      ((rejIf (ch fZsyncCfgParent && zlAbsent s (at_ fZsyncCfgParent)) .absent 4).or
        (rejIf (ch fZsyncCfgAltParent && zlAbsent s (at_ fZsyncCfgAltParent)) .absent 8))
  | .zrouteEntry =>
    (rejIf (namesAbsent s (at_ fZrouteEntryPrimary)) .absent 0).or
      ((rejIf (namesAbsent s (at_ fZrouteEntryAlt)) .absent 12).or
        (rejIf (namesAbsent s (at_ fZrouteEntryDateline)) .absent 24))
  | .zringCfg =>
    (rejIf (ch fZringCfgCore && coreAbsent s x.span (at_ fZringCfgCore)) .absent 20).or
      (rejIf (decide (at_ fZringCfgSizeLog2 < 5) || decide (12 < at_ fZringCfgSizeLog2)) .range 4)
  | .ownSeqNext => rejIf (at_ fOwnSeqNextSeq == 0) .range 0
  | .hifAper => rejIf (ch fHifAperBase && 2 ^ 30 * at_ fHifAperBase % 2 ^ look s.ho.aper x.idx 36 != 0) .range 30
  | .serrBktCfg =>
    (rejIf (at_ fSerrBktCfgLeak == 0) .range 32).or (rejIf (at_ fSerrBktCfgDepth == 0) .range 0)
  | .serrScrub => rejIf (at_ fSerrScrubPeriod == 0) .range 0
  | .elogMirrorCount => rejIf (decide (4096 < at_ fElogMirrorCountEntries)) .range 0
  | .jrnlCtrl => rejIf (ch fJrnlCtrlEnable && at_ fJrnlCtrlEnable == 1 && !journalRows s) .range 0
  | .jrnlArea0 => rejIf (ch fJrnlArea0Base && !areaOn s (at_ fJrnlArea0Base) 0) .range 32
  | .jrnlArea1 => rejIf (ch fJrnlArea1Base && !areaOn s (at_ fJrnlArea1Base) 4) .range 32
  | .jrnlRcpt =>
    (rejIf (at_ fJrnlRcptWindow == 0) .range 8).or
      (rejIf (decide (at_ fJrnlRcptSizeLog2 < 20) || decide (26 < at_ fJrnlRcptSizeLog2)) .range 0)
  | .pwrLimit => rejIf (decide (at_ fPwrLimitFallbackW < 600) || decide (3000 < at_ fPwrLimitFallbackW)) .range 24
  | .pwrSwfreq =>
    (rejIf (!mhzOk (at_ fPwrSwfreqMaxMhz)) .range 16).or
      (rejIf (!mhzOk (at_ fPwrSwfreqMinMhz) || decide (at_ fPwrSwfreqMaxMhz < at_ fPwrSwfreqMinMhz)) .range 0)
  | .thermSel => rejIf (decide (103 < at_ fThermSelSensor)) .range 0
  | .thermRate => rejIf (at_ fThermRateRate == 0) .range 0
  | .bistPeriod => rejIf (m != 4 && (s.pkg.boot.life == 1 || s.pkg.boot.life == 2)) .permission 0
  | _ => none

/-- Whether a value written to FN.CQ_HEAD lies above CQ_TAIL; of two free-running counts of 32 bits the one up to 2³¹
ahead is above the other (R526). DEDUCED: what above means for counts that wrap (log entry 116). -/
def cqAbove (s : State) (fn q v : Nat) : Bool :=
  let d := (2 ^ 32 + v - getF s fFnSqStateCqTail (pgFn fn) q) % 2 ^ 32
  decide (0 < d) && decide (d < 2 ^ 31)

/-- The same for a register of a function page (R496, R502, R507, R526, R642). -/
def fnRange (s : State) (fn : Nat) (r : RegAt) (v : Nat) : Option (Rej × Nat) :=
  let pg := pgFn fn
  let at_ (f : RField) : Nat := bits v f.lo f.w
  let busy (k : Nat) : Bool := getF s fFnMbStateState pg k == 1 || getF s fFnMbStateState pg k == 2
  let beyond (x : Nat) : Bool := decide (msixEntries fn ≤ x)
  match r.reg with
  | .blkCtrl => rejIf (at_ fBlkCtrlMinorSel != 0) .range 0
  | .fnSqCfg =>
    (rejIf (beyond (at_ fFnSqCfgVector)) .range 13).or
      (rejIf (decide (at_ fFnSqCfgSizeLog2 < 6) || decide (16 < at_ fFnSqCfgSizeLog2)) .range 8)
  | .fnCqBase => rejIf (decide (at_ fFnCqBaseSizeLog2 < 6) || decide (16 < at_ fFnCqBaseSizeLog2)) .range 0
  | .fnCqHead => rejIf (cqAbove s fn r.k (at_ fFnCqHeadHead)) .range 0
  | .fnTsigTgt =>
    let ctx := at_ fFnTsigTgtCtx
    rejIf (ctx == 0 || ctxFunc s ctx != fn || (getCtx s ctx).isNone) .permission 0
  | .fnMbCmd => rejIf (busy (r.k / 8)) .busy 0
  | .fnMbGo => rejIf (at_ fFnMbGoGo == 1 && busy r.k) .busy 16
  | .fnBlkVec => rejIf (beyond (at_ fFnBlkVecVector)) .range 0
  | _ => none

/-! ### The common header (R517, R518) -/

/-- BLK_COMMIT.COMMIT written (R518): a commit with nothing staged has no effect. -/
def commitAsk (s : State) (pg : Nat) : State := if hasStaged s pg then setB s fBlkStatusCommitPend pg true else s

/-- BLK_COMMIT.DISCARD written (R517). -/
def discardAsk (s : State) (pg : Nat) : State :=
  setB { s with staged := s.staged.filter (fun e => e.1.2.1 ≠ pg) } fBlkStatusCommitPend pg false

/-- A header register written. -/
def headWrite (s : State) (pg : Nat) (r : RegAt) (v : Nat) : State :=
  let s1 := plainWrite s pg r v
  match r.reg with
  | .blkErr => if getF s1 fBlkErrAcc pg = 0 then setF (setB s1 fBlkErrFirstValid pg false) fBlkErrCount pg 0 else s1
  | .blkWstat => if bitAt v 8 then setF s1 fBlkWstatCount pg 0 else s1
  | .blkCommit =>
    let s2 := if bitAt v 0 then commitAsk s1 pg else s1
    if bitAt v 1 then discardAsk s2 pg else s2
  | _ => s1

/-! ### Registers whose write is an action -/

/-- CQ.SLOT_CTRL written: halts, resumes, and an abort, in that order (R139, R142). -/
def slotCtrlWrite (sp : Fin 8) (co : Fin 16) (sl : Fin 4) (m v : Nat) (s : State) : State :=
  let s1 := slotResumeEffect sp co sl (bits v 8 5) m (slotHaltEffect sp co sl (bits v 0 5) m s)
  if bitAt v 16 then slotAbortEffect sp co sl m s1 else s1

/-- PCC.SPARE written: a replacement starts, or the selection changes while none is in place (R238). -/
def spareWrite (sp : Fin 8) (pc : Fin 64) (m v : Nat) (s : State) : State :=
  let pg := pgPcc sp pc
  let st := getF s fPccSpareState pg
  if bitAt v 0 then spareStartEffect sp pc (Fin.ofNat 32 (bits v 8 5)) (Fin.ofNat 4 (bits v 16 2)) m s
  else if st = 1 ∨ st = 2 then reject s pg .busy m 0x120 0
  else setF (setF s fPccSpareSpare pg (bits v 16 2)) fPccSpareLbank pg (bits v 8 5)

/-- PCC.RED_CTRL written: settles first, then writes the buffer back (R238). -/
def redCtrlWrite (n v : Nat) (s : State) : State :=
  let s1 := if bitAt v 0 then settleAll s n else s
  if bitAt v 1 then bufWb s1 n else s1

/-- XINV.CMD written: rejected while an invalidation runs, and otherwise GO starts one (R401, R413). -/
def xinvWrite (m v : Nat) (s : State) : State :=
  if getB s fXinvStatusBusy pgXinv then reject s pgXinv .busy m 0x110 0
  else if !bitAt v 16 then s
  else match bits v 12 2 with
    | 0 => xinvStart s ⟨0, bits v 0 12, 4096 * getF s fXinvVaVa pgXinv, getF s fXinvLenPages pgXinv⟩ m
    | 1 => xinvStart s ⟨1, bits v 0 12, 0, 0⟩ m
    | _ => xinvStart s ⟨2, 0, 0, 0⟩ m

/-- FRAME.CTRL.MODE taken; the cap in force in the new cadence is the limit, with no decrease waiting, and in locked cadence
the contexts of the active tables are pinned (R429, R572). -/
def modeWrite (v : Nat) (s : State) : State :=
  if bits v 0 1 = getF s fFrameCtrlMode pgFrame then s
  else
    let s1 := setF s fFrameCtrlMode pgFrame (bits v 0 1)
    let s2 := putPower s1 { s1.pkg.power with capLimit := limitW s1, decs := [] }
    if lockedMode s2 then dropHostWaiting (pinAll s2) else s2

/-- FRAME.CTRL written: MODE, then ACTIVATE, STOP and START; an activation or a start that is rejected rejects the
whole write (R448, R519). -/
def frameCtrlWrite (m v : Nat) (s : State) : State :=
  let s1 := modeWrite v s
  if bitAt v 3 && !(schedSpans s1).all (fun sp => getB s1 fSchedVstatStaged (pgSched sp)) then
    reject s pgFrame .range m 0x100 3
  else if bitAt v 1 && !frameRunning s1 && (!tablesFit s1 || (lockedMode s1 && !clusterReady s1)) then
    reject s pgFrame .range m 0x100 1
  else
    let s2 := if bitAt v 3 then frameActivateEffect m s1 else s1
    let s3 := if bitAt v 2 then frameStopEffect s2 else s2
    if bitAt v 1 then frameClockStartEffect m s3 else s3

/-- The synchronisation of a role that has ended forgotten; the root's depth and offset are zero (R475, R480). DEDUCED: log
entry 112. -/
def syncClear (s : State) : State :=
  let off (f : RField) (t : State) : State := setB t f pgZsync false
  let s1 := off fZsyncStatusOnAlt (off fZsyncStatusHoldover (off fZsyncStatusLocked (off fZsyncStatusPeriodMismatch s)))
  let s2 := setF (off fZsyncStatusDeep s1) fZsyncStatusDepth pgZsync 0
  let s3 := { s2 with pkg := { s2.pkg with link := { s2.pkg.link with holdAt := none, close := 0, beatAt := s.tick } } }
  if getF s fZsyncCfgRole pgZsync = 1 then setF s3 fZsyncOffsetDelta pgZsync 0 else s3

/-- ZSYNC.CFG written; a role that changes starts afresh (R475, R487). -/
def zsyncCfgWrite (pg : Nat) (r : RegAt) (v : Nat) (s : State) : State :=
  let s1 := plainWrite s pg r v
  if getF s1 fZsyncCfgRole pgZsync = getF s fZsyncCfgRole pgZsync then s1 else syncClear s1

/-- ZL.CFG written: the port's settings, and ENABLE where it changes (R453, R484). -/
def zlCfgWrite (p m v : Nat) (s : State) : State :=
  let pg := pgZl p
  let s1 := setF (setF s fZlCfgDim pg (bits v 2 2)) fZlCfgAllowX4 pg (bits v 1 1)
  if bits v 0 1 = getF s fZlCfgEnable pg then s1
  else if bitAt v 0 then zlEnableEffect p m s1
  else zlEnter (setB s1 fZlCfgEnable pg false) p 0

/-- ZL.CTRL written: a restart or a retrain that the state does not allow rejects the write (R484). -/
def zlCtrlWrite (p m v : Nat) (s : State) : State :=
  if bitAt v 1 && zlState s p != 7 then reject s (pgZl p) .range m 0x140 1
  else if bitAt v 0 && !zlActive s p then reject s (pgZl p) .range m 0x140 0
  else if bitAt v 1 then zlRestartEffect p m s
  else if bitAt v 0 then zlRetrainEffect p m s
  else s

/-- ZRING.CFG written: the ring's settings, then ENABLE (R469, R488). -/
def zringCfgWrite (sp : Fin 8) (r : Fin 64) (v : Nat) (s : State) : State :=
  let pg := pgZring sp
  let s1 := setF (setF (setF s fZringCfgCore pg (bits v 20 4) r) fZringCfgCtx pg (bits v 8 12) r) fZringCfgSizeLog2 pg (bits v 4 4) r
  zringEnableEffect sp r (bitAt v 0) s1

/-- BIST.CMD written with GO (R630). -/
def bistCmdWrite (m v : Nat) (s : State) : State :=
  let sp := Fin.ofNat 8 (bits v 10 3)
  if bits v 4 4 ≥ 4 then reject s pgBist .range m 0x100 4
  else if !bitAt v 0 then s
  else match bits v 4 4 with
    | 0 => bistCoreEffect sp (Fin.ofNat 16 (bits v 13 4)) m s
    | 1 => bistBanksEffect sp (Fin.ofNat 16 (bits v 17 4)) (bits v 21 7) (bits v 28 2 + 1) m s
    | 2 => bistPortEffect (Fin.ofNat 16 (bits v 13 4)) m s
    | _ => bistSpanEffect sp m s

/-- Sticky bits of the selected context's format counts cleared (R87). -/
def numevStickyClear (span v : Nat) (s : State) : State :=
  let key := (span, getF s fNumevCtxSelCtx (pgNumev span))
  if has s.cx.numev key then
    let c := numevOf s span
    { s with cx := { s.cx with numev := put s.cx.numev key { c with sticky := c.sticky - (c.sticky &&& v % 64) } } }
  else s

/-- Sticky bits of the selected context's data-movement counts cleared (R207). -/
def dmaevStickyClear (span v : Nat) (s : State) : State :=
  let key := (span, getF s fDmaevCtxSelCtx (pgDmaev span))
  if has s.cx.dmaev key then
    let c := dmaevOf s span
    { s with cx := { s.cx with dmaev := put s.cx.dmaev key { c with sticky := c.sticky - (c.sticky &&& v % 8) } } }
  else s

/-- A register of a span's page written. -/
def spanWrite (sp : Fin 8) (x : PageAt) (pg m : Nat) (r : RegAt) (v : Nat) (s : State) : State :=
  let co : Fin 16 := Fin.ofNat 16 x.idx
  let pc : Fin 64 := Fin.ofNat 64 x.idx
  match r.reg with
  | .numevSticky => numevStickyClear sp v s
  | .numevClear =>
    if bitAt v 1 then numevClear s sp (fun _ => true)
    else if bitAt v 0 then numevClear s sp (fun c => c == getF s fNumevCtxSelCtx (pgNumev sp))
    else s
  | .dmaevSticky => dmaevStickyClear sp v s
  | .dmaevClear =>
    if bitAt v 1 then dmaevClear s sp (fun _ => true)
    else if bitAt v 0 then dmaevClear s sp (fun c => c == getF s fDmaevCtxSelCtx (pgDmaev sp))
    else s
  | .cqSlotCtrl => slotCtrlWrite sp co (Fin.ofNat 4 r.k) m v s
  | .tlySignal => tlySignalEffect sp co (Fin.ofNat 128 (bits v 48 7)) (bits v 0 48) m s
  | .tlyScopeChk => if bitAt v 0 then scopeChkEnableEffect sp co s else plainWrite s pg r v
  | .tcCtrl =>
    if bitAt v 0 then tcFlushAllEffect sp m s
    else if getB s fTcStatusFlushBusy pg then reject s pg .busy m 0x100 0 else s
  | .pccSpare => spareWrite sp pc m v s
  | .pccRedCtrl => redCtrlWrite (pcNo sp pc) v s
  | .pccUnsealCtrl =>
    if bitAt v 0 then burnishAllEffect sp pc m s
    else if getB s fPccUnsealBurnishBusy pg then reject s pg .busy m 0x628 0 else s
  | .ctxsEvict => ctxEvictEffect sp (Fin.ofNat 16 (bits v 0 4)) (Fin.ofNat 4 (bits v 4 2)) (bitAt v 8) m s
  | .ctxsSwitch =>
    ctxSwitchEffect sp (Fin.ofNat 16 (bits v 12 4)) (Fin.ofNat 4 (bits v 16 2)) (bits v 0 12) (bits v 18 7) m s
  | .xltFresume => fresumeAll s sp (bits v 12 4) (bits v 0 12) (bits v 16 5) (bitAt v 24)
  | .schedLoad => if bitAt v 0 then schedLoadEffect sp m s else s
  | .schedArm => schedArmEffect sp (Fin.ofNat 64 r.k) v m s
  | .zringCfg => zringCfgWrite sp (Fin.ofNat 64 r.k) v s
  | .serrFlip => flipArmEffect sp v m s
  | .serrAlias => serrSubstituteEffect sp (Fin.ofNat 16 r.k) (Fin.ofNat 16 (bits v 0 4)) (bitAt v 4) m s
  | _ => plainWrite s pg r v

/-- A register of a package page written. -/
def packageWrite (x : PageAt) (pg m : Nat) (r : RegAt) (v : Nat) (s : State) : State :=
  match r.reg with
  | .xinvCmd => xinvWrite m v s
  | .frameCtrl => frameCtrlWrite m v s
  | .zlCfg => zlCfgWrite x.idx m v s
  | .zlCtrl => zlCtrlWrite x.idx m v s
  | .zrouteEntry => plainWrite s pg { r with k := getF s fZrouteSelIndex pg } v
  | .zsyncCfg => zsyncCfgWrite pg r v s
  | .zwinInval => if bitAt v 16 then zwinInvalEffect (bitAt v 12) (Fin.ofNat 4096 (bits v 0 12)) m s else s
  | .elogDone => elogDoneEffect (bits v 0 32) m s
  | .elogClear =>
    let s1 := if bitAt v 1 then setF s fElogStatusLost pgElog 0 else s
    if bitAt v 0 then elogClearFirst s1 else s1
  | .elogRetire => elogRetireEffect (bits v 62 2) (bits v 16 24) m s
  | .pwrLearn =>
    let s1 := plainWrite s pg r v
    if bitAt v 1 then learnResetEffect s1 else s1
  | .pwrTrClear => trClearEffect (bits v 0 7) s
  | .pwrSwfreq => clockNote (plainWrite s pg r v)
  | .lcsReq => lcsReqEffect (bits v 16 16) (bits v 0 3) m s
  | .lcsCtrl => if bitAt v 0 then packageReset s else s
  | .lcsRetlist => if bitAt v 63 then retlistClearEffect m s else s
  | .bistCmd => bistCmdWrite m v s
  | .irqCfg =>
    irqTargetWriteEffect (Fin.ofNat 16 (bits v 0 4)) (Fin.ofNat 16 (bits v 12 4)) (bitAt v 16) m s
  | .irqSwSet => irqSwSetEffect (bits v 0 10) m s
  | .irqEoi => irqEoiEffect (Fin.ofNat 1024 (bits v 0 10)) m s
  | .timeCorr => timeCorrWriteEffect v s
  | _ => plainWrite s pg r v

/-- Whether an offset belongs to the common header. -/
def isHead (lo : Nat) : Bool := decide (lo < 0x100)

/-- A write of a defined register of a present page by a master that may write it: rejected whole for a field that is
not quiescent or a value out of range, or else applied (R22, R23, R519). -/
def blockWrite (x : PageAt) (pg m lo : Nat) (r : RegAt) (v : Nat) (s : State) : State :=
  match quietFails s x pg r v with
  | some f => reject s pg .quiesce m lo f.lo
  | none =>
    match windowRange s x pg m r v with
    | some c => reject s pg c.1 m lo c.2
    | none =>
      if isHead lo then headWrite s pg r v
      else if x.span < 8 then spanWrite (Fin.ofNat 8 x.span) x pg m r v s
      else packageWrite x pg m r v s

/-! ### OWN and IRQP pages (R513, R514, R524, R640) -/

/-- An accepted write of the OWN page by the holder counts as a heartbeat (R514). -/
def beatIf (m : Nat) (s : State) : State := if m < 4 ∧ holder s = m then beat s else s

/-- OWN.REIN_CLAIM written (R514, R524). -/
def reinWrite (m v : Nat) (s : State) : State :=
  match v % 8 with
  | 0 => match writeGate s pgOwn m with
    | some c => reject s pgOwn c m 0x100 0
    | none => beatIf m s
  | 1 => reinClaimEffect m s
  | 2 => reinAcceptEffect m s
  | 4 => holderWrite s m 0x100 (reinsTo (beat s) 7)
  | _ => reject s pgOwn .range m 0x100 0

/-- A write of the OWN page. -/
def ownWrite (m lo v : Nat) (s : State) : State :=
  match lo with
  | 0x100 => reinWrite m v s
  | 0x108 => holderWrite s m 0x108 (handoverStartEffect m (bits v 16 3) s)
  | 0x110 => holderWrite s m 0x110 (beat s)
  | _ => match writeGate s pgOwn m with
    | some c => reject s pgOwn c m lo 0
    | none => match regAt .own lo with
      | none => reject s pgOwn .width m lo 0
      | some r =>
        match quietFails s ⟨.own, 15, 0⟩ pgOwn r v with
        | some f => reject s pgOwn .quiesce m lo f.lo
        | none => match windowRange s ⟨.own, 15, 0⟩ pgOwn m r v with
          | some c => reject s pgOwn c.1 m lo c.2
          | none => beatIf m (if isHead lo then headWrite s pgOwn r v else plainWrite s pgOwn r v)

/-- A register of a control core's own page written by that core (R635 to R641, R650). -/
def irqpOwnWrite (i lo v : Nat) (s : State) : State :=
  let pg := pgIrqp i
  match regAt .irqp lo with
  | none => reject s pg .width 4 lo 0
  | some r =>
    if isHead lo then
      (match windowRange s ⟨.irqp, 15, i⟩ pg 4 r v with
       | some c => reject s pg c.1 4 lo c.2
       | none => headWrite s pg r v)
    else match r.reg with
      | .irqpClaim => if bitAt v 0 then irqClaimEffect i s else s
      | .irqpComplete => irqCompleteEffect i (bits v 0 12) s
      | .irqpStackReset => if bitAt v 0 then irqEmpty i s else s
      | .irqpTimer =>
        let s1 := plainWrite s pg r v
        putIrq s1 { s1.pkg.irq with timerFired := s1.pkg.irq.timerFired.filter (· ≠ i) }
      | _ => plainWrite s pg r v

/-- A write of an IRQP page; `w` is the writer as `irqOwn` numbers it. -/
def irqpWrite (i w lo v : Nat) (s : State) : State :=
  if lo = 0x120 then irqpSwSetEffect i (bits v 0 16) w s else irqOwn s i w lo (irqpOwnWrite i lo v s)

/-! ### The register window (R513, R520, R522) -/

/-- A write of `size` bytes at an offset of the register window by a master; `who` is the control core when the
master is 4. -/
def windowWrite (m who off size v : Nat) (s : State) : State :=
  let pg := off / 4096
  let lo := off % 4096
  match pageAt pg with
  | none => rejectPath s .width m lo 0
  | some x =>
    if size ≠ 8 ∨ off % 8 ≠ 0 then rejectPath s .width m lo 0
    else if pageCause s x ≠ 0 then rejectPath s .absent m lo 0
    else match x.blk with
      | .own => ownWrite m lo v s
      | .irqp => irqpWrite x.idx (if m = 4 then who else 9 + m) lo v s
      | _ => match writeGate s pg m with
        | some c => reject s pg c m lo 0
        | none => match regAt x.blk lo with
          | none => reject s pg .width m lo 0
          | some r => blockWrite x pg m lo r v s

/-- When a write of the window comes about: the OWN page lies in the management island, and the management
controller also reaches the PKG_ID page while the clocks do not run (R36, R595). -/
def windowStep (s : State) (m off : Nat) (t : State) : State :=
  if off / 4096 = pgOwn then islanded s m t
  else if off / 4096 = pgPkgId ∧ m = 2 then (if s.pkg.boot.vmgmt then t else s)
  else clocked s t

/-! ### Function pages (R495, R501, R507, R526) -/

/-- FN.MB_GO written: the slot is submitted (R507). -/
def mbGo (fn k tag : Nat) (s : State) : State :=
  let pg := pgFn fn
  let s1 := setB (setF s fFnMbStateTag pg tag k) fFnMbStateTakeover pg false k
  let s2 := mbSet { s1 with ho := { s1.ho with
      mb := s1.ho.mb ++ [(fn, k)], mbAt := put s1.ho.mbAt (fn, k) s1.tick } } fn k 1 0
  if mbServed s2 then mbClear s2 else s2

/-- FN.SQ_CFG written: the ring's settings, then ENABLE (R501, R526). -/
def sqCfgWrite (fn : Fin 128) (q : Fin 16) (v : Nat) (s : State) : State :=
  let pg := pgFn fn
  let s1 := setF (setF s fFnSqCfgVector pg (bits v 13 11) q) fFnSqCfgSizeLog2 pg (bits v 8 5) q
  sqEnableEffect fn q (bitAt v 0) (setF s1 fFnSqCfgKind pg (bits v 1 1) q)

/-- A register of a function page written. -/
def fnRegWrite (fn : Fin 128) (lo : Nat) (r : RegAt) (v : Nat) (s : State) : State :=
  let pg := pgFn fn
  let q : Fin 16 := Fin.ofNat 16 r.k
  if isHead lo then headWrite s pg r v
  else match r.reg with
    | .fnSqCfg => sqCfgWrite fn q v s
    | .fnCqHead => cqFullNote (plainWrite s pg r v) fn q
    | .fnTsigAdd => tsigAddEffect fn (bits v 0 48) s
    | .fnMbGo => if bitAt v 16 then mbGo fn r.k (bits v 0 16) (privEdgeEvent s 8 (15 + fn / 64)) else s
    | .fnDb => doorbellEffect fn q (bits v 0 32) s
    | _ => plainWrite s pg r v

/-- A function page's block interrupt looked at again: one that is no longer asserted may assert anew (R645). -/
def fnIrqNote (fn : Nat) (s : State) : State :=
  if blkIrq s (pgFn fn) then s
  else putIrq s { s.pkg.irq with fnAsserted := s.pkg.irq.fnAsserted.filter (· ≠ fn) }

/-- A write of a function page: pages 2 to 15 discard it (R495). -/
def fnPageBody (fn : Fin 128) (off size v : Nat) (s : State) : State :=
  let pg := pgFn fn
  let m := fn.val / 64
  if size ≠ 8 ∨ off % 8 ≠ 0 then rejectPath s .width m off 0
  else if 8192 ≤ off then s
  else match regAt .fn off with
    | none => reject s pg .width m off 0
    | some r =>
      match quietFails s ⟨.fn, 14, fn⟩ pg r v with
      | some f => reject s pg .quiesce m off f.lo
      | none => match fnRange s fn r v with
        | some c => reject s pg c.1 m off c.2
        | none => fnIrqNote fn (fnRegWrite fn off r v s)

/-- A write of a function page by its function. -/
def fnPageWrite (fn : Fin 128) (off size v : Nat) (s : State) : State :=
  fnWrite s fn off 0 (fnPageBody fn off size v s)

/-! ### The commands -/

/-- REGISTER_WRITE (R22): a write of `size` bytes, by a master to the register window, or by function `who` to its
function page. -/
def execRegisterWrite (fnPage : Bool) (who off size v m : Nat) (s : State) : Host.Outcome State Fault Refusal :=
  .next (if fnPage then (if who < 128 then clocked s (fnPageWrite (Fin.ofNat 128 who) off size (v % 2 ^ 64) s) else s)
    else windowStep s m off (windowWrite m who off size (v % 2 ^ 64) s))

/-- BLK_COMMIT (R518): a master writes BLK_COMMIT.COMMIT of a page of the window. -/
def execBlkCommit (pg m : Nat) (s : State) : Host.Outcome State Fault Refusal :=
  .next (windowStep s m (4096 * pg) (windowWrite m (pg - 40) (4096 * pg + 0x40) 8 1 s))

/-- BLK_DISCARD (R517): a master writes BLK_COMMIT.DISCARD of a page of the window. -/
def execBlkDiscard (pg m : Nat) (s : State) : Host.Outcome State Fault Refusal :=
  .next (windowStep s m (4096 * pg) (windowWrite m (pg - 40) (4096 * pg + 0x40) 8 2 s))

/-- COMMIT_APPLY comes about while a commit waits and the block is at its quiescent point: a controller with no
request queued (R238). FRAME's is the cycle boundary, which FRAME_START meets; no other page has staged fields. -/
def commitApplyReady (pg : Nat) (s : State) : Bool :=
  getB s fBlkStatusCommitPend pg
    && (match pageAt pg with
        | some x => x.blk == .pcc && pageCause s x == 0 && (getPcc s (pcNo x.span x.idx)).reqs.isEmpty
        | none => false)

/-- The pending commit of a controller's page takes effect. -/
def commitApplyEffect (pg : Nat) (s : State) : State :=
  match pageAt pg with
  | some x => pccCommit s (pcNo x.span x.idx)
  | none => s

/-- COMMIT_APPLY (R518). -/
def execCommitApply (pg : Nat) (s : State) : Host.Outcome State Fault Refusal :=
  .next (clocked s (if commitApplyReady pg s then commitApplyEffect pg s else s))

/-! ### The management path (R516, R595) -/

/-- Whether the I3C target answers: it has its rail and its dynamic address. -/
def i3cUp (s : State) : Bool := s.pkg.boot.vmgmt && s.ho.i3cAddr

/-- Whether the management path reaches an offset: all of the window while the clocks run; with the clocks gated the
island's own pages; without power-good only PKG_ID and THERM.TRIP (R569, R595). -/
def i3cReach (s : State) (off : Nat) : Bool :=
  running s || off / 4096 == pgPkgId || off == 4096 * pgTherm + 0x130 || (off / 4096 == pgOwn && islandRuns s)

/-- The result of a transfer kept for the next private read. -/
def i3cKeep (st data : Nat) (s : State) : State := { s with ho := { s.ho with i3cRes := some (st, data, s.tick) } }

/-- Status and data of a read over I3C. -/
def i3cReadOf (len off : Nat) (s : State) : Nat × Nat :=
  let size := if len = 5 then 8 else 0
  if !accessOk size off then (5, windowReadOf s size off)
  else if i3cReach s off then (0, windowReadOf s size off) else (2, 0)

/-- A transfer of another length or alignment recorded in the management path's page, OWN (R19, R520). -/
def i3cWidth (off : Nat) (s : State) : State := if islandRuns s then rejectPath s .width 2 (off % 4096) 0 else s

/-- I3C_REG_READ (R516): a private write of `len` bytes whose form byte is 0x01. -/
def execI3cRegRead (len off : Nat) (s : State) : Host.Outcome State Fault Refusal :=
  .next (if i3cUp s then
    let r := i3cReadOf len (off % 2 ^ 32) s
    i3cKeep r.1 r.2 (if r.1 = 5 then i3cWidth off s else s)
  else s)

/-- The code that a write by the management controller meets, 0 where it is accepted: the one that BLK_WSTAT of the
page or of OWN takes. -/
def i3cWriteCode (off v : Nat) (s : State) : Nat :=
  let pg := off / 4096
  let s0 := setF (setF s fBlkWstatCode pg 0) fBlkWstatCode pgOwn 0
  let t := windowWrite 2 0 off 8 v s0
  let c := getF t fBlkWstatCode pg
  if c ≠ 0 then c else getF t fBlkWstatCode pgOwn

/-- A write over I3C: performed, with its status kept. -/
def i3cWriteEffect (len off v : Nat) (s : State) : State :=
  if len ≠ 13 then i3cKeep 5 0 (i3cWidth off s)
  else if !i3cReach s off then i3cKeep 2 0 s
  else
    let t := windowStep s 2 off (windowWrite 2 0 off 8 v s)
    if t.ho.i3cAddr then i3cKeep (i3cWriteCode off v s) 0 t else t

/-- I3C_REG_WRITE (R516): a private write of `len` bytes whose form byte is 0x02. -/
def execI3cRegWrite (len off v : Nat) (s : State) : Host.Outcome State Fault Refusal :=
  .next (if i3cUp s then i3cWriteEffect len (off % 2 ^ 32) (v % 2 ^ 64) s else s)

/-- I3C_RESULT_DISCARD comes about once a result has waited for 10,000,000 ticks. -/
def i3cResultDiscardReady (s : State) : Bool :=
  match s.ho.i3cRes with
  | some r => decide (10000000 + r.2.2 ≤ s.tick)
  | none => false

/-- I3C_RESULT_DISCARD (R516). -/
def execI3cResultDiscard (s : State) : Host.Outcome State Fault Refusal :=
  .next (if s.pkg.boot.vmgmt && i3cResultDiscardReady s then { s with ho := { s.ho with i3cRes := none } } else s)

end Sys2Proof.Machine
end

