-- ==== Sys2Proof/Machine/Dispatch.lean ====
section
/-!
DEFINITION. The dispatch: one arm per command, each one direct call of its meaning.
-/
namespace Sys2Proof.Machine

/-- What each command does to everything but the queue of waiting commands. -/
def exec (i : Instr) (s : State) : Host.Outcome State Fault Refusal :=
  match i with
  | .powerGoodRise straps => Sys2Proof.Machine.execPowerGoodRise straps s
  | .powerGoodLoss => Sys2Proof.Machine.execPowerGoodLoss s
  | .vmgmtRise => Sys2Proof.Machine.execVmgmtRise s
  | .packageReset => Sys2Proof.Machine.execPackageReset s
  | .perstAssert p => Sys2Proof.Machine.execPerstAssert p s
  | .perstRelease p => Sys2Proof.Machine.execPerstRelease p s
  | .railFault rail high => Sys2Proof.Machine.execRailFault rail high s
  | .sysclkLoss => Sys2Proof.Machine.execSysclkLoss s
  | .zlRefclkLoss => Sys2Proof.Machine.execZlRefclkLoss s
  | .pcieRefclkLoss p => Sys2Proof.Machine.execPcieRefclkLoss p s
  | .fuseStageDone => Sys2Proof.Machine.execFuseStageDone s
  | .romTestDone rom ctl mgmt sched tcEcc ctxEcc pcs got exp => Sys2Proof.Machine.execRomTestDone rom ctl mgmt sched tcEcc ctxEcc pcs got exp s
  | .imageVerifyDone a b bodyA bodyB => Sys2Proof.Machine.execImageVerifyDone a b bodyA bodyB s
  | .spanTestDone spans cores pcs spares banks zls pcies addr bit count => Sys2Proof.Machine.execSpanTestDone spans cores pcs spares banks zls pcies addr bit count s
  | .fwInitDone => Sys2Proof.Machine.execFwInitDone s
  | .pkgCtrlHeartbeat => Sys2Proof.Machine.execPkgCtrlHeartbeat s
  | .takeoverStart => Sys2Proof.Machine.execTakeoverStart s
  | .takeoverComplete => Sys2Proof.Machine.execTakeoverComplete s
  | .mgmtCoreFailure k => Sys2Proof.Machine.execMgmtCoreFailure k s
  | .deckEdgeFail a b => Sys2Proof.Machine.execDeckEdgeFail a b s
  | .creditTimeout sp cls empty since => Sys2Proof.Machine.execCreditTimeout sp cls empty since s
  | .launchDeliver sp co ctx => Sys2Proof.Machine.execLaunchDeliver sp co ctx s
  | .launchStartEngine sp co sl e => Sys2Proof.Machine.execLaunchStartEngine sp co sl e s
  | .launchStartSeeded sp co sl => Sys2Proof.Machine.execLaunchStartSeeded sp co sl s
  | .launchComplete sp co sl => Sys2Proof.Machine.execLaunchComplete sp co sl s
  | .fetchBlock sp co sl e => Sys2Proof.Machine.execFetchBlock sp co sl e s
  | .commandDecode sp co sl e => Sys2Proof.Machine.execCommandDecode sp co sl e s
  | .commandResolve sp co sl e => Sys2Proof.Machine.execCommandResolve sp co sl e s
  | .speculativeRead sp co sl idx k => Sys2Proof.Machine.execSpeculativeRead sp co sl idx k s
  | .commandComplete sp co sl e => Sys2Proof.Machine.execCommandComplete sp co sl e s
  | .signalArrival n => Sys2Proof.Machine.execSignalArrival n s
  | .qNop sp co sl e => Sys2Proof.Machine.execQNop sp co sl e s
  | .qEnd sp co sl e => Sys2Proof.Machine.execQEnd sp co sl e s
  | .tlWait sp co sl e => Sys2Proof.Machine.execTlWait sp co sl e s
  | .tlWaitSatisfied sp co sl e => Sys2Proof.Machine.execTlWaitSatisfied sp co sl e s
  | .waitTimeout sp co sl e => Sys2Proof.Machine.execWaitTimeout sp co sl e s
  | .tlSignal sp co sl e => Sys2Proof.Machine.execTlSignal sp co sl e s
  | .tlSet sp co sl e => Sys2Proof.Machine.execTlSet sp co sl e s
  | .prSet sp co sl e => Sys2Proof.Machine.execPrSet sp co sl e s
  | .prCmp sp co sl e => Sys2Proof.Machine.execPrCmp sp co sl e s
  | .prLogic sp co sl e => Sys2Proof.Machine.execPrLogic sp co sl e s
  | .prTally sp co sl e => Sys2Proof.Machine.execPrTally sp co sl e s
  | .slotHalt sp co sl mask m => Sys2Proof.Machine.execSlotHalt sp co sl mask m s
  | .slotResume sp co sl mask m => Sys2Proof.Machine.execSlotResume sp co sl mask m s
  | .slotAbort sp co sl m => Sys2Proof.Machine.execSlotAbort sp co sl m s
  | .queueErrorHandling sp co sl => Sys2Proof.Machine.execQueueErrorHandling sp co sl s
  | .coreRetire sp co => Sys2Proof.Machine.execCoreRetire sp co s
  | .tlySignal sp co tally add m => Sys2Proof.Machine.execTlySignal sp co tally add m s
  | .numevClearAll sp m => Sys2Proof.Machine.execNumevClearAll sp m s
  | .numevClearCtx sp m => Sys2Proof.Machine.execNumevClearCtx sp m s
  | .mxMma sp co sl => Sys2Proof.Machine.execMxMma sp co sl s
  | .vxAdd sp co sl => Sys2Proof.Machine.execVxAdd sp co sl s
  | .vxSub sp co sl => Sys2Proof.Machine.execVxSub sp co sl s
  | .vxMul sp co sl => Sys2Proof.Machine.execVxMul sp co sl s
  | .vxFma sp co sl => Sys2Proof.Machine.execVxFma sp co sl s
  | .vxAxpy sp co sl => Sys2Proof.Machine.execVxAxpy sp co sl s
  | .vxMin sp co sl => Sys2Proof.Machine.execVxMin sp co sl s
  | .vxMax sp co sl => Sys2Proof.Machine.execVxMax sp co sl s
  | .vxCvt sp co sl => Sys2Proof.Machine.execVxCvt sp co sl s
  | .vxFill sp co sl => Sys2Proof.Machine.execVxFill sp co sl s
  | .vxExp2 sp co sl => Sys2Proof.Machine.execVxExp2 sp co sl s
  | .vxLog2 sp co sl => Sys2Proof.Machine.execVxLog2 sp co sl s
  | .vxRcp sp co sl => Sys2Proof.Machine.execVxRcp sp co sl s
  | .vxSqrt sp co sl => Sys2Proof.Machine.execVxSqrt sp co sl s
  | .vxRsqrt sp co sl => Sys2Proof.Machine.execVxRsqrt sp co sl s
  | .vxAct sp co sl => Sys2Proof.Machine.execVxAct sp co sl s
  | .vxRsum sp co sl => Sys2Proof.Machine.execVxRsum sp co sl s
  | .vxRmax sp co sl => Sys2Proof.Machine.execVxRmax sp co sl s
  | .vxTr sp co sl => Sys2Proof.Machine.execVxTr sp co sl s
  | .vxRot sp co sl => Sys2Proof.Machine.execVxRot sp co sl s
  | .vxIadd sp co sl => Sys2Proof.Machine.execVxIadd sp co sl s
  | .memFlush sp co sl => Sys2Proof.Machine.execMemFlush sp co sl s
  | .memInval sp co sl => Sys2Proof.Machine.execMemInval sp co sl s
  | .memFlinv sp co sl => Sys2Proof.Machine.execMemFlinv sp co sl s
  | .tileCacheEviction sp n => Sys2Proof.Machine.execTileCacheEviction sp n s
  | .tcFlushAll sp m => Sys2Proof.Machine.execTcFlushAll sp m s
  | .tcFlushAllDone sp => Sys2Proof.Machine.execTcFlushAllDone sp s
  | .ldT sp co sl => Sys2Proof.Machine.execLdT sp co sl s
  | .ldG sp co sl => Sys2Proof.Machine.execLdG sp co sl s
  | .ldB sp co sl => Sys2Proof.Machine.execLdB sp co sl s
  | .stT sp co sl => Sys2Proof.Machine.execStT sp co sl s
  | .stS sp co sl => Sys2Proof.Machine.execStS sp co sl s
  | .stRed sp co sl => Sys2Proof.Machine.execStRed sp co sl s
  | .stSred sp co sl => Sys2Proof.Machine.execStSred sp co sl s
  | .stB sp co sl => Sys2Proof.Machine.execStB sp co sl s
  | .dmaevClearAll sp m => Sys2Proof.Machine.execDmaevClearAll sp m s
  | .dmaevClearCtx sp m => Sys2Proof.Machine.execDmaevClearCtx sp m s
  | .pierRequestIssue sp pc => Sys2Proof.Machine.execPierRequestIssue sp pc s
  | .partitionTokenRefill sp pc => Sys2Proof.Machine.execPartitionTokenRefill sp pc s
  | .reducerUpdate cell op fmt val ctx => Sys2Proof.Machine.execReducerUpdate cell op fmt val ctx s
  | .orderedUpdateAccept cell tag op fmt val ctx item => Sys2Proof.Machine.execOrderedUpdateAccept cell tag op fmt val ctx item s
  | .reducerLineEvict sp pc n => Sys2Proof.Machine.execReducerLineEvict sp pc n s
  | .settleAll sp pc m => Sys2Proof.Machine.execSettleAll sp pc m s
  | .bufWb sp pc m => Sys2Proof.Machine.execBufWb sp pc m s
  | .alert sp pc n w => Sys2Proof.Machine.execAlert sp pc n w s
  | .readParityError sp pc n => Sys2Proof.Machine.execReadParityError sp pc n s
  | .pierRetrain sp pc => Sys2Proof.Machine.execPierRetrain sp pc s
  | .pierRetrainDone sp pc ok => Sys2Proof.Machine.execPierRetrainDone sp pc ok s
  | .bandChange sp => Sys2Proof.Machine.execBandChange sp s
  | .refreshInterval sp pc => Sys2Proof.Machine.execRefreshInterval sp pc s
  | .refreshIssue sp pc => Sys2Proof.Machine.execRefreshIssue sp pc s
  | .spareStart sp pc lbank spare m => Sys2Proof.Machine.execSpareStart sp pc lbank spare m s
  | .spareSwitch sp pc ok => Sys2Proof.Machine.execSpareSwitch sp pc ok s
  | .pcRetire sp pc => Sys2Proof.Machine.execPcRetire sp pc s
  | .broadcast sp pc => Sys2Proof.Machine.execBroadcast sp pc s
  | .sequenceStart sp pc => Sys2Proof.Machine.execSequenceStart sp pc s
  | .stitchStart sp pc bad => Sys2Proof.Machine.execStitchStart sp pc bad s
  | .stitchEnd sp pc k => Sys2Proof.Machine.execStitchEnd sp pc k s
  | .chainDrain sp pc resent lost => Sys2Proof.Machine.execChainDrain sp pc resent lost s
  | .chainReduce sp pc resent lost => Sys2Proof.Machine.execChainReduce sp pc resent lost s
  | .sequenceEnd sp pc => Sys2Proof.Machine.execSequenceEnd sp pc s
  | .sequenceSuspend sp pc => Sys2Proof.Machine.execSequenceSuspend sp pc s
  | .nbsPoisonPulse sp pc => Sys2Proof.Machine.execNbsPoisonPulse sp pc s
  | .burnishAll sp pc m => Sys2Proof.Machine.execBurnishAll sp pc m s
  | .nbIssue sp co sl => Sys2Proof.Machine.execNbIssue sp co sl s
  | .nbFence sp co sl => Sys2Proof.Machine.execNbFence sp co sl s
  | .nbGemv sp pc => Sys2Proof.Machine.execNbGemv sp pc s
  | .nbGather sp pc => Sys2Proof.Machine.execNbGather sp pc s
  | .nbGred sp pc => Sys2Proof.Machine.execNbGred sp pc s
  | .nbAxpy sp pc => Sys2Proof.Machine.execNbAxpy sp pc s
  | .nbNorm sp pc => Sys2Proof.Machine.execNbNorm sp pc s
  | .nbAttn sp pc => Sys2Proof.Machine.execNbAttn sp pc s
  | .nbAdam sp pc => Sys2Proof.Machine.execNbAdam sp pc s
  | .nbRowop sp pc => Sys2Proof.Machine.execNbRowop sp pc s
  | .nbBurnish sp pc => Sys2Proof.Machine.execNbBurnish sp pc s
  | .scopeChkEnable sp co m => Sys2Proof.Machine.execScopeChkEnable sp co m s
  | .stepPrepare g => Sys2Proof.Machine.execStepPrepare g s
  | .fillPrepare g => Sys2Proof.Machine.execFillPrepare g s
  | .kvSwapOut idx => Sys2Proof.Machine.execKvSwapOut idx s
  | .kvSwapOutDone idx => Sys2Proof.Machine.execKvSwapOutDone idx s
  | .kvSwapIn idx => Sys2Proof.Machine.execKvSwapIn idx s
  | .kvSwapInDone idx => Sys2Proof.Machine.execKvSwapInDone idx s
  | .ctxEvict sp co sl save m => Sys2Proof.Machine.execCtxEvict sp co sl save m s
  | .ctxSwitch sp co sl ctx base m => Sys2Proof.Machine.execCtxSwitch sp co sl ctx base m s
  | .recordSwapOut sp ctx => Sys2Proof.Machine.execRecordSwapOut sp ctx s
  | .recordSwapIn sp ctx => Sys2Proof.Machine.execRecordSwapIn sp ctx s
  | .residentStall sp co => Sys2Proof.Machine.execResidentStall sp co s
  | .residentStallResponse sp co => Sys2Proof.Machine.execResidentStallResponse sp co s
  | .translationFault sp co sl e => Sys2Proof.Machine.execTranslationFault sp co sl e s
  | .faultRecordWrite sp => Sys2Proof.Machine.execFaultRecordWrite sp s
  | .fresume sp co ctx eng m => Sys2Proof.Machine.execFresume sp co ctx eng m s
  | .fresumeDiscard sp co ctx eng m => Sys2Proof.Machine.execFresumeDiscard sp co ctx eng m s
  | .fringEnable sp on m => Sys2Proof.Machine.execFringEnable sp on m s
  | .xinvRange asid m => Sys2Proof.Machine.execXinvRange asid m s
  | .xinvAsid asid m => Sys2Proof.Machine.execXinvAsid asid m s
  | .xinvAll m => Sys2Proof.Machine.execXinvAll m s
  | .xinvDone => Sys2Proof.Machine.execXinvDone s
  | .pageMove ctx va da => Sys2Proof.Machine.execPageMove ctx va da s
  | .functionLevelReset fn => Sys2Proof.Machine.execFunctionLevelReset fn s
  | .frameStart => Sys2Proof.Machine.execFrameStart s
  | .entryFire sp idx => Sys2Proof.Machine.execEntryFire sp idx s
  | .deferredFire sp idx => Sys2Proof.Machine.execDeferredFire sp idx s
  | .schedLoad sp m => Sys2Proof.Machine.execSchedLoad sp m s
  | .schedValidateDone sp => Sys2Proof.Machine.execSchedValidateDone sp s
  | .frameActivate m => Sys2Proof.Machine.execFrameActivate m s
  | .frameClockStart m => Sys2Proof.Machine.execFrameClockStart m s
  | .frameStop m => Sys2Proof.Machine.execFrameStop m s
  | .schedArm sp w mask m => Sys2Proof.Machine.execSchedArm sp w mask m s
  | .zlEnable p m => Sys2Proof.Machine.execZlEnable p m s
  | .zlSignalDetect p => Sys2Proof.Machine.execZlSignalDetect p s
  | .zlEqualiseDone p bad => Sys2Proof.Machine.execZlEqualiseDone p bad s
  | .zlAlignDone p => Sys2Proof.Machine.execZlAlignDone p s
  | .neg p => Sys2Proof.Machine.execNeg p s
  | .zlStateTimeout p => Sys2Proof.Machine.execZlStateTimeout p s
  | .zlRetrainDone p ok => Sys2Proof.Machine.execZlRetrainDone p ok s
  | .zlRestart p m => Sys2Proof.Machine.execZlRestart p m s
  | .zlRetrain p m => Sys2Proof.Machine.execZlRetrain p m s
  | .flitTransmit p cls => Sys2Proof.Machine.execFlitTransmit p cls s
  | .flitReceive p ok h units crc => Sys2Proof.Machine.execFlitReceive p ok h units crc s
  | .packetRoute p => Sys2Proof.Machine.execPacketRoute p s
  | .linkStall p cls => Sys2Proof.Machine.execLinkStall p cls s
  | .sendDescPosted sp r => Sys2Proof.Machine.execSendDescPosted sp r s
  | .sendDescStart sp r => Sys2Proof.Machine.execSendDescStart sp r s
  | .sendDescComplete sp r => Sys2Proof.Machine.execSendDescComplete sp r s
  | .zringEnable sp r on m => Sys2Proof.Machine.execZringEnable sp r on m s
  | .wr p => Sys2Proof.Machine.execWr p s
  | .red p => Sys2Proof.Machine.execRed p s
  | .sig p => Sys2Proof.Machine.execSig p s
  | .err p => Sys2Proof.Machine.execErr p s
  | .zwinInval all idx m => Sys2Proof.Machine.execZwinInval all idx m s
  | .zwinInvalDone => Sys2Proof.Machine.execZwinInvalDone s
  | .keyBeatSend => Sys2Proof.Machine.execKeyBeatSend s
  | .key p => Sys2Proof.Machine.execKey p s
  | .echoSend p => Sys2Proof.Machine.execEchoSend p s
  | .echo p => Sys2Proof.Machine.execEcho p s
  | .holdoverStart => Sys2Proof.Machine.execHoldoverStart s
  | .holdoverLost => Sys2Proof.Machine.execHoldoverLost s
  | .doorbell fn q tail => Sys2Proof.Machine.execDoorbell fn q tail s
  | .submissionEntryRead fn q words => Sys2Proof.Machine.execSubmissionEntryRead fn q words s
  | .entryAccept fn q => Sys2Proof.Machine.execEntryAccept fn q s
  | .cqRecordWrite fn q => Sys2Proof.Machine.execCqRecordWrite fn q s
  | .cqStall fn q => Sys2Proof.Machine.execCqStall fn q s
  | .sqEnable fn q on => Sys2Proof.Machine.execSqEnable fn q on s
  | .pciePortFail p fatal => Sys2Proof.Machine.execPciePortFail p fatal s
  | .apertureRead p x len => Sys2Proof.Machine.execApertureRead p x len s
  | .apertureWrite p x data => Sys2Proof.Machine.execApertureWrite p x data s
  | .ctxCreate fn k slow => Sys2Proof.Machine.execCtxCreate fn k slow s
  | .ctxDestroy fn k slow => Sys2Proof.Machine.execCtxDestroy fn k slow s
  | .ctxPlace fn k slow => Sys2Proof.Machine.execCtxPlace fn k slow s
  | .ctxRebind fn k slow => Sys2Proof.Machine.execCtxRebind fn k slow s
  | .xltInval fn k slow => Sys2Proof.Machine.execXltInval fn k slow s
  | .winOpen fn k slow => Sys2Proof.Machine.execWinOpen fn k slow s
  | .winClose fn k slow => Sys2Proof.Machine.execWinClose fn k slow s
  | .swapArea fn k slow => Sys2Proof.Machine.execSwapArea fn k slow s
  | .modelCfg fn k slow => Sys2Proof.Machine.execModelCfg fn k slow s
  | .groupCfg fn k slow => Sys2Proof.Machine.execGroupCfg fn k slow s
  | .epochPublish fn k slow => Sys2Proof.Machine.execEpochPublish fn k slow s
  | .adapterLoad fn k slow => Sys2Proof.Machine.execAdapterLoad fn k slow s
  | .adapterReplace fn k slow => Sys2Proof.Machine.execAdapterReplace fn k slow s
  | .adapterDelete fn k slow => Sys2Proof.Machine.execAdapterDelete fn k slow s
  | .cachedRelease fn k slow => Sys2Proof.Machine.execCachedRelease fn k slow s
  | .reqCancel fn k slow => Sys2Proof.Machine.execReqCancel fn k slow s
  | .version fn k => Sys2Proof.Machine.execVersion fn k s
  | .poll fn k slow => Sys2Proof.Machine.execPoll fn k slow s
  | .tokenExpiry => Sys2Proof.Machine.execTokenExpiry s
  | .reinClaim m => Sys2Proof.Machine.execReinClaim m s
  | .reinAccept m => Sys2Proof.Machine.execReinAccept m s
  | .reinRelease m => Sys2Proof.Machine.execReinRelease m s
  | .handoverStart m target => Sys2Proof.Machine.execHandoverStart m target s
  | .handoverCancel m => Sys2Proof.Machine.execHandoverCancel m s
  | .handoverLapse => Sys2Proof.Machine.execHandoverLapse s
  | .heartbeat m => Sys2Proof.Machine.execHeartbeat m s
  | .heartbeatLapse => Sys2Proof.Machine.execHeartbeatLapse s
  | .i3cRegRead len off => Sys2Proof.Machine.execI3cRegRead len off s
  | .i3cRegWrite len off v => Sys2Proof.Machine.execI3cRegWrite len off v s
  | .i3cResultDiscard => Sys2Proof.Machine.execI3cResultDiscard s
  | .blkCommit pg m => Sys2Proof.Machine.execBlkCommit pg m s
  | .commitApply pg => Sys2Proof.Machine.execCommitApply pg s
  | .blkDiscard pg m => Sys2Proof.Machine.execBlkDiscard pg m s
  | .registerWrite fnPage who off size v m => Sys2Proof.Machine.execRegisterWrite fnPage who off size v m s
  | .tsigAdd fn add => Sys2Proof.Machine.execTsigAdd fn add s
  | .hostReadError kind sp co sl n fn q timeout => Sys2Proof.Machine.execHostReadError kind sp co sl n fn q timeout s
  | .correctableEvent sp cls idx bank addr hard => Sys2Proof.Machine.execCorrectableEvent sp cls idx bank addr hard s
  | .bucketLeak sp cls idx => Sys2Proof.Machine.execBucketLeak sp cls idx s
  | .flipArm sp v m => Sys2Proof.Machine.execFlipArm sp v m s
  | .scrubRow sp pc => Sys2Proof.Machine.execScrubRow sp pc s
  | .retirement kind sp unit bank block => Sys2Proof.Machine.execRetirement kind sp unit bank block s
  | .elogRetire kind block m => Sys2Proof.Machine.execElogRetire kind block m s
  | .serrSubstitute sp c t valid m => Sys2Proof.Machine.execSerrSubstitute sp c t valid m s
  | .mirrorRestore page ok => Sys2Proof.Machine.execMirrorRestore page ok s
  | .elogDone seq m => Sys2Proof.Machine.execElogDone seq m s
  | .elogClearLost m => Sys2Proof.Machine.execElogClearLost m s
  | .elogClearFirst m => Sys2Proof.Machine.execElogClearFirst m s
  | .itemCommit id stop => Sys2Proof.Machine.execItemCommit id stop s
  | .itemReplay id => Sys2Proof.Machine.execItemReplay id s
  | .receiptExpiry => Sys2Proof.Machine.execReceiptExpiry s
  | .sensorSample readings => Sys2Proof.Machine.execSensorSample readings s
  | .rateCheck => Sys2Proof.Machine.execRateCheck s
  | .thermalCeilingRise sp => Sys2Proof.Machine.execThermalCeilingRise sp s
  | .droopDetect kind unit => Sys2Proof.Machine.execDroopDetect kind unit s
  | .droopRelease kind unit => Sys2Proof.Machine.execDroopRelease kind unit s
  | .powerSample dense nb pier fabric => Sys2Proof.Machine.execPowerSample dense nb pier fabric s
  | .capCeilingRise => Sys2Proof.Machine.execCapCeilingRise s
  | .budgetDecreaseApply => Sys2Proof.Machine.execBudgetDecreaseApply s
  | .setNumericEffecterValue id value => Sys2Proof.Machine.execSetNumericEffecterValue id value s
  | .pldmGetSensor id => Sys2Proof.Machine.execPldmGetSensor id s
  | .budgetTimeout => Sys2Proof.Machine.execBudgetTimeout s
  | .allocatorInterval => Sys2Proof.Machine.execAllocatorInterval s
  | .learnSave => Sys2Proof.Machine.execLearnSave s
  | .learnReset m => Sys2Proof.Machine.execLearnReset m s
  | .trClear mask m => Sys2Proof.Machine.execTrClear mask m s
  | .lcsReq confirm target m => Sys2Proof.Machine.execLcsReq confirm target m s
  | .fuseProgramDone => Sys2Proof.Machine.execFuseProgramDone s
  | .lcsReset m => Sys2Proof.Machine.execLcsReset m s
  | .retlistClear m => Sys2Proof.Machine.execRetlistClear m s
  | .sliceStart => Sys2Proof.Machine.execSliceStart s
  | .coreSliceDone pass addr bit count => Sys2Proof.Machine.execCoreSliceDone pass addr bit count s
  | .bankSliceDone pass bad addr bit count => Sys2Proof.Machine.execBankSliceDone pass bad addr bit count s
  | .bistCore sp co m => Sys2Proof.Machine.execBistCore sp co m s
  | .bistBanks sp die first more m => Sys2Proof.Machine.execBistBanks sp die first more m s
  | .bistPort u m => Sys2Proof.Machine.execBistPort u m s
  | .bistSpan sp m => Sys2Proof.Machine.execBistSpan sp m s
  | .bistDone whole pass cores pcs spares banks addr bit count => Sys2Proof.Machine.execBistDone whole pass cores pcs spares banks addr bit count s
  | .irqLevelChange shared k n => Sys2Proof.Machine.execIrqLevelChange shared k n s
  | .irqEdge shared k n => Sys2Proof.Machine.execIrqEdge shared k n s
  | .irqClaim k w => Sys2Proof.Machine.execIrqClaim k w s
  | .irqComplete k id w => Sys2Proof.Machine.execIrqComplete k id w s
  | .irqStackReset k w => Sys2Proof.Machine.execIrqStackReset k w s
  | .irqpSwSet k mask w => Sys2Proof.Machine.execIrqpSwSet k mask w s
  | .irqTimer k => Sys2Proof.Machine.execIrqTimer k s
  | .irqSwSet n m => Sys2Proof.Machine.execIrqSwSet n m s
  | .irqEoi n m => Sys2Proof.Machine.execIrqEoi n m s
  | .irqTargetWrite target prio enable m => Sys2Proof.Machine.execIrqTargetWrite target prio enable m s
  | .msixSend kind fn n => Sys2Proof.Machine.execMsixSend kind fn n s
  | .timeCorrWrite offset m => Sys2Proof.Machine.execTimeCorrWrite offset m s
  | .vmgmtLoss => Sys2Proof.Machine.execVmgmtLoss s
  | .resetNRelease => Sys2Proof.Machine.execResetNRelease s
  | .pcieLinkDown p => Sys2Proof.Machine.execPcieLinkDown p s
  | .pcieLinkUp p speed width flit => Sys2Proof.Machine.execPcieLinkUp p speed width flit s
  | .pcieConfigWrite p what v => Sys2Proof.Machine.execPcieConfigWrite p what v s
  | .i3cDynamicAddress on => Sys2Proof.Machine.execI3cDynamicAddress on s
  | .msixEntryUnmask fn entry => Sys2Proof.Machine.execMsixEntryUnmask fn entry s
  | .pldmBaseRequest check => Sys2Proof.Machine.execPldmBaseRequest check s

end Sys2Proof.Machine
end

