-- ==== Sys2Proof/Machine/Step.lean ====
section
/-!
DEFINITION. The step: the command at the front of the queue has its effect; with no command waiting,
one tick of 1 ns passes (R24), with what it adds to the means of the allocator (R577) and what it brings to the mailbox
(R508).
-/
namespace Sys2Proof.Machine

/-- One step. -/
def step (s : State) : Host.Outcome State Fault Refusal :=
  match s.pending with
  | [] => .next (if s.pkg.boot.pwrgood then mbTimes (occTick (tickOnce s)) else s)
  | c :: rest => exec c { s with pending := rest }

/-- A word that spells a command puts it at the front of the queue; no word spells one. -/
def State.withFetchWord (s : State) (nbits w : Nat) : State :=
  match decodeTableWord nbits w with
  | some c => { s with pending := c :: s.pending }
  | none => s

end Sys2Proof.Machine
end

