-- ==== Sys2Proof/Safety.lean ====
section
/-!
DEFINITION. What counts as a safe run: the package goes on, its memories keep their canonical form, and its life cycle
moves only as R611 lets it.
-/
namespace Sys2Proof.Machine

/-- Whether an outcome is a next state. -/
def goesOn (o : Host.Outcome State Fault Refusal) : Bool :=
  match o with
  | .next _ => true
  | _ => false

/-- Both memories are in canonical form: device memory, and the local memories of the cores. -/
def memOk (s : State) : Prop := memWf s.memo.mem = true ∧ memWf s.core.lmem = true

/-- The transitions of Table: Life-cycle transitions (R611). -/
def lifeNext (a b : Nat) : Bool := (a == 0 && b == 1) || (a == 1 && b == 2) || usesService a b || (a != 4 && b == 4)

/-- The life cycle is one that R611 and R612 can reach: a state of the table, at most 64 service fuses, and a requested
transition only where the table has one and a service fuse is left for it. -/
def lifeOk (b : BootSt) : Bool :=
  decide (b.life < 5) && decide (b.service ≤ 64)
    && (match b.program with
      | none => true
      | some (t, _) => lifeNext b.life t && (b.programmed || !usesService b.life t || decide (b.service < 64)))

/-- The life-cycle state of `s` is that of `s₀`, or the next one by a transition of R611. -/
def lifeStep (s₀ s : State) : Prop :=
  s.pkg.boot.life = s₀.pkg.boot.life ∨ lifeNext s₀.pkg.boot.life s.pkg.boot.life = true

/-- The parts of the state: the tick, the registers of the pages and their staged fields, the cores and their local
memory, the memory system and the bytes of device memory, contexts, errors, the host side, the schedule, serving, the
package, and the model's own count of free values. -/
inductive Part where
  | tick | regs | staged | core | lmem | memo | mem | cx | er | ho | sch | srv | pkg | free
  deriving DecidableEq, Repr

/-- Nothing of the state but the named parts differs. The fuses and the queue of waiting commands have no name here:
they never differ. -/
structure SameBut (l : List Part) (s t : State) : Prop where
  fuse : t.fuse = s.fuse
  pending : t.pending = s.pending
  tick : t.tick = s.tick ∨ Part.tick ∈ l
  regs : t.regs = s.regs ∨ Part.regs ∈ l
  staged : t.staged = s.staged ∨ Part.staged ∈ l
  core : t.core = s.core ∨ Part.core ∈ l
  lmem : t.core.lmem = s.core.lmem ∨ Part.lmem ∈ l
  memo : t.memo = s.memo ∨ Part.memo ∈ l
  mem : t.memo.mem = s.memo.mem ∨ Part.mem ∈ l
  cx : t.cx = s.cx ∨ Part.cx ∈ l
  er : t.er = s.er ∨ Part.er ∈ l
  ho : t.ho = s.ho ∨ Part.ho ∈ l
  sch : t.sch = s.sch ∨ Part.sch ∈ l
  srv : t.srv = s.srv ∨ Part.srv ∈ l
  pkg : t.pkg = s.pkg ∨ Part.pkg ∈ l
  free : t.free = s.free ∨ Part.free ∈ l

/-! ### What the statements about commands share -/

/-- Every register but those listed, by register, page and element, reads as before. -/
def regsBut (l : List (Reg × Nat × Nat)) (s t : State) : Prop :=
  ∀ r pg k, (r, pg, k) ∉ l → rdR t r pg k = rdR s r pg k

/-- A write of a page by a master is not turned away: its span has its fabric, start-up has gone far enough and the
master is the rein holder or a control core (R140, R513, R610, R615). -/
def accepted (s : State) (pg m : Nat) : Prop := pageSpanDown s pg = false ∧ writeGate s pg m = none

/-- An MCTP message arrives: an edge at source 17 of the package control core (R573, R632). Beside it only the power
state and the count of free values may differ. -/
structure MctpEdge (s t : State) : Prop where
  edge : getPriv t 8 17 = (edgeSt (getPriv s 8 17)).1
  priv : ∀ k j, (k, j) ≠ (8, 17) → getPriv t k j = getPriv s k j
  irq : t.pkg.irq = { s.pkg.irq with priv := t.pkg.irq.priv }
  pkg : t.pkg = { s.pkg with irq := t.pkg.irq, power := t.pkg.power }
  regs : regsBut [(.irqpMerged, pgIrqp 8, 0)] s t
  frame : SameBut [.regs, .pkg, .free] s t

/-- The reins have passed to master `m`, 7 for none: EPOCH counts it, no handover is pending, and no register changes but
those of the reins and the sources that tell the masters (R514, R645). -/
structure ReinsPass (s t : State) (m : Nat) : Prop where
  holder : holder t = m
  epoch : getF t fOwnReinClaimEpoch pgOwn = (getF s fOwnReinClaimEpoch pgOwn + 1) % 2 ^ 32
  pending : handPending t = false
  told : bitAt (blkIrqPend t pgOwn) 1 = true
  regs : regsBut [(.ownReinClaim, pgOwn, 0), (.ownHandover, pgOwn, 0), (.ownHeartbeat, pgOwn, 0), (.blkIrqPend, pgOwn, 0),
    (.blkIrqPend, pgFn 0, 0), (.blkIrqPend, pgFn 64, 0)] s t
  rest : t = { s with regs := t.regs, pkg := { s.pkg with irq := { s.pkg.irq with inBand := t.pkg.irq.inBand } } }

/-- Slot `k` of a function is the next that the mailbox processes, and holds opcode `op` (R507): no command that has answered
PROGRESS is before it. -/
def mbTurn (s : State) (fn k op : Nat) : Prop :=
  running s = true ∧ mbNext s fn k op = true ∧ (fn, k) ∉ s.ho.mb.drop 1 ∧ s.ho.late = []

/-- A slot shows a state and a status, and waits no longer (R508). -/
structure SlotShows (t : State) (fn k st status : Nat) : Prop where
  state : getF t fFnMbStateState (pgFn fn) k = st
  status : getF t fFnMbStateStatus (pgFn fn) k = status
  gone : (fn, k) ∉ t.ho.mb

/-- A command turned away: REFUSED with a status, or DONE with it once the command has been acknowledged (R510). -/
def SlotRefused (s t : State) (fn k st : Nat) : Prop := SlotShows t fn k (if mbAcked s fn k then 3 else 5) st

/-- A command that has not ended within 10 ms: PROGRESS with a fresh token, which waits for the final state and result of the
command that goes on (R508, R511). -/
structure SlotProgress (s t : State) (fn k : Nat) : Prop where
  shows : SlotShows t fn k 4 0
  token : getF t fFnMbStateToken (pgFn fn) k = s.ho.nextToken % 2 ^ 32
  kept : t.ho.tokens = s.ho.tokens ++ [⟨s.ho.nextToken % 2 ^ 32, fn, none, s.tick⟩]
  late : t.ho.late = [⟨fn, k, s.ho.nextToken % 2 ^ 32, (List.range 8).map (mbReg s fn k)⟩]

/-- A rejected write: nothing but registers changes, and BLK_WSTAT of the page names the code (R520). -/
structure WriteRejected (s t : State) (pg code : Nat) : Prop where
  rest : t = { s with regs := t.regs }
  code : getF t fBlkWstatCode pg = code

/-- Registers of the window whose write is an action of their own (R22): the commands of the table cover those. -/
def writeActs : List Reg :=
  [.numevSticky, .numevClear, .dmaevSticky, .dmaevClear, .cqSlotCtrl, .tlySignal, .tlyScopeChk, .tcCtrl, .pccSpare,
    .pccRedCtrl, .pccUnsealCtrl, .ctxsEvict, .ctxsSwitch, .xltFresume, .schedLoad, .schedArm, .zringCfg, .serrFlip,
    .serrAlias] ++ [.xinvCmd, .frameCtrl, .zlCfg, .zlCtrl, .zrouteEntry, .zsyncCfg, .zwinInval, .elogDone, .elogClear, .elogRetire,
    .pwrLearn, .pwrTrClear, .pwrSwfreq, .lcsReq, .lcsCtrl, .lcsRetlist, .bistCmd, .irqCfg, .irqSwSet, .irqEoi, .timeCorr]
    ++ [.fnSqCfg, .fnCqHead, .fnTsigAdd, .fnMbGo, .fnDb]

/-- What a field reads once `v` has been written to its register (R22): its value for RW-L and RW-Q, the bits it had but
those written 1 for W1C, with them for W1S, and what it had otherwise. -/
def fieldTakes (f : RField) (old v : Nat) : Nat :=
  match f.ty with
  | .rwl => bits v f.lo f.w
  | .rwq => bits v f.lo f.w
  | .w1c => old - (old &&& bits v f.lo f.w)
  | .w1s => old ||| bits v f.lo f.w
  | _ => old

/-! ### Slots and queues -/

/-- Nothing changes but one resident slot, and of it nothing but its core part and what follows from that part: whether
the slot is blocked, and since when (R91, R391). -/
structure SlotTakes (s t : State) (key : Nat) (p : CorePart) : Prop where
  slot : getSlot t key = { getSlot s key with
    part := p, blocked := slotBlocked { getSlot s key with part := p }, since := (getSlot t key).since }
  others : ∀ k, k ≠ key → getSlot t k = getSlot s k
  rest : t = { s with core := { s.core with slots := t.core.slots } }

/-- A core part in which a command of an engine's queue has had its effects; it waits only to complete (R113). -/
def partDone (p : CorePart) (e : Nat) (c : QCmd) : CorePart :=
  partSetQueue p e (qSetCmd (partQueue p e) { c with phase := .executed })

/-- The oldest issued command of a queue has become executed and its predicate PD holds `b`; P0 keeps 1, and no other
predicate, no tally and no launch of the slot changes (R107, R121, R122). -/
structure PredTakes (s t : State) (key e : Nat) (c : QCmd) (b : Bool) : Prop where
  taken : ∃ p, SlotTakes s t key p ∧ p = { partDone (getSlot s key).part e c with preds := p.preds }
  pd : bits c.w1 0 4 ≠ 0 → predOf (getSlot t key).part (bits c.w1 0 4) = b
  others : ∀ n, n < 16 → n ≠ bits c.w1 0 4 → predOf (getSlot t key).part n = predOf (getSlot s key).part n

/-- A core part whose queue has halted at a command of a launch: the queue shows HALT_ERR at the command's address, the
command and those behind it have left it with what was fetched, earlier ones stay, the launch is no longer ended there,
and the error is noted unless one is (R137). -/
def haltedPart (p : CorePart) (e code launch pc : Nat) : CorePart :=
  partErr (partSetQueue (partReopen p e launch) e { partQueue p e with
    st := .haltErr, pc := pc, buf := [], cmds := (partQueue p e).cmds.takeWhile (fun c => !cmdAt launch pc c)
    gone := (partQueue p e).gone ++ (partQueue p e).cmds.dropWhile (fun c => !cmdAt launch pc c), pend := none
    openFault := false }) e code pc

/-- A queue has halted at a command of a launch, and the slot's error names the engine, the code and the address unless
it names an earlier one (R137). -/
structure QueueHalted (s t : State) (key e code launch pc : Nat) : Prop where
  part : (getSlot t key).part = haltedPart (getSlot s key).part e code launch pc
  others : ∀ k, k ≠ key → getSlot t k = getSlot s k
  code : getB s fCqSlotErrValid (pgCq (keySpan key) (keyCore key)) (keySlot key) = false →
    getB t fCqSlotErrValid (pgCq (keySpan key) (keyCore key)) (keySlot key) = true
    ∧ getF t fCqSlotErrEngine (pgCq (keySpan key) (keyCore key)) (keySlot key) = e
    ∧ getF t fCqSlotErrCode (pgCq (keySpan key) (keyCore key)) (keySlot key) = code
    ∧ getF t fCqSlotErrAddrAddr (pgCq (keySpan key) (keyCore key)) (keySlot key) = pc % 2 ^ 64
  first : getB s fCqSlotErrValid (pgCq (keySpan key) (keyCore key)) (keySlot key) = true →
    rdR t .cqSlotErr (pgCq (keySpan key) (keyCore key)) (keySlot key)
      = rdR s .cqSlotErr (pgCq (keySpan key) (keyCore key)) (keySlot key)
  memory : t.memo = s.memo ∧ t.core.lmem = s.core.lmem ∧ t.core.signals = s.core.signals

/-- A slot after an abort: no launch, every queue idle, no error held (R139). -/
def slotEmptied (t : State) (key : Nat) : Prop :=
  (getSlot t key).part.launches = []
    ∧ (getSlot t key).part.queues = [idleQueue, idleQueue, idleQueue, idleQueue, idleQueue]
    ∧ (getSlot t key).part.err = none

/-- Neither the LD nor the ST queue of a slot, unless an error has halted it, holds a command past its resolution
point. -/
def nothingIssued (s : State) (key : Nat) : Prop :=
  ∀ e, e = 0 ∨ e = 3 → (getQ s key e).st = .haltErr ∨ ∀ c ∈ (getQ s key e).cmds, c.phase = .decoded

/-- What an abort of a slot that has issued nothing to memory leaves: the slot's tallies and predicates, every other slot
and both memories (R139). -/
structure AbortKeeps (s t : State) (key : Nat) : Prop where
  part : (getSlot t key).part = { (getSlot s key).part with
    launches := [], queues := [idleQueue, idleQueue, idleQueue, idleQueue, idleQueue], err := none }
  others : ∀ k, k ≠ key → getSlot t k = getSlot s k
  memory : t.memo.mem = s.memo.mem ∧ t.core.lmem = s.core.lmem

/-! ### Matrix and vector commands -/

/-- The queue, by its slot, that gives its accumulator tile up to an `mx.mma`: the first, where the other queues of the core
hold three (R150). The model's choice (log entry 76). -/
def tileGiver (s : State) (key : Nat) : Option Nat :=
  if 3 ≤ (tileOthers s key).length then (tileOthers s key).head? else none

/-- An issued command of a slot has run on local memory with destination `d`: it is executed, with the format events of
its work, its queue holds the tile that it leaves, no byte of local memory outside `d` differs, no word is newly poisoned,
and beside its slot only a busy count moves (R88, R154, R156, R161, R166). -/
structure LocalOpRan (s t : State) (key e : Nat) (c : QCmd) (d : Mat) (busy : Reg) (tile : Option MxTile) : Prop where
  done : ∃ ev, (getSlot t key).part = partSetQueue (partDone (getSlot s key).part e (cmdAddEv c ev)) e
    { partQueue (partDone (getSlot s key).part e (cmdAddEv c ev)) e with tile := tile }
  others : ∀ k, k ≠ key → e = 2 ∨ tileGiver s key ≠ some k → getSlot t k = getSlot s k
  bytes : fieldsOk (cmdWords c) (windowBytes s key) = true → geometryOk (cmdWords c) (windowBytes s key) = true →
    ∀ a, (∀ r ∈ matRanges d, a < lmCell s key r.1 ∨ lmCell s key r.1 + r.2 ≤ a) →
      cellGet t.core.lmem a = cellGet s.core.lmem a
  poison : ∀ w ∈ t.core.lmPoison, ∃ v ∈ s.core.lmPoison, v.1 = w.1
  regs : regsBut [(busy, pgLmx (keySpan key) (keyCore key), 0)] s t
  rest : SameBut [.core, .lmem, .regs] s t

/-- The rows of an unscaled destination read back as the results converted to its format (R54, R56, R161). -/
def rowsWritten (s t : State) (key : Nat) (c : QCmd) (d : Mat) (rows : List (List Num)) : Prop :=
  d.scm = 0 → fieldsOk (cmdWords c) (windowBytes s key) = true → geometryOk (cmdWords c) (windowBytes s key) = true →
    ∀ r, r < d.rows → matCodes t key d r = (convertAll d.fmt false (rows.getD r [])).1

/-- Row `r` of operand A of a VX command, as plain values. -/
def vxArow (s : State) (key : Nat) (w : Words) (r : Nat) : List Num := vxRowOf (matPlainAll s key (vxA w)) r

/-- Row `r` of operand B of a VX command, as plain values. -/
def vxBrowVals (s : State) (key : Nat) (w : Words) (r : Nat) : List Num := vxBrowOf w (matPlainAll s key (vxB w)) r

/-- The rows of a command that gives each row of D from its number. -/
def vxRowsBy (w : Words) (f : Nat → List Num) : List (List Num) := (List.range (vxRows w)).map f

/-- The rows of a command of one operand, element by element. -/
def vxUnary (g : Words → Num → Num) (s : State) (key : Nat) (w : Words) : List (List Num) :=
  vxRowsBy w (fun r => (vxArow s key w r).map (g w))

/-- The rows of a command of two operands, element by element. -/
def vxBinary (g : Words → Num → Num → Num) (s : State) (key : Nat) (w : Words) : List (List Num) :=
  vxRowsBy w (fun r => List.zipWith (g w) (vxArow s key w r) (vxBrowVals s key w r))

/-- The one row of a command that reduces each row of A to an element. -/
def vxReduced (g : Words → List Num → Num) (s : State) (key : Nat) (w : Words) : List (List Num) :=
  [(List.range (vxRows w)).map (fun r => g w (vxArow s key w r))]

/-- The VX commands that give values, with their opcodes and the rows that they write to D before conversion (R162, R163,
R164). -/
def vxGives (sp : Fin 8) (co : Fin 16) (sl : Fin 4) : List (Instr × Nat × (State → Nat → Words → List (List Num))) :=
  [(.vxAdd sp co sl, 0x60, vxBinary (fun _ => numAdd)), (.vxSub sp co sl, 0x61, vxBinary (fun _ => numSub)),
    (.vxMul sp co sl, 0x62, vxBinary (fun _ => numMul)),
    (.vxFma sp co sl, 0x63, fun s key w => vxRowsBy w (fun r => List.zipWith numAdd
      (List.zipWith numMul (vxArow s key w r) (vxBrowVals s key w r)) ((matPlainAll s key (vxD w)).getD r []))),
    (.vxAxpy sp co sl, 0x64, vxBinary (fun w a b => numAdd (numMul (fp32Val (vxImm w)) a) b)),
    (.vxMin sp co sl, 0x65, vxBinary (fun _ => numMin)), (.vxMax sp co sl, 0x66, vxBinary (fun _ => numMax)),
    (.vxCvt sp co sl, 0x67, vxUnary (fun _ a => a)),
    (.vxFill sp co sl, 0x68, fun _ _ w => vxRowsBy w (fun _ => List.replicate (vxCols w) (vxFillVal w)))]
  ++ [(.vxExp2 sp co sl, 0x69, vxUnary (fun _ => vxExp2)), (.vxLog2 sp co sl, 0x6A, vxUnary (fun _ => vxLog2)),
    (.vxRcp sp co sl, 0x6B, vxUnary (fun _ => vxRcp)), (.vxSqrt sp co sl, 0x6C, vxUnary (fun _ => vxSqrt)),
    (.vxRsqrt sp co sl, 0x6D, vxUnary (fun _ => vxRsqrt)), (.vxAct sp co sl, 0x6E, vxUnary (fun w => actFn (vxFunc w))),
    (.vxRsum sp co sl, 0x6F, vxReduced (fun w => rowReduce (.fin true 0 0)
      (fun l x => roundFp32 (numAdd l (if vxFunc w = 1 then numMul x x else x))) addR)),
    (.vxRmax sp co sl, 0x70, vxReduced (fun _ => rowReduce (.inf true) (fun l x => roundFp32 (numMax l x))
      (fun a b => roundFp32 (numMax a b)))),
    (.vxRot sp co sl, 0x72, fun s key w => vxRowsBy w (fun r => (rotRow w (vxArow s key w r) (vxBrowVals s key w r)).map (·.2)))]

/-- No controller holds a staged ordered update (R232). -/
def noStaged (s : State) : Bool := s.memo.pccs.all (fun p => p.2.staged.isEmpty)

/-! ### Zaskel ports -/

/-- A port has entered a state: nothing else of the port, and no other port, differs (R453). -/
structure PortEnters (s t : State) (p st : Nat) : Prop where
  state : zlState t p = st
  port : getZl t p = { getZl s p with since := s.tick }
  others : ∀ k, k ≠ p → getZl t k = getZl s k
  regs : regsBut [(.zlStatus, pgZl p, 0), (.zlCfg, pgZl p, 0)] s t
  rest : SameBut [.regs, .pkg] s t

/-- Packets that a failing port loses: those sent and not acknowledged, the one in progress, and those that wait (R482). -/
def portLost (s : State) (p : Nat) : List Pkt :=
  (getZl s p).sent.map (·.2) ++ (match (getZl s p).cur with | some c => [c.1] | none => []) ++ (getZl s p).keyq
    ++ (getZl s p).txq

/-- A port has failed with a cause: what it had to send is lost and counted, what it has received stays, and every other
port keeps its state (R482). -/
structure PortFailed (s t : State) (p cause : Nat) : Prop where
  state : zlState t p = 7
  cause : getF t fZlStatusFailCause (pgZl p) = cause
  lost : getF t fZlDroppedCount (pgZl p) = (getF s fZlDroppedCount (pgZl p) + (portLost s p).length) % 2 ^ 48
  empty : (getZl t p).txq = [] ∧ (getZl t p).keyq = [] ∧ (getZl t p).replay = [] ∧ (getZl t p).sent = []
  kept : (getZl t p).rx = (getZl s p).rx
  others : ∀ k, k ≠ p → zlState t k = zlState s k
  memory : t.memo.mem = s.memo.mem ∧ t.core.lmem = s.core.lmem

/-- What a package reset leaves (R592, R593, R613): the tick, the fuses, the straps, the life cycle, the retirement list
and the standby rail's registers stand; every other register has its reset value, but for the count of changes of holder, the
stages start again, nobody holds the reins, and device memory, cores, contexts, errors, schedule and serving are as at reset. -/
structure ResetDone (s t : State) : Prop where
  tick : t.tick = s.tick
  fuse : t.fuse = s.fuse
  queue : t.pending = s.pending
  held : ∀ r pg k, r = .thermTrip ∨ r = .pkgIdRails → rdR t r pg k = rdR s r pg k
  regs : ∀ r pg k, r ≠ .thermTrip → r ≠ .pkgIdRails → r ≠ .ownReinClaim → rdR t r pg k = regReset r % 2 ^ 64
  epoch : getF t fOwnReinClaimEpoch pgOwn = epochAfter s % 2 ^ 32
  staged : t.staged = []
  stage : stage t = 0
  reins : holder t = 7
  core : t.core = CoreSt.reset
  memo : t.memo = { MemSt.reset with host := s.memo.host, hostOld := s.memo.hostOld, pccs := freshPccs s.tick }
  cx : t.cx = CtxSt.reset
  er : t.er = ErrSt.reset
  sch : t.sch = SchedSt.reset
  srv : t.srv = ServeSt.reset
  straps : t.pkg.boot.straps = s.pkg.boot.straps
  life : t.pkg.boot.life = s.pkg.boot.life ∧ t.pkg.boot.service = s.pkg.boot.service ∧ t.pkg.boot.program = s.pkg.boot.program
    ∧ t.pkg.boot.programmed = s.pkg.boot.programmed
  flash : t.pkg.boot.retList = s.pkg.boot.retList

end Sys2Proof.Machine
end

