-- ==== Sys2Proof/Certificates/Slice0/Obligations.lean ====
section
/-!
DEFINITION. The statements for the provers.
-/
open Sys2Proof Sys2Proof.Machine

/-! ### The queue and the tick -/

/-- A step with a command at the front of the queue is `exec` of that command on the queue's rest. With no command waiting
one tick of 1 ns passes while power-good is asserted, and none otherwise: beside the tick only the sums of the allocator's
interval and what the answer times of submitted mailbox slots bring may change, and without such a slot not the latter. That
an idle step is one tick is the model's choice (log entry 2). -/
def Obligations.StepRunsFrontCommand : Prop :=
  (∀ (c : Instr) (s : State) (rest : List Instr),
    s.pending = c :: rest → step s = exec c { s with pending := rest })
  ∧ (∀ s : State, s.pending = [] →
    (s.pkg.boot.pwrgood = true → ∃ t, step s = .next t ∧ t.tick = (s.tick + 1) % 2 ^ 64
        ∧ t.pkg = { s.pkg with power := { s.pkg.power with
            occSum := t.pkg.power.occSum, coreSum := t.pkg.power.coreSum, mhzSum := t.pkg.power.mhzSum } }
        ∧ SameBut [.tick, .regs, .ho, .pkg] s t ∧ (s.ho.mb = [] → t.regs = s.regs ∧ t.ho = s.ho))
      ∧ (s.pkg.boot.pwrgood = false → step s = .next s))

/-- Power-good's rise sets the tick to zero, and no command but the three of the power rails ever changes it: a package
reset leaves it. -/
def Obligations.TickSetOnlyAtPowerGood : Prop :=
  (∀ (straps : Fin 4096) (s : State), s.pkg.boot.vmgmt = true → s.pkg.boot.pwrgood = false →
    ∃ t, exec (.powerGoodRise straps) s = .next t ∧ t.tick = 0)
  ∧ (∀ (c : Instr) (s t : State), exec c s = .next t → (∀ straps, c ≠ .powerGoodRise straps) →
      c ≠ .powerGoodLoss → c ≠ .vmgmtLoss → t.tick = s.tick)
  ∧ (∀ (c : Instr) (s t : State), exec c s = .next t → t.tick = s.tick ∨ t.tick = 0)

/-- Every command answers a next state, from every state: no rule of this hardware stops the block. None changes what
manufacture fused, and none takes or adds a waiting command. -/
def Obligations.EveryCommandGoesOn : Prop :=
  ∀ (c : Instr) (s : State), ∃ t, exec c s = .next t ∧ t.fuse = s.fuse ∧ t.pending = s.pending

/-- Every step keeps the canonical form of device memory and of local memory. -/
def Obligations.StepKeepsMemoriesCanonical : Prop :=
  ∀ s t : State, memOk s → step s = .next t → memOk t

/-- At reset both memories are canonical and the life cycle is one of its table. -/
def Obligations.ResetStateIsLegal : Prop := memOk State.reset ∧ lifeOk State.reset.pkg.boot = true

/-- Every step leaves the life-cycle state as it is, or takes a transition of Table: Life-cycle transitions; and it keeps
the record of the life cycle one that the table allows. -/
def Obligations.LifeCycleMovesOnlyByItsTable : Prop :=
  ∀ s t : State, lifeOk s.pkg.boot = true → step s = .next t → lifeOk t.pkg.boot = true ∧ lifeStep s t

/-! ### Rails, resets and the life cycle (16 to 18) -/

/-- The rails come up: VMGMT loads the registers of the management island; PWRGOOD starts the tick at zero, samples the
straps and begins start-up unless RESET_N is low; RESET_N's rise ends a reset. That the error log counts anew from
power-good's rise is the model's reading (log entry 8). -/
def Obligations.RailsRiseAndStartUpBegins : Prop :=
  (∀ s : State, s.pkg.boot.vmgmt = false → ∃ t, exec .vmgmtRise s = .next t
    ∧ rdR t .thermTrip pgTherm 0 = 0 ∧ rdR t .pkgIdRails pgPkgId 0 = 0
    ∧ regsBut [(.thermTrip, pgTherm, 0), (.pkgIdRails, pgPkgId, 0)] s t
    ∧ t = { s with regs := t.regs, pkg := { s.pkg with boot := { s.pkg.boot with
        vmgmt := true, pinLow := true, perst := [0, 1] } } })
  ∧ (∀ (straps : Fin 4096) (s : State), s.pkg.boot.vmgmt = true → s.pkg.boot.pwrgood = false →
    exec (.powerGoodRise straps) s = .next { s with
      tick := 0
      regs := s.regs.filter (fun e => !elogReg e.1.1)
      er := ErrSt.reset
      ho := { s.ho with linkDown := [(0, 0), (1, 0)] }
      pkg := { s.pkg with boot := { s.pkg.boot with
        pwrgood := true, resetN := !s.pkg.boot.pinLow, straps := straps } } })
  ∧ (∀ s : State, exec .resetNRelease s = .next { s with pkg := { s.pkg with boot := { s.pkg.boot with
      pinLow := false, resetN := s.pkg.boot.resetN || s.pkg.boot.pwrgood } } })

/-- RESET_N and LCS.CTRL.RESET reset the package unless fuse programming runs, which they wait for; RESET_N does nothing
but hold its land while PWRGOOD is low or a shutdown is latched. The end of programming lets a waiting reset happen. -/
def Obligations.PackageResetKeepsOnlyWhatTheRulesKeep : Prop :=
  (∀ s : State, s.pkg.boot.pwrgood = true → s.pkg.boot.tripN = false → programming s = false →
    ∃ t, exec .packageReset s = .next t ∧ ResetDone s t)
  ∧ (∀ s : State, s.pkg.boot.pwrgood = false ∨ s.pkg.boot.tripN = true →
    exec .packageReset s = .next { s with pkg := { s.pkg with boot := { s.pkg.boot with pinLow := true } } })
  ∧ (∀ (m : Nat) (s : State), running s = true → accepted s pgLcs m → programming s = false →
    ∃ t, exec (.lcsReset m) s = .next t ∧ ResetDone s t)
  ∧ (∀ (m : Nat) (s : State), running s = true → accepted s pgLcs m → programming s = true →
    exec (.lcsReset m) s = .next { s with pkg := { s.pkg with boot := { s.pkg.boot with resetPend := true } } })
  ∧ (∀ (t0 a : Nat) (s : State), s.pkg.boot.vmgmt = true → s.pkg.boot.program = some (t0, a) →
    s.pkg.boot.programmed = false → s.pkg.boot.resetPend = false →
    exec .fuseProgramDone s = .next { s with pkg := { s.pkg with boot := { s.pkg.boot with
      programmed := true
      service := if usesService s.pkg.boot.life t0 then s.pkg.boot.service + 1 else s.pkg.boot.service } } })
  ∧ (∀ (t0 a : Nat) (s : State), s.pkg.boot.vmgmt = true → s.pkg.boot.program = some (t0, a) →
    s.pkg.boot.programmed = false → s.pkg.boot.resetPend = true →
    ∃ t, exec .fuseProgramDone s = .next t ∧ t.pkg.boot.programmed = true ∧ t.pkg.boot.program = some (t0, a)
      ∧ t.pkg.boot.life = s.pkg.boot.life ∧ t.core = CoreSt.reset ∧ t.memo.mem = [] ∧ stage t = 0)

/-- PWRGOOD's fall loses every state outside the management island: the tick stops at zero, device memory is lost, and
the error log, THERM.TRIP and PKG_ID.RAILS stand; VMGMT's fall loses those too. Programming that power interrupts leaves
the old state or the new one, never another. -/
def Obligations.PowerLossKeepsOnlyTheIsland : Prop :=
  (∀ s : State, s.pkg.boot.pwrgood = true → ∃ t, exec .powerGoodLoss s = .next t
    ∧ t.tick = 0 ∧ t.pkg.boot.pwrgood = false ∧ t.pkg.boot.faultN = false ∧ t.pkg.boot.tripN = false
    ∧ t.memo = { MemSt.reset with host := s.memo.host, hostOld := s.memo.hostOld, pccs := freshPccs 0 } ∧ t.core = CoreSt.reset ∧ t.cx = CtxSt.reset
    ∧ t.sch = SchedSt.reset ∧ t.srv = ServeSt.reset ∧ t.er.elog = s.er.elog
    ∧ (∀ r pg k, r = .thermTrip ∨ r = .pkgIdRails ∨ r = .elogStatus → rdR t r pg k = rdR s r pg k)
    ∧ (∀ r pg k, r ≠ .thermTrip → r ≠ .pkgIdRails → r ≠ .elogStatus → rdR t r pg k = regReset r % 2 ^ 64)
    ∧ t.pkg.boot.life = s.pkg.boot.life
    ∧ (t.pkg.boot.program = s.pkg.boot.program ∧ (t.pkg.boot.programmed = s.pkg.boot.programmed ∨ t.pkg.boot.programmed = true)
        ∨ programming s = true ∧ t.pkg.boot.program = none))
  ∧ (∀ s : State, s.pkg.boot.vmgmt = true → ∃ t, exec .vmgmtLoss s = .next t
    ∧ t.pkg.boot.vmgmt = false ∧ t.tick = 0 ∧ t.regs = [] ∧ t.er = ErrSt.reset ∧ t.ho.i3cAddr = false
    ∧ t.memo = { MemSt.reset with host := s.memo.host, hostOld := s.memo.hostOld, pccs := freshPccs 0 } ∧ t.core = CoreSt.reset ∧ t.cx = CtxSt.reset
    ∧ t.pkg.boot.life = s.pkg.boot.life)

/-- A rail fault, or the loss of SYSCLK, gates the clocks and asserts FAULT_N; PKG_ID.RAILS holds the first one since
VALID was cleared, with its rail, kind and tick. -/
def Obligations.RailFaultGatesClocksAndIsHeld : Prop :=
  ∀ (c : Instr) (rail kind : Nat) (s : State),
    ((∃ (r : Fin 256) (high : Bool), c = .railFault r high ∧ mainRail r = true ∧ rail = r.val ∧ kind = if high then 2 else 1)
      ∨ (c = .sysclkLoss ∧ rail = 0xFF ∧ kind = 3)) →
    s.pkg.boot.pwrgood = true →
    ∃ t, exec c s = .next t
      ∧ t = { s with regs := t.regs, pkg := { s.pkg with boot := { s.pkg.boot with gated := true, faultN := true } } }
      ∧ (getB s fPkgIdRailsValid pgPkgId = true → t.regs = s.regs)
      ∧ (getB s fPkgIdRailsValid pgPkgId = false →
          regsBut [(.pkgIdRails, pgPkgId, 0)] s t ∧ getF t fPkgIdRailsRail pgPkgId = rail
            ∧ getF t fPkgIdRailsKind pgPkgId = kind ∧ getF t fPkgIdRailsTick pgPkgId = s.tick % 2 ^ 32
            ∧ getB t fPkgIdRailsValid pgPkgId = true)

/-- LCS.REQ: a legal transition whose CONFIRM names the reins' EPOCH and whose holder is the one required starts fuse
programming and changes nothing else; an illegal one is rejected with RANGE, and one while another is pending with
BUSY. LCS.RETLIST.CLEAR erases the list in MANUFACTURE and FIELD-SERVICE only. -/
def Obligations.LifeCycleRequestsFollowTheirTable : Prop :=
  (∀ (confirm : Fin 65536) (target : Fin 8) (m : Nat) (s : State), running s = true → accepted s pgLcs m →
    (s.pkg.boot.program = none → confirm.val = getF s fOwnReinClaimEpoch pgOwn % 65536 → transitionOk s target = true →
      (usesService s.pkg.boot.life target = true → m = 2) →
      exec (.lcsReq confirm target m) s = .next { s with pkg := { s.pkg with boot := { s.pkg.boot with
        program := some (target.val, s.tick), programmed := false } } })
    ∧ (s.pkg.boot.program = none → confirm.val ≠ getF s fOwnReinClaimEpoch pgOwn % 65536 ∨ transitionOk s target = false →
      ∃ t, exec (.lcsReq confirm target m) s = .next t ∧ t = { s with regs := t.regs }
        ∧ getF t fBlkWstatCode pgLcs = 4)
    ∧ (s.pkg.boot.program ≠ none → ∃ t, exec (.lcsReq confirm target m) s = .next t ∧ t = { s with regs := t.regs }
        ∧ getF t fBlkWstatCode pgLcs = 6))
  ∧ (∀ (m : Nat) (s : State), running s = true → accepted s pgLcs m →
    (s.pkg.boot.life = 0 ∨ s.pkg.boot.life = 3 →
      exec (.retlistClear m) s = .next { s with pkg := { s.pkg with boot := { s.pkg.boot with retList := [] } } })
    ∧ (s.pkg.boot.life ≠ 0 → s.pkg.boot.life ≠ 3 → ∃ t, exec (.retlistClear m) s = .next t ∧ t = { s with regs := t.regs }
        ∧ getF t fBlkWstatCode pgLcs = 7))

/-! ### Start-up and self-test (18) -/

/-- Each stage of start-up that passes hands over to the next, with what it found: the fuses' life-cycle state and
absent cores, the image taken, zeroed device memory, context 0 and the tick of READY. In DECOMMISSIONED it halts. Start-up
that cannot give the package a working set of units stops in FAILED with the first cause found: the boot ROM, both holders of
the package duties, no valid image, or what the span tests leave. -/
def Obligations.StartUpStagesFollowInOrder : Prop :=
  (∀ s : State, running s = true → stage s = 0 → s.pkg.boot.program = none →
    ∃ t, exec .fuseStageDone s = .next t ∧ stage t = (if s.pkg.boot.life = 4 then 7 else 1)
      ∧ t.core = { s.core with absent := fusedCores s } ∧ t.memo = s.memo ∧ t.pkg.boot = s.pkg.boot ∧ t.tick = s.tick
      ∧ t.fuse = s.fuse)
  ∧ (∀ (target a : Nat) (s : State), running s = true → stage s = 0 → s.pkg.boot.program = some (target, a) →
    s.pkg.boot.programmed = true → target < 5 →
    ∃ t, exec .fuseStageDone s = .next t ∧ stage t = (if target = 4 then 7 else 1) ∧ t.pkg.boot.life = target
      ∧ t.pkg.boot.program = none)
  ∧ (∀ (got expect : Nat) (s : State), running s = true → stage s = 1 →
    ∃ t, exec (.romTestDone false false 0 0 0 0 [] got expect) s = .next t ∧ stage t = 2
      ∧ t = { s with regs := t.regs, pkg := { s.pkg with boot := { s.pkg.boot with coresDown := [], tookOver := false } } }
      ∧ regsBut [(.lcsStatus, pgLcs, 0)] s t)
  ∧ (∀ (a b : List Nat) (bodyA bodyB : Bool) (slot seq : Nat) (s : State), running s = true → stage s = 2 →
    s.pkg.boot.imageDone = false → imageChoice s a b bodyA bodyB = some (slot, seq) →
    ∃ t, exec (.imageVerifyDone a b bodyA bodyB) s = .next t
      ∧ getF t fLcsImageSlot pgLcs = slot ∧ getF t fLcsImageSeq pgLcs = seq
      ∧ stage t = (if s.pkg.boot.spansDone then 4 else 3)
      ∧ t = { s with regs := t.regs, pkg := { s.pkg with boot := { s.pkg.boot with imageDone := true } } }
      ∧ regsBut [(.lcsImage, pgLcs, 0), (.lcsStatus, pgLcs, 0)] s t)
  ∧ (∀ (addr bit count : Nat) (s : State), running s = true → stage s = 2 ∨ stage s = 3 → s.pkg.boot.spansDone = false →
    workingSet s = none →
    ∃ t, exec (.spanTestDone 0 [] [] [] [] [] [] addr bit count) s = .next t
      ∧ (∀ a, a < 2 ^ 40 → cellGet t.memo.mem a = 0) ∧ t.pkg.boot = { s.pkg.boot with spansDone := true }
      ∧ stage t = (if s.pkg.boot.imageDone then 4 else 2) ∧ t.core = s.core ∧ t.cx = s.cx ∧ t.tick = s.tick
      ∧ regsBut [(.lcsStatus, pgLcs, 0), (.bistSummary, pgBist, 0)] s t)
  ∧ (∀ s : State, running s = true → stage s = 4 → ∃ t, exec .fwInitDone s = .next t
      ∧ stage t = 5 ∧ getF t fLcsStatusReadyTick pgLcs = s.tick % 2 ^ 32 ∧ getCtx t 0 = some fenivarCtx
      ∧ t.tick = s.tick ∧ t.fuse = s.fuse)
  ∧ (∀ (c : Instr) (cause : Nat) (s : State), running s = true →
    ((∃ ctl mgmt sched tc cx pcs got expect, c = .romTestDone true ctl mgmt sched tc cx pcs got expect ∧ stage s = 1 ∧ cause = 1)
      ∨ (∃ (mgmt : Fin 256) (sched tc cx : Fin 256) (pcs : List Nat) (got expect : Nat),
          c = .romTestDone false true mgmt sched tc cx pcs got expect ∧ bitAt mgmt 0 = true ∧ stage s = 1 ∧ cause = 2)
      ∨ (∃ a b bodyA bodyB, c = .imageVerifyDone a b bodyA bodyB ∧ stage s = 2 ∧ s.pkg.boot.imageDone = false
          ∧ imageChoice s a b bodyA bodyB = none ∧ cause = 3)
      ∨ (∃ addr bit count, c = .spanTestDone 0 [] [] [] [] [] [] addr bit count ∧ (stage s = 2 ∨ stage s = 3)
          ∧ s.pkg.boot.spansDone = false ∧ workingSet s = some cause)) →
    ∃ t, exec c s = .next t ∧ stage t = 6 ∧ getF t fLcsStatusFail pgLcs = cause)

/-- BIST.CMD in a state that permits it starts its slice or test: BUSY is set, RESULT cleared, and the command is held as
running; otherwise the first refusal code that applies is recorded with RESULT 3, and nothing runs. A slice or test ends: BUSY clears, SLICES counts it and RESULT says whether it passed; a failing core or bank is
retired, and a passing bank takes its place again. The next periodic slice starts INTERVAL ms after the last. -/
def Obligations.SelfTestsStartAndReport : Prop :=
  (∀ (c : Instr) (m : Nat) (codes : List (Bool × Nat)) (run : BistRun) (s : State), running s = true → accepted s pgBist m →
    ((∃ (sp : Fin 8) (co : Fin 16), c = .bistCore sp co m ∧ run = ⟨0, sp, co, 0, 0⟩
        ∧ codes = [(!bistUnitOpen s m, 1), (spanDown s sp || coreAbsent s sp co, 2), (lockedMode s && coreScheduled s sp co, 4),
          (s.pkg.boot.bist.isSome, 5), (s.er.asked.contains (retEntry 3 sp co 0 0 false), 6)])
      ∨ (∃ u : Fin 16, c = .bistPort u m ∧ run = ⟨2, zlSpan u, u, 0, 0⟩
        ∧ codes = [(!bistWideOpen s m, 1), (portMissing s u, 2), (s.pkg.boot.bist.isSome, 5)])
      ∨ (∃ sp : Fin 8, c = .bistSpan sp m ∧ run = ⟨3, sp, 0, 0, 0⟩
        ∧ codes = [(!bistWideOpen s m, 1), (spanDown s sp, 2), (s.pkg.boot.bist.isSome, 5), (!spanEmpty s sp, 6)])
      ∨ (∃ (sp : Fin 8) (die : Fin 16) (first : Fin 128) (more : Fin 4), c = .bistBanks sp die first more m
        ∧ run = ⟨1, sp, (List.range (more + 1)).foldl (fun acc p => acc + 2 ^ p) 0, die, first⟩
        ∧ codes = [(!bistUnitOpen s m, 1),
          (spanDown s sp || decide (32 ≤ first.val) || (List.range (more + 1)).any (fun p => pcGone s (pcNo sp (4 * die.val + p))), 2),
          (decide ((dieSpares s sp die).length < more + 1), 3), (s.pkg.boot.bist.isSome, 5),
          ((List.range (more + 1)).any (fun p => !(diePcs s sp die).contains p
            || s.er.asked.contains (retEntry 1 sp (4 * die.val + p) first 0 false)
            || s.er.asked.contains (retEntry 2 sp (4 * die.val + p) 0 0 false)), 6)])) →
    (codes.all (fun x => !x.1) = true → ∃ t, exec c s = .next t ∧ t.pkg.boot.bist = some run
        ∧ getB t fBistStatusBusy pgBist = true ∧ getF t fBistStatusResult pgBist = 0)
    ∧ (∀ code, codes.find? (·.1) = some (true, code) → ∃ t, exec c s = .next t ∧ t = { s with regs := t.regs }
        ∧ getF t fBistStatusRefuse pgBist = code ∧ getF t fBistStatusResult pgBist = 3
        ∧ regsBut [(.bistStatus, pgBist, 0)] s t))
  ∧ (∀ (c : Instr) (ok : Bool) (b : BistRun) (s : State), running s = true → s.pkg.boot.bist = some b →
    s.pkg.boot.waiting = [] →
    ((∃ addr bit count, c = .coreSliceDone true addr bit count ∧ b.kind = 0 ∧ ok = true)
      ∨ (∃ (addr bit count : Nat), c = .bankSliceDone 15 0 addr bit count ∧ bankSliceDoneReady b s = true ∧ ok = true)
      ∨ (∃ addr bit count, c = .bistDone false true [] [] [] [] addr bit count ∧ (b.kind = 2 ∨ b.kind = 3) ∧ ok = true)) →
    ∃ t, exec c s = .next t ∧ t.pkg.boot.bist = none ∧ getB t fBistStatusBusy pgBist = false
      ∧ getF t fBistStatusSlices pgBist = (getF s fBistStatusSlices pgBist + 1) % 2 ^ 32
      ∧ getF t fBistStatusResult pgBist = (if ok then 1 else 2))
  ∧ (∀ (addr bit count : Nat) (b : BistRun) (s : State), running s = true → s.pkg.boot.bist = some b → b.kind = 0 →
    coreAbsent s b.span b.unit = false → b.span < 8 → b.unit < 16 → s.pkg.boot.waiting = [] →
    ∃ t, exec (.coreSliceDone false addr bit count) s = .next t ∧ coreAbsent t b.span b.unit = true
      ∧ t.pkg.boot.bist = none ∧ getF t fBistStatusResult pgBist = 2)
  ∧ (∀ (t0 : Nat) (s : State), running s = true → sliceStartReady s = true → sliceTarget s = some t0 → t0 < 128 →
    ∃ t, exec .sliceStart s = .next t ∧ t.pkg.boot.bist = some ⟨0, t0 / 16 % 8, t0 % 16, 0, 0⟩
      ∧ t.pkg.boot.sliceAt = s.tick ∧ getB t fBistStatusBusy pgBist = true)

/-! ### Control cores, spans and the deck (01) -/

/-- The package control core's heartbeat is seen at its tick; after 1 ms without one, span 0's management core takes the
package duties over, with an edge at its own interrupt page, and when it has, it resumes the allocator from its last save
and marks the mailbox words that waited. The failure of both holders of the duties raises the package fault. A failed deck
edge sends the paths that used it through the other row and counts as a failed fabric at its lower-numbered end. A sender
without credits for 10 ms towards a receiver that reports empty is treated as a failed span fabric: the span and every unit
of it are absent, no record, tile-cache line or core of it is left in use, and the rest of the package goes on. That the
sender's span is the failed end, that a failed fabric leaves its control cores running, that management cores 1 to 7 fail
without further effect, and what a takeover leaves out are the model's choices (log entries 65, 64, 63 and 31). -/
def Obligations.DutiesPassOnAndAFailedSpanIsLost : Prop :=
  (∀ s : State, running s = true → coreDown s 8 = false → exec .pkgCtrlHeartbeat s =
      .next { s with pkg := { s.pkg with boot := { s.pkg.boot with beatAt := s.tick } } })
  ∧ (∀ s : State, running s = true → takeoverStartReady s = true → ∃ t, exec .takeoverStart s = .next t
      ∧ t.pkg.boot = { s.pkg.boot with takeover := some s.tick, coresDown := setIns s.pkg.boot.coresDown 8 }
      ∧ irqStack t 8 = [] ∧ getPriv t 0 26 = (edgeSt (getPriv s 0 26)).1 ∧ t.pkg.power = s.pkg.power
      ∧ regsBut [(.irqpMerged, pgIrqp 0, 0)] s t ∧ SameBut [.regs, .pkg] s t)
  ∧ (∀ s : State, running s = true → s.pkg.boot.takeover.isSome = true → coreDown s 0 = false →
      ∃ t, exec .takeoverComplete s = .next t
        ∧ t.pkg.boot = { s.pkg.boot with takeover := none, tookOver := true }
        ∧ t.pkg.power = { s.pkg.power with learned := s.pkg.power.saved.getD .reset } ∧ t.pkg.irq = s.pkg.irq
        ∧ (∀ x ∈ s.ho.mb, getB t fFnMbStateTakeover (pgFn x.1) x.2 = true)
        ∧ t.sch = s.sch ∧ t.srv = { s.srv with groups := t.srv.groups } ∧ t.core.lmem = s.core.lmem)
  ∧ (∀ (k : Fin 9) (s : State), running s = true → coreDown s k = false → ∃ t, exec (.mgmtCoreFailure k) s = .next t
      ∧ t.pkg.boot = { s.pkg.boot with
          coresDown := setIns s.pkg.boot.coresDown k.val
          pkgFault := s.pkg.boot.pkgFault || ((k = 0 || coreDown s 0) && (k = 8 || coreDown s 8)) }
      ∧ (k = 0 → irqStack t 0 = []) ∧ (k ≠ 0 → t.pkg.irq = s.pkg.irq) ∧ t.pkg.power = s.pkg.power ∧ SameBut [.pkg] s t)
  ∧ (∀ (a b : Fin 8) (s : State), running s = true → deckEdge (min a.val b) (max a.val b) = true →
      ∃ t, exec (.deckEdgeFail a b) s = .next t
        ∧ t = { s with pkg := { s.pkg with boot := { s.pkg.boot with edges := setIns s.pkg.boot.edges (edgeNo a b) } } }
        ∧ fabricFailed t (min a.val b) = true
        ∧ (∀ x y : Fin 8, x ≠ y → edgeNo a b ∈ pathEdges (straightPath x y) → pathUp t (otherPath x y) = true →
            deckPath t x y = some (otherPath x y)))
  ∧ (∀ (sp : Fin 8) (cls : Fin 4) (since : Nat) (s : State), running s = true → spanDown s sp = false →
      (since + 10000000 ≤ s.tick → ∃ t, exec (.creditTimeout sp cls true since) s = .next t ∧ spanDown t sp = true
        ∧ getPriv t sp 25 = (edgeSt (getPriv s sp 25)).1
        ∧ (∀ co, co < 16 → coreAbsent t sp co = true)
        ∧ (∀ r ∈ t.cx.recs, r.1.1 ≠ sp.val) ∧ (∀ l ∈ t.memo.tc, l.span ≠ sp.val)
        ∧ (∀ sp', sp' ≠ sp.val → spanDown t sp' = spanDown s sp'))
      ∧ (s.tick < since + 10000000 → exec (.creditTimeout sp cls true since) s = .next s)
      ∧ exec (.creditTimeout sp cls false since) s = .next s)

/-! ### Interrupts and elapsed time (19) -/

/-- A level source is sampled: an inactive one that is asserted becomes PENDING, and a pending one that is not becomes
INACTIVE. An edge makes an INACTIVE source PENDING and an ACTIVE one ACTIVE_PENDING; an edge that finds one waiting is
merged and counted in IRQP.MERGED. The timer gives its edge once, and software sources are edges. That an edge at a source
already PENDING is merged, and that IRQ_EDGE may name any edge source, are the model's choices (log entries 9 and 86). -/
def Obligations.SourcesTakeLevelsAndEdges : Prop :=
  (∀ (i : Fin 9) (n : Nat) (s : State), running s = true → (privPage i n).isSome = true →
    ∃ t, exec (.irqLevelChange false i n) s = .next t
      ∧ t = { s with pkg := { s.pkg with irq := { s.pkg.irq with priv := t.pkg.irq.priv } } }
      ∧ (∀ k j, (k, j) ≠ (i.val, n) → getPriv t k j = getPriv s k j)
      ∧ (privLevel s i n = true → getPriv s i n = .inactive → getPriv t i n = .pending)
      ∧ (privLevel s i n = false → getPriv s i n = .pending → getPriv t i n = .inactive)
      ∧ (getPriv s i n = .active → getPriv t i n = .active))
  ∧ (∀ (i : Fin 9) (n : Nat) (s : State), running s = true → n < 524 → (getShared s n).target ≠ 11 →
    ∃ t, exec (.irqLevelChange true i n) s = .next t
      ∧ getShared t n = { getShared s n with st := sampleSt (getShared s n).st (sharedLevel s n) }
      ∧ (∀ k, k ≠ n → getShared t k = getShared s k) ∧ t.regs = s.regs)
  ∧ (∀ (c : Instr) (i : Fin 9) (n : Nat) (s : State), running s = true →
    ((c = .irqEdge false i n ∧ privEdge i n = true ∧ (n = 26 → i = 0))
      ∨ (c = .irqTimer i ∧ n = 63 ∧ irqTimerReady i s = true)
      ∨ (∃ (k : Fin 16) (w : Fin 13), c = .irqpSwSet i (Fin.ofNat 65536 (2 ^ k.val)) w ∧ n = 32 + k.val ∧ w.val < 9
          ∧ stage s < 6 ∧ (i.val < 8 → spanDown s i = false))) →
    ∃ t, exec c s = .next t
      ∧ getPriv t i n = (edgeSt (getPriv s i n)).1 ∧ (∀ k j, (k, j) ≠ (i.val, n) → getPriv t k j = getPriv s k j)
      ∧ getF t fIrqpMergedCount (pgIrqp i)
          = (getF s fIrqpMergedCount (pgIrqp i) + (if (edgeSt (getPriv s i n)).2 then 1 else 0)) % 2 ^ 48
      ∧ regsBut [(.irqpMerged, pgIrqp i, 0)] s t)
  ∧ (∀ (c : Instr) (n : Fin 1024) (s : State), running s = true → 528 ≤ n.val → (getShared s n).target ≠ 11 →
    ((∃ i, c = .irqEdge true i n) ∨ (∃ m, c = .irqSwSet n m ∧ accepted s pgIrq m)) →
    ∃ t, exec c s = .next t
      ∧ getShared t n = { getShared s n with st := (edgeSt (getShared s n).st).1 }
      ∧ (∀ k, k ≠ n.val → getShared t k = getShared s k))
  ∧ (∀ (n : Fin 1024) (m : Nat) (s : State), running s = true → n.val < 528 → accepted s pgIrq m →
    ∃ t, exec (.irqSwSet n m) s = .next t ∧ t = { s with regs := t.regs } ∧ getF t fBlkWstatCode pgIrq = 4)

/-- A claim puts the deliverable source of highest priority, and of lowest id among equals, on the core's stack and makes
it active; a completion that names the top pops it, and one that does not is recorded, with an NMI and an IRQ_STACK
entry, and changes no stack; STACK_RESET empties it. Only the page's own control core may do so. -/
def Obligations.PriorityStackNestsClaims : Prop :=
  (∀ (i : Fin 9) (w : Fin 13) (s : State), running s = true → stage s < 6 → w.val < 9 → irqServer s i = w.val →
    (i.val < 8 → spanDown s i = false) →
    (∀ id, irqHighest (irqSettle s i) i = some id → ∃ t, exec (.irqClaim i w) s = .next t
        ∧ irqStack t i = id :: irqStack s i ∧ t.regs = s.regs
        ∧ (id < 64 → getPriv t i id = claimSt (getPriv (irqSettle s i) i id)))
    ∧ (irqHighest (irqSettle s i) i = none → ∃ t, exec (.irqClaim i w) s = .next t
        ∧ irqStack t i = irqStack s i ∧ i.val ∈ t.pkg.irq.empty ∧ t.regs = s.regs)
    ∧ (∀ (id : Fin 4096) (rest : List Nat), irqStack s i = id.val :: rest → id.val < 64 →
        ∃ t, exec (.irqComplete i id w) s = .next t ∧ irqStack t i = rest
          ∧ getPriv t i id = doneSt (privEdge i id) (privLevel s i id) (getPriv s i id) ∧ t.regs = s.regs)
    ∧ (∀ (id : Fin 4096), (irqStack s i).head? ≠ some id.val → getB s fIrqpFaultValid (pgIrqp i) = false →
        (irqStack s i).length ≤ 16 → (irqStack s i).headD 0xFFF < 4096 →
        ∃ t, exec (.irqComplete i id w) s = .next t ∧ t.pkg.irq.idStacks = s.pkg.irq.idStacks
          ∧ t.pkg.irq.priv = s.pkg.irq.priv ∧ t.pkg.irq.shared = s.pkg.irq.shared
          ∧ t.pkg.irq.nmi = s.pkg.irq.nmi ++ [i.val]
          ∧ getF t fIrqpFaultGot (pgIrqp i) = id.val ∧ getF t fIrqpFaultTop (pgIrqp i) = (irqStack s i).headD 0xFFF
          ∧ getF t fIrqpFaultDepth (pgIrqp i) = (irqStack s i).length ∧ getB t fIrqpFaultValid (pgIrqp i) = true)
    ∧ (∃ t, exec (.irqStackReset i w) s = .next t ∧ irqStack t i = [] ∧ t.regs = s.regs))
  ∧ (∀ (i : Fin 9) (id : Fin 4096) (w : Fin 13) (s : State), running s = true → (9 ≤ w.val ∨ irqServer s i ≠ w.val) →
    (i.val < 8 → spanDown s i = false) →
    ∃ t, exec (.irqComplete i id w) s = .next t ∧ t = { s with regs := t.regs } ∧ getF t fBlkWstatCode (pgIrqp i) = 7)

/-- IRQ.CFG moves a source that is not taken at once, and one that is taken when it completes; IRQ.EOI at its own host or
management target completes it; a pending source of a PF sends its message where the entry is unmasked and becomes
active; an entry that the host unmasks sends the message it held. -/
def Obligations.SharedSourcesMoveAndReachTheHost : Prop :=
  (∀ (target prio : Fin 16) (enable : Bool) (m : Nat) (s : State), running s = true → accepted s pgIrq m →
    target.val ≠ 11 → (getShared s (getF s fIrqSelSrc pgIrq)).target ≠ 11 →
    targetRejects s (getF s fIrqSelSrc pgIrq) target m = none →
    ∃ t, exec (.irqTargetWrite target prio enable m) s = .next t ∧ t.regs = s.regs
      ∧ getShared t (getF s fIrqSelSrc pgIrq) =
          (if srcTaken (getShared s (getF s fIrqSelSrc pgIrq)).st
           then { getShared s (getF s fIrqSelSrc pgIrq) with prio := prio.val, enable := enable, held := some target.val }
           else { getShared s (getF s fIrqSelSrc pgIrq) with
             prio := prio.val, enable := enable, target := target.val, held := none })
      ∧ (∀ k, k ≠ getF s fIrqSelSrc pgIrq → getShared t k = getShared s k))
  ∧ (∀ (n : Fin 1024) (m : Nat) (s : State), running s = true → accepted s pgIrq m →
    (getShared s n).target = eoiTarget m → srcTaken (getShared s n).st = true → m < 2 → (getShared s n).held = none →
    ∃ t, exec (.irqEoi n m) s = .next t ∧ t.regs = s.regs
      ∧ getShared t n = { getShared s n with st := doneSt (sharedEdge n) (sharedLevel s n) (getShared s n).st, held := none })
  ∧ (∀ (n : Fin 1024) (m : Nat) (s : State), running s = true → accepted s pgIrq m →
    (getShared s n).target ≠ eoiTarget m ∨ srcTaken (getShared s n).st = false →
    ∃ t, exec (.irqEoi n m) s = .next t ∧ t = { s with regs := t.regs } ∧ getF t fBlkWstatCode pgIrq = 4)
  ∧ (∀ (fn : Fin 128) (n : Nat) (s : State), running s = true → linkUp s fn = true → fn.val % 64 = 0 → n < 1024 →
    (getShared s n).target = 9 + fn.val / 64 → (getShared s n).st = .pending → (getShared s n).enable = true →
    s.pkg.irq.unmasked.contains (fn.val, 16 + n) = true →
    ∃ t, exec (.msixSend 2 fn n) s = .next t ∧ t.pkg.irq.sent = s.pkg.irq.sent ++ [(fn.val, 16 + n)]
      ∧ getShared t n = { getShared s n with st := .active } ∧ t.regs = s.regs)
  ∧ (∀ (fn : Fin 128) (n : Nat) (s : State), running s = true → linkUp s fn = true →
    s.pkg.irq.ringDue.contains (fn.val, n) = true →
    s.pkg.irq.unmasked.contains (fn.val, getF s fFnSqCfgVector (pgFn fn) n) = true →
    exec (.msixSend 0 fn n) s = .next { s with pkg := { s.pkg with irq := { s.pkg.irq with
      ringDue := s.pkg.irq.ringDue.filter (· ≠ (fn.val, n))
      sent := s.pkg.irq.sent ++ [(fn.val, getF s fFnSqCfgVector (pgFn fn) n)] } } })
  ∧ (∀ (fn : Fin 128) (entry : Nat) (s : State), running s = true → linkUp s fn = true → entry < msixEntries fn →
    s.pkg.irq.heldMsg.contains (fn.val, entry) = true →
    ∃ t, exec (.msixEntryUnmask fn entry) s = .next t ∧ t.pkg.irq.sent = s.pkg.irq.sent ++ [(fn.val, entry)]
      ∧ t.pkg.irq.heldMsg = s.pkg.irq.heldMsg.filter (· ≠ (fn.val, entry))
      ∧ t.pkg.irq.unmasked.contains (fn.val, entry) = true ∧ t.regs = s.regs)

/-! ### Power and thermal control (16) -/

/-- LIMIT is the smaller of 3,000 W and the budget in force. A budget of 600 to 3,000 W is accepted at once and shown in
PWR.LIMIT; any other value, or another effecter, is answered with its completion code and changes nothing else; after
TIMEOUT_S seconds the fallback budget applies and its interrupt source is set; in locked cadence a decrease reaches the
cap limiter only when its delay has passed. Every request arrives as an edge of source 17 at the package control core. That
no timeout comes before a first budget, and the content of base responses, are the model's choices (log entries 72
and 12). -/
def Obligations.RackBudgetSetsTheLimit : Prop :=
  (∀ (w : Nat) (s : State), running s = true → s.ho.i3cAddr = true → stage s = 5 → 600 ≤ w → w ≤ 3000 →
    ∃ t, exec (.setNumericEffecterValue 1 w) s = .next t
      ∧ t.pkg.power.budget = some w ∧ t.pkg.power.fallback = false ∧ t.pkg.power.pldm = some .ok
      ∧ limitW t = w ∧ getF t fPwrLimitRackW pgPwr = w ∧ getF t fPwrLimitLimitW pgPwr = w ∧ getF t fPwrLimitSrc pgPwr = 1
      ∧ t.pkg.power.budgetAt = s.tick
      ∧ (if getB s fFrameCtrlMode pgFrame && decide (w < limitW s)
         then t.pkg.power.capLimit = s.pkg.power.capLimit ∧ t.pkg.power.decs = s.pkg.power.decs ++ [(s.tick + 20000000, w)]
         else t.pkg.power.capLimit = w ∧ t.pkg.power.decs = [])
      ∧ getPriv t 8 17 = (edgeSt (getPriv s 8 17)).1
      ∧ regsBut [(.pwrLimit, pgPwr, 0), (.irqpMerged, pgIrqp 8, 0)] s t)
  ∧ (∀ (id w : Nat) (s : State), running s = true → s.ho.i3cAddr = true → stage s = 5 →
    (id ≠ 1 ∨ w < 600 ∨ 3000 < w) →
    ∃ t, exec (.setNumericEffecterValue id w) s = .next t
      ∧ t.pkg.power = { s.pkg.power with pldm := some (if id ≠ 1 then .invalidId else .invalidData) }
      ∧ MctpEdge s t ∧ t.free = s.free)
  ∧ (∀ s : State, running s = true → budgetTimeoutReady s = true → ∃ t, exec .budgetTimeout s = .next t
      ∧ t.pkg.power.fallback = true ∧ t.pkg.power.budget = some (getF s fPwrLimitFallbackW pgPwr)
      ∧ getF t fPwrLimitSrc pgPwr = 2 ∧ bitAt (blkIrqPend t pgPwr) 1 = true)
  ∧ (∀ (d : Nat × Nat) (r : List (Nat × Nat)) (s : State), running s = true → s.pkg.power.decs = d :: r → d.1 ≤ s.tick →
    exec .budgetDecreaseApply s = .next { s with pkg := { s.pkg with power := { s.pkg.power with capLimit := d.2, decs := r } } })
  ∧ (∀ (id : Nat) (s : State), running s = true → s.ho.i3cAddr = true → stage s = 5 →
    ∃ t, exec (.pldmGetSensor id) s = .next t
      ∧ t.pkg.power = { s.pkg.power with pldm := some (pldmSensor s id) } ∧ MctpEdge s t ∧ t.free = s.free)
  ∧ (∀ (check : Fin 4) (s : State), running s = true → s.ho.i3cAddr = true → stage s = 5 → check ≠ 0 →
    ∃ t, exec (.pldmBaseRequest check) s = .next t
      ∧ t.pkg.power = { s.pkg.power with
          pldm := some (if check = 1 then .invalidLength else if check = 2 then .invalidType else .invalidData) }
      ∧ MctpEdge s t ∧ t.free = s.free)
  ∧ (∀ s : State, running s = true → s.ho.i3cAddr = true → stage s = 5 → ∃ w t, exec (.pldmBaseRequest 0) s = .next t
      ∧ t.pkg.power = { s.pkg.power with pldm := some (.base w) } ∧ MctpEdge s t)

/-- A power sample above 3,600 W stretches clocks and holds stitch starts until one at or below 3,300 W; a sample above
LIMIT while the 1 ms average is above it lowers the cap ceiling by 50 MHz, not below 1,000 MHz; with room for 100,000
ticks it rises by 50 MHz. Ceilings and droops change nothing but power, clocks and their registers. The phase of the
samples, and a droop's end that counts from its detection, are the model's choices (log entries 70 and 7). -/
def Obligations.LimitersActOnEverySample : Prop :=
  (∀ (dense nb pier fabric : Nat) (s : State), running s = true → s.pkg.power.powerAt + 10000 ≤ s.tick → ∃ t, exec (.powerSample dense nb pier fabric) s = .next t
    ∧ t.pkg.power.limiting = (if 3600 < dense + nb + pier + fabric then true
        else if dense + nb + pier + fabric ≤ 3300 then false else s.pkg.power.limiting)
    ∧ t.pkg.power.samples = ((dense, nb, pier, fabric) :: s.pkg.power.samples).take 100 ∧ t.pkg.power.powerAt = s.tick
    ∧ t.pkg.power.capCeil = (if capW s < dense + nb + pier + fabric
          ∧ capW s * t.pkg.power.samples.length < (t.pkg.power.samples.map sampleW).sum
        then max 1000 (s.pkg.power.capCeil - 50) else s.pkg.power.capCeil)
    ∧ SameBut [.regs, .pkg] s t ∧ t.pkg.boot = s.pkg.boot ∧ t.pkg.irq = s.pkg.irq ∧ t.pkg.link = s.pkg.link)
  ∧ (∀ s : State, running s = true → capCeilingRiseReady s = true → ∃ t, exec .capCeilingRise s = .next t
    ∧ t.pkg.power = { s.pkg.power with capCeil := min 2200 (s.pkg.power.capCeil + 50), capAt := s.tick }
    ∧ SameBut [.regs, .pkg] s t)
  ∧ (∀ (sp : Fin 8) (s : State), running s = true → thermalCeilingRiseReady sp s = true →
    ∃ t, exec (.thermalCeilingRise sp) s = .next t ∧ thermCeiling t sp = min 2200 (thermCeiling s sp + 50)
      ∧ (∀ k, k ≠ sp.val → thermCeiling t k = thermCeiling s k) ∧ SameBut [.regs, .pkg] s t)
  ∧ (∀ (kind : Fin 3) (unit : Fin 128) (s : State), running s = true → ∃ t, exec (.droopDetect kind unit) s = .next t
      ∧ (kind.val, unit.val, s.tick) ∈ t.pkg.power.droops
      ∧ t = { s with pkg := { s.pkg with power := { s.pkg.power with droops := t.pkg.power.droops, acted := true } } })
  ∧ (∀ (kind : Fin 3) (unit : Fin 128) (s : State), running s = true → droopReleaseReady kind unit s = true →
    ∃ t, exec (.droopRelease kind unit) s = .next t ∧ (∀ at_, (kind.val, unit.val, at_) ∉ t.pkg.power.droops)
      ∧ (∀ d ∈ s.pkg.power.droops, d.1 ≠ kind.val ∨ d.2.1 ≠ unit.val → d ∈ t.pkg.power.droops)
      ∧ t = { s with pkg := { s.pkg with power := { s.pkg.power with droops := t.pkg.power.droops } } })

/-- A sample takes every valid reading and discards the others; three discards in a row mark the sensor FAILED. A valid
reading at or above its class's trip level latches the shutdown: clocks gated, THERMTRIP_N asserted and THERM.TRIP set.
A stack's band rises on one reading and falls when its readings have stayed 2 °C below; a rise beyond THERM.RATE sets
its alarm. The phase of the samples is the model's choice (log entry 70). -/
def Obligations.SensorsProtectThePackage : Prop :=
  (∀ (readings : List Int) (s : State), running s = true → s.pkg.power.sensorAt + 10000 ≤ s.tick → ∃ t, exec (.sensorSample readings) s = .next t
    ∧ (∀ n, n < 104 → (getSensor s n).failed = false →
        (readingValid (getSensor s n) (readings.getD n 32767) = true →
          (getSensor t n).last = some (readings.getD n 32767) ∧ (getSensor t n).discards = 0
            ∧ (getSensor t n).hist = histAdd s.tick (readings.getD n 32767) (getSensor s n).hist)
        ∧ (readingValid (getSensor s n) (readings.getD n 32767) = false →
          (getSensor t n).last = (getSensor s n).last ∧ (getSensor t n).discards = (getSensor s n).discards + 1
            ∧ (getSensor t n).failed = decide (3 ≤ (getSensor s n).discards + 1)))
    ∧ (∀ n, n < 104 → (getSensor s n).failed = true → getSensor t n = getSensor s n ∧ getB t fThermAlarmSensorFail pgTherm = true)
    ∧ (s.pkg.boot.tripN = true ∨ (∃ n, n < 104 ∧ (getSensor s n).failed = false
          ∧ readingValid (getSensor s n) (readings.getD n 32767) = true ∧ tripLevel (sensorClass n) ≤ readings.getD n 32767) →
        t.pkg.boot.tripN = true)
    ∧ (s.pkg.boot.tripN = false → t.pkg.boot.tripN = true → t.pkg.boot.gated = true ∧ getF t fThermTripCause pgTherm ≠ 0)
    ∧ SameBut [.regs, .pkg] s t ∧ t.pkg.irq = s.pkg.irq ∧ t.pkg.link = s.pkg.link)
  ∧ (∀ s : State, running s = true → s.pkg.power.rateAt + 100000 ≤ s.tick → ∃ t, exec .rateCheck s = .next t
    ∧ t.pkg = { s.pkg with power := { s.pkg.power with rateAt := s.tick } }
    ∧ ((∃ n a b, n < 104 ∧ (getSensor s n).failed = false ∧ (getSensor s n).last = some a
          ∧ histThen s.tick (getSensor s n).hist = some b ∧ (getF s fThermRateRate pgTherm : Int) < a - b) →
        getB t fThermAlarmRate pgTherm = true)
    ∧ ((∀ n a b, n < 104 → (getSensor s n).failed = false → (getSensor s n).last = some a →
          histThen s.tick (getSensor s n).hist = some b → a - b ≤ (getF s fThermRateRate pgTherm : Int)) → t.regs = s.regs)
    ∧ SameBut [.regs, .pkg] s t)
  ∧ (∀ (sp : Fin 8) (s : State), running s = true → bandWanted s sp ≠ getF s fStkBandBand (pgStk sp) →
    ∃ t, exec (.bandChange sp) s = .next t ∧ getF t fStkBandBand (pgStk sp) = bandWanted s sp
      ∧ getF t fStkBandChanges (pgStk sp) = min (getF s fStkBandChanges (pgStk sp) + 1) (2 ^ 24 - 1)
      ∧ (∀ p, p < pcCount s → (getPcc t (pcNo sp p)).bandNew = some (bandWanted s sp))
      ∧ t.memo.mem = s.memo.mem ∧ t.core = s.core)

/-- Every 100 µs the allocator learns from the interval that ends, unless a protection acted or learning is frozen, and sets
one frequency per span and one near-bank and pier share, as its pseudo-code gives them, with duty 16 in free-running mode; in
locked cadence it sets only a duty. The means of the interval are over its ticks and the present cores, the model's choice
(log entry 6). -/
def Obligations.AllocatorSetsOneSettingPerInterval : Prop :=
  ∀ s : State, running s = true → allocatorIntervalReady s = true →
    ∃ t, exec .allocatorInterval s = .next t ∧ t.pkg.power.allocAt = s.tick ∧ t.pkg.power.acted = false
      ∧ t.pkg.power.occSum = [0, 0, 0, 0] ∧ t.pkg.power.coreSum = 0 ∧ t.pkg.power.mhzSum = 0
      ∧ t.pkg.power.learned = (if learnHeld s then s.pkg.power.learned
          else learnInterval s (occLast s.pkg.power) (clockMean s.pkg.power))
      ∧ (cadenceLocked s = true → t.sch.allocDuty = min (powerDuty s) t.pkg.power.learned.dth
          ∧ (∀ sp, allocMhz t sp = allocMhz s sp) ∧ t.staged = s.staged)
      ∧ (∀ x, cadenceLocked s = false → x = allocate s (occNext s (occLast s.pkg.power)) t.pkg.power.learned →
          (∀ f ∈ x.freq, allocMhz t f.1 = f.2 % 2 ^ 12 ∧ getF t fPwrActNbSlots pgPwr f.1 = slotsOf x.nb
            ∧ getF t fPwrActPierPct pgPwr f.1 = pierPct x.pier)
          ∧ t.pkg.power.nbAlloc = fp32Code x.nb ∧ t.pkg.power.pierAlloc = fp32Code x.pier ∧ t.pkg.power.limited = x.limited
          ∧ t.sch.allocDuty = 16)
      ∧ SameBut [.regs, .staged, .sch, .pkg] s t

/-- Learned values are saved and reset as a whole, TR_CLEAR zeroes the durations it names and no others, and a write of
TIME_CORR takes its offset with the tick. -/
def Obligations.LearnedValuesDurationsAndTimeAreWritten : Prop :=
  (∀ s : State, running s = true → learnSaveReady s = true →
    exec .learnSave s = .next { s with pkg := { s.pkg with power := { s.pkg.power with
      saved := some s.pkg.power.learned, savedAt := s.tick } } })
  ∧ (∀ (m : Nat) (s : State), running s = true → accepted s pgPwr m →
    exec (.learnReset m) s = .next { s with pkg := { s.pkg with power := { s.pkg.power with learned := .reset } } })
  ∧ (∀ (mask m : Nat) (s : State), running s = true → accepted s pgPwr m → ∃ t, exec (.trClear mask m) s = .next t
      ∧ (∀ r, r < 7 → getF t fPwrTrTimeTicks pgPwr r = if bitAt mask r then 0 else getF s fPwrTrTimeTicks pgPwr r)
      ∧ regsBut ((List.range 7).map (fun r => (.pwrTrTime, pgPwr, r))) s t ∧ t = { s with regs := t.regs })
  ∧ (∀ (offset m : Nat) (s : State), running s = true → accepted s pgTime m → ∃ t, exec (.timeCorrWrite offset m) s = .next t
      ∧ getF t fTimeCorrOffset pgTime = offset % 2 ^ 64 ∧ getB t fTimeCorrStatValid pgTime = true
      ∧ getF t fTimeCorrStatAt pgTime = s.tick % 2 ^ 63
      ∧ regsBut [(.timeCorr, pgTime, 0), (.timeCorrStat, pgTime, 0)] s t ∧ t = { s with regs := t.regs })

/-! ### The reins (14) -/

/-- Unheld reins go to the first eligible claimant; a pending handover goes to its target; a release and 500 ms without a
heartbeat leave nobody; every change of holder counts EPOCH. A claim or acceptance by a master that is not eligible is
rejected with PERMISSION, and a claim of held reins with HELD. -/
def Obligations.ReinsPassOnlyAsTheRulesSay : Prop :=
  (∀ (m : Nat) (s : State), islandRuns s = true → s.pkg.boot.gated = false ∨ m = 2 → stage s < 6 → eligible s m = true →
    (holder s = 7 → ∃ t, exec (.reinClaim m) s = .next t ∧ ReinsPass s t m
        ∧ getF t fOwnHeartbeatLast pgOwn = s.tick % 2 ^ 63)
    ∧ (holder s ≠ 7 → ∃ t, exec (.reinClaim m) s = .next t ∧ WriteRejected s t pgOwn 8)
    ∧ (handPending s = true → getF s fOwnHandoverTarget pgOwn = m → s.tick ≤ 100000000 + s.ho.handoverAt →
        ∃ t, exec (.reinAccept m) s = .next t ∧ ReinsPass s t m ∧ getF t fOwnHeartbeatLast pgOwn = s.tick % 2 ^ 63)
    ∧ (handPending s = true → getF s fOwnHandoverTarget pgOwn ≠ m → s.tick ≤ 100000000 + s.ho.handoverAt →
        ∃ t, exec (.reinAccept m) s = .next t ∧ WriteRejected s t pgOwn 8)
    ∧ (handPending s = true → 100000000 + s.ho.handoverAt < s.tick → ∃ t, exec (.reinAccept m) s = .next t
        ∧ handPending t = false ∧ holder t = holder s ∧ getF t fBlkWstatCode pgOwn = 8)
    ∧ (handPending s = false → ∃ t, exec (.reinAccept m) s = .next t
        ∧ WriteRejected s t pgOwn (if s.ho.cancelAt = some (s.tick, m) then 4 else 8)))
  ∧ (∀ (m : Nat) (s : State), islandRuns s = true → s.pkg.boot.gated = false ∨ m = 2 → eligible s m = false →
    (∃ t, exec (.reinClaim m) s = .next t ∧ WriteRejected s t pgOwn 7)
    ∧ (∃ t, exec (.reinAccept m) s = .next t ∧ WriteRejected s t pgOwn 7))
  ∧ (∀ (m : Nat) (s : State), islandRuns s = true → s.pkg.boot.gated = false ∨ m = 2 → stage s < 6 → m < 4 → holder s = m →
    ∃ t, exec (.reinRelease m) s = .next t ∧ ReinsPass s t 7 ∧ getF t fOwnHeartbeatLast pgOwn = s.tick % 2 ^ 63)
  ∧ (∀ s : State, islandRuns s = true → heartbeatLapseReady s = true →
    ∃ t, exec .heartbeatLapse s = .next t ∧ ReinsPass s t 7)
  ∧ (∀ s : State, islandRuns s = true → heartbeatLapseReady s = false → exec .heartbeatLapse s = .next s)

/-- A handover started by the holder towards another eligible master is pending with its start tick; the holder may cancel
it, and it lapses after 100 ms, the holder keeping the reins; a heartbeat records the tick. None of these changes HOLDER
or EPOCH, and each is rejected with NOT_HOLDER from any other master. -/
def Obligations.HandoversAndHeartbeatsAreTheHolders : Prop :=
  (∀ (m : Nat) (target : Fin 8) (s : State), islandRuns s = true → s.pkg.boot.gated = false ∨ m = 2 → stage s < 6 →
    m < 4 → holder s = m →
    (target.val ≠ 7 → target.val ≠ m → eligible s target = true → ∃ t, exec (.handoverStart m target) s = .next t
        ∧ getF t fOwnHandoverTarget pgOwn = target ∧ handPending t = true ∧ t.ho.handoverAt = s.tick
        ∧ getF t fOwnHeartbeatLast pgOwn = s.tick % 2 ^ 63 ∧ rdR t .ownReinClaim pgOwn 0 = rdR s .ownReinClaim pgOwn 0
        ∧ t.ho = { s.ho with handoverAt := s.tick } ∧ SameBut [.regs, .ho, .pkg] s t)
    ∧ (target.val ≠ 7 → target.val = m ∨ eligible s target = false →
        ∃ t, exec (.handoverStart m target) s = .next t ∧ WriteRejected s t pgOwn 4)
    ∧ (∃ t, exec (.handoverStart m 7) s = .next t ∧ exec (.handoverCancel m) s = .next t)
    ∧ (∃ t, exec (.handoverCancel m) s = .next t ∧ getF t fOwnHandoverTarget pgOwn = 7 ∧ handPending t = false
        ∧ t.ho.cancelAt = (if handPending s then some (s.tick, getF s fOwnHandoverTarget pgOwn) else s.ho.cancelAt)
        ∧ rdR t .ownReinClaim pgOwn 0 = rdR s .ownReinClaim pgOwn 0 ∧ SameBut [.regs, .ho] s t)
    ∧ (∃ t, exec (.heartbeat m) s = .next t ∧ getF t fOwnHeartbeatLast pgOwn = s.tick % 2 ^ 63
        ∧ regsBut [(.ownHeartbeat, pgOwn, 0)] s t ∧ t = { s with regs := t.regs }))
  ∧ (∀ (m : Nat) (target : Fin 8) (s : State), islandRuns s = true → s.pkg.boot.gated = false ∨ m = 2 → stage s < 6 →
    4 ≤ m ∨ holder s ≠ m →
    (∃ t, exec (.handoverStart m target) s = .next t ∧ WriteRejected s t pgOwn 3)
    ∧ (∃ t, exec (.handoverCancel m) s = .next t ∧ WriteRejected s t pgOwn 3)
    ∧ (∃ t, exec (.heartbeat m) s = .next t ∧ WriteRejected s t pgOwn 3)
    ∧ (∃ t, exec (.reinRelease m) s = .next t ∧ WriteRejected s t pgOwn 3))
  ∧ (∀ s : State, islandRuns s = true → handPending s = true → 100000000 + s.ho.handoverAt < s.tick →
    ∃ t, exec .handoverLapse s = .next t ∧ handPending t = false ∧ holder t = holder s
      ∧ getF t fOwnReinClaimEpoch pgOwn = getF s fOwnReinClaimEpoch pgOwn ∧ bitAt (blkIrqPend t pgOwn) 2 = true
      ∧ SameBut [.regs, .pkg] s t)
  ∧ (∀ (on : Bool) (s : State), s.pkg.boot.vmgmt = true →
    exec (.i3cDynamicAddress on) s = .next { s with ho := { s.ho with i3cAddr := on } })

/-! ### Rings, ports and the aperture (14) -/

/-- A doorbell sets TAIL where it runs no further ahead of HEAD than the ring holds; the entry at HEAD is read from its address
in the ring and held, or halts its ring with a REFUSED record; an accepted launch entry takes the next sequence number, its ACCEPT record and one
launch per core of its mask, and HEAD passes it. -/
def Obligations.SubmissionRingsRun : Prop :=
  (∀ (fn : Fin 128) (q : Fin 16) (tail : Nat) (s : State), running s = true → fnReach s fn = true → stage s = 5 →
    s.pkg.boot.pkgFault = false →
    ((2 ^ 32 + tail % 2 ^ 32 - getF s fFnSqHeadHead (pgFn fn) q) % 2 ^ 32 ≤ sqSize s fn q →
      ∃ t, exec (.doorbell fn q tail) s = .next t ∧ getF t fFnDbTail (pgFn fn) q = tail % 2 ^ 32
        ∧ regsBut [(.fnDb, pgFn fn, q)] s t ∧ t = { s with regs := t.regs })
    ∧ (sqSize s fn q < (2 ^ 32 + tail % 2 ^ 32 - getF s fFnSqHeadHead (pgFn fn) q) % 2 ^ 32 →
      ∃ t, exec (.doorbell fn q tail) s = .next t ∧ rdR t .fnDb (pgFn fn) q = rdR s .fnDb (pgFn fn) q
        ∧ bitAt (getF t fBlkErrAcc (pgFn fn)) 1 = true ∧ t = { s with regs := t.regs }))
  ∧ (∀ (fn : Fin 128) (q : Fin 16) (words : List Nat) (s : State), running s = true →
    submissionEntryReadReady fn q s = true →
    (getB s fFnSqCfgKind (pgFn fn) q = true ∨ launchRefusal s fn (launchEntryOf (entryWords words)) = none →
      exec (.submissionEntryRead fn q words) s
        = .next { s with memo := { s.memo with hostOld := s.memo.host.length }, ho := { s.ho with
            subAddr := put s.ho.subAddr (fn.val, q.val) (4096 * getF s fFnSqBaseBase (pgFn fn) q
              + 64 * (getF s fFnSqHeadHead (pgFn fn) q % sqSize s fn q))
            subs := s.ho.subs ++ [((fn.val, q.val), entryWords words)] } })
    ∧ (∀ code, code < 256 → getB s fFnSqCfgKind (pgFn fn) q = false →
      launchRefusal s fn (launchEntryOf (entryWords words)) = some code →
      ∃ t, exec (.submissionEntryRead fn q words) s = .next t ∧ getF t fFnSqStateState (pgFn fn) q = 2
        ∧ getF t fFnSqStateCode (pgFn fn) q = code ∧ getF t fFnSqHeadHead (pgFn fn) q = getF s fFnSqHeadHead (pgFn fn) q
        ∧ t = { s with regs := t.regs, memo := { s.memo with hostOld := s.memo.host.length }, ho := { s.ho with
            subAddr := t.ho.subAddr, cq := s.ho.cq ++ [⟨fn, q, 0, (entryWords words).getD 3 0,
            getF s fFnSqHeadHead (pgFn fn) q, code + 2 * 2 ^ 60 + 2 ^ 56 * q, 0, 0⟩] } }))
  ∧ (∀ (fn : Fin 128) (q : Fin 16) (w : List Nat) (s : State), running s = true → entryAcceptReady fn q s = true →
    entryHeld s fn q = some w → ∃ t, exec (.entryAccept fn q) s = .next t
      ∧ getF t fFnSqHeadHead (pgFn fn) q = (getF s fFnSqHeadHead (pgFn fn) q + 1) % 2 ^ 32
      ∧ t.ho.subs = s.ho.subs.filter (fun p => p.1 ≠ (fn.val, q.val))
      ∧ t.core.slots = s.core.slots
      ∧ (getB s fFnSqCfgKind (pgFn fn) q = false →
          (getB s fJrnlCtrlEnable pgJrnl = false → t.memo = s.memo ∧ t.cx = s.cx)
          ∧ getF t fOwnSeqNextSeq pgOwn = (getF s fOwnSeqNextSeq pgOwn + 1) % 2 ^ 64
          ∧ t.ho.cq = s.ho.cq ++ [⟨fn, q, getF s fOwnSeqNextSeq pgOwn, (launchEntryOf w).user,
              getF s fFnSqHeadHead (pgFn fn) q, 2 ^ 56 * q, (launchEntryOf w).ctx, 0⟩]
          ∧ t.ho.nextItem = s.ho.nextItem + 1 ∧ t.ho.items.length = s.ho.items.length + 1
          ∧ t.core.waiting.map (fun d => (d.span, d.core, d.ctx, d.launch.kernel)) =
              s.core.waiting.map (fun d => (d.span, d.core, d.ctx, d.launch.kernel))
                ++ (maskCores (launchEntryOf w).cores).map (fun c =>
                  ((launchEntryOf w).span, c, (launchEntryOf w).ctx, (launchEntryOf w).kernel))
          ∧ t.srv = s.srv))

/-- The oldest record of a ring is written at its tail with its phase, by the function and without a PASID, unless it only
reserves the place of an item that commits; and a message falls due; a ring full for 100 ms sets CQ_STALL;
ENABLE stops a ring or runs it from HEAD, full where its completion ring is full. -/
def Obligations.CompletionRingsTakeRecords : Prop :=
  (∀ (fn : Fin 128) (q : Fin 16) (r : CqRec) (s : State), running s = true → cqRecordWriteReady fn q s = true →
    cqNext s fn q = some r → ∃ t, exec (.cqRecordWrite fn q) s = .next t
      ∧ getF t fFnSqStateCqTail (pgFn fn) q = (getF s fFnSqStateCqTail (pgFn fn) q + 1) % 2 ^ 32
      ∧ t.memo = { s.memo with host := s.memo.host
          ++ (cqBytes r (1 - getF s fFnSqStateCqTail (pgFn fn) q / cqSize s fn q % 2)).zipIdx.map (fun p =>
            (⟨fn, none, 4096 * getF s fFnCqBaseBase (pgFn fn) q
              + 32 * (getF s fFnSqStateCqTail (pgFn fn) q % cqSize s fn q) + p.2⟩, p.1)) }
      ∧ t.ho.cq = dropFirst (fun x => x.fn == fn.val && x.ring == q.val) s.ho.cq
      ∧ t.pkg.irq.ringDue.contains (fn.val, q.val) = true
      ∧ regsBut [(.fnSqState, pgFn fn, q)] s t ∧ SameBut [.regs, .memo, .ho, .pkg] s t)
  ∧ (∀ (fn : Fin 128) (q : Fin 16) (s : State), running s = true → cqStallReady fn q s = true →
    ∃ t, exec (.cqStall fn q) s = .next t ∧ getB t fFnSqStateCqStall (pgFn fn) q = true
      ∧ bitAt (getF t fBlkErrAcc (pgFn fn)) 3 = true ∧ bitAt (blkIrqPend t (pgFn fn)) 3 = true
      ∧ getF t fFnSqStateState (pgFn fn) q = getF s fFnSqStateState (pgFn fn) q ∧ t = { s with regs := t.regs })
  ∧ (∀ (fn : Fin 128) (q : Fin 16) (s : State), running s = true → fnReach s fn = true → stage s = 5 →
    (∃ t, exec (.sqEnable fn q false) s = .next t ∧ getF t fFnSqStateState (pgFn fn) q = 0
        ∧ getB t fFnSqCfgEnable (pgFn fn) q = false ∧ t = { s with regs := t.regs }
        ∧ regsBut [(.fnSqCfg, pgFn fn, q), (.fnSqState, pgFn fn, q)] s t)
    ∧ (getF s fFnSqStateState (pgFn fn) q = 0 → ∃ t, exec (.sqEnable fn q true) s = .next t
        ∧ getF t fFnSqStateState (pgFn fn) q = (if cqIsFull s fn q then 3 else 1)
        ∧ getF t fFnSqStateCode (pgFn fn) q = 0 ∧ getB t fFnSqCfgEnable (pgFn fn) q = true
        ∧ getF t fFnSqHeadHead (pgFn fn) q = getF s fFnSqHeadHead (pgFn fn) q
        ∧ regsBut [(.fnSqCfg, pgFn fn, q), (.fnSqState, pgFn fn, q)] s t ∧ SameBut [.regs, .ho] s t))

/-- A port that has lost its link for 100 ms, or that meets a fatal error, fails; a link that goes down, or whose reference
clock is lost, starts that time; a link up or released from failure shows its speed and width and frees the items that
waited for it. PERSTn_N resets the port's configuration, and configuration writes set it. A function's configuration space
names the grade's device and the class of a processing accelerator; the vendor's number is free (log entry 83). The values
0 and 3 of a power state are PCI Express's own, which the specification does not give (log entry 83). -/
def Obligations.PciePortsGoDownAndUp : Prop :=
  (∀ (p : Fin 2) (fatal : Bool) (s : State), running s = true → pciePortFailReady p fatal s = true →
    ∃ t, exec (.pciePortFail p fatal) s = .next t ∧ getF t fHifLinkState (pgHif p) = 3 ∧ portFailed t (64 * p) = true
      ∧ regsBut [(.hifLink, pgHif p, 0)] s t
      ∧ t = { s with regs := t.regs, ho := { s.ho with linkDown := del s.ho.linkDown p.val } })
  ∧ (∀ (p : Fin 2) (c : Instr) (s : State), running s = true → (c = .pcieLinkDown p ∨ c = .pcieRefclkLoss p) →
    getF s fHifLinkState (pgHif p) = 2 → ∃ t, exec c s = .next t ∧ getF t fHifLinkState (pgHif p) = 0
      ∧ linkUp t (64 * p) = false ∧ regsBut [(.hifLink, pgHif p, 0)] s t
      ∧ t = { s with regs := t.regs, ho := { s.ho with linkDown := put s.ho.linkDown p.val s.tick } })
  ∧ (∀ (p : Fin 2) (speed : Fin 6) (width : Fin 5) (flit : Bool) (s : State), running s = true →
    pcieLinkUpReady p s = true → ∃ t, exec (.pcieLinkUp p speed width flit) s = .next t
      ∧ getF t fHifLinkState (pgHif p) = 2 ∧ getF t fHifLinkSpeed (pgHif p) = speed + 1
      ∧ getF t fHifLinkWidth (pgHif p) = 2 ^ width.val ∧ getB t fHifLinkFlit (pgHif p) = flit
      ∧ t.ho.linkDown = del s.ho.linkDown p.val
      ∧ (∀ it ∈ t.ho.items, it.held = 1 → ctxFunc s it.ctx / 64 ≠ p)
      ∧ regsBut [(.hifLink, pgHif p, 0)] s t ∧ SameBut [.regs, .ho] s t)
  ∧ (∀ (p : Fin 2) (v : Nat) (s : State), running s = true → linkUp s (64 * p) = true → 1 ≤ stage s →
    exec (.pcieConfigWrite p 0 v) s = .next { s with ho := { s.ho with
        mse := if v = 0 then setDel s.ho.mse p.val else setIns s.ho.mse p.val } }
    ∧ (30 ≤ v → v ≤ 40 → exec (.pcieConfigWrite p 2 v) s = .next { s with ho := { s.ho with
        aper := put s.ho.aper p.val v } })
    ∧ (∀ f, f < 64 → fnEnabled s (64 * p + f) = true →
        exec (.pcieConfigWrite p 3 (f + 64 * 3)) s = .next { s with ho := { s.ho with
          d3 := setIns s.ho.d3 (64 * p + f) } }
        ∧ exec (.pcieConfigWrite p 3 f) s = .next { s with ho := { s.ho with d3 := setDel s.ho.d3 (64 * p + f) } })
    ∧ (∃ t, exec (.pcieConfigWrite p 1 v) s = .next t ∧ look t.ho.vfs p.val 0 = min v 63
        ∧ (∀ ctx, ctx ≠ 0 → ∀ d, getCtx t ctx = some d → getCtx s ctx = some d)))
  ∧ (∀ (fn : Fin 128) (s : State),
      (pciId s fn).device = (if s.fuse.gradeS then (if fn.val = 0 ∨ fn.val = 64 then 0x8096 else 0x8097)
        else if fn.val = 0 ∨ fn.val = 64 then 0x8128 else 0x8129)
      ∧ (pciId s fn).cls = 0x120000 ∧ (pciId s fn).subVendor = (pciId s fn).vendor)
  ∧ (∀ (p : Fin 2) (s : State), s.pkg.boot.vmgmt = true → ∃ t, exec (.perstAssert p) s = .next t
      ∧ p.val ∉ t.ho.mse ∧ (∀ f ∈ t.ho.d3, f / 64 ≠ p) ∧ look t.ho.vfs p.val 0 = 0 ∧ look t.ho.aper p.val 36 = 36 ∧ p.val ∈ t.pkg.boot.perst
      ∧ has t.ho.linkDown p.val = true ∧ eligible t p.val = false
      ∧ getF t fHifLinkState (pgHif p) = (if getF s fHifLinkState (pgHif p) = 3 then 3 else 0)
      ∧ regsBut [(.hifLink, pgHif p, 0)] s t ∧ SameBut [.regs, .ho, .pkg] s t)
  ∧ (∀ (p : Fin 2) (s : State), s.pkg.boot.vmgmt = true → ∃ t, exec (.perstRelease p) s = .next t
      ∧ t = { s with regs := t.regs, pkg := { s.pkg with boot := { s.pkg.boot with
          perst := setDel s.pkg.boot.perst p.val } } }
      ∧ (running s = true → portFitted s p = true → 1 ≤ stage s → getF t fHifLinkState (pgHif p) = 1)
      ∧ (running s = false ∨ portFitted s p = false ∨ stage s = 0 → t.regs = s.regs)
      ∧ regsBut [(.hifLink, pgHif p, 0)] s t)

/-- An aperture read answers with the bytes at the point of coherence, or with the abort that its case asks for; a write by
the rein holder writes them there, one outside device memory is an unsupported request, and any other write is dropped and
counted. A host signal is sent to its tally, and a function-level reset ends the function's contexts, commands and tokens.
The bytes of a poisoned column in a completion are free: the model's choice (log entry 41). -/
def Obligations.HostAccessesReachTheirTargets : Prop :=
  (∀ (p : Fin 2) (x : Nat) (len : Fin 4097) (s : State), running s = true → aperReach s p x len = true →
    (stage s ≠ 5 → exec (.apertureRead p x len) s
        = .next { s with ho := { s.ho with aperRes := put s.ho.aperRes p.val (2, []) } })
    ∧ (stage s = 5 → daOk s (aperAddr s p x + len - 1) = false → ∃ t, exec (.apertureRead p x len) s = .next t
        ∧ look t.ho.aperRes p.val (0, []) = (3, [])
        ∧ getF t fHifUrCount (pgHif p) = (getF s fHifUrCount (pgHif p) + 1) % 2 ^ 48 ∧ t.memo = s.memo)
    ∧ (stage s = 5 → daOk s (aperAddr s p x + len - 1) = true → ∃ r t, r = aperLines (getB s fHifAperIntlv (pgHif p))
          (len / 128 + 2) s (aperAddr s p x) len ∧ exec (.apertureRead p x len) s = .next t
        ∧ look t.ho.aperRes p.val (0, []) = (if r.1.stale then (2, []) else (if r.1.poisoned then 1 else 0, r.1.bytes))
        ∧ t.memo = r.2.memo ∧ t.core = r.2.core ∧ t.cx = r.2.cx))
  ∧ (∀ (p : Fin 2) (x : Nat) (data : List Byte) (s : State), running s = true →
    aperReach s p x data.length = true → data.length ≤ 512 →
    (stage s = 5 → holder s = p → daOk s (aperAddr s p x + data.length - 1) = true →
      exec (.apertureWrite p x data) s = .next (aperStores (getB s fHifAperIntlv (pgHif p)) (data.length / 128 + 2) s
        (aperAddr s p x) data))
    ∧ (stage s = 5 → holder s = p → daOk s (aperAddr s p x + data.length - 1) = false →
      ∃ t, exec (.apertureWrite p x data) s = .next t ∧ p.val ∈ t.ho.aerUr
        ∧ t = { s with regs := t.regs, ho := { s.ho with aerUr := t.ho.aerUr } }
        ∧ getF t fHifUrCount (pgHif p) = (getF s fHifUrCount (pgHif p) + 1) % 2 ^ 48)
    ∧ (stage s ≠ 5 ∨ holder s ≠ p → ∃ t, exec (.apertureWrite p x data) s = .next t ∧ t = { s with regs := t.regs }
        ∧ getF t fHifDroppedWritesCount (pgHif p) = (getF s fHifDroppedWritesCount (pgHif p) + 1) % 2 ^ 48
        ∧ (stage s = 5 → getF t fBlkWstatCode (pgHif p) = 3)))
  ∧ (∀ (fn : Fin 128) (add : Nat) (s : State), running s = true → fnReach s fn = true → stage s = 5 →
    (getF s fFnTsigTgtCtx (pgFn fn) ≠ 0 → ctxFunc s (getF s fFnTsigTgtCtx (pgFn fn)) = fn →
      (getCtx s (getF s fFnTsigTgtCtx (pgFn fn))).isSome = true →
      exec (.tsigAdd fn add) s = .next { s with memo := { s.memo with hostOld := s.memo.host.length }, core := { s.core with signals := s.core.signals ++
        [⟨getF s fFnTsigTgtCtx (pgFn fn), getF s fFnTsigTgtSpan (pgFn fn), getF s fFnTsigTgtCore (pgFn fn),
          getF s fFnTsigTgtTally (pgFn fn), add % 2 ^ 48, 2, 1, 0, 0, 0, 0, 0⟩] } })
    ∧ (getF s fFnTsigTgtCtx (pgFn fn) = 0 ∨ ctxFunc s (getF s fFnTsigTgtCtx (pgFn fn)) ≠ fn →
      ∃ t, exec (.tsigAdd fn add) s = .next t ∧ WriteRejected s t (pgFn fn) 7))
  ∧ (∀ (fn : Fin 128) (s : State), running s = true → linkUp s fn = true → fnEnabled s fn = true →
    ∃ t, exec (.functionLevelReset fn) s = .next t ∧ (∀ ctx, ctx ≠ 0 → ∀ d, getCtx t ctx = some d → d.func ≠ fn)
      ∧ (∀ k, (fn.val, k) ∉ t.ho.mb) ∧ (∀ x ∈ t.ho.tokens, x.fn = fn → x.result = some (mAborted, []))
      ∧ (∀ k, k < 8 → getF s fFnMbStateState (pgFn fn) k = 1 ∨ getF s fFnMbStateState (pgFn fn) k = 2 →
          getF t fFnMbStateState (pgFn fn) k = (if getF s fFnMbStateState (pgFn fn) k = 2 then 3 else 5)
          ∧ getF t fFnMbStateStatus (pgFn fn) k = mAborted))

/-! ### The mailbox (14) -/

/-- A command that is not the next one to be processed, or that names another operation, changes nothing. The next one
that only the holder's PF may issue is refused to any other with NOT_PERMITTED, and shown as DONE with that status once it
has been acknowledged. A slot is acknowledged 1 ms after its GO write, and answers PROGRESS with a fresh token 10 ms after
it; so does the next command with `slow`, at once and with no effect yet. One that has answered so goes on, is processed
first, and leaves its final state and result to its token. XLT_INVAL waits for an invalidation and for stitches that use what
it drops, and WIN_OPEN and WIN_CLOSE wait for a window invalidation: that they wait is the model's choice, as is the use of
`slow` (log entries 81 and 16). -/
def Obligations.MailboxServesInOrderAndByPermission : Prop :=
  (∀ (c : Instr) (op : Nat) (fn : Fin 128) (k : Fin 8) (slow : Bool) (s : State),
    (c, op) ∈ [(.ctxCreate fn k slow, 0x01), (.ctxDestroy fn k slow, 0x02), (.ctxPlace fn k slow, 0x03),
      (.ctxRebind fn k slow, 0x04), (.xltInval fn k slow, 0x05), (.winOpen fn k slow, 0x06), (.winClose fn k slow, 0x07),
      (.swapArea fn k slow, 0x08), (.modelCfg fn k slow, 0x10), (.groupCfg fn k slow, 0x11), (.epochPublish fn k slow, 0x12),
      (.adapterLoad fn k slow, 0x13), (.adapterReplace fn k slow, 0x13), (.adapterDelete fn k slow, 0x13),
      (.cachedRelease fn k slow, 0x14), (.reqCancel fn k slow, 0x15), (.version fn k, 0x1E), (.poll fn k slow, 0x1F)] →
    mbNext s fn k op = false → exec c s = .next s)
  ∧ (∀ (c : Instr) (op : Nat) (fn : Fin 128) (k : Fin 8) (s : State),
    (c, op) ∈ [(.ctxRebind fn k false, 0x04), (.swapArea fn k false, 0x08), (.modelCfg fn k false, 0x10),
      (.groupCfg fn k false, 0x11), (.epochPublish fn k false, 0x12)] →
    mbTurn s fn k op → holderPf s fn = false →
    ∃ t, exec c s = .next t ∧ SlotRefused s t fn k mNotPermitted ∧ SameBut [.regs, .ho] s t)
  ∧ (∀ (fn : Fin 128) (k : Fin 8) (at_ : Nat) (s : State), s.pending = [] → running s = true → mbServed s = true →
    s.ho.mb = [(fn.val, k.val)] → s.ho.late = [] → at_ = look s.ho.mbAt (fn.val, k.val) 0 →
    getF s fFnMbStateState (pgFn fn) k = 1 →
    ((s.tick + 1) % 2 ^ 64 < 1000000 + at_ → ∃ t, step s = .next t ∧ t.regs = s.regs ∧ t.ho = s.ho)
    ∧ (1000000 + at_ ≤ (s.tick + 1) % 2 ^ 64 → (s.tick + 1) % 2 ^ 64 < 10000000 + at_ → ∃ t, step s = .next t
        ∧ getF t fFnMbStateState (pgFn fn) k = 2 ∧ t.ho = s.ho)
    ∧ (10000000 + at_ ≤ (s.tick + 1) % 2 ^ 64 → mbReg s fn k 0 % 256 ≠ 0x1F → ∃ t, step s = .next t ∧ SlotShows t fn k 4 0
        ∧ getF t fFnMbStateToken (pgFn fn) k = s.ho.nextToken % 2 ^ 32
        ∧ t.ho.tokens = s.ho.tokens ++ [⟨s.ho.nextToken % 2 ^ 32, fn, none, t.tick⟩]
        ∧ t.ho.late = [⟨fn, k, s.ho.nextToken % 2 ^ 32, (List.range 8).map (mbReg s fn k)⟩]))
  ∧ (∀ (c : Instr) (op : Nat) (fn : Fin 128) (k : Fin 8) (s : State),
    (c, op) ∈ [(.ctxCreate fn k true, 0x01), (.ctxDestroy fn k true, 0x02), (.ctxPlace fn k true, 0x03),
      (.ctxRebind fn k true, 0x04), (.swapArea fn k true, 0x08), (.modelCfg fn k true, 0x10),
      (.groupCfg fn k true, 0x11), (.epochPublish fn k true, 0x12),
      (.adapterLoad fn k true, 0x13), (.adapterReplace fn k true, 0x13), (.adapterDelete fn k true, 0x13),
      (.cachedRelease fn k true, 0x14), (.reqCancel fn k true, 0x15)] →
    (∀ x ∈ ([(.adapterLoad fn k true, 0), (.adapterReplace fn k true, 1), (.adapterDelete fn k true, 2)] : List (Instr × Nat)),
      c = x.1 → mbWord s fn k 1 % 4 = x.2) →
    (mbTurn s fn k op → ∃ t, exec c s = .next t ∧ SlotProgress s t fn k ∧ SameBut [.regs, .ho] s t)
    ∧ (s.ho.late ≠ [] → exec c s = .next s))
  ∧ (∀ (fn : Fin 128) (k : Fin 8) (l : MbLate) (st : Nat) (s : State), running s = true → mbNext s fn k 0x08 = true →
    s.ho.late = [l] → s.ho.mb = [] → mbWord s fn k 1 % 4096 = 0 → fnEnabled s (mbWord s fn k 3) = true →
    st = (if holderPf s fn then 0 else mNotPermitted) →
    ∃ t, exec (.swapArea fn k false) s = .next t
      ∧ t.ho = { s.ho with
          late := []
          swap := if holderPf s fn then some (mbWord s fn k 1, mbWord s fn k 2, mbWord s fn k 3) else s.ho.swap
          tokens := s.ho.tokens.map (fun x =>
            if x.token = l.token ∧ x.fn = l.fn then { x with result := some (st, []), at_ := s.tick } else x) }
      ∧ rdR t .fnMbState (pgFn fn) k = rdR s .fnMbState (pgFn fn) k ∧ SameBut [.regs, .ho] s t)
  ∧ (∀ (fn : Fin 128) (k : Fin 8) (slow : Bool) (s : State), s.pkg.link.inval.isSome = true →
    exec (.winOpen fn k slow) s = .next s ∧ exec (.winClose fn k slow) s = .next s)
  ∧ (∀ (fn : Fin 128) (k : Fin 8) (slow : Bool) (s : State),
    s.cx.xinv.isSome = true ∨ stitchesClear s (xltInvalOp s fn k) (s.tick + 1) = false →
    exec (.xltInval fn k slow) s = .next s)

/-- CTX_CREATE gives a context number that no context had, and allocates the row-placed regions asked for with it; CTX_DESTROY ends it and its records and leaves other contexts;
CTX_PLACE parks a record on a span; CTX_REBIND changes the function and releases held items; XLT_INVAL drops the
translations it covers, in the translation caches and the table-entry caches. A descriptor that R379 does not allow is
refused. Which free number a context takes is free, and which regions it asks for (log entries 22 and 77). -/
def Obligations.MailboxManagesContexts : Prop :=
  (∀ (fn : Fin 128) (k : Fin 8) (s : State) (c : Ctx) (w : List Nat), mbTurn s fn k 0x01 →
    w = [mbWord s fn k 1, mbWord s fn k 2, mbWord s fn k 3, mbWord s fn k 4] → c = ctxOfWords w →
    (c.func = fn ∨ holderPf s fn = true) →
    (ctxRefused s w c = true → ∃ t, exec (.ctxCreate fn k false) s = .next t ∧ SlotRefused s t fn k mCtxInvalid
        ∧ SameBut [.regs, .ho] s t)
    ∧ (ctxRefused s w c = false → (s.cx.ctxs.filter (fun p => p.1 ≠ 0)).length < 4095 →
        ∃ i t, 1 ≤ i ∧ i ≤ 4095 ∧ getCtx s i = none ∧ exec (.ctxCreate fn k false) s = .next t
          ∧ SlotShows t fn k 3 0 ∧ getF t fFnMbRspData (pgFn fn) (8 * k) = i ∧ getCtx t i = some c
          ∧ (∀ j, j ≠ i → getCtx t j = getCtx s j)
          ∧ (Config.rowRegions i = [] → t.memo = s.memo ∧ t.cx.placed = s.cx.placed)
          ∧ (∀ x, Config.rowRegions i = [x] → regionFits s ⟨i, 65536 * x.1, x.2.1, 512 * x.2.2.1, x.2.2.2⟩ = true →
              t.cx.placed = s.cx.placed ++ [⟨i, 65536 * x.1, x.2.1, 512 * x.2.2.1, x.2.2.2⟩])
          ∧ SameBut [.regs, .ho, .cx, .memo, .mem, .er, .free] s t))
  ∧ (∀ (fn : Fin 128) (k : Fin 8) (s : State) (c : Ctx), mbTurn s fn k 0x02 → mbWord s fn k 1 ≠ 0 →
    getCtx s (mbWord s fn k 1) = some c → (c.func = fn ∨ holderPf s fn = true) →
    ∃ t, exec (.ctxDestroy fn k false) s = .next t ∧ SlotShows t fn k 3 0 ∧ getCtx t (mbWord s fn k 1) = none
      ∧ (∀ sp, sp < 8 → getRec t sp (mbWord s fn k 1) = none)
      ∧ (∀ j, j ≠ mbWord s fn k 1 → getCtx t j = getCtx s j)
      ∧ ((∀ key, slotCtx s key = mbWord s fn k 1 → nothingIssued s key) →
          t.memo.mem = s.memo.mem ∧ t.core.lmem = s.core.lmem))
  ∧ (∀ (fn : Fin 128) (k : Fin 8) (s : State), mbTurn s fn k 0x02 →
    mbWord s fn k 1 = 0 ∨ getCtx s (mbWord s fn k 1) = none →
    ∃ t, exec (.ctxDestroy fn k false) s = .next t ∧ SlotRefused s t fn k mNotFound ∧ SameBut [.regs, .ho] s t)
  ∧ (∀ (fn : Fin 128) (k : Fin 8) (s : State) (c : Ctx) (ctx span mask : Nat), mbTurn s fn k 0x03 →
    ctx = bits (mbWord s fn k 1) 0 12 → span = bits (mbWord s fn k 1) 12 3 → mask = bits (mbWord s fn k 1) 16 16 →
    ctx ≠ 0 → getCtx s ctx = some c → c.func = fn → bitAt c.spans span = true → mask ≠ 0 →
    mbWord s fn k 2 % 65536 = 0 → daOk s (mbWord s fn k 2) = true → getRec s span ctx = none →
    (spanDown s span = false → (maskCores mask).all (fun co => !coreAbsent s span co) = true →
      ∃ t, exec (.ctxPlace fn k false) s = .next t ∧ SlotShows t fn k 3 0
        ∧ getRec t span ctx = some ⟨mask, mbWord s fn k 2, 0, [], .store, (maskCores mask).map (·, s.tick), [], []⟩
        ∧ t.cx.ctxs = s.cx.ctxs ∧ SameBut [.regs, .ho, .cx] s t)
    ∧ (spanDown s span = true → ∃ t, exec (.ctxPlace fn k false) s = .next t ∧ SlotRefused s t fn k mAbsentUnit
        ∧ SameBut [.regs, .ho] s t))
  ∧ (∀ (fn : Fin 128) (k : Fin 8) (s : State) (c : Ctx) (ctx func : Nat), mbTurn s fn k 0x04 → holderPf s fn = true →
    ctx = bits (mbWord s fn k 1) 0 12 → func = bits (mbWord s fn k 1) 12 7 → ctx ≠ 0 → getCtx s ctx = some c →
    func / 64 = fn / 64 → fnEnabled s func = true → fnEnabled s (bits (mbWord s fn k 2) 0 7) = true →
    ∃ t, exec (.ctxRebind fn k false) s = .next t ∧ SlotShows t fn k 3 0 ∧ getCtx t ctx = some { c with func := func }
      ∧ (∀ j, j ≠ ctx → getCtx t j = getCtx s j) ∧ (∀ it ∈ t.ho.items, it.ctx = ctx → it.held ≠ 1)
      ∧ SameBut [.regs, .ho, .cx, .memo] s t)
  ∧ (∀ (fn : Fin 128) (k : Fin 8) (s : State) (kind asid : Nat), mbTurn s fn k 0x05 → s.cx.xinv = none →
    stitchesClear s (xltInvalOp s fn k) (s.tick + 1) = true → kind = bits (mbWord s fn k 1) 0 2 → asid = bits (mbWord s fn k 1) 12 12 →
    kind = 1 ∨ (kind = 0 ∧ mbWord s fn k 2 % 4096 = 0) →
    s.cx.ctxs.any (fun p => p.1 != 0 && p.2.func == fn.val && p.2.asid == asid) = true →
    ∃ t, exec (.xltInval fn k false) s = .next t ∧ SlotShows t fn k 3 0
      ∧ t.cx = { s.cx with
          tlb := s.cx.tlb.filter (fun e => !xinvHits ⟨kind, asid, mbWord s fn k 2, mbWord s fn k 3⟩ e.asid e.vbase e.size)
          tec := s.cx.tec.filter (fun e =>
            !xinvHits ⟨kind, asid, mbWord s fn k 2, mbWord s fn k 3⟩ e.asid e.vbase (levelSpan e.level)) }
      ∧ t.memo.mem = s.memo.mem
      ∧ getF t fXinvStatusDone pgXinv = (getF s fXinvStatusDone pgXinv + 1) % 2 ^ fXinvStatusDone.w
      ∧ SameBut [.regs, .ho, .cx, .memo] s t)

/-- WIN_OPEN writes the window words, VALID, into a free entry and drops what ports hold of it; WIN_CLOSE clears VALID.
VERSION answers major 1 with minors 0; POLL gives a token's result once, PROGRESS while there is none and UNKNOWN_TOKEN
for any other; results expire 60 s after they become available. Which free entry is taken, and which stored entries count
as VALID, are the model's choices (log entries 22 and 69). -/
def Obligations.MailboxOpensWindowsAndAnswersPolls : Prop :=
  (∀ (fn : Fin 128) (k : Fin 8) (s : State) (e : List Nat) (c : Ctx), mbTurn s fn k 0x06 → s.pkg.link.inval = none →
    e = [mbWord s fn k 1 / 2 * 2 + 1, mbWord s fn k 2, mbWord s fn k 3, 0] → winValid s e = true →
    winCtx e ≠ 0 → getCtx s (winCtx e) = some c → c.func = fn →
    (List.range 4096).any (fun w => !bitAt (winWord (winStored s w) 0) 0) = true →
    ∃ w t, w < 4096 ∧ bitAt (winWord (winStored s w) 0) 0 = false ∧ exec (.winOpen fn k false) s = .next t
      ∧ SlotShows t fn k 3 0 ∧ getF t fFnMbRspData (pgFn fn) (8 * k) = w
      ∧ t.memo = (winEntryStore { s with free := s.free + 1 } w e).memo ∧ has t.pkg.link.wins w = false)
  ∧ (∀ (fn : Fin 128) (k : Fin 8) (s : State) (e : List Nat) (c : Ctx), mbTurn s fn k 0x07 → s.pkg.link.inval = none →
    e = winStored s (mbWord s fn k 1) → bitAt (winWord e 0) 0 = true → winCtx e ≠ 0 → getCtx s (winCtx e) = some c →
    c.func = fn →
    ∃ t, exec (.winClose fn k false) s = .next t ∧ SlotShows t fn k 3 0
      ∧ t.memo = (winEntryStore s (mbWord s fn k 1) (e.set 0 (winWord e 0 - 1))).memo
      ∧ has t.pkg.link.wins (mbWord s fn k 1) = false)
  ∧ (∀ (fn : Fin 128) (k : Fin 8) (s : State), mbTurn s fn k 0x07 → s.pkg.link.inval = none →
    bitAt (winWord (winStored s (mbWord s fn k 1)) 0) 0 = false →
    ∃ t, exec (.winClose fn k false) s = .next t ∧ SlotRefused s t fn k mNotFound ∧ SameBut [.regs, .ho] s t)
  ∧ (∀ (fn : Fin 128) (k : Fin 8) (s : State), mbTurn s fn k 0x1E → ∃ t, exec (.version fn k) s = .next t
      ∧ SlotShows t fn k 3 0 ∧ getF t fFnMbRspData (pgFn fn) (8 * k) = 1
      ∧ (∀ w, 1 ≤ w → w < 8 → getF t fFnMbRspData (pgFn fn) (8 * k + w) = 0) ∧ SameBut [.regs, .ho] s t)
  ∧ (∀ (fn : Fin 128) (k : Fin 8) (slow : Bool) (s : State), mbTurn s fn k 0x1F →
    (s.ho.tokens.find? (fun x => x.token == mbWord s fn k 1 && x.fn == fn.val) = none →
      ∃ t, exec (.poll fn k slow) s = .next t ∧ SlotRefused s t fn k mUnknownToken ∧ t.ho.tokens = s.ho.tokens
        ∧ SameBut [.regs, .ho] s t)
    ∧ (∀ x r, s.ho.tokens.find? (fun x => x.token == mbWord s fn k 1 && x.fn == fn.val) = some x →
      x.result = some r → r.1 < 256 → ∃ t, exec (.poll fn k false) s = .next t ∧ SlotShows t fn k 3 r.1
        ∧ t.ho.tokens = s.ho.tokens.filter (fun y => !(y.token == mbWord s fn k 1 && y.fn == fn.val))
        ∧ (∀ w, w < 8 → getF t fFnMbRspData (pgFn fn) (8 * k + w) = r.2.getD w 0 % 2 ^ 64) ∧ SameBut [.regs, .ho] s t)
    ∧ (∀ x, s.ho.tokens.find? (fun x => x.token == mbWord s fn k 1 && x.fn == fn.val) = some x →
      x.result = none ∨ slow = true → ∃ t, exec (.poll fn k slow) s = .next t ∧ SlotShows t fn k 4 0
        ∧ getF t fFnMbStateToken (pgFn fn) k = mbWord s fn k 1 % 2 ^ 32 ∧ t.ho.tokens = s.ho.tokens
        ∧ SameBut [.regs, .ho] s t))
  ∧ (∀ s : State, running s = true → exec .tokenExpiry s = .next { s with ho := { s.ho with
      tokens := s.ho.tokens.filter (fun t => !(t.result.isSome && decide (60000000000 + t.at_ ≤ s.tick))) } })

/-- The holder's PF registers the swap area, models, groups, epochs and adapters: a new model starts at epoch 0, a publish
takes exactly the next epoch, an adapter's generations count up from 1, and a cancelled request leaves at once while it is
queued, with no work of Fenivar's under way for it, and at its group's next preparation otherwise. A generation's number in the answer to a DELETE is free (log
entry 15). -/
def Obligations.MailboxConfiguresServing : Prop :=
  (∀ (fn : Fin 128) (k : Fin 8) (s : State), mbTurn s fn k 0x08 → holderPf s fn = true →
    mbWord s fn k 1 % 4096 = 0 →
    fnEnabled s (mbWord s fn k 3) = true → ∃ t, exec (.swapArea fn k false) s = .next t ∧ SlotShows t fn k 3 0
      ∧ t.ho.swap = some (mbWord s fn k 1, mbWord s fn k 2, mbWord s fn k 3) ∧ SameBut [.regs, .ho] s t)
  ∧ (∀ (fn : Fin 128) (k : Fin 8) (s : State), mbTurn s fn k 0x10 → holderPf s fn = true →
    ∃ t, exec (.modelCfg fn k false) s = .next t ∧ SlotShows t fn k 3 0
      ∧ getModel t (mbWord s fn k 1) = some ⟨mbWord s fn k 2, mbWord s fn k 3, mbWord s fn k 4,
          ((getModel s (mbWord s fn k 1)).map (·.epoch)).getD 0, ((getModel s (mbWord s fn k 1)).map (·.pubTick)).getD s.tick⟩
      ∧ (∀ m, m ≠ mbWord s fn k 1 → getModel t m = getModel s m) ∧ SameBut [.regs, .ho, .srv] s t)
  ∧ (∀ (fn : Fin 128) (k : Fin 8) (s : State) (g : Nat) (m : Model), mbTurn s fn k 0x11 →
    holderPf s fn = true →
    g = bits (mbWord s fn k 1) 0 12 → getModel s (bits (mbWord s fn k 1) 16 16) = some m →
    groupFields s g (bits (mbWord s fn k 1) 32 9) (mbWord s fn k 2) (mbWord s fn k 3) (bitAt (mbWord s fn k 1) 12) = true →
    ∃ x t, exec (.groupCfg fn k false) s = .next t ∧ SlotShows t fn k 3 0 ∧ getGroup t g = some x
      ∧ x.gen = !bitAt (mbWord s fn k 1) 12 ∧ x.model = bits (mbWord s fn k 1) 16 16
      ∧ x.batch = bits (mbWord s fn k 1) 32 9 ∧ x.chunk = mbWord s fn k 2 ∧ x.area = mbWord s fn k 3
      ∧ (getGroup s g = none → x.epoch = m.epoch ∧ x.step = [] ∧ x.armedFor = 0)
      ∧ (∀ j, j ≠ g → getGroup t j = getGroup s j) ∧ SameBut [.regs, .ho, .srv] s t)
  ∧ (∀ (fn : Fin 128) (k : Fin 8) (s : State) (h : Nat) (m : Model), mbTurn s fn k 0x12 →
    holderPf s fn = true →
    h = bits (mbWord s fn k 1) 0 16 → getModel s h = some m →
    (bits (mbWord s fn k 1) 16 48 = m.epoch + 1 → ∃ t, exec (.epochPublish fn k false) s = .next t
        ∧ SlotShows t fn k 3 0 ∧ getModel t h = some { m with epoch := m.epoch + 1, pubTick := s.tick }
        ∧ (∀ j, j ≠ h → getModel t j = getModel s j) ∧ SameBut [.regs, .ho, .srv] s t)
    ∧ (bits (mbWord s fn k 1) 16 48 ≠ m.epoch + 1 → ∃ t, exec (.epochPublish fn k false) s = .next t
        ∧ SlotRefused s t fn k mInvalid ∧ SameBut [.regs, .ho] s t))
  ∧ (∀ (fn : Fin 128) (k : Fin 8) (s : State) (h : Nat), mbTurn s fn k 0x13 → holderPf s fn = true →
    h = adapterHandle s fn k → h ≠ 0 →
    (mbWord s fn k 1 % 4 = 0 → (getAdapter s h).gens = [] → ∃ t, exec (.adapterLoad fn k false) s = .next t
        ∧ SlotShows t fn k 3 0 ∧ getF t fFnMbRspData (pgFn fn) (8 * k) = 1
        ∧ getAdapter t h = ⟨1, 1, [(1, mbWord s fn k 2)]⟩ ∧ SameBut [.regs, .ho, .srv, .memo, .mem, .cx, .er] s t)
    ∧ (mbWord s fn k 1 % 4 = 1 → (getAdapter s h).cur ≠ 0 → ∃ g t, g = ((getAdapter s h).last + 1) % 2 ^ 32
        ∧ exec (.adapterReplace fn k false) s = .next t ∧ SlotShows t fn k 3 0
        ∧ getF t fFnMbRspData (pgFn fn) (8 * k) = g ∧ (getAdapter t h).cur = g ∧ (getAdapter t h).last = g
        ∧ (g, mbWord s fn k 2) ∈ (getAdapter t h).gens ∧ SameBut [.regs, .ho, .srv, .memo, .mem, .cx, .er] s t)
    ∧ (mbWord s fn k 1 % 4 = 2 → (getAdapter s h).cur ≠ 0 → ∃ t, exec (.adapterDelete fn k false) s = .next t
        ∧ SlotShows t fn k 3 0 ∧ (getAdapter t h).cur = 0 ∧ (getAdapter t h).last = (getAdapter s h).last
        ∧ SameBut [.regs, .ho, .srv, .memo, .mem, .cx, .er, .free] s t)
    ∧ (mbWord s fn k 1 % 4 = 2 → (getAdapter s h).cur = 0 → ∃ t, exec (.adapterDelete fn k false) s = .next t
        ∧ SlotRefused s t fn k mNotFound ∧ SameBut [.regs, .ho] s t))
  ∧ (∀ (fn : Fin 128) (k : Fin 8) (s : State) (p : Nat × CachedPrefix), mbTurn s fn k 0x14 →
    s.srv.prefixes.find? (fun p => p.1 = mbWord s fn k 1) = some p →
    (p.2.fn = fn → ∃ t, exec (.cachedRelease fn k false) s = .next t ∧ SlotShows t fn k 3 0
        ∧ (∀ x ∈ t.srv.prefixes, x.1 = mbWord s fn k 1 → x.2.leaving = true ∧ prefixUsed s x.1 = true)
        ∧ t.srv.reqs = s.srv.reqs ∧ SameBut [.regs, .ho, .srv, .memo, .mem, .cx, .er] s t)
    ∧ (p.2.fn ≠ fn → ∃ t, exec (.cachedRelease fn k false) s = .next t ∧ SlotRefused s t fn k mNotPermitted
        ∧ SameBut [.regs, .ho] s t))
  ∧ (∀ (fn : Fin 128) (k : Fin 8) (s : State) (r : Req), mbTurn s fn k 0x15 → getReq s (mbWord s fn k 1) = some r →
    r.fn = fn → r.tag = mbWord s fn k 2 →
    (r.st = .queued → getItem s r.job = none → ∃ t, exec (.reqCancel fn k false) s = .next t ∧ SlotShows t fn k 3 0
        ∧ t.ho.cq = s.ho.cq ++ [endRec r 2] ∧ getReq t r.idx = none ∧ SameBut [.regs, .ho, .srv, .memo, .mem, .cx, .er] s t)
    ∧ (r.st ≠ .queued → ∃ t, exec (.reqCancel fn k false) s = .next t ∧ SlotShows t fn k 3 0
        ∧ getReq t r.idx = some { r with cancel := true } ∧ t.ho.cq = s.ho.cq ∧ SameBut [.regs, .ho, .srv] s t))

/-! ### The register window (01, 14) -/

/-- A write of a register without an action of its own gives each field what its type says and changes no other register;
a write of the wrong width, of a field that is not quiescent or of a value out of range is rejected whole with its code, and
so is any write by a master without the reins or before READY. -/
def Obligations.WritesTakeEffectByFieldType : Prop :=
  (∀ (pg m who lo v : Nat) (x : PageAt) (r : RegAt) (s : State), running s = true → pageAt pg = some x → x.blk ≠ .own →
    x.blk ≠ .irqp → pageCause s x = 0 → lo < 4096 → lo % 8 = 0 → v < 2 ^ 64 →
    (∀ code, writeGate s pg m = some code →
      ∃ t, exec (.registerWrite false who (4096 * pg + lo) 8 v m) s = .next t ∧ WriteRejected s t pg (rejCode code))
    ∧ (writeGate s pg m = none → regAt x.blk lo = none →
      ∃ t, exec (.registerWrite false who (4096 * pg + lo) 8 v m) s = .next t ∧ WriteRejected s t pg 5)
    ∧ (writeGate s pg m = none → regAt x.blk lo = some r →
      (∀ f, quietFails s x pg r v = some f →
        ∃ t, exec (.registerWrite false who (4096 * pg + lo) 8 v m) s = .next t ∧ WriteRejected s t pg 1)
      ∧ (∀ c, quietFails s x pg r v = none → windowRange s x pg m r v = some c →
        ∃ t, exec (.registerWrite false who (4096 * pg + lo) 8 v m) s = .next t ∧ WriteRejected s t pg (rejCode c.1))
      ∧ (quietFails s x pg r v = none → windowRange s x pg m r v = none → 0x100 ≤ lo → r.reg ∉ writeActs →
        ∃ t, exec (.registerWrite false who (4096 * pg + lo) 8 v m) s = .next t
          ∧ (∀ f ∈ r.flds, getF t f pg r.k = fieldTakes f (getF s f pg r.k) v)
          ∧ regsBut [(r.reg, pg, r.k)] s t ∧ SameBut [.regs, .staged] s t)))
  ∧ (∀ (m who off size v : Nat) (s : State), running s = true → off / 4096 ≠ pgOwn → (size ≠ 8 ∨ off % 8 ≠ 0) → m < 4 →
    ∃ t, exec (.registerWrite false who off size v m) s = .next t
      ∧ WriteRejected s t (if m = 0 then pgHif 0 else if m = 1 then pgHif 1 else pgOwn) 5)
  ∧ (∀ (fn : Fin 128) (off v m : Nat) (r : RegAt) (s : State), running s = true → fnReach s fn = true → stage s = 5 →
    off < 8192 → off % 8 = 0 → v < 2 ^ 64 → regAt .fn off = some r →
    quietFails s ⟨.fn, 14, fn⟩ (pgFn fn) r v = none → fnRange s fn r v = none →
    (0x100 ≤ off → r.reg ∉ writeActs → ∃ t, exec (.registerWrite true fn off 8 v m) s = .next t
      ∧ (∀ f ∈ r.flds, getF t f (pgFn fn) r.k = fieldTakes f (getF s f (pgFn fn) r.k) v)
      ∧ regsBut [(r.reg, pgFn fn, r.k)] s t ∧ SameBut [.regs, .staged, .pkg] s t)
    ∧ (r.reg = .fnMbGo → bitAt v 16 = true → s.ho.mb = [] → s.ho.late = [] → mbWellFormed s fn r.k = true →
      ∃ t, exec (.registerWrite true fn off 8 v m) s = .next t ∧ t.ho.mb = [(fn.val, r.k)]
        ∧ getF t fFnMbStateState (pgFn fn) r.k = 1 ∧ getF t fFnMbStateTag (pgFn fn) r.k = v % 2 ^ 16
        ∧ look t.ho.mbAt (fn.val, r.k) 0 = s.tick
        ∧ getPriv t 8 (15 + fn / 64) = (edgeSt (getPriv s 8 (15 + fn / 64))).1
        ∧ SameBut [.regs, .ho, .pkg] s t))

/-- COMMIT sets COMMIT_PEND where something is staged and DISCARD drops the staged values; at the quiescent point of its
page every staged field takes effect together, bit for bit as staged, and the rest of its register stands. -/
def Obligations.StagedFieldsCommitTogether : Prop :=
  (∀ (pg m : Nat) (x : PageAt) (s : State), running s = true → pageAt pg = some x → x.blk ≠ .own → x.blk ≠ .irqp →
    pageCause s x = 0 → writeGate s pg m = none →
    (hasStaged s pg = true → ∃ t, exec (.blkCommit pg m) s = .next t ∧ getB t fBlkStatusCommitPend pg = true
        ∧ regsBut [(.blkStatus, pg, 0)] s t ∧ t = { s with regs := t.regs })
    ∧ (hasStaged s pg = false → exec (.blkCommit pg m) s = .next s)
    ∧ (∃ t, exec (.blkDiscard pg m) s = .next t ∧ t.staged = s.staged.filter (fun e => e.1.2.1 ≠ pg)
        ∧ hasStaged t pg = false ∧ getB t fBlkStatusCommitPend pg = false
        ∧ regsBut [(.blkStatus, pg, 0)] s t ∧ SameBut [.regs, .staged] s t))
  ∧ (∀ (pg : Nat) (s : State), running s = true → commitApplyReady pg s = true →
    ∃ t, exec (.commitApply pg) s = .next t ∧ hasStaged t pg = false ∧ getB t fBlkStatusCommitPend pg = false
      ∧ (∀ e ∈ s.staged, e.1.2.1 = pg → e.1.1 ≠ .blkStatus → stagedMask e.1.1 ≠ 0 → (∀ e' ∈ s.staged, e'.1 = e.1 → e' = e) →
          rdR t e.1.1 pg e.1.2.2 = rdR s e.1.1 pg e.1.2.2 - (rdR s e.1.1 pg e.1.2.2 &&& stagedMask e.1.1)
            + (e.2.toNat &&& stagedMask e.1.1))
      ∧ (∀ r q k, q ≠ pg → rdR t r q k = rdR s r q k) ∧ (∀ e ∈ s.staged, e.1.2.1 ≠ pg → e ∈ t.staged)
      ∧ t.memo = { s.memo with pccs := t.memo.pccs } ∧ (∀ n, pccPage n ≠ pg → getPcc t n = getPcc s n)
      ∧ (∀ n, (getPcc t n).reqs.length = (getPcc s n).reqs.length ∧ (getPcc t n).seqs = (getPcc s n).seqs)
      ∧ SameBut [.regs, .staged, .memo] s t)
  ∧ (∀ (pg : Nat) (s : State), running s = true → commitApplyReady pg s = false → exec (.commitApply pg) s = .next s)

/-- The management controller reads and writes the window through I3C transfers, each leaving its status for the next
private read; a malformed transfer is answered with WIDTH and recorded in the OWN page while the management island runs; a
result is discarded after 10 ms; and no transfer is answered without a dynamic address. -/
def Obligations.ManagementReachesTheWindow : Prop :=
  (∀ (len off v : Nat) (s : State), i3cUp s = true → off < 2 ^ 32 → v < 2 ^ 64 →
    (len = 5 → off % 8 = 0 → i3cReach s off = true → exec (.i3cRegRead len off) s
        = .next { s with ho := { s.ho with i3cRes := some (0, windowRead s off, s.tick) } })
    ∧ (∃ t, (islandRuns s = true → WriteRejected s t pgOwn 5) ∧ (islandRuns s = false → t = s)
        ∧ (len ≠ 5 ∨ off % 8 ≠ 0 → exec (.i3cRegRead len off) s
            = .next { t with ho := { t.ho with i3cRes := some (5, 2 ^ 64 - 1, t.tick) } })
        ∧ (len ≠ 13 → exec (.i3cRegWrite len off v) s
            = .next { t with ho := { t.ho with i3cRes := some (5, 0, t.tick) } }))
    ∧ (i3cReach s off = true → ∃ t, exec (.registerWrite false 0 off 8 v 2) s = .next t
        ∧ (t.ho.i3cAddr = true → exec (.i3cRegWrite 13 off v) s
            = .next { t with ho := { t.ho with i3cRes := some (i3cWriteCode off v s, 0, t.tick) } })))
  ∧ (∀ (len off v : Nat) (s : State), i3cUp s = false → exec (.i3cRegRead len off) s = .next s
      ∧ exec (.i3cRegWrite len off v) s = .next s)
  ∧ (∀ s : State, s.pkg.boot.vmgmt = true → i3cResultDiscardReady s = true →
    exec .i3cResultDiscard s = .next { s with ho := { s.ho with i3cRes := none } })
  ∧ (∀ s : State, i3cResultDiscardReady s = false → exec .i3cResultDiscard s = .next s)

/-! ### Launches and command streams (03) -/

/-- A launch whose context is not resident waits in its record, which becomes runnable; a kernel header that is misaligned
ends the launch with LAUNCH_HDR, and a good one gives it its mask and entries. An unseeded launch starts engine by engine,
an engine whose mask bit is clear ending at once. The oldest launch that has ended on every engine of its mask, with its
commands and signals done, leaves the slot though older ones run, and the last of an item that is not journaled, and that no
firing of its frame can still join, ends the item with its record. -/
def Obligations.LaunchesReachTheirEngines : Prop :=
  (∀ (sp : Fin 8) (co : Fin 16) (ctx : Nat) (d : Delivery) (r : CtxRec) (s : State), running s = true →
    coreAbsent s sp co = false → residentSlot s sp co ctx = none → nextDelivery s sp co ctx = some d →
    getRec s sp ctx = some r → r.tier = .store → (look r.parts co.val newPart).launches.length < 16 →
    ∃ t r', exec (.launchDeliver sp co ctx) s = .next t ∧ getRec t sp ctx = some r'
      ∧ look r'.parts co.val newPart = { look r.parts co.val newPart with
          launches := (look r.parts co.val newPart).launches ++ [d.launch] }
      ∧ bitAt r'.runnable co = true ∧ t.core = { s.core with waiting := t.core.waiting } ∧ d ∉ t.core.waiting
      ∧ SameBut [.core, .cx] s t)
  ∧ (∀ (sp : Fin 8) (co : Fin 16) (sl : Fin 4) (ctx : Nat) (l : Launch) (s : State), running s = true →
    coreAbsent s sp co = false → residentSlot s sp co ctx = some sl.val → headerFree s (slotKey sp co sl) = true →
    unreadLaunch s (slotKey sp co sl) = some l →
    (l.kernel % 64 ≠ 0 → getB s fCqSlotErrValid (pgCq sp co) sl = false → l.kernel < 2 ^ 64 →
      ∃ t, exec (.launchDeliver sp co ctx) s = .next t
        ∧ (getSlot t (slotKey sp co sl)).part = { (getSlot s (slotKey sp co sl)).part with
            launches := (getSlot s (slotKey sp co sl)).part.launches.filter (fun y => y.serial ≠ l.serial) }
        ∧ getF t fCqSlotErrCode (pgCq sp co) sl = 0x18 ∧ getF t fCqSlotErrAddrAddr (pgCq sp co) sl = l.kernel)
    ∧ (∀ b x u, l.kernel % 64 = 0 →
      readVa s (fetchAgent s (slotKey sp co sl) 0 eLaunchHdr 0x100 eLaunchHdr) none l.kernel 64 = (.bytes b, x, u) →
      headerBad l.kernel (wordsOf 8 b) = false →
      ∃ t, exec (.launchDeliver sp co ctx) s = .next t ∧ SlotTakes u t (slotKey sp co sl)
        (partSetLaunch (getSlot u (slotKey sp co sl)).part { l with
          hdr := true,
          mask := bits ((wordsOf 8 b).getD 0 0) 8 5, entries := ((wordsOf 8 b).drop 1).take 5 })))
  ∧ (∀ (sp : Fin 8) (co : Fin 16) (sl : Fin 4) (e : Fin 5) (l : Launch) (s : State), running s = true →
    launchStartEngineReady sp co sl e s = true → curLaunch (getSlot s (slotKey sp co sl)).part e = some l →
    ∃ t, exec (.launchStartEngine sp co sl e) s = .next t ∧ SlotTakes s t (slotKey sp co sl)
      (if bitAt l.mask e then
        partSetQueue (partSetLaunch (getSlot s (slotKey sp co sl)).part { l with started := l.started ||| 2 ^ e.val }) e
          (queueStart (getQ s (slotKey sp co sl) e) (l.entries.getD e 0))
      else partSetLaunch (getSlot s (slotKey sp co sl)).part
        { l with started := l.started ||| 2 ^ e.val, ended := l.ended ||| 2 ^ e.val }))
  ∧ (∀ (sp : Fin 8) (co : Fin 16) (sl : Fin 4) (l : Launch) (it : Item) (s : State), running s = true →
    completeNext s (slotKey sp co sl) = some l → (∀ x y z, l.src ≠ .entry x y z) → getItem s l.item = some it →
    ∃ t, exec (.launchComplete sp co sl) s = .next t
      ∧ (getSlot t (slotKey sp co sl)).part = { (getSlot s (slotKey sp co sl)).part with
          launches := (getSlot s (slotKey sp co sl)).part.launches.filter (fun y => y.serial ≠ l.serial) }
      ∧ (∀ k, k ≠ slotKey sp co sl → getSlot t k = getSlot s k)
      ∧ (it.left ≤ 1 → it.journaled = false → it.launches ≠ [] → itemMore s it = false → getItem t l.item = none
          ∧ (it.commit = none → (∀ x ∈ s.ho.cq, x.item ≠ it.id) → t.ho.cq = s.ho.cq ++ (doneRec it 0).toList))
      ∧ (1 < it.left ∨ it.journaled = true →
          getItem t l.item = some { it with left := it.left - 1, endTick := s.tick } ∧ t.ho.cq = s.ho.cq)
      ∧ SameBut [.core, .ho, .er] s t)

/-- A launch whose seed mask is not zero starts on all five engines together, once every engine of the slot has retired the
previous launch. At that moment each predicate from P1 to P15 with its mask bit set takes its seed bit; predicates with a
clear mask bit keep their values, and bit 0 of mask and value is ignored. While an engine has not retired, nothing
happens; and no engine starts a seeded launch alone. -/
def Obligations.SeededLaunchesStartTogether : Prop :=
  (∀ (sp : Fin 8) (co : Fin 16) (sl : Fin 4) (l : Launch) (s : State), running s = true →
    launchStartSeededReady sp co sl s = true → seededNext (getSlot s (slotKey sp co sl)).part = some l →
    ∃ t p, exec (.launchStartSeeded sp co sl) s = .next t ∧ SlotTakes s t (slotKey sp co sl) p
      ∧ p.launches = (partSetLaunch (getSlot s (slotKey sp co sl)).part
          { l with started := 31, ended := 31 - l.mask }).launches
      ∧ p.tallies = (getSlot s (slotKey sp co sl)).part.tallies
      ∧ predOf p 0 = predOf (getSlot s (slotKey sp co sl)).part 0
      ∧ (∀ n, 0 < n → n < 16 → predOf p n = (if bitAt l.seedMask n then bitAt l.seedVal n
          else predOf (getSlot s (slotKey sp co sl)).part n))
      ∧ (∀ e, e < (getSlot s (slotKey sp co sl)).part.queues.length →
          partQueue p e = (if bitAt l.mask e then queueStart (getQ s (slotKey sp co sl) e) (l.entries.getD e 0)
            else getQ s (slotKey sp co sl) e)))
  ∧ (∀ (sp : Fin 8) (co : Fin 16) (sl : Fin 4) (e : Nat) (s : State), running s = true → e < 5 →
    queueIdle s (slotKey sp co sl) e = false → exec (.launchStartSeeded sp co sl) s = .next s)
  ∧ (∀ (sp : Fin 8) (co : Fin 16) (sl : Fin 4) (e : Fin 5) (l : Launch) (s : State), running s = true →
    curLaunch (getSlot s (slotKey sp co sl)).part e = some l → l.seedMask / 2 ≠ 0 →
    exec (.launchStartEngine sp co sl e) s = .next s)

/-- A fetch unit reads a queue's block whole, each command as its column read; a held command enters the queue with a
credit and what its decode refuses; at its resolution point it issues, is skipped, stops for HALT, or halts the queue, once
every earlier command of the queue has completed; a speculative read is one transaction, counted, and the next in order, and
one that leaves the address space, or meets a fault, a missing permission, other memory or an UNSEALED line stops its load's
speculation; an executed command completes with its counts and its signal; and an addition
that arrives lands in its tally. That a queue without a credit keeps showing WAIT is the model's choice (log entry 46). -/
def Obligations.StreamsFetchDecodeResolveComplete : Prop :=
  (∀ (sp : Fin 8) (co : Fin 16) (sl : Fin 4) (e : Fin 5) (s : State), running s = true →
    fetchBlockReady sp co sl e s = true →
    (∀ p u a v, translate s sp co (5 + e) (slotCtx s (slotKey sp co sl)) (getQ s (slotKey sp co sl) e).fetchPc = (.ok p, u) →
      permits p.pte .fetch = true →
      lineAccess u (fetchAgent u (slotKey sp co sl) e eFetchProt eFetchPoison eUnsealedRead) p
        (getQ s (slotKey sp co sl) e).fetchPc = (a, v) →
      ∃ t, exec (.fetchBlock sp co sl e) s = .next t ∧ SlotTakes v t (slotKey sp co sl)
        (partSetQueue (getSlot v (slotKey sp co sl)).part e { getQ s (slotKey sp co sl) e with
          buf := (getQ s (slotKey sp co sl) e).buf
            ++ ((List.range 4).drop ((getQ s (slotKey sp co sl) e).fetchPc % 128 / 32)).map
              (blockCmds a.data a.poison a.unsealed (128 * ((getQ s (slotKey sp co sl) e).fetchPc / 128))),
          fetchPc := 128 * ((getQ s (slotKey sp co sl) e).fetchPc / 128)
            + (getQ s (slotKey sp co sl) e).fetchPc % 32 + 128 }))
    ∧ (∀ p u, translate s sp co (5 + e) (slotCtx s (slotKey sp co sl)) (getQ s (slotKey sp co sl) e).fetchPc = (.ok p, u) →
      permits p.pte .fetch = false →
      ∃ t, exec (.fetchBlock sp co sl e) s = .next t ∧ SlotTakes u t (slotKey sp co sl)
        (partSetQueue (getSlot u (slotKey sp co sl)).part e { getQ s (slotKey sp co sl) e with
          buf := (getQ s (slotKey sp co sl) e).buf ++ [⟨(getQ s (slotKey sp co sl) e).fetchPc, 0, 0, 0, 0, .prot⟩],
          fetchPc := (getQ s (slotKey sp co sl) e).fetchPc + 32 }))
    ∧ (∀ cause level u,
      translate s sp co (5 + e) (slotCtx s (slotKey sp co sl)) (getQ s (slotKey sp co sl) e).fetchPc = (.fault cause level, u) →
      ∃ t, exec (.fetchBlock sp co sl e) s = .next t ∧ SlotTakes u t (slotKey sp co sl)
        (partSetQueue (getSlot u (slotKey sp co sl)).part e { getQ s (slotKey sp co sl) e with
          buf := (getQ s (slotKey sp co sl) e).buf
            ++ [⟨(getQ s (slotKey sp co sl) e).fetchPc, 0, 0, 0, 0, .fault cause level⟩],
          fetchPc := (getQ s (slotKey sp co sl) e).fetchPc + 32 })))
  ∧ (∀ (sp : Fin 8) (co : Fin 16) (sl : Fin 4) (e : Fin 5) (f : Fetched) (rest : List Fetched) (l : Launch) (s : State),
    running s = true → commandDecodeReady sp co sl e s = true → (getQ s (slotKey sp co sl) e).buf = f :: rest →
    curLaunch (getSlot s (slotKey sp co sl)).part e = some l →
    ∃ t, exec (.commandDecode sp co sl e) s = .next t ∧ SlotTakes s t (slotKey sp co sl)
      (partSetQueue (getSlot s (slotKey sp co sl)).part e
        (if credFree s (coreNo sp co) sl e then { getQ s (slotKey sp co sl) e with
            st := if (getQ s (slotKey sp co sl) e).st == .credit then .run else (getQ s (slotKey sp co sl) e).st,
            buf := rest,
            cmds := (getQ s (slotKey sp co sl) e).cmds ++ [newCmd f (fetchedCode s (slotKey sp co sl) e f)
              (getQ s (slotKey sp co sl) e).entry l.serial] }
        else { getQ s (slotKey sp co sl) e with
          st := if (getQ s (slotKey sp co sl) e).st == .run then .credit else (getQ s (slotKey sp co sl) e).st })))
  ∧ (∀ (sp : Fin 8) (co : Fin 16) (sl : Fin 4) (e : Fin 5) (c : QCmd) (s : State), running s = true →
    resolveNext s (slotKey sp co sl) e = some c →
    (bitAt (getF s fCqSlotCtrlHalt (pgCq sp co) sl) e = true → ∃ t, exec (.commandResolve sp co sl e) s = .next t
      ∧ (getSlot t (slotKey sp co sl)).part = partSetQueue (getSlot s (slotKey sp co sl)).part e
          { getQ s (slotKey sp co sl) e with
            st := .haltReq, cmds := (getQ s (slotKey sp co sl) e).cmds.map (fun x => { x with spec := 0 }) }
      ∧ regsBut [(.cqSpecCancelled, pgCq sp co, 0)] s t ∧ SameBut [.core, .regs] s t)
    ∧ (bitAt (getF s fCqSlotCtrlHalt (pgCq sp co) sl) e = false → c.refusal ≠ 0 → c.refusal < 256 →
      ∃ t, exec (.commandResolve sp co sl e) s = .next t ∧ QueueHalted s t (slotKey sp co sl) e c.refusal c.launch c.pc)
    ∧ (bitAt (getF s fCqSlotCtrlHalt (pgCq sp co) sl) e = false → c.refusal = 0 →
      cmdPred (getSlot s (slotKey sp co sl)).part (cmdWords c) = true →
      ∃ t, exec (.commandResolve sp co sl e) s = .next t ∧ SlotTakes s t (slotKey sp co sl)
        (partSetQueue (getSlot s (slotKey sp co sl)).part e
          { qSetCmd (getQ s (slotKey sp co sl) e) { c with phase := .issued, spec := 0 } with pc := c.pc + 32 }))
    ∧ (bitAt (getF s fCqSlotCtrlHalt (pgCq sp co) sl) e = false → c.refusal = 0 →
      cmdPred (getSlot s (slotKey sp co sl)).part (cmdWords c) = false → nominalFromRecord (wOp (cmdWords c)) = false →
      ∃ t, exec (.commandResolve sp co sl e) s = .next t
        ∧ (getSlot t (slotKey sp co sl)).part = partSetQueue (getSlot s (slotKey sp co sl)).part e
          { qSetCmd (getQ s (slotKey sp co sl) e) { c with phase := .executed, skipped := true, spec := 0 } with
            pc := c.pc + 32 }
        ∧ getF t fCqSpecCancelledCount (pgCq sp co) = (getF s fCqSpecCancelledCount (pgCq sp co) + c.spec) % 2 ^ 48
        ∧ regsBut [(.cqSpecCancelled, pgCq sp co, 0)] s t ∧ SameBut [.core, .regs] s t))
  ∧ (∀ (sp : Fin 8) (co : Fin 16) (sl : Fin 4) (e : Fin 5) (c : QCmd) (s : State),
    atResolution (getQ s (slotKey sp co sl) e) = some c → c.refusal ≠ 0 → atFront (getQ s (slotKey sp co sl) e) c = false →
    bitAt (getF s fCqSlotCtrlHalt (pgCq sp co) sl) e = false → exec (.commandResolve sp co sl e) s = .next s)
  ∧ (∀ (sp : Fin 8) (co : Fin 16) (sl : Fin 4) (idx k k1 : Nat) (c : QCmd) (lo hi : Int) (s : State), running s = true →
    specRead sp co sl idx k s = some (c, k1, lo, hi) →
    (lo < 0 ∨ 2 ^ 64 < hi → ∃ t, exec (.speculativeRead sp co sl idx k) s = .next t ∧ SlotTakes s t (slotKey sp co sl)
        (partSetQueue (getSlot s (slotKey sp co sl)).part 0 (qSetCmd (getQ s (slotKey sp co sl) 0) { c with specStop := true })))
    ∧ (∀ cause level u, 0 ≤ lo → hi ≤ 2 ^ 64 →
      translate s sp co 0 (slotCtx s (slotKey sp co sl)) lo.toNat = (.fault cause level, u) →
      ∃ t, exec (.speculativeRead sp co sl idx k) s = .next t ∧ SlotTakes u t (slotKey sp co sl)
        (partSetQueue (getSlot u (slotKey sp co sl)).part 0 (qSetCmd (getQ u (slotKey sp co sl) 0) { c with specStop := true })))
    ∧ (∀ p u b v, 0 ≤ lo → hi ≤ 2 ^ 64 → translate s sp co 0 (slotCtx s (slotKey sp co sl)) lo.toNat = (.ok p, u) →
      (permits p.pte .read = false ∨ pteKind p.pte ≠ 0 →
        ∃ t, exec (.speculativeRead sp co sl idx k) s = .next t ∧ SlotTakes u t (slotKey sp co sl)
          (partSetQueue (getSlot u (slotKey sp co sl)).part 0
            (qSetCmd (getQ u (slotKey sp co sl) 0) { c with specStop := true })))
      ∧ (permits p.pte .read = true → pteKind p.pte = 0 →
        specLines (slotKey sp co sl) c.pc p lo.toNat (hi - lo).toNat u = (b, v) →
        ∃ t, exec (.speculativeRead sp co sl idx k) s = .next t
          ∧ getF t fCqSpecIssuedCount (pgCq sp co) = (getF v fCqSpecIssuedCount (pgCq sp co) + 1) % 2 ^ 48
          ∧ (getSlot t (slotKey sp co sl)).part = partSetQueue (getSlot v (slotKey sp co sl)).part 0
              (qSetCmd (getQ v (slotKey sp co sl) 0) { c with spec := c.spec + 1, specNext := k1, specStop := b })
          ∧ (∀ j, j ≠ slotKey sp co sl → getSlot t j = getSlot v j) ∧ t.core.lmem = v.core.lmem
          ∧ regsBut [(.cqSpecIssued, pgCq sp co, 0)] v t ∧ SameBut [.core, .regs] v t)))
  ∧ (∀ (sp : Fin 8) (co : Fin 16) (sl : Fin 4) (e : Fin 5) (c : QCmd) (rest : List QCmd) (s : State), running s = true →
    (getQ s (slotKey sp co sl) e).cmds = c :: rest → c.phase = .executed → cmdItem s (slotKey sp co sl) c = none →
    ∃ t, exec (.commandComplete sp co sl e) s = .next t
      ∧ (getSlot t (slotKey sp co sl)).part = partSetQueue (getSlot s (slotKey sp co sl)).part e
          { getQ s (slotKey sp co sl) e with cmds := rest
                                             tile := if rest.any tileHolder then (getQ s (slotKey sp co sl) e).tile else none }
      ∧ t.core.signals = s.core.signals ++ (if cmdSignals c then [cmdSignal s (slotKey sp co sl) e c 0] else [])
      ∧ (c.skipped = true → t.cx = s.cx) ∧ (c.skipped = false → t.cx = (cmdCount s (slotKey sp co sl) c).cx)
      ∧ SameBut [.core, .cx] s t ∧ t.core.lmem = s.core.lmem)
  ∧ (∀ (i sl : Nat) (g : Signal) (s : State), running s = true → signalArrivalReady i s = true →
    s.core.signals[i]? = some g → coreAbsent s g.span g.core = false →
    residentSlot s g.span g.core g.ctx = some sl →
    ∃ t, exec (.signalArrival i) s = .next t ∧ t.core.signals = s.core.signals.eraseIdx i
      ∧ tallyOf (getSlot t (slotKey g.span g.core sl)).part g.tally
          = (tallyOf (getSlot s (slotKey g.span g.core sl)).part g.tally + g.add) % 2 ^ 48
      ∧ (∀ n, n ≠ g.tally → tallyOf (getSlot t (slotKey g.span g.core sl)).part n
          = tallyOf (getSlot s (slotKey g.span g.core sl)).part n)
      ∧ (∀ k, k ≠ slotKey g.span g.core sl → getSlot t k = getSlot s k) ∧ SameBut [.core] s t
      ∧ t.core.lmem = s.core.lmem)

/-- What the common commands do once issued: `q.nop` and `tl.signal` only become executed; `q.end` ends its engine's part
of the launch and drops what follows; `tl.set` writes its tally; a wait retires at its target, blocks its queue before it,
and halts it at its timeout; the `pr` commands write PD; and `pr.cmp` halts on a poisoned word. `tl.set`, `tl.wait` and
`pr.tally` wait while an addition that an earlier command of the queue makes to their tally is still to land. -/
def Obligations.CommonCommandsActOnTheirSlot : Prop :=
  (∀ (sp : Fin 8) (co : Fin 16) (sl : Fin 4) (e : Fin 5) (c : QCmd) (s : State), running s = true →
    (headOp s (slotKey sp co sl) e 0x00 = some c → ∃ t, exec (.qNop sp co sl e) s = .next t
      ∧ SlotTakes s t (slotKey sp co sl) (partDone (getSlot s (slotKey sp co sl)).part e c))
    ∧ (headOp s (slotKey sp co sl) e 0x03 = some c → ∃ t, exec (.tlSignal sp co sl e) s = .next t
      ∧ SlotTakes s t (slotKey sp co sl) (partDone (getSlot s (slotKey sp co sl)).part e c))
    ∧ (∀ l, headOp s (slotKey sp co sl) e 0x01 = some c → curLaunch (getSlot s (slotKey sp co sl)).part e = some l →
      ∃ t, exec (.qEnd sp co sl e) s = .next t
        ∧ (getSlot t (slotKey sp co sl)).part = partSetQueue (partSetLaunch (getSlot s (slotKey sp co sl)).part
            { l with ended := l.ended ||| 2 ^ e.val }) e { getQ s (slotKey sp co sl) e with
              st := .idle, buf := [], cmds := (getQ s (slotKey sp co sl) e).cmds.takeWhile
                (fun y => !cmdAt c.launch c.pc y)
                ++ [{ c with phase := .executed }] }
        ∧ regsBut [(.cqSpecCancelled, pgCq sp co, 0)] s t ∧ SameBut [.core, .regs] s t ∧ t.core.lmem = s.core.lmem
        ∧ (∀ k, k ≠ slotKey sp co sl → getSlot t k = getSlot s k))
    ∧ (headOp s (slotKey sp co sl) e 0x04 = some c → tallyBehind s (slotKey sp co sl) e c (bits c.w1 48 7) = true →
      exec (.tlSet sp co sl e) s = .next s)
    ∧ (headOp s (slotKey sp co sl) e 0x04 = some c → tallyBehind s (slotKey sp co sl) e c (bits c.w1 48 7) = false → ∃ t p, exec (.tlSet sp co sl e) s = .next t
      ∧ SlotTakes s t (slotKey sp co sl) p ∧ p = { partDone (getSlot s (slotKey sp co sl)).part e c with tallies := p.tallies }
      ∧ tallyOf p (bits c.w1 48 7) = bits c.w1 0 48
      ∧ (∀ n, n ≠ bits c.w1 48 7 → tallyOf p n = tallyOf (getSlot s (slotKey sp co sl)).part n)))
  ∧ (∀ (sp : Fin 8) (co : Fin 16) (sl : Fin 4) (e : Fin 5) (c : QCmd) (s : State), running s = true →
    headOp s (slotKey sp co sl) e 0x02 = some c →
    ((getQ s (slotKey sp co sl) e).st ≠ .wait → tallyBehind s (slotKey sp co sl) e c (bits c.w1 48 7) = false →
      (tallyReached (tallyOf (getSlot s (slotKey sp co sl)).part (bits c.w1 48 7)) (bits c.w1 0 48) = false →
        ∃ t, exec (.tlWait sp co sl e) s = .next t ∧ SlotTakes s t (slotKey sp co sl)
          (partSetQueue (getSlot s (slotKey sp co sl)).part e { getQ s (slotKey sp co sl) e with
            st := .wait, waitTally := bits c.w1 48 7, waitTarget := bits c.w1 0 48, waitLeft := bits c.w2 0 32,
            waitAt := s.tick }))
      ∧ (tallyReached (tallyOf (getSlot s (slotKey sp co sl)).part (bits c.w1 48 7)) (bits c.w1 0 48) = true →
        ∃ t, exec (.tlWait sp co sl e) s = .next t
          ∧ (getSlot t (slotKey sp co sl)).part = partDone (getSlot s (slotKey sp co sl)).part e c
          ∧ (getB s fTlyScopeChkEnable (pgTly sp co) = false → t.regs = s.regs)
          ∧ regsBut [(.tlyScopeMismatch, pgTly sp co, 0), (.tlyScopeNoorder, pgTly sp co, 0),
              (.tlyScopeLast, pgTly sp co, 0)] s t
          ∧ SameBut [.core, .regs] s t))
    ∧ (tallyBehind s (slotKey sp co sl) e c (bits c.w1 48 7) = true → exec (.tlWait sp co sl e) s = .next s)
    ∧ (waitOver s (slotKey sp co sl) e = true → ∃ t, exec (.tlWaitSatisfied sp co sl e) s = .next t
        ∧ (getSlot t (slotKey sp co sl)).part = partSetQueue (partDone (getSlot s (slotKey sp co sl)).part e c) e
            { partQueue (partDone (getSlot s (slotKey sp co sl)).part e c) e with
              st := .run, waitTally := 0, waitTarget := 0, waitLeft := 0 }
        ∧ SameBut [.core, .regs] s t)
    ∧ (waitExpired s (slotKey sp co sl) e = true → ∃ t, exec (.waitTimeout sp co sl e) s = .next t
        ∧ QueueHalted s t (slotKey sp co sl) e 0x15 c.launch c.pc))
  ∧ (∀ (sp : Fin 8) (co : Fin 16) (sl : Fin 4) (e : Fin 5) (c : QCmd) (s : State), running s = true →
    (headOp s (slotKey sp co sl) e 0x05 = some c → ∃ t, exec (.prSet sp co sl e) s = .next t
      ∧ PredTakes s t (slotKey sp co sl) e c (bitAt c.w1 4))
    ∧ (headOp s (slotKey sp co sl) e 0x07 = some c → ∃ t, exec (.prLogic sp co sl e) s = .next t
      ∧ PredTakes s t (slotKey sp co sl) e c
        (let a := predOf (getSlot s (slotKey sp co sl)).part (bits c.w1 4 4) ^^ bitAt c.w1 12
         let b := predOf (getSlot s (slotKey sp co sl)).part (bits c.w1 8 4) ^^ bitAt c.w1 13
         if bits c.w1 14 2 = 0 then a && b else if bits c.w1 14 2 = 1 then a || b else a ^^ b))
    ∧ (headOp s (slotKey sp co sl) e 0x08 = some c → tallyBehind s (slotKey sp co sl) e c (bits c.w1 4 7) = true →
      exec (.prTally sp co sl e) s = .next s)
    ∧ (headOp s (slotKey sp co sl) e 0x08 = some c → tallyBehind s (slotKey sp co sl) e c (bits c.w1 4 7) = false →
      ∃ t, exec (.prTally sp co sl e) s = .next t
      ∧ PredTakes s t (slotKey sp co sl) e c
        (tallyReached (tallyOf (getSlot s (slotKey sp co sl)).part (bits c.w1 4 7)) (bits c.w2 0 48)))
    ∧ (∀ n, headOp s (slotKey sp co sl) e 0x06 = some c →
      n = (if bits c.w1 8 3 = 2 ∨ bits c.w1 8 3 = 3 then 8 else 4) →
      (lmBad s (slotKey sp co sl) (bits c.w2 0 23) n = false → ∃ t, exec (.prCmp sp co sl e) s = .next t
        ∧ PredTakes s t (slotKey sp co sl) e c (cmpVal (bits c.w1 8 3) (bits c.w1 4 3)
          (leNat (lmRead s (slotKey sp co sl) (bits c.w2 0 23) n)) (bits c.w3 0 (8 * n))))
      ∧ (lmBad s (slotKey sp co sl) (bits c.w2 0 23) n = true → ∃ t, exec (.prCmp sp co sl e) s = .next t
        ∧ QueueHalted s t (slotKey sp co sl) e 0x35 c.launch c.pc)))

/-- SLOT_CTRL halts, resumes and aborts a slot's queues, what has issued to memory completing first; Fenivar aborts a slot that has halted with an error, and takes a
failed core away, the windows saved for its records keeping their bytes as their save areas close up (by the model's reading,
log entry 105); a host signal leaves for its tally; counts are cleared; and enabling scope checking forgets every
recorded addition of the core. Consumers on other cores that wait for a discarded signal end with the abort's error, by
the model's reading of which those are (log entry 74). -/
def Obligations.SlotControlsAndCounts : Prop :=
  (∀ (sp : Fin 8) (co : Fin 16) (sl : Fin 4) (mask m : Nat) (s : State), running s = true → coreAbsent s sp co = false →
    accepted s (pgCq sp co) m →
    (∃ t, exec (.slotHalt sp co sl mask m) s = .next t
      ∧ getF t fCqSlotCtrlHalt (pgCq sp co) sl = getF s fCqSlotCtrlHalt (pgCq sp co) sl ||| mask % 32
      ∧ regsBut [(.cqSlotCtrl, pgCq sp co, sl)] s t ∧ t = { s with regs := t.regs })
    ∧ (∃ t, exec (.slotResume sp co sl mask m) s = .next t
      ∧ (∀ e, e < 5 → bitAt (getF t fCqSlotCtrlHalt (pgCq sp co) sl) e =
          (bitAt (getF s fCqSlotCtrlHalt (pgCq sp co) sl) e && !bitAt mask e))
      ∧ (∀ e, e < 5 → e < (getSlot s (slotKey sp co sl)).part.queues.length → getQ t (slotKey sp co sl) e =
          (if bitAt mask e ∧ (getQ s (slotKey sp co sl) e).st = .haltReq
           then queueResume (getSlot s (slotKey sp co sl)).part e (getQ s (slotKey sp co sl) e)
           else getQ s (slotKey sp co sl) e))
      ∧ regsBut [(.cqSlotCtrl, pgCq sp co, sl)] s t ∧ SameBut [.core, .regs] s t)
    ∧ (∃ t, exec (.slotAbort sp co sl m) s = .next t ∧ slotEmptied t (slotKey sp co sl)
      ∧ getF t fCqSlotCtrlHalt (pgCq sp co) sl = 0
      ∧ (∀ l ∈ (getSlot s (slotKey sp co sl)).part.launches, getItem t l.item = none)
      ∧ (nothingIssued s (slotKey sp co sl) → AbortKeeps s t (slotKey sp co sl))))
  ∧ (∀ (sp : Fin 8) (co : Fin 16) (sl : Fin 4) (s : State), running s = true → queueErrorHandlingReady sp co sl s = true →
    ∃ t, exec (.queueErrorHandling sp co sl) s = .next t ∧ slotEmptied t (slotKey sp co sl)
      ∧ (heldItem s (slotKey sp co sl) = none →
          ∀ l ∈ (getSlot s (slotKey sp co sl)).part.launches, getItem t l.item = none)
      ∧ (nothingIssued s (slotKey sp co sl) → AbortKeeps s t (slotKey sp co sl)
          ∧ (∀ it, heldItem s (slotKey sp co sl) = some it → t.ho.cq = s.ho.cq
            ∧ getItem t it.id = some { it with replay := true })))
  ∧ (∀ (sp : Fin 8) (co : Fin 16) (s : State), running s = true → coreAbsent s sp co = false →
    ∃ t, exec (.coreRetire sp co) s = .next t ∧ coreAbsent t sp co = true
      ∧ (∀ sl, sl < 4 → getSlot t (slotKey sp co sl) = emptySlot)
      ∧ (∀ k, k / 4 ≠ coreNo sp co → getSlot t k = getSlot s k)
      ∧ (∀ p ∈ t.cx.recs, p.1.1 = sp.val → bitAt p.2.coreMask co = false)
      ∧ ((∀ p ∈ s.cx.recs, p.1.1 = sp.val → ∀ q ∈ p.2.parts, q.2.winRetained = true) → t.memo.mem = s.memo.mem)
      ∧ t.core.lmem = s.core.lmem)
  ∧ (∀ (sp : Fin 8) (co : Fin 16) (tally : Fin 128) (add m ctx : Nat) (s : State), running s = true →
    coreAbsent s sp co = false → accepted s (pgTly sp co) m →
    ((getSlot s (slotKey sp co (getF s fTlySelSlot (pgTly sp co)))).ctx = some ctx →
      exec (.tlySignal sp co tally add m) s = .next { s with memo := { s.memo with hostOld := s.memo.host.length }, core := { s.core with
        signals := s.core.signals ++ [⟨ctx, sp, co, tally, add % 2 ^ 48, 2, 1, 0, 0, 0, 0, 0⟩] } })
    ∧ ((getSlot s (slotKey sp co (getF s fTlySelSlot (pgTly sp co)))).ctx = none →
      ∃ t, exec (.tlySignal sp co tally add m) s = .next t ∧ WriteRejected s t (pgTly sp co) 4)
    ∧ (getB s fTlyScopeChkEnable (pgTly sp co) = false → ∃ t, exec (.scopeChkEnable sp co m) s = .next t
      ∧ getB t fTlyScopeChkEnable (pgTly sp co) = true
      ∧ (∀ k, getSlot t k = { getSlot s k with
          scopes := if k / 4 = coreNo sp co then [] else (getSlot s k).scopes })
      ∧ regsBut [(.tlyScopeChk, pgTly sp co, 0)] s t ∧ SameBut [.core, .regs] s t))
  ∧ (∀ (sp : Fin 8) (m : Nat) (s : State), running s = true →
    (accepted s (pgNumev sp) m →
      (∃ t, exec (.numevClearAll sp m) s = .next t ∧ (∀ ctx, look t.cx.numev (sp.val, ctx) ⟨0, 0, 0, 0, 0⟩ = ⟨0, 0, 0, 0, 0⟩)
        ∧ (∀ p ∈ s.cx.numev, p.1.1 ≠ sp.val → p ∈ t.cx.numev)
        ∧ t = { s with cx := { s.cx with numev := t.cx.numev } })
      ∧ (∃ t, exec (.numevClearCtx sp m) s = .next t
        ∧ look t.cx.numev (sp.val, getF s fNumevCtxSelCtx (pgNumev sp)) ⟨0, 0, 0, 0, 0⟩ = ⟨0, 0, 0, 0, 0⟩
        ∧ (∀ p ∈ s.cx.numev, p.1 ≠ (sp.val, getF s fNumevCtxSelCtx (pgNumev sp)) → p ∈ t.cx.numev)
        ∧ t = { s with cx := { s.cx with numev := t.cx.numev } }))
    ∧ (accepted s (pgDmaev sp) m →
      (∃ t, exec (.dmaevClearAll sp m) s = .next t ∧ (∀ ctx, look t.cx.dmaev (sp.val, ctx) ⟨0, 0, 0, 0, 0⟩ = ⟨0, 0, 0, 0, 0⟩)
        ∧ (∀ p ∈ s.cx.dmaev, p.1.1 ≠ sp.val → p ∈ t.cx.dmaev)
        ∧ t = { s with cx := { s.cx with dmaev := t.cx.dmaev } })
      ∧ (∃ t, exec (.dmaevClearCtx sp m) s = .next t
        ∧ look t.cx.dmaev (sp.val, getF s fDmaevCtxSelCtx (pgDmaev sp)) ⟨0, 0, 0, 0, 0⟩ = ⟨0, 0, 0, 0, 0⟩
        ∧ (∀ p ∈ s.cx.dmaev, p.1 ≠ (sp.val, getF s fDmaevCtxSelCtx (pgDmaev sp)) → p ∈ t.cx.dmaev)
        ∧ t = { s with cx := { s.cx with dmaev := t.cx.dmaev } })))

/-! ### Matrices, vectors and the tile cache (04) -/

/-- `mx.mma` writes to D the elements that its operands give, as INT32 words or converted to D's format, changes no byte
outside D, adds its format events and keeps the tile that it leaves, of which a core has three; an illegal tensor scale halts it with FMT_SCALE before
another operand is read, and a poisoned operand with LM_POISON. Which of several bad tensor scales is reported, and which
queue gives its tile up, are the model's choices (log entries 52 and 76). -/
def Obligations.MatrixMultiplyWritesD : Prop :=
  ∀ (sp : Fin 8) (co : Fin 16) (sl : Fin 4) (c : QCmd) (s : State), running s = true →
    headOp s (slotKey sp co sl) 1 0x40 = some c →
    (mxTsCode s (slotKey sp co sl) (cmdWords c) = 0 → mxPoisoned s (slotKey sp co sl) (cmdWords c) = false →
      ∃ t, exec (.mxMma sp co sl) s = .next t
        ∧ LocalOpRan s t (slotKey sp co sl) 1 c (mxD (cmdWords c)) .lmxMxBusy
            (mxTile (cmdWords c) (mxVals s (slotKey sp co sl) (cmdWords c)))
        ∧ (∀ k, tileGiver s (slotKey sp co sl) = some k → k ≠ slotKey sp co sl → 1 < (getSlot s k).part.queues.length →
            (getSlot t k).part = partSetQueue (getSlot s k).part 1 { getQ s k 1 with tile := none })
        ∧ (mxDint (cmdWords c) = false → rowsWritten s t (slotKey sp co sl) c (mxD (cmdWords c))
            (mxVals s (slotKey sp co sl) (cmdWords c)))
        ∧ (mxDint (cmdWords c) = true → fieldsOk (cmdWords c) (windowBytes s (slotKey sp co sl)) = true →
            geometryOk (cmdWords c) (windowBytes s (slotKey sp co sl)) = true → ∀ r, r < mxM (cmdWords c) →
            lmRead t (slotKey sp co sl) (matRow (mxD (cmdWords c)) r) (4 * mxN (cmdWords c))
              = (((mxVals s (slotKey sp co sl) (cmdWords c)).getD r []).flatMap (fun x => leBytes 4 (intCode 32 (numInt x))))))
    ∧ (mxTsCode s (slotKey sp co sl) (cmdWords c) = 0 → mxPoisoned s (slotKey sp co sl) (cmdWords c) = true →
      ∃ t, exec (.mxMma sp co sl) s = .next t ∧ QueueHalted s t (slotKey sp co sl) 1 0x35 c.launch c.pc)
    ∧ (mxTsCode s (slotKey sp co sl) (cmdWords c) ≠ 0 → ∃ t, exec (.mxMma sp co sl) s = .next t
      ∧ QueueHalted s t (slotKey sp co sl) 1 (mxTsCode s (slotKey sp co sl) (cmdWords c)) c.launch c.pc)
    ∧ (∀ m, m = mxA (cmdWords c) ∨ m = mxB (cmdWords c) ∨ m = mxD (cmdWords c) → m.scm = 2 →
      lmBad s (slotKey sp co sl) (matTs m) 4 = false → tscaleOk (matTscale s (slotKey sp co sl) m) = false →
      mxTsCode s (slotKey sp co sl) (cmdWords c) = 0x02 ∨ mxTsCode s (slotKey sp co sl) (cmdWords c) = 0x35)

/-- Every VX command writes to D what its rule gives for its operands and changes no byte outside D: the elementwise
commands, the activations and the reductions, `vx.tr` the transposed element codes and `vx.iadd` the wrapped sums. An illegal
tensor scale halts it with FMT_SCALE before another operand is read, and poison with LM_POISON. Which of several bad tensor
scales is reported, and that an integer D is allowed, are the model's choices (log entries 52 and 53). -/
def Obligations.VectorCommandsWriteD : Prop :=
  (∀ (sp : Fin 8) (co : Fin 16) (sl : Fin 4) (c : QCmd) (s : State) (i : Instr) (op : Nat)
    (rows : State → Nat → Words → List (List Sys2Proof.Machine.Num)), running s = true → (i, op, rows) ∈ vxGives sp co sl →
    headOp s (slotKey sp co sl) 2 op = some c → vxTsCode s (slotKey sp co sl) (cmdWords c) = 0 →
    vxPoisoned s (slotKey sp co sl) (cmdWords c) = false →
    ∃ t, exec i s = .next t ∧ LocalOpRan s t (slotKey sp co sl) 2 c (vxD (cmdWords c)) .lmxVxBusy (getQ s (slotKey sp co sl) 2).tile
      ∧ rowsWritten s t (slotKey sp co sl) c (vxD (cmdWords c)) (rows s (slotKey sp co sl) (cmdWords c)))
  ∧ (∀ (sp : Fin 8) (co : Fin 16) (sl : Fin 4) (c : QCmd) (s : State), running s = true →
    vxTsCode s (slotKey sp co sl) (cmdWords c) = 0 → vxPoisoned s (slotKey sp co sl) (cmdWords c) = false →
    (headOp s (slotKey sp co sl) 2 0x71 = some c → ∃ t, exec (.vxTr sp co sl) s = .next t
      ∧ LocalOpRan s t (slotKey sp co sl) 2 c (vxD (cmdWords c)) .lmxVxBusy (getQ s (slotKey sp co sl) 2).tile
      ∧ (fieldsOk (cmdWords c) (windowBytes s (slotKey sp co sl)) = true →
          geometryOk (cmdWords c) (windowBytes s (slotKey sp co sl)) = true →
          (vxD (cmdWords c)).fmt = (vxA (cmdWords c)).fmt → 1 < (vxA (cmdWords c)).rows →
          ∀ i j, i < vxCols (cmdWords c) → j < vxRows (cmdWords c) →
            (matCodes t (slotKey sp co sl) (vxD (cmdWords c)) i).getD j 0
              = (matCodes s (slotKey sp co sl) (vxA (cmdWords c)) j).getD i 0))
    ∧ (headOp s (slotKey sp co sl) 2 0x79 = some c → ∃ t, exec (.vxIadd sp co sl) s = .next t
      ∧ LocalOpRan s t (slotKey sp co sl) 2 c (vxD (cmdWords c)) .lmxVxBusy (getQ s (slotKey sp co sl) 2).tile
      ∧ (∀ n, n = (if vxFunc (cmdWords c) = 1 then 8 else 4) →
          fieldsOk (cmdWords c) (windowBytes s (slotKey sp co sl)) = true →
          geometryOk (cmdWords c) (windowBytes s (slotKey sp co sl)) = true →
          ∀ r, r < vxRows (cmdWords c) →
            lmRead t (slotKey sp co sl) (matRow (vxD (cmdWords c)) r) (n * vxCols (cmdWords c))
              = (List.zipWith (fun a b => (a + b) % 2 ^ (8 * n))
                  (iaddRow s (slotKey sp co sl) (vxA (cmdWords c)) n (vxCols (cmdWords c)) r)
                  (iaddB s (slotKey sp co sl) (cmdWords c) n r)).flatMap (leBytes n))))
  ∧ (∀ (sp : Fin 8) (co : Fin 16) (sl : Fin 4) (c : QCmd) (s : State) (i : Instr) (op : Nat), running s = true →
    (i, op) ∈ (vxGives sp co sl).map (fun x => (x.1, x.2.1)) ++ [(.vxTr sp co sl, 0x71), (.vxIadd sp co sl, 0x79)] →
    headOp s (slotKey sp co sl) 2 op = some c →
    (vxTsCode s (slotKey sp co sl) (cmdWords c) = 0 → vxPoisoned s (slotKey sp co sl) (cmdWords c) = true →
      ∃ t, exec i s = .next t ∧ QueueHalted s t (slotKey sp co sl) 2 0x35 c.launch c.pc)
    ∧ (vxTsCode s (slotKey sp co sl) (cmdWords c) ≠ 0 → ∃ t, exec i s = .next t
      ∧ QueueHalted s t (slotKey sp co sl) 2 (vxTsCode s (slotKey sp co sl) (cmdWords c)) c.launch c.pc)
    ∧ (∀ m, (m = vxA (cmdWords c) ∧ vxHasA op = true) ∨ (m = vxB (cmdWords c) ∧ vxHasB op = true) ∨ m = vxD (cmdWords c) →
      m.scm = 2 → lmBad s (slotKey sp co sl) (matTs m) 4 = false → tscaleOk (matTscale s (slotKey sp co sl) m) = false →
      vxTsCode s (slotKey sp co sl) (cmdWords c) = 0x02 ∨ vxTsCode s (slotKey sp co sl) (cmdWords c) = 0x35))

/-- A load or store whose records are good walks its box from where it stands; one that ends becomes executed with its
counts and nominal bytes and counts its bytes, a load changes local memory only in its local matrix and a store none of
it, and one that stops takes the code or the fault that it met, with its restart record. How a packed group's bytes count,
and which positions count an invalid scale, are the model's readings (log entries 55 and 40). -/
def Obligations.LoadsAndStoresWalkTheirBoxes : Prop :=
  (∀ (sp : Fin 8) (co : Fin 16) (sl : Fin 4) (i : Instr) (e op : Nat) (walk : Job → QCmd → Mv → Nat → Nat × Mv) (c : QCmd)
    (j : Job) (u : State) (p : Nat) (m : Mv) (s : State), running s = true →
    (i, e, op, walk) ∈ [(.ldT sp co sl, 0, 0x20, loadWalk), (.ldG sp co sl, 0, 0x21, loadWalk),
      (.stT sp co sl, 3, 0x80, storeWalk), (.stS sp co sl, 3, 0x81, storeWalk), (.stRed sp co sl, 3, 0x82, redWalk),
      (.stSred sp co sl, 3, 0x83, redWalk)] →
    headOp s (slotKey sp co sl) e op = some c → setup s (slotKey sp co sl) e (cmdWords c) = (.ok j, u) →
    walk j c (mvStart u (cmdRestart (getQ s (slotKey sp co sl) e) c))
      (posOf j.b (cmdRestart (getQ s (slotKey sp co sl) e) c).iter) = (p, m) →
    (m.stop = none → ∃ t ev, exec i s = .next t
      ∧ (getSlot t (slotKey sp co sl)).part = partSetQueue (getSlot m.s (slotKey sp co sl)).part e
          { qSetCmd (getQ m.s (slotKey sp co sl) e) { cmdCounts (cmdAddEv c ev) m with
              phase := .executed, nominal := tensorNominal j.w j.d j.b } with restart := noRestart }
      ∧ t.memo = m.s.memo ∧ t.core.lmem = m.s.core.lmem
      ∧ getF t fLdstLdBytesCount (pgLdst sp co) = (getF m.s fLdstLdBytesCount (pgLdst sp co) + m.rbits / 8) % 2 ^ 48
      ∧ getF t fLdstStBytesCount (pgLdst sp co) = (getF m.s fLdstStBytesCount (pgLdst sp co) + m.wbits / 8) % 2 ^ 48
      ∧ (op < 0x40 → t.memo.host = s.memo.host ∧ ∀ a,
          (∀ r ∈ matRanges (localMat j.w j.b), a < lmCell s (slotKey sp co sl) r.1 ∨ lmCell s (slotKey sp co sl) r.1 + r.2 ≤ a) →
          cellGet t.core.lmem a = cellGet s.core.lmem a)
      ∧ (0x40 ≤ op → t.core.lmem = s.core.lmem))
    ∧ (∀ k va, m.stop = some (.code k va) → ∃ t, exec i s = .next t
      ∧ (getSlot t (slotKey sp co sl)).part = haltedPart (partSetQueue (getSlot m.s (slotKey sp co sl)).part e
          (qSetCmd (getQ m.s (slotKey sp co sl) e) (cmdCounts (cmdAddEv c m.ev) m))) e k c.launch c.pc
      ∧ t.memo = m.s.memo ∧ (0x40 ≤ op → t.core.lmem = s.core.lmem))
    ∧ (∀ cause level va acc, m.stop = some (.fault cause level va acc) → ∃ t, exec i s = .next t
      ∧ (getSlot t (slotKey sp co sl)).part = partSetQueue (getSlot m.s (slotKey sp co sl)).part e
          { qSetCmd (getQ m.s (slotKey sp co sl) e) (cmdCounts (cmdAddEv c m.ev) m) with
            restart := ⟨c.pc, iterOf j.b p, m.phase, va, m.oobR, m.oobW, m.oobI, m.coal, m.bad⟩,
            pend := some ⟨cause, level, accessNum acc, va, 0, 0, 0, 0⟩ }
      ∧ t.memo = m.s.memo ∧ (0x40 ≤ op → t.core.lmem = s.core.lmem)))
  ∧ (∀ (sp : Fin 8) (co : Fin 16) (sl : Fin 4) (i : Instr) (e op : Nat) (c : QCmd) (x : Stop) (u : State) (s : State),
    running s = true →
    (i, e, op) ∈ [(.ldT sp co sl, 0, 0x20), (.ldG sp co sl, 0, 0x21), (.stT sp co sl, 3, 0x80), (.stS sp co sl, 3, 0x81),
      (.stRed sp co sl, 3, 0x82), (.stSred sp co sl, 3, 0x83)] →
    headOp s (slotKey sp co sl) e op = some c → setup s (slotKey sp co sl) e (cmdWords c) = (.stop x, u) →
    (∀ k va, x = .code k va → k < 256 → ∃ t, exec i s = .next t ∧ QueueHalted u t (slotKey sp co sl) e k c.launch c.pc)
    ∧ (∀ cause level va acc, x = .fault cause level va acc → ∃ t, exec i s = .next t
      ∧ SlotTakes u t (slotKey sp co sl) (partSetQueue (getSlot u (slotKey sp co sl)).part e
          { getQ u (slotKey sp co sl) e with
            restart := { cmdRestart (getQ s (slotKey sp co sl) e) c with phase := 0, cmdVa := c.pc, faultVa := va },
            pend := some ⟨cause, level, accessNum acc, va, 0, 0, 0, 0⟩ })))
  ∧ (∀ (sp : Fin 8) (co : Fin 16) (sl : Fin 4) (c : QCmd) (p : Nat) (m : Mv) (s : State), running s = true →
    (headOp s (slotKey sp co sl) 0 0x22 = some c →
      storeGo (byOne (ldbPos ⟨slotKey sp co sl, 0, cmdWords c, noDesc, ⟨[], []⟩, moveAgent s (slotKey sp co sl) (cmdWords c)⟩))
        (bits c.w3 0 24 / 4) (bits c.w3 0 24 / 4) (mvStart s (cmdRestart (getQ s (slotKey sp co sl) 0) c))
        ((cmdRestart (getQ s (slotKey sp co sl) 0) c).iter.getD 0 0 / 4) = (p, m) → m.stop = none →
      ∃ t ev, exec (.ldB sp co sl) s = .next t
        ∧ (getSlot t (slotKey sp co sl)).part = partSetQueue (getSlot m.s (slotKey sp co sl)).part 0
          { qSetCmd (getQ m.s (slotKey sp co sl) 0) { cmdCounts (cmdAddEv c ev) m with
              phase := .executed, nominal := bits c.w3 0 24 } with restart := noRestart }
        ∧ t.memo.host = s.memo.host
        ∧ (∀ a, a < lmCell s (slotKey sp co sl) (bits c.w2 0 23)
            ∨ lmCell s (slotKey sp co sl) (bits c.w2 0 23) + bits c.w3 0 24 ≤ a →
          cellGet t.core.lmem a = cellGet s.core.lmem a))
    ∧ (headOp s (slotKey sp co sl) 3 0x84 = some c →
      storeGo (byOne (stbPos ⟨slotKey sp co sl, 3, cmdWords c, noDesc, ⟨[], []⟩, moveAgent s (slotKey sp co sl) (cmdWords c)⟩))
        (bits c.w3 0 24 / 4) (bits c.w3 0 24 / 4) (mvStart s (cmdRestart (getQ s (slotKey sp co sl) 3) c))
        ((cmdRestart (getQ s (slotKey sp co sl) 3) c).iter.getD 0 0 / 4) = (p, m) → m.stop = none →
      ∃ t ev, exec (.stB sp co sl) s = .next t
        ∧ (getSlot t (slotKey sp co sl)).part = partSetQueue (getSlot m.s (slotKey sp co sl)).part 3
          { qSetCmd (getQ m.s (slotKey sp co sl) 3) { cmdCounts (cmdAddEv c ev) m with
              phase := .executed, nominal := bits c.w3 0 24 } with restart := noRestart }
        ∧ t.memo = m.s.memo ∧ t.core.lmem = s.core.lmem))

/-- A range command that meets no refusal becomes executed with local and host memory unchanged; an eviction lets its
line go, written back first if it is dirty; FLUSH_ALL leaves its span no dirty line and shows FLUSH_BUSY until it is done. -/
def Obligations.TileCacheWritesBackAndLetsGo : Prop :=
  (∀ (sp : Fin 8) (co : Fin 16) (sl : Fin 4) (i : Instr) (opc : Nat) (op : RangeOp) (c : QCmd) (r0 : Restart) (j : Job)
    (p : Nat) (m : Mv) (s : State), running s = true →
    (i, opc, op) ∈ [(.memFlush sp co sl, 0x9C, .flush), (.memInval sp co sl, 0x9D, .inval),
      (.memFlinv sp co sl, 0x9E, .flinv)] →
    headOp s (slotKey sp co sl) 3 opc = some c → r0 = cmdRestart (getQ s (slotKey sp co sl) 3) c →
    j = ⟨slotKey sp co sl, 3, cmdWords c, noDesc, ⟨[], []⟩, ⟨sp, co, 3, slotCtx s (slotKey sp co sl), false,
      if op = .inval then .write else .read, eDmaProt, eDmaAttr, eDmaPoison, eUnsealedRead⟩⟩ →
    storeGo (byOne (rangePos op j)) (rangeLines c.w1 (bits c.w2 0 40)) (rangeLines c.w1 (bits c.w2 0 40)) (mvStart s r0)
      ((c.w1 + (r0.iter.getD 0 0 + 2 ^ 32 * r0.iter.getD 1 0)) / 128 - c.w1 / 128) = (p, m) → m.stop = none →
    ∃ t ev, exec i s = .next t
      ∧ (getSlot t (slotKey sp co sl)).part = partSetQueue (getSlot m.s (slotKey sp co sl)).part 3
          { qSetCmd (getQ m.s (slotKey sp co sl) 3) { cmdCounts (cmdAddEv c ev) m with
              phase := .executed, nominal := 0 } with restart := noRestart }
      ∧ t.memo = m.s.memo ∧ t.core.lmem = s.core.lmem ∧ t.memo.host = s.memo.host)
  ∧ (∀ (sp : Fin 8) (n : Nat) (l : TcLine) (s : State), running s = true → tcNth s sp n = some l →
    (l.dirty = 0 → exec (.tileCacheEviction sp n) s = .next { s with memo := { s.memo with
        tc := s.memo.tc.filter (fun x => !tcIs sp l.intlv l.line x) } })
    ∧ (l.dirty ≠ 0 → ∃ t, exec (.tileCacheEviction sp n) s = .next t ∧ tcFind t sp l.intlv l.line = none
        ∧ getF t fTcWritebackCount (pgTc sp) = (getF s fTcWritebackCount (pgTc sp) + 1) % 2 ^ 48
        ∧ t.core = s.core ∧ t.cx = s.cx))
  ∧ (∀ (sp : Fin 8) (m : Nat) (s : State), running s = true → accepted s (pgTc sp) m →
    (getB s fTcStatusFlushBusy (pgTc sp) = false → ∃ t, exec (.tcFlushAll sp m) s = .next t
      ∧ getB t fTcStatusFlushBusy (pgTc sp) = true ∧ tcDirtyLines t sp = 0 ∧ t.core = s.core ∧ t.cx = s.cx)
    ∧ (getB s fTcStatusFlushBusy (pgTc sp) = true →
      ∃ t, exec (.tcFlushAll sp m) s = .next t ∧ WriteRejected s t (pgTc sp) 6))
  ∧ (∀ (sp : Fin 8) (s : State), running s = true → ∃ t, exec (.tcFlushAllDone sp) s = .next t
    ∧ getB t fTcStatusFlushBusy (pgTc sp) = false ∧ regsBut [(.tcStatus, pgTc sp, 0)] s t ∧ t = { s with regs := t.regs })

/-! ### Piers, reducers and spares (06, 09) -/

/-- The stack offset of a cell decodes to byte, bank, pseudo-channel and row by the formulas of the rule, with 48 or 64
pseudo-channels fitted, and the four with the span name the cell again. An aligned block of 64 KiB is one row in each bank
of one pseudo-channel, the next block moves to the next pseudo-channel, and a line of 128 bytes lies in one row of one
bank. -/
def Obligations.StackOffsetsDecode : Prop :=
  ∀ (s : State) (cell other : Nat), cellSo cell < stackCap s →
    cellCol cell = cellSo cell % 2048 / 32 ∧ cellBank cell = cellSo cell / 2048 % 32
    ∧ (s.fuse.gradeS = true → cellPc s cell = cellSo cell / 65536 % 48 ∧ cellRow s cell = cellSo cell / (65536 * 48))
    ∧ (s.fuse.gradeS = false → cellPc s cell = cellSo cell / 65536 % 64 ∧ cellRow s cell = cellSo cell / (65536 * 64))
    ∧ cellRow s cell < 2 ^ 15
    ∧ cell = rowCell s (cellSpan cell) (cellPc s cell) (cellBank cell) (cellRow s cell) + cellSo cell % 2048
    ∧ (cellSo other / 65536 = cellSo cell / 65536 → cellPc s other = cellPc s cell ∧ cellRow s other = cellRow s cell)
    ∧ (cellSo other = cellSo cell + 65536 → cellPc s other = (cellPc s cell + 1) % (if s.fuse.gradeS then 48 else 64))
    ∧ (cellSo other / 128 = cellSo cell / 128 → cellBank other = cellBank cell ∧ cellRow s other = cellRow s cell
        ∧ cellPc s other = cellPc s cell)

/-- A controller issues the request that it chooses and charges its columns; buckets fill every microsecond up to their
depth; ALERT closes every row and replays from the failed command with its rows opened again, a bad read beat is read again
with its row, no row being opened while eight refreshes are owed,
and a fifth failure retrains the pier group, which passes or fails the pseudo-channel; each interval boundary adds to the
owed count, and refresh commands pay it and close every row. That each boundary makes one refresh due at the next stitch
boundary is the model's reading (log entry 48), and that a microsecond's columns come together and only regulated partitions
are charged its choices (log entries 93 and 92). -/
def Obligations.PiersIssueReplayAndRefresh : Prop :=
  (∀ (sp : Fin 8) (pc : Fin 64) (r : PReq) (s : State), running s = true → pierRequestIssueReady sp pc s = true →
    chooseReq s (pcNo sp pc) (fun _ => true) = some r →
    ∃ t, exec (.pierRequestIssue sp pc) s = .next t
      ∧ (getPcc t (pcNo sp pc)).reqs.length + 1 = (getPcc s (pcNo sp pc)).reqs.length
      ∧ (r.bank ≠ 32 → look (getPcc t (pcNo sp pc)).openRows r.bank 0 = r.row)
      ∧ (getPcc t (pcNo sp pc)).replay = replayLive s (getPcc s (pcNo sp pc))
          ++ [⟨if r.isWrite then .wdata else .rdata, r.cell, 0, s.tick,
            if r.bank = 32 then none else some (r.bank, r.row)⟩]
      ∧ (reqExpress s (pcNo sp pc) r = true → r.charged = true → getB s fBlkStatusCommitPend (pgPcc sp pc) = false →
          (getPcc t (pcNo sp pc)).expTok = (getPcc s (pcNo sp pc)).expTok - (100 * r.cols : Nat))
      ∧ (reqExpress s (pcNo sp pc) r = false → r.charged = true → partOn s (pcNo sp pc) r.part = true →
          getB s fBlkStatusCommitPend (pgPcc sp pc) = false →
          look (getPcc t (pcNo sp pc)).tokens r.part 0 = look (getPcc s (pcNo sp pc)).tokens r.part 0 - (100 * r.cols : Nat))
      ∧ (∀ k, k ≠ pcNo sp pc → getPcc t k = getPcc s k) ∧ SameBut [.memo, .regs, .staged] s t)
  ∧ (∀ (sp : Fin 8) (pc : Fin 64) (s : State), running s = true → ctlLive s (pcNo sp pc) = true →
    ((getPcc s (pcNo sp pc)).refillAt ≤ s.tick → ∃ t, exec (.partitionTokenRefill sp pc) s = .next t
      ∧ (getPcc t (pcNo sp pc)).refillAt = (getPcc s (pcNo sp pc)).refillAt + 1000
      ∧ (∀ k, k < 64 → look (getPcc t (pcNo sp pc)).tokens k 0
          = min (look (getPcc s (pcNo sp pc)).tokens k 0 + (100 * getF s fPccPartRate (pgPcc sp pc) k : Nat))
              (100 * getF s fPccPartDepth (pgPcc sp pc) k : Nat))
      ∧ (getPcc t (pcNo sp pc)).expTok
          = min ((getPcc s (pcNo sp pc)).expTok + (100 * getF s fPccExpressRate (pgPcc sp pc) : Nat))
              (100 * getF s fPccExpressDepth (pgPcc sp pc) : Nat)
      ∧ (∀ k, k ≠ pcNo sp pc → getPcc t k = getPcc s k) ∧ SameBut [.memo, .regs] s t)
    ∧ (s.tick < (getPcc s (pcNo sp pc)).refillAt → exec (.partitionTokenRefill sp pc) s = .next s)
    ∧ ((getPcc s (pcNo sp pc)).nextRefi ≤ s.tick → ∃ t, exec (.refreshInterval sp pc) s = .next t
      ∧ getPcc t (pcNo sp pc) = { getPcc s (pcNo sp pc) with
          owed := min ((getPcc s (pcNo sp pc)).owed + 1) 8,
          due := (getPcc s (pcNo sp pc)).due || decide ((getPcc s (pcNo sp pc)).owed ≥ 0),
          nextRefi := (getPcc s (pcNo sp pc)).nextRefi + bandRefi (getF s fStkBandBand (pgStk sp)) }
      ∧ (∀ k, k ≠ pcNo sp pc → getPcc t k = getPcc s k) ∧ SameBut [.memo] s t)
    ∧ (refreshIssueReady sp pc s = true → ∃ t, exec (.refreshIssue sp pc) s = .next t
      ∧ (getPcc t (pcNo sp pc)).owed = (getPcc s (pcNo sp pc)).owed - 1 ∧ (getPcc t (pcNo sp pc)).openRows = []
      ∧ (getPcc t (pcNo sp pc)).corr = [] ∧ (getPcc t (pcNo sp pc)).due = false
      ∧ (getPcc t (pcNo sp pc)).replay = replayLive s (getPcc s (pcNo sp pc)) ++ [⟨.ca, rowCell s sp pc 0 0, 0, s.tick, none⟩]
      ∧ getF t fPccRefCntCount (pgPcc sp pc) = (getF s fPccRefCntCount (pgPcc sp pc) + 1) % 2 ^ 48
      ∧ (∀ b, (getPcc s (pcNo sp pc)).bandNew = some b → b < 4 → getF t fPccStateBand (pgPcc sp pc) = b)
      ∧ SameBut [.memo, .regs, .er, .staged] s t))
  ∧ (∀ (sp : Fin 8) (pc : Fin 64) (n : Nat) (c : ReplayCmd) (s : State), running s = true →
    (getPcc s (pcNo sp pc)).replay[n]? = some c →
    (∀ w, alertReady sp pc n w s = true → ∃ t, exec (.alert sp pc n w) s = .next t
      ∧ (getPcc t (pcNo sp pc)).replay[n]? = some { c with fails := c.fails + 1, at_ := s.tick }
      ∧ (getPcc t (pcNo sp pc)).openRows = replayRows (getPcc s (pcNo sp pc)) n
      ∧ (∀ k x, n < k → (getPcc s (pcNo sp pc)).replay[k]? = some x →
          (getPcc t (pcNo sp pc)).replay[k]? = some { x with at_ := s.tick })
      ∧ getF t (if w then fPccRetryWdata else fPccRetryCa) (pgPcc sp pc)
          = min (getF s (if w then fPccRetryWdata else fPccRetryCa) (pgPcc sp pc) + 1) 65535
      ∧ SameBut [.memo, .regs, .er] s t)
    ∧ (replayable s (pcNo sp pc) n (some .rdata) = true → ∃ t, exec (.readParityError sp pc n) s = .next t
      ∧ (getPcc t (pcNo sp pc)).replay[n]? = some { c with fails := c.fails + 1, at_ := s.tick }
      ∧ (∀ k, k ≠ n → (getPcc t (pcNo sp pc)).replay[k]? = (getPcc s (pcNo sp pc)).replay[k]?)
      ∧ ((getPcc s (pcNo sp pc)).owed = 8 → (getPcc t (pcNo sp pc)).openRows = (getPcc s (pcNo sp pc)).openRows)
      ∧ (∀ r, c.opens = some r → (getPcc s (pcNo sp pc)).owed ≠ 8 → look (getPcc t (pcNo sp pc)).openRows r.1 0 = r.2)
      ∧ getF t fPccRetryRdata (pgPcc sp pc) = min (getF s fPccRetryRdata (pgPcc sp pc) + 1) 65535
      ∧ SameBut [.memo, .regs, .er] s t))
  ∧ (∀ (sp : Fin 8) (pc : Fin 64) (s : State), running s = true →
    (pierRetrainReady sp pc s = true → ∃ t, exec (.pierRetrain sp pc) s = .next t
      ∧ getB t fPccStateRetrain (pgPcc sp pc) = true
      ∧ getF t fPccRetryEscalations (pgPcc sp pc) = min (getF s fPccRetryEscalations (pgPcc sp pc) + 1) 255
      ∧ getPcc t (pcNo sp pc) = { getPcc s (pcNo sp pc) with retrainAt := s.tick } ∧ SameBut [.memo, .regs] s t)
    ∧ (getB s fPccStateRetrain (pgPcc sp pc) = true → ctlLive s (pcNo sp pc) = true →
      (∃ t, exec (.pierRetrainDone sp pc true) s = .next t ∧ getB t fPccStateRetrain (pgPcc sp pc) = false
        ∧ (getPcc t (pcNo sp pc)).recovering = true ∧ (∀ c ∈ (getPcc t (pcNo sp pc)).replay, c.fails < 5)
        ∧ (getPcc t (pcNo sp pc)).reqs = (getPcc s (pcNo sp pc)).reqs ∧ SameBut [.memo, .regs] s t)
      ∧ (∃ t, exec (.pierRetrainDone sp pc false) s = .next t ∧ getB t fPccStateRetrain (pgPcc sp pc) = false
        ∧ pcGone t (pcNo sp pc) = true ∧ (getPcc t (pcNo sp pc)).reqs = [] ∧ (getPcc t (pcNo sp pc)).red = []
        ∧ (getPcc t (pcNo sp pc)).staged = (getPcc s (pcNo sp pc)).staged.filter (fun e => !settleable s e)
        ∧ (∀ b, b < 32 → (getBlu t (pcNo sp pc) b).poisoned = List.range 640) ∧ (s.er.elog.length < 256 →
            ∃ e, t.er.elog = elogOrder s.tick (s.er.elog ++ [e]) ∧ e.cls = 0x07 ∧ e.span = sp.val ∧ e.index = pc.val)
        ∧ SameBut [.memo, .regs, .er] s t)))

/-- An unordered update replaces its element in the reducer buffer by the operation's result, the two halves of an INT64
element each in its line, an ordered one is staged, and an unordered one of a poisoned element leaves it and is logged; an
evicted line's changed columns reach its bank, on which no stitch runs, poisoned ones as poison, and no other byte of memory; SETTLE_ALL leaves
nothing that may settle and BUF_WB no dirty line. -/
def Obligations.ReducersBufferStageAndSettle : Prop :=
  (∀ (cell op fmt val ctx hi n n2 w : Nat) (u s : State), running s = true → redReady s cell op fmt = true →
    hi = redHi (redOpCode op fmt) cell → n = cellCtl s cell → n2 = cellCtl s hi →
    w = (if redBytes (redOpCode op fmt) = 8 then 4 else redBytes (redOpCode op fmt)) →
    stagedAt s (cell / 128) = [] → stagedAt s (hi / 128) = [] →
    pcGone s n = false → bankIsolated s cell = false → pcGone s n2 = false → bankIsolated s hi = false →
    u = redLines (redCharge s cell hi (ctxPart s ctx)) n (cell / 128) n2 (hi / 128) →
    (redBad u n (cell / 128) (cell % 128) = true → ∃ t, exec (.reducerUpdate cell op fmt val ctx) s = .next t
      ∧ t.memo = u.memo ∧ (u.er.elog.length < 256 →
          ∃ e, t.er.elog = elogOrder s.tick (u.er.elog ++ [e]) ∧ e.cls = 0x05 ∧ e.ctx = ctx ∧ e.bank = cellBank cell)
      ∧ SameBut [.memo, .mem, .regs, .er] s t)
    ∧ (redBad u n (cell / 128) (cell % 128) = false → redBad u n2 (hi / 128) (hi % 128) = true →
      ∃ t, exec (.reducerUpdate cell op fmt val ctx) s = .next t
      ∧ t.memo = u.memo ∧ (u.er.elog.length < 256 →
          ∃ e, t.er.elog = elogOrder s.tick (u.er.elog ++ [e]) ∧ e.cls = 0x05 ∧ e.ctx = ctx ∧ e.bank = cellBank hi)
      ∧ SameBut [.memo, .mem, .regs, .er] s t)
    ∧ (redBad u n (cell / 128) (cell % 128) = false → redBad u n2 (hi / 128) (hi % 128) = false →
      (∀ l ∈ (getPcc s n).red ++ (getPcc s n2).red, l.data.length = 128) →
      ∃ new t, exec (.reducerUpdate cell op fmt val ctx) s = .next t
        ∧ new = leBytes (redBytes (redOpCode op fmt)) (redApply (redOpCode op fmt)
            (leNat (redGet u n (cell / 128) (cell % 128) w
              ++ (if hi = cell then [] else redGet u n2 (hi / 128) (hi % 128) 4))) (redOperandVal op val))
        ∧ redGet t n (cell / 128) (cell % 128) w = new.take w
        ∧ (hi ≠ cell → redGet t n2 (hi / 128) (hi % 128) 4 = new.drop 4)
        ∧ SameBut [.memo, .mem, .regs, .er] s t))
  ∧ (∀ (cell tag op fmt val ctx item : Nat) (s : State), running s = true → redReady s cell op fmt = true →
    pcGone s (cellCtl s cell) = false →
    (getPcc s (cellCtl s cell)).staged.length + 1 ≤ 2048 * getF s fPccOrdAreaSize (pccPage (cellCtl s cell)) →
    (setIns (setIns (stagedLines (getPcc s (cellCtl s cell))) (cell / 128))
      (redHi (redOpCode op fmt) cell / 128)).length ≤ 16384 →
    exec (.orderedUpdateAccept cell tag op fmt val ctx item) s = .next (putPcc s (cellCtl s cell)
      { getPcc s (cellCtl s cell) with
        staged := (getPcc s (cellCtl s cell)).staged
          ++ [stagedEntry (tag % 2 ^ 128) (redOperandVal op val) cell (redHi (redOpCode op fmt) cell) (redOpCode op fmt)
            ctx item] }))
  ∧ (∀ (sp : Fin 8) (pc : Fin 64) (n : Nat) (l : RedLine) (s : State), running s = true →
    (getPcc s (pcNo sp pc)).red[n]? = some l →
    (canIssue s (pcNo sp pc) = false ∨ stitchOn s (128 * l.line) = true → exec (.reducerLineEvict sp pc n) s = .next s)
    ∧ (canIssue s (pcNo sp pc) = true → stitchOn s (128 * l.line) = false → (∀ x ∈ (getPcc s (pcNo sp pc)).red, x.line = l.line → x = l) →
    ∃ t, exec (.reducerLineEvict sp pc n) s = .next t ∧ (∀ x ∈ (getPcc t (pcNo sp pc)).red, x.line ≠ l.line)
      ∧ (l.dirty = 0 → SameBut [.memo] s t ∧ t.memo.mem = s.memo.mem)
      ∧ (l.data.length = 128 → pcGone s (cellCtl s (128 * l.line)) = false → bankIsolated s (128 * l.line) = false →
          (∀ k, k < 4 → bitAt l.dirty k = true → bitAt l.poison k = false →
            cellRead t.memo.mem (128 * l.line + 32 * k) 32 = (l.data.drop (32 * k)).take 32)
          ∧ (∀ k, k < 4 → bitAt l.dirty k = true → bitAt l.poison k = true → t.memo.poison.contains (4 * l.line + k) = true)
          ∧ (∀ a, (∀ k, k < 4 → bitAt l.dirty k = true → bitAt l.poison k = false →
              a < 128 * l.line + 32 * k ∨ 128 * l.line + 32 * k + 32 ≤ a) → cellGet t.memo.mem a = cellGet s.memo.mem a)
          ∧ SameBut [.memo, .mem, .regs] s t)))
  ∧ (∀ (sp : Fin 8) (pc : Fin 64) (m : Nat) (s : State), running s = true → ctlLive s (pcNo sp pc) = true →
    accepted s (pgPcc sp pc) m →
    (∃ t, exec (.settleAll sp pc m) s = .next t
      ∧ (∀ e ∈ (getPcc t (pcNo sp pc)).staged, settleable t e = false)
      ∧ (∀ e ∈ (getPcc s (pcNo sp pc)).staged, settleable s e = false → e ∈ (getPcc t (pcNo sp pc)).staged)
      ∧ SameBut [.memo, .mem, .regs, .er] s t)
    ∧ (∃ t, exec (.bufWb sp pc m) s = .next t ∧ (∀ l ∈ (getPcc t (pcNo sp pc)).red, l.dirty = 0)
      ∧ (getPcc t (pcNo sp pc)).staged = (getPcc s (pcNo sp pc)).staged ∧ SameBut [.memo, .mem, .regs, .er] s t))

/-- A spare begins to take the place of a bank where both are free, and takes it, or has failed, at the end of the copy, which
corrects what the code corrects and hands on the rest as poison. A retired pseudo-channel is gone, its items end, and the
retirement is listed. What a copy of an isolated bank reads, and what a retirement drops, are the model's choices (log
entries 49 and 28). -/
def Obligations.SparesAndRetirementReplaceBanks : Prop :=
  (∀ (sp : Fin 8) (pc : Fin 64) (lbank : Fin 32) (spare : Fin 4) (m : Nat) (s : State), running s = true →
    ctlLive s (pcNo sp pc) = true → accepted s (pgPcc sp pc) m →
    ((getF s fPccSpareState (pgPcc sp pc) = 1 ∨ getF s fPccSpareState (pgPcc sp pc) = 2 ∨ spareUsed s sp pc spare = true) →
      ∃ t, exec (.spareStart sp pc lbank spare m) s = .next t ∧ WriteRejected s t (pgPcc sp pc) 6)
    ∧ (getF s fPccSpareState (pgPcc sp pc) ≠ 1 → getF s fPccSpareState (pgPcc sp pc) ≠ 2 →
      spareUsed s sp pc spare = false →
      ((sp.val, pc.val / 4, spare.val) ∈ s.pkg.boot.sparesGone →
        ∃ t, exec (.spareStart sp pc lbank spare m) s = .next t ∧ WriteRejected s t (pgPcc sp pc) 2)
      ∧ ((sp.val, pc.val / 4, spare.val) ∉ s.pkg.boot.sparesGone →
        ∃ t, exec (.spareStart sp pc lbank spare m) s = .next t ∧ getF t fPccSpareState (pgPcc sp pc) = 1
          ∧ getF t fPccSpareLbank (pgPcc sp pc) = lbank ∧ getF t fPccSpareSpare (pgPcc sp pc) = spare
          ∧ getPcc t (pcNo sp pc) = { getPcc s (pcNo sp pc) with copyAt := s.tick, copyAgain := [] }
          ∧ regsBut [(.pccSpare, pgPcc sp pc, 0)] s t ∧ SameBut [.memo, .regs] s t)))
  ∧ (∀ (sp : Fin 8) (pc : Fin 64) (s : State), running s = true → spareSwitchReady sp pc s = true →
    (∃ t, exec (.spareSwitch sp pc true) s = .next t ∧ getF t fPccSpareState (pgPcc sp pc) = 2
      ∧ (sp.val, 0x50, pc.val, getF s fPccSpareLbank (pgPcc sp pc)) ∉ t.er.isolated
      ∧ (∀ col errs, s.memo.errs.filter (fun e => e.1 = col) = [(col, errs)] → cellCtl s (32 * col) = pcNo sp pc →
          cellBank (32 * col) = getF s fPccSpareLbank (pgPcc sp pc) → colStale s (32 * col) = false →
          s.memo.poison.contains col = false → look t.memo.errs col [] = []
          ∧ (∀ i, colOutcome errs = .corrected i → t.memo.poison.contains col = false
              ∧ cellRead t.memo.mem (32 * col) 32 = colData (cellRead s.memo.mem (32 * col) 32) errs (some i))
          ∧ (colOutcome errs = .poison ∨ colOutcome errs = .ue ∨ (∃ i, colOutcome errs = .addr i) →
              t.memo.poison.contains col = true))
      ∧ regsBut [(.pccSpare, pgPcc sp pc, 0)] s t ∧ SameBut [.memo, .mem, .regs, .er] s t)
    ∧ (∃ t, exec (.spareSwitch sp pc false) s = .next t ∧ getF t fPccSpareState (pgPcc sp pc) = 3
      ∧ t.er = s.er ∧ regsBut [(.pccSpare, pgPcc sp pc, 0)] s t ∧ SameBut [.memo, .regs] s t))
  ∧ (∀ (sp : Fin 8) (pc : Fin 64) (s : State), running s = true → ctlLive s (pcNo sp pc) = true →
    ∃ t, exec (.pcRetire sp pc) s = .next t ∧ pcGone t (pcNo sp pc) = true
      ∧ (∀ it ∈ s.ho.items, itemOnPc s (pcNo sp pc) it = true → it.commit = none → getItem t it.id = none)
      ∧ look t.pkg.causes (pgPcc sp pc) 0 = 3
      ∧ (s.pkg.boot.retList.length < 1024 →
          t.pkg.boot.retList = s.pkg.boot.retList ++ [retEntry 2 sp pc 0 0 false])
      ∧ t.core = s.core ∧ t.sch = s.sch
      ∧ ((∀ it ∈ s.ho.items, itemOnPc s (pcNo sp pc) it = false) → t.srv = s.srv ∧ t.ho = s.ho))

/-! ### Errors, retirement and the journal (15) -/

/-- A failed host read gives its engine, its ring or Fenivar the error; correctable events fill a leaking bucket that empties
with a log entry at its depth; of a hard error the resource is marked, discarded or stopped and an SRAM_UE entry written (that
the same command brings both is the model's choice, log entry 61, and so is the order in the log of entries of one tick, log
entry 60); SERR.FLIP arms an injection; the scrub counts the stale columns of a row and goes to the next, at even intervals of
the period by the model's choice (log entry 113); aliases, requests to retire and the error log's own writes take effect or are rejected. -/
def Obligations.ErrorsAreCountedLoggedAndInjected : Prop :=
  (∀ (sp : Fin 8) (co : Fin 16) (sl : Fin 4) (n : Nat) (fn : Fin 128) (q : Fin 16) (timeout : Bool) (s : State),
    running s = true →
    (∀ t, loadFails sp co sl n s = some t →
      exec (.hostReadError 0 sp co sl n fn q timeout) s
        = .next (countTimeout t (ctxFunc s (slotCtx s (slotKey sp co sl))) timeout))
    ∧ (entryDue s fn q = true → ∃ t, exec (.hostReadError 1 sp co sl n fn q timeout) s = .next t
      ∧ getF t fFnSqStateState (pgFn fn) q = 2 ∧ getF t fFnSqStateCode (pgFn fn) q = 0x31
      ∧ t.ho.cq = s.ho.cq ++ [⟨fn, q, 0, 0, getF s fFnSqHeadHead (pgFn fn) q, 0x31 + 2 * 2 ^ 60 + 2 ^ 56 * q, 0, 0⟩]
      ∧ SameBut [.regs, .ho] s t)
    ∧ (∃ t, exec (.hostReadError 2 sp co sl n fn q timeout) s = .next t
      ∧ (s.er.elog.length < 256 → ∃ e, t.er.elog = elogOrder s.tick (s.er.elog ++ [e]) ∧ e.cls = 0x0B ∧ e.index = fn.val ∧ e.code = 0x31)
      ∧ getF t fHifCplTimeoutsCount (pgHif (fn.val / 64))
          = (getF s fHifCplTimeoutsCount (pgHif (fn.val / 64)) + (if timeout then 1 else 0)) % 2 ^ 48
      ∧ SameBut [.regs, .er] s t))
  ∧ (∀ (sp : Fin 8) (cls : Fin 4) (idx bank addr : Nat) (b : Bucket) (s : State), running s = true →
    look s.er.buckets (sp.val, cls.val, idx) ⟨0, 0, s.tick⟩ = b →
    (bucketKnown s sp cls idx = true →
      (b.level + 1 < getF s fSerrBktCfgDepth (pgSerr sp) cls → exec (.correctableEvent sp cls idx bank addr false) s
        = .next { s with er := { s.er with
            buckets := put s.er.buckets (sp.val, cls.val, idx) { b with level := b.level + 1 } } })
      ∧ (getF s fSerrBktCfgDepth (pgSerr sp) cls ≤ b.level + 1 →
        ∃ t, exec (.correctableEvent sp cls idx bank addr false) s = .next t
          ∧ look t.er.buckets (sp.val, cls.val, idx) ⟨0, 0, 0⟩
            = { b with level := 0, overflows := min (b.overflows + 1) (2 ^ 32 - 1) }
          ∧ bitAt (blkIrqPend t (pgSerr sp)) 1 = true ∧ (s.er.elog.length < 256 →
            ∃ e, t.er.elog = elogOrder s.tick (s.er.elog ++ [e]) ∧ e.cls = 0x03 ∧ e.span = sp.val ∧ e.index = idx)
          ∧ SameBut [.regs, .er] s t))
    ∧ (has s.er.buckets (sp.val, cls.val, idx) = true → b.leakAt + leakTicks s sp cls ≤ s.tick →
      exec (.bucketLeak sp cls idx) s = .next { s with er := { s.er with
        buckets := put s.er.buckets (sp.val, cls.val, idx)
          { b with level := b.level - 1, leakAt := b.leakAt + leakTicks s sp cls } } }))
  ∧ (∀ (sp : Fin 8) (idx bank addr : Nat) (s : State), running s = true →
    (bucketKnown s sp 0 idx = true →
      (getPcc s (pcNo sp idx)).red.any (fun l => l.line == cellOf s false addr / 128) = true →
      s.er.elog.length < 254 → ∃ t, exec (.correctableEvent sp 0 idx bank addr true) s = .next t
        ∧ t.memo = (redUpd s (pcNo sp idx) (cellOf s false addr / 128) (fun l =>
            { l with dirty := l.dirty ||| 2 ^ (cellOf s false addr % 128 / 32),
                     poison := l.poison ||| 2 ^ (cellOf s false addr % 128 / 32) })).memo
        ∧ (∃ e ∈ t.er.elog, e.cls = 4 ∧ e.span = sp.val ∧ e.unit = 0x50 ∧ e.index = idx ∧ e.addr = addr)
        ∧ SameBut [.memo, .regs, .er] s t)
    ∧ (bucketKnown s sp 1 idx = true → bitAt bank 0 = false → ∀ l, tcFind s sp (bitAt bank 1) (addr / 128) = some l →
      (l.dirty = 0 → exec (.correctableEvent sp 1 idx bank addr true) s
        = .next (bucketEvent (tcDrop s sp (bitAt bank 1) (addr / 128)) sp 1 idx 0 addr))
      ∧ (l.dirty ≠ 0 → s.er.elog.length < 254 →
        (∀ e ∈ s.er.elog, e.cls = 4 → e.span = sp.val → e.unit = 0x30 → e.index = idx → e.handled = true) →
        ∃ t, exec (.correctableEvent sp 1 idx bank addr true) s = .next t
          ∧ t.memo = (tcPut s { l with dirty := l.dirty ||| byteMask (32 * (addr % 128 / 32)) 32,
                                       poison := l.poison ||| 2 ^ (addr % 128 / 32) }).memo
          ∧ (∃ e ∈ t.er.elog, e.cls = 4 ∧ e.span = sp.val ∧ e.unit = 0x30 ∧ e.index = idx ∧ e.addr = addr)
          ∧ SameBut [.memo, .regs, .er] s t))
    ∧ (bucketKnown s sp 1 idx = true → bitAt bank 0 = true →
      ∃ t, exec (.correctableEvent sp 1 idx bank addr true) s = .next t ∧ spanDown t sp = true)
    ∧ (bucketKnown s sp 2 idx = true → s.er.elog.length < 254 →
      (∀ e ∈ s.er.elog, e.cls = 4 → e.span = sp.val → e.unit = 0x42 → e.index = idx → e.handled = true) →
      ∃ t, exec (.correctableEvent sp 2 idx bank addr true) s = .next t
        ∧ ((lmSize * coreNo sp idx + addr % lmSize) / 8, 0) ∈ t.core.lmPoison
        ∧ (∃ e ∈ t.er.elog, e.cls = 4 ∧ e.span = sp.val ∧ e.unit = 0x42 ∧ e.index = idx ∧ e.addr = addr)
        ∧ SameBut [.core, .regs, .er] s t)
    ∧ (bucketKnown s sp 3 idx = true → bitAt bank 0 = true → ∀ x, (getSched s sp).active[addr]? = some x →
      ∃ t, exec (.correctableEvent sp 3 idx bank addr true) s = .next t
        ∧ (getSched t sp).active[addr]? = some { x with stopped := true }
        ∧ (∀ k, k ≠ addr → (getSched t sp).active[k]? = (getSched s sp).active[k]?)
        ∧ getF t fSchedDroppedCount (pgSched sp) = (getF s fSchedDroppedCount (pgSched sp) + 1) % 2 ^ 48
        ∧ SameBut [.sch, .regs, .er] s t)
    ∧ (bucketKnown s sp 3 idx = true → bitAt bank 0 = false → (getRec s sp addr).isSome = true →
      ∃ t, exec (.correctableEvent sp 3 idx bank addr true) s = .next t ∧ getRec t sp addr = none
        ∧ getCtx t addr = none))
  ∧ (∀ (sp : Fin 8) (v m : Nat) (s : State), running s = true → accepted s (pgSerr sp) m →
    (∀ c, flipRejects s sp v = some c →
      ∃ t, exec (.flipArm sp v m) s = .next t ∧ WriteRejected s t (pgSerr sp) (rejCode c.1))
    ∧ (flipRejects s sp v = none → ∃ t, exec (.flipArm sp v m) s = .next t
      ∧ getF t fSerrFlipPc (pgSerr sp) = bits v 4 6 ∧ getF t fSerrFlipSymA (pgSerr sp) = bits v 16 6
      ∧ getF t fSerrFlipPatA (pgSerr sp) = bits v 22 8 ∧ getF t fSerrFlipSymB (pgSerr sp) = bits v 32 6
      ∧ getF t fSerrFlipPatB (pgSerr sp) = bits v 38 8 ∧ getF t fSerrFlipPath (pgSerr sp) = bits v 2 1
      ∧ getF t fSerrFlipPoison (pgSerr sp) = bits v 1 1
      ∧ getB t fSerrFlipArm (pgSerr sp) = (bitAt v 0 || getB s fSerrFlipArm (pgSerr sp))
      ∧ regsBut [(.serrFlip, pgSerr sp, 0)] s t ∧ t = { s with regs := t.regs }))
  ∧ (∀ (sp : Fin 8) (pc : Fin 64) (s : State),
    getB s fSerrScrubEnable (pgSerr sp) = false
      ∨ s.tick < (getPcc s (pcNo sp pc)).scrubTick + 2 ^ 10 * getF s fSerrScrubPeriod (pgSerr sp) →
    exec (.scrubRow sp pc) s = .next s)
  ∧ (∀ (sp : Fin 8) (pc : Fin 64) (s : State), running s = true → scrubRowReady sp pc s = true →
    ∃ t, exec (.scrubRow sp pc) s = .next t
      ∧ (getPcc t (pcNo sp pc)).scrubRow = ((getPcc s (pcNo sp pc)).scrubRow + 1) % (32 * 32768)
      ∧ getF t fSerrScrubStaleCount (pgSerr sp) = (getF s fSerrScrubStaleCount (pgSerr sp)
          + ((List.range 64).filter (fun c => colStale s (rowCell s sp pc (scrubAt s (pcNo sp pc)).1
              (scrubAt s (pcNo sp pc)).2 + 32 * c))).length) % 2 ^ 48
      ∧ SameBut [.memo, .mem, .regs, .er] s t)
  ∧ (∀ (sp : Fin 8) (c x : Fin 16) (valid : Bool) (m : Nat) (s : State), running s = true → accepted s (pgSerr sp) m →
    (valid = true → (coreAbsent s sp c = false ∨ coreAbsent s sp x = true ∨ aliasTarget s sp x c = true) →
      ∃ t, exec (.serrSubstitute sp c x valid m) s = .next t ∧ WriteRejected s t (pgSerr sp) 4)
    ∧ (valid = true → coreAbsent s sp c = true → coreAbsent s sp x = false → aliasTarget s sp x c = false →
      ∃ t, exec (.serrSubstitute sp c x valid m) s = .next t ∧ coreAliased t sp c = x.val
        ∧ regsBut [(.serrAlias, pgSerr sp, c)] s t ∧ t = { s with regs := t.regs })
    ∧ (valid = false → ∃ t, exec (.serrSubstitute sp c x valid m) s = .next t ∧ coreAliased t sp c = c.val
        ∧ regsBut [(.serrAlias, pgSerr sp, c)] s t ∧ t = { s with regs := t.regs }))
  ∧ (∀ (kind block seq m : Nat) (s : State), running s = true → accepted s pgElog m →
    (kind % 4 = 3 → ∃ t, exec (.elogRetire kind block m) s = .next t ∧ WriteRejected s t pgElog 4)
    ∧ (kind % 4 = 0 → exec (.elogRetire kind block m) s = .next { s with er := { s.er with
        asked := setIns s.er.asked (retEntry 0 0 0 0 (block % 2 ^ 24) false) } })
    ∧ (m ≠ 4 → ∃ t, exec (.elogDone seq m) s = .next t ∧ WriteRejected s t pgElog 7)
    ∧ (m = 4 → (∀ e ∈ s.er.elog, e.seq ≠ seq) → ∃ t, exec (.elogDone seq m) s = .next t ∧ WriteRejected s t pgElog 4)
    ∧ (m = 4 → (∃ e ∈ s.er.elog, e.seq = seq) → exec (.elogDone seq m) s = .next { s with er := { s.er with
        elog := s.er.elog.map (fun e => if e.seq = seq then { e with handled := true } else e) } })
    ∧ (∃ t, exec (.elogClearLost m) s = .next t ∧ getF t fElogStatusLost pgElog = 0
        ∧ getF t fElogStatusNextSeq pgElog = getF s fElogStatusNextSeq pgElog
        ∧ regsBut [(.elogStatus, pgElog, 0)] s t ∧ t = { s with regs := t.regs })
    ∧ (∃ t, exec (.elogClearFirst m) s = .next t ∧ (∀ e ∈ t.er.elog, e.first = false) ∧ t.er.firstArmed = true
        ∧ t.er.elog.length = s.er.elog.length ∧ t = { s with er := t.er }))

/-- A unit is retired on a trigger or a request, at once or after the slice that runs on it; a restored page frees the items
held for it, and one without a copy, or whose entry is not valid, ends them and its block is retired; a journaled item without staged effects commits in one step, with its record,
an interrupted commit keeps its record of what it has done and goes on from there, a staged signal landing once, and a stopped
item is replayed from its checkpoint with the others of its slots, at most three times; a receipt lasts its window. That the command names the operation
after which a commit is interrupted, and that the reserved completion record holds later ones back, are the model's choices
(log entry 62). -/
def Obligations.UnitsRetireAndItemsCommitOrReplay : Prop :=
  (∀ (kind : Fin 4) (sp : Fin 8) (unit : Fin 64) (bank : Fin 32) (block : Nat) (s : State), running s = true →
    retirementReady kind sp unit bank block s = true →
    (underSlice s kind sp unit bank = true → exec (.retirement kind sp unit bank block) s = .next { s with
        er := { s.er with asked := s.er.asked.filter (· ≠ retWanted kind sp unit bank block) },
        pkg := { s.pkg with boot := { s.pkg.boot with
          waiting := s.pkg.boot.waiting ++ [retWanted kind sp unit bank block] } } })
    ∧ (underSlice s kind sp unit bank = false → s.pkg.boot.retList.length < 1024 →
      (kind = 0 → ∃ t, exec (.retirement kind sp unit bank block) s = .next t
        ∧ t.pkg.boot.retList = s.pkg.boot.retList ++ [retEntry 0 0 0 0 block false] ∧ SameBut [.regs, .er, .pkg] s t)
      ∧ (kind = 2 → ∃ t, exec (.retirement kind sp unit bank block) s = .next t ∧ pcGone t (pcNo sp unit) = true
        ∧ t.pkg.boot.retList = s.pkg.boot.retList ++ [retEntry 2 sp unit 0 0 false])
      ∧ (kind = 3 → ∃ t, exec (.retirement kind sp unit bank block) s = .next t ∧ coreAbsent t sp unit = true
        ∧ t.pkg.boot.retList = s.pkg.boot.retList ++ [retEntry 3 sp unit 0 0 false])
      ∧ (kind = 1 → freeSpare s sp unit = none →
        ∃ t, exec (.retirement kind sp unit bank block) s = .next t ∧ pcGone t (pcNo sp unit) = true
          ∧ t.pkg.boot.retList = s.pkg.boot.retList ++ [retEntry 2 sp unit 0 0 false])
      ∧ (∀ k, kind = 1 → freeSpare s sp unit = some k →
        ∃ t, exec (.retirement kind sp unit bank block) s = .next t
          ∧ getF t fPccSpareState (pgPcc sp unit) = 1 ∧ getF t fPccSpareSpare (pgPcc sp unit) = k
          ∧ getF t fPccSpareLbank (pgPcc sp unit) = bank
          ∧ t.pkg.boot.retList = s.pkg.boot.retList ++ [retEntry 1 sp unit bank 0 false])))
  ∧ (∀ (page : Nat) (ok : Bool) (e : List Nat) (r : Option (List Byte)) (u : State) (s : State), running s = true →
    mirrorRestoreReady page s = true → mirrorFor s (4096 * page) = some e →
    copyBytes (pznAll true s (leafMaps s (cellOf s false (4096 * page)))) e (4096 * page) ok = (r, u) →
      ∃ t, exec (.mirrorRestore page ok) s = .next t
      ∧ (∀ it ∈ t.ho.items, it.held = page + 2 → r = none ∧ it.commit.isSome = true ∧ it.code = 0x36)
      ∧ (r.isSome = true → t.pkg.boot.retList = s.pkg.boot.retList)
      ∧ (r = none → s.pkg.boot.retList.length < 1024 → blockEntry (4096 * page) ∉ s.pkg.boot.retList → t.pkg.boot.retList
          = s.pkg.boot.retList ++ [retEntry 0 0 0 0 (4096 * page / 65536) false]))
  ∧ (∀ (page : Nat) (ok : Bool) (s : State), running s = true → mirrorRestoreReady page s = true →
    mirrorFor s (4096 * page) = none →
      ∃ t, exec (.mirrorRestore page ok) s = .next t
      ∧ (∀ it ∈ t.ho.items, it.held = page + 2 → it.commit.isSome = true ∧ it.code = 0x36)
      ∧ (s.pkg.boot.retList.length < 1024 → t.pkg.boot.retList
          = s.pkg.boot.retList ++ [retEntry 0 0 0 0 (4096 * page / 65536) false]))
  ∧ (∀ (id : Nat) (it : Item) (s : State), running s = true → getItem s id = some it →
    (itemCommitReady id s = true → it.commit = none → id ≠ 0 → (∀ x ∈ s.ho.cq, x.item ≠ id) →
      (exec (.itemCommit id (some 0)) s = .next s)
      ∧ (∃ t, exec (.itemCommit id (some 1)) s = .next t
        ∧ getItem t id = some { it with commit := some ⟨itemCtls s id, [], [], [], it.signals, itemRings s it, false⟩ }
        ∧ t.ho.cq = s.ho.cq ++ (doneRec it 0).toList.map (fun r => { r with item := id })
        ∧ (getB s fJrnlCtrlEnable pgJrnl = false → SameBut [.ho] s t)
        ∧ SameBut [.ho, .memo, .mem, .er, .regs, .free] s t)
      ∧ (itemCtls s id = [] → it.signals = [] → itemRings s it = [] →
        ∃ t, exec (.itemCommit id none) s = .next t ∧ getItem t id = none
          ∧ id ∉ t.er.openItems ∧ t.ho.cq = s.ho.cq ++ (doneRec it 0).toList
          ∧ getF t fJrnlCommittedCount pgJrnl = (getF s fJrnlCommittedCount pgJrnl + 1) % 2 ^ 48))
    ∧ (∀ c, itemCommitReady id s = true → it.commit = some c → c.log = [] → c.kept = [] → c.todo = [] → c.ctls = [] →
      (∀ g rest, c.signals = g :: rest → exec (.itemCommit id (some 1)) s
        = .next (putCommit (landSignal (putCommit s it c) { g with item := 0, launch := 0 })
            { it with commit := some c } { c with signals := rest }))
      ∧ (c.signals = [] → c.rings = [] → c.stored = false → exec (.itemCommit id (some 1)) s
        = .next (commitRecord (putCommit s it c) { it with commit := some c } c))
      ∧ (c.signals = [] → c.rings = [] → c.stored = true → ∃ t, exec (.itemCommit id none) s = .next t
        ∧ getItem t id = none ∧ id ∉ t.er.openItems ∧ t.ho.cq = s.ho.cq))
    ∧ (itemReplayReady id s = true → 3 ≤ it.fails → ∃ t, exec (.itemReplay id) s = .next t ∧ getItem t id = none
      ∧ ((∀ key, nothingIssued s key) → replayGroup s id = [it] → getF t fJrnlFailedCount pgJrnl = (getF s fJrnlFailedCount pgJrnl + 1) % 2 ^ 48
        ∧ t.memo.mem = s.memo.mem))
    ∧ (itemReplayReady id s = true → it.fails < 3 → (∀ x ∈ s.ho.items, x.id = id → x = it) → (∀ d ∈ it.launches, coreAbsent s d.span d.core = false) →
      ∃ t x, exec (.itemReplay id) s = .next t ∧ getItem t id = some x ∧ x.fails = it.fails + 1 ∧ x.replay = false
        ∧ x.launches.length = it.launches.length ∧ x.left = it.launches.length
        ∧ x.launches.map (fun d => (d.span, d.core, d.ctx, d.launch.kernel, d.launch.seedVal, d.launch.seedMask))
          = it.launches.map (fun d => (d.span, d.core, d.ctx, d.launch.kernel, d.launch.seedVal, d.launch.seedMask))
        ∧ ((∀ key, nothingIssued s key) → replayGroup s id = [it] →
          getF t fJrnlReplayedCount pgJrnl = (getF s fJrnlReplayedCount pgJrnl + 1) % 2 ^ 48
          ∧ t.memo.mem = s.memo.mem)))
  ∧ (∀ s : State, running s = true → ∃ t, exec .receiptExpiry s = .next t
    ∧ t.ho.receipts = s.ho.receipts.filter (fun r => decide (s.tick < r.at_ + 2 ^ 20 * getF s fJrnlRcptWindow pgJrnl))
    ∧ regsBut [(.jrnlRcptFull, pgJrnl, 0)] s t ∧ SameBut [.regs, .ho] s t)

/-! ### Near-bank sequences (07) -/

/-- A waiting sequence that starts finds every lane unit zero; a saved one reads them back; a suspended one goes to a save
slot and its switch is counted. A broadcast reads its operands, fills a half of every lane unit, queues its requests over the
bonds, which name no bank, and keeps the count of its invalid scales for the stitch that needs it; poison among its operands and an illegal tensor scale stop the
command. A stitch pauses for refresh or joins the running ones and leaves its bank precharged; it waits while its bank's row
is closed for it or rows that it burnishes first are in use; without one the next group of
indices is read, and poison among them stops the command. Its end counts it, an ended sequence leaves its record and the last
one executes its command; the die's events are read one by one; BURNISH_ALL adds one system sequence, never two, and waits
while no record is free. The span of the invalid scales is the model's choice (log entry 75), and so are the operands that
say which staging word failed its parity (log entry 80) and when a refresh is due (log entry 48); that an open bank is closed
in a step of its own is a choice too (log entry 97). -/
def Obligations.SequencesShareTheChain : Prop :=
  (∀ (sp : Fin 8) (pc : Fin 64) (q : NbSeq) (s : State), running s = true → sequenceStartReady sp pc s = true →
    seqNext (getPcc s (pcNo sp pc)) = some q →
    (q.st = .waiting → ∃ t, exec (.sequenceStart sp pc) s = .next t
      ∧ (∀ b, getBlu t (pcNo sp pc) b = zeroBlu)
      ∧ getPcc t (pcNo sp pc) = { getPcc s (pcNo sp pc) with
          seqs := (getPcc s (pcNo sp pc)).seqs.map
            (fun x => if x.id = q.id then { q with st := .running, since := s.tick } else x) }
      ∧ (∀ k, k ≠ pcNo sp pc → getPcc t k = getPcc s k) ∧ SameBut [.memo] s t)
    ∧ (∀ k u, q.st = .saved k →
      restoreBlus (putSeq s (pcNo sp pc) { q with st := .running, since := s.tick }) (pcNo sp pc) k = (u, none) →
      exec (.sequenceStart sp pc) s = .next u))
  ∧ (∀ (sp : Fin 8) (pc : Fin 64) (r w : NbSeq) (k : Nat) (s : State), running s = true →
    sequenceSuspendReady sp pc s = true → faultedSeq (getPcc s (pcNo sp pc)) = none → chainSeq (getPcc s (pcNo sp pc)) = some r →
    seqNext (getPcc s (pcNo sp pc)) = some w → freeSlot s (pcNo sp pc) 7 = some k → r.id ≠ w.id → w.st = .waiting →
    ∃ t, exec (.sequenceSuspend sp pc) s = .next t
      ∧ (getPcc t (pcNo sp pc)).seqs = (getPcc s (pcNo sp pc)).seqs.map (fun x =>
          if x.id = w.id then { w with st := .running, since := s.tick }
          else if x.id = r.id then { r with st := .saved k } else x)
      ∧ (∀ b, getBlu t (pcNo sp pc) b = zeroBlu)
      ∧ getF t fPccNbSwitchesCount (pgPcc sp pc) = (getF s fPccNbSwitchesCount (pgPcc sp pc) + 1) % 2 ^ 48
      ∧ SameBut [.memo, .mem, .regs, .er] s t)
  ∧ (∀ (sp : Fin 8) (pc : Fin 64) (q r : NbSeq) (u s : State) (data : List Byte), running s = true →
    broadcastReady sp pc s = true →
    runSeq s (pcNo sp pc) = some q →
    opsRead s q ((castPieces q q.halves).1 ++ castScale q q.halves) = (r, u) →
    ((castPieces q q.halves).1.flatMap (fun p => opBytes r p.1 p.2)).take 2048 = data →
    (((castPieces q q.halves).1 ++ castScale q q.halves).any (fun p => opBad r p.1 p.2) = false →
      ((castScale q q.halves).all (fun p => tscaleOk (leNat (opBytes r p.1 p.2))) = true →
        ∃ t, exec (.broadcast sp pc) s = .next t
          ∧ (∀ b, b < 32 → getBlu t (pcNo sp pc) b
              = stPut (getBlu s (pcNo sp pc) b) (2048 * (castPieces q q.halves).2) data)
          ∧ (getPcc t (pcNo sp pc)).seqs = (getPcc s (pcNo sp pc)).seqs.map (fun x =>
              if x.id = q.id then { r with
                halves := q.halves + 1, counted := max r.counted (q.halves + 1)
                castEv := if castInvalid r q.halves = 0 then r.castEv else r.castEv ++ [(q.halves, castInvalid r q.halves)] }
              else x)
          ∧ (ctlLive s (pcNo sp pc) = true →
              (getPcc t (pcNo sp pc)).reqs.length = (getPcc s (pcNo sp pc)).reqs.length + ceilDiv data.length 128
              ∧ ∀ x ∈ (getPcc t (pcNo sp pc)).reqs.drop (getPcc s (pcNo sp pc)).reqs.length,
                x.isWrite = true ∧ x.bank = 32 ∧ x.part = q.part ∧ x.cols ≤ 4)
          ∧ SameBut [.memo, .regs, .free] s t)
      ∧ ((castScale q q.halves).all (fun p => tscaleOk (leNat (opBytes r p.1 p.2))) = false →
        exec (.broadcast sp pc) s = .next (nbFail (putSeq u (pcNo sp pc) r) r eFmtScale 0)))
    ∧ (((castPieces q q.halves).1 ++ castScale q q.halves).any (fun p => opBad r p.1 p.2) = true →
      ∃ t, exec (.broadcast sp pc) s = .next t
      ∧ (∀ n, ∀ x ∈ (getPcc t n).seqs, sameCmd x q = true → x.stop = true)
      ∧ (∀ sl, cmdHeld s q = true → residentSlot s q.span q.core q.ctx = some sl →
          (getQ t (slotKey q.span q.core sl) 4).st = .haltErr)))
  ∧ (∀ (sp : Fin 8) (pc : Fin 64) (bad : Bool) (q : NbSeq) (s : State), running s = true →
    stitchStartReady sp pc s = true → runSeq s (pcNo sp pc) = some q →
    (refreshLets s (pcNo sp pc) = false → ∃ t, exec (.stitchStart sp pc bad) s = .next t
      ∧ getB t fPccStatePaused (pgPcc sp pc) = true ∧ regsBut [(.pccState, pgPcc sp pc, 0)] s t ∧ SameBut [.regs] s t)
    ∧ (∀ pl, refreshLets s (pcNo sp pc) = true → needEntries q = [] → (nbCut q)[q.next]? = some pl →
      has (getPcc s (pcNo sp pc)).openRows pl.bank = true →
      exec (.stitchStart sp pc bad) s = .next (bankClose (putSeq s (pcNo sp pc) q) (pcNo sp pc) pl.bank))
    ∧ (∀ pl rows used u, refreshLets s (pcNo sp pc) = true → needEntries q = [] → (nbCut q)[q.next]? = some pl →
      has (getPcc s (pcNo sp pc)).openRows pl.bank = false →
      stitchRows (pcNo sp pc) q pl.bank pl.rows s [] [] = (.ok rows used, u) → badPlace q pl rows = false →
      (burnHeld u (pcNo sp pc) q pl rows = true → exec (.stitchStart sp pc bad) s = .next (putSeq u (pcNo sp pc) q))
      ∧ (burnHeld u (pcNo sp pc) q pl rows = false → stitchIdle (rows.foldl (fun acc r => rowPrep acc (pcNo sp pc) pl.bank r) u) (pcNo sp pc) pl rows = true →
        exec (.stitchStart sp pc bad) s = .next (putSeq (rows.foldl (fun acc r => rowPrep acc (pcNo sp pc) pl.bank r) u)
          (pcNo sp pc) { q with next := q.next + 1 }))
      ∧ (burnHeld u (pcNo sp pc) q pl rows = false →
        stitchIdle (rows.foldl (fun acc r => rowPrep acc (pcNo sp pc) pl.bank r) u) (pcNo sp pc) pl rows = false →
        ∃ t, exec (.stitchStart sp pc bad) s = .next t
          ∧ (∃ x ∈ (getPcc t (pcNo sp pc)).seqs, x.id = q.id ∧ x.next = q.next + 1
              ∧ ∃ y ∈ x.running, y.num = q.next ∧ y.bank = pl.bank ∧ y.kind = pl.kind ∧ y.used = used ∧ y.start = u.tick)
          ∧ has (getPcc t (pcNo sp pc)).openRows pl.bank = false ∧ getB t fPccStatePaused (pgPcc sp pc) = false
          ∧ t.core.lmem = s.core.lmem ∧ t.srv = s.srv ∧ t.sch = s.sch ∧ t.pkg = s.pkg))
    ∧ (∀ r u, refreshLets s (pcNo sp pc) = true → needEntries q = [] → (nbCut q)[q.next]? = none → groupsLeft q = true →
      opsRead s q [(64 * q.groups * (if tbIdx64 q.prm then 8 else 4),
        (min 64 (tbNidx q.prm - 64 * q.groups)) * (if tbIdx64 q.prm then 8 else 4))] = (r, u) →
      (opBad r (64 * q.groups * (if tbIdx64 q.prm then 8 else 4))
          ((min 64 (tbNidx q.prm - 64 * q.groups)) * (if tbIdx64 q.prm then 8 else 4)) = false →
        exec (.stitchStart sp pc bad) s = .next (putSeq u (pcNo sp pc) { r with groups := q.groups + 1 }))
      ∧ (opBad r (64 * q.groups * (if tbIdx64 q.prm then 8 else 4))
          ((min 64 (tbNidx q.prm - 64 * q.groups)) * (if tbIdx64 q.prm then 8 else 4)) = true →
        exec (.stitchStart sp pc bad) s
          = .next (nbFail (putSeq u (pcNo sp pc) { r with groups := q.groups + 1 }) r eNbPoison
            (opBadAt r [(64 * q.groups * (if tbIdx64 q.prm then 8 else 4),
              (min 64 (tbNidx q.prm - 64 * q.groups)) * (if tbIdx64 q.prm then 8 else 4))])))))
  ∧ (∀ (sp : Fin 8) (pc : Fin 64) (k : Nat) (q : NbSeq) (y : Stitch) (s : State), running s = true →
    nthRunning (getPcc s (pcNo sp pc)) k = some (q, y) → q.st = .running →
    ∃ t, exec (.stitchEnd sp pc k) s = .next t
      ∧ (getPcc t (pcNo sp pc)).seqs = (getPcc s (pcNo sp pc)).seqs.map
          (fun x => if x.id = q.id then { q with running := q.running.filter (fun z => z.num ≠ y.num) } else x)
      ∧ getF t fPccNbStitchesCount (pgPcc sp pc) = (getF s fPccNbStitchesCount (pgPcc sp pc) + 1) % 2 ^ 48
      ∧ getF t fPccNbSlotCyclesCount (pgPcc sp pc) = (getF s fPccNbSlotCyclesCount (pgPcc sp pc) + y.cycles) % 2 ^ 48
      ∧ getF t fBluStitchesCount (bluPage s (pcNo sp pc) y.bank)
          = (getF s fBluStitchesCount (bluPage s (pcNo sp pc) y.bank) + 1) % 2 ^ 48
      ∧ getF t fBluColopsCount (bluPage s (pcNo sp pc) y.bank)
          = (getF s fBluColopsCount (bluPage s (pcNo sp pc) y.bank) + y.cols) % 2 ^ 48
      ∧ (q.sys = true → t.cx = s.cx) ∧ SameBut [.memo, .cx, .regs] s t)
  ∧ (∀ (sp : Fin 8) (pc : Fin 64) (q : NbSeq) (s : State), running s = true →
    endingSeq s (pcNo sp pc) = some q → ∃ t, exec (.sequenceEnd sp pc) s = .next t
      ∧ ((getPcc s (pcNo sp pc)).burnWait = false ∨ q.sys = true → ∀ x ∈ (getPcc t (pcNo sp pc)).seqs, x.id ≠ q.id)
      ∧ (q.sys = false → (getPcc s (pcNo sp pc)).burnWait = true → (getPcc s (pcNo sp pc)).seqs.length ≤ 32 →
          (getPcc t (pcNo sp pc)).burnWait = false
          ∧ ∃ x ∈ (getPcc t (pcNo sp pc)).seqs, x.sys = true ∧ x.id = s.memo.nextSeq)
      ∧ (q.sys = true → getB t fPccUnsealBurnishBusy (pgPcc sp pc) = false ∧ SameBut [.memo, .regs] s t)
      ∧ (q.sys = false → anySeq t (sameCmd q) = true → SameBut [.memo, .regs, .core, .cx] s t)
      ∧ (∀ sl, q.sys = false → q.stop = false → anySeq t (sameCmd q) = false →
          residentSlot s q.span q.core q.ctx = some sl →
          (∀ c ∈ (getQ t (slotKey q.span q.core sl) 4).cmds,
            cmdIs q c = true → c.phase ≠ .sent)
          ∧ (∀ k, k ≠ slotKey q.span q.core sl → getSlot t k = getSlot s k) ∧ SameBut [.memo, .core, .regs] s t))
  ∧ (∀ (sp : Fin 8) (pc : Fin 64) (s : State), running s = true → nbsPoisonPulseReady sp pc s = true →
    exec (.nbsPoisonPulse sp pc) s = .next (putPcc s (pcNo sp pc)
      { getPcc s (pcNo sp pc) with events := (getPcc s (pcNo sp pc)).events.drop 1 }))
  ∧ (∀ (sp : Fin 8) (pc : Fin 64) (m : Nat) (s : State), running s = true → ctlLive s (pcNo sp pc) = true →
    accepted s (pgPcc sp pc) m →
    (getB s fPccUnsealBurnishBusy (pgPcc sp pc) = true →
      ∃ t, exec (.burnishAll sp pc m) s = .next t ∧ WriteRejected s t (pgPcc sp pc) 6)
    ∧ (getB s fPccUnsealBurnishBusy (pgPcc sp pc) = false → 32 ≤ (getPcc s (pcNo sp pc)).seqs.length →
      ∃ t, exec (.burnishAll sp pc m) s = .next t ∧ getB t fPccUnsealBurnishBusy (pgPcc sp pc) = true
        ∧ getPcc t (pcNo sp pc) = { getPcc s (pcNo sp pc) with burnWait := true }
        ∧ regsBut [(.pccUnseal, pgPcc sp pc, 0)] s t ∧ SameBut [.memo, .regs] s t)
    ∧ (getB s fPccUnsealBurnishBusy (pgPcc sp pc) = false → (getPcc s (pcNo sp pc)).seqs.length < 32 →
      ∃ t, exec (.burnishAll sp pc m) s = .next t
      ∧ getB t fPccUnsealBurnishBusy (pgPcc sp pc) = true
      ∧ getPcc t (pcNo sp pc) = { getPcc s (pcNo sp pc) with seqs := (getPcc s (pcNo sp pc)).seqs
          ++ [sysSeq s.memo.nextSeq sp ((getPcc s (pcNo sp pc)).unsealed.map (fun e => 32768 * e.1 + e.2.1))], burnWait := false }
      ∧ regsBut [(.pccUnseal, pgPcc sp pc, 0)] s t ∧ SameBut [.memo, .regs] s t))

/-- An NB command whose record is refused halts its queue; one that meets a hazard or a full controller waits; a replayed one
that was issued before is not sent again; otherwise each target receives a sequence, the tile cache lets go of the lines of
the output, and the hazard is recorded. A fence retires when it is oldest; a complete unit is drained or reduced, unless its
area can no longer be translated, and a chain word that fails its parity is counted, and consumed as poison once it fails
again; and a sequence of an opcode runs on its
controller from where it stands, touching neither local memory nor the host's. That the two chain commands name the words that
fail, and the lane unit that counts them, are the model's choices (log entry 80). -/
def Obligations.NearBankCommandsIssueAndRun : Prop :=
  (∀ (sp : Fin 8) (co : Fin 16) (sl : Fin 4) (c : QCmd) (s : State), running s = true →
    nbHead s (slotKey sp co sl) = some c →
    (∀ k va, nbRecord s (slotKey sp co sl) (cmdWords c) = .code k va →
      ∃ t, exec (.nbIssue sp co sl) s = .next t ∧ QueueHalted s t (slotKey sp co sl) 4 k c.launch c.pc)
    ∧ (∀ prm, nbRecord s (slotKey sp co sl) (cmdWords c) = .ok prm →
      ((nbSets (cmdWords c)).all (nbVtsOk s (slotKey sp co sl) (cmdWords c) prm) = false →
        ∃ t, exec (.nbIssue sp co sl) s = .next t ∧ QueueHalted s t (slotKey sp co sl) 4 0x02 c.launch c.pc)
      ∧ ((nbSets (cmdWords c)).all (nbVtsOk s (slotKey sp co sl) (cmdWords c) prm) = true →
        (nbMarked s (slotKey sp co sl) c = true → ∃ t ph, exec (.nbIssue sp co sl) s = .next t
          ∧ (ph = .sent ∨ ph = .executed) ∧ SlotTakes s t (slotKey sp co sl)
            (partSetQueue (getSlot s (slotKey sp co sl)).part 4 (qSetCmd (getQ s (slotKey sp co sl) 4)
              { c with phase := ph, nominal := nbNominal (cmdWords c) prm })))
        ∧ (nbMarked s (slotKey sp co sl) c = false →
          ((nbHazard s (4096 * coreNo sp co + slotCtx s (slotKey sp co sl)) (cmdWords c) prm = true
            ∨ ∃ n ∈ nbTargets (cmdWords c), 32 ≤ (getPcc s n).seqs.length) → exec (.nbIssue sp co sl) s = .next s)
          ∧ (∀ o, nbHazard s (4096 * coreNo sp co + slotCtx s (slotKey sp co sl)) (cmdWords c) prm = false →
            (∀ n ∈ nbTargets (cmdWords c), (getPcc s n).seqs.length < 32) →
            nbOutTr s sp co (slotCtx s (slotKey sp co sl)) (cmdWords c) prm = o → o.stop = none →
            ∃ t, exec (.nbIssue sp co sl) s = .next t
              ∧ (∃ x ∈ (getQ t (slotKey sp co sl) 4).cmds, x.pc = c.pc ∧ x.phase = .sent)
              ∧ (∀ n ∈ nbTargets (cmdWords c), ∃ q ∈ (getPcc t n).seqs, q.st = .waiting ∧ q.sys = false
                  ∧ q.span = sp.val ∧ q.core = co.val ∧ q.launch = c.launch ∧ q.cmdPc = c.pc ∧ q.prm = prm)
              ∧ (∀ n, n ∉ nbTargets (cmdWords c) → (getPcc t n).seqs = (getPcc s n).seqs)
              ∧ t.memo.tc = o.s.memo.tc.filter (fun l => !devsHold o.devs l.intlv l.line)
              ∧ ⟨c.launch, c.pc, nbReads (cmdWords c) prm, nbWrites (cmdWords c) prm⟩
                  ∈ look t.core.hazards (4096 * coreNo sp co + slotCtx s (slotKey sp co sl)) []
              ∧ t.core.lmem = s.core.lmem ∧ t.core.signals = s.core.signals
              ∧ SameBut [.core, .regs, .memo, .mem, .cx, .er, .ho, .free] s t)))))
  ∧ (∀ (sp : Fin 8) (co : Fin 16) (sl : Fin 4) (c : QCmd) (s : State), running s = true →
    fenceHead s (slotKey sp co sl) = some c → ∃ t, exec (.nbFence sp co sl) s = .next t
      ∧ SlotTakes s t (slotKey sp co sl) (partDone (getSlot s (slotKey sp co sl)).part 4 c))
  ∧ (∀ (sp : Fin 8) (pc : Fin 64) (q : NbSeq) (u : Nat) (s : State), running s = true →
    runSeq s (pcNo sp pc) = some q → q.sys = false → unitNext q = some u →
    (wOp (seqW q) ≠ 0xA6 →
      (∀ resent lost, exec (.chainReduce sp pc resent lost) s = .next s)
      ∧ ((outAgain s q).stop = none ∨ q.stop = true → ∀ resent lost, ∃ t, exec (.chainDrain sp pc resent lost) s = .next t
        ∧ (∃ x ∈ (getPcc t (pcNo sp pc)).seqs, x.id = q.id ∧ x.units = u + 1)
        ∧ (q.item = 0 → (∀ i ∈ lost, chainWords q ≤ i) →
            t.core = s.core ∧ SameBut [.memo, .mem, .cx, .regs, .er, .free] s t))
      ∧ ((outAgain s q).stop = none → ∀ k, k < chainWords q →
        (∃ t, exec (.chainDrain sp pc [k] []) s = .next t
          ∧ getF t fBluEccChainRetry (bluPage s (pcNo sp pc) (chainWord q u k).1)
            = min (getF s fBluEccChainRetry (bluPage s (pcNo sp pc) (chainWord q u k).1) + 1) (2 ^ 16 - 1))
        ∧ (∃ t, exec (.chainDrain sp pc [] [k]) s = .next t
          ∧ (q.item = 0 → (∀ x ∈ (getPcc t (pcNo sp pc)).seqs, sameCmd x q = true → x.stop = true)
            ∧ getF t fBluEccUncorr (bluPage s (pcNo sp pc) (chainWord q u k).1)
              = min (getF s fBluEccUncorr (bluPage s (pcNo sp pc) (chainWord q u k).1) + 1) (2 ^ 16 - 1))
          ∧ getF t fBluEccChainRetry (bluPage s (pcNo sp pc) (chainWord q u k).1)
            = min (getF s fBluEccChainRetry (bluPage s (pcNo sp pc) (chainWord q u k).1) + 1) (2 ^ 16 - 1)))
      ∧ (∀ c va, (outAgain s q).stop = some (.code c va) → q.stop = false → ∀ resent lost,
        exec (.chainDrain sp pc resent lost) s = .next (nbFail (outAgain s q).s q c va)))
    ∧ (wOp (seqW q) = 0xA6 →
      (∀ resent lost, exec (.chainDrain sp pc resent lost) s = .next s)
      ∧ ((outAgain s q).stop = none ∨ q.stop = true → ∀ resent lost, ∃ t, exec (.chainReduce sp pc resent lost) s = .next t
        ∧ (∃ x ∈ (getPcc t (pcNo sp pc)).seqs, x.id = q.id ∧ x.units = u + 1)
        ∧ (q.item = 0 → (∀ i ∈ lost, chainWords q ≤ i) →
            t.core = s.core ∧ SameBut [.memo, .mem, .cx, .regs, .er, .free] s t))
      ∧ ((outAgain s q).stop = none → ∀ k, k < chainWords q →
        (∃ t, exec (.chainReduce sp pc [k] []) s = .next t
          ∧ getF t fBluEccChainRetry (bluPage s (pcNo sp pc) (chainWord q u k).1)
            = min (getF s fBluEccChainRetry (bluPage s (pcNo sp pc) (chainWord q u k).1) + 1) (2 ^ 16 - 1))
        ∧ (∃ t, exec (.chainReduce sp pc [] [k]) s = .next t
          ∧ (q.item = 0 → (∀ x ∈ (getPcc t (pcNo sp pc)).seqs, sameCmd x q = true → x.stop = true)
            ∧ getF t fBluEccUncorr (bluPage s (pcNo sp pc) (chainWord q u k).1)
              = min (getF s fBluEccUncorr (bluPage s (pcNo sp pc) (chainWord q u k).1) + 1) (2 ^ 16 - 1))
          ∧ getF t fBluEccChainRetry (bluPage s (pcNo sp pc) (chainWord q u k).1)
            = min (getF s fBluEccChainRetry (bluPage s (pcNo sp pc) (chainWord q u k).1) + 1) (2 ^ 16 - 1)))
      ∧ (∀ c va, (outAgain s q).stop = some (.code c va) → q.stop = false → ∀ resent lost,
        exec (.chainReduce sp pc resent lost) s = .next (nbFail (outAgain s q).s q c va))))
  ∧ (∀ (sp : Fin 8) (pc : Fin 64) (i : Instr) (op : Nat) (s : State), running s = true →
    (i, op) ∈ [(.nbGemv sp pc, 0xA1), (.nbGather sp pc, 0xA2), (.nbGred sp pc, 0xA3), (.nbAxpy sp pc, 0xA4),
      (.nbNorm sp pc, 0xA5), (.nbAttn sp pc, 0xA6), (.nbAdam sp pc, 0xA7), (.nbRowop sp pc, 0xA8),
      (.nbBurnish sp pc, 0xA9)] →
    (seqOfOp sp pc op s = none → exec i s = .next s)
    ∧ (∀ q, seqOfOp sp pc op s = some q → ∃ t, exec i s = .next t
      ∧ (q.st = .running → t = seqRun sp pc q.id (seqFuel sp pc s q) s)
      ∧ (q.st ≠ .running → seqMay s (pcNo sp pc) q = true → t = seqRun sp pc q.id (seqFuel sp pc s q) (seqGo s (pcNo sp pc) q))
      ∧ t.core.lmem = s.core.lmem ∧ t.memo.host = s.memo.host ∧ t.srv = s.srv ∧ t.sch = s.sch ∧ t.pkg = s.pkg))

/-! ### Serving (12) -/

/-- A preparation of a group ends with WORK_ERROR every request of a step whose work item failed, and gives no token of a
step that has not run whole. With entries to run them it writes a step for the frame to come and arms the group's entries
exactly when the step holds a request; a step holds only resident sequences in slots of the batch, a prompt step only chunks
of requests whose prompt is not done, the FINAL one the last. Of a pre-empted sequence every page that no prefix shares is
copied out of each pool by a work item, and its blocks are freed; at a frame boundary with room for its pages and one more it
is mapped again, copied in and resident, and its page list is restored. Which identifiers are free, where the free blocks lie,
the geometry of a model's pages and what a frame boundary is to Fenivar are the model's choices (log entries 13 and 107). -/
def Obligations.ServingPreparesStepsAndSwapsPages : Prop :=
  (∀ (g : Nat) (x : Group) (gen : Bool) (s : State), running s = true → prepareReady g gen s = true →
    getGroup s g = some x →
    ∃ t y, exec (if gen then .stepPrepare g else .fillPrepare g) s = .next t ∧ getGroup t g = some y
      ∧ y.model = x.model ∧ y.batch = x.batch ∧ y.area = x.area
      ∧ (groupEntries s g gen = [] → y.step = [])
      ∧ (groupEntries s g gen ≠ [] → y.armedFor = targetFrame s (groupEntries s g gen))
      ∧ y.wait = (if y.step.isEmpty then [] else groupEntries s g gen) ∧ y.fired = [] ∧ y.err = false ∧ y.notRun = false
      ∧ (∀ e ∈ groupEntries s g gen, entryArmed t e.1 e.2 = !y.step.isEmpty)
      ∧ (gen = true → ∀ e ∈ y.step, e.1 < x.batch ∧ e.2.2.1 = 1
          ∧ ∃ r ∈ t.srv.reqs, r.idx = e.2.1 ∧ r.slot = some (g, e.1) ∧ r.kv = .resident)
      ∧ (gen = false → ∀ e ∈ y.step, (∃ r ∈ s.srv.reqs, r.idx = e.2.1 ∧ (r.st = .queued ∨ r.st = .prompt))
          ∧ ∃ r, getReq t e.2.1 = some r ∧ r.kv = .resident
            ∧ e.2.2.1 = min x.chunk (r.promptLen - r.fed) ∧ e.2.2.2 = (r.fed + e.2.2.1 == r.promptLen))
      ∧ (x.err = true → ∀ z ∈ x.step, getReq t z.2.1 = none)
      ∧ (x.err = true ∨ stepRan x = false → ∀ r ∈ t.srv.reqs, ∃ r₀ ∈ s.srv.reqs,
          r₀.idx = r.idx ∧ r₀.made = r.made ∧ r₀.len = r.len ∧ r₀.fed = r.fed)
      ∧ (∀ h, h ≠ g → getGroup t h = getGroup s h)
      ∧ SameBut [.ho, .memo, .mem, .regs, .er, .srv, .cx, .free] s t)
  ∧ (∀ (idx : Nat) (r : Req) (s : State), running s = true → getReq s idx = some r →
    (kvSwapOutReady idx s = true → ∃ t, exec (.kvSwapOut idx) s = .next t
      ∧ getReq t idx = some { r with copied := true, job := s.ho.nextItem } ∧ (∀ j, j ≠ idx → getReq t j = getReq s j)
      ∧ (s.ho.swap.isSome = true → ∀ page ∈ ownPages r, ∀ i, i < (Config.kvPools r.model).length →
          (blockOf s r.model i page).isSome = true →
          ∃ c ∈ t.srv.copies, c.model = r.model ∧ c.pool = i ∧ c.page = page)
      ∧ (copyBad t r = false → ∃ it ∈ t.ho.items, it.id = s.ho.nextItem ∧ it.left = 1)
      ∧ t.srv.blocks = s.srv.blocks ∧ t.ho.nextItem = s.ho.nextItem + 1
      ∧ SameBut [.srv, .memo, .mem, .regs, .er, .ho, .pkg, .free] s t)
    ∧ (kvSwapOutDoneReady idx s = true → ∃ t, exec (.kvSwapOutDone idx) s = .next t
      ∧ getReq t idx = some { r with kv := .swapped, copied := false, job := 0 } ∧ (∀ j, j ≠ idx → getReq t j = getReq s j)
      ∧ t.srv.blocks = s.srv.blocks.filter
          (fun b => pageLive (putReq s { r with kv := .swapped, copied := false, job := 0 }) b.model b.page)
      ∧ SameBut [.srv, .memo, .mem, .cx, .regs, .er, .ho] s t)
    ∧ (r.kv = .swapped → atBoundary s = true → ∃ t, exec (.kvSwapIn idx) s = .next t
      ∧ (∀ j, j ≠ idx → getReq t j = getReq s j)
      ∧ ((kvRoom s r.model (returnPages r) = false ∧ t = s)
        ∨ (kvRoom s r.model (returnPages r) = true ∧ getReq t idx = some { r with kv := .swappingIn, job := s.ho.nextItem }
          ∧ ∀ page ∈ ownPages r, ∀ i, i < (Config.kvPools r.model).length → (blockOf t r.model i page).isSome = true))
      ∧ SameBut [.srv, .memo, .mem, .cx, .regs, .er, .ho, .free] s t)
    ∧ (r.kv = .swappingIn → ∃ t, exec (.kvSwapInDone idx) s = .next t ∧ (∀ j, j ≠ idx → getReq t j = getReq s j)
      ∧ (copiesLeft ((ownPages r).foldl (swapPageIn r.model) s) r = true →
          t = (ownPages r).foldl (swapPageIn r.model) s ∧ getReq t idx = some r)
      ∧ (copiesLeft ((ownPages r).foldl (swapPageIn r.model) s) r = false →
          getReq t idx = some { r with kv := .resident, job := 0 }
          ∧ t = daWrite (putReq (jobDone ((ownPages r).foldl (swapPageIn r.model) s) r.job) { r with kv := .resident, job := 0 })
              (128 * Config.pageListAddr idx) (r.pages.flatMap (leBytes 4)) [])
      ∧ (noStaged s = true → ∀ a, (∀ k, k < 4 * r.pages.length →
            a / 128 ≠ cellOf s false (128 * Config.pageListAddr idx + k) / 128) →
          (∀ b ∈ s.srv.blocks, b.model = r.model → b.page ∈ ownPages r → ∀ da ∈ b.das, ∀ k, k < pieceBytes r.model →
            a / 128 ≠ cellOf s false (da + k) / 128) →
          cellGet t.memo.mem a = cellGet s.memo.mem a)
      ∧ SameBut [.srv, .memo, .mem, .regs, .er, .ho] s t))

/-! ### The cyclic schedule (12) -/

/-- An entry that fires in its frame launches on every core of its mask and disarms, and the step that waits for it has it
among its firings; one that can fire no more is dropped and counted, and the step does not run whole; one that is not armed
is counted, one held back is deferred, and the seventeenth deferral stops the clock; a deferred firing launches later under
its own frame. That the arm bit of a deferred firing clears at its deferral is the model's reading (log entry 79). -/
def Obligations.ScheduleEntriesFireOrAreDeferred : Prop :=
  (∀ (sp : Fin 8) (idx : Nat) (e : SEntry) (s : State), running s = true → entryFireReady sp idx s = true →
    (getSched s sp).active[idx]? = some e →
    (entryDead s sp e = true → ∃ t, exec (.entryFire sp idx) s = .next t
      ∧ getF t fSchedDroppedCount (pgSched sp) = (getF s fSchedDroppedCount (pgSched sp) + 1) % 2 ^ 48
      ∧ (getF s fFrameCtrlMode pgFrame ≠ 0 → getB t fFrameStatusCadenceLost pgFrame = true)
      ∧ (∀ g x, getGroup s g = some x → (sp.val, idx) ∈ x.wait → ∃ y, getGroup t g = some y ∧ y.notRun = true)
      ∧ idx ∈ (getSched t sp).seen ∧ t.core = s.core ∧ SameBut [.sch, .regs, .srv, .ho, .er] s t)
    ∧ (entryDead s sp e = false → e.kind ≠ 0 → entryArmed s sp idx = false → ∃ t, exec (.entryFire sp idx) s = .next t
      ∧ getF t fSchedNotArmedCount (pgSched sp) = (getF s fSchedNotArmedCount (pgSched sp) + 1) % 2 ^ 48
      ∧ idx ∈ (getSched t sp).seen
      ∧ ((∀ it ∈ s.ho.items, it.left ≠ 0) → regsBut [(.schedNotArmed, pgSched sp, 0)] s t ∧ SameBut [.sch, .regs] s t)
      ∧ SameBut [.sch, .regs, .ho, .er] s t)
    ∧ (entryDead s sp e = false → (e.kind = 0 ∨ entryArmed s sp idx = true) →
      ((entryDeferred s sp idx ≠ [] ∨ firingHeld s sp idx e = true) →
        ((entryDeferred s sp idx).length < 16 → ∃ t, exec (.entryFire sp idx) s = .next t
          ∧ entryDeferred t sp idx = entryDeferred s sp idx
              ++ [(idx, getF s fFrameWorkValue pgFrame, getF s fFrameStartValue pgFrame)]
          ∧ getF t fSchedSlipsCount (pgSched sp) = (getF s fSchedSlipsCount (pgSched sp) + 1) % 2 ^ 48
          ∧ (e.kind ≠ 0 → entryArmed t sp idx = false) ∧ SameBut [.sch, .regs, .ho, .er] s t)
        ∧ (16 ≤ (entryDeferred s sp idx).length → ∃ t, exec (.entryFire sp idx) s = .next t
          ∧ t.sch.stopReq = true ∧ t.sch.overflow = true ∧ entryDeferred t sp idx = entryDeferred s sp idx
          ∧ SameBut [.sch, .regs, .ho, .er] s t))
      ∧ (entryDeferred s sp idx = [] → firingHeld s sp idx e = false → ∃ t, exec (.entryFire sp idx) s = .next t
        ∧ (∀ co ∈ maskCores e.coreMask, ∃ d ∈ t.core.waiting, s.core.nextSerial ≤ d.launch.serial ∧ d.span = sp.val ∧ d.core = co ∧ d.ctx = e.ctx ∧ d.launch.kernel = e.kernel
            ∧ d.launch.src = .entry sp idx (getF s fFrameWorkValue pgFrame)
            ∧ d.launch.due = getF s fFrameStartValue pgFrame + e.start)
        ∧ getF t fSchedLaunchesCount (pgSched sp) = (getF s fSchedLaunchesCount (pgSched sp) + 1) % 2 ^ 48
        ∧ entryArmed t sp idx = false ∧ idx ∈ (getSched t sp).seen
        ∧ (∀ g x, getGroup s g = some x → (sp.val, idx) ∈ x.wait → ∃ y, getGroup t g = some y
            ∧ y.wait = x.wait.erase (sp.val, idx) ∧ (sp.val, idx, getF s fFrameStartValue pgFrame + e.start) ∈ y.fired)
        ∧ t.core = { s.core with waiting := t.core.waiting, nextSerial := t.core.nextSerial }
        ∧ SameBut [.sch, .regs, .core, .ho, .er, .srv, .memo, .mem, .free] s t)))
  ∧ (∀ (sp : Fin 8) (idx work start : Nat) (rest : List (Nat × Nat × Nat)) (e : SEntry) (s : State), running s = true →
    deferredFireReady sp idx s = true → (getSched s sp).active[idx]? = some e →
    entryDeferred s sp idx = (idx, work, start) :: rest →
    (entryDead s sp e = true → ∃ t, exec (.deferredFire sp idx) s = .next t ∧ entryDeferred t sp idx = rest
      ∧ getF t fSchedDroppedCount (pgSched sp) = (getF s fSchedDroppedCount (pgSched sp) + 1) % 2 ^ 48
      ∧ (∀ g x, getGroup s g = some x → (sp.val, idx) ∈ x.wait → ∃ y, getGroup t g = some y ∧ y.notRun = true)
      ∧ t.core = s.core ∧ SameBut [.sch, .regs, .srv, .ho, .er] s t)
    ∧ (entryDead s sp e = false → ∃ t, exec (.deferredFire sp idx) s = .next t ∧ entryDeferred t sp idx = rest
      ∧ (∀ co ∈ maskCores e.coreMask, ∃ d ∈ t.core.waiting, d.span = sp.val ∧ d.core = co ∧ d.ctx = e.ctx
          ∧ d.launch.kernel = e.kernel ∧ d.launch.src = .entry sp idx work ∧ d.launch.due = start + e.start)
      ∧ getF t fSchedLaunchesCount (pgSched sp) = (getF s fSchedLaunchesCount (pgSched sp) + 1) % 2 ^ 48
      ∧ entryArmed t sp idx = false
      ∧ SameBut [.sch, .regs, .core, .ho, .er, .srv, .memo, .mem, .free] s t))

/-- A frame begins as a work or an idle frame under the duty in force, with the staged tables where their activation is
due, or the clock stops. A table is validated and staged, activated only when every span has one, entries are armed by
writes or by Fenivar's rule, and the clock starts only with tables that fit. -/
def Obligations.FrameClockRunsTheTables : Prop :=
  (∀ (s : State), running s = true → frameStartReady s = true →
    (s.sch.stopReq = true → ∃ t, exec .frameStart s = .next t
      ∧ getF t fFrameStatusState pgFrame = (if s.sch.overflow then 2 else 0) ∧ t.sch.stopReq = false
      ∧ (∀ sp, sp < 8 → (getSched t sp).deferred = [])
      ∧ (∀ g x, getGroup s g = some x → (∃ sp idx, sp < 8 ∧ (sp, idx) ∈ x.wait ∧ entryDeferred s sp idx ≠ []) →
          ∃ y, getGroup t g = some y ∧ y.notRun = true)
      ∧ SameBut [.sch, .regs, .pkg, .srv, .ho, .er] s t)
    ∧ (s.sch.stopReq = false → ∃ t, exec .frameStart s = .next t ∧ t.sch.nextK = s.sch.nextK + 1
      ∧ getF t fFrameCadenceValue pgFrame = s.sch.nextK % 2 ^ 64
      ∧ getF t fFrameStartValue pgFrame = frameTick s s.sch.nextK % 2 ^ 64
      ∧ (s.sch.nextK % 16 ≠ 0 → getF t fFrameIdleDutyEff pgFrame = getF s fFrameIdleDutyEff pgFrame)
      ∧ (s.sch.nextK % 16 = 0 → lockedMode s = false → getF t fFrameIdleDutyEff pgFrame
          = min (getF (commitPage s pgFrame) fFrameIdleDuty pgFrame) s.sch.allocDuty % 2 ^ 5)
      ∧ (s.sch.nextK % 16 = 0 → lockedMode s = true → s.sch.boundary ≠ 0 → s.sch.boundary ≤ s.sch.nextK →
          getF t fFrameIdleDutyEff pgFrame = s.sch.dutyNext % 2 ^ 5)
      ∧ (isWorkFrame s.sch.nextK (getF t fFrameIdleDutyEff pgFrame) = true → getB t fFrameStatusIdle pgFrame = false
          ∧ getF t fFrameIdledValue pgFrame = getF s fFrameIdledValue pgFrame)
      ∧ (isWorkFrame s.sch.nextK (getF t fFrameIdleDutyEff pgFrame) = false → getB t fFrameStatusIdle pgFrame = true
          ∧ getF t fFrameIdledValue pgFrame = (getF s fFrameIdledValue pgFrame + 1) % 2 ^ 64)
      ∧ ((getB s fFrameStatusActPend pgFrame = false ∨ s.sch.nextK < getF s fFrameActAtCadence pgFrame) →
          (∀ sp, (getSched t sp).active
              = (getSched s sp).active.map (fun e => { e with stopped := e.stopped || e.stopNext }))
          ∧ (getB t fFrameStatusIdle pgFrame = false → getF t fFrameWorkValue pgFrame = s.sch.nextWork % 2 ^ 64
              ∧ t.sch.nextWork = s.sch.nextWork + 1)
          ∧ (getB t fFrameStatusIdle pgFrame = true → t.sch.nextWork = s.sch.nextWork)
          ∧ SameBut [.sch, .regs, .staged, .pkg, .ho, .er] s t)
      ∧ (getB s fFrameStatusActPend pgFrame = true → getF s fFrameActAtCadence pgFrame ≤ s.sch.nextK →
          (∀ sp ∈ schedSpans s, (getSched t sp).active
              = (getSched s sp).inactive.map (fun e => { e with stopped := e.stopped || e.stopNext })
            ∧ (getSched t sp).deferred = [])
          ∧ getB t fFrameStatusActPend pgFrame = false ∧ getF t fFrameWorkValue pgFrame = 0
          ∧ t.sch.nextWork = (if getB t fFrameStatusIdle pgFrame then 0 else 1))))
  ∧ (∀ (sp : Fin 8) (m : Nat) (s : State), running s = true → accepted s (pgSched sp) m → spanDown s sp = false →
    (getB s fSchedVstatBusy (pgSched sp) = true →
      ∃ t, exec (.schedLoad sp m) s = .next t ∧ WriteRejected s t (pgSched sp) 6)
    ∧ (getB s fSchedVstatBusy (pgSched sp) = false → ∃ t, exec (.schedLoad sp m) s = .next t
      ∧ getB t fSchedVstatBusy (pgSched sp) = true ∧ regsBut [(.schedVstat, pgSched sp, 0)] s t ∧ SameBut [.regs] s t)
    ∧ (∀ w : Fin 64, ∀ mask,
      (m ≠ 4 → ∃ t, exec (.schedArm sp w mask m) s = .next t
        ∧ (∀ b, b < 64 → entryArmed t sp (64 * w.val + b) = (entryArmed s sp (64 * w.val + b) || bitAt mask b))
        ∧ regsBut [(.schedArm, pgSched sp, w.val)] s t ∧ SameBut [.regs] s t)
      ∧ (m = 4 → ∃ t, exec (.schedArm sp w mask m) s = .next t
        ∧ (∀ b, b < 64 → bitAt mask b = false → entryArmed t sp (64 * w.val + b) = entryArmed s sp (64 * w.val + b))
        ∧ (∀ b, b < 64 → bitAt mask b = true →
            (∀ e, (getSched s sp).active[64 * w.val + b]? = some e → e.kind = 0 ∧ e.epochw = false) →
            entryArmed t sp (64 * w.val + b) = true)
        ∧ (∀ b e, b < 64 → bitAt mask b = true → (getSched s sp).active[64 * w.val + b]? = some e → e.kind ≠ 0 →
            entryArmed t sp (64 * w.val + b) = (entryArmed s sp (64 * w.val + b) || stepWritten s e))
        ∧ (∀ b e m, b < 64 → bitAt mask b = true → (getSched s sp).active[64 * w.val + b]? = some e → e.kind = 0 → e.epochw = true →
            s.srv.models.find? (fun p => p.1 = e.bind) = some m → m.2.epoch ≠ 0 →
            epochPinned s e.bind (m.2.epoch - 1) = true →
            entryArmed t sp (64 * w.val + b) = entryArmed s sp (64 * w.val + b))
        ∧ ((∀ b e, b < 64 → bitAt mask b = true → (getSched s sp).active[64 * w.val + b]? = some e → e.epochw = false) →
            regsBut [(.schedArm, pgSched sp, w.val)] s t ∧ SameBut [.regs] s t)
        ∧ t.srv.reqs = s.srv.reqs ∧ SameBut [.regs, .srv, .memo, .mem, .cx, .er] s t)))
  ∧ (∀ (sp : Fin 8) (r : Nat × Nat × List SEntry) (u s : State), running s = true →
    getB s fSchedVstatBusy (pgSched sp) = true →
    imageCheck sp (4096 * getF s fSchedTableBase (pgSched sp)) (getF s fSchedCountEntries (pgSched sp))
      (getF s fSchedCountEntries (pgSched sp)) s [] = (r, u) →
    ∃ t, exec (.schedValidateDone sp) s = .next t ∧ getF t fSchedVstatResult (pgSched sp) = r.1 % 256
      ∧ getF t fSchedVstatEntry (pgSched sp) = r.2.1 % 4096 ∧ getB t fSchedVstatStaged (pgSched sp) = (r.1 == 0)
      ∧ getB t fSchedVstatBusy (pgSched sp) = false
      ∧ getSched t sp = { getSched s sp with inactive := r.2.2 }
      ∧ regsBut [(.schedVstat, pgSched sp, 0)] u t ∧ SameBut [.regs, .sch] u t)
  ∧ (∀ (m : Nat) (s : State), running s = true → accepted s pgFrame m →
    (((schedSpans s).all (fun sp => getB s fSchedVstatStaged (pgSched sp)) = true →
        ∃ t, exec (.frameActivate m) s = .next t ∧ getB t fFrameStatusActPend pgFrame = true
          ∧ regsBut [(.frameStatus, pgFrame, 0)] s t ∧ SameBut [.regs] s t)
      ∧ ((schedSpans s).all (fun sp => getB s fSchedVstatStaged (pgSched sp)) = false →
        ∃ t, exec (.frameActivate m) s = .next t ∧ WriteRejected s t pgFrame 4))
    ∧ (frameRunning s = true → exec (.frameStop m) s = .next { s with sch := { s.sch with stopReq := true } }
      ∧ exec (.frameClockStart m) s = .next s)
    ∧ (frameRunning s = false → exec (.frameStop m) s = .next s
      ∧ ((tablesFit s = false ∨ (lockedMode s = true ∧ clusterReady s = false)) →
        ∃ t, exec (.frameClockStart m) s = .next t ∧ WriteRejected s t pgFrame 4)
      ∧ (tablesFit s = true → (lockedMode s = true → clusterReady s = true) →
        ∃ t, exec (.frameClockStart m) s = .next t ∧ frameRunning t = true ∧ t.sch.stopReq = false
          ∧ t.sch.overflow = false
          ∧ ((lockedMode s = false ∨ isMember s = false) → t.sch.nextK = s.sch.nextK
              ∧ frameAt t t.sch.nextK = (s.tick : Int) ∧ regsBut [(.frameStatus, pgFrame, 0)] s t)
          ∧ (lockedMode s = true → isMember s = true →
              t.sch.nextK = ((cadenceTime s - s.sch.t0) / (framePeriod s : Int) + 1).toNat
              ∧ getF t fFrameIdleDutyEff pgFrame = t.sch.clusterDuty % 2 ^ 5
              ∧ regsBut [(.frameStatus, pgFrame, 0), (.frameIdle, pgFrame, 0)] s t)
          ∧ SameBut [.regs, .sch] s t)))

/-! ### Contexts and translation (11) -/

/-- An evicted context leaves its slot, its part stored with its tallies; Fenivar never evicts a pinned one; a switch places a stored record in a free slot with
its window's base; a parked record moves to memory and back. A stall is recorded and answered with a runnable record. A
fault stops its queue and its record waits for the ring, FRESUME runs or ends the named queues, an invalidation drops what
it covers from every cache once every stitch that used it has ended, and a moved page leaves no translation and no cached line
behind; no page of a row-placed region moves. Which of a model's regions are row-placed, and what base a context that
answers a stall gets, are the model's choices (log entries 77 and 103). -/
def Obligations.ContextsSwitchFaultAndInvalidate : Prop :=
  (∀ (sp : Fin 8) (co : Fin 16) (sl : Fin 4) (save : Bool) (m : Nat) (s : State), running s = true →
    accepted s (pgCtxs sp) m →
    (∀ c, evictRejects sp co sl s = some c →
      ∃ t, exec (.ctxEvict sp co sl save m) s = .next t ∧ WriteRejected s t (pgCtxs sp) (rejCode c))
    ∧ (evictRejects sp co sl s = none → m = 4 → pinned s sp co (slotCtx s (slotKey sp co sl)) = true →
      exec (.ctxEvict sp co sl save m) s = .next s)
    ∧ (∀ ctx r, evictRejects sp co sl s = none → (m = 4 → pinned s sp co (slotCtx s (slotKey sp co sl)) = false) → (getSlot s (slotKey sp co sl)).ctx = some ctx → getRec s sp ctx = some r →
      (∀ q ∈ (getSlot s (slotKey sp co sl)).part.queues, q.cmds = [] ∧ q.pend = none) →
      ∃ t r', exec (.ctxEvict sp co sl save m) s = .next t
        ∧ getSlot t (slotKey sp co sl) = { emptySlot with since :=
            if (getSlot s (slotKey sp co sl)).blocked then (getSlot s (slotKey sp co sl)).since else s.tick }
        ∧ (∀ k, k ≠ slotKey sp co sl → getSlot t k = getSlot s k)
        ∧ getRec t sp ctx = some r'
        ∧ look r'.parts co.val newPart = { (getSlot s (slotKey sp co sl)).part with
            queues := (getSlot s (slotKey sp co sl)).part.queues.zipIdx.map (fun q => queueStored s.tick q.2 q.1), winRetained := !save,
            winBase := if save then 0 else getF s fLmxWinBase (pgLmx sp co) sl }
        ∧ look r'.parkedAt co.val 0 = s.tick
        ∧ (partRunnable (look r'.parts co.val newPart) = true → bitAt r'.runnable co = true)
        ∧ t.core.lmem = s.core.lmem ∧ (save = false → SameBut [.core, .cx, .regs] s t)
        ∧ SameBut [.core, .cx, .regs, .memo, .mem, .er] s t))
  ∧ (∀ (sp : Fin 8) (co : Fin 16) (sl : Fin 4) (ctx base m : Nat) (s : State), running s = true →
    accepted s (pgCtxs sp) m →
    ((getB s fCtxsStatusBusy (pgCtxs sp) = true ∨ coreSliced s sp co = true) →
      ∃ t, exec (.ctxSwitch sp co sl ctx base m) s = .next t ∧ WriteRejected s t (pgCtxs sp) 6)
    ∧ (getB s fCtxsStatusBusy (pgCtxs sp) = false → coreSliced s sp co = false →
      (coreAbsent s sp co = true →
        ∃ t, exec (.ctxSwitch sp co sl ctx base m) s = .next t ∧ WriteRejected s t (pgCtxs sp) 2)
      ∧ (coreAbsent s sp co = false → switchFits sp co sl ctx base s = false →
        ∃ t, exec (.ctxSwitch sp co sl ctx base m) s = .next t ∧ WriteRejected s t (pgCtxs sp) 4)
      ∧ (∀ r c, coreAbsent s sp co = false → switchFits sp co sl ctx base s = true → getRec s sp ctx = some r →
        getCtx s ctx = some c → ∃ t r', exec (.ctxSwitch sp co sl ctx base m) s = .next t
          ∧ (getSlot t (slotKey sp co sl)).ctx = some ctx ∧ (getSlot t (slotKey sp co sl)).prio = c.prio
          ∧ (getSlot t (slotKey sp co sl)).part.tallies = (look r.parts co.val newPart).tallies
          ∧ (getSlot t (slotKey sp co sl)).part.preds = (look r.parts co.val newPart).preds
          ∧ (getSlot t (slotKey sp co sl)).part.launches = (look r.parts co.val newPart).launches
          ∧ (∀ k, k ≠ slotKey sp co sl → getSlot t k = getSlot s k)
          ∧ getF t fLmxWinBase (pgLmx sp co) sl = base % 2 ^ 7
          ∧ getF t fCtxsSwitchesCount (pgCtxs sp) = (getF s fCtxsSwitchesCount (pgCtxs sp) + 1) % 2 ^ 48
          ∧ getRec t sp ctx = some r' ∧ has r'.parts co.val = false ∧ bitAt r'.runnable co = false
          ∧ ((look r.parts co.val newPart).winRetained = true → t.core.lmem = s.core.lmem)
          ∧ SameBut [.core, .lmem, .cx, .regs, .memo, .mem, .er] s t)))
  ∧ (∀ (sp : Fin 8) (ctx : Nat) (r : CtxRec) (s : State), running s = true → getRec s sp ctx = some r →
    (recordSwapOutReady sp ctx s = true → ∃ t, exec (.recordSwapOut sp ctx) s = .next t
      ∧ getRec t sp ctx = some { r with tier := .swapped } ∧ SameBut [.cx] s t)
    ∧ (recordSwapInReady sp ctx s = true → ∃ t, exec (.recordSwapIn sp ctx) s = .next t
      ∧ getRec t sp ctx = some { r with
          tier := .store, pend := [],
          parts := r.pend.foldl (fun a x => put a x.1.1 (tallyAdd (look a x.1.1 newPart) x.1.2 x.2)) r.parts
          runSince := r.runSince.map (fun x => (x.1, s.tick)) }
      ∧ SameBut [.cx] s t))
  ∧ (∀ (sp : Fin 8) (co : Fin 16) (s : State), running s = true →
    (residentStallReady sp co s = true → ∃ t, exec (.residentStall sp co) s = .next t
      ∧ bitAt (getF t fCtxsStallPend (pgCtxs sp)) co = true
      ∧ getF t fCtxsStallsCount (pgCtxs sp) = (getF s fCtxsStallsCount (pgCtxs sp) + 1) % 2 ^ 48 ∧ SameBut [.regs] s t)
    ∧ (bitAt (getF s fCtxsStallPend (pgCtxs sp)) co = true →
      (runChoice s sp co = none → ∃ t, exec (.residentStallResponse sp co) s = .next t
        ∧ bitAt (getF t fCtxsStallPend (pgCtxs sp)) co = false ∧ regsBut [(.ctxsStall, pgCtxs sp, 0)] s t
        ∧ SameBut [.regs] s t)
      ∧ (∀ x b sl, runChoice s sp co = some x → baseFor s sp co x.1 x.2 = some b →
        ([0, 1, 2, 3] : List (Fin 4)).find? (fun (y : Fin 4) => (getSlot s (slotKey sp co y)).ctx.isNone) = some sl →
        switchFits sp co sl x.1 b s = true → ∃ t, exec (.residentStallResponse sp co) s = .next t
          ∧ (getSlot t (slotKey sp co sl)).ctx = some x.1 ∧ bitAt (getF t fCtxsStallPend (pgCtxs sp)) co = false
          ∧ (∀ k, k ≠ slotKey sp co sl → getSlot t k = getSlot s k)
          ∧ SameBut [.core, .lmem, .cx, .regs, .memo, .mem, .er] s t)))
  ∧ (∀ (sp : Fin 8) (co : Fin 16) (sl : Fin 4) (e : Fin 5) (f : PFault) (s : State), running s = true →
    faultNext (getQ s (slotKey sp co sl) e) = some f → ∃ t fr, exec (.translationFault sp co sl e) s = .next t
      ∧ (e.val < (getSlot s (slotKey sp co sl)).part.queues.length → (getQ t (slotKey sp co sl) e).st = .fault
          ∧ (getQ t (slotKey sp co sl) e).openFault = true ∧ (getQ t (slotKey sp co sl) e).pend = none
          ∧ (getQ t (slotKey sp co sl) e).cmds = (getQ s (slotKey sp co sl) e).cmds)
      ∧ (∀ k, k ≠ slotKey sp co sl → getSlot t k = getSlot s k)
      ∧ look t.cx.faults sp.val [] = look s.cx.faults sp.val [] ++ [fr]
      ∧ fr.ctx = slotCtx s (slotKey sp co sl) ∧ fr.cause = f.cause ∧ fr.level = f.level ∧ fr.va = f.va
      ∧ fr.engine = e.val ∧ fr.core = co.val ∧ fr.tick = s.tick ∧ SameBut [.core, .cx, .regs] s t)
  ∧ (∀ (sp : Fin 8) (f : FaultRec) (rest : List FaultRec) (s : State), running s = true →
    look s.cx.faults sp.val [] = f :: rest → fringRoom s sp = true → ∃ t, exec (.faultRecordWrite sp) s = .next t
      ∧ look t.cx.faults sp.val [] = rest
      ∧ getF t fXltFringTailTail (pgXlt sp) = (getF s fXltFringTailTail (pgXlt sp) + 1) % 2 ^ 32
      ∧ getF t fXltFaultsCount (pgXlt sp) = (getF s fXltFaultsCount (pgXlt sp) + 1) % 2 ^ 48
      ∧ SameBut [.cx, .memo, .mem, .regs, .er] s t)
  ∧ (∀ (sp : Fin 8) (co : Fin 16) (ctx eng m : Nat) (s : State), running s = true → accepted s (pgXlt sp) m →
    (∀ sl, residentSlot s sp co (ctx % 4096) = some sl →
      (∃ t, exec (.fresume sp co ctx eng m) s = .next t
        ∧ (∀ e, e < 5 → (bitAt eng e = false ∨ (getQ s (slotKey sp co sl) e).st ≠ .fault) →
            getQ t (slotKey sp co sl) e = getQ s (slotKey sp co sl) e)
        ∧ (∀ e, e < 5 → bitAt eng e = true → (getQ s (slotKey sp co sl) e).st = .fault →
            (getQ t (slotKey sp co sl) e).st ≠ .fault ∧ (getQ t (slotKey sp co sl) e).openFault = false
            ∧ (getQ t (slotKey sp co sl) e).cmds = (getQ s (slotKey sp co sl) e).cmds)
        ∧ (∀ k, k ≠ slotKey sp co sl → getSlot t k = getSlot s k) ∧ SameBut [.core, .memo] s t)
      ∧ (∀ e : Fin 4, eng = 2 ^ e.val → (getQ s (slotKey sp co sl) e).st = .fault →
        ∃ t, exec (.fresumeDiscard sp co ctx eng m) s = .next t
          ∧ QueueHalted s t (slotKey sp co sl) e 0x30 (faultLaunch (getQ s (slotKey sp co sl) e))
            (faultPc (getQ s (slotKey sp co sl) e))))
    ∧ (∀ r, residentSlot s sp co (ctx % 4096) = none → getRec s sp (ctx % 4096) = some r → has r.parts co.val = true →
      (∃ t r', exec (.fresume sp co ctx eng m) s = .next t ∧ getRec t sp (ctx % 4096) = some r'
        ∧ (∀ e, e < 5 → bitAt eng e = true → (partQueue (look r.parts co.val newPart) e).st = .fault →
            partQueue (look r'.parts co.val newPart) e
              = { partQueue (look r.parts co.val newPart) e with resolved := true }) ∧ SameBut [.cx] s t)
      ∧ (∃ t r', exec (.fresumeDiscard sp co ctx eng m) s = .next t ∧ getRec t sp (ctx % 4096) = some r'
        ∧ (∀ e, e < 5 → bitAt eng e = true → (partQueue (look r.parts co.val newPart) e).st = .fault →
            (partQueue (look r'.parts co.val newPart) e).st = .haltErr) ∧ SameBut [.cx, .memo] s t)))
  ∧ (∀ (sp : Fin 8) (on : Bool) (m : Nat) (s : State), running s = true → accepted s (pgXlt sp) m →
    ∃ t, exec (.fringEnable sp on m) s = .next t ∧ getB t fXltFringCtrlEnable (pgXlt sp) = on
      ∧ regsBut [(.xltFringCtrl, pgXlt sp, 0)] s t ∧ SameBut [.regs] s t)
  ∧ (∀ (asid m : Nat) (i : Instr) (x : XinvOp) (s : State), running s = true → accepted s pgXinv m →
    (i, x) ∈ [(.xinvRange asid m, ⟨0, asid % 4096, 4096 * getF s fXinvVaVa pgXinv, getF s fXinvLenPages pgXinv⟩),
      (.xinvAsid asid m, ⟨1, asid % 4096, 0, 0⟩), (.xinvAll m, ⟨2, 0, 0, 0⟩)] →
    (getB s fXinvStatusBusy pgXinv = true → ∃ t, exec i s = .next t ∧ WriteRejected s t pgXinv 6)
    ∧ (getB s fXinvStatusBusy pgXinv = false → ∃ t, exec i s = .next t ∧ t.cx = { s.cx with xinv := some (x, s.tick) }
      ∧ getB t fXinvStatusBusy pgXinv = true ∧ regsBut [(.xinvStatus, pgXinv, 0)] s t ∧ SameBut [.cx, .regs] s t))
  ∧ (∀ (x : XinvOp) (begun : Nat) (s : State), running s = true → s.cx.xinv = some (x, begun) →
    (stitchesClear s x begun = false → exec .xinvDone s = .next s)
    ∧ (stitchesClear s x begun = true → ∃ t, exec .xinvDone s = .next t
      ∧ t.cx = { s.cx with
          xinv := none, tlb := s.cx.tlb.filter (fun e => !xinvHits x e.asid e.vbase e.size)
          tec := s.cx.tec.filter (fun e => !xinvHits x e.asid e.vbase (levelSpan e.level)) }
      ∧ (∀ n, ∀ q ∈ (getPcc t n).seqs, q.sys = false → ∀ o ∈ q.outs,
          xinvHits x (ctxAsid s q.ctx) o.1 o.2.1 = true → o.2.2 = 0)
      ∧ getB t fXinvStatusBusy pgXinv = false
      ∧ getF t fXinvStatusDone pgXinv = (getF s fXinvStatusDone pgXinv + 1) % 2 ^ 32
      ∧ regsBut [(.xinvStatus, pgXinv, 0)] s t ∧ t.memo.mem = s.memo.mem ∧ SameBut [.cx, .memo, .regs] s t))
  ∧ (∀ (ctx va da a pte size : Nat) (c : Ctx) (s : State), getCtx s ctx = some c → ctxLeaf s c va = some (a, pte, size) →
    rowPlaced s ctx (va / size * size) size = true → exec (.pageMove ctx va da) s = .next s)
  ∧ (∀ (ctx va da a pte size : Nat) (c : Ctx) (s : State), running s = true → pageMoveReady ctx va da s = true →
    getCtx s ctx = some c → ctxLeaf s c va = some (a, pte, size) → ∃ t, exec (.pageMove ctx va da) s = .next t
      ∧ (∀ e ∈ t.cx.tlb, xinvHits ⟨0, c.asid, va / size * size, size / 4096⟩ e.asid e.vbase e.size = false)
      ∧ (∀ e ∈ t.cx.tec, xinvHits ⟨0, c.asid, va / size * size, size / 4096⟩ e.asid e.vbase (levelSpan e.level) = false)
      ∧ (∀ l ∈ t.memo.tc, l.intlv = pteIntlv pte → pteAddr pte ≤ 128 * l.line → pteAddr pte + size ≤ 128 * l.line)
      ∧ getF t fXinvStatusDone pgXinv = (getF s fXinvStatusDone pgXinv + 1) % 2 ^ 32
      ∧ t.core = s.core ∧ t.ho = s.ho ∧ t.srv = s.srv ∧ t.sch = s.sch)

/-! ### Zaskel links (13) -/

/-- A port moves through the states of R453 as its enable, signal, equalisation, alignment, negotiation, retrains, restarts
and time limits say; a retrain repeats alignment and negotiation, and a failing port loses what it had to send, with its cause.
That lanes which allow no training give cause 1 is the model's choice (log entry 67), and that a negotiation repeated in
RETRAIN lets the credits stand is its reading (log entry 111). -/
def Obligations.PortsTrainRetrainAndFail : Prop :=
  (∀ (p : Fin 12) (m : Nat) (s : State), running s = true → accepted s (pgZl p) m → zlAbsent s p = false →
    ((zlState s p ≠ 0 → getB s fZlCfgEnable (pgZl p) = true → exec (.zlEnable p m) s = .next s)
      ∧ (zlState s p ≠ 0 → zlState s p ≠ 7 → getB s fZlCfgEnable (pgZl p) = false →
          ∃ t, exec (.zlEnable p m) s = .next t ∧ WriteRejected s t (pgZl p) 1)
      ∧ (zlState s p = 0 → ∃ t, exec (.zlEnable p m) s = .next t ∧ PortEnters s t p 1 ∧ getB t fZlCfgEnable (pgZl p) = true)
      ∧ (zlState s p = 7 → ∃ t, exec (.zlEnable p m) s = .next t ∧ zlState t p = 7
          ∧ getB t fZlCfgEnable (pgZl p) = true ∧ regsBut [(.zlCfg, pgZl p, 0)] s t ∧ SameBut [.regs] s t))
    ∧ ((zlState s p = 7 → ∃ t, exec (.zlRestart p m) s = .next t ∧ PortEnters s t p 1
          ∧ getF t fZlStatusFailCause (pgZl p) = 0)
      ∧ (zlState s p ≠ 7 → ∃ t, exec (.zlRestart p m) s = .next t ∧ WriteRejected s t (pgZl p) 4))
    ∧ ((zlState s p ≠ 5 → ∃ t, exec (.zlRetrain p m) s = .next t ∧ WriteRejected s t (pgZl p) 4)
      ∧ (zlState s p = 5 →
        (((getZl s p).retrains.filter (fun a => decide (s.tick < 1000000000 + a))).length < 2 →
          ∃ t, exec (.zlRetrain p m) s = .next t ∧ zlState t p = 6 ∧ (getZl t p).since = s.tick
            ∧ (getZl t p).aligned = false ∧ (getZl t p).agreed = false
            ∧ getF t fZlRetrainsCount (pgZl p) = (getF s fZlRetrainsCount (pgZl p) + 1) % 2 ^ 48
            ∧ (∀ k, k ≠ p.val → getZl t k = getZl s k) ∧ SameBut [.regs, .pkg] s t)
        ∧ (2 ≤ ((getZl s p).retrains.filter (fun a => decide (s.tick < 1000000000 + a))).length →
          ∃ t, exec (.zlRetrain p m) s = .next t ∧ PortFailed s t p 5
            ∧ getF t fZlRetrainsCount (pgZl p) = (getF s fZlRetrainsCount (pgZl p) + 1) % 2 ^ 48))))
  ∧ (∀ (p : Fin 12) (s : State), running s = true →
    (zlState s p = 1 → ∃ t, exec (.zlSignalDetect p) s = .next t ∧ PortEnters s t p 2)
    ∧ (∀ bad : Fin 256, zlState s p = 2 → zlLonger s p 100000000 = false →
      (bad = 0 → ∃ t, exec (.zlEqualiseDone p bad) s = .next t ∧ PortEnters s t p 3
          ∧ getB t fZlStatusWidth (pgZl p) = false)
      ∧ (bad ≠ 0 → getB s fZlCfgAllowX4 (pgZl p) = true → (bad.val % 16 = 0 ∨ bad.val < 16) →
          ∃ t, exec (.zlEqualiseDone p bad) s = .next t ∧ PortEnters s t p 3 ∧ getB t fZlStatusWidth (pgZl p) = true)
      ∧ (bad ≠ 0 → (getB s fZlCfgAllowX4 (pgZl p) = false ∨ (bad.val % 16 ≠ 0 ∧ 16 ≤ bad.val)) →
          ∃ t, exec (.zlEqualiseDone p bad) s = .next t ∧ PortFailed s t p 1))
    ∧ (zlState s p = 3 → zlLonger s p 10000000 = false → ∃ t, exec (.zlAlignDone p) s = .next t
      ∧ zlState t p = 4 ∧ (getZl t p).txq = [negPacket s p] ∧ (getZl t p).nextFseq = 0 ∧ (getZl t p).since = s.tick
      ∧ (getZl t p).rx = (getZl s p).rx ∧ (∀ k, k ≠ p.val → getZl t k = getZl s k) ∧ SameBut [.regs, .pkg] s t)
    ∧ (zlState s p = 6 → exec (.zlAlignDone p) s = .next (putZl s p { getZl s p with aligned := true }))
    ∧ (∀ k, ctlPacket p 7 s = some k →
      ((zlState s p ≠ 4 ∨ zlLonger s p 1000000 = true) → zlState s p ≠ 6 → exec (.neg p) s = .next (rxTake s p k))
      ∧ (zlState s p = 6 → bits (k.2.getD 1 0) 0 8 = 1 → bits (k.2.getD 1 0) 8 8 = 0 →
          bits (k.2.getD 1 0) 24 10 ≠ selfPkg s →
          exec (.neg p) s = .next (putZl (rxTake s p k) p { getZl (rxTake s p k) p with agreed := true }))
      ∧ (zlState s p = 4 → zlLonger s p 1000000 = false → bits (k.2.getD 1 0) 0 8 = 1 → bits (k.2.getD 1 0) 8 8 = 0 →
          (bits (k.2.getD 1 0) 24 10 ≠ selfPkg s → ∃ t, exec (.neg p) s = .next t ∧ zlState t p = 5
            ∧ getF t fZlStatusPartnerPkg (pgZl p) = bits (k.2.getD 1 0) 24 10
            ∧ getF t fZlStatusPartnerPort (pgZl p) = bits (k.2.getD 1 0) 34 4
            ∧ (getZl t p).credits = [0, 1, 1, 2, 2, 3, 3].map (fun i => bits (k.2.getD 1 0 / 2 ^ 64) (16 * i) 16)
            ∧ (∀ j, j ≠ p.val → getZl t j = getZl s j) ∧ SameBut [.regs, .pkg] s t))
      ∧ (((zlState s p = 4 ∧ zlLonger s p 1000000 = false) ∨ zlState s p = 6) →
          bits (k.2.getD 1 0) 0 8 = 1 → bits (k.2.getD 1 0) 8 8 = 0 → bits (k.2.getD 1 0) 24 10 = selfPkg s →
          ∃ t, exec (.neg p) s = .next t ∧ zlState t p = 7
            ∧ getF t fZlStatusFailCause (pgZl p) = 4 ∧ ∀ j, j ≠ p.val → zlState t j = zlState s j)
      ∧ (((zlState s p = 4 ∧ zlLonger s p 1000000 = false) ∨ zlState s p = 6) → (bits (k.2.getD 1 0) 0 8 ≠ 1 ∨ bits (k.2.getD 1 0) 8 8 ≠ 0) →
          ∃ t, exec (.neg p) s = .next t ∧ zlState t p = 7
            ∧ getF t fZlStatusFailCause (pgZl p) = 3 ∧ ∀ j, j ≠ p.val → zlState t j = zlState s j))
    ∧ (∀ n c, zlLimit (zlState s p) = some (n, c) → zlLonger s p n = true →
      ∃ t, exec (.zlStateTimeout p) s = .next t ∧ PortFailed s t p c)
    ∧ (zlState s p = 6 →
      (zlLonger s p 20000000 = false → ((getZl s p).aligned && (getZl s p).agreed) = false →
        exec (.zlRetrainDone p true) s = .next s)
      ∧ (zlLonger s p 20000000 = false → (getZl s p).aligned = true → (getZl s p).agreed = true →
        ∃ t, exec (.zlRetrainDone p true) s = .next t ∧ zlState t p = 5
        ∧ getZl t p = { getZl s p with resend := (getZl s p).replay.length, since := s.tick }
        ∧ (∀ k, k ≠ p.val → getZl t k = getZl s k) ∧ SameBut [.regs, .pkg] s t)
      ∧ (∃ t, exec (.zlRetrainDone p false) s = .next t ∧ PortFailed s t p 5)))
  ∧ (∀ s : State, running s = true → ∃ t, exec .zlRefclkLoss s = .next t
      ∧ (∀ p, p < 12 → zlAbsent s p = false → zlState s p ≠ 0 → zlState t p = 7)
      ∧ (∀ p, p < 12 → zlAbsent s p = false → zlState s p ≠ 0 → zlState s p ≠ 7 →
          getF t fZlStatusFailCause (pgZl p) = 5)
      ∧ (∀ p, (zlAbsent s p = true ∨ zlState s p = 0) → zlState t p = zlState s p)
      ∧ t.memo.mem = s.memo.mem ∧ t.core.lmem = s.core.lmem)

/-- A port with nothing to send sends an idle flit, resends what is to be sent again, and numbers and holds a new flit until
it is acknowledged, with the credits that it returns, which a flit sent again carries as before; a good flit in its turn is
counted and its units taken, a numbered one out of turn brings only its acknowledgement, an idle one credits too, one that cannot be corrected or whose CRC differs a NAK. A packet for another package leaves by a port of its route or
returns an ERR; a port stalled for credits fails. The bit order and the initial value of the CRC are the model's choice (log
entry 68), and so are the order among a class's channels and a route's ports (log entry 67), and that credits travel in
numbered flits (log entry 110). -/
def Obligations.FlitsCarryPacketsInOrder : Prop :=
  (∀ (p : Fin 12) (cls : Fin 7) (s : State), running s = true → (zlState s p = 4 ∨ zlState s p = 5) →
    portTested s p = false →
    (∀ f, (getZl s p).resend ≠ 0 → (getZl s p).replay[(getZl s p).replay.length - (getZl s p).resend]? = some f →
      exec (.flitTransmit p cls) s = .next (putZl s p
        { flitOut (getZl s p) f.cls f.count f.fseq f.units f.keyFirst false with resend := (getZl s p).resend - 1 }))
    ∧ ((getZl s p).resend = 0 → (getZl s p).keyq = [] →
      (((getZl s p).cur = none ∧ (getZl s p).txq = [] ∧ flitGives (getZl s p) cls = 0) →
        exec (.flitTransmit p cls) s = .next (putZl s p (flitOut (getZl s p) cls 0 0 [] false true)))
      ∧ ((flitGives (getZl s p) cls ≠ 0
          ∨ ((getZl s p).cur = none ∧ (portNext (getZl s p)).any (fun k => !k.1.isEmpty) = true)) →
        (getZl s p).replay.length < 256 → ∃ t f, exec (.flitTransmit p cls) s = .next t
          ∧ (getZl t p).replay = (getZl s p).replay ++ [f] ∧ f.fseq = (getZl s p).nextFseq
          ∧ f.cls = cls.val ∧ f.count = flitGives (getZl s p) cls
          ∧ (getZl t p).give = (getZl s p).give.set cls ((getZl s p).give.getD cls 0 - flitGives (getZl s p) cls)
          ∧ (getZl t p).nextFseq = ((getZl s p).nextFseq + 1) % 4096
          ∧ getF t fZlFlitsTxCount (pgZl p) = (getF s fZlFlitsTxCount (pgZl p) + 1) % 2 ^ 48
          ∧ (∀ j, j ≠ p.val → getZl t j = getZl s j)
          ∧ regsBut [(.zlFlitsTx, pgZl p, 0)] s t ∧ SameBut [.regs, .pkg] s t)))
  ∧ (∀ (p : Fin 12) (cls : Fin 7) (s : State), running s = true → zlState s p = 6 → (getZl s p).aligned = true →
    portTested s p = false →
    exec (.flitTransmit p cls) s = .next (putZl s p (flitOut (getZl s p) 0 0 0 (negPacket s p) false false)))
  ∧ (∀ (p : Fin 12) (h crc : Nat) (units : List Nat) (s : State), running s = true → (zlState s p = 4 ∨ zlState s p = 5) →
    exec (.flitReceive p false h units crc) s = .next (putZl s p { getZl s p with nakPend := true })
    ∧ (crc ≠ flitCrc h units →
        exec (.flitReceive p true h units crc) s = .next (putZl s p { getZl s p with nakPend := true }))
    ∧ (crc = flitCrc h units → bitAt h 24 = false → bitAt h 41 = false → bits h 0 12 ≠ (getZl s p).rxFseq →
        exec (.flitReceive p true h units crc) s = .next (putZl s p (flitAck (getZl s p) (bits h 12 12))))
    ∧ (crc = flitCrc h units → bitAt h 24 = false → bitAt h 41 = true →
        exec (.flitReceive p true h units crc) s
          = .next (putZl (putZl s p (flitAck (getZl s p) (bits h 12 12))) p
              (flitCredits (flitAck (getZl s p) (bits h 12 12)) h)))
    ∧ (crc = flitCrc h units → bitAt h 24 = false → bitAt h 41 = false → bits h 0 12 = (getZl s p).rxFseq →
        ∃ t, exec (.flitReceive p true h units crc) s = .next t
          ∧ (getZl t p).rxFseq = ((getZl s p).rxFseq + 1) % 4096 ∧ (getZl t p).nakPend = false
          ∧ getF t fZlFlitsRxCount (pgZl p) = (getF s fZlFlitsRxCount (pgZl p) + 1) % 2 ^ 48
          ∧ (∀ k ∈ (getZl s p).rx, k ∈ (getZl t p).rx) ∧ t.memo.mem = s.memo.mem ∧ t.core.lmem = s.core.lmem)
    ∧ (crc = flitCrc h units → bitAt h 24 = true → bitAt h 41 = true → ∃ t, exec (.flitReceive p true h units crc) s = .next t
          ∧ getF t fZlNaksCount (pgZl p) = (getF s fZlNaksCount (pgZl p) + 1) % 2 ^ 48 ∧ t.memo.mem = s.memo.mem))
  ∧ (∀ (p : Fin 12) (k : Nat × Pkt) (s : State), running s = true → packetRoutePick p s = some k →
    (∀ q vc, routeOf (rxTake s p k) k.2 (some p.val) = some (q, vc) → ∃ t, exec (.packetRoute p) s = .next t
      ∧ pkSetVc k.2 vc ∈ (getZl t q).txq ∧ (getZl t p).rx = (getZl s p).rx.erase k
      ∧ getF t fZwinForwardedCount pgZwin = (getF s fZwinForwardedCount pgZwin + 1) % 2 ^ 48
      ∧ regsBut [(.zwinForwarded, pgZwin, 0)] s t ∧ SameBut [.regs, .pkg] s t)
    ∧ (routeOf (rxTake s p k) k.2 (some p.val) = none → exec (.packetRoute p) s = .next (sendErr (rxTake s p k) k.2 7)))
  ∧ (∀ (p : Fin 12) (cls : Fin 7) (s : State), running s = true → linkStallReady p cls s = true →
    ∃ t, exec (.linkStall p cls) s = .next t ∧ PortFailed s t p 6 ∧ bitAt (blkIrqPend t (pgZl p)) 1 = true)

/-- A window invalidation runs and drops what it names. A ring enabled is served from HEAD; a posted descriptor in its turn is
taken, for the journaled item that runs on the ring's core where there is one (log entry 114), which holds it back until its
commit; a started one hands over its packets or halts its ring with a code, and one whose packets a failed port dropped hands
them over again from its slot (that the send engine reads the slot again is the model's choice, log entry 82, and so is a slot
or an entry that cannot be read, log entry 69); a completed one advances HEAD and signals, unless it was
discarded with its item. A packet at its destination is applied once, with a receipt that is written to the journal where that
is enabled (log entry 115), refused with an ERR, or waits for room among the receipts; an ERR halts its ring, but not ORPHAN. -/
def Obligations.RingsSendAndWindowsReceive : Prop :=
  (∀ (all : Bool) (idx : Fin 4096) (m : Nat) (s : State), running s = true → accepted s pgZwin m →
    (getB s fZwinStatusBusy pgZwin = true → ∃ t, exec (.zwinInval all idx m) s = .next t ∧ WriteRejected s t pgZwin 6)
    ∧ (getB s fZwinStatusBusy pgZwin = false → ∃ t, exec (.zwinInval all idx m) s = .next t
      ∧ t.pkg = { s.pkg with link := { s.pkg.link with inval := some (if all then none else some idx.val) } }
      ∧ getB t fZwinStatusBusy pgZwin = true ∧ regsBut [(.zwinStatus, pgZwin, 0)] s t ∧ SameBut [.pkg, .regs] s t))
  ∧ (∀ (w : Option Nat) (s : State), running s = true → s.pkg.link.inval = some w → ∃ t, exec .zwinInvalDone s = .next t
      ∧ t.pkg = { s.pkg with link := { s.pkg.link with
          inval := none, wins := (match w with | some i => del s.pkg.link.wins i | none => []) } }
      ∧ getB t fZwinStatusBusy pgZwin = false
      ∧ getF t fZwinStatusDone pgZwin = (getF s fZwinStatusDone pgZwin + 1) % 2 ^ 32
      ∧ regsBut [(.zwinStatus, pgZwin, 0)] s t ∧ SameBut [.pkg, .regs] s t)
  ∧ (∀ (sp : Fin 8) (r : Fin 64) (m : Nat) (s : State), running s = true → spanDown s sp = false →
    accepted s (pgZring sp) m →
    (∃ t, exec (.zringEnable sp r false m) s = .next t ∧ getB t fZringCfgEnable (pgZring sp) r = false
      ∧ getF t fZringStateState (pgZring sp) r = 0
      ∧ getRing t (64 * sp.val + r.val) = (getRing s (64 * sp.val + r.val)).filter (·.started)
      ∧ regsBut [(.zringCfg, pgZring sp, r.val), (.zringState, pgZring sp, r.val)] s t ∧ SameBut [.pkg, .regs] s t)
    ∧ (∃ t, exec (.zringEnable sp r true m) s = .next t ∧ getB t fZringCfgEnable (pgZring sp) r = true
      ∧ getF t fZringStateState (pgZring sp) r = (if getF s fZringStateState (pgZring sp) r = 0 then 1
          else getF s fZringStateState (pgZring sp) r)
      ∧ regsBut [(.zringCfg, pgZring sp, r.val), (.zringState, pgZring sp, r.val)] s t ∧ SameBut [.regs] s t))
  ∧ (∀ (sp : Fin 8) (r : Fin 64) (s : State), running s = true →
    ((ringRuns s sp r = false ∨ 16 ≤ (getRing s (64 * sp.val + r.val)).length) →
      exec (.sendDescPosted sp r) s = .next s)
    ∧ (∀ w u, ringRuns s sp r = true → (getRing s (64 * sp.val + r.val)).length < 16 →
      ringSlot s sp r (getF s fZringStateHead (pgZring sp) r + (getRing s (64 * sp.val + r.val)).length) = (some w, u) →
      (sdSeq w = (getF s fZringStateHead (pgZring sp) r + (getRing s (64 * sp.val + r.val)).length) % 65536 →
        exec (.sendDescPosted sp r) s = .next (putRing u (64 * sp.val + r.val)
          (getRing s (64 * sp.val + r.val) ++ [⟨w, false, false, postItem u sp r, false⟩])))
      ∧ (sdSeq w ≠ (getF s fZringStateHead (pgZring sp) r + (getRing s (64 * sp.val + r.val)).length) % 65536 →
        exec (.sendDescPosted sp r) s = .next u))
    ∧ (∀ seq u, ringRuns s sp r = true → lostSeq s (64 * sp.val + r.val) = some seq →
      (∀ v, ringSlot { s with pkg := { s.pkg with link := { s.pkg.link with
          lost := s.pkg.link.lost.filter (· ≠ (64 * sp.val + r.val, seq)) } } } sp r seq = v →
        ((v.1 = none ∨ ∃ w, v.1 = some w ∧ sdSeq w ≠ seq) → exec (.sendDescStart sp r) s = .next v.2)
        ∧ (∀ w, v.1 = some w → sdSeq w = seq → sendDesc sp r w v.2 = (.ok, u) →
          exec (.sendDescStart sp r) s = .next u)))
    ∧ (∀ d i u, lostSeq s (64 * sp.val + r.val) = none → sendDescStartReady sp r s = true → nextDesc (getRing s (64 * sp.val + r.val)) = some (d, i) →
      (sendDesc sp r d.words s = (.ok, u) → ∃ t, exec (.sendDescStart sp r) s = .next t
        ∧ getRing t (64 * sp.val + r.val) = (getRing u (64 * sp.val + r.val)).set i { d with started := true }
        ∧ (∀ j, j ≠ 64 * sp.val + r.val → getRing t j = getRing u j) ∧ SameBut [.pkg] u t)
      ∧ (∀ x, sendDesc sp r d.words s = (x, u) → x ≠ .ok → ∃ t, exec (.sendDescStart sp r) s = .next t
        ∧ getF t fZringStateState (pgZring sp) r = 2 ∧ (∀ x ∈ getRing t (64 * sp.val + r.val), x.started = true)
        ∧ (getB u fZringStateErrValid (pgZring sp) r = false → getB t fZringStateErrValid (pgZring sp) r = true
            ∧ getF t fZringStateCode (pgZring sp) r = (match x with | .code c => c % 256 | _ => 0x42)
            ∧ getF t fZringStateDseq (pgZring sp) r = sdSeq d.words)
        ∧ bitAt (blkIrqPend t (pgZring sp)) 1 = true ∧ t.memo.mem = u.memo.mem ∧ t.core.lmem = u.core.lmem))
    ∧ (∀ d i, lostSeq s (64 * sp.val + r.val) = none → nextDesc (getRing s (64 * sp.val + r.val)) = some (d, i) →
      d.released = false → d.item ≠ 0 → exec (.sendDescStart sp r) s = .next s)
    ∧ (∀ d rest, getRing s (64 * sp.val + r.val) = d :: rest → d.started = true →
      ∃ t, exec (.sendDescComplete sp r) s = .next t ∧ getRing t (64 * sp.val + r.val) = rest
        ∧ getF t fZringStateHead (pgZring sp) r = (getF s fZringStateHead (pgZring sp) r + 1) % 65536
        ∧ t.core.signals = s.core.signals ++ (if d.gone = false ∧ bitAt (sdWord d.words 0) 24 = true then
            [⟨ringCtx s (64 * sp.val + r.val), sp, getF s fZringCfgCore (pgZring sp) r, bits (sdWord d.words 0) 25 7, 1, 2, 0,
              sp, getF s fZringCfgCore (pgZring sp) r, 3, 0, 0⟩] else [])
        ∧ regsBut [(.zringState, pgZring sp, r.val)] s t ∧ t.core.lmem = s.core.lmem ∧ SameBut [.pkg, .regs, .core] s t))
  ∧ (∀ (p : Fin 12) (i : Instr) (ty : Nat) (k : Nat × Pkt) (s : State), running s = true →
    (i, ty) ∈ [(.wr p, 1), (.red p, 2), (.sig p, 3)] → consumable p ty s = some k →
    (receiptHas s k.2 = true → ∃ t, exec i s = .next t ∧ (getZl t p).rx = (getZl s p).rx.erase k
      ∧ getF t fJrnlDupCount pgJrnl = (getF s fJrnlDupCount pgJrnl + 1) % 2 ^ 48 ∧ SameBut [.pkg, .regs] s t)
    ∧ (receiptHas s k.2 = false → receiptRoom s = false → exec i s = .next s)
    ∧ (∀ e u, receiptHas s k.2 = false → receiptRoom s = true → winEntry (rxTake s p k) (pkWin k.2) = (e, u) →
      (refuseReason u e k.2 ≠ 0 → ∃ t, exec i s = .next t
        ∧ getF t fZwinRefusedCount pgZwin = (getF u fZwinRefusedCount pgZwin + 1) % 2 ^ 48
        ∧ t.memo.mem = u.memo.mem ∧ t.core.lmem = s.core.lmem ∧ t.ho.receipts = s.ho.receipts)
      ∧ (refuseReason u e k.2 = 0 → noStaged u = true → ∃ t, exec i s = .next t
        ∧ (ty = 1 → ∀ a, (∀ j, j < 16 * pkUnits k.2 → a / 128 ≠ winCell u e (pkOff k.2 + j) / 128) →
            cellGet t.memo.mem a = cellGet (receiptAdd u k.2).memo.mem a)
        ∧ (ty = 3 → t.memo.mem = (receiptAdd u k.2).memo.mem)
        ∧ (getB s fJrnlCtrlEnable pgJrnl = false → receiptAdd u k.2 = u)
        ∧ (∀ sl, coreAbsent s (winSpan e) (winCore e) = false →
            residentSlot s (winSpan e) (winCore e) (winCtx e) = some sl →
            tallyOf (getSlot t (slotKey (winSpan e) (winCore e) sl)).part (pkTally k.2)
              = (tallyOf (getSlot s (slotKey (winSpan e) (winCore e) sl)).part (pkTally k.2)
                  + (if ty = 3 then pkOff k.2 else 16 * pkUnits k.2)) % 2 ^ 48)
        ∧ (getB s fJrnlCtrlEnable pgJrnl = true →
            t.ho.receipts = s.ho.receipts ++ [⟨pkSrc k.2, pkRing k.2, pkDseq k.2, pkOff k.2, s.tick⟩])
        ∧ t.core.lmem = s.core.lmem)))
  ∧ (∀ (p : Fin 12) (k : Nat × Pkt) (s : State), running s = true → consumable p 4 s = some k →
    (bits (pkHead k.2) 78 8 = 5 → ∃ t, exec (.err p) s = .next t ∧ (getZl t p).rx = (getZl s p).rx.erase k
      ∧ t.pkg.link.rings = s.pkg.link.rings
      ∧ getF t fZringStateState (pgZring (pkRing k.2 / 64)) (pkRing k.2 % 64)
          = getF s fZringStateState (pgZring (pkRing k.2 / 64)) (pkRing k.2 % 64) ∧ SameBut [.pkg, .regs, .er] s t)
    ∧ (bits (pkHead k.2) 78 8 ≠ 5 → ∃ t, exec (.err p) s = .next t ∧ (getZl t p).rx = (getZl s p).rx.erase k
      ∧ getF t fZringStateState (pgZring (pkRing k.2 / 64)) (pkRing k.2 % 64) = 2
      ∧ (∀ x ∈ getRing t (pkRing k.2), x.started = true) ∧ t.memo.mem = s.memo.mem ∧ t.core.lmem = s.core.lmem))

/-- A package of the cluster sends beats down every ACTIVE port and a member one up to its parent; a down beat from the active
parent steers its offset, ends holdover and carries the origin of frames, the duty in force and the boundary to come, one with
another period is only noted; an up beat brings a child's duty, and the root then sets a boundary where the cluster's lowest
duty is another; an ECHO is answered and its reply gives the delay; a member without beats holds over, changes to its alternate parent as soon as that
is ACTIVE, and after 2 ms stops its clock. -/
def Obligations.BeatsKeepTheCluster : Prop :=
  (∀ s : State, running s = true →
    (getF s fZsyncCfgRole pgZsync = 0 → exec .keyBeatSend s = .next s)
    ∧ (getF s fZsyncCfgRole pgZsync ≠ 0 → ∃ t, exec .keyBeatSend s = .next t
      ∧ (∀ p, p < 12 → zlActive s p = true → (getZl t p).keyq.length
          = (getZl s p).keyq.length + 1 + (if isMember s && p == activeParent s then 1 else 0)
        ∧ (getZl t p).txq = (getZl s p).txq)
      ∧ (∀ p, zlActive s p = false → getZl t p = getZl s p) ∧ t.sch.t0 = s.sch.t0
      ∧ SameBut [.pkg] s t))
  ∧ (∀ (p : Fin 12) (k : Nat × Pkt) (s : State), running s = true → ctlPacket p 5 s = some k →
    (bitAt (k.2.getD 2 0) 27 = true → ∃ t, exec (.key p) s = .next t
      ∧ look t.pkg.link.childDuty p.val 0 = bits (k.2.getD 2 0) 33 5
      ∧ (getF s fZsyncCfgRole pgZsync = 1 → frameRunning s = true → s.sch.boundary = 0 →
          subtreeDuty t ≠ s.sch.clusterDuty → t.sch.boundary = nextBoundary s ∧ t.sch.dutyNext = subtreeDuty t)
      ∧ ((getF s fZsyncCfgRole pgZsync ≠ 1 ∨ s.sch.boundary ≠ 0) → t.sch = s.sch) ∧ SameBut [.pkg, .sch] s t)
    ∧ (bitAt (k.2.getD 2 0) 27 = false → (isMember s = false ∨ p.val ≠ activeParent s) →
      exec (.key p) s = .next (rxTake s p k))
    ∧ (bitAt (k.2.getD 2 0) 27 = false → isMember s = true → p.val = activeParent s →
      (bits (k.2.getD 2 0) 0 27 ≠ framePeriod s → ∃ t, exec (.key p) s = .next t
        ∧ getB t fZsyncStatusPeriodMismatch pgZsync = true ∧ regsBut [(.zsyncStatus, pgZsync, 0)] s t
        ∧ t.pkg = (rxTake s p k).pkg ∧ SameBut [.pkg, .regs] s t)
      ∧ (∀ e : Int, bits (k.2.getD 2 0) 0 27 = framePeriod s →
        e = toSigned64 (bits (k.2.getD 1 0) 0 64) + (getF s fZlDelayDelay (pgZl p) : Int)
            - ((k.1 : Int) + toSigned64 (getF s fZsyncOffsetDelta pgZsync)) →
        ∃ t, exec (.key p) s = .next t
          ∧ getB t fZsyncStatusPeriodMismatch pgZsync = false ∧ getB t fZsyncStatusHoldover pgZsync = false
          ∧ getF t fZsyncStatusDepth pgZsync = min 31 (bits (k.2.getD 2 0) 28 5 + 1)
          ∧ getF t fZsyncErrorLast pgZsync = (e % 2 ^ 32).toNat
          ∧ (getB s fZsyncStatusLocked pgZsync = true → getF t fZsyncOffsetDelta pgZsync
              = ((toSigned64 (getF s fZsyncOffsetDelta pgZsync) + clamp4 e) % 2 ^ 64).toNat)
          ∧ (getB s fZsyncStatusLocked pgZsync = false → getF t fZsyncOffsetDelta pgZsync
              = ((toSigned64 (getF s fZsyncOffsetDelta pgZsync) + e) % 2 ^ 64).toNat
            ∧ getB t fZsyncStatusLocked pgZsync
              = (decide (e ≤ 20) && decide (-20 ≤ e) && decide (15 ≤ s.pkg.link.close)))
          ∧ t.pkg.link.beatAt = k.1 ∧ t.pkg.link.holdAt = none ∧ t.sch.t0 = toSigned64 (bits (k.2.getD 1 0) 64 64)
          ∧ t.sch.clusterDuty = bits (k.2.getD 2 0) 33 5
          ∧ (bits (k.2.getD 2 0) 64 64 ≠ 0 → s.sch.boundaryDone ≠ some (bits (k.2.getD 2 0) 64 64) →
              s.sch.boundary ≠ bits (k.2.getD 2 0) 64 64 →
              if frameRunning s = true ∧ bits (k.2.getD 2 0) 64 64 < s.sch.nextK then
                t.sch.stopReq = true ∧ getB t fZsyncStatusSyncMiss pgZsync = true
              else t.sch.boundary = bits (k.2.getD 2 0) 64 64 ∧ t.sch.dutyNext = bits (k.2.getD 2 0) 38 5)
          ∧ regsBut [(.zsyncStatus, pgZsync, 0), (.zsyncError, pgZsync, 0), (.zsyncOffset, pgZsync, 0)] s t
          ∧ SameBut [.pkg, .regs, .sch] s t)))
  ∧ (∀ (p : Fin 12) (s : State), running s = true →
    (zlState s p = 5 → ∃ t, exec (.echoSend p) s = .next t
      ∧ getZl t p = { getZl s p with txq := (getZl s p).txq ++ [hopPacket s p 6 0 0] }
      ∧ (∀ j, j ≠ p.val → getZl t j = getZl s j) ∧ SameBut [.pkg] s t)
    ∧ (zlState s p ≠ 5 → exec (.echoSend p) s = .next s)
    ∧ (∀ k, ctlPacket p 6 s = some k →
      (bitAt (k.2.getD 2 0) 64 = false → ∃ t, exec (.echo p) s = .next t
        ∧ (getZl t p).rx = (getZl s p).rx.erase k
        ∧ (getZl t p).txq = (getZl s p).txq
            ++ [hopPacket s p 6 (k.2.getD 1 0 % 2 ^ 64 + 2 ^ 64 * k.1) (2 ^ 64)] ∧ SameBut [.pkg] s t)
      ∧ (bitAt (k.2.getD 2 0) 64 = true → ∃ t, exec (.echo p) s = .next t
        ∧ (getZl t p).rx = (getZl s p).rx.erase k ∧ (getZl t p).delayOk = true
        ∧ getF t fZlDelayDelay (pgZl p) = (((((k.1 : Int) - (k.2.getD 1 0 % 2 ^ 64 : Nat))
            - ((k.2.getD 2 0 % 2 ^ 64 : Nat) - (k.2.getD 1 0 / 2 ^ 64 : Nat))) / 2) % 65536).toNat
        ∧ regsBut [(.zlDelay, pgZl p, 0)] s t ∧ SameBut [.pkg, .regs] s t)))
  ∧ (∀ s : State, running s = true →
    (holdoverStartReady s = true → ∃ t, exec .holdoverStart s = .next t
      ∧ getB t fZsyncStatusHoldover pgZsync = true
      ∧ t.pkg.link.holdAt = (if getB s fZsyncStatusHoldover pgZsync then s.pkg.link.holdAt else some s.tick)
      ∧ (altReady s = true → getB t fZsyncStatusOnAlt pgZsync = true ∧ getB t fZsyncStatusLocked pgZsync = false
          ∧ t.pkg.link.close = 0)
      ∧ (altReady s = false → getB t fZsyncStatusOnAlt pgZsync = getB s fZsyncStatusOnAlt pgZsync
          ∧ getB t fZsyncStatusLocked pgZsync = getB s fZsyncStatusLocked pgZsync ∧ t.pkg.link.close = s.pkg.link.close)
      ∧ regsBut [(.zsyncStatus, pgZsync, 0)] s t ∧ SameBut [.pkg, .regs] s t)
    ∧ (holdoverLostReady s = true → ∃ t, exec .holdoverLost s = .next t
      ∧ getB t fZsyncStatusLost pgZsync = true ∧ (frameRunning s = true → t.sch.stopReq = true)
      ∧ (frameRunning s = false → t.sch = s.sch)
      ∧ regsBut [(.zsyncStatus, pgZsync, 0)] s t ∧ SameBut [.sch, .regs] s t))
end

