-- ==== Sys2Proof/Laws/Fields.lean ====
section
/-!
SUPPORT. Bit ranges and register fields: what a range or a field reads as after one has been replaced.
-/
namespace Sys2Proof

/-- A number cut at a bit range: the part above it, the range, and the part below it. -/
theorem cut_range (v lo w : Nat) :
    v = v / 2 ^ (lo + w) * 2 ^ (lo + w) + bits v lo w * 2 ^ lo + v % 2 ^ lo := by
  have h1 := Nat.div_add_mod v (2 ^ lo)
  have h2 := Nat.div_add_mod (v / 2 ^ lo) (2 ^ w)
  have h3 : v / 2 ^ lo / 2 ^ w = v / 2 ^ (lo + w) := by rw [Nat.div_div_eq_div_mul, Nat.pow_add]
  rw [h3] at h2
  unfold bits
  generalize v / 2 ^ lo % 2 ^ w = m at *
  generalize v % 2 ^ lo = l at *
  generalize v / 2 ^ (lo + w) = h at *
  rw [← h2] at h1
  rw [Nat.pow_add, ← h1, Nat.mul_add]
  rw [Nat.mul_comm (2 ^ lo) m, ← Nat.mul_assoc (2 ^ lo), Nat.mul_comm (2 ^ lo * 2 ^ w) h]

/-- A number with a range replaced: its part above, the new value, and its part below. -/
theorem setBits_eq (v lo w x : Nat) :
    setBits v lo w x = v / 2 ^ (lo + w) * 2 ^ (lo + w) + x % 2 ^ w * 2 ^ lo + v % 2 ^ lo := by
  have h := cut_range v lo w
  unfold setBits
  generalize bits v lo w * 2 ^ lo = m at *
  omega

theorem setBits_div (v lo w x : Nat) : setBits v lo w x / 2 ^ lo = v / 2 ^ (lo + w) * 2 ^ w + x % 2 ^ w := by
  have hp : 0 < 2 ^ lo := Nat.two_pow_pos lo
  have hr : v % 2 ^ lo < 2 ^ lo := Nat.mod_lt _ hp
  have e : v / 2 ^ (lo + w) * 2 ^ (lo + w) + x % 2 ^ w * 2 ^ lo + v % 2 ^ lo
      = 2 ^ lo * (v / 2 ^ (lo + w) * 2 ^ w + x % 2 ^ w) + v % 2 ^ lo := by
    rw [Nat.pow_add, Nat.mul_add, Nat.mul_comm (2 ^ lo) (x % 2 ^ w)]
    congr 2
    rw [Nat.mul_comm (2 ^ lo) (2 ^ w), ← Nat.mul_assoc, Nat.mul_comm (_ * 2 ^ w) (2 ^ lo)]
  rw [setBits_eq, e, Nat.mul_add_div hp, Nat.div_eq_of_lt hr, Nat.add_zero]

theorem setBits_mod (v lo w x : Nat) : setBits v lo w x % 2 ^ lo = v % 2 ^ lo := by
  have hp : 0 < 2 ^ lo := Nat.two_pow_pos lo
  rw [setBits_eq, Nat.pow_add, ← Nat.mul_assoc, Nat.mul_right_comm, ← Nat.add_mul, Nat.add_comm,
    Nat.add_mul_mod_self_right, Nat.mod_mod]

/-- A range reads the value it was replaced with. -/
theorem bits_setBits (v lo w x : Nat) : bits (setBits v lo w x) lo w = x % 2 ^ w := by
  unfold bits
  rw [setBits_div, Nat.add_comm, Nat.add_mul_mod_self_right, Nat.mod_mod]

/-- A range below a replaced one is unchanged. -/
theorem bits_setBits_below {v lo w x a b : Nat} (h : a + b ≤ lo) : bits (setBits v lo w x) a b = bits v a b := by
  have key : ∀ u : Nat, u / 2 ^ a % 2 ^ b = u % 2 ^ lo / 2 ^ a % 2 ^ b := by
    intro u
    have : lo = a + (lo - a) := by omega
    rw [this, Nat.pow_add, Nat.mod_mul_right_div_self, Nat.mod_mod_of_dvd]
    exact Nat.pow_dvd_pow 2 (by omega)
  unfold bits
  rw [key, setBits_mod, ← key]

/-- A range above a replaced one is unchanged. -/
theorem bits_setBits_above {v lo w x a b : Nat} (h : lo + w ≤ a) : bits (setBits v lo w x) a b = bits v a b := by
  have hx : x % 2 ^ w < 2 ^ w := Nat.mod_lt _ (Nat.two_pow_pos w)
  have e : setBits v lo w x / 2 ^ (lo + w) = v / 2 ^ (lo + w) := by
    rw [Nat.pow_add, ← Nat.div_div_eq_div_mul, setBits_div, Nat.mul_comm,
      Nat.mul_add_div (Nat.two_pow_pos w), Nat.div_eq_of_lt hx, Nat.add_zero, Nat.pow_add]
  have d : ∀ u : Nat, u / 2 ^ a = u / 2 ^ (lo + w) / 2 ^ (a - (lo + w)) := by
    intro u
    rw [Nat.div_div_eq_div_mul, ← Nat.pow_add]
    congr 2
    omega
  unfold bits
  rw [d, e, ← d]

theorem setBits_lt {v lo w x n : Nat} (hv : v < 2 ^ n) (h : lo + w ≤ n) : setBits v lo w x < 2 ^ n := by
  have d : setBits v lo w x / 2 ^ n = 0 := by
    have hx : x % 2 ^ w < 2 ^ w := Nat.mod_lt _ (Nat.two_pow_pos w)
    have e : setBits v lo w x / 2 ^ (lo + w) = v / 2 ^ (lo + w) := by
      rw [Nat.pow_add, ← Nat.div_div_eq_div_mul, setBits_div, Nat.mul_comm,
        Nat.mul_add_div (Nat.two_pow_pos w), Nat.div_eq_of_lt hx, Nat.add_zero, Nat.pow_add]
    have : n = (lo + w) + (n - (lo + w)) := by omega
    rw [this, Nat.pow_add, ← Nat.div_div_eq_div_mul, e, Nat.div_div_eq_div_mul, ← Nat.pow_add, ← this]
    exact Nat.div_eq_of_lt hv
  exact (Nat.div_eq_zero_iff.mp d).resolve_left (Nat.ne_of_gt (Nat.two_pow_pos n))

/-- A sparse table reads the value put under a key. -/
theorem look_put {κ ν : Type} [DecidableEq κ] (l : List (κ × ν)) (k : κ) (v d : ν) : look (put l k v) k d = v := by
  induction l with
  | nil => simp [put, look]
  | cons p r ih =>
    unfold put
    split
    · simp [look]
    · next h => simp [look, h, ih]

/-- Every other key reads as before. -/
theorem look_put_ne {κ ν : Type} [DecidableEq κ] (l : List (κ × ν)) {k j : κ} (v d : ν) (h : j ≠ k) :
    look (put l k v) j d = look l j d := by
  induction l with
  | nil => simp [put, look, h.symm]
  | cons p r ih =>
    unfold put
    split
    · next e => simp [look, e, h.symm]
    · simp [look, ih]

end Sys2Proof

namespace Sys2Proof.Machine

theorem rdR_lt (s : State) (r : Reg) (pg k : Nat) : rdR s r pg k < 2 ^ 64 := by
  unfold rdR
  exact BitVec.isLt _

/-- A register reads the value written to it. -/
theorem rdR_wrR (s : State) (r : Reg) (pg k v : Nat) : rdR (wrR s r pg k v) r pg k = v % 2 ^ 64 := by
  unfold rdR wrR
  rw [look_put, BitVec.toNat_ofNat]

/-- Every other register reads as before. -/
theorem rdR_wrR_ne {s : State} {r r' : Reg} {pg pg' k k' v : Nat} (h : (r', pg', k') ≠ (r, pg, k)) :
    rdR (wrR s r pg k v) r' pg' k' = rdR s r' pg' k' := by
  unfold rdR wrR
  rw [look_put_ne _ _ _ h]

/-- A field reads the value written to it, modulo its width. -/
theorem getF_setF (s : State) (f : RField) (pg v k : Nat) (h : f.lo + f.w ≤ 64) :
    getF (setF s f pg v k) f pg k = v % 2 ^ f.w := by
  unfold getF setF
  rw [rdR_wrR, Nat.mod_eq_of_lt (setBits_lt (rdR_lt _ _ _ _) h), bits_setBits]

/-- A field of another register, page or element reads as before. -/
theorem getF_setF_ne {s : State} {f g : RField} {pg pg' v k k' : Nat} (h : (g.reg, pg', k') ≠ (f.reg, pg, k)) :
    getF (setF s f pg v k) g pg' k' = getF s g pg' k' := by
  unfold getF setF
  rw [rdR_wrR_ne h]

/-- A field of the same register that does not overlap reads as before. -/
theorem getF_setF_apart {s : State} {f g : RField} {pg v k : Nat} (hr : g.reg = f.reg) (hf : f.lo + f.w ≤ 64)
    (h : g.lo + g.w ≤ f.lo ∨ f.lo + f.w ≤ g.lo) : getF (setF s f pg v k) g pg k = getF s g pg k := by
  unfold getF setF
  rw [hr, rdR_wrR, Nat.mod_eq_of_lt (setBits_lt (rdR_lt _ _ _ _) hf)]
  rcases h with h | h
  · exact bits_setBits_below h
  · exact bits_setBits_above h

end Sys2Proof.Machine
end

