-- ==== Sys2Proof/Laws/Memory.lean ====
section
/-!
SUPPORT. Laws of the byte memories: every operation keeps the canonical form, and what a read finds after a
write.
-/
namespace Sys2Proof.Machine

theorem cellsFrom_cons (lo : Nat) (c : Host.Cell) (r : List Host.Cell) :
    cellsFrom lo (c :: r) = true ↔ lo ≤ c.1 ∧ c.2 ≠ 0 ∧ cellsFrom (c.1 + 1) r = true := by
  simp only [cellsFrom, Bool.and_eq_true, decide_eq_true_eq, and_assoc]

theorem cellsFrom_mono {l : List Host.Cell} {a b : Nat} (hab : a ≤ b) (h : cellsFrom b l = true) :
    cellsFrom a l = true := by
  cases l with
  | nil => rfl
  | cons c r =>
    rw [cellsFrom_cons] at h ⊢
    exact ⟨by omega, h.2⟩

theorem cellsFrom_filter (p : Host.Cell → Bool) (l : List Host.Cell) :
    ∀ lo, cellsFrom lo l = true → cellsFrom lo (l.filter p) = true := by
  induction l with
  | nil => intro lo _; rfl
  | cons c r ih =>
    intro lo h
    rw [cellsFrom_cons] at h
    have hr := ih _ h.2.2
    by_cases hp : p c = true
    · rw [List.filter_cons_of_pos hp, cellsFrom_cons]
      exact ⟨h.1, h.2.1, hr⟩
    · rw [List.filter_cons_of_neg hp]
      exact cellsFrom_mono (by omega) hr

theorem cellsFrom_ins (b : Byte) (hb : b ≠ 0) (l : List Host.Cell) :
    ∀ lo a, lo ≤ a → cellsFrom lo l = true → cellsFrom lo (cellIns l a b) = true := by
  induction l with
  | nil => intro lo a ha _; exact (cellsFrom_cons _ _ _).2 ⟨ha, hb, rfl⟩
  | cons c r ih =>
    intro lo a ha h
    rw [cellsFrom_cons] at h
    unfold cellIns
    split
    · rename_i h1
      exact (cellsFrom_cons _ _ _).2 ⟨ha, hb, (cellsFrom_cons _ _ _).2 ⟨Nat.succ_le_of_lt h1, h.2⟩⟩
    · split
      · rename_i h1 h2
        exact (cellsFrom_cons _ _ _).2 ⟨ha, hb, by simpa [← h2] using h.2.2⟩
      · rename_i h1 h2
        exact (cellsFrom_cons _ _ _).2 ⟨h.1, h.2.1, ih _ _ (by omega) h.2.2⟩

/-- Removing cells keeps the canonical form. -/
theorem memWf_filter {m : List Host.Cell} (p : Host.Cell → Bool) (h : memWf m = true) : memWf (m.filter p) = true :=
  cellsFrom_filter p m 0 h

/-- One byte stored keeps the canonical form. -/
theorem memWf_put {m : List Host.Cell} (a : Nat) (b : Byte) (h : memWf m = true) : memWf (cellPut m a b) = true := by
  unfold cellPut
  split
  · exact memWf_filter _ h
  · rename_i hb; exact cellsFrom_ins b hb m 0 a (Nat.zero_le _) h

/-- Bytes stored upward keep the canonical form. -/
theorem memWf_write {m : List Host.Cell} (a : Nat) (bs : List Byte) (h : memWf m = true) :
    memWf (cellWrite m a bs) = true := by
  induction bs generalizing m a with
  | nil => exact h
  | cons b bs ih => exact ih _ (memWf_put a b h)

/-- Bytes stored at listed addresses keep the canonical form. -/
theorem memWf_stores {m : List Host.Cell} (st : List (Nat × Byte)) (h : memWf m = true) :
    memWf (cellStores m st) = true := by
  unfold cellStores
  induction st generalizing m with
  | nil => exact h
  | cons p r ih => exact ih (memWf_put _ _ h)

theorem cellGet_filter_ne (m : List Host.Cell) {a x : Nat} (hx : x ≠ a) :
    cellGet (m.filter (fun c => c.1 ≠ a)) x = cellGet m x := by
  induction m with
  | nil => rfl
  | cons c r ih =>
    by_cases hc : c.1 = a
    · have : c.1 ≠ x := by omega
      simp [List.filter, hc, cellGet, show a ≠ x by omega]
      simpa using ih
    · simp only [List.filter, hc, ne_eq, not_false_eq_true, decide_true, cellGet]
      split
      · rfl
      · simpa using ih

theorem cellGet_filter_eq (m : List Host.Cell) (a : Nat) : cellGet (m.filter (fun c => c.1 ≠ a)) a = 0 := by
  induction m with
  | nil => rfl
  | cons c r ih =>
    by_cases hc : c.1 = a
    · simpa [List.filter, hc] using ih
    · simp only [List.filter, hc, ne_eq, not_false_eq_true, decide_true, cellGet]
      simpa using ih

theorem cellGet_low {l : List Host.Cell} : ∀ {lo x : Nat}, cellsFrom lo l = true → x < lo → cellGet l x = 0 := by
  induction l with
  | nil => intros; rfl
  | cons c r ih =>
    intro lo x h hx
    rw [cellsFrom_cons] at h
    simp only [cellGet, show c.1 ≠ x by omega, if_false]
    exact ih h.2.2 (by omega)

theorem cellGet_ins (b : Byte) (l : List Host.Cell) (a x : Nat) :
    cellGet (cellIns l a b) x = if x = a then b else cellGet l x := by
  induction l with
  | nil => simp [cellIns, cellGet, eq_comm]
  | cons c r ih =>
    unfold cellIns
    split
    · simp [cellGet, eq_comm]
    · split
      · rename_i h2; subst h2
        by_cases hx : x = c.1
        · simp [cellGet, hx]
        · simp [cellGet, hx, show c.1 ≠ x by omega]
      · rename_i h1 h2
        simp only [cellGet, ih]
        by_cases hx : x = a
        · simp [hx, h2]
        · simp [hx]

/-- The byte stored last at an address is read there, and no other byte changes. -/
theorem cellGet_put (m : List Host.Cell) (a x : Nat) (b : Byte) :
    cellGet (cellPut m a b) x = if x = a then b else cellGet m x := by
  unfold cellPut
  split
  · rename_i hb
    by_cases hx : x = a
    · subst hx; simpa [hb] using cellGet_filter_eq m x
    · simpa [hx] using cellGet_filter_ne m hx
  · exact cellGet_ins b m a x

/-- A byte outside a stored range does not change. -/
theorem cellGet_write_ne (m : List Host.Cell) (a : Nat) (bs : List Byte) (x : Nat) (hx : x < a ∨ a + bs.length ≤ x) :
    cellGet (cellWrite m a bs) x = cellGet m x := by
  induction bs generalizing m a with
  | nil => rfl
  | cons b bs ih =>
    simp only [List.length_cons] at hx
    rw [cellWrite, ih _ _ (by omega), cellGet_put, if_neg (by omega)]

/-- A byte inside a stored range is the byte stored there. -/
theorem cellGet_write_in (m : List Host.Cell) (a : Nat) (bs : List Byte) (i : Nat) (hi : i < bs.length) :
    cellGet (cellWrite m a bs) (a + i) = bs[i] := by
  induction bs generalizing m a i with
  | nil => simp at hi
  | cons b bs ih =>
    cases i with
    | zero =>
      rw [cellWrite, Nat.add_zero, cellGet_write_ne _ _ _ _ (by omega), cellGet_put]
      simp
    | succ k =>
      rw [cellWrite, show a + (k + 1) = a + 1 + k by omega]
      simpa using ih (cellPut m a b) (a + 1) k (by simpa using hi)

/-- Bytes written are read back. -/
theorem cellRead_write (m : List Host.Cell) (a : Nat) (bs : List Byte) :
    cellRead (cellWrite m a bs) a bs.length = bs := by
  have h : ∀ (m' : List Host.Cell) (bs' : List Byte) (a' : Nat),
      (∀ i (hi : i < bs'.length), cellGet m' (a' + i) = bs'[i]) → cellRead m' a' bs'.length = bs' := by
    intro m' bs'
    induction bs' with
    | nil => intros; rfl
    | cons b r ih =>
      intro a' hg
      have h0 := hg 0 (by simp)
      simp only [List.length_cons, cellRead]
      have ht := ih (a' + 1) fun i hi => by
        have := hg (i + 1) (by simpa using hi)
        simpa [Nat.add_assoc, Nat.add_comm 1 i] using this
      rw [ht]
      simpa using h0
  exact h _ _ _ fun i hi => cellGet_write_in m a bs i hi

end Sys2Proof.Machine
end

