-- ==== Sys2Proof/Laws/Kept.lean ====
section
/-!
SUPPORT. What nearly every operation of the package leaves alone: the fuses, the queue of waiting commands, the tick
and the life cycle; and that it leaves both memories in canonical form. One lemma per operation says so, for a start
state `s₀` and the state `s` in which the operation begins.
-/
namespace Sys2Proof.Machine

/-- The life cycle in the record of start-up (R611, R612): the state in force, the service fuses blown, the
transition requested, and whether it has been programmed. -/
def lifeBoot (b : BootSt) : Nat × Nat × Option (Nat × Nat) × Bool := (b.life, b.service, b.program, b.programmed)

/-- The life cycle (R611, R612). -/
def lifeOf (s : State) : Nat × Nat × Option (Nat × Nat) × Bool := lifeBoot s.pkg.boot

/-- The fuses, the queue, the tick and the life cycle are those of `s₀`, and the memories are canonical if they
were. -/
structure Kept (s₀ s : State) : Prop where
  fuse : s.fuse = s₀.fuse
  pending : s.pending = s₀.pending
  tick : s.tick = s₀.tick
  life : lifeOf s = lifeOf s₀
  mem : memOk s₀ → memOk s

theorem Kept.refl (s : State) : Kept s s := ⟨rfl, rfl, rfl, rfl, id⟩

theorem Kept.trans {a b c : State} (h : Kept a b) (g : Kept b c) : Kept a c :=
  ⟨g.fuse.trans h.fuse, g.pending.trans h.pending, g.tick.trans h.tick, g.life.trans h.life, g.mem ∘ h.mem⟩

/-- A state built from a kept one by changing other parts. -/
theorem kept_mk {s₀ s : State} (h : Kept s₀ s) {regs staged core memo cx er ho sch srv pkg free}
    (h1 : lifeBoot pkg.boot = lifeBoot s.pkg.boot)
    (h2 : memWf s.memo.mem = true → memWf memo.mem = true) (h3 : memWf s.core.lmem = true → memWf core.lmem = true) :
    Kept s₀ ⟨s.tick, regs, staged, s.fuse, core, memo, cx, er, ho, sch, srv, pkg, free, s.pending⟩ :=
  ⟨h.fuse, h.pending, h.tick, h1.trans h.life, fun m => ⟨h2 (h.mem m).1, h3 (h.mem m).2⟩⟩

/-- A fold of operations that keep. -/
theorem kept_foldl {α : Type} {s₀ : State} {g : State → α → State} {l : List α} {s : State}
    (hg : ∀ t x, Kept s₀ t → Kept s₀ (g t x)) (h : Kept s₀ s) : Kept s₀ (l.foldl g s) := by
  induction l generalizing s with
  | nil => exact h
  | cons x r ih => exact ih (hg _ _ h)

/-- A fold whose accumulator carries the state in its component `p`. -/
theorem kept_foldl_at {α β : Type} {s₀ : State} (p : β → State) {g : β → α → β} {l : List α} {b : β}
    (hg : ∀ t x, Kept s₀ (p t) → Kept s₀ (p (g t x))) (h : Kept s₀ (p b)) : Kept s₀ (p (l.foldl g b)) := by
  induction l generalizing b with
  | nil => exact h
  | cons x r ih => exact ih (hg _ _ h)

/-- A fold that carries the state first. -/
theorem kept_foldl_fst {α β : Type} {s₀ : State} {g : State × β → α → State × β} {l : List α} {b : State × β}
    (hg : ∀ t x, Kept s₀ t.1 → Kept s₀ (g t x).1) (h : Kept s₀ b.1) : Kept s₀ (l.foldl g b).1 :=
  kept_foldl_at Prod.fst hg h

/-- A fold that carries the state second. -/
theorem kept_foldl_snd {α β : Type} {s₀ : State} {g : β × State → α → β × State} {l : List α} {b : β × State}
    (hg : ∀ t x, Kept s₀ t.2 → Kept s₀ (g t x).2) (h : Kept s₀ b.2) : Kept s₀ (l.foldl g b).2 :=
  kept_foldl_at Prod.snd hg h

/-- A fold that carries the state third. -/
theorem kept_foldl_thd {α β γ : Type} {s₀ : State} {g : β × γ × State → α → β × γ × State} {l : List α}
    {b : β × γ × State} (hg : ∀ t x, Kept s₀ t.2.2 → Kept s₀ (g t x).2.2) (h : Kept s₀ b.2.2) :
    Kept s₀ (l.foldl g b).2.2 :=
  kept_foldl_at (fun x : β × γ × State => x.2.2) hg h

/-- The fuses, the queue, the tick and the life-cycle state are those of `s₀`; the life cycle stays one of R611, and the memories
canonical, if they were. -/
structure Held (s₀ s : State) : Prop where
  fuse : s.fuse = s₀.fuse
  pending : s.pending = s₀.pending
  tick : s.tick = s₀.tick
  life : s.pkg.boot.life = s₀.pkg.boot.life
  legal : lifeOk s₀.pkg.boot = true → lifeOk s.pkg.boot = true
  mem : memOk s₀ → memOk s

theorem Held.refl (s : State) : Held s s := ⟨rfl, rfl, rfl, rfl, id, id⟩

theorem Held.trans {a b c : State} (h : Held a b) (g : Held b c) : Held a c :=
  ⟨g.fuse.trans h.fuse, g.pending.trans h.pending, g.tick.trans h.tick, g.life.trans h.life, g.legal ∘ h.legal, g.mem ∘ h.mem⟩

/-- What keeps also holds. -/
theorem Kept.held {a b : State} (h : Kept a b) : Held a b := by
  have hl := h.life
  simp only [lifeOf, lifeBoot, Prod.mk.injEq] at hl
  obtain ⟨h1, h2, h3, h4⟩ := hl
  exact ⟨h.fuse, h.pending, h.tick, h1, by simp only [lifeOk, h1, h2, h3, h4]; exact id, h.mem⟩

/-- An operation that keeps, after one that holds. -/
theorem held_kept {s₀ a b : State} (h : Held s₀ a) (g : Kept a b) : Held s₀ b := h.trans g.held

/-- A state built from a held one by changing other parts. -/
theorem held_mk {s₀ s : State} (h : Held s₀ s) {regs staged core memo cx er ho sch srv pkg free}
    (h1 : lifeBoot pkg.boot = lifeBoot s.pkg.boot)
    (h2 : memWf s.memo.mem = true → memWf memo.mem = true) (h3 : memWf s.core.lmem = true → memWf core.lmem = true) :
    Held s₀ ⟨s.tick, regs, staged, s.fuse, core, memo, cx, er, ho, sch, srv, pkg, free, s.pending⟩ := by
  simp only [lifeBoot, Prod.mk.injEq] at h1
  obtain ⟨h4, h5, h6, h7⟩ := h1
  exact ⟨h.fuse, h.pending, h.tick, h4.trans h.life, fun l => by simpa only [lifeOk, h4, h5, h6, h7] using h.legal l,
    fun m => ⟨h2 (h.mem m).1, h3 (h.mem m).2⟩⟩

/-- A fold of operations that hold. -/
theorem held_foldl {α : Type} {s₀ : State} {g : State → α → State} {l : List α} {s : State}
    (hg : ∀ t x, Held s₀ t → Held s₀ (g t x)) (h : Held s₀ s) : Held s₀ (l.foldl g s) := by
  induction l generalizing s with
  | nil => exact h
  | cons x r ih => exact ih (hg _ _ h)

end Sys2Proof.Machine
end

