-- ==== Sys2Proof/Laws/KeptMemory.lean ====
section
/-!
SUPPORT. One lemma per operation of registers, memory, translation and the tile cache: it keeps what `Kept` names (or holds what `Held` names), where
the state it begins with does.
-/
namespace Sys2Proof.Machine

theorem wrR_kept {s₀ : State} (x0 : State) (x1 : Reg) (x2 : Nat) (x3 : Nat) (x4 : Nat) (h0 : Kept s₀ x0) : Kept s₀
    (wrR x0 x1 x2 x3 x4) := by
  unfold wrR
  repeat' first
    | with_reducible first
        | assumption | exact Kept.refl _
    | extract_lets | split | dsimp -zeta +zetaDelta only
    | with_reducible first
        | apply kept_foldl | apply kept_mk
    | exact rfl | exact id | intro _

theorem setF_kept {s₀ : State} (x0 : State) (x1 : RField) (x2 : Nat) (x3 : Nat) (x4 : optParam Nat 0) (h0 : Kept s₀
    x0) : Kept s₀ (setF x0 x1 x2 x3 x4) := by
  unfold setF
  repeat' first
    | with_reducible first
        | assumption | apply wrR_kept
    | split

theorem setB_kept {s₀ : State} (x0 : State) (x1 : RField) (x2 : Nat) (x3 : Bool) (x4 : optParam Nat 0) (h0 : Kept s₀
    x0) : Kept s₀ (setB x0 x1 x2 x3 x4) := by
  unfold setB
  repeat' first
    | with_reducible first
        | assumption | apply setF_kept
    | split

theorem bumpF_kept {s₀ : State} (x0 : State) (x1 : RField) (x2 : Nat) (x3 : optParam Nat 1) (x4 : optParam Nat 0) (h0
    : Kept s₀ x0) : Kept s₀ (bumpF x0 x1 x2 x3 x4) := by
  unfold bumpF
  repeat' first
    | with_reducible first
        | assumption | apply setF_kept
    | split

theorem bumpSat_kept {s₀ : State} (x0 : State) (x1 : RField) (x2 : Nat) (x3 : optParam Nat 1) (x4 : optParam Nat 0)
    (h0 : Kept s₀ x0) : Kept s₀ (bumpSat x0 x1 x2 x3 x4) := by
  unfold bumpSat
  repeat' first
    | with_reducible first
        | assumption | apply setF_kept
    | split

theorem clrF_kept {s₀ : State} (x0 : State) (x1 : RField) (x2 : Nat) (x3 : optParam Nat 0) (h0 : Kept s₀ x0) : Kept s₀
    (clrF x0 x1 x2 x3) := by
  unfold clrF
  repeat' first
    | with_reducible first
        | assumption | apply setF_kept
    | split

theorem setBitF_kept {s₀ : State} (x0 : State) (x1 : RField) (x2 : Nat) (x3 : Nat) (x4 : optParam Nat 0) (h0 : Kept s₀
    x0) : Kept s₀ (setBitF x0 x1 x2 x3 x4) := by
  unfold setBitF
  repeat' first
    | with_reducible first
        | assumption | apply setF_kept
    | split

theorem clrBitF_kept {s₀ : State} (x0 : State) (x1 : RField) (x2 : Nat) (x3 : Nat) (x4 : optParam Nat 0) (h0 : Kept s₀
    x0) : Kept s₀ (clrBitF x0 x1 x2 x3 x4) := by
  unfold clrBitF
  repeat' first
    | with_reducible first
        | assumption | apply setF_kept
    | split

theorem commitPage_kept {s₀ : State} (x0 : State) (x1 : Nat) (h0 : Kept s₀ x0) : Kept s₀ (commitPage x0 x1) := by
  unfold commitPage
  repeat' first
    | with_reducible first
        | assumption | exact Kept.refl _ | apply wrR_kept | apply setB_kept
    | extract_lets | split | dsimp -zeta +zetaDelta only
    | with_reducible first
        | apply kept_foldl | apply kept_foldl_fst | apply kept_foldl_snd | apply kept_foldl_thd | apply kept_mk
    | exact rfl | exact id | intro _

theorem blkErr_kept {s₀ : State} (x0 : State) (x1 : Nat) (x2 : Nat) (h0 : Kept s₀ x0) : Kept s₀ (blkErr x0 x1 x2) :=
    by
  unfold blkErr
  repeat' first
    | with_reducible first
        | assumption | exact Kept.refl _ | apply setF_kept | apply setB_kept
    | extract_lets | split | dsimp -zeta +zetaDelta only
    | exact rfl | exact id | intro _

theorem irqSrc_kept {s₀ : State} (x0 : State) (x1 : Nat) (x2 : Nat) (h0 : Kept s₀ x0) : Kept s₀ (irqSrc x0 x1 x2) :=
    by
  unfold irqSrc
  repeat' first
    | with_reducible first
        | assumption | apply setBitF_kept
    | split

theorem reject_kept {s₀ : State} (x0 : State) (x1 : Nat) (x2 : Rej) (x3 : Nat) (x4 : Nat) (x5 : Nat) (h0 : Kept s₀ x0)
    : Kept s₀ (reject x0 x1 x2 x3 x4 x5) := by
  unfold reject
  repeat' first
    | with_reducible first
        | assumption | exact Kept.refl _ | apply setF_kept | apply blkErr_kept | apply setB_kept
    | extract_lets | split | dsimp -zeta +zetaDelta only
    | exact rfl | exact id | intro _

theorem rejectPath_kept {s₀ : State} (x0 : State) (x1 : Rej) (x2 : Nat) (x3 : Nat) (x4 : Nat) (h0 : Kept s₀ x0) : Kept
    s₀ (rejectPath x0 x1 x2 x3 x4) := by
  unfold rejectPath
  repeat' first
    | with_reducible first
        | assumption | exact Kept.refl _ | apply reject_kept
    | extract_lets | split | dsimp -zeta +zetaDelta only
    | with_reducible first
        | apply kept_foldl | apply kept_mk
    | exact rfl | exact id | intro _

theorem clocked_held {s₀ s t : State} (h : Held s₀ s) (g : Held s₀ t) : Held s₀ (clocked s t) := by
  unfold clocked
  split <;> assumption

theorem clocked_kept {s₀ : State} (x0 : State) (x1 : State) (h0 : Kept s₀ x0) (h1 : Kept s₀ x1) : Kept s₀ (clocked x0
    x1) := by
  unfold clocked
  repeat' first
    | with_reducible first
        | assumption | exact Kept.refl _
    | extract_lets | split | dsimp -zeta +zetaDelta only
    | exact rfl | exact id | intro _

theorem guarded_held {s₀ s t : State} (pg m off : Nat) (h : Held s₀ s) (g : Held s₀ t) :
    Held s₀ (guarded s pg m off t) := by
  unfold guarded
  split
  · exact held_kept h (rejectPath_kept _ _ _ _ _ (Kept.refl _))
  · split
    · exact held_kept h (reject_kept _ _ _ _ _ _ (Kept.refl _))
    · exact g

theorem guarded_kept {s₀ : State} (x0 : State) (x1 : Nat) (x2 : Nat) (x3 : Nat) (x4 : State) (h0 : Kept s₀ x0) (h4 :
    Kept s₀ x4) : Kept s₀ (guarded x0 x1 x2 x3 x4) := by
  unfold guarded
  repeat' first
    | with_reducible first
        | assumption | exact Kept.refl _ | apply rejectPath_kept | apply reject_kept
    | extract_lets | split | dsimp -zeta +zetaDelta only
    | exact rfl | exact id | intro _

theorem freeBit_kept {s₀ : State} (x0 : State) (h0 : Kept s₀ x0) : Kept s₀ (freeBit x0).2 := by
  unfold freeBit
  repeat' first
    | with_reducible first
        | assumption | exact Kept.refl _
    | extract_lets | split | dsimp -zeta +zetaDelta only
    | with_reducible first
        | apply kept_foldl | apply kept_mk
    | exact rfl | exact id | intro _

theorem freeByte_kept {s₀ : State} (x0 : State) (h0 : Kept s₀ x0) : Kept s₀ (freeByte x0).2 := by
  unfold freeByte
  repeat' first
    | with_reducible first
        | assumption | exact Kept.refl _
    | extract_lets | split | dsimp -zeta +zetaDelta only
    | with_reducible first
        | apply kept_foldl | apply kept_mk
    | exact rfl | exact id | intro _

theorem freeWord_kept {s₀ : State} (x0 : State) (h0 : Kept s₀ x0) : Kept s₀ (freeWord x0).2 := by
  unfold freeWord
  repeat' first
    | with_reducible first
        | assumption | exact Kept.refl _
    | extract_lets | split | dsimp -zeta +zetaDelta only
    | with_reducible first
        | apply kept_foldl | apply kept_mk
    | exact rfl | exact id | intro _

theorem elogAdd_kept {s₀ : State} (x0 : State) (x1 : ElogEntry) (h0 : Kept s₀ x0) : Kept s₀ (elogAdd x0 x1) := by
  unfold elogAdd
  repeat' first
    | with_reducible first
        | assumption | exact Kept.refl _ | apply irqSrc_kept | apply setF_kept | apply bumpSat_kept
    | extract_lets | split | dsimp -zeta +zetaDelta only
    | with_reducible first
        | apply kept_foldl | apply kept_mk
    | exact rfl | exact id | intro _

theorem putSlot_kept {s₀ : State} (x0 : State) (x1 : Nat) (x2 : Slot) (h0 : Kept s₀ x0) : Kept s₀ (putSlot x0 x1 x2)
    := by
  unfold putSlot
  repeat' first
    | with_reducible first
        | assumption | exact Kept.refl _
    | extract_lets | split | dsimp -zeta +zetaDelta only
    | with_reducible first
        | apply kept_foldl | apply kept_mk
    | exact rfl | exact id | intro _

theorem putQ_kept {s₀ : State} (x0 : State) (x1 : Nat) (x2 : Nat) (x3 : Queue) (h0 : Kept s₀ x0) : Kept s₀ (putQ x0 x1
    x2 x3) := by
  unfold putQ
  repeat' first
    | with_reducible first
        | assumption | exact Kept.refl _ | apply putSlot_kept
    | extract_lets | split | dsimp -zeta +zetaDelta only
    | with_reducible first
        | apply kept_foldl | apply kept_mk
    | exact rfl | exact id | intro _

theorem sendSignal_kept {s₀ : State} (x0 : State) (x1 : Signal) (h0 : Kept s₀ x0) : Kept s₀ (sendSignal x0 x1) := by
  unfold sendSignal
  repeat' first
    | with_reducible first
        | assumption | exact Kept.refl _
    | extract_lets | split | dsimp -zeta +zetaDelta only
    | with_reducible first
        | apply kept_foldl | apply kept_mk
    | exact rfl | exact id | intro _

theorem putRec_kept {s₀ : State} (x0 : State) (x1 : Nat) (x2 : Nat) (x3 : CtxRec) (h0 : Kept s₀ x0) : Kept s₀ (putRec
    x0 x1 x2 x3) := by
  unfold putRec
  repeat' first
    | with_reducible first
        | assumption | exact Kept.refl _
    | extract_lets | split | dsimp -zeta +zetaDelta only
    | with_reducible first
        | apply kept_foldl | apply kept_mk
    | exact rfl | exact id | intro _

theorem landSignal_kept {s₀ : State} (x0 : State) (x1 : Signal) (h0 : Kept s₀ x0) : Kept s₀ (landSignal x0 x1) := by
  unfold landSignal
  repeat' first
    | with_reducible first
        | assumption | exact Kept.refl _ | apply putSlot_kept | apply bumpF_kept | apply elogAdd_kept
        | apply putRec_kept
    | extract_lets | split | dsimp -zeta +zetaDelta only
    | with_reducible first
        | apply kept_foldl | apply kept_mk
    | exact rfl | exact id | intro _

theorem putSched_kept {s₀ : State} (x0 : State) (x1 : Nat) (x2 : SpanSched) (h0 : Kept s₀ x0) : Kept s₀ (putSched x0
    x1 x2) := by
  unfold putSched
  repeat' first
    | with_reducible first
        | assumption | exact Kept.refl _
    | extract_lets | split | dsimp -zeta +zetaDelta only
    | with_reducible first
        | apply kept_foldl | apply kept_mk
    | exact rfl | exact id | intro _

theorem putPcc_kept {s₀ : State} (x0 : State) (x1 : Nat) (x2 : Pcc) (h0 : Kept s₀ x0) : Kept s₀ (putPcc x0 x1 x2) :=
    by
  unfold putPcc
  repeat' first
    | with_reducible first
        | assumption | exact Kept.refl _
    | extract_lets | split | dsimp -zeta +zetaDelta only
    | with_reducible first
        | apply kept_foldl | apply kept_mk
        | exact memWf_put _ _ | exact memWf_write _ _ | exact memWf_stores _ | exact memWf_filter _
    | exact rfl | exact id | intro _

theorem bucketEvent_kept {s₀ : State} (x0 : State) (x1 : Nat) (x2 : Nat) (x3 : Nat) (x4 : Nat) (x5 : Nat) (h0 : Kept
    s₀ x0) : Kept s₀ (bucketEvent x0 x1 x2 x3 x4 x5) := by
  unfold bucketEvent
  repeat' first
    | with_reducible first
        | assumption | exact Kept.refl _ | apply elogAdd_kept | apply irqSrc_kept
    | extract_lets | split | dsimp -zeta +zetaDelta only
    | with_reducible first
        | apply kept_foldl | apply kept_mk
    | exact rfl | exact id | intro _

theorem logUe_kept {s₀ : State} (x0 : State) (x1 : Nat) (x2 : Nat) (x3 : Nat) (h0 : Kept s₀ x0) : Kept s₀ (logUe x0 x1
    x2 x3) := by
  unfold logUe
  repeat' first
    | with_reducible first
        | assumption | exact Kept.refl _ | apply putPcc_kept | apply elogAdd_kept | apply irqSrc_kept
    | extract_lets | split | dsimp -zeta +zetaDelta only
    | with_reducible first
        | apply kept_foldl | apply kept_mk
    | exact rfl | exact id | intro _

theorem colRead_kept {s₀ : State} (x0 : State) (x1 : Nat) (h0 : Kept s₀ x0) : Kept s₀ (colRead x0 x1).2.2 := by
  unfold colRead
  repeat' first
    | with_reducible first
        | assumption | exact Kept.refl _ | apply bucketEvent_kept | apply logUe_kept
    | extract_lets | split | dsimp -zeta +zetaDelta only
    | exact rfl | exact id | intro _

theorem setErrs_kept {s₀ : State} (x0 : State) (x1 : Nat) (x2 : List (Nat × Nat)) (h0 : Kept s₀ x0) : Kept s₀ (setErrs
    x0 x1 x2) := by
  unfold setErrs
  repeat' first
    | with_reducible first
        | assumption | exact Kept.refl _
    | extract_lets | split | dsimp -zeta +zetaDelta only
    | with_reducible first
        | apply kept_foldl | apply kept_mk
        | exact memWf_put _ _ | exact memWf_write _ _ | exact memWf_stores _ | exact memWf_filter _
    | exact rfl | exact id | intro _

theorem setPoison_kept {s₀ : State} (x0 : State) (x1 : Nat) (x2 : Bool) (h0 : Kept s₀ x0) : Kept s₀ (setPoison x0 x1
    x2) := by
  unfold setPoison
  repeat' first
    | with_reducible first
        | assumption | exact Kept.refl _
    | extract_lets | split | dsimp -zeta +zetaDelta only
    | with_reducible first
        | apply kept_foldl | apply kept_mk
        | exact memWf_put _ _ | exact memWf_write _ _ | exact memWf_stores _ | exact memWf_filter _
    | exact rfl | exact id | intro _

theorem flipApply_kept {s₀ : State} (x0 : State) (x1 : Nat) (x2 : WPath) (h0 : Kept s₀ x0) : Kept s₀ (flipApply x0 x1
    x2) := by
  unfold flipApply
  repeat' first
    | with_reducible first
        | assumption | exact Kept.refl _ | apply setB_kept | apply setPoison_kept | apply setErrs_kept
    | extract_lets | split | dsimp -zeta +zetaDelta only
    | exact rfl | exact id | intro _

theorem colSeal_kept {s₀ : State} (x0 : State) (x1 : Nat) (x2 : List Byte) (x3 : Bool) (h0 : Kept s₀ x0) : Kept s₀
    (colSeal x0 x1 x2 x3) := by
  unfold colSeal
  repeat' first
    | with_reducible first
        | assumption | exact Kept.refl _ | apply setPoison_kept | apply setErrs_kept | apply putPcc_kept
    | extract_lets | split | dsimp -zeta +zetaDelta only
    | with_reducible first
        | apply kept_foldl | apply kept_mk
        | exact memWf_put _ _ | exact memWf_write _ _ | exact memWf_stores _ | exact memWf_filter _
    | exact rfl | exact id | intro _

theorem colMerge_kept {s₀ : State} (x0 : State) (x1 : Nat) (x2 : List Byte) (x3 : Nat) (h0 : Kept s₀ x0) : Kept s₀
    (colMerge x0 x1 x2 x3) := by
  unfold colMerge
  repeat' first
    | with_reducible first
        | assumption | exact Kept.refl _ | apply colSeal_kept | apply colRead_kept | apply setPoison_kept
        | apply setErrs_kept
    | extract_lets | split | dsimp -zeta +zetaDelta only
    | exact rfl | exact id | intro _

theorem colWrite_kept {s₀ : State} (x0 : State) (x1 : Nat) (x2 : List Byte) (h0 : Kept s₀ x0) : Kept s₀ (colWrite x0
    x1 x2) := by
  unfold colWrite
  repeat' first
    | with_reducible first
        | assumption | apply colMerge_kept
    | split

theorem cellsWriteGo_kept {s₀ : State} (x0 : WPath) (x1 : Bool) (x2 : Nat) (x3 : State) (x4 : Nat) (x5 : List Byte)
    (h3 : Kept s₀ x3) : Kept s₀ (cellsWriteGo x0 x1 x2 x3 x4 x5) := by
  induction x2 generalizing x0 x1 x3 x4 x5 with
  | zero =>
    unfold cellsWriteGo
    repeat' first
      | with_reducible first
          | assumption | exact Kept.refl _ | apply colWrite_kept | apply flipApply_kept
      | extract_lets | split | dsimp -zeta +zetaDelta only
      | exact rfl | exact id | intro _
  | succ k ih =>
    unfold cellsWriteGo
    repeat' first
      | with_reducible first
          | assumption | exact Kept.refl _ | apply ih | apply colWrite_kept | apply flipApply_kept
      | extract_lets | split | dsimp -zeta +zetaDelta only
      | exact rfl | exact id | intro _

theorem replayAdd_kept {s₀ : State} (x0 : State) (x1 : Nat) (x2 : ReplayKind) (x3 : Nat) (x4 : Option (Nat × Nat)) (h0
    : Kept s₀ x0) : Kept s₀ (replayAdd x0 x1 x2 x3 x4) := by
  unfold replayAdd
  repeat' first
    | with_reducible first
        | assumption | exact Kept.refl _ | apply putPcc_kept
    | extract_lets | split | dsimp -zeta +zetaDelta only
    | with_reducible first
        | apply kept_foldl | apply kept_mk
    | exact rfl | exact id | intro _

theorem ownAccess_kept {s₀ : State} (x0 : State) (x1 : ReplayKind) (x2 : Nat) (h0 : Kept s₀ x0) : Kept s₀ (ownAccess
    x0 x1 x2) := by
  unfold ownAccess
  repeat' first
    | with_reducible first
        | assumption | exact Kept.refl _ | apply replayAdd_kept | apply putPcc_kept
    | extract_lets | split | dsimp -zeta +zetaDelta only
    | with_reducible first
        | apply kept_foldl | apply kept_mk
    | exact rfl | exact id | intro _

theorem redCols_kept {s₀ : State} (x0 : RedLine) (x1 : Nat) (x2 : State) (h2 : Kept s₀ x2) : Kept s₀ (redCols x0 x1
    x2) := by
  induction x1 generalizing x0 x2 with
  | zero =>
    unfold redCols
    repeat' first
      | with_reducible first
          | assumption | exact Kept.refl _ | apply flipApply_kept | apply colSeal_kept | apply colWrite_kept
      | extract_lets | split | dsimp -zeta +zetaDelta only
      | exact rfl | exact id | intro _
  | succ k ih =>
    unfold redCols
    repeat' first
      | with_reducible first
          | assumption | exact Kept.refl _ | apply ih | apply flipApply_kept | apply colSeal_kept
          | apply colWrite_kept
      | extract_lets | split | dsimp -zeta +zetaDelta only
      | exact rfl | exact id | intro _

theorem redWriteBack_kept {s₀ : State} (x0 : State) (x1 : Nat) (x2 : Nat) (h0 : Kept s₀ x0) : Kept s₀ (redWriteBack x0
    x1 x2) := by
  unfold redWriteBack
  repeat' first
    | with_reducible first
        | assumption | exact Kept.refl _ | apply putPcc_kept | apply redCols_kept | apply ownAccess_kept
    | extract_lets | split | dsimp -zeta +zetaDelta only
    | with_reducible first
        | apply kept_foldl | apply kept_mk
    | exact rfl | exact id | intro _

theorem lineCols_kept {s₀ : State} (x0 : State) (x1 : Nat) (x2 : Nat) (h0 : Kept s₀ x0) : Kept s₀ (lineCols x0 x1
    x2).2.2 := by
  induction x2 generalizing x0 x1 with
  | zero =>
    unfold lineCols
    repeat' first
      | with_reducible first
          | assumption | exact Kept.refl _ | apply colRead_kept
      | extract_lets | split | dsimp -zeta +zetaDelta only
      | exact rfl | exact id | intro _
  | succ k ih =>
    unfold lineCols
    repeat' first
      | with_reducible first
          | assumption | exact Kept.refl _ | apply ih | apply colRead_kept
      | extract_lets | split | dsimp -zeta +zetaDelta only
      | exact rfl | exact id | intro _

theorem redFetch_kept {s₀ : State} (x0 : State) (x1 : Nat) (x2 : Nat) (h0 : Kept s₀ x0) : Kept s₀ (redFetch x0 x1 x2)
    := by
  unfold redFetch
  repeat' first
    | with_reducible first
        | assumption | exact Kept.refl _ | apply redWriteBack_kept | apply lineCols_kept | apply ownAccess_kept
        | apply putPcc_kept
    | extract_lets | split | dsimp -zeta +zetaDelta only
    | with_reducible first
        | apply kept_foldl | apply kept_mk
    | exact rfl | exact id | intro _

theorem redUpd_kept {s₀ : State} (x0 : State) (x1 : Nat) (x2 : Nat) (x3 : RedLine → RedLine) (h0 : Kept s₀ x0) : Kept
    s₀ (redUpd x0 x1 x2 x3) := by
  unfold redUpd
  repeat' first
    | with_reducible first
        | assumption | exact Kept.refl _ | apply putPcc_kept
    | extract_lets | split | dsimp -zeta +zetaDelta only
    | with_reducible first
        | apply kept_foldl | apply kept_mk
    | exact rfl | exact id | intro _

theorem redPut_kept {s₀ : State} (x0 : State) (x1 : Nat) (x2 : Nat) (x3 : Nat) (x4 : List Byte) (h0 : Kept s₀ x0) :
    Kept s₀ (redPut x0 x1 x2 x3 x4) := by
  unfold redPut
  repeat' first
    | with_reducible first
        | assumption | exact Kept.refl _ | apply redUpd_kept
    | extract_lets | split | dsimp -zeta +zetaDelta only
    | with_reducible first
        | apply kept_foldl | apply kept_mk
    | exact rfl | exact id | intro _

theorem sealAt_kept {s₀ : State} (x0 : State) (x1 : Nat) (h0 : Kept s₀ x0) : Kept s₀ (sealAt x0 x1) := by
  unfold sealAt
  repeat' first
    | with_reducible first
        | assumption | exact Kept.refl _ | apply putPcc_kept
    | extract_lets | split | dsimp -zeta +zetaDelta only
    | exact rfl | exact id | intro _

theorem redPoisoned_kept {s₀ : State} (x0 : State) (x1 : Nat) (x2 : Nat) (h0 : Kept s₀ x0) : Kept s₀ (redPoisoned x0
    x1 x2) := by
  unfold redPoisoned
  repeat' first
    | with_reducible first
        | assumption | exact Kept.refl _ | apply elogAdd_kept
    | extract_lets | split | dsimp -zeta +zetaDelta only
    | with_reducible first
        | apply kept_foldl | apply kept_mk
    | exact rfl | exact id | intro _

theorem redLines_kept {s₀ : State} (x0 : State) (x1 : Nat) (x2 : Nat) (x3 : Nat) (x4 : Nat) (h0 : Kept s₀ x0) : Kept
    s₀ (redLines x0 x1 x2 x3 x4) := by
  unfold redLines
  repeat' first
    | with_reducible first
        | assumption | apply redFetch_kept
    | split

theorem redDo_kept {s₀ : State} (x0 : State) (x1 : Nat) (x2 : Nat) (x3 : RedOp) (x4 : Num) (x5 : Nat) (h0 : Kept s₀
    x0) : Kept s₀ (redDo x0 x1 x2 x3 x4 x5) := by
  unfold redDo
  repeat' first
    | with_reducible first
        | assumption | exact Kept.refl _ | apply redLines_kept | apply redPoisoned_kept | apply sealAt_kept
        | apply redPut_kept
    | extract_lets | split | dsimp -zeta +zetaDelta only
    | exact rfl | exact id | intro _

theorem redPoison_kept {s₀ : State} (x0 : State) (x1 : Nat) (h0 : Kept s₀ x0) : Kept s₀ (redPoison x0 x1) := by
  unfold redPoison
  repeat' first
    | with_reducible first
        | assumption | exact Kept.refl _ | apply sealAt_kept | apply redUpd_kept | apply redFetch_kept
    | extract_lets | split | dsimp -zeta +zetaDelta only
    | with_reducible first
        | apply kept_foldl | apply kept_mk
    | exact rfl | exact id | intro _

theorem stagedDo_kept {s₀ : State} (x0 : State) (x1 : Staged) (h0 : Kept s₀ x0) : Kept s₀ (stagedDo x0 x1) := by
  unfold stagedDo
  repeat' first
    | with_reducible first
        | assumption | apply redPoison_kept | apply redDo_kept
    | split

theorem settleLine_kept {s₀ : State} (x0 : State) (x1 : Nat) (h0 : Kept s₀ x0) : Kept s₀ (settleLine x0 x1) := by
  unfold settleLine
  repeat' first
    | with_reducible first
        | assumption | exact Kept.refl _ | apply stagedDo_kept
    | extract_lets | split | dsimp -zeta +zetaDelta only
    | with_reducible first
        | apply kept_foldl | apply kept_foldl_fst | apply kept_foldl_snd | apply kept_foldl_thd | apply kept_mk
        | exact memWf_put _ _ | exact memWf_write _ _ | exact memWf_stores _ | exact memWf_filter _
    | exact rfl | exact id | intro _

theorem redUpdate_kept {s₀ : State} (x0 : State) (x1 : Nat) (x2 : Nat) (x3 : RedOp) (x4 : Num) (x5 : Nat) (h0 : Kept
    s₀ x0) : Kept s₀ (redUpdate x0 x1 x2 x3 x4 x5) := by
  unfold redUpdate
  repeat' first
    | with_reducible first
        | assumption | apply redDo_kept | apply settleLine_kept
    | split

theorem earlySettle_kept {s₀ : State} (x0 : State) (x1 : Nat) (x2 : Nat) (h0 : Kept s₀ x0) : Kept s₀ (earlySettle x0
    x1 x2) := by
  unfold earlySettle
  repeat' first
    | with_reducible first
        | assumption | exact Kept.refl _ | apply settleLine_kept | apply bumpSat_kept | apply elogAdd_kept
    | extract_lets | split | dsimp -zeta +zetaDelta only
    | with_reducible first
        | apply kept_foldl | apply kept_mk
    | exact rfl | exact id | intro _

theorem settleRoom_kept {s₀ : State} (x0 : Nat) (x1 : Staged) (x2 : Nat) (x3 : State) (h3 : Kept s₀ x3) : Kept s₀
    (settleRoom x0 x1 x2 x3) := by
  induction x2 generalizing x0 x1 x3 with
  | zero =>
    unfold settleRoom
    repeat' first
      | with_reducible first
          | assumption | apply earlySettle_kept
      | split
  | succ k ih =>
    unfold settleRoom
    repeat' first
      | with_reducible first
          | assumption | apply ih | apply earlySettle_kept
      | split

theorem arrivalSettle_kept {s₀ : State} (x0 : State) (x1 : Nat) (x2 : Staged) (h0 : Kept s₀ x0) : Kept s₀
    (arrivalSettle x0 x1 x2) := by
  unfold arrivalSettle
  repeat' first
    | with_reducible first
        | assumption | exact Kept.refl _ | apply elogAdd_kept | apply bumpSat_kept | apply stagedDo_kept
    | extract_lets | split | dsimp -zeta +zetaDelta only
    | with_reducible first
        | apply kept_foldl | apply kept_mk
    | exact rfl | exact id | intro _

theorem orderedAccept_kept {s₀ : State} (x0 : State) (x1 : Staged) (h0 : Kept s₀ x0) : Kept s₀ (orderedAccept x0 x1)
    := by
  unfold orderedAccept
  repeat' first
    | with_reducible first
        | assumption | exact Kept.refl _ | apply arrivalSettle_kept | apply settleRoom_kept | apply putPcc_kept
    | extract_lets | split | dsimp -zeta +zetaDelta only
    | with_reducible first
        | apply kept_foldl | apply kept_mk
    | exact rfl | exact id | intro _

theorem pocRead_kept {s₀ : State} (x0 : State) (x1 : Nat) (h0 : Kept s₀ x0) : Kept s₀ (pocRead x0 x1).2 := by
  unfold pocRead
  repeat' first
    | with_reducible first
        | assumption | exact Kept.refl _ | apply settleLine_kept | apply redWriteBack_kept | apply bumpSat_kept
        | apply lineCols_kept
    | extract_lets | split | dsimp -zeta +zetaDelta only
    | with_reducible first
        | apply kept_foldl | apply kept_mk
    | exact rfl | exact id | intro _

theorem pocWrite_kept {s₀ : State} (x0 : State) (x1 : Nat) (x2 : List Byte) (h0 : Kept s₀ x0) : Kept s₀ (pocWrite x0
    x1 x2) := by
  unfold pocWrite
  repeat' first
    | with_reducible first
        | assumption | exact Kept.refl _ | apply settleLine_kept | apply cellsWriteGo_kept
        | apply redWriteBack_kept
    | extract_lets | split | dsimp -zeta +zetaDelta only
    | exact rfl | exact id | intro _

theorem pocPoison_kept {s₀ : State} (x0 : State) (x1 : Nat) (h0 : Kept s₀ x0) : Kept s₀ (pocPoison x0 x1) := by
  unfold pocPoison
  repeat' first
    | with_reducible first
        | assumption | exact Kept.refl _ | apply settleLine_kept | apply redWriteBack_kept | apply flipApply_kept
        | apply colSeal_kept
    | extract_lets | split | dsimp -zeta +zetaDelta only
    | exact rfl | exact id | intro _

theorem reqAdd_kept {s₀ : State} (x0 : State) (x1 : Nat) (x2 : PReq) (h0 : Kept s₀ x0) : Kept s₀ (reqAdd x0 x1 x2) :=
    by
  unfold reqAdd
  repeat' first
    | with_reducible first
        | assumption | exact Kept.refl _ | apply bumpSat_kept | apply putPcc_kept
    | extract_lets | split | dsimp -zeta +zetaDelta only
    | with_reducible first
        | apply kept_foldl | apply kept_mk
    | exact rfl | exact id | intro _

theorem pierAdd_kept {s₀ : State} (x0 : State) (x1 : Nat) (x2 : Bool) (x3 : Bool) (x4 : Bool) (x5 : Nat) (x6 : Nat)
    (h0 : Kept s₀ x0) : Kept s₀ (pierAdd x0 x1 x2 x3 x4 x5 x6) := by
  unfold pierAdd
  repeat' first
    | with_reducible first
        | assumption | exact Kept.refl _ | apply reqAdd_kept
    | extract_lets | split | dsimp -zeta +zetaDelta only
    | with_reducible first
        | apply kept_foldl | apply kept_mk
    | exact rfl | exact id | intro _

theorem pierCharge_kept {s₀ : State} (x0 : State) (x1 : Nat) (x2 : Bool) (x3 : Bool) (x4 : Nat) (x5 : Nat) (h0 : Kept
    s₀ x0) : Kept s₀ (pierCharge x0 x1 x2 x3 x4 x5) := by
  unfold pierCharge
  repeat' first
    | with_reducible first
        | assumption | apply pierAdd_kept
    | split

theorem pierVolatile_kept {s₀ : State} (x0 : State) (x1 : Nat) (x2 : Nat) (x3 : Nat) (h0 : Kept s₀ x0) : Kept s₀
    (pierVolatile x0 x1 x2 x3) := by
  unfold pierVolatile
  repeat' first
    | with_reducible first
        | assumption | apply pierAdd_kept
    | split

theorem redCharge_kept {s₀ : State} (x0 : State) (x1 : Nat) (x2 : Nat) (x3 : Nat) (h0 : Kept s₀ x0) : Kept s₀
    (redCharge x0 x1 x2 x3) := by
  unfold redCharge
  repeat' first
    | with_reducible first
        | assumption | exact Kept.refl _ | apply pierCharge_kept
    | extract_lets | split | dsimp -zeta +zetaDelta only
    | exact rfl | exact id | intro _

theorem areaWrite_kept {s₀ : State} (x0 : Nat) (x1 : List Byte) (x2 : State) (x3 : Nat × Nat) (h2 : Kept s₀ x2) : Kept
    s₀ (areaWrite x0 x1 x2 x3) := by
  unfold areaWrite
  repeat' first
    | with_reducible first
        | assumption | exact Kept.refl _ | apply pocWrite_kept
    | extract_lets | split | dsimp -zeta +zetaDelta only
    | exact rfl | exact id | intro _

theorem jrnlWrite_kept {s₀ : State} (x0 : State) (h0 : Kept s₀ x0) : Kept s₀ (jrnlWrite x0) := by
  unfold jrnlWrite
  repeat' first
    | with_reducible first
        | assumption | exact Kept.refl _ | apply areaWrite_kept
    | extract_lets | split | dsimp -zeta +zetaDelta only
    | with_reducible first
        | apply kept_foldl | apply kept_mk
    | exact rfl | exact id | intro _

theorem expressWord_kept {s₀ : State} (x0 : State) (x1 : Nat) (h0 : Kept s₀ x0) : Kept s₀ (expressWord x0 x1).2.2 :=
    by
  unfold expressWord
  repeat' first
    | with_reducible first
        | assumption | exact Kept.refl _ | apply pierCharge_kept | apply pocRead_kept
    | extract_lets | split | dsimp -zeta +zetaDelta only
    | exact rfl | exact id | intro _

theorem tecAdd_kept {s₀ : State} (x0 : State) (x1 : TecEntry) (h0 : Kept s₀ x0) : Kept s₀ (tecAdd x0 x1) := by
  unfold tecAdd
  repeat' first
    | with_reducible first
        | assumption | exact Kept.refl _ | apply freeWord_kept
    | extract_lets | split | dsimp -zeta +zetaDelta only
    | with_reducible first
        | apply kept_foldl | apply kept_mk
    | exact rfl | exact id | intro _

theorem walkEntry_kept {s₀ : State} (x0 : State) (x1 : Nat) (x2 : Nat) (x3 : Nat) (x4 : Nat) (x5 : Nat) (x6 : Bool)
    (h0 : Kept s₀ x0) : Kept s₀ (walkEntry x0 x1 x2 x3 x4 x5 x6).2.2.2 := by
  unfold walkEntry
  repeat' first
    | with_reducible first
        | assumption | exact Kept.refl _ | apply expressWord_kept | apply freeBit_kept
    | extract_lets | split | dsimp -zeta +zetaDelta only
    | exact rfl | exact id | intro _

theorem walkGo_kept {s₀ : State} (x0 : Nat) (x1 : Nat) (x2 : Nat) (x3 : Nat) (x4 : State) (x5 : Nat) (x6 : Bool) (h4 :
    Kept s₀ x4) : Kept s₀ (walkGo x0 x1 x2 x3 x4 x5 x6).2 := by
  induction x3 generalizing x0 x1 x2 x4 x5 x6 with
  | zero =>
    unfold walkGo
    repeat' first
      | with_reducible first
          | assumption | exact Kept.refl _ | apply walkEntry_kept | apply tecAdd_kept
      | extract_lets | split | dsimp -zeta +zetaDelta only
      | with_reducible first
          | apply kept_foldl | apply kept_mk
      | exact rfl | exact id | intro _
  | succ k ih =>
    unfold walkGo
    repeat' first
      | with_reducible first
          | assumption | exact Kept.refl _ | apply ih | apply walkEntry_kept | apply tecAdd_kept
      | extract_lets | split | dsimp -zeta +zetaDelta only
      | with_reducible first
          | apply kept_foldl | apply kept_mk
      | exact rfl | exact id | intro _

theorem walk_kept {s₀ : State} (x0 : State) (x1 : Nat) (x2 : Ctx) (x3 : Nat) (h0 : Kept s₀ x0) : Kept s₀ (walk x0 x1
    x2 x3).2 := by
  unfold walk
  repeat' first
    | with_reducible first
        | assumption | apply walkGo_kept
    | split

theorem tlbAdd_kept {s₀ : State} (x0 : State) (x1 : TlbHome) (x2 : Nat) (x3 : Page) (h0 : Kept s₀ x0) : Kept s₀
    (tlbAdd x0 x1 x2 x3) := by
  unfold tlbAdd
  repeat' first
    | with_reducible first
        | assumption | exact Kept.refl _ | apply freeWord_kept
    | extract_lets | split | dsimp -zeta +zetaDelta only
    | with_reducible first
        | apply kept_foldl | apply kept_mk
    | exact rfl | exact id | intro _

theorem tlbUse_kept {s₀ : State} (x0 : State) (x1 : TlbHome) (x2 : Nat) (x3 : Nat) (x4 : Tr) (h0 : Kept s₀ x0) : Kept
    s₀ (tlbUse x0 x1 x2 x3 x4).2 := by
  unfold tlbUse
  repeat' first
    | with_reducible first
        | assumption | exact Kept.refl _ | apply freeBit_kept
    | extract_lets | split | dsimp -zeta +zetaDelta only
    | with_reducible first
        | apply kept_foldl | apply kept_mk
    | exact rfl | exact id | intro _

theorem spanTranslate_kept {s₀ : State} (x0 : State) (x1 : Nat) (x2 : Ctx) (x3 : Nat) (x4 : Tr) (h0 : Kept s₀ x0) :
    Kept s₀ (spanTranslate x0 x1 x2 x3 x4).2 := by
  unfold spanTranslate
  repeat' first
    | with_reducible first
        | assumption | exact Kept.refl _ | apply tlbUse_kept | apply bumpF_kept | apply walk_kept
        | apply tlbAdd_kept
    | extract_lets | split | dsimp -zeta +zetaDelta only
    | exact rfl | exact id | intro _

theorem translate_kept {s₀ : State} (x0 : State) (x1 : Nat) (x2 : Nat) (x3 : Nat) (x4 : Nat) (x5 : Nat) (h0 : Kept s₀
    x0) : Kept s₀ (translate x0 x1 x2 x3 x4 x5).2 := by
  unfold translate
  repeat' first
    | with_reducible first
        | assumption | exact Kept.refl _ | apply freeWord_kept | apply tlbUse_kept | apply tlbAdd_kept
        | apply spanTranslate_kept
    | extract_lets | split | dsimp -zeta +zetaDelta only
    | exact rfl | exact id | intro _

theorem tcDrop_kept {s₀ : State} (x0 : State) (x1 : Nat) (x2 : Bool) (x3 : Nat) (h0 : Kept s₀ x0) : Kept s₀ (tcDrop x0
    x1 x2 x3) := by
  unfold tcDrop
  repeat' first
    | with_reducible first
        | assumption | exact Kept.refl _
    | extract_lets | split | dsimp -zeta +zetaDelta only
    | with_reducible first
        | apply kept_foldl | apply kept_mk
        | exact memWf_put _ _ | exact memWf_write _ _ | exact memWf_stores _ | exact memWf_filter _
    | exact rfl | exact id | intro _

theorem tcPut_kept {s₀ : State} (x0 : State) (x1 : TcLine) (h0 : Kept s₀ x0) : Kept s₀ (tcPut x0 x1) := by
  unfold tcPut
  repeat' first
    | with_reducible first
        | assumption | exact Kept.refl _ | apply tcDrop_kept
    | extract_lets | split | dsimp -zeta +zetaDelta only
    | with_reducible first
        | apply kept_foldl | apply kept_mk
        | exact memWf_put _ _ | exact memWf_write _ _ | exact memWf_stores _ | exact memWf_filter _
    | exact rfl | exact id | intro _

theorem tcVisible_kept {s₀ : State} (x0 : Nat) (x1 : List TcWrite) (x2 : List Byte) (x3 : State) (h3 : Kept s₀ x3) :
    Kept s₀ (tcVisible x0 x1 x2 x3).2 := by
  induction x1 generalizing x0 x2 x3 with
  | nil =>
    unfold tcVisible
    repeat' first
      | with_reducible first
          | assumption | exact Kept.refl _ | apply freeBit_kept
      | extract_lets | split | dsimp -zeta +zetaDelta only
      | exact rfl | exact id | intro _
  | cons y r ih =>
    unfold tcVisible
    repeat' first
      | with_reducible first
          | assumption | exact Kept.refl _ | apply ih | apply freeBit_kept
      | extract_lets | split | dsimp -zeta +zetaDelta only
      | exact rfl | exact id | intro _

theorem tcBackCols_kept {s₀ : State} (x0 : TcLine) (x1 : List Byte) (x2 : Nat) (x3 : Nat) (x4 : State) (h4 : Kept s₀
    x4) : Kept s₀ (tcBackCols x0 x1 x2 x3 x4) := by
  induction x3 generalizing x0 x1 x2 x4 with
  | zero =>
    unfold tcBackCols
    repeat' first
      | with_reducible first
          | assumption | exact Kept.refl _ | apply pocPoison_kept | apply settleLine_kept | apply redWriteBack_kept
          | apply colMerge_kept | apply flipApply_kept
      | extract_lets | split | dsimp -zeta +zetaDelta only
      | exact rfl | exact id | intro _
  | succ k ih =>
    unfold tcBackCols
    repeat' first
      | with_reducible first
          | assumption | exact Kept.refl _ | apply ih | apply pocPoison_kept | apply settleLine_kept
          | apply redWriteBack_kept | apply colMerge_kept | apply flipApply_kept
      | extract_lets | split | dsimp -zeta +zetaDelta only
      | exact rfl | exact id | intro _

theorem tcBack_kept {s₀ : State} (x0 : State) (x1 : TcLine) (h0 : Kept s₀ x0) : Kept s₀ (tcBack x0 x1) := by
  unfold tcBack
  repeat' first
    | with_reducible first
        | assumption | exact Kept.refl _ | apply bumpF_kept | apply pierAdd_kept | apply tcBackCols_kept
        | apply tcPut_kept
    | extract_lets | split | dsimp -zeta +zetaDelta only
    | with_reducible first
        | apply kept_foldl | apply kept_mk
    | exact rfl | exact id | intro _

theorem tcRoom_kept {s₀ : State} (x0 : State) (x1 : Nat) (x2 : Nat) (h0 : Kept s₀ x0) : Kept s₀ (tcRoom x0 x1 x2) :=
    by
  unfold tcRoom
  repeat' first
    | with_reducible first
        | assumption | exact Kept.refl _ | apply freeWord_kept | apply tcDrop_kept | apply tcBack_kept
    | extract_lets | split | dsimp -zeta +zetaDelta only
    | exact rfl | exact id | intro _

theorem tcFill_kept {s₀ : State} (x0 : State) (x1 : Nat) (x2 : Bool) (x3 : Nat) (x4 : Nat) (x5 : Bool) (h0 : Kept s₀
    x0) : Kept s₀ (tcFill x0 x1 x2 x3 x4 x5).2 := by
  unfold tcFill
  repeat' first
    | with_reducible first
        | assumption | exact Kept.refl _ | apply bumpF_kept | apply pierCharge_kept | apply pocRead_kept
        | apply tcPut_kept | apply tcRoom_kept
    | extract_lets | split | dsimp -zeta +zetaDelta only
    | with_reducible first
        | apply kept_foldl | apply kept_mk
    | exact rfl | exact id | intro _

theorem tcRead_kept {s₀ : State} (x0 : State) (x1 : Nat) (x2 : Nat) (x3 : Bool) (x4 : Nat) (x5 : Nat) (x6 : Bool) (h0
    : Kept s₀ x0) : Kept s₀ (tcRead x0 x1 x2 x3 x4 x5 x6).2 := by
  unfold tcRead
  repeat' first
    | with_reducible first
        | assumption | exact Kept.refl _ | apply tcFill_kept | apply tcVisible_kept | apply bumpF_kept
    | extract_lets | split | dsimp -zeta +zetaDelta only
    | with_reducible first
        | apply kept_foldl | apply kept_mk
    | exact rfl | exact id | intro _

theorem tcWrite_kept {s₀ : State} (x0 : State) (x1 : Nat) (x2 : Nat) (x3 : Bool) (x4 : Nat) (x5 : Nat) (x6 : Nat) (x7
    : List Byte) (h0 : Kept s₀ x0) : Kept s₀ (tcWrite x0 x1 x2 x3 x4 x5 x6 x7) := by
  unfold tcWrite
  repeat' first
    | with_reducible first
        | assumption | exact Kept.refl _ | apply tcPut_kept | apply bumpF_kept | apply tcFill_kept
        | apply pocWrite_kept
    | extract_lets | split | dsimp -zeta +zetaDelta only
    | exact rfl | exact id | intro _

theorem tcWriteThrough_kept {s₀ : State} (x0 : State) (x1 : Nat) (x2 : Bool) (x3 : Nat) (x4 : Nat) (x5 : Nat) (x6 :
    List Byte) (h0 : Kept s₀ x0) : Kept s₀ (tcWriteThrough x0 x1 x2 x3 x4 x5 x6) := by
  unfold tcWriteThrough
  repeat' first
    | with_reducible first
        | assumption | exact Kept.refl _ | apply pocWrite_kept | apply pierCharge_kept | apply tcPut_kept
    | extract_lets | split | dsimp -zeta +zetaDelta only
    | exact rfl | exact id | intro _

theorem tcJoin_kept {s₀ : State} (x0 : State) (x1 : Nat) (x2 : Bool) (x3 : Nat) (h0 : Kept s₀ x0) : Kept s₀ (tcJoin x0
    x1 x2 x3) := by
  unfold tcJoin
  repeat' first
    | with_reducible first
        | assumption | exact Kept.refl _ | apply tcPut_kept
    | extract_lets | split | dsimp -zeta +zetaDelta only
    | with_reducible first
        | apply kept_foldl | apply kept_mk
    | exact rfl | exact id | intro _

theorem tcRange_kept {s₀ : State} (x0 : State) (x1 : RangeOp) (x2 : Bool) (x3 : Nat) (x4 : Bool) (x5 : Nat) (h0 : Kept
    s₀ x0) : Kept s₀ (tcRange x0 x1 x2 x3 x4 x5) := by
  unfold tcRange
  repeat' first
    | with_reducible first
        | assumption | exact Kept.refl _ | apply bumpF_kept | apply tcBack_kept | apply tcDrop_kept
    | extract_lets | split | dsimp -zeta +zetaDelta only
    | exact rfl | exact id | intro _

theorem tcFlushAll_kept {s₀ : State} (x0 : State) (x1 : Nat) (h0 : Kept s₀ x0) : Kept s₀ (tcFlushAll x0 x1) := by
  unfold tcFlushAll
  repeat' first
    | with_reducible first
        | assumption | exact Kept.refl _ | apply tcBack_kept
    | extract_lets | split | dsimp -zeta +zetaDelta only
    | with_reducible first
        | apply kept_foldl | apply kept_mk
    | exact rfl | exact id | intro _

theorem tcDiscard_kept {s₀ : State} (x0 : State) (x1 : Bool → Nat → Bool) (h0 : Kept s₀ x0) : Kept s₀ (tcDiscard x0
    x1) := by
  unfold tcDiscard
  repeat' first
    | with_reducible first
        | assumption | exact Kept.refl _ | apply bumpF_kept
    | extract_lets | split | dsimp -zeta +zetaDelta only
    | with_reducible first
        | apply kept_foldl | apply kept_mk
        | exact memWf_put _ _ | exact memWf_write _ _ | exact memWf_stores _ | exact memWf_filter _
    | exact rfl | exact id | intro _

theorem hostSpoke_kept {s₀ : State} (x0 : State) (h0 : Kept s₀ x0) : Kept s₀ (hostSpoke x0) := by
  unfold hostSpoke
  repeat' first
    | with_reducible first
        | assumption | exact Kept.refl _
    | extract_lets | split | dsimp -zeta +zetaDelta only
    | with_reducible first
        | apply kept_foldl | apply kept_mk
        | exact memWf_put _ _ | exact memWf_write _ _ | exact memWf_stores _ | exact memWf_filter _
    | exact rfl | exact id | intro _

theorem hostBytes_kept {s₀ : State} (x0 : Nat) (x1 : Option Nat) (x2 : Nat) (x3 : State) (x4 : Nat) (h3 : Kept s₀ x3)
    : Kept s₀ (hostBytes x0 x1 x2 x3 x4).2 := by
  induction x2 generalizing x0 x1 x3 x4 with
  | zero =>
    unfold hostBytes
    repeat' first
      | with_reducible first
          | assumption | exact Kept.refl _ | apply freeByte_kept
      | extract_lets | split | dsimp -zeta +zetaDelta only
      | with_reducible first
          | apply kept_foldl | apply kept_mk
      | exact rfl | exact id | intro _
  | succ k ih =>
    unfold hostBytes
    repeat' first
      | with_reducible first
          | assumption | exact Kept.refl _ | apply ih | apply freeByte_kept
      | extract_lets | split | dsimp -zeta +zetaDelta only
      | with_reducible first
          | apply kept_foldl | apply kept_mk
      | exact rfl | exact id | intro _

theorem lineAccess_kept {s₀ : State} (x0 : State) (x1 : Agent) (x2 : Page) (x3 : Nat) (h0 : Kept s₀ x0) : Kept s₀
    (lineAccess x0 x1 x2 x3).2 := by
  unfold lineAccess
  repeat' first
    | with_reducible first
        | assumption | exact Kept.refl _ | apply pocRead_kept | apply pierCharge_kept | apply pierVolatile_kept
        | apply tcRead_kept
    | extract_lets | split | dsimp -zeta +zetaDelta only
    | exact rfl | exact id | intro _

theorem hostRead_kept {s₀ : State} (x0 : State) (x1 : Nat) (x2 : Option Nat) (x3 : Nat) (x4 : Nat) (h0 : Kept s₀ x0) :
    Kept s₀ (hostRead x0 x1 x2 x3 x4).2 := by
  unfold hostRead
  repeat' first
    | with_reducible first
        | assumption | exact Kept.refl _ | apply hostBytes_kept
    | extract_lets | split | dsimp -zeta +zetaDelta only
    | with_reducible first
        | apply kept_foldl | apply kept_mk
    | exact rfl | exact id | intro _

theorem pageFor_kept {s₀ : State} (x0 : State) (x1 : Agent) (x2 : Option Page) (x3 : Nat) (h0 : Kept s₀ x0) : Kept s₀
    (pageFor x0 x1 x2 x3).2 := by
  unfold pageFor
  repeat' first
    | with_reducible first
        | assumption | apply translate_kept
    | split

theorem readPart_kept {s₀ : State} (x0 : State) (x1 : Agent) (x2 : Option LineMemo) (x3 : Page) (x4 : Nat) (x5 : Nat)
    (h0 : Kept s₀ x0) : Kept s₀ (readPart x0 x1 x2 x3 x4 x5).2.2 := by
  unfold readPart
  repeat' first
    | with_reducible first
        | assumption | exact Kept.refl _ | apply hostRead_kept | apply lineAccess_kept
    | extract_lets | split | dsimp -zeta +zetaDelta only
    | with_reducible first
        | apply kept_foldl | apply kept_mk
    | exact rfl | exact id | intro _

theorem readVaGo_kept {s₀ : State} (x0 : Agent) (x1 : Nat) (x2 : State) (x3 : Option LineMemo) (x4 : Option Page) (x5
    : Nat) (x6 : Nat) (h2 : Kept s₀ x2) : Kept s₀ (readVaGo x0 x1 x2 x3 x4 x5 x6).2.2 := by
  induction x1 generalizing x0 x2 x3 x4 x5 x6 with
  | zero =>
    unfold readVaGo
    repeat' first
      | with_reducible first
          | assumption | exact Kept.refl _ | apply pageFor_kept | apply readPart_kept
      | extract_lets | split | dsimp -zeta +zetaDelta only
      | exact rfl | exact id | intro _
  | succ k ih =>
    unfold readVaGo
    repeat' first
      | with_reducible first
          | assumption | exact Kept.refl _ | apply ih | apply pageFor_kept | apply readPart_kept
      | extract_lets | split | dsimp -zeta +zetaDelta only
      | exact rfl | exact id | intro _

theorem readVa_kept {s₀ : State} (x0 : State) (x1 : Agent) (x2 : Option LineMemo) (x3 : Nat) (x4 : Nat) (h0 : Kept s₀
    x0) : Kept s₀ (readVa x0 x1 x2 x3 x4).2.2 := by
  unfold readVa
  repeat' first
    | with_reducible first
        | assumption | apply readVaGo_kept
    | split

theorem hostPost_kept {s₀ : State} (x0 : State) (x1 : Nat) (x2 : Option Nat) (x3 : Nat) (x4 : List Byte) (h0 : Kept s₀
    x0) : Kept s₀ (hostPost x0 x1 x2 x3 x4) := by
  unfold hostPost
  repeat' first
    | with_reducible first
        | assumption | exact Kept.refl _
    | extract_lets | split | dsimp -zeta +zetaDelta only
    | with_reducible first
        | apply kept_foldl | apply kept_mk
        | exact memWf_put _ _ | exact memWf_write _ _ | exact memWf_stores _ | exact memWf_filter _
    | exact rfl | exact id | intro _

theorem writePart_kept {s₀ : State} (x0 : State) (x1 : Agent) (x2 : Page) (x3 : Nat) (x4 : List Byte) (x5 : Bool) (h0
    : Kept s₀ x0) : Kept s₀ (writePart x0 x1 x2 x3 x4 x5).2 := by
  unfold writePart
  repeat' first
    | with_reducible first
        | assumption | exact Kept.refl _ | apply hostPost_kept | apply tcWriteThrough_kept | apply tcWrite_kept
        | apply tcJoin_kept
    | extract_lets | split | dsimp -zeta +zetaDelta only
    | exact rfl | exact id | intro _

theorem writeVaGo_kept {s₀ : State} (x0 : Agent) (x1 : Nat) (x2 : State) (x3 : Option Page) (x4 : Nat) (x5 : List
    Byte) (x6 : Bool) (h2 : Kept s₀ x2) : Kept s₀ (writeVaGo x0 x1 x2 x3 x4 x5 x6).2 := by
  induction x1 generalizing x0 x2 x3 x4 x5 x6 with
  | zero =>
    unfold writeVaGo
    repeat' first
      | with_reducible first
          | assumption | exact Kept.refl _ | apply pageFor_kept | apply writePart_kept
      | extract_lets | split | dsimp -zeta +zetaDelta only
      | exact rfl | exact id | intro _
  | succ k ih =>
    unfold writeVaGo
    repeat' first
      | with_reducible first
          | assumption | exact Kept.refl _ | apply ih | apply pageFor_kept | apply writePart_kept
      | extract_lets | split | dsimp -zeta +zetaDelta only
      | exact rfl | exact id | intro _

theorem writeVa_kept {s₀ : State} (x0 : State) (x1 : Agent) (x2 : Nat) (x3 : List Byte) (x4 : optParam Bool false) (h0
    : Kept s₀ x0) : Kept s₀ (writeVa x0 x1 x2 x3 x4).2 := by
  unfold writeVa
  repeat' first
    | with_reducible first
        | assumption | apply writeVaGo_kept
    | split

theorem lmWrite_kept {s₀ : State} (x0 : State) (x1 : Nat) (x2 : Nat) (x3 : List Byte) (h0 : Kept s₀ x0) : Kept s₀
    (lmWrite x0 x1 x2 x3) := by
  unfold lmWrite
  repeat' first
    | with_reducible first
        | assumption | exact Kept.refl _
    | extract_lets | split | dsimp -zeta +zetaDelta only
    | with_reducible first
        | apply kept_foldl | apply kept_mk
        | exact memWf_put _ _ | exact memWf_write _ _ | exact memWf_stores _ | exact memWf_filter _
    | exact rfl | exact id | intro _

theorem lmStores_kept {s₀ : State} (x0 : State) (x1 : Nat) (x2 : List (Nat × Nat)) (h0 : Kept s₀ x0) : Kept s₀
    (lmStores x0 x1 x2) := by
  unfold lmStores
  repeat' first
    | with_reducible first
        | assumption | exact Kept.refl _ | apply lmWrite_kept
    | extract_lets | split | dsimp -zeta +zetaDelta only
    | with_reducible first
        | apply kept_foldl | apply kept_foldl_fst | apply kept_foldl_snd | apply kept_foldl_thd | apply kept_mk
    | exact rfl | exact id | intro _

theorem matPutCodes_kept {s₀ : State} (x0 : State) (x1 : Nat) (x2 : Mat) (x3 : Nat) (x4 : List Nat) (h0 : Kept s₀ x0)
    : Kept s₀ (matPutCodes x0 x1 x2 x3 x4) := by
  unfold matPutCodes
  repeat' first
    | with_reducible first
        | assumption | exact Kept.refl _ | apply lmStores_kept
    | extract_lets | split | dsimp -zeta +zetaDelta only
    | with_reducible first
        | apply kept_foldl | apply kept_foldl_fst | apply kept_foldl_snd | apply kept_foldl_thd | apply kept_mk
    | exact rfl | exact id | intro _

theorem matPutScales_kept {s₀ : State} (x0 : State) (x1 : Nat) (x2 : Mat) (x3 : Nat) (x4 : List Nat) (h0 : Kept s₀ x0)
    : Kept s₀ (matPutScales x0 x1 x2 x3 x4) := by
  unfold matPutScales
  repeat' first
    | with_reducible first
        | assumption | apply lmWrite_kept
    | split

theorem matPutRes_kept {s₀ : State} (x0 : State) (x1 : Nat) (x2 : Mat) (x3 : Nat) (x4 : List OpRes) (h0 : Kept s₀ x0)
    : Kept s₀ (matPutRes x0 x1 x2 x3 x4).1 := by
  unfold matPutRes
  repeat' first
    | with_reducible first
        | assumption | exact Kept.refl _ | apply matPutScales_kept | apply matPutCodes_kept
    | extract_lets | split | dsimp -zeta +zetaDelta only
    | exact rfl | exact id | intro _

theorem matPutAll_kept {s₀ : State} (x0 : State) (x1 : Nat) (x2 : Mat) (x3 : List (List OpRes)) (h0 : Kept s₀ x0) :
    Kept s₀ (matPutAll x0 x1 x2 x3).1 := by
  unfold matPutAll
  repeat' first
    | with_reducible first
        | assumption | exact Kept.refl _ | apply matPutRes_kept
    | extract_lets | split | dsimp -zeta +zetaDelta only
    | with_reducible first
        | apply kept_foldl | apply kept_foldl_fst | apply kept_foldl_snd | apply kept_foldl_thd | apply kept_mk
    | exact rfl | exact id | intro _

end Sys2Proof.Machine
end

