-- ==== Sys2Proof/Laws/KeptStreams.lean ====
section
/-!
SUPPORT. One lemma per operation of the queues and the command streams: it keeps what `Kept` names (or holds what `Held` names), where
the state it begins with does.
-/
namespace Sys2Proof.Machine

theorem numevAdd_kept {s₀ : State} (x0 : State) (x1 : Nat) (x2 : Nat) (x3 : NumEv) (h0 : Kept s₀ x0) : Kept s₀
    (numevAdd x0 x1 x2 x3) := by
  unfold numevAdd
  repeat' first
    | with_reducible first
        | assumption | exact Kept.refl _
    | extract_lets | split | dsimp -zeta +zetaDelta only
    | with_reducible first
        | apply kept_foldl | apply kept_mk
    | exact rfl | exact id | intro _

theorem dmaevAdd_kept {s₀ : State} (x0 : State) (x1 : Nat) (x2 : Nat) (x3 : Nat) (x4 : Nat) (x5 : Nat) (x6 : Nat) (h0
    : Kept s₀ x0) : Kept s₀ (dmaevAdd x0 x1 x2 x3 x4 x5 x6) := by
  unfold dmaevAdd
  repeat' first
    | with_reducible first
        | assumption | exact Kept.refl _
    | extract_lets | split | dsimp -zeta +zetaDelta only
    | with_reducible first
        | apply kept_foldl | apply kept_mk
    | exact rfl | exact id | intro _

theorem cmdCount_kept {s₀ : State} (x0 : State) (x1 : Nat) (x2 : QCmd) (h0 : Kept s₀ x0) : Kept s₀ (cmdCount x0 x1 x2)
    := by
  unfold cmdCount
  repeat' first
    | with_reducible first
        | assumption | exact Kept.refl _ | apply dmaevAdd_kept | apply numevAdd_kept
    | extract_lets | split | dsimp -zeta +zetaDelta only
    | exact rfl | exact id | intro _

theorem putItem_kept {s₀ : State} (x0 : State) (x1 : Item) (h0 : Kept s₀ x0) : Kept s₀ (putItem x0 x1) := by
  unfold putItem
  repeat' first
    | with_reducible first
        | assumption | exact Kept.refl _
    | extract_lets | split | dsimp -zeta +zetaDelta only
    | with_reducible first
        | apply kept_foldl | apply kept_mk
    | exact rfl | exact id | intro _

theorem cqPush_kept {s₀ : State} (x0 : State) (x1 : CqRec) (h0 : Kept s₀ x0) : Kept s₀ (cqPush x0 x1) := by
  unfold cqPush
  repeat' first
    | with_reducible first
        | assumption | exact Kept.refl _
    | extract_lets | split | dsimp -zeta +zetaDelta only
    | with_reducible first
        | apply kept_foldl | apply kept_mk
    | exact rfl | exact id | intro _

theorem cqPlace_kept {s₀ : State} (x0 : State) (x1 : Nat) (x2 : CqRec) (h0 : Kept s₀ x0) : Kept s₀ (cqPlace x0 x1 x2)
    := by
  unfold cqPlace
  repeat' first
    | with_reducible first
        | assumption | exact Kept.refl _ | apply cqPush_kept
    | extract_lets | split | dsimp -zeta +zetaDelta only
    | with_reducible first
        | apply kept_foldl | apply kept_mk
    | exact rfl | exact id | intro _

theorem dropStaged_kept {s₀ : State} (x0 : State) (x1 : Nat) (h0 : Kept s₀ x0) : Kept s₀ (dropStaged x0 x1) := by
  unfold dropStaged
  repeat' first
    | with_reducible first
        | assumption | exact Kept.refl _
    | extract_lets | split | dsimp -zeta +zetaDelta only
    | with_reducible first
        | apply kept_foldl | apply kept_mk
        | exact memWf_put _ _ | exact memWf_write _ _ | exact memWf_stores _ | exact memWf_filter _
    | exact rfl | exact id | intro _

theorem stepFailed_kept {s₀ : State} (x0 : State) (x1 : Item) (h0 : Kept s₀ x0) : Kept s₀ (stepFailed x0 x1) := by
  unfold stepFailed
  repeat' first
    | with_reducible first
        | assumption | exact Kept.refl _
    | extract_lets | split | dsimp -zeta +zetaDelta only
    | with_reducible first
        | apply kept_foldl | apply kept_mk
    | exact rfl | exact id | intro _

theorem dropHeld_kept {s₀ : State} (x0 : State) (x1 : Nat) (h0 : Kept s₀ x0) : Kept s₀ (dropHeld x0 x1) := by
  unfold dropHeld
  repeat' first
    | with_reducible first
        | assumption | exact Kept.refl _
    | extract_lets | split | dsimp -zeta +zetaDelta only
    | with_reducible first
        | apply kept_foldl | apply kept_mk
    | exact rfl | exact id | intro _

theorem itemNote_kept {s₀ : State} (x0 : State) (x1 : Item) (x2 : Nat) (h0 : Kept s₀ x0) : Kept s₀ (itemNote x0 x1 x2)
    := by
  unfold itemNote
  repeat' first
    | with_reducible first
        | assumption | exact Kept.refl _ | apply elogAdd_kept
    | extract_lets | split | dsimp -zeta +zetaDelta only
    | with_reducible first
        | apply kept_foldl | apply kept_mk
    | exact rfl | exact id | intro _

theorem itemBad_kept {s₀ : State} (x0 : State) (x1 : Item) (x2 : Nat) (h0 : Kept s₀ x0) : Kept s₀ (itemBad x0 x1 x2)
    := by
  unfold itemBad
  repeat' first
    | with_reducible first
        | assumption | exact Kept.refl _ | apply dropHeld_kept | apply stepFailed_kept | apply itemNote_kept
    | extract_lets | split | dsimp -zeta +zetaDelta only
    | exact rfl | exact id | intro _

theorem itemGone_kept {s₀ : State} (x0 : State) (x1 : Item) (x2 : Nat) (h0 : Kept s₀ x0) : Kept s₀ (itemGone x0 x1 x2)
    := by
  unfold itemGone
  repeat' first
    | with_reducible first
        | assumption | exact Kept.refl _ | apply itemBad_kept | apply cqPlace_kept | apply bumpF_kept
    | extract_lets | split | dsimp -zeta +zetaDelta only
    | with_reducible first
        | apply kept_foldl | apply kept_mk
    | exact rfl | exact id | intro _

theorem itemError_kept {s₀ : State} (x0 : State) (x1 : Nat) (x2 : Nat) (x3 : Nat) (x4 : Nat) (x5 : Nat) (x6 : Nat) (h0
    : Kept s₀ x0) : Kept s₀ (itemError x0 x1 x2 x3 x4 x5 x6) := by
  unfold itemError
  repeat' first
    | with_reducible first
        | assumption | exact Kept.refl _ | apply itemGone_kept | apply dropStaged_kept
    | extract_lets | split | dsimp -zeta +zetaDelta only
    | with_reducible first
        | apply kept_foldl | apply kept_mk
    | exact rfl | exact id | intro _

theorem cadenceLost_kept {s₀ : State} (x0 : State) (h0 : Kept s₀ x0) : Kept s₀ (cadenceLost x0) := by
  unfold cadenceLost
  repeat' first
    | with_reducible first
        | assumption | exact Kept.refl _ | apply setB_kept | apply bumpF_kept
    | extract_lets | split | dsimp -zeta +zetaDelta only
    | with_reducible first
        | apply kept_foldl | apply kept_mk
    | exact rfl | exact id | intro _

theorem firingDropped_kept {s₀ : State} (x0 : State) (x1 : Launch) (h0 : Kept s₀ x0) : Kept s₀ (firingDropped x0 x1)
    := by
  unfold firingDropped
  repeat' first
    | with_reducible first
        | assumption | exact Kept.refl _ | apply cadenceLost_kept | apply bumpF_kept
    | extract_lets | split | dsimp -zeta +zetaDelta only
    | with_reducible first
        | apply kept_foldl | apply kept_mk
    | exact rfl | exact id | intro _

theorem launchDiscard_kept {s₀ : State} (x0 : State) (x1 : Launch) (x2 : Nat) (x3 : Nat) (x4 : Nat) (x5 : Nat) (x6 :
    Nat) (h0 : Kept s₀ x0) : Kept s₀ (launchDiscard x0 x1 x2 x3 x4 x5 x6) := by
  unfold launchDiscard
  repeat' first
    | with_reducible first
        | assumption | apply itemError_kept | apply firingDropped_kept
    | split

theorem blkErrBit_kept {s₀ : State} (x0 : State) (x1 : Nat) (x2 : Nat) (h0 : Kept s₀ x0) : Kept s₀ (blkErrBit x0 x1
    x2) := by
  unfold blkErrBit
  repeat' first
    | with_reducible first
        | assumption | apply setF_kept
    | split

theorem slotError_kept {s₀ : State} (x0 : State) (x1 : Nat) (x2 : Nat) (x3 : Nat) (x4 : Nat) (h0 : Kept s₀ x0) : Kept
    s₀ (slotError x0 x1 x2 x3 x4) := by
  unfold slotError
  repeat' first
    | with_reducible first
        | assumption | exact Kept.refl _ | apply blkErr_kept | apply blkErrBit_kept | apply setF_kept
        | apply setB_kept
    | extract_lets | split | dsimp -zeta +zetaDelta only
    | exact rfl | exact id | intro _

theorem hostReadLost_kept {s₀ : State} (x0 : State) (x1 : Nat) (h0 : Kept s₀ x0) : Kept s₀ (hostReadLost x0 x1) := by
  unfold hostReadLost
  repeat' first
    | with_reducible first
        | assumption | exact Kept.refl _ | apply elogAdd_kept
    | extract_lets | split | dsimp -zeta +zetaDelta only
    | with_reducible first
        | apply kept_foldl | apply kept_mk
    | exact rfl | exact id | intro _

theorem logPoison_kept {s₀ : State} (x0 : State) (x1 : Nat) (x2 : Nat) (x3 : Nat) (x4 : Nat) (h0 : Kept s₀ x0) : Kept
    s₀ (logPoison x0 x1 x2 x3 x4) := by
  unfold logPoison
  repeat' first
    | with_reducible first
        | assumption | exact Kept.refl _ | apply elogAdd_kept
    | extract_lets | split | dsimp -zeta +zetaDelta only
    | with_reducible first
        | apply kept_foldl | apply kept_mk
    | exact rfl | exact id | intro _

theorem specCancel_kept {s₀ : State} (x0 : State) (x1 : Nat) (x2 : List QCmd) (h0 : Kept s₀ x0) : Kept s₀ (specCancel
    x0 x1 x2) := by
  unfold specCancel
  repeat' first
    | with_reducible first
        | assumption | apply bumpF_kept
    | split

theorem holdItem_kept {s₀ : State} (x0 : State) (x1 : Nat) (x2 : Option Launch) (x3 : Nat) (x4 : Nat) (h0 : Kept s₀
    x0) : Kept s₀ (holdItem x0 x1 x2 x3 x4) := by
  unfold holdItem
  repeat' first
    | with_reducible first
        | assumption | exact Kept.refl _ | apply putItem_kept
    | extract_lets | split | dsimp -zeta +zetaDelta only
    | with_reducible first
        | apply kept_foldl | apply kept_mk
    | exact rfl | exact id | intro _

theorem putPart_kept {s₀ : State} (x0 : State) (x1 : Nat) (x2 : CorePart) (h0 : Kept s₀ x0) : Kept s₀ (putPart x0 x1
    x2) := by
  unfold putPart
  repeat' first
    | with_reducible first
        | assumption | exact Kept.refl _ | apply putSlot_kept
    | extract_lets | split | dsimp -zeta +zetaDelta only
    | with_reducible first
        | apply kept_foldl | apply kept_mk
    | exact rfl | exact id | intro _

theorem haltQueue_kept {s₀ : State} (x0 : State) (x1 : Nat) (x2 : Nat) (x3 : Nat) (x4 : Nat) (x5 : Nat) (x6 : Nat) (h0
    : Kept s₀ x0) : Kept s₀ (haltQueue x0 x1 x2 x3 x4 x5 x6) := by
  unfold haltQueue
  repeat' first
    | with_reducible first
        | assumption | exact Kept.refl _ | apply holdItem_kept | apply logPoison_kept | apply specCancel_kept
        | apply slotError_kept | apply dmaevAdd_kept | apply putPart_kept
    | extract_lets | split | dsimp -zeta +zetaDelta only
    | with_reducible first
        | apply kept_foldl | apply kept_mk
    | exact rfl | exact id | intro _

theorem putCmd_kept {s₀ : State} (x0 : State) (x1 : Nat) (x2 : Nat) (x3 : QCmd) (h0 : Kept s₀ x0) : Kept s₀ (putCmd x0
    x1 x2 x3) := by
  unfold putCmd
  repeat' first
    | with_reducible first
        | assumption | apply putQ_kept
    | split

theorem stopCmd_kept {s₀ : State} (x0 : State) (x1 : Nat) (x2 : Nat) (x3 : QCmd) (x4 : Restart) (x5 : Stop) (h0 : Kept
    s₀ x0) : Kept s₀ (stopCmd x0 x1 x2 x3 x4 x5) := by
  unfold stopCmd
  repeat' first
    | with_reducible first
        | assumption | exact Kept.refl _ | apply haltQueue_kept | apply putQ_kept
    | extract_lets | split | dsimp -zeta +zetaDelta only
    | with_reducible first
        | apply kept_foldl | apply kept_mk
    | exact rfl | exact id | intro _

theorem cmdDone_kept {s₀ : State} (x0 : State) (x1 : Nat) (x2 : Nat) (x3 : QCmd) (h0 : Kept s₀ x0) : Kept s₀ (cmdDone
    x0 x1 x2 x3) := by
  unfold cmdDone
  repeat' first
    | with_reducible first
        | assumption | exact Kept.refl _ | apply putCmd_kept
    | extract_lets | split | dsimp -zeta +zetaDelta only
    | with_reducible first
        | apply kept_foldl | apply kept_mk
    | exact rfl | exact id | intro _

theorem faultPush_kept {s₀ : State} (x0 : State) (x1 : Nat) (x2 : FaultRec) (h0 : Kept s₀ x0) : Kept s₀ (faultPush x0
    x1 x2) := by
  unfold faultPush
  repeat' first
    | with_reducible first
        | assumption | exact Kept.refl _ | apply bumpSat_kept
    | extract_lets | split | dsimp -zeta +zetaDelta only
    | with_reducible first
        | apply kept_foldl | apply kept_mk
    | exact rfl | exact id | intro _

theorem takeFault_kept {s₀ : State} (x0 : State) (x1 : Nat) (x2 : Nat) (x3 : PFault) (x4 : Nat) (h0 : Kept s₀ x0) :
    Kept s₀ (takeFault x0 x1 x2 x3 x4) := by
  unfold takeFault
  repeat' first
    | with_reducible first
        | assumption | exact Kept.refl _ | apply putQ_kept | apply faultPush_kept
    | extract_lets | split | dsimp -zeta +zetaDelta only
    | with_reducible first
        | apply kept_foldl | apply kept_mk
    | exact rfl | exact id | intro _

theorem abortLaunches_kept {s₀ : State} (x0 : State) (x1 : Nat) (x2 : Bool) (h0 : Kept s₀ x0) : Kept s₀ (abortLaunches
    x0 x1 x2) := by
  unfold abortLaunches
  repeat' first
    | with_reducible first
        | assumption | exact Kept.refl _ | apply launchDiscard_kept
    | extract_lets | split | dsimp -zeta +zetaDelta only
    | with_reducible first
        | apply kept_foldl | apply kept_foldl_fst | apply kept_foldl_snd | apply kept_foldl_thd | apply kept_mk
    | exact rfl | exact id | intro _

theorem endFaultedSeqs_kept {s₀ : State} (x0 : State) (x1 : Nat) (x2 : Nat) (x3 : Nat) (h0 : Kept s₀ x0) : Kept s₀
    (endFaultedSeqs x0 x1 x2 x3) := by
  unfold endFaultedSeqs
  repeat' first
    | with_reducible first
        | assumption | exact Kept.refl _
    | extract_lets | split | dsimp -zeta +zetaDelta only
    | with_reducible first
        | apply kept_foldl | apply kept_mk
        | exact memWf_put _ _ | exact memWf_write _ _ | exact memWf_stores _ | exact memWf_filter _
    | exact rfl | exact id | intro _

theorem abortSlot_kept {s₀ : State} (x0 : State) (x1 : Nat) (x2 : Bool) (x3 : Bool) (h0 : Kept s₀ x0) : Kept s₀
    (abortSlot x0 x1 x2 x3) := by
  unfold abortSlot
  repeat' first
    | with_reducible first
        | assumption | exact Kept.refl _ | apply specCancel_kept | apply dmaevAdd_kept | apply abortLaunches_kept
        | apply endFaultedSeqs_kept | apply setF_kept | apply putPart_kept
    | extract_lets | split | dsimp -zeta +zetaDelta only
    | with_reducible first
        | apply kept_foldl | apply kept_mk
    | exact rfl | exact id | intro _

theorem performSignal_kept {s₀ : State} (x0 : State) (x1 : Nat) (x2 : Nat) (x3 : QCmd) (h0 : Kept s₀ x0) : Kept s₀
    (performSignal x0 x1 x2 x3) := by
  unfold performSignal
  repeat' first
    | with_reducible first
        | assumption | exact Kept.refl _ | apply sendSignal_kept | apply putItem_kept
    | extract_lets | split | dsimp -zeta +zetaDelta only
    | with_reducible first
        | apply kept_foldl | apply kept_mk
    | exact rfl | exact id | intro _

theorem launchRefuse_kept {s₀ : State} (x0 : State) (x1 : Nat) (x2 : Launch) (x3 : Bool) (h0 : Kept s₀ x0) : Kept s₀
    (launchRefuse x0 x1 x2 x3) := by
  unfold launchRefuse
  repeat' first
    | with_reducible first
        | assumption | exact Kept.refl _ | apply logPoison_kept | apply putPart_kept | apply launchDiscard_kept
        | apply slotError_kept
    | extract_lets | split | dsimp -zeta +zetaDelta only
    | with_reducible first
        | apply kept_foldl | apply kept_mk
    | exact rfl | exact id | intro _

theorem headerRead_kept {s₀ : State} (x0 : State) (x1 : Nat) (x2 : Launch) (h0 : Kept s₀ x0) : Kept s₀ (headerRead x0
    x1 x2) := by
  unfold headerRead
  repeat' first
    | with_reducible first
        | assumption | exact Kept.refl _ | apply launchRefuse_kept | apply readVa_kept | apply putQ_kept
        | apply putPart_kept
    | extract_lets | split | dsimp -zeta +zetaDelta only
    | with_reducible first
        | apply kept_foldl | apply kept_mk
    | exact rfl | exact id | intro _

theorem takeDelivery_kept {s₀ : State} (x0 : State) (x1 : Delivery) (h0 : Kept s₀ x0) : Kept s₀ (takeDelivery x0 x1)
    := by
  unfold takeDelivery
  repeat' first
    | with_reducible first
        | assumption | exact Kept.refl _
    | extract_lets | split | dsimp -zeta +zetaDelta only
    | with_reducible first
        | apply kept_foldl | apply kept_mk
    | exact rfl | exact id | intro _

theorem launchDeliverEffect_kept {s₀ : State} (x0 : Fin 8) (x1 : Fin 16) (x2 : Nat) (x3 : State) (h3 : Kept s₀ x3) :
    Kept s₀ (launchDeliverEffect x0 x1 x2 x3) := by
  unfold launchDeliverEffect
  repeat' first
    | with_reducible first
        | assumption | exact Kept.refl _ | apply headerRead_kept | apply takeDelivery_kept | apply putPart_kept
        | apply launchDiscard_kept | apply putRec_kept
    | extract_lets | split | dsimp -zeta +zetaDelta only
    | with_reducible first
        | apply kept_foldl | apply kept_mk
    | exact rfl | exact id | intro _

theorem execLaunchDeliver_kept {s₀ : State} (x0 : Fin 8) (x1 : Fin 16) (x2 : Nat) (x3 : State) (h3 : Kept s₀ x3) : ∀
    t, execLaunchDeliver x0 x1 x2 x3 = .next t → Kept s₀ t := by
  intro t ht
  unfold execLaunchDeliver at ht
  cases ht
  repeat' first
    | with_reducible first
        | assumption | exact Kept.refl _ | apply clocked_kept | apply launchDeliverEffect_kept
    | extract_lets | split | dsimp -zeta +zetaDelta only
    | exact rfl | exact id | intro _

theorem launchStartEngineEffect_kept {s₀ : State} (x0 : Fin 8) (x1 : Fin 16) (x2 : Fin 4) (x3 : Fin 5) (x4 : State)
    (h4 : Kept s₀ x4) : Kept s₀ (launchStartEngineEffect x0 x1 x2 x3 x4) := by
  unfold launchStartEngineEffect
  repeat' first
    | with_reducible first
        | assumption | exact Kept.refl _ | apply putPart_kept
    | extract_lets | split | dsimp -zeta +zetaDelta only
    | with_reducible first
        | apply kept_foldl | apply kept_mk
    | exact rfl | exact id | intro _

theorem execLaunchStartEngine_kept {s₀ : State} (x0 : Fin 8) (x1 : Fin 16) (x2 : Fin 4) (x3 : Fin 5) (x4 : State) (h4
    : Kept s₀ x4) : ∀ t, execLaunchStartEngine x0 x1 x2 x3 x4 = .next t → Kept s₀ t := by
  intro t ht
  unfold execLaunchStartEngine at ht
  cases ht
  repeat' first
    | with_reducible first
        | assumption | exact Kept.refl _ | apply clocked_kept | apply launchStartEngineEffect_kept
    | extract_lets | split | dsimp -zeta +zetaDelta only
    | exact rfl | exact id | intro _

theorem launchStartSeededEffect_kept {s₀ : State} (x0 : Fin 8) (x1 : Fin 16) (x2 : Fin 4) (x3 : State) (h3 : Kept s₀
    x3) : Kept s₀ (launchStartSeededEffect x0 x1 x2 x3) := by
  unfold launchStartSeededEffect
  repeat' first
    | with_reducible first
        | assumption | exact Kept.refl _ | apply putPart_kept
    | extract_lets | split | dsimp -zeta +zetaDelta only
    | with_reducible first
        | apply kept_foldl | apply kept_mk
    | exact rfl | exact id | intro _

theorem execLaunchStartSeeded_kept {s₀ : State} (x0 : Fin 8) (x1 : Fin 16) (x2 : Fin 4) (x3 : State) (h3 : Kept s₀ x3)
    : ∀ t, execLaunchStartSeeded x0 x1 x2 x3 = .next t → Kept s₀ t := by
  intro t ht
  unfold execLaunchStartSeeded at ht
  cases ht
  repeat' first
    | with_reducible first
        | assumption | exact Kept.refl _ | apply clocked_kept | apply launchStartSeededEffect_kept
    | extract_lets | split | dsimp -zeta +zetaDelta only
    | exact rfl | exact id | intro _

theorem firingOverran_kept {s₀ : State} (x0 : State) (x1 : Nat) (x2 : Nat) (x3 : Nat) (h0 : Kept s₀ x0) : Kept s₀
    (firingOverran x0 x1 x2 x3) := by
  unfold firingOverran
  repeat' first
    | with_reducible first
        | assumption | exact Kept.refl _ | apply cadenceLost_kept | apply irqSrc_kept | apply bumpF_kept
    | extract_lets | split | dsimp -zeta +zetaDelta only
    | with_reducible first
        | apply kept_foldl | apply kept_mk
    | exact rfl | exact id | intro _

theorem stepEnded_kept {s₀ : State} (x0 : State) (x1 : Launch) (h0 : Kept s₀ x0) : Kept s₀ (stepEnded x0 x1) := by
  unfold stepEnded
  repeat' first
    | with_reducible first
        | assumption | exact Kept.refl _
    | extract_lets | split | dsimp -zeta +zetaDelta only
    | with_reducible first
        | apply kept_foldl | apply kept_mk
    | exact rfl | exact id | intro _

theorem itemClose_kept {s₀ : State} (x0 : State) (x1 : Nat) (h0 : Kept s₀ x0) : Kept s₀ (itemClose x0 x1) := by
  unfold itemClose
  repeat' first
    | with_reducible first
        | assumption | apply itemGone_kept
    | split

theorem itemsClose_kept {s₀ : State} (x0 : State) (h0 : Kept s₀ x0) : Kept s₀ (itemsClose x0) := by
  unfold itemsClose
  repeat' first
    | with_reducible first
        | assumption | exact Kept.refl _ | apply itemClose_kept
    | extract_lets | split | dsimp -zeta +zetaDelta only
    | with_reducible first
        | apply kept_foldl | apply kept_mk
    | exact rfl | exact id | intro _

theorem launchReport_kept {s₀ : State} (x0 : State) (x1 : Launch) (h0 : Kept s₀ x0) : Kept s₀ (launchReport x0 x1) :=
    by
  unfold launchReport
  repeat' first
    | with_reducible first
        | assumption | exact Kept.refl _ | apply stepEnded_kept | apply firingOverran_kept | apply itemClose_kept
        | apply putItem_kept
    | extract_lets | split | dsimp -zeta +zetaDelta only
    | with_reducible first
        | apply kept_foldl | apply kept_mk
    | exact rfl | exact id | intro _

theorem launchCompleteEffect_kept {s₀ : State} (x0 : Fin 8) (x1 : Fin 16) (x2 : Fin 4) (x3 : State) (h3 : Kept s₀ x3)
    : Kept s₀ (launchCompleteEffect x0 x1 x2 x3) := by
  unfold launchCompleteEffect
  repeat' first
    | with_reducible first
        | assumption | exact Kept.refl _ | apply launchReport_kept | apply putPart_kept
    | extract_lets | split | dsimp -zeta +zetaDelta only
    | with_reducible first
        | apply kept_foldl | apply kept_mk
    | exact rfl | exact id | intro _

theorem execLaunchComplete_kept {s₀ : State} (x0 : Fin 8) (x1 : Fin 16) (x2 : Fin 4) (x3 : State) (h3 : Kept s₀ x3) :
    ∀ t, execLaunchComplete x0 x1 x2 x3 = .next t → Kept s₀ t := by
  intro t ht
  unfold execLaunchComplete at ht
  cases ht
  repeat' first
    | with_reducible first
        | assumption | exact Kept.refl _ | apply clocked_kept | apply launchCompleteEffect_kept
    | extract_lets | split | dsimp -zeta +zetaDelta only
    | exact rfl | exact id | intro _

theorem fetchBlockEffect_kept {s₀ : State} (x0 : Fin 8) (x1 : Fin 16) (x2 : Fin 4) (x3 : Fin 5) (x4 : State) (h4 :
    Kept s₀ x4) : Kept s₀ (fetchBlockEffect x0 x1 x2 x3 x4) := by
  unfold fetchBlockEffect
  repeat' first
    | with_reducible first
        | assumption | exact Kept.refl _ | apply putQ_kept | apply translate_kept | apply lineAccess_kept
    | extract_lets | split | dsimp -zeta +zetaDelta only
    | with_reducible first
        | apply kept_foldl | apply kept_mk
    | exact rfl | exact id | intro _

theorem execFetchBlock_kept {s₀ : State} (x0 : Fin 8) (x1 : Fin 16) (x2 : Fin 4) (x3 : Fin 5) (x4 : State) (h4 : Kept
    s₀ x4) : ∀ t, execFetchBlock x0 x1 x2 x3 x4 = .next t → Kept s₀ t := by
  intro t ht
  unfold execFetchBlock at ht
  cases ht
  repeat' first
    | with_reducible first
        | assumption | exact Kept.refl _ | apply clocked_kept | apply fetchBlockEffect_kept
    | extract_lets | split | dsimp -zeta +zetaDelta only
    | exact rfl | exact id | intro _

theorem commandDecodeEffect_kept {s₀ : State} (x0 : Fin 8) (x1 : Fin 16) (x2 : Fin 4) (x3 : Fin 5) (x4 : State) (h4 :
    Kept s₀ x4) : Kept s₀ (commandDecodeEffect x0 x1 x2 x3 x4) := by
  unfold commandDecodeEffect
  repeat' first
    | with_reducible first
        | assumption | exact Kept.refl _ | apply putQ_kept
    | extract_lets | split | dsimp -zeta +zetaDelta only
    | with_reducible first
        | apply kept_foldl | apply kept_mk
    | exact rfl | exact id | intro _

theorem execCommandDecode_kept {s₀ : State} (x0 : Fin 8) (x1 : Fin 16) (x2 : Fin 4) (x3 : Fin 5) (x4 : State) (h4 :
    Kept s₀ x4) : ∀ t, execCommandDecode x0 x1 x2 x3 x4 = .next t → Kept s₀ t := by
  intro t ht
  unfold execCommandDecode at ht
  cases ht
  repeat' first
    | with_reducible first
        | assumption | exact Kept.refl _ | apply clocked_kept | apply commandDecodeEffect_kept
    | extract_lets | split | dsimp -zeta +zetaDelta only
    | exact rfl | exact id | intro _

theorem commonDone_kept {s₀ : State} (x0 : State) (x1 : Nat) (x2 : Nat) (x3 : QCmd) (h0 : Kept s₀ x0) : Kept s₀
    (commonDone x0 x1 x2 x3) := by
  unfold commonDone
  repeat' first
    | with_reducible first
        | assumption | apply cmdDone_kept
    | split

theorem predWrite_kept {s₀ : State} (x0 : State) (x1 : Nat) (x2 : Nat) (x3 : QCmd) (x4 : Bool) (h0 : Kept s₀ x0) :
    Kept s₀ (predWrite x0 x1 x2 x3 x4) := by
  unfold predWrite
  repeat' first
    | with_reducible first
        | assumption | apply cmdDone_kept | apply putPart_kept
    | split

theorem waitRetire_kept {s₀ : State} (x0 : State) (x1 : Nat) (x2 : Nat) (x3 : QCmd) (h0 : Kept s₀ x0) : Kept s₀
    (waitRetire x0 x1 x2 x3) := by
  unfold waitRetire
  repeat' first
    | with_reducible first
        | assumption | exact Kept.refl _ | apply cmdDone_kept | apply bumpF_kept | apply wrR_kept
    | extract_lets | split | dsimp -zeta +zetaDelta only
    | with_reducible first
        | apply kept_foldl | apply kept_mk
    | exact rfl | exact id | intro _

theorem commandCompleteEffect_kept {s₀ : State} (x0 : Fin 8) (x1 : Fin 16) (x2 : Fin 4) (x3 : Fin 5) (x4 : State) (h4
    : Kept s₀ x4) : Kept s₀ (commandCompleteEffect x0 x1 x2 x3 x4) := by
  unfold commandCompleteEffect
  repeat' first
    | with_reducible first
        | assumption | exact Kept.refl _ | apply haltQueue_kept | apply cmdCount_kept | apply putQ_kept
        | apply performSignal_kept
    | extract_lets | split | dsimp -zeta +zetaDelta only
    | with_reducible first
        | apply kept_foldl | apply kept_mk
    | exact rfl | exact id | intro _

theorem execCommandComplete_kept {s₀ : State} (x0 : Fin 8) (x1 : Fin 16) (x2 : Fin 4) (x3 : Fin 5) (x4 : State) (h4 :
    Kept s₀ x4) : ∀ t, execCommandComplete x0 x1 x2 x3 x4 = .next t → Kept s₀ t := by
  intro t ht
  unfold execCommandComplete at ht
  cases ht
  repeat' first
    | with_reducible first
        | assumption | exact Kept.refl _ | apply clocked_kept | apply commandCompleteEffect_kept
    | extract_lets | split | dsimp -zeta +zetaDelta only
    | exact rfl | exact id | intro _

theorem signalArrivalEffect_kept {s₀ : State} (x0 : Nat) (x1 : State) (h1 : Kept s₀ x1) : Kept s₀ (signalArrivalEffect
    x0 x1) := by
  unfold signalArrivalEffect
  repeat' first
    | with_reducible first
        | assumption | exact Kept.refl _ | apply landSignal_kept
    | extract_lets | split | dsimp -zeta +zetaDelta only
    | with_reducible first
        | apply kept_foldl | apply kept_mk
    | exact rfl | exact id | intro _

theorem execSignalArrival_kept {s₀ : State} (x0 : Nat) (x1 : State) (h1 : Kept s₀ x1) : ∀ t, execSignalArrival x0 x1 =
    .next t → Kept s₀ t := by
  intro t ht
  unfold execSignalArrival at ht
  cases ht
  repeat' first
    | with_reducible first
        | assumption | exact Kept.refl _ | apply clocked_kept | apply signalArrivalEffect_kept
    | extract_lets | split | dsimp -zeta +zetaDelta only
    | exact rfl | exact id | intro _

theorem onHead_kept {s₀ : State} (x0 : Fin 8) (x1 : Fin 16) (x2 : Fin 4) (x3 : Fin 5) (x4 : Nat) (x5 : State) (x6 :
    Nat → QCmd → State) (h5 : Kept s₀ x5) (h6 : ∀ (y0 : Nat) (y1 : QCmd), Kept s₀ (x6 y0 y1)) : Kept s₀ (onHead x0 x1
    x2 x3 x4 x5 x6) := by
  unfold onHead
  repeat' first
    | with_reducible first
        | assumption | apply h6
    | split

theorem qNopEffect_kept {s₀ : State} (x0 : Fin 8) (x1 : Fin 16) (x2 : Fin 4) (x3 : Fin 5) (x4 : State) (h4 : Kept s₀
    x4) : Kept s₀ (qNopEffect x0 x1 x2 x3 x4) := by
  unfold qNopEffect
  repeat' first
    | with_reducible first
        | assumption | exact Kept.refl _ | apply onHead_kept | apply cmdDone_kept
    | extract_lets | split | dsimp -zeta +zetaDelta only
    | exact rfl | exact id | intro _

theorem execQNop_kept {s₀ : State} (x0 : Fin 8) (x1 : Fin 16) (x2 : Fin 4) (x3 : Fin 5) (x4 : State) (h4 : Kept s₀ x4)
    : ∀ t, execQNop x0 x1 x2 x3 x4 = .next t → Kept s₀ t := by
  intro t ht
  unfold execQNop at ht
  cases ht
  repeat' first
    | with_reducible first
        | assumption | exact Kept.refl _ | apply clocked_kept | apply qNopEffect_kept
    | extract_lets | split | dsimp -zeta +zetaDelta only
    | exact rfl | exact id | intro _

theorem qEndEffect_kept {s₀ : State} (x0 : Fin 8) (x1 : Fin 16) (x2 : Fin 4) (x3 : Fin 5) (x4 : State) (h4 : Kept s₀
    x4) : Kept s₀ (qEndEffect x0 x1 x2 x3 x4) := by
  unfold qEndEffect
  repeat' first
    | with_reducible first
        | assumption | exact Kept.refl _ | apply onHead_kept | apply putPart_kept | apply specCancel_kept
    | extract_lets | split | dsimp -zeta +zetaDelta only
    | with_reducible first
        | apply kept_foldl | apply kept_mk
    | exact rfl | exact id | intro _

theorem execQEnd_kept {s₀ : State} (x0 : Fin 8) (x1 : Fin 16) (x2 : Fin 4) (x3 : Fin 5) (x4 : State) (h4 : Kept s₀ x4)
    : ∀ t, execQEnd x0 x1 x2 x3 x4 = .next t → Kept s₀ t := by
  intro t ht
  unfold execQEnd at ht
  cases ht
  repeat' first
    | with_reducible first
        | assumption | exact Kept.refl _ | apply clocked_kept | apply qEndEffect_kept
    | extract_lets | split | dsimp -zeta +zetaDelta only
    | exact rfl | exact id | intro _

theorem tlWaitEffect_kept {s₀ : State} (x0 : Fin 8) (x1 : Fin 16) (x2 : Fin 4) (x3 : Fin 5) (x4 : State) (h4 : Kept s₀
    x4) : Kept s₀ (tlWaitEffect x0 x1 x2 x3 x4) := by
  unfold tlWaitEffect
  repeat' first
    | with_reducible first
        | assumption | exact Kept.refl _ | apply onHead_kept | apply waitRetire_kept | apply putQ_kept
    | extract_lets | split | dsimp -zeta +zetaDelta only
    | with_reducible first
        | apply kept_foldl | apply kept_mk
    | exact rfl | exact id | intro _

theorem execTlWait_kept {s₀ : State} (x0 : Fin 8) (x1 : Fin 16) (x2 : Fin 4) (x3 : Fin 5) (x4 : State) (h4 : Kept s₀
    x4) : ∀ t, execTlWait x0 x1 x2 x3 x4 = .next t → Kept s₀ t := by
  intro t ht
  unfold execTlWait at ht
  cases ht
  repeat' first
    | with_reducible first
        | assumption | exact Kept.refl _ | apply clocked_kept | apply tlWaitEffect_kept
    | extract_lets | split | dsimp -zeta +zetaDelta only
    | exact rfl | exact id | intro _

theorem tlWaitSatisfiedEffect_kept {s₀ : State} (x0 : Fin 8) (x1 : Fin 16) (x2 : Fin 4) (x3 : Fin 5) (x4 : State) (h4
    : Kept s₀ x4) : Kept s₀ (tlWaitSatisfiedEffect x0 x1 x2 x3 x4) := by
  unfold tlWaitSatisfiedEffect
  repeat' first
    | with_reducible first
        | assumption | exact Kept.refl _ | apply onHead_kept | apply waitRetire_kept | apply putQ_kept
    | extract_lets | split | dsimp -zeta +zetaDelta only
    | with_reducible first
        | apply kept_foldl | apply kept_mk
    | exact rfl | exact id | intro _

theorem execTlWaitSatisfied_kept {s₀ : State} (x0 : Fin 8) (x1 : Fin 16) (x2 : Fin 4) (x3 : Fin 5) (x4 : State) (h4 :
    Kept s₀ x4) : ∀ t, execTlWaitSatisfied x0 x1 x2 x3 x4 = .next t → Kept s₀ t := by
  intro t ht
  unfold execTlWaitSatisfied at ht
  cases ht
  repeat' first
    | with_reducible first
        | assumption | exact Kept.refl _ | apply clocked_kept | apply tlWaitSatisfiedEffect_kept
    | extract_lets | split | dsimp -zeta +zetaDelta only
    | exact rfl | exact id | intro _

theorem waitTimeoutEffect_kept {s₀ : State} (x0 : Fin 8) (x1 : Fin 16) (x2 : Fin 4) (x3 : Fin 5) (x4 : State) (h4 :
    Kept s₀ x4) : Kept s₀ (waitTimeoutEffect x0 x1 x2 x3 x4) := by
  unfold waitTimeoutEffect
  repeat' first
    | with_reducible first
        | assumption | exact Kept.refl _ | apply onHead_kept | apply haltQueue_kept
    | extract_lets | split | dsimp -zeta +zetaDelta only
    | exact rfl | exact id | intro _

theorem execWaitTimeout_kept {s₀ : State} (x0 : Fin 8) (x1 : Fin 16) (x2 : Fin 4) (x3 : Fin 5) (x4 : State) (h4 : Kept
    s₀ x4) : ∀ t, execWaitTimeout x0 x1 x2 x3 x4 = .next t → Kept s₀ t := by
  intro t ht
  unfold execWaitTimeout at ht
  cases ht
  repeat' first
    | with_reducible first
        | assumption | exact Kept.refl _ | apply clocked_kept | apply waitTimeoutEffect_kept
    | extract_lets | split | dsimp -zeta +zetaDelta only
    | exact rfl | exact id | intro _

theorem tlSignalEffect_kept {s₀ : State} (x0 : Fin 8) (x1 : Fin 16) (x2 : Fin 4) (x3 : Fin 5) (x4 : State) (h4 : Kept
    s₀ x4) : Kept s₀ (tlSignalEffect x0 x1 x2 x3 x4) := by
  unfold tlSignalEffect
  repeat' first
    | with_reducible first
        | assumption | exact Kept.refl _ | apply onHead_kept | apply cmdDone_kept
    | extract_lets | split | dsimp -zeta +zetaDelta only
    | exact rfl | exact id | intro _

theorem execTlSignal_kept {s₀ : State} (x0 : Fin 8) (x1 : Fin 16) (x2 : Fin 4) (x3 : Fin 5) (x4 : State) (h4 : Kept s₀
    x4) : ∀ t, execTlSignal x0 x1 x2 x3 x4 = .next t → Kept s₀ t := by
  intro t ht
  unfold execTlSignal at ht
  cases ht
  repeat' first
    | with_reducible first
        | assumption | exact Kept.refl _ | apply clocked_kept | apply tlSignalEffect_kept
    | extract_lets | split | dsimp -zeta +zetaDelta only
    | exact rfl | exact id | intro _

theorem tlSetEffect_kept {s₀ : State} (x0 : Fin 8) (x1 : Fin 16) (x2 : Fin 4) (x3 : Fin 5) (x4 : State) (h4 : Kept s₀
    x4) : Kept s₀ (tlSetEffect x0 x1 x2 x3 x4) := by
  unfold tlSetEffect
  repeat' first
    | with_reducible first
        | assumption | exact Kept.refl _ | apply onHead_kept | apply cmdDone_kept | apply putPart_kept
    | extract_lets | split | dsimp -zeta +zetaDelta only
    | exact rfl | exact id | intro _

theorem execTlSet_kept {s₀ : State} (x0 : Fin 8) (x1 : Fin 16) (x2 : Fin 4) (x3 : Fin 5) (x4 : State) (h4 : Kept s₀
    x4) : ∀ t, execTlSet x0 x1 x2 x3 x4 = .next t → Kept s₀ t := by
  intro t ht
  unfold execTlSet at ht
  cases ht
  repeat' first
    | with_reducible first
        | assumption | exact Kept.refl _ | apply clocked_kept | apply tlSetEffect_kept
    | extract_lets | split | dsimp -zeta +zetaDelta only
    | exact rfl | exact id | intro _

theorem prSetEffect_kept {s₀ : State} (x0 : Fin 8) (x1 : Fin 16) (x2 : Fin 4) (x3 : Fin 5) (x4 : State) (h4 : Kept s₀
    x4) : Kept s₀ (prSetEffect x0 x1 x2 x3 x4) := by
  unfold prSetEffect
  repeat' first
    | with_reducible first
        | assumption | exact Kept.refl _ | apply onHead_kept | apply predWrite_kept
    | extract_lets | split | dsimp -zeta +zetaDelta only
    | exact rfl | exact id | intro _

theorem execPrSet_kept {s₀ : State} (x0 : Fin 8) (x1 : Fin 16) (x2 : Fin 4) (x3 : Fin 5) (x4 : State) (h4 : Kept s₀
    x4) : ∀ t, execPrSet x0 x1 x2 x3 x4 = .next t → Kept s₀ t := by
  intro t ht
  unfold execPrSet at ht
  cases ht
  repeat' first
    | with_reducible first
        | assumption | exact Kept.refl _ | apply clocked_kept | apply prSetEffect_kept
    | extract_lets | split | dsimp -zeta +zetaDelta only
    | exact rfl | exact id | intro _

theorem prCmpEffect_kept {s₀ : State} (x0 : Fin 8) (x1 : Fin 16) (x2 : Fin 4) (x3 : Fin 5) (x4 : State) (h4 : Kept s₀
    x4) : Kept s₀ (prCmpEffect x0 x1 x2 x3 x4) := by
  unfold prCmpEffect
  repeat' first
    | with_reducible first
        | assumption | exact Kept.refl _ | apply onHead_kept | apply haltQueue_kept | apply predWrite_kept
    | extract_lets | split | dsimp -zeta +zetaDelta only
    | exact rfl | exact id | intro _

theorem execPrCmp_kept {s₀ : State} (x0 : Fin 8) (x1 : Fin 16) (x2 : Fin 4) (x3 : Fin 5) (x4 : State) (h4 : Kept s₀
    x4) : ∀ t, execPrCmp x0 x1 x2 x3 x4 = .next t → Kept s₀ t := by
  intro t ht
  unfold execPrCmp at ht
  cases ht
  repeat' first
    | with_reducible first
        | assumption | exact Kept.refl _ | apply clocked_kept | apply prCmpEffect_kept
    | extract_lets | split | dsimp -zeta +zetaDelta only
    | exact rfl | exact id | intro _

theorem prLogicEffect_kept {s₀ : State} (x0 : Fin 8) (x1 : Fin 16) (x2 : Fin 4) (x3 : Fin 5) (x4 : State) (h4 : Kept
    s₀ x4) : Kept s₀ (prLogicEffect x0 x1 x2 x3 x4) := by
  unfold prLogicEffect
  repeat' first
    | with_reducible first
        | assumption | exact Kept.refl _ | apply onHead_kept | apply predWrite_kept
    | extract_lets | split | dsimp -zeta +zetaDelta only
    | exact rfl | exact id | intro _

theorem execPrLogic_kept {s₀ : State} (x0 : Fin 8) (x1 : Fin 16) (x2 : Fin 4) (x3 : Fin 5) (x4 : State) (h4 : Kept s₀
    x4) : ∀ t, execPrLogic x0 x1 x2 x3 x4 = .next t → Kept s₀ t := by
  intro t ht
  unfold execPrLogic at ht
  cases ht
  repeat' first
    | with_reducible first
        | assumption | exact Kept.refl _ | apply clocked_kept | apply prLogicEffect_kept
    | extract_lets | split | dsimp -zeta +zetaDelta only
    | exact rfl | exact id | intro _

theorem prTallyEffect_kept {s₀ : State} (x0 : Fin 8) (x1 : Fin 16) (x2 : Fin 4) (x3 : Fin 5) (x4 : State) (h4 : Kept
    s₀ x4) : Kept s₀ (prTallyEffect x0 x1 x2 x3 x4) := by
  unfold prTallyEffect
  repeat' first
    | with_reducible first
        | assumption | exact Kept.refl _ | apply onHead_kept | apply predWrite_kept
    | extract_lets | split | dsimp -zeta +zetaDelta only
    | exact rfl | exact id | intro _

theorem execPrTally_kept {s₀ : State} (x0 : Fin 8) (x1 : Fin 16) (x2 : Fin 4) (x3 : Fin 5) (x4 : State) (h4 : Kept s₀
    x4) : ∀ t, execPrTally x0 x1 x2 x3 x4 = .next t → Kept s₀ t := by
  intro t ht
  unfold execPrTally at ht
  cases ht
  repeat' first
    | with_reducible first
        | assumption | exact Kept.refl _ | apply clocked_kept | apply prTallyEffect_kept
    | extract_lets | split | dsimp -zeta +zetaDelta only
    | exact rfl | exact id | intro _

theorem slotHaltEffect_kept {s₀ : State} (x0 : Fin 8) (x1 : Fin 16) (x2 : Fin 4) (x3 : Nat) (x4 : Nat) (x5 : State)
    (h5 : Kept s₀ x5) : Kept s₀ (slotHaltEffect x0 x1 x2 x3 x4 x5) := by
  unfold slotHaltEffect
  repeat' first
    | with_reducible first
        | assumption | apply guarded_kept | apply setF_kept
    | split

theorem execSlotHalt_kept {s₀ : State} (x0 : Fin 8) (x1 : Fin 16) (x2 : Fin 4) (x3 : Nat) (x4 : Nat) (x5 : State) (h5
    : Kept s₀ x5) : ∀ t, execSlotHalt x0 x1 x2 x3 x4 x5 = .next t → Kept s₀ t := by
  intro t ht
  unfold execSlotHalt at ht
  cases ht
  repeat' first
    | with_reducible first
        | assumption | exact Kept.refl _ | apply clocked_kept | apply rejectPath_kept | apply slotHaltEffect_kept
    | extract_lets | split | dsimp -zeta +zetaDelta only
    | exact rfl | exact id | intro _

theorem slotResumeEffect_kept {s₀ : State} (x0 : Fin 8) (x1 : Fin 16) (x2 : Fin 4) (x3 : Nat) (x4 : Nat) (x5 : State)
    (h5 : Kept s₀ x5) : Kept s₀ (slotResumeEffect x0 x1 x2 x3 x4 x5) := by
  unfold slotResumeEffect
  repeat' first
    | with_reducible first
        | assumption | exact Kept.refl _ | apply clrBitF_kept | apply putQ_kept | apply guarded_kept
    | extract_lets | split | dsimp -zeta +zetaDelta only
    | with_reducible first
        | apply kept_foldl | apply kept_mk
    | exact rfl | exact id | intro _

theorem execSlotResume_kept {s₀ : State} (x0 : Fin 8) (x1 : Fin 16) (x2 : Fin 4) (x3 : Nat) (x4 : Nat) (x5 : State)
    (h5 : Kept s₀ x5) : ∀ t, execSlotResume x0 x1 x2 x3 x4 x5 = .next t → Kept s₀ t := by
  intro t ht
  unfold execSlotResume at ht
  cases ht
  repeat' first
    | with_reducible first
        | assumption | exact Kept.refl _ | apply clocked_kept | apply rejectPath_kept | apply slotResumeEffect_kept
    | extract_lets | split | dsimp -zeta +zetaDelta only
    | exact rfl | exact id | intro _

theorem tlySignalEffect_kept {s₀ : State} (x0 : Fin 8) (x1 : Fin 16) (x2 : Fin 128) (x3 : Nat) (x4 : Nat) (x5 : State)
    (h5 : Kept s₀ x5) : Kept s₀ (tlySignalEffect x0 x1 x2 x3 x4 x5) := by
  unfold tlySignalEffect
  repeat' first
    | with_reducible first
        | assumption | exact Kept.refl _ | apply reject_kept | apply sendSignal_kept | apply hostSpoke_kept
    | extract_lets | split | dsimp -zeta +zetaDelta only
    | with_reducible first
        | apply kept_foldl | apply kept_mk
    | exact rfl | exact id | intro _

theorem execTlySignal_kept {s₀ : State} (x0 : Fin 8) (x1 : Fin 16) (x2 : Fin 128) (x3 : Nat) (x4 : Nat) (x5 : State)
    (h5 : Kept s₀ x5) : ∀ t, execTlySignal x0 x1 x2 x3 x4 x5 = .next t → Kept s₀ t := by
  intro t ht
  unfold execTlySignal at ht
  cases ht
  repeat' first
    | with_reducible first
        | assumption | exact Kept.refl _ | apply clocked_kept | apply rejectPath_kept | apply guarded_kept
        | apply tlySignalEffect_kept
    | extract_lets | split | dsimp -zeta +zetaDelta only
    | exact rfl | exact id | intro _

theorem numevClear_kept {s₀ : State} (x0 : State) (x1 : Nat) (x2 : Nat → Bool) (h0 : Kept s₀ x0) : Kept s₀ (numevClear
    x0 x1 x2) := by
  unfold numevClear
  repeat' first
    | with_reducible first
        | assumption | exact Kept.refl _
    | extract_lets | split | dsimp -zeta +zetaDelta only
    | with_reducible first
        | apply kept_foldl | apply kept_mk
    | exact rfl | exact id | intro _

theorem execNumevClearAll_kept {s₀ : State} (x0 : Fin 8) (x1 : Nat) (x2 : State) (h2 : Kept s₀ x2) : ∀ t,
    execNumevClearAll x0 x1 x2 = .next t → Kept s₀ t := by
  intro t ht
  unfold execNumevClearAll at ht
  cases ht
  repeat' first
    | with_reducible first
        | assumption | exact Kept.refl _ | apply clocked_kept | apply guarded_kept | apply numevClear_kept
    | extract_lets | split | dsimp -zeta +zetaDelta only
    | exact rfl | exact id | intro _

theorem execNumevClearCtx_kept {s₀ : State} (x0 : Fin 8) (x1 : Nat) (x2 : State) (h2 : Kept s₀ x2) : ∀ t,
    execNumevClearCtx x0 x1 x2 = .next t → Kept s₀ t := by
  intro t ht
  unfold execNumevClearCtx at ht
  cases ht
  repeat' first
    | with_reducible first
        | assumption | exact Kept.refl _ | apply clocked_kept | apply guarded_kept | apply numevClear_kept
    | extract_lets | split | dsimp -zeta +zetaDelta only
    | exact rfl | exact id | intro _

theorem dmaevClear_kept {s₀ : State} (x0 : State) (x1 : Nat) (x2 : Nat → Bool) (h0 : Kept s₀ x0) : Kept s₀ (dmaevClear
    x0 x1 x2) := by
  unfold dmaevClear
  repeat' first
    | with_reducible first
        | assumption | exact Kept.refl _
    | extract_lets | split | dsimp -zeta +zetaDelta only
    | with_reducible first
        | apply kept_foldl | apply kept_mk
    | exact rfl | exact id | intro _

theorem execDmaevClearAll_kept {s₀ : State} (x0 : Fin 8) (x1 : Nat) (x2 : State) (h2 : Kept s₀ x2) : ∀ t,
    execDmaevClearAll x0 x1 x2 = .next t → Kept s₀ t := by
  intro t ht
  unfold execDmaevClearAll at ht
  cases ht
  repeat' first
    | with_reducible first
        | assumption | exact Kept.refl _ | apply clocked_kept | apply guarded_kept | apply dmaevClear_kept
    | extract_lets | split | dsimp -zeta +zetaDelta only
    | exact rfl | exact id | intro _

theorem execDmaevClearCtx_kept {s₀ : State} (x0 : Fin 8) (x1 : Nat) (x2 : State) (h2 : Kept s₀ x2) : ∀ t,
    execDmaevClearCtx x0 x1 x2 = .next t → Kept s₀ t := by
  intro t ht
  unfold execDmaevClearCtx at ht
  cases ht
  repeat' first
    | with_reducible first
        | assumption | exact Kept.refl _ | apply clocked_kept | apply guarded_kept | apply dmaevClear_kept
    | extract_lets | split | dsimp -zeta +zetaDelta only
    | exact rfl | exact id | intro _

theorem scopeChkEnableEffect_kept {s₀ : State} (x0 : Fin 8) (x1 : Fin 16) (x2 : State) (h2 : Kept s₀ x2) : Kept s₀
    (scopeChkEnableEffect x0 x1 x2) := by
  unfold scopeChkEnableEffect
  repeat' first
    | with_reducible first
        | assumption | exact Kept.refl _ | apply setB_kept
    | extract_lets | split | dsimp -zeta +zetaDelta only
    | with_reducible first
        | apply kept_foldl | apply kept_mk
    | exact rfl | exact id | intro _

theorem execScopeChkEnable_kept {s₀ : State} (x0 : Fin 8) (x1 : Fin 16) (x2 : Nat) (x3 : State) (h3 : Kept s₀ x3) : ∀
    t, execScopeChkEnable x0 x1 x2 x3 = .next t → Kept s₀ t := by
  intro t ht
  unfold execScopeChkEnable at ht
  cases ht
  repeat' first
    | with_reducible first
        | assumption | exact Kept.refl _ | apply clocked_kept | apply rejectPath_kept | apply guarded_kept
        | apply scopeChkEnableEffect_kept
    | extract_lets | split | dsimp -zeta +zetaDelta only
    | exact rfl | exact id | intro _

end Sys2Proof.Machine
end

