-- ==== Sys2Proof/Laws/KeptEngines.lean ====
section
/-!
SUPPORT. One lemma per operation of the matrix, vector, load and store engines: it keeps what `Kept` names (or holds what `Held` names), where
the state it begins with does.
-/
namespace Sys2Proof.Machine

theorem mxStoreInt_kept {s₀ : State} (x0 : State) (x1 : Nat) (x2 : Mat) (x3 : List (List Num)) (h0 : Kept s₀ x0) :
    Kept s₀ (mxStoreInt x0 x1 x2 x3) := by
  unfold mxStoreInt
  repeat' first
    | with_reducible first
        | assumption | exact Kept.refl _ | apply lmWrite_kept
    | extract_lets | split | dsimp -zeta +zetaDelta only
    | with_reducible first
        | apply kept_foldl | apply kept_foldl_fst | apply kept_foldl_snd | apply kept_foldl_thd | apply kept_mk
    | exact rfl | exact id | intro _

theorem mxWrite_kept {s₀ : State} (x0 : State) (x1 : Nat) (x2 : QCmd) (h0 : Kept s₀ x0) : Kept s₀ (mxWrite x0 x1 x2).1
    := by
  unfold mxWrite
  repeat' first
    | with_reducible first
        | assumption | exact Kept.refl _ | apply mxStoreInt_kept | apply matPutAll_kept
    | extract_lets | split | dsimp -zeta +zetaDelta only
    | with_reducible first
        | apply kept_foldl | apply kept_mk
    | exact rfl | exact id | intro _

theorem putTile_kept {s₀ : State} (x0 : State) (x1 : Nat) (x2 : Option MxTile) (h0 : Kept s₀ x0) : Kept s₀ (putTile x0
    x1 x2) := by
  unfold putTile
  repeat' first
    | with_reducible first
        | assumption | exact Kept.refl _ | apply putQ_kept
    | extract_lets | split | dsimp -zeta +zetaDelta only
    | with_reducible first
        | apply kept_foldl | apply kept_mk
    | exact rfl | exact id | intro _

theorem mxMmaEffect_kept {s₀ : State} (x0 : Fin 8) (x1 : Fin 16) (x2 : Fin 4) (x3 : State) (h3 : Kept s₀ x3) : Kept s₀
    (mxMmaEffect x0 x1 x2 x3) := by
  unfold mxMmaEffect
  repeat' first
    | with_reducible first
        | assumption | exact Kept.refl _ | apply haltQueue_kept | apply mxWrite_kept | apply putTile_kept
        | apply cmdDone_kept | apply bumpF_kept
    | extract_lets | split | dsimp -zeta +zetaDelta only
    | exact rfl | exact id | intro _

theorem execMxMma_kept {s₀ : State} (x0 : Fin 8) (x1 : Fin 16) (x2 : Fin 4) (x3 : State) (h3 : Kept s₀ x3) : ∀ t,
    execMxMma x0 x1 x2 x3 = .next t → Kept s₀ t := by
  intro t ht
  unfold execMxMma at ht
  cases ht
  repeat' first
    | with_reducible first
        | assumption | exact Kept.refl _ | apply clocked_kept | apply mxMmaEffect_kept
    | extract_lets | split | dsimp -zeta +zetaDelta only
    | exact rfl | exact id | intro _

theorem vxFinish_kept {s₀ : State} (x0 : State) (x1 : Nat) (x2 : QCmd) (x3 : List (List OpRes)) (x4 : Nat) (h0 : Kept
    s₀ x0) : Kept s₀ (vxFinish x0 x1 x2 x3 x4) := by
  unfold vxFinish
  repeat' first
    | with_reducible first
        | assumption | exact Kept.refl _ | apply matPutAll_kept | apply bumpF_kept | apply cmdDone_kept
    | extract_lets | split | dsimp -zeta +zetaDelta only
    | exact rfl | exact id | intro _

theorem vxRun_kept {s₀ : State} (x0 : Fin 8) (x1 : Fin 16) (x2 : Fin 4) (x3 : Nat) (x4 : State) (x5 : Nat → QCmd →
    Words → State) (h4 : Kept s₀ x4) (h5 : ∀ (y0 : Nat) (y1 : QCmd) (y2 : Words), Kept s₀ (x5 y0 y1 y2)) : Kept s₀
    (vxRun x0 x1 x2 x3 x4 x5) := by
  unfold vxRun
  repeat' first
    | with_reducible first
        | assumption | exact Kept.refl _ | apply haltQueue_kept | apply h5
    | extract_lets | split | dsimp -zeta +zetaDelta only
    | exact rfl | exact id | intro _

theorem vxMap1_kept {s₀ : State} (x0 : Fin 8) (x1 : Fin 16) (x2 : Fin 4) (x3 : Nat) (x4 : Nat) (x5 : State) (x6 :
    Words → Num → Num) (h5 : Kept s₀ x5) : Kept s₀ (vxMap1 x0 x1 x2 x3 x4 x5 x6) := by
  unfold vxMap1
  repeat' first
    | with_reducible first
        | assumption | exact Kept.refl _ | apply vxRun_kept | apply vxFinish_kept
    | extract_lets | split | dsimp -zeta +zetaDelta only
    | exact rfl | exact id | intro _

theorem vxMap2_kept {s₀ : State} (x0 : Fin 8) (x1 : Fin 16) (x2 : Fin 4) (x3 : Nat) (x4 : State) (x5 : Words → List
    Num) (x6 : Words → Num → Num → Num) (h4 : Kept s₀ x4) : Kept s₀ (vxMap2 x0 x1 x2 x3 x4 x5 x6) := by
  unfold vxMap2
  repeat' first
    | with_reducible first
        | assumption | exact Kept.refl _ | apply vxRun_kept | apply vxFinish_kept
    | extract_lets | split | dsimp -zeta +zetaDelta only
    | exact rfl | exact id | intro _

theorem vxAddEffect_kept {s₀ : State} (x0 : Fin 8) (x1 : Fin 16) (x2 : Fin 4) (x3 : State) (h3 : Kept s₀ x3) : Kept s₀
    (vxAddEffect x0 x1 x2 x3) := by
  unfold vxAddEffect
  repeat' first
    | with_reducible first
        | assumption | exact Kept.refl _ | apply vxMap2_kept
    | extract_lets | split | dsimp -zeta +zetaDelta only
    | exact rfl | exact id | intro _

theorem execVxAdd_kept {s₀ : State} (x0 : Fin 8) (x1 : Fin 16) (x2 : Fin 4) (x3 : State) (h3 : Kept s₀ x3) : ∀ t,
    execVxAdd x0 x1 x2 x3 = .next t → Kept s₀ t := by
  intro t ht
  unfold execVxAdd at ht
  cases ht
  repeat' first
    | with_reducible first
        | assumption | exact Kept.refl _ | apply clocked_kept | apply vxAddEffect_kept
    | extract_lets | split | dsimp -zeta +zetaDelta only
    | exact rfl | exact id | intro _

theorem vxSubEffect_kept {s₀ : State} (x0 : Fin 8) (x1 : Fin 16) (x2 : Fin 4) (x3 : State) (h3 : Kept s₀ x3) : Kept s₀
    (vxSubEffect x0 x1 x2 x3) := by
  unfold vxSubEffect
  repeat' first
    | with_reducible first
        | assumption | exact Kept.refl _ | apply vxMap2_kept
    | extract_lets | split | dsimp -zeta +zetaDelta only
    | exact rfl | exact id | intro _

theorem execVxSub_kept {s₀ : State} (x0 : Fin 8) (x1 : Fin 16) (x2 : Fin 4) (x3 : State) (h3 : Kept s₀ x3) : ∀ t,
    execVxSub x0 x1 x2 x3 = .next t → Kept s₀ t := by
  intro t ht
  unfold execVxSub at ht
  cases ht
  repeat' first
    | with_reducible first
        | assumption | exact Kept.refl _ | apply clocked_kept | apply vxSubEffect_kept
    | extract_lets | split | dsimp -zeta +zetaDelta only
    | exact rfl | exact id | intro _

theorem vxMulEffect_kept {s₀ : State} (x0 : Fin 8) (x1 : Fin 16) (x2 : Fin 4) (x3 : State) (h3 : Kept s₀ x3) : Kept s₀
    (vxMulEffect x0 x1 x2 x3) := by
  unfold vxMulEffect
  repeat' first
    | with_reducible first
        | assumption | exact Kept.refl _ | apply vxMap2_kept
    | extract_lets | split | dsimp -zeta +zetaDelta only
    | exact rfl | exact id | intro _

theorem execVxMul_kept {s₀ : State} (x0 : Fin 8) (x1 : Fin 16) (x2 : Fin 4) (x3 : State) (h3 : Kept s₀ x3) : ∀ t,
    execVxMul x0 x1 x2 x3 = .next t → Kept s₀ t := by
  intro t ht
  unfold execVxMul at ht
  cases ht
  repeat' first
    | with_reducible first
        | assumption | exact Kept.refl _ | apply clocked_kept | apply vxMulEffect_kept
    | extract_lets | split | dsimp -zeta +zetaDelta only
    | exact rfl | exact id | intro _

theorem vxMinEffect_kept {s₀ : State} (x0 : Fin 8) (x1 : Fin 16) (x2 : Fin 4) (x3 : State) (h3 : Kept s₀ x3) : Kept s₀
    (vxMinEffect x0 x1 x2 x3) := by
  unfold vxMinEffect
  repeat' first
    | with_reducible first
        | assumption | exact Kept.refl _ | apply vxMap2_kept
    | extract_lets | split | dsimp -zeta +zetaDelta only
    | exact rfl | exact id | intro _

theorem execVxMin_kept {s₀ : State} (x0 : Fin 8) (x1 : Fin 16) (x2 : Fin 4) (x3 : State) (h3 : Kept s₀ x3) : ∀ t,
    execVxMin x0 x1 x2 x3 = .next t → Kept s₀ t := by
  intro t ht
  unfold execVxMin at ht
  cases ht
  repeat' first
    | with_reducible first
        | assumption | exact Kept.refl _ | apply clocked_kept | apply vxMinEffect_kept
    | extract_lets | split | dsimp -zeta +zetaDelta only
    | exact rfl | exact id | intro _

theorem vxMaxEffect_kept {s₀ : State} (x0 : Fin 8) (x1 : Fin 16) (x2 : Fin 4) (x3 : State) (h3 : Kept s₀ x3) : Kept s₀
    (vxMaxEffect x0 x1 x2 x3) := by
  unfold vxMaxEffect
  repeat' first
    | with_reducible first
        | assumption | exact Kept.refl _ | apply vxMap2_kept
    | extract_lets | split | dsimp -zeta +zetaDelta only
    | exact rfl | exact id | intro _

theorem execVxMax_kept {s₀ : State} (x0 : Fin 8) (x1 : Fin 16) (x2 : Fin 4) (x3 : State) (h3 : Kept s₀ x3) : ∀ t,
    execVxMax x0 x1 x2 x3 = .next t → Kept s₀ t := by
  intro t ht
  unfold execVxMax at ht
  cases ht
  repeat' first
    | with_reducible first
        | assumption | exact Kept.refl _ | apply clocked_kept | apply vxMaxEffect_kept
    | extract_lets | split | dsimp -zeta +zetaDelta only
    | exact rfl | exact id | intro _

theorem vxAxpyEffect_kept {s₀ : State} (x0 : Fin 8) (x1 : Fin 16) (x2 : Fin 4) (x3 : State) (h3 : Kept s₀ x3) : Kept
    s₀ (vxAxpyEffect x0 x1 x2 x3) := by
  unfold vxAxpyEffect
  repeat' first
    | with_reducible first
        | assumption | exact Kept.refl _ | apply vxMap2_kept
    | extract_lets | split | dsimp -zeta +zetaDelta only
    | exact rfl | exact id | intro _

theorem execVxAxpy_kept {s₀ : State} (x0 : Fin 8) (x1 : Fin 16) (x2 : Fin 4) (x3 : State) (h3 : Kept s₀ x3) : ∀ t,
    execVxAxpy x0 x1 x2 x3 = .next t → Kept s₀ t := by
  intro t ht
  unfold execVxAxpy at ht
  cases ht
  repeat' first
    | with_reducible first
        | assumption | exact Kept.refl _ | apply clocked_kept | apply vxAxpyEffect_kept
    | extract_lets | split | dsimp -zeta +zetaDelta only
    | exact rfl | exact id | intro _

theorem vxFmaEffect_kept {s₀ : State} (x0 : Fin 8) (x1 : Fin 16) (x2 : Fin 4) (x3 : State) (h3 : Kept s₀ x3) : Kept s₀
    (vxFmaEffect x0 x1 x2 x3) := by
  unfold vxFmaEffect
  repeat' first
    | with_reducible first
        | assumption | exact Kept.refl _ | apply vxRun_kept | apply vxFinish_kept
    | extract_lets | split | dsimp -zeta +zetaDelta only
    | exact rfl | exact id | intro _

theorem execVxFma_kept {s₀ : State} (x0 : Fin 8) (x1 : Fin 16) (x2 : Fin 4) (x3 : State) (h3 : Kept s₀ x3) : ∀ t,
    execVxFma x0 x1 x2 x3 = .next t → Kept s₀ t := by
  intro t ht
  unfold execVxFma at ht
  cases ht
  repeat' first
    | with_reducible first
        | assumption | exact Kept.refl _ | apply clocked_kept | apply vxFmaEffect_kept
    | extract_lets | split | dsimp -zeta +zetaDelta only
    | exact rfl | exact id | intro _

theorem vxCvtEffect_kept {s₀ : State} (x0 : Fin 8) (x1 : Fin 16) (x2 : Fin 4) (x3 : State) (h3 : Kept s₀ x3) : Kept s₀
    (vxCvtEffect x0 x1 x2 x3) := by
  unfold vxCvtEffect
  repeat' first
    | with_reducible first
        | assumption | exact Kept.refl _ | apply vxMap1_kept
    | extract_lets | split | dsimp -zeta +zetaDelta only
    | exact rfl | exact id | intro _

theorem execVxCvt_kept {s₀ : State} (x0 : Fin 8) (x1 : Fin 16) (x2 : Fin 4) (x3 : State) (h3 : Kept s₀ x3) : ∀ t,
    execVxCvt x0 x1 x2 x3 = .next t → Kept s₀ t := by
  intro t ht
  unfold execVxCvt at ht
  cases ht
  repeat' first
    | with_reducible first
        | assumption | exact Kept.refl _ | apply clocked_kept | apply vxCvtEffect_kept
    | extract_lets | split | dsimp -zeta +zetaDelta only
    | exact rfl | exact id | intro _

theorem vxFillEffect_kept {s₀ : State} (x0 : Fin 8) (x1 : Fin 16) (x2 : Fin 4) (x3 : State) (h3 : Kept s₀ x3) : Kept
    s₀ (vxFillEffect x0 x1 x2 x3) := by
  unfold vxFillEffect
  repeat' first
    | with_reducible first
        | assumption | exact Kept.refl _ | apply vxRun_kept | apply vxFinish_kept
    | extract_lets | split | dsimp -zeta +zetaDelta only
    | exact rfl | exact id | intro _

theorem execVxFill_kept {s₀ : State} (x0 : Fin 8) (x1 : Fin 16) (x2 : Fin 4) (x3 : State) (h3 : Kept s₀ x3) : ∀ t,
    execVxFill x0 x1 x2 x3 = .next t → Kept s₀ t := by
  intro t ht
  unfold execVxFill at ht
  cases ht
  repeat' first
    | with_reducible first
        | assumption | exact Kept.refl _ | apply clocked_kept | apply vxFillEffect_kept
    | extract_lets | split | dsimp -zeta +zetaDelta only
    | exact rfl | exact id | intro _

theorem vxExp2Effect_kept {s₀ : State} (x0 : Fin 8) (x1 : Fin 16) (x2 : Fin 4) (x3 : State) (h3 : Kept s₀ x3) : Kept
    s₀ (vxExp2Effect x0 x1 x2 x3) := by
  unfold vxExp2Effect
  repeat' first
    | with_reducible first
        | assumption | exact Kept.refl _ | apply vxMap1_kept
    | extract_lets | split | dsimp -zeta +zetaDelta only
    | exact rfl | exact id | intro _

theorem execVxExp2_kept {s₀ : State} (x0 : Fin 8) (x1 : Fin 16) (x2 : Fin 4) (x3 : State) (h3 : Kept s₀ x3) : ∀ t,
    execVxExp2 x0 x1 x2 x3 = .next t → Kept s₀ t := by
  intro t ht
  unfold execVxExp2 at ht
  cases ht
  repeat' first
    | with_reducible first
        | assumption | exact Kept.refl _ | apply clocked_kept | apply vxExp2Effect_kept
    | extract_lets | split | dsimp -zeta +zetaDelta only
    | exact rfl | exact id | intro _

theorem vxLog2Effect_kept {s₀ : State} (x0 : Fin 8) (x1 : Fin 16) (x2 : Fin 4) (x3 : State) (h3 : Kept s₀ x3) : Kept
    s₀ (vxLog2Effect x0 x1 x2 x3) := by
  unfold vxLog2Effect
  repeat' first
    | with_reducible first
        | assumption | exact Kept.refl _ | apply vxMap1_kept
    | extract_lets | split | dsimp -zeta +zetaDelta only
    | exact rfl | exact id | intro _

theorem execVxLog2_kept {s₀ : State} (x0 : Fin 8) (x1 : Fin 16) (x2 : Fin 4) (x3 : State) (h3 : Kept s₀ x3) : ∀ t,
    execVxLog2 x0 x1 x2 x3 = .next t → Kept s₀ t := by
  intro t ht
  unfold execVxLog2 at ht
  cases ht
  repeat' first
    | with_reducible first
        | assumption | exact Kept.refl _ | apply clocked_kept | apply vxLog2Effect_kept
    | extract_lets | split | dsimp -zeta +zetaDelta only
    | exact rfl | exact id | intro _

theorem vxRcpEffect_kept {s₀ : State} (x0 : Fin 8) (x1 : Fin 16) (x2 : Fin 4) (x3 : State) (h3 : Kept s₀ x3) : Kept s₀
    (vxRcpEffect x0 x1 x2 x3) := by
  unfold vxRcpEffect
  repeat' first
    | with_reducible first
        | assumption | exact Kept.refl _ | apply vxMap1_kept
    | extract_lets | split | dsimp -zeta +zetaDelta only
    | exact rfl | exact id | intro _

theorem execVxRcp_kept {s₀ : State} (x0 : Fin 8) (x1 : Fin 16) (x2 : Fin 4) (x3 : State) (h3 : Kept s₀ x3) : ∀ t,
    execVxRcp x0 x1 x2 x3 = .next t → Kept s₀ t := by
  intro t ht
  unfold execVxRcp at ht
  cases ht
  repeat' first
    | with_reducible first
        | assumption | exact Kept.refl _ | apply clocked_kept | apply vxRcpEffect_kept
    | extract_lets | split | dsimp -zeta +zetaDelta only
    | exact rfl | exact id | intro _

theorem vxSqrtEffect_kept {s₀ : State} (x0 : Fin 8) (x1 : Fin 16) (x2 : Fin 4) (x3 : State) (h3 : Kept s₀ x3) : Kept
    s₀ (vxSqrtEffect x0 x1 x2 x3) := by
  unfold vxSqrtEffect
  repeat' first
    | with_reducible first
        | assumption | exact Kept.refl _ | apply vxMap1_kept
    | extract_lets | split | dsimp -zeta +zetaDelta only
    | exact rfl | exact id | intro _

theorem execVxSqrt_kept {s₀ : State} (x0 : Fin 8) (x1 : Fin 16) (x2 : Fin 4) (x3 : State) (h3 : Kept s₀ x3) : ∀ t,
    execVxSqrt x0 x1 x2 x3 = .next t → Kept s₀ t := by
  intro t ht
  unfold execVxSqrt at ht
  cases ht
  repeat' first
    | with_reducible first
        | assumption | exact Kept.refl _ | apply clocked_kept | apply vxSqrtEffect_kept
    | extract_lets | split | dsimp -zeta +zetaDelta only
    | exact rfl | exact id | intro _

theorem vxRsqrtEffect_kept {s₀ : State} (x0 : Fin 8) (x1 : Fin 16) (x2 : Fin 4) (x3 : State) (h3 : Kept s₀ x3) : Kept
    s₀ (vxRsqrtEffect x0 x1 x2 x3) := by
  unfold vxRsqrtEffect
  repeat' first
    | with_reducible first
        | assumption | exact Kept.refl _ | apply vxMap1_kept
    | extract_lets | split | dsimp -zeta +zetaDelta only
    | exact rfl | exact id | intro _

theorem execVxRsqrt_kept {s₀ : State} (x0 : Fin 8) (x1 : Fin 16) (x2 : Fin 4) (x3 : State) (h3 : Kept s₀ x3) : ∀ t,
    execVxRsqrt x0 x1 x2 x3 = .next t → Kept s₀ t := by
  intro t ht
  unfold execVxRsqrt at ht
  cases ht
  repeat' first
    | with_reducible first
        | assumption | exact Kept.refl _ | apply clocked_kept | apply vxRsqrtEffect_kept
    | extract_lets | split | dsimp -zeta +zetaDelta only
    | exact rfl | exact id | intro _

theorem vxActEffect_kept {s₀ : State} (x0 : Fin 8) (x1 : Fin 16) (x2 : Fin 4) (x3 : State) (h3 : Kept s₀ x3) : Kept s₀
    (vxActEffect x0 x1 x2 x3) := by
  unfold vxActEffect
  repeat' first
    | with_reducible first
        | assumption | exact Kept.refl _ | apply vxRun_kept | apply vxFinish_kept
    | extract_lets | split | dsimp -zeta +zetaDelta only
    | exact rfl | exact id | intro _

theorem execVxAct_kept {s₀ : State} (x0 : Fin 8) (x1 : Fin 16) (x2 : Fin 4) (x3 : State) (h3 : Kept s₀ x3) : ∀ t,
    execVxAct x0 x1 x2 x3 = .next t → Kept s₀ t := by
  intro t ht
  unfold execVxAct at ht
  cases ht
  repeat' first
    | with_reducible first
        | assumption | exact Kept.refl _ | apply clocked_kept | apply vxActEffect_kept
    | extract_lets | split | dsimp -zeta +zetaDelta only
    | exact rfl | exact id | intro _

theorem vxReduceRun_kept {s₀ : State} (x0 : Fin 8) (x1 : Fin 16) (x2 : Fin 4) (x3 : Nat) (x4 : State) (x5 : Words →
    List Num → Num) (h4 : Kept s₀ x4) : Kept s₀ (vxReduceRun x0 x1 x2 x3 x4 x5) := by
  unfold vxReduceRun
  repeat' first
    | with_reducible first
        | assumption | exact Kept.refl _ | apply vxRun_kept | apply vxFinish_kept
    | extract_lets | split | dsimp -zeta +zetaDelta only
    | exact rfl | exact id | intro _

theorem vxRsumEffect_kept {s₀ : State} (x0 : Fin 8) (x1 : Fin 16) (x2 : Fin 4) (x3 : State) (h3 : Kept s₀ x3) : Kept
    s₀ (vxRsumEffect x0 x1 x2 x3) := by
  unfold vxRsumEffect
  repeat' first
    | with_reducible first
        | assumption | exact Kept.refl _ | apply vxReduceRun_kept
    | extract_lets | split | dsimp -zeta +zetaDelta only
    | exact rfl | exact id | intro _

theorem execVxRsum_kept {s₀ : State} (x0 : Fin 8) (x1 : Fin 16) (x2 : Fin 4) (x3 : State) (h3 : Kept s₀ x3) : ∀ t,
    execVxRsum x0 x1 x2 x3 = .next t → Kept s₀ t := by
  intro t ht
  unfold execVxRsum at ht
  cases ht
  repeat' first
    | with_reducible first
        | assumption | exact Kept.refl _ | apply clocked_kept | apply vxRsumEffect_kept
    | extract_lets | split | dsimp -zeta +zetaDelta only
    | exact rfl | exact id | intro _

theorem vxRmaxEffect_kept {s₀ : State} (x0 : Fin 8) (x1 : Fin 16) (x2 : Fin 4) (x3 : State) (h3 : Kept s₀ x3) : Kept
    s₀ (vxRmaxEffect x0 x1 x2 x3) := by
  unfold vxRmaxEffect
  repeat' first
    | with_reducible first
        | assumption | exact Kept.refl _ | apply vxReduceRun_kept
    | extract_lets | split | dsimp -zeta +zetaDelta only
    | exact rfl | exact id | intro _

theorem execVxRmax_kept {s₀ : State} (x0 : Fin 8) (x1 : Fin 16) (x2 : Fin 4) (x3 : State) (h3 : Kept s₀ x3) : ∀ t,
    execVxRmax x0 x1 x2 x3 = .next t → Kept s₀ t := by
  intro t ht
  unfold execVxRmax at ht
  cases ht
  repeat' first
    | with_reducible first
        | assumption | exact Kept.refl _ | apply clocked_kept | apply vxRmaxEffect_kept
    | extract_lets | split | dsimp -zeta +zetaDelta only
    | exact rfl | exact id | intro _

theorem vxTrEffect_kept {s₀ : State} (x0 : Fin 8) (x1 : Fin 16) (x2 : Fin 4) (x3 : State) (h3 : Kept s₀ x3) : Kept s₀
    (vxTrEffect x0 x1 x2 x3) := by
  unfold vxTrEffect
  repeat' first
    | with_reducible first
        | assumption | exact Kept.refl _ | apply vxRun_kept | apply matPutCodes_kept | apply cmdDone_kept
        | apply bumpF_kept
    | extract_lets | split | dsimp -zeta +zetaDelta only
    | with_reducible first
        | apply kept_foldl | apply kept_mk
    | exact rfl | exact id | intro _

theorem execVxTr_kept {s₀ : State} (x0 : Fin 8) (x1 : Fin 16) (x2 : Fin 4) (x3 : State) (h3 : Kept s₀ x3) : ∀ t,
    execVxTr x0 x1 x2 x3 = .next t → Kept s₀ t := by
  intro t ht
  unfold execVxTr at ht
  cases ht
  repeat' first
    | with_reducible first
        | assumption | exact Kept.refl _ | apply clocked_kept | apply vxTrEffect_kept
    | extract_lets | split | dsimp -zeta +zetaDelta only
    | exact rfl | exact id | intro _

theorem vxRotEffect_kept {s₀ : State} (x0 : Fin 8) (x1 : Fin 16) (x2 : Fin 4) (x3 : State) (h3 : Kept s₀ x3) : Kept s₀
    (vxRotEffect x0 x1 x2 x3) := by
  unfold vxRotEffect
  repeat' first
    | with_reducible first
        | assumption | exact Kept.refl _ | apply vxRun_kept | apply vxFinish_kept
    | extract_lets | split | dsimp -zeta +zetaDelta only
    | exact rfl | exact id | intro _

theorem execVxRot_kept {s₀ : State} (x0 : Fin 8) (x1 : Fin 16) (x2 : Fin 4) (x3 : State) (h3 : Kept s₀ x3) : ∀ t,
    execVxRot x0 x1 x2 x3 = .next t → Kept s₀ t := by
  intro t ht
  unfold execVxRot at ht
  cases ht
  repeat' first
    | with_reducible first
        | assumption | exact Kept.refl _ | apply clocked_kept | apply vxRotEffect_kept
    | extract_lets | split | dsimp -zeta +zetaDelta only
    | exact rfl | exact id | intro _

theorem vxIaddEffect_kept {s₀ : State} (x0 : Fin 8) (x1 : Fin 16) (x2 : Fin 4) (x3 : State) (h3 : Kept s₀ x3) : Kept
    s₀ (vxIaddEffect x0 x1 x2 x3) := by
  unfold vxIaddEffect
  repeat' first
    | with_reducible first
        | assumption | exact Kept.refl _ | apply vxRun_kept | apply lmWrite_kept | apply cmdDone_kept
        | apply bumpF_kept
    | extract_lets | split | dsimp -zeta +zetaDelta only
    | with_reducible first
        | apply kept_foldl | apply kept_foldl_fst | apply kept_foldl_snd | apply kept_foldl_thd | apply kept_mk
    | exact rfl | exact id | intro _

theorem execVxIadd_kept {s₀ : State} (x0 : Fin 8) (x1 : Fin 16) (x2 : Fin 4) (x3 : State) (h3 : Kept s₀ x3) : ∀ t,
    execVxIadd x0 x1 x2 x3 = .next t → Kept s₀ t := by
  intro t ht
  unfold execVxIadd at ht
  cases ht
  repeat' first
    | with_reducible first
        | assumption | exact Kept.refl _ | apply clocked_kept | apply vxIaddEffect_kept
    | extract_lets | split | dsimp -zeta +zetaDelta only
    | exact rfl | exact id | intro _

theorem mvStart_kept {s₀ : State} (x0 : State) (x1 : Restart) (h0 : Kept s₀ x0) : Kept s₀ (mvStart x0 x1).s := by
  unfold mvStart
  repeat' first
    | with_reducible first
        | assumption | exact Kept.refl _
    | extract_lets | split | dsimp -zeta +zetaDelta only
    | with_reducible first
        | apply kept_foldl | apply kept_mk
    | exact rfl | exact id | intro _

theorem mvStop_kept {s₀ : State} (x0 : Mv) (x1 : Nat) (x2 : Stop) (h0 : Kept s₀ x0.s) : Kept s₀ (mvStop x0 x1 x2).s :=
    by
  unfold mvStop
  repeat' first
    | with_reducible first
        | assumption | exact Kept.refl _
    | extract_lets | split | dsimp -zeta +zetaDelta only
    | with_reducible first
        | apply kept_foldl | apply kept_mk
    | exact rfl | exact id | intro _

theorem mvKeep_kept {s₀ : State} (x0 : Mv) (x1 : Mv) (h0 : Kept s₀ x0.s) (h1 : Kept s₀ x1.s) : Kept s₀ (mvKeep x0
    x1).s := by
  unfold mvKeep
  repeat' first
    | with_reducible first
        | assumption | exact Kept.refl _
    | extract_lets | split | dsimp -zeta +zetaDelta only
    | with_reducible first
        | apply kept_foldl | apply kept_mk
    | exact rfl | exact id | intro _

theorem mvRead_kept {s₀ : State} (x0 : Mv) (x1 : Nat) (x2 : Bool) (h0 : Kept s₀ x0.s) : Kept s₀ (mvRead x0 x1 x2).s :=
    by
  unfold mvRead
  repeat' first
    | with_reducible first
        | assumption | exact Kept.refl _
    | extract_lets | split | dsimp -zeta +zetaDelta only
    | with_reducible first
        | apply kept_foldl | apply kept_mk
    | exact rfl | exact id | intro _

theorem idxGroup_kept {s₀ : State} (x0 : Job) (x1 : Mv) (x2 : Nat) (h1 : Kept s₀ x1.s) : Kept s₀ (idxGroup x0 x1
    x2).2.s := by
  unfold idxGroup
  repeat' first
    | with_reducible first
        | assumption | exact Kept.refl _ | apply mvStop_kept | apply readVa_kept | apply mvRead_kept
    | extract_lets | split | dsimp -zeta +zetaDelta only
    | with_reducible first
        | apply kept_foldl | apply kept_mk
    | exact rfl | exact id | intro _

theorem coordsAt_kept {s₀ : State} (x0 : Job) (x1 : Mv) (x2 : List Nat) (h1 : Kept s₀ x1.s) : Kept s₀ (coordsAt x0 x1
    x2).2.s := by
  unfold coordsAt
  repeat' first
    | with_reducible first
        | assumption | exact Kept.refl _ | apply idxGroup_kept
    | extract_lets | split | dsimp -zeta +zetaDelta only
    | with_reducible first
        | apply kept_foldl | apply kept_mk
    | exact rfl | exact id | intro _

theorem readElem_kept {s₀ : State} (x0 : Job) (x1 : Mv) (x2 : List Int) (h1 : Kept s₀ x1.s) : Kept s₀ (readElem x0 x1
    x2).2.s := by
  unfold readElem
  repeat' first
    | with_reducible first
        | assumption | exact Kept.refl _ | apply mvStop_kept | apply readVa_kept | apply mvRead_kept
    | extract_lets | split | dsimp -zeta +zetaDelta only
    | with_reducible first
        | apply kept_foldl | apply kept_mk
        | exact memWf_put _ _ | exact memWf_write _ _ | exact memWf_stores _ | exact memWf_filter _
    | exact rfl | exact id | intro _

theorem readScale_kept {s₀ : State} (x0 : Job) (x1 : Mv) (x2 : List Int) (h1 : Kept s₀ x1.s) : Kept s₀ (readScale x0
    x1 x2).2.s := by
  unfold readScale
  repeat' first
    | with_reducible first
        | assumption | exact Kept.refl _ | apply mvStop_kept | apply readVa_kept | apply mvRead_kept
    | extract_lets | split | dsimp -zeta +zetaDelta only
    | with_reducible first
        | apply kept_foldl | apply kept_mk
        | exact memWf_put _ _ | exact memWf_write _ _ | exact memWf_stores _ | exact memWf_filter _
    | exact rfl | exact id | intro _

theorem badBlock_kept {s₀ : State} (x0 : Mv) (x1 : Nat) (h0 : Kept s₀ x0.s) : Kept s₀ (badBlock x0 x1).s := by
  unfold badBlock
  repeat' first
    | with_reducible first
        | assumption | exact Kept.refl _
    | extract_lets | split | dsimp -zeta +zetaDelta only
    | with_reducible first
        | apply kept_foldl | apply kept_mk
    | exact rfl | exact id | intro _

theorem fetchEl_kept {s₀ : State} (x0 : Job) (x1 : Mv) (x2 : List Int) (h1 : Kept s₀ x1.s) : Kept s₀ (fetchEl x0 x1
    x2).2.s := by
  unfold fetchEl
  repeat' first
    | with_reducible first
        | assumption | exact Kept.refl _ | apply readElem_kept | apply readScale_kept | apply badBlock_kept
    | extract_lets | split | dsimp -zeta +zetaDelta only
    | with_reducible first
        | apply kept_foldl | apply kept_mk
    | exact rfl | exact id | intro _

theorem fetchOnce_kept {s₀ : State} (x0 : Job) (x1 : Mv) (x2 : List Nat) (x3 : List Int) (h1 : Kept s₀ x1.s) : Kept s₀
    (fetchOnce x0 x1 x2 x3).2.s := by
  unfold fetchOnce
  repeat' first
    | with_reducible first
        | assumption | exact Kept.refl _ | apply fetchEl_kept
    | extract_lets | split | dsimp -zeta +zetaDelta only
    | with_reducible first
        | apply kept_foldl | apply kept_mk
    | exact rfl | exact id | intro _

theorem srcLoad_kept {s₀ : State} (x0 : Job) (x1 : Mv) (x2 : Nat) (h1 : Kept s₀ x1.s) : Kept s₀ (srcLoad x0 x1 x2).2.s
    := by
  unfold srcLoad
  repeat' first
    | with_reducible first
        | assumption | exact Kept.refl _ | apply coordsAt_kept | apply fetchOnce_kept | apply fetchEl_kept
    | extract_lets | split | dsimp -zeta +zetaDelta only
    | with_reducible first
        | apply kept_foldl | apply kept_mk
    | exact rfl | exact id | intro _

theorem srcRun_kept {s₀ : State} (x0 : Job) (x1 : Nat) (x2 : Mv) (x3 : Nat) (h2 : Kept s₀ x2.s) : Kept s₀ (srcRun x0
    x1 x2 x3).2.s := by
  induction x1 generalizing x0 x2 x3 with
  | zero =>
    unfold srcRun
    repeat' first
      | with_reducible first
          | assumption | exact Kept.refl _ | apply srcLoad_kept
      | extract_lets | split | dsimp -zeta +zetaDelta only
      | exact rfl | exact id | intro _
  | succ k ih =>
    unfold srcRun
    repeat' first
      | with_reducible first
          | assumption | exact Kept.refl _ | apply ih | apply srcLoad_kept
      | extract_lets | split | dsimp -zeta +zetaDelta only
      | exact rfl | exact id | intro _

theorem localPut_kept {s₀ : State} (x0 : State) (x1 : Nat) (x2 : Mat) (x3 : Nat) (x4 : Nat) (x5 : List Nat) (h0 : Kept
    s₀ x0) : Kept s₀ (localPut x0 x1 x2 x3 x4 x5) := by
  unfold localPut
  repeat' first
    | with_reducible first
        | assumption | exact Kept.refl _ | apply lmStores_kept
    | extract_lets | split | dsimp -zeta +zetaDelta only
    | with_reducible first
        | apply kept_foldl | apply kept_foldl_fst | apply kept_foldl_snd | apply kept_foldl_thd | apply kept_mk
    | exact rfl | exact id | intro _

theorem loadWrite_kept {s₀ : State} (x0 : Job) (x1 : Mv) (x2 : Nat) (x3 : List SrcEl) (h1 : Kept s₀ x1.s) : Kept s₀
    (loadWrite x0 x1 x2 x3).s := by
  unfold loadWrite
  repeat' first
    | with_reducible first
        | assumption | exact Kept.refl _ | apply localPut_kept | apply lmWrite_kept
    | extract_lets | split | dsimp -zeta +zetaDelta only
    | with_reducible first
        | apply kept_foldl | apply kept_foldl_fst | apply kept_foldl_snd | apply kept_foldl_thd | apply kept_mk
        | exact memWf_put _ _ | exact memWf_write _ _ | exact memWf_stores _ | exact memWf_filter _
    | exact rfl | exact id | intro _

theorem loadGo_kept {s₀ : State} (x0 : Job) (x1 : Nat) (x2 : Mv) (x3 : Nat) (h2 : Kept s₀ x2.s) : Kept s₀ (loadGo x0
    x1 x2 x3).2.s := by
  induction x1 generalizing x0 x2 x3 with
  | zero =>
    unfold loadGo
    repeat' first
      | with_reducible first
          | assumption | exact Kept.refl _ | apply srcRun_kept | apply mvKeep_kept | apply loadWrite_kept
      | extract_lets | split | dsimp -zeta +zetaDelta only
      | exact rfl | exact id | intro _
  | succ k ih =>
    unfold loadGo
    repeat' first
      | with_reducible first
          | assumption | exact Kept.refl _ | apply ih | apply srcRun_kept | apply mvKeep_kept
          | apply loadWrite_kept
      | extract_lets | split | dsimp -zeta +zetaDelta only
      | exact rfl | exact id | intro _

theorem writeStop_kept {s₀ : State} (x0 : Job) (x1 : Mv) (x2 : Nat) (h1 : Kept s₀ x1.s) : Kept s₀ (writeStop x0 x1
    x2).2.s := by
  unfold writeStop
  repeat' first
    | with_reducible first
        | assumption | exact Kept.refl _ | apply translate_kept
    | extract_lets | split | dsimp -zeta +zetaDelta only
    | with_reducible first
        | apply kept_foldl | apply kept_mk
    | exact rfl | exact id | intro _

theorem writeStops_kept {s₀ : State} (x0 : Job) (x1 : Mv) (x2 : Nat) (x3 : Nat) (h1 : Kept s₀ x1.s) : Kept s₀
    (writeStops x0 x1 x2 x3).2.s := by
  unfold writeStops
  repeat' first
    | with_reducible first
        | assumption | exact Kept.refl _ | apply writeStop_kept
    | extract_lets | split | dsimp -zeta +zetaDelta only
    | exact rfl | exact id | intro _

theorem storeBytes_kept {s₀ : State} (x0 : Job) (x1 : Mv) (x2 : Nat) (x3 : Nat) (x4 : List Byte) (h1 : Kept s₀ x1.s) :
    Kept s₀ (storeBytes x0 x1 x2 x3 x4).s := by
  unfold storeBytes
  repeat' first
    | with_reducible first
        | assumption | exact Kept.refl _ | apply writeVa_kept | apply mvStop_kept
    | extract_lets | split | dsimp -zeta +zetaDelta only
    | with_reducible first
        | apply kept_foldl | apply kept_mk
        | exact memWf_put _ _ | exact memWf_write _ _ | exact memWf_stores _ | exact memWf_filter _
    | exact rfl | exact id | intro _

theorem storeMerge_kept {s₀ : State} (x0 : Job) (x1 : Mv) (x2 : Nat) (x3 : Nat) (x4 : Nat) (x5 : Nat) (x6 : List Nat)
    (h1 : Kept s₀ x1.s) : Kept s₀ (storeMerge x0 x1 x2 x3 x4 x5 x6).s := by
  unfold storeMerge
  repeat' first
    | with_reducible first
        | assumption | exact Kept.refl _ | apply readVa_kept | apply mvStop_kept | apply storeBytes_kept
        | apply mvRead_kept
    | extract_lets | split | dsimp -zeta +zetaDelta only
    | with_reducible first
        | apply kept_foldl | apply kept_mk
    | exact rfl | exact id | intro _

theorem storeGroup_kept {s₀ : State} (x0 : Job) (x1 : Mv) (x2 : List Int) (x3 : List Nat) (h1 : Kept s₀ x1.s) : Kept
    s₀ (storeGroup x0 x1 x2 x3).s := by
  unfold storeGroup
  repeat' first
    | with_reducible first
        | assumption | exact Kept.refl _ | apply mvStop_kept | apply writeStops_kept | apply storeBytes_kept
        | apply storeMerge_kept
    | extract_lets | split | dsimp -zeta +zetaDelta only
    | exact rfl | exact id | intro _

theorem storeScale_kept {s₀ : State} (x0 : Job) (x1 : Mv) (x2 : List Int) (x3 : Nat) (h1 : Kept s₀ x1.s) : Kept s₀
    (storeScale x0 x1 x2 x3).s := by
  unfold storeScale
  repeat' first
    | with_reducible first
        | assumption | exact Kept.refl _ | apply mvStop_kept | apply storeBytes_kept
    | extract_lets | split | dsimp -zeta +zetaDelta only
    | exact rfl | exact id | intro _

theorem localBad_kept {s₀ : State} (x0 : Job) (x1 : Mv) (x2 : Nat) (x3 : Nat × Nat) (h1 : Kept s₀ x1.s) : Kept s₀
    (localBad x0 x1 x2 x3).s := by
  unfold localBad
  repeat' first
    | with_reducible first
        | assumption | exact Kept.refl _ | apply badBlock_kept
    | extract_lets | split | dsimp -zeta +zetaDelta only
    | exact rfl | exact id | intro _

theorem blockValNext_kept {s₀ : State} (x0 : Job) (x1 : Nat) (x2 : Nat) (x3 : List Int) (x4 : Nat) (x5 : List (Num ×
    Num) × Mv) (h5 : Kept s₀ x5.2.s) : Kept s₀ (blockValNext x0 x1 x2 x3 x4 x5).2.s := by
  unfold blockValNext
  repeat' first
    | with_reducible first
        | assumption | exact Kept.refl _ | apply mvStop_kept | apply localBad_kept | apply fetchEl_kept
    | extract_lets | split | dsimp -zeta +zetaDelta only
    | with_reducible first
        | apply kept_foldl | apply kept_mk
    | exact rfl | exact id | intro _

theorem blockVals_kept {s₀ : State} (x0 : Job) (x1 : Nat) (x2 : Nat) (x3 : List Int) (x4 : Nat) (x5 : Mv) (h5 : Kept
    s₀ x5.s) : Kept s₀ (blockVals x0 x1 x2 x3 x4 x5).2.s := by
  induction x4 generalizing x0 x1 x2 x3 x5 with
  | zero =>
    unfold blockVals
    repeat' first
      | with_reducible first
          | assumption | apply blockValNext_kept
      | split
  | succ k ih =>
    unfold blockVals
    repeat' first
      | with_reducible first
          | assumption | apply ih | apply blockValNext_kept
      | split

theorem blockOnce_kept {s₀ : State} (x0 : Job) (x1 : Nat) (x2 : Nat) (x3 : List Int) (x4 : Nat) (x5 : Mv) (h5 : Kept
    s₀ x5.s) : Kept s₀ (blockOnce x0 x1 x2 x3 x4 x5).2.s := by
  unfold blockOnce
  repeat' first
    | with_reducible first
        | assumption | exact Kept.refl _ | apply blockVals_kept
    | extract_lets | split | dsimp -zeta +zetaDelta only
    | with_reducible first
        | apply kept_foldl | apply kept_mk
    | exact rfl | exact id | intro _

theorem rewriteOld_kept {s₀ : State} (x0 : Job) (x1 : Nat) (x2 : List Int) (x3 : List Nat) (x4 : Nat) (x5 : Mv) (h5 :
    Kept s₀ x5.s) : Kept s₀ (rewriteOld x0 x1 x2 x3 x4 x5).s := by
  induction x4 generalizing x0 x1 x2 x3 x5 with
  | zero =>
    unfold rewriteOld
    repeat' first
      | with_reducible first
          | assumption | exact Kept.refl _ | apply storeGroup_kept
      | extract_lets | split | dsimp -zeta +zetaDelta only
      | exact rfl | exact id | intro _
  | succ k ih =>
    unfold rewriteOld
    repeat' first
      | with_reducible first
          | assumption | exact Kept.refl _ | apply ih | apply storeGroup_kept
      | extract_lets | split | dsimp -zeta +zetaDelta only
      | exact rfl | exact id | intro _

theorem finishStop_kept {s₀ : State} (x0 : Job) (x1 : Nat) (x2 : List Int) (x3 : Nat) (x4 : Mv) (h4 : Kept s₀ x4.s) :
    Kept s₀ (finishStop x0 x1 x2 x3 x4).s := by
  induction x3 generalizing x0 x1 x2 x4 with
  | zero =>
    unfold finishStop
    repeat' first
      | with_reducible first
          | assumption | exact Kept.refl _ | apply writeStop_kept | apply mvStop_kept | apply writeStops_kept
      | extract_lets | split | dsimp -zeta +zetaDelta only
      | exact rfl | exact id | intro _
  | succ k ih =>
    unfold finishStop
    repeat' first
      | with_reducible first
          | assumption | exact Kept.refl _ | apply ih | apply writeStop_kept | apply mvStop_kept
          | apply writeStops_kept
      | extract_lets | split | dsimp -zeta +zetaDelta only
      | exact rfl | exact id | intro _

theorem storeIssue_kept {s₀ : State} (x0 : Job) (x1 : Mv) (x2 : List Int) (x3 : List Nat) (x4 : Option (Nat × Stop))
    (h1 : Kept s₀ x1.s) : Kept s₀ (storeIssue x0 x1 x2 x3 x4).2.s := by
  unfold storeIssue
  repeat' first
    | with_reducible first
        | assumption | exact Kept.refl _ | apply storeGroup_kept | apply mvStop_kept
    | extract_lets | split | dsimp -zeta +zetaDelta only
    | exact rfl | exact id | intro _

theorem storeBlock_kept {s₀ : State} (x0 : Job) (x1 : Mv) (x2 : Nat) (x3 : List Int) (x4 : Nat) (h1 : Kept s₀ x1.s) :
    Kept s₀ (storeBlock x0 x1 x2 x3 x4).2.s := by
  unfold storeBlock
  repeat' first
    | with_reducible first
        | assumption | exact Kept.refl _ | apply blockOnce_kept | apply finishStop_kept | apply storeIssue_kept
        | apply rewriteOld_kept | apply storeScale_kept
    | extract_lets | split | dsimp -zeta +zetaDelta only
    | with_reducible first
        | apply kept_foldl | apply kept_foldl_fst | apply kept_foldl_snd | apply kept_foldl_thd | apply kept_mk
        | exact memWf_put _ _ | exact memWf_write _ _ | exact memWf_stores _ | exact memWf_filter _
    | exact rfl | exact id | intro _

theorem storeCode_kept {s₀ : State} (x0 : Job) (x1 : Mv) (x2 : Nat) (h1 : Kept s₀ x1.s) : ∀ t,
    storeCode x0 x1 x2 = some t → Kept s₀ t.2.2.s := by
  intro t ht
  unfold storeCode at ht
  split at ht
  · cases ht
  · split at ht
    · cases ht; exact h1
    · cases ht
      exact localBad_kept _ _ _ _ h1

theorem storeCodes_kept {s₀ : State} (x0 : Job) (x1 : Nat) (x2 : Mv) (x3 : Nat) (h2 : Kept s₀ x2.s) :
    Kept s₀ (storeCodes x0 x1 x2 x3).2.2.s := by
  induction x1 generalizing x2 x3 with
  | zero => exact h2
  | succ k ih =>
    unfold storeCodes
    split
    · exact mvStop_kept _ _ _ h2
    · exact ih _ _ (storeCode_kept _ _ _ h2 _ ‹_›)

theorem scaleStop_kept {s₀ : State} (x0 : Job) (x1 : Mv) (x2 : List Int) (h1 : Kept s₀ x1.s) : Kept s₀ (scaleStop x0
    x1 x2).s := by
  unfold scaleStop
  repeat' first
    | with_reducible first
        | assumption | exact Kept.refl _ | apply writeStop_kept | apply mvStop_kept
    | extract_lets | split | dsimp -zeta +zetaDelta only
    | exact rfl | exact id | intro _

theorem storePlain_kept {s₀ : State} (x0 : Job) (x1 : Mv) (x2 : Nat) (x3 : List Int) (x4 : Nat) (h1 : Kept s₀ x1.s) :
    Kept s₀ (storePlain x0 x1 x2 x3 x4).2.s := by
  unfold storePlain
  repeat' first
    | with_reducible first
        | assumption | exact Kept.refl _ | apply storeCodes_kept | apply scaleStop_kept | apply storeIssue_kept
        | apply storeScale_kept
    | extract_lets | split | dsimp -zeta +zetaDelta only
    | with_reducible first
        | apply kept_foldl | apply kept_mk
    | exact rfl | exact id | intro _

theorem storePos_kept {s₀ : State} (x0 : Job) (x1 : Mv) (x2 : Nat) (h1 : Kept s₀ x1.s) : Kept s₀ (storePos x0 x1
    x2).2.s := by
  unfold storePos
  repeat' first
    | with_reducible first
        | assumption | exact Kept.refl _ | apply coordsAt_kept | apply storeBlock_kept | apply storePlain_kept
    | extract_lets | split | dsimp -zeta +zetaDelta only
    | with_reducible first
        | apply kept_foldl | apply kept_foldl_fst | apply kept_foldl_snd | apply kept_foldl_thd | apply kept_mk
        | exact memWf_put _ _ | exact memWf_write _ _ | exact memWf_stores _ | exact memWf_filter _
    | exact rfl | exact id | intro _

theorem redFlush_kept {s₀ : State} (x0 : State) (x1 : Nat) (x2 : Bool) (x3 : Nat) (h0 : Kept s₀ x0) : Kept s₀
    (redFlush x0 x1 x2 x3) := by
  unfold redFlush
  repeat' first
    | with_reducible first
        | assumption | apply tcBack_kept
    | split

theorem redGo_kept {s₀ : State} (x0 : Job) (x1 : QCmd) (x2 : Mv) (x3 : Nat) (x4 : Nat) (x5 : Num) (x6 : Nat) (x7 :
    Nat) (h2 : Kept s₀ x2.s) : Kept s₀ (redGo x0 x1 x2 x3 x4 x5 x6 x7).s := by
  unfold redGo
  repeat' first
    | with_reducible first
        | assumption | exact Kept.refl _ | apply mvStop_kept | apply orderedAccept_kept | apply pierAdd_kept
        | apply redUpdate_kept | apply redCharge_kept
    | extract_lets | split | dsimp -zeta +zetaDelta only
    | with_reducible first
        | apply kept_foldl | apply kept_mk
    | exact rfl | exact id | intro _

theorem redSend_kept {s₀ : State} (x0 : Job) (x1 : QCmd) (x2 : Mv) (x3 : Nat) (x4 : Nat) (x5 : Num) (h2 : Kept s₀
    x2.s) : Kept s₀ (redSend x0 x1 x2 x3 x4 x5).s := by
  unfold redSend
  repeat' first
    | with_reducible first
        | assumption | exact Kept.refl _ | apply pageFor_kept | apply mvStop_kept | apply redFlush_kept
        | apply redGo_kept
    | extract_lets | split | dsimp -zeta +zetaDelta only
    | with_reducible first
        | apply kept_foldl | apply kept_foldl_fst | apply kept_foldl_snd | apply kept_foldl_thd | apply kept_mk
        | exact memWf_put _ _ | exact memWf_write _ _ | exact memWf_stores _ | exact memWf_filter _
    | exact rfl | exact id | intro _

theorem redPos_kept {s₀ : State} (x0 : Job) (x1 : QCmd) (x2 : Mv) (x3 : Nat) (h2 : Kept s₀ x2.s) : Kept s₀ (redPos x0
    x1 x2 x3).s := by
  unfold redPos
  repeat' first
    | with_reducible first
        | assumption | exact Kept.refl _ | apply coordsAt_kept | apply mvStop_kept | apply localBad_kept
        | apply redSend_kept
    | extract_lets | split | dsimp -zeta +zetaDelta only
    | with_reducible first
        | apply kept_foldl | apply kept_mk
    | exact rfl | exact id | intro _

theorem byOne_kept {s₀ : State} (x0 : Mv → Nat → Mv) (x1 : Mv) (x2 : Nat) (h0 : ∀ (y0 : Mv) (y1 : Nat), Kept s₀ y0.s →
    Kept s₀ (x0 y0 y1).s) (h1 : Kept s₀ x1.s) : Kept s₀ (byOne x0 x1 x2).2.s := by
  unfold byOne
  repeat' first
    | with_reducible first
        | assumption | exact Kept.refl _ | apply h0
    | extract_lets | split | dsimp -zeta +zetaDelta only
    | exact rfl | exact id | intro _

theorem storeGo_kept {s₀ : State} (x0 : Mv → Nat → Nat × Mv) (x1 : Nat) (x2 : Nat) (x3 : Mv) (x4 : Nat) (h0 : ∀ (y0 :
    Mv) (y1 : Nat), Kept s₀ y0.s → Kept s₀ (x0 y0 y1).2.s) (h3 : Kept s₀ x3.s) : Kept s₀ (storeGo x0 x1 x2 x3 x4).2.s
    := by
  induction x2 generalizing x0 x1 x3 x4 with
  | zero =>
    unfold storeGo
    repeat' first
      | with_reducible first
          | assumption | exact Kept.refl _ | apply mvKeep_kept | apply h0
      | extract_lets | split | dsimp -zeta +zetaDelta only
      | exact rfl | exact id | intro _
  | succ k ih =>
    unfold storeGo
    repeat' first
      | with_reducible first
          | assumption | exact Kept.refl _ | apply ih | apply mvKeep_kept | apply h0
      | extract_lets | split | dsimp -zeta +zetaDelta only
      | exact rfl | exact id | intro _

theorem ldCount_kept {s₀ : State} (x0 : State) (x1 : Nat) (x2 : Nat) (x3 : Nat) (h0 : Kept s₀ x0) : Kept s₀ (ldCount
    x0 x1 x2 x3) := by
  unfold ldCount
  repeat' first
    | with_reducible first
        | assumption | exact Kept.refl _ | apply bumpF_kept
    | extract_lets | split | dsimp -zeta +zetaDelta only
    | exact rfl | exact id | intro _

theorem readDesc_kept {s₀ : State} (x0 : State) (x1 : Nat) (x2 : Words) (h0 : Kept s₀ x0) : Kept s₀ (readDesc x0 x1
    x2).2.2 := by
  unfold readDesc
  repeat' first
    | with_reducible first
        | assumption | exact Kept.refl _ | apply readVa_kept | apply ldCount_kept
    | extract_lets | split | dsimp -zeta +zetaDelta only
    | with_reducible first
        | apply kept_foldl | apply kept_mk
    | exact rfl | exact id | intro _

theorem setupRecords_kept {s₀ : State} (x0 : State) (x1 : Nat) (x2 : Nat) (x3 : Words) (h0 : Kept s₀ x0) : Kept s₀
    (setupRecords x0 x1 x2 x3).2 := by
  unfold setupRecords
  repeat' first
    | with_reducible first
        | assumption | exact Kept.refl _ | apply readDesc_kept
    | extract_lets | split | dsimp -zeta +zetaDelta only
    | with_reducible first
        | apply kept_foldl | apply kept_mk
    | exact rfl | exact id | intro _

theorem setup_kept {s₀ : State} (x0 : State) (x1 : Nat) (x2 : Nat) (x3 : Words) (h0 : Kept s₀ x0) : Kept s₀ (setup x0
    x1 x2 x3).2 := by
  unfold setup
  repeat' first
    | with_reducible first
        | assumption | exact Kept.refl _ | apply setupRecords_kept
    | extract_lets | split | dsimp -zeta +zetaDelta only
    | exact rfl | exact id | intro _

theorem moveEnd_kept {s₀ : State} (x0 : Nat) (x1 : Nat) (x2 : QCmd) (x3 : List Nat) (x4 : Nat) (x5 : Mv) (h5 : Kept s₀
    x5.s) : Kept s₀ (moveEnd x0 x1 x2 x3 x4 x5) := by
  unfold moveEnd
  repeat' first
    | with_reducible first
        | assumption | exact Kept.refl _ | apply ldCount_kept | apply bumpF_kept | apply stopCmd_kept
        | apply putCmd_kept | apply cmdDone_kept | apply putQ_kept
    | extract_lets | split | dsimp -zeta +zetaDelta only
    | with_reducible first
        | apply kept_foldl | apply kept_mk
    | exact rfl | exact id | intro _

theorem tensorRun_kept {s₀ : State} (x0 : Fin 8) (x1 : Fin 16) (x2 : Fin 4) (x3 : Nat) (x4 : Nat) (x5 : State) (x6 :
    Job → QCmd → Mv → Nat → Nat × Mv) (h5 : Kept s₀ x5) (h6 : ∀ (y0 : Job) (y1 : QCmd) (y2 : Mv) (y3 : Nat), Kept s₀
    y2.s → Kept s₀ (x6 y0 y1 y2 y3).2.s) : Kept s₀ (tensorRun x0 x1 x2 x3 x4 x5 x6) := by
  unfold tensorRun
  repeat' first
    | with_reducible first
        | assumption | exact Kept.refl _ | apply walk_kept | apply setup_kept | apply stopCmd_kept
        | apply mvStart_kept | apply moveEnd_kept | apply h6
    | extract_lets | split | dsimp -zeta +zetaDelta only
    | with_reducible first
        | apply kept_foldl | apply kept_mk
    | exact rfl | exact id | intro _

theorem loadWalk_kept {s₀ : State} (x0 : Job) (x1 : QCmd) (x2 : Mv) (x3 : Nat) (h2 : Kept s₀ x2.s) : Kept s₀ (loadWalk
    x0 x1 x2 x3).2.s := by
  unfold loadWalk
  repeat' first
    | with_reducible first
        | assumption | exact Kept.refl _ | apply lmWrite_kept | apply loadGo_kept
    | extract_lets | split | dsimp -zeta +zetaDelta only
    | with_reducible first
        | apply kept_foldl | apply kept_mk
    | exact rfl | exact id | intro _

theorem storeWalk_kept {s₀ : State} (x0 : Job) (x1 : QCmd) (x2 : Mv) (x3 : Nat) (h2 : Kept s₀ x2.s) : Kept s₀
    (storeWalk x0 x1 x2 x3).2.s := by
  unfold storeWalk
  repeat' first
    | with_reducible first
        | assumption | exact Kept.refl _ | apply storeGo_kept | apply storePos_kept
    | extract_lets | split | dsimp -zeta +zetaDelta only
    | with_reducible first
        | apply kept_foldl | apply kept_foldl_fst | apply kept_foldl_snd | apply kept_foldl_thd | apply kept_mk
        | exact memWf_put _ _ | exact memWf_write _ _ | exact memWf_stores _ | exact memWf_filter _
    | exact rfl | exact id | intro _

theorem redWalk_kept {s₀ : State} (x0 : Job) (x1 : QCmd) (x2 : Mv) (x3 : Nat) (h2 : Kept s₀ x2.s) : Kept s₀ (redWalk
    x0 x1 x2 x3).2.s := by
  unfold redWalk
  repeat' first
    | with_reducible first
        | assumption | exact Kept.refl _ | apply storeGo_kept | apply byOne_kept | apply redPos_kept
    | extract_lets | split | dsimp -zeta +zetaDelta only
    | with_reducible first
        | apply kept_foldl | apply kept_foldl_fst | apply kept_foldl_snd | apply kept_foldl_thd | apply kept_mk
        | exact memWf_put _ _ | exact memWf_write _ _ | exact memWf_stores _ | exact memWf_filter _
    | exact rfl | exact id | intro _

theorem ldTEffect_kept {s₀ : State} (x0 : Fin 8) (x1 : Fin 16) (x2 : Fin 4) (x3 : State) (h3 : Kept s₀ x3) : Kept s₀
    (ldTEffect x0 x1 x2 x3) := by
  unfold ldTEffect
  repeat' first
    | with_reducible first
        | assumption | apply tensorRun_kept | apply loadWalk_kept
    | split

theorem execLdT_kept {s₀ : State} (x0 : Fin 8) (x1 : Fin 16) (x2 : Fin 4) (x3 : State) (h3 : Kept s₀ x3) : ∀ t,
    execLdT x0 x1 x2 x3 = .next t → Kept s₀ t := by
  intro t ht
  unfold execLdT at ht
  cases ht
  repeat' first
    | with_reducible first
        | assumption | exact Kept.refl _ | apply clocked_kept | apply ldTEffect_kept
    | extract_lets | split | dsimp -zeta +zetaDelta only
    | exact rfl | exact id | intro _

theorem ldGEffect_kept {s₀ : State} (x0 : Fin 8) (x1 : Fin 16) (x2 : Fin 4) (x3 : State) (h3 : Kept s₀ x3) : Kept s₀
    (ldGEffect x0 x1 x2 x3) := by
  unfold ldGEffect
  repeat' first
    | with_reducible first
        | assumption | apply tensorRun_kept | apply loadWalk_kept
    | split

theorem execLdG_kept {s₀ : State} (x0 : Fin 8) (x1 : Fin 16) (x2 : Fin 4) (x3 : State) (h3 : Kept s₀ x3) : ∀ t,
    execLdG x0 x1 x2 x3 = .next t → Kept s₀ t := by
  intro t ht
  unfold execLdG at ht
  cases ht
  repeat' first
    | with_reducible first
        | assumption | exact Kept.refl _ | apply clocked_kept | apply ldGEffect_kept
    | extract_lets | split | dsimp -zeta +zetaDelta only
    | exact rfl | exact id | intro _

theorem stTEffect_kept {s₀ : State} (x0 : Fin 8) (x1 : Fin 16) (x2 : Fin 4) (x3 : State) (h3 : Kept s₀ x3) : Kept s₀
    (stTEffect x0 x1 x2 x3) := by
  unfold stTEffect
  repeat' first
    | with_reducible first
        | assumption | apply tensorRun_kept | apply storeWalk_kept
    | split

theorem execStT_kept {s₀ : State} (x0 : Fin 8) (x1 : Fin 16) (x2 : Fin 4) (x3 : State) (h3 : Kept s₀ x3) : ∀ t,
    execStT x0 x1 x2 x3 = .next t → Kept s₀ t := by
  intro t ht
  unfold execStT at ht
  cases ht
  repeat' first
    | with_reducible first
        | assumption | exact Kept.refl _ | apply clocked_kept | apply stTEffect_kept
    | extract_lets | split | dsimp -zeta +zetaDelta only
    | exact rfl | exact id | intro _

theorem stSEffect_kept {s₀ : State} (x0 : Fin 8) (x1 : Fin 16) (x2 : Fin 4) (x3 : State) (h3 : Kept s₀ x3) : Kept s₀
    (stSEffect x0 x1 x2 x3) := by
  unfold stSEffect
  repeat' first
    | with_reducible first
        | assumption | apply tensorRun_kept | apply storeWalk_kept
    | split

theorem execStS_kept {s₀ : State} (x0 : Fin 8) (x1 : Fin 16) (x2 : Fin 4) (x3 : State) (h3 : Kept s₀ x3) : ∀ t,
    execStS x0 x1 x2 x3 = .next t → Kept s₀ t := by
  intro t ht
  unfold execStS at ht
  cases ht
  repeat' first
    | with_reducible first
        | assumption | exact Kept.refl _ | apply clocked_kept | apply stSEffect_kept
    | extract_lets | split | dsimp -zeta +zetaDelta only
    | exact rfl | exact id | intro _

theorem stRedEffect_kept {s₀ : State} (x0 : Fin 8) (x1 : Fin 16) (x2 : Fin 4) (x3 : State) (h3 : Kept s₀ x3) : Kept s₀
    (stRedEffect x0 x1 x2 x3) := by
  unfold stRedEffect
  repeat' first
    | with_reducible first
        | assumption | apply tensorRun_kept | apply redWalk_kept
    | split

theorem execStRed_kept {s₀ : State} (x0 : Fin 8) (x1 : Fin 16) (x2 : Fin 4) (x3 : State) (h3 : Kept s₀ x3) : ∀ t,
    execStRed x0 x1 x2 x3 = .next t → Kept s₀ t := by
  intro t ht
  unfold execStRed at ht
  cases ht
  repeat' first
    | with_reducible first
        | assumption | exact Kept.refl _ | apply clocked_kept | apply stRedEffect_kept
    | extract_lets | split | dsimp -zeta +zetaDelta only
    | exact rfl | exact id | intro _

theorem stSredEffect_kept {s₀ : State} (x0 : Fin 8) (x1 : Fin 16) (x2 : Fin 4) (x3 : State) (h3 : Kept s₀ x3) : Kept
    s₀ (stSredEffect x0 x1 x2 x3) := by
  unfold stSredEffect
  repeat' first
    | with_reducible first
        | assumption | apply tensorRun_kept | apply redWalk_kept
    | split

theorem execStSred_kept {s₀ : State} (x0 : Fin 8) (x1 : Fin 16) (x2 : Fin 4) (x3 : State) (h3 : Kept s₀ x3) : ∀ t,
    execStSred x0 x1 x2 x3 = .next t → Kept s₀ t := by
  intro t ht
  unfold execStSred at ht
  cases ht
  repeat' first
    | with_reducible first
        | assumption | exact Kept.refl _ | apply clocked_kept | apply stSredEffect_kept
    | extract_lets | split | dsimp -zeta +zetaDelta only
    | exact rfl | exact id | intro _

theorem ldbPos_kept {s₀ : State} (x0 : Job) (x1 : Mv) (x2 : Nat) (h1 : Kept s₀ x1.s) : Kept s₀ (ldbPos x0 x1 x2).s :=
    by
  unfold ldbPos
  repeat' first
    | with_reducible first
        | assumption | exact Kept.refl _ | apply readVa_kept | apply mvStop_kept | apply mvRead_kept
        | apply lmWrite_kept
    | extract_lets | split | dsimp -zeta +zetaDelta only
    | with_reducible first
        | apply kept_foldl | apply kept_mk
        | exact memWf_put _ _ | exact memWf_write _ _ | exact memWf_stores _ | exact memWf_filter _
    | exact rfl | exact id | intro _

theorem stbPos_kept {s₀ : State} (x0 : Job) (x1 : Mv) (x2 : Nat) (h1 : Kept s₀ x1.s) : Kept s₀ (stbPos x0 x1 x2).s :=
    by
  unfold stbPos
  repeat' first
    | with_reducible first
        | assumption | exact Kept.refl _ | apply mvStop_kept | apply storeBytes_kept
    | extract_lets | split | dsimp -zeta +zetaDelta only
    | exact rfl | exact id | intro _

theorem byteRun_kept {s₀ : State} (x0 : Fin 8) (x1 : Fin 16) (x2 : Fin 4) (x3 : Nat) (x4 : Nat) (x5 : State) (x6 : Job
    → Mv → Nat → Mv) (h5 : Kept s₀ x5) (h6 : ∀ (y0 : Job) (y1 : Mv) (y2 : Nat), Kept s₀ y1.s → Kept s₀ (x6 y0 y1
    y2).s) : Kept s₀ (byteRun x0 x1 x2 x3 x4 x5 x6) := by
  unfold byteRun
  repeat' first
    | with_reducible first
        | assumption | exact Kept.refl _ | apply storeGo_kept | apply byOne_kept | apply mvStart_kept
        | apply moveEnd_kept | apply h6
    | extract_lets | split | dsimp -zeta +zetaDelta only
    | with_reducible first
        | apply kept_foldl | apply kept_mk
    | exact rfl | exact id | intro _

theorem ldBEffect_kept {s₀ : State} (x0 : Fin 8) (x1 : Fin 16) (x2 : Fin 4) (x3 : State) (h3 : Kept s₀ x3) : Kept s₀
    (ldBEffect x0 x1 x2 x3) := by
  unfold ldBEffect
  repeat' first
    | with_reducible first
        | assumption | apply byteRun_kept | apply ldbPos_kept
    | split

theorem execLdB_kept {s₀ : State} (x0 : Fin 8) (x1 : Fin 16) (x2 : Fin 4) (x3 : State) (h3 : Kept s₀ x3) : ∀ t,
    execLdB x0 x1 x2 x3 = .next t → Kept s₀ t := by
  intro t ht
  unfold execLdB at ht
  cases ht
  repeat' first
    | with_reducible first
        | assumption | exact Kept.refl _ | apply clocked_kept | apply ldBEffect_kept
    | extract_lets | split | dsimp -zeta +zetaDelta only
    | exact rfl | exact id | intro _

theorem stBEffect_kept {s₀ : State} (x0 : Fin 8) (x1 : Fin 16) (x2 : Fin 4) (x3 : State) (h3 : Kept s₀ x3) : Kept s₀
    (stBEffect x0 x1 x2 x3) := by
  unfold stBEffect
  repeat' first
    | with_reducible first
        | assumption | apply byteRun_kept | apply stbPos_kept
    | split

theorem execStB_kept {s₀ : State} (x0 : Fin 8) (x1 : Fin 16) (x2 : Fin 4) (x3 : State) (h3 : Kept s₀ x3) : ∀ t,
    execStB x0 x1 x2 x3 = .next t → Kept s₀ t := by
  intro t ht
  unfold execStB at ht
  cases ht
  repeat' first
    | with_reducible first
        | assumption | exact Kept.refl _ | apply clocked_kept | apply stBEffect_kept
    | extract_lets | split | dsimp -zeta +zetaDelta only
    | exact rfl | exact id | intro _

theorem rangePos_kept {s₀ : State} (x0 : RangeOp) (x1 : Job) (x2 : Mv) (x3 : Nat) (h2 : Kept s₀ x2.s) : Kept s₀
    (rangePos x0 x1 x2 x3).s := by
  unfold rangePos
  repeat' first
    | with_reducible first
        | assumption | exact Kept.refl _ | apply translate_kept | apply mvStop_kept | apply tcRange_kept
    | extract_lets | split | dsimp -zeta +zetaDelta only
    | with_reducible first
        | apply kept_foldl | apply kept_mk
    | exact rfl | exact id | intro _

theorem rangeRun_kept {s₀ : State} (x0 : Fin 8) (x1 : Fin 16) (x2 : Fin 4) (x3 : Nat) (x4 : RangeOp) (x5 : State) (h5
    : Kept s₀ x5) : Kept s₀ (rangeRun x0 x1 x2 x3 x4 x5) := by
  unfold rangeRun
  repeat' first
    | with_reducible first
        | assumption | exact Kept.refl _ | apply storeGo_kept | apply byOne_kept | apply rangePos_kept
        | apply mvStart_kept | apply moveEnd_kept
    | extract_lets | split | dsimp -zeta +zetaDelta only
    | with_reducible first
        | apply kept_foldl | apply kept_mk
    | exact rfl | exact id | intro _

theorem memFlushEffect_kept {s₀ : State} (x0 : Fin 8) (x1 : Fin 16) (x2 : Fin 4) (x3 : State) (h3 : Kept s₀ x3) : Kept
    s₀ (memFlushEffect x0 x1 x2 x3) := by
  unfold memFlushEffect
  repeat' first
    | with_reducible first
        | assumption | apply rangeRun_kept
    | split

theorem execMemFlush_kept {s₀ : State} (x0 : Fin 8) (x1 : Fin 16) (x2 : Fin 4) (x3 : State) (h3 : Kept s₀ x3) : ∀ t,
    execMemFlush x0 x1 x2 x3 = .next t → Kept s₀ t := by
  intro t ht
  unfold execMemFlush at ht
  cases ht
  repeat' first
    | with_reducible first
        | assumption | exact Kept.refl _ | apply clocked_kept | apply memFlushEffect_kept
    | extract_lets | split | dsimp -zeta +zetaDelta only
    | exact rfl | exact id | intro _

theorem memInvalEffect_kept {s₀ : State} (x0 : Fin 8) (x1 : Fin 16) (x2 : Fin 4) (x3 : State) (h3 : Kept s₀ x3) : Kept
    s₀ (memInvalEffect x0 x1 x2 x3) := by
  unfold memInvalEffect
  repeat' first
    | with_reducible first
        | assumption | apply rangeRun_kept
    | split

theorem execMemInval_kept {s₀ : State} (x0 : Fin 8) (x1 : Fin 16) (x2 : Fin 4) (x3 : State) (h3 : Kept s₀ x3) : ∀ t,
    execMemInval x0 x1 x2 x3 = .next t → Kept s₀ t := by
  intro t ht
  unfold execMemInval at ht
  cases ht
  repeat' first
    | with_reducible first
        | assumption | exact Kept.refl _ | apply clocked_kept | apply memInvalEffect_kept
    | extract_lets | split | dsimp -zeta +zetaDelta only
    | exact rfl | exact id | intro _

theorem memFlinvEffect_kept {s₀ : State} (x0 : Fin 8) (x1 : Fin 16) (x2 : Fin 4) (x3 : State) (h3 : Kept s₀ x3) : Kept
    s₀ (memFlinvEffect x0 x1 x2 x3) := by
  unfold memFlinvEffect
  repeat' first
    | with_reducible first
        | assumption | apply rangeRun_kept
    | split

theorem execMemFlinv_kept {s₀ : State} (x0 : Fin 8) (x1 : Fin 16) (x2 : Fin 4) (x3 : State) (h3 : Kept s₀ x3) : ∀ t,
    execMemFlinv x0 x1 x2 x3 = .next t → Kept s₀ t := by
  intro t ht
  unfold execMemFlinv at ht
  cases ht
  repeat' first
    | with_reducible first
        | assumption | exact Kept.refl _ | apply clocked_kept | apply memFlinvEffect_kept
    | extract_lets | split | dsimp -zeta +zetaDelta only
    | exact rfl | exact id | intro _

theorem tileCacheEvictionEffect_kept {s₀ : State} (x0 : Fin 8) (x1 : Nat) (x2 : State) (h2 : Kept s₀ x2) : Kept s₀
    (tileCacheEvictionEffect x0 x1 x2) := by
  unfold tileCacheEvictionEffect
  repeat' first
    | with_reducible first
        | assumption | apply tcDrop_kept | apply tcBack_kept
    | split

theorem execTileCacheEviction_kept {s₀ : State} (x0 : Fin 8) (x1 : Nat) (x2 : State) (h2 : Kept s₀ x2) : ∀ t,
    execTileCacheEviction x0 x1 x2 = .next t → Kept s₀ t := by
  intro t ht
  unfold execTileCacheEviction at ht
  cases ht
  repeat' first
    | with_reducible first
        | assumption | exact Kept.refl _ | apply clocked_kept | apply tileCacheEvictionEffect_kept
    | extract_lets | split | dsimp -zeta +zetaDelta only
    | exact rfl | exact id | intro _

theorem tcFlushAllEffect_kept {s₀ : State} (x0 : Fin 8) (x1 : Nat) (x2 : State) (h2 : Kept s₀ x2) : Kept s₀
    (tcFlushAllEffect x0 x1 x2) := by
  unfold tcFlushAllEffect
  repeat' first
    | with_reducible first
        | assumption | apply reject_kept | apply setB_kept | apply tcFlushAll_kept
    | split

theorem execTcFlushAll_kept {s₀ : State} (x0 : Fin 8) (x1 : Nat) (x2 : State) (h2 : Kept s₀ x2) : ∀ t, execTcFlushAll
    x0 x1 x2 = .next t → Kept s₀ t := by
  intro t ht
  unfold execTcFlushAll at ht
  cases ht
  repeat' first
    | with_reducible first
        | assumption | exact Kept.refl _ | apply clocked_kept | apply guarded_kept | apply tcFlushAllEffect_kept
    | extract_lets | split | dsimp -zeta +zetaDelta only
    | exact rfl | exact id | intro _

theorem execTcFlushAllDone_kept {s₀ : State} (x0 : Fin 8) (x1 : State) (h1 : Kept s₀ x1) : ∀ t, execTcFlushAllDone x0
    x1 = .next t → Kept s₀ t := by
  intro t ht
  unfold execTcFlushAllDone at ht
  cases ht
  repeat' first
    | with_reducible first
        | assumption | exact Kept.refl _ | apply clocked_kept | apply setB_kept
    | extract_lets | split | dsimp -zeta +zetaDelta only
    | exact rfl | exact id | intro _

end Sys2Proof.Machine
end

