-- ==== Sys2Proof/Laws/KeptPiers.lean ====
section
/-!
SUPPORT. One lemma per operation of the pseudo-channel controllers and near-bank work: it keeps what `Kept` names (or holds what `Held` names), where
the state it begins with does.
-/
namespace Sys2Proof.Machine

theorem pccGuarded_kept {s₀ : State} (x0 : State) (x1 : Fin 8) (x2 : Fin 64) (x3 : Nat) (x4 : Nat) (x5 : State) (h0 :
    Kept s₀ x0) (h5 : Kept s₀ x5) : Kept s₀ (pccGuarded x0 x1 x2 x3 x4 x5) := by
  unfold pccGuarded
  repeat' first
    | with_reducible first
        | assumption | apply rejectPath_kept | apply guarded_kept
    | split

theorem countDeferred_kept {s₀ : State} (x0 : State) (x1 : Nat) (h0 : Kept s₀ x0) : Kept s₀ (countDeferred x0 x1) :=
    by
  unfold countDeferred
  repeat' first
    | with_reducible first
        | assumption | exact Kept.refl _ | apply bumpSat_kept | apply putPcc_kept
    | extract_lets | split | dsimp -zeta +zetaDelta only
    | with_reducible first
        | apply kept_foldl | apply kept_mk
    | exact rfl | exact id | intro _

theorem markEligible_kept {s₀ : State} (x0 : State) (x1 : State) (x2 : Nat) (h0 : Kept s₀ x0) (h1 : Kept s₀ x1) : Kept
    s₀ (markEligible x0 x1 x2) := by
  unfold markEligible
  repeat' first
    | with_reducible first
        | assumption | exact Kept.refl _ | apply putPcc_kept
    | extract_lets | split | dsimp -zeta +zetaDelta only
    | with_reducible first
        | apply kept_foldl | apply kept_mk
    | exact rfl | exact id | intro _

theorem pccCommit_kept {s₀ : State} (x0 : State) (x1 : Nat) (h0 : Kept s₀ x0) : Kept s₀ (pccCommit x0 x1) := by
  unfold pccCommit
  repeat' first
    | with_reducible first
        | assumption | exact Kept.refl _ | apply commitPage_kept | apply putPcc_kept | apply countDeferred_kept
        | apply markEligible_kept
    | extract_lets | split | dsimp -zeta +zetaDelta only
    | with_reducible first
        | apply kept_foldl | apply kept_mk
    | exact rfl | exact id | intro _

theorem issueReq_kept {s₀ : State} (x0 : State) (x1 : Nat) (x2 : PReq) (h0 : Kept s₀ x0) : Kept s₀ (issueReq x0 x1 x2)
    := by
  unfold issueReq
  repeat' first
    | with_reducible first
        | assumption | exact Kept.refl _ | apply putPcc_kept | apply countDeferred_kept | apply replayAdd_kept
    | extract_lets | split | dsimp -zeta +zetaDelta only
    | with_reducible first
        | apply kept_foldl | apply kept_mk
    | exact rfl | exact id | intro _

theorem pierRequestIssueEffect_kept {s₀ : State} (x0 : Fin 8) (x1 : Fin 64) (x2 : State) (h2 : Kept s₀ x2) : Kept s₀
    (pierRequestIssueEffect x0 x1 x2) := by
  unfold pierRequestIssueEffect
  repeat' first
    | with_reducible first
        | assumption | exact Kept.refl _ | apply issueReq_kept | apply pccCommit_kept
    | extract_lets | split | dsimp -zeta +zetaDelta only
    | exact rfl | exact id | intro _

theorem execPierRequestIssue_kept {s₀ : State} (x0 : Fin 8) (x1 : Fin 64) (x2 : State) (h2 : Kept s₀ x2) : ∀ t,
    execPierRequestIssue x0 x1 x2 = .next t → Kept s₀ t := by
  intro t ht
  unfold execPierRequestIssue at ht
  cases ht
  repeat' first
    | with_reducible first
        | assumption | exact Kept.refl _ | apply clocked_kept | apply pierRequestIssueEffect_kept
    | extract_lets | split | dsimp -zeta +zetaDelta only
    | exact rfl | exact id | intro _

theorem partitionTokenRefillEffect_kept {s₀ : State} (x0 : Fin 8) (x1 : Fin 64) (x2 : State) (h2 : Kept s₀ x2) : Kept
    s₀ (partitionTokenRefillEffect x0 x1 x2) := by
  unfold partitionTokenRefillEffect
  repeat' first
    | with_reducible first
        | assumption | exact Kept.refl _ | apply putPcc_kept | apply countDeferred_kept | apply markEligible_kept
    | extract_lets | split | dsimp -zeta +zetaDelta only
    | with_reducible first
        | apply kept_foldl | apply kept_mk
    | exact rfl | exact id | intro _

theorem execPartitionTokenRefill_kept {s₀ : State} (x0 : Fin 8) (x1 : Fin 64) (x2 : State) (h2 : Kept s₀ x2) : ∀ t,
    execPartitionTokenRefill x0 x1 x2 = .next t → Kept s₀ t := by
  intro t ht
  unfold execPartitionTokenRefill at ht
  cases ht
  repeat' first
    | with_reducible first
        | assumption | exact Kept.refl _ | apply clocked_kept | apply partitionTokenRefillEffect_kept
    | extract_lets | split | dsimp -zeta +zetaDelta only
    | exact rfl | exact id | intro _

theorem replayFrom_kept {s₀ : State} (x0 : State) (x1 : Nat) (x2 : Nat) (x3 : RField) (h0 : Kept s₀ x0) : Kept s₀
    (replayFrom x0 x1 x2 x3) := by
  unfold replayFrom
  repeat' first
    | with_reducible first
        | assumption | exact Kept.refl _ | apply putPcc_kept | apply bumpSat_kept | apply bucketEvent_kept
    | extract_lets | split | dsimp -zeta +zetaDelta only
    | with_reducible first
        | apply kept_foldl | apply kept_mk
    | exact rfl | exact id | intro _

theorem alertEffect_kept {s₀ : State} (x0 : Fin 8) (x1 : Fin 64) (x2 : Nat) (x3 : Bool) (x4 : State) (h4 : Kept s₀ x4)
    : Kept s₀ (alertEffect x0 x1 x2 x3 x4) := by
  unfold alertEffect
  repeat' first
    | with_reducible first
        | assumption | exact Kept.refl _ | apply replayFrom_kept | apply putPcc_kept
    | extract_lets | split | dsimp -zeta +zetaDelta only
    | with_reducible first
        | apply kept_foldl | apply kept_mk
    | exact rfl | exact id | intro _

theorem execAlert_kept {s₀ : State} (x0 : Fin 8) (x1 : Fin 64) (x2 : Nat) (x3 : Bool) (x4 : State) (h4 : Kept s₀ x4) :
    ∀ t, execAlert x0 x1 x2 x3 x4 = .next t → Kept s₀ t := by
  intro t ht
  unfold execAlert at ht
  cases ht
  repeat' first
    | with_reducible first
        | assumption | exact Kept.refl _ | apply clocked_kept | apply alertEffect_kept
    | extract_lets | split | dsimp -zeta +zetaDelta only
    | exact rfl | exact id | intro _

theorem readParityErrorEffect_kept {s₀ : State} (x0 : Fin 8) (x1 : Fin 64) (x2 : Nat) (x3 : State) (h3 : Kept s₀ x3) :
    Kept s₀ (readParityErrorEffect x0 x1 x2 x3) := by
  unfold readParityErrorEffect
  repeat' first
    | with_reducible first
        | assumption | exact Kept.refl _ | apply bumpSat_kept | apply putPcc_kept | apply bucketEvent_kept
    | extract_lets | split | dsimp -zeta +zetaDelta only
    | with_reducible first
        | apply kept_foldl | apply kept_mk
    | exact rfl | exact id | intro _

theorem execReadParityError_kept {s₀ : State} (x0 : Fin 8) (x1 : Fin 64) (x2 : Nat) (x3 : State) (h3 : Kept s₀ x3) : ∀
    t, execReadParityError x0 x1 x2 x3 = .next t → Kept s₀ t := by
  intro t ht
  unfold execReadParityError at ht
  cases ht
  repeat' first
    | with_reducible first
        | assumption | exact Kept.refl _ | apply clocked_kept | apply readParityErrorEffect_kept
    | extract_lets | split | dsimp -zeta +zetaDelta only
    | exact rfl | exact id | intro _

theorem pierRetrainEffect_kept {s₀ : State} (x0 : Fin 8) (x1 : Fin 64) (x2 : State) (h2 : Kept s₀ x2) : Kept s₀
    (pierRetrainEffect x0 x1 x2) := by
  unfold pierRetrainEffect
  repeat' first
    | with_reducible first
        | assumption | exact Kept.refl _ | apply bumpSat_kept | apply setB_kept | apply putPcc_kept
    | extract_lets | split | dsimp -zeta +zetaDelta only
    | with_reducible first
        | apply kept_foldl | apply kept_mk
    | exact rfl | exact id | intro _

theorem execPierRetrain_kept {s₀ : State} (x0 : Fin 8) (x1 : Fin 64) (x2 : State) (h2 : Kept s₀ x2) : ∀ t,
    execPierRetrain x0 x1 x2 = .next t → Kept s₀ t := by
  intro t ht
  unfold execPierRetrain at ht
  cases ht
  repeat' first
    | with_reducible first
        | assumption | exact Kept.refl _ | apply clocked_kept | apply pierRetrainEffect_kept
    | extract_lets | split | dsimp -zeta +zetaDelta only
    | exact rfl | exact id | intro _

theorem loseBlus_kept {s₀ : State} (x0 : State) (x1 : Nat) (h0 : Kept s₀ x0) : Kept s₀ (loseBlus x0 x1) := by
  unfold loseBlus
  repeat' first
    | with_reducible first
        | assumption | exact Kept.refl _
    | extract_lets | split | dsimp -zeta +zetaDelta only
    | with_reducible first
        | apply kept_foldl | apply kept_mk
        | exact memWf_put _ _ | exact memWf_write _ _ | exact memWf_stores _ | exact memWf_filter _
    | exact rfl | exact id | intro _

theorem pcFail_kept {s₀ : State} (x0 : State) (x1 : Nat) (h0 : Kept s₀ x0) : Kept s₀ (pcFail x0 x1) := by
  unfold pcFail
  repeat' first
    | with_reducible first
        | assumption | exact Kept.refl _ | apply loseBlus_kept | apply putPcc_kept | apply elogAdd_kept
    | extract_lets | split | dsimp -zeta +zetaDelta only
    | with_reducible first
        | apply kept_foldl | apply kept_mk
    | exact rfl | exact id | intro _

theorem pierRetrainDoneEffect_kept {s₀ : State} (x0 : Fin 8) (x1 : Fin 64) (x2 : Bool) (x3 : State) (h3 : Kept s₀ x3)
    : Kept s₀ (pierRetrainDoneEffect x0 x1 x2 x3) := by
  unfold pierRetrainDoneEffect
  repeat' first
    | with_reducible first
        | assumption | exact Kept.refl _ | apply setB_kept | apply putPcc_kept | apply pcFail_kept
    | extract_lets | split | dsimp -zeta +zetaDelta only
    | with_reducible first
        | apply kept_foldl | apply kept_mk
    | exact rfl | exact id | intro _

theorem execPierRetrainDone_kept {s₀ : State} (x0 : Fin 8) (x1 : Fin 64) (x2 : Bool) (x3 : State) (h3 : Kept s₀ x3) :
    ∀ t, execPierRetrainDone x0 x1 x2 x3 = .next t → Kept s₀ t := by
  intro t ht
  unfold execPierRetrainDone at ht
  cases ht
  repeat' first
    | with_reducible first
        | assumption | exact Kept.refl _ | apply clocked_kept | apply pierRetrainDoneEffect_kept
    | extract_lets | split | dsimp -zeta +zetaDelta only
    | exact rfl | exact id | intro _

theorem refreshIntervalEffect_kept {s₀ : State} (x0 : Fin 8) (x1 : Fin 64) (x2 : State) (h2 : Kept s₀ x2) : Kept s₀
    (refreshIntervalEffect x0 x1 x2) := by
  unfold refreshIntervalEffect
  repeat' first
    | with_reducible first
        | assumption | exact Kept.refl _ | apply putPcc_kept
    | extract_lets | split | dsimp -zeta +zetaDelta only
    | with_reducible first
        | apply kept_foldl | apply kept_mk
    | exact rfl | exact id | intro _

theorem execRefreshInterval_kept {s₀ : State} (x0 : Fin 8) (x1 : Fin 64) (x2 : State) (h2 : Kept s₀ x2) : ∀ t,
    execRefreshInterval x0 x1 x2 = .next t → Kept s₀ t := by
  intro t ht
  unfold execRefreshInterval at ht
  cases ht
  repeat' first
    | with_reducible first
        | assumption | exact Kept.refl _ | apply clocked_kept | apply refreshIntervalEffect_kept
    | extract_lets | split | dsimp -zeta +zetaDelta only
    | exact rfl | exact id | intro _

theorem collectCorr_kept {s₀ : State} (x0 : State) (x1 : Nat) (h0 : Kept s₀ x0) : Kept s₀ (collectCorr x0 x1) := by
  unfold collectCorr
  repeat' first
    | with_reducible first
        | assumption | exact Kept.refl _ | apply bumpSat_kept | apply bucketEvent_kept | apply putPcc_kept
    | extract_lets | split | dsimp -zeta +zetaDelta only
    | with_reducible first
        | apply kept_foldl | apply kept_foldl_fst | apply kept_foldl_snd | apply kept_foldl_thd | apply kept_mk
    | exact rfl | exact id | intro _

theorem refreshIssueEffect_kept {s₀ : State} (x0 : Fin 8) (x1 : Fin 64) (x2 : State) (h2 : Kept s₀ x2) : Kept s₀
    (refreshIssueEffect x0 x1 x2) := by
  unfold refreshIssueEffect
  repeat' first
    | with_reducible first
        | assumption | exact Kept.refl _ | apply bumpF_kept | apply putPcc_kept | apply setF_kept
        | apply pccCommit_kept | apply collectCorr_kept | apply replayAdd_kept
    | extract_lets | split | dsimp -zeta +zetaDelta only
    | with_reducible first
        | apply kept_foldl | apply kept_mk
    | exact rfl | exact id | intro _

theorem execRefreshIssue_kept {s₀ : State} (x0 : Fin 8) (x1 : Fin 64) (x2 : State) (h2 : Kept s₀ x2) : ∀ t,
    execRefreshIssue x0 x1 x2 = .next t → Kept s₀ t := by
  intro t ht
  unfold execRefreshIssue at ht
  cases ht
  repeat' first
    | with_reducible first
        | assumption | exact Kept.refl _ | apply clocked_kept | apply refreshIssueEffect_kept
    | extract_lets | split | dsimp -zeta +zetaDelta only
    | exact rfl | exact id | intro _

theorem execReducerUpdate_kept {s₀ : State} (x0 : Nat) (x1 : Nat) (x2 : Nat) (x3 : Nat) (x4 : Nat) (x5 : State) (h5 :
    Kept s₀ x5) : ∀ t, execReducerUpdate x0 x1 x2 x3 x4 x5 = .next t → Kept s₀ t := by
  intro t ht
  unfold execReducerUpdate at ht
  cases ht
  repeat' first
    | with_reducible first
        | assumption | exact Kept.refl _ | apply clocked_kept | apply redUpdate_kept | apply redCharge_kept
    | extract_lets | split | dsimp -zeta +zetaDelta only
    | exact rfl | exact id | intro _

theorem execOrderedUpdateAccept_kept {s₀ : State} (x0 : Nat) (x1 : Nat) (x2 : Nat) (x3 : Nat) (x4 : Nat) (x5 : Nat)
    (x6 : Nat) (x7 : State) (h7 : Kept s₀ x7) : ∀ t, execOrderedUpdateAccept x0 x1 x2 x3 x4 x5 x6 x7 = .next t → Kept
    s₀ t := by
  intro t ht
  unfold execOrderedUpdateAccept at ht
  cases ht
  repeat' first
    | with_reducible first
        | assumption | exact Kept.refl _ | apply clocked_kept | apply orderedAccept_kept
    | extract_lets | split | dsimp -zeta +zetaDelta only
    | exact rfl | exact id | intro _

theorem lineEvict_kept {s₀ : State} (x0 : State) (x1 : Nat) (x2 : Nat) (h0 : Kept s₀ x0) : Kept s₀ (lineEvict x0 x1
    x2) := by
  unfold lineEvict
  repeat' first
    | with_reducible first
        | assumption | apply redWriteBack_kept
    | split

theorem execReducerLineEvict_kept {s₀ : State} (x0 : Fin 8) (x1 : Fin 64) (x2 : Nat) (x3 : State) (h3 : Kept s₀ x3) :
    ∀ t, execReducerLineEvict x0 x1 x2 x3 = .next t → Kept s₀ t := by
  intro t ht
  unfold execReducerLineEvict at ht
  cases ht
  repeat' first
    | with_reducible first
        | assumption | exact Kept.refl _ | apply clocked_kept | apply lineEvict_kept
    | extract_lets | split | dsimp -zeta +zetaDelta only
    | exact rfl | exact id | intro _

theorem settleAll_kept {s₀ : State} (x0 : State) (x1 : Nat) (h0 : Kept s₀ x0) : Kept s₀ (settleAll x0 x1) := by
  unfold settleAll
  repeat' first
    | with_reducible first
        | assumption | exact Kept.refl _ | apply settleLine_kept
    | extract_lets | split | dsimp -zeta +zetaDelta only
    | with_reducible first
        | apply kept_foldl | apply kept_mk
    | exact rfl | exact id | intro _

theorem execSettleAll_kept {s₀ : State} (x0 : Fin 8) (x1 : Fin 64) (x2 : Nat) (x3 : State) (h3 : Kept s₀ x3) : ∀ t,
    execSettleAll x0 x1 x2 x3 = .next t → Kept s₀ t := by
  intro t ht
  unfold execSettleAll at ht
  cases ht
  repeat' first
    | with_reducible first
        | assumption | exact Kept.refl _ | apply clocked_kept | apply pccGuarded_kept | apply settleAll_kept
    | extract_lets | split | dsimp -zeta +zetaDelta only
    | exact rfl | exact id | intro _

theorem bufWb_kept {s₀ : State} (x0 : State) (x1 : Nat) (h0 : Kept s₀ x0) : Kept s₀ (bufWb x0 x1) := by
  unfold bufWb
  repeat' first
    | with_reducible first
        | assumption | exact Kept.refl _ | apply redWriteBack_kept
    | extract_lets | split | dsimp -zeta +zetaDelta only
    | with_reducible first
        | apply kept_foldl | apply kept_mk
    | exact rfl | exact id | intro _

theorem execBufWb_kept {s₀ : State} (x0 : Fin 8) (x1 : Fin 64) (x2 : Nat) (x3 : State) (h3 : Kept s₀ x3) : ∀ t,
    execBufWb x0 x1 x2 x3 = .next t → Kept s₀ t := by
  intro t ht
  unfold execBufWb at ht
  cases ht
  repeat' first
    | with_reducible first
        | assumption | exact Kept.refl _ | apply clocked_kept | apply pccGuarded_kept | apply bufWb_kept
    | extract_lets | split | dsimp -zeta +zetaDelta only
    | exact rfl | exact id | intro _

theorem spareStartEffect_kept {s₀ : State} (x0 : Fin 8) (x1 : Fin 64) (x2 : Fin 32) (x3 : Fin 4) (x4 : Nat) (x5 :
    State) (h5 : Kept s₀ x5) : Kept s₀ (spareStartEffect x0 x1 x2 x3 x4 x5) := by
  unfold spareStartEffect
  repeat' first
    | with_reducible first
        | assumption | exact Kept.refl _ | apply reject_kept | apply setF_kept | apply putPcc_kept
    | extract_lets | split | dsimp -zeta +zetaDelta only
    | with_reducible first
        | apply kept_foldl | apply kept_mk
    | exact rfl | exact id | intro _

theorem execSpareStart_kept {s₀ : State} (x0 : Fin 8) (x1 : Fin 64) (x2 : Fin 32) (x3 : Fin 4) (x4 : Nat) (x5 : State)
    (h5 : Kept s₀ x5) : ∀ t, execSpareStart x0 x1 x2 x3 x4 x5 = .next t → Kept s₀ t := by
  intro t ht
  unfold execSpareStart at ht
  cases ht
  repeat' first
    | with_reducible first
        | assumption | exact Kept.refl _ | apply clocked_kept | apply pccGuarded_kept | apply spareStartEffect_kept
    | extract_lets | split | dsimp -zeta +zetaDelta only
    | exact rfl | exact id | intro _

theorem copyCol_kept {s₀ : State} (x0 : State) (x1 : Nat) (x2 : Nat) (x3 : Nat × List (Nat × Nat)) (h0 : Kept s₀ x0) :
    Kept s₀ (copyCol x0 x1 x2 x3) := by
  unfold copyCol
  repeat' first
    | with_reducible first
        | assumption | exact Kept.refl _ | apply colSeal_kept
    | extract_lets | split | dsimp -zeta +zetaDelta only
    | exact rfl | exact id | intro _

theorem copyBank_kept {s₀ : State} (x0 : State) (x1 : Nat) (x2 : Nat) (h0 : Kept s₀ x0) : Kept s₀ (copyBank x0 x1 x2)
    := by
  unfold copyBank
  repeat' first
    | with_reducible first
        | assumption | exact Kept.refl _ | apply copyCol_kept
    | extract_lets | split | dsimp -zeta +zetaDelta only
    | with_reducible first
        | apply kept_foldl | apply kept_mk
    | exact rfl | exact id | intro _

theorem spareSwitchEffect_kept {s₀ : State} (x0 : Fin 8) (x1 : Fin 64) (x2 : Bool) (x3 : State) (h3 : Kept s₀ x3) :
    Kept s₀ (spareSwitchEffect x0 x1 x2 x3) := by
  unfold spareSwitchEffect
  repeat' first
    | with_reducible first
        | assumption | exact Kept.refl _ | apply putPcc_kept | apply copyBank_kept | apply setF_kept
    | extract_lets | split | dsimp -zeta +zetaDelta only
    | with_reducible first
        | apply kept_foldl | apply kept_mk
    | exact rfl | exact id | intro _

theorem execSpareSwitch_kept {s₀ : State} (x0 : Fin 8) (x1 : Fin 64) (x2 : Bool) (x3 : State) (h3 : Kept s₀ x3) : ∀ t,
    execSpareSwitch x0 x1 x2 x3 = .next t → Kept s₀ t := by
  intro t ht
  unfold execSpareSwitch at ht
  cases ht
  repeat' first
    | with_reducible first
        | assumption | exact Kept.refl _ | apply clocked_kept | apply spareSwitchEffect_kept
    | extract_lets | split | dsimp -zeta +zetaDelta only
    | exact rfl | exact id | intro _

theorem rgPages_kept {s₀ : State} (x0 : Nat) (x1 : Nat) (x2 : Nat) (x3 : Nat) (x4 : Access) (x5 : Nat) (x6 : Nat) (x7
    : Nat) (x8 : State) (x9 : Nat) (x10 : Option Nat) (x11 : List (Nat × Nat × Nat)) (h8 : Kept s₀ x8) : Kept s₀
    (rgPages x0 x1 x2 x3 x4 x5 x6 x7 x8 x9 x10 x11).2 := by
  induction x7 generalizing x0 x1 x2 x3 x4 x5 x6 x8 x9 x10 x11 with
  | zero =>
    unfold rgPages
    repeat' first
      | with_reducible first
          | assumption | exact Kept.refl _ | apply translate_kept
      | extract_lets | split | dsimp -zeta +zetaDelta only
      | exact rfl | exact id | intro _
  | succ k ih =>
    unfold rgPages
    repeat' first
      | with_reducible first
          | assumption | exact Kept.refl _ | apply ih | apply translate_kept
      | extract_lets | split | dsimp -zeta +zetaDelta only
      | exact rfl | exact id | intro _

theorem rgRow_kept {s₀ : State} (x0 : State) (x1 : Nat) (x2 : Nat) (x3 : Nat) (x4 : Nat) (x5 : Access) (x6 : Int) (h0
    : Kept s₀ x0) : Kept s₀ (rgRow x0 x1 x2 x3 x4 x5 x6).2 := by
  unfold rgRow
  repeat' first
    | with_reducible first
        | assumption | apply rgPages_kept
    | split

theorem pageRow_kept {s₀ : State} (x0 : State) (x1 : Nat) (x2 : Nat) (x3 : Nat) (x4 : Nat) (x5 : Nat) (x6 : Nat) (h0 :
    Kept s₀ x0) : Kept s₀ (pageRow x0 x1 x2 x3 x4 x5 x6).2 := by
  unfold pageRow
  repeat' first
    | with_reducible first
        | assumption | apply rgPages_kept
    | split

theorem pageBlocks_kept {s₀ : State} (x0 : Nat) (x1 : Nat) (x2 : Nat) (x3 : Nat) (x4 : Nat) (x5 : State) (x6 : Nat)
    (x7 : List (Nat × Nat × Nat)) (h5 : Kept s₀ x5) : Kept s₀ (pageBlocks x0 x1 x2 x3 x4 x5 x6 x7).2 := by
  induction x4 generalizing x0 x1 x2 x3 x5 x6 x7 with
  | zero =>
    unfold pageBlocks
    repeat' first
      | with_reducible first
          | assumption | exact Kept.refl _ | apply rgPages_kept
      | extract_lets | split | dsimp -zeta +zetaDelta only
      | exact rfl | exact id | intro _
  | succ k ih =>
    unfold pageBlocks
    repeat' first
      | with_reducible first
          | assumption | exact Kept.refl _ | apply ih | apply rgPages_kept
      | extract_lets | split | dsimp -zeta +zetaDelta only
      | exact rfl | exact id | intro _

theorem kvPage_kept {s₀ : State} (x0 : State) (x1 : Nat) (x2 : Nat) (x3 : Nat) (x4 : Nat) (x5 : Nat) (x6 : Nat) (h0 :
    Kept s₀ x0) : Kept s₀ (kvPage x0 x1 x2 x3 x4 x5 x6).2 := by
  unfold kvPage
  repeat' first
    | with_reducible first
        | assumption | exact Kept.refl _ | apply pageBlocks_kept | apply translate_kept | apply rgPages_kept
    | extract_lets | split | dsimp -zeta +zetaDelta only
    | exact rfl | exact id | intro _

theorem putBlu_kept {s₀ : State} (x0 : State) (x1 : Nat) (x2 : Nat) (x3 : Blu) (h0 : Kept s₀ x0) : Kept s₀ (putBlu x0
    x1 x2 x3) := by
  unfold putBlu
  repeat' first
    | with_reducible first
        | assumption | exact Kept.refl _
    | extract_lets | split | dsimp -zeta +zetaDelta only
    | with_reducible first
        | apply kept_foldl | apply kept_mk
        | exact memWf_put _ _ | exact memWf_write _ _ | exact memWf_stores _ | exact memWf_filter _
    | exact rfl | exact id | intro _

theorem zeroBlus_kept {s₀ : State} (x0 : State) (x1 : Nat) (h0 : Kept s₀ x0) : Kept s₀ (zeroBlus x0 x1) := by
  unfold zeroBlus
  repeat' first
    | with_reducible first
        | assumption | exact Kept.refl _
    | extract_lets | split | dsimp -zeta +zetaDelta only
    | with_reducible first
        | apply kept_foldl | apply kept_mk
        | exact memWf_put _ _ | exact memWf_write _ _ | exact memWf_stores _ | exact memWf_filter _
    | exact rfl | exact id | intro _

theorem bluCol_kept {s₀ : State} (x0 : State) (x1 : Nat) (x2 : Nat) (x3 : Nat) (x4 : Nat) (h0 : Kept s₀ x0) : Kept s₀
    (bluCol x0 x1 x2 x3 x4).2.2 := by
  unfold bluCol
  repeat' first
    | with_reducible first
        | assumption | exact Kept.refl _ | apply colRead_kept | apply putPcc_kept
    | extract_lets | split | dsimp -zeta +zetaDelta only
    | with_reducible first
        | apply kept_foldl | apply kept_mk
    | exact rfl | exact id | intro _

theorem bluCols_kept {s₀ : State} (x0 : State) (x1 : Nat) (x2 : Nat) (x3 : Nat) (x4 : Nat) (x5 : Nat) (h0 : Kept s₀
    x0) : Kept s₀ (bluCols x0 x1 x2 x3 x4 x5).2.2 := by
  induction x5 generalizing x0 x1 x2 x3 x4 with
  | zero =>
    unfold bluCols
    repeat' first
      | with_reducible first
          | assumption | exact Kept.refl _ | apply bluCol_kept
      | extract_lets | split | dsimp -zeta +zetaDelta only
      | exact rfl | exact id | intro _
  | succ k ih =>
    unfold bluCols
    repeat' first
      | with_reducible first
          | assumption | exact Kept.refl _ | apply ih | apply bluCol_kept
      | extract_lets | split | dsimp -zeta +zetaDelta only
      | exact rfl | exact id | intro _

theorem bluPut_kept {s₀ : State} (x0 : State) (x1 : Nat) (x2 : Nat) (x3 : Nat) (x4 : Nat) (x5 : List Byte) (x6 : Nat)
    (h0 : Kept s₀ x0) : Kept s₀ (bluPut x0 x1 x2 x3 x4 x5 x6) := by
  unfold bluPut
  repeat' first
    | with_reducible first
        | assumption | exact Kept.refl _ | apply flipApply_kept | apply colMerge_kept
    | extract_lets | split | dsimp -zeta +zetaDelta only
    | exact rfl | exact id | intro _

theorem bluBytes_kept {s₀ : State} (x0 : Nat) (x1 : Nat) (x2 : Nat) (x3 : Nat) (x4 : State) (x5 : Nat) (x6 : List
    Byte) (h4 : Kept s₀ x4) : Kept s₀ (bluBytes x0 x1 x2 x3 x4 x5 x6) := by
  induction x3 generalizing x0 x1 x2 x4 x5 x6 with
  | zero =>
    unfold bluBytes
    repeat' first
      | with_reducible first
          | assumption | exact Kept.refl _ | apply bluPut_kept
      | extract_lets | split | dsimp -zeta +zetaDelta only
      | exact rfl | exact id | intro _
  | succ k ih =>
    unfold bluBytes
    repeat' first
      | with_reducible first
          | assumption | exact Kept.refl _ | apply ih | apply bluPut_kept
      | extract_lets | split | dsimp -zeta +zetaDelta only
      | exact rfl | exact id | intro _

theorem rowCodes_kept {s₀ : State} (x0 : State) (x1 : Nat) (x2 : Nat) (x3 : Nat) (x4 : Fmt) (x5 : Nat) (x6 : Nat) (h0
    : Kept s₀ x0) : Kept s₀ (rowCodes x0 x1 x2 x3 x4 x5 x6).2.2 := by
  unfold rowCodes
  repeat' first
    | with_reducible first
        | assumption | exact Kept.refl _ | apply bluCols_kept
    | extract_lets | split | dsimp -zeta +zetaDelta only
    | exact rfl | exact id | intro _

theorem sRes_kept {s₀ : State} (x0 : State) (x1 : NumEv) (x2 : Bool) (h0 : Kept s₀ x0) : Kept s₀ (sRes x0 x1 x2).s :=
    by
  unfold sRes
  repeat' first
    | with_reducible first
        | assumption | exact Kept.refl _
    | extract_lets | split | dsimp -zeta +zetaDelta only
    | with_reducible first
        | apply kept_foldl | apply kept_mk
    | exact rfl | exact id | intro _

theorem sOk_kept {s₀ : State} (x0 : State) (h0 : Kept s₀ x0) : Kept s₀ (sOk x0).s := by
  unfold sOk
  repeat' first
    | with_reducible first
        | assumption | apply sRes_kept
    | split

theorem actGemvScale_kept {s₀ : State} (x0 : State) (x1 : Nat) (x2 : NbSeq) (x3 : Nat) (x4 : Nat) (x5 : Nat) (h0 :
    Kept s₀ x0) : Kept s₀ (actGemvScale x0 x1 x2 x3 x4 x5).s := by
  unfold actGemvScale
  repeat' first
    | with_reducible first
        | assumption | exact Kept.refl _ | apply bluCols_kept | apply sRes_kept | apply putBlu_kept
    | extract_lets | split | dsimp -zeta +zetaDelta only
    | with_reducible first
        | apply kept_foldl | apply kept_foldl_fst | apply kept_foldl_snd | apply kept_foldl_thd | apply kept_mk
    | exact rfl | exact id | intro _

theorem actGemvData_kept {s₀ : State} (x0 : State) (x1 : Nat) (x2 : NbSeq) (x3 : Nat) (x4 : Nat) (x5 : Nat) (x6 : Nat)
    (h0 : Kept s₀ x0) : Kept s₀ (actGemvData x0 x1 x2 x3 x4 x5 x6).s := by
  unfold actGemvData
  repeat' first
    | with_reducible first
        | assumption | exact Kept.refl _ | apply bluCols_kept | apply putBlu_kept
    | extract_lets | split | dsimp -zeta +zetaDelta only
    | with_reducible first
        | apply kept_foldl | apply kept_foldl_fst | apply kept_foldl_snd | apply kept_foldl_thd | apply kept_mk
        | exact memWf_put _ _ | exact memWf_write _ _ | exact memWf_stores _ | exact memWf_filter _
    | exact rfl | exact id | intro _

theorem actGatherRead_kept {s₀ : State} (x0 : State) (x1 : Nat) (x2 : Nat) (x3 : Nat) (x4 : Nat) (x5 : Nat) (x6 : Nat)
    (h0 : Kept s₀ x0) : Kept s₀ (actGatherRead x0 x1 x2 x3 x4 x5 x6).s := by
  unfold actGatherRead
  repeat' first
    | with_reducible first
        | assumption | exact Kept.refl _ | apply bluCols_kept | apply sRes_kept | apply putBlu_kept
    | extract_lets | split | dsimp -zeta +zetaDelta only
    | exact rfl | exact id | intro _

theorem actGatherWrite_kept {s₀ : State} (x0 : State) (x1 : Nat) (x2 : Nat) (x3 : Nat) (x4 : Nat) (x5 : Nat) (x6 :
    Nat) (x7 : Bool) (h0 : Kept s₀ x0) : Kept s₀ (actGatherWrite x0 x1 x2 x3 x4 x5 x6 x7).s := by
  unfold actGatherWrite
  repeat' first
    | with_reducible first
        | assumption | exact Kept.refl _ | apply sOk_kept | apply bluBytes_kept
    | extract_lets | split | dsimp -zeta +zetaDelta only
    | exact rfl | exact id | intro _

theorem actGredAdd_kept {s₀ : State} (x0 : State) (x1 : Nat) (x2 : NbSeq) (x3 : Nat) (x4 : Nat) (x5 : Nat) (x6 : Bool)
    (x7 : Nat) (x8 : Nat) (x9 : Nat) (h0 : Kept s₀ x0) : Kept s₀ (actGredAdd x0 x1 x2 x3 x4 x5 x6 x7 x8 x9).s := by
  unfold actGredAdd
  repeat' first
    | with_reducible first
        | assumption | exact Kept.refl _ | apply rowCodes_kept | apply putBlu_kept
    | extract_lets | split | dsimp -zeta +zetaDelta only
    | with_reducible first
        | apply kept_foldl | apply kept_foldl_fst | apply kept_foldl_snd | apply kept_foldl_thd | apply kept_mk
    | exact rfl | exact id | intro _

theorem actAxpyRead_kept {s₀ : State} (x0 : State) (x1 : Nat) (x2 : NbSeq) (x3 : Nat) (x4 : Nat) (x5 : Nat) (x6 : Nat)
    (x7 : Bool) (h0 : Kept s₀ x0) : Kept s₀ (actAxpyRead x0 x1 x2 x3 x4 x5 x6 x7).s := by
  unfold actAxpyRead
  repeat' first
    | with_reducible first
        | assumption | exact Kept.refl _ | apply bluCols_kept | apply sRes_kept | apply putBlu_kept
        | apply rowCodes_kept
    | extract_lets | split | dsimp -zeta +zetaDelta only
    | exact rfl | exact id | intro _

theorem actAxpyUpdate_kept {s₀ : State} (x0 : State) (x1 : Nat) (x2 : NbSeq) (x3 : Nat) (x4 : Nat) (x5 : Nat) (x6 :
    Nat) (x7 : Nat) (h0 : Kept s₀ x0) : Kept s₀ (actAxpyUpdate x0 x1 x2 x3 x4 x5 x6 x7).s := by
  unfold actAxpyUpdate
  repeat' first
    | with_reducible first
        | assumption | exact Kept.refl _ | apply rowCodes_kept | apply sRes_kept | apply bluBytes_kept
    | extract_lets | split | dsimp -zeta +zetaDelta only
    | with_reducible first
        | apply kept_foldl | apply kept_foldl_fst | apply kept_foldl_snd | apply kept_foldl_thd | apply kept_mk
    | exact rfl | exact id | intro _

theorem actNormStats_kept {s₀ : State} (x0 : State) (x1 : Nat) (x2 : NbSeq) (x3 : Nat) (x4 : Nat) (x5 : Nat) (h0 :
    Kept s₀ x0) : Kept s₀ (actNormStats x0 x1 x2 x3 x4 x5).s := by
  unfold actNormStats
  repeat' first
    | with_reducible first
        | assumption | exact Kept.refl _ | apply rowCodes_kept | apply putBlu_kept
    | extract_lets | split | dsimp -zeta +zetaDelta only
    | with_reducible first
        | apply kept_foldl | apply kept_foldl_fst | apply kept_foldl_snd | apply kept_foldl_thd | apply kept_mk
    | exact rfl | exact id | intro _

theorem actNormRead_kept {s₀ : State} (x0 : State) (x1 : Nat) (x2 : NbSeq) (x3 : Nat) (x4 : Nat) (x5 : Nat) (x6 : Nat)
    (x7 : Bool) (h0 : Kept s₀ x0) : Kept s₀ (actNormRead x0 x1 x2 x3 x4 x5 x6 x7).s := by
  unfold actNormRead
  repeat' first
    | with_reducible first
        | assumption | exact Kept.refl _ | apply rowCodes_kept | apply sRes_kept | apply putBlu_kept
    | extract_lets | split | dsimp -zeta +zetaDelta only
    | exact rfl | exact id | intro _

theorem actNormWrite_kept {s₀ : State} (x0 : State) (x1 : Nat) (x2 : NbSeq) (x3 : Nat) (x4 : Nat) (x5 : Nat) (x6 :
    Nat) (x7 : Nat) (h0 : Kept s₀ x0) : Kept s₀ (actNormWrite x0 x1 x2 x3 x4 x5 x6 x7).s := by
  unfold actNormWrite
  repeat' first
    | with_reducible first
        | assumption | exact Kept.refl _ | apply sRes_kept | apply bluBytes_kept
    | extract_lets | split | dsimp -zeta +zetaDelta only
    | with_reducible first
        | apply kept_foldl | apply kept_foldl_fst | apply kept_foldl_snd | apply kept_foldl_thd | apply kept_mk
    | exact rfl | exact id | intro _

theorem kvRow_kept {s₀ : State} (x0 : State) (x1 : Nat) (x2 : Nat) (x3 : Nat) (x4 : List Nat) (h0 : Kept s₀ x0) : Kept
    s₀ (kvRow x0 x1 x2 x3 x4).2.2 := by
  unfold kvRow
  repeat' first
    | with_reducible first
        | assumption | exact Kept.refl _ | apply bluCol_kept
    | extract_lets | split | dsimp -zeta +zetaDelta only
    | with_reducible first
        | apply kept_foldl | apply kept_foldl_fst | apply kept_foldl_snd | apply kept_foldl_thd | apply kept_mk
    | exact rfl | exact id | intro _

theorem actAttnK_kept {s₀ : State} (x0 : State) (x1 : Nat) (x2 : NbSeq) (x3 : Nat) (x4 : Nat) (x5 : Nat) (x6 : Nat)
    (x7 : Nat) (h0 : Kept s₀ x0) : Kept s₀ (actAttnK x0 x1 x2 x3 x4 x5 x6 x7).s := by
  unfold actAttnK
  repeat' first
    | with_reducible first
        | assumption | exact Kept.refl _ | apply kvRow_kept | apply putBlu_kept
    | extract_lets | split | dsimp -zeta +zetaDelta only
    | with_reducible first
        | apply kept_foldl | apply kept_foldl_fst | apply kept_foldl_snd | apply kept_foldl_thd | apply kept_mk
    | exact rfl | exact id | intro _

theorem actAttnV_kept {s₀ : State} (x0 : State) (x1 : Nat) (x2 : NbSeq) (x3 : Nat) (x4 : Nat) (x5 : Nat) (x6 : Nat)
    (x7 : Nat) (x8 : Bool) (h0 : Kept s₀ x0) : Kept s₀ (actAttnV x0 x1 x2 x3 x4 x5 x6 x7 x8).s := by
  unfold actAttnV
  repeat' first
    | with_reducible first
        | assumption | exact Kept.refl _ | apply kvRow_kept | apply putBlu_kept
    | extract_lets | split | dsimp -zeta +zetaDelta only
    | with_reducible first
        | apply kept_foldl | apply kept_foldl_fst | apply kept_foldl_snd | apply kept_foldl_thd | apply kept_mk
    | exact rfl | exact id | intro _

theorem actAdamRead0_kept {s₀ : State} (x0 : State) (x1 : Nat) (x2 : Nat) (x3 : Nat) (x4 : Nat) (x5 : Nat) (x6 : Nat)
    (h0 : Kept s₀ x0) : Kept s₀ (actAdamRead0 x0 x1 x2 x3 x4 x5 x6).s := by
  unfold actAdamRead0
  repeat' first
    | with_reducible first
        | assumption | exact Kept.refl _ | apply rowCodes_kept | apply sRes_kept | apply putBlu_kept
    | extract_lets | split | dsimp -zeta +zetaDelta only
    | exact rfl | exact id | intro _

theorem actAdamRead_kept {s₀ : State} (x0 : State) (x1 : Nat) (x2 : NbSeq) (x3 : Nat) (x4 : Nat) (x5 : Nat) (x6 : Nat)
    (x7 : Nat) (h0 : Kept s₀ x0) : Kept s₀ (actAdamRead x0 x1 x2 x3 x4 x5 x6 x7).s := by
  unfold actAdamRead
  repeat' first
    | with_reducible first
        | assumption | exact Kept.refl _ | apply actAdamRead0_kept | apply sRes_kept | apply putBlu_kept
    | extract_lets | split | dsimp -zeta +zetaDelta only
    | exact rfl | exact id | intro _

theorem actAdamWrite_kept {s₀ : State} (x0 : State) (x1 : Nat) (x2 : Nat) (x3 : Nat) (x4 : Nat) (x5 : Nat) (x6 : Nat)
    (h0 : Kept s₀ x0) : Kept s₀ (actAdamWrite x0 x1 x2 x3 x4 x5 x6).s := by
  unfold actAdamWrite
  repeat' first
    | with_reducible first
        | assumption | apply sOk_kept | apply bluBytes_kept
    | split

theorem actAdamBf16_kept {s₀ : State} (x0 : State) (x1 : Nat) (x2 : Nat) (x3 : Nat) (x4 : Nat) (x5 : Nat) (h0 : Kept
    s₀ x0) : Kept s₀ (actAdamBf16 x0 x1 x2 x3 x4 x5).s := by
  unfold actAdamBf16
  repeat' first
    | with_reducible first
        | assumption | exact Kept.refl _ | apply sOk_kept | apply bluBytes_kept
    | extract_lets | split | dsimp -zeta +zetaDelta only
    | exact rfl | exact id | intro _

theorem actAdamFp8_kept {s₀ : State} (x0 : State) (x1 : Nat) (x2 : Nat) (x3 : Nat) (x4 : Nat) (x5 : Nat) (h0 : Kept s₀
    x0) : Kept s₀ (actAdamFp8 x0 x1 x2 x3 x4 x5).s := by
  unfold actAdamFp8
  repeat' first
    | with_reducible first
        | assumption | exact Kept.refl _ | apply sOk_kept | apply bluBytes_kept
    | extract_lets | split | dsimp -zeta +zetaDelta only
    | exact rfl | exact id | intro _

theorem actAdamScale_kept {s₀ : State} (x0 : State) (x1 : Nat) (x2 : Nat) (x3 : Nat) (x4 : Nat) (x5 : Nat) (h0 : Kept
    s₀ x0) : Kept s₀ (actAdamScale x0 x1 x2 x3 x4 x5).s := by
  unfold actAdamScale
  repeat' first
    | with_reducible first
        | assumption | exact Kept.refl _ | apply bluCols_kept | apply sOk_kept | apply bluPut_kept
        | apply sRes_kept
    | extract_lets | split | dsimp -zeta +zetaDelta only
    | with_reducible first
        | apply kept_foldl | apply kept_mk
    | exact rfl | exact id | intro _

theorem rowPut_kept {s₀ : State} (x0 : State) (x1 : Nat) (x2 : Nat) (x3 : Nat) (x4 : List Byte) (h0 : Kept s₀ x0) :
    Kept s₀ (rowPut x0 x1 x2 x3 x4) := by
  unfold rowPut
  repeat' first
    | with_reducible first
        | assumption | exact Kept.refl _ | apply putPcc_kept
    | extract_lets | split | dsimp -zeta +zetaDelta only
    | with_reducible first
        | apply kept_foldl | apply kept_mk
        | exact memWf_put _ _ | exact memWf_write _ _ | exact memWf_stores _ | exact memWf_filter _
    | exact rfl | exact id | intro _

theorem burnCol_kept {s₀ : State} (x0 : State) (x1 : Nat) (x2 : Nat) (x3 : Nat) (x4 : Nat) (h0 : Kept s₀ x0) : Kept s₀
    (burnCol x0 x1 x2 x3 x4) := by
  unfold burnCol
  repeat' first
    | with_reducible first
        | assumption | exact Kept.refl _ | apply flipApply_kept | apply colSeal_kept
    | extract_lets | split | dsimp -zeta +zetaDelta only
    | exact rfl | exact id | intro _

theorem burnCols_kept {s₀ : State} (x0 : State) (x1 : Nat) (x2 : Nat) (x3 : Nat) (x4 : Nat) (h0 : Kept s₀ x0) : Kept
    s₀ (burnCols x0 x1 x2 x3 x4) := by
  unfold burnCols
  repeat' first
    | with_reducible first
        | assumption | exact Kept.refl _ | apply burnCol_kept
    | extract_lets | split | dsimp -zeta +zetaDelta only
    | with_reducible first
        | apply kept_foldl | apply kept_mk
    | exact rfl | exact id | intro _

theorem rowPrep_kept {s₀ : State} (x0 : State) (x1 : Nat) (x2 : Nat) (x3 : Nat) (h0 : Kept s₀ x0) : Kept s₀ (rowPrep
    x0 x1 x2 x3) := by
  unfold rowPrep
  repeat' first
    | with_reducible first
        | assumption | exact Kept.refl _ | apply redWriteBack_kept | apply settleLine_kept
    | extract_lets | split | dsimp -zeta +zetaDelta only
    | with_reducible first
        | apply kept_foldl | apply kept_mk
    | exact rfl | exact id | intro _

theorem stitchBank_kept {s₀ : State} (x0 : State) (x1 : Nat) (x2 : Nat) (x3 : Nat) (h0 : Kept s₀ x0) : Kept s₀
    (stitchBank x0 x1 x2 x3) := by
  unfold stitchBank
  repeat' first
    | with_reducible first
        | assumption | exact Kept.refl _ | apply putPcc_kept | apply replayAdd_kept
    | extract_lets | split | dsimp -zeta +zetaDelta only
    | with_reducible first
        | apply kept_foldl | apply kept_mk
    | exact rfl | exact id | intro _

theorem countBurn_kept {s₀ : State} (x0 : State) (x1 : Nat) (x2 : Nat) (x3 : Nat) (h0 : Kept s₀ x0) : Kept s₀
    (countBurn x0 x1 x2 x3) := by
  unfold countBurn
  repeat' first
    | with_reducible first
        | assumption | exact Kept.refl _ | apply bumpF_kept
    | extract_lets | split | dsimp -zeta +zetaDelta only
    | exact rfl | exact id | intro _

theorem burnRow_kept {s₀ : State} (x0 : State) (x1 : Nat) (x2 : Nat) (x3 : Nat) (h0 : Kept s₀ x0) : Kept s₀ (burnRow
    x0 x1 x2 x3) := by
  unfold burnRow
  repeat' first
    | with_reducible first
        | assumption | exact Kept.refl _ | apply rowPrep_kept | apply burnCols_kept | apply countBurn_kept
        | apply stitchBank_kept | apply bumpSat_kept
    | extract_lets | split | dsimp -zeta +zetaDelta only
    | exact rfl | exact id | intro _

theorem autoBurnish_kept {s₀ : State} (x0 : State) (x1 : Nat) (x2 : Nat) (x3 : List (Nat × Nat)) (h0 : Kept s₀ x0) :
    Kept s₀ (autoBurnish x0 x1 x2 x3) := by
  unfold autoBurnish
  repeat' first
    | with_reducible first
        | assumption | exact Kept.refl _ | apply burnRow_kept
    | extract_lets | split | dsimp -zeta +zetaDelta only
    | with_reducible first
        | apply kept_foldl | apply kept_foldl_fst | apply kept_foldl_snd | apply kept_foldl_thd | apply kept_mk
    | exact rfl | exact id | intro _

theorem primMaj_kept {s₀ : State} (x0 : State) (x1 : Nat) (x2 : Nat) (x3 : Nat) (x4 : Nat) (x5 : Nat) (h0 : Kept s₀
    x0) : Kept s₀ (primMaj x0 x1 x2 x3 x4 x5) := by
  unfold primMaj
  repeat' first
    | with_reducible first
        | assumption | exact Kept.refl _ | apply rowPut_kept
    | extract_lets | split | dsimp -zeta +zetaDelta only
    | exact rfl | exact id | intro _

theorem primGroup_kept {s₀ : State} (x0 : State) (x1 : Nat) (x2 : Nat) (x3 : Nat) (x4 : List Nat) (h0 : Kept s₀ x0) :
    Kept s₀ (primGroup x0 x1 x2 x3 x4) := by
  unfold primGroup
  repeat' first
    | with_reducible first
        | assumption | exact Kept.refl _ | apply rowPut_kept | apply primMaj_kept
    | extract_lets | split | dsimp -zeta +zetaDelta only
    | exact rfl | exact id | intro _

theorem actRowPrims_kept {s₀ : State} (x0 : State) (x1 : Nat) (x2 : NbSeq) (x3 : Nat) (x4 : List Nat) (x5 : Nat) (h0 :
    Kept s₀ x0) : Kept s₀ (actRowPrims x0 x1 x2 x3 x4 x5).s := by
  unfold actRowPrims
  repeat' first
    | with_reducible first
        | assumption | exact Kept.refl _ | apply autoBurnish_kept | apply sOk_kept | apply primGroup_kept
    | extract_lets | split | dsimp -zeta +zetaDelta only
    | with_reducible first
        | apply kept_foldl | apply kept_mk
    | exact rfl | exact id | intro _

theorem actVerify_kept {s₀ : State} (x0 : State) (x1 : Nat) (x2 : Nat) (x3 : Nat) (h0 : Kept s₀ x0) : Kept s₀
    (actVerify x0 x1 x2 x3).s := by
  unfold actVerify
  repeat' first
    | with_reducible first
        | assumption | exact Kept.refl _ | apply sOk_kept | apply bluCols_kept | apply sRes_kept
    | extract_lets | split | dsimp -zeta +zetaDelta only
    | exact rfl | exact id | intro _

theorem outBytes_kept {s₀ : State} (x0 : NbSeq) (x1 : Nat) (x2 : State) (x3 : Nat) (x4 : List Byte) (h2 : Kept s₀ x2)
    : Kept s₀ (outBytes x0 x1 x2 x3 x4) := by
  induction x1 generalizing x0 x2 x3 x4 with
  | zero =>
    unfold outBytes
    repeat' first
      | with_reducible first
          | assumption | exact Kept.refl _ | apply pierCharge_kept | apply pocWrite_kept
      | extract_lets | split | dsimp -zeta +zetaDelta only
      | exact rfl | exact id | intro _
  | succ k ih =>
    unfold outBytes
    repeat' first
      | with_reducible first
          | assumption | exact Kept.refl _ | apply ih | apply pierCharge_kept | apply pocWrite_kept
      | extract_lets | split | dsimp -zeta +zetaDelta only
      | exact rfl | exact id | intro _

theorem outAdd_kept {s₀ : State} (x0 : State) (x1 : NbSeq) (x2 : Nat) (x3 : OutVal) (x4 : Nat) (h0 : Kept s₀ x0) :
    Kept s₀ (outAdd x0 x1 x2 x3 x4) := by
  unfold outAdd
  repeat' first
    | with_reducible first
        | assumption | exact Kept.refl _ | apply orderedAccept_kept | apply pierAdd_kept | apply redCharge_kept
        | apply redPoison_kept | apply settleLine_kept | apply redUpdate_kept
    | extract_lets | split | dsimp -zeta +zetaDelta only
    | exact rfl | exact id | intro _

theorem outRed_kept {s₀ : State} (x0 : State) (x1 : NbSeq) (x2 : Nat) (x3 : OutVal) (h0 : Kept s₀ x0) : Kept s₀
    (outRed x0 x1 x2 x3) := by
  unfold outRed
  repeat' first
    | with_reducible first
        | assumption | apply outAdd_kept
    | split

theorem outRun_kept {s₀ : State} (x0 : State) (x1 : NbSeq) (x2 : Nat) (x3 : List OutVal) (h0 : Kept s₀ x0) : Kept s₀
    (outRun x0 x1 x2 x3).1 := by
  unfold outRun
  repeat' first
    | with_reducible first
        | assumption | exact Kept.refl _ | apply outRed_kept | apply outBytes_kept | apply pocPoison_kept
    | extract_lets | split | dsimp -zeta +zetaDelta only
    | with_reducible first
        | apply kept_foldl | apply kept_foldl_fst | apply kept_foldl_snd | apply kept_foldl_thd | apply kept_mk
    | exact rfl | exact id | intro _

theorem outPad_kept {s₀ : State} (x0 : State) (x1 : NbSeq) (h0 : Kept s₀ x0) : Kept s₀ (outPad x0 x1) := by
  unfold outPad
  repeat' first
    | with_reducible first
        | assumption | exact Kept.refl _ | apply outBytes_kept
    | extract_lets | split | dsimp -zeta +zetaDelta only
    | exact rfl | exact id | intro _

theorem drainGemv_kept {s₀ : State} (x0 : State) (x1 : Nat) (x2 : NbSeq) (x3 : Nat) (h0 : Kept s₀ x0) : Kept s₀
    (drainGemv x0 x1 x2 x3).1 := by
  unfold drainGemv
  repeat' first
    | with_reducible first
        | assumption | exact Kept.refl _ | apply outRun_kept | apply putBlu_kept
    | extract_lets | split | dsimp -zeta +zetaDelta only
    | with_reducible first
        | apply kept_foldl | apply kept_foldl_fst | apply kept_foldl_snd | apply kept_foldl_thd | apply kept_mk
    | exact rfl | exact id | intro _

theorem drainGred_kept {s₀ : State} (x0 : State) (x1 : Nat) (x2 : NbSeq) (x3 : Nat) (h0 : Kept s₀ x0) : Kept s₀
    (drainGred x0 x1 x2 x3).1 := by
  unfold drainGred
  repeat' first
    | with_reducible first
        | assumption | exact Kept.refl _ | apply outRun_kept | apply putBlu_kept
    | extract_lets | split | dsimp -zeta +zetaDelta only
    | with_reducible first
        | apply kept_foldl | apply kept_foldl_fst | apply kept_foldl_snd | apply kept_foldl_thd | apply kept_mk
    | exact rfl | exact id | intro _

theorem drainStats_kept {s₀ : State} (x0 : State) (x1 : Nat) (x2 : NbSeq) (x3 : Nat) (h0 : Kept s₀ x0) : Kept s₀
    (drainStats x0 x1 x2 x3).1 := by
  unfold drainStats
  repeat' first
    | with_reducible first
        | assumption | exact Kept.refl _ | apply outRun_kept
    | extract_lets | split | dsimp -zeta +zetaDelta only
    | with_reducible first
        | apply kept_foldl | apply kept_mk
    | exact rfl | exact id | intro _

theorem reduceAttn_kept {s₀ : State} (x0 : State) (x1 : Nat) (x2 : NbSeq) (h0 : Kept s₀ x0) : Kept s₀ (reduceAttn x0
    x1 x2).1 := by
  unfold reduceAttn
  repeat' first
    | with_reducible first
        | assumption | exact Kept.refl _ | apply outRun_kept
    | extract_lets | split | dsimp -zeta +zetaDelta only
    | with_reducible first
        | apply kept_foldl | apply kept_foldl_fst | apply kept_foldl_snd | apply kept_foldl_thd | apply kept_mk
    | exact rfl | exact id | intro _

theorem drainUnit_kept {s₀ : State} (x0 : State) (x1 : Nat) (x2 : NbSeq) (x3 : Nat) (h0 : Kept s₀ x0) : Kept s₀
    (drainUnit x0 x1 x2 x3).1 := by
  unfold drainUnit
  repeat' first
    | with_reducible first
        | assumption | apply drainGemv_kept | apply drainGred_kept | apply drainStats_kept | apply reduceAttn_kept
    | split

theorem chainRetry_kept {s₀ : State} (x0 : Bool) (x1 : Nat) (x2 : NbSeq) (x3 : Nat) (x4 : State) (x5 : Nat) (h4 : Kept
    s₀ x4) : Kept s₀ (chainRetry x0 x1 x2 x3 x4 x5) := by
  unfold chainRetry
  repeat' first
    | with_reducible first
        | assumption | exact Kept.refl _ | apply bumpSat_kept | apply putBlu_kept
    | extract_lets | split | dsimp -zeta +zetaDelta only
    | exact rfl | exact id | intro _

theorem mapSeqs_kept {s₀ : State} (x0 : State) (x1 : NbSeq → NbSeq) (h0 : Kept s₀ x0) : Kept s₀ (mapSeqs x0 x1) := by
  unfold mapSeqs
  repeat' first
    | with_reducible first
        | assumption | exact Kept.refl _
    | extract_lets | split | dsimp -zeta +zetaDelta only
    | with_reducible first
        | apply kept_foldl | apply kept_mk
        | exact memWf_put _ _ | exact memWf_write _ _ | exact memWf_stores _ | exact memWf_filter _
    | exact rfl | exact id | intro _

theorem putSeq_kept {s₀ : State} (x0 : State) (x1 : Nat) (x2 : NbSeq) (h0 : Kept s₀ x0) : Kept s₀ (putSeq x0 x1 x2) :=
    by
  unfold putSeq
  repeat' first
    | with_reducible first
        | assumption | exact Kept.refl _ | apply putPcc_kept
    | extract_lets | split | dsimp -zeta +zetaDelta only
    | with_reducible first
        | apply kept_foldl | apply kept_mk
    | exact rfl | exact id | intro _

theorem putPartAt_kept {s₀ : State} (x0 : State) (x1 : Nat) (x2 : Nat) (x3 : Nat) (x4 : CorePart) (h0 : Kept s₀ x0) :
    Kept s₀ (putPartAt x0 x1 x2 x3 x4) := by
  unfold putPartAt
  repeat' first
    | with_reducible first
        | assumption | exact Kept.refl _ | apply putPart_kept | apply putRec_kept
    | extract_lets | split | dsimp -zeta +zetaDelta only
    | with_reducible first
        | apply kept_foldl | apply kept_mk
    | exact rfl | exact id | intro _

theorem parkedHalt_kept {s₀ : State} (x0 : State) (x1 : NbSeq) (x2 : Nat) (x3 : Nat) (h0 : Kept s₀ x0) : Kept s₀
    (parkedHalt x0 x1 x2 x3) := by
  unfold parkedHalt
  repeat' first
    | with_reducible first
        | assumption | exact Kept.refl _ | apply holdItem_kept | apply putRec_kept
    | extract_lets | split | dsimp -zeta +zetaDelta only
    | with_reducible first
        | apply kept_foldl | apply kept_mk
    | exact rfl | exact id | intro _

theorem pauseSync_kept {s₀ : State} (x0 : State) (x1 : Nat) (h0 : Kept s₀ x0) : Kept s₀ (pauseSync x0 x1) := by
  unfold pauseSync
  repeat' first
    | with_reducible first
        | assumption | exact Kept.refl _ | apply setB_kept
    | extract_lets | split | dsimp -zeta +zetaDelta only
    | exact rfl | exact id | intro _

theorem pauseAll_kept {s₀ : State} (x0 : State) (h0 : Kept s₀ x0) : Kept s₀ (pauseAll x0) := by
  unfold pauseAll
  repeat' first
    | with_reducible first
        | assumption | exact Kept.refl _ | apply pauseSync_kept
    | extract_lets | split | dsimp -zeta +zetaDelta only
    | with_reducible first
        | apply kept_foldl | apply kept_foldl_fst | apply kept_foldl_snd | apply kept_foldl_thd | apply kept_mk
    | exact rfl | exact id | intro _

theorem nbFail_kept {s₀ : State} (x0 : State) (x1 : NbSeq) (x2 : Nat) (x3 : Nat) (h0 : Kept s₀ x0) : Kept s₀ (nbFail
    x0 x1 x2 x3) := by
  unfold nbFail
  repeat' first
    | with_reducible first
        | assumption | exact Kept.refl _ | apply pauseAll_kept | apply mapSeqs_kept | apply haltQueue_kept
        | apply parkedHalt_kept
    | extract_lets | split | dsimp -zeta +zetaDelta only
    | with_reducible first
        | apply kept_foldl | apply kept_mk
    | exact rfl | exact id | intro _

theorem nbPoison_kept {s₀ : State} (x0 : State) (x1 : Nat) (x2 : Nat) (x3 : NbSeq) (x4 : Nat) (h0 : Kept s₀ x0) : Kept
    s₀ (nbPoison x0 x1 x2 x3 x4) := by
  unfold nbPoison
  repeat' first
    | with_reducible first
        | assumption | exact Kept.refl _ | apply putPcc_kept | apply nbFail_kept | apply bumpSat_kept
    | extract_lets | split | dsimp -zeta +zetaDelta only
    | with_reducible first
        | apply kept_foldl | apply kept_mk
    | exact rfl | exact id | intro _

theorem countSave_kept {s₀ : State} (x0 : State) (x1 : Nat) (h0 : Kept s₀ x0) : Kept s₀ (countSave x0 x1) := by
  unfold countSave
  repeat' first
    | with_reducible first
        | assumption | exact Kept.refl _ | apply bumpF_kept
    | extract_lets | split | dsimp -zeta +zetaDelta only
    | with_reducible first
        | apply kept_foldl | apply kept_mk
    | exact rfl | exact id | intro _

theorem saveBanks_kept {s₀ : State} (x0 : State) (x1 : Nat) (x2 : Nat) (h0 : Kept s₀ x0) : Kept s₀ (saveBanks x0 x1
    x2) := by
  unfold saveBanks
  repeat' first
    | with_reducible first
        | assumption | exact Kept.refl _ | apply stitchBank_kept
    | extract_lets | split | dsimp -zeta +zetaDelta only
    | with_reducible first
        | apply kept_foldl | apply kept_mk
    | exact rfl | exact id | intro _

theorem saveBlus_kept {s₀ : State} (x0 : State) (x1 : Nat) (x2 : Nat) (h0 : Kept s₀ x0) : Kept s₀ (saveBlus x0 x1 x2)
    := by
  unfold saveBlus
  repeat' first
    | with_reducible first
        | assumption | exact Kept.refl _ | apply bluBytes_kept | apply zeroBlus_kept | apply countSave_kept
        | apply saveBanks_kept
    | extract_lets | split | dsimp -zeta +zetaDelta only
    | with_reducible first
        | apply kept_foldl | apply kept_mk
    | exact rfl | exact id | intro _

theorem restoreBlus_kept {s₀ : State} (x0 : State) (x1 : Nat) (x2 : Nat) (h0 : Kept s₀ x0) : Kept s₀ (restoreBlus x0
    x1 x2).1 := by
  unfold restoreBlus
  repeat' first
    | with_reducible first
        | assumption | exact Kept.refl _ | apply bluCols_kept | apply putBlu_kept | apply zeroBlus_kept
        | apply countSave_kept | apply saveBanks_kept
    | extract_lets | split | dsimp -zeta +zetaDelta only
    | with_reducible first
        | apply kept_foldl | apply kept_foldl_fst | apply kept_foldl_snd | apply kept_foldl_thd | apply kept_mk
    | exact rfl | exact id | intro _

theorem saveFaulted_kept {s₀ : State} (x0 : State) (x1 : Nat) (x2 : Nat) (h0 : Kept s₀ x0) : Kept s₀ (saveFaulted x0
    x1 x2) := by
  unfold saveFaulted
  repeat' first
    | with_reducible first
        | assumption | exact Kept.refl _ | apply saveBlus_kept | apply putSeq_kept | apply bumpF_kept
    | extract_lets | split | dsimp -zeta +zetaDelta only
    | with_reducible first
        | apply kept_foldl | apply kept_mk
    | exact rfl | exact id | intro _

theorem nbRecount_kept {s₀ : State} (x0 : State) (x1 : NbSeq) (h0 : Kept s₀ x0) : Kept s₀ (nbRecount x0 x1) := by
  unfold nbRecount
  repeat' first
    | with_reducible first
        | assumption | exact Kept.refl _ | apply putPartAt_kept
    | extract_lets | split | dsimp -zeta +zetaDelta only
    | with_reducible first
        | apply kept_foldl | apply kept_mk
    | exact rfl | exact id | intro _

theorem nbFault_kept {s₀ : State} (x0 : State) (x1 : Nat) (x2 : NbSeq) (x3 : Nat) (x4 : Nat) (x5 : Nat) (x6 : Access)
    (h0 : Kept s₀ x0) : Kept s₀ (nbFault x0 x1 x2 x3 x4 x5 x6) := by
  unfold nbFault
  repeat' first
    | with_reducible first
        | assumption | exact Kept.refl _ | apply pauseSync_kept | apply saveFaulted_kept | apply putSeq_kept
        | apply nbRecount_kept | apply putQ_kept | apply faultPush_kept | apply putPartAt_kept
    | extract_lets | split | dsimp -zeta +zetaDelta only
    | with_reducible first
        | apply kept_foldl | apply kept_mk
    | exact rfl | exact id | intro _

theorem seqRestored_kept {s₀ : State} (x0 : Nat) (x1 : NbSeq) (x2 : State × Option Nat) (h2 : Kept s₀ x2.1) : Kept s₀
    (seqRestored x0 x1 x2) := by
  unfold seqRestored
  repeat' first
    | with_reducible first
        | assumption | exact Kept.refl _ | apply nbPoison_kept
    | extract_lets | split | dsimp -zeta +zetaDelta only
    | exact rfl | exact id | intro _

theorem seqGo_kept {s₀ : State} (x0 : State) (x1 : Nat) (x2 : NbSeq) (h0 : Kept s₀ x0) : Kept s₀ (seqGo x0 x1 x2) :=
    by
  unfold seqGo
  repeat' first
    | with_reducible first
        | assumption | exact Kept.refl _ | apply seqRestored_kept | apply restoreBlus_kept | apply putSeq_kept
        | apply zeroBlus_kept
    | extract_lets | split | dsimp -zeta +zetaDelta only
    | with_reducible first
        | apply kept_foldl | apply kept_mk
    | exact rfl | exact id | intro _

theorem sequenceStartEffect_kept {s₀ : State} (x0 : Fin 8) (x1 : Fin 64) (x2 : State) (h2 : Kept s₀ x2) : Kept s₀
    (sequenceStartEffect x0 x1 x2) := by
  unfold sequenceStartEffect
  repeat' first
    | with_reducible first
        | assumption | apply seqGo_kept
    | split

theorem execSequenceStart_kept {s₀ : State} (x0 : Fin 8) (x1 : Fin 64) (x2 : State) (h2 : Kept s₀ x2) : ∀ t,
    execSequenceStart x0 x1 x2 = .next t → Kept s₀ t := by
  intro t ht
  unfold execSequenceStart at ht
  cases ht
  repeat' first
    | with_reducible first
        | assumption | exact Kept.refl _ | apply clocked_kept | apply sequenceStartEffect_kept
    | extract_lets | split | dsimp -zeta +zetaDelta only
    | exact rfl | exact id | intro _

theorem suspendRunning_kept {s₀ : State} (x0 : State) (x1 : Nat) (h0 : Kept s₀ x0) : Kept s₀ (suspendRunning x0 x1) :=
    by
  unfold suspendRunning
  repeat' first
    | with_reducible first
        | assumption | exact Kept.refl _ | apply saveBlus_kept | apply bumpF_kept | apply putSeq_kept
        | apply seqGo_kept
    | extract_lets | split | dsimp -zeta +zetaDelta only
    | with_reducible first
        | apply kept_foldl | apply kept_mk
    | exact rfl | exact id | intro _

theorem sequenceSuspendEffect_kept {s₀ : State} (x0 : Fin 8) (x1 : Fin 64) (x2 : State) (h2 : Kept s₀ x2) : Kept s₀
    (sequenceSuspendEffect x0 x1 x2) := by
  unfold sequenceSuspendEffect
  repeat' first
    | with_reducible first
        | assumption | exact Kept.refl _ | apply pauseSync_kept | apply saveFaulted_kept
        | apply suspendRunning_kept
    | extract_lets | split | dsimp -zeta +zetaDelta only
    | exact rfl | exact id | intro _

theorem execSequenceSuspend_kept {s₀ : State} (x0 : Fin 8) (x1 : Fin 64) (x2 : State) (h2 : Kept s₀ x2) : ∀ t,
    execSequenceSuspend x0 x1 x2 = .next t → Kept s₀ t := by
  intro t ht
  unfold execSequenceSuspend at ht
  cases ht
  repeat' first
    | with_reducible first
        | assumption | exact Kept.refl _ | apply clocked_kept | apply sequenceSuspendEffect_kept
    | extract_lets | split | dsimp -zeta +zetaDelta only
    | exact rfl | exact id | intro _

theorem opsRead_kept {s₀ : State} (x0 : State) (x1 : NbSeq) (x2 : List (Nat × Nat)) (h0 : Kept s₀ x0) : Kept s₀
    (opsRead x0 x1 x2).2 := by
  unfold opsRead
  repeat' first
    | with_reducible first
        | assumption | exact Kept.refl _ | apply freeBit_kept
    | extract_lets | split | dsimp -zeta +zetaDelta only
    | with_reducible first
        | apply kept_foldl | apply kept_foldl_fst | apply kept_foldl_snd | apply kept_foldl_thd | apply kept_mk
    | exact rfl | exact id | intro _

theorem beatReqs_kept {s₀ : State} (x0 : State) (x1 : Nat) (x2 : Bool) (x3 : Nat) (x4 : Nat) (x5 : Nat) (h0 : Kept s₀
    x0) : Kept s₀ (beatReqs x0 x1 x2 x3 x4 x5) := by
  induction x4 generalizing x0 x1 x2 x3 x5 with
  | zero =>
    unfold beatReqs
    repeat' first
      | with_reducible first
          | assumption | exact Kept.refl _ | apply reqAdd_kept
      | extract_lets | split | dsimp -zeta +zetaDelta only
      | with_reducible first
          | apply kept_foldl | apply kept_mk
      | exact rfl | exact id | intro _
  | succ k ih =>
    unfold beatReqs
    repeat' first
      | with_reducible first
          | assumption | exact Kept.refl _ | apply ih | apply reqAdd_kept
      | extract_lets | split | dsimp -zeta +zetaDelta only
      | with_reducible first
          | apply kept_foldl | apply kept_mk
      | exact rfl | exact id | intro _

theorem broadcastEffect_kept {s₀ : State} (x0 : Fin 8) (x1 : Fin 64) (x2 : State) (h2 : Kept s₀ x2) : Kept s₀
    (broadcastEffect x0 x1 x2) := by
  unfold broadcastEffect
  repeat' first
    | with_reducible first
        | assumption | exact Kept.refl _ | apply opsRead_kept | apply nbFail_kept | apply putSeq_kept
        | apply putBlu_kept | apply beatReqs_kept
    | extract_lets | split | dsimp -zeta +zetaDelta only
    | with_reducible first
        | apply kept_foldl | apply kept_foldl_fst | apply kept_foldl_snd | apply kept_foldl_thd | apply kept_mk
    | exact rfl | exact id | intro _

theorem execBroadcast_kept {s₀ : State} (x0 : Fin 8) (x1 : Fin 64) (x2 : State) (h2 : Kept s₀ x2) : ∀ t, execBroadcast
    x0 x1 x2 = .next t → Kept s₀ t := by
  intro t ht
  unfold execBroadcast at ht
  cases ht
  repeat' first
    | with_reducible first
        | assumption | exact Kept.refl _ | apply clocked_kept | apply broadcastEffect_kept
    | extract_lets | split | dsimp -zeta +zetaDelta only
    | exact rfl | exact id | intro _

theorem readEntry_kept {s₀ : State} (x0 : State) (x1 : Nat) (x2 : NbSeq) (x3 : Nat) (h0 : Kept s₀ x0) : Kept s₀
    (readEntry x0 x1 x2 x3).2 := by
  unfold readEntry
  repeat' first
    | with_reducible first
        | assumption | exact Kept.refl _ | apply translate_kept | apply readVa_kept | apply kvPage_kept
    | extract_lets | split | dsimp -zeta +zetaDelta only
    | with_reducible first
        | apply kept_foldl | apply kept_mk
    | exact rfl | exact id | intro _

theorem readEntries_kept {s₀ : State} (x0 : Nat) (x1 : NbSeq) (x2 : List Nat) (x3 : State) (x4 : List (Nat × Nat)) (x5
    : List (Nat × Nat)) (h3 : Kept s₀ x3) : Kept s₀ (readEntries x0 x1 x2 x3 x4 x5).2 := by
  induction x2 generalizing x0 x1 x3 x4 x5 with
  | nil =>
    unfold readEntries
    repeat' first
      | with_reducible first
          | assumption | exact Kept.refl _ | apply readEntry_kept
      | extract_lets | split | dsimp -zeta +zetaDelta only
      | exact rfl | exact id | intro _
  | cons y r ih =>
    unfold readEntries
    repeat' first
      | with_reducible first
          | assumption | exact Kept.refl _ | apply ih | apply readEntry_kept
      | extract_lets | split | dsimp -zeta +zetaDelta only
      | exact rfl | exact id | intro _

theorem stitchRow_kept {s₀ : State} (x0 : State) (x1 : Nat) (x2 : NbSeq) (x3 : Nat) (x4 : RowRef) (h0 : Kept s₀ x0) :
    Kept s₀ (stitchRow x0 x1 x2 x3 x4).2 := by
  unfold stitchRow
  repeat' first
    | with_reducible first
        | assumption | exact Kept.refl _ | apply pageRow_kept | apply rgRow_kept
    | extract_lets | split | dsimp -zeta +zetaDelta only
    | exact rfl | exact id | intro _

theorem stitchRows_kept {s₀ : State} (x0 : Nat) (x1 : NbSeq) (x2 : Nat) (x3 : List RowRef) (x4 : State) (x5 : List
    Nat) (x6 : List (Nat × Nat × Nat)) (h4 : Kept s₀ x4) : Kept s₀ (stitchRows x0 x1 x2 x3 x4 x5 x6).2 := by
  induction x3 generalizing x0 x1 x2 x4 x5 x6 with
  | nil =>
    unfold stitchRows
    repeat' first
      | with_reducible first
          | assumption | exact Kept.refl _ | apply stitchRow_kept
      | extract_lets | split | dsimp -zeta +zetaDelta only
      | exact rfl | exact id | intro _
  | cons y r ih =>
    unfold stitchRows
    repeat' first
      | with_reducible first
          | assumption | exact Kept.refl _ | apply ih | apply stitchRow_kept
      | extract_lets | split | dsimp -zeta +zetaDelta only
      | exact rfl | exact id | intro _

theorem stitchAct_kept {s₀ : State} (x0 : State) (x1 : Nat) (x2 : NbSeq) (x3 : Plan) (x4 : List Nat) (h0 : Kept s₀ x0)
    : Kept s₀ (stitchAct x0 x1 x2 x3 x4).s := by
  unfold stitchAct
  repeat' first
    | with_reducible first
        | assumption | exact Kept.refl _ | apply actGemvScale_kept | apply actGemvData_kept
        | apply actGatherRead_kept | apply actGatherWrite_kept | apply actGredAdd_kept | apply actAxpyRead_kept
        | apply actAxpyUpdate_kept | apply actNormStats_kept | apply actNormRead_kept | apply actNormWrite_kept
        | apply actAttnK_kept | apply actAttnV_kept | apply actAdamRead_kept | apply actAdamWrite_kept
        | apply actAdamBf16_kept | apply actAdamFp8_kept | apply actAdamScale_kept | apply actRowPrims_kept
        | apply actVerify_kept | apply sOk_kept | apply burnCols_kept
    | extract_lets | split | dsimp -zeta +zetaDelta only
    | exact rfl | exact id | intro _

theorem stitchWork_kept {s₀ : State} (x0 : State) (x1 : Nat) (x2 : NbSeq) (x3 : Plan) (x4 : List Nat) (x5 : Bool) (h0
    : Kept s₀ x0) : Kept s₀ (stitchWork x0 x1 x2 x3 x4 x5).s := by
  unfold stitchWork
  repeat' first
    | with_reducible first
        | assumption | exact Kept.refl _ | apply freeWord_kept | apply stitchAct_kept | apply putBlu_kept
        | apply sRes_kept
    | extract_lets | split | dsimp -zeta +zetaDelta only
    | with_reducible first
        | apply kept_foldl | apply kept_mk
    | exact rfl | exact id | intro _

theorem noteCopy_kept {s₀ : State} (x0 : State) (x1 : Nat) (x2 : Plan) (x3 : List Nat) (h0 : Kept s₀ x0) : Kept s₀
    (noteCopy x0 x1 x2 x3) := by
  unfold noteCopy
  repeat' first
    | with_reducible first
        | assumption | exact Kept.refl _ | apply putPcc_kept
    | extract_lets | split | dsimp -zeta +zetaDelta only
    | with_reducible first
        | apply kept_foldl | apply kept_mk
    | exact rfl | exact id | intro _

theorem stitchRun_kept {s₀ : State} (x0 : State) (x1 : Nat) (x2 : NbSeq) (x3 : Plan) (x4 : List Nat) (x5 : List (Nat ×
    Nat × Nat)) (x6 : Bool) (h0 : Kept s₀ x0) : Kept s₀ (stitchRun x0 x1 x2 x3 x4 x5 x6) := by
  unfold stitchRun
  repeat' first
    | with_reducible first
        | assumption | exact Kept.refl _ | apply rowPrep_kept | apply putSeq_kept | apply stitchWork_kept
        | apply noteCopy_kept | apply setB_kept | apply stitchBank_kept | apply nbPoison_kept
    | extract_lets | split | dsimp -zeta +zetaDelta only
    | with_reducible first
        | apply kept_foldl | apply kept_foldl_fst | apply kept_foldl_snd | apply kept_foldl_thd | apply kept_mk
    | exact rfl | exact id | intro _

theorem groupRead_kept {s₀ : State} (x0 : State) (x1 : Nat) (x2 : NbSeq) (h0 : Kept s₀ x0) : Kept s₀ (groupRead x0 x1
    x2) := by
  unfold groupRead
  repeat' first
    | with_reducible first
        | assumption | exact Kept.refl _ | apply opsRead_kept | apply putSeq_kept | apply nbFail_kept
    | extract_lets | split | dsimp -zeta +zetaDelta only
    | with_reducible first
        | apply kept_foldl | apply kept_mk
    | exact rfl | exact id | intro _

theorem bankClose_kept {s₀ : State} (x0 : State) (x1 : Nat) (x2 : Nat) (h0 : Kept s₀ x0) : Kept s₀ (bankClose x0 x1
    x2) := by
  unfold bankClose
  repeat' first
    | with_reducible first
        | assumption | exact Kept.refl _ | apply putPcc_kept | apply replayAdd_kept
    | extract_lets | split | dsimp -zeta +zetaDelta only
    | with_reducible first
        | apply kept_foldl | apply kept_mk
    | exact rfl | exact id | intro _

theorem stitchNext_kept {s₀ : State} (x0 : State) (x1 : Nat) (x2 : NbSeq) (x3 : Bool) (h0 : Kept s₀ x0) : Kept s₀
    (stitchNext x0 x1 x2 x3) := by
  unfold stitchNext
  repeat' first
    | with_reducible first
        | assumption | exact Kept.refl _ | apply readEntries_kept | apply nbFail_kept | apply nbFault_kept
        | apply groupRead_kept | apply putSeq_kept | apply bankClose_kept | apply stitchRows_kept
        | apply stitchRun_kept
    | extract_lets | split | dsimp -zeta +zetaDelta only
    | with_reducible first
        | apply kept_foldl | apply kept_mk
    | exact rfl | exact id | intro _

theorem stitchStartEffect_kept {s₀ : State} (x0 : Fin 8) (x1 : Fin 64) (x2 : Bool) (x3 : State) (h3 : Kept s₀ x3) :
    Kept s₀ (stitchStartEffect x0 x1 x2 x3) := by
  unfold stitchStartEffect
  repeat' first
    | with_reducible first
        | assumption | exact Kept.refl _ | apply stitchNext_kept | apply setB_kept
    | extract_lets | split | dsimp -zeta +zetaDelta only
    | exact rfl | exact id | intro _

theorem execStitchStart_kept {s₀ : State} (x0 : Fin 8) (x1 : Fin 64) (x2 : Bool) (x3 : State) (h3 : Kept s₀ x3) : ∀ t,
    execStitchStart x0 x1 x2 x3 = .next t → Kept s₀ t := by
  intro t ht
  unfold execStitchStart at ht
  cases ht
  repeat' first
    | with_reducible first
        | assumption | exact Kept.refl _ | apply clocked_kept | apply stitchStartEffect_kept
    | extract_lets | split | dsimp -zeta +zetaDelta only
    | exact rfl | exact id | intro _

theorem serveBank_kept {s₀ : State} (x0 : Nat) (x1 : Nat) (x2 : Nat) (x3 : State) (h3 : Kept s₀ x3) : Kept s₀
    (serveBank x0 x1 x2 x3) := by
  induction x2 generalizing x0 x1 x3 with
  | zero =>
    unfold serveBank
    repeat' first
      | with_reducible first
          | assumption | exact Kept.refl _ | apply issueReq_kept
      | extract_lets | split | dsimp -zeta +zetaDelta only
      | exact rfl | exact id | intro _
  | succ k ih =>
    unfold serveBank
    repeat' first
      | with_reducible first
          | assumption | exact Kept.refl _ | apply ih | apply issueReq_kept
      | extract_lets | split | dsimp -zeta +zetaDelta only
      | exact rfl | exact id | intro _

theorem markBank_kept {s₀ : State} (x0 : State) (x1 : Nat) (x2 : Nat) (h0 : Kept s₀ x0) : Kept s₀ (markBank x0 x1 x2)
    := by
  unfold markBank
  repeat' first
    | with_reducible first
        | assumption | exact Kept.refl _ | apply putPcc_kept
    | extract_lets | split | dsimp -zeta +zetaDelta only
    | with_reducible first
        | apply kept_foldl | apply kept_mk
    | exact rfl | exact id | intro _

theorem stitchFinish_kept {s₀ : State} (x0 : State) (x1 : Nat) (x2 : NbSeq) (x3 : Stitch) (h0 : Kept s₀ x0) : Kept s₀
    (stitchFinish x0 x1 x2 x3) := by
  unfold stitchFinish
  repeat' first
    | with_reducible first
        | assumption | exact Kept.refl _ | apply putSeq_kept | apply bumpF_kept | apply numevAdd_kept
        | apply saveFaulted_kept | apply markBank_kept | apply serveBank_kept
    | extract_lets | split | dsimp -zeta +zetaDelta only
    | with_reducible first
        | apply kept_foldl | apply kept_mk
    | exact rfl | exact id | intro _

theorem execStitchEnd_kept {s₀ : State} (x0 : Fin 8) (x1 : Fin 64) (x2 : Nat) (x3 : State) (h3 : Kept s₀ x3) : ∀ t,
    execStitchEnd x0 x1 x2 x3 = .next t → Kept s₀ t := by
  intro t ht
  unfold execStitchEnd at ht
  cases ht
  repeat' first
    | with_reducible first
        | assumption | exact Kept.refl _ | apply clocked_kept | apply stitchFinish_kept
    | extract_lets | split | dsimp -zeta +zetaDelta only
    | exact rfl | exact id | intro _

theorem outTr_kept {s₀ : State} (x0 : Nat) (x1 : Nat) (x2 : Nat) (x3 : Access) (x4 : Bool) (x5 : Nat) (x6 : Nat) (x7 :
    OutTr) (x8 : Nat) (h7 : Kept s₀ x7.s) : Kept s₀ (outTr x0 x1 x2 x3 x4 x5 x6 x7 x8).s := by
  induction x6 generalizing x0 x1 x2 x3 x4 x5 x7 x8 with
  | zero =>
    unfold outTr
    repeat' first
      | with_reducible first
          | assumption | exact Kept.refl _ | apply translate_kept
      | extract_lets | split | dsimp -zeta +zetaDelta only
      | with_reducible first
          | apply kept_foldl | apply kept_mk
      | exact rfl | exact id | intro _
  | succ k ih =>
    unfold outTr
    repeat' first
      | with_reducible first
          | assumption | exact Kept.refl _ | apply ih | apply translate_kept
      | extract_lets | split | dsimp -zeta +zetaDelta only
      | with_reducible first
          | apply kept_foldl | apply kept_mk
      | exact rfl | exact id | intro _

theorem outAgain_kept {s₀ : State} (x0 : State) (x1 : NbSeq) (h0 : Kept s₀ x0) : Kept s₀ (outAgain x0 x1).s := by
  unfold outAgain
  extract_lets a acc
  refine kept_foldl_at (fun r : OutTr => r.s) (fun t y ht => ?_) h0
  dsimp only
  split
  · exact ht
  · split
    · exact ht
    · exact outTr_kept _ _ _ _ _ _ _ _ _ ht

theorem chainFails_kept {s₀ : State} (x0 : State) (x1 : Nat) (x2 : NbSeq) (x3 : Nat) (x4 : List Nat) (x5 : List Nat)
    (h0 : Kept s₀ x0) : Kept s₀ (chainFails x0 x1 x2 x3 x4 x5) := by
  unfold chainFails
  repeat' first
    | with_reducible first
        | assumption | exact Kept.refl _ | apply chainRetry_kept
    | extract_lets | split | dsimp -zeta +zetaDelta only
    | with_reducible first
        | apply kept_foldl | apply kept_mk
    | exact rfl | exact id | intro _

theorem unitWrite_kept {s₀ : State} (x0 : State) (x1 : Nat) (x2 : NbSeq) (x3 : Nat) (h0 : Kept s₀ x0) : Kept s₀
    (unitWrite x0 x1 x2 x3) := by
  unfold unitWrite
  repeat' first
    | with_reducible first
        | assumption | exact Kept.refl _ | apply drainUnit_kept | apply beatReqs_kept | apply numevAdd_kept
        | apply outPad_kept | apply putSeq_kept
    | extract_lets | split | dsimp -zeta +zetaDelta only
    | with_reducible first
        | apply kept_foldl | apply kept_mk
    | exact rfl | exact id | intro _

theorem chainPoison_kept {s₀ : State} (x0 : State) (x1 : Nat) (x2 : NbSeq) (x3 : Nat) (x4 : List Nat) (h0 : Kept s₀
    x0) : Kept s₀ (chainPoison x0 x1 x2 x3 x4) := by
  unfold chainPoison
  repeat' first
    | with_reducible first
        | assumption | exact Kept.refl _ | apply nbPoison_kept
    | extract_lets | split | dsimp -zeta +zetaDelta only
    | with_reducible first
        | apply kept_foldl | apply kept_foldl_fst | apply kept_foldl_snd | apply kept_foldl_thd | apply kept_mk
    | exact rfl | exact id | intro _

theorem unitOut_kept {s₀ : State} (x0 : State) (x1 : Nat) (x2 : NbSeq) (x3 : Nat) (x4 : List Nat) (x5 : List Nat) (h0
    : Kept s₀ x0) : Kept s₀ (unitOut x0 x1 x2 x3 x4 x5) := by
  unfold unitOut
  repeat' first
    | with_reducible first
        | assumption | exact Kept.refl _ | apply chainFails_kept | apply unitWrite_kept | apply nbFail_kept
        | apply putSeq_kept | apply chainPoison_kept
    | extract_lets | split | dsimp -zeta +zetaDelta only
    | with_reducible first
        | apply kept_foldl | apply kept_mk
    | exact rfl | exact id | intro _

theorem unitDrain_kept {s₀ : State} (x0 : State) (x1 : Nat) (x2 : NbSeq) (x3 : Nat) (x4 : List Nat) (x5 : List Nat)
    (h0 : Kept s₀ x0) : Kept s₀ (unitDrain x0 x1 x2 x3 x4 x5) := by
  unfold unitDrain
  repeat' first
    | with_reducible first
        | assumption | exact Kept.refl _ | apply outAgain_kept | apply unitOut_kept | apply putSeq_kept
        | apply nbFail_kept | apply nbFault_kept
    | extract_lets | split | dsimp -zeta +zetaDelta only
    | with_reducible first
        | apply kept_foldl | apply kept_foldl_fst | apply kept_foldl_snd | apply kept_foldl_thd | apply kept_mk
        | exact memWf_put _ _ | exact memWf_write _ _ | exact memWf_stores _ | exact memWf_filter _
    | exact rfl | exact id | intro _

theorem chainStep_kept {s₀ : State} (x0 : Fin 8) (x1 : Fin 64) (x2 : Bool) (x3 : List Nat) (x4 : List Nat) (x5 :
    State) (h5 : Kept s₀ x5) : Kept s₀ (chainStep x0 x1 x2 x3 x4 x5) := by
  unfold chainStep
  repeat' first
    | with_reducible first
        | assumption | exact Kept.refl _ | apply unitDrain_kept
    | extract_lets | split | dsimp -zeta +zetaDelta only
    | exact rfl | exact id | intro _

theorem execChainDrain_kept {s₀ : State} (x0 : Fin 8) (x1 : Fin 64) (x2 : List Nat) (x3 : List Nat) (x4 : State) (h4 :
    Kept s₀ x4) : ∀ t, execChainDrain x0 x1 x2 x3 x4 = .next t → Kept s₀ t := by
  intro t ht
  unfold execChainDrain at ht
  cases ht
  repeat' first
    | with_reducible first
        | assumption | exact Kept.refl _ | apply clocked_kept | apply chainStep_kept
    | extract_lets | split | dsimp -zeta +zetaDelta only
    | exact rfl | exact id | intro _

theorem execChainReduce_kept {s₀ : State} (x0 : Fin 8) (x1 : Fin 64) (x2 : List Nat) (x3 : List Nat) (x4 : State) (h4
    : Kept s₀ x4) : ∀ t, execChainReduce x0 x1 x2 x3 x4 = .next t → Kept s₀ t := by
  intro t ht
  unfold execChainReduce at ht
  cases ht
  repeat' first
    | with_reducible first
        | assumption | exact Kept.refl _ | apply clocked_kept | apply chainStep_kept
    | extract_lets | split | dsimp -zeta +zetaDelta only
    | exact rfl | exact id | intro _

theorem parkedRelease_kept {s₀ : State} (x0 : Nat) (x1 : Nat) (x2 : Nat) (x3 : Nat) (x4 : State) (h4 : Kept s₀ x4) :
    Kept s₀ (parkedRelease x0 x1 x2 x3 x4) := by
  induction x3 generalizing x0 x1 x2 x4 with
  | zero =>
    unfold parkedRelease
    repeat' first
      | with_reducible first
          | assumption | exact Kept.refl _ | apply putRec_kept | apply dmaevAdd_kept | apply numevAdd_kept
          | apply sendSignal_kept | apply putItem_kept
      | extract_lets | split | dsimp -zeta +zetaDelta only
      | with_reducible first
          | apply kept_foldl | apply kept_mk
      | exact rfl | exact id | intro _
  | succ k ih =>
    unfold parkedRelease
    repeat' first
      | with_reducible first
          | assumption | exact Kept.refl _ | apply ih | apply putRec_kept | apply dmaevAdd_kept
          | apply numevAdd_kept | apply sendSignal_kept | apply putItem_kept
      | extract_lets | split | dsimp -zeta +zetaDelta only
      | with_reducible first
          | apply kept_foldl | apply kept_mk
      | exact rfl | exact id | intro _

theorem nbCmdDone_kept {s₀ : State} (x0 : State) (x1 : NbSeq) (x2 : Nat) (h0 : Kept s₀ x0) : Kept s₀ (nbCmdDone x0 x1
    x2) := by
  unfold nbCmdDone
  repeat' first
    | with_reducible first
        | assumption | exact Kept.refl _ | apply putPartAt_kept | apply parkedRelease_kept
    | extract_lets | split | dsimp -zeta +zetaDelta only
    | with_reducible first
        | apply kept_foldl | apply kept_mk
    | exact rfl | exact id | intro _

theorem burnStart_kept {s₀ : State} (x0 : State) (x1 : Nat) (h0 : Kept s₀ x0) : Kept s₀ (burnStart x0 x1) := by
  unfold burnStart
  repeat' first
    | with_reducible first
        | assumption | exact Kept.refl _ | apply putPcc_kept
    | extract_lets | split | dsimp -zeta +zetaDelta only
    | with_reducible first
        | apply kept_foldl | apply kept_mk
        | exact memWf_put _ _ | exact memWf_write _ _ | exact memWf_stores _ | exact memWf_filter _
    | exact rfl | exact id | intro _

theorem seqLeave_kept {s₀ : State} (x0 : State) (x1 : Nat) (x2 : NbSeq) (h0 : Kept s₀ x0) : Kept s₀ (seqLeave x0 x1
    x2) := by
  unfold seqLeave
  repeat' first
    | with_reducible first
        | assumption | exact Kept.refl _ | apply putPcc_kept | apply pauseSync_kept | apply zeroBlus_kept
        | apply setB_kept | apply burnStart_kept | apply nbRecount_kept | apply mapSeqs_kept | apply nbCmdDone_kept
    | extract_lets | split | dsimp -zeta +zetaDelta only
    | with_reducible first
        | apply kept_foldl | apply kept_mk
    | exact rfl | exact id | intro _

theorem sequenceEndEffect_kept {s₀ : State} (x0 : Fin 8) (x1 : Fin 64) (x2 : State) (h2 : Kept s₀ x2) : Kept s₀
    (sequenceEndEffect x0 x1 x2) := by
  unfold sequenceEndEffect
  repeat' first
    | with_reducible first
        | assumption | exact Kept.refl _ | apply seqLeave_kept
    | extract_lets | split | dsimp -zeta +zetaDelta only
    | exact rfl | exact id | intro _

theorem execSequenceEnd_kept {s₀ : State} (x0 : Fin 8) (x1 : Fin 64) (x2 : State) (h2 : Kept s₀ x2) : ∀ t,
    execSequenceEnd x0 x1 x2 = .next t → Kept s₀ t := by
  intro t ht
  unfold execSequenceEnd at ht
  cases ht
  repeat' first
    | with_reducible first
        | assumption | exact Kept.refl _ | apply clocked_kept | apply sequenceEndEffect_kept
    | extract_lets | split | dsimp -zeta +zetaDelta only
    | exact rfl | exact id | intro _

theorem execNbsPoisonPulse_kept {s₀ : State} (x0 : Fin 8) (x1 : Fin 64) (x2 : State) (h2 : Kept s₀ x2) : ∀ t,
    execNbsPoisonPulse x0 x1 x2 = .next t → Kept s₀ t := by
  intro t ht
  unfold execNbsPoisonPulse at ht
  cases ht
  repeat' first
    | with_reducible first
        | assumption | exact Kept.refl _ | apply clocked_kept | apply putPcc_kept
    | extract_lets | split | dsimp -zeta +zetaDelta only
    | with_reducible first
        | apply kept_foldl | apply kept_mk
    | exact rfl | exact id | intro _

theorem burnishAllEffect_kept {s₀ : State} (x0 : Fin 8) (x1 : Fin 64) (x2 : Nat) (x3 : State) (h3 : Kept s₀ x3) : Kept
    s₀ (burnishAllEffect x0 x1 x2 x3) := by
  unfold burnishAllEffect
  repeat' first
    | with_reducible first
        | assumption | exact Kept.refl _ | apply reject_kept | apply setB_kept | apply burnStart_kept
    | extract_lets | split | dsimp -zeta +zetaDelta only
    | exact rfl | exact id | intro _

theorem execBurnishAll_kept {s₀ : State} (x0 : Fin 8) (x1 : Fin 64) (x2 : Nat) (x3 : State) (h3 : Kept s₀ x3) : ∀ t,
    execBurnishAll x0 x1 x2 x3 = .next t → Kept s₀ t := by
  intro t ht
  unfold execBurnishAll at ht
  cases ht
  repeat' first
    | with_reducible first
        | assumption | exact Kept.refl _ | apply clocked_kept | apply pccGuarded_kept | apply burnishAllEffect_kept
    | extract_lets | split | dsimp -zeta +zetaDelta only
    | exact rfl | exact id | intro _

theorem nbOutTr_kept {s₀ : State} (x0 : State) (x1 : Nat) (x2 : Nat) (x3 : Nat) (x4 : Words) (x5 : List Nat)
    (h0 : Kept s₀ x0) : Kept s₀ (nbOutTr x0 x1 x2 x3 x4 x5).s := by
  unfold nbOutTr
  extract_lets a o
  refine kept_foldl_at (fun r : OutTr => r.s) (fun t y ht => ?_) (outTr_kept _ _ _ _ _ _ _ _ _ h0)
  show Kept s₀ (if _ then t else outTr _ _ _ _ _ _ _ t _).s
  split
  · exact ht
  · exact outTr_kept _ _ _ _ _ _ _ _ _ ht

theorem sendSeq_kept {s₀ : State} (x0 : State) (x1 : Nat) (x2 : NbSeq) (h0 : Kept s₀ x0) : Kept s₀ (sendSeq x0 x1 x2)
    := by
  unfold sendSeq
  repeat' first
    | with_reducible first
        | assumption | exact Kept.refl _ | apply putPcc_kept
    | extract_lets | split | dsimp -zeta +zetaDelta only
    | with_reducible first
        | apply kept_foldl | apply kept_mk
        | exact memWf_put _ _ | exact memWf_write _ _ | exact memWf_stores _ | exact memWf_filter _
    | exact rfl | exact id | intro _

theorem sendSeqs_kept {s₀ : State} (x0 : State) (x1 : Nat) (x2 : QCmd) (x3 : List Nat) (x4 : List (Nat × Nat × Nat))
    (x5 : Nat) (h0 : Kept s₀ x0) : Kept s₀ (sendSeqs x0 x1 x2 x3 x4 x5) := by
  unfold sendSeqs
  repeat' first
    | with_reducible first
        | assumption | exact Kept.refl _ | apply sendSeq_kept
    | extract_lets | split | dsimp -zeta +zetaDelta only
    | with_reducible first
        | apply kept_foldl | apply kept_foldl_fst | apply kept_foldl_snd | apply kept_foldl_thd | apply kept_mk
    | exact rfl | exact id | intro _

theorem nbNote_kept {s₀ : State} (x0 : State) (x1 : Nat) (x2 : QCmd) (h0 : Kept s₀ x0) : Kept s₀ (nbNote x0 x1 x2) :=
    by
  unfold nbNote
  repeat' first
    | with_reducible first
        | assumption | exact Kept.refl _ | apply jrnlWrite_kept
    | extract_lets | split | dsimp -zeta +zetaDelta only
    | with_reducible first
        | apply kept_foldl | apply kept_mk
    | exact rfl | exact id | intro _

theorem nbAgain_kept {s₀ : State} (x0 : State) (x1 : Nat) (x2 : QCmd) (x3 : List Nat) (h0 : Kept s₀ x0) : Kept s₀
    (nbAgain x0 x1 x2 x3) := by
  unfold nbAgain
  repeat' first
    | with_reducible first
        | assumption | exact Kept.refl _ | apply putCmd_kept
    | extract_lets | split | dsimp -zeta +zetaDelta only
    | with_reducible first
        | apply kept_foldl | apply kept_mk
    | exact rfl | exact id | intro _

theorem nbSend_kept {s₀ : State} (x0 : State) (x1 : Nat) (x2 : QCmd) (x3 : List Nat) (h0 : Kept s₀ x0) :
    Kept s₀ (nbSend x0 x1 x2 x3) := by
  unfold nbSend
  extract_lets w ctx o r0 s1 s2 c1 hk hz r1 s3 r2
  split
  · exact h0
  have ko : Kept s₀ o.s := nbOutTr_kept _ _ _ _ _ _ h0
  split
  · exact stopCmd_kept _ _ _ _ _ _ ko
  have k2 : Kept s₀ s2 := sendSeqs_kept _ _ _ _ _ _ (tcDiscard_kept _ _ ko)
  have k3 : Kept s₀ s3 := nbNote_kept _ _ _ (putCmd_kept _ _ _ _ (kept_mk k2 rfl id id))
  exact putQ_kept _ _ _ _ k3

theorem nbIssueEffect_kept {s₀ : State} (x0 : Fin 8) (x1 : Fin 16) (x2 : Fin 4) (x3 : State) (h3 : Kept s₀ x3) :
    Kept s₀ (nbIssueEffect x0 x1 x2 x3) := by
  unfold nbIssueEffect
  extract_lets key
  split
  · exact h3
  extract_lets w
  split
  · exact haltQueue_kept _ _ _ _ _ _ _ h3
  · split
    · exact haltQueue_kept _ _ _ _ _ _ _ h3
    · split
      · exact nbAgain_kept _ _ _ _ h3
      · split
        · exact h3
        · exact nbSend_kept _ _ _ _ h3

theorem execNbIssue_kept {s₀ : State} (x0 : Fin 8) (x1 : Fin 16) (x2 : Fin 4) (x3 : State) (h3 : Kept s₀ x3) : ∀ t,
    execNbIssue x0 x1 x2 x3 = .next t → Kept s₀ t := by
  intro t ht
  unfold execNbIssue at ht
  cases ht
  repeat' first
    | with_reducible first
        | assumption | exact Kept.refl _ | apply clocked_kept | apply nbIssueEffect_kept
    | extract_lets | split | dsimp -zeta +zetaDelta only
    | exact rfl | exact id | intro _

theorem nbFenceEffect_kept {s₀ : State} (x0 : Fin 8) (x1 : Fin 16) (x2 : Fin 4) (x3 : State) (h3 : Kept s₀ x3) : Kept
    s₀ (nbFenceEffect x0 x1 x2 x3) := by
  unfold nbFenceEffect
  repeat' first
    | with_reducible first
        | assumption | exact Kept.refl _ | apply cmdDone_kept
    | extract_lets | split | dsimp -zeta +zetaDelta only
    | exact rfl | exact id | intro _

theorem execNbFence_kept {s₀ : State} (x0 : Fin 8) (x1 : Fin 16) (x2 : Fin 4) (x3 : State) (h3 : Kept s₀ x3) : ∀ t,
    execNbFence x0 x1 x2 x3 = .next t → Kept s₀ t := by
  intro t ht
  unfold execNbFence at ht
  cases ht
  repeat' first
    | with_reducible first
        | assumption | exact Kept.refl _ | apply clocked_kept | apply nbFenceEffect_kept
    | extract_lets | split | dsimp -zeta +zetaDelta only
    | exact rfl | exact id | intro _

theorem seqRefresh_kept {s₀ : State} (x0 : Fin 8) (x1 : Fin 64) (x2 : State) (h2 : Kept s₀ x2) : Kept s₀ (seqRefresh
    x0 x1 x2) := by
  unfold seqRefresh
  repeat' first
    | with_reducible first
        | assumption | exact Kept.refl _ | apply setB_kept | apply refreshIssueEffect_kept
    | extract_lets | split | dsimp -zeta +zetaDelta only
    | exact rfl | exact id | intro _

theorem replayPass_kept {s₀ : State} (x0 : State) (x1 : Nat) (h0 : Kept s₀ x0) : Kept s₀ (replayPass x0 x1) := by
  unfold replayPass
  repeat' first
    | with_reducible first
        | assumption | exact Kept.refl _ | apply putPcc_kept
    | extract_lets | split | dsimp -zeta +zetaDelta only
    | with_reducible first
        | apply kept_foldl | apply kept_mk
    | exact rfl | exact id | intro _

theorem seqIdle_kept {s₀ : State} (x0 : Fin 8) (x1 : Fin 64) (x2 : NbSeq) (x3 : State) (h3 : Kept s₀ x3) : Kept s₀
    (seqIdle x0 x1 x2 x3) := by
  unfold seqIdle
  repeat' first
    | with_reducible first
        | assumption | exact Kept.refl _ | apply seqLeave_kept | apply seqRefresh_kept | apply issueReq_kept
        | apply broadcastEffect_kept | apply stitchNext_kept
    | extract_lets | split | dsimp -zeta +zetaDelta only
    | exact rfl | exact id | intro _

theorem seqStep_kept {s₀ : State} (x0 : Fin 8) (x1 : Fin 64) (x2 : State) (h2 : Kept s₀ x2) : Kept s₀ (seqStep x0 x1
    x2) := by
  unfold seqStep
  repeat' first
    | with_reducible first
        | assumption | exact Kept.refl _ | apply replayPass_kept | apply stitchFinish_kept
        | apply sequenceSuspendEffect_kept | apply unitDrain_kept | apply seqIdle_kept
    | extract_lets | split | dsimp -zeta +zetaDelta only
    | exact rfl | exact id | intro _

theorem seqRun_kept {s₀ : State} (x0 : Fin 8) (x1 : Fin 64) (x2 : Nat) (x3 : Nat) (x4 : State) (h4 : Kept s₀ x4) :
    Kept s₀ (seqRun x0 x1 x2 x3 x4) := by
  induction x3 generalizing x0 x1 x2 x4 with
  | zero =>
    unfold seqRun
    repeat' first
      | with_reducible first
          | assumption | exact Kept.refl _ | apply seqStep_kept
      | extract_lets | split | dsimp -zeta +zetaDelta only
      | exact rfl | exact id | intro _
  | succ k ih =>
    unfold seqRun
    repeat' first
      | with_reducible first
          | assumption | exact Kept.refl _ | apply ih | apply seqStep_kept
      | extract_lets | split | dsimp -zeta +zetaDelta only
      | exact rfl | exact id | intro _

theorem seqToEnd_kept {s₀ : State} (x0 : Fin 8) (x1 : Fin 64) (x2 : Nat) (x3 : State) (h3 : Kept s₀ x3) : Kept s₀
    (seqToEnd x0 x1 x2 x3) := by
  unfold seqToEnd
  repeat' first
    | with_reducible first
        | assumption | exact Kept.refl _ | apply seqRefresh_kept | apply seqRun_kept | apply seqGo_kept
    | extract_lets | split | dsimp -zeta +zetaDelta only
    | exact rfl | exact id | intro _

theorem nbGemvEffect_kept {s₀ : State} (x0 : Fin 8) (x1 : Fin 64) (x2 : State) (h2 : Kept s₀ x2) : Kept s₀
    (nbGemvEffect x0 x1 x2) := by
  unfold nbGemvEffect
  repeat' first
    | with_reducible first
        | assumption | apply seqToEnd_kept
    | split

theorem execNbGemv_kept {s₀ : State} (x0 : Fin 8) (x1 : Fin 64) (x2 : State) (h2 : Kept s₀ x2) : ∀ t, execNbGemv x0 x1
    x2 = .next t → Kept s₀ t := by
  intro t ht
  unfold execNbGemv at ht
  cases ht
  repeat' first
    | with_reducible first
        | assumption | exact Kept.refl _ | apply clocked_kept | apply nbGemvEffect_kept
    | extract_lets | split | dsimp -zeta +zetaDelta only
    | exact rfl | exact id | intro _

theorem nbGatherEffect_kept {s₀ : State} (x0 : Fin 8) (x1 : Fin 64) (x2 : State) (h2 : Kept s₀ x2) : Kept s₀
    (nbGatherEffect x0 x1 x2) := by
  unfold nbGatherEffect
  repeat' first
    | with_reducible first
        | assumption | apply seqToEnd_kept
    | split

theorem execNbGather_kept {s₀ : State} (x0 : Fin 8) (x1 : Fin 64) (x2 : State) (h2 : Kept s₀ x2) : ∀ t, execNbGather
    x0 x1 x2 = .next t → Kept s₀ t := by
  intro t ht
  unfold execNbGather at ht
  cases ht
  repeat' first
    | with_reducible first
        | assumption | exact Kept.refl _ | apply clocked_kept | apply nbGatherEffect_kept
    | extract_lets | split | dsimp -zeta +zetaDelta only
    | exact rfl | exact id | intro _

theorem nbGredEffect_kept {s₀ : State} (x0 : Fin 8) (x1 : Fin 64) (x2 : State) (h2 : Kept s₀ x2) : Kept s₀
    (nbGredEffect x0 x1 x2) := by
  unfold nbGredEffect
  repeat' first
    | with_reducible first
        | assumption | apply seqToEnd_kept
    | split

theorem execNbGred_kept {s₀ : State} (x0 : Fin 8) (x1 : Fin 64) (x2 : State) (h2 : Kept s₀ x2) : ∀ t, execNbGred x0 x1
    x2 = .next t → Kept s₀ t := by
  intro t ht
  unfold execNbGred at ht
  cases ht
  repeat' first
    | with_reducible first
        | assumption | exact Kept.refl _ | apply clocked_kept | apply nbGredEffect_kept
    | extract_lets | split | dsimp -zeta +zetaDelta only
    | exact rfl | exact id | intro _

theorem nbAxpyEffect_kept {s₀ : State} (x0 : Fin 8) (x1 : Fin 64) (x2 : State) (h2 : Kept s₀ x2) : Kept s₀
    (nbAxpyEffect x0 x1 x2) := by
  unfold nbAxpyEffect
  repeat' first
    | with_reducible first
        | assumption | apply seqToEnd_kept
    | split

theorem execNbAxpy_kept {s₀ : State} (x0 : Fin 8) (x1 : Fin 64) (x2 : State) (h2 : Kept s₀ x2) : ∀ t, execNbAxpy x0 x1
    x2 = .next t → Kept s₀ t := by
  intro t ht
  unfold execNbAxpy at ht
  cases ht
  repeat' first
    | with_reducible first
        | assumption | exact Kept.refl _ | apply clocked_kept | apply nbAxpyEffect_kept
    | extract_lets | split | dsimp -zeta +zetaDelta only
    | exact rfl | exact id | intro _

theorem nbNormEffect_kept {s₀ : State} (x0 : Fin 8) (x1 : Fin 64) (x2 : State) (h2 : Kept s₀ x2) : Kept s₀
    (nbNormEffect x0 x1 x2) := by
  unfold nbNormEffect
  repeat' first
    | with_reducible first
        | assumption | apply seqToEnd_kept
    | split

theorem execNbNorm_kept {s₀ : State} (x0 : Fin 8) (x1 : Fin 64) (x2 : State) (h2 : Kept s₀ x2) : ∀ t, execNbNorm x0 x1
    x2 = .next t → Kept s₀ t := by
  intro t ht
  unfold execNbNorm at ht
  cases ht
  repeat' first
    | with_reducible first
        | assumption | exact Kept.refl _ | apply clocked_kept | apply nbNormEffect_kept
    | extract_lets | split | dsimp -zeta +zetaDelta only
    | exact rfl | exact id | intro _

theorem nbAttnEffect_kept {s₀ : State} (x0 : Fin 8) (x1 : Fin 64) (x2 : State) (h2 : Kept s₀ x2) : Kept s₀
    (nbAttnEffect x0 x1 x2) := by
  unfold nbAttnEffect
  repeat' first
    | with_reducible first
        | assumption | apply seqToEnd_kept
    | split

theorem execNbAttn_kept {s₀ : State} (x0 : Fin 8) (x1 : Fin 64) (x2 : State) (h2 : Kept s₀ x2) : ∀ t, execNbAttn x0 x1
    x2 = .next t → Kept s₀ t := by
  intro t ht
  unfold execNbAttn at ht
  cases ht
  repeat' first
    | with_reducible first
        | assumption | exact Kept.refl _ | apply clocked_kept | apply nbAttnEffect_kept
    | extract_lets | split | dsimp -zeta +zetaDelta only
    | exact rfl | exact id | intro _

theorem nbAdamEffect_kept {s₀ : State} (x0 : Fin 8) (x1 : Fin 64) (x2 : State) (h2 : Kept s₀ x2) : Kept s₀
    (nbAdamEffect x0 x1 x2) := by
  unfold nbAdamEffect
  repeat' first
    | with_reducible first
        | assumption | apply seqToEnd_kept
    | split

theorem execNbAdam_kept {s₀ : State} (x0 : Fin 8) (x1 : Fin 64) (x2 : State) (h2 : Kept s₀ x2) : ∀ t, execNbAdam x0 x1
    x2 = .next t → Kept s₀ t := by
  intro t ht
  unfold execNbAdam at ht
  cases ht
  repeat' first
    | with_reducible first
        | assumption | exact Kept.refl _ | apply clocked_kept | apply nbAdamEffect_kept
    | extract_lets | split | dsimp -zeta +zetaDelta only
    | exact rfl | exact id | intro _

theorem nbRowopEffect_kept {s₀ : State} (x0 : Fin 8) (x1 : Fin 64) (x2 : State) (h2 : Kept s₀ x2) : Kept s₀
    (nbRowopEffect x0 x1 x2) := by
  unfold nbRowopEffect
  repeat' first
    | with_reducible first
        | assumption | apply seqToEnd_kept
    | split

theorem execNbRowop_kept {s₀ : State} (x0 : Fin 8) (x1 : Fin 64) (x2 : State) (h2 : Kept s₀ x2) : ∀ t, execNbRowop x0
    x1 x2 = .next t → Kept s₀ t := by
  intro t ht
  unfold execNbRowop at ht
  cases ht
  repeat' first
    | with_reducible first
        | assumption | exact Kept.refl _ | apply clocked_kept | apply nbRowopEffect_kept
    | extract_lets | split | dsimp -zeta +zetaDelta only
    | exact rfl | exact id | intro _

theorem nbBurnishEffect_kept {s₀ : State} (x0 : Fin 8) (x1 : Fin 64) (x2 : State) (h2 : Kept s₀ x2) : Kept s₀
    (nbBurnishEffect x0 x1 x2) := by
  unfold nbBurnishEffect
  repeat' first
    | with_reducible first
        | assumption | apply seqToEnd_kept
    | split

theorem execNbBurnish_kept {s₀ : State} (x0 : Fin 8) (x1 : Fin 64) (x2 : State) (h2 : Kept s₀ x2) : ∀ t, execNbBurnish
    x0 x1 x2 = .next t → Kept s₀ t := by
  intro t ht
  unfold execNbBurnish at ht
  cases ht
  repeat' first
    | with_reducible first
        | assumption | exact Kept.refl _ | apply clocked_kept | apply nbBurnishEffect_kept
    | extract_lets | split | dsimp -zeta +zetaDelta only
    | exact rfl | exact id | intro _

end Sys2Proof.Machine
end

