-- ==== Sys2Proof/Laws/KeptContexts.lean ====
section
/-!
SUPPORT. One lemma per operation of contexts, their records and KV pages: it keeps what `Kept` names (or holds what `Held` names), where
the state it begins with does.
-/
namespace Sys2Proof.Machine

theorem resolved_kept {s₀ : State} (x0 : State) (x1 : Nat) (x2 : Nat) (x3 : QCmd) (h0 : Kept s₀ x0) : Kept s₀
    (resolved x0 x1 x2 x3) := by
  unfold resolved
  repeat' first
    | with_reducible first
        | assumption | exact Kept.refl _ | apply putQ_kept
    | extract_lets | split | dsimp -zeta +zetaDelta only
    | with_reducible first
        | apply kept_foldl | apply kept_mk
    | exact rfl | exact id | intro _

theorem skipCmd_kept {s₀ : State} (x0 : State) (x1 : Nat) (x2 : Nat) (x3 : QCmd) (x4 : Nat) (h0 : Kept s₀ x0) : Kept
    s₀ (skipCmd x0 x1 x2 x3 x4) := by
  unfold skipCmd
  repeat' first
    | with_reducible first
        | assumption | exact Kept.refl _ | apply resolved_kept | apply specCancel_kept
    | extract_lets | split | dsimp -zeta +zetaDelta only
    | with_reducible first
        | apply kept_foldl | apply kept_mk
    | exact rfl | exact id | intro _

theorem skipNominal_kept {s₀ : State} (x0 : State) (x1 : Nat) (x2 : Nat) (x3 : QCmd) (h0 : Kept s₀ x0) : Kept s₀
    (skipNominal x0 x1 x2 x3) := by
  unfold skipNominal
  repeat' first
    | with_reducible first
        | assumption | exact Kept.refl _ | apply skipCmd_kept | apply haltQueue_kept | apply setupRecords_kept
        | apply stopCmd_kept
    | extract_lets | split | dsimp -zeta +zetaDelta only
    | exact rfl | exact id | intro _

theorem commandResolveEffect_kept {s₀ : State} (x0 : Fin 8) (x1 : Fin 16) (x2 : Fin 4) (x3 : Fin 5) (x4 : State) (h4 :
    Kept s₀ x4) : Kept s₀ (commandResolveEffect x0 x1 x2 x3 x4) := by
  unfold commandResolveEffect
  repeat' first
    | with_reducible first
        | assumption | exact Kept.refl _ | apply putQ_kept | apply specCancel_kept | apply haltQueue_kept
        | apply resolved_kept | apply skipNominal_kept | apply skipCmd_kept
    | extract_lets | split | dsimp -zeta +zetaDelta only
    | with_reducible first
        | apply kept_foldl | apply kept_mk
    | exact rfl | exact id | intro _

theorem execCommandResolve_kept {s₀ : State} (x0 : Fin 8) (x1 : Fin 16) (x2 : Fin 4) (x3 : Fin 5) (x4 : State) (h4 :
    Kept s₀ x4) : ∀ t, execCommandResolve x0 x1 x2 x3 x4 = .next t → Kept s₀ t := by
  intro t ht
  unfold execCommandResolve at ht
  cases ht
  repeat' first
    | with_reducible first
        | assumption | exact Kept.refl _ | apply clocked_kept | apply commandResolveEffect_kept
    | extract_lets | split | dsimp -zeta +zetaDelta only
    | exact rfl | exact id | intro _

theorem specPoison_kept {s₀ : State} (x0 : State) (x1 : Nat) (x2 : Nat) (x3 : Nat) (h0 : Kept s₀ x0) : Kept s₀
    (specPoison x0 x1 x2 x3) := by
  unfold specPoison
  repeat' first
    | with_reducible first
        | assumption | exact Kept.refl _ | apply elogAdd_kept
    | extract_lets | split | dsimp -zeta +zetaDelta only
    | with_reducible first
        | apply kept_foldl | apply kept_mk
    | exact rfl | exact id | intro _

theorem specLines_kept {s₀ : State} (x0 : Nat) (x1 : Nat) (x2 : Page) (x3 : Nat) (x4 : Nat) (x5 : State) (h5 : Kept s₀
    x5) : Kept s₀ (specLines x0 x1 x2 x3 x4 x5).2 := by
  unfold specLines
  repeat' first
    | with_reducible first
        | assumption | exact Kept.refl _ | apply tcRead_kept | apply specPoison_kept
    | extract_lets | split | dsimp -zeta +zetaDelta only
    | with_reducible first
        | apply kept_foldl | apply kept_foldl_fst | apply kept_foldl_snd | apply kept_foldl_thd | apply kept_mk
    | exact rfl | exact id | intro _

theorem speculativeReadEffect_kept {s₀ : State} (x0 : Fin 8) (x1 : Fin 16) (x2 : Fin 4) (x3 : Nat) (x4 : Nat) (x5 :
    State) (h5 : Kept s₀ x5) : Kept s₀ (speculativeReadEffect x0 x1 x2 x3 x4 x5) := by
  unfold speculativeReadEffect
  repeat' first
    | with_reducible first
        | assumption | exact Kept.refl _ | apply putCmd_kept | apply translate_kept | apply specLines_kept
        | apply bumpF_kept
    | extract_lets | split | dsimp -zeta +zetaDelta only
    | with_reducible first
        | apply kept_foldl | apply kept_mk
    | exact rfl | exact id | intro _

theorem execSpeculativeRead_kept {s₀ : State} (x0 : Fin 8) (x1 : Fin 16) (x2 : Fin 4) (x3 : Nat) (x4 : Nat) (x5 :
    State) (h5 : Kept s₀ x5) : ∀ t, execSpeculativeRead x0 x1 x2 x3 x4 x5 = .next t → Kept s₀ t := by
  intro t ht
  unfold execSpeculativeRead at ht
  cases ht
  repeat' first
    | with_reducible first
        | assumption | exact Kept.refl _ | apply clocked_kept | apply speculativeReadEffect_kept
    | extract_lets | split | dsimp -zeta +zetaDelta only
    | exact rfl | exact id | intro _

theorem translationFaultEffect_kept {s₀ : State} (x0 : Fin 8) (x1 : Fin 16) (x2 : Fin 4) (x3 : Fin 5) (x4 : State) (h4
    : Kept s₀ x4) : Kept s₀ (translationFaultEffect x0 x1 x2 x3 x4) := by
  unfold translationFaultEffect
  repeat' first
    | with_reducible first
        | assumption | exact Kept.refl _ | apply bumpF_kept | apply putQ_kept | apply takeFault_kept
    | extract_lets | split | dsimp -zeta +zetaDelta only
    | with_reducible first
        | apply kept_foldl | apply kept_mk
    | exact rfl | exact id | intro _

theorem execTranslationFault_kept {s₀ : State} (x0 : Fin 8) (x1 : Fin 16) (x2 : Fin 4) (x3 : Fin 5) (x4 : State) (h4 :
    Kept s₀ x4) : ∀ t, execTranslationFault x0 x1 x2 x3 x4 = .next t → Kept s₀ t := by
  intro t ht
  unfold execTranslationFault at ht
  cases ht
  repeat' first
    | with_reducible first
        | assumption | exact Kept.refl _ | apply clocked_kept | apply translationFaultEffect_kept
    | extract_lets | split | dsimp -zeta +zetaDelta only
    | exact rfl | exact id | intro _

theorem faultRecordWriteEffect_kept {s₀ : State} (x0 : Fin 8) (x1 : State) (h1 : Kept s₀ x1) : Kept s₀
    (faultRecordWriteEffect x0 x1) := by
  unfold faultRecordWriteEffect
  repeat' first
    | with_reducible first
        | assumption | exact Kept.refl _ | apply tcWriteThrough_kept | apply bumpF_kept
    | extract_lets | split | dsimp -zeta +zetaDelta only
    | with_reducible first
        | apply kept_foldl | apply kept_mk
    | exact rfl | exact id | intro _

theorem execFaultRecordWrite_kept {s₀ : State} (x0 : Fin 8) (x1 : State) (h1 : Kept s₀ x1) : ∀ t, execFaultRecordWrite
    x0 x1 = .next t → Kept s₀ t := by
  intro t ht
  unfold execFaultRecordWrite at ht
  cases ht
  repeat' first
    | with_reducible first
        | assumption | exact Kept.refl _ | apply clocked_kept | apply faultRecordWriteEffect_kept
    | extract_lets | split | dsimp -zeta +zetaDelta only
    | exact rfl | exact id | intro _

theorem execFringEnable_kept {s₀ : State} (x0 : Fin 8) (x1 : Bool) (x2 : Nat) (x3 : State) (h3 : Kept s₀ x3) : ∀ t,
    execFringEnable x0 x1 x2 x3 = .next t → Kept s₀ t := by
  intro t ht
  unfold execFringEnable at ht
  cases ht
  repeat' first
    | with_reducible first
        | assumption | exact Kept.refl _ | apply clocked_kept | apply guarded_kept | apply setB_kept
    | extract_lets | split | dsimp -zeta +zetaDelta only
    | exact rfl | exact id | intro _

theorem resumeSeqs_kept {s₀ : State} (x0 : State) (x1 : Nat) (x2 : Nat) (x3 : Nat) (h0 : Kept s₀ x0) : Kept s₀
    (resumeSeqs x0 x1 x2 x3) := by
  unfold resumeSeqs
  repeat' first
    | with_reducible first
        | assumption | exact Kept.refl _ | apply mapSeqs_kept
    | extract_lets | split | dsimp -zeta +zetaDelta only
    | with_reducible first
        | apply kept_foldl | apply kept_mk
    | exact rfl | exact id | intro _

theorem resumeQueue_kept {s₀ : State} (x0 : State) (x1 : Nat) (x2 : Nat) (h0 : Kept s₀ x0) : Kept s₀ (resumeQueue x0
    x1 x2) := by
  unfold resumeQueue
  repeat' first
    | with_reducible first
        | assumption | exact Kept.refl _ | apply putQ_kept | apply resumeSeqs_kept
    | extract_lets | split | dsimp -zeta +zetaDelta only
    | exact rfl | exact id | intro _

theorem discardQueue_kept {s₀ : State} (x0 : State) (x1 : Nat) (x2 : Nat) (h0 : Kept s₀ x0) : Kept s₀ (discardQueue x0
    x1 x2) := by
  unfold discardQueue
  repeat' first
    | with_reducible first
        | assumption | exact Kept.refl _ | apply haltQueue_kept | apply endFaultedSeqs_kept
    | extract_lets | split | dsimp -zeta +zetaDelta only
    | exact rfl | exact id | intro _

theorem resumeStored_kept {s₀ : State} (x0 : State) (x1 : Nat) (x2 : Nat) (x3 : Nat) (x4 : Nat) (x5 : Bool) (h0 : Kept
    s₀ x0) : Kept s₀ (resumeStored x0 x1 x2 x3 x4 x5) := by
  unfold resumeStored
  repeat' first
    | with_reducible first
        | assumption | exact Kept.refl _ | apply resolved_kept | apply dmaevAdd_kept | apply holdItem_kept
        | apply putRec_kept | apply endFaultedSeqs_kept
    | extract_lets | split | dsimp -zeta +zetaDelta only
    | with_reducible first
        | apply kept_foldl | apply kept_mk
    | exact rfl | exact id | intro _

theorem fresumeAll_kept {s₀ : State} (x0 : State) (x1 : Nat) (x2 : Nat) (x3 : Nat) (x4 : Nat) (x5 : Bool) (h0 : Kept
    s₀ x0) : Kept s₀ (fresumeAll x0 x1 x2 x3 x4 x5) := by
  unfold fresumeAll
  repeat' first
    | with_reducible first
        | assumption | exact Kept.refl _ | apply discardQueue_kept | apply resumeQueue_kept
        | apply resumeStored_kept
    | extract_lets | split | dsimp -zeta +zetaDelta only
    | with_reducible first
        | apply kept_foldl | apply kept_mk
    | exact rfl | exact id | intro _

theorem execFresume_kept {s₀ : State} (x0 : Fin 8) (x1 : Fin 16) (x2 : Nat) (x3 : Nat) (x4 : Nat) (x5 : State) (h5 :
    Kept s₀ x5) : ∀ t, execFresume x0 x1 x2 x3 x4 x5 = .next t → Kept s₀ t := by
  intro t ht
  unfold execFresume at ht
  cases ht
  repeat' first
    | with_reducible first
        | assumption | exact Kept.refl _ | apply clocked_kept | apply guarded_kept | apply fresumeAll_kept
    | extract_lets | split | dsimp -zeta +zetaDelta only
    | exact rfl | exact id | intro _

theorem execFresumeDiscard_kept {s₀ : State} (x0 : Fin 8) (x1 : Fin 16) (x2 : Nat) (x3 : Nat) (x4 : Nat) (x5 : State)
    (h5 : Kept s₀ x5) : ∀ t, execFresumeDiscard x0 x1 x2 x3 x4 x5 = .next t → Kept s₀ t := by
  intro t ht
  unfold execFresumeDiscard at ht
  cases ht
  repeat' first
    | with_reducible first
        | assumption | exact Kept.refl _ | apply clocked_kept | apply guarded_kept | apply fresumeAll_kept
    | extract_lets | split | dsimp -zeta +zetaDelta only
    | exact rfl | exact id | intro _

theorem daLines_kept {s₀ : State} (x0 : Nat) (x1 : State) (x2 : Nat) (h1 : Kept s₀ x1) : Kept s₀ (daLines x0 x1
    x2).2.2 := by
  induction x0 generalizing x1 x2 with
  | zero =>
    unfold daLines
    repeat' first
      | with_reducible first
          | assumption | exact Kept.refl _ | apply pocRead_kept
      | extract_lets | split | dsimp -zeta +zetaDelta only
      | exact rfl | exact id | intro _
  | succ k ih =>
    unfold daLines
    repeat' first
      | with_reducible first
          | assumption | exact Kept.refl _ | apply ih | apply pocRead_kept
      | extract_lets | split | dsimp -zeta +zetaDelta only
      | exact rfl | exact id | intro _

theorem daRead_kept {s₀ : State} (x0 : State) (x1 : Nat) (x2 : Nat) (h0 : Kept s₀ x0) : Kept s₀ (daRead x0 x1 x2).2.2
    := by
  unfold daRead
  repeat' first
    | with_reducible first
        | assumption | exact Kept.refl _ | apply daLines_kept
    | extract_lets | split | dsimp -zeta +zetaDelta only
    | exact rfl | exact id | intro _

theorem daWriteGo_kept {s₀ : State} (x0 : List Nat) (x1 : Nat) (x2 : State) (x3 : Nat) (x4 : List Byte) (x5 : Nat) (h2
    : Kept s₀ x2) : Kept s₀ (daWriteGo x0 x1 x2 x3 x4 x5) := by
  induction x1 generalizing x0 x2 x3 x4 x5 with
  | zero =>
    unfold daWriteGo
    repeat' first
      | with_reducible first
          | assumption | exact Kept.refl _ | apply pocPoison_kept | apply pocWrite_kept
      | extract_lets | split | dsimp -zeta +zetaDelta only
      | exact rfl | exact id | intro _
  | succ k ih =>
    unfold daWriteGo
    repeat' first
      | with_reducible first
          | assumption | exact Kept.refl _ | apply ih | apply pocPoison_kept | apply pocWrite_kept
      | extract_lets | split | dsimp -zeta +zetaDelta only
      | exact rfl | exact id | intro _

theorem daWrite_kept {s₀ : State} (x0 : State) (x1 : Nat) (x2 : List Byte) (x3 : List Nat) (h0 : Kept s₀ x0) : Kept s₀
    (daWrite x0 x1 x2 x3) := by
  unfold daWrite
  repeat' first
    | with_reducible first
        | assumption | apply daWriteGo_kept
    | split

theorem windowSave_kept {s₀ : State} (x0 : State) (x1 : Nat) (x2 : Nat) (x3 : Nat) (x4 : Nat) (x5 : Nat) (h0 : Kept s₀
    x0) : Kept s₀ (windowSave x0 x1 x2 x3 x4 x5) := by
  unfold windowSave
  repeat' first
    | with_reducible first
        | assumption | exact Kept.refl _ | apply daWrite_kept
    | extract_lets | split | dsimp -zeta +zetaDelta only
    | exact rfl | exact id | intro _

theorem windowLoad_kept {s₀ : State} (x0 : State) (x1 : Nat) (x2 : Nat) (x3 : Nat) (x4 : Nat) (x5 : Nat) (h0 : Kept s₀
    x0) : Kept s₀ (windowLoad x0 x1 x2 x3 x4 x5) := by
  unfold windowLoad
  repeat' first
    | with_reducible first
        | assumption | exact Kept.refl _ | apply daRead_kept
    | extract_lets | split | dsimp -zeta +zetaDelta only
    | with_reducible first
        | apply kept_foldl | apply kept_mk
        | exact memWf_put _ _ | exact memWf_write _ _ | exact memWf_stores _ | exact memWf_filter _
    | exact rfl | exact id | intro _

theorem runOne_kept {s₀ : State} (x0 : Fin 8) (x1 : Fin 16) (x2 : Fin 4) (x3 : Fin 5) (x4 : Nat) (x5 : State) (h5 :
    Kept s₀ x5) : Kept s₀ (runOne x0 x1 x2 x3 x4 x5) := by
  unfold runOne
  repeat' first
    | with_reducible first
        | assumption | apply qNopEffect_kept | apply qEndEffect_kept | apply tlWaitEffect_kept
        | apply tlSignalEffect_kept | apply tlSetEffect_kept | apply prSetEffect_kept | apply prCmpEffect_kept
        | apply prLogicEffect_kept | apply prTallyEffect_kept | apply mxMmaEffect_kept | apply vxAddEffect_kept
        | apply vxSubEffect_kept | apply vxMulEffect_kept | apply vxFmaEffect_kept | apply vxAxpyEffect_kept
        | apply vxMinEffect_kept | apply vxMaxEffect_kept | apply vxCvtEffect_kept | apply vxFillEffect_kept
        | apply vxExp2Effect_kept | apply vxLog2Effect_kept | apply vxRcpEffect_kept | apply vxSqrtEffect_kept
        | apply vxRsqrtEffect_kept | apply vxActEffect_kept | apply vxRsumEffect_kept | apply vxRmaxEffect_kept
        | apply vxTrEffect_kept | apply vxRotEffect_kept | apply vxIaddEffect_kept
    | split

theorem runIssued_kept {s₀ : State} (x0 : Fin 8) (x1 : Fin 16) (x2 : Fin 4) (x3 : Fin 5) (x4 : Nat) (x5 : State) (h5 :
    Kept s₀ x5) : Kept s₀ (runIssued x0 x1 x2 x3 x4 x5) := by
  induction x4 generalizing x0 x1 x2 x3 x5 with
  | zero =>
    unfold runIssued
    repeat' first
      | with_reducible first
          | assumption | exact Kept.refl _ | apply runOne_kept
      | extract_lets | split | dsimp -zeta +zetaDelta only
      | exact rfl | exact id | intro _
  | succ k ih =>
    unfold runIssued
    repeat' first
      | with_reducible first
          | assumption | exact Kept.refl _ | apply ih | apply runOne_kept
      | extract_lets | split | dsimp -zeta +zetaDelta only
      | exact rfl | exact id | intro _

theorem releaseDone_kept {s₀ : State} (x0 : Fin 8) (x1 : Fin 16) (x2 : Fin 4) (x3 : Fin 5) (x4 : Nat) (x5 : State) (h5
    : Kept s₀ x5) : Kept s₀ (releaseDone x0 x1 x2 x3 x4 x5) := by
  induction x4 generalizing x0 x1 x2 x3 x5 with
  | zero =>
    unfold releaseDone
    repeat' first
      | with_reducible first
          | assumption | apply commandCompleteEffect_kept
      | split
  | succ k ih =>
    unfold releaseDone
    repeat' first
      | with_reducible first
          | assumption | apply ih | apply commandCompleteEffect_kept
      | split

theorem drainSlot_kept {s₀ : State} (x0 : Fin 8) (x1 : Fin 16) (x2 : Fin 4) (x3 : State) (h3 : Kept s₀ x3) : Kept s₀
    (drainSlot x0 x1 x2 x3) := by
  unfold drainSlot
  repeat' first
    | with_reducible first
        | assumption | exact Kept.refl _ | apply translationFaultEffect_kept | apply releaseDone_kept
        | apply runIssued_kept
    | extract_lets | split | dsimp -zeta +zetaDelta only
    | with_reducible first
        | apply kept_foldl | apply kept_mk
    | exact rfl | exact id | intro _

theorem runMem_kept {s₀ : State} (x0 : Fin 8) (x1 : Fin 16) (x2 : Fin 4) (x3 : Fin 5) (x4 : Nat) (x5 : State) (h5 :
    Kept s₀ x5) : Kept s₀ (runMem x0 x1 x2 x3 x4 x5) := by
  unfold runMem
  repeat' first
    | with_reducible first
        | assumption | apply ldTEffect_kept | apply ldGEffect_kept | apply ldBEffect_kept | apply stTEffect_kept
        | apply stSEffect_kept | apply stRedEffect_kept | apply stSredEffect_kept | apply stBEffect_kept
        | apply memFlushEffect_kept | apply memInvalEffect_kept | apply memFlinvEffect_kept | apply runOne_kept
    | split

theorem runMems_kept {s₀ : State} (x0 : Fin 8) (x1 : Fin 16) (x2 : Fin 4) (x3 : Fin 5) (x4 : Nat) (x5 : State) (h5 :
    Kept s₀ x5) : Kept s₀ (runMems x0 x1 x2 x3 x4 x5) := by
  induction x4 generalizing x0 x1 x2 x3 x5 with
  | zero =>
    unfold runMems
    repeat' first
      | with_reducible first
          | assumption | exact Kept.refl _ | apply runMem_kept
      | extract_lets | split | dsimp -zeta +zetaDelta only
      | exact rfl | exact id | intro _
  | succ k ih =>
    unfold runMems
    repeat' first
      | with_reducible first
          | assumption | exact Kept.refl _ | apply ih | apply runMem_kept
      | extract_lets | split | dsimp -zeta +zetaDelta only
      | exact rfl | exact id | intro _

theorem abortIssued_kept {s₀ : State} (x0 : State) (x1 : Nat) (h0 : Kept s₀ x0) : Kept s₀ (abortIssued x0 x1) := by
  unfold abortIssued
  repeat' first
    | with_reducible first
        | assumption | exact Kept.refl _ | apply releaseDone_kept | apply runMems_kept
    | extract_lets | split | dsimp -zeta +zetaDelta only
    | with_reducible first
        | apply kept_foldl | apply kept_mk
    | exact rfl | exact id | intro _

theorem waitersEnd_kept {s₀ : State} (x0 : State) (x1 : Nat) (x2 : Bool) (h0 : Kept s₀ x0) : Kept s₀ (waitersEnd x0 x1
    x2) := by
  unfold waitersEnd
  repeat' first
    | with_reducible first
        | assumption | exact Kept.refl _ | apply itemError_kept
    | extract_lets | split | dsimp -zeta +zetaDelta only
    | with_reducible first
        | apply kept_foldl | apply kept_foldl_fst | apply kept_foldl_snd | apply kept_foldl_thd | apply kept_mk
    | exact rfl | exact id | intro _

theorem slotAbort_kept {s₀ : State} (x0 : State) (x1 : Nat) (x2 : Bool) (x3 : Bool) (h0 : Kept s₀ x0) : Kept s₀
    (slotAbort x0 x1 x2 x3) := by
  unfold slotAbort
  repeat' first
    | with_reducible first
        | assumption | exact Kept.refl _ | apply abortIssued_kept | apply abortSlot_kept | apply waitersEnd_kept
    | extract_lets | split | dsimp -zeta +zetaDelta only
    | exact rfl | exact id | intro _

theorem slotAbortEffect_kept {s₀ : State} (x0 : Fin 8) (x1 : Fin 16) (x2 : Fin 4) (x3 : Nat) (x4 : State) (h4 : Kept
    s₀ x4) : Kept s₀ (slotAbortEffect x0 x1 x2 x3 x4) := by
  unfold slotAbortEffect
  repeat' first
    | with_reducible first
        | assumption | apply guarded_kept | apply slotAbort_kept
    | split

theorem execSlotAbort_kept {s₀ : State} (x0 : Fin 8) (x1 : Fin 16) (x2 : Fin 4) (x3 : Nat) (x4 : State) (h4 : Kept s₀
    x4) : ∀ t, execSlotAbort x0 x1 x2 x3 x4 = .next t → Kept s₀ t := by
  intro t ht
  unfold execSlotAbort at ht
  cases ht
  repeat' first
    | with_reducible first
        | assumption | exact Kept.refl _ | apply clocked_kept | apply rejectPath_kept | apply slotAbortEffect_kept
    | extract_lets | split | dsimp -zeta +zetaDelta only
    | exact rfl | exact id | intro _

theorem queueErrorHandlingEffect_kept {s₀ : State} (x0 : Fin 8) (x1 : Fin 16) (x2 : Fin 4) (x3 : State) (h3 : Kept s₀
    x3) : Kept s₀ (queueErrorHandlingEffect x0 x1 x2 x3) := by
  unfold queueErrorHandlingEffect
  repeat' first
    | with_reducible first
        | assumption | exact Kept.refl _ | apply slotAbort_kept | apply putItem_kept | apply itemError_kept
    | extract_lets | split | dsimp -zeta +zetaDelta only
    | with_reducible first
        | apply kept_foldl | apply kept_mk
    | exact rfl | exact id | intro _

theorem execQueueErrorHandling_kept {s₀ : State} (x0 : Fin 8) (x1 : Fin 16) (x2 : Fin 4) (x3 : State) (h3 : Kept s₀
    x3) : ∀ t, execQueueErrorHandling x0 x1 x2 x3 = .next t → Kept s₀ t := by
  intro t ht
  unfold execQueueErrorHandling at ht
  cases ht
  repeat' first
    | with_reducible first
        | assumption | exact Kept.refl _ | apply clocked_kept | apply queueErrorHandlingEffect_kept
    | extract_lets | split | dsimp -zeta +zetaDelta only
    | exact rfl | exact id | intro _

theorem evictSlot_kept {s₀ : State} (x0 : Fin 8) (x1 : Fin 16) (x2 : Fin 4) (x3 : Bool) (x4 : State) (h4 : Kept s₀ x4)
    : Kept s₀ (evictSlot x0 x1 x2 x3 x4) := by
  unfold evictSlot
  repeat' first
    | with_reducible first
        | assumption | exact Kept.refl _ | apply drainSlot_kept | apply specCancel_kept | apply putRec_kept
        | apply windowSave_kept
    | extract_lets | split | dsimp -zeta +zetaDelta only
    | with_reducible first
        | apply kept_foldl | apply kept_mk
    | exact rfl | exact id | intro _

theorem ctxEvictEffect_kept {s₀ : State} (x0 : Fin 8) (x1 : Fin 16) (x2 : Fin 4) (x3 : Bool) (x4 : Nat) (x5 : State)
    (h5 : Kept s₀ x5) : Kept s₀ (ctxEvictEffect x0 x1 x2 x3 x4 x5) := by
  unfold ctxEvictEffect
  repeat' first
    | with_reducible first
        | assumption | apply reject_kept | apply evictSlot_kept
    | split

theorem execCtxEvict_kept {s₀ : State} (x0 : Fin 8) (x1 : Fin 16) (x2 : Fin 4) (x3 : Bool) (x4 : Nat) (x5 : State) (h5
    : Kept s₀ x5) : ∀ t, execCtxEvict x0 x1 x2 x3 x4 x5 = .next t → Kept s₀ t := by
  intro t ht
  unfold execCtxEvict at ht
  cases ht
  repeat' first
    | with_reducible first
        | assumption | exact Kept.refl _ | apply clocked_kept | apply guarded_kept | apply ctxEvictEffect_kept
    | extract_lets | split | dsimp -zeta +zetaDelta only
    | exact rfl | exact id | intro _

theorem loadErrors_kept {s₀ : State} (x0 : State) (x1 : Nat) (x2 : CorePart) (h0 : Kept s₀ x0) : Kept s₀ (loadErrors
    x0 x1 x2) := by
  unfold loadErrors
  repeat' first
    | with_reducible first
        | assumption | exact Kept.refl _ | apply logPoison_kept | apply slotError_kept
    | extract_lets | split | dsimp -zeta +zetaDelta only
    | with_reducible first
        | apply kept_foldl | apply kept_foldl_fst | apply kept_foldl_snd | apply kept_foldl_thd | apply kept_mk
    | exact rfl | exact id | intro _

theorem switchIn_kept {s₀ : State} (x0 : Fin 8) (x1 : Fin 16) (x2 : Fin 4) (x3 : Nat) (x4 : Nat) (x5 : State) (h5 :
    Kept s₀ x5) : Kept s₀ (switchIn x0 x1 x2 x3 x4 x5) := by
  unfold switchIn
  repeat' first
    | with_reducible first
        | assumption | exact Kept.refl _ | apply setF_kept | apply putRec_kept | apply windowLoad_kept
        | apply putSlot_kept | apply resumeSeqs_kept | apply bumpF_kept | apply loadErrors_kept
    | extract_lets | split | dsimp -zeta +zetaDelta only
    | with_reducible first
        | apply kept_foldl | apply kept_mk
    | exact rfl | exact id | intro _

theorem ctxSwitchEffect_kept {s₀ : State} (x0 : Fin 8) (x1 : Fin 16) (x2 : Fin 4) (x3 : Nat) (x4 : Nat) (x5 : Nat) (x6
    : State) (h6 : Kept s₀ x6) : Kept s₀ (ctxSwitchEffect x0 x1 x2 x3 x4 x5 x6) := by
  unfold ctxSwitchEffect
  repeat' first
    | with_reducible first
        | assumption | exact Kept.refl _ | apply reject_kept | apply switchIn_kept
    | extract_lets | split | dsimp -zeta +zetaDelta only
    | exact rfl | exact id | intro _

theorem execCtxSwitch_kept {s₀ : State} (x0 : Fin 8) (x1 : Fin 16) (x2 : Fin 4) (x3 : Nat) (x4 : Nat) (x5 : Nat) (x6 :
    State) (h6 : Kept s₀ x6) : ∀ t, execCtxSwitch x0 x1 x2 x3 x4 x5 x6 = .next t → Kept s₀ t := by
  intro t ht
  unfold execCtxSwitch at ht
  cases ht
  repeat' first
    | with_reducible first
        | assumption | exact Kept.refl _ | apply clocked_kept | apply guarded_kept | apply ctxSwitchEffect_kept
    | extract_lets | split | dsimp -zeta +zetaDelta only
    | exact rfl | exact id | intro _

theorem recordSwapOutEffect_kept {s₀ : State} (x0 : Fin 8) (x1 : Nat) (x2 : State) (h2 : Kept s₀ x2) : Kept s₀
    (recordSwapOutEffect x0 x1 x2) := by
  unfold recordSwapOutEffect
  repeat' first
    | with_reducible first
        | assumption | exact Kept.refl _ | apply putRec_kept
    | extract_lets | split | dsimp -zeta +zetaDelta only
    | with_reducible first
        | apply kept_foldl | apply kept_mk
    | exact rfl | exact id | intro _

theorem execRecordSwapOut_kept {s₀ : State} (x0 : Fin 8) (x1 : Nat) (x2 : State) (h2 : Kept s₀ x2) : ∀ t,
    execRecordSwapOut x0 x1 x2 = .next t → Kept s₀ t := by
  intro t ht
  unfold execRecordSwapOut at ht
  cases ht
  repeat' first
    | with_reducible first
        | assumption | exact Kept.refl _ | apply clocked_kept | apply recordSwapOutEffect_kept
    | extract_lets | split | dsimp -zeta +zetaDelta only
    | exact rfl | exact id | intro _

theorem recordSwapInEffect_kept {s₀ : State} (x0 : Fin 8) (x1 : Nat) (x2 : State) (h2 : Kept s₀ x2) : Kept s₀
    (recordSwapInEffect x0 x1 x2) := by
  unfold recordSwapInEffect
  repeat' first
    | with_reducible first
        | assumption | exact Kept.refl _ | apply putRec_kept
    | extract_lets | split | dsimp -zeta +zetaDelta only
    | with_reducible first
        | apply kept_foldl | apply kept_foldl_fst | apply kept_foldl_snd | apply kept_foldl_thd | apply kept_mk
    | exact rfl | exact id | intro _

theorem execRecordSwapIn_kept {s₀ : State} (x0 : Fin 8) (x1 : Nat) (x2 : State) (h2 : Kept s₀ x2) : ∀ t,
    execRecordSwapIn x0 x1 x2 = .next t → Kept s₀ t := by
  intro t ht
  unfold execRecordSwapIn at ht
  cases ht
  repeat' first
    | with_reducible first
        | assumption | exact Kept.refl _ | apply clocked_kept | apply recordSwapInEffect_kept
    | extract_lets | split | dsimp -zeta +zetaDelta only
    | exact rfl | exact id | intro _

theorem residentStallEffect_kept {s₀ : State} (x0 : Fin 8) (x1 : Fin 16) (x2 : State) (h2 : Kept s₀ x2) : Kept s₀
    (residentStallEffect x0 x1 x2) := by
  unfold residentStallEffect
  repeat' first
    | with_reducible first
        | assumption | apply irqSrc_kept | apply bumpF_kept | apply setBitF_kept
    | split

theorem execResidentStall_kept {s₀ : State} (x0 : Fin 8) (x1 : Fin 16) (x2 : State) (h2 : Kept s₀ x2) : ∀ t,
    execResidentStall x0 x1 x2 = .next t → Kept s₀ t := by
  intro t ht
  unfold execResidentStall at ht
  cases ht
  repeat' first
    | with_reducible first
        | assumption | exact Kept.refl _ | apply clocked_kept | apply residentStallEffect_kept
    | extract_lets | split | dsimp -zeta +zetaDelta only
    | exact rfl | exact id | intro _

theorem saveRetained_kept {s₀ : State} (x0 : State) (x1 : Nat) (x2 : Nat) (x3 : Nat) (h0 : Kept s₀ x0) : Kept s₀
    (saveRetained x0 x1 x2 x3) := by
  unfold saveRetained
  repeat' first
    | with_reducible first
        | assumption | exact Kept.refl _ | apply windowSave_kept | apply putRec_kept
    | extract_lets | split | dsimp -zeta +zetaDelta only
    | with_reducible first
        | apply kept_foldl | apply kept_mk
    | exact rfl | exact id | intro _

theorem makeRoom_kept {s₀ : State} (x0 : Nat) (x1 : Nat) (x2 : Nat) (x3 : CtxRec) (x4 : Nat) (x5 : State) (h5 : Kept
    s₀ x5) : Kept s₀ (makeRoom x0 x1 x2 x3 x4 x5) := by
  induction x4 generalizing x0 x1 x2 x3 x5 with
  | zero =>
    unfold makeRoom
    repeat' first
      | with_reducible first
          | assumption | exact Kept.refl _ | apply saveRetained_kept
      | extract_lets | split | dsimp -zeta +zetaDelta only
      | exact rfl | exact id | intro _
  | succ k ih =>
    unfold makeRoom
    repeat' first
      | with_reducible first
          | assumption | exact Kept.refl _ | apply ih | apply saveRetained_kept
      | extract_lets | split | dsimp -zeta +zetaDelta only
      | exact rfl | exact id | intro _

theorem switchAt_kept {s₀ : State} (x0 : Fin 8) (x1 : Fin 16) (x2 : Fin 4) (x3 : Nat × CtxRec) (x4 : State) (h4 : Kept
    s₀ x4) : Kept s₀ (switchAt x0 x1 x2 x3 x4) := by
  unfold switchAt
  repeat' first
    | with_reducible first
        | assumption | exact Kept.refl _ | apply switchIn_kept
    | extract_lets | split | dsimp -zeta +zetaDelta only
    | exact rfl | exact id | intro _

theorem switchOver_kept {s₀ : State} (x0 : Fin 8) (x1 : Fin 16) (x2 : Fin 4) (x3 : Nat × CtxRec) (x4 : State) (h4 :
    Kept s₀ x4) : Kept s₀ (switchOver x0 x1 x2 x3 x4) := by
  unfold switchOver
  repeat' first
    | with_reducible first
        | assumption | exact Kept.refl _ | apply evictSlot_kept | apply switchAt_kept | apply makeRoom_kept
    | extract_lets | split | dsimp -zeta +zetaDelta only
    | exact rfl | exact id | intro _

theorem residentStallResponseEffect_kept {s₀ : State} (x0 : Fin 8) (x1 : Fin 16) (x2 : State) (h2 : Kept s₀ x2) : Kept
    s₀ (residentStallResponseEffect x0 x1 x2) := by
  unfold residentStallResponseEffect
  repeat' first
    | with_reducible first
        | assumption | exact Kept.refl _ | apply clrBitF_kept | apply switchAt_kept | apply makeRoom_kept
        | apply switchOver_kept
    | extract_lets | split | dsimp -zeta +zetaDelta only
    | exact rfl | exact id | intro _

theorem execResidentStallResponse_kept {s₀ : State} (x0 : Fin 8) (x1 : Fin 16) (x2 : State) (h2 : Kept s₀ x2) : ∀ t,
    execResidentStallResponse x0 x1 x2 = .next t → Kept s₀ t := by
  intro t ht
  unfold execResidentStallResponse at ht
  cases ht
  repeat' first
    | with_reducible first
        | assumption | exact Kept.refl _ | apply clocked_kept | apply residentStallResponseEffect_kept
    | extract_lets | split | dsimp -zeta +zetaDelta only
    | exact rfl | exact id | intro _

theorem xinvStart_kept {s₀ : State} (x0 : State) (x1 : XinvOp) (x2 : Nat) (h0 : Kept s₀ x0) : Kept s₀ (xinvStart x0 x1
    x2) := by
  unfold xinvStart
  repeat' first
    | with_reducible first
        | assumption | exact Kept.refl _ | apply reject_kept | apply setB_kept
    | extract_lets | split | dsimp -zeta +zetaDelta only
    | with_reducible first
        | apply kept_foldl | apply kept_mk
    | exact rfl | exact id | intro _

theorem execXinvRange_kept {s₀ : State} (x0 : Nat) (x1 : Nat) (x2 : State) (h2 : Kept s₀ x2) : ∀ t, execXinvRange x0
    x1 x2 = .next t → Kept s₀ t := by
  intro t ht
  unfold execXinvRange at ht
  cases ht
  repeat' first
    | with_reducible first
        | assumption | exact Kept.refl _ | apply clocked_kept | apply guarded_kept | apply xinvStart_kept
    | extract_lets | split | dsimp -zeta +zetaDelta only
    | with_reducible first
        | apply kept_foldl | apply kept_mk
    | exact rfl | exact id | intro _

theorem execXinvAsid_kept {s₀ : State} (x0 : Nat) (x1 : Nat) (x2 : State) (h2 : Kept s₀ x2) : ∀ t, execXinvAsid x0 x1
    x2 = .next t → Kept s₀ t := by
  intro t ht
  unfold execXinvAsid at ht
  cases ht
  repeat' first
    | with_reducible first
        | assumption | exact Kept.refl _ | apply clocked_kept | apply guarded_kept | apply xinvStart_kept
    | extract_lets | split | dsimp -zeta +zetaDelta only
    | with_reducible first
        | apply kept_foldl | apply kept_mk
    | exact rfl | exact id | intro _

theorem execXinvAll_kept {s₀ : State} (x0 : Nat) (x1 : State) (h1 : Kept s₀ x1) : ∀ t, execXinvAll x0 x1 = .next t →
    Kept s₀ t := by
  intro t ht
  unfold execXinvAll at ht
  cases ht
  repeat' first
    | with_reducible first
        | assumption | exact Kept.refl _ | apply clocked_kept | apply guarded_kept | apply xinvStart_kept
    | extract_lets | split | dsimp -zeta +zetaDelta only
    | with_reducible first
        | apply kept_foldl | apply kept_mk
    | exact rfl | exact id | intro _

theorem xinvDrop_kept {s₀ : State} (x0 : State) (x1 : XinvOp) (h0 : Kept s₀ x0) : Kept s₀ (xinvDrop x0 x1) := by
  unfold xinvDrop
  repeat' first
    | with_reducible first
        | assumption | exact Kept.refl _ | apply mapSeqs_kept
    | extract_lets | split | dsimp -zeta +zetaDelta only
    | with_reducible first
        | apply kept_foldl | apply kept_mk
    | exact rfl | exact id | intro _

theorem xinvDoneEffect_kept {s₀ : State} (x0 : State) (h0 : Kept s₀ x0) : Kept s₀ (xinvDoneEffect x0) := by
  unfold xinvDoneEffect
  repeat' first
    | with_reducible first
        | assumption | exact Kept.refl _ | apply xinvDrop_kept | apply setB_kept | apply bumpF_kept
    | extract_lets | split | dsimp -zeta +zetaDelta only
    | with_reducible first
        | apply kept_foldl | apply kept_mk
    | exact rfl | exact id | intro _

theorem execXinvDone_kept {s₀ : State} (x0 : State) (h0 : Kept s₀ x0) : ∀ t, execXinvDone x0 = .next t → Kept s₀ t :=
    by
  intro t ht
  unfold execXinvDone at ht
  cases ht
  repeat' first
    | with_reducible first
        | assumption | exact Kept.refl _ | apply clocked_kept | apply xinvDoneEffect_kept
    | extract_lets | split | dsimp -zeta +zetaDelta only
    | exact rfl | exact id | intro _

theorem pteWrite_kept {s₀ : State} (x0 : State) (x1 : Nat) (x2 : Nat) (h0 : Kept s₀ x0) : Kept s₀ (pteWrite x0 x1 x2)
    := by
  unfold pteWrite
  repeat' first
    | with_reducible first
        | assumption | apply pocWrite_kept
    | split

theorem pageUncache_kept {s₀ : State} (x0 : State) (x1 : Nat) (x2 : Nat) (x3 : Bool) (h0 : Kept s₀ x0) : Kept s₀
    (pageUncache x0 x1 x2 x3) := by
  unfold pageUncache
  repeat' first
    | with_reducible first
        | assumption | exact Kept.refl _ | apply tcDrop_kept | apply tcBack_kept
    | extract_lets | split | dsimp -zeta +zetaDelta only
    | with_reducible first
        | apply kept_foldl | apply kept_mk
    | exact rfl | exact id | intro _

theorem pageCopy_kept {s₀ : State} (x0 : Bool) (x1 : Nat) (x2 : Nat) (x3 : Nat) (x4 : State) (h4 : Kept s₀ x4) : Kept
    s₀ (pageCopy x0 x1 x2 x3 x4) := by
  induction x3 generalizing x0 x1 x2 x4 with
  | zero =>
    unfold pageCopy
    repeat' first
      | with_reducible first
          | assumption | exact Kept.refl _ | apply pocRead_kept | apply pocPoison_kept | apply pocWrite_kept
      | extract_lets | split | dsimp -zeta +zetaDelta only
      | with_reducible first
          | apply kept_foldl | apply kept_foldl_fst | apply kept_foldl_snd | apply kept_foldl_thd | apply kept_mk
      | exact rfl | exact id | intro _
  | succ k ih =>
    unfold pageCopy
    repeat' first
      | with_reducible first
          | assumption | exact Kept.refl _ | apply ih | apply pocRead_kept | apply pocPoison_kept
          | apply pocWrite_kept
      | extract_lets | split | dsimp -zeta +zetaDelta only
      | with_reducible first
          | apply kept_foldl | apply kept_foldl_fst | apply kept_foldl_snd | apply kept_foldl_thd | apply kept_mk
      | exact rfl | exact id | intro _

theorem pageMoveEffect_kept {s₀ : State} (x0 : Nat) (x1 : Nat) (x2 : Nat) (x3 : State) (h3 : Kept s₀ x3) : Kept s₀
    (pageMoveEffect x0 x1 x2 x3) := by
  unfold pageMoveEffect
  repeat' first
    | with_reducible first
        | assumption | exact Kept.refl _ | apply pteWrite_kept | apply bumpF_kept | apply xinvDrop_kept
        | apply pageUncache_kept | apply pageCopy_kept
    | extract_lets | split | dsimp -zeta +zetaDelta only
    | exact rfl | exact id | intro _

theorem execPageMove_kept {s₀ : State} (x0 : Nat) (x1 : Nat) (x2 : Nat) (x3 : State) (h3 : Kept s₀ x3) : ∀ t,
    execPageMove x0 x1 x2 x3 = .next t → Kept s₀ t := by
  intro t ht
  unfold execPageMove at ht
  cases ht
  repeat' first
    | with_reducible first
        | assumption | exact Kept.refl _ | apply clocked_kept | apply pageMoveEffect_kept
    | extract_lets | split | dsimp -zeta +zetaDelta only
    | exact rfl | exact id | intro _

theorem stopEntries_kept {s₀ : State} (x0 : State) (x1 : Nat) (x2 : SEntry → Bool) (h0 : Kept s₀ x0) : Kept s₀
    (stopEntries x0 x1 x2) := by
  unfold stopEntries
  repeat' first
    | with_reducible first
        | assumption | exact Kept.refl _ | apply putSched_kept
    | extract_lets | split | dsimp -zeta +zetaDelta only
    | with_reducible first
        | apply kept_foldl | apply kept_mk
    | exact rfl | exact id | intro _

theorem itemsLost_kept {s₀ : State} (x0 : State) (x1 : Item → Bool) (h0 : Kept s₀ x0) : Kept s₀ (itemsLost x0 x1) :=
    by
  unfold itemsLost
  repeat' first
    | with_reducible first
        | assumption | exact Kept.refl _ | apply putItem_kept | apply itemError_kept
    | extract_lets | split | dsimp -zeta +zetaDelta only
    | with_reducible first
        | apply kept_foldl | apply kept_mk
    | exact rfl | exact id | intro _

theorem savedWindows_kept {s₀ : State} (x0 : State) (x1 : CtxRec) (x2 : Nat) (x3 : List Nat) (h0 : Kept s₀ x0) : Kept
    s₀ (savedWindows x0 x1 x2 x3).2 := by
  unfold savedWindows
  repeat' first
    | with_reducible first
        | assumption | exact Kept.refl _ | apply daRead_kept
    | extract_lets | split | dsimp -zeta +zetaDelta only
    | with_reducible first
        | apply kept_foldl | apply kept_foldl_fst | apply kept_foldl_snd | apply kept_foldl_thd | apply kept_mk
    | exact rfl | exact id | intro _

theorem recMask_kept {s₀ : State} (x0 : State) (x1 : Nat) (x2 : Nat) (x3 : Nat) (x4 : CtxRec) (h0 : Kept s₀ x0) : Kept
    s₀ (recMask x0 x1 x2 x3 x4) := by
  unfold recMask
  repeat' first
    | with_reducible first
        | assumption | exact Kept.refl _ | apply savedWindows_kept | apply daWrite_kept | apply putRec_kept
    | extract_lets | split | dsimp -zeta +zetaDelta only
    | with_reducible first
        | apply kept_foldl | apply kept_foldl_fst | apply kept_foldl_snd | apply kept_foldl_thd | apply kept_mk
    | exact rfl | exact id | intro _

theorem recDropCore_kept {s₀ : State} (x0 : Nat) (x1 : Nat) (x2 : State) (x3 : Nat) (h2 : Kept s₀ x2) : Kept s₀
    (recDropCore x0 x1 x2 x3) := by
  unfold recDropCore
  repeat' first
    | with_reducible first
        | assumption | exact Kept.refl _ | apply recMask_kept
    | extract_lets | split | dsimp -zeta +zetaDelta only
    | with_reducible first
        | apply kept_foldl | apply kept_mk
    | exact rfl | exact id | intro _

theorem coreRetire_kept {s₀ : State} (x0 : State) (x1 : Nat) (x2 : Nat) (x3 : Nat) (h0 : Kept s₀ x0) : Kept s₀
    (coreRetire x0 x1 x2 x3) := by
  unfold coreRetire
  repeat' first
    | with_reducible first
        | assumption | exact Kept.refl _ | apply recDropCore_kept | apply itemsLost_kept | apply stopEntries_kept
    | extract_lets | split | dsimp -zeta +zetaDelta only
    | with_reducible first
        | apply kept_foldl | apply kept_foldl_fst | apply kept_foldl_snd | apply kept_foldl_thd | apply kept_mk
    | exact rfl | exact id | intro _

theorem execCoreRetire_kept {s₀ : State} (x0 : Fin 8) (x1 : Fin 16) (x2 : State) (h2 : Kept s₀ x2) : ∀ t,
    execCoreRetire x0 x1 x2 = .next t → Kept s₀ t := by
  intro t ht
  unfold execCoreRetire at ht
  cases ht
  repeat' first
    | with_reducible first
        | assumption | exact Kept.refl _ | apply clocked_kept | apply coreRetire_kept
    | extract_lets | split | dsimp -zeta +zetaDelta only
    | exact rfl | exact id | intro _

theorem dropWaiting_kept {s₀ : State} (x0 : State) (x1 : Nat) (h0 : Kept s₀ x0) : Kept s₀ (dropWaiting x0 x1) := by
  unfold dropWaiting
  repeat' first
    | with_reducible first
        | assumption | exact Kept.refl _ | apply launchDiscard_kept
    | extract_lets | split | dsimp -zeta +zetaDelta only
    | with_reducible first
        | apply kept_foldl | apply kept_mk
    | exact rfl | exact id | intro _

theorem dropRecord_kept {s₀ : State} (x0 : State) (x1 : Nat) (x2 : Nat) (h0 : Kept s₀ x0) : Kept s₀ (dropRecord x0 x1
    x2) := by
  unfold dropRecord
  repeat' first
    | with_reducible first
        | assumption | exact Kept.refl _ | apply slotAbort_kept | apply launchDiscard_kept | apply stopEntries_kept
    | extract_lets | split | dsimp -zeta +zetaDelta only
    | with_reducible first
        | apply kept_foldl | apply kept_foldl_fst | apply kept_foldl_snd | apply kept_foldl_thd | apply kept_mk
    | exact rfl | exact id | intro _

theorem stopSeqs_kept {s₀ : State} (x0 : State) (x1 : Nat) (h0 : Kept s₀ x0) : Kept s₀ (stopSeqs x0 x1) := by
  unfold stopSeqs
  repeat' first
    | with_reducible first
        | assumption | exact Kept.refl _ | apply mapSeqs_kept
    | extract_lets | split | dsimp -zeta +zetaDelta only
    | with_reducible first
        | apply kept_foldl | apply kept_mk
    | exact rfl | exact id | intro _

theorem destroyCtx_kept {s₀ : State} (x0 : State) (x1 : Nat) (h0 : Kept s₀ x0) : Kept s₀ (destroyCtx x0 x1) := by
  unfold destroyCtx
  extract_lets asid s1 s2 s3 src cx s4
  have k1 : Kept s₀ s1 := dropWaiting_kept _ _ h0
  have k2 : Kept s₀ s2 := kept_foldl (fun t y ht => dropRecord_kept _ _ _ ht) k1
  have k3 : Kept s₀ s3 := stopSeqs_kept _ _ k2
  have k4 : Kept s₀ s4 := kept_mk k3 rfl id id
  split
  · exact k4
  · exact xinvDrop_kept _ _ k4

theorem functionReset_kept {s₀ : State} (x0 : State) (x1 : Nat) (h0 : Kept s₀ x0) : Kept s₀ (functionReset x0 x1) :=
  kept_foldl (fun _ _ ht => xinvDrop_kept _ _ (destroyCtx_kept _ _ ht)) h0

theorem pickFree_kept {s₀ : State} (x0 : State) (x1 : Nat) (x2 : List Nat) (h0 : Kept s₀ x0) : Kept s₀ (pickFree x0 x1
    x2).2 := by
  unfold pickFree
  repeat' first
    | with_reducible first
        | assumption | exact Kept.refl _ | apply freeWord_kept
    | extract_lets | split | dsimp -zeta +zetaDelta only
    | exact rfl | exact id | intro _

theorem pickPiece_kept {s₀ : State} (x0 : State) (x1 : Nat) (x2 : Nat) (h0 : Kept s₀ x0) : Kept s₀ (pickPiece x0 x1
    x2).2 := by
  unfold pickPiece
  repeat' first
    | with_reducible first
        | assumption | exact Kept.refl _ | apply freeWord_kept
    | extract_lets | split | dsimp -zeta +zetaDelta only
    | exact rfl | exact id | intro _

theorem pickPieces_kept {s₀ : State} (x0 : Nat) (x1 : Nat) (x2 : Nat) (x3 : State) (x4 : List Nat) (h3 : Kept s₀ x3) :
    Kept s₀ (pickPieces x0 x1 x2 x3 x4).2 := by
  induction x2 generalizing x0 x1 x3 x4 with
  | zero =>
    unfold pickPieces
    repeat' first
      | with_reducible first
          | assumption | exact Kept.refl _ | apply pickPiece_kept
      | extract_lets | split | dsimp -zeta +zetaDelta only
      | with_reducible first
          | apply kept_foldl | apply kept_mk
      | exact rfl | exact id | intro _
  | succ k ih =>
    unfold pickPieces
    repeat' first
      | with_reducible first
          | assumption | exact Kept.refl _ | apply ih | apply pickPiece_kept
      | extract_lets | split | dsimp -zeta +zetaDelta only
      | with_reducible first
          | apply kept_foldl | apply kept_mk
      | exact rfl | exact id | intro _

theorem tableMake_kept {s₀ : State} (x0 : State) (x1 : Nat) (x2 : Nat) (x3 : Nat) (x4 : Bool) (h0 : Kept s₀ x0) : Kept
    s₀ (tableMake x0 x1 x2 x3 x4).2 := by
  unfold tableMake
  repeat' first
    | with_reducible first
        | assumption | exact Kept.refl _ | apply daWrite_kept
    | extract_lets | split | dsimp -zeta +zetaDelta only
    | exact rfl | exact id | intro _

theorem leafTable_kept {s₀ : State} (x0 : Nat) (x1 : Nat) (x2 : Bool) (x3 : Nat) (x4 : State) (x5 : Nat) (x6 : Bool)
    (h4 : Kept s₀ x4) : Kept s₀ (leafTable x0 x1 x2 x3 x4 x5 x6).2 := by
  induction x3 generalizing x0 x1 x2 x4 x5 x6 with
  | zero =>
    unfold leafTable
    repeat' first
      | with_reducible first
          | assumption | exact Kept.refl _ | apply tableMake_kept | apply pteWrite_kept
      | extract_lets | split | dsimp -zeta +zetaDelta only
      | exact rfl | exact id | intro _
  | succ k ih =>
    unfold leafTable
    repeat' first
      | with_reducible first
          | assumption | exact Kept.refl _ | apply ih | apply tableMake_kept | apply pteWrite_kept
      | extract_lets | split | dsimp -zeta +zetaDelta only
      | exact rfl | exact id | intro _

theorem mapLeaves_kept {s₀ : State} (x0 : State) (x1 : Ctx) (x2 : Nat) (x3 : Option Nat) (x4 : Nat) (h0 : Kept s₀ x0)
    : Kept s₀ (mapLeaves x0 x1 x2 x3 x4) := by
  unfold mapLeaves
  repeat' first
    | with_reducible first
        | assumption | exact Kept.refl _ | apply leafTable_kept | apply daWrite_kept
    | extract_lets | split | dsimp -zeta +zetaDelta only
    | exact rfl | exact id | intro _

theorem regionPlace_kept {s₀ : State} (x0 : Ctx) (x1 : State) (x2 : RowRegion) (h1 : Kept s₀ x1) : Kept s₀
    (regionPlace x0 x1 x2) := by
  unfold regionPlace
  repeat' first
    | with_reducible first
        | assumption | exact Kept.refl _ | apply mapLeaves_kept | apply pageUncache_kept
    | extract_lets | split | dsimp -zeta +zetaDelta only
    | with_reducible first
        | apply kept_foldl | apply kept_mk
    | exact rfl | exact id | intro _

theorem regionsPlace_kept {s₀ : State} (x0 : State) (x1 : Nat) (x2 : Ctx) (h0 : Kept s₀ x0) : Kept s₀ (regionsPlace x0
    x1 x2) := by
  unfold regionsPlace
  repeat' first
    | with_reducible first
        | assumption | exact Kept.refl _ | apply regionPlace_kept
    | extract_lets | split | dsimp -zeta +zetaDelta only
    | with_reducible first
        | apply kept_foldl | apply kept_foldl_fst | apply kept_foldl_snd | apply kept_foldl_thd | apply kept_mk
    | exact rfl | exact id | intro _

theorem mapPiecesAt_kept {s₀ : State} (x0 : State) (x1 : KvBlock) (x2 : Bool) (h0 : Kept s₀ x0) : Kept s₀ (mapPiecesAt
    x0 x1 x2) := by
  unfold mapPiecesAt
  repeat' first
    | with_reducible first
        | assumption | exact Kept.refl _ | apply mapLeaves_kept | apply xinvDrop_kept
    | extract_lets | split | dsimp -zeta +zetaDelta only
    | with_reducible first
        | apply kept_foldl | apply kept_foldl_fst | apply kept_foldl_snd | apply kept_foldl_thd | apply kept_mk
    | exact rfl | exact id | intro _

theorem mapPool_kept {s₀ : State} (x0 : Nat) (x1 : Nat) (x2 : Nat) (x3 : State) (x4 : Nat) (h3 : Kept s₀ x3) : Kept s₀
    (mapPool x0 x1 x2 x3 x4) := by
  unfold mapPool
  repeat' first
    | with_reducible first
        | assumption | exact Kept.refl _ | apply pickPieces_kept | apply pageUncache_kept | apply mapPiecesAt_kept
    | extract_lets | split | dsimp -zeta +zetaDelta only
    | with_reducible first
        | apply kept_foldl | apply kept_foldl_fst | apply kept_foldl_snd | apply kept_foldl_thd | apply kept_mk
    | exact rfl | exact id | intro _

theorem mapPage_kept {s₀ : State} (x0 : State) (x1 : Nat) (x2 : Nat) (x3 : Nat) (h0 : Kept s₀ x0) : Kept s₀ (mapPage
    x0 x1 x2 x3) := by
  unfold mapPage
  repeat' first
    | with_reducible first
        | assumption | exact Kept.refl _ | apply mapPool_kept
    | extract_lets | split | dsimp -zeta +zetaDelta only
    | with_reducible first
        | apply kept_foldl | apply kept_mk
    | exact rfl | exact id | intro _

theorem copyPage_kept {s₀ : State} (x0 : State) (x1 : Nat) (x2 : Nat) (x3 : Nat) (h0 : Kept s₀ x0) : Kept s₀ (copyPage
    x0 x1 x2 x3) := by
  unfold copyPage
  repeat' first
    | with_reducible first
        | assumption | exact Kept.refl _ | apply pageCopy_kept
    | extract_lets | split | dsimp -zeta +zetaDelta only
    | with_reducible first
        | apply kept_foldl | apply kept_foldl_fst | apply kept_foldl_snd | apply kept_foldl_thd | apply kept_mk
    | exact rfl | exact id | intro _

theorem readBlock_kept {s₀ : State} (x0 : Nat) (x1 : List Nat) (x2 : State) (h2 : Kept s₀ x2) : Kept s₀ (readBlock x0
    x1 x2).2.2 := by
  induction x1 generalizing x0 x2 with
  | nil =>
    unfold readBlock
    repeat' first
      | with_reducible first
          | assumption | exact Kept.refl _ | apply daRead_kept
      | extract_lets | split | dsimp -zeta +zetaDelta only
      | exact rfl | exact id | intro _
  | cons y r ih =>
    unfold readBlock
    repeat' first
      | with_reducible first
          | assumption | exact Kept.refl _ | apply ih | apply daRead_kept
      | extract_lets | split | dsimp -zeta +zetaDelta only
      | exact rfl | exact id | intro _

theorem fillBlock_kept {s₀ : State} (x0 : Nat) (x1 : List Nat) (x2 : List Nat) (x3 : State) (x4 : List Byte) (x5 :
    Nat) (h3 : Kept s₀ x3) : Kept s₀ (fillBlock x0 x1 x2 x3 x4 x5) := by
  induction x2 generalizing x0 x1 x3 x4 x5 with
  | nil =>
    unfold fillBlock
    repeat' first
      | with_reducible first
          | assumption | exact Kept.refl _ | apply daWrite_kept
      | extract_lets | split | dsimp -zeta +zetaDelta only
      | exact rfl | exact id | intro _
  | cons y r ih =>
    unfold fillBlock
    repeat' first
      | with_reducible first
          | assumption | exact Kept.refl _ | apply ih | apply daWrite_kept
      | extract_lets | split | dsimp -zeta +zetaDelta only
      | exact rfl | exact id | intro _

theorem fenivarPoison_kept {s₀ : State} (x0 : State) (x1 : Nat) (h0 : Kept s₀ x0) : Kept s₀ (fenivarPoison x0 x1) :=
    by
  unfold fenivarPoison
  repeat' first
    | with_reducible first
        | assumption | exact Kept.refl _ | apply elogAdd_kept
    | extract_lets | split | dsimp -zeta +zetaDelta only
    | with_reducible first
        | apply kept_foldl | apply kept_mk
    | exact rfl | exact id | intro _

theorem swapBlockOut_kept {s₀ : State} (x0 : Nat) (x1 : Nat) (x2 : State) (x3 : Nat) (h2 : Kept s₀ x2) : Kept s₀
    (swapBlockOut x0 x1 x2 x3) := by
  unfold swapBlockOut
  repeat' first
    | with_reducible first
        | assumption | exact Kept.refl _ | apply readBlock_kept | apply fenivarPoison_kept | apply hostPost_kept
    | extract_lets | split | dsimp -zeta +zetaDelta only
    | with_reducible first
        | apply kept_foldl | apply kept_mk
    | exact rfl | exact id | intro _

theorem swapPageOut_kept {s₀ : State} (x0 : Nat) (x1 : State) (x2 : Nat) (h1 : Kept s₀ x1) : Kept s₀ (swapPageOut x0
    x1 x2) := by
  unfold swapPageOut
  repeat' first
    | with_reducible first
        | assumption | exact Kept.refl _ | apply swapBlockOut_kept
    | extract_lets | split | dsimp -zeta +zetaDelta only
    | with_reducible first
        | apply kept_foldl | apply kept_mk
    | exact rfl | exact id | intro _

theorem swapBlockIn_kept {s₀ : State} (x0 : Nat) (x1 : Nat) (x2 : State) (x3 : Nat) (h2 : Kept s₀ x2) : Kept s₀
    (swapBlockIn x0 x1 x2 x3) := by
  unfold swapBlockIn
  repeat' first
    | with_reducible first
        | assumption | exact Kept.refl _ | apply hostReadLost_kept | apply fillBlock_kept
    | extract_lets | split | dsimp -zeta +zetaDelta only
    | with_reducible first
        | apply kept_foldl | apply kept_mk
    | exact rfl | exact id | intro _

theorem swapPageIn_kept {s₀ : State} (x0 : Nat) (x1 : State) (x2 : Nat) (h1 : Kept s₀ x1) : Kept s₀ (swapPageIn x0 x1
    x2) := by
  unfold swapPageIn
  repeat' first
    | with_reducible first
        | assumption | exact Kept.refl _ | apply swapBlockIn_kept
    | extract_lets | split | dsimp -zeta +zetaDelta only
    | with_reducible first
        | apply kept_foldl | apply kept_mk
    | exact rfl | exact id | intro _

theorem kvSweep_kept {s₀ : State} (x0 : State) (h0 : Kept s₀ x0) : Kept s₀ (kvSweep x0) := by
  unfold kvSweep
  repeat' first
    | with_reducible first
        | assumption | exact Kept.refl _ | apply mapPiecesAt_kept
    | extract_lets | split | dsimp -zeta +zetaDelta only
    | with_reducible first
        | apply kept_foldl | apply kept_mk
    | exact rfl | exact id | intro _

theorem itemOpen_kept {s₀ : State} (x0 : State) (x1 : LaunchSrc) (x2 : Nat) (x3 : Nat) (h0 : Kept s₀ x0) : Kept s₀
    (itemOpen x0 x1 x2 x3).2 := by
  unfold itemOpen
  repeat' first
    | with_reducible first
        | assumption | exact Kept.refl _ | apply jrnlWrite_kept | apply bumpF_kept
    | extract_lets | split | dsimp -zeta +zetaDelta only
    | with_reducible first
        | apply kept_foldl | apply kept_mk
    | exact rfl | exact id | intro _

theorem sendLaunch_kept {s₀ : State} (x0 : State) (x1 : Nat) (x2 : Nat) (x3 : Nat) (x4 : Nat) (x5 : Launch) (h0 : Kept
    s₀ x0) : Kept s₀ (sendLaunch x0 x1 x2 x3 x4 x5) := by
  unfold sendLaunch
  repeat' first
    | with_reducible first
        | assumption | exact Kept.refl _ | apply putItem_kept
    | extract_lets | split | dsimp -zeta +zetaDelta only
    | with_reducible first
        | apply kept_foldl | apply kept_mk
    | exact rfl | exact id | intro _

theorem putPower_kept {s₀ : State} (x0 : State) (x1 : PowerSt) (h0 : Kept s₀ x0) : Kept s₀ (putPower x0 x1) := by
  unfold putPower
  repeat' first
    | with_reducible first
        | assumption | exact Kept.refl _
    | extract_lets | split | dsimp -zeta +zetaDelta only
    | with_reducible first
        | apply kept_foldl | apply kept_mk
    | exact rfl | exact id | intro _

theorem frameEnergy_kept {s₀ : State} (x0 : State) (h0 : Kept s₀ x0) : Kept s₀ (frameEnergy x0) := by
  unfold frameEnergy
  repeat' first
    | with_reducible first
        | assumption | exact Kept.refl _ | apply putPower_kept
    | extract_lets | split | dsimp -zeta +zetaDelta only
    | with_reducible first
        | apply kept_foldl | apply kept_mk
    | exact rfl | exact id | intro _

theorem thermalDuty_kept {s₀ : State} (x0 : State) (x1 : Nat) (h0 : Kept s₀ x0) : Kept s₀ (thermalDuty x0 x1) := by
  unfold thermalDuty
  repeat' first
    | with_reducible first
        | assumption | exact Kept.refl _ | apply putPower_kept
    | extract_lets | split | dsimp -zeta +zetaDelta only
    | with_reducible first
        | apply kept_foldl | apply kept_mk
    | exact rfl | exact id | intro _

end Sys2Proof.Machine
end

