-- ==== Sys2Proof/Laws/KeptServing.lean ====
section
/-!
SUPPORT. One lemma per operation of the schedule and serving: it keeps what `Kept` names (or holds what `Held` names), where
the state it begins with does.
-/
namespace Sys2Proof.Machine

theorem setArmed_kept {s₀ : State} (x0 : State) (x1 : Nat) (x2 : Nat) (x3 : Bool) (h0 : Kept s₀ x0) : Kept s₀
    (setArmed x0 x1 x2 x3) := by
  unfold setArmed
  repeat' first
    | with_reducible first
        | assumption | exact Kept.refl _ | apply setF_kept
    | extract_lets | split | dsimp -zeta +zetaDelta only
    | exact rfl | exact id | intro _

theorem putGroup_kept {s₀ : State} (x0 : State) (x1 : Nat) (x2 : Group) (h0 : Kept s₀ x0) : Kept s₀ (putGroup x0 x1
    x2) := by
  unfold putGroup
  repeat' first
    | with_reducible first
        | assumption | exact Kept.refl _
    | extract_lets | split | dsimp -zeta +zetaDelta only
    | with_reducible first
        | apply kept_foldl | apply kept_mk
    | exact rfl | exact id | intro _

theorem groupFired_kept {s₀ : State} (x0 : State) (x1 : Nat) (x2 : Nat) (x3 : Nat) (h0 : Kept s₀ x0) : Kept s₀
    (groupFired x0 x1 x2 x3) := by
  unfold groupFired
  repeat' first
    | with_reducible first
        | assumption | exact Kept.refl _
    | extract_lets | split | dsimp -zeta +zetaDelta only
    | with_reducible first
        | apply kept_foldl | apply kept_mk
    | exact rfl | exact id | intro _

theorem groupMissed_kept {s₀ : State} (x0 : State) (x1 : Nat × Nat → Bool) (h0 : Kept s₀ x0) : Kept s₀ (groupMissed x0
    x1) := by
  unfold groupMissed
  repeat' first
    | with_reducible first
        | assumption | exact Kept.refl _
    | extract_lets | split | dsimp -zeta +zetaDelta only
    | with_reducible first
        | apply kept_foldl | apply kept_mk
    | exact rfl | exact id | intro _

theorem fireEntry_kept {s₀ : State} (x0 : State) (x1 : Nat) (x2 : Nat) (x3 : SEntry) (x4 : Nat) (x5 : Nat) (h0 : Kept
    s₀ x0) : Kept s₀ (fireEntry x0 x1 x2 x3 x4 x5) := by
  unfold fireEntry
  repeat' first
    | with_reducible first
        | assumption | exact Kept.refl _ | apply itemOpen_kept | apply sendLaunch_kept | apply bumpF_kept
        | apply groupFired_kept | apply setArmed_kept
    | extract_lets | split | dsimp -zeta +zetaDelta only
    | with_reducible first
        | apply kept_foldl | apply kept_foldl_fst | apply kept_foldl_snd | apply kept_foldl_thd | apply kept_mk
    | exact rfl | exact id | intro _

theorem dropFirings_kept {s₀ : State} (x0 : State) (x1 : Nat) (x2 : Nat) (h0 : Kept s₀ x0) : Kept s₀ (dropFirings x0
    x1 x2) := by
  unfold dropFirings
  repeat' first
    | with_reducible first
        | assumption | apply cadenceLost_kept | apply bumpF_kept
    | split

theorem missFiring_kept {s₀ : State} (x0 : State) (x1 : Nat) (x2 : Nat) (h0 : Kept s₀ x0) : Kept s₀ (missFiring x0 x1
    x2) := by
  unfold missFiring
  repeat' first
    | with_reducible first
        | assumption | apply groupMissed_kept | apply dropFirings_kept
    | split

theorem markSeen_kept {s₀ : State} (x0 : State) (x1 : Nat) (x2 : Nat) (h0 : Kept s₀ x0) : Kept s₀ (markSeen x0 x1 x2)
    := by
  unfold markSeen
  repeat' first
    | with_reducible first
        | assumption | exact Kept.refl _ | apply putSched_kept
    | extract_lets | split | dsimp -zeta +zetaDelta only
    | with_reducible first
        | apply kept_foldl | apply kept_mk
    | exact rfl | exact id | intro _

theorem deferFiring_kept {s₀ : State} (x0 : State) (x1 : Nat) (x2 : Nat) (x3 : Nat) (x4 : Nat) (h0 : Kept s₀ x0) :
    Kept s₀ (deferFiring x0 x1 x2 x3 x4) := by
  unfold deferFiring
  repeat' first
    | with_reducible first
        | assumption | exact Kept.refl _ | apply cadenceLost_kept | apply bumpF_kept | apply putSched_kept
    | extract_lets | split | dsimp -zeta +zetaDelta only
    | with_reducible first
        | apply kept_foldl | apply kept_mk
    | exact rfl | exact id | intro _

theorem entryFireEffect_kept {s₀ : State} (x0 : Fin 8) (x1 : Nat) (x2 : State) (h2 : Kept s₀ x2) : Kept s₀
    (entryFireEffect x0 x1 x2) := by
  unfold entryFireEffect
  repeat' first
    | with_reducible first
        | assumption | exact Kept.refl _ | apply markSeen_kept | apply itemsClose_kept | apply missFiring_kept
        | apply bumpF_kept | apply deferFiring_kept | apply setArmed_kept | apply fireEntry_kept
    | extract_lets | split | dsimp -zeta +zetaDelta only
    | exact rfl | exact id | intro _

theorem execEntryFire_kept {s₀ : State} (x0 : Fin 8) (x1 : Nat) (x2 : State) (h2 : Kept s₀ x2) : ∀ t, execEntryFire x0
    x1 x2 = .next t → Kept s₀ t := by
  intro t ht
  unfold execEntryFire at ht
  cases ht
  repeat' first
    | with_reducible first
        | assumption | exact Kept.refl _ | apply clocked_kept | apply entryFireEffect_kept
    | extract_lets | split | dsimp -zeta +zetaDelta only
    | exact rfl | exact id | intro _

theorem deferredFireEffect_kept {s₀ : State} (x0 : Fin 8) (x1 : Nat) (x2 : State) (h2 : Kept s₀ x2) : Kept s₀
    (deferredFireEffect x0 x1 x2) := by
  unfold deferredFireEffect
  repeat' first
    | with_reducible first
        | assumption | exact Kept.refl _ | apply putSched_kept | apply itemsClose_kept | apply missFiring_kept
        | apply fireEntry_kept
    | extract_lets | split | dsimp -zeta +zetaDelta only
    | with_reducible first
        | apply kept_foldl | apply kept_mk
    | exact rfl | exact id | intro _

theorem execDeferredFire_kept {s₀ : State} (x0 : Fin 8) (x1 : Nat) (x2 : State) (h2 : Kept s₀ x2) : ∀ t,
    execDeferredFire x0 x1 x2 = .next t → Kept s₀ t := by
  intro t ht
  unfold execDeferredFire at ht
  cases ht
  repeat' first
    | with_reducible first
        | assumption | exact Kept.refl _ | apply clocked_kept | apply deferredFireEffect_kept
    | extract_lets | split | dsimp -zeta +zetaDelta only
    | exact rfl | exact id | intro _

theorem imageEntry_kept {s₀ : State} (x0 : State) (x1 : Nat) (h0 : Kept s₀ x0) : Kept s₀ (imageEntry x0 x1).2 := by
  unfold imageEntry
  repeat' first
    | with_reducible first
        | assumption | exact Kept.refl _ | apply pocRead_kept
    | extract_lets | split | dsimp -zeta +zetaDelta only
    | exact rfl | exact id | intro _

theorem imageCheck_kept {s₀ : State} (x0 : Nat) (x1 : Nat) (x2 : Nat) (x3 : Nat) (x4 : State) (x5 : List SEntry) (h4 :
    Kept s₀ x4) : Kept s₀ (imageCheck x0 x1 x2 x3 x4 x5).2 := by
  induction x3 generalizing x0 x1 x2 x4 x5 with
  | zero =>
    unfold imageCheck
    repeat' first
      | with_reducible first
          | assumption | exact Kept.refl _ | apply imageEntry_kept
      | extract_lets | split | dsimp -zeta +zetaDelta only
      | exact rfl | exact id | intro _
  | succ k ih =>
    unfold imageCheck
    repeat' first
      | with_reducible first
          | assumption | exact Kept.refl _ | apply ih | apply imageEntry_kept
      | extract_lets | split | dsimp -zeta +zetaDelta only
      | exact rfl | exact id | intro _

theorem schedLoadEffect_kept {s₀ : State} (x0 : Fin 8) (x1 : Nat) (x2 : State) (h2 : Kept s₀ x2) : Kept s₀
    (schedLoadEffect x0 x1 x2) := by
  unfold schedLoadEffect
  repeat' first
    | with_reducible first
        | assumption | apply rejectPath_kept | apply reject_kept | apply setB_kept
    | split

theorem execSchedLoad_kept {s₀ : State} (x0 : Fin 8) (x1 : Nat) (x2 : State) (h2 : Kept s₀ x2) : ∀ t, execSchedLoad x0
    x1 x2 = .next t → Kept s₀ t := by
  intro t ht
  unfold execSchedLoad at ht
  cases ht
  repeat' first
    | with_reducible first
        | assumption | exact Kept.refl _ | apply clocked_kept | apply guarded_kept | apply schedLoadEffect_kept
    | extract_lets | split | dsimp -zeta +zetaDelta only
    | exact rfl | exact id | intro _

theorem schedValidateDoneEffect_kept {s₀ : State} (x0 : Fin 8) (x1 : State) (h1 : Kept s₀ x1) : Kept s₀
    (schedValidateDoneEffect x0 x1) := by
  unfold schedValidateDoneEffect
  repeat' first
    | with_reducible first
        | assumption | exact Kept.refl _ | apply imageCheck_kept | apply setF_kept | apply setB_kept
        | apply putSched_kept
    | extract_lets | split | dsimp -zeta +zetaDelta only
    | with_reducible first
        | apply kept_foldl | apply kept_mk
    | exact rfl | exact id | intro _

theorem execSchedValidateDone_kept {s₀ : State} (x0 : Fin 8) (x1 : State) (h1 : Kept s₀ x1) : ∀ t,
    execSchedValidateDone x0 x1 = .next t → Kept s₀ t := by
  intro t ht
  unfold execSchedValidateDone at ht
  cases ht
  repeat' first
    | with_reducible first
        | assumption | exact Kept.refl _ | apply clocked_kept | apply schedValidateDoneEffect_kept
    | extract_lets | split | dsimp -zeta +zetaDelta only
    | exact rfl | exact id | intro _

theorem frameActivateEffect_kept {s₀ : State} (x0 : Nat) (x1 : State) (h1 : Kept s₀ x1) : Kept s₀ (frameActivateEffect
    x0 x1) := by
  unfold frameActivateEffect
  repeat' first
    | with_reducible first
        | assumption | exact Kept.refl _ | apply setB_kept | apply reject_kept
    | extract_lets | split | dsimp -zeta +zetaDelta only
    | exact rfl | exact id | intro _

theorem execFrameActivate_kept {s₀ : State} (x0 : Nat) (x1 : State) (h1 : Kept s₀ x1) : ∀ t, execFrameActivate x0 x1 =
    .next t → Kept s₀ t := by
  intro t ht
  unfold execFrameActivate at ht
  cases ht
  repeat' first
    | with_reducible first
        | assumption | exact Kept.refl _ | apply clocked_kept | apply guarded_kept | apply frameActivateEffect_kept
    | extract_lets | split | dsimp -zeta +zetaDelta only
    | exact rfl | exact id | intro _

theorem frameStopEffect_kept {s₀ : State} (x0 : State) (h0 : Kept s₀ x0) : Kept s₀ (frameStopEffect x0) := by
  unfold frameStopEffect
  repeat' first
    | with_reducible first
        | assumption | exact Kept.refl _
    | extract_lets | split | dsimp -zeta +zetaDelta only
    | with_reducible first
        | apply kept_foldl | apply kept_mk
    | exact rfl | exact id | intro _

theorem execFrameStop_kept {s₀ : State} (x0 : Nat) (x1 : State) (h1 : Kept s₀ x1) : ∀ t, execFrameStop x0 x1 = .next t
    → Kept s₀ t := by
  intro t ht
  unfold execFrameStop at ht
  cases ht
  repeat' first
    | with_reducible first
        | assumption | exact Kept.refl _ | apply clocked_kept | apply guarded_kept | apply frameStopEffect_kept
    | extract_lets | split | dsimp -zeta +zetaDelta only
    | exact rfl | exact id | intro _

theorem boundaryTake_kept {s₀ : State} (x0 : State) (x1 : Nat) (h0 : Kept s₀ x0) : Kept s₀ (boundaryTake x0 x1) := by
  unfold boundaryTake
  repeat' first
    | with_reducible first
        | assumption | exact Kept.refl _
    | extract_lets | split | dsimp -zeta +zetaDelta only
    | with_reducible first
        | apply kept_foldl | apply kept_mk
    | exact rfl | exact id | intro _

theorem dutyShow_kept {s₀ : State} (x0 : State) (h0 : Kept s₀ x0) : Kept s₀ (dutyShow x0) := by
  unfold dutyShow
  repeat' first
    | with_reducible first
        | assumption | apply setF_kept
    | split

theorem clockStart_kept {s₀ : State} (x0 : State) (h0 : Kept s₀ x0) : Kept s₀ (clockStart x0) := by
  unfold clockStart
  repeat' first
    | with_reducible first
        | assumption | exact Kept.refl _ | apply setF_kept | apply dutyShow_kept | apply boundaryTake_kept
    | extract_lets | split | dsimp -zeta +zetaDelta only
    | with_reducible first
        | apply kept_foldl | apply kept_mk
    | exact rfl | exact id | intro _

theorem frameClockStartEffect_kept {s₀ : State} (x0 : Nat) (x1 : State) (h1 : Kept s₀ x1) : Kept s₀
    (frameClockStartEffect x0 x1) := by
  unfold frameClockStartEffect
  repeat' first
    | with_reducible first
        | assumption | apply reject_kept | apply clockStart_kept
    | split

theorem execFrameClockStart_kept {s₀ : State} (x0 : Nat) (x1 : State) (h1 : Kept s₀ x1) : ∀ t, execFrameClockStart x0
    x1 = .next t → Kept s₀ t := by
  intro t ht
  unfold execFrameClockStart at ht
  cases ht
  repeat' first
    | with_reducible first
        | assumption | exact Kept.refl _ | apply clocked_kept | apply guarded_kept
        | apply frameClockStartEffect_kept
    | extract_lets | split | dsimp -zeta +zetaDelta only
    | exact rfl | exact id | intro _

theorem releaseEpoch_kept {s₀ : State} (x0 : State) (x1 : Nat) (x2 : Nat) (h0 : Kept s₀ x0) : Kept s₀ (releaseEpoch x0
    x1 x2) := by
  unfold releaseEpoch
  repeat' first
    | with_reducible first
        | assumption | exact Kept.refl _ | apply kvSweep_kept
    | extract_lets | split | dsimp -zeta +zetaDelta only
    | with_reducible first
        | apply kept_foldl | apply kept_mk
    | exact rfl | exact id | intro _

theorem armEntry_kept {s₀ : State} (x0 : Nat) (x1 : Nat) (x2 : State) (h2 : Kept s₀ x2) : Kept s₀ (armEntry x0 x1 x2)
    := by
  unfold armEntry
  repeat' first
    | with_reducible first
        | assumption | exact Kept.refl _ | apply setArmed_kept | apply releaseEpoch_kept
    | extract_lets | split | dsimp -zeta +zetaDelta only
    | exact rfl | exact id | intro _

theorem schedArmEffect_kept {s₀ : State} (x0 : Fin 8) (x1 : Fin 64) (x2 : Nat) (x3 : Nat) (x4 : State) (h4 : Kept s₀
    x4) : Kept s₀ (schedArmEffect x0 x1 x2 x3 x4) := by
  unfold schedArmEffect
  repeat' first
    | with_reducible first
        | assumption | exact Kept.refl _ | apply rejectPath_kept | apply armEntry_kept | apply setF_kept
    | extract_lets | split | dsimp -zeta +zetaDelta only
    | with_reducible first
        | apply kept_foldl | apply kept_mk
    | exact rfl | exact id | intro _

theorem execSchedArm_kept {s₀ : State} (x0 : Fin 8) (x1 : Fin 64) (x2 : Nat) (x3 : Nat) (x4 : State) (h4 : Kept s₀ x4)
    : ∀ t, execSchedArm x0 x1 x2 x3 x4 = .next t → Kept s₀ t := by
  intro t ht
  unfold execSchedArm at ht
  cases ht
  repeat' first
    | with_reducible first
        | assumption | exact Kept.refl _ | apply clocked_kept | apply guarded_kept | apply schedArmEffect_kept
    | extract_lets | split | dsimp -zeta +zetaDelta only
    | exact rfl | exact id | intro _

theorem discardDeferred_kept {s₀ : State} (x0 : State) (x1 : Nat) (h0 : Kept s₀ x0) : Kept s₀ (discardDeferred x0 x1)
    := by
  unfold discardDeferred
  repeat' first
    | with_reducible first
        | assumption | exact Kept.refl _ | apply groupMissed_kept | apply dropFirings_kept | apply putSched_kept
    | extract_lets | split | dsimp -zeta +zetaDelta only
    | with_reducible first
        | apply kept_foldl | apply kept_mk
    | exact rfl | exact id | intro _

theorem clockStop_kept {s₀ : State} (x0 : State) (h0 : Kept s₀ x0) : Kept s₀ (clockStop x0) := by
  unfold clockStop
  repeat' first
    | with_reducible first
        | assumption | exact Kept.refl _ | apply discardDeferred_kept | apply setF_kept
    | extract_lets | split | dsimp -zeta +zetaDelta only
    | with_reducible first
        | apply kept_foldl | apply kept_foldl_fst | apply kept_foldl_snd | apply kept_foldl_thd | apply kept_mk
    | exact rfl | exact id | intro _

theorem switchSpan_kept {s₀ : State} (x0 : State) (x1 : Nat) (h0 : Kept s₀ x0) : Kept s₀ (switchSpan x0 x1) := by
  unfold switchSpan
  repeat' first
    | with_reducible first
        | assumption | exact Kept.refl _ | apply groupMissed_kept | apply discardDeferred_kept | apply setB_kept
        | apply putSched_kept
    | extract_lets | split | dsimp -zeta +zetaDelta only
    | with_reducible first
        | apply kept_foldl | apply kept_mk
    | exact rfl | exact id | intro _

theorem recordFetch_kept {s₀ : State} (x0 : Fin 8) (x1 : State) (x2 : Nat) (h1 : Kept s₀ x1) : Kept s₀ (recordFetch x0
    x1 x2) := by
  unfold recordFetch
  repeat' first
    | with_reducible first
        | assumption | exact Kept.refl _ | apply recordSwapInEffect_kept | apply recordSwapOutEffect_kept
    | extract_lets | split | dsimp -zeta +zetaDelta only
    | exact rfl | exact id | intro _

theorem pinContext_kept {s₀ : State} (x0 : Fin 8) (x1 : Fin 16) (x2 : State) (x3 : Nat) (h2 : Kept s₀ x2) : Kept s₀
    (pinContext x0 x1 x2 x3) := by
  unfold pinContext
  repeat' first
    | with_reducible first
        | assumption | exact Kept.refl _ | apply recordFetch_kept | apply switchAt_kept | apply makeRoom_kept
        | apply switchOver_kept
    | extract_lets | split | dsimp -zeta +zetaDelta only
    | exact rfl | exact id | intro _

theorem pinAll_kept {s₀ : State} (x0 : State) (h0 : Kept s₀ x0) : Kept s₀ (pinAll x0) := by
  unfold pinAll
  repeat' first
    | with_reducible first
        | assumption | exact Kept.refl _ | apply pinContext_kept
    | extract_lets | split | dsimp -zeta +zetaDelta only
    | with_reducible first
        | apply kept_foldl | apply kept_mk
    | exact rfl | exact id | intro _

theorem dropHostWaiting_kept {s₀ : State} (x0 : State) (h0 : Kept s₀ x0) : Kept s₀ (dropHostWaiting x0) := by
  unfold dropHostWaiting
  repeat' first
    | with_reducible first
        | assumption | exact Kept.refl _ | apply launchDiscard_kept
    | extract_lets | split | dsimp -zeta +zetaDelta only
    | with_reducible first
        | apply kept_foldl | apply kept_mk
    | exact rfl | exact id | intro _

theorem activateTables_kept {s₀ : State} (x0 : State) (h0 : Kept s₀ x0) : Kept s₀ (activateTables x0) := by
  unfold activateTables
  repeat' first
    | with_reducible first
        | assumption | exact Kept.refl _ | apply switchSpan_kept | apply setB_kept | apply setF_kept
        | apply dropHostWaiting_kept | apply pinAll_kept
    | extract_lets | split | dsimp -zeta +zetaDelta only
    | with_reducible first
        | apply kept_foldl | apply kept_mk
    | exact rfl | exact id | intro _

theorem dutyAt_kept {s₀ : State} (x0 : State) (x1 : Nat) (h0 : Kept s₀ x0) : Kept s₀ (dutyAt x0 x1) := by
  unfold dutyAt
  repeat' first
    | with_reducible first
        | assumption | exact Kept.refl _ | apply commitPage_kept | apply dutyShow_kept | apply boundaryTake_kept
        | apply setF_kept
    | extract_lets | split | dsimp -zeta +zetaDelta only
    | exact rfl | exact id | intro _

theorem stopsTake_kept {s₀ : State} (x0 : State) (h0 : Kept s₀ x0) : Kept s₀ (stopsTake x0) := by
  unfold stopsTake
  repeat' first
    | with_reducible first
        | assumption | exact Kept.refl _
    | extract_lets | split | dsimp -zeta +zetaDelta only
    | with_reducible first
        | apply kept_foldl | apply kept_mk
    | exact rfl | exact id | intro _

theorem frameBody_kept {s₀ : State} (x0 : State) (x1 : Nat) (h0 : Kept s₀ x0) : Kept s₀ (frameBody x0 x1) := by
  unfold frameBody
  repeat' first
    | with_reducible first
        | assumption | exact Kept.refl _ | apply setB_kept | apply setF_kept | apply bumpF_kept
    | extract_lets | split | dsimp -zeta +zetaDelta only
    | with_reducible first
        | apply kept_foldl | apply kept_mk
    | exact rfl | exact id | intro _

theorem chooseBoundary_kept {s₀ : State} (x0 : State) (h0 : Kept s₀ x0) : Kept s₀ (chooseBoundary x0) := by
  unfold chooseBoundary
  repeat' first
    | with_reducible first
        | assumption | exact Kept.refl _
    | extract_lets | split | dsimp -zeta +zetaDelta only
    | with_reducible first
        | apply kept_foldl | apply kept_mk
    | exact rfl | exact id | intro _

theorem frameStartEffect_kept {s₀ : State} (x0 : State) (h0 : Kept s₀ x0) : Kept s₀ (frameStartEffect x0) := by
  unfold frameStartEffect
  repeat' first
    | with_reducible first
        | assumption | exact Kept.refl _ | apply frameEnergy_kept | apply itemsClose_kept | apply clockStop_kept
        | apply thermalDuty_kept | apply setF_kept | apply activateTables_kept | apply frameBody_kept
        | apply stopsTake_kept | apply dutyAt_kept | apply chooseBoundary_kept | apply cadenceLost_kept
    | extract_lets | split | dsimp -zeta +zetaDelta only
    | with_reducible first
        | apply kept_foldl | apply kept_mk
    | exact rfl | exact id | intro _

theorem execFrameStart_kept {s₀ : State} (x0 : State) (h0 : Kept s₀ x0) : ∀ t, execFrameStart x0 = .next t → Kept s₀ t
    := by
  intro t ht
  unfold execFrameStart at ht
  cases ht
  repeat' first
    | with_reducible first
        | assumption | exact Kept.refl _ | apply clocked_kept | apply frameStartEffect_kept
    | extract_lets | split | dsimp -zeta +zetaDelta only
    | exact rfl | exact id | intro _

theorem putReq_kept {s₀ : State} (x0 : State) (x1 : Req) (h0 : Kept s₀ x0) : Kept s₀ (putReq x0 x1) := by
  unfold putReq
  repeat' first
    | with_reducible first
        | assumption | exact Kept.refl _
    | extract_lets | split | dsimp -zeta +zetaDelta only
    | with_reducible first
        | apply kept_foldl | apply kept_mk
    | exact rfl | exact id | intro _

theorem sweepPrefixes_kept {s₀ : State} (x0 : State) (h0 : Kept s₀ x0) : Kept s₀ (sweepPrefixes x0) := by
  unfold sweepPrefixes
  repeat' first
    | with_reducible first
        | assumption | exact Kept.refl _
    | extract_lets | split | dsimp -zeta +zetaDelta only
    | with_reducible first
        | apply kept_foldl | apply kept_mk
    | exact rfl | exact id | intro _

theorem sweepAdapters_kept {s₀ : State} (x0 : State) (h0 : Kept s₀ x0) : Kept s₀ (sweepAdapters x0) := by
  unfold sweepAdapters
  repeat' first
    | with_reducible first
        | assumption | exact Kept.refl _
    | extract_lets | split | dsimp -zeta +zetaDelta only
    | with_reducible first
        | apply kept_foldl | apply kept_mk
    | exact rfl | exact id | intro _

theorem jobDone_kept {s₀ : State} (x0 : State) (x1 : Nat) (h0 : Kept s₀ x0) : Kept s₀ (jobDone x0 x1) := by
  unfold jobDone
  repeat' first
    | with_reducible first
        | assumption | exact Kept.refl _ | apply putItem_kept | apply itemGone_kept
    | extract_lets | split | dsimp -zeta +zetaDelta only
    | with_reducible first
        | apply kept_foldl | apply kept_mk
    | exact rfl | exact id | intro _

theorem endReq_kept {s₀ : State} (x0 : State) (x1 : Req) (x2 : Nat) (h0 : Kept s₀ x0) : Kept s₀ (endReq x0 x1 x2) :=
    by
  unfold endReq
  repeat' first
    | with_reducible first
        | assumption | exact Kept.refl _ | apply cqPush_kept | apply jobDone_kept | apply kvSweep_kept
        | apply sweepAdapters_kept | apply sweepPrefixes_kept
    | extract_lets | split | dsimp -zeta +zetaDelta only
    | with_reducible first
        | apply kept_foldl | apply kept_mk
    | exact rfl | exact id | intro _

theorem endIdx_kept {s₀ : State} (x0 : State) (x1 : Nat) (x2 : Nat) (h0 : Kept s₀ x0) : Kept s₀ (endIdx x0 x1 x2) :=
    by
  unfold endIdx
  repeat' first
    | with_reducible first
        | assumption | exact Kept.refl _ | apply endReq_kept
    | extract_lets | split | dsimp -zeta +zetaDelta only
    | exact rfl | exact id | intro _

theorem preempt_kept {s₀ : State} (x0 : State) (x1 : Req) (h0 : Kept s₀ x0) : Kept s₀ (preempt x0 x1) := by
  unfold preempt
  repeat' first
    | with_reducible first
        | assumption | exact Kept.refl _ | apply putReq_kept | apply endReq_kept
    | extract_lets | split | dsimp -zeta +zetaDelta only
    | with_reducible first
        | apply kept_foldl | apply kept_mk
    | exact rfl | exact id | intro _

theorem allocPage_kept {s₀ : State} (x0 : Nat) (x1 : Nat) (x2 : Nat) (x3 : State) (h3 : Kept s₀ x3) : Kept s₀
    (allocPage x0 x1 x2 x3).2 := by
  induction x2 generalizing x0 x1 x3 with
  | zero =>
    unfold allocPage
    repeat' first
      | with_reducible first
          | assumption | exact Kept.refl _ | apply pickFree_kept | apply mapPage_kept | apply kvSweep_kept
          | apply preempt_kept
      | extract_lets | split | dsimp -zeta +zetaDelta only
      | with_reducible first
          | apply kept_foldl | apply kept_mk
      | exact rfl | exact id | intro _
  | succ k ih =>
    unfold allocPage
    repeat' first
      | with_reducible first
          | assumption | exact Kept.refl _ | apply ih | apply pickFree_kept | apply mapPage_kept
          | apply kvSweep_kept | apply preempt_kept
      | extract_lets | split | dsimp -zeta +zetaDelta only
      | with_reducible first
          | apply kept_foldl | apply kept_mk
      | exact rfl | exact id | intro _

theorem growPages_kept {s₀ : State} (x0 : Nat) (x1 : Nat) (x2 : Nat) (x3 : State) (h3 : Kept s₀ x3) : Kept s₀
    (growPages x0 x1 x2 x3) := by
  induction x2 generalizing x0 x1 x3 with
  | zero =>
    unfold growPages
    repeat' first
      | with_reducible first
          | assumption | exact Kept.refl _ | apply allocPage_kept | apply putReq_kept
      | extract_lets | split | dsimp -zeta +zetaDelta only
      | with_reducible first
          | apply kept_foldl | apply kept_mk
      | exact rfl | exact id | intro _
  | succ k ih =>
    unfold growPages
    repeat' first
      | with_reducible first
          | assumption | exact Kept.refl _ | apply ih | apply allocPage_kept | apply putReq_kept
      | extract_lets | split | dsimp -zeta +zetaDelta only
      | with_reducible first
          | apply kept_foldl | apply kept_mk
      | exact rfl | exact id | intro _

theorem unshare_kept {s₀ : State} (x0 : Nat) (x1 : State) (x2 : Nat) (h1 : Kept s₀ x1) : Kept s₀ (unshare x0 x1 x2) :=
    by
  unfold unshare
  repeat' first
    | with_reducible first
        | assumption | exact Kept.refl _ | apply allocPage_kept | apply putReq_kept | apply copyPage_kept
    | extract_lets | split | dsimp -zeta +zetaDelta only
    | with_reducible first
        | apply kept_foldl | apply kept_mk
    | exact rfl | exact id | intro _

theorem roomFor_kept {s₀ : State} (x0 : State) (x1 : Nat) (x2 : Nat) (h0 : Kept s₀ x0) : Kept s₀ (roomFor x0 x1 x2) :=
    by
  unfold roomFor
  repeat' first
    | with_reducible first
        | assumption | exact Kept.refl _ | apply unshare_kept | apply growPages_kept
    | extract_lets | split | dsimp -zeta +zetaDelta only
    | with_reducible first
        | apply kept_foldl | apply kept_mk
    | exact rfl | exact id | intro _

theorem readResult_kept {s₀ : State} (x0 : State) (x1 : Nat) (x2 : Nat) (x3 : Nat) (h0 : Kept s₀ x0) : Kept s₀
    (readResult x0 x1 x2 x3).2.2 := by
  unfold readResult
  repeat' first
    | with_reducible first
        | assumption | exact Kept.refl _ | apply daRead_kept | apply freeWord_kept | apply fenivarPoison_kept
    | extract_lets | split | dsimp -zeta +zetaDelta only
    | exact rfl | exact id | intro _

theorem deliverToken_kept {s₀ : State} (x0 : State) (x1 : Req) (x2 : Nat) (x3 : Nat) (x4 : Bool) (h0 : Kept s₀ x0) :
    Kept s₀ (deliverToken x0 x1 x2 x3 x4) := by
  unfold deliverToken
  repeat' first
    | with_reducible first
        | assumption | apply cqPush_kept | apply hostPost_kept
    | split

theorem keepPrefix_kept {s₀ : State} (x0 : State) (x1 : Req) (h0 : Kept s₀ x0) : Kept s₀ (keepPrefix x0 x1).2 := by
  unfold keepPrefix
  repeat' first
    | with_reducible first
        | assumption | exact Kept.refl _ | apply pickFree_kept | apply putReq_kept
    | extract_lets | split | dsimp -zeta +zetaDelta only
    | with_reducible first
        | apply kept_foldl | apply kept_mk
    | exact rfl | exact id | intro _

theorem deliverGen_kept {s₀ : State} (x0 : Nat) (x1 : Nat) (x2 : Nat) (x3 : State × List (Nat × Nat)) (x4 : Nat × Nat
    × Nat × Bool) (h3 : Kept s₀ x3.1) : Kept s₀ (deliverGen x0 x1 x2 x3 x4).1 := by
  unfold deliverGen
  repeat' first
    | with_reducible first
        | assumption | exact Kept.refl _ | apply readResult_kept | apply deliverToken_kept | apply putReq_kept
    | extract_lets | split | dsimp -zeta +zetaDelta only
    | with_reducible first
        | apply kept_foldl | apply kept_mk
    | exact rfl | exact id | intro _

theorem deliverFill_kept {s₀ : State} (x0 : Nat) (x1 : Nat) (x2 : Nat) (x3 : State × List (Nat × Nat)) (x4 : Nat × Nat
    × Nat × Bool) (h3 : Kept s₀ x3.1) : Kept s₀ (deliverFill x0 x1 x2 x3 x4).1 := by
  unfold deliverFill
  repeat' first
    | with_reducible first
        | assumption | exact Kept.refl _ | apply putReq_kept | apply readResult_kept | apply keepPrefix_kept
        | apply deliverToken_kept
    | extract_lets | split | dsimp -zeta +zetaDelta only
    | with_reducible first
        | apply kept_foldl | apply kept_mk
    | exact rfl | exact id | intro _

theorem deliverStep_kept {s₀ : State} (x0 : Nat) (x1 : Group) (x2 : State) (h2 : Kept s₀ x2) : Kept s₀ (deliverStep x0
    x1 x2) := by
  unfold deliverStep
  repeat' first
    | with_reducible first
        | assumption | exact Kept.refl _ | apply endIdx_kept | apply deliverGen_kept | apply deliverFill_kept
    | extract_lets | split | dsimp -zeta +zetaDelta only
    | with_reducible first
        | apply kept_foldl | apply kept_foldl_fst | apply kept_foldl_snd | apply kept_foldl_thd | apply kept_mk
    | exact rfl | exact id | intro _

theorem endWaiters_kept {s₀ : State} (x0 : Nat) (x1 : Group) (x2 : State) (h2 : Kept s₀ x2) : Kept s₀ (endWaiters x0
    x1 x2) := by
  unfold endWaiters
  repeat' first
    | with_reducible first
        | assumption | exact Kept.refl _ | apply endIdx_kept
    | extract_lets | split | dsimp -zeta +zetaDelta only
    | with_reducible first
        | apply kept_foldl | apply kept_foldl_fst | apply kept_foldl_snd | apply kept_foldl_thd | apply kept_mk
    | exact rfl | exact id | intro _

theorem takeIn_kept {s₀ : State} (x0 : Nat) (x1 : Group) (x2 : State) (x3 : Req) (h2 : Kept s₀ x2) : Kept s₀ (takeIn
    x0 x1 x2 x3) := by
  unfold takeIn
  repeat' first
    | with_reducible first
        | assumption | exact Kept.refl _ | apply putReq_kept
    | extract_lets | split | dsimp -zeta +zetaDelta only
    | with_reducible first
        | apply kept_foldl | apply kept_mk
    | exact rfl | exact id | intro _

theorem writeLists_kept {s₀ : State} (x0 : State) (x1 : List (Nat × Nat × Nat × Bool)) (h0 : Kept s₀ x0) : Kept s₀
    (writeLists x0 x1) := by
  unfold writeLists
  repeat' first
    | with_reducible first
        | assumption | exact Kept.refl _ | apply daWrite_kept
    | extract_lets | split | dsimp -zeta +zetaDelta only
    | with_reducible first
        | apply kept_foldl | apply kept_foldl_fst | apply kept_foldl_snd | apply kept_foldl_thd | apply kept_mk
    | exact rfl | exact id | intro _

theorem armStep_kept {s₀ : State} (x0 : Nat) (x1 : Group) (x2 : List (Nat × Nat)) (x3 : List (Nat × Nat × Nat × Bool))
    (x4 : State) (h4 : Kept s₀ x4) : Kept s₀ (armStep x0 x1 x2 x3 x4) := by
  unfold armStep
  repeat' first
    | with_reducible first
        | assumption | exact Kept.refl _ | apply putGroup_kept | apply daWrite_kept | apply writeLists_kept
        | apply setArmed_kept
    | extract_lets | split | dsimp -zeta +zetaDelta only
    | with_reducible first
        | apply kept_foldl | apply kept_foldl_fst | apply kept_foldl_snd | apply kept_foldl_thd | apply kept_mk
    | exact rfl | exact id | intro _

theorem prepareHead_kept {s₀ : State} (x0 : Nat) (x1 : Group) (x2 : State) (h2 : Kept s₀ x2) : Kept s₀ (prepareHead x0
    x1 x2).2 := by
  unfold prepareHead
  repeat' first
    | with_reducible first
        | assumption | exact Kept.refl _ | apply putGroup_kept | apply deliverStep_kept | apply endWaiters_kept
    | extract_lets | split | dsimp -zeta +zetaDelta only
    | with_reducible first
        | apply kept_foldl | apply kept_mk
    | exact rfl | exact id | intro _

theorem stepPrepareEffect_kept {s₀ : State} (x0 : Nat) (x1 : State) (h1 : Kept s₀ x1) : Kept s₀ (stepPrepareEffect x0
    x1) := by
  unfold stepPrepareEffect
  repeat' first
    | with_reducible first
        | assumption | exact Kept.refl _ | apply prepareHead_kept | apply putGroup_kept | apply takeIn_kept
        | apply roomFor_kept | apply armStep_kept
    | extract_lets | split | dsimp -zeta +zetaDelta only
    | with_reducible first
        | apply kept_foldl | apply kept_foldl_fst | apply kept_foldl_snd | apply kept_foldl_thd | apply kept_mk
    | exact rfl | exact id | intro _

theorem execStepPrepare_kept {s₀ : State} (x0 : Nat) (x1 : State) (h1 : Kept s₀ x1) : ∀ t, execStepPrepare x0 x1 =
    .next t → Kept s₀ t := by
  intro t ht
  unfold execStepPrepare at ht
  cases ht
  repeat' first
    | with_reducible first
        | assumption | exact Kept.refl _ | apply clocked_kept | apply stepPrepareEffect_kept
    | extract_lets | split | dsimp -zeta +zetaDelta only
    | exact rfl | exact id | intro _

theorem fillPrepareEffect_kept {s₀ : State} (x0 : Nat) (x1 : State) (h1 : Kept s₀ x1) : Kept s₀ (fillPrepareEffect x0
    x1) := by
  unfold fillPrepareEffect
  repeat' first
    | with_reducible first
        | assumption | exact Kept.refl _ | apply prepareHead_kept | apply putGroup_kept | apply roomFor_kept
        | apply armStep_kept
    | extract_lets | split | dsimp -zeta +zetaDelta only
    | with_reducible first
        | apply kept_foldl | apply kept_foldl_fst | apply kept_foldl_snd | apply kept_foldl_thd | apply kept_mk
    | exact rfl | exact id | intro _

theorem execFillPrepare_kept {s₀ : State} (x0 : Nat) (x1 : State) (h1 : Kept s₀ x1) : ∀ t, execFillPrepare x0 x1 =
    .next t → Kept s₀ t := by
  intro t ht
  unfold execFillPrepare at ht
  cases ht
  repeat' first
    | with_reducible first
        | assumption | exact Kept.refl _ | apply clocked_kept | apply fillPrepareEffect_kept
    | extract_lets | split | dsimp -zeta +zetaDelta only
    | exact rfl | exact id | intro _

theorem jobOpen_kept {s₀ : State} (x0 : State) (h0 : Kept s₀ x0) : Kept s₀ (jobOpen x0).2 := by
  unfold jobOpen
  repeat' first
    | with_reducible first
        | assumption | exact Kept.refl _ | apply itemOpen_kept | apply putItem_kept
    | extract_lets | split | dsimp -zeta +zetaDelta only
    | with_reducible first
        | apply kept_foldl | apply kept_mk
    | exact rfl | exact id | intro _

theorem kvSwapOutEffect_kept {s₀ : State} (x0 : Nat) (x1 : State) (h1 : Kept s₀ x1) : Kept s₀ (kvSwapOutEffect x0 x1)
    := by
  unfold kvSwapOutEffect
  repeat' first
    | with_reducible first
        | assumption | exact Kept.refl _ | apply jobOpen_kept | apply swapPageOut_kept | apply itemError_kept
        | apply putReq_kept
    | extract_lets | split | dsimp -zeta +zetaDelta only
    | with_reducible first
        | apply kept_foldl | apply kept_foldl_fst | apply kept_foldl_snd | apply kept_foldl_thd | apply kept_mk
    | exact rfl | exact id | intro _

theorem execKvSwapOut_kept {s₀ : State} (x0 : Nat) (x1 : State) (h1 : Kept s₀ x1) : ∀ t, execKvSwapOut x0 x1 = .next t
    → Kept s₀ t := by
  intro t ht
  unfold execKvSwapOut at ht
  cases ht
  repeat' first
    | with_reducible first
        | assumption | exact Kept.refl _ | apply clocked_kept | apply kvSwapOutEffect_kept
    | extract_lets | split | dsimp -zeta +zetaDelta only
    | exact rfl | exact id | intro _

theorem kvSwapOutDoneEffect_kept {s₀ : State} (x0 : Nat) (x1 : State) (h1 : Kept s₀ x1) : Kept s₀ (kvSwapOutDoneEffect
    x0 x1) := by
  unfold kvSwapOutDoneEffect
  repeat' first
    | with_reducible first
        | assumption | exact Kept.refl _ | apply kvSweep_kept | apply putReq_kept | apply jobDone_kept
    | extract_lets | split | dsimp -zeta +zetaDelta only
    | with_reducible first
        | apply kept_foldl | apply kept_mk
    | exact rfl | exact id | intro _

theorem execKvSwapOutDone_kept {s₀ : State} (x0 : Nat) (x1 : State) (h1 : Kept s₀ x1) : ∀ t, execKvSwapOutDone x0 x1 =
    .next t → Kept s₀ t := by
  intro t ht
  unfold execKvSwapOutDone at ht
  cases ht
  repeat' first
    | with_reducible first
        | assumption | exact Kept.refl _ | apply clocked_kept | apply kvSwapOutDoneEffect_kept
    | extract_lets | split | dsimp -zeta +zetaDelta only
    | exact rfl | exact id | intro _

theorem kvSwapInEffect_kept {s₀ : State} (x0 : Nat) (x1 : State) (h1 : Kept s₀ x1) : Kept s₀ (kvSwapInEffect x0 x1) :=
    by
  unfold kvSwapInEffect
  repeat' first
    | with_reducible first
        | assumption | exact Kept.refl _ | apply jobOpen_kept | apply putReq_kept | apply mapPage_kept
    | extract_lets | split | dsimp -zeta +zetaDelta only
    | with_reducible first
        | apply kept_foldl | apply kept_foldl_fst | apply kept_foldl_snd | apply kept_foldl_thd | apply kept_mk
    | exact rfl | exact id | intro _

theorem execKvSwapIn_kept {s₀ : State} (x0 : Nat) (x1 : State) (h1 : Kept s₀ x1) : ∀ t, execKvSwapIn x0 x1 = .next t →
    Kept s₀ t := by
  intro t ht
  unfold execKvSwapIn at ht
  cases ht
  repeat' first
    | with_reducible first
        | assumption | exact Kept.refl _ | apply clocked_kept | apply kvSwapInEffect_kept
    | extract_lets | split | dsimp -zeta +zetaDelta only
    | exact rfl | exact id | intro _

theorem kvSwapInDoneEffect_kept {s₀ : State} (x0 : Nat) (x1 : State) (h1 : Kept s₀ x1) : Kept s₀ (kvSwapInDoneEffect
    x0 x1) := by
  unfold kvSwapInDoneEffect
  repeat' first
    | with_reducible first
        | assumption | exact Kept.refl _ | apply swapPageIn_kept | apply daWrite_kept | apply putReq_kept
        | apply jobDone_kept
    | extract_lets | split | dsimp -zeta +zetaDelta only
    | with_reducible first
        | apply kept_foldl | apply kept_mk
    | exact rfl | exact id | intro _

theorem execKvSwapInDone_kept {s₀ : State} (x0 : Nat) (x1 : State) (h1 : Kept s₀ x1) : ∀ t, execKvSwapInDone x0 x1 =
    .next t → Kept s₀ t := by
  intro t ht
  unfold execKvSwapInDone at ht
  cases ht
  repeat' first
    | with_reducible first
        | assumption | exact Kept.refl _ | apply clocked_kept | apply kvSwapInDoneEffect_kept
    | extract_lets | split | dsimp -zeta +zetaDelta only
    | exact rfl | exact id | intro _

theorem takeSeq_kept {s₀ : State} (x0 : State) (h0 : Kept s₀ x0) : Kept s₀ (takeSeq x0).2 := by
  unfold takeSeq
  repeat' first
    | with_reducible first
        | assumption | apply bumpF_kept
    | split

theorem handleHold_kept {s₀ : State} (x0 : State) (x1 : Req) (h0 : Kept s₀ x0) : Kept s₀ (handleHold x0 x1) := by
  unfold handleHold
  repeat' first
    | with_reducible first
        | assumption | exact Kept.refl _ | apply keepPrefix_kept | apply putReq_kept
    | extract_lets | split | dsimp -zeta +zetaDelta only
    | with_reducible first
        | apply kept_foldl | apply kept_mk
    | exact rfl | exact id | intro _

theorem acceptRequest_kept {s₀ : State} (x0 : State) (x1 : Nat) (x2 : Nat) (x3 : Nat) (x4 : List Nat) (h0 : Kept s₀
    x0) : Kept s₀ (acceptRequest x0 x1 x2 x3 x4) := by
  unfold acceptRequest
  repeat' first
    | with_reducible first
        | assumption | exact Kept.refl _ | apply cqPush_kept | apply takeSeq_kept | apply pickFree_kept
        | apply endReq_kept | apply handleHold_kept
    | extract_lets | split | dsimp -zeta +zetaDelta only
    | with_reducible first
        | apply kept_foldl | apply kept_mk
    | exact rfl | exact id | intro _

end Sys2Proof.Machine
end

