-- ==== Sys2Proof/Laws/KeptLinks.lean ====
section
/-!
SUPPORT. One lemma per operation of the Zaskel ports and the cluster: it keeps what `Kept` names (or holds what `Held` names), where
the state it begins with does.
-/
namespace Sys2Proof.Machine

theorem putZl_kept {s₀ : State} (x0 : State) (x1 : Nat) (x2 : ZlPort) (h0 : Kept s₀ x0) : Kept s₀ (putZl x0 x1 x2) :=
    by
  unfold putZl
  repeat' first
    | with_reducible first
        | assumption | exact Kept.refl _
    | extract_lets | split | dsimp -zeta +zetaDelta only
    | with_reducible first
        | apply kept_foldl | apply kept_mk
    | exact rfl | exact id | intro _

theorem zlEnter_kept {s₀ : State} (x0 : State) (x1 : Nat) (x2 : Nat) (h0 : Kept s₀ x0) : Kept s₀ (zlEnter x0 x1 x2) :=
    by
  unfold zlEnter
  repeat' first
    | with_reducible first
        | assumption | exact Kept.refl _ | apply setF_kept | apply putZl_kept
    | extract_lets | split | dsimp -zeta +zetaDelta only
    | with_reducible first
        | apply kept_foldl | apply kept_mk
    | exact rfl | exact id | intro _

theorem ringRecord_kept {s₀ : State} (x0 : State) (x1 : Nat) (x2 : Nat) (x3 : Nat) (x4 : Nat) (h0 : Kept s₀ x0) : Kept
    s₀ (ringRecord x0 x1 x2 x3 x4) := by
  unfold ringRecord
  repeat' first
    | with_reducible first
        | assumption | exact Kept.refl _ | apply setF_kept | apply setB_kept
    | extract_lets | split | dsimp -zeta +zetaDelta only
    | exact rfl | exact id | intro _

theorem putRing_kept {s₀ : State} (x0 : State) (x1 : Nat) (x2 : List SendDesc) (h0 : Kept s₀ x0) : Kept s₀ (putRing x0
    x1 x2) := by
  unfold putRing
  repeat' first
    | with_reducible first
        | assumption | exact Kept.refl _
    | extract_lets | split | dsimp -zeta +zetaDelta only
    | with_reducible first
        | apply kept_foldl | apply kept_mk
    | exact rfl | exact id | intro _

theorem ringReplay_kept {s₀ : State} (x0 : State) (x1 : Nat) (h0 : Kept s₀ x0) : Kept s₀ (ringReplay x0 x1) := by
  unfold ringReplay
  repeat' first
    | with_reducible first
        | assumption | exact Kept.refl _ | apply putItem_kept
    | extract_lets | split | dsimp -zeta +zetaDelta only
    | with_reducible first
        | apply kept_foldl | apply kept_mk
    | exact rfl | exact id | intro _

theorem ringItemStop_kept {s₀ : State} (x0 : State) (x1 : Item) (x2 : Nat) (x3 : Nat) (x4 : Nat) (h0 : Kept s₀ x0) :
    Kept s₀ (ringItemStop x0 x1 x2 x3 x4) := by
  unfold ringItemStop
  repeat' first
    | with_reducible first
        | assumption | exact Kept.refl _ | apply putItem_kept | apply itemError_kept
    | extract_lets | split | dsimp -zeta +zetaDelta only
    | with_reducible first
        | apply kept_foldl | apply kept_mk
    | exact rfl | exact id | intro _

theorem ringItemEnds_kept {s₀ : State} (x0 : State) (x1 : Nat) (x2 : Nat) (x3 : Nat) (x4 : Nat) (h0 : Kept s₀ x0) :
    Kept s₀ (ringItemEnds x0 x1 x2 x3 x4) := by
  unfold ringItemEnds
  repeat' first
    | with_reducible first
        | assumption | exact Kept.refl _ | apply ringReplay_kept | apply ringItemStop_kept
    | extract_lets | split | dsimp -zeta +zetaDelta only
    | with_reducible first
        | apply kept_foldl | apply kept_mk
    | exact rfl | exact id | intro _

theorem ringHalt_kept {s₀ : State} (x0 : State) (x1 : Nat) (x2 : Nat) (x3 : Nat) (x4 : Nat) (x5 : Nat) (h0 : Kept s₀
    x0) : Kept s₀ (ringHalt x0 x1 x2 x3 x4 x5) := by
  unfold ringHalt
  repeat' first
    | with_reducible first
        | assumption | exact Kept.refl _ | apply setF_kept | apply ringRecord_kept | apply ringItemEnds_kept
        | apply irqSrc_kept | apply putRing_kept
    | extract_lets | split | dsimp -zeta +zetaDelta only
    | exact rfl | exact id | intro _

theorem ringErr_kept {s₀ : State} (x0 : State) (x1 : Nat) (x2 : Nat) (x3 : Nat) (h0 : Kept s₀ x0) : Kept s₀ (ringErr
    x0 x1 x2 x3) := by
  unfold ringErr
  repeat' first
    | with_reducible first
        | assumption | exact Kept.refl _ | apply elogAdd_kept | apply ringRecord_kept | apply ringHalt_kept
    | extract_lets | split | dsimp -zeta +zetaDelta only
    | with_reducible first
        | apply kept_foldl | apply kept_mk
    | exact rfl | exact id | intro _

theorem portQueue_kept {s₀ : State} (x0 : State) (x1 : Nat) (x2 : Pkt) (h0 : Kept s₀ x0) : Kept s₀ (portQueue x0 x1
    x2) := by
  unfold portQueue
  repeat' first
    | with_reducible first
        | assumption | exact Kept.refl _ | apply putZl_kept
    | extract_lets | split | dsimp -zeta +zetaDelta only
    | with_reducible first
        | apply kept_foldl | apply kept_mk
    | exact rfl | exact id | intro _

theorem routeOut_kept {s₀ : State} (x0 : State) (x1 : Pkt) (x2 : Option Nat) (h0 : Kept s₀ x0) : ∀ t, (routeOut x0
    x1 x2) = some t → Kept s₀ t := by
  intro t ht
  unfold routeOut at ht
  split at ht
  · cases ht
  · cases ht
    exact portQueue_kept _ _ _ (kept_mk h0 rfl id id)

theorem sendErr_kept {s₀ : State} (x0 : State) (x1 : Pkt) (x2 : Nat) (h0 : Kept s₀ x0) : Kept s₀ (sendErr x0 x1 x2) := by
  unfold sendErr
  split
  · exact ringErr_kept _ _ _ _ h0
  extract_lets e
  cases h : routeOut x0 e none with
  | none => exact h0
  | some t => exact routeOut_kept _ _ _ h0 t h

theorem dropPacket_kept {s₀ : State} (x0 : Nat) (x1 : State) (x2 : Pkt) (h1 : Kept s₀ x1) : Kept s₀ (dropPacket x0 x1
    x2) := by
  unfold dropPacket
  repeat' first
    | with_reducible first
        | assumption | exact Kept.refl _ | apply bumpF_kept | apply sendErr_kept
    | extract_lets | split | dsimp -zeta +zetaDelta only
    | exact rfl | exact id | intro _

theorem zlFail_kept {s₀ : State} (x0 : State) (x1 : Nat) (x2 : Nat) (h0 : Kept s₀ x0) : Kept s₀ (zlFail x0 x1 x2) :=
    by
  unfold zlFail
  repeat' first
    | with_reducible first
        | assumption | exact Kept.refl _ | apply putZl_kept | apply setF_kept | apply dropPacket_kept
        | apply zlEnter_kept
    | extract_lets | split | dsimp -zeta +zetaDelta only
    | with_reducible first
        | apply kept_foldl | apply kept_foldl_fst | apply kept_foldl_snd | apply kept_foldl_thd | apply kept_mk
    | exact rfl | exact id | intro _

theorem zlGuard_kept {s₀ : State} (x0 : Nat) (x1 : Nat) (x2 : Nat) (x3 : State) (x4 : State) (h3 : Kept s₀ x3) (h4 :
    Kept s₀ x4) : Kept s₀ (zlGuard x0 x1 x2 x3 x4) := by
  unfold zlGuard
  repeat' first
    | with_reducible first
        | assumption | apply rejectPath_kept | apply guarded_kept
    | split

theorem zlEnableEffect_kept {s₀ : State} (x0 : Nat) (x1 : Nat) (x2 : State) (h2 : Kept s₀ x2) : Kept s₀
    (zlEnableEffect x0 x1 x2) := by
  unfold zlEnableEffect
  repeat' first
    | with_reducible first
        | assumption | exact Kept.refl _ | apply reject_kept | apply setB_kept | apply zlEnter_kept
    | extract_lets | split | dsimp -zeta +zetaDelta only
    | exact rfl | exact id | intro _

theorem execZlEnable_kept {s₀ : State} (x0 : Fin 12) (x1 : Nat) (x2 : State) (h2 : Kept s₀ x2) : ∀ t, execZlEnable x0
    x1 x2 = .next t → Kept s₀ t := by
  intro t ht
  unfold execZlEnable at ht
  cases ht
  repeat' first
    | with_reducible first
        | assumption | exact Kept.refl _ | apply clocked_kept | apply zlGuard_kept | apply zlEnableEffect_kept
    | extract_lets | split | dsimp -zeta +zetaDelta only
    | exact rfl | exact id | intro _

theorem execZlSignalDetect_kept {s₀ : State} (x0 : Fin 12) (x1 : State) (h1 : Kept s₀ x1) : ∀ t, execZlSignalDetect x0
    x1 = .next t → Kept s₀ t := by
  intro t ht
  unfold execZlSignalDetect at ht
  cases ht
  repeat' first
    | with_reducible first
        | assumption | exact Kept.refl _ | apply clocked_kept | apply zlEnter_kept
    | extract_lets | split | dsimp -zeta +zetaDelta only
    | exact rfl | exact id | intro _

theorem zlEqualiseDoneEffect_kept {s₀ : State} (x0 : Fin 12) (x1 : Fin 256) (x2 : State) (h2 : Kept s₀ x2) : Kept s₀
    (zlEqualiseDoneEffect x0 x1 x2) := by
  unfold zlEqualiseDoneEffect
  repeat' first
    | with_reducible first
        | assumption | exact Kept.refl _ | apply zlEnter_kept | apply setB_kept | apply zlFail_kept
    | extract_lets | split | dsimp -zeta +zetaDelta only
    | exact rfl | exact id | intro _

theorem execZlEqualiseDone_kept {s₀ : State} (x0 : Fin 12) (x1 : Fin 256) (x2 : State) (h2 : Kept s₀ x2) : ∀ t,
    execZlEqualiseDone x0 x1 x2 = .next t → Kept s₀ t := by
  intro t ht
  unfold execZlEqualiseDone at ht
  cases ht
  repeat' first
    | with_reducible first
        | assumption | exact Kept.refl _ | apply clocked_kept | apply zlEqualiseDoneEffect_kept
    | extract_lets | split | dsimp -zeta +zetaDelta only
    | exact rfl | exact id | intro _

theorem zlNegotiate_kept {s₀ : State} (x0 : State) (x1 : Nat) (h0 : Kept s₀ x0) : Kept s₀ (zlNegotiate x0 x1) := by
  unfold zlNegotiate
  repeat' first
    | with_reducible first
        | assumption | exact Kept.refl _ | apply zlEnter_kept | apply putZl_kept
    | extract_lets | split | dsimp -zeta +zetaDelta only
    | with_reducible first
        | apply kept_foldl | apply kept_mk
    | exact rfl | exact id | intro _

theorem zlAlignDoneEffect_kept {s₀ : State} (x0 : Nat) (x1 : State) (h1 : Kept s₀ x1) : Kept s₀ (zlAlignDoneEffect x0
    x1) := by
  unfold zlAlignDoneEffect
  repeat' first
    | with_reducible first
        | assumption | exact Kept.refl _ | apply zlNegotiate_kept | apply putZl_kept
    | extract_lets | split | dsimp -zeta +zetaDelta only
    | with_reducible first
        | apply kept_foldl | apply kept_mk
    | exact rfl | exact id | intro _

theorem execZlAlignDone_kept {s₀ : State} (x0 : Fin 12) (x1 : State) (h1 : Kept s₀ x1) : ∀ t, execZlAlignDone x0 x1 =
    .next t → Kept s₀ t := by
  intro t ht
  unfold execZlAlignDone at ht
  cases ht
  repeat' first
    | with_reducible first
        | assumption | exact Kept.refl _ | apply clocked_kept | apply zlAlignDoneEffect_kept
    | extract_lets | split | dsimp -zeta +zetaDelta only
    | exact rfl | exact id | intro _

theorem zlStateTimeoutEffect_kept {s₀ : State} (x0 : Fin 12) (x1 : State) (h1 : Kept s₀ x1) : Kept s₀
    (zlStateTimeoutEffect x0 x1) := by
  unfold zlStateTimeoutEffect
  repeat' first
    | with_reducible first
        | assumption | apply zlFail_kept
    | split

theorem execZlStateTimeout_kept {s₀ : State} (x0 : Fin 12) (x1 : State) (h1 : Kept s₀ x1) : ∀ t, execZlStateTimeout x0
    x1 = .next t → Kept s₀ t := by
  intro t ht
  unfold execZlStateTimeout at ht
  cases ht
  repeat' first
    | with_reducible first
        | assumption | exact Kept.refl _ | apply clocked_kept | apply zlStateTimeoutEffect_kept
    | extract_lets | split | dsimp -zeta +zetaDelta only
    | exact rfl | exact id | intro _

theorem zlRetrain_kept {s₀ : State} (x0 : State) (x1 : Nat) (h0 : Kept s₀ x0) : Kept s₀ (zlRetrain x0 x1) := by
  unfold zlRetrain
  repeat' first
    | with_reducible first
        | assumption | exact Kept.refl _ | apply bumpF_kept | apply putZl_kept | apply zlFail_kept
        | apply zlEnter_kept
    | extract_lets | split | dsimp -zeta +zetaDelta only
    | with_reducible first
        | apply kept_foldl | apply kept_mk
    | exact rfl | exact id | intro _

theorem zlRetrainDoneEffect_kept {s₀ : State} (x0 : Fin 12) (x1 : Bool) (x2 : State) (h2 : Kept s₀ x2) : Kept s₀
    (zlRetrainDoneEffect x0 x1 x2) := by
  unfold zlRetrainDoneEffect
  repeat' first
    | with_reducible first
        | assumption | exact Kept.refl _ | apply zlFail_kept | apply zlEnter_kept | apply putZl_kept
    | extract_lets | split | dsimp -zeta +zetaDelta only
    | with_reducible first
        | apply kept_foldl | apply kept_mk
    | exact rfl | exact id | intro _

theorem execZlRetrainDone_kept {s₀ : State} (x0 : Fin 12) (x1 : Bool) (x2 : State) (h2 : Kept s₀ x2) : ∀ t,
    execZlRetrainDone x0 x1 x2 = .next t → Kept s₀ t := by
  intro t ht
  unfold execZlRetrainDone at ht
  cases ht
  repeat' first
    | with_reducible first
        | assumption | exact Kept.refl _ | apply clocked_kept | apply zlRetrainDoneEffect_kept
    | extract_lets | split | dsimp -zeta +zetaDelta only
    | exact rfl | exact id | intro _

theorem zlRestartEffect_kept {s₀ : State} (x0 : Nat) (x1 : Nat) (x2 : State) (h2 : Kept s₀ x2) : Kept s₀
    (zlRestartEffect x0 x1 x2) := by
  unfold zlRestartEffect
  repeat' first
    | with_reducible first
        | assumption | apply zlEnter_kept | apply setF_kept | apply reject_kept
    | split

theorem execZlRestart_kept {s₀ : State} (x0 : Fin 12) (x1 : Nat) (x2 : State) (h2 : Kept s₀ x2) : ∀ t, execZlRestart
    x0 x1 x2 = .next t → Kept s₀ t := by
  intro t ht
  unfold execZlRestart at ht
  cases ht
  repeat' first
    | with_reducible first
        | assumption | exact Kept.refl _ | apply clocked_kept | apply zlGuard_kept | apply zlRestartEffect_kept
    | extract_lets | split | dsimp -zeta +zetaDelta only
    | exact rfl | exact id | intro _

theorem zlRetrainEffect_kept {s₀ : State} (x0 : Nat) (x1 : Nat) (x2 : State) (h2 : Kept s₀ x2) : Kept s₀
    (zlRetrainEffect x0 x1 x2) := by
  unfold zlRetrainEffect
  repeat' first
    | with_reducible first
        | assumption | apply zlRetrain_kept | apply reject_kept
    | split

theorem execZlRetrain_kept {s₀ : State} (x0 : Fin 12) (x1 : Nat) (x2 : State) (h2 : Kept s₀ x2) : ∀ t, execZlRetrain
    x0 x1 x2 = .next t → Kept s₀ t := by
  intro t ht
  unfold execZlRetrain at ht
  cases ht
  repeat' first
    | with_reducible first
        | assumption | exact Kept.refl _ | apply clocked_kept | apply zlGuard_kept | apply zlRetrainEffect_kept
    | extract_lets | split | dsimp -zeta +zetaDelta only
    | exact rfl | exact id | intro _

theorem flitNew_kept {s₀ : State} (x0 : Nat) (x1 : Nat) (x2 : Nat) (x3 : State) (x4 : Nat) (h3 : Kept s₀ x3) : Kept s₀
    (flitNew x0 x1 x2 x3 x4) := by
  unfold flitNew
  repeat' first
    | with_reducible first
        | assumption | exact Kept.refl _ | apply putZl_kept | apply bumpF_kept
    | extract_lets | split | dsimp -zeta +zetaDelta only
    | with_reducible first
        | apply kept_foldl | apply kept_mk
    | exact rfl | exact id | intro _

theorem flitTransmitEffect_kept {s₀ : State} (x0 : Fin 12) (x1 : Fin 7) (x2 : State) (h2 : Kept s₀ x2) : Kept s₀
    (flitTransmitEffect x0 x1 x2) := by
  unfold flitTransmitEffect
  repeat' first
    | with_reducible first
        | assumption | exact Kept.refl _ | apply putZl_kept | apply flitNew_kept
    | extract_lets | split | dsimp -zeta +zetaDelta only
    | with_reducible first
        | apply kept_foldl | apply kept_mk
    | exact rfl | exact id | intro _

theorem execFlitTransmit_kept {s₀ : State} (x0 : Fin 12) (x1 : Fin 7) (x2 : State) (h2 : Kept s₀ x2) : ∀ t,
    execFlitTransmit x0 x1 x2 = .next t → Kept s₀ t := by
  intro t ht
  unfold execFlitTransmit at ht
  cases ht
  repeat' first
    | with_reducible first
        | assumption | exact Kept.refl _ | apply clocked_kept | apply flitTransmitEffect_kept
    | extract_lets | split | dsimp -zeta +zetaDelta only
    | exact rfl | exact id | intro _

theorem packetIn_kept {s₀ : State} (x0 : Nat) (x1 : Nat) (x2 : State) (x3 : Pkt) (h2 : Kept s₀ x2) : Kept s₀ (packetIn
    x0 x1 x2 x3) := by
  unfold packetIn
  repeat' first
    | with_reducible first
        | assumption | exact Kept.refl _ | apply bumpF_kept | apply putZl_kept | apply sendErr_kept
    | extract_lets | split | dsimp -zeta +zetaDelta only
    | with_reducible first
        | apply kept_foldl | apply kept_mk
    | exact rfl | exact id | intro _

theorem unitsIn_kept {s₀ : State} (x0 : Nat) (x1 : Nat) (x2 : List Nat) (x3 : State) (h3 : Kept s₀ x3) : Kept s₀
    (unitsIn x0 x1 x2 x3) := by
  induction x2 generalizing x0 x1 x3 with
  | nil =>
    unfold unitsIn
    repeat' first
      | with_reducible first
          | assumption | exact Kept.refl _ | apply packetIn_kept | apply putZl_kept
      | extract_lets | split | dsimp -zeta +zetaDelta only
      | with_reducible first
          | apply kept_foldl | apply kept_mk
      | exact rfl | exact id | intro _
  | cons y r ih =>
    unfold unitsIn
    repeat' first
      | with_reducible first
          | assumption | exact Kept.refl _ | apply ih | apply packetIn_kept | apply putZl_kept
      | extract_lets | split | dsimp -zeta +zetaDelta only
      | with_reducible first
          | apply kept_foldl | apply kept_mk
      | exact rfl | exact id | intro _

theorem flitNak_kept {s₀ : State} (x0 : State) (x1 : Nat) (h0 : Kept s₀ x0) : Kept s₀ (flitNak x0 x1) := by
  unfold flitNak
  repeat' first
    | with_reducible first
        | assumption | exact Kept.refl _ | apply bumpF_kept | apply putZl_kept | apply zlRetrain_kept
    | extract_lets | split | dsimp -zeta +zetaDelta only
    | with_reducible first
        | apply kept_foldl | apply kept_mk
    | exact rfl | exact id | intro _

theorem flitGood_kept {s₀ : State} (x0 : Nat) (x1 : Nat) (x2 : List Nat) (x3 : State) (h3 : Kept s₀ x3) : Kept s₀
    (flitGood x0 x1 x2 x3) := by
  unfold flitGood
  repeat' first
    | with_reducible first
        | assumption | exact Kept.refl _ | apply putZl_kept | apply flitNak_kept | apply bumpF_kept
        | apply unitsIn_kept | apply packetIn_kept
    | extract_lets | split | dsimp -zeta +zetaDelta only
    | with_reducible first
        | apply kept_foldl | apply kept_mk
    | exact rfl | exact id | intro _

theorem retrainFlit_kept {s₀ : State} (x0 : Nat) (x1 : List Nat) (x2 : State) (h2 : Kept s₀ x2) : Kept s₀ (retrainFlit
    x0 x1 x2) := by
  unfold retrainFlit
  repeat' first
    | with_reducible first
        | assumption | apply packetIn_kept
    | split

theorem flitReceiveEffect_kept {s₀ : State} (x0 : Fin 12) (x1 : Bool) (x2 : Nat) (x3 : List Nat) (x4 : Nat) (x5 :
    State) (h5 : Kept s₀ x5) : Kept s₀ (flitReceiveEffect x0 x1 x2 x3 x4 x5) := by
  unfold flitReceiveEffect
  repeat' first
    | with_reducible first
        | assumption | exact Kept.refl _ | apply retrainFlit_kept | apply flitGood_kept | apply putZl_kept
    | extract_lets | split | dsimp -zeta +zetaDelta only
    | with_reducible first
        | apply kept_foldl | apply kept_mk
    | exact rfl | exact id | intro _

theorem execFlitReceive_kept {s₀ : State} (x0 : Fin 12) (x1 : Bool) (x2 : Nat) (x3 : List Nat) (x4 : Nat) (x5 : State)
    (h5 : Kept s₀ x5) : ∀ t, execFlitReceive x0 x1 x2 x3 x4 x5 = .next t → Kept s₀ t := by
  intro t ht
  unfold execFlitReceive at ht
  cases ht
  repeat' first
    | with_reducible first
        | assumption | exact Kept.refl _ | apply clocked_kept | apply flitReceiveEffect_kept
    | extract_lets | split | dsimp -zeta +zetaDelta only
    | exact rfl | exact id | intro _

theorem rxTake_kept {s₀ : State} (x0 : State) (x1 : Nat) (x2 : Nat × Pkt) (h0 : Kept s₀ x0) : Kept s₀ (rxTake x0 x1
    x2) := by
  unfold rxTake
  repeat' first
    | with_reducible first
        | assumption | exact Kept.refl _ | apply putZl_kept
    | extract_lets | split | dsimp -zeta +zetaDelta only
    | with_reducible first
        | apply kept_foldl | apply kept_mk
    | exact rfl | exact id | intro _

theorem packetRouteEffect_kept {s₀ : State} (x0 : Fin 12) (x1 : State) (h1 : Kept s₀ x1) : Kept s₀
    (packetRouteEffect x0 x1) := by
  unfold packetRouteEffect
  split
  · exact h1
  extract_lets s1
  have k1 := rxTake_kept _ x0 ‹_› h1
  split
  · exact bumpF_kept _ _ _ _ _ (routeOut_kept _ _ _ k1 _ ‹_›)
  · exact sendErr_kept _ _ _ k1

theorem execPacketRoute_kept {s₀ : State} (x0 : Fin 12) (x1 : State) (h1 : Kept s₀ x1) : ∀ t, execPacketRoute x0 x1 =
    .next t → Kept s₀ t := by
  intro t ht
  unfold execPacketRoute at ht
  cases ht
  repeat' first
    | with_reducible first
        | assumption | exact Kept.refl _ | apply clocked_kept | apply packetRouteEffect_kept
    | extract_lets | split | dsimp -zeta +zetaDelta only
    | exact rfl | exact id | intro _

theorem execLinkStall_kept {s₀ : State} (x0 : Fin 12) (x1 : Fin 7) (x2 : State) (h2 : Kept s₀ x2) : ∀ t, execLinkStall
    x0 x1 x2 = .next t → Kept s₀ t := by
  intro t ht
  unfold execLinkStall at ht
  cases ht
  repeat' first
    | with_reducible first
        | assumption | exact Kept.refl _ | apply clocked_kept | apply zlFail_kept | apply irqSrc_kept
    | extract_lets | split | dsimp -zeta +zetaDelta only
    | exact rfl | exact id | intro _

theorem winRead_kept {s₀ : State} (x0 : State) (x1 : Nat) (h0 : Kept s₀ x0) : Kept s₀ (winRead x0 x1).2 := by
  unfold winRead
  repeat' first
    | with_reducible first
        | assumption | exact Kept.refl _ | apply pocRead_kept
    | extract_lets | split | dsimp -zeta +zetaDelta only
    | exact rfl | exact id | intro _

theorem winEntry_kept {s₀ : State} (x0 : State) (x1 : Nat) (h0 : Kept s₀ x0) : Kept s₀ (winEntry x0 x1).2 := by
  unfold winEntry
  repeat' first
    | with_reducible first
        | assumption | exact Kept.refl _ | apply winRead_kept | apply freeBit_kept
    | extract_lets | split | dsimp -zeta +zetaDelta only
    | with_reducible first
        | apply kept_foldl | apply kept_mk
    | exact rfl | exact id | intro _

theorem zwinInvalEffect_kept {s₀ : State} (x0 : Bool) (x1 : Fin 4096) (x2 : Nat) (x3 : State) (h3 : Kept s₀ x3) : Kept
    s₀ (zwinInvalEffect x0 x1 x2 x3) := by
  unfold zwinInvalEffect
  repeat' first
    | with_reducible first
        | assumption | exact Kept.refl _ | apply reject_kept | apply setB_kept
    | extract_lets | split | dsimp -zeta +zetaDelta only
    | with_reducible first
        | apply kept_foldl | apply kept_mk
    | exact rfl | exact id | intro _

theorem execZwinInval_kept {s₀ : State} (x0 : Bool) (x1 : Fin 4096) (x2 : Nat) (x3 : State) (h3 : Kept s₀ x3) : ∀ t,
    execZwinInval x0 x1 x2 x3 = .next t → Kept s₀ t := by
  intro t ht
  unfold execZwinInval at ht
  cases ht
  repeat' first
    | with_reducible first
        | assumption | exact Kept.refl _ | apply clocked_kept | apply guarded_kept | apply zwinInvalEffect_kept
    | extract_lets | split | dsimp -zeta +zetaDelta only
    | exact rfl | exact id | intro _

theorem winDrop_kept {s₀ : State} (x0 : State) (x1 : Option Nat) (h0 : Kept s₀ x0) : Kept s₀ (winDrop x0 x1) := by
  unfold winDrop
  repeat' first
    | with_reducible first
        | assumption | exact Kept.refl _
    | extract_lets | split | dsimp -zeta +zetaDelta only
    | with_reducible first
        | apply kept_foldl | apply kept_mk
    | exact rfl | exact id | intro _

theorem zwinInvalDoneEffect_kept {s₀ : State} (x0 : State) (h0 : Kept s₀ x0) : Kept s₀ (zwinInvalDoneEffect x0) := by
  unfold zwinInvalDoneEffect
  repeat' first
    | with_reducible first
        | assumption | exact Kept.refl _ | apply winDrop_kept | apply setB_kept | apply bumpF_kept
    | extract_lets | split | dsimp -zeta +zetaDelta only
    | with_reducible first
        | apply kept_foldl | apply kept_mk
    | exact rfl | exact id | intro _

theorem execZwinInvalDone_kept {s₀ : State} (x0 : State) (h0 : Kept s₀ x0) : ∀ t, execZwinInvalDone x0 = .next t →
    Kept s₀ t := by
  intro t ht
  unfold execZwinInvalDone at ht
  cases ht
  repeat' first
    | with_reducible first
        | assumption | exact Kept.refl _ | apply clocked_kept | apply zwinInvalDoneEffect_kept
    | extract_lets | split | dsimp -zeta +zetaDelta only
    | exact rfl | exact id | intro _

theorem ringSlot_kept {s₀ : State} (x0 : State) (x1 : Nat) (x2 : Nat) (x3 : Nat) (h0 : Kept s₀ x0) : Kept s₀ (ringSlot
    x0 x1 x2 x3).2 := by
  unfold ringSlot
  repeat' first
    | with_reducible first
        | assumption | exact Kept.refl _ | apply pocRead_kept
    | extract_lets | split | dsimp -zeta +zetaDelta only
    | exact rfl | exact id | intro _

theorem sendDescPostedEffect_kept {s₀ : State} (x0 : Fin 8) (x1 : Fin 64) (x2 : State) (h2 : Kept s₀ x2) : Kept s₀
    (sendDescPostedEffect x0 x1 x2) := by
  unfold sendDescPostedEffect
  repeat' first
    | with_reducible first
        | assumption | exact Kept.refl _ | apply ringSlot_kept | apply putRing_kept
    | extract_lets | split | dsimp -zeta +zetaDelta only
    | with_reducible first
        | apply kept_foldl | apply kept_mk
    | exact rfl | exact id | intro _

theorem execSendDescPosted_kept {s₀ : State} (x0 : Fin 8) (x1 : Fin 64) (x2 : State) (h2 : Kept s₀ x2) : ∀ t,
    execSendDescPosted x0 x1 x2 = .next t → Kept s₀ t := by
  intro t ht
  unfold execSendDescPosted at ht
  cases ht
  repeat' first
    | with_reducible first
        | assumption | exact Kept.refl _ | apply clocked_kept | apply sendDescPostedEffect_kept
    | extract_lets | split | dsimp -zeta +zetaDelta only
    | exact rfl | exact id | intro _

theorem winBytes_kept {s₀ : State} (x0 : List Nat) (x1 : Nat) (x2 : Nat) (x3 : State) (x4 : Nat) (x5 : Nat) (h3 : Kept
    s₀ x3) : Kept s₀ (winBytes x0 x1 x2 x3 x4 x5).2 := by
  induction x2 generalizing x0 x1 x3 x4 x5 with
  | zero =>
    unfold winBytes
    repeat' first
      | with_reducible first
          | assumption | exact Kept.refl _ | apply pocRead_kept | apply pierCharge_kept
      | extract_lets | split | dsimp -zeta +zetaDelta only
      | exact rfl | exact id | intro _
  | succ k ih =>
    unfold winBytes
    repeat' first
      | with_reducible first
          | assumption | exact Kept.refl _ | apply ih | apply pocRead_kept | apply pierCharge_kept
      | extract_lets | split | dsimp -zeta +zetaDelta only
      | exact rfl | exact id | intro _

theorem sendData_kept {s₀ : State} (x0 : Nat) (x1 : Nat) (x2 : Nat) (x3 : List Nat) (x4 : List Nat) (x5 : Nat)
    (x6 : State) (x7 : Nat) (h6 : Kept s₀ x6) : Kept s₀ (sendData x0 x1 x2 x3 x4 x5 x6 x7).2 := by
  induction x5 generalizing x6 x7 with
  | zero => exact h6
  | succ k ih =>
    unfold sendData
    split
    · exact h6
    extract_lets n b
    have kb : Kept s₀ b.2 := winBytes_kept _ _ _ _ _ _ h6
    split
    · exact kb
    · exact kb
    · split
      · exact kb
      · exact ih _ _ (routeOut_kept _ _ _ kb _ ‹_›)

theorem sendDesc_kept {s₀ : State} (x0 : Nat) (x1 : Nat) (x2 : List Nat) (x3 : State) (h3 : Kept s₀ x3) : Kept s₀
    (sendDesc x0 x1 x2 x3).2 := by
  unfold sendDesc
  extract_lets pg core w e
  have h := winEntry_kept x3 (bits (sdWord x2 1) 0 12) h3
  split
  · exact h3
  split
  · split
    · exact h3
    · exact routeOut_kept _ _ _ h3 _ ‹_›
  · split
    · exact h
    · exact sendData_kept _ _ _ _ _ _ _ _ h

theorem sendStop_kept {s₀ : State} (x0 : State) (x1 : Nat) (x2 : Nat) (x3 : SendEnd) (h0 : Kept s₀ x0) : Kept s₀
    (sendStop x0 x1 x2 x3) := by
  unfold sendStop
  repeat' first
    | with_reducible first
        | assumption | exact Kept.refl _ | apply ringHalt_kept | apply elogAdd_kept
    | extract_lets | split | dsimp -zeta +zetaDelta only
    | with_reducible first
        | apply kept_foldl | apply kept_mk
    | exact rfl | exact id | intro _

theorem descStart_kept {s₀ : State} (x0 : Nat) (x1 : Nat) (x2 : State) (h2 : Kept s₀ x2) : Kept s₀ (descStart x0 x1
    x2) := by
  unfold descStart
  repeat' first
    | with_reducible first
        | assumption | exact Kept.refl _ | apply sendDesc_kept | apply putRing_kept | apply sendStop_kept
    | extract_lets | split | dsimp -zeta +zetaDelta only
    | with_reducible first
        | apply kept_foldl | apply kept_mk
    | exact rfl | exact id | intro _

theorem descAgain_kept {s₀ : State} (x0 : Nat) (x1 : Nat) (x2 : Nat) (x3 : State) (h3 : Kept s₀ x3) : Kept s₀
    (descAgain x0 x1 x2 x3) := by
  unfold descAgain
  repeat' first
    | with_reducible first
        | assumption | exact Kept.refl _ | apply ringSlot_kept | apply sendDesc_kept | apply sendStop_kept
    | extract_lets | split | dsimp -zeta +zetaDelta only
    | with_reducible first
        | apply kept_foldl | apply kept_mk
    | exact rfl | exact id | intro _

theorem sendDescStartEffect_kept {s₀ : State} (x0 : Fin 8) (x1 : Fin 64) (x2 : State) (h2 : Kept s₀ x2) : Kept s₀
    (sendDescStartEffect x0 x1 x2) := by
  unfold sendDescStartEffect
  repeat' first
    | with_reducible first
        | assumption | apply descAgain_kept | apply descStart_kept
    | split

theorem execSendDescStart_kept {s₀ : State} (x0 : Fin 8) (x1 : Fin 64) (x2 : State) (h2 : Kept s₀ x2) : ∀ t,
    execSendDescStart x0 x1 x2 = .next t → Kept s₀ t := by
  intro t ht
  unfold execSendDescStart at ht
  cases ht
  repeat' first
    | with_reducible first
        | assumption | exact Kept.refl _ | apply clocked_kept | apply sendDescStartEffect_kept
    | extract_lets | split | dsimp -zeta +zetaDelta only
    | exact rfl | exact id | intro _

theorem sendDescCompleteEffect_kept {s₀ : State} (x0 : Fin 8) (x1 : Fin 64) (x2 : State) (h2 : Kept s₀ x2) : Kept s₀
    (sendDescCompleteEffect x0 x1 x2) := by
  unfold sendDescCompleteEffect
  repeat' first
    | with_reducible first
        | assumption | exact Kept.refl _ | apply bumpF_kept | apply putRing_kept | apply sendSignal_kept
    | extract_lets | split | dsimp -zeta +zetaDelta only
    | with_reducible first
        | apply kept_foldl | apply kept_mk
    | exact rfl | exact id | intro _

theorem execSendDescComplete_kept {s₀ : State} (x0 : Fin 8) (x1 : Fin 64) (x2 : State) (h2 : Kept s₀ x2) : ∀ t,
    execSendDescComplete x0 x1 x2 = .next t → Kept s₀ t := by
  intro t ht
  unfold execSendDescComplete at ht
  cases ht
  repeat' first
    | with_reducible first
        | assumption | exact Kept.refl _ | apply clocked_kept | apply sendDescCompleteEffect_kept
    | extract_lets | split | dsimp -zeta +zetaDelta only
    | exact rfl | exact id | intro _

theorem zringEnableEffect_kept {s₀ : State} (x0 : Fin 8) (x1 : Fin 64) (x2 : Bool) (x3 : State) (h3 : Kept s₀ x3) :
    Kept s₀ (zringEnableEffect x0 x1 x2 x3) := by
  unfold zringEnableEffect
  repeat' first
    | with_reducible first
        | assumption | exact Kept.refl _ | apply setB_kept | apply putRing_kept | apply setF_kept
    | extract_lets | split | dsimp -zeta +zetaDelta only
    | exact rfl | exact id | intro _

theorem execZringEnable_kept {s₀ : State} (x0 : Fin 8) (x1 : Fin 64) (x2 : Bool) (x3 : Nat) (x4 : State) (h4 : Kept s₀
    x4) : ∀ t, execZringEnable x0 x1 x2 x3 x4 = .next t → Kept s₀ t := by
  intro t ht
  unfold execZringEnable at ht
  cases ht
  repeat' first
    | with_reducible first
        | assumption | exact Kept.refl _ | apply clocked_kept | apply rejectPath_kept | apply guarded_kept
        | apply zringEnableEffect_kept
    | extract_lets | split | dsimp -zeta +zetaDelta only
    | exact rfl | exact id | intro _

theorem receiptAdd_kept {s₀ : State} (x0 : State) (x1 : Pkt) (h0 : Kept s₀ x0) : Kept s₀ (receiptAdd x0 x1) := by
  unfold receiptAdd
  repeat' first
    | with_reducible first
        | assumption | exact Kept.refl _ | apply jrnlWrite_kept
    | extract_lets | split | dsimp -zeta +zetaDelta only
    | with_reducible first
        | apply kept_foldl | apply kept_mk
    | exact rfl | exact id | intro _

theorem winWrite_kept {s₀ : State} (x0 : List Nat) (x1 : Nat) (x2 : State) (x3 : Nat) (x4 : List Byte) (h2 : Kept s₀
    x2) : Kept s₀ (winWrite x0 x1 x2 x3 x4) := by
  induction x1 generalizing x0 x2 x3 x4 with
  | zero =>
    unfold winWrite
    repeat' first
      | with_reducible first
          | assumption | exact Kept.refl _ | apply pocWrite_kept | apply pierCharge_kept
      | extract_lets | split | dsimp -zeta +zetaDelta only
      | exact rfl | exact id | intro _
  | succ k ih =>
    unfold winWrite
    repeat' first
      | with_reducible first
          | assumption | exact Kept.refl _ | apply ih | apply pocWrite_kept | apply pierCharge_kept
      | extract_lets | split | dsimp -zeta +zetaDelta only
      | exact rfl | exact id | intro _

theorem redElems_kept {s₀ : State} (x0 : List Nat) (x1 : Pkt) (x2 : Nat) (x3 : Nat) (x4 : Nat) (x5 : State) (x6 : Nat)
    (x7 : List Byte) (h5 : Kept s₀ x5) : Kept s₀ (redElems x0 x1 x2 x3 x4 x5 x6 x7) := by
  induction x4 generalizing x0 x1 x2 x3 x5 x6 x7 with
  | zero =>
    unfold redElems
    repeat' first
      | with_reducible first
          | assumption | exact Kept.refl _ | apply orderedAccept_kept | apply pierAdd_kept | apply redUpdate_kept
          | apply redCharge_kept
      | extract_lets | split | dsimp -zeta +zetaDelta only
      | exact rfl | exact id | intro _
  | succ k ih =>
    unfold redElems
    repeat' first
      | with_reducible first
          | assumption | exact Kept.refl _ | apply ih | apply orderedAccept_kept | apply pierAdd_kept
          | apply redUpdate_kept | apply redCharge_kept
      | extract_lets | split | dsimp -zeta +zetaDelta only
      | exact rfl | exact id | intro _

theorem packetAdd_kept {s₀ : State} (x0 : State) (x1 : List Nat) (x2 : Pkt) (x3 : Nat) (h0 : Kept s₀ x0) : Kept s₀
    (packetAdd x0 x1 x2 x3) := by
  unfold packetAdd
  repeat' first
    | with_reducible first
        | assumption | exact Kept.refl _ | apply landSignal_kept | apply sendErr_kept | apply bumpF_kept
    | extract_lets | split | dsimp -zeta +zetaDelta only
    | with_reducible first
        | apply kept_foldl | apply kept_mk
    | exact rfl | exact id | intro _

theorem packetApply_kept {s₀ : State} (x0 : State) (x1 : List Nat) (x2 : Pkt) (h0 : Kept s₀ x0) : Kept s₀ (packetApply
    x0 x1 x2) := by
  unfold packetApply
  repeat' first
    | with_reducible first
        | assumption | exact Kept.refl _ | apply receiptAdd_kept | apply packetAdd_kept | apply winWrite_kept
        | apply redElems_kept
    | extract_lets | split | dsimp -zeta +zetaDelta only
    | exact rfl | exact id | intro _

theorem packetConsume_kept {s₀ : State} (x0 : State) (x1 : Pkt) (h0 : Kept s₀ x0) : Kept s₀ (packetConsume x0 x1) :=
    by
  unfold packetConsume
  repeat' first
    | with_reducible first
        | assumption | exact Kept.refl _ | apply bumpF_kept | apply winEntry_kept | apply packetApply_kept
        | apply sendErr_kept
    | extract_lets | split | dsimp -zeta +zetaDelta only
    | exact rfl | exact id | intro _

theorem consumeType_kept {s₀ : State} (x0 : Nat) (x1 : Nat) (x2 : State) (h2 : Kept s₀ x2) : Kept s₀ (consumeType x0
    x1 x2) := by
  unfold consumeType
  repeat' first
    | with_reducible first
        | assumption | exact Kept.refl _ | apply packetConsume_kept | apply rxTake_kept
    | extract_lets | split | dsimp -zeta +zetaDelta only
    | exact rfl | exact id | intro _

theorem execWr_kept {s₀ : State} (x0 : Fin 12) (x1 : State) (h1 : Kept s₀ x1) : ∀ t, execWr x0 x1 = .next t → Kept s₀
    t := by
  intro t ht
  unfold execWr at ht
  cases ht
  repeat' first
    | with_reducible first
        | assumption | exact Kept.refl _ | apply clocked_kept | apply consumeType_kept
    | extract_lets | split | dsimp -zeta +zetaDelta only
    | exact rfl | exact id | intro _

theorem execRed_kept {s₀ : State} (x0 : Fin 12) (x1 : State) (h1 : Kept s₀ x1) : ∀ t, execRed x0 x1 = .next t → Kept
    s₀ t := by
  intro t ht
  unfold execRed at ht
  cases ht
  repeat' first
    | with_reducible first
        | assumption | exact Kept.refl _ | apply clocked_kept | apply consumeType_kept
    | extract_lets | split | dsimp -zeta +zetaDelta only
    | exact rfl | exact id | intro _

theorem execSig_kept {s₀ : State} (x0 : Fin 12) (x1 : State) (h1 : Kept s₀ x1) : ∀ t, execSig x0 x1 = .next t → Kept
    s₀ t := by
  intro t ht
  unfold execSig at ht
  cases ht
  repeat' first
    | with_reducible first
        | assumption | exact Kept.refl _ | apply clocked_kept | apply consumeType_kept
    | extract_lets | split | dsimp -zeta +zetaDelta only
    | exact rfl | exact id | intro _

theorem errEffect_kept {s₀ : State} (x0 : Fin 12) (x1 : State) (h1 : Kept s₀ x1) : Kept s₀ (errEffect x0 x1) := by
  unfold errEffect
  repeat' first
    | with_reducible first
        | assumption | exact Kept.refl _ | apply ringErr_kept | apply rxTake_kept
    | extract_lets | split | dsimp -zeta +zetaDelta only
    | exact rfl | exact id | intro _

theorem execErr_kept {s₀ : State} (x0 : Fin 12) (x1 : State) (h1 : Kept s₀ x1) : ∀ t, execErr x0 x1 = .next t → Kept
    s₀ t := by
  intro t ht
  unfold execErr at ht
  cases ht
  repeat' first
    | with_reducible first
        | assumption | exact Kept.refl _ | apply clocked_kept | apply errEffect_kept
    | extract_lets | split | dsimp -zeta +zetaDelta only
    | exact rfl | exact id | intro _

theorem negSettle_kept {s₀ : State} (x0 : Nat) (x1 : Pkt) (x2 : State) (h2 : Kept s₀ x2) : Kept s₀ (negSettle x0 x1
    x2) := by
  unfold negSettle
  repeat' first
    | with_reducible first
        | assumption | exact Kept.refl _ | apply setF_kept | apply zlFail_kept | apply putZl_kept
        | apply zlEnter_kept
    | extract_lets | split | dsimp -zeta +zetaDelta only
    | with_reducible first
        | apply kept_foldl | apply kept_mk
    | exact rfl | exact id | intro _

theorem negAgain_kept {s₀ : State} (x0 : Nat) (x1 : Pkt) (x2 : State) (h2 : Kept s₀ x2) : Kept s₀ (negAgain x0 x1 x2)
    := by
  unfold negAgain
  repeat' first
    | with_reducible first
        | assumption | exact Kept.refl _ | apply zlFail_kept | apply putZl_kept
    | extract_lets | split | dsimp -zeta +zetaDelta only
    | with_reducible first
        | apply kept_foldl | apply kept_mk
    | exact rfl | exact id | intro _

theorem negEffect_kept {s₀ : State} (x0 : Fin 12) (x1 : State) (h1 : Kept s₀ x1) : Kept s₀ (negEffect x0 x1) := by
  unfold negEffect
  repeat' first
    | with_reducible first
        | assumption | exact Kept.refl _ | apply rxTake_kept | apply negSettle_kept | apply negAgain_kept
    | extract_lets | split | dsimp -zeta +zetaDelta only
    | exact rfl | exact id | intro _

theorem execNeg_kept {s₀ : State} (x0 : Fin 12) (x1 : State) (h1 : Kept s₀ x1) : ∀ t, execNeg x0 x1 = .next t → Kept
    s₀ t := by
  intro t ht
  unfold execNeg at ht
  cases ht
  repeat' first
    | with_reducible first
        | assumption | exact Kept.refl _ | apply clocked_kept | apply negEffect_kept
    | extract_lets | split | dsimp -zeta +zetaDelta only
    | exact rfl | exact id | intro _

theorem execEchoSend_kept {s₀ : State} (x0 : Fin 12) (x1 : State) (h1 : Kept s₀ x1) : ∀ t, execEchoSend x0 x1 = .next
    t → Kept s₀ t := by
  intro t ht
  unfold execEchoSend at ht
  cases ht
  repeat' first
    | with_reducible first
        | assumption | exact Kept.refl _ | apply clocked_kept | apply portQueue_kept
    | extract_lets | split | dsimp -zeta +zetaDelta only
    | exact rfl | exact id | intro _

theorem echoEffect_kept {s₀ : State} (x0 : Fin 12) (x1 : State) (h1 : Kept s₀ x1) : Kept s₀ (echoEffect x0 x1) := by
  unfold echoEffect
  repeat' first
    | with_reducible first
        | assumption | exact Kept.refl _ | apply rxTake_kept | apply portQueue_kept | apply setF_kept
        | apply putZl_kept
    | extract_lets | split | dsimp -zeta +zetaDelta only
    | with_reducible first
        | apply kept_foldl | apply kept_mk
    | exact rfl | exact id | intro _

theorem execEcho_kept {s₀ : State} (x0 : Fin 12) (x1 : State) (h1 : Kept s₀ x1) : ∀ t, execEcho x0 x1 = .next t → Kept
    s₀ t := by
  intro t ht
  unfold execEcho at ht
  cases ht
  repeat' first
    | with_reducible first
        | assumption | exact Kept.refl _ | apply clocked_kept | apply echoEffect_kept
    | extract_lets | split | dsimp -zeta +zetaDelta only
    | exact rfl | exact id | intro _

theorem keyBeatSendEffect_kept {s₀ : State} (x0 : State) (h0 : Kept s₀ x0) : Kept s₀ (keyBeatSendEffect x0) := by
  unfold keyBeatSendEffect
  repeat' first
    | with_reducible first
        | assumption | exact Kept.refl _ | apply portQueue_kept
    | extract_lets | split | dsimp -zeta +zetaDelta only
    | with_reducible first
        | apply kept_foldl | apply kept_mk
    | exact rfl | exact id | intro _

theorem execKeyBeatSend_kept {s₀ : State} (x0 : State) (h0 : Kept s₀ x0) : ∀ t, execKeyBeatSend x0 = .next t → Kept s₀
    t := by
  intro t ht
  unfold execKeyBeatSend at ht
  cases ht
  repeat' first
    | with_reducible first
        | assumption | exact Kept.refl _ | apply clocked_kept | apply keyBeatSendEffect_kept
    | extract_lets | split | dsimp -zeta +zetaDelta only
    | exact rfl | exact id | intro _

theorem beatAdjust_kept {s₀ : State} (x0 : State) (x1 : Int) (h0 : Kept s₀ x0) : Kept s₀ (beatAdjust x0 x1) := by
  unfold beatAdjust
  repeat' first
    | with_reducible first
        | assumption | exact Kept.refl _ | apply setF_kept | apply setB_kept
    | extract_lets | split | dsimp -zeta +zetaDelta only
    | with_reducible first
        | apply kept_foldl | apply kept_mk
    | exact rfl | exact id | intro _

theorem beatBoundary_kept {s₀ : State} (x0 : State) (x1 : Nat) (x2 : Nat) (h0 : Kept s₀ x0) : Kept s₀ (beatBoundary x0
    x1 x2) := by
  unfold beatBoundary
  repeat' first
    | with_reducible first
        | assumption | exact Kept.refl _ | apply setB_kept
    | extract_lets | split | dsimp -zeta +zetaDelta only
    | with_reducible first
        | apply kept_foldl | apply kept_mk
    | exact rfl | exact id | intro _

theorem beatDown_kept {s₀ : State} (x0 : Nat) (x1 : Nat) (x2 : Pkt) (x3 : State) (h3 : Kept s₀ x3) : Kept s₀ (beatDown
    x0 x1 x2 x3) := by
  unfold beatDown
  repeat' first
    | with_reducible first
        | assumption | exact Kept.refl _ | apply setB_kept | apply setF_kept | apply beatBoundary_kept
        | apply beatAdjust_kept
    | extract_lets | split | dsimp -zeta +zetaDelta only
    | with_reducible first
        | apply kept_foldl | apply kept_mk
    | exact rfl | exact id | intro _

theorem keyEffect_kept {s₀ : State} (x0 : Fin 12) (x1 : State) (h1 : Kept s₀ x1) : Kept s₀ (keyEffect x0 x1) := by
  unfold keyEffect
  repeat' first
    | with_reducible first
        | assumption | exact Kept.refl _ | apply rxTake_kept | apply chooseBoundary_kept | apply beatDown_kept
    | extract_lets | split | dsimp -zeta +zetaDelta only
    | with_reducible first
        | apply kept_foldl | apply kept_mk
    | exact rfl | exact id | intro _

theorem execKey_kept {s₀ : State} (x0 : Fin 12) (x1 : State) (h1 : Kept s₀ x1) : ∀ t, execKey x0 x1 = .next t → Kept
    s₀ t := by
  intro t ht
  unfold execKey at ht
  cases ht
  repeat' first
    | with_reducible first
        | assumption | exact Kept.refl _ | apply clocked_kept | apply keyEffect_kept
    | extract_lets | split | dsimp -zeta +zetaDelta only
    | exact rfl | exact id | intro _

theorem holdoverStartEffect_kept {s₀ : State} (x0 : State) (h0 : Kept s₀ x0) : Kept s₀ (holdoverStartEffect x0) := by
  unfold holdoverStartEffect
  repeat' first
    | with_reducible first
        | assumption | exact Kept.refl _ | apply setB_kept
    | extract_lets | split | dsimp -zeta +zetaDelta only
    | with_reducible first
        | apply kept_foldl | apply kept_mk
    | exact rfl | exact id | intro _

theorem execHoldoverStart_kept {s₀ : State} (x0 : State) (h0 : Kept s₀ x0) : ∀ t, execHoldoverStart x0 = .next t →
    Kept s₀ t := by
  intro t ht
  unfold execHoldoverStart at ht
  cases ht
  repeat' first
    | with_reducible first
        | assumption | exact Kept.refl _ | apply clocked_kept | apply holdoverStartEffect_kept
    | extract_lets | split | dsimp -zeta +zetaDelta only
    | exact rfl | exact id | intro _

theorem holdoverLostEffect_kept {s₀ : State} (x0 : State) (h0 : Kept s₀ x0) : Kept s₀ (holdoverLostEffect x0) := by
  unfold holdoverLostEffect
  repeat' first
    | with_reducible first
        | assumption | apply setB_kept | apply frameStopEffect_kept
    | split

theorem execHoldoverLost_kept {s₀ : State} (x0 : State) (h0 : Kept s₀ x0) : ∀ t, execHoldoverLost x0 = .next t → Kept
    s₀ t := by
  intro t ht
  unfold execHoldoverLost at ht
  cases ht
  repeat' first
    | with_reducible first
        | assumption | exact Kept.refl _ | apply clocked_kept | apply holdoverLostEffect_kept
    | extract_lets | split | dsimp -zeta +zetaDelta only
    | exact rfl | exact id | intro _

end Sys2Proof.Machine
end

