-- ==== Sys2Proof/Laws/KeptHost.lean ====
section
/-!
SUPPORT. One lemma per operation of errors, the journal, interrupts and the host: it keeps what `Kept` names (or holds what `Held` names), where
the state it begins with does.
-/
namespace Sys2Proof.Machine

theorem countTimeout_kept {s₀ : State} (x0 : State) (x1 : Nat) (x2 : Bool) (h0 : Kept s₀ x0) : Kept s₀ (countTimeout
    x0 x1 x2) := by
  unfold countTimeout
  repeat' first
    | with_reducible first
        | assumption | apply bumpF_kept
    | split

theorem loadFails_kept {s₀ : State} (x0 : Fin 8) (x1 : Fin 16) (x2 : Fin 4) (x3 : Nat) (x4 : State) (h4 : Kept s₀
    x4) : ∀ t, (loadFails x0 x1 x2 x3 x4) = some t → Kept s₀ t := by
  unfold loadFails
  split
  · intro t h; cases h
  extract_lets src s1 s2
  have k1 : Kept s₀ s1 := kept_mk h4 rfl id id
  have k2 : Kept s₀ s2 := by
    show Kept s₀ (match wOp _ with | 0x20 => _ | 0x21 => _ | 0x22 => _ | _ => _)
    split
    · exact ldTEffect_kept _ _ _ _ k1
    · exact ldGEffect_kept _ _ _ _ k1
    · exact ldBEffect_kept _ _ _ _ k1
    · exact k1
  clear_value s2
  intro t h
  split at h
  · cases h; exact k2
  · cases h

theorem entryRefused_kept {s₀ : State} (x0 : State) (x1 : Nat) (x2 : Nat) (x3 : Nat) (x4 : Nat) (h0 : Kept s₀ x0) :
    Kept s₀ (entryRefused x0 x1 x2 x3 x4) := by
  unfold entryRefused
  repeat' first
    | with_reducible first
        | assumption | exact Kept.refl _ | apply cqPush_kept | apply setF_kept | apply irqSrc_kept
        | apply blkErr_kept
    | extract_lets | split | dsimp -zeta +zetaDelta only
    | with_reducible first
        | apply kept_foldl | apply kept_mk
    | exact rfl | exact id | intro _

theorem hostReadErrorEffect_kept {s₀ : State} (x0 : Fin 3) (x1 : Fin 8) (x2 : Fin 16) (x3 : Fin 4) (x4 : Nat) (x5 :
    Fin 128) (x6 : Fin 16) (x7 : Bool) (x8 : State) (h8 : Kept s₀ x8) : Kept s₀ (hostReadErrorEffect x0 x1 x2 x3 x4
    x5 x6 x7 x8) := by
  unfold hostReadErrorEffect
  split
  · split
    · exact countTimeout_kept _ _ _ (loadFails_kept _ _ _ _ _ h8 _ ‹_›)
    · exact h8
  · split
    · exact countTimeout_kept _ _ _ (entryRefused_kept _ _ _ _ _ h8)
    · exact h8
  · exact countTimeout_kept _ _ _ (elogAdd_kept _ _ h8)

theorem execHostReadError_kept {s₀ : State} (x0 : Fin 3) (x1 : Fin 8) (x2 : Fin 16) (x3 : Fin 4) (x4 : Nat) (x5 : Fin
    128) (x6 : Fin 16) (x7 : Bool) (x8 : State) (h8 : Kept s₀ x8) : ∀ t, execHostReadError x0 x1 x2 x3 x4 x5 x6 x7 x8
    = .next t → Kept s₀ t := by
  intro t ht
  unfold execHostReadError at ht
  cases ht
  repeat' first
    | with_reducible first
        | assumption | exact Kept.refl _ | apply clocked_kept | apply hostReadErrorEffect_kept
    | extract_lets | split | dsimp -zeta +zetaDelta only
    | exact rfl | exact id | intro _

theorem bucketLeakEffect_kept {s₀ : State} (x0 : Fin 8) (x1 : Fin 4) (x2 : Nat) (x3 : State) (h3 : Kept s₀ x3) : Kept
    s₀ (bucketLeakEffect x0 x1 x2 x3) := by
  unfold bucketLeakEffect
  repeat' first
    | with_reducible first
        | assumption | exact Kept.refl _
    | extract_lets | split | dsimp -zeta +zetaDelta only
    | with_reducible first
        | apply kept_foldl | apply kept_mk
    | exact rfl | exact id | intro _

theorem execBucketLeak_kept {s₀ : State} (x0 : Fin 8) (x1 : Fin 4) (x2 : Nat) (x3 : State) (h3 : Kept s₀ x3) : ∀ t,
    execBucketLeak x0 x1 x2 x3 = .next t → Kept s₀ t := by
  intro t ht
  unfold execBucketLeak at ht
  cases ht
  repeat' first
    | with_reducible first
        | assumption | exact Kept.refl _ | apply clocked_kept | apply bucketLeakEffect_kept
    | extract_lets | split | dsimp -zeta +zetaDelta only
    | exact rfl | exact id | intro _

theorem flipArmEffect_kept {s₀ : State} (x0 : Fin 8) (x1 : Nat) (x2 : Nat) (x3 : State) (h3 : Kept s₀ x3) : Kept s₀
    (flipArmEffect x0 x1 x2 x3) := by
  unfold flipArmEffect
  repeat' first
    | with_reducible first
        | assumption | exact Kept.refl _ | apply reject_kept | apply setF_kept | apply setB_kept
    | extract_lets | split | dsimp -zeta +zetaDelta only
    | exact rfl | exact id | intro _

theorem execFlipArm_kept {s₀ : State} (x0 : Fin 8) (x1 : Nat) (x2 : Nat) (x3 : State) (h3 : Kept s₀ x3) : ∀ t,
    execFlipArm x0 x1 x2 x3 = .next t → Kept s₀ t := by
  intro t ht
  unfold execFlipArm at ht
  cases ht
  repeat' first
    | with_reducible first
        | assumption | exact Kept.refl _ | apply clocked_kept | apply rejectPath_kept | apply guarded_kept
        | apply flipArmEffect_kept
    | extract_lets | split | dsimp -zeta +zetaDelta only
    | exact rfl | exact id | intro _

theorem scrubCol_kept {s₀ : State} (x0 : State) (x1 : Nat) (h0 : Kept s₀ x0) : Kept s₀ (scrubCol x0 x1) := by
  unfold scrubCol
  repeat' first
    | with_reducible first
        | assumption | exact Kept.refl _ | apply bumpF_kept | apply colRead_kept | apply colSeal_kept
    | extract_lets | split | dsimp -zeta +zetaDelta only
    | exact rfl | exact id | intro _

theorem scrubRowEffect_kept {s₀ : State} (x0 : Fin 8) (x1 : Fin 64) (x2 : State) (h2 : Kept s₀ x2) : Kept s₀
    (scrubRowEffect x0 x1 x2) := by
  unfold scrubRowEffect
  repeat' first
    | with_reducible first
        | assumption | exact Kept.refl _ | apply pierAdd_kept | apply scrubCol_kept | apply putPcc_kept
    | extract_lets | split | dsimp -zeta +zetaDelta only
    | with_reducible first
        | apply kept_foldl | apply kept_foldl_fst | apply kept_foldl_snd | apply kept_foldl_thd | apply kept_mk
    | exact rfl | exact id | intro _

theorem execScrubRow_kept {s₀ : State} (x0 : Fin 8) (x1 : Fin 64) (x2 : State) (h2 : Kept s₀ x2) : ∀ t, execScrubRow
    x0 x1 x2 = .next t → Kept s₀ t := by
  intro t ht
  unfold execScrubRow at ht
  cases ht
  repeat' first
    | with_reducible first
        | assumption | exact Kept.refl _ | apply clocked_kept | apply scrubRowEffect_kept
    | extract_lets | split | dsimp -zeta +zetaDelta only
    | exact rfl | exact id | intro _

theorem leafPzn_kept {s₀ : State} (x0 : Bool) (x1 : State) (x2 : Nat × Leaf) (h1 : Kept s₀ x1) : Kept s₀ (leafPzn x0
    x1 x2) := by
  unfold leafPzn
  repeat' first
    | with_reducible first
        | assumption | exact Kept.refl _ | apply pteWrite_kept | apply xinvDrop_kept | apply bumpF_kept
    | extract_lets | split | dsimp -zeta +zetaDelta only
    | with_reducible first
        | apply kept_foldl | apply kept_mk
    | exact rfl | exact id | intro _

theorem pznAll_kept {s₀ : State} (x0 : Bool) (x1 : State) (x2 : Leaf → Bool) (h1 : Kept s₀ x1) : Kept s₀ (pznAll x0 x1
    x2) := by
  unfold pznAll
  repeat' first
    | with_reducible first
        | assumption | exact Kept.refl _ | apply leafPzn_kept
    | extract_lets | split | dsimp -zeta +zetaDelta only
    | with_reducible first
        | apply kept_foldl | apply kept_mk
    | exact rfl | exact id | intro _

theorem retLog_kept {s₀ : State} (x0 : State) (x1 : Nat) (h0 : Kept s₀ x0) : Kept s₀ (retLog x0 x1) := by
  unfold retLog
  repeat' first
    | with_reducible first
        | assumption | exact Kept.refl _ | apply elogAdd_kept
    | extract_lets | split | dsimp -zeta +zetaDelta only
    | with_reducible first
        | apply kept_foldl | apply kept_mk
    | exact rfl | exact id | intro _

theorem retNote_kept {s₀ : State} (x0 : State) (x1 : Nat) (h0 : Kept s₀ x0) : Kept s₀ (retNote x0 x1) := by
  unfold retNote
  repeat' first
    | with_reducible first
        | assumption | exact Kept.refl _ | apply retLog_kept
    | extract_lets | split | dsimp -zeta +zetaDelta only
    | with_reducible first
        | apply kept_foldl | apply kept_mk
    | exact rfl | exact id | intro _

theorem setCause_kept {s₀ : State} (x0 : State) (x1 : Nat) (x2 : Nat) (h0 : Kept s₀ x0) : Kept s₀ (setCause x0 x1 x2)
    := by
  unfold setCause
  repeat' first
    | with_reducible first
        | assumption | exact Kept.refl _
    | extract_lets | split | dsimp -zeta +zetaDelta only
    | with_reducible first
        | apply kept_foldl | apply kept_mk
    | exact rfl | exact id | intro _

theorem itemFail_kept {s₀ : State} (x0 : State) (x1 : Item) (h0 : Kept s₀ x0) : Kept s₀ (itemFail x0 x1) := by
  unfold itemFail
  repeat' first
    | with_reducible first
        | assumption | exact Kept.refl _ | apply stepFailed_kept | apply putItem_kept | apply itemError_kept
    | extract_lets | split | dsimp -zeta +zetaDelta only
    | with_reducible first
        | apply kept_foldl | apply kept_mk
    | exact rfl | exact id | intro _

theorem itemsFail_kept {s₀ : State} (x0 : State) (x1 : Item → Bool) (h0 : Kept s₀ x0) : Kept s₀ (itemsFail x0 x1) :=
    by
  unfold itemsFail
  repeat' first
    | with_reducible first
        | assumption | exact Kept.refl _ | apply itemFail_kept
    | extract_lets | split | dsimp -zeta +zetaDelta only
    | with_reducible first
        | apply kept_foldl | apply kept_mk
    | exact rfl | exact id | intro _

theorem pcRetire_kept {s₀ : State} (x0 : State) (x1 : Nat) (x2 : Nat) (h0 : Kept s₀ x0) : Kept s₀ (pcRetire x0 x1 x2)
    := by
  unfold pcRetire
  repeat' first
    | with_reducible first
        | assumption | exact Kept.refl _ | apply itemsFail_kept | apply loseBlus_kept | apply putPcc_kept
        | apply setCause_kept | apply pznAll_kept
    | extract_lets | split | dsimp -zeta +zetaDelta only
    | with_reducible first
        | apply kept_foldl | apply kept_mk
    | exact rfl | exact id | intro _

theorem execPcRetire_kept {s₀ : State} (x0 : Fin 8) (x1 : Fin 64) (x2 : State) (h2 : Kept s₀ x2) : ∀ t, execPcRetire
    x0 x1 x2 = .next t → Kept s₀ t := by
  intro t ht
  unfold execPcRetire at ht
  cases ht
  repeat' first
    | with_reducible first
        | assumption | exact Kept.refl _ | apply clocked_kept | apply retNote_kept | apply pcRetire_kept
    | extract_lets | split | dsimp -zeta +zetaDelta only
    | exact rfl | exact id | intro _

theorem bankRetire_kept {s₀ : State} (x0 : Fin 8) (x1 : Fin 64) (x2 : Fin 32) (x3 : Bool) (x4 : State) (h4 : Kept s₀
    x4) : Kept s₀ (bankRetire x0 x1 x2 x3 x4) := by
  unfold bankRetire
  repeat' first
    | with_reducible first
        | assumption | apply retNote_kept | apply setCause_kept | apply spareStartEffect_kept | apply pcRetire_kept
    | split

theorem retUnitDo_kept {s₀ : State} (x0 : Nat) (x1 : Fin 8) (x2 : Fin 64) (x3 : Fin 32) (x4 : Nat) (x5 : State) (h5 :
    Kept s₀ x5) : Kept s₀ (retUnitDo x0 x1 x2 x3 x4 x5) := by
  unfold retUnitDo
  repeat' first
    | with_reducible first
        | assumption | apply retNote_kept | apply bankRetire_kept | apply pcRetire_kept | apply coreRetire_kept
    | split

theorem retirementEffect_kept {s₀ : State} (x0 : Fin 4) (x1 : Fin 8) (x2 : Fin 64) (x3 : Fin 32) (x4 : Nat) (x5 :
    State) (h5 : Kept s₀ x5) : Kept s₀ (retirementEffect x0 x1 x2 x3 x4 x5) := by
  unfold retirementEffect
  repeat' first
    | with_reducible first
        | assumption | exact Kept.refl _ | apply retUnitDo_kept
    | extract_lets | split | dsimp -zeta +zetaDelta only
    | with_reducible first
        | apply kept_foldl | apply kept_mk
    | exact rfl | exact id | intro _

theorem execRetirement_kept {s₀ : State} (x0 : Fin 4) (x1 : Fin 8) (x2 : Fin 64) (x3 : Fin 32) (x4 : Nat) (x5 : State)
    (h5 : Kept s₀ x5) : ∀ t, execRetirement x0 x1 x2 x3 x4 x5 = .next t → Kept s₀ t := by
  intro t ht
  unfold execRetirement at ht
  cases ht
  repeat' first
    | with_reducible first
        | assumption | exact Kept.refl _ | apply clocked_kept | apply retirementEffect_kept
    | extract_lets | split | dsimp -zeta +zetaDelta only
    | exact rfl | exact id | intro _

theorem elogRetireEffect_kept {s₀ : State} (x0 : Nat) (x1 : Nat) (x2 : Nat) (x3 : State) (h3 : Kept s₀ x3) : Kept s₀
    (elogRetireEffect x0 x1 x2 x3) := by
  unfold elogRetireEffect
  repeat' first
    | with_reducible first
        | assumption | exact Kept.refl _ | apply reject_kept
    | extract_lets | split | dsimp -zeta +zetaDelta only
    | with_reducible first
        | apply kept_foldl | apply kept_mk
    | exact rfl | exact id | intro _

theorem execElogRetire_kept {s₀ : State} (x0 : Nat) (x1 : Nat) (x2 : Nat) (x3 : State) (h3 : Kept s₀ x3) : ∀ t,
    execElogRetire x0 x1 x2 x3 = .next t → Kept s₀ t := by
  intro t ht
  unfold execElogRetire at ht
  cases ht
  repeat' first
    | with_reducible first
        | assumption | exact Kept.refl _ | apply clocked_kept | apply guarded_kept | apply elogRetireEffect_kept
    | extract_lets | split | dsimp -zeta +zetaDelta only
    | exact rfl | exact id | intro _

theorem serrSubstituteEffect_kept {s₀ : State} (x0 : Fin 8) (x1 : Fin 16) (x2 : Fin 16) (x3 : Bool) (x4 : Nat) (x5 :
    State) (h5 : Kept s₀ x5) : Kept s₀ (serrSubstituteEffect x0 x1 x2 x3 x4 x5) := by
  unfold serrSubstituteEffect
  repeat' first
    | with_reducible first
        | assumption | exact Kept.refl _ | apply reject_kept | apply setB_kept | apply setF_kept
    | extract_lets | split | dsimp -zeta +zetaDelta only
    | exact rfl | exact id | intro _

theorem execSerrSubstitute_kept {s₀ : State} (x0 : Fin 8) (x1 : Fin 16) (x2 : Fin 16) (x3 : Bool) (x4 : Nat) (x5 :
    State) (h5 : Kept s₀ x5) : ∀ t, execSerrSubstitute x0 x1 x2 x3 x4 x5 = .next t → Kept s₀ t := by
  intro t ht
  unfold execSerrSubstitute at ht
  cases ht
  repeat' first
    | with_reducible first
        | assumption | exact Kept.refl _ | apply clocked_kept | apply rejectPath_kept | apply guarded_kept
        | apply serrSubstituteEffect_kept
    | extract_lets | split | dsimp -zeta +zetaDelta only
    | exact rfl | exact id | intro _

theorem columnsGot_kept {s₀ : State} (x0 : List Byte × List Nat × State) (h0 : Kept s₀ x0.2.2) : Kept s₀ (columnsGot
    x0).2 := by
  unfold columnsGot
  repeat' first
    | with_reducible first
        | assumption | exact Kept.refl _
    | extract_lets | split | dsimp -zeta +zetaDelta only
    | exact rfl | exact id | intro _

theorem bytesGot_kept {s₀ : State} (x0 : List Byte × State) (h0 : Kept s₀ x0.2) : Kept s₀ (bytesGot x0).2 := by
  unfold bytesGot
  repeat' first
    | with_reducible first
        | assumption | exact Kept.refl _
    | extract_lets | split | dsimp -zeta +zetaDelta only
    | exact rfl | exact id | intro _

theorem copyBytes_kept {s₀ : State} (x0 : State) (x1 : List Nat) (x2 : Nat) (x3 : Bool) (h0 : Kept s₀ x0) : Kept s₀
    (copyBytes x0 x1 x2 x3).2 := by
  unfold copyBytes
  repeat' first
    | with_reducible first
        | assumption | exact Kept.refl _ | apply bytesGot_kept | apply hostBytes_kept | apply hostReadLost_kept
        | apply columnsGot_kept | apply daRead_kept
    | extract_lets | split | dsimp -zeta +zetaDelta only
    | exact rfl | exact id | intro _

theorem leafResume_kept {s₀ : State} (x0 : Bool) (x1 : State) (x2 : Nat × Leaf) (h1 : Kept s₀ x1) : Kept s₀
    (leafResume x0 x1 x2) := by
  unfold leafResume
  repeat' first
    | with_reducible first
        | assumption | exact Kept.refl _ | apply fresumeAll_kept
    | extract_lets | split | dsimp -zeta +zetaDelta only
    | with_reducible first
        | apply kept_foldl | apply kept_foldl_fst | apply kept_foldl_snd | apply kept_foldl_thd | apply kept_mk
    | exact rfl | exact id | intro _

theorem restoreLost_kept {s₀ : State} (x0 : Leaf → Bool) (x1 : Nat) (x2 : State) (h2 : Kept s₀ x2) : Kept s₀
    (restoreLost x0 x1 x2) := by
  unfold restoreLost
  repeat' first
    | with_reducible first
        | assumption | exact Kept.refl _ | apply leafResume_kept | apply itemsFail_kept | apply elogAdd_kept
        | apply retNote_kept
    | extract_lets | split | dsimp -zeta +zetaDelta only
    | with_reducible first
        | apply kept_foldl | apply kept_mk
    | exact rfl | exact id | intro _

theorem mirrorRestoreEffect_kept {s₀ : State} (x0 : Nat) (x1 : Bool) (x2 : State) (h2 : Kept s₀ x2) : Kept s₀
    (mirrorRestoreEffect x0 x1 x2) := by
  unfold mirrorRestoreEffect
  repeat' first
    | with_reducible first
        | assumption | exact Kept.refl _ | apply pznAll_kept | apply restoreLost_kept | apply copyBytes_kept
        | apply pageUncache_kept | apply daWrite_kept | apply leafResume_kept | apply elogAdd_kept
    | extract_lets | split | dsimp -zeta +zetaDelta only
    | with_reducible first
        | apply kept_foldl | apply kept_foldl_fst | apply kept_foldl_snd | apply kept_foldl_thd | apply kept_mk
    | exact rfl | exact id | intro _

theorem execMirrorRestore_kept {s₀ : State} (x0 : Nat) (x1 : Bool) (x2 : State) (h2 : Kept s₀ x2) : ∀ t,
    execMirrorRestore x0 x1 x2 = .next t → Kept s₀ t := by
  intro t ht
  unfold execMirrorRestore at ht
  cases ht
  repeat' first
    | with_reducible first
        | assumption | exact Kept.refl _ | apply clocked_kept | apply mirrorRestoreEffect_kept
    | extract_lets | split | dsimp -zeta +zetaDelta only
    | exact rfl | exact id | intro _

theorem elogDoneEffect_kept {s₀ : State} (x0 : Nat) (x1 : Nat) (x2 : State) (h2 : Kept s₀ x2) : Kept s₀
    (elogDoneEffect x0 x1 x2) := by
  unfold elogDoneEffect
  repeat' first
    | with_reducible first
        | assumption | exact Kept.refl _ | apply reject_kept
    | extract_lets | split | dsimp -zeta +zetaDelta only
    | with_reducible first
        | apply kept_foldl | apply kept_mk
    | exact rfl | exact id | intro _

theorem execElogDone_kept {s₀ : State} (x0 : Nat) (x1 : Nat) (x2 : State) (h2 : Kept s₀ x2) : ∀ t, execElogDone x0 x1
    x2 = .next t → Kept s₀ t := by
  intro t ht
  unfold execElogDone at ht
  cases ht
  repeat' first
    | with_reducible first
        | assumption | exact Kept.refl _ | apply clocked_kept | apply guarded_kept | apply elogDoneEffect_kept
    | extract_lets | split | dsimp -zeta +zetaDelta only
    | exact rfl | exact id | intro _

theorem execElogClearLost_kept {s₀ : State} (x0 : Nat) (x1 : State) (h1 : Kept s₀ x1) : ∀ t, execElogClearLost x0 x1 =
    .next t → Kept s₀ t := by
  intro t ht
  unfold execElogClearLost at ht
  cases ht
  repeat' first
    | with_reducible first
        | assumption | exact Kept.refl _ | apply clocked_kept | apply guarded_kept | apply setF_kept
    | extract_lets | split | dsimp -zeta +zetaDelta only
    | exact rfl | exact id | intro _

theorem elogClearFirst_kept {s₀ : State} (x0 : State) (h0 : Kept s₀ x0) : Kept s₀ (elogClearFirst x0) := by
  unfold elogClearFirst
  repeat' first
    | with_reducible first
        | assumption | exact Kept.refl _
    | extract_lets | split | dsimp -zeta +zetaDelta only
    | with_reducible first
        | apply kept_foldl | apply kept_mk
    | exact rfl | exact id | intro _

theorem execElogClearFirst_kept {s₀ : State} (x0 : Nat) (x1 : State) (h1 : Kept s₀ x1) : ∀ t, execElogClearFirst x0 x1
    = .next t → Kept s₀ t := by
  intro t ht
  unfold execElogClearFirst at ht
  cases ht
  repeat' first
    | with_reducible first
        | assumption | exact Kept.refl _ | apply clocked_kept | apply guarded_kept | apply elogClearFirst_kept
    | extract_lets | split | dsimp -zeta +zetaDelta only
    | exact rfl | exact id | intro _

theorem dropMarks_kept {s₀ : State} (x0 : State) (x1 : Nat) (h0 : Kept s₀ x0) : Kept s₀ (dropMarks x0 x1) := by
  unfold dropMarks
  repeat' first
    | with_reducible first
        | assumption | exact Kept.refl _
    | extract_lets | split | dsimp -zeta +zetaDelta only
    | with_reducible first
        | apply kept_foldl | apply kept_mk
    | exact rfl | exact id | intro _

theorem putCommit_kept {s₀ : State} (x0 : State) (x1 : Item) (x2 : Commit) (h0 : Kept s₀ x0) : Kept s₀ (putCommit x0
    x1 x2) := by
  unfold putCommit
  repeat' first
    | with_reducible first
        | assumption | exact Kept.refl _ | apply putItem_kept
    | extract_lets | split | dsimp -zeta +zetaDelta only
    | with_reducible first
        | apply kept_foldl | apply kept_mk
    | exact rfl | exact id | intro _

theorem commitOpen_kept {s₀ : State} (x0 : State) (x1 : Item) (h0 : Kept s₀ x0) : Kept s₀ (commitOpen x0 x1) := by
  unfold commitOpen
  repeat' first
    | with_reducible first
        | assumption | exact Kept.refl _ | apply jrnlWrite_kept | apply cqPush_kept | apply putCommit_kept
    | extract_lets | split | dsimp -zeta +zetaDelta only
    | with_reducible first
        | apply kept_foldl | apply kept_mk
    | exact rfl | exact id | intro _

theorem preWrite_kept {s₀ : State} (x0 : State) (x1 : Nat) (x2 : (Nat × List Byte × Nat) × Nat) (h0 : Kept s₀ x0) :
    Kept s₀ (preWrite x0 x1 x2) := by
  unfold preWrite
  repeat' first
    | with_reducible first
        | assumption | exact Kept.refl _ | apply pocPoison_kept | apply pocWrite_kept
    | extract_lets | split | dsimp -zeta +zetaDelta only
    | with_reducible first
        | apply kept_foldl | apply kept_foldl_fst | apply kept_foldl_snd | apply kept_foldl_thd | apply kept_mk
    | exact rfl | exact id | intro _

theorem roundOpen_kept {s₀ : State} (x0 : State) (x1 : Item) (x2 : Commit) (x3 : Nat) (x4 : List Nat) (h0 : Kept s₀
    x0) : Kept s₀ (roundOpen x0 x1 x2 x3 x4) := by
  unfold roundOpen
  repeat' first
    | with_reducible first
        | assumption | exact Kept.refl _ | apply redFetch_kept | apply putCommit_kept | apply preWrite_kept
    | extract_lets | split | dsimp -zeta +zetaDelta only
    | with_reducible first
        | apply kept_foldl | apply kept_foldl_fst | apply kept_foldl_snd | apply kept_foldl_thd | apply kept_mk
    | exact rfl | exact id | intro _

theorem roundLine_kept {s₀ : State} (x0 : State) (x1 : Item) (x2 : Commit) (x3 : Nat) (x4 : List Nat) (h0 : Kept s₀
    x0) : Kept s₀ (roundLine x0 x1 x2 x3 x4) := by
  unfold roundLine
  repeat' first
    | with_reducible first
        | assumption | exact Kept.refl _ | apply putCommit_kept | apply settleLine_kept
    | extract_lets | split | dsimp -zeta +zetaDelta only
    | with_reducible first
        | apply kept_foldl | apply kept_mk
        | exact memWf_put _ _ | exact memWf_write _ _ | exact memWf_stores _ | exact memWf_filter _
    | exact rfl | exact id | intro _

theorem roundStep_kept {s₀ : State} (x0 : State) (x1 : Item) (x2 : Commit) (x3 : Nat) (x4 : List Nat) (h0 : Kept s₀
    x0) : Kept s₀ (roundStep x0 x1 x2 x3 x4) := by
  unfold roundStep
  repeat' first
    | with_reducible first
        | assumption | exact Kept.refl _ | apply putCommit_kept | apply roundOpen_kept | apply roundLine_kept
    | extract_lets | split | dsimp -zeta +zetaDelta only
    | with_reducible first
        | apply kept_foldl | apply kept_mk
    | exact rfl | exact id | intro _

theorem releaseDesc_kept {s₀ : State} (x0 : State) (x1 : Item) (x2 : Commit) (x3 : Nat) (x4 : List Nat) (h0 : Kept s₀
    x0) : Kept s₀ (releaseDesc x0 x1 x2 x3 x4) := by
  unfold releaseDesc
  repeat' first
    | with_reducible first
        | assumption | exact Kept.refl _ | apply putCommit_kept | apply putRing_kept | apply descStart_kept
    | extract_lets | split | dsimp -zeta +zetaDelta only
    | with_reducible first
        | apply kept_foldl | apply kept_mk
    | exact rfl | exact id | intro _

theorem commitRecord_kept {s₀ : State} (x0 : State) (x1 : Item) (x2 : Commit) (h0 : Kept s₀ x0) : Kept s₀
    (commitRecord x0 x1 x2) := by
  unfold commitRecord
  repeat' first
    | with_reducible first
        | assumption | exact Kept.refl _ | apply cqPlace_kept | apply putCommit_kept
    | extract_lets | split | dsimp -zeta +zetaDelta only
    | with_reducible first
        | apply kept_foldl | apply kept_mk
    | exact rfl | exact id | intro _

theorem commitStep_kept {s₀ : State} (x0 : Nat) (x1 : State) (h1 : Kept s₀ x1) : Kept s₀ (commitStep x0 x1) := by
  unfold commitStep
  repeat' first
    | with_reducible first
        | assumption | exact Kept.refl _ | apply commitOpen_kept | apply roundStep_kept | apply putCommit_kept
        | apply landSignal_kept | apply releaseDesc_kept | apply dropMarks_kept | apply itemGone_kept
        | apply dropStaged_kept | apply jrnlWrite_kept | apply commitRecord_kept
    | extract_lets | split | dsimp -zeta +zetaDelta only
    | with_reducible first
        | apply kept_foldl | apply kept_mk
    | exact rfl | exact id | intro _

theorem commitRun_kept {s₀ : State} (x0 : Nat) (x1 : Nat) (x2 : State) (h2 : Kept s₀ x2) : Kept s₀ (commitRun x0 x1
    x2) := by
  induction x1 generalizing x0 x2 with
  | zero =>
    unfold commitRun
    repeat' first
      | with_reducible first
          | assumption | apply commitStep_kept
      | split
  | succ k ih =>
    unfold commitRun
    repeat' first
      | with_reducible first
          | assumption | apply ih | apply commitStep_kept
      | split

theorem restoreLine_kept {s₀ : State} (x0 : State) (x1 : Nat × List Byte × Nat) (h0 : Kept s₀ x0) : Kept s₀
    (restoreLine x0 x1) := by
  unfold restoreLine
  repeat' first
    | with_reducible first
        | assumption | exact Kept.refl _ | apply redUpd_kept | apply redFetch_kept
    | extract_lets | split | dsimp -zeta +zetaDelta only
    | with_reducible first
        | apply kept_foldl | apply kept_mk
    | exact rfl | exact id | intro _

theorem restoreEntry_kept {s₀ : State} (x0 : State) (x1 : Staged) (h0 : Kept s₀ x0) : Kept s₀ (restoreEntry x0 x1) :=
    by
  unfold restoreEntry
  repeat' first
    | with_reducible first
        | assumption | exact Kept.refl _ | apply putPcc_kept
    | extract_lets | split | dsimp -zeta +zetaDelta only
    | with_reducible first
        | apply kept_foldl | apply kept_mk
    | exact rfl | exact id | intro _

theorem commitRewind_kept {s₀ : State} (x0 : State) (x1 : Item) (h0 : Kept s₀ x0) : Kept s₀ (commitRewind x0 x1) := by
  unfold commitRewind
  repeat' first
    | with_reducible first
        | assumption | exact Kept.refl _ | apply restoreEntry_kept | apply restoreLine_kept | apply putCommit_kept
    | extract_lets | split | dsimp -zeta +zetaDelta only
    | with_reducible first
        | apply kept_foldl | apply kept_mk
    | exact rfl | exact id | intro _

theorem itemCommitEffect_kept {s₀ : State} (x0 : Nat) (x1 : Option Nat) (x2 : State) (h2 : Kept s₀ x2) : Kept s₀
    (itemCommitEffect x0 x1 x2) := by
  unfold itemCommitEffect
  repeat' first
    | with_reducible first
        | assumption | exact Kept.refl _ | apply commitRewind_kept | apply commitRun_kept
    | extract_lets | split | dsimp -zeta +zetaDelta only
    | exact rfl | exact id | intro _

theorem execItemCommit_kept {s₀ : State} (x0 : Nat) (x1 : Option Nat) (x2 : State) (h2 : Kept s₀ x2) : ∀ t,
    execItemCommit x0 x1 x2 = .next t → Kept s₀ t := by
  intro t ht
  unfold execItemCommit at ht
  cases ht
  repeat' first
    | with_reducible first
        | assumption | exact Kept.refl _ | apply clocked_kept | apply itemCommitEffect_kept
    | extract_lets | split | dsimp -zeta +zetaDelta only
    | exact rfl | exact id | intro _

theorem commitsResume_kept {s₀ : State} (x0 : State) (h0 : Kept s₀ x0) : Kept s₀ (commitsResume x0) := by
  unfold commitsResume
  repeat' first
    | with_reducible first
        | assumption | exact Kept.refl _ | apply itemCommitEffect_kept
    | extract_lets | split | dsimp -zeta +zetaDelta only
    | with_reducible first
        | apply kept_foldl | apply kept_mk
    | exact rfl | exact id | intro _

theorem stopDelivery_kept {s₀ : State} (x0 : State) (x1 : Delivery) (h0 : Kept s₀ x0) : Kept s₀ (stopDelivery x0 x1)
    := by
  unfold stopDelivery
  repeat' first
    | with_reducible first
        | assumption | exact Kept.refl _ | apply slotAbort_kept | apply endFaultedSeqs_kept | apply putRec_kept
    | extract_lets | split | dsimp -zeta +zetaDelta only
    | with_reducible first
        | apply kept_foldl | apply kept_mk
    | exact rfl | exact id | intro _

theorem unsend_kept {s₀ : State} (x0 : State) (x1 : Nat) (h0 : Kept s₀ x0) : Kept s₀ (unsend x0 x1) := by
  unfold unsend
  repeat' first
    | with_reducible first
        | assumption | exact Kept.refl _
    | extract_lets | split | dsimp -zeta +zetaDelta only
    | with_reducible first
        | apply kept_foldl | apply kept_mk
    | exact rfl | exact id | intro _

theorem rewindRing_kept {s₀ : State} (x0 : State) (x1 : (Nat × Nat) × Nat) (h0 : Kept s₀ x0) : Kept s₀ (rewindRing x0
    x1) := by
  unfold rewindRing
  repeat' first
    | with_reducible first
        | assumption | exact Kept.refl _ | apply setF_kept | apply putRing_kept
    | extract_lets | split | dsimp -zeta +zetaDelta only
    | exact rfl | exact id | intro _

theorem putPartOn_kept {s₀ : State} (x0 : State) (x1 : Nat) (x2 : Nat) (x3 : Nat) (x4 : CorePart) (h0 : Kept s₀ x0) :
    Kept s₀ (putPartOn x0 x1 x2 x3 x4) := by
  unfold putPartOn
  repeat' first
    | with_reducible first
        | assumption | exact Kept.refl _ | apply putPart_kept | apply putRec_kept
    | extract_lets | split | dsimp -zeta +zetaDelta only
    | with_reducible first
        | apply kept_foldl | apply kept_mk
    | exact rfl | exact id | intro _

theorem rewindTallies_kept {s₀ : State} (x0 : Item) (x1 : State) (x2 : Delivery) (h1 : Kept s₀ x1) : Kept s₀
    (rewindTallies x0 x1 x2) := by
  unfold rewindTallies
  repeat' first
    | with_reducible first
        | assumption | exact Kept.refl _ | apply putPartOn_kept
    | extract_lets | split | dsimp -zeta +zetaDelta only
    | with_reducible first
        | apply kept_foldl | apply kept_foldl_fst | apply kept_foldl_snd | apply kept_foldl_thd | apply kept_mk
    | exact rfl | exact id | intro _

theorem seqsPass_kept {s₀ : State} (x0 : State) (x1 : Nat) (x2 : Nat) (x3 : Nat) (x4 : Nat) (h0 : Kept s₀ x0) : Kept
    s₀ (seqsPass x0 x1 x2 x3 x4) := by
  unfold seqsPass
  repeat' first
    | with_reducible first
        | assumption | exact Kept.refl _ | apply mapSeqs_kept
    | extract_lets | split | dsimp -zeta +zetaDelta only
    | with_reducible first
        | apply kept_foldl | apply kept_mk
    | exact rfl | exact id | intro _

theorem launchPass_kept {s₀ : State} (x0 : State) (x1 : Nat) (x2 : Nat) (h0 : Kept s₀ x0) : Kept s₀ (launchPass x0 x1
    x2) := by
  unfold launchPass
  repeat' first
    | with_reducible first
        | assumption | exact Kept.refl _ | apply mapSeqs_kept
    | extract_lets | split | dsimp -zeta +zetaDelta only
    | with_reducible first
        | apply kept_foldl | apply kept_mk
    | exact rfl | exact id | intro _

theorem resend_kept {s₀ : State} (x0 : Item) (x1 : State) (x2 : Delivery) (h1 : Kept s₀ x1) : Kept s₀ (resend x0 x1
    x2) := by
  unfold resend
  repeat' first
    | with_reducible first
        | assumption | exact Kept.refl _ | apply launchPass_kept | apply putItem_kept
    | extract_lets | split | dsimp -zeta +zetaDelta only
    | with_reducible first
        | apply kept_foldl | apply kept_mk
    | exact rfl | exact id | intro _

theorem replayClear_kept {s₀ : State} (x0 : State) (x1 : Item) (h0 : Kept s₀ x0) : Kept s₀ (replayClear x0 x1) := by
  unfold replayClear
  repeat' first
    | with_reducible first
        | assumption | exact Kept.refl _ | apply stopDelivery_kept | apply unsend_kept | apply dropStaged_kept
        | apply rewindRing_kept
    | extract_lets | split | dsimp -zeta +zetaDelta only
    | with_reducible first
        | apply kept_foldl | apply kept_mk
    | exact rfl | exact id | intro _

theorem replayFail_kept {s₀ : State} (x0 : State) (x1 : Nat) (h0 : Kept s₀ x0) : Kept s₀ (replayFail x0 x1) := by
  unfold replayFail
  repeat' first
    | with_reducible first
        | assumption | apply dropMarks_kept | apply itemError_kept
    | split

theorem replayStart_kept {s₀ : State} (x0 : State) (x1 : Item) (h0 : Kept s₀ x0) : Kept s₀ (replayStart x0 x1) := by
  have al : ∀ (l : List Delivery) (o : Option State), (∀ t, o = some t → Kept s₀ t) →
      ∀ t, l.foldl aliasSet o = some t → Kept s₀ t := by
    intro l
    induction l with
    | nil => exact fun o h => h
    | cons d r ih =>
      refine fun o h => ih _ (fun t ht => ?_)
      unfold aliasSet at ht
      split at ht
      · cases ht
      · split at ht
        · cases ht; exact h _ rfl
        · extract_lets pg old a at ht
          split at ht
          · cases ht
            exact seqsPass_kept _ _ _ _ _ (recMask_kept _ _ _ _ _ (setB_kept _ _ _ _ _ (setF_kept _ _ _ _ _ (h _ rfl))))
          · cases ht
  unfold replayStart
  split
  · exact replayFail_kept _ _ h0
  split
  · exact putItem_kept _ _ h0
  split
  · exact replayFail_kept _ _ h0
  rename_i s1 hs
  have k := al _ _ (fun t h => by cases h; exact h0) _ hs
  exact itemNote_kept _ _ _ (bumpF_kept _ _ _ _ _ (kept_foldl (fun t y ht => resend_kept _ _ _ ht)
    (putItem_kept _ _ (kept_foldl (fun t y ht => rewindTallies_kept _ _ _ ht) k))))

theorem itemReplayEffect_kept {s₀ : State} (x0 : Nat) (x1 : State) (h1 : Kept s₀ x1) : Kept s₀ (itemReplayEffect x0
    x1) := by
  unfold itemReplayEffect
  repeat' first
    | with_reducible first
        | assumption | exact Kept.refl _ | apply replayStart_kept | apply replayClear_kept
    | extract_lets | split | dsimp -zeta +zetaDelta only
    | with_reducible first
        | apply kept_foldl | apply kept_mk
    | exact rfl | exact id | intro _

theorem execItemReplay_kept {s₀ : State} (x0 : Nat) (x1 : State) (h1 : Kept s₀ x1) : ∀ t, execItemReplay x0 x1 = .next
    t → Kept s₀ t := by
  intro t ht
  unfold execItemReplay at ht
  cases ht
  repeat' first
    | with_reducible first
        | assumption | exact Kept.refl _ | apply clocked_kept | apply itemReplayEffect_kept
    | extract_lets | split | dsimp -zeta +zetaDelta only
    | exact rfl | exact id | intro _

theorem receiptExpiryEffect_kept {s₀ : State} (x0 : State) (h0 : Kept s₀ x0) : Kept s₀ (receiptExpiryEffect x0) := by
  unfold receiptExpiryEffect
  repeat' first
    | with_reducible first
        | assumption | exact Kept.refl _ | apply bumpF_kept
    | extract_lets | split | dsimp -zeta +zetaDelta only
    | with_reducible first
        | apply kept_foldl | apply kept_mk
    | exact rfl | exact id | intro _

theorem execReceiptExpiry_kept {s₀ : State} (x0 : State) (h0 : Kept s₀ x0) : ∀ t, execReceiptExpiry x0 = .next t →
    Kept s₀ t := by
  intro t ht
  unfold execReceiptExpiry at ht
  cases ht
  repeat' first
    | with_reducible first
        | assumption | exact Kept.refl _ | apply clocked_kept | apply receiptExpiryEffect_kept
    | extract_lets | split | dsimp -zeta +zetaDelta only
    | exact rfl | exact id | intro _

theorem putIrq_kept {s₀ : State} (x0 : State) (x1 : IrqSt) (h0 : Kept s₀ x0) : Kept s₀ (putIrq x0 x1) := by
  unfold putIrq
  repeat' first
    | with_reducible first
        | assumption | exact Kept.refl _
    | extract_lets | split | dsimp -zeta +zetaDelta only
    | with_reducible first
        | apply kept_foldl | apply kept_mk
    | exact rfl | exact id | intro _

theorem putShared_kept {s₀ : State} (x0 : State) (x1 : Nat) (x2 : IrqShared) (h0 : Kept s₀ x0) : Kept s₀ (putShared x0
    x1 x2) := by
  unfold putShared
  repeat' first
    | with_reducible first
        | assumption | exact Kept.refl _ | apply putIrq_kept
    | extract_lets | split | dsimp -zeta +zetaDelta only
    | with_reducible first
        | apply kept_foldl | apply kept_mk
    | exact rfl | exact id | intro _

theorem putPriv_kept {s₀ : State} (x0 : State) (x1 : Nat) (x2 : Nat) (x3 : SrcSt) (h0 : Kept s₀ x0) : Kept s₀ (putPriv
    x0 x1 x2 x3) := by
  unfold putPriv
  repeat' first
    | with_reducible first
        | assumption | exact Kept.refl _ | apply putIrq_kept
    | extract_lets | split | dsimp -zeta +zetaDelta only
    | with_reducible first
        | apply kept_foldl | apply kept_mk
    | exact rfl | exact id | intro _

theorem raiseInBand_kept {s₀ : State} (x0 : State) (x1 : Nat) (h0 : Kept s₀ x0) : Kept s₀ (raiseInBand x0 x1) := by
  unfold raiseInBand
  repeat' first
    | with_reducible first
        | assumption | exact Kept.refl _ | apply putShared_kept | apply putIrq_kept
    | extract_lets | split | dsimp -zeta +zetaDelta only
    | with_reducible first
        | apply kept_foldl | apply kept_mk
    | exact rfl | exact id | intro _

theorem setShared_kept {s₀ : State} (x0 : State) (x1 : Nat) (x2 : SrcSt) (h0 : Kept s₀ x0) : Kept s₀ (setShared x0 x1
    x2) := by
  unfold setShared
  repeat' first
    | with_reducible first
        | assumption | exact Kept.refl _ | apply raiseInBand_kept | apply putShared_kept
    | extract_lets | split | dsimp -zeta +zetaDelta only
    | with_reducible first
        | apply kept_foldl | apply kept_mk
    | exact rfl | exact id | intro _

theorem privEdgeEvent_kept {s₀ : State} (x0 : State) (x1 : Nat) (x2 : Nat) (h0 : Kept s₀ x0) : Kept s₀ (privEdgeEvent
    x0 x1 x2) := by
  unfold privEdgeEvent
  repeat' first
    | with_reducible first
        | assumption | exact Kept.refl _ | apply putPriv_kept | apply bumpF_kept
    | extract_lets | split | dsimp -zeta +zetaDelta only
    | exact rfl | exact id | intro _

theorem sharedEdgeEvent_kept {s₀ : State} (x0 : State) (x1 : Nat) (h0 : Kept s₀ x0) : Kept s₀ (sharedEdgeEvent x0 x1)
    := by
  unfold sharedEdgeEvent
  repeat' first
    | with_reducible first
        | assumption | exact Kept.refl _ | apply setShared_kept | apply bumpF_kept
    | extract_lets | split | dsimp -zeta +zetaDelta only
    | exact rfl | exact id | intro _

theorem execIrqLevelChange_kept {s₀ : State} (x0 : Bool) (x1 : Fin 9) (x2 : Nat) (x3 : State) (h3 : Kept s₀ x3) : ∀ t,
    execIrqLevelChange x0 x1 x2 x3 = .next t → Kept s₀ t := by
  intro t ht
  unfold execIrqLevelChange at ht
  cases ht
  repeat' first
    | with_reducible first
        | assumption | exact Kept.refl _ | apply clocked_kept | apply setShared_kept | apply putPriv_kept
    | extract_lets | split | dsimp -zeta +zetaDelta only
    | exact rfl | exact id | intro _

theorem execIrqEdge_kept {s₀ : State} (x0 : Bool) (x1 : Fin 9) (x2 : Nat) (x3 : State) (h3 : Kept s₀ x3) : ∀ t,
    execIrqEdge x0 x1 x2 x3 = .next t → Kept s₀ t := by
  intro t ht
  unfold execIrqEdge at ht
  cases ht
  repeat' first
    | with_reducible first
        | assumption | exact Kept.refl _ | apply clocked_kept | apply sharedEdgeEvent_kept
        | apply privEdgeEvent_kept
    | extract_lets | split | dsimp -zeta +zetaDelta only
    | exact rfl | exact id | intro _

theorem putStack_kept {s₀ : State} (x0 : State) (x1 : Nat) (x2 : List Nat) (h0 : Kept s₀ x0) : Kept s₀ (putStack x0 x1
    x2) := by
  unfold putStack
  repeat' first
    | with_reducible first
        | assumption | exact Kept.refl _ | apply putIrq_kept
    | extract_lets | split | dsimp -zeta +zetaDelta only
    | with_reducible first
        | apply kept_foldl | apply kept_mk
    | exact rfl | exact id | intro _

theorem irqOwn_kept {s₀ : State} (x0 : State) (x1 : Nat) (x2 : Nat) (x3 : Nat) (x4 : State) (h0 : Kept s₀ x0) (h4 :
    Kept s₀ x4) : Kept s₀ (irqOwn x0 x1 x2 x3 x4) := by
  unfold irqOwn
  repeat' first
    | with_reducible first
        | assumption | apply rejectPath_kept | apply reject_kept
    | split

theorem irqSettle_kept {s₀ : State} (x0 : State) (x1 : Nat) (h0 : Kept s₀ x0) : Kept s₀ (irqSettle x0 x1) := by
  unfold irqSettle
  repeat' first
    | with_reducible first
        | assumption | exact Kept.refl _ | apply putPriv_kept | apply putShared_kept
    | extract_lets | split | dsimp -zeta +zetaDelta only
    | with_reducible first
        | apply kept_foldl | apply kept_foldl_fst | apply kept_foldl_snd | apply kept_foldl_thd | apply kept_mk
    | exact rfl | exact id | intro _

theorem irqClaimEffect_kept {s₀ : State} (x0 : Nat) (x1 : State) (h1 : Kept s₀ x1) : Kept s₀ (irqClaimEffect x0 x1) :=
    by
  unfold irqClaimEffect
  repeat' first
    | with_reducible first
        | assumption | exact Kept.refl _ | apply irqSettle_kept | apply putIrq_kept | apply putPriv_kept
        | apply putShared_kept | apply putStack_kept
    | extract_lets | split | dsimp -zeta +zetaDelta only
    | with_reducible first
        | apply kept_foldl | apply kept_mk
    | exact rfl | exact id | intro _

theorem execIrqClaim_kept {s₀ : State} (x0 : Fin 9) (x1 : Fin 13) (x2 : State) (h2 : Kept s₀ x2) : ∀ t, execIrqClaim
    x0 x1 x2 = .next t → Kept s₀ t := by
  intro t ht
  unfold execIrqClaim at ht
  cases ht
  repeat' first
    | with_reducible first
        | assumption | exact Kept.refl _ | apply clocked_kept | apply irqOwn_kept | apply irqClaimEffect_kept
    | extract_lets | split | dsimp -zeta +zetaDelta only
    | exact rfl | exact id | intro _

theorem sharedDone_kept {s₀ : State} (x0 : State) (x1 : Nat) (h0 : Kept s₀ x0) : Kept s₀ (sharedDone x0 x1) := by
  unfold sharedDone
  repeat' first
    | with_reducible first
        | assumption | exact Kept.refl _ | apply raiseInBand_kept | apply putShared_kept
    | extract_lets | split | dsimp -zeta +zetaDelta only
    | with_reducible first
        | apply kept_foldl | apply kept_mk
    | exact rfl | exact id | intro _

theorem idDone_kept {s₀ : State} (x0 : State) (x1 : Nat) (x2 : Nat) (h0 : Kept s₀ x0) : Kept s₀ (idDone x0 x1 x2) :=
    by
  unfold idDone
  repeat' first
    | with_reducible first
        | assumption | apply putPriv_kept | apply sharedDone_kept
    | split

theorem irqStackFault_kept {s₀ : State} (x0 : State) (x1 : Nat) (x2 : Nat) (h0 : Kept s₀ x0) : Kept s₀ (irqStackFault
    x0 x1 x2) := by
  unfold irqStackFault
  repeat' first
    | with_reducible first
        | assumption | exact Kept.refl _ | apply setB_kept | apply setF_kept | apply putIrq_kept
        | apply elogAdd_kept
    | extract_lets | split | dsimp -zeta +zetaDelta only
    | with_reducible first
        | apply kept_foldl | apply kept_mk
    | exact rfl | exact id | intro _

theorem irqCompleteEffect_kept {s₀ : State} (x0 : Nat) (x1 : Nat) (x2 : State) (h2 : Kept s₀ x2) : Kept s₀
    (irqCompleteEffect x0 x1 x2) := by
  unfold irqCompleteEffect
  repeat' first
    | with_reducible first
        | assumption | apply idDone_kept | apply putStack_kept | apply irqStackFault_kept
    | split

theorem execIrqComplete_kept {s₀ : State} (x0 : Fin 9) (x1 : Fin 4096) (x2 : Fin 13) (x3 : State) (h3 : Kept s₀ x3) :
    ∀ t, execIrqComplete x0 x1 x2 x3 = .next t → Kept s₀ t := by
  intro t ht
  unfold execIrqComplete at ht
  cases ht
  repeat' first
    | with_reducible first
        | assumption | exact Kept.refl _ | apply clocked_kept | apply irqOwn_kept | apply irqCompleteEffect_kept
    | extract_lets | split | dsimp -zeta +zetaDelta only
    | exact rfl | exact id | intro _

theorem irqEmpty_kept {s₀ : State} (x0 : Nat) (x1 : State) (h1 : Kept s₀ x1) : Kept s₀ (irqEmpty x0 x1) := by
  unfold irqEmpty
  repeat' first
    | with_reducible first
        | assumption | exact Kept.refl _ | apply idDone_kept | apply putStack_kept
    | extract_lets | split | dsimp -zeta +zetaDelta only
    | with_reducible first
        | apply kept_foldl | apply kept_mk
    | exact rfl | exact id | intro _

theorem execIrqStackReset_kept {s₀ : State} (x0 : Fin 9) (x1 : Fin 13) (x2 : State) (h2 : Kept s₀ x2) : ∀ t,
    execIrqStackReset x0 x1 x2 = .next t → Kept s₀ t := by
  intro t ht
  unfold execIrqStackReset at ht
  cases ht
  repeat' first
    | with_reducible first
        | assumption | exact Kept.refl _ | apply clocked_kept | apply irqOwn_kept | apply irqEmpty_kept
    | extract_lets | split | dsimp -zeta +zetaDelta only
    | exact rfl | exact id | intro _

theorem irqpSwSetEffect_kept {s₀ : State} (x0 : Nat) (x1 : Nat) (x2 : Nat) (x3 : State) (h3 : Kept s₀ x3) : Kept s₀
    (irqpSwSetEffect x0 x1 x2 x3) := by
  unfold irqpSwSetEffect
  repeat' first
    | with_reducible first
        | assumption | exact Kept.refl _ | apply rejectPath_kept | apply reject_kept | apply privEdgeEvent_kept
    | extract_lets | split | dsimp -zeta +zetaDelta only
    | with_reducible first
        | apply kept_foldl | apply kept_mk
    | exact rfl | exact id | intro _

theorem execIrqpSwSet_kept {s₀ : State} (x0 : Fin 9) (x1 : Fin 65536) (x2 : Fin 13) (x3 : State) (h3 : Kept s₀ x3) : ∀
    t, execIrqpSwSet x0 x1 x2 x3 = .next t → Kept s₀ t := by
  intro t ht
  unfold execIrqpSwSet at ht
  cases ht
  repeat' first
    | with_reducible first
        | assumption | exact Kept.refl _ | apply clocked_kept | apply irqpSwSetEffect_kept
    | extract_lets | split | dsimp -zeta +zetaDelta only
    | exact rfl | exact id | intro _

theorem execIrqTimer_kept {s₀ : State} (x0 : Fin 9) (x1 : State) (h1 : Kept s₀ x1) : ∀ t, execIrqTimer x0 x1 = .next t
    → Kept s₀ t := by
  intro t ht
  unfold execIrqTimer at ht
  cases ht
  repeat' first
    | with_reducible first
        | assumption | exact Kept.refl _ | apply clocked_kept | apply privEdgeEvent_kept | apply putIrq_kept
    | extract_lets | split | dsimp -zeta +zetaDelta only
    | with_reducible first
        | apply kept_foldl | apply kept_mk
    | exact rfl | exact id | intro _

theorem irqSwSetEffect_kept {s₀ : State} (x0 : Nat) (x1 : Nat) (x2 : State) (h2 : Kept s₀ x2) : Kept s₀
    (irqSwSetEffect x0 x1 x2) := by
  unfold irqSwSetEffect
  repeat' first
    | with_reducible first
        | assumption | apply reject_kept | apply sharedEdgeEvent_kept
    | split

theorem execIrqSwSet_kept {s₀ : State} (x0 : Fin 1024) (x1 : Nat) (x2 : State) (h2 : Kept s₀ x2) : ∀ t, execIrqSwSet
    x0 x1 x2 = .next t → Kept s₀ t := by
  intro t ht
  unfold execIrqSwSet at ht
  cases ht
  repeat' first
    | with_reducible first
        | assumption | exact Kept.refl _ | apply clocked_kept | apply guarded_kept | apply irqSwSetEffect_kept
    | extract_lets | split | dsimp -zeta +zetaDelta only
    | exact rfl | exact id | intro _

theorem irqEoiEffect_kept {s₀ : State} (x0 : Fin 1024) (x1 : Nat) (x2 : State) (h2 : Kept s₀ x2) : Kept s₀
    (irqEoiEffect x0 x1 x2) := by
  unfold irqEoiEffect
  repeat' first
    | with_reducible first
        | assumption | exact Kept.refl _ | apply sharedDone_kept | apply reject_kept
    | extract_lets | split | dsimp -zeta +zetaDelta only
    | exact rfl | exact id | intro _

theorem execIrqEoi_kept {s₀ : State} (x0 : Fin 1024) (x1 : Nat) (x2 : State) (h2 : Kept s₀ x2) : ∀ t, execIrqEoi x0 x1
    x2 = .next t → Kept s₀ t := by
  intro t ht
  unfold execIrqEoi at ht
  cases ht
  repeat' first
    | with_reducible first
        | assumption | exact Kept.refl _ | apply clocked_kept | apply guarded_kept | apply irqEoiEffect_kept
    | extract_lets | split | dsimp -zeta +zetaDelta only
    | exact rfl | exact id | intro _

theorem irqTargetWriteEffect_kept {s₀ : State} (x0 : Fin 16) (x1 : Fin 16) (x2 : Bool) (x3 : Nat) (x4 : State) (h4 :
    Kept s₀ x4) : Kept s₀ (irqTargetWriteEffect x0 x1 x2 x3 x4) := by
  unfold irqTargetWriteEffect
  repeat' first
    | with_reducible first
        | assumption | exact Kept.refl _ | apply reject_kept | apply raiseInBand_kept | apply putShared_kept
    | extract_lets | split | dsimp -zeta +zetaDelta only
    | with_reducible first
        | apply kept_foldl | apply kept_mk
    | exact rfl | exact id | intro _

theorem execIrqTargetWrite_kept {s₀ : State} (x0 : Fin 16) (x1 : Fin 16) (x2 : Bool) (x3 : Nat) (x4 : State) (h4 :
    Kept s₀ x4) : ∀ t, execIrqTargetWrite x0 x1 x2 x3 x4 = .next t → Kept s₀ t := by
  intro t ht
  unfold execIrqTargetWrite at ht
  cases ht
  repeat' first
    | with_reducible first
        | assumption | exact Kept.refl _ | apply clocked_kept | apply guarded_kept
        | apply irqTargetWriteEffect_kept
    | extract_lets | split | dsimp -zeta +zetaDelta only
    | exact rfl | exact id | intro _

theorem msiSend_kept {s₀ : State} (x0 : State) (x1 : Nat) (x2 : Nat) (h0 : Kept s₀ x0) : Kept s₀ (msiSend x0 x1 x2) :=
    by
  unfold msiSend
  repeat' first
    | with_reducible first
        | assumption | exact Kept.refl _ | apply putIrq_kept
    | extract_lets | split | dsimp -zeta +zetaDelta only
    | with_reducible first
        | apply kept_foldl | apply kept_mk
    | exact rfl | exact id | intro _

theorem sourceSent_kept {s₀ : State} (x0 : State) (x1 : Nat) (x2 : Nat) (h0 : Kept s₀ x0) : Kept s₀ (sourceSent x0 x1
    x2) := by
  unfold sourceSent
  repeat' first
    | with_reducible first
        | assumption | exact Kept.refl _ | apply putShared_kept
    | extract_lets | split | dsimp -zeta +zetaDelta only
    | with_reducible first
        | apply kept_foldl | apply kept_mk
    | exact rfl | exact id | intro _

theorem msixSendEffect_kept {s₀ : State} (x0 : Fin 3) (x1 : Fin 128) (x2 : Nat) (x3 : State) (h3 : Kept s₀ x3) : Kept
    s₀ (msixSendEffect x0 x1 x2 x3) := by
  unfold msixSendEffect
  repeat' first
    | with_reducible first
        | assumption | exact Kept.refl _ | apply msiSend_kept | apply putIrq_kept | apply sourceSent_kept
    | extract_lets | split | dsimp -zeta +zetaDelta only
    | with_reducible first
        | apply kept_foldl | apply kept_mk
    | exact rfl | exact id | intro _

theorem execMsixSend_kept {s₀ : State} (x0 : Fin 3) (x1 : Fin 128) (x2 : Nat) (x3 : State) (h3 : Kept s₀ x3) : ∀ t,
    execMsixSend x0 x1 x2 x3 = .next t → Kept s₀ t := by
  intro t ht
  unfold execMsixSend at ht
  cases ht
  repeat' first
    | with_reducible first
        | assumption | exact Kept.refl _ | apply clocked_kept | apply msixSendEffect_kept
    | extract_lets | split | dsimp -zeta +zetaDelta only
    | exact rfl | exact id | intro _

theorem msixEntryUnmaskEffect_kept {s₀ : State} (x0 : Fin 128) (x1 : Nat) (x2 : State) (h2 : Kept s₀ x2) : Kept s₀
    (msixEntryUnmaskEffect x0 x1 x2) := by
  unfold msixEntryUnmaskEffect
  repeat' first
    | with_reducible first
        | assumption | exact Kept.refl _ | apply putIrq_kept | apply sourceSent_kept | apply msiSend_kept
    | extract_lets | split | dsimp -zeta +zetaDelta only
    | with_reducible first
        | apply kept_foldl | apply kept_mk
    | exact rfl | exact id | intro _

theorem execMsixEntryUnmask_kept {s₀ : State} (x0 : Fin 128) (x1 : Nat) (x2 : State) (h2 : Kept s₀ x2) : ∀ t,
    execMsixEntryUnmask x0 x1 x2 = .next t → Kept s₀ t := by
  intro t ht
  unfold execMsixEntryUnmask at ht
  cases ht
  repeat' first
    | with_reducible first
        | assumption | exact Kept.refl _ | apply clocked_kept | apply msixEntryUnmaskEffect_kept
    | extract_lets | split | dsimp -zeta +zetaDelta only
    | exact rfl | exact id | intro _

theorem ownEvent_kept {s₀ : State} (x0 : State) (x1 : Nat) (h0 : Kept s₀ x0) : Kept s₀ (ownEvent x0 x1) := by
  unfold ownEvent
  repeat' first
    | with_reducible first
        | assumption | exact Kept.refl _ | apply irqSrc_kept | apply putIrq_kept
    | extract_lets | split | dsimp -zeta +zetaDelta only
    | with_reducible first
        | apply kept_foldl | apply kept_mk
    | exact rfl | exact id | intro _

theorem fnWrite_kept {s₀ : State} (x0 : State) (x1 : Nat) (x2 : Nat) (x3 : Nat) (x4 : State) (h0 : Kept s₀ x0) (h4 :
    Kept s₀ x4) : Kept s₀ (fnWrite x0 x1 x2 x3 x4) := by
  unfold fnWrite
  repeat' first
    | with_reducible first
        | assumption | apply reject_kept
    | split

theorem doorbellEffect_kept {s₀ : State} (x0 : Fin 128) (x1 : Fin 16) (x2 : Nat) (x3 : State) (h3 : Kept s₀ x3) : Kept
    s₀ (doorbellEffect x0 x1 x2 x3) := by
  unfold doorbellEffect
  repeat' first
    | with_reducible first
        | assumption | apply irqSrc_kept | apply blkErr_kept | apply setF_kept
    | split

theorem execDoorbell_kept {s₀ : State} (x0 : Fin 128) (x1 : Fin 16) (x2 : Nat) (x3 : State) (h3 : Kept s₀ x3) : ∀ t,
    execDoorbell x0 x1 x2 x3 = .next t → Kept s₀ t := by
  intro t ht
  unfold execDoorbell at ht
  cases ht
  repeat' first
    | with_reducible first
        | assumption | exact Kept.refl _ | apply clocked_kept | apply fnWrite_kept | apply doorbellEffect_kept
    | extract_lets | split | dsimp -zeta +zetaDelta only
    | exact rfl | exact id | intro _

theorem submissionEntryReadEffect_kept {s₀ : State} (x0 : Fin 128) (x1 : Fin 16) (x2 : List Nat) (x3 : State) (h3 :
    Kept s₀ x3) : Kept s₀ (submissionEntryReadEffect x0 x1 x2 x3) := by
  unfold submissionEntryReadEffect
  repeat' first
    | with_reducible first
        | assumption | exact Kept.refl _ | apply hostSpoke_kept | apply entryRefused_kept
    | extract_lets | split | dsimp -zeta +zetaDelta only
    | with_reducible first
        | apply kept_foldl | apply kept_mk
    | exact rfl | exact id | intro _

theorem execSubmissionEntryRead_kept {s₀ : State} (x0 : Fin 128) (x1 : Fin 16) (x2 : List Nat) (x3 : State) (h3 : Kept
    s₀ x3) : ∀ t, execSubmissionEntryRead x0 x1 x2 x3 = .next t → Kept s₀ t := by
  intro t ht
  unfold execSubmissionEntryRead at ht
  cases ht
  repeat' first
    | with_reducible first
        | assumption | exact Kept.refl _ | apply clocked_kept | apply submissionEntryReadEffect_kept
    | extract_lets | split | dsimp -zeta +zetaDelta only
    | exact rfl | exact id | intro _

theorem acceptLaunch_kept {s₀ : State} (x0 : State) (x1 : Nat) (x2 : Nat) (x3 : LaunchEntry) (h0 : Kept s₀ x0) : Kept
    s₀ (acceptLaunch x0 x1 x2 x3) := by
  unfold acceptLaunch
  repeat' first
    | with_reducible first
        | assumption | exact Kept.refl _ | apply takeSeq_kept | apply itemOpen_kept | apply sendLaunch_kept
        | apply cqPush_kept
    | extract_lets | split | dsimp -zeta +zetaDelta only
    | with_reducible first
        | apply kept_foldl | apply kept_foldl_fst | apply kept_foldl_snd | apply kept_foldl_thd | apply kept_mk
    | exact rfl | exact id | intro _

theorem entryAcceptEffect_kept {s₀ : State} (x0 : Fin 128) (x1 : Fin 16) (x2 : State) (h2 : Kept s₀ x2) : Kept s₀
    (entryAcceptEffect x0 x1 x2) := by
  unfold entryAcceptEffect
  repeat' first
    | with_reducible first
        | assumption | exact Kept.refl _ | apply acceptRequest_kept | apply acceptLaunch_kept | apply setF_kept
    | extract_lets | split | dsimp -zeta +zetaDelta only
    | with_reducible first
        | apply kept_foldl | apply kept_mk
    | exact rfl | exact id | intro _

theorem execEntryAccept_kept {s₀ : State} (x0 : Fin 128) (x1 : Fin 16) (x2 : State) (h2 : Kept s₀ x2) : ∀ t,
    execEntryAccept x0 x1 x2 = .next t → Kept s₀ t := by
  intro t ht
  unfold execEntryAccept at ht
  cases ht
  repeat' first
    | with_reducible first
        | assumption | exact Kept.refl _ | apply clocked_kept | apply entryAcceptEffect_kept
    | extract_lets | split | dsimp -zeta +zetaDelta only
    | exact rfl | exact id | intro _

theorem cqFullNote_kept {s₀ : State} (x0 : State) (x1 : Nat) (x2 : Nat) (h0 : Kept s₀ x0) : Kept s₀ (cqFullNote x0 x1
    x2) := by
  unfold cqFullNote
  repeat' first
    | with_reducible first
        | assumption | exact Kept.refl _ | apply setF_kept
    | extract_lets | split | dsimp -zeta +zetaDelta only
    | with_reducible first
        | apply kept_foldl | apply kept_mk
    | exact rfl | exact id | intro _

theorem cqRecordWriteEffect_kept {s₀ : State} (x0 : Fin 128) (x1 : Fin 16) (x2 : State) (h2 : Kept s₀ x2) : Kept s₀
    (cqRecordWriteEffect x0 x1 x2) := by
  unfold cqRecordWriteEffect
  repeat' first
    | with_reducible first
        | assumption | exact Kept.refl _ | apply hostPost_kept | apply setF_kept | apply putIrq_kept
        | apply cqFullNote_kept
    | extract_lets | split | dsimp -zeta +zetaDelta only
    | with_reducible first
        | apply kept_foldl | apply kept_mk
    | exact rfl | exact id | intro _

theorem execCqRecordWrite_kept {s₀ : State} (x0 : Fin 128) (x1 : Fin 16) (x2 : State) (h2 : Kept s₀ x2) : ∀ t,
    execCqRecordWrite x0 x1 x2 = .next t → Kept s₀ t := by
  intro t ht
  unfold execCqRecordWrite at ht
  cases ht
  repeat' first
    | with_reducible first
        | assumption | exact Kept.refl _ | apply clocked_kept | apply cqRecordWriteEffect_kept
    | extract_lets | split | dsimp -zeta +zetaDelta only
    | exact rfl | exact id | intro _

theorem cqStallEffect_kept {s₀ : State} (x0 : Fin 128) (x1 : Fin 16) (x2 : State) (h2 : Kept s₀ x2) : Kept s₀
    (cqStallEffect x0 x1 x2) := by
  unfold cqStallEffect
  repeat' first
    | with_reducible first
        | assumption | apply irqSrc_kept | apply blkErr_kept | apply setB_kept
    | split

theorem execCqStall_kept {s₀ : State} (x0 : Fin 128) (x1 : Fin 16) (x2 : State) (h2 : Kept s₀ x2) : ∀ t, execCqStall
    x0 x1 x2 = .next t → Kept s₀ t := by
  intro t ht
  unfold execCqStall at ht
  cases ht
  repeat' first
    | with_reducible first
        | assumption | exact Kept.refl _ | apply clocked_kept | apply cqStallEffect_kept
    | extract_lets | split | dsimp -zeta +zetaDelta only
    | exact rfl | exact id | intro _

theorem sqEnableEffect_kept {s₀ : State} (x0 : Fin 128) (x1 : Fin 16) (x2 : Bool) (x3 : State) (h3 : Kept s₀ x3) :
    Kept s₀ (sqEnableEffect x0 x1 x2 x3) := by
  unfold sqEnableEffect
  repeat' first
    | with_reducible first
        | assumption | exact Kept.refl _ | apply setB_kept | apply cqFullNote_kept | apply setF_kept
    | extract_lets | split | dsimp -zeta +zetaDelta only
    | exact rfl | exact id | intro _

theorem execSqEnable_kept {s₀ : State} (x0 : Fin 128) (x1 : Fin 16) (x2 : Bool) (x3 : State) (h3 : Kept s₀ x3) : ∀ t,
    execSqEnable x0 x1 x2 x3 = .next t → Kept s₀ t := by
  intro t ht
  unfold execSqEnable at ht
  cases ht
  repeat' first
    | with_reducible first
        | assumption | exact Kept.refl _ | apply clocked_kept | apply fnWrite_kept | apply sqEnableEffect_kept
    | extract_lets | split | dsimp -zeta +zetaDelta only
    | exact rfl | exact id | intro _

theorem linkSet_kept {s₀ : State} (x0 : State) (x1 : Nat) (x2 : Nat) (h0 : Kept s₀ x0) : Kept s₀ (linkSet x0 x1 x2) :=
    by
  unfold linkSet
  repeat' first
    | with_reducible first
        | assumption | apply setF_kept
    | split

theorem pciePortFailEffect_kept {s₀ : State} (x0 : Fin 2) (x1 : State) (h1 : Kept s₀ x1) : Kept s₀ (pciePortFailEffect
    x0 x1) := by
  unfold pciePortFailEffect
  repeat' first
    | with_reducible first
        | assumption | exact Kept.refl _ | apply linkSet_kept
    | extract_lets | split | dsimp -zeta +zetaDelta only
    | with_reducible first
        | apply kept_foldl | apply kept_mk
    | exact rfl | exact id | intro _

theorem execPciePortFail_kept {s₀ : State} (x0 : Fin 2) (x1 : Bool) (x2 : State) (h2 : Kept s₀ x2) : ∀ t,
    execPciePortFail x0 x1 x2 = .next t → Kept s₀ t := by
  intro t ht
  unfold execPciePortFail at ht
  cases ht
  repeat' first
    | with_reducible first
        | assumption | exact Kept.refl _ | apply clocked_kept | apply pciePortFailEffect_kept
    | extract_lets | split | dsimp -zeta +zetaDelta only
    | exact rfl | exact id | intro _

theorem linkLost_kept {s₀ : State} (x0 : State) (x1 : Nat) (h0 : Kept s₀ x0) : Kept s₀ (linkLost x0 x1) := by
  unfold linkLost
  repeat' first
    | with_reducible first
        | assumption | exact Kept.refl _ | apply linkSet_kept
    | extract_lets | split | dsimp -zeta +zetaDelta only
    | with_reducible first
        | apply kept_foldl | apply kept_mk
    | exact rfl | exact id | intro _

theorem execPcieLinkDown_kept {s₀ : State} (x0 : Fin 2) (x1 : State) (h1 : Kept s₀ x1) : ∀ t, execPcieLinkDown x0 x1 =
    .next t → Kept s₀ t := by
  intro t ht
  unfold execPcieLinkDown at ht
  cases ht
  repeat' first
    | with_reducible first
        | assumption | exact Kept.refl _ | apply clocked_kept | apply linkLost_kept
    | extract_lets | split | dsimp -zeta +zetaDelta only
    | exact rfl | exact id | intro _

theorem portItemsFree_kept {s₀ : State} (x0 : State) (x1 : Nat) (h0 : Kept s₀ x0) : Kept s₀ (portItemsFree x0 x1) :=
    by
  unfold portItemsFree
  repeat' first
    | with_reducible first
        | assumption | exact Kept.refl _
    | extract_lets | split | dsimp -zeta +zetaDelta only
    | with_reducible first
        | apply kept_foldl | apply kept_mk
    | exact rfl | exact id | intro _

theorem pcieLinkUpEffect_kept {s₀ : State} (x0 : Fin 2) (x1 : Fin 6) (x2 : Fin 5) (x3 : Bool) (x4 : State) (h4 : Kept
    s₀ x4) : Kept s₀ (pcieLinkUpEffect x0 x1 x2 x3 x4) := by
  unfold pcieLinkUpEffect
  repeat' first
    | with_reducible first
        | assumption | exact Kept.refl _ | apply setF_kept | apply setB_kept | apply portItemsFree_kept
    | extract_lets | split | dsimp -zeta +zetaDelta only
    | with_reducible first
        | apply kept_foldl | apply kept_mk
    | exact rfl | exact id | intro _

theorem execPcieLinkUp_kept {s₀ : State} (x0 : Fin 2) (x1 : Fin 6) (x2 : Fin 5) (x3 : Bool) (x4 : State) (h4 : Kept s₀
    x4) : ∀ t, execPcieLinkUp x0 x1 x2 x3 x4 = .next t → Kept s₀ t := by
  intro t ht
  unfold execPcieLinkUp at ht
  cases ht
  repeat' first
    | with_reducible first
        | assumption | exact Kept.refl _ | apply clocked_kept | apply pcieLinkUpEffect_kept
    | extract_lets | split | dsimp -zeta +zetaDelta only
    | exact rfl | exact id | intro _

theorem powerStateWrite_kept {s₀ : State} (x0 : Nat) (x1 : Nat) (x2 : State) (h2 : Kept s₀ x2) : Kept s₀
    (powerStateWrite x0 x1 x2) := by
  unfold powerStateWrite
  repeat' first
    | with_reducible first
        | assumption | exact Kept.refl _
    | extract_lets | split | dsimp -zeta +zetaDelta only
    | with_reducible first
        | apply kept_foldl | apply kept_mk
    | exact rfl | exact id | intro _

theorem pcieConfigWriteEffect_kept {s₀ : State} (x0 : Fin 2) (x1 : Fin 4) (x2 : Nat) (x3 : State) (h3 : Kept s₀ x3) :
    Kept s₀ (pcieConfigWriteEffect x0 x1 x2 x3) := by
  unfold pcieConfigWriteEffect
  repeat' first
    | with_reducible first
        | assumption | exact Kept.refl _ | apply functionReset_kept | apply powerStateWrite_kept
    | extract_lets | split | dsimp -zeta +zetaDelta only
    | with_reducible first
        | apply kept_foldl | apply kept_mk
    | exact rfl | exact id | intro _

theorem execPcieConfigWrite_kept {s₀ : State} (x0 : Fin 2) (x1 : Fin 4) (x2 : Nat) (x3 : State) (h3 : Kept s₀ x3) : ∀
    t, execPcieConfigWrite x0 x1 x2 x3 = .next t → Kept s₀ t := by
  intro t ht
  unfold execPcieConfigWrite at ht
  cases ht
  repeat' first
    | with_reducible first
        | assumption | exact Kept.refl _ | apply clocked_kept | apply pcieConfigWriteEffect_kept
    | extract_lets | split | dsimp -zeta +zetaDelta only
    | exact rfl | exact id | intro _

theorem poisonData_kept {s₀ : State} (x0 : State) (x1 : Nat) (x2 : List Byte) (h0 : Kept s₀ x0) : Kept s₀ (poisonData
    x0 x1 x2).2 := by
  unfold poisonData
  repeat' first
    | with_reducible first
        | assumption | exact Kept.refl _
    | extract_lets | split | dsimp -zeta +zetaDelta only
    | with_reducible first
        | apply kept_foldl | apply kept_mk
    | exact rfl | exact id | intro _

theorem aperLines_kept {s₀ : State} (x0 : Bool) (x1 : Nat) (x2 : State) (x3 : Nat) (x4 : Nat) (h2 : Kept s₀ x2) : Kept
    s₀ (aperLines x0 x1 x2 x3 x4).2 := by
  induction x1 generalizing x0 x2 x3 x4 with
  | zero =>
    unfold aperLines
    repeat' first
      | with_reducible first
          | assumption | exact Kept.refl _ | apply pocRead_kept | apply pierAdd_kept | apply poisonData_kept
      | extract_lets | split | dsimp -zeta +zetaDelta only
      | with_reducible first
          | apply kept_foldl | apply kept_mk
      | exact rfl | exact id | intro _
  | succ k ih =>
    unfold aperLines
    repeat' first
      | with_reducible first
          | assumption | exact Kept.refl _ | apply ih | apply pocRead_kept | apply pierAdd_kept
          | apply poisonData_kept
      | extract_lets | split | dsimp -zeta +zetaDelta only
      | with_reducible first
          | apply kept_foldl | apply kept_mk
      | exact rfl | exact id | intro _

theorem aperDone_kept {s₀ : State} (x0 : State) (x1 : Nat) (x2 : Nat) (x3 : List Byte) (h0 : Kept s₀ x0) : Kept s₀
    (aperDone x0 x1 x2 x3) := by
  unfold aperDone
  repeat' first
    | with_reducible first
        | assumption | exact Kept.refl _
    | extract_lets | split | dsimp -zeta +zetaDelta only
    | with_reducible first
        | apply kept_foldl | apply kept_mk
    | exact rfl | exact id | intro _

theorem apertureReadEffect_kept {s₀ : State} (x0 : Fin 2) (x1 : Nat) (x2 : Nat) (x3 : State) (h3 : Kept s₀ x3) : Kept
    s₀ (apertureReadEffect x0 x1 x2 x3) := by
  unfold apertureReadEffect
  repeat' first
    | with_reducible first
        | assumption | exact Kept.refl _ | apply aperDone_kept | apply bumpF_kept | apply aperLines_kept
    | extract_lets | split | dsimp -zeta +zetaDelta only
    | exact rfl | exact id | intro _

theorem execApertureRead_kept {s₀ : State} (x0 : Fin 2) (x1 : Nat) (x2 : Fin 4097) (x3 : State) (h3 : Kept s₀ x3) : ∀
    t, execApertureRead x0 x1 x2 x3 = .next t → Kept s₀ t := by
  intro t ht
  unfold execApertureRead at ht
  cases ht
  repeat' first
    | with_reducible first
        | assumption | exact Kept.refl _ | apply clocked_kept | apply apertureReadEffect_kept
    | extract_lets | split | dsimp -zeta +zetaDelta only
    | exact rfl | exact id | intro _

theorem aperStores_kept {s₀ : State} (x0 : Bool) (x1 : Nat) (x2 : State) (x3 : Nat) (x4 : List Byte) (h2 : Kept s₀ x2)
    : Kept s₀ (aperStores x0 x1 x2 x3 x4) := by
  induction x1 generalizing x0 x2 x3 x4 with
  | zero =>
    unfold aperStores
    repeat' first
      | with_reducible first
          | assumption | exact Kept.refl _ | apply pocWrite_kept | apply pierAdd_kept
      | extract_lets | split | dsimp -zeta +zetaDelta only
      | exact rfl | exact id | intro _
  | succ k ih =>
    unfold aperStores
    repeat' first
      | with_reducible first
          | assumption | exact Kept.refl _ | apply ih | apply pocWrite_kept | apply pierAdd_kept
      | extract_lets | split | dsimp -zeta +zetaDelta only
      | exact rfl | exact id | intro _

theorem apertureWriteEffect_kept {s₀ : State} (x0 : Fin 2) (x1 : Nat) (x2 : List Byte) (x3 : State) (h3 : Kept s₀ x3)
    : Kept s₀ (apertureWriteEffect x0 x1 x2 x3) := by
  unfold apertureWriteEffect
  repeat' first
    | with_reducible first
        | assumption | exact Kept.refl _ | apply bumpF_kept | apply reject_kept | apply aperStores_kept
    | extract_lets | split | dsimp -zeta +zetaDelta only
    | with_reducible first
        | apply kept_foldl | apply kept_mk
    | exact rfl | exact id | intro _

theorem execApertureWrite_kept {s₀ : State} (x0 : Fin 2) (x1 : Nat) (x2 : List Byte) (x3 : State) (h3 : Kept s₀ x3) :
    ∀ t, execApertureWrite x0 x1 x2 x3 = .next t → Kept s₀ t := by
  intro t ht
  unfold execApertureWrite at ht
  cases ht
  repeat' first
    | with_reducible first
        | assumption | exact Kept.refl _ | apply clocked_kept | apply apertureWriteEffect_kept
    | extract_lets | split | dsimp -zeta +zetaDelta only
    | exact rfl | exact id | intro _

theorem tsigAddEffect_kept {s₀ : State} (x0 : Fin 128) (x1 : Nat) (x2 : State) (h2 : Kept s₀ x2) : Kept s₀
    (tsigAddEffect x0 x1 x2) := by
  unfold tsigAddEffect
  repeat' first
    | with_reducible first
        | assumption | exact Kept.refl _ | apply reject_kept | apply sendSignal_kept | apply hostSpoke_kept
    | extract_lets | split | dsimp -zeta +zetaDelta only
    | with_reducible first
        | apply kept_foldl | apply kept_mk
    | exact rfl | exact id | intro _

theorem execTsigAdd_kept {s₀ : State} (x0 : Fin 128) (x1 : Nat) (x2 : State) (h2 : Kept s₀ x2) : ∀ t, execTsigAdd x0
    x1 x2 = .next t → Kept s₀ t := by
  intro t ht
  unfold execTsigAdd at ht
  cases ht
  repeat' first
    | with_reducible first
        | assumption | exact Kept.refl _ | apply clocked_kept | apply fnWrite_kept | apply tsigAddEffect_kept
    | extract_lets | split | dsimp -zeta +zetaDelta only
    | exact rfl | exact id | intro _

theorem islanded_held {s₀ s t : State} (m : Nat) (h : Held s₀ s) (g : Held s₀ t) : Held s₀ (islanded s m t) := by
  unfold islanded
  split <;> assumption

theorem islanded_kept {s₀ : State} (x0 : State) (x1 : Nat) (x2 : State) (h0 : Kept s₀ x0) (h2 : Kept s₀ x2) : Kept s₀
    (islanded x0 x1 x2) := by
  unfold islanded
  repeat' first
    | with_reducible first
        | assumption
    | split

theorem beat_kept {s₀ : State} (x0 : State) (h0 : Kept s₀ x0) : Kept s₀ (beat x0) := by
  unfold beat
  repeat' first
    | with_reducible first
        | assumption | apply setF_kept
    | split

theorem reinsTo_kept {s₀ : State} (x0 : State) (x1 : Nat) (h0 : Kept s₀ x0) : Kept s₀ (reinsTo x0 x1) := by
  unfold reinsTo
  repeat' first
    | with_reducible first
        | assumption | exact Kept.refl _ | apply setB_kept | apply bumpF_kept | apply setF_kept
        | apply ownEvent_kept
    | extract_lets | split | dsimp -zeta +zetaDelta only
    | exact rfl | exact id | intro _

theorem holderWrite_kept {s₀ : State} (x0 : State) (x1 : Nat) (x2 : Nat) (x3 : State) (h0 : Kept s₀ x0) (h3 : Kept s₀
    x3) : Kept s₀ (holderWrite x0 x1 x2 x3) := by
  unfold holderWrite
  repeat' first
    | with_reducible first
        | assumption | apply reject_kept
    | split

theorem reinClaimEffect_kept {s₀ : State} (x0 : Nat) (x1 : State) (h1 : Kept s₀ x1) : Kept s₀ (reinClaimEffect x0 x1)
    := by
  unfold reinClaimEffect
  repeat' first
    | with_reducible first
        | assumption | apply reject_kept | apply beat_kept | apply reinsTo_kept
    | split

theorem execReinClaim_kept {s₀ : State} (x0 : Nat) (x1 : State) (h1 : Kept s₀ x1) : ∀ t, execReinClaim x0 x1 = .next t
    → Kept s₀ t := by
  intro t ht
  unfold execReinClaim at ht
  cases ht
  repeat' first
    | with_reducible first
        | assumption | apply islanded_kept | apply reinClaimEffect_kept
    | split

theorem handoverLapseEffect_kept {s₀ : State} (x0 : State) (h0 : Kept s₀ x0) : Kept s₀ (handoverLapseEffect x0) := by
  unfold handoverLapseEffect
  repeat' first
    | with_reducible first
        | assumption | apply ownEvent_kept | apply setB_kept
    | split

theorem reinAcceptEffect_kept {s₀ : State} (x0 : Nat) (x1 : State) (h1 : Kept s₀ x1) : Kept s₀ (reinAcceptEffect x0
    x1) := by
  unfold reinAcceptEffect
  repeat' first
    | with_reducible first
        | assumption | apply reject_kept | apply handoverLapseEffect_kept | apply beat_kept | apply reinsTo_kept
    | split

theorem execReinAccept_kept {s₀ : State} (x0 : Nat) (x1 : State) (h1 : Kept s₀ x1) : ∀ t, execReinAccept x0 x1 = .next
    t → Kept s₀ t := by
  intro t ht
  unfold execReinAccept at ht
  cases ht
  repeat' first
    | with_reducible first
        | assumption | apply islanded_kept | apply reinAcceptEffect_kept
    | split

theorem execReinRelease_kept {s₀ : State} (x0 : Nat) (x1 : State) (h1 : Kept s₀ x1) : ∀ t, execReinRelease x0 x1 =
    .next t → Kept s₀ t := by
  intro t ht
  unfold execReinRelease at ht
  cases ht
  repeat' first
    | with_reducible first
        | assumption | apply islanded_kept | apply holderWrite_kept | apply reinsTo_kept | apply beat_kept
    | split

theorem handoverCancelEffect_kept {s₀ : State} (x0 : State) (h0 : Kept s₀ x0) : Kept s₀ (handoverCancelEffect x0) :=
    by
  unfold handoverCancelEffect
  repeat' first
    | with_reducible first
        | assumption | exact Kept.refl _ | apply beat_kept | apply setF_kept | apply setB_kept
    | extract_lets | split | dsimp -zeta +zetaDelta only
    | with_reducible first
        | apply kept_foldl | apply kept_mk
    | exact rfl | exact id | intro _

theorem handoverStartEffect_kept {s₀ : State} (x0 : Nat) (x1 : Nat) (x2 : State) (h2 : Kept s₀ x2) : Kept s₀
    (handoverStartEffect x0 x1 x2) := by
  unfold handoverStartEffect
  split
  · exact handoverCancelEffect_kept _ h2
  split
  · exact reject_kept _ _ _ _ _ _ h2
  extract_lets s1
  have k1 : Kept s₀ s1 := setB_kept _ _ _ _ _ (setF_kept _ _ _ _ _ h2)
  clear_value s1
  exact ownEvent_kept _ _ (beat_kept _ (kept_mk k1 rfl id id))

theorem execHandoverStart_kept {s₀ : State} (x0 : Nat) (x1 : Fin 8) (x2 : State) (h2 : Kept s₀ x2) : ∀ t,
    execHandoverStart x0 x1 x2 = .next t → Kept s₀ t := by
  intro t ht
  unfold execHandoverStart at ht
  cases ht
  repeat' first
    | with_reducible first
        | assumption | apply islanded_kept | apply holderWrite_kept | apply handoverStartEffect_kept
    | split

theorem execHandoverCancel_kept {s₀ : State} (x0 : Nat) (x1 : State) (h1 : Kept s₀ x1) : ∀ t, execHandoverCancel x0 x1
    = .next t → Kept s₀ t := by
  intro t ht
  unfold execHandoverCancel at ht
  cases ht
  repeat' first
    | with_reducible first
        | assumption | apply islanded_kept | apply holderWrite_kept | apply handoverCancelEffect_kept
    | split

theorem execHandoverLapse_kept {s₀ : State} (x0 : State) (h0 : Kept s₀ x0) : ∀ t, execHandoverLapse x0 = .next t →
    Kept s₀ t := by
  intro t ht
  unfold execHandoverLapse at ht
  cases ht
  repeat' first
    | with_reducible first
        | assumption | apply islanded_kept | apply handoverLapseEffect_kept
    | split

theorem execHeartbeat_kept {s₀ : State} (x0 : Nat) (x1 : State) (h1 : Kept s₀ x1) : ∀ t, execHeartbeat x0 x1 = .next t
    → Kept s₀ t := by
  intro t ht
  unfold execHeartbeat at ht
  cases ht
  repeat' first
    | with_reducible first
        | assumption | apply islanded_kept | apply holderWrite_kept | apply beat_kept
    | split

theorem execHeartbeatLapse_kept {s₀ : State} (x0 : State) (h0 : Kept s₀ x0) : ∀ t, execHeartbeatLapse x0 = .next t →
    Kept s₀ t := by
  intro t ht
  unfold execHeartbeatLapse at ht
  cases ht
  repeat' first
    | with_reducible first
        | assumption | apply islanded_kept | apply reinsTo_kept
    | split

theorem execI3cDynamicAddress_kept {s₀ : State} (x0 : Bool) (x1 : State) (h1 : Kept s₀ x1) : ∀ t,
    execI3cDynamicAddress x0 x1 = .next t → Kept s₀ t := by
  intro t ht
  unfold execI3cDynamicAddress at ht
  cases ht
  repeat' first
    | with_reducible first
        | assumption | exact Kept.refl _
    | extract_lets | split | dsimp -zeta +zetaDelta only
    | with_reducible first
        | apply kept_foldl | apply kept_mk
    | exact rfl | exact id | intro _

theorem mbSet_kept {s₀ : State} (x0 : State) (x1 : Nat) (x2 : Nat) (x3 : Nat) (x4 : Nat) (h0 : Kept s₀ x0) : Kept s₀
    (mbSet x0 x1 x2 x3 x4) := by
  unfold mbSet
  repeat' first
    | with_reducible first
        | assumption | apply irqSrc_kept | apply setF_kept
    | split

theorem mbResult_kept {s₀ : State} (x0 : State) (x1 : Nat) (x2 : Nat) (x3 : List Nat) (h0 : Kept s₀ x0) : Kept s₀
    (mbResult x0 x1 x2 x3) := by
  unfold mbResult
  repeat' first
    | with_reducible first
        | assumption | exact Kept.refl _ | apply setF_kept
    | extract_lets | split | dsimp -zeta +zetaDelta only
    | with_reducible first
        | apply kept_foldl | apply kept_mk
    | exact rfl | exact id | intro _

theorem mbRefuse_kept {s₀ : State} (x0 : State) (x1 : Nat) (x2 : Nat) (x3 : Nat) (h0 : Kept s₀ x0) : Kept s₀ (mbRefuse
    x0 x1 x2 x3) := by
  unfold mbRefuse
  repeat' first
    | with_reducible first
        | assumption | apply mbResult_kept | apply mbSet_kept
    | split

theorem lateEnd_kept {s₀ : State} (x0 : MbLate) (x1 : Nat) (x2 : List Nat) (x3 : State) (h3 : Kept s₀ x3) : Kept s₀
    (lateEnd x0 x1 x2 x3) := by
  unfold lateEnd
  repeat' first
    | with_reducible first
        | assumption | exact Kept.refl _
    | extract_lets | split | dsimp -zeta +zetaDelta only
    | with_reducible first
        | apply kept_foldl | apply kept_mk
    | exact rfl | exact id | intro _

theorem mbEnd_kept {s₀ : State} (x0 : Nat) (x1 : Nat) (x2 : MbEnd) (x3 : State) (h3 : Kept s₀ x3) : Kept s₀ (mbEnd x0
    x1 x2 x3) := by
  unfold mbEnd
  repeat' first
    | with_reducible first
        | assumption | exact Kept.refl _ | apply lateEnd_kept | apply mbRefuse_kept | apply mbResult_kept
        | apply mbSet_kept
    | extract_lets | split | dsimp -zeta +zetaDelta only
    | with_reducible first
        | apply kept_foldl | apply kept_mk
    | exact rfl | exact id | intro _

theorem mbSweep_kept {s₀ : State} (x0 : Nat) (x1 : State) (h1 : Kept s₀ x1) : Kept s₀ (mbSweep x0 x1) := by
  induction x0 generalizing x1 with
  | zero =>
    unfold mbSweep
    repeat' first
      | with_reducible first
          | assumption | exact Kept.refl _ | apply mbEnd_kept
      | extract_lets | split | dsimp -zeta +zetaDelta only
      | exact rfl | exact id | intro _
  | succ k ih =>
    unfold mbSweep
    repeat' first
      | with_reducible first
          | assumption | exact Kept.refl _ | apply ih | apply mbEnd_kept
      | extract_lets | split | dsimp -zeta +zetaDelta only
      | exact rfl | exact id | intro _

theorem mbClear_kept {s₀ : State} (x0 : State) (h0 : Kept s₀ x0) : Kept s₀ (mbClear x0) := by
  unfold mbClear
  repeat' first
    | with_reducible first
        | assumption | apply mbSweep_kept
    | split

theorem mbProgress_kept {s₀ : State} (x0 : Nat) (x1 : Nat) (x2 : State) (h2 : Kept s₀ x2) : Kept s₀ (mbProgress x0 x1
    x2) := by
  unfold mbProgress
  repeat' first
    | with_reducible first
        | assumption | exact Kept.refl _ | apply setF_kept | apply mbSet_kept
    | extract_lets | split | dsimp -zeta +zetaDelta only
    | with_reducible first
        | apply kept_foldl | apply kept_mk
    | exact rfl | exact id | intro _

theorem pollProgress_kept {s₀ : State} (x0 : Nat) (x1 : Nat) (x2 : State) (h2 : Kept s₀ x2) : Kept s₀ (pollProgress x0
    x1 x2) := by
  unfold pollProgress
  repeat' first
    | with_reducible first
        | assumption | exact Kept.refl _ | apply setF_kept | apply mbSet_kept
    | extract_lets | split | dsimp -zeta +zetaDelta only
    | with_reducible first
        | apply kept_foldl | apply kept_mk
    | exact rfl | exact id | intro _

theorem mbTimeSlot_kept {s₀ : State} (x0 : State) (x1 : Nat × Nat) (h0 : Kept s₀ x0) : Kept s₀ (mbTimeSlot x0 x1) :=
    by
  unfold mbTimeSlot
  repeat' first
    | with_reducible first
        | assumption | exact Kept.refl _ | apply mbSet_kept | apply pollProgress_kept | apply mbProgress_kept
    | extract_lets | split | dsimp -zeta +zetaDelta only
    | exact rfl | exact id | intro _

theorem mbTimes_kept {s₀ : State} (x0 : State) (h0 : Kept s₀ x0) : Kept s₀ (mbTimes x0) := by
  unfold mbTimes
  repeat' first
    | with_reducible first
        | assumption | exact Kept.refl _ | apply mbTimeSlot_kept
    | extract_lets | split | dsimp -zeta +zetaDelta only
    | with_reducible first
        | apply kept_foldl | apply kept_mk
    | exact rfl | exact id | intro _

theorem mbFinish_kept {s₀ : State} (x0 : Nat) (x1 : Nat) (x2 : MbEnd) (x3 : State) (h3 : Kept s₀ x3) : Kept s₀
    (mbFinish x0 x1 x2 x3) := by
  unfold mbFinish
  repeat' first
    | with_reducible first
        | assumption | apply mbClear_kept | apply mbEnd_kept
    | split

theorem mbRun_kept {s₀ : State} (x0 : Nat) (x1 : Nat) (x2 : Nat) (x3 : Bool) (x4 : State → MbEnd × State) (x5 : State)
    (h4 : ∀ (y0 : State), Kept s₀ y0 → Kept s₀ (x4 y0).2) (h5 : Kept s₀ x5) : Kept s₀ (mbRun x0 x1 x2 x3 x4 x5) := by
  unfold mbRun
  repeat' first
    | with_reducible first
        | assumption | exact Kept.refl _ | apply mbClear_kept | apply mbProgress_kept | apply mbFinish_kept
        | apply h4
    | extract_lets | split | dsimp -zeta +zetaDelta only
    | exact rfl | exact id | intro _

theorem notHolderPf_kept {s₀ : State} (x0 : State) (x1 : Nat) (x2 : Nat) (h0 : Kept s₀ x0) : Kept s₀ (notHolderPf x0
    x1 x2).2 := by
  unfold notHolderPf
  repeat' first
    | with_reducible first
        | assumption | apply reject_kept
    | split

theorem ctxCreateCmd_kept {s₀ : State} (x0 : Nat) (x1 : Nat) (x2 : State) (h2 : Kept s₀ x2) : Kept s₀ (ctxCreateCmd x0
    x1 x2).2 := by
  unfold ctxCreateCmd
  repeat' first
    | with_reducible first
        | assumption | exact Kept.refl _ | apply pickFree_kept | apply regionsPlace_kept
    | extract_lets | split | dsimp -zeta +zetaDelta only
    | with_reducible first
        | apply kept_foldl | apply kept_mk
    | exact rfl | exact id | intro _

theorem execCtxCreate_kept {s₀ : State} (x0 : Fin 128) (x1 : Fin 8) (x2 : Bool) (x3 : State) (h3 : Kept s₀ x3) : ∀ t,
    execCtxCreate x0 x1 x2 x3 = .next t → Kept s₀ t := by
  intro t ht
  unfold execCtxCreate at ht
  cases ht
  repeat' first
    | with_reducible first
        | assumption | exact Kept.refl _ | apply clocked_kept | apply mbRun_kept | apply ctxCreateCmd_kept
    | extract_lets | split | dsimp -zeta +zetaDelta only
    | exact rfl | exact id | intro _

theorem ctxDestroyCmd_kept {s₀ : State} (x0 : Nat) (x1 : Nat) (x2 : State) (h2 : Kept s₀ x2) : Kept s₀ (ctxDestroyCmd
    x0 x1 x2).2 := by
  unfold ctxDestroyCmd
  repeat' first
    | with_reducible first
        | assumption | exact Kept.refl _ | apply notHolderPf_kept | apply destroyCtx_kept
    | extract_lets | split | dsimp -zeta +zetaDelta only
    | exact rfl | exact id | intro _

theorem execCtxDestroy_kept {s₀ : State} (x0 : Fin 128) (x1 : Fin 8) (x2 : Bool) (x3 : State) (h3 : Kept s₀ x3) : ∀ t,
    execCtxDestroy x0 x1 x2 x3 = .next t → Kept s₀ t := by
  intro t ht
  unfold execCtxDestroy at ht
  cases ht
  repeat' first
    | with_reducible first
        | assumption | exact Kept.refl _ | apply clocked_kept | apply mbRun_kept | apply ctxDestroyCmd_kept
    | extract_lets | split | dsimp -zeta +zetaDelta only
    | exact rfl | exact id | intro _

theorem storeRoom_kept {s₀ : State} (x0 : State) (x1 : Nat) (h0 : Kept s₀ x0) : Kept s₀ (storeRoom x0 x1) := by
  unfold storeRoom
  repeat' first
    | with_reducible first
        | assumption | exact Kept.refl _ | apply recordSwapOutEffect_kept
    | extract_lets | split | dsimp -zeta +zetaDelta only
    | exact rfl | exact id | intro _

theorem ctxPlaceCmd_kept {s₀ : State} (x0 : Nat) (x1 : Nat) (x2 : State) (h2 : Kept s₀ x2) : Kept s₀ (ctxPlaceCmd x0
    x1 x2).2 := by
  unfold ctxPlaceCmd
  repeat' first
    | with_reducible first
        | assumption | exact Kept.refl _ | apply putRec_kept | apply storeRoom_kept
    | extract_lets | split | dsimp -zeta +zetaDelta only
    | with_reducible first
        | apply kept_foldl | apply kept_mk
    | exact rfl | exact id | intro _

theorem execCtxPlace_kept {s₀ : State} (x0 : Fin 128) (x1 : Fin 8) (x2 : Bool) (x3 : State) (h3 : Kept s₀ x3) : ∀ t,
    execCtxPlace x0 x1 x2 x3 = .next t → Kept s₀ t := by
  intro t ht
  unfold execCtxPlace at ht
  cases ht
  repeat' first
    | with_reducible first
        | assumption | exact Kept.refl _ | apply clocked_kept | apply mbRun_kept | apply ctxPlaceCmd_kept
    | extract_lets | split | dsimp -zeta +zetaDelta only
    | exact rfl | exact id | intro _

theorem ctxRebound_kept {s₀ : State} (x0 : State) (x1 : Nat) (x2 : Nat) (x3 : Nat) (x4 : Nat) (h0 : Kept s₀ x0) : Kept
    s₀ (ctxRebound x0 x1 x2 x3 x4) := by
  unfold ctxRebound
  repeat' first
    | with_reducible first
        | assumption | exact Kept.refl _
    | extract_lets | split | dsimp -zeta +zetaDelta only
    | with_reducible first
        | apply kept_foldl | apply kept_mk
    | exact rfl | exact id | intro _

theorem ctxRebindCmd_kept {s₀ : State} (x0 : Nat) (x1 : Nat) (x2 : State) (h2 : Kept s₀ x2) : Kept s₀ (ctxRebindCmd x0
    x1 x2).2 := by
  unfold ctxRebindCmd
  repeat' first
    | with_reducible first
        | assumption | exact Kept.refl _ | apply notHolderPf_kept | apply ctxRebound_kept | apply xinvDrop_kept
    | extract_lets | split | dsimp -zeta +zetaDelta only
    | with_reducible first
        | apply kept_foldl | apply kept_mk
    | exact rfl | exact id | intro _

theorem execCtxRebind_kept {s₀ : State} (x0 : Fin 128) (x1 : Fin 8) (x2 : Bool) (x3 : State) (h3 : Kept s₀ x3) : ∀ t,
    execCtxRebind x0 x1 x2 x3 = .next t → Kept s₀ t := by
  intro t ht
  unfold execCtxRebind at ht
  cases ht
  repeat' first
    | with_reducible first
        | assumption | exact Kept.refl _ | apply clocked_kept | apply mbRun_kept | apply ctxRebindCmd_kept
    | extract_lets | split | dsimp -zeta +zetaDelta only
    | exact rfl | exact id | intro _

theorem xltInvalCmd_kept {s₀ : State} (x0 : Nat) (x1 : Nat) (x2 : State) (h2 : Kept s₀ x2) : Kept s₀ (xltInvalCmd x0
    x1 x2).2 := by
  unfold xltInvalCmd
  repeat' first
    | with_reducible first
        | assumption | exact Kept.refl _ | apply bumpF_kept | apply xinvDrop_kept
    | extract_lets | split | dsimp -zeta +zetaDelta only
    | with_reducible first
        | apply kept_foldl | apply kept_mk
    | exact rfl | exact id | intro _

theorem execXltInval_kept {s₀ : State} (x0 : Fin 128) (x1 : Fin 8) (x2 : Bool) (x3 : State) (h3 : Kept s₀ x3) : ∀ t,
    execXltInval x0 x1 x2 x3 = .next t → Kept s₀ t := by
  intro t ht
  unfold execXltInval at ht
  cases ht
  repeat' first
    | with_reducible first
        | assumption | exact Kept.refl _ | apply clocked_kept | apply mbRun_kept | apply xltInvalCmd_kept
    | extract_lets | split | dsimp -zeta +zetaDelta only
    | exact rfl | exact id | intro _

theorem winEntryStore_kept {s₀ : State} (x0 : State) (x1 : Nat) (x2 : List Nat) (h0 : Kept s₀ x0) : Kept s₀
    (winEntryStore x0 x1 x2) := by
  unfold winEntryStore
  repeat' first
    | with_reducible first
        | assumption | exact Kept.refl _ | apply bumpF_kept | apply winDrop_kept | apply pocWrite_kept
    | extract_lets | split | dsimp -zeta +zetaDelta only
    | exact rfl | exact id | intro _

theorem winOpenCmd_kept {s₀ : State} (x0 : Nat) (x1 : Nat) (x2 : State) (h2 : Kept s₀ x2) : Kept s₀ (winOpenCmd x0 x1
    x2).2 := by
  unfold winOpenCmd
  repeat' first
    | with_reducible first
        | assumption | exact Kept.refl _ | apply pickFree_kept | apply winEntryStore_kept
    | extract_lets | split | dsimp -zeta +zetaDelta only
    | exact rfl | exact id | intro _

theorem execWinOpen_kept {s₀ : State} (x0 : Fin 128) (x1 : Fin 8) (x2 : Bool) (x3 : State) (h3 : Kept s₀ x3) : ∀ t,
    execWinOpen x0 x1 x2 x3 = .next t → Kept s₀ t := by
  intro t ht
  unfold execWinOpen at ht
  cases ht
  repeat' first
    | with_reducible first
        | assumption | exact Kept.refl _ | apply clocked_kept | apply mbRun_kept | apply winOpenCmd_kept
    | extract_lets | split | dsimp -zeta +zetaDelta only
    | exact rfl | exact id | intro _

theorem winCloseCmd_kept {s₀ : State} (x0 : Nat) (x1 : Nat) (x2 : State) (h2 : Kept s₀ x2) : Kept s₀ (winCloseCmd x0
    x1 x2).2 := by
  unfold winCloseCmd
  repeat' first
    | with_reducible first
        | assumption | exact Kept.refl _ | apply winEntryStore_kept
    | extract_lets | split | dsimp -zeta +zetaDelta only
    | exact rfl | exact id | intro _

theorem execWinClose_kept {s₀ : State} (x0 : Fin 128) (x1 : Fin 8) (x2 : Bool) (x3 : State) (h3 : Kept s₀ x3) : ∀ t,
    execWinClose x0 x1 x2 x3 = .next t → Kept s₀ t := by
  intro t ht
  unfold execWinClose at ht
  cases ht
  repeat' first
    | with_reducible first
        | assumption | exact Kept.refl _ | apply clocked_kept | apply mbRun_kept | apply winCloseCmd_kept
    | extract_lets | split | dsimp -zeta +zetaDelta only
    | exact rfl | exact id | intro _

theorem swapAreaCmd_kept {s₀ : State} (x0 : Nat) (x1 : Nat) (x2 : State) (h2 : Kept s₀ x2) : Kept s₀ (swapAreaCmd x0
    x1 x2).2 := by
  unfold swapAreaCmd
  repeat' first
    | with_reducible first
        | assumption | exact Kept.refl _ | apply notHolderPf_kept
    | extract_lets | split | dsimp -zeta +zetaDelta only
    | with_reducible first
        | apply kept_foldl | apply kept_mk
    | exact rfl | exact id | intro _

theorem execSwapArea_kept {s₀ : State} (x0 : Fin 128) (x1 : Fin 8) (x2 : Bool) (x3 : State) (h3 : Kept s₀ x3) : ∀ t,
    execSwapArea x0 x1 x2 x3 = .next t → Kept s₀ t := by
  intro t ht
  unfold execSwapArea at ht
  cases ht
  repeat' first
    | with_reducible first
        | assumption | exact Kept.refl _ | apply clocked_kept | apply mbRun_kept | apply swapAreaCmd_kept
    | extract_lets | split | dsimp -zeta +zetaDelta only
    | exact rfl | exact id | intro _

theorem putModel_kept {s₀ : State} (x0 : State) (x1 : Nat) (x2 : Model) (h0 : Kept s₀ x0) : Kept s₀ (putModel x0 x1
    x2) := by
  unfold putModel
  repeat' first
    | with_reducible first
        | assumption | exact Kept.refl _
    | extract_lets | split | dsimp -zeta +zetaDelta only
    | with_reducible first
        | apply kept_foldl | apply kept_mk
    | exact rfl | exact id | intro _

theorem modelCfgCmd_kept {s₀ : State} (x0 : Nat) (x1 : Nat) (x2 : State) (h2 : Kept s₀ x2) : Kept s₀ (modelCfgCmd x0
    x1 x2).2 := by
  unfold modelCfgCmd
  repeat' first
    | with_reducible first
        | assumption | exact Kept.refl _ | apply notHolderPf_kept | apply putModel_kept
    | extract_lets | split | dsimp -zeta +zetaDelta only
    | with_reducible first
        | apply kept_foldl | apply kept_mk
    | exact rfl | exact id | intro _

theorem execModelCfg_kept {s₀ : State} (x0 : Fin 128) (x1 : Fin 8) (x2 : Bool) (x3 : State) (h3 : Kept s₀ x3) : ∀ t,
    execModelCfg x0 x1 x2 x3 = .next t → Kept s₀ t := by
  intro t ht
  unfold execModelCfg at ht
  cases ht
  repeat' first
    | with_reducible first
        | assumption | exact Kept.refl _ | apply clocked_kept | apply mbRun_kept | apply modelCfgCmd_kept
    | extract_lets | split | dsimp -zeta +zetaDelta only
    | exact rfl | exact id | intro _

theorem groupCfgCmd_kept {s₀ : State} (x0 : Nat) (x1 : Nat) (x2 : State) (h2 : Kept s₀ x2) : Kept s₀ (groupCfgCmd x0
    x1 x2).2 := by
  unfold groupCfgCmd
  repeat' first
    | with_reducible first
        | assumption | exact Kept.refl _ | apply notHolderPf_kept | apply putGroup_kept
    | extract_lets | split | dsimp -zeta +zetaDelta only
    | with_reducible first
        | apply kept_foldl | apply kept_mk
    | exact rfl | exact id | intro _

theorem execGroupCfg_kept {s₀ : State} (x0 : Fin 128) (x1 : Fin 8) (x2 : Bool) (x3 : State) (h3 : Kept s₀ x3) : ∀ t,
    execGroupCfg x0 x1 x2 x3 = .next t → Kept s₀ t := by
  intro t ht
  unfold execGroupCfg at ht
  cases ht
  repeat' first
    | with_reducible first
        | assumption | exact Kept.refl _ | apply clocked_kept | apply mbRun_kept | apply groupCfgCmd_kept
    | extract_lets | split | dsimp -zeta +zetaDelta only
    | exact rfl | exact id | intro _

theorem epochPublishCmd_kept {s₀ : State} (x0 : Nat) (x1 : Nat) (x2 : State) (h2 : Kept s₀ x2) : Kept s₀
    (epochPublishCmd x0 x1 x2).2 := by
  unfold epochPublishCmd
  repeat' first
    | with_reducible first
        | assumption | exact Kept.refl _ | apply notHolderPf_kept | apply putModel_kept
    | extract_lets | split | dsimp -zeta +zetaDelta only
    | with_reducible first
        | apply kept_foldl | apply kept_mk
    | exact rfl | exact id | intro _

theorem execEpochPublish_kept {s₀ : State} (x0 : Fin 128) (x1 : Fin 8) (x2 : Bool) (x3 : State) (h3 : Kept s₀ x3) : ∀
    t, execEpochPublish x0 x1 x2 x3 = .next t → Kept s₀ t := by
  intro t ht
  unfold execEpochPublish at ht
  cases ht
  repeat' first
    | with_reducible first
        | assumption | exact Kept.refl _ | apply clocked_kept | apply mbRun_kept | apply epochPublishCmd_kept
    | extract_lets | split | dsimp -zeta +zetaDelta only
    | exact rfl | exact id | intro _

theorem putAdapter_kept {s₀ : State} (x0 : State) (x1 : Nat) (x2 : Adapter) (h0 : Kept s₀ x0) : Kept s₀ (putAdapter x0
    x1 x2) := by
  unfold putAdapter
  repeat' first
    | with_reducible first
        | assumption | exact Kept.refl _ | apply kvSweep_kept | apply sweepAdapters_kept
    | extract_lets | split | dsimp -zeta +zetaDelta only
    | with_reducible first
        | apply kept_foldl | apply kept_mk
    | exact rfl | exact id | intro _

theorem adapterLoadCmd_kept {s₀ : State} (x0 : Nat) (x1 : Nat) (x2 : State) (h2 : Kept s₀ x2) : Kept s₀
    (adapterLoadCmd x0 x1 x2).2 := by
  unfold adapterLoadCmd
  repeat' first
    | with_reducible first
        | assumption | exact Kept.refl _ | apply notHolderPf_kept | apply putAdapter_kept
    | extract_lets | split | dsimp -zeta +zetaDelta only
    | with_reducible first
        | apply kept_foldl | apply kept_mk
    | exact rfl | exact id | intro _

theorem adapterReplaceCmd_kept {s₀ : State} (x0 : Nat) (x1 : Nat) (x2 : State) (h2 : Kept s₀ x2) : Kept s₀
    (adapterReplaceCmd x0 x1 x2).2 := by
  unfold adapterReplaceCmd
  repeat' first
    | with_reducible first
        | assumption | exact Kept.refl _ | apply notHolderPf_kept | apply putAdapter_kept
    | extract_lets | split | dsimp -zeta +zetaDelta only
    | with_reducible first
        | apply kept_foldl | apply kept_mk
    | exact rfl | exact id | intro _

theorem adapterDeleteCmd_kept {s₀ : State} (x0 : Nat) (x1 : Nat) (x2 : State) (h2 : Kept s₀ x2) : Kept s₀
    (adapterDeleteCmd x0 x1 x2).2 := by
  unfold adapterDeleteCmd
  repeat' first
    | with_reducible first
        | assumption | exact Kept.refl _ | apply notHolderPf_kept | apply freeWord_kept | apply putAdapter_kept
    | extract_lets | split | dsimp -zeta +zetaDelta only
    | with_reducible first
        | apply kept_foldl | apply kept_mk
    | exact rfl | exact id | intro _

theorem adapterRun_kept {s₀ : State} (x0 : Nat) (x1 : Nat) (x2 : Nat) (x3 : Bool) (x4 : State → MbEnd × State) (x5 :
    State) (h4 : ∀ (y0 : State), Kept s₀ y0 → Kept s₀ (x4 y0).2) (h5 : Kept s₀ x5) : Kept s₀ (adapterRun x0 x1 x2 x3
    x4 x5) := by
  unfold adapterRun
  repeat' first
    | with_reducible first
        | assumption | apply mbRun_kept | apply h4
    | split

theorem execAdapterLoad_kept {s₀ : State} (x0 : Fin 128) (x1 : Fin 8) (x2 : Bool) (x3 : State) (h3 : Kept s₀ x3) : ∀
    t, execAdapterLoad x0 x1 x2 x3 = .next t → Kept s₀ t := by
  intro t ht
  unfold execAdapterLoad at ht
  cases ht
  repeat' first
    | with_reducible first
        | assumption | exact Kept.refl _ | apply clocked_kept | apply adapterRun_kept | apply adapterLoadCmd_kept
    | extract_lets | split | dsimp -zeta +zetaDelta only
    | exact rfl | exact id | intro _

theorem execAdapterReplace_kept {s₀ : State} (x0 : Fin 128) (x1 : Fin 8) (x2 : Bool) (x3 : State) (h3 : Kept s₀ x3) :
    ∀ t, execAdapterReplace x0 x1 x2 x3 = .next t → Kept s₀ t := by
  intro t ht
  unfold execAdapterReplace at ht
  cases ht
  repeat' first
    | with_reducible first
        | assumption | exact Kept.refl _ | apply clocked_kept | apply adapterRun_kept
        | apply adapterReplaceCmd_kept
    | extract_lets | split | dsimp -zeta +zetaDelta only
    | exact rfl | exact id | intro _

theorem execAdapterDelete_kept {s₀ : State} (x0 : Fin 128) (x1 : Fin 8) (x2 : Bool) (x3 : State) (h3 : Kept s₀ x3) : ∀
    t, execAdapterDelete x0 x1 x2 x3 = .next t → Kept s₀ t := by
  intro t ht
  unfold execAdapterDelete at ht
  cases ht
  repeat' first
    | with_reducible first
        | assumption | exact Kept.refl _ | apply clocked_kept | apply adapterRun_kept | apply adapterDeleteCmd_kept
    | extract_lets | split | dsimp -zeta +zetaDelta only
    | exact rfl | exact id | intro _

theorem cachedReleaseCmd_kept {s₀ : State} (x0 : Nat) (x1 : Nat) (x2 : State) (h2 : Kept s₀ x2) : Kept s₀
    (cachedReleaseCmd x0 x1 x2).2 := by
  unfold cachedReleaseCmd
  repeat' first
    | with_reducible first
        | assumption | exact Kept.refl _ | apply kvSweep_kept | apply sweepPrefixes_kept
    | extract_lets | split | dsimp -zeta +zetaDelta only
    | with_reducible first
        | apply kept_foldl | apply kept_mk
    | exact rfl | exact id | intro _

theorem execCachedRelease_kept {s₀ : State} (x0 : Fin 128) (x1 : Fin 8) (x2 : Bool) (x3 : State) (h3 : Kept s₀ x3) : ∀
    t, execCachedRelease x0 x1 x2 x3 = .next t → Kept s₀ t := by
  intro t ht
  unfold execCachedRelease at ht
  cases ht
  repeat' first
    | with_reducible first
        | assumption | exact Kept.refl _ | apply clocked_kept | apply mbRun_kept | apply cachedReleaseCmd_kept
    | extract_lets | split | dsimp -zeta +zetaDelta only
    | exact rfl | exact id | intro _

theorem reqCancelCmd_kept {s₀ : State} (x0 : Nat) (x1 : Nat) (x2 : State) (h2 : Kept s₀ x2) : Kept s₀ (reqCancelCmd x0
    x1 x2).2 := by
  unfold reqCancelCmd
  repeat' first
    | with_reducible first
        | assumption | exact Kept.refl _ | apply endReq_kept | apply putReq_kept
    | extract_lets | split | dsimp -zeta +zetaDelta only
    | with_reducible first
        | apply kept_foldl | apply kept_mk
    | exact rfl | exact id | intro _

theorem execReqCancel_kept {s₀ : State} (x0 : Fin 128) (x1 : Fin 8) (x2 : Bool) (x3 : State) (h3 : Kept s₀ x3) : ∀ t,
    execReqCancel x0 x1 x2 x3 = .next t → Kept s₀ t := by
  intro t ht
  unfold execReqCancel at ht
  cases ht
  repeat' first
    | with_reducible first
        | assumption | exact Kept.refl _ | apply clocked_kept | apply mbRun_kept | apply reqCancelCmd_kept
    | extract_lets | split | dsimp -zeta +zetaDelta only
    | exact rfl | exact id | intro _

theorem execVersion_kept {s₀ : State} (x0 : Fin 128) (x1 : Fin 8) (x2 : State) (h2 : Kept s₀ x2) : ∀ t, execVersion x0
    x1 x2 = .next t → Kept s₀ t := by
  intro t ht
  unfold execVersion at ht
  cases ht
  repeat' first
    | with_reducible first
        | assumption | exact Kept.refl _ | apply clocked_kept | apply mbRun_kept
    | extract_lets | split | dsimp -zeta +zetaDelta only
    | exact rfl | exact id | intro _

theorem pollEffect_kept {s₀ : State} (x0 : Nat) (x1 : Nat) (x2 : Bool) (x3 : State) (h3 : Kept s₀ x3) : Kept s₀
    (pollEffect x0 x1 x2 x3) := by
  unfold pollEffect
  repeat' first
    | with_reducible first
        | assumption | exact Kept.refl _ | apply mbFinish_kept | apply mbClear_kept | apply pollProgress_kept
    | extract_lets | split | dsimp -zeta +zetaDelta only
    | with_reducible first
        | apply kept_foldl | apply kept_mk
    | exact rfl | exact id | intro _

theorem execPoll_kept {s₀ : State} (x0 : Fin 128) (x1 : Fin 8) (x2 : Bool) (x3 : State) (h3 : Kept s₀ x3) : ∀ t,
    execPoll x0 x1 x2 x3 = .next t → Kept s₀ t := by
  intro t ht
  unfold execPoll at ht
  cases ht
  repeat' first
    | with_reducible first
        | assumption | exact Kept.refl _ | apply clocked_kept | apply pollEffect_kept
    | extract_lets | split | dsimp -zeta +zetaDelta only
    | exact rfl | exact id | intro _

theorem execTokenExpiry_kept {s₀ : State} (x0 : State) (h0 : Kept s₀ x0) : ∀ t, execTokenExpiry x0 = .next t → Kept s₀
    t := by
  intro t ht
  unfold execTokenExpiry at ht
  cases ht
  repeat' first
    | with_reducible first
        | assumption | exact Kept.refl _ | apply clocked_kept
    | extract_lets | split | dsimp -zeta +zetaDelta only
    | with_reducible first
        | apply kept_foldl | apply kept_mk
    | exact rfl | exact id | intro _

theorem slotAborted_kept {s₀ : State} (x0 : Nat) (x1 : State) (x2 : Nat) (h1 : Kept s₀ x1) : Kept s₀ (slotAborted x0
    x1 x2) := by
  unfold slotAborted
  repeat' first
    | with_reducible first
        | assumption | apply mbRefuse_kept
    | split

theorem functionLevelResetEffect_kept {s₀ : State} (x0 : Nat) (x1 : State) (h1 : Kept s₀ x1) : Kept s₀
    (functionLevelResetEffect x0 x1) := by
  unfold functionLevelResetEffect
  repeat' first
    | with_reducible first
        | assumption | exact Kept.refl _ | apply xinvDrop_kept | apply functionReset_kept | apply slotAborted_kept
    | extract_lets | split | dsimp -zeta +zetaDelta only
    | with_reducible first
        | apply kept_foldl | apply kept_foldl_fst | apply kept_foldl_snd | apply kept_foldl_thd | apply kept_mk
    | exact rfl | exact id | intro _

theorem execFunctionLevelReset_kept {s₀ : State} (x0 : Fin 128) (x1 : State) (h1 : Kept s₀ x1) : ∀ t,
    execFunctionLevelReset x0 x1 = .next t → Kept s₀ t := by
  intro t ht
  unfold execFunctionLevelReset at ht
  cases ht
  repeat' first
    | with_reducible first
        | assumption | exact Kept.refl _ | apply clocked_kept | apply functionLevelResetEffect_kept
    | extract_lets | split | dsimp -zeta +zetaDelta only
    | exact rfl | exact id | intro _

end Sys2Proof.Machine
end

