-- ==== Sys2Proof/Laws/KeptPackage.lean ====
section
/-!
SUPPORT. One lemma per operation of power, the package and start-up: it keeps what `Kept` names (or holds what `Held` names), where
the state it begins with does.
-/
namespace Sys2Proof.Machine

theorem putSensor_kept {s₀ : State} (x0 : State) (x1 : Nat) (x2 : Sensor) (h0 : Kept s₀ x0) : Kept s₀ (putSensor x0 x1
    x2) := by
  unfold putSensor
  repeat' first
    | with_reducible first
        | assumption | exact Kept.refl _ | apply putPower_kept
    | extract_lets | split | dsimp -zeta +zetaDelta only
    | with_reducible first
        | apply kept_foldl | apply kept_mk
    | exact rfl | exact id | intro _

theorem thermAlarm_kept {s₀ : State} (x0 : State) (x1 : Nat) (h0 : Kept s₀ x0) : Kept s₀ (thermAlarm x0 x1) := by
  unfold thermAlarm
  repeat' first
    | with_reducible first
        | assumption | exact Kept.refl _ | apply irqSrc_kept | apply setB_kept
    | extract_lets | split | dsimp -zeta +zetaDelta only
    | with_reducible first
        | apply kept_foldl | apply kept_mk
    | exact rfl | exact id | intro _

theorem shutdown_kept {s₀ : State} (x0 : State) (x1 : Nat) (x2 : Int) (h0 : Kept s₀ x0) : Kept s₀ (shutdown x0 x1 x2)
    := by
  unfold shutdown
  repeat' first
    | with_reducible first
        | assumption | exact Kept.refl _ | apply setF_kept
    | extract_lets | split | dsimp -zeta +zetaDelta only
    | with_reducible first
        | apply kept_foldl | apply kept_mk
    | exact rfl | exact id | intro _

theorem tripSensor_kept {s₀ : State} (x0 : State) (x1 : Nat) (x2 : Int) (h0 : Kept s₀ x0) : Kept s₀ (tripSensor x0 x1
    x2) := by
  unfold tripSensor
  repeat' first
    | with_reducible first
        | assumption | exact Kept.refl _ | apply shutdown_kept
    | extract_lets | split | dsimp -zeta +zetaDelta only
    | exact rfl | exact id | intro _

theorem sampleSensor_kept {s₀ : State} (x0 : State) (x1 : Nat) (x2 : Int) (h0 : Kept s₀ x0) : Kept s₀ (sampleSensor x0
    x1 x2) := by
  unfold sampleSensor
  repeat' first
    | with_reducible first
        | assumption | exact Kept.refl _ | apply thermAlarm_kept | apply putSensor_kept | apply tripSensor_kept
    | extract_lets | split | dsimp -zeta +zetaDelta only
    | with_reducible first
        | apply kept_foldl | apply kept_mk
    | exact rfl | exact id | intro _

theorem spanMaxima_kept {s₀ : State} (x0 : State) (x1 : Nat) (h0 : Kept s₀ x0) : Kept s₀ (spanMaxima x0 x1) := by
  unfold spanMaxima
  repeat' first
    | with_reducible first
        | assumption | exact Kept.refl _ | apply setF_kept
    | extract_lets | split | dsimp -zeta +zetaDelta only
    | exact rfl | exact id | intro _

theorem packageMaxima_kept {s₀ : State} (x0 : State) (h0 : Kept s₀ x0) : Kept s₀ (packageMaxima x0) := by
  unfold packageMaxima
  repeat' first
    | with_reducible first
        | assumption | exact Kept.refl _ | apply setF_kept | apply thermAlarm_kept
    | extract_lets | split | dsimp -zeta +zetaDelta only
    | exact rfl | exact id | intro _

theorem clockNote_kept {s₀ : State} (x0 : State) (h0 : Kept s₀ x0) : Kept s₀ (clockNote x0) := by
  unfold clockNote
  repeat' first
    | with_reducible first
        | assumption | exact Kept.refl _ | apply setF_kept
    | extract_lets | split | dsimp -zeta +zetaDelta only
    | with_reducible first
        | apply kept_foldl | apply kept_mk
    | exact rfl | exact id | intro _

theorem thermStep_kept {s₀ : State} (x0 : State) (x1 : Nat) (h0 : Kept s₀ x0) : Kept s₀ (thermStep x0 x1) := by
  unfold thermStep
  repeat' first
    | with_reducible first
        | assumption | exact Kept.refl _ | apply putPower_kept
    | extract_lets | split | dsimp -zeta +zetaDelta only
    | with_reducible first
        | apply kept_foldl | apply kept_mk
    | exact rfl | exact id | intro _

theorem bandStep_kept {s₀ : State} (x0 : State) (x1 : Nat) (h0 : Kept s₀ x0) : Kept s₀ (bandStep x0 x1) := by
  unfold bandStep
  repeat' first
    | with_reducible first
        | assumption | exact Kept.refl _ | apply putPower_kept
    | extract_lets | split | dsimp -zeta +zetaDelta only
    | with_reducible first
        | apply kept_foldl | apply kept_mk
    | exact rfl | exact id | intro _

theorem reasonsNote_kept {s₀ : State} (x0 : State) (h0 : Kept s₀ x0) : Kept s₀ (reasonsNote x0) := by
  unfold reasonsNote
  repeat' first
    | with_reducible first
        | assumption | exact Kept.refl _ | apply bumpF_kept | apply setF_kept | apply irqSrc_kept
    | extract_lets | split | dsimp -zeta +zetaDelta only
    | with_reducible first
        | apply kept_foldl | apply kept_mk
    | exact rfl | exact id | intro _

theorem sensorSampleEffect_kept {s₀ : State} (x0 : List Int) (x1 : State) (h1 : Kept s₀ x1) : Kept s₀
    (sensorSampleEffect x0 x1) := by
  unfold sensorSampleEffect
  repeat' first
    | with_reducible first
        | assumption | exact Kept.refl _ | apply putPower_kept | apply sampleSensor_kept | apply packageMaxima_kept
        | apply spanMaxima_kept | apply bandStep_kept | apply thermStep_kept | apply reasonsNote_kept
        | apply clockNote_kept
    | extract_lets | split | dsimp -zeta +zetaDelta only
    | with_reducible first
        | apply kept_foldl | apply kept_mk
    | exact rfl | exact id | intro _

theorem gatedSampleEffect_kept {s₀ : State} (x0 : List Int) (x1 : State) (h1 : Kept s₀ x1) : Kept s₀
    (gatedSampleEffect x0 x1) := by
  unfold gatedSampleEffect
  repeat' first
    | with_reducible first
        | assumption | exact Kept.refl _ | apply putPower_kept | apply tripSensor_kept
    | extract_lets | split | dsimp -zeta +zetaDelta only
    | with_reducible first
        | apply kept_foldl | apply kept_mk
    | exact rfl | exact id | intro _

theorem execSensorSample_kept {s₀ : State} (x0 : List Int) (x1 : State) (h1 : Kept s₀ x1) : ∀ t, execSensorSample x0
    x1 = .next t → Kept s₀ t := by
  intro t ht
  unfold execSensorSample at ht
  cases ht
  repeat' first
    | with_reducible first
        | assumption | apply sensorSampleEffect_kept | apply gatedSampleEffect_kept
    | split

theorem rateOf_kept {s₀ : State} (x0 : State) (x1 : Nat) (h0 : Kept s₀ x0) : Kept s₀ (rateOf x0 x1) := by
  unfold rateOf
  repeat' first
    | with_reducible first
        | assumption | exact Kept.refl _ | apply thermAlarm_kept
    | extract_lets | split | dsimp -zeta +zetaDelta only
    | exact rfl | exact id | intro _

theorem rateCheckEffect_kept {s₀ : State} (x0 : State) (h0 : Kept s₀ x0) : Kept s₀ (rateCheckEffect x0) := by
  unfold rateCheckEffect
  repeat' first
    | with_reducible first
        | assumption | exact Kept.refl _ | apply rateOf_kept | apply putPower_kept
    | extract_lets | split | dsimp -zeta +zetaDelta only
    | with_reducible first
        | apply kept_foldl | apply kept_mk
    | exact rfl | exact id | intro _

theorem execRateCheck_kept {s₀ : State} (x0 : State) (h0 : Kept s₀ x0) : ∀ t, execRateCheck x0 = .next t → Kept s₀ t
    := by
  intro t ht
  unfold execRateCheck at ht
  cases ht
  repeat' first
    | with_reducible first
        | assumption | exact Kept.refl _ | apply clocked_kept | apply rateCheckEffect_kept
    | extract_lets | split | dsimp -zeta +zetaDelta only
    | exact rfl | exact id | intro _

theorem thermalCeilingRiseEffect_kept {s₀ : State} (x0 : Fin 8) (x1 : State) (h1 : Kept s₀ x1) : Kept s₀
    (thermalCeilingRiseEffect x0 x1) := by
  unfold thermalCeilingRiseEffect
  repeat' first
    | with_reducible first
        | assumption | exact Kept.refl _ | apply clockNote_kept | apply putPower_kept
    | extract_lets | split | dsimp -zeta +zetaDelta only
    | with_reducible first
        | apply kept_foldl | apply kept_mk
    | exact rfl | exact id | intro _

theorem execThermalCeilingRise_kept {s₀ : State} (x0 : Fin 8) (x1 : State) (h1 : Kept s₀ x1) : ∀ t,
    execThermalCeilingRise x0 x1 = .next t → Kept s₀ t := by
  intro t ht
  unfold execThermalCeilingRise at ht
  cases ht
  repeat' first
    | with_reducible first
        | assumption | exact Kept.refl _ | apply clocked_kept | apply thermalCeilingRiseEffect_kept
    | extract_lets | split | dsimp -zeta +zetaDelta only
    | exact rfl | exact id | intro _

theorem bandChangeEffect_kept {s₀ : State} (x0 : Fin 8) (x1 : State) (h1 : Kept s₀ x1) : Kept s₀ (bandChangeEffect x0
    x1) := by
  unfold bandChangeEffect
  repeat' first
    | with_reducible first
        | assumption | exact Kept.refl _ | apply bumpSat_kept | apply setF_kept | apply putPower_kept
        | apply putPcc_kept
    | extract_lets | split | dsimp -zeta +zetaDelta only
    | with_reducible first
        | apply kept_foldl | apply kept_mk
    | exact rfl | exact id | intro _

theorem execBandChange_kept {s₀ : State} (x0 : Fin 8) (x1 : State) (h1 : Kept s₀ x1) : ∀ t, execBandChange x0 x1 =
    .next t → Kept s₀ t := by
  intro t ht
  unfold execBandChange at ht
  cases ht
  repeat' first
    | with_reducible first
        | assumption | exact Kept.refl _ | apply clocked_kept | apply bandChangeEffect_kept
    | extract_lets | split | dsimp -zeta +zetaDelta only
    | exact rfl | exact id | intro _

theorem execDroopDetect_kept {s₀ : State} (x0 : Fin 3) (x1 : Fin 128) (x2 : State) (h2 : Kept s₀ x2) : ∀ t,
    execDroopDetect x0 x1 x2 = .next t → Kept s₀ t := by
  intro t ht
  unfold execDroopDetect at ht
  cases ht
  repeat' first
    | with_reducible first
        | assumption | exact Kept.refl _ | apply clocked_kept | apply putPower_kept
    | extract_lets | split | dsimp -zeta +zetaDelta only
    | with_reducible first
        | apply kept_foldl | apply kept_mk
    | exact rfl | exact id | intro _

theorem droopReleaseEffect_kept {s₀ : State} (x0 : Fin 3) (x1 : Fin 128) (x2 : State) (h2 : Kept s₀ x2) : Kept s₀
    (droopReleaseEffect x0 x1 x2) := by
  unfold droopReleaseEffect
  repeat' first
    | with_reducible first
        | assumption | exact Kept.refl _ | apply putPower_kept
    | extract_lets | split | dsimp -zeta +zetaDelta only
    | with_reducible first
        | apply kept_foldl | apply kept_mk
    | exact rfl | exact id | intro _

theorem execDroopRelease_kept {s₀ : State} (x0 : Fin 3) (x1 : Fin 128) (x2 : State) (h2 : Kept s₀ x2) : ∀ t,
    execDroopRelease x0 x1 x2 = .next t → Kept s₀ t := by
  intro t ht
  unfold execDroopRelease at ht
  cases ht
  repeat' first
    | with_reducible first
        | assumption | exact Kept.refl _ | apply clocked_kept | apply droopReleaseEffect_kept
    | extract_lets | split | dsimp -zeta +zetaDelta only
    | exact rfl | exact id | intro _

theorem measNote_kept {s₀ : State} (x0 : State) (h0 : Kept s₀ x0) : Kept s₀ (measNote x0) := by
  unfold measNote
  repeat' first
    | with_reducible first
        | assumption | exact Kept.refl _ | apply setF_kept
    | extract_lets | split | dsimp -zeta +zetaDelta only
    | exact rfl | exact id | intro _

theorem powerSampleEffect_kept {s₀ : State} (x0 : Nat) (x1 : Nat) (x2 : Nat) (x3 : Nat) (x4 : State) (h4 : Kept s₀ x4)
    : Kept s₀ (powerSampleEffect x0 x1 x2 x3 x4) := by
  unfold powerSampleEffect
  repeat' first
    | with_reducible first
        | assumption | exact Kept.refl _ | apply measNote_kept | apply putPower_kept | apply clockNote_kept
    | extract_lets | split | dsimp -zeta +zetaDelta only
    | with_reducible first
        | apply kept_foldl | apply kept_mk
    | exact rfl | exact id | intro _

theorem execPowerSample_kept {s₀ : State} (x0 : Nat) (x1 : Nat) (x2 : Nat) (x3 : Nat) (x4 : State) (h4 : Kept s₀ x4) :
    ∀ t, execPowerSample x0 x1 x2 x3 x4 = .next t → Kept s₀ t := by
  intro t ht
  unfold execPowerSample at ht
  cases ht
  repeat' first
    | with_reducible first
        | assumption | exact Kept.refl _ | apply clocked_kept | apply powerSampleEffect_kept
    | extract_lets | split | dsimp -zeta +zetaDelta only
    | exact rfl | exact id | intro _

theorem capCeilingRiseEffect_kept {s₀ : State} (x0 : State) (h0 : Kept s₀ x0) : Kept s₀ (capCeilingRiseEffect x0) :=
    by
  unfold capCeilingRiseEffect
  repeat' first
    | with_reducible first
        | assumption | exact Kept.refl _ | apply clockNote_kept | apply putPower_kept
    | extract_lets | split | dsimp -zeta +zetaDelta only
    | with_reducible first
        | apply kept_foldl | apply kept_mk
    | exact rfl | exact id | intro _

theorem execCapCeilingRise_kept {s₀ : State} (x0 : State) (h0 : Kept s₀ x0) : ∀ t, execCapCeilingRise x0 = .next t →
    Kept s₀ t := by
  intro t ht
  unfold execCapCeilingRise at ht
  cases ht
  repeat' first
    | with_reducible first
        | assumption | exact Kept.refl _ | apply clocked_kept | apply capCeilingRiseEffect_kept
    | extract_lets | split | dsimp -zeta +zetaDelta only
    | exact rfl | exact id | intro _

theorem limitNote_kept {s₀ : State} (x0 : State) (h0 : Kept s₀ x0) : Kept s₀ (limitNote x0) := by
  unfold limitNote
  repeat' first
    | with_reducible first
        | assumption | exact Kept.refl _ | apply setF_kept
    | extract_lets | split | dsimp -zeta +zetaDelta only
    | exact rfl | exact id | intro _

theorem budgetTake_kept {s₀ : State} (x0 : State) (x1 : Nat) (x2 : Bool) (h0 : Kept s₀ x0) : Kept s₀ (budgetTake x0 x1
    x2) := by
  unfold budgetTake
  repeat' first
    | with_reducible first
        | assumption | exact Kept.refl _ | apply putPower_kept | apply limitNote_kept
    | extract_lets | split | dsimp -zeta +zetaDelta only
    | with_reducible first
        | apply kept_foldl | apply kept_mk
    | exact rfl | exact id | intro _

theorem budgetDecreaseApplyEffect_kept {s₀ : State} (x0 : State) (h0 : Kept s₀ x0) : Kept s₀
    (budgetDecreaseApplyEffect x0) := by
  unfold budgetDecreaseApplyEffect
  repeat' first
    | with_reducible first
        | assumption | exact Kept.refl _ | apply putPower_kept
    | extract_lets | split | dsimp -zeta +zetaDelta only
    | with_reducible first
        | apply kept_foldl | apply kept_mk
    | exact rfl | exact id | intro _

theorem execBudgetDecreaseApply_kept {s₀ : State} (x0 : State) (h0 : Kept s₀ x0) : ∀ t, execBudgetDecreaseApply x0 =
    .next t → Kept s₀ t := by
  intro t ht
  unfold execBudgetDecreaseApply at ht
  cases ht
  repeat' first
    | with_reducible first
        | assumption | exact Kept.refl _ | apply clocked_kept | apply budgetDecreaseApplyEffect_kept
    | extract_lets | split | dsimp -zeta +zetaDelta only
    | exact rfl | exact id | intro _

theorem mctpArrives_kept {s₀ : State} (x0 : State) (h0 : Kept s₀ x0) : Kept s₀ (mctpArrives x0) := by
  unfold mctpArrives
  repeat' first
    | with_reducible first
        | assumption | apply privEdgeEvent_kept
    | split

theorem pldmAnswer_kept {s₀ : State} (x0 : State) (x1 : PldmAns) (h0 : Kept s₀ x0) : Kept s₀ (pldmAnswer x0 x1) := by
  unfold pldmAnswer
  repeat' first
    | with_reducible first
        | assumption | exact Kept.refl _ | apply putPower_kept
    | extract_lets | split | dsimp -zeta +zetaDelta only
    | with_reducible first
        | apply kept_foldl | apply kept_mk
    | exact rfl | exact id | intro _

theorem setNumericEffecterValueEffect_kept {s₀ : State} (x0 : Nat) (x1 : Nat) (x2 : State) (h2 : Kept s₀ x2) : Kept s₀
    (setNumericEffecterValueEffect x0 x1 x2) := by
  unfold setNumericEffecterValueEffect
  repeat' first
    | with_reducible first
        | assumption | exact Kept.refl _ | apply pldmAnswer_kept | apply budgetTake_kept | apply setF_kept
        | apply putPower_kept
    | extract_lets | split | dsimp -zeta +zetaDelta only
    | with_reducible first
        | apply kept_foldl | apply kept_mk
    | exact rfl | exact id | intro _

theorem execSetNumericEffecterValue_kept {s₀ : State} (x0 : Nat) (x1 : Nat) (x2 : State) (h2 : Kept s₀ x2) : ∀ t,
    execSetNumericEffecterValue x0 x1 x2 = .next t → Kept s₀ t := by
  intro t ht
  unfold execSetNumericEffecterValue at ht
  cases ht
  repeat' first
    | with_reducible first
        | assumption | exact Kept.refl _ | apply clocked_kept | apply setNumericEffecterValueEffect_kept
        | apply mctpArrives_kept
    | extract_lets | split | dsimp -zeta +zetaDelta only
    | exact rfl | exact id | intro _

theorem execPldmGetSensor_kept {s₀ : State} (x0 : Nat) (x1 : State) (h1 : Kept s₀ x1) : ∀ t, execPldmGetSensor x0 x1 =
    .next t → Kept s₀ t := by
  intro t ht
  unfold execPldmGetSensor at ht
  cases ht
  repeat' first
    | with_reducible first
        | assumption | exact Kept.refl _ | apply clocked_kept | apply pldmAnswer_kept | apply mctpArrives_kept
    | extract_lets | split | dsimp -zeta +zetaDelta only
    | exact rfl | exact id | intro _

theorem budgetTimeoutEffect_kept {s₀ : State} (x0 : State) (h0 : Kept s₀ x0) : Kept s₀ (budgetTimeoutEffect x0) := by
  unfold budgetTimeoutEffect
  repeat' first
    | with_reducible first
        | assumption | apply irqSrc_kept | apply budgetTake_kept
    | split

theorem execBudgetTimeout_kept {s₀ : State} (x0 : State) (h0 : Kept s₀ x0) : ∀ t, execBudgetTimeout x0 = .next t →
    Kept s₀ t := by
  intro t ht
  unfold execBudgetTimeout at ht
  cases ht
  repeat' first
    | with_reducible first
        | assumption | exact Kept.refl _ | apply clocked_kept | apply budgetTimeoutEffect_kept
    | extract_lets | split | dsimp -zeta +zetaDelta only
    | exact rfl | exact id | intro _

theorem occTick_kept {s₀ : State} (x0 : State) (h0 : Kept s₀ x0) : Kept s₀ (occTick x0) := by
  unfold occTick
  repeat' first
    | with_reducible first
        | assumption | exact Kept.refl _ | apply putPower_kept
    | extract_lets | split | dsimp -zeta +zetaDelta only
    | with_reducible first
        | apply kept_foldl | apply kept_mk
    | exact rfl | exact id | intro _

theorem slotsCommit_kept {s₀ : State} (x0 : State) (x1 : Nat) (x2 : Nat) (h0 : Kept s₀ x0) : Kept s₀ (slotsCommit x0
    x1 x2) := by
  unfold slotsCommit
  repeat' first
    | with_reducible first
        | assumption | exact Kept.refl _ | apply setB_kept
    | extract_lets | split | dsimp -zeta +zetaDelta only
    | with_reducible first
        | apply kept_foldl | apply kept_mk
    | exact rfl | exact id | intro _

theorem settingApply_kept {s₀ : State} (x0 : State) (x1 : Setting) (h0 : Kept s₀ x0) : Kept s₀ (settingApply x0 x1) :=
    by
  unfold settingApply
  repeat' first
    | with_reducible first
        | assumption | exact Kept.refl _ | apply setF_kept | apply slotsCommit_kept | apply clockNote_kept
        | apply putPower_kept
    | extract_lets | split | dsimp -zeta +zetaDelta only
    | with_reducible first
        | apply kept_foldl | apply kept_foldl_fst | apply kept_foldl_snd | apply kept_foldl_thd | apply kept_mk
    | exact rfl | exact id | intro _

theorem dutyApply_kept {s₀ : State} (x0 : State) (x1 : Nat) (h0 : Kept s₀ x0) : Kept s₀ (dutyApply x0 x1) := by
  unfold dutyApply
  repeat' first
    | with_reducible first
        | assumption | exact Kept.refl _ | apply setF_kept
    | extract_lets | split | dsimp -zeta +zetaDelta only
    | with_reducible first
        | apply kept_foldl | apply kept_mk
    | exact rfl | exact id | intro _

theorem allocatorIntervalEffect_kept {s₀ : State} (x0 : State) (h0 : Kept s₀ x0) : Kept s₀ (allocatorIntervalEffect
    x0) := by
  unfold allocatorIntervalEffect
  repeat' first
    | with_reducible first
        | assumption | exact Kept.refl _ | apply putPower_kept | apply setF_kept | apply dutyApply_kept
        | apply settingApply_kept
    | extract_lets | split | dsimp -zeta +zetaDelta only
    | with_reducible first
        | apply kept_foldl | apply kept_mk
    | exact rfl | exact id | intro _

theorem execAllocatorInterval_kept {s₀ : State} (x0 : State) (h0 : Kept s₀ x0) : ∀ t, execAllocatorInterval x0 = .next
    t → Kept s₀ t := by
  intro t ht
  unfold execAllocatorInterval at ht
  cases ht
  repeat' first
    | with_reducible first
        | assumption | exact Kept.refl _ | apply clocked_kept | apply allocatorIntervalEffect_kept
    | extract_lets | split | dsimp -zeta +zetaDelta only
    | exact rfl | exact id | intro _

theorem execLearnSave_kept {s₀ : State} (x0 : State) (h0 : Kept s₀ x0) : ∀ t, execLearnSave x0 = .next t → Kept s₀ t
    := by
  intro t ht
  unfold execLearnSave at ht
  cases ht
  repeat' first
    | with_reducible first
        | assumption | exact Kept.refl _ | apply clocked_kept | apply putPower_kept
    | extract_lets | split | dsimp -zeta +zetaDelta only
    | with_reducible first
        | apply kept_foldl | apply kept_mk
    | exact rfl | exact id | intro _

theorem learnResetEffect_kept {s₀ : State} (x0 : State) (h0 : Kept s₀ x0) : Kept s₀ (learnResetEffect x0) := by
  unfold learnResetEffect
  repeat' first
    | with_reducible first
        | assumption | exact Kept.refl _ | apply putPower_kept
    | extract_lets | split | dsimp -zeta +zetaDelta only
    | with_reducible first
        | apply kept_foldl | apply kept_mk
    | exact rfl | exact id | intro _

theorem trClearEffect_kept {s₀ : State} (x0 : Nat) (x1 : State) (h1 : Kept s₀ x1) : Kept s₀ (trClearEffect x0 x1) :=
    by
  unfold trClearEffect
  repeat' first
    | with_reducible first
        | assumption | exact Kept.refl _ | apply setF_kept
    | extract_lets | split | dsimp -zeta +zetaDelta only
    | with_reducible first
        | apply kept_foldl | apply kept_mk
    | exact rfl | exact id | intro _

theorem execLearnReset_kept {s₀ : State} (x0 : Nat) (x1 : State) (h1 : Kept s₀ x1) : ∀ t, execLearnReset x0 x1 = .next
    t → Kept s₀ t := by
  intro t ht
  unfold execLearnReset at ht
  cases ht
  repeat' first
    | with_reducible first
        | assumption | exact Kept.refl _ | apply clocked_kept | apply guarded_kept | apply learnResetEffect_kept
    | extract_lets | split | dsimp -zeta +zetaDelta only
    | exact rfl | exact id | intro _

theorem execTrClear_kept {s₀ : State} (x0 : Nat) (x1 : Nat) (x2 : State) (h2 : Kept s₀ x2) : ∀ t, execTrClear x0 x1 x2
    = .next t → Kept s₀ t := by
  intro t ht
  unfold execTrClear at ht
  cases ht
  repeat' first
    | with_reducible first
        | assumption | exact Kept.refl _ | apply clocked_kept | apply guarded_kept | apply trClearEffect_kept
    | extract_lets | split | dsimp -zeta +zetaDelta only
    | exact rfl | exact id | intro _

theorem putBoot_kept {s₀ : State} (x0 : State) (x1 : BootSt) (h0 : Kept s₀ x0) (h1 : lifeBoot x1 = lifeBoot
    x0.pkg.boot) : Kept s₀ (putBoot x0 x1) := by
  exact kept_mk h0 h1 id id

theorem freshState_held {s₀ : State} (x0 : State) (h0 : Held s₀ x0) : Held s₀ (freshState x0) := by
  unfold freshState
  repeat' first
    | with_reducible first
      | assumption | exact Held.refl _
    | extract_lets | split | dsimp -zeta +zetaDelta only
    | with_reducible first
      | apply held_foldl | apply held_mk
    | exact rfl | exact id | intro _

theorem afterReset_held {s₀ : State} (x0 : State) (h0 : Held s₀ x0) : Held s₀ (afterReset x0) :=
  held_kept (freshState_held x0 h0) (setF_kept _ _ _ _ _ (Kept.refl _))

theorem packageReset_held {s₀ : State} (x0 : State) (h0 : Held s₀ x0) : Held s₀ (packageReset x0) := by
  unfold packageReset
  repeat' first
    | with_reducible assumption
    | with_reducible exact Held.refl _
    | extract_lets
    | split
    | with_reducible refine held_kept ?_ (putBoot_kept _ _ (Kept.refl _) rfl)
    | with_reducible apply afterReset_held
    | dsimp -zeta +zetaDelta only
    | with_reducible apply held_foldl
    | with_reducible apply held_mk
    | with_reducible exact id
    | with_reducible rfl
    | with_reducible exact memWf_put _ _
    | with_reducible exact memWf_write _ _
    | with_reducible exact memWf_stores _
    | with_reducible exact memWf_filter _
    | exact rfl
    | exact id
    | intro _

theorem packageResetEffect_held {s₀ : State} (x0 : State) (h0 : Held s₀ x0) : Held s₀ (packageResetEffect x0) := by
  unfold packageResetEffect
  extract_lets src s1
  have h1 : Held s₀ s1 := held_kept h0 (putBoot_kept _ _ (Kept.refl _) rfl)
  split
  · exact packageReset_held _ h1
  · exact h1

theorem execPackageReset_held {s₀ : State} (x0 : State) (h0 : Held s₀ x0) : ∀ t, (execPackageReset x0) = .next t →
    Held s₀ t := by
  intro t ht
  unfold execPackageReset at ht
  cases ht
  repeat' first
    | with_reducible first
      | assumption | apply packageResetEffect_held
    | split

theorem resetNReleaseEffect_kept {s₀ : State} (x0 : State) (h0 : Kept s₀ x0) : Kept s₀ (resetNReleaseEffect x0) := by
  unfold resetNReleaseEffect
  repeat' first
    | with_reducible first
        | assumption | exact Kept.refl _ | apply putBoot_kept
    | extract_lets | split | dsimp -zeta +zetaDelta only
    | with_reducible first
        | apply kept_foldl | apply kept_mk
    | exact rfl | exact id | intro _

theorem execResetNRelease_kept {s₀ : State} (x0 : State) (h0 : Kept s₀ x0) : ∀ t, execResetNRelease x0 = .next t →
    Kept s₀ t := by
  intro t ht
  unfold execResetNRelease at ht
  cases ht
  repeat' first
    | with_reducible first
        | assumption | apply resetNReleaseEffect_kept
    | split

theorem powerGoodRiseEffect_held (x0 : Nat) (x1 : State) : Held { x1 with tick := 0 } (powerGoodRiseEffect x0 x1) := by
  unfold powerGoodRiseEffect
  extract_lets b s1 src
  have h : Held { x1 with tick := 0 } s1 := by
    refine (putBoot_kept _ _ (Kept.refl _) ?_).held
    rfl
  clear_value s1
  exact held_mk h rfl id id

theorem execPowerGoodRise_held (x0 : Fin 4096) (x1 : State) : ∀ t, execPowerGoodRise x0 x1 = .next t → Held x1 t ∨
    Held { x1 with tick := 0 } t := by
  intro t ht
  unfold execPowerGoodRise at ht
  cases ht
  split
  · exact Or.inr (powerGoodRiseEffect_held _ _)
  · exact Or.inl (Held.refl _)

theorem programEnd_held {s₀ : State} (x0 : State) (h0 : Held s₀ x0) : Held s₀ (programEnd x0) := by
  unfold programEnd
  split
  · exact h0
  rename_i t a hp
  refine ⟨h0.fuse, h0.pending, h0.tick, h0.life, fun l => ?_, h0.mem⟩
  have l' := h0.legal l
  simp only [lifeOk, putBoot, hp, Bool.and_eq_true, Bool.or_eq_true, decide_eq_true_eq, Bool.not_eq_true'] at l' ⊢
  obtain ⟨⟨l1, l2⟩, l3, l4⟩ := l'
  refine ⟨⟨l1, ?_⟩, l3, Or.inl (Or.inl trivial)⟩
  split
  · next h =>
    rcases l4 with (h5 | h5) | h5
    · simp_all
    · simp_all
    · omega
  · exact l2

theorem programCut_held {s₀ : State} (x0 : State) (h0 : Held s₀ x0) : Held s₀ (programCut x0) := by
  unfold programCut
  split
  · extract_lets r
    have hk : Held s₀ r.2 := held_kept h0 (freeBit_kept x0 (Kept.refl _))
    clear_value r
    split
    · exact programEnd_held _ hk
    · refine ⟨hk.fuse, hk.pending, hk.tick, hk.life, fun l => ?_, hk.mem⟩
      have l' := hk.legal l
      simp only [lifeOk, Bool.and_eq_true] at l'
      show (decide (r.2.pkg.boot.life < 5) && decide (r.2.pkg.boot.service ≤ 64) && true) = true
      rw [l'.1.1, l'.1.2]
      rfl
  · exact h0

theorem powerGoodLossEffect_held (x0 : State) : Held { x0 with tick := 0 } (powerGoodLossEffect x0) := by
  unfold powerGoodLossEffect
  extract_lets s0 log b s1 src1 src2
  have h0 : Held x0 s0 := programCut_held _ (Held.refl _)
  have hz : Held { x0 with tick := 0 } { s0 with tick := 0 } := ⟨h0.fuse, h0.pending, rfl, h0.life, h0.legal, h0.mem⟩
  have h1 : Held { x0 with tick := 0 } s1 := by
    refine afterReset_held _ (held_kept hz (putBoot_kept _ _ (Kept.refl _) ?_))
    rfl
  clear_value s1
  exact held_mk h1 rfl id id

theorem execPowerGoodLoss_held (x1 : State) : ∀ t, execPowerGoodLoss x1 = .next t → Held x1 t ∨ Held { x1 with tick
    := 0 } t := by
  intro t ht
  unfold execPowerGoodLoss at ht
  cases ht
  split
  · exact Or.inr (powerGoodLossEffect_held _)
  · exact Or.inl (Held.refl _)

theorem vmgmtLossEffect_held (x0 : State) : Held { x0 with tick := 0 } (vmgmtLossEffect x0) := by
  unfold vmgmtLossEffect
  extract_lets s1 src1 src2 src3
  have h1 : Held { x0 with tick := 0 } s1 := powerGoodLossEffect_held _
  clear_value s1
  exact held_mk h1 rfl id id

theorem execVmgmtLoss_held (x1 : State) : ∀ t, execVmgmtLoss x1 = .next t → Held x1 t ∨ Held { x1 with tick := 0 } t := by
  intro t ht
  unfold execVmgmtLoss at ht
  cases ht
  split
  · exact Or.inr (vmgmtLossEffect_held _)
  · exact Or.inl (Held.refl _)

theorem vmgmtRiseEffect_kept {s₀ : State} (x0 : State) (h0 : Kept s₀ x0) : Kept s₀ (vmgmtRiseEffect x0) := by
  unfold vmgmtRiseEffect
  repeat' first
    | with_reducible first
        | assumption | exact Kept.refl _ | apply wrR_kept | apply putBoot_kept
    | extract_lets | split | dsimp -zeta +zetaDelta only
    | with_reducible first
        | apply kept_foldl | apply kept_mk
    | exact rfl | exact id | intro _

theorem execVmgmtRise_kept {s₀ : State} (x0 : State) (h0 : Kept s₀ x0) : ∀ t, execVmgmtRise x0 = .next t → Kept s₀ t
    := by
  intro t ht
  unfold execVmgmtRise at ht
  cases ht
  repeat' first
    | with_reducible first
        | assumption | apply vmgmtRiseEffect_kept
    | split

theorem railFaultEffect_kept {s₀ : State} (x0 : Nat) (x1 : Nat) (x2 : State) (h2 : Kept s₀ x2) : Kept s₀
    (railFaultEffect x0 x1 x2) := by
  unfold railFaultEffect
  repeat' first
    | with_reducible first
        | assumption | exact Kept.refl _ | apply putBoot_kept | apply setF_kept | apply setB_kept
    | extract_lets | split | dsimp -zeta +zetaDelta only
    | with_reducible first
        | apply kept_foldl | apply kept_mk
    | exact rfl | exact id | intro _

theorem execRailFault_kept {s₀ : State} (x0 : Fin 256) (x1 : Bool) (x2 : State) (h2 : Kept s₀ x2) : ∀ t, execRailFault
    x0 x1 x2 = .next t → Kept s₀ t := by
  intro t ht
  unfold execRailFault at ht
  cases ht
  repeat' first
    | with_reducible first
        | assumption | apply railFaultEffect_kept
    | split

theorem execSysclkLoss_kept {s₀ : State} (x0 : State) (h0 : Kept s₀ x0) : ∀ t, execSysclkLoss x0 = .next t → Kept s₀ t
    := by
  intro t ht
  unfold execSysclkLoss at ht
  cases ht
  repeat' first
    | with_reducible first
        | assumption | apply railFaultEffect_kept
    | split

theorem zlRefclkLossEffect_kept {s₀ : State} (x0 : State) (h0 : Kept s₀ x0) : Kept s₀ (zlRefclkLossEffect x0) := by
  unfold zlRefclkLossEffect
  repeat' first
    | with_reducible first
        | assumption | exact Kept.refl _ | apply zlFail_kept
    | extract_lets | split | dsimp -zeta +zetaDelta only
    | with_reducible first
        | apply kept_foldl | apply kept_mk
    | exact rfl | exact id | intro _

theorem execZlRefclkLoss_kept {s₀ : State} (x0 : State) (h0 : Kept s₀ x0) : ∀ t, execZlRefclkLoss x0 = .next t → Kept
    s₀ t := by
  intro t ht
  unfold execZlRefclkLoss at ht
  cases ht
  repeat' first
    | with_reducible first
        | assumption | exact Kept.refl _ | apply clocked_kept | apply zlRefclkLossEffect_kept
    | extract_lets | split | dsimp -zeta +zetaDelta only
    | exact rfl | exact id | intro _

theorem execPcieRefclkLoss_kept {s₀ : State} (x0 : Fin 2) (x1 : State) (h1 : Kept s₀ x1) : ∀ t, execPcieRefclkLoss x0
    x1 = .next t → Kept s₀ t := by
  intro t ht
  unfold execPcieRefclkLoss at ht
  cases ht
  repeat' first
    | with_reducible first
        | assumption | exact Kept.refl _ | apply clocked_kept | apply linkLost_kept
    | extract_lets | split | dsimp -zeta +zetaDelta only
    | exact rfl | exact id | intro _

theorem perstAssertEffect_kept {s₀ : State} (x0 : Fin 2) (x1 : State) (h1 : Kept s₀ x1) : Kept s₀ (perstAssertEffect
    x0 x1) := by
  unfold perstAssertEffect
  repeat' first
    | with_reducible first
        | assumption | exact Kept.refl _ | apply putBoot_kept | apply linkSet_kept
    | extract_lets | split | dsimp -zeta +zetaDelta only
    | with_reducible first
        | apply kept_foldl | apply kept_mk
    | exact rfl | exact id | intro _

theorem execPerstAssert_kept {s₀ : State} (x0 : Fin 2) (x1 : State) (h1 : Kept s₀ x1) : ∀ t, execPerstAssert x0 x1 =
    .next t → Kept s₀ t := by
  intro t ht
  unfold execPerstAssert at ht
  cases ht
  repeat' first
    | with_reducible first
        | assumption | apply perstAssertEffect_kept
    | split

theorem perstReleaseEffect_kept {s₀ : State} (x0 : Fin 2) (x1 : State) (h1 : Kept s₀ x1) : Kept s₀ (perstReleaseEffect
    x0 x1) := by
  unfold perstReleaseEffect
  repeat' first
    | with_reducible first
        | assumption | exact Kept.refl _ | apply putBoot_kept | apply linkSet_kept
    | extract_lets | split | dsimp -zeta +zetaDelta only
    | with_reducible first
        | apply kept_foldl | apply kept_mk
    | exact rfl | exact id | intro _

theorem execPerstRelease_kept {s₀ : State} (x0 : Fin 2) (x1 : State) (h1 : Kept s₀ x1) : ∀ t, execPerstRelease x0 x1 =
    .next t → Kept s₀ t := by
  intro t ht
  unfold execPerstRelease at ht
  cases ht
  repeat' first
    | with_reducible first
        | assumption | apply perstReleaseEffect_kept
    | split

theorem pldmBaseEffect_kept {s₀ : State} (x0 : Nat) (x1 : State) (h1 : Kept s₀ x1) : Kept s₀ (pldmBaseEffect x0 x1) :=
    by
  unfold pldmBaseEffect
  repeat' first
    | with_reducible first
        | assumption | exact Kept.refl _ | apply pldmAnswer_kept | apply freeWord_kept
    | extract_lets | split | dsimp -zeta +zetaDelta only
    | exact rfl | exact id | intro _

theorem execPldmBaseRequest_kept {s₀ : State} (x0 : Fin 4) (x1 : State) (h1 : Kept s₀ x1) : ∀ t, execPldmBaseRequest
    x0 x1 = .next t → Kept s₀ t := by
  intro t ht
  unfold execPldmBaseRequest at ht
  cases ht
  repeat' first
    | with_reducible first
        | assumption | exact Kept.refl _ | apply clocked_kept | apply pldmBaseEffect_kept | apply mctpArrives_kept
    | extract_lets | split | dsimp -zeta +zetaDelta only
    | exact rfl | exact id | intro _

theorem execPkgCtrlHeartbeat_kept {s₀ : State} (x0 : State) (h0 : Kept s₀ x0) : ∀ t, execPkgCtrlHeartbeat x0 = .next t
    → Kept s₀ t := by
  intro t ht
  unfold execPkgCtrlHeartbeat at ht
  cases ht
  repeat' first
    | with_reducible first
        | assumption | exact Kept.refl _ | apply clocked_kept | apply putBoot_kept
    | extract_lets | split | dsimp -zeta +zetaDelta only
    | with_reducible first
        | apply kept_foldl | apply kept_mk
    | exact rfl | exact id | intro _

theorem takeoverStartEffect_kept {s₀ : State} (x0 : State) (h0 : Kept s₀ x0) : Kept s₀ (takeoverStartEffect x0) := by
  unfold takeoverStartEffect
  have k := privEdgeEvent_kept x0 0 26 h0
  have hb : (privEdgeEvent x0 0 26).pkg.boot = x0.pkg.boot := by
    unfold privEdgeEvent
    extract_lets r s1
    split <;> rfl
  exact irqEmpty_kept _ _ (putBoot_kept _ _ k (by rw [hb]; rfl))

theorem execTakeoverStart_kept {s₀ : State} (x0 : State) (h0 : Kept s₀ x0) : ∀ t, execTakeoverStart x0 = .next t →
    Kept s₀ t := by
  intro t ht
  unfold execTakeoverStart at ht
  cases ht
  repeat' first
    | with_reducible first
        | assumption | exact Kept.refl _ | apply clocked_kept | apply takeoverStartEffect_kept
    | extract_lets | split | dsimp -zeta +zetaDelta only
    | exact rfl | exact id | intro _

theorem takenOverSlot_kept {s₀ : State} (x0 : State) (x1 : Nat × Nat) (h0 : Kept s₀ x0) : Kept s₀ (takenOverSlot x0
    x1) := by
  unfold takenOverSlot
  repeat' first
    | with_reducible first
        | assumption | exact Kept.refl _ | apply setB_kept | apply mbSet_kept
    | extract_lets | split | dsimp -zeta +zetaDelta only
    | with_reducible first
        | apply kept_foldl | apply kept_mk
    | exact rfl | exact id | intro _

theorem takeoverCompleteEffect_kept {s₀ : State} (x0 : State) (h0 : Kept s₀ x0) : Kept s₀ (takeoverCompleteEffect x0)
    := by
  unfold takeoverCompleteEffect
  repeat' first
    | with_reducible first
        | assumption | exact Kept.refl _ | apply putBoot_kept | apply putPower_kept | apply takenOverSlot_kept
        | apply commitsResume_kept | apply mbClear_kept
    | extract_lets | split | dsimp -zeta +zetaDelta only
    | with_reducible first
        | apply kept_foldl | apply kept_mk
    | exact rfl | exact id | intro _

theorem execTakeoverComplete_kept {s₀ : State} (x0 : State) (h0 : Kept s₀ x0) : ∀ t, execTakeoverComplete x0 = .next t
    → Kept s₀ t := by
  intro t ht
  unfold execTakeoverComplete at ht
  cases ht
  repeat' first
    | with_reducible first
        | assumption | exact Kept.refl _ | apply clocked_kept | apply takeoverCompleteEffect_kept
    | extract_lets | split | dsimp -zeta +zetaDelta only
    | exact rfl | exact id | intro _

theorem mgmtCoreFailureEffect_kept {s₀ : State} (x0 : Fin 9) (x1 : State) (h1 : Kept s₀ x1) : Kept s₀
    (mgmtCoreFailureEffect x0 x1) := by
  unfold mgmtCoreFailureEffect
  repeat' first
    | with_reducible first
        | assumption | exact Kept.refl _ | apply putBoot_kept | apply irqEmpty_kept
    | extract_lets | split | dsimp -zeta +zetaDelta only
    | with_reducible first
        | apply kept_foldl | apply kept_mk
    | exact rfl | exact id | intro _

theorem execMgmtCoreFailure_kept {s₀ : State} (x0 : Fin 9) (x1 : State) (h1 : Kept s₀ x1) : ∀ t, execMgmtCoreFailure
    x0 x1 = .next t → Kept s₀ t := by
  intro t ht
  unfold execMgmtCoreFailure at ht
  cases ht
  repeat' first
    | with_reducible first
        | assumption | exact Kept.refl _ | apply clocked_kept | apply mgmtCoreFailureEffect_kept
    | extract_lets | split | dsimp -zeta +zetaDelta only
    | exact rfl | exact id | intro _

theorem zlRetire_kept {s₀ : State} (x0 : Nat) (x1 : State) (x2 : Nat) (h1 : Kept s₀ x1) : Kept s₀ (zlRetire x0 x1 x2)
    := by
  unfold zlRetire
  repeat' first
    | with_reducible first
        | assumption | exact Kept.refl _ | apply zlFail_kept | apply setCause_kept
    | extract_lets | split | dsimp -zeta +zetaDelta only
    | with_reducible first
        | apply kept_foldl | apply kept_mk
    | exact rfl | exact id | intro _

theorem pcieRetire_kept {s₀ : State} (x0 : Nat) (x1 : State) (x2 : Nat) (h1 : Kept s₀ x1) : Kept s₀ (pcieRetire x0 x1
    x2) := by
  unfold pcieRetire
  repeat' first
    | with_reducible first
        | assumption | exact Kept.refl _ | apply setCause_kept | apply linkSet_kept | apply putBoot_kept
    | extract_lets | split | dsimp -zeta +zetaDelta only
    | with_reducible first
        | apply kept_foldl | apply kept_mk
    | exact rfl | exact id | intro _

theorem spanFail_kept {s₀ : State} (x0 : State) (x1 : Fin 8) (x2 : Nat) (h0 : Kept s₀ x0) : Kept s₀ (spanFail x0 x1
    x2) := by
  unfold spanFail
  repeat' first
    | with_reducible first
        | assumption | exact Kept.refl _ | apply itemsFail_kept | apply stopEntries_kept | apply coreRetire_kept
        | apply pcRetire_kept | apply pcieRetire_kept | apply zlRetire_kept
    | extract_lets | split | dsimp -zeta +zetaDelta only
    | with_reducible first
        | apply kept_foldl | apply kept_foldl_fst | apply kept_foldl_snd | apply kept_foldl_thd | apply kept_mk
        | exact memWf_put _ _ | exact memWf_write _ _ | exact memWf_stores _ | exact memWf_filter _
    | exact rfl | exact id | intro _

theorem execCreditTimeout_kept {s₀ : State} (x0 : Fin 8) (x1 : Fin 4) (x2 : Bool) (x3 : Nat) (x4 : State) (h4 : Kept
    s₀ x4) : ∀ t, execCreditTimeout x0 x1 x2 x3 x4 = .next t → Kept s₀ t := by
  intro t ht
  unfold execCreditTimeout at ht
  cases ht
  repeat' first
    | with_reducible first
        | assumption | exact Kept.refl _ | apply clocked_kept | apply spanFail_kept | apply privEdgeEvent_kept
    | extract_lets | split | dsimp -zeta +zetaDelta only
    | exact rfl | exact id | intro _

theorem execDeckEdgeFail_kept {s₀ : State} (x0 : Fin 8) (x1 : Fin 8) (x2 : State) (h2 : Kept s₀ x2) : ∀ t,
    execDeckEdgeFail x0 x1 x2 = .next t → Kept s₀ t := by
  intro t ht
  unfold execDeckEdgeFail at ht
  cases ht
  repeat' first
    | with_reducible first
        | assumption | exact Kept.refl _ | apply clocked_kept | apply putBoot_kept
    | extract_lets | split | dsimp -zeta +zetaDelta only
    | with_reducible first
        | apply kept_foldl | apply kept_mk
    | exact rfl | exact id | intro _

theorem hardLog_kept {s₀ : State} (x0 : State) (x1 : Nat) (x2 : Nat) (x3 : Nat) (x4 : Nat) (h0 : Kept s₀ x0) : Kept s₀
    (hardLog x0 x1 x2 x3 x4).1 := by
  unfold hardLog
  repeat' first
    | with_reducible first
        | assumption | exact Kept.refl _ | apply elogAdd_kept | apply irqSrc_kept
    | extract_lets | split | dsimp -zeta +zetaDelta only
    | with_reducible first
        | apply kept_foldl | apply kept_mk
    | exact rfl | exact id | intro _

theorem hardReducer_kept {s₀ : State} (x0 : State) (x1 : Nat) (x2 : Nat) (x3 : Nat) (h0 : Kept s₀ x0) : Kept s₀
    (hardReducer x0 x1 x2 x3) := by
  unfold hardReducer
  repeat' first
    | with_reducible first
        | assumption | exact Kept.refl _ | apply hardLog_kept | apply redUpd_kept
    | extract_lets | split | dsimp -zeta +zetaDelta only
    | with_reducible first
        | apply kept_foldl | apply kept_mk
    | exact rfl | exact id | intro _

theorem sliceIsolate_kept {s₀ : State} (x0 : State) (x1 : Fin 8) (h0 : Kept s₀ x0) : Kept s₀ (sliceIsolate x0 x1) :=
    by
  unfold sliceIsolate
  repeat' first
    | with_reducible first
        | assumption | apply spanFail_kept
    | split

theorem hardLine_kept {s₀ : State} (x0 : State) (x1 : Fin 8) (x2 : Nat) (x3 : Nat) (x4 : Bool) (h0 : Kept s₀ x0) :
    Kept s₀ (hardLine x0 x1 x2 x3 x4) := by
  unfold hardLine
  repeat' first
    | with_reducible first
        | assumption | exact Kept.refl _ | apply bucketEvent_kept | apply tcDrop_kept | apply hardLog_kept
        | apply tcPut_kept | apply sliceIsolate_kept
    | extract_lets | split | dsimp -zeta +zetaDelta only
    | with_reducible first
        | apply kept_foldl | apply kept_mk
    | exact rfl | exact id | intro _

theorem hardTags_kept {s₀ : State} (x0 : State) (x1 : Fin 8) (x2 : Nat) (x3 : Nat) (h0 : Kept s₀ x0) : Kept s₀
    (hardTags x0 x1 x2 x3) := by
  unfold hardTags
  repeat' first
    | with_reducible first
        | assumption | exact Kept.refl _ | apply sliceIsolate_kept | apply irqSrc_kept | apply elogAdd_kept
        | apply hardLog_kept
    | extract_lets | split | dsimp -zeta +zetaDelta only
    | with_reducible first
        | apply kept_foldl | apply kept_mk
    | exact rfl | exact id | intro _

theorem hardWord_kept {s₀ : State} (x0 : State) (x1 : Nat) (x2 : Nat) (x3 : Nat) (h0 : Kept s₀ x0) : Kept s₀ (hardWord
    x0 x1 x2 x3) := by
  unfold hardWord
  repeat' first
    | with_reducible first
        | assumption | exact Kept.refl _ | apply hardLog_kept | apply coreRetire_kept
    | extract_lets | split | dsimp -zeta +zetaDelta only
    | with_reducible first
        | apply kept_foldl | apply kept_mk
    | exact rfl | exact id | intro _

theorem hardRecord_kept {s₀ : State} (x0 : State) (x1 : Nat) (x2 : Nat) (h0 : Kept s₀ x0) : Kept s₀ (hardRecord x0 x1
    x2) := by
  unfold hardRecord
  repeat' first
    | with_reducible first
        | assumption | exact Kept.refl _ | apply hardLog_kept | apply destroyCtx_kept | apply itemsFail_kept
    | extract_lets | split | dsimp -zeta +zetaDelta only
    | exact rfl | exact id | intro _

theorem hardEntry_kept {s₀ : State} (x0 : State) (x1 : Nat) (x2 : Nat) (h0 : Kept s₀ x0) : Kept s₀ (hardEntry x0 x1
    x2) := by
  unfold hardEntry
  repeat' first
    | with_reducible first
        | assumption | exact Kept.refl _ | apply putSched_kept | apply bumpF_kept | apply hardLog_kept
    | extract_lets | split | dsimp -zeta +zetaDelta only
    | with_reducible first
        | apply kept_foldl | apply kept_mk
    | exact rfl | exact id | intro _

theorem hardError_kept {s₀ : State} (x0 : State) (x1 : Fin 8) (x2 : Fin 4) (x3 : Nat) (x4 : Nat) (x5 : Nat) (h0 : Kept
    s₀ x0) : Kept s₀ (hardError x0 x1 x2 x3 x4 x5) := by
  unfold hardError
  repeat' first
    | with_reducible first
        | assumption | apply hardReducer_kept | apply hardTags_kept | apply hardLine_kept | apply hardWord_kept
        | apply hardEntry_kept | apply hardRecord_kept
    | split

theorem execCorrectableEvent_kept {s₀ : State} (x0 : Fin 8) (x1 : Fin 4) (x2 : Nat) (x3 : Nat) (x4 : Nat) (x5 : Bool)
    (x6 : State) (h6 : Kept s₀ x6) : ∀ t, execCorrectableEvent x0 x1 x2 x3 x4 x5 x6 = .next t → Kept s₀ t := by
  intro t ht
  unfold execCorrectableEvent at ht
  cases ht
  repeat' first
    | with_reducible first
        | assumption | exact Kept.refl _ | apply clocked_kept | apply hardError_kept | apply bucketEvent_kept
    | extract_lets | split | dsimp -zeta +zetaDelta only
    | exact rfl | exact id | intro _

theorem testNote_kept {s₀ : State} (x0 : Bool) (x1 : State) (x2 : Nat) (h1 : Kept s₀ x1) : Kept s₀ (testNote x0 x1 x2)
    := by
  unfold testNote
  repeat' first
    | with_reducible first
        | assumption | apply retLog_kept | apply retNote_kept
    | split

theorem testSpan_kept {s₀ : State} (x0 : Bool) (x1 : State) (x2 : Nat) (h1 : Kept s₀ x1) : Kept s₀ (testSpan x0 x1 x2)
    := by
  unfold testSpan
  repeat' first
    | with_reducible first
        | assumption | apply testNote_kept | apply spanFail_kept
    | split

theorem testCore_kept {s₀ : State} (x0 : Bool) (x1 : State) (x2 : Nat) (h1 : Kept s₀ x1) : Kept s₀ (testCore x0 x1 x2)
    := by
  unfold testCore
  repeat' first
    | with_reducible first
        | assumption | exact Kept.refl _ | apply bumpSat_kept | apply testNote_kept | apply coreRetire_kept
    | extract_lets | split | dsimp -zeta +zetaDelta only
    | exact rfl | exact id | intro _

theorem testPc_kept {s₀ : State} (x0 : Bool) (x1 : State) (x2 : Nat) (h1 : Kept s₀ x1) : Kept s₀ (testPc x0 x1 x2) :=
    by
  unfold testPc
  repeat' first
    | with_reducible first
        | assumption | apply testNote_kept | apply pcRetire_kept
    | split

theorem testSpare_kept {s₀ : State} (x0 : State) (x1 : Nat) (h0 : Kept s₀ x0) : Kept s₀ (testSpare x0 x1) := by
  unfold testSpare
  repeat' first
    | with_reducible first
        | assumption | exact Kept.refl _ | apply setCause_kept | apply putBoot_kept | apply elogAdd_kept
    | extract_lets | split | dsimp -zeta +zetaDelta only
    | with_reducible first
        | apply kept_foldl | apply kept_mk
    | exact rfl | exact id | intro _

theorem bankReplace_kept {s₀ : State} (x0 : Fin 8) (x1 : Fin 64) (x2 : Nat) (x3 : Nat) (x4 : State) (h4 : Kept s₀ x4)
    : Kept s₀ (bankReplace x0 x1 x2 x3 x4) := by
  unfold bankReplace
  repeat' first
    | with_reducible first
        | assumption | exact Kept.refl _ | apply setCause_kept | apply setF_kept | apply pcRetire_kept
    | extract_lets | split | dsimp -zeta +zetaDelta only
    | exact rfl | exact id | intro _

theorem testBank_kept {s₀ : State} (x0 : Bool) (x1 : State) (x2 : Nat) (h1 : Kept s₀ x1) : Kept s₀ (testBank x0 x1 x2)
    := by
  unfold testBank
  repeat' first
    | with_reducible first
        | assumption | exact Kept.refl _ | apply bumpSat_kept | apply testNote_kept | apply bankReplace_kept
    | extract_lets | split | dsimp -zeta +zetaDelta only
    | exact rfl | exact id | intro _

theorem testZl_kept {s₀ : State} (x0 : Bool) (x1 : State) (x2 : Nat) (h1 : Kept s₀ x1) : Kept s₀ (testZl x0 x1 x2) :=
    by
  unfold testZl
  repeat' first
    | with_reducible first
        | assumption | exact Kept.refl _ | apply bumpSat_kept | apply testNote_kept | apply zlRetire_kept
    | extract_lets | split | dsimp -zeta +zetaDelta only
    | exact rfl | exact id | intro _

theorem testPcie_kept {s₀ : State} (x0 : Bool) (x1 : State) (x2 : Nat) (h1 : Kept s₀ x1) : Kept s₀ (testPcie x0 x1 x2)
    := by
  unfold testPcie
  repeat' first
    | with_reducible first
        | assumption | exact Kept.refl _ | apply bumpSat_kept | apply elogAdd_kept | apply pcieRetire_kept
    | extract_lets | split | dsimp -zeta +zetaDelta only
    | with_reducible first
        | apply kept_foldl | apply kept_mk
    | exact rfl | exact id | intro _

theorem testUnits_kept {s₀ : State} (x0 : Bool) (x1 : List Nat) (x2 : List Nat) (x3 : List Nat) (x4 : List Nat) (x5 :
    List Nat) (x6 : List Nat) (x7 : State) (h7 : Kept s₀ x7) : Kept s₀ (testUnits x0 x1 x2 x3 x4 x5 x6 x7) := by
  unfold testUnits
  repeat' first
    | with_reducible first
        | assumption | exact Kept.refl _ | apply testPc_kept | apply testCore_kept | apply testBank_kept
        | apply testSpare_kept | apply testPcie_kept | apply testZl_kept
    | extract_lets | split | dsimp -zeta +zetaDelta only
    | with_reducible first
        | apply kept_foldl | apply kept_mk
    | exact rfl | exact id | intro _

theorem reportAddr_kept {s₀ : State} (x0 : State) (x1 : Nat) (x2 : Nat) (x3 : Nat) (h0 : Kept s₀ x0) : Kept s₀
    (reportAddr x0 x1 x2 x3) := by
  unfold reportAddr
  repeat' first
    | with_reducible first
        | assumption | apply setF_kept
    | split

theorem spanZero_kept {s₀ : State} (x0 : State) (x1 : Nat) (h0 : Kept s₀ x0) : Kept s₀ (spanZero x0 x1) := by
  unfold spanZero
  repeat' first
    | with_reducible first
        | assumption | exact Kept.refl _
    | extract_lets | split | dsimp -zeta +zetaDelta only
    | with_reducible first
        | apply kept_foldl | apply kept_mk
        | exact memWf_put _ _ | exact memWf_write _ _ | exact memWf_stores _ | exact memWf_filter _
    | exact rfl | exact id | intro _

theorem toStage_kept {s₀ : State} (x0 : State) (x1 : Nat) (h0 : Kept s₀ x0) : Kept s₀ (toStage x0 x1) := by
  unfold toStage
  repeat' first
    | with_reducible first
        | assumption | apply setF_kept
    | split

theorem startFail_kept {s₀ : State} (x0 : State) (x1 : Nat) (h0 : Kept s₀ x0) : Kept s₀ (startFail x0 x1) := by
  unfold startFail
  repeat' first
    | with_reducible first
        | assumption | apply setF_kept | apply toStage_kept
    | split

theorem romTestDoneEffect_kept {s₀ : State} (x0 : Bool) (x1 : Bool) (x2 : Nat) (x3 : Nat) (x4 : Nat) (x5 : Nat) (x6 :
    List Nat) (x7 : Nat) (x8 : Nat) (x9 : State) (h9 : Kept s₀ x9) : Kept s₀ (romTestDoneEffect x0 x1 x2 x3 x4 x5 x6
    x7 x8 x9) := by
  unfold romTestDoneEffect
  repeat' first
    | with_reducible first
        | assumption | exact Kept.refl _ | apply setB_kept | apply setF_kept | apply putBoot_kept
        | apply startFail_kept | apply toStage_kept | apply testPc_kept | apply testSpan_kept
    | extract_lets | split | dsimp -zeta +zetaDelta only
    | with_reducible first
        | apply kept_foldl | apply kept_mk
    | exact rfl | exact id | intro _

theorem execRomTestDone_kept {s₀ : State} (x0 : Bool) (x1 : Bool) (x2 : Fin 256) (x3 : Fin 256) (x4 : Fin 256) (x5 :
    Fin 256) (x6 : List Nat) (x7 : Nat) (x8 : Nat) (x9 : State) (h9 : Kept s₀ x9) : ∀ t, execRomTestDone x0 x1 x2 x3
    x4 x5 x6 x7 x8 x9 = .next t → Kept s₀ t := by
  intro t ht
  unfold execRomTestDone at ht
  cases ht
  repeat' first
    | with_reducible first
        | assumption | exact Kept.refl _ | apply clocked_kept | apply romTestDoneEffect_kept
    | extract_lets | split | dsimp -zeta +zetaDelta only
    | exact rfl | exact id | intro _

theorem imageVerifyDoneEffect_kept {s₀ : State} (x0 : List Nat) (x1 : List Nat) (x2 : Bool) (x3 : Bool) (x4 : State)
    (h4 : Kept s₀ x4) : Kept s₀ (imageVerifyDoneEffect x0 x1 x2 x3 x4) := by
  unfold imageVerifyDoneEffect
  repeat' first
    | with_reducible first
        | assumption | exact Kept.refl _ | apply startFail_kept | apply setF_kept | apply toStage_kept
        | apply putBoot_kept
    | extract_lets | split | dsimp -zeta +zetaDelta only
    | with_reducible first
        | apply kept_foldl | apply kept_mk
    | exact rfl | exact id | intro _

theorem execImageVerifyDone_kept {s₀ : State} (x0 : List Nat) (x1 : List Nat) (x2 : Bool) (x3 : Bool) (x4 : State) (h4
    : Kept s₀ x4) : ∀ t, execImageVerifyDone x0 x1 x2 x3 x4 = .next t → Kept s₀ t := by
  intro t ht
  unfold execImageVerifyDone at ht
  cases ht
  repeat' first
    | with_reducible first
        | assumption | exact Kept.refl _ | apply clocked_kept | apply imageVerifyDoneEffect_kept
    | extract_lets | split | dsimp -zeta +zetaDelta only
    | exact rfl | exact id | intro _

theorem spanTestDoneEffect_kept {s₀ : State} (x0 : Nat) (x1 : List Nat) (x2 : List Nat) (x3 : List Nat) (x4 : List
    Nat) (x5 : List Nat) (x6 : List Nat) (x7 : Nat) (x8 : Nat) (x9 : Nat) (x10 : State) (h10 : Kept s₀ x10) : Kept s₀
    (spanTestDoneEffect x0 x1 x2 x3 x4 x5 x6 x7 x8 x9 x10) := by
  unfold spanTestDoneEffect
  repeat' first
    | with_reducible first
        | assumption | exact Kept.refl _ | apply testSpan_kept | apply testUnits_kept | apply spanZero_kept
        | apply reportAddr_kept | apply setF_kept | apply startFail_kept | apply toStage_kept | apply putBoot_kept
    | extract_lets | split | dsimp -zeta +zetaDelta only
    | with_reducible first
        | apply kept_foldl | apply kept_mk
    | exact rfl | exact id | intro _

theorem execSpanTestDone_kept {s₀ : State} (x0 : Fin 256) (x1 : List Nat) (x2 : List Nat) (x3 : List Nat) (x4 : List
    Nat) (x5 : List Nat) (x6 : List Nat) (x7 : Nat) (x8 : Nat) (x9 : Nat) (x10 : State) (h10 : Kept s₀ x10) : ∀ t,
    execSpanTestDone x0 x1 x2 x3 x4 x5 x6 x7 x8 x9 x10 = .next t → Kept s₀ t := by
  intro t ht
  unfold execSpanTestDone at ht
  cases ht
  repeat' first
    | with_reducible first
        | assumption | exact Kept.refl _ | apply clocked_kept | apply spanTestDoneEffect_kept
    | extract_lets | split | dsimp -zeta +zetaDelta only
    | exact rfl | exact id | intro _

theorem entryApply_kept {s₀ : State} (x0 : State) (x1 : Nat) (h0 : Kept s₀ x0) : Kept s₀ (entryApply x0 x1) := by
  unfold entryApply
  repeat' first
    | with_reducible first
        | assumption | exact Kept.refl _ | apply bankReplace_kept | apply pcRetire_kept | apply coreRetire_kept
        | apply zlRetire_kept | apply spanFail_kept | apply bumpSat_kept
    | extract_lets | split | dsimp -zeta +zetaDelta only
    | exact rfl | exact id | intro _

theorem slotsFree_kept {s₀ : State} (x0 : State) (h0 : Kept s₀ x0) : Kept s₀ (slotsFree x0) := by
  unfold slotsFree
  repeat' first
    | with_reducible first
        | assumption | exact Kept.refl _
    | extract_lets | split | dsimp -zeta +zetaDelta only
    | with_reducible first
        | apply kept_foldl | apply kept_mk
    | exact rfl | exact id | intro _

theorem fwInitDoneEffect_kept {s₀ : State} (x0 : State) (h0 : Kept s₀ x0) : Kept s₀ (fwInitDoneEffect x0) := by
  unfold fwInitDoneEffect
  repeat' first
    | with_reducible first
        | assumption | exact Kept.refl _ | apply entryApply_kept | apply putBoot_kept | apply slotsFree_kept
        | apply toStage_kept | apply setF_kept
    | extract_lets | split | dsimp -zeta +zetaDelta only
    | with_reducible first
        | apply kept_foldl | apply kept_mk
    | exact rfl | exact id | intro _

theorem execFwInitDone_kept {s₀ : State} (x0 : State) (h0 : Kept s₀ x0) : ∀ t, execFwInitDone x0 = .next t → Kept s₀ t
    := by
  intro t ht
  unfold execFwInitDone at ht
  cases ht
  repeat' first
    | with_reducible first
        | assumption | exact Kept.refl _ | apply clocked_kept | apply fwInitDoneEffect_kept
    | extract_lets | split | dsimp -zeta +zetaDelta only
    | exact rfl | exact id | intro _

theorem lcsReqEffect_held {s₀ : State} (x0 : Nat) (x1 : Nat) (x2 : Nat) (x3 : State) (h3 : Held s₀ x3) : Held s₀
    (lcsReqEffect x0 x1 x2 x3) := by
  have rj : ∀ a b c d e, Held s₀ (reject x3 a b c d e) := fun a b c d e =>
    held_kept h3 (reject_kept _ _ _ _ _ _ (Kept.refl _))
  unfold lcsReqEffect
  extract_lets b
  split
  · exact rj _ _ _ _ _
  split
  · exact rj _ _ _ _ _
  split
  · exact rj _ _ _ _ _
  rename_i ht
  split
  · exact rj _ _ _ _ _
  refine ⟨h3.fuse, h3.pending, h3.tick, h3.life, fun l => ?_, h3.mem⟩
  have l' := h3.legal l
  simp only [lifeOk, Bool.and_eq_true] at l'
  show (decide (x3.pkg.boot.life < 5) && decide (x3.pkg.boot.service ≤ 64)
    && (lifeNext x3.pkg.boot.life x1 && (false || !usesService x3.pkg.boot.life x1 || decide (x3.pkg.boot.service < 64)))) = true
  rw [l'.1.1, l'.1.2]
  simp only [Bool.not_eq_true, Bool.not_eq_false', transitionOk] at ht
  simp only [lifeNext, usesService, Bool.true_and, Bool.false_or, Bool.or_eq_true, Bool.and_eq_true, beq_iff_eq,
    bne_iff_ne, decide_eq_true_eq, Bool.not_eq_true', Bool.or_eq_false_iff, Bool.and_eq_false_imp, beq_eq_false_iff_ne] at ht ⊢
  omega

theorem execLcsReq_held {s₀ : State} (x0 : Fin 65536) (x1 : Fin 8) (x2 : Nat) (x3 : State) (h3 : Held s₀ x3) : ∀ t,
    (execLcsReq x0 x1 x2 x3) = .next t → Held s₀ t := by
  intro t ht
  unfold execLcsReq at ht
  cases ht
  repeat' first
    | with_reducible first
      | assumption | apply clocked_held | apply guarded_held | apply lcsReqEffect_held
    | split

theorem fuseProgramDoneEffect_held {s₀ : State} (x0 : State) (h0 : Held s₀ x0) : Held s₀ (fuseProgramDoneEffect x0) := by
  unfold fuseProgramDoneEffect
  repeat' first
    | with_reducible first
      | assumption | apply programEnd_held | apply afterReset_held
    | split

theorem execFuseProgramDone_held {s₀ : State} (x0 : State) (h0 : Held s₀ x0) : ∀ t, (execFuseProgramDone x0) = .next
    t → Held s₀ t := by
  intro t ht
  unfold execFuseProgramDone at ht
  cases ht
  repeat' first
    | with_reducible first
      | assumption | apply fuseProgramDoneEffect_held
    | split

theorem execLcsReset_held {s₀ : State} (x0 : Nat) (x1 : State) (h1 : Held s₀ x1) : ∀ t, (execLcsReset x0 x1) = .next
    t → Held s₀ t := by
  intro t ht
  unfold execLcsReset at ht
  cases ht
  repeat' first
    | with_reducible first
      | assumption | apply clocked_held | apply guarded_held | apply packageReset_held
    | split

theorem retlistClearEffect_kept {s₀ : State} (x0 : Nat) (x1 : State) (h1 : Kept s₀ x1) : Kept s₀ (retlistClearEffect
    x0 x1) := by
  unfold retlistClearEffect
  repeat' first
    | with_reducible first
        | assumption | exact Kept.refl _ | apply putBoot_kept | apply reject_kept
    | extract_lets | split | dsimp -zeta +zetaDelta only
    | with_reducible first
        | apply kept_foldl | apply kept_mk
    | exact rfl | exact id | intro _

theorem execRetlistClear_kept {s₀ : State} (x0 : Nat) (x1 : State) (h1 : Kept s₀ x1) : ∀ t, execRetlistClear x0 x1 =
    .next t → Kept s₀ t := by
  intro t ht
  unfold execRetlistClear at ht
  cases ht
  repeat' first
    | with_reducible first
        | assumption | exact Kept.refl _ | apply clocked_kept | apply guarded_kept | apply retlistClearEffect_kept
    | extract_lets | split | dsimp -zeta +zetaDelta only
    | exact rfl | exact id | intro _

theorem bistStart_kept {s₀ : State} (x0 : State) (x1 : BistRun) (h0 : Kept s₀ x0) : Kept s₀ (bistStart x0 x1) := by
  unfold bistStart
  repeat' first
    | with_reducible first
        | assumption | exact Kept.refl _ | apply setF_kept | apply setB_kept | apply putBoot_kept
    | extract_lets | split | dsimp -zeta +zetaDelta only
    | with_reducible first
        | apply kept_foldl | apply kept_mk
    | exact rfl | exact id | intro _

theorem coreEmpty_kept {s₀ : State} (x0 : Fin 8) (x1 : Fin 16) (x2 : State) (h2 : Kept s₀ x2) : Kept s₀ (coreEmpty x0
    x1 x2) := by
  unfold coreEmpty
  repeat' first
    | with_reducible first
        | assumption | exact Kept.refl _ | apply evictSlot_kept | apply saveRetained_kept
    | extract_lets | split | dsimp -zeta +zetaDelta only
    | with_reducible first
        | apply kept_foldl | apply kept_foldl_fst | apply kept_foldl_snd | apply kept_foldl_thd | apply kept_mk
    | exact rfl | exact id | intro _

theorem coreSliceStart_kept {s₀ : State} (x0 : Fin 8) (x1 : Fin 16) (x2 : State) (h2 : Kept s₀ x2) : Kept s₀
    (coreSliceStart x0 x1 x2) := by
  unfold coreSliceStart
  repeat' first
    | with_reducible first
        | assumption | exact Kept.refl _ | apply bistStart_kept | apply coreEmpty_kept
    | extract_lets | split | dsimp -zeta +zetaDelta only
    | with_reducible first
        | apply kept_foldl | apply kept_mk
    | exact rfl | exact id | intro _

theorem bankSliceStart_kept {s₀ : State} (x0 : Fin 8) (x1 : Nat) (x2 : Nat) (x3 : List Nat) (x4 : State) (h4 : Kept s₀
    x4) : Kept s₀ (bankSliceStart x0 x1 x2 x3 x4) := by
  unfold bankSliceStart
  repeat' first
    | with_reducible first
        | assumption | exact Kept.refl _ | apply spareStartEffect_kept | apply bistStart_kept
    | extract_lets | split | dsimp -zeta +zetaDelta only
    | with_reducible first
        | apply kept_foldl | apply kept_foldl_fst | apply kept_foldl_snd | apply kept_foldl_thd | apply kept_mk
    | exact rfl | exact id | intro _

theorem sliceStartEffect_kept {s₀ : State} (x0 : State) (h0 : Kept s₀ x0) : Kept s₀ (sliceStartEffect x0) := by
  unfold sliceStartEffect
  repeat' first
    | with_reducible first
        | assumption | exact Kept.refl _ | apply putBoot_kept | apply coreSliceStart_kept
        | apply bankSliceStart_kept
    | extract_lets | split | dsimp -zeta +zetaDelta only
    | with_reducible first
        | apply kept_foldl | apply kept_mk
    | exact rfl | exact id | intro _

theorem execSliceStart_kept {s₀ : State} (x0 : State) (h0 : Kept s₀ x0) : ∀ t, execSliceStart x0 = .next t → Kept s₀ t
    := by
  intro t ht
  unfold execSliceStart at ht
  cases ht
  repeat' first
    | with_reducible first
        | assumption | exact Kept.refl _ | apply clocked_kept | apply sliceStartEffect_kept
    | extract_lets | split | dsimp -zeta +zetaDelta only
    | exact rfl | exact id | intro _

theorem waitedRetire_kept {s₀ : State} (x0 : State) (x1 : Nat) (h0 : Kept s₀ x0) : Kept s₀ (waitedRetire x0 x1) := by
  unfold waitedRetire
  repeat' first
    | with_reducible first
        | assumption | exact Kept.refl _ | apply retUnitDo_kept
    | extract_lets | split | dsimp -zeta +zetaDelta only
    | exact rfl | exact id | intro _

theorem bistEnd_kept {s₀ : State} (x0 : Bool) (x1 : Nat) (x2 : Nat) (x3 : Nat) (x4 : State) (h4 : Kept s₀ x4) : Kept
    s₀ (bistEnd x0 x1 x2 x3 x4) := by
  unfold bistEnd
  repeat' first
    | with_reducible first
        | assumption | exact Kept.refl _ | apply setF_kept | apply bumpF_kept | apply setB_kept
        | apply reportAddr_kept | apply waitedRetire_kept | apply putBoot_kept
    | extract_lets | split | dsimp -zeta +zetaDelta only
    | with_reducible first
        | apply kept_foldl | apply kept_mk
    | exact rfl | exact id | intro _

theorem coreSliceDoneEffect_kept {s₀ : State} (x0 : Bool) (x1 : Nat) (x2 : Nat) (x3 : Nat) (x4 : BistRun) (x5 : State)
    (h5 : Kept s₀ x5) : Kept s₀ (coreSliceDoneEffect x0 x1 x2 x3 x4 x5) := by
  unfold coreSliceDoneEffect
  repeat' first
    | with_reducible first
        | assumption | exact Kept.refl _ | apply retNote_kept | apply coreRetire_kept | apply bistEnd_kept
    | extract_lets | split | dsimp -zeta +zetaDelta only
    | exact rfl | exact id | intro _

theorem execCoreSliceDone_kept {s₀ : State} (x0 : Bool) (x1 : Nat) (x2 : Nat) (x3 : Nat) (x4 : State) (h4 : Kept s₀
    x4) : ∀ t, execCoreSliceDone x0 x1 x2 x3 x4 = .next t → Kept s₀ t := by
  intro t ht
  unfold execCoreSliceDone at ht
  cases ht
  repeat' first
    | with_reducible first
        | assumption | exact Kept.refl _ | apply clocked_kept | apply coreSliceDoneEffect_kept
    | extract_lets | split | dsimp -zeta +zetaDelta only
    | exact rfl | exact id | intro _

theorem bankSliceOne_kept {s₀ : State} (x0 : Fin 8) (x1 : Nat) (x2 : Nat) (x3 : Nat) (x4 : Nat) (x5 : State) (x6 :
    Nat) (h5 : Kept s₀ x5) : Kept s₀ (bankSliceOne x0 x1 x2 x3 x4 x5 x6) := by
  unfold bankSliceOne
  repeat' first
    | with_reducible first
        | assumption | exact Kept.refl _ | apply testSpare_kept | apply setF_kept | apply retNote_kept
        | apply pcRetire_kept | apply setCause_kept
    | extract_lets | split | dsimp -zeta +zetaDelta only
    | exact rfl | exact id | intro _

theorem bankSliceDoneEffect_kept {s₀ : State} (x0 : Nat) (x1 : Nat) (x2 : Nat) (x3 : Nat) (x4 : Nat) (x5 : BistRun)
    (x6 : State) (h6 : Kept s₀ x6) : Kept s₀ (bankSliceDoneEffect x0 x1 x2 x3 x4 x5 x6) := by
  unfold bankSliceDoneEffect
  repeat' first
    | with_reducible first
        | assumption | exact Kept.refl _ | apply bistEnd_kept | apply bankSliceOne_kept
    | extract_lets | split | dsimp -zeta +zetaDelta only
    | with_reducible first
        | apply kept_foldl | apply kept_mk
    | exact rfl | exact id | intro _

theorem execBankSliceDone_kept {s₀ : State} (x0 : Fin 16) (x1 : Fin 16) (x2 : Nat) (x3 : Nat) (x4 : Nat) (x5 : State)
    (h5 : Kept s₀ x5) : ∀ t, execBankSliceDone x0 x1 x2 x3 x4 x5 = .next t → Kept s₀ t := by
  intro t ht
  unfold execBankSliceDone at ht
  cases ht
  repeat' first
    | with_reducible first
        | assumption | exact Kept.refl _ | apply clocked_kept | apply bankSliceDoneEffect_kept
    | extract_lets | split | dsimp -zeta +zetaDelta only
    | exact rfl | exact id | intro _

theorem bistRefuse_kept {s₀ : State} (x0 : State) (x1 : Nat) (h0 : Kept s₀ x0) : Kept s₀ (bistRefuse x0 x1) := by
  unfold bistRefuse
  repeat' first
    | with_reducible first
        | assumption | apply setF_kept
    | split

theorem bistDo_kept {s₀ : State} (x0 : List (Bool × Nat)) (x1 : State → State) (x2 : State) (h1 : ∀ (y0 : State), Kept
    s₀ y0 → Kept s₀ (x1 y0)) (h2 : Kept s₀ x2) : Kept s₀ (bistDo x0 x1 x2) := by
  unfold bistDo
  repeat' first
    | with_reducible first
        | assumption | exact Kept.refl _ | apply bistRefuse_kept | apply h1
    | extract_lets | split | dsimp -zeta +zetaDelta only
    | exact rfl | exact id | intro _

theorem bistCoreEffect_kept {s₀ : State} (x0 : Fin 8) (x1 : Fin 16) (x2 : Nat) (x3 : State) (h3 : Kept s₀ x3) : Kept
    s₀ (bistCoreEffect x0 x1 x2 x3) := by
  unfold bistCoreEffect
  repeat' first
    | with_reducible first
        | assumption | apply bistDo_kept | apply coreSliceStart_kept
    | split

theorem execBistCore_kept {s₀ : State} (x0 : Fin 8) (x1 : Fin 16) (x2 : Nat) (x3 : State) (h3 : Kept s₀ x3) : ∀ t,
    execBistCore x0 x1 x2 x3 = .next t → Kept s₀ t := by
  intro t ht
  unfold execBistCore at ht
  cases ht
  repeat' first
    | with_reducible first
        | assumption | exact Kept.refl _ | apply clocked_kept | apply guarded_kept | apply bistCoreEffect_kept
    | extract_lets | split | dsimp -zeta +zetaDelta only
    | exact rfl | exact id | intro _

theorem bistBanksEffect_kept {s₀ : State} (x0 : Fin 8) (x1 : Fin 16) (x2 : Nat) (x3 : Nat) (x4 : Nat) (x5 : State) (h5
    : Kept s₀ x5) : Kept s₀ (bistBanksEffect x0 x1 x2 x3 x4 x5) := by
  unfold bistBanksEffect
  repeat' first
    | with_reducible first
        | assumption | exact Kept.refl _ | apply bistDo_kept | apply bankSliceStart_kept
    | extract_lets | split | dsimp -zeta +zetaDelta only
    | exact rfl | exact id | intro _

theorem execBistBanks_kept {s₀ : State} (x0 : Fin 8) (x1 : Fin 16) (x2 : Fin 128) (x3 : Fin 4) (x4 : Nat) (x5 : State)
    (h5 : Kept s₀ x5) : ∀ t, execBistBanks x0 x1 x2 x3 x4 x5 = .next t → Kept s₀ t := by
  intro t ht
  unfold execBistBanks at ht
  cases ht
  repeat' first
    | with_reducible first
        | assumption | exact Kept.refl _ | apply clocked_kept | apply guarded_kept | apply bistBanksEffect_kept
    | extract_lets | split | dsimp -zeta +zetaDelta only
    | exact rfl | exact id | intro _

theorem bistPortEffect_kept {s₀ : State} (x0 : Fin 16) (x1 : Nat) (x2 : State) (h2 : Kept s₀ x2) : Kept s₀
    (bistPortEffect x0 x1 x2) := by
  unfold bistPortEffect
  repeat' first
    | with_reducible first
        | assumption | exact Kept.refl _ | apply bistDo_kept | apply bistStart_kept
    | extract_lets | split | dsimp -zeta +zetaDelta only
    | with_reducible first
        | apply kept_foldl | apply kept_mk
    | exact rfl | exact id | intro _

theorem execBistPort_kept {s₀ : State} (x0 : Fin 16) (x1 : Nat) (x2 : State) (h2 : Kept s₀ x2) : ∀ t, execBistPort x0
    x1 x2 = .next t → Kept s₀ t := by
  intro t ht
  unfold execBistPort at ht
  cases ht
  repeat' first
    | with_reducible first
        | assumption | exact Kept.refl _ | apply clocked_kept | apply guarded_kept | apply bistPortEffect_kept
    | extract_lets | split | dsimp -zeta +zetaDelta only
    | exact rfl | exact id | intro _

theorem spanSliceStart_kept {s₀ : State} (x0 : Fin 8) (x1 : State) (h1 : Kept s₀ x1) : Kept s₀ (spanSliceStart x0 x1)
    := by
  unfold spanSliceStart
  repeat' first
    | with_reducible first
        | assumption | exact Kept.refl _ | apply coreEmpty_kept | apply bistStart_kept | apply tcBack_kept
    | extract_lets | split | dsimp -zeta +zetaDelta only
    | with_reducible first
        | apply kept_foldl | apply kept_mk
    | exact rfl | exact id | intro _

theorem bistSpanEffect_kept {s₀ : State} (x0 : Fin 8) (x1 : Nat) (x2 : State) (h2 : Kept s₀ x2) : Kept s₀
    (bistSpanEffect x0 x1 x2) := by
  unfold bistSpanEffect
  repeat' first
    | with_reducible first
        | assumption | apply bistDo_kept | apply spanSliceStart_kept
    | split

theorem execBistSpan_kept {s₀ : State} (x0 : Fin 8) (x1 : Nat) (x2 : State) (h2 : Kept s₀ x2) : ∀ t, execBistSpan x0
    x1 x2 = .next t → Kept s₀ t := by
  intro t ht
  unfold execBistSpan at ht
  cases ht
  repeat' first
    | with_reducible first
        | assumption | exact Kept.refl _ | apply clocked_kept | apply guarded_kept | apply bistSpanEffect_kept
    | extract_lets | split | dsimp -zeta +zetaDelta only
    | exact rfl | exact id | intro _

theorem bistDoneEffect_kept {s₀ : State} (x0 : Bool) (x1 : Bool) (x2 : List Nat) (x3 : List Nat) (x4 : List Nat) (x5 :
    List Nat) (x6 : Nat) (x7 : Nat) (x8 : Nat) (x9 : BistRun) (x10 : State) (h10 : Kept s₀ x10) : Kept s₀
    (bistDoneEffect x0 x1 x2 x3 x4 x5 x6 x7 x8 x9 x10) := by
  unfold bistDoneEffect
  repeat' first
    | with_reducible first
        | assumption | exact Kept.refl _ | apply bistEnd_kept | apply testZl_kept | apply testPcie_kept
        | apply testSpan_kept | apply testUnits_kept | apply spanZero_kept
    | extract_lets | split | dsimp -zeta +zetaDelta only
    | exact rfl | exact id | intro _

theorem execBistDone_kept {s₀ : State} (x0 : Bool) (x1 : Bool) (x2 : List Nat) (x3 : List Nat) (x4 : List Nat) (x5 :
    List Nat) (x6 : Nat) (x7 : Nat) (x8 : Nat) (x9 : State) (h9 : Kept s₀ x9) : ∀ t, execBistDone x0 x1 x2 x3 x4 x5 x6
    x7 x8 x9 = .next t → Kept s₀ t := by
  intro t ht
  unfold execBistDone at ht
  cases ht
  repeat' first
    | with_reducible first
        | assumption | exact Kept.refl _ | apply clocked_kept | apply bistDoneEffect_kept
    | extract_lets | split | dsimp -zeta +zetaDelta only
    | exact rfl | exact id | intro _

theorem timeCorrWriteEffect_kept {s₀ : State} (x0 : Nat) (x1 : State) (h1 : Kept s₀ x1) : Kept s₀ (timeCorrWriteEffect
    x0 x1) := by
  unfold timeCorrWriteEffect
  repeat' first
    | with_reducible first
        | assumption | apply setF_kept | apply setB_kept
    | split

theorem execTimeCorrWrite_kept {s₀ : State} (x0 : Nat) (x1 : Nat) (x2 : State) (h2 : Kept s₀ x2) : ∀ t,
    execTimeCorrWrite x0 x1 x2 = .next t → Kept s₀ t := by
  intro t ht
  unfold execTimeCorrWrite at ht
  cases ht
  repeat' first
    | with_reducible first
        | assumption | exact Kept.refl _ | apply clocked_kept | apply guarded_kept | apply timeCorrWriteEffect_kept
    | extract_lets | split | dsimp -zeta +zetaDelta only
    | exact rfl | exact id | intro _

theorem stageField_kept {s₀ : State} (x0 : State) (x1 : Nat) (x2 : Nat) (x3 : Nat) (x4 : RField) (h0 : Kept s₀ x0) :
    Kept s₀ (stageField x0 x1 x2 x3 x4) := by
  unfold stageField
  repeat' first
    | with_reducible first
        | assumption | exact Kept.refl _
    | extract_lets | split | dsimp -zeta +zetaDelta only
    | with_reducible first
        | apply kept_foldl | apply kept_mk
    | exact rfl | exact id | intro _

theorem fieldApply_kept {s₀ : State} (x0 : Nat) (x1 : Nat) (x2 : Nat) (x3 : State) (x4 : RField) (h3 : Kept s₀ x3) :
    Kept s₀ (fieldApply x0 x1 x2 x3 x4) := by
  unfold fieldApply
  repeat' first
    | with_reducible first
        | assumption | exact Kept.refl _ | apply setF_kept | apply stageField_kept
    | extract_lets | split | dsimp -zeta +zetaDelta only
    | exact rfl | exact id | intro _

theorem plainWrite_kept {s₀ : State} (x0 : State) (x1 : Nat) (x2 : RegAt) (x3 : Nat) (h0 : Kept s₀ x0) : Kept s₀
    (plainWrite x0 x1 x2 x3) := by
  unfold plainWrite
  repeat' first
    | with_reducible first
        | assumption | exact Kept.refl _ | apply fieldApply_kept
    | extract_lets | split | dsimp -zeta +zetaDelta only
    | with_reducible first
        | apply kept_foldl | apply kept_mk
    | exact rfl | exact id | intro _

theorem commitAsk_kept {s₀ : State} (x0 : State) (x1 : Nat) (h0 : Kept s₀ x0) : Kept s₀ (commitAsk x0 x1) := by
  unfold commitAsk
  repeat' first
    | with_reducible first
        | assumption | apply setB_kept
    | split

theorem discardAsk_kept {s₀ : State} (x0 : State) (x1 : Nat) (h0 : Kept s₀ x0) : Kept s₀ (discardAsk x0 x1) := by
  unfold discardAsk
  repeat' first
    | with_reducible first
        | assumption | exact Kept.refl _ | apply setB_kept
    | extract_lets | split | dsimp -zeta +zetaDelta only
    | with_reducible first
        | apply kept_foldl | apply kept_mk
    | exact rfl | exact id | intro _

theorem headWrite_kept {s₀ : State} (x0 : State) (x1 : Nat) (x2 : RegAt) (x3 : Nat) (h0 : Kept s₀ x0) : Kept s₀
    (headWrite x0 x1 x2 x3) := by
  unfold headWrite
  repeat' first
    | with_reducible first
        | assumption | exact Kept.refl _ | apply plainWrite_kept | apply blkErr_kept | apply setF_kept
        | apply setB_kept | apply commitAsk_kept | apply discardAsk_kept
    | extract_lets | split | dsimp -zeta +zetaDelta only
    | exact rfl | exact id | intro _

theorem slotCtrlWrite_kept {s₀ : State} (x0 : Fin 8) (x1 : Fin 16) (x2 : Fin 4) (x3 : Nat) (x4 : Nat) (x5 : State) (h5
    : Kept s₀ x5) : Kept s₀ (slotCtrlWrite x0 x1 x2 x3 x4 x5) := by
  unfold slotCtrlWrite
  repeat' first
    | with_reducible first
        | assumption | exact Kept.refl _ | apply slotResumeEffect_kept | apply slotHaltEffect_kept
        | apply slotAbortEffect_kept
    | extract_lets | split | dsimp -zeta +zetaDelta only
    | exact rfl | exact id | intro _

theorem spareWrite_kept {s₀ : State} (x0 : Fin 8) (x1 : Fin 64) (x2 : Nat) (x3 : Nat) (x4 : State) (h4 : Kept s₀ x4) :
    Kept s₀ (spareWrite x0 x1 x2 x3 x4) := by
  unfold spareWrite
  repeat' first
    | with_reducible first
        | assumption | exact Kept.refl _ | apply spareStartEffect_kept | apply reject_kept | apply setF_kept
    | extract_lets | split | dsimp -zeta +zetaDelta only
    | exact rfl | exact id | intro _

theorem redCtrlWrite_kept {s₀ : State} (x0 : Nat) (x1 : Nat) (x2 : State) (h2 : Kept s₀ x2) : Kept s₀ (redCtrlWrite x0
    x1 x2) := by
  unfold redCtrlWrite
  repeat' first
    | with_reducible first
        | assumption | exact Kept.refl _ | apply settleAll_kept | apply bufWb_kept
    | extract_lets | split | dsimp -zeta +zetaDelta only
    | exact rfl | exact id | intro _

theorem xinvWrite_kept {s₀ : State} (x0 : Nat) (x1 : Nat) (x2 : State) (h2 : Kept s₀ x2) : Kept s₀ (xinvWrite x0 x1
    x2) := by
  unfold xinvWrite
  repeat' first
    | with_reducible first
        | assumption | exact Kept.refl _ | apply reject_kept | apply xinvStart_kept
    | extract_lets | split | dsimp -zeta +zetaDelta only
    | with_reducible first
        | apply kept_foldl | apply kept_mk
    | exact rfl | exact id | intro _

theorem modeWrite_kept {s₀ : State} (x0 : Nat) (x1 : State) (h1 : Kept s₀ x1) : Kept s₀ (modeWrite x0 x1) := by
  unfold modeWrite
  repeat' first
    | with_reducible first
        | assumption | exact Kept.refl _ | apply setF_kept | apply putPower_kept | apply dropHostWaiting_kept
        | apply pinAll_kept
    | extract_lets | split | dsimp -zeta +zetaDelta only
    | with_reducible first
        | apply kept_foldl | apply kept_mk
    | exact rfl | exact id | intro _

theorem frameCtrlWrite_kept {s₀ : State} (x0 : Nat) (x1 : Nat) (x2 : State) (h2 : Kept s₀ x2) : Kept s₀
    (frameCtrlWrite x0 x1 x2) := by
  unfold frameCtrlWrite
  repeat' first
    | with_reducible first
        | assumption | exact Kept.refl _ | apply modeWrite_kept | apply reject_kept
        | apply frameActivateEffect_kept | apply frameStopEffect_kept | apply frameClockStartEffect_kept
    | extract_lets | split | dsimp -zeta +zetaDelta only
    | exact rfl | exact id | intro _

theorem syncClear_kept {s₀ : State} (x0 : State) (h0 : Kept s₀ x0) : Kept s₀ (syncClear x0) := by
  unfold syncClear
  repeat' first
    | with_reducible first
        | assumption | exact Kept.refl _ | apply setB_kept | apply setF_kept
    | extract_lets | split | dsimp -zeta +zetaDelta only
    | with_reducible first
        | apply kept_foldl | apply kept_mk
    | exact rfl | exact id | intro _

theorem zsyncCfgWrite_kept {s₀ : State} (x0 : Nat) (x1 : RegAt) (x2 : Nat) (x3 : State) (h3 : Kept s₀ x3) : Kept s₀
    (zsyncCfgWrite x0 x1 x2 x3) := by
  unfold zsyncCfgWrite
  repeat' first
    | with_reducible first
        | assumption | exact Kept.refl _ | apply plainWrite_kept | apply syncClear_kept
    | extract_lets | split | dsimp -zeta +zetaDelta only
    | exact rfl | exact id | intro _

theorem zlCfgWrite_kept {s₀ : State} (x0 : Nat) (x1 : Nat) (x2 : Nat) (x3 : State) (h3 : Kept s₀ x3) : Kept s₀
    (zlCfgWrite x0 x1 x2 x3) := by
  unfold zlCfgWrite
  repeat' first
    | with_reducible first
        | assumption | exact Kept.refl _ | apply setF_kept | apply zlEnableEffect_kept | apply zlEnter_kept
        | apply setB_kept
    | extract_lets | split | dsimp -zeta +zetaDelta only
    | exact rfl | exact id | intro _

theorem zlCtrlWrite_kept {s₀ : State} (x0 : Nat) (x1 : Nat) (x2 : Nat) (x3 : State) (h3 : Kept s₀ x3) : Kept s₀
    (zlCtrlWrite x0 x1 x2 x3) := by
  unfold zlCtrlWrite
  repeat' first
    | with_reducible first
        | assumption | apply reject_kept | apply zlRestartEffect_kept | apply zlRetrainEffect_kept
    | split

theorem zringCfgWrite_kept {s₀ : State} (x0 : Fin 8) (x1 : Fin 64) (x2 : Nat) (x3 : State) (h3 : Kept s₀ x3) : Kept s₀
    (zringCfgWrite x0 x1 x2 x3) := by
  unfold zringCfgWrite
  repeat' first
    | with_reducible first
        | assumption | exact Kept.refl _ | apply setF_kept | apply zringEnableEffect_kept
    | extract_lets | split | dsimp -zeta +zetaDelta only
    | exact rfl | exact id | intro _

theorem bistCmdWrite_kept {s₀ : State} (x0 : Nat) (x1 : Nat) (x2 : State) (h2 : Kept s₀ x2) : Kept s₀ (bistCmdWrite x0
    x1 x2) := by
  unfold bistCmdWrite
  repeat' first
    | with_reducible first
        | assumption | exact Kept.refl _ | apply reject_kept | apply bistCoreEffect_kept
        | apply bistBanksEffect_kept | apply bistPortEffect_kept | apply bistSpanEffect_kept
    | extract_lets | split | dsimp -zeta +zetaDelta only
    | exact rfl | exact id | intro _

theorem numevStickyClear_kept {s₀ : State} (x0 : Nat) (x1 : Nat) (x2 : State) (h2 : Kept s₀ x2) : Kept s₀
    (numevStickyClear x0 x1 x2) := by
  unfold numevStickyClear
  repeat' first
    | with_reducible first
        | assumption | exact Kept.refl _
    | extract_lets | split | dsimp -zeta +zetaDelta only
    | with_reducible first
        | apply kept_foldl | apply kept_mk
    | exact rfl | exact id | intro _

theorem dmaevStickyClear_kept {s₀ : State} (x0 : Nat) (x1 : Nat) (x2 : State) (h2 : Kept s₀ x2) : Kept s₀
    (dmaevStickyClear x0 x1 x2) := by
  unfold dmaevStickyClear
  repeat' first
    | with_reducible first
        | assumption | exact Kept.refl _
    | extract_lets | split | dsimp -zeta +zetaDelta only
    | with_reducible first
        | apply kept_foldl | apply kept_mk
    | exact rfl | exact id | intro _

theorem spanWrite_kept {s₀ : State} (x0 : Fin 8) (x1 : PageAt) (x2 : Nat) (x3 : Nat) (x4 : RegAt) (x5 : Nat) (x6 :
    State) (h6 : Kept s₀ x6) : Kept s₀ (spanWrite x0 x1 x2 x3 x4 x5 x6) := by
  unfold spanWrite
  repeat' first
    | with_reducible first
        | assumption | exact Kept.refl _ | apply numevStickyClear_kept | apply numevClear_kept
        | apply dmaevStickyClear_kept | apply dmaevClear_kept | apply slotCtrlWrite_kept
        | apply tlySignalEffect_kept | apply scopeChkEnableEffect_kept | apply plainWrite_kept
        | apply tcFlushAllEffect_kept | apply reject_kept | apply spareWrite_kept | apply redCtrlWrite_kept
        | apply burnishAllEffect_kept | apply ctxEvictEffect_kept | apply ctxSwitchEffect_kept
        | apply fresumeAll_kept | apply schedLoadEffect_kept | apply schedArmEffect_kept | apply zringCfgWrite_kept
        | apply flipArmEffect_kept | apply serrSubstituteEffect_kept
    | extract_lets | split | dsimp -zeta +zetaDelta only
    | exact rfl | exact id | intro _

theorem packageWrite_held {s₀ : State} (x0 : PageAt) (x1 : Nat) (x2 : Nat) (x3 : RegAt) (x4 : Nat) (x5 : State) (h5
    : Held s₀ x5) : Held s₀ (packageWrite x0 x1 x2 x3 x4 x5) := by
  unfold packageWrite
  repeat' first
    | with_reducible first
      | assumption | refine held_kept ?_ (xinvWrite_kept _ _ _ (Kept.refl _))
      | refine held_kept ?_ (frameCtrlWrite_kept _ _ _ (Kept.refl _))
      | refine held_kept ?_ (zlCfgWrite_kept _ _ _ _ (Kept.refl _))
      | refine held_kept ?_ (zlCtrlWrite_kept _ _ _ _ (Kept.refl _))
      | refine held_kept ?_ (zsyncCfgWrite_kept _ _ _ _ (Kept.refl _))
      | refine held_kept ?_ (plainWrite_kept _ _ _ _ (Kept.refl _))
      | refine held_kept ?_ (zwinInvalEffect_kept _ _ _ _ (Kept.refl _))
      | refine held_kept ?_ (elogDoneEffect_kept _ _ _ (Kept.refl _))
      | refine held_kept ?_ (setF_kept _ _ _ _ _ (Kept.refl _))
      | refine held_kept ?_ (elogClearFirst_kept _ (Kept.refl _))
      | refine held_kept ?_ (elogRetireEffect_kept _ _ _ _ (Kept.refl _))
      | refine held_kept ?_ (learnResetEffect_kept _ (Kept.refl _))
      | refine held_kept ?_ (trClearEffect_kept _ _ (Kept.refl _))
      | refine held_kept ?_ (clockNote_kept _ (Kept.refl _)) | apply lcsReqEffect_held | apply packageReset_held
      | refine held_kept ?_ (retlistClearEffect_kept _ _ (Kept.refl _))
      | refine held_kept ?_ (bistCmdWrite_kept _ _ _ (Kept.refl _))
      | refine held_kept ?_ (irqTargetWriteEffect_kept _ _ _ _ _ (Kept.refl _))
      | refine held_kept ?_ (irqSwSetEffect_kept _ _ _ (Kept.refl _))
      | refine held_kept ?_ (irqEoiEffect_kept _ _ _ (Kept.refl _))
      | refine held_kept ?_ (timeCorrWriteEffect_kept _ _ (Kept.refl _))
    | split

theorem blockWrite_held {s₀ : State} (x0 : PageAt) (x1 : Nat) (x2 : Nat) (x3 : Nat) (x4 : RegAt) (x5 : Nat) (x6 :
    State) (h6 : Held s₀ x6) : Held s₀ (blockWrite x0 x1 x2 x3 x4 x5 x6) := by
  unfold blockWrite
  repeat' first
    | with_reducible first
      | assumption | refine held_kept ?_ (reject_kept _ _ _ _ _ _ (Kept.refl _))
      | refine held_kept ?_ (headWrite_kept _ _ _ _ (Kept.refl _))
      | refine held_kept ?_ (spanWrite_kept _ _ _ _ _ _ _ (Kept.refl _)) | apply packageWrite_held
    | split

theorem beatIf_kept {s₀ : State} (x0 : Nat) (x1 : State) (h1 : Kept s₀ x1) : Kept s₀ (beatIf x0 x1) := by
  unfold beatIf
  repeat' first
    | with_reducible first
        | assumption | apply beat_kept
    | split

theorem reinWrite_kept {s₀ : State} (x0 : Nat) (x1 : Nat) (x2 : State) (h2 : Kept s₀ x2) : Kept s₀ (reinWrite x0 x1
    x2) := by
  unfold reinWrite
  repeat' first
    | with_reducible first
        | assumption | exact Kept.refl _ | apply reject_kept | apply beatIf_kept | apply reinClaimEffect_kept
        | apply reinAcceptEffect_kept | apply holderWrite_kept | apply reinsTo_kept | apply beat_kept
    | extract_lets | split | dsimp -zeta +zetaDelta only
    | exact rfl | exact id | intro _

theorem ownWrite_kept {s₀ : State} (x0 : Nat) (x1 : Nat) (x2 : Nat) (x3 : State) (h3 : Kept s₀ x3) : Kept s₀ (ownWrite
    x0 x1 x2 x3) := by
  unfold ownWrite
  repeat' first
    | with_reducible first
        | assumption | exact Kept.refl _ | apply reinWrite_kept | apply holderWrite_kept
        | apply handoverStartEffect_kept | apply beat_kept | apply reject_kept | apply beatIf_kept
        | apply headWrite_kept | apply plainWrite_kept
    | extract_lets | split | dsimp -zeta +zetaDelta only
    | with_reducible first
        | apply kept_foldl | apply kept_mk
    | exact rfl | exact id | intro _

theorem irqpOwnWrite_kept {s₀ : State} (x0 : Nat) (x1 : Nat) (x2 : Nat) (x3 : State) (h3 : Kept s₀ x3) : Kept s₀
    (irqpOwnWrite x0 x1 x2 x3) := by
  unfold irqpOwnWrite
  repeat' first
    | with_reducible first
        | assumption | exact Kept.refl _ | apply reject_kept | apply headWrite_kept | apply irqClaimEffect_kept
        | apply irqCompleteEffect_kept | apply irqEmpty_kept | apply plainWrite_kept | apply putIrq_kept
    | extract_lets | split | dsimp -zeta +zetaDelta only
    | with_reducible first
        | apply kept_foldl | apply kept_mk
    | exact rfl | exact id | intro _

theorem irqpWrite_kept {s₀ : State} (x0 : Nat) (x1 : Nat) (x2 : Nat) (x3 : Nat) (x4 : State) (h4 : Kept s₀ x4) : Kept
    s₀ (irqpWrite x0 x1 x2 x3 x4) := by
  unfold irqpWrite
  repeat' first
    | with_reducible first
        | assumption | apply irqpSwSetEffect_kept | apply irqOwn_kept | apply irqpOwnWrite_kept
    | split

theorem windowWrite_held {s₀ : State} (x0 : Nat) (x1 : Nat) (x2 : Nat) (x3 : Nat) (x4 : Nat) (x5 : State) (h5 : Held
    s₀ x5) : Held s₀ (windowWrite x0 x1 x2 x3 x4 x5) := by
  unfold windowWrite
  repeat' first
    | with_reducible first
      | assumption | exact Held.refl _ | refine held_kept ?_ (rejectPath_kept _ _ _ _ _ (Kept.refl _))
      | refine held_kept ?_ (ownWrite_kept _ _ _ _ (Kept.refl _))
      | refine held_kept ?_ (irqpWrite_kept _ _ _ _ _ (Kept.refl _))
      | refine held_kept ?_ (reject_kept _ _ _ _ _ _ (Kept.refl _)) | apply blockWrite_held
    | extract_lets | split | dsimp -zeta +zetaDelta only

theorem windowStep_held {s₀ : State} (x0 : State) (x1 : Nat) (x2 : Nat) (x3 : State) (h0 : Held s₀ x0) (h3 : Held s₀
    x3) : Held s₀ (windowStep x0 x1 x2 x3) := by
  unfold windowStep islanded clocked
  repeat' split
  all_goals assumption

theorem mbGo_kept {s₀ : State} (x0 : Nat) (x1 : Nat) (x2 : Nat) (x3 : State) (h3 : Kept s₀ x3) : Kept s₀ (mbGo x0 x1
    x2 x3) := by
  unfold mbGo
  extract_lets pg s1 src s2
  have k1 : Kept s₀ s1 := setB_kept _ _ _ _ _ (setF_kept _ _ _ _ _ h3)
  have k2 : Kept s₀ s2 := mbSet_kept _ _ _ _ _ (kept_mk k1 rfl id id)
  clear_value s2
  split
  · exact mbSweep_kept _ _ k2
  · exact k2

theorem sqCfgWrite_kept {s₀ : State} (x0 : Fin 128) (x1 : Fin 16) (x2 : Nat) (x3 : State) (h3 : Kept s₀ x3) : Kept s₀
    (sqCfgWrite x0 x1 x2 x3) := by
  unfold sqCfgWrite
  repeat' first
    | with_reducible first
        | assumption | exact Kept.refl _ | apply setF_kept | apply sqEnableEffect_kept
    | extract_lets | split | dsimp -zeta +zetaDelta only
    | exact rfl | exact id | intro _

theorem fnRegWrite_kept {s₀ : State} (x0 : Fin 128) (x1 : Nat) (x2 : RegAt) (x3 : Nat) (x4 : State) (h4 : Kept s₀ x4)
    : Kept s₀ (fnRegWrite x0 x1 x2 x3 x4) := by
  unfold fnRegWrite
  repeat' first
    | with_reducible first
        | assumption | exact Kept.refl _ | apply headWrite_kept | apply sqCfgWrite_kept | apply cqFullNote_kept
        | apply plainWrite_kept | apply tsigAddEffect_kept | apply mbGo_kept | apply privEdgeEvent_kept
        | apply doorbellEffect_kept
    | extract_lets | split | dsimp -zeta +zetaDelta only
    | exact rfl | exact id | intro _

theorem fnIrqNote_kept {s₀ : State} (x0 : Nat) (x1 : State) (h1 : Kept s₀ x1) : Kept s₀ (fnIrqNote x0 x1) := by
  unfold fnIrqNote
  repeat' first
    | with_reducible first
        | assumption | exact Kept.refl _ | apply putIrq_kept
    | extract_lets | split | dsimp -zeta +zetaDelta only
    | with_reducible first
        | apply kept_foldl | apply kept_mk
    | exact rfl | exact id | intro _

theorem fnPageBody_kept {s₀ : State} (x0 : Fin 128) (x1 : Nat) (x2 : Nat) (x3 : Nat) (x4 : State) (h4 : Kept s₀ x4) :
    Kept s₀ (fnPageBody x0 x1 x2 x3 x4) := by
  unfold fnPageBody
  repeat' first
    | with_reducible first
        | assumption | exact Kept.refl _ | apply rejectPath_kept | apply reject_kept | apply fnIrqNote_kept
        | apply fnRegWrite_kept
    | extract_lets | split | dsimp -zeta +zetaDelta only
    | with_reducible first
        | apply kept_foldl | apply kept_mk
    | exact rfl | exact id | intro _

theorem fnPageWrite_kept {s₀ : State} (x0 : Fin 128) (x1 : Nat) (x2 : Nat) (x3 : Nat) (x4 : State) (h4 : Kept s₀ x4) :
    Kept s₀ (fnPageWrite x0 x1 x2 x3 x4) := by
  unfold fnPageWrite
  repeat' first
    | with_reducible first
        | assumption | apply fnWrite_kept | apply fnPageBody_kept
    | split

theorem execRegisterWrite_held {s₀ : State} (x0 : Bool) (x1 : Nat) (x2 : Nat) (x3 : Nat) (x4 : Nat) (x5 : Nat) (x6 :
    State) (h6 : Held s₀ x6) : ∀ t, (execRegisterWrite x0 x1 x2 x3 x4 x5 x6) = .next t → Held s₀ t := by
  intro t ht
  unfold execRegisterWrite at ht
  cases ht
  repeat' first
    | with_reducible first
      | assumption | apply clocked_held | refine held_kept ?_ (fnPageWrite_kept _ _ _ _ _ (Kept.refl _))
      | apply windowStep_held | apply windowWrite_held
    | split

theorem execBlkCommit_held {s₀ : State} (x0 : Nat) (x1 : Nat) (x2 : State) (h2 : Held s₀ x2) : ∀ t, (execBlkCommit
    x0 x1 x2) = .next t → Held s₀ t := by
  intro t ht
  unfold execBlkCommit at ht
  cases ht
  repeat' first
    | with_reducible first
      | assumption | apply windowStep_held | apply windowWrite_held
    | split

theorem execBlkDiscard_held {s₀ : State} (x0 : Nat) (x1 : Nat) (x2 : State) (h2 : Held s₀ x2) : ∀ t, (execBlkDiscard
    x0 x1 x2) = .next t → Held s₀ t := by
  intro t ht
  unfold execBlkDiscard at ht
  cases ht
  repeat' first
    | with_reducible first
      | assumption | apply windowStep_held | apply windowWrite_held
    | split

theorem commitApplyEffect_kept {s₀ : State} (x0 : Nat) (x1 : State) (h1 : Kept s₀ x1) : Kept s₀ (commitApplyEffect x0
    x1) := by
  unfold commitApplyEffect
  repeat' first
    | with_reducible first
        | assumption | apply pccCommit_kept
    | split

theorem execCommitApply_kept {s₀ : State} (x0 : Nat) (x1 : State) (h1 : Kept s₀ x1) : ∀ t, execCommitApply x0 x1 =
    .next t → Kept s₀ t := by
  intro t ht
  unfold execCommitApply at ht
  cases ht
  repeat' first
    | with_reducible first
        | assumption | exact Kept.refl _ | apply clocked_kept | apply commitApplyEffect_kept
    | extract_lets | split | dsimp -zeta +zetaDelta only
    | exact rfl | exact id | intro _

theorem i3cKeep_kept {s₀ : State} (x0 : Nat) (x1 : Nat) (x2 : State) (h2 : Kept s₀ x2) : Kept s₀ (i3cKeep x0 x1 x2) :=
    by
  unfold i3cKeep
  repeat' first
    | with_reducible first
        | assumption | exact Kept.refl _
    | extract_lets | split | dsimp -zeta +zetaDelta only
    | with_reducible first
        | apply kept_foldl | apply kept_mk
    | exact rfl | exact id | intro _

theorem i3cWidth_kept {s₀ : State} (x0 : Nat) (x1 : State) (h1 : Kept s₀ x1) : Kept s₀ (i3cWidth x0 x1) := by
  unfold i3cWidth
  repeat' first
    | with_reducible first
        | assumption | apply rejectPath_kept
    | split

theorem execI3cRegRead_kept {s₀ : State} (x0 : Nat) (x1 : Nat) (x2 : State) (h2 : Kept s₀ x2) : ∀ t, execI3cRegRead x0
    x1 x2 = .next t → Kept s₀ t := by
  intro t ht
  unfold execI3cRegRead at ht
  cases ht
  repeat' first
    | with_reducible first
        | assumption | exact Kept.refl _ | apply i3cKeep_kept | apply i3cWidth_kept
    | extract_lets | split | dsimp -zeta +zetaDelta only
    | exact rfl | exact id | intro _

theorem i3cWriteEffect_held {s₀ : State} (x0 : Nat) (x1 : Nat) (x2 : Nat) (x3 : State) (h3 : Held s₀ x3) : Held s₀
    (i3cWriteEffect x0 x1 x2 x3) := by
  unfold i3cWriteEffect
  split
  · exact held_kept h3 (i3cKeep_kept _ _ _ (i3cWidth_kept _ _ (Kept.refl _)))
  split
  · exact held_kept h3 (i3cKeep_kept _ _ _ (Kept.refl _))
  extract_lets t
  have ht : Held s₀ t := windowStep_held _ _ _ _ h3 (windowWrite_held _ _ _ _ _ _ h3)
  split
  · exact held_kept ht (i3cKeep_kept _ _ _ (Kept.refl _))
  · exact ht

theorem execI3cRegWrite_held {s₀ : State} (x0 : Nat) (x1 : Nat) (x2 : Nat) (x3 : State) (h3 : Held s₀ x3) : ∀ t,
    (execI3cRegWrite x0 x1 x2 x3) = .next t → Held s₀ t := by
  intro t ht
  unfold execI3cRegWrite at ht
  cases ht
  split
  · exact i3cWriteEffect_held _ _ _ _ h3
  · exact h3

theorem execI3cResultDiscard_kept {s₀ : State} (x0 : State) (h0 : Kept s₀ x0) : ∀ t, execI3cResultDiscard x0 = .next t
    → Kept s₀ t := by
  intro t ht
  unfold execI3cResultDiscard at ht
  cases ht
  repeat' first
    | with_reducible first
        | assumption | exact Kept.refl _
    | extract_lets | split | dsimp -zeta +zetaDelta only
    | with_reducible first
        | apply kept_foldl | apply kept_mk
    | exact rfl | exact id | intro _

end Sys2Proof.Machine
end

