-- ==== Sys2Proof/Laws/LifeCycle.lean ====
section
/-!
SUPPORT. The FUSE stage, the one place where the life-cycle state changes (R612, R613): what reading the fuses does,
and that the rest of the stage keeps it.
-/
namespace Sys2Proof.Machine

/-- The stage keeps everything but what the fuses bring. -/
theorem fuseStageDoneEffect_kept (s : State) : Kept (readFuses s) (fuseStageDoneEffect s) := by
  unfold fuseStageDoneEffect
  extract_lets s1 src s2 s3
  have k2 : Kept s1 s2 := kept_mk (Kept.refl _) rfl id id
  have k3 : Kept s1 s3 := by
    refine kept_foldl (fun t p ht => ?_) k2
    split
    · exact linkSet_kept _ _ _ ht
    · exact ht
  exact toStage_kept _ _ k3

theorem readFuses_fuse (s : State) : (readFuses s).fuse = s.fuse := rfl

theorem readFuses_pending (s : State) : (readFuses s).pending = s.pending := rfl

theorem readFuses_tick (s : State) : (readFuses s).tick = s.tick := rfl

theorem readFuses_memOk (s : State) (h : memOk s) : memOk (readFuses s) := h

/-- Reading the fuses leaves the state, or takes the transition that was requested. -/
theorem readFuses_life (s : State) (h : lifeOk s.pkg.boot = true) :
    lifeOk (readFuses s).pkg.boot = true ∧ lifeStep s (readFuses s) := by
  unfold readFuses fusesRead
  split
  · next t a hp =>
    split
    · simp only [lifeOk, hp, Bool.and_eq_true, decide_eq_true_eq] at h
      refine ⟨?_, Or.inr h.2.1⟩
      have ht : t < 5 := by
        have := h.2.1
        simp only [lifeNext, usesService, Bool.or_eq_true, Bool.and_eq_true, beq_iff_eq, bne_iff_ne] at this
        omega
      simp only [lifeOk, putBoot, Bool.and_eq_true]
      exact ⟨⟨decide_eq_true ht, decide_eq_true h.1.2⟩, trivial⟩
    · exact ⟨h, Or.inl rfl⟩
  · exact ⟨h, Or.inl rfl⟩

end Sys2Proof.Machine
end

