-- ==== Sys2Proof/Laws/Same.lean ====
section
/-!
SUPPORT. Parts of the state that operations leave alone: how `SameBut` composes, and what it says of a state built
from another.
-/
namespace Sys2Proof.Machine

theorem SameBut.refl {l : List Part} (s : State) : SameBut l s s :=
  ⟨rfl, rfl, .inl rfl, .inl rfl, .inl rfl, .inl rfl, .inl rfl, .inl rfl, .inl rfl, .inl rfl, .inl rfl, .inl rfl,
    .inl rfl, .inl rfl, .inl rfl, .inl rfl⟩

/-- Two values, each either the one before it or free to differ. -/
theorem same_or {α : Type} {a b c : α} {p : Prop} (h : a = b ∨ p) (g : c = a ∨ p) : c = b ∨ p := by
  rcases g with g | g
  · exact g ▸ h
  · exact .inr g

theorem SameBut.trans {l : List Part} {a b c : State} (h : SameBut l a b) (g : SameBut l b c) : SameBut l a c :=
  ⟨g.fuse.trans h.fuse, g.pending.trans h.pending, same_or h.tick g.tick, same_or h.regs g.regs,
    same_or h.staged g.staged, same_or h.core g.core, same_or h.lmem g.lmem, same_or h.memo g.memo,
    same_or h.mem g.mem, same_or h.cx g.cx, same_or h.er g.er, same_or h.ho g.ho, same_or h.sch g.sch,
    same_or h.srv g.srv, same_or h.pkg g.pkg, same_or h.free g.free⟩

/-- Fewer parts may differ. -/
theorem SameBut.mono {l k : List Part} {a b : State} (h : SameBut l a b) (hk : ∀ p, p ∈ l → p ∈ k) : SameBut k a b :=
  ⟨h.fuse, h.pending, h.tick.imp_right (hk _), h.regs.imp_right (hk _), h.staged.imp_right (hk _),
    h.core.imp_right (hk _), h.lmem.imp_right (hk _), h.memo.imp_right (hk _), h.mem.imp_right (hk _),
    h.cx.imp_right (hk _), h.er.imp_right (hk _), h.ho.imp_right (hk _), h.sch.imp_right (hk _),
    h.srv.imp_right (hk _), h.pkg.imp_right (hk _), h.free.imp_right (hk _)⟩

/-- A state built from another by changing parts that may differ. -/
theorem same_mk {l : List Part} {s₀ s : State} (h : SameBut l s₀ s)
    {tick regs staged core memo cx er ho sch srv pkg free}
    (htick : tick = s.tick ∨ .tick ∈ l := by first | exact Or.inr (by assumption) | exact Or.inl rfl)
    (hregs : regs = s.regs ∨ .regs ∈ l := by first | exact Or.inr (by assumption) | exact Or.inl rfl)
    (hstaged : staged = s.staged ∨ .staged ∈ l := by first | exact Or.inr (by assumption) | exact Or.inl rfl)
    (hcore : core = s.core ∨ .core ∈ l := by first | exact Or.inr (by assumption) | exact Or.inl rfl)
    (hlmem : core.lmem = s.core.lmem ∨ .lmem ∈ l := by first | exact Or.inr (by assumption) | exact Or.inl rfl)
    (hmemo : memo = s.memo ∨ .memo ∈ l := by first | exact Or.inr (by assumption) | exact Or.inl rfl)
    (hmem : memo.mem = s.memo.mem ∨ .mem ∈ l := by first | exact Or.inr (by assumption) | exact Or.inl rfl)
    (hcx : cx = s.cx ∨ .cx ∈ l := by first | exact Or.inr (by assumption) | exact Or.inl rfl)
    (her : er = s.er ∨ .er ∈ l := by first | exact Or.inr (by assumption) | exact Or.inl rfl)
    (hho : ho = s.ho ∨ .ho ∈ l := by first | exact Or.inr (by assumption) | exact Or.inl rfl)
    (hsch : sch = s.sch ∨ .sch ∈ l := by first | exact Or.inr (by assumption) | exact Or.inl rfl)
    (hsrv : srv = s.srv ∨ .srv ∈ l := by first | exact Or.inr (by assumption) | exact Or.inl rfl)
    (hpkg : pkg = s.pkg ∨ .pkg ∈ l := by first | exact Or.inr (by assumption) | exact Or.inl rfl)
    (hfree : free = s.free ∨ .free ∈ l := by first | exact Or.inr (by assumption) | exact Or.inl rfl) :
    SameBut l s₀ ⟨tick, regs, staged, s.fuse, core, memo, cx, er, ho, sch, srv, pkg, free, s.pending⟩ :=
  h.trans ⟨rfl, rfl, htick, hregs, hstaged, hcore, hlmem, hmemo, hmem, hcx, her, hho, hsch, hsrv, hpkg, hfree⟩

/-- A fold whose accumulator carries the state in its component `p`. -/
theorem same_foldl_at {α β : Type} {l : List Part} {s₀ : State} (p : β → State) {g : β → α → β} {xs : List α} {b : β}
    (hg : ∀ t x, SameBut l s₀ (p t) → SameBut l s₀ (p (g t x))) (h : SameBut l s₀ (p b)) :
    SameBut l s₀ (p (xs.foldl g b)) := by
  induction xs generalizing b with
  | nil => exact h
  | cons x r ih => exact ih (hg _ _ h)

/-- A fold over states. -/
theorem same_foldl {α : Type} {l : List Part} {s₀ : State} {g : State → α → State} {xs : List α} {s : State}
    (hg : ∀ t x, SameBut l s₀ t → SameBut l s₀ (g t x)) (h : SameBut l s₀ s) : SameBut l s₀ (xs.foldl g s) :=
  same_foldl_at id hg h

/-- A fold that carries the state first. -/
theorem same_foldl_fst {α β : Type} {l : List Part} {s₀ : State} {g : State × β → α → State × β} {xs : List α}
    {b : State × β} (hg : ∀ t x, SameBut l s₀ t.1 → SameBut l s₀ (g t x).1) (h : SameBut l s₀ b.1) :
    SameBut l s₀ (xs.foldl g b).1 :=
  same_foldl_at Prod.fst hg h

/-- A fold that carries the state second. -/
theorem same_foldl_snd {α β : Type} {l : List Part} {s₀ : State} {g : β × State → α → β × State} {xs : List α}
    {b : β × State} (hg : ∀ t x, SameBut l s₀ t.2 → SameBut l s₀ (g t x).2) (h : SameBut l s₀ b.2) :
    SameBut l s₀ (xs.foldl g b).2 :=
  same_foldl_at Prod.snd hg h

/-- A fold that carries the state third. -/
theorem same_foldl_thd {α β γ : Type} {l : List Part} {s₀ : State} {g : β × γ × State → α → β × γ × State}
    {xs : List α} {b : β × γ × State} (hg : ∀ t x, SameBut l s₀ t.2.2 → SameBut l s₀ (g t x).2.2)
    (h : SameBut l s₀ b.2.2) : SameBut l s₀ (xs.foldl g b).2.2 :=
  same_foldl_at (fun x : β × γ × State => x.2.2) hg h

end Sys2Proof.Machine
end

