-- ==== Sys2Proof/Laws/State.lean ====
section
/-!
SUPPORT. The parts of the state that each shared operation leaves alone, one lemma for each operation and part.
-/
namespace Sys2Proof.Machine

@[simp] theorem wrR_tick (s : State) (r : Reg) (pg k v : Nat) : (wrR s r pg k v).tick = s.tick := rfl
@[simp] theorem wrR_staged (s : State) (r : Reg) (pg k v : Nat) : (wrR s r pg k v).staged = s.staged := rfl
@[simp] theorem wrR_fuse (s : State) (r : Reg) (pg k v : Nat) : (wrR s r pg k v).fuse = s.fuse := rfl
@[simp] theorem wrR_core (s : State) (r : Reg) (pg k v : Nat) : (wrR s r pg k v).core = s.core := rfl
@[simp] theorem wrR_memo (s : State) (r : Reg) (pg k v : Nat) : (wrR s r pg k v).memo = s.memo := rfl
@[simp] theorem wrR_cx (s : State) (r : Reg) (pg k v : Nat) : (wrR s r pg k v).cx = s.cx := rfl
@[simp] theorem wrR_er (s : State) (r : Reg) (pg k v : Nat) : (wrR s r pg k v).er = s.er := rfl
@[simp] theorem wrR_ho (s : State) (r : Reg) (pg k v : Nat) : (wrR s r pg k v).ho = s.ho := rfl
@[simp] theorem wrR_sch (s : State) (r : Reg) (pg k v : Nat) : (wrR s r pg k v).sch = s.sch := rfl
@[simp] theorem wrR_srv (s : State) (r : Reg) (pg k v : Nat) : (wrR s r pg k v).srv = s.srv := rfl
@[simp] theorem wrR_pkg (s : State) (r : Reg) (pg k v : Nat) : (wrR s r pg k v).pkg = s.pkg := rfl
@[simp] theorem wrR_free (s : State) (r : Reg) (pg k v : Nat) : (wrR s r pg k v).free = s.free := rfl
@[simp] theorem wrR_pending (s : State) (r : Reg) (pg k v : Nat) : (wrR s r pg k v).pending = s.pending := rfl

@[simp] theorem setF_tick (s : State) (f : RField) (pg v k : Nat) : (setF s f pg v k).tick = s.tick := rfl
@[simp] theorem setF_staged (s : State) (f : RField) (pg v k : Nat) : (setF s f pg v k).staged = s.staged := rfl
@[simp] theorem setF_fuse (s : State) (f : RField) (pg v k : Nat) : (setF s f pg v k).fuse = s.fuse := rfl
@[simp] theorem setF_core (s : State) (f : RField) (pg v k : Nat) : (setF s f pg v k).core = s.core := rfl
@[simp] theorem setF_memo (s : State) (f : RField) (pg v k : Nat) : (setF s f pg v k).memo = s.memo := rfl
@[simp] theorem setF_cx (s : State) (f : RField) (pg v k : Nat) : (setF s f pg v k).cx = s.cx := rfl
@[simp] theorem setF_er (s : State) (f : RField) (pg v k : Nat) : (setF s f pg v k).er = s.er := rfl
@[simp] theorem setF_ho (s : State) (f : RField) (pg v k : Nat) : (setF s f pg v k).ho = s.ho := rfl
@[simp] theorem setF_sch (s : State) (f : RField) (pg v k : Nat) : (setF s f pg v k).sch = s.sch := rfl
@[simp] theorem setF_srv (s : State) (f : RField) (pg v k : Nat) : (setF s f pg v k).srv = s.srv := rfl
@[simp] theorem setF_pkg (s : State) (f : RField) (pg v k : Nat) : (setF s f pg v k).pkg = s.pkg := rfl
@[simp] theorem setF_free (s : State) (f : RField) (pg v k : Nat) : (setF s f pg v k).free = s.free := rfl
@[simp] theorem setF_pending (s : State) (f : RField) (pg v k : Nat) : (setF s f pg v k).pending = s.pending := rfl

@[simp] theorem setB_tick (s : State) (f : RField) (pg : Nat) (b : Bool) (k : Nat) : (setB s f pg b k).tick = s.tick :=
  rfl
@[simp] theorem setB_staged (s : State) (f : RField) (pg : Nat) (b : Bool) (k : Nat) : (setB s f pg b k).staged = s.staged :=
  rfl
@[simp] theorem setB_fuse (s : State) (f : RField) (pg : Nat) (b : Bool) (k : Nat) : (setB s f pg b k).fuse = s.fuse :=
  rfl
@[simp] theorem setB_core (s : State) (f : RField) (pg : Nat) (b : Bool) (k : Nat) : (setB s f pg b k).core = s.core :=
  rfl
@[simp] theorem setB_memo (s : State) (f : RField) (pg : Nat) (b : Bool) (k : Nat) : (setB s f pg b k).memo = s.memo :=
  rfl
@[simp] theorem setB_cx (s : State) (f : RField) (pg : Nat) (b : Bool) (k : Nat) : (setB s f pg b k).cx = s.cx := rfl
@[simp] theorem setB_er (s : State) (f : RField) (pg : Nat) (b : Bool) (k : Nat) : (setB s f pg b k).er = s.er := rfl
@[simp] theorem setB_ho (s : State) (f : RField) (pg : Nat) (b : Bool) (k : Nat) : (setB s f pg b k).ho = s.ho := rfl
@[simp] theorem setB_sch (s : State) (f : RField) (pg : Nat) (b : Bool) (k : Nat) : (setB s f pg b k).sch = s.sch :=
  rfl
@[simp] theorem setB_srv (s : State) (f : RField) (pg : Nat) (b : Bool) (k : Nat) : (setB s f pg b k).srv = s.srv :=
  rfl
@[simp] theorem setB_pkg (s : State) (f : RField) (pg : Nat) (b : Bool) (k : Nat) : (setB s f pg b k).pkg = s.pkg :=
  rfl
@[simp] theorem setB_free (s : State) (f : RField) (pg : Nat) (b : Bool) (k : Nat) : (setB s f pg b k).free = s.free :=
  rfl
@[simp] theorem setB_pending (s : State) (f : RField) (pg : Nat) (b : Bool) (k : Nat) : (setB s f pg b k).pending = s.pending :=
  rfl

@[simp] theorem bumpF_tick (s : State) (f : RField) (pg n k : Nat) : (bumpF s f pg n k).tick = s.tick := rfl
@[simp] theorem bumpF_staged (s : State) (f : RField) (pg n k : Nat) : (bumpF s f pg n k).staged = s.staged := rfl
@[simp] theorem bumpF_fuse (s : State) (f : RField) (pg n k : Nat) : (bumpF s f pg n k).fuse = s.fuse := rfl
@[simp] theorem bumpF_core (s : State) (f : RField) (pg n k : Nat) : (bumpF s f pg n k).core = s.core := rfl
@[simp] theorem bumpF_memo (s : State) (f : RField) (pg n k : Nat) : (bumpF s f pg n k).memo = s.memo := rfl
@[simp] theorem bumpF_cx (s : State) (f : RField) (pg n k : Nat) : (bumpF s f pg n k).cx = s.cx := rfl
@[simp] theorem bumpF_er (s : State) (f : RField) (pg n k : Nat) : (bumpF s f pg n k).er = s.er := rfl
@[simp] theorem bumpF_ho (s : State) (f : RField) (pg n k : Nat) : (bumpF s f pg n k).ho = s.ho := rfl
@[simp] theorem bumpF_sch (s : State) (f : RField) (pg n k : Nat) : (bumpF s f pg n k).sch = s.sch := rfl
@[simp] theorem bumpF_srv (s : State) (f : RField) (pg n k : Nat) : (bumpF s f pg n k).srv = s.srv := rfl
@[simp] theorem bumpF_pkg (s : State) (f : RField) (pg n k : Nat) : (bumpF s f pg n k).pkg = s.pkg := rfl
@[simp] theorem bumpF_free (s : State) (f : RField) (pg n k : Nat) : (bumpF s f pg n k).free = s.free := rfl
@[simp] theorem bumpF_pending (s : State) (f : RField) (pg n k : Nat) : (bumpF s f pg n k).pending = s.pending := rfl

@[simp] theorem bumpSat_tick (s : State) (f : RField) (pg n k : Nat) : (bumpSat s f pg n k).tick = s.tick := rfl
@[simp] theorem bumpSat_staged (s : State) (f : RField) (pg n k : Nat) : (bumpSat s f pg n k).staged = s.staged := rfl
@[simp] theorem bumpSat_fuse (s : State) (f : RField) (pg n k : Nat) : (bumpSat s f pg n k).fuse = s.fuse := rfl
@[simp] theorem bumpSat_core (s : State) (f : RField) (pg n k : Nat) : (bumpSat s f pg n k).core = s.core := rfl
@[simp] theorem bumpSat_memo (s : State) (f : RField) (pg n k : Nat) : (bumpSat s f pg n k).memo = s.memo := rfl
@[simp] theorem bumpSat_cx (s : State) (f : RField) (pg n k : Nat) : (bumpSat s f pg n k).cx = s.cx := rfl
@[simp] theorem bumpSat_er (s : State) (f : RField) (pg n k : Nat) : (bumpSat s f pg n k).er = s.er := rfl
@[simp] theorem bumpSat_ho (s : State) (f : RField) (pg n k : Nat) : (bumpSat s f pg n k).ho = s.ho := rfl
@[simp] theorem bumpSat_sch (s : State) (f : RField) (pg n k : Nat) : (bumpSat s f pg n k).sch = s.sch := rfl
@[simp] theorem bumpSat_srv (s : State) (f : RField) (pg n k : Nat) : (bumpSat s f pg n k).srv = s.srv := rfl
@[simp] theorem bumpSat_pkg (s : State) (f : RField) (pg n k : Nat) : (bumpSat s f pg n k).pkg = s.pkg := rfl
@[simp] theorem bumpSat_free (s : State) (f : RField) (pg n k : Nat) : (bumpSat s f pg n k).free = s.free := rfl
@[simp] theorem bumpSat_pending (s : State) (f : RField) (pg n k : Nat) : (bumpSat s f pg n k).pending = s.pending :=
  rfl

@[simp] theorem setBitF_tick (s : State) (f : RField) (pg i k : Nat) : (setBitF s f pg i k).tick = s.tick := rfl
@[simp] theorem setBitF_staged (s : State) (f : RField) (pg i k : Nat) : (setBitF s f pg i k).staged = s.staged := rfl
@[simp] theorem setBitF_fuse (s : State) (f : RField) (pg i k : Nat) : (setBitF s f pg i k).fuse = s.fuse := rfl
@[simp] theorem setBitF_core (s : State) (f : RField) (pg i k : Nat) : (setBitF s f pg i k).core = s.core := rfl
@[simp] theorem setBitF_memo (s : State) (f : RField) (pg i k : Nat) : (setBitF s f pg i k).memo = s.memo := rfl
@[simp] theorem setBitF_cx (s : State) (f : RField) (pg i k : Nat) : (setBitF s f pg i k).cx = s.cx := rfl
@[simp] theorem setBitF_er (s : State) (f : RField) (pg i k : Nat) : (setBitF s f pg i k).er = s.er := rfl
@[simp] theorem setBitF_ho (s : State) (f : RField) (pg i k : Nat) : (setBitF s f pg i k).ho = s.ho := rfl
@[simp] theorem setBitF_sch (s : State) (f : RField) (pg i k : Nat) : (setBitF s f pg i k).sch = s.sch := rfl
@[simp] theorem setBitF_srv (s : State) (f : RField) (pg i k : Nat) : (setBitF s f pg i k).srv = s.srv := rfl
@[simp] theorem setBitF_pkg (s : State) (f : RField) (pg i k : Nat) : (setBitF s f pg i k).pkg = s.pkg := rfl
@[simp] theorem setBitF_free (s : State) (f : RField) (pg i k : Nat) : (setBitF s f pg i k).free = s.free := rfl
@[simp] theorem setBitF_pending (s : State) (f : RField) (pg i k : Nat) : (setBitF s f pg i k).pending = s.pending :=
  rfl

@[simp] theorem clrBitF_tick (s : State) (f : RField) (pg i k : Nat) : (clrBitF s f pg i k).tick = s.tick := rfl
@[simp] theorem clrBitF_staged (s : State) (f : RField) (pg i k : Nat) : (clrBitF s f pg i k).staged = s.staged := rfl
@[simp] theorem clrBitF_fuse (s : State) (f : RField) (pg i k : Nat) : (clrBitF s f pg i k).fuse = s.fuse := rfl
@[simp] theorem clrBitF_core (s : State) (f : RField) (pg i k : Nat) : (clrBitF s f pg i k).core = s.core := rfl
@[simp] theorem clrBitF_memo (s : State) (f : RField) (pg i k : Nat) : (clrBitF s f pg i k).memo = s.memo := rfl
@[simp] theorem clrBitF_cx (s : State) (f : RField) (pg i k : Nat) : (clrBitF s f pg i k).cx = s.cx := rfl
@[simp] theorem clrBitF_er (s : State) (f : RField) (pg i k : Nat) : (clrBitF s f pg i k).er = s.er := rfl
@[simp] theorem clrBitF_ho (s : State) (f : RField) (pg i k : Nat) : (clrBitF s f pg i k).ho = s.ho := rfl
@[simp] theorem clrBitF_sch (s : State) (f : RField) (pg i k : Nat) : (clrBitF s f pg i k).sch = s.sch := rfl
@[simp] theorem clrBitF_srv (s : State) (f : RField) (pg i k : Nat) : (clrBitF s f pg i k).srv = s.srv := rfl
@[simp] theorem clrBitF_pkg (s : State) (f : RField) (pg i k : Nat) : (clrBitF s f pg i k).pkg = s.pkg := rfl
@[simp] theorem clrBitF_free (s : State) (f : RField) (pg i k : Nat) : (clrBitF s f pg i k).free = s.free := rfl
@[simp] theorem clrBitF_pending (s : State) (f : RField) (pg i k : Nat) : (clrBitF s f pg i k).pending = s.pending :=
  rfl

@[simp] theorem irqSrc_tick (s : State) (pg b : Nat) : (irqSrc s pg b).tick = s.tick := rfl
@[simp] theorem irqSrc_staged (s : State) (pg b : Nat) : (irqSrc s pg b).staged = s.staged := rfl
@[simp] theorem irqSrc_fuse (s : State) (pg b : Nat) : (irqSrc s pg b).fuse = s.fuse := rfl
@[simp] theorem irqSrc_core (s : State) (pg b : Nat) : (irqSrc s pg b).core = s.core := rfl
@[simp] theorem irqSrc_memo (s : State) (pg b : Nat) : (irqSrc s pg b).memo = s.memo := rfl
@[simp] theorem irqSrc_cx (s : State) (pg b : Nat) : (irqSrc s pg b).cx = s.cx := rfl
@[simp] theorem irqSrc_er (s : State) (pg b : Nat) : (irqSrc s pg b).er = s.er := rfl
@[simp] theorem irqSrc_ho (s : State) (pg b : Nat) : (irqSrc s pg b).ho = s.ho := rfl
@[simp] theorem irqSrc_sch (s : State) (pg b : Nat) : (irqSrc s pg b).sch = s.sch := rfl
@[simp] theorem irqSrc_srv (s : State) (pg b : Nat) : (irqSrc s pg b).srv = s.srv := rfl
@[simp] theorem irqSrc_pkg (s : State) (pg b : Nat) : (irqSrc s pg b).pkg = s.pkg := rfl
@[simp] theorem irqSrc_free (s : State) (pg b : Nat) : (irqSrc s pg b).free = s.free := rfl
@[simp] theorem irqSrc_pending (s : State) (pg b : Nat) : (irqSrc s pg b).pending = s.pending := rfl

@[simp] theorem blkErr_tick (s : State) (pg b : Nat) : (blkErr s pg b).tick = s.tick := by
  unfold blkErr
  dsimp only
  split <;> rfl
@[simp] theorem blkErr_staged (s : State) (pg b : Nat) : (blkErr s pg b).staged = s.staged := by
  unfold blkErr
  dsimp only
  split <;> rfl
@[simp] theorem blkErr_fuse (s : State) (pg b : Nat) : (blkErr s pg b).fuse = s.fuse := by
  unfold blkErr
  dsimp only
  split <;> rfl
@[simp] theorem blkErr_core (s : State) (pg b : Nat) : (blkErr s pg b).core = s.core := by
  unfold blkErr
  dsimp only
  split <;> rfl
@[simp] theorem blkErr_memo (s : State) (pg b : Nat) : (blkErr s pg b).memo = s.memo := by
  unfold blkErr
  dsimp only
  split <;> rfl
@[simp] theorem blkErr_cx (s : State) (pg b : Nat) : (blkErr s pg b).cx = s.cx := by
  unfold blkErr
  dsimp only
  split <;> rfl
@[simp] theorem blkErr_er (s : State) (pg b : Nat) : (blkErr s pg b).er = s.er := by
  unfold blkErr
  dsimp only
  split <;> rfl
@[simp] theorem blkErr_ho (s : State) (pg b : Nat) : (blkErr s pg b).ho = s.ho := by
  unfold blkErr
  dsimp only
  split <;> rfl
@[simp] theorem blkErr_sch (s : State) (pg b : Nat) : (blkErr s pg b).sch = s.sch := by
  unfold blkErr
  dsimp only
  split <;> rfl
@[simp] theorem blkErr_srv (s : State) (pg b : Nat) : (blkErr s pg b).srv = s.srv := by
  unfold blkErr
  dsimp only
  split <;> rfl
@[simp] theorem blkErr_pkg (s : State) (pg b : Nat) : (blkErr s pg b).pkg = s.pkg := by
  unfold blkErr
  dsimp only
  split <;> rfl
@[simp] theorem blkErr_free (s : State) (pg b : Nat) : (blkErr s pg b).free = s.free := by
  unfold blkErr
  dsimp only
  split <;> rfl
@[simp] theorem blkErr_pending (s : State) (pg b : Nat) : (blkErr s pg b).pending = s.pending := by
  unfold blkErr
  dsimp only
  split <;> rfl

@[simp] theorem reject_tick (s : State) (pg : Nat) (c : Rej) (m off lsb : Nat) : (reject s pg c m off lsb).tick = s.tick := by
  unfold reject
  simp
@[simp] theorem reject_staged (s : State) (pg : Nat) (c : Rej) (m off lsb : Nat) : (reject s pg c m off lsb).staged = s.staged := by
  unfold reject
  simp
@[simp] theorem reject_fuse (s : State) (pg : Nat) (c : Rej) (m off lsb : Nat) : (reject s pg c m off lsb).fuse = s.fuse := by
  unfold reject
  simp
@[simp] theorem reject_core (s : State) (pg : Nat) (c : Rej) (m off lsb : Nat) : (reject s pg c m off lsb).core = s.core := by
  unfold reject
  simp
@[simp] theorem reject_memo (s : State) (pg : Nat) (c : Rej) (m off lsb : Nat) : (reject s pg c m off lsb).memo = s.memo := by
  unfold reject
  simp
@[simp] theorem reject_cx (s : State) (pg : Nat) (c : Rej) (m off lsb : Nat) : (reject s pg c m off lsb).cx = s.cx := by
  unfold reject
  simp
@[simp] theorem reject_er (s : State) (pg : Nat) (c : Rej) (m off lsb : Nat) : (reject s pg c m off lsb).er = s.er := by
  unfold reject
  simp
@[simp] theorem reject_ho (s : State) (pg : Nat) (c : Rej) (m off lsb : Nat) : (reject s pg c m off lsb).ho = s.ho := by
  unfold reject
  simp
@[simp] theorem reject_sch (s : State) (pg : Nat) (c : Rej) (m off lsb : Nat) : (reject s pg c m off lsb).sch = s.sch := by
  unfold reject
  simp
@[simp] theorem reject_srv (s : State) (pg : Nat) (c : Rej) (m off lsb : Nat) : (reject s pg c m off lsb).srv = s.srv := by
  unfold reject
  simp
@[simp] theorem reject_pkg (s : State) (pg : Nat) (c : Rej) (m off lsb : Nat) : (reject s pg c m off lsb).pkg = s.pkg := by
  unfold reject
  simp
@[simp] theorem reject_free (s : State) (pg : Nat) (c : Rej) (m off lsb : Nat) : (reject s pg c m off lsb).free = s.free := by
  unfold reject
  simp
@[simp] theorem reject_pending (s : State) (pg : Nat) (c : Rej) (m off lsb : Nat) : (reject s pg c m off lsb).pending = s.pending := by
  unfold reject
  simp

@[simp] theorem rejectPath_tick (s : State) (c : Rej) (m off lsb : Nat) : (rejectPath s c m off lsb).tick = s.tick := by
  unfold rejectPath
  split <;> simp
@[simp] theorem rejectPath_staged (s : State) (c : Rej) (m off lsb : Nat) : (rejectPath s c m off lsb).staged = s.staged := by
  unfold rejectPath
  split <;> simp
@[simp] theorem rejectPath_fuse (s : State) (c : Rej) (m off lsb : Nat) : (rejectPath s c m off lsb).fuse = s.fuse := by
  unfold rejectPath
  split <;> simp
@[simp] theorem rejectPath_core (s : State) (c : Rej) (m off lsb : Nat) : (rejectPath s c m off lsb).core = s.core := by
  unfold rejectPath
  split <;> simp
@[simp] theorem rejectPath_memo (s : State) (c : Rej) (m off lsb : Nat) : (rejectPath s c m off lsb).memo = s.memo := by
  unfold rejectPath
  split <;> simp
@[simp] theorem rejectPath_cx (s : State) (c : Rej) (m off lsb : Nat) : (rejectPath s c m off lsb).cx = s.cx := by
  unfold rejectPath
  split <;> simp
@[simp] theorem rejectPath_er (s : State) (c : Rej) (m off lsb : Nat) : (rejectPath s c m off lsb).er = s.er := by
  unfold rejectPath
  split <;> simp
/-- A rejection changes the host side only in the code that a control core's access answers (R520). -/
theorem rejectPath_ho (s : State) (c : Rej) (m off lsb : Nat) :
    (rejectPath s c m off lsb).ho = { s.ho with coreCode := if m < 4 then s.ho.coreCode else rejCode c } := by
  match m with
  | 0 | 1 | 2 | 3 => simp [rejectPath]
  | m + 4 => simp [rejectPath, show ¬ m + 4 < 4 by omega]
@[simp] theorem rejectPath_sch (s : State) (c : Rej) (m off lsb : Nat) : (rejectPath s c m off lsb).sch = s.sch := by
  unfold rejectPath
  split <;> simp
@[simp] theorem rejectPath_srv (s : State) (c : Rej) (m off lsb : Nat) : (rejectPath s c m off lsb).srv = s.srv := by
  unfold rejectPath
  split <;> simp
@[simp] theorem rejectPath_pkg (s : State) (c : Rej) (m off lsb : Nat) : (rejectPath s c m off lsb).pkg = s.pkg := by
  unfold rejectPath
  split <;> simp
@[simp] theorem rejectPath_free (s : State) (c : Rej) (m off lsb : Nat) : (rejectPath s c m off lsb).free = s.free := by
  unfold rejectPath
  split <;> simp
@[simp] theorem rejectPath_pending (s : State) (c : Rej) (m off lsb : Nat) : (rejectPath s c m off lsb).pending = s.pending := by
  unfold rejectPath
  split <;> simp

@[simp] theorem putSlot_tick (s : State) (key : Nat) (x : Slot) : (putSlot s key x).tick = s.tick := rfl
@[simp] theorem putSlot_staged (s : State) (key : Nat) (x : Slot) : (putSlot s key x).staged = s.staged := rfl
@[simp] theorem putSlot_fuse (s : State) (key : Nat) (x : Slot) : (putSlot s key x).fuse = s.fuse := rfl
@[simp] theorem putSlot_memo (s : State) (key : Nat) (x : Slot) : (putSlot s key x).memo = s.memo := rfl
@[simp] theorem putSlot_cx (s : State) (key : Nat) (x : Slot) : (putSlot s key x).cx = s.cx := rfl
@[simp] theorem putSlot_er (s : State) (key : Nat) (x : Slot) : (putSlot s key x).er = s.er := rfl
@[simp] theorem putSlot_ho (s : State) (key : Nat) (x : Slot) : (putSlot s key x).ho = s.ho := rfl
@[simp] theorem putSlot_sch (s : State) (key : Nat) (x : Slot) : (putSlot s key x).sch = s.sch := rfl
@[simp] theorem putSlot_srv (s : State) (key : Nat) (x : Slot) : (putSlot s key x).srv = s.srv := rfl
@[simp] theorem putSlot_pkg (s : State) (key : Nat) (x : Slot) : (putSlot s key x).pkg = s.pkg := rfl
@[simp] theorem putSlot_free (s : State) (key : Nat) (x : Slot) : (putSlot s key x).free = s.free := rfl
@[simp] theorem putSlot_pending (s : State) (key : Nat) (x : Slot) : (putSlot s key x).pending = s.pending := rfl
@[simp] theorem putSlot_regs (s : State) (key : Nat) (x : Slot) : (putSlot s key x).regs = s.regs := rfl

@[simp] theorem putQ_tick (s : State) (key e : Nat) (q : Queue) : (putQ s key e q).tick = s.tick := rfl
@[simp] theorem putQ_staged (s : State) (key e : Nat) (q : Queue) : (putQ s key e q).staged = s.staged := rfl
@[simp] theorem putQ_fuse (s : State) (key e : Nat) (q : Queue) : (putQ s key e q).fuse = s.fuse := rfl
@[simp] theorem putQ_memo (s : State) (key e : Nat) (q : Queue) : (putQ s key e q).memo = s.memo := rfl
@[simp] theorem putQ_cx (s : State) (key e : Nat) (q : Queue) : (putQ s key e q).cx = s.cx := rfl
@[simp] theorem putQ_er (s : State) (key e : Nat) (q : Queue) : (putQ s key e q).er = s.er := rfl
@[simp] theorem putQ_ho (s : State) (key e : Nat) (q : Queue) : (putQ s key e q).ho = s.ho := rfl
@[simp] theorem putQ_sch (s : State) (key e : Nat) (q : Queue) : (putQ s key e q).sch = s.sch := rfl
@[simp] theorem putQ_srv (s : State) (key e : Nat) (q : Queue) : (putQ s key e q).srv = s.srv := rfl
@[simp] theorem putQ_pkg (s : State) (key e : Nat) (q : Queue) : (putQ s key e q).pkg = s.pkg := rfl
@[simp] theorem putQ_free (s : State) (key e : Nat) (q : Queue) : (putQ s key e q).free = s.free := rfl
@[simp] theorem putQ_pending (s : State) (key e : Nat) (q : Queue) : (putQ s key e q).pending = s.pending := rfl
@[simp] theorem putQ_regs (s : State) (key e : Nat) (q : Queue) : (putQ s key e q).regs = s.regs := rfl

@[simp] theorem putRec_tick (s : State) (sp ctx : Nat) (r : CtxRec) : (putRec s sp ctx r).tick = s.tick := rfl
@[simp] theorem putRec_staged (s : State) (sp ctx : Nat) (r : CtxRec) : (putRec s sp ctx r).staged = s.staged := rfl
@[simp] theorem putRec_fuse (s : State) (sp ctx : Nat) (r : CtxRec) : (putRec s sp ctx r).fuse = s.fuse := rfl
@[simp] theorem putRec_core (s : State) (sp ctx : Nat) (r : CtxRec) : (putRec s sp ctx r).core = s.core := rfl
@[simp] theorem putRec_memo (s : State) (sp ctx : Nat) (r : CtxRec) : (putRec s sp ctx r).memo = s.memo := rfl
@[simp] theorem putRec_er (s : State) (sp ctx : Nat) (r : CtxRec) : (putRec s sp ctx r).er = s.er := rfl
@[simp] theorem putRec_ho (s : State) (sp ctx : Nat) (r : CtxRec) : (putRec s sp ctx r).ho = s.ho := rfl
@[simp] theorem putRec_sch (s : State) (sp ctx : Nat) (r : CtxRec) : (putRec s sp ctx r).sch = s.sch := rfl
@[simp] theorem putRec_srv (s : State) (sp ctx : Nat) (r : CtxRec) : (putRec s sp ctx r).srv = s.srv := rfl
@[simp] theorem putRec_pkg (s : State) (sp ctx : Nat) (r : CtxRec) : (putRec s sp ctx r).pkg = s.pkg := rfl
@[simp] theorem putRec_free (s : State) (sp ctx : Nat) (r : CtxRec) : (putRec s sp ctx r).free = s.free := rfl
@[simp] theorem putRec_pending (s : State) (sp ctx : Nat) (r : CtxRec) : (putRec s sp ctx r).pending = s.pending :=
  rfl
@[simp] theorem putRec_regs (s : State) (sp ctx : Nat) (r : CtxRec) : (putRec s sp ctx r).regs = s.regs := rfl

@[simp] theorem putSched_tick (s : State) (sp : Nat) (u : SpanSched) : (putSched s sp u).tick = s.tick := rfl
@[simp] theorem putSched_staged (s : State) (sp : Nat) (u : SpanSched) : (putSched s sp u).staged = s.staged := rfl
@[simp] theorem putSched_fuse (s : State) (sp : Nat) (u : SpanSched) : (putSched s sp u).fuse = s.fuse := rfl
@[simp] theorem putSched_core (s : State) (sp : Nat) (u : SpanSched) : (putSched s sp u).core = s.core := rfl
@[simp] theorem putSched_memo (s : State) (sp : Nat) (u : SpanSched) : (putSched s sp u).memo = s.memo := rfl
@[simp] theorem putSched_cx (s : State) (sp : Nat) (u : SpanSched) : (putSched s sp u).cx = s.cx := rfl
@[simp] theorem putSched_er (s : State) (sp : Nat) (u : SpanSched) : (putSched s sp u).er = s.er := rfl
@[simp] theorem putSched_ho (s : State) (sp : Nat) (u : SpanSched) : (putSched s sp u).ho = s.ho := rfl
@[simp] theorem putSched_srv (s : State) (sp : Nat) (u : SpanSched) : (putSched s sp u).srv = s.srv := rfl
@[simp] theorem putSched_pkg (s : State) (sp : Nat) (u : SpanSched) : (putSched s sp u).pkg = s.pkg := rfl
@[simp] theorem putSched_free (s : State) (sp : Nat) (u : SpanSched) : (putSched s sp u).free = s.free := rfl
@[simp] theorem putSched_pending (s : State) (sp : Nat) (u : SpanSched) : (putSched s sp u).pending = s.pending := rfl
@[simp] theorem putSched_regs (s : State) (sp : Nat) (u : SpanSched) : (putSched s sp u).regs = s.regs := rfl

@[simp] theorem putPcc_tick (s : State) (n : Nat) (p : Pcc) : (putPcc s n p).tick = s.tick := rfl
@[simp] theorem putPcc_staged (s : State) (n : Nat) (p : Pcc) : (putPcc s n p).staged = s.staged := rfl
@[simp] theorem putPcc_fuse (s : State) (n : Nat) (p : Pcc) : (putPcc s n p).fuse = s.fuse := rfl
@[simp] theorem putPcc_core (s : State) (n : Nat) (p : Pcc) : (putPcc s n p).core = s.core := rfl
@[simp] theorem putPcc_cx (s : State) (n : Nat) (p : Pcc) : (putPcc s n p).cx = s.cx := rfl
@[simp] theorem putPcc_er (s : State) (n : Nat) (p : Pcc) : (putPcc s n p).er = s.er := rfl
@[simp] theorem putPcc_ho (s : State) (n : Nat) (p : Pcc) : (putPcc s n p).ho = s.ho := rfl
@[simp] theorem putPcc_sch (s : State) (n : Nat) (p : Pcc) : (putPcc s n p).sch = s.sch := rfl
@[simp] theorem putPcc_srv (s : State) (n : Nat) (p : Pcc) : (putPcc s n p).srv = s.srv := rfl
@[simp] theorem putPcc_pkg (s : State) (n : Nat) (p : Pcc) : (putPcc s n p).pkg = s.pkg := rfl
@[simp] theorem putPcc_free (s : State) (n : Nat) (p : Pcc) : (putPcc s n p).free = s.free := rfl
@[simp] theorem putPcc_pending (s : State) (n : Nat) (p : Pcc) : (putPcc s n p).pending = s.pending := rfl
@[simp] theorem putPcc_regs (s : State) (n : Nat) (p : Pcc) : (putPcc s n p).regs = s.regs := rfl

@[simp] theorem tickOnce_staged (s : State) : (tickOnce s).staged = s.staged := by
  unfold tickOnce
  split <;> rfl
@[simp] theorem tickOnce_fuse (s : State) : (tickOnce s).fuse = s.fuse := by
  unfold tickOnce
  split <;> rfl
@[simp] theorem tickOnce_core (s : State) : (tickOnce s).core = s.core := by
  unfold tickOnce
  split <;> rfl
@[simp] theorem tickOnce_memo (s : State) : (tickOnce s).memo = s.memo := by
  unfold tickOnce
  split <;> rfl
@[simp] theorem tickOnce_cx (s : State) : (tickOnce s).cx = s.cx := by
  unfold tickOnce
  split <;> rfl
@[simp] theorem tickOnce_er (s : State) : (tickOnce s).er = s.er := by
  unfold tickOnce
  split <;> rfl
@[simp] theorem tickOnce_ho (s : State) : (tickOnce s).ho = s.ho := by
  unfold tickOnce
  split <;> rfl
@[simp] theorem tickOnce_sch (s : State) : (tickOnce s).sch = s.sch := by
  unfold tickOnce
  split <;> rfl
@[simp] theorem tickOnce_srv (s : State) : (tickOnce s).srv = s.srv := by
  unfold tickOnce
  split <;> rfl
@[simp] theorem tickOnce_pkg (s : State) : (tickOnce s).pkg = s.pkg := by
  unfold tickOnce
  split <;> rfl
@[simp] theorem tickOnce_free (s : State) : (tickOnce s).free = s.free := by
  unfold tickOnce
  split <;> rfl
@[simp] theorem tickOnce_pending (s : State) : (tickOnce s).pending = s.pending := by
  unfold tickOnce
  split <;> rfl
@[simp] theorem tickOnce_regs (s : State) : (tickOnce s).regs = s.regs := by
  unfold tickOnce
  split <;> rfl

end Sys2Proof.Machine
end

