-- ==== Sys2Proof/Laws/Writes.lean ====
section
/-!
SUPPORT. Writes of pages and the tables behind registers: a write that is accepted takes its effect, a rejected one
changes registers only and leaves its code, and what a filtered table of registers reads.
-/
namespace Sys2Proof.Machine

theorem look_filter {κ ν : Type} [DecidableEq κ] (l : List (κ × ν)) (p : κ → Bool) (k : κ) (d : ν) :
    look (l.filter (fun e => p e.1)) k d = if p k then look l k d else d := by
  induction l with
  | nil => simp [look]
  | cons e r ih =>
    by_cases hp : p e.1
    · simp only [List.filter, hp, look]
      by_cases hk : e.1 = k
      · subst hk; simp [hp]
      · simp [hk, ih]
    · simp only [List.filter, hp, look]
      by_cases hk : e.1 = k
      · subst hk; simp [hp, ih]
      · simp [hk, ih]

theorem look_append {κ ν : Type} [DecidableEq κ] (l m : List (κ × ν)) (k : κ) (d : ν) :
    look (l ++ m) k d = look l k (look m k d) := by
  induction l with
  | nil => simp [look]
  | cons e r ih => simp only [List.cons_append, look]; split <;> simp [*]

/-- A register other than the one written reads as before. -/
theorem rdR_setF_ne (s : State) (f : RField) (pg v k : Nat) (r : Reg) (q j : Nat) (h : (r, q, j) ≠ (f.reg, pg, k)) :
    rdR (setF s f pg v k) r q j = rdR s r q j := rdR_wrR_ne h

theorem rdR_setB_ne (s : State) (f : RField) (pg : Nat) (b : Bool) (k : Nat) (r : Reg) (q j : Nat)
    (h : (r, q, j) ≠ (f.reg, pg, k)) : rdR (setB s f pg b k) r q j = rdR s r q j := rdR_wrR_ne h

/-- A write that is not turned away has its effect. -/
theorem guarded_accepted {s : State} {pg m : Nat} (h : accepted s pg m) (off : Nat) (e : State) :
    guarded s pg m off e = e := by
  simp [guarded, h.1, h.2]

/-- While the clocks run a clocked event comes about. -/
theorem clocked_running {s : State} (h : running s = true) (t : State) : clocked s t = t := by simp [clocked, h]

theorem blkErr_wstat (s : State) (pg b : Nat) : getF (blkErr s pg b) fBlkWstatCode pg = getF s fBlkWstatCode pg := by
  have h : ∀ (s : State) (f : RField) v, f.reg ≠ .blkWstat → getF (setF s f pg v) fBlkWstatCode pg = getF s fBlkWstatCode pg := by
    intro s f v hf
    exact getF_setF_ne (by simp [fBlkWstatCode]; exact fun h => absurd h.symm hf)
  unfold blkErr setB
  dsimp only
  split <;> simp [h, fBlkErrAcc, fBlkErrCount, fBlkErrFirst, fBlkErrFirstValid]

/-- A rejected write leaves its code in BLK_WSTAT (R520). -/
theorem reject_wstat (s : State) (pg : Nat) (c : Rej) (m off lsb : Nat) :
    getF (reject s pg c m off lsb) fBlkWstatCode pg = rejCode c := by
  unfold reject
  dsimp only
  rw [blkErr_wstat]
  simp only [setB]
  simp (disch := decide) only [getF_setF_apart, getF_setF]
  cases c <;> rfl

theorem blkErr_regs (s : State) (pg b : Nat) : blkErr s pg b = { s with regs := (blkErr s pg b).regs } := by
  unfold blkErr; dsimp only; split <;> rfl

/-- A rejected write changes registers only. -/
theorem reject_regs (s : State) (pg : Nat) (c : Rej) (m off lsb : Nat) :
    reject s pg c m off lsb = { s with regs := (reject s pg c m off lsb).regs } := by
  unfold reject; dsimp only; rw [blkErr_regs]; rfl

/-- What a package reset leaves (R593, R613). -/
theorem afterReset_done (s : State) : ResetDone s (afterReset s) := by
  have hr : ∀ r pg k, rdR (freshState s) r pg k =
      if (r == .thermTrip || r == .pkgIdRails) then rdR s r pg k else regReset r % 2 ^ 64 := by
    intro r pg k
    simp only [rdR, freshState]
    rw [look_filter s.regs (fun e => e.1 == .thermTrip || e.1 == .pkgIdRails)]
    split <;> simp
  have ha : ∀ r pg k, r ≠ .ownReinClaim → rdR (afterReset s) r pg k = rdR (freshState s) r pg k := fun r pg k h =>
    rdR_wrR_ne (fun e => h (congrArg Prod.fst e))
  constructor <;> try rfl
  · intro r pg k h; rw [ha _ _ _ (by rcases h with rfl | rfl <;> decide), hr]; rcases h with rfl | rfl <;> simp
  · intro r pg k h1 h2 h3; rw [ha _ _ _ h3, hr]; simp [h1, h2]
  · exact getF_setF _ _ _ _ _ (by decide)
  · simp [stage, getF, ha, hr, fLcsStatusStage]; decide
  · simp only [holder, afterReset]
    rw [getF_setF_apart (f := fOwnReinClaimEpoch) (g := fOwnReinClaimHolder) rfl (by decide) (by decide)]
    simp [getF, hr, fOwnReinClaimHolder]; decide
  · exact ⟨rfl, rfl, rfl, rfl⟩

end Sys2Proof.Machine
end

