-- ==== Sys2Proof/WellFormed.lean ====
section
/-!
DEFINITION. Well-formed commands: every number operand lies in the range that the specification gives it. The
meanings are total: a register field takes the low bits of a wider number, and an event whose operand names nothing
does not come about.
-/
namespace Sys2Proof

/-- Masters of the register window (R513, R520): 0 and 1 the host ports, 2 and 3 the management paths, 4 a control
core. -/
def masterOk (m : Nat) : Bool := m ≤ 4

/-- Contexts are numbered 0 to 4,095 (R378). -/
def ctxOk (c : Nat) : Bool := c < 4096

/-- A value of one 64-bit word (R19). -/
def wordOk (v : Nat) : Bool := v < 2 ^ 64

/-- MSI-X table entries of a function: 1,040 for a physical function and 16 for a virtual one (R642). -/
def msixEntriesOf (fn : Fin 128) : Nat := if fn.val % 64 = 0 then 1040 else 16

/-- Whether a command's operands are in range. -/
def wellFormed (i : Instr) : Bool :=
  match i with
  | .powerGoodRise _ => true
  | .powerGoodLoss => true
  | .vmgmtRise => true
  | .packageReset => true
  | .perstAssert _ => true
  | .perstRelease _ => true
  | .railFault _ _ => true
  | .sysclkLoss => true
  | .zlRefclkLoss => true
  | .pcieRefclkLoss _ => true
  | .fuseStageDone => true
  | .romTestDone _ _ _ _ _ _ pcs got exp => pcs.all (fun p => p < 512) && wordOk got && wordOk exp
  | .imageVerifyDone a b _ _ => a.length == 5 && b.length == 5 && a.all wordOk && b.all wordOk
  | .spanTestDone _ cores pcs spares banks zls pcies addr bit count => cores.all (fun c => c < 128)
      && pcs.all (fun p => p < 512) && spares.all (fun k => k < 512) && banks.all (fun k => k < 16384)
      && zls.all (fun p => p < 12) && pcies.all (fun p => p < 2) && wordOk addr && decide (bit < 256)
      && decide (count < 2 ^ 32)
  | .fwInitDone => true
  | .pkgCtrlHeartbeat => true
  | .takeoverStart => true
  | .takeoverComplete => true
  | .mgmtCoreFailure _ => true
  | .deckEdgeFail _ _ => true
  | .creditTimeout _ _ _ since => wordOk since
  | .launchDeliver _ _ ctx => ctxOk ctx
  | .launchStartEngine _ _ _ _ => true
  | .launchStartSeeded _ _ _ => true
  | .launchComplete _ _ _ => true
  | .fetchBlock _ _ _ _ => true
  | .commandDecode _ _ _ _ => true
  | .commandResolve _ _ _ _ => true
  | .speculativeRead _ _ _ idx _ => decide (idx < 32)
  | .commandComplete _ _ _ _ => true
  | .signalArrival _ => true
  | .qNop _ _ _ _ => true
  | .qEnd _ _ _ _ => true
  | .tlWait _ _ _ _ => true
  | .tlWaitSatisfied _ _ _ _ => true
  | .waitTimeout _ _ _ _ => true
  | .tlSignal _ _ _ _ => true
  | .tlSet _ _ _ _ => true
  | .prSet _ _ _ _ => true
  | .prCmp _ _ _ _ => true
  | .prLogic _ _ _ _ => true
  | .prTally _ _ _ _ => true
  | .slotHalt _ _ _ mask m => decide (mask < 32) && masterOk m
  | .slotResume _ _ _ mask m => decide (mask < 32) && masterOk m
  | .slotAbort _ _ _ m => masterOk m
  | .queueErrorHandling _ _ _ => true
  | .coreRetire _ _ => true
  | .tlySignal _ _ _ add m => decide (add < 2 ^ 48) && masterOk m
  | .numevClearAll _ m => masterOk m
  | .numevClearCtx _ m => masterOk m
  | .mxMma _ _ _ => true
  | .vxAdd _ _ _ => true
  | .vxSub _ _ _ => true
  | .vxMul _ _ _ => true
  | .vxFma _ _ _ => true
  | .vxAxpy _ _ _ => true
  | .vxMin _ _ _ => true
  | .vxMax _ _ _ => true
  | .vxCvt _ _ _ => true
  | .vxFill _ _ _ => true
  | .vxExp2 _ _ _ => true
  | .vxLog2 _ _ _ => true
  | .vxRcp _ _ _ => true
  | .vxSqrt _ _ _ => true
  | .vxRsqrt _ _ _ => true
  | .vxAct _ _ _ => true
  | .vxRsum _ _ _ => true
  | .vxRmax _ _ _ => true
  | .vxTr _ _ _ => true
  | .vxRot _ _ _ => true
  | .vxIadd _ _ _ => true
  | .memFlush _ _ _ => true
  | .memInval _ _ _ => true
  | .memFlinv _ _ _ => true
  | .tileCacheEviction _ _ => true
  | .tcFlushAll _ m => masterOk m
  | .tcFlushAllDone _ => true
  | .ldT _ _ _ => true
  | .ldG _ _ _ => true
  | .ldB _ _ _ => true
  | .stT _ _ _ => true
  | .stS _ _ _ => true
  | .stRed _ _ _ => true
  | .stSred _ _ _ => true
  | .stB _ _ _ => true
  | .dmaevClearAll _ m => masterOk m
  | .dmaevClearCtx _ m => masterOk m
  | .pierRequestIssue _ _ => true
  | .partitionTokenRefill _ _ => true
  | .reducerUpdate cell op fmt val ctx => decide (cell < 2 ^ 40) && decide (op ≤ 4) && decide (fmt ≤ 2)
      && wordOk val && ctxOk ctx
  | .orderedUpdateAccept cell tag op fmt val ctx _ => decide (cell < 2 ^ 40) && decide (tag < 2 ^ 128)
      && decide (op ≤ 4) && decide (fmt ≤ 2) && wordOk val && ctxOk ctx
  | .reducerLineEvict _ _ _ => true
  | .settleAll _ _ m => masterOk m
  | .bufWb _ _ m => masterOk m
  | .alert _ _ _ _ => true
  | .readParityError _ _ _ => true
  | .pierRetrain _ _ => true
  | .pierRetrainDone _ _ _ => true
  | .bandChange _ => true
  | .refreshInterval _ _ => true
  | .refreshIssue _ _ => true
  | .spareStart _ _ _ _ m => masterOk m
  | .spareSwitch _ _ _ => true
  | .pcRetire _ _ => true
  | .broadcast _ _ => true
  | .sequenceStart _ _ => true
  | .stitchStart _ _ _ => true
  | .stitchEnd _ _ _ => true
  | .chainDrain _ _ _ _ => true
  | .chainReduce _ _ _ _ => true
  | .sequenceEnd _ _ => true
  | .sequenceSuspend _ _ => true
  | .nbsPoisonPulse _ _ => true
  | .burnishAll _ _ m => masterOk m
  | .nbIssue _ _ _ => true
  | .nbFence _ _ _ => true
  | .nbGemv _ _ => true
  | .nbGather _ _ => true
  | .nbGred _ _ => true
  | .nbAxpy _ _ => true
  | .nbNorm _ _ => true
  | .nbAttn _ _ => true
  | .nbAdam _ _ => true
  | .nbRowop _ _ => true
  | .nbBurnish _ _ => true
  | .scopeChkEnable _ _ m => masterOk m
  | .stepPrepare g => decide (g < 64)
  | .fillPrepare g => decide (g < 64)
  | .kvSwapOut idx => decide (idx < 65536)
  | .kvSwapOutDone idx => decide (idx < 65536)
  | .kvSwapIn idx => decide (idx < 65536)
  | .kvSwapInDone idx => decide (idx < 65536)
  | .ctxEvict _ _ _ _ m => masterOk m
  | .ctxSwitch _ _ _ ctx base m => ctxOk ctx && decide (base < 128) && masterOk m
  | .recordSwapOut _ ctx => ctxOk ctx
  | .recordSwapIn _ ctx => ctxOk ctx
  | .residentStall _ _ => true
  | .residentStallResponse _ _ => true
  | .translationFault _ _ _ _ => true
  | .faultRecordWrite _ => true
  | .fresume _ _ ctx eng m => ctxOk ctx && decide (eng < 32) && masterOk m
  | .fresumeDiscard _ _ ctx eng m => ctxOk ctx && decide (eng < 32) && masterOk m
  | .fringEnable _ _ m => masterOk m
  | .xinvRange asid m => decide (asid < 4096) && masterOk m
  | .xinvAsid asid m => decide (asid < 4096) && masterOk m
  | .xinvAll m => masterOk m
  | .xinvDone => true
  | .pageMove ctx va da => ctxOk ctx && wordOk va && wordOk da
  | .functionLevelReset _ => true
  | .frameStart => true
  | .entryFire _ idx => decide (idx < 4096)
  | .deferredFire _ idx => decide (idx < 4096)
  | .schedLoad _ m => masterOk m
  | .schedValidateDone _ => true
  | .frameActivate m => masterOk m
  | .frameClockStart m => masterOk m
  | .frameStop m => masterOk m
  | .schedArm _ _ mask m => wordOk mask && masterOk m
  | .zlEnable _ m => masterOk m
  | .zlSignalDetect _ => true
  | .zlEqualiseDone _ _ => true
  | .zlAlignDone _ => true
  | .neg _ => true
  | .zlStateTimeout _ => true
  | .zlRetrainDone _ _ => true
  | .zlRestart _ m => masterOk m
  | .zlRetrain _ m => masterOk m
  | .flitTransmit _ _ => true
  | .flitReceive _ _ _ units crc => units.all (fun u => u < 2 ^ 128) && wordOk crc
  | .packetRoute _ => true
  | .linkStall _ _ => true
  | .sendDescPosted _ _ => true
  | .sendDescStart _ _ => true
  | .sendDescComplete _ _ => true
  | .zringEnable _ _ _ m => masterOk m
  | .wr _ => true
  | .red _ => true
  | .sig _ => true
  | .err _ => true
  | .zwinInval _ _ m => masterOk m
  | .zwinInvalDone => true
  | .keyBeatSend => true
  | .key _ => true
  | .echoSend _ => true
  | .echo _ => true
  | .holdoverStart => true
  | .holdoverLost => true
  | .doorbell _ _ tail => wordOk tail
  | .submissionEntryRead _ _ words => words.length == 4 && words.all wordOk
  | .entryAccept _ _ => true
  | .cqRecordWrite _ _ => true
  | .cqStall _ _ => true
  | .sqEnable _ _ _ => true
  | .pciePortFail _ _ => true
  | .apertureRead _ x _ => wordOk x
  | .apertureWrite _ x data => wordOk x && decide (data.length ≤ 512)
  | .ctxCreate _ _ _ => true
  | .ctxDestroy _ _ _ => true
  | .ctxPlace _ _ _ => true
  | .ctxRebind _ _ _ => true
  | .xltInval _ _ _ => true
  | .winOpen _ _ _ => true
  | .winClose _ _ _ => true
  | .swapArea _ _ _ => true
  | .modelCfg _ _ _ => true
  | .groupCfg _ _ _ => true
  | .epochPublish _ _ _ => true
  | .adapterLoad _ _ _ => true
  | .adapterReplace _ _ _ => true
  | .adapterDelete _ _ _ => true
  | .cachedRelease _ _ _ => true
  | .reqCancel _ _ _ => true
  | .version _ _ => true
  | .poll _ _ _ => true
  | .tokenExpiry => true
  | .reinClaim m => masterOk m
  | .reinAccept m => masterOk m
  | .reinRelease m => masterOk m
  | .handoverStart m _ => masterOk m
  | .handoverCancel m => masterOk m
  | .handoverLapse => true
  | .heartbeat m => masterOk m
  | .heartbeatLapse => true
  | .i3cRegRead _ off => decide (off < 2 ^ 32)
  | .i3cRegWrite _ off v => decide (off < 2 ^ 32) && wordOk v
  | .i3cResultDiscard => true
  | .blkCommit pg m => decide (pg < 36864) && masterOk m
  | .commitApply pg => decide (pg < 36864)
  | .blkDiscard pg m => decide (pg < 36864) && masterOk m
  | .registerWrite fnPage who _ size v m => (if fnPage then decide (who < 128) else decide (who < 9))
      && (size == 1 || size == 2 || size == 4 || size == 8) && wordOk v && masterOk m
  | .tsigAdd _ add => wordOk add
  | .hostReadError _ _ _ _ _ _ _ _ => true
  | .correctableEvent _ _ idx bank addr _ => decide (idx < 64) && decide (bank < 32) && wordOk addr
  | .bucketLeak _ _ idx => decide (idx < 64)
  | .flipArm _ v m => wordOk v && masterOk m
  | .scrubRow _ _ => true
  | .retirement _ _ _ _ block => decide (block < 2 ^ 24)
  | .elogRetire kind block m => decide (kind < 4) && decide (block < 2 ^ 24) && masterOk m
  | .serrSubstitute _ _ _ _ m => masterOk m
  | .mirrorRestore page _ => decide (page < 2 ^ 28)
  | .elogDone seq m => decide (seq < 2 ^ 32) && masterOk m
  | .elogClearLost m => masterOk m
  | .elogClearFirst m => masterOk m
  | .itemCommit _ _ => true
  | .itemReplay _ => true
  | .receiptExpiry => true
  | .sensorSample readings => readings.length == 104
  | .rateCheck => true
  | .thermalCeilingRise _ => true
  | .droopDetect _ _ => true
  | .droopRelease _ _ => true
  | .powerSample _ _ _ _ => true
  | .capCeilingRise => true
  | .budgetDecreaseApply => true
  | .setNumericEffecterValue id value => decide (id < 65536) && decide (value < 2 ^ 32)
  | .pldmGetSensor id => decide (id < 65536)
  | .budgetTimeout => true
  | .allocatorInterval => true
  | .learnSave => true
  | .learnReset m => masterOk m
  | .trClear mask m => decide (mask < 128) && masterOk m
  | .lcsReq _ _ m => masterOk m
  | .fuseProgramDone => true
  | .lcsReset m => masterOk m
  | .retlistClear m => masterOk m
  | .sliceStart => true
  | .coreSliceDone _ addr bit count => wordOk addr && decide (bit < 256) && decide (count < 2 ^ 32)
  | .bankSliceDone _ _ addr bit count => wordOk addr && decide (bit < 256) && decide (count < 2 ^ 32)
  | .bistCore _ _ m => masterOk m
  | .bistBanks _ _ _ _ m => masterOk m
  | .bistPort _ m => masterOk m
  | .bistSpan _ m => masterOk m
  | .bistDone _ _ cores pcs spares banks addr bit count => cores.all (fun c => c < 16) && pcs.all (fun p => p < 64)
      && spares.all (fun k => k < 64) && banks.all (fun k => k < 2048) && wordOk addr && decide (bit < 256)
      && decide (count < 2 ^ 32)
  | .irqLevelChange shared _ n => (if shared then decide (n < 524) else decide (n < 64))
  | .irqEdge shared _ n => (if shared then decide (n < 1024) else decide (n < 64))
  | .irqClaim _ _ => true
  | .irqComplete _ _ _ => true
  | .irqStackReset _ _ => true
  | .irqpSwSet _ _ _ => true
  | .irqTimer _ => true
  | .irqSwSet _ m => masterOk m
  | .irqEoi _ m => masterOk m
  | .irqTargetWrite _ _ _ m => masterOk m
  | .msixSend _ _ n => decide (n < 1024)
  | .timeCorrWrite offset m => decide (offset < 2 ^ 64) && masterOk m
  | .vmgmtLoss => true
  | .resetNRelease => true
  | .pcieLinkDown _ => true
  | .pcieLinkUp _ _ _ _ => true
  | .pcieConfigWrite _ _ v => decide (v < 2 ^ 32)
  | .i3cDynamicAddress _ => true
  | .msixEntryUnmask fn entry => decide (entry < msixEntriesOf fn)
  | .pldmBaseRequest _ => true

end Sys2Proof
end

