-- ==== Sys2Proof/Tests/Slice0.lean ====
section
/-!
SUPPORT. Tests: the smoke test of WellFormed with an ill-formed term for each check, single steps whose results the
spec states, and for every statement of Certificates/Slice0/Obligations.lean with hypotheses a theorem for each clause
that shows a concrete state and operands that meet its hypotheses together. Each witness names its statement, and its
clause by position.
-/
open Sys2Proof Sys2Proof.Machine

namespace Sys2Proof.Tests

-- One theorem at a time: each waits for the kernel.
set_option Elab.async false

/-! ### Ill-formed and well-formed commands -/

/-- Register-window masters are 0 to 4 (R513). -/
theorem test_illFormed_masters : (
    [.slotHalt 0 0 0 0 5, .slotResume 0 0 0 0 5, .slotAbort 0 0 0 5, .tlySignal 0 0 0 0 5, .numevClearAll 0 5,
     .numevClearCtx 0 5, .tcFlushAll 0 5, .dmaevClearAll 0 5, .dmaevClearCtx 0 5, .settleAll 0 0 5,
     .bufWb 0 0 5, .spareStart 0 0 0 0 5, .burnishAll 0 0 5, .scopeChkEnable 0 0 5, .ctxEvict 0 0 0 false 5,
     .ctxSwitch 0 0 0 0 0 5, .fresume 0 0 0 0 5, .fresumeDiscard 0 0 0 0 5, .fringEnable 0 false 5,
     .xinvRange 0 5, .xinvAsid 0 5, .xinvAll 5, .schedLoad 0 5, .frameActivate 5, .frameClockStart 5,
     .frameStop 5, .schedArm 0 0 0 5, .zlEnable 0 5, .zlRestart 0 5, .zlRetrain 0 5, .zringEnable 0 0 false 5,
     .zwinInval false 0 5, .reinClaim 5, .reinAccept 5, .reinRelease 5, .handoverStart 5 0, .handoverCancel 5,
     .heartbeat 5, .blkCommit 0 5, .blkDiscard 0 5, .registerWrite false 0 0 1 0 5, .flipArm 0 0 5,
     .elogRetire 0 0 5, .serrSubstitute 0 0 0 false 5, .elogDone 0 5, .elogClearLost 5, .elogClearFirst 5,
     .learnReset 5, .trClear 0 5, .lcsReq 0 0 5, .lcsReset 5, .retlistClear 5, .bistCore 0 0 5,
     .bistBanks 0 0 0 0 5, .bistPort 0 5, .bistSpan 0 5, .irqSwSet 0 5, .irqEoi 0 5,
     .irqTargetWrite 0 0 false 5, .timeCorrWrite 0 5]
    : List Instr).all (fun i => !wellFormed i) = true := by decide +kernel
/-- Contexts are 0 to 4,095 (R378). -/
theorem test_illFormed_contexts : (
    [.launchDeliver 0 0 4096, .reducerUpdate 0 0 0 0 4096, .orderedUpdateAccept 0 0 0 0 0 4096 0,
     .ctxSwitch 0 0 0 4096 0 0, .recordSwapOut 0 4096, .recordSwapIn 0 4096, .fresume 0 0 4096 0 0,
     .fresumeDiscard 0 0 4096 0 0, .pageMove 4096 0 0]
    : List Instr).all (fun i => !wellFormed i) = true := by decide +kernel
/-- Words have 64 bits (R19). -/
theorem test_illFormed_words : (
    [.creditTimeout 0 0 false (2 ^ 64), .romTestDone false false 0 0 0 0 [] (2 ^ 64) 0, .romTestDone false false 0 0 0 0 [] 0 (2 ^ 64),
     .imageVerifyDone (List.replicate 5 (2 ^ 64)) (List.replicate 5 0) false false,
     .imageVerifyDone (List.replicate 5 0) (List.replicate 5 (2 ^ 64)) false false,
     .spanTestDone 0 [] [] [] [] [] [] (2 ^ 64) 0 0, .reducerUpdate 0 0 0 (2 ^ 64) 0,
     .orderedUpdateAccept 0 0 0 0 (2 ^ 64) 0 0, .pageMove 0 (2 ^ 64) 0, .pageMove 0 0 (2 ^ 64),
     .schedArm 0 0 (2 ^ 64) 0, .doorbell 0 0 (2 ^ 64), .submissionEntryRead 0 0 (List.replicate 4 (2 ^ 64)),
     .apertureRead 0 (2 ^ 64) 0, .apertureWrite 0 (2 ^ 64) [], .i3cRegWrite 0 0 (2 ^ 64),
     .registerWrite false 0 0 1 (2 ^ 64) 0, .tsigAdd 0 (2 ^ 64), .correctableEvent 0 0 0 0 (2 ^ 64) false,
     .flipArm 0 (2 ^ 64) 0, .coreSliceDone false (2 ^ 64) 0 0, .bankSliceDone 0 0 (2 ^ 64) 0 0,
     .bistDone false false [] [] [] [] (2 ^ 64) 0 0]
    : List Instr).all (fun i => !wellFormed i) = true := by decide +kernel
/-- Every number of a list of units or values lies in its range. -/
theorem test_illFormed_lists : (
    [.romTestDone false false 0 0 0 0 [512] 0 0, .spanTestDone 0 [128] [] [] [] [] [] 0 0 0,
     .spanTestDone 0 [] [512] [] [] [] [] 0 0 0, .spanTestDone 0 [] [] [512] [] [] [] 0 0 0,
     .spanTestDone 0 [] [] [] [16384] [] [] 0 0 0, .spanTestDone 0 [] [] [] [] [12] [] 0 0 0,
     .spanTestDone 0 [] [] [] [] [] [2] 0 0 0, .flitReceive 0 false 0 [2 ^ 128] 0, .flitReceive 0 false 0 [] (2 ^ 64),
     .bistDone false false [16] [] [] [] 0 0 0, .bistDone false false [] [64] [] [] 0 0 0,
     .bistDone false false [] [] [64] [] 0 0 0, .bistDone false false [] [] [] [2048] 0 0 0]
    : List Instr).all (fun i => !wellFormed i) = true := by decide +kernel
/-- Numbers lie in the range of the row. -/
theorem test_illFormed_ranges : (
    [.spanTestDone 0 [] [] [] [] [] [] 0 256 0, .spanTestDone 0 [] [] [] [] [] [] 0 0 (2 ^ 32),
     .speculativeRead 0 0 0 32 0, .slotHalt 0 0 0 32 0, .slotResume 0 0 0 32 0, .tlySignal 0 0 0 (2 ^ 48) 0,
     .reducerUpdate (2 ^ 40) 0 0 0 0, .reducerUpdate 0 5 0 0 0, .reducerUpdate 0 0 3 0 0,
     .orderedUpdateAccept (2 ^ 40) 0 0 0 0 0 0, .orderedUpdateAccept 0 (2 ^ 128) 0 0 0 0 0,
     .orderedUpdateAccept 0 0 5 0 0 0 0, .orderedUpdateAccept 0 0 0 3 0 0 0, .stepPrepare 64, .fillPrepare 64,
     .kvSwapOut 65536, .kvSwapOutDone 65536, .kvSwapIn 65536, .kvSwapInDone 65536, .ctxSwitch 0 0 0 0 128 0,
     .fresume 0 0 0 32 0, .fresumeDiscard 0 0 0 32 0, .xinvRange 4096 0, .xinvAsid 4096 0, .entryFire 0 4096,
     .deferredFire 0 4096, .i3cRegRead 0 (2 ^ 32), .i3cRegWrite 0 (2 ^ 32) 0, .blkCommit 36864 0,
     .commitApply 36864, .blkDiscard 36864 0, .correctableEvent 0 0 64 0 0 false, .correctableEvent 0 0 0 32 0 false,
     .bucketLeak 0 0 64, .retirement 0 0 0 0 (2 ^ 24), .elogRetire 4 0 0, .elogRetire 0 (2 ^ 24) 0,
     .mirrorRestore (2 ^ 28) false, .elogDone (2 ^ 32) 0, .setNumericEffecterValue 65536 0,
     .setNumericEffecterValue 0 (2 ^ 32), .pldmGetSensor 65536, .trClear 128 0, .coreSliceDone false 0 256 0,
     .coreSliceDone false 0 0 (2 ^ 32), .bankSliceDone 0 0 0 256 0, .bankSliceDone 0 0 0 0 (2 ^ 32),
     .bistDone false false [] [] [] [] 0 256 0, .bistDone false false [] [] [] [] 0 0 (2 ^ 32),
     .msixSend 0 0 1024, .timeCorrWrite (2 ^ 64) 0, .pcieConfigWrite 0 0 (2 ^ 32)]
    : List Instr).all (fun i => !wellFormed i) = true := by decide +kernel
/-- Lists have the length of the row. -/
theorem test_illFormed_lengths : (
    [.imageVerifyDone (List.replicate 4 0) (List.replicate 5 0) false false,
     .imageVerifyDone (List.replicate 5 0) (List.replicate 4 0) false false,
     .submissionEntryRead 0 0 (List.replicate 3 0), .apertureWrite 0 0 (List.replicate 513 0),
     .sensorSample (List.replicate 103 0)]
    : List Instr).all (fun i => !wellFormed i) = true := by decide +kernel
/-- Ranges that another operand chooses. -/
theorem test_illFormed_choices : (
    [.registerWrite true 128 0 1 0 0, .registerWrite false 9 0 1 0 0, .registerWrite false 0 0 3 0 0,
     .irqLevelChange false 0 64, .irqLevelChange true 0 524, .irqEdge false 0 64, .irqEdge true 0 1024,
     .msixEntryUnmask 0 1040, .msixEntryUnmask 65 16]
    : List Instr).all (fun i => !wellFormed i) = true := by decide +kernel
/-- The same rows with their operands in range. -/
theorem test_wellFormed_rows : (
    [.creditTimeout 0 0 false 0, .romTestDone false false 0 0 0 0 [] 0 0,
     .imageVerifyDone (List.replicate 5 0) (List.replicate 5 0) false false,
     .spanTestDone 0 [] [] [] [] [] [] 0 0 0, .launchDeliver 0 0 0, .speculativeRead 0 0 0 0 0,
     .slotHalt 0 0 0 0 0, .slotResume 0 0 0 0 0, .slotAbort 0 0 0 0, .tlySignal 0 0 0 0 0, .numevClearAll 0 0,
     .numevClearCtx 0 0, .tcFlushAll 0 0, .dmaevClearAll 0 0, .dmaevClearCtx 0 0, .reducerUpdate 0 0 0 0 0,
     .orderedUpdateAccept 0 0 0 0 0 0 0, .settleAll 0 0 0, .bufWb 0 0 0, .spareStart 0 0 0 0 0,
     .burnishAll 0 0 0, .scopeChkEnable 0 0 0, .stepPrepare 0, .fillPrepare 0, .kvSwapOut 0, .kvSwapOutDone 0,
     .kvSwapIn 0, .kvSwapInDone 0, .ctxEvict 0 0 0 false 0, .ctxSwitch 0 0 0 0 0 0, .recordSwapOut 0 0,
     .recordSwapIn 0 0, .fresume 0 0 0 0 0, .fresumeDiscard 0 0 0 0 0, .fringEnable 0 false 0, .xinvRange 0 0,
     .xinvAsid 0 0, .xinvAll 0, .pageMove 0 0 0, .entryFire 0 0, .deferredFire 0 0, .schedLoad 0 0,
     .frameActivate 0, .frameClockStart 0, .frameStop 0, .schedArm 0 0 0 0, .zlEnable 0 0, .zlRestart 0 0,
     .zlRetrain 0 0, .flitReceive 0 false 0 [] 0, .zringEnable 0 0 false 0, .zwinInval false 0 0,
     .doorbell 0 0 0, .submissionEntryRead 0 0 (List.replicate 4 0), .apertureRead 0 0 0,
     .apertureWrite 0 0 [], .reinClaim 0, .reinAccept 0, .reinRelease 0, .handoverStart 0 0, .handoverCancel 0,
     .heartbeat 0, .i3cRegRead 0 0, .i3cRegWrite 0 0 0, .blkCommit 0 0, .commitApply 0, .blkDiscard 0 0,
     .registerWrite false 0 0 1 0 0, .tsigAdd 0 0, .correctableEvent 0 0 0 0 0 false, .bucketLeak 0 0 0,
     .flipArm 0 0 0, .retirement 0 0 0 0 0, .elogRetire 0 0 0, .serrSubstitute 0 0 0 false 0,
     .mirrorRestore 0 false, .elogDone 0 0, .elogClearLost 0, .elogClearFirst 0,
     .sensorSample (List.replicate 104 0), .setNumericEffecterValue 0 0, .pldmGetSensor 0,
     .allocatorInterval, .learnReset 0, .trClear 0 0, .lcsReq 0 0 0, .lcsReset 0, .retlistClear 0,
     .coreSliceDone false 0 0 0, .bankSliceDone 0 0 0 0 0, .bistCore 0 0 0, .bistBanks 0 0 0 0 0,
     .bistPort 0 0, .bistSpan 0 0, .bistDone false false [] [] [] [] 0 0 0, .irqLevelChange false 0 0,
     .irqEdge false 0 0, .irqSwSet 0 0, .irqEoi 0 0, .irqTargetWrite 0 0 false 0, .msixSend 0 0 0,
     .timeCorrWrite 0 0, .pcieConfigWrite 0 0 0, .msixEntryUnmask 0 0]
    : List Instr).all wellFormed = true := by decide +kernel

/-! ### Worked examples of the spec -/

/-- "An EHW-8128-A with nothing fused reads 0x0000_000F_FF10_1001" (00, worked example of the grade register). -/
theorem test_grade_register : gradeVal State.reset = 0x0000000FFF101001 := by decide +kernel
/-- A device address of the EHW-8128-A (06, "one address, two decodes"). -/
def exampleDa : Nat := 0x3A5C812345
/-- Its span-local decode. -/
theorem test_decode_spanLocal :
    cellSpan (cellOf State.reset false exampleDa) = 1 ∧ cellSo (cellOf State.reset false exampleDa) = 0x1A5C812345
    ∧ cellBank (cellOf State.reset false exampleDa) = 4 ∧ cellPc State.reset (cellOf State.reset false exampleDa) = 1
    ∧ cellRow State.reset (cellOf State.reset false exampleDa) = 26994 := by decide +kernel
/-- Its decode under package interleave. -/
theorem test_decode_interleave :
    cellSpan (cellOf State.reset true exampleDa) = 2 ∧ cellSo (cellOf State.reset true exampleDa) = 0x74B902345
    ∧ cellBank (cellOf State.reset true exampleDa) = 4 ∧ cellPc State.reset (cellOf State.reset true exampleDa) = 16
    ∧ cellRow State.reset (cellOf State.reset true exampleDa) = 7470 := by decide +kernel
/-- A fraction rounded to FP32. -/
def f32 (a : Int) (b : Nat) : Sys2Proof.Machine.Num := roundFp32 (numDiv (numOfInt a) (numOfInt b))
/-- A block quantised to E4M3 under MX32 (02, worked example): scale 0x7A, codes 0x7E, 0xD2 and 0x07, no event. -/
theorem test_quantise_e4m3 : writeBlock .e4m3 1 numOne [f32 137 10, f32 (-3) 10, f32 4 10000]
    = (0x7A, [0x7E, 0xD2, 0x07], evNone) := by decide +kernel
/-- The second block of that example: 508.8 saturates and is counted. -/
theorem test_quantise_saturates : writeBlock .e4m3 1 numOne [f32 159 10] = (0x7A, [0x7E], evSat) := by decide +kernel
/-- The packed key bytes of a chunk (02, "E2M1 keys against a BF16 query", R56). -/
def keyByte (a : Nat) : Nat := [0xD3, 0x17, 0xA0, 0x46].getD a 0
theorem test_packed_keys : (List.range 8).map (elemCode .e2m1 keyByte 0) = [3, 0xD, 7, 1, 0, 0xA, 6, 4] := by
  decide +kernel
/-- The canonical dot order over that chunk with C = 2^24 gives 0x4B7F_FFFE, where single steps would end one below. -/
theorem test_chunk_sum : fp32Code (cdo ([3, 0xD, 7, 1, 0, 0xA, 6, 4].map (fun c => decodedVal .e2m1 1 c 0x7D))
    ([0x3F81, 0x4000, 0xBF00, 0x4040, 0x40E0, 0x3FA0, 0xBEA0, 0x3DCD].map (elemVal .bf16 false))
    (fp32Val 0x4B800000) 8) = 0x4B7FFFFE := by decide +kernel
/-- 2^24 + 1 is a tie that rounds to the even mantissa (09, "three floating adds"). -/
theorem test_tie_to_even : roundFp32 (numAdd (fp32Val 0x4B800000) (numOfInt 1)) = roundFp32 (numOfInt (2 ^ 24)) := by
  decide +kernel
/-! ### What the witnesses share -/

/-- Operands of the witnesses. -/
def sp1 : Fin 8 := 1
def co2 : Fin 16 := 2
def sl0 : Fin 4 := 0
def pc3 : Fin 64 := 3
def p3 : Fin 12 := 3
/-- The package after reset, at a later tick. -/
def r0 : State := { State.reset with tick := 5 }
/-- Page tables at device addresses 4096 and 8192: virtual addresses below 1 GiB are span 0's device memory, the
next GiB is span 1's; both may be read, written and fetched. -/
def tables : List Host.Cell := [(4096, 3), (4097, 32), (8192, 29), (8200, 29), (8204, 32)]
/-- A context of priority 3 with those tables and a window of 512 KiB. -/
def cx1 : Ctx := ⟨5, 3, 0, true, 0, false, 0, 4096, 255, 8⟩
/-- The package with context 1. -/
def ptd : State := { r0 with memo := { r0.memo with mem := tables }, cx := { r0.cx with ctxs := [(1, cx1)] } }
/-- An issued command of the words given. -/
def qc (w0 w1 w2 w3 : Nat) : QCmd :=
  ⟨256, w0, w1, w2, w3, 0, .issued, false, 0, 0, 0, 0, 0, 0, false, false, 0, 0, 0, 0, 0, 9, 0, false⟩
/-- A running queue that holds commands. -/
def qRun (l : List QCmd) : Queue := { idleQueue with st := .run, pc := 256, fetchPc := 288, cmds := l }
/-- A core part whose queue `e` holds commands. -/
def partQ (e : Nat) (l : List QCmd) : CorePart := partSetQueue newPart e (qRun l)
/-- Context 1 in slot 0 of core 2 of span 1, with commands in queue `e`. -/
def inSlot (s : State) (e : Nat) (l : List QCmd) : State :=
  putSlot s 72 { emptySlot with ctx := some 1, prio := 3, part := partQ e l }
/-- Bytes of 64-bit words. -/
def wbytes (l : List Nat) : List Byte := l.flatMap (fun w => (List.range 8).map (fun i => BitVec.ofNat 8 (w / 2 ^ (8 * i))))
/-- Local memory of the slot with words written at an offset. -/
def lmAt (s : State) (off : Nat) (l : List Nat) : State := lmWrite s 72 off (wbytes l)
/-- The package in READY. -/
def su5 : State := setF r0 fLcsStatusStage pgLcs 5

namespace W01

/-! The queue, the tick and the invariants. -/
def qd : State := { r0 with pending := [.powerGoodLoss] }
def dn : State := { r0 with pkg := { r0.pkg with boot := { r0.pkg.boot with pwrgood := false } } }
def st0 : Fin 4096 := 0x123
/-- Obligations.StepRunsFrontCommand, clause 1. -/
theorem witness_step : qd.pending = [Instr.powerGoodLoss] := by
  decide +kernel
/-- Obligations.StepRunsFrontCommand, clause 2.1. -/
theorem witness_idle_high : r0.pending = [] ∧ r0.pkg.boot.pwrgood = true := by
  decide +kernel
/-- Obligations.StepRunsFrontCommand, clause 2.2. -/
theorem witness_idle_low : dn.pending = [] ∧ dn.pkg.boot.pwrgood = false := by
  decide +kernel
/-- Obligations.TickSetOnlyAtPowerGood, clause 1. -/
theorem witness_tick_zero : dn.pkg.boot.vmgmt = true ∧ dn.pkg.boot.pwrgood = false := by
  decide +kernel

/-- A step and a command that a statement about every next state covers. -/
theorem witness_memOk : ∃ t, memOk qd ∧ step qd = .next t := ⟨_, ⟨by decide +kernel, by decide +kernel⟩, rfl⟩
theorem witness_life : ∃ t, lifeOk qd.pkg.boot = true ∧ step qd = .next t := ⟨_, by decide +kernel, rfl⟩
theorem witness_tick_kept : ∃ t, exec .packageReset r0 = .next t ∧ (∀ straps, Instr.packageReset ≠ .powerGoodRise straps)
    ∧ Instr.packageReset ≠ .powerGoodLoss ∧ Instr.packageReset ≠ .vmgmtLoss :=
  ⟨_, rfl, fun _ => by simp, by simp, by simp⟩
theorem witness_tick_lost : ∃ t, exec .powerGoodLoss r0 = .next t ∧ t.tick = 0 := ⟨_, rfl, by decide +kernel⟩

end W01

namespace W02

/-! Rails, resets and the life cycle. -/
def bt (f : BootSt → BootSt) : State := { r0 with pkg := { r0.pkg with boot := f r0.pkg.boot } }
def noV : State := bt (fun b => { b with vmgmt := false, pwrgood := false })
def lowP : State := bt (fun b => { b with pwrgood := false })
def trip : State := bt (fun b => { b with tripN := true })
def prg : State := bt (fun b => { b with program := some (3, 4) })
def prgW : State := bt (fun b => { b with program := some (3, 4), resetPend := true })
def st1 : Fin 4096 := 1
def rl : Fin 256 := 3
/-- Obligations.RailsRiseAndStartUpBegins, clause 1. -/
theorem witness_vmgmtRise : noV.pkg.boot.vmgmt = false := by
  decide +kernel
/-- Obligations.RailsRiseAndStartUpBegins, clause 2. -/
theorem witness_powerGoodRise : lowP.pkg.boot.vmgmt = true ∧ lowP.pkg.boot.pwrgood = false := by
  decide +kernel
/-- Obligations.PackageResetKeepsOnlyWhatTheRulesKeep, clause 1. -/
theorem witness_packageReset : r0.pkg.boot.pwrgood = true ∧ r0.pkg.boot.tripN = false ∧ programming r0 = false := by
  decide +kernel
/-- Obligations.PackageResetKeepsOnlyWhatTheRulesKeep, clause 2. -/
theorem witness_packageReset_low : (lowP.pkg.boot.pwrgood = false ∨ lowP.pkg.boot.tripN = true) := by
  decide +kernel
/-- Obligations.PackageResetKeepsOnlyWhatTheRulesKeep, clause 2. -/
theorem witness_packageReset_trip : (trip.pkg.boot.pwrgood = false ∨ trip.pkg.boot.tripN = true) := by
  decide +kernel
/-- Obligations.PackageResetKeepsOnlyWhatTheRulesKeep, clause 3. -/
theorem witness_lcsReset : running r0 = true ∧ accepted r0 pgLcs 4 ∧ programming r0 = false := by
  unfold accepted; decide +kernel
/-- Obligations.PackageResetKeepsOnlyWhatTheRulesKeep, clause 4. -/
theorem witness_lcsReset_waits : running prg = true ∧ accepted prg pgLcs 4 ∧ programming prg = true := by
  unfold accepted; decide +kernel
/-- Obligations.PackageResetKeepsOnlyWhatTheRulesKeep, clause 5. -/
theorem witness_fuseDone : prg.pkg.boot.vmgmt = true ∧ prg.pkg.boot.program = some (3, 4)
    ∧ prg.pkg.boot.programmed = false ∧ prg.pkg.boot.resetPend = false := by
  decide +kernel
/-- Obligations.PackageResetKeepsOnlyWhatTheRulesKeep, clause 6. -/
theorem witness_fuseDone_reset : prgW.pkg.boot.vmgmt = true ∧ prgW.pkg.boot.program = some (3, 4)
    ∧ prgW.pkg.boot.programmed = false ∧ prgW.pkg.boot.resetPend = true := by
  decide +kernel
/-- Obligations.PowerLossKeepsOnlyTheIsland, clause 1. -/
theorem witness_powerGoodLoss : r0.pkg.boot.pwrgood = true := by
  decide +kernel
/-- Obligations.PowerLossKeepsOnlyTheIsland, clause 1. -/
theorem witness_powerGoodLoss_prog : prg.pkg.boot.pwrgood = true := by
  decide +kernel
/-- Obligations.PowerLossKeepsOnlyTheIsland, clause 2. -/
theorem witness_vmgmtLoss : r0.pkg.boot.vmgmt = true := by
  decide +kernel
/-- Obligations.RailFaultGatesClocksAndIsHeld. -/
theorem witness_railFault : ((∃ r high, Instr.railFault rl true = Instr.railFault r high ∧ mainRail r.val = true ∧ 3 = r.val ∧ 2 = if high = true then 2 else 1) ∨ Instr.railFault rl true = Instr.sysclkLoss ∧ 3 = 255 ∧ 2 = 3)
    ∧ r0.pkg.boot.pwrgood = true := by
  decide +kernel
/-- Obligations.RailFaultGatesClocksAndIsHeld. -/
theorem witness_sysclkLoss : ((∃ r high, Instr.sysclkLoss = Instr.railFault r high ∧ mainRail r.val = true ∧ 255 = r.val ∧ 3 = if high = true then 2 else 1) ∨ Instr.sysclkLoss = Instr.sysclkLoss ∧ 255 = 255 ∧ 3 = 3)
    ∧ r0.pkg.boot.pwrgood = true := by
  decide +kernel
def held : State := setB r0 fPkgIdRailsValid pgPkgId true
/-- Obligations.RailFaultGatesClocksAndIsHeld. -/
theorem witness_railFault_held : ((∃ r high, Instr.railFault rl false = Instr.railFault r high ∧ mainRail r.val = true ∧ 3 = r.val ∧ 1 = if high = true then 2 else 1) ∨ Instr.railFault rl false = Instr.sysclkLoss ∧ 3 = 255 ∧ 1 = 3)
    ∧ held.pkg.boot.pwrgood = true := by
  decide +kernel
def cf0 : Fin 65536 := 0
def cf9 : Fin 65536 := 9
def tg3 : Fin 8 := 3
def tg1 : Fin 8 := 1
def tg4 : Fin 8 := 4
/-- Obligations.LifeCycleRequestsFollowTheirTable, clause 1.1. -/
theorem witness_lcsReq : running r0 = true ∧ accepted r0 pgLcs 4 ∧ r0.pkg.boot.program = none
    ∧ cf0.val = getF r0 fOwnReinClaimEpoch pgOwn % 65536 ∧ transitionOk r0 tg4.val = true
    ∧ (usesService r0.pkg.boot.life tg4.val = true → 4 = 2) := by
  unfold accepted; decide +kernel
def host2 : State := setF (setF r0 fOwnReinClaimHolder pgOwn 2) fLcsStatusStage pgLcs 5
/-- Obligations.LifeCycleRequestsFollowTheirTable, clause 1.1. -/
theorem witness_lcsReq_service : running host2 = true ∧ accepted host2 pgLcs 2 ∧ host2.pkg.boot.program = none
    ∧ cf0.val = getF host2 fOwnReinClaimEpoch pgOwn % 65536 ∧ transitionOk host2 tg3.val = true
    ∧ (usesService host2.pkg.boot.life tg3.val = true → 2 = 2) := by
  unfold accepted; decide +kernel
/-- Obligations.LifeCycleRequestsFollowTheirTable, clause 1.2. -/
theorem witness_lcsReq_confirm : running r0 = true ∧ accepted r0 pgLcs 4 ∧ r0.pkg.boot.program = none
    ∧ (cf9.val ≠ getF r0 fOwnReinClaimEpoch pgOwn % 65536 ∨ transitionOk r0 tg4.val = false) := by
  unfold accepted; decide +kernel
/-- Obligations.LifeCycleRequestsFollowTheirTable, clause 1.2. -/
theorem witness_lcsReq_range : running r0 = true ∧ accepted r0 pgLcs 4 ∧ r0.pkg.boot.program = none
    ∧ (cf0.val ≠ getF r0 fOwnReinClaimEpoch pgOwn % 65536 ∨ transitionOk r0 tg1.val = false) := by
  unfold accepted; decide +kernel
/-- Obligations.LifeCycleRequestsFollowTheirTable, clause 1.3. -/
theorem witness_lcsReq_busy : running prg = true ∧ accepted prg pgLcs 4 ∧ (prg.pkg.boot.program ≠ none) := by
  unfold accepted; decide +kernel
def lf0 : State := bt (fun b => { b with life := 0, retList := [5] })
/-- Obligations.LifeCycleRequestsFollowTheirTable, clause 2.1. -/
theorem witness_retlist : running lf0 = true ∧ accepted lf0 pgLcs 4 ∧ (lf0.pkg.boot.life = 0 ∨ lf0.pkg.boot.life = 3) := by
  unfold accepted; decide +kernel
/-- Obligations.LifeCycleRequestsFollowTheirTable, clause 2.2. -/
theorem witness_retlist_not : running r0 = true ∧ accepted r0 pgLcs 4 ∧ (r0.pkg.boot.life ≠ 0)
    ∧ (r0.pkg.boot.life ≠ 3) := by
  unfold accepted; decide +kernel

end W02

namespace W03

/-! Start-up and self-test. -/
def bt3 (n : Nat) (f : BootSt → BootSt) : State :=
  setF { r0 with pkg := { r0.pkg with boot := f r0.pkg.boot } } fLcsStatusStage pgLcs n
def su (n : Nat) : State := bt3 n id
def su0 : State := bt3 0 (fun b => { b with program := some (3, 4), programmed := true })
/-- A header of an image that FIELD accepts. -/
def hdr1 : List Nat := [0x56574645, 1, 0, 7, 4096]
/-- Obligations.StartUpStagesFollowInOrder, clause 1. -/
theorem witness_fuseStage : running (su 0) = true ∧ stage (su 0) = 0 ∧ (su 0).pkg.boot.program = none := by
  decide +kernel
def dead : State := bt3 0 (fun b => { b with life := 4 })
/-- Obligations.StartUpStagesFollowInOrder, clause 1. -/
theorem witness_fuseStage_halt : running dead = true ∧ stage dead = 0 ∧ dead.pkg.boot.program = none := by
  decide +kernel
/-- Obligations.StartUpStagesFollowInOrder, clause 2. -/
theorem witness_fuseStage_programmed : running su0 = true ∧ stage su0 = 0 ∧ su0.pkg.boot.program = some (3, 4)
    ∧ su0.pkg.boot.programmed = true ∧ 3 < 5 := by
  decide +kernel
/-- Obligations.StartUpStagesFollowInOrder, clause 3. -/
theorem witness_romTest : running (su 1) = true ∧ stage (su 1) = 1 := by
  decide +kernel
/-- Obligations.StartUpStagesFollowInOrder, clause 4. -/
theorem witness_imageVerify : running (su 2) = true ∧ stage (su 2) = 2 ∧ (su 2).pkg.boot.imageDone = false
    ∧ imageChoice (su 2) [] hdr1 false true = some (1, 7) := by
  decide +kernel
/-- Obligations.StartUpStagesFollowInOrder, clause 5. -/
theorem witness_spanTest : running (su 3) = true ∧ (stage (su 3) = 2 ∨ stage (su 3) = 3)
    ∧ (su 3).pkg.boot.spansDone = false ∧ workingSet (su 3) = none := by
  decide +kernel
/-- Obligations.StartUpStagesFollowInOrder, clause 6. -/
theorem witness_fwInit : running (su 4) = true ∧ stage (su 4) = 4 := by
  decide +kernel
/-- Obligations.StartUpStagesFollowInOrder, clause 7, alternative 1. -/
theorem witness_romTest_fail : running (su 1) = true
    ∧ (Instr.romTestDone true false 0 0 0 0 [] 1 2 = Instr.romTestDone true false 0 0 0 0 [] 1 2 ∧ stage (su 1) = 1 ∧ 1 = 1) := by
  decide +kernel
/-- Obligations.StartUpStagesFollowInOrder, clause 7, alternative 2. -/
theorem witness_romTest_duties : running (su 1) = true
    ∧ (Instr.romTestDone false true 1 0 0 0 [] 1 2 = Instr.romTestDone false true 1 0 0 0 [] 1 2 ∧ bitAt (↑1) 0 = true ∧ stage (su 1) = 1 ∧ 2 = 2) := by
  decide +kernel
/-- Obligations.StartUpStagesFollowInOrder, clause 7, alternative 3. -/
theorem witness_image_none : running (su 2) = true
    ∧ (Instr.imageVerifyDone [] [] false true = Instr.imageVerifyDone [] [] false true ∧ stage (su 2) = 2 ∧ (su 2).pkg.boot.imageDone = false ∧ imageChoice (su 2) [] [] false true = none ∧ 3 = 3) := by
  decide +kernel
def noPort : State := bt3 3 (fun b => { b with portsGone := [0, 1] })
/-- Obligations.StartUpStagesFollowInOrder, clause 7, alternative 4. -/
theorem witness_spanTest_fail : running noPort = true
    ∧ (Instr.spanTestDone 0 [] [] [] [] [] [] 0 0 0 = Instr.spanTestDone 0 [] [] [] [] [] [] 0 0 0 ∧ (stage noPort = 2 ∨ stage noPort = 3) ∧ noPort.pkg.boot.spansDone = false ∧ workingSet noPort = some 6) := by
  decide +kernel
/-- FIELD-SERVICE in READY, with the reins held by the management controller. -/
def svc : State := setF (bt3 5 (fun b => { b with life := 3 })) fOwnReinClaimHolder pgOwn 2
def svcB : State := { svc with pkg := { svc.pkg with boot := { svc.pkg.boot with bist := some ⟨2, 0, 1, 0, 0⟩ } } }
def u3 : Fin 16 := 3
def d5 : Fin 16 := 5
def b7 : Fin 128 := 7
def b99 : Fin 128 := 99
def n1 : Fin 4 := 1
def coreCodes (s : State) (m : Nat) : List (Bool × Nat) := [(!bistUnitOpen s m, 1), (spanDown s sp1 || coreAbsent s sp1 co2, 2),
  (lockedMode s && coreScheduled s sp1 co2, 4), (s.pkg.boot.bist.isSome, 5), (s.er.asked.contains (retEntry 3 sp1 co2 0 0 false), 6)]
def portCodes (s : State) (m : Nat) : List (Bool × Nat) :=
  [(!bistWideOpen s m, 1), (portMissing s u3, 2), (s.pkg.boot.bist.isSome, 5)]
def spanCodes (s : State) (m : Nat) : List (Bool × Nat) :=
  [(!bistWideOpen s m, 1), (spanDown s sp1, 2), (s.pkg.boot.bist.isSome, 5), (!spanEmpty s sp1, 6)]
def bankCodes (s : State) (m : Nat) (first : Fin 128) : List (Bool × Nat) := [(!bistUnitOpen s m, 1),
  (spanDown s sp1 || decide (32 ≤ first.val) || (List.range (n1 + 1)).any (fun p => pcGone s (pcNo sp1 (4 * d5.val + p))), 2),
  (decide ((dieSpares s sp1 d5).length < n1 + 1), 3), (s.pkg.boot.bist.isSome, 5),
  ((List.range (n1 + 1)).any (fun p => !(diePcs s sp1 d5).contains p || s.er.asked.contains (retEntry 1 sp1 (4 * d5.val + p) first 0 false)
    || s.er.asked.contains (retEntry 2 sp1 (4 * d5.val + p) 0 0 false)), 6)]
/-- Obligations.SelfTestsStartAndReport, clause 1.1, alternative 1. -/
theorem witness_bistCore : running (su 5) = true ∧ accepted (su 5) pgBist 4
    ∧ (Instr.bistCore sp1 co2 4 = Instr.bistCore sp1 co2 4 ∧ { kind := 0, span := 1, unit := 2, die := 0, first := 0 : BistRun } = { kind := 0, span := sp1.val, unit := co2.val, die := 0, first := 0 : BistRun } ∧ coreCodes (su 5) 4 = [(!bistUnitOpen (su 5) 4, 1), (spanDown (su 5) sp1.val || coreAbsent (su 5) sp1.val co2.val, 2), (lockedMode (su 5) && coreScheduled (su 5) sp1.val co2.val, 4), ((su 5).pkg.boot.bist.isSome, 5), ((su 5).er.asked.contains (retEntry 3 (sp1.val) (co2.val) 0 0 false), 6)])
    ∧ ((coreCodes (su 5) 4).all fun x => !x.fst) = true := by
  unfold accepted; decide +kernel
/-- Obligations.SelfTestsStartAndReport, clause 1.1, alternative 2. -/
theorem witness_bistPort : running svc = true ∧ accepted svc pgBist 2
    ∧ (Instr.bistPort u3 2 = Instr.bistPort u3 2 ∧ { kind := 2, span := zlSpan u3.val, unit := 3, die := 0, first := 0 : BistRun } = { kind := 2, span := zlSpan u3.val, unit := u3.val, die := 0, first := 0 : BistRun } ∧ portCodes svc 2 = [(!bistWideOpen svc 2, 1), (portMissing svc u3.val, 2), (svc.pkg.boot.bist.isSome, 5)])
    ∧ ((portCodes svc 2).all fun x => !x.fst) = true := by
  unfold accepted; decide +kernel
/-- Obligations.SelfTestsStartAndReport, clause 1.1, alternative 3. -/
theorem witness_bistSpan : running svc = true ∧ accepted svc pgBist 2
    ∧ (Instr.bistSpan sp1 2 = Instr.bistSpan sp1 2 ∧ { kind := 3, span := 1, unit := 0, die := 0, first := 0 : BistRun } = { kind := 3, span := sp1.val, unit := 0, die := 0, first := 0 : BistRun } ∧ spanCodes svc 2 = [(!bistWideOpen svc 2, 1), (spanDown svc sp1.val, 2), (svc.pkg.boot.bist.isSome, 5), (!spanEmpty svc sp1.val, 6)])
    ∧ ((spanCodes svc 2).all fun x => !x.fst) = true := by
  unfold accepted; decide +kernel
/-- Obligations.SelfTestsStartAndReport, clause 1.1, alternative 4. -/
theorem witness_bistBanks : running svc = true ∧ accepted svc pgBist 2
    ∧ (Instr.bistBanks sp1 d5 b7 n1 2 = Instr.bistBanks sp1 d5 b7 n1 2 ∧ { kind := 1, span := 1, unit := 3, die := 5, first := 7 : BistRun } = { kind := 1, span := sp1.val, unit := List.foldl (fun acc p => acc + 2 ^ p) 0 (List.range (n1.val + 1)), die := d5.val, first := b7.val : BistRun } ∧ bankCodes svc 2 b7 = [(!bistUnitOpen svc 2, 1), (spanDown svc sp1.val || decide (32 ≤ b7.val) || (List.range (n1.val + 1)).any fun p => pcGone svc (pcNo (sp1.val) (4 * d5.val + p)), 2), (decide ((dieSpares svc sp1 d5.val).length < n1.val + 1), 3), (svc.pkg.boot.bist.isSome, 5), ((List.range (n1.val + 1)).any fun p => !(diePcs svc sp1 d5.val).contains p || svc.er.asked.contains (retEntry 1 (sp1.val) (4 * d5.val + p) (b7.val) 0 false) || svc.er.asked.contains (retEntry 2 (sp1.val) (4 * d5.val + p) 0 0 false), 6)])
    ∧ ((bankCodes svc 2 b7).all fun x => !x.fst) = true := by
  unfold accepted; decide +kernel
/-- Obligations.SelfTestsStartAndReport, clause 1.2, alternative 4. -/
theorem witness_bistBanks_range : running svc = true ∧ accepted svc pgBist 2
    ∧ (Instr.bistBanks sp1 d5 b99 n1 2 = Instr.bistBanks sp1 d5 b99 n1 2 ∧ { kind := 1, span := 1, unit := 3, die := 5, first := 99 : BistRun } = { kind := 1, span := sp1.val, unit := List.foldl (fun acc p => acc + 2 ^ p) 0 (List.range (n1.val + 1)), die := d5.val, first := b99.val : BistRun } ∧ bankCodes svc 2 b99 = [(!bistUnitOpen svc 2, 1), (spanDown svc sp1.val || decide (32 ≤ b99.val) || (List.range (n1.val + 1)).any fun p => pcGone svc (pcNo (sp1.val) (4 * d5.val + p)), 2), (decide ((dieSpares svc sp1 d5.val).length < n1.val + 1), 3), (svc.pkg.boot.bist.isSome, 5), ((List.range (n1.val + 1)).any fun p => !(diePcs svc sp1 d5.val).contains p || svc.er.asked.contains (retEntry 1 (sp1.val) (4 * d5.val + p) (b99.val) 0 false) || svc.er.asked.contains (retEntry 2 (sp1.val) (4 * d5.val + p) 0 0 false), 6)])
    ∧ List.find? (fun x => x.fst) (bankCodes svc 2 b99) = some (true, 2) := by
  unfold accepted; decide +kernel
/-- Obligations.SelfTestsStartAndReport, clause 1.2, alternative 2. -/
theorem witness_bistPort_state : running svc = true ∧ accepted svc pgBist 4
    ∧ (Instr.bistPort u3 4 = Instr.bistPort u3 4 ∧ { kind := 2, span := zlSpan u3.val, unit := 3, die := 0, first := 0 : BistRun } = { kind := 2, span := zlSpan u3.val, unit := u3.val, die := 0, first := 0 : BistRun } ∧ portCodes svc 4 = [(!bistWideOpen svc 4, 1), (portMissing svc u3.val, 2), (svc.pkg.boot.bist.isSome, 5)])
    ∧ List.find? (fun x => x.fst) (portCodes svc 4) = some (true, 1) := by
  unfold accepted; decide +kernel
/-- Obligations.SelfTestsStartAndReport, clause 1.2, alternative 3. -/
theorem witness_bistSpan_busy : running svcB = true ∧ accepted svcB pgBist 2
    ∧ (Instr.bistSpan sp1 2 = Instr.bistSpan sp1 2 ∧ { kind := 3, span := 1, unit := 0, die := 0, first := 0 : BistRun } = { kind := 3, span := sp1.val, unit := 0, die := 0, first := 0 : BistRun } ∧ spanCodes svcB 2 = [(!bistWideOpen svcB 2, 1), (spanDown svcB sp1.val, 2), (svcB.pkg.boot.bist.isSome, 5), (!spanEmpty svcB sp1.val, 6)])
    ∧ List.find? (fun x => x.fst) (spanCodes svcB 2) = some (true, 5) := by
  unfold accepted; decide +kernel
def runs (b : BistRun) : State := { su 5 with pkg := { (su 5).pkg with boot := { (su 5).pkg.boot with bist := some b } } }
/-- Obligations.SelfTestsStartAndReport, clause 2, alternative 1. -/
theorem witness_coreSlice : running (runs { kind := 0, span := 1, unit := 2, die := 0, first := 0 : BistRun }) = true
    ∧ (runs { kind := 0, span := 1, unit := 2, die := 0, first := 0 : BistRun }).pkg.boot.bist = some { kind := 0, span := 1, unit := 2, die := 0, first := 0 : BistRun }
    ∧ (runs { kind := 0, span := 1, unit := 2, die := 0, first := 0 : BistRun }).pkg.boot.waiting = []
    ∧ (Instr.coreSliceDone true 0 0 0 = Instr.coreSliceDone true 0 0 0 ∧ { kind := 0, span := 1, unit := 2, die := 0, first := 0 : BistRun }.kind = 0 ∧ true = true) := by
  decide +kernel
/-- Obligations.SelfTestsStartAndReport, clause 2, alternative 2. -/
theorem witness_bankSlice : running (runs { kind := 1, span := 1, unit := 3, die := 5, first := 7 : BistRun }) = true
    ∧ (runs { kind := 1, span := 1, unit := 3, die := 5, first := 7 : BistRun }).pkg.boot.bist = some { kind := 1, span := 1, unit := 3, die := 5, first := 7 : BistRun }
    ∧ (runs { kind := 1, span := 1, unit := 3, die := 5, first := 7 : BistRun }).pkg.boot.waiting = []
    ∧ (Instr.bankSliceDone 15 0 0 0 0 = Instr.bankSliceDone 15 0 0 0 0 ∧ bankSliceDoneReady { kind := 1, span := 1, unit := 3, die := 5, first := 7 : BistRun } (runs { kind := 1, span := 1, unit := 3, die := 5, first := 7 : BistRun }) = true ∧ true = true) := by
  decide +kernel
/-- Obligations.SelfTestsStartAndReport, clause 2, alternative 3. -/
theorem witness_bistDone : running (runs { kind := 3, span := 1, unit := 0, die := 0, first := 0 : BistRun }) = true
    ∧ (runs { kind := 3, span := 1, unit := 0, die := 0, first := 0 : BistRun }).pkg.boot.bist = some { kind := 3, span := 1, unit := 0, die := 0, first := 0 : BistRun }
    ∧ (runs { kind := 3, span := 1, unit := 0, die := 0, first := 0 : BistRun }).pkg.boot.waiting = []
    ∧ (Instr.bistDone false true [] [] [] [] 0 0 0 = Instr.bistDone false true [] [] [] [] 0 0 0 ∧ ({ kind := 3, span := 1, unit := 0, die := 0, first := 0 : BistRun }.kind = 2 ∨ { kind := 3, span := 1, unit := 0, die := 0, first := 0 : BistRun }.kind = 3) ∧ true = true) := by
  decide +kernel
/-- Obligations.SelfTestsStartAndReport, clause 2, alternative 3. -/
theorem witness_bistDone_port : running (runs { kind := 2, span := 1, unit := 3, die := 0, first := 0 : BistRun }) = true
    ∧ (runs { kind := 2, span := 1, unit := 3, die := 0, first := 0 : BistRun }).pkg.boot.bist = some { kind := 2, span := 1, unit := 3, die := 0, first := 0 : BistRun }
    ∧ (runs { kind := 2, span := 1, unit := 3, die := 0, first := 0 : BistRun }).pkg.boot.waiting = []
    ∧ (Instr.bistDone false true [] [] [] [] 0 0 0 = Instr.bistDone false true [] [] [] [] 0 0 0 ∧ ({ kind := 2, span := 1, unit := 3, die := 0, first := 0 : BistRun }.kind = 2 ∨ { kind := 2, span := 1, unit := 3, die := 0, first := 0 : BistRun }.kind = 3) ∧ true = true) := by
  decide +kernel
/-- Obligations.SelfTestsStartAndReport, clause 3. -/
theorem witness_coreSlice_fail : running (runs { kind := 0, span := 1, unit := 2, die := 0, first := 0 : BistRun }) = true
    ∧ (runs { kind := 0, span := 1, unit := 2, die := 0, first := 0 : BistRun }).pkg.boot.bist = some { kind := 0, span := 1, unit := 2, die := 0, first := 0 : BistRun }
    ∧ { kind := 0, span := 1, unit := 2, die := 0, first := 0 : BistRun }.kind = 0
    ∧ coreAbsent (runs { kind := 0, span := 1, unit := 2, die := 0, first := 0 : BistRun }) { kind := 0, span := 1, unit := 2, die := 0, first := 0 : BistRun }.span { kind := 0, span := 1, unit := 2, die := 0, first := 0 : BistRun }.unit = false
    ∧ { kind := 0, span := 1, unit := 2, die := 0, first := 0 : BistRun }.span < 8
    ∧ { kind := 0, span := 1, unit := 2, die := 0, first := 0 : BistRun }.unit < 16
    ∧ (runs { kind := 0, span := 1, unit := 2, die := 0, first := 0 : BistRun }).pkg.boot.waiting = [] := by
  decide +kernel
def slc : State := { su 5 with tick := 2 ^ 60 }
/-- Obligations.SelfTestsStartAndReport, clause 4. -/
theorem witness_sliceStart : running slc = true ∧ sliceStartReady slc = true ∧ sliceTarget slc = some 0 ∧ 0 < 128 := by
  decide +kernel

end W03

namespace W04

/-! Control cores, spans and the deck. -/
def bt4 (f : BootSt → BootSt) : State :=
  { setF { r0 with pkg := { r0.pkg with boot := f r0.pkg.boot } } fLcsStatusStage pgLcs 5 with tick := 3000000 }
def bt4a : State := bt4 id
def bt4t : State := bt4 (fun b => { b with takeover := some 5, coresDown := [8] })
def k0 : Fin 9 := 0
def k8 : Fin 9 := 8
def sp5 : Fin 8 := 5
def down8 : State := bt4 (fun b => { b with coresDown := [8] })
/-- Obligations.DutiesPassOnAndAFailedSpanIsLost, clause 1. -/
theorem witness_heartbeat : running bt4a = true ∧ coreDown bt4a 8 = false := by
  decide +kernel
/-- Obligations.DutiesPassOnAndAFailedSpanIsLost, clause 2. -/
theorem witness_takeoverStart : running bt4a = true ∧ takeoverStartReady bt4a = true := by
  decide +kernel
/-- Obligations.DutiesPassOnAndAFailedSpanIsLost, clause 3. -/
theorem witness_takeoverComplete : running bt4t = true ∧ bt4t.pkg.boot.takeover.isSome = true
    ∧ coreDown bt4t 0 = false := by
  decide +kernel
/-- Obligations.DutiesPassOnAndAFailedSpanIsLost, clause 4. -/
theorem witness_mgmtCoreFailure : running bt4a = true ∧ coreDown bt4a k8.val = false := by
  decide +kernel
/-- Obligations.DutiesPassOnAndAFailedSpanIsLost, clause 4. -/
theorem witness_mgmtCoreFailure_both : running down8 = true ∧ coreDown down8 k0.val = false := by
  decide +kernel
/-- Obligations.DutiesPassOnAndAFailedSpanIsLost, clause 5. -/
theorem witness_deckEdgeFail : running bt4a = true ∧ deckEdge (min sp5.val sp1.val) (max sp5.val sp1.val) = true := by
  decide +kernel
def spanIn : State := inSlot { bt4a with memo := ptd.memo, cx := { ptd.cx with recs := [((1, 1), ⟨0xFF, 0, 0, [], .store, [], [], []⟩)] } } 1 []
def cls2 : Fin 4 := 2
def late4 : State := { spanIn with tick := 20000000, cx := { spanIn.cx with ctxs := [] } }
/-- Obligations.DutiesPassOnAndAFailedSpanIsLost, clause 6.1. -/
theorem witness_creditTimeout : running late4 = true ∧ spanDown late4 sp1.val = false ∧ 7 + 10000000 ≤ late4.tick := by
  decide +kernel
/-- Obligations.DutiesPassOnAndAFailedSpanIsLost, clause 6.2. -/
theorem witness_creditTimeout_early : running spanIn = true ∧ spanDown spanIn sp1.val = false
    ∧ spanIn.tick < 7 + 10000000 := by
  decide +kernel
/-- Obligations.DutiesPassOnAndAFailedSpanIsLost, clause 6.3. -/
theorem witness_creditTimeout_room : running spanIn = true ∧ spanDown spanIn sp1.val = false := by
  decide +kernel

end W04

namespace W05

/-! Interrupts. -/
def irqs (f : IrqSt → IrqSt) : State := { su5 with pkg := { su5.pkg with irq := f su5.pkg.irq } }
def i1 : Fin 9 := 1
def i0 : Fin 9 := 0
def w1 : Fin 13 := 1
def w9 : Fin 13 := 9
def privs (l : List ((Nat × Nat) × SrcSt)) : State := irqs (fun q => { q with priv := l })
/-- The block interrupt of the context page of span 1 is asserted: private source 20 of its management core. -/
def asserted (s : State) : State := setF (setF s fBlkIrqPendSrc (pgCtxs 1) 1) fBlkIrqEnEn (pgCtxs 1) 2
/-- Obligations.SourcesTakeLevelsAndEdges, clause 1. -/
theorem witness_level : running (asserted su5) = true ∧ (privPage (i1.val) 20).isSome = true := by
  decide +kernel
/-- Obligations.SourcesTakeLevelsAndEdges, clause 1. -/
theorem witness_level_gone : running (privs [((1, 20), SrcSt.pending)]) = true ∧ (privPage (i1.val) 20).isSome = true := by
  decide +kernel
/-- Obligations.SourcesTakeLevelsAndEdges, clause 2. -/
theorem witness_level_shared : running su5 = true ∧ 67 < 524 ∧ ((getShared su5 67).target ≠ 11) := by
  decide +kernel
/-- Obligations.SourcesTakeLevelsAndEdges, clause 3, alternative 1. -/
theorem witness_edge : running (privs [((1, 25), SrcSt.active)]) = true
    ∧ (Instr.irqEdge false i1 25 = Instr.irqEdge false i1 25 ∧ privEdge (i1.val) 25 = true ∧ (25 = 26 → i1 = 0)) := by
  decide +kernel
/-- Obligations.SourcesTakeLevelsAndEdges, clause 3, alternative 1. -/
theorem witness_edge_merged : running (privs [((0, 26), SrcSt.pending)]) = true
    ∧ (Instr.irqEdge false i0 26 = Instr.irqEdge false i0 26 ∧ privEdge (i0.val) 26 = true ∧ (26 = 26 → i0 = 0)) := by
  decide +kernel
def tim : State := setF su5 fIrqpTimerCompare (pgIrqp 1) 3
/-- Obligations.SourcesTakeLevelsAndEdges, clause 3, alternative 2. -/
theorem witness_timer : running tim = true
    ∧ (Instr.irqTimer i1 = Instr.irqTimer i1 ∧ 63 = 63 ∧ irqTimerReady i1 tim = true) := by
  decide +kernel
def k5 : Fin 16 := 5
/-- Obligations.SourcesTakeLevelsAndEdges, clause 3, alternative 3. -/
theorem witness_swSet : running su5 = true
    ∧ (Instr.irqpSwSet i1 (Fin.ofNat 65536 (2 ^ k5.val)) w1 = Instr.irqpSwSet i1 (Fin.ofNat 65536 (2 ^ k5.val)) w1 ∧ 37 = 32 + k5.val ∧ w1.val < 9 ∧ stage su5 < 6 ∧ (i1.val < 8 → spanDown su5 i1.val = false)) := by
  decide +kernel
def n600 : Fin 1024 := 600
def n10 : Fin 1024 := 10
/-- Obligations.SourcesTakeLevelsAndEdges, clause 4, alternative 1. -/
theorem witness_edge_shared : running su5 = true ∧ 528 ≤ n600.val ∧ ((getShared su5 n600.val).target ≠ 11)
    ∧ Instr.irqEdge true i1 n600.val = Instr.irqEdge true i1 n600.val := by
  decide +kernel
/-- Obligations.SourcesTakeLevelsAndEdges, clause 4, alternative 2. -/
theorem witness_swSet_shared : running su5 = true ∧ 528 ≤ n600.val ∧ ((getShared su5 n600.val).target ≠ 11)
    ∧ (Instr.irqSwSet n600 4 = Instr.irqSwSet n600 4 ∧ accepted su5 pgIrq 4) := by
  unfold accepted; decide +kernel
/-- Obligations.SourcesTakeLevelsAndEdges, clause 5. -/
theorem witness_swSet_range : running su5 = true ∧ n10.val < 528 ∧ accepted su5 pgIrq 4 := by
  unfold accepted; decide +kernel
def prioS : State := setF (setB (privs [((1, 25), .pending), ((1, 20), .active)]) fIrqpPrivEnable (pgIrqp 1) true 25) fIrqpPrivPrio (pgIrqp 1) 9 25
def nested : State := { prioS with pkg := { prioS.pkg with irq := { prioS.pkg.irq with idStacks := [(1, [20])] } } }
def id20 : Fin 4096 := 20
def id21 : Fin 4096 := 21
/-- Obligations.PriorityStackNestsClaims, clause 1.1. -/
theorem witness_claim : running nested = true ∧ stage nested < 6 ∧ w1.val < 9 ∧ irqServer nested i1.val = w1.val
    ∧ (i1.val < 8 → spanDown nested i1.val = false) ∧ irqHighest (irqSettle nested i1.val) i1.val = some 25 := by
  decide +kernel
/-- Obligations.PriorityStackNestsClaims, clause 1.2. -/
theorem witness_claim_none : running su5 = true ∧ stage su5 < 6 ∧ w1.val < 9 ∧ irqServer su5 i1.val = w1.val
    ∧ (i1.val < 8 → spanDown su5 i1.val = false) ∧ irqHighest (irqSettle su5 i1.val) i1.val = none := by
  decide +kernel
/-- Obligations.PriorityStackNestsClaims, clause 1.3. -/
theorem witness_complete : running nested = true ∧ stage nested < 6 ∧ w1.val < 9 ∧ irqServer nested i1.val = w1.val
    ∧ (i1.val < 8 → spanDown nested i1.val = false) ∧ irqStack nested i1.val = [id20.val] ∧ id20.val < 64 := by
  decide +kernel
/-- Obligations.PriorityStackNestsClaims, clause 1.4. -/
theorem witness_complete_fault : running nested = true ∧ stage nested < 6 ∧ w1.val < 9
    ∧ irqServer nested i1.val = w1.val ∧ (i1.val < 8 → spanDown nested i1.val = false)
    ∧ ((irqStack nested i1.val).head? ≠ some id21.val) ∧ getB nested fIrqpFaultValid (pgIrqp i1.val) = false
    ∧ (irqStack nested i1.val).length ≤ 16 ∧ (irqStack nested i1.val).headD 4095 < 4096 := by
  decide +kernel
/-- Obligations.PriorityStackNestsClaims, clause 1.5. -/
theorem witness_stackReset : running nested = true ∧ stage nested < 6 ∧ w1.val < 9 ∧ irqServer nested i1.val = w1.val
    ∧ (i1.val < 8 → spanDown nested i1.val = false) := by
  decide +kernel
/-- Obligations.PriorityStackNestsClaims, clause 2. -/
theorem witness_complete_other : running nested = true ∧ (9 ≤ w9.val ∨ irqServer nested i1.val ≠ w9.val)
    ∧ (i1.val < 8 → spanDown nested i1.val = false) := by
  decide +kernel
def t5 : Fin 16 := 5
def selS : State := setF su5 fIrqSelSrc pgIrq 600
def actS (st : SrcSt) (target : Nat) : State :=
  { selS with pkg := { selS.pkg with irq := { selS.pkg.irq with shared := [(600, ⟨st, 4, true, target, none⟩)] } } }
/-- Obligations.SharedSourcesMoveAndReachTheHost, clause 1. -/
theorem witness_target : running selS = true ∧ accepted selS pgIrq 4 ∧ (t5.val ≠ 11)
    ∧ ((getShared selS (getF selS fIrqSelSrc pgIrq)).target ≠ 11)
    ∧ targetRejects selS (getF selS fIrqSelSrc pgIrq) (t5.val) 4 = none := by
  unfold accepted; decide +kernel
/-- Obligations.SharedSourcesMoveAndReachTheHost, clause 1. -/
theorem witness_target_taken : running (actS SrcSt.active 3) = true ∧ accepted (actS SrcSt.active 3) pgIrq 4
    ∧ (t5.val ≠ 11) ∧ ((getShared (actS SrcSt.active 3) (getF (actS SrcSt.active 3) fIrqSelSrc pgIrq)).target ≠ 11)
    ∧ targetRejects (actS SrcSt.active 3) (getF (actS SrcSt.active 3) fIrqSelSrc pgIrq) (t5.val) 4 = none := by
  unfold accepted; decide +kernel
def eoiS : State := setF (actS .activePending 10) fOwnReinClaimHolder pgOwn 1
/-- Obligations.SharedSourcesMoveAndReachTheHost, clause 2. -/
theorem witness_eoi : running eoiS = true ∧ accepted eoiS pgIrq 1 ∧ (getShared eoiS n600.val).target = eoiTarget 1
    ∧ srcTaken (getShared eoiS n600.val).st = true ∧ 1 < 2 ∧ (getShared eoiS n600.val).held = none := by
  unfold accepted; decide +kernel
/-- Obligations.SharedSourcesMoveAndReachTheHost, clause 3. -/
theorem witness_eoi_not : running su5 = true ∧ accepted su5 pgIrq 4
    ∧ ((getShared su5 n10.val).target ≠ eoiTarget 4 ∨ srcTaken (getShared su5 n10.val).st = false) := by
  unfold accepted; decide +kernel
def fn64 : Fin 128 := 64
def upS (s : State) : State := setF s fHifLinkState (pgHif 1) 2
def msg (s : State) : State := upS { s with pkg := { s.pkg with irq := { s.pkg.irq with unmasked := [(64, 616), (64, 0)] } } }
/-- Obligations.SharedSourcesMoveAndReachTheHost, clause 4. -/
theorem witness_msix_source : running (msg (actS SrcSt.pending 10)) = true
    ∧ linkUp (msg (actS SrcSt.pending 10)) fn64.val = true ∧ fn64.val % 64 = 0 ∧ 600 < 1024
    ∧ (getShared (msg (actS SrcSt.pending 10)) 600).target = 9 + fn64.val / 64
    ∧ (getShared (msg (actS SrcSt.pending 10)) 600).st = SrcSt.pending
    ∧ (getShared (msg (actS SrcSt.pending 10)) 600).enable = true
    ∧ (msg (actS SrcSt.pending 10)).pkg.irq.unmasked.contains (fn64.val, 16 + 600) = true := by
  decide +kernel
def rings : State := let s := msg su5; { s with pkg := { s.pkg with irq := { s.pkg.irq with ringDue := [(64, 3)] } } }
/-- Obligations.SharedSourcesMoveAndReachTheHost, clause 5. -/
theorem witness_msix_ring : running rings = true ∧ linkUp rings fn64.val = true
    ∧ rings.pkg.irq.ringDue.contains (fn64.val, 3) = true
    ∧ rings.pkg.irq.unmasked.contains (fn64.val, getF rings fFnSqCfgVector (pgFn fn64.val) 3) = true := by
  decide +kernel
def heldM : State := upS (irqs (fun q => { q with heldMsg := [(64, 5)] }))
/-- Obligations.SharedSourcesMoveAndReachTheHost, clause 6. -/
theorem witness_unmask : running heldM = true ∧ linkUp heldM fn64.val = true ∧ 5 < msixEntries fn64.val
    ∧ heldM.pkg.irq.heldMsg.contains (fn64.val, 5) = true := by
  decide +kernel

end W05

namespace W06

/-! Power and thermal control. -/
def pw (f : PowerSt → PowerSt) : State := { su5 with tick := 300000, pkg := { su5.pkg with power := f su5.pkg.power } }
def pm (f : PowerSt → PowerSt) : State := let s := pw f; { s with ho := { s.ho with i3cAddr := true } }
def pm0 : State := pm id
def pmL : State := setB pm0 fFrameCtrlMode pgFrame true
/-- Obligations.RackBudgetSetsTheLimit, clause 1. -/
theorem witness_budget : running pm0 = true ∧ pm0.ho.i3cAddr = true ∧ stage pm0 = 5 ∧ 600 ≤ 600 ∧ 600 ≤ 3000 := by
  decide +kernel
/-- Obligations.RackBudgetSetsTheLimit, clause 1. -/
theorem witness_budget_high : running pm0 = true ∧ pm0.ho.i3cAddr = true ∧ stage pm0 = 5 ∧ 600 ≤ 3000 ∧ 3000 ≤ 3000 := by
  decide +kernel
/-- Obligations.RackBudgetSetsTheLimit, clause 1. -/
theorem witness_budget_locked : running pmL = true ∧ pmL.ho.i3cAddr = true ∧ stage pmL = 5 ∧ 600 ≤ 1200 ∧ 1200 ≤ 3000 := by
  decide +kernel
/-- Obligations.RackBudgetSetsTheLimit, clause 2. -/
theorem witness_budget_low : running pm0 = true ∧ pm0.ho.i3cAddr = true ∧ stage pm0 = 5
    ∧ (1 ≠ 1 ∨ 599 < 600 ∨ 3000 < 599) := by
  decide +kernel
/-- Obligations.RackBudgetSetsTheLimit, clause 2. -/
theorem witness_budget_over : running pm0 = true ∧ pm0.ho.i3cAddr = true ∧ stage pm0 = 5
    ∧ (1 ≠ 1 ∨ 3001 < 600 ∨ 3000 < 3001) := by
  decide +kernel
/-- Obligations.RackBudgetSetsTheLimit, clause 2. -/
theorem witness_budget_id : running pm0 = true ∧ pm0.ho.i3cAddr = true ∧ stage pm0 = 5
    ∧ (2 ≠ 1 ∨ 900 < 600 ∨ 3000 < 900) := by
  decide +kernel
def late6 : State := { pm (fun p => { p with budget := some 2000, budgetAt := 5 }) with tick := 2 ^ 50 }
/-- Obligations.RackBudgetSetsTheLimit, clause 3. -/
theorem witness_budgetTimeout : running late6 = true ∧ budgetTimeoutReady late6 = true := by
  decide +kernel
/-- Obligations.RackBudgetSetsTheLimit, clause 4. -/
theorem witness_budgetDecrease : running (pw fun p => { p with decs := [(500, 900), (2 ^ 40, 800)] }) = true
    ∧ (pw fun p => { p with decs := [(500, 900), (2 ^ 40, 800)] }).pkg.power.decs = [(500, 900), (2 ^ 40, 800)]
    ∧ (500, 900).fst ≤ (pw fun p => { p with decs := [(500, 900), (2 ^ 40, 800)] }).tick := by
  decide +kernel
/-- Obligations.RackBudgetSetsTheLimit, clause 5. -/
theorem witness_pldmGetSensor : running pm0 = true ∧ pm0.ho.i3cAddr = true ∧ stage pm0 = 5 := by
  decide +kernel
def ck1 : Fin 4 := 1
def ck3 : Fin 4 := 3
/-- Obligations.RackBudgetSetsTheLimit, clause 6. -/
theorem witness_pldmBase : running pm0 = true ∧ pm0.ho.i3cAddr = true ∧ stage pm0 = 5 ∧ (ck1 ≠ 0) := by
  decide +kernel
/-- Obligations.RackBudgetSetsTheLimit, clause 6. -/
theorem witness_pldmBase_data : running pm0 = true ∧ pm0.ho.i3cAddr = true ∧ stage pm0 = 5 ∧ (ck3 ≠ 0) := by
  decide +kernel
/-- Obligations.RackBudgetSetsTheLimit, clause 7. -/
theorem witness_pldmBase_answer : running pm0 = true ∧ pm0.ho.i3cAddr = true ∧ stage pm0 = 5 := by
  decide +kernel
/-- Obligations.LimitersActOnEverySample, clause 1. -/
theorem witness_sample_over : running pm0 = true ∧ pm0.pkg.power.powerAt + 10000 ≤ pm0.tick := by
  decide +kernel
/-- Obligations.LimitersActOnEverySample, clause 1. -/
theorem witness_sample_under : running (pw fun p => { p with limiting := true, samples := List.replicate 99 (4000, 0, 0, 0) }) = true
    ∧ (pw fun p => { p with limiting := true, samples := List.replicate 99 (4000, 0, 0, 0) }).pkg.power.powerAt + 10000 ≤ (pw fun p => { p with limiting := true, samples := List.replicate 99 (4000, 0, 0, 0) }).tick := by
  decide +kernel
def room : State := { pw (fun p => { p with capCeil := 1500, capAt := 0, samples := List.replicate 100 (100, 0, 0, 0) }) with tick := 1000000 }
/-- Obligations.LimitersActOnEverySample, clause 2. -/
theorem witness_capRise : running room = true ∧ capCeilingRiseReady room = true := by
  decide +kernel
def cool6 : State := { pw (fun p => { p with thermCeil := [(1, 1500)], coolAt := [(1, 5)], thermRise := [(1, 5)] }) with tick := 2 ^ 40 }
/-- Obligations.LimitersActOnEverySample, clause 3. -/
theorem witness_thermalRise : running cool6 = true ∧ thermalCeilingRiseReady sp1 cool6 = true := by
  decide +kernel
def kd : Fin 3 := 2
def un : Fin 128 := 1
/-- Obligations.LimitersActOnEverySample, clause 4. -/
theorem witness_droop : running pm0 = true := by
  decide +kernel
/-- Obligations.LimitersActOnEverySample, clause 5. -/
theorem witness_droopRelease : running (pw fun p => { p with droops := [(2, 1, 5), (0, 1, 5)] }) = true
    ∧ droopReleaseReady kd un (pw fun p => { p with droops := [(2, 1, 5), (0, 1, 5)] }) = true := by
  decide +kernel
/-- Obligations.SensorsProtectThePackage, clause 1. -/
theorem witness_sensors : running pm0 = true ∧ pm0.pkg.power.sensorAt + 10000 ≤ pm0.tick := by
  decide +kernel
/-- Obligations.SensorsProtectThePackage, clause 1. -/
theorem witness_sensors_trip : running (pw fun p => { p with sensors := [(0, { last := some 500, discards := 0, failed := false, hist := [] : Sensor }), (1, { last := some 980, discards := 0, failed := false, hist := [] : Sensor }), (2, { last := none, discards := 2, failed := false, hist := [] : Sensor })] }) = true
    ∧ (pw fun p => { p with sensors := [(0, { last := some 500, discards := 0, failed := false, hist := [] : Sensor }), (1, { last := some 980, discards := 0, failed := false, hist := [] : Sensor }), (2, { last := none, discards := 2, failed := false, hist := [] : Sensor })] }).pkg.power.sensorAt + 10000 ≤ (pw fun p => { p with sensors := [(0, { last := some 500, discards := 0, failed := false, hist := [] : Sensor }), (1, { last := some 980, discards := 0, failed := false, hist := [] : Sensor }), (2, { last := none, discards := 2, failed := false, hist := [] : Sensor })] }).tick := by
  decide +kernel
def hot : State := setF { pw (fun p => { p with sensors := [(0, ⟨some 500, 0, false, [(150000, 500), (0, 300)]⟩)], rateAt := 0 }) with tick := 1100000 } fThermRateRate pgTherm 100
/-- Obligations.SensorsProtectThePackage, clause 2. -/
theorem witness_rateCheck : running hot = true ∧ hot.pkg.power.rateAt + 100000 ≤ hot.tick := by
  decide +kernel
def warm : State := setF pm0 fThermSpanDramMax pgTherm 700 1
/-- Obligations.SensorsProtectThePackage, clause 3. -/
theorem witness_bandChange : running warm = true ∧ (bandWanted warm sp1.val ≠ getF warm fStkBandBand (pgStk sp1.val)) := by
  decide +kernel
/-- An interval of 100,000 ticks with 128 cores at 2,000 MHz, half of them busy under tag 1. -/
def busy6 : State := pw (fun p => { p with occSum := [0, 6400000, 0, 0], coreSum := 12800000, mhzSum := 25600000000, samples := List.replicate 10 (900, 300, 100, 100) })
/-- Obligations.AllocatorSetsOneSettingPerInterval. -/
theorem witness_allocator : running (pw id) = true ∧ allocatorIntervalReady (pw id) = true := by
  decide +kernel
/-- Obligations.AllocatorSetsOneSettingPerInterval. -/
theorem witness_allocator_busy : running busy6 = true ∧ allocatorIntervalReady busy6 = true := by
  decide +kernel
/-- Obligations.AllocatorSetsOneSettingPerInterval. -/
theorem witness_allocator_locked : running (setB (setF busy6 fFrameStatusState pgFrame 1) fFrameCtrlMode pgFrame true) = true
    ∧ allocatorIntervalReady (setB (setF busy6 fFrameStatusState pgFrame 1) fFrameCtrlMode pgFrame true) = true := by
  decide +kernel
def sav : State := { pw id with tick := 2 ^ 40 }
/-- Obligations.LearnedValuesDurationsAndTimeAreWritten, clause 1. -/
theorem witness_learnSave : running sav = true ∧ learnSaveReady sav = true := by
  decide +kernel
/-- Obligations.LearnedValuesDurationsAndTimeAreWritten, clause 2. -/
theorem witness_learnReset : running (pw id) = true ∧ accepted (pw id) pgPwr 4 := by
  unfold accepted; decide +kernel
def trs : State := setF (setF pm0 fPwrTrTimeTicks pgPwr 55 0) fPwrTrTimeTicks pgPwr 77 3
/-- Obligations.LearnedValuesDurationsAndTimeAreWritten, clause 3. -/
theorem witness_trClear : running trs = true ∧ accepted trs pgPwr 4 := by
  unfold accepted; decide +kernel
/-- Obligations.LearnedValuesDurationsAndTimeAreWritten, clause 4. -/
theorem witness_timeCorr : running pm0 = true ∧ accepted pm0 pgTime 4 := by
  unfold accepted; decide +kernel

end W06

namespace W07

/-! The reins. -/
def hd (h : Nat) : State := { setF (su5) fOwnReinClaimHolder pgOwn h with tick := 9 }
/-- A handover from the management controller to the package control core pending since a tick. -/
def pend7 (target at_ : Nat) : State :=
  let s := setB (setF (hd 3) fOwnHandoverTarget pgOwn target) fOwnHandoverPending pgOwn true
  { s with ho := { s.ho with handoverAt := at_, i3cAddr := true }, tick := at_ + 5 }
def up2 : State := { hd 7 with ho := { (hd 7).ho with i3cAddr := true } }
def up23 : State := { hd 3 with ho := { (hd 3).ho with i3cAddr := true } }
def pendOld : State := { pend7 2 0 with tick := 100000001 }
def t2 : Fin 8 := 2
def t3 : Fin 8 := 3
def own3 : State := { hd 3 with ho := { (hd 3).ho with i3cAddr := true } }
/-- Obligations.ReinsPassOnlyAsTheRulesSay, clause 1.1. -/
theorem witness_reinClaim : islandRuns up2 = true ∧ (up2.pkg.boot.gated = false ∨ 2 = 2) ∧ stage up2 < 6
    ∧ eligible up2 2 = true ∧ holder up2 = 7 := by
  decide +kernel
/-- Obligations.ReinsPassOnlyAsTheRulesSay, clause 1.2. -/
theorem witness_reinClaim_held : islandRuns up23 = true ∧ (up23.pkg.boot.gated = false ∨ 2 = 2) ∧ stage up23 < 6
    ∧ eligible up23 2 = true ∧ (holder up23 ≠ 7) := by
  decide +kernel
/-- Obligations.ReinsPassOnlyAsTheRulesSay, clause 1.3. -/
theorem witness_reinAccept : islandRuns (pend7 2 0) = true ∧ ((pend7 2 0).pkg.boot.gated = false ∨ 2 = 2)
    ∧ stage (pend7 2 0) < 6 ∧ eligible (pend7 2 0) 2 = true ∧ handPending (pend7 2 0) = true
    ∧ getF (pend7 2 0) fOwnHandoverTarget pgOwn = 2 ∧ (pend7 2 0).tick ≤ 100000000 + (pend7 2 0).ho.handoverAt := by
  decide +kernel
/-- Obligations.ReinsPassOnlyAsTheRulesSay, clause 1.4. -/
theorem witness_reinAccept_other : islandRuns (pend7 0 0) = true ∧ ((pend7 0 0).pkg.boot.gated = false ∨ 2 = 2)
    ∧ stage (pend7 0 0) < 6 ∧ eligible (pend7 0 0) 2 = true ∧ handPending (pend7 0 0) = true
    ∧ (getF (pend7 0 0) fOwnHandoverTarget pgOwn ≠ 2) ∧ (pend7 0 0).tick ≤ 100000000 + (pend7 0 0).ho.handoverAt := by
  decide +kernel
/-- Obligations.ReinsPassOnlyAsTheRulesSay, clause 1.5. -/
theorem witness_reinAccept_late : islandRuns pendOld = true ∧ (pendOld.pkg.boot.gated = false ∨ 2 = 2)
    ∧ stage pendOld < 6 ∧ eligible pendOld 2 = true ∧ handPending pendOld = true
    ∧ 100000000 + pendOld.ho.handoverAt < pendOld.tick := by
  decide +kernel
/-- Obligations.ReinsPassOnlyAsTheRulesSay, clause 1.6. -/
theorem witness_reinAccept_none : islandRuns up23 = true ∧ (up23.pkg.boot.gated = false ∨ 2 = 2) ∧ stage up23 < 6
    ∧ eligible up23 2 = true ∧ handPending up23 = false := by
  decide +kernel
def cancelled : State := { up23 with ho := { up23.ho with cancelAt := some (up23.tick, 2) } }
/-- Obligations.ReinsPassOnlyAsTheRulesSay, clause 1.6. -/
theorem witness_reinAccept_cancelled : islandRuns cancelled = true ∧ (cancelled.pkg.boot.gated = false ∨ 2 = 2)
    ∧ stage cancelled < 6 ∧ eligible cancelled 2 = true ∧ handPending cancelled = false := by
  decide +kernel
/-- Obligations.ReinsPassOnlyAsTheRulesSay, clause 2. -/
theorem witness_reinClaim_ineligible : islandRuns su5 = true ∧ (su5.pkg.boot.gated = false ∨ 2 = 2)
    ∧ eligible su5 2 = false := by
  decide +kernel
/-- Obligations.ReinsPassOnlyAsTheRulesSay, clause 3. -/
theorem witness_reinRelease : islandRuns (hd 3) = true ∧ ((hd 3).pkg.boot.gated = false ∨ 3 = 2) ∧ stage (hd 3) < 6
    ∧ 3 < 4 ∧ holder (hd 3) = 3 := by
  decide +kernel
def lapse : State := { hd 3 with tick := 2 ^ 40 }
/-- Obligations.ReinsPassOnlyAsTheRulesSay, clause 4. -/
theorem witness_heartbeatLapse : islandRuns lapse = true ∧ heartbeatLapseReady lapse = true := by
  decide +kernel
/-- Obligations.ReinsPassOnlyAsTheRulesSay, clause 5. -/
theorem witness_heartbeatLapse_not : islandRuns su5 = true ∧ heartbeatLapseReady su5 = false := by
  decide +kernel
/-- Obligations.HandoversAndHeartbeatsAreTheHolders, clause 1.1. -/
theorem witness_handoverStart : islandRuns own3 = true ∧ (own3.pkg.boot.gated = false ∨ 3 = 2) ∧ stage own3 < 6
    ∧ 3 < 4 ∧ holder own3 = 3 ∧ (t2.val ≠ 7) ∧ (t2.val ≠ 3) ∧ eligible own3 t2.val = true := by
  decide +kernel
/-- Obligations.HandoversAndHeartbeatsAreTheHolders, clause 1.2. -/
theorem witness_handoverStart_self : islandRuns own3 = true ∧ (own3.pkg.boot.gated = false ∨ 3 = 2) ∧ stage own3 < 6
    ∧ 3 < 4 ∧ holder own3 = 3 ∧ (t3.val ≠ 7) ∧ (t3.val = 3 ∨ eligible own3 t3.val = false) := by
  decide +kernel
/-- Obligations.HandoversAndHeartbeatsAreTheHolders, clause 1.4. -/
theorem witness_handover_cancel : islandRuns (pend7 2 0) = true ∧ ((pend7 2 0).pkg.boot.gated = false ∨ 3 = 2)
    ∧ stage (pend7 2 0) < 6 ∧ 3 < 4 ∧ holder (pend7 2 0) = 3 := by
  decide +kernel
/-- Obligations.HandoversAndHeartbeatsAreTheHolders, clause 1.5. -/
theorem witness_heartbeat_own : islandRuns own3 = true ∧ (own3.pkg.boot.gated = false ∨ 3 = 2) ∧ stage own3 < 6
    ∧ 3 < 4 ∧ holder own3 = 3 := by
  decide +kernel
/-- Obligations.HandoversAndHeartbeatsAreTheHolders, clause 2.1. -/
theorem witness_handoverStart_other : islandRuns own3 = true ∧ (own3.pkg.boot.gated = false ∨ 2 = 2) ∧ stage own3 < 6
    ∧ (4 ≤ 2 ∨ holder own3 ≠ 2) := by
  decide +kernel
/-- Obligations.HandoversAndHeartbeatsAreTheHolders, clause 3. -/
theorem witness_handoverLapse : islandRuns pendOld = true ∧ handPending pendOld = true
    ∧ 100000000 + pendOld.ho.handoverAt < pendOld.tick := by
  decide +kernel
/-- Obligations.HandoversAndHeartbeatsAreTheHolders, clause 4. -/
theorem witness_i3cDynamicAddress : su5.pkg.boot.vmgmt = true := by
  decide +kernel

end W07

namespace W08

/-! Rings, ports and the aperture. -/
/-- READY, with both links up, memory space enabled, and context 1 of function 0 recorded on span 1. -/
def hu : State :=
  let s := setF (setF su5 fHifLinkState (pgHif 0) 2) fHifLinkState (pgHif 1) 2
  { s with tick := 777, ho := { s.ho with mse := [0, 1], vfs := [(0, 3)], linkDown := [] }, memo := ptd.memo, cx := { ptd.cx with recs := [((1, 1), ⟨0xFF, 0, 0, [], .store, [], [], []⟩)] } }
def f0 : Fin 128 := 0
def q3 : Fin 16 := 3
def sqRun (s : State) : State := setF (setF (setB (setF (setF s fFnSqCfgSizeLog2 (pgFn 0) 4 3) fFnCqBaseSizeLog2 (pgFn 0) 4 3) fFnSqCfgEnable (pgFn 0) true 3) fFnSqStateState (pgFn 0) 1 3) fFnDbTail (pgFn 0) 2 3
/-- Obligations.SubmissionRingsRun, clause 1.1. -/
theorem witness_doorbell : running (sqRun hu) = true ∧ fnReach (sqRun hu) f0.val = true ∧ stage (sqRun hu) = 5
    ∧ (sqRun hu).pkg.boot.pkgFault = false
    ∧ (2 ^ 32 + 16 % 2 ^ 32 - getF (sqRun hu) fFnSqHeadHead (pgFn f0.val) q3.val) % 2 ^ 32 ≤ sqSize (sqRun hu) f0.val q3.val := by
  decide +kernel
/-- Obligations.SubmissionRingsRun, clause 1.2. -/
theorem witness_doorbell_far : running (sqRun hu) = true ∧ fnReach (sqRun hu) f0.val = true ∧ stage (sqRun hu) = 5
    ∧ (sqRun hu).pkg.boot.pkgFault = false
    ∧ sqSize (sqRun hu) f0.val q3.val < (2 ^ 32 + 17 % 2 ^ 32 - getF (sqRun hu) fFnSqHeadHead (pgFn f0.val) q3.val) % 2 ^ 32 := by
  decide +kernel
/-- A launch entry: context 1, span 1, cores 0 and 1, kernel 4096. -/
def entry : List Nat := [1 + 2 ^ 12 + 2 ^ 24 + 2 ^ 27 * 3, 4096, 0, 99, 0, 0, 0, 0]
def entryBad : List Nat := [1 + 2 ^ 12 + 2 ^ 24 + 2 ^ 27 * 3, 4097, 0, 99, 0, 0, 0, 0]
/-- Obligations.SubmissionRingsRun, clause 2.1. -/
theorem witness_entryRead : running (sqRun hu) = true ∧ submissionEntryReadReady f0 q3 (sqRun hu) = true
    ∧ (getB (sqRun hu) fFnSqCfgKind (pgFn f0.val) q3.val = true ∨ launchRefusal (sqRun hu) (f0.val) (launchEntryOf (entryWords entry)) = none) := by
  decide +kernel
/-- Obligations.SubmissionRingsRun, clause 2.2. -/
theorem witness_entryRead_bad : running (sqRun hu) = true ∧ submissionEntryReadReady f0 q3 (sqRun hu) = true
    ∧ 50 < 256 ∧ getB (sqRun hu) fFnSqCfgKind (pgFn f0.val) q3.val = false
    ∧ launchRefusal (sqRun hu) (f0.val) (launchEntryOf (entryWords entryBad)) = some 50 := by
  decide +kernel
def subd : State := let s := sqRun hu; { s with ho := { s.ho with subs := [((0, 3), entry)] } }
/-- Obligations.SubmissionRingsRun, clause 3. -/
theorem witness_entryAccept : running subd = true ∧ entryAcceptReady f0 q3 subd = true
    ∧ entryHeld subd f0.val q3.val = some entry := by
  decide +kernel
def rc : CqRec := ⟨0, 3, 1, 2, 3, 4, 1, 0⟩
def cqs : State := let s := sqRun hu; { s with ho := { s.ho with cq := [rc, rc] } }
/-- Obligations.CompletionRingsTakeRecords, clause 1. -/
theorem witness_cqWrite : running cqs = true ∧ cqRecordWriteReady f0 q3 cqs = true
    ∧ cqNext cqs f0.val q3.val = some rc := by
  decide +kernel
def full : State := let s := setF (sqRun hu) fFnSqStateCqTail (pgFn 0) 16 3
  { s with tick := 2 ^ 40, ho := { s.ho with cqFull := [((0, 3), 5)] } }
/-- Obligations.CompletionRingsTakeRecords, clause 2. -/
theorem witness_cqStall : running full = true ∧ cqStallReady f0 q3 full = true := by
  decide +kernel
/-- Obligations.CompletionRingsTakeRecords, clause 3.1. -/
theorem witness_sqDisable : running (sqRun hu) = true ∧ fnReach (sqRun hu) f0.val = true ∧ stage (sqRun hu) = 5 := by
  decide +kernel
/-- Obligations.CompletionRingsTakeRecords, clause 3.2. -/
theorem witness_sqEnable : running hu = true ∧ fnReach hu f0.val = true ∧ stage hu = 5
    ∧ getF hu fFnSqStateState (pgFn f0.val) q3.val = 0 := by
  decide +kernel
/-- Obligations.CompletionRingsTakeRecords, clause 3.2. -/
theorem witness_sqEnable_full : running (setF full fFnSqStateState (pgFn 0) 0 3) = true
    ∧ fnReach (setF full fFnSqStateState (pgFn 0) 0 3) f0.val = true
    ∧ stage (setF full fFnSqStateState (pgFn 0) 0 3) = 5
    ∧ getF (setF full fFnSqStateState (pgFn 0) 0 3) fFnSqStateState (pgFn f0.val) q3.val = 0 := by
  decide +kernel
def po0 : Fin 2 := 0
def dwn : State := { su5 with tick := 2 ^ 40, ho := { su5.ho with linkDown := [(0, 5)] } }
/-- Obligations.PciePortsGoDownAndUp, clause 1. -/
theorem witness_portFail : running dwn = true ∧ pciePortFailReady po0 false dwn = true := by
  decide +kernel
/-- Obligations.PciePortsGoDownAndUp, clause 1. -/
theorem witness_portFail_fatal : running hu = true ∧ pciePortFailReady po0 true hu = true := by
  decide +kernel
/-- Obligations.PciePortsGoDownAndUp, clause 2, alternative 1. -/
theorem witness_linkDown : running hu = true ∧ Instr.pcieLinkDown po0 = Instr.pcieLinkDown po0
    ∧ getF hu fHifLinkState (pgHif po0.val) = 2 := by
  decide +kernel
/-- Obligations.PciePortsGoDownAndUp, clause 2, alternative 2. -/
theorem witness_refclkLoss : running hu = true ∧ Instr.pcieRefclkLoss po0 = Instr.pcieRefclkLoss po0
    ∧ getF hu fHifLinkState (pgHif po0.val) = 2 := by
  decide +kernel
def spd : Fin 6 := 5
def wid : Fin 5 := 4
def notPerst : State := { dwn with pkg := { dwn.pkg with boot := { dwn.pkg.boot with perst := [] } } }
/-- Obligations.PciePortsGoDownAndUp, clause 3. -/
theorem witness_linkUp : running notPerst = true ∧ pcieLinkUpReady po0 notPerst = true := by
  decide +kernel
/-- Obligations.PciePortsGoDownAndUp, clause 4.1. -/
theorem witness_config : running hu = true ∧ linkUp hu (64 * po0.val) = true ∧ 1 ≤ stage hu := by
  decide +kernel
/-- Obligations.PciePortsGoDownAndUp, clause 4.2. -/
theorem witness_config_aper : running hu = true ∧ linkUp hu (64 * po0.val) = true ∧ 1 ≤ stage hu ∧ 30 ≤ 40 ∧ 40 ≤ 40 := by
  decide +kernel
/-- Obligations.PciePortsGoDownAndUp, clause 4.3. -/
theorem witness_config_power : running hu = true ∧ linkUp hu (64 * po0.val) = true ∧ 1 ≤ stage hu ∧ 0 < 64
    ∧ fnEnabled hu (64 * po0.val + 0) = true := by
  decide +kernel
/-- Obligations.PciePortsGoDownAndUp, clause 6. -/
theorem witness_perstAssert : hu.pkg.boot.vmgmt = true := by
  decide +kernel
/-- Obligations.PciePortsGoDownAndUp, clause 7. -/
theorem witness_perstRelease : su5.pkg.boot.vmgmt = true := by
  decide +kernel
def ln : Fin 4097 := 200
/-- Obligations.HostAccessesReachTheirTargets, clause 1.1. -/
theorem witness_aperRead_early : running (setF hu fLcsStatusStage pgLcs 4) = true
    ∧ aperReach (setF hu fLcsStatusStage pgLcs 4) (po0.val) 4000 ln.val = true
    ∧ (stage (setF hu fLcsStatusStage pgLcs 4) ≠ 5) := by
  decide +kernel
def farA : State := let s := setF hu fHifAperBase (pgHif 0) 1023; { s with ho := { s.ho with aper := [(0, 40)] } }
/-- Obligations.HostAccessesReachTheirTargets, clause 1.2. -/
theorem witness_aperRead_above : running farA = true ∧ aperReach farA (po0.val) (2 ^ 30) ln.val = true
    ∧ stage farA = 5 ∧ daOk farA (aperAddr farA (po0.val) (2 ^ 30) + ln.val - 1) = false := by
  decide +kernel
/-- Obligations.HostAccessesReachTheirTargets, clause 1.3. -/
theorem witness_aperRead : running hu = true ∧ aperReach hu (po0.val) 4000 ln.val = true ∧ stage hu = 5
    ∧ daOk hu (aperAddr hu (po0.val) 4000 + ln.val - 1) = true := by
  decide +kernel
def hr0 : State := setF hu fOwnReinClaimHolder pgOwn 0
/-- Obligations.HostAccessesReachTheirTargets, clause 2.1. -/
theorem witness_aperWrite : running hr0 = true ∧ aperReach hr0 (po0.val) 4000 [1, 2, 3].length = true
    ∧ [1, 2, 3].length ≤ 512 ∧ stage hr0 = 5 ∧ holder hr0 = po0.val
    ∧ daOk hr0 (aperAddr hr0 (po0.val) 4000 + [1, 2, 3].length - 1) = true := by
  decide +kernel
/-- Obligations.HostAccessesReachTheirTargets, clause 2.3. -/
theorem witness_aperWrite_drop : running hu = true ∧ aperReach hu (po0.val) 4000 [1, 2, 3].length = true
    ∧ [1, 2, 3].length ≤ 512 ∧ (stage hu ≠ 5 ∨ holder hu ≠ po0.val) := by
  decide +kernel
/-- Obligations.HostAccessesReachTheirTargets, clause 3.1. -/
theorem witness_tsig : running (setF hu fFnTsigTgtCtx (pgFn 0) 1) = true
    ∧ fnReach (setF hu fFnTsigTgtCtx (pgFn 0) 1) f0.val = true ∧ stage (setF hu fFnTsigTgtCtx (pgFn 0) 1) = 5
    ∧ (getF (setF hu fFnTsigTgtCtx (pgFn 0) 1) fFnTsigTgtCtx (pgFn f0.val) ≠ 0)
    ∧ ctxFunc (setF hu fFnTsigTgtCtx (pgFn 0) 1) (getF (setF hu fFnTsigTgtCtx (pgFn 0) 1) fFnTsigTgtCtx (pgFn f0.val)) = f0.val
    ∧ (getCtx (setF hu fFnTsigTgtCtx (pgFn 0) 1) (getF (setF hu fFnTsigTgtCtx (pgFn 0) 1) fFnTsigTgtCtx (pgFn f0.val))).isSome = true := by
  decide +kernel
/-- Obligations.HostAccessesReachTheirTargets, clause 3.2. -/
theorem witness_tsig_none : running hu = true ∧ fnReach hu f0.val = true ∧ stage hu = 5
    ∧ (getF hu fFnTsigTgtCtx (pgFn f0.val) = 0 ∨ ctxFunc hu (getF hu fFnTsigTgtCtx (pgFn f0.val)) ≠ f0.val) := by
  decide +kernel
def mbs : State := let s := setF (setF hu fFnMbStateState (pgFn 0) 1 2) fFnMbStateState (pgFn 0) 2 3
  { s with ho := { s.ho with mb := [(0, 2), (0, 3)] } }
/-- Obligations.HostAccessesReachTheirTargets, clause 4. -/
theorem witness_flr : running mbs = true ∧ linkUp mbs f0.val = true ∧ fnEnabled mbs f0.val = true := by
  decide +kernel
def farW : State := { farA with regs := (setF farA fOwnReinClaimHolder pgOwn 0).regs }
/-- Obligations.HostAccessesReachTheirTargets, clause 2.2. -/
theorem witness_aperWrite_above : running farW = true ∧ aperReach farW (po0.val) (2 ^ 30) [1, 2, 3].length = true
    ∧ [1, 2, 3].length ≤ 512 ∧ stage farW = 5 ∧ holder farW = po0.val
    ∧ daOk farW (aperAddr farW (po0.val) (2 ^ 30) + [1, 2, 3].length - 1) = false := by
  decide +kernel

end W08

namespace W09

/-! The mailbox. -/
/-- READY, both links up, context 1 of function 0 with a record on span 1; port 0 holds the reins. -/
def mu : State :=
  let s := setF (setF (setF su5 fHifLinkState (pgHif 0) 2) fHifLinkState (pgHif 1) 2) fOwnReinClaimHolder pgOwn 0
  { s with tick := 777, ho := { s.ho with mse := [0, 1], vfs := [(0, 3)], linkDown := [] }, memo := ptd.memo, cx := { ptd.cx with recs := [((1, 1), ⟨0xFF, 0, 0, [], .store, [], [], []⟩)] } }
/-- The same with no holder. -/
def mv : State := setF mu fOwnReinClaimHolder pgOwn (getF su5 fOwnReinClaimHolder pgOwn)
def f0 : Fin 128 := 0
def k3 : Fin 8 := 3
/-- Words written into slot 3 of function 0 and submitted. -/
def slot (s : State) (l : List Nat) : State :=
  let t := (List.range 8).foldl (fun acc w => setF acc fFnMbCmdData (pgFn 0) (l.getD w 0) (24 + w)) s
  setF { t with ho := { t.ho with mb := [(0, 3)], mbAt := [((0, 3), s.tick)] } } fFnMbStateState (pgFn 0) 1 3
/-- Obligations.MailboxServesInOrderAndByPermission, clause 1. -/
theorem witness_mb_notNext : (Instr.version f0 k3, 30) ∈ [(Instr.ctxCreate f0 k3 false, 1), (Instr.ctxDestroy f0 k3 false, 2),
      (Instr.ctxPlace f0 k3 false, 3), (Instr.ctxRebind f0 k3 false, 4), (Instr.xltInval f0 k3 false, 5),
      (Instr.winOpen f0 k3 false, 6), (Instr.winClose f0 k3 false, 7), (Instr.swapArea f0 k3 false, 8),
      (Instr.modelCfg f0 k3 false, 16), (Instr.groupCfg f0 k3 false, 17),
      (Instr.epochPublish f0 k3 false, 18), (Instr.adapterLoad f0 k3 false, 19),
      (Instr.adapterReplace f0 k3 false, 19), (Instr.adapterDelete f0 k3 false, 19),
      (Instr.cachedRelease f0 k3 false, 20), (Instr.reqCancel f0 k3 false, 21), (Instr.version f0 k3, 30),
      (Instr.poll f0 k3 false, 31)]
    ∧ mbNext mu (f0.val) (k3.val) 30 = false := by
  decide +kernel
/-- Obligations.MailboxServesInOrderAndByPermission, clause 2. -/
theorem witness_mb_notHolder : (Instr.modelCfg f0 k3 false, 16) ∈ [(Instr.ctxRebind f0 k3 false, 4), (Instr.swapArea f0 k3 false, 8),
      (Instr.modelCfg f0 k3 false, 16), (Instr.groupCfg f0 k3 false, 17),
      (Instr.epochPublish f0 k3 false, 18)]
    ∧ mbTurn (slot mv [16, 7, 1, 2, 3]) (f0.val) (k3.val) 16 ∧ holderPf (slot mv [16, 7, 1, 2, 3]) f0.val = false := by
  unfold mbTurn; decide +kernel
def cmd8 : State := slot mu [8, 4096, 8192, 1]
/-- Obligations.MailboxServesInOrderAndByPermission, clause 3.1. -/
theorem witness_mb_early : (let __src := cmd8;
    { __src with tick := 1000775 }).pending =
  []
    ∧ running
    (let __src := cmd8;
    { __src with tick := 1000775 }) =
  true
    ∧ mbServed
    (let __src := cmd8;
    { __src with tick := 1000775 }) =
  true
    ∧ (let __src := cmd8;
      { __src with tick := 1000775 }).ho.mb =
  [(f0.val, k3.val)]
    ∧ (let __src := cmd8;
      { __src with tick := 1000775 }).ho.late =
  []
    ∧ 777 =
  look
    (let __src := cmd8;
        { __src with tick := 1000775 }).ho.mbAt
    (f0.val, k3.val) 0
    ∧ getF
    (let __src := cmd8;
    { __src with tick := 1000775 })
    fFnMbStateState (pgFn f0.val) k3.val =
  1
    ∧ ((let __src := cmd8;
        { __src with tick := 1000775 }).tick +
      1) %
    2 ^ 64 <
  1000000 + 777 := by
  decide +kernel
/-- Obligations.MailboxServesInOrderAndByPermission, clause 3.2. -/
theorem witness_mb_acked : (let __src := cmd8;
    { __src with tick := 1000776 }).pending =
  []
    ∧ running
    (let __src := cmd8;
    { __src with tick := 1000776 }) =
  true
    ∧ mbServed
    (let __src := cmd8;
    { __src with tick := 1000776 }) =
  true
    ∧ (let __src := cmd8;
      { __src with tick := 1000776 }).ho.mb =
  [(f0.val, k3.val)]
    ∧ (let __src := cmd8;
      { __src with tick := 1000776 }).ho.late =
  []
    ∧ 777 =
  look
    (let __src := cmd8;
        { __src with tick := 1000776 }).ho.mbAt
    (f0.val, k3.val) 0
    ∧ getF
    (let __src := cmd8;
    { __src with tick := 1000776 })
    fFnMbStateState (pgFn f0.val) k3.val =
  1
    ∧ 1000000 + 777 ≤
  ((let __src := cmd8;
        { __src with tick := 1000776 }).tick +
      1) %
    2 ^ 64
    ∧ ((let __src := cmd8;
        { __src with tick := 1000776 }).tick +
      1) %
    2 ^ 64 <
  10000000 + 777 := by
  decide +kernel
/-- Obligations.MailboxServesInOrderAndByPermission, clause 3.3. -/
theorem witness_mb_overdue : (let __src := cmd8;
    { __src with tick := 10000776 }).pending =
  []
    ∧ running
    (let __src := cmd8;
    { __src with tick := 10000776 }) =
  true
    ∧ mbServed
    (let __src := cmd8;
    { __src with tick := 10000776 }) =
  true
    ∧ (let __src := cmd8;
      { __src with tick := 10000776 }).ho.mb =
  [(f0.val, k3.val)]
    ∧ (let __src := cmd8;
      { __src with tick := 10000776 }).ho.late =
  []
    ∧ 777 =
  look
    (let __src := cmd8;
        { __src with tick := 10000776 }).ho.mbAt
    (f0.val, k3.val) 0
    ∧ getF
    (let __src := cmd8;
    { __src with tick := 10000776 })
    fFnMbStateState (pgFn f0.val) k3.val =
  1
    ∧ 10000000 + 777 ≤
  ((let __src := cmd8;
        { __src with tick := 10000776 }).tick +
      1) %
    2 ^ 64
    ∧ (mbReg
      (let __src := cmd8;
      { __src with tick := 10000776 })
      (f0.val) (k3.val) 0 %
    256 ≠
  31) := by
  decide +kernel
/-- Obligations.MailboxServesInOrderAndByPermission, clause 4.1. -/
theorem witness_mb_slow : (Instr.swapArea f0 k3 true, 8) ∈ [(Instr.ctxCreate f0 k3 true, 1), (Instr.ctxDestroy f0 k3 true, 2),
      (Instr.ctxPlace f0 k3 true, 3), (Instr.ctxRebind f0 k3 true, 4), (Instr.swapArea f0 k3 true, 8),
      (Instr.modelCfg f0 k3 true, 16), (Instr.groupCfg f0 k3 true, 17), (Instr.epochPublish f0 k3 true, 18),
      (Instr.adapterLoad f0 k3 true, 19), (Instr.adapterReplace f0 k3 true, 19),
      (Instr.adapterDelete f0 k3 true, 19), (Instr.cachedRelease f0 k3 true, 20),
      (Instr.reqCancel f0 k3 true, 21)]
    ∧ (∀ (x : Instr × Nat), x ∈ [(Instr.adapterLoad f0 k3 true, 0), (Instr.adapterReplace f0 k3 true, 1),
      (Instr.adapterDelete f0 k3 true, 2)] → Instr.swapArea f0 k3 true = x.fst → mbWord cmd8 (f0.val) (k3.val) 1 % 4 = x.snd)
    ∧ mbTurn cmd8 (f0.val) (k3.val) 8 := by
  unfold mbTurn; decide +kernel
/-- A command of slot 3 that has answered PROGRESS, with token 6. -/
def lateOf : MbLate := ⟨0, 3, 6, [8, 4096, 8192, 1, 0, 0, 0, 0]⟩
def late (s : State) : State :=
  { s with ho := { s.ho with mb := [], late := [lateOf], tokens := [⟨6, 0, none, 5⟩, ⟨7, 0, none, 5⟩] } }
/-- Obligations.MailboxServesInOrderAndByPermission, clause 4.2. -/
theorem witness_mb_slow_late : (Instr.swapArea f0 k3 true, 8) ∈ [(Instr.ctxCreate f0 k3 true, 1), (Instr.ctxDestroy f0 k3 true, 2),
      (Instr.ctxPlace f0 k3 true, 3), (Instr.ctxRebind f0 k3 true, 4), (Instr.swapArea f0 k3 true, 8),
      (Instr.modelCfg f0 k3 true, 16), (Instr.groupCfg f0 k3 true, 17), (Instr.epochPublish f0 k3 true, 18),
      (Instr.adapterLoad f0 k3 true, 19), (Instr.adapterReplace f0 k3 true, 19),
      (Instr.adapterDelete f0 k3 true, 19), (Instr.cachedRelease f0 k3 true, 20),
      (Instr.reqCancel f0 k3 true, 21)]
    ∧ (∀ (x : Instr × Nat), x ∈ [(Instr.adapterLoad f0 k3 true, 0), (Instr.adapterReplace f0 k3 true, 1),
      (Instr.adapterDelete f0 k3 true, 2)] → Instr.swapArea f0 k3 true = x.fst → mbWord (late mu) (f0.val) (k3.val) 1 % 4 = x.snd)
    ∧ ((late mu).ho.late ≠ []) := by
  decide +kernel
/-- Obligations.MailboxServesInOrderAndByPermission, clause 5. -/
theorem witness_mb_late : running (late mu) = true ∧ mbNext (late mu) (f0.val) (k3.val) 8 = true
    ∧ (late mu).ho.late = [lateOf] ∧ (late mu).ho.mb = [] ∧ mbWord (late mu) (f0.val) (k3.val) 1 % 4096 = 0
    ∧ fnEnabled (late mu) (mbWord (late mu) (f0.val) (k3.val) 3) = true
    ∧ (0 = if holderPf (late mu) f0.val = true then 0 else mNotPermitted) := by
  decide +kernel
/-- Obligations.MailboxServesInOrderAndByPermission, clause 5. -/
theorem witness_mb_late_refused : running (late mv) = true ∧ mbNext (late mv) (f0.val) (k3.val) 8 = true
    ∧ (late mv).ho.late = [lateOf] ∧ (late mv).ho.mb = [] ∧ mbWord (late mv) (f0.val) (k3.val) 1 % 4096 = 0
    ∧ fnEnabled (late mv) (mbWord (late mv) (f0.val) (k3.val) 3) = true
    ∧ (mNotPermitted = if holderPf (late mv) f0.val = true then 0 else mNotPermitted) := by
  decide +kernel
/-- A window invalidation is in progress. -/
def winWait : State := let s := slot mu [7, 7]; { s with pkg := { s.pkg with link := { s.pkg.link with inval := some none } } }
/-- Obligations.MailboxServesInOrderAndByPermission, clause 6. -/
theorem witness_mb_invalWait : winWait.pkg.link.inval.isSome = true := by
  decide +kernel
/-- An invalidation of translations is in progress. -/
def xltWait : State := let s := slot mu [5, 5 * 2 ^ 12, 4096, 8191]; { s with cx := { s.cx with xinv := some (⟨1, 5, 0, 0⟩, 900) } }
/-- Obligations.MailboxServesInOrderAndByPermission, clause 7, alternative 1. -/
theorem witness_mb_xltWait : xltWait.cx.xinv.isSome = true := by
  decide +kernel
def mkW : List Nat := [9 * 2 ^ 12 + 3 * 2 ^ 24 + 2 ^ 27 + 2 ^ 33, 8192, 255 + 8 * 256, 0]
def badW : List Nat := [3 * 2 ^ 24 + 2 ^ 27 + 2 ^ 33, 8192, 255 + 8 * 256, 0]
def ctxOf (l : List Nat) : Ctx := ctxOfWords l
/-- Obligations.MailboxManagesContexts, clause 1.1. -/
theorem witness_ctxCreate_bad : mbTurn (slot mu (1 :: badW)) (f0.val) (k3.val) 1
    ∧ badW = [mbWord (slot mu (1 :: badW)) (f0.val) (k3.val) 1, mbWord (slot mu (1 :: badW)) (f0.val) (k3.val) 2, mbWord (slot mu (1 :: badW)) (f0.val) (k3.val) 3, mbWord (slot mu (1 :: badW)) (f0.val) (k3.val) 4]
    ∧ ctxOf badW = ctxOfWords badW ∧ ((ctxOf badW).func = f0.val ∨ holderPf (slot mu (1 :: badW)) f0.val = true)
    ∧ ctxRefused (slot mu (1 :: badW)) badW (ctxOf badW) = true := by
  unfold mbTurn; decide +kernel
/-- Obligations.MailboxManagesContexts, clause 1.2. -/
theorem witness_ctxCreate : mbTurn (slot mu (1 :: mkW)) (f0.val) (k3.val) 1
    ∧ mkW = [mbWord (slot mu (1 :: mkW)) (f0.val) (k3.val) 1, mbWord (slot mu (1 :: mkW)) (f0.val) (k3.val) 2, mbWord (slot mu (1 :: mkW)) (f0.val) (k3.val) 3, mbWord (slot mu (1 :: mkW)) (f0.val) (k3.val) 4]
    ∧ ctxOf mkW = ctxOfWords mkW ∧ ((ctxOf mkW).func = f0.val ∨ holderPf (slot mu (1 :: mkW)) f0.val = true)
    ∧ ctxRefused (slot mu (1 :: mkW)) mkW (ctxOf mkW) = false
    ∧ (List.filter (fun p => decide (p.fst ≠ 0)) (slot mu (1 :: mkW)).cx.ctxs).length < 4095 := by
  unfold mbTurn; decide +kernel
/-- Obligations.MailboxManagesContexts, clause 2. -/
theorem witness_ctxDestroy : mbTurn (slot mu [2, 1]) (f0.val) (k3.val) 2
    ∧ (mbWord (slot mu [2, 1]) (f0.val) (k3.val) 1 ≠ 0)
    ∧ getCtx (slot mu [2, 1]) (mbWord (slot mu [2, 1]) (f0.val) (k3.val) 1) = some cx1
    ∧ (cx1.func = f0.val ∨ holderPf (slot mu [2, 1]) f0.val = true) := by
  unfold mbTurn; decide +kernel
/-- Obligations.MailboxManagesContexts, clause 3. -/
theorem witness_ctxDestroy_none : mbTurn (slot mu [2, 4095]) (f0.val) (k3.val) 2
    ∧ (mbWord (slot mu [2, 4095]) (f0.val) (k3.val) 1 = 0 ∨ getCtx (slot mu [2, 4095]) (mbWord (slot mu [2, 4095]) (f0.val) (k3.val) 1) = none) := by
  unfold mbTurn; decide +kernel
/-- Obligations.MailboxManagesContexts, clause 4.1. -/
theorem witness_ctxPlace : mbTurn (slot mu [3, 1 + 2 * 2 ^ 12 + 3 * 2 ^ 16, 65536]) (f0.val) (k3.val) 3
    ∧ 1 = bits (mbWord (slot mu [3, 1 + 2 * 2 ^ 12 + 3 * 2 ^ 16, 65536]) (f0.val) (k3.val) 1) 0 12
    ∧ 2 = bits (mbWord (slot mu [3, 1 + 2 * 2 ^ 12 + 3 * 2 ^ 16, 65536]) (f0.val) (k3.val) 1) 12 3
    ∧ 3 = bits (mbWord (slot mu [3, 1 + 2 * 2 ^ 12 + 3 * 2 ^ 16, 65536]) (f0.val) (k3.val) 1) 16 16 ∧ (1 ≠ 0)
    ∧ getCtx (slot mu [3, 1 + 2 * 2 ^ 12 + 3 * 2 ^ 16, 65536]) 1 = some cx1 ∧ cx1.func = f0.val
    ∧ bitAt cx1.spans 2 = true ∧ (3 ≠ 0)
    ∧ mbWord (slot mu [3, 1 + 2 * 2 ^ 12 + 3 * 2 ^ 16, 65536]) (f0.val) (k3.val) 2 % 65536 = 0
    ∧ daOk (slot mu [3, 1 + 2 * 2 ^ 12 + 3 * 2 ^ 16, 65536]) (mbWord (slot mu [3, 1 + 2 * 2 ^ 12 + 3 * 2 ^ 16, 65536]) (f0.val) (k3.val) 2) = true
    ∧ getRec (slot mu [3, 1 + 2 * 2 ^ 12 + 3 * 2 ^ 16, 65536]) 2 1 = none
    ∧ spanDown (slot mu [3, 1 + 2 * 2 ^ 12 + 3 * 2 ^ 16, 65536]) 2 = false
    ∧ ((maskCores 3).all fun co => !coreAbsent (slot mu [3, 1 + 2 * 2 ^ 12 + 3 * 2 ^ 16, 65536]) 2 co) = true := by
  unfold mbTurn; decide +kernel
/-- Span 2 is absent. -/
def noSpan2 : State := let s := slot mu [3, 1 + 2 * 2 ^ 12 + 3 * 2 ^ 16, 65536]
  { s with pkg := { s.pkg with spansGone := [(2, 3)] } }
/-- Obligations.MailboxManagesContexts, clause 4.2. -/
theorem witness_ctxPlace_absent : mbTurn noSpan2 (f0.val) (k3.val) 3
    ∧ 1 = bits (mbWord noSpan2 (f0.val) (k3.val) 1) 0 12 ∧ 2 = bits (mbWord noSpan2 (f0.val) (k3.val) 1) 12 3
    ∧ 3 = bits (mbWord noSpan2 (f0.val) (k3.val) 1) 16 16 ∧ (1 ≠ 0) ∧ getCtx noSpan2 1 = some cx1 ∧ cx1.func = f0.val
    ∧ bitAt cx1.spans 2 = true ∧ (3 ≠ 0) ∧ mbWord noSpan2 (f0.val) (k3.val) 2 % 65536 = 0
    ∧ daOk noSpan2 (mbWord noSpan2 (f0.val) (k3.val) 2) = true ∧ getRec noSpan2 2 1 = none ∧ spanDown noSpan2 2 = true := by
  unfold mbTurn; decide +kernel
/-- Obligations.MailboxManagesContexts, clause 5. -/
theorem witness_ctxRebind : mbTurn (slot mu [4, 1 + 2 ^ 12, 257]) (f0.val) (k3.val) 4
    ∧ holderPf (slot mu [4, 1 + 2 ^ 12, 257]) f0.val = true
    ∧ 1 = bits (mbWord (slot mu [4, 1 + 2 ^ 12, 257]) (f0.val) (k3.val) 1) 0 12
    ∧ 1 = bits (mbWord (slot mu [4, 1 + 2 ^ 12, 257]) (f0.val) (k3.val) 1) 12 7 ∧ (1 ≠ 0)
    ∧ getCtx (slot mu [4, 1 + 2 ^ 12, 257]) 1 = some cx1 ∧ 1 / 64 = f0.val / 64
    ∧ fnEnabled (slot mu [4, 1 + 2 ^ 12, 257]) 1 = true
    ∧ fnEnabled (slot mu [4, 1 + 2 ^ 12, 257]) (bits (mbWord (slot mu [4, 1 + 2 ^ 12, 257]) (f0.val) (k3.val) 2) 0 7) = true := by
  unfold mbTurn; decide +kernel
/-- Obligations.MailboxManagesContexts, clause 6. -/
theorem witness_xltInval : mbTurn (slot mu [5, 5 * 2 ^ 12, 4096, 8191]) (f0.val) (k3.val) 5
    ∧ (slot mu [5, 5 * 2 ^ 12, 4096, 8191]).cx.xinv = none
    ∧ stitchesClear (slot mu [5, 5 * 2 ^ 12, 4096, 8191]) (xltInvalOp (slot mu [5, 5 * 2 ^ 12, 4096, 8191]) f0.val k3.val) ((slot mu [5, 5 * 2 ^ 12, 4096, 8191]).tick + 1) = true
    ∧ 0 = bits (mbWord (slot mu [5, 5 * 2 ^ 12, 4096, 8191]) (f0.val) (k3.val) 1) 0 2
    ∧ 5 = bits (mbWord (slot mu [5, 5 * 2 ^ 12, 4096, 8191]) (f0.val) (k3.val) 1) 12 12
    ∧ (0 = 1 ∨ 0 = 0 ∧ mbWord (slot mu [5, 5 * 2 ^ 12, 4096, 8191]) (f0.val) (k3.val) 2 % 4096 = 0)
    ∧ ((slot mu [5, 5 * 2 ^ 12, 4096, 8191]).cx.ctxs.any fun p => p.fst != 0 && p.snd.func == f0.val && p.snd.asid == 5) = true := by
  unfold mbTurn; decide +kernel
/-- Obligations.MailboxManagesContexts, clause 6. -/
theorem witness_xltInval_all : mbTurn (slot mu [5, 1 + 5 * 2 ^ 12, 0, 0]) (f0.val) (k3.val) 5
    ∧ (slot mu [5, 1 + 5 * 2 ^ 12, 0, 0]).cx.xinv = none
    ∧ stitchesClear (slot mu [5, 1 + 5 * 2 ^ 12, 0, 0]) (xltInvalOp (slot mu [5, 1 + 5 * 2 ^ 12, 0, 0]) f0.val k3.val) ((slot mu [5, 1 + 5 * 2 ^ 12, 0, 0]).tick + 1) = true
    ∧ 1 = bits (mbWord (slot mu [5, 1 + 5 * 2 ^ 12, 0, 0]) (f0.val) (k3.val) 1) 0 2
    ∧ 5 = bits (mbWord (slot mu [5, 1 + 5 * 2 ^ 12, 0, 0]) (f0.val) (k3.val) 1) 12 12
    ∧ (1 = 1 ∨ 1 = 0 ∧ mbWord (slot mu [5, 1 + 5 * 2 ^ 12, 0, 0]) (f0.val) (k3.val) 2 % 4096 = 0)
    ∧ ((slot mu [5, 1 + 5 * 2 ^ 12, 0, 0]).cx.ctxs.any fun p => p.fst != 0 && p.snd.func == f0.val && p.snd.asid == 5) = true := by
  unfold mbTurn; decide +kernel
def openW : List Nat := [1 + 16 + 65536 + 2 ^ 20, 65536, 8192, 0]
/-- Entry 7 is a window of context 1. -/
def opened : State := winEntryStore mu 7 openW
/-- Obligations.MailboxOpensWindowsAndAnswersPolls, clause 1. -/
theorem witness_winOpen : mbTurn (slot mu [6, 16 + 65536 + 2 ^ 20, 65536, 8192]) (f0.val) (k3.val) 6
    ∧ (slot mu [6, 16 + 65536 + 2 ^ 20, 65536, 8192]).pkg.link.inval = none
    ∧ openW = [mbWord (slot mu [6, 16 + 65536 + 2 ^ 20, 65536, 8192]) (f0.val) (k3.val) 1 / 2 * 2 + 1, mbWord (slot mu [6, 16 + 65536 + 2 ^ 20, 65536, 8192]) (f0.val) (k3.val) 2, mbWord (slot mu [6, 16 + 65536 + 2 ^ 20, 65536, 8192]) (f0.val) (k3.val) 3, 0]
    ∧ winValid (slot mu [6, 16 + 65536 + 2 ^ 20, 65536, 8192]) openW = true ∧ (winCtx openW ≠ 0)
    ∧ getCtx (slot mu [6, 16 + 65536 + 2 ^ 20, 65536, 8192]) (winCtx openW) = some cx1 ∧ cx1.func = f0.val
    ∧ ((List.range 4096).any fun w => !bitAt (winWord (winStored (slot mu [6, 16 + 65536 + 2 ^ 20, 65536, 8192]) w) 0) 0) = true := by
  unfold mbTurn; decide +kernel
/-- Obligations.MailboxOpensWindowsAndAnswersPolls, clause 2. -/
theorem witness_winClose : mbTurn (slot opened [7, 7]) (f0.val) (k3.val) 7
    ∧ (slot opened [7, 7]).pkg.link.inval = none
    ∧ openW = winStored (slot opened [7, 7]) (mbWord (slot opened [7, 7]) (f0.val) (k3.val) 1)
    ∧ bitAt (winWord openW 0) 0 = true ∧ (winCtx openW ≠ 0) ∧ getCtx (slot opened [7, 7]) (winCtx openW) = some cx1
    ∧ cx1.func = f0.val := by
  unfold mbTurn; decide +kernel
/-- Obligations.MailboxOpensWindowsAndAnswersPolls, clause 3. -/
theorem witness_winClose_none : mbTurn (slot opened [7, 8]) (f0.val) (k3.val) 7
    ∧ (slot opened [7, 8]).pkg.link.inval = none
    ∧ bitAt (winWord (winStored (slot opened [7, 8]) (mbWord (slot opened [7, 8]) (f0.val) (k3.val) 1)) 0) 0 = false := by
  unfold mbTurn; decide +kernel
/-- Obligations.MailboxOpensWindowsAndAnswersPolls, clause 4. -/
theorem witness_version : mbTurn (slot mv [30]) (f0.val) (k3.val) 30 := by
  unfold mbTurn; decide +kernel
def tokd (r : Option (Nat × List Nat)) : State := let s := slot mv [0x1F, 6]
  { s with tick := 70000000000, ho := { s.ho with tokens := [⟨6, 0, r, 5⟩, ⟨7, 0, none, 5⟩], mbAt := [((0, 3), 69999999999)] } }
/-- Obligations.MailboxOpensWindowsAndAnswersPolls, clause 5.1. -/
theorem witness_poll_none : mbTurn (slot mv [31, 6]) (f0.val) (k3.val) 31
    ∧ List.find? (fun x => x.token == mbWord (slot mv [31, 6]) (f0.val) (k3.val) 1 && x.fn == f0.val) (slot mv [31, 6]).ho.tokens = none := by
  unfold mbTurn; decide +kernel
/-- Obligations.MailboxOpensWindowsAndAnswersPolls, clause 5.2. -/
theorem witness_poll : mbTurn (tokd (some (4, [9]))) (f0.val) (k3.val) 31
    ∧ List.find? (fun x => x.token == mbWord (tokd (some (4, [9]))) (f0.val) (k3.val) 1 && x.fn == f0.val) (tokd (some (4, [9]))).ho.tokens = some { token := 6, fn := 0, result := some (4, [9]), at_ := 5 : Token }
    ∧ { token := 6, fn := 0, result := some (4, [9]), at_ := 5 : Token }.result = some (4, [9]) ∧ (4, [9]).fst < 256 := by
  unfold mbTurn; decide +kernel
/-- Obligations.MailboxOpensWindowsAndAnswersPolls, clause 5.3, alternative 1. -/
theorem witness_poll_progress : mbTurn (tokd none) (f0.val) (k3.val) 31
    ∧ List.find? (fun x => x.token == mbWord (tokd none) (f0.val) (k3.val) 1 && x.fn == f0.val) (tokd none).ho.tokens = some { token := 6, fn := 0, result := none, at_ := 5 : Token }
    ∧ { token := 6, fn := 0, result := none, at_ := 5 : Token }.result = none := by
  unfold mbTurn; decide +kernel
/-- Obligations.MailboxOpensWindowsAndAnswersPolls, clause 5.3, alternative 2. -/
theorem witness_poll_slow : mbTurn (tokd (some (4, [9]))) (f0.val) (k3.val) 31
    ∧ List.find? (fun x => x.token == mbWord (tokd (some (4, [9]))) (f0.val) (k3.val) 1 && x.fn == f0.val) (tokd (some (4, [9]))).ho.tokens = some { token := 6, fn := 0, result := some (4, [9]), at_ := 5 : Token }
    ∧ true = true := by
  unfold mbTurn; decide +kernel
/-- Obligations.MailboxOpensWindowsAndAnswersPolls, clause 6. -/
theorem witness_tokenExpiry : running (tokd (some (4, [9]))) = true := by
  decide +kernel
/-- Obligations.MailboxConfiguresServing, clause 1. -/
theorem witness_swapArea : mbTurn (slot mu [8, 4096, 8192, 1]) (f0.val) (k3.val) 8
    ∧ holderPf (slot mu [8, 4096, 8192, 1]) f0.val = true
    ∧ mbWord (slot mu [8, 4096, 8192, 1]) (f0.val) (k3.val) 1 % 4096 = 0
    ∧ fnEnabled (slot mu [8, 4096, 8192, 1]) (mbWord (slot mu [8, 4096, 8192, 1]) (f0.val) (k3.val) 3) = true := by
  unfold mbTurn; decide +kernel
/-- Model 7 at epoch 4, an adapter, a prefix and two requests. -/
def md : Model := ⟨1, 2, 3, 4, 5⟩
def reqOf (idx : Nat) (st : ReqSt) : Req :=
  ⟨idx, 0, 1, 4, 77, 7, 0, 0, 4, 0, 1, false, false, 16, none, 4096, 8, 8192, 0, st, .resident, false, 8, 8, 0, false, false, [], [],
    [], 0, none, 0, 0⟩
def mw : State := { mu with srv := { mu.srv with models := [(7, md)], adapters := [(2, ⟨3, 3, [(3, 64)]⟩)],
                                                   prefixes := [(9, ⟨0, 7, 4, 0, 0, 16, [], false⟩), (10, ⟨1, 7, 4, 0, 0, 16, [], false⟩)],
                                                   reqs := [reqOf 3 .queued, reqOf 4 .generating] } }
/-- Obligations.MailboxConfiguresServing, clause 2. -/
theorem witness_modelCfg_new : mbTurn (slot mw [16, 8, 1, 2, 3]) (f0.val) (k3.val) 16
    ∧ holderPf (slot mw [16, 8, 1, 2, 3]) f0.val = true := by
  unfold mbTurn; decide +kernel
/-- Obligations.MailboxConfiguresServing, clause 2. -/
theorem witness_modelCfg : mbTurn (slot mw [16, 7, 1, 2, 9]) (f0.val) (k3.val) 16
    ∧ holderPf (slot mw [16, 7, 1, 2, 9]) f0.val = true := by
  unfold mbTurn; decide +kernel
/-- Obligations.MailboxConfiguresServing, clause 3. -/
theorem witness_groupCfg : mbTurn (slot mw [17, 5 + 4096 + 7 * 65536 + 2 ^ 33, 16, 262144]) (f0.val) (k3.val) 17
    ∧ holderPf (slot mw [17, 5 + 4096 + 7 * 65536 + 2 ^ 33, 16, 262144]) f0.val = true
    ∧ 5 = bits (mbWord (slot mw [17, 5 + 4096 + 7 * 65536 + 2 ^ 33, 16, 262144]) (f0.val) (k3.val) 1) 0 12
    ∧ getModel (slot mw [17, 5 + 4096 + 7 * 65536 + 2 ^ 33, 16, 262144]) (bits (mbWord (slot mw [17, 5 + 4096 + 7 * 65536 + 2 ^ 33, 16, 262144]) (f0.val) (k3.val) 1) 16 16) = some md
    ∧ groupFields (slot mw [17, 5 + 4096 + 7 * 65536 + 2 ^ 33, 16, 262144]) 5 (bits (mbWord (slot mw [17, 5 + 4096 + 7 * 65536 + 2 ^ 33, 16, 262144]) (f0.val) (k3.val) 1) 32 9) (mbWord (slot mw [17, 5 + 4096 + 7 * 65536 + 2 ^ 33, 16, 262144]) (f0.val) (k3.val) 2) (mbWord (slot mw [17, 5 + 4096 + 7 * 65536 + 2 ^ 33, 16, 262144]) (f0.val) (k3.val) 3) (bitAt (mbWord (slot mw [17, 5 + 4096 + 7 * 65536 + 2 ^ 33, 16, 262144]) (f0.val) (k3.val) 1) 12) = true := by
  unfold mbTurn; decide +kernel
/-- Obligations.MailboxConfiguresServing, clause 4.1. -/
theorem witness_epochPublish : mbTurn (slot mw [18, 7 + 5 * 65536]) (f0.val) (k3.val) 18
    ∧ holderPf (slot mw [18, 7 + 5 * 65536]) f0.val = true
    ∧ 7 = bits (mbWord (slot mw [18, 7 + 5 * 65536]) (f0.val) (k3.val) 1) 0 16
    ∧ getModel (slot mw [18, 7 + 5 * 65536]) 7 = some md
    ∧ bits (mbWord (slot mw [18, 7 + 5 * 65536]) (f0.val) (k3.val) 1) 16 48 = md.epoch + 1 := by
  unfold mbTurn; decide +kernel
/-- Obligations.MailboxConfiguresServing, clause 4.2. -/
theorem witness_epochPublish_bad : mbTurn (slot mw [18, 7 + 6 * 65536]) (f0.val) (k3.val) 18
    ∧ holderPf (slot mw [18, 7 + 6 * 65536]) f0.val = true
    ∧ 7 = bits (mbWord (slot mw [18, 7 + 6 * 65536]) (f0.val) (k3.val) 1) 0 16
    ∧ getModel (slot mw [18, 7 + 6 * 65536]) 7 = some md
    ∧ (bits (mbWord (slot mw [18, 7 + 6 * 65536]) (f0.val) (k3.val) 1) 16 48 ≠ md.epoch + 1) := by
  unfold mbTurn; decide +kernel
/-- Obligations.MailboxConfiguresServing, clause 5.1. -/
theorem witness_adapterLoad : mbTurn (slot mw [19, 65536, 4096]) (f0.val) (k3.val) 19
    ∧ holderPf (slot mw [19, 65536, 4096]) f0.val = true ∧ 1 = adapterHandle (slot mw [19, 65536, 4096]) f0.val k3.val
    ∧ (1 ≠ 0) ∧ mbWord (slot mw [19, 65536, 4096]) (f0.val) (k3.val) 1 % 4 = 0
    ∧ (getAdapter (slot mw [19, 65536, 4096]) 1).gens = [] := by
  unfold mbTurn; decide +kernel
/-- Obligations.MailboxConfiguresServing, clause 5.2. -/
theorem witness_adapterReplace : mbTurn (slot mw [19, 2 * 65536 + 1, 4096]) (f0.val) (k3.val) 19
    ∧ holderPf (slot mw [19, 2 * 65536 + 1, 4096]) f0.val = true
    ∧ 2 = adapterHandle (slot mw [19, 2 * 65536 + 1, 4096]) f0.val k3.val ∧ (2 ≠ 0)
    ∧ mbWord (slot mw [19, 2 * 65536 + 1, 4096]) (f0.val) (k3.val) 1 % 4 = 1
    ∧ ((getAdapter (slot mw [19, 2 * 65536 + 1, 4096]) 2).cur ≠ 0) := by
  unfold mbTurn; decide +kernel
/-- Obligations.MailboxConfiguresServing, clause 5.3. -/
theorem witness_adapterDelete : mbTurn (slot mw [19, 2 * 65536 + 2, 0]) (f0.val) (k3.val) 19
    ∧ holderPf (slot mw [19, 2 * 65536 + 2, 0]) f0.val = true
    ∧ 2 = adapterHandle (slot mw [19, 2 * 65536 + 2, 0]) f0.val k3.val ∧ (2 ≠ 0)
    ∧ mbWord (slot mw [19, 2 * 65536 + 2, 0]) (f0.val) (k3.val) 1 % 4 = 2
    ∧ ((getAdapter (slot mw [19, 2 * 65536 + 2, 0]) 2).cur ≠ 0) := by
  unfold mbTurn; decide +kernel
/-- Obligations.MailboxConfiguresServing, clause 5.4. -/
theorem witness_adapterDelete_none : mbTurn (slot mw [19, 3 * 65536 + 2, 0]) (f0.val) (k3.val) 19
    ∧ holderPf (slot mw [19, 3 * 65536 + 2, 0]) f0.val = true
    ∧ 3 = adapterHandle (slot mw [19, 3 * 65536 + 2, 0]) f0.val k3.val ∧ (3 ≠ 0)
    ∧ mbWord (slot mw [19, 3 * 65536 + 2, 0]) (f0.val) (k3.val) 1 % 4 = 2
    ∧ (getAdapter (slot mw [19, 3 * 65536 + 2, 0]) 3).cur = 0 := by
  unfold mbTurn; decide +kernel
def pfx : Nat × CachedPrefix := (9, ⟨0, 7, 4, 0, 0, 16, [], false⟩)
def pfxO : Nat × CachedPrefix := (10, ⟨1, 7, 4, 0, 0, 16, [], false⟩)
/-- Obligations.MailboxConfiguresServing, clause 6.1. -/
theorem witness_cachedRelease : mbTurn (slot mw [20, 9]) (f0.val) (k3.val) 20
    ∧ List.find? (fun p => decide (p.fst = mbWord (slot mw [20, 9]) (f0.val) (k3.val) 1)) (slot mw [20, 9]).srv.prefixes = some pfx
    ∧ pfx.snd.fn = f0.val := by
  unfold mbTurn; decide +kernel
/-- Obligations.MailboxConfiguresServing, clause 6.2. -/
theorem witness_cachedRelease_other : mbTurn (slot mw [20, 10]) (f0.val) (k3.val) 20
    ∧ List.find? (fun p => decide (p.fst = mbWord (slot mw [20, 10]) (f0.val) (k3.val) 1)) (slot mw [20, 10]).srv.prefixes = some pfxO
    ∧ (pfxO.snd.fn ≠ f0.val) := by
  unfold mbTurn; decide +kernel
/-- Obligations.MailboxConfiguresServing, clause 7.1. -/
theorem witness_reqCancel_queued : mbTurn (slot mw [21, 3, 77]) (f0.val) (k3.val) 21
    ∧ getReq (slot mw [21, 3, 77]) (mbWord (slot mw [21, 3, 77]) (f0.val) (k3.val) 1) = some (reqOf 3 ReqSt.queued)
    ∧ (reqOf 3 ReqSt.queued).fn = f0.val
    ∧ (reqOf 3 ReqSt.queued).tag = mbWord (slot mw [21, 3, 77]) (f0.val) (k3.val) 2
    ∧ (reqOf 3 ReqSt.queued).st = ReqSt.queued ∧ getItem (slot mw [21, 3, 77]) (reqOf 3 ReqSt.queued).job = none := by
  unfold mbTurn; decide +kernel
/-- Obligations.MailboxConfiguresServing, clause 7.2. -/
theorem witness_reqCancel : mbTurn (slot mw [21, 4, 77]) (f0.val) (k3.val) 21
    ∧ getReq (slot mw [21, 4, 77]) (mbWord (slot mw [21, 4, 77]) (f0.val) (k3.val) 1) = some (reqOf 4 ReqSt.generating)
    ∧ (reqOf 4 ReqSt.generating).fn = f0.val
    ∧ (reqOf 4 ReqSt.generating).tag = mbWord (slot mw [21, 4, 77]) (f0.val) (k3.val) 2
    ∧ ((reqOf 4 ReqSt.generating).st ≠ ReqSt.queued) := by
  unfold mbTurn; decide +kernel

end W09

namespace W10

/-! The register window. -/
/-- READY with both links up; port 0 holds the reins. -/
def wu : State :=
  let s := setF (setF (setF su5 fHifLinkState (pgHif 0) 2) fHifLinkState (pgHif 1) 2) fOwnReinClaimHolder pgOwn 0
  { s with ho := { s.ho with mse := [0, 1], vfs := [(0, 3)], linkDown := [] } }
def pg1 : Nat := pgPcc sp1 pc3
def x1 : PageAt := ⟨.pcc, 1, 3⟩
/-- The register of a block at an offset. -/
def rg (b : Blk) (lo : Nat) : RegAt := (regAt b lo).getD ⟨.blkCtrl, 0, []⟩
/-- Obligations.WritesTakeEffectByFieldType, clause 1.1. -/
theorem witness_write_gate : running su5 = true ∧ pageAt pg1 = some x1 ∧ (x1.blk ≠ Blk.own) ∧ (x1.blk ≠ Blk.irqp)
    ∧ pageCause su5 x1 = 0 ∧ 312 < 4096 ∧ 312 % 8 = 0 ∧ 1 < 2 ^ 64 ∧ writeGate su5 pg1 0 = some Rej.notHolder := by
  decide +kernel
/-- Obligations.WritesTakeEffectByFieldType, clause 1.1. -/
theorem witness_write_gate_busy : running r0 = true ∧ pageAt pg1 = some x1 ∧ (x1.blk ≠ Blk.own) ∧ (x1.blk ≠ Blk.irqp)
    ∧ pageCause r0 x1 = 0 ∧ 312 < 4096 ∧ 312 % 8 = 0 ∧ 1 < 2 ^ 64 ∧ writeGate r0 pg1 0 = some Rej.busy := by
  decide +kernel
/-- Obligations.WritesTakeEffectByFieldType, clause 1.2. -/
theorem witness_write_reserved : running wu = true ∧ pageAt pg1 = some x1 ∧ (x1.blk ≠ Blk.own) ∧ (x1.blk ≠ Blk.irqp)
    ∧ pageCause wu x1 = 0 ∧ 3840 < 4096 ∧ 3840 % 8 = 0 ∧ 1 < 2 ^ 64 ∧ writeGate wu pg1 0 = none
    ∧ regAt x1.blk 3840 = none := by
  decide +kernel
/-- A line is staged, so the ordered area is in use. -/
def stagedLine : State := putPcc wu 67 { getPcc wu 67 with staged := [⟨0, false, 0, 0, 0, 0, 0, .iadd32, 1, 0⟩] }
/-- Obligations.WritesTakeEffectByFieldType, clause 1.3.1. -/
theorem witness_write_quiet : running stagedLine = true ∧ pageAt pg1 = some x1 ∧ (x1.blk ≠ Blk.own)
    ∧ (x1.blk ≠ Blk.irqp) ∧ pageCause stagedLine x1 = 0 ∧ 296 < 4096 ∧ 296 % 8 = 0 ∧ 65536 < 2 ^ 64
    ∧ writeGate stagedLine pg1 0 = none ∧ regAt x1.blk 296 = some (rg Blk.pcc 296)
    ∧ quietFails stagedLine x1 pg1 (rg Blk.pcc 296) 65536 = some fPccOrdAreaSize := by
  decide +kernel
/-- Obligations.WritesTakeEffectByFieldType, clause 1.3.2. -/
theorem witness_write_range : running wu = true ∧ pageAt pg1 = some x1 ∧ (x1.blk ≠ Blk.own) ∧ (x1.blk ≠ Blk.irqp)
    ∧ pageCause wu x1 = 0 ∧ 296 < 4096 ∧ 296 % 8 = 0 ∧ 1025 * 65536 < 2 ^ 64 ∧ writeGate wu pg1 0 = none
    ∧ regAt x1.blk 296 = some (rg Blk.pcc 296) ∧ quietFails wu x1 pg1 (rg Blk.pcc 296) (1025 * 65536) = none
    ∧ windowRange wu x1 pg1 0 (rg Blk.pcc 296) (1025 * 65536) = some (Rej.range, 16) := by
  decide +kernel
/-- Obligations.WritesTakeEffectByFieldType, clause 1.3.3. -/
theorem witness_write_rwq : running wu = true ∧ pageAt pg1 = some x1 ∧ (x1.blk ≠ Blk.own) ∧ (x1.blk ≠ Blk.irqp)
    ∧ pageCause wu x1 = 0 ∧ 296 < 4096 ∧ 296 % 8 = 0 ∧ 2 ^ 20 + 77 < 2 ^ 64 ∧ writeGate wu pg1 0 = none
    ∧ regAt x1.blk 296 = some (rg Blk.pcc 296) ∧ quietFails wu x1 pg1 (rg Blk.pcc 296) (2 ^ 20 + 77) = none
    ∧ windowRange wu x1 pg1 0 (rg Blk.pcc 296) (2 ^ 20 + 77) = none ∧ 256 ≤ 296 ∧ (¬(rg Blk.pcc 296).reg ∈ writeActs) := by
  decide +kernel
def pgN : Nat := pgNumev sp1
def xN : PageAt := ⟨.numev, 1, 0⟩
/-- Obligations.WritesTakeEffectByFieldType, clause 1.3.3. -/
theorem witness_write_staged : running wu = true ∧ pageAt pg1 = some x1 ∧ (x1.blk ≠ Blk.own) ∧ (x1.blk ≠ Blk.irqp)
    ∧ pageCause wu x1 = 0 ∧ 528 < 4096 ∧ 528 % 8 = 0 ∧ 2 ^ 30 + 77 < 2 ^ 64 ∧ writeGate wu pg1 0 = none
    ∧ regAt x1.blk 528 = some (rg Blk.pcc 528) ∧ quietFails wu x1 pg1 (rg Blk.pcc 528) (2 ^ 30 + 77) = none
    ∧ windowRange wu x1 pg1 0 (rg Blk.pcc 528) (2 ^ 30 + 77) = none ∧ 256 ≤ 528 ∧ (¬(rg Blk.pcc 528).reg ∈ writeActs) := by
  decide +kernel
def erred : State := setF (setB wu fCqSlotErrValid (pgCq sp1 co2) true) fCqSlotErrCode (pgCq sp1 co2) 0x18
/-- Obligations.WritesTakeEffectByFieldType, clause 1.3.3. -/
theorem witness_write_w1c : running erred = true
    ∧ pageAt (pgCq sp1.val co2.val) = some { blk := Blk.cq, span := 1, idx := 2 : PageAt }
    ∧ ({ blk := Blk.cq, span := 1, idx := 2 : PageAt }.blk ≠ Blk.own)
    ∧ ({ blk := Blk.cq, span := 1, idx := 2 : PageAt }.blk ≠ Blk.irqp)
    ∧ pageCause erred { blk := Blk.cq, span := 1, idx := 2 : PageAt } = 0 ∧ 536 < 4096 ∧ 536 % 8 = 0 ∧ 2 ^ 11 < 2 ^ 64
    ∧ writeGate erred (pgCq sp1.val co2.val) 0 = none
    ∧ regAt { blk := Blk.cq, span := 1, idx := 2 : PageAt }.blk 536 = some (rg Blk.cq 536)
    ∧ quietFails erred { blk := Blk.cq, span := 1, idx := 2 : PageAt } (pgCq sp1.val co2.val) (rg Blk.cq 536) (2 ^ 11) = none
    ∧ windowRange erred { blk := Blk.cq, span := 1, idx := 2 : PageAt } (pgCq sp1.val co2.val) 0 (rg Blk.cq 536) (2 ^ 11) = none
    ∧ 256 ≤ 536 ∧ (¬(rg Blk.cq 536).reg ∈ writeActs) := by
  decide +kernel
/-- Obligations.WritesTakeEffectByFieldType, clause 2, alternative 1. -/
theorem witness_write_width : running wu = true ∧ ((4096 * pgPwr + 256) / 4096 ≠ pgOwn) ∧ (4 ≠ 8) ∧ 0 < 4 := by
  decide +kernel
/-- Obligations.WritesTakeEffectByFieldType, clause 2, alternative 2. -/
theorem witness_write_align : running wu = true ∧ ((4096 * pgPwr + 260) / 4096 ≠ pgOwn)
    ∧ ((4096 * pgPwr + 260) % 8 ≠ 0) ∧ 2 < 4 := by
  decide +kernel
def f0 : Fin 128 := 0
/-- Obligations.WritesTakeEffectByFieldType, clause 3.1. -/
theorem witness_fnWrite : running wu = true ∧ fnReach wu f0.val = true ∧ stage wu = 5 ∧ 320 < 8192 ∧ 320 % 8 = 0
    ∧ 4096 < 2 ^ 64 ∧ regAt Blk.fn 320 = some (rg Blk.fn 320)
    ∧ quietFails wu { blk := Blk.fn, span := 14, idx := f0.val : PageAt } (pgFn f0.val) (rg Blk.fn 320) 4096 = none
    ∧ fnRange wu (f0.val) (rg Blk.fn 320) 4096 = none ∧ 256 ≤ 320 ∧ (¬(rg Blk.fn 320).reg ∈ writeActs) := by
  decide +kernel
/-- Obligations.WritesTakeEffectByFieldType, clause 3.1. -/
theorem witness_fnWrite_tag : running wu = true ∧ fnReach wu f0.val = true ∧ stage wu = 5 ∧ 2048 < 8192
    ∧ 2048 % 8 = 0 ∧ 30 < 2 ^ 64 ∧ regAt Blk.fn 2048 = some (rg Blk.fn 2048)
    ∧ quietFails wu { blk := Blk.fn, span := 14, idx := f0.val : PageAt } (pgFn f0.val) (rg Blk.fn 2048) 30 = none
    ∧ fnRange wu (f0.val) (rg Blk.fn 2048) 30 = none ∧ 256 ≤ 2048 ∧ (¬(rg Blk.fn 2048).reg ∈ writeActs) := by
  decide +kernel
def vcmd : State := setF wu fFnMbCmdData (pgFn 0) 0x1E 0
/-- Obligations.WritesTakeEffectByFieldType, clause 3.2. -/
theorem witness_fnGo : running vcmd = true ∧ fnReach vcmd f0.val = true ∧ stage vcmd = 5 ∧ 2184 < 8192 ∧ 2184 % 8 = 0
    ∧ 65536 + 5 < 2 ^ 64 ∧ regAt Blk.fn 2184 = some (rg Blk.fn 2184)
    ∧ quietFails vcmd { blk := Blk.fn, span := 14, idx := f0.val : PageAt } (pgFn f0.val) (rg Blk.fn 2184) (65536 + 5) = none
    ∧ fnRange vcmd (f0.val) (rg Blk.fn 2184) (65536 + 5) = none ∧ (rg Blk.fn 2184).reg = Reg.fnMbGo
    ∧ bitAt (65536 + 5) 16 = true ∧ vcmd.ho.mb = [] ∧ vcmd.ho.late = []
    ∧ mbWellFormed vcmd (f0.val) (rg Blk.fn 2184).k = true := by
  decide +kernel
def stg : State := { wu with staged := [((.pccPart, pg1, 2), 77#64), ((.pccNbCfg, pg1, 0), 0x050003#64), ((.frameIdle, pgFrame, 0), 3#64)] }
/-- Obligations.StagedFieldsCommitTogether, clause 1.1. -/
theorem witness_commit : running stg = true ∧ pageAt pg1 = some x1 ∧ (x1.blk ≠ Blk.own) ∧ (x1.blk ≠ Blk.irqp)
    ∧ pageCause stg x1 = 0 ∧ writeGate stg pg1 0 = none ∧ hasStaged stg pg1 = true := by
  decide +kernel
/-- Obligations.StagedFieldsCommitTogether, clause 1.2. -/
theorem witness_commit_none : running wu = true ∧ pageAt pg1 = some x1 ∧ (x1.blk ≠ Blk.own) ∧ (x1.blk ≠ Blk.irqp)
    ∧ pageCause wu x1 = 0 ∧ writeGate wu pg1 0 = none ∧ hasStaged wu pg1 = false := by
  decide +kernel
/-- Obligations.StagedFieldsCommitTogether, clause 1.3. -/
theorem witness_discard : running stg = true ∧ pageAt pg1 = some x1 ∧ (x1.blk ≠ Blk.own) ∧ (x1.blk ≠ Blk.irqp)
    ∧ pageCause stg x1 = 0 ∧ writeGate stg pg1 0 = none := by
  decide +kernel
def pend : State := setB stg fBlkStatusCommitPend pg1 true
/-- Obligations.StagedFieldsCommitTogether, clause 2. -/
theorem witness_commitApply : running pend = true ∧ commitApplyReady pg1 pend = true := by
  decide +kernel
/-- Obligations.StagedFieldsCommitTogether, clause 3. -/
theorem witness_commitApply_not : running stg = true ∧ commitApplyReady pg1 stg = false := by
  decide +kernel
def i3 : State := { wu with pkg := { wu.pkg with boot := { wu.pkg.boot with vmgmt := true } }, ho := { wu.ho with i3cAddr := true } }
/-- Obligations.ManagementReachesTheWindow, clause 1.1. -/
theorem witness_i3cRead : i3cUp i3 = true ∧ 4096 * pgPwr + 256 < 2 ^ 32 ∧ 3 < 2 ^ 64 ∧ 5 = 5
    ∧ (4096 * pgPwr + 256) % 8 = 0 ∧ i3cReach i3 (4096 * pgPwr + 256) = true := by
  decide +kernel
/-- Obligations.ManagementReachesTheWindow, clause 1.2. -/
theorem witness_i3c_bad : i3cUp i3 = true ∧ 4096 * pgPwr + 256 < 2 ^ 32 ∧ 3 < 2 ^ 64 := by
  decide +kernel
/-- Obligations.ManagementReachesTheWindow, clause 1.3. -/
theorem witness_i3cWrite : i3cUp i3 = true ∧ 4096 * pgPwr + 256 < 2 ^ 32 ∧ 3 < 2 ^ 64
    ∧ i3cReach i3 (4096 * pgPwr + 256) = true := by
  decide +kernel
def noI3c : State := { i3 with ho := { i3.ho with i3cAddr := false } }
/-- Obligations.ManagementReachesTheWindow, clause 2. -/
theorem witness_i3c_down : i3cUp noI3c = false := by
  decide +kernel
def old3c : State := { i3 with tick := 2 ^ 30, ho := { i3.ho with i3cRes := some (0, 7, 5) } }
/-- Obligations.ManagementReachesTheWindow, clause 3. -/
theorem witness_i3cDiscard : old3c.pkg.boot.vmgmt = true ∧ i3cResultDiscardReady old3c = true := by
  decide +kernel
/-- Obligations.ManagementReachesTheWindow, clause 4. -/
theorem witness_i3cDiscard_not : i3cResultDiscardReady i3 = false := by
  decide +kernel

end W10

namespace W11

/-! Launches, streams, common commands and slots. -/
/-- Non-zero bytes of words at an address. -/
def cellsAt (base : Nat) (l : List Nat) : List Host.Cell :=
  ((wbytes l).zipIdx.filter (fun p => p.1 ≠ 0)).map (fun p => (base + p.2, p.1))
/-- A kernel header at 65536 for engines 0 and 1, a bad one at 65600, and a stream at 131072. -/
def code : List Host.Cell := tables ++ cellsAt 65536 [1 + 3 * 256, 131072, 131104, 0, 0, 0, 0, 0] ++ cellsAt 65600 [2]
  ++ cellsAt 131072 [0x05, 16, 0, 0, 1, 0, 0, 0]
def prog : State := { ptd with memo := { ptd.memo with mem := code } }
def lau (hdr : Bool) (kernel seedMask started : Nat) : Launch :=
  ⟨9, hdr, kernel, 6, seedMask, 3, [131072, 131104, 0, 0, 0], started, 0, .host 0 3 9, 21, 0, 0, 0⟩
def wit1 : Item := ⟨21, .host 0 3 9, false, 77, 1, [], 1, 0, 0, 0, 0, 0, [], [], [], 0, false, 0, 0, none⟩
def withIt (s : State) (l : List Item) : State := { s with ho := { s.ho with items := l } }
/-- Context 1 in the slot, with a core part. -/
def slotted (s : State) (p : CorePart) : State := putSlot s 72 { emptySlot with ctx := some 1, prio := 3, part := p, blocked := false }
def part0 (l : List Launch) : CorePart := { newPart with launches := l }
/-- A launch that waits for context 1, whose record is stored. -/
def dlv : Delivery := ⟨1, 2, 1, lau false 65536 0 0⟩
def ctxRec1 : CtxRec := ⟨0xFF, 0, 0, [], .store, [], [], []⟩
def waits : State := { prog with core := { prog.core with waiting := [dlv] }, cx := { prog.cx with recs := [((1, 1), ctxRec1)] } }
/-- Obligations.LaunchesReachTheirEngines, clause 1. -/
theorem witness_deliver : running waits = true ∧ coreAbsent waits sp1.val co2.val = false
    ∧ residentSlot waits (sp1.val) (co2.val) 1 = none ∧ nextDelivery waits (sp1.val) (co2.val) 1 = some dlv
    ∧ getRec waits (sp1.val) 1 = some ctxRec1 ∧ ctxRec1.tier = Tier.store
    ∧ (look ctxRec1.parts (co2.val) newPart).launches.length < 16 := by
  decide +kernel
def laMis : Launch := lau false 65537 0 0
def laOk : Launch := lau false 65536 0 0
def sMis : State := slotted prog (part0 [laMis])
def sOk : State := slotted prog (part0 [laOk])
/-- Obligations.LaunchesReachTheirEngines, clause 2.1. -/
theorem witness_headerMisaligned : running sMis = true ∧ coreAbsent sMis sp1.val co2.val = false
    ∧ residentSlot sMis (sp1.val) (co2.val) 1 = some sl0.val
    ∧ headerFree sMis (slotKey sp1.val co2.val sl0.val) = true
    ∧ unreadLaunch sMis (slotKey sp1.val co2.val sl0.val) = some laMis ∧ (laMis.kernel % 64 ≠ 0)
    ∧ getB sMis fCqSlotErrValid (pgCq sp1.val co2.val) sl0.val = false ∧ laMis.kernel < 2 ^ 64 := by
  decide +kernel
def hdrRd : RdRes × Option LineMemo × State := readVa sOk (fetchAgent sOk 72 0 eLaunchHdr 0x100 eLaunchHdr) none 65536 64
def bytesOf : RdRes → List Byte
  | .bytes b => b
  | _ => []
/-- Obligations.LaunchesReachTheirEngines, clause 2.2. -/
theorem witness_header : running sOk = true ∧ coreAbsent sOk sp1.val co2.val = false
    ∧ residentSlot sOk (sp1.val) (co2.val) 1 = some sl0.val ∧ headerFree sOk (slotKey sp1.val co2.val sl0.val) = true
    ∧ unreadLaunch sOk (slotKey sp1.val co2.val sl0.val) = some laOk ∧ laOk.kernel % 64 = 0
    ∧ readVa sOk (fetchAgent sOk (slotKey sp1.val co2.val sl0.val) 0 eLaunchHdr 256 eLaunchHdr) none laOk.kernel 64 = (RdRes.bytes (bytesOf hdrRd.fst), hdrRd.snd.fst, hdrRd.snd.snd)
    ∧ headerBad laOk.kernel (wordsOf 8 (bytesOf hdrRd.fst)) = false := by
  decide +kernel
def e1 : Fin 5 := 1
def e2 : Fin 5 := 2
def e0 : Fin 5 := 0
def sRd : State := slotted prog (part0 [lau true 65536 0 0])
/-- Obligations.LaunchesReachTheirEngines, clause 3. -/
theorem witness_startEngine : running sRd = true ∧ launchStartEngineReady sp1 co2 sl0 e1 sRd = true
    ∧ curLaunch (getSlot sRd (slotKey sp1.val co2.val sl0.val)).part e1.val = some (lau true 65536 0 0) := by
  decide +kernel
/-- Obligations.LaunchesReachTheirEngines, clause 3. -/
theorem witness_startEngine_clear : running sRd = true ∧ launchStartEngineReady sp1 co2 sl0 e2 sRd = true
    ∧ curLaunch (getSlot sRd (slotKey sp1.val co2.val sl0.val)).part e2.val = some (lau true 65536 0 0) := by
  decide +kernel
def sSd : State := slotted prog (part0 [lau true 65536 14 0])
/-- Obligations.SeededLaunchesStartTogether, clause 1. -/
theorem witness_startSeeded : running sSd = true ∧ launchStartSeededReady sp1 co2 sl0 sSd = true
    ∧ seededNext (getSlot sSd (slotKey sp1.val co2.val sl0.val)).part = some (lau true 65536 14 0) := by
  decide +kernel
/-- Obligations.SeededLaunchesStartTogether, clause 2. -/
theorem witness_startSeeded_busy : running
    (putSlot prog 72
      (let __src := emptySlot;
      { __src with ctx := some 1, part := partQ 3 [qc 0 0 0 0] })) =
  true
    ∧ 3 < 5
    ∧ queueIdle
    (putSlot prog 72
      (let __src := emptySlot;
      { __src with ctx := some 1, part := partQ 3 [qc 0 0 0 0] }))
    (slotKey sp1.val co2.val sl0.val) 3 =
  false := by
  decide +kernel
/-- Obligations.SeededLaunchesStartTogether, clause 3. -/
theorem witness_startSeeded_alone : running sSd = true
    ∧ curLaunch (getSlot sSd (slotKey sp1.val co2.val sl0.val)).part e1.val = some (lau true 65536 14 0)
    ∧ ((lau true 65536 14 0).seedMask / 2 ≠ 0) := by
  decide +kernel
def lEnd : Launch := { lau true 65536 0 31 with ended := 31 }
def it2 : Item := { wit1 with left := 2 }
/-- Obligations.LaunchesReachTheirEngines, clause 4. -/
theorem witness_complete : running (withIt (slotted prog (part0 [lEnd])) [wit1]) = true
    ∧ completeNext (withIt (slotted prog (part0 [lEnd])) [wit1]) (slotKey sp1.val co2.val sl0.val) = some lEnd
    ∧ (∀ (x y z : Nat), lEnd.src ≠ LaunchSrc.entry x y z)
    ∧ getItem (withIt (slotted prog (part0 [lEnd])) [wit1]) lEnd.item = some wit1 :=
  ⟨by decide +kernel, by decide +kernel, by simp [lEnd, lau], by decide +kernel⟩
/-- Obligations.LaunchesReachTheirEngines, clause 4. -/
theorem witness_complete_left : running (withIt (slotted prog (part0 [lEnd])) [it2]) = true
    ∧ completeNext (withIt (slotted prog (part0 [lEnd])) [it2]) (slotKey sp1.val co2.val sl0.val) = some lEnd
    ∧ (∀ (x y z : Nat), lEnd.src ≠ LaunchSrc.entry x y z)
    ∧ getItem (withIt (slotted prog (part0 [lEnd])) [it2]) lEnd.item = some it2 :=
  ⟨by decide +kernel, by decide +kernel, by simp [lEnd, lau], by decide +kernel⟩
/-! Streams. -/
def run0 (e : Nat) (q : Queue) : CorePart := partSetQueue (part0 [lau true 65536 0 31]) e q
def fq : Queue := { idleQueue with st := .run, pc := 131072, fetchPc := 131072, entry := 131072 }
def sFetch : State := slotted prog (run0 1 fq)
def pageOf : Tr → Page
  | .ok p => p
  | _ => ⟨0, 0, 0⟩
def fTr : Tr × State := translate sFetch 1 2 6 1 131072
def fLn : LineRd × State := lineAccess fTr.2 (fetchAgent fTr.2 72 1 eFetchProt eFetchPoison eUnsealedRead) (pageOf fTr.1) 131072
/-- Obligations.StreamsFetchDecodeResolveComplete, clause 1.1. -/
theorem witness_fetch : running sFetch = true ∧ fetchBlockReady sp1 co2 sl0 e1 sFetch = true
    ∧ translate sFetch (sp1.val) (co2.val) (5 + e1.val) (slotCtx sFetch (slotKey sp1.val co2.val sl0.val)) (getQ sFetch (slotKey sp1.val co2.val sl0.val) e1.val).fetchPc = (Tr.ok (pageOf fTr.fst), fTr.snd)
    ∧ permits (pageOf fTr.fst).pte Access.fetch = true
    ∧ lineAccess fTr.snd (fetchAgent fTr.snd (slotKey sp1.val co2.val sl0.val) (e1.val) eFetchProt eFetchPoison eUnsealedRead) (pageOf fTr.fst) (getQ sFetch (slotKey sp1.val co2.val sl0.val) e1.val).fetchPc = (fLn.fst, fLn.snd) := by
  decide +kernel
def fqBad : Queue := { fq with pc := 2 ^ 40, fetchPc := 2 ^ 40, entry := 2 ^ 40 }
def sFetchBad : State := slotted prog (run0 1 fqBad)
def fTrBad : Tr × State := translate sFetchBad 1 2 6 1 (2 ^ 40)
def causeOf : Tr → Nat × Nat
  | .fault c l => (c, l)
  | _ => (0, 0)
/-- Obligations.StreamsFetchDecodeResolveComplete, clause 1.3. -/
theorem witness_fetchFault : running sFetchBad = true ∧ fetchBlockReady sp1 co2 sl0 e1 sFetchBad = true
    ∧ translate sFetchBad (sp1.val) (co2.val) (5 + e1.val) (slotCtx sFetchBad (slotKey sp1.val co2.val sl0.val)) (getQ sFetchBad (slotKey sp1.val co2.val sl0.val) e1.val).fetchPc = (Tr.fault (causeOf fTrBad.fst).fst (causeOf fTrBad.fst).snd, fTrBad.snd) := by
  decide +kernel
/-- Tables whose first entry lets read but not fetch. -/
def noFetch : State := { sFetch with memo := { sFetch.memo with mem := [(4096, 3), (4097, 32), (8192, 5)] } }
def fTrN : Tr × State := translate noFetch 1 2 6 1 131072
/-- Obligations.StreamsFetchDecodeResolveComplete, clause 1.2. -/
theorem witness_fetchProt : running noFetch = true ∧ fetchBlockReady sp1 co2 sl0 e1 noFetch = true
    ∧ translate noFetch (sp1.val) (co2.val) (5 + e1.val) (slotCtx noFetch (slotKey sp1.val co2.val sl0.val)) (getQ noFetch (slotKey sp1.val co2.val sl0.val) e1.val).fetchPc = (Tr.ok (pageOf fTrN.fst), fTrN.snd)
    ∧ permits (pageOf fTrN.fst).pte Access.fetch = false := by
  decide +kernel
def fet : Fetched := ⟨131072, 5, 16, 0, 0, .ok⟩
def fetR : Fetched := ⟨131104, 0xFE, 0, 0, 0, .ok⟩
def la9 : Launch := lau true 65536 0 31
/-- Obligations.StreamsFetchDecodeResolveComplete, clause 2. -/
theorem witness_decode : running
    (slotted prog
      (run0 1
        (let __src := fq;
        { __src with buf := [fet, fetR] }))) =
  true
    ∧ commandDecodeReady sp1 co2 sl0 e1
    (slotted prog
      (run0 1
        (let __src := fq;
        { __src with buf := [fet, fetR] }))) =
  true
    ∧ (getQ
      (slotted prog
        (run0 1
          (let __src := fq;
          { __src with buf := [fet, fetR] })))
      (slotKey sp1.val co2.val sl0.val) e1.val).buf =
  [fet, fetR]
    ∧ curLaunch
    (getSlot
        (slotted prog
          (run0 1
            (let __src := fq;
            { __src with buf := [fet, fetR] })))
        (slotKey sp1.val co2.val sl0.val)).part
    e1.val =
  some la9 := by
  decide +kernel
/-- Obligations.StreamsFetchDecodeResolveComplete, clause 2. -/
theorem witness_decode_refused : running
    (slotted prog
      (run0 1
        (let __src := fq;
        { __src with buf := [fetR] }))) =
  true
    ∧ commandDecodeReady sp1 co2 sl0 e1
    (slotted prog
      (run0 1
        (let __src := fq;
        { __src with buf := [fetR] }))) =
  true
    ∧ (getQ
      (slotted prog
        (run0 1
          (let __src := fq;
          { __src with buf := [fetR] })))
      (slotKey sp1.val co2.val sl0.val) e1.val).buf =
  [fetR]
    ∧ curLaunch
    (getSlot
        (slotted prog
          (run0 1
            (let __src := fq;
            { __src with buf := [fetR] })))
        (slotKey sp1.val co2.val sl0.val)).part
    e1.val =
  some la9 := by
  decide +kernel
/-- A decoded command. -/
def qd (pc w0 w1 refusal : Nat) : QCmd := { qc w0 w1 0 0 with phase := .decoded, pc := pc, refusal := refusal, spec := 2 }
def c5 : QCmd := qd 131072 5 16 0
def cR : QCmd := qd 131072 0xFE 0 5
def cS : QCmd := qd 131072 (5 + 4096) 16 0
def withQ (s : State) (e : Nat) (l : List QCmd) : State := slotted s (run0 e { fq with cmds := l })
def halting : State := setF (withQ prog 1 [c5]) fCqSlotCtrlHalt (pgCq sp1 co2) 2 0
/-- Obligations.StreamsFetchDecodeResolveComplete, clause 3.1. -/
theorem witness_resolve_halt : running halting = true
    ∧ resolveNext halting (slotKey sp1.val co2.val sl0.val) e1.val = some c5
    ∧ bitAt (getF halting fCqSlotCtrlHalt (pgCq sp1.val co2.val) sl0.val) e1.val = true := by
  decide +kernel
/-- Obligations.StreamsFetchDecodeResolveComplete, clause 3.2. -/
theorem witness_resolve_refused : running (withQ prog 1 [cR, c5]) = true
    ∧ resolveNext (withQ prog 1 [cR, c5]) (slotKey sp1.val co2.val sl0.val) e1.val = some cR
    ∧ bitAt (getF (withQ prog 1 [cR, c5]) fCqSlotCtrlHalt (pgCq sp1.val co2.val) sl0.val) e1.val = false
    ∧ (cR.refusal ≠ 0) ∧ cR.refusal < 256 := by
  decide +kernel
/-- Obligations.StreamsFetchDecodeResolveComplete, clause 3.3. -/
theorem witness_resolve : running (withQ prog 1 [c5]) = true
    ∧ resolveNext (withQ prog 1 [c5]) (slotKey sp1.val co2.val sl0.val) e1.val = some c5
    ∧ bitAt (getF (withQ prog 1 [c5]) fCqSlotCtrlHalt (pgCq sp1.val co2.val) sl0.val) e1.val = false ∧ c5.refusal = 0
    ∧ cmdPred (getSlot (withQ prog 1 [c5]) (slotKey sp1.val co2.val sl0.val)).part (cmdWords c5) = true := by
  decide +kernel
/-- Obligations.StreamsFetchDecodeResolveComplete, clause 3.4. -/
theorem witness_resolve_skip : running (withQ prog 1 [cS]) = true
    ∧ resolveNext (withQ prog 1 [cS]) (slotKey sp1.val co2.val sl0.val) e1.val = some cS
    ∧ bitAt (getF (withQ prog 1 [cS]) fCqSlotCtrlHalt (pgCq sp1.val co2.val) sl0.val) e1.val = false ∧ cS.refusal = 0
    ∧ cmdPred (getSlot (withQ prog 1 [cS]) (slotKey sp1.val co2.val sl0.val)).part (cmdWords cS) = false
    ∧ nominalFromRecord (wOp (cmdWords cS)) = false := by
  decide +kernel
/-- A copy of 256 bytes into local memory, not yet resolved. -/
def cp (va : Nat) : QCmd := { qc 0x22 va 0 256 with phase := .decoded, pc := 131072 }
def sSp (va : Nat) : State := withQ prog 0 [{ c5 with pc := 131040 }, cp va]
/-- The number of the read after the first, and the bytes of the first transaction. -/
def spOf (s : State) : Nat × Int × Int := match specRead sp1 co2 sl0 1 0 s with | some r => r.2 | none => (0, 0, 0)
def spTr (va : Nat) : Tr × State := translate (sSp va) 1 2 0 1 va
/-- Obligations.StreamsFetchDecodeResolveComplete, clause 5.2. -/
theorem witness_spec_fault : running (sSp (2 ^ 40)) = true
    ∧ specRead sp1 co2 sl0 1 0 (sSp (2 ^ 40)) = some (cp (2 ^ 40), (spOf (sSp (2 ^ 40))).fst, (spOf (sSp (2 ^ 40))).snd.fst, (spOf (sSp (2 ^ 40))).snd.snd)
    ∧ 0 ≤ (spOf (sSp (2 ^ 40))).snd.fst ∧ (spOf (sSp (2 ^ 40))).snd.snd ≤ 2 ^ 64
    ∧ translate (sSp (2 ^ 40)) (sp1.val) (co2.val) 0 (slotCtx (sSp (2 ^ 40)) (slotKey sp1.val co2.val sl0.val)) (spOf (sSp (2 ^ 40))).snd.fst.toNat = (Tr.fault (causeOf (spTr (2 ^ 40)).fst).fst (causeOf (spTr (2 ^ 40)).fst).snd, (spTr (2 ^ 40)).snd) := by
  decide +kernel
/-- Obligations.StreamsFetchDecodeResolveComplete, clause 4. -/
theorem witness_resolve_held : atResolution (getQ (withQ prog 1 [qc 0 0 0 0, cR]) (slotKey sp1.val co2.val sl0.val) e1.val) = some cR
    ∧ (cR.refusal ≠ 0)
    ∧ atFront (getQ (withQ prog 1 [qc 0 0 0 0, cR]) (slotKey sp1.val co2.val sl0.val) e1.val) cR = false
    ∧ bitAt (getF (withQ prog 1 [qc 0 0 0 0, cR]) fCqSlotCtrlHalt (pgCq sp1.val co2.val) sl0.val) e1.val = false := by
  decide +kernel
/-- The same where the copy runs past the end of the address space. -/
def spEnd : State := sSp (2 ^ 64)
/-- Obligations.StreamsFetchDecodeResolveComplete, clause 5.1. -/
theorem witness_spec_range : running spEnd = true
    ∧ specRead sp1 co2 sl0 1 0 spEnd = some (cp (2 ^ 64), (spOf spEnd).fst, (spOf spEnd).snd.fst, (spOf spEnd).snd.snd)
    ∧ ((spOf spEnd).snd.fst < 0 ∨ 2 ^ 64 < (spOf spEnd).snd.snd) := by
  decide +kernel
/-- Tables whose first entry grants execution only. -/
def xOnly : State := { prog with memo := { prog.memo with mem := [(4096, 3), (4097, 32), (8192, 17)] } }
def sSpX : State := withQ xOnly 0 [{ c5 with pc := 131040 }, cp 65536]
def spTrX : Tr × State := translate sSpX 1 2 0 1 65536
/-- Obligations.StreamsFetchDecodeResolveComplete, clause 5.3.1, alternative 1. -/
theorem witness_spec_prot : running sSpX = true
    ∧ specRead sp1 co2 sl0 1 0 sSpX = some (cp 65536, (spOf sSpX).fst, (spOf sSpX).snd.fst, (spOf sSpX).snd.snd)
    ∧ 0 ≤ (spOf sSpX).snd.fst ∧ (spOf sSpX).snd.snd ≤ 2 ^ 64
    ∧ translate sSpX (sp1.val) (co2.val) 0 (slotCtx sSpX (slotKey sp1.val co2.val sl0.val)) (spOf sSpX).snd.fst.toNat = (Tr.ok (pageOf spTrX.fst), spTrX.snd)
    ∧ permits (pageOf spTrX.fst).pte Access.read = false := by
  decide +kernel
def spLn : Bool × State := specLines 72 131072 (pageOf (spTr 65536).1) (spOf (sSp 65536)).2.1.toNat ((spOf (sSp 65536)).2.2 - (spOf (sSp 65536)).2.1).toNat (spTr 65536).2
/-- Obligations.StreamsFetchDecodeResolveComplete, clause 5.3.2. -/
theorem witness_spec : running (sSp 65536) = true
    ∧ specRead sp1 co2 sl0 1 0 (sSp 65536) = some (cp 65536, (spOf (sSp 65536)).fst, (spOf (sSp 65536)).snd.fst, (spOf (sSp 65536)).snd.snd)
    ∧ 0 ≤ (spOf (sSp 65536)).snd.fst ∧ (spOf (sSp 65536)).snd.snd ≤ 2 ^ 64
    ∧ translate (sSp 65536) (sp1.val) (co2.val) 0 (slotCtx (sSp 65536) (slotKey sp1.val co2.val sl0.val)) (spOf (sSp 65536)).snd.fst.toNat = (Tr.ok (pageOf (spTr 65536).fst), (spTr 65536).snd)
    ∧ permits (pageOf (spTr 65536).fst).pte Access.read = true ∧ pteKind (pageOf (spTr 65536).fst).pte = 0
    ∧ specLines (slotKey sp1.val co2.val sl0.val) (cp 65536).pc (pageOf (spTr 65536).fst) (spOf (sSp 65536)).snd.fst.toNat ((spOf (sSp 65536)).snd.snd - (spOf (sSp 65536)).snd.fst).toNat (spTr 65536).snd = (spLn.fst, spLn.snd) := by
  decide +kernel
def cX : QCmd := { c5 with phase := .executed }
def cXs : QCmd := { qc (3 + 2 ^ 14 + 5 * 2 ^ 18) 7 0 0 with phase := .executed, evSat := 3, oobR := 2 }
/-- Obligations.StreamsFetchDecodeResolveComplete, clause 6. -/
theorem witness_cmdComplete : running (withQ prog 1 [cX, c5]) = true
    ∧ (getQ (withQ prog 1 [cX, c5]) (slotKey sp1.val co2.val sl0.val) e1.val).cmds = [cX, c5]
    ∧ cX.phase = Phase.executed ∧ cmdItem (withQ prog 1 [cX, c5]) (slotKey sp1.val co2.val sl0.val) cX = none := by
  decide +kernel
/-- Obligations.StreamsFetchDecodeResolveComplete, clause 6. -/
theorem witness_cmdComplete_signal : running (withQ prog 1 [cXs]) = true
    ∧ (getQ (withQ prog 1 [cXs]) (slotKey sp1.val co2.val sl0.val) e1.val).cmds = [cXs] ∧ cXs.phase = Phase.executed
    ∧ cmdItem (withQ prog 1 [cXs]) (slotKey sp1.val co2.val sl0.val) cXs = none := by
  decide +kernel
def sig (t a : Nat) : Signal := ⟨1, 1, 2, t, a, 2, 0, 1, 2, t % 5, 0, 0⟩
def sSig : State := let s := withQ prog 1 []
  { s with core := { s.core with signals := [sig 5 7, sig 6 8] } }
/-- Obligations.StreamsFetchDecodeResolveComplete, clause 7. -/
theorem witness_signal : running sSig = true ∧ signalArrivalReady 1 sSig = true
    ∧ sSig.core.signals[1]? = some (sig 6 8) ∧ coreAbsent sSig (sig 6 8).span (sig 6 8).core = false
    ∧ residentSlot sSig (sig 6 8).span (sig 6 8).core (sig 6 8).ctx = some 0 := by
  decide +kernel
/-! Common commands. -/
def one (w0 w1 w2 w3 : Nat) : State := withQ prog 1 [qc w0 w1 w2 w3]
/-- Obligations.CommonCommandsActOnTheirSlot, clause 1.1. -/
theorem witness_qNop : running (one 0 0 0 0) = true
    ∧ headOp (one 0 0 0 0) (slotKey sp1.val co2.val sl0.val) (e1.val) 0 = some (qc 0 0 0 0) := by
  decide +kernel
/-- Obligations.CommonCommandsActOnTheirSlot, clause 1.2. -/
theorem witness_tlSignal : running (one 3 9 0 0) = true
    ∧ headOp (one 3 9 0 0) (slotKey sp1.val co2.val sl0.val) (e1.val) 3 = some (qc 3 9 0 0) := by
  decide +kernel
/-- Obligations.CommonCommandsActOnTheirSlot, clause 1.3. -/
theorem witness_qEnd : running (one 1 0 0 0) = true
    ∧ headOp (one 1 0 0 0) (slotKey sp1.val co2.val sl0.val) (e1.val) 1 = some (qc 1 0 0 0)
    ∧ curLaunch (getSlot (one 1 0 0 0) (slotKey sp1.val co2.val sl0.val)).part e1.val = some la9 := by
  decide +kernel
/-- Obligations.CommonCommandsActOnTheirSlot, clause 1.5. -/
theorem witness_tlSet : running (one 4 (3 * 2 ^ 48 + 77) 0 0) = true
    ∧ headOp (one 4 (3 * 2 ^ 48 + 77) 0 0) (slotKey sp1.val co2.val sl0.val) (e1.val) 4 = some (qc 4 (3 * 2 ^ 48 + 77) 0 0)
    ∧ tallyBehind (one 4 (3 * 2 ^ 48 + 77) 0 0) (slotKey sp1.val co2.val sl0.val) (e1.val) (qc 4 (3 * 2 ^ 48 + 77) 0 0) (bits (qc 4 (3 * 2 ^ 48 + 77) 0 0).w1 48 7) = false := by
  decide +kernel
/-- An earlier command of the queue adds to tally 3 of the same slot, and its addition is still to land. -/
def behind (w0 w1 w2 : Nat) : State := let s := withQ prog 1 [qc w0 w1 w2 0]
  { s with core := { s.core with signals := [⟨1, 1, 2, 3, 9, 2, 0, 1, 2, 1, 0, 0⟩] } }
/-- Obligations.CommonCommandsActOnTheirSlot, clause 1.4. -/
theorem witness_tlSet_behind : running (behind 4 (3 * 2 ^ 48 + 77) 0) = true
    ∧ headOp (behind 4 (3 * 2 ^ 48 + 77) 0) (slotKey sp1.val co2.val sl0.val) (e1.val) 4 = some (qc 4 (3 * 2 ^ 48 + 77) 0 0)
    ∧ tallyBehind (behind 4 (3 * 2 ^ 48 + 77) 0) (slotKey sp1.val co2.val sl0.val) (e1.val) (qc 4 (3 * 2 ^ 48 + 77) 0 0) (bits (qc 4 (3 * 2 ^ 48 + 77) 0 0).w1 48 7) = true := by
  decide +kernel
/-- Obligations.CommonCommandsActOnTheirSlot, clause 2.2. -/
theorem witness_tlWait_behind : running (behind 2 (3 * 2 ^ 48 + 77) 1) = true
    ∧ headOp (behind 2 (3 * 2 ^ 48 + 77) 1) (slotKey sp1.val co2.val sl0.val) (e1.val) 2 = some (qc 2 (3 * 2 ^ 48 + 77) 1 0)
    ∧ tallyBehind (behind 2 (3 * 2 ^ 48 + 77) 1) (slotKey sp1.val co2.val sl0.val) (e1.val) (qc 2 (3 * 2 ^ 48 + 77) 1 0) (bits (qc 2 (3 * 2 ^ 48 + 77) 1 0).w1 48 7) = true := by
  decide +kernel
/-- Obligations.CommonCommandsActOnTheirSlot, clause 3.3. -/
theorem witness_prTally_behind : running (behind 8 (2 + 16 * 3) 0) = true
    ∧ headOp (behind 8 (2 + 16 * 3) 0) (slotKey sp1.val co2.val sl0.val) (e1.val) 8 = some (qc 8 (2 + 16 * 3) 0 0)
    ∧ tallyBehind (behind 8 (2 + 16 * 3) 0) (slotKey sp1.val co2.val sl0.val) (e1.val) (qc 8 (2 + 16 * 3) 0 0) (bits (qc 8 (2 + 16 * 3) 0 0).w1 4 7) = true := by
  decide +kernel
/-- Obligations.CommonCommandsActOnTheirSlot, clause 2.1.1. -/
theorem witness_tlWait_blocks : running (one 2 (3 * 2 ^ 48 + 77) 1 0) = true
    ∧ headOp (one 2 (3 * 2 ^ 48 + 77) 1 0) (slotKey sp1.val co2.val sl0.val) (e1.val) 2 = some (qc 2 (3 * 2 ^ 48 + 77) 1 0)
    ∧ ((getQ (one 2 (3 * 2 ^ 48 + 77) 1 0) (slotKey sp1.val co2.val sl0.val) e1.val).st ≠ QState.wait)
    ∧ tallyBehind (one 2 (3 * 2 ^ 48 + 77) 1 0) (slotKey sp1.val co2.val sl0.val) (e1.val) (qc 2 (3 * 2 ^ 48 + 77) 1 0) (bits (qc 2 (3 * 2 ^ 48 + 77) 1 0).w1 48 7) = false
    ∧ tallyReached (tallyOf (getSlot (one 2 (3 * 2 ^ 48 + 77) 1 0) (slotKey sp1.val co2.val sl0.val)).part (bits (qc 2 (3 * 2 ^ 48 + 77) 1 0).w1 48 7)) (bits (qc 2 (3 * 2 ^ 48 + 77) 1 0).w1 0 48) = false := by
  decide +kernel
/-- Obligations.CommonCommandsActOnTheirSlot, clause 2.1.2. -/
theorem witness_tlWait : running (one 2 (3 * 2 ^ 48) 1 0) = true
    ∧ headOp (one 2 (3 * 2 ^ 48) 1 0) (slotKey sp1.val co2.val sl0.val) (e1.val) 2 = some (qc 2 (3 * 2 ^ 48) 1 0)
    ∧ ((getQ (one 2 (3 * 2 ^ 48) 1 0) (slotKey sp1.val co2.val sl0.val) e1.val).st ≠ QState.wait)
    ∧ tallyBehind (one 2 (3 * 2 ^ 48) 1 0) (slotKey sp1.val co2.val sl0.val) (e1.val) (qc 2 (3 * 2 ^ 48) 1 0) (bits (qc 2 (3 * 2 ^ 48) 1 0).w1 48 7) = false
    ∧ tallyReached (tallyOf (getSlot (one 2 (3 * 2 ^ 48) 1 0) (slotKey sp1.val co2.val sl0.val)).part (bits (qc 2 (3 * 2 ^ 48) 1 0).w1 48 7)) (bits (qc 2 (3 * 2 ^ 48) 1 0).w1 0 48) = true := by
  decide +kernel
def waiting (t target tick : Nat) : State :=
  let s := slotted prog { (run0 1 { fq with st := .wait, cmds := [qc 2 (3 * 2 ^ 48 + 77) 1 0], waitTally := 3, waitTarget := target, waitLeft := 1, waitAt := 5 }) with tallies := [(3, t)] }
  { s with tick := tick }
/-- Obligations.CommonCommandsActOnTheirSlot, clause 2.3. -/
theorem witness_waitOver : running (waiting 77 77 6) = true
    ∧ headOp (waiting 77 77 6) (slotKey sp1.val co2.val sl0.val) (e1.val) 2 = some (qc 2 (3 * 2 ^ 48 + 77) 1 0)
    ∧ waitOver (waiting 77 77 6) (slotKey sp1.val co2.val sl0.val) e1.val = true := by
  decide +kernel
/-- Obligations.CommonCommandsActOnTheirSlot, clause 2.4. -/
theorem witness_waitTimeout : running (waiting 76 77 2000) = true
    ∧ headOp (waiting 76 77 2000) (slotKey sp1.val co2.val sl0.val) (e1.val) 2 = some (qc 2 (3 * 2 ^ 48 + 77) 1 0)
    ∧ waitExpired (waiting 76 77 2000) (slotKey sp1.val co2.val sl0.val) e1.val = true := by
  decide +kernel
/-- Obligations.CommonCommandsActOnTheirSlot, clause 3.1. -/
theorem witness_prSet : running (one 5 (16 + 7) 0 0) = true
    ∧ headOp (one 5 (16 + 7) 0 0) (slotKey sp1.val co2.val sl0.val) (e1.val) 5 = some (qc 5 (16 + 7) 0 0) := by
  decide +kernel
/-- Obligations.CommonCommandsActOnTheirSlot, clause 3.2. -/
theorem witness_prLogic : running (one 7 (2 + 4096) 0 0) = true
    ∧ headOp (one 7 (2 + 4096) 0 0) (slotKey sp1.val co2.val sl0.val) (e1.val) 7 = some (qc 7 (2 + 4096) 0 0) := by
  decide +kernel
/-- Obligations.CommonCommandsActOnTheirSlot, clause 3.4. -/
theorem witness_prTally : running (one 8 (2 + 16 * 3) 0 0) = true
    ∧ headOp (one 8 (2 + 16 * 3) 0 0) (slotKey sp1.val co2.val sl0.val) (e1.val) 8 = some (qc 8 (2 + 16 * 3) 0 0)
    ∧ tallyBehind (one 8 (2 + 16 * 3) 0 0) (slotKey sp1.val co2.val sl0.val) (e1.val) (qc 8 (2 + 16 * 3) 0 0) (bits (qc 8 (2 + 16 * 3) 0 0).w1 4 7) = false := by
  decide +kernel
def lmw : State := lmAt (one 6 (2 + 16 * 2 + 256 * 2) 64 12) 64 [2 ^ 64 - 1]
/-- Obligations.CommonCommandsActOnTheirSlot, clause 3.5.1. -/
theorem witness_prCmp : running lmw = true
    ∧ headOp lmw (slotKey sp1.val co2.val sl0.val) (e1.val) 6 = some (qc 6 (2 + 16 * 2 + 256 * 2) 64 12)
    ∧ (8 = if bits (qc 6 (2 + 16 * 2 + 256 * 2) 64 12).w1 8 3 = 2 ∨ bits (qc 6 (2 + 16 * 2 + 256 * 2) 64 12).w1 8 3 = 3 then 8 else 4)
    ∧ lmBad lmw (slotKey sp1.val co2.val sl0.val) (bits (qc 6 (2 + 16 * 2 + 256 * 2) 64 12).w2 0 23) 8 = false := by
  decide +kernel
def lmPois : State := { lmw with core := { lmw.core with lmPoison := [(lmCell lmw 72 64 / 8, 0)] } }
/-- Obligations.CommonCommandsActOnTheirSlot, clause 3.5.2. -/
theorem witness_prCmp_poison : running lmPois = true
    ∧ headOp lmPois (slotKey sp1.val co2.val sl0.val) (e1.val) 6 = some (qc 6 (2 + 16 * 2 + 256 * 2) 64 12)
    ∧ (8 = if bits (qc 6 (2 + 16 * 2 + 256 * 2) 64 12).w1 8 3 = 2 ∨ bits (qc 6 (2 + 16 * 2 + 256 * 2) 64 12).w1 8 3 = 3 then 8 else 4)
    ∧ lmBad lmPois (slotKey sp1.val co2.val sl0.val) (bits (qc 6 (2 + 16 * 2 + 256 * 2) 64 12).w2 0 23) 8 = true := by
  decide +kernel
/-! Slots. -/
/-- Obligations.SlotControlsAndCounts, clause 1.1. -/
theorem witness_slotHalt : running (one 0 0 0 0) = true ∧ coreAbsent (one 0 0 0 0) sp1.val co2.val = false
    ∧ accepted (one 0 0 0 0) (pgCq sp1.val co2.val) 4 := by
  unfold accepted; decide +kernel
def resuming : State := setF (slotted prog (run0 1 { fq with st := .haltReq, cmds := [c5] })) fCqSlotCtrlHalt (pgCq sp1 co2) 2 0
/-- Obligations.SlotControlsAndCounts, clause 1.2. -/
theorem witness_slotResume : running resuming = true ∧ coreAbsent resuming sp1.val co2.val = false
    ∧ accepted resuming (pgCq sp1.val co2.val) 4 := by
  unfold accepted; decide +kernel
/-- Obligations.SlotControlsAndCounts, clause 1.3. -/
theorem witness_slotAbort : running (withIt (one 0 0 0 0) [wit1]) = true
    ∧ coreAbsent (withIt (one 0 0 0 0) [wit1]) sp1.val co2.val = false
    ∧ accepted (withIt (one 0 0 0 0) [wit1]) (pgCq sp1.val co2.val) 4 := by
  unfold accepted; decide +kernel
def halted (it : Item) : State := withIt (setF (setF (setB (slotted prog { run0 1 { fq with st := .haltErr } with err := some (1, 0x18, 0) }) fCqSlotErrValid (pgCq sp1 co2) true) fCqSlotErrCode (pgCq sp1 co2) 0x18) fCqSlotErrEngine (pgCq sp1 co2) 1) [it]
/-- Obligations.SlotControlsAndCounts, clause 2. -/
theorem witness_errorHandling : running (halted wit1) = true
    ∧ queueErrorHandlingReady sp1 co2 sl0 (halted wit1) = true := by
  decide +kernel
def heldIt : Item := { wit1 with held := 1, journaled := true }
/-- Obligations.SlotControlsAndCounts, clause 2. -/
theorem witness_errorHandling_held : running (halted heldIt) = true
    ∧ queueErrorHandlingReady sp1 co2 sl0 (halted heldIt) = true := by
  decide +kernel
/-- Obligations.SlotControlsAndCounts, clause 3. -/
theorem witness_coreRetire : running (withIt (one 0 0 0 0) [wit1]) = true
    ∧ coreAbsent (withIt (one 0 0 0 0) [wit1]) sp1.val co2.val = false := by
  decide +kernel
def tly5 : Fin 128 := 5
/-- Obligations.SlotControlsAndCounts, clause 4.1. -/
theorem witness_tlySignal : running (one 0 0 0 0) = true ∧ coreAbsent (one 0 0 0 0) sp1.val co2.val = false
    ∧ accepted (one 0 0 0 0) (pgTly sp1.val co2.val) 4
    ∧ (getSlot (one 0 0 0 0) (slotKey (sp1.val) (co2.val) (getF (one 0 0 0 0) fTlySelSlot (pgTly sp1.val co2.val)))).ctx = some 1 := by
  unfold accepted; decide +kernel
/-- Obligations.SlotControlsAndCounts, clause 4.2. -/
theorem witness_tlySignal_none : running prog = true ∧ coreAbsent prog sp1.val co2.val = false
    ∧ accepted prog (pgTly sp1.val co2.val) 4
    ∧ (getSlot prog (slotKey (sp1.val) (co2.val) (getF prog fTlySelSlot (pgTly sp1.val co2.val)))).ctx = none := by
  unfold accepted; decide +kernel
/-- Obligations.SlotControlsAndCounts, clause 4.3. -/
theorem witness_scopeChk : running (one 0 0 0 0) = true ∧ coreAbsent (one 0 0 0 0) sp1.val co2.val = false
    ∧ accepted (one 0 0 0 0) (pgTly sp1.val co2.val) 4
    ∧ getB (one 0 0 0 0) fTlyScopeChkEnable (pgTly sp1.val co2.val) = false := by
  unfold accepted; decide +kernel
def counted : State := setF (setF { prog with cx := { prog.cx with
  numev := [((1, 1), ⟨1, 2, 3, 4, 5⟩), ((1, 2), ⟨1, 2, 3, 4, 5⟩), ((2, 1), ⟨1, 2, 3, 4, 5⟩)]
  dmaev := [((1, 1), ⟨1, 2, 3, 4, 5⟩), ((1, 2), ⟨1, 2, 3, 4, 5⟩), ((2, 1), ⟨1, 2, 3, 4, 5⟩)] } } fNumevCtxSelCtx (pgNumev sp1) 2) fDmaevCtxSelCtx (pgDmaev sp1) 1
/-- Obligations.SlotControlsAndCounts, clause 5.1.1. -/
theorem witness_numevClearAll : running counted = true ∧ accepted counted (pgNumev sp1.val) 4 := by
  unfold accepted; decide +kernel
/-- Obligations.SlotControlsAndCounts, clause 5.1.2. -/
theorem witness_numevClearCtx : running counted = true ∧ accepted counted (pgNumev sp1.val) 4 := by
  unfold accepted; decide +kernel
/-- Obligations.SlotControlsAndCounts, clause 5.2.1. -/
theorem witness_dmaevClearAll : running counted = true ∧ accepted counted (pgDmaev sp1.val) 4 := by
  unfold accepted; decide +kernel
/-- Obligations.SlotControlsAndCounts, clause 5.2.2. -/
theorem witness_dmaevClearCtx : running counted = true ∧ accepted counted (pgDmaev sp1.val) 4 := by
  unfold accepted; decide +kernel

end W11

namespace W12

/-! Matrices, vectors, data movement and the tile cache. -/
/-- A word of 32-bit halves. -/
def hw (a b : Nat) : Nat := a + 2 ^ 32 * b
def one32 : Nat := 0x3F800000
def two32 : Nat := 0x40000000
def f1 : Fin 5 := 1
/-- Operands of two rows each, 64 bytes apart: A at 64, B at 256, C at 512, D at 768. -/
def opw (s : State) : State :=
  lmAt (lmAt (lmAt (lmAt (lmAt (lmAt s 64 [hw one32 two32, hw one32 one32]) 128 [hw two32 two32, hw one32 two32])
    256 [hw one32 one32, hw two32 one32]) 320 [hw one32 two32, hw one32 one32]) 512 [hw one32 two32]) 576 [hw two32 two32]
def mxW1 : Nat := 1 + 2 ^ 17 * 4 + 2 ^ 34 * 8
def mxW2 : Nat := 12 + 2 ^ 17 + 2 ^ 26 + 2 ^ 35
def mxC0 : QCmd := qc 0x40 mxW1 mxW2 (1 + 2 ^ 7 + 2 ^ 14 * 3)
def sMx : State := opw (inSlot ptd 1 [mxC0])
/-- Obligations.MatrixMultiplyWritesD, clause 1. -/
theorem witness_mma : running sMx = true ∧ headOp sMx (slotKey sp1.val co2.val sl0.val) 1 64 = some mxC0
    ∧ mxTsCode sMx (slotKey sp1.val co2.val sl0.val) (cmdWords mxC0) = 0
    ∧ mxPoisoned sMx (slotKey sp1.val co2.val sl0.val) (cmdWords mxC0) = false := by
  decide +kernel
/-- INT8 operands and an INT32 result. -/
def mxCi : QCmd := qc (0x40 + 2 ^ 41) mxW1 mxW2 (1 + 2 ^ 7 + 2 ^ 14 * 3 + 2 ^ 28 * 8 + 2 ^ 32 * 8)
def sMxI : State := opw (inSlot ptd 1 [mxCi])
/-- Obligations.MatrixMultiplyWritesD, clause 1. -/
theorem witness_mma_int : running sMxI = true ∧ headOp sMxI (slotKey sp1.val co2.val sl0.val) 1 64 = some mxCi
    ∧ mxTsCode sMxI (slotKey sp1.val co2.val sl0.val) (cmdWords mxCi) = 0
    ∧ mxPoisoned sMxI (slotKey sp1.val co2.val sl0.val) (cmdWords mxCi) = false := by
  decide +kernel
def badLm (s : State) : State := { s with core := { s.core with lmPoison := [(lmCell s 72 64 / 8, 0)] } }
def sMxP : State := badLm sMx
/-- Obligations.MatrixMultiplyWritesD, clause 2. -/
theorem witness_mma_poison : running sMxP = true ∧ headOp sMxP (slotKey sp1.val co2.val sl0.val) 1 64 = some mxC0
    ∧ mxTsCode sMxP (slotKey sp1.val co2.val sl0.val) (cmdWords mxC0) = 0
    ∧ mxPoisoned sMxP (slotKey sp1.val co2.val sl0.val) (cmdWords mxC0) = true := by
  decide +kernel
/-- An NS16 operand A whose tensor scale is 0. -/
def mxCs : QCmd := qc 0x40 mxW1 mxW2 (1 + 2 ^ 7 + 2 ^ 14 * 3 + 2 ^ 28 * 7 + 2 ^ 32 * 7 + 2 ^ 40 * 2)
def sMxS : State := inSlot ptd 1 [mxCs]
/-- Obligations.MatrixMultiplyWritesD, clause 3. -/
theorem witness_mma_scale : running sMxS = true ∧ headOp sMxS (slotKey sp1.val co2.val sl0.val) 1 64 = some mxCs
    ∧ (mxTsCode sMxS (slotKey sp1.val co2.val sl0.val) (cmdWords mxCs) ≠ 0) := by
  decide +kernel
/-- Obligations.MatrixMultiplyWritesD, clause 4, alternative 1. -/
theorem witness_mma_badScale : running sMxS = true ∧ headOp sMxS (slotKey sp1.val co2.val sl0.val) 1 64 = some mxCs
    ∧ mxA (cmdWords mxCs) = mxA (cmdWords mxCs) ∧ (mxA (cmdWords mxCs)).scm = 2
    ∧ lmBad sMxS (slotKey sp1.val co2.val sl0.val) (matTs (mxA (cmdWords mxCs))) 4 = false
    ∧ tscaleOk (matTscale sMxS (slotKey sp1.val co2.val sl0.val) (mxA (cmdWords mxCs))) = false := by
  decide +kernel
/-! Vectors: 2 rows of 4 columns. -/
def vxW1 : Nat := 1 + 2 ^ 17 * 4 + 2 ^ 34 * 12
def vxW2 : Nat := 4 + 2 ^ 16 * 2 + 2 ^ 28 + 2 ^ 37 + 2 ^ 46
def vxC (op : Nat) : QCmd := qc op vxW1 vxW2 0
def sVx (op : Nat) : State := opw (inSlot ptd 2 [vxC op])
/-- Obligations.VectorCommandsWriteD, clause 1. -/
theorem witness_vxAdd : running (sVx 96) = true
    ∧ (Instr.vxAdd sp1 co2 sl0, 96, vxBinary fun x => numAdd) ∈ vxGives sp1 co2 sl0
    ∧ headOp (sVx 96) (slotKey sp1.val co2.val sl0.val) 2 96 = some (vxC 96)
    ∧ vxTsCode (sVx 96) (slotKey sp1.val co2.val sl0.val) (cmdWords (vxC 96)) = 0
    ∧ vxPoisoned (sVx 96) (slotKey sp1.val co2.val sl0.val) (cmdWords (vxC 96)) = false :=
  ⟨by decide +kernel, by simp [vxGives], by decide +kernel, by decide +kernel, by decide +kernel⟩
/-- Obligations.VectorCommandsWriteD, clause 1. -/
theorem witness_vxCvt : running (sVx 103) = true
    ∧ (Instr.vxCvt sp1 co2 sl0, 103, vxUnary fun x a => a) ∈ vxGives sp1 co2 sl0
    ∧ headOp (sVx 103) (slotKey sp1.val co2.val sl0.val) 2 103 = some (vxC 103)
    ∧ vxTsCode (sVx 103) (slotKey sp1.val co2.val sl0.val) (cmdWords (vxC 103)) = 0
    ∧ vxPoisoned (sVx 103) (slotKey sp1.val co2.val sl0.val) (cmdWords (vxC 103)) = false :=
  ⟨by decide +kernel, by simp [vxGives], by decide +kernel, by decide +kernel, by decide +kernel⟩
/-- Obligations.VectorCommandsWriteD, clause 1. -/
theorem witness_vxExp2 : running (sVx 105) = true
    ∧ (Instr.vxExp2 sp1 co2 sl0, 105, vxUnary fun x => vxExp2) ∈ vxGives sp1 co2 sl0
    ∧ headOp (sVx 105) (slotKey sp1.val co2.val sl0.val) 2 105 = some (vxC 105)
    ∧ vxTsCode (sVx 105) (slotKey sp1.val co2.val sl0.val) (cmdWords (vxC 105)) = 0
    ∧ vxPoisoned (sVx 105) (slotKey sp1.val co2.val sl0.val) (cmdWords (vxC 105)) = false :=
  ⟨by decide +kernel, by simp [vxGives], by decide +kernel, by decide +kernel, by decide +kernel⟩
/-- Transposition: D has four rows. -/
def vxTrC : QCmd := qc 0x71 (1 + 2 ^ 34 * 12) (4 + 2 ^ 16 * 2 + 2 ^ 28 + 2 ^ 46) 0
def sVxTr : State := opw (inSlot ptd 2 [vxTrC])
/-- Obligations.VectorCommandsWriteD, clause 2.1. -/
theorem witness_vxTr : running sVxTr = true ∧ vxTsCode sVxTr (slotKey sp1.val co2.val sl0.val) (cmdWords vxTrC) = 0
    ∧ vxPoisoned sVxTr (slotKey sp1.val co2.val sl0.val) (cmdWords vxTrC) = false
    ∧ headOp sVxTr (slotKey sp1.val co2.val sl0.val) 2 113 = some vxTrC := by
  decide +kernel
/-- Obligations.VectorCommandsWriteD, clause 2.2. -/
theorem witness_vxIadd : running (sVx 121) = true
    ∧ vxTsCode (sVx 121) (slotKey sp1.val co2.val sl0.val) (cmdWords (vxC 121)) = 0
    ∧ vxPoisoned (sVx 121) (slotKey sp1.val co2.val sl0.val) (cmdWords (vxC 121)) = false
    ∧ headOp (sVx 121) (slotKey sp1.val co2.val sl0.val) 2 121 = some (vxC 121) := by
  decide +kernel
def sVxP : State := badLm (sVx 0x60)
/-- Obligations.VectorCommandsWriteD, clause 3.1. -/
theorem witness_vx_poison : running sVxP = true
    ∧ (Instr.vxAdd sp1 co2 sl0, 96) ∈ List.map (fun x => (x.fst, x.snd.fst)) (vxGives sp1 co2 sl0) ++ [(Instr.vxTr sp1 co2 sl0, 113),
      (Instr.vxIadd sp1 co2 sl0, 121)]
    ∧ headOp sVxP (slotKey sp1.val co2.val sl0.val) 2 96 = some (vxC 96)
    ∧ vxTsCode sVxP (slotKey sp1.val co2.val sl0.val) (cmdWords (vxC 96)) = 0
    ∧ vxPoisoned sVxP (slotKey sp1.val co2.val sl0.val) (cmdWords (vxC 96)) = true := by
  decide +kernel
def vxCs : QCmd := qc 0x67 vxW1 vxW2 (2 ^ 32 * 7 + 2 ^ 44 * 2)
def sVxS : State := inSlot ptd 2 [vxCs]
/-- Obligations.VectorCommandsWriteD, clause 3.2. -/
theorem witness_vx_scale : running sVxS = true
    ∧ (Instr.vxCvt sp1 co2 sl0, 103) ∈ List.map (fun x => (x.fst, x.snd.fst)) (vxGives sp1 co2 sl0) ++ [(Instr.vxTr sp1 co2 sl0, 113),
      (Instr.vxIadd sp1 co2 sl0, 121)]
    ∧ headOp sVxS (slotKey sp1.val co2.val sl0.val) 2 103 = some vxCs
    ∧ (vxTsCode sVxS (slotKey sp1.val co2.val sl0.val) (cmdWords vxCs) ≠ 0) := by
  decide +kernel
/-- Obligations.VectorCommandsWriteD, clause 3.3, alternative 1. -/
theorem witness_vx_badScale : running sVxS = true
    ∧ (Instr.vxCvt sp1 co2 sl0, 103) ∈ List.map (fun x => (x.fst, x.snd.fst)) (vxGives sp1 co2 sl0) ++ [(Instr.vxTr sp1 co2 sl0, 113),
      (Instr.vxIadd sp1 co2 sl0, 121)]
    ∧ headOp sVxS (slotKey sp1.val co2.val sl0.val) 2 103 = some vxCs
    ∧ (vxA (cmdWords vxCs) = vxA (cmdWords vxCs) ∧ vxHasA 103 = true) ∧ (vxA (cmdWords vxCs)).scm = 2
    ∧ lmBad sVxS (slotKey sp1.val co2.val sl0.val) (matTs (vxA (cmdWords vxCs))) 4 = false
    ∧ tscaleOk (matTscale sVxS (slotKey sp1.val co2.val sl0.val) (vxA (cmdWords vxCs))) = false := by
  decide +kernel
/-! Data movement. -/
def cellsAt (base : Nat) (l : List Nat) : List Host.Cell :=
  ((wbytes l).zipIdx.filter (fun p => p.1 ≠ 0)).map (fun p => (base + p.2, p.1))
/-- A descriptor of FP32 elements in the second GiB, `n` of them. -/
def dsc (base n : Nat) : List Nat := [base, 0, 1 + 2 ^ 14, 0, hw n 1, hw 1 1, hw 1 1, 1, 0, 0, 0, 0, 0, 0, 0, 0]
def dataVa : Nat := 2 ^ 30 + 65536
/-- The package with descriptors at 65536 (good), 65664 (no form)
and 65792 (unmapped data), and data in span 1's memory. -/
def pmem : State := { ptd with memo := { ptd.memo with
  mem := tables ++ cellsAt 65536 (dsc dataVa 1) ++ cellsAt 65664 [0, 0, 2] ++ cellsAt 65792 (dsc (2 ^ 40) 1)
    ++ cellsAt (cellOf ptd false (2 ^ 37 + 65536)) [hw two32 one32] } }
def ldC (op va : Nat) : QCmd := qc op va (1 + 2 ^ 17) 0
def sLd (e op va : Nat) : State := lmAt (inSlot pmem e [ldC op va]) 64 [one32]
def jobOf (x : Setup) : Job := match x with
  | .ok j => j
  | .stop _ => ⟨0, 0, ⟨0, 0, 0, 0⟩, noDesc, ⟨[], []⟩, ⟨0, 0, 0, 0, false, .read, 0, 0, 0, 0⟩⟩
def stopOf (x : Setup) : Stop := match x with
  | .ok _ => .code 0 0
  | .stop y => y
def setOf (e op va : Nat) : Setup × State := setup (sLd e op va) 72 e (cmdWords (ldC op va))
def walkOf (e op va : Nat) (walk : Job → QCmd → Mv → Nat → Nat × Mv) : Nat × Mv :=
  walk (jobOf (setOf e op va).1) (ldC op va) (mvStart (setOf e op va).2 noRestart) 0
/-- Obligations.LoadsAndStoresWalkTheirBoxes, clause 1.1. -/
theorem witness_ldT : running (sLd 0 32 65536) = true
    ∧ (Instr.ldT sp1 co2 sl0, 0, 32, loadWalk) ∈ [(Instr.ldT sp1 co2 sl0, 0, 32, loadWalk),
      (Instr.ldG sp1 co2 sl0, 0, 33, loadWalk), (Instr.stT sp1 co2 sl0, 3, 128, storeWalk),
      (Instr.stS sp1 co2 sl0, 3, 129, storeWalk), (Instr.stRed sp1 co2 sl0, 3, 130, redWalk),
      (Instr.stSred sp1 co2 sl0, 3, 131, redWalk)]
    ∧ headOp (sLd 0 32 65536) (slotKey sp1.val co2.val sl0.val) 0 32 = some (ldC 32 65536)
    ∧ setup (sLd 0 32 65536) (slotKey sp1.val co2.val sl0.val) 0 (cmdWords (ldC 32 65536)) = (Setup.ok (jobOf (setOf 0 32 65536).fst), (setOf 0 32 65536).snd)
    ∧ loadWalk (jobOf (setOf 0 32 65536).fst) (ldC 32 65536) (mvStart (setOf 0 32 65536).snd (cmdRestart (getQ (sLd 0 32 65536) (slotKey sp1.val co2.val sl0.val) 0) (ldC 32 65536))) (posOf (jobOf (setOf 0 32 65536).fst).b (cmdRestart (getQ (sLd 0 32 65536) (slotKey sp1.val co2.val sl0.val) 0) (ldC 32 65536)).iter) = ((walkOf 0 32 65536 loadWalk).fst, (walkOf 0 32 65536 loadWalk).snd)
    ∧ (walkOf 0 32 65536 loadWalk).snd.stop = none :=
  ⟨by decide +kernel, by simp, by decide +kernel, by decide +kernel, by decide +kernel, by decide +kernel⟩
/-- Obligations.LoadsAndStoresWalkTheirBoxes, clause 1.1. -/
theorem witness_stT : running (sLd 3 128 65536) = true
    ∧ (Instr.stT sp1 co2 sl0, 3, 128, storeWalk) ∈ [(Instr.ldT sp1 co2 sl0, 0, 32, loadWalk),
      (Instr.ldG sp1 co2 sl0, 0, 33, loadWalk), (Instr.stT sp1 co2 sl0, 3, 128, storeWalk),
      (Instr.stS sp1 co2 sl0, 3, 129, storeWalk), (Instr.stRed sp1 co2 sl0, 3, 130, redWalk),
      (Instr.stSred sp1 co2 sl0, 3, 131, redWalk)]
    ∧ headOp (sLd 3 128 65536) (slotKey sp1.val co2.val sl0.val) 3 128 = some (ldC 128 65536)
    ∧ setup (sLd 3 128 65536) (slotKey sp1.val co2.val sl0.val) 3 (cmdWords (ldC 128 65536)) = (Setup.ok (jobOf (setOf 3 128 65536).fst), (setOf 3 128 65536).snd)
    ∧ storeWalk (jobOf (setOf 3 128 65536).fst) (ldC 128 65536) (mvStart (setOf 3 128 65536).snd (cmdRestart (getQ (sLd 3 128 65536) (slotKey sp1.val co2.val sl0.val) 3) (ldC 128 65536))) (posOf (jobOf (setOf 3 128 65536).fst).b (cmdRestart (getQ (sLd 3 128 65536) (slotKey sp1.val co2.val sl0.val) 3) (ldC 128 65536)).iter) = ((walkOf 3 128 65536 storeWalk).fst, (walkOf 3 128 65536 storeWalk).snd)
    ∧ (walkOf 3 128 65536 storeWalk).snd.stop = none :=
  ⟨by decide +kernel, by simp, by decide +kernel, by decide +kernel, by decide +kernel, by decide +kernel⟩
/-- Obligations.LoadsAndStoresWalkTheirBoxes, clause 1.1. -/
theorem witness_stRed : running (sLd 3 130 65536) = true
    ∧ (Instr.stRed sp1 co2 sl0, 3, 130, redWalk) ∈ [(Instr.ldT sp1 co2 sl0, 0, 32, loadWalk),
      (Instr.ldG sp1 co2 sl0, 0, 33, loadWalk), (Instr.stT sp1 co2 sl0, 3, 128, storeWalk),
      (Instr.stS sp1 co2 sl0, 3, 129, storeWalk), (Instr.stRed sp1 co2 sl0, 3, 130, redWalk),
      (Instr.stSred sp1 co2 sl0, 3, 131, redWalk)]
    ∧ headOp (sLd 3 130 65536) (slotKey sp1.val co2.val sl0.val) 3 130 = some (ldC 130 65536)
    ∧ setup (sLd 3 130 65536) (slotKey sp1.val co2.val sl0.val) 3 (cmdWords (ldC 130 65536)) = (Setup.ok (jobOf (setOf 3 130 65536).fst), (setOf 3 130 65536).snd)
    ∧ redWalk (jobOf (setOf 3 130 65536).fst) (ldC 130 65536) (mvStart (setOf 3 130 65536).snd (cmdRestart (getQ (sLd 3 130 65536) (slotKey sp1.val co2.val sl0.val) 3) (ldC 130 65536))) (posOf (jobOf (setOf 3 130 65536).fst).b (cmdRestart (getQ (sLd 3 130 65536) (slotKey sp1.val co2.val sl0.val) 3) (ldC 130 65536)).iter) = ((walkOf 3 130 65536 redWalk).fst, (walkOf 3 130 65536 redWalk).snd)
    ∧ (walkOf 3 130 65536 redWalk).snd.stop = none :=
  ⟨by decide +kernel, by simp, by decide +kernel, by decide +kernel, by decide +kernel, by decide +kernel⟩
def faultOf (x : Option Stop) : Nat × Nat × Nat × Access := match x with
  | some (.fault c l va acc) => (c, l, va, acc)
  | _ => (0, 0, 0, .read)
def ldFault : Nat × Nat × Nat × Access := faultOf (walkOf 0 0x20 65792 loadWalk).2.stop
/-- Obligations.LoadsAndStoresWalkTheirBoxes, clause 1.3. -/
theorem witness_ldT_fault : running (sLd 0 32 65792) = true
    ∧ (Instr.ldT sp1 co2 sl0, 0, 32, loadWalk) ∈ [(Instr.ldT sp1 co2 sl0, 0, 32, loadWalk),
      (Instr.ldG sp1 co2 sl0, 0, 33, loadWalk), (Instr.stT sp1 co2 sl0, 3, 128, storeWalk),
      (Instr.stS sp1 co2 sl0, 3, 129, storeWalk), (Instr.stRed sp1 co2 sl0, 3, 130, redWalk),
      (Instr.stSred sp1 co2 sl0, 3, 131, redWalk)]
    ∧ headOp (sLd 0 32 65792) (slotKey sp1.val co2.val sl0.val) 0 32 = some (ldC 32 65792)
    ∧ setup (sLd 0 32 65792) (slotKey sp1.val co2.val sl0.val) 0 (cmdWords (ldC 32 65792)) = (Setup.ok (jobOf (setOf 0 32 65792).fst), (setOf 0 32 65792).snd)
    ∧ loadWalk (jobOf (setOf 0 32 65792).fst) (ldC 32 65792) (mvStart (setOf 0 32 65792).snd (cmdRestart (getQ (sLd 0 32 65792) (slotKey sp1.val co2.val sl0.val) 0) (ldC 32 65792))) (posOf (jobOf (setOf 0 32 65792).fst).b (cmdRestart (getQ (sLd 0 32 65792) (slotKey sp1.val co2.val sl0.val) 0) (ldC 32 65792)).iter) = ((walkOf 0 32 65792 loadWalk).fst, (walkOf 0 32 65792 loadWalk).snd)
    ∧ (walkOf 0 32 65792 loadWalk).snd.stop = some (Stop.fault ldFault.fst ldFault.snd.fst ldFault.snd.snd.fst ldFault.snd.snd.snd) :=
  ⟨by decide +kernel, by simp, by decide +kernel, by decide +kernel, by decide +kernel, by decide +kernel⟩
/-- The local element of the store is poisoned. -/
def sStP : State := badLm (sLd 3 0x80 65536)
def setP : Setup × State := setup sStP 72 3 (cmdWords (ldC 0x80 65536))
def walkP : Nat × Mv := storeWalk (jobOf setP.1) (ldC 0x80 65536) (mvStart setP.2 noRestart) 0
def codeOf (x : Option Stop) : Nat × Nat := match x with
  | some (.code k va) => (k, va)
  | _ => (0, 0)
def stCode : Nat × Nat := codeOf walkP.2.stop
/-- Obligations.LoadsAndStoresWalkTheirBoxes, clause 1.2. -/
theorem witness_stT_code : running sStP = true
    ∧ (Instr.stT sp1 co2 sl0, 3, 128, storeWalk) ∈ [(Instr.ldT sp1 co2 sl0, 0, 32, loadWalk),
      (Instr.ldG sp1 co2 sl0, 0, 33, loadWalk), (Instr.stT sp1 co2 sl0, 3, 128, storeWalk),
      (Instr.stS sp1 co2 sl0, 3, 129, storeWalk), (Instr.stRed sp1 co2 sl0, 3, 130, redWalk),
      (Instr.stSred sp1 co2 sl0, 3, 131, redWalk)]
    ∧ headOp sStP (slotKey sp1.val co2.val sl0.val) 3 128 = some (ldC 128 65536)
    ∧ setup sStP (slotKey sp1.val co2.val sl0.val) 3 (cmdWords (ldC 128 65536)) = (Setup.ok (jobOf setP.fst), setP.snd)
    ∧ storeWalk (jobOf setP.fst) (ldC 128 65536) (mvStart setP.snd (cmdRestart (getQ sStP (slotKey sp1.val co2.val sl0.val) 3) (ldC 128 65536))) (posOf (jobOf setP.fst).b (cmdRestart (getQ sStP (slotKey sp1.val co2.val sl0.val) 3) (ldC 128 65536)).iter) = (walkP.fst, walkP.snd)
    ∧ walkP.snd.stop = some (Stop.code stCode.fst stCode.snd) :=
  ⟨by decide +kernel, by simp, by decide +kernel, by decide +kernel, by decide +kernel, by decide +kernel⟩
def badSet : Stop := stopOf (setOf 0 0x20 65664).1
/-- Obligations.LoadsAndStoresWalkTheirBoxes, clause 2.1. -/
theorem witness_ldT_desc : running (sLd 0 32 65664) = true
    ∧ (Instr.ldT sp1 co2 sl0, 0, 32) ∈ [(Instr.ldT sp1 co2 sl0, 0, 32), (Instr.ldG sp1 co2 sl0, 0, 33),
      (Instr.stT sp1 co2 sl0, 3, 128), (Instr.stS sp1 co2 sl0, 3, 129), (Instr.stRed sp1 co2 sl0, 3, 130),
      (Instr.stSred sp1 co2 sl0, 3, 131)]
    ∧ headOp (sLd 0 32 65664) (slotKey sp1.val co2.val sl0.val) 0 32 = some (ldC 32 65664)
    ∧ setup (sLd 0 32 65664) (slotKey sp1.val co2.val sl0.val) 0 (cmdWords (ldC 32 65664)) = (Setup.stop badSet, (setOf 0 32 65664).snd)
    ∧ badSet = Stop.code (codeOf (some badSet)).fst (codeOf (some badSet)).snd ∧ (codeOf (some badSet)).fst < 256 := by
  decide +kernel
def noSet : Stop := stopOf (setOf 0 0x20 (2 ^ 40)).1
/-- Obligations.LoadsAndStoresWalkTheirBoxes, clause 2.2. -/
theorem witness_ldT_descFault : running (sLd 0 32 (2 ^ 40)) = true
    ∧ (Instr.ldT sp1 co2 sl0, 0, 32) ∈ [(Instr.ldT sp1 co2 sl0, 0, 32), (Instr.ldG sp1 co2 sl0, 0, 33),
      (Instr.stT sp1 co2 sl0, 3, 128), (Instr.stS sp1 co2 sl0, 3, 129), (Instr.stRed sp1 co2 sl0, 3, 130),
      (Instr.stSred sp1 co2 sl0, 3, 131)]
    ∧ headOp (sLd 0 32 (2 ^ 40)) (slotKey sp1.val co2.val sl0.val) 0 32 = some (ldC 32 (2 ^ 40))
    ∧ setup (sLd 0 32 (2 ^ 40)) (slotKey sp1.val co2.val sl0.val) 0 (cmdWords (ldC 32 (2 ^ 40))) = (Setup.stop noSet, (setOf 0 32 (2 ^ 40)).snd)
    ∧ noSet = Stop.fault (faultOf (some noSet)).fst (faultOf (some noSet)).snd.fst (faultOf (some noSet)).snd.snd.fst (faultOf (some noSet)).snd.snd.snd := by
  decide +kernel
/-- Copies of four bytes, in and out. -/
def cpC (op n : Nat) : QCmd := qc op dataVa 128 n
def sCp (e op n : Nat) : State := lmAt (inSlot pmem e [cpC op n]) 128 [two32]
def cpJob (e op n : Nat) : Job := ⟨72, e, cmdWords (cpC op n), noDesc, ⟨[], []⟩, moveAgent (sCp e op n) 72 (cmdWords (cpC op n))⟩
def ldbWalk : Nat × Mv := storeGo (byOne (ldbPos (cpJob 0 0x22 4))) 1 1 (mvStart (sCp 0 0x22 4) noRestart) 0
def stbWalk : Nat × Mv := storeGo (byOne (stbPos (cpJob 3 0x84 4))) 1 1 (mvStart (sCp 3 0x84 4) noRestart) 0
/-- Obligations.LoadsAndStoresWalkTheirBoxes, clause 3.1. -/
theorem witness_ldB : running (sCp 0 34 4) = true
    ∧ headOp (sCp 0 34 4) (slotKey sp1.val co2.val sl0.val) 0 34 = some (cpC 34 4)
    ∧ storeGo (byOne (ldbPos { key := slotKey sp1.val co2.val sl0.val, eng := 0, w := cmdWords (cpC 34 4), d := noDesc, b := { org := [], size := [] : Box }, g := moveAgent (sCp 0 34 4) (slotKey sp1.val co2.val sl0.val) (cmdWords (cpC 34 4)) : Job })) (bits (cpC 34 4).w3 0 24 / 4) (bits (cpC 34 4).w3 0 24 / 4) (mvStart (sCp 0 34 4) (cmdRestart (getQ (sCp 0 34 4) (slotKey sp1.val co2.val sl0.val) 0) (cpC 34 4))) ((cmdRestart (getQ (sCp 0 34 4) (slotKey sp1.val co2.val sl0.val) 0) (cpC 34 4)).iter.getD 0 0 / 4) = (ldbWalk.fst, ldbWalk.snd)
    ∧ ldbWalk.snd.stop = none := by
  decide +kernel
/-- Obligations.LoadsAndStoresWalkTheirBoxes, clause 3.2. -/
theorem witness_stB : running (sCp 3 132 4) = true
    ∧ headOp (sCp 3 132 4) (slotKey sp1.val co2.val sl0.val) 3 132 = some (cpC 132 4)
    ∧ storeGo (byOne (stbPos { key := slotKey sp1.val co2.val sl0.val, eng := 3, w := cmdWords (cpC 132 4), d := noDesc, b := { org := [], size := [] : Box }, g := moveAgent (sCp 3 132 4) (slotKey sp1.val co2.val sl0.val) (cmdWords (cpC 132 4)) : Job })) (bits (cpC 132 4).w3 0 24 / 4) (bits (cpC 132 4).w3 0 24 / 4) (mvStart (sCp 3 132 4) (cmdRestart (getQ (sCp 3 132 4) (slotKey sp1.val co2.val sl0.val) 3) (cpC 132 4))) ((cmdRestart (getQ (sCp 3 132 4) (slotKey sp1.val co2.val sl0.val) 3) (cpC 132 4)).iter.getD 0 0 / 4) = (stbWalk.fst, stbWalk.snd)
    ∧ stbWalk.snd.stop = none := by
  decide +kernel
/-! The tile cache: a dirty line and a clean one on span 1. -/
def tcl (line dirty : Nat) : TcLine := ⟨1, false, line, List.replicate 128 7, [⟨2, 4, [1, 2]⟩], dirty, 0⟩
def tclClean : TcLine := { tcl 1073742337 0 with writes := [] }
def dirtyTc (s : State) : State := { s with memo := { s.memo with tc := [{ tcl 1073742337 0 with writes := [] }, tcl 1073742336 15] } }
def flC (op : Nat) : QCmd := qc op dataVa 100 0
def sFl (op : Nat) : State := dirtyTc (inSlot pmem 3 [flC op])
def flJob (op : Nat) (a : Access) : Job := ⟨72, 3, cmdWords (flC op), noDesc, ⟨[], []⟩, ⟨sp1, co2, 3, slotCtx (sFl op) 72, false, a, eDmaProt, eDmaAttr, eDmaPoison, eUnsealedRead⟩⟩
def flWalk (op : Nat) (a : Access) (r : RangeOp) : Nat × Mv := storeGo (byOne (rangePos r (flJob op a))) 1 1 (mvStart (sFl op) noRestart) 0
/-- Obligations.TileCacheWritesBackAndLetsGo, clause 1. -/
theorem witness_memFlush : running (sFl 156) = true
    ∧ (Instr.memFlush sp1 co2 sl0, 156, RangeOp.flush) ∈ [(Instr.memFlush sp1 co2 sl0, 156, RangeOp.flush),
      (Instr.memInval sp1 co2 sl0, 157, RangeOp.inval), (Instr.memFlinv sp1 co2 sl0, 158, RangeOp.flinv)]
    ∧ headOp (sFl 156) (slotKey sp1.val co2.val sl0.val) 3 156 = some (flC 156)
    ∧ noRestart = cmdRestart (getQ (sFl 156) (slotKey sp1.val co2.val sl0.val) 3) (flC 156)
    ∧ flJob 156 Access.read = { key := slotKey sp1.val co2.val sl0.val, eng := 3, w := cmdWords (flC 156), d := noDesc, b := { org := [], size := [] : Box }, g := { span := sp1.val, core := co2.val, unit := 3, ctx := slotCtx (sFl 156) (slotKey sp1.val co2.val sl0.val), vol := false, acc := if RangeOp.flush = RangeOp.inval then Access.write else Access.read, prot := eDmaProt, attr := eDmaAttr, pois := eDmaPoison, unsealed := eUnsealedRead : Agent } : Job }
    ∧ storeGo (byOne (rangePos RangeOp.flush (flJob 156 Access.read))) (rangeLines (flC 156).w1 (bits (flC 156).w2 0 40)) (rangeLines (flC 156).w1 (bits (flC 156).w2 0 40)) (mvStart (sFl 156) noRestart) (((flC 156).w1 + (noRestart.iter.getD 0 0 + 2 ^ 32 * noRestart.iter.getD 1 0)) / 128 - (flC 156).w1 / 128) = ((flWalk 156 Access.read RangeOp.flush).fst, (flWalk 156 Access.read RangeOp.flush).snd)
    ∧ (flWalk 156 Access.read RangeOp.flush).snd.stop = none := by
  decide +kernel
/-- Obligations.TileCacheWritesBackAndLetsGo, clause 1. -/
theorem witness_memInval : running (sFl 157) = true
    ∧ (Instr.memInval sp1 co2 sl0, 157, RangeOp.inval) ∈ [(Instr.memFlush sp1 co2 sl0, 156, RangeOp.flush),
      (Instr.memInval sp1 co2 sl0, 157, RangeOp.inval), (Instr.memFlinv sp1 co2 sl0, 158, RangeOp.flinv)]
    ∧ headOp (sFl 157) (slotKey sp1.val co2.val sl0.val) 3 157 = some (flC 157)
    ∧ noRestart = cmdRestart (getQ (sFl 157) (slotKey sp1.val co2.val sl0.val) 3) (flC 157)
    ∧ flJob 157 Access.write = { key := slotKey sp1.val co2.val sl0.val, eng := 3, w := cmdWords (flC 157), d := noDesc, b := { org := [], size := [] : Box }, g := { span := sp1.val, core := co2.val, unit := 3, ctx := slotCtx (sFl 157) (slotKey sp1.val co2.val sl0.val), vol := false, acc := if RangeOp.inval = RangeOp.inval then Access.write else Access.read, prot := eDmaProt, attr := eDmaAttr, pois := eDmaPoison, unsealed := eUnsealedRead : Agent } : Job }
    ∧ storeGo (byOne (rangePos RangeOp.inval (flJob 157 Access.write))) (rangeLines (flC 157).w1 (bits (flC 157).w2 0 40)) (rangeLines (flC 157).w1 (bits (flC 157).w2 0 40)) (mvStart (sFl 157) noRestart) (((flC 157).w1 + (noRestart.iter.getD 0 0 + 2 ^ 32 * noRestart.iter.getD 1 0)) / 128 - (flC 157).w1 / 128) = ((flWalk 157 Access.write RangeOp.inval).fst, (flWalk 157 Access.write RangeOp.inval).snd)
    ∧ (flWalk 157 Access.write RangeOp.inval).snd.stop = none := by
  decide +kernel
/-- Obligations.TileCacheWritesBackAndLetsGo, clause 2.1. -/
theorem witness_evict_clean : running (dirtyTc ptd) = true ∧ tcNth (dirtyTc ptd) (sp1.val) 0 = some tclClean
    ∧ tclClean.dirty = 0 := by
  decide +kernel
/-- Obligations.TileCacheWritesBackAndLetsGo, clause 2.2. -/
theorem witness_evict_dirty : running (dirtyTc ptd) = true
    ∧ tcNth (dirtyTc ptd) (sp1.val) 1 = some (tcl 1073742336 15) ∧ ((tcl 1073742336 15).dirty ≠ 0) := by
  decide +kernel
/-- Obligations.TileCacheWritesBackAndLetsGo, clause 3.1. -/
theorem witness_flushAll : running (dirtyTc ptd) = true ∧ accepted (dirtyTc ptd) (pgTc sp1.val) 4
    ∧ getB (dirtyTc ptd) fTcStatusFlushBusy (pgTc sp1.val) = false := by
  unfold accepted; decide +kernel
def flushing : State := setB ptd fTcStatusFlushBusy (pgTc sp1) true
/-- Obligations.TileCacheWritesBackAndLetsGo, clause 3.2. -/
theorem witness_flushAll_busy : running flushing = true ∧ accepted flushing (pgTc sp1.val) 4
    ∧ getB flushing fTcStatusFlushBusy (pgTc sp1.val) = true := by
  unfold accepted; decide +kernel
/-- Obligations.TileCacheWritesBackAndLetsGo, clause 4. -/
theorem witness_flushDone : running flushing = true := by
  decide +kernel

end W12

namespace W13

/-! Piers, reducers and spares: pseudo-channel 3 of span 1. -/
def withPcc (s : State) (p : Pcc) : State := putPcc s 67 p
def rqA : PReq := ⟨true, false, 2, 1, 5, 9, rowCell r0 1 3 5 9, 1, false, true, false⟩
def rqB : PReq := ⟨false, false, 2, 4, 6, 7, rowCell r0 1 3 6 7, 1, false, true, false⟩
def pcA : Pcc := { newPcc with reqs := [rqA, rqB], openRows := [(5, 9), (6, 1)], owed := 2, tokens := [(2, 1000)] }
/-- Partition 2 is enabled. -/
def sPart : State := setF (setF (setF (withPcc { r0 with tick := 9000 } pcA) fPccPartEnable (pgPcc sp1 pc3) 1 2) fPccPartRate (pgPcc sp1 pc3) 3 2) fPccPartDepth (pgPcc sp1 pc3) 12 2
def rS : State := { r0 with fuse := { r0.fuse with gradeS := true } }
/-- Obligations.StackOffsetsDecode, clause 3. -/
theorem witness_stackOffset_s : cellSo (rowCell rS 7 47 31 32767 + 2047) < stackCap rS ∧ rS.fuse.gradeS = true := by
  decide +kernel
/-- Obligations.StackOffsetsDecode, clause 4. -/
theorem witness_stackOffset_a : cellSo (rowCell r0 7 63 31 32767 + 2047) < stackCap r0 ∧ r0.fuse.gradeS = false := by
  decide +kernel
/-- Obligations.StackOffsetsDecode, clause 7. -/
theorem witness_stackOffset_block : cellSo (rowCell r0 1 3 31 9 + 2047) < stackCap r0
    ∧ cellSo (rowCell r0 2 3 0 9) / 65536 = cellSo (rowCell r0 1 3 31 9 + 2047) / 65536 := by
  decide +kernel
/-- Obligations.StackOffsetsDecode, clause 8. -/
theorem witness_stackOffset_next : cellSo (rowCell r0 1 63 5 9) < stackCap r0
    ∧ cellSo (rowCell r0 1 0 5 10) = cellSo (rowCell r0 1 63 5 9) + 65536 := by
  decide +kernel
/-- Obligations.StackOffsetsDecode, clause 9. -/
theorem witness_stackOffset_line : cellSo (rowCell r0 1 3 5 9 + 127) < stackCap r0
    ∧ cellSo (rowCell r0 1 3 5 9) / 128 = cellSo (rowCell r0 1 3 5 9 + 127) / 128 := by
  decide +kernel
/-- Obligations.PiersIssueReplayAndRefresh, clause 1. -/
theorem witness_issue : running sPart = true ∧ pierRequestIssueReady sp1 pc3 sPart = true
    ∧ (chooseReq sPart (pcNo sp1.val pc3.val) fun x => true) = some rqA := by
  decide +kernel
/-- The bucket's next microsecond is not over. -/
def sEarly : State := withPcc sPart { pcA with refillAt := 9001 }
/-- Obligations.PiersIssueReplayAndRefresh, clause 2.1. -/
theorem witness_tokenRefill : running sPart = true ∧ ctlLive sPart (pcNo sp1.val pc3.val) = true
    ∧ (getPcc sPart (pcNo sp1.val pc3.val)).refillAt ≤ sPart.tick := by
  decide +kernel
/-- Obligations.PiersIssueReplayAndRefresh, clause 2.3. -/
theorem witness_refreshInterval : running sPart = true ∧ ctlLive sPart (pcNo sp1.val pc3.val) = true
    ∧ (getPcc sPart (pcNo sp1.val pc3.val)).nextRefi ≤ sPart.tick := by
  decide +kernel
/-- Obligations.PiersIssueReplayAndRefresh, clause 2.2. -/
theorem witness_tokenRefill_not : running sEarly = true ∧ ctlLive sEarly (pcNo sp1.val pc3.val) = true
    ∧ sEarly.tick < (getPcc sEarly (pcNo sp1.val pc3.val)).refillAt := by
  decide +kernel
def sBand : State := withPcc sPart { pcA with bandNew := some 2, corr := [(5, 1)] }
/-- Obligations.PiersIssueReplayAndRefresh, clause 2.4. -/
theorem witness_refreshIssue : running sBand = true ∧ ctlLive sBand (pcNo sp1.val pc3.val) = true
    ∧ refreshIssueReady sp1 pc3 sBand = true := by
  decide +kernel
def rcm (k : ReplayKind) (fails : Nat) : ReplayCmd := ⟨k, rowCell r0 1 3 5 9, fails, 8995, some (5, 9)⟩
def sReplay (l : List ReplayCmd) : State := withPcc sPart { pcA with replay := l }
def sAlert : State := sReplay [rcm .rdata 0, rcm .wdata 1, rcm .ca 0]
/-- Obligations.PiersIssueReplayAndRefresh, clause 3.1. -/
theorem witness_alert : running sAlert = true
    ∧ (getPcc sAlert (pcNo sp1.val pc3.val)).replay[1]? = some (rcm ReplayKind.wdata 1)
    ∧ alertReady sp1 pc3 1 true sAlert = true := by
  decide +kernel
/-- Obligations.PiersIssueReplayAndRefresh, clause 3.1. -/
theorem witness_alert_ca : running sAlert = true
    ∧ (getPcc sAlert (pcNo sp1.val pc3.val)).replay[2]? = some (rcm ReplayKind.ca 0)
    ∧ alertReady sp1 pc3 2 false sAlert = true := by
  decide +kernel
/-- Obligations.PiersIssueReplayAndRefresh, clause 3.2. -/
theorem witness_readParity : running sAlert = true
    ∧ (getPcc sAlert (pcNo sp1.val pc3.val)).replay[0]? = some (rcm ReplayKind.rdata 0)
    ∧ replayable sAlert (pcNo sp1.val pc3.val) 0 (some ReplayKind.rdata) = true := by
  decide +kernel
def sFifth : State := sReplay [rcm .rdata 5]
/-- Obligations.PiersIssueReplayAndRefresh, clause 4.1. -/
theorem witness_retrain : running sFifth = true ∧ pierRetrainReady sp1 pc3 sFifth = true := by
  decide +kernel
def sTraining : State := setB sFifth fPccStateRetrain (pgPcc sp1 pc3) true
/-- Obligations.PiersIssueReplayAndRefresh, clause 4.2.1. -/
theorem witness_retrain_ok : running sTraining = true
    ∧ getB sTraining fPccStateRetrain (pgPcc sp1.val pc3.val) = true ∧ ctlLive sTraining (pcNo sp1.val pc3.val) = true := by
  decide +kernel
/-- Obligations.PiersIssueReplayAndRefresh, clause 4.2.2. -/
theorem witness_retrain_fail : running sTraining = true
    ∧ getB sTraining fPccStateRetrain (pgPcc sp1.val pc3.val) = true ∧ ctlLive sTraining (pcNo sp1.val pc3.val) = true := by
  decide +kernel
/-! Reducers. -/
def cel : Nat := rowCell r0 1 3 5 9
def one32 : Nat := 0x3F800000
/-- A buffered line, changed in its first column where asked, with poisoned columns. -/
def redL (d : Bool) (p : Nat) : RedLine := ⟨cel / 128, List.replicate 128 (0x40 : BitVec 8), if d then 1 else 0, p⟩
def sRed (d : Bool) : State := withPcc r0 { newPcc with red := [redL d 0] }
/-- The state that an update finds once its lines are fetched. -/
def redU (s : State) (cell hi : Nat) : State :=
  redFetch (redFetch (redCharge s cell hi (ctxPart s 1)) (cellCtl s cell) (cell / 128)) (cellCtl s hi) (hi / 128)
def sPois (p : Nat) : State := withPcc r0 { newPcc with red := [redL true p] }
/-- The next line is buffered too, poisoned in its first column. -/
def sPoisHi : State := withPcc r0 { newPcc with red := [redL true 0, { redL false 1 with line := cel / 128 + 1 }] }
/-- Obligations.ReducersBufferStageAndSettle, clause 1.1. -/
theorem witness_redUpdate_poison : running (sPois 1) = true ∧ redReady (sPois 1) cel 0 0 = true
    ∧ cel = redHi (redOpCode 0 0) cel ∧ 67 = cellCtl (sPois 1) cel ∧ 67 = cellCtl (sPois 1) cel
    ∧ (4 = if redBytes (redOpCode 0 0) = 8 then 4 else redBytes (redOpCode 0 0)) ∧ stagedAt (sPois 1) (cel / 128) = []
    ∧ stagedAt (sPois 1) (cel / 128) = [] ∧ pcGone (sPois 1) 67 = false ∧ bankIsolated (sPois 1) cel = false
    ∧ pcGone (sPois 1) 67 = false ∧ bankIsolated (sPois 1) cel = false
    ∧ redU (sPois 1) cel cel = redLines (redCharge (sPois 1) cel cel (ctxPart (sPois 1) 1)) 67 (cel / 128) 67 (cel / 128)
    ∧ redBad (redU (sPois 1) cel cel) 67 (cel / 128) (cel % 128) = true := by
  decide +kernel
/-- Obligations.ReducersBufferStageAndSettle, clause 1.2. -/
theorem witness_redUpdate_poisonHi : running sPoisHi = true ∧ redReady sPoisHi (cel + 124) 4 0 = true
    ∧ cel + 128 = redHi (redOpCode 4 0) (cel + 124) ∧ 67 = cellCtl sPoisHi (cel + 124)
    ∧ 67 = cellCtl sPoisHi (cel + 128) ∧ (4 = if redBytes (redOpCode 4 0) = 8 then 4 else redBytes (redOpCode 4 0))
    ∧ stagedAt sPoisHi ((cel + 124) / 128) = [] ∧ stagedAt sPoisHi ((cel + 128) / 128) = []
    ∧ pcGone sPoisHi 67 = false ∧ bankIsolated sPoisHi (cel + 124) = false ∧ pcGone sPoisHi 67 = false
    ∧ bankIsolated sPoisHi (cel + 128) = false
    ∧ redU sPoisHi (cel + 124) (cel + 128) = redLines (redCharge sPoisHi (cel + 124) (cel + 128) (ctxPart sPoisHi 1)) 67 ((cel + 124) / 128) 67 ((cel + 128) / 128)
    ∧ redBad (redU sPoisHi (cel + 124) (cel + 128)) 67 ((cel + 124) / 128) ((cel + 124) % 128) = false
    ∧ redBad (redU sPoisHi (cel + 124) (cel + 128)) 67 ((cel + 128) / 128) ((cel + 128) % 128) = true := by
  decide +kernel
/-- Obligations.ReducersBufferStageAndSettle, clause 1.3. -/
theorem witness_redUpdate : running (sPois 2) = true ∧ redReady (sPois 2) cel 0 0 = true
    ∧ cel = redHi (redOpCode 0 0) cel ∧ 67 = cellCtl (sPois 2) cel ∧ 67 = cellCtl (sPois 2) cel
    ∧ (4 = if redBytes (redOpCode 0 0) = 8 then 4 else redBytes (redOpCode 0 0)) ∧ stagedAt (sPois 2) (cel / 128) = []
    ∧ stagedAt (sPois 2) (cel / 128) = [] ∧ pcGone (sPois 2) 67 = false ∧ bankIsolated (sPois 2) cel = false
    ∧ pcGone (sPois 2) 67 = false ∧ bankIsolated (sPois 2) cel = false
    ∧ redU (sPois 2) cel cel = redLines (redCharge (sPois 2) cel cel (ctxPart (sPois 2) 1)) 67 (cel / 128) 67 (cel / 128)
    ∧ redBad (redU (sPois 2) cel cel) 67 (cel / 128) (cel % 128) = false
    ∧ redBad (redU (sPois 2) cel cel) 67 (cel / 128) (cel % 128) = false
    ∧ (∀ (l : RedLine), l ∈ (getPcc (sPois 2) 67).red ++ (getPcc (sPois 2) 67).red → l.data.length = 128) := by
  decide +kernel
/-- Obligations.ReducersBufferStageAndSettle, clause 1.3. -/
theorem witness_redUpdate_first : running r0 = true ∧ redReady r0 (cel + 64) 4 0 = true
    ∧ cel + 68 = redHi (redOpCode 4 0) (cel + 64) ∧ 67 = cellCtl r0 (cel + 64) ∧ 67 = cellCtl r0 (cel + 68)
    ∧ (4 = if redBytes (redOpCode 4 0) = 8 then 4 else redBytes (redOpCode 4 0)) ∧ stagedAt r0 ((cel + 64) / 128) = []
    ∧ stagedAt r0 ((cel + 68) / 128) = [] ∧ pcGone r0 67 = false ∧ bankIsolated r0 (cel + 64) = false
    ∧ pcGone r0 67 = false ∧ bankIsolated r0 (cel + 68) = false
    ∧ redU r0 (cel + 64) (cel + 68) = redLines (redCharge r0 (cel + 64) (cel + 68) (ctxPart r0 1)) 67 ((cel + 64) / 128) 67 ((cel + 68) / 128)
    ∧ redBad (redU r0 (cel + 64) (cel + 68)) 67 ((cel + 64) / 128) ((cel + 64) % 128) = false
    ∧ redBad (redU r0 (cel + 64) (cel + 68)) 67 ((cel + 68) / 128) ((cel + 68) % 128) = false
    ∧ (∀ (l : RedLine), l ∈ (getPcc r0 67).red ++ (getPcc r0 67).red → l.data.length = 128) := by
  decide +kernel
/-- Obligations.ReducersBufferStageAndSettle, clause 1.3. -/
theorem witness_redUpdate_two : running (sRed true) = true ∧ redReady (sRed true) (cel + 124) 4 0 = true
    ∧ cel + 128 = redHi (redOpCode 4 0) (cel + 124) ∧ 67 = cellCtl (sRed true) (cel + 124)
    ∧ 67 = cellCtl (sRed true) (cel + 128)
    ∧ (4 = if redBytes (redOpCode 4 0) = 8 then 4 else redBytes (redOpCode 4 0))
    ∧ stagedAt (sRed true) ((cel + 124) / 128) = [] ∧ stagedAt (sRed true) ((cel + 128) / 128) = []
    ∧ pcGone (sRed true) 67 = false ∧ bankIsolated (sRed true) (cel + 124) = false ∧ pcGone (sRed true) 67 = false
    ∧ bankIsolated (sRed true) (cel + 128) = false
    ∧ redU (sRed true) (cel + 124) (cel + 128) = redLines (redCharge (sRed true) (cel + 124) (cel + 128) (ctxPart (sRed true) 1)) 67 ((cel + 124) / 128) 67 ((cel + 128) / 128)
    ∧ redBad (redU (sRed true) (cel + 124) (cel + 128)) 67 ((cel + 124) / 128) ((cel + 124) % 128) = false
    ∧ redBad (redU (sRed true) (cel + 124) (cel + 128)) 67 ((cel + 128) / 128) ((cel + 128) % 128) = false
    ∧ (∀ (l : RedLine), l ∈ (getPcc (sRed true) 67).red ++ (getPcc (sRed true) 67).red → l.data.length = 128) := by
  decide +kernel
def sArea : State := setF (sRed true) fPccOrdAreaSize (pgPcc sp1 pc3) 4
/-- Obligations.ReducersBufferStageAndSettle, clause 2. -/
theorem witness_orderedAccept : running sArea = true ∧ redReady sArea cel 0 0 = true
    ∧ pcGone sArea (cellCtl sArea cel) = false
    ∧ (getPcc sArea (cellCtl sArea cel)).staged.length + 1 ≤ 2048 * getF sArea fPccOrdAreaSize (pccPage (cellCtl sArea cel))
    ∧ (setIns (setIns (stagedLines (getPcc sArea (cellCtl sArea cel))) (cel / 128)) (redHi (redOpCode 0 0) cel / 128)).length ≤ 16384 := by
  decide +kernel
/-- Obligations.ReducersBufferStageAndSettle, clause 3.2. -/
theorem witness_lineEvict : running (sRed true) = true
    ∧ (getPcc (sRed true) (pcNo sp1.val pc3.val)).red[0]? = some (redL true 0)
    ∧ canIssue (sRed true) (pcNo sp1.val pc3.val) = true ∧ stitchOn (sRed true) (128 * (redL true 0).line) = false
    ∧ (∀ (x : RedLine), x ∈ (getPcc (sRed true) (pcNo sp1.val pc3.val)).red → x.line = (redL true 0).line → x = redL true 0) := by
  decide +kernel
/-- Obligations.ReducersBufferStageAndSettle, clause 3.2. -/
theorem witness_lineEvict_poison : running (sPois 1) = true
    ∧ (getPcc (sPois 1) (pcNo sp1.val pc3.val)).red[0]? = some (redL true 1)
    ∧ canIssue (sPois 1) (pcNo sp1.val pc3.val) = true ∧ stitchOn (sPois 1) (128 * (redL true 1).line) = false
    ∧ (∀ (x : RedLine), x ∈ (getPcc (sPois 1) (pcNo sp1.val pc3.val)).red → x.line = (redL true 1).line → x = redL true 1) := by
  decide +kernel
/-- Obligations.ReducersBufferStageAndSettle, clause 3.2. -/
theorem witness_lineEvict_clean : running (sRed false) = true
    ∧ (getPcc (sRed false) (pcNo sp1.val pc3.val)).red[0]? = some (redL false 0)
    ∧ canIssue (sRed false) (pcNo sp1.val pc3.val) = true ∧ stitchOn (sRed false) (128 * (redL false 0).line) = false
    ∧ (∀ (x : RedLine), x ∈ (getPcc (sRed false) (pcNo sp1.val pc3.val)).red → x.line = (redL false 0).line → x = redL false 0) := by
  decide +kernel
/-- The controller retrains. -/
def sRetrain : State := setB (sRed true) fPccStateRetrain (pccPage 67) true
/-- Obligations.ReducersBufferStageAndSettle, clause 3.1, alternative 1. -/
theorem witness_lineEvict_waits : running sRetrain = true
    ∧ (getPcc sRetrain (pcNo sp1.val pc3.val)).red[0]? = some (redL true 0)
    ∧ canIssue sRetrain (pcNo sp1.val pc3.val) = false := by
  decide +kernel
def stg (tag item : Nat) : Staged := stagedEntry tag (redOperandVal 0 one32) cel cel (.fadd 0) 1 item
def sStaged : State := { withPcc r0 { newPcc with red := [redL true 0], staged := [stg 3 0, stg 1 0, stg 2 8] } with er := { r0.er with openItems := [8] } }
/-- Obligations.ReducersBufferStageAndSettle, clause 4.1. -/
theorem witness_settleAll : running sStaged = true ∧ ctlLive sStaged (pcNo sp1.val pc3.val) = true
    ∧ accepted sStaged (pgPcc sp1.val pc3.val) 4 := by
  unfold accepted; decide +kernel
/-- Obligations.ReducersBufferStageAndSettle, clause 4.2. -/
theorem witness_bufWb : running sStaged = true ∧ ctlLive sStaged (pcNo sp1.val pc3.val) = true
    ∧ accepted sStaged (pgPcc sp1.val pc3.val) 4 := by
  unfold accepted; decide +kernel
/-! Spares. -/
def lb9 : Fin 32 := 9
def spr2 : Fin 4 := 2
def sCopy : State := setF (setF (setF r0 fPccSpareState (pgPcc sp1 pc3) 1) fPccSpareLbank (pgPcc sp1 pc3) 9) fPccSpareSpare (pgPcc sp1 pc3) 2
/-- Obligations.SparesAndRetirementReplaceBanks, clause 1.1, alternative 1. -/
theorem witness_spare_busy : running sCopy = true ∧ ctlLive sCopy (pcNo sp1.val pc3.val) = true
    ∧ accepted sCopy (pgPcc sp1.val pc3.val) 4 ∧ getF sCopy fPccSpareState (pgPcc sp1.val pc3.val) = 1 := by
  unfold accepted; decide +kernel
def sTaken : State := setF (setF r0 fPccSpareState (pgPcc sp1 2) 2) fPccSpareSpare (pgPcc sp1 2) 2
/-- Obligations.SparesAndRetirementReplaceBanks, clause 1.1, alternative 3. -/
theorem witness_spare_taken : running sTaken = true ∧ ctlLive sTaken (pcNo sp1.val pc3.val) = true
    ∧ accepted sTaken (pgPcc sp1.val pc3.val) 4 ∧ spareUsed sTaken sp1 pc3 spr2.val = true := by
  unfold accepted; decide +kernel
def sGone : State := { r0 with pkg := { r0.pkg with boot := { r0.pkg.boot with sparesGone := [(1, 0, 2)] } } }
/-- Obligations.SparesAndRetirementReplaceBanks, clause 1.2.1. -/
theorem witness_spare_absent : running sGone = true ∧ ctlLive sGone (pcNo sp1.val pc3.val) = true
    ∧ accepted sGone (pgPcc sp1.val pc3.val) 4 ∧ (getF sGone fPccSpareState (pgPcc sp1.val pc3.val) ≠ 1)
    ∧ (getF sGone fPccSpareState (pgPcc sp1.val pc3.val) ≠ 2) ∧ spareUsed sGone sp1 pc3 spr2.val = false
    ∧ (sp1.val, pc3.val / 4, spr2.val) ∈ sGone.pkg.boot.sparesGone := by
  unfold accepted; decide +kernel
/-- Obligations.SparesAndRetirementReplaceBanks, clause 1.2.2. -/
theorem witness_spare_start : running r0 = true ∧ ctlLive r0 (pcNo sp1.val pc3.val) = true
    ∧ accepted r0 (pgPcc sp1.val pc3.val) 4 ∧ (getF r0 fPccSpareState (pgPcc sp1.val pc3.val) ≠ 1)
    ∧ (getF r0 fPccSpareState (pgPcc sp1.val pc3.val) ≠ 2) ∧ spareUsed r0 sp1 pc3 spr2.val = false
    ∧ (¬(sp1.val, pc3.val / 4, spr2.val) ∈ r0.pkg.boot.sparesGone) := by
  unfold accepted; decide +kernel
def sIso : State := { sCopy with er := { sCopy.er with isolated := [(1, 0x50, 3, 9)] } }
/-- Obligations.SparesAndRetirementReplaceBanks, clause 2.1. -/
theorem witness_spareSwitch : running sIso = true ∧ spareSwitchReady sp1 pc3 sIso = true := by
  decide +kernel
/-- Obligations.SparesAndRetirementReplaceBanks, clause 2.2. -/
theorem witness_spareSwitch_failed : running sIso = true ∧ spareSwitchReady sp1 pc3 sIso = true := by
  decide +kernel
def itm (id : Nat) : Item := ⟨id, .host 0 3 9, true, 77, 1, [], 1, 0, 0, 0, 0, 0, [], [], [], 0, false, 0, 0, none⟩
def sRet : State := { sStaged with ho := { sStaged.ho with items := [itm 7, itm 8] } }
/-- Obligations.SparesAndRetirementReplaceBanks, clause 3. -/
theorem witness_pcRetire : running sRet = true ∧ ctlLive sRet (pcNo sp1.val pc3.val) = true := by
  decide +kernel

end W13

namespace W14

/-! Errors, retirement and the journal. -/
def b0 : Fin 128 := 0
def q3 : Fin 16 := 3
/-- The third GiB of context 1 is host memory. -/
def hostTab : State := { ptd with memo := { ptd.memo with mem := tables ++ [(8208, 77)] } }
def sHost : State := inSlot hostTab 0 [qc 0x22 (2 ^ 31 + 4096) 128 4]
def failed (s : State) (n : Nat) : State := (loadFails sp1 co2 sl0 n s).getD s
/-- Obligations.ErrorsAreCountedLoggedAndInjected, clause 1.1. -/
theorem witness_hostRead_load : running sHost = true ∧ loadFails sp1 co2 sl0 0 sHost = some (failed sHost 0) := by
  decide +kernel
def sRing : State := setF (setF (setB (setF r0 fFnSqCfgSizeLog2 (pgFn 0) 6 3) fFnSqCfgEnable (pgFn 0) true 3) fFnSqStateState (pgFn 0) 1 3) fFnDbTail (pgFn 0) 2 3
/-- Obligations.ErrorsAreCountedLoggedAndInjected, clause 1.2. -/
theorem witness_hostRead_entry : running sRing = true ∧ entryDue sRing b0.val q3.val = true := by
  decide +kernel
/-- Obligations.ErrorsAreCountedLoggedAndInjected, clause 1.3. -/
theorem witness_hostRead_fenivar : running sRing = true := by
  decide +kernel
def cls0 : Fin 4 := 0
/-- A bucket one event below its depth. -/
def bkt (n : Nat) : Bucket := ⟨n, 4, 5⟩
def sBkt (n : Nat) : State := { setF (setF r0 fSerrBktCfgDepth (pgSerr sp1) 3 0) fSerrBktCfgLeak (pgSerr sp1) 1 0 with
  tick := 2 ^ 21, er := { r0.er with buckets := [((1, 0, 3), bkt n)] } }
/-- Obligations.ErrorsAreCountedLoggedAndInjected, clause 2.1.1. -/
theorem witness_correctable : running (sBkt 1) = true
    ∧ look (sBkt 1).er.buckets (sp1.val, cls0.val, 3) { level := 0, overflows := 0, leakAt := (sBkt 1).tick : Bucket } = bkt 1
    ∧ bucketKnown (sBkt 1) (sp1.val) (cls0.val) 3 = true
    ∧ (bkt 1).level + 1 < getF (sBkt 1) fSerrBktCfgDepth (pgSerr sp1.val) cls0.val := by
  decide +kernel
/-- Obligations.ErrorsAreCountedLoggedAndInjected, clause 2.1.2. -/
theorem witness_correctable_full : running (sBkt 2) = true
    ∧ look (sBkt 2).er.buckets (sp1.val, cls0.val, 3) { level := 0, overflows := 0, leakAt := (sBkt 2).tick : Bucket } = bkt 2
    ∧ bucketKnown (sBkt 2) (sp1.val) (cls0.val) 3 = true
    ∧ getF (sBkt 2) fSerrBktCfgDepth (pgSerr sp1.val) cls0.val ≤ (bkt 2).level + 1 := by
  decide +kernel
/-- Obligations.ErrorsAreCountedLoggedAndInjected, clause 2.2. -/
theorem witness_bucketLeak : running (sBkt 2) = true
    ∧ look (sBkt 2).er.buckets (sp1.val, cls0.val, 3) { level := 0, overflows := 0, leakAt := (sBkt 2).tick : Bucket } = bkt 2
    ∧ has (sBkt 2).er.buckets (sp1.val, cls0.val, 3) = true
    ∧ (bkt 2).leakAt + leakTicks (sBkt 2) sp1.val cls0.val ≤ (sBkt 2).tick := by
  decide +kernel
/-- A buffered line of pseudo-channel 3, and lines of the tile cache: one clean, one dirty. -/
def hardR : State := { putPcc r0 67 { newPcc with red := [⟨cellOf r0 false 4096 / 128, List.replicate 128 1, 0, 0⟩] } with tick := 5 }
def tcl (line dirty : Nat) : TcLine := ⟨1, false, line, List.replicate 128 7, [], dirty, 0⟩
def hardT : State := { r0 with memo := { r0.memo with tc := [tcl 32 0, tcl 33 15] } }
/-- Obligations.ErrorsAreCountedLoggedAndInjected, clause 3.1. -/
theorem witness_hard_reducer : running hardR = true ∧ bucketKnown hardR (sp1.val) 0 3 = true
    ∧ ((getPcc hardR (pcNo (sp1.val) 3)).red.any fun l => l.line == cellOf hardR false 4096 / 128) = true
    ∧ hardR.er.elog.length < 254 := by
  decide +kernel
/-- Obligations.ErrorsAreCountedLoggedAndInjected, clause 3.2.1. -/
theorem witness_hard_clean : running hardT = true ∧ bucketKnown hardT (sp1.val) 1 3 = true ∧ bitAt 0 0 = false
    ∧ tcFind hardT (sp1.val) (bitAt 0 1) (4096 / 128) = some (tcl 32 0) ∧ (tcl 32 0).dirty = 0 := by
  decide +kernel
/-- Obligations.ErrorsAreCountedLoggedAndInjected, clause 3.2.2. -/
theorem witness_hard_dirty : running hardT = true ∧ bucketKnown hardT (sp1.val) 1 3 = true ∧ bitAt 0 0 = false
    ∧ tcFind hardT (sp1.val) (bitAt 0 1) (4224 / 128) = some (tcl 33 15) ∧ ((tcl 33 15).dirty ≠ 0)
    ∧ hardT.er.elog.length < 254
    ∧ (∀ (e : ElogEntry), e ∈ hardT.er.elog → e.cls = 4 → e.span = sp1.val → e.unit = 48 → e.index = 3 → e.handled = true) := by
  decide +kernel
/-- Obligations.ErrorsAreCountedLoggedAndInjected, clause 3.3. -/
theorem witness_hard_port : running hardT = true ∧ bucketKnown hardT (sp1.val) 1 3 = true ∧ bitAt 1 0 = true := by
  decide +kernel
/-- Obligations.ErrorsAreCountedLoggedAndInjected, clause 3.4. -/
theorem witness_hard_local : running r0 = true ∧ bucketKnown r0 (sp1.val) 2 3 = true ∧ r0.er.elog.length < 254
    ∧ (∀ (e : ElogEntry), e ∈ r0.er.elog → e.cls = 4 → e.span = sp1.val → e.unit = 66 → e.index = 3 → e.handled = true) := by
  decide +kernel
def hardA : SEntry := ⟨2, 1000, 1, 0, false, 4096, 8, 1, 0, 0, 1, false, false⟩
def hardS : State := putSched r0 1 { getSched r0 1 with active := [hardA] }
/-- Obligations.ErrorsAreCountedLoggedAndInjected, clause 3.5. -/
theorem witness_hard_table : running hardS = true ∧ bucketKnown hardS (sp1.val) 3 0 = true ∧ bitAt 1 0 = true
    ∧ (getSched hardS sp1.val).active[0]? = some hardA := by
  decide +kernel
def hardC : State := { ptd with cx := { ptd.cx with recs := [((1, 1), ⟨0xFF, 0, 0, [], .store, [], [], []⟩)] } }
/-- Obligations.ErrorsAreCountedLoggedAndInjected, clause 3.6. -/
theorem witness_hard_record : running hardC = true ∧ bucketKnown hardC (sp1.val) 3 0 = true ∧ bitAt 0 0 = false
    ∧ (getRec hardC (sp1.val) 1).isSome = true := by
  decide +kernel
def flipV : Nat := 1 + 2 ^ 4 * 7 + 2 ^ 16 * 20 + 2 ^ 22 * 9 + 2 ^ 32 * 35 + 2 ^ 38 * 3
/-- Obligations.ErrorsAreCountedLoggedAndInjected, clause 4.1. -/
theorem witness_flip_range : running r0 = true ∧ accepted r0 (pgSerr sp1.val) 4
    ∧ flipRejects r0 (sp1.val) (2 ^ 16 * 36) = some (Rej.range, 16) := by
  unfold accepted; decide +kernel
/-- Obligations.ErrorsAreCountedLoggedAndInjected, clause 4.2. -/
theorem witness_flip : running r0 = true ∧ accepted r0 (pgSerr sp1.val) 4 ∧ flipRejects r0 (sp1.val) flipV = none := by
  unfold accepted; decide +kernel
def sScrub : State := setB { r0 with tick := 2 ^ 40 } fSerrScrubEnable (pgSerr sp1) true
/-- Obligations.ErrorsAreCountedLoggedAndInjected, clause 5. -/
theorem witness_scrub_not : (getB r0 fSerrScrubEnable (pgSerr sp1.val) = false ∨ r0.tick < (getPcc r0 (pcNo sp1.val pc3.val)).scrubTick + 2 ^ 10 * getF r0 fSerrScrubPeriod (pgSerr sp1.val)) := by
  decide +kernel
/-- The scrub is on, and its next row not yet due. -/
def sEarly : State := setF (setB { r0 with tick := 6 } fSerrScrubEnable (pgSerr 1) true) fSerrScrubPeriod (pgSerr 1) 1
/-- Obligations.ErrorsAreCountedLoggedAndInjected, clause 5, alternative 2. -/
theorem witness_scrub_early : sEarly.tick < (getPcc sEarly (pcNo sp1.val pc3.val)).scrubTick + 2 ^ 10 * getF sEarly fSerrScrubPeriod (pgSerr sp1.val) := by
  decide +kernel
/-- Obligations.ErrorsAreCountedLoggedAndInjected, clause 6. -/
theorem witness_scrub : running sScrub = true ∧ scrubRowReady sp1 pc3 sScrub = true := by
  decide +kernel
def c4 : Fin 16 := 4
def sNo4 : State := { r0 with core := { r0.core with absent := [(20, 2)] } }
/-- Obligations.ErrorsAreCountedLoggedAndInjected, clause 7.1, alternative 1. -/
theorem witness_alias_present : running r0 = true ∧ accepted r0 (pgSerr sp1.val) 4 ∧ true = true
    ∧ coreAbsent r0 sp1.val c4.val = false := by
  unfold accepted; decide +kernel
/-- Obligations.ErrorsAreCountedLoggedAndInjected, clause 7.2. -/
theorem witness_alias : running sNo4 = true ∧ accepted sNo4 (pgSerr sp1.val) 4 ∧ true = true
    ∧ coreAbsent sNo4 sp1.val c4.val = true ∧ coreAbsent sNo4 sp1.val co2.val = false
    ∧ aliasTarget sNo4 sp1.val co2.val c4.val = false := by
  unfold accepted; decide +kernel
/-- Obligations.ErrorsAreCountedLoggedAndInjected, clause 7.3. -/
theorem witness_alias_off : running sNo4 = true ∧ accepted sNo4 (pgSerr sp1.val) 4 ∧ false = false := by
  unfold accepted; decide +kernel
/-- Obligations.ErrorsAreCountedLoggedAndInjected, clause 8.1. -/
theorem witness_elogRetire_range : running r0 = true ∧ accepted r0 pgElog 4 ∧ 3 % 4 = 3 := by
  unfold accepted; decide +kernel
/-- Obligations.ErrorsAreCountedLoggedAndInjected, clause 8.2. -/
theorem witness_elogRetire : running r0 = true ∧ accepted r0 pgElog 4 ∧ 0 % 4 = 0 := by
  unfold accepted; decide +kernel
/-- READY, with port 0 holding the reins. -/
def held0 : State := setF su5 fOwnReinClaimHolder pgOwn 0
/-- Obligations.ErrorsAreCountedLoggedAndInjected, clause 8.3. -/
theorem witness_elogDone_master : running held0 = true ∧ accepted held0 pgElog 0 ∧ (0 ≠ 4) := by
  unfold accepted; decide +kernel
/-- Obligations.ErrorsAreCountedLoggedAndInjected, clause 8.4. -/
theorem witness_elogDone_none : running r0 = true ∧ accepted r0 pgElog 4 ∧ 4 = 4
    ∧ (∀ (e : ElogEntry), e ∈ r0.er.elog → e.seq ≠ 1) := by
  unfold accepted; decide +kernel
def elog1 (cls idx : Nat) : ElogEntry := { elogOf cls with seq := 1, span := 1, unit := 0x50, index := idx, first := true }
def sLog : State := { r0 with er := { r0.er with elog := [elog1 7 3] } }
theorem witness_elogDone : running sLog = true ∧ accepted sLog pgElog 4 ∧ ∃ e ∈ sLog.er.elog, e.seq = 1 :=
  ⟨by decide +kernel, by unfold accepted; decide +kernel, elog1 7 3, List.mem_singleton.mpr rfl, rfl⟩
/-- Obligations.ErrorsAreCountedLoggedAndInjected, clause 8.6. -/
theorem witness_elogClearLost : running sLog = true ∧ accepted sLog pgElog 4 := by
  unfold accepted; decide +kernel
/-- Obligations.ErrorsAreCountedLoggedAndInjected, clause 8.7. -/
theorem witness_elogClearFirst : running sLog = true ∧ accepted sLog pgElog 4 := by
  unfold accepted; decide +kernel
/-! Retirement. -/
def kd (n : Fin 4) : Fin 4 := n
def u3 : Fin 64 := 3
def bk9 : Fin 32 := 9
def askFor (kind unit bank block : Nat) : State := { r0 with er := { r0.er with asked := [retWanted kind sp1 unit bank block] } }
def sUnder : State := { askFor 3 3 9 0 with pkg := { r0.pkg with boot := { r0.pkg.boot with bist := some ⟨0, 1, 3, 0, 0⟩ } } }
/-- Obligations.UnitsRetireAndItemsCommitOrReplay, clause 1.1. -/
theorem witness_retire_slice : running sUnder = true ∧ retirementReady (kd 3) sp1 u3 bk9 0 sUnder = true
    ∧ underSlice sUnder ↑(kd 3) sp1.val u3.val bk9.val = true := by
  decide +kernel
/-- Obligations.UnitsRetireAndItemsCommitOrReplay, clause 1.2.1. -/
theorem witness_retire_block : running (askFor 0 3 9 77) = true
    ∧ retirementReady (kd 0) sp1 u3 bk9 77 (askFor 0 3 9 77) = true
    ∧ underSlice (askFor 0 3 9 77) ↑(kd 0) sp1.val u3.val bk9.val = false
    ∧ (askFor 0 3 9 77).pkg.boot.retList.length < 1024 ∧ kd 0 = 0 := by
  decide +kernel
/-- Obligations.UnitsRetireAndItemsCommitOrReplay, clause 1.2.2. -/
theorem witness_retire_pc : running sLog = true ∧ retirementReady (kd 2) sp1 u3 bk9 0 sLog = true
    ∧ underSlice sLog ↑(kd 2) sp1.val u3.val bk9.val = false ∧ sLog.pkg.boot.retList.length < 1024 ∧ kd 2 = 2 := by
  decide +kernel
/-- Obligations.UnitsRetireAndItemsCommitOrReplay, clause 1.2.3. -/
theorem witness_retire_core : running (askFor 3 3 9 0) = true
    ∧ retirementReady (kd 3) sp1 u3 bk9 0 (askFor 3 3 9 0) = true
    ∧ underSlice (askFor 3 3 9 0) ↑(kd 3) sp1.val u3.val bk9.val = false
    ∧ (askFor 3 3 9 0).pkg.boot.retList.length < 1024 ∧ kd 3 = 3 := by
  decide +kernel
def noSpares : State := { askFor 1 3 9 0 with pkg := { r0.pkg with boot := { r0.pkg.boot with sparesGone := [(1, 0, 0), (1, 0, 1), (1, 0, 2), (1, 0, 3)] } } }
/-- Obligations.UnitsRetireAndItemsCommitOrReplay, clause 1.2.4. -/
theorem witness_retire_bank_none : running noSpares = true ∧ retirementReady (kd 1) sp1 u3 bk9 0 noSpares = true
    ∧ underSlice noSpares ↑(kd 1) sp1.val u3.val bk9.val = false ∧ noSpares.pkg.boot.retList.length < 1024 ∧ kd 1 = 1
    ∧ freeSpare noSpares sp1 u3 = none := by
  decide +kernel
def one4 : Fin 4 := 1
def spare1 : State := { askFor 1 3 9 0 with pkg := { r0.pkg with boot := { r0.pkg.boot with sparesGone := [(1, 0, 0)] } } }
/-- Obligations.UnitsRetireAndItemsCommitOrReplay, clause 1.2.5. -/
theorem witness_retire_bank : running spare1 = true ∧ retirementReady (kd 1) sp1 u3 bk9 0 spare1 = true
    ∧ underSlice spare1 ↑(kd 1) sp1.val u3.val bk9.val = false ∧ spare1.pkg.boot.retList.length < 1024 ∧ kd 1 = 1
    ∧ freeSpare spare1 sp1 u3 = some one4 := by
  decide +kernel
/-! Restores. -/
def cellsAt (base : Nat) (l : List Nat) : List Host.Cell :=
  ((wbytes l).zipIdx.filter (fun p => p.1 ≠ 0)).map (fun p => (base + p.2, p.1))
def itm (id : Nat) (h : Nat) : Item := ⟨id, .host 0 3 9, true, 77, 1, [⟨1, 2, 1, ⟨9, true, 65536, 6, 14, 3, [0, 0, 0, 0, 0], 31, 31, .host 0 3 9, id, 0, 0, 0⟩⟩], 0, 0, 0, 0, 0, 0, [], [], [], h, false, 0, 0, none⟩
/-- Page 64 is mirrored, from device address 327680 or from the host; one of its columns is poisoned. -/
def mirE (host : Bool) : List Nat := [if host then 3 else 1, 262144, 4096, 327680]
def sMir (host : Bool) : State := { setF (setF r0 fElogMirrorBase pgElog 1024) fElogMirrorCountEntries pgElog 1 with
  memo := { r0.memo with mem := cellsAt 131072 (mirE host) ++ cellsAt 327680 [9], poison := [8192] }
  ho := { r0.ho with items := [itm 8 66] } }
def copied (host : Bool) : Option (List Byte) × State := copyBytes (pznAll true (sMir host) (leafMaps (sMir host) (cellOf (sMir host) false (4096 * 64)))) (mirE host) (4096 * 64) false
/-- Obligations.UnitsRetireAndItemsCommitOrReplay, clause 2. -/
theorem witness_restore : running (sMir false) = true ∧ mirrorRestoreReady 64 (sMir false) = true
    ∧ mirrorFor (sMir false) (4096 * 64) = some (mirE false)
    ∧ copyBytes (pznAll true (sMir false) (leafMaps (sMir false) (cellOf (sMir false) false (4096 * 64)))) (mirE false) (4096 * 64) false = ((copied false).fst, (copied false).snd) :=
  ⟨by decide +kernel, by decide +kernel, by decide +kernel, (Prod.eta (copied false)).symm⟩
/-- Obligations.UnitsRetireAndItemsCommitOrReplay, clause 2. -/
theorem witness_restore_none : running (sMir true) = true ∧ mirrorRestoreReady 64 (sMir true) = true
    ∧ mirrorFor (sMir true) (4096 * 64) = some (mirE true)
    ∧ copyBytes (pznAll true (sMir true) (leafMaps (sMir true) (cellOf (sMir true) false (4096 * 64)))) (mirE true) (4096 * 64) false = (none, (copied true).snd) := by
  decide +kernel
/-- The entry of page 64 is not valid. -/
def sMirBad : State := { sMir false with memo := { (sMir false).memo with mem := cellsAt 131072 [0, 262144, 4096, 327680] } }
/-- Obligations.UnitsRetireAndItemsCommitOrReplay, clause 3. -/
theorem witness_restore_invalid : running sMirBad = true ∧ mirrorRestoreReady 64 sMirBad = true
    ∧ mirrorFor sMirBad (4096 * 64) = none := by
  decide +kernel
/-! Items. -/
def rctd : State := { ptd with cx := { ptd.cx with recs := [((1, 1), ⟨0xFF, 0, 0, [], .store, [], [], []⟩)] } }
def withIt (it : Item) : State := { rctd with ho := { rctd.ho with items := [it] }, er := { rctd.er with openItems := [8] } }
/-- Obligations.UnitsRetireAndItemsCommitOrReplay, clause 4.1.3. -/
theorem witness_itemCommit : running (withIt (itm 8 0)) = true ∧ getItem (withIt (itm 8 0)) 8 = some (itm 8 0)
    ∧ itemCommitReady 8 (withIt (itm 8 0)) = true ∧ (itm 8 0).commit = none ∧ (8 ≠ 0)
    ∧ (∀ (x : CqRec), x ∈ (withIt (itm 8 0)).ho.cq → x.item ≠ 8) ∧ itemCtls (withIt (itm 8 0)) 8 = []
    ∧ (itm 8 0).signals = [] ∧ itemRings (withIt (itm 8 0)) (itm 8 0) = [] := by
  decide +kernel
/-- Its commit was interrupted: with a staged signal left, without one, and with its completion record written. -/
def part3 (c : Commit) : Item := { itm 8 0 with commit := some c }
def sgn : Signal := ⟨1, 1, 2, 5, 7, 2, 0, 1, 2, 0, 8, 9⟩
def cmSig : Commit := ⟨[], [], [], [], [sgn], [], false⟩
def cmRec : Commit := ⟨[], [], [], [], [], [], false⟩
def cmEnd : Commit := ⟨[], [], [], [], [], [], true⟩
/-- Obligations.UnitsRetireAndItemsCommitOrReplay, clause 4.2.1. -/
theorem witness_itemCommit_signal : running (withIt (part3 cmSig)) = true
    ∧ getItem (withIt (part3 cmSig)) 8 = some (part3 cmSig) ∧ itemCommitReady 8 (withIt (part3 cmSig)) = true
    ∧ (part3 cmSig).commit = some cmSig ∧ cmSig.log = [] ∧ cmSig.kept = [] ∧ cmSig.todo = [] ∧ cmSig.ctls = []
    ∧ cmSig.signals = [sgn] := by
  decide +kernel
/-- Obligations.UnitsRetireAndItemsCommitOrReplay, clause 4.2.2. -/
theorem witness_itemCommit_record : running (withIt (part3 cmRec)) = true
    ∧ getItem (withIt (part3 cmRec)) 8 = some (part3 cmRec) ∧ itemCommitReady 8 (withIt (part3 cmRec)) = true
    ∧ (part3 cmRec).commit = some cmRec ∧ cmRec.log = [] ∧ cmRec.kept = [] ∧ cmRec.todo = [] ∧ cmRec.ctls = []
    ∧ cmRec.signals = [] ∧ cmRec.rings = [] ∧ cmRec.stored = false := by
  decide +kernel
/-- Obligations.UnitsRetireAndItemsCommitOrReplay, clause 4.2.3. -/
theorem witness_itemCommit_end : running (withIt (part3 cmEnd)) = true
    ∧ getItem (withIt (part3 cmEnd)) 8 = some (part3 cmEnd) ∧ itemCommitReady 8 (withIt (part3 cmEnd)) = true
    ∧ (part3 cmEnd).commit = some cmEnd ∧ cmEnd.log = [] ∧ cmEnd.kept = [] ∧ cmEnd.todo = [] ∧ cmEnd.ctls = []
    ∧ cmEnd.signals = [] ∧ cmEnd.rings = [] ∧ cmEnd.stored = true := by
  decide +kernel
def rep (n : Nat) : Item := { itm 8 0 with replay := true, fails := n }
/-- Obligations.UnitsRetireAndItemsCommitOrReplay, clause 4.3. -/
theorem witness_itemReplay_last : running (withIt (rep 3)) = true ∧ getItem (withIt (rep 3)) 8 = some (rep 3)
    ∧ itemReplayReady 8 (withIt (rep 3)) = true ∧ 3 ≤ (rep 3).fails := by
  decide +kernel
/-- Obligations.UnitsRetireAndItemsCommitOrReplay, clause 4.4. -/
theorem witness_itemReplay : running (withIt (rep 2)) = true ∧ getItem (withIt (rep 2)) 8 = some (rep 2)
    ∧ itemReplayReady 8 (withIt (rep 2)) = true ∧ (rep 2).fails < 3
    ∧ (∀ (x : Item), x ∈ (withIt (rep 2)).ho.items → x.id = 8 → x = rep 2)
    ∧ (∀ (d : Delivery), d ∈ (rep 2).launches → coreAbsent (withIt (rep 2)) d.span d.core = false) := by
  decide +kernel
def rcp (at_ : Nat) : Receipt := ⟨3, 1, 9, 0, at_⟩
def sRcp : State := { r0 with tick := 2 ^ 40, ho := { r0.ho with receipts := [rcp 5, rcp (2 ^ 40 - 7)] } }
/-- Obligations.UnitsRetireAndItemsCommitOrReplay, clause 5. -/
theorem witness_receipts : running sRcp = true := by
  decide +kernel

end W14

namespace W15

/-! Near-bank sequences. -/
/-- A system burnish of a row of bank 0. -/
def sy (id : Nat) (st : SeqSt) : NbSeq := { sysSeq id 1 [5] with st := st }
/-- Sequences on pseudo-channel 3 of span 1, with row 5 of bank 0 unsealed. -/
def nbIn (l : List NbSeq) : State :=
  { putPcc r0 67 { newPcc with seqs := l, unsealed := [(0, 5, 1)] } with tick := 50000 }
def nbSave (l : List NbSeq) : State := setB (nbIn l) fPccNbSaveEnable (pgPcc 1 3) true
def stch : Stitch := ⟨0, 0, .burnish, 64, 0, 64, evNone, 7, []⟩
/-- A sequence of nb.gemv with poisoned operands at the given offsets. -/
def sqv (st : SeqSt) (bad : List Nat) : NbSeq := ⟨4, false, 1, 2, 1, 3, 0, 0, 1, 9, 0, 4096, 0, 0, 0xA5, 0, 2 ^ 60, 0,
  (List.replicate 25 0) ++ [2 ^ 32 * 8 + 1], List.replicate 64 1, bad, [], 0, [], st, 0, 0, 0, [], 0, false, 0, [], 0, [], 0, [], []⟩
/-- A sequence of nb.gather with one position, whose index is poisoned. -/
def sqg : NbSeq := ⟨4, false, 1, 2, 1, 3, 0, 0, 1, 9, 0, 4096, 0, 0, 0xA2, 0, 0, 0,
  (List.replicate 24 0) ++ [0, 1, 1, 1], List.replicate 64 1, [0], [], 0, [], .running, 0, 0, 0, [], 0, false, 0, [], 0, [], 0, [], []⟩
/-- The same with a good index. -/
def sqgOk : NbSeq := { sqg with opsBad := [] }
/-- A sequence of nb.gemv whose NS16 vector has the tensor scale 0. -/
def sqTs : NbSeq := { sqv .running [] with w0 := 0xA1, w2 := 2 ^ 17 + 2 ^ 47 * 7 + 2 ^ 51 * 2, prm := (List.replicate 25 0) ++ [64 + 2 ^ 24 + 2 ^ 32 * 32], ops := List.replicate 128 0 }
/-- A sequence that waits to start, or one that runs. -/
def syW : NbSeq := sy 4 .waiting
def syS : NbSeq := sy 4 (.saved 2)
def syR : NbSeq := sy 4 .running
def syE : NbSeq := { syR with next := 2 }
def syT : NbSeq := { syR with running := [stch], next := 1 }
def nbOwe : State := putPcc r0 67 { newPcc with seqs := [syR], owed := 8 }
def nbEv : State := putPcc r0 67 { newPcc with events := [4, 5] }
def plB : Plan := planOf 0 .burnish [.raw 5] 0 0 (.burn 0)
/-- Obligations.SequencesShareTheChain, clause 1.1. -/
theorem witness_sequenceStart : running (nbIn [syW]) = true ∧ sequenceStartReady sp1 pc3 (nbIn [syW]) = true
    ∧ seqNext (getPcc (nbIn [syW]) (pcNo sp1.val pc3.val)) = some syW ∧ syW.st = SeqSt.waiting := by
  decide +kernel
/-- Memory without poison, errors, isolated banks or absent pseudo-channels. -/
def Calm (s : State) : Prop :=
  s.memo.poison = [] ∧ s.memo.errs = [] ∧ s.er.isolated = [] ∧ ∀ k, pcGone s k = false
theorem bluCol_calm {s : State} (h : Calm s) (n b r c : Nat) : (bluCol s n b r c).2 = (false, s) := by
  obtain ⟨h1, h2, h3, h4⟩ := h
  have h5 : colOutcome [] = .clean := by decide
  simp [bluCol, colRead, bankIsolated, h1, h2, h3, h4, look, h5]
  split <;> rfl
theorem bluCols_calm {s : State} (h : Calm s) (n b r c k : Nat) : (bluCols s n b r c k).2 = ([], s) := by
  induction k with
  | zero => rfl
  | succ k ih => simp [bluCols, ih, bluCol_calm h]
theorem restoreBlus_calm {s : State} (h : Calm s) (n k : Nat) : (restoreBlus s n k).2 = none := by
  have key : ∀ (l : List Nat) (f : State × Option Nat → Nat → State × Option Nat),
      (∀ a b, Calm a.1 → a.2 = none → Calm (f a b).1 ∧ (f a b).2 = none) →
      ∀ a : State × Option Nat, Calm a.1 → a.2 = none → (l.foldl f a).2 = none := by
    intro l f hf
    induction l with
    | nil => intro a _ h; exact h
    | cons x l ih => intro a h1 h2; exact ih _ (hf a x h1 h2).1 (hf a x h1 h2).2
  unfold restoreBlus
  dsimp only
  generalize allBanks = l
  refine key l _ ?_ (zeroBlus s n, none) h rfl
  intro a b h1 h2
  have e := fun r c m => bluCols_calm h1 n b r c m
  simp only [e, h2]
  exact ⟨h1, rfl⟩
theorem look_all {κ α : Type} [DecidableEq κ] (P : α → Prop) (l : List (κ × α)) (h : ∀ p ∈ l, P p.2) (d : α) (hd : P d) (k : κ) :
    P (look l k d) := by
  induction l with
  | nil => exact hd
  | cons x l ih =>
    simp only [look]
    split
    · exact h x (List.mem_cons_self ..)
    · exact ih (fun p hp => h p (List.mem_cons_of_mem _ hp))
theorem calm_syS : Calm (putSeq (nbIn [syS]) (pcNo sp1 pc3) { syS with st := .running, since := (nbIn [syS]).tick }) := by
  refine ⟨rfl, rfl, rfl, fun k => ?_⟩
  have hc : pcCount (putSeq (nbIn [syS]) (pcNo sp1 pc3) { syS with st := .running, since := (nbIn [syS]).tick }) = 64 := by
    decide +kernel
  have hp : ∀ p ∈ (putSeq (nbIn [syS]) (pcNo sp1 pc3) { syS with st := .running, since := (nbIn [syS]).tick }).memo.pccs,
      p.2.failed = false := by decide +kernel
  have hk : ¬ k % 64 ≥ 64 := by omega
  have hf := look_all (fun p : Pcc => p.failed = false) _ hp newPcc rfl k
  simp [pcGone, hc, hk, getPcc, hf]
/-- A pair whose second component is none. -/
theorem pairNone {α β : Type} (p : α × Option β) (h : p.2 = none) : p = (p.1, none) := by
  cases p; subst h; rfl
/-- What restoring the lane units of a saved sequence gives. -/
def syIn : State × Option Nat :=
  restoreBlus (putSeq (nbIn [syS]) (pcNo sp1 pc3) { syS with st := .running, since := (nbIn [syS]).tick }) (pcNo sp1 pc3) 2
/-- Obligations.SequencesShareTheChain, clause 1.2. -/
theorem witness_sequenceStart_saved : running (nbIn [syS]) = true ∧ sequenceStartReady sp1 pc3 (nbIn [syS]) = true
    ∧ seqNext (getPcc (nbIn [syS]) (pcNo sp1.val pc3.val)) = some syS ∧ syS.st = SeqSt.saved 2
    ∧ restoreBlus (putSeq (nbIn [syS]) (pcNo sp1.val pc3.val) { syS with st := SeqSt.running, since := (nbIn [syS]).tick }) (pcNo sp1.val pc3.val) 2 = (syIn.fst, none) :=
  ⟨by decide +kernel, by decide +kernel, by decide +kernel, rfl,
    pairNone syIn (restoreBlus_calm calm_syS _ _)⟩
/-- Obligations.SequencesShareTheChain, clause 2. -/
theorem witness_sequenceSuspend : running (nbSave [syR, sy 5 SeqSt.waiting]) = true
    ∧ sequenceSuspendReady sp1 pc3 (nbSave [syR, sy 5 SeqSt.waiting]) = true
    ∧ faultedSeq (getPcc (nbSave [syR, sy 5 SeqSt.waiting]) (pcNo sp1.val pc3.val)) = none
    ∧ chainSeq (getPcc (nbSave [syR, sy 5 SeqSt.waiting]) (pcNo sp1.val pc3.val)) = some syR
    ∧ seqNext (getPcc (nbSave [syR, sy 5 SeqSt.waiting]) (pcNo sp1.val pc3.val)) = some (sy 5 SeqSt.waiting)
    ∧ freeSlot (nbSave [syR, sy 5 SeqSt.waiting]) (pcNo sp1.val pc3.val) 7 = some 0
    ∧ (syR.id ≠ (sy 5 SeqSt.waiting).id) ∧ (sy 5 SeqSt.waiting).st = SeqSt.waiting := by
  decide +kernel
def opsIn (q : NbSeq) : NbSeq × State := opsRead (nbIn [q]) q ((castPieces q 0).1 ++ castScale q 0)
def castIn (q : NbSeq) : List Byte := ((castPieces q 0).1.flatMap (fun p => opBytes (opsIn q).1 p.1 p.2)).take 2048
/-- Obligations.SequencesShareTheChain, clause 3.1.1. -/
theorem witness_broadcast : running (nbIn [sqv SeqSt.running []]) = true
    ∧ broadcastReady sp1 pc3 (nbIn [sqv SeqSt.running []]) = true
    ∧ runSeq (nbIn [sqv SeqSt.running []]) (pcNo sp1.val pc3.val) = some (sqv SeqSt.running [])
    ∧ opsRead (nbIn [sqv SeqSt.running []]) (sqv SeqSt.running []) ((castPieces (sqv SeqSt.running []) (sqv SeqSt.running []).halves).fst ++ castScale (sqv SeqSt.running []) (sqv SeqSt.running []).halves) = ((opsIn (sqv SeqSt.running [])).fst, (opsIn (sqv SeqSt.running [])).snd)
    ∧ List.take 2048 (List.flatMap (fun p => opBytes (opsIn (sqv SeqSt.running [])).fst p.fst p.snd) (castPieces (sqv SeqSt.running []) (sqv SeqSt.running []).halves).fst) = castIn (sqv SeqSt.running [])
    ∧ (((castPieces (sqv SeqSt.running []) (sqv SeqSt.running []).halves).fst ++ castScale (sqv SeqSt.running []) (sqv SeqSt.running []).halves).any fun p => opBad (opsIn (sqv SeqSt.running [])).fst p.fst p.snd) = false
    ∧ ((castScale (sqv SeqSt.running []) (sqv SeqSt.running []).halves).all fun p => tscaleOk (leNat (opBytes (opsIn (sqv SeqSt.running [])).fst p.fst p.snd))) = true := by
  decide +kernel
/-- Obligations.SequencesShareTheChain, clause 3.1.2. -/
theorem witness_broadcast_scale : running (nbIn [sqTs]) = true ∧ broadcastReady sp1 pc3 (nbIn [sqTs]) = true
    ∧ runSeq (nbIn [sqTs]) (pcNo sp1.val pc3.val) = some sqTs
    ∧ opsRead (nbIn [sqTs]) sqTs ((castPieces sqTs sqTs.halves).fst ++ castScale sqTs sqTs.halves) = ((opsIn sqTs).fst, (opsIn sqTs).snd)
    ∧ List.take 2048 (List.flatMap (fun p => opBytes (opsIn sqTs).fst p.fst p.snd) (castPieces sqTs sqTs.halves).fst) = castIn sqTs
    ∧ (((castPieces sqTs sqTs.halves).fst ++ castScale sqTs sqTs.halves).any fun p => opBad (opsIn sqTs).fst p.fst p.snd) = false
    ∧ ((castScale sqTs sqTs.halves).all fun p => tscaleOk (leNat (opBytes (opsIn sqTs).fst p.fst p.snd))) = false := by
  decide +kernel
/-- Obligations.SequencesShareTheChain, clause 3.2. -/
theorem witness_broadcast_poison : running (nbIn [sqv SeqSt.running [0]]) = true
    ∧ broadcastReady sp1 pc3 (nbIn [sqv SeqSt.running [0]]) = true
    ∧ runSeq (nbIn [sqv SeqSt.running [0]]) (pcNo sp1.val pc3.val) = some (sqv SeqSt.running [0])
    ∧ opsRead (nbIn [sqv SeqSt.running [0]]) (sqv SeqSt.running [0]) ((castPieces (sqv SeqSt.running [0]) (sqv SeqSt.running [0]).halves).fst ++ castScale (sqv SeqSt.running [0]) (sqv SeqSt.running [0]).halves) = ((opsIn (sqv SeqSt.running [0])).fst, (opsIn (sqv SeqSt.running [0])).snd)
    ∧ List.take 2048 (List.flatMap (fun p => opBytes (opsIn (sqv SeqSt.running [0])).fst p.fst p.snd) (castPieces (sqv SeqSt.running [0]) (sqv SeqSt.running [0]).halves).fst) = castIn (sqv SeqSt.running [0])
    ∧ (((castPieces (sqv SeqSt.running [0]) (sqv SeqSt.running [0]).halves).fst ++ castScale (sqv SeqSt.running [0]) (sqv SeqSt.running [0]).halves).any fun p => opBad (opsIn (sqv SeqSt.running [0])).fst p.fst p.snd) = true := by
  decide +kernel
/-- Obligations.SequencesShareTheChain, clause 4.1. -/
theorem witness_stitch_refresh : running nbOwe = true ∧ stitchStartReady sp1 pc3 nbOwe = true
    ∧ runSeq nbOwe (pcNo sp1.val pc3.val) = some syR ∧ refreshLets nbOwe (pcNo sp1.val pc3.val) = false := by
  decide +kernel
/-- Row 5 is sealed. -/
def sealed : State := putPcc (nbIn [syR]) 67 { newPcc with seqs := [syR] }
def rowsIn (s : State) : Rows × State := stitchRows 67 syR 0 [.raw 5] s [] []
/-- Another row of the bank is open. -/
def openB : State := putPcc (nbIn [syR]) 67 { newPcc with seqs := [syR], openRows := [(0, 9)] }
/-- Obligations.SequencesShareTheChain, clause 4.2. -/
theorem witness_stitch_open : running openB = true ∧ stitchStartReady sp1 pc3 openB = true
    ∧ runSeq openB (pcNo sp1.val pc3.val) = some syR ∧ refreshLets openB (pcNo sp1.val pc3.val) = true
    ∧ needEntries syR = [] ∧ (nbCut syR)[syR.next]? = some plB
    ∧ has (getPcc openB (pcNo sp1.val pc3.val)).openRows plB.bank = true := by
  decide +kernel
/-- Obligations.SequencesShareTheChain, clause 4.3.2. -/
theorem witness_stitch_idle : running sealed = true ∧ stitchStartReady sp1 pc3 sealed = true
    ∧ runSeq sealed (pcNo sp1.val pc3.val) = some syR ∧ refreshLets sealed (pcNo sp1.val pc3.val) = true
    ∧ needEntries syR = [] ∧ (nbCut syR)[syR.next]? = some plB
    ∧ has (getPcc sealed (pcNo sp1.val pc3.val)).openRows plB.bank = false
    ∧ stitchRows (pcNo sp1.val pc3.val) syR plB.bank plB.rows sealed [] [] = (Rows.ok [5] [], (rowsIn sealed).snd)
    ∧ badPlace syR plB [5] = false ∧ burnHeld (rowsIn sealed).snd (pcNo sp1.val pc3.val) syR plB [5] = false
    ∧ stitchIdle (List.foldl (fun acc r => rowPrep acc (pcNo sp1.val pc3.val) plB.bank r) (rowsIn sealed).snd [5]) (pcNo sp1.val pc3.val) plB [5] = true := by
  decide +kernel
/-- Obligations.SequencesShareTheChain, clause 4.3.3. -/
theorem witness_stitch : running (nbIn [syR]) = true ∧ stitchStartReady sp1 pc3 (nbIn [syR]) = true
    ∧ runSeq (nbIn [syR]) (pcNo sp1.val pc3.val) = some syR ∧ refreshLets (nbIn [syR]) (pcNo sp1.val pc3.val) = true
    ∧ needEntries syR = [] ∧ (nbCut syR)[syR.next]? = some plB
    ∧ has (getPcc (nbIn [syR]) (pcNo sp1.val pc3.val)).openRows plB.bank = false
    ∧ stitchRows (pcNo sp1.val pc3.val) syR plB.bank plB.rows (nbIn [syR]) [] [] = (Rows.ok [5] [], (rowsIn (nbIn [syR])).snd)
    ∧ badPlace syR plB [5] = false ∧ burnHeld (rowsIn (nbIn [syR])).snd (pcNo sp1.val pc3.val) syR plB [5] = false
    ∧ stitchIdle (List.foldl (fun acc r => rowPrep acc (pcNo sp1.val pc3.val) plB.bank r) (rowsIn (nbIn [syR])).snd [5]) (pcNo sp1.val pc3.val) plB [5] = false := by
  decide +kernel
def idxIn (q : NbSeq) : NbSeq × State := opsRead (nbIn [q]) q [(0, 4)]
/-- Obligations.SequencesShareTheChain, clause 4.4.1. -/
theorem witness_stitch_group : running (nbIn [sqgOk]) = true ∧ stitchStartReady sp1 pc3 (nbIn [sqgOk]) = true
    ∧ runSeq (nbIn [sqgOk]) (pcNo sp1.val pc3.val) = some sqgOk
    ∧ refreshLets (nbIn [sqgOk]) (pcNo sp1.val pc3.val) = true ∧ needEntries sqgOk = []
    ∧ (nbCut sqgOk)[sqgOk.next]? = none ∧ groupsLeft sqgOk = true
    ∧ opsRead (nbIn [sqgOk]) sqgOk [(64 * sqgOk.groups * if tbIdx64 sqgOk.prm = true then 8 else 4, min 64 (tbNidx sqgOk.prm - 64 * sqgOk.groups) * if tbIdx64 sqgOk.prm = true then 8 else 4)] = ((idxIn sqgOk).fst, (idxIn sqgOk).snd)
    ∧ opBad (idxIn sqgOk).fst (64 * sqgOk.groups * if tbIdx64 sqgOk.prm = true then 8 else 4) (min 64 (tbNidx sqgOk.prm - 64 * sqgOk.groups) * if tbIdx64 sqgOk.prm = true then 8 else 4) = false := by
  decide +kernel
/-- Obligations.SequencesShareTheChain, clause 4.4.2. -/
theorem witness_stitch_poison : running (nbIn [sqg]) = true ∧ stitchStartReady sp1 pc3 (nbIn [sqg]) = true
    ∧ runSeq (nbIn [sqg]) (pcNo sp1.val pc3.val) = some sqg ∧ refreshLets (nbIn [sqg]) (pcNo sp1.val pc3.val) = true
    ∧ needEntries sqg = [] ∧ (nbCut sqg)[sqg.next]? = none ∧ groupsLeft sqg = true
    ∧ opsRead (nbIn [sqg]) sqg [(64 * sqg.groups * if tbIdx64 sqg.prm = true then 8 else 4, min 64 (tbNidx sqg.prm - 64 * sqg.groups) * if tbIdx64 sqg.prm = true then 8 else 4)] = ((idxIn sqg).fst, (idxIn sqg).snd)
    ∧ opBad (idxIn sqg).fst (64 * sqg.groups * if tbIdx64 sqg.prm = true then 8 else 4) (min 64 (tbNidx sqg.prm - 64 * sqg.groups) * if tbIdx64 sqg.prm = true then 8 else 4) = true := by
  decide +kernel
/-- Obligations.SequencesShareTheChain, clause 5. -/
theorem witness_stitchEnd : running (nbIn [syT]) = true
    ∧ nthRunning (getPcc (nbIn [syT]) (pcNo sp1.val pc3.val)) 0 = some (syT, stch) ∧ syT.st = SeqSt.running := by
  decide +kernel
/-- Obligations.SequencesShareTheChain, clause 6. -/
theorem witness_sequenceEnd : running (nbIn [syE]) = true ∧ endingSeq (nbIn [syE]) (pcNo sp1.val pc3.val) = some syE := by
  decide +kernel
/-- BURNISH_ALL waits for the record that a command's sequence leaves. -/
def waitB : State := let s := nbIn [{ sqv .running [] with next := 100000, halves := 1 }]; putPcc s 67 { getPcc s 67 with burnWait := true }
/-- Obligations.SequencesShareTheChain, clause 6. -/
theorem witness_sequenceEnd_burnish : running waitB = true
    ∧ endingSeq waitB (pcNo sp1.val pc3.val) =
  some
    (let __src := sqv SeqSt.running [];
    { __src with next := 100000, halves := 1 }) := by
  decide +kernel
/-- Obligations.SequencesShareTheChain, clause 7. -/
theorem witness_poisonPulse : running nbEv = true ∧ nbsPoisonPulseReady sp1 pc3 nbEv = true := by
  decide +kernel
/-- Obligations.SequencesShareTheChain, clause 8.1. -/
theorem witness_burnishAll_busy : running (setB (nbIn []) fPccUnsealBurnishBusy (pgPcc 1 3) true) = true
    ∧ ctlLive (setB (nbIn []) fPccUnsealBurnishBusy (pgPcc 1 3) true) (pcNo sp1.val pc3.val) = true
    ∧ accepted (setB (nbIn []) fPccUnsealBurnishBusy (pgPcc 1 3) true) (pgPcc sp1.val pc3.val) 4
    ∧ getB (setB (nbIn []) fPccUnsealBurnishBusy (pgPcc 1 3) true) fPccUnsealBurnishBusy (pgPcc sp1.val pc3.val) = true := by
  unfold accepted; decide +kernel
/-- Obligations.SequencesShareTheChain, clause 8.2. -/
theorem witness_burnishAll_full : running (nbIn (List.map (fun k => sy k SeqSt.waiting) (List.range 32))) = true
    ∧ ctlLive (nbIn (List.map (fun k => sy k SeqSt.waiting) (List.range 32))) (pcNo sp1.val pc3.val) = true
    ∧ accepted (nbIn (List.map (fun k => sy k SeqSt.waiting) (List.range 32))) (pgPcc sp1.val pc3.val) 4
    ∧ getB (nbIn (List.map (fun k => sy k SeqSt.waiting) (List.range 32))) fPccUnsealBurnishBusy (pgPcc sp1.val pc3.val) = false
    ∧ 32 ≤ (getPcc (nbIn (List.map (fun k => sy k SeqSt.waiting) (List.range 32))) (pcNo sp1.val pc3.val)).seqs.length := by
  unfold accepted; decide +kernel
/-- Obligations.SequencesShareTheChain, clause 8.3. -/
theorem witness_burnishAll : running (nbIn []) = true ∧ ctlLive (nbIn []) (pcNo sp1.val pc3.val) = true
    ∧ accepted (nbIn []) (pgPcc sp1.val pc3.val) 4
    ∧ getB (nbIn []) fPccUnsealBurnishBusy (pgPcc sp1.val pc3.val) = false
    ∧ (getPcc (nbIn []) (pcNo sp1.val pc3.val)).seqs.length < 32 := by
  unfold accepted; decide +kernel
/-- A row operation on bank 0 while the table of unsealed rows is full, of rows of bank 1, where a stitch runs. -/
def sqRow : NbSeq := { sqv .running [] with w0 := 0xA8, w2 := 2 ^ 61, prm := List.replicate 8 0 ++ [2 ^ 30 + 3 * 65536, 0, 0, 1] ++ List.replicate 20 0, running := [{ stch with num := 40, bank := 1 }] }
def fullB : State := putPcc ptd 67 { newPcc with seqs := [sqRow], unsealed := (List.range 1024).map (fun k => (1, k, 1)) }
def plR : Plan := (nbCut sqRow).headD plB
def rowR : Rows × State := stitchRows 67 sqRow 0 plR.rows fullB [] []
def rowN : Nat := match rowR.1 with | .ok l _ => l.headD 0 | _ => 0
def usedR : List (Nat × Nat × Nat) := match rowR.1 with | .ok _ u => u | _ => []
/-- Obligations.SequencesShareTheChain, clause 4.3.1. -/
theorem witness_stitch_burnHeld : running fullB = true ∧ stitchStartReady sp1 pc3 fullB = true
    ∧ runSeq fullB (pcNo sp1.val pc3.val) = some sqRow ∧ refreshLets fullB (pcNo sp1.val pc3.val) = true
    ∧ needEntries sqRow = [] ∧ (nbCut sqRow)[sqRow.next]? = some plR
    ∧ has (getPcc fullB (pcNo sp1.val pc3.val)).openRows plR.bank = false
    ∧ stitchRows (pcNo sp1.val pc3.val) sqRow plR.bank plR.rows fullB [] [] = (Rows.ok [rowN] usedR, rowR.snd)
    ∧ badPlace sqRow plR [rowN] = false ∧ burnHeld rowR.snd (pcNo sp1.val pc3.val) sqRow plR [rowN] = true := by
  decide +kernel

end W15

namespace W16

/-! Near-bank commands. -/
/-- `nb.norm` STATS on pseudo-channel 3 of span 1: one vector of 16 FP32 elements; its result goes to address 0. -/
def nwStats : QCmd := qc 0xA5 (2 + 2 ^ 8 * 3) 0 0
/-- Its parameter record. -/
def recStats : List Nat := [2 ^ 30 + 3 * 65536, 0, 0, 1] ++ List.replicate 20 0 ++ [128, 16 * 2 ^ 32 + 1] ++ List.replicate 6 0
def nb1 : State := lmAt (inSlot ptd 4 [nwStats]) 0 recStats
/-- The same record with an OSTR that is no multiple of 128. -/
def nb2 : State := lmAt (inSlot ptd 4 [nwStats]) 0 (recStats.set 24 64)
/-- `nb.gemv` with NS16 vectors whose tensor scale is a NaN. -/
def nwGemv : QCmd := qc 0xA1 (2 + 2 ^ 8 * 3 + 2 ^ 37 * 8) (2 ^ 17 + 2 ^ 47 * 7 + 2 ^ 51 * 2) 0
def nbJ : State := { nb1 with core := { nb1.core with hazards := [(4096 * 18 + 1, [⟨9, 128, [], [(0, 128)]⟩])] } }
/-- The command's launch belongs to a journaled item, which has issued the command already. -/
def itm : Item := ⟨5, .system, true, 0, 1, [], 1, 0, 0, 0, 0, 0, [], [], [], 0, true, 1, 0, none⟩
def lch : Launch := ⟨9, true, 0, 0, 0, 16, [], 16, 0, .system, 5, 0, 0, 0⟩
def nbM0 : State := putSlot nb1 72 { getSlot nb1 72 with part := { (getSlot nb1 72).part with launches := [lch] } }
def nbM : State := { nbM0 with ho := { nbM0.ho with items := [itm], marks := [(5, 4096 * 18 + 1, 0)] } }
def recGemv : List Nat := [2 ^ 30 + 3 * 65536, 0, 2 ^ 22, 8] ++ List.replicate 20 0 ++ [128, 64 + 64 * 2 ^ 24 + 2 ^ 32]
  ++ List.replicate 6 0
def nbV : State := lmWrite (lmAt (inSlot ptd 4 [nwGemv]) 0 recGemv) 72 580 [0, 0, 0xC0, 0x7F]
/-- An `nb.fence` that is oldest in its queue. -/
def fence : QCmd := qc 0xA0 0 0 0
/-- A sequence of STATS whose only stitch has ended. -/
def sqs : NbSeq := ⟨4, false, 1, 2, 1, 3, 0, 0, 1, 9, 0, 256, 0, 0, 0xA5, 2 + 2 ^ 8 * 3, 0, 0, recStats, [], [],
  [(0, 2 ^ 30, 29)], 1, [], .running, 0, 0, 0, [], 0, false, 0, [], 0, [], 0, [], []⟩
def nbD : State := putPcc nb1 67 { newPcc with seqs := [sqs] }
/-- A sequence of `nb.attn` without tokens. -/
def sqa : NbSeq := ⟨4, false, 1, 2, 1, 3, 0, 0, 1, 9, 0, 256, 0, 0, 0xA6, 2 + 2 ^ 8 * 3, 0, 0,
  List.replicate 24 0 ++ [2048, 0, 0, 0, 0, 65536, 64, 0], List.replicate 64 0, [], [(0, 2 ^ 30, 29)], 0, [], .running, 0, 0,
  0, [], 0, false, 0, [], 0, [], 0, [], []⟩
def nbA : State := putPcc nb1 67 { newPcc with seqs := [sqa] }
def sqb (op : Nat) (st : SeqSt) : NbSeq := { sqs with w0 := op, st := st, next := 0, prm := [] }
def nbO (op : Nat) (st : SeqSt) : State := putPcc nb1 67 { newPcc with seqs := [sqb op st] }
def nbFull : State := putPcc nb1 67 { newPcc with seqs := List.replicate 32 (sqb 0xA5 .waiting) }
/-- Obligations.NearBankCommandsIssueAndRun, clause 1.1. -/
theorem witness_nbIssue_code : running nb2 = true ∧ nbHead nb2 (slotKey sp1.val co2.val sl0.val) = some nwStats
    ∧ nbRecord nb2 (slotKey sp1.val co2.val sl0.val) (cmdWords nwStats) = NbRec.code 40 0 := by
  decide +kernel
/-- Obligations.NearBankCommandsIssueAndRun, clause 1.2.1. -/
theorem witness_nbIssue_scale : running nbV = true ∧ nbHead nbV (slotKey sp1.val co2.val sl0.val) = some nwGemv
    ∧ nbRecord nbV (slotKey sp1.val co2.val sl0.val) (cmdWords nwGemv) = NbRec.ok recGemv
    ∧ (nbSets (cmdWords nwGemv)).all (nbVtsOk nbV (slotKey sp1.val co2.val sl0.val) (cmdWords nwGemv) recGemv) = false := by
  decide +kernel
/-- Obligations.NearBankCommandsIssueAndRun, clause 1.2.2.1. -/
theorem witness_nbIssue_again : running nbM = true ∧ nbHead nbM (slotKey sp1.val co2.val sl0.val) = some nwStats
    ∧ nbRecord nbM (slotKey sp1.val co2.val sl0.val) (cmdWords nwStats) = NbRec.ok recStats
    ∧ (nbSets (cmdWords nwStats)).all (nbVtsOk nbM (slotKey sp1.val co2.val sl0.val) (cmdWords nwStats) recStats) = true
    ∧ nbMarked nbM (slotKey sp1.val co2.val sl0.val) nwStats = true := by
  decide +kernel
/-- Obligations.NearBankCommandsIssueAndRun, clause 1.2.2.2.1. -/
theorem witness_nbIssue_hazard : running nbJ = true ∧ nbHead nbJ (slotKey sp1.val co2.val sl0.val) = some nwStats
    ∧ nbRecord nbJ (slotKey sp1.val co2.val sl0.val) (cmdWords nwStats) = NbRec.ok recStats
    ∧ (nbSets (cmdWords nwStats)).all (nbVtsOk nbJ (slotKey sp1.val co2.val sl0.val) (cmdWords nwStats) recStats) = true
    ∧ nbMarked nbJ (slotKey sp1.val co2.val sl0.val) nwStats = false
    ∧ (nbHazard nbJ (4096 * coreNo sp1.val co2.val + slotCtx nbJ (slotKey sp1.val co2.val sl0.val)) (cmdWords nwStats) recStats = true ∨ ∃ n, n ∈ nbTargets (cmdWords nwStats) ∧ 32 ≤ (getPcc nbJ n).seqs.length) := by
  decide +kernel
/-- Obligations.NearBankCommandsIssueAndRun, clause 1.2.2.2.1. -/
theorem witness_nbIssue_full : running nbFull = true ∧ nbHead nbFull (slotKey sp1.val co2.val sl0.val) = some nwStats
    ∧ nbRecord nbFull (slotKey sp1.val co2.val sl0.val) (cmdWords nwStats) = NbRec.ok recStats
    ∧ (nbSets (cmdWords nwStats)).all (nbVtsOk nbFull (slotKey sp1.val co2.val sl0.val) (cmdWords nwStats) recStats) = true
    ∧ nbMarked nbFull (slotKey sp1.val co2.val sl0.val) nwStats = false
    ∧ (nbHazard nbFull (4096 * coreNo sp1.val co2.val + slotCtx nbFull (slotKey sp1.val co2.val sl0.val)) (cmdWords nwStats) recStats = true ∨ ∃ n, n ∈ nbTargets (cmdWords nwStats) ∧ 32 ≤ (getPcc nbFull n).seqs.length) := by
  decide +kernel
/-- Obligations.NearBankCommandsIssueAndRun, clause 1.2.2.2.2. -/
theorem witness_nbIssue : running nb1 = true ∧ nbHead nb1 (slotKey sp1.val co2.val sl0.val) = some nwStats
    ∧ nbRecord nb1 (slotKey sp1.val co2.val sl0.val) (cmdWords nwStats) = NbRec.ok recStats
    ∧ (nbSets (cmdWords nwStats)).all (nbVtsOk nb1 (slotKey sp1.val co2.val sl0.val) (cmdWords nwStats) recStats) = true
    ∧ nbMarked nb1 (slotKey sp1.val co2.val sl0.val) nwStats = false
    ∧ nbHazard nb1 (4096 * coreNo sp1.val co2.val + slotCtx nb1 (slotKey sp1.val co2.val sl0.val)) (cmdWords nwStats) recStats = false
    ∧ (∀ (n : Nat), n ∈ nbTargets (cmdWords nwStats) → (getPcc nb1 n).seqs.length < 32)
    ∧ nbOutTr nb1 (sp1.val) (co2.val) (slotCtx nb1 (slotKey sp1.val co2.val sl0.val)) (cmdWords nwStats) recStats = nbOutTr nb1 1 2 1 (cmdWords nwStats) recStats
    ∧ (nbOutTr nb1 1 2 1 (cmdWords nwStats) recStats).stop = none := by
  decide +kernel
/-- Obligations.NearBankCommandsIssueAndRun, clause 2. -/
theorem witness_nbFence : running (inSlot ptd 4 [fence]) = true
    ∧ fenceHead (inSlot ptd 4 [fence]) (slotKey sp1.val co2.val sl0.val) = some fence := by
  decide +kernel
/-- The result area's translation has been dropped, and its page no longer lets write. -/
def noOut (q : NbSeq) : NbSeq := { q with outs := [(0, 2 ^ 30, 0)] }
def nbNo (q : NbSeq) : State := let s := putPcc nb1 67 { newPcc with seqs := [noOut q] }
  { s with memo := { s.memo with mem := [(4096, 3), (4097, 32), (8192, 21), (8200, 29), (8204, 32)] } }
def stopAt (q : NbSeq) : Nat × Nat := match (outAgain (nbNo q) (noOut q)).stop with
  | some (.code c va) => (c, va)
  | _ => (0, 0)
/-- Obligations.NearBankCommandsIssueAndRun, clause 3.1.2, alternative 1. -/
theorem witness_chainDrain : running nbD = true ∧ runSeq nbD (pcNo sp1.val pc3.val) = some sqs ∧ sqs.sys = false
    ∧ unitNext sqs = some 0 ∧ (wOp (seqW sqs) ≠ 166) ∧ (outAgain nbD sqs).stop = none := by
  decide +kernel
/-- Obligations.NearBankCommandsIssueAndRun, clause 3.1.3. -/
theorem witness_chainDrain_word : running nbD = true ∧ runSeq nbD (pcNo sp1.val pc3.val) = some sqs ∧ sqs.sys = false
    ∧ unitNext sqs = some 0 ∧ (wOp (seqW sqs) ≠ 166) ∧ (outAgain nbD sqs).stop = none ∧ 0 < chainWords sqs := by
  decide +kernel
/-- Obligations.NearBankCommandsIssueAndRun, clause 3.1.4. -/
theorem witness_chainDrain_stop : running (nbNo sqs) = true
    ∧ runSeq (nbNo sqs) (pcNo sp1.val pc3.val) = some (noOut sqs) ∧ (noOut sqs).sys = false
    ∧ unitNext (noOut sqs) = some 0 ∧ (wOp (seqW (noOut sqs)) ≠ 166)
    ∧ (outAgain (nbNo sqs) (noOut sqs)).stop = some (Stop.code (stopAt sqs).fst (stopAt sqs).snd)
    ∧ (noOut sqs).stop = false := by
  decide +kernel
/-- Obligations.NearBankCommandsIssueAndRun, clause 3.2.2, alternative 1. -/
theorem witness_chainReduce : running nbA = true ∧ runSeq nbA (pcNo sp1.val pc3.val) = some sqa ∧ sqa.sys = false
    ∧ unitNext sqa = some 0 ∧ wOp (seqW sqa) = 166 ∧ (outAgain nbA sqa).stop = none := by
  decide +kernel
/-- Obligations.NearBankCommandsIssueAndRun, clause 3.2.3. -/
theorem witness_chainReduce_word : running nbA = true ∧ runSeq nbA (pcNo sp1.val pc3.val) = some sqa
    ∧ sqa.sys = false ∧ unitNext sqa = some 0 ∧ wOp (seqW sqa) = 166 ∧ (outAgain nbA sqa).stop = none
    ∧ 0 < chainWords sqa := by
  decide +kernel
/-- Obligations.NearBankCommandsIssueAndRun, clause 3.2.4. -/
theorem witness_chainReduce_stop : running (nbNo sqa) = true
    ∧ runSeq (nbNo sqa) (pcNo sp1.val pc3.val) = some (noOut sqa) ∧ (noOut sqa).sys = false
    ∧ unitNext (noOut sqa) = some 0 ∧ wOp (seqW (noOut sqa)) = 166
    ∧ (outAgain (nbNo sqa) (noOut sqa)).stop = some (Stop.code (stopAt sqa).fst (stopAt sqa).snd)
    ∧ (noOut sqa).stop = false := by
  decide +kernel
/-- Obligations.NearBankCommandsIssueAndRun, clause 4.1. -/
theorem witness_nbGemv_none : running ptd = true
    ∧ (Instr.nbGemv sp1 pc3, 161) ∈ [(Instr.nbGemv sp1 pc3, 161), (Instr.nbGather sp1 pc3, 162),
      (Instr.nbGred sp1 pc3, 163), (Instr.nbAxpy sp1 pc3, 164), (Instr.nbNorm sp1 pc3, 165),
      (Instr.nbAttn sp1 pc3, 166), (Instr.nbAdam sp1 pc3, 167), (Instr.nbRowop sp1 pc3, 168),
      (Instr.nbBurnish sp1 pc3, 169)]
    ∧ seqOfOp sp1 pc3 161 ptd = none := by
  decide +kernel
/-- Obligations.NearBankCommandsIssueAndRun, clause 4.2. -/
theorem witness_nbGemv : running (nbO 161 SeqSt.waiting) = true
    ∧ (Instr.nbGemv sp1 pc3, 161) ∈ [(Instr.nbGemv sp1 pc3, 161), (Instr.nbGather sp1 pc3, 162),
      (Instr.nbGred sp1 pc3, 163), (Instr.nbAxpy sp1 pc3, 164), (Instr.nbNorm sp1 pc3, 165),
      (Instr.nbAttn sp1 pc3, 166), (Instr.nbAdam sp1 pc3, 167), (Instr.nbRowop sp1 pc3, 168),
      (Instr.nbBurnish sp1 pc3, 169)]
    ∧ seqOfOp sp1 pc3 161 (nbO 161 SeqSt.waiting) = some (sqb 161 SeqSt.waiting) := by
  decide +kernel
/-- Obligations.NearBankCommandsIssueAndRun, clause 4.1. -/
theorem witness_nbGather_none : running ptd = true
    ∧ (Instr.nbGather sp1 pc3, 162) ∈ [(Instr.nbGemv sp1 pc3, 161), (Instr.nbGather sp1 pc3, 162),
      (Instr.nbGred sp1 pc3, 163), (Instr.nbAxpy sp1 pc3, 164), (Instr.nbNorm sp1 pc3, 165),
      (Instr.nbAttn sp1 pc3, 166), (Instr.nbAdam sp1 pc3, 167), (Instr.nbRowop sp1 pc3, 168),
      (Instr.nbBurnish sp1 pc3, 169)]
    ∧ seqOfOp sp1 pc3 162 ptd = none := by
  decide +kernel
/-- Obligations.NearBankCommandsIssueAndRun, clause 4.2. -/
theorem witness_nbGather : running (nbO 162 SeqSt.waiting) = true
    ∧ (Instr.nbGather sp1 pc3, 162) ∈ [(Instr.nbGemv sp1 pc3, 161), (Instr.nbGather sp1 pc3, 162),
      (Instr.nbGred sp1 pc3, 163), (Instr.nbAxpy sp1 pc3, 164), (Instr.nbNorm sp1 pc3, 165),
      (Instr.nbAttn sp1 pc3, 166), (Instr.nbAdam sp1 pc3, 167), (Instr.nbRowop sp1 pc3, 168),
      (Instr.nbBurnish sp1 pc3, 169)]
    ∧ seqOfOp sp1 pc3 162 (nbO 162 SeqSt.waiting) = some (sqb 162 SeqSt.waiting) := by
  decide +kernel
/-- Obligations.NearBankCommandsIssueAndRun, clause 4.1. -/
theorem witness_nbGred_none : running ptd = true
    ∧ (Instr.nbGred sp1 pc3, 163) ∈ [(Instr.nbGemv sp1 pc3, 161), (Instr.nbGather sp1 pc3, 162),
      (Instr.nbGred sp1 pc3, 163), (Instr.nbAxpy sp1 pc3, 164), (Instr.nbNorm sp1 pc3, 165),
      (Instr.nbAttn sp1 pc3, 166), (Instr.nbAdam sp1 pc3, 167), (Instr.nbRowop sp1 pc3, 168),
      (Instr.nbBurnish sp1 pc3, 169)]
    ∧ seqOfOp sp1 pc3 163 ptd = none := by
  decide +kernel
/-- Obligations.NearBankCommandsIssueAndRun, clause 4.2. -/
theorem witness_nbGred : running (nbO 163 SeqSt.waiting) = true
    ∧ (Instr.nbGred sp1 pc3, 163) ∈ [(Instr.nbGemv sp1 pc3, 161), (Instr.nbGather sp1 pc3, 162),
      (Instr.nbGred sp1 pc3, 163), (Instr.nbAxpy sp1 pc3, 164), (Instr.nbNorm sp1 pc3, 165),
      (Instr.nbAttn sp1 pc3, 166), (Instr.nbAdam sp1 pc3, 167), (Instr.nbRowop sp1 pc3, 168),
      (Instr.nbBurnish sp1 pc3, 169)]
    ∧ seqOfOp sp1 pc3 163 (nbO 163 SeqSt.waiting) = some (sqb 163 SeqSt.waiting) := by
  decide +kernel
/-- Obligations.NearBankCommandsIssueAndRun, clause 4.1. -/
theorem witness_nbAxpy_none : running ptd = true
    ∧ (Instr.nbAxpy sp1 pc3, 164) ∈ [(Instr.nbGemv sp1 pc3, 161), (Instr.nbGather sp1 pc3, 162),
      (Instr.nbGred sp1 pc3, 163), (Instr.nbAxpy sp1 pc3, 164), (Instr.nbNorm sp1 pc3, 165),
      (Instr.nbAttn sp1 pc3, 166), (Instr.nbAdam sp1 pc3, 167), (Instr.nbRowop sp1 pc3, 168),
      (Instr.nbBurnish sp1 pc3, 169)]
    ∧ seqOfOp sp1 pc3 164 ptd = none := by
  decide +kernel
/-- Obligations.NearBankCommandsIssueAndRun, clause 4.2. -/
theorem witness_nbAxpy : running (nbO 164 SeqSt.waiting) = true
    ∧ (Instr.nbAxpy sp1 pc3, 164) ∈ [(Instr.nbGemv sp1 pc3, 161), (Instr.nbGather sp1 pc3, 162),
      (Instr.nbGred sp1 pc3, 163), (Instr.nbAxpy sp1 pc3, 164), (Instr.nbNorm sp1 pc3, 165),
      (Instr.nbAttn sp1 pc3, 166), (Instr.nbAdam sp1 pc3, 167), (Instr.nbRowop sp1 pc3, 168),
      (Instr.nbBurnish sp1 pc3, 169)]
    ∧ seqOfOp sp1 pc3 164 (nbO 164 SeqSt.waiting) = some (sqb 164 SeqSt.waiting) := by
  decide +kernel
/-- Obligations.NearBankCommandsIssueAndRun, clause 4.1. -/
theorem witness_nbNorm_none : running ptd = true
    ∧ (Instr.nbNorm sp1 pc3, 165) ∈ [(Instr.nbGemv sp1 pc3, 161), (Instr.nbGather sp1 pc3, 162),
      (Instr.nbGred sp1 pc3, 163), (Instr.nbAxpy sp1 pc3, 164), (Instr.nbNorm sp1 pc3, 165),
      (Instr.nbAttn sp1 pc3, 166), (Instr.nbAdam sp1 pc3, 167), (Instr.nbRowop sp1 pc3, 168),
      (Instr.nbBurnish sp1 pc3, 169)]
    ∧ seqOfOp sp1 pc3 165 ptd = none := by
  decide +kernel
/-- Obligations.NearBankCommandsIssueAndRun, clause 4.2. -/
theorem witness_nbNorm : running (nbO 165 SeqSt.waiting) = true
    ∧ (Instr.nbNorm sp1 pc3, 165) ∈ [(Instr.nbGemv sp1 pc3, 161), (Instr.nbGather sp1 pc3, 162),
      (Instr.nbGred sp1 pc3, 163), (Instr.nbAxpy sp1 pc3, 164), (Instr.nbNorm sp1 pc3, 165),
      (Instr.nbAttn sp1 pc3, 166), (Instr.nbAdam sp1 pc3, 167), (Instr.nbRowop sp1 pc3, 168),
      (Instr.nbBurnish sp1 pc3, 169)]
    ∧ seqOfOp sp1 pc3 165 (nbO 165 SeqSt.waiting) = some (sqb 165 SeqSt.waiting) := by
  decide +kernel
/-- Obligations.NearBankCommandsIssueAndRun, clause 4.1. -/
theorem witness_nbAttn_none : running ptd = true
    ∧ (Instr.nbAttn sp1 pc3, 166) ∈ [(Instr.nbGemv sp1 pc3, 161), (Instr.nbGather sp1 pc3, 162),
      (Instr.nbGred sp1 pc3, 163), (Instr.nbAxpy sp1 pc3, 164), (Instr.nbNorm sp1 pc3, 165),
      (Instr.nbAttn sp1 pc3, 166), (Instr.nbAdam sp1 pc3, 167), (Instr.nbRowop sp1 pc3, 168),
      (Instr.nbBurnish sp1 pc3, 169)]
    ∧ seqOfOp sp1 pc3 166 ptd = none := by
  decide +kernel
/-- Obligations.NearBankCommandsIssueAndRun, clause 4.2. -/
theorem witness_nbAttn : running (nbO 166 SeqSt.waiting) = true
    ∧ (Instr.nbAttn sp1 pc3, 166) ∈ [(Instr.nbGemv sp1 pc3, 161), (Instr.nbGather sp1 pc3, 162),
      (Instr.nbGred sp1 pc3, 163), (Instr.nbAxpy sp1 pc3, 164), (Instr.nbNorm sp1 pc3, 165),
      (Instr.nbAttn sp1 pc3, 166), (Instr.nbAdam sp1 pc3, 167), (Instr.nbRowop sp1 pc3, 168),
      (Instr.nbBurnish sp1 pc3, 169)]
    ∧ seqOfOp sp1 pc3 166 (nbO 166 SeqSt.waiting) = some (sqb 166 SeqSt.waiting) := by
  decide +kernel
/-- Obligations.NearBankCommandsIssueAndRun, clause 4.1. -/
theorem witness_nbAdam_none : running ptd = true
    ∧ (Instr.nbAdam sp1 pc3, 167) ∈ [(Instr.nbGemv sp1 pc3, 161), (Instr.nbGather sp1 pc3, 162),
      (Instr.nbGred sp1 pc3, 163), (Instr.nbAxpy sp1 pc3, 164), (Instr.nbNorm sp1 pc3, 165),
      (Instr.nbAttn sp1 pc3, 166), (Instr.nbAdam sp1 pc3, 167), (Instr.nbRowop sp1 pc3, 168),
      (Instr.nbBurnish sp1 pc3, 169)]
    ∧ seqOfOp sp1 pc3 167 ptd = none := by
  decide +kernel
/-- Obligations.NearBankCommandsIssueAndRun, clause 4.2. -/
theorem witness_nbAdam : running (nbO 167 SeqSt.waiting) = true
    ∧ (Instr.nbAdam sp1 pc3, 167) ∈ [(Instr.nbGemv sp1 pc3, 161), (Instr.nbGather sp1 pc3, 162),
      (Instr.nbGred sp1 pc3, 163), (Instr.nbAxpy sp1 pc3, 164), (Instr.nbNorm sp1 pc3, 165),
      (Instr.nbAttn sp1 pc3, 166), (Instr.nbAdam sp1 pc3, 167), (Instr.nbRowop sp1 pc3, 168),
      (Instr.nbBurnish sp1 pc3, 169)]
    ∧ seqOfOp sp1 pc3 167 (nbO 167 SeqSt.waiting) = some (sqb 167 SeqSt.waiting) := by
  decide +kernel
/-- Obligations.NearBankCommandsIssueAndRun, clause 4.1. -/
theorem witness_nbRowop_none : running ptd = true
    ∧ (Instr.nbRowop sp1 pc3, 168) ∈ [(Instr.nbGemv sp1 pc3, 161), (Instr.nbGather sp1 pc3, 162),
      (Instr.nbGred sp1 pc3, 163), (Instr.nbAxpy sp1 pc3, 164), (Instr.nbNorm sp1 pc3, 165),
      (Instr.nbAttn sp1 pc3, 166), (Instr.nbAdam sp1 pc3, 167), (Instr.nbRowop sp1 pc3, 168),
      (Instr.nbBurnish sp1 pc3, 169)]
    ∧ seqOfOp sp1 pc3 168 ptd = none := by
  decide +kernel
/-- Obligations.NearBankCommandsIssueAndRun, clause 4.2. -/
theorem witness_nbRowop : running (nbO 168 SeqSt.waiting) = true
    ∧ (Instr.nbRowop sp1 pc3, 168) ∈ [(Instr.nbGemv sp1 pc3, 161), (Instr.nbGather sp1 pc3, 162),
      (Instr.nbGred sp1 pc3, 163), (Instr.nbAxpy sp1 pc3, 164), (Instr.nbNorm sp1 pc3, 165),
      (Instr.nbAttn sp1 pc3, 166), (Instr.nbAdam sp1 pc3, 167), (Instr.nbRowop sp1 pc3, 168),
      (Instr.nbBurnish sp1 pc3, 169)]
    ∧ seqOfOp sp1 pc3 168 (nbO 168 SeqSt.waiting) = some (sqb 168 SeqSt.waiting) := by
  decide +kernel
/-- Obligations.NearBankCommandsIssueAndRun, clause 4.1. -/
theorem witness_nbBurnish_none : running ptd = true
    ∧ (Instr.nbBurnish sp1 pc3, 169) ∈ [(Instr.nbGemv sp1 pc3, 161), (Instr.nbGather sp1 pc3, 162),
      (Instr.nbGred sp1 pc3, 163), (Instr.nbAxpy sp1 pc3, 164), (Instr.nbNorm sp1 pc3, 165),
      (Instr.nbAttn sp1 pc3, 166), (Instr.nbAdam sp1 pc3, 167), (Instr.nbRowop sp1 pc3, 168),
      (Instr.nbBurnish sp1 pc3, 169)]
    ∧ seqOfOp sp1 pc3 169 ptd = none := by
  decide +kernel
/-- Obligations.NearBankCommandsIssueAndRun, clause 4.2. -/
theorem witness_nbBurnish : running (nbO 169 SeqSt.waiting) = true
    ∧ (Instr.nbBurnish sp1 pc3, 169) ∈ [(Instr.nbGemv sp1 pc3, 161), (Instr.nbGather sp1 pc3, 162),
      (Instr.nbGred sp1 pc3, 163), (Instr.nbAxpy sp1 pc3, 164), (Instr.nbNorm sp1 pc3, 165),
      (Instr.nbAttn sp1 pc3, 166), (Instr.nbAdam sp1 pc3, 167), (Instr.nbRowop sp1 pc3, 168),
      (Instr.nbBurnish sp1 pc3, 169)]
    ∧ seqOfOp sp1 pc3 169 (nbO 169 SeqSt.waiting) = some (sqb 169 SeqSt.waiting) := by
  decide +kernel
/-- Obligations.NearBankCommandsIssueAndRun, clause 4.2. -/
theorem witness_nbNorm_running : running nbD = true
    ∧ (Instr.nbNorm sp1 pc3, 165) ∈ [(Instr.nbGemv sp1 pc3, 161), (Instr.nbGather sp1 pc3, 162),
      (Instr.nbGred sp1 pc3, 163), (Instr.nbAxpy sp1 pc3, 164), (Instr.nbNorm sp1 pc3, 165),
      (Instr.nbAttn sp1 pc3, 166), (Instr.nbAdam sp1 pc3, 167), (Instr.nbRowop sp1 pc3, 168),
      (Instr.nbBurnish sp1 pc3, 169)]
    ∧ seqOfOp sp1 pc3 165 nbD = some sqs := by
  decide +kernel

end W16

namespace W17

/-! Serving. -/
/-- A request with 8 prompt tokens. -/
def rq (idx : Nat) (st : ReqSt) (kv : KvSt) (copied : Bool) : Req :=
  ⟨idx, 2, 1, 4, 77, 0, 0, 0, 0, 0, 1, false, false, 16, none, 4096, 8, 8192, 0, st, kv, copied, 8, 8, 0, false, false, [5, 6], [],
    [], 0, none, 0, 0⟩
def grp (gen : Bool) : Group := ⟨gen, 0, 2, 4, 65536, 0, [], 0, [], [], false, false, 0⟩
/-- The same group after a step with the request of index 3, of which a work item ended with an error. -/
def grpE (gen : Bool) : Group := { grp gen with step := [(0, 3, 1, false)], fired := [(1, 0, 40)], err := true }
/-- The same where a firing of the step was dropped. -/
def grpN (gen : Bool) : Group := { grp gen with step := [(0, 3, 1, false)], notRun := true }
/-- An entry of a group: of kind 1 for steps and 2 for prompts. -/
def ge (kind bind : Nat) : SEntry := ⟨2, 1000, 1, kind, false, 4096, 8, 1, 0, 0, bind, false, false⟩
/-- Two groups and some requests. -/
def srv1 (l : List Req) : State :=
  { ptd with srv := { ptd.srv with models := [(0, ⟨0, 0, 0, 0, 0⟩)], groups := [(1, grp true), (2, grp false)], reqs := l } }
def rq3 (kv : KvSt) (copied : Bool) : Req := rq 3 .ready kv copied
def rqP : Req := { rq 4 .prompt .resident false with fed := 4, len := 4 }
/-- The entries of both groups on span 1. -/
def srv2 : State := putSched (srv1 [rq3 .resident false, rqP]) 1 ⟨[ge 1 1, ge 2 2], [], [], []⟩
def srvG (x y : Group) : State :=
  let s := srv1 [rq3 .resident false, rqP]
  { s with srv := { s.srv with groups := [(1, x), (2, y)] } }
/-- Obligations.ServingPreparesStepsAndSwapsPages, clause 1. -/
theorem witness_stepPrepare : running srv2 = true ∧ prepareReady 1 true srv2 = true
    ∧ getGroup srv2 1 = some (grp true) := by
  decide +kernel
/-- Obligations.ServingPreparesStepsAndSwapsPages, clause 1. -/
theorem witness_fillPrepare : running srv2 = true ∧ prepareReady 2 false srv2 = true
    ∧ getGroup srv2 2 = some (grp false) := by
  decide +kernel
/-- Obligations.ServingPreparesStepsAndSwapsPages, clause 1. -/
theorem witness_stepPrepare_failed : running (srvG (grpE true) (grp false)) = true
    ∧ prepareReady 1 true (srvG (grpE true) (grp false)) = true
    ∧ getGroup (srvG (grpE true) (grp false)) 1 = some (grpE true) := by
  decide +kernel
/-- Obligations.ServingPreparesStepsAndSwapsPages, clause 1. -/
theorem witness_fillPrepare_notRun : running (srvG (grp true) (grpN false)) = true
    ∧ prepareReady 2 false (srvG (grp true) (grpN false)) = true
    ∧ getGroup (srvG (grp true) (grpN false)) 2 = some (grpN false) := by
  decide +kernel
/-- Obligations.ServingPreparesStepsAndSwapsPages, clause 2.1. -/
theorem witness_kvSwapOut : running (srv1 [rq3 KvSt.swappingOut false]) = true
    ∧ getReq (srv1 [rq3 KvSt.swappingOut false]) 3 = some (rq3 KvSt.swappingOut false)
    ∧ kvSwapOutReady 3 (srv1 [rq3 KvSt.swappingOut false]) = true := by
  decide +kernel
/-- Obligations.ServingPreparesStepsAndSwapsPages, clause 2.2. -/
theorem witness_kvSwapOutDone : running (srv1 [rq3 KvSt.swappingOut true]) = true
    ∧ getReq (srv1 [rq3 KvSt.swappingOut true]) 3 = some (rq3 KvSt.swappingOut true)
    ∧ kvSwapOutDoneReady 3 (srv1 [rq3 KvSt.swappingOut true]) = true := by
  decide +kernel
/-- Obligations.ServingPreparesStepsAndSwapsPages, clause 2.3. -/
theorem witness_kvSwapIn : running (srv1 [rq3 KvSt.swapped false]) = true
    ∧ getReq (srv1 [rq3 KvSt.swapped false]) 3 = some (rq3 KvSt.swapped false)
    ∧ (rq3 KvSt.swapped false).kv = KvSt.swapped ∧ atBoundary (srv1 [rq3 KvSt.swapped false]) = true := by
  decide +kernel
/-- Obligations.ServingPreparesStepsAndSwapsPages, clause 2.4. -/
theorem witness_kvSwapInDone : running (srv1 [rq3 KvSt.swappingIn false]) = true
    ∧ getReq (srv1 [rq3 KvSt.swappingIn false]) 3 = some (rq3 KvSt.swappingIn false)
    ∧ (rq3 KvSt.swappingIn false).kv = KvSt.swappingIn := by
  decide +kernel

end W17

namespace W18

/-! The schedule. -/
/-- An entry of core 3 for context 1: kind, EPOCHW, stopped. -/
def se (kind : Nat) (epochw stopped : Bool) : SEntry := ⟨2, 1000, 1, kind, epochw, 4096, 8, 1, 0, 0, 1, stopped, false⟩
/-- Context 1 with its record on span 1, and a running clock in work frame 7, with an entry on span 1, deferred firings and armed entries. -/
def ptr : State := { ptd with cx := { ptd.cx with recs := [((1, 1), ⟨0xFF, 0, 0, [], .store, [], [], []⟩)] } }
def fr (e : SEntry) (dfr : List (Nat × Nat × Nat)) (arm : Nat) : State :=
  setF (setF (setF (setF { putSched ptr 1 ⟨[e], [], dfr, []⟩ with tick := 500 } fFrameStatusState pgFrame 1)
    fFrameWorkValue pgFrame 7) fFrameStartValue pgFrame 100) fSchedArmArm (pgSched 1) arm
def many : List (Nat × Nat × Nat) := List.replicate 16 (0, 3, 40)
/-- Obligations.ScheduleEntriesFireOrAreDeferred, clause 1.1. -/
theorem witness_entryFire_stopped : running (fr (se 0 false true) [] 0) = true
    ∧ entryFireReady sp1 0 (fr (se 0 false true) [] 0) = true
    ∧ (getSched (fr (se 0 false true) [] 0) sp1.val).active[0]? = some (se 0 false true)
    ∧ entryDead (fr (se 0 false true) [] 0) (sp1.val) (se 0 false true) = true := by
  decide +kernel
/-- The same clock where the context has no record on the span. -/
def frN : State := let s := fr (se 0 false false) [] 0
  { s with cx := { s.cx with recs := [] } }
/-- Obligations.ScheduleEntriesFireOrAreDeferred, clause 1.1. -/
theorem witness_entryFire_norecord : running frN = true ∧ entryFireReady sp1 0 frN = true
    ∧ (getSched frN sp1.val).active[0]? = some (se 0 false false) ∧ entryDead frN (sp1.val) (se 0 false false) = true := by
  decide +kernel
/-- Obligations.ScheduleEntriesFireOrAreDeferred, clause 1.2. -/
theorem witness_entryFire_notArmed : running (fr (se 1 false false) [] 0) = true
    ∧ entryFireReady sp1 0 (fr (se 1 false false) [] 0) = true
    ∧ (getSched (fr (se 1 false false) [] 0) sp1.val).active[0]? = some (se 1 false false)
    ∧ entryDead (fr (se 1 false false) [] 0) (sp1.val) (se 1 false false) = false ∧ ((se 1 false false).kind ≠ 0)
    ∧ entryArmed (fr (se 1 false false) [] 0) (sp1.val) 0 = false := by
  decide +kernel
/-- Obligations.ScheduleEntriesFireOrAreDeferred, clause 1.3.1.1. -/
theorem witness_entryFire_deferred : running (fr (se 1 false false) [(0, 3, 40)] 1) = true
    ∧ entryFireReady sp1 0 (fr (se 1 false false) [(0, 3, 40)] 1) = true
    ∧ (getSched (fr (se 1 false false) [(0, 3, 40)] 1) sp1.val).active[0]? = some (se 1 false false)
    ∧ entryDead (fr (se 1 false false) [(0, 3, 40)] 1) (sp1.val) (se 1 false false) = false
    ∧ ((se 1 false false).kind = 0 ∨ entryArmed (fr (se 1 false false) [(0, 3, 40)] 1) (sp1.val) 0 = true)
    ∧ (entryDeferred (fr (se 1 false false) [(0, 3, 40)] 1) (sp1.val) 0 ≠ [] ∨ firingHeld (fr (se 1 false false) [(0, 3, 40)] 1) (sp1.val) 0 (se 1 false false) = true)
    ∧ (entryDeferred (fr (se 1 false false) [(0, 3, 40)] 1) (sp1.val) 0).length < 16 := by
  decide +kernel
/-- Obligations.ScheduleEntriesFireOrAreDeferred, clause 1.3.1.2. -/
theorem witness_entryFire_overflow : running (fr (se 0 false false) many 1) = true
    ∧ entryFireReady sp1 0 (fr (se 0 false false) many 1) = true
    ∧ (getSched (fr (se 0 false false) many 1) sp1.val).active[0]? = some (se 0 false false)
    ∧ entryDead (fr (se 0 false false) many 1) (sp1.val) (se 0 false false) = false
    ∧ ((se 0 false false).kind = 0 ∨ entryArmed (fr (se 0 false false) many 1) (sp1.val) 0 = true)
    ∧ (entryDeferred (fr (se 0 false false) many 1) (sp1.val) 0 ≠ [] ∨ firingHeld (fr (se 0 false false) many 1) (sp1.val) 0 (se 0 false false) = true)
    ∧ 16 ≤ (entryDeferred (fr (se 0 false false) many 1) (sp1.val) 0).length := by
  decide +kernel
/-- Obligations.ScheduleEntriesFireOrAreDeferred, clause 1.3.2. -/
theorem witness_entryFire : running (fr (se 1 false false) [] 1) = true
    ∧ entryFireReady sp1 0 (fr (se 1 false false) [] 1) = true
    ∧ (getSched (fr (se 1 false false) [] 1) sp1.val).active[0]? = some (se 1 false false)
    ∧ entryDead (fr (se 1 false false) [] 1) (sp1.val) (se 1 false false) = false
    ∧ ((se 1 false false).kind = 0 ∨ entryArmed (fr (se 1 false false) [] 1) (sp1.val) 0 = true)
    ∧ entryDeferred (fr (se 1 false false) [] 1) (sp1.val) 0 = []
    ∧ firingHeld (fr (se 1 false false) [] 1) (sp1.val) 0 (se 1 false false) = false := by
  decide +kernel
/-- Obligations.ScheduleEntriesFireOrAreDeferred, clause 2.1. -/
theorem witness_deferredFire_stopped : running (fr (se 0 false true) [(0, 3, 40)] 0) = true
    ∧ deferredFireReady sp1 0 (fr (se 0 false true) [(0, 3, 40)] 0) = true
    ∧ (getSched (fr (se 0 false true) [(0, 3, 40)] 0) sp1.val).active[0]? = some (se 0 false true)
    ∧ entryDeferred (fr (se 0 false true) [(0, 3, 40)] 0) (sp1.val) 0 = [(0, 3, 40)]
    ∧ entryDead (fr (se 0 false true) [(0, 3, 40)] 0) (sp1.val) (se 0 false true) = true := by
  decide +kernel
/-- Obligations.ScheduleEntriesFireOrAreDeferred, clause 2.2. -/
theorem witness_deferredFire : running (fr (se 0 false false) [(0, 3, 40)] 0) = true
    ∧ deferredFireReady sp1 0 (fr (se 0 false false) [(0, 3, 40)] 0) = true
    ∧ (getSched (fr (se 0 false false) [(0, 3, 40)] 0) sp1.val).active[0]? = some (se 0 false false)
    ∧ entryDeferred (fr (se 0 false false) [(0, 3, 40)] 0) (sp1.val) 0 = [(0, 3, 40)]
    ∧ entryDead (fr (se 0 false false) [(0, 3, 40)] 0) (sp1.val) (se 0 false false) = false := by
  decide +kernel
/-- The clock at the start of cadence frame 3, which is a work frame under duty 16 and an idle one under 0. -/
def fk (stop : Bool) (duty : Nat) : State :=
  let s := setF (setF (setF r0 fFrameStatusState pgFrame 1) fFrameIdleDutyEff pgFrame duty) fFrameStatusIdle pgFrame 1
  { s with tick := 3000000, sch := { s.sch with stopReq := stop, nextK := 3, nextWork := 9, spans := [(1, ⟨[], [se 0 false false], [], []⟩)] } }
/-- Obligations.FrameClockRunsTheTables, clause 1.1. -/
theorem witness_frameStart_stop : running (fk true 16) = true ∧ frameStartReady (fk true 16) = true
    ∧ (fk true 16).sch.stopReq = true := by
  decide +kernel
/-- Obligations.FrameClockRunsTheTables, clause 1.2. -/
theorem witness_frameStart : running (fk false 16) = true ∧ frameStartReady (fk false 16) = true
    ∧ (fk false 16).sch.stopReq = false := by
  decide +kernel
/-- Obligations.FrameClockRunsTheTables, clause 1.2. -/
theorem witness_frameStart_idle : running (fk false 0) = true ∧ frameStartReady (fk false 0) = true
    ∧ (fk false 0).sch.stopReq = false := by
  decide +kernel
def fkAct : State := setB (setF (fk false 16) fFrameActAtCadence pgFrame 3) fFrameStatusActPend pgFrame true
/-- Obligations.FrameClockRunsTheTables, clause 1.2. -/
theorem witness_frameStart_tables : running fkAct = true ∧ frameStartReady fkAct = true ∧ fkAct.sch.stopReq = false := by
  decide +kernel
def busyV : State := setB r0 fSchedVstatBusy (pgSched 1) true
/-- Obligations.FrameClockRunsTheTables, clause 2.1. -/
theorem witness_schedLoad_busy : running busyV = true ∧ accepted busyV (pgSched sp1.val) 4
    ∧ spanDown busyV sp1.val = false ∧ getB busyV fSchedVstatBusy (pgSched sp1.val) = true := by
  unfold accepted; decide +kernel
/-- Obligations.FrameClockRunsTheTables, clause 2.2. -/
theorem witness_schedLoad : running r0 = true ∧ accepted r0 (pgSched sp1.val) 4 ∧ spanDown r0 sp1.val = false
    ∧ getB r0 fSchedVstatBusy (pgSched sp1.val) = false := by
  unfold accepted; decide +kernel
def wd0 : Fin 64 := 0
def frE : State := fr (se 0 true false) [] 4
def frP : State := { frE with srv := { frE.srv with models := [(1, ⟨0, 0, 0, 3, 0⟩)], reqs := [⟨3, 2, 1, 4, 77, 1, 0, 0, 2, 0, 1, false, false, 16, none, 4096, 8, 8192, 0, .ready, .resident, false, 8, 8, 0, false, false, [5], [], [], 0, none, 0, 0⟩] } }
def frQ : State := setF (setF frE fOwnReinClaimHolder pgOwn 2) fLcsStatusStage pgLcs 5
/-- Obligations.FrameClockRunsTheTables, clause 2.3.1. -/
theorem witness_schedArm_master : running frQ = true ∧ accepted frQ (pgSched sp1.val) 2
    ∧ spanDown frQ sp1.val = false ∧ (2 ≠ 4) := by
  unfold accepted; decide +kernel
/-- Obligations.FrameClockRunsTheTables, clause 2.3.2. -/
theorem witness_schedArm : running frP = true ∧ accepted frP (pgSched sp1.val) 4 ∧ spanDown frP sp1.val = false
    ∧ 4 = 4 := by
  unfold accepted; decide +kernel
/-- An image of one entry at device address 4096, and one that names no kernel. -/
def img (kernel : Nat) : State :=
  let l := [2 + 2 ^ 27 * 1000, kernel, 8 + 2 ^ 16, 0]
  setF (setF { busyV with memo := { busyV.memo with mem := cellWrite [] 4096 (wbytes l) } } fSchedTableBase (pgSched 1) 1)
    fSchedCountEntries (pgSched 1) 1
/-- Context 1 has a record on span 1. -/
def imgOk : State := { img 64 with cx := { (img 64).cx with recs := [((1, 1), ⟨0xFF, 0, 0, [], .store, [], [], []⟩)] } }
/-- Obligations.FrameClockRunsTheTables, clause 3. -/
theorem witness_validate_staged : running imgOk = true ∧ getB imgOk fSchedVstatBusy (pgSched sp1.val) = true
    ∧ imageCheck (sp1.val) (4096 * getF imgOk fSchedTableBase (pgSched sp1.val)) (getF imgOk fSchedCountEntries (pgSched sp1.val)) (getF imgOk fSchedCountEntries (pgSched sp1.val)) imgOk [] = ((0, 0, [{ start := 2, budget := 1000, phase := 0, kind := 0, epochw := false, kernel := 64, coreMask := 8, ctx := 1, seedVal := 0, seedMask := 0, bind := 0, stopped := false, stopNext := false : SEntry }]), (imageCheck 1 4096 1 1 imgOk []).snd) := by
  decide +kernel
/-- Obligations.FrameClockRunsTheTables, clause 3. -/
theorem witness_validate : running (img 64) = true ∧ getB (img 64) fSchedVstatBusy (pgSched sp1.val) = true
    ∧ imageCheck (sp1.val) (4096 * getF (img 64) fSchedTableBase (pgSched sp1.val)) (getF (img 64) fSchedCountEntries (pgSched sp1.val)) (getF (img 64) fSchedCountEntries (pgSched sp1.val)) (img 64) [] = ((6, 0, []), (imageCheck 1 4096 1 1 (img 64) []).snd) := by
  decide +kernel
/-- Obligations.FrameClockRunsTheTables, clause 3. -/
theorem witness_validate_field : running (img 0) = true ∧ getB (img 0) fSchedVstatBusy (pgSched sp1.val) = true
    ∧ imageCheck (sp1.val) (4096 * getF (img 0) fSchedTableBase (pgSched sp1.val)) (getF (img 0) fSchedCountEntries (pgSched sp1.val)) (getF (img 0) fSchedCountEntries (pgSched sp1.val)) (img 0) [] = ((3, 0, []), (imageCheck 1 4096 1 1 (img 0) []).snd) := by
  decide +kernel
def stg : State := (List.range 8).foldl (fun s sp => setB s fSchedVstatStaged (pgSched sp) true) r0
/-- Obligations.FrameClockRunsTheTables, clause 4.1.1. -/
theorem witness_frameActivate : running stg = true ∧ accepted stg pgFrame 4
    ∧ ((schedSpans stg).all fun sp => getB stg fSchedVstatStaged (pgSched sp)) = true := by
  unfold accepted; decide +kernel
/-- Obligations.FrameClockRunsTheTables, clause 4.1.2. -/
theorem witness_frameActivate_none : running r0 = true ∧ accepted r0 pgFrame 4
    ∧ ((schedSpans r0).all fun sp => getB r0 fSchedVstatStaged (pgSched sp)) = false := by
  unfold accepted; decide +kernel
/-- Obligations.FrameClockRunsTheTables, clause 4.2. -/
theorem witness_frameStop : running frE = true ∧ accepted frE pgFrame 4 ∧ frameRunning frE = true := by
  unfold accepted; decide +kernel
/-- Obligations.FrameClockRunsTheTables, clause 4.3.1. -/
theorem witness_frameStop_stopped : running r0 = true ∧ accepted r0 pgFrame 4 ∧ frameRunning r0 = false := by
  unfold accepted; decide +kernel
def late1 : State := { r0 with tick := 12345 }
def tight : State := setF (putSched r0 1 ⟨[se 0 false false], [], [], []⟩) fFramePeriodPeriod pgFrame 1001
/-- Obligations.FrameClockRunsTheTables, clause 4.3.2. -/
theorem witness_clockStart_range : running tight = true ∧ accepted tight pgFrame 4 ∧ frameRunning tight = false
    ∧ (tablesFit tight = false ∨ lockedMode tight = true ∧ clusterReady tight = false) := by
  unfold accepted; decide +kernel
/-- Obligations.FrameClockRunsTheTables, clause 4.3.3. -/
theorem witness_clockStart : running late1 = true ∧ accepted late1 pgFrame 4 ∧ frameRunning late1 = false
    ∧ tablesFit late1 = true ∧ (lockedMode late1 = true → clusterReady late1 = true) := by
  unfold accepted; decide +kernel

end W18

namespace W19

/-! Contexts. -/
/-- A context without a window. -/
def cx0 : Ctx := { cx1 with win := 0 }
def pt0 : State := { ptd with cx := { ptd.cx with ctxs := [(1, cx0)] } }
def rec1 (tier : Tier) (parts : List (Nat × CorePart)) : CtxRec := ⟨0xFF, 1048576, 0, [], tier, [], parts, []⟩
def withRec (s : State) (r : CtxRec) : State := { s with cx := { s.cx with recs := [((1, 1), r)] } }
def res1 : State := withRec (inSlot pt0 1 []) (rec1 .store [])
def partT : CorePart := { newPart with tallies := [(5, 9)], preds := 3, winRetained := true, winBase := 2 }
def st1 : State := withRec pt0 (rec1 .store [(2, partT)])
/-- Obligations.ContextsSwitchFaultAndInvalidate, clause 1.1. -/
theorem witness_ctxEvict_range : running pt0 = true ∧ accepted pt0 (pgCtxs sp1.val) 4
    ∧ evictRejects sp1 co2 sl0 pt0 = some Rej.range := by
  unfold accepted; decide +kernel
/-- Obligations.ContextsSwitchFaultAndInvalidate, clause 1.3. -/
theorem witness_ctxEvict : running res1 = true ∧ accepted res1 (pgCtxs sp1.val) 4
    ∧ evictRejects sp1 co2 sl0 res1 = none
    ∧ (4 = 4 → pinned res1 (sp1.val) (co2.val) (slotCtx res1 (slotKey sp1.val co2.val sl0.val)) = false)
    ∧ (getSlot res1 (slotKey sp1.val co2.val sl0.val)).ctx = some 1
    ∧ getRec res1 (sp1.val) 1 = some (rec1 Tier.store [])
    ∧ (∀ (q : Queue), q ∈ (getSlot res1 (slotKey sp1.val co2.val sl0.val)).part.queues → q.cmds = [] ∧ q.pend = none) := by
  unfold accepted; decide +kernel
/-- In locked cadence an active entry names the context and the core. -/
def resPin : State := setF (putSched res1 1 ⟨[⟨2, 1000, 1, 0, false, 4096, 4, 1, 0, 0, 0, false, false⟩], [], [], []⟩) fFrameCtrlMode pgFrame 1
/-- Obligations.ContextsSwitchFaultAndInvalidate, clause 1.2. -/
theorem witness_ctxEvict_pinned : running resPin = true ∧ accepted resPin (pgCtxs sp1.val) 4
    ∧ evictRejects sp1 co2 sl0 resPin = none ∧ 4 = 4
    ∧ pinned resPin (sp1.val) (co2.val) (slotCtx resPin (slotKey sp1.val co2.val sl0.val)) = true := by
  unfold accepted; decide +kernel
/-- Obligations.ContextsSwitchFaultAndInvalidate, clause 1.3. -/
theorem witness_ctxEvict_save : running res1 = true ∧ accepted res1 (pgCtxs sp1.val) 4
    ∧ evictRejects sp1 co2 sl0 res1 = none
    ∧ (4 = 4 → pinned res1 (sp1.val) (co2.val) (slotCtx res1 (slotKey sp1.val co2.val sl0.val)) = false)
    ∧ (getSlot res1 (slotKey sp1.val co2.val sl0.val)).ctx = some 1
    ∧ getRec res1 (sp1.val) 1 = some (rec1 Tier.store [])
    ∧ (∀ (q : Queue), q ∈ (getSlot res1 (slotKey sp1.val co2.val sl0.val)).part.queues → q.cmds = [] ∧ q.pend = none) := by
  unfold accepted; decide +kernel
def busyC : State := setB st1 fCtxsStatusBusy (pgCtxs 1) true
/-- Obligations.ContextsSwitchFaultAndInvalidate, clause 2.1. -/
theorem witness_ctxSwitch_busy : running busyC = true ∧ accepted busyC (pgCtxs sp1.val) 4
    ∧ (getB busyC fCtxsStatusBusy (pgCtxs sp1.val) = true ∨ coreSliced busyC sp1.val co2.val = true) := by
  unfold accepted; decide +kernel
def goneC : State := { st1 with core := { st1.core with absent := [(18, 1)] } }
/-- Obligations.ContextsSwitchFaultAndInvalidate, clause 2.2.1. -/
theorem witness_ctxSwitch_absent : running goneC = true ∧ accepted goneC (pgCtxs sp1.val) 4
    ∧ getB goneC fCtxsStatusBusy (pgCtxs sp1.val) = false ∧ coreSliced goneC sp1.val co2.val = false
    ∧ coreAbsent goneC sp1.val co2.val = true := by
  unfold accepted; decide +kernel
/-- Obligations.ContextsSwitchFaultAndInvalidate, clause 2.2.2. -/
theorem witness_ctxSwitch_range : running st1 = true ∧ accepted st1 (pgCtxs sp1.val) 4
    ∧ getB st1 fCtxsStatusBusy (pgCtxs sp1.val) = false ∧ coreSliced st1 sp1.val co2.val = false
    ∧ coreAbsent st1 sp1.val co2.val = false ∧ switchFits sp1 co2 sl0 1 3 st1 = false := by
  unfold accepted; decide +kernel
/-- Obligations.ContextsSwitchFaultAndInvalidate, clause 2.2.3. -/
theorem witness_ctxSwitch : running st1 = true ∧ accepted st1 (pgCtxs sp1.val) 4
    ∧ getB st1 fCtxsStatusBusy (pgCtxs sp1.val) = false ∧ coreSliced st1 sp1.val co2.val = false
    ∧ coreAbsent st1 sp1.val co2.val = false ∧ switchFits sp1 co2 sl0 1 2 st1 = true
    ∧ getRec st1 (sp1.val) 1 = some (rec1 Tier.store [(2, partT)]) ∧ getCtx st1 1 = some cx0 := by
  unfold accepted; decide +kernel
def recP : CtxRec := { rec1 .swapped [(2, partT)] with pend := [((2, 5), 4), ((3, 1), 2)] }
/-- A record parked at tick 5. -/
def lateRec (k : Nat) : (Nat × Nat) × CtxRec := ((1, k), { rec1 .store [] with parkedAt := [(0, 5)] })
/-- The span holds a record more than the store has room for. -/
def st512 : State := { st1 with cx := { st1.cx with recs := st1.cx.recs ++ ((List.range 512).map (· + 2)).map lateRec } }
theorem fold_first (x : (Nat × Nat) × CtxRec) (l : List Nat) (h : parkedTick x.2 ≤ 5) :
    (l.map lateRec).foldl (fun a b => if parkedTick b.2 < parkedTick a.2 then b else a) x = x := by
  induction l with
  | nil => rfl
  | cons k l ih =>
    have hk : ¬ parkedTick (lateRec k).2 < parkedTick x.2 := by
      have : parkedTick (lateRec k).2 = 5 := by simp [lateRec, parkedTick]
      omega
    simp only [List.map_cons, List.foldl_cons, if_neg hk, ih]
theorem filter_late (p : (Nat × Nat) × CtxRec → Bool) (l : List Nat) (h : ∀ k ∈ l, p (lateRec k) = true) :
    (l.map lateRec).filter p = l.map lateRec := by
  rw [List.filter_eq_self]
  intro x hx
  obtain ⟨k, hk, rfl⟩ := List.mem_map.mp hx
  exact h k hk
theorem resident_none (s : State) (h : s.core.slots = []) (sp k : Nat) : residentCores s sp k = [] := by
  simp [residentCores, residentSlot, getSlot, look, h, emptySlot]
theorem ready512 : recordSwapOutReady sp1 1 st512 = true := by
  have hs : st512.core.slots = [] := rfl
  have hl : st512.cx.recs = ((1, 1), rec1 .store [(2, partT)]) :: ((List.range 512).map (· + 2)).map lateRec := by
    unfold st512; rfl
  generalize hL : (List.range 512).map (· + 2) = L at hl
  have hn : L.length = 512 := by rw [← hL]; simp
  have f1 := filter_late (fun p => p.1.1 == 1) L (fun _ _ => rfl)
  have f2 := filter_late (fun p => p.1.1 == 1 && p.2.tier == .store && true) L (fun _ _ => rfl)
  have hx : parkedTick (rec1 .store [(2, partT)]) ≤ 5 := by decide
  have f3 := fold_first ((1, 1), rec1 .store [(2, partT)]) L hx
  have e1 : ((1 : Fin 8) : Nat) = 1 := rfl
  simp only [recordSwapOutReady, oldestParked, hl, resident_none st512 hs, List.filter_cons, sp1, e1, List.isEmpty_nil, f1, f2]
  simp [hn, f3, rec1] at f3 ⊢
/-- Obligations.ContextsSwitchFaultAndInvalidate, clause 3.1. -/
theorem witness_recordSwapOut : running st512 = true ∧ getRec st512 (sp1.val) 1 = some (rec1 Tier.store [(2, partT)])
    ∧ recordSwapOutReady sp1 1 st512 = true :=
  ⟨by decide +kernel, rfl, ready512⟩
/-- Obligations.ContextsSwitchFaultAndInvalidate, clause 3.2. -/
theorem witness_recordSwapIn : running (withRec pt0 recP) = true ∧ getRec (withRec pt0 recP) (sp1.val) 1 = some recP
    ∧ recordSwapInReady sp1 1 (withRec pt0 recP) = true := by
  decide +kernel
def recR : CtxRec := { rec1 .store [(2, partT)] with runnable := 4, runSince := [(2, 10)] }
def stall0 : State := { withRec pt0 recR with tick := 9000000 }
/-- Obligations.ContextsSwitchFaultAndInvalidate, clause 4.1. -/
theorem witness_residentStall : running stall0 = true ∧ residentStallReady sp1 co2 stall0 = true := by
  decide +kernel
def stall1 : State := setF stall0 fCtxsStallPend (pgCtxs 1) 4
def stall2 : State := setF r0 fCtxsStallPend (pgCtxs 1) 4
/-- Obligations.ContextsSwitchFaultAndInvalidate, clause 4.2.1. -/
theorem witness_stallResponse_none : running stall2 = true
    ∧ bitAt (getF stall2 fCtxsStallPend (pgCtxs sp1.val)) co2.val = true ∧ runChoice stall2 sp1.val co2.val = none := by
  decide +kernel
/-- Obligations.ContextsSwitchFaultAndInvalidate, clause 4.2.2. -/
theorem witness_stallResponse : running stall1 = true
    ∧ bitAt (getF stall1 fCtxsStallPend (pgCtxs sp1.val)) co2.val = true
    ∧ runChoice stall1 sp1.val co2.val = some (1, recR)
    ∧ baseFor stall1 sp1.val co2.val (1, recR).fst (1, recR).snd = some 2
    ∧ List.find? (fun y => (getSlot stall1 (slotKey sp1.val co2.val y.val)).ctx.isNone) [0, 1, 2, 3] = some sl0
    ∧ switchFits sp1 co2 sl0 (1, recR).fst 2 stall1 = true := by
  decide +kernel
def pf : PFault := ⟨0, 1, 0, 5000, 1, 0, 0, 0⟩
def eng1 : Fin 5 := 1
def qPend : State := putSlot pt0 72 { emptySlot with ctx := some 1, part := partSetQueue newPart 1 { qRun [qc 0x60 0 0 0] with pend := some pf } }
/-- Obligations.ContextsSwitchFaultAndInvalidate, clause 5. -/
theorem witness_translationFault : running qPend = true
    ∧ faultNext (getQ qPend (slotKey sp1.val co2.val sl0.val) eng1.val) = some pf := by
  decide +kernel
def fr1 : FaultRec := ⟨1, 5, 2, 0, 1, 1, 0, 1, 0, 256, 1, 5000, 256, 0, 7⟩
def fq : State := setB (setF { pt0 with cx := { pt0.cx with faults := [(1, [fr1])] } } fXltFringBaseBase (pgXlt 1) 8) fXltFringCtrlEnable (pgXlt 1) true
/-- Obligations.ContextsSwitchFaultAndInvalidate, clause 6. -/
theorem witness_faultRecordWrite : running fq = true ∧ look fq.cx.faults sp1.val [] = [fr1]
    ∧ fringRoom fq sp1.val = true := by
  decide +kernel
def qFlt : Queue := { qRun [qc 0x60 0 0 0] with st := .fault, openFault := true }
def fltIn : State := putSlot pt0 72 { emptySlot with ctx := some 1, part := partSetQueue newPart 1 qFlt }
def e1 : Fin 4 := 1
/-- Obligations.ContextsSwitchFaultAndInvalidate, clause 7.1.1. -/
theorem witness_fresume : running fltIn = true ∧ accepted fltIn (pgXlt sp1.val) 4
    ∧ residentSlot fltIn (sp1.val) (co2.val) (1 % 4096) = some 0 := by
  unfold accepted; decide +kernel
/-- Obligations.ContextsSwitchFaultAndInvalidate, clause 7.1.2. -/
theorem witness_fresumeDiscard : running fltIn = true ∧ accepted fltIn (pgXlt sp1.val) 4
    ∧ residentSlot fltIn (sp1.val) (co2.val) (1 % 4096) = some 0 ∧ 2 = 2 ^ e1.val
    ∧ (getQ fltIn (slotKey (sp1.val) (co2.val) 0) e1.val).st = QState.fault := by
  unfold accepted; decide +kernel
def fltSt : State := withRec pt0 (rec1 .store [(2, partSetQueue newPart 1 qFlt)])
/-- Obligations.ContextsSwitchFaultAndInvalidate, clause 7.2.1. -/
theorem witness_fresume_stored : running fltSt = true ∧ accepted fltSt (pgXlt sp1.val) 4
    ∧ residentSlot fltSt (sp1.val) (co2.val) (1 % 4096) = none
    ∧ getRec fltSt (sp1.val) (1 % 4096) = some (rec1 Tier.store [(2, partSetQueue newPart 1 qFlt)])
    ∧ has (rec1 Tier.store [(2, partSetQueue newPart 1 qFlt)]).parts co2.val = true := by
  unfold accepted; decide +kernel
/-- Obligations.ContextsSwitchFaultAndInvalidate, clause 7.2.2. -/
theorem witness_fresumeDiscard_stored : running fltSt = true ∧ accepted fltSt (pgXlt sp1.val) 4
    ∧ residentSlot fltSt (sp1.val) (co2.val) (1 % 4096) = none
    ∧ getRec fltSt (sp1.val) (1 % 4096) = some (rec1 Tier.store [(2, partSetQueue newPart 1 qFlt)])
    ∧ has (rec1 Tier.store [(2, partSetQueue newPart 1 qFlt)]).parts co2.val = true := by
  unfold accepted; decide +kernel
/-- Obligations.ContextsSwitchFaultAndInvalidate, clause 8. -/
theorem witness_fringEnable : running pt0 = true ∧ accepted pt0 (pgXlt sp1.val) 4 := by
  unfold accepted; decide +kernel
def busyX : State := setB pt0 fXinvStatusBusy pgXinv true
/-- Obligations.ContextsSwitchFaultAndInvalidate, clause 9.1. -/
theorem witness_xinv_busy : running busyX = true ∧ accepted busyX pgXinv 4
    ∧ (Instr.xinvAsid 5 4, { kind := 1, asid := 5, va := 0, pages := 0 : XinvOp }) ∈ [(Instr.xinvRange 5 4, { kind := 0, asid := 5 % 4096, va := 4096 * getF busyX fXinvVaVa pgXinv, pages := getF busyX fXinvLenPages pgXinv : XinvOp }),
      (Instr.xinvAsid 5 4, { kind := 1, asid := 5 % 4096, va := 0, pages := 0 : XinvOp }),
      (Instr.xinvAll 4, { kind := 2, asid := 0, va := 0, pages := 0 : XinvOp })]
    ∧ getB busyX fXinvStatusBusy pgXinv = true := by
  unfold accepted; decide +kernel
/-- Obligations.ContextsSwitchFaultAndInvalidate, clause 9.2. -/
theorem witness_xinvRange : running pt0 = true ∧ accepted pt0 pgXinv 4
    ∧ (Instr.xinvRange 5 4, { kind := 0, asid := 5, va := 0, pages := 0 : XinvOp }) ∈ [(Instr.xinvRange 5 4, { kind := 0, asid := 5 % 4096, va := 4096 * getF pt0 fXinvVaVa pgXinv, pages := getF pt0 fXinvLenPages pgXinv : XinvOp }),
      (Instr.xinvAsid 5 4, { kind := 1, asid := 5 % 4096, va := 0, pages := 0 : XinvOp }),
      (Instr.xinvAll 4, { kind := 2, asid := 0, va := 0, pages := 0 : XinvOp })]
    ∧ getB pt0 fXinvStatusBusy pgXinv = false := by
  unfold accepted; decide +kernel
/-- Obligations.ContextsSwitchFaultAndInvalidate, clause 9.2. -/
theorem witness_xinvAsid : running pt0 = true ∧ accepted pt0 pgXinv 4
    ∧ (Instr.xinvAsid 5 4, { kind := 1, asid := 5, va := 0, pages := 0 : XinvOp }) ∈ [(Instr.xinvRange 5 4, { kind := 0, asid := 5 % 4096, va := 4096 * getF pt0 fXinvVaVa pgXinv, pages := getF pt0 fXinvLenPages pgXinv : XinvOp }),
      (Instr.xinvAsid 5 4, { kind := 1, asid := 5 % 4096, va := 0, pages := 0 : XinvOp }),
      (Instr.xinvAll 4, { kind := 2, asid := 0, va := 0, pages := 0 : XinvOp })]
    ∧ getB pt0 fXinvStatusBusy pgXinv = false := by
  unfold accepted; decide +kernel
/-- Obligations.ContextsSwitchFaultAndInvalidate, clause 9.2. -/
theorem witness_xinvAll : running pt0 = true ∧ accepted pt0 pgXinv 4
    ∧ (Instr.xinvAll 4, { kind := 2, asid := 0, va := 0, pages := 0 : XinvOp }) ∈ [(Instr.xinvRange 5 4, { kind := 0, asid := 5 % 4096, va := 4096 * getF pt0 fXinvVaVa pgXinv, pages := getF pt0 fXinvLenPages pgXinv : XinvOp }),
      (Instr.xinvAsid 5 4, { kind := 1, asid := 5 % 4096, va := 0, pages := 0 : XinvOp }),
      (Instr.xinvAll 4, { kind := 2, asid := 0, va := 0, pages := 0 : XinvOp })]
    ∧ getB pt0 fXinvStatusBusy pgXinv = false := by
  unfold accepted; decide +kernel
def xin : XinvOp := ⟨1, 5, 0, 0⟩
def inX : State := { busyX with cx := { busyX.cx with xinv := some (xin, 4), tlb := [⟨.micro 18 1, 5, 0, 4096, 29⟩, ⟨.span 1, 6, 0, 4096, 29⟩], tec := [⟨1, 5, 0, 0, 3⟩, ⟨1, 6, 0, 0, 3⟩] } }
/-- A stitch that began before the invalidation uses a page that it drops. -/
def inY : State := putPcc inX 67 { newPcc with seqs := [⟨4, false, 1, 2, 1, 3, 0, 0, 1, 9, 0, 4096, 0, 0, 0xA2, 0, 0, 0, [], [], [], [], 1,
  [⟨0, 0, .write, 1, 0, 1, evNone, 3, [(0, 65536, 29)]⟩], .running, 0, 0, 0, [], 0, false, 0, [], 0, [], 0, [], []⟩] }
/-- Obligations.ContextsSwitchFaultAndInvalidate, clause 10.1. -/
theorem witness_xinvDone_waits : running inY = true ∧ inY.cx.xinv = some (xin, 4) ∧ stitchesClear inY xin 4 = false := by
  decide +kernel
/-- Obligations.ContextsSwitchFaultAndInvalidate, clause 10.2. -/
theorem witness_xinvDone : running inX = true ∧ inX.cx.xinv = some (xin, 4) ∧ stitchesClear inX xin 4 = true := by
  decide +kernel
/-- A page of 4 KiB at virtual address 2 GiB, in memory at device address 65536. -/
def page4 : State := { pt0 with memo := { pt0.memo with mem := [(4096, 3), (4097, 32), (8208, 3), (8209, 48), (12288, 3), (12289, 64),
  (16384, 29), (16386, 1), (65536, 7)] }, cx := { pt0.cx with tlb := [⟨.core 18, 5, 2 ^ 31, 4096, 65565⟩] } }
/-- The same page inside a row-placed region. -/
def pageP : State := { page4 with cx := { page4.cx with placed := [⟨1, 2 ^ 31, 3, 0, 1⟩] } }
/-- Obligations.ContextsSwitchFaultAndInvalidate, clause 11. -/
theorem witness_pageMove_placed : getCtx pageP 1 = some cx0
    ∧ ctxLeaf pageP cx0 (2 ^ 31 + 5) = some (16384, 65565, 4096)
    ∧ rowPlaced pageP 1 ((2 ^ 31 + 5) / 4096 * 4096) 4096 = true := by
  decide +kernel
/-- Obligations.ContextsSwitchFaultAndInvalidate, clause 12. -/
theorem witness_pageMove : running page4 = true ∧ pageMoveReady 1 (2 ^ 31 + 5) 131072 page4 = true
    ∧ getCtx page4 1 = some cx0 ∧ ctxLeaf page4 cx0 (2 ^ 31 + 5) = some (16384, 65565, 4096) := by
  decide +kernel

end W19

namespace W20

/-! Links. -/
/-- A port in a state. -/
def zlIn (st : Nat) (x : ZlPort) : State := setF (putZl r0 p3 x) fZlStatusState (pgZl 3) st
/-- A header of a packet. -/
def pkSig : Pkt := [mkHead 3 0 7 9 0 0 5 70 0 3 0 0 0]
/-- A NEG packet of package 9. -/
def pkNeg (v pkg : Nat) : Pkt := [mkHead 7 0 0 9 2 0 0 0 0 0 0 0 0, v + 2 ^ 24 * pkg + 2 ^ 34 * 4 + 2 ^ 64 * (64 + 2 ^ 16 * 8), 0]
def zlBusy : ZlPort := { newZlPort with txq := [pkSig], sent := [(0, pkSig)], rx := [(1, pkSig)] }
/-- Obligations.PortsTrainRetrainAndFail, clause 1.1.1. -/
theorem witness_zlEnable_again : running (setB (zlIn 5 newZlPort) fZlCfgEnable (pgZl 3) true) = true
    ∧ accepted (setB (zlIn 5 newZlPort) fZlCfgEnable (pgZl 3) true) (pgZl p3.val) 4
    ∧ zlAbsent (setB (zlIn 5 newZlPort) fZlCfgEnable (pgZl 3) true) p3.val = false
    ∧ (zlState (setB (zlIn 5 newZlPort) fZlCfgEnable (pgZl 3) true) p3.val ≠ 0)
    ∧ getB (setB (zlIn 5 newZlPort) fZlCfgEnable (pgZl 3) true) fZlCfgEnable (pgZl p3.val) = true := by
  unfold accepted; decide +kernel
/-- Obligations.PortsTrainRetrainAndFail, clause 1.1.2. -/
theorem witness_zlEnable_quiesce : running (zlIn 5 newZlPort) = true ∧ accepted (zlIn 5 newZlPort) (pgZl p3.val) 4
    ∧ zlAbsent (zlIn 5 newZlPort) p3.val = false ∧ (zlState (zlIn 5 newZlPort) p3.val ≠ 0)
    ∧ (zlState (zlIn 5 newZlPort) p3.val ≠ 7) ∧ getB (zlIn 5 newZlPort) fZlCfgEnable (pgZl p3.val) = false := by
  unfold accepted; decide +kernel
/-- Obligations.PortsTrainRetrainAndFail, clause 1.1.3. -/
theorem witness_zlEnable : running (zlIn 0 newZlPort) = true ∧ accepted (zlIn 0 newZlPort) (pgZl p3.val) 4
    ∧ zlAbsent (zlIn 0 newZlPort) p3.val = false ∧ zlState (zlIn 0 newZlPort) p3.val = 0 := by
  unfold accepted; decide +kernel
/-- Obligations.PortsTrainRetrainAndFail, clause 1.1.4. -/
theorem witness_zlEnable_failed : running (zlIn 7 newZlPort) = true ∧ accepted (zlIn 7 newZlPort) (pgZl p3.val) 4
    ∧ zlAbsent (zlIn 7 newZlPort) p3.val = false ∧ zlState (zlIn 7 newZlPort) p3.val = 7 := by
  unfold accepted; decide +kernel
/-- Obligations.PortsTrainRetrainAndFail, clause 1.2.1. -/
theorem witness_zlRestart : running (zlIn 7 newZlPort) = true ∧ accepted (zlIn 7 newZlPort) (pgZl p3.val) 4
    ∧ zlAbsent (zlIn 7 newZlPort) p3.val = false ∧ zlState (zlIn 7 newZlPort) p3.val = 7 := by
  unfold accepted; decide +kernel
/-- Obligations.PortsTrainRetrainAndFail, clause 1.2.2. -/
theorem witness_zlRestart_range : running (zlIn 5 newZlPort) = true ∧ accepted (zlIn 5 newZlPort) (pgZl p3.val) 4
    ∧ zlAbsent (zlIn 5 newZlPort) p3.val = false ∧ (zlState (zlIn 5 newZlPort) p3.val ≠ 7) := by
  unfold accepted; decide +kernel
/-- Obligations.PortsTrainRetrainAndFail, clause 1.3.1. -/
theorem witness_zlRetrain_range : running (zlIn 6 newZlPort) = true ∧ accepted (zlIn 6 newZlPort) (pgZl p3.val) 4
    ∧ zlAbsent (zlIn 6 newZlPort) p3.val = false ∧ (zlState (zlIn 6 newZlPort) p3.val ≠ 5) := by
  unfold accepted; decide +kernel
/-- Obligations.PortsTrainRetrainAndFail, clause 1.4.1. -/
theorem witness_zlRetrain : running (zlIn 5 zlBusy) = true ∧ accepted (zlIn 5 zlBusy) (pgZl p3.val) 4
    ∧ zlAbsent (zlIn 5 zlBusy) p3.val = false ∧ zlState (zlIn 5 zlBusy) p3.val = 5
    ∧ (List.filter (fun a => decide ((zlIn 5 zlBusy).tick < 1000000000 + a)) (getZl (zlIn 5 zlBusy) p3.val).retrains).length < 2 := by
  unfold accepted; decide +kernel
/-- Two retrains lie within the last second. -/
def zlTwice : ZlPort := { newZlPort with txq := [pkSig], sent := [(0, pkSig)], rx := [(1, pkSig)], retrains := [3, 4] }
/-- Obligations.PortsTrainRetrainAndFail, clause 1.4.2. -/
theorem witness_zlRetrain_third : running (zlIn 5 zlTwice) = true ∧ accepted (zlIn 5 zlTwice) (pgZl p3.val) 4
    ∧ zlAbsent (zlIn 5 zlTwice) p3.val = false ∧ zlState (zlIn 5 zlTwice) p3.val = 5
    ∧ 2 ≤ (List.filter (fun a => decide ((zlIn 5 zlTwice).tick < 1000000000 + a)) (getZl (zlIn 5 zlTwice) p3.val).retrains).length := by
  unfold accepted; decide +kernel
/-- Obligations.PortsTrainRetrainAndFail, clause 2.1. -/
theorem witness_zlSignalDetect : running (zlIn 1 zlBusy) = true ∧ zlState (zlIn 1 zlBusy) p3.val = 1 := by
  decide +kernel
/-- Obligations.PortsTrainRetrainAndFail, clause 2.2.1. -/
theorem witness_zlEqualise_x8 : running (zlIn 2 zlBusy) = true ∧ zlState (zlIn 2 zlBusy) p3.val = 2
    ∧ zlLonger (zlIn 2 zlBusy) (p3.val) 100000000 = false ∧ 0 = 0 := by
  decide +kernel
/-- Obligations.PortsTrainRetrainAndFail, clause 2.2.2. -/
theorem witness_zlEqualise_x4 : running (setB (zlIn 2 zlBusy) fZlCfgAllowX4 (pgZl 3) true) = true
    ∧ zlState (setB (zlIn 2 zlBusy) fZlCfgAllowX4 (pgZl 3) true) p3.val = 2
    ∧ zlLonger (setB (zlIn 2 zlBusy) fZlCfgAllowX4 (pgZl 3) true) (p3.val) 100000000 = false ∧ (15 ≠ 0)
    ∧ getB (setB (zlIn 2 zlBusy) fZlCfgAllowX4 (pgZl 3) true) fZlCfgAllowX4 (pgZl p3.val) = true
    ∧ (↑15 % 16 = 0 ∨ ↑15 < 16) := by
  decide +kernel
/-- Obligations.PortsTrainRetrainAndFail, clause 2.2.2. -/
theorem witness_zlEqualise_x4_high : running (setB (zlIn 2 zlBusy) fZlCfgAllowX4 (pgZl 3) true) = true
    ∧ zlState (setB (zlIn 2 zlBusy) fZlCfgAllowX4 (pgZl 3) true) p3.val = 2
    ∧ zlLonger (setB (zlIn 2 zlBusy) fZlCfgAllowX4 (pgZl 3) true) (p3.val) 100000000 = false ∧ (16 ≠ 0)
    ∧ getB (setB (zlIn 2 zlBusy) fZlCfgAllowX4 (pgZl 3) true) fZlCfgAllowX4 (pgZl p3.val) = true
    ∧ (↑16 % 16 = 0 ∨ ↑16 < 16) := by
  decide +kernel
/-- Obligations.PortsTrainRetrainAndFail, clause 2.2.3. -/
theorem witness_zlEqualise_fail : running (setB (zlIn 2 zlBusy) fZlCfgAllowX4 (pgZl 3) true) = true
    ∧ zlState (setB (zlIn 2 zlBusy) fZlCfgAllowX4 (pgZl 3) true) p3.val = 2
    ∧ zlLonger (setB (zlIn 2 zlBusy) fZlCfgAllowX4 (pgZl 3) true) (p3.val) 100000000 = false ∧ (17 ≠ 0)
    ∧ (getB (setB (zlIn 2 zlBusy) fZlCfgAllowX4 (pgZl 3) true) fZlCfgAllowX4 (pgZl p3.val) = false ∨ ↑17 % 16 ≠ 0 ∧ 16 ≤ ↑17) := by
  decide +kernel
/-- Obligations.PortsTrainRetrainAndFail, clause 2.3. -/
theorem witness_zlAlignDone : running (zlIn 3 zlBusy) = true ∧ zlState (zlIn 3 zlBusy) p3.val = 3
    ∧ zlLonger (zlIn 3 zlBusy) (p3.val) 10000000 = false := by
  decide +kernel
/-- Obligations.PortsTrainRetrainAndFail, clause 2.4. -/
theorem witness_zlAlignDone_retrain : running (zlIn 6 zlBusy) = true ∧ zlState (zlIn 6 zlBusy) p3.val = 6 := by
  decide +kernel
/-- A port that has received a NEG packet. -/
def zlNeg (v pkg : Nat) : ZlPort := { newZlPort with rx := [(2, pkNeg v pkg)] }
/-- Obligations.PortsTrainRetrainAndFail, clause 2.5.1, alternative 1. -/
theorem witness_neg_other_state : running (zlIn 5 (zlNeg 1 9)) = true
    ∧ ctlPacket (p3.val) 7 (zlIn 5 (zlNeg 1 9)) = some (2, pkNeg 1 9) ∧ (zlState (zlIn 5 (zlNeg 1 9)) p3.val ≠ 4)
    ∧ (zlState (zlIn 5 (zlNeg 1 9)) p3.val ≠ 6) := by
  decide +kernel
/-- Obligations.PortsTrainRetrainAndFail, clause 2.5.1, alternative 2. -/
theorem witness_neg_overdue : running
    (let __src := zlIn 4 (zlNeg 1 9);
    { __src with tick := 1000001 }) =
  true
    ∧ ctlPacket (p3.val) 7
    (let __src := zlIn 4 (zlNeg 1 9);
    { __src with tick := 1000001 }) =
  some (2, pkNeg 1 9)
    ∧ zlLonger
    (let __src := zlIn 4 (zlNeg 1 9);
    { __src with tick := 1000001 })
    (p3.val) 1000000 =
  true
    ∧ (zlState
    (let __src := zlIn 4 (zlNeg 1 9);
    { __src with tick := 1000001 })
    p3.val ≠
  6) := by
  decide +kernel
/-- Obligations.PortsTrainRetrainAndFail, clause 2.5.2. -/
theorem witness_neg_retrain : running (zlIn 6 (zlNeg 1 9)) = true
    ∧ ctlPacket (p3.val) 7 (zlIn 6 (zlNeg 1 9)) = some (2, pkNeg 1 9) ∧ zlState (zlIn 6 (zlNeg 1 9)) p3.val = 6
    ∧ bits (List.getD (2, pkNeg 1 9).snd 1 0) 0 8 = 1 ∧ bits (List.getD (2, pkNeg 1 9).snd 1 0) 8 8 = 0
    ∧ (bits (List.getD (2, pkNeg 1 9).snd 1 0) 24 10 ≠ selfPkg (zlIn 6 (zlNeg 1 9))) := by
  decide +kernel
/-- Obligations.PortsTrainRetrainAndFail, clause 2.5.3. -/
theorem witness_neg : running (zlIn 4 (zlNeg 1 9)) = true
    ∧ ctlPacket (p3.val) 7 (zlIn 4 (zlNeg 1 9)) = some (2, pkNeg 1 9) ∧ zlState (zlIn 4 (zlNeg 1 9)) p3.val = 4
    ∧ zlLonger (zlIn 4 (zlNeg 1 9)) (p3.val) 1000000 = false ∧ bits (List.getD (2, pkNeg 1 9).snd 1 0) 0 8 = 1
    ∧ bits (List.getD (2, pkNeg 1 9).snd 1 0) 8 8 = 0
    ∧ (bits (List.getD (2, pkNeg 1 9).snd 1 0) 24 10 ≠ selfPkg (zlIn 4 (zlNeg 1 9))) := by
  decide +kernel
/-- Obligations.PortsTrainRetrainAndFail, clause 2.5.4, alternative 1. -/
theorem witness_neg_self : running (zlIn 4 (zlNeg 1 0)) = true
    ∧ ctlPacket (p3.val) 7 (zlIn 4 (zlNeg 1 0)) = some (2, pkNeg 1 0)
    ∧ (zlState (zlIn 4 (zlNeg 1 0)) p3.val = 4 ∧ zlLonger (zlIn 4 (zlNeg 1 0)) (p3.val) 1000000 = false)
    ∧ bits (List.getD (2, pkNeg 1 0).snd 1 0) 0 8 = 1 ∧ bits (List.getD (2, pkNeg 1 0).snd 1 0) 8 8 = 0
    ∧ bits (List.getD (2, pkNeg 1 0).snd 1 0) 24 10 = selfPkg (zlIn 4 (zlNeg 1 0)) := by
  decide +kernel
/-- Obligations.PortsTrainRetrainAndFail, clause 2.5.4, alternative 2. -/
theorem witness_neg_self_retrain : running (zlIn 6 (zlNeg 1 0)) = true
    ∧ ctlPacket (p3.val) 7 (zlIn 6 (zlNeg 1 0)) = some (2, pkNeg 1 0) ∧ zlState (zlIn 6 (zlNeg 1 0)) p3.val = 6
    ∧ bits (List.getD (2, pkNeg 1 0).snd 1 0) 0 8 = 1 ∧ bits (List.getD (2, pkNeg 1 0).snd 1 0) 8 8 = 0
    ∧ bits (List.getD (2, pkNeg 1 0).snd 1 0) 24 10 = selfPkg (zlIn 6 (zlNeg 1 0)) := by
  decide +kernel
/-- Obligations.PortsTrainRetrainAndFail, clause 2.5.5, alternative 1. -/
theorem witness_neg_version : running (zlIn 4 (zlNeg 2 9)) = true
    ∧ ctlPacket (p3.val) 7 (zlIn 4 (zlNeg 2 9)) = some (2, pkNeg 2 9)
    ∧ (zlState (zlIn 4 (zlNeg 2 9)) p3.val = 4 ∧ zlLonger (zlIn 4 (zlNeg 2 9)) (p3.val) 1000000 = false)
    ∧ (bits (List.getD (2, pkNeg 2 9).snd 1 0) 0 8 ≠ 1 ∨ bits (List.getD (2, pkNeg 2 9).snd 1 0) 8 8 ≠ 0) := by
  decide +kernel
/-- Obligations.PortsTrainRetrainAndFail, clause 2.5.5, alternative 2. -/
theorem witness_neg_version_retrain : running (zlIn 6 (zlNeg 2 9)) = true
    ∧ ctlPacket (p3.val) 7 (zlIn 6 (zlNeg 2 9)) = some (2, pkNeg 2 9) ∧ zlState (zlIn 6 (zlNeg 2 9)) p3.val = 6
    ∧ (bits (List.getD (2, pkNeg 2 9).snd 1 0) 0 8 ≠ 1 ∨ bits (List.getD (2, pkNeg 2 9).snd 1 0) 8 8 ≠ 0) := by
  decide +kernel
/-- Obligations.PortsTrainRetrainAndFail, clause 2.6. -/
theorem witness_zlStateTimeout : running
    (setF
      (let __src := putZl r0 (p3.val) zlBusy;
      { __src with tick := 1000001 })
      fZlStatusState (pgZl 3) 4) =
  true
    ∧ zlLimit
    (zlState
      (setF
        (let __src := putZl r0 (p3.val) zlBusy;
        { __src with tick := 1000001 })
        fZlStatusState (pgZl 3) 4)
      p3.val) =
  some (1000000, 7)
    ∧ zlLonger
    (setF
      (let __src := putZl r0 (p3.val) zlBusy;
      { __src with tick := 1000001 })
      fZlStatusState (pgZl 3) 4)
    (p3.val) 1000000 =
  true := by
  decide +kernel
/-- Obligations.PortsTrainRetrainAndFail, clause 2.7.1. -/
theorem witness_zlRetrainDone : running
    (zlIn 6
      (let __src := zlBusy;
      { __src with aligned := true })) =
  true
    ∧ zlState
    (zlIn 6
      (let __src := zlBusy;
      { __src with aligned := true }))
    p3.val =
  6
    ∧ zlLonger
    (zlIn 6
      (let __src := zlBusy;
      { __src with aligned := true }))
    (p3.val) 20000000 =
  false
    ∧ ((getZl
        (zlIn 6
          (let __src := zlBusy;
          { __src with aligned := true }))
        p3.val).aligned &&
    (getZl
        (zlIn 6
          (let __src := zlBusy;
          { __src with aligned := true }))
        p3.val).agreed) =
  false := by
  decide +kernel
/-- Obligations.PortsTrainRetrainAndFail, clause 2.7.2. -/
theorem witness_zlRetrainDone_agreed : running
    (zlIn 6
      (let __src := zlBusy;
      { __src with aligned := true, agreed := true })) =
  true
    ∧ zlState
    (zlIn 6
      (let __src := zlBusy;
      { __src with aligned := true, agreed := true }))
    p3.val =
  6
    ∧ zlLonger
    (zlIn 6
      (let __src := zlBusy;
      { __src with aligned := true, agreed := true }))
    (p3.val) 20000000 =
  false
    ∧ (getZl
      (zlIn 6
        (let __src := zlBusy;
        { __src with aligned := true, agreed := true }))
      p3.val).aligned =
  true
    ∧ (getZl
      (zlIn 6
        (let __src := zlBusy;
        { __src with aligned := true, agreed := true }))
      p3.val).agreed =
  true := by
  decide +kernel
/-- Obligations.PortsTrainRetrainAndFail, clause 2.7.3. -/
theorem witness_zlRetrainDone_fail : running (zlIn 6 zlBusy) = true ∧ zlState (zlIn 6 zlBusy) p3.val = 6 := by
  decide +kernel
/-- Obligations.PortsTrainRetrainAndFail, clause 3. -/
theorem witness_zlRefclkLoss : running (setF (zlIn 5 zlBusy) fZlStatusState (pgZl 4) 5) = true := by
  decide +kernel
def tf (n : Nat) : TxFlit := ⟨n, [7], false, 0, 3, 2⟩
def zlRes : ZlPort := { newZlPort with replay := [tf 3, tf 4], resend := 1, nextFseq := 5 }
/-- Obligations.FlitsCarryPacketsInOrder, clause 1.1. -/
theorem witness_flit_resend : running (zlIn 5 zlRes) = true
    ∧ (zlState (zlIn 5 zlRes) p3.val = 4 ∨ zlState (zlIn 5 zlRes) p3.val = 5)
    ∧ portTested (zlIn 5 zlRes) p3.val = false ∧ ((getZl (zlIn 5 zlRes) p3.val).resend ≠ 0)
    ∧ (getZl (zlIn 5 zlRes) p3.val).replay[(getZl (zlIn 5 zlRes) p3.val).replay.length - (getZl (zlIn 5 zlRes) p3.val).resend]? = some (tf 4) := by
  decide +kernel
/-- Obligations.FlitsCarryPacketsInOrder, clause 1.2.1. -/
theorem witness_flit_idle : running (zlIn 5 newZlPort) = true
    ∧ (zlState (zlIn 5 newZlPort) p3.val = 4 ∨ zlState (zlIn 5 newZlPort) p3.val = 5)
    ∧ portTested (zlIn 5 newZlPort) p3.val = false ∧ (getZl (zlIn 5 newZlPort) p3.val).resend = 0
    ∧ (getZl (zlIn 5 newZlPort) p3.val).keyq = []
    ∧ ((getZl (zlIn 5 newZlPort) p3.val).cur = none ∧ (getZl (zlIn 5 newZlPort) p3.val).txq = [] ∧ flitGives (getZl (zlIn 5 newZlPort) p3.val) ↑2 = 0) := by
  decide +kernel
def pkFree : Pkt := [mkHead 7 0 0 9 0 0 0 0 0 0 0 0 0]
def zlTx : ZlPort := { newZlPort with txq := [pkFree], nextFseq := 4095 }
/-- Obligations.FlitsCarryPacketsInOrder, clause 1.2.2, alternative 2. -/
theorem witness_flit_new : running (zlIn 4 zlTx) = true
    ∧ (zlState (zlIn 4 zlTx) p3.val = 4 ∨ zlState (zlIn 4 zlTx) p3.val = 5) ∧ portTested (zlIn 4 zlTx) p3.val = false
    ∧ (getZl (zlIn 4 zlTx) p3.val).resend = 0 ∧ (getZl (zlIn 4 zlTx) p3.val).keyq = []
    ∧ ((getZl (zlIn 4 zlTx) p3.val).cur = none ∧ Option.any (fun k => !List.isEmpty k.fst) (portNext (getZl (zlIn 4 zlTx) p3.val)) = true)
    ∧ (getZl (zlIn 4 zlTx) p3.val).replay.length < 256 := by
  decide +kernel
/-- Credits of class 2 wait to go back. -/
def zlGive : ZlPort := { newZlPort with give := [0, 0, 3, 0, 0, 0, 0] }
/-- Obligations.FlitsCarryPacketsInOrder, clause 1.2.2, alternative 1. -/
theorem witness_flit_credits : running (zlIn 5 zlGive) = true
    ∧ (zlState (zlIn 5 zlGive) p3.val = 4 ∨ zlState (zlIn 5 zlGive) p3.val = 5)
    ∧ portTested (zlIn 5 zlGive) p3.val = false ∧ (getZl (zlIn 5 zlGive) p3.val).resend = 0
    ∧ (getZl (zlIn 5 zlGive) p3.val).keyq = [] ∧ (flitGives (getZl (zlIn 5 zlGive) p3.val) ↑2 ≠ 0)
    ∧ (getZl (zlIn 5 zlGive) p3.val).replay.length < 256 := by
  decide +kernel
/-- Obligations.FlitsCarryPacketsInOrder, clause 2. -/
theorem witness_flit_neg : running
    (zlIn 6
      (let __src := newZlPort;
      { __src with aligned := true })) =
  true
    ∧ zlState
    (zlIn 6
      (let __src := newZlPort;
      { __src with aligned := true }))
    p3.val =
  6
    ∧ (getZl
      (zlIn 6
        (let __src := newZlPort;
        { __src with aligned := true }))
      p3.val).aligned =
  true
    ∧ portTested
    (zlIn 6
      (let __src := newZlPort;
      { __src with aligned := true }))
    p3.val =
  false := by
  decide +kernel
/-- Obligations.FlitsCarryPacketsInOrder, clause 3.1. -/
theorem witness_flit_bad : running (zlIn 4 zlBusy) = true
    ∧ (zlState (zlIn 4 zlBusy) p3.val = 4 ∨ zlState (zlIn 4 zlBusy) p3.val = 5) := by
  decide +kernel
/-- Obligations.FlitsCarryPacketsInOrder, clause 3.2. -/
theorem witness_flit_crc : running (zlIn 4 zlBusy) = true
    ∧ (zlState (zlIn 4 zlBusy) p3.val = 4 ∨ zlState (zlIn 4 zlBusy) p3.val = 5) ∧ (flitCrc 0 [] + 1 ≠ flitCrc 0 []) := by
  decide +kernel
/-- Obligations.FlitsCarryPacketsInOrder, clause 3.3. -/
theorem witness_flit_turn : running (zlIn 5 zlBusy) = true
    ∧ (zlState (zlIn 5 zlBusy) p3.val = 4 ∨ zlState (zlIn 5 zlBusy) p3.val = 5) ∧ flitCrc 3 [] = flitCrc 3 []
    ∧ bitAt 3 24 = false ∧ bitAt 3 41 = false ∧ (bits 3 0 12 ≠ (getZl (zlIn 5 zlBusy) p3.val).rxFseq) := by
  decide +kernel
/-- Obligations.FlitsCarryPacketsInOrder, clause 3.4. -/
theorem witness_flit_idle_in : running (zlIn 5 zlRes) = true
    ∧ (zlState (zlIn 5 zlRes) p3.val = 4 ∨ zlState (zlIn 5 zlRes) p3.val = 5)
    ∧ flitCrc (2 ^ 41 + 2 ^ 12 * 3) [] = flitCrc (2 ^ 41 + 2 ^ 12 * 3) [] ∧ bitAt (2 ^ 41 + 2 ^ 12 * 3) 24 = false
    ∧ bitAt (2 ^ 41 + 2 ^ 12 * 3) 41 = true := by
  decide +kernel
/-- Obligations.FlitsCarryPacketsInOrder, clause 3.5. -/
theorem witness_flit_in : running (zlIn 5 zlBusy) = true
    ∧ (zlState (zlIn 5 zlBusy) p3.val = 4 ∨ zlState (zlIn 5 zlBusy) p3.val = 5)
    ∧ flitCrc 0 (pkSig ++ [0, 0]) = flitCrc 0 (pkSig ++ [0, 0]) ∧ bitAt 0 24 = false ∧ bitAt 0 41 = false
    ∧ bits 0 0 12 = (getZl (zlIn 5 zlBusy) p3.val).rxFseq := by
  decide +kernel
/-- Obligations.FlitsCarryPacketsInOrder, clause 3.6. -/
theorem witness_flit_nak : running (zlIn 5 zlRes) = true
    ∧ (zlState (zlIn 5 zlRes) p3.val = 4 ∨ zlState (zlIn 5 zlRes) p3.val = 5)
    ∧ flitCrc (2 ^ 41 + 2 ^ 24 + 2 ^ 12 * 2) [] = flitCrc (2 ^ 41 + 2 ^ 24 + 2 ^ 12 * 2) []
    ∧ bitAt (2 ^ 41 + 2 ^ 24 + 2 ^ 12 * 2) 24 = true ∧ bitAt (2 ^ 41 + 2 ^ 24 + 2 ^ 12 * 2) 41 = true := by
  decide +kernel
/-- A route to package 7 by port 4. -/
def routed : State := setF (setF (setB (setF r0 fZrouteEntryPrimary pgZroute 16 7) fZrouteEntryValid pgZroute true 7) fZlStatusState (pgZl 4) 5) fZlStatusState (pgZl 3) 5
/-- Obligations.FlitsCarryPacketsInOrder, clause 4.1. -/
theorem witness_packetRoute : running (putZl routed 3 zlBusy) = true
    ∧ packetRoutePick p3 (putZl routed 3 zlBusy) = some (1, pkSig)
    ∧ routeOf (rxTake (putZl routed 3 zlBusy) p3.val (1, pkSig)) (1, pkSig).snd (some p3.val) = some (4, 0) := by
  decide +kernel
/-- Obligations.FlitsCarryPacketsInOrder, clause 4.2. -/
theorem witness_packetRoute_none : running (zlIn 5 zlBusy) = true
    ∧ packetRoutePick p3 (zlIn 5 zlBusy) = some (1, pkSig)
    ∧ routeOf (rxTake (zlIn 5 zlBusy) p3.val (1, pkSig)) (1, pkSig).snd (some p3.val) = none := by
  decide +kernel
def stalled : State := { setF (putZl r0 3 { zlBusy with zeroAt := [none, none, some 0] }) fZlStatusState (pgZl 3) 5 with tick := 10000000 }
/-- Obligations.FlitsCarryPacketsInOrder, clause 5. -/
theorem witness_linkStall : running stalled = true ∧ linkStallReady p3 2 stalled = true := by
  decide +kernel

end W20

namespace W21

/-! Send rings and windows. -/
def winBusy : State := setB { r0 with pkg := { r0.pkg with link := { r0.pkg.link with inval := some (some 5), wins := [(5, [1]), (6, [2])] } } } fZwinStatusBusy pgZwin true
/-- Obligations.RingsSendAndWindowsReceive, clause 1.1. -/
theorem witness_zwinInval_busy : running winBusy = true ∧ accepted winBusy pgZwin 4
    ∧ getB winBusy fZwinStatusBusy pgZwin = true := by
  unfold accepted; decide +kernel
/-- Obligations.RingsSendAndWindowsReceive, clause 1.2. -/
theorem witness_zwinInval : running r0 = true ∧ accepted r0 pgZwin 4 ∧ getB r0 fZwinStatusBusy pgZwin = false := by
  unfold accepted; decide +kernel
/-- Obligations.RingsSendAndWindowsReceive, clause 2. -/
theorem witness_zwinInvalDone : running winBusy = true ∧ winBusy.pkg.link.inval = some (some 5) := by
  decide +kernel
def r63 : Fin 64 := 63
/-- A ring of span 1 that is served, with descriptors in flight. -/
def ringOn (l : List SendDesc) : State :=
  putRing (setF (setB (setF r0 fZringCfgSizeLog2 (pgZring 1) 5 63) fZringCfgEnable (pgZring 1) true 63) fZringStateState (pgZring 1) 1 63) 127 l
/-- Obligations.RingsSendAndWindowsReceive, clause 3. -/
theorem witness_zringEnable : running (ringOn [{ words := [], started := true, released := false, item := 0, gone := false : SendDesc }, { words := [], started := false, released := false, item := 0, gone := false : SendDesc }]) = true
    ∧ spanDown (ringOn [{ words := [], started := true, released := false, item := 0, gone := false : SendDesc }, { words := [], started := false, released := false, item := 0, gone := false : SendDesc }]) sp1.val = false
    ∧ accepted (ringOn [{ words := [], started := true, released := false, item := 0, gone := false : SendDesc }, { words := [], started := false, released := false, item := 0, gone := false : SendDesc }]) (pgZring sp1.val) 4 := by
  unfold accepted; decide +kernel
/-- Obligations.RingsSendAndWindowsReceive, clause 4.1. -/
theorem witness_sendDescPosted_off : running r0 = true
    ∧ (ringRuns r0 sp1.val r63.val = false ∨ 16 ≤ (getRing r0 (64 * sp1.val + r63.val)).length) := by
  decide +kernel
/-- A WRITE descriptor, SEQ 0: 32 bytes by window 2 to package 7. -/
def sdWr : List Nat := [2 ^ 24 * 7 + 2 ^ 32 * 7, 2, 0, 64, 32, 1] ++ List.replicate 10 0
def descIn (da : Nat) (w : List Nat) (s : State) : State := daWrite s da (w.flatMap (leBytes 8)) []
def posted (seq : Nat) : State :=
  descIn 4096 ((sdWr.headD 0 + seq) :: sdWr.drop 1) (setF (ringOn []) fZringBaseBase (pgZring 1) 1 63)
/-- Obligations.RingsSendAndWindowsReceive, clause 4.2.1. -/
theorem witness_sendDescPosted : running (posted 0) = true ∧ ringRuns (posted 0) sp1.val r63.val = true
    ∧ (getRing (posted 0) (64 * sp1.val + r63.val)).length < 16
    ∧ ringSlot (posted 0) (sp1.val) (r63.val) (getF (posted 0) fZringStateHead (pgZring sp1.val) r63.val + (getRing (posted 0) (64 * sp1.val + r63.val)).length) = (some sdWr, (ringSlot (posted 0) 1 63 0).snd)
    ∧ sdSeq sdWr = (getF (posted 0) fZringStateHead (pgZring sp1.val) r63.val + (getRing (posted 0) (64 * sp1.val + r63.val)).length) % 65536 := by
  decide +kernel
/-- Obligations.RingsSendAndWindowsReceive, clause 4.2.2. -/
theorem witness_sendDescPosted_other : running (posted 1) = true ∧ ringRuns (posted 1) sp1.val r63.val = true
    ∧ (getRing (posted 1) (64 * sp1.val + r63.val)).length < 16
    ∧ ringSlot (posted 1) (sp1.val) (r63.val) (getF (posted 1) fZringStateHead (pgZring sp1.val) r63.val + (getRing (posted 1) (64 * sp1.val + r63.val)).length) = (some ((ringSlot (posted 1) 1 63 0).fst.getD []), (ringSlot (posted 1) 1 63 0).snd)
    ∧ (sdSeq ((ringSlot (posted 1) 1 63 0).fst.getD []) ≠ (getF (posted 1) fZringStateHead (pgZring sp1.val) r63.val + (getRing (posted 1) (64 * sp1.val + r63.val)).length) % 65536) := by
  decide +kernel
/-- A SIGNAL descriptor to package 7. -/
def sdSig (pkg : Nat) : List Nat := [2 * 2 ^ 16 + 2 ^ 24 + 2 ^ 25 * 6 + 2 ^ 32 * pkg, 0, 0, 0, 0, 9] ++ List.replicate 10 0
def dNew (w : List Nat) : SendDesc := ⟨w, false, false, 0, false⟩
def sendS : State := setF (setF (setB (ringOn [dNew (sdSig 7), dNew sdWr]) fZrouteEntryValid pgZroute true 7) fZrouteEntryPrimary pgZroute 16 7) fZlStatusState (pgZl 4) 5
/-- Obligations.RingsSendAndWindowsReceive, clause 4.4.1. -/
theorem witness_sendDescStart : running sendS = true ∧ lostSeq sendS (64 * sp1.val + r63.val) = none
    ∧ sendDescStartReady sp1 r63 sendS = true
    ∧ nextDesc (getRing sendS (64 * sp1.val + r63.val)) = some (dNew (sdSig 7), 0)
    ∧ sendDesc (sp1.val) (r63.val) (dNew (sdSig 7)).words sendS = (SendEnd.ok, (sendDesc 1 63 (sdSig 7) sendS).snd) := by
  decide +kernel
def sendN : State := ringOn [dNew (sdSig 8)]
/-- Obligations.RingsSendAndWindowsReceive, clause 4.4.2. -/
theorem witness_sendDescStart_noRoute : running sendN = true ∧ lostSeq sendN (64 * sp1.val + r63.val) = none
    ∧ sendDescStartReady sp1 r63 sendN = true
    ∧ nextDesc (getRing sendN (64 * sp1.val + r63.val)) = some (dNew (sdSig 8), 0)
    ∧ sendDesc (sp1.val) (r63.val) (dNew (sdSig 8)).words sendN = (SendEnd.code 67, (sendDesc 1 63 (sdSig 8) sendN).snd)
    ∧ (SendEnd.code 67 ≠ SendEnd.ok) := by
  decide +kernel
/-- A descriptor that a journaled item's commit has not yet released. -/
def dHeld (w : List Nat) : SendDesc := { dNew w with item := 5 }
/-- Obligations.RingsSendAndWindowsReceive, clause 4.5. -/
theorem witness_sendDescStart_held : running (ringOn [dHeld (sdSig 8)]) = true
    ∧ lostSeq (ringOn [dHeld (sdSig 8)]) (64 * sp1.val + r63.val) = none
    ∧ nextDesc (getRing (ringOn [dHeld (sdSig 8)]) (64 * sp1.val + r63.val)) = some (dHeld (sdSig 8), 0)
    ∧ (dHeld (sdSig 8)).released = false ∧ ((dHeld (sdSig 8)).item ≠ 0) := by
  decide +kernel
/-- A committed descriptor of SEQ `seq` was lost in a port failure; its slot holds the SIGNAL descriptor of SEQ 0. -/
def lostS (seq : Nat) (pois : List Nat) : State :=
  let s := descIn 4096 (sdSig 7) (setF (setF (setF (setB (ringOn []) fZrouteEntryValid pgZroute true 7) fZrouteEntryPrimary pgZroute 16 7) fZlStatusState (pgZl 4) 5) fZringBaseBase (pgZring 1) 1 63)
  { s with memo := { s.memo with poison := pois }, pkg := { s.pkg with link := { s.pkg.link with lost := [(127, seq)] } } }
/-- The same without the loss. -/
def unlost (s : State) : State := { s with pkg := { s.pkg with link := { s.pkg.link with lost := s.pkg.link.lost.filter (· ≠ (64 * 1 + 63, (lostSeq s 127).getD 0)) } } }
def slotV (pois : List Nat) : Option (List Nat) × State := ringSlot (unlost (lostS 0 pois)) 1 63 0
/-- Obligations.RingsSendAndWindowsReceive, clause 4.3.1, alternative 1. -/
theorem witness_lost_poisoned : running (lostS 0 [128]) = true ∧ ringRuns (lostS 0 [128]) sp1.val r63.val = true
    ∧ lostSeq (lostS 0 [128]) (64 * sp1.val + r63.val) = some 0
    ∧ ringSlot
    { (lostS 0 [128]) with pkg :=
        have __src := (lostS 0 [128]).pkg;
        { __src with link :=
            have __src := (lostS 0 [128]).pkg.link;
            { __src with lost := List.filter (fun x => decide (x ≠ (64 * sp1.val + r63.val, 0))) (lostS 0 [128]).pkg.link.lost } } }
    (sp1.val) (r63.val) 0 =
  slotV [128]
    ∧ (slotV [128]).fst = none := by
  decide +kernel
/-- Obligations.RingsSendAndWindowsReceive, clause 4.3.2. -/
theorem witness_lost_again : running (lostS 0 []) = true ∧ ringRuns (lostS 0 []) sp1.val r63.val = true
    ∧ lostSeq (lostS 0 []) (64 * sp1.val + r63.val) = some 0
    ∧ ringSlot
    { (lostS 0 []) with pkg :=
        have __src := (lostS 0 []).pkg;
        { __src with link :=
            have __src := (lostS 0 []).pkg.link;
            { __src with lost := List.filter (fun x => decide (x ≠ (64 * sp1.val + r63.val, 0))) (lostS 0 []).pkg.link.lost } } }
    (sp1.val) (r63.val) 0 =
  slotV []
    ∧ (slotV []).fst = some (sdSig 7) ∧ sdSeq (sdSig 7) = 0
    ∧ sendDesc (sp1.val) (r63.val) (sdSig 7) (slotV []).snd = (SendEnd.ok, (sendDesc 1 63 (sdSig 7) (slotV []).snd).snd) := by
  decide +kernel
def dDone (w : List Nat) : SendDesc := ⟨w, true, false, 0, false⟩
/-- Obligations.RingsSendAndWindowsReceive, clause 4.6. -/
theorem witness_sendDescComplete : running (ringOn [dDone (sdSig 8), dNew sdWr]) = true
    ∧ getRing (ringOn [dDone (sdSig 8), dNew sdWr]) (64 * sp1.val + r63.val) = [dDone (sdSig 8), dNew sdWr]
    ∧ (dDone (sdSig 8)).started = true := by
  decide +kernel
/-- A packet of a type for this package from package 9, by window 2, with one unit. -/
def pkTo (ty units : Nat) : Pkt := mkHead ty 0 0 9 units 2 6 127 3 16 0 0 0 :: ((if ty = 2 then [0] else []) ++ List.replicate units 5)
/-- The window entry: any source, write, reduce; context 20, span 1, core 2, one page at 8192. -/
def winEnt : List Nat := [1 + 4 + 8 + 2 ^ 4 * 20 + 2 ^ 16 * 1 + 2 ^ 19 * 2 + 2 ^ 33, 8192, 4096, 0]
def sl20 : Slot := { emptySlot with ctx := some 20, part := newPart }
def rxS (k : Pkt) (e : List Nat) : State :=
  putSlot (putZl { r0 with pkg := { r0.pkg with link := { r0.pkg.link with wins := [(2, e)] } } } p3 { newZlPort with rx := [(4, k)] }) (slotKey 1 2 0) sl20
def dupS : State := { rxS (pkTo 3 0) winEnt with ho := { r0.ho with receipts := [⟨9, 127, 3, 16, 0⟩] } }
/-- Obligations.RingsSendAndWindowsReceive, clause 5.1. -/
theorem witness_receipt_dup : running dupS = true
    ∧ (Instr.sig p3, 3) ∈ [(Instr.wr p3, 1), (Instr.red p3, 2), (Instr.sig p3, 3)]
    ∧ consumable (p3.val) 3 dupS = some (4, pkTo 3 0) ∧ receiptHas dupS (4, pkTo 3 0).snd = true := by
  decide +kernel
def noRoom : State := setF (setB { rxS (pkTo 3 0) winEnt with ho := { r0.ho with receipts := List.replicate 2 ⟨8, 127, 3, 16, 0⟩ } } fJrnlCtrlEnable pgJrnl true) fJrnlRcptSizeLog2 pgJrnl 1
/-- Obligations.RingsSendAndWindowsReceive, clause 5.2. -/
theorem witness_receipt_full : running noRoom = true
    ∧ (Instr.sig p3, 3) ∈ [(Instr.wr p3, 1), (Instr.red p3, 2), (Instr.sig p3, 3)]
    ∧ consumable (p3.val) 3 noRoom = some (4, pkTo 3 0) ∧ receiptHas noRoom (4, pkTo 3 0).snd = false
    ∧ receiptRoom noRoom = false := by
  decide +kernel
/-- What a port reads of window 2. -/
def rxZ (k : Pkt) : State := { rxS k [] with pkg := { (rxS k []).pkg with link := { (rxS k []).pkg.link with wins := [] } } }
def winZ (k : Pkt) : List Nat × State := winEntry (rxTake (rxZ k) p3 (4, k)) 2
/-- Obligations.RingsSendAndWindowsReceive, clause 5.3.1. -/
theorem witness_packet_refused : running (rxZ (pkTo 1 1)) = true
    ∧ (Instr.wr p3, 1) ∈ [(Instr.wr p3, 1), (Instr.red p3, 2), (Instr.sig p3, 3)]
    ∧ consumable (p3.val) 1 (rxZ (pkTo 1 1)) = some (4, pkTo 1 1)
    ∧ receiptHas (rxZ (pkTo 1 1)) (4, pkTo 1 1).snd = false ∧ receiptRoom (rxZ (pkTo 1 1)) = true
    ∧ winEntry (rxTake (rxZ (pkTo 1 1)) p3.val (4, pkTo 1 1)) (pkWin (4, pkTo 1 1).snd) = ((winZ (pkTo 1 1)).fst, (winZ (pkTo 1 1)).snd)
    ∧ (refuseReason (winZ (pkTo 1 1)).snd (winZ (pkTo 1 1)).fst (4, pkTo 1 1).snd ≠ 0) := by
  decide +kernel
def rxM (k : Pkt) : State := daWrite (rxZ k) 64 (winEnt.flatMap (leBytes 8)) []
def winM (k : Pkt) : List Nat × State := winEntry (rxTake (rxM k) p3 (4, k)) 2
/-- Obligations.RingsSendAndWindowsReceive, clause 5.3.2. -/
theorem witness_packet_sig : running (rxM (pkTo 3 0)) = true
    ∧ (Instr.sig p3, 3) ∈ [(Instr.wr p3, 1), (Instr.red p3, 2), (Instr.sig p3, 3)]
    ∧ consumable (p3.val) 3 (rxM (pkTo 3 0)) = some (4, pkTo 3 0)
    ∧ receiptHas (rxM (pkTo 3 0)) (4, pkTo 3 0).snd = false ∧ receiptRoom (rxM (pkTo 3 0)) = true
    ∧ winEntry (rxTake (rxM (pkTo 3 0)) p3.val (4, pkTo 3 0)) (pkWin (4, pkTo 3 0).snd) = ((winM (pkTo 3 0)).fst, (winM (pkTo 3 0)).snd)
    ∧ refuseReason (winM (pkTo 3 0)).snd (winM (pkTo 3 0)).fst (4, pkTo 3 0).snd = 0
    ∧ noStaged (winM (pkTo 3 0)).snd = true := by
  decide +kernel
/-- Obligations.RingsSendAndWindowsReceive, clause 5.3.2. -/
theorem witness_packet_wr : running (rxM (pkTo 1 1)) = true
    ∧ (Instr.wr p3, 1) ∈ [(Instr.wr p3, 1), (Instr.red p3, 2), (Instr.sig p3, 3)]
    ∧ consumable (p3.val) 1 (rxM (pkTo 1 1)) = some (4, pkTo 1 1)
    ∧ receiptHas (rxM (pkTo 1 1)) (4, pkTo 1 1).snd = false ∧ receiptRoom (rxM (pkTo 1 1)) = true
    ∧ winEntry (rxTake (rxM (pkTo 1 1)) p3.val (4, pkTo 1 1)) (pkWin (4, pkTo 1 1).snd) = ((winM (pkTo 1 1)).fst, (winM (pkTo 1 1)).snd)
    ∧ refuseReason (winM (pkTo 1 1)).snd (winM (pkTo 1 1)).fst (4, pkTo 1 1).snd = 0
    ∧ noStaged (winM (pkTo 1 1)).snd = true := by
  decide +kernel
/-- Obligations.RingsSendAndWindowsReceive, clause 5.3.2. -/
theorem witness_packet_red : running (rxM (pkTo 2 1)) = true
    ∧ (Instr.red p3, 2) ∈ [(Instr.wr p3, 1), (Instr.red p3, 2), (Instr.sig p3, 3)]
    ∧ consumable (p3.val) 2 (rxM (pkTo 2 1)) = some (4, pkTo 2 1)
    ∧ receiptHas (rxM (pkTo 2 1)) (4, pkTo 2 1).snd = false ∧ receiptRoom (rxM (pkTo 2 1)) = true
    ∧ winEntry (rxTake (rxM (pkTo 2 1)) p3.val (4, pkTo 2 1)) (pkWin (4, pkTo 2 1).snd) = ((winM (pkTo 2 1)).fst, (winM (pkTo 2 1)).snd)
    ∧ refuseReason (winM (pkTo 2 1)).snd (winM (pkTo 2 1)).fst (4, pkTo 2 1).snd = 0
    ∧ noStaged (winM (pkTo 2 1)).snd = true := by
  decide +kernel
def pkErr (r : Nat) : Pkt := [mkHead 4 0 0 9 0 0 0 127 3 r 0 0 0]
def errS (r : Nat) : State := putZl (ringOn [dNew sdWr, dDone sdWr]) p3 { newZlPort with rx := [(4, pkErr r)] }
/-- Obligations.RingsSendAndWindowsReceive, clause 6.1. -/
theorem witness_err_orphan : running (errS 5) = true ∧ consumable (p3.val) 4 (errS 5) = some (4, pkErr 5)
    ∧ bits (pkHead (4, pkErr 5).snd) 78 8 = 5 := by
  decide +kernel
/-- Obligations.RingsSendAndWindowsReceive, clause 6.2. -/
theorem witness_err_halts : running (errS 2) = true ∧ consumable (p3.val) 4 (errS 2) = some (4, pkErr 2)
    ∧ (bits (pkHead (4, pkErr 2).snd) 78 8 ≠ 5) := by
  decide +kernel

end W21

namespace W22

/-! The cluster's cadence. -/
def pk3 (u1 u2 : Nat) (ty : Nat) : Pkt := [mkHead ty 0 0 9 2 0 0 0 0 0 0 0 0, u1, u2]
/-- A member whose parent is port 3, with port 3 ACTIVE holding a packet. -/
def memb (k : Pkt) : State :=
  setF (setF (setF (putZl r0 3 { newZlPort with rx := [(900, k)] }) fZsyncCfgRole pgZsync 2) fZsyncCfgParent pgZsync 3) fZlStatusState (pgZl 3) 5
/-- Obligations.BeatsKeepTheCluster, clause 1.1. -/
theorem witness_keyBeatSend_off : running r0 = true ∧ getF r0 fZsyncCfgRole pgZsync = 0 := by
  decide +kernel
/-- Obligations.BeatsKeepTheCluster, clause 1.2. -/
theorem witness_keyBeatSend : running (setF (memb []) fZlStatusState (pgZl 11) 5) = true
    ∧ (getF (setF (memb []) fZlStatusState (pgZl 11) 5) fZsyncCfgRole pgZsync ≠ 0) := by
  decide +kernel
/-- Obligations.BeatsKeepTheCluster, clause 2.1. -/
theorem witness_key_up : running (memb (pk3 0 (2 ^ 27 + 2 ^ 33 * 7) 5)) = true
    ∧ ctlPacket (p3.val) 5 (memb (pk3 0 (2 ^ 27 + 2 ^ 33 * 7) 5)) = some (900, pk3 0 (2 ^ 27 + 2 ^ 33 * 7) 5)
    ∧ bitAt (List.getD (900, pk3 0 (2 ^ 27 + 2 ^ 33 * 7) 5).snd 2 0) 27 = true := by
  decide +kernel
/-- Obligations.BeatsKeepTheCluster, clause 2.2. -/
theorem witness_key_stranger : running (setF (memb (pk3 0 5 5)) fZsyncCfgRole pgZsync 1) = true
    ∧ ctlPacket (p3.val) 5 (setF (memb (pk3 0 5 5)) fZsyncCfgRole pgZsync 1) = some (900, pk3 0 5 5)
    ∧ bitAt (List.getD (900, pk3 0 5 5).snd 2 0) 27 = false
    ∧ (isMember (setF (memb (pk3 0 5 5)) fZsyncCfgRole pgZsync 1) = false ∨ p3.val ≠ activeParent (setF (memb (pk3 0 5 5)) fZsyncCfgRole pgZsync 1)) := by
  decide +kernel
/-- Obligations.BeatsKeepTheCluster, clause 2.3.1. -/
theorem witness_key_period : running (memb (pk3 0 5 5)) = true
    ∧ ctlPacket (p3.val) 5 (memb (pk3 0 5 5)) = some (900, pk3 0 5 5)
    ∧ bitAt (List.getD (900, pk3 0 5 5).snd 2 0) 27 = false ∧ isMember (memb (pk3 0 5 5)) = true
    ∧ p3.val = activeParent (memb (pk3 0 5 5))
    ∧ (bits (List.getD (900, pk3 0 5 5).snd 2 0) 0 27 ≠ framePeriod (memb (pk3 0 5 5))) := by
  decide +kernel
def beat : Pkt := pk3 (2 ^ 64 * 77 + 950) (1000000 + 2 ^ 28 * 3) 5
/-- Obligations.BeatsKeepTheCluster, clause 2.3.2. -/
theorem witness_key_beat : running (memb beat) = true ∧ ctlPacket (p3.val) 5 (memb beat) = some (900, beat)
    ∧ bitAt (List.getD (900, beat).snd 2 0) 27 = false ∧ isMember (memb beat) = true
    ∧ p3.val = activeParent (memb beat) ∧ bits (List.getD (900, beat).snd 2 0) 0 27 = framePeriod (memb beat)
    ∧ 50 = toSigned64 (bits (List.getD (900, beat).snd 1 0) 0 64) + ↑(getF (memb beat) fZlDelayDelay (pgZl p3.val)) - (↑(900, beat).fst + toSigned64 (getF (memb beat) fZsyncOffsetDelta pgZsync)) := by
  decide +kernel
/-- Obligations.BeatsKeepTheCluster, clause 2.3.2. -/
theorem witness_key_beat_locked : running (setB (memb beat) fZsyncStatusLocked pgZsync true) = true
    ∧ ctlPacket (p3.val) 5 (setB (memb beat) fZsyncStatusLocked pgZsync true) = some (900, beat)
    ∧ bitAt (List.getD (900, beat).snd 2 0) 27 = false
    ∧ isMember (setB (memb beat) fZsyncStatusLocked pgZsync true) = true
    ∧ p3.val = activeParent (setB (memb beat) fZsyncStatusLocked pgZsync true)
    ∧ bits (List.getD (900, beat).snd 2 0) 0 27 = framePeriod (setB (memb beat) fZsyncStatusLocked pgZsync true)
    ∧ 50 = toSigned64 (bits (List.getD (900, beat).snd 1 0) 0 64) + ↑(getF (setB (memb beat) fZsyncStatusLocked pgZsync true) fZlDelayDelay (pgZl p3.val)) - (↑(900, beat).fst + toSigned64 (getF (setB (memb beat) fZsyncStatusLocked pgZsync true) fZsyncOffsetDelta pgZsync)) := by
  decide +kernel
def beatN : Pkt := pk3 (2 ^ 64 * 77 + 890) (1000000 + 2 ^ 28 * 31 + 2 ^ 64 * 16) 5
/-- Obligations.BeatsKeepTheCluster, clause 2.3.2. -/
theorem witness_key_beat_near : running
    (let __src := memb beatN;
    { __src with pkg :=
        let __src := (memb beatN).pkg;
        { __src with link :=
            let __src := (memb beatN).pkg.link;
            { __src with close := 15 } } }) =
  true
    ∧ ctlPacket (p3.val) 5
    (let __src := memb beatN;
    { __src with pkg :=
        let __src := (memb beatN).pkg;
        { __src with link :=
            let __src := (memb beatN).pkg.link;
            { __src with close := 15 } } }) =
  some (900, beatN)
    ∧ bitAt (List.getD (900, beatN).snd 2 0) 27 = false
    ∧ isMember
    (let __src := memb beatN;
    { __src with pkg :=
        let __src := (memb beatN).pkg;
        { __src with link :=
            let __src := (memb beatN).pkg.link;
            { __src with close := 15 } } }) =
  true
    ∧ p3.val =
  activeParent
    (let __src := memb beatN;
    { __src with pkg :=
        let __src := (memb beatN).pkg;
        { __src with link :=
            let __src := (memb beatN).pkg.link;
            { __src with close := 15 } } })
    ∧ bits (List.getD (900, beatN).snd 2 0) 0 27 =
  framePeriod
    (let __src := memb beatN;
    { __src with pkg :=
        let __src := (memb beatN).pkg;
        { __src with link :=
            let __src := (memb beatN).pkg.link;
            { __src with close := 15 } } })
    ∧ -10 =
  toSigned64 (bits (List.getD (900, beatN).snd 1 0) 0 64) +
      ↑(getF
          (let __src := memb beatN;
          { __src with pkg :=
              let __src := (memb beatN).pkg;
              { __src with link :=
                  let __src := (memb beatN).pkg.link;
                  { __src with close := 15 } } })
          fZlDelayDelay (pgZl p3.val)) -
    (↑(900, beatN).fst +
      toSigned64
        (getF
          (let __src := memb beatN;
          { __src with pkg :=
              let __src := (memb beatN).pkg;
              { __src with link :=
                  let __src := (memb beatN).pkg.link;
                  { __src with close := 15 } } })
          fZsyncOffsetDelta pgZsync)) := by
  decide +kernel
/-- Obligations.BeatsKeepTheCluster, clause 3.1. -/
theorem witness_echoSend : running (memb []) = true ∧ zlState (memb []) p3.val = 5 := by
  decide +kernel
/-- Obligations.BeatsKeepTheCluster, clause 3.2. -/
theorem witness_echoSend_down : running r0 = true ∧ (zlState r0 p3.val ≠ 5) := by
  decide +kernel
/-- Obligations.BeatsKeepTheCluster, clause 3.3.1. -/
theorem witness_echo : running (memb (pk3 5 0 6)) = true
    ∧ ctlPacket (p3.val) 6 (memb (pk3 5 0 6)) = some (900, pk3 5 0 6)
    ∧ bitAt (List.getD (900, pk3 5 0 6).snd 2 0) 64 = false := by
  decide +kernel
/-- Obligations.BeatsKeepTheCluster, clause 3.3.2. -/
theorem witness_echo_reply : running (memb (pk3 (500 + 2 ^ 64 * 700) (2 ^ 64 + 720) 6)) = true
    ∧ ctlPacket (p3.val) 6 (memb (pk3 (500 + 2 ^ 64 * 700) (2 ^ 64 + 720) 6)) = some (900, pk3 (500 + 2 ^ 64 * 700) (2 ^ 64 + 720) 6)
    ∧ bitAt (List.getD (900, pk3 (500 + 2 ^ 64 * 700) (2 ^ 64 + 720) 6).snd 2 0) 64 = true := by
  decide +kernel
def late : State := { setB (setF (memb []) fZsyncCfgAltParent pgZsync 3) fZsyncCfgAltEn pgZsync true with tick := 25000 }
/-- Obligations.BeatsKeepTheCluster, clause 4.1. -/
theorem witness_holdoverStart_alt : running late = true ∧ holdoverStartReady late = true := by
  decide +kernel
/-- Obligations.BeatsKeepTheCluster, clause 4.1. -/
theorem witness_holdoverStart : running
    (let __src := memb [];
    { __src with tick := 25000 }) =
  true
    ∧ holdoverStartReady
    (let __src := memb [];
    { __src with tick := 25000 }) =
  true := by
  decide +kernel
/-- Obligations.BeatsKeepTheCluster, clause 4.2. -/
theorem witness_holdoverLost : running
    (let __src := setF (setF r0 fZsyncCfgRole pgZsync 2) fFrameStatusState pgFrame 1;
    { __src with tick := 2000000, pkg :=
        let __src := r0.pkg;
        { __src with link :=
            let __src := r0.pkg.link;
            { __src with holdAt := some 0 } } }) =
  true
    ∧ holdoverLostReady
    (let __src := setF (setF r0 fZsyncCfgRole pgZsync 2) fFrameStatusState pgFrame 1;
    { __src with tick := 2000000, pkg :=
        let __src := r0.pkg;
        { __src with link :=
            let __src := r0.pkg.link;
            { __src with holdAt := some 0 } } }) =
  true := by
  decide +kernel

end W22

end Sys2Proof.Tests
end

section
/-!
SUPPORT. What a command and an idle step may do to the whole state: the outcomes of `exec`, which gather the lemmas of the
meanings, and the statements about the tick, the fuses and the queue (00_scope.md, 95_what_each_step_holds.md).
-/
namespace Sys2Proof.Machine

/-- The commands of the power rails that may touch the tick (R591, R592, R595). -/
def RailCommand (c : Instr) : Prop :=
  (∃ straps, c = .powerGoodRise straps) ∨ c = .powerGoodLoss ∨ c = .vmgmtLoss

/-- What any command may do: most hold what `Held` names; one of the power rails may first set the tick to zero; and the
FUSE stage keeps everything but what the fuses bring. -/
inductive ExecOutcome (c : Instr) (s t : State) : Prop where
  | held (h : Held s t)
  | rails (hc : RailCommand c) (h : Held { s with tick := 0 } t)
  | fused (hc : c = .fuseStageDone) (h : Kept (readFuses s) t)

theorem ExecOutcome.of_rail {c : Instr} {s t : State} (hc : RailCommand c)
    (h : Held s t ∨ Held { s with tick := 0 } t) : ExecOutcome c s t :=
  h.elim .held (.rails hc)

/-- The FUSE stage reads the fuses, or does not come about (R613, R614). -/
theorem execFuseStageDone_outcome {s t : State} (h : execFuseStageDone s = .next t) :
    ExecOutcome .fuseStageDone s t := by
  unfold execFuseStageDone clocked at h
  cases h
  split
  · split
    · exact .fused rfl (fuseStageDoneEffect_kept s)
    · exact .held (.refl s)
  · exact .held (.refl s)

/-- Every command has one of these outcomes: the lemma of its meaning says which. -/
theorem exec_outcome {c : Instr} {s t : State} (h : exec c s = .next t) : ExecOutcome c s t := by
  cases c with
  | powerGoodRise straps => exact .of_rail (.inl ⟨straps, rfl⟩) (execPowerGoodRise_held _ _ _ h)
  | powerGoodLoss => exact .of_rail (.inr (.inl rfl)) (execPowerGoodLoss_held _ _ h)
  | vmgmtRise => exact .held (execVmgmtRise_kept _ (.refl s) _ h).held
  | packageReset => exact .held (execPackageReset_held _ (.refl s) _ h)
  | perstAssert => exact .held (execPerstAssert_kept _ _ (.refl s) _ h).held
  | perstRelease => exact .held (execPerstRelease_kept _ _ (.refl s) _ h).held
  | railFault => exact .held (execRailFault_kept _ _ _ (.refl s) _ h).held
  | sysclkLoss => exact .held (execSysclkLoss_kept _ (.refl s) _ h).held
  | zlRefclkLoss => exact .held (execZlRefclkLoss_kept _ (.refl s) _ h).held
  | pcieRefclkLoss => exact .held (execPcieRefclkLoss_kept _ _ (.refl s) _ h).held
  | fuseStageDone => exact execFuseStageDone_outcome h
  | romTestDone => exact .held (execRomTestDone_kept _ _ _ _ _ _ _ _ _ _ (.refl s) _ h).held
  | imageVerifyDone => exact .held (execImageVerifyDone_kept _ _ _ _ _ (.refl s) _ h).held
  | spanTestDone => exact .held (execSpanTestDone_kept _ _ _ _ _ _ _ _ _ _ _ (.refl s) _ h).held
  | fwInitDone => exact .held (execFwInitDone_kept _ (.refl s) _ h).held
  | pkgCtrlHeartbeat => exact .held (execPkgCtrlHeartbeat_kept _ (.refl s) _ h).held
  | takeoverStart => exact .held (execTakeoverStart_kept _ (.refl s) _ h).held
  | takeoverComplete => exact .held (execTakeoverComplete_kept _ (.refl s) _ h).held
  | mgmtCoreFailure => exact .held (execMgmtCoreFailure_kept _ _ (.refl s) _ h).held
  | deckEdgeFail => exact .held (execDeckEdgeFail_kept _ _ _ (.refl s) _ h).held
  | creditTimeout sp cls => exact .held (execCreditTimeout_kept _ cls _ _ _ (.refl s) _ h).held
  | launchDeliver => exact .held (execLaunchDeliver_kept _ _ _ _ (.refl s) _ h).held
  | launchStartEngine => exact .held (execLaunchStartEngine_kept _ _ _ _ _ (.refl s) _ h).held
  | launchStartSeeded => exact .held (execLaunchStartSeeded_kept _ _ _ _ (.refl s) _ h).held
  | launchComplete => exact .held (execLaunchComplete_kept _ _ _ _ (.refl s) _ h).held
  | fetchBlock => exact .held (execFetchBlock_kept _ _ _ _ _ (.refl s) _ h).held
  | commandDecode => exact .held (execCommandDecode_kept _ _ _ _ _ (.refl s) _ h).held
  | commandResolve => exact .held (execCommandResolve_kept _ _ _ _ _ (.refl s) _ h).held
  | speculativeRead => exact .held (execSpeculativeRead_kept _ _ _ _ _ _ (.refl s) _ h).held
  | commandComplete => exact .held (execCommandComplete_kept _ _ _ _ _ (.refl s) _ h).held
  | signalArrival => exact .held (execSignalArrival_kept _ _ (.refl s) _ h).held
  | qNop => exact .held (execQNop_kept _ _ _ _ _ (.refl s) _ h).held
  | qEnd => exact .held (execQEnd_kept _ _ _ _ _ (.refl s) _ h).held
  | tlWait => exact .held (execTlWait_kept _ _ _ _ _ (.refl s) _ h).held
  | tlWaitSatisfied => exact .held (execTlWaitSatisfied_kept _ _ _ _ _ (.refl s) _ h).held
  | waitTimeout => exact .held (execWaitTimeout_kept _ _ _ _ _ (.refl s) _ h).held
  | tlSignal => exact .held (execTlSignal_kept _ _ _ _ _ (.refl s) _ h).held
  | tlSet => exact .held (execTlSet_kept _ _ _ _ _ (.refl s) _ h).held
  | prSet => exact .held (execPrSet_kept _ _ _ _ _ (.refl s) _ h).held
  | prCmp => exact .held (execPrCmp_kept _ _ _ _ _ (.refl s) _ h).held
  | prLogic => exact .held (execPrLogic_kept _ _ _ _ _ (.refl s) _ h).held
  | prTally => exact .held (execPrTally_kept _ _ _ _ _ (.refl s) _ h).held
  | slotHalt => exact .held (execSlotHalt_kept _ _ _ _ _ _ (.refl s) _ h).held
  | slotResume => exact .held (execSlotResume_kept _ _ _ _ _ _ (.refl s) _ h).held
  | slotAbort => exact .held (execSlotAbort_kept _ _ _ _ _ (.refl s) _ h).held
  | queueErrorHandling => exact .held (execQueueErrorHandling_kept _ _ _ _ (.refl s) _ h).held
  | coreRetire => exact .held (execCoreRetire_kept _ _ _ (.refl s) _ h).held
  | tlySignal => exact .held (execTlySignal_kept _ _ _ _ _ _ (.refl s) _ h).held
  | numevClearAll => exact .held (execNumevClearAll_kept _ _ _ (.refl s) _ h).held
  | numevClearCtx => exact .held (execNumevClearCtx_kept _ _ _ (.refl s) _ h).held
  | mxMma => exact .held (execMxMma_kept _ _ _ _ (.refl s) _ h).held
  | vxAdd => exact .held (execVxAdd_kept _ _ _ _ (.refl s) _ h).held
  | vxSub => exact .held (execVxSub_kept _ _ _ _ (.refl s) _ h).held
  | vxMul => exact .held (execVxMul_kept _ _ _ _ (.refl s) _ h).held
  | vxFma => exact .held (execVxFma_kept _ _ _ _ (.refl s) _ h).held
  | vxAxpy => exact .held (execVxAxpy_kept _ _ _ _ (.refl s) _ h).held
  | vxMin => exact .held (execVxMin_kept _ _ _ _ (.refl s) _ h).held
  | vxMax => exact .held (execVxMax_kept _ _ _ _ (.refl s) _ h).held
  | vxCvt => exact .held (execVxCvt_kept _ _ _ _ (.refl s) _ h).held
  | vxFill => exact .held (execVxFill_kept _ _ _ _ (.refl s) _ h).held
  | vxExp2 => exact .held (execVxExp2_kept _ _ _ _ (.refl s) _ h).held
  | vxLog2 => exact .held (execVxLog2_kept _ _ _ _ (.refl s) _ h).held
  | vxRcp => exact .held (execVxRcp_kept _ _ _ _ (.refl s) _ h).held
  | vxSqrt => exact .held (execVxSqrt_kept _ _ _ _ (.refl s) _ h).held
  | vxRsqrt => exact .held (execVxRsqrt_kept _ _ _ _ (.refl s) _ h).held
  | vxAct => exact .held (execVxAct_kept _ _ _ _ (.refl s) _ h).held
  | vxRsum => exact .held (execVxRsum_kept _ _ _ _ (.refl s) _ h).held
  | vxRmax => exact .held (execVxRmax_kept _ _ _ _ (.refl s) _ h).held
  | vxTr => exact .held (execVxTr_kept _ _ _ _ (.refl s) _ h).held
  | vxRot => exact .held (execVxRot_kept _ _ _ _ (.refl s) _ h).held
  | vxIadd => exact .held (execVxIadd_kept _ _ _ _ (.refl s) _ h).held
  | memFlush => exact .held (execMemFlush_kept _ _ _ _ (.refl s) _ h).held
  | memInval => exact .held (execMemInval_kept _ _ _ _ (.refl s) _ h).held
  | memFlinv => exact .held (execMemFlinv_kept _ _ _ _ (.refl s) _ h).held
  | tileCacheEviction => exact .held (execTileCacheEviction_kept _ _ _ (.refl s) _ h).held
  | tcFlushAll => exact .held (execTcFlushAll_kept _ _ _ (.refl s) _ h).held
  | tcFlushAllDone => exact .held (execTcFlushAllDone_kept _ _ (.refl s) _ h).held
  | ldT => exact .held (execLdT_kept _ _ _ _ (.refl s) _ h).held
  | ldG => exact .held (execLdG_kept _ _ _ _ (.refl s) _ h).held
  | ldB => exact .held (execLdB_kept _ _ _ _ (.refl s) _ h).held
  | stT => exact .held (execStT_kept _ _ _ _ (.refl s) _ h).held
  | stS => exact .held (execStS_kept _ _ _ _ (.refl s) _ h).held
  | stRed => exact .held (execStRed_kept _ _ _ _ (.refl s) _ h).held
  | stSred => exact .held (execStSred_kept _ _ _ _ (.refl s) _ h).held
  | stB => exact .held (execStB_kept _ _ _ _ (.refl s) _ h).held
  | dmaevClearAll => exact .held (execDmaevClearAll_kept _ _ _ (.refl s) _ h).held
  | dmaevClearCtx => exact .held (execDmaevClearCtx_kept _ _ _ (.refl s) _ h).held
  | pierRequestIssue => exact .held (execPierRequestIssue_kept _ _ _ (.refl s) _ h).held
  | partitionTokenRefill => exact .held (execPartitionTokenRefill_kept _ _ _ (.refl s) _ h).held
  | reducerUpdate => exact .held (execReducerUpdate_kept _ _ _ _ _ _ (.refl s) _ h).held
  | orderedUpdateAccept => exact .held (execOrderedUpdateAccept_kept _ _ _ _ _ _ _ _ (.refl s) _ h).held
  | reducerLineEvict => exact .held (execReducerLineEvict_kept _ _ _ _ (.refl s) _ h).held
  | settleAll => exact .held (execSettleAll_kept _ _ _ _ (.refl s) _ h).held
  | bufWb => exact .held (execBufWb_kept _ _ _ _ (.refl s) _ h).held
  | alert => exact .held (execAlert_kept _ _ _ _ _ (.refl s) _ h).held
  | readParityError => exact .held (execReadParityError_kept _ _ _ _ (.refl s) _ h).held
  | pierRetrain => exact .held (execPierRetrain_kept _ _ _ (.refl s) _ h).held
  | pierRetrainDone => exact .held (execPierRetrainDone_kept _ _ _ _ (.refl s) _ h).held
  | bandChange => exact .held (execBandChange_kept _ _ (.refl s) _ h).held
  | refreshInterval => exact .held (execRefreshInterval_kept _ _ _ (.refl s) _ h).held
  | refreshIssue => exact .held (execRefreshIssue_kept _ _ _ (.refl s) _ h).held
  | spareStart => exact .held (execSpareStart_kept _ _ _ _ _ _ (.refl s) _ h).held
  | spareSwitch => exact .held (execSpareSwitch_kept _ _ _ _ (.refl s) _ h).held
  | pcRetire => exact .held (execPcRetire_kept _ _ _ (.refl s) _ h).held
  | broadcast => exact .held (execBroadcast_kept _ _ _ (.refl s) _ h).held
  | sequenceStart => exact .held (execSequenceStart_kept _ _ _ (.refl s) _ h).held
  | stitchStart => exact .held (execStitchStart_kept _ _ _ _ (.refl s) _ h).held
  | stitchEnd => exact .held (execStitchEnd_kept _ _ _ _ (.refl s) _ h).held
  | chainDrain => exact .held (execChainDrain_kept _ _ _ _ _ (.refl s) _ h).held
  | chainReduce => exact .held (execChainReduce_kept _ _ _ _ _ (.refl s) _ h).held
  | sequenceEnd => exact .held (execSequenceEnd_kept _ _ _ (.refl s) _ h).held
  | sequenceSuspend => exact .held (execSequenceSuspend_kept _ _ _ (.refl s) _ h).held
  | nbsPoisonPulse => exact .held (execNbsPoisonPulse_kept _ _ _ (.refl s) _ h).held
  | burnishAll => exact .held (execBurnishAll_kept _ _ _ _ (.refl s) _ h).held
  | nbIssue => exact .held (execNbIssue_kept _ _ _ _ (.refl s) _ h).held
  | nbFence => exact .held (execNbFence_kept _ _ _ _ (.refl s) _ h).held
  | nbGemv => exact .held (execNbGemv_kept _ _ _ (.refl s) _ h).held
  | nbGather => exact .held (execNbGather_kept _ _ _ (.refl s) _ h).held
  | nbGred => exact .held (execNbGred_kept _ _ _ (.refl s) _ h).held
  | nbAxpy => exact .held (execNbAxpy_kept _ _ _ (.refl s) _ h).held
  | nbNorm => exact .held (execNbNorm_kept _ _ _ (.refl s) _ h).held
  | nbAttn => exact .held (execNbAttn_kept _ _ _ (.refl s) _ h).held
  | nbAdam => exact .held (execNbAdam_kept _ _ _ (.refl s) _ h).held
  | nbRowop => exact .held (execNbRowop_kept _ _ _ (.refl s) _ h).held
  | nbBurnish => exact .held (execNbBurnish_kept _ _ _ (.refl s) _ h).held
  | scopeChkEnable => exact .held (execScopeChkEnable_kept _ _ _ _ (.refl s) _ h).held
  | stepPrepare => exact .held (execStepPrepare_kept _ _ (.refl s) _ h).held
  | fillPrepare => exact .held (execFillPrepare_kept _ _ (.refl s) _ h).held
  | kvSwapOut => exact .held (execKvSwapOut_kept _ _ (.refl s) _ h).held
  | kvSwapOutDone => exact .held (execKvSwapOutDone_kept _ _ (.refl s) _ h).held
  | kvSwapIn => exact .held (execKvSwapIn_kept _ _ (.refl s) _ h).held
  | kvSwapInDone => exact .held (execKvSwapInDone_kept _ _ (.refl s) _ h).held
  | ctxEvict => exact .held (execCtxEvict_kept _ _ _ _ _ _ (.refl s) _ h).held
  | ctxSwitch => exact .held (execCtxSwitch_kept _ _ _ _ _ _ _ (.refl s) _ h).held
  | recordSwapOut => exact .held (execRecordSwapOut_kept _ _ _ (.refl s) _ h).held
  | recordSwapIn => exact .held (execRecordSwapIn_kept _ _ _ (.refl s) _ h).held
  | residentStall => exact .held (execResidentStall_kept _ _ _ (.refl s) _ h).held
  | residentStallResponse => exact .held (execResidentStallResponse_kept _ _ _ (.refl s) _ h).held
  | translationFault => exact .held (execTranslationFault_kept _ _ _ _ _ (.refl s) _ h).held
  | faultRecordWrite => exact .held (execFaultRecordWrite_kept _ _ (.refl s) _ h).held
  | fresume => exact .held (execFresume_kept _ _ _ _ _ _ (.refl s) _ h).held
  | fresumeDiscard => exact .held (execFresumeDiscard_kept _ _ _ _ _ _ (.refl s) _ h).held
  | fringEnable => exact .held (execFringEnable_kept _ _ _ _ (.refl s) _ h).held
  | xinvRange => exact .held (execXinvRange_kept _ _ _ (.refl s) _ h).held
  | xinvAsid => exact .held (execXinvAsid_kept _ _ _ (.refl s) _ h).held
  | xinvAll => exact .held (execXinvAll_kept _ _ (.refl s) _ h).held
  | xinvDone => exact .held (execXinvDone_kept _ (.refl s) _ h).held
  | pageMove => exact .held (execPageMove_kept _ _ _ _ (.refl s) _ h).held
  | functionLevelReset => exact .held (execFunctionLevelReset_kept _ _ (.refl s) _ h).held
  | frameStart => exact .held (execFrameStart_kept _ (.refl s) _ h).held
  | entryFire => exact .held (execEntryFire_kept _ _ _ (.refl s) _ h).held
  | deferredFire => exact .held (execDeferredFire_kept _ _ _ (.refl s) _ h).held
  | schedLoad => exact .held (execSchedLoad_kept _ _ _ (.refl s) _ h).held
  | schedValidateDone => exact .held (execSchedValidateDone_kept _ _ (.refl s) _ h).held
  | frameActivate => exact .held (execFrameActivate_kept _ _ (.refl s) _ h).held
  | frameClockStart => exact .held (execFrameClockStart_kept _ _ (.refl s) _ h).held
  | frameStop => exact .held (execFrameStop_kept _ _ (.refl s) _ h).held
  | schedArm => exact .held (execSchedArm_kept _ _ _ _ _ (.refl s) _ h).held
  | zlEnable => exact .held (execZlEnable_kept _ _ _ (.refl s) _ h).held
  | zlSignalDetect => exact .held (execZlSignalDetect_kept _ _ (.refl s) _ h).held
  | zlEqualiseDone => exact .held (execZlEqualiseDone_kept _ _ _ (.refl s) _ h).held
  | zlAlignDone => exact .held (execZlAlignDone_kept _ _ (.refl s) _ h).held
  | neg => exact .held (execNeg_kept _ _ (.refl s) _ h).held
  | zlStateTimeout => exact .held (execZlStateTimeout_kept _ _ (.refl s) _ h).held
  | zlRetrainDone => exact .held (execZlRetrainDone_kept _ _ _ (.refl s) _ h).held
  | zlRestart => exact .held (execZlRestart_kept _ _ _ (.refl s) _ h).held
  | zlRetrain => exact .held (execZlRetrain_kept _ _ _ (.refl s) _ h).held
  | flitTransmit => exact .held (execFlitTransmit_kept _ _ _ (.refl s) _ h).held
  | flitReceive => exact .held (execFlitReceive_kept _ _ _ _ _ _ (.refl s) _ h).held
  | packetRoute => exact .held (execPacketRoute_kept _ _ (.refl s) _ h).held
  | linkStall => exact .held (execLinkStall_kept _ _ _ (.refl s) _ h).held
  | sendDescPosted => exact .held (execSendDescPosted_kept _ _ _ (.refl s) _ h).held
  | sendDescStart => exact .held (execSendDescStart_kept _ _ _ (.refl s) _ h).held
  | sendDescComplete => exact .held (execSendDescComplete_kept _ _ _ (.refl s) _ h).held
  | zringEnable => exact .held (execZringEnable_kept _ _ _ _ _ (.refl s) _ h).held
  | wr => exact .held (execWr_kept _ _ (.refl s) _ h).held
  | red => exact .held (execRed_kept _ _ (.refl s) _ h).held
  | sig => exact .held (execSig_kept _ _ (.refl s) _ h).held
  | err => exact .held (execErr_kept _ _ (.refl s) _ h).held
  | zwinInval => exact .held (execZwinInval_kept _ _ _ _ (.refl s) _ h).held
  | zwinInvalDone => exact .held (execZwinInvalDone_kept _ (.refl s) _ h).held
  | keyBeatSend => exact .held (execKeyBeatSend_kept _ (.refl s) _ h).held
  | key => exact .held (execKey_kept _ _ (.refl s) _ h).held
  | echoSend => exact .held (execEchoSend_kept _ _ (.refl s) _ h).held
  | echo => exact .held (execEcho_kept _ _ (.refl s) _ h).held
  | holdoverStart => exact .held (execHoldoverStart_kept _ (.refl s) _ h).held
  | holdoverLost => exact .held (execHoldoverLost_kept _ (.refl s) _ h).held
  | doorbell => exact .held (execDoorbell_kept _ _ _ _ (.refl s) _ h).held
  | submissionEntryRead => exact .held (execSubmissionEntryRead_kept _ _ _ _ (.refl s) _ h).held
  | entryAccept => exact .held (execEntryAccept_kept _ _ _ (.refl s) _ h).held
  | cqRecordWrite => exact .held (execCqRecordWrite_kept _ _ _ (.refl s) _ h).held
  | cqStall => exact .held (execCqStall_kept _ _ _ (.refl s) _ h).held
  | sqEnable => exact .held (execSqEnable_kept _ _ _ _ (.refl s) _ h).held
  | pciePortFail => exact .held (execPciePortFail_kept _ _ _ (.refl s) _ h).held
  | apertureRead => exact .held (execApertureRead_kept _ _ _ _ (.refl s) _ h).held
  | apertureWrite => exact .held (execApertureWrite_kept _ _ _ _ (.refl s) _ h).held
  | ctxCreate => exact .held (execCtxCreate_kept _ _ _ _ (.refl s) _ h).held
  | ctxDestroy => exact .held (execCtxDestroy_kept _ _ _ _ (.refl s) _ h).held
  | ctxPlace => exact .held (execCtxPlace_kept _ _ _ _ (.refl s) _ h).held
  | ctxRebind => exact .held (execCtxRebind_kept _ _ _ _ (.refl s) _ h).held
  | xltInval => exact .held (execXltInval_kept _ _ _ _ (.refl s) _ h).held
  | winOpen => exact .held (execWinOpen_kept _ _ _ _ (.refl s) _ h).held
  | winClose => exact .held (execWinClose_kept _ _ _ _ (.refl s) _ h).held
  | swapArea => exact .held (execSwapArea_kept _ _ _ _ (.refl s) _ h).held
  | modelCfg => exact .held (execModelCfg_kept _ _ _ _ (.refl s) _ h).held
  | groupCfg => exact .held (execGroupCfg_kept _ _ _ _ (.refl s) _ h).held
  | epochPublish => exact .held (execEpochPublish_kept _ _ _ _ (.refl s) _ h).held
  | adapterLoad => exact .held (execAdapterLoad_kept _ _ _ _ (.refl s) _ h).held
  | adapterReplace => exact .held (execAdapterReplace_kept _ _ _ _ (.refl s) _ h).held
  | adapterDelete => exact .held (execAdapterDelete_kept _ _ _ _ (.refl s) _ h).held
  | cachedRelease => exact .held (execCachedRelease_kept _ _ _ _ (.refl s) _ h).held
  | reqCancel => exact .held (execReqCancel_kept _ _ _ _ (.refl s) _ h).held
  | version => exact .held (execVersion_kept _ _ _ (.refl s) _ h).held
  | poll => exact .held (execPoll_kept _ _ _ _ (.refl s) _ h).held
  | tokenExpiry => exact .held (execTokenExpiry_kept _ (.refl s) _ h).held
  | reinClaim => exact .held (execReinClaim_kept _ _ (.refl s) _ h).held
  | reinAccept => exact .held (execReinAccept_kept _ _ (.refl s) _ h).held
  | reinRelease => exact .held (execReinRelease_kept _ _ (.refl s) _ h).held
  | handoverStart => exact .held (execHandoverStart_kept _ _ _ (.refl s) _ h).held
  | handoverCancel => exact .held (execHandoverCancel_kept _ _ (.refl s) _ h).held
  | handoverLapse => exact .held (execHandoverLapse_kept _ (.refl s) _ h).held
  | heartbeat => exact .held (execHeartbeat_kept _ _ (.refl s) _ h).held
  | heartbeatLapse => exact .held (execHeartbeatLapse_kept _ (.refl s) _ h).held
  | i3cRegRead => exact .held (execI3cRegRead_kept _ _ _ (.refl s) _ h).held
  | i3cRegWrite => exact .held (execI3cRegWrite_held _ _ _ _ (.refl s) _ h)
  | i3cResultDiscard => exact .held (execI3cResultDiscard_kept _ (.refl s) _ h).held
  | blkCommit => exact .held (execBlkCommit_held _ _ _ (.refl s) _ h)
  | commitApply => exact .held (execCommitApply_kept _ _ (.refl s) _ h).held
  | blkDiscard => exact .held (execBlkDiscard_held _ _ _ (.refl s) _ h)
  | registerWrite => exact .held (execRegisterWrite_held _ _ _ _ _ _ _ (.refl s) _ h)
  | tsigAdd => exact .held (execTsigAdd_kept _ _ _ (.refl s) _ h).held
  | hostReadError => exact .held (execHostReadError_kept _ _ _ _ _ _ _ _ _ (.refl s) _ h).held
  | correctableEvent => exact .held (execCorrectableEvent_kept _ _ _ _ _ _ _ (.refl s) _ h).held
  | bucketLeak => exact .held (execBucketLeak_kept _ _ _ _ (.refl s) _ h).held
  | flipArm => exact .held (execFlipArm_kept _ _ _ _ (.refl s) _ h).held
  | scrubRow => exact .held (execScrubRow_kept _ _ _ (.refl s) _ h).held
  | retirement => exact .held (execRetirement_kept _ _ _ _ _ _ (.refl s) _ h).held
  | elogRetire => exact .held (execElogRetire_kept _ _ _ _ (.refl s) _ h).held
  | serrSubstitute => exact .held (execSerrSubstitute_kept _ _ _ _ _ _ (.refl s) _ h).held
  | mirrorRestore => exact .held (execMirrorRestore_kept _ _ _ (.refl s) _ h).held
  | elogDone => exact .held (execElogDone_kept _ _ _ (.refl s) _ h).held
  | elogClearLost => exact .held (execElogClearLost_kept _ _ (.refl s) _ h).held
  | elogClearFirst => exact .held (execElogClearFirst_kept _ _ (.refl s) _ h).held
  | itemCommit => exact .held (execItemCommit_kept _ _ _ (.refl s) _ h).held
  | itemReplay => exact .held (execItemReplay_kept _ _ (.refl s) _ h).held
  | receiptExpiry => exact .held (execReceiptExpiry_kept _ (.refl s) _ h).held
  | sensorSample => exact .held (execSensorSample_kept _ _ (.refl s) _ h).held
  | rateCheck => exact .held (execRateCheck_kept _ (.refl s) _ h).held
  | thermalCeilingRise => exact .held (execThermalCeilingRise_kept _ _ (.refl s) _ h).held
  | droopDetect => exact .held (execDroopDetect_kept _ _ _ (.refl s) _ h).held
  | droopRelease => exact .held (execDroopRelease_kept _ _ _ (.refl s) _ h).held
  | powerSample => exact .held (execPowerSample_kept _ _ _ _ _ (.refl s) _ h).held
  | capCeilingRise => exact .held (execCapCeilingRise_kept _ (.refl s) _ h).held
  | budgetDecreaseApply => exact .held (execBudgetDecreaseApply_kept _ (.refl s) _ h).held
  | setNumericEffecterValue => exact .held (execSetNumericEffecterValue_kept _ _ _ (.refl s) _ h).held
  | pldmGetSensor => exact .held (execPldmGetSensor_kept _ _ (.refl s) _ h).held
  | budgetTimeout => exact .held (execBudgetTimeout_kept _ (.refl s) _ h).held
  | allocatorInterval => exact .held (execAllocatorInterval_kept _ (.refl s) _ h).held
  | learnSave => exact .held (execLearnSave_kept _ (.refl s) _ h).held
  | learnReset => exact .held (execLearnReset_kept _ _ (.refl s) _ h).held
  | trClear => exact .held (execTrClear_kept _ _ _ (.refl s) _ h).held
  | lcsReq => exact .held (execLcsReq_held _ _ _ _ (.refl s) _ h)
  | fuseProgramDone => exact .held (execFuseProgramDone_held _ (.refl s) _ h)
  | lcsReset => exact .held (execLcsReset_held _ _ (.refl s) _ h)
  | retlistClear => exact .held (execRetlistClear_kept _ _ (.refl s) _ h).held
  | sliceStart => exact .held (execSliceStart_kept _ (.refl s) _ h).held
  | coreSliceDone => exact .held (execCoreSliceDone_kept _ _ _ _ _ (.refl s) _ h).held
  | bankSliceDone => exact .held (execBankSliceDone_kept _ _ _ _ _ _ (.refl s) _ h).held
  | bistCore => exact .held (execBistCore_kept _ _ _ _ (.refl s) _ h).held
  | bistBanks => exact .held (execBistBanks_kept _ _ _ _ _ _ (.refl s) _ h).held
  | bistPort => exact .held (execBistPort_kept _ _ _ (.refl s) _ h).held
  | bistSpan => exact .held (execBistSpan_kept _ _ _ (.refl s) _ h).held
  | bistDone => exact .held (execBistDone_kept _ _ _ _ _ _ _ _ _ _ (.refl s) _ h).held
  | irqLevelChange => exact .held (execIrqLevelChange_kept _ _ _ _ (.refl s) _ h).held
  | irqEdge => exact .held (execIrqEdge_kept _ _ _ _ (.refl s) _ h).held
  | irqClaim => exact .held (execIrqClaim_kept _ _ _ (.refl s) _ h).held
  | irqComplete => exact .held (execIrqComplete_kept _ _ _ _ (.refl s) _ h).held
  | irqStackReset => exact .held (execIrqStackReset_kept _ _ _ (.refl s) _ h).held
  | irqpSwSet => exact .held (execIrqpSwSet_kept _ _ _ _ (.refl s) _ h).held
  | irqTimer => exact .held (execIrqTimer_kept _ _ (.refl s) _ h).held
  | irqSwSet => exact .held (execIrqSwSet_kept _ _ _ (.refl s) _ h).held
  | irqEoi => exact .held (execIrqEoi_kept _ _ _ (.refl s) _ h).held
  | irqTargetWrite => exact .held (execIrqTargetWrite_kept _ _ _ _ _ (.refl s) _ h).held
  | msixSend => exact .held (execMsixSend_kept _ _ _ _ (.refl s) _ h).held
  | timeCorrWrite => exact .held (execTimeCorrWrite_kept _ _ _ (.refl s) _ h).held
  | vmgmtLoss => exact .of_rail (.inr (.inr rfl)) (execVmgmtLoss_held _ _ h)
  | resetNRelease => exact .held (execResetNRelease_kept _ (.refl s) _ h).held
  | pcieLinkDown => exact .held (execPcieLinkDown_kept _ _ (.refl s) _ h).held
  | pcieLinkUp => exact .held (execPcieLinkUp_kept _ _ _ _ _ (.refl s) _ h).held
  | pcieConfigWrite => exact .held (execPcieConfigWrite_kept _ _ _ _ (.refl s) _ h).held
  | i3cDynamicAddress => exact .held (execI3cDynamicAddress_kept _ _ (.refl s) _ h).held
  | msixEntryUnmask => exact .held (execMsixEntryUnmask_kept _ _ _ (.refl s) _ h).held
  | pldmBaseRequest => exact .held (execPldmBaseRequest_kept _ _ (.refl s) _ h).held

/-- Every command answers a next state: each meaning is one. -/
theorem exec_next (c : Instr) (s : State) : ∃ t, exec c s = .next t := by
  cases c
  all_goals exact ⟨_, rfl⟩

/-- No command changes the fuses or the queue. -/
theorem ExecOutcome.fuse_pending {c : Instr} {s t : State} (o : ExecOutcome c s t) :
    t.fuse = s.fuse ∧ t.pending = s.pending := by
  cases o with
  | held h => exact ⟨h.fuse, h.pending⟩
  | rails _ h => exact ⟨h.fuse, h.pending⟩
  | fused _ h => exact ⟨h.fuse.trans (readFuses_fuse s), h.pending.trans (readFuses_pending s)⟩

/-- A command leaves the tick, or is one of the power rails and sets it to zero (R24, R592). -/
theorem ExecOutcome.tick {c : Instr} {s t : State} (o : ExecOutcome c s t) :
    t.tick = s.tick ∨ (RailCommand c ∧ t.tick = 0) := by
  cases o with
  | held h => exact .inl h.tick
  | rails hc h => exact .inr ⟨hc, h.tick⟩
  | fused _ h => exact .inl (h.tick.trans (readFuses_tick s))

/-- The rise of power-good holds the tick at zero (R592). -/
theorem powerGoodRiseEffect_tick (straps : Fin 4096) (s : State) : (powerGoodRiseEffect straps s).tick = 0 := by
  unfold powerGoodRiseEffect putBoot
  rfl

/-- Settles O3: the lemma of each command's meaning says that fuses and queue stand. -/
theorem everyCommandGoesOn : Obligations.EveryCommandGoesOn := by
  intro c s
  obtain ⟨t, ht⟩ := exec_next c s
  exact ⟨t, ht, (exec_outcome ht).fuse_pending⟩

/-- Settles O2: of the outcomes of a command only one of the power rails touches the tick. -/
theorem tickSetOnlyAtPowerGood : Obligations.TickSetOnlyAtPowerGood := by
  refine ⟨fun straps s hv hp => ?_, fun c s t h h1 h2 h3 => ?_, fun c s t h => ?_⟩
  · refine ⟨powerGoodRiseEffect straps s, ?_, powerGoodRiseEffect_tick straps s⟩
    show execPowerGoodRise straps s = _
    simp [execPowerGoodRise, powerGoodRiseReady, hv, hp]
  · rcases (exec_outcome h).tick with ht | ⟨hc, -⟩
    · exact ht
    · rcases hc with ⟨straps, hc⟩ | hc | hc
      · exact absurd hc (h1 straps)
      · exact absurd hc h2
      · exact absurd hc h3
  · exact (exec_outcome h).tick.imp_right And.right

/-! ### The idle step -/

/-- The mailbox's answers in time change registers and the host side alone (R508). -/
theorem mbSet_same {l : List Part} {s₀ s : State} (h : SameBut l s₀ s) (hr : .regs ∈ l) (fn k st status : Nat) :
    SameBut l s₀ (mbSet s fn k st status) :=
  same_mk h

theorem mbProgress_same {l : List Part} {s₀ s : State} (h : SameBut l s₀ s) (hr : .regs ∈ l) (hh : .ho ∈ l)
    (fn k : Nat) : SameBut l s₀ (mbProgress fn k s) :=
  same_mk h

theorem pollProgress_same {l : List Part} {s₀ s : State} (h : SameBut l s₀ s) (hr : .regs ∈ l) (hh : .ho ∈ l)
    (fn k : Nat) : SameBut l s₀ (pollProgress fn k s) :=
  same_mk h

theorem mbTimeSlot_same {l : List Part} {s₀ s : State} (h : SameBut l s₀ s) (hr : .regs ∈ l) (hh : .ho ∈ l)
    (x : Nat × Nat) : SameBut l s₀ (mbTimeSlot s x) := by
  unfold mbTimeSlot
  extract_lets at_ s1
  have h1 : SameBut l s₀ s1 := by
    unfold s1
    split
    · exact mbSet_same h hr _ _ _ _
    · exact h
  split
  · split
    · exact pollProgress_same h1 hr hh _ _
    · exact mbProgress_same h1 hr hh _ _
  · exact h1

/-- The passing of time changes registers and the host side alone. -/
theorem mbTimes_same {l : List Part} (s : State) (hr : .regs ∈ l) (hh : .ho ∈ l) : SameBut l s (mbTimes s) := by
  unfold mbTimes
  split
  · exact same_foldl (fun t x ht => mbTimeSlot_same ht hr hh x) (.refl s)
  · exact .refl s

/-- Without a submitted slot nothing of the mailbox changes with time. -/
theorem mbTimes_of_no_slot {s : State} (h : s.ho.mb = []) : mbTimes s = s := by
  unfold mbTimes
  simp [h]

/-- Settles O1: an idle step is `mbTimes` after `occTick` after `tickOnce`, and each changes its own part. -/
theorem stepRunsFrontCommand : Obligations.StepRunsFrontCommand := by
  refine ⟨fun c s rest h => by simp [step, h], fun s h => ⟨fun hp => ?_, fun hp => by simp [step, h, hp]⟩⟩
  let u := occTick (tickOnce s)
  have hu : u = { s with tick := (s.tick + 1) % 2 ^ 64, pkg := u.pkg } := by
    simp [u, occTick, tickOnce, hp, putPower]
  have hm : SameBut [.regs, .ho] u (mbTimes u) := mbTimes_same u (by simp) (by simp)
  have ht : (mbTimes u).tick = u.tick := hm.tick.resolve_right (by decide)
  have hk : (mbTimes u).pkg = u.pkg := hm.pkg.resolve_right (by decide)
  refine ⟨mbTimes u, by simp [step, h, hp, u], ?_, ?_, ?_, ?_⟩
  · rw [ht, hu]
  · rw [hk]
    simp [u, occTick, putPower]
  · have hs : SameBut [.tick, .regs, .ho, .pkg] s u := by
      rw [hu]
      exact same_mk (.refl s) (htick := .inr (by decide)) (hpkg := .inr (by decide))
    exact hs.trans (hm.mono (by decide))
  · intro hmb
    rw [mbTimes_of_no_slot (by rw [hu]; exact hmb), hu]
    exact ⟨rfl, rfl⟩

end Sys2Proof.Machine
end

section
/-!
SUPPORT. Registers and their fields (R19 to R23): the tables are sound, what a write by field types leaves behind, and what
a rejected write does.
-/
namespace Sys2Proof.Machine

/-! ### The tables of registers -/

/-- Fields of one register: each lies in its 64 bits, and no two share a bit. -/
def fieldsSound (r : Reg) (l : List RField) : Bool :=
  l.all (fun f => f.reg == r && decide (f.lo + f.w ≤ 64))
    && decide (l.Pairwise (fun f g => f.lo + f.w ≤ g.lo ∨ g.lo + g.w ≤ f.lo))

theorem fieldsSound_cons {r : Reg} {f : RField} {l : List RField} (h : fieldsSound r (f :: l) = true) :
    f.reg = r ∧ f.lo + f.w ≤ 64 ∧ (∀ g ∈ l, f.lo + f.w ≤ g.lo ∨ g.lo + g.w ≤ f.lo) ∧ fieldsSound r l = true := by
  simp only [fieldsSound, List.all_cons, Bool.and_eq_true, beq_iff_eq, decide_eq_true_eq, List.pairwise_cons] at h ⊢
  obtain ⟨⟨⟨hr, hw⟩, hl⟩, ha, hp⟩ := h
  exact ⟨hr, hw, ha, hl, hp⟩

theorem fieldsSound_reg {r : Reg} {l : List RField} (h : fieldsSound r l = true) : ∀ f ∈ l, f.reg = r := by
  simp only [fieldsSound, Bool.and_eq_true, List.all_eq_true, beq_iff_eq] at h
  exact fun f hf => (h.1 f hf).1

/-- Every register of every page is sound. -/
theorem rows_sound (b : Blk) : ∀ r ∈ rowsHdr ++ blkRows b, fieldsSound r.reg r.flds = true := by
  cases b <;> decide

/-- FN.MB_GO lies behind the common header. -/
theorem fnMbGo_beyond_header : ∀ r ∈ rowsHdr ++ blkRows .fn, r.reg = .fnMbGo → 0x100 ≤ r.off := by decide

/-- A register found at an offset is an element of its row. -/
theorem rowAt_some {off : Nat} {r : RegRow} {a : RegAt} (h : rowAt off r = some a) :
    r.off ≤ off ∧ a.reg = r.reg ∧ a.flds = r.flds := by
  unfold rowAt at h
  dsimp only at h
  split at h
  · cases h
  · next hn =>
    cases h
    exact ⟨by omega, rfl, rfl⟩

theorem regAt_some {b : Blk} {off : Nat} {a : RegAt} (h : regAt b off = some a) :
    ∃ r ∈ rowsHdr ++ blkRows b, r.off ≤ off ∧ a.reg = r.reg ∧ a.flds = r.flds := by
  obtain ⟨r, hr, ha⟩ := List.exists_of_findSome?_eq_some h
  exact ⟨r, hr, rowAt_some ha⟩

theorem regAt_sound {b : Blk} {off : Nat} {a : RegAt} (h : regAt b off = some a) :
    fieldsSound a.reg a.flds = true := by
  obtain ⟨r, hr, -, hreg, hflds⟩ := regAt_some h
  rw [hreg, hflds]
  exact rows_sound b r hr

/-! ### Fields by their types (R22, R23) -/

theorem rdR_congr {s t : State} (h : t.regs = s.regs) (r : Reg) (pg k : Nat) : rdR t r pg k = rdR s r pg k := by
  simp [rdR, h]

theorem getF_congr {s t : State} (h : t.regs = s.regs) (f : RField) (pg k : Nat) : getF t f pg k = getF s f pg k := by
  simp [getF, rdR_congr h]

theorem getF_lt (s : State) (f : RField) (pg k : Nat) : getF s f pg k < 2 ^ f.w := Nat.mod_lt _ (Nat.two_pow_pos _)

theorem fieldTakes_lt (f : RField) {old v : Nat} (h : old < 2 ^ f.w) : fieldTakes f old v < 2 ^ f.w := by
  have hv : bits v f.lo f.w < 2 ^ f.w := Nat.mod_lt _ (Nat.two_pow_pos _)
  unfold fieldTakes
  split
  · exact hv
  · exact hv
  · omega
  · exact Nat.or_lt_two_pow h hv
  · exact h

/-- A staged field changes what is staged and nothing else (R22). -/
theorem stageField_staged (s : State) (pg k v : Nat) (f : RField) :
    stageField s pg k v f = { s with staged := (stageField s pg k v f).staged } := by
  unfold stageField
  dsimp only
  split <;> rfl

/-- One field of a write takes what its type says, or leaves every register. -/
theorem fieldApply_cases (pg k v : Nat) (s : State) (f : RField) :
    fieldApply pg k v s f = setF s f pg (fieldTakes f (getF s f pg k) v) k
      ∨ fieldTakes f (getF s f pg k) v = getF s f pg k
        ∧ fieldApply pg k v s f = { s with staged := (fieldApply pg k v s f).staged } := by
  unfold fieldApply fieldTakes
  cases hty : f.ty
  case rws => exact .inr ⟨rfl, stageField_staged s pg k v f⟩
  case ro => exact .inr ⟨rfl, rfl⟩
  case wo => exact .inr ⟨rfl, rfl⟩
  case rwl => exact .inl rfl
  case rwq => exact .inl rfl
  case w1c => exact .inl rfl
  case w1s => exact .inl rfl

theorem getF_fieldApply (pg k v : Nat) (s : State) (f : RField) (h : f.lo + f.w ≤ 64) :
    getF (fieldApply pg k v s f) f pg k = fieldTakes f (getF s f pg k) v := by
  rcases fieldApply_cases pg k v s f with e | ⟨ht, e⟩
  · rw [e, getF_setF _ _ _ _ _ h, Nat.mod_eq_of_lt (fieldTakes_lt f (getF_lt s f pg k))]
  · rw [e, ht]
    rfl

theorem getF_fieldApply_apart {pg k v : Nat} {s : State} {f g : RField} (hr : g.reg = f.reg) (hf : f.lo + f.w ≤ 64)
    (h : f.lo + f.w ≤ g.lo ∨ g.lo + g.w ≤ f.lo) : getF (fieldApply pg k v s f) g pg k = getF s g pg k := by
  rcases fieldApply_cases pg k v s f with e | ⟨-, e⟩
  · rw [e, getF_setF_apart hr hf h.symm]
  · rw [e]
    rfl

theorem rdR_fieldApply_ne {pg k v : Nat} {s : State} {f : RField} {r : Reg} {q j : Nat}
    (h : (r, q, j) ≠ (f.reg, pg, k)) : rdR (fieldApply pg k v s f) r q j = rdR s r q j := by
  rcases fieldApply_cases pg k v s f with e | ⟨-, e⟩
  · rw [e, rdR_setF_ne _ _ _ _ _ _ _ _ h]
  · rw [e]
    rfl

theorem fieldApply_same {l : List Part} {s₀ s : State} (h : SameBut l s₀ s) (hr : .regs ∈ l) (hs : .staged ∈ l)
    (pg k v : Nat) (f : RField) : SameBut l s₀ (fieldApply pg k v s f) := by
  rcases fieldApply_cases pg k v s f with e | ⟨-, e⟩
  · rw [e]
    exact same_mk h
  · rw [e]
    exact same_mk h

/-- A field that shares no bit with the fields written reads as before. -/
theorem getF_fold_fieldApply_apart {r : Reg} (pg k v : Nat) {g : RField} (hg : g.reg = r) (l : List RField) (s : State)
    (hl : fieldsSound r l = true) (ha : ∀ f ∈ l, f.lo + f.w ≤ g.lo ∨ g.lo + g.w ≤ f.lo) :
    getF (l.foldl (fieldApply pg k v) s) g pg k = getF s g pg k := by
  induction l generalizing s with
  | nil => rfl
  | cons f l ih =>
    obtain ⟨hf, hw, -, hl'⟩ := fieldsSound_cons hl
    rw [List.foldl_cons, ih _ hl' (fun x hx => ha x (List.mem_cons_of_mem _ hx))]
    exact getF_fieldApply_apart (hg.trans hf.symm) hw (ha f List.mem_cons_self)

/-- Fields written one after the other: each of them takes what its type says. -/
theorem getF_fold_fieldApply {r : Reg} (pg k v : Nat) (l : List RField) (s : State) (h : fieldsSound r l = true) :
    ∀ f ∈ l, getF (l.foldl (fieldApply pg k v) s) f pg k = fieldTakes f (getF s f pg k) v := by
  induction l generalizing s with
  | nil => simp
  | cons g l ih =>
    obtain ⟨hg, hw, hap, hl⟩ := fieldsSound_cons h
    intro f hf
    rw [List.foldl_cons]
    rcases List.mem_cons.mp hf with rfl | hf'
    · rw [getF_fold_fieldApply_apart pg k v hg l _ hl (fun x hx => (hap x hx).symm), getF_fieldApply _ _ _ _ _ hw]
    · have hfr : f.reg = r := (fieldsSound_reg hl) f hf'
      rw [ih _ hl f hf', getF_fieldApply_apart (hfr.trans hg.symm) hw (hap f hf')]

/-- A write of a register: each of its fields takes what its type says (R23). -/
theorem getF_plainWrite (s : State) (pg : Nat) {r : RegAt} (v : Nat) (h : fieldsSound r.reg r.flds = true) :
    ∀ f ∈ r.flds, getF (plainWrite s pg r v) f pg r.k = fieldTakes f (getF s f pg r.k) v :=
  getF_fold_fieldApply pg r.k v r.flds s h

/-- A write of a register changes no other register. -/
theorem plainWrite_regsBut (s : State) (pg : Nat) {r : RegAt} (v : Nat) (h : fieldsSound r.reg r.flds = true) :
    regsBut [(r.reg, pg, r.k)] s (plainWrite s pg r v) := by
  intro q qg j hq
  have hreg := fieldsSound_reg h
  unfold plainWrite
  generalize r.flds = l at hreg
  induction l generalizing s with
  | nil => rfl
  | cons f l ih =>
    have hf : f.reg = r.reg := hreg f List.mem_cons_self
    rw [List.foldl_cons, ih _ (fun x hx => hreg x (List.mem_cons_of_mem _ hx))]
    exact rdR_fieldApply_ne (by rw [hf]; simpa using hq)

/-- A write of a register changes registers and staged fields alone. -/
theorem plainWrite_same (s : State) (pg : Nat) (r : RegAt) (v : Nat) :
    SameBut [.regs, .staged] s (plainWrite s pg r v) :=
  same_foldl (fun _ f ht => fieldApply_same ht (by decide) (by decide) pg r.k v f) (.refl s)

/-! ### Writes of pages -/

/-- A register of a span without an action of its own takes a write by its field types. -/
theorem spanWrite_plain (sp : Fin 8) (x : PageAt) (pg m : Nat) {r : RegAt} (v : Nat) (s : State)
    (h : r.reg ∉ writeActs) : spanWrite sp x pg m r v s = plainWrite s pg r v := by
  unfold spanWrite
  dsimp only
  split
  iterate 19 (next e => exact absurd (by rw [e]; decide) h)
  rfl

/-- A register of the package without an action of its own takes a write by its field types. -/
theorem packageWrite_plain (x : PageAt) (pg m : Nat) {r : RegAt} (v : Nat) (s : State)
    (h : r.reg ∉ writeActs) : packageWrite x pg m r v s = plainWrite s pg r v := by
  unfold packageWrite
  dsimp only
  split
  iterate 21 (next e => exact absurd (by rw [e]; decide) h)
  rfl

/-- A register of a function without an action of its own takes a write by its field types. -/
theorem fnRegWrite_plain (fn : Fin 128) {lo : Nat} {r : RegAt} (v : Nat) (s : State) (hlo : 0x100 ≤ lo)
    (h : r.reg ∉ writeActs) : fnRegWrite fn lo r v s = plainWrite s (pgFn fn) r v := by
  unfold fnRegWrite isHead
  rw [if_neg (by simp; omega)]
  split
  iterate 5 (next e => exact absurd (by rw [e]; decide) h)
  rfl

/-- FN.MB_GO written with GO set: an edge at the package control core, and the slot is submitted (R507). -/
theorem fnRegWrite_mbGo (fn : Fin 128) {lo v : Nat} {r : RegAt} (s : State) (hr : regAt .fn lo = some r)
    (hgo : r.reg = .fnMbGo) (hv : bitAt v 16 = true) :
    fnRegWrite fn lo r v s = mbGo fn r.k (bits v 0 16) (privEdgeEvent s 8 (15 + fn / 64)) := by
  obtain ⟨row, hrow, hoff, hreg, -⟩ := regAt_some hr
  have hlo : 0x100 ≤ lo := Nat.le_trans (fnMbGo_beyond_header row hrow (hreg.symm.trans hgo)) hoff
  simp [fnRegWrite, isHead, Nat.not_lt.mpr hlo, hgo, hv]

theorem blockWrite_quiesce {x : PageAt} {pg m lo : Nat} {r : RegAt} {v : Nat} {s : State} {f : RField}
    (h : quietFails s x pg r v = some f) : blockWrite x pg m lo r v s = reject s pg .quiesce m lo f.lo := by
  simp [blockWrite, h]

theorem blockWrite_range {x : PageAt} {pg m lo : Nat} {r : RegAt} {v : Nat} {s : State} {c : Rej × Nat}
    (hq : quietFails s x pg r v = none) (h : windowRange s x pg m r v = some c) :
    blockWrite x pg m lo r v s = reject s pg c.1 m lo c.2 := by
  simp [blockWrite, hq, h]

theorem blockWrite_plain {x : PageAt} {pg m lo : Nat} {r : RegAt} {v : Nat} {s : State}
    (hq : quietFails s x pg r v = none) (h : windowRange s x pg m r v = none) (hlo : 0x100 ≤ lo)
    (hr : r.reg ∉ writeActs) : blockWrite x pg m lo r v s = plainWrite s pg r v := by
  have hn : isHead lo = false := by simp [isHead]; omega
  simp only [blockWrite, hq, h, hn, Bool.false_eq_true, if_false]
  split
  · exact spanWrite_plain _ x pg m v s hr
  · exact packageWrite_plain x pg m v s hr

/-- A write of the header takes no notice of the block. -/
theorem blockWrite_head {x : PageAt} {pg m lo : Nat} {r : RegAt} {v : Nat} {s : State}
    (hq : quietFails s x pg r v = none) (h : windowRange s x pg m r v = none) (hlo : lo < 0x100) :
    blockWrite x pg m lo r v s = headWrite s pg r v := by
  simp [blockWrite, hq, h, isHead, hlo]

/-- A page of the window that is present and is neither OWN nor a control core's own. -/
structure BlockPage (s : State) (pg : Nat) (x : PageAt) : Prop where
  page : pageAt pg = some x
  notOwn : x.blk ≠ .own
  notIrqp : x.blk ≠ .irqp
  present : pageCause s x = 0

theorem BlockPage.ne_pgOwn {s : State} {pg : Nat} {x : PageAt} (h : BlockPage s pg x) : pg ≠ pgOwn := by
  rintro rfl
  have hp := h.page
  rw [show pageAt pgOwn = some ⟨.own, 15, 0⟩ from rfl] at hp
  cases hp
  exact h.notOwn rfl

/-- A write of such a page meets the gate, then the table of the page, then the checks of the register (R513, R520). -/
theorem windowWrite_blockPage {s : State} {pg lo : Nat} {x : PageAt} (h : BlockPage s pg x) (hlo : lo < 4096)
    (hal : lo % 8 = 0) (m who v : Nat) :
    windowWrite m who (4096 * pg + lo) 8 v s =
      (writeGate s pg m).elim
        ((regAt x.blk lo).elim (reject s pg .width m lo 0) (fun r => blockWrite x pg m lo r v s))
        (fun c => reject s pg c m lo 0) := by
  have hp : (4096 * pg + lo) / 4096 = pg := by omega
  have hl : (4096 * pg + lo) % 4096 = lo := by omega
  have ha : (4096 * pg + lo) % 8 = 0 := by omega
  obtain ⟨hpage, hown, hirqp, hc⟩ := h
  cases hg : writeGate s pg m with
  | some c => simp [windowWrite, hp, hl, ha, hpage, hc, hg]
  | none => cases hr : regAt x.blk lo <;> simp [windowWrite, hp, hl, ha, hpage, hc, hg, hr]

/-- While the clocks run a write of a page other than OWN comes about. -/
theorem windowStep_running {s : State} (h : running s = true) {off : Nat} (hoff : off / 4096 ≠ pgOwn) (m : Nat)
    (t : State) : windowStep s m off t = t := by
  have hv : s.pkg.boot.vmgmt = true := by
    simp only [running, Bool.and_eq_true] at h
    exact h.1.1.1
  unfold windowStep
  rw [if_neg hoff, if_pos hv, clocked_running h, ite_self]

/-- A write over the register window while the clocks run, of a page other than OWN. -/
theorem exec_registerWrite_window {s : State} (h : running s = true) {off v : Nat} (hoff : off / 4096 ≠ pgOwn)
    (m who size : Nat) :
    exec (.registerWrite false who off size v m) s = .next (windowWrite m who off size (v % 2 ^ 64) s) :=
  congrArg Host.Outcome.next (windowStep_running h hoff m _)

/-! ### Rejected writes (R520) -/

/-- A rejected write changes registers alone, and leaves its code. -/
theorem reject_rejected (s : State) (pg : Nat) (c : Rej) (m off lsb : Nat) :
    WriteRejected s (reject s pg c m off lsb) pg (rejCode c) :=
  ⟨reject_regs s pg c m off lsb, reject_wstat s pg c m off lsb⟩

/-- A rejection that its own page cannot record stands in a page of the master's own path. -/
theorem rejectPath_rejected (s : State) (c : Rej) {m : Nat} (hm : m < 4) (off lsb : Nat) :
    WriteRejected s (rejectPath s c m off lsb) (if m = 0 then pgHif 0 else if m = 1 then pgHif 1 else pgOwn)
      (rejCode c) := by
  match m, hm with
  | 0, _ | 1, _ | 2, _ | 3, _ => exact reject_rejected s _ c _ off lsb

/-- A write of another width or alignment is rejected on the writer's path (R19). -/
theorem windowWrite_misaligned (m who v : Nat) {off size : Nat} (s : State) (h : size ≠ 8 ∨ off % 8 ≠ 0) :
    windowWrite m who off size v s = rejectPath s .width m (off % 4096) 0 := by
  unfold windowWrite
  dsimp only
  split
  · rfl
  · rw [if_pos h]

/-! ### The mailbox's GO (R507) -/

theorem mbReg_congr {s t : State} {fn k : Nat} (h : ∀ pg j, rdR t .fnMbCmd pg j = rdR s .fnMbCmd pg j) (w : Nat) :
    mbReg t fn k w = mbReg s fn k w := by
  unfold mbReg getF
  rw [show fFnMbCmdData.reg = .fnMbCmd from rfl, h]

/-- Whether a slot holds a command is read from its command words and from the commands that go on. -/
theorem mbWellFormed_congr {s t : State} (h : ∀ pg j, rdR t .fnMbCmd pg j = rdR s .fnMbCmd pg j)
    (hl : t.ho.late = s.ho.late) (fn k : Nat) : mbWellFormed t fn k = mbWellFormed s fn k := by
  have hw : ∀ w, mbWord t fn k w = mbWord s fn k w := by
    intro w
    unfold mbWord
    rw [hl]
    simp only [mbReg_congr h]
  unfold mbWellFormed mbOp
  simp only [hw]

/-- A command at the front is not swept away. -/
theorem mbClear_of_front {s : State} {fn k : Nat} (hf : mbFront s = some (fn, k)) (hw : mbWellFormed s fn k = true) :
    mbClear s = s := by
  unfold mbClear
  cases s.ho.late.length + s.ho.mb.length with
  | zero => rfl
  | succ n => simp [mbSweep, hf, hw]

/-- An edge at a private source changes that source and the count of merged edges. -/
theorem privEdgeEvent_eq (s : State) (core j : Nat) :
    privEdgeEvent s core j = { s with regs := (privEdgeEvent s core j).regs, pkg := (privEdgeEvent s core j).pkg } := by
  unfold privEdgeEvent
  dsimp only
  split <;> rfl

theorem getPriv_privEdgeEvent (s : State) (core j : Nat) :
    getPriv (privEdgeEvent s core j) core j = (edgeSt (getPriv s core j)).1 := by
  unfold privEdgeEvent
  dsimp only
  split <;> exact look_put _ _ _ _

theorem rdR_privEdgeEvent (s : State) (core j : Nat) {r : Reg} (hr : r ≠ .irqpMerged) (pg k : Nat) :
    rdR (privEdgeEvent s core j) r pg k = rdR s r pg k := by
  unfold privEdgeEvent
  dsimp only
  split
  · exact rdR_setF_ne _ _ _ _ _ _ _ _ (by simp [fIrqpMergedCount, hr])
  · rfl

/-- Looking again at a function's interrupt changes only whether it has been raised. -/
theorem fnIrqNote_regs (fn : Nat) (s : State) : (fnIrqNote fn s).regs = s.regs := by
  unfold fnIrqNote putIrq
  split <;> rfl

theorem fnIrqNote_ho (fn : Nat) (s : State) : (fnIrqNote fn s).ho = s.ho := by
  unfold fnIrqNote putIrq
  split <;> rfl

theorem getPriv_fnIrqNote (fn : Nat) (s : State) (core j : Nat) : getPriv (fnIrqNote fn s) core j = getPriv s core j := by
  unfold fnIrqNote putIrq
  split <;> rfl

theorem fnIrqNote_same {l : List Part} {s₀ s : State} (h : SameBut l s₀ s) (hp : .pkg ∈ l) (fn : Nat) :
    SameBut l s₀ (fnIrqNote fn s) := by
  unfold fnIrqNote putIrq
  split
  · exact h
  · exact same_mk h

theorem setF_regs_congr {s t : State} (h : t.regs = s.regs) (f : RField) (pg v k : Nat) :
    (setF t f pg v k).regs = (setF s f pg v k).regs := by
  simp only [setF, wrR, rdR_congr h, h]

theorem mbSet_regs_congr {s t : State} (h : t.regs = s.regs) (fn k st status : Nat) :
    (mbSet t fn k st status).regs = (mbSet s fn k st status).regs := by
  have h2 := setF_regs_congr (setF_regs_congr h fFnMbStateState (pgFn fn) st k) fFnMbStateStatus (pgFn fn) status k
  unfold mbSet irqSrc setBitF
  rw [getF_congr h2, setF_regs_congr h2]

theorem rdR_mbSet (s : State) {r : Reg} (h1 : r ≠ .fnMbState) (h2 : r ≠ .blkIrqPend) {fn k st status : Nat} (pg j : Nat) :
    rdR (mbSet s fn k st status) r pg j = rdR s r pg j := by
  unfold mbSet irqSrc setBitF
  rw [rdR_setF_ne _ _ _ _ _ _ _ _ (fun e => h2 (congrArg Prod.fst e)),
    rdR_setF_ne _ _ _ _ _ _ _ _ (fun e => h1 (congrArg Prod.fst e)),
    rdR_setF_ne _ _ _ _ _ _ _ _ (fun e => h1 (congrArg Prod.fst e))]

theorem getF_mbSet_state (s : State) (fn k st status : Nat) :
    getF (mbSet s fn k st status) fFnMbStateState (pgFn fn) k = st % 2 ^ 3 := by
  unfold mbSet irqSrc setBitF
  rw [getF_setF_ne (by simp [fFnMbStateState, fBlkIrqPendSrc])]
  simp (disch := decide) only [getF_setF_apart, getF_setF]
  rfl

theorem getF_mbSet_tag (s : State) (fn k st status : Nat) :
    getF (mbSet s fn k st status) fFnMbStateTag (pgFn fn) k = getF s fFnMbStateTag (pgFn fn) k := by
  unfold mbSet irqSrc setBitF
  rw [getF_setF_ne (by simp [fFnMbStateTag, fBlkIrqPendSrc])]
  simp (disch := decide) only [getF_setF_apart]

/-- A slot put behind those submitted, with the tick of its GO write (R507, R508). -/
def mbQueue (fn k : Nat) (s : State) : State :=
  { s with ho := { s.ho with mb := s.ho.mb ++ [(fn, k)], mbAt := put s.ho.mbAt (fn, k) s.tick } }

/-- A slot as its GO write leaves it: submitted, with its tag (R507). -/
def mbSubmit (fn k tag : Nat) (s : State) : State :=
  mbSet (mbQueue fn k (setB (setF s fFnMbStateTag (pgFn fn) tag k) fFnMbStateTakeover (pgFn fn) false k)) fn k 1 0

theorem mbGo_eq (fn k tag : Nat) (s : State) :
    mbGo fn k tag s = if mbServed (mbSubmit fn k tag s) then mbClear (mbSubmit fn k tag s) else mbSubmit fn k tag s :=
  rfl

theorem mbSubmit_ho (fn k tag : Nat) (s : State) : (mbSubmit fn k tag s).ho =
    { s.ho with mb := s.ho.mb ++ [(fn, k)], mbAt := put s.ho.mbAt (fn, k) s.tick } := rfl

theorem getPriv_mbSubmit (fn k tag : Nat) (s : State) (core j : Nat) :
    getPriv (mbSubmit fn k tag s) core j = getPriv s core j := rfl

theorem mbSubmit_same {l : List Part} {s₀ s : State} (h : SameBut l s₀ s) (hr : .regs ∈ l) (hh : .ho ∈ l)
    (fn k tag : Nat) : SameBut l s₀ (mbSubmit fn k tag s) :=
  same_mk h

theorem mbQueue_regs (fn k : Nat) (s : State) : (mbQueue fn k s).regs = s.regs := rfl

theorem mbSubmit_regs (fn k tag : Nat) (s : State) : (mbSubmit fn k tag s).regs =
    (mbSet (setB (setF s fFnMbStateTag (pgFn fn) tag k) fFnMbStateTakeover (pgFn fn) false k) fn k 1 0).regs := by
  unfold mbSubmit
  exact mbSet_regs_congr (mbQueue_regs fn k _) fn k 1 0

theorem rdR_mbSubmit (fn k tag : Nat) (s : State) {r : Reg} (h1 : r ≠ .fnMbState) (h2 : r ≠ .blkIrqPend) (pg j : Nat) :
    rdR (mbSubmit fn k tag s) r pg j = rdR s r pg j := by
  rw [rdR_congr (mbSubmit_regs fn k tag s), rdR_mbSet _ h1 h2,
    rdR_setB_ne _ _ _ _ _ _ _ _ (fun e => h1 (congrArg Prod.fst e)),
    rdR_setF_ne _ _ _ _ _ _ _ _ (fun e => h1 (congrArg Prod.fst e))]

/-- A submitted slot that is alone, and holds a command, waits at the front. -/
theorem mbGo_alone {s : State} {fn k : Nat} (tag : Nat) (hm : s.ho.mb = []) (hl : s.ho.late = [])
    (hw : mbWellFormed s fn k = true) : mbGo fn k tag s = mbSubmit fn k tag s := by
  have hho := mbSubmit_ho fn k tag s
  have hf : mbFront (mbSubmit fn k tag s) = some (fn, k) := by
    unfold mbFront
    simp [hho, hl, hm]
  have hw' : mbWellFormed (mbSubmit fn k tag s) fn k = true := by
    rw [mbWellFormed_congr (rdR_mbSubmit fn k tag s (by decide) (by decide)) (by rw [hho])]
    exact hw
  rw [mbGo_eq, mbClear_of_front hf hw', ite_self]

theorem getF_mbSubmit_state (fn k tag : Nat) (s : State) :
    getF (mbSubmit fn k tag s) fFnMbStateState (pgFn fn) k = 1 :=
  (getF_congr (mbSubmit_regs fn k tag s) _ _ _).trans (getF_mbSet_state _ fn k 1 0)

theorem getF_mbSubmit_tag (fn k tag : Nat) (s : State) :
    getF (mbSubmit fn k tag s) fFnMbStateTag (pgFn fn) k = tag % 2 ^ 16 := by
  rw [getF_congr (mbSubmit_regs fn k tag s), getF_mbSet_tag, setB]
  simp (disch := decide) only [getF_setF_apart, getF_setF]
  rfl

/-- A write of a function page by its function, where nothing turns it away (R495). -/
theorem exec_registerWrite_fn {s : State} (hrun : running s = true) {fn : Fin 128} (hreach : fnReach s fn = true)
    (hst : stage s = 5) (off size v m : Nat) :
    exec (.registerWrite true fn off size v m) s = .next (fnPageBody fn off size (v % 2 ^ 64) s) := by
  show execRegisterWrite true fn off size v m s = _
  simp [execRegisterWrite, fn.isLt, clocked_running hrun, fnPageWrite, fnWrite, hreach, hst]

theorem fnPageBody_accepted {fn : Fin 128} {off v : Nat} {r : RegAt} {s : State} (h8 : off < 8192) (hal : off % 8 = 0)
    (hr : regAt .fn off = some r) (hq : quietFails s ⟨.fn, 14, fn⟩ (pgFn fn) r v = none)
    (hv : fnRange s fn r v = none) : fnPageBody fn off 8 v s = fnIrqNote fn (fnRegWrite fn off r v s) := by
  simp [fnPageBody, hal, Nat.not_le.mpr h8, hr, hq, hv]

/-! ### The statement -/

/-- A write of a function's register without an action: each field takes what its type says, whatever becomes of the
function's interrupt. -/
theorem fnIrqNote_plainWrite (fn pg v : Nat) {r : RegAt} (s : State) (hs : fieldsSound r.reg r.flds = true) :
    (∀ f ∈ r.flds, getF (fnIrqNote fn (plainWrite s pg r v)) f pg r.k = fieldTakes f (getF s f pg r.k) v)
      ∧ regsBut [(r.reg, pg, r.k)] s (fnIrqNote fn (plainWrite s pg r v))
      ∧ SameBut [.regs, .staged, .pkg] s (fnIrqNote fn (plainWrite s pg r v)) := by
  have hregs := fnIrqNote_regs fn (plainWrite s pg r v)
  refine ⟨fun f hf => ?_, fun q p j hq => ?_, ?_⟩
  · rw [getF_congr hregs, getF_plainWrite s pg v hs f hf]
  · rw [rdR_congr hregs, plainWrite_regsBut s pg v hs q p j hq]
  · exact fnIrqNote_same ((plainWrite_same s pg r v).mono (by decide)) (by decide) fn

/-- A GO write to a mailbox with no slot submitted: the slot waits, with its tag and its tick, and the edge at the package
control core is there (R507, R632). -/
theorem fnIrqNote_mbGo {fn k : Nat} (tag : Nat) {s : State} (hm : s.ho.mb = []) (hl : s.ho.late = [])
    (hw : mbWellFormed s fn k = true) (j : Nat) {t : State}
    (ht : fnIrqNote fn (mbGo fn k tag (privEdgeEvent s 8 j)) = t) :
    t.ho.mb = [(fn, k)] ∧ getF t fFnMbStateState (pgFn fn) k = 1 ∧ getF t fFnMbStateTag (pgFn fn) k = tag % 2 ^ 16
      ∧ look t.ho.mbAt (fn, k) 0 = s.tick ∧ getPriv t 8 j = (edgeSt (getPriv s 8 j)).1
      ∧ SameBut [.regs, .ho, .pkg] s t := by
  obtain ⟨u, hu⟩ : ∃ u, u = privEdgeEvent s 8 j := ⟨_, rfl⟩
  have he := privEdgeEvent_eq s 8 j
  rw [← hu] at he ht
  have hho : u.ho = s.ho := by rw [he]
  have htick : u.tick = s.tick := by rw [he]
  have hsame : SameBut [.regs, .ho, .pkg] s u := by
    rw [he]
    exact same_mk (.refl s) (hregs := .inr (by decide)) (hpkg := .inr (by decide))
  have hwu : mbWellFormed u fn k = true := by
    have hcmd : ∀ pg i, rdR u .fnMbCmd pg i = rdR s .fnMbCmd pg i := fun pg i => by
      rw [hu, rdR_privEdgeEvent s 8 j (by decide)]
    rw [mbWellFormed_congr hcmd (by rw [hho]), hw]
  rw [mbGo_alone tag (by rw [hho, hm]) (by rw [hho, hl]) hwu] at ht
  have hregs : t.regs = (mbSubmit fn k tag u).regs := ht ▸ fnIrqNote_regs _ _
  have htho : t.ho = (mbSubmit fn k tag u).ho := ht ▸ fnIrqNote_ho _ _
  rw [mbSubmit_ho] at htho
  refine ⟨?_, ?_, ?_, ?_, ?_, ?_⟩
  · simp [htho, hho, hm]
  · rw [getF_congr hregs, getF_mbSubmit_state]
  · rw [getF_congr hregs, getF_mbSubmit_tag]
  · simp [htho, look_put, htick]
  · rw [← ht, getPriv_fnIrqNote, getPriv_mbSubmit, hu, getPriv_privEdgeEvent]
  · rw [← ht]
    exact fnIrqNote_same (mbSubmit_same hsame (by decide) (by decide) fn k tag) (by decide) fn

/-- Settles O33: a write meets the gate, the table and the checks in this order, and one that passes them is `plainWrite`,
which gives each field what its type says because the fields of a register share no bit. -/
theorem writesTakeEffectByFieldType : Obligations.WritesTakeEffectByFieldType := by
  refine ⟨?_, ?_, ?_⟩
  · intro pg m who lo v x r s hrun hpage hown hirqp hcause hlo hal hv
    have hx : BlockPage s pg x := ⟨hpage, hown, hirqp, hcause⟩
    have hex : exec (.registerWrite false who (4096 * pg + lo) 8 v m) s
        = .next (windowWrite m who (4096 * pg + lo) 8 v s) := by
      rw [exec_registerWrite_window hrun (by have := hx.ne_pgOwn; omega), Nat.mod_eq_of_lt hv]
    rw [hex, windowWrite_blockPage hx hlo hal]
    refine ⟨fun code hg => ?_, fun hg hr => ?_, fun hg hr => ?_⟩
    · rw [hg, Option.elim_some]
      exact ⟨_, rfl, reject_rejected s pg code m lo 0⟩
    · rw [hg, hr, Option.elim_none, Option.elim_none]
      exact ⟨_, rfl, reject_rejected s pg .width m lo 0⟩
    rw [hg, hr, Option.elim_none, Option.elim_some]
    refine ⟨fun f hq => ?_, fun c hq hc => ?_, fun hq hc hl ha => ?_⟩
    · rw [blockWrite_quiesce hq]
      exact ⟨_, rfl, reject_rejected s pg .quiesce m lo f.lo⟩
    · rw [blockWrite_range hq hc]
      exact ⟨_, rfl, reject_rejected s pg c.1 m lo c.2⟩
    · rw [blockWrite_plain hq hc hl ha]
      have hs := regAt_sound hr
      exact ⟨_, rfl, getF_plainWrite s pg v hs, plainWrite_regsBut s pg v hs, plainWrite_same s pg r v⟩
  · intro m who off size v s hrun hoff hbad hm
    refine ⟨_, exec_registerWrite_window hrun hoff m who size, ?_⟩
    rw [windowWrite_misaligned m who _ s hbad]
    exact rejectPath_rejected s .width hm _ 0
  · intro fn off v m r s hrun hreach hst h8 hal hv hr hq hc
    have hex : exec (.registerWrite true fn off 8 v m) s = .next (fnIrqNote fn (fnRegWrite fn off r v s)) := by
      rw [exec_registerWrite_fn hrun hreach hst, Nat.mod_eq_of_lt hv, fnPageBody_accepted h8 hal hr hq hc]
    rw [hex]
    refine ⟨fun hl ha => ?_, fun hgo hbit hm hlate hw => ?_⟩
    · rw [fnRegWrite_plain fn v s hl ha]
      exact ⟨_, rfl, fnIrqNote_plainWrite fn (pgFn fn) v s (regAt_sound hr)⟩
    · rw [fnRegWrite_mbGo fn s hr hgo hbit]
      obtain ⟨h1, h2, h3, h4, h5, h6⟩ := fnIrqNote_mbGo (bits v 0 16) hm hlate hw (15 + fn / 64) rfl
      exact ⟨_, rfl, h1, h2, by simpa [bits] using h3, h4, h5, h6⟩

end Sys2Proof.Machine
end

section
/-!
SUPPORT. Staged fields (R22, R517, R518): COMMIT and DISCARD, and what the quiescent point of a controller's page does.
-/
namespace Sys2Proof.Machine

/-! ### A staged value put into its register -/

/-- The staged bits of a register are some of its 64. -/
theorem stagedMask_lt (r : Reg) : stagedMask r < 2 ^ 64 := by
  unfold stagedMask
  split <;> decide

/-- A register with its staged bits replaced by those of a staged value. -/
def stagedInto (r : Reg) (old : Nat) (v : Word) : Nat := old - (old &&& stagedMask r) + (v.toNat &&& stagedMask r)

/-- Clearing the bits of a mask and adding those of another value is a choice bit by bit: nothing is carried. -/
theorem masked_toNat {w : Nat} (a v m : BitVec w) :
    a.toNat - (a.toNat &&& m.toNat) + (v.toNat &&& m.toNat) = (a &&& ~~~m ||| v &&& m).toNat := by
  have hsplit : a &&& ~~~m ||| a &&& m = a := by
    ext i hi
    simp only [BitVec.getElem_or, BitVec.getElem_and, BitVec.getElem_not]
    cases m[i] <;> simp
  have hdisj : ∀ x : BitVec w, (a &&& ~~~m) &&& (x &&& m) = 0#w := by
    intro x
    ext i hi
    simp only [BitVec.getElem_and, BitVec.getElem_not, BitVec.getElem_zero]
    cases m[i] <;> simp
  have hsum : ∀ x : BitVec w, (a &&& ~~~m ||| x &&& m).toNat = (a &&& ~~~m).toNat + (x.toNat &&& m.toNat) := by
    intro x
    rw [← BitVec.add_eq_or_of_and_eq_zero _ _ (hdisj x), BitVec.toNat_add_of_and_eq_zero (hdisj x), BitVec.toNat_and x]
  have ha := hsum a
  rw [hsplit] at ha
  rw [hsum v]
  omega

/-- The same as one word, whose bits are those staged under the mask and the old ones elsewhere. -/
theorem stagedInto_ofNat (r : Reg) {old : Nat} (h : old < 2 ^ 64) (v : Word) :
    stagedInto r old v = (BitVec.ofNat 64 old &&& ~~~BitVec.ofNat 64 (stagedMask r)
      ||| v &&& BitVec.ofNat 64 (stagedMask r)).toNat := by
  have ho : (BitVec.ofNat 64 old).toNat = old := Nat.mod_eq_of_lt h
  have hm : (BitVec.ofNat 64 (stagedMask r)).toNat = stagedMask r := Nat.mod_eq_of_lt (stagedMask_lt r)
  rw [← masked_toNat, ho, hm]
  rfl

theorem stagedInto_lt (r : Reg) {old : Nat} (h : old < 2 ^ 64) (v : Word) : stagedInto r old v < 2 ^ 64 := by
  rw [stagedInto_ofNat r h v]
  exact BitVec.isLt _

/-- A value that is staged twice is taken once. -/
theorem stagedInto_twice (r : Reg) {old : Nat} (h : old < 2 ^ 64) (v : Word) :
    stagedInto r (stagedInto r old v) v = stagedInto r old v := by
  rw [stagedInto_ofNat r (stagedInto_lt r h v), stagedInto_ofNat r h, BitVec.ofNat_toNat, BitVec.setWidth_eq]
  congr 1
  ext i hi
  simp only [BitVec.getElem_or, BitVec.getElem_and, BitVec.getElem_not]
  cases (BitVec.ofNat 64 (stagedMask r))[i] <;> simp

/-! ### The commit of a page (R518) -/

/-- One staged value takes effect. -/
def commitEntry (pg : Nat) (s : State) (e : (Reg × Nat × Nat) × Word) : State :=
  wrR s e.1.1 pg e.1.2.2 (stagedInto e.1.1 (rdR s e.1.1 pg e.1.2.2) e.2)

/-- The staged values of a list take effect one after the other. -/
def commitList (pg : Nat) (l : List ((Reg × Nat × Nat) × Word)) (s : State) : State := l.foldl (commitEntry pg) s

/-- A page's commit: its staged values take effect and are staged no longer, and COMMIT_PEND clears. -/
theorem commitPage_pending {s : State} {pg : Nat} (h : getB s fBlkStatusCommitPend pg = true) :
    commitPage s pg = setB { commitList pg (s.staged.filter (fun e => e.1.2.1 == pg)) s with
      staged := (commitList pg (s.staged.filter (fun e => e.1.2.1 == pg)) s).staged.filter (fun e => e.1.2.1 ≠ pg) }
      fBlkStatusCommitPend pg false := by
  unfold commitPage
  rw [if_pos h]
  rfl

/-- Staged values that take effect change registers alone. -/
theorem commitList_regs (pg : Nat) (l : List ((Reg × Nat × Nat) × Word)) (s : State) :
    commitList pg l s = { s with regs := (commitList pg l s).regs } := by
  induction l generalizing s with
  | nil => rfl
  | cons e l ih => exact ih (commitEntry pg s e)

/-- A register of which nothing takes effect reads as before. -/
theorem rdR_commitList_ne {pg : Nat} {l : List ((Reg × Nat × Nat) × Word)} {s : State} {r : Reg} {q k : Nat}
    (h : ∀ e ∈ l, (r, q, k) ≠ (e.1.1, pg, e.1.2.2)) : rdR (commitList pg l s) r q k = rdR s r q k := by
  induction l generalizing s with
  | nil => rfl
  | cons e l ih =>
    have htail := ih (s := commitEntry pg s e) (fun x hx => h x (List.mem_cons_of_mem _ hx))
    exact htail.trans (rdR_wrR_ne (h e List.mem_cons_self))

/-- A register with one staged value takes it, however often it stands in the list. -/
theorem rdR_commitList {pg : Nat} {l : List ((Reg × Nat × Nat) × Word)} {s : State} {e : (Reg × Nat × Nat) × Word}
    (hpg : ∀ x ∈ l, x.1.2.1 = pg) (he : e.1.2.1 = pg) (hu : ∀ x ∈ l, x.1 = e.1 → x = e) :
    rdR (commitList pg l s) e.1.1 pg e.1.2.2 =
      if e ∈ l then stagedInto e.1.1 (rdR s e.1.1 pg e.1.2.2) e.2 else rdR s e.1.1 pg e.1.2.2 := by
  induction l generalizing s with
  | nil => rfl
  | cons x l ih =>
    have htail := ih (s := commitEntry pg s x) (fun y hy => hpg y (List.mem_cons_of_mem _ hy))
      (fun y hy => hu y (List.mem_cons_of_mem _ hy))
    rw [show commitList pg (x :: l) s = commitList pg l (commitEntry pg s x) from rfl, htail]
    by_cases hx : x.1 = e.1
    · obtain rfl := hu x List.mem_cons_self hx
      have hr := rdR_lt s x.1.1 pg x.1.2.2
      have hhead : rdR (commitEntry pg s x) x.1.1 pg x.1.2.2 = stagedInto x.1.1 (rdR s x.1.1 pg x.1.2.2) x.2 := by
        rw [commitEntry, rdR_wrR, Nat.mod_eq_of_lt (stagedInto_lt _ hr _)]
      rw [hhead, stagedInto_twice _ hr, ite_self, if_pos List.mem_cons_self]
    · have hkey : (e.1.1, pg, e.1.2.2) ≠ (x.1.1, pg, x.1.2.2) := fun h => by
        have hxp := hpg x List.mem_cons_self
        simp only [Prod.mk.injEq] at h
        exact hx (Prod.ext h.1.symm (Prod.ext (hxp.trans he.symm) h.2.2.symm))
      have hne : e ≠ x := fun h => hx (congrArg Prod.fst h).symm
      rw [show rdR (commitEntry pg s x) e.1.1 pg e.1.2.2 = rdR s e.1.1 pg e.1.2.2 from rdR_wrR_ne hkey]
      simp only [List.mem_cons, hne, false_or]

/-- Nothing of a page is staged once its staged values have left the table. -/
theorem hasStaged_filter {s : State} {pg : Nat} {l : List ((Reg × Nat × Nat) × Word)}
    (h : s.staged = l.filter (fun e => e.1.2.1 ≠ pg)) : hasStaged s pg = false := by
  unfold hasStaged
  rw [h, List.any_eq_false]
  intro e he
  simpa using (List.mem_filter.mp he).2

theorem getB_setB (s : State) {f : RField} (pg : Nat) (b : Bool) (k : Nat) (h : f.lo + f.w ≤ 64) (hw : f.w = 1) :
    getB (setB s f pg b k) f pg k = b := by
  unfold getB setB
  rw [getF_setF _ _ _ _ _ h, hw]
  cases b <;> rfl

section
variable {s : State} {pg : Nat} (h : getB s fBlkStatusCommitPend pg = true)
include h

theorem commitPage_staged : (commitPage s pg).staged = s.staged.filter (fun e => e.1.2.1 ≠ pg) := by
  rw [commitPage_pending h, setB_staged]
  dsimp only
  rw [commitList_regs]

theorem commitPage_commitPend : getB (commitPage s pg) fBlkStatusCommitPend pg = false := by
  rw [commitPage_pending h]
  exact getB_setB _ pg false 0 (by decide) rfl

/-- A page's commit changes registers and staged fields alone. -/
theorem commitPage_eq :
    commitPage s pg = { s with regs := (commitPage s pg).regs, staged := (commitPage s pg).staged } := by
  rw [commitPage_pending h, commitList_regs]
  rfl

/-- A register of another page reads as before. -/
theorem rdR_commitPage_ne (r : Reg) {q : Nat} (k : Nat) (hq : q ≠ pg) :
    rdR (commitPage s pg) r q k = rdR s r q k := by
  rw [commitPage_pending h, rdR_setB_ne _ _ _ _ _ _ _ _ (fun e => hq (congrArg (fun x => x.2.1) e))]
  exact rdR_commitList_ne (fun e _ he => hq (congrArg (fun x => x.2.1) he))

/-- A register with one staged value takes it, bit for bit. -/
theorem rdR_commitPage {e : (Reg × Nat × Nat) × Word} (he : e ∈ s.staged) (hpg : e.1.2.1 = pg)
    (hr : e.1.1 ≠ .blkStatus) (hu : ∀ e' ∈ s.staged, e'.1 = e.1 → e' = e) :
    rdR (commitPage s pg) e.1.1 pg e.1.2.2 = stagedInto e.1.1 (rdR s e.1.1 pg e.1.2.2) e.2 := by
  have hl := rdR_commitList (s := s) (l := s.staged.filter (fun e => e.1.2.1 == pg))
    (fun x hx => by simpa using (List.mem_filter.mp hx).2) hpg (fun x hx => hu x (List.mem_filter.mp hx).1)
  rw [if_pos (List.mem_filter.mpr ⟨he, by simpa using hpg⟩)] at hl
  rw [commitPage_pending h, rdR_setB_ne _ _ _ _ _ _ _ _ (fun x => hr (congrArg Prod.fst x))]
  exact hl

end

/-! ### COMMIT and DISCARD written (R517, R518) -/

/-- BLK_COMMIT of a page. -/
def blkCommitAt : RegAt := ⟨.blkCommit, 0, [fBlkCommitDiscard, fBlkCommitCommit]⟩

theorem regAt_blkCommit (b : Blk) : regAt b 0x40 = some blkCommitAt := rfl

/-- A write of BLK_COMMIT that is not turned away asks for a commit, a discard, or both. -/
theorem windowWrite_blkCommit {s : State} {pg m : Nat} {x : PageAt} (h : BlockPage s pg x)
    (hg : writeGate s pg m = none) (who v : Nat) :
    windowWrite m who (4096 * pg + 0x40) 8 v s = headWrite s pg blkCommitAt v := by
  rw [windowWrite_blockPage h (by decide) (by decide), hg, regAt_blkCommit, Option.elim_none, Option.elim_some]
  exact blockWrite_head rfl rfl (by decide)

theorem headWrite_commit (s : State) (pg : Nat) : headWrite s pg blkCommitAt 1 = commitAsk s pg := rfl

theorem headWrite_discard (s : State) (pg : Nat) : headWrite s pg blkCommitAt 2 = discardAsk s pg := rfl

theorem exec_blkCommit {s : State} {pg m : Nat} {x : PageAt} (hrun : running s = true) (h : BlockPage s pg x)
    (hg : writeGate s pg m = none) : exec (.blkCommit pg m) s = .next (commitAsk s pg) := by
  show execBlkCommit pg m s = _
  have hpg := h.ne_pgOwn
  rw [execBlkCommit, windowStep_running hrun (by omega), windowWrite_blkCommit h hg, headWrite_commit]

theorem exec_blkDiscard {s : State} {pg m : Nat} {x : PageAt} (hrun : running s = true) (h : BlockPage s pg x)
    (hg : writeGate s pg m = none) : exec (.blkDiscard pg m) s = .next (discardAsk s pg) := by
  show execBlkDiscard pg m s = _
  have hpg := h.ne_pgOwn
  rw [execBlkDiscard, windowStep_running hrun (by omega), windowWrite_blkCommit h hg, headWrite_discard]

/-- A field set changes no register but its own. -/
theorem setB_regsBut {s t : State} {f : RField} {pg k : Nat} {b : Bool} (h : t.regs = s.regs) :
    regsBut [(f.reg, pg, k)] s (setB t f pg b k) := by
  intro r q j hq
  rw [rdR_setB_ne _ _ _ _ _ _ _ _ (by simpa using hq), rdR_congr h]

/-! ### The quiescent point of a controller's page (R225, R238) -/

theorem packagePage_not_pcc {n : Nat} {x : PageAt} (h : packagePage n = some x) : x.blk ≠ .pcc := by
  intro hx
  unfold packagePage at h
  dsimp only at h
  repeat' split at h
  all_goals cases h <;> cases hx

/-- The pages of a span that show a controller. -/
theorem spanPage_pcc {sp n : Nat} {x : PageAt} (h : spanPage sp n = some x) (hx : x.blk = .pcc) :
    (128 ≤ n ∧ n < 192) ∧ x = ⟨.pcc, sp, n - 128⟩ := by
  unfold spanPage at h
  split at h
  · cases h
    cases hx
  · split at h
    · next hn => exact ⟨hn, (Option.some.inj h).symm⟩
    · split at h
      · cases h
        dsimp only at hx
        split at hx <;> cases hx
      · split at h <;> cases h <;> cases hx

/-- A page that shows a controller is that controller's page. -/
theorem pccPage_of_pageAt {pg : Nat} {x : PageAt} (h : pageAt pg = some x) (hx : x.blk = .pcc) :
    pccPage (pcNo x.span x.idx) = pg := by
  unfold pageAt at h
  split at h
  · exact absurd hx (packagePage_not_pcc h)
  · split at h
    · obtain ⟨hn, rfl⟩ := spanPage_pcc h hx
      simp only [pccPage, pcNo, pgPcc, pgSpan]
      omega
    · cases h

theorem getPcc_putPcc (s : State) (n : Nat) (p : Pcc) : getPcc (putPcc s n p) n = p := look_put _ _ _ _

theorem getPcc_putPcc_ne (s : State) {n j : Nat} (p : Pcc) (h : j ≠ n) : getPcc (putPcc s n p) j = getPcc s j :=
  look_put_ne _ _ _ h

/-- Of a state `s`, `t` differs in one controller, whose queue stays empty and whose sequences stand. -/
structure QuietPcc (s t : State) (n : Nat) : Prop where
  rest : t = { s with memo := { s.memo with pccs := t.memo.pccs } }
  others : ∀ j, j ≠ n → getPcc t j = getPcc s j
  reqs : (getPcc t n).reqs = []
  seqs : (getPcc t n).seqs = (getPcc s n).seqs

theorem QuietPcc.putPcc {s t : State} {n : Nat} (h : QuietPcc s t n) {p : Pcc} (hr : p.reqs = [])
    (hs : p.seqs = (getPcc t n).seqs) : QuietPcc s (putPcc t n p) n where
  rest := by
    rw [Machine.putPcc, h.rest]
  others j hj := by rw [getPcc_putPcc_ne t p hj, h.others j hj]
  reqs := by rw [getPcc_putPcc, hr]
  seqs := by rw [getPcc_putPcc, hs, h.seqs]

theorem QuietPcc.markEligible {s t : State} {n : Nat} (h : QuietPcc s t n) (u : State) :
    QuietPcc s (markEligible u t n) n :=
  h.putPcc (by simp [h.reqs]) rfl

theorem QuietPcc.countDeferred {s t : State} {n : Nat} (h : QuietPcc s t n) : QuietPcc s (countDeferred t n) n := by
  unfold Machine.countDeferred
  simp only [h.reqs, List.filter_nil, List.foldl_nil, List.map_nil]
  exact h.putPcc rfl rfl

/-- What a commit of a controller's page does where no request is queued: the page's commit, and limits on the buckets of
the controller. -/
structure QuietCommit (s t : State) (n : Nat) : Prop where
  regs : t.regs = (commitPage s (pccPage n)).regs
  staged : t.staged = s.staged.filter (fun e => e.1.2.1 ≠ pccPage n)
  rest : t = { s with regs := t.regs, staged := t.staged, memo := { s.memo with pccs := t.memo.pccs } }
  others : ∀ j, j ≠ n → getPcc t j = getPcc s j
  reqs : (getPcc t n).reqs = []
  seqs : (getPcc t n).seqs = (getPcc s n).seqs

theorem pccCommit_quiet {s : State} {n : Nat} (h : getB s fBlkStatusCommitPend (pccPage n) = true)
    (hr : (getPcc s n).reqs = []) : QuietCommit s (pccCommit s n) n := by
  have hc := commitPage_eq h
  have hmemo : (commitPage s (pccPage n)).memo = s.memo := by rw [hc]
  have hctl : ∀ j, getPcc (commitPage s (pccPage n)) j = getPcc s j := fun j => by rw [getPcc, hmemo]; rfl
  have hst := commitPage_staged h
  have hq : QuietPcc (commitPage s (pccPage n)) (pccCommit s n) n := by
    unfold pccCommit
    rw [if_pos h]
    have h0 : QuietPcc (commitPage s (pccPage n)) (commitPage s (pccPage n)) n :=
      ⟨rfl, fun _ _ => rfl, by rw [hctl, hr], rfl⟩
    refine QuietPcc.countDeferred (QuietPcc.markEligible ?_ s)
    exact h0.putPcc h0.reqs rfl
  generalize hcp : commitPage s (pccPage n) = c at *
  generalize pccCommit s n = t at *
  constructor
  case regs => rw [hq.rest, hcp]
  case staged => rw [hq.rest, hst]
  case rest => rw [hq.rest, hc]
  case others => intro j hj; rw [hq.others j hj, hctl]
  case reqs => exact hq.reqs
  case seqs => rw [hq.seqs, hctl]

/-- The commit of a controller's page comes about where one waits and no request is queued (R238). -/
theorem exists_ctl_of_commitApplyReady {pg : Nat} {s : State} (h : commitApplyReady pg s = true) :
    ∃ n, pccPage n = pg ∧ commitApplyEffect pg s = pccCommit s n ∧ getB s fBlkStatusCommitPend pg = true
      ∧ (getPcc s n).reqs = [] := by
  unfold commitApplyReady at h
  unfold commitApplyEffect
  cases hx : pageAt pg with
  | none => simp [hx] at h
  | some x =>
    simp only [hx, Bool.and_eq_true, beq_iff_eq, List.isEmpty_iff] at h
    obtain ⟨hpend, ⟨hblk, -⟩, hreqs⟩ := h
    exact ⟨pcNo x.span x.idx, pccPage_of_pageAt hx hblk, rfl, hpend, hreqs⟩

/-- Settles O34: a commit folds the staged values of the page into their registers, and the controller's queue is empty at
its quiescent point. -/
theorem stagedFieldsCommitTogether : Obligations.StagedFieldsCommitTogether := by
  refine ⟨fun pg m x s hrun hpage hown hirqp hcause hg => ?_, fun pg s hrun hready => ?_, fun pg s hrun hready => ?_⟩
  · have hx : BlockPage s pg x := ⟨hpage, hown, hirqp, hcause⟩
    rw [exec_blkCommit hrun hx hg, exec_blkDiscard hrun hx hg]
    refine ⟨fun hs => ?_, fun hs => ?_, ?_⟩
    · rw [commitAsk, if_pos hs]
      exact ⟨_, rfl, getB_setB s pg true 0 (by decide) rfl,
        setB_regsBut (f := fBlkStatusCommitPend) rfl, rfl⟩
    · rw [commitAsk, if_neg (by simp [hs])]
    · rw [discardAsk]
      refine ⟨_, rfl, rfl, hasStaged_filter rfl, getB_setB _ pg false 0 (by decide) rfl,
        setB_regsBut (f := fBlkStatusCommitPend) rfl, ?_⟩
      exact same_mk (.refl s) (hregs := .inr (by decide)) (hstaged := .inr (by decide))
  · obtain ⟨n, rfl, heff, hpend, hreqs⟩ := exists_ctl_of_commitApplyReady hready
    have hq := pccCommit_quiet hpend hreqs
    have hex : exec (.commitApply (pccPage n)) s = .next (pccCommit s n) := by
      show execCommitApply (pccPage n) s = _
      rw [execCommitApply, clocked_running hrun, if_pos hready, heff]
    generalize pccCommit s n = t at *
    refine ⟨t, hex, hasStaged_filter hq.staged, ?_, ?_, ?_, ?_, ?_, ?_, ?_, ?_⟩
    · rw [getB, getF_congr hq.regs]
      exact commitPage_commitPend hpend
    · intro e he hpg hr _ hu
      rw [rdR_congr hq.regs]
      exact rdR_commitPage hpend he hpg hr hu
    · intro r q k hne
      rw [rdR_congr hq.regs, rdR_commitPage_ne hpend r k hne]
    · intro e he hne
      rw [hq.staged]
      exact List.mem_filter.mpr ⟨he, by simpa using hne⟩
    · rw [hq.rest]
    · exact fun j hj => hq.others j (fun e => hj (congrArg pccPage e))
    · intro j
      by_cases hj : j = n
      · subst hj
        rw [hq.reqs, hq.seqs, hreqs]
        exact ⟨rfl, rfl⟩
      · rw [hq.others j hj]
        exact ⟨rfl, rfl⟩
    · rw [hq.rest]
      exact same_mk (.refl s) (hregs := .inr (by decide)) (hstaged := .inr (by decide)) (hmemo := .inr (by decide))
  · show execCommitApply pg s = _
    rw [execCommitApply, clocked_running hrun, if_neg (by simp [hready])]

end Sys2Proof.Machine
end

section
/-!
SUPPORT. What device memory, items, send rings, ports and commits leave alone of the package, the cores and serving: one lemma
per operation, each an equation of `steady`.
-/
namespace Sys2Proof.Machine

/-- Parts of the state that operations on memory, items, rings and slots leave alone: start-up, power, interrupts, the
failed spans, the retired cores, local memory, the schedule, serving but for its groups, and the mailbox states. -/
structure Steady where
  boot : BootSt
  power : PowerSt
  irq : IrqSt
  spansGone : List (Nat × Nat)
  absent : List (Nat × Nat)
  lmem : List Host.Cell
  sch : SchedSt
  srv : ServeSt
  mbState : Nat → Nat → Nat

/-- The steady parts of a state. -/
def steady (s : State) : Steady where
  boot := s.pkg.boot
  power := s.pkg.power
  irq := s.pkg.irq
  spansGone := s.pkg.spansGone
  absent := s.core.absent
  lmem := s.core.lmem
  sch := s.sch
  srv := { s.srv with groups := [] }
  mbState := rdR s .fnMbState

/-- A fold whose accumulator carries the state in its component `p`. -/
theorem steady_foldl_at {α β : Type} (p : β → State) {g : β → α → β} (hg : ∀ t x, steady (p (g t x)) = steady (p t)) (l : List α)
    (b : β) : steady (p (l.foldl g b)) = steady (p b) := by
  induction l generalizing b with
  | nil => rfl
  | cons x r ih => exact (ih _).trans (hg b x)

theorem steady_foldl {α : Type} {g : State → α → State} (hg : ∀ t x, steady (g t x) = steady t) (l : List α) (s : State) :
    steady (l.foldl g s) = steady s := steady_foldl_at id hg l s

theorem steady_foldl_fst {α β : Type} {g : State × β → α → State × β} (hg : ∀ t x, steady (g t x).1 = steady t.1) (l : List α)
    (b : State × β) : steady (l.foldl g b).1 = steady b.1 := steady_foldl_at Prod.fst hg l b

theorem steady_foldl_snd {α β : Type} {g : β × State → α → β × State} (hg : ∀ t x, steady (g t x).2 = steady t.2) (l : List α)
    (b : β × State) : steady (l.foldl g b).2 = steady b.2 := steady_foldl_at Prod.snd hg l b

/-! ### Registers and the error log -/

@[simp] theorem steady_setF (s : State) (f : RField) (pg v k : Nat) (h : f.reg ≠ .fnMbState) :
    steady (setF s f pg v k) = steady s := by
  have hr : rdR (setF s f pg v k) .fnMbState = rdR s .fnMbState := by
    funext q j
    exact rdR_setF_ne s f pg v k _ q j (fun e => h (congrArg Prod.fst e).symm)
  unfold steady
  rw [hr]
  rfl

@[simp] theorem steady_setB (s : State) (f : RField) (pg : Nat) (b : Bool) (k : Nat) (h : f.reg ≠ .fnMbState) :
    steady (setB s f pg b k) = steady s := steady_setF s f pg _ k h

@[simp] theorem steady_bumpF (s : State) (f : RField) (pg n k : Nat) (h : f.reg ≠ .fnMbState) :
    steady (bumpF s f pg n k) = steady s := steady_setF s f pg _ k h

@[simp] theorem steady_bumpSat (s : State) (f : RField) (pg n k : Nat) (h : f.reg ≠ .fnMbState) :
    steady (bumpSat s f pg n k) = steady s := steady_setF s f pg _ k h

@[simp] theorem steady_irqSrc (s : State) (pg bit : Nat) : steady (irqSrc s pg bit) = steady s :=
  steady_setF s fBlkIrqPendSrc pg _ _ (by decide)

@[simp] theorem steady_elogAdd (s : State) (e : ElogEntry) : steady (elogAdd s e) = steady s := by
  unfold elogAdd
  extract_lets seq nested e' s1
  have h1 : steady s1 = steady s := by simp (disch := decide) [s1]
  split
  · exact h1
  · split
    · exact h1
    · simp (disch := decide)

@[simp] theorem steady_bucketEvent (s : State) (span cls idx bank addr : Nat) :
    steady (bucketEvent s span cls idx bank addr) = steady s := by
  unfold bucketEvent
  dsimp only
  split
  · rw [steady_irqSrc, steady_elogAdd]
    rfl
  · rfl

/-! ### Device memory -/

@[simp] theorem steady_putPcc (s : State) (n : Nat) (p : Pcc) : steady (putPcc s n p) = steady s := rfl

@[simp] theorem steady_setPoison (s : State) (col : Nat) (p : Bool) : steady (setPoison s col p) = steady s := rfl

@[simp] theorem steady_setErrs (s : State) (col : Nat) (e : List (Nat × Nat)) : steady (setErrs s col e) = steady s := rfl

@[simp] theorem steady_flipApply (s : State) (cell : Nat) (path : WPath) : steady (flipApply s cell path) = steady s := by
  have h1 : steady (setB s fSerrFlipArm (pgSerr (cellSpan cell)) false) = steady s := steady_setB s _ _ _ _ (by decide)
  unfold flipApply
  simp only [apply_ite steady, steady_setPoison, steady_setErrs, h1, ite_self]

@[simp] theorem steady_colSeal (s : State) (cell : Nat) (data : List Byte) (pois : Bool) :
    steady (colSeal s cell data pois) = steady s := by
  unfold colSeal
  cases pois <;> rfl

@[simp] theorem steady_logUe (s : State) (cell cls sym : Nat) : steady (logUe s cell cls sym) = steady s := by
  unfold logUe
  dsimp only
  split
  · rfl
  · split
    · rw [steady_irqSrc, steady_elogAdd]
      exact steady_elogAdd (putPcc s _ _) _
    · rw [steady_elogAdd, steady_putPcc]

@[simp] theorem steady_colRead (s : State) (cell : Nat) : steady (colRead s cell).2.2 = steady s := by
  unfold colRead
  extract_lets col raw errs
  split
  · rfl
  · split
    · rfl
    · split <;> simp

@[simp] theorem steady_colMerge (s : State) (col : Nat) (new : List Byte) (mask : Nat) :
    steady (colMerge s col new mask) = steady s := by
  unfold colMerge
  extract_lets cell r
  have hr : steady r.2.2 = steady s := steady_colRead s cell
  repeat' split
  all_goals simp [hr]

@[simp] theorem steady_colWrite (s : State) (cell : Nat) (data : List Byte) : steady (colWrite s cell data) = steady s :=
  steady_colMerge s _ _ _

@[simp] theorem steady_ownAccess (s : State) (kind : ReplayKind) (cell : Nat) :
    steady (ownAccess s kind cell) = steady s := by
  unfold ownAccess
  extract_lets n bank row
  split <;> rfl

@[simp] theorem steady_lineCols (s : State) (line k : Nat) : steady (lineCols s line k).2.2 = steady s := by
  induction k with
  | zero => rfl
  | succ k ih =>
    unfold lineCols
    dsimp only
    split <;> simp [ih]

@[simp] theorem steady_redCols (l : RedLine) (k : Nat) (s : State) : steady (redCols l k s) = steady s := by
  induction k generalizing s with
  | zero => rfl
  | succ k ih =>
    unfold redCols
    dsimp only
    split
    · exact ih s
    · split <;> simp [ih]

@[simp] theorem steady_redWriteBack (s : State) (n line : Nat) : steady (redWriteBack s n line) = steady s := by
  unfold redWriteBack
  dsimp only
  split
  · rfl
  · split <;> simp

@[simp] theorem steady_redFetch (s : State) (n line : Nat) : steady (redFetch s n line) = steady s := by
  unfold redFetch
  split
  · rfl
  · extract_lets s1 c p
    have h1 : steady s1 = steady s := by
      dsimp only [s1]
      split
      · rfl
      · split <;> simp
    simp [c, h1]

@[simp] theorem steady_redUpd (s : State) (n line : Nat) (f : RedLine → RedLine) : steady (redUpd s n line f) = steady s := rfl

@[simp] theorem steady_sealAt (s : State) (cell : Nat) : steady (sealAt s cell) = steady s := rfl

@[simp] theorem steady_redPut (s : State) (n line off : Nat) (bs : List Byte) : steady (redPut s n line off bs) = steady s :=
  steady_redUpd s _ _ _

@[simp] theorem steady_redPoison (s : State) (cell : Nat) : steady (redPoison s cell) = steady s := by
  unfold redPoison
  dsimp only
  split <;> simp

@[simp] theorem steady_redLines (s : State) (n line n2 line2 : Nat) : steady (redLines s n line n2 line2) = steady s := by
  simp [redLines]

@[simp] theorem steady_redPoisoned (s : State) (cell ctx : Nat) : steady (redPoisoned s cell ctx) = steady s :=
  steady_elogAdd s _

@[simp] theorem steady_redDo (s : State) (cell hi : Nat) (op : RedOp) (b : Num) (ctx : Nat) :
    steady (redDo s cell hi op b ctx) = steady s := by
  unfold redDo
  dsimp only
  repeat' split
  all_goals simp

@[simp] theorem steady_stagedDo (s : State) (e : Staged) : steady (stagedDo s e) = steady s := by
  unfold stagedDo
  split <;> simp

@[simp] theorem steady_settleLine (s : State) (line : Nat) : steady (settleLine s line) = steady s := by
  unfold settleLine
  dsimp only
  split
  · rfl
  · exact steady_foldl steady_stagedDo _ _

@[simp] theorem steady_cellsWriteGo (path : WPath) (first : Bool) (k : Nat) (s : State) (cell : Nat) (data : List Byte) :
    steady (cellsWriteGo path first k s cell data) = steady s := by
  induction k generalizing first s cell data with
  | zero => rfl
  | succ k ih =>
    unfold cellsWriteGo
    dsimp only
    split
    · rfl
    · rw [ih]
      split <;> simp

@[simp] theorem steady_pocWrite (s : State) (cell : Nat) (data : List Byte) : steady (pocWrite s cell data) = steady s := by
  simp [pocWrite]

@[simp] theorem steady_pocPoison (s : State) (cell : Nat) : steady (pocPoison s cell) = steady s := by
  unfold pocPoison
  dsimp only
  split <;> simp

@[simp] theorem steady_pocRead (s : State) (line : Nat) : steady (pocRead s line).2 = steady s := by
  unfold pocRead
  dsimp only
  split <;> simp (disch := decide)

@[simp] theorem steady_reqAdd (s : State) (n : Nat) (r : PReq) : steady (reqAdd s n r) = steady s := by
  unfold reqAdd
  dsimp only
  split
  · rfl
  · rw [steady_putPcc]
    split <;> simp (disch := decide)

@[simp] theorem steady_pierCharge (s : State) (cell : Nat) (isWrite express : Bool) (part cols : Nat) :
    steady (pierCharge s cell isWrite express part cols) = steady s := steady_reqAdd s _ _

@[simp] theorem steady_daLines (k : Nat) (s : State) (da : Nat) : steady (daLines k s da).2.2 = steady s := by
  induction k generalizing s da with
  | zero => rfl
  | succ k ih => simp [daLines, ih]

@[simp] theorem steady_daRead (s : State) (da n : Nat) : steady (daRead s da n).2.2 = steady s := steady_daLines _ s da

@[simp] theorem steady_daWrite (s : State) (da : Nat) (data : List Byte) (bad : List Nat) :
    steady (daWrite s da data bad) = steady s := by
  have hgo : ∀ k (s : State) da data c, steady (daWriteGo bad k s da data c) = steady s := by
    intro k
    induction k with
    | zero => intros; rfl
    | succ k ih =>
      intro s da data c
      unfold daWriteGo
      dsimp only
      split
      · rfl
      · rw [ih]
        split <;> simp
  exact hgo _ s da data 0

/-! ### Items and their records -/

@[simp] theorem steady_putItem (s : State) (it : Item) : steady (putItem s it) = steady s := rfl

@[simp] theorem steady_putCommit (s : State) (it : Item) (c : Commit) : steady (putCommit s it c) = steady s := rfl

@[simp] theorem steady_dropStaged (s : State) (id : Nat) : steady (dropStaged s id) = steady s := rfl

@[simp] theorem steady_dropMarks (s : State) (id : Nat) : steady (dropMarks s id) = steady s := rfl

@[simp] theorem steady_dropHeld (s : State) (id : Nat) : steady (dropHeld s id) = steady s := rfl

@[simp] theorem steady_stepFailed (s : State) (it : Item) : steady (stepFailed s it) = steady s := rfl

@[simp] theorem steady_cqPush (s : State) (r : CqRec) : steady (cqPush s r) = steady s := rfl

@[simp] theorem steady_cqPlace (s : State) (id : Nat) (r : CqRec) : steady (cqPlace s id r) = steady s := by
  unfold cqPlace
  split <;> rfl

@[simp] theorem steady_jrnlWrite (s : State) : steady (jrnlWrite s) = steady s := by
  unfold jrnlWrite
  dsimp only
  split
  · rfl
  · refine steady_foldl (fun t a => ?_) _ _
    unfold areaWrite
    split <;> simp

@[simp] theorem steady_itemBad (s : State) (it : Item) (code : Nat) : steady (itemBad s it code) = steady s := by
  unfold itemBad
  dsimp only
  split
  · exact steady_elogAdd _ _
  · rfl

/-- An item taken off the tables of items. -/
theorem steady_itemsOff (s : State) (ho : HostSt) (er : ErrSt) : steady { s with ho := ho, er := er } = steady s := rfl

@[simp] theorem steady_itemGone (s : State) (it : Item) (code : Nat) : steady (itemGone s it code) = steady s := by
  have h0 : steady (if code = 0 then s else itemBad s it code) = steady s := by split <;> simp
  unfold itemGone
  dsimp only
  rw [← h0]
  generalize (if code = 0 then s else itemBad s it code) = s0
  repeat' split
  all_goals simp (disch := decide) [steady_itemsOff]

@[simp] theorem steady_itemError (s : State) (id code engine core span addr : Nat) :
    steady (itemError s id code engine core span addr) = steady s := by
  unfold itemError
  split <;> simp

theorem steady_itemsFail (s : State) (hit : Item → Bool) : steady (itemsFail s hit) = steady s := by
  refine steady_foldl (fun t it => ?_) _ s
  unfold itemFail
  split
  · split <;> simp
  · rfl

theorem steady_itemsLost (s : State) (hit : Item → Bool) : steady (itemsLost s hit) = steady s := by
  refine steady_foldl (fun t it => ?_) _ s
  split
  · rfl
  · split <;> simp

/-! ### Slots, records and send rings -/

@[simp] theorem steady_putSlot (s : State) (key : Nat) (x : Slot) : steady (putSlot s key x) = steady s := rfl

@[simp] theorem steady_putRec (s : State) (sp ctx : Nat) (r : CtxRec) : steady (putRec s sp ctx r) = steady s := rfl

@[simp] theorem steady_landSignal (s : State) (g : Signal) : steady (landSignal s g) = steady s := by
  unfold landSignal
  dsimp only
  repeat' split
  all_goals simp (disch := decide)

@[simp] theorem steady_putZl (s : State) (p : Nat) (x : ZlPort) : steady (putZl s p x) = steady s := rfl

@[simp] theorem steady_putRing (s : State) (ring : Nat) (l : List SendDesc) : steady (putRing s ring l) = steady s := rfl

theorem steady_routeOut {s t : State} {k : Pkt} {p : Option Nat} (h : routeOut s k p = some t) : steady t = steady s := by
  unfold routeOut at h
  split at h
  · cases h
  · cases h
    rfl

@[simp] theorem steady_freeBit (s : State) : steady (freeBit s).2 = steady s := rfl

@[simp] theorem steady_winRead (s : State) (w : Nat) : steady (winRead s w).2 = steady s := by
  unfold winRead
  dsimp only
  repeat' split
  all_goals simp

@[simp] theorem steady_winEntry (s : State) (w : Nat) : steady (winEntry s w).2 = steady s := by
  unfold winEntry
  dsimp only
  split
  · exact steady_winRead s w
  · split
    · rfl
    · exact steady_winRead (freeBit s).2 w

@[simp] theorem steady_winBytes (e : List Nat) (part k : Nat) (s : State) (off n : Nat) :
    steady (winBytes e part k s off n).2 = steady s := by
  induction k generalizing s off n with
  | zero => rfl
  | succ k ih =>
    unfold winBytes
    dsimp only
    repeat' split
    all_goals simp [ih]

@[simp] theorem steady_sendData (sp r core : Nat) (d e : List Nat) (k : Nat) (s : State) (pos : Nat) :
    steady (sendData sp r core d e k s pos).2 = steady s := by
  induction k generalizing s pos with
  | zero => rfl
  | succ k ih =>
    unfold sendData
    dsimp only
    split
    · rfl
    · split
      · simp
      · simp
      · split
        · simp
        · next h => simp [ih, steady_routeOut h]

@[simp] theorem steady_sendDesc (sp r : Nat) (d : List Nat) (s : State) : steady (sendDesc sp r d s).2 = steady s := by
  unfold sendDesc
  dsimp only
  split
  · rfl
  · split
    · split
      · rfl
      · next h => exact steady_routeOut h
    · split <;> simp

@[simp] theorem steady_ringRecord (s : State) (ring code reason dseq : Nat) :
    steady (ringRecord s ring code reason dseq) = steady s := by
  unfold ringRecord
  dsimp only
  split <;> simp (disch := decide)

@[simp] theorem steady_ringReplay (s : State) (ctx : Nat) : steady (ringReplay s ctx) = steady s := by
  refine steady_foldl (fun t it => ?_) _ s
  split <;> simp

@[simp] theorem steady_ringItemEnds (s : State) (ring code dseq hold : Nat) :
    steady (ringItemEnds s ring code dseq hold) = steady s := by
  unfold ringItemEnds
  dsimp only
  split
  · exact steady_ringReplay s _
  · split
    · unfold ringItemStop
      repeat' split
      all_goals simp
    · rfl

@[simp] theorem steady_ringHalt (s : State) (ring code reason dseq hold : Nat) :
    steady (ringHalt s ring code reason dseq hold) = steady s := by
  simp (disch := decide) [ringHalt]

@[simp] theorem steady_sendStop (s : State) (ring seq : Nat) (e : SendEnd) : steady (sendStop s ring seq e) = steady s := by
  cases e <;> simp [sendStop]

@[simp] theorem steady_descStart (sp r : Nat) (s : State) : steady (descStart sp r s) = steady s := by
  unfold descStart
  dsimp only
  split
  · rfl
  · split <;> simp

/-! ### Pages and links -/

@[simp] theorem steady_xinvDrop (s : State) (x : XinvOp) : steady (xinvDrop s x) = steady s := rfl

theorem steady_pznAll (on : Bool) (s : State) (hit : Leaf → Bool) : steady (pznAll on s hit) = steady s := by
  refine steady_foldl (fun t x => ?_) _ s
  simp (disch := decide) [leafPzn, pteWrite]

theorem steady_savedWindows (s : State) (r : CtxRec) (win : Nat) (cores : List Nat) :
    steady (savedWindows s r win cores).2 = steady s := by
  refine steady_foldl_snd (fun t c => ?_) cores ([], s)
  exact steady_daRead t.2 _ _

theorem steady_recMask (s : State) (span ctx mask : Nat) (r : CtxRec) : steady (recMask s span ctx mask r) = steady s := by
  unfold recMask
  dsimp only
  rw [steady_foldl (fun t x => steady_daWrite t _ _ _), steady_putRec, steady_savedWindows]

theorem steady_recDropCore (span core : Nat) (s : State) (ctx : Nat) : steady (recDropCore span core s ctx) = steady s := by
  unfold recDropCore
  split
  · rfl
  · exact steady_recMask s span ctx _ _

theorem steady_pcRetire (s : State) (n cause : Nat) : steady (pcRetire s n cause) = steady s := by
  unfold pcRetire
  rw [steady_pznAll]
  exact steady_itemsFail s _

theorem steady_ringErr (s : State) (ring reason dseq : Nat) : steady (ringErr s ring reason dseq) = steady s := by
  unfold ringErr
  split <;> simp

theorem steady_sendErr (s : State) (k : Pkt) (reason : Nat) : steady (sendErr s k reason) = steady s := by
  unfold sendErr
  dsimp only
  split
  · exact steady_ringErr s _ _ _
  · cases h : routeOut s _ none with
    | none => rfl
    | some t => exact steady_routeOut h

theorem steady_dropPacket (p : Nat) (s : State) (k : Pkt) : steady (dropPacket p s k) = steady s := by
  unfold dropPacket
  dsimp only
  split
  · rw [steady_sendErr, steady_bumpF s _ _ _ _ (by decide)]
  · exact steady_bumpF s _ _ _ _ (by decide)

theorem steady_zlFail (s : State) (p cause : Nat) : steady (zlFail s p cause) = steady s := by
  unfold zlFail
  dsimp only
  rw [steady_foldl (steady_dropPacket p)]
  simp (disch := decide) [zlEnter]

theorem steady_zlRetire (cause : Nat) (s : State) (p : Nat) : steady (zlRetire cause s p) = steady s := by
  unfold zlRetire
  dsimp only
  split
  · rfl
  · split
    · rfl
    · exact steady_zlFail s p 5

/-! ### Commits (R553, R554) -/

theorem steady_commitOpen (s : State) (it : Item) : steady (commitOpen s it) = steady s := by
  unfold commitOpen
  dsimp only
  rw [steady_putCommit]
  split <;> simp

theorem steady_preWrite (s : State) (n : Nat) (x : (Nat × (List Byte × Nat)) × Nat) : steady (preWrite s n x) = steady s := by
  unfold preWrite
  dsimp only
  rw [steady_foldl (fun t k => steady_pocPoison t _), steady_pocWrite]

theorem steady_roundOpen (s : State) (it : Item) (c : Commit) (n : Nat) (lines : List Nat) :
    steady (roundOpen s it c n lines) = steady s := by
  unfold roundOpen
  dsimp only
  rw [steady_putCommit, steady_foldl (fun t x => steady_preWrite t n x),
    steady_foldl_fst (fun t l => steady_redFetch t.1 _ l)]

theorem steady_roundLine (s : State) (it : Item) (c : Commit) (line : Nat) (rest : List Nat) :
    steady (roundLine s it c line rest) = steady s := by
  unfold roundLine
  dsimp only
  rw [steady_putCommit, steady_settleLine]
  rfl

theorem steady_roundStep (s : State) (it : Item) (c : Commit) (n : Nat) (rest : List Nat) :
    steady (roundStep s it c n rest) = steady s := by
  unfold roundStep
  dsimp only
  split
  · split
    · rfl
    · exact steady_roundOpen s it c n _
  · split
    · rfl
    · exact steady_roundLine s it c _ _

theorem steady_releaseDesc (s : State) (it : Item) (c : Commit) (ring : Nat) (rest : List Nat) :
    steady (releaseDesc s it c ring rest) = steady s := by
  unfold releaseDesc
  dsimp only
  split
  · rfl
  · split <;> simp

theorem steady_commitRecord (s : State) (it : Item) (c : Commit) : steady (commitRecord s it c) = steady s := by
  unfold commitRecord
  dsimp only
  rw [steady_putCommit]
  split <;> simp

theorem steady_commitStep (id : Nat) (s : State) : steady (commitStep id s) = steady s := by
  unfold commitStep
  split
  · rfl
  · split
    · exact steady_commitOpen s _
    · split
      · exact steady_roundStep s _ _ _ _
      · split
        · simp
        · split
          · exact steady_releaseDesc s _ _ _ _
          · split
            · simp
            · exact steady_commitRecord s _ _

theorem steady_commitRun (id n : Nat) (s : State) : steady (commitRun id n s) = steady s := by
  induction n generalizing s with
  | zero => rfl
  | succ n ih => exact (ih _).trans (steady_commitStep id s)

theorem steady_restoreLine (s : State) (x : Nat × (List Byte × Nat)) : steady (restoreLine s x) = steady s := by
  simp [restoreLine]

theorem steady_commitRewind (s : State) (it : Item) : steady (commitRewind s it) = steady s := by
  unfold commitRewind
  dsimp only
  split
  · rfl
  · rw [steady_putCommit, steady_foldl (g := restoreEntry) (fun _ _ => rfl), steady_foldl steady_restoreLine]

theorem steady_itemCommitEffect (id : Nat) (stop : Option Nat) (s : State) :
    steady (itemCommitEffect id stop s) = steady s := by
  unfold itemCommitEffect
  dsimp only
  split
  · rfl
  · split <;> rw [steady_commitRun, steady_commitRewind]

/-- Interrupted commits that are resumed leave the steady parts alone. -/
theorem steady_commitsResume (s : State) : steady (commitsResume s) = steady s := by
  refine steady_foldl (fun t it => ?_) _ s
  split
  · exact steady_itemCommitEffect _ _ t
  · rfl

end Sys2Proof.Machine
end

section
/-!
SUPPORT. Control cores: their interrupts, the mailbox at a takeover, and the package duties (R36 to R39).
-/
namespace Sys2Proof.Machine

/-! ### Folds and tables -/

/-- A fold whose steps each establish a fact about their own element and keep those of the others. -/
theorem foldl_establishes {α : Type} {P : α → State → Prop} {g : State → α → State}
    (hkeep : ∀ t x y, P y t → P y (g t x)) (hset : ∀ t x, P x (g t x)) (l : List α) (s : State) :
    ∀ x ∈ l, P x (l.foldl g s) := by
  have hfold : ∀ (l : List α) s y, P y s → P y (l.foldl g s) := by
    intro l
    induction l with
    | nil => exact fun _ _ h => h
    | cons x r ih => exact fun s y h => ih _ y (hkeep s x y h)
  induction l generalizing s with
  | nil => simp
  | cons x r ih =>
    intro y hy
    rcases List.mem_cons.mp hy with rfl | hy
    · exact hfold r _ y (hset s y)
    · exact ih _ y hy

theorem has_put {κ ν : Type} [DecidableEq κ] (l : List (κ × ν)) (k j : κ) (v : ν) :
    has (put l k v) j = (decide (k = j) || has l j) := by
  induction l with
  | nil => simp [put, has]
  | cons p r ih =>
    unfold has at ih ⊢
    unfold put
    split
    · next h => simp [h]
    · simp only [List.any_cons, ih]
      exact Bool.or_left_comm _ _ _

theorem contains_setIns (l : List Nat) (x y : Nat) : (setIns l x).contains y = (decide (y = x) || l.contains y) := by
  unfold setIns
  split
  · next h =>
    by_cases hy : y = x
    · subst hy
      simpa using h
    · simp [hy]
  · rw [List.contains_cons]
    rfl

/-! ### A control core's interrupts (R36, R632, R640) -/

/-- Of a state, completions at a control core change the interrupt unit alone: no priority stack, and no source on the page of
another core. -/
structure DoneAt (core : Nat) (s t : State) : Prop where
  rest : t = { s with pkg := { s.pkg with irq := t.pkg.irq } }
  idStacks : t.pkg.irq.idStacks = s.pkg.irq.idStacks
  others : ∀ k j, k ≠ core → getPriv t k j = getPriv s k j

theorem DoneAt.refl (core : Nat) (s : State) : DoneAt core s s := ⟨rfl, rfl, fun _ _ _ => rfl⟩

theorem DoneAt.trans {core : Nat} {a b c : State} (h : DoneAt core a b) (g : DoneAt core b c) : DoneAt core a c :=
  ⟨by rw [g.rest, h.rest], g.idStacks.trans h.idStacks, fun k j hk => (g.others k j hk).trans (h.others k j hk)⟩

theorem doneAt_putPriv (s : State) (core j : Nat) (x : SrcSt) : DoneAt core s (putPriv s core j x) :=
  ⟨rfl, rfl, fun _ _ hk => look_put_ne _ _ _ (fun e => hk (congrArg Prod.fst e))⟩

theorem doneAt_sharedDone (core : Nat) (s : State) (n : Nat) : DoneAt core s (sharedDone s n) := by
  unfold sharedDone raiseInBand
  dsimp only
  split <;> exact ⟨rfl, rfl, fun _ _ _ => rfl⟩

theorem doneAt_idDone (core : Nat) (s : State) (id : Nat) : DoneAt core s (idDone s core id) := by
  unfold idDone
  split
  · exact doneAt_putPriv s core id _
  · exact doneAt_sharedDone core s _

theorem doneAt_foldl_idDone (core : Nat) (l : List Nat) (s : State) :
    DoneAt core s (l.foldl (fun acc id => idDone acc core id) s) := by
  induction l generalizing s with
  | nil => exact .refl core s
  | cons id r ih => exact (doneAt_idDone core s id).trans (ih _)

/-- An emptied stack changes the interrupt unit alone. -/
theorem irqEmpty_eq (core : Nat) (s : State) :
    irqEmpty core s = { s with pkg := { s.pkg with irq := (irqEmpty core s).pkg.irq } } :=
  (doneAt_foldl_idDone core (irqStack s core) (putStack s core [])).rest

theorem irqStack_irqEmpty (core : Nat) (s : State) : irqStack (irqEmpty core s) core = [] := by
  unfold irqStack
  rw [irqEmpty, (doneAt_foldl_idDone core (irqStack s core) (putStack s core [])).idStacks]
  exact look_put _ _ _ _

/-- The sources of the other control cores' own pages stand. -/
theorem getPriv_irqEmpty_ne {core k : Nat} (s : State) (j : Nat) (h : k ≠ core) :
    getPriv (irqEmpty core s) k j = getPriv s k j :=
  (doneAt_foldl_idDone core (irqStack s core) (putStack s core [])).others k j h

/-- An edge changes only the interrupt unit of the package. -/
theorem privEdgeEvent_pkg (s : State) (core j : Nat) :
    (privEdgeEvent s core j).pkg = { s.pkg with irq := (privEdgeEvent s core j).pkg.irq } := by
  unfold privEdgeEvent
  dsimp only
  split <;> rfl

theorem regsBut_privEdgeEvent (s : State) (core j : Nat) : regsBut [(.irqpMerged, pgIrqp core, 0)] s (privEdgeEvent s core j) := by
  intro r pg k hr
  unfold privEdgeEvent
  dsimp only
  split
  · exact rdR_setF_ne _ fIrqpMergedCount _ _ _ _ _ _ (by simpa [fIrqpMergedCount] using hr)
  · rfl

/-! ### The mailbox at a takeover (R37, R508) -/

/-- Between two states only registers and the host side differ, and no mailbox slot loses its TAKEOVER mark. -/
structure MarksKept (s t : State) : Prop where
  same : SameBut [.regs, .ho] s t
  marks : ∀ pg k, getB s fFnMbStateTakeover pg k = true → getB t fFnMbStateTakeover pg k = true

theorem MarksKept.refl (s : State) : MarksKept s s := ⟨.refl s, fun _ _ h => h⟩

theorem MarksKept.trans {a b c : State} (h : MarksKept a b) (g : MarksKept b c) : MarksKept a c :=
  ⟨h.same.trans g.same, fun pg k hm => g.marks pg k (h.marks pg k hm)⟩

/-- The host side holds no mark. -/
theorem marksKept_ho (s : State) (ho : HostSt) : MarksKept s { s with ho := ho } :=
  ⟨same_mk (.refl s) (hho := .inr (by decide)), fun _ _ h => h⟩

/-- A field beside the mark set. -/
theorem marksKept_setF (s : State) (f : RField) (pg v k : Nat) (hf : f.lo + f.w ≤ 64)
    (h : f.reg ≠ .fnMbState ∨ f.lo + f.w ≤ 23 ∨ 24 ≤ f.lo) : MarksKept s (setF s f pg v k) where
  same := same_mk (.refl s) (hregs := .inr (by decide))
  marks q j hm := by
    rw [← hm]
    unfold getB
    congr 1
    by_cases he : (Reg.fnMbState, q, j) = (f.reg, pg, k)
    · obtain ⟨hr, rfl, rfl⟩ : Reg.fnMbState = f.reg ∧ q = pg ∧ j = k := by simpa using he
      exact getF_setF_apart hr hf ((h.resolve_left (fun e => e hr.symm)).symm)
    · exact getF_setF_ne he

theorem marksKept_mark (s : State) (pg k : Nat) : MarksKept s (setB s fFnMbStateTakeover pg true k) where
  same := same_mk (.refl s) (hregs := .inr (by decide))
  marks q j hm := by
    by_cases he : q = pg ∧ j = k
    · obtain ⟨rfl, rfl⟩ := he
      exact getB_setB s q true j (by decide) rfl
    · rw [← hm]
      unfold getB
      congr 1
      exact getF_setF_ne (by simpa [fFnMbStateTakeover] using he)

theorem marksKept_mbSet (s : State) (fn k st status : Nat) : MarksKept s (mbSet s fn k st status) :=
  ((marksKept_setF s fFnMbStateState _ st k (by decide) (by decide)).trans
    (marksKept_setF _ fFnMbStateStatus _ status k (by decide) (by decide))).trans
    (marksKept_setF _ fBlkIrqPendSrc _ _ 0 (by decide) (by decide))

theorem marksKept_mbResult (s : State) (fn k : Nat) (rsp : List Nat) : MarksKept s (mbResult s fn k rsp) := by
  unfold mbResult
  induction List.range 8 generalizing s with
  | nil => exact .refl s
  | cons w r ih => exact (marksKept_setF s fFnMbRspData _ _ _ (by decide) (by decide)).trans (ih _)

theorem marksKept_mbRefuse (s : State) (fn k status : Nat) : MarksKept s (mbRefuse s fn k status) := by
  unfold mbRefuse
  split
  · exact (marksKept_mbSet s fn k 3 status).trans (marksKept_mbResult _ fn k [])
  · exact marksKept_mbSet s fn k 5 status

theorem marksKept_mbRefused (s : State) (fn k status : Nat) : MarksKept s (mbEnd fn k (.refused status) s) := by
  unfold mbEnd
  split
  · exact marksKept_ho s _
  · exact (marksKept_ho s _).trans (marksKept_mbRefuse _ fn k status)

/-- Commands turned away as no commands leave the marks alone. -/
theorem marksKept_mbClear (s : State) : MarksKept s (mbClear s) := by
  have hsweep : ∀ n s, MarksKept s (mbSweep n s) := by
    intro n
    induction n with
    | zero => exact .refl
    | succ n ih =>
      intro s
      unfold mbSweep
      split
      · exact .refl s
      · split
        · exact .refl s
        · exact (marksKept_mbRefused s _ _ _).trans (ih _)
  exact hsweep _ s

/-- A held slot marked as taken over; its answer times run anew (R37). -/
def slotMarked (s : State) (x : Nat × Nat) : State :=
  setB { s with ho := { s.ho with mbAt := put s.ho.mbAt x s.tick } } fFnMbStateTakeover (pgFn x.1) true x.2

theorem takenOverSlot_eq (s : State) (x : Nat × Nat) : takenOverSlot s x =
    if getF s fFnMbStateState (pgFn x.1) x.2 = 1 then mbSet (slotMarked s x) x.1 x.2 2 0 else slotMarked s x := rfl

theorem marksKept_acknowledged (s : State) (x : Nat × Nat) : MarksKept (slotMarked s x) (takenOverSlot s x) := by
  rw [takenOverSlot_eq]
  split
  · exact marksKept_mbSet _ _ _ _ _
  · exact .refl _

theorem marksKept_takenOverSlot (s : State) (x : Nat × Nat) : MarksKept s (takenOverSlot s x) :=
  ((marksKept_ho s _).trans (marksKept_mark _ (pgFn x.1) x.2)).trans (marksKept_acknowledged s x)

theorem takenOverSlot_marked (s : State) (x : Nat × Nat) :
    getB (takenOverSlot s x) fFnMbStateTakeover (pgFn x.1) x.2 = true :=
  (marksKept_acknowledged s x).marks (pgFn x.1) x.2 (getB_setB _ _ true _ (by decide) rfl)

/-- Every held slot is marked when all have been acknowledged. -/
theorem takenOverSlots_marked (l : List (Nat × Nat)) (s : State) :
    ∀ x ∈ l, getB (l.foldl takenOverSlot s) fFnMbStateTakeover (pgFn x.1) x.2 = true :=
  foldl_establishes (P := fun x t => getB t fFnMbStateTakeover (pgFn x.1) x.2 = true)
    (fun t x y h => (marksKept_takenOverSlot t x).marks (pgFn y.1) y.2 h) takenOverSlot_marked l s

theorem marksKept_takenOverSlots (l : List (Nat × Nat)) (s : State) : MarksKept s (l.foldl takenOverSlot s) := by
  induction l generalizing s with
  | nil => exact .refl s
  | cons x r ih => exact (marksKept_takenOverSlot s x).trans (ih _)

/-! ### Takeovers (R36, R37, R39) -/

/-- The duties handed over before any mailbox word is looked at: the takeover has ended, and the allocator has what it
last saved (R37, R582). -/
def dutiesResumed (s : State) : State :=
  let s1 := putBoot s { s.pkg.boot with takeover := none, tookOver := true }
  putPower s1 { s1.pkg.power with learned := s1.pkg.power.saved.getD .reset }

theorem takeoverCompleteEffect_eq (s : State) :
    takeoverCompleteEffect s = commitsResume (mbClear (s.ho.mb.foldl takenOverSlot (dutiesResumed s))) := rfl

/-- A failed core recorded, and the interrupt page of span 0's emptied (R39, R640). -/
def coreFailed (k : Fin 9) (s : State) : State :=
  let s1 := putBoot s { s.pkg.boot with coresDown := setIns s.pkg.boot.coresDown k.val }
  if k = 0 then irqEmpty 0 s1 else s1

theorem mgmtCoreFailureEffect_eq (k : Fin 9) (s : State) : mgmtCoreFailureEffect k s =
    if coreDown (coreFailed k s) 0 && coreDown (coreFailed k s) 8 then
      putBoot (coreFailed k s) { (coreFailed k s).pkg.boot with pkgFault := true }
    else coreFailed k s := rfl

theorem coreFailed_eq (k : Fin 9) (s : State) : coreFailed k s = { s with pkg := { s.pkg with
    boot := { s.pkg.boot with coresDown := setIns s.pkg.boot.coresDown k.val }, irq := (coreFailed k s).pkg.irq } } := by
  unfold coreFailed
  dsimp only
  split
  · exact irqEmpty_eq 0 _
  · rfl

theorem coreDown_coreFailed (k : Fin 9) (s : State) (j : Nat) :
    coreDown (coreFailed k s) j = (decide (j = k.val) || coreDown s j) := by
  rw [coreFailed_eq]
  exact contains_setIns _ _ _

/-- A failed core changes of the package the cores that are down, the package fault and the interrupts (R39). -/
theorem mgmtCoreFailureEffect_pkg (k : Fin 9) (s : State) : mgmtCoreFailureEffect k s = { s with pkg := { s.pkg with
    boot := { s.pkg.boot with
      coresDown := setIns s.pkg.boot.coresDown k.val
      pkgFault := s.pkg.boot.pkgFault || ((k = 0 || coreDown s 0) && (k = 8 || coreDown s 8)) }
    irq := (coreFailed k s).pkg.irq } } := by
  have h0 : decide (0 = k.val) = decide (k = 0) := decide_eq_decide.mpr ⟨fun h => Fin.ext h.symm, fun h => by rw [h]; rfl⟩
  have h8 : decide (8 = k.val) = decide (k = 8) := decide_eq_decide.mpr ⟨fun h => Fin.ext h.symm, fun h => by rw [h]; rfl⟩
  rw [mgmtCoreFailureEffect_eq, coreDown_coreFailed, coreDown_coreFailed, h0, h8]
  generalize ((decide (k = 0) || coreDown s 0) && (decide (k = 8) || coreDown s 8)) = both
  rw [coreFailed_eq]
  cases both
  · rw [Bool.or_false]
    rfl
  · rw [Bool.or_true]
    rfl

theorem irqStack_coreFailed (s : State) : irqStack (coreFailed 0 s) 0 = [] := irqStack_irqEmpty 0 _

theorem coreFailed_irq_of_ne {k : Fin 9} (hk : k ≠ 0) (s : State) : (coreFailed k s).pkg.irq = s.pkg.irq := by
  rw [coreFailed, if_neg hk]
  rfl

end Sys2Proof.Machine
end

section
/-!
SUPPORT. The deck and a span's failure (R31 to R33, R48, R559), the commands of control cores and spans, and the statement
about them.
-/
namespace Sys2Proof.Machine

/-! ### The deck (R31 to R33) -/

theorem edgeNo_div (a b : Fin 8) : edgeNo a b / 8 = min a.val b := by
  unfold edgeNo
  omega

theorem fabricFailed_of_edge {s : State} {a b : Fin 8} (h : s.pkg.boot.edges.contains (edgeNo a b) = true) :
    fabricFailed s (min a.val b) = true := by
  unfold fabricFailed
  rw [Bool.or_eq_true, List.any_eq_true]
  exact .inr ⟨edgeNo a b, by simpa using h, by simp [edgeNo_div]⟩

theorem pathUp_of_failed_edge {s : State} {e : Nat} {p : List Nat} (he : s.pkg.boot.edges.contains e = true)
    (hp : e ∈ pathEdges p) : pathUp s p = false := by
  have hedges : (pathEdges p).all (fun e => !s.pkg.boot.edges.contains e) = false :=
    List.all_eq_false.mpr ⟨e, hp, by simpa using he⟩
  rw [pathUp, hedges, Bool.and_false]

theorem deckPath_of_straight_down {s : State} {x y : Nat} (hne : x ≠ y) (hdown : pathUp s (straightPath x y) = false)
    (hup : pathUp s (otherPath x y) = true) : deckPath s x y = some (otherPath x y) := by
  simp [deckPath, hne, hdown, hup]

/-! ### A span's failure (R48, R559) -/

/-- Between two states no interrupt and no failed span differs, and no retired core is back. -/
structure UnitsLost (s t : State) : Prop where
  irq : t.pkg.irq = s.pkg.irq
  spans : t.pkg.spansGone = s.pkg.spansGone
  absent : ∀ sp co, coreAbsent s sp co = true → coreAbsent t sp co = true

theorem UnitsLost.refl (s : State) : UnitsLost s s := ⟨rfl, rfl, fun _ _ h => h⟩

theorem UnitsLost.trans {a b c : State} (h : UnitsLost a b) (g : UnitsLost b c) : UnitsLost a c :=
  ⟨g.irq.trans h.irq, g.spans.trans h.spans, fun sp co ha => g.absent sp co (h.absent sp co ha)⟩

theorem UnitsLost.of_steady {s t : State} (h : steady t = steady s) : UnitsLost s t where
  irq := congrArg Steady.irq h
  spans := congrArg Steady.spansGone h
  absent sp co ha := by
    have hc : t.core.absent = s.core.absent := congrArg Steady.absent h
    unfold coreAbsent at ha ⊢
    rw [hc]
    exact ha

theorem unitsLost_foldl {α : Type} {g : State → α → State} (hg : ∀ t x, UnitsLost t (g t x)) (l : List α) (s : State) :
    UnitsLost s (l.foldl g s) := by
  induction l generalizing s with
  | nil => exact .refl s
  | cons x r ih => exact (hg s x).trans (ih _)

theorem unitsLost_stopEntries (s : State) (span : Nat) (hit : SEntry → Bool) : UnitsLost s (stopEntries s span hit) := by
  unfold stopEntries
  dsimp only
  split
  · exact .refl s
  · exact ⟨rfl, rfl, fun _ _ h => h⟩

/-- A core put among the retired ones. -/
def coreGone (s : State) (span core cause : Nat) : State :=
  { s with core := { s.core with
    absent := put s.core.absent (coreNo span core) cause
    slots := s.core.slots.filter (fun p => p.1 / 4 ≠ coreNo span core) } }

theorem coreAbsent_coreGone (s : State) (span core : Nat) {cause : Nat} (hc : cause ≠ 0) :
    coreAbsent (coreGone s span core cause) span core = true := by
  unfold coreAbsent coreGone
  rw [look_put]
  simpa using hc

theorem unitsLost_coreGone (s : State) (span core : Nat) {cause : Nat} (hc : cause ≠ 0) :
    UnitsLost s (coreGone s span core cause) where
  irq := rfl
  spans := rfl
  absent sp co ha := by
    unfold coreAbsent at ha ⊢
    unfold coreGone
    by_cases he : coreNo sp co = coreNo span core
    · rw [he, look_put]
      simpa using hc
    · rw [look_put_ne _ _ _ he]
      exact ha

theorem coreRetire_unitsLost_of_coreGone (s : State) (span core cause : Nat) :
    UnitsLost (coreGone s span core cause) (coreRetire s span core cause) := by
  refine .trans ?_ (.of_steady (steady_itemsLost _ _))
  refine .trans ?_ (unitsLost_stopEntries _ _ _)
  exact .of_steady (steady_foldl (steady_recDropCore span core) _ _)

theorem unitsLost_coreRetire (s : State) (span core : Nat) {cause : Nat} (hc : cause ≠ 0) :
    UnitsLost s (coreRetire s span core cause) :=
  (unitsLost_coreGone s span core hc).trans (coreRetire_unitsLost_of_coreGone s span core cause)

/-- A core that is retired is absent from then on (R141). -/
theorem coreAbsent_coreRetire (s : State) (span core : Nat) {cause : Nat} (hc : cause ≠ 0) :
    coreAbsent (coreRetire s span core cause) span core = true :=
  (coreRetire_unitsLost_of_coreGone s span core cause).absent span core (coreAbsent_coreGone s span core hc)

theorem unitsLost_pcieRetire (cause : Nat) (s : State) (p : Nat) : UnitsLost s (pcieRetire cause s p) := by
  have hl : steady (linkSet s p 3) = steady s := by simp (disch := decide) [linkSet]
  exact (UnitsLost.of_steady hl).trans ⟨rfl, rfl, fun _ _ h => h⟩

/-- What a failed span leaves behind (R48, R559): its cores are absent, nothing of its records and lines is left in use, and
no interrupt and no other span is touched. -/
structure SpanLost (sp : Fin 8) (s t : State) : Prop where
  down : spanDown t sp = true
  irq : t.pkg.irq = s.pkg.irq
  cores : ∀ co, co < 16 → coreAbsent t sp co = true
  recs : ∀ r ∈ t.cx.recs, r.1.1 ≠ sp.val
  lines : ∀ l ∈ t.memo.tc, l.span ≠ sp.val
  spans : ∀ sp', sp' ≠ sp.val → spanDown t sp' = spanDown s sp'

theorem spanFail_lost {s : State} {sp : Fin 8} {cause : Nat} (hup : spanDown s sp = false) (hc : cause ≠ 0) :
    SpanLost sp s (spanFail s sp cause) := by
  have hcore : ∀ t c, UnitsLost t (if coreAbsent t sp c then t else coreRetire t sp c cause) := by
    intro t c
    split
    · exact .refl t
    · exact unitsLost_coreRetire t sp c hc
  have hretired : ∀ t c, coreAbsent (if coreAbsent t sp c then t else coreRetire t sp c cause) sp c = true := by
    intro t c
    split
    · next h => exact h
    · exact coreAbsent_coreRetire t sp c hc
  unfold spanFail
  rw [if_neg (by simp [hup])]
  extract_lets ctxs s1 s2 s3 s4 s5
  have h12 : UnitsLost s s2 := (UnitsLost.of_steady (steady_itemsFail s _)).trans (unitsLost_stopEntries s1 sp _)
  have h23 : UnitsLost s2 s3 := unitsLost_foldl hcore _ s2
  have h34 : UnitsLost s3 s4 := unitsLost_foldl (fun t p => by
    split
    · exact .refl t
    · exact .of_steady (steady_pcRetire t _ cause)) _ s3
  have h45 : UnitsLost s4 s5 := .trans (.of_steady (steady_foldl (steady_zlRetire cause) _ s4))
    (unitsLost_foldl (unitsLost_pcieRetire cause) _ _)
  have hall := ((h12.trans h23).trans h34).trans h45
  constructor
  case down => simp [spanDown, has_put]
  case irq => exact hall.irq
  case cores =>
    intro co hco
    refine (h34.trans h45).absent sp co ?_
    exact foldl_establishes (P := fun c t => coreAbsent t sp c = true) (fun t x y h => (hcore t x).absent sp y h) hretired _ s2
      co (List.mem_range.mpr hco)
  case recs =>
    intro r hr
    simpa using (List.mem_filter.mp hr).2
  case lines =>
    intro l hl
    simpa using (List.mem_filter.mp hl).2
  case spans =>
    intro sp' hne
    unfold spanDown
    rw [has_put, hall.spans]
    simp [Ne.symm hne]

/-! ### The commands of control cores and spans -/

theorem exec_pkgCtrlHeartbeat {s : State} (hrun : running s = true) (hup : coreDown s 8 = false) :
    exec .pkgCtrlHeartbeat s = .next (putBoot s { s.pkg.boot with beatAt := s.tick }) := by
  show execPkgCtrlHeartbeat s = _
  rw [execPkgCtrlHeartbeat, clocked_running hrun, hup]
  rfl

theorem exec_takeoverStart {s : State} (hrun : running s = true) (hready : takeoverStartReady s = true) :
    exec .takeoverStart s = .next (takeoverStartEffect s) := by
  show execTakeoverStart s = _
  rw [execTakeoverStart, clocked_running hrun, if_pos hready]

theorem exec_takeoverComplete {s : State} (hrun : running s = true) (hover : s.pkg.boot.takeover.isSome = true)
    (hup : coreDown s 0 = false) : exec .takeoverComplete s = .next (takeoverCompleteEffect s) := by
  show execTakeoverComplete s = _
  rw [execTakeoverComplete, clocked_running hrun, hover, hup]
  rfl

theorem exec_mgmtCoreFailure {s : State} {k : Fin 9} (hrun : running s = true) (hup : coreDown s k = false) :
    exec (.mgmtCoreFailure k) s = .next (mgmtCoreFailureEffect k s) := by
  show execMgmtCoreFailure k s = _
  rw [execMgmtCoreFailure, clocked_running hrun, if_neg (by simp [hup])]

theorem exec_deckEdgeFail {s : State} {a b : Fin 8} (hrun : running s = true)
    (hedge : deckEdge (min a.val b) (max a.val b) = true) : exec (.deckEdgeFail a b) s =
      .next (putBoot s { s.pkg.boot with edges := setIns s.pkg.boot.edges (edgeNo a b) }) := by
  show execDeckEdgeFail a b s = _
  rw [execDeckEdgeFail, clocked_running hrun, if_pos hedge]

theorem exec_creditTimeout {s : State} {sp : Fin 8} (hrun : running s = true) (hup : spanDown s sp = false) (cls : Fin 4)
    (empty : Bool) (since : Nat) : exec (.creditTimeout sp cls empty since) s =
      .next (if creditTimeoutReady empty since s then spanFail (privEdgeEvent s sp 25) sp 3 else s) := by
  show execCreditTimeout sp cls empty since s = _
  rw [execCreditTimeout, clocked_running hrun, hup]
  cases creditTimeoutReady empty since s <;> rfl

/-- The state in which a takeover empties the page of the package control core (R36). -/
def dutiesTaken (s : State) : State :=
  putBoot (privEdgeEvent s 0 26) { s.pkg.boot with takeover := some s.tick, coresDown := setIns s.pkg.boot.coresDown 8 }

theorem dutiesTaken_power (s : State) : (dutiesTaken s).pkg.power = s.pkg.power := by
  show (privEdgeEvent s 0 26).pkg.power = _
  rw [privEdgeEvent_pkg]

theorem dutiesTaken_same (s : State) : SameBut [.regs, .pkg] s (dutiesTaken s) := by
  unfold dutiesTaken
  rw [privEdgeEvent_eq]
  exact same_mk (.refl s) (hregs := .inr (by decide)) (hpkg := .inr (by decide))

/-- The start of a takeover: the duties pass, with an edge at span 0's page and the package control core's emptied. -/
theorem takeoverStart_duties (s : State) :
    (takeoverStartEffect s).pkg.boot
        = { s.pkg.boot with takeover := some s.tick, coresDown := setIns s.pkg.boot.coresDown 8 }
      ∧ irqStack (takeoverStartEffect s) 8 = []
      ∧ getPriv (takeoverStartEffect s) 0 26 = (edgeSt (getPriv s 0 26)).1
      ∧ (takeoverStartEffect s).pkg.power = s.pkg.power
      ∧ regsBut [(.irqpMerged, pgIrqp 0, 0)] s (takeoverStartEffect s)
      ∧ SameBut [.regs, .pkg] s (takeoverStartEffect s) := by
  have hstack : irqStack (takeoverStartEffect s) 8 = [] := irqStack_irqEmpty 8 (dutiesTaken s)
  have hpriv : getPriv (takeoverStartEffect s) 0 26 = getPriv (dutiesTaken s) 0 26 :=
    getPriv_irqEmpty_ne (dutiesTaken s) 26 (by decide)
  have heq : takeoverStartEffect s = putIrq (dutiesTaken s) (takeoverStartEffect s).pkg.irq := irqEmpty_eq 8 (dutiesTaken s)
  refine ⟨?_, hstack, hpriv.trans (getPriv_privEdgeEvent s 0 26), ?_, ?_, ?_⟩ <;> rw [heq]
  · rfl
  · exact dutiesTaken_power s
  · exact regsBut_privEdgeEvent s 0 26
  · exact (dutiesTaken_same s).trans (same_mk (.refl _) (hpkg := .inr (by decide)))

/-- The end of a takeover (R37): what the duties resume with, the marks of the slots that waited, and what stands. -/
theorem takeoverComplete_duties (s : State) :
    (takeoverCompleteEffect s).pkg.boot = { s.pkg.boot with takeover := none, tookOver := true }
      ∧ (takeoverCompleteEffect s).pkg.power = { s.pkg.power with learned := s.pkg.power.saved.getD .reset }
      ∧ (takeoverCompleteEffect s).pkg.irq = s.pkg.irq
      ∧ (∀ x ∈ s.ho.mb, getB (takeoverCompleteEffect s) fFnMbStateTakeover (pgFn x.1) x.2 = true)
      ∧ (takeoverCompleteEffect s).sch = s.sch
      ∧ (takeoverCompleteEffect s).srv = { s.srv with groups := (takeoverCompleteEffect s).srv.groups }
      ∧ (takeoverCompleteEffect s).core.lmem = s.core.lmem := by
  have hmark := takenOverSlots_marked s.ho.mb (dutiesResumed s)
  have hheld := marksKept_takenOverSlots s.ho.mb (dutiesResumed s)
  rw [takeoverCompleteEffect_eq]
  generalize s.ho.mb.foldl takenOverSlot (dutiesResumed s) = u at *
  have hclear := marksKept_mbClear u
  have hst := steady_commitsResume (mbClear u)
  generalize mbClear u = m at *
  generalize commitsResume m = t at *
  have hsame := (hheld.trans hclear).same
  have hpkg : m.pkg = (dutiesResumed s).pkg := hsame.pkg.resolve_right (by decide)
  have hcore : m.core = s.core := hsame.core.resolve_right (by decide)
  have hsch : m.sch = s.sch := hsame.sch.resolve_right (by decide)
  have hsrv : m.srv = s.srv := hsame.srv.resolve_right (by decide)
  refine ⟨?_, ?_, ?_, fun x hx => ?_, (congrArg Steady.sch hst).trans hsch, ?_, ?_⟩
  · exact (congrArg Steady.boot hst).trans (congrArg PkgSt.boot hpkg)
  · exact (congrArg Steady.power hst).trans (congrArg PkgSt.power hpkg)
  · have hirq : t.pkg.irq = m.pkg.irq := congrArg Steady.irq hst
    rw [hirq, hpkg]
    rfl
  · have hreg : rdR t .fnMbState = rdR m .fnMbState := congrArg Steady.mbState hst
    have hm := hclear.marks _ _ (hmark x hx)
    unfold getB getF at hm ⊢
    rw [show fFnMbStateTakeover.reg = .fnMbState from rfl] at hm ⊢
    rw [hreg]
    exact hm
  · rw [← hsrv]
    exact congrArg (fun v : ServeSt => { v with groups := t.srv.groups }) (congrArg Steady.srv hst)
  · exact (congrArg Steady.lmem hst).trans (congrArg CoreSt.lmem hcore)

/-- A failed deck edge counts at its lower end, and sends the paths that used it the other way (R33). -/
theorem edgeFailed_paths {s : State} {a b : Fin 8} (h : s.pkg.boot.edges.contains (edgeNo a b) = true) :
    fabricFailed s (min a.val b) = true
      ∧ ∀ x y : Fin 8, x ≠ y → edgeNo a b ∈ pathEdges (straightPath x y) → pathUp s (otherPath x y) = true →
          deckPath s x y = some (otherPath x y) :=
  ⟨fabricFailed_of_edge h, fun _ _ hne hused hup =>
    deckPath_of_straight_down (fun e => hne (Fin.ext e)) (pathUp_of_failed_edge h hused) hup⟩

/-- Settles O14: the duties pass by the frames of the interrupt unit, of the mailbox and of resumed commits, and a failed
span is lost by `spanFail_lost`. -/
theorem dutiesPassOnAndAFailedSpanIsLost : Obligations.DutiesPassOnAndAFailedSpanIsLost := by
  refine ⟨fun s hrun hup => exec_pkgCtrlHeartbeat hrun hup,
    fun s hrun hready => ⟨_, exec_takeoverStart hrun hready, takeoverStart_duties s⟩,
    fun s hrun hover hup => ⟨_, exec_takeoverComplete hrun hover hup, takeoverComplete_duties s⟩,
    fun k s hrun hup => ?_, fun a b s hrun hedge => ?_, fun sp cls since s hrun hup => ⟨fun hold => ?_, fun hnew => ?_, ?_⟩⟩
  · refine ⟨_, exec_mgmtCoreFailure hrun hup, ?_⟩
    rw [mgmtCoreFailureEffect_pkg]
    refine ⟨rfl, ?_, coreFailed_irq_of_ne (s := s), rfl, same_mk (.refl s) (hpkg := .inr (by decide))⟩
    rintro rfl
    exact irqStack_coreFailed s
  · refine ⟨_, exec_deckEdgeFail hrun hedge, rfl, edgeFailed_paths ?_⟩
    exact (contains_setIns _ _ _).trans (by simp)
  · have hup' : spanDown (privEdgeEvent s sp 25) sp = false := by
      rw [spanDown, privEdgeEvent_pkg]
      exact hup
    obtain ⟨hdown, hirq, hcores, hrecs, hlines, hspans⟩ := spanFail_lost hup' (cause := 3) (by decide)
    refine ⟨_, exec_creditTimeout hrun hup cls true since, ?_⟩
    rw [if_pos (by simpa [creditTimeoutReady] using hold)]
    refine ⟨hdown, ?_, hcores, hrecs, hlines, fun sp' hne => ?_⟩
    · rw [getPriv, hirq]
      exact getPriv_privEdgeEvent s sp 25
    · rw [hspans sp' hne, spanDown, privEdgeEvent_pkg]
      rfl
  · rw [exec_creditTimeout hrun hup, if_neg (by simpa [creditTimeoutReady] using hnew)]
  · rw [exec_creditTimeout hrun hup, if_neg (by simp [creditTimeoutReady])]

end Sys2Proof.Machine
end

section
/-!
SUPPORT. Slot controls and the matrix engine (03_engines_and_command_streams.md, 04_matrix_and_vector_engines.md): the states
at which the statements about them fail, and what the model does there.
-/
namespace Sys2Proof.Machine

/-! ### A record table that names a context twice -/

/-- A record of a context whose mask holds core 0 alone. -/
def coreZeroRec : CtxRec := ⟨1, 0, 0, [], .store, [], [], []⟩

/-- The package after reset with two records of context 1 on span 0. `getRec` and `putRec` work on the first alone. -/
def twiceRecorded : State :=
  { State.reset with cx := { CtxSt.reset with recs := [((0, 1), coreZeroRec), ((0, 1), coreZeroRec)] } }

theorem exec_coreRetire_twiceRecorded :
    exec (.coreRetire 0 0) twiceRecorded = .next (coreRetire twiceRecorded 0 0 3) := rfl

/-- The retired core leaves the first record's mask and stays in that of the second. -/
theorem recs_coreRetire_twiceRecorded : (coreRetire twiceRecorded 0 0 3).cx.recs =
    [((0, 1), { coreZeroRec with coreMask := 0 }), ((0, 1), coreZeroRec)] := rfl

/-- Refutes O40: its clause on a failed core (R141) speaks of every entry of the record table, and where the table names a
context twice the core leaves only the entry that the model finds. No hypothesis keeps such a table out. -/
theorem not_slotControlsAndCounts : ¬ Obligations.SlotControlsAndCounts := by
  unfold Obligations.SlotControlsAndCounts
  rintro ⟨-, -, hretire, -⟩
  obtain ⟨t, ht, -, -, -, hmask, -⟩ := hretire 0 0 twiceRecorded rfl rfl
  cases exec_coreRetire_twiceRecorded.symm.trans ht
  have hsecond : ((0, 1), coreZeroRec) ∈ (coreRetire twiceRecorded 0 0 3).cx.recs := by
    simp [recs_coreRetire_twiceRecorded]
  have hclear : bitAt coreZeroRec.coreMask 0 = false := hmask _ hsecond rfl
  exact absurd hclear (by decide)

/-! ### An issued `mx.mma` whose D names the reserved scale mode -/

/-- An `mx.mma` under CZERO with M, N and K of 1 and FP32 operands: A at 64, B at 128, and D at 192 under scale mode 3. -/
def mmaModeThree : QCmd :=
  ⟨256, 0x40 + 2 ^ 40, 1 + 2 ^ 17 * 2, 3 + 2 ^ 17 + 2 ^ 26 + 2 ^ 35, 2 ^ 44 * 3, 0, .issued, false, 0, 0, 0, 0, 0, 0, false,
    false, 0, 0, 0, 0, 0, 0, 0, false⟩

/-- The package after reset with that command issued in slot 0 of core 0 of span 0, for a context with a window of 64 KiB,
and with the first byte behind D's stored rows at 1. -/
def modeThreeIssued : State :=
  { State.reset with
    core := { CoreSt.reset with
      slots := [(0, { emptySlot with
        ctx := some 1, part := partSetQueue newPart 1 { idleQueue with st := .run, cmds := [mmaModeThree] } })]
      lmem := [(256, 1)] }
    cx := { CtxSt.reset with ctxs := [(1, ⟨1, 0, 0, true, 0, false, 0, 0, 1, 1⟩)] } }

/-- The command meets what the statement asks of its words, its operands and its window. -/
theorem modeThreeIssued_meets_hypotheses : running modeThreeIssued = true
    ∧ headOp modeThreeIssued (slotKey 0 0 0) 1 0x40 = some mmaModeThree
    ∧ mxTsCode modeThreeIssued (slotKey 0 0 0) (cmdWords mmaModeThree) = 0
    ∧ mxPoisoned modeThreeIssued (slotKey 0 0 0) (cmdWords mmaModeThree) = false
    ∧ fieldsOk (cmdWords mmaModeThree) (windowBytes modeThreeIssued (slotKey 0 0 0)) = true
    ∧ geometryOk (cmdWords mmaModeThree) (windowBytes modeThreeIssued (slotKey 0 0 0)) = true := by
  decide +kernel

/-- Decode refuses such a command with FMT_RESERVED (R106). -/
theorem fmtsCheck_mmaModeThree : fmtsCheck (cmdWords mmaModeThree) = eFmtReserved := by decide

theorem exec_mxMma_modeThreeIssued :
    exec (.mxMma 0 0 0) modeThreeIssued = .next (mxMmaEffect 0 0 0 modeThreeIssued) := rfl

/-- D is the four bytes from 192; under mode 3 its blocks, and so its scale plane, have no length. -/
theorem outside_modeThree : ∀ r ∈ matRanges (mxD (cmdWords mmaModeThree)),
    256 < lmCell modeThreeIssued (slotKey 0 0 0) r.1
      ∨ lmCell modeThreeIssued (slotKey 0 0 0) r.1 + r.2 ≤ 256 := by
  decide +kernel

/-- The command cuts its row into blocks of no elements, and writes the scale byte of one over the byte behind D. -/
theorem byte_behind_modeThree : cellGet modeThreeIssued.core.lmem 256 = 1
    ∧ cellGet (mxMmaEffect 0 0 0 modeThreeIssued).core.lmem 256 = 0 := by
  decide +kernel

/-- Refutes O41: the fields and the geometry of a command say nothing of its scale modes, and an issued `mx.mma` whose D has
the reserved one writes a byte outside D. No hypothesis keeps out a command that decode refuses. -/
theorem not_matrixMultiplyWritesD : ¬ Obligations.MatrixMultiplyWritesD := by
  unfold Obligations.MatrixMultiplyWritesD
  intro h
  obtain ⟨hrun, hhead, hscale, hpoison, hfields, hgeometry⟩ := modeThreeIssued_meets_hypotheses
  obtain ⟨hruns, -⟩ := h 0 0 0 mmaModeThree modeThreeIssued hrun hhead
  obtain ⟨t, ht, hlocal, -⟩ := hruns hscale hpoison
  cases exec_mxMma_modeThreeIssued.symm.trans ht
  have hkept : cellGet (mxMmaEffect 0 0 0 modeThreeIssued).core.lmem 256 = cellGet modeThreeIssued.core.lmem 256 :=
    hlocal.bytes hfields hgeometry 256 outside_modeThree
  obtain ⟨hbefore, hafter⟩ := byte_behind_modeThree
  rw [hbefore, hafter] at hkept
  exact absurd hkept (by decide)

end Sys2Proof.Machine
end

section
/-!
SUPPORT. Slots, their core parts and queues (R91): what a slot reads after its part or one of its queues is replaced, when a
clocked command comes about, and that the effects of the engines' commands take place in one slot.
-/
namespace Sys2Proof.Machine

/-! ### Clocked commands -/

/-- A clocked command whose condition holds has its effect while the clocks run. -/
theorem exec_of_ready {c : Instr} {s t : State} {b : Bool} (hc : exec c s = .next (clocked s (if b then t else s)))
    (hrun : running s = true) (hb : b = true) : exec c s = .next t := by
  rw [hc, clocked_running hrun, if_pos hb]

/-- A clocked command whose condition does not hold changes nothing. -/
theorem exec_of_not_ready {c : Instr} {s t : State} {b : Bool} (hc : exec c s = .next (clocked s (if b then t else s)))
    (hb : b = false) : exec c s = .next s := by
  rw [hc, if_neg (by simp [hb]), clocked, ite_self]

/-- An event of the oldest issued command of a queue: its effect is that of the command. -/
theorem onHead_of_headOp {sp : Fin 8} {co : Fin 16} {sl : Fin 4} {e : Fin 5} {op : Nat} {s : State} {c : QCmd}
    (h : headOp s (slotKey sp co sl) e op = some c) (f : Nat → QCmd → State) :
    onHead sp co sl e op s f = f (slotKey sp co sl) c := by
  simp [onHead, h]

/-! ### Numbers of slots -/

@[simp] theorem keySpan_slotKey (sp : Fin 8) (co : Fin 16) (sl : Fin 4) : keySpan (slotKey sp co sl) = sp := by
  unfold keySpan slotKey coreNo
  omega

@[simp] theorem keyCore_slotKey (sp : Fin 8) (co : Fin 16) (sl : Fin 4) : keyCore (slotKey sp co sl) = co := by
  unfold keyCore slotKey coreNo
  omega

@[simp] theorem keySlot_slotKey (sp : Fin 8) (co : Fin 16) (sl : Fin 4) : keySlot (slotKey sp co sl) = sl := by
  unfold keySlot slotKey coreNo
  omega

/-! ### A slot's part replaced -/

theorem getSlot_putSlot_ne (s : State) {key k : Nat} (x : Slot) (h : k ≠ key) : getSlot (putSlot s key x) k = getSlot s k :=
  look_put_ne _ _ _ h

theorem getSlot_congr {s t : State} (h : t.core.slots = s.core.slots) (k : Nat) : getSlot t k = getSlot s k := by
  rw [getSlot, getSlot, h]

theorem getQ_congr {s t : State} (h : t.core.slots = s.core.slots) (k e : Nat) : getQ t k e = getQ s k e := by
  rw [getQ, getQ, getSlot_congr h]

/-- A slot whose part is replaced takes the new part, and nothing else changes. -/
theorem slotTakes_putPart (s : State) (key : Nat) (p : CorePart) : SlotTakes s (putPart s key p) key p where
  slot := by
    rw [getSlot, putPart, putSlot]
    simp only [look_put]
  others k hk := getSlot_putSlot_ne s _ hk
  rest := rfl

/-- A queue replaced is the slot's part with that queue replaced. -/
theorem slotTakes_putQ (s : State) (key e : Nat) (q : Queue) :
    SlotTakes s (putQ s key e q) key (partSetQueue (getSlot s key).part e q) := slotTakes_putPart s key _

theorem slotTakes_putCmd (s : State) (key e : Nat) (c : QCmd) :
    SlotTakes s (putCmd s key e c) key (partSetQueue (getSlot s key).part e (qSetCmd (getQ s key e) c)) :=
  slotTakes_putQ s key e _

namespace SlotTakes

variable {s t u : State} {key : Nat} {p r : CorePart}

theorem part (h : SlotTakes s t key p) : (getSlot t key).part = p := by rw [h.slot]

theorem regs (h : SlotTakes s t key p) : t.regs = s.regs := by rw [h.rest]

theorem lmem (h : SlotTakes s t key p) : t.core.lmem = s.core.lmem := by rw [h.rest]

/-- A slot that takes a part changes the cores alone. -/
theorem same (h : SlotTakes s t key p) : SameBut [.core] s t := by
  rw [h.rest]
  exact same_mk (.refl s) (hcore := .inr (by decide))

end SlotTakes

end Sys2Proof.Machine
end

section
/-!
SUPPORT. Seeded launches (R98): the predicates and the queues that a seeded launch leaves, and when it starts.
-/
namespace Sys2Proof.Machine

/-! ### Bits put together -/

theorem bitAt_eq_testBit (v n : Nat) : bitAt v n = v.testBit n := by
  rw [Nat.testBit_eq_decide_div_mod_eq, bitAt, Bool.beq_eq_decide_eq]

theorem bits_one (v n : Nat) : bits v n 1 = (bitAt v n).toNat := by
  rw [bitAt_eq_testBit, Nat.toNat_testBit, bits, Nat.pow_one]

/-- Bit `n` of a sum of powers of two is the digit that the sum gives to it. -/
theorem bitAt_foldl_digits (d : Nat → Bool) (m : Nat) :
    (List.range m).foldl (fun acc n => acc + 2 ^ n * (d n).toNat) 0 < 2 ^ m
      ∧ ∀ n, n < m → bitAt ((List.range m).foldl (fun acc n => acc + 2 ^ n * (d n).toNat) 0) n = d n := by
  induction m with
  | zero => simp
  | succ m ih =>
    rw [List.range_succ, List.foldl_append]
    generalize (List.range m).foldl (fun acc n => acc + 2 ^ n * (d n).toNat) 0 = v at *
    obtain ⟨hlt, hbits⟩ := ih
    have hstep : v + 2 ^ m * (d m).toNat < 2 ^ (m + 1) := by
      have hd := Nat.mul_le_mul_left (2 ^ m) (Bool.toNat_le (d m))
      rw [Nat.pow_succ]
      omega
    refine ⟨hstep, fun n hn => ?_⟩
    rw [List.foldl_cons, List.foldl_nil, Nat.add_comm, bitAt_eq_testBit, Nat.testBit_two_pow_mul_add _ hlt]
    split
    · next hlow => rw [← bitAt_eq_testBit, hbits n hlow]
    · next hhigh =>
      obtain rfl : n = m := by omega
      rw [Nat.sub_self]
      cases d n <;> rfl

/-- Bit `n` of the predicates after a launch's seeds (R98): its seed where its mask bit is set, but for bit 0. -/
def seedBit (preds seedVal seedMask n : Nat) : Bool :=
  if n != 0 && bitAt seedMask n then bitAt seedVal n else bitAt preds n

theorem bitAt_seedPreds (preds seedVal seedMask : Nat) {n : Nat} (hn : n < 16) :
    bitAt (seedPreds preds seedVal seedMask) n = seedBit preds seedVal seedMask n := by
  have h := (bitAt_foldl_digits (seedBit preds seedVal seedMask) 16).2 n hn
  unfold seedPreds
  simp only [bits_one, ← apply_ite Bool.toNat]
  exact h

/-! ### Seeded launches -/

/-- The queues of a part as a seeded launch leaves them (R98). -/
def seededQueues (l : Launch) (qs : List Queue) : List Queue :=
  qs.zipIdx.map (fun q => if bitAt l.mask q.2 then queueStart q.1 (l.entries.getD q.2 0) else q.1)

/-- A part in which a seeded launch has started (R98). -/
def seededPart (p : CorePart) (l : Launch) : CorePart :=
  { partSetLaunch p { l with started := 31, ended := 31 - l.mask } with
    queues := seededQueues l p.queues, preds := seedPreds p.preds l.seedVal l.seedMask }

theorem launchStartSeededEffect_eq {sp : Fin 8} {co : Fin 16} {sl : Fin 4} {l : Launch} {s : State}
    (h : seededNext (getSlot s (slotKey sp co sl)).part = some l) : launchStartSeededEffect sp co sl s =
      putPart s (slotKey sp co sl) (seededPart (getSlot s (slotKey sp co sl)).part l) := by
  unfold launchStartSeededEffect
  simp only [h]
  rfl

theorem partQueue_seededPart (p : CorePart) (l : Launch) {e : Nat} (he : e < p.queues.length) :
    partQueue (seededPart p l) e =
      if bitAt l.mask e then queueStart (partQueue p e) (l.entries.getD e 0) else partQueue p e := by
  unfold partQueue seededPart seededQueues
  simp [List.getD_eq_getElem?_getD, he]

theorem predOf_seededPart (p : CorePart) (l : Launch) {n : Nat} (hpos : 0 < n) (hn : n < 16) :
    predOf (seededPart p l) n = if bitAt l.seedMask n then bitAt l.seedVal n else predOf p n := by
  have h := bitAt_seedPreds p.preds l.seedVal l.seedMask hn
  have hne : (n == 0) = false := by simp only [beq_eq_false_iff_ne, ne_eq, Nat.ne_of_gt hpos, not_false_eq_true]
  unfold predOf seededPart
  simp only [h, seedBit, hne, Bool.false_or, bne, Bool.not_false, Bool.true_and]

/-- No seeded launch starts while a queue of its slot is not idle (R98). -/
theorem launchStartSeededReady_of_busy {sp : Fin 8} {co : Fin 16} {sl : Fin 4} {e : Nat} {s : State} (he : e < 5)
    (h : queueIdle s (slotKey sp co sl) e = false) : launchStartSeededReady sp co sl s = false := by
  have hall : [0, 1, 2, 3, 4].all (queueIdle s (slotKey sp co sl)) = false := by
    rw [List.all_eq_false]
    exact ⟨e, by simp; omega, by simp [h]⟩
  simp only [launchStartSeededReady, hall, Bool.false_and]

/-- No engine starts a seeded launch alone (R97, R98). -/
theorem launchStartEngineReady_of_seeded {sp : Fin 8} {co : Fin 16} {sl : Fin 4} {e : Fin 5} {l : Launch} {s : State}
    (h : curLaunch (getSlot s (slotKey sp co sl)).part e = some l) (hseed : l.seedMask / 2 ≠ 0) :
    launchStartEngineReady sp co sl e s = false := by
  simp [launchStartEngineReady, h, hseed]

/-- Settles O37: a seeded launch leaves the slot's part as `seededPart` says, and no other event starts it. -/
theorem seededLaunchesStartTogether : Obligations.SeededLaunchesStartTogether := by
  refine ⟨fun sp co sl l s hrun hready hnext => ?_, fun sp co sl e s _ he hbusy => ?_,
    fun sp co sl e l s _ hcur hseed => ?_⟩
  · refine ⟨_, seededPart (getSlot s (slotKey sp co sl)).part l, exec_of_ready rfl hrun hready, ?_, rfl, rfl, rfl,
      fun n hpos hn => predOf_seededPart _ l hpos hn, fun e he => partQueue_seededPart _ l he⟩
    rw [launchStartSeededEffect_eq hnext]
    exact slotTakes_putPart s _ _
  · exact exec_of_not_ready rfl (launchStartSeededReady_of_busy he hbusy)
  · exact exec_of_not_ready rfl (launchStartEngineReady_of_seeded hcur hseed)

end Sys2Proof.Machine
end

section
/-!
SUPPORT. A blocked wait behind a command that has not completed (R124, R137): the state at which the statement about the
common commands fails, and what the model does there.
-/
namespace Sys2Proof.Machine

/-- A wait whose timeout has expired does not halt its queue while an earlier command of the queue has not completed
(R137). -/
theorem exec_waitTimeout_of_behind {sp : Fin 8} {co : Fin 16} {sl : Fin 4} {e : Fin 5} {c : QCmd} {s : State}
    (hhead : headOp s (slotKey sp co sl) e 0x02 = some c) (hfront : atFront (getQ s (slotKey sp co sl) e) c = false) :
    exec (.waitTimeout sp co sl e) s = .next s := by
  have heff : waitTimeoutEffect sp co sl e s = s := by
    rw [waitTimeoutEffect, onHead_of_headOp hhead]
    simp [hfront]
  show execWaitTimeout sp co sl e s = _
  rw [execWaitTimeout, heff, clocked, ite_self]

/-- A queue that has halted at a command shows HALT_ERR (R137). -/
theorem st_haltedPart {p : CorePart} {e code launch pc : Nat} (he : e < p.queues.length) :
    (partQueue (haltedPart p e code launch pc) e).st = .haltErr := by
  unfold haltedPart partErr partSetQueue partReopen partQueue
  simp [List.getD_eq_getElem?_getD, he]

/-- A `q.nop` that has been executed and has not completed. -/
def nopExecuted : QCmd :=
  ⟨0x1000, 0, 0, 0, 0, 0, .executed, false, 0, 0, 0, 0, 0, 0, false, false, 0, 0, 0, 0, 0, 0, 0, false⟩

/-- An issued `tl.wait` for tally 0 to reach 1, with a timeout of one unit. -/
def waitIssued : QCmd :=
  ⟨0x1020, 0x02, 1, 1, 0, 0, .issued, false, 0, 0, 0, 0, 0, 0, false, false, 0, 0, 0, 0, 1, 0, 0, false⟩

/-- The package after reset, 1,024 ticks on, with the LD queue of slot 0 of core 0 of span 0 blocked since tick 0 in that
wait, behind that `q.nop`. -/
def expiredBehindNop : State :=
  { State.reset with
    tick := 1024
    core := { CoreSt.reset with
      slots := [(0, { emptySlot with
        ctx := some 1
        part := partSetQueue newPart 0 { idleQueue with
          st := .wait, cmds := [nopExecuted, waitIssued], waitTarget := 1, waitLeft := 1 } })] } }

/-- The wait is the oldest issued command of its queue, its timeout has expired, and the `q.nop` stands before it. -/
theorem expiredBehindNop_waits : running expiredBehindNop = true
    ∧ (getQ expiredBehindNop (slotKey 0 0 0) 0).st = .wait
    ∧ headOp expiredBehindNop (slotKey 0 0 0) 0 0x02 = some waitIssued
    ∧ waitExpired expiredBehindNop (slotKey 0 0 0) 0 = true
    ∧ atFront (getQ expiredBehindNop (slotKey 0 0 0) 0) waitIssued = false := by
  decide +kernel

/-- Refutes O39: its clause on an expired wait does not ask that every earlier command of the queue has completed, which a
queue error waits for (R137); while a `q.nop` before the wait has not, the queue stays blocked. -/
theorem not_commonCommandsActOnTheirSlot : ¬ Obligations.CommonCommandsActOnTheirSlot := by
  unfold Obligations.CommonCommandsActOnTheirSlot
  rintro ⟨-, hwait, -⟩
  obtain ⟨hrun, hst, hhead, hexpired, hfront⟩ := expiredBehindNop_waits
  obtain ⟨-, -, -, htimeout⟩ := hwait 0 0 0 0 waitIssued expiredBehindNop hrun hhead
  obtain ⟨t, ht, hhalted⟩ := htimeout hexpired
  cases (exec_waitTimeout_of_behind (sp := 0) (co := 0) (sl := 0) (e := 0) hhead hfront).symm.trans ht
  have hhalt : (getQ expiredBehindNop (slotKey 0 0 0) 0).st = .haltErr :=
    (congrArg (fun p => (partQueue p 0).st) hhalted.part).trans (st_haltedPart (by decide))
  rw [hst] at hhalt
  cases hhalt

end Sys2Proof.Machine
end

section
/-!
SUPPORT. Queue errors (R136 to R138): what the end of an item, a discarded launch and the notes of a halt leave of the cores
and of the slots' error registers, the record of a slot's error, and the halt of a queue.
-/
namespace Sys2Proof.Machine

/-! ### The cores and the error registers -/

/-- What the record of a queue error speaks of: the cores, and the error registers of every slot (R137). -/
structure ErrView where
  core : CoreSt
  err : Nat → Nat → Nat
  addr : Nat → Nat → Nat

/-- The cores and the slots' error registers of a state. -/
def errView (s : State) : ErrView := ⟨s.core, rdR s .cqSlotErr, rdR s .cqSlotErrAddr⟩

theorem core_of_errView {s t : State} (h : errView t = errView s) : t.core = s.core := congrArg ErrView.core h

theorem getF_of_errView {s t : State} (h : errView t = errView s) {f : RField} (hf : f.reg = .cqSlotErr) (pg k : Nat) :
    getF t f pg k = getF s f pg k := by
  have hr : rdR t .cqSlotErr = rdR s .cqSlotErr := congrArg ErrView.err h
  unfold getF
  rw [hf, hr]

theorem getF_addr_of_errView {s t : State} (h : errView t = errView s) (pg k : Nat) :
    getF t fCqSlotErrAddrAddr pg k = getF s fCqSlotErrAddrAddr pg k := by
  have hr : rdR t .cqSlotErrAddr = rdR s .cqSlotErrAddr := congrArg ErrView.addr h
  unfold getF
  rw [show fCqSlotErrAddrAddr.reg = .cqSlotErrAddr from rfl, hr]

@[simp] theorem errView_setF (s : State) (f : RField) (pg v k : Nat) (h : f.reg ≠ .cqSlotErr ∧ f.reg ≠ .cqSlotErrAddr) :
    errView (setF s f pg v k) = errView s := by
  have hr : ∀ r, f.reg ≠ r → rdR (setF s f pg v k) r = rdR s r := fun r hne => by
    funext q j
    exact rdR_setF_ne s f pg v k r q j (fun e => hne (congrArg Prod.fst e).symm)
  rw [errView, hr _ h.1, hr _ h.2]
  rfl

@[simp] theorem errView_setB (s : State) (f : RField) (pg : Nat) (b : Bool) (k : Nat)
    (h : f.reg ≠ .cqSlotErr ∧ f.reg ≠ .cqSlotErrAddr) : errView (setB s f pg b k) = errView s := errView_setF s f pg _ k h

@[simp] theorem errView_bumpF (s : State) (f : RField) (pg n k : Nat) (h : f.reg ≠ .cqSlotErr ∧ f.reg ≠ .cqSlotErrAddr) :
    errView (bumpF s f pg n k) = errView s := errView_setF s f pg _ k h

@[simp] theorem errView_bumpSat (s : State) (f : RField) (pg n k : Nat) (h : f.reg ≠ .cqSlotErr ∧ f.reg ≠ .cqSlotErrAddr) :
    errView (bumpSat s f pg n k) = errView s := errView_setF s f pg _ k h

@[simp] theorem errView_irqSrc (s : State) (pg bit : Nat) : errView (irqSrc s pg bit) = errView s :=
  errView_setF s fBlkIrqPendSrc pg _ _ (by decide)

@[simp] theorem errView_blkErr (s : State) (pg bit : Nat) : errView (blkErr s pg bit) = errView s := by
  unfold blkErr
  dsimp only
  split <;> simp (disch := decide)

@[simp] theorem errView_blkErrBit (s : State) (pg bit : Nat) : errView (blkErrBit s pg bit) = errView s :=
  errView_setF s fBlkErrAcc pg _ _ (by decide)

@[simp] theorem errView_elogAdd (s : State) (e : ElogEntry) : errView (elogAdd s e) = errView s := by
  unfold elogAdd
  extract_lets seq nested e' s1
  have h1 : errView s1 = errView s := by simp (disch := decide) [s1]
  split
  · exact h1
  · split
    · exact h1
    · simp (disch := decide)

/-- Parts of the state other than the cores and the registers do not matter. -/
theorem errView_mk {s t : State} (hc : t.core = s.core) (hr : t.regs = s.regs) : errView t = errView s := by
  have h : ∀ r, rdR t r = rdR s r := fun r => by
    funext q j
    exact rdR_congr hr r q j
  rw [errView, errView, hc, h, h]

@[simp] theorem errView_putItem (s : State) (it : Item) : errView (putItem s it) = errView s := rfl

@[simp] theorem errView_dropStaged (s : State) (id : Nat) : errView (dropStaged s id) = errView s := rfl

@[simp] theorem errView_stepFailed (s : State) (it : Item) : errView (stepFailed s it) = errView s := rfl

@[simp] theorem errView_dropHeld (s : State) (id : Nat) : errView (dropHeld s id) = errView s := rfl

@[simp] theorem errView_cqPlace (s : State) (id : Nat) (r : CqRec) : errView (cqPlace s id r) = errView s := by
  unfold cqPlace
  split <;> rfl

@[simp] theorem errView_itemBad (s : State) (it : Item) (code : Nat) : errView (itemBad s it code) = errView s := by
  unfold itemBad
  dsimp only
  split
  · exact errView_elogAdd _ _
  · rfl

/-- An item taken off the tables of items. -/
theorem errView_itemsOff (s : State) (ho : HostSt) (er : ErrSt) : errView { s with ho := ho, er := er } = errView s := rfl

@[simp] theorem errView_itemGone (s : State) (it : Item) (code : Nat) : errView (itemGone s it code) = errView s := by
  have h0 : errView (if code = 0 then s else itemBad s it code) = errView s := by split <;> simp
  unfold itemGone
  dsimp only
  rw [← h0]
  generalize (if code = 0 then s else itemBad s it code) = s0
  repeat' split
  all_goals simp (disch := decide) [errView_itemsOff]

@[simp] theorem errView_itemError (s : State) (id code engine core span addr : Nat) :
    errView (itemError s id code engine core span addr) = errView s := by
  unfold itemError
  split <;> simp

@[simp] theorem errView_cadenceLost (s : State) : errView (cadenceLost s) = errView s := by
  unfold cadenceLost
  extract_lets k s1
  have h1 : errView s1 = errView s := errView_setB s _ _ _ _ (by decide)
  split
  · rfl
  · split
    · exact h1
    · rw [errView_bumpF _ _ _ _ _ (by decide)]
      exact h1

@[simp] theorem errView_firingDropped (s : State) (l : Launch) : errView (firingDropped s l) = errView s := by
  unfold firingDropped
  split
  · next span idx _ _ =>
    split
    · rfl
    · have h1 : errView (cadenceLost (bumpF s fSchedDroppedCount (pgSched span))) = errView s := by
        simp (disch := decide)
      exact h1
  · rfl

/-- A discarded launch leaves the cores and the slots' error registers (R655). -/
theorem errView_launchDiscard (s : State) (l : Launch) (code engine core span addr : Nat) :
    errView (launchDiscard s l code engine core span addr) = errView s := by
  simp [launchDiscard]

@[simp] theorem errView_specCancel (s : State) (key : Nat) (cs : List QCmd) : errView (specCancel s key cs) = errView s :=
  errView_bumpF s fCqSpecCancelledCount _ _ _ (by decide)

/-! ### The error of a slot (R137) -/

theorem slotError_regs (s : State) (key e code addr : Nat) :
    slotError s key e code addr = { s with regs := (slotError s key e code addr).regs } := by
  unfold slotError
  dsimp only
  rw [blkErr_regs]
  split <;> rfl

theorem slotError_core (s : State) (key e code addr : Nat) : (slotError s key e code addr).core = s.core := by
  rw [slotError_regs]

theorem slotError_memo (s : State) (key e code addr : Nat) : (slotError s key e code addr).memo = s.memo := by
  rw [slotError_regs]

/-- An error that a slot holds already stays. -/
theorem errView_slotError_of_valid {s : State} {key : Nat} (e code addr : Nat)
    (h : getB s fCqSlotErrValid (pgCq (keySpan key) (keyCore key)) (keySlot key) = true) :
    errView (slotError s key e code addr) = errView s := by
  simp [slotError, h]

/-- A slot without an error takes one: its engine, its code and its address. -/
structure ErrRecorded (t : State) (key e code addr : Nat) : Prop where
  valid : getB t fCqSlotErrValid (pgCq (keySpan key) (keyCore key)) (keySlot key) = true
  engine : getF t fCqSlotErrEngine (pgCq (keySpan key) (keyCore key)) (keySlot key) = e % 8
  code : getF t fCqSlotErrCode (pgCq (keySpan key) (keyCore key)) (keySlot key) = code % 256
  addr : getF t fCqSlotErrAddrAddr (pgCq (keySpan key) (keyCore key)) (keySlot key) = addr % 2 ^ 64

theorem slotError_records {s : State} {key : Nat} (e code addr : Nat)
    (h : getB s fCqSlotErrValid (pgCq (keySpan key) (keyCore key)) (keySlot key) = false) :
    ErrRecorded (slotError s key e code addr) key e code addr := by
  unfold slotError
  simp only [h, Bool.false_eq_true, if_false]
  constructor
  case valid =>
    rw [getB, getF_setF_ne (by simp [fCqSlotErrValid, fCqSlotErrAddrAddr])]
    simp (disch := decide) only [getF_setF_apart]
    exact getB_setB _ _ true _ (by decide) rfl
  case engine =>
    rw [getF_setF_ne (by simp [fCqSlotErrEngine, fCqSlotErrAddrAddr])]
    simp (disch := decide) only [getF_setF_apart]
    exact getF_setF _ fCqSlotErrEngine _ _ _ (by decide)
  case code =>
    rw [getF_setF_ne (by simp [fCqSlotErrCode, fCqSlotErrAddrAddr])]
    exact getF_setF _ fCqSlotErrCode _ _ _ (by decide)
  case addr => exact getF_setF _ fCqSlotErrAddrAddr _ _ _ (by decide)

theorem ErrRecorded.of_errView {s t : State} {key e code addr : Nat} (hv : errView t = errView s)
    (h : ErrRecorded s key e code addr) : ErrRecorded t key e code addr where
  valid := by
    rw [getB, getF_of_errView hv rfl]
    exact h.valid
  engine := (getF_of_errView hv rfl _ _).trans h.engine
  code := (getF_of_errView hv rfl _ _).trans h.code
  addr := (getF_addr_of_errView hv _ _).trans h.addr

/-! ### Halts (R137) -/

/-- A held item changes the host side alone. -/
theorem holdItem_ho (s : State) (ctx : Nat) (l : Option Launch) (code va : Nat) :
    holdItem s ctx l code va = { s with ho := (holdItem s ctx l code va).ho } := by
  unfold holdItem
  split
  · rfl
  · split
    · rfl
    · dsimp only
      repeat' split
      all_goals rfl

theorem elogAdd_memo (s : State) (e : ElogEntry) : (elogAdd s e).memo = s.memo := by
  unfold elogAdd
  dsimp only
  split
  · rfl
  · split <;> rfl

theorem dmaevAdd_cx (s : State) (span ctx r w i k : Nat) :
    dmaevAdd s span ctx r w i k = { s with cx := (dmaevAdd s span ctx r w i k).cx } := by
  unfold dmaevAdd
  dsimp only
  split <;> rfl

theorem errView_dmaevAdd (s : State) (span ctx r w i k : Nat) : errView (dmaevAdd s span ctx r w i k) = errView s :=
  errView_mk (by rw [dmaevAdd_cx]) (by rw [dmaevAdd_cx])

/-- The state in which a halt records the slot's error: the item is held for replay, and consumed poison is logged (R535,
R542). -/
def haltLogged (s : State) (key code pc va : Nat) (l : Option Launch) : State :=
  let s1 := holdItem s (slotCtx s key) l code va
  if poisonCode code then logPoison s1 key code va pc else s1

/-- What a halt notes before it empties the queue (R132, R137, R207): the slot's error, and the speculative reads and the
counts of the commands that leave. -/
def haltNoted (s : State) (key e code pc va : Nat) (l : Option Launch) (gone : List QCmd) : State :=
  let s1 := specCancel (slotError (haltLogged s key code pc va l) key e code pc) key gone
  match gone with
  | [] => s1
  | c :: _ => dmaevAdd s1 (keySpan key) (slotCtx s key) c.oobR c.oobW c.oobI c.coal

theorem haltQueue_eq (s : State) (key e code launch pc va : Nat) : haltQueue s key e code launch pc va =
    putPart (haltNoted s key e code pc va (curLaunch (partReopen (getSlot s key).part e launch) e)
      ((getQ s key e).cmds.dropWhile (fun c => !cmdAt launch pc c))) key (haltedPart (getSlot s key).part e code launch pc) := by
  have hslots : ∀ l, (holdItem s (slotCtx s key) l code va).core.slots = s.core.slots := fun l => by rw [holdItem_ho]
  have hq : ∀ l, getQ (holdItem s (slotCtx s key) l code va) key e = getQ s key e := fun l => getQ_congr (hslots l) key e
  have hctx : ∀ l, slotCtx (holdItem s (slotCtx s key) l code va) key = slotCtx s key := fun l => by
    rw [slotCtx, getSlot_congr (hslots l), slotCtx]
  unfold haltQueue
  simp only [hq, hctx]
  rfl

section
variable (s : State) (key e code pc va : Nat) (l : Option Launch) (gone : List QCmd)

theorem errView_haltLogged : errView (haltLogged s key code pc va l) = errView s := by
  have h1 : errView (holdItem s (slotCtx s key) l code va) = errView s := by
    rw [holdItem_ho]
    rfl
  unfold haltLogged
  dsimp only
  split
  · exact (errView_elogAdd _ _).trans h1
  · exact h1

theorem errView_haltNoted : errView (haltNoted s key e code pc va l gone)
    = errView (slotError (haltLogged s key code pc va l) key e code pc) := by
  unfold haltNoted
  dsimp only
  split
  · exact errView_specCancel _ _ _
  · exact (errView_dmaevAdd ..).trans (errView_specCancel _ _ _)

theorem haltNoted_core : (haltNoted s key e code pc va l gone).core = s.core := by
  rw [core_of_errView (errView_haltNoted s key e code pc va l gone), slotError_core,
    core_of_errView (errView_haltLogged s key code pc va l)]

theorem haltNoted_memo : (haltNoted s key e code pc va l gone).memo = s.memo := by
  have h1 : (haltLogged s key code pc va l).memo = s.memo := by
    unfold haltLogged
    dsimp only
    split
    · rw [logPoison, elogAdd_memo, holdItem_ho]
    · rw [holdItem_ho]
  have h2 : (specCancel (slotError (haltLogged s key code pc va l) key e code pc) key gone).memo = s.memo := by
    rw [specCancel, bumpF_memo, slotError_memo, h1]
  unfold haltNoted
  dsimp only
  split
  · exact h2
  · rw [dmaevAdd_cx]
    exact h2

end

/-- A queue that halts at a command takes the part, the error and the frame that the statements name (R137). -/
theorem queueHalted_haltQueue (s : State) {key e code : Nat} (launch pc va : Nat) (he : e < 8) (hcode : code < 256) :
    QueueHalted s (haltQueue s key e code launch pc va) key e code launch pc := by
  rw [haltQueue_eq]
  generalize curLaunch (partReopen (getSlot s key).part e launch) e = l
  generalize (getQ s key e).cmds.dropWhile (fun c => !cmdAt launch pc c) = gone
  have hcore := haltNoted_core s key e code pc va l gone
  have hmemo := haltNoted_memo s key e code pc va l gone
  have hview := errView_haltNoted s key e code pc va l gone
  have hlogged := errView_haltLogged s key code pc va l
  generalize haltNoted s key e code pc va l gone = u at *
  generalize haltLogged s key code pc va l = v at *
  have hput := slotTakes_putPart u key (haltedPart (getSlot s key).part e code launch pc)
  have hregs : ∀ r pg k, rdR (putPart u key (haltedPart (getSlot s key).part e code launch pc)) r pg k = rdR u r pg k :=
    rdR_congr hput.regs
  have hvalid : getB v fCqSlotErrValid (pgCq (keySpan key) (keyCore key)) (keySlot key)
      = getB s fCqSlotErrValid (pgCq (keySpan key) (keyCore key)) (keySlot key) := by
    rw [getB, getF_of_errView hlogged rfl, getB]
  constructor
  case part => exact hput.part
  case others => exact fun k hk => (hput.others k hk).trans (getSlot_congr (by rw [hcore]) k)
  case code =>
    intro hnone
    obtain ⟨h1, h2, h3, h4⟩ := (slotError_records (key := key) e code pc (hvalid.trans hnone)).of_errView hview
    rw [Nat.mod_eq_of_lt he] at h2
    rw [Nat.mod_eq_of_lt hcode] at h3
    simp only [getB, getF, hregs] at h1 h2 h3 h4 ⊢
    exact ⟨h1, h2, h3, h4⟩
  case first =>
    intro hsome
    have hkept := (hview.trans (errView_slotError_of_valid e code pc (hvalid.trans hsome))).trans hlogged
    have herr : rdR u .cqSlotErr = rdR s .cqSlotErr := congrArg ErrView.err hkept
    rw [hregs, herr]
  case memory =>
    have hsig : (putPart u key (haltedPart (getSlot s key).part e code launch pc)).core.signals = u.core.signals := rfl
    exact ⟨hmemo, by rw [hput.lmem, hcore], by rw [hsig, hcore]⟩

end Sys2Proof.Machine
end

section
/-!
SUPPORT. Launches (R94 to R97, R99): how one reaches a core part or the stored record, what becomes of its kernel header, how
an engine starts it, and how the last of an item ends the item.
-/
namespace Sys2Proof.Machine

/-! ### Records -/

theorem find?_put {κ ν : Type} [DecidableEq κ] (l : List (κ × ν)) (k : κ) (v : ν) :
    (put l k v).find? (fun p => p.1 = k) = some (k, v) := by
  induction l with
  | nil => simp [put]
  | cons p r ih =>
    unfold put
    split
    · simp
    · next h => rw [List.find?_cons_of_neg (by simpa using h), ih]

theorem getRec_putRec (s : State) (sp ctx : Nat) (r : CtxRec) : getRec (putRec s sp ctx r) sp ctx = some r := by
  unfold getRec putRec
  simp only [find?_put, Option.map_some]

theorem bitAt_recRunnable (s : State) (r : CtxRec) (c : Nat) : bitAt (recRunnable s r c).runnable c = true := by
  unfold recRunnable
  rw [bitAt_eq_testBit, Nat.testBit_or, Nat.testBit_two_pow_self, Bool.or_true]

/-! ### Delivery (R95, R96) -/

theorem mem_waiting_takeDelivery (s : State) (d : Delivery) : d ∉ (takeDelivery s d).core.waiting := by
  simp [takeDelivery]

/-- The stored record of a context with one more launch for a core, which makes it runnable (R96, R392). -/
def recWithLaunch (s : State) (r : CtxRec) (co : Nat) (l : Launch) : CtxRec :=
  let p := look r.parts co newPart
  recRunnable s { r with parts := put r.parts co { p with launches := p.launches ++ [l] } } co

section
variable {sp : Fin 8} {co : Fin 16} {ctx : Nat} {s : State} (hrun : running s = true)
  (hpresent : coreAbsent s sp co = false)
include hrun hpresent

/-- A launch for a context that is not resident goes to its stored record (R96). -/
theorem exec_launchDeliver_stored {d : Delivery} {r : CtxRec} (hres : residentSlot s sp co ctx = none)
    (hnext : nextDelivery s sp co ctx = some d) (hrec : getRec s sp ctx = some r) (htier : r.tier = .store)
    (hroom : (look r.parts co.val newPart).launches.length < 16) : exec (.launchDeliver sp co ctx) s =
      .next (putRec (takeDelivery s d) sp ctx (recWithLaunch (takeDelivery s d) r co d.launch)) := by
  have hready : launchDeliverReady sp co ctx s = true := by
    simp [launchDeliverReady, hpresent, hres, hnext, hrec, htier, hroom]
  have hrec' : getRec (takeDelivery s d) sp ctx = some r := hrec
  rw [exec_of_ready rfl hrun hready, launchDeliverEffect]
  simp only [hres, hnext, hrec']
  rfl

/-- The kernel header of the oldest launch of a slot that has not been read is read (R95). -/
theorem exec_launchDeliver_unread {sl : Fin 4} {l : Launch} (hres : residentSlot s sp co ctx = some sl.val)
    (hfree : headerFree s (slotKey sp co sl) = true) (hl : unreadLaunch s (slotKey sp co sl) = some l) :
    exec (.launchDeliver sp co ctx) s = .next (headerRead s (slotKey sp co sl) l) := by
  have hready : launchDeliverReady sp co ctx s = true := by
    simp [launchDeliverReady, hpresent, hres, hfree, hl]
  rw [exec_of_ready rfl hrun hready, launchDeliverEffect]
  simp only [hres, hfree, if_true, hl]

end

/-- A state in which a launch has left its slot (R95, R99). -/
def launchOff (s : State) (key : Nat) (l : Launch) : State :=
  putPart s key { (getSlot s key).part with
    launches := (getSlot s key).part.launches.filter (fun y => y.serial ≠ l.serial) }

theorem headerRead_of_misaligned (s : State) (key : Nat) {l : Launch} (h : l.kernel % 64 ≠ 0) : headerRead s key l =
    launchDiscard (slotError (launchOff s key l) key 0 eLaunchHdr l.kernel) l eLaunchHdr 0 (keyCore key)
      (keySpan key) l.kernel := by
  rw [headerRead, if_pos h]
  rfl

/-- A good kernel header gives its launch a mask and entries (R95). -/
theorem headerRead_of_good {s u : State} {key : Nat} {l : Launch} {b : List Byte} {x : Option LineMemo}
    (h : l.kernel % 64 = 0)
    (hread : readVa s (fetchAgent s key 0 eLaunchHdr 0x100 eLaunchHdr) none l.kernel 64 = (.bytes b, x, u))
    (hgood : headerBad l.kernel (wordsOf 8 b) = false) : headerRead s key l =
      putPart u key (partSetLaunch (getSlot u key).part { l with
        hdr := true, mask := bits ((wordsOf 8 b).getD 0 0) 8 5, entries := ((wordsOf 8 b).drop 1).take 5 }) := by
  rw [headerRead, if_neg (by simp [h])]
  simp only [hread, hgood, Bool.false_eq_true, if_false]

/-- A launch refused for its header leaves the slot, and the slot's error names LAUNCH_HDR and the header (R95, R137). -/
theorem headerRead_misaligned {s : State} {key : Nat} {l : Launch} (h : l.kernel % 64 ≠ 0)
    (hnone : getB s fCqSlotErrValid (pgCq (keySpan key) (keyCore key)) (keySlot key) = false) :
    (getSlot (headerRead s key l) key).part = { (getSlot s key).part with
        launches := (getSlot s key).part.launches.filter (fun y => y.serial ≠ l.serial) }
      ∧ ErrRecorded (headerRead s key l) key 0 eLaunchHdr l.kernel := by
  rw [headerRead_of_misaligned s key h]
  have hview := errView_launchDiscard (slotError (launchOff s key l) key 0 eLaunchHdr l.kernel) l eLaunchHdr 0
    (keyCore key) (keySpan key) l.kernel
  have hrec := slotError_records (s := launchOff s key l) (key := key) 0 eLaunchHdr l.kernel hnone
  refine ⟨?_, hrec.of_errView hview⟩
  have hcore := core_of_errView hview
  rw [slotError_core] at hcore
  rw [getSlot_congr (congrArg CoreSt.slots hcore)]
  exact (slotTakes_putPart s key _).part

/-! ### Starts (R97) -/

/-- A part in which an engine has started an unseeded launch: it runs the launch's stream, or has ended it at once where its
mask bit is clear (R97). -/
def startedPart (p : CorePart) (e : Nat) (l : Launch) : CorePart :=
  if bitAt l.mask e then
    partSetQueue (partSetLaunch p { l with started := l.started ||| 2 ^ e }) e (queueStart (partQueue p e) (l.entries.getD e 0))
  else partSetLaunch p { l with started := l.started ||| 2 ^ e, ended := l.ended ||| 2 ^ e }

theorem launchStartEngineEffect_eq {sp : Fin 8} {co : Fin 16} {sl : Fin 4} {e : Fin 5} {l : Launch} {s : State}
    (h : curLaunch (getSlot s (slotKey sp co sl)).part e = some l) : launchStartEngineEffect sp co sl e s =
      putPart s (slotKey sp co sl) (startedPart (getSlot s (slotKey sp co sl)).part e l) := by
  unfold launchStartEngineEffect startedPart
  simp only [h]
  split <;> rfl

/-! ### Items (R499, R503) -/

theorem id_of_getItem {s : State} {id : Nat} {it : Item} (h : getItem s id = some it) : it.id = id := by
  simpa using List.find?_some h

theorem getItem_putItem {s : State} {it new : Item} (h : getItem s it.id = some it) (hid : new.id = it.id) :
    getItem (putItem s new) it.id = some new := by
  have hp : (fun x : Item => x.id == it.id) ∘ (fun x => if x.id == new.id then new else x) = fun x => x.id == it.id := by
    funext x
    by_cases hx : x.id = it.id <;> simp [hx, hid]
  unfold getItem at h ⊢
  simp only [putItem, List.find?_map, hp, h, Option.map_some]
  simp [hid]

theorem cqPlace_ho (s : State) (id : Nat) (r : CqRec) :
    cqPlace s id r = { s with ho := { s.ho with cq := (cqPlace s id r).ho.cq } } := by
  unfold cqPlace
  split <;> rfl

/-- Without a place that a commit has reserved, a record joins the end of the queue (R502). -/
theorem cqPlace_of_no_place {s : State} {id : Nat} (r : CqRec) (h : ∀ x ∈ s.ho.cq, x.item ≠ id) :
    cqPlace s id r = cqPush s r := by
  have hany : s.ho.cq.any (fun x => x.item == id) = false := by
    rw [List.any_eq_false]
    intro x hx
    simpa using h x hx
  rw [cqPlace, if_neg (by simp [hany])]

/-- An item taken off the tables of items (R503, R563). -/
def itemOff (s : State) (it : Item) : State :=
  { s with
    ho := { s.ho with items := s.ho.items.filter (fun x => x.id ≠ it.id) }
    er := { s.er with openItems := setDel s.er.openItems it.id } }

theorem getItem_itemOff (s : State) (it : Item) : getItem (itemOff s it) it.id = none := by
  rw [getItem, List.find?_eq_none]
  intro x hx
  simpa using (List.mem_filter.mp hx).2

/-- An item that is not journaled leaves without an error: its record is queued unless it has been (R503). -/
theorem itemGone_done {s : State} {it : Item} (hj : it.journaled = false) : itemGone s it 0 =
    if itemStored it then itemOff s it
    else (doneRec it 0).elim (itemOff s it) (cqPlace (itemOff s it) it.id) := by
  unfold itemGone
  simp only [if_true, hj]
  cases doneRec it 0 <;> rfl

theorem itemGone_done_cq {s : State} {it : Item} (hj : it.journaled = false) :
    itemGone s it 0 = { itemOff s it with ho := { (itemOff s it).ho with cq := (itemGone s it 0).ho.cq } } := by
  rw [itemGone_done hj]
  split
  · rfl
  · cases doneRec it 0 with
    | none => rfl
    | some r => exact cqPlace_ho _ _ r

/-- An item that has left is found no more. -/
theorem getItem_itemGone_done {s : State} {it : Item} (hj : it.journaled = false) :
    getItem (itemGone s it 0) it.id = none := by
  rw [itemGone_done_cq hj]
  exact getItem_itemOff s it

/-- Its record joins the end of the queue, where no commit has reserved a place for it (R502). -/
theorem cq_itemGone_done {s : State} {it : Item} (hj : it.journaled = false) (hc : it.commit = none)
    (hcq : ∀ x ∈ s.ho.cq, x.item ≠ it.id) : (itemGone s it 0).ho.cq = s.ho.cq ++ (doneRec it 0).toList := by
  rw [itemGone_done hj, if_neg (by simp [itemStored, hc])]
  cases doneRec it 0 with
  | none => exact (List.append_nil _).symm
  | some r =>
    rw [Option.elim_some, cqPlace_of_no_place (s := itemOff s it) r hcq]
    rfl

/-- Whether a completed item that is not journaled leaves at once (R499). -/
def itemLeaves (s : State) (it : Item) : Bool := itemDone s it && !it.journaled && !it.launches.isEmpty

theorem itemClose_of_getItem {s : State} {id : Nat} {it : Item} (h : getItem s id = some it) :
    itemClose s id = if itemLeaves s it then itemGone s it 0 else s := by
  simp only [itemClose, h]
  rfl

/-- An item's close changes the host side and the error side alone. -/
theorem itemClose_same (s : State) (id : Nat) : SameBut [.ho, .er] s (itemClose s id) := by
  unfold itemClose
  split
  · next it _ =>
    split
    · next hl =>
      have hj : it.journaled = false := by
        simp only [Bool.and_eq_true, Bool.not_eq_true'] at hl
        exact hl.1.2
      rw [itemGone_done_cq hj]
      exact same_mk (.refl s) (hho := .inr (by decide)) (her := .inr (by decide))
    · exact .refl s
  · exact .refl s

/-! ### Completion (R99) -/

/-- An item of which one more launch has completed (R99, R446). -/
def itemLess (s : State) (it : Item) : Item := { it with left := it.left - 1, endTick := s.tick }

/-- A completed launch that did not come from the schedule counts off its item (R99). -/
theorem launchReport_of_not_entry {s : State} {l : Launch} {it : Item} (hsrc : ∀ x y z, l.src ≠ .entry x y z)
    (h : getItem s l.item = some it) : launchReport s l = itemClose (putItem s (itemLess s it)) it.id := by
  unfold launchReport
  split
  · next x y z hl => exact absurd hl (hsrc x y z)
  · simp only [h]
    rfl

/-- The state in which a launch that completes has left its slot and has been counted off its item. -/
def launchCounted (s : State) (key : Nat) (l : Launch) (it : Item) : State :=
  putItem (launchOff s key l) (itemLess s it)

theorem itemMore_launchCounted (s : State) (key : Nat) (l : Launch) (it : Item) :
    itemMore (launchCounted s key l it) (itemLess s it) = itemMore s it := rfl

theorem launchCounted_same (s : State) (key : Nat) (l : Launch) (it : Item) :
    SameBut [.core, .ho, .er] s (launchCounted s key l it) :=
  same_mk (.refl s) (hcore := .inr (by decide)) (hho := .inr (by decide))

section
variable {sp : Fin 8} {co : Fin 16} {sl : Fin 4} {l : Launch} {it : Item} {s : State}
  (hl : completeNext s (slotKey sp co sl) = some l) (hsrc : ∀ x y z, l.src ≠ .entry x y z)
  (hit : getItem s l.item = some it)
include hl hsrc hit

/-- The oldest complete launch of a slot leaves it, is counted off its item, and may end it (R99). -/
theorem exec_launchComplete (hrun : running s = true) : exec (.launchComplete sp co sl) s =
    .next (itemClose (launchCounted s (slotKey sp co sl) l it) it.id) := by
  have hready : launchCompleteReady sp co sl s = true := by simp [launchCompleteReady, hl]
  rw [exec_of_ready rfl hrun hready, launchCompleteEffect]
  simp only [hl]
  exact congrArg _ (launchReport_of_not_entry (s := launchOff s (slotKey sp co sl) l) hsrc hit)

end

section
variable {s : State} {key : Nat} {l : Launch} {it : Item} (hit : getItem s it.id = some it)
include hit

theorem getItem_launchCounted : getItem (launchCounted s key l it) it.id = some (itemLess s it) :=
  getItem_putItem (s := launchOff s key l) hit rfl

theorem itemClose_launchCounted : itemClose (launchCounted s key l it) it.id =
    if itemLeaves (launchCounted s key l it) (itemLess s it) then itemGone (launchCounted s key l it) (itemLess s it) 0
    else launchCounted s key l it :=
  itemClose_of_getItem (getItem_launchCounted hit)

/-- The last launch of an item that no firing can join ends the item, where it is not journaled (R99, R546). -/
theorem itemClose_of_last (hleft : it.left ≤ 1) (hj : it.journaled = false) (hne : it.launches ≠ [])
    (hmore : itemMore s it = false) :
    itemClose (launchCounted s key l it) it.id = itemGone (launchCounted s key l it) (itemLess s it) 0 := by
  have hdone : itemDone (launchCounted s key l it) (itemLess s it) = true := by
    have hzero : (itemLess s it).left = 0 := Nat.sub_eq_zero_of_le hleft
    rw [itemDone, itemMore_launchCounted, hmore, hzero]
    rfl
  have hleaves : itemLeaves (launchCounted s key l it) (itemLess s it) = true := by
    rw [itemLeaves, hdone]
    simp [itemLess, hj, hne]
  rw [itemClose_launchCounted hit, if_pos hleaves]

/-- An item with launches left, and a journaled one, stays (R99). -/
theorem itemClose_of_not_last (h : 1 < it.left ∨ it.journaled = true) :
    itemClose (launchCounted s key l it) it.id = launchCounted s key l it := by
  have hleaves : itemLeaves (launchCounted s key l it) (itemLess s it) = false := by
    rcases h with h | h
    · have hpos : it.left - 1 ≠ 0 := by omega
      simp [itemLeaves, itemDone, itemLess, hpos]
    · simp [itemLeaves, itemLess, h]
  rw [itemClose_launchCounted hit, hleaves]
  rfl

end

/-- An item's close leaves the cores. -/
theorem itemClose_core (s : State) (id : Nat) : (itemClose s id).core = s.core :=
  (itemClose_same s id).core.resolve_right (by decide)

/-- Settles O36: each clause runs one event of a launch, by the lemma of that event. -/
theorem launchesReachTheirEngines : Obligations.LaunchesReachTheirEngines := by
  refine ⟨fun sp co ctx d r s hrun hpresent hres hnext hrec htier hroom => ?_,
    fun sp co sl ctx l s hrun hpresent hres hfree hl => ⟨fun hmis hnone hk => ?_, fun b x u hk hread hgood => ?_⟩,
    fun sp co sl e l s hrun hready hcur => ?_, fun sp co sl l it s hrun hl hsrc hit => ?_⟩
  · refine ⟨_, _, exec_launchDeliver_stored hrun hpresent hres hnext hrec htier hroom, getRec_putRec _ _ _ _,
      look_put _ _ _ _, bitAt_recRunnable _ _ _, rfl, mem_waiting_takeDelivery s d, ?_⟩
    exact same_mk (.refl s) (hcore := .inr (by decide)) (hcx := .inr (by decide))
  · obtain ⟨hpart, herr⟩ := headerRead_misaligned (s := s) (key := slotKey sp co sl) hmis (by simpa using hnone)
    have hcode := herr.code
    have haddr := herr.addr
    rw [keySpan_slotKey, keyCore_slotKey, keySlot_slotKey] at hcode haddr
    rw [Nat.mod_eq_of_lt hk] at haddr
    exact ⟨_, exec_launchDeliver_unread hrun hpresent hres hfree hl, hpart, hcode, haddr⟩
  · refine ⟨_, exec_launchDeliver_unread hrun hpresent hres hfree hl, ?_⟩
    rw [headerRead_of_good hk hread hgood]
    exact slotTakes_putPart u _ _
  · refine ⟨_, exec_of_ready rfl hrun hready, ?_⟩
    rw [launchStartEngineEffect_eq hcur]
    exact slotTakes_putPart s _ _
  · have hex := exec_launchComplete hl hsrc hit hrun
    have hid := id_of_getItem hit
    rw [← hid] at hit ⊢
    have hslot := slotTakes_putPart s (slotKey sp co sl) { (getSlot s (slotKey sp co sl)).part with
      launches := (getSlot s (slotKey sp co sl)).part.launches.filter (fun y => y.serial ≠ l.serial) }
    have hkept : ∀ k, getSlot (itemClose (launchCounted s (slotKey sp co sl) l it) it.id) k
        = getSlot (launchOff s (slotKey sp co sl) l) k := getSlot_congr (by rw [itemClose_core]; rfl)
    refine ⟨_, hex, ?_, ?_, fun hleft hj hne hmore => ?_, fun h => ?_, ?_⟩
    · rw [hkept]
      exact hslot.part
    · intro k hk
      rw [hkept]
      exact hslot.others k hk
    · rw [itemClose_of_last hit hleft hj hne hmore]
      exact ⟨getItem_itemGone_done (it := itemLess s it) hj,
        cq_itemGone_done (s := launchCounted s (slotKey sp co sl) l it) (it := itemLess s it) hj⟩
    · rw [itemClose_of_not_last hit h]
      exact ⟨getItem_launchCounted hit, rfl⟩
    · exact (launchCounted_same s _ l it).trans ((itemClose_same _ _).mono (by decide))

end Sys2Proof.Machine
end

section
/-!
SUPPORT. Command streams (R100 to R118, R128 to R133): what a fetch, a decode, a resolution, a speculative read, a completion
and the landing of a signal leave of the queue that they act on, of the other slots and of the registers.
-/
namespace Sys2Proof.Machine

/-! ### Counters of a page -/

theorem regsBut_setF {s t : State} {f : RField} {pg v k : Nat} (h : t.regs = (setF s f pg v k).regs) :
    regsBut [(f.reg, pg, k)] s t := by
  intro r q j hq
  rw [rdR_congr h, rdR_setF_ne s f pg v k r q j (by simpa using hq)]

theorem getF_bumpF (s : State) {f : RField} (pg n k : Nat) (h : f.lo + f.w ≤ 64) :
    getF (bumpF s f pg n k) f pg k = (getF s f pg k + n) % 2 ^ f.w := getF_setF s f pg _ k h

/-- A slot that takes a part after speculative reads have been cancelled: they are counted, and only that count and the slot
differ (R132). -/
theorem SlotTakes.after_specCancel {s t : State} {sp : Fin 8} {co : Fin 16} {sl : Fin 4} {cs : List QCmd} {p : CorePart}
    (h : SlotTakes (specCancel s (slotKey sp co sl) cs) t (slotKey sp co sl) p) :
    (getSlot t (slotKey sp co sl)).part = p
      ∧ getF t fCqSpecCancelledCount (pgCq sp co) = (getF s fCqSpecCancelledCount (pgCq sp co) + (cs.map (·.spec)).sum) % 2 ^ 48
      ∧ regsBut [(.cqSpecCancelled, pgCq sp co, 0)] s t ∧ SameBut [.core, .regs] s t := by
  have hs : specCancel s (slotKey sp co sl) cs = bumpF s fCqSpecCancelledCount (pgCq sp co) (cs.map (·.spec)).sum := by
    rw [specCancel, keySpan_slotKey, keyCore_slotKey]
  rw [hs] at h
  refine ⟨h.part, ?_, regsBut_setF (f := fCqSpecCancelledCount) h.regs, ?_⟩
  · rw [getF_congr h.regs]
    exact getF_bumpF s _ _ 0 (by decide)
  · have hc : SameBut [.core, .regs] s (bumpF s fCqSpecCancelledCount (pgCq sp co) (cs.map (·.spec)).sum) :=
      same_mk (.refl s) (hregs := .inr (by decide))
    exact hc.trans (h.same.mono (by decide))

/-- A slot that takes a part after a speculative read has been counted: of the state that the read left, only that count and
the slot differ (R131). -/
theorem SlotTakes.after_specIssued {v t : State} {pg key : Nat} {p : CorePart}
    (h : SlotTakes (bumpF v fCqSpecIssuedCount pg) t key p) :
    getF t fCqSpecIssuedCount pg = (getF v fCqSpecIssuedCount pg + 1) % 2 ^ 48 ∧ (getSlot t key).part = p
      ∧ (∀ j, j ≠ key → getSlot t j = getSlot v j) ∧ t.core.lmem = v.core.lmem
      ∧ regsBut [(.cqSpecIssued, pg, 0)] v t ∧ SameBut [.core, .regs] v t := by
  refine ⟨?_, h.part, h.others, h.lmem, regsBut_setF (f := fCqSpecIssuedCount) h.regs, ?_⟩
  · rw [getF_congr h.regs]
    exact getF_bumpF v _ 1 0 (by decide)
  · have hc : SameBut [.core, .regs] v (bumpF v fCqSpecIssuedCount pg) := same_mk (.refl v) (hregs := .inr (by decide))
    exact hc.trans (h.same.mono (by decide))

/-! ### Fetch (R100 to R102) -/

section
variable {sp : Fin 8} {co : Fin 16} {sl : Fin 4} {e : Fin 5} {s u : State}

/-- A block that may be fetched joins the buffer from the queue's next command on (R100, R101). -/
theorem fetchBlockEffect_of_read {p : Page} {a : LineRd} {v : State}
    (ht : translate s sp co (5 + e) (slotCtx s (slotKey sp co sl)) (getQ s (slotKey sp co sl) e).fetchPc = (.ok p, u))
    (hp : permits p.pte .fetch = true)
    (ha : lineAccess u (fetchAgent u (slotKey sp co sl) e eFetchProt eFetchPoison eUnsealedRead) p
      (getQ s (slotKey sp co sl) e).fetchPc = (a, v)) : fetchBlockEffect sp co sl e s =
      putQ v (slotKey sp co sl) e { getQ s (slotKey sp co sl) e with
        buf := (getQ s (slotKey sp co sl) e).buf
          ++ ((List.range 4).drop ((getQ s (slotKey sp co sl) e).fetchPc % 128 / 32)).map
            (blockCmds a.data a.poison a.unsealed (128 * ((getQ s (slotKey sp co sl) e).fetchPc / 128))),
        fetchPc := 128 * ((getQ s (slotKey sp co sl) e).fetchPc / 128)
          + (getQ s (slotKey sp co sl) e).fetchPc % 32 + 128 } := by
  have hpc : ∀ va : Nat, va + 32 * (4 - va % 128 / 32) = 128 * (va / 128) + va % 32 + 128 := fun va => by omega
  unfold fetchBlockEffect
  simp only [ht, hp, ha, Bool.not_true, Bool.false_eq_true, if_false, List.length_map, List.length_drop, List.length_range, hpc]

/-- A block without execute permission leaves one command that says so (R102). -/
theorem fetchBlockEffect_of_prot {p : Page}
    (ht : translate s sp co (5 + e) (slotCtx s (slotKey sp co sl)) (getQ s (slotKey sp co sl) e).fetchPc = (.ok p, u))
    (hp : permits p.pte .fetch = false) : fetchBlockEffect sp co sl e s =
      putQ u (slotKey sp co sl) e { getQ s (slotKey sp co sl) e with
        buf := (getQ s (slotKey sp co sl) e).buf ++ [⟨(getQ s (slotKey sp co sl) e).fetchPc, 0, 0, 0, 0, .prot⟩],
        fetchPc := (getQ s (slotKey sp co sl) e).fetchPc + 32 } := by
  unfold fetchBlockEffect
  simp only [ht, hp]
  rfl

/-- A block that does not translate leaves one command that holds the fault (R102). -/
theorem fetchBlockEffect_of_fault {cause level : Nat}
    (ht : translate s sp co (5 + e) (slotCtx s (slotKey sp co sl)) (getQ s (slotKey sp co sl) e).fetchPc
      = (.fault cause level, u)) : fetchBlockEffect sp co sl e s =
      putQ u (slotKey sp co sl) e { getQ s (slotKey sp co sl) e with
        buf := (getQ s (slotKey sp co sl) e).buf
          ++ [⟨(getQ s (slotKey sp co sl) e).fetchPc, 0, 0, 0, 0, .fault cause level⟩],
        fetchPc := (getQ s (slotKey sp co sl) e).fetchPc + 32 } := by
  unfold fetchBlockEffect
  simp only [ht]
  rfl

/-! ### Decode (R106, R126) -/

/-- A queue after its decode: with a credit the held command enters it, and without one it shows CREDIT (R106, R126). -/
def decodedQueue (s : State) (key cno sl e : Nat) (f : Fetched) (rest : List Fetched) (serial : Nat) : Queue :=
  if credFree s cno sl e then { getQ s key e with
    st := if (getQ s key e).st == .credit then .run else (getQ s key e).st, buf := rest,
    cmds := (getQ s key e).cmds ++ [newCmd f (fetchedCode s key e f) (getQ s key e).entry serial] }
  else { getQ s key e with st := if (getQ s key e).st == .run then .credit else (getQ s key e).st }

theorem commandDecodeEffect_eq {f : Fetched} {rest : List Fetched} {l : Launch}
    (hbuf : (getQ s (slotKey sp co sl) e).buf = f :: rest)
    (hl : curLaunch (getSlot s (slotKey sp co sl)).part e = some l) : commandDecodeEffect sp co sl e s =
      putQ s (slotKey sp co sl) e (decodedQueue s (slotKey sp co sl) (coreNo sp co) sl e f rest l.serial) := by
  unfold commandDecodeEffect decodedQueue
  simp only [hbuf, hl]
  split <;> rfl

/-! ### Resolution (R108 to R110, R114, R137, R139) -/

theorem haltAsked_slotKey (s : State) (sp : Fin 8) (co : Fin 16) (sl : Fin 4) (e : Nat) :
    haltAsked s (slotKey sp co sl) e = bitAt (getF s fCqSlotCtrlHalt (pgCq sp co) sl) e := by
  rw [haltAsked, keySpan_slotKey, keyCore_slotKey, keySlot_slotKey]

/-- A held refusal waits until every earlier command of its queue has completed, unless HALT is set (R137, R139). -/
theorem resolveNext_of_waiting {c : QCmd} {key e : Nat} (hc : atResolution (getQ s key e) = some c) (hr : c.refusal ≠ 0)
    (hfront : atFront (getQ s key e) c = false) (hhalt : haltAsked s key e = false) : resolveNext s key e = none := by
  simp [resolveNext, hc, hr, hfront, hhalt]

section
variable {c : QCmd} (hnext : resolveNext s (slotKey sp co sl) e = some c)
include hnext

theorem exec_commandResolve (hrun : running s = true) :
    exec (.commandResolve sp co sl e) s = .next (commandResolveEffect sp co sl e s) := by
  refine exec_of_ready rfl hrun ?_
  rw [commandResolveReady, hnext]
  rfl

/-- At HALT the queue stops, and its speculative reads are cancelled (R139). -/
theorem commandResolveEffect_of_halt (hhalt : haltAsked s (slotKey sp co sl) e = true) : commandResolveEffect sp co sl e s =
    putQ (specCancel s (slotKey sp co sl) (getQ s (slotKey sp co sl) e).cmds) (slotKey sp co sl) e
      { getQ s (slotKey sp co sl) e with
        st := .haltReq, cmds := (getQ s (slotKey sp co sl) e).cmds.map (fun x => { x with spec := 0 }) } := by
  unfold commandResolveEffect
  simp only [hnext, hhalt, if_true]

variable (hrunning : haltAsked s (slotKey sp co sl) e = false)
include hrunning

/-- A held refusal halts the queue (R137). -/
theorem commandResolveEffect_of_refusal (hr : c.refusal ≠ 0) : commandResolveEffect sp co sl e s =
    haltQueue s (slotKey sp co sl) e c.refusal c.launch c.pc c.pc := by
  unfold commandResolveEffect
  simp only [hnext, hrunning, Bool.false_eq_true, if_false]
  exact if_pos hr

/-- A command whose predicate holds issues (R109). -/
theorem commandResolveEffect_of_pred (hr : c.refusal = 0)
    (hp : cmdPred (getSlot s (slotKey sp co sl)).part (cmdWords c) = true) : commandResolveEffect sp co sl e s =
    resolved s (slotKey sp co sl) e { c with phase := .issued, spec := 0 } := by
  unfold commandResolveEffect
  simp only [hnext, hrunning, hr, hp, Bool.false_eq_true, if_false, if_true, ne_eq, not_true]

/-- A command whose predicate does not hold is skipped (R109, R114). -/
theorem commandResolveEffect_of_skip (hr : c.refusal = 0)
    (hp : cmdPred (getSlot s (slotKey sp co sl)).part (cmdWords c) = false)
    (hn : nominalFromRecord (wOp (cmdWords c)) = false) : commandResolveEffect sp co sl e s =
    skipCmd s (slotKey sp co sl) e c c.nominal := by
  unfold commandResolveEffect
  simp only [hnext, hrunning, hr, hp, hn, Bool.false_eq_true, if_false, ne_eq, not_true, Bool.and_false]

end

end

/-! ### Speculative reads (R128, R133) -/

theorem inside_address_space {lo hi : Int} (hlo : 0 ≤ lo) (hhi : hi ≤ 2 ^ 64) :
    (decide (lo < 0) || decide (hi > 2 ^ 64)) = false := by
  rw [Bool.or_eq_false_iff, decide_eq_false_iff_not, decide_eq_false_iff_not]
  exact ⟨Int.not_lt.mpr hlo, Int.not_lt.mpr hhi⟩

section
variable {sp : Fin 8} {co : Fin 16} {sl : Fin 4} {idx k k1 : Nat} {c : QCmd} {lo hi : Int} {s u : State}
  (hread : specRead sp co sl idx k s = some (c, k1, lo, hi))
include hread

theorem exec_speculativeRead (hrun : running s = true) :
    exec (.speculativeRead sp co sl idx k) s = .next (speculativeReadEffect sp co sl idx k s) := by
  refine exec_of_ready rfl hrun ?_
  rw [speculativeReadReady, hread]
  rfl

/-- A read that leaves the address space stops its load's speculation. -/
theorem speculativeReadEffect_of_outside (h : lo < 0 ∨ 2 ^ 64 < hi) : speculativeReadEffect sp co sl idx k s =
    putCmd s (slotKey sp co sl) 0 { c with specStop := true } := by
  unfold speculativeReadEffect
  simp only [hread]
  exact if_pos (by simpa using h)

variable (hlo : 0 ≤ lo) (hhi : hi ≤ 2 ^ 64)
include hlo hhi

/-- So does one that does not translate. -/
theorem speculativeReadEffect_of_fault {cause level : Nat}
    (ht : translate s sp co 0 (slotCtx s (slotKey sp co sl)) lo.toNat = (.fault cause level, u)) :
    speculativeReadEffect sp co sl idx k s = putCmd u (slotKey sp co sl) 0 { c with specStop := true } := by
  unfold speculativeReadEffect
  simp only [hread, ht, inside_address_space hlo hhi, Bool.false_eq_true, if_false]

variable {p : Page} (ht : translate s sp co 0 (slotCtx s (slotKey sp co sl)) lo.toNat = (.ok p, u))
include ht

/-- And one without permission, or of other memory. -/
theorem speculativeReadEffect_of_refused (hp : permits p.pte .read = false ∨ pteKind p.pte ≠ 0) :
    speculativeReadEffect sp co sl idx k s = putCmd u (slotKey sp co sl) 0 { c with specStop := true } := by
  unfold speculativeReadEffect
  simp only [hread, ht, inside_address_space hlo hhi, Bool.false_eq_true, if_false]
  exact if_pos (by simpa using hp)

/-- A read of normal memory is one transaction, counted, and the next of its load in order (R131). -/
theorem speculativeReadEffect_of_lines {b : Bool} {v : State} (hp : permits p.pte .read = true) (hkind : pteKind p.pte = 0)
    (hlines : specLines (slotKey sp co sl) c.pc p lo.toNat (hi - lo).toNat u = (b, v)) :
    speculativeReadEffect sp co sl idx k s = putCmd (bumpF v fCqSpecIssuedCount (pgCq sp co)) (slotKey sp co sl) 0
      { c with spec := c.spec + 1, specNext := k1, specStop := b } := by
  unfold speculativeReadEffect
  simp only [hread, ht, inside_address_space hlo hhi, hp, hkind, hlines, Bool.false_eq_true, if_false]
  rfl

end

/-! ### Completion (R88, R113) -/

theorem numevAdd_cx (s : State) (span ctx : Nat) (e : NumEv) :
    numevAdd s span ctx e = { s with cx := (numevAdd s span ctx e).cx } := by
  unfold numevAdd
  dsimp only
  split <;> rfl

theorem cmdCount_cx (s : State) (key : Nat) (c : QCmd) : cmdCount s key c = { s with cx := (cmdCount s key c).cx } := by
  unfold cmdCount
  dsimp only
  rw [dmaevAdd_cx, numevAdd_cx]

/-- A command's counts added to its context's, unless it was skipped (R88). -/
def cmdCounted (s : State) (key : Nat) (c : QCmd) : State := if c.skipped then s else cmdCount s key c

theorem cmdCounted_cx (s : State) (key : Nat) (c : QCmd) :
    cmdCounted s key c = { s with cx := (cmdCounted s key c).cx } := by
  unfold cmdCounted
  split
  · rfl
  · exact cmdCount_cx s key c

/-- A queue that its oldest command has left; an accumulator tile stays while another command holds it (R113, R150). -/
def completedQueue (q : Queue) (rest : List QCmd) : Queue :=
  { q with cmds := rest, tile := if rest.any tileHolder then q.tile else none }

/-- The state in which the oldest command of a queue has left it with its counts. -/
def cmdLeft (s : State) (key e : Nat) (c : QCmd) (rest : List QCmd) : State :=
  putQ (cmdCounted s key c) key e (completedQueue (getQ s key e) rest)

theorem slotTakes_cmdLeft (s : State) (key e : Nat) (c : QCmd) (rest : List QCmd) :
    SlotTakes (cmdCounted s key c) (cmdLeft s key e c rest) key
      (partSetQueue (getSlot s key).part e (completedQueue (getQ s key e) rest)) := by
  have h := slotTakes_putQ (cmdCounted s key c) key e (completedQueue (getQ s key e) rest)
  rwa [getSlot_congr (s := s) (by rw [cmdCounted_cx])] at h

theorem cmdLeft_ho (s : State) (key e : Nat) (c : QCmd) (rest : List QCmd) : (cmdLeft s key e c rest).ho = s.ho := by
  rw [(slotTakes_cmdLeft s key e c rest).rest, cmdCounted_cx]

theorem cmdLeft_signals (s : State) (key e : Nat) (c : QCmd) (rest : List QCmd) :
    (cmdLeft s key e c rest).core.signals = s.core.signals := by
  rw [(slotTakes_cmdLeft s key e c rest).rest, cmdCounted_cx]

theorem slotCtx_cmdLeft (s : State) (key e : Nat) (c : QCmd) (rest : List QCmd) :
    slotCtx (cmdLeft s key e c rest) key = slotCtx s key := by
  rw [slotCtx, (slotTakes_cmdLeft s key e c rest).slot, getSlot_congr (s := s) (by rw [cmdCounted_cx])]
  rfl

theorem cmdItem_cmdLeft (s : State) (key e : Nat) (c : QCmd) (rest : List QCmd) :
    cmdItem (cmdLeft s key e c rest) key c = cmdItem s key c := by
  have hl : (getSlot (cmdLeft s key e c rest) key).part.launches = (getSlot s key).part.launches := by
    rw [(slotTakes_cmdLeft s key e c rest).part]
    rfl
  have hi (id : Nat) : getItem (cmdLeft s key e c rest) id = getItem s id := by
    rw [getItem, getItem, cmdLeft_ho]
  simp only [cmdItem, hl, hi]

theorem cmdSignal_cmdLeft (s : State) (key e : Nat) (c : QCmd) (rest : List QCmd) (item : Nat) :
    cmdSignal (cmdLeft s key e c rest) key e c item = cmdSignal s key e c item := by
  rw [cmdSignal, slotCtx_cmdLeft]
  rfl

section
variable {sp : Fin 8} {co : Fin 16} {sl : Fin 4} {e : Fin 5} {c : QCmd} {rest : List QCmd} {s : State}
  (hcmds : (getQ s (slotKey sp co sl) e).cmds = c :: rest) (hitem : cmdItem s (slotKey sp co sl) c = none)
include hcmds

theorem exec_commandComplete (hrun : running s = true) (hphase : c.phase = .executed) :
    exec (.commandComplete sp co sl e) s = .next (commandCompleteEffect sp co sl e s) := by
  refine exec_of_ready rfl hrun ?_
  simp only [commandCompleteReady, hcmds, hphase]
  rfl

include hitem

/-- A command of no item completes: it leaves its queue with its counts, and its signal is on its way (R113). -/
theorem commandCompleteEffect_eq : commandCompleteEffect sp co sl e s =
    if cmdSignals c then sendSignal (cmdLeft s (slotKey sp co sl) e c rest) (cmdSignal s (slotKey sp co sl) e c 0)
    else cmdLeft s (slotKey sp co sl) e c rest := by
  have hover : signalOver s (slotKey sp co sl) e c = false := by rw [signalOver, hitem]
  have hperf : performSignal (cmdLeft s (slotKey sp co sl) e c rest) (slotKey sp co sl) e c
      = sendSignal (cmdLeft s (slotKey sp co sl) e c rest) (cmdSignal s (slotKey sp co sl) e c 0) := by
    rw [performSignal, cmdItem_cmdLeft, hitem]
    simp only [cmdSignal_cmdLeft]
  unfold commandCompleteEffect
  simp only [hcmds, hover, Bool.and_false, Bool.false_eq_true, if_false, ← hperf]
  rfl

end

/-- The completion's frame: the queue, the counts and the signals on their way (R88, R113). -/
theorem cmdLeft_sent (s : State) (key e : Nat) (c : QCmd) (rest : List QCmd) (g : List Signal) {t : State}
    (ht : t = { cmdLeft s key e c rest with core := { (cmdLeft s key e c rest).core with signals := s.core.signals ++ g } }) :
    (getSlot t key).part = partSetQueue (getSlot s key).part e (completedQueue (getQ s key e) rest)
      ∧ t.core.signals = s.core.signals ++ g
      ∧ (c.skipped = true → t.cx = s.cx) ∧ (c.skipped = false → t.cx = (cmdCount s key c).cx)
      ∧ SameBut [.core, .cx] s t ∧ t.core.lmem = s.core.lmem := by
  subst ht
  have h := slotTakes_cmdLeft s key e c rest
  have hcx : (cmdLeft s key e c rest).cx = (cmdCounted s key c).cx := by rw [h.rest]
  have hsame : SameBut [.core, .cx] s (cmdLeft s key e c rest) := by
    have hc : SameBut [.core, .cx] s (cmdCounted s key c) := by
      rw [cmdCounted_cx]
      exact same_mk (.refl s) (hcx := .inr (by decide))
    exact hc.trans (h.same.mono (by decide))
  refine ⟨h.part, rfl, fun hs => ?_, fun hs => ?_, same_mk hsame (hcore := .inr (by decide)), ?_⟩
  · exact hcx.trans (by simp [cmdCounted, hs])
  · exact hcx.trans (by simp [cmdCounted, hs])
  · exact h.lmem.trans (by rw [cmdCounted_cx])

/-! ### Signals that land (R118) -/

theorem part_getSlot_putSlot (s : State) (key : Nat) (x : Slot) : (getSlot (putSlot s key x) key).part = x.part := by
  rw [getSlot, putSlot]
  simp only [look_put]

theorem part_scopeRecord (s : State) (x : Slot) (core : Nat) (g : Signal) : (scopeRecord s x core g).part = x.part := by
  unfold scopeRecord
  split <;> rfl

theorem coreAliased_of_present {s : State} {span core : Nat} (h : coreAbsent s span core = false) :
    coreAliased s span core = core := by
  simp [coreAliased, h]

/-- An addition to a present core where its context is resident goes to the slot's tally (R118). -/
theorem landSignal_of_resident {s : State} {g : Signal} {sl : Nat} (hpresent : coreAbsent s g.span g.core = false)
    (hres : residentSlot s g.span g.core g.ctx = some sl) : landSignal s g =
      putSlot s (slotKey g.span g.core sl) (scopeRecord s { getSlot s (slotKey g.span g.core sl) with
        part := tallyAdd (getSlot s (slotKey g.span g.core sl)).part g.tally g.add } g.core g) := by
  simp [landSignal, coreAliased_of_present hpresent, hpresent, hres]

theorem tallyOf_tallyAdd (p : CorePart) (t n : Nat) : tallyOf (tallyAdd p t n) t = (tallyOf p t + n) % 2 ^ 48 :=
  look_put _ _ _ _

theorem tallyOf_tallyAdd_ne (p : CorePart) {t j : Nat} (n : Nat) (h : j ≠ t) : tallyOf (tallyAdd p t n) j = tallyOf p j :=
  look_put_ne _ _ _ h

/-- An addition that arrives leaves those on their way and changes its tally alone (R118). -/
theorem signalArrivalEffect_of_resident {i sl : Nat} {g : Signal} {s : State} (hg : s.core.signals[i]? = some g)
    (hpresent : coreAbsent s g.span g.core = false) (hres : residentSlot s g.span g.core g.ctx = some sl) :
    ∃ x : Slot, x.part = tallyAdd (getSlot s (slotKey g.span g.core sl)).part g.tally g.add
      ∧ signalArrivalEffect i s = putSlot { s with core := { s.core with signals := s.core.signals.eraseIdx i } }
          (slotKey g.span g.core sl) x := by
  have harr : signalArrivalEffect i s = landSignal { s with core := { s.core with signals := s.core.signals.eraseIdx i } } g := by
    rw [signalArrivalEffect, hg]
  exact ⟨_, part_scopeRecord _ _ _ _, harr.trans (landSignal_of_resident hpresent hres)⟩

/-! ### O38 -/

/-- Settles O38: each step of a stream is its effect's one case, and what it leaves unchanged is the frame of the slot that it
writes. -/
theorem streamsFetchDecodeResolveComplete : Obligations.StreamsFetchDecodeResolveComplete := by
  unfold Obligations.StreamsFetchDecodeResolveComplete
  refine ⟨fun sp co sl e s hrun hready => ⟨?_, ?_, ?_⟩, ?_, fun sp co sl e c s hrun hnext => ⟨?_, ?_, ?_, ?_⟩, ?_,
    fun sp co sl idx k k1 c lo hi s hrun hread => ⟨?_, ?_, ?_⟩, ?_, ?_⟩
  -- Fetch (R100 to R102).
  · intro p u a v ht hp ha
    refine ⟨_, exec_of_ready rfl hrun hready, ?_⟩
    rw [fetchBlockEffect_of_read ht hp ha]
    exact slotTakes_putQ _ _ _ _
  · intro p u ht hp
    refine ⟨_, exec_of_ready rfl hrun hready, ?_⟩
    rw [fetchBlockEffect_of_prot ht hp]
    exact slotTakes_putQ _ _ _ _
  · intro cause level u ht
    refine ⟨_, exec_of_ready rfl hrun hready, ?_⟩
    rw [fetchBlockEffect_of_fault ht]
    exact slotTakes_putQ _ _ _ _
  -- Decode (R106).
  · intro sp co sl e f rest l s hrun hready hbuf hl
    refine ⟨_, exec_of_ready rfl hrun hready, ?_⟩
    rw [commandDecodeEffect_eq hbuf hl]
    exact slotTakes_putQ _ _ _ _
  -- Resolution (R108 to R110, R114, R137, R139).
  · intro hhalt
    refine ⟨_, exec_commandResolve hnext hrun, ?_⟩
    rw [commandResolveEffect_of_halt hnext (by rwa [haltAsked_slotKey])]
    obtain ⟨hpart, -, hregs, hsame⟩ := (slotTakes_putQ _ (slotKey sp co sl) e _).after_specCancel
    exact ⟨hpart, hregs, hsame⟩
  · intro hhalt hr hcode
    refine ⟨_, exec_commandResolve hnext hrun, ?_⟩
    rw [commandResolveEffect_of_refusal hnext (by rwa [haltAsked_slotKey]) hr]
    exact queueHalted_haltQueue s _ _ _ (by omega) hcode
  · intro hhalt hr hp
    refine ⟨_, exec_commandResolve hnext hrun, ?_⟩
    rw [commandResolveEffect_of_pred hnext (by rwa [haltAsked_slotKey]) hr hp]
    exact slotTakes_putQ _ _ _ _
  · intro hhalt hr hp hn
    refine ⟨_, exec_commandResolve hnext hrun, ?_⟩
    rw [commandResolveEffect_of_skip hnext (by rwa [haltAsked_slotKey]) hr hp hn]
    exact (slotTakes_putQ _ (slotKey sp co sl) e _).after_specCancel (cs := [c])
  · intro sp co sl e c s hc hr hfront hhalt
    refine exec_of_not_ready rfl ?_
    rw [commandResolveReady, resolveNext_of_waiting hc hr hfront (by rwa [haltAsked_slotKey])]
    rfl
  -- Speculative reads (R128, R131, R133).
  · intro hout
    refine ⟨_, exec_speculativeRead hread hrun, ?_⟩
    rw [speculativeReadEffect_of_outside hread hout]
    exact slotTakes_putCmd _ _ _ _
  · intro cause level u hlo hhi ht
    refine ⟨_, exec_speculativeRead hread hrun, ?_⟩
    rw [speculativeReadEffect_of_fault hread hlo hhi ht]
    exact slotTakes_putCmd _ _ _ _
  · intro p u b v hlo hhi ht
    refine ⟨fun hp => ⟨_, exec_speculativeRead hread hrun, ?_⟩,
      fun hp hkind hlines => ⟨_, exec_speculativeRead hread hrun, ?_⟩⟩
    · rw [speculativeReadEffect_of_refused hread hlo hhi ht hp]
      exact slotTakes_putCmd _ _ _ _
    · rw [speculativeReadEffect_of_lines hread hlo hhi ht hp hkind hlines]
      exact (slotTakes_putCmd _ (slotKey sp co sl) 0 _).after_specIssued
  -- Completion (R113).
  · intro sp co sl e c rest s hrun hcmds hphase hitem
    refine ⟨_, exec_commandComplete hcmds hrun hphase, ?_⟩
    rw [commandCompleteEffect_eq hcmds hitem]
    refine cmdLeft_sent s (slotKey sp co sl) e c rest _ ?_
    split
    · rw [sendSignal, cmdLeft_signals]
    · rw [List.append_nil, ← cmdLeft_signals s (slotKey sp co sl) e c rest]
  -- Arrival of a signal (R118).
  · intro i sl g s hrun hready hg hpresent hres
    obtain ⟨x, hx, heff⟩ := signalArrivalEffect_of_resident hg hpresent hres
    refine ⟨_, exec_of_ready rfl hrun hready, ?_⟩
    rw [heff, part_getSlot_putSlot, hx]
    refine ⟨rfl, tallyOf_tallyAdd _ _ _, fun n hn => tallyOf_tallyAdd_ne _ _ hn, fun k hk => ?_, ?_, rfl⟩
    · exact (getSlot_putSlot_ne _ _ hk).trans (getSlot_congr rfl k)
    · exact same_mk (.refl s) (hcore := .inr (by decide))

end Sys2Proof.Machine
end

section
/-!
SUPPORT. The vector engine (04_matrix_and_vector_engines.md): the state at which the statement about it fails, and what the
model does there.
-/
namespace Sys2Proof.Machine

/-! ### An issued `vx.fill` whose D names the reserved scale mode -/

/-- A `vx.fill` of one FP32 element with 0, with D at 192 under scale mode 3. -/
def fillModeThree : QCmd :=
  ⟨256, 0x68, 2 ^ 34 * 3, 1 + 2 ^ 16 + 2 ^ 46, 2 ^ 48 * 3, 0, .issued, false, 0, 0, 0, 0, 0, 0, false, false, 0, 0, 0, 0, 0,
    0, 0, false⟩

/-- `modeThreeIssued` with that command issued to the vector engine in place of its `mx.mma`. -/
def fillModeThreeIssued : State :=
  { modeThreeIssued with core := { modeThreeIssued.core with
      slots := [(0, { emptySlot with
        ctx := some 1, part := partSetQueue newPart 2 { idleQueue with st := .run, cmds := [fillModeThree] } })] } }

/-- The command meets what the statement asks of its words, its operands and its window. -/
theorem fillModeThreeIssued_meets_hypotheses : running fillModeThreeIssued = true
    ∧ headOp fillModeThreeIssued (slotKey 0 0 0) 2 0x68 = some fillModeThree
    ∧ vxTsCode fillModeThreeIssued (slotKey 0 0 0) (cmdWords fillModeThree) = 0
    ∧ vxPoisoned fillModeThreeIssued (slotKey 0 0 0) (cmdWords fillModeThree) = false
    ∧ fieldsOk (cmdWords fillModeThree) (windowBytes fillModeThreeIssued (slotKey 0 0 0)) = true
    ∧ geometryOk (cmdWords fillModeThree) (windowBytes fillModeThreeIssued (slotKey 0 0 0)) = true := by
  decide +kernel

/-- `vx.fill` is one of the commands that give values. -/
theorem vxFill_mem_vxGives (sp : Fin 8) (co : Fin 16) (sl : Fin 4) :
    (.vxFill sp co sl, 0x68, fun _ _ w => vxRowsBy w (fun _ => List.replicate (vxCols w) (vxFillVal w)))
      ∈ vxGives sp co sl := by
  simp [vxGives]

/-- Decode refuses such a command with FMT_RESERVED (R106). -/
theorem fmtsCheck_fillModeThree : fmtsCheck (cmdWords fillModeThree) = eFmtReserved := by decide

theorem exec_vxFill_modeThree :
    exec (.vxFill 0 0 0) fillModeThreeIssued = .next (vxFillEffect 0 0 0 fillModeThreeIssued) := rfl

/-- D is the four bytes from 192; under mode 3 its blocks, and so its scale plane, have no length. -/
theorem outside_fillModeThree : ∀ r ∈ matRanges (vxD (cmdWords fillModeThree)),
    256 < lmCell fillModeThreeIssued (slotKey 0 0 0) r.1
      ∨ lmCell fillModeThreeIssued (slotKey 0 0 0) r.1 + r.2 ≤ 256 := by
  decide +kernel

/-- The command cuts its row into blocks of no elements, and writes the scale byte of one over the byte behind D. -/
theorem byte_behind_fillModeThree : cellGet fillModeThreeIssued.core.lmem 256 = 1
    ∧ cellGet (vxFillEffect 0 0 0 fillModeThreeIssued).core.lmem 256 = 0 := by
  decide +kernel

/-- Refutes O42: as for O41, the fields and the geometry of a command say nothing of its scale modes, and an issued `vx.fill`
whose D has the reserved one writes a byte outside D. No hypothesis keeps out a command that decode refuses. -/
theorem not_vectorCommandsWriteD : ¬ Obligations.VectorCommandsWriteD := by
  unfold Obligations.VectorCommandsWriteD
  rintro ⟨hgives, -⟩
  obtain ⟨hrun, hhead, hscale, hpoison, hfields, hgeometry⟩ := fillModeThreeIssued_meets_hypotheses
  obtain ⟨t, ht, hlocal, -⟩ := hgives 0 0 0 fillModeThree fillModeThreeIssued _ _ _ hrun (vxFill_mem_vxGives 0 0 0) hhead
    hscale hpoison
  cases exec_vxFill_modeThree.symm.trans ht
  have hkept : cellGet (vxFillEffect 0 0 0 fillModeThreeIssued).core.lmem 256 = cellGet fillModeThreeIssued.core.lmem 256 :=
    hlocal.bytes hfields hgeometry 256 outside_fillModeThree
  obtain ⟨hbefore, hafter⟩ := byte_behind_fillModeThree
  rw [hbefore, hafter] at hkept
  exact absurd hkept (by decide)

end Sys2Proof.Machine
end

section
/-!
SUPPORT. Accesses at the points of coherence (R216, R228, R232, R321, R530): what they leave alone, one lemma per operation,
each an equation of `cacheView`; and that a translation leaves the cores and host memory.
-/
namespace Sys2Proof.Machine

/-- What the accesses at the points of coherence leave alone: everything but the registers, the errors, and of memory the
bytes, the poison, the symbol errors and the controllers; and among the registers the counts of write-backs. -/
structure CacheView where
  rest : State
  backs : Nat → Nat → Nat

/-- The part of a state that those accesses leave alone. -/
def cacheView (s : State) : CacheView where
  rest := { s with regs := [], er := ErrSt.reset, memo := { s.memo with mem := [], poison := [], errs := [], pccs := [] } }
  backs := rdR s .tcWriteback

theorem tc_of_cacheView {s t : State} (h : cacheView t = cacheView s) : t.memo.tc = s.memo.tc :=
  congrArg (fun v => v.rest.memo.tc) h

theorem host_of_cacheView {s t : State} (h : cacheView t = cacheView s) : t.memo.host = s.memo.host :=
  congrArg (fun v => v.rest.memo.host) h

theorem core_of_cacheView {s t : State} (h : cacheView t = cacheView s) : t.core = s.core :=
  congrArg (fun v => v.rest.core) h

theorem cx_of_cacheView {s t : State} (h : cacheView t = cacheView s) : t.cx = s.cx := congrArg (fun v => v.rest.cx) h

theorem writebacks_of_cacheView {s t : State} (h : cacheView t = cacheView s) (pg k : Nat) :
    getF t fTcWritebackCount pg k = getF s fTcWritebackCount pg k := by
  have hb : rdR t .tcWriteback = rdR s .tcWriteback := congrArg CacheView.backs h
  unfold getF
  rw [show fTcWritebackCount.reg = .tcWriteback from rfl, hb]

theorem cacheView_foldl {α : Type} {g : State → α → State} (hg : ∀ t x, cacheView (g t x) = cacheView t) (l : List α)
    (s : State) : cacheView (l.foldl g s) = cacheView s := by
  induction l generalizing s with
  | nil => rfl
  | cons x r ih => exact (ih _).trans (hg s x)

/-! ### Registers and the error log -/

@[simp] theorem cacheView_setF (s : State) (f : RField) (pg v k : Nat) (h : f.reg ≠ .tcWriteback) :
    cacheView (setF s f pg v k) = cacheView s := by
  have hr : rdR (setF s f pg v k) .tcWriteback = rdR s .tcWriteback := by
    funext q j
    exact rdR_setF_ne s f pg v k _ q j (fun e => h (congrArg Prod.fst e).symm)
  unfold cacheView
  rw [hr]
  rfl

@[simp] theorem cacheView_setB (s : State) (f : RField) (pg : Nat) (b : Bool) (k : Nat) (h : f.reg ≠ .tcWriteback) :
    cacheView (setB s f pg b k) = cacheView s := cacheView_setF s f pg _ k h

@[simp] theorem cacheView_bumpSat (s : State) (f : RField) (pg n k : Nat) (h : f.reg ≠ .tcWriteback) :
    cacheView (bumpSat s f pg n k) = cacheView s := cacheView_setF s f pg _ k h

@[simp] theorem cacheView_irqSrc (s : State) (pg bit : Nat) : cacheView (irqSrc s pg bit) = cacheView s :=
  cacheView_setF s fBlkIrqPendSrc pg _ _ (by decide)

/-- The errors do not matter. -/
theorem cacheView_er (s : State) (er : ErrSt) : cacheView { s with er := er } = cacheView s := rfl

@[simp] theorem cacheView_elogAdd (s : State) (e : ElogEntry) : cacheView (elogAdd s e) = cacheView s := by
  unfold elogAdd
  extract_lets seq nested e' s1
  have h1 : cacheView s1 = cacheView s := by simp (disch := decide) [s1]
  repeat' split
  · exact h1
  · exact h1
  · simp (disch := decide)

@[simp] theorem cacheView_bucketEvent (s : State) (span cls idx bank addr : Nat) :
    cacheView (bucketEvent s span cls idx bank addr) = cacheView s := by
  unfold bucketEvent
  dsimp only
  split
  · rw [cacheView_irqSrc, cacheView_elogAdd, cacheView_er]
  · rfl

/-! ### Columns -/

@[simp] theorem cacheView_putPcc (s : State) (n : Nat) (p : Pcc) : cacheView (putPcc s n p) = cacheView s := rfl

@[simp] theorem cacheView_setPoison (s : State) (col : Nat) (p : Bool) : cacheView (setPoison s col p) = cacheView s := rfl

@[simp] theorem cacheView_setErrs (s : State) (col : Nat) (e : List (Nat × Nat)) :
    cacheView (setErrs s col e) = cacheView s := rfl

@[simp] theorem cacheView_flipApply (s : State) (cell : Nat) (path : WPath) :
    cacheView (flipApply s cell path) = cacheView s := by
  have h1 : cacheView (setB s fSerrFlipArm (pgSerr (cellSpan cell)) false) = cacheView s := cacheView_setB s _ _ _ _ (by decide)
  unfold flipApply
  simp only [apply_ite cacheView, cacheView_setPoison, cacheView_setErrs, h1, ite_self]

@[simp] theorem cacheView_colSeal (s : State) (cell : Nat) (data : List Byte) (pois : Bool) :
    cacheView (colSeal s cell data pois) = cacheView s := by
  unfold colSeal
  cases pois <;> rfl

@[simp] theorem cacheView_logUe (s : State) (cell cls sym : Nat) : cacheView (logUe s cell cls sym) = cacheView s := by
  unfold logUe
  dsimp only
  repeat' split
  · rfl
  · simp [cacheView_er]
  · simp

@[simp] theorem cacheView_colRead (s : State) (cell : Nat) : cacheView (colRead s cell).2.2 = cacheView s := by
  unfold colRead
  dsimp only
  repeat' split
  all_goals simp

@[simp] theorem cacheView_colMerge (s : State) (col : Nat) (new : List Byte) (mask : Nat) :
    cacheView (colMerge s col new mask) = cacheView s := by
  unfold colMerge
  dsimp only
  repeat' split
  all_goals simp

@[simp] theorem cacheView_colWrite (s : State) (cell : Nat) (data : List Byte) :
    cacheView (colWrite s cell data) = cacheView s := cacheView_colMerge s _ _ _

@[simp] theorem cacheView_ownAccess (s : State) (kind : ReplayKind) (cell : Nat) :
    cacheView (ownAccess s kind cell) = cacheView s := by
  unfold ownAccess
  dsimp only
  split <;> rfl

@[simp] theorem cacheView_lineCols (s : State) (line k : Nat) : cacheView (lineCols s line k).2.2 = cacheView s := by
  induction k with
  | zero => rfl
  | succ k ih =>
    unfold lineCols
    dsimp only
    split <;> simp [ih]

/-! ### Reducers and staged updates -/

@[simp] theorem cacheView_redCols (l : RedLine) (k : Nat) (s : State) : cacheView (redCols l k s) = cacheView s := by
  induction k generalizing s with
  | zero => rfl
  | succ k ih =>
    unfold redCols
    dsimp only
    repeat' split
    all_goals simp [ih]

@[simp] theorem cacheView_redWriteBack (s : State) (n line : Nat) : cacheView (redWriteBack s n line) = cacheView s := by
  unfold redWriteBack
  dsimp only
  repeat' split
  all_goals simp

@[simp] theorem cacheView_redFetch (s : State) (n line : Nat) : cacheView (redFetch s n line) = cacheView s := by
  unfold redFetch
  dsimp only
  repeat' split
  all_goals simp

@[simp] theorem cacheView_redUpd (s : State) (n line : Nat) (f : RedLine → RedLine) :
    cacheView (redUpd s n line f) = cacheView s := rfl

@[simp] theorem cacheView_sealAt (s : State) (cell : Nat) : cacheView (sealAt s cell) = cacheView s := rfl

@[simp] theorem cacheView_redPut (s : State) (n line off : Nat) (bs : List Byte) :
    cacheView (redPut s n line off bs) = cacheView s := cacheView_redUpd s _ _ _

@[simp] theorem cacheView_redPoison (s : State) (cell : Nat) : cacheView (redPoison s cell) = cacheView s := by
  unfold redPoison
  dsimp only
  split <;> simp

@[simp] theorem cacheView_redPoisoned (s : State) (cell ctx : Nat) : cacheView (redPoisoned s cell ctx) = cacheView s :=
  cacheView_elogAdd s _

@[simp] theorem cacheView_redDo (s : State) (cell hi : Nat) (op : RedOp) (b : Num) (ctx : Nat) :
    cacheView (redDo s cell hi op b ctx) = cacheView s := by
  unfold redDo
  dsimp only
  repeat' split
  all_goals simp [redLines]

@[simp] theorem cacheView_stagedDo (s : State) (e : Staged) : cacheView (stagedDo s e) = cacheView s := by
  unfold stagedDo
  split <;> simp

@[simp] theorem cacheView_settleLine (s : State) (line : Nat) : cacheView (settleLine s line) = cacheView s := by
  unfold settleLine
  dsimp only
  split
  · rfl
  · exact cacheView_foldl cacheView_stagedDo _ _

/-! ### Lines and requests -/

@[simp] theorem cacheView_pocPoison (s : State) (cell : Nat) : cacheView (pocPoison s cell) = cacheView s := by
  unfold pocPoison
  dsimp only
  split <;> simp

@[simp] theorem cacheView_pocRead (s : State) (line : Nat) : cacheView (pocRead s line).2 = cacheView s := by
  unfold pocRead
  dsimp only
  split <;> simp (disch := decide)

@[simp] theorem cacheView_reqAdd (s : State) (n : Nat) (r : PReq) : cacheView (reqAdd s n r) = cacheView s := by
  unfold reqAdd
  dsimp only
  repeat' split
  all_goals simp (disch := decide)

@[simp] theorem cacheView_pierAdd (s : State) (cell : Nat) (isWrite express charged : Bool) (part cols : Nat) :
    cacheView (pierAdd s cell isWrite express charged part cols) = cacheView s := cacheView_reqAdd s _ _

/-! ### Translation (R394 to R402) -/

/-- The cores and host memory of a state. -/
def coreHost (s : State) : CoreSt × List (HostAddr × Byte) := (s.core, s.memo.host)

theorem coreHost_of_cacheView {s t : State} (h : cacheView t = cacheView s) : coreHost t = coreHost s :=
  Prod.ext (core_of_cacheView h) (host_of_cacheView h)

@[simp] theorem coreHost_bumpF (s : State) (f : RField) (pg n k : Nat) : coreHost (bumpF s f pg n k) = coreHost s := rfl

@[simp] theorem coreHost_freeBit (s : State) : coreHost (freeBit s).2 = coreHost s := rfl

@[simp] theorem coreHost_freeWord (s : State) : coreHost (freeWord s).2 = coreHost s := rfl

@[simp] theorem coreHost_expressWord (s : State) (da : Nat) : coreHost (expressWord s da).2.2 = coreHost s :=
  coreHost_of_cacheView (by simp [expressWord, pierCharge])

@[simp] theorem coreHost_tecAdd (s : State) (e : TecEntry) : coreHost (tecAdd s e) = coreHost s := by
  unfold tecAdd
  dsimp only
  split <;> rfl

@[simp] theorem coreHost_walkEntry (s : State) (span asid va level tbl : Nat) (g64 : Bool) :
    coreHost (walkEntry s span asid va level tbl g64).2.2.2 = coreHost s := by
  unfold walkEntry
  dsimp only
  repeat' split
  all_goals simp

@[simp] theorem coreHost_walkGo (span asid va k : Nat) (s : State) (tbl : Nat) (g64 : Bool) :
    coreHost (walkGo span asid va k s tbl g64).2 = coreHost s := by
  induction k generalizing s tbl g64 with
  | zero => rfl
  | succ level ih =>
    unfold walkGo
    dsimp only
    repeat' split
    all_goals simp [ih]

@[simp] theorem coreHost_tlbAdd (s : State) (h : TlbHome) (asid : Nat) (p : Page) :
    coreHost (tlbAdd s h asid p) = coreHost s := by
  unfold tlbAdd
  dsimp only
  split <;> rfl

@[simp] theorem coreHost_tlbUse (s : State) (h : TlbHome) (asid va : Nat) (now : Tr) :
    coreHost (tlbUse s h asid va now).2 = coreHost s := by
  unfold tlbUse
  dsimp only
  repeat' split
  all_goals rfl

@[simp] theorem coreHost_spanTranslate (s : State) (span : Nat) (c : Ctx) (va : Nat) (now : Tr) :
    coreHost (spanTranslate s span c va now).2 = coreHost s := by
  unfold spanTranslate walk
  dsimp only
  repeat' split
  all_goals simp

/-- A translation leaves the cores and host memory. -/
@[simp] theorem coreHost_translate (s : State) (span core u ctx va : Nat) :
    coreHost (translate s span core u ctx va).2 = coreHost s := by
  unfold translate
  dsimp only
  repeat' split
  all_goals simp

end Sys2Proof.Machine
end

section
/-!
SUPPORT. The tile caches (R167 to R175): what a write-back does, what the flush of a span leaves, how a range command ends,
and the statement about them.
-/
namespace Sys2Proof.Machine

/-! ### One line written back (R321) -/

@[simp] theorem cacheView_tcBackCols (l : TcLine) (data : List Byte) (cell k : Nat) (s : State) :
    cacheView (tcBackCols l data cell k s) = cacheView s := by
  induction k generalizing s with
  | zero => rfl
  | succ k ih =>
    unfold tcBackCols
    dsimp only
    repeat' split
    all_goals simp [ih]

/-- A clean line needs no write-back. -/
theorem tcBack_clean (s : State) {l : TcLine} (h : l.dirty = 0) : tcBack s l = s := if_pos h

/-- A line as its write-back leaves it: clean, its merged writes in its bytes. -/
def cleanLine (l : TcLine) : TcLine := { l with base := tcBytes l, writes := [], dirty := 0 }

/-- The write-back of a dirty line: it is counted, and the line is put back clean. Nothing between differs in what the accesses
at the points of coherence leave alone. -/
theorem tcBack_dirty (s : State) {l : TcLine} (h : l.dirty ≠ 0) :
    ∃ u, tcBack s l = tcPut u (cleanLine l) ∧ cacheView u = cacheView
      (bumpF (pierAdd s (lineCell s l.intlv l.line) true false false 0 4) fTcWritebackCount (pgTc l.span)) :=
  ⟨_, if_neg h, cacheView_tcBackCols ..⟩

theorem tcPut_tc (s : State) (l : TcLine) :
    (tcPut s l).memo.tc = l :: s.memo.tc.filter (fun x => !tcIs l.span l.intlv l.line x) := rfl

/-- The write-back of a line. -/
structure WrittenBack (s t : State) (l : TcLine) : Prop where
  core : t.core = s.core
  host : t.memo.host = s.memo.host
  cx : t.cx = s.cx
  tc : t.memo.tc = if l.dirty = 0 then s.memo.tc
    else cleanLine l :: s.memo.tc.filter (fun x => !tcIs l.span l.intlv l.line x)
  count : l.dirty ≠ 0 →
    getF t fTcWritebackCount (pgTc l.span) = (getF s fTcWritebackCount (pgTc l.span) + 1) % 2 ^ 48

theorem writtenBack_tcBack (s : State) (l : TcLine) : WrittenBack s (tcBack s l) l := by
  by_cases hd : l.dirty = 0
  · rw [tcBack_clean s hd]
    exact ⟨rfl, rfl, rfl, (if_pos hd).symm, fun h => absurd hd h⟩
  · obtain ⟨u, hu, hview⟩ := tcBack_dirty s hd
    have hadd := cacheView_pierAdd s (lineCell s l.intlv l.line) true false false 0 4
    generalize pierAdd s (lineCell s l.intlv l.line) true false false 0 4 = v at *
    rw [hu]
    constructor
    case core =>
      have hcore := core_of_cacheView hview
      rwa [bumpF_core, core_of_cacheView hadd] at hcore
    case host =>
      have hhost := host_of_cacheView hview
      rwa [bumpF_memo, host_of_cacheView hadd] at hhost
    case cx =>
      have hcx := cx_of_cacheView hview
      rwa [bumpF_cx, cx_of_cacheView hadd] at hcx
    case tc =>
      have htc := tc_of_cacheView hview
      rw [bumpF_memo, tc_of_cacheView hadd] at htc
      rw [if_neg hd, tcPut_tc, htc]
      rfl
    case count =>
      intro _
      have hput : getF (tcPut u (cleanLine l)) fTcWritebackCount (pgTc l.span) = getF u fTcWritebackCount (pgTc l.span) :=
        getF_congr rfl _ _ _
      rw [hput, writebacks_of_cacheView hview, getF_bumpF _ _ _ _ (by decide), writebacks_of_cacheView hadd]
      rfl

/-- A dirty line after a write-back was held before, and is not the line written back. -/
theorem mem_tcBack_dirty {s : State} {l x : TcLine} (hx : x ∈ (tcBack s l).memo.tc) (hd : x.dirty ≠ 0) :
    x ∈ s.memo.tc ∧ x ≠ l := by
  rw [(writtenBack_tcBack s l).tc] at hx
  split at hx
  · next hclean => exact ⟨hx, fun e => hd (e ▸ hclean)⟩
  · rcases List.mem_cons.mp hx with rfl | hx
    · exact absurd rfl hd
    · obtain ⟨hmem, hnot⟩ := List.mem_filter.mp hx
      refine ⟨hmem, fun e => ?_⟩
      subst e
      simp [tcIs] at hnot

/-! ### Evictions (R167) -/

theorem tcFind_tcDrop (s : State) (span : Nat) (intlv : Bool) (line : Nat) :
    tcFind (tcDrop s span intlv line) span intlv line = none := by
  refine List.find?_eq_none.mpr fun x hx => ?_
  obtain ⟨-, hdropped⟩ := List.mem_filter.mp hx
  exact Bool.eq_false_iff.mp ((Bool.not_eq_true' _).mp hdropped)

theorem span_of_tcNth {s : State} {span n : Nat} {l : TcLine} (h : tcNth s span n = some l) : l.span = span := by
  simpa using (List.mem_filter.mp (List.mem_of_getElem? h)).2

theorem exec_tileCacheEviction {sp : Fin 8} {n : Nat} {l : TcLine} {s : State} (hrun : running s = true)
    (h : tcNth s sp n = some l) :
    exec (.tileCacheEviction sp n) s = .next (tcDrop (tcBack s l) sp l.intlv l.line) := by
  show execTileCacheEviction sp n s = _
  rw [execTileCacheEviction, clocked_running hrun, tileCacheEvictionEffect, h]

/-! ### The flush of a span (R175) -/

/-- One line of a span written back in its flush. -/
def flushLine (span : Nat) (s : State) (l : TcLine) : State := if l.span == span then tcBack s l else s

theorem tcFlushAll_eq (s : State) (span : Nat) : tcFlushAll s span = s.memo.tc.foldl (flushLine span) s := rfl

theorem flushLine_core_cx (span : Nat) (s : State) (l : TcLine) :
    (flushLine span s l).core = s.core ∧ (flushLine span s l).cx = s.cx := by
  unfold flushLine
  split
  · exact ⟨(writtenBack_tcBack s l).core, (writtenBack_tcBack s l).cx⟩
  · exact ⟨rfl, rfl⟩

theorem foldl_flushLine_core_cx (span : Nat) (ls : List TcLine) (s : State) :
    (ls.foldl (flushLine span) s).core = s.core ∧ (ls.foldl (flushLine span) s).cx = s.cx := by
  induction ls generalizing s with
  | nil => exact ⟨rfl, rfl⟩
  | cons l r ih =>
    obtain ⟨hcore, hcx⟩ := ih (flushLine span s l)
    obtain ⟨hcore', hcx'⟩ := flushLine_core_cx span s l
    exact ⟨hcore.trans hcore', hcx.trans hcx'⟩

/-- A dirty line of the span after some lines have been flushed was held before, and is none of them. -/
theorem mem_foldl_flushLine {span : Nat} {ls : List TcLine} {s : State} {x : TcLine}
    (hx : x ∈ (ls.foldl (flushLine span) s).memo.tc) (hspan : x.span = span) (hd : x.dirty ≠ 0) :
    x ∈ s.memo.tc ∧ x ∉ ls := by
  induction ls generalizing s with
  | nil => exact ⟨hx, List.not_mem_nil⟩
  | cons l r ih =>
    obtain ⟨hstep, hrest⟩ := ih hx
    have hl : x ∈ s.memo.tc ∧ x ≠ l := by
      unfold flushLine at hstep
      split at hstep
      · exact mem_tcBack_dirty hstep hd
      · next hother => exact ⟨hstep, fun e => hother (by simp [← e, hspan])⟩
    exact ⟨hl.1, fun h => (List.mem_cons.mp h).elim hl.2 hrest⟩

theorem tcDirtyLines_tcFlushAll (s : State) (span : Nat) : tcDirtyLines (tcFlushAll s span) span = 0 := by
  rw [tcDirtyLines, List.length_eq_zero_iff, List.filter_eq_nil_iff]
  intro x hx hdirty
  obtain ⟨hspan, hd⟩ : x.span = span ∧ x.dirty ≠ 0 := by simpa using hdirty
  obtain ⟨hheld, hnot⟩ := mem_foldl_flushLine (tcFlushAll_eq s span ▸ hx) hspan hd
  exact hnot hheld

theorem exec_tcFlushAll {sp : Fin 8} {m : Nat} {s : State} (hrun : running s = true) (hacc : accepted s (pgTc sp) m) :
    exec (.tcFlushAll sp m) s = .next (tcFlushAllEffect sp m s) := by
  show execTcFlushAll sp m s = _
  rw [execTcFlushAll, clocked_running hrun, guarded_accepted hacc]

/-! ### Range commands (R169 to R171) -/

@[simp] theorem coreHost_tcBack (s : State) (l : TcLine) : coreHost (tcBack s l) = coreHost s :=
  Prod.ext (writtenBack_tcBack s l).core (writtenBack_tcBack s l).host

@[simp] theorem coreHost_tcDrop (s : State) (span : Nat) (intlv : Bool) (line : Nat) :
    coreHost (tcDrop s span intlv line) = coreHost s := rfl

@[simp] theorem coreHost_tcRange (s : State) (op : RangeOp) (whole : Bool) (span : Nat) (intlv : Bool) (line : Nat) :
    coreHost (tcRange s op whole span intlv line) = coreHost s := by
  unfold tcRange
  dsimp only
  repeat' split
  all_goals simp

theorem coreHost_rangePos (op : RangeOp) (j : Job) (m : Mv) (p : Nat) : coreHost (rangePos op j m p).s = coreHost m.s := by
  unfold rangePos mvStop
  dsimp only
  repeat' split
  all_goals simp

/-- A walk whose steps leave the cores and host memory leaves them. -/
theorem coreHost_storeGo {f : Mv → Nat → Nat × Mv} (hf : ∀ m p, coreHost (f m p).2.s = coreHost m.s) (total k : Nat)
    (m : Mv) (p : Nat) : coreHost (storeGo f total k m p).2.s = coreHost m.s := by
  induction k generalizing m p with
  | zero => rfl
  | succ k ih =>
    unfold storeGo
    dsimp only
    split
    · rfl
    · split
      · split
        · exact hf m p
        · exact hf m p
      · exact (ih _ _).trans (hf m p)

theorem partSetQueue_twice (p : CorePart) (e : Nat) (q r : Queue) :
    partSetQueue (partSetQueue p e q) e r = partSetQueue p e r := by
  simp [partSetQueue]

theorem partQueue_partSetQueue {p : CorePart} {e : Nat} (h : e < p.queues.length) (q : Queue) :
    partQueue (partSetQueue p e q) e = q := by
  simp [partQueue, partSetQueue, List.getD_eq_getElem?_getD, h]

/-- A queue replaced and then updated; where the part has no such queue, neither changes it. -/
theorem partSetQueue_update (p : CorePart) (e : Nat) (q : Queue) (f : Queue → Queue) :
    partSetQueue (partSetQueue p e q) e (f (partQueue (partSetQueue p e q) e)) = partSetQueue p e (f q) := by
  rw [partSetQueue_twice]
  by_cases h : e < p.queues.length
  · rw [partQueue_partSetQueue h]
  · simp [partSetQueue, List.set_eq_of_length_le (Nat.le_of_not_lt h)]

/-- A walk that ends without a stop leaves its command executed, with its counts and its nominal bytes and no restart record
(R202), and beside the slot only counts of bytes. -/
theorem moveEnd_of_done {key e nominal : Nat} {c : QCmd} {iter : List Nat} {m : Mv} (h : m.stop = none) :
    (getSlot (moveEnd key e c iter nominal m) key).part = partSetQueue (getSlot m.s key).part e
        { qSetCmd (getQ m.s key e) { cmdCounts (cmdAddEv c m.ev) m with phase := .executed, nominal := nominal } with
          restart := noRestart }
      ∧ (moveEnd key e c iter nominal m).memo = m.s.memo ∧ (moveEnd key e c iter nominal m).core.lmem = m.s.core.lmem := by
  unfold moveEnd
  simp only [h]
  refine ⟨?_, rfl, rfl⟩
  rw [(slotTakes_putQ _ key e _).part, getQ, cmdDone, (slotTakes_putCmd _ key e _).part]
  exact partSetQueue_update _ e _ (fun q => { q with restart := noRestart })

theorem exec_rangeCommand {sp : Fin 8} {co : Fin 16} {sl : Fin 4} {i : Instr} {opc : Nat} {op : RangeOp} {s : State}
    (hrun : running s = true)
    (h : (i, opc, op) ∈ [(.memFlush sp co sl, 0x9C, .flush), (.memInval sp co sl, 0x9D, .inval),
      (.memFlinv sp co sl, 0x9E, .flinv)]) : exec i s = .next (rangeRun sp co sl opc op s) := by
  have hclock := clocked_running hrun (rangeRun sp co sl opc op s)
  simp only [List.mem_cons, Prod.mk.injEq, List.not_mem_nil, or_false] at h
  rcases h with ⟨rfl, rfl, rfl⟩ | ⟨rfl, rfl, rfl⟩ | ⟨rfl, rfl, rfl⟩
  all_goals exact congrArg Host.Outcome.next hclock

/-- The job of a range command. -/
def rangeJob (sp : Fin 8) (co : Fin 16) (sl : Fin 4) (op : RangeOp) (c : QCmd) (s : State) : Job :=
  ⟨slotKey sp co sl, 3, cmdWords c, noDesc, ⟨[], []⟩, ⟨sp, co, 3, slotCtx s (slotKey sp co sl), false,
    if op = .inval then .write else .read, eDmaProt, eDmaAttr, eDmaPoison, eUnsealedRead⟩⟩

/-- The walk of a range command from the line that its restart record names. -/
def rangeWalk (op : RangeOp) (j : Job) (c : QCmd) (r0 : Restart) (s : State) : Nat × Mv :=
  storeGo (byOne (rangePos op j)) (rangeLines c.w1 (bits c.w2 0 40)) (rangeLines c.w1 (bits c.w2 0 40)) (mvStart s r0)
    ((c.w1 + (r0.iter.getD 0 0 + 2 ^ 32 * r0.iter.getD 1 0)) / 128 - c.w1 / 128)

theorem coreHost_rangeWalk (op : RangeOp) (j : Job) (c : QCmd) (r0 : Restart) (s : State) :
    coreHost (rangeWalk op j c r0 s).2.s = coreHost s :=
  coreHost_storeGo (f := byOne (rangePos op j)) (coreHost_rangePos op j) _ _ (mvStart s r0) _

/-- A range command at the head of its queue is its walk, and ends as every walk does. -/
theorem rangeRun_of_headOp {sp : Fin 8} {co : Fin 16} {sl : Fin 4} {opc : Nat} {op : RangeOp} {c : QCmd} {s : State}
    (h : headOp s (slotKey sp co sl) 3 opc = some c) :
    ∃ iter, rangeRun sp co sl opc op s = moveEnd (slotKey sp co sl) 3 c iter 0 (rangeWalk op (rangeJob sp co sl op c s) c
      (cmdRestart (getQ s (slotKey sp co sl) 3) c) s).2 := by
  unfold rangeRun
  simp only [h]
  exact ⟨_, rfl⟩

/-! ### The statement -/

/-- Settles O44: a range command is a walk whose lines leave the cores and host memory, and ends as every walk does; an eviction
drops its line after `tcBack`; and a dirty line after the flush of a span would be one that the flush has not met. -/
theorem tileCacheWritesBackAndLetsGo : Obligations.TileCacheWritesBackAndLetsGo := by
  unfold Obligations.TileCacheWritesBackAndLetsGo
  refine ⟨?_, fun sp n l s hrun hl => ⟨fun hclean => ?_, fun hdirty => ?_⟩,
    fun sp m s hrun hacc => ⟨fun hidle => ?_, fun hbusy => ?_⟩, fun sp s hrun => ?_⟩
  -- Range commands (R169 to R171).
  · intro sp co sl i opc op c r0 j p m s hrun hi hhead hr0 hj hwalk hstop
    subst hr0 hj
    replace hwalk : rangeWalk op (rangeJob sp co sl op c s) c (cmdRestart (getQ s (slotKey sp co sl) 3) c) s = (p, m) := hwalk
    obtain ⟨iter, hrange⟩ := rangeRun_of_headOp (op := op) hhead
    have hframe := coreHost_rangeWalk op (rangeJob sp co sl op c s) c (cmdRestart (getQ s (slotKey sp co sl) 3) c) s
    rw [hwalk] at hrange hframe
    obtain ⟨hcore, hhost⟩ := Prod.mk.inj hframe
    obtain ⟨hpart, hmemo, hlmem⟩ := moveEnd_of_done (key := slotKey sp co sl) (e := 3) (nominal := 0) (iter := iter) hstop
    refine ⟨_, m.ev, (exec_rangeCommand hrun hi).trans (congrArg Host.Outcome.next hrange), hpart, hmemo, ?_, ?_⟩
    · rw [hlmem, hcore]
    · rw [hmemo, hhost]
  -- Evictions (R167).
  · rw [exec_tileCacheEviction hrun hl, tcBack_clean s hclean]
    rfl
  · have hback := writtenBack_tcBack s l
    refine ⟨_, exec_tileCacheEviction hrun hl, tcFind_tcDrop _ _ _ _, ?_, hback.core, hback.cx⟩
    have hcount := hback.count hdirty
    rw [span_of_tcNth hl] at hcount
    exact hcount
  -- FLUSH_ALL (R175).
  · refine ⟨_, exec_tcFlushAll hrun hacc, ?_⟩
    obtain ⟨hcore, hcx⟩ := foldl_flushLine_core_cx sp s.memo.tc s
    rw [tcFlushAllEffect, if_neg (by simp [hidle])]
    exact ⟨getB_setB _ _ true _ (by decide) rfl, tcDirtyLines_tcFlushAll s sp, hcore, hcx⟩
  · refine ⟨_, exec_tcFlushAll hrun hacc, ?_⟩
    rw [tcFlushAllEffect, if_pos hbusy]
    exact reject_rejected s _ .busy _ _ _
  · refine ⟨_, congrArg Host.Outcome.next (clocked_running hrun _), getB_setB _ _ false _ (by decide) rfl,
      setB_regsBut (f := fTcStatusFlushBusy) rfl, rfl⟩

end Sys2Proof.Machine
end

section
/-!
SUPPORT. Loads and stores (05_tensor_descriptors_and_dma.md): the state at which the statement about them fails, and what
the model does there.
-/
namespace Sys2Proof.Machine

/-! ### An issued `ld.t` whose local matrix names the reserved scale mode -/

/-- An `ld.t` by the descriptor at 65536: its local matrix is at 64, with rows 64 bytes apart, of FP32 elements under scale
mode 3. -/
def loadModeThree : QCmd :=
  ⟨256, 0x20, 65536, 1 + 2 ^ 17 + 2 ^ 30 * 3, 0, 0, .issued, false, 0, 0, 0, 0, 0, 0, false, false, 0, 0, 0, 0, 0, 0, 0,
    false⟩

/-- Device memory with page tables at 4096 and 8192 that map the first GiB onto itself, readable and writable, and at 65536 a
descriptor of one unscaled FP32 element (R176). -/
def oneElementMemory : List Host.Cell :=
  [(4096, 3), (4097, 32), (8192, 29), (65552, 1), (65553, 64), (65568, 1), (65572, 1), (65576, 1), (65580, 1), (65584, 1),
    (65588, 1), (65592, 1)]

/-- The package after reset with that memory and that command issued in slot 0 of core 0 of span 0, for a context with a
window of 64 KiB, and with the first byte behind the local matrix at 1. -/
def loadModeThreeIssued : State :=
  { State.reset with
    memo := { State.reset.memo with mem := oneElementMemory }
    core := { CoreSt.reset with
      slots := [(0, { emptySlot with
        ctx := some 1, part := partSetQueue newPart 0 { idleQueue with st := .run, cmds := [loadModeThree] } })]
      lmem := [(128, 1)] }
    cx := { CtxSt.reset with ctxs := [(1, ⟨1, 0, 0, true, 0, false, 0, 4096, 1, 1⟩)] } }

/-- What the command sets out with: the tensor's one element and its whole box. -/
def loadModeThreeJob : Job where
  key := 0
  eng := 0
  w := cmdWords loadModeThree
  d := ⟨0, 0, 0, 0, 1, false, false, false, 0, 0, [1, 1, 1, 1, 1, 1], [1, 0, 0, 0, 0, 0]⟩
  b := ⟨[0, 0, 0, 0, 0, 0], [1, 1, 1, 1, 1, 1]⟩
  g := moveAgent loadModeThreeIssued 0 (cmdWords loadModeThree)

/-- The state after the command's records have been read. -/
def loadModeThreeSetOut : State := (setup loadModeThreeIssued (slotKey 0 0 0) 0 (cmdWords loadModeThree)).2

/-- The walk of the command from its first position. -/
def loadModeThreeWalk : Nat × Mv :=
  loadWalk loadModeThreeJob loadModeThree
    (mvStart loadModeThreeSetOut (cmdRestart (getQ loadModeThreeIssued (slotKey 0 0 0) 0) loadModeThree))
    (posOf loadModeThreeJob.b (cmdRestart (getQ loadModeThreeIssued (slotKey 0 0 0) 0) loadModeThree).iter)

/-- The command's records are good: no check of the descriptor, of the local matrix or of the window refuses it. -/
theorem setup_loadModeThreeIssued : setup loadModeThreeIssued (slotKey 0 0 0) 0 (cmdWords loadModeThree)
    = (.ok loadModeThreeJob, loadModeThreeSetOut) := by
  have hjob : (setup loadModeThreeIssued (slotKey 0 0 0) 0 (cmdWords loadModeThree)).1 = .ok loadModeThreeJob := by
    decide +kernel
  exact Prod.ext hjob rfl

/-- The command is at the head of its queue in a running package, and its walk ends. -/
theorem loadModeThreeIssued_meets_hypotheses : running loadModeThreeIssued = true
    ∧ headOp loadModeThreeIssued (slotKey 0 0 0) 0 0x20 = some loadModeThree
    ∧ loadModeThreeWalk.2.stop = none := by
  decide +kernel

/-- Decode refuses such a command with FMT_RESERVED (R106). -/
theorem fmtsCheck_loadModeThree : fmtsCheck (cmdWords loadModeThree) = eFmtReserved := by decide

theorem exec_ldT_loadModeThreeIssued :
    exec (.ldT 0 0 0) loadModeThreeIssued = .next (ldTEffect 0 0 0 loadModeThreeIssued) := rfl

/-- The local matrix is the four bytes from 64; under mode 3 its blocks, and so its scale plane, have no length. -/
theorem outside_loadModeThree : ∀ r ∈ matRanges (localMat loadModeThreeJob.w loadModeThreeJob.b),
    128 < lmCell loadModeThreeIssued (slotKey 0 0 0) r.1
      ∨ lmCell loadModeThreeIssued (slotKey 0 0 0) r.1 + r.2 ≤ 128 := by
  decide +kernel

/-- The walk takes a unit of no elements, and writes a scale byte for it over the byte behind the local matrix. -/
theorem byte_behind_loadModeThree : cellGet loadModeThreeIssued.core.lmem 128 = 1
    ∧ cellGet (ldTEffect 0 0 0 loadModeThreeIssued).core.lmem 128 = 0 := by
  decide +kernel

/-- Refutes O43: as for O41 and O42, the checks at setting out do not refuse scale mode 3, and an issued `ld.t` whose local
matrix has it writes a byte outside that matrix. No hypothesis keeps out a command that decode refuses. -/
theorem not_loadsAndStoresWalkTheirBoxes : ¬ Obligations.LoadsAndStoresWalkTheirBoxes := by
  unfold Obligations.LoadsAndStoresWalkTheirBoxes
  rintro ⟨hwalks, -⟩
  obtain ⟨hrun, hhead, hstop⟩ := loadModeThreeIssued_meets_hypotheses
  obtain ⟨hends, -⟩ := hwalks 0 0 0 (.ldT 0 0 0) 0 0x20 loadWalk loadModeThree loadModeThreeJob loadModeThreeSetOut
    loadModeThreeWalk.1 loadModeThreeWalk.2 loadModeThreeIssued hrun List.mem_cons_self hhead setup_loadModeThreeIssued rfl
  obtain ⟨t, -, ht, -, -, -, -, -, hload, -⟩ := hends hstop
  cases exec_ldT_loadModeThreeIssued.symm.trans ht
  obtain ⟨-, hbytes⟩ := hload (by decide)
  have hkept : cellGet (ldTEffect 0 0 0 loadModeThreeIssued).core.lmem 128 = cellGet loadModeThreeIssued.core.lmem 128 :=
    hbytes 128 outside_loadModeThree
  obtain ⟨hbefore, hafter⟩ := byte_behind_loadModeThree
  rw [hbefore, hafter] at hkept
  exact absurd hkept (by decide)

end Sys2Proof.Machine
end

section
/-!
SUPPORT. Both byte memories stay in canonical form (R145, R318): over a command by what its outcome names, over an idle step
because neither memory is among the parts that it changes.
-/
namespace Sys2Proof.Machine

/-- Where neither byte memory is among the parts that may differ, both stay canonical. -/
theorem SameBut.keeps_memOk {l : List Part} {s t : State} (h : SameBut l s t) (hmem : .mem ∉ l) (hlmem : .lmem ∉ l)
    (hs : memOk s) : memOk t := by
  obtain ⟨hdevice, hlocal⟩ := hs
  exact ⟨h.mem.resolve_right hmem ▸ hdevice, h.lmem.resolve_right hlmem ▸ hlocal⟩

/-- A command keeps both memories canonical: the tick that a power rail sets to zero and the fuses that the FUSE stage reads
first are no part of them. -/
theorem ExecOutcome.keeps_memOk {c : Instr} {s t : State} (o : ExecOutcome c s t) (hs : memOk s) : memOk t := by
  cases o with
  | held h => exact h.mem hs
  | rails _ h => exact h.mem hs
  | fused _ h => exact h.mem (readFuses_memOk s hs)

/-- With no command waiting a step changes neither memory, with power-good asserted or without it (R24). -/
theorem step_keeps_memOk_of_idle {s t : State} (hp : s.pending = []) (ht : step s = .next t) (hs : memOk s) : memOk t := by
  obtain ⟨hon, hoff⟩ := stepRunsFrontCommand.2 s hp
  cases hgood : s.pkg.boot.pwrgood with
  | true =>
    obtain ⟨u, hu, -, -, hsame, -⟩ := hon hgood
    cases hu.symm.trans ht
    exact hsame.keeps_memOk (by decide) (by decide) hs
  | false =>
    cases (hoff hgood).symm.trans ht
    exact hs

/-- Settles O4: a step is an idle one, or it is the command at the front of the queue on the queue's rest, and a queue is no
part of the memories. -/
theorem stepKeepsMemoriesCanonical : Obligations.StepKeepsMemoriesCanonical := by
  intro s t hs ht
  cases hp : s.pending with
  | nil => exact step_keeps_memOk_of_idle hp ht hs
  | cons c rest =>
    rw [stepRunsFrontCommand.1 c s rest hp] at ht
    exact (exec_outcome ht).keeps_memOk hs

end Sys2Proof.Machine
end

section
/-!
SUPPORT. Pages copied back from the host (R375, R377): why the statement about serving is not settled. A block whose address is
on no column boundary is written past the end of its stack, so the statement holds only where no model has a pool; and whether
one has a pool is a free value of the model (`Config.kvPools`).
-/
namespace Sys2Proof.Machine

/-! ### A sequence that returns to a block across the end of a stack -/

/-- A sequence of a model with the one page 0, which is being copied back. -/
def returningSequence (m : Nat) : Req where
  idx := 0
  fn := 0
  ring := 0
  seq := 0
  tag := 0
  model := m
  adapter := 0
  gen := 0
  epoch := 0
  handle := 0
  prio := 0
  stopLate := false
  keep := false
  maxNew := 1
  deadline := none
  prompt := 0
  promptLen := 1
  out := 0
  sample := 0
  st := .prompt
  kv := .swappingIn
  copied := false
  fed := 0
  len := 0
  made := 0
  late := false
  cancel := false
  pages := [0]
  shared := []
  grps := []
  entered := 0
  slot := none
  give := 0
  job := 0

/-- A host copy of that page in pool 0: one column of bytes 7. -/
def returningCopy (m : Nat) : KvCopy := ⟨m, 0, 0, 0, List.replicate 32 7, []⟩

/-- A host copy of that page under a pool number that the model does not have, so that it stays. -/
def strayCopy (m : Nat) : KvCopy := ⟨m, (Config.kvPools m).length, 0, 0, [], []⟩

/-- The package of the smaller grade after reset with that sequence and its copies, and with the block of its page half a
column below the end of stack 0. -/
def crossingReturn (m : Nat) : State :=
  { State.reset with
    fuse := { Fuses.reset with gradeS := true }
    ho := { HostSt.reset with swap := some (0, 2 ^ 20, 0) }
    srv := { ServeSt.reset with
      blocks := [⟨m, 0, 0, [96 * 2 ^ 30 - 16]⟩]
      copies := [returningCopy m, strayCopy m]
      reqs := [returningSequence m] } }

/-- That state once the copy of pool 0 is back. -/
def crossingReturned (m : Nat) : State :=
  let t := daWrite (crossingReturn m) (96 * 2 ^ 30 - 16) (List.replicate 32 7) []
  { t with srv := { t.srv with copies := [strayCopy m] } }

/-- The cell behind the last one of stack 0 is the cell of no device address. -/
theorem line_ne_cellOf_crossingReturn (m da : Nat) :
    96 * 2 ^ 30 / 128 ≠ cellOf (crossingReturn m) false da / 128 := by
  have hcap : stackCap (crossingReturn m) = 103079215104 := rfl
  simp only [cellOf, hcap, Bool.false_eq_true, if_false]
  omega

/-- The second half of the column goes to that cell. -/
theorem cellGet_crossingReturned (m : Nat) : cellGet (crossingReturned m).memo.mem (96 * 2 ^ 30) = 7 := by
  cbv

theorem portFailed_crossingReturn (m : Nat) : portFailed (crossingReturn m) 0 = false := by
  cbv

/-- A piece of a page has room for the copy. -/
theorem le_pieceBytes (m : Nat) : 32 ≤ pieceBytes m := by
  unfold pieceBytes kvPs
  split <;> decide

/-! ### Copying back -/

/-- A page without a block in a pool is not copied back there. -/
theorem swapBlockIn_of_no_block {s : State} {m page i : Nat} (h : blockOf s m i page = none) : swapBlockIn m page s i = s := by
  unfold swapBlockIn
  rw [h]

theorem blocks_crossingReturned (m : Nat) : (crossingReturned m).srv.blocks = (crossingReturn m).srv.blocks :=
  congrArg (fun v => v.srv.blocks) (steady_daWrite (crossingReturn m) _ _ _)

theorem copies_daWrite (s : State) (da : Nat) (data : List Byte) (bad : List Nat) :
    (daWrite s da data bad).srv.copies = s.srv.copies :=
  congrArg (fun v => v.srv.copies) (steady_daWrite s da data bad)

/-- Pool 0 takes its copy, which is discarded. -/
theorem swapBlockIn_crossingReturn {m : Nat} (hpool : (Config.kvPools m).length ≠ 0) :
    swapBlockIn m 0 (crossingReturn m) 0 = crossingReturned m := by
  have hblock : blockOf (crossingReturn m) m 0 0 = some ⟨m, 0, 0, [96 * 2 ^ 30 - 16]⟩ := by
    simp [blockOf, crossingReturn]
  have hcopy : (crossingReturn m).srv.copies.find? (fun c => c.model == m && c.pool == 0 && c.page == 0)
      = some (returningCopy m) := by
    simp [crossingReturn, returningCopy]
  have hswap : (crossingReturn m).ho.swap = some (0, 2 ^ 20, 0) := rfl
  have hdata : (List.replicate 32 (7 : Byte)).take (pieceBytes m) = List.replicate 32 7 :=
    List.take_of_length_le (by simpa using le_pieceBytes m)
  have hleft : (crossingReturn m).srv.copies.filter (· ≠ returningCopy m) = [strayCopy m] := by
    simp [crossingReturn, returningCopy, strayCopy, hpool]
  have hfill : fillBlock (pieceBytes m) (returningCopy m).bad [96 * 2 ^ 30 - 16] (crossingReturn m) (returningCopy m).data 0
      = daWrite (crossingReturn m) (96 * 2 ^ 30 - 16) (List.replicate 32 7) [] := by
    simp only [fillBlock, returningCopy, hdata, List.filter_nil, List.map_nil]
  unfold swapBlockIn
  rw [hblock, hcopy, hswap]
  simp only [swapFn, portFailed_crossingReturn, Bool.false_eq_true, if_false, hfill, copies_daWrite, hleft]
  rfl

/-- Only pool 0 has a block of the page, so that the other pools bring nothing back. -/
theorem swapPageIn_crossingReturn {m : Nat} (hpool : Config.kvPools m ≠ []) :
    swapPageIn m (crossingReturn m) 0 = crossingReturned m := by
  have hlen : (Config.kvPools m).length ≠ 0 := by simpa using hpool
  have hrest (l : List Nat) : (l.map Nat.succ).foldl (swapBlockIn m 0) (crossingReturned m) = crossingReturned m := by
    induction l with
    | nil => rfl
    | cons i l ih =>
      have hnone : blockOf (crossingReturned m) m i.succ 0 = none := by
        rw [blockOf, blocks_crossingReturned]
        simp [crossingReturn]
      rw [List.map_cons, List.foldl_cons, swapBlockIn_of_no_block hnone, ih]
  unfold swapPageIn
  obtain ⟨n, hn⟩ := Nat.exists_eq_succ_of_ne_zero hlen
  rw [hn, List.range_succ_eq_map, List.foldl_cons, swapBlockIn_crossingReturn hlen, hrest]

/-- The stray copy stays. -/
theorem copiesLeft_crossingReturned (m : Nat) : copiesLeft (crossingReturned m) (returningSequence m) = true := by
  simp [copiesLeft, crossingReturned, strayCopy, returningSequence, ownPages]

/-! ### What O53 would say of the pools -/

/-- O53 stays unsettled: it holds only where no model has a pool. A block at an address on no column boundary may cross the end
of its stack under grade S; its last column is then written past that end, in a line of no address of the block, where the
statement says that memory is left alone. Neither the statement nor the state keeps such a block out. -/
theorem kvPools_eq_nil_of_servingPreparesStepsAndSwapsPages (h : Obligations.ServingPreparesStepsAndSwapsPages) (m : Nat) :
    Config.kvPools m = [] := by
  refine Classical.byContradiction fun hpool => ?_
  obtain ⟨-, hswap⟩ := h
  obtain ⟨-, -, -, hdone⟩ := hswap 0 (returningSequence m) (crossingReturn m) rfl rfl
  obtain ⟨t, -, -, hstays, -, hbytes, -⟩ := hdone rfl
  have hback : (ownPages (returningSequence m)).foldl (swapPageIn (returningSequence m).model) (crossingReturn m)
      = crossingReturned m := swapPageIn_crossingReturn hpool
  rw [hback] at hstays
  obtain ⟨rfl, -⟩ := hstays (copiesLeft_crossingReturned m)
  have hkept := hbytes rfl (96 * 2 ^ 30) (fun k _ => line_ne_cellOf_crossingReturn m _)
    (fun _ _ _ _ _ _ k _ => line_ne_cellOf_crossingReturn m _)
  have hzero : cellGet (crossingReturn m).memo.mem (96 * 2 ^ 30) = 0 := rfl
  rw [cellGet_crossingReturned, hzero] at hkept
  exact absurd hkept (by decide)

end Sys2Proof.Machine
end

section
/-!
SUPPORT. The registers of the frame clock and of the schedule units' arm bits (R414, R424): accesses at the points of coherence
leave them alone, one lemma per operation, each an equation of `frameRegs`.
-/
namespace Sys2Proof.Machine

/-- The registers that say which frame it is and which entries are armed. -/
structure FrameRegs where
  arm : Nat → Nat → Nat
  status : Nat → Nat → Nat
  work : Nat → Nat → Nat

/-- Those registers of a state. -/
def frameRegs (s : State) : FrameRegs := ⟨rdR s .schedArm, rdR s .frameStatus, rdR s .frameWork⟩

/-- They are read from the registers alone. -/
theorem frameRegs_congr {s t : State} (h : t.regs = s.regs) : frameRegs t = frameRegs s := by
  have hr : ∀ r, rdR t r = rdR s r := fun r => by
    funext q j
    exact rdR_congr h r q j
  simp only [frameRegs, hr]

theorem frameRegs_foldl {α : Type} {g : State → α → State} (hg : ∀ t x, frameRegs (g t x) = frameRegs t) (l : List α)
    (s : State) : frameRegs (l.foldl g s) = frameRegs s := by
  induction l generalizing s with
  | nil => rfl
  | cons x r ih => exact (ih _).trans (hg s x)

/-! ### Registers and the error log -/

@[simp] theorem frameRegs_setF (s : State) (f : RField) (pg v k : Nat)
    (h : f.reg ≠ .schedArm ∧ f.reg ≠ .frameStatus ∧ f.reg ≠ .frameWork) : frameRegs (setF s f pg v k) = frameRegs s := by
  have hr : ∀ r, f.reg ≠ r → rdR (setF s f pg v k) r = rdR s r := fun r hne => by
    funext q j
    exact rdR_setF_ne s f pg v k r q j (fun e => hne (congrArg Prod.fst e).symm)
  simp only [frameRegs, hr _ h.1, hr _ h.2.1, hr _ h.2.2]

@[simp] theorem frameRegs_bumpSat (s : State) (f : RField) (pg n k : Nat)
    (h : f.reg ≠ .schedArm ∧ f.reg ≠ .frameStatus ∧ f.reg ≠ .frameWork) : frameRegs (bumpSat s f pg n k) = frameRegs s :=
  frameRegs_setF s f pg _ k h

@[simp] theorem frameRegs_irqSrc (s : State) (pg bit : Nat) : frameRegs (irqSrc s pg bit) = frameRegs s :=
  frameRegs_setF s fBlkIrqPendSrc pg _ _ (by decide)

@[simp] theorem frameRegs_elogAdd (s : State) (e : ElogEntry) : frameRegs (elogAdd s e) = frameRegs s := by
  unfold elogAdd
  extract_lets seq nested e' s1
  have h1 : frameRegs s1 = frameRegs s := by simp (disch := decide) [s1]
  repeat' split
  · exact h1
  · exact h1
  · simp (disch := decide)

@[simp] theorem frameRegs_bucketEvent (s : State) (span cls idx bank addr : Nat) :
    frameRegs (bucketEvent s span cls idx bank addr) = frameRegs s := by
  unfold bucketEvent
  dsimp only
  split
  · rw [frameRegs_irqSrc, frameRegs_elogAdd]
    rfl
  · rfl

/-! ### Columns -/

@[simp] theorem frameRegs_putPcc (s : State) (n : Nat) (p : Pcc) : frameRegs (putPcc s n p) = frameRegs s := rfl

@[simp] theorem frameRegs_setPoison (s : State) (col : Nat) (p : Bool) : frameRegs (setPoison s col p) = frameRegs s := rfl

@[simp] theorem frameRegs_setErrs (s : State) (col : Nat) (e : List (Nat × Nat)) : frameRegs (setErrs s col e) = frameRegs s :=
  rfl

@[simp] theorem frameRegs_flipApply (s : State) (cell : Nat) (path : WPath) :
    frameRegs (flipApply s cell path) = frameRegs s := by
  have h1 : frameRegs (setB s fSerrFlipArm (pgSerr (cellSpan cell)) false) = frameRegs s :=
    frameRegs_setF s fSerrFlipArm _ _ _ (by decide)
  unfold flipApply
  simp only [apply_ite frameRegs, frameRegs_setPoison, frameRegs_setErrs, h1, ite_self]

@[simp] theorem frameRegs_colSeal (s : State) (cell : Nat) (data : List Byte) (pois : Bool) :
    frameRegs (colSeal s cell data pois) = frameRegs s := by
  unfold colSeal
  cases pois <;> rfl

@[simp] theorem frameRegs_logUe (s : State) (cell cls sym : Nat) : frameRegs (logUe s cell cls sym) = frameRegs s := by
  unfold logUe
  dsimp only
  repeat' split
  · rfl
  · rw [frameRegs_irqSrc, frameRegs_elogAdd]
    exact frameRegs_elogAdd (putPcc s _ _) _
  · rw [frameRegs_elogAdd, frameRegs_putPcc]

@[simp] theorem frameRegs_colRead (s : State) (cell : Nat) : frameRegs (colRead s cell).2.2 = frameRegs s := by
  unfold colRead
  dsimp only
  repeat' split
  all_goals simp

@[simp] theorem frameRegs_colMerge (s : State) (col : Nat) (new : List Byte) (mask : Nat) :
    frameRegs (colMerge s col new mask) = frameRegs s := by
  unfold colMerge
  dsimp only
  repeat' split
  · rfl
  · exact frameRegs_colSeal _ _ _ _
  · rfl
  · exact frameRegs_colSeal _ _ _ _
  · rfl
  · rw [frameRegs_colSeal, frameRegs_colRead]

@[simp] theorem frameRegs_colWrite (s : State) (cell : Nat) (data : List Byte) :
    frameRegs (colWrite s cell data) = frameRegs s := frameRegs_colMerge s _ _ _

@[simp] theorem frameRegs_ownAccess (s : State) (kind : ReplayKind) (cell : Nat) :
    frameRegs (ownAccess s kind cell) = frameRegs s := by
  unfold ownAccess
  dsimp only
  split <;> rfl

@[simp] theorem frameRegs_lineCols (s : State) (line k : Nat) : frameRegs (lineCols s line k).2.2 = frameRegs s := by
  induction k with
  | zero => rfl
  | succ k ih =>
    unfold lineCols
    dsimp only
    split <;> simp [ih]

/-! ### Reducers and staged updates -/

@[simp] theorem frameRegs_redCols (l : RedLine) (k : Nat) (s : State) : frameRegs (redCols l k s) = frameRegs s := by
  induction k generalizing s with
  | zero => rfl
  | succ k ih =>
    unfold redCols
    dsimp only
    repeat' split
    all_goals simp [ih]

@[simp] theorem frameRegs_redWriteBack (s : State) (n line : Nat) : frameRegs (redWriteBack s n line) = frameRegs s := by
  unfold redWriteBack
  dsimp only
  repeat' split
  all_goals simp

@[simp] theorem frameRegs_redFetch (s : State) (n line : Nat) : frameRegs (redFetch s n line) = frameRegs s := by
  unfold redFetch
  dsimp only
  repeat' split
  all_goals simp

@[simp] theorem frameRegs_redUpd (s : State) (n line : Nat) (f : RedLine → RedLine) :
    frameRegs (redUpd s n line f) = frameRegs s := rfl

@[simp] theorem frameRegs_sealAt (s : State) (cell : Nat) : frameRegs (sealAt s cell) = frameRegs s := rfl

@[simp] theorem frameRegs_redDo (s : State) (cell hi : Nat) (op : RedOp) (b : Num) (ctx : Nat) :
    frameRegs (redDo s cell hi op b ctx) = frameRegs s := by
  unfold redDo
  dsimp only
  repeat' split
  all_goals simp [redLines, redPut, redPoisoned]

@[simp] theorem frameRegs_stagedDo (s : State) (e : Staged) : frameRegs (stagedDo s e) = frameRegs s := by
  unfold stagedDo redPoison
  dsimp only
  repeat' split
  all_goals simp

@[simp] theorem frameRegs_settleLine (s : State) (line : Nat) : frameRegs (settleLine s line) = frameRegs s := by
  unfold settleLine
  dsimp only
  split
  · rfl
  · exact frameRegs_foldl frameRegs_stagedDo _ _

/-! ### Lines -/

@[simp] theorem frameRegs_pocRead (s : State) (line : Nat) : frameRegs (pocRead s line).2 = frameRegs s := by
  unfold pocRead
  dsimp only
  split <;> simp (disch := decide)

@[simp] theorem frameRegs_pocPoison (s : State) (cell : Nat) : frameRegs (pocPoison s cell) = frameRegs s := by
  unfold pocPoison
  dsimp only
  split <;> simp

@[simp] theorem frameRegs_cellsWriteGo (path : WPath) (first : Bool) (k : Nat) (s : State) (cell : Nat) (data : List Byte) :
    frameRegs (cellsWriteGo path first k s cell data) = frameRegs s := by
  induction k generalizing first s cell data with
  | zero => rfl
  | succ k ih =>
    unfold cellsWriteGo
    dsimp only
    repeat' split
    all_goals simp [ih]

@[simp] theorem frameRegs_pocWrite (s : State) (cell : Nat) (data : List Byte) :
    frameRegs (pocWrite s cell data) = frameRegs s := by simp [pocWrite]

@[simp] theorem cacheView_cellsWriteGo (path : WPath) (first : Bool) (k : Nat) (s : State) (cell : Nat) (data : List Byte) :
    cacheView (cellsWriteGo path first k s cell data) = cacheView s := by
  induction k generalizing first s cell data with
  | zero => rfl
  | succ k ih =>
    unfold cellsWriteGo
    dsimp only
    repeat' split
    all_goals simp [ih]

@[simp] theorem cacheView_pocWrite (s : State) (cell : Nat) (data : List Byte) :
    cacheView (pocWrite s cell data) = cacheView s := by simp [pocWrite]

end Sys2Proof.Machine
end

section
/-!
SUPPORT. KV pages (R347, R373 to R377): what mapping, copying and freeing them leaves alone of the package, one lemma per
operation, each an equation of `pageView` or of `quiet`.
-/
namespace Sys2Proof.Machine

/-- What page tables and the bytes of pages leave alone: everything but the registers of other pages than the schedule's, the
memory system, the contexts and the errors. -/
structure PageView where
  rest : State
  frame : FrameRegs

def pageView (s : State) : PageView where
  rest := { s with regs := [], memo := .reset, cx := .reset, er := .reset }
  frame := frameRegs s

/-- What serving leaves alone: of that all but the host side, the count of free values, and of serving all but its groups. -/
structure Quiet where
  rest : State
  groups : List (Nat × Group)
  frame : FrameRegs

def quiet (s : State) : Quiet where
  rest := { s with regs := [], memo := .reset, cx := .reset, er := .reset, ho := .reset, srv := .reset, free := 0 }
  groups := s.srv.groups
  frame := frameRegs s

theorem pageView_of_cacheView {s t : State} (h : cacheView t = cacheView s) (hf : frameRegs t = frameRegs s) :
    pageView t = pageView s := by
  unfold pageView
  rw [hf]
  exact congrArg (fun r : State => (⟨{ r with memo := .reset, cx := .reset }, frameRegs s⟩ : PageView))
    (congrArg CacheView.rest h)

theorem srv_of_pageView {s t : State} (h : pageView t = pageView s) : t.srv = s.srv := congrArg (fun v => v.rest.srv) h
theorem ho_of_pageView {s t : State} (h : pageView t = pageView s) : t.ho = s.ho := congrArg (fun v => v.rest.ho) h
theorem free_of_pageView {s t : State} (h : pageView t = pageView s) : t.free = s.free := congrArg (fun v => v.rest.free) h

theorem quiet_of_pageView {s t : State} (h : pageView t = pageView s) : quiet t = quiet s := by
  have hr := congrArg PageView.rest h
  have hf := congrArg PageView.frame h
  unfold quiet
  rw [show frameRegs t = frameRegs s from hf, srv_of_pageView h]
  exact congrArg (fun r : State => (⟨{ r with ho := .reset, srv := .reset, free := 0 }, s.srv.groups, frameRegs s⟩ : Quiet)) hr

/-- Where the quiet parts stand, only parts that serving may change differ. -/
theorem same_of_quiet {s t : State} (h : (quiet t).rest = (quiet s).rest) :
    SameBut [.regs, .memo, .mem, .cx, .er, .ho, .srv, .free] s t where
  fuse := congrArg (fun v => v.fuse) h
  pending := congrArg (fun v => v.pending) h
  tick := .inl (congrArg (fun v => v.tick) h)
  staged := .inl (congrArg (fun v => v.staged) h)
  core := .inl (congrArg (fun v => v.core) h)
  lmem := .inl (congrArg (fun v => v.core.lmem) h)
  sch := .inl (congrArg (fun v => v.sch) h)
  pkg := .inl (congrArg (fun v => v.pkg) h)
  regs := .inr (by decide)
  memo := .inr (by decide)
  mem := .inr (by decide)
  cx := .inr (by decide)
  er := .inr (by decide)
  ho := .inr (by decide)
  srv := .inr (by decide)
  free := .inr (by decide)

/-- Fewer parts may differ where the count of free values stands. -/
theorem SameBut.of_free {l k : List Part} {s t : State} (h : SameBut l s t) (hf : t.free = s.free)
    (hk : ∀ p, p ∈ l → p ≠ .free → p ∈ k) : SameBut k s t :=
  have hin : ∀ p, p ≠ .free → p ∈ l → p ∈ k := fun p hp hl => hk p hl hp
  ⟨h.fuse, h.pending, h.tick.imp_right (hin _ (by decide)), h.regs.imp_right (hin _ (by decide)),
    h.staged.imp_right (hin _ (by decide)), h.core.imp_right (hin _ (by decide)), h.lmem.imp_right (hin _ (by decide)),
    h.memo.imp_right (hin _ (by decide)), h.mem.imp_right (hin _ (by decide)), h.cx.imp_right (hin _ (by decide)),
    h.er.imp_right (hin _ (by decide)), h.ho.imp_right (hin _ (by decide)), h.sch.imp_right (hin _ (by decide)),
    h.srv.imp_right (hin _ (by decide)), h.pkg.imp_right (hin _ (by decide)), .inl hf⟩

theorem pageView_foldl {α : Type} {g : State → α → State} (hg : ∀ t x, pageView (g t x) = pageView t) (l : List α) (s : State) :
    pageView (l.foldl g s) = pageView s := by
  induction l generalizing s with
  | nil => rfl
  | cons x r ih => exact (ih _).trans (hg s x)

theorem quiet_foldl {α : Type} {g : State → α → State} (hg : ∀ t x, quiet (g t x) = quiet t) (l : List α) (s : State) :
    quiet (l.foldl g s) = quiet s := by
  induction l generalizing s with
  | nil => rfl
  | cons x r ih => exact (ih _).trans (hg s x)

/-! ### Bytes of device memory, and host memory -/

@[simp] theorem cacheView_daWrite (s : State) (da : Nat) (data : List Byte) (bad : List Nat) :
    cacheView (daWrite s da data bad) = cacheView s := by
  have hgo : ∀ k (s : State) da data c, cacheView (daWriteGo bad k s da data c) = cacheView s := by
    intro k
    induction k with
    | zero => intros; rfl
    | succ k ih =>
      intro s da data c
      unfold daWriteGo
      dsimp only
      repeat' split
      all_goals simp [ih]
  exact hgo _ s da data 0

@[simp] theorem frameRegs_daWrite (s : State) (da : Nat) (data : List Byte) (bad : List Nat) :
    frameRegs (daWrite s da data bad) = frameRegs s := by
  have hgo : ∀ k (s : State) da data c, frameRegs (daWriteGo bad k s da data c) = frameRegs s := by
    intro k
    induction k with
    | zero => intros; rfl
    | succ k ih =>
      intro s da data c
      unfold daWriteGo
      dsimp only
      repeat' split
      all_goals simp [ih]
  exact hgo _ s da data 0

@[simp] theorem cacheView_daRead (s : State) (da n : Nat) : cacheView (daRead s da n).2.2 = cacheView s := by
  have hgo : ∀ k (s : State) da, cacheView (daLines k s da).2.2 = cacheView s := by
    intro k
    induction k with
    | zero => intros; rfl
    | succ k ih => intro s da; simp [daLines, ih]
  exact hgo _ s da

@[simp] theorem frameRegs_daRead (s : State) (da n : Nat) : frameRegs (daRead s da n).2.2 = frameRegs s := by
  have hgo : ∀ k (s : State) da, frameRegs (daLines k s da).2.2 = frameRegs s := by
    intro k
    induction k with
    | zero => intros; rfl
    | succ k ih => intro s da; simp [daLines, ih]
  exact hgo _ s da

@[simp] theorem pageView_daWrite (s : State) (da : Nat) (data : List Byte) (bad : List Nat) :
    pageView (daWrite s da data bad) = pageView s := pageView_of_cacheView (by simp) (by simp)

@[simp] theorem pageView_daRead (s : State) (da n : Nat) : pageView (daRead s da n).2.2 = pageView s :=
  pageView_of_cacheView (by simp) (by simp)

@[simp] theorem pageView_pocWrite (s : State) (cell : Nat) (data : List Byte) : pageView (pocWrite s cell data) = pageView s :=
  pageView_of_cacheView (by simp) (by simp)

@[simp] theorem pageView_pocPoison (s : State) (cell : Nat) : pageView (pocPoison s cell) = pageView s :=
  pageView_of_cacheView (by simp) (by simp)

@[simp] theorem pageView_pocRead (s : State) (line : Nat) : pageView (pocRead s line).2 = pageView s :=
  pageView_of_cacheView (by simp) (by simp)

@[simp] theorem pageView_elogAdd (s : State) (e : ElogEntry) : pageView (elogAdd s e) = pageView s :=
  pageView_of_cacheView (by simp) (by simp)

@[simp] theorem pageView_fenivarPoison (s : State) (da : Nat) : pageView (fenivarPoison s da) = pageView s :=
  pageView_elogAdd s _

@[simp] theorem pageView_hostPost (s : State) (fn : Nat) (pasid : Option Nat) (addr : Nat) (data : List Byte) :
    pageView (hostPost s fn pasid addr data) = pageView s := by
  unfold hostPost
  split <;> rfl

@[simp] theorem pageView_hostReadLost (s : State) (fn : Nat) : pageView (hostReadLost s fn) = pageView s := pageView_elogAdd s _

/-! ### Page tables -/

@[simp] theorem pageView_tableMake (s : State) (asid level va : Nat) (g64 : Bool) :
    pageView (tableMake s asid level va g64).2 = pageView s := by simp only [tableMake, pageView_daWrite]

@[simp] theorem pageView_leafTable (asid va : Nat) (big : Bool) (k : Nat) (s : State) (tbl : Nat) (g64 : Bool) :
    pageView (leafTable asid va big k s tbl g64).2 = pageView s := by
  induction k generalizing s tbl g64 with
  | zero => rfl
  | succ level ih =>
    unfold leafTable
    dsimp only
    repeat' split
    all_goals simp [ih, pteWrite]

@[simp] theorem pageView_mapLeaves (s : State) (c : Ctx) (va : Nat) (da : Option Nat) (size : Nat) :
    pageView (mapLeaves s c va da size) = pageView s := by
  unfold mapLeaves
  dsimp only
  repeat' split
  all_goals simp

@[simp] theorem pageView_xinvDrop (s : State) (x : XinvOp) : pageView (xinvDrop s x) = pageView s := rfl

@[simp] theorem pageView_mapPiecesAt (s : State) (b : KvBlock) (on : Bool) : pageView (mapPiecesAt s b on) = pageView s := by
  unfold mapPiecesAt
  split
  · rfl
  · dsimp only
    split
    · exact pageView_foldl (fun t p => pageView_mapLeaves t _ _ _ _) _ s
    · rw [pageView_xinvDrop]
      exact pageView_foldl (fun t p => pageView_mapLeaves t _ _ _ _) _ s

@[simp] theorem pageView_pageUncache (s : State) (pte size : Nat) : pageView (pageUncache s pte size false) = pageView s := by
  refine pageView_foldl (fun t l => ?_) _ s
  split <;> rfl

@[simp] theorem pageView_pageCopy (intlv : Bool) (src dst n : Nat) (s : State) :
    pageView (pageCopy intlv src dst n s) = pageView s := by
  induction n with
  | zero => rfl
  | succ n ih =>
    unfold pageCopy
    dsimp only
    rw [pageView_foldl (fun t c => ?_), pageView_pocRead, ih]
    split <;> simp

@[simp] theorem pageView_copyPage (s : State) (model src dst : Nat) : pageView (copyPage s model src dst) = pageView s := by
  refine pageView_foldl (fun t i => ?_) _ s
  split
  · exact pageView_foldl (fun t p => pageView_pageCopy _ _ _ _ t) _ t
  · rfl

end Sys2Proof.Machine
end

section
/-!
SUPPORT. KV pages, their blocks and copies (R347, R373 to R377): what becomes of the tables of serving.
-/
namespace Sys2Proof.Machine

/-- A state built from another by changing parts that are not among the quiet ones. -/
theorem quiet_of_eq {s t : State} (ht : t = { s with
    memo := t.memo, cx := t.cx, er := t.er, ho := t.ho, srv := t.srv, free := t.free })
    (hg : t.srv.groups = s.srv.groups) : quiet t = quiet s := by
  have hregs : t.regs = s.regs := by rw [ht]
  unfold quiet
  rw [frameRegs_congr hregs, hg, ht]

theorem cx_foldl {α : Type} {g : State → α → State} (hg : ∀ t x, (g t x).cx = t.cx) (l : List α) (s : State) :
    (l.foldl g s).cx = s.cx := by
  induction l generalizing s with
  | nil => rfl
  | cons x r ih => exact (ih _).trans (hg s x)

/-! ### Blocks freed (R375, R377) -/

/-- The entries of every block that no page holds cleared. -/
def unmapGone (s : State) : State :=
  (s.srv.blocks.filter (fun b => !pageLive s b.model b.page)).foldl (fun acc b => mapPiecesAt acc b false) s

theorem pageView_unmapGone (s : State) : pageView (unmapGone s) = pageView s :=
  pageView_foldl (fun t b => pageView_mapPiecesAt t b false) _ s

/-- The blocks that a page holds and the copies that a sequence may want back stay. -/
theorem srv_kvSweep (s : State) : (kvSweep s).srv = { s.srv with
    blocks := s.srv.blocks.filter (fun b => pageLive s b.model b.page)
    copies := s.srv.copies.filter (fun c => s.srv.reqs.any (fun r => r.model == c.model && r.pages.contains c.page)) } := by
  have hsrv : (unmapGone s).srv = s.srv := srv_of_pageView (pageView_unmapGone s)
  unfold unmapGone at hsrv
  unfold kvSweep
  simp only [hsrv]

@[simp] theorem quiet_kvSweep (s : State) : quiet (kvSweep s) = quiet s :=
  have hsrv : quiet (kvSweep s) = quiet (unmapGone s) := quiet_of_eq rfl rfl
  hsrv.trans (quiet_of_pageView (pageView_unmapGone s))

@[simp] theorem free_kvSweep (s : State) : (kvSweep s).free = s.free :=
  show (unmapGone s).free = s.free from free_of_pageView (pageView_unmapGone s)

/-! ### Pages mapped (R347, R373) -/

/-- Picking pieces draws free values alone. -/
theorem pickPieces_eq (n m k : Nat) (s : State) (acc : List Nat) :
    (pickPieces n m k s acc).2 = { s with free := (pickPieces n m k s acc).2.free } := by
  induction k generalizing s acc with
  | zero => rfl
  | succ k ih =>
    unfold pickPieces
    rw [ih]
    rfl

/-- A block of a page of a model in a pool. -/
def IsBlock (m page i : Nat) (b : KvBlock) : Prop := b.model = m ∧ b.page = page ∧ b.pool = i

/-- The pieces of a page picked for one pool, their lines dropped from every tile cache. -/
def piecesPicked (m g : Nat) (s : State) (i : Nat) : State :=
  let p := pickPieces (kvPc m i g) m (kvPs m / pieceBytes m) s []
  p.1.foldl (fun acc da => pageUncache acc da (pieceBytes m) false) p.2

theorem pageView_piecesPicked (m g : Nat) (s : State) (i : Nat) : pageView (piecesPicked m g s i)
    = pageView (pickPieces (kvPc m i g) m (kvPs m / pieceBytes m) s []).2 :=
  pageView_foldl (fun t da => pageView_pageUncache t da _) _ _

/-- The block of a page mapped in one pool. -/
def blockMade (m page g : Nat) (s : State) (i : Nat) : KvBlock :=
  ⟨m, i, page, (pickPieces (kvPc m i g) m (kvPs m / pieceBytes m) s []).1⟩

/-- The pieces picked, with their block on the list. -/
def blockListed (m page g : Nat) (s : State) (i : Nat) : State :=
  { piecesPicked m g s i with
    srv := { (piecesPicked m g s i).srv with blocks := (piecesPicked m g s i).srv.blocks ++ [blockMade m page g s i] } }

theorem pageView_mapPool (m page g : Nat) (s : State) (i : Nat) :
    pageView (mapPool m page g s i) = pageView (blockListed m page g s i) := pageView_mapPiecesAt _ _ _

/-- Of serving, a page mapped in one pool adds its block. -/
theorem srv_mapPool (m page g : Nat) (s : State) (i : Nat) :
    (mapPool m page g s i).srv = { s.srv with blocks := s.srv.blocks ++ [blockMade m page g s i] } := by
  have hpicked : (piecesPicked m g s i).srv = s.srv :=
    (srv_of_pageView (pageView_piecesPicked m g s i)).trans (by rw [pickPieces_eq])
  rw [srv_of_pageView (pageView_mapPool m page g s i)]
  unfold blockListed
  rw [hpicked]

@[simp] theorem quiet_mapPool (m page g : Nat) (s : State) (i : Nat) : quiet (mapPool m page g s i) = quiet s :=
  calc quiet (mapPool m page g s i)
    _ = quiet (blockListed m page g s i) := quiet_of_pageView (pageView_mapPool m page g s i)
    _ = quiet (piecesPicked m g s i) := quiet_of_eq rfl rfl
    _ = quiet (pickPieces (kvPc m i g) m (kvPs m / pieceBytes m) s []).2 := quiet_of_pageView (pageView_piecesPicked m g s i)
    _ = quiet s := by
      rw [pickPieces_eq]
      exact quiet_of_eq rfl rfl

/-- Of serving, a page mapped adds a block in each pool. -/
theorem srv_mapPage (s : State) (m page g : Nat) : ∃ l, (mapPage s m page g).srv = { s.srv with blocks := s.srv.blocks ++ l }
    ∧ ∀ i < (Config.kvPools m).length, ∃ b ∈ l, IsBlock m page i b := by
  have hfold : ∀ (is : List Nat) (s : State), ∃ l, (is.foldl (mapPool m page g) s).srv = { s.srv with blocks := s.srv.blocks ++ l }
      ∧ ∀ i ∈ is, ∃ b ∈ l, IsBlock m page i b := by
    intro is
    induction is with
    | nil => exact fun s => ⟨[], by simp, by simp⟩
    | cons i is ih =>
      intro s
      obtain ⟨l, hl, hmem⟩ := ih (mapPool m page g s i)
      refine ⟨blockMade m page g s i :: l, by simp [hl, srv_mapPool], ?_⟩
      intro j hj
      rcases List.mem_cons.mp hj with rfl | hj
      · exact ⟨_, List.mem_cons_self, rfl, rfl, rfl⟩
      · obtain ⟨c, hc, hcb⟩ := hmem j hj
        exact ⟨c, List.mem_cons_of_mem _ hc, hcb⟩
  obtain ⟨l, hl, hmem⟩ := hfold (List.range (Config.kvPools m).length) s
  exact ⟨l, hl, fun i hi => hmem i (List.mem_range.mpr hi)⟩

@[simp] theorem quiet_mapPage (s : State) (m page g : Nat) : quiet (mapPage s m page g) = quiet s :=
  quiet_foldl (fun t i => quiet_mapPool m page g t i) _ s

@[simp] theorem reqs_mapPage (s : State) (m page g : Nat) : (mapPage s m page g).srv.reqs = s.srv.reqs := by
  obtain ⟨l, hl, -⟩ := srv_mapPage s m page g
  rw [hl]

end Sys2Proof.Machine
end

section
namespace Sys2Proof.Machine

/-! ### Copies to and from the host (R375, R377) -/

theorem same_of_pageView {s t : State} (h : pageView t = pageView s) (hc : t.cx = s.cx) :
    SameBut [.regs, .memo, .mem, .er] s t where
  fuse := congrArg (fun v => v.rest.fuse) h
  pending := congrArg (fun v => v.rest.pending) h
  tick := .inl (congrArg (fun v => v.rest.tick) h)
  staged := .inl (congrArg (fun v => v.rest.staged) h)
  core := .inl (congrArg (fun v => v.rest.core) h)
  lmem := .inl (congrArg (fun v => v.rest.core.lmem) h)
  sch := .inl (congrArg (fun v => v.rest.sch) h)
  pkg := .inl (congrArg (fun v => v.rest.pkg) h)
  ho := .inl (ho_of_pageView h)
  srv := .inl (srv_of_pageView h)
  free := .inl (free_of_pageView h)
  cx := .inl hc
  regs := .inr (by decide)
  memo := .inr (by decide)
  mem := .inr (by decide)
  er := .inr (by decide)

/-- Copying pages changes device and host memory, registers and errors, and of serving the host copies alone. -/
structure CopiesOnly (s t : State) : Prop where
  same : SameBut [.regs, .memo, .mem, .er, .srv] s t
  srv : t.srv = { s.srv with copies := t.srv.copies }

theorem CopiesOnly.refl (s : State) : CopiesOnly s s := ⟨.refl s, rfl⟩

theorem CopiesOnly.trans {a b c : State} (h : CopiesOnly a b) (g : CopiesOnly b c) : CopiesOnly a c :=
  ⟨h.same.trans g.same, by rw [g.srv, h.srv]⟩

theorem CopiesOnly.foldl {α : Type} {g : State → α → State} (hg : ∀ t x, CopiesOnly t (g t x)) (l : List α) (s : State) :
    CopiesOnly s (l.foldl g s) := by
  induction l generalizing s with
  | nil => exact .refl s
  | cons x r ih => exact (hg s x).trans (ih _)

/-- Accesses that list and discard no copies. -/
theorem CopiesOnly.of_pageView {s t : State} (h : pageView t = pageView s) (hc : t.cx = s.cx) : CopiesOnly s t :=
  ⟨(same_of_pageView h hc).mono (by decide), by rw [srv_of_pageView h]⟩

theorem CopiesOnly.set {s t : State} (h : CopiesOnly s t) (l : List KvCopy) :
    CopiesOnly s { t with srv := { t.srv with copies := l } } := by
  refine ⟨same_mk h.same (hsrv := .inr (by decide)), ?_⟩
  rw [h.srv]

theorem CopiesOnly.blockOf {s t : State} (h : CopiesOnly s t) (m i page : Nat) : blockOf t m i page = blockOf s m i page := by
  rw [Machine.blockOf, h.srv, Machine.blockOf]

theorem CopiesOnly.reqs {s t : State} (h : CopiesOnly s t) : t.srv.reqs = s.srv.reqs := by rw [h.srv]

theorem CopiesOnly.ho {s t : State} (h : CopiesOnly s t) : t.ho = s.ho := h.same.ho.resolve_right (by decide)

theorem readBlock_view (size : Nat) (l : List Nat) (s : State) :
    pageView (readBlock size l s).2.2 = pageView s ∧ (readBlock size l s).2.2.cx = s.cx := by
  induction l generalizing s with
  | nil => exact ⟨rfl, rfl⟩
  | cons da r ih =>
    unfold readBlock
    dsimp only
    obtain ⟨hview, hcx⟩ := ih (daRead s da size).2.2
    exact ⟨hview.trans (pageView_daRead s da size), hcx.trans (cx_of_cacheView (cacheView_daRead s da size))⟩

theorem fillBlock_view (size : Nat) (bad : List Nat) (l : List Nat) (s : State) (data : List Byte) (k : Nat) :
    pageView (fillBlock size bad l s data k) = pageView s ∧ (fillBlock size bad l s data k).cx = s.cx := by
  induction l generalizing s data k with
  | nil => exact ⟨rfl, rfl⟩
  | cons da r ih =>
    unfold fillBlock
    dsimp only
    obtain ⟨hview, hcx⟩ := ih
      (daWrite s da (data.take size) ((bad.filter (fun c => decide (k ≤ c) && decide (c < k + size / 32))).map (· - k)))
      (data.drop size) (k + size / 32)
    exact ⟨hview.trans (pageView_daWrite s _ _ _), hcx.trans (cx_of_cacheView (cacheView_daWrite s _ _ _))⟩

/-- A host copy of a page of a model in a pool. -/
def IsCopy (m page i : Nat) (c : KvCopy) : Prop := c.model = m ∧ c.pool = i ∧ c.page = page

/-- A page of one pool copied out: where it has a block and there is a swap area, its copy is listed. -/
theorem swapBlockOut_copies (m page : Nat) (s : State) (i : Nat) : CopiesOnly s (swapBlockOut m page s i)
    ∧ ∃ l, (swapBlockOut m page s i).srv.copies = s.srv.copies ++ l
      ∧ ((blockOf s m i page).isSome = true → s.ho.swap.isSome = true → ∃ c ∈ l, IsCopy m page i c) := by
  unfold swapBlockOut
  split
  · next b a hb ha =>
    extract_lets r at_ s0 s1
    obtain ⟨hread, hreadcx⟩ := readBlock_view (pieceBytes m) b.das s
    have h0 : pageView s0 = pageView s ∧ s0.cx = s.cx := by
      dsimp only [s0]
      split
      · exact ⟨hread, hreadcx⟩
      · exact ⟨(pageView_fenivarPoison _ _).trans hread, (cx_of_cacheView (cacheView_elogAdd _ _)).trans hreadcx⟩
    have h1 : pageView s1 = pageView s ∧ s1.cx = s.cx := by
      refine ⟨(pageView_hostPost s0 _ _ _ _).trans h0.1, Eq.trans ?_ h0.2⟩
      dsimp only [s1, hostPost]
      split <;> rfl
    refine ⟨(CopiesOnly.of_pageView h1.1 h1.2).set _, [⟨m, i, page, at_, r.1, r.2.1⟩], ?_, fun _ _ => ?_⟩
    · rw [srv_of_pageView h1.1]
    · exact ⟨_, List.mem_cons_self, rfl, rfl, rfl⟩
  · next hnone =>
    refine ⟨.refl s, [], by simp, fun hb ha => ?_⟩
    obtain ⟨b, hb⟩ := Option.isSome_iff_exists.mp hb
    obtain ⟨a, ha⟩ := Option.isSome_iff_exists.mp ha
    exact absurd ha (hnone b a hb)

/-- A copy listed stays listed while further ones are made. -/
theorem foldl_lists {α : Type} {g : State → α → State} {P : α → KvCopy → Prop} {Q : α → State → Prop}
    (hcopies : ∀ t x, CopiesOnly t (g t x))
    (hadd : ∀ t x, ∃ l, (g t x).srv.copies = t.srv.copies ++ l ∧ (Q x t → ∃ c ∈ l, P x c))
    (hQ : ∀ s t x, CopiesOnly s t → Q x s → Q x t) (xs : List α) (s : State) :
    ∃ l, (xs.foldl g s).srv.copies = s.srv.copies ++ l ∧ ∀ x ∈ xs, Q x s → ∃ c ∈ l, P x c := by
  induction xs generalizing s with
  | nil => exact ⟨[], by simp, by simp⟩
  | cons x r ih =>
    obtain ⟨l, hl, hx⟩ := hadd s x
    obtain ⟨l', hl', hr⟩ := ih (g s x)
    refine ⟨l ++ l', by simp [hl, hl'], fun y hy hq => ?_⟩
    rcases List.mem_cons.mp hy with rfl | hy
    · obtain ⟨c, hc, hp⟩ := hx hq
      exact ⟨c, List.mem_append_left _ hc, hp⟩
    · obtain ⟨c, hc, hp⟩ := hr y hy (hQ _ _ y (hcopies s x) hq)
      exact ⟨c, List.mem_append_right _ hc, hp⟩

theorem swapPageOut_copiesOnly (m : Nat) (s : State) (page : Nat) : CopiesOnly s (swapPageOut m s page) :=
  .foldl (fun t i => (swapBlockOut_copies m page t i).1) _ s

/-- A page is copied out of every pool in which it has a block. -/
theorem swapPageOut_lists (m : Nat) (s : State) (page : Nat) : ∃ l, (swapPageOut m s page).srv.copies = s.srv.copies ++ l
    ∧ (s.ho.swap.isSome = true → ∀ i < (Config.kvPools m).length, (blockOf s m i page).isSome = true →
        ∃ c ∈ l, IsCopy m page i c) := by
  obtain ⟨l, hl, hout⟩ := foldl_lists (g := swapBlockOut m page) (P := IsCopy m page)
    (Q := fun i t => (blockOf t m i page).isSome = true ∧ t.ho.swap.isSome = true)
    (fun t i => (swapBlockOut_copies m page t i).1)
    (fun t i => by
      obtain ⟨l, hl, hc⟩ := (swapBlockOut_copies m page t i).2
      exact ⟨l, hl, fun h => hc h.1 h.2⟩)
    (fun u t i h hq => by rwa [h.blockOf, h.ho]) (List.range (Config.kvPools m).length) s
  exact ⟨l, hl, fun ha i hi hb => hout i (List.mem_range.mpr hi) ⟨hb, ha⟩⟩

/-- Pages copied out one after another. -/
theorem foldl_swapPageOut (m : Nat) (pages : List Nat) (s : State) : CopiesOnly s (pages.foldl (swapPageOut m) s)
    ∧ (s.ho.swap.isSome = true → ∀ page ∈ pages, ∀ i < (Config.kvPools m).length, (blockOf s m i page).isSome = true →
        ∃ c ∈ (pages.foldl (swapPageOut m) s).srv.copies, IsCopy m page i c) := by
  refine ⟨.foldl (swapPageOut_copiesOnly m) pages s, fun ha page hpage i hi hb => ?_⟩
  obtain ⟨l, hl, hout⟩ := foldl_lists (g := swapPageOut m) (P := fun page c => IsCopy m page i c)
    (Q := fun page t => (blockOf t m i page).isSome = true ∧ t.ho.swap.isSome = true) (swapPageOut_copiesOnly m)
    (fun t page => by
      obtain ⟨l, hl, hc⟩ := swapPageOut_lists m t page
      exact ⟨l, hl, fun h => hc h.2 i hi h.1⟩)
    (fun u t page h hq => by rwa [h.blockOf, h.ho]) pages s
  obtain ⟨c, hc, hcopy⟩ := hout page hpage ⟨hb, ha⟩
  exact ⟨c, by rw [hl]; exact List.mem_append_right _ hc, hcopy⟩

theorem swapBlockIn_copiesOnly (m page : Nat) (s : State) (i : Nat) : CopiesOnly s (swapBlockIn m page s i) := by
  unfold swapBlockIn
  split
  · split
    · exact .of_pageView (pageView_hostReadLost s _) (cx_of_cacheView (cacheView_elogAdd s _))
    · next b c a _ _ _ _ =>
      obtain ⟨hview, hcx⟩ := fillBlock_view (pieceBytes m) c.bad b.das s c.data 0
      exact (CopiesOnly.of_pageView hview hcx).set _
  · exact .refl s

theorem foldl_swapPageIn_copiesOnly (m : Nat) (pages : List Nat) (s : State) : CopiesOnly s (pages.foldl (swapPageIn m) s) :=
  .foldl (fun t page => .foldl (swapBlockIn_copiesOnly m page) _ t) pages s

end Sys2Proof.Machine
end

section
/-!
SUPPORT. Work items for pages copied to and from the host (R375, R546): how one is opened, how it is done, and how it ends with
an error.
-/
namespace Sys2Proof.Machine

/-! ### An item done -/

/-- It leaves the tables of items and the accounts of open ones. -/
theorem jobDone_eq (s : State) (id : Nat) :
    jobDone s id = { s with ho := (jobDone s id).ho, er := (jobDone s id).er } := by
  unfold jobDone
  split
  · split
    · rfl
    · next it _ hj =>
      rw [itemGone_done_cq (Bool.eq_false_iff.mpr hj)]
      rfl
  · rfl

@[simp] theorem quiet_jobDone (s : State) (id : Nat) : quiet (jobDone s id) = quiet s := by
  rw [jobDone_eq]
  exact quiet_of_eq rfl rfl

@[simp] theorem srv_jobDone (s : State) (id : Nat) : (jobDone s id).srv = s.srv := by rw [jobDone_eq]

@[simp] theorem free_jobDone (s : State) (id : Nat) : (jobDone s id).free = s.free := by rw [jobDone_eq]

/-! ### An item opened -/

/-- A record of the journal draws free values and is written to device memory. -/
theorem jrnlWrite_view (s : State) : pageView (jrnlWrite s) = pageView { s with free := (jrnlWrite s).free }
    ∧ (jrnlWrite s).cx = s.cx := by
  unfold jrnlWrite
  split
  · exact ⟨rfl, rfl⟩
  · extract_lets b
    have hview : ∀ (l : List (Nat × Nat)) (t : State),
        pageView (l.foldl (areaWrite (Config.journalLine s.free % 2 ^ 25) b) t) = pageView t
        ∧ (l.foldl (areaWrite (Config.journalLine s.free % 2 ^ 25) b) t).cx = t.cx := by
      intro l
      refine fun t => ⟨pageView_foldl (fun t a => ?_) l t, cx_foldl (fun t a => ?_) l t⟩
      · unfold areaWrite
        split <;> simp
      · unfold areaWrite
        split
        · rfl
        · exact cx_of_cacheView (cacheView_pocWrite t _ _)
    obtain ⟨h, hc⟩ := hview [(0, getF s fJrnlArea0Base pgJrnl), (4, getF s fJrnlArea1Base pgJrnl)] { s with free := s.free + 128 }
    refine ⟨h.trans ?_, hc⟩
    rw [free_of_pageView h]

/-- The item of a system copy (R375), journaled while the journal is enabled. -/
def jobItem (s : State) : Item :=
  ⟨s.ho.nextItem, .system, getB s fJrnlCtrlEnable pgJrnl, 0, 0, [], 0, 0, 0, 0, 0, 0, [], [], [], 0, false, 0, 0, none⟩

/-- An item opened takes the next number; nothing of serving differs. -/
structure JobOpened (s t : State) : Prop where
  same : SameBut [.regs, .memo, .mem, .er, .ho, .free] s t
  next : t.ho.nextItem = s.ho.nextItem + 1
  swap : t.ho.swap = s.ho.swap
  item : ∃ it ∈ t.ho.items, it.id = s.ho.nextItem ∧ it.left = 1

theorem JobOpened.srv {s t : State} (h : JobOpened s t) : t.srv = s.srv := h.same.srv.resolve_right (by decide)

/-- The state with that item on the list. -/
def jobListed (s : State) : State :=
  { s with
    ho := { s.ho with items := s.ho.items ++ [jobItem s], nextItem := s.ho.nextItem + 1 }
    er := { s.er with openItems := if (jobItem s).journaled then s.er.openItems ++ [s.ho.nextItem] else s.er.openItems } }

theorem itemOpen_system (s : State) : itemOpen s .system 0 0 = (s.ho.nextItem,
    if (jobItem s).journaled then jrnlWrite (bumpF (jobListed s) fJrnlAcceptedCount pgJrnl) else jobListed s) := rfl

theorem itemOpen_system_same (s : State) : SameBut [.regs, .memo, .mem, .er, .ho, .free] s (itemOpen s .system 0 0).2
    ∧ (itemOpen s .system 0 0).2.ho = (jobListed s).ho := by
  have hlisted : SameBut [.regs, .memo, .mem, .er, .ho, .free] s (jobListed s) :=
    same_mk (.refl s) (hho := .inr (by decide)) (her := .inr (by decide))
  rw [itemOpen_system]
  dsimp only
  split
  · obtain ⟨hview, hcx⟩ := jrnlWrite_view (bumpF (jobListed s) fJrnlAcceptedCount pgJrnl)
    have hbump : SameBut [.regs, .memo, .mem, .er, .ho, .free] s { bumpF (jobListed s) fJrnlAcceptedCount pgJrnl with
        free := (jrnlWrite (bumpF (jobListed s) fJrnlAcceptedCount pgJrnl)).free } :=
      same_mk hlisted (hregs := .inr (by decide)) (hfree := .inr (by decide))
    exact ⟨hbump.trans ((same_of_pageView hview hcx).mono (by decide)), (ho_of_pageView hview).trans rfl⟩
  · exact ⟨hlisted, rfl⟩

theorem jobOpen_fst (s : State) : (jobOpen s).1 = s.ho.nextItem := by
  unfold jobOpen
  dsimp only
  split <;> rfl

theorem jobOpen_opened (s : State) : JobOpened s (jobOpen s).2 := by
  obtain ⟨hsame, hho⟩ := itemOpen_system_same s
  have hid : (itemOpen s .system 0 0).1 = s.ho.nextItem := rfl
  obtain ⟨it, hit⟩ : ∃ it, getItem (itemOpen s .system 0 0).2 s.ho.nextItem = some it := by
    unfold getItem
    rw [hho, ← Option.isSome_iff_exists, List.find?_isSome]
    exact ⟨jobItem s, by simp [jobListed], by simp [jobItem]⟩
  have hitid : it.id = s.ho.nextItem := id_of_getItem hit
  unfold jobOpen
  dsimp only
  rw [hid, hit]
  dsimp only
  refine ⟨hsame.trans (same_mk (.refl _) (hho := .inr (by decide))), ?_, ?_, { it with left := 1 }, ?_, hitid, rfl⟩
  · show (itemOpen s .system 0 0).2.ho.nextItem = _
    rw [hho]
    rfl
  · show (itemOpen s .system 0 0).2.ho.swap = _
    rw [hho]
    rfl
  · exact List.mem_map.mpr ⟨it, List.mem_of_find?_eq_some hit, by simp⟩

/-! ### An item that ends with an error -/

/-- What the end of an item leaves alone. -/
def itemView (s : State) : State :=
  { s with
    regs := [], memo := .reset, er := .reset, pkg := .reset
    srv := { s.srv with groups := [] }
    ho := { HostSt.reset with nextItem := s.ho.nextItem } }

theorem itemView_elogAdd (s : State) (e : ElogEntry) : itemView (elogAdd s e) = itemView s := by
  have h : itemView (cacheView (elogAdd s e)).rest = itemView (cacheView s).rest := by rw [cacheView_elogAdd]
  exact h

theorem itemView_cqPlace (s : State) (id : Nat) (r : CqRec) : itemView (cqPlace s id r) = itemView s := by
  unfold cqPlace
  split <;> rfl

theorem itemView_itemBad (s : State) (it : Item) (code : Nat) : itemView (itemBad s it code) = itemView s := by
  unfold itemBad
  dsimp only
  split
  · exact itemView_elogAdd _ _
  · rfl

theorem itemView_itemGone (s : State) (it : Item) (code : Nat) : itemView (itemGone s it code) = itemView s := by
  unfold itemGone
  extract_lets s0 er ho s1 s2
  have h0 : itemView s0 = itemView s := by
    dsimp only [s0]
    split
    · rfl
    · exact itemView_itemBad s it code
  have h1 : itemView s1 = itemView s := h0
  have h2 : itemView s2 = itemView s := by
    dsimp only [s2]
    repeat' split
    · exact h1
    · exact (itemView_cqPlace s1 it.id _).trans h1
    · exact h1
  repeat' split
  all_goals exact h2

theorem itemView_itemError (s : State) (id code engine core span addr : Nat) :
    itemView (itemError s id code engine core span addr) = itemView s := by
  unfold itemError
  split
  · rfl
  · exact (itemView_itemGone _ _ _).trans rfl

theorem same_of_itemView {s t : State} (h : itemView t = itemView s) : SameBut [.regs, .memo, .mem, .er, .ho, .srv, .pkg] s t where
  fuse := congrArg (fun v => v.fuse) h
  pending := congrArg (fun v => v.pending) h
  tick := .inl (congrArg (fun v => v.tick) h)
  staged := .inl (congrArg (fun v => v.staged) h)
  core := .inl (congrArg (fun v => v.core) h)
  lmem := .inl (congrArg (fun v => v.core.lmem) h)
  sch := .inl (congrArg (fun v => v.sch) h)
  cx := .inl (congrArg (fun v => v.cx) h)
  free := .inl (congrArg (fun v => v.free) h)
  pkg := .inr (by decide)
  ho := .inr (by decide)
  srv := .inr (by decide)
  regs := .inr (by decide)
  memo := .inr (by decide)
  mem := .inr (by decide)
  er := .inr (by decide)

theorem nextItem_of_itemView {s t : State} (h : itemView t = itemView s) : t.ho.nextItem = s.ho.nextItem :=
  congrArg (fun v => v.ho.nextItem) h

/-- Requests, blocks and copies stand. -/
theorem tables_of_itemView {s t : State} (h : itemView t = itemView s) :
    t.srv.reqs = s.srv.reqs ∧ t.srv.blocks = s.srv.blocks ∧ t.srv.copies = s.srv.copies :=
  ⟨congrArg (fun v => v.srv.reqs) h, congrArg (fun v => v.srv.blocks) h, congrArg (fun v => v.srv.copies) h⟩

end Sys2Proof.Machine
end

section
/-!
SUPPORT. Requests (R436, R437, R440): how a table of requests is read after one is replaced, and what preparing a step, finding
pages for it and ending requests can do to the table.
-/
namespace Sys2Proof.Machine

/-! ### The table of requests -/

theorem idx_of_getReq {s : State} {idx : Nat} {r : Req} (h : getReq s idx = some r) : r.idx = idx := by
  simpa using List.find?_some h

theorem mem_of_getReq {s : State} {idx : Nat} {r : Req} (h : getReq s idx = some r) : r ∈ s.srv.reqs :=
  List.mem_of_find?_eq_some h

theorem getReq_congr {s t : State} (h : t.srv.reqs = s.srv.reqs) (idx : Nat) : getReq t idx = getReq s idx := by
  unfold getReq
  rw [h]

theorem getReq_eq_none {s : State} {idx : Nat} : getReq s idx = none ↔ ∀ r ∈ s.srv.reqs, r.idx ≠ idx := by
  simp [getReq]

theorem getReq_putReq {s : State} {r r₀ : Req} (h : getReq s r.idx = some r₀) : getReq (putReq s r) r.idx = some r := by
  have hp : ((fun x : Req => x.idx == r.idx) ∘ fun x => if x.idx == r.idx then r else x) = fun x => x.idx == r.idx := by
    funext x
    by_cases hx : x.idx = r.idx <;> simp [hx]
  have hid : r₀.idx = r.idx := idx_of_getReq h
  unfold getReq at h ⊢
  simp only [putReq, List.find?_map, hp, h, Option.map_some]
  simp [hid]

theorem getReq_putReq_ne {s : State} {r : Req} {j : Nat} (h : j ≠ r.idx) : getReq (putReq s r) j = getReq s j := by
  have hp : ((fun x : Req => x.idx == j) ∘ fun x => if x.idx == r.idx then r else x) = fun x => x.idx == j := by
    funext x
    by_cases hx : x.idx = r.idx
    · simp [hx]
    · simp [hx]
  have hmap : ∀ o : Option Req, (∀ x, o = some x → x.idx = j) → o.map (fun x => if x.idx == r.idx then r else x) = o := by
    intro o ho
    cases o with
    | none => rfl
    | some x => simp [ho x rfl, h]
  unfold getReq
  simp only [putReq, List.find?_map, hp]
  exact hmap _ (fun x hx => idx_of_getReq hx)

/-! ### What may become of a request -/

/-- A request goes back to an earlier one of its index: one that waits or is in its prompt was so before; and where `tokens`
says so, its tokens are as they were. -/
structure Follows (tokens : Bool) (r₀ r : Req) : Prop where
  idx : r₀.idx = r.idx
  waits : r.st = .queued ∨ r.st = .prompt → r₀.st = r.st
  count : tokens = true → r₀.made = r.made ∧ r₀.len = r.len ∧ r₀.fed = r.fed

theorem Follows.refl (tokens : Bool) (r : Req) : Follows tokens r r := ⟨rfl, fun _ => rfl, fun _ => ⟨rfl, rfl, rfl⟩⟩

theorem Follows.trans {tokens : Bool} {a b c : Req} (h : Follows tokens a b) (g : Follows tokens b c) : Follows tokens a c where
  idx := h.idx.trans g.idx
  waits hc := by
    have hb := g.waits hc
    rw [← hb] at hc ⊢
    exact h.waits hc
  count ht := by
    obtain ⟨hmade, hlen, hfed⟩ := h.count ht
    obtain ⟨gmade, glen, gfed⟩ := g.count ht
    exact ⟨hmade.trans gmade, hlen.trans glen, hfed.trans gfed⟩

/-- Between two states only parts that serving may change differ, the groups stand, and each request goes back to an earlier
one. -/
structure Serves (tokens : Bool) (s t : State) : Prop where
  quiet : Machine.quiet t = Machine.quiet s
  reqs : ∀ r ∈ t.srv.reqs, ∃ r₀ ∈ s.srv.reqs, Follows tokens r₀ r

variable {tokens : Bool}

theorem Serves.of_reqs {s t : State} (hq : Machine.quiet t = Machine.quiet s) (hr : t.srv.reqs = s.srv.reqs) :
    Serves tokens s t := ⟨hq, fun r hm => ⟨r, hr ▸ hm, .refl _ r⟩⟩

theorem Serves.refl (s : State) : Serves tokens s s := .of_reqs rfl rfl

theorem Serves.trans {a b c : State} (h : Serves tokens a b) (g : Serves tokens b c) : Serves tokens a c where
  quiet := g.quiet.trans h.quiet
  reqs r hr := by
    obtain ⟨r₁, hr₁, h₁⟩ := g.reqs r hr
    obtain ⟨r₀, hr₀, h₀⟩ := h.reqs r₁ hr₁
    exact ⟨r₀, hr₀, h₀.trans h₁⟩

theorem Serves.weaken {s t : State} (h : Serves true s t) : Serves tokens s t :=
  ⟨h.quiet, fun r hr => by
    obtain ⟨r₀, hr₀, h₀⟩ := h.reqs r hr
    exact ⟨r₀, hr₀, h₀.idx, h₀.waits, fun _ => h₀.count rfl⟩⟩

/-- A fold whose accumulator carries the state in its component `p`. -/
theorem Serves.foldl_at {α β : Type} (p : β → State) {g : β → α → β} (hg : ∀ b x, Serves tokens (p b) (p (g b x)))
    (l : List α) (b : β) : Serves tokens (p b) (p (l.foldl g b)) := by
  induction l generalizing b with
  | nil => exact .refl _
  | cons x r ih => exact (hg b x).trans (ih _)

theorem Serves.foldl {α : Type} {g : State → α → State} (hg : ∀ t x, Serves tokens t (g t x)) (l : List α) (s : State) :
    Serves tokens s (l.foldl g s) := .foldl_at id hg l s

theorem quiet_putReq (s : State) (r : Req) : quiet (putReq s r) = quiet s := quiet_of_eq rfl rfl

/-- A request replaced by one that goes back to one of an earlier state. -/
theorem Serves.putReq {s₀ s : State} (h : Serves tokens s₀ s) {r : Req} (hr : ∃ r₀ ∈ s₀.srv.reqs, Follows tokens r₀ r) :
    Serves tokens s₀ (putReq s r) where
  quiet := (quiet_putReq s r).trans h.quiet
  reqs x hx := by
    obtain ⟨y, hy, rfl⟩ := List.mem_map.mp hx
    split
    · exact hr
    · exact h.reqs y hy

/-- A request that has left does not come back. -/
theorem Serves.getReq_none {s t : State} (h : Serves tokens s t) {idx : Nat} (hn : getReq s idx = none) : getReq t idx = none := by
  rw [getReq_eq_none] at hn ⊢
  intro r hr
  obtain ⟨r₀, hr₀, hf⟩ := h.reqs r hr
  rw [← hf.idx]
  exact hn r₀ hr₀

/-! ### Ends (R437, R444, R445) -/

theorem reqs_kvSweep (s : State) : (kvSweep s).srv.reqs = s.srv.reqs := by rw [srv_kvSweep]

theorem Serves.kvSweep (s : State) : Serves tokens s (kvSweep s) := .of_reqs (quiet_kvSweep s) (reqs_kvSweep s)

theorem Serves.endReq (s : State) (r : Req) (status : Nat) : Serves tokens s (endReq s r status) := by
  have hleft : Serves tokens s { jobDone s r.job with
      srv := { (jobDone s r.job).srv with reqs := (jobDone s r.job).srv.reqs.filter (fun x => x.idx ≠ r.idx) } } := by
    refine ⟨?_, fun x hx => ⟨x, ?_, .refl _ x⟩⟩
    · exact Eq.trans (quiet_of_eq (s := jobDone s r.job) rfl rfl) (quiet_jobDone s r.job)
    · rw [← srv_jobDone s r.job]
      exact (List.mem_filter.mp hx).1
  have hswept : Serves tokens _ (sweepAdapters (sweepPrefixes
      { cqPush (jobDone s r.job) (endRec r status) with
        srv := { (jobDone s r.job).srv with reqs := (jobDone s r.job).srv.reqs.filter (fun x => x.idx ≠ r.idx) } })) :=
    hleft.trans (.of_reqs (quiet_of_eq rfl rfl) rfl)
  exact hswept.trans (.kvSweep _)

theorem getReq_endReq (s : State) (r : Req) (status : Nat) : getReq (endReq s r status) r.idx = none := by
  rw [getReq_eq_none]
  unfold Machine.endReq
  rw [reqs_kvSweep]
  intro x hx
  simpa using (List.mem_filter.mp hx).2

theorem Serves.endIdx (s : State) (idx status : Nat) : Serves tokens s (endIdx s idx status) := by
  unfold Machine.endIdx
  split
  · exact .endReq s _ status
  · exact .refl s

theorem getReq_endIdx (s : State) (idx status : Nat) : getReq (endIdx s idx status) idx = none := by
  unfold Machine.endIdx
  split
  · next r hr =>
    rw [← idx_of_getReq hr]
    exact getReq_endReq s r status
  · assumption

/-- Requests ended one after another are gone. -/
theorem getReq_foldl_endIdx {α : Type} (f : α → Nat) (status : Nat) (l : List α) (s : State) :
    ∀ x ∈ l, getReq (l.foldl (fun acc y => endIdx acc (f y) status) s) (f x) = none :=
  foldl_establishes (P := fun x t => getReq t (f x) = none)
    (fun t x _ h => (Serves.endIdx (tokens := true) t (f x) status).getReq_none h)
    (fun t x => getReq_endIdx t (f x) status) l s

/-! ### Pages for a request (R362, R373, R374) -/

/-- A request pre-empted leaves the batch, or ends; one that waits or is in its prompt stays so (R374, R375). -/
theorem Serves.preempt {s : State} {r : Req} (hr : r ∈ s.srv.reqs) : Serves tokens s (preempt s r) := by
  unfold Machine.preempt
  split
  · refine (Serves.refl s).putReq ⟨r, hr, rfl, fun hw => ?_, fun _ => ⟨rfl, rfl, rfl⟩⟩
    cases hst : r.st <;> simp_all
  · exact .endReq s r 3

theorem victimOf_mem {l : List Req} {a b : Req} (ha : a ∈ l) (hb : b ∈ l) : victimOf a b ∈ l := by
  unfold victimOf
  split
  · exact hb
  · exact ha

theorem victimFor_mem {s : State} {need v : Req} (h : victimFor s need = some v) : v ∈ s.srv.reqs := by
  have hfold : ∀ (m l : List Req) (x : Req), x ∈ m → (∀ y ∈ l, y ∈ m) → l.foldl victimOf x ∈ m := by
    intro m l
    induction l with
    | nil => exact fun x hx _ => hx
    | cons y l ih =>
      exact fun x hx hl => ih _ (victimOf_mem hx (hl y List.mem_cons_self)) (fun z hz => hl z (List.mem_cons_of_mem _ hz))
  unfold victimFor at h
  split at h
  · cases h
  · next x l hl =>
    cases h
    have hmem : ∀ y ∈ x :: l, y ∈ s.srv.reqs := fun y hy => (List.mem_filter.mp (hl ▸ hy)).1
    exact hfold _ l x (hmem x List.mem_cons_self) (fun y hy => hmem y (List.mem_cons_of_mem _ hy))

/-- Drawing a free value. -/
theorem Serves.freeWord (s : State) : Serves tokens s (freeWord s).2 := .of_reqs (quiet_of_eq rfl rfl) rfl

theorem Serves.pickFree (s : State) (n : Nat) (taken : List Nat) : Serves tokens s (pickFree s n taken).2 := .freeWord s

theorem Serves.mapPage (s : State) (m page g : Nat) : Serves tokens s (mapPage s m page g) :=
  .of_reqs (quiet_mapPage s m page g) (reqs_mapPage s m page g)

theorem Serves.allocPage (idx g k : Nat) (s : State) : Serves tokens s (allocPage idx g k s).2 := by
  induction k generalizing s with
  | zero => exact .refl s
  | succ k ih =>
    unfold Machine.allocPage
    split
    · exact .refl s
    · next r hr =>
      split
      · exact (Serves.pickFree s (kvPages r.model) (pagesUsed s r.model)).trans (Serves.mapPage _ _ _ _)
      · split
        · next h _ =>
          have hprefix : Serves tokens s { s with srv := { s.srv with prefixes := del s.srv.prefixes h } } :=
            .of_reqs (quiet_of_eq rfl rfl) rfl
          exact (hprefix.trans (.kvSweep _)).trans (ih _)
        · split
          · next v hv => exact (Serves.preempt (victimFor_mem hv)).trans (ih _)
          · exact .preempt (mem_of_getReq hr)

theorem Serves.growPages (idx n k : Nat) (s : State) : Serves tokens s (growPages idx n k s) := by
  induction k generalizing s with
  | zero => exact .refl s
  | succ k ih =>
    unfold Machine.growPages
    split
    · exact .refl s
    · next r hr =>
      split
      · exact .refl s
      · extract_lets a
        have ha : Serves tokens s a.2 := .allocPage _ _ _ s
        split
        · next p r1 _ hr1 =>
          refine (ha.trans ((Serves.refl a.2).putReq ?_)).trans (ih _)
          exact ⟨r1, mem_of_getReq hr1, rfl, fun _ => rfl, fun _ => ⟨rfl, rfl, rfl⟩⟩
        · exact ha

theorem Serves.copyPage (s : State) (m src dst : Nat) : Serves tokens s (copyPage s m src dst) :=
  have hview := pageView_copyPage s m src dst
  .of_reqs (quiet_of_pageView hview) (by rw [srv_of_pageView hview])

theorem Serves.unshare (idx : Nat) (s : State) (g : Nat) : Serves tokens s (unshare idx s g) := by
  unfold Machine.unshare
  split
  · exact .refl s
  · extract_lets p a
    split
    · have ha : Serves tokens s a.2 := .allocPage _ _ _ s
      split
      · next q r1 _ hr1 =>
        exact ha.trans ((Serves.copyPage a.2 _ _ _).putReq ⟨r1, mem_of_getReq hr1, rfl, fun _ => rfl, fun _ => ⟨rfl, rfl, rfl⟩⟩)
      · exact ha
    · exact .refl s

theorem Serves.roomFor (s : State) (idx last : Nat) : Serves tokens s (roomFor s idx last) := by
  unfold Machine.roomFor
  split
  · exact .refl s
  · exact (Serves.growPages _ _ _ s).trans (.foldl (Serves.unshare idx) _ _)

/-! ### Results delivered (R437, R439, R440, R445) -/

theorem Serves.readResult (s : State) (g slot frame : Nat) : Serves tokens s (readResult s g slot frame).2.2 := by
  unfold Machine.readResult
  extract_lets da r
  have hview : pageView r.2.2 = pageView s := pageView_daRead s da 32
  have hread : Serves tokens s r.2.2 := .of_reqs (quiet_of_pageView hview) (by rw [srv_of_pageView hview])
  split
  · exact hread
  · have hlog := pageView_fenivarPoison r.2.2 da
    have hlogged : Serves tokens r.2.2 (fenivarPoison r.2.2 da) := .of_reqs (quiet_of_pageView hlog) (by rw [srv_of_pageView hlog])
    exact (hread.trans hlogged).trans (.freeWord _)

theorem Serves.deliverToken (s : State) (r : Req) (token handle : Nat) (late : Bool) :
    Serves tokens s (deliverToken s r token handle late) := by
  unfold Machine.deliverToken hostPost
  split <;> exact .of_reqs (quiet_of_eq rfl rfl) rfl

/-- Pages kept for others are marked as shared in the request (R445). -/
theorem Serves.keepPrefix {s₀ s : State} (hs : Serves tokens s₀ s) {r : Req} (hr : ∃ r₀ ∈ s₀.srv.reqs, Follows tokens r₀ r) :
    Serves tokens s₀ (keepPrefix s r).2 := by
  unfold Machine.keepPrefix
  extract_lets n h pg p
  split
  · exact hs
  · have hkept : Serves tokens s { h.2 with srv := { h.2.srv with prefixes := put h.2.srv.prefixes h.1 p } } :=
      (Serves.pickFree s _ _).trans (.of_reqs (quiet_of_eq rfl rfl) rfl)
    obtain ⟨r₀, hr₀, hf⟩ := hr
    exact (hs.trans hkept).putReq ⟨r₀, hr₀, hf.idx, hf.waits, hf.count⟩

theorem Serves.deliverGen (g frame at_ : Nat) (acc : State × List (Nat × Nat)) (x : Nat × Nat × Nat × Bool) :
    Serves false acc.1 (deliverGen g frame at_ acc x).1 := by
  unfold Machine.deliverGen
  split
  · exact .refl _
  · next r hr =>
    extract_lets res late s1 r1
    have h1 : Serves false acc.1 s1 := (Serves.readResult acc.1 g x.1 frame).trans (.deliverToken _ _ _ _ _)
    exact h1.putReq ⟨r, mem_of_getReq hr, rfl, fun _ => rfl, fun h => absurd h (by decide)⟩

theorem Serves.deliverFill (g frame at_ : Nat) (acc : State × List (Nat × Nat)) (x : Nat × Nat × Nat × Bool) :
    Serves false acc.1 (deliverFill g frame at_ acc x).1 := by
  unfold Machine.deliverFill
  split
  · exact .refl _
  · next r hr =>
    extract_lets late r0 res k r1 s1 r2
    have hr0 : ∃ q ∈ acc.1.srv.reqs, Follows false q r0 :=
      ⟨r, mem_of_getReq hr, rfl, fun _ => rfl, fun h => absurd h (by decide)⟩
    split
    · exact (Serves.refl acc.1).putReq hr0
    · have hk : Serves false acc.1 k.2 := ((Serves.readResult acc.1 g x.1 frame).putReq hr0).keepPrefix hr0
      have hr1 : ∃ q ∈ acc.1.srv.reqs, Follows false q r1 := by
        cases hget : getReq k.2 r.idx with
        | none => simpa only [r1, hget, Option.getD_none] using hr0
        | some q => simpa only [r1, hget, Option.getD_some] using hk.reqs q (mem_of_getReq hget)
      obtain ⟨q, hq, hf⟩ := hr1
      exact (hk.trans (.deliverToken _ _ _ _ _)).putReq
        ⟨q, hq, hf.idx, (fun hw => by rcases hw with hw | hw <;> cases hw), fun h => absurd h (by decide)⟩

/-- A step delivered: its requests may have made tokens or have ended (R440). -/
theorem Serves.deliverStep (g : Nat) (x : Group) (s : State) : Serves false s (deliverStep g x s) := by
  unfold Machine.deliverStep
  split
  · exact .foldl (fun t y => .endIdx t _ _) _ s
  · split
    · exact .refl s
    · dsimp only
      refine Serves.trans ?_ (.foldl (fun t y => .endIdx t _ _) _ _)
      refine Serves.foldl_at Prod.fst (fun b y => ?_) x.step (s, [])
      split
      · exact .deliverGen g _ _ b y
      · exact .deliverFill g _ _ b y

/-- A step with a failed item, or one that has not run whole, gives no token (R437, R440). -/
theorem Serves.deliverStep_of_failed {g : Nat} {x : Group} (s : State) (h : x.err = true ∨ stepRan x = false) :
    Serves true s (Machine.deliverStep g x s) := by
  unfold Machine.deliverStep
  split
  · exact .foldl (fun t y => .endIdx t _ _) _ s
  · next herr => rw [if_pos (by simpa [herr] using h)]; exact .refl s

/-- Every request of a step with a failed item ends (R437). -/
theorem getReq_deliverStep_of_err {g : Nat} {x : Group} (s : State) (h : x.err = true) :
    ∀ z ∈ x.step, getReq (deliverStep g x s) z.2.1 = none := by
  unfold Machine.deliverStep
  rw [if_pos h]
  exact getReq_foldl_endIdx (fun z : Nat × Nat × Nat × Bool => z.2.1) 0xA x.step s

/-! ### Requests that end or join between steps (R440, R443, R446, R447) -/

theorem Serves.endWaiters (g : Nat) (x : Group) (s : State) : Serves tokens s (endWaiters g x s) := by
  refine Serves.foldl (fun t r => ?_) s.srv.reqs s
  split
  · exact .refl t
  · split
    · exact .endIdx t _ _
    · exact .refl t

theorem reqInsert_mem {r y : Req} {l : List Req} (h : y ∈ reqInsert r l) : y = r ∨ y ∈ l := by
  induction l with
  | nil => simpa [reqInsert] using h
  | cons x l ih =>
    unfold reqInsert at h
    split at h
    · simpa using h
    · rcases List.mem_cons.mp h with rfl | h
      · exact .inr List.mem_cons_self
      · exact (ih h).imp_right (List.mem_cons_of_mem _)

theorem reqSort_mem {y : Req} {l : List Req} (h : y ∈ reqSort l) : y ∈ l := by
  induction l with
  | nil => exact h
  | cons x l ih =>
    rcases reqInsert_mem (h : y ∈ reqInsert x (reqSort l)) with rfl | h
    · exact List.mem_cons_self
    · exact List.mem_cons_of_mem _ (ih h)

/-- READY sequences taken into free slots (R440). -/
theorem Serves.takeIns (g : Nat) (x : Group) {l : List Req} {s₀ s : State} (hs : Serves tokens s₀ s)
    (hl : ∀ r ∈ l, r ∈ s₀.srv.reqs) : Serves tokens s₀ (l.foldl (takeIn g x) s) := by
  induction l generalizing s with
  | nil => exact hs
  | cons r l ih =>
    refine ih ?_ (fun q hq => hl q (List.mem_cons_of_mem _ hq))
    unfold takeIn
    split
    · exact hs.putReq ⟨r, hl r List.mem_cons_self, rfl, (fun hw => by rcases hw with hw | hw <;> cases hw), fun _ => ⟨rfl, rfl, rfl⟩⟩
    · exact hs

end Sys2Proof.Machine
end

section
/-!
SUPPORT. Preparing a step (R424, R438, R440, R441): what is armed, which sequences a step holds, and what of the package a
preparation leaves alone.
-/
namespace Sys2Proof.Machine

/-! ### Arm bits (R424) -/

theorem bitAt_eq_bits (v i : Nat) : bitAt v i = (bits v i 1 == 1) := by simp [bitAt, bits]

theorem bitAt_setBits_self (v i : Nat) : bitAt (setBits v i 1 1) i = true := by
  rw [bitAt_eq_bits, bits_setBits]
  rfl

theorem bitAt_setBits_ne (v x : Nat) {i j : Nat} (h : j ≠ i) : bitAt (setBits v i 1 x) j = bitAt v j := by
  rw [bitAt_eq_bits, bitAt_eq_bits]
  rcases Nat.lt_or_gt_of_ne h with hlt | hgt
  · rw [bits_setBits_below hlt]
  · rw [bits_setBits_above hgt]

theorem getF_setArmed (s : State) (span idx : Nat) (b : Bool) :
    getF (setArmed s span idx b) fSchedArmArm (pgSched span) (idx / 64)
      = setBits (getF s fSchedArmArm (pgSched span) (idx / 64)) (idx % 64) 1 (if b then 1 else 0) := by
  have hlt : getF s fSchedArmArm (pgSched span) (idx / 64) < 2 ^ 64 := getF_lt s fSchedArmArm _ _
  unfold setArmed
  rw [getF_setF _ _ _ _ _ (by decide)]
  exact Nat.mod_eq_of_lt (setBits_lt hlt (Nat.mod_lt idx (by decide)))

theorem entryArmed_setArmed (s : State) (span idx : Nat) : entryArmed (setArmed s span idx true) span idx = true := by
  unfold entryArmed
  rw [getF_setArmed]
  exact bitAt_setBits_self _ _

/-- Arming an entry disarms none. -/
theorem entryArmed_setArmed_of {s : State} {span idx sp i : Nat} (h : entryArmed s sp i = true) :
    entryArmed (setArmed s span idx true) sp i = true := by
  by_cases hreg : (pgSched sp, i / 64) = (pgSched span, idx / 64)
  · obtain ⟨hpg, hword⟩ := Prod.mk.inj hreg
    unfold entryArmed at h ⊢
    rw [hpg, hword] at h ⊢
    rw [getF_setArmed]
    by_cases hbit : i % 64 = idx % 64
    · rw [hbit]
      exact bitAt_setBits_self _ _
    · rw [bitAt_setBits_ne _ _ hbit, h]
  · unfold entryArmed setArmed at *
    rw [getF_setF_ne (fun e => hreg (by simpa using e)), h]

theorem foldl_setArmed_regs (es : List (Nat × Nat)) (s : State) :
    es.foldl (fun acc e => setArmed acc e.1 e.2 true) s
      = { s with regs := (es.foldl (fun acc e => setArmed acc e.1 e.2 true) s).regs } := by
  induction es generalizing s with
  | nil => rfl
  | cons e es ih =>
    rw [List.foldl_cons, ih]
    rfl

/-- Whether an entry is armed, as a property of the entry. -/
def IsArmed (e : Nat × Nat) (s : State) : Prop := entryArmed s e.1 e.2 = true

/-- An entry armed. -/
def setArmedOn (s : State) (e : Nat × Nat) : State := setArmed s e.1 e.2 true

theorem isArmed_setArmedOn_of {s : State} {x y : Nat × Nat} (h : IsArmed y s) : IsArmed y (setArmedOn s x) :=
  entryArmed_setArmed_of h

theorem isArmed_setArmedOn (s : State) (x : Nat × Nat) : IsArmed x (setArmedOn s x) := entryArmed_setArmed s x.1 x.2

/-- Entries armed one after another are all armed. -/
theorem entryArmed_foldl_setArmed (es : List (Nat × Nat)) (s : State) :
    ∀ e ∈ es, entryArmed (es.foldl (fun acc e => setArmed acc e.1 e.2 true) s) e.1 e.2 = true :=
  foldl_establishes (P := IsArmed) (g := setArmedOn) (fun _ _ _ => isArmed_setArmedOn_of) isArmed_setArmedOn es s

/-! ### Groups, their entries and the frame a preparation serves (R440) -/

theorem find?_put_ne {κ ν : Type} [DecidableEq κ] (l : List (κ × ν)) (v : ν) {k j : κ} (h : j ≠ k) :
    (put l k v).find? (fun p => p.1 = j) = l.find? (fun p => p.1 = j) := by
  induction l with
  | nil => simp [put, Ne.symm h]
  | cons p r ih =>
    unfold put
    split
    · next hp => simp [hp, Ne.symm h]
    · simp only [List.find?_cons, ih]

theorem getGroup_putGroup (s : State) (g : Nat) (x : Group) : getGroup (putGroup s g x) g = some x := by
  unfold getGroup putGroup
  simp [find?_put]

theorem getGroup_putGroup_ne (s : State) {g h : Nat} (x : Group) (hne : h ≠ g) : getGroup (putGroup s g x) h = getGroup s h := by
  unfold getGroup putGroup
  simp only [find?_put_ne _ _ hne]

theorem groupEntries_congr {s t : State} (hp : t.pkg = s.pkg) (hs : t.sch = s.sch) (g : Nat) (gen : Bool) :
    groupEntries t g gen = groupEntries s g gen := by
  unfold groupEntries schedSpans spanDown getSched
  rw [hp, hs]

theorem targetFrame_congr {s t : State} (hs : t.sch = s.sch) (hf : frameRegs t = frameRegs s) (es : List (Nat × Nat)) :
    targetFrame t es = targetFrame s es := by
  have hstatus : rdR t .frameStatus = rdR s .frameStatus := congrArg FrameRegs.status hf
  have hwork : rdR t .frameWork = rdR s .frameWork := congrArg FrameRegs.work hf
  have h1 : ∀ f : RField, f.reg = .frameStatus → getF t f pgFrame = getF s f pgFrame := fun f hf => by
    unfold getF; rw [hf, hstatus]
  have h2 : getF t fFrameWorkValue pgFrame = getF s fFrameWorkValue pgFrame := by
    unfold getF; rw [show fFrameWorkValue.reg = .frameWork from rfl, hwork]
  unfold targetFrame inWorkFrame frameRunning entrySeen getSched getB
  rw [hs, h1 _ rfl, h1 _ rfl, h2]

theorem entryArmed_congr {s t : State} (hf : frameRegs t = frameRegs s) (span idx : Nat) :
    entryArmed t span idx = entryArmed s span idx := by
  have harm : rdR t .schedArm = rdR s .schedArm := congrArg FrameRegs.arm hf
  unfold entryArmed getF
  rw [show fSchedArmArm.reg = .schedArm from rfl, harm]

/-! ### What a preparation leaves alone -/

/-- Between two states of a preparation of a group only parts that serving may change differ, every other group stands, and
each request goes back to an earlier one. -/
structure Prepares (tokens : Bool) (g : Nat) (s t : State) : Prop where
  rest : (quiet t).rest = (quiet s).rest
  frame : frameRegs t = frameRegs s
  others : ∀ h, h ≠ g → getGroup t h = getGroup s h
  reqs : ∀ r ∈ t.srv.reqs, ∃ r₀ ∈ s.srv.reqs, Follows tokens r₀ r

variable {tokens : Bool} {g : Nat}

theorem Prepares.of_serves {s t : State} (h : Serves tokens s t) : Prepares tokens g s t where
  rest := congrArg Quiet.rest h.quiet
  frame := congrArg Quiet.frame h.quiet
  others j _ := by
    have hg : t.srv.groups = s.srv.groups := congrArg Quiet.groups h.quiet
    unfold getGroup
    rw [hg]
  reqs := h.reqs

theorem Prepares.trans {a b c : State} (h : Prepares tokens g a b) (k : Prepares tokens g b c) : Prepares tokens g a c where
  rest := k.rest.trans h.rest
  frame := k.frame.trans h.frame
  others j hj := (k.others j hj).trans (h.others j hj)
  reqs r hr := by
    obtain ⟨r₁, hr₁, h₁⟩ := k.reqs r hr
    obtain ⟨r₀, hr₀, h₀⟩ := h.reqs r₁ hr₁
    exact ⟨r₀, hr₀, h₀.trans h₁⟩

theorem Prepares.weaken {s t : State} (h : Prepares true g s t) : Prepares tokens g s t where
  rest := h.rest
  frame := h.frame
  others := h.others
  reqs r hr := by
    obtain ⟨r₀, hr₀, hf⟩ := h.reqs r hr
    exact ⟨r₀, hr₀, hf.idx, hf.waits, fun _ => hf.count rfl⟩

theorem Prepares.then {a b c : State} (h : Prepares tokens g a b) (k : Serves tokens b c) : Prepares tokens g a c :=
  h.trans (.of_serves k)

theorem Prepares.putGroup {s t : State} (h : Prepares tokens g s t) (x : Group) : Prepares tokens g s (putGroup t g x) where
  rest := Eq.trans rfl h.rest
  frame := Eq.trans (frameRegs_congr rfl) h.frame
  others j hj := (getGroup_putGroup_ne t x hj).trans (h.others j hj)
  reqs := h.reqs

theorem Prepares.getReq_none {s t : State} (h : Prepares tokens g s t) {idx : Nat} (hn : getReq s idx = none) :
    getReq t idx = none := by
  rw [getReq_eq_none] at hn ⊢
  intro r hr
  obtain ⟨r₀, hr₀, hf⟩ := h.reqs r hr
  rw [← hf.idx]
  exact hn r₀ hr₀

theorem Prepares.groupEntries {s t : State} (h : Prepares tokens g s t) (k : Nat) (gen : Bool) :
    groupEntries t k gen = groupEntries s k gen :=
  groupEntries_congr (congrArg (fun v => v.pkg) h.rest) (congrArg (fun v => v.sch) h.rest) k gen

theorem Prepares.targetFrame {s t : State} (h : Prepares tokens g s t) (es : List (Nat × Nat)) :
    targetFrame t es = targetFrame s es := targetFrame_congr (congrArg (fun v => v.sch) h.rest) h.frame es

/-! ### The step written and its entries armed (R438, R440, R441) -/

theorem pageView_writeLists (s : State) (step : List (Nat × Nat × Nat × Bool)) : pageView (writeLists s step) = pageView s := by
  refine pageView_foldl (fun t y => ?_) step s
  split
  · exact pageView_daWrite t _ _ _
  · rfl

/-- The group as a preparation leaves it. -/
def groupArmed (x : Group) (frame : Nat) (es : List (Nat × Nat)) (step : List (Nat × Nat × Nat × Bool)) : Group :=
  { x with step := step, armedFor := frame, wait := if step.isEmpty then [] else es }

/-- Of a state, arming a step changes the group's record, the step area, the page lists and the arm bits. -/
structure Armed (g : Nat) (y : Group) (es : List (Nat × Nat)) (s t : State) : Prop where
  group : getGroup t g = some y
  rest : (quiet t).rest = (quiet s).rest
  others : ∀ h, h ≠ g → getGroup t h = getGroup s h
  reqs : t.srv.reqs = s.srv.reqs
  arms : ∀ e ∈ es, (y.step = [] → entryArmed t e.1 e.2 = entryArmed s e.1 e.2) ∧ (y.step ≠ [] → entryArmed t e.1 e.2 = true)

theorem armStep_armed (g : Nat) (x : Group) (es : List (Nat × Nat)) (step : List (Nat × Nat × Nat × Bool)) (s : State) :
    Armed g (groupArmed x (targetFrame s es) es step) es s (armStep g x es step s) := by
  unfold armStep
  extract_lets frame s1 s2
  split
  · next hempty =>
    refine ⟨getGroup_putGroup s g _, rfl, fun h hh => getGroup_putGroup_ne s _ hh, rfl, fun e _ => ⟨fun _ => ?_, fun hne => ?_⟩⟩
    · exact entryArmed_congr (frameRegs_congr rfl) _ _
    · exact absurd (List.isEmpty_iff.mp hempty) hne
  · next hne =>
    have hview : pageView s2 = pageView s1 := (pageView_daWrite _ _ _ _).trans (pageView_writeLists s1 step)
    have hregs := foldl_setArmed_regs es s2
    have hsrv : (es.foldl (fun acc e => setArmed acc e.1 e.2 true) s2).srv = s1.srv := by
      rw [hregs]
      exact (srv_of_pageView hview : s2.srv = s1.srv)
    have hgroup : ∀ h, getGroup (es.foldl (fun acc e => setArmed acc e.1 e.2 true) s2) h = getGroup s1 h := fun h => by
      unfold getGroup
      rw [hsrv]
    refine ⟨(hgroup g).trans (getGroup_putGroup s g _), ?_, fun h hh => (hgroup h).trans (getGroup_putGroup_ne s _ hh), ?_,
      fun e he => ⟨fun h => absurd (List.isEmpty_iff.mpr h) hne, fun _ => ?_⟩⟩
    · have hrest : (quiet s2).rest = (quiet s1).rest := congrArg Quiet.rest (quiet_of_pageView hview)
      rw [hregs]
      exact hrest
    · rw [hsrv]
      rfl
    · exact entryArmed_foldl_setArmed es s2 e he

/-! ### The sequences of a step (R440, R441) -/

/-- A generation step holds resident sequences in slots of the batch, each for one token. -/
theorem genStep_spec {s : State} {g : Nat} {x : Group} {e : Nat × Nat × Nat × Bool} (h : e ∈ genStep s g x) :
    e.1 < x.batch ∧ e.2.2.1 = 1 ∧ ∃ r ∈ s.srv.reqs, r.idx = e.2.1 ∧ r.slot = some (g, e.1) ∧ r.kv = .resident := by
  obtain ⟨k, hk, hek⟩ := List.mem_filterMap.mp h
  split at hek
  · next r hr =>
    split at hek
    · next hkv =>
      cases hek
      exact ⟨List.mem_range.mp hk, rfl, r, List.mem_of_find?_eq_some hr, rfl, by simpa using List.find?_some hr, by simpa using hkv⟩
    · cases hek
  · cases hek

/-- A prompt step holds chunks of resident sequences among those asked for; the one that ends the prompt is FINAL. -/
theorem fillStep_spec {s : State} {x : Group} {ids : List Nat} {e : Nat × Nat × Nat × Bool} (h : e ∈ fillStep s x ids) :
    e.2.1 ∈ ids ∧ ∃ r, getReq s e.2.1 = some r ∧ r.kv = .resident ∧ e.2.2.1 = min x.chunk (r.promptLen - r.fed)
      ∧ e.2.2.2 = (r.fed + e.2.2.1 == r.promptLen) := by
  obtain ⟨p, hp, rfl⟩ := List.mem_map.mp h
  have hmem : p.1 ∈ (ids.filterMap (getReq s)).filter (fun r => r.kv == .resident) := (List.mem_zipIdx' hp).2 ▸ List.getElem_mem _
  obtain ⟨hmem, hkv⟩ := List.mem_filter.mp hmem
  obtain ⟨i, hi, hget⟩ := List.mem_filterMap.mp hmem
  have hid : p.1.idx = i := idx_of_getReq hget
  refine ⟨?_, p.1, ?_, by simpa using hkv, rfl, rfl⟩
  · show p.1.idx ∈ ids
    rwa [hid]
  · show getReq s p.1.idx = some p.1
    rwa [hid]

end Sys2Proof.Machine
end

section
/-!
SUPPORT. STEP_PREPARE and FILL_PREPARE (R437, R440, R441): the statement about a preparation, which O53 makes first.
-/
namespace Sys2Proof.Machine

/-- The effect of a preparation of a generation group, or of a group for prompts. -/
def prepareEffect (g : Nat) (gen : Bool) (s : State) : State := if gen then stepPrepareEffect g s else fillPrepareEffect g s

theorem exec_prepare {g : Nat} {gen : Bool} {s : State} (hrun : running s = true) (hready : prepareReady g gen s = true) :
    exec (if gen then .stepPrepare g else .fillPrepare g) s = .next (prepareEffect g gen s) := by
  cases gen
  · show execFillPrepare g s = _
    rw [execFillPrepare, clocked_running hrun, if_pos hready]
    rfl
  · show execStepPrepare g s = _
    rw [execStepPrepare, clocked_running hrun, if_pos hready]
    rfl

/-- A group that can be prepared is of its kind, and its entries are not armed (R440). -/
theorem of_prepareReady {g : Nat} {gen : Bool} {s : State} {x : Group} (hx : getGroup s g = some x)
    (hready : prepareReady g gen s = true) :
    x.gen = gen ∧ ∀ e ∈ groupEntries s g gen, entryArmed s e.1 e.2 = false := by
  unfold prepareReady at hready
  rw [hx] at hready
  simp only [Bool.and_eq_true, beq_iff_eq, List.all_eq_true] at hready
  obtain ⟨⟨⟨⟨⟨hgen, -⟩, -⟩, -⟩, hrests⟩, -⟩ := hready
  refine ⟨hgen, fun e he => ?_⟩
  have hrest := hrests e he
  unfold entryRests at hrest
  simp only [Bool.and_eq_true, Bool.not_eq_true'] at hrest
  exact hrest.1.1

/-- What both preparations do first, once the step has been delivered, gives no token. -/
theorem prepareHead_prepares (g : Nat) (x : Group) (s : State) : Prepares true g (deliverStep g x s) (prepareHead g x s).2 :=
  ((Prepares.of_serves (.refl _)).putGroup (stepClear x)).then (.endWaiters g _ _)

/-- A group's READY sequences taken in, and pages found for the next tokens of its batch (R440). -/
def roomForBatch (g : Nat) (x : Group) (s : State) : State :=
  let s1 := (admissible s x).foldl (takeIn g x) s
  ((groupBatch s1 g x).map (fun r => (r.idx, r.len))).foldl (fun acc p => roomFor acc p.1 p.2) s1

/-- Pages found for the next chunks of a group's prompts (R441). -/
def roomForChunks (g : Nat) (x : Group) (s : State) : State :=
  (fillable s g x).foldl (fun acc r => roomFor acc r.idx (r.len + min x.chunk (r.promptLen - r.fed) - 1)) s

theorem serves_roomForBatch (g : Nat) (x : Group) (s : State) : Serves true s (roomForBatch g x s) :=
  (Serves.takeIns g x (.refl s) (fun _ hr => (List.mem_filter.mp (reqSort_mem hr)).1)).trans
    (.foldl (fun t _ => .roomFor t _ _) _ _)

theorem serves_roomForChunks (g : Nat) (x : Group) (s : State) : Serves true s (roomForChunks g x s) :=
  .foldl (fun t _ => .roomFor t _ _) _ s

/-- The state in which a preparation writes its step, from the one after delivery and ends. -/
def roomMade (g : Nat) (gen : Bool) (x : Group) (s : State) : State :=
  if gen then roomForBatch g x s else roomForChunks g x s

/-- The step that it writes there. -/
def stepMade (g : Nat) (gen : Bool) (x : Group) (s : State) : List (Nat × Nat × Nat × Bool) :=
  if gen then genStep (roomForBatch g x s) g x
  else fillStep (roomForChunks g x s) x ((fillable s g x).map (·.idx))

theorem serves_roomMade (g : Nat) (gen : Bool) (x : Group) (s : State) : Serves true s (roomMade g gen x s) := by
  cases gen
  · exact serves_roomForChunks g x s
  · exact serves_roomForBatch g x s

/-- After delivery and ends a preparation finds pages, and where the tables hold entries of the group it writes and arms a
step. -/
theorem prepareEffect_eq {g : Nat} {x : Group} {gen : Bool} {s : State} (hx : getGroup s g = some x) :
    prepareEffect g gen s =
      if (groupEntries (prepareHead g x s).2 g gen).isEmpty then putGroup (prepareHead g x s).2 g (prepareHead g x s).1
      else armStep g (prepareHead g x s).1
        (groupEntries (roomMade g gen (prepareHead g x s).1 (prepareHead g x s).2) g gen)
        (stepMade g gen (prepareHead g x s).1 (prepareHead g x s).2)
        (roomMade g gen (prepareHead g x s).1 (prepareHead g x s).2) := by
  cases gen
  · show fillPrepareEffect g s = _
    unfold fillPrepareEffect
    rw [hx]
    rfl
  · show stepPrepareEffect g s = _
    unfold stepPrepareEffect
    rw [hx]
    rfl

/-- A request that a prompt step asks for waits, or is in its prompt. -/
theorem waits_of_fillable {s : State} {g : Nat} {x : Group} {i : Nat} (h : i ∈ (fillable s g x).map (·.idx)) :
    ∃ r ∈ s.srv.reqs, r.idx = i ∧ (r.st = .queued ∨ r.st = .prompt) := by
  obtain ⟨r, hr, rfl⟩ := List.mem_map.mp h
  obtain ⟨hmem, hfill⟩ := List.mem_filter.mp (reqSort_mem (List.mem_of_mem_take hr))
  simp only [Bool.and_eq_true, Bool.or_eq_true, beq_iff_eq] at hfill
  obtain ⟨⟨⟨⟨⟨hst, -⟩, -⟩, -⟩, -⟩, -⟩ := hfill
  exact ⟨r, hmem, rfl, hst⟩

/-- A step that a preparation writes: a generation step holds resident sequences in slots of the batch, and a prompt step chunks
of requests that are not done with their prompt, the FINAL one the last (R440, R441). -/
structure StepSound (g : Nat) (x : Group) (gen : Bool) (s t : State) (step : List (Nat × Nat × Nat × Bool)) : Prop where
  generation : gen = true → ∀ e ∈ step, e.1 < x.batch ∧ e.2.2.1 = 1
    ∧ ∃ r ∈ t.srv.reqs, r.idx = e.2.1 ∧ r.slot = some (g, e.1) ∧ r.kv = .resident
  prompts : gen = false → ∀ e ∈ step, (∃ r ∈ s.srv.reqs, r.idx = e.2.1 ∧ (r.st = .queued ∨ r.st = .prompt))
    ∧ ∃ r, getReq t e.2.1 = some r ∧ r.kv = .resident
      ∧ e.2.2.1 = min x.chunk (r.promptLen - r.fed) ∧ e.2.2.2 = (r.fed + e.2.2.1 == r.promptLen)

theorem stepSound_stepMade (g : Nat) (gen : Bool) (x : Group) (s : State) :
    StepSound g x gen s (roomMade g gen x s) (stepMade g gen x s) where
  generation hgen e he := by
    subst hgen
    exact genStep_spec he
  prompts hgen e he := by
    subst hgen
    obtain ⟨hid, hreq⟩ := fillStep_spec he
    exact ⟨waits_of_fillable hid, hreq⟩

/-- The requests of an earlier and of a later state may be named instead. -/
theorem StepSound.between {g : Nat} {x : Group} {gen : Bool} {s₀ s t t' : State} {step : List (Nat × Nat × Nat × Bool)}
    (h : StepSound g x gen s t step) (hs : ∀ r ∈ s.srv.reqs, ∃ r₀ ∈ s₀.srv.reqs, Follows false r₀ r)
    (ht : t'.srv.reqs = t.srv.reqs) : StepSound g x gen s₀ t' step where
  generation hgen e he := by
    rw [ht]
    exact h.generation hgen e he
  prompts hgen e he := by
    obtain ⟨⟨r, hr, hid, hst⟩, hreq⟩ := h.prompts hgen e he
    obtain ⟨r₀, hr₀, hf⟩ := hs r hr
    rw [getReq_congr ht]
    exact ⟨⟨r₀, hr₀, hf.idx.trans hid, (hf.waits hst).symm ▸ hst⟩, hreq⟩

/-- What the statement says of a preparation that leaves the group's record `y`. -/
structure PrepareSpec (g : Nat) (x : Group) (gen : Bool) (s t : State) (y : Group) : Prop where
  group : getGroup t g = some y
  kept : y.model = x.model ∧ y.batch = x.batch ∧ y.area = x.area
  noEntries : groupEntries s g gen = [] → y.step = []
  frame : groupEntries s g gen ≠ [] → y.armedFor = targetFrame s (groupEntries s g gen)
  clear : y.wait = (if y.step.isEmpty then [] else groupEntries s g gen) ∧ y.fired = [] ∧ y.err = false ∧ y.notRun = false
  arms : ∀ e ∈ groupEntries s g gen, entryArmed t e.1 e.2 = !y.step.isEmpty
  sound : StepSound g x gen s t y.step
  rest : (quiet t).rest = (quiet s).rest
  others : ∀ h, h ≠ g → getGroup t h = getGroup s h
  reqs : ∀ r ∈ t.srv.reqs, ∃ r₀ ∈ (deliverStep g x s).srv.reqs, Follows true r₀ r

/-- The group's record as the two preparations clear it. -/
theorem prepareHead_group (g : Nat) (x : Group) (s : State) :
    ∃ n, (prepareHead g x s).1 = { stepClear x with epoch := n } := ⟨_, rfl⟩

/-- Where the tables hold no entry of the group, its record stands without a step. -/
theorem prepareSpec_of_noEntries {g : Nat} {x : Group} {gen : Bool} {s u : State} {n : Nat} (hes : groupEntries s g gen = [])
    (hd : Prepares false g s (deliverStep g x s)) (hu : Prepares true g (deliverStep g x s) u) :
    PrepareSpec g x gen s (putGroup u g { stepClear x with epoch := n }) { stepClear x with epoch := n } where
  group := getGroup_putGroup u g _
  kept := ⟨rfl, rfl, rfl⟩
  noEntries _ := rfl
  frame h := absurd hes h
  clear := ⟨rfl, rfl, rfl, rfl⟩
  arms e he := by
    rw [hes] at he
    cases he
  sound := ⟨fun _ _ he => absurd he List.not_mem_nil, fun _ _ he => absurd he List.not_mem_nil⟩
  rest := ((hd.trans hu.weaken).putGroup _).rest
  others := ((hd.trans hu.weaken).putGroup _).others
  reqs := (hu.putGroup _).reqs

/-- With entries to run it, a step is written and armed when it holds a request. -/
theorem prepareSpec_of_armed {g : Nat} {x : Group} {gen : Bool} {s u v t : State} {n : Nat}
    {step : List (Nat × Nat × Nat × Bool)} (hunarmed : ∀ e ∈ groupEntries s g gen, entryArmed s e.1 e.2 = false)
    (hes : groupEntries s g gen ≠ []) (hd : Prepares false g s (deliverStep g x s))
    (hu : Prepares true g (deliverStep g x s) u) (hv : Prepares true g u v)
    (hsound : StepSound g { stepClear x with epoch := n } gen u v step)
    (ht : Armed g (groupArmed { stepClear x with epoch := n } (targetFrame v (groupEntries s g gen)) (groupEntries s g gen) step)
      (groupEntries s g gen) v t) :
    PrepareSpec g x gen s t
      (groupArmed { stepClear x with epoch := n } (targetFrame v (groupEntries s g gen)) (groupEntries s g gen) step) :=
  have hsu : Prepares false g s u := hd.trans hu.weaken
  have hsv : Prepares false g s v := hsu.trans hv.weaken
  { group := ht.group
    kept := ⟨rfl, rfl, rfl⟩
    noEntries := fun h => absurd h hes
    frame := fun _ => hsv.targetFrame _
    clear := ⟨rfl, rfl, rfl, rfl⟩
    arms := fun e he => by
      obtain ⟨hempty, hstep⟩ := ht.arms e he
      cases hs : step with
      | nil => rw [hempty hs, entryArmed_congr hsv.frame, hunarmed e he]; rfl
      | cons y ys => rw [hstep (by rw [groupArmed, hs]; exact List.cons_ne_nil y ys)]; rfl
    sound :=
      have h := hsound.between hsu.reqs ht.reqs
      ⟨h.generation, h.prompts⟩
    rest := ht.rest.trans hsv.rest
    others := fun h hh => (ht.others h hh).trans (hsv.others h hh)
    reqs := fun r hr => by
      rw [ht.reqs] at hr
      exact (hu.trans hv).reqs r hr }

theorem prepareSpec {g : Nat} {x : Group} {gen : Bool} {s : State} (hx : getGroup s g = some x)
    (hready : prepareReady g gen s = true) : ∃ y, PrepareSpec g x gen s (prepareEffect g gen s) y := by
  obtain ⟨-, hunarmed⟩ := of_prepareReady hx hready
  have hd : Prepares false g s (deliverStep g x s) := .of_serves (.deliverStep g x s)
  have hu : Prepares true g (deliverStep g x s) (prepareHead g x s).2 := prepareHead_prepares g x s
  obtain ⟨n, hn⟩ := prepareHead_group g x s
  rw [prepareEffect_eq hx, (hd.trans hu.weaken).groupEntries, hn]
  split
  · next hes => exact ⟨_, prepareSpec_of_noEntries (List.isEmpty_iff.mp hes) hd hu⟩
  · next hes =>
    have hv : Prepares true g (prepareHead g x s).2
        (roomMade g gen { stepClear x with epoch := n } (prepareHead g x s).2) := .of_serves (serves_roomMade _ _ _ _)
    rw [((hd.trans hu.weaken).trans hv.weaken).groupEntries]
    exact ⟨_, prepareSpec_of_armed hunarmed (fun h => hes (List.isEmpty_iff.mpr h)) hd hu hv (stepSound_stepMade _ _ _ _)
      (armStep_armed _ _ _ _ _)⟩

/-- STEP_PREPARE and FILL_PREPARE do what O53 says of them. -/
theorem preparation_spec (g : Nat) (x : Group) (gen : Bool) (s : State) (hrun : running s = true)
    (hready : prepareReady g gen s = true) (hx : getGroup s g = some x) :
    ∃ t y, exec (if gen then .stepPrepare g else .fillPrepare g) s = .next t ∧ PrepareSpec g x gen s t y
      ∧ (x.err = true → ∀ z ∈ x.step, getReq t z.2.1 = none)
      ∧ (x.err = true ∨ stepRan x = false → ∀ r ∈ t.srv.reqs, ∃ r₀ ∈ s.srv.reqs, Follows true r₀ r) := by
  obtain ⟨y, hspec⟩ := prepareSpec hx hready
  refine ⟨_, y, exec_prepare hrun hready, hspec, fun herr z hz => ?_, fun hfail r hr => ?_⟩
  · have hgone := getReq_deliverStep_of_err (g := g) s herr z hz
    rw [getReq_eq_none] at hgone ⊢
    intro r hr
    obtain ⟨r₀, hr₀, hf⟩ := hspec.reqs r hr
    rw [← hf.idx]
    exact hgone r₀ hr₀
  · obtain ⟨r₁, hr₁, h₁⟩ := hspec.reqs r hr
    obtain ⟨r₀, hr₀, h₀⟩ := (Serves.deliverStep_of_failed s hfail).reqs r₁ hr₁
    exact ⟨r₀, hr₀, h₀.trans h₁⟩

end Sys2Proof.Machine
end

section
/-!
SUPPORT. Pre-empted sequences (R375 to R377): what copying one out, freeing its blocks, mapping it again and copying it back
leave, as O53 says it.
-/
namespace Sys2Proof.Machine

variable {idx : Nat} {r : Req} {s : State}

/-! ### Copied out (R375) -/

theorem exec_kvSwapOut (hrun : running s = true) (hready : kvSwapOutReady idx s = true) :
    exec (.kvSwapOut idx) s = .next (kvSwapOutEffect idx s) := by
  show execKvSwapOut idx s = _
  rw [execKvSwapOut, clocked_running hrun, if_pos hready]

/-- The sequence's pages copied out under an item of their own. -/
def pagesOut (r : Req) (s : State) : State := (ownPages r).foldl (swapPageOut r.model) (jobOpen s).2

/-- The same, with the item ended where a copy has met poison. -/
def pagesOutChecked (r : Req) (s : State) : State :=
  if copyBad (pagesOut r s) r then itemError (pagesOut r s) s.ho.nextItem eDmaPoison 0 0 0 0 else pagesOut r s

theorem kvSwapOutEffect_eq (h : getReq s idx = some r) :
    kvSwapOutEffect idx s = putReq (pagesOutChecked r s) { r with copied := true, job := s.ho.nextItem } := by
  unfold kvSwapOutEffect
  rw [h]
  simp only [jobOpen_fst]
  rfl

theorem itemView_pagesOutChecked (r : Req) (s : State) : itemView (pagesOutChecked r s) = itemView (pagesOut r s) := by
  unfold pagesOutChecked
  split
  · exact itemView_itemError _ _ _ _ _ _ _
  · rfl

/-- What a request's copying out leaves. -/
structure SwapOutSpec (r : Req) (s t : State) : Prop where
  copies : s.ho.swap.isSome = true → ∀ page ∈ ownPages r, ∀ i, i < (Config.kvPools r.model).length →
    (blockOf s r.model i page).isSome = true → ∃ c ∈ t.srv.copies, c.model = r.model ∧ c.pool = i ∧ c.page = page
  item : copyBad t r = false → ∃ it ∈ t.ho.items, it.id = s.ho.nextItem ∧ it.left = 1
  blocks : t.srv.blocks = s.srv.blocks
  next : t.ho.nextItem = s.ho.nextItem + 1
  same : SameBut [.srv, .memo, .mem, .regs, .er, .ho, .pkg, .free] s t

theorem reqs_pagesOutChecked (r : Req) (s : State) : (pagesOutChecked r s).srv.reqs = s.srv.reqs := by
  obtain ⟨hreqs, -, -⟩ := tables_of_itemView (itemView_pagesOutChecked r s)
  have hout : (pagesOut r s).srv.reqs = (jobOpen s).2.srv.reqs := (foldl_swapPageOut r.model (ownPages r) (jobOpen s).2).1.reqs
  rw [hreqs, hout, (jobOpen_opened s).srv]

theorem swapOutSpec_pagesOutChecked (r : Req) (s : State) : SwapOutSpec r s (pagesOutChecked r s) := by
  have hjob := jobOpen_opened s
  obtain ⟨hcopies, hlisted⟩ := foldl_swapPageOut r.model (ownPages r) (jobOpen s).2
  have hview := itemView_pagesOutChecked r s
  obtain ⟨-, hblocks, hcopied⟩ := tables_of_itemView hview
  refine ⟨fun hswap page hpage i hi hb => ?_, fun hgood => ?_, ?_, ?_, ?_⟩
  · rw [hcopied]
    exact hlisted (by rw [hjob.swap]; exact hswap) page hpage i hi (by unfold blockOf at hb ⊢; rwa [hjob.srv])
  · have hgood' : copyBad (pagesOut r s) r = false := by
      unfold copyBad at hgood ⊢
      rwa [hcopied] at hgood
    have ht : pagesOutChecked r s = pagesOut r s := by
      unfold pagesOutChecked
      rw [hgood']
      rfl
    rw [ht, show (pagesOut r s).ho = (jobOpen s).2.ho from hcopies.ho]
    exact hjob.item
  · rw [hblocks, show (pagesOut r s).srv.blocks = (jobOpen s).2.srv.blocks by rw [pagesOut, hcopies.srv], hjob.srv]
  · rw [nextItem_of_itemView hview, show (pagesOut r s).ho = (jobOpen s).2.ho from hcopies.ho, hjob.next]
  · exact ((hjob.same.mono (by decide)).trans (hcopies.same.mono (by decide))).trans ((same_of_itemView hview).mono (by decide))

/-- Replacing the request changes none of it. -/
theorem SwapOutSpec.putReq {t : State} (h : SwapOutSpec r s t) (q : Req) : SwapOutSpec r s (putReq t q) :=
  ⟨h.copies, h.item, h.blocks, h.next, same_mk h.same (hsrv := .inr (by decide))⟩

/-- A request replaced under its own index. -/
theorem getReq_replaced {t : State} {q : Req} (h : getReq s idx = some r) (ht : t.srv.reqs = s.srv.reqs) (hq : q.idx = r.idx) :
    getReq (putReq t q) idx = some q ∧ ∀ j, j ≠ idx → getReq (putReq t q) j = getReq s j := by
  have hid : q.idx = idx := hq.trans (idx_of_getReq h)
  subst hid
  exact ⟨getReq_putReq ((getReq_congr ht q.idx).trans h), fun j hj => (getReq_putReq_ne hj).trans (getReq_congr ht j)⟩

theorem kvSwapOut_spec (hrun : running s = true) (h : getReq s idx = some r) (hready : kvSwapOutReady idx s = true) :
    ∃ t, exec (.kvSwapOut idx) s = .next t ∧ getReq t idx = some { r with copied := true, job := s.ho.nextItem }
      ∧ (∀ j, j ≠ idx → getReq t j = getReq s j) ∧ SwapOutSpec r s t := by
  obtain ⟨hself, hothers⟩ := getReq_replaced (q := { r with copied := true, job := s.ho.nextItem }) h (reqs_pagesOutChecked r s) rfl
  exact ⟨_, (exec_kvSwapOut hrun hready).trans (congrArg _ (kvSwapOutEffect_eq h)), hself, hothers,
    (swapOutSpec_pagesOutChecked r s).putReq _⟩

/-! ### Its blocks freed (R375, R377) -/

theorem kvSwapOutDone_spec (hrun : running s = true) (h : getReq s idx = some r) (hready : kvSwapOutDoneReady idx s = true) :
    ∃ t, exec (.kvSwapOutDone idx) s = .next t
      ∧ getReq t idx = some { r with kv := .swapped, copied := false, job := 0 } ∧ (∀ j, j ≠ idx → getReq t j = getReq s j)
      ∧ t.srv.blocks = s.srv.blocks.filter
          (fun b => pageLive (putReq s { r with kv := .swapped, copied := false, job := 0 }) b.model b.page)
      ∧ SameBut [.srv, .memo, .mem, .cx, .regs, .er, .ho] s t := by
  have hexec : exec (.kvSwapOutDone idx) s
      = .next (kvSweep (putReq (jobDone s r.job) { r with kv := .swapped, copied := false, job := 0 })) := by
    show execKvSwapOutDone idx s = _
    rw [execKvSwapOutDone, clocked_running hrun, if_pos hready, kvSwapOutDoneEffect, h]
  have hsrv : (putReq (jobDone s r.job) { r with kv := .swapped, copied := false, job := 0 }).srv
      = (putReq s { r with kv := .swapped, copied := false, job := 0 }).srv := by
    unfold putReq
    rw [srv_jobDone]
  obtain ⟨hself, hothers⟩ := getReq_replaced (q := { r with kv := .swapped, copied := false, job := 0 }) h
    (congrArg (fun v : ServeSt => v.reqs) (srv_jobDone s r.job)) rfl
  have hlive : ∀ b : KvBlock, pageLive (putReq (jobDone s r.job) { r with kv := .swapped, copied := false, job := 0 }) b.model b.page
      = pageLive (putReq s { r with kv := .swapped, copied := false, job := 0 }) b.model b.page := fun b => by
    unfold pageLive
    rw [hsrv]
  refine ⟨_, hexec, (getReq_congr (reqs_kvSweep _) idx).trans hself,
    fun j hj => (getReq_congr (reqs_kvSweep _) j).trans (hothers j hj), ?_, ?_⟩
  · rw [srv_kvSweep]
    simp only [hlive, hsrv]
    rfl
  · have hquiet : quiet (kvSweep (putReq (jobDone s r.job) { r with kv := .swapped, copied := false, job := 0 })) = quiet s := by
      rw [quiet_kvSweep, quiet_putReq, quiet_jobDone]
    have hfree : (kvSweep (putReq (jobDone s r.job) { r with kv := .swapped, copied := false, job := 0 })).free = s.free := by
      rw [free_kvSweep]
      exact free_jobDone s r.job
    exact (same_of_quiet (congrArg Quiet.rest hquiet)).of_free hfree (by decide)

/-! ### Mapped again (R373, R377) -/

/-- A sequence's own pages mapped again, at the global page indices that it holds them. -/
def pagesMapped (r : Req) (l : List (Nat × Nat)) (s : State) : State :=
  l.foldl (fun acc p => if r.shared.contains p.1 then acc else mapPage acc r.model p.1 p.2) s

theorem quiet_pagesMapped (r : Req) (l : List (Nat × Nat)) (s : State) : quiet (pagesMapped r l s) = quiet s := by
  refine quiet_foldl (fun t p => ?_) l s
  split
  · rfl
  · exact quiet_mapPage t _ _ _

/-- Of serving, blocks are added: one in each pool for every page that is its own. -/
theorem srv_pagesMapped (r : Req) (l : List (Nat × Nat)) (s : State) :
    ∃ bs, (pagesMapped r l s).srv = { s.srv with blocks := s.srv.blocks ++ bs }
      ∧ ∀ p ∈ l, r.shared.contains p.1 = false → ∀ i < (Config.kvPools r.model).length, ∃ b ∈ bs, IsBlock r.model p.1 i b := by
  induction l generalizing s with
  | nil => exact ⟨[], by simp [pagesMapped], by simp⟩
  | cons p l ih =>
    cases hshared : r.shared.contains p.1 with
    | true =>
      obtain ⟨bs, hbs, hmem⟩ := ih s
      refine ⟨bs, ?_, fun q hq hown => ?_⟩
      · rw [pagesMapped, List.foldl_cons, if_pos hshared]
        exact hbs
      · rcases List.mem_cons.mp hq with rfl | hq
        · rw [hshared] at hown
          cases hown
        · exact hmem q hq hown
    | false =>
      obtain ⟨l₁, h₁, hmem₁⟩ := srv_mapPage s r.model p.1 p.2
      obtain ⟨bs, hbs, hmem⟩ := ih (mapPage s r.model p.1 p.2)
      refine ⟨l₁ ++ bs, ?_, fun q hq hown i hi => ?_⟩
      · rw [pagesMapped, List.foldl_cons, if_neg (by rw [hshared]; decide)]
        refine hbs.trans ?_
        rw [h₁]
        simp
      · rcases List.mem_cons.mp hq with rfl | hq
        · obtain ⟨b, hb, hblock⟩ := hmem₁ i hi
          exact ⟨b, List.mem_append_left _ hb, hblock⟩
        · obtain ⟨b, hb, hblock⟩ := hmem q hq hown i hi
          exact ⟨b, List.mem_append_right _ hb, hblock⟩

theorem reqs_pagesMapped (r : Req) (l : List (Nat × Nat)) (s : State) : (pagesMapped r l s).srv.reqs = s.srv.reqs := by
  obtain ⟨bs, hbs, -⟩ := srv_pagesMapped r l s
  rw [hbs]

/-- Every own page of a sequence has a block in each pool once its pages are mapped. -/
theorem blockOf_pagesMapped {page i : Nat} (r : Req) (s : State) (hpage : page ∈ ownPages r)
    (hi : i < (Config.kvPools r.model).length) : (blockOf (pagesMapped r r.pages.zipIdx s) r.model i page).isSome = true := by
  obtain ⟨bs, hbs, hmem⟩ := srv_pagesMapped r r.pages.zipIdx s
  obtain ⟨hin, hown⟩ := List.mem_filter.mp hpage
  obtain ⟨n, hn, hget⟩ := List.mem_iff_getElem.mp hin
  have hzip : (page, n) ∈ r.pages.zipIdx := by
    rw [List.mk_mem_zipIdx_iff_getElem?, List.getElem?_eq_getElem hn, hget]
  obtain ⟨b, hb, hmodel, hpg, hpool⟩ := hmem (page, n) hzip (by simpa using hown) i hi
  unfold blockOf
  rw [hbs, List.find?_isSome]
  exact ⟨b, List.mem_append_right _ hb, by simp [hmodel, hpg, hpool]⟩

theorem kvSwapIn_spec (hrun : running s = true) (h : getReq s idx = some r) (hkv : r.kv = .swapped) (hat : atBoundary s = true) :
    ∃ t, exec (.kvSwapIn idx) s = .next t
      ∧ (∀ j, j ≠ idx → getReq t j = getReq s j)
      ∧ ((kvRoom s r.model (returnPages r) = false ∧ t = s)
        ∨ (kvRoom s r.model (returnPages r) = true ∧ getReq t idx = some { r with kv := .swappingIn, job := s.ho.nextItem }
          ∧ ∀ page ∈ ownPages r, ∀ i, i < (Config.kvPools r.model).length → (blockOf t r.model i page).isSome = true))
      ∧ SameBut [.srv, .memo, .mem, .cx, .regs, .er, .ho, .free] s t := by
  have hready : kvSwapInReady idx s = true := by simp [kvSwapInReady, h, hkv, hat]
  have hexec : exec (.kvSwapIn idx) s = .next (kvSwapInEffect idx s) := by
    show execKvSwapIn idx s = _
    rw [execKvSwapIn, clocked_running hrun, if_pos hready]
  cases hroom : kvRoom s r.model (returnPages r) with
  | false =>
    have heff : kvSwapInEffect idx s = s := by
      unfold kvSwapInEffect
      rw [h]
      simp only [hroom, Bool.false_eq_true, if_false]
    exact ⟨s, by rw [hexec, heff], fun _ _ => rfl, .inl ⟨rfl, rfl⟩, .refl s⟩
  | true =>
    have heff : kvSwapInEffect idx s = putReq (pagesMapped r r.pages.zipIdx (jobOpen s).2)
        { r with kv := .swappingIn, job := s.ho.nextItem } := by
      unfold kvSwapInEffect
      rw [h]
      simp only [hroom, if_true, jobOpen_fst]
      rfl
    have hjob := jobOpen_opened s
    have hreqs : (pagesMapped r r.pages.zipIdx (jobOpen s).2).srv.reqs = s.srv.reqs := by rw [reqs_pagesMapped, hjob.srv]
    obtain ⟨hself, hothers⟩ := getReq_replaced (q := { r with kv := .swappingIn, job := s.ho.nextItem }) h hreqs rfl
    refine ⟨_, by rw [hexec, heff], hothers, .inr ⟨rfl, hself, fun page hpage i hi => ?_⟩, ?_⟩
    · exact blockOf_pagesMapped r (jobOpen s).2 hpage hi
    · have hmapped := same_of_quiet (congrArg Quiet.rest (quiet_pagesMapped r r.pages.zipIdx (jobOpen s).2))
      exact same_mk ((hjob.same.mono (by decide)).trans (hmapped.mono (by decide))) (hsrv := .inr (by decide))

/-! ### Copied back (R377) -/

/-- The sequence's pages copied back. -/
def pagesIn (r : Req) (s : State) : State := (ownPages r).foldl (swapPageIn r.model) s

/-- The sequence resident again, with its page list restored. -/
def madeResident (idx : Nat) (r : Req) (s : State) : State :=
  daWrite (putReq (jobDone (pagesIn r s) r.job) { r with kv := .resident, job := 0 }) (128 * Config.pageListAddr idx)
    (r.pages.flatMap (leBytes 4)) []

theorem kvSwapInDone_spec (hrun : running s = true) (h : getReq s idx = some r) (hkv : r.kv = .swappingIn) :
    ∃ t, exec (.kvSwapInDone idx) s = .next t ∧ (∀ j, j ≠ idx → getReq t j = getReq s j)
      ∧ (copiesLeft (pagesIn r s) r = true → t = pagesIn r s ∧ getReq t idx = some r)
      ∧ (copiesLeft (pagesIn r s) r = false → getReq t idx = some { r with kv := .resident, job := 0 } ∧ t = madeResident idx r s)
      ∧ SameBut [.srv, .memo, .mem, .regs, .er, .ho] s t := by
  have hready : kvSwapInDoneReady idx s = true := by simp [kvSwapInDoneReady, h, hkv]
  have hexec : exec (.kvSwapInDone idx) s = .next (kvSwapInDoneEffect idx s) := by
    show execKvSwapInDone idx s = _
    rw [execKvSwapInDone, clocked_running hrun, if_pos hready]
  have hin : CopiesOnly s (pagesIn r s) := foldl_swapPageIn_copiesOnly r.model (ownPages r) s
  have heff : kvSwapInDoneEffect idx s = if copiesLeft (pagesIn r s) r then pagesIn r s else madeResident idx r s := by
    unfold kvSwapInDoneEffect
    rw [h]
    rfl
  cases hleft : copiesLeft (pagesIn r s) r with
  | true =>
    refine ⟨pagesIn r s, by rw [hexec, heff, if_pos hleft], fun j _ => getReq_congr hin.reqs j, fun _ => ⟨rfl, ?_⟩,
      (by intro hc; cases hc), hin.same.mono (by decide)⟩
    rw [getReq_congr hin.reqs, h]
  | false =>
    have hdone : (jobDone (pagesIn r s) r.job).srv.reqs = s.srv.reqs := by rw [srv_jobDone, hin.reqs]
    obtain ⟨hself, hothers⟩ := getReq_replaced (q := { r with kv := .resident, job := 0 }) h hdone rfl
    have hview : pageView (madeResident idx r s)
        = pageView (putReq (jobDone (pagesIn r s) r.job) { r with kv := .resident, job := 0 }) := pageView_daWrite _ _ _ _
    have hreqs := congrArg ServeSt.reqs (srv_of_pageView hview)
    refine ⟨madeResident idx r s, by rw [hexec, heff, if_neg (by rw [hleft]; decide)],
      fun j hj => (getReq_congr hreqs j).trans (hothers j hj), (by intro hc; cases hc),
      fun _ => ⟨(getReq_congr hreqs idx).trans hself, rfl⟩, ?_⟩
    have hjob : SameBut [.srv, .memo, .mem, .regs, .er, .ho] (pagesIn r s)
        (putReq (jobDone (pagesIn r s) r.job) { r with kv := .resident, job := 0 }) := by
      rw [jobDone_eq]
      exact same_mk (.refl _) (hho := .inr (by decide)) (her := .inr (by decide)) (hsrv := .inr (by decide))
    have hlist : SameBut [.srv, .memo, .mem, .regs, .er, .ho]
        (putReq (jobDone (pagesIn r s) r.job) { r with kv := .resident, job := 0 }) (madeResident idx r s) :=
      (same_of_pageView hview (cx_of_cacheView (cacheView_daWrite _ _ _ _))).mono (by decide)
    exact ((hin.same.mono (by decide)).trans hjob).trans hlist

end Sys2Proof.Machine
end

section
/-!
SUPPORT. Writes at the point of coherence (R228, R232, R267, R531) while no ordered update is staged: a write of a column, or of
bytes from a column-aligned device address, changes bytes in the lines that it names alone.
-/
namespace Sys2Proof.Machine

/-- Between two states no ordered update has been staged, and only bytes of one line differ. -/
structure LineOnly (line : Nat) (s t : State) : Prop where
  staged : noStaged s = true → noStaged t = true
  bytes : ∀ a, a / 128 ≠ line → cellGet t.memo.mem a = cellGet s.memo.mem a

variable {line : Nat}

theorem LineOnly.refl (s : State) : LineOnly line s s := ⟨id, fun _ _ => rfl⟩

theorem LineOnly.trans {a b c : State} (h : LineOnly line a b) (g : LineOnly line b c) : LineOnly line a c :=
  ⟨fun hs => g.staged (h.staged hs), fun x hx => (g.bytes x hx).trans (h.bytes x hx)⟩

/-- Neither the bytes nor the controllers differ. -/
theorem LineOnly.of_memo {s t : State} (hm : t.memo.mem = s.memo.mem) (hp : t.memo.pccs = s.memo.pccs) : LineOnly line s t :=
  ⟨fun h => by unfold noStaged at h ⊢; rwa [hp], fun a _ => by rw [hm]⟩

theorem staged_of_noStaged {s : State} (h : noStaged s = true) (n : Nat) : (getPcc s n).staged = [] := by
  have hlook : ∀ l : List (Nat × Pcc), l.all (fun p => p.2.staged.isEmpty) = true → (look l n newPcc).staged = [] := by
    intro l
    induction l with
    | nil => exact fun _ => rfl
    | cons p l ih =>
      intro hl
      rw [List.all_cons, Bool.and_eq_true] at hl
      unfold look
      split
      · exact List.isEmpty_iff.mp hl.1
      · exact ih hl.2
  exact hlook s.memo.pccs h

theorem noStaged_putPcc {s : State} {n : Nat} {p : Pcc} (h : noStaged s = true) (hp : p.staged = []) :
    noStaged (putPcc s n p) = true := by
  have hput : ∀ l : List (Nat × Pcc), l.all (fun q => q.2.staged.isEmpty) = true →
      (put l n p).all (fun q => q.2.staged.isEmpty) = true := by
    intro l
    induction l with
    | nil => exact fun _ => by simp [put, hp]
    | cons q l ih =>
      intro hl
      rw [List.all_cons, Bool.and_eq_true] at hl
      unfold put
      split
      · simp [hp, hl.2]
      · rw [List.all_cons, hl.1, ih hl.2]
        rfl
  exact hput s.memo.pccs h

/-- A controller replaced by one that holds the same staged updates. -/
theorem LineOnly.putPcc {s t : State} (h : LineOnly line s t) (n : Nat) {p : Pcc} (hp : p.staged = (getPcc s n).staged) :
    LineOnly line s (putPcc t n p) :=
  ⟨fun hs => noStaged_putPcc (h.staged hs) (hp.trans (staged_of_noStaged hs n)), h.bytes⟩

/-! ### Columns -/

theorem length_cellRead (m : List Host.Cell) (a n : Nat) : (cellRead m a n).length = n := by
  induction n generalizing a with
  | zero => rfl
  | succ n ih => rw [cellRead, List.length_cons, ih]

theorem length_colData (data : List Byte) (errs : List (Nat × Nat)) (fix : Option Nat) :
    (colData data errs fix).length = data.length := by
  have hfold : ∀ (l : List (Nat × Nat)) (d : List Byte), (l.foldl (fun acc e =>
      if e.1 ≥ 4 ∧ e.1 < 36 then acc.set (e.1 - 4) (acc.getD (e.1 - 4) 0 ^^^ BitVec.ofNat 8 e.2) else acc) d).length = d.length := by
    intro l
    induction l with
    | nil => exact fun _ => rfl
    | cons e l ih =>
      intro d
      rw [List.foldl_cons, ih]
      split
      · exact List.length_set
      · rfl
  unfold colData
  dsimp only
  split
  · split
    · rw [List.length_set, hfold]
    · exact hfold errs data
  · exact hfold errs data

theorem length_colRead (s : State) (cell : Nat) : (colRead s cell).1.length = 32 := by
  unfold colRead
  dsimp only
  repeat' split
  all_goals simp [length_cellRead, length_colData]

theorem bucketEvent_memo (s : State) (span cls idx bank addr : Nat) : (bucketEvent s span cls idx bank addr).memo = s.memo := by
  unfold bucketEvent
  dsimp only
  split
  · exact elogAdd_memo _ _
  · rfl

/-- Logging an error changes the controller's list of logged columns alone. -/
theorem memo_logUe (s : State) (cell cls sym : Nat) :
    (logUe s cell cls sym).memo = s.memo ∨ ∃ l, (logUe s cell cls sym).memo
      = (Machine.putPcc s (cellCtl s cell) { getPcc s (cellCtl s cell) with logged := l }).memo := by
  unfold logUe
  dsimp only
  split
  · exact .inl rfl
  · refine .inr ⟨(cell / 32 :: (getPcc s (cellCtl s cell)).logged).take 256, ?_⟩
    split
    · refine (elogAdd_memo _ _).trans ?_
      exact elogAdd_memo _ _
    · exact elogAdd_memo _ _

theorem LineOnly.logUe (s : State) (cell cls sym : Nat) : LineOnly line s (logUe s cell cls sym) := by
  rcases memo_logUe s cell cls sym with h | ⟨l, h⟩
  · exact .of_memo (congrArg MemSt.mem h) (congrArg MemSt.pccs h)
  · refine LineOnly.trans (LineOnly.putPcc (p := { getPcc s (cellCtl s cell) with logged := l }) (.refl s) (cellCtl s cell) rfl)
      (.of_memo (congrArg MemSt.mem h) (congrArg MemSt.pccs h))

theorem LineOnly.colRead (s : State) (cell : Nat) : LineOnly line s (colRead s cell).2.2 := by
  unfold Machine.colRead
  dsimp only
  repeat' split
  · exact .refl s
  · exact .refl s
  · exact .refl s
  · exact .of_memo (by rw [bucketEvent_memo]) (by rw [bucketEvent_memo])
  · exact .logUe s _ _ _
  · exact .refl s
  · exact .logUe s _ _ _

theorem LineOnly.colSeal (s : State) (cell : Nat) {data : List Byte} (pois : Bool) (hdata : data.length ≤ 32) :
    LineOnly (cell / 128) s (colSeal s cell data pois) := by
  cases pois with
  | true =>
    have h : LineOnly (cell / 128) s (setPoison (setErrs s (cell / 32) []) (cell / 32) true) := .of_memo rfl rfl
    exact h.putPcc (cellCtl s cell) rfl
  | false =>
    have h : LineOnly (cell / 128) s { setPoison (setErrs s (cell / 32) []) (cell / 32) false with
        memo := { (setPoison (setErrs s (cell / 32) []) (cell / 32) false).memo with
          mem := cellWrite s.memo.mem (cell / 32 * 32) data } } :=
      ⟨id, fun a ha => cellGet_write_ne _ _ _ _ (by omega)⟩
    exact h.putPcc (cellCtl s cell) rfl

theorem LineOnly.flipApply (s : State) (cell : Nat) (path : WPath) : LineOnly line s (flipApply s cell path) := by
  unfold Machine.flipApply
  dsimp only
  repeat' split
  all_goals exact .of_memo rfl rfl

theorem LineOnly.colMerge (s : State) (col : Nat) {new : List Byte} (mask : Nat) (hnew : new.length ≤ 32) :
    LineOnly (col / 4) s (colMerge s col new mask) := by
  have hline : col * 32 / 128 = col / 4 := by omega
  have hmerge : ∀ old : List Byte, (byteMerge old new mask).length = old.length := fun old => by simp [byteMerge]
  unfold Machine.colMerge
  extract_lets cell r
  split
  · exact .refl s
  · split
    · exact hline ▸ LineOnly.colSeal s cell false hnew
    · split
      · exact .refl s
      · split
        · have hold : (byteMerge (colRaw s cell) new mask).length = 32 := by
            rw [hmerge, colRaw, length_colData, length_cellRead]
          exact hline ▸ LineOnly.colSeal s cell false (Nat.le_of_eq hold)
        · split
          · exact .of_memo rfl rfl
          · have hread : (byteMerge r.1 new mask).length = 32 := (hmerge r.1).trans (length_colRead s cell)
            exact (LineOnly.colRead s cell).trans (hline ▸ LineOnly.colSeal r.2.2 cell false (Nat.le_of_eq hread))

theorem LineOnly.colWrite (s : State) (cell : Nat) {data : List Byte} (hdata : cell % 32 + data.length ≤ 32) :
    LineOnly (cell / 128) s (colWrite s cell data) := by
  have hline : cell / 32 / 4 = cell / 128 := by omega
  exact hline ▸ LineOnly.colMerge s (cell / 32) _ (by simpa using hdata)

end Sys2Proof.Machine
end

section
/-!
SUPPORT. Writes of lines (R228, R232, R267, R531) while no ordered update is staged, and writes from a column-aligned device
address: only bytes of the lines that they name change.
-/
namespace Sys2Proof.Machine

variable {line : Nat}

/-! ### One line -/

/-- The line may be given by another expression. -/
theorem LineOnly.of_line {l : Nat} {s t : State} (h : LineOnly l s t) (hl : l = line) : LineOnly line s t := hl ▸ h

theorem LineOnly.redCols {s₀ s : State} (l : RedLine) (k : Nat) (h : LineOnly l.line s₀ s) (hk : k ≤ 4) :
    LineOnly l.line s₀ (redCols l k s) := by
  induction k with
  | zero => exact h
  | succ k ih =>
    have hs := ih (by omega)
    have hline : (128 * l.line + 32 * k) / 128 = l.line := by omega
    unfold Machine.redCols
    dsimp only
    split
    · exact hs
    · refine LineOnly.trans ?_ (.flipApply _ _ _)
      split
      · exact hs.trans ((LineOnly.colSeal _ (128 * l.line + 32 * k) (data := []) true (by decide)).of_line hline)
      · refine hs.trans (LineOnly.of_line (LineOnly.colWrite _ (128 * l.line + 32 * k) ?_) hline)
        rw [List.length_take]
        omega

theorem LineOnly.ownAccess (s : State) (kind : ReplayKind) (cell : Nat) : LineOnly line s (ownAccess s kind cell) := by
  unfold Machine.ownAccess
  dsimp only
  split
  · have h1 : LineOnly line s (Machine.putPcc s (cellCtl s cell) { getPcc s (cellCtl s cell) with
        openRows := put (getPcc s (cellCtl s cell)).openRows (cellBank cell) (cellRow s cell) }) := (LineOnly.refl s).putPcc _ rfl
    refine h1.trans ?_
    unfold replayAdd
    exact (LineOnly.refl _).putPcc _ rfl
  · exact .refl s

theorem LineOnly.redWriteBack (s : State) (n line : Nat) : LineOnly line s (redWriteBack s n line) := by
  unfold Machine.redWriteBack
  dsimp only
  split
  · exact .refl s
  · next l hl =>
    obtain rfl : l.line = line := by simpa using List.find?_some hl
    refine .redCols l 4 ?_ (Nat.le_refl 4)
    have h1 : LineOnly l.line s (Machine.putPcc s n { getPcc s n with red := (getPcc s n).red.filter (fun x => x.line ≠ l.line) }) :=
      (LineOnly.refl s).putPcc n rfl
    split
    · exact h1
    · exact h1.trans (.ownAccess _ _ _)

/-- Where nothing is staged, nothing settles. -/
theorem settleLine_of_noStaged {s : State} (h : noStaged s = true) (line : Nat) : settleLine s line = s := by
  have hmine : stagedAt s line = [] := by
    unfold stagedAt
    rw [staged_of_noStaged h, List.filter_nil, List.nil_append, List.flatMap_eq_nil_iff]
    intro p hp
    have hempty := List.all_eq_true.mp h p (List.mem_filter.mp hp).1
    rw [List.isEmpty_iff.mp hempty, List.filter_nil]
  unfold settleLine
  rw [hmine]
  rfl

theorem cellsWriteGo_nil (path : WPath) (first : Bool) (k : Nat) (s : State) (cell : Nat) :
    cellsWriteGo path first k s cell [] = s := by
  cases k <;> rfl

theorem LineOnly.cellsWriteGo {s₀ s : State} {cell : Nat} (path : WPath) (first : Bool) (k : Nat) {data : List Byte}
    (hcell : cell % 32 = 0) (hdata : data.length ≤ 32) (h : LineOnly (cell / 128) s₀ s) :
    LineOnly (cell / 128) s₀ (cellsWriteGo path first k s cell data) := by
  cases k with
  | zero => exact h
  | succ k =>
    have hw : LineOnly (cell / 128) s₀ (Machine.colWrite s cell (data.take (32 - cell % 32))) :=
      h.trans (LineOnly.colWrite (data := data.take (32 - cell % 32)) s cell (by rw [List.length_take]; omega))
    unfold Machine.cellsWriteGo
    dsimp only
    split
    · exact h
    · rw [List.drop_eq_nil_of_le (by omega), cellsWriteGo_nil]
      split
      · exact hw.trans (.flipApply _ _ _)
      · exact hw

theorem LineOnly.pocWrite {s : State} {cell : Nat} {data : List Byte} (hs : noStaged s = true) (hcell : cell % 32 = 0)
    (hdata : data.length ≤ 32) : LineOnly (cell / 128) s (pocWrite s cell data) := by
  unfold Machine.pocWrite
  dsimp only
  rw [settleLine_of_noStaged hs]
  exact .cellsWriteGo _ _ _ hcell hdata (.redWriteBack _ _ _)

theorem LineOnly.pocPoison {s : State} (cell : Nat) (hs : noStaged s = true) : LineOnly (cell / 128) s (pocPoison s cell) := by
  have hline : cell / 32 * 32 / 128 = cell / 128 := by omega
  unfold Machine.pocPoison
  dsimp only
  rw [settleLine_of_noStaged hs]
  split
  · exact .redWriteBack _ _ _
  · have hseal := fun u => (LineOnly.colSeal u (cell / 32 * 32) (data := []) true (by decide)).of_line hline
    exact ((LineOnly.redWriteBack _ _ _).trans (hseal _)).trans (.flipApply _ _ _)

/-! ### From a device address -/

/-- Between two states no ordered update has been staged, and the byte at an address is the same one. -/
structure ByteKept (a : Nat) (s t : State) : Prop where
  staged : noStaged s = true → noStaged t = true
  byte : noStaged s = true → cellGet t.memo.mem a = cellGet s.memo.mem a
  fuse : t.fuse = s.fuse

theorem ByteKept.refl (a : Nat) (s : State) : ByteKept a s s := ⟨id, fun _ => rfl, rfl⟩

theorem ByteKept.trans {a : Nat} {s t u : State} (h : ByteKept a s t) (g : ByteKept a t u) : ByteKept a s u :=
  ⟨fun hs => g.staged (h.staged hs), fun hs => (g.byte (h.staged hs)).trans (h.byte hs), g.fuse.trans h.fuse⟩

/-- Neither the fuses nor the memory system differ. -/
theorem ByteKept.of_memo {a : Nat} {s t : State} (hm : t.memo = s.memo) (hf : t.fuse = s.fuse) : ByteKept a s t :=
  ⟨fun h => by unfold noStaged at h ⊢; rwa [hm], fun _ => by rw [hm], hf⟩

/-- No byte of a stretch of device memory stands in the line of an address. -/
def apart (s : State) (a da n : Nat) : Prop := ∀ k, k < n → a / 128 ≠ cellOf s false (da + k) / 128

theorem cellOf_congr {s t : State} (h : t.fuse = s.fuse) (intlv : Bool) (da : Nat) : cellOf t intlv da = cellOf s intlv da := by
  unfold cellOf stackCap
  rw [h]

theorem apart_congr {s t : State} (h : t.fuse = s.fuse) {a da n : Nat} : apart t a da n ↔ apart s a da n := by
  unfold apart
  simp only [cellOf_congr h]

/-- The first byte of a column of device memory is one of a column of its stack. -/
theorem cellOf_mod_column (s : State) {da : Nat} (hda : da % 32 = 0) : cellOf s false da % 32 = 0 := by
  unfold cellOf stackCap
  simp only [Bool.false_eq_true, if_false]
  split <;> omega

theorem fuse_of_pageView {s t : State} (h : pageView t = pageView s) : t.fuse = s.fuse := congrArg (fun v => v.rest.fuse) h

theorem byteKept_column {s t : State} {a cell : Nat} (ha : a / 128 ≠ cell / 128)
    (h : noStaged s = true → LineOnly (cell / 128) s t) (hf : t.fuse = s.fuse) : ByteKept a s t :=
  ⟨fun hs => (h hs).staged hs, fun hs => (h hs).bytes a ha, hf⟩

theorem byteKept_daWriteGo (bad : List Nat) (k : Nat) {s : State} {da a : Nat} {data : List Byte} (c : Nat) (hda : da % 32 = 0)
    (ha : apart s a da data.length) : ByteKept a s (daWriteGo bad k s da data c) := by
  induction k generalizing s da data c with
  | zero => exact .refl a s
  | succ k ih =>
    unfold daWriteGo
    dsimp only
    split
    · exact .refl a s
    · next hne =>
      have hlen : 0 < data.length := by
        cases data with
        | nil => exact absurd rfl hne
        | cons b l => exact Nat.succ_pos _
      have hfirst : a / 128 ≠ cellOf s false da / 128 := ha 0 hlen
      have hcol : ByteKept a s (if (bad.contains c && decide (data.length ≥ 32)) = true then pocPoison s (cellOf s false da)
          else pocWrite s (cellOf s false da) (data.take 32)) := by
        split
        · exact byteKept_column hfirst (.pocPoison _) (fuse_of_pageView (pageView_pocPoison _ _))
        · exact byteKept_column hfirst (fun hs => .pocWrite hs (cellOf_mod_column s hda) (by rw [List.length_take]; omega))
            (fuse_of_pageView (pageView_pocWrite _ _ _))
      refine hcol.trans (ih (c + 1) (by omega) ((apart_congr hcol.fuse).mpr fun j hj => ?_))
      rw [List.length_drop] at hj
      have hj' := ha (32 + j) (by omega)
      rwa [← Nat.add_assoc] at hj'

theorem byteKept_daWrite {s : State} {da a : Nat} {data : List Byte} (bad : List Nat) (hda : da % 32 = 0)
    (ha : apart s a da data.length) : ByteKept a s (daWrite s da data bad) := byteKept_daWriteGo bad _ 0 hda ha

end Sys2Proof.Machine
end

section
/-!
SUPPORT. Pages copied back from the host (R377), while no ordered update is staged: only bytes of the pages' own lines and of the
page list's change, where each piece of a block begins at a column. So O53 holds exactly where no model has a pool.
-/
namespace Sys2Proof.Machine

/-! ### Blocks filled from their copies -/

theorem byteKept_fillBlock (size : Nat) (bad : List Nat) {l : List Nat} {s : State} {a : Nat} (data : List Byte) (k : Nat)
    (hcol : ∀ da ∈ l, da % 32 = 0) (ha : ∀ da ∈ l, apart s a da size) : ByteKept a s (fillBlock size bad l s data k) := by
  induction l generalizing s data k with
  | nil => exact .refl a s
  | cons da r ih =>
    unfold fillBlock
    dsimp only
    have hpiece : ByteKept a s (daWrite s da (data.take size)
        ((bad.filter (fun c => decide (k ≤ c) && decide (c < k + size / 32))).map (· - k))) :=
      byteKept_daWrite _ (hcol da List.mem_cons_self) (fun j hj => ha da List.mem_cons_self j (by
        rw [List.length_take] at hj
        omega))
    exact hpiece.trans (ih _ _ (fun d hd => hcol d (List.mem_cons_of_mem _ hd))
      (fun d hd => (apart_congr hpiece.fuse).mpr (ha d (List.mem_cons_of_mem _ hd))))

/-- The blocks of a page of a model begin their pieces at columns, and none has a byte in the line of an address. -/
def blocksApart (s : State) (a m page : Nat) : Prop := ∀ b ∈ s.srv.blocks, b.model = m → b.page = page →
  ∀ da ∈ b.das, da % 32 = 0 ∧ apart s a da (pieceBytes m)

theorem CopiesOnly.blocksApart {s t : State} (h : CopiesOnly s t) {a m page : Nat} (hs : blocksApart s a m page) :
    blocksApart t a m page := by
  intro b hb hm hp da hda
  rw [h.srv] at hb
  obtain ⟨hcol, ha⟩ := hs b hb hm hp da hda
  exact ⟨hcol, (apart_congr h.same.fuse).mpr ha⟩

theorem byteKept_swapBlockIn {m page : Nat} {s : State} {a : Nat} (i : Nat) (h : blocksApart s a m page) :
    ByteKept a s (swapBlockIn m page s i) := by
  unfold swapBlockIn
  split
  · next b c w hb _ _ =>
    split
    · exact .of_memo (elogAdd_memo _ _) (fuse_of_pageView (pageView_hostReadLost s _))
    · have hfound := List.find?_some hb
      simp only [Bool.and_eq_true, beq_iff_eq] at hfound
      obtain ⟨⟨hmodel, -⟩, hpage⟩ := hfound
      have hblock := h b (List.mem_of_find?_eq_some hb) hmodel hpage
      exact (byteKept_fillBlock _ _ _ _ (fun da hda => (hblock da hda).1) (fun da hda => (hblock da hda).2)).trans (.of_memo rfl rfl)
  · exact .refl a s

/-- What holds of each step of a walk over a list holds of the walk. -/
theorem byteKept_foldl {α : Type} {g : State → α → State} {a : Nat} {P : State → α → Prop} (hcopies : ∀ t x, CopiesOnly t (g t x))
    (hP : ∀ s t x, CopiesOnly s t → P s x → P t x) (hg : ∀ t x, P t x → ByteKept a t (g t x)) (l : List α) {s : State}
    (h : ∀ x ∈ l, P s x) : ByteKept a s (l.foldl g s) := by
  induction l generalizing s with
  | nil => exact .refl a s
  | cons x r ih =>
    exact (hg s x (h x List.mem_cons_self)).trans
      (ih (fun y hy => hP _ _ y (hcopies s x) (h y (List.mem_cons_of_mem _ hy))))

theorem byteKept_swapPageIn {m page : Nat} {s : State} {a : Nat} (h : blocksApart s a m page) :
    ByteKept a s (swapPageIn m s page) :=
  byteKept_foldl (P := fun t _ => blocksApart t a m page) (fun t i => swapBlockIn_copiesOnly m page t i)
    (fun _ _ _ hc hs => hc.blocksApart hs) (fun _ i ht => byteKept_swapBlockIn i ht) _ (fun _ _ => h)

theorem byteKept_pagesIn {r : Req} {s : State} {a : Nat} (h : ∀ page ∈ ownPages r, blocksApart s a r.model page) :
    ByteKept a s (pagesIn r s) :=
  byteKept_foldl (P := fun t page => blocksApart t a r.model page) (fun t page => foldl_swapPageIn_copiesOnly r.model [page] t)
    (fun _ _ _ hc hs => hc.blocksApart hs) (fun _ _ ht => byteKept_swapPageIn ht) _ h

/-! ### The page list -/

theorem length_leBytes (n v : Nat) : (leBytes n v).length = n := by
  induction n generalizing v with
  | zero => rfl
  | succ n ih => rw [leBytes, List.length_cons, ih]

theorem length_pageList (l : List Nat) : (l.flatMap (leBytes 4)).length = 4 * l.length := by
  induction l with
  | nil => rfl
  | cons p l ih =>
    rw [List.flatMap_cons, List.length_append, length_leBytes, ih, List.length_cons]
    omega

theorem byteKept_jobDone (a : Nat) (s : State) (id : Nat) : ByteKept a s (jobDone s id) := by
  rw [jobDone_eq]
  exact .of_memo rfl rfl

/-- A sequence made resident again changes no byte outside the lines of its page list and of its own pages' pieces, where each of
these begins at a column. -/
theorem byteKept_madeResident {r : Req} {s : State} {a : Nat} (idx : Nat) (hin : ByteKept a s (pagesIn r s))
    (hlist : apart s a (128 * Config.pageListAddr idx) (4 * r.pages.length)) : ByteKept a s (madeResident idx r s) := by
  have hput : ByteKept a s (putReq (jobDone (pagesIn r s) r.job) { r with kv := .resident, job := 0 }) :=
    (hin.trans (byteKept_jobDone a _ _)).trans (.of_memo rfl rfl)
  refine hput.trans (byteKept_daWrite _ (by omega) ?_)
  rw [length_pageList]
  exact (apart_congr hput.fuse).mpr hlist

variable {idx a : Nat} {r : Req} {s t : State}

/-- Where the pages' copying back keeps a byte, so does the whole step. -/
theorem byteKept_kvSwapInDone (hrun : running s = true) (hr : getReq s idx = some r) (hkv : r.kv = .swappingIn)
    (hexec : exec (.kvSwapInDone idx) s = .next t) (hin : ByteKept a s (pagesIn r s))
    (hlist : apart s a (128 * Config.pageListAddr idx) (4 * r.pages.length)) : ByteKept a s t := by
  obtain ⟨u, hu, -, hleft, hback, -⟩ := kvSwapInDone_spec hrun hr hkv
  cases hu.symm.trans hexec
  cases hc : copiesLeft (pagesIn r s) r with
  | true =>
    rw [(hleft hc).1]
    exact hin
  | false =>
    rw [(hback hc).2]
    exact byteKept_madeResident idx hin hlist

/-- What O53 says of memory holds where the pieces of the sequence's own pages begin at columns. -/
theorem cellGet_kvSwapInDone_of_columns (hrun : running s = true) (hr : getReq s idx = some r) (hkv : r.kv = .swappingIn)
    (hexec : exec (.kvSwapInDone idx) s = .next t) (hs : noStaged s = true)
    (hcol : ∀ b ∈ s.srv.blocks, b.model = r.model → b.page ∈ ownPages r → ∀ da ∈ b.das, da % 32 = 0)
    (hlist : apart s a (128 * Config.pageListAddr idx) (4 * r.pages.length))
    (hblocks : ∀ b ∈ s.srv.blocks, b.model = r.model → b.page ∈ ownPages r → ∀ da ∈ b.das, apart s a da (pieceBytes r.model)) :
    cellGet t.memo.mem a = cellGet s.memo.mem a := by
  refine (byteKept_kvSwapInDone hrun hr hkv hexec (byteKept_pagesIn fun page hpage b hb hm hp da hda => ?_) hlist).byte hs
  subst hp
  exact ⟨hcol b hb hm hpage da hda, hblocks b hb hm hpage da hda⟩

/-! ### O53 and the pools -/

/-- A model without a pool has no pages to copy back. -/
theorem pagesIn_of_no_pool {r : Req} (h : Config.kvPools r.model = []) (s : State) : pagesIn r s = s := by
  have hpage : ∀ t page, swapPageIn r.model t page = t := fun t page => by
    unfold swapPageIn
    rw [h]
    rfl
  unfold pagesIn
  generalize ownPages r = l
  induction l with
  | nil => rfl
  | cons page l ih => rw [List.foldl_cons, hpage, ih]

theorem servingPreparesStepsAndSwapsPages_of_no_pool (hpools : ∀ m, Config.kvPools m = []) :
    Obligations.ServingPreparesStepsAndSwapsPages := by
  unfold Obligations.ServingPreparesStepsAndSwapsPages
  refine ⟨fun g x gen s hrun hready hx => ?_, fun idx r s hrun hr =>
    ⟨fun hready => ?_, fun hready => ?_, fun hkv hat => ?_, fun hkv => ?_⟩⟩
  · obtain ⟨t, y, hexec, hspec, herr, hfail⟩ := preparation_spec g x gen s hrun hready hx
    obtain ⟨hmodel, hbatch, harea⟩ := hspec.kept
    obtain ⟨hwait, hfired, herrs, hran⟩ := hspec.clear
    refine ⟨t, y, hexec, hspec.group, hmodel, hbatch, harea, hspec.noEntries, hspec.frame, hwait, hfired, herrs, hran, hspec.arms,
      hspec.sound.generation, hspec.sound.prompts, herr, fun h q hq => ?_, hspec.others, (same_of_quiet hspec.rest).mono (by decide)⟩
    obtain ⟨q₀, hq₀, hf⟩ := hfail h q hq
    exact ⟨q₀, hq₀, hf.idx, hf.count rfl⟩
  · obtain ⟨t, hexec, hself, hothers, hspec⟩ := kvSwapOut_spec hrun hr hready
    exact ⟨t, hexec, hself, hothers, hspec.copies, hspec.item, hspec.blocks, hspec.next, hspec.same⟩
  · exact kvSwapOutDone_spec hrun hr hready
  · exact kvSwapIn_spec hrun hr hkv hat
  · obtain ⟨t, hexec, hothers, hleft, hback, hsame⟩ := kvSwapInDone_spec hrun hr hkv
    have hin : ∀ a, ByteKept a s (pagesIn r s) := fun a => by
      rw [pagesIn_of_no_pool (hpools r.model)]
      exact .refl a s
    refine ⟨t, hexec, hothers, hleft, hback, fun hs a hlist _ => ?_, hsame⟩
    exact (byteKept_kvSwapInDone hrun hr hkv hexec (hin a) hlist).byte hs

/-- O53 stays unsettled: it says no more and no less than that no model has a pool, and whether one has is a free value of the
model. -/
theorem servingPreparesStepsAndSwapsPages_iff :
    Obligations.ServingPreparesStepsAndSwapsPages ↔ ∀ m, Config.kvPools m = [] :=
  ⟨kvPools_eq_nil_of_servingPreparesStepsAndSwapsPages, servingPreparesStepsAndSwapsPages_of_no_pool⟩

end Sys2Proof.Machine
end
